-- ==== Sys2Proof/Word.lean ====
section
/-! DEFINITION. The words of the device and the sparse table that holds addressed state. -/
namespace Sys2Proof

/-- A 32-bit register, instruction word or binary32 bit pattern. -/
abbrev Word := BitVec 32
/-- The smallest addressable unit of device memory (R5: multi-byte values are little-endian). -/
abbrev Byte := BitVec 8
/-- A sparse table: pairs of a key and a value, keys strictly rising, no entry equal to the
default that the table's reader names. -/
abbrev Tbl (α : Type) := List (Nat × α)

end Sys2Proof
end

