-- ==== Sys2Proof/Syntax.lean ====
section
/-! DEFINITION. The commands of the block: one constructor per row of the opcode table, with the
operands that the outside world supplies. -/
namespace Sys2Proof

/-- What a parting-line cycle carries, by class (R11, R12): a management word, a Sprue transfer and
its owner, or NoC data under a tag (with the command it belongs to). -/
structure PlCycle where
  /-- 0 management, 1 Sprue, 2 NoC data (Table 1.7, XFER_UE). -/
  cls : Nat
  /-- Partition that owns a Sprue transfer, or the 4-bit tag of NoC data. -/
  owner : Nat
  /-- Command identifier of a management-ring command whose data the cycle carries. -/
  cid : Nat
  /-- The management word, or the payload's first 8 bytes. -/
  word : BitVec 64
  /-- A cross-die register access that a management cycle carries: initiator, BAR0 offset, whether it writes. -/
  reg : Option (Nat × Nat × Bool)
  /-- Device address and length that NoC data is written to, where it is a write. -/
  dest : Option (Nat × Nat)
  deriving DecidableEq, Repr

/-- LD_PRE_UP and LD_PRE_DOWN: a pre-pass report (R259) of one collective of a partition. -/
structure PreMsg where
  part : Nat
  epoch : Nat
  /-- RIDX and STEP of the reduction. -/
  ridx : Nat
  step : Nat
  /-- Contributor-list position of the sender. -/
  pos : Nat
  e : Int
  nf : Bool
  flagger : Nat
  /-- Fingerprint of R258. -/
  fp : BitVec 64
  deriving DecidableEq, Repr

/-- LD_SEG: running sums of a shard (R262). -/
structure SegMsg where
  part : Nat
  epoch : Nat
  ridx : Nat
  step : Nat
  shard : Nat
  /-- Index in the whole tensor of the first sum. -/
  first : Nat
  /-- INT sums, or the counts of a ONEBIT reduction. -/
  sums : List Int
  /-- ONEBIT: the scale sums of the blocks that hold an entry of the segment. -/
  scales : List Int
  /-- Bits of a sum on the wire (R268). -/
  w : Nat
  deriving DecidableEq, Repr

/-- LD_GSEG: parameters of a shard (R270), BF16 patterns, or the owner's refusal (R271). -/
structure GSegMsg where
  part : Nat
  epoch : Nat
  /-- TENSOR_ID and GSTEP of the gather. -/
  tensor : Nat
  gstep : Nat
  shard : Nat
  first : Nat
  vals : List (BitVec 16)
  fp : BitVec 64
  /-- The owner answers STATE_CONFLICT (R271). -/
  conflict : Bool
  /-- A member has seen a fingerprint that differs from its own: the gather is cancelled (R258). -/
  cancel : Bool
  deriving DecidableEq, Repr

/-- LD_SEAL_UP and LD_SEAL_DOWN: a seal word (Table 11.4). -/
structure SealMsg where
  part : Nat
  /-- Rank of the sender in the member list. -/
  pos : Nat
  step : Nat
  epoch : Nat
  nf : Bool
  flagger : Nat
  digest : BitVec 64
  /-- Shared exponents by RIDX. -/
  exps : List (Nat × Int)
  /-- The members below agreed in STEP, EPOCH and EXP. -/
  agree : Bool
  deriving DecidableEq, Repr

/-- Why a lane fails (R356): corrected symbols counted in the window, signal lost, Assay's loopback, or every lane of
the port has lost signal (Table 16.5). -/
inductive LaneCause where
  | symbols (n : Nat)
  | signal
  | assay
  | all
  deriving DecidableEq, Repr

/-- An unacknowledged message of Ethernet carriage: TAG counts for each source, destination and virtual channel. -/
structure EthKey where
  src : Nat
  dst : Nat
  vc : Nat
  tag : Nat
  deriving DecidableEq, Repr

/-- A scan of a die's boundary register: the pins that it captures, and the cells as they are then shifted in. -/
structure BoundaryScan where
  die : Nat
  pins : List Bool
  cells : List Bool
  deriving DecidableEq, Repr

/-- A write of a header register, with the events that the block's hardware sets in the same cycle (R36). -/
structure HdrWrite where
  v : Word
  hw : Word
  /-- Partitions whose format-health limit passes in the cycle, where FH_ALERT is among the events (R66). -/
  parts : Nat
  deriving DecidableEq, Repr

/-- The commands. `init` numbers an initiator of R26: 0 BAR0, 1 the management ring, 2 + p the ring
of partition p, 10 and 11 the management cores, 12 JTAG. `u` numbers a sequencer: 0 to 95 the
physical clusters, 256 + t the physical tile t. -/
inductive Instr where
  /-- Assertion of SYS_RST_N for 1 µs or longer performs a full device reset (R370). -/
  | sysRstNAssert (ns : Nat)
  /-- Release of SYS_RST_N samples PRIMARY_SEL and starts bring-up at phase 1 (R371). -/
  | sysRstNRelease (selW selE : Bool)
  /-- Assertion of PCIE_PERST_N, or a secondary bus reset, performs a full device reset (R370). -/
  | pciePerstNAssert (ns : Nat) (secondaryBus : Bool)
  /-- Bring-up phase 1 ends when the management, NoC and Crucible PLLs have locked (R371). -/
  | pllLock (maskW maskE : Nat)
  /-- Bring-up phase 3 runs every Assay target once (R393). -/
  | assayFull (fails : List (Nat × Nat))
  /-- Bring-up phase 4 trains the 12 stacks, withdraws failed channels, and zeroes and frees every granule (R371). -/
  | stackTraining (failedStacks failedChannels : List Nat)
  /-- Bring-up phase 5 trains the parting line and maps up to 4 failed wires per group onto spares (R10). -/
  | partingLineTraining (failed : List (Nat × Nat × Nat))
  /-- A bring-up phase that fails or passes its limit keeps the device in RESET, asserts FAULT_N and records the boot cause (R372). -/
  | bringupPhaseTimeout (detail : Nat)
  /-- A write of 0x0000_A5A5 to MGT_W.DEV_RST performs a full device reset (R370). -/
  | devRst (init : Nat) (v : Word)
  /-- At each 100 µs management tick a die sends its authority word and judges the window for a mismatch or a claim conflict (R375). -/
  | authTick (die : Nat)
  /-- Arrival of a peer authority word with a valid CRC and SAFE at 1 makes the die enter SAFE at once (R375). -/
  | authWordReceived (die : Nat) (w : BitVec 64)
  /-- Every 100 µs the Pyrometer samples its sensors, updates package power and sets the die's thermal and power state (R391). -/
  | pyroSample (die : Nat) (samples : List Nat)
  /-- At each stack frame boundary the thermal governor compares the hottest DRAM sensor with its thresholds and sets the level (R216). -/
  | governorFrame (stack tDram tBase : Nat)
  /-- At each 10 ms multiple of GLB time in READY, Assay tests the next target of the rotation (R394). -/
  | assaySlice (relocking : Bool)
  /-- An in-service Assay failure acts by class: SAFE, channel withdrawal, lane sparing or port down (R395). -/
  | assayResult (target result : Nat)
  /-- A PLL that loses lock in READY puts the device into SAFE with cause 4 (R401). -/
  | pllUnlock (die dom : Nat)
  /-- A parting-line cycle is received and its CRC is checked; a failure is reported back, and a fourth failed send is settled as an uncorrectable transfer (R12). -/
  | plCycleReceived (die : Nat) (c : PlCycle) (crcOk : Bool)
  /-- The sender resends a failed parting-line cycle from its replay buffer (R12). -/
  | plResend (die cls : Nat)
  /-- A host write of SQ_TAIL rings the doorbell, and the device consumes the submitted slots in order (R330). -/
  | doorbell (init ring : Nat) (v : Word)
  /-- Setting or clearing RING_CFG.EN enables or disables a ring pair under its preconditions (R349). -/
  | ringCfgEn (init ring : Nat) (v : Word)
  /-- RING_CFG.RST restarts a submission ring, resetting SQ_HEAD, the expected SEQ and the negotiation (R335). -/
  | ringCfgRst (init ring : Nat) (v : Word)
  /-- A host write of CQ_HEAD frees completion-ring room, so waiting entries are written (R332). -/
  | cqHeadWrite (init ring : Nat) (v : Word)
  /-- Expiry of IRQ_MOD.TIMER since the first unreported entry fires the ring's MSI-X vector (R333). -/
  | irqTimer (ring : Nat)
  /-- HELLO negotiates a ring's version and features and is answered by HELLO_ACK (R337). -/
  | hello (ring : Nat) (msg : List Byte)
  /-- NOP consumes its sequence number and receives no response (R336). -/
  | nop (ring : Nat) (msg : List Byte)
  /-- FENCE is answered once every earlier message of its ring has been answered and earlier writes have taken effect (R341). -/
  | fence (ring : Nat) (msg : List Byte)
  /-- REG_READ reads 4 bytes at a BAR0 offset, within the sender's rights (R341). -/
  | regRead (ring : Nat) (msg : List Byte)
  /-- REG_WRITE writes 4 bytes at a BAR0 offset, within the sender's rights (R341). -/
  | regWrite (ring : Nat) (msg : List Byte)
  /-- PART_CFG assigns resources and shares to an EMPTY partition, making it CONFIGURED (R306). -/
  | partCfg (ring : Nat) (msg : List Byte)
  /-- PART_LOAD is the job start: spares enter, counters clear, and the partition becomes LOADED (R307). -/
  | partLoad (ring : Nat) (msg : List Byte)
  /-- PART_PAUSE stops command starts and quenches the running commands; the partition becomes PAUSED when all saves have completed (R321). -/
  | partPause (ring : Nat) (msg : List Byte)
  /-- PART_RESUME restarts scheduling of a paused partition (R321). -/
  | partResume (ring : Nat) (msg : List Byte)
  /-- PART_RELEASE sends a partition to DRAINING, or a CONFIGURED one to EMPTY (R348). -/
  | partRelease (ring : Nat) (msg : List Byte)
  /-- When the draining teardown completes with CANCELLED, granules are released and the partition becomes EMPTY (R348). -/
  | drainComplete (p : Nat)
  /-- PART_RESET returns a LOADED, idle RUNNING or FAULTED partition to CONFIGURED (R348). -/
  | partReset (ring : Nat) (msg : List Byte)
  /-- MEM_ALLOC assigns a list of free granules to a partition or to the teacher region, all or none (R423). -/
  | memAlloc (ring : Nat) (msg : List Byte)
  /-- MEM_FREE releases a list of granules to scrubbing, all or none (R423). -/
  | memFree (ring : Nat) (msg : List Byte)
  /-- Once the old owner's transactions to a released granule have completed, it enters scrubbing, or withdrawal when retired (R211). -/
  | granuleRelease (stack g : Nat)
  /-- The completion of a granule scrub sets its code to free and sets SCRUB_DONE (R211). -/
  | scrubDone (stack g : Nat)
  /-- MEM_COPY moves bytes between device addresses under the ring's tag (R344). -/
  | memCopy (p c : Nat)
  /-- TEACHER_SEAL seals the teacher region in four phases on every stack (R212). -/
  | teacherSeal (ring : Nat) (msg : List Byte)
  /-- TEACHER_UNSEAL returns every sealed teacher granule to unsealed (R213). -/
  | teacherUnseal (ring : Nat) (msg : List Byte)
  /-- A command at the head of its queue becomes ready and is chosen by deadline for its units, or waits for them (R313). -/
  | commandReady (p q : Nat)
  /-- A completed quench save frees the units, increments QUENCH_CNT and sends VENT_QUENCH_DONE (R319). -/
  | quenchSaveDone (p c : Nat)
  /-- A completed restore resumes the quenched command on the same logical units (R319). -/
  | quenchRestoreDone (p c : Nat)
  /-- A command that has run to completion writes its response, with its flags, NSTAT and result (R342). -/
  | commandComplete (p c : Nat)
  /-- A new array clock frequency is applied at a command boundary of every cluster on the die (R20). -/
  | dvfsApply (die : Nat)
  /-- MG_GEMM computes a matrix product on a grid of Mould clusters (R114). -/
  | mgGemm (p c : Nat)
  /-- MG_ATTN_FWD computes streaming attention and the row log-sum-exp on the Mould (R117). -/
  | mgAttnFwd (p c : Nat)
  /-- MG_ATTN_BWD computes dQ, dK and dV in three barrier-separated phases (R118). -/
  | mgAttnBwd (p c : Nat)
  /-- MG_KERNEL loads and runs a partition's sequencer program on each cluster of a grid (R128). -/
  | mgKernel (p c : Nat)
  /-- MG_VEC runs one Tundish operation on tensors in stack memory (R179). -/
  | mgVec (p c : Nat)
  /-- CG_GEMM computes a matrix product on a grid of Crucible tiles, as teacher or lent student (R88). -/
  | cgGemm (p c : Nat)
  /-- CG_LOGIT computes the teacher's logits and delivers them to the Sprue as logit units (R97). -/
  | cgLogit (p c : Nat)
  /-- CG_ATTN computes streaming teacher attention on Crucible tiles (R94). -/
  | cgAttn (p c : Nat)
  /-- CG_VEC runs one Tundish operation on tile Tundish units (R179). -/
  | cgVec (p c : Nat)
  /-- CG_KERNEL runs a partition's sequencer program on Crucible tiles (R128). -/
  | cgKernel (p c : Nat)
  /-- A tile offers a finished logit unit to its home Sprue, which checks it (R184). -/
  | logitUnitOffer (p c i j : Nat)
  /-- The home Sprue admits a waiting unit once its admission conditions hold, forms its partial and folds it (R185). -/
  | sprueUnitAdmit (die p mb b j : Nat)
  /-- SP_LOSS forms a distillation loss and the student logit gradient in lock-step or top-k mode (R197). -/
  | spLoss (p c : Nat)
  /-- SP_FEAT forms a feature-matching loss and its gradient (R196). -/
  | spFeat (p c : Nat)
  /-- A Fumarole command starts from its stack queue on the units it needs once they are free (R217). -/
  | fmQueueStart (stack p : Nat)
  /-- FM_UPDATE applies the optimiser step to a list of flasks once its step is sealed (R222). -/
  | fmUpdate (p c : Nat)
  /-- The end of an update or checkpoint read on a flask lifts its mark, so waiting gathers, writes and saves proceed (R242). -/
  | flaskMarkRelease (p c stack g : Nat)
  /-- FM_AMAX scans a stored tensor for its amax and scale table (R226). -/
  | fmAmax (p c : Nat)
  /-- FM_GATHER copies indexed rows of a table (R227). -/
  | fmGather (p c : Nat)
  /-- FM_EF forms error-feedback sums, residuals or one-bit compression (R228). -/
  | fmEf (p c : Nat)
  /-- FM_ATTN computes attention of query rows over paged KV, optionally writing new K and V (R231). -/
  | fmAttn (p c : Nat)
  /-- FM_GEMV projects up to 16 vectors by a slab-stored weight (R232). -/
  | fmGemv (p c : Nat)
  /-- A transaction reaching a stack is checked against the granule's owner code and is served or refused (R210). -/
  | stackTransaction (tag addr len : Nat) (write : Bool) (data : List Byte) (ecc : Nat)
  /-- A Fumarole unit whose logic fails goes out of service and faults the partitions running on it (R235). -/
  | unitFail (stack unit code : Nat)
  /-- An uncorrectable or parity error in a Mould cluster enters the runtime failure record and faults the owning partition (R126). -/
  | coreFailure (cl kind idx : Nat)
  /-- An SP_UE or ARR_PAR error in a tile enters the runtime failure record and faults the owning partition (R104). -/
  | tileFailure (tile kind info : Nat)
  /-- An uncorrectable Sprue SRAM error faults every partition whose slice holds the segment (R202). -/
  | sprueSramUe (die seg : Nat)
  /-- An uncorrectable Ladle SRAM error faults every partition holding a buffer in the segment (R278). -/
  | ladleSramUe (die buf : Nat)
  /-- LD_REDUCE starts an exact integer reduction of a tensor to its shard owners (R257). -/
  | ldReduce (p c : Nat)
  /-- LD_GATHER delivers parameter shards from their owners to the receivers (R270). -/
  | ldGather (p c : Nat)
  /-- EPOCH_SET adopts a new membership epoch, cancelling earlier collectives and abandoning open steps (R274). -/
  | epochSet (ring : Nat) (msg : List Byte)
  /-- When a member makes no progress for LOSS_TO or has no route, it is counted lost and VENT_MEMBER_CHANGE is sent (R273). -/
  | memberLost (p dev : Nat)
  /-- A device sends PROBE to a member from which nothing has arrived for LOSS_TO/4 (R366). -/
  | probeDue (p dev : Nat)
  /-- STEP_CFG sets the step state, the job seed, the tap ring and the step options (R240). -/
  | stepCfg (p c : Nat)
  /-- STEP_OPEN opens step s with its count of reductions (R241). -/
  | stepOpen (p c : Nat)
  /-- STEP_SEAL asks for step s to be sealed, with optional replay and force (R243). -/
  | stepSeal (p c : Nat)
  /-- Once STEP_SEAL is accepted, the step's reductions are done and the previous step is sealed, the device offers its seal word (R243). -/
  | sealEntry (p : Nat)
  /-- Completion of the seal exchange fixes DECISION, writes the tap record, sends the step Vent and completes STEP_SEAL (R244). -/
  | sealComplete (p : Nat)
  /-- Expiry of SEAL_TO before the exchange completes abandons the step with TIMEOUT and sets BROKEN (R245). -/
  | sealTimeout (p : Nat)
  /-- TAP_RELEASE frees tap records, letting a held record and the next seal proceed (R250). -/
  | tapRelease (ring : Nat) (msg : List Byte)
  /-- CKPT_SAVE copies a partition's granules and a manifest to host memory or fabric storage (R251). -/
  | ckptSave (p c : Nat)
  /-- CKPT_LOAD writes a checkpoint back into the partition's granules (R252). -/
  | ckptLoad (p c : Nat)
  /-- SV_CFG sets or clears a partition's serving configuration and carves its KV groups (R281). -/
  | svCfg (ring : Nat) (msg : List Byte)
  /-- SV_VARIANT_LOAD copies a resident variant's weights into the partition's granules (R283). -/
  | svVariantLoad (p c : Nat)
  /-- SV_SUBMIT accepts a serving request into the QUEUED state (R288). -/
  | svSubmit (ring : Nat) (msg : List Byte)
  /-- SV_CANCEL marks a request to end at the next step boundary (R299). -/
  | svCancel (ring : Nat) (msg : List Byte)
  /-- SV_FORGET releases a kept conversation at the next boundary (R300). -/
  | svForget (ring : Nat) (msg : List Byte)
  /-- A serving step boundary releases, expires, grants growth, admits joins, evicts, and then issues the next step (R294). -/
  | stepBoundary (p : Nat)
  /-- After verification, each running sequence walks its tree to choose tokens, and its pages are relinked (R292). -/
  | servingWalk (p req : Nat) (logits student : List (List Word))
  /-- Completion of a copy of a kept or evicted sequence to the arena lets its groups return at the next boundary (R300). -/
  | kvCopyDone (p req : Nat)
  /-- Return of a readmitted sequence's pages from the arena lets it continue from PREFILL (R301). -/
  | kvRestoreDone (p req : Nat)
  /-- A faulting event starts the teardown of the partition in the order of Table 14.6 (R322). -/
  | partitionFault (p typ inst code : Nat)
  /-- Once no transaction of the partition is in flight, its SRAM is zeroed, its commands complete FAULTED and VENT_PART_FAULT is sent (R323). -/
  | teardownComplete (p : Nat)
  /-- An ALU instruction computes an integer result into a scalar register (R134). -/
  | alu (u : Nat)
  /-- An FPU instruction computes an f32 result into a scalar register (R134). -/
  | fpu (u : Nat)
  /-- CMP writes a predicate from a comparison of two scalar registers (R135). -/
  | cmp (u : Nat)
  /-- PLOG writes a predicate from predicate logic (R135). -/
  | plog (u : Nat)
  /-- SEL selects one of two scalar registers by a predicate (R135). -/
  | sel (u : Nat)
  /-- ADDI adds a sign-extended immediate (R134). -/
  | addi (u : Nat)
  /-- ANDI ANDs with a zero-extended immediate (R134). -/
  | andi (u : Nat)
  /-- ORI ORs with a zero-extended immediate (R134). -/
  | ori (u : Nat)
  /-- XORI XORs with a zero-extended immediate (R134). -/
  | xori (u : Nat)
  /-- SHI shifts a register by an immediate amount (R134). -/
  | shi (u : Nat)
  /-- LUI loads an immediate into the upper half of a register (R134). -/
  | lui (u : Nat)
  /-- CMPI writes a predicate from a comparison with an immediate (R135). -/
  | cmpi (u : Nat)
  /-- LDW loads a scalar word from scalar memory (R136). -/
  | ldw (u : Nat)
  /-- STW stores a scalar word to scalar memory (R136). -/
  | stw (u : Nat)
  /-- BR branches by a signed word offset (R137). -/
  | br (u : Nat)
  /-- BRP branches on a predicate (R137). -/
  | brp (u : Nat)
  /-- JAL saves the return address and branches (R137). -/
  | jal (u : Nat)
  /-- JR jumps to the word address in a register (R137). -/
  | jr (u : Nat)
  /-- DBNZ decrements a register and branches if the result is not zero (R137). -/
  | dbnz (u : Nat)
  /-- ARR issues one array pass on the cores of a mask or on the tile array (R139). -/
  | arr (u : Nat)
  /-- Once every target array has read an ARR's operands, its SIG_TOK is signalled (R138). -/
  | arrOperandsRead (u n : Nat)
  /-- DRN drains output rows through the output stage (R142). -/
  | drn (u : Nat)
  /-- Once every target of a DRN has written its rows, its SIG_TOK is signalled (R142). -/
  | drnRowsWritten (u n : Nat)
  /-- CYCLE passing a non-zero kernel budget raises the BUDGET exception (R151). -/
  | budget (u cycles : Nat)
  /-- RPUSH pushes one Runner descriptor, stalling while the queue is full (R146). -/
  | rpush (u : Nat)
  /-- The Runner starts the next queued descriptor once its wait token is taken, or refuses it (R120). -/
  | runnerDescriptorStart (u : Nat)
  /-- A descriptor completes when its last byte is written, and its signal token is given in order (R120). -/
  | runnerDescriptorDone (u : Nat)
  /-- WAIT waits while a credit token is 0 and then subtracts 1 (R121). -/
  | wait (u : Nat)
  /-- SIG adds 1 to a credit token, faulting on overflow (R121). -/
  | sig (u : Nat)
  /-- POLL takes a credit token if available and sets a predicate, never waiting (R147). -/
  | poll (u : Nat)
  /-- BAR increments the barrier count and waits for the grid (R148). -/
  | bar (u : Nat)
  /-- When every grid member has reached the barrier and its stores have completed, BAR completes on every member (R148). -/
  | barrierRelease (u : Nat)
  /-- The nop system function does nothing (R149). -/
  | sysNop (u : Nat)
  /-- HALT waits for issued work to complete and ends the program with status OK (R149). -/
  | halt (u : Nat)
  /-- TRAP raises the TRAP exception with a detail (R149). -/
  | trap (u : Nat)
  /-- BRK halts the sequencer for debug when debug access is open (R154). -/
  | brk (u : Nat)
  /-- RDSR reads a system register into a scalar register (R149). -/
  | rdsr (u : Nat)
  /-- WAITE waits until the selected engine conditions hold (R149). -/
  | waite (u : Nat)
  /-- A halt request or breakpoint takes effect at an instruction boundary after issued work completes (R154). -/
  | sequencerHalt (u : Nat)
  /-- Tundish ADD adds A and B element-wise (R162). -/
  | add (u : Nat)
  /-- Tundish SUB subtracts B from A element-wise (R162). -/
  | sub (u : Nat)
  /-- Tundish MUL multiplies A and B element-wise (R162). -/
  | mul (u : Nat)
  /-- Tundish MIN takes the element-wise minimum (R162). -/
  | min (u : Nat)
  /-- Tundish MAX takes the element-wise maximum (R162). -/
  | max (u : Nat)
  /-- Tundish FMA computes x·s + b with one rounding (R162). -/
  | fma (u : Nat)
  /-- Tundish FILL writes the scalar into every active element (R161). -/
  | fill (u : Nat)
  /-- Tundish CVT converts A to the format of Y with the scales selected (R164). -/
  | cvt (u : Nat)
  /-- Tundish NEG negates each element (R161). -/
  | neg (u : Nat)
  /-- Tundish ABS takes each element's magnitude (R161). -/
  | abs (u : Nat)
  /-- Tundish EXP2 computes exp2(x − b), correctly rounded (R165). -/
  | exp2 (u : Nat)
  /-- Tundish LOG2 computes log₂x, correctly rounded (R165). -/
  | log2 (u : Nat)
  /-- Tundish RECIP computes 1/x, correctly rounded (R165). -/
  | recip (u : Nat)
  /-- Tundish RSQRT computes 1/√x, correctly rounded (R165). -/
  | rsqrt (u : Nat)
  /-- Tundish CMPLT writes a mask of x < b (R161). -/
  | cmplt (u : Nat)
  /-- Tundish CMPLE writes a mask of x ≤ b (R161). -/
  | cmple (u : Nat)
  /-- Tundish CMPEQ writes a mask of x = b (R161). -/
  | cmpeq (u : Nat)
  /-- Tundish CMPNE writes a mask of x ≠ b (R161). -/
  | cmpne (u : Nat)
  /-- Tundish SELECT chooses x or b per element by the AUX mask (R161). -/
  | select (u : Nat)
  /-- Tundish MKCAUSAL writes a causal and length mask from a position record (R173). -/
  | mkcausal (u : Nat)
  /-- Tundish RSUM sums each row in fixed groups of eight (R166). -/
  | rsum (u : Nat)
  /-- Tundish RMAX takes each row's maximum (R167). -/
  | rmax (u : Nat)
  /-- Tundish RMIN takes each row's minimum (R167). -/
  | rmin (u : Nat)
  /-- Tundish RCNT counts each row's active elements (R167). -/
  | rcnt (u : Nat)
  /-- Tundish RARGMAX returns the lowest index of each row's maximum (R167). -/
  | rargmax (u : Nat)
  /-- Tundish RARGMIN returns the lowest index of each row's minimum (R167). -/
  | rargmin (u : Nat)
  /-- Tundish RMAXSUM computes each row's scaled maximum and sum of exponentials (R168). -/
  | rmaxsum (u : Nat)
  /-- Tundish CSUM sums each column in increasing row order (R166). -/
  | csum (u : Nat)
  /-- Tundish CMAX takes each column's maximum (R166). -/
  | cmax (u : Nat)
  /-- Tundish FANADD combines P FP32 partials in the fixed pairwise tree (R169). -/
  | fanadd (u : Nat)
  /-- Tundish SCALE forms block amaxes and σ tables from row maxima (R170). -/
  | scale (u : Nat)
  /-- Tundish COMPRESS packs each row's active elements to the left (R172). -/
  | compress (u : Nat)
  /-- Tundish EXPAND scatters packed elements to each row's active positions (R172). -/
  | expand (u : Nat)
  /-- Tundish PERMUTE reorders elements within rows by an index stream (R174). -/
  | permute (u : Nat)
  /-- Tundish GATHER copies rows of A selected by an index column (R174). -/
  | gather (u : Nat)
  /-- Tundish SOFTBLK performs one streaming-softmax block step, online or in LSE mode (R175). -/
  | softblk (u : Nat)
  /-- Tundish ATTN_NORM normalises attention output rows by run_sum (R176). -/
  | attnNorm (u : Nat)
  /-- A Tundish operation completes, ORs its flags into NSTAT and delivers its summary 8 cycles later (R177). -/
  | tundishOpComplete (u : Nat)
  /-- Setting PORT_CFG.TRAIN starts training of a fabric port (R351). -/
  | portCfgTrain (init port : Nat) (v : Word)
  /-- A native port that has trained at 112 Gb/s exchanges LINK_HELLO and comes up, retraining at 224 Gb/s if both ends allow it (R351). -/
  | portTrained (port : Nat)
  /-- Setting PORT_CFG.DOWN takes the port down with REASON 6 (R368). -/
  | portCfgDown (init port : Nat) (v : Word)
  /-- A write of PORT_CFG.MODE selects the port mode, or is discarded with CFG_ERR while the port is not down (R350). -/
  | portCfgModeWrite (init port : Nat) (v : Word)
  /-- A write of DEV_ID sets the device identifier, discarded while any port is not down (R366). -/
  | devIdWrite (init port : Nat) (v : Word)
  /-- A write of ETH_SEG sets the segment size, or is discarded with CFG_ERR when out of range (R360). -/
  | ethSegWrite (init port : Nat) (v : Word)
  /-- A write of ETH_RTO sets the resend time, or is discarded with CFG_ERR when out of range (R361). -/
  | ethRtoWrite (init port : Nat) (v : Word)
  /-- A received NAK makes the sender replay data flits from the named SEQ (R353). -/
  | flitNak (port seq : Nat)
  /-- A flit whose codeword or CRC fails is discarded with later flits, and one NAK is sent (R353). -/
  | flitReceiveFail (port : Nat) (undecodable : Bool)
  /-- A completed retrain resumes traffic and replays the replay buffer (R354). -/
  | retrainDone (port : Nat)
  /-- A lane whose corrected symbols exceed LANE_LIMIT or that loses signal fails and is spared, or the port goes down (R356). -/
  | laneFail (port lane : Nat) (cause : LaneCause)
  /-- A lane control flit names a lane to spare or a loopback hand-over, and both ends act on it (R356). -/
  | laneControl (port lane op : Nat)
  /-- A received Ethernet frame is checked and delivered as a segment, or discarded and counted (R359). -/
  | ethFrame (port half : Nat) (frame : List Byte)
  /-- Expiry of ETH_RTO resends an unacknowledged message, and after eight resends the destination has no route (R361). -/
  | ethResendTimeout (port : Nat) (tag : EthKey)
  /-- LINK_HELLO negotiates the link version and identifies the partner (R366). -/
  | linkHello (port : Nat) (msg : List Byte)
  /-- LINK_HELLO_ACK answers the partner's LINK_HELLO (R366). -/
  | linkHelloAck (port : Nat) (msg : List Byte)
  /-- An Ethernet ACK confirms receipt of every segment of a message (R361). -/
  | ack (port : Nat) (msg : List Byte)
  /-- A PROBE asks a member for a sign of life and is answered at once by PROBE_ACK (R366). -/
  | probe (port : Nat) (msg : List Byte)
  /-- PROBE_ACK answers a PROBE (R366). -/
  | probeAck (port : Nat) (msg : List Byte)
  /-- NO_ROUTE reports that a message could not reach its destination (R363). -/
  | noRoute (port : Nat) (msg : List Byte)
  /-- A pre-pass report travels up the tree and is combined (R259). -/
  | ldPreUp (port : Nat) (m : PreMsg)
  /-- The combined pre-pass values travel down the tree to every contributor (R259). -/
  | ldPreDown (port : Nat) (m : PreMsg)
  /-- A reduction segment of running sums arrives, is added to and passed on, or is restored at the owner (R262). -/
  | ldSeg (port : Nat) (m : SegMsg)
  /-- A gather segment arrives, is written and passed on unchanged (R270). -/
  | ldGseg (port : Nat) (m : GSegMsg)
  /-- A seal word travels up the member tree and is combined (R272). -/
  | ldSealUp (port : Nat) (m : SealMsg)
  /-- The combined seal word travels down to every member (R272). -/
  | ldSealDown (port : Nat) (m : SealMsg)
  /-- STORE_WRITE writes data into a fabric storage object (R367). -/
  | storeWrite (port : Nat) (msg : List Byte)
  /-- STORE_READ requests data from a fabric storage object (R367). -/
  | storeRead (port : Nat) (msg : List Byte)
  /-- STORE_DATA returns data for a STORE_READ (R367). -/
  | storeData (port : Nat) (msg : List Byte)
  /-- STORE_ACK answers a STORE_WRITE with its status (R367). -/
  | storeAck (port : Nat) (msg : List Byte)
  /-- A write to a register without behaviour of its own stores its value, subject to access, lock and domain rules (R39). -/
  | registerWrite (init off size : Nat) (v : BitVec 64)
  /-- A W1C write of BLK_EVT clears event bits and, for ERR, the error log (R38). -/
  | blkEvtClear (init page : Nat) (v : HdrWrite)
  /-- A write of BLK_EVT_SET forces event bits as a hardware set would (R36). -/
  | blkEvtSet (init page : Nat) (v : HdrWrite)
  /-- A write of BLK_EVT_EN enables event signalling to the management core (R37). -/
  | blkEvtEnWrite (init page : Nat) (v : Word)
  /-- Writing BLK_CTRL.SRST soft-resets the page and its block (R34). -/
  | srst (init page : Nat) (v : Word)
  /-- Writing BLK_CTRL.CNT_CLR sets BLK_EVT_CNT to 0 (R37). -/
  | cntClr (init page : Nat) (v : HdrWrite)
  /-- A write of a page's PERF_CLR clears its performance counters (R24). -/
  | perfClr (init page : Nat) (v : Word)
  /-- A read of GLB.FENCE completes only after every earlier write of its initiator has taken effect (R40). -/
  | glbFenceRead (init : Nat)
  /-- A read of a _LO register captures its _HI half for that initiator (R41). -/
  | loReadCapture (init off : Nat)
  /-- A write of a _HI register commits both halves of a 64-bit value (R41). -/
  | hiWriteCommit (init off : Nat) (v : Word)
  /-- A write of FH_CLR clears the format-health counts of one partition or all (R66). -/
  | fhClr (init die : Nat) (v : Word)
  /-- A write of the key to SPLOG_CLR empties the spare-use log (R397). -/
  | splogClr (init : Nat) (v : Word)
  /-- A write of PCFGp sets a partition's Sprue mode and slice use, under state and range checks (R200). -/
  | spruePcfgWrite (init die q : Nat) (v : Word)
  /-- A write of TRECp sets the top-k record temperature, under state and range checks (R200). -/
  | sprueTrecWrite (init die q : Nat) (v : Word)
  /-- A write of GOV_CFG sets the governor thresholds, clamped to their reset values and order (R237). -/
  | govCfgWrite (init stack : Nat) (v : Word)
  /-- A write of ARRAY_SET sets the array clock set point, or is discarded with CFG_ERR (R401). -/
  | arraySetWrite (init die : Nat) (v : Word)
  /-- A write of PROG_CMD starts an OTP word burn, or refuses it with PROG_ERR (R381). -/
  | progCmd (init die : Nat) (v : Word)
  /-- A burn ends after 40 µs with a margin verify, setting PROG_DONE or PROG_FAIL (R381). -/
  | otpBurnDone (die : Nat) (verified : Bool)
  /-- AUTH_CMD CHALLENGE shows a fresh nonce for debug challenge and response (R384). -/
  | challenge (init : Nat)
  /-- AUTH_CMD VERIFY_KEY checks the HMAC reply against the active key slot (R384). -/
  | verifyKey (init : Nat)
  /-- AUTH_CMD VERIFY_PWD checks the password bytes against PWD_DIGEST (R385). -/
  | verifyPwd (init : Nat)
  /-- AUTH_CMD CLOSE returns OPEN_AUTH to LOCKED (R386). -/
  | close (init : Nat)
  /-- RUN_CTRL halt requests a halt of the target sequencer (R154). -/
  | dbgHalt (init : Nat)
  /-- RUN_CTRL step runs one instruction of a halted sequencer (R154). -/
  | dbgStep (init : Nat)
  /-- RUN_CTRL resume restarts a halted sequencer (R154). -/
  | dbgResume (init : Nat)
  /-- RUN_CTRL arm breakpoint sets a halt at the BRK_ADDR instruction address (R154). -/
  | dbgArmBreakpoint (init : Nat)
  /-- A write of SEQ_DATA sets a halted sequencer's S, P or PC, or is refused (R389). -/
  | seqDataWrite (init : Nat) (v : Word)
  /-- SAMPLE/PRELOAD samples and preloads the boundary register (R398). -/
  | samplePreload (die : Nat) (pins preload : List Bool)
  /-- IDCODE selects the 32-bit identification register (R398). -/
  | idcode (die : Nat)
  /-- REG_ACCESS performs one register read or write over JTAG with every debug scope (R398). -/
  | regAccess (dr : BitVec 64)
  /-- The supply rails rise in group order with SYS_RST_N held, giving the power-on state with an empty spare-use log and a zero debug failure count (R405). -/
  | powerUp (otpW otpE : List Word)
  /-- A BAR0 or management-core read of a register page that is unaligned, unmapped or in a gated domain returns its fixed value and records a bus error in MGT_W (R35). -/
  | registerRead (init off size : Nat)
  /-- An ARR pass ends its skew, so its output rows become valid or are sent on the neighbour link, and any DRN or WAITE waiting on it may proceed (R143). -/
  | arrPassComplete (u n : Nat)
  /-- At each 256-cycle slot boundary of a stack's frame, Fumarole work pauses at the end of its slot and the units turn to the owner of the next slot (R215). -/
  | fumaroleSlotBoundary (stack : Nat)
  /-- A native flit that decodes and passes its CRC is accepted, and its ACK and CREDITS release replay-buffer flits and send credits at the receiving end (R353). -/
  | flitAccepted (port : Nat) (flit : List Byte)
  /-- At the end of each window of 2^20 frames, the per-lane corrected-symbol counts LANE_SERn start again from zero (R356). -/
  | laneSerWindowEnd (port : Nat)
  /-- A fabric message with a reserved or unknown opcode, or one whose message CRC fails, is discarded and counted in MSG_DROP (R362). -/
  | unknownFabricOpcode (port : Nat) (msg : List Byte)
  /-- A fabric-storage segment with no answer within 1 s ends its CKPT_SAVE or CKPT_LOAD with status TIMEOUT (R367). -/
  | storeTimeout (p c : Nat)
  /-- EXTEST drives the pins from the boundary register (R399). -/
  | extest (die : BoundaryScan)
  /-- CLAMP holds the pins from the boundary register with the bypass register selected (R399). -/
  | clamp (die : Nat)
  /-- HIGHZ places the outputs at high impedance (R399). -/
  | highz (die : Nat)
  /-- EXTEST_PULSE tests AC-coupled lanes under IEEE 1149.6 (R399). -/
  | extestPulse (die : BoundaryScan)
  /-- EXTEST_TRAIN tests AC-coupled lanes with a pulse train under IEEE 1149.6 (R399). -/
  | extestTrain (die : BoundaryScan)
  /-- BYPASS selects the one-bit bypass register (R398). -/
  | bypass (die : Nat)
  /-- Release of PCIE_PERST_N lets PCI Express link training start once HOST_RDY is high (R371). -/
  | pciePerstNRelease
  /-- Loss of the supply rails ends operation and loses the spare-use log, the debug failure count and the lockout (R406). -/
  | powerOff
  /-- Assertion of TRST_N resets the TAP controllers of both dies asynchronously (R398). -/
  | trstNAssert
  /-- Bring-up phase 2 senses OTP on both dies, selects the active generations, applies SRAM row repair and the repair map, and starts GLB time (R380). -/
  | otpSense
  /-- Bring-up phase 6 ends when each die has received three matching authority words with exactly one claim, and the device enters READY (R376). -/
  | authorityEstablished
  /-- 100 µs after a verify command, the verdict opens debug or counts a failure toward lockout (R386). -/
  | authVerdict
  /-- A nonce lapses 10 s after its challenge (R384). -/
  | nonceExpiry
  /-- BOOT_READ returns BOOT_STAT and the first failing Assay target (R398). -/
  | bootRead
  deriving DecidableEq, Repr

end Sys2Proof
end

