-- ==== Sys2Proof/WellFormed.lean ====
section
/-! DEFINITION. Well-formed commands: every number that names a member of a class names one that
exists, and messages have the length of a message. -/
namespace Sys2Proof.WellFormed

/-- Dies, stacks and fabric ports (R1, Table 1.1). -/
def isDie (d : Nat) : Bool := decide (d < 2)
def isStack (n : Nat) : Bool := decide (n < 12)
def isPort (n : Nat) : Bool := decide (n < 16)
/-- Ring pairs: 8 partition rings and the management ring (R329). -/
def isRing (r : Nat) : Bool := decide (r < 9)
/-- Partitions, with 8 for the commands of the management ring (R305). -/
def isPart (p : Nat) : Bool := decide (p < 9)
/-- Sequencers: 96 physical clusters, 84 physical tiles (R15, R16). -/
def isUnit (u : Nat) : Bool := decide (u < 96) || decide (256 ≤ u ∧ u < 340)
/-- Initiators of R26. -/
def isInit (i : Nat) : Bool := decide (i < 13)
/-- Size of the window of a memory BAR (R25): BAR0 is 64 MiB; the others are not implemented and read 0 in configuration
space. -/
def barSize (n : Nat) : Nat := if n = 0 then 0x4000000 else 0
/-- 4 KiB pages of the 64 MiB of BAR0. -/
def isPage (n : Nat) : Bool := decide (n < 16384)
/-- Access sizes in bytes, up to a page (R27 answers every one). -/
def isSize (n : Nat) : Bool := decide (1 ≤ n ∧ n ≤ 4096)
/-- A ring message: 1 to 4,095 slots of 64 bytes (Table 15.1). -/
def isRingMsg (m : List Byte) : Bool :=
  decide (64 ≤ m.length ∧ m.length ≤ 262080 ∧ m.length % 64 = 0)
/-- A fabric message: a header of 32 bytes at least (R362). -/
def isFabMsg (m : List Byte) : Bool := decide (32 ≤ m.length)
/-- A flit of 256 bytes (R352). -/
def isFlit (f : List Byte) : Bool := decide (f.length = 256)

end Sys2Proof.WellFormed

open Sys2Proof.WellFormed in
/-- A command as the outside world can send it. -/
def Sys2Proof.Instr.wf : Sys2Proof.Instr → Bool
  | .sysRstNAssert _ => true
  | .sysRstNRelease _ _ => true
  | .pciePerstNAssert _ _ => true
  | .pciePerstNRelease => true
  | .powerOff => true
  | .trstNAssert => true
  | .pllLock _ _ => true
  | .otpSense => true
  | .assayFull _ => true
  | .stackTraining _ _ => true
  | .partingLineTraining _ => true
  | .authorityEstablished => true
  | .bringupPhaseTimeout _ => true
  | .devRst init _ => isInit init
  | .authTick die => isDie die
  | .authWordReceived die _ => isDie die
  | .pyroSample die _ => isDie die
  | .governorFrame stack _ _ => isStack stack
  | .assaySlice _ => true
  | .assayResult target result => decide (target < 65536) && decide (result < 65536)
  | .pllUnlock die dom => isDie die && decide (dom < 32)
  | .plCycleReceived die c _ => isDie die && decide (c.cls < 3) &&
      (match c.reg with | some (i, a, _) => c.cls == 0 && isInit i && decide (a < 67108864) | none => true) &&
      (match c.dest with | some (a, n) => c.cls == 2 && decide (n ≤ 4096 ∧ a + n ≤ 281474976710656) | none => true)
  | .plResend die cls => isDie die && decide (cls < 3)
  | .doorbell init ring _ => isInit init && isRing ring
  | .ringCfgEn init ring _ => isInit init && isRing ring
  | .ringCfgRst init ring _ => isInit init && isRing ring
  | .cqHeadWrite init ring _ => isInit init && isRing ring
  | .irqTimer ring => isRing ring
  | .hello ring msg => isRing ring && isRingMsg msg
  | .nop ring msg => isRing ring && isRingMsg msg
  | .fence ring msg => isRing ring && isRingMsg msg
  | .regRead ring msg => isRing ring && isRingMsg msg
  | .regWrite ring msg => isRing ring && isRingMsg msg
  | .partCfg ring msg => isRing ring && isRingMsg msg
  | .partLoad ring msg => isRing ring && isRingMsg msg
  | .partPause ring msg => isRing ring && isRingMsg msg
  | .partResume ring msg => isRing ring && isRingMsg msg
  | .partRelease ring msg => isRing ring && isRingMsg msg
  | .drainComplete p => isPart p
  | .partReset ring msg => isRing ring && isRingMsg msg
  | .memAlloc ring msg => isRing ring && isRingMsg msg
  | .memFree ring msg => isRing ring && isRingMsg msg
  | .granuleRelease stack g => isStack stack && decide (g < 65536)
  | .scrubDone stack g => isStack stack && decide (g < 65536)
  | .memCopy p _ => isPart p
  | .teacherSeal ring msg => isRing ring && isRingMsg msg
  | .teacherUnseal ring msg => isRing ring && isRingMsg msg
  | .commandReady p q => isPart p && decide (q < 8)
  | .quenchSaveDone p _ => isPart p
  | .quenchRestoreDone p _ => isPart p
  | .commandComplete p _ => isPart p
  | .dvfsApply die => isDie die
  | .mgGemm p _ => isPart p
  | .mgAttnFwd p _ => isPart p
  | .mgAttnBwd p _ => isPart p
  | .mgKernel p _ => isPart p
  | .mgVec p _ => isPart p
  | .cgGemm p _ => isPart p
  | .cgLogit p _ => isPart p
  | .cgAttn p _ => isPart p
  | .cgVec p _ => isPart p
  | .cgKernel p _ => isPart p
  | .logitUnitOffer p _ _ _ => isPart p
  | .sprueUnitAdmit die p _ _ _ => isDie die && isPart p
  | .spLoss p _ => isPart p
  | .spFeat p _ => isPart p
  | .fmQueueStart stack p => isStack stack && isPart p
  | .fmUpdate p _ => isPart p
  | .flaskMarkRelease p _ stack g => isPart p && isStack stack && decide (g < 65536)
  | .fmAmax p _ => isPart p
  | .fmGather p _ => isPart p
  | .fmEf p _ => isPart p
  | .fmAttn p _ => isPart p
  | .fmGemv p _ => isPart p
  | .stackTransaction tag _ _ _ _ _ => decide (tag < 16)
  | .unitFail stack unit _ => isStack stack && decide (unit < 33)
  | .coreFailure cl _ _ => decide (cl < 96)
  | .tileFailure tile _ _ => decide (tile < 84)
  | .sprueSramUe die seg => isDie die && decide (seg < 512)
  | .ladleSramUe die buf => isDie die && decide (buf < 48)
  | .ldReduce p _ => isPart p
  | .ldGather p _ => isPart p
  | .epochSet ring msg => isRing ring && isRingMsg msg
  | .memberLost p dev => isPart p && decide (dev < 65536)
  | .probeDue p dev => isPart p && decide (dev < 65536)
  | .stepCfg p _ => isPart p
  | .stepOpen p _ => isPart p
  | .stepSeal p _ => isPart p
  | .sealEntry p => isPart p
  | .sealComplete p => isPart p
  | .sealTimeout p => isPart p
  | .tapRelease ring msg => isRing ring && isRingMsg msg
  | .ckptSave p _ => isPart p
  | .ckptLoad p _ => isPart p
  | .svCfg ring msg => isRing ring && isRingMsg msg
  | .svVariantLoad p _ => isPart p
  | .svSubmit ring msg => isRing ring && isRingMsg msg
  | .svCancel ring msg => isRing ring && isRingMsg msg
  | .svForget ring msg => isRing ring && isRingMsg msg
  | .stepBoundary p => isPart p
  | .servingWalk p _ _ _ => isPart p
  | .kvCopyDone p _ => isPart p
  | .kvRestoreDone p _ => isPart p
  | .partitionFault p _ _ _ => isPart p
  | .teardownComplete p => isPart p
  | .alu u => isUnit u
  | .fpu u => isUnit u
  | .cmp u => isUnit u
  | .plog u => isUnit u
  | .sel u => isUnit u
  | .addi u => isUnit u
  | .andi u => isUnit u
  | .ori u => isUnit u
  | .xori u => isUnit u
  | .shi u => isUnit u
  | .lui u => isUnit u
  | .cmpi u => isUnit u
  | .ldw u => isUnit u
  | .stw u => isUnit u
  | .br u => isUnit u
  | .brp u => isUnit u
  | .jal u => isUnit u
  | .jr u => isUnit u
  | .dbnz u => isUnit u
  | .arr u => isUnit u
  | .arrOperandsRead u _ => isUnit u
  | .drn u => isUnit u
  | .drnRowsWritten u _ => isUnit u
  | .budget u _ => isUnit u
  | .rpush u => isUnit u
  | .runnerDescriptorStart u => isUnit u
  | .runnerDescriptorDone u => isUnit u
  | .wait u => isUnit u
  | .sig u => isUnit u
  | .poll u => isUnit u
  | .bar u => isUnit u
  | .barrierRelease u => isUnit u
  | .sysNop u => isUnit u
  | .halt u => isUnit u
  | .trap u => isUnit u
  | .brk u => isUnit u
  | .rdsr u => isUnit u
  | .waite u => isUnit u
  | .sequencerHalt u => isUnit u
  | .add u => isUnit u
  | .sub u => isUnit u
  | .mul u => isUnit u
  | .min u => isUnit u
  | .max u => isUnit u
  | .fma u => isUnit u
  | .fill u => isUnit u
  | .cvt u => isUnit u
  | .neg u => isUnit u
  | .abs u => isUnit u
  | .exp2 u => isUnit u
  | .log2 u => isUnit u
  | .recip u => isUnit u
  | .rsqrt u => isUnit u
  | .cmplt u => isUnit u
  | .cmple u => isUnit u
  | .cmpeq u => isUnit u
  | .cmpne u => isUnit u
  | .select u => isUnit u
  | .mkcausal u => isUnit u
  | .rsum u => isUnit u
  | .rmax u => isUnit u
  | .rmin u => isUnit u
  | .rcnt u => isUnit u
  | .rargmax u => isUnit u
  | .rargmin u => isUnit u
  | .rmaxsum u => isUnit u
  | .csum u => isUnit u
  | .cmax u => isUnit u
  | .fanadd u => isUnit u
  | .scale u => isUnit u
  | .compress u => isUnit u
  | .expand u => isUnit u
  | .permute u => isUnit u
  | .gather u => isUnit u
  | .softblk u => isUnit u
  | .attnNorm u => isUnit u
  | .tundishOpComplete u => isUnit u
  | .portCfgTrain init port _ => isInit init && isPort port
  | .portTrained port => isPort port
  | .portCfgDown init port _ => isInit init && isPort port
  | .portCfgModeWrite init port _ => isInit init && isPort port
  | .devIdWrite init port _ => isInit init && isPort port
  | .ethSegWrite init port _ => isInit init && isPort port
  | .ethRtoWrite init port _ => isInit init && isPort port
  | .flitNak port seq => isPort port && decide (seq < 1024)
  | .flitReceiveFail port _ => isPort port
  | .retrainDone port => isPort port
  | .laneFail port lane _ => isPort port && decide (lane < 9)
  | .laneControl port lane op => isPort port && decide (lane < 9) && decide (op < 2)
  | .ethFrame port half _ => isPort port && decide (half < 2)
  | .ethResendTimeout port _ => isPort port
  | .linkHello port msg => isPort port && isFabMsg msg
  | .linkHelloAck port msg => isPort port && isFabMsg msg
  | .ack port msg => isPort port && isFabMsg msg
  | .probe port msg => isPort port && isFabMsg msg
  | .probeAck port msg => isPort port && isFabMsg msg
  | .noRoute port msg => isPort port && isFabMsg msg
  | .ldPreUp port m => isPort port && decide (m.part < 8)
  | .ldPreDown port m => isPort port && decide (m.part < 8)
  | .ldSeg port m => isPort port && decide (m.part < 8)
  | .ldGseg port m => isPort port && decide (m.part < 8)
  | .ldSealUp port m => isPort port && decide (m.part < 8)
  | .ldSealDown port m => isPort port && decide (m.part < 8)
  | .storeWrite port msg => isPort port && isFabMsg msg
  | .storeRead port msg => isPort port && isFabMsg msg
  | .storeData port msg => isPort port && isFabMsg msg
  | .storeAck port msg => isPort port && isFabMsg msg
  | .registerWrite init off size _ => isInit init && decide (off < barSize 0) && isSize size
  | .blkEvtClear init page _ => isInit init && isPage page
  | .blkEvtSet init page _ => isInit init && isPage page
  | .blkEvtEnWrite init page _ => isInit init && isPage page
  | .srst init page _ => isInit init && isPage page
  | .cntClr init page _ => isInit init && isPage page
  | .perfClr init page _ => isInit init && isPage page
  | .glbFenceRead init => isInit init
  | .loReadCapture init off => isInit init && decide (off < barSize 0)
  | .hiWriteCommit init off _ => isInit init && decide (off < barSize 0)
  | .fhClr init die _ => isInit init && isDie die
  | .splogClr init _ => isInit init
  | .spruePcfgWrite init die q _ => isInit init && isDie die && decide (q < 8)
  | .sprueTrecWrite init die q _ => isInit init && isDie die && decide (q < 8)
  | .govCfgWrite init stack _ => isInit init && isStack stack
  | .arraySetWrite init die _ => isInit init && isDie die
  | .progCmd init die _ => isInit init && isDie die
  | .otpBurnDone die _ => isDie die
  | .challenge init => isInit init
  | .verifyKey init => isInit init
  | .verifyPwd init => isInit init
  | .authVerdict => true
  | .close init => isInit init
  | .nonceExpiry => true
  | .dbgHalt init => isInit init
  | .dbgStep init => isInit init
  | .dbgResume init => isInit init
  | .dbgArmBreakpoint init => isInit init
  | .seqDataWrite init _ => isInit init
  | .extest b => isDie b.die
  | .samplePreload die _ _ => isDie die
  | .idcode die => isDie die
  | .clamp die => isDie die
  | .highz die => isDie die
  | .extestPulse b => isDie b.die
  | .extestTrain b => isDie b.die
  | .bootRead => true
  | .regAccess _ => true
  | .bypass die => isDie die
  | .powerUp _ _ => true
  | .registerRead init off size => isInit init && decide (off < barSize 0) && isSize size
  | .arrPassComplete u _ => isUnit u
  | .fumaroleSlotBoundary stack => isStack stack
  | .flitAccepted port flit => isPort port && isFlit flit
  | .laneSerWindowEnd port => isPort port
  | .unknownFabricOpcode port msg => isPort port && isFabMsg msg
  | .storeTimeout p _ => isPart p
end

