-- ==== Sys2Proof/Machine/State.lean ====
section
/-! DEFINITION. The state of the device as plain data, the reasons a step can stop, and the state
after reset. Registers that hold a plain value lie in `bus.regs`; everything the spec names beside
them has a field of its own. -/
namespace Sys2Proof.Machine

/-! ## Device, dies and bring-up (chapters 1, 2, 17, 18, 19) -/

/-- GLB.DEV_STATE (Table 15.11). -/
inductive DevState where | reset | assay | ready | safe
  deriving DecidableEq, Repr

/-- The device as a whole: state, time, bring-up and pins (R370 to R372, R405, Table 2.9). -/
structure Dev where
  state : DevState
  /-- GLB time in ns (Table 2.9) and whether it counts (from the end of OTP sense). -/
  time : Nat
  timeRun : Bool
  /-- Bring-up phase in progress (Table 17.1); 0 before the release of SYS_RST_N. -/
  phase : Nat
  /-- A phase failed: the device stays in RESET (R372). -/
  failed : Bool
  /-- SYS_RST_N asserted, PCIE_PERST_N asserted, rails up (R370, R405). -/
  sysRst : Bool
  perst : Bool
  rails : Bool
  hostRdy : Bool
  faultN : Bool
  /-- Resets since power-on, saturating at 255 (Table 18.5, BOOT). -/
  boots : Nat
  /-- First failing Assay target at bring-up, its class and result (BOOT_READ, Table 18.6). -/
  firstFail : Nat
  firstResult : Nat
  deriving DecidableEq, Repr

/-- Authority of a die (R373 to R377). -/
structure Auth where
  primarySel : Bool
  rolePrimary : Bool
  claim : Bool
  /-- Own word and the last word received (Table 17.3). -/
  own : BitVec 64
  peer : BitVec 64
  /-- A word with a valid CRC arrived since the last tick, and whether the last one matched. -/
  arrived : Bool
  /-- Consecutive matching words received in phase 6 (R376). -/
  matches' : Nat
  /-- Consecutive mismatches and their total (AUTH_CNT). -/
  run : Nat
  total : Nat
  inSafe : Bool
  cause : Nat
  /-- Time of the entry into SAFE: a lower cause of the same cycle takes the place of the first (R375). -/
  safeAt : Nat
  fromPeer : Bool
  /-- Words sent across the parting line. -/
  sent : Nat
  deriving DecidableEq, Repr

/-- Thermal and power state of a die and its array clock (R390 to R392, R401, R20). -/
structure Thermal where
  /-- T0 to T3 (Table 18.2). -/
  st : Nat
  /-- Consecutive samples in which the entry condition of the present state failed by the margin. -/
  low : Nat
  /-- Array clock ceiling in MHz (R391) and the samples since its last step. -/
  ceiling : Nat
  since : Nat
  /-- Last sample of the 68 sensors, in Table 18.1 order. -/
  samples : List Nat
  /-- Rail power of the die at the last 10 samples, newest first, in mW. -/
  power : List Nat
  /-- Frequency in effect (ARRAY_FREQ). -/
  freq : Nat
  /-- The ceiling rises, having been lowered in T2 or T3 before. -/
  rising : Bool
  /-- PLL lock bits (PLL_STAT). -/
  locked : Nat
  deriving DecidableEq, Repr

/-- OTP of a die (R379 to R382, R388). -/
structure Otp where
  /-- The 1,024 fuse words. -/
  words : Tbl Word
  /-- The words as sensed in the last phase 2. -/
  sensed : Tbl Word
  /-- Active generations, 7 for none. -/
  repairGen : Nat
  cfgGen : Nat
  keyGen : Nat
  idOk : Bool
  trimOk : Bool
  fieldLock : Bool
  /-- Burn in progress: word and bits. -/
  burn : Option (Nat × Word)
  vppOk : Bool
  deriving DecidableEq, Repr

/-- A cycle of the parting line that a die has received and not delivered: how often it has failed its CRC (0: good,
behind a failed one), and whether its resend is on the wires (R12). -/
structure PlWait where
  cyc : PlCycle
  fails : Nat
  resent : Bool
  deriving DecidableEq, Repr

/-- The parting line as received by a die (R10, R12), with the die's replay buffer for what it sends. -/
structure Line where
  trained : Bool
  /-- Failed wires found at training, direction × 2^16 + group × 2^8 + wire (1: received). -/
  failed : List Nat
  /-- Replay buffer of the die as sender: its last 64 cycles, newest first. -/
  replay : List PlCycle
  /-- Cycles received and not delivered, in the order they were sent first. -/
  waits : List PlWait
  deriving DecidableEq, Repr

/-- One die. -/
structure DieSt where
  auth : Auth
  therm : Thermal
  otp : Otp
  line : Line
  deriving DecidableEq, Repr

/-- A replicated unit that can fail (Table 18.11). -/
inductive FailUnit where
  | core (cl k : Nat)
  | seq (cl q : Nat)
  | cluster (cl : Nat)
  | tile (t : Nat)
  | fum (stack unit : Nat)
  deriving DecidableEq, Repr

/-- Logical numbering and failure records (R16, R17, R100, R101, R109, R110, R235, R420). -/
structure Maps where
  /-- Units that the OTP repair map marks failed, as applied at reset. -/
  otpFail : List FailUnit
  /-- The runtime failure record. -/
  runFail : List FailUnit
  /-- Cluster to the physical core whose index physical core 32 holds; 0x3F for none. -/
  coreStand : Tbl Nat
  /-- Cluster to the sequencer in use. -/
  seqUse : Tbl Nat
  /-- Physical clusters and tiles by logical index. -/
  clusters : List Nat
  tiles : List Nat
  /-- Spare tile to the physical tile it stands for; 0x7F for none. -/
  tileStand : Tbl Nat
  /-- Physical clusters and tiles held out of service; Fumarole units held, stack × 64 + unit. -/
  clHeld : List Nat
  tileHeld : List Nat
  fumHeld : List Nat
  /-- Stack to the channel that U32 serves; 0x3F for none. -/
  fumStand : Tbl Nat
  /-- Withdrawn channels, stack × 32 + channel. -/
  chGone : List Nat
  deriving DecidableEq, Repr

/-! ## Register access (chapter 2) -/

/-- Register words and what each initiator of R26 has in flight. -/
structure Bus where
  /-- Present value of every register word that is not a view, by BAR0 offset. -/
  regs : Tbl Word
  /-- Captured _HI halves (R41), initiator × 2^26 + offset of the _HI register. -/
  hiCap : Tbl (Option Word)
  /-- _LO halves written and not yet committed, initiator × 2^26 + offset of the _LO register. -/
  loHeld : Tbl (Option Word)
  /-- What each initiator's last read returned, over the width of the access (DESIGN CHOICE, log 8). -/
  readData : Tbl Nat
  /-- Accesses whose parting-line cycle was lost and that have not been answered: initiator, offset, write (R12). -/
  lost : List (Nat × Nat × Bool)
  /-- Fences completed (GLB.FENCE). -/
  fences : Nat
  /-- Pages whose counts of cycles and bytes and whose positions have moved since they were read (DESIGN CHOICE, log 30). -/
  moving : List Nat
  deriving DecidableEq, Repr

/-! ## Sequencer units (chapters 4 to 8) -/

/-- One output row: its FP32 running sums with K_RUN (R72, R83). A row that is not listed holds
no valid sum. -/
structure AccRow where
  sums : List Word
  krun : Nat
  deriving DecidableEq, Repr

/-- Registers of a sequencer (R127) with its issue-time records (R140). -/
structure Seqr where
  /-- S1 to S31; S0 is never listed. -/
  s : Tbl Word
  /-- P0 to P7; bit 0 is kept 1. -/
  p : BitVec 8
  pc : Word
  nstat : Word
  cycle : Nat
  bars : Nat
  /-- Rows that hold a valid sum once issued work completes: core × 2^16 + bank × 2^12 + row. -/
  rowOk : List Nat
  /-- Issued, unconsumed link sends by target core, oldest first: the NR they carry. -/
  linkNr : Tbl (List Nat)
  deriving DecidableEq, Repr

/-- An issued ARR or DRN that has not completed (R143). -/
structure ArrOp where
  isDrn : Bool
  /-- Instruction word, operand group and core mask as read at issue. -/
  word : Word
  grp : List Word
  mask : Nat
  /-- Operands have been read (R138). -/
  read : Bool
  /-- Operand bytes read, per core: weights, activations, scale record, source rows. -/
  cap : List (Nat × List (List Byte))
  deriving DecidableEq, Repr

/-- An issued Tundish operation that has not completed (R144, R177). -/
structure TndOp where
  /-- TOP, RK and rd of the TND (Table 7.10). -/
  top : Nat
  rk : Nat
  rd : Nat
  /-- Descriptor group and broadcast scalar as read at issue. -/
  grp : List Word
  sc : Word
  deriving DecidableEq, Repr

/-- A started Runner descriptor and whether its bytes are written. -/
structure RunDesc where
  words : List Word
  done : Bool
  deriving DecidableEq, Repr

/-- What runs on a unit. -/
structure UnitCtx where
  part : Nat
  cid : Nat
  /-- Grid position and shape (GRID_POS). -/
  alpha : Nat
  beta : Nat
  gm : Nat
  gn : Nat
  logical : Nat
  budget : Nat
  mb : Nat
  teacher : Bool
  /-- NUM_CFG.E4M3_NAN of the command (R328). -/
  e4nan : Bool
  deriving DecidableEq, Repr

/-- Run state of a sequencer; `barrier` waits in a BAR that it has reached. -/
inductive UnitRun where
  | idle | running | barrier | ended | excepted | quenched | halted
  deriving DecidableEq, Repr

/-- What a quench of a unit saves and a restore writes back (R73, R123, R153). -/
structure UnitImage where
  seq : Seqr
  tokens : Tbl (BitVec 16)
  queue : List (List Word)
  rows : Tbl AccRow
  links : Tbl (List AccRow)
  mem : List (Nat × Byte)
  epoch : Nat
  run : UnitRun
  imem : List Word
  placed : Tbl Nat
  scaleMade : Bool
  deriving DecidableEq, Repr

/-- A cluster or a tile: sequencer, Runner, arrays, Tundish and memories. -/
structure SeqUnit where
  run : UnitRun
  ctx : UnitCtx
  seq : Seqr
  imem : List Word
  tokens : Tbl (BitVec 16)
  /-- Queued Runner descriptors (R120), the started ones, and whether the first queued one is a SCALE descriptor whose
  bytes its element descriptor has made (R119). -/
  queue : List (List Word)
  started : List RunDesc
  scaleMade : Bool
  arrs : List ArrOp
  tnds : List TndOp
  rows : Tbl AccRow
  /-- Rows in flight on the links, by target core (R141). -/
  links : Tbl (List AccRow)
  /-- Memory bytes: core × 2^20 + offset, the pool at 32 × 2^20 (a tile's memory at core 0). -/
  mem : List (Nat × Byte)
  /-- What an unlisted byte reads as: 0 zeroed memory, otherwise a free value of that epoch. -/
  epoch : Nat
  /-- Placement: tasks of the device's own commands by logical core, counted from 1 (R111). -/
  placed : Tbl Nat
  /-- An exception that stands unrecorded until issued work is through: code, detail and word address (R150). -/
  exc : Option (Nat × Nat × Nat)
  /-- Debug: halt requested, breakpoint. -/
  haltReq : Bool
  brk : Option Nat
  /-- Number of the free values that the unit's last save wrote into the save area (R317). -/
  saveSeed : Nat
  deriving DecidableEq, Repr

/-! ## Sprue (chapter 9) -/

/-- Accumulated state of one row and one KL term, or of the CE term in the student half (R186). -/
structure TermAcc where
  mt : Word
  zt : Word
  ms : Word
  zs : Word
  a : Word
  deriving DecidableEq, Repr

/-- State of one token row of a row block. -/
structure RowAcc where
  terms : List TermAcc
  /-- CE term: m1, z1 and c·s of the label entry. -/
  ce : Option (Word × Word × Word)
  /-- Non-finite values seen, non-finite teacher logit seen. -/
  nf : Bool
  /-- Top-k: kept (index, logit) pairs. -/
  kept : List (Nat × Word)
  deriving DecidableEq, Repr

/-- A top-k record (Table 9.4). -/
structure TopkRec where
  mb : Nat
  row : Nat
  k : Nat
  nf : Bool
  tclamp : Bool
  tau : Word
  lzt : Word
  crec : Word
  entries : List (Nat × Word)
  deriving DecidableEq, Repr

/-- A row block in its home slice (R182, R183). -/
structure RowBlk where
  part : Nat
  die : Nat
  mb : Nat
  blk : Nat
  /-- SP_LOSS that covers it (lock-step, top-k student side), or CG_LOGIT that fills it. -/
  cid : Nat
  teacherSide : Bool
  rows : List RowAcc
  /-- next(b): lowest column block not yet folded. -/
  next : Nat
  /-- Waiting partials by column block. -/
  parts : Tbl (List RowAcc)
  pass1 : Bool
  /-- Column blocks that have passed pass 2. -/
  pass2 : List Nat
  recs : List TopkRec
  /-- Column blocks of the vocabulary, and non-finite elements read. -/
  cols : Nat
  nonfin : Nat
  /-- Rows in which pass 2 first read a non-finite value (R192). -/
  nf2 : List Nat
  /-- Top-k student side or feature mode: one state slot (Table 9.1), and what its rows came to once done: losses (none
  where ignored), labels out of range, and the clamp. -/
  stateOnly : Bool
  rowLoss : List (Option Word)
  oob : Nat
  clamp : Bool
  deriving DecidableEq, Repr

/-- A row block that opens. -/
def RowBlk.fresh (part die mb blk cid cols : Nat) (teacher : Bool) : RowBlk :=
  { part := part, die := die, mb := mb, blk := blk, cid := cid, teacherSide := teacher, rows := [], next := 0,
    parts := [], pass1 := false, pass2 := [], recs := [], cols := cols, nonfin := 0, nf2 := [], stateOnly := false,
    rowLoss := [], oob := 0, clamp := false }

/-- A teacher logit unit (R97, R184) waiting in its tile or held in an intake entry. -/
structure LogitUnit where
  part : Nat
  cid : Nat
  die : Nat
  mb : Nat
  blk : Nat
  col : Nat
  nrows : Nat
  pass : Nat
  /-- Task (i, j) of its CG_LOGIT, of `nw` vocabulary entries (R90, R97), and its logits by row. -/
  i : Nat
  j : Nat
  nw : Nat
  data : List (List Word)
  deriving DecidableEq, Repr

/-- Both Sprues. -/
structure Sprue where
  /-- Slice of partition p on die d at d × 8 + p: base × 1024 + count. -/
  slices : Tbl Nat
  blks : List RowBlk
  waiting : List LogitUnit
  /-- Halves of a column block in an intake entry, whose other half has not entered. -/
  halves : List LogitUnit
  /-- Deliveries in lock-step mode, one [part, mb, blk, col, half] for each half of a column block. -/
  deliv : List (List Nat)
  /-- Top-k space reserved: (part, cid). -/
  reserved : List (Nat × Nat)
  /-- Units of running CG_LOGITs that the Sprue has admitted, one [part, cid, i, j] for each. -/
  sent : List (List Nat)
  /-- DONE_MB and the micro-batches above it whose LAST command completed OK. -/
  doneMb : Tbl Nat
  lastOk : Tbl (List Nat)
  deriving DecidableEq, Repr

/-! ## Stacks (chapter 10) -/

/-- A granule (R209, R233). -/
structure Gran where
  owner : Nat
  retired : Bool
  /-- Release asked for; the old owner's transactions have not all completed (R211). -/
  releasing : Bool
  deriving DecidableEq, Repr

/-- One stack and its governor (R212, R215, R216, R237). -/
structure Stack where
  trained : Bool
  sealing : Bool
  sealed : Bool
  level : Nat
  /-- Consecutive frames below the level's threshold minus 3 °C. -/
  below : Nat
  tDram : Nat
  tBase : Nat
  /-- Slot owners; 0xF idle. -/
  slots : Tbl Nat
  /-- Slot of the frame in progress. -/
  slot : Nat
  /-- All Fumarole slots closed (T3, R391). -/
  closed : Bool
  /-- Granule selectors: 0 shared, 1 + p partition p. -/
  sel : Tbl Nat
  deriving DecidableEq, Repr

/-- Stack memory ownership and Fumarole queues. -/
structure Stacks where
  st : Tbl Stack
  /-- Granules, stack × 2^16 + granule. -/
  gran : Tbl Gran
  /-- MEM_FREE messages not yet answered: number, TAG, granules named, and the keys of those that have not left their
  owner (R423). -/
  frees : List (Nat × Word × Nat × List Nat)
  /-- Fumarole queues, stack × 8 + partition: command identifiers in issue order. -/
  fumQ : Tbl (List Nat)
  /-- Started commands of the queues that have not finished, same key. -/
  fumRun : Tbl (List Nat)
  /-- Update marks and read marks on flasks (R242): (granule key, partition, cid). -/
  marks : List (Nat × Nat × Nat)
  readMarks : List (Nat × Nat × Nat)
  /-- Step of the last FM_UPDATE that started on a flask, by granule key (R271). -/
  updStep : Tbl Nat
  /-- Fumarole units out of service since a failure, stack × 64 + unit. -/
  fumDown : List Nat
  deriving DecidableEq, Repr

/-! ## Partitions, commands and rings (chapters 11 to 15) -/

/-- A completion: the outcome of a message (Table 15.4). -/
structure Compl where
  status : Nat
  detail : Nat
  cflags : Nat
  nstat : Word
  /-- RESULT, bytes 40 to 63. -/
  result : List Byte
  deriving DecidableEq, Repr

/-- Where a command is in its life (R312, R319, R339). -/
inductive CmdPhase where
  | queued | running | saving | quenched | restoring | answered
  deriving DecidableEq, Repr

/-- An accepted command. -/
structure Cmd where
  cid : Nat
  opcode : Nat
  /-- Its number on its ring (Ring.era); its SEQ is the low 32 bits. -/
  seq : Nat
  tag : Word
  ver : Nat
  queue : Nat
  /-- Numbers of the messages it depends on (R340). -/
  deps : List Nat
  deadline : Nat
  /-- The whole message, byte 0 onward. -/
  msg : List Byte
  /-- Records named in memory as read at the start (R422). -/
  data : List Byte
  phase : CmdPhase
  start : Nat
  /-- Bound in ns at start (R315), and time spent quenched with the start of the present quench. -/
  bound : Option Nat
  quenchTime : Nat
  quenchAt : Nat
  wasQuenched : Bool
  /-- Reason of the quench in progress, 0 SCHED, 1 PAUSE. -/
  reason : Nat
  /-- NUM_CFG.E4M3_NAN when it started (R328). -/
  e4nan : Bool
  /-- Sequencer units held, and what a save of them holds, by unit. -/
  units : List Nat
  images : List (Nat × UnitImage)
  /-- Effect finished; COMMAND_COMPLETE writes it. -/
  out : Option Compl
  deriving DecidableEq, Repr

/-- Partition states (Table 15.12). -/
inductive PState where
  | empty | configured | loaded | running | paused | draining | faulted
  deriving DecidableEq, Repr

/-- A seal in progress (R243, R272). -/
structure Seal where
  step : Nat
  cid : Nat
  /-- The device has entered the seal and offered its word. -/
  entered : Bool
  /-- Own word combined with those received from below. -/
  word : Option SealMsg
  /-- Tree positions below whose words have arrived. -/
  got : List Nat
  /-- Combined word of the whole exchange. -/
  result : Option SealMsg
  /-- Format-health totals of the step, taken at entry, in tap-record order (R65, R249). -/
  fh : List Nat
  deriving DecidableEq, Repr

/-- Reductions of one live step (R241, R248). -/
structure StepRed where
  step : Nat
  nred : Nat
  /-- RIDXs used and RIDXs completed. -/
  used : List Nat
  done : List Nat
  exps : List (Nat × Int)
  nf : Bool
  flagger : Nat
  digest : BitVec 64
  longsum : Bool
  deriving DecidableEq, Repr

/-- Step state of a partition (R240 to R250). -/
structure StepSt where
  last : Nat
  skip : Bool
  opened : Option StepRed
  sealing : Option (Seal × StepRed)
  steps : Nat
  skips : Nat
  broken : Bool
  /-- Lowest step abandoned since STEP_CFG, while `broken` stands (R245). -/
  brokenAt : Nat
  nfAny : Bool
  tapVent : Bool
  wmark : Nat
  sealTo : Nat
  seed : BitVec 64
  seedBase : Nat
  /-- Tap ring base, log2 of its records (0: none configured), records written and freed. -/
  ring : Nat × Nat
  tapIdx : Nat
  tapFree : Nat
  /-- Record, and command whose completion waits for a slot (R250). -/
  held : Option (List Byte × Nat × Compl)
  /-- Tap record of LAST, as a manifest carries it (R251). -/
  lastTap : List Byte
  deriving DecidableEq, Repr

/-- A collective in flight (R256 to R271). -/
structure Coll where
  cid : Nat
  reduce : Bool
  onebit : Bool
  ridx : Nat
  tensor : Nat
  /-- Descriptor bytes, shard map (rank, count, first), list, flask list. -/
  desc : List Byte
  shards : List (Nat × Nat × Nat)
  ranks : List Nat
  flasks : List Nat
  fp : BitVec 64
  /-- Pre-pass: own report and those of tree positions below, then the combined triple. -/
  reports : List (Nat × Int × Bool × Nat)
  sentUp : Bool
  comb : Option (Int × Bool × Nat)
  /-- Shards this member has finished with (passed on, written or owned and completed), and shard
  elements done per shard. -/
  prog : Tbl Nat
  /-- Gather: shards served by an owner. -/
  served : Bool
  /-- Segments of chains that this member starts and that an update mark holds back; they take no buffer (R263, R265). -/
  owed : List SegMsg
  deriving DecidableEq, Repr

/-- A fabric message held or sent by the Ladle. -/
inductive LdMsg where
  | preUp (m : PreMsg) | preDown (m : PreMsg) | seg (m : SegMsg) | gseg (m : GSegMsg)
  | sealUp (m : SealMsg) | sealDown (m : SealMsg)
  deriving DecidableEq, Repr

/-- Membership epoch of a partition (R254) and its Ladle state. -/
structure LadleP where
  epoch : Nat
  members : List Nat
  standby : List Nat
  ver : Nat
  lossTo : Nat
  lost : List Nat
  colls : List Coll
  /-- Segments waiting for the member's own command (R265), and messages of a newer epoch (R274). -/
  waiting : List LdMsg
  future : List LdMsg
  deriving DecidableEq, Repr

/-- Serving request states (Table 13.4). -/
inductive ReqState where
  | running | prefill | held | paused | finished | cancelled | dropped | queued
  deriving DecidableEq, Repr

/-- A serving request and its sequence (R284 to R301). -/
structure Req where
  /-- Descriptor of Table 13.3. -/
  desc : List Byte
  state : ReqState
  accepted : Nat
  slot : Option Nat
  /-- Groups held, oldest page first, and per page its slot map and FILL. -/
  pages : List (Nat × List Nat)
  /-- Groups granted and not yet pages: those of a prompt, and the fresh group of a step. -/
  fresh : List Nat
  /-- Cells of the arena that hold its pages, in page order, after an eviction or a resume. -/
  cells : List Nat
  /-- Prompt tokens prefilled, committed tokens, pending token. -/
  filled : Nat
  committed : Nat
  pending : Option Nat
  /-- Count table (token, count) and overflow flag (R297). -/
  counts : List (Nat × Nat)
  penOvf : Bool
  /-- Its work of the present step is done. -/
  stepped : Bool
  /-- Tokens produced in the step, position of the first, tree nodes and accepted candidates. -/
  out : List Nat
  pos : Nat
  nodes : Nat
  acc : Nat
  /-- Tokens produced so far. -/
  made : Nat
  /-- A cancel covers it; ended in the step; FLAGS of Table 13.7 for the next Vent. -/
  cancel : Bool
  ended : Bool
  flags : Nat
  /-- Copy to or from the slower tier in progress. -/
  copying : Bool
  deferred : Bool
  deriving DecidableEq, Repr

/-- A kept conversation (R290, R300). -/
structure Conv where
  conv : Nat
  variant : Nat
  expiry : Option Nat
  pages : List (List Nat)
  committed : Nat
  pending : Option Nat
  counts : List (Nat × Nat)
  penOvf : Bool
  /-- Cells of the arena that hold its pages, in page order. -/
  cells : List Nat
  forget : Bool
  /-- Request that made it, and whether its copy to the arena is in progress. -/
  req : Nat
  copying : Bool
  /-- Request that holds it. -/
  holder : Option Nat
  deriving DecidableEq, Repr

/-- Serving state of a partition (R279 to R304). -/
structure Serving where
  /-- Record of Table 13.2, layer map and tree template as read at SV_CFG. -/
  cfg : List Byte
  layers : List (List Byte)
  tree : List Nat
  /-- KV granules by key. -/
  kv : List Nat
  /-- Free KV groups. -/
  free : List Nat
  /-- Groups that return at the next boundary. -/
  returning : List Nat
  /-- Copies to the slower tier: REQ_ID, pages as group and arena cell, and the request's other groups. -/
  copies : List (Nat × List (Nat × Nat) × List Nat)
  reqs : List Req
  convs : List Conv
  /-- Deadline of the commands of the present step (R314). -/
  due : Nat
  /-- Boundaries completed. -/
  step : Nat
  deriving DecidableEq, Repr

/-- A partition (index 8 stands for the management ring's commands, tag 0x8). -/
structure Part where
  st : PState
  /-- Record of Table 14.2. -/
  cfg : List Byte
  /-- Save area, stack × 2^16 + granule, by entry number (R317). -/
  save : List Nat
  /-- SEQ and TAG of an unanswered PART_PAUSE and PART_RELEASE on the management ring. -/
  pause : Option (Nat × Word)
  release : Option (Nat × Word)
  /-- SEQ and TAG of a PART_RESET that waits for the end of a teardown. -/
  reset : Option (Nat × Word)
  faultSrc : Word
  faultInfo : Word
  faultTime : Nat
  /-- Teardown of Table 14.6 in progress. -/
  tearing : Bool
  /-- Units still being scrubbed. -/
  scrub : List Nat
  cmds : List Cmd
  nextCid : Nat
  step : StepSt
  ladle : LadleP
  serving : Option Serving
  /-- Resident variant, 0 before the first SV_VARIANT_LOAD. -/
  variant : Nat
  /-- Control messages queued while PAUSED (R348): SEQ, TAG and message. -/
  held : List (Nat × Word × List Byte)
  deriving DecidableEq, Repr

/-- An entry for a completion ring: its bytes with what its writing answers. -/
structure Entry where
  bytes : List Byte
  /-- Number of the message it answers and the status. -/
  ans : Option (Nat × Nat)
  /-- A VENT_DEVICE_SAFE fires the vector at once (R333). -/
  urgent : Bool
  deriving DecidableEq, Repr

/-- A ring pair (R329 to R340); counts and bases are in its registers. -/
structure Ring where
  /-- SEQ expected next; how often the numbers have begun anew, and the SEQ they began at: a message's own number is
  era × 2^32 + SEQ. -/
  expSeq : Nat
  era : Nat
  base : Nat
  ver : Nat
  neg : Bool
  feat : Nat
  stopped : Bool
  cfgErr : Bool
  vents : Nat
  waitq : List Entry
  /-- Outcome of earlier messages: number and status. -/
  hist : List (Nat × Nat)
  /-- Accepted messages not yet answered: number and TAG. -/
  opens : List (Nat × Word)
  /-- Unanswered FENCE messages: number and TAG. -/
  fences : List (Nat × Word)
  /-- Entries written since the vector last fired, and the time of the first of them. -/
  irqCnt : Nat
  irqAt : Nat
  deriving DecidableEq, Repr

/-! ## Fabric (chapter 16) -/

/-- LSTATE of a port (Table 16.7). -/
inductive LState where | down | training | up | retraining | handover
  deriving DecidableEq, Repr

/-- A fabric message to send: bytes of the message layer, or the header of a message of the Ladle with its body, whose
bytes the spec leaves opaque. -/
inductive FabMsg where
  | raw (bytes : List Byte)
  | ld (head : List Byte) (m : LdMsg)
  deriving DecidableEq, Repr

/-- A flit without data that this end has sent: a NAK naming a SEQ (R353), or lane control naming a lane, to spare (0) or
for the hand-over of a loopback (1; R356, R358). -/
inductive CtlFlit where
  | nak (seq : Nat)
  | lane (lane op : Nat)
  deriving DecidableEq, Repr

/-- A message of Ethernet carriage that awaits its ACK: resends so far, and the half it left by (R361, R363). -/
structure EthOut where
  resent : Nat
  half : Nat
  msg : FabMsg
  deriving DecidableEq, Repr

/-- A received Ethernet segment with its message header (R360). -/
structure EthSeg where
  src : Nat
  vc : Nat
  tag : Nat
  offset : Nat
  body : List Byte
  deriving DecidableEq, Repr

/-- A fabric port. -/
structure Port where
  st : LState
  /-- Native link at 224 Gb/s; version; LINK_HELLO sent and answered. -/
  r224 : Bool
  ver : Nat
  helloDone : Bool
  /-- The lanes have trained at the present rate; lane that the retrain in progress spares, 15 none, and whether this
  end named it (R357). -/
  trained : Bool
  sparing : Nat
  named : Bool
  reason : Nat
  peer : Option (Nat × Nat)
  spared : Nat
  looped : Nat
  badLanes : List Nat
  /-- Next SEQ to send, next SEQ expected, unacknowledged data flits oldest first (SEQ and message). -/
  txSeq : Nat
  rxSeq : Nat
  replay : List (Nat × FabMsg)
  /-- Send credits per VC; receive buffers given back to the partner per VC, and ACK as last returned (R353, R355). -/
  credits : Tbl Nat
  given : Tbl Nat
  ackSent : Nat
  /-- Discarding data flits until a replay. -/
  discard : Bool
  /-- NAKs and lane control flits sent, oldest first. -/
  ctl : List CtlFlit
  /-- Replays from one SEQ, and times of retrains in the last second. -/
  replayRun : Nat × Nat
  retrains : List Nat
  /-- Payload of the message being received, per VC. -/
  rx : Tbl (List Byte)
  /-- Messages sent, oldest first, and per VC those that wait for a credit or for room in the replay
  buffer, each with its bytes not yet sent. -/
  tx : List FabMsg
  txWait : Tbl (List (Nat × FabMsg))
  /-- Ethernet: segments received (src, VC, TAG, offset and bytes), TAGs expected per source and
  VC, messages awaiting ACK, halves that have gone down (R357). -/
  segs : List EthSeg
  ethTag : Tbl Nat
  ethOut : List EthOut
  halfGone : List Nat
  deriving DecidableEq, Repr

/-- A storage segment in flight (R367). -/
structure StoreSeg where
  part : Nat
  cid : Nat
  endpoint : Nat
  key : Nat
  offset : Nat
  len : Nat
  isRead : Bool
  deriving DecidableEq, Repr

/-- The fabric of the device. -/
structure Fabric where
  ports : Tbl Port
  devId : Nat
  /-- Route entries, die × 2^16 + DST. -/
  routes : Tbl Nat
  /-- Next TAG per (DST, VC): DST × 4 + VC. -/
  tags : Tbl Nat
  /-- Storage segments in flight. -/
  store : List StoreSeg
  /-- Time of the last arrival per device identifier (R366). -/
  heard : Tbl Nat
  deriving DecidableEq, Repr

/-! ## Health, debug and boundary scan (chapters 3, 17, 18) -/

/-- Assay, spare-use log, format health. -/
structure Health where
  /-- Next target of the rotation, rotations completed. -/
  next : Nat
  rotations : Nat
  /-- First failure since cleared, by die: (target, class, result). -/
  fail : Tbl (Nat × Nat × Nat)
  fails : Tbl Nat
  /-- Target of the slice in progress. -/
  slice : Option Nat
  /-- Spare-use log: four words an entry, oldest first; entries not stored. -/
  log : List (List Word)
  ovf : Nat
  /-- Format-health counts (R64 to R67): ((die × 8 + part) × 5 + class) × 64 + format × 3 + kind. -/
  fh : Tbl Nat
  /-- Format-health counts since the partition's last step boundary (R65): ((die × 8 + part) × 5 +
  class) × 3 + kind; a limit of FH_LIMITn passed in the step, at 4096 + die × 8 + part. -/
  fhStep : Tbl Nat
  deriving DecidableEq, Repr

/-- Debug lock (R383 to R389). -/
structure Dbg where
  /-- 0 OPEN_UNLOCKED, 1 LOCKED, 2 OPEN_AUTH, 3 LOCKOUT. -/
  mode : Nat
  granted : Nat
  failCnt : Nat
  nonce : BitVec 128
  nonceValid : Bool
  resp : Tbl Word
  pwd : Tbl Word
  /-- Verdict owed: success, and the scope asked for; CLOSE arrived with it. -/
  verdict : Option (Bool × Nat)
  deriving DecidableEq, Repr

/-- A TAP (R398, R399). -/
structure Tap where
  ir : Nat
  bypass : Bool
  boundary : List Bool
  pins : List Bool
  /-- BOOT_READ and REG_ACCESS capture data (West TAP). -/
  dr : BitVec 64
  deriving DecidableEq, Repr

/-- The state of the device. -/
structure State where
  pending : List Instr
  /-- Free values drawn so far. -/
  fresh : Nat
  dev : Dev
  west : DieSt
  east : DieSt
  maps : Maps
  bus : Bus
  /-- Stack and host memory bytes by device address; an unlisted byte reads 0. -/
  mem : List Host.Cell
  units : Tbl SeqUnit
  sprue : Sprue
  stk : Stacks
  parts : Tbl Part
  rings : Tbl Ring
  fabric : Fabric
  health : Health
  dbg : Dbg
  taps : Tbl Tap
  deriving DecidableEq, Repr

/-! ## Stops -/

/-- A fault of the model: the block has none of its own (a partition fault, SAFE and a bus error
are next states), so no command raises one. -/
inductive Fault where
  /-- Raised by nobody: it keeps the type inhabited. Safe. -/
  | none
  deriving DecidableEq, Repr

/-- Why a command has no meaning in the model. -/
inductive Refusal where
  /-- Raised by an arm of `exec` whose command has no meaning yet. Safe: nothing follows from it. -/
  | notModelled (mnemonic : String)
  deriving DecidableEq, Repr

/-! ## Reset -/

/-- Defaults of the tables, and the state right after reset. -/
def Dev.reset : Dev :=
  { state := .reset, time := 0, timeRun := false, phase := 0, failed := false, sysRst := true,
    perst := true, rails := true, hostRdy := false, faultN := false, boots := 0,
    firstFail := 0, firstResult := 0 }

def Auth.reset : Auth :=
  { primarySel := false, rolePrimary := false, claim := false, own := 0, peer := 0, arrived := false,
    matches' := 0, run := 0, total := 0, inSafe := false, cause := 0, safeAt := 0, fromPeer := false, sent := 0 }

def Thermal.reset : Thermal :=
  { st := 0, low := 0, ceiling := 0, since := 0, samples := [], power := [], freq := 1500,
    rising := false,
    locked := 0 }

def Otp.blank : Otp :=
  { words := [], sensed := [], repairGen := 7, cfgGen := 7, keyGen := 7,
    idOk := false, trimOk := false, fieldLock := false, burn := none, vppOk := false }

def Line.reset : Line :=
  { trained := false, failed := [], replay := [], waits := [] }

def DieSt.reset : DieSt :=
  { auth := .reset, therm := .reset, otp := .blank, line := .reset }

/-- Physical tiles that are not spares, in order (R100). -/
def activeTiles : List Nat := List.range 40 ++ (List.range 40).map (· + 42)

def Maps.reset : Maps :=
  { otpFail := [], runFail := [], coreStand := [], seqUse := [], clusters := List.range 96,
    tiles := activeTiles, tileStand := [], clHeld := [], tileHeld := [], fumHeld := [],
    fumStand := [], chGone := [] }

def Seqr.reset : Seqr :=
  { s := [], p := 1, pc := 0, nstat := 0, cycle := 0, bars := 0, rowOk := [], linkNr := [] }

def UnitCtx.none : UnitCtx :=
  { part := 0, cid := 0, alpha := 0, beta := 0, gm := 0, gn := 0, logical := 0, budget := 0,
    mb := 0, teacher := false, e4nan := false }

def SeqUnit.reset : SeqUnit :=
  { run := .idle, ctx := .none, seq := .reset, imem := [], tokens := [], queue := [], started := [], scaleMade := false,
    arrs := [], tnds := [], rows := [], links := [], mem := [], epoch := 0, placed := [], exc := Option.none, haltReq := false,
    brk := Option.none, saveSeed := 0 }

def Sprue.reset : Sprue :=
  { slices := [], blks := [], waiting := [], halves := [], deliv := [], reserved := [], sent := [], doneMb := [],
    lastOk := [] }

/-- A granule that no message has named: free (R209). -/
def Gran.free : Gran := { owner := 15, retired := false, releasing := false }

def Stack.reset : Stack :=
  { trained := false, sealing := false, sealed := false, level := 0, below := 0, tDram := 0,
    tBase := 0, slots := [], slot := 0, closed := false, sel := [] }

def Stacks.reset : Stacks :=
  { st := [], gran := [], frees := [], fumQ := [], fumRun := [], marks := [], readMarks := [],
    updStep := [], fumDown := [] }

def StepSt.reset : StepSt :=
  { last := 0, skip := false, opened := none, sealing := none, steps := 0, skips := 0,
    broken := false, brokenAt := 0, nfAny := false, tapVent := false, wmark := 0, sealTo := 0, seed := 0,
    seedBase := 0, ring := (0, 0), tapIdx := 0, tapFree := 0, held := none,
    lastTap := [] }

def LadleP.reset : LadleP :=
  { epoch := 0, members := [], standby := [], ver := 0, lossTo := 0, lost := [], colls := [],
    waiting := [], future := [] }

def Part.empty : Part :=
  { st := .empty, cfg := [], save := [], pause := none, release := none, reset := none, faultSrc := 0,
    faultInfo := 0, faultTime := 0, tearing := false, scrub := [], cmds := [], nextCid := 1,
    step := .reset, ladle := .reset, serving := none, variant := 0, held := [] }

def Ring.reset : Ring :=
  { expSeq := 0, era := 0, base := 0, ver := 0, neg := false, feat := 0, stopped := false, cfgErr := false, vents := 0,
    waitq := [], hist := [], opens := [], fences := [], irqCnt := 0, irqAt := 0 }

def Port.reset : Port :=
  { st := .down, r224 := false, ver := 0, helloDone := false, trained := false,
    sparing := 15, named := false, reason := 0, peer := none,
    spared := 15, looped := 15, badLanes := [], txSeq := 0, rxSeq := 0, replay := [], credits := [],
    given := [], ackSent := 0, discard := false, ctl := [], replayRun := (0, 0), retrains := [], rx := [],
    tx := [], txWait := [], segs := [], ethTag := [], ethOut := [], halfGone := [] }

def Fabric.reset : Fabric :=
  { ports := [], devId := 0xFFFF, routes := [], tags := [], store := [], heard := [] }

def Health.reset : Health :=
  { next := 0, rotations := 0, fail := [], fails := [], slice := none, log := [], ovf := 0, fh := [],
    fhStep := [] }

def Dbg.reset : Dbg :=
  { mode := 0, granted := 7, failCnt := 0, nonce := 0, nonceValid := false, resp := [],
    pwd := [], verdict := none }

def Tap.reset : Tap := { ir := 2, bypass := false, boundary := [], pins := [], dr := 0 }

def Bus.reset : Bus := { regs := [], hiCap := [], loHeld := [], readData := [], lost := [], fences := 0, moving := [] }

/-- The state right after reset: SYS_RST_N still held, nothing in the queue (R370, R405). -/
def State.reset : State :=
  { pending := [], fresh := 0, dev := .reset, west := .reset, east := .reset, maps := .reset,
    bus := .reset, mem := [], units := [], sprue := .reset, stk := .reset, parts := [],
    rings := [], fabric := .reset, health := .reset, dbg := .reset, taps := [] }

end Sys2Proof.Machine
end

