-- ==== Sys2Proof/Machine/Table.lean ====
section
/-! DEFINITION. Sparse tables, byte lists and bit fields: the helpers that every later file shares. -/
namespace Sys2Proof.Machine

/-- Value at key `n`, `d` where the table lists none. -/
def tget {α : Type} (d : α) : Tbl α → Nat → α
  | [], _ => d
  | (k, v) :: r, n => if n = k then v else if n < k then d else tget d r n

/-- The table with `v` at key `n`; the default is not listed. -/
def tput {α : Type} [DecidableEq α] (d : α) : Tbl α → Nat → α → Tbl α
  | [], n, v => if v = d then [] else [(n, v)]
  | (k, w) :: r, n, v =>
    if n = k then (if v = d then r else (n, v) :: r)
    else if n < k then (if v = d then (k, w) :: r else (n, v) :: (k, w) :: r)
    else (k, w) :: tput d r n v

/-- The canonical form: keys strictly rising, no entry equal to the default. -/
def twf {α : Type} [DecidableEq α] (d : α) : Tbl α → Bool
  | [] => true
  | [(_, v)] => v ≠ d
  | (k, v) :: (k', v') :: r => decide (v ≠ d) && decide (k < k') && twf d ((k', v') :: r)

/-- A table that lists every written key, its default depending on the key (on-die memory). -/
def sget (d : Nat → Byte) : List (Nat × Byte) → Nat → Byte
  | [], n => d n
  | (k, v) :: r, n => if n = k then v else if n < k then d n else sget d r n

/-- Write of `sget`'s table. -/
def sput : List (Nat × Byte) → Nat → Byte → List (Nat × Byte)
  | [], n, v => [(n, v)]
  | (k, w) :: r, n, v =>
    if n = k then (n, v) :: r
    else if n < k then (n, v) :: (k, w) :: r
    else (k, w) :: sput r n v

/-! Bytes, little-endian (R5). -/

/-- The number that bytes spell, least significant first. -/
def leNat : List Byte → Nat
  | [] => 0
  | b :: r => b.toNat + 256 * leNat r

/-- `n` bytes of `v`, least significant first. -/
def leBytes : Nat → Nat → List Byte
  | 0, _ => []
  | n + 1, v => BitVec.ofNat 8 v :: leBytes n (v / 256)

/-- `n` bytes of a list from an offset; bytes past its end read 0. -/
def slice (l : List Byte) (off n : Nat) : List Byte :=
  let t := (l.drop off).take n
  t ++ List.replicate (n - t.length) 0

/-- The unsigned field of `n` bytes at an offset. -/
def fld (l : List Byte) (off n : Nat) : Nat := leNat (slice l off n)

/-- A list with bytes laid over it from an offset. -/
def lay (l : List Byte) (off : Nat) (bs : List Byte) : List Byte :=
  let l' := l ++ List.replicate (off + bs.length - l.length) 0
  l'.take off ++ bs ++ l'.drop (off + bs.length)

/-- All bytes from `a` up to `b` are zero. -/
def zeros (l : List Byte) (a b : Nat) : Bool := (slice l a (b - a)).all (· == 0)

/-- Bits [hi:lo] of a number. -/
def bits (v hi lo : Nat) : Nat := v / 2 ^ lo % 2 ^ (hi + 1 - lo)

/-- Bit `i` of a number. -/
def bit (v i : Nat) : Bool := v / 2 ^ i % 2 = 1

/-- A number with bits [hi:lo] replaced. -/
def setBits (v hi lo x : Nat) : Nat :=
  v - bits v hi lo * 2 ^ lo + x % 2 ^ (hi + 1 - lo) * 2 ^ lo

/-- 1 for true. -/
def b2n (b : Bool) : Nat := if b then 1 else 0

/-- The word of a number. -/
def w32 (n : Nat) : Word := BitVec.ofNat 32 n

/-- Signed value of the low `n` bits. -/
def sext (n v : Nat) : Int :=
  let m := v % 2 ^ n
  if m < 2 ^ (n - 1) then m else (m : Int) - 2 ^ n

/-- The low 2^n residue of an integer. -/
def wrap (n : Nat) (i : Int) : Nat := (i % (2 ^ n : Nat)).toNat

/-- Ceiling division; 0 for a zero divisor. -/
def cdiv (a b : Nat) : Nat := (a + b - 1) / b

/-- The element of a list at an index, or a default. -/
def nth {α : Type} (d : α) (l : List α) (i : Nat) : α := l.getD i d

/-- The list with the element at `i` replaced. -/
def setNth {α : Type} (l : List α) (i : Nat) (v : α) : List α := l.set i v

/-- Updates the first element that satisfies `q`. -/
def updFirst {α : Type} (q : α → Bool) (f : α → α) : List α → List α
  | [] => []
  | a :: r => if q a then f a :: r else a :: updFirst q f r

/-- Number of elements that satisfy `q`. -/
def count {α : Type} (q : α → Bool) (l : List α) : Nat := (l.filter q).length

/-- Elements of a list without repeats. -/
def nodup : List Nat → Bool
  | [] => true
  | a :: r => !r.contains a && nodup r

/-- Fold over 0 .. n − 1 in increasing order. -/
def forN {β : Type} (n : Nat) (b : β) (f : Nat → β → β) : β :=
  (List.range n).foldl (fun acc i => f i acc) b

/-- Repeats a step until it has nothing to do, at most `n` times. -/
def repeatStep {β : Type} (f : β → Option β) : Nat → β → β
  | 0, b => b
  | n + 1, b =>
    match f b with
    | some b' => repeatStep f n b'
    | none => b

end Sys2Proof.Machine
end

