-- ==== Sys2Proof/Machine/Float.lean ====
section
/-! DEFINITION. Floating-point values as exact dyadic numbers, their encodings (Table 3.3), one
rounding to nearest even, and the correctly rounded functions of R165. -/
namespace Sys2Proof.Machine

/-- A decoded value: a NaN with its sign, an infinity, or (−1)^neg · m · 2^e. -/
inductive Fl where
  | nan (neg : Bool)
  | inf (neg : Bool)
  | fin (neg : Bool) (m : Nat) (e : Int)
  deriving DecidableEq, Repr

/-- A floating-point element format (Table 3.3). -/
structure FpFmt where
  /-- Mantissa bits, bias, bits below the sign. -/
  mb : Nat
  bias : Nat
  sign : Nat
  /-- Code of the largest finite value, of infinity and of the quiet NaN, where they exist. -/
  maxc : Nat
  infc : Option Nat
  nanc : Option Nat

def fp32 : FpFmt := ⟨23, 127, 31, 0x7F7FFFFF, some 0x7F800000, some 0x7FC00000⟩
def fp16 : FpFmt := ⟨10, 15, 15, 0x7BFF, some 0x7C00, some 0x7E00⟩
def bf16 : FpFmt := ⟨7, 127, 15, 0x7F7F, some 0x7F80, some 0x7FC0⟩
def e4m3 : FpFmt := ⟨3, 7, 7, 0x7E, none, some 0x7F⟩
def e5m2 : FpFmt := ⟨2, 15, 7, 0x7B, some 0x7C, some 0x7E⟩
def e3m2 : FpFmt := ⟨2, 3, 5, 0x1F, none, none⟩
def e2m3 : FpFmt := ⟨3, 1, 5, 0x1F, none, none⟩
def e2m1 : FpFmt := ⟨1, 1, 3, 0x7, none, none⟩

namespace FpFmt

/-- Exponent of the least subnormal. -/
def lsb (f : FpFmt) : Int := 1 - (f.bias : Int) - f.mb

/-- The value of a code (R46). -/
def dec (f : FpFmt) (c : Nat) : Fl :=
  let neg := bit c f.sign
  let x := c % 2 ^ f.sign
  if f.infc = some x then .inf neg
  else if x > f.maxc then .nan neg
  else
    let e := x / 2 ^ f.mb
    let m := x % 2 ^ f.mb
    if e = 0 then .fin neg m f.lsb else .fin neg (m + 2 ^ f.mb) (f.lsb + (e - 1 : Nat))

end FpFmt

/-- Right shift by k with rounding to nearest, ties to even. -/
def rneShift (m k : Nat) : Nat :=
  if k = 0 then m
  else
    let q := m / 2 ^ k
    let r := m % 2 ^ k
    if r > 2 ^ (k - 1) ∨ (r = 2 ^ (k - 1) ∧ q % 2 = 1) then q + 1 else q

/-- Code magnitude of m · 2^e rounded to nearest even in a format, without overflow handling. -/
def FpFmt.roundMag (f : FpFmt) (m : Nat) (e : Int) : Nat :=
  if m = 0 then 0
  else
    let top : Int := (Nat.log2 m : Int) + e
    let l : Int := max (top - f.mb) f.lsb
    let q := if l ≤ e then m * 2 ^ (e - l).toNat else rneShift m (l - e).toNat
    (l - f.lsb).toNat * 2 ^ f.mb + q

/-- What a conversion loses (R64). -/
inductive Loss where | none | sat | ftz | nf
  deriving DecidableEq, Repr

/-- Conversion of a value to a format by R59 and Table 3.4: the code and what was lost. The flag
makes E4M3 overflow give the NaN (NUM_CFG.E4M3_NAN), positive since it has no source NaN (R48). -/
def FpFmt.enc (f : FpFmt) (e4nan : Bool) (v : Fl) : Nat × Loss :=
  let sg (neg : Bool) := if neg then 2 ^ f.sign else 0
  let nan (neg : Bool) := match f.nanc with | some c => c + sg neg | none => sg neg
  match v with
  | .nan neg => (nan neg, .nf)
  | .inf neg =>
    (match f.infc with
     | some c => c + sg neg
     | none => if e4nan then nan false else f.maxc + sg neg, .nf)
  | .fin neg m e =>
    let c := f.roundMag m e
    if c > f.maxc then
      (match f.infc with
       | some i => i + sg neg
       | none => if e4nan then nan false else f.maxc + sg neg, .sat)
    else (c + sg neg, if m ≠ 0 ∧ c = 0 then .ftz else .none)

namespace Fl

def isNan : Fl → Bool | .nan _ => true | _ => false
def isFin : Fl → Bool | .fin .. => true | _ => false
def isZero : Fl → Bool | .fin _ 0 _ => true | _ => false
def sign : Fl → Bool | .nan s => s | .inf s => s | .fin s _ _ => s
def neg : Fl → Fl | .nan s => .nan !s | .inf s => .inf !s | .fin s m e => .fin (!s) m e
def abs : Fl → Fl | .nan _ => .nan false | .inf _ => .inf false | .fin _ m e => .fin false m e
def zero : Fl := .fin false 0 0
def one : Fl := .fin false 1 0
/-- An integer as an exact value. -/
def ofInt (i : Int) : Fl := .fin (decide (i < 0)) i.natAbs 0
/-- Exact scaling by a power of two. -/
def scale2 (v : Fl) (k : Int) : Fl :=
  match v with | .fin s m e => .fin s m (e + k) | x => x

/-- Signed numerator of a finite value over 2^l, for l at most its exponent. -/
def num (s : Bool) (m : Nat) (e l : Int) : Int :=
  let n : Int := m * 2 ^ (e - l).toNat
  if s then -n else n

/-- Exact sum; an exact zero is +0 unless both terms are −0 (R69). -/
def add (a b : Fl) : Fl :=
  match a, b with
  | .nan s, _ => .nan s
  | _, .nan s => .nan s
  | .inf s, .inf t => if s = t then .inf s else .nan false
  | .inf s, _ => .inf s
  | _, .inf s => .inf s
  | .fin s m e, .fin t n g =>
    let l := min e g
    let x := num s m e l + num t n g l
    if x = 0 then .fin (s && t) 0 l else .fin (decide (x < 0)) x.natAbs l

def sub (a b : Fl) : Fl := match b with | .nan s => add a (.nan s) | b => add a b.neg

/-- Exact product. -/
def mul (a b : Fl) : Fl :=
  match a, b with
  | .nan s, _ => .nan s
  | _, .nan s => .nan s
  | .inf s, .inf t => .inf (s != t)
  | .inf s, .fin t n _ => if n = 0 then .nan false else .inf (s != t)
  | .fin s m _, .inf t => if m = 0 then .nan false else .inf (s != t)
  | .fin s m e, .fin t n g => .fin (s != t) (m * n) (e + g)

/-- The exact value of a · b + c. A source NaN gives the result its sign, the first of the three (R48; DEDUCED,
log 41). -/
def fma (a b c : Fl) : Fl :=
  match a, b, c with
  | .nan s, _, _ => .nan s
  | _, .nan s, _ => .nan s
  | _, _, .nan s => .nan s
  | a, b, c => (a.mul b).add c

/-- Order of two values that are not NaN, ±0 equal. -/
def lt (a b : Fl) : Bool :=
  match a, b with
  | .nan _, _ => false
  | _, .nan _ => false
  | .inf s, .inf t => s && !t
  | .inf s, _ => s
  | _, .inf t => !t
  | .fin s m e, .fin t n g =>
    let l := min e g
    decide (num s m e l < num t n g l)
def eq (a b : Fl) : Bool := !a.isNan && !b.isNan && !lt a b && !lt b a
def le (a b : Fl) : Bool := lt a b || eq a b

/-- Maximum and minimum: NaN if either is NaN; +0 above −0 (R162). -/
def max (a b : Fl) : Fl :=
  match a, b with
  | .nan s, _ => .nan s
  | _, .nan s => .nan s
  | a, b => if lt a b then b else if lt b a then a else if a.sign then b else a
def min (a b : Fl) : Fl :=
  match a, b with
  | .nan s, _ => .nan s
  | _, .nan s => .nan s
  | a, b => if lt a b then a else if lt b a then b else if a.sign then a else b

end Fl

/-! ## Correctly rounded functions (R165, Table 8.6). A result that is not a dyadic number is given
with enough bits and a low sticky bit, so that one rounding of it is the rounding of the exact
value. -/

/-- Integer square root, bit by bit from bit `k` down. -/
def isqrt : Nat → Nat → Nat → Nat
  | 0, n, r => if (r + 1) * (r + 1) ≤ n then r + 1 else r
  | k + 1, n, r =>
    let t := r + 2 ^ (k + 1)
    isqrt k n (if t * t ≤ n then t else r)

/-- Fraction bits of the function kernels. -/
def fxBits : Nat := 192
/-- ln 2 in units of 2^−192. -/
def fxLn2 : Nat := 4350955369971217654477563090224794165364344896676135745069

/-- exp(y) for y in [0, 1) in units of 2^−192: Taylor terms from `k` on. -/
def fxExp : Nat → Nat → Nat → Nat → Nat → Nat
  | 0, _, _, _, acc => acc
  | f + 1, k, y, t, acc =>
    let t' := t * y / 2 ^ fxBits / k
    fxExp f (k + 1) y t' (acc + t')

/-- atanh series: sum of z^(2k+1)/(2k+1), terms from `k` on. -/
def fxAtanh : Nat → Nat → Nat → Nat → Nat → Nat
  | 0, _, _, _, acc => acc
  | f + 1, k, z2, t, acc =>
    fxAtanh f (k + 2) z2 (t * z2 / 2 ^ fxBits) (acc + t / k)

namespace Fl

/-- 1/x. -/
def recip : Fl → Fl
  | .nan s => .nan s
  | .inf s => .fin s 0 0
  | .fin s m e =>
    if m = 0 then .inf s
    else
      let k := Nat.log2 m + 32
      let q := 2 ^ k / m
      .fin s (2 * q + b2n (decide (2 ^ k % m ≠ 0))) (-(k : Int) - e - 1)

/-- √x. -/
def sqrt : Fl → Fl
  | .nan s => .nan s
  | .inf s => if s then .nan false else .inf false
  | .fin s m e =>
    if m = 0 then .fin s 0 0
    else if s then .nan false
    else
      -- scale so that the root has at least 32 bits and the exponent is even
      let j : Nat := 64 + (e % 2).toNat
      let n := m * 2 ^ j
      let r := isqrt (Nat.log2 n / 2 + 1) n 0
      .fin false (2 * r + b2n (decide (r * r ≠ n))) ((e - j) / 2 - 1)

/-- 1/√x. -/
def rsqrt : Fl → Fl
  | .nan s => .nan s
  | .inf s => if s then .nan false else .fin false 0 0
  | .fin s m e =>
    if m = 0 then .inf s
    else if s then .nan false
    else
      let k : Nat := 2 * Nat.log2 m + 128 + (e % 2).toNat
      let n := 2 ^ k / m
      let r := isqrt (Nat.log2 n / 2 + 1) n 0
      .fin false (2 * r + b2n (decide (r * r * m ≠ 2 ^ k))) (-((k + e) / 2) - 1)

/-- 2^x. -/
def exp2 : Fl → Fl
  | .nan s => .nan s
  | .inf s => if s then .fin false 0 0 else .inf false
  | .fin s m e =>
    if m = 0 then one
    else if Nat.log2 m + e ≥ 12 then (if s then .fin false 1 (-4096) else .fin false 1 4096)
    else
      -- x in units of 2^−192, rounded down
      let x : Int :=
        if e + 192 ≥ 0 then num s m (e + 192) 0
        else if s then -((cdiv m (2 ^ (-(e + 192)).toNat) : Nat) : Int)
        else ((m / 2 ^ (-(e + 192)).toNat : Nat) : Int)
      let n := x / (2 ^ fxBits : Nat)
      let f := (x % (2 ^ fxBits : Nat)).toNat
      if f = 0 ∧ e + 192 ≥ 0 then .fin false 1 n
      else
        let r := fxExp 45 1 (f * fxLn2 / 2 ^ fxBits) (2 ^ fxBits) (2 ^ fxBits)
        .fin false (2 * r + 1) (n - fxBits - 1)

/-- log₂x. -/
def log2 : Fl → Fl
  | .nan s => .nan s
  | .inf s => if s then .nan false else .inf false
  | .fin s m e =>
    if m = 0 then .inf true
    else if s then .nan false
    else
      let k := Nat.log2 m
      if m = 2 ^ k then ofInt (k + e)
      else
        -- m / 2^k = (1 + z) / (1 − z)
        let z := (m - 2 ^ k) * 2 ^ fxBits / (m + 2 ^ k)
        let a := fxAtanh 70 1 (z * z / 2 ^ fxBits) z 0
        let l := 2 * a * 2 ^ fxBits / fxLn2
        let t : Int := (k + e) * (2 ^ fxBits : Nat) + l
        .fin (decide (t < 0)) (2 * t.natAbs + 1) (-(fxBits : Int) - 1)

/-- Nearest integer, ties to even, of a finite value; bounded by the caller. -/
def rneInt (neg : Bool) (m : Nat) (e : Int) : Int :=
  let q : Nat := if 0 ≤ e then m * 2 ^ e.toNat else rneShift m (-e).toNat
  if neg then -q else q

/-- Conversion to an n-bit integer, saturating (Table 3.4). -/
def toInt (n : Nat) (v : Fl) : Int × Loss :=
  let lo : Int := -(2 ^ (n - 1) : Nat)
  let hi : Int := (2 ^ (n - 1) : Nat) - 1
  match v with
  | .nan _ => (0, .nf)
  | .inf s => (if s then lo else hi, .nf)
  | .fin s m e =>
    if m = 0 then (0, .none)
    else if Nat.log2 m + e ≥ n then (if s then lo else hi, .sat)
    else
      let q := rneInt s m e
      if q < lo then (lo, .sat) else if q > hi then (hi, .sat)
      else (q, if q = 0 then .ftz else .none)

end Fl

/-! ## binary32 on words -/

def fl (w : Word) : Fl := fp32.dec w.toNat
/-- Rounds a value to binary32. -/
def f32 (v : Fl) : Word := w32 (fp32.enc false v).1
def fadd (a b : Word) : Word := f32 ((fl a).add (fl b))
def fsub (a b : Word) : Word := f32 ((fl a).sub (fl b))
def fmul (a b : Word) : Word := f32 ((fl a).mul (fl b))
def ffma (a b c : Word) : Word := f32 ((fl a).fma (fl b) (fl c))
def fmaxw (a b : Word) : Word := f32 ((fl a).max (fl b))
def fminw (a b : Word) : Word := f32 ((fl a).min (fl b))
def fexp2 (a : Word) : Word := f32 (fl a).exp2
def flog2 (a : Word) : Word := f32 (fl a).log2
def frecip (a : Word) : Word := f32 (fl a).recip
def frsqrt (a : Word) : Word := f32 (fl a).rsqrt
def fsqrt (a : Word) : Word := f32 (fl a).sqrt
def flt (a b : Word) : Bool := (fl a).lt (fl b)
def fle (a b : Word) : Bool := (fl a).le (fl b)
def feq (a b : Word) : Bool := (fl a).eq (fl b)
def fIsFin (a : Word) : Bool := (fl a).isFin
/-- −∞, +∞ and 1 in binary32. -/
def fNegInf : Word := 0xFF800000#32
def fPosInf : Word := 0x7F800000#32
def fOne : Word := 0x3F800000#32
def fNaN : Word := 0x7FC00000#32
/-- Sign changed and cleared; a NaN stays the quiet NaN of its sign (R48, R162). -/
def fneg (a : Word) : Word := match fl a with | .nan _ => f32 (fl a) | _ => a ^^^ 0x80000000#32
def fabs (a : Word) : Word := match fl a with | .nan _ => f32 (fl a) | _ => a &&& 0x7FFFFFFF#32

/-- Row sum in the order of R166: groups of eight, a fixed pairwise tree, left to right. -/
def rsumGo : Nat → List Word → Word → Word
  | 0, _, r => r
  | _ + 1, [], r => r
  | n + 1, v, r =>
    let x (i : Nat) : Word := v.getD i 0
    let t := fadd (fadd (fadd (x 0) (x 1)) (fadd (x 2) (x 3)))
      (fadd (fadd (x 4) (x 5)) (fadd (x 6) (x 7)))
    rsumGo n (v.drop 8) (fadd r t)
def rsum (v : List Word) : Word := rsumGo (v.length / 8 + 1) v 0

end Sys2Proof.Machine
end

