-- ==== Sys2Proof/Machine/Formats.lean ====
section
/-! DEFINITION. The number formats of chapter 3: codes, sizes, packed pitches, reading and writing
tensor rows, scales (R50, R53, R55, R61), the split of R57 and the generator of R58. -/
namespace Sys2Proof.Machine

/-! ## Codes (Table 3.1) -/

/-- Element bits of a format; MX formats count the element alone. -/
def fmtBits (f : Nat) : Nat :=
  match f with
  | 0 => 32 | 1 => 16 | 2 => 16 | 3 => 8 | 4 => 8 | 5 => 8 | 6 => 8 | 7 => 6 | 8 => 6 | 9 => 4
  | 10 => 4 | 11 => 8 | 12 => 8 | 13 => 8 | 14 => 8 | 15 => 32 | _ => 0

/-- The element code of a floating-point format. -/
def fmtFp (f : Nat) : FpFmt :=
  match f with
  | 0 => fp32 | 1 => fp16 | 2 => bf16 | 3 => e4m3 | 4 => e5m2 | 5 => e4m3 | 6 => e5m2 | 7 => e3m2
  | 8 => e2m3 | _ => e2m1

def isMx (f : Nat) : Bool := decide (5 ≤ f ∧ f ≤ 9)
def isCz4 (f : Nat) : Bool := f == 10
/-- Formats of whole bytes with no block scale that Tundish computes on (R162). -/
def isPlain (f : Nat) : Bool := decide (f ≤ 4) || f == 14 || f == 15
/-- Formats with a tensor scale (R61). -/
def isScaled (f : Nat) : Bool := f == 3 || f == 4 || f == 14
/-- May be persistent (Table 3.1, R60). -/
def mayPersist (f : Nat) : Bool := decide (f ≤ 15) && f ≠ 0 && f ≠ 15

def align8 (n : Nat) : Nat := cdiv n 8 * 8
/-- Bytes of a row of `cols` elements, before rounding up (Table 8.2, R51). -/
def rowBytes (f cols : Nat) : Nat :=
  if isMx f then cdiv cols 32 * (4 * fmtBits f)
  else if isCz4 f then cdiv cols 128 * 72
  else cols * fmtBits f / 8
/-- Packed pitch of a format (Table 8.2). -/
def packed (f cols : Nat) : Nat := align8 (rowBytes f cols)
/-- Packed pitch of a scale plane (R427). -/
def scalePitch (cols : Nat) : Nat := align8 (cdiv cols 32)

/-! ## Decoding -/

/-- E8M0: 2^(X − 127), NaN for 255 (R49). -/
def e8m0 (x : Nat) (v : Fl) : Fl := if x = 255 then .nan false else v.scale2 ((x : Int) - 127)

/-- Element code `i` of a row of bytes. -/
def elemCode (f : Nat) (row : List Byte) (i : Nat) : Nat :=
  match fmtBits f with
  | 4 => let b := fld row (i / 2) 1
         if i % 2 = 0 then b % 16 else b / 16
  | 6 => fld row (i / 4 * 3) 3 / 2 ^ (6 * (i % 4)) % 64
  | n => fld row (i * (n / 8)) (n / 8)

/-- CZ4 element: code, block scale, τ; a scale with its sign set or NaN decodes as NaN (R51, R52). -/
def cz4Elem (row : List Byte) (tau : Int) (i : Nat) : Fl :=
  let g := i / 128 * 72
  let k := i % 128
  let sc := fld row (g + 64 + k / 16) 1
  let b := fld row (g + k / 2) 1
  let c := if k % 2 = 0 then b % 16 else b / 16
  if sc ≥ 0x80 ∨ sc = 0x7F then .nan false
  else ((e2m1.dec c).mul (e4m3.dec sc)).scale2 tau

/-- M8 element (R54); its scale is E8M0, so X = 255 makes it NaN (R49). -/
def m8s (q x : Nat) : Fl := e8m0 x (.ofInt (max (sext 8 q) (-127)))
def m8r (u x : Nat) : Fl := e8m0 x (.ofInt u)

/-- Value of element `i` of a row: scale plane row for MX, σ or τ for scaled formats. -/
def elem (f : Nat) (row scales : List Byte) (sig : Int) (i : Nat) : Fl :=
  if isCz4 f then cz4Elem row sig i
  else if isMx f then e8m0 (fld scales (i / 32) 1) ((fmtFp f).dec (elemCode f row i))
  else if f = 14 then Fl.scale2 (.ofInt (sext 8 (elemCode f row i))) sig
  else if f = 15 then .ofInt (sext 32 (elemCode f row i))
  else if isScaled f then ((fmtFp f).dec (elemCode f row i)).scale2 sig
  else (fmtFp f).dec (elemCode f row i)

/-- A row of `n` values. -/
def decRow (f : Nat) (row scales : List Byte) (sig : Int) (n : Nat) : List Fl :=
  (List.range n).map (elem f row scales sig)

/-! ## Encoding -/

/-- Conversion of one element to a plain format, after scaling by 2^(−σ) (R59). -/
def encElem (f : Nat) (e4nan : Bool) (sig : Int) (v : Fl) : Nat × Loss :=
  let v := if isScaled f then v.scale2 (-sig) else v
  if f = 14 then let r := v.toInt 8; (wrap 8 r.1, r.2)
  else if f = 15 then let r := v.toInt 32; (wrap 32 r.1, r.2)
  else (fmtFp f).enc e4nan v

/-- Largest finite magnitude of values, 0 where none is finite. -/
def amaxFin (vs : List Fl) : Fl :=
  vs.foldl (fun m v => match v with | .fin _ a e => Fl.max m (.fin false a e) | _ => m) Fl.zero

/-- The least X from `x` on, in `fuel` tries, with amax · 2^(127 − X) ≤ lim. -/
def leastX (lim : Fl) (amax : Fl) : Nat → Nat → Nat
  | 0, x => x
  | n + 1, x => if (amax.scale2 (127 - (x : Int))).le lim then x else leastX lim amax n (x + 1)

/-- Largest finite value of a format. -/
def maxFin (f : FpFmt) : Fl := f.dec f.maxc

/-- An MX block of values: scale and element codes (R50). An element beyond the largest finite value even at the
block's scale saturates; E4M3 elements then follow E4M3_NAN, which governs them as well (R59). -/
def encMx (f : Nat) (e4nan : Bool) (vs : List Fl) : Nat × List (Nat × Loss) :=
  let ef := fmtFp f
  if vs.any (fun v => !v.isFin) then
    (255, vs.map fun v => (0, if v.isFin then .none else .nf))
  else
    let am := amaxFin vs
    let x := if am.isZero then 127 else leastX (maxFin ef) am 254 0
    (x, vs.map fun v =>
      let r := ef.enc e4nan (v.scale2 (127 - (x : Int)))
      if r.2 = .sat ∧ !(e4nan && f == 5) then ((if v.sign then 2 ^ ef.sign else 0) + ef.maxc, .sat) else r)

/-- A CZ4 block of 16 values under τ: scale code and element codes (R53). Beyond 6 times the largest scale the
elements saturate (Table 3.4). A block of zeros of either sign has element codes 0x0, since the quotient of step 4 is
none there (DESIGN CHOICE, log 51). -/
def encCz4 (tau : Int) (vs : List Fl) : Nat × List (Nat × Loss) :=
  if vs.any (fun v => !v.isFin) then
    (0x7F, vs.map fun v => (0, if v.isFin then .none else .nf))
  else
    let ys := vs.map (·.scale2 (-tau))
    let am := amaxFin ys
    if am.isZero then (0, vs.map fun _ => (0, .none))
    else
      -- amax_y / 6 ≤ scale exactly when amax_y ≤ 6 · scale
      let sc := leastCode am 125 1
      (sc, ys.map fun y =>
        let r := e2m1.enc false (divF32 y (e4m3.dec sc))
        (r.1, if r.2 = .none ∧ r.1 % 8 = 0 ∧ !y.isZero then .ftz else r.2))
where
  /-- Least code whose sixfold value covers the magnitude, at most 0x7E. -/
  leastCode (am : Fl) : Nat → Nat → Nat
    | 0, c => c
    | n + 1, c =>
      if am.le ((e4m3.dec c).mul (.ofInt 6)) then c else leastCode am n (c + 1)
  /-- y / s rounded to binary32, s a positive finite value. -/
  divF32 (y s : Fl) : Fl :=
    match y, s with
    | .fin n a e, .fin _ b g =>
      if b = 0 then .inf n
      else
        let k := Nat.log2 b + 64
        let t := a * 2 ^ k
        let q := t / b
        fp32.dec (fp32.enc false (.fin n (2 * q + b2n (decide (t % b ≠ 0))) (e - g - k - 1))).1
    | y, _ => y

/-- An M8 block: scale and element codes (R55). -/
def encM8 (root : Bool) (vs : List Fl) : Nat × List (Nat × Loss) :=
  let lim : Int := if root then 255 else 127
  let am := amaxFin vs
  let x := if am.isZero then 0 else leastX (.ofInt lim) am 254 0
  (x, vs.map fun v =>
    match v.scale2 (127 - (x : Int)) with
    | .fin s m e =>
      let q := Fl.rneInt s m e
      let q' := max (-lim) (min lim q)
      ((if root then q'.toNat else wrap 8 q'),
        if q ≠ q' then .sat else if m ≠ 0 ∧ q = 0 then .ftz else .none)
    | _ => (0, .nf))

/-- Largest finite value of a tensor-scaled format (R61). -/
def scaleF (f : Nat) : Nat := match f with | 3 => 448 | 4 => 57344 | 14 => 127 | _ => 2688

/-- The largest s from `s` downward with amax · 2^s ≤ F. -/
def scaleDown (amax : Fl) (F : Nat) : Nat → Int → Int
  | 0, s => s
  | n + 1, s => if (amax.scale2 s).le (.ofInt F) then s else scaleDown amax F n (s - 1)

/-- σ of R61. -/
def sigmaOf (F : Nat) (amax : Fl) : Int :=
  if amax.isZero ∨ !amax.isFin then 0 else -(scaleDown amax F 254 127)

/-! ## Format-health tallies of a conversion -/

/-- Number of each kind: SAT, FTZ, NF (R64). -/
structure Tally where
  sat : Nat
  ftz : Nat
  nf : Nat
  deriving DecidableEq, Repr

def Tally.zero : Tally := ⟨0, 0, 0⟩
def Tally.add (t : Tally) (l : Loss) : Tally :=
  match l with
  | .none => t | .sat => { t with sat := t.sat + 1 } | .ftz => { t with ftz := t.ftz + 1 }
  | .nf => { t with nf := t.nf + 1 }
def Tally.plus (a b : Tally) : Tally := ⟨a.sat + b.sat, a.ftz + b.ftz, a.nf + b.nf⟩
def Tally.of (ls : List Loss) : Tally := ls.foldl Tally.add .zero

/-- Packs 6-bit codes, four to three bytes. -/
def pack6 : List Nat → List Byte
  | a :: b :: c :: d :: r => leBytes 3 (a + b * 64 + c * 4096 + d * 262144) ++ pack6 r
  | [] => []
  | a :: b :: c :: [] => leBytes 3 (a + b * 64 + c * 4096)
  | a :: b :: [] => leBytes 3 (a + b * 64)
  | a :: [] => leBytes 3 a
/-- Packs 4-bit codes, two to a byte. -/
def pack4 : List Nat → List Byte
  | a :: b :: r => BitVec.ofNat 8 (a + b * 16) :: pack4 r
  | [a] => [BitVec.ofNat 8 a]
  | [] => []
/-- Packs element codes of a format. -/
def packCodes (f : Nat) (cs : List Nat) : List Byte :=
  match fmtBits f with
  | 4 => pack4 cs
  | 6 => pack6 cs
  | n => cs.flatMap fun c => leBytes (n / 8) c

/-- Groups of `n`, at most `fuel` of them. -/
def chunks {α : Type} : Nat → Nat → List α → List (List α)
  | 0, _, _ => []
  | f + 1, n, l => if l.isEmpty then [] else l.take n :: chunks f n (l.drop n)
def chunksOf {α : Type} (n : Nat) (l : List α) : List (List α) := chunks (l.length + 1) n l

/-- A list padded with a value to a multiple of `n`. -/
def padTo {α : Type} (n : Nat) (d : α) (l : List α) : List α :=
  l ++ List.replicate (cdiv l.length n * n - l.length) d

/-- A row of values converted to a format: its bytes, its scale-plane bytes (MX), what was lost. -/
def encRow (f : Nat) (e4nan : Bool) (sig : Int) (vs : List Fl) : List Byte × List Byte × Tally :=
  if isMx f then
    let bs := (chunksOf 32 vs).map fun b => (encMx f e4nan b, b.length)
    (bs.flatMap (fun b => packCodes f (padTo 32 0 (b.1.2.map (·.1)))),
     bs.map (fun b => BitVec.ofNat 8 b.1.1), Tally.of (bs.flatMap fun b => b.1.2.map (·.2)))
  else if isCz4 f then
    let gs := (chunksOf 128 vs).map fun g => (chunksOf 16 g).map (encCz4 sig)
    (gs.flatMap (fun g =>
        pack4 (padTo 128 0 (g.flatMap fun b => padTo 16 0 (b.2.map (·.1)))) ++
        (List.range 8).map fun i => BitVec.ofNat 8 ((g.map (·.1)).getD i 0)),
     [], Tally.of (gs.flatMap fun g => g.flatMap fun b => b.2.map (·.2)))
  else
    let cs := vs.map (encElem f e4nan sig)
    (packCodes f (cs.map (·.1)), [], Tally.of (cs.map (·.2)))

/-! ## The generator (R58) and the split (R57) -/

def rotl (x n : Nat) : Nat := (x * 2 ^ n % 2 ^ 32) ||| (x / 2 ^ (32 - n))

/-- Ten rounds of the mixing function. -/
def mixGo (k0 k1 : Nat) : Nat → Nat → Nat → Nat → Nat → Nat → Nat × Nat × Nat × Nat
  | 0, _, a, b, x, y => (a, b, x, y)
  | n + 1, r, a, b, x, y =>
    let ka := (k0 + r * 0xB5AD4ECF) % 2 ^ 32
    let kx := (k1 + r * 0x68E31DA5) % 2 ^ 32
    let p := (a ^^^ ka) * 0xD1B54A33
    let q := (x ^^^ kx) * 0xCA5A8267
    mixGo k0 k1 n (r + 1) ((q / 2 ^ 32) ^^^ rotl b 7) (q % 2 ^ 32) ((p / 2 ^ 32) ^^^ rotl y 13)
      (p % 2 ^ 32)

/-- mix of R58: four words. -/
def mix (key c0 c1 c2 c3 : Nat) : List Nat :=
  let k0 := key % 2 ^ 32
  let k1 := key / 2 ^ 32 % 2 ^ 32
  let (a, b, x, y) := mixGo k0 k1 10 0 c0 c1 c2 c3
  [a ^^^ k1, (b + k0) % 2 ^ 32, x ^^^ k0, (y + k1) % 2 ^ 32]

/-- rand16 of R58. -/
def rand16 (key stepWord tensor e : Nat) : Nat :=
  let blk := e / 8
  let lane := e % 8
  let o := mix key (blk % 2 ^ 32) (0x10000 ||| blk / 2 ^ 32) tensor stepWord
  (o.getD (lane / 2) 0) / 2 ^ (16 * (lane % 2)) % 2 ^ 16

/-- Exponent of ulp(H) of a BF16 code (2^−133 for zero and subnormal). -/
def ulpExp (h : Nat) : Int :=
  let e : Nat := h / 2 ^ 7 % 256
  if e = 0 then -133 else (e : Int) - 127 - 7

/-- The master value H + D · u(H) (R56). -/
def master (h d : Nat) : Fl := (bf16.dec h).add (Fl.scale2 (.ofInt (sext 8 d)) (ulpExp h - 8))

/-- split of R57 of a finite f32 value: the new H, D and what was lost. A v beyond the largest finite BF16 that still
rounds to it counts as no SAT, as R64 counts after rounding (DESIGN CHOICE, log 55). -/
def split (v : Fl) (key stepWord tensor e : Nat) : Nat × Nat × Loss :=
  match v with
  | .fin s m _ =>
    let r := bf16.enc false v
    let sat := decide (r.2 = .sat)
    let h : Nat := if sat then (if s then 0x8000 else 0) + 0x7F7F else r.1
    let x := (v.sub (bf16.dec h)).scale2 (8 - ulpExp h)
    -- x in units of 2^−16, exact (R57); beyond the largest finite BF16 it is kept as it stands
    let n : Int := match x with
      | .fin t a k => (if k + 16 ≥ 0 then Fl.num t a (k + 16) 0
          else Int.fdiv (Fl.num t a 0 0) (2 ^ (-(k + 16)).toNat))
      | _ => 0
    let i := Int.fdiv n 65536
    let f := (Int.fmod n 65536).toNat
    let i := if rand16 key stepWord tensor e < f then i + 1 else i
    let d := max (-128) (min 127 i)
    let d8 := wrap 8 d
    (h, d8, if sat then .sat
      else if m ≠ 0 ∧ h % 2 ^ 15 = 0 ∧ d8 = 0 then .ftz else .none)
  | _ => (0, 0, .nf)

end Sys2Proof.Machine
end

