-- ==== Sys2Proof/Machine/Crypto.lean ====
section
/-! DEFINITION. Check codes and digests: CRC-8 (R374), CRC-16 (Table 15.1), CRC-32 (R379, R352),
CRC-64 (R258), SHA-256 and HMAC (R384, R385). -/
namespace Sys2Proof.Machine

/-- `n` shifts of a CRC register of `w` bits, most significant bit first. -/
def crcShift (w poly : Nat) : Nat → Nat → Nat
  | 0, r => r
  | n + 1, r =>
    let t := r * 2 % 2 ^ w
    crcShift w poly n (if r / 2 ^ (w - 1) % 2 = 1 then t ^^^ poly else t)

/-- CRC of bytes, most significant bit first, no final inversion. -/
def crcMsb (w poly init : Nat) (bs : List Byte) : Nat :=
  bs.foldl (fun r b => crcShift w poly 8 (r ^^^ (b.toNat * 2 ^ (w - 8)))) init

/-- `n` shifts of a reflected CRC register. -/
def crcShiftR (poly : Nat) : Nat → Nat → Nat
  | 0, r => r
  | n + 1, r => crcShiftR poly n (if r % 2 = 1 then (r / 2) ^^^ poly else r / 2)

/-- CRC-16 of a message header: bytes 0 to 5 and 8 to 15 (Table 15.1). -/
def crc16 (m : List Byte) : Nat := crcMsb 16 0x1021 0xFFFF (slice m 0 6 ++ slice m 8 8)
/-- CRC-8 of an authority word: bits 55 to 0 (R374). -/
def crc8 (w : Nat) : Nat := crcMsb 8 0x07 0 ((leBytes 7 w).reverse)
/-- The IEEE 802.3 CRC-32. -/
def crc32 (bs : List Byte) : Nat :=
  bs.foldl (fun r b => crcShiftR 0xEDB88320 8 (r ^^^ b.toNat)) 0xFFFFFFFF ^^^ 0xFFFFFFFF
/-- The CRC-64 of ECMA-182. -/
def crc64 (bs : List Byte) : Nat := crcMsb 64 0x42F0E1EBA9EA3693 0 bs

/-! ## SHA-256. Its tables are computed from what defines them: the fractions of the square and cube roots of the first primes. -/

/-- The largest x below 2^bits with x^k ≤ n, bit by bit. -/
def rootBelow (k n : Nat) : Nat → Nat → Nat
  | 0, x => x
  | b + 1, x => rootBelow k n b (if (x + 2 ^ b) ^ k ≤ n then x + 2 ^ b else x)
/-- The first 32 fraction bits of the k-th root of p. -/
def rootFrac (k p : Nat) : Nat := rootBelow k (p * 2 ^ (32 * k)) 37 0 % 2 ^ 32
def primesTo (n : Nat) : List Nat :=
  (List.range (n + 1)).filter fun p => decide (2 ≤ p) && (List.range p).all fun q => decide (q < 2) || p % q ≠ 0
/-- Words added in the 64 rounds, and the chaining value before the first block. -/
def shaK : List Nat := (primesTo 311).map (rootFrac 3)
def shaInit : List Nat := (primesTo 19).map (rootFrac 2)

/-- Exclusive OR of a word rotated right by each of the amounts. -/
def rotXor (x : Nat) (ns : List Nat) : Nat :=
  ns.foldl (fun a n => a ^^^ (x / 2 ^ n + x % 2 ^ n * 2 ^ (32 - n))) 0

/-- The big-endian number of bytes, and the reverse. -/
def beNat (bs : List Byte) : Nat := leNat bs.reverse
def beBytes (n v : Nat) : List Byte := (leBytes n v).reverse

/-- The compression of a block runs on the last 16 schedule words, newest last, and on the chaining words from a
to h: one round takes the oldest word, and makes the one 16 places later. -/
def shaRounds : List Nat → List Nat → List Nat → List Nat
  | [], _, v => v
  | k :: ks, w, v =>
    let x (i : Nat) := nth 0 w i
    let y (i : Nat) := nth 0 v i
    let up := y 7 + rotXor (y 4) [6, 11, 25] + ((y 4 &&& y 5) + ((2 ^ 32 - 1 - y 4) &&& y 6)) + k + x 0
    let down := rotXor (y 0) [2, 13, 22] + ((y 0 &&& (y 1 ||| y 2)) ||| (y 1 &&& y 2))
    let late := rotXor (x 1) [7, 18] ^^^ x 1 / 8
    let soon := rotXor (x 14) [17, 19] ^^^ x 14 / 1024
    shaRounds ks (w.drop 1 ++ [(x 0 + late + x 9 + soon) % 2 ^ 32])
      ([(up + down) % 2 ^ 32] ++ v.take 3 ++ [(y 3 + up) % 2 ^ 32] ++ (v.drop 4).take 3)

/-- The chaining value after the blocks of a padded message, at most `n` of them. -/
def shaChain : Nat → List Byte → List Nat → List Nat
  | 0, _, v => v
  | n + 1, bs, v =>
    let w := (List.range 16).map fun i => beNat (slice bs (4 * i) 4)
    shaChain n (bs.drop 64) (List.zipWith (fun a b => (a + b) % 2 ^ 32) v (shaRounds shaK w v))

/-- SHA-256 of bytes: a 1 bit, zeros and the length in bits fill the last block. -/
def sha256 (bs : List Byte) : List Byte :=
  let n := bs.length / 64 + (if bs.length % 64 < 56 then 1 else 2)
  let fill := List.replicate (64 * n - bs.length - 9) (0 : Byte)
  (shaChain n (bs ++ (0x80 :: fill) ++ beBytes 8 (8 * bs.length)) shaInit).flatMap (beBytes 4)

/-- HMAC-SHA-256 under a 32-byte key. -/
def hmac256 (key bs : List Byte) : List Byte :=
  let k := slice key 0 64
  sha256 (k.map (· ^^^ 0x5C#8) ++ sha256 (k.map (· ^^^ 0x36#8) ++ bs))

end Sys2Proof.Machine
end

