-- ==== Sys2Proof/Config.lean ====
section
/-! DEFINITION. What the spec leaves open: free values (constants with no body, so that nothing can
be proved of their value) and what one part fixes. -/
namespace Sys2Proof.Config

/-- Contents of on-die memory that nothing has written since a command start (R85, R107, R129), by
epoch and address (DESIGN CHOICE, log 6). -/
opaque sramByte : Nat → Nat → Byte
/-- A free word, by the count of free values drawn (DESIGN CHOICE, log 6). -/
opaque freeWord : Nat → Word
/-- The random source of a debug challenge (R384; DESIGN CHOICE, log 6). -/
opaque nonce : Nat → BitVec 128
/-- A byte of a word with an uncorrectable error (R233; DESIGN CHOICE, log 6). -/
opaque poisonByte : Nat → Byte
/-- CRC of a Ladle message, whose body is opaque, by destination and TAG (R362; DESIGN CHOICE, log 26). -/
opaque ladleCrc : Nat → Nat → Word
/-- FW_VER (Table 17.9, per stepping; DESIGN CHOICE, log 9). -/
opaque fwVersion : Word
/-- Manufacturer code of IDCODE (Table 18.6, as in the BSDL description; DESIGN CHOICE, log 9). -/
opaque jtagMaker : BitVec 11
/-- Rates in bytes per second that host software assumes for a command (R311), by partition, command
and term: 0 G_w, 1 G_x, 2 G_y, 3 G_r, 4 Ladle rate G, 5 the hop latency in ns (DESIGN CHOICE, log 10). -/
opaque rate : Nat → Nat → Nat → Nat

end Sys2Proof.Config
end

