-- ==== Sys2Proof/Machine/Ops.lean ====
section
/-! DEFINITION. The named operations over State: field updates, registers as words, counters,
events and the error log (R36 to R38), device memory as bytes, time and free values. -/
namespace Sys2Proof.Machine

/-! ## Field updates -/

def State.setPending (s : State) (x : List Instr) : State := { s with pending := x }
def State.setFresh (s : State) (x : Nat) : State := { s with fresh := x }
def State.setDev (s : State) (x : Dev) : State := { s with dev := x }
def State.setWest (s : State) (x : DieSt) : State := { s with west := x }
def State.setEast (s : State) (x : DieSt) : State := { s with east := x }
def State.setMaps (s : State) (x : Maps) : State := { s with maps := x }
def State.setBus (s : State) (x : Bus) : State := { s with bus := x }
def State.setMem (s : State) (x : List Host.Cell) : State := { s with mem := x }
def State.setUnits (s : State) (x : Tbl SeqUnit) : State := { s with units := x }
def State.setSprue (s : State) (x : Sprue) : State := { s with sprue := x }
def State.setStk (s : State) (x : Stacks) : State := { s with stk := x }
def State.setParts (s : State) (x : Tbl Part) : State := { s with parts := x }
def State.setRings (s : State) (x : Tbl Ring) : State := { s with rings := x }
def State.setFabric (s : State) (x : Fabric) : State := { s with fabric := x }
def State.setHealth (s : State) (x : Health) : State := { s with health := x }
def State.setDbg (s : State) (x : Dbg) : State := { s with dbg := x }
def State.setTaps (s : State) (x : Tbl Tap) : State := { s with taps := x }

/-! ## Parts of the state by number -/

/-- Die 0 is West, any other number East. -/
def State.die (s : State) (d : Nat) : DieSt := if d = 0 then s.west else s.east
def State.setDie (s : State) (d : Nat) (x : DieSt) : State :=
  if d = 0 then s.setWest x else s.setEast x
def State.modDie (s : State) (d : Nat) (f : DieSt → DieSt) : State := s.setDie d (f (s.die d))
def State.unit (s : State) (u : Nat) : SeqUnit := tget .reset s.units u
def State.setUnit (s : State) (u : Nat) (x : SeqUnit) : State :=
  s.setUnits (tput .reset s.units u x)
def State.modUnit (s : State) (u : Nat) (f : SeqUnit → SeqUnit) : State := s.setUnit u (f (s.unit u))
def State.part (s : State) (p : Nat) : Part := tget .empty s.parts p
def State.setPart (s : State) (p : Nat) (x : Part) : State := s.setParts (tput .empty s.parts p x)
def State.modPart (s : State) (p : Nat) (f : Part → Part) : State := s.setPart p (f (s.part p))
def State.ring (s : State) (r : Nat) : Ring := tget .reset s.rings r
def State.setRing (s : State) (r : Nat) (x : Ring) : State := s.setRings (tput .reset s.rings r x)
def State.modRing (s : State) (r : Nat) (f : Ring → Ring) : State := s.setRing r (f (s.ring r))
def State.port (s : State) (n : Nat) : Port := tget .reset s.fabric.ports n
def State.setPort (s : State) (n : Nat) (x : Port) : State :=
  s.setFabric { s.fabric with ports := tput .reset s.fabric.ports n x }
def State.modPort (s : State) (n : Nat) (f : Port → Port) : State := s.setPort n (f (s.port n))
def State.stack (s : State) (n : Nat) : Stack := tget .reset s.stk.st n
def State.setStack (s : State) (n : Nat) (x : Stack) : State :=
  s.setStk { s.stk with st := tput .reset s.stk.st n x }
def State.modStack (s : State) (n : Nat) (f : Stack → Stack) : State := s.setStack n (f (s.stack n))
/-- Granule g of stack n has key n × 2^16 + g. -/
def State.gran (s : State) (k : Nat) : Gran := tget .free s.stk.gran k
def State.setGran (s : State) (k : Nat) (x : Gran) : State :=
  s.setStk { s.stk with gran := tput .free s.stk.gran k x }
def State.tap (s : State) (d : Nat) : Tap := tget .reset s.taps d
def State.setTap (s : State) (d : Nat) (x : Tap) : State := s.setTaps (tput .reset s.taps d x)

/-- GLB time in ns. -/
def State.now (s : State) : Nat := s.dev.time

/-- An idle nanosecond: GLB time counts once it runs (Table 2.9; DESIGN CHOICE, log 2). -/
def State.tick (s : State) : State :=
  if s.dev.timeRun then s.setDev { s.dev with time := s.dev.time + 1 } else s

/-- The next free value's number, and the state that has drawn it. -/
def State.draw (s : State) : Nat × State := (s.fresh, s.setFresh (s.fresh + 1))

/-! ## Pages of BAR0 (Tables 2.2, 2.3) -/

/-- The kinds of register page. -/
inductive PageKind where
  | glb | mgt | host | otp | dbg | pyro | clk | d2d | part | mould | cruc | sprue | ladle | port
  | stack | fum
  deriving DecidableEq, Repr

/-- Kind and instance of the page at page number `n` (BAR0 offset / 0x1000); instance of a FUM page
is stack × 64 + unit. -/
def pageOf (n : Nat) : Option (PageKind × Nat) :=
  if n = 0 then some (.glb, 0)
  else if n = 1 then some (.mgt, 0) else if n = 2 then some (.mgt, 1)
  else if n = 3 then some (.host, 0)
  else if n = 4 then some (.otp, 0) else if n = 5 then some (.otp, 1)
  else if n = 6 then some (.dbg, 0)
  else if n = 7 then some (.pyro, 0) else if n = 8 then some (.pyro, 1)
  else if n = 9 then some (.clk, 0) else if n = 10 then some (.clk, 1)
  else if n = 11 then some (.d2d, 0) else if n = 12 then some (.d2d, 1)
  else if 0x10 ≤ n ∧ n ≤ 0x17 then some (.part, n - 0x10)
  else if 0x100 ≤ n ∧ n ≤ 0x15F then some (.mould, n - 0x100)
  else if 0x200 ≤ n ∧ n ≤ 0x253 then some (.cruc, n - 0x200)
  else if n = 0x300 then some (.sprue, 0) else if n = 0x301 then some (.sprue, 1)
  else if n = 0x310 then some (.ladle, 0) else if n = 0x311 then some (.ladle, 1)
  else if 0x320 ≤ n ∧ n ≤ 0x32F then some (.port, n - 0x320)
  else if 0x400 ≤ n ∧ n < 0x700 then
    let st := (n - 0x400) / 0x40
    let k := (n - 0x400) % 0x40
    if k = 0 then some (.stack, st)
    else if k ≤ 33 then some (.fum, st * 64 + (k - 1)) else none
  else none

/-- Page number of a page. -/
def pageNo : PageKind → Nat → Nat
  | .glb, _ => 0 | .mgt, d => 1 + d | .host, _ => 3 | .otp, d => 4 + d | .dbg, _ => 6
  | .pyro, d => 7 + d | .clk, d => 9 + d | .d2d, d => 11 + d | .part, p => 0x10 + p
  | .mould, n => 0x100 + n | .cruc, n => 0x200 + n | .sprue, d => 0x300 + d
  | .ladle, d => 0x310 + d | .port, n => 0x320 + n | .stack, n => 0x400 + n * 0x40
  | .fum, i => 0x400 + i / 64 * 0x40 + (i % 64 + 1)

/-- Type code and BLK_ID instance of a page (Table 2.3). -/
def typeCode : PageKind → Nat
  | .glb => 1 | .mgt => 2 | .host => 3 | .otp => 4 | .dbg => 5 | .pyro => 6 | .clk => 7 | .d2d => 8
  | .part => 0x10 | .mould => 0x20 | .cruc => 0x21 | .sprue => 0x30 | .ladle => 0x31 | .port => 0x32
  | .stack => 0x40 | .fum => 0x41
def blkInstance (k : PageKind) (i : Nat) : Nat :=
  match k with
  | .fum => i / 64 * 256 + i % 64
  | _ => i

/-! ## Register words -/

/-- Reset value of a register word that is not a view (the Reset columns of chapters 1 to 18). -/
def regReset (k : PageKind) (off : Nat) : Word :=
  match k with
  | .sprue => if off < 0x40 ∨ 0x140 ≤ off then 0
      else if (off - 0x40) % 0x20 = 4 then 0x01112000#32
      else if (off - 0x40) % 0x20 = 8 then 0x3F800000#32 else 0
  | .stack => if off = 0x50 then 0x00645F55#32 else 0
  | .host => if 0x100 ≤ off ∧ off < 0x340 then
        (if (off - 0x100) % 0x40 = 0x10 then 0x606#32
         else if (off - 0x100) % 0x40 = 0x24 then 1 else 0)
      else if 0x800 ≤ off ∧ off < 0x8A0 ∧ off % 16 = 12 then 1 else 0
  | .port => if off = 0xA8 then 0x4000B9D0#32 else if off = 0xBC then 0x2000#32
      else if off = 0xC0 then 0x64#32 else 0
  | .pyro => if off = 0x820 then 1 else 0
  | .clk => if off = 0x44 then 1500#32 else 0
  | _ => 0

/-- Reset value by BAR0 offset. -/
def resetAt (a : Nat) : Word :=
  match pageOf (a / 0x1000) with
  | some (k, _) => regReset k (a % 0x1000)
  | none => 0

/-- The word held at a BAR0 offset. -/
def State.rg (s : State) (a : Nat) : Word := tget (resetAt a) s.bus.regs a

/-- A register word written; the reset value is not listed. -/
def State.setRg (s : State) (a : Nat) (v : Word) : State :=
  s.setBus { s.bus with regs := tput (resetAt a) s.bus.regs a v }

/-- A word of a page, and its update. -/
def State.pg (s : State) (k : PageKind) (i off : Nat) : Nat := (s.rg (pageNo k i * 0x1000 + off)).toNat
def State.setPg (s : State) (k : PageKind) (i off v : Nat) : State :=
  s.setRg (pageNo k i * 0x1000 + off) (w32 v)

/-- A 32-bit counter that saturates at all ones. -/
def State.count32 (s : State) (k : PageKind) (i off n : Nat) : State :=
  s.setPg k i off (min (s.pg k i off + n) 0xFFFFFFFF)
/-- A 16-bit counter that saturates. -/
def State.count16 (s : State) (k : PageKind) (i off n : Nat) : State :=
  s.setPg k i off (min (s.pg k i off + n) 0xFFFF)
/-- A 64-bit counter in a _LO and _HI pair that saturates at all ones (R41). -/
def State.count64 (s : State) (k : PageKind) (i off n : Nat) : State :=
  let v := min (s.pg k i off + 2 ^ 32 * s.pg k i (off + 4) + n) (2 ^ 64 - 1)
  (s.setPg k i off (v % 2 ^ 32)).setPg k i (off + 4) (v / 2 ^ 32)

/-- Counts or positions of a page move from now on; what they come to is open (DESIGN CHOICE, log 30). -/
def State.moves (s : State) (k : PageKind) (i : Nat) : State :=
  let n := pageNo k i
  if s.bus.moving.contains n then s else s.setBus { s.bus with moving := n :: s.bus.moving }

/-- The byte count of a page moves from now on by an open amount (DESIGN CHOICE, log 30). -/
def State.movesBytes (s : State) (k : PageKind) (i : Nat) : State :=
  let n := pageNo k i + 2 ^ 16
  if s.bus.moving.contains n then s else s.setBus { s.bus with moving := n :: s.bus.moving }

/-! ## Device memory as bytes (Table 2.1) -/

/-- Device address of host bus address 0. -/
def hostBase : Nat := 0x800000000000

def State.byte (s : State) (a : Nat) : Byte := tget 0 s.mem a
def State.setByte (s : State) (a : Nat) (b : Byte) : State := s.setMem (tput 0 s.mem a b)
/-- `n` bytes from an address. -/
def State.bytes (s : State) (a n : Nat) : List Byte := (List.range n).map fun i => s.byte (a + i)
/-- Bytes laid down from an address. -/
def State.setBytes (s : State) (a : Nat) : List Byte → State
  | [] => s
  | b :: r => (s.setByte a b).setBytes (a + 1) r
/-- A run of bytes set to zero: no entry of the run stays listed. -/
def State.zeroBytes (s : State) (a n : Nat) : State :=
  s.setMem (s.mem.filter fun c => !(decide (a ≤ c.1) && decide (c.1 < a + n)))
/-- Host memory by bus address. -/
def State.hostBytes (s : State) (a n : Nat) : List Byte := s.bytes (hostBase + a % 2 ^ 47) n
/-- The logic of a die drives its pins: no instruction of the TAP holds them (R399). -/
def State.drives (s : State) (d : Nat) : Bool := !([0, 3, 4, 5, 6] : List Nat).contains (s.tap d).ir
/-- Bytes written to host memory; nothing arrives there while the pins of West are held. -/
def State.setHostBytes (s : State) (a : Nat) (bs : List Byte) : State :=
  if s.drives 0 then s.setBytes (hostBase + a % 2 ^ 47) bs else s

/-! ## Events, the error log and MSI-X (R33, R36 to R38, R333) -/

/-- A vector of the MSI-X table fires: its message is written to host memory, or its pending bit is
set while the table masks it. -/
def State.fireVector (s : State) (v : Nat) : State :=
  let e := 0x800 + 16 * v
  if bit (s.pg .host 0 (e + 12)) 0 then
    s.setPg .host 0 0xC00 (s.pg .host 0 0xC00 ||| 2 ^ v)
  else
    s.setHostBytes (s.pg .host 0 e + 2 ^ 32 * s.pg .host 0 (e + 4)) (leBytes 4 (s.pg .host 0 (e + 8)))

/-- Sets a BLK_EVT bit (R36); a set of a bit that is 1 is counted (R37). A HOST bit that becomes 1
while it is enabled fires vector 9 (R333). -/
def State.evSet (s : State) (k : PageKind) (i b : Nat) : State :=
  let e := s.pg k i 0x14
  if bit e b then
    let c := s.pg k i 0x20
    s.setPg k i 0x20 (min (bits c 15 0 + 1) 0xFFFF + b * 2 ^ 16)
  else
    let s := s.setPg k i 0x14 (e + 2 ^ b)
    if k = .host ∧ bit (s.pg .host 0 0x18) b then s.fireVector 9 else s

/-- An error of a block (R38): captured in BLK_ERRLOG0 to 3 or counted as OVERFLOW; sets ERR. -/
def State.errLog (s : State) (k : PageKind) (i code part info1 info2 : Nat) : State :=
  let l := s.pg k i 0x28
  let s :=
    if bit l 31 then s.setPg k i 0x28 (l ||| 2 ^ 30)
    else
      (((s.setPg k i 0x28 (2 ^ 31 + code * 2 ^ 16 + part % 16 * 2 ^ 8)).setPg k i 0x2C info1).setPg
        k i 0x30 info2).setPg k i 0x34 (s.now % 2 ^ 32)
  s.evSet k i 0

/-- A further error reaches a page whose log is full (R38). -/
def State.errAgain (s : State) (k : PageKind) (i : Nat) : State :=
  let l := s.pg k i 0x28
  if bit l 31 then (s.setPg k i 0x28 (l ||| 2 ^ 30)).evSet k i 0 else s

/-- Event bits that hardware can set in one cycle with an access: ERR only as a further error, since a first one comes
with its cause. -/
def State.hwBits (s : State) (k : PageKind) (i : Nat) (hw : Word) : Word :=
  if bit (s.pg k i 0x28) 31 then hw else hw &&& ~~~1

/-- The event bits of a mask, set by hardware (R36). -/
def State.hwSets (s : State) (k : PageKind) (i hw : Nat) : State :=
  forN 32 s fun b s => if bit hw b then (if b = 0 then s.errAgain k i else s.evSet k i b) else s

/-- An event with an error code: the bit is set and the error captured. -/
def State.evErr (s : State) (k : PageKind) (i b code part info1 info2 : Nat) : State :=
  (s.evSet k i b).errLog k i code part info1 info2

end Sys2Proof.Machine
end

