-- ==== Sys2Proof/Machine/Rings.lean ====
section
/-! DEFINITION. Completion rings: how responses and Vents are formed and written, interrupts, fences
and dependencies (R331 to R334, R340 to R342, R345, Tables 15.1, 15.4, 15.10). -/
namespace Sys2Proof.Machine

/-! ## Ring registers (Tables 15.15, 15.16) -/

/-- Offset in the HOST page of a register of ring r. -/
def ringOff (r off : Nat) : Nat := 0x100 + 0x40 * r + off
def State.ringRg (s : State) (r off : Nat) : Nat := s.pg .host 0 (ringOff r off)
def State.setRingRg (s : State) (r off v : Nat) : State := s.setPg .host 0 (ringOff r off) v
/-- A 64-bit base of a ring in its _LO and _HI registers. -/
def State.ringBase (s : State) (r off : Nat) : Nat := s.ringRg r off + 2 ^ 32 * s.ringRg r (off + 4)
def State.ringEn (s : State) (r : Nat) : Bool := bit (s.ringRg r 0x10) 16
/-- Slots of the submission and of the completion ring. -/
def State.sqSize (s : State) (r : Nat) : Nat := 2 ^ bits (s.ringRg r 0x10) 4 0
def State.cqSize (s : State) (r : Nat) : Nat := 2 ^ bits (s.ringRg r 0x10) 12 8
/-- Slots written by host software and not yet consumed. -/
def State.sqUsed (s : State) (r : Nat) : Nat :=
  (s.ringRg r 0x14 + 2 ^ 32 - s.ringRg r 0x18) % 2 ^ 32
/-- Free slots of the completion ring; never negative (R331). -/
def State.cqRoom (s : State) (r : Nat) : Nat :=
  s.cqSize r - (s.ringRg r 0x20 + 2 ^ 32 - s.ringRg r 0x1C) % 2 ^ 32

/-! ## Forming entries -/

/-- Sixteen header bytes with PHASE and CRC at zero. -/
def header (ver part opcode flags seq tag : Nat) : List Byte :=
  leBytes 1 ver ++ leBytes 1 part ++ leBytes 2 opcode ++ leBytes 2 flags ++ [0, 0] ++
    leBytes 4 seq ++ leBytes 4 tag

/-- An entry of whole slots from a header's fields and its bytes from 16 on. -/
def entryBytes (ver part opcode flag seq tag : Nat) (body : List Byte) : List Byte :=
  let n := cdiv (16 + body.length) 64
  slice (header ver part opcode (n + flag) seq tag ++ body) 0 (64 * n)

/-- PHASE, the Vent count as SEQ, and the CRC, filled when the entry is written. -/
def sealEntryBytes (bs : List Byte) (phase : Bool) (vents : Nat) : List Byte :=
  let lf := fld bs 4 2
  let bs := lay bs 4 (leBytes 2 (lf + b2n phase * 0x1000))
  let bs := if bit lf 14 then lay bs 8 (leBytes 4 vents) else bs
  lay bs 6 (leBytes 2 (crc16 bs))

/-- VERSION that an entry of a ring carries: the negotiated one, 0x20 before (DEDUCED, log 11). -/
def State.ringVer (s : State) (r : Nat) : Nat := if (s.ring r).neg then (s.ring r).ver else 0x20

/-- The partition that a ring's own messages carry in PART. -/
def ringPart (r : Nat) : Nat := if r < 8 then r else 0xFF

/-! ## Completion data -/

/-- A completion with a status alone. -/
def Compl.of (status : Nat) : Compl :=
  { status := status, detail := 0, cflags := 0, nstat := 0, result := [] }
def Compl.ok : Compl := .of 0
/-- MALFORMED for the field at a byte offset (Table 15.4). -/
def Compl.malformed (off : Nat) : Compl := { Compl.of 2 with detail := off / 4 }
/-- MALFORMED for what no field of the message holds. -/
def Compl.malformedAny : Compl := { Compl.of 2 with detail := 0xFF }

/-- Body of a response (Table 15.4). -/
def Compl.body (c : Compl) (start fin : Nat) : List Byte :=
  leBytes 1 c.status ++ leBytes 1 c.detail ++ leBytes 2 c.cflags ++ leBytes 4 c.nstat.toNat ++
    leBytes 8 start ++ leBytes 8 fin ++ slice c.result 0 24

/-! ## Writing -/

/-- Updates the step state of a partition, and the reductions of one of its live steps. -/
def State.modStep (s : State) (p : Nat) (f : StepSt → StepSt) : State :=
  s.modPart p fun q => { q with step := f q.step }
def State.modRed (s : State) (p step : Nat) (f : StepRed → StepRed) : State :=
  s.modStep p fun x => { x with
    opened := x.opened.map fun r => if r.step = step then f r else r,
    sealing := x.sealing.map fun z => if z.2.step = step then (z.1, f z.2) else z }

/-- A response of the message of a number has been written: outcome kept, message answered, DONE_MB, a reduction of its step done
(R199, R243, R332, R340). -/
def State.answered (s : State) (r seq status : Nat) : State :=
  let g := s.ring r
  let s := s.setRing r { g with
    hist := (seq, status) :: g.hist.take 65535,
    opens := g.opens.eraseP (fun o => o.1 == seq) }
  let p := r
  let done := (s.part p).cmds.filter fun c => c.seq == seq && c.phase == .answered
  let s := s.modPart p fun q =>
    { q with cmds := q.cmds.filter fun c => !(c.seq == seq && c.phase == .answered) }
  done.foldl (fun s c =>
    if (c.opcode = 0x300 ∨ c.opcode = 0x301) ∧ bit (fld c.msg 52 1) 0 ∧ status = 0 then
      let mb := fld c.msg 48 4
      let last := mb :: tget [] s.sprue.lastOk p
      let d := tget 0 s.sprue.doneMb p
      -- the lowest number whose LAST command has not completed with OK
      let d' := forN (last.length + 1) d fun _ x => if last.contains x then x + 1 else x
      s.setSprue { s.sprue with
        doneMb := tput 0 s.sprue.doneMb p d',
        lastOk := tput [] s.sprue.lastOk p (last.filter (d' ≤ ·)) }
    else if c.opcode = 0x400 ∧ status = 0 then
      s.modRed p (fld c.data 0 8) fun x => { x with done := x.done ++ [fld c.data 8 2] }
    else s) s

/-- Bytes of whole slots at CQ_TAIL. -/
def State.cqPut (s : State) (r : Nat) (bs : List Byte) : State :=
  let t := s.ringRg r 0x20
  let s := s.setHostBytes (s.ringBase r 0x08 + t % s.cqSize r * 64) bs
  s.setRingRg r 0x20 (t + bs.length / 64)

/-- PHASE of an entry at CQ_TAIL (R331). -/
def State.cqPhase (s : State) (r : Nat) : Bool := s.ringRg r 0x20 / s.cqSize r % 2 = 0

/-- Vector r fires under R333: entries since it last fired, with CNT not 0. -/
def State.irqFire (s : State) (r : Nat) : State :=
  (s.fireVector r).modRing r fun g => { g with irqCnt := 0, irqAt := 0 }

/-- An entry was written: moderation by IRQ_MOD.CNT (R333). -/
def State.irqEntry (s : State) (r : Nat) (urgent : Bool) : State :=
  let g := s.ring r
  let c := bits (s.ringRg r 0x24) 7 0
  let s := s.setRing r { g with
    irqCnt := g.irqCnt + 1, irqAt := if g.irqCnt = 0 then s.now else g.irqAt }
  if c ≠ 0 ∧ (urgent ∨ g.irqCnt + 1 ≥ c) then s.irqFire r else s

/-- The filler NOP entry of R331, of `n` slots. -/
def State.filler (s : State) (r n : Nat) : List Byte :=
  sealEntryBytes (slice (header (s.ringVer r) 0xFF 3 n 0 0) 0 (64 * n)) (s.cqPhase r) 0

/-- The oldest unanswered message of a ring, where it is a FENCE, is answered (R341). -/
def State.fencePump (s : State) (r : Nat) : State :=
  let g := s.ring r
  match g.opens with
  | (seq, tag) :: _ =>
    if g.fences.any (fun f => f.1 == seq) then
      let bs := entryBytes (s.ringVer r) (ringPart r) 4 0x2000 seq tag.toNat (Compl.ok.body 0 s.now)
      s.setRing r { g with
        fences := g.fences.eraseP (fun f => f.1 == seq),
        waitq := g.waitq ++ [{ bytes := bs, ans := some (seq, 0), urgent := false }] }
    else s
  | [] => s

/-- Writes the first waiting entry where there is room; `none` where it must wait. -/
def State.writeOne (s : State) (r : Nat) (e : Entry) (rest : List Entry) : Option State :=
  let n := e.bytes.length / 64
  let pos := s.ringRg r 0x20 % s.cqSize r
  let fill := if pos + n > s.cqSize r then s.cqSize r - pos else 0
  if s.cqRoom r < fill + n then none
  else
    let s := if fill = 0 then s else s.cqPut r (s.filler r fill)
    let g := s.ring r
    let vent := bit (fld e.bytes 4 2) 14
    let s := s.cqPut r (sealEntryBytes e.bytes (s.cqPhase r) (g.vents % 2 ^ 32))
    let s := s.setRing r { g with waitq := rest, vents := g.vents + b2n vent }
    let s := match e.ans with | some (q, st) => s.answered r q st | none => s
    some ((s.irqEntry r e.urgent).fencePump r)

/-- Writes the oldest waiting entry, where there is one and room for it. -/
def State.flushOne (s : State) (r : Nat) : Option State :=
  match (s.ring r).waitq with
  | e :: rest => s.writeOne r e rest
  | [] => none

/-- Writes waiting entries in order while there is room (R331, R332). In SAFE nothing is written
(R347), nor while the pins are held (R399). -/
def State.drain (s : State) (r : Nat) : State :=
  if s.dev.state = .ready ∧ s.ringEn r ∧ s.drives 0 then
    repeatStep (fun t => t.flushOne r) ((s.ring r).waitq.length + (s.ring r).fences.length + 1) s
  else s

/-- CQ_WAIT where the last entry formed found no room (R332). -/
def State.cqWait (s : State) (r : Nat) : State := if (s.ring r).waitq.isEmpty then s else s.evSet .host 0 2

/-- Room in a completion ring: what waits is written; the answer to a FENCE that this forms may wait in its turn. -/
def State.flush (s : State) (r : Nat) : State :=
  let t := s.drain r
  if (t.ring r).fences.length < (s.ring r).fences.length then t.cqWait r else t

/-- An entry for a completion ring: written, or waiting with CQ_WAIT set (R332). -/
def State.post (s : State) (r : Nat) (e : Entry) : State :=
  ((s.modRing r fun g => { g with waitq := g.waitq ++ [e] }).drain r).cqWait r

/-! ## Responses and Vents -/

/-- The response to a message (R342). -/
def State.respond (s : State) (r opcode part seq tag : Nat) (c : Compl) (start : Nat) : State :=
  s.post r { bytes := entryBytes (s.ringVer r) part opcode 0x2000 seq tag (c.body start s.now),
             ans := some (seq, c.status), urgent := false }

/-- Feature bit that a Vent needs (Table 15.2). -/
def ventFeature (opcode : Nat) : Option Nat :=
  match opcode with
  | 0x8001 => some 0 | 0x800A => some 0 | 0x8004 => some 1 | 0x800D => some 2 | _ => none

/-- A Vent on one ring: sent where the ring is enabled and the feature is in effect (R337, R345). -/
def State.vent (s : State) (r opcode part : Nat) (body : List Byte) : State :=
  let ok : Bool := match ventFeature opcode with
    | some b => (s.ring r).neg && bit (s.ring r).feat b
    | none => true
  if s.ringEn r ∧ ok ∧ s.dev.state = .ready then
    s.post r { bytes := entryBytes (s.ringVer r) part opcode 0x4000 0 0 body, ans := none,
               urgent := false }
  else s

/-- A Vent on the management ring and on the rings of some partitions. -/
def State.ventAll (s : State) (rs : List Nat) (opcode part : Nat) (body : List Byte) : State :=
  rs.foldl (fun s r => s.vent r opcode part body) s

/-- Ring of the commands of partition index p: 8 is the management ring. -/
def State.cmdRing (p : Nat) : Nat := p

/-- A command is answered: it leaves its queue now and the command list when its response is
written; its marks on flasks are lifted. Late completion is recorded by the caller. -/
def State.answerCmd (s : State) (p : Nat) (c : Cmd) (o : Compl) (start : Nat) : State :=
  let s := s.modPart p fun q =>
    { q with
      cmds := updFirst (fun d => d.cid == c.cid)
        (fun d => { d with phase := CmdPhase.answered, units := [], out := none }) q.cmds }
  let s := s.setStk { s.stk with
    marks := s.stk.marks.filter fun x => !(x.2.1 == p && x.2.2 == c.cid),
    readMarks := s.stk.readMarks.filter fun x => !(x.2.1 == p && x.2.2 == c.cid) }
  s.respond p c.opcode (ringPart p) c.seq c.tag.toNat o start

/-- Number of the message that a SEQ names on a ring (R340): one of the present numbers, or the newest of that SEQ from
before they began. -/
def Ring.number (g : Ring) (seq : Nat) : Nat :=
  if g.base ≤ seq then g.era * 2 ^ 32 + seq
  else ((g.opens.map (·.1) ++ g.hist.map (·.1)).filter fun n => n % 2 ^ 32 == seq).foldl max seq

/-- A message is taken: the number it has, and the ring with the SEQ expected next. A SEQ below the expected one, and the
end of the count, begin the numbers anew (R336). -/
def Ring.take (g : Ring) (seq : Nat) : Nat × Ring :=
  let era := if seq < g.expSeq then g.era + 1 else g.era
  let base := if seq < g.expSeq then seq else g.base
  (era * 2 ^ 32 + seq,
    if seq + 1 = 2 ^ 32 then { g with expSeq := 0, era := era + 1, base := 0 }
    else { g with expSeq := seq + 1, era := era, base := base })

/-- The numbers begin anew at SEQ 0 (R335). -/
def Ring.renumber (g : Ring) : Ring := { g with expSeq := 0, era := g.era + 1, base := 0 }

/-- Outcome of the message of a number on a ring: `none` while it has not been answered (R340). -/
def State.outcome (s : State) (r seq : Nat) : Option Nat :=
  let g := s.ring r
  if g.opens.any (fun o => o.1 == seq) then none
  else (g.hist.find? (fun h => h.1 == seq)).map (·.2)

end Sys2Proof.Machine
end

