-- ==== Sys2Proof/Machine/Faults.lean ====
section
/-! DEFINITION. Who holds what, SAFE (R377), the start of a partition's teardown (R322), bus errors
(R35), the spare-use log (R397, R421). -/
namespace Sys2Proof.Machine

/-! ## Placement (Table 1.1) and what a partition holds (Tables 14.1, 14.2) -/

def dieOfStack (n : Nat) : Nat := if n < 6 then 0 else 1
def dieOfPort (n : Nat) : Nat := if n < 8 then 0 else 1
/-- Die of a sequencer: physical clusters 0 to 95, physical tiles at 256. -/
def dieOfUnit (u : Nat) : Nat := if u < 48 then 0 else if u < 96 then 1 else if u < 298 then 0 else 1
def isTile (u : Nat) : Bool := decide (256 ≤ u)
/-- Page of a sequencer. -/
def unitPage (u : Nat) : PageKind × Nat := if isTile u then (.cruc, u - 256) else (.mould, u)

/-- Set bits of a mask of `n` bits in a record. -/
def maskBits (cfg : List Byte) (off n : Nat) : List Nat :=
  (List.range n).filter fun j => bit (fld cfg (off + j / 8) 1) (j % 8)

def Part.clusters (p : Part) : List Nat := maskBits p.cfg 0 96
def Part.tiles (p : Part) : List Nat := maskBits p.cfg 16 80
def Part.flags (p : Part) : Nat := fld p.cfg 40 4
def Part.strict (p : Part) : Bool := bit p.flags 0
def Part.trUse (p : Part) : Bool := bit p.flags 1
def Part.quenchEn (p : Part) : Bool := bit p.flags 2
def Part.qstacks (p : Part) : List Nat := maskBits p.cfg 44 12
def Part.slots (p : Part) : Nat := fld p.cfg 38 2
def Part.sprueSegs (p : Part) (d : Nat) : Nat := fld p.cfg (32 + 2 * d) 2
def Part.ladleBufs (p : Part) (d : Nat) : Nat := fld p.cfg (36 + d) 1
def Part.stkShare (p : Part) (n : Nat) : Nat := fld p.cfg (56 + 2 * n) 2
/-- NoC shares: 0 West local, 1 West cross, 2 East local, 3 East cross. -/
def Part.nocShare (p : Part) (i : Nat) : Nat := fld p.cfg (80 + 2 * i) 2
def Part.portShare (p : Part) (n : Nat) : Nat := fld p.cfg (88 + 2 * n) 2
def Part.slotMask (p : Part) (n : Nat) : Nat := fld p.cfg (120 + 4 * n) 4

/-- Physical unit of a logical cluster or tile. -/
def State.physCluster (s : State) (j : Nat) : Nat := nth 0 s.maps.clusters j
def State.physTile (s : State) (j : Nat) : Nat := 256 + nth 0 s.maps.tiles j

/-- Physical units of a partition: clusters, then tiles, in logical order. -/
def State.partUnits (s : State) (p : Nat) : List Nat :=
  ((s.part p).clusters.map s.physCluster) ++ ((s.part p).tiles.map s.physTile)

/-- Partition that holds a physical unit, 0xFF for none (R305). -/
def State.ownerOf (s : State) (u : Nat) : Nat :=
  ((List.range 8).find? fun p => (s.part p).st ≠ .empty && (s.partUnits p).contains u).getD 0xFF

/-! ## Bus errors (R35) -/

/-- BLK_ERRLOG0.PART of an initiator. -/
def initPart (i : Nat) : Nat :=
  if i = 1 then 8 else if 2 ≤ i ∧ i ≤ 9 then i - 2 else if i = 12 then 0xE else 0xF

/-- A bus error: kinds 1 GATED, 2 UNMAPPED, 3 UNALIGNED, 4 LOCKED. -/
def State.busErr (s : State) (init kind off : Nat) : State :=
  s.evErr .mgt 0 1 kind (initPart init) off 0

/-! ## The spare-use log (R397, R421, Table 18.5) -/

/-- An entry of the log: stored while there is room, counted otherwise. -/
def State.splog (s : State) (typ inst spare action source : Nat) : State :=
  let e := [w32 (typ + inst * 2 ^ 16), w32 (spare + action * 2 ^ 16 + source * 2 ^ 20 + s.dev.boots * 2 ^ 24),
            w32 (s.now % 2 ^ 32), w32 (s.now / 2 ^ 32)]
  if s.health.log.length < 128 then
    (s.setHealth { s.health with log := s.health.log ++ [e] }).evSet .pyro 0 3
  else (s.setHealth { s.health with ovf := min (s.health.ovf + 1) 0xFFFF }).evSet .pyro 0 4

/-- VENT_SPARE_USED: TYPE, SPARE, LOGICAL, REPLACED, PART, ACTION, TIME (Table 15.10). -/
def State.ventSpare (s : State) (typ inst spare logical part action : Nat) : State :=
  let body := leBytes 4 typ ++ leBytes 2 spare ++ leBytes 2 logical ++ leBytes 2 inst ++
    leBytes 1 part ++ leBytes 5 action ++ leBytes 8 s.now
  s.ventAll (8 :: (if part < 8 then [part] else [])) 0x8009 part body

/-- A substitution, withdrawal or hold: log entry and Vent (R396, R421). -/
def State.spareUse (s : State) (typ inst spare logical part action source : Nat) : State :=
  (s.splog typ inst spare action source).ventSpare typ inst spare logical part action

/-! ## SAFE (R377) -/

/-- The authority word with its CRC-8 in bits [63:56] (R374). -/
def authSeal (w : Nat) : BitVec 64 := BitVec.ofNat 64 (w % 2 ^ 56 + crc8 (w % 2 ^ 56) * 2 ^ 56)

/-- Sends a die's authority word in a management slot (R11). -/
def State.authSend (s : State) (d : Nat) : State :=
  (s.modDie d fun x => { x with auth := { x.auth with sent := x.auth.sent + 1 } }).count32 .d2d d 0x64 1

/-- A die is in SAFE since this very cycle. -/
def State.safeNow (s : State) (d : Nat) : Bool := (s.die d).auth.inSafe && (s.die d).auth.safeAt == s.now

/-- A further cause of the cycle in which a die entered SAFE: the lowest is recorded (R375). -/
def State.safeAgain (s : State) (d cause : Nat) (fromPeer : Bool) : State :=
  let a := (s.die d).auth
  if s.safeNow d ∧ cause < a.cause then
    s.modDie d fun x => { x with auth := { x.auth with
      cause := cause, fromPeer := fromPeer, own := authSeal (setBits a.own.toNat 38 36 cause) } }
  else s

/-- A die enters SAFE with a cause; the West die makes the device SAFE and reports it. -/
def State.enterSafe (s : State) (d cause : Nat) (fromPeer : Bool) : State :=
  let a := (s.die d).auth
  if a.inSafe then s.safeAgain d cause fromPeer
  else
    let own := authSeal (setBits (a.own.toNat ||| 2 ^ 35) 38 36 cause)
    let s := s.modDie d fun x => { x with
      auth := { x.auth with inSafe := true, cause := cause, safeAt := s.now, fromPeer := fromPeer, own := own } }
    let s := (s.setDev { s.dev with faultN := true }).evSet .mgt d 3
    let s := s.authSend d
    if d = 0 then
      let s := s.setDev { s.dev with state := .safe }
      let body := leBytes 8 cause ++ leBytes 8 s.now
      (8 :: List.range 8).foldl (fun s r =>
        if s.ringEn r ∧ (s.ring r).waitq.isEmpty then
          let e : Entry := { bytes := entryBytes (s.ringVer r) 0xFF 0x8006 0x4000 0 0 body,
                             ans := none, urgent := true }
          (s.writeOne r e []).getD s
        else s) s
    else s

/-- The device enters SAFE with a cause on both dies (R395, R401). -/
def State.deviceSafe (s : State) (cause : Nat) : State := (s.enterSafe 0 cause false).enterSafe 1 cause false

/-- A cause of SAFE is acted on: in READY, and in the cycle of West's entry into SAFE (R375). -/
def State.safeDue (s : State) : Bool := s.dev.state == .ready || (s.dev.state == .safe && s.safeNow 0)

/-- The engines of a die run: the device is READY and the die is not in SAFE. -/
def State.live (s : State) (d : Nat) : Bool := s.dev.state = .ready && !(s.die d).auth.inSafe

/-! ## Partition faults (R322, Table 14.6) -/

/-- States from which a fault moves a partition (Table 15.12). -/
def PState.faultable (p : PState) : Bool :=
  p == .loaded || p == .running || p == .paused || p == .draining

/-- The units of a partition issue nothing further; Runners abandon what is queued or started. -/
def State.stopUnits (s : State) (us : List Nat) : State :=
  us.foldl (fun s u => s.modUnit u fun x =>
    { x with run := .idle, queue := [], started := [], scaleMade := false, placed := [], exc := none, haltReq := false }) s

/-- A later cause of the same management-clock cycle, of a lower block type code or instance, is
captured in place of the first (Table 14.6, step 1). -/
def State.faultAgain (s : State) (p typ inst code : Nat) : State :=
  let q := s.part p
  let old := q.faultSrc.toNat
  if q.st = .faulted ∧ q.tearing ∧ q.faultTime = s.now ∧
      typ * 65536 + inst < old % 65536 * 65536 + old / 65536 then
    let src := typ + inst * 2 ^ 16
    let s := if s.pg .part p 0x2C = old ∧ bits (s.pg .part p 0x28) 23 16 = 1 then
        s.setPg .part p 0x2C src
      else s
    s.setPart p { q with faultSrc := w32 src, faultInfo := w32 code }
  else s

/-- Steps 1 to 3 of the teardown: state, capture of the first cause, work stopped. A DRAINING
partition that faults keeps its release unanswered until the teardown ends. -/
def State.faultPart (s : State) (p typ inst code : Nat) : State :=
  let q := s.part p
  if q.st.faultable then
    let src := typ + inst * 2 ^ 16
    let s := s.setPart p { q with
      st := .faulted, tearing := true, scrub := s.partUnits p, faultSrc := w32 src,
      faultInfo := w32 code, faultTime := s.now }
    let s := s.evErr .part p 1 1 p src 0
    s.stopUnits (s.partUnits p)
  else s.faultAgain p typ inst code

/-- A fault with the cause in a page (FAULT_SRC and FAULT_INFO of Table 14.9). -/
def State.faultFrom (s : State) (p : Nat) (k : PageKind) (i code : Nat) : State :=
  s.faultPart p (typeCode k) (blkInstance k i) code

end Sys2Proof.Machine
end

