-- ==== Sys2Proof/Machine/Memory.lean ====
section
/-! DEFINITION. Stack memory: the address map (R28, R426), granule owner codes and the checks of Table
10.1 (R208 to R211), the teacher region, retired granules and withdrawn channels (R233, R234), the
governor and the slot frame (R215, R216). -/
namespace Sys2Proof.Machine

/-! ## The address map (Table 2.1, R206) -/

/-- What a device address names. -/
inductive AddrKind where
  /-- Stack and window offset. -/
  | stack (n off : Nat)
  | host
  | reserved
  deriving DecidableEq, Repr

def addrKind (a : Nat) : AddrKind :=
  if a < 0x18000000000 then .stack (a / 2 ^ 37) (a % 2 ^ 37)
  else if hostBase ≤ a ∧ a < 2 ^ 48 then .host
  else .reserved

/-- Key of the granule of a stack address. -/
def granKey (n g : Nat) : Nat := n * 2 ^ 16 + g
/-- Base address of a granule by key. -/
def granAddr (k : Nat) : Nat := k / 2 ^ 16 * 2 ^ 37 + k % 2 ^ 16 * 2 ^ 21
/-- Granules of a stack. -/
def granCount : Nat := 34304

/-- A reserved address named by a message or a record is refused with MALFORMED (R426). -/
def reservedAddr (a n : Nat) : Bool :=
  addrKind a == .reserved || (n ≠ 0 && addrKind (a + n - 1) == .reserved) ||
    (match addrKind a, addrKind (a + (n - 1)) with
     | .host, .host => false
     | .stack .., .stack .. => false
     | _, _ => true)

/-! ## Rights (Table 10.1) -/

/-- Owner code at a stack offset: none beyond the populated granules. -/
def State.codeAt (s : State) (n off : Nat) : Option Nat :=
  if off < granCount * 2 ^ 21 then some (s.gran (granKey n (off / 2 ^ 21))).owner else none

/-- A tag may read or write a granule of an owner code. -/
def State.codeAllows (s : State) (tag : Nat) (write : Bool) (n code : Nat) : Bool :=
  if code < 8 then tag == code
  else if code = 8 then tag == 8 && !(write && (s.stack n).sealing)
  else if code = 9 then
    !write && (tag == 8 || (!(s.stack n).sealing && decide (tag < 8) && (s.part tag).trUse &&
      (s.part tag).st != .empty))
  else false

/-- The address may be read or written under a tag. -/
def State.allows (s : State) (tag : Nat) (write : Bool) (a : Nat) : Bool :=
  match addrKind a with
  | .host => true
  | .reserved => false
  | .stack n off =>
    match s.codeAt n off with
    | some c => s.codeAllows tag write n c
    | none => false

/-- First address of a range, by granule, that a tag may not use. -/
def State.firstBadGo (s : State) (tag : Nat) (write : Bool) (e : Nat) : Nat → Nat → Option Nat
  | 0, _ => none
  | n + 1, a =>
    if e ≤ a then none
    else if s.allows tag write a then State.firstBadGo s tag write e n ((a / 2 ^ 21 + 1) * 2 ^ 21)
    else some a
def State.firstBad (s : State) (tag : Nat) (write : Bool) (a n : Nat) : Option Nat :=
  if (addrKind a) = .host ∧ a + n ≤ 2 ^ 48 then none
  else s.firstBadGo tag write (a + n) (n / 2 ^ 21 + 2) a

/-- The stack refuses a transaction (R210). -/
def State.refuse (s : State) (tag a : Nat) : State :=
  match addrKind a with
  | .stack n _ =>
    let s := s.evErr .stack n 1 1 tag (a % 2 ^ 32) (a / 2 ^ 32)
    if tag < 8 then s.faultFrom tag .stack n 1 else s
  | _ => s

/-- Bytes as a tag reads them: a refused byte reads zero (R210). -/
def State.rd (s : State) (tag a n : Nat) : List Byte :=
  match s.firstBad tag false a n with
  | none => s.bytes a n
  | some _ => (List.range n).map fun i => if s.allows tag false (a + i) then s.byte (a + i) else 0

/-- Bytes as a tag writes them: a refused byte is discarded (R210), and so is what goes to the host while West drives no
pins (R399). -/
def State.wr (s : State) (tag a : Nat) (bs : List Byte) : State :=
  if addrKind a = .host ∧ s.drives 0 = false then s
  else match s.firstBad tag true a bs.length with
  | none => s.setBytes a bs
  | some _ => forN bs.length s fun i s =>
      if s.allows tag true (a + i) then s.setByte (a + i) (bs.getD i 0) else s

/-- Ranges of an operation: address, length, written. -/
abbrev Range := Nat × Nat × Bool

/-- First refused address of some ranges. -/
def State.badRange (s : State) (tag : Nat) (rs : List Range) : Option Nat :=
  rs.findSome? fun r => if r.2.1 = 0 then none else s.firstBad tag r.2.2 r.1 r.2.1

/-- A range touches a RETIRED granule of the teacher region, whose reads are poisoned (R233). -/
def State.poisonedGo (s : State) (e : Nat) : Nat → Nat → Option Nat
  | 0, _ => none
  | n + 1, a =>
    if e ≤ a then none
    else
      let bad := match addrKind a with
        | .stack k off =>
          let g := s.gran (granKey k (off / 2 ^ 21))
          g.retired && (g.owner == 8 || g.owner == 9)
        | _ => false
      if bad then some a else State.poisonedGo s e n ((a / 2 ^ 21 + 1) * 2 ^ 21)
def State.poisoned (s : State) (rs : List Range) : Option Nat :=
  rs.findSome? fun r => if r.2.2 then none else s.poisonedGo (r.1 + r.2.1) (r.2.1 / 2 ^ 21 + 2) r.1

/-! ## Granules -/

/-- Granules of a channel of a stack. -/
def channelGranules (n c : Nat) : List Nat := (List.range 1072).map fun i => granKey n (c + 32 * i)
/-- Granule keys listed in the table with a condition. -/
def State.gransWith (s : State) (q : Nat → Gran → Bool) : List Nat :=
  (s.stk.gran.filter fun e => q e.1 e.2).map (·.1)
def State.retiredOf (s : State) (n c : Nat) : Nat :=
  (s.gransWith fun k g => k / 2 ^ 16 == n && k % 32 == c && g.retired).length
/-- Teacher granules of a stack, or of all (R212). -/
def State.teacherGrans (s : State) (n : Nat) : List Nat :=
  s.gransWith fun k g => k / 2 ^ 16 == n && (g.owner == 8 || g.owner == 9)
def State.regionSealed (s : State) : Bool := (s.stack 0).sealed
def State.regionSealing (s : State) : Bool := (s.stack 0).sealing

/-- Sets the owner code of a granule. -/
def State.setOwner (s : State) (k code : Nat) : State :=
  s.setGran k { s.gran k with owner := code, releasing := false }

/-- A released granule with no transaction left: scrubbing, or withdrawal where RETIRED (R211,
R233). -/
def State.enterScrub (s : State) (k : Nat) : State :=
  s.setOwner k (if (s.gran k).retired then 0xE else 0xD)

/-- Partitions to fault, in number order. -/
def State.faultMany (s : State) (ps : List Nat) (k : PageKind) (i code : Nat) : State :=
  (List.range 8).foldl (fun s p => if ps.contains p then s.faultFrom p k i code else s) s

/-- MEM_FREE messages whose granules have all left their owner are answered (R423). -/
def State.freesPump (s : State) : State :=
  let fs := s.stk.frees.map fun f => (f.1, f.2.1, f.2.2.1, f.2.2.2.filter fun j => (s.gran j).releasing)
  let s := s.setStk { s.stk with frees := fs.filter fun f => !f.2.2.2.isEmpty }
  (fs.filter fun f => f.2.2.2.isEmpty).foldl (fun s f =>
    s.respond 8 0x111 0xFF f.1 f.2.1.toNat { Compl.ok with result := leBytes 4 f.2.2.1 } 0) s

/-- A channel is withdrawn (R234): faults, granules to 0xE, event, log and Vent; what a MEM_FREE still waited for is
released with it. -/
def State.withdrawChannel (s : State) (n c source : Nat) : State :=
  if s.maps.chGone.contains (n * 32 + c) then s
  else
    let ks := s.gransWith fun k g => k / 2 ^ 16 == n && k % 32 == c && decide (g.owner < 10)
    let owners := ks.map fun k => (s.gran k).owner
    let tr := owners.contains 8 || owners.contains 9
    let ps := (List.range 8).filter fun p =>
      owners.contains p || (tr && (s.part p).trUse && (s.part p).st != .empty)
    let s := s.setMaps { s.maps with chGone := s.maps.chGone ++ [n * 32 + c] }
    let s := s.evErr .stack n 4 4 0xF c 0
    let s := s.faultMany ps .stack n 4
    let s := ((channelGranules n c).foldl (fun s k => s.setOwner k 0xE) s).freesPump
    s.spareUse 0x40 (n * 32 + c) 0xFFFF c 0xFF 2 source

/-- A granule is marked RETIRED; more than 16 in a channel withdraw it (R233, R234). The log's
SOURCE is the runtime failure record (DEDUCED, log 12). -/
def State.retire (s : State) (k : Nat) : State :=
  let s := s.setGran k { s.gran k with retired := true }
  let n := k / 2 ^ 16
  if s.retiredOf n (k % 32) > 16 then s.withdrawChannel n (k % 32) 2 else s

/-- Channel of a stack offset, and the FUM page of the unit that serves a channel. -/
def chanOf (off : Nat) : Nat := off / 2 ^ 21 % 32
/-- Physical unit that serves a channel: U32 where it stands for it (R14, R235). -/
def State.fumUnit (s : State) (n c : Nat) : Nat := if tget 0x3F s.maps.fumStand n = c then 32 else c

/-- The running command of the management ring, the first that has no outcome, ends with a status (R12,
R210, R233). -/
def State.endMgmt (s : State) (status : Nat) : State :=
  s.modPart 8 fun q => { q with
    cmds := updFirst (fun c => c.phase == .running && c.out.isNone)
      (fun c => { c with out := some (.of status) }) q.cmds }

/-- An uncorrectable error on a read (R233), beside what becomes of a management-ring command. -/
def State.dramPoison (s : State) (tag a : Nat) : State :=
  match addrKind a with
  | .stack n off =>
    let k := granKey n (off / 2 ^ 21)
    let own := (s.gran k).owner
    let s := s.evErr .stack n 2 2 tag (a % 2 ^ 32) (a / 2 ^ 32)
    let s := s.count32 .stack n 0x74 1
    let s := s.count16 .fum (n * 64 + s.fumUnit n (chanOf off)) 0x54 1
    let s := if tag < 8 then s.faultFrom tag .stack n 2 else s
    let s := if own < 8 ∧ own ≠ tag then s.faultFrom own .stack n 2 else s
    if (s.gran k).retired then s else s.retire k
  | _ => s
/-- With the management tag the command that read ends FAULTED. -/
def State.dramUe (s : State) (tag a : Nat) : State :=
  if tag < 8 then s.dramPoison tag a else (s.dramPoison tag a).endMgmt 6

/-- A corrected error (R207). -/
def State.dramCe (s : State) (a : Nat) : State :=
  match addrKind a with
  | .stack n off =>
    ((s.evSet .stack n 3).count32 .stack n 0x70 1).count16 .fum (n * 64 + s.fumUnit n (chanOf off))
      0x50 1
  | _ => s

/-- A transaction at a stack is checked and served or refused (R209, R210): `ecc` 1 corrected,
2 uncorrectable (R207, R233). -/
def execStackTransaction (tag addr len : Nat) (write : Bool) (data : List Byte) (ecc : Nat)
    (s : State) : Host.Outcome State Fault Refusal :=
  match addrKind addr with
  | .stack .. =>
    match s.firstBad tag write addr len with
    | some a =>
      let s := s.refuse tag a
      .next (if tag = 8 then s.endMgmt 5 else s)
    | none =>
      if write then .next (s.setBytes addr (slice data 0 len))
      else
        match s.poisoned [(addr, len, false)] with
        | some a => .next (s.dramUe tag a)
        | none => .next (if ecc = 2 then s.dramUe tag addr else if ecc = 1 then s.dramCe addr else s)
  | _ => .next s

/-- The old owner's transactions to a released granule have completed (R211). A teacher granule whose release is still
owed when the region is sealed is released once it is unsealed (R213; DEDUCED, log 12). -/
def execGranuleRelease (stack g : Nat) (s : State) : Host.Outcome State Fault Refusal :=
  let k := granKey stack g
  if (s.gran k).releasing ∧ (s.gran k).owner ≠ 9 then .next (s.enterScrub k).freesPump else .next s

/-- A scrub completes: two MiB of zeros, code 0xF, SCRUB_DONE (R211). -/
def execScrubDone (stack g : Nat) (s : State) : Host.Outcome State Fault Refusal :=
  let k := granKey stack g
  if (s.gran k).owner = 0xD then
    .next (((s.zeroBytes (granAddr k) (2 ^ 21)).setOwner k 0xF).evSet .stack stack 8)
  else .next s

/-! ## Owner messages (R423), the teacher region (R212, R213) -/

/-- Granule indices of a u16 list in memory, as a tag reads it. -/
def State.list16 (s : State) (tag a n : Nat) : List Nat :=
  (List.range n).map fun i => leNat (s.rd tag (a + 2 * i) 2)

/-- A partition may have granules assigned or released (R348). -/
def PState.memLegal (p : PState) : Bool :=
  p == .configured || p == .loaded || p == .running || p == .paused

/-- MEM_ALLOC and MEM_FREE, judged in full at acceptance (R422, R423): the state with the granules
changed, or the refusal; `none` for a MEM_FREE still to be answered. -/
def State.memMsg (s : State) (free : Bool) (seq : Nat) (tag : Word) (m : List Byte) :
    State × Option Compl :=
  let n := fld m 16 1
  let own := fld m 17 1
  let cnt := fld m 20 4
  let la := fld m 24 8
  let gs := s.list16 8 la cnt
  let ks := gs.map (granKey n)
  if n > 11 then (s, some (.malformed 16))
  else if own > 8 then (s, some (.malformed 17))
  else if fld m 18 2 ≠ 0 then (s, some (.malformed 18))
  else if reservedAddr la (2 * cnt) then (s, some (.malformed 24))
  else if let some a := s.firstBad 8 false la (2 * cnt) then (s.refuse 8 a, some (.of 5))
  else if let some a := s.poisoned [(la, 2 * cnt, false)] then (s.dramPoison 8 a, some (.of 6))
  else if gs.any (· ≥ granCount) || !nodup gs then (s, some (.malformed 24))
  else if own < 8 ∧ !(s.part own).st.memLegal then (s, some (.of 3))
  else if own = 8 ∧ (s.regionSealed || s.regionSealing) then (s, some (.of 3))
  else if free then
    if ks.any fun k => (s.gran k).owner ≠ own then (s, some (.of 3))
    else if ks.isEmpty then (s, some { Compl.ok with result := leBytes 4 0 })
    else
      let s := ks.foldl (fun s k => s.setGran k { s.gran k with releasing := true }) s
      (s.setStk { s.stk with frees := s.stk.frees ++ [(seq, tag, ks.length, ks)] }, none)
  else if ks.any fun k => (s.gran k).owner ≠ 0xF then (s, some (.of 4))
  else (ks.foldl (fun s k => s.setOwner k own) s,
    some { Compl.ok with result := leBytes 4 ks.length })

/-- All stacks with an update. -/
def State.allStacks (s : State) (f : Stack → Stack) : State :=
  (List.range 12).foldl (fun s n => s.modStack n f) s

/-- Every granule of one code takes another. -/
def State.recode (s : State) (a b : Nat) : State :=
  (s.gransWith fun _ g => g.owner == a).foldl
    (fun s k => s.setGran k { s.gran k with owner := b }) s

/-- TEACHER_SEAL: the four phases of R212, with no transaction in flight between commands. -/
def State.teacherSealOp (s : State) : State × Compl :=
  if s.regionSealed || s.regionSealing then (s, .of 3)
  else if ((List.range 12).all fun n => (s.teacherGrans n).isEmpty) then (s, .of 3)
  else
    let s := s.allStacks fun x => { x with sealing := true }
    let s := s.recode 8 9
    let s := s.allStacks fun x => { x with sealing := false, sealed := true }
    ((List.range 12).foldl (fun s n => s.evSet .stack n 7) s, .ok)

/-- TEACHER_UNSEAL (R213). -/
def State.teacherUnsealOp (s : State) : State × Compl :=
  if !s.regionSealed || s.regionSealing then (s, .of 3)
  else if ((List.range 8).any fun p => (s.part p).trUse &&
      ((s.part p).st == .loaded || (s.part p).st == .running || (s.part p).st == .paused)) then
    (s, .of 3)
  else ((s.recode 9 8).allStacks fun x => { x with sealed := false }, .ok)

/-! ## Governor and slots (R215, R216) -/

/-- Threshold of a level in GOV_CFG. -/
def State.govT (s : State) (n l : Nat) : Nat := bits (s.pg .stack n 0x50) (8 * l - 1) (8 * l - 8)

/-- Open slots of a level (Table 10.2). -/
def openSlots (l : Nat) : Nat := match l with | 0 => 20 | 1 => 16 | 2 => 10 | _ => 4

/-- Owner of a slot of a stack; 0xF idle. -/
def State.slotOwner (s : State) (n i : Nat) : Nat := tget 0xF (s.stack n).slots i

/-- Open slots of a stack in force: none while T3 of R391 closes them. -/
def State.openNow (s : State) (n : Nat) : Nat :=
  if (s.stack n).closed then 0 else openSlots (s.stack n).level

/-- Partition served in the present slot of a stack (BLK_STAT.CUR_PART). -/
def State.curPart (s : State) (n : Nat) : Nat :=
  if (s.stack n).slot < s.openNow n then s.slotOwner n (s.stack n).slot else 0xF

/-- Partitions with a share or a slot at a stack (Table 15.10). -/
def State.stackParts (s : State) (n : Nat) : List Nat :=
  (List.range 8).filter fun p =>
    (s.part p).st != .empty && ((s.part p).stkShare n ≠ 0 || (s.part p).slotMask n ≠ 0)

/-- VENT_THERMAL (Table 15.10). -/
def State.ventThermal (s : State) (rs : List Nat) (stack level temp : Nat) : State :=
  let body := leBytes 1 stack ++ leBytes 1 level ++ leBytes 6 temp ++ leBytes 8 s.now
  rs.foldl (fun s r => s.vent r 0x800B (ringPart r) body) s

/-- A frame boundary: the governor sets the level (R216). -/
def execGovernorFrame (stack tDram tBase : Nat) (s : State) : Host.Outcome State Fault Refusal :=
  let x := s.stack stack
  if x.trained then
    let up := if tDram ≥ s.govT stack 3 then 3 else if tDram ≥ s.govT stack 2 then 2
      else if tDram ≥ s.govT stack 1 then 1 else 0
    let s := if x.level = 0 then s else s.count64 .stack stack 0x78 1
    let below := if x.level ≠ 0 ∧ tDram + 3 < s.govT stack x.level then x.below + 1 else 0
    let level := if up > x.level then up else if below ≥ 64 then x.level - 1 else x.level
    let s := s.setStack stack { x with
      level := level, below := if level = x.level then below else 0, tDram := tDram,
      tBase := tBase }
    if level = x.level then .next s
    else .next ((s.evSet .stack stack 5).ventThermal (8 :: s.stackParts stack) stack level tDram)
  else .next s

end Sys2Proof.Machine
end

