-- ==== Sys2Proof/Machine/Flags.lean ====
section
/-! DEFINITION. Numeric status flags (Table 4.5), completion flags (Table 15.4) and the format-health
counts (R64 to R67). -/
namespace Sys2Proof.Machine

/-! ## NSTAT bits (Table 4.5) and CFLAGS bits (Table 15.4) -/

def nsLONGSUM : Nat := 1
def nsEMPTY : Nat := 2
def nsACCINF : Nat := 4
def nsPERMOOB : Nat := 8

def cfLATE : Nat := 1
def cfQUENCHED : Nat := 2
def cfSKIPPED : Nat := 4
def cfNF : Nat := 8
def cfEMPTY : Nat := 16
def cfMISMATCH : Nat := 32
def cfDEPFAIL : Nat := 64
def cfTCLAMP : Nat := 128
def cfRINGSTOP : Nat := 256

/-! ## Format-health counts -/

/-- Key of a count: die, partition, class, format, kind (0 SAT, 1 FTZ, 2 NF). -/
def fhKey (d p cls fmt kind : Nat) : Nat := ((d * 8 + p) * 5 + cls) * 64 + fmt * 3 + kind
def fhStepKey (d p cls kind : Nat) : Nat := ((d * 8 + p) * 5 + cls) * 3 + kind

/-- Count of a partition on a die since its last step boundary, over the classes. -/
def State.fhSince (s : State) (d p kind : Nat) : Nat :=
  ((List.range 5).map fun c => tget 0 s.health.fhStep (fhStepKey d p c kind)).foldl (· + ·) 0

/-- The alert of FH_LIMITn, once per partition per step (Table 3.6). -/
def State.fhAlert (s : State) (d p : Nat) : State :=
  let l := s.pg .pyro d (0x840 + 4 * p)
  let nfl := bits l 15 0
  let stl := bits l 31 16
  let key := 4096 + d * 8 + p
  if tget 0 s.health.fhStep key = 0 ∧
      ((nfl ≠ 0 ∧ s.fhSince d p 2 > nfl) ∨ (stl ≠ 0 ∧ s.fhSince d p 0 + s.fhSince d p 1 > stl)) then
    let s := s.setHealth { s.health with fhStep := tput 0 s.health.fhStep key 1 }
    let s := s.setPg .pyro d 0x860 (s.pg .pyro d 0x860 ||| 2 ^ p)
    s.evSet .pyro d 16
  else s

/-- One count raised, saturating at 48 bits with FH_CNT_SAT. -/
def State.fhOne (s : State) (d p cls fmt kind n : Nat) : State :=
  if n = 0 then s
  else
    let k := fhKey d p cls fmt kind
    let top := 2 ^ 48 - 1
    let old := tget 0 s.health.fh k
    let new := min (old + n) top
    let j := fhStepKey d p cls kind
    let s := s.setHealth { s.health with
      fh := tput 0 s.health.fh k new,
      fhStep := tput 0 s.health.fhStep j (tget 0 s.health.fhStep j + n) }
    if old < top ∧ new = top then s.evSet .pyro d 17 else s

/-- The conversions of a unit on a die are counted for a partition (R64, R65). -/
def State.fhAdd (s : State) (d p cls fmt : Nat) (t : Tally) : State :=
  if bit (s.pg .pyro d 0x820) 0 ∧ p < 8 ∧ cls < 5 ∧ fmt < 16 then
    (((s.fhOne d p cls fmt 0 t.sat).fhOne d p cls fmt 1 t.ftz).fhOne d p cls fmt 2 t.nf).fhAlert d p
  else s

/-- The counts of a partition are cleared by FH_CLR (R66). -/
def State.fhClear (s : State) (d : Nat) (q : Nat → Bool) : State :=
  s.setHealth { s.health with
    fh := s.health.fh.filter fun e => !(e.1 / 320 / 8 == d && q (e.1 / 320 % 8)) }

/-- E4M3 overflow gives NaN for a partition (NUM_CFG.E4M3_NAN). -/
def State.e4nan (s : State) (p : Nat) : Bool := p < 8 && bit (s.pg .part p 0x44) 0

end Sys2Proof.Machine
end

