-- ==== Sys2Proof/Machine/Accum.lean ====
section
/-! DEFINITION. Sums of products: chunks, chains and fans (R68 to R81). -/
namespace Sys2Proof.Machine

/-- A running sum with its K_RUN and the sticky flags its additions set (R72, R78, R80). -/
structure RSum where
  v : Word
  k : Nat
  flags : Nat
  deriving DecidableEq, Repr

def RSum.zero : RSum := ⟨0, 0, 0⟩

/-- Exact sum of the products of a chunk without a NaN operand (R68, R79). -/
def chunkExact : List Fl → List Fl → Fl
  | [a], [b] => a.mul b
  | a :: as, b :: bs => (a.mul b).add (chunkExact as bs)
  | _, _ => Fl.zero
/-- The first NaN operand in K order, of a before of b. -/
def chunkNan (a b : List Fl) : Option Fl :=
  (List.zip a b).findSome? fun e => if e.1.isNan then some e.1 else if e.2.isNan then some e.2 else none
/-- Exact sum of the products of a chunk (R68, R79). A source NaN gives it its sign, the first in K order (R48;
DEDUCED, log 41). -/
def chunkSum (a b : List Fl) : Fl := (chunkNan a b).getD (chunkExact a b)

/-- One chunk added with a single rounding (R68, R70); L products counted (R72). LONGSUM is set by every addition that
leaves K_RUN above 2^21, one that began above it included (R78; DESIGN CHOICE, log 55). -/
def RSum.add (s : RSum) (L : Nat) (c : Fl) : RSum :=
  let v := f32 ((fl s.v).add c)
  let k := min (s.k + L) 0xFFFFFFFF
  ⟨v, k, s.flags ||| (if k > 2 ^ 21 then nsLONGSUM else 0) |||
    (if fIsFin s.v ∧ c.isFin ∧ !fIsFin v then nsACCINF else 0)⟩

/-- A row padded with +0 to whole chunks (R74). -/
def padChunk (L : Nat) (a : List Fl) : List Fl := padTo L Fl.zero a

/-- Chunks of a reduction in increasing order (R69); at most `n` of them. -/
def runChunks (L : Nat) : Nat → List Fl → List Fl → RSum → RSum
  | 0, _, _, s => s
  | n + 1, a, b, s =>
    if a.isEmpty then s
    else runChunks L n (a.drop L) (b.drop L)
      (s.add L (chunkSum (padChunk L (a.take L)) (padChunk L (b.take L))))

/-- The chain over K products from a running sum; EMPTY where there is none (R74, R81). -/
def dotChain (L : Nat) (a b : List Fl) (s : RSum) : RSum :=
  if a.isEmpty then { s with flags := s.flags ||| nsEMPTY }
  else runChunks L (a.length / L + 1) a b s

/-- One level of the fan: pairs added, an odd last partial passes (R75). -/
def fanLevel : List Word → List Word
  | a :: b :: r => fadd a b :: fanLevel r
  | r => r
/-- The fan of P partials (R75). -/
def fanTree : Nat → List Word → Word
  | 0, l => l.headD 0
  | n + 1, l => if l.length ≤ 1 then l.headD 0 else fanTree n (fanLevel l)
def fan (l : List Word) : Word := fanTree l.length l

end Sys2Proof.Machine
end

