-- ==== Sys2Proof/Machine/Operands.lean ====
section
/-! DEFINITION. Operand forms: tensor references (Table 15.7, R424), address fields, and reading and
writing tensors with their scales (R61, R62, R427, Table 8.2). -/
namespace Sys2Proof.Machine

/-- A tensor reference (Table 15.7). -/
structure TRef where
  addr : Nat
  rows : Nat
  cols : Nat
  pitch : Nat
  fmt : Nat
  cls : Nat
  smode : Nat
  sigma : Int
  scale : Nat
  deriving DecidableEq, Repr

/-- The reference at a byte offset of a message. -/
def tref (m : List Byte) (o : Nat) : TRef :=
  { addr := fld m o 8, rows := fld m (o + 8) 4, cols := fld m (o + 12) 4, pitch := fld m (o + 16) 4,
    fmt := fld m (o + 20) 1, cls := fld m (o + 21) 1, smode := fld m (o + 22) 1,
    sigma := sext 8 (fld m (o + 23) 1), scale := fld m (o + 24) 8 }

/-- Row pitch in force. -/
def TRef.step (t : TRef) : Nat := if t.pitch = 0 then packed t.fmt t.cols else t.pitch
/-- Bytes from element 0 to the end of the last row. -/
def TRef.span (t : TRef) : Nat :=
  if t.rows = 0 then 0 else (t.rows - 1) * t.step + rowBytes t.fmt t.cols
/-- Bytes of the scale plane or scale table. -/
def TRef.scaleSpan (t : TRef) : Nat :=
  if isMx t.fmt then t.rows * scalePitch t.cols
  else if t.smode = 1 then 1 else if t.smode = 2 then cdiv t.rows 128 else 0
/-- The SCALE field is used: planes, tables of inputs by block, and every σ of an output. -/
def TRef.usesScale (t : TRef) (out : Bool) : Bool :=
  isMx t.fmt || t.smode == 2 || (out && t.smode == 1 && isScaled t.fmt)

/-- Conditions on a reference in byte order: the offset of the first field that breaks one (R44,
R45, R60, R424, R426). -/
def TRef.check (t : TRef) (o rows cols : Nat) (fmts : Nat → Bool) (out : Bool) : Option Nat :=
  if reservedAddr t.addr t.span then some o
  else if t.rows ≠ rows then some (o + 8)
  else if t.cols ≠ cols then some (o + 12)
  else if t.pitch ≠ 0 ∧ t.pitch < packed t.fmt t.cols then some (o + 16)
  else if !fmts t.fmt then some (o + 20)
  else if t.cls > 4 then some (o + 21)
  else if out ∧ (t.cls = 0 ∨ t.cls = 3 ∨ t.cls = 4) ∧ !mayPersist t.fmt then some (o + 21)
  else if t.smode > 2 ∨ ((isMx t.fmt ∨ isCz4 t.fmt) ∧ t.smode ≠ 0) then some (o + 22)
  else if (isCz4 t.fmt ∨ t.smode = 1) ∧ t.sigma = -128 then some (o + 23)
  else if t.usesScale out ∧ reservedAddr t.scale t.scaleSpan then some (o + 24)
  else none

/-- Ranges of the elements c0 to c1 − 1 of row r, and of the scales that row needs. -/
def TRef.rowRanges (t : TRef) (out : Bool) (c0 c1 r : Nat) : List Range :=
  (t.addr + r * t.step + rowBytes t.fmt c0, rowBytes t.fmt c1 - rowBytes t.fmt c0, out) ::
    (if !t.usesScale out then []
     else if isMx t.fmt then [(t.scale + r * scalePitch t.cols + c0 / 32, cdiv c1 32 - c0 / 32, out)]
     else [(t.scale + (if t.smode = 2 then r / 128 else 0), 1, out)])
/-- Ranges of a block of a reference: some rows, and the columns c0 to c1 − 1. -/
def TRef.block (t : TRef) (out : Bool) (rows : List Nat) (c0 c1 : Nat) : List Range :=
  if c1 ≤ c0 then [] else rows.flatMap (t.rowRanges out c0 c1)
/-- Ranges of a reference: row by row where bytes lie between rows, which are not touched. -/
def TRef.ranges (t : TRef) (out : Bool) : List Range :=
  if t.step = rowBytes t.fmt t.cols then
    (t.addr, t.span, out) :: (if t.usesScale out then [(t.scale, t.scaleSpan, out)] else [])
  else t.block out (List.range t.rows) 0 t.cols

/-- σ or τ of row `r` of an input; a table's byte is taken at its value, −128 too (DESIGN CHOICE, log 51). -/
def State.sigmaAt (s : State) (tag : Nat) (t : TRef) (r : Nat) : Int :=
  if isCz4 t.fmt then t.sigma
  else if t.smode = 1 then t.sigma
  else if t.smode = 2 then sext 8 (leNat (s.rd tag (t.scale + r / 128) 1))
  else 0

/-- Values of row `r`. -/
def State.rdRow (s : State) (tag : Nat) (t : TRef) (r : Nat) : List Fl :=
  let row := s.rd tag (t.addr + r * t.step) (rowBytes t.fmt t.cols)
  let sc := if isMx t.fmt then s.rd tag (t.scale + r * scalePitch t.cols) (scalePitch t.cols) else []
  decRow t.fmt row sc (s.sigmaAt tag t r) t.cols

/-- Values of a tensor, row by row. -/
def State.rdTensor (s : State) (tag : Nat) (t : TRef) : List (List Fl) :=
  (List.range t.rows).map (s.rdRow tag t)

/-- Rows and columns exchanged, for `cols` columns. -/
def transpose (cols : Nat) (m : List (List Fl)) : List (List Fl) :=
  (List.range cols).map fun j => m.map fun row => row.getD j Fl.zero

/-- Words of an f32 tensor row by row. -/
def State.rdWords (s : State) (tag : Nat) (t : TRef) : List (List Word) :=
  (List.range t.rows).map fun r =>
    let row := s.rd tag (t.addr + r * t.step) (4 * t.cols)
    (List.range t.cols).map fun c => w32 (fld row (4 * c) 4)

/-! ## Output of an array (R62, R80) -/

/-- The BF16 staging copy of an f32 value: beyond the largest finite BF16 it stays finite. -/
def stage (w : Word) : Fl × Bool :=
  let r := bf16.enc false (fl w)
  if r.2 = .sat then ((bf16.dec (if (fl w).sign then 0xFF7F else 0x7F7F)), true)
  else (bf16.dec r.1, false)

/-- σ of rows for an output: one for the tensor, or one for each block of 128 rows (R61). -/
def sigmasOf (fmt smode : Nat) (amaxes : List Fl) : List Int :=
  if !isScaled fmt ∨ smode = 0 then amaxes.map fun _ => 0
  else if smode = 1 then
    let s := sigmaOf (scaleF fmt) (amaxes.foldl Fl.max Fl.zero)
    amaxes.map fun _ => s
  else (chunksOf 128 amaxes).flatMap fun b =>
    let s := sigmaOf (scaleF fmt) (b.foldl Fl.max Fl.zero)
    b.map fun _ => s

/-- One written element of an array output: its code and what was lost (R62). -/
def outElem (t : TRef) (e4nan : Bool) (sig : Int) (w : Word) : Nat × Loss :=
  if isScaled t.fmt ∧ t.smode ≠ 0 then
    let st := stage w
    let r := encElem t.fmt e4nan sig st.1
    -- a value staged at the largest finite BF16 counts once, as SAT; one that the staging flushes counts as FTZ
    (r.1, if st.2 then .sat else if st.1.isZero ∧ !(fl w).isZero then .ftz else r.2)
  else encElem t.fmt e4nan 0 (fl w)

/-- A tensor of f32 rows written under a reference, with σ to its scale table; the conversions are counted on the die
of the unit that performs them (R62, R64, R65). FP32 is written without conversion: an array output stage counts NF
there nonetheless, a Tundish (`stg` false) nothing. -/
def State.wrArray (s : State) (tag : Nat) (en stg : Bool) (dieOf : Nat → Nat → Nat) (t : TRef)
    (rows : List (List Word)) : State :=
  let sigs := sigmasOf t.fmt t.smode (rows.map fun r => amaxFin (r.map fl))
  let outs := (List.range rows.length).map fun i => (rows.getD i []).map (outElem t en (sigs.getD i 0))
  let s := forN rows.length s fun i s =>
    s.wr tag (t.addr + i * t.step) (packCodes t.fmt ((outs.getD i []).map (·.1)))
  let s :=
    if !isScaled t.fmt ∨ t.smode = 0 ∨ rows.isEmpty then s
    else if t.smode = 1 then s.wr tag t.scale (leBytes 1 (wrap 8 (sigs.getD 0 0)))
    else forN (cdiv rows.length 128) s fun b s =>
      s.wr tag (t.scale + b) (leBytes 1 (wrap 8 (sigs.getD (128 * b) 0)))
  let onDie (d : Nat) : Tally := forN outs.length Tally.zero fun i a =>
    let row := outs.getD i []
    forN row.length a fun j a =>
      if dieOf i j = d then a.add (row.getD j (0, .none)).2 else a
  if !stg ∧ t.fmt = 0 then s
  else (s.fhAdd 0 tag t.cls t.fmt (onDie 0)).fhAdd 1 tag t.cls t.fmt (onDie 1)

/-! ## Words and vectors in memory -/

def State.rdU (s : State) (tag a n : Nat) : Nat := leNat (s.rd tag a n)
def State.rdW (s : State) (tag a : Nat) : Word := w32 (s.rdU tag a 4)
def State.wrW (s : State) (tag a : Nat) (w : Word) : State := s.wr tag a (leBytes 4 w.toNat)

/-- First offset of `fs` whose condition fails, for form checks in byte order (R422). -/
def firstBadField (fs : List (Nat × Bool)) : Option Nat :=
  (fs.find? fun f => !f.2).map (·.1)

end Sys2Proof.Machine
end

