-- ==== Sys2Proof/Machine/Commands.lean ====
section
/-! DEFINITION. Running a started command: its record, its grid, the checks of its accesses (R93,
R122), its outcome. -/
namespace Sys2Proof.Machine

/-- The command of an identifier in a partition (8: the management ring). -/
def State.cmd? (s : State) (p c : Nat) : Option Cmd := (s.part p).cmds.find? fun k => k.cid == c

/-- Updates one command. -/
def State.modCmd (s : State) (p c : Nat) (f : Cmd → Cmd) : State :=
  s.modPart p fun q => { q with cmds := updFirst (fun k => k.cid == c) f q.cmds }

/-- Every unit of the command is on a die that runs, and the device is READY. -/
def State.cmdLive (s : State) (k : Cmd) : Bool :=
  s.dev.state == .ready && k.units.all fun u => s.live (dieOfUnit u)

/-- No sequencer of the command is halted for debug (R154). -/
def State.unhalted (s : State) (k : Cmd) : Bool := k.units.all fun u => (s.unit u).run ≠ .halted

/-- No array or tile pass starts on a die in thermal state T3 (Table 18.2); kernel programs and Tundish
commands begin nonetheless. -/
def State.passesOk (s : State) (k : Cmd) : Bool :=
  k.opcode == 0x203 || k.opcode == 0x283 || k.opcode == 0x204 || k.opcode == 0x284 ||
    k.units.all fun u => decide ((s.die (dieOfUnit u)).therm.st < 3)

/-- The effect of a started command that has no outcome yet; its outcome waits for COMMAND_COMPLETE.
A fault of the partition during the effect leaves the command to the teardown (R322). -/
def State.runCmd (s : State) (p c opcode : Nat) (f : Cmd → State → State × Compl) :
    Host.Outcome State Fault Refusal :=
  match s.cmd? p c with
  | some k =>
    if k.opcode = opcode ∧ k.phase = .running ∧ k.out = none ∧ s.cmdLive k ∧ s.unhalted k ∧
        s.passesOk k ∧ (s.part p).st ≠ .faulted then
      let (t, o) := f k s
      if (t.part p).st = .faulted then .next t
      else .next (t.modCmd p c fun k => { k with out := some o })
    else .next s
  | none => .next s

/-- Units of a command's grid by grid position, from its logical indices (R89, R113). -/
def State.gridUnits (s : State) (tile : Bool) (m : List Byte) : List Nat :=
  (List.range (fld m 49 1 * fld m 50 1)).map fun i =>
    if tile then s.physTile (fld m 48 1 + i) else s.physCluster (fld m 48 1 + i)

/-- Unit at a grid position; the first where the grid has fewer. -/
def gridAt (us : List Nat) (i : Nat) : Nat := us.getD i (us.headD 0)

/-- Conditions on the GRID field (R89, R113): shape, and indices that exist. -/
def State.gridForm (s : State) (tile : Bool) (m : List Byte) : Bool :=
  let n := fld m 49 1 * fld m 50 1
  let top := if tile then s.maps.tiles.length else s.maps.clusters.length
  decide (1 ≤ n ∧ n ≤ (if tile then 80 else 96) ∧ fld m 48 1 + n ≤ top)

/-- Every logical unit of the grid belongs to the partition (R89, R113). -/
def State.gridOwned (s : State) (p : Nat) (tile : Bool) (m : List Byte) : Bool :=
  let own := if tile then (s.part p).tiles else (s.part p).clusters
  (List.range (fld m 49 1 * fld m 50 1)).all fun i => own.contains (fld m 48 1 + i)

/-- First address that a Runner or output stage may not use; `noHost` where host memory is out of reach (R93, R122). -/
def State.unitBad (s : State) (p : Nat) (noHost : Bool) (rs : List Range) : Option Nat :=
  (rs.findSome? fun r => if noHost ∧ r.2.1 ≠ 0 ∧ addrKind r.1 = .host then some r.1 else none).orElse
    fun _ => s.badRange p rs

/-- A refused access of a unit: ACCESS in its page and a fault of the partition; beyond the last granule of a stack the
stack refuses it and records it (R93, R122, R426). -/
def State.unitRefuse (s : State) (p u a : Nat) : State :=
  let (k, i) := unitPage u
  let n := if isTile u then 4 else 6
  match addrKind a with
  | .stack m off =>
    if (s.codeAt m off).isNone then s.refuse p a
    else (s.evErr k i n n p (a % 2 ^ 32) (a / 2 ^ 32)).faultFrom p k i n
  | _ => (s.evErr k i n n p (a % 2 ^ 32) (a / 2 ^ 32)).faultFrom p k i n

/-- Ranges that Runners and output stages would use, by unit: each unit with a refused access shows it, the first in the
order given faults the partition (R93, R122). -/
def State.unitAccess (s : State) (p : Nat) (noHost : Bool) (us : List (Nat × List Range)) : Option State :=
  let bad := us.filterMap fun e => (s.unitBad p noHost e.2).map fun a => (e.1, a)
  if bad.isEmpty then
    match us.findSome? fun e => s.poisoned e.2 with
    | some a => some (s.dramUe p a)
    | none => none
  else some (bad.foldl (fun s e => s.unitRefuse p e.1 e.2) s)

/-- Ranges that Iluby data movement, Fumarole, the Sprue or the Ladle would use under a tag: refused
at the stack (R210). -/
def State.tagAccess (s : State) (tag : Nat) (rs : List Range) : Option State :=
  match s.badRange tag rs with
  | some a => some (s.refuse tag a)
  | none =>
    match s.poisoned rs with
    | some a => some (s.dramUe tag a)
    | none => none

/-- NSTAT of the units of a command, by grid position, and the page copies (R82). -/
def State.setNstat (s : State) (us : List Nat) (n : Nat → Nat) : State :=
  forN us.length s fun i s => s.modUnit (gridAt us i) fun x => { x with seq := { x.seq with nstat := w32 (n i) } }
/-- OR of what the units of a grid set. -/
def orFlags (us : List Nat) (n : Nat → Nat) : Nat := forN us.length 0 fun i a => a ||| n i

/-- A completion with NSTAT. -/
def Compl.ns (n : Nat) : Compl := { Compl.ok with nstat := w32 n }

end Sys2Proof.Machine
end

