-- ==== Sys2Proof/Machine/Tundish.lean ====
section
/-! DEFINITION. The Tundish operations of Table 8.5 on streams (R155 to R176), apart from where the
streams lie: the sequencer gives memories of a unit, MG_VEC and CG_VEC device memory. -/
namespace Sys2Proof.Machine

/-! ## Operations by code -/

/-- Operation codes that exist (Table 8.5). -/
def topOk (t : Nat) : Bool :=
  decide (1 ≤ t ∧ t ≤ 0x0A) || decide (0x10 ≤ t ∧ t ≤ 0x13) || decide (0x18 ≤ t ∧ t ≤ 0x1D) ||
    decide (0x20 ≤ t ∧ t ≤ 0x26) || t == 0x28 || t == 0x29 || t == 0x30 || t == 0x31 || t == 0x38 ||
    t == 0x39 || t == 0x40 || t == 0x41 || t == 0x48 || t == 0x49

def isCmp (t : Nat) : Bool := decide (0x18 ≤ t ∧ t ≤ 0x1B)
def isReduce (t : Nat) : Bool := decide (0x20 ≤ t ∧ t ≤ 0x25)
/-- Element-wise operations and the conversion (R159, R160). -/
def isElementwise (t : Nat) : Bool :=
  decide (1 ≤ t ∧ t ≤ 0x0A) || decide (0x10 ≤ t ∧ t ≤ 0x13) || isCmp t || t == 0x1C
/-- B enters by BMODE. -/
def usesB (t md : Nat) : Bool :=
  decide (1 ≤ t ∧ t ≤ 6) || t == 0x10 || isCmp t || t == 0x1C || (t == 0x39 && bit md 0)
/-- A is read as a stream of ROWS × COLS. -/
def usesA (t : Nat) : Bool := t ≠ 7 && t ≠ 0x1D && t ≠ 0x30 && t ≠ 0x31
/-- SB is a stream of its own (position record or column vector). -/
def usesSB (t md : Nat) : Bool :=
  t == 0x1D || t == 0x26 || (t == 0x38 && bit md 0) || t == 0x48 || (t == 0x49 && bit md 0)
/-- MOD bits an operation uses; FANADD takes P there. -/
def modMask (t : Nat) : Nat :=
  match t with
  | 0x08 => 1 | 0x30 => 255 | 0x31 => 7 | 0x38 => 1 | 0x39 => 1 | 0x40 => 1 | 0x48 => 1 | 0x49 => 1
  | _ => 0

/-- A stream: its memory, its first byte, format, rows, bytes per row, pitch. -/
structure Strm where
  mem : Nat
  off : Nat
  fmt : Nat
  rows : Nat
  len : Nat
  pitch : Nat
  deriving DecidableEq, Repr

/-- Packed row bytes of a mask (Table 8.2). -/
def maskLen (cols : Nat) : Nat := cdiv cols 8

/-- Row q of stream b starts below `e` and ends above `a`. -/
def Strm.hits (b : Strm) (a e : Nat) : Bool :=
  let q := if b.off + b.len > a then 0 else (a - b.off - b.len) / max b.pitch 1 + 1
  decide (q < b.rows ∧ 0 < b.len ∧ b.off + q * b.pitch < e)
/-- Two streams share a byte (R160). -/
def Strm.overlaps (a b : Strm) : Bool :=
  a.mem == b.mem && decide (0 < a.len) && (List.range a.rows).any fun r =>
    b.hits (a.off + r * a.pitch) (a.off + r * a.pitch + a.len)

/-! ## The operation as read (Tables 8.3, 8.4) -/

/-- An operation with its control word and the formats of its streams. -/
structure TOp where
  top : Nat
  rows : Nat
  cols : Nat
  ctl : Nat
  /-- The scalar operand. -/
  sc : Word
  fA : Nat
  fB : Nat
  fY : Nat
  fX : Nat
  /-- SB and AUX as u32 values. -/
  sb : Nat
  aux : Nat
  deriving DecidableEq, Repr

def TOp.cls (o : TOp) : Nat := bits o.ctl 2 0
def TOp.masked (o : TOp) : Bool := bit o.ctl 3
def TOp.bmode (o : TOp) : Nat := bits o.ctl 5 4
def TOp.sumsel (o : TOp) : Nat := bits o.ctl 7 6
def TOp.md (o : TOp) : Nat := bits o.ctl 15 8
/-- R61 has no scale of −128; such a byte of CTL, of a σ table or of a scale record is taken at its value (DESIGN CHOICE,
log 51). -/
def TOp.sigIn (o : TOp) : Int := sext 8 (bits o.ctl 23 16)
def TOp.sigOut (o : TOp) : Int := sext 8 (bits o.ctl 31 24)

/-- A CVT side that needs AUX: block scales, or the σ table under MOD[0] (R164). -/
def TOp.needsAux (o : TOp) (f : Nat) : Bool := isMx f || isCz4 f || (bit o.md 0 && isScaled f)

/-- AUX carries something other than a mask. -/
def TOp.auxUsed (o : TOp) : Bool :=
  (o.top == 8 && (o.needsAux o.fA || o.needsAux o.fY)) || o.top == 0x31 || o.top == 0x40 ||
    o.top == 0x41 || o.top == 0x48 || o.top == 0x49
/-- AUX is read as a mask of ROWS × COLS. -/
def TOp.auxMask (o : TOp) : Bool := o.masked || o.top == 0x1C

/-- Formats that CVT converts. -/
def cvtFmt (f : Nat) : Bool := decide (f ≤ 0x0A) || f == 0x0E || f == 0x0F
/-- The format conditions of R156, R162 to R176, by stream. -/
def TOp.fmtAOk (o : TOp) : Bool :=
  let t := o.top
  if t = 8 then cvtFmt o.fA else if t = 0x30 ∨ t = 0x31 ∨ t = 0x48 then o.fA == 0 else !usesA t || isPlain o.fA
def TOp.fmtBOk (o : TOp) : Bool :=
  let t := o.top
  (!(usesB t o.md && decide (o.bmode ≠ 3)) || isPlain o.fB) &&
  (if t = 0x1D ∨ t = 0x48 then o.fB == 0x0F
   else if t = 0x26 then o.fB == 0
   else if t = 0x38 then !bit o.md 0 || o.fB == 0x0F
   else if t = 0x49 then !bit o.md 0 || o.fB == 0 else true)
def TOp.fmtYOk (o : TOp) : Bool :=
  let t := o.top
  if t = 8 then cvtFmt o.fY
  else if isCmp t ∨ t = 0x1D then o.fY == 0x0E
  else if 0x23 ≤ t ∧ t ≤ 0x25 then o.fY == 0x0F
  else if t = 0x26 then o.fY == 0
  else if t = 0x31 then o.fY == 3 || o.fY == 4 || o.fY == 0x0A || o.fY == 0x0E
  else if t = 0x48 then (if bit o.md 0 then o.fY == 0 || o.fY == 2 else o.fY == 3 || o.fY == 4)
  else isPlain o.fY
/-- An AUX stream of scales may name any format that exists: no rule gives one for it (DEDUCED, log 47). -/
def TOp.fmtXOk (o : TOp) : Bool :=
  let t := o.top
  (!o.auxMask || o.fX == 0x0E) &&
  (if t = 0x31 ∨ t = 0x48 ∨ t = 0x49 then o.fX == 0
   else if t = 0x40 ∨ t = 0x41 then o.fX == 0x0F
   else if t = 8 then
     !(o.needsAux o.fA && o.needsAux o.fY) && (!(o.needsAux o.fA || o.needsAux o.fY) || decide (o.fX ≤ 0x0F))
   else true)

/-- A tensor of class 0, 3 or 4 is written in a format that may persist (R60). -/
def TOp.pairOk (o : TOp) : Bool := !((o.cls == 0 || o.cls == 3 || o.cls == 4) && !mayPersist o.fY)

/-- The control conditions of R157 to R175 apart from streams. -/
def TOp.ctlOk (o : TOp) : Bool :=
  let t := o.top
  decide (o.cls ≤ 4) && decide (o.sumsel ≠ 3) && decide (o.md &&& (255 - modMask t) = 0) &&
  (usesB t o.md || o.bmode == 0) && !(t == 6 && o.bmode == 3) &&
  !(o.masked && (o.auxUsed || t == 0x1C || t == 0x30)) &&
  !((t == 0x38 || t == 0x39) && !o.masked) &&
  (t ≠ 0x30 || decide (2 ≤ o.md ∧ o.md ≤ 64)) &&
  !(t == 0x31 && bit o.md 1 && !bit o.md 0)

/-! ## Streams of an operation -/

/-- Stored rows and bytes per row of the streams by role. A row of A holds VL elements under PERMUTE, and A
holds VL rows under GATHER (R174). -/
def TOp.aShape (o : TOp) : Nat × Nat :=
  if o.top = 0x40 then (o.rows, rowBytes o.fA o.sc.toNat)
  else if o.top = 0x41 then (o.sc.toNat, rowBytes o.fA o.cols)
  else (o.rows, rowBytes o.fA o.cols)
def TOp.bShape (o : TOp) : Nat × Nat :=
  if o.bmode = 1 then (1, rowBytes o.fB o.cols)
  else if o.bmode = 2 then (1, rowBytes o.fB o.rows) else (o.rows, rowBytes o.fB o.cols)
def TOp.yShape (o : TOp) : Nat × Nat :=
  let t := o.top
  if isCmp t ∨ t = 0x1D then (o.rows, maskLen o.cols)
  else if isReduce t ∨ t = 0x26 then (1, rowBytes o.fY o.rows)
  else if t = 0x28 ∨ t = 0x29 then (1, rowBytes o.fY o.cols)
  else (o.rows, rowBytes o.fY o.cols)
def TOp.xShape (o : TOp) : Nat × Nat :=
  let t := o.top
  if o.auxMask then (o.rows, maskLen o.cols)
  else if t = 8 then
    let f := if o.needsAux o.fA then o.fA else o.fY
    if isMx f then (o.rows, cdiv o.cols 32)
    else if isCz4 f then (o.rows, 8 * cdiv o.cols 128)
    else if bit o.md 0 ∧ isScaled f ∧ o.rows ≠ 0 then (1, (o.sc.toNat + o.rows - 1) / 128 + 1)
    else (0, 0)
  else if t = 0x40 then (if bit o.md 0 then o.rows else 1, 4 * o.cols)
  else if t = 0x41 then (1, 4 * o.rows)
  else if t = 0x48 ∧ bit o.md 0 then (1, 4 * o.rows)
  else if t = 0x48 ∨ t = 0x49 then (1, 12 * o.rows)
  else (0, 0)
def TOp.sbShape (o : TOp) : Nat × Nat :=
  let t := o.top
  if t = 0x1D ∨ t = 0x48 then (1, 16) else (1, 4 * o.rows)

/-- Block of entry i of a SCALE (R170). -/
def TOp.scaleBlk (o : TOp) (i : Nat) : Nat :=
  if !bit o.md 0 then 0 else if bit o.md 1 then o.sc.toNat + i else (o.sc.toNat + i) / 128

/-! ## Effect -/

/-- How an operation reads: bytes of A, B, Y's old contents, AUX, SB from an offset, and of source j
of FANADD and SCALE. -/
structure TRd where
  a : Nat → Nat → List Byte
  b : Nat → Nat → List Byte
  x : Nat → Nat → List Byte
  sb : Nat → Nat → List Byte
  src : Nat → Nat → Nat → List Byte
  y : Nat → Nat → List Byte
  pa : Nat
  pb : Nat
  py : Nat
  px : Nat
  e4nan : Bool

/-- What an operation writes and returns. -/
structure TOut where
  y : List (Nat × List Byte)
  x : List (Nat × List Byte)
  sb : List (Nat × List Byte)
  own : Word
  active : Nat
  nstat : Nat
  nonfin : Bool
  tally : Tally
  deriving DecidableEq, Repr

def TOut.none : TOut :=
  { y := [], x := [], sb := [], own := 0, active := 0, nstat := 0, nonfin := false, tally := .zero }

/-- The flag word of R171. -/
def TOut.flagWord (t : TOut) : Word :=
  w32 ((if t.nstat &&& nsEMPTY ≠ 0 then 1 else 0) + (if t.nstat &&& nsPERMOOB ≠ 0 then 2 else 0) +
    (if t.nonfin then 4 else 0) + (if t.tally.sat ≠ 0 then 8 else 0) +
    (if t.tally.ftz ≠ 0 then 16 else 0) + (if t.nstat &&& nsLONGSUM ≠ 0 then 32 else 0))

/-- The summary under SUMSEL (Table 8.4). -/
def TOut.summary (o : TOp) (t : TOut) : Word :=
  if o.sumsel = 1 then t.flagWord else if o.sumsel = 2 then w32 t.active else t.own

/-- Bit c of row r of the AUX mask. -/
def TRd.maskBit (d : TRd) (r c : Nat) : Bool := bit (leNat (d.x (r * d.px + c / 8) 1)) (c % 8)

/-- Element c of a plain row as f32 under a scale (R162). -/
def plainElem (f : Nat) (row : List Byte) (sig : Int) (c : Nat) : Word := f32 (elem f row [] sig c)

/-- f32 value of element (r, c) of A. -/
def TRd.av (d : TRd) (o : TOp) (r c : Nat) : Word :=
  let n := fmtBits o.fA / 8
  plainElem o.fA (d.a (r * d.pa + c * n) n) o.sigIn 0
/-- f32 value of the matching element of B (R158). -/
def TRd.bv (d : TRd) (o : TOp) (r c : Nat) : Word :=
  let n := fmtBits o.fB / 8
  match o.bmode with
  | 0 => plainElem o.fB (d.b (r * d.pb + c * n) n) o.sigIn 0
  | 1 => plainElem o.fB (d.b (c * n) n) o.sigIn 0
  | 2 => plainElem o.fB (d.b (r * n) n) o.sigIn 0
  | _ => o.sc

/-- Largest finite magnitude of f32 values, as f32. -/
def amaxW (vs : List Word) : Word := f32 (amaxFin (vs.map fl))

/-- What the conversions of f32 results lose; FP32 is written without conversion and counts nothing (R65). -/
def TOp.lost (o : TOp) (ls : List Loss) : Tally := if o.fY = 0 then .zero else Tally.of ls

/-- Rows of optional f32 results written as Y: the bytes of each active element. -/
def writeElems (o : TOp) (d : TRd) (vals : List (List (Option Word))) : TOut :=
  let n := fmtBits o.fY / 8
  let enc := vals.map fun row => row.map fun v => v.map fun w => (encElem o.fY d.e4nan o.sigOut (fl w), w)
  let flat := enc.flatMap fun row => row.filterMap id
  let ys := (List.range enc.length).flatMap fun r =>
    let row := enc.getD r []
    if row.all Option.isSome then
      [(r * d.py, packCodes o.fY ((row.filterMap id).map (·.1.1)))]
    else (List.range row.length).filterMap fun c =>
      match row.getD c Option.none with
      | some e => some (r * d.py + c * n, leBytes n e.1.1)
      | Option.none => Option.none
  { TOut.none with
    y := ys, own := amaxW (flat.map (·.2)), tally := o.lost (flat.map (·.1.2)),
    nonfin := flat.any fun e => !fIsFin e.2 }

/-- A column vector or single row of f32 results written from offset 0 of Y. -/
def writeVec (o : TOp) (d : TRd) (vs : List Word) : TOut :=
  let enc := vs.map fun w => encElem o.fY d.e4nan o.sigOut (fl w)
  { TOut.none with
    y := [(0, packCodes o.fY (enc.map (·.1)))], tally := o.lost (enc.map (·.2)),
    nonfin := vs.any fun w => !fIsFin w }

/-- u32 words as bytes. -/
def wordsB (ws : List Word) : List Byte := ws.flatMap fun w => leBytes 4 w.toNat

/-- All (r, c) of the shape row by row. -/
def grid {α : Type} (rows cols : Nat) (f : Nat → Nat → α) : List (List α) :=
  (List.range rows).map fun r => (List.range cols).map (f r)

/-- Element (r, c) is active (R159). -/
def TOp.act (o : TOp) (d : TRd) (r c : Nat) : Bool := !o.masked || d.maskBit r c
/-- Number of active elements. -/
def TOp.actCount (o : TOp) (d : TRd) : Nat :=
  ((grid o.rows o.cols (o.act d)).map (count id)).foldl (· + ·) 0

/-- The element-wise function of an operation (Table 8.5). -/
def ewFun (t : Nat) (x b sc : Word) : Word :=
  match t with
  | 0x01 => fadd x b
  | 0x02 => fsub x b
  | 0x03 => fmul x b
  | 0x04 => fminw x b
  | 0x05 => fmaxw x b
  | 0x06 => ffma x sc b
  | 0x07 => sc
  | 0x09 => fneg x
  | 0x0A => fabs x
  | 0x10 => fexp2 (fsub x b)
  | 0x11 => flog2 x
  | 0x12 => frecip x
  | 0x13 => frsqrt x
  | _ => x

/-- The comparison of an operation: NaN gives 0, except 1 for CMPNE. -/
def cmpFun (t : Nat) (x b : Word) : Bool :=
  match t with
  | 0x18 => flt x b | 0x19 => fle x b | 0x1A => feq x b | _ => !feq x b

/-- x is above y, +0 above −0 (R162). -/
def above (x y : Word) : Bool := flt y x || (feq x y && (fl y).sign && !(fl x).sign)

/-- Max and Min over active values (R81). -/
def maxOf (vs : List Word) : Word := match vs with | [] => fNegInf | v :: r => r.foldl fmaxw v
def minOf (vs : List Word) : Word := match vs with | [] => fPosInf | v :: r => r.foldl fminw v

/-- Lowest index that holds the extreme among (index, value) pairs; a NaN first of all (R81). -/
def argBest (better : Word → Word → Bool) (vs : List (Nat × Word)) : Nat :=
  match vs.find? (fun v => (fl v.2).isNan) with
  | some v => v.1
  | none =>
    match vs with
    | [] => 0xFFFFFFFF
    | v :: r => (r.foldl (fun b x => if better x.2 b.2 then x else b) v).1

/-- One row reduced (R166, R167): result and whether it was empty. -/
def reduceRow (t : Nat) (vs : List (Nat × Word)) (full : List Word) : Word × Bool :=
  let e := vs.isEmpty
  (match t with
   | 0x20 => rsum full
   | 0x21 => maxOf (vs.map (·.2))
   | 0x22 => minOf (vs.map (·.2))
   | 0x23 => w32 vs.length
   | 0x24 => w32 (argBest above vs)
   | _ => w32 (argBest (fun x y => above y x) vs), e)

/-- Mask rows as bytes. -/
def maskBytes (row : List Bool) : List Byte :=
  (chunksOf 8 row).map fun b =>
    BitVec.ofNat 8 ((List.range b.length).foldl (fun v i => v + (if b.getD i false then 2 ^ i else 0)) 0)

/-- The position record: bit (r, c) is active (R173). -/
def posActive (rec : List Byte) (r c : Nat) : Bool :=
  let q0 := fld rec 0 4
  let k0 := fld rec 4 4
  let lim := fld rec 8 4
  decide (k0 + c < lim) && (!bit (fld rec 12 4) 0 || decide (k0 + c ≤ q0 + r))

/-- Element code of Y for a moved element: a copy where the format and scale are the same, a
conversion otherwise. -/
def moveElem (o : TOp) (d : TRd) (src : List Byte) : List Byte × Option Loss :=
  if o.fA = o.fY ∧ (!isScaled o.fA ∨ o.sigIn = o.sigOut) then (src, none)
  else
    let r := encElem o.fY d.e4nan o.sigOut (fl (plainElem o.fA src o.sigIn 0))
    (leBytes (fmtBits o.fY / 8) r.1, some r.2)

/-- Moved rows: each element the source bytes of A, zero, or left as it is. -/
def moveRows (o : TOp) (d : TRd) (rows : List (List (Option (Option (List Byte))))) : TOut :=
  let n := fmtBits o.fY / 8
  let enc := rows.map fun row => row.map fun e => e.map fun e =>
    match e with | some b => moveElem o d b | none => (List.replicate n 0, none)
  let flat := enc.flatMap fun row => row.filterMap id
  let ys := (List.range enc.length).flatMap fun r =>
    let row := enc.getD r []
    (List.range row.length).filterMap fun c =>
      match row.getD c none with
      | some e => some (r * d.py + c * n, e.1)
      | none => none
  { TOut.none with y := ys, tally := Tally.of (flat.filterMap (·.2)) }

/-- Bytes of element (r, c) of A. -/
def TRd.ab (d : TRd) (o : TOp) (r c : Nat) : List Byte :=
  let n := fmtBits o.fA / 8
  d.a (r * d.pa + c * n) n

/-- The streaming-softmax step of one row (R94, R175) before conversion: x, its maximum, the new
maximum and alpha; `none` where no position is active. -/
def softRow (c : Word) (runMax : Word) (scores : List (Option Word)) :
    Option (List (Option Word) × Word × Word × Word) :=
  let xs := scores.map fun v => v.map (fmul c)
  match xs.filterMap id with
  | [] => none
  | v :: r =>
    let bm := r.foldl fmaxw v
    let nm := fmaxw runMax bm
    let alpha := if runMax = fNegInf then 0 else fexp2 (fsub runMax nm)
    some (xs, bm, nm, alpha)

/-- p of a row: exp2 of the active differences, +0 elsewhere. -/
def softP (nm : Word) (xs : List (Option Word)) : List Word :=
  xs.map fun v => match v with | some x => fexp2 (fsub x nm) | none => 0

/-- A tensor-scaled operand of CVT under MOD[0] takes row σ from AUX (R164). -/
def TOp.rowSig (o : TOp) (d : TRd) (r : Nat) (given : Int) : Int :=
  if bit o.md 0 then sext 8 (leNat (d.x ((o.sc.toNat + r) / 128) 1)) else given

/-- Groups of a CZ4 row with the block scales of the AUX plane, 8 bytes a group (R164). -/
def czScales (row plane : List Byte) : List Byte :=
  (List.range (row.length / 72)).flatMap fun g => slice row (72 * g) 64 ++ slice plane (8 * g) 8
/-- Block scales of the groups of a CZ4 row. -/
def czPlane (row : List Byte) : List Byte := (List.range (row.length / 72)).flatMap fun g => slice row (72 * g + 64) 8

/-- CVT (R164). The block scales of a CZ4 side lie in AUX, as R164 says, and a CZ4 result carries them in its groups
too, as R51 says (DEDUCED, log 47). -/
def tundishCvt (o : TOp) (d : TRd) : TOut :=
  let rows := (List.range o.rows).map fun r =>
    let raw := d.a (r * d.pa) (rowBytes o.fA o.cols)
    let raw := if isCz4 o.fA then czScales raw (d.x (r * d.px) (8 * cdiv o.cols 128)) else raw
    let sc := if isMx o.fA then d.x (r * d.px) (cdiv o.cols 32) else []
    let sig := if isCz4 o.fA then o.sigOut else if isScaled o.fA then o.rowSig d r o.sigIn else 0
    decRow o.fA raw sc sig o.cols
  let blk := isMx o.fY || isCz4 o.fY
  let enc := (List.range o.rows).map fun r =>
    encRow o.fY d.e4nan (if isCz4 o.fY then o.sigOut else if isScaled o.fY then o.rowSig d r o.sigOut
      else 0) (rows.getD r [])
  let ys := (List.range o.rows).flatMap fun r =>
    let e := (enc.getD r ([], [], .zero)).1
    if o.masked ∧ !blk then
      let n := fmtBits o.fY / 8
      (List.range o.cols).filterMap fun c =>
        if o.act d r c then some (r * d.py + c * n, slice e (c * n) n) else none
    else [(r * d.py, e)]
  let xs := if isMx o.fY then (List.range o.rows).map fun r =>
      (r * d.px, slice (enc.getD r ([], [], .zero)).2.1 0 d.px)
    else if isCz4 o.fY then (List.range o.rows).map fun r => (r * d.px, czPlane (enc.getD r ([], [], .zero)).1)
    else []
  let vals := (List.range o.rows).flatMap fun r =>
    (List.range o.cols).filterMap fun c =>
      if o.act d r c then some ((rows.getD r []).getD c Fl.zero) else none
  let tally :=
    if o.fA = o.fY ∧ (!isScaled o.fA ∨ o.sigIn = o.sigOut) then Tally.zero
    else if o.masked then
      Tally.of ((List.range o.rows).flatMap fun r => (List.range o.cols).filterMap fun c =>
        if o.act d r c then
          some (encElem o.fY d.e4nan (if isScaled o.fY then o.rowSig d r o.sigOut else 0)
            ((rows.getD r []).getD c Fl.zero)).2
        else none)
    else (enc.map (·.2.2)).foldl Tally.plus .zero
  { TOut.none with
    y := ys, x := xs, own := f32 (amaxFin vals), tally := tally,
    nonfin := vals.any fun v => !v.isFin }

/-- The reductions of rows and columns, RMAXSUM and FANADD (R166 to R169). -/
def tundishReduce (o : TOp) (d : TRd) : TOut :=
  let t := o.top
  let row (r : Nat) : List (Nat × Word) :=
    (List.range o.cols).filterMap fun c => if o.act d r c then some (c, d.av o r c) else none
  let full (r : Nat) : List Word :=
    (List.range o.cols).map fun c => if o.act d r c then d.av o r c else 0
  if isReduce t then
    let rs := (List.range o.rows).map fun r => reduceRow t (row r) (full r)
    let vs := rs.map (·.1)
    let empty := rs.any (·.2) || o.rows == 0
    let own : Word := match t with
      | 0x20 => vs.foldl fadd 0
      | 0x21 => maxOf vs
      | 0x22 => minOf vs
      | 0x23 => w32 ((vs.map (·.toNat)).foldl (· + ·) 0)
      | _ => vs.headD 0xFFFFFFFF#32
    let out : TOut :=
      if t ≥ 0x23 then { TOut.none with y := [(0, wordsB vs)] } else writeVec o d vs
    { out with own := own, nstat := if empty then nsEMPTY else 0,
               nonfin := t < 0x23 && vs.any (fun w => !fIsFin w) }
  else if t = 0x26 then
    let rs := (List.range o.rows).map fun r =>
      let xs := (List.range o.cols).map fun c =>
        if o.act d r c then some (fmul (d.av o r c) o.sc) else none
      match xs.filterMap id with
      | [] => (fNegInf, (0 : Word), true)
      | v :: q => let m := q.foldl fmaxw v; (m, rsum (softP m xs), false)
    let ms := rs.map (·.1)
    { TOut.none with
      y := [(0, wordsB ms)], sb := [(0, wordsB (rs.map (·.2.1)))], own := maxOf ms,
      nstat := if rs.any (·.2.2) || o.rows == 0 then nsEMPTY else 0,
      nonfin := rs.any fun r => !fIsFin r.1 || !fIsFin r.2.1 }
  else
    -- CSUM, CMAX
    let cs := (List.range o.cols).map fun c =>
      let col := (List.range o.rows).filterMap fun r => if o.act d r c then some (d.av o r c) else none
      (if t = 0x28 then col.foldl fadd 0 else maxOf col, col.isEmpty)
    let vs := cs.map (·.1)
    let out := writeVec o d vs
    { out with own := if t = 0x28 then vs.foldl fadd 0 else maxOf vs,
               nstat := if cs.any (·.2) || o.cols == 0 then nsEMPTY else 0 }

/-- FANADD (R169). -/
def tundishFan (o : TOp) (d : TRd) : TOut :=
  let vals := grid o.rows o.cols fun r c =>
    some (fan ((List.range o.md).map fun j => w32 (leNat (d.src j (r * d.pa + 4 * c) 4))))
  let out := writeElems o d vals
  { out with nstat := if o.sc.toNat > 2 ^ 21 then nsLONGSUM else 0 }

/-- Blocks that the sources' entries touch, none without an entry (R170). -/
def TOp.scaleBlocks (o : TOp) : Nat :=
  if o.rows = 0 ∨ o.cols = 0 then 0 else o.scaleBlk (o.rows - 1) - o.scaleBlk 0 + 1

/-- SCALE (R170). -/
def tundishScale (o : TOp) (d : TRd) : TOut :=
  let clean (w : Word) : Word := if (fl w).isNan ∨ (fl w).lt Fl.zero then 0 else w
  let b0 := o.scaleBlk 0
  let n := o.scaleBlocks
  let blocks := (List.range n).map fun k =>
    let b := b0 + k
    let es := (List.range o.cols).flatMap fun j => (List.range o.rows).filterMap fun i =>
      if o.scaleBlk i = b then some (clean (w32 (leNat (d.src j (4 * i) 4)))) else none
    let v := es.foldl fmaxw 0
    let v := if bit o.md 2 then fmaxw v (clean (w32 (leNat (d.x (4 * b) 4)))) else v
    (b, v, sigmaOf (scaleF o.fY) (fl v))
  { TOut.none with
    x := blocks.map fun k => (4 * k.1, leBytes 4 k.2.1.toNat),
    y := blocks.map fun k => (k.1, leBytes 1 (wrap 8 k.2.2)),
    own := match blocks with | k :: _ => w32 (wrap 32 k.2.2) | [] => 0 }

/-- Bytes of the matching element of B; none where B is the scalar. -/
def TRd.bb (d : TRd) (o : TOp) (r c : Nat) : Option (List Byte) :=
  let n := fmtBits o.fB / 8
  match o.bmode with
  | 0 => some (d.b (r * d.pb + c * n) n)
  | 1 => some (d.b (c * n) n)
  | 2 => some (d.b (r * n) n)
  | _ => none
/-- An element of B, or s, in the format of Y: copied where format and scale are the same. -/
def TOp.fillElem (o : TOp) (d : TRd) (src : Option (List Byte)) : List Byte × Option Loss :=
  match src with
  | some b => moveElem { o with fA := o.fB } d b
  | none => moveElem { o with fA := 0 } d (leBytes 4 o.sc.toNat)

/-- COMPRESS and EXPAND (R172). -/
def tundishPack (o : TOp) (d : TRd) : TOut :=
  let act (r : Nat) : List Nat := (List.range o.cols).filter fun c => o.act d r c
  if o.top = 0x38 then
    let out := moveRows o d (grid o.rows o.cols fun r c =>
      match (act r)[c]? with
      | some i => some (some (d.ab o r i))
      | none => some none)
    { out with
      sb := if bit o.md 0 then
          [(0, wordsB ((List.range o.rows).map fun r => w32 (act r).length))] else [],
      own := w32 (o.actCount d) }
  else
    let n := fmtBits o.fY / 8
    let out := moveRows o d (grid o.rows o.cols fun r c =>
      if o.act d r c then some (some (d.ab o r (count (· < c) (act r)))) else none)
    let fills := if bit o.md 0 then
        (List.range o.rows).flatMap fun r => (List.range o.cols).filterMap fun c =>
          if o.act d r c then none
          else some (r * d.py + c * n, o.fillElem d (d.bb o r c))
      else []
    { out with
      y := out.y ++ fills.map (fun f => (f.1, f.2.1)),
      tally := out.tally.plus (Tally.of (fills.filterMap (·.2.2))), own := w32 (o.actCount d) }

/-- PERMUTE and GATHER (R174). -/
def tundishIndex (o : TOp) (d : TRd) : TOut :=
  let vl := o.sc.toNat
  let idx (r c : Nat) : Nat :=
    if o.top = 0x40 then leNat (d.x ((if bit o.md 0 then r * d.px else 0) + 4 * c) 4)
    else leNat (d.x (4 * r) 4)
  let out := moveRows o d (grid o.rows o.cols fun r c =>
    let i := idx r c
    if i < vl then some (some (if o.top = 0x40 then d.ab o r i else d.ab o i c)) else some none)
  let oob := if o.top = 0x40 then
      ((grid o.rows o.cols fun r c => decide (vl ≤ idx r c)).map (count id)).foldl (· + ·) 0
    else count (fun r => decide (vl ≤ idx r 0)) (List.range o.rows)
  { out with own := w32 oob, nstat := if oob = 0 then 0 else nsPERMOOB }

/-- SOFTBLK (R175). -/
def tundishSoft (o : TOp) (d : TRd) : TOut :=
  let rec' := d.sb 0 16
  let score (r c : Nat) : Option Word := if posActive rec' r c then some (d.av o r c) else none
  let rows := (List.range o.rows).map fun r => (List.range o.cols).map (score r)
  let xw (i : Nat) : Word := w32 (leNat (d.x (4 * i) 4))
  let active := (rows.map (count Option.isSome)).foldl (· + ·) 0
  if bit o.md 0 then
    let vals := (List.range o.rows).map fun r =>
      let lse := xw r
      (rows.getD r []).map fun v => match v with
        | some a => some (if lse = fNegInf then 0 else fexp2 (fsub (fmul o.sc a) lse))
        | none => some 0
    let out := writeElems o d vals
    { out with own := 0, active := active, nonfin := out.nonfin || (List.range o.rows).any fun r =>
        (rows.getD r []).any Option.isSome && !fIsFin (xw r) }
  else
    let n := o.rows
    let steps := (List.range n).map fun r => softRow o.sc (xw r) (rows.getD r [])
    let am := amaxFin ((steps.filterMap id).map fun t => fl (fexp2 (fsub t.2.1 t.2.2.1)))
    let sig := sigmaOf (scaleF o.fY) am
    let outs := (List.range n).map fun r =>
      match steps.getD r none with
      | some (xs, _, nm, alpha) =>
        let e := (softP nm xs).map fun p => encElem o.fY d.e4nan sig (fl p)
        let q := rsum (e.map fun x => f32 (((fmtFp o.fY).dec x.1).scale2 sig))
        (e, nm, ffma (xw (n + r)) alpha q, alpha)
      | none => ((rows.getD r []).map fun _ => (0, .none), xw r, xw (n + r), fOne)
    { TOut.none with
      y := (List.range n).map fun r =>
        (r * d.py, packCodes o.fY ((outs.getD r ([], 0, 0, 0)).1.map (·.1))),
      x := [(0, wordsB (outs.map (·.2.1))), (4 * n, wordsB (outs.map (·.2.2.1))),
            (8 * n, wordsB (outs.map (·.2.2.2)))],
      own := w32 (wrap 32 sig), active := active,
      tally := Tally.of (outs.flatMap fun r => r.1.map (·.2)),
      nonfin := (List.range n).any fun r => match steps.getD r none with
        | some (xs, _, nm, _) => !fIsFin (xw r) || !fIsFin (xw (n + r)) || !fIsFin nm ||
            (softP nm xs).any (fun p => !fIsFin p) || !fIsFin (outs.getD r ([], 0, 0, 0)).2.2.1
        | none => false }

/-- ATTN_NORM (R176). -/
def tundishNorm (o : TOp) (d : TRd) : TOut :=
  let n := o.rows
  let xw (i : Nat) : Word := w32 (leNat (d.x (4 * i) 4))
  let empty (r : Nat) : Bool := xw (n + r) == 0
  let out := writeElems o d (grid n o.cols fun r c =>
    some (if empty r then 0 else fmul (d.av o r c) (frecip (xw (n + r)))))
  let e := count empty (List.range n)
  { out with
    nonfin := out.nonfin || (List.range n).any fun r => !fIsFin (xw (n + r)) ||
      (bit o.md 0 && (empty r || !fIsFin (xw r) || !fIsFin (fadd (xw r) (flog2 (xw (n + r)))))),
    sb := if bit o.md 0 then
        [(0, wordsB ((List.range n).map fun r =>
          if empty r then fNegInf else fadd (xw r) (flog2 (xw (n + r)))))] else [],
    own := w32 e, nstat := if e = 0 then 0 else nsEMPTY }

/-- Comparisons and MKCAUSAL: masks (R161, R173); inactive bits are written 0. -/
def tundishMask (o : TOp) (d : TRd) : TOut :=
  let rec' := d.sb 0 16
  let rows := grid o.rows o.cols fun r c =>
    o.act d r c &&
      (if o.top = 0x1D then posActive rec' r c else cmpFun o.top (d.av o r c) (d.bv o r c))
  { TOut.none with
    y := (List.range o.rows).map fun r => (r * d.py, maskBytes (rows.getD r [])),
    own := w32 ((rows.map (count id)).foldl (· + ·) 0) }

/-- Element-wise operations (R162); SELECT takes x where the AUX bit is 1 and b elsewhere. -/
def tundishElem (o : TOp) (d : TRd) : TOut :=
  let f (r c : Nat) : Option Word :=
    if o.top = 0x1C then some (if d.maskBit r c then d.av o r c else d.bv o r c)
    else if o.act d r c then
      some (ewFun o.top (if o.top = 7 then 0 else d.av o r c)
        (if usesB o.top o.md then d.bv o r c else 0) o.sc)
    else none
  writeElems o d (grid o.rows o.cols f)

/-- An element that the operation reads from A, B or a source is not finite (R171). -/
def TOp.readsNonfin (o : TOp) (d : TRd) : Bool :=
  let t := o.top
  let bad (r c : Nat) : Bool := !fIsFin (d.av o r c)
  let badB (r c : Nat) : Bool := !fIsFin (d.bv o r c)
  let some' (f : Nat → Nat → Bool) : Bool :=
    (List.range o.rows).any fun r => (List.range o.cols).any fun c => f r c
  let rec' := d.sb 0 16
  if t = 7 ∨ t = 8 ∨ t = 0x1D ∨ t = 0x30 then false
  else if t = 0x31 then
    (List.range o.cols).any (fun j => (List.range o.rows).any fun i =>
      !fIsFin (w32 (leNat (d.src j (4 * i) 4)))) ||
    (bit o.md 2 && o.rows ≠ 0 && (List.range (o.scaleBlk (o.rows - 1) - o.scaleBlk 0 + 1)).any fun k =>
      !fIsFin (w32 (leNat (d.x (4 * (o.scaleBlk 0 + k)) 4))))
  else if t = 0x39 then
    (List.range o.rows).any fun r =>
      let n := count (o.act d r) (List.range o.cols)
      (List.range n).any (bad r) ||
        (bit o.md 0 && (List.range o.cols).any fun c => !o.act d r c && badB r c)
  else if t = 0x40 ∨ t = 0x41 then
    some' fun r c =>
      let i := if t = 0x40 then leNat (d.x ((if bit o.md 0 then r * d.px else 0) + 4 * c) 4)
        else leNat (d.x (4 * r) 4)
      decide (i < o.sc.toNat) && (if t = 0x40 then bad r i else bad i c)
  else if t = 0x48 then some' fun r c => posActive rec' r c && bad r c
  else if t = 0x49 then some' fun r c => w32 (leNat (d.x (4 * (o.rows + r)) 4)) ≠ 0 && bad r c
  else some' fun r c => o.act d r c && (bad r c || (usesB t o.md && badB r c))

/-- A finite value that lies beyond the largest finite one of Y is written as an infinity or a NaN. -/
def TOp.satNonfin (o : TOp) (d : TRd) : Bool :=
  decide (o.fY ≤ 2) || o.fY == 4 || (o.fY == 3 && d.e4nan)

/-- The effect of an operation that passed its checks (Table 8.5). -/
def tundish (o : TOp) (d : TRd) : TOut :=
  let t := o.top
  let out :=
    if t = 8 then tundishCvt o d
    else if isCmp t ∨ t = 0x1D then tundishMask o d
    else if isElementwise t then tundishElem o d
    else if t = 0x30 then tundishFan o d
    else if t = 0x31 then tundishScale o d
    else if t = 0x38 ∨ t = 0x39 then tundishPack o d
    else if t = 0x40 ∨ t = 0x41 then tundishIndex o d
    else if t = 0x48 then tundishSoft o d
    else if t = 0x49 then tundishNorm o d
    else tundishReduce o d
  { out with
    active := if t = 0x48 then out.active else o.actCount d,
    nonfin := out.nonfin || o.readsNonfin d || (out.tally.sat ≠ 0 && o.satNonfin d) }

/-! ## Placement of the streams -/

/-- Memory and offset of A, B or SB, Y and AUX, and the PITCH register. -/
structure TPlace where
  a : Nat × Nat
  b : Nat × Nat
  y : Nat × Nat
  x : Nat × Nat
  pitch : Nat
  deriving DecidableEq, Repr

/-- Pitch in force for a packed pitch (R156). -/
def pitchOf (reg packedPitch : Nat) : Nat := if reg = 0 then packedPitch else reg
def TPlace.pA (q : TPlace) : Nat := bits q.pitch 15 0
def TPlace.pY (q : TPlace) : Nat := bits q.pitch 31 16

def TOp.strA (o : TOp) (q : TPlace) : Strm :=
  ⟨q.a.1, q.a.2, o.fA, o.aShape.1, o.aShape.2, pitchOf q.pA (packed o.fA o.cols)⟩
def TOp.strB (o : TOp) (q : TPlace) : Strm :=
  ⟨q.b.1, q.b.2, o.fB, o.bShape.1, o.bShape.2, pitchOf q.pA (align8 o.bShape.2)⟩
def TOp.strY (o : TOp) (q : TPlace) : Strm :=
  ⟨q.y.1, q.y.2, o.fY, o.yShape.1, o.yShape.2, pitchOf q.pY (align8 o.yShape.2)⟩
def TOp.strX (o : TOp) (q : TPlace) : Strm :=
  ⟨q.x.1, q.x.2, o.fX, o.xShape.1, o.xShape.2, align8 o.xShape.2⟩
def TOp.strSB (o : TOp) (q : TPlace) : Strm :=
  ⟨q.b.1, q.b.2, o.fB, o.sbShape.1, o.sbShape.2, align8 o.sbShape.2⟩

/-- Sources of FANADD and SCALE (R169, R170): `core j` moves to the memory of the j-th core. -/
def TOp.sources (o : TOp) (q : TPlace) (core : Nat → Nat → Nat) : List Strm :=
  let n := if o.top = 0x30 then o.md else if o.top = 0x31 then o.cols else 0
  let len := if o.top = 0x30 then 4 * o.cols else 4 * o.rows
  let rows := if o.top = 0x30 then o.rows else 1
  (List.range n).map fun j =>
    ⟨if o.sb = 0 then core q.a.1 j else q.a.1, q.a.2 + (if o.sb = 0 then 0 else j * o.sb), 0, rows, len,
      pitchOf q.pA (align8 len)⟩

/-- SCALE writes AUX and Y at its blocks only. -/
def TOp.scaleOut (o : TOp) (q : TPlace) : Strm × Strm :=
  let b0 := o.scaleBlk 0
  let n := o.scaleBlocks
  (⟨q.y.1, q.y.2 + b0, o.fY, 1, n, 8⟩, ⟨q.x.1, q.x.2 + 4 * b0, 0, 1, 4 * n, 8⟩)

/-- Streams an operation reads by role: A, B, and AUX with SB of its own (R160). -/
def TOp.insA (o : TOp) (q : TPlace) : List Strm := if usesA o.top then [o.strA q] else []
def TOp.insB (o : TOp) (q : TPlace) : List Strm :=
  if usesB o.top o.md ∧ o.bmode ≠ 3 then [o.strB q] else []
def TOp.insSB (o : TOp) (q : TPlace) : List Strm := if o.top = 0x1D ∨ o.top = 0x48 then [o.strSB q] else []
def TOp.insX (o : TOp) (q : TPlace) : List Strm :=
  if o.auxMask ∨ (o.top = 8 ∧ (o.needsAux o.fA ∨ (o.needsAux o.fY ∧ !isMx o.fY ∧ !isCz4 o.fY))) ∨ o.top = 0x40 ∨
      o.top = 0x41 ∨ o.top = 0x48 ∨ o.top = 0x49 then [o.strX q] else []

/-- Streams an operation reads, and those it writes. -/
def TOp.ins (o : TOp) (q : TPlace) (core : Nat → Nat → Nat) : List Strm :=
  o.insA q ++ o.insB q ++ o.insSB q ++ o.insX q ++ o.sources q core
def TOp.outs (o : TOp) (q : TPlace) : List Strm :=
  (if o.top = 0x31 then [(o.scaleOut q).1, (o.scaleOut q).2] else [o.strY q]) ++
  (if o.top = 8 ∧ (isMx o.fY ∨ isCz4 o.fY) ∨ o.top = 0x48 ∧ !bit o.md 0 then [o.strX q] else []) ++
  (if usesSB o.top o.md ∧ o.top ≠ 0x1D ∧ o.top ≠ 0x48 then [o.strSB q] else [])

/-- Y may run in place over A or B (R160). -/
def TOp.inPlace (o : TOp) (y i : Strm) : Bool :=
  isElementwise o.top && y.mem == i.mem && y.off == i.off && y.pitch == i.pitch &&
    fmtBits y.fmt == fmtBits i.fmt && !isCmp o.top

/-- Y has one element per row, or is the σ table of SCALE: no packed pitch (Table 8.2). -/
def TOp.yVector (o : TOp) : Bool := isReduce o.top || o.top == 0x26 || o.top == 0x31

/-- A field of an operation: the registers of its group in order (Table 8.3). -/
inductive TField where | a | b | y | shape | pitch | ctl | aux
  deriving DecidableEq, Repr
def TField.reg : TField → Nat
  | .a => 0 | .b => 1 | .y => 2 | .shape => 3 | .pitch => 4 | .ctl => 5 | .aux => 6

/-- A pitch register: packed, or a multiple of 8 and at least the packed pitch (R156). -/
def pitchReg (reg pk : Nat) : Bool := reg == 0 || (reg % 8 == 0 && decide (pk ≤ reg))
/-- Pitches of R156. -/
def TOp.pitchesOk (o : TOp) (q : TPlace) : Bool :=
  (!usesA o.top || pitchReg q.pA (packed o.fA o.cols)) &&
  (!(usesB o.top o.md && o.bmode == 0) || pitchReg q.pA (align8 o.bShape.2)) &&
  (o.top ≠ 0x30 || pitchReg q.pA (align8 (4 * o.cols))) &&
  pitchReg q.pY (if o.yVector then 0 else align8 o.yShape.2)

/-- A stream starts at a multiple of 8 and stays within its memory; `limit` is the end of a memory (R156, R179). -/
def Strm.fits (limit : Nat → Nat) (t : Strm) : Bool :=
  t.off % 8 == 0 && (t.rows == 0 || t.len == 0 || decide (t.off + (t.rows - 1) * t.pitch + t.len ≤ limit t.mem))

/-- Y shares bytes with no input but A or B in place, and with no other output (R160). -/
def TOp.overlapsOk (o : TOp) (q : TPlace) (core : Nat → Nat → Nat) : Bool :=
  let y := if o.top = 0x31 then (o.scaleOut q).1 else o.strY q
  (o.insA q ++ o.insB q).all (fun i => !y.overlaps i || o.inPlace y i) &&
  (o.insSB q ++ o.insX q ++ o.sources q core).all (fun i => !y.overlaps i) &&
  ((o.outs q).drop 1).all fun w => !y.overlaps w

/-- The conditions on formats and places by field, lowest register first (R156, R160 to R176, R179). An overlap is one
of Y (DEDUCED, log 15). -/
def TOp.badField (o : TOp) (q : TPlace) (core : Nat → Nat → Nat) (limit : Nat → Nat) : Option TField :=
  let fan := o.top = 0x30 ∨ o.top = 0x31
  let stride := fan ∧ o.sb ≠ 0 ∧ o.sb % 8 ≠ 0
  if !o.fmtAOk ∨ !(o.insA q ++ (if stride then [] else o.sources q core)).all (Strm.fits limit) then some .a
  else if !o.fmtBOk ∨ stride ∨ !(o.insB q ++ o.insSB q ++ (if usesSB o.top o.md then [o.strSB q] else [])).all
      (Strm.fits limit) then some .b
  else if !o.fmtYOk ∨ !(if o.top = 0x31 then q.y.2 % 8 == 0 && (let y := (o.scaleOut q).1
        y.len == 0 || decide (y.off + y.len ≤ limit y.mem)) else (o.strY q).fits limit) ∨ !o.overlapsOk q core then some .y
  else if !o.pitchesOk q then some .pitch
  else if !o.fmtXOk ∨ !(if o.top = 0x31 then q.x.2 % 8 == 0 && (let x := (o.scaleOut q).2
        x.len == 0 || decide (x.off + x.len ≤ limit x.mem))
      else !(o.auxMask || o.auxUsed) || (o.strX q).fits limit) then some .aux
  else none

end Sys2Proof.Machine
end

