-- ==== Sys2Proof/Machine/Products.lean ====
section
/-! DEFINITION. Matrix products and streaming attention as both engines compute them (R68, R69, R94,
R117, R118). -/
namespace Sys2Proof.Machine

/-- Every output element of op(A) · op(B), one chain each, from a running sum (R92, R115). `bs` lists
the columns. -/
def product (L : Nat) (as bs : List (List Fl)) (start : Nat → Nat → RSum) : List (List RSum) :=
  (List.range as.length).map fun i => (List.range bs.length).map fun j =>
    dotChain L (as.getD i []) (bs.getD j []) (start i j)

/-- OR of the flags of sums. -/
def flagsOf (rows : List (List RSum)) : Nat :=
  rows.foldl (fun a r => r.foldl (fun a x => a ||| x.flags) a) 0
/-- OR of flags. -/
def orAll (l : List Nat) : Nat := l.foldl (· ||| ·) 0
/-- What the tasks on unit `i` of G set, where task q runs on unit q mod G (R94, R117). -/
def taskFlags (G : Nat) (fl : List Nat) (i : Nat) : Nat :=
  orAll ((List.range fl.length).map fun q => if q % G = i then fl.getD q 0 else 0)
/-- What the tasks of a GEMM grid set on unit `i`, for tasks of `mt` rows and `nw` columns (R90, R115). -/
def gemmFlags (mt nw gm gn : Nat) (sums : List (List RSum)) (i : Nat) : Nat :=
  flagsOf ((List.range sums.length).map fun r => if r / mt % gm = i / gn then
    ((List.range (sums.getD r []).length).filter fun c => c / nw % gn == i % gn).map
      fun c => (sums.getD r []).getD c .zero else [])

/-- One chain from +0. -/
def dot (L : Nat) (a b : List Fl) : RSum := dotChain L a b .zero

/-- log₂e / √(2^k) rounded to f32 (R94). -/
def attnC (k : Nat) : Word :=
  f32 ((fl (if k % 2 = 0 then 0x3FB8AA3B#32 else 0x3F8293EE#32)).scale2 (-((k / 2 : Nat) : Int)))
/-- 1 / √(2^k) rounded to f32 (R118). -/
def attnRsd (k : Nat) : Word :=
  f32 ((fl (if k % 2 = 0 then fOne else 0x3F3504F3#32)).scale2 (-((k / 2 : Nat) : Int)))

/-- Online state of one row: run_max, run_sum, o. -/
structure AttnRow where
  m : Word
  l : Word
  o : List Word
  deriving DecidableEq, Repr

def AttnRow.init (d : Nat) : AttnRow := ⟨fNegInf, 0, List.replicate d 0⟩

/-- E4M3 code of each p under the block's σ, decoded. -/
def softDecode (sig : Int) (p : Word) : Fl := (e4m3.dec (e4m3.enc false ((fl p).scale2 (-sig))).1).scale2 sig

/-- One key block folded into the rows of a query block (R94, R175): `scores r j` is the raw f32
product or none where inactive; `vt` holds the columns of V of the block. -/
def attnBlock (c : Word) (vt : List (List Fl)) (scores : List (List (Option Word)))
    (st : List AttnRow) : List AttnRow × Nat :=
  let steps := (List.range st.length).map fun r =>
    softRow c (st.getD r (.init 0)).m (scores.getD r [])
  let am := amaxFin ((steps.filterMap id).map fun t => fl (fexp2 (fsub t.2.1 t.2.2.1)))
  let sig := sigmaOf 448 am
  let outs := (List.range st.length).map fun r =>
    let x := st.getD r (.init 0)
    match steps.getD r none with
    | some (xs, _, nm, alpha) =>
      let ps := (softP nm xs).map (softDecode sig)
      let pv := vt.map fun col => dot 32 ps col
      ({ m := nm, l := ffma x.l alpha (rsum (ps.map f32)),
         o := (List.range pv.length).map fun k =>
           fadd (fmul (x.o.getD k 0) alpha) (pv.getD k .zero).v : AttnRow },
        pv.foldl (fun a (y : RSum) => a ||| y.flags) 0)
    -- the array passes the row's zeros all the same (R68)
    | none => (x, flagsOf [vt.map fun (col : List Fl) => dot 32 (col.map fun _ => Fl.zero) col])
  (outs.map (·.1), outs.foldl (fun a x => a ||| x.2) 0)

/-- Scores of a query block against a key block: query row r stands at position q0 + r, key row j at
k0 + j. Every product of the block is formed, then those beyond the query are inactive under the causal mask. -/
def attnScores (causal : Bool) (q0 k0 : Nat) (qs ks : List (List Fl)) :
    List (List (Option Word)) × Nat :=
  let rows := product 32 qs ks fun _ _ => .zero
  ((List.range qs.length).map fun r => (List.range ks.length).map fun j =>
    if causal ∧ k0 + j > q0 + r then none else some ((rows.getD r []).getD j .zero).v, flagsOf rows)

/-- Key blocks of `kb` positions in increasing order for one query block: under the causal mask those that hold a
position up to the last query. -/
def attnGo (c : Word) (causal : Bool) (d kb q0 : Nat) (qs : List (List Fl)) :
    Nat → Nat → List (List Fl) → List (List Fl) → List AttnRow × Nat → List AttnRow × Nat
  | 0, _, _, _, acc => acc
  | n + 1, k0, ks, vs, acc =>
    if ks.isEmpty ∨ (causal ∧ q0 + qs.length ≤ k0) then acc
    else
      let (sc, f1) := attnScores causal q0 k0 qs (ks.take kb)
      let (st, f2) := attnBlock c (transpose d (vs.take kb)) sc acc.1
      attnGo c causal d kb q0 qs n (k0 + kb) (ks.drop kb) (vs.drop kb) (st, acc.2 ||| f1 ||| f2)

/-- A finished row: o · recip(run_sum), zeros where nothing was active (R95, R176). -/
def AttnRow.norm (x : AttnRow) : List Word :=
  if x.l = 0 then x.o.map fun _ => 0 else x.o.map fun v => fmul v (frecip x.l)
/-- run_max + log₂(run_sum), −∞ where nothing was active (R117). -/
def AttnRow.lse (x : AttnRow) : Word := if x.l = 0 then fNegInf else fadd x.m (flog2 x.l)
def AttnRow.empty (x : AttnRow) : Bool := x.l == 0

/-- Columns of head h in a row of heads of dimension d. -/
def headOf (d h : Nat) (row : List Fl) : List Fl := (row.drop (h * d)).take d

/-- Attention of one head over S positions with query blocks of `mt` and key blocks of `kb`
positions (R94, R117): rows in position order, and what each task, a query block, sets in NSTAT (R95). -/
def attnHead (c : Word) (causal : Bool) (d mt kb : Nat) (qs ks vs : List (List Fl)) :
    List AttnRow × List Nat :=
  let blocks := (List.range (cdiv qs.length mt)).map fun b =>
    let qb := (qs.drop (b * mt)).take mt
    attnGo c causal d kb (b * mt) qb (ks.length + 1) 0 ks vs (qb.map fun _ => .init d, 0)
  (blocks.flatMap (·.1), blocks.map fun x => x.2 ||| if x.1.any AttnRow.empty then nsEMPTY else 0)

/-- Rows of heads side by side. -/
def joinHeads (s : Nat) (heads : List (List (List Word))) : List (List Word) :=
  (List.range s).map fun r => heads.flatMap fun h => h.getD r []

/-- Attention of H heads: output rows, lse rows, and the flags of each task in order. -/
def attention (log2d H HKV mt kb : Nat) (causal : Bool) (q k v : List (List Fl)) :
    List (List Word) × List (List Word) × List Nat :=
  let d := 2 ^ log2d
  let hs := (List.range H).map fun h =>
    let g := h / (H / HKV)
    attnHead (attnC log2d) causal d mt kb (q.map (headOf d h)) (k.map (headOf d g)) (v.map (headOf d g))
  (joinHeads q.length (hs.map fun h => h.1.map AttnRow.norm),
   joinHeads q.length (hs.map fun h => h.1.map fun x => [x.lse]),
   hs.flatMap (·.2))

/-! ## The backward pass (R118) -/

/-- BF16 rounding of an f32 value as an exact value. -/
def asBf16 (w : Word) : Fl := bf16.dec (bf16.enc false (fl w)).1

/-- A block of the recomputed pass: pb and ds of each (query, key) pair. -/
structure BwdBlk where
  /-- rows: queries; entries: pb and ds of each key. -/
  pb : List (List Fl)
  ds : List (List Fl)
  flags : Nat

/-- Recomputes s, p, pb, dp and ds of a query block and a key block; ds is formed at inactive pairs too, with pb = +0. -/
def bwdBlock (log2d : Nat) (causal : Bool) (q0 k0 : Nat) (qs ks vs dos : List (List Fl))
    (lse delta : List Word) : BwdBlk :=
  let (sc, f1) := attnScores causal q0 k0 qs ks
  let c := attnC log2d
  let rsd := attnRsd log2d
  let cells := (List.range qs.length).map fun r => (List.range ks.length).map fun j =>
    let l := lse.getD r 0
    let p := match (sc.getD r []).getD j none with
      | some a => if l = fNegInf then 0 else fexp2 (fsub (fmul c a) l)
      | none => 0
    let pb := asBf16 p
    let dp := dot 16 (dos.getD r []) (vs.getD j [])
    (pb, asBf16 (fmul (fmul (f32 pb) (fsub dp.v (delta.getD r 0))) rsd), dp.flags)
  { pb := cells.map fun r => r.map (·.1), ds := cells.map fun r => r.map (·.2.1),
    flags := cells.foldl (fun a r => r.foldl (fun a x => a ||| x.2.2) a) f1 }

/-- acc + array(aᵀ, b): the rows of `a` and `b` run along K; L = 16 (R118). -/
def addProductT (da db : Nat) (a b : List (List Fl)) (acc : List (List RSum)) : List (List RSum) :=
  product 16 (transpose da a) (transpose db b) fun i j => (acc.getD i []).getD j .zero

def zeroSums (r c : Nat) : List (List RSum) := List.replicate r (List.replicate c .zero)

/-- One head of the backward pass: dQ, dK, dV rows, and the flags of each task of sweep 1 and of sweep 2, with query
blocks of 256 and key blocks of 512. dK and dV continue sums of earlier query heads of the same KV head (DEDUCED, log 14). -/
def attnBwdHead (log2d : Nat) (causal : Bool) (qs ks vs dos : List (List Fl)) (lse delta : List Word)
    (dk0 dv0 : List (List RSum)) :
    List (List Word) × List (List RSum) × List (List RSum) × List Nat × List Nat :=
  let d := 2 ^ log2d
  let S := qs.length
  let blkQ (b : Nat) (l : List (List Fl)) := (l.drop (b * 256)).take 256
  let blkK (b : Nat) (l : List (List Fl)) := (l.drop (b * 512)).take 512
  let part (qb kb : Nat) : BwdBlk :=
    bwdBlock log2d causal (qb * 256) (kb * 512) (blkQ qb qs) (blkK kb ks) (blkK kb vs) (blkQ qb dos)
      ((lse.drop (qb * 256)).take 256) ((delta.drop (qb * 256)).take 256)
  let nq := cdiv S 256
  let nk := cdiv S 512
  let used (qb kb : Nat) : Bool := !causal || decide (kb * 512 < min ((qb + 1) * 256) S)
  let sweep1 := (List.range nk).map fun kb =>
    let n := (blkK kb ks).length
    forN nq ((dk0.drop (kb * 512)).take 512, (dv0.drop (kb * 512)).take 512, 0) fun qb acc =>
      if used qb kb then
        let x := part qb kb
        (addProductT n d x.ds (blkQ qb qs) acc.1, addProductT n d x.pb (blkQ qb dos) acc.2.1,
          acc.2.2 ||| x.flags)
      else acc
  let sweep2 := (List.range nq).map fun qb =>
    let m := (blkQ qb qs).length
    forN nk (zeroSums m d, 0) fun kb acc =>
      if used qb kb then
        let x := part qb kb
        (product 16 x.ds (transpose d (blkK kb ks)) fun i j => (acc.1.getD i []).getD j .zero,
          acc.2 ||| x.flags)
      else acc
  let dk := sweep1.flatMap (·.1)
  let dv := sweep1.flatMap (·.2.1)
  let dq := sweep2.flatMap (·.1)
  (dq.map fun r => r.map (·.v), dk, dv, sweep1.map (fun x => x.2.2 ||| flagsOf x.1 ||| flagsOf x.2.1),
    sweep2.map fun x => x.2 ||| flagsOf x.1)

/-- The backward pass of H heads on HKV KV heads: dQ, dK, dV rows, and the flags of each task of sweep 1 and of
sweep 2 in order. -/
def attentionBwd (log2d H HKV : Nat) (causal : Bool) (q k v dout : List (List Fl))
    (lse delta : List (List Word)) :
    List (List Word) × List (List Word) × List (List Word) × List Nat × List Nat :=
  let d := 2 ^ log2d
  let S := q.length
  let grp := H / HKV
  let col (h : Nat) (l : List (List Word)) : List Word := l.map fun r => r.getD h 0
  let gs := (List.range HKV).map fun g =>
    forN grp (([] : List (List (List Word))), zeroSums S d, zeroSums S d, List.replicate (cdiv S 512) 0, []) fun i acc =>
      let h := g * grp + i
      let r := attnBwdHead log2d causal (q.map (headOf d h)) (k.map (headOf d g)) (v.map (headOf d g))
        (dout.map (headOf d h)) (col h lse) (col h delta) acc.2.1 acc.2.2.1
      (acc.1 ++ [r.1], r.2.1, r.2.2.1, List.zipWith (· ||| ·) acc.2.2.2.1 r.2.2.2.1, acc.2.2.2.2 ++ r.2.2.2.2)
  (joinHeads S (gs.flatMap (·.1)),
   joinHeads S (gs.map fun g => g.2.1.map fun r => r.map (·.v)),
   joinHeads S (gs.map fun g => g.2.2.1.map fun r => r.map (·.v)),
   gs.flatMap (·.2.2.2.1), gs.flatMap (·.2.2.2.2))

end Sys2Proof.Machine
end

