-- ==== Sys2Proof/Machine/Engines.lean ====
section
/-! DEFINITION. The commands of the two array engines other than kernels and logits: MG_GEMM,
MG_ATTN_FWD, MG_ATTN_BWD, MG_VEC (chapter 6), CG_GEMM, CG_ATTN, CG_VEC (chapter 5). -/
namespace Sys2Proof.Machine

/-! ## Form (Table 15.9, R86, R87, R113, R114) -/

/-- A condition on a reference beyond `TRef.check`: all lie in bytes 20 to 23. -/
def withOut (o : Nat) (bad : Bool) (r : Option Nat) : Option Nat :=
  match r with
  | some x => if bad ∧ o + 20 < x then some (o + 20) else some x
  | none => if bad then some (o + 20) else none

/-- The first offending offset among checks in byte order. -/
def firstOf : List (Option Nat) → Option Nat
  | [] => none
  | some x :: _ => some x
  | none :: r => firstOf r
/-- A single condition at an offset. -/
def need (off : Nat) (ok : Bool) : Option Nat := if ok then none else some off

def fp8 (f : Nat) : Bool := f == 3 || f == 4
/-- Output formats of array commands; a tensor-scaled one names its scale mode. -/
def outFmt (f : Nat) : Bool := f == 0 || f == 2 || fp8 f
/-- An FP8 tensor is tensor-scaled. -/
def TRef.scaledOk (t : TRef) : Bool := !fp8 t.fmt || t.smode == 1 || t.smode == 2

/-- Chunk length of Mould operands of a format (Table 4.1). -/
def chunkLen (f : Nat) : Nat := if f = 2 then 16 else 32

/-- MG_GEMM. -/
def State.mgGemmForm (s : State) (m : List Byte) : Option Nat :=
  let gf := fld m 51 1
  let K1 := fld m 52 4
  let M := fld m 56 4
  let N := fld m 60 4
  let K := fld m 64 4
  let a := tref m 80
  let b := tref m 112
  let y := tref m 144
  let c := tref m 176
  let am := bit gf 2
  firstOf [need 48 (s.gridForm false m), need 51 (decide (gf < 8)),
    need 52 (decide (K1 % chunkLen a.fmt = 0)), need 56 (decide (1 ≤ M ∧ M ≤ 1048576)),
    need 60 (decide (1 ≤ N ∧ N ≤ 1048576)), need 64 (decide (K ≤ 2 ^ 24)), need 68 (zeros m 68 80),
    withOut 80 (!a.scaledOk) (if bit gf 0 then a.check 80 K M (fun f => f == 2 || fp8 f) false
      else a.check 80 M K (fun f => f == 2 || fp8 f) false),
    withOut 112 (!b.scaledOk) (if bit gf 1 then b.check 112 N K (fun f => if a.fmt = 2 then f == 2 else fp8 f) false
      else b.check 112 K N (fun f => if a.fmt = 2 then f == 2 else fp8 f) false),
    withOut 144 (decide (2 < y.cls) || !y.scaledOk || (am && decide (y.fmt ≠ 0)))
      (y.check 144 M N outFmt true),
    if am then c.check 176 M N (· == 0) false else need 176 (zeros m 176 208)]

/-- Head counts, positions and head dimension of the attention commands. No head, no key head, more key heads than heads
and a count that does not divide H are refused (DESIGN CHOICE, log 56). -/
def attnDims (H HKV S maxS causal log2d : Nat) (oH oK oS oC oD : Nat) : List (Option Nat) :=
  [need oH (decide (1 ≤ H)), need oK (decide (1 ≤ HKV ∧ HKV ≤ H) && decide (H % HKV = 0)),
   need oS (decide (S ≤ maxS)), need oC (decide (causal ≤ 1)), need oD (decide (6 ≤ log2d ∧ log2d ≤ 8))]

/-- MG_ATTN_FWD. -/
def State.mgFwdForm (s : State) (m : List Byte) : Option Nat :=
  let H := fld m 52 4
  let G := fld m 56 4
  let S := fld m 60 4
  let d := 2 ^ fld m 65 1
  let o := tref m 176
  firstOf ([need 48 (s.gridForm false m), need 51 (fld m 51 1 == 0)] ++
    attnDims H G S 131072 (fld m 64 1) (fld m 65 1) 52 56 60 64 65 ++
    [need 66 (zeros m 66 80), (tref m 80).check 80 S (H * d) fp8 false,
     (tref m 112).check 112 S (G * d) fp8 false, (tref m 144).check 144 S (G * d) fp8 false,
     withOut 176 (decide (2 < o.cls) || !o.scaledOk) (o.check 176 S (H * d) outFmt true),
     withOut 208 (decide ((tref m 208).cls ≠ 1)) ((tref m 208).check 208 S H (· == 0) true)])

/-- MG_ATTN_BWD. -/
def State.mgBwdForm (s : State) (m : List Byte) : Option Nat :=
  let H := fld m 52 4
  let G := fld m 56 4
  let S := fld m 60 4
  let d := 2 ^ fld m 65 1
  let out (o c : Nat) : Option Nat :=
    withOut o (decide (2 < (tref m o).cls)) ((tref m o).check o S c (· == 2) true)
  firstOf ([need 48 (s.gridForm false m), need 51 (fld m 51 1 == 0)] ++
    attnDims H G S 131072 (fld m 64 1) (fld m 65 1) 52 56 60 64 65 ++
    [need 66 (zeros m 66 80), (tref m 80).check 80 S (H * d) fp8 false,
     (tref m 112).check 112 S (G * d) fp8 false, (tref m 144).check 144 S (G * d) fp8 false,
     (tref m 176).check 176 S (H * d) outFmt false, (tref m 208).check 208 S (H * d) (· == 2) false,
     (tref m 240).check 240 S H (· == 0) false, out 272 (H * d), out 304 (G * d), out 336 (G * d),
     withOut 368 (decide (2 < (tref m 368).cls)) ((tref m 368).check 368 S H (· == 0) true)])

/-- The operation of a VEC command. -/
def vecOp (m : List Byte) : TOp :=
  let f := fld m 68 4
  { top := fld m 49 1, rows := fld m 52 2, cols := fld m 54 2, ctl := fld m 60 4,
    sc := w32 (fld m 64 4), fA := bits f 4 0, fB := bits f 12 8, fY := bits f 20 16,
    fX := bits f 28 24, sb := fld m 80 4, aux := fld m 96 4 }
/-- Its streams lie at device addresses, in one memory. -/
def vecPlace (m : List Byte) : TPlace :=
  { a := (0, fld m 72 8), b := (0, fld m 80 8), y := (0, fld m 88 8), x := (0, fld m 96 8),
    pitch := fld m 56 4 }

/-- A core offset for sources that lie on cores: none in device memory (R169). -/
def vecCore (_ _ : Nat) : Nat := 1

/-- Ranges of a stream at device addresses: row by row where bytes lie between rows. -/
def Strm.ranges (w : Bool) (t : Strm) : List Range :=
  if t.rows = 0 ∨ t.len = 0 then []
  else if t.pitch ≤ t.len then [(t.off, (t.rows - 1) * t.pitch + t.len, w)]
  else (List.range t.rows).map fun r => (t.off + r * t.pitch, t.len, w)
/-- A stream at a device address reaches a reserved one (R426). -/
def Strm.reserved (t : Strm) : Bool :=
  t.rows ≠ 0 && t.len ≠ 0 && reservedAddr t.off ((t.rows - 1) * t.pitch + t.len)

/-- MG_VEC and CG_VEC: the conditions of R179 as MALFORMED, and the classes of R87 and R114. -/
def State.vecForm (s : State) (tile : Bool) (m : List Byte) : Option Nat :=
  let o := vecOp m
  let q := vecPlace m
  let f := fld m 68 4
  let all := o.ins q vecCore ++ o.outs q
  let fan := o.top == 0x30 || o.top == 0x31
  let stride := fan && o.sb % 8 ≠ 0
  let out := o.outs q
  let lim : Nat → Nat := fun _ => 2 ^ 48
  firstOf [need 48 (decide (fld m 48 1 <
      (if tile then s.maps.tiles.length else s.maps.clusters.length))), need 49 (topOk o.top),
    need 50 (zeros m 50 52), need 56 (o.pitchesOk q),
    need 60 (o.ctlOk && (if tile then o.cls == 1 else decide (o.cls ≤ 2))),
    need 68 (f &&& 0xE0E0E0E0 = 0 && o.fmtAOk && o.fmtBOk && o.fmtYOk && o.fmtXOk && o.pairOk),
    need 72 ((o.insA q ++ (if stride then [] else o.sources q vecCore)).all fun t => t.fits lim && !t.reserved),
    need 80 (!(fan && o.sb == 0) && !stride &&
      (o.insB q ++ o.insSB q ++ (if usesSB o.top o.md then [o.strSB q] else [])).all fun t => t.fits lim && !t.reserved),
    need 88 (q.y.2 % 8 = 0 && (o.top == 0x31 || (o.strY q).fits lim) && o.overlapsOk q vecCore &&
      !(out.headD (o.strY q)).reserved),
    need 96 ((!(o.auxMask || o.auxUsed) || (q.x.2 % 8 = 0 && (o.top == 0x31 || (o.strX q).fits lim))) &&
      !all.any Strm.reserved)]

/-- Weight formats of a tile and their columns per block (Table 5.2). -/
def tileW (f : Nat) : Bool := f == 0x0A || f == 9 || fp8 f || f == 5 || f == 6
def tileNw (f : Nat) : Nat := if f = 0x0A ∨ f = 9 then 256 else 128
def tileX (f : Nat) : Bool := fp8 f || f == 5 || f == 6

/-- ROLE of a Crucible grid: teacher. -/
def isTeacher (m : List Byte) : Bool := bit (fld m 51 1) 0

/-- The run-ahead limit lies in 1 to 4 for a TEACHER command (R96). -/
def aheadOk (m : List Byte) : Bool := !isTeacher m || decide (1 ≤ fld m 56 1 ∧ fld m 56 1 ≤ 4)

/-- CG_GEMM. Weights are stored with K innermost: N rows of K elements (R86). -/
def State.cgGemmForm (s : State) (m : List Byte) : Option Nat :=
  let gf := fld m 51 1
  let M := fld m 60 4
  let N := fld m 64 4
  let K := fld m 68 4
  let y := tref m 144
  let am := bit gf 2
  firstOf [need 48 (s.gridForm true m), need 51 (gf == 0 || gf == 1 || gf == 4 || gf == 5),
    need 56 (aheadOk m), need 57 (zeros m 57 60), need 60 (decide (1 ≤ M ∧ M ≤ 1048576)),
    need 64 (decide (1 ≤ N ∧ N ≤ 1048576)), need 68 (decide (K ≤ 2 ^ 24)), need 76 (zeros m 76 80),
    (tref m 80).check 80 M K tileX false, (tref m 112).check 112 N K tileW false,
    withOut 144 (decide (y.cls ≠ 1) || !y.scaledOk) (y.check 144 M N outFmt true),
    if am then (tref m 176).check 176 M N (· == 0) false else need 176 (zeros m 176 208)]

/-- CG_LOGIT: role TEACHER, N a multiple of 2,048. -/
def State.cgLogitForm (s : State) (m : List Byte) : Option Nat :=
  let M := fld m 60 4
  let N := fld m 64 4
  let K := fld m 68 4
  firstOf [need 48 (s.gridForm true m), need 51 (fld m 51 1 == 1), need 56 (aheadOk m),
    need 57 (zeros m 57 60), need 64 (decide (1 ≤ N ∧ N ≤ 1048576 ∧ N % 2048 = 0)),
    need 76 (zeros m 76 80), (tref m 80).check 80 M K tileX false,
    (tref m 112).check 112 N K tileW false]

/-- CG_ATTN. -/
def State.cgAttnForm (s : State) (m : List Byte) : Option Nat :=
  let H := fld m 60 4
  let G := fld m 64 4
  let S := fld m 68 4
  let d := 2 ^ fld m 58 1
  firstOf ([need 48 (s.gridForm true m), need 51 (decide (fld m 51 1 ≤ 1)), need 56 (aheadOk m),
    need 57 (decide (fld m 57 1 ≤ 1)), need 58 (decide (6 ≤ fld m 58 1 ∧ fld m 58 1 ≤ 8)),
    need 59 (zeros m 59 60)] ++
    attnDims H G S 2097152 0 6 60 64 68 57 58 ++
    [need 72 (zeros m 72 80), (tref m 80).check 80 S (H * d) fp8 false,
     (tref m 112).check 112 S (G * d) fp8 false, (tref m 144).check 144 S (G * d) fp8 false,
     withOut 176 (decide ((tref m 176).cls ≠ 1)) ((tref m 176).check 176 S (H * d) (· == 2) true)])

/-! ## Effects -/

/-- The task and block last started on a unit (TASK_POS, Tables 5.9, 6.10). -/
def State.setTaskPos (s : State) (u task blk : Nat) : State :=
  let (k, i) := unitPage u
  s.setPg k i (if isTile u then 0x48 else 0x50) (task % 2 ^ 16 + blk % 2 ^ 16 * 2 ^ 16)

/-- TASK_POS of a GEMM grid of gm × gn units with Mb × Nb tasks of Kb passes (R90, R115). -/
def State.gemmPos (s : State) (us : List Nat) (gm gn Mb Nb Kb : Nat) : State :=
  forN us.length s fun i s =>
    let n := cdiv (Mb - i / gn) gm * cdiv (Nb - i % gn) gn
    if n = 0 then s else s.setTaskPos (gridAt us i) (n - 1) (Kb - 1)

/-- TASK_POS of an attention grid: the last task of each unit and its last key block (R94, R117). -/
def State.attnPos (s : State) (us : List Nat) (H S mt kb : Nat) (causal : Bool) : State :=
  let qb := cdiv S mt
  forN us.length s fun i s =>
    let n := cdiv (H * qb - i) us.length
    if H * qb ≤ i then s
    else
      let b := (i + (n - 1) * us.length) % qb
      let last := if causal then min S (b * mt + mt) else S
      s.setTaskPos (gridAt us i) (n - 1) (cdiv last kb - 1)

/-- Blocks of `size` out of n that grid row or column `a` of g takes (R90, R115), as first and end. -/
def blocksOf (n size g a : Nat) : List (Nat × Nat) :=
  (List.range (cdiv n size)).filterMap fun i => if i % g = a then some (i * size, min n (i * size + size)) else none
/-- The members of blocks. -/
def blockRows (bs : List (Nat × Nat)) : List Nat := bs.flatMap fun b => (List.range (b.2 - b.1)).map (b.1 + ·)
/-- Ranges of the blocks of a stored matrix: some rows by some column blocks. -/
def TRef.blocks (t : TRef) (out : Bool) (rows : List Nat) (cols : List (Nat × Nat)) : List Range :=
  cols.flatMap fun c => t.block out rows c.1 c.2

/-- Ranges that unit `i` of a GEMM grid uses for its tasks of `mt` rows and `nw` columns: its rows of op(A), its columns
of op(B) (`ta`, `tb`: stored transposed), and its part of Y and of an ADD_MEM source (R90, R91, R115, R116). -/
def gemmRanges (mt nw gm gn : Nat) (a b y : TRef) (c : Option TRef) (ta tb : Bool) (K i : Nat) : List Range :=
  let rs := blocksOf y.rows mt gm (i / gn)
  let cs := blocksOf y.cols nw gn (i % gn)
  if rs.isEmpty ∨ cs.isEmpty then []
  else
    (if ta then a.blocks false (List.range K) rs else a.block false (blockRows rs) 0 K) ++
    (if tb then b.block false (blockRows cs) 0 K else b.blocks false (List.range K) cs) ++
    y.blocks true (blockRows rs) cs ++
    (match c with | some c => c.blocks false (blockRows rs) cs | none => [])

/-- The units of a grid with what each uses. -/
def gridUses (us : List Nat) (f : Nat → List Range) : List (Nat × List Range) :=
  (List.range us.length).map fun i => (gridAt us i, f i)

/-- Start sum of an output element: +0, or the ADD_MEM source with its K_BASE (R71, R72). -/
def startSum (am : Bool) (kb : Nat) (c : List (List Word)) (i j : Nat) : RSum :=
  if am then ⟨(c.getD i []).getD j 0, kb, 0⟩ else .zero

/-- What the units of an MG_GEMM use. -/
def mgGemmUses (k : Cmd) : List (Nat × List Range) :=
  let m := k.msg
  let gf := fld m 51 1
  gridUses k.units (gemmRanges 256 512 (fld m 49 1) (fld m 50 1) (tref m 80) (tref m 112) (tref m 144)
    (if bit gf 2 then some (tref m 176) else none) (bit gf 0) (bit gf 1) (fld m 64 4))

/-- MG_GEMM (R114, R115). -/
def mgGemmFx (p : Nat) (k : Cmd) (s : State) : State × Compl :=
  let m := k.msg
  let us := k.units
  let gf := fld m 51 1
  let gm := fld m 49 1
  let gn := fld m 50 1
  let M := fld m 56 4
  let N := fld m 60 4
  let K := fld m 64 4
  let a := tref m 80
  let b := tref m 112
  let y := tref m 144
  let c := tref m 176
  let am := bit gf 2
  match s.unitAccess p false (mgGemmUses k) with
  | some t => (t, .ok)
  | none =>
    let ar := s.rdTensor p a
    let br := s.rdTensor p b
    let as := if bit gf 0 then transpose M ar else ar
    let bs := if bit gf 1 then br else transpose N br
    let sums := product (chunkLen a.fmt) as bs (startSum am (fld m 52 4) (if am then s.rdWords p c else []))
    let f := gemmFlags 256 512 gm gn sums
    let dieOf (i j : Nat) : Nat := dieOfUnit (gridAt us (i / 256 % gm * gn + j / 512 % gn))
    let s := s.wrArray p k.e4nan true dieOf y (sums.map fun r => r.map (·.v))
    ((s.setNstat us f).gemmPos us gm gn (cdiv M 256) (cdiv N 512) (cdiv K (chunkLen a.fmt)), .ns (orFlags us f))

/-- Die of an attention output row of a head: task q on unit q mod G (R94, R117). -/
def attnDie (us : List Nat) (S mt d : Nat) (i j : Nat) : Nat :=
  dieOfUnit (gridAt us ((j / d * cdiv S mt + i / mt) % us.length))

/-- What the tasks on unit `i` of G use, of tasks 0 to n − 1 (R94, R117, R118). -/
def taskUses (G n i : Nat) (f : Nat → List Range) : List Range :=
  (List.range n).flatMap fun q => if q % G = i then f q else []

/-- Rows 0 to S − 1 of block `b` of `mt`. -/
def blockAt (S mt b : Nat) : List Nat := (List.range S).filter fun r => r / mt == b

/-- What a forward task uses: head q / ⌈S/mt⌉ and its query block; K and V of the key blocks it visits; O, and the
row log-sum-exp where written. -/
def fwdUses (S mt kb H HKV d : Nat) (causal : Bool) (qt kt v o : TRef) (l : Option TRef) (t : Nat) : List Range :=
  let h := t / cdiv S mt
  let b := t % cdiv S mt
  let g := h / (H / HKV)
  let n := if causal then min S (cdiv (min S (b * mt + mt)) kb * kb) else S
  let rows := blockAt S mt b
  qt.block false rows (h * d) (h * d + d) ++ kt.block false (List.range n) (g * d) (g * d + d) ++
    v.block false (List.range n) (g * d) (g * d + d) ++ o.block true rows (h * d) (h * d + d) ++
    (match l with | some l => l.block true rows h (h + 1) | none => [])

/-- What the units of an MG_ATTN_FWD use. -/
def mgFwdUses (k : Cmd) : List (Nat × List Range) :=
  let m := k.msg
  let S := fld m 60 4
  let H := fld m 52 4
  gridUses k.units fun i => taskUses k.units.length (H * cdiv S 256) i
    (fwdUses S 256 512 H (fld m 56 4) (2 ^ fld m 65 1) (fld m 64 1 == 1) (tref m 80) (tref m 112) (tref m 144)
      (tref m 176) (some (tref m 208)))

/-- MG_ATTN_FWD (R117). -/
def mgFwdFx (p : Nat) (k : Cmd) (s : State) : State × Compl :=
  let m := k.msg
  let us := k.units
  let S := fld m 60 4
  let q := tref m 80
  let kt := tref m 112
  let v := tref m 144
  let o := tref m 176
  let l := tref m 208
  let H := fld m 52 4
  let d := 2 ^ fld m 65 1
  let causal := fld m 64 1 == 1
  match s.unitAccess p false (mgFwdUses k) with
  | some t => (t, .ok)
  | none =>
    let (or', lr, fl) := attention (fld m 65 1) H (fld m 56 4) 256 512 causal
      (s.rdTensor p q) (s.rdTensor p kt) (s.rdTensor p v)
    let f := taskFlags us.length fl
    let s := s.wrArray p k.e4nan false (attnDie us S 256 d) o or'
    let s := s.wrArray p k.e4nan false (attnDie us S 256 1) l lr
    ((s.setNstat us f).attnPos us H S 256 512 causal, .ns (orFlags us f))

/-- What a task of the backward pass uses beside its own outputs: query rows and key rows of a query head and its KV
head, with lse and the scratch tensor. -/
def bwdReads (d h g : Nat) (rq rk : List Nat) (qt kt v do' l sc : TRef) : List Range :=
  qt.block false rq (h * d) (h * d + d) ++ kt.block false rk (g * d) (g * d + d) ++
    v.block false rk (g * d) (g * d + d) ++ do'.block false rq (h * d) (h * d + d) ++
    l.block false rq h (h + 1) ++ sc.block false rq h (h + 1)

/-- What the units of an MG_ATTN_BWD use: phase 0 and sweep 2 by head and query block, sweep 1 by KV head and key
block. -/
def mgBwdUses (k : Cmd) : List (Nat × List Range) :=
  let m := k.msg
  let G := k.units.length
  let S := fld m 60 4
  let H := fld m 52 4
  let HKV := fld m 56 4
  let d := 2 ^ fld m 65 1
  let sc := tref m 368
  let causal := fld m 64 1 == 1
  let nq := cdiv S 256
  let nk := cdiv S 512
  let reads (h g : Nat) (rq rk : List Nat) : List Range :=
    bwdReads d h g rq rk (tref m 80) (tref m 112) (tref m 144) (tref m 208) (tref m 240) sc
  gridUses k.units fun i =>
    taskUses G (H * nq) i (fun t =>
      let rows := blockAt S 256 (t % nq)
      let h := t / nq
      (tref m 176).block false rows (h * d) (h * d + d) ++ sc.block true rows h (h + 1) ++
        reads h (h / (H / HKV)) rows
          (List.range (if causal then min S (cdiv (min S (t % nq * 256 + 256)) 512 * 512) else S)) ++
        (tref m 272).block true rows (h * d) (h * d + d)) ++
    taskUses G (HKV * nk) i (fun t =>
      let rk := blockAt S 512 (t % nk)
      let g := t / nk
      (List.range (H / HKV)).flatMap (fun j => reads (g * (H / HKV) + j) g
        ((List.range S).filter fun r => !causal || decide (t % nk * 512 / 256 ≤ r / 256)) rk) ++
      (tref m 304).block true rk (g * d) (g * d + d) ++ (tref m 336).block true rk (g * d) (g * d + d))

/-- MG_ATTN_BWD (R118). -/
def mgBwdFx (p : Nat) (k : Cmd) (s : State) : State × Compl :=
  let m := k.msg
  let us := k.units
  let S := fld m 60 4
  let H := fld m 52 4
  let d := 2 ^ fld m 65 1
  let q := tref m 80
  let kt := tref m 112
  let v := tref m 144
  let o := tref m 176
  let do' := tref m 208
  let l := tref m 240
  let dq := tref m 272
  let dk := tref m 304
  let dv := tref m 336
  let sc := tref m 368
  let HKV := fld m 56 4
  let causal := fld m 64 1 == 1
  match s.unitAccess p false (mgBwdUses k) with
  | some t => (t, .ok)
  | none =>
    let ov := s.rdTensor p o
    let dov := s.rdTensor p do'
    -- phase 0: the row sums of dO · O
    let delta := (List.range S).map fun r => (List.range H).map fun h =>
      rsum ((List.range d).map fun c =>
        fmul (f32 ((dov.getD r []).getD (h * d + c) Fl.zero))
          (f32 ((ov.getD r []).getD (h * d + c) Fl.zero)))
    let (dqr, dkr, dvr, f1, f2) := attentionBwd (fld m 65 1) H HKV causal
      (s.rdTensor p q) (s.rdTensor p kt) (s.rdTensor p v) dov (s.rdWords p l) delta
    let f (i : Nat) : Nat := taskFlags us.length f1 i ||| taskFlags us.length f2 i
    let s := s.wrArray p k.e4nan false (attnDie us S 256 1) sc delta
    let s := s.wrArray p k.e4nan true (attnDie us S 256 d) dq dqr
    let s := s.wrArray p k.e4nan true (attnDie us S 512 d) dk dkr
    let s := s.wrArray p k.e4nan true (attnDie us S 512 d) dv dvr
    (s.setNstat us f, .ns (orFlags us f))

/-- Reads and writes of an operation in a memory given by functions on offsets. -/
def TOp.reader (o : TOp) (q : TPlace) (core : Nat → Nat → Nat) (e4nan : Bool)
    (rd : Nat → Nat → Nat → List Byte) : TRd :=
  let A := o.strA q
  let B := o.strB q
  let Y := o.strY q
  let X := o.strX q
  { a := fun i n => rd q.a.1 (q.a.2 + i) n, b := fun i n => rd q.b.1 (q.b.2 + i) n,
    x := fun i n => rd q.x.1 (q.x.2 + i) n, sb := fun i n => rd q.b.1 (q.b.2 + i) n,
    src := fun j i n =>
      rd (if o.sb = 0 then core q.a.1 j else q.a.1)
        (q.a.2 + (if o.sb = 0 then 0 else j * o.sb) + i) n,
    y := fun i n => rd q.y.1 (q.y.2 + i) n,
    pa := if o.top = 0x30 then pitchOf q.pA (align8 (4 * o.cols)) else A.pitch,
    pb := B.pitch, py := Y.pitch, px := X.pitch, e4nan := e4nan }

/-- What the unit of an MG_VEC or CG_VEC uses. -/
def vecUses (k : Cmd) : List (Nat × List Range) :=
  let o := vecOp k.msg
  let q := vecPlace k.msg
  gridUses k.units fun _ => (o.ins q vecCore).flatMap (Strm.ranges false) ++ (o.outs q).flatMap (Strm.ranges true)

/-- One Tundish operation on tensors in device memory (R179). -/
def vecFx (tile : Bool) (p : Nat) (k : Cmd) (s : State) : State × Compl :=
  let m := k.msg
  let us := k.units
  let o := vecOp m
  let q := vecPlace m
  match s.unitAccess p tile (vecUses k) with
  | some t => (t, .ok)
  | none =>
    let r := tundish o (o.reader q vecCore k.e4nan fun _ a n => s.rd p a n)
    let put (base : Nat) (s : State) (ws : List (Nat × List Byte)) : State :=
      ws.foldl (fun s w => s.wr p (base + w.1) w.2) s
    let s := put q.b.2 (put q.x.2 (put q.y.2 s r.y) r.x) r.sb
    let s := s.fhAdd (dieOfUnit (gridAt us 0)) p o.cls o.fY r.tally
    (s.setNstat us fun _ => r.nstat, .ns r.nstat)

/-- What the units of a CG_GEMM use. -/
def cgGemmUses (k : Cmd) : List (Nat × List Range) :=
  let m := k.msg
  let w := tref m 112
  gridUses k.units (gemmRanges 512 (tileNw w.fmt) (fld m 49 1) (fld m 50 1) (tref m 80) w (tref m 144)
    (if bit (fld m 51 1) 2 then some (tref m 176) else none) false true (fld m 68 4))

/-- CG_GEMM (R90, R92). A CZ4 weight that decodes to NaN is a product operand: it is not counted NF where it is read
(DESIGN CHOICE, log 51). -/
def cgGemmFx (p : Nat) (k : Cmd) (s : State) : State × Compl :=
  let m := k.msg
  let us := k.units
  let gm := fld m 49 1
  let gn := fld m 50 1
  let M := fld m 60 4
  let N := fld m 64 4
  let K := fld m 68 4
  let x := tref m 80
  let w := tref m 112
  let y := tref m 144
  let c := tref m 176
  let am := bit (fld m 51 1) 2
  let nw := tileNw w.fmt
  match s.unitAccess p true (cgGemmUses k) with
  | some t => (t, .ok)
  | none =>
    let sums := product 32 (s.rdTensor p x) (s.rdTensor p w)
      (startSum am (fld m 72 4) (if am then s.rdWords p c else []))
    let f := gemmFlags 512 nw gm gn sums
    let dieOf (i j : Nat) : Nat := dieOfUnit (gridAt us (i / 512 % gm * gn + j / nw % gn))
    let s := s.wrArray p k.e4nan true dieOf y (sums.map fun r => r.map (·.v))
    ((s.setNstat us f).gemmPos us gm gn (cdiv M 512) (cdiv N nw) (cdiv K 256), .ns (orFlags us f))

/-- What the units of a CG_ATTN use. -/
def cgAttnUses (k : Cmd) : List (Nat × List Range) :=
  let m := k.msg
  let S := fld m 68 4
  let H := fld m 60 4
  gridUses k.units fun i => taskUses k.units.length (H * cdiv S 512) i
    (fwdUses S 512 256 H (fld m 64 4) (2 ^ fld m 58 1) (fld m 57 1 == 1) (tref m 80) (tref m 112) (tref m 144)
      (tref m 176) none)

/-- CG_ATTN (R94). -/
def cgAttnFx (p : Nat) (k : Cmd) (s : State) : State × Compl :=
  let m := k.msg
  let us := k.units
  let S := fld m 68 4
  let q := tref m 80
  let kt := tref m 112
  let v := tref m 144
  let o := tref m 176
  let H := fld m 60 4
  let d := 2 ^ fld m 58 1
  let causal := fld m 57 1 == 1
  match s.unitAccess p true (cgAttnUses k) with
  | some t => (t, .ok)
  | none =>
    let (or', _, fl) := attention (fld m 58 1) H (fld m 64 4) 512 256 causal
      (s.rdTensor p q) (s.rdTensor p kt) (s.rdTensor p v)
    let f := taskFlags us.length fl
    let s := s.wrArray p k.e4nan false (attnDie us S 512 d) o or'
    ((s.setNstat us f).attnPos us H S 512 256 causal, .ns (orFlags us f))

/-! ## Commands -/

/-- MG_GEMM computes Y = op(A) · op(B) on a grid of clusters (R114). -/
def execMgGemm (p c : Nat) (s : State) : Host.Outcome State Fault Refusal :=
  s.runCmd p c 0x200 (mgGemmFx p)
/-- MG_ATTN_FWD (R117). -/
def execMgAttnFwd (p c : Nat) (s : State) : Host.Outcome State Fault Refusal :=
  s.runCmd p c 0x201 (mgFwdFx p)
/-- MG_ATTN_BWD (R118). -/
def execMgAttnBwd (p c : Nat) (s : State) : Host.Outcome State Fault Refusal :=
  s.runCmd p c 0x202 (mgBwdFx p)
/-- MG_VEC (R179). -/
def execMgVec (p c : Nat) (s : State) : Host.Outcome State Fault Refusal :=
  s.runCmd p c 0x204 (vecFx false p)
/-- CG_GEMM (R88). -/
def execCgGemm (p c : Nat) (s : State) : Host.Outcome State Fault Refusal :=
  s.runCmd p c 0x280 (cgGemmFx p)
/-- CG_ATTN (R94). -/
def execCgAttn (p c : Nat) (s : State) : Host.Outcome State Fault Refusal :=
  s.runCmd p c 0x282 (cgAttnFx p)
/-- CG_VEC (R179). -/
def execCgVec (p c : Nat) (s : State) : Host.Outcome State Fault Refusal :=
  s.runCmd p c 0x284 (vecFx true p)

end Sys2Proof.Machine
end

