-- ==== Sys2Proof/Machine/Sequencer.lean ====
section
/-! DEFINITION. The sequencer: its memories and registers, exceptions (R150), the issue of one
instruction, and the scalar, branch, credit and system instructions (R127 to R137, R147 to R149). -/
namespace Sys2Proof.Machine

/-! ## Memories of a unit (Table 7.1) -/

/-- What an unlisted byte reads as: zero, or undefined contents of the epoch (R85, R107; DESIGN CHOICE, log 6). -/
def SeqUnit.fill (x : SeqUnit) (a : Nat) : Byte := if x.epoch = 0 then 0 else Config.sramByte x.epoch a
/-- Bytes of memory `m`: 0 to 31 a core's operand memory, 32 the pool, 0 the tile's. -/
def SeqUnit.ld (x : SeqUnit) (m off n : Nat) : List Byte :=
  (List.range n).map fun i => sget x.fill x.mem (m * 2 ^ 20 + off + i)
def SeqUnit.st (x : SeqUnit) (m off : Nat) (bs : List Byte) : SeqUnit :=
  { x with mem := forN bs.length x.mem fun i l => sput l (m * 2 ^ 20 + off + i) (bs.getD i 0) }
/-- End of a memory. -/
def memEnd (tile : Bool) (m : Nat) : Nat :=
  if tile then (if m = 0 then 0x100000 else 0)
  else if m < 32 then 0x28000 else if m = 32 then 0x100000 else 0
/-- Scalar memory (Table 7.1). -/
def scalarMem (tile : Bool) : Nat := if tile then 0 else 32

/-! ## Registers (R127) -/

def Seqr.S (q : Seqr) (i : Nat) : Word := if i = 0 then 0 else tget 0 q.s i
def Seqr.setS (q : Seqr) (i : Nat) (v : Word) : Seqr :=
  if i = 0 then q else { q with s := tput 0 q.s i v }
def Seqr.P (q : Seqr) (i : Nat) : Bool := i == 0 || q.p.getLsbD i
def Seqr.setP (q : Seqr) (i : Nat) (v : Bool) : Seqr :=
  if i = 0 then q else { q with p := BitVec.ofNat 8 (setBits q.p.toNat i i (b2n v)) }

/-! ## Exceptions (R150, Table 7.14) -/

def exILLEGAL : Nat := 1
def exARRFORM : Nat := 2
def exACCUNINIT : Nat := 3
def exOPERAND : Nat := 4
def exNOLINK : Nat := 5
def exBRANCH : Nat := 6
def exTRAP : Nat := 7
def exBUDGET : Nat := 8

/-- A standing exception is recorded in the unit's page once array, drain, Tundish and Runner work issued or started is
through, and the partition faults (R104, R126, R150). Its word address is PC: for BRANCH the PC outside the program, low
12 bits (DESIGN CHOICE, log 56). -/
def State.excRecord (s : State) (u : Nat) : State :=
  let x := s.unit u
  match x.exc with
  | some (code, detail, pc) =>
    if x.run = .excepted ∧ x.arrs = [] ∧ x.tnds = [] ∧ x.started = [] then
      let (k, i) := unitPage u
      let n := if isTile u then 3 else 5
      let s := s.setUnit u { x with exc := none }
      (s.evErr k i n n x.ctx.part (code + detail % 256 * 256) (pc % 4096)).faultFrom x.ctx.part k i n
    else s
  | none => s

/-- An exception: the sequencer issues nothing further (R150). -/
def State.seqExc (s : State) (u code detail : Nat) : State :=
  let x := s.unit u
  (s.setUnit u { x with run := .excepted, exc := some (code, detail, x.seq.pc.toNat) }).excRecord u

/-! ## Fields of an instruction word (Table 7.2) -/

def opOf (w : Nat) : Nat := bits w 31 26
def fA (w : Nat) : Nat := bits w 25 21
def fB (w : Nat) : Nat := bits w 20 16
def fC (w : Nat) : Nat := bits w 15 11
def fFunc (w : Nat) : Nat := bits w 10 0
def fImm (w : Nat) : Nat := bits w 15 0
/-- System format: func, rd, ra, imm10. -/
def yFunc (w : Nat) : Nat := bits w 25 20
def yRd (w : Nat) : Nat := bits w 19 15
def yRa (w : Nat) : Nat := bits w 14 10
def yImm (w : Nat) : Nat := bits w 9 0
/-- Group, signal and mask fields of ARR, DRN and RPUSH. -/
def aRs (w : Nat) : Nat := bits w 14 10
def aRm (w : Nat) : Nat := bits w 4 0
/-- TND fields. -/
def tTop (w : Nat) : Nat := bits w 25 18
def tRk (w : Nat) : Nat := bits w 17 16
def tRs (w : Nat) : Nat := bits w 10 6
def tRb (w : Nat) : Nat := bits w 5 1

/-- The row of the table that carries a word: its major opcode, 0x100 and up for the system functions,
0x200 and up for Tundish operations. Words of no row stand with TRAP, which raises what they raise
(DEDUCED, log 15). -/
def wordRow (w : Nat) : Nat :=
  let op := opOf w
  if op = 0x30 then (if yFunc w ≤ 5 then 0x100 + yFunc w else 0x102)
  else if op = 0x24 then (if topOk (tTop w) then 0x200 + tTop w else 0x102)
  else if (1 ≤ op ∧ op ≤ 5) ∨ (8 ≤ op ∧ op ≤ 0x0E) ∨ op = 0x10 ∨ op = 0x11 ∨ (0x14 ≤ op ∧ op ≤ 0x18) ∨
      op = 0x20 ∨ op = 0x21 ∨ op = 0x28 ∨ (0x2C ≤ op ∧ op ≤ 0x2F) then op
  else 0x102

/-- Scalar registers an instruction reads or writes (R133, R145). -/
def usesS (w : Nat) : List Nat :=
  let op := opOf w
  if op = 1 ∨ op = 2 ∨ op = 5 then [fA w, fB w, fC w]
  else if op = 3 then [fB w, fC w]
  else if 8 ≤ op ∧ op ≤ 0x0D ∨ op = 0x10 ∨ op = 0x11 then [fA w, fB w]
  else if op = 0x0E then [fB w]
  else if op = 0x16 then [fA w]
  else if op = 0x17 ∨ op = 0x18 then [fB w]
  else if op = 0x20 then (List.range 6).map (aRs w + ·) ++ [aRm w]
  else if op = 0x21 then (List.range 3).map (aRs w + ·) ++ [aRm w]
  else if op = 0x24 then (List.range 7).map (tRs w + ·) ++ [tRb w] ++ (if tRk w = 1 then [fC w] else [])
  else if op = 0x28 then (List.range 8).map (aRs w + ·)
  else if op = 0x30 ∧ yFunc w = 4 then [yRd w]
  else []
/-- Predicate registers it reads or writes. -/
def usesP (w : Nat) : List Nat :=
  let op := opOf w
  if op = 3 then [fA w % 8]
  else if op = 4 then [fA w % 8, fB w % 8, fC w % 8]
  else if op = 5 then [w % 8]
  else if op = 0x0E then [fA w % 8]
  else if op = 0x15 then [bits w 25 23]
  else if op = 0x24 ∧ tRk w = 2 then [fC w % 8]
  else if op = 0x2E then [bits w 18 16]
  else []

/-- A register of the instruction waits for a Tundish summary. -/
def SeqUnit.regsBusy (x : SeqUnit) (w : Nat) : Bool :=
  x.tnds.any fun t =>
    (t.rk == 1 && t.rd ≠ 0 && (usesS w).contains t.rd) ||
      (t.rk == 2 && t.rd % 8 ≠ 0 && (usesP w).contains (t.rd % 8))

/-! ## Issue -/

/-- What an instruction does when the sequencer comes to it. -/
inductive Issue where
  /-- It waits and is issued again. -/
  | wait
  | exc (code detail : Nat)
  | go (s : State)
  deriving DecidableEq, Repr

/-- CYCLE advanced, saturating (Table 7.12). -/
def Seqr.cycles (q : Seqr) (n : Nat) : Seqr := { q with cycle := min (q.cycle + n) 0xFFFFFFFF }

/-- Cycles of issue (Table 7.15); a taken brp or dbnz adds one. -/
def issueCycles (w : Nat) : Nat :=
  let op := opOf w
  if op = 0x14 ∨ op = 0x16 ∨ op = 0x17 ∨ op = 0x28 then 2 else 1

/-- The unit with PC and CYCLE past an instruction. -/
def SeqUnit.next (x : SeqUnit) (w : Nat) : SeqUnit :=
  { x with seq := { x.seq with pc := x.seq.pc + 1 }.cycles (issueCycles w) }

/-- PC outside the program, and CYCLE past a budget, in a BAR too: the lowest code (R128, R150, R151). -/
def State.afterIssue (s : State) (u : Nat) : State :=
  let x := s.unit u
  if x.run ≠ .running ∧ x.run ≠ .barrier then s
  else if x.run = .running ∧ x.imem.length ≤ x.seq.pc.toNat then s.seqExc u exBRANCH 0
  else if x.ctx.budget ≠ 0 ∧ x.ctx.budget < x.seq.cycle then s.seqExc u exBUDGET 0
  else s

/-- The sequencer issues the word at PC through `f`, which sees the unit already past it. -/
def State.issueWord (s : State) (u : Nat) (f : Nat → Nat → State → Issue) : State :=
  let x := s.unit u
  match x.imem[x.seq.pc.toNat]? with
  | some wd =>
    let w := wd.toNat
    if x.regsBusy w then s
    else
      match f u w (s.setUnit u (x.next w)) with
      | .wait => s
      | .exc c d => s.seqExc u c d
      | .go t => t.afterIssue u
  | none => s

/-- A sequencer may issue: it runs on a live die and no halt stops it at this boundary (R154). -/
def State.mayIssue (s : State) (u : Nat) : Bool :=
  let x := s.unit u
  x.run == .running && s.live (dieOfUnit u) && !x.haltReq && x.brk != some x.seq.pc.toNat

/-- The row's instruction, where the word at PC is one of it. -/
def State.issueRow (s : State) (u row : Nat) (f : Nat → Nat → State → Issue) :
    Host.Outcome State Fault Refusal :=
  let x := s.unit u
  if s.mayIssue u ∧ (x.imem[x.seq.pc.toNat]?).map (fun w => wordRow w.toNat) = some row then
    .next (s.issueWord u f)
  else .next s

/-- An instruction that changes only the sequencer's registers: `none` for ILLEGAL. -/
def onSeq (f : Nat → Seqr → Option Seqr) (u w : Nat) (s : State) : Issue :=
  let x := s.unit u
  match f w x.seq with
  | some q => .go (s.setUnit u { x with seq := q })
  | none => .exc exILLEGAL 0

/-! ## Scalar instructions (R134, R135, Table 7.4) -/

def sInt (w : Word) : Int := w.toInt

/-- ALU functions. -/
def aluFun (f : Nat) (a b : Word) : Option Word :=
  let sh := b.toNat % 32
  match f with
  | 0x0 => some (a + b) | 0x1 => some (a - b) | 0x2 => some (a &&& b) | 0x3 => some (a ||| b)
  | 0x4 => some (a ^^^ b) | 0x5 => some (a <<< sh) | 0x6 => some (a >>> sh) | 0x7 => some (a.sshiftRight sh)
  | 0x8 => some (a * b)
  | 0x9 => some (w32 (a.toNat * b.toNat / 2 ^ 32))
  | 0xA => some (w32 (wrap 64 (sInt a * sInt b) / 2 ^ 32))
  | 0xB => some (if sInt b < sInt a then b else a)
  | 0xC => some (if b.toNat < a.toNat then b else a)
  | 0xD => some (if sInt a < sInt b then b else a)
  | 0xE => some (if a.toNat < b.toNat then b else a)
  | 0xF => some (w32 (if a = 0 then 32 else 31 - a.toNat.log2))
  | _ => none

def aluFx (w : Nat) (q : Seqr) : Option Seqr :=
  if fFunc w = 0xF ∧ fC w ≠ 0 then none
  else (aluFun (fFunc w) (q.S (fB w)) (q.S (fC w))).map (q.setS (fA w))

/-- FPU functions; fneg and fabs flip and clear the sign of a NaN too (Table 7.4). -/
def fpuFun (f : Nat) (a b : Word) : Option Word :=
  match f with
  | 0x0 => some (fadd a b) | 0x1 => some (fsub a b) | 0x2 => some (fmul a b)
  | 0x3 => some (fminw a b) | 0x4 => some (fmaxw a b)
  | 0x5 => some (f32 (.ofInt (sInt a)))
  | 0x6 => some (w32 (wrap 32 ((fl a).toInt 32).1))
  | 0x7 => some (a ^^^ 0x80000000#32) | 0x8 => some (a &&& 0x7FFFFFFF#32)
  | _ => none

def fpuFx (w : Nat) (q : Seqr) : Option Seqr :=
  (fpuFun (fFunc w) (q.S (fB w)) (q.S (fC w))).map (q.setS (fA w))

/-- Comparisons. -/
def cmpOp (f : Nat) (a b : Word) : Option Bool :=
  match f with
  | 0x0 => some (a == b) | 0x1 => some (a != b)
  | 0x2 => some (decide (sInt a < sInt b)) | 0x3 => some (decide (a.toNat < b.toNat))
  | 0x4 => some (decide (sInt b ≤ sInt a)) | 0x5 => some (decide (b.toNat ≤ a.toNat))
  | 0x8 => some (feq a b) | 0x9 => some (flt a b) | 0xA => some (fle a b)
  | 0xB => some ((fl a).isNan || (fl b).isNan)
  | _ => none

def cmpFx (w : Nat) (q : Seqr) : Option Seqr :=
  if fA w ≥ 8 then none
  else (cmpOp (fFunc w) (q.S (fB w)) (q.S (fC w))).map (q.setP (fA w))

def plogFx (w : Nat) (q : Seqr) : Option Seqr :=
  let a := q.P (fB w % 8)
  let b := q.P (fC w % 8)
  let r : Option Bool := match fFunc w with
    | 0 => some (a && b) | 1 => some (a || b) | 2 => some (a != b) | 3 => some (a && !b) | 4 => some !a
    | _ => none
  r.map (q.setP (fA w % 8))

def selFx (w : Nat) (q : Seqr) : Option Seqr :=
  if fFunc w ≥ 8 then none
  else some (q.setS (fA w) (if q.P (w % 8) then q.S (fB w) else q.S (fC w)))

/-- imm16 sign-extended and zero-extended. -/
def immS (w : Nat) : Word := w32 (wrap 32 (sext 16 (fImm w)))
def immZ (w : Nat) : Word := w32 (fImm w)

def addiFx (w : Nat) (q : Seqr) : Option Seqr := some (q.setS (fA w) (q.S (fB w) + immS w))
def andiFx (w : Nat) (q : Seqr) : Option Seqr := some (q.setS (fA w) (q.S (fB w) &&& immZ w))
def oriFx (w : Nat) (q : Seqr) : Option Seqr := some (q.setS (fA w) (q.S (fB w) ||| immZ w))
def xoriFx (w : Nat) (q : Seqr) : Option Seqr := some (q.setS (fA w) (q.S (fB w) ^^^ immZ w))
def shiFx (w : Nat) (q : Seqr) : Option Seqr :=
  if bits w 15 7 ≠ 0 ∨ bits w 6 5 = 3 then none
  else (aluFun (5 + bits w 6 5) (q.S (fB w)) (w32 (bits w 4 0))).map (q.setS (fA w))
def luiFx (w : Nat) (q : Seqr) : Option Seqr :=
  if fB w ≠ 0 then none else some (q.setS (fA w) (w32 (fImm w * 2 ^ 16)))
def cmpiFx (w : Nat) (q : Seqr) : Option Seqr :=
  (cmpOp (bits w 25 24) (q.S (fB w)) (immS w)).map (q.setP (bits w 23 21))

/-- Byte address of LDW and STW; `none` outside the scalar memory or unaligned (R136). -/
def scalarAddr (w : Nat) (q : Seqr) : Option Nat :=
  let a := (q.S (fB w) + immS w).toNat
  if a % 4 = 0 ∧ a + 4 ≤ 0x100000 then some a else none

def ldwFx (u w : Nat) (s : State) : Issue :=
  let x := s.unit u
  match scalarAddr w x.seq with
  | some a =>
    .go (s.setUnit u { x with
      seq := x.seq.setS (fA w) (w32 (leNat (x.ld (scalarMem (isTile u)) a 4))) })
  | none => .exc exOPERAND (fB w)

def stwFx (u w : Nat) (s : State) : Issue :=
  let x := s.unit u
  match scalarAddr w x.seq with
  | some a => .go (s.setUnit u (x.st (scalarMem (isTile u)) a (leBytes 4 (x.seq.S (fA w)).toNat)))
  | none => .exc exOPERAND (fB w)

/-! ## Branches (R137); the registers' PC already points past the branch -/

/-- PC moved by a signed offset of n bits. -/
def Seqr.jump (q : Seqr) (n off : Nat) : Seqr := { q with pc := q.pc + w32 (wrap 32 (sext n off)) }

def brFx (w : Nat) (q : Seqr) : Option Seqr := some (q.jump 26 (bits w 25 0))
def brpFx (w : Nat) (q : Seqr) : Option Seqr :=
  if bits w 21 16 ≠ 0 then none
  else if q.P (bits w 25 23) ≠ bit w 22 then some ((q.jump 16 (fImm w)).cycles 1) else some q
def jalFx (w : Nat) (q : Seqr) : Option Seqr :=
  if fB w ≠ 0 then none else some ((q.setS (fA w) q.pc).jump 16 (fImm w))
def jrFx (w : Nat) (q : Seqr) : Option Seqr :=
  if fA w ≠ 0 ∨ fImm w ≠ 0 then none else some { q with pc := q.S (fB w) }
def dbnzFx (w : Nat) (q : Seqr) : Option Seqr :=
  if fA w ≠ 0 then none
  else
    let v := q.S (fB w) - 1
    let q := q.setS (fB w) v
    if v ≠ 0 then some ((q.jump 16 (fImm w)).cycles 1) else some q

/-! ## Credit tokens (R121, Table 7.11) -/

def SeqUnit.token (x : SeqUnit) (n : Nat) : Nat := (tget 0 x.tokens n).toNat
def SeqUnit.setToken (x : SeqUnit) (n v : Nat) : SeqUnit :=
  { x with tokens := tput 0 x.tokens n (BitVec.ofNat 16 v) }

/-- One signal at a token. Past 0xFFFF it stays, the event is set and the partition faults; a tile's
page has no such event (DEDUCED, log 15). -/
def State.signal (s : State) (u n : Nat) : State :=
  let x := s.unit u
  if x.token n < 0xFFFF then s.setUnit u (x.setToken n (x.token n + 1))
  else
    let (k, i) := unitPage u
    let s := if isTile u then s else s.evErr k i 7 7 x.ctx.part n 0
    s.faultFrom x.ctx.part k i 7

def waitFx (u w : Nat) (s : State) : Issue :=
  let x := s.unit u
  if bits w 25 4 ≠ 0 then .exc exILLEGAL 0
  else if x.token (w % 16) = 0 then .wait
  else .go (s.setUnit u (x.setToken (w % 16) (x.token (w % 16) - 1)))

def sigFx (u w : Nat) (s : State) : Issue :=
  if bits w 25 4 ≠ 0 then .exc exILLEGAL 0 else .go (s.signal u (w % 16))

def pollFx (u w : Nat) (s : State) : Issue :=
  let x := s.unit u
  let n := w % 16
  if bits w 25 19 ≠ 0 ∨ bits w 15 4 ≠ 0 then .exc exILLEGAL 0
  else if x.token n = 0 then
    .go (s.setUnit u { x with seq := x.seq.setP (bits w 18 16) false })
  else
    .go (s.setUnit u { x.setToken n (x.token n - 1) with seq := x.seq.setP (bits w 18 16) true })

/-! ## System instructions (R149, Table 7.13) -/

/-- Issued work has completed. -/
def SeqUnit.drained (x : SeqUnit) : Bool :=
  x.arrs.isEmpty && x.tnds.isEmpty && x.queue.isEmpty && x.started.isEmpty

def sysNopFx (_u w : Nat) (s : State) : Issue :=
  if bits w 19 0 ≠ 0 then .exc exILLEGAL 0 else .go s

/-- Words that no row carries, TND with an unknown operation among them, and TRAP. -/
def trapFx (_u w : Nat) (_s : State) : Issue :=
  if opOf w = 0x30 ∧ yFunc w = 2 ∧ yRd w = 0 ∧ yRa w = 0 then .exc exTRAP (yImm w % 256)
  else .exc exILLEGAL 0

/-- Debug access is open (R383). -/
def State.dbgOpen (s : State) : Bool := s.dbg.mode == 0 || s.dbg.mode == 2

def brkFx (u w : Nat) (s : State) : Issue :=
  if bits w 19 0 ≠ 0 then .exc exILLEGAL 0
  else if s.dbgOpen then .go (s.modUnit u fun x => { x with haltReq := true }) else .go s

/-- System registers (Table 7.12). -/
def sysReg (u : Nat) (x : SeqUnit) (n : Nat) : Option Word :=
  match n with
  | 0 => some x.seq.nstat
  | 1 => some (w32 x.seq.cycle)
  | 2 => some (w32 x.ctx.logical)
  | 3 => some (w32 (x.ctx.alpha + x.ctx.beta * 2 ^ 8 + x.ctx.gm * 2 ^ 16 + x.ctx.gn * 2 ^ 24))
  | 4 => some (w32 x.ctx.part)
  | 5 => some (w32 x.ctx.mb)
  | 6 => some (w32 (b2n (isTile u) + 2 * b2n x.ctx.teacher))
  | _ => none

def rdsrFx (u w : Nat) (s : State) : Issue :=
  let x := s.unit u
  if yRa w ≠ 0 then .exc exILLEGAL 0
  else
    match sysReg u x (yImm w) with
    | some v => .go (s.setUnit u { x with seq := x.seq.setS (yRd w) v })
    | none => .exc exILLEGAL 0

def waiteFx (u w : Nat) (s : State) : Issue :=
  let x := s.unit u
  if yRd w ≠ 0 ∨ yRa w ≠ 0 ∨ bits w 9 4 ≠ 0 then .exc exILLEGAL 0
  else if (bit w 0 ∧ x.arrs.any fun a => !a.isDrn && !a.read) ∨ (bit w 1 ∧ x.arrs ≠ []) ∨
      (bit w 2 ∧ x.tnds ≠ []) ∨ (bit w 3 ∧ ¬ (x.queue = [] ∧ x.started = [])) then .wait
  else .go s

/-! ## Ends of a kernel, and the barrier -/

/-- Units of the command that runs on a unit. -/
def State.gridOf (s : State) (u : Nat) : List Nat :=
  let x := s.unit u
  match s.cmd? x.ctx.part x.ctx.cid with
  | some k => k.units
  | none => []

/-- NSTAT of a command: the OR over its units (R82). -/
def State.nstatOf (s : State) (us : List Nat) : Word :=
  us.foldl (fun n u => n ||| (s.unit u).seq.nstat) 0

/-- HALT: the program ends; with the last one of its grid the command has its outcome. -/
def haltFx (u w : Nat) (s : State) : Issue :=
  let x := s.unit u
  if bits w 19 0 ≠ 0 then .exc exILLEGAL 0
  else if !x.drained then .wait
  else
    let s := s.setUnit u { x with run := .ended }
    let us := s.gridOf u
    if us.all fun v => (s.unit v).run == .ended then
      .go (s.modCmd x.ctx.part x.ctx.cid fun k =>
        { k with out := some { Compl.ok with nstat := s.nstatOf us } })
    else .go s

/-- BAR: counted once, then waiting; BARRIER_RELEASE ends the wait. -/
def barFx (u w : Nat) (s : State) : Issue :=
  let x := s.unit u
  if bits w 25 0 ≠ 0 then .exc exILLEGAL 0
  else
    .go (s.setUnit u { x with
      run := .barrier, seq := { x.seq with bars := x.seq.bars + 1, pc := x.seq.pc - 1 } })

/-- A store descriptor. -/
def isStore (d : List Word) : Bool := bit (nth 0 d 1).toNat 29

/-- The Runner of a unit has completed the stores pushed before. -/
def SeqUnit.stored (x : SeqUnit) : Bool := !x.queue.any isStore && !x.started.any fun d => isStore d.words

/-- BARRIER_RELEASE (R148): once every member of the grid has arrived, each goes on whose own Runner's stores have
completed. -/
def execBarrierRelease (u : Nat) (s : State) : Host.Outcome State Fault Refusal :=
  let us := s.gridOf u
  let n := (s.unit u).seq.bars
  if (s.unit u).run = .barrier ∧ us.all (fun v => decide (n ≤ (s.unit v).seq.bars)) then
    .next (us.foldl (fun s v =>
      let x := s.unit v
      if x.run = .barrier ∧ x.seq.bars = n ∧ x.stored then
        (s.setUnit v { x with run := .running, seq := { x.seq with pc := x.seq.pc + 1 } }).afterIssue v
      else s) s)
  else .next s

/-- The clock advances CYCLE while the sequencer waits, and BUDGET is raised when it passes the budget
(R151). -/
def execBudget (u cycles : Nat) (s : State) : Host.Outcome State Fault Refusal :=
  let x := s.unit u
  if (x.run = .running ∨ x.run = .barrier) ∧ s.live (dieOfUnit u) then
    let s := s.setUnit u { x with seq := x.seq.cycles cycles }
    let x := s.unit u
    if x.ctx.budget ≠ 0 ∧ x.ctx.budget < x.seq.cycle then .next (s.seqExc u exBUDGET 0) else .next s
  else .next s

/-- The unit runs the device's own program for a command: it has no program in instruction memory. -/
def State.ownProgram (s : State) (u : Nat) : Bool :=
  let x := s.unit u
  x.imem.isEmpty && match s.cmd? x.ctx.part x.ctx.cid with
    | some k => k.phase == .running && k.out.isNone && k.units.contains u
    | none => false

/-- A halt request or a breakpoint takes effect (R154). -/
def execSequencerHalt (u : Nat) (s : State) : Host.Outcome State Fault Refusal :=
  let x := s.unit u
  if (x.run = .running ∨ x.run = .barrier) ∧ x.arrs = [] ∧ x.tnds = [] ∧
      (x.haltReq ∨ x.brk = some x.seq.pc.toNat) then
    -- a waiting BAR is abandoned unexecuted
    let q := if x.run = .barrier then { x.seq with bars := x.seq.bars - 1 } else x.seq
    .next (s.setUnit u { x with
      run := .halted, haltReq := false,
      brk := if x.brk = some x.seq.pc.toNat then none else x.brk, seq := q })
  else if x.run = .idle ∧ x.haltReq ∧ s.ownProgram u then
    .next (s.setUnit u { x with run := .halted, haltReq := false })
  else .next s

/-! ## Commands -/

def execAlu (u : Nat) (s : State) : Host.Outcome State Fault Refusal := s.issueRow u 0x01 (onSeq aluFx)
def execFpu (u : Nat) (s : State) : Host.Outcome State Fault Refusal := s.issueRow u 0x02 (onSeq fpuFx)
def execCmp (u : Nat) (s : State) : Host.Outcome State Fault Refusal := s.issueRow u 0x03 (onSeq cmpFx)
def execPlog (u : Nat) (s : State) : Host.Outcome State Fault Refusal := s.issueRow u 0x04 (onSeq plogFx)
def execSel (u : Nat) (s : State) : Host.Outcome State Fault Refusal := s.issueRow u 0x05 (onSeq selFx)
def execAddi (u : Nat) (s : State) : Host.Outcome State Fault Refusal := s.issueRow u 0x08 (onSeq addiFx)
def execAndi (u : Nat) (s : State) : Host.Outcome State Fault Refusal := s.issueRow u 0x09 (onSeq andiFx)
def execOri (u : Nat) (s : State) : Host.Outcome State Fault Refusal := s.issueRow u 0x0A (onSeq oriFx)
def execXori (u : Nat) (s : State) : Host.Outcome State Fault Refusal := s.issueRow u 0x0B (onSeq xoriFx)
def execShi (u : Nat) (s : State) : Host.Outcome State Fault Refusal := s.issueRow u 0x0C (onSeq shiFx)
def execLui (u : Nat) (s : State) : Host.Outcome State Fault Refusal := s.issueRow u 0x0D (onSeq luiFx)
def execCmpi (u : Nat) (s : State) : Host.Outcome State Fault Refusal := s.issueRow u 0x0E (onSeq cmpiFx)
def execLdw (u : Nat) (s : State) : Host.Outcome State Fault Refusal := s.issueRow u 0x10 ldwFx
def execStw (u : Nat) (s : State) : Host.Outcome State Fault Refusal := s.issueRow u 0x11 stwFx
def execBr (u : Nat) (s : State) : Host.Outcome State Fault Refusal := s.issueRow u 0x14 (onSeq brFx)
def execBrp (u : Nat) (s : State) : Host.Outcome State Fault Refusal := s.issueRow u 0x15 (onSeq brpFx)
def execJal (u : Nat) (s : State) : Host.Outcome State Fault Refusal := s.issueRow u 0x16 (onSeq jalFx)
def execJr (u : Nat) (s : State) : Host.Outcome State Fault Refusal := s.issueRow u 0x17 (onSeq jrFx)
def execDbnz (u : Nat) (s : State) : Host.Outcome State Fault Refusal := s.issueRow u 0x18 (onSeq dbnzFx)
def execWait (u : Nat) (s : State) : Host.Outcome State Fault Refusal := s.issueRow u 0x2C waitFx
def execSig (u : Nat) (s : State) : Host.Outcome State Fault Refusal := s.issueRow u 0x2D sigFx
def execPoll (u : Nat) (s : State) : Host.Outcome State Fault Refusal := s.issueRow u 0x2E pollFx
def execBar (u : Nat) (s : State) : Host.Outcome State Fault Refusal := s.issueRow u 0x2F barFx
def execSysNop (u : Nat) (s : State) : Host.Outcome State Fault Refusal := s.issueRow u 0x100 sysNopFx
def execHalt (u : Nat) (s : State) : Host.Outcome State Fault Refusal := s.issueRow u 0x101 haltFx
def execTrap (u : Nat) (s : State) : Host.Outcome State Fault Refusal := s.issueRow u 0x102 trapFx
def execBrk (u : Nat) (s : State) : Host.Outcome State Fault Refusal := s.issueRow u 0x103 brkFx
def execRdsr (u : Nat) (s : State) : Host.Outcome State Fault Refusal := s.issueRow u 0x104 rdsrFx
def execWaite (u : Nat) (s : State) : Host.Outcome State Fault Refusal := s.issueRow u 0x105 waiteFx

end Sys2Proof.Machine
end

