-- ==== Sys2Proof/Machine/Arrays.lean ====
section
/-! DEFINITION. Array passes and drains under a program: issue checks, operand read, pass and drain
completion (R138 to R143). -/
namespace Sys2Proof.Machine

/-! ## Fields (Tables 7.6, 7.8, 7.9) -/

def aAcc (w : Nat) : Nat := bits w 25 24
def aDst (w : Nat) : Bool := bit w 23
def aWf (w : Nat) : Nat := bits w 22 20
def aAf (w : Nat) : Nat := bits w 19 17
def aForm (w : Nat) : Nat := bits w 16 15
def aSig (w : Nat) : Bool := bit w 9
def aTok (w : Nat) : Nat := bits w 8 5
def dOfmt (w : Nat) : Nat := bits w 25 24
def dClass (w : Nat) : Nat := bits w 23 21

/-- Formats of the weight and activation forms. -/
def wfFmt (wf : Nat) : Nat :=
  match wf with | 0 => 2 | 1 => 3 | 2 => 4 | 3 => 5 | 4 => 6 | 5 => 9 | _ => 0x0A
def afFmt (af : Nat) : Nat := match af with | 0 => 2 | 1 => 3 | 2 => 4 | 3 => 5 | _ => 6

/-- Pass depth and chunk length (Tables 4.1, 7.1). -/
def passDepth (tile : Bool) (wf : Nat) : Nat := if tile then 256 else if wf = 0 then 16 else 32
def passL (tile : Bool) (wf : Nat) : Nat := if tile then 32 else passDepth tile wf
/-- Width and rows of an output-row bank. -/
def bankCols (tile : Bool) : Nat := if tile then 256 else 16
def bankRows (tile : Bool) : Nat := if tile then 512 else 256
/-- Columns that a weight block fills (Table 5.2). -/
def passCols (tile : Bool) (wf : Nat) : Nat := if !tile then 16 else if wf < 5 then 128 else 256

/-- Bytes of the weight block and of the activation block with its scale plane. -/
def wBlock (tile : Bool) (wf : Nat) : Nat :=
  if tile then
    let f := wfFmt wf
    passCols tile wf * (rowBytes f 256 + if isMx f then scalePitch 256 else 0)
  else passDepth tile wf * 16 * (fmtBits (wfFmt wf) / 8)
def aBlock (tile : Bool) (wf af nr : Nat) : Nat :=
  let f := afFmt af
  let d := passDepth tile wf
  nr * (rowBytes f d + if isMx f then scalePitch d else 0)

/-- An operand group as numbers. -/
abbrev Grp := List Nat
def gNR (g : Grp) : Nat := bits (nth 0 g 2) 9 0
def gFirst (g : Grp) : Nat := bits (nth 0 g 2) 18 10
def gBank (g : Grp) : Nat := bits (nth 0 g 2) 19 19
def gKV (g : Grp) : Nat := bits (nth 0 g 2) 28 20
/-- Offset and space of an entry. -/
def gOff (v : Nat) : Nat := bits v 19 0
def gMem (tile : Bool) (core v : Nat) : Nat := if bit v 20 then 32 else if tile then 0 else core

/-- The engine implements the combination (R140). -/
def arrForm (tile : Bool) (w : Nat) : Bool :=
  let wf := aWf w
  let af := aAf w
  if tile then decide (1 ≤ wf ∧ wf ≤ 6 ∧ 1 ≤ af ∧ af ≤ 4) && aForm w == 0 && !aDst w
  else aForm w ≠ 3 &&
    ((wf == 0 && af == 0) || (decide (1 ≤ wf ∧ wf ≤ 2) && decide (1 ≤ af ∧ af ≤ 2)))

/-- A block at an offset and space fits its memory. -/
def fits (tile : Bool) (v n : Nat) : Bool :=
  if bit v 20 then !tile && decide (gOff v + n ≤ memEnd tile 32)
  else decide (gOff v + n ≤ memEnd tile 0)

/-- The first register of an ARR group that breaks a rule, as an index in the group; an entry that is not read names no
block, its reserved bits count all the same. -/
def arrBad (tile : Bool) (w : Nat) (g : Grp) : Option Nat :=
  let wf := aWf w
  let v (i : Nat) := nth 0 g i
  if bits (v 0) 31 20 ≠ 0 ∨ memEnd tile 0 < gOff (v 0) + wBlock tile wf then some 0
  else if bits (v 1) 31 20 ≠ 0 ∨ memEnd tile 0 < gOff (v 1) + aBlock tile wf (aAf w) (gNR g) then some 1
  else if gNR g = 0 ∨ bankRows tile < gFirst g + gNR g ∨ passDepth tile wf < gKV g ∨
      bits (v 2) 31 29 ≠ 0 then some 2
  else if bits (v 3) 31 21 ≠ 0 ∨ (¬ (wf = 0 ∧ aAf w = 0) ∧ !fits tile (v 3) 8) then some 3
  else if bits (v 4) 31 21 ≠ 0 ∨ (aAcc w = 3 ∧ !fits tile (v 4) (gNR g * bankCols tile * 4)) then some 4
  else none

/-- Cores of a mask; a tile has its one array. -/
def maskCores (tile : Bool) (m : Nat) : List Nat :=
  if tile then [0] else (List.range 32).filter fun j => bit m j

/-- Key of an output row of a core. -/
def rowKey (core bank row : Nat) : Nat := core * 2 ^ 16 + bank * 2 ^ 12 + row

/-- Rows named by a group. -/
def gRows (g : Grp) : List Nat := (List.range (gNR g)).map (gFirst g + ·)

/-- Lowest core of a mask with a named row that holds no valid sum. -/
def SeqUnit.unset (x : SeqUnit) (cores : List Nat) (bank : Nat) (rows : List Nat) : Option Nat :=
  cores.find? fun c => rows.any fun r => !x.seq.rowOk.contains (rowKey c bank r)

/-- Issued instructions that an array of the mask holds (R143). -/
def SeqUnit.arrFull (x : SeqUnit) (cores : List Nat) : Bool :=
  cores.any fun c => decide (4 ≤ count (fun a => bit a.mask c) x.arrs)

/-- Numbers of the group's registers and the mask as read at issue. -/
def Seqr.group (q : Seqr) (rs n : Nat) : List Word := (List.range n).map fun i => q.S (rs + i)

/-! ## ARR -/

/-- A sequencer names a tensor of a class in a format that R60 bars, or its Runner a descriptor that R122 refuses: the
command ends with MALFORMED and no field of its message named (R342), with the status its units have gathered.
Descriptors that have started and not completed are abandoned with the queue (R122; DESIGN CHOICE, log 56). -/
def State.kernelRefuse (s : State) (u : Nat) : State :=
  let x := s.unit u
  let us := s.gridOf u
  let n := s.nstatOf us
  let s := us.foldl (fun s v => s.modUnit v fun y => { y with run := .ended, queue := [], scaleMade := false }) s
  s.modCmd x.ctx.part x.ctx.cid fun k => { k with out := some { Compl.malformedAny with nstat := n } }

/-- ARR at issue: the checks of R140 in order, then the records and the array's queue. -/
def arrFx (u w : Nat) (s : State) : Issue :=
  let x := s.unit u
  let tile := isTile u
  let gw := x.seq.group (aRs w) 6
  let g : Grp := gw.map (·.toNat)
  let cores := maskCores tile (x.seq.S (aRm w)).toNat
  let mask := if tile then 1 else (x.seq.S (aRm w)).toNat
  let rows := gRows g
  if tile ∧ aRm w ≠ 0 then .exc exILLEGAL 0
  else if !arrForm tile w then .exc exARRFORM (bits w 22 15)
  else if aRs w > 26 then .exc exOPERAND (aRs w)
  else if let some i := arrBad tile w g then .exc exOPERAND (aRs w + i)
  else if mask = 0 then .go s
  else if aDst w ∧ bit mask 31 then .exc exNOLINK 31
  else if aAcc w = 1 ∧ (x.unset cores (gBank g) rows).isSome then
    .exc exACCUNINIT ((x.unset cores (gBank g) rows).getD 0)
  else if aAcc w = 2 ∧ bit mask 0 then .exc exACCUNINIT 0
  else if let some c := (if aAcc w = 2 then
      cores.find? (fun c => (tget [] x.seq.linkNr c).head? ≠ some (gNR g)) else none) then
    .exc exACCUNINIT c
  else if x.arrFull cores then .wait
  else
    let nr1 := if aAcc w = 2 then
        cores.foldl (fun t c => tput [] t c ((tget [] t c).drop 1)) x.seq.linkNr else x.seq.linkNr
    let nr2 := if aDst w then
        cores.foldl (fun t c => tput [] t (c + 1) (tget [] t (c + 1) ++ [gNR g])) nr1 else nr1
    let keys := cores.flatMap fun c => rows.map (rowKey c (gBank g))
    let ok := x.seq.rowOk.filter fun k => !keys.contains k
    let op : ArrOp := { isDrn := false, word := w32 w, grp := gw, mask := mask, read := false, cap := [] }
    .go (s.setUnit u { x with
      arrs := x.arrs ++ [op],
      seq := { x.seq with rowOk := if aDst w then ok else ok ++ keys, linkNr := nr2 } })

/-- Weight and activation bytes, scale record and source rows of one core (R138). -/
def SeqUnit.capture (x : SeqUnit) (tile : Bool) (a : ArrOp) (core : Nat) : List (List Byte) :=
  let w := a.word.toNat
  let g : Grp := a.grp.map (·.toNat)
  let v (i : Nat) := nth 0 g i
  let noScale := aWf w = 0 ∧ aAf w = 0
  [x.ld core (gOff (v 0)) (wBlock tile (aWf w)),
   x.ld core (gOff (v 1)) (aBlock tile (aWf w) (aAf w) (gNR g)),
   if noScale then [] else x.ld (gMem tile core (v 3)) (gOff (v 3)) 8,
   if aAcc w = 3 then x.ld (gMem tile core (v 4)) (gOff (v 4)) (gNR g * bankCols tile * 4) else []]

/-- Earlier issued instructions that share an array with number n. -/
def SeqUnit.before (x : SeqUnit) (n : Nat) : List ArrOp :=
  match x.arrs[n]? with
  | some a => (x.arrs.take n).filter fun b => b.mask &&& a.mask ≠ 0
  | none => []

/-- An earlier drain that still has to read rows that a group names (R143). -/
def drainsFirst (g : Grp) (b : ArrOp) : Bool :=
  let h : Grp := b.grp.map (·.toNat)
  b.isDrn && bits (nth 0 h 1) 19 19 == gBank g &&
    (gRows g).any fun r => decide (bits (nth 0 h 1) 18 10 ≤ r ∧ r < bits (nth 0 h 1) 18 10 + bits (nth 0 h 1) 9 0)

/-- The tile array reads its operands, or the cores of a mask do; the token is signalled (R138). -/
def execArrOperandsRead (u n : Nat) (s : State) : Host.Outcome State Fault Refusal :=
  let x := s.unit u
  match x.arrs[n]? with
  | some a =>
    if s.live (dieOfUnit u) ∧ (s.die (dieOfUnit u)).therm.st < 3 ∧ !a.isDrn ∧ !a.read ∧
        (x.before n).all (fun b => if b.isDrn then !drainsFirst (a.grp.map (·.toNat)) b else b.read) then
      let cap := (maskCores (isTile u) a.mask).map fun c => (c, x.capture (isTile u) a c)
      let s := s.setUnit u { x with arrs := x.arrs.set n { a with read := true, cap := cap } }
      .next (if aSig a.word.toNat then s.signal u (aTok a.word.toNat) else s)
    else .next s
  | none => .next s

/-- Values of a weight block by output column, in increasing K. -/
def weightCols (tile : Bool) (w : Nat) (bytes : List Byte) (sig : Int) : List (List Fl) :=
  let f := wfFmt (aWf w)
  let d := passDepth tile (aWf w)
  if tile then
    let nw := passCols tile (aWf w)
    let rb := rowBytes f 256
    (List.range nw).map fun c =>
      decRow f (slice bytes (c * rb) rb)
        (if isMx f then slice bytes (nw * rb + c * scalePitch 256) (scalePitch 256) else []) sig 256
  else
    let eb := fmtBits f / 8
    if aForm w = 1 then (List.range 16).map fun c => decRow f (slice bytes (c * d * eb) (d * eb)) [] sig d
    else transpose 16 ((List.range d).map fun k => decRow f (slice bytes (k * 16 * eb) (16 * eb)) [] sig 16)

/-- Output rows of one core after a pass, from the sums that enter it (R139). -/
def passRows (tile : Bool) (a : ArrOp) (cap : List (List Byte)) (start : Nat → AccRow) :
    List AccRow × Nat :=
  let w := a.word.toNat
  let g : Grp := a.grp.map (·.toNat)
  let rec8 := nth [] cap 2
  let wsig := if aWf w = 0 then 0 else sext 8 (fld rec8 0 1)
  let cols := (weightCols tile w (nth [] cap 0) wsig).map (·.take (gKV g))
  let af := afFmt (aAf w)
  let d := passDepth tile (aWf w)
  let rb := rowBytes af d
  let L := passL tile (aWf w)
  let rows := (List.range (gNR g)).map fun r =>
    let sc := if isMx af then slice (nth [] cap 1) (gNR g * rb + r * scalePitch d) (scalePitch d) else []
    let sig := if isScaled af then sext 8 (fld rec8 (1 + r / 128) 1) else 0
    let act := (decRow af (slice (nth [] cap 1) (r * rb) rb) sc sig d).take (gKV g)
    let st := start r
    let res := (List.range (bankCols tile)).map fun c =>
      let s0 : RSum := ⟨nth 0 st.sums c, st.krun, 0⟩
      match cols[c]? with
      | some col => dotChain L act col s0
      | none => s0
    ({ sums := res.map (·.v), krun := (res.headD .zero).k : AccRow }, flagsOf [res])
  (rows.map (·.1), rows.foldl (fun f r => f ||| r.2) 0)

/-- A pass ends: its sums stand in the output rows or leave on the links (R139, R141, R143). -/
def execArrPassComplete (u n : Nat) (s : State) : Host.Outcome State Fault Refusal :=
  let x := s.unit u
  let tile := isTile u
  match x.arrs[n]? with
  | some a =>
    let w := a.word.toNat
    let g : Grp := a.grp.map (·.toNat)
    let cores := maskCores tile a.mask
    -- earlier passes of the array are complete, earlier drains of these rows have read them
    let clear := (x.before n).all fun b => b.isDrn && !drainsFirst g b
    let linkIn := aAcc w ≠ 2 ∨ cores.all fun c => (tget [] x.links c).length == gNR g
    let linkOut := !aDst w || cores.all fun c =>
      (tget [] x.links (c + 1)).isEmpty || (aAcc w == 2 && cores.contains (c + 1))
    if s.live (dieOfUnit u) ∧ !a.isDrn ∧ a.read ∧ clear ∧ linkIn ∧ linkOut then
      let start (c r : Nat) : AccRow :=
        match aAcc w with
        | 1 => tget ⟨[], 0⟩ x.rows (rowKey c (gBank g) (gFirst g + r))
        | 2 => nth ⟨[], 0⟩ (tget [] x.links c) r
        | 3 =>
          let src := nth [] (((a.cap.find? fun p => p.1 == c).map (·.2)).getD []) 3
          { sums := (List.range (bankCols tile)).map fun i =>
              w32 (fld src ((r * bankCols tile + i) * 4) 4),
            krun := (nth 0 g 5) }
        | _ => { sums := List.replicate (bankCols tile) 0, krun := 0 }
      let res := cores.map fun c =>
        (c, passRows tile a (((a.cap.find? fun p => p.1 == c).map (·.2)).getD []) (start c))
      let links0 := if aAcc w = 2 then cores.foldl (fun t c => tput [] t c []) x.links else x.links
      let links := if aDst w then res.foldl (fun t p => tput [] t (p.1 + 1) p.2.1) links0 else links0
      let rowsT := res.foldl (fun t p =>
        forN (gNR g) t fun r t =>
          tput ⟨[], 0⟩ t (rowKey p.1 (gBank g) (gFirst g + r))
            (if aDst w then ⟨[], 0⟩ else nth ⟨[], 0⟩ p.2.1 r)) x.rows
      let fl := res.foldl (fun f p => f ||| p.2.2) 0
      .next ((s.setUnit u { x with
        arrs := x.arrs.eraseIdx n, rows := rowsT, links := links,
        seq := { x.seq with nstat := x.seq.nstat ||| w32 fl } }).excRecord u)
    else .next s
  | none => .next s

def execArr (u : Nat) (s : State) : Host.Outcome State Fault Refusal := s.issueRow u 0x20 arrFx

/-! ## DRN (R142) -/

/-- Element bytes of a drain. -/
def drnBytes (ofmt : Nat) : Nat := if ofmt = 0 then 4 else 2

/-- Rows of a drain: its group holds NR, FIRST and BANK in the second register. -/
def dNR (g : Grp) : Nat := bits (nth 0 g 1) 9 0
def dFirst (g : Grp) : Nat := bits (nth 0 g 1) 18 10
def dBank (g : Grp) : Nat := bits (nth 0 g 1) 19 19
def dRows (g : Grp) : List Nat := (List.range (dNR g)).map (dFirst g + ·)

/-- The first register of a DRN group that breaks a rule; an entry that is not written names no block. A CLASS of 5 to 7
lies in no register and is charged to the first of the group (DESIGN CHOICE, log 56). -/
def drnBad (tile : Bool) (w : Nat) (g : Grp) : Option Nat :=
  let v (i : Nat) := nth 0 g i
  if dClass w > 4 then some 0
  else if bits (v 0) 31 21 ≠ 0 ∨ !fits tile (v 0) (dNR g * bankCols tile * drnBytes (dOfmt w)) then some 0
  else if dNR g = 0 ∨ bankRows tile < dFirst g + dNR g ∨ bits (v 1) 31 20 ≠ 0 then some 1
  else if bits (v 2) 31 21 ≠ 0 ∨ (dOfmt w = 2 ∧ !fits tile (v 2) (dNR g * 4)) then some 2
  else none

/-- DRN at issue: the checks of R140, then the pairing of R60 (DEDUCED, log 15). -/
def drnFx (u w : Nat) (s : State) : Issue :=
  let x := s.unit u
  let tile := isTile u
  let gw := x.seq.group (aRs w) 3
  let g : Grp := gw.map (·.toNat)
  let mask := if tile then 1 else (x.seq.S (aRm w)).toNat
  let cores := maskCores tile mask
  if dOfmt w = 3 ∨ bits w 20 15 ≠ 0 ∨ (tile ∧ aRm w ≠ 0) then .exc exILLEGAL 0
  else if aRs w > 29 then .exc exOPERAND (aRs w)
  else if let some i := drnBad tile w g then .exc exOPERAND (aRs w + i)
  else if let some c := x.unset cores (dBank g) (dRows g) then .exc exACCUNINIT c
  else if dOfmt w = 0 ∧ (dClass w = 0 ∨ dClass w = 3 ∨ dClass w = 4) then .go (s.kernelRefuse u)
  else if mask = 0 then .go s
  else if x.arrFull cores then .wait
  else
    let op : ArrOp := { isDrn := true, word := w32 w, grp := gw, mask := mask, read := false, cap := [] }
    .go (s.setUnit u { x with arrs := x.arrs ++ [op] })

def execDrn (u : Nat) (s : State) : Host.Outcome State Fault Refusal := s.issueRow u 0x21 drnFx

/-- Elements of a row as the output stage writes them. -/
def drnRow (ofmt : Nat) (row : List Word) : List Byte × Tally :=
  let enc := row.map fun v =>
    if ofmt = 0 then (v.toNat, if fIsFin v then Loss.none else .nf)
    else
      let st := stage v
      let r := bf16.enc false (fl v)
      if ofmt = 2 ∧ st.2 then ((bf16.enc false st.1).1, .sat) else r
  (enc.flatMap fun e => leBytes (drnBytes ofmt) e.1, Tally.of (enc.map (·.2)))

/-- Every target of a DRN has written its rows; the token is signalled (R142). Cores that drain to one offset of the pool
write in increasing order, so that the rows of the highest stand (DESIGN CHOICE, log 56). -/
def execDrnRowsWritten (u n : Nat) (s : State) : Host.Outcome State Fault Refusal :=
  let x := s.unit u
  let tile := isTile u
  match x.arrs[n]? with
  | some a =>
    let w := a.word.toNat
    let g : Grp := a.grp.map (·.toNat)
    let clear := (x.before n).all fun b =>
      !b.isDrn && gBank (b.grp.map (·.toNat)) ≠ dBank g
    if s.live (dieOfUnit u) ∧ a.isDrn ∧ clear then
      let wr := (maskCores tile a.mask).foldl (fun (acc : SeqUnit × Tally) c =>
        let outs := (dRows g).map fun r => (tget ⟨[], 0⟩ x.rows (rowKey c (dBank g) r)).sums
        let enc := outs.map (drnRow (dOfmt w))
        let y := acc.1.st (gMem tile c (nth 0 g 0)) (gOff (nth 0 g 0)) (enc.flatMap (·.1))
        let y := if dOfmt w = 2 then
            y.st (gMem tile c (nth 0 g 2)) (gOff (nth 0 g 2))
              (outs.flatMap fun r => leBytes 4 (amaxW r).toNat)
          else y
        (y, (enc.map (·.2)).foldl Tally.plus acc.2)) (x, Tally.zero)
      let s := s.setUnit u { wr.1 with arrs := x.arrs.eraseIdx n }
      let s := s.fhAdd (dieOfUnit u) x.ctx.part (dClass w) (if dOfmt w = 0 then 0 else 2) wr.2
      .next ((if aSig w then s.signal u (aTok w) else s).excRecord u)
    else .next s
  | none => .next s

end Sys2Proof.Machine
end

