-- ==== Sys2Proof/Machine/TndIssue.lean ====
section
/-! DEFINITION. TND: the issue of one Tundish operation of a unit, and its completion
(R144, R145, R155 to R160, R171, R177, R179). -/
namespace Sys2Proof.Machine

/-- Memory of a stream word (Table 8.1). -/
def swMem (tile : Bool) (v : Nat) : Nat := if tile then 0 else if bit v 20 then 32 else bits v 25 21
/-- CORE, SPACE and the reserved bit of a stream word. -/
def swOk (tile : Bool) (v : Nat) : Bool :=
  !bit v 31 && (if tile then bits v 25 20 == 0 else !bit v 20 || bits v 25 21 == 0)

/-- The operation of a descriptor group (Table 8.3). -/
def tndOp (top : Nat) (g : Grp) (sc : Word) : TOp :=
  let v (i : Nat) := nth 0 g i
  { top := top, rows := bits (v 3) 15 0, cols := bits (v 3) 31 16, ctl := v 5, sc := sc,
    fA := bits (v 0) 30 26, fB := bits (v 1) 30 26, fY := bits (v 2) 30 26, fX := bits (v 6) 30 26,
    sb := v 1, aux := v 6 }
def tndPlace (tile : Bool) (g : Grp) : TPlace :=
  let at' (i : Nat) : Nat × Nat := (swMem tile (nth 0 g i), bits (nth 0 g i) 19 0)
  { a := at' 0, b := at' 1, y := at' 2, x := at' 6, pitch := nth 0 g 4 }

/-- Source j of FANADD and SCALE lies on the j-th core on (R169). -/
def tndCore (m j : Nat) : Nat := m + j

/-- First register of the group whose word breaks a condition of Tables 8.1 and 8.4, as an index. -/
def tndWords (tile : Bool) (o : TOp) (g : Grp) : Option Nat :=
  let v (i : Nat) := nth 0 g i
  let fan := o.top = 0x30 ∨ o.top = 0x31
  let n := if o.top = 0x30 then o.md else o.cols
  if (usesA o.top ∨ fan) ∧ !swOk tile (v 0) then some 0
  else if fan ∧ o.sb = 0 ∧ !tile ∧ (bit (v 0) 20 ∨ 32 < bits (v 0) 25 21 + n) then some 0
  else if fan ∧ o.sb = 0 ∧ tile then some 1
  else if ((usesB o.top o.md ∧ o.bmode ≠ 3) ∨ usesSB o.top o.md) ∧ !swOk tile (v 1) then some 1
  else if !swOk tile (v 2) then some 2
  else if !o.ctlOk then some 5
  else if (o.auxMask ∨ o.auxUsed) ∧ !swOk tile (v 6) then some 6
  else none

/-- Lowest register of the group that breaks a condition of R179, as an index. -/
def tndBad (tile : Bool) (o : TOp) (q : TPlace) (g : Grp) : Option Nat :=
  match tndWords tile o g, o.badField q tndCore (memEnd tile) with
  | some i, some f => some (min i f.reg)
  | some i, none => some i
  | none, f => f.map TField.reg

/-- Pieces written at an offset of a memory. -/
def SeqUnit.put (x : SeqUnit) (m off : Nat) (ws : List (Nat × List Byte)) : SeqUnit :=
  ws.foldl (fun x w => x.st m (off + w.1) w.2) x

/-- TND at issue: checked, and held with its registers as read (R144). -/
def tndFx (u w : Nat) (s : State) : Issue :=
  let x := s.unit u
  let tile := isTile u
  let gw := x.seq.group (tRs w) 7
  let g : Grp := gw.map (·.toNat)
  let sc := x.seq.S (tRb w)
  let o := tndOp (tTop w) g sc
  let q := tndPlace tile g
  if bit w 0 ∨ tRk w = 3 ∨ (tRk w = 2 ∧ fC w ≥ 8) then .exc exILLEGAL 0
  else if tRs w > 25 then .exc exOPERAND (tRs w)
  else if let some i := tndBad tile o q g then .exc exOPERAND (tRs w + i)
  else if !o.pairOk then .go (s.kernelRefuse u)
  else if 4 ≤ x.tnds.length then .wait
  else
    let op : TndOp := { top := tTop w, rk := tRk w, rd := fC w, grp := gw, sc := sc }
    .go (s.setUnit u { x with tnds := x.tnds ++ [op] })

/-- What an operation does to the unit's memories. -/
def SeqUnit.tndMem (x : SeqUnit) (q : TPlace) (r : TOut) : SeqUnit :=
  ((x.put q.y.1 q.y.2 r.y).put q.x.1 q.x.2 r.x).put q.b.1 q.b.2 r.sb

/-- Registers after an operation: NSTAT, then its summary (R145, R171). -/
def Seqr.tndDone (q : Seqr) (t : TndOp) (o : TOp) (r : TOut) : Seqr :=
  let q := { q with nstat := q.nstat ||| w32 r.nstat }
  if t.rk = 1 then q.setS t.rd (r.summary o)
  else if t.rk = 2 then q.setP (t.rd % 8) (r.summary o ≠ 0) else q

/-- The oldest Tundish operation is carried out and completes (R144, R177). -/
def execTundishOpComplete (u : Nat) (s : State) : Host.Outcome State Fault Refusal :=
  let x := s.unit u
  match x.tnds with
  | t :: rest =>
    if s.live (dieOfUnit u) then
      let g : Grp := t.grp.map (·.toNat)
      let o := tndOp t.top g t.sc
      let q := tndPlace (isTile u) g
      let r := tundish o (o.reader q tndCore x.ctx.e4nan fun m a n => x.ld m a n)
      let s := s.setUnit u { x.tndMem q r with tnds := rest, seq := x.seq.tndDone t o r }
      .next ((s.fhAdd (dieOfUnit u) x.ctx.part o.cls o.fY r.tally).excRecord u)
    else .next s
  | [] => .next s

def execAdd (u : Nat) (s : State) : Host.Outcome State Fault Refusal := s.issueRow u 0x201 tndFx
def execSub (u : Nat) (s : State) : Host.Outcome State Fault Refusal := s.issueRow u 0x202 tndFx
def execMul (u : Nat) (s : State) : Host.Outcome State Fault Refusal := s.issueRow u 0x203 tndFx
def execMin (u : Nat) (s : State) : Host.Outcome State Fault Refusal := s.issueRow u 0x204 tndFx
def execMax (u : Nat) (s : State) : Host.Outcome State Fault Refusal := s.issueRow u 0x205 tndFx
def execFma (u : Nat) (s : State) : Host.Outcome State Fault Refusal := s.issueRow u 0x206 tndFx
def execFill (u : Nat) (s : State) : Host.Outcome State Fault Refusal := s.issueRow u 0x207 tndFx
def execCvt (u : Nat) (s : State) : Host.Outcome State Fault Refusal := s.issueRow u 0x208 tndFx
def execNeg (u : Nat) (s : State) : Host.Outcome State Fault Refusal := s.issueRow u 0x209 tndFx
def execAbs (u : Nat) (s : State) : Host.Outcome State Fault Refusal := s.issueRow u 0x20A tndFx
def execExp2 (u : Nat) (s : State) : Host.Outcome State Fault Refusal := s.issueRow u 0x210 tndFx
def execLog2 (u : Nat) (s : State) : Host.Outcome State Fault Refusal := s.issueRow u 0x211 tndFx
def execRecip (u : Nat) (s : State) : Host.Outcome State Fault Refusal := s.issueRow u 0x212 tndFx
def execRsqrt (u : Nat) (s : State) : Host.Outcome State Fault Refusal := s.issueRow u 0x213 tndFx
def execCmplt (u : Nat) (s : State) : Host.Outcome State Fault Refusal := s.issueRow u 0x218 tndFx
def execCmple (u : Nat) (s : State) : Host.Outcome State Fault Refusal := s.issueRow u 0x219 tndFx
def execCmpeq (u : Nat) (s : State) : Host.Outcome State Fault Refusal := s.issueRow u 0x21A tndFx
def execCmpne (u : Nat) (s : State) : Host.Outcome State Fault Refusal := s.issueRow u 0x21B tndFx
def execSelect (u : Nat) (s : State) : Host.Outcome State Fault Refusal := s.issueRow u 0x21C tndFx
def execMkcausal (u : Nat) (s : State) : Host.Outcome State Fault Refusal := s.issueRow u 0x21D tndFx
def execRsum (u : Nat) (s : State) : Host.Outcome State Fault Refusal := s.issueRow u 0x220 tndFx
def execRmax (u : Nat) (s : State) : Host.Outcome State Fault Refusal := s.issueRow u 0x221 tndFx
def execRmin (u : Nat) (s : State) : Host.Outcome State Fault Refusal := s.issueRow u 0x222 tndFx
def execRcnt (u : Nat) (s : State) : Host.Outcome State Fault Refusal := s.issueRow u 0x223 tndFx
def execRargmax (u : Nat) (s : State) : Host.Outcome State Fault Refusal := s.issueRow u 0x224 tndFx
def execRargmin (u : Nat) (s : State) : Host.Outcome State Fault Refusal := s.issueRow u 0x225 tndFx
def execRmaxsum (u : Nat) (s : State) : Host.Outcome State Fault Refusal := s.issueRow u 0x226 tndFx
def execCsum (u : Nat) (s : State) : Host.Outcome State Fault Refusal := s.issueRow u 0x228 tndFx
def execCmax (u : Nat) (s : State) : Host.Outcome State Fault Refusal := s.issueRow u 0x229 tndFx
def execFanadd (u : Nat) (s : State) : Host.Outcome State Fault Refusal := s.issueRow u 0x230 tndFx
def execScale (u : Nat) (s : State) : Host.Outcome State Fault Refusal := s.issueRow u 0x231 tndFx
def execCompress (u : Nat) (s : State) : Host.Outcome State Fault Refusal := s.issueRow u 0x238 tndFx
def execExpand (u : Nat) (s : State) : Host.Outcome State Fault Refusal := s.issueRow u 0x239 tndFx
def execPermute (u : Nat) (s : State) : Host.Outcome State Fault Refusal := s.issueRow u 0x240 tndFx
def execGather (u : Nat) (s : State) : Host.Outcome State Fault Refusal := s.issueRow u 0x241 tndFx
def execSoftblk (u : Nat) (s : State) : Host.Outcome State Fault Refusal := s.issueRow u 0x248 tndFx
def execAttnNorm (u : Nat) (s : State) : Host.Outcome State Fault Refusal := s.issueRow u 0x249 tndFx

end Sys2Proof.Machine
end

