-- ==== Sys2Proof/Machine/Runner.lean ====
section
/-! DEFINITION. The Runner: descriptors pushed, started and completed (R74, R119 to R122, R146). -/
namespace Sys2Proof.Machine

/-! ## Descriptor fields (Table 6.4) -/

/-- A descriptor as a number of 256 bits. -/
def rdNat : List Word → Nat
  | [] => 0
  | w :: r => w.toNat + 2 ^ 32 * rdNat r

def rdAddr (d : Nat) : Nat := bits d 47 0
def rdSfmt (d : Nat) : Nat := bits d 52 48
def rdDfmt (d : Nat) : Nat := bits d 57 53
def rdClass (d : Nat) : Nat := bits d 60 58
def rdStore (d : Nat) : Bool := bit d 61
def rdTrans (d : Nat) : Bool := bit d 62
def rdScale (d : Nat) : Bool := bit d 63
def rdMask (d : Nat) : Nat := bits d 95 64
def rdLocal (d : Nat) : Nat := bits d 115 96
def rdSpace (d : Nat) : Nat := bits d 117 116
def rdRows (d : Nat) : Nat := bits d 143 128
def rdCols (d : Nat) : Nat := bits d 159 144
def rdStride (d : Nat) : Nat := bits d 191 160
def rdKStart (d : Nat) : Nat := bits d 215 192
def rdKL (d : Nat) : Nat := match bits d 217 216 with | 1 => 16 | 2 => 32 | _ => 0
def rdPad (d : Nat) : Bool := bit d 218
def rdWaitTok (d : Nat) : Nat := bits d 227 224
def rdSigTok (d : Nat) : Nat := bits d 231 228
def rdWaitEn (d : Nat) : Bool := bit d 232
def rdSigEn (d : Nat) : Bool := bit d 233

/-- Rows and columns as written: exchanged under TRANS, columns padded under PAD (DEDUCED, log 16). -/
def rdOutRows (d : Nat) : Nat := if rdTrans d then rdCols d else rdRows d
def rdOutCols (d : Nat) : Nat :=
  let c := if rdTrans d then rdRows d else rdCols d
  if rdPad d ∧ rdKL d ≠ 0 then cdiv c (rdKL d) * rdKL d else c

/-- Bytes of the block in the unit's memory: rows lie one after another. -/
def rdLocalBytes (d : Nat) : Nat :=
  if rdStore d then rdRows d * rowBytes (rdSfmt d) (rdCols d)
  else rdOutRows d * rowBytes (rdDfmt d) (rdOutCols d)
/-- Ranges of the block in device memory, one a row: the bytes between rows are not touched. -/
def rdRanges (d : Nat) : List Range :=
  if rdStore d then
    (List.range (rdOutRows d)).map fun r => (rdAddr d + r * rdStride d, rowBytes (rdDfmt d) (rdOutCols d), true)
  else (List.range (rdRows d)).map fun r => (rdAddr d + r * rdStride d, rowBytes (rdSfmt d) (rdCols d), false)
/-- Bytes that a load reads. -/
def rdReads (d : Nat) : Nat := if rdStore d then 0 else rdRows d * rowBytes (rdSfmt d) (rdCols d)

/-- Formats between which the Runner converts; M8 is only copied (DEDUCED, log 16), Dross is the Fumarole update's
alone (R56). -/
def rdConv (f : Nat) : Bool := decide (f ≤ 0x0A) || f == 0x0E || f == 0x0F

/-- The descriptor is well formed (R44, R45, R56, R60, R74, R122). -/
def rdOk (tile : Bool) (d : Nat) : Bool :=
  bits d 127 118 == 0 && bits d 223 219 == 0 && bits d 255 234 == 0 && bits d 217 216 ≠ 3 &&
  decide (rdSfmt d ≤ 15 ∧ rdDfmt d ≤ 15) && rdSfmt d ≠ 0x0D && rdDfmt d ≠ 0x0D &&
  (rdSfmt d == rdDfmt d || (rdConv (rdSfmt d) && rdConv (rdDfmt d))) && decide (rdClass d ≤ 4) &&
  !((rdClass d == 0 || rdClass d == 3 || rdClass d == 4) && !mayPersist (rdDfmt d)) &&
  decide (rdSpace d ≤ (if tile then 0 else 1)) && decide (1 ≤ rdRows d ∧ 1 ≤ rdCols d) &&
  (rdKL d == 0 || rdKStart d % rdKL d == 0) &&
  !(rdStore d && !tile && rdSpace d == 0 && (maskCores false (rdMask d)).length ≠ 1) &&
  decide (rdLocal d + rdLocalBytes d ≤ memEnd tile (if rdSpace d = 1 then 32 else 0))

/-- Memories that a descriptor names. -/
def rdMems (tile : Bool) (d : Nat) : List Nat :=
  if tile then [0] else if rdSpace d = 1 then [32] else maskCores false (rdMask d)

/-! ## Effect -/

/-- Source rows of a descriptor as bytes. -/
def State.rdSource (s : State) (u d : Nat) : List (List Byte) :=
  let x := s.unit u
  let n := rowBytes (rdSfmt d) (rdCols d)
  (List.range (rdRows d)).map fun r =>
    if rdStore d then x.ld ((rdMems (isTile u) d).headD 0) (rdLocal d + r * n) n
    else s.rd x.ctx.part (rdAddr d + r * rdStride d) n

/-- Rows written at the descriptor's destination. -/
def State.rdWrite (s : State) (u d : Nat) (rows : List (List Byte)) : State :=
  let p := (s.unit u).ctx.part
  if rdStore d then
    forN rows.length s fun r s => s.wr p (rdAddr d + r * rdStride d) (nth [] rows r)
  else
    (rdMems (isTile u) d).foldl (fun s m =>
      s.modUnit u fun x => x.st m (rdLocal d) rows.flatten) s

/-- Block without conversion: bytes as they are, or codes exchanged under TRANS. -/
def rdCopy (d : Nat) (src : List (List Byte)) : List (List Byte) :=
  let f := rdSfmt d
  let n := rowBytes f (rdOutCols d)
  if rdTrans d then
    (List.range (rdCols d)).map fun c =>
      slice (packCodes f ((List.range (rdRows d)).map fun r => elemCode f (nth [] src r) c)) 0 n
  else src.map fun r => slice r 0 n

/-- Blocks are copied: codes that stay as they are, but for those of a transposed CZ4 block. -/
def rdCopies (d : Nat) : Bool := rdSfmt d == rdDfmt d && !(isCz4 (rdSfmt d) && rdTrans d)

/-- A SCALE descriptor moves bytes of the plane or table. -/
def State.rdRun (s : State) (u d : Nat) (next : Option Nat) : State :=
  let src := s.rdSource u d
  let f := rdSfmt d
  let g := rdDfmt d
  -- a transposed CZ4 block takes block scales of its own, under the τ that it is read with (DESIGN CHOICE, log 55)
  if rdCopies d then s.rdWrite u d (rdCopy d src)
  else
    -- the scales of a conversion come with the SCALE descriptor pushed next (R119)
    let sc := match next with | some e => if rdScale e then some (e, s.rdSource u e) else none | none => none
    let plane (r : Nat) : List Byte := match sc with | some e => nth [] e.2 r | none => []
    let table : List Byte := match sc with | some e => e.2.flatten | none => []
    let sig (r : Nat) : Int :=
      if table.isEmpty then 0 else sext 8 (fld table (min (r / 128) (table.length - 1)) 1)
    let vals := (List.range (rdRows d)).map fun r =>
      decRow f (nth [] src r) (if isMx f then plane r else []) (if isMx f then 0 else sig r) (rdCols d)
    let vals := if rdTrans d then transpose (rdCols d) vals else vals
    let en := (s.unit u).ctx.e4nan
    let out : List (List Byte × List Byte × Tally) := (List.range vals.length).map fun r =>
      -- the plane of an MX source is no table of σ: its result has σ 0 (DEDUCED, log 16)
      encRow g en (if (isCz4 g ∨ isScaled g) ∧ !isMx f then sig r else 0)
        (nth [] vals r ++ List.replicate (rdOutCols d - (nth [] vals r).length) Fl.zero)
    let s := s.rdWrite u d (out.map (·.1))
    let s := match sc with
      | some e => if isMx g then s.rdWrite u e.1 (out.map fun (r : List Byte × List Byte × Tally) => slice r.2.1 0 (rdCols e.1)) else s
      | none => s
    if f = g then s
    else s.fhAdd (dieOfUnit u) (s.unit u).ctx.part (rdClass d) g ((out.map (·.2.2)).foldl Tally.plus .zero)

/-! ## Commands -/

/-- RPUSH at issue (R146): waits while the queue holds 64. -/
def rpushFx (u w : Nat) (s : State) : Issue :=
  let x := s.unit u
  if bits w 25 15 ≠ 0 ∨ bits w 9 0 ≠ 0 then .exc exILLEGAL 0
  else if aRs w > 24 then .exc exOPERAND (aRs w)
  else if 64 ≤ x.queue.length then .wait
  else .go (s.setUnit u { x with queue := x.queue ++ [x.seq.group (aRs w) 8] })

def execRpush (u : Nat) (s : State) : Host.Outcome State Fault Refusal := s.issueRow u 0x28 rpushFx

/-- The Runner of a unit runs. -/
def SeqUnit.runnerOn (x : SeqUnit) : Bool :=
  x.run == .running || x.run == .barrier || x.run == .halted

/-- Bytes of reads that have started and not completed (R120). -/
def SeqUnit.readsOut (x : SeqUnit) : Nat :=
  (x.started.map fun d => rdReads (rdNat d.words)).foldl (· + ·) 0

/-- The command of a unit is being saved: its Runner starts no descriptor (R123). -/
def State.unitSaving (s : State) (u : Nat) : Bool :=
  match s.cmd? (s.unit u).ctx.part (s.unit u).ctx.cid with
  | some k => k.phase == .saving
  | none => false

/-- The Runner starts the next queued descriptor, or refuses it (R120, R122): a read waits while 32 KiB are
outstanding. -/
def execRunnerDescriptorStart (u : Nat) (s : State) : Host.Outcome State Fault Refusal :=
  let x := s.unit u
  match x.queue with
  | ws :: rest =>
    let d := rdNat ws
    if !x.runnerOn ∨ !s.live (dieOfUnit u) ∨ s.unitSaving u then .next s
    else if !rdOk (isTile u) d then .next (s.kernelRefuse u)
    else if 32768 ≤ x.readsOut ∧ rdReads d ≠ 0 then .next s
    else if rdWaitEn d ∧ x.token (rdWaitTok d) = 0 then .next s
    else
      let y := if rdWaitEn d then x.setToken (rdWaitTok d) (x.token (rdWaitTok d) - 1) else x
      let t := s.setUnit u { y with queue := rest, started := x.started ++ [⟨ws, y.scaleMade⟩], scaleMade := false }
      match s.unitAccess x.ctx.part (isTile u) [(u, rdRanges d)] with
      | some f => .next f
      | none => .next t
  | [] => .next s

/-- A conversion takes or makes block scales or σ, which the SCALE descriptor pushed next holds (R119). -/
def rdScales (d : Nat) : Bool :=
  !rdCopies d && ([rdSfmt d, rdDfmt d].any fun f => isMx f || isCz4 f || isScaled f)

/-- The program of a unit may still push a descriptor: it goes on, and stands at no WAIT whose token is 0. -/
def SeqUnit.mayPush (x : SeqUnit) : Bool :=
  let w := ((x.imem[x.seq.pc.toNat]?).getD 0).toNat
  (x.run == .running || x.run == .halted) && !(opOf w == 0x2C && x.token (w % 16) == 0)

/-- RBYTES of a cluster: a block that is copied moves the bytes it has in memory; what a conversion moves is open (DESIGN
CHOICE, log 30). -/
def State.rdCount (s : State) (u d : Nat) : State :=
  if isTile u then s
  else if rdCopies d then s.count64 .mould u 0xA0 (((rdRanges d).map (·.2.1)).foldl (· + ·) 0)
  else s.movesBytes .mould u

/-- The oldest started descriptor completes: its bytes are written and its signal given in order
(R120). `done` marks a SCALE descriptor whose bytes its element descriptor has written. A conversion with scales waits
for the descriptor pushed next, which may hold them (DEDUCED, log 16). -/
def execRunnerDescriptorDone (u : Nat) (s : State) : Host.Outcome State Fault Refusal :=
  let x := s.unit u
  match x.started with
  | r :: rest =>
    let d := rdNat r.words
    if !(x.runnerOn || x.run == .quenched || x.run == .excepted) ∨ !s.live (dieOfUnit u) then .next s
    else if rdScales d ∧ rest.isEmpty ∧ x.queue.isEmpty ∧ x.mayPush then .next s
    else
      let nextD := match rest with
        | e :: _ => some (rdNat e.words)
        | [] => x.queue.head?.map rdNat
      let s := (if r.done then s else s.rdRun u d nextD).rdCount u d
      let mark : Bool := match nextD with
        | some e => rdScale e && isMx (rdDfmt d) && rdSfmt d ≠ rdDfmt d
        | none => false
      let s := s.modUnit u fun y => { y with
        started := match rest with
          | e :: q => { e with done := mark } :: q
          | [] => [],
        scaleMade := rest.isEmpty && mark }
      .next ((if rdSigEn d then s.signal u (rdSigTok d) else s).excRecord u)
  | [] => .next s

end Sys2Proof.Machine
end

