-- ==== Sys2Proof/Machine/Kernel.lean ====
section
/-! DEFINITION. The start of a command on its units, the kernel commands (R128, R129), and failures of
clusters and tiles (R104, R126, R180). -/
namespace Sys2Proof.Machine

/-! ## Units of a command -/

/-- Commands that run on clusters or on tiles. -/
def onClusters (op : Nat) : Bool := decide (0x200 ≤ op ∧ op ≤ 0x204)
def onTiles (op : Nat) : Bool := decide (0x280 ≤ op ∧ op ≤ 0x284)
/-- MG_VEC and CG_VEC name one unit. -/
def isVec (op : Nat) : Bool := op == 0x204 || op == 0x284
def isKernel (op : Nat) : Bool := op == 0x203 || op == 0x283

/-- Physical units that a command needs, by grid position. -/
def State.unitsOf (s : State) (op : Nat) (m : List Byte) : List Nat :=
  if onClusters op ∨ onTiles op then
    if isVec op then [if onTiles op then s.physTile (fld m 48 1) else s.physCluster (fld m 48 1)]
    else s.gridUnits (onTiles op) m
  else []

/-- Micro-batch number that a command carries (Table 15.9). -/
def mbOf (op : Nat) (m : List Byte) : Nat :=
  if isKernel op then fld m 68 4
  else if 0x280 ≤ op ∧ op ≤ 0x282 then fld m 52 4 else 0

/-- Commands with no tasks of their own numbering: what TASK_POS of their units comes to is open (DESIGN CHOICE, log 30). -/
def posOpen (op : Nat) : Bool := isKernel op || op == 0x202

/-! ## Placement of core tasks (R111) -/

/-- Lowest run of `len` free cores whose first index is a multiple of `len`. -/
def placeRun (busy : Tbl Nat) (len : Nat) : Option Nat :=
  (List.range 32).find? fun c => c % len == 0 && decide (c + len ≤ 32) &&
    (List.range len).all fun j => tget 0 busy (c + j) == 0
/-- Task `t` placed on the lowest free core, or on the lowest free run where it uses neighbour links. -/
def placeTask (busy : Tbl Nat) (t len : Nat) : Tbl Nat :=
  match placeRun busy len with
  | some c => forN len busy fun j b => tput 0 b (c + j) (t + 1)
  | none => busy
/-- Tasks 0 to n − 1 that are ready together, in increasing order. -/
def placeTasks (n : Nat) : Tbl Nat := forN n [] fun t b => placeTask b t 1
/-- CORE_BUSY of a placement. -/
def busyMask (b : Tbl Nat) : Nat := (b.map fun e => 2 ^ e.1).foldl (· ||| ·) 0

/-- Core tasks of each cluster task of the unit at grid position `i`, in order: 16 columns each of a column group
(R115); an attention task has all 32 cores (R117). -/
def coreTasks (k : Cmd) (i : Nat) : List Nat :=
  let m := k.msg
  let gm := fld m 49 1
  let gn := fld m 50 1
  if k.opcode = 0x200 then
    (blocksOf (fld m 60 4) 512 gn (i % gn)).flatMap fun c =>
      (blocksOf (fld m 56 4) 256 gm (i / gn)).map fun _ => cdiv (c.2 - c.1) 16
  else if k.opcode = 0x201 ∨ k.opcode = 0x202 then
    (List.range (fld m 52 4 * cdiv (fld m 60 4) 256)).filterMap fun q => if q % (gm * gn) = i then some 32 else none
  else []

/-- The units at a command's start: registers, tokens, queues and records clear, memories undefined
(R82, R85, R107, R129). -/
def State.startUnits (s : State) (p : Nat) (k : Cmd) (us : List Nat) : State :=
  let m := k.msg
  let vec := isVec k.opcode
  let gn := if vec then 1 else fld m 50 1
  forN us.length s fun i s =>
    let u := nth 0 us i
    let s := s.moves (unitPage u).1 (unitPage u).2
    let (e, s) := (if isKernel k.opcode then s else s.movesBytes (unitPage u).1 (unitPage u).2).draw
    let f := if posOpen k.opcode then (Config.freeWord e).toNat else 0
    (s.setTaskPos u f (f / 2 ^ 16)).modUnit u fun x => { SeqUnit.reset with
      ctx := { part := p, cid := k.cid, alpha := i / max gn 1, beta := i % max gn 1,
               gm := if vec then 1 else fld m 49 1, gn := gn, logical := fld m 48 1 + i,
               budget := if isKernel k.opcode then fld m 64 4 else 0, mb := mbOf k.opcode m,
               teacher := onTiles k.opcode && isTeacher m && !vec, e4nan := k.e4nan },
      placed := placeTasks ((coreTasks k i).headD 0), epoch := e + 1, brk := x.brk, saveSeed := x.saveSeed }

/-! ## Kernel commands (R128, R129) -/

/-- MG_KERNEL and CG_KERNEL (Table 15.9); a program that runs on into a reserved range is refused where its words are
loaded (R426). -/
def State.kernelForm (s : State) (tile : Bool) (m : List Byte) : Option Nat :=
  let n := fld m 52 4
  firstOf [need 48 (s.gridForm tile m), need 51 (decide (fld m 51 1 ≤ if tile then 1 else 0)),
    need 52 (decide (1 ≤ n ∧ n ≤ 4096)), need 56 (!reservedAddr (fld m 56 8) 1),
    need 72 (zeros m 72 80)]

/-- Each sequencer loads the program and starts it. -/
def State.kernelRun (s : State) (p : Nat) (k : Cmd) : State :=
  let m := k.msg
  let n := fld m 52 4
  let a := fld m 56 8
  let us := k.units
  match s.unitAccess p (isTile (gridAt us 0)) (gridUses us fun _ => [(a, 4 * n, false)]) with
  | some t => t
  | none =>
    let prog := (List.range n).map fun i => s.rdW p (a + 4 * i)
    let regs := (List.range 8).foldl (fun (q : Seqr) i => q.setS (i + 1) (w32 (fld m (80 + 4 * i) 4)))
      Seqr.reset
    us.foldl (fun s u => s.modUnit u fun x =>
      { x with run := .running, imem := prog, seq := regs }) s

/-- A started kernel command whose units have not begun. -/
def State.kernelRow (s : State) (p c op : Nat) : Host.Outcome State Fault Refusal :=
  match s.cmd? p c with
  | some k =>
    if k.opcode = op ∧ k.phase = .running ∧ k.out = none ∧ s.cmdLive k ∧ (s.part p).st ≠ .faulted ∧
        k.units.all fun u => (s.unit u).run == .idle then .next (s.kernelRun p k)
    else .next s
  | none => .next s

/-- MG_KERNEL (R128). -/
def execMgKernel (p c : Nat) (s : State) : Host.Outcome State Fault Refusal := s.kernelRow p c 0x203
/-- CG_KERNEL (R128). -/
def execCgKernel (p c : Nat) (s : State) : Host.Outcome State Fault Refusal := s.kernelRow p c 0x283

/-! ## Failures (R104, R126, R180) -/

/-- A unit enters the runtime failure record. -/
def State.recordFail (s : State) (f : FailUnit) : State :=
  if s.maps.runFail.contains f then s else s.setMaps { s.maps with runFail := s.maps.runFail ++ [f] }

/-- The partition that owns a unit faults with the cause in its page. -/
def State.faultOwner (s : State) (u code : Nat) : State :=
  let p := s.ownerOf u
  let (k, i) := unitPage u
  if p < 8 then s.faultFrom p k i code else s

/-- What an event of a cluster leads to (R126): 1 to 4 and 8 fail a unit and fault the owner, 5 to 7 fault it. -/
def State.clusterEvent (s : State) (cl kind idx : Nat) : State :=
  let f : FailUnit :=
    if kind = 2 ∨ (kind = 3 ∧ idx = 0x40) then .cluster cl
    else if kind = 8 then .seq cl (tget 0 s.maps.seqUse cl) else .core cl idx
  (if 5 ≤ kind ∧ kind ≤ 7 then s else s.recordFail f).faultOwner cl kind

/-- What an event of a tile leads to (R104): 1 and 2 fail the tile and fault the owner, 3 and 4 fault it. -/
def State.tileEvent (s : State) (tile kind : Nat) : State :=
  (if 3 ≤ kind then s else s.recordFail (.tile tile)).faultOwner (256 + tile) kind

/-- An error event of a cluster (Table 6.8), by its BLK_EVT bit: 1 SP_UE, 2 POOL_UE, 3 ARR_PAR,
4 LINK_PAR, 8 SEQ_PAR, 10 SP_CE. `idx` is the core or the pool offset; 0x40 with ARR_PAR is the
Tundish. -/
def execCoreFailure (cl kind idx : Nat) (s : State) : Host.Outcome State Fault Refusal :=
  let own := s.ownerOf cl
  let part := if own < 8 then own else 0xF
  if kind = 10 then .next ((s.evSet .mould cl 10).count16 .mould cl 0x5C 1)
  else if kind = 1 ∨ kind = 2 ∨ kind = 3 ∨ kind = 4 ∨ kind = 8 then
    .next ((s.evErr .mould cl kind kind part (if kind = 8 then 0 else idx) 0).clusterEvent cl kind idx)
  else .next s

/-- An error event of a tile (Table 5.7): 1 SP_UE, 2 ARR_PAR, 6 SP_CE. -/
def execTileFailure (tile kind info : Nat) (s : State) : Host.Outcome State Fault Refusal :=
  let own := s.ownerOf (256 + tile)
  let part := if own < 8 then own else 0xF
  if kind = 6 then .next ((s.evSet .cruc tile 6).count16 .cruc tile 0x54 1)
  else if kind = 1 ∨ kind = 2 then
    .next ((s.evErr .cruc tile kind kind part info 0).tileEvent tile kind)
  else .next s

end Sys2Proof.Machine
end

