-- ==== Sys2Proof/Machine/Sprue.lean ====
section
/-! DEFINITION. The Sprues: slices and homes, logit units, the two passes, top-k records, feature
matching (chapter 9), and CG_LOGIT, which feeds them (R97). -/
namespace Sys2Proof.Machine

/-! ## Slices and homes (R181, R183) -/

def State.sliceCount (s : State) (p d : Nat) : Nat := tget 0 s.sprue.slices (d * 8 + p) % 1024
def State.sliceBase (s : State) (p d : Nat) : Nat := tget 0 s.sprue.slices (d * 8 + p) / 1024
/-- PCFGp of a die, and TRECp. -/
def State.pcfg (s : State) (p d : Nat) : Nat := s.pg .sprue d (0x44 + 0x20 * p)
def State.trec (s : State) (p : Nat) : Word := w32 (s.pg .sprue 0 (0x48 + 0x20 * p))
def State.topk (s : State) (p : Nat) : Bool := bit (s.pcfg p 0) 0
def State.topkK (s : State) (p : Nat) : Nat := bits (s.pcfg p 0) 13 4
def State.intake (s : State) (p d : Nat) : Nat := bits (s.pcfg p d) 20 16
def State.win (s : State) (p d : Nat) : Nat := bits (s.pcfg p d) 27 24
def State.doneMb (s : State) (p : Nat) : Nat := tget 0 s.sprue.doneMb p

/-- Home die of row block b under a HOME field; `none` where that slice is empty. -/
def State.homeOf (s : State) (p home b : Nat) : Option Nat :=
  let has (d : Nat) : Bool := decide (0 < s.sliceCount p d)
  if home = 1 then (if has 0 then some 0 else none)
  else if home = 2 then (if has 1 then some 1 else none)
  else if has (b % 2) then some (b % 2)
  else if has (1 - b % 2) then some (1 - b % 2) else none

/-- Row blocks of a command from its first row and rows. -/
def rowBlocks (first m : Nat) : List Nat := (List.range (cdiv m 512)).map (first / 512 + ·)

/-- The started SP_LOSS that covers row block b of a micro-batch. -/
def State.coverOf (s : State) (p mb b : Nat) : Option Cmd :=
  (s.part p).cmds.find? fun k => k.opcode == 0x300 && k.phase == .running && k.out == none &&
    fld k.msg 48 4 == mb && (rowBlocks (fld k.msg 56 4) (fld k.msg 60 4)).contains b

/-- Home of a row block: of the SP_LOSS that covers it, HOME 0b00 without one (DEDUCED, log 17). -/
def State.homeFor (s : State) (p mb b : Nat) : Option Nat :=
  s.homeOf p (match s.coverOf p mb b with | some k => bits (fld k.msg 52 1) 2 1 | none => 0) b

/-! ## Space (Table 9.1) -/

/-- Segments of a top-k row block of the teacher side. -/
def State.recSegs (s : State) (p d : Nat) : Nat := cdiv (64 + 6 * s.topkK p) 64 + 1 + s.win p d

/-- A row block has finished: pass 1 done and every column block through pass 2. -/
def RowBlk.complete (r : RowBlk) : Bool := r.pass1 && decide (r.cols ≤ r.pass2.length)

/-- It is open: its records, its pass 2 or its student side are not complete. -/
def RowBlk.isOpen (r : RowBlk) : Bool :=
  if r.teacherSide then !r.pass1 else if r.stateOnly then r.rowLoss.isEmpty else !r.complete

/-- Segments that a row block holds. -/
def State.blkSegs (s : State) (r : RowBlk) : Nat :=
  if r.teacherSide then s.recSegs r.part r.die
  else if r.stateOnly then (if r.rowLoss.isEmpty then 1 else 0)
  else if r.complete then 0 else 1 + s.win r.part r.die

/-- Segments of a slice after its intake. -/
def State.afterIntake (s : State) (p d : Nat) : Nat :=
  s.sliceCount p d - (if s.topk p then 16 else 32) * s.intake p d
/-- Of these, segments free. -/
def State.freeSegs (s : State) (p d : Nat) : Nat :=
  s.afterIntake p d -
    ((s.sprue.blks.filter fun r => r.part == p && r.die == d).map s.blkSegs).foldl (· + ·) 0

def State.setSprueBlks (s : State) (b : List RowBlk) : State := s.setSprue { s.sprue with blks := b }
def State.blk? (s : State) (teacher : Bool) (p mb b : Nat) : Option RowBlk :=
  s.sprue.blks.find? fun r => r.teacherSide == teacher && !r.stateOnly && r.part == p && r.mb == mb && r.blk == b
/-- The row block of one command in top-k student side or feature mode. -/
def State.slot? (s : State) (p cid b : Nat) : Option RowBlk :=
  s.sprue.blks.find? fun r => r.stateOnly && r.part == p && r.cid == cid && r.blk == b
/-- The row block replaced, or added. -/
def State.putBlk (s : State) (r : RowBlk) : State :=
  let same (x : RowBlk) : Bool :=
    x.teacherSide == r.teacherSide && x.stateOnly == r.stateOnly && x.part == r.part && x.mb == r.mb &&
      x.blk == r.blk && (!r.stateOnly || x.cid == r.cid)
  s.setSprueBlks (if s.sprue.blks.any same then updFirst same (fun _ => r) s.sprue.blks
    else s.sprue.blks ++ [r])

/-! ## Loss arithmetic (R186 to R191) -/

def cLOG2E : Word := 0x3FB8AA3B#32
def cLN2 : Word := 0x3F317218#32
/-- c of a temperature. -/
def termC (t : Word) : Word := fmul cLOG2E (frecip t)

/-- The loss descriptor (Table 9.3). -/
def dG (d : List Byte) : Word := w32 (fld d 0 4)
def dWce (d : List Byte) : Word := w32 (fld d 4 4)
def dTerms (d : List Byte) : Nat := bits (fld d 8 4) 1 0
def dRev (d : List Byte) (k : Nat) : Bool := bit (fld d 8 4) (4 + k)
def dT (d : List Byte) (k : Nat) : Word := w32 (fld d (16 + 8 * k) 4)
def dW (d : List Byte) (k : Nat) : Word := w32 (fld d (20 + 8 * k) 4)
/-- The hard-label term is present. -/
def dCe (d : List Byte) : Bool := !(fl (dWce d)).isZero

/-- A temperature is finite and positive. -/
def tempOk (t : Word) : Bool := fIsFin t && flt 0 t

/-- The conditions of R190. -/
def descOk (d : List Byte) (labels : Bool) : Bool :=
  dTerms d ≠ 3 && (List.range (dTerms d)).all (fun k => tempOk (dT d k)) &&
    (fld d 8 4 &&& 0xFFFFFFCC) == 0 && zeros d 12 16 && zeros d 32 64 &&
    !(dTerms d == 0 && !dCe d) && (!dCe d || labels)

/-- Partial of one KL term over a unit's row (R186). -/
def termPartial (c : Word) (rev : Bool) (t s : List Word) : TermAcc :=
  let tq := t.map (fmul c)
  let sq := s.map (fmul c)
  let mt := maxOf tq
  let ms := maxOf sq
  let et := tq.map fun x => fexp2 (fsub x mt)
  let es := sq.map fun x => fexp2 (fsub x ms)
  let d := (List.zip tq sq)
  { mt := mt, zt := rsum et, ms := ms, zs := rsum es,
    a := if rev then rsum ((List.zip es d).map fun e => fmul e.1 (fsub e.2.2 e.2.1))
      else rsum ((List.zip et d).map fun e => fmul e.1 (fsub e.2.1 e.2.2)) }

/-- Fold of a partial into a state (R187). -/
def termFold (rev : Bool) (x y : TermAcc) : TermAcc :=
  let mt := fmaxw x.mt y.mt
  let ax := fexp2 (fsub x.mt mt)
  let ay := fexp2 (fsub y.mt mt)
  let ms := fmaxw x.ms y.ms
  let bx := fexp2 (fsub x.ms ms)
  let by' := fexp2 (fsub y.ms ms)
  { mt := mt, zt := fadd (fmul x.zt ax) (fmul y.zt ay), ms := ms,
    zs := fadd (fmul x.zs bx) (fmul y.zs by'),
    a := if rev then fadd (fmul x.a bx) (fmul y.a by') else fadd (fmul x.a ax) (fmul y.a ay) }

/-- Partial of the hard-label term: (m1, z1) and c·s of the label entry where it lies here. -/
def cePartial (s : List Word) (label : Option Nat) : Word × Word × Word :=
  let x := s.map (fmul cLOG2E)
  let m := maxOf x
  (m, rsum (x.map fun v => fexp2 (fsub v m)), match label with | some i => nth 0 x i | none => 0)
def ceFold (x y : Word × Word × Word) : Word × Word × Word :=
  let m := fmaxw x.1 y.1
  (m, fadd (fmul x.2.1 (fexp2 (fsub x.1 m))) (fmul y.2.1 (fexp2 (fsub y.1 m))), x.2.2 ||| y.2.2)

/-- A sorted insertion: larger logit first, the lower index among equals (R193). -/
def keepIns (e : Nat × Word) : List (Nat × Word) → List (Nat × Word)
  | [] => [e]
  | x :: r => if flt x.2 e.2 || (!flt e.2 x.2 && e.1 < x.1) then e :: x :: r else x :: keepIns e r
def keepTop (k : Nat) (l : List (Nat × Word)) : List (Nat × Word) :=
  l.foldl (fun acc e => (keepIns e acc).take k) []
/-- Kept entries in increasing index order. -/
def idxIns (e : Nat × Word) : List (Nat × Word) → List (Nat × Word)
  | [] => [e]
  | x :: r => if e.1 < x.1 then e :: x :: r else x :: idxIns e r
def byIndex (l : List (Nat × Word)) : List (Nat × Word) := l.foldl (fun acc e => idxIns e acc) []

/-- Fold of a row. -/
def RowAcc.fold (revs : List Bool) (k : Nat) (x y : RowAcc) : RowAcc :=
  { terms := (List.range x.terms.length).map fun i =>
      termFold (nth false revs i) (nth ⟨0, 0, 0, 0, 0⟩ x.terms i) (nth ⟨0, 0, 0, 0, 0⟩ y.terms i),
    ce := match x.ce, y.ce with | some a, some b => some (ceFold a b) | a, _ => a,
    nf := x.nf || y.nf,
    kept := if k = 0 then [] else keepTop k (x.kept ++ y.kept) }

/-- Loss of a row from the divergences of its terms in bits (R188). -/
def lossOf (d : List Byte) (kl2 : List Word) (ce2 : Word) : Word :=
  let part (k : Nat) : Word :=
    fmul (fmul (dW d k) (fmul (dT d k) (dT d k))) (fmul cLN2 (nth 0 kl2 k))
  let ce := fmul (dWce d) (fmul cLN2 ce2)
  let kl : Option Word := match dTerms d with
    | 0 => none | 1 => some (part 0) | _ => some (fadd (part 0) (part 1))
  fmul (dG d) (match kl with
    | some v => if dCe d then fadd v ce else v
    | none => ce)
/-- Gradient of an element from the terms' gradients (R189). -/
def gradOf (d : List Byte) (g : List Word) (gce : Word) : Word :=
  let part (k : Nat) : Word := fmul (dW d k) (nth 0 g k)
  let ce := fmul (dWce d) gce
  let kl : Option Word := match dTerms d with
    | 0 => none | 1 => some (part 0) | _ => some (fadd (part 0) (part 1))
  fmul (dG d) (match kl with
    | some v => if dCe d then fadd v ce else v
    | none => ce)

/-- lzt, lzs and kl2 of a lock-step term (R188). -/
def termEnd (rev : Bool) (x : TermAcc) : Word × Word × Word :=
  let lzt := fadd x.mt (flog2 x.zt)
  let lzs := fadd x.ms (flog2 x.zs)
  (lzt, lzs, if rev then fadd (fsub (fmul x.a (frecip x.zs)) lzs) lzt
    else fadd (fsub (fmul x.a (frecip x.zt)) lzt) lzs)
/-- lz1 and ce2. -/
def ceEnd (x : Word × Word × Word) : Word × Word :=
  let lz1 := fadd x.1 (flog2 x.2.1)
  (lz1, fsub lz1 x.2.2)

/-- Gradient of one term from lp, ps and the target of the element. -/
def gFwd (t ps pq : Word) : Word := fmul t (fsub ps pq)
def gRev (t ps lp lq kl2 : Word) : Word := fmul (fmul t cLN2) (fmul ps (fsub (fsub lp lq) kl2))

/-! ## Command operands (Table 15.9) -/

def lMb (m : List Byte) : Nat := fld m 48 4
def lFirst (m : List Byte) : Nat := fld m 56 4
def lRows (m : List Byte) : Nat := fld m 60 4
def lCols (m : List Byte) : Nat := fld m 64 4

/-- Two strided tensors share a byte. -/
def TRef.meets (a b : TRef) : Bool :=
  let str (t : TRef) : Strm := ⟨0, t.addr, t.fmt, t.rows, rowBytes t.fmt t.cols, t.step⟩
  (str a).overlaps (str b)
/-- A vector of u32 or f32 at an address; none at 0. -/
def vecRef (a rows : Nat) : TRef :=
  { addr := a, rows := if a = 0 then 0 else 1, cols := rows, pitch := 0, fmt := 0, cls := 1, smode := 0, sigma := 0, scale := 0 }
/-- R197: the gradient lies over the student logits only in place. -/
def gradPlace (src g : TRef) : Bool :=
  !src.meets g || (src.addr == g.addr && src.fmt == g.fmt && src.step == g.step)

def wide (f : Nat) : Bool := f == 0 || f == 2
/-- SP_LOSS in form. An overlap that R197 bars is one of the later field (DEDUCED, log 17). -/
def spLossForm (m : List Byte) : Option Nat :=
  let M := lRows m
  let N := lCols m
  let a (o n : Nat) : Bool := fld m o 8 == 0 || !reservedAddr (fld m o 8) n
  firstOf [need 52 (decide (fld m 52 1 < 6)), need 53 (zeros m 53 56), need 56 (lFirst m % 512 == 0),
    need 60 (decide (1 ≤ M ∧ M ≤ 131072)), need 64 (decide (1 ≤ N ∧ N ≤ 1048576 ∧ N % 2048 = 0)),
    need 68 (zeros m 68 72), (tref m 72).check 72 M N wide false,
    need 104 (gradPlace (tref m 72) (tref m 104)),
    withOut 104 (decide ((tref m 104).cls ≠ 2)) ((tref m 104).check 104 M N wide true),
    need 136 (a 136 (4 * M) && !(vecRef (fld m 136 8) M).meets (tref m 104)),
    need 144 (a 144 (4 * M) && !(vecRef (fld m 144 8) M).meets (tref m 72) &&
      !(vecRef (fld m 144 8) M).meets (tref m 104) && !(vecRef (fld m 144 8) M).meets (vecRef (fld m 136 8) M)),
    need 152 (!reservedAddr (fld m 152 8) 64 && !(vecRef (fld m 152 8) 16).meets (tref m 104) &&
      !(vecRef (fld m 152 8) 16).meets (vecRef (fld m 144 8) M))]

/-- SP_FEAT in form: R197 lets a gradient lie over student logits alone. -/
def spFeatForm (m : List Byte) : Option Nat :=
  let M := lRows m
  let D := lCols m
  let a (o n : Nat) : Bool := fld m o 8 == 0 || !reservedAddr (fld m o 8) n
  firstOf [need 52 (decide (fld m 52 1 < 6)), need 53 (zeros m 53 56), need 56 (lFirst m % 512 == 0),
    need 60 (decide (1 ≤ M ∧ M ≤ 131072)), need 64 (decide (1 ≤ D ∧ D ≤ 65536)),
    need 76 (zeros m 76 80), (tref m 80).check 80 M D wide false,
    (tref m 112).check 112 M D wide false,
    need 144 (!(tref m 80).meets (tref m 144) && !(tref m 112).meets (tref m 144)),
    withOut 144 (decide ((tref m 144).cls ≠ 2 ∨ (tref m 144).fmt ≠ (tref m 80).fmt))
      ((tref m 144).check 144 M D wide true),
    need 176 (a 176 (4 * M) && !(vecRef (fld m 176 8) M).meets (tref m 144)),
    need 184 (a 184 (4 * M) && !(vecRef (fld m 184 8) M).meets (tref m 80) &&
      !(vecRef (fld m 184 8) M).meets (tref m 112) && !(vecRef (fld m 184 8) M).meets (tref m 144) &&
      !(vecRef (fld m 184 8) M).meets (vecRef (fld m 176 8) M))]

/-- The homes of a command's row blocks are there, each with a legal INTAKE (Table 9.12). -/
def State.homesOk (s : State) (p home : Nat) (bs : List Nat) : Bool :=
  bs.all fun b => match s.homeOf p home b with
    | some d => decide (s.intake p d ≤ 16)
    | none => false

/-- Start conditions of SP_LOSS (R181, R183, R190, R195, R200) with its descriptor, or the refusal. -/
def State.spLossStart (s : State) (p : Nat) (m : List Byte) : Compl ⊕ List Byte :=
  let d := s.rd p (fld m 152 8) 64
  let bs := rowBlocks (lFirst m) (lRows m)
  let clash := (s.part p).cmds.any fun k => k.opcode == 0x300 && k.phase == .running &&
    lMb k.msg == lMb m && decide (lFirst k.msg < lFirst m + lRows m) &&
    decide (lFirst m < lFirst k.msg + lRows k.msg)
  if !descOk d (fld m 136 8 ≠ 0) ∨
      (s.topk p ∧ !((List.range (dTerms d)).all fun k => dT d k == s.trec p)) then .inl (.malformed 152)
  else if clash ∨ lMb m < s.doneMb p then .inl (.of 3)
  else if !s.homesOk p (bits (fld m 52 1) 2 1) bs then .inl (.of 4)
  else .inr d

/-- Start conditions of SP_FEAT (R181, R183, R200). -/
def State.spFeatStart (s : State) (p : Nat) (m : List Byte) : Option Compl :=
  if lMb m < s.doneMb p then some (.of 3)
  else if !s.homesOk p (bits (fld m 52 1) 2 1) (rowBlocks (lFirst m) (lRows m)) then some (.of 4)
  else none

/-- Start conditions of CG_LOGIT that the Sprue gives (R181, Table 9.12). -/
def State.cgLogitStart (s : State) (p : Nat) (m : List Byte) : Option Compl :=
  let bs := (List.range (cdiv (fld m 60 4) 512)).map (fld m 72 4 / 512 + ·)
  if bs.all fun b => match s.homeFor p (fld m 52 4) b with
    | some d => decide (s.intake p d ≤ 16)
    | none => false then none else some (.of 4)

/-- Label entry of a row of a command; `none` without a vector. -/
def State.labelOf (s : State) (p a row : Nat) : Option Nat :=
  if a = 0 then none else some (s.rdU p (a + 4 * row) 4)
/-- The row is ignored (R192). -/
def ignored (label : Option Nat) (n : Nat) : Bool :=
  match label with | some l => decide (n ≤ l) | none => false

/-- f32 values of part of a row of a tensor. -/
def State.rdPart (s : State) (p : Nat) (t : TRef) (row c n : Nat) : List Word :=
  let eb := fmtBits t.fmt / 8
  let bs := s.rd p (t.addr + row * t.step + c * eb) (n * eb)
  (List.range n).map fun i => f32 (elem t.fmt bs [] 0 i)
/-- f32 values written to part of a row (R189; not counted, R192). -/
def State.wrPart (s : State) (p : Nat) (t : TRef) (row c : Nat) (vs : List Word) : State :=
  let eb := fmtBits t.fmt / 8
  s.wr p (t.addr + row * t.step + c * eb)
    (packCodes t.fmt (vs.map fun v => (encElem t.fmt false 0 (fl v)).1))

/-- Non-finite elements counted in NFCNTp of a die (R192). -/
def State.nfCount (s : State) (d p n : Nat) : State :=
  if n = 0 then s
  else (s.count32 .sprue d (0x58 + 0x20 * p) n).evSet .sprue d 4

/-! ## Lock-step passes -/

def emptyAcc : RowAcc := { terms := [], ce := none, nf := false, kept := [] }

/-- Partial of one row of a unit (R186, R192). -/
def rowPartial (d : List Byte) (N j : Nat) (t s : List Word) (label : Option Nat) : RowAcc :=
  { terms := (List.range (dTerms d)).map fun k => termPartial (termC (dT d k)) (dRev d k) t s,
    ce := if dCe d then
        some (cePartial s (match label with
          | some l => if l / 256 = j ∧ l < N then some (l % 256) else none
          | none => none))
      else none,
    nf := (t ++ s).any fun v => !fIsFin v, kept := [] }

/-- Waiting partials folded as far as they go (R187). -/
def foldWaiting (revs : List Bool) (k : Nat) : Nat → RowBlk → RowBlk
  | 0, r => r
  | n + 1, r =>
    match tget [] r.parts r.next with
    | [] => r
    | ys =>
      foldWaiting revs k n { r with
        rows := (List.range ys.length).map fun i =>
          (nth emptyAcc r.rows i).fold revs k (nth emptyAcc ys i),
        parts := tput [] r.parts r.next [], next := r.next + 1 }

/-- A partial joins its row block. -/
def RowBlk.join (revs : List Bool) (k : Nat) (r : RowBlk) (j : Nat) (ys : List RowAcc) : RowBlk :=
  let r := if j = r.next then
      { r with
        rows := if j = 0 then ys else (List.range ys.length).map fun i =>
          (nth emptyAcc r.rows i).fold revs k (nth emptyAcc ys i),
        next := r.next + 1 }
    else { r with parts := tput [] r.parts j ys }
  let r := foldWaiting revs k r.parts.length r
  { r with pass1 := decide (r.cols ≤ r.next) }

/-- State of row `i`, with what pass 2 found of it. -/
def RowBlk.rowAt (r : RowBlk) (i : Nat) : RowAcc :=
  let x := nth emptyAcc r.rows i
  { x with nf := x.nf || r.nf2.contains i }

/-- Loss of a row of a lock-step block (R188, R192). -/
def lockLoss (d : List Byte) (x : RowAcc) (ign : Bool) : Word :=
  if ign then 0 else if x.nf then fNaN
  else lossOf d ((List.range x.terms.length).map fun k =>
      (termEnd (dRev d k) (nth ⟨0, 0, 0, 0, 0⟩ x.terms k)).2.2)
    (match x.ce with | some c => (ceEnd c).2 | none => 0)

/-- Gradient of a row of a unit in pass 2 (R189). -/
def lockGrad (d : List Byte) (x : RowAcc) (ign : Bool) (j : Nat) (label : Option Nat)
    (t s : List Word) : List Word :=
  (List.range s.length).map fun e =>
    let tv := nth 0 t e
    let sv := nth 0 s e
    if ign then 0 else if x.nf then fNaN
    else
      let g := (List.range x.terms.length).map fun k =>
        let c := termC (dT d k)
        let z := termEnd (dRev d k) (nth ⟨0, 0, 0, 0, 0⟩ x.terms k)
        let lp := fsub (fmul c sv) z.2.1
        let lq := fsub (fmul c tv) z.1
        let ps := fexp2 lp
        if dRev d k then gRev (dT d k) ps lp lq z.2.2 else gFwd (dT d k) ps (fexp2 lq)
      let gce := match x.ce with
        | some ce => fsub (fexp2 (fsub (fmul cLOG2E sv) (ceEnd ce).1))
            (if label = some (j * 256 + e) then fOne else 0)
        | none => 0
      gradOf d g gce

/-- Rows of row block b that a command covers. -/
def blkRows (m : List Byte) (b : Nat) : Nat := min 512 (lRows m - (b * 512 - lFirst m))
/-- Rows of a block of a tensor, and of a u32 or f32 vector. -/
def TRef.rowsAt (t : TRef) (w : Bool) (row n : Nat) : List Range :=
  t.block w ((List.range n).map (row + ·)) 0 t.cols
def vecAt (a row n : Nat) (w : Bool) : List Range := if a = 0 then [] else [(a + 4 * row, 4 * n, w)]

/-- Ranges of an SP_LOSS over one column block of one row block: pass 1 reads, pass 2 writes the gradient too and, with
its last column block, the row losses (R186 to R189). -/
def lossRanges (m : List Byte) (row n j : Nat) (pass2 last : Bool) : List Range :=
  let rows := (List.range n).map (row + ·)
  (tref m 72).block false rows (j * 256) (j * 256 + 256) ++ vecAt (fld m 136 8) row n false ++
    (if pass2 then (tref m 104).block true rows (j * 256) (j * 256 + 256) else []) ++
    (if last then vecAt (fld m 144 8) row n true else [])

/-- Row losses of a row block written to the row-loss vector. -/
def State.wrLosses (s : State) (p : Nat) (m : List Byte) (at' row : Nat) (ls : List Word) : State :=
  if fld m at' 8 = 0 then s
  else s.wr p (fld m at' 8 + 4 * row) (wordsB ls)

/-- Admission in pass 1 (R185 to R188). -/
def State.admitPass1 (s : State) (die p : Nat) (k : Cmd) (u : LogitUnit) : Option State :=
  let m := k.msg
  let d := k.data
  let row0 := u.blk * 512 - lFirst m
  let n := min u.nrows (lRows m - row0)
  let fresh : RowBlk := .fresh p die u.mb u.blk k.cid (lCols m / 256) false
  let old := s.blk? false p u.mb u.blk
  let r := old.getD fresh
  let room : Bool := match old with
    | some _ => true
    | none => decide (1 + s.win p die ≤ s.freeSegs p die)
  if room ∧ !r.pass1 ∧ u.col < r.cols ∧ (u.col = r.next ∨ (r.next < u.col ∧ u.col ≤ r.next + s.win p die ∧
      r.parts.length < s.win p die)) then
    match s.tagAccess p (lossRanges m row0 n u.col false false) with
    | some t => some t
    | none =>
      let vals := (List.range n).map fun i =>
        (nth [] u.data i, s.rdPart p (tref m 72) (row0 + i) (u.col * 256) 256)
      let lab (i : Nat) := s.labelOf p (fld m 136 8) (row0 + i)
      let ys := (List.range n).map fun i =>
        let v := nth ([], []) vals i
        rowPartial d (lCols m) u.col v.1 v.2 (lab i)
      let bad := ((List.range n).map fun i =>
        let v := nth ([], []) vals i
        if ignored (lab i) (lCols m) then 0 else count (fun x => !fIsFin x) (v.1 ++ v.2)).foldl (· + ·) 0
      let r := r.join [dRev d 0, dRev d 1] 0 u.col ys
      some ((s.nfCount die p bad).putBlk { r with nonfin := r.nonfin + bad })
  else none

/-- Admission in pass 2 (R185, R189). A row whose first non-finite value is read here is NaN throughout: what its earlier
column blocks received is written over (R192). -/
def State.admitPass2 (s : State) (die p : Nat) (k : Cmd) (u : LogitUnit) : Option State :=
  let m := k.msg
  let d := k.data
  let row0 := u.blk * 512 - lFirst m
  let n := min u.nrows (lRows m - row0)
  match s.blk? false p u.mb u.blk with
  | some r =>
    if r.pass1 ∧ r.die = die ∧ u.col < r.cols ∧ !r.pass2.contains u.col then
      match s.tagAccess p (lossRanges m row0 n u.col true (r.cols ≤ r.pass2.length + 1)) with
      | some t => some t
      | none =>
        let lab (i : Nat) := s.labelOf p (fld m 136 8) (row0 + i)
        let ign (i : Nat) : Bool := ignored (lab i) (lCols m)
        let stu (i : Nat) := s.rdPart p (tref m 72) (row0 + i) (u.col * 256) 256
        let bad (i : Nat) : Nat := if ign i ∨ (nth emptyAcc r.rows i).nf then 0
          else count (fun x => !fIsFin x) (nth [] u.data i ++ stu i)
        let new := (List.range n).filter fun i => bad i ≠ 0 && !r.nf2.contains i
        let r := { r with nf2 := r.nf2 ++ new, nonfin := r.nonfin + ((List.range n).map bad).foldl (· + ·) 0 }
        let s := s.nfCount die p (((List.range n).map bad).foldl (· + ·) 0)
        let s := forN n s fun i s =>
          let s := if new.contains i then r.pass2.foldl (fun s j =>
              s.wrPart p (tref m 104) (row0 + i) (j * 256) (List.replicate 256 fNaN)) s else s
          s.wrPart p (tref m 104) (row0 + i) (u.col * 256)
            (lockGrad d (r.rowAt i) (ign i) u.col (lab i) (nth [] u.data i) (stu i))
        let r := { r with pass2 := r.pass2 ++ [u.col] }
        let s := s.putBlk r
        some (if r.complete then
            s.wrLosses p m 144 row0 ((List.range n).map fun i => lockLoss d (r.rowAt i) (ign i))
          else s)
    else none
  | none => none

/-! ## Top-k records (R193, R194) -/

/-- A value kept as the upper 24 bits of binary32: 15 fraction bits, nearest even. -/
def fp24 : FpFmt := ⟨15, 127, 23, 0x7F7FFF, some 0x7F8000, some 0x7FC000⟩
def keep24 (w : Word) : Word := w32 ((fp24.enc false (fl w)).1 * 256)

/-- The record of a row from its folded state. -/
def recordOf (mb row k : Nat) (crec : Word) (x : RowAcc) : TopkRec :=
  let t := nth ⟨0, 0, 0, 0, 0⟩ x.terms 0
  let lzt := fadd t.mt (flog2 t.zt)
  let es := (byIndex x.kept).map fun e => (e.1, keep24 (fsub (fmul crec e.2) lzt))
  let tail := fsub fOne (es.foldl (fun a e => fadd a (fexp2 e.2)) 0)
  { mb := mb, row := row, k := k, nf := x.nf, tclamp := flt tail 0, tau := fmaxw 0 tail, lzt := lzt,
    crec := crec, entries := es }

/-- Space of every row block of a CG_LOGIT on its home dies (R183): the segments needed on a die. -/
def State.recNeed (s : State) (p mb : Nat) (bs : List Nat) (d : Nat) : Nat :=
  count (fun b => s.homeFor p mb b == some d) bs * s.recSegs p d

/-- Record space reserved, where it is free (R194). -/
def State.reserve (s : State) (p cid mb cols : Nat) (bs : List Nat) : State :=
  if s.sprue.reserved.contains (p, cid) then s
  else
    let new := bs.filter fun b => (s.blk? true p mb b).isNone
    if s.recNeed p mb new 0 ≤ s.freeSegs p 0 ∧ s.recNeed p mb new 1 ≤ s.freeSegs p 1 then
      let s := s.setSprue { s.sprue with reserved := s.sprue.reserved ++ [(p, cid)] }
      new.foldl (fun s b => s.putBlk (.fresh p ((s.homeFor p mb b).getD 0) mb b cid cols true)) s
    else s

/-- Admission of a top-k unit: partial folded, records formed with the last column block. -/
def State.admitTopk (s : State) (die p : Nat) (u : LogitUnit) : Option State :=
  match s.blk? true p u.mb u.blk with
  | some r =>
    let w := s.win p die
    if s.sprue.reserved.contains (p, u.cid) ∧ r.die = die ∧ !r.pass1 ∧ u.col < r.cols ∧
        (u.col = r.next ∨ (r.next < u.col ∧ u.col ≤ r.next + w ∧ r.parts.length < w)) then
      let c := termC (s.trec p)
      let K := s.topkK p
      let ys := u.data.map fun t =>
        let x := termPartial c false t []
        ({ terms := [{ x with ms := 0, zs := 0, a := 0 }], ce := none, nf := t.any fun v => !fIsFin v,
           kept := keepTop K ((List.range t.length).map fun e => (u.col * 256 + e, nth 0 t e)) } : RowAcc)
      let bad := (u.data.map (count fun v => !fIsFin v)).foldl (· + ·) 0
      let r := r.join [false] K u.col ys
      let r := if r.pass1 then { r with
          recs := (List.range r.rows.length).map fun i =>
            recordOf u.mb (u.blk * 512 + i) K c (nth emptyAcc r.rows i), parts := [] } else r
      some ((s.nfCount die p bad).putBlk { r with nonfin := r.nonfin + bad })
    else none
  | none => none

/-! ## CG_LOGIT and its units (R97, R184) -/

/-- Tasks of a CG_LOGIT, one unit each: M-tiles of 512 rows and column blocks of Nw entries (R90, R97). -/
def clTiles (m : List Byte) : Nat := cdiv (fld m 60 4) 512
def clNw (m : List Byte) : Nat := tileNw (tref m 112).fmt
def clCols (m : List Byte) : Nat := fld m 64 4 / clNw m
/-- Grid position of the tile that takes unit (i, j) (R90). -/
def clPos (m : List Byte) (i j : Nat) : Nat := i % fld m 49 1 * fld m 50 1 + j % fld m 50 1

/-- What task (i, j) reads, and what the tasks of a grid position read. -/
def clRanges (m : List Byte) (i j : Nat) : List Range :=
  let x := tref m 80
  let K := fld m 68 4
  x.block false ((List.range (min 512 (x.rows - 512 * i))).map (512 * i + ·)) 0 K ++
    (tref m 112).block false ((List.range (clNw m)).map (clNw m * j + ·)) 0 K
def clUses (m : List Byte) (pos : Nat) : List Range :=
  (List.range (clTiles m)).flatMap fun i => (List.range (clCols m)).flatMap fun j =>
    if clPos m i j = pos then clRanges m i j else []

/-- Units of the command that are through or waiting. -/
def State.unitGone (s : State) (p c i j : Nat) : Bool :=
  s.sprue.sent.contains [p, c, i, j] ||
    s.sprue.waiting.any fun u => u.part == p && u.cid == c && u.i == i && u.j == j

/-- Halves of a column block that a unit of column j delivers (R184). -/
def unitKeys (p mb blk nw j : Nat) : List (List Nat) :=
  (if nw = 256 then [0, 1] else [j % 2]).map fun h => [p, mb, blk, j * nw / 256, h]

/-- A CG_LOGIT ends with a status; its waiting units are not delivered, nor counted as deliveries. -/
def State.endLogit (s : State) (p c status : Nat) : State :=
  let n := count (fun e => nth 0 e 0 == p && nth 0 e 1 == c) s.sprue.sent
  let us := match s.cmd? p c with | some k => k.units | none => []
  let s := s.setSprue { s.sprue with
    waiting := s.sprue.waiting.filter fun u => !(u.part == p && u.cid == c),
    deliv := ((s.sprue.waiting.filter fun u => u.part == p && u.cid == c).flatMap fun u =>
      unitKeys p u.mb u.blk u.nw u.j).foldl List.erase s.sprue.deliv,
    sent := s.sprue.sent.filter fun e => !(nth 0 e 0 == p && nth 0 e 1 == c) }
  s.modCmd p c fun k => { k with
    out := some { Compl.of status with
      nstat := s.nstatOf us, detail := if status = 2 then 18 else 0, result := leBytes 4 n } }

/-- CG_LOGIT: its accesses are checked, and it completes once every unit is delivered. -/
def execCgLogit (p c : Nat) (s : State) : Host.Outcome State Fault Refusal :=
  match s.cmd? p c with
  | some k =>
    if k.opcode = 0x281 ∧ k.phase = .running ∧ k.out = none ∧ s.cmdLive k ∧ s.unhalted k ∧ (s.part p).st ≠ .faulted then
      match s.unitAccess p true (gridUses k.units (clUses k.msg)) with
      | some t => .next t
      | none =>
        if clTiles k.msg * clCols k.msg ≤
            count (fun e => nth 0 e 0 == p && nth 0 e 1 == c) s.sprue.sent then
          .next ((s.endLogit p c 0).gemmPos k.units (fld k.msg 49 1) (fld k.msg 50 1) (clTiles k.msg)
            (clCols k.msg) (cdiv (fld k.msg 68 4) 256))
        else .next s
    else .next s
  | none => .next s

/-- A tile offers unit (i, j), in its order of tasks and while one of its two banks is free; the Sprue
checks it (R90, R97, R184, R194). -/
def execLogitUnitOffer (p c i j : Nat) (s : State) : Host.Outcome State Fault Refusal :=
  match s.cmd? p c with
  | some k =>
    let m := k.msg
    let pos := clPos m i j
    let u := gridAt k.units pos
    let earlier := (List.range (j + 1)).all fun j' =>
      (List.range (clTiles m)).all fun i' =>
        clPos m i' j' ≠ pos || (j' == j && decide (i ≤ i')) || s.unitGone p c i' j'
    let held := count (fun (w : LogitUnit) => w.part == p && w.cid == c && clPos m w.i w.j == pos)
      s.sprue.waiting
    if k.opcode = 0x281 ∧ k.phase = .running ∧ k.out = none ∧ s.cmdLive k ∧ s.unhalted k ∧ s.passesOk k ∧
        (s.part p).st ≠ .faulted ∧ i < clTiles m ∧ j < clCols m ∧ !s.unitGone p c i j ∧ earlier ∧ held < 2 then
      match s.unitAccess p true [(u, clRanges m i j)] with
      | some t => .next t
      | none =>
        let mb := fld m 52 4
        let first := fld m 72 4 + 512 * i
        let blk := first / 512
        let nw := clNw m
        let col := j * nw / 256
        let keys := unitKeys p mb blk nw j
        let before := (keys.map fun k => count (· == k) s.sprue.deliv).foldl max 0
        let bs := (List.range (clTiles m)).map (fld m 72 4 / 512 + ·)
        let n := min 512 (fld m 60 4 - 512 * i)
        let x := tref m 80
        let w := tref m 112
        let sums := product 32 ((List.range n).map fun r => s.rdRow p x (512 * i + r))
          ((List.range nw).map fun q => s.rdRow p w (nw * j + q)) (fun _ _ => .zero)
        let s := s.modUnit u fun y => { y with
          seq := { y.seq with nstat := y.seq.nstat ||| w32 (flagsOf sums) } }
        if fld m 72 4 % 512 ≠ 0 then .next (s.endLogit p c 2)
        else if mb < s.doneMb p then .next (s.endLogit p c 3)
        else if !s.topk p ∧ 2 ≤ before then .next (s.endLogit p c 3)
        else if s.topk p ∧ !s.sprue.reserved.contains (p, c) ∧
            (s.afterIntake p 0 < s.recNeed p mb bs 0 ∨ s.afterIntake p 1 < s.recNeed p mb bs 1) then
          .next (s.endLogit p c 4)
        else
          let s := if s.topk p then s.reserve p c mb (fld m 64 4 / 256) bs else s
          let unit : LogitUnit :=
            { part := p, cid := c, die := dieOfUnit u, mb := mb, blk := blk, col := col, nrows := n,
              pass := before + 1, i := i, j := j, nw := nw, data := sums.map fun r => r.map (·.v) }
          .next (s.setSprue { s.sprue with
            waiting := s.sprue.waiting ++ [unit],
            deliv := (s.sprue.deliv.filter fun e =>
              !(nth 0 e 0 == p && decide (nth 0 e 1 < s.doneMb p))) ++ (if s.topk p then [] else keys) })
    else .next s
  | none => .next s

/-- What admission of a whole column block comes to, where Table 9.2 lets it in. -/
def State.admitUnit (s : State) (die p : Nat) (u : LogitUnit) : Option State :=
  if s.topk p then
    match s.cmd? p u.cid with
    | some k => (s.reserve p u.cid u.mb (fld k.msg 64 4 / 256)
        ((List.range (clTiles k.msg)).map (fld k.msg 72 4 / 512 + ·))).admitTopk die p u
    | none => none
  else
    match s.coverOf p u.mb u.blk with
    | some k =>
      if s.homeOf p (bits (fld k.msg 52 1) 2 1) u.blk = some die then
        (if u.pass = 1 then s.admitPass1 die p k u else s.admitPass2 die p k u)
      else none
    | none => none

/-- The half of the same column block that is in. -/
def State.otherHalf (s : State) (u : LogitUnit) : Option LogitUnit :=
  s.sprue.halves.find? fun v => v.part == u.part && v.mb == u.mb && v.blk == u.blk && v.col == u.col && v.pass == u.pass
/-- Both halves as one unit. -/
def LogitUnit.with (u v : LogitUnit) : LogitUnit :=
  let (a, b) := if u.j % 2 = 0 then (u, v) else (v, u)
  { u with data := List.zipWith (· ++ ·) a.data b.data }
/-- Intake entries of a die in use: each holds one half (R182). -/
def State.intakeOcc (s : State) (p die : Nat) : Nat :=
  count (fun u => u.part == p && s.homeFor p u.mb u.blk == some die) s.sprue.halves

/-- The home Sprue admits a waiting unit whose conditions hold (R185): also while its tile finishes for a save, not
once the tile is saved (R98). A unit of 128 entries waits in its entry for the other half of its column block
(DESIGN CHOICE, log 52). -/
def execSprueUnitAdmit (die p mb b j : Nat) (s : State) : Host.Outcome State Fault Refusal :=
  match s.sprue.waiting.find? fun u => u.part == p && u.mb == mb && u.blk == b && u.j == j with
  | some u =>
    let held : Bool := match s.cmd? p u.cid with
      | some k => !(k.phase == .running || k.phase == .saving)
      | none => false
    let free : Bool := decide (s.intakeOcc p die < s.intake p die)
    if !s.live die ∨ (s.part p).st = .faulted ∨ s.intake p die = 0 ∨ 16 < s.intake p die ∨ held then .next s
    else
      let r : Option State :=
        if u.nw = 256 then (if free then s.admitUnit die p u else none)
        else
          match s.otherHalf u with
          | some v => (s.setSprue { s.sprue with halves := s.sprue.halves.erase v }).admitUnit die p (u.with v)
          | none =>
            if free ∧ (s.admitUnit die p u).isSome then
              some (s.setSprue { s.sprue with halves := s.sprue.halves ++ [u] })
            else none
      match r with
      | some t =>
        if (t.part p).st = .faulted then .next t
        else
          let t := t.setSprue { t.sprue with
            waiting := t.sprue.waiting.erase u, sent := t.sprue.sent ++ [[p, u.cid, u.i, u.j]] }
          let t := t.count32 .sprue die (0x5C + 0x20 * p) 1
          .next (if u.die = die then t else t.count64 .sprue u.die 0x144 (u.nrows * u.nw * 4))
      | none => .next s
  | none => .next s

/-! ## SP_LOSS and SP_FEAT -/

/-- The completion of a Sprue command (R192, Table 15.4). -/
def sprueDone (losses : List Word) (active oob nf : Nat) (tclamp : Bool) : Compl :=
  { Compl.ok with
    cflags := (if nf = 0 then 0 else cfNF) + (if active = 0 then cfEMPTY else 0) +
      (if tclamp then cfTCLAMP else 0),
    result := leBytes 4 (losses.foldl fadd 0).toNat ++ leBytes 4 active ++ leBytes 4 oob ++ leBytes 4 nf }

/-- Rows that count of a command, and labels out of range. -/
def State.activeRows (s : State) (p a n rows : Nat) : List Nat × Nat :=
  let lab (i : Nat) := s.labelOf p a i
  ((List.range rows).filter fun i => !ignored (lab i) n,
   count (fun i => match lab i with | some l => decide (n ≤ l ∧ l ≠ 0xFFFFFFFF) | none => false)
     (List.range rows))

/-- Student side of one row against its record (R195): loss, gradient and the clamp. -/
def topkRow (d : List Byte) (rec' : TopkRec) (s : List Word) (label : Option Nat) (N : Nat) :
    Word × List Word × Bool :=
  let c := rec'.crec
  let blocks := List.range (N / 256)
  let st (j : Nat) : RowAcc :=
    let v := (s.drop (256 * j)).take 256
    { rowPartial d N j v v label with
      terms := [{ termPartial c false v v with mt := 0, zt := 0, a := 0 }] }
  let acc := blocks.foldl (fun (a : Option RowAcc) j =>
    some (match a with | none => st j | some x => x.fold [false] 0 (st j))) none
  let x := acc.getD emptyAcc
  let t := nth ⟨0, 0, 0, 0, 0⟩ x.terms 0
  let small : Word := f32 (Fl.one.scale2 (-24))
  let cs (i : Nat) : Word := fmul c (nth 0 s i)
  let zk := rec'.entries.foldl (fun a e => fadd a (fexp2 (fsub (cs e.1) t.ms))) 0
  let lzs := fadd t.ms (flog2 t.zs)
  let r0 := fsub fOne (fmul zk (frecip t.zs))
  let r := fmaxw small r0
  let tau' := fmaxw small rec'.tau
  let clamp := flt r0 small || flt rec'.tau small
  let lr := flog2 r
  let lt := flog2 tau'
  let lp (i : Nat) : Word := fsub (cs i) lzs
  let klF := fadd (rec'.entries.foldl (fun a e => fadd a (fmul (fexp2 e.2) (fsub e.2 (lp e.1)))) 0)
    (fmul rec'.tau (fsub lt lr))
  let klR := fadd (rec'.entries.foldl
      (fun a e => fadd a (fmul (fexp2 (lp e.1)) (fsub (lp e.1) e.2))) 0)
    (fmul r (fsub lr lt))
  let kl (k : Nat) : Word := if dRev d k then klR else klF
  let ce := x.ce.map ceEnd
  let loss := lossOf d ((List.range (dTerms d)).map kl) (match ce with | some e => e.2 | none => 0)
  let grad := (List.range N).map fun i =>
    let p := fexp2 (lp i)
    let kept := rec'.entries.find? fun e => e.1 == i
    let g := (List.range (dTerms d)).map fun k =>
      let T := dT d k
      match kept with
      | some e => if dRev d k then gRev T p (lp i) e.2 (kl k) else gFwd T p (fexp2 e.2)
      | none =>
        if dRev d k then gRev T p (lp i) (fsub (fadd lt (lp i)) lr) (kl k)
        else fmul (fmul T p) (fsub fOne (fmul rec'.tau (frecip r)))
    let gce := match ce with
      | some e => fsub (fexp2 (fsub (fmul cLOG2E (nth 0 s i)) e.1)) (if label = some i then fOne else 0)
      | none => 0
    gradOf d g gce
  (loss, grad, clamp)

/-- SP_LOSS in lock-step: complete once every row block is (R189). -/
def State.spLossLock (s : State) (p : Nat) (k : Cmd) : State :=
  let m := k.msg
  let bs := rowBlocks (lFirst m) (lRows m)
  let blks := bs.filterMap fun b => s.blk? false p (lMb m) b
  if blks.length = bs.length ∧ blks.all (fun r => r.complete && s.live r.die) then
    let (act, oob) := s.activeRows p (fld m 136 8) (lCols m) (lRows m)
    let row (i : Nat) : RowAcc := match blks[i / 512]? with | some r => r.rowAt (i % 512) | none => emptyAcc
    let losses := act.map fun i => lockLoss k.data (row i) false
    let nf := (blks.map (·.nonfin)).foldl (· + ·) 0
    let s := s.setSprueBlks (s.sprue.blks.filter fun r =>
      !(r.part == p && !r.teacherSide && !r.stateOnly && r.mb == lMb m && bs.contains r.blk))
    s.modCmd p k.cid fun k => { k with out := some (sprueDone losses act.length oob nf false) }
  else s

/-- What a row block of the top-k student side or of feature mode came to: row, loss (none where ignored), gradient,
non-finite elements and the clamp. -/
structure RowOut where
  loss : Option Word
  grad : List Word
  bad : Nat
  clamp : Bool
  deriving DecidableEq, Repr

/-- Row block b of a command in one state slot, opened where its home slice has a segment left, then done in the next
step: gradients and row losses are written, and what it came to is kept (Table 9.1, R195, R196). -/
def State.slotStep (s : State) (p : Nat) (k : Cmd) (b die grad loss lab n : Nat) (ranges : List Range)
    (row : State → Nat → RowOut) : State :=
  let row0 := b * 512 - lFirst k.msg
  match s.slot? p k.cid b with
  | none =>
    if 1 ≤ s.freeSegs p die then
      s.putBlk { RowBlk.fresh p die (lMb k.msg) b k.cid 0 false with stateOnly := true }
    else s
  | some r =>
    match s.tagAccess p ranges with
    | some t => t
    | none =>
      let outs := (List.range n).map fun i => row s (row0 + i)
      let oob := count (fun i => match s.labelOf p (fld k.msg lab 8) (row0 + i) with
        | some l => k.opcode == 0x300 && decide (lCols k.msg ≤ l ∧ l ≠ 0xFFFFFFFF)
        | none => false) (List.range n)
      let s := forN n s fun i s =>
        match outs[i]? with
        | some o => s.wrPart p (tref k.msg grad) (row0 + i) 0 o.grad
        | none => s
      let s := s.wrLosses p k.msg loss row0 (outs.map fun o => o.loss.getD 0)
      let bad := (outs.map (·.bad)).foldl (· + ·) 0
      (s.nfCount die p bad).putBlk { r with
        rowLoss := outs.map (·.loss), oob := oob, clamp := outs.any (·.clamp), nonfin := r.nonfin + bad }

/-- The command completes once all its row blocks are done. -/
def State.slotsDone (s : State) (p : Nat) (k : Cmd) : State :=
  let bs := rowBlocks (lFirst k.msg) (lRows k.msg)
  let blks := bs.filterMap fun b => s.slot? p k.cid b
  if blks.length = bs.length ∧ blks.all (fun r => !r.rowLoss.isEmpty && s.live r.die) then
    let act := blks.flatMap fun r => r.rowLoss.filterMap id
    let s := s.setSprueBlks (s.sprue.blks.filter fun r => !(r.stateOnly && r.part == p && r.cid == k.cid))
    s.modCmd p k.cid fun k => { k with
      out := some (sprueDone act act.length ((blks.map (·.oob)).foldl (· + ·) 0)
        ((blks.map (·.nonfin)).foldl (· + ·) 0) (blks.any (·.clamp))) }
  else s

/-- The student side of a row of a top-k SP_LOSS (R192, R195). -/
def State.topkOut (s : State) (p : Nat) (k : Cmd) (recs : List TopkRec) (i : Nat) : RowOut :=
  let m := k.msg
  let N := lCols m
  let lab := s.labelOf p (fld m 136 8) i
  let sv := s.rdPart p (tref m 72) i 0 N
  let bad := count (fun v => !fIsFin v) sv
  if ignored lab N then ⟨none, List.replicate N 0, 0, false⟩
  else
    match recs[i % 512]? with
    | some r =>
      if r.nf ∨ bad ≠ 0 then ⟨some fNaN, List.replicate N fNaN, bad, false⟩
      else let q := topkRow k.data r sv lab N; ⟨some q.1, q.2.1, 0, q.2.2⟩
    | none => ⟨some fNaN, List.replicate N fNaN, 0, false⟩

/-- SP_LOSS in top-k mode: a row block whose records are complete goes through both passes, its records are freed, and
the next follows (R194, R195). -/
def State.spLossTopk (s : State) (p : Nat) (k : Cmd) : State :=
  let m := k.msg
  let next := (rowBlocks (lFirst m) (lRows m)).findSome? fun b =>
    match s.blk? true p (lMb m) b, s.slot? p k.cid b with
    | some t, some r => if t.pass1 ∧ r.rowLoss.isEmpty ∧ s.live t.die then some (b, t) else none
    | some t, none => if t.pass1 ∧ s.live t.die then some (b, t) else none
    | none, _ => none
  match next with
  | some (b, t) =>
    let row0 := b * 512 - lFirst m
    let n := blkRows m b
    let rs := (tref m 72).rowsAt false row0 n ++ (tref m 104).rowsAt true row0 n ++
      vecAt (fld m 136 8) row0 n false ++ vecAt (fld m 144 8) row0 n true
    let s := s.slotStep p k b t.die 104 144 136 n rs fun s i => s.topkOut p k t.recs i
    match s.slot? p k.cid b with
    | some r =>
      if r.rowLoss.isEmpty then s
      else
        let s := s.putBlk { r with nonfin := r.nonfin + t.nonfin }
        (s.setSprueBlks (s.sprue.blks.filter fun x =>
          !(x.teacherSide && x.part == p && x.mb == lMb m && x.blk == b))).slotsDone p k
    | none => s
  | none => s

/-- A started Sprue command without an outcome; row blocks of a die in SAFE do not proceed (R377). -/
def State.sprueRow (s : State) (p c op : Nat) (f : Cmd → State) : Host.Outcome State Fault Refusal :=
  match s.cmd? p c with
  | some k =>
    if k.opcode = op ∧ k.phase = .running ∧ k.out = none ∧ s.dev.state = .ready ∧
        (s.part p).st ≠ .faulted then .next (f k)
    else .next s
  | none => .next s

/-- SP_LOSS (R197). -/
def execSpLoss (p c : Nat) (s : State) : Host.Outcome State Fault Refusal :=
  s.sprueRow p c 0x300 fun k => if s.topk p then s.spLossTopk p k else s.spLossLock p k

/-- A row of SP_FEAT (R192, R196). -/
def State.featOut (s : State) (p : Nat) (m : List Byte) (i : Nat) : RowOut :=
  let D := lCols m
  let w := w32 (fld m 68 4)
  let G := w32 (fld m 72 4)
  let rD := frecip (f32 (.ofInt D))
  let ys := s.rdPart p (tref m 80) i 0 D
  let yt := s.rdPart p (tref m 112) i 0 D
  let bad := count (fun v => !fIsFin v) (ys ++ yt)
  if s.labelOf p (fld m 176 8) i = some 0xFFFFFFFF then ⟨none, List.replicate D 0, 0, false⟩
  else if bad ≠ 0 then ⟨some fNaN, List.replicate D fNaN, bad, false⟩
  else
    let ds := (List.zip ys yt).map fun e => fsub e.1 e.2
    ⟨some (fmul G (fmul (fmul w rD) (rsum (ds.map fun x => fmul x x)))),
     ds.map fun x => fmul G (fmul (fmul (fmul 0x40000000#32 w) rD) x), 0, false⟩

/-- SP_FEAT (R196): one row block after another, each in a state slot of its home slice. -/
def State.spFeatFx (s : State) (p : Nat) (k : Cmd) : State :=
  let m := k.msg
  let home (b : Nat) : Nat := (s.homeOf p (bits (fld m 52 1) 2 1) b).getD 0
  let next := (rowBlocks (lFirst m) (lRows m)).find? fun b => s.live (home b) && match s.slot? p k.cid b with
    | some r => r.rowLoss.isEmpty
    | none => true
  match next with
  | some b =>
    let row0 := b * 512 - lFirst m
    let n := blkRows m b
    let rs := (tref m 80).rowsAt false row0 n ++ (tref m 112).rowsAt false row0 n ++
      (tref m 144).rowsAt true row0 n ++ vecAt (fld m 176 8) row0 n false ++ vecAt (fld m 184 8) row0 n true
    (s.slotStep p k b (home b) 144 184 176 n rs
      fun s i => s.featOut p m i).slotsDone p k
  | none => s.slotsDone p k

/-- SP_FEAT (R196). -/
def execSpFeat (p c : Nat) (s : State) : Host.Outcome State Fault Refusal :=
  s.sprueRow p c 0x301 fun k => s.spFeatFx p k

/-- An uncorrectable Sprue SRAM error (R202). -/
def execSprueSramUe (die seg : Nat) (s : State) : Host.Outcome State Fault Refusal :=
  let s := s.evErr .sprue die 1 1 0xF seg 0
  .next (s.faultMany ((List.range 8).filter fun p =>
    decide (s.sliceBase p die ≤ seg ∧ seg < s.sliceBase p die + s.sliceCount p die)) .sprue die 1)

end Sys2Proof.Machine
end

