-- ==== Sys2Proof/Machine/Fumarole.lean ====
section
/-! DEFINITION. Fumarole (chapter 10): stack queues and slots (R214 to R217), the commands of Table 10.3
(R218 to R232), units that fail (R235). -/
namespace Sys2Proof.Machine

/-! ## Units and slots -/

/-- Channels of the granules of some ranges of a stack. -/
def chansOf (rs : List Range) : List Nat :=
  (rs.flatMap fun r => if r.2.1 = 0 then [] else
    let g := r.1 % 2 ^ 37 / 2 ^ 21
    let n := min 32 (((r.1 + r.2.1 - 1) % 2 ^ 37) / 2 ^ 21 - g + 1)
    (List.range n).map fun i => (g + i) % 32).eraseDups

/-- The unit of a channel is in service (R234, R235). -/
def State.fumOk (s : State) (n c : Nat) : Bool :=
  let u := n * 64 + s.fumUnit n c
  !s.maps.chGone.contains (n * 32 + c) && !s.stk.fumDown.contains u && !s.maps.fumHeld.contains u

/-- A partition owns a slot of a stack (R215). -/
def State.ownsSlot (s : State) (n p : Nat) : Bool :=
  (List.range 32).any fun i => s.slotOwner n i == p

def fumKey (n p : Nat) : Nat := n * 8 + p
def State.fumQ (s : State) (n p : Nat) : List Nat := tget [] s.stk.fumQ (fumKey n p)
def State.setFumQ (s : State) (n p : Nat) (q : List Nat) : State :=
  s.setStk { s.stk with fumQ := tput [] s.stk.fumQ (fumKey n p) q }
/-- The started commands of a queue, in issue order. -/
def State.fumRun (s : State) (n p : Nat) : List Nat := tget [] s.stk.fumRun (fumKey n p)
def State.setFumRun (s : State) (n p : Nat) (l : List Nat) : State :=
  s.setStk { s.stk with fumRun := tput [] s.stk.fumRun (fumKey n p) l }

/-- A command leaves its stack queue; its units turn idle. -/
def State.fumLeave (s : State) (n p c : Nat) : State :=
  (s.setFumQ n p ((s.fumQ n p).filter (· ≠ c))).setFumRun n p ((s.fumRun n p).filter (· ≠ c))

/-- CMD_ERR in the page of a unit, with the tag of the command refused or aborted there. -/
def State.fumErr (s : State) (n c p : Nat) (tag : Word) : State :=
  s.evErr .fum (n * 64 + s.fumUnit n c) 4 4 p tag.toNat 0

/-- NSTAT of units (FUM_Sn_Uc.NSTAT). -/
def State.setFumNstat (s : State) (n : Nat) (cs : List Nat) (v : Nat) : State :=
  cs.foldl (fun s c => s.setPg .fum (n * 64 + s.fumUnit n c) 0x48 v) s

/-! ## Forms (Table 15.9, R218) -/

def fmStack (m : List Byte) : Nat := fld m 48 1
/-- Window base of a stack. -/
def stackBase (n : Nat) : Nat := n * 2 ^ 37

/-- A range lies in granules of stack n. -/
def inStack (n a len : Nat) : Bool :=
  a / 2 ^ 37 == n && decide (a % 2 ^ 37 + len ≤ granCount * 2 ^ 21)
def TRef.inStack (t : TRef) (n : Nat) (out : Bool) : Bool :=
  Sys2Proof.Machine.inStack n t.addr t.span &&
    (!t.usesScale out || Sys2Proof.Machine.inStack n t.scale t.scaleSpan)

/-- Bytes 48 to 51. -/
def fmCommon (m : List Byte) : List (Option Nat) :=
  [need 48 (decide (fmStack m ≤ 11)), need 49 (fld m 49 1 == 0), need 50 (decide (fld m 50 2 < granCount))]

def fmUpdateForm (m : List Byte) : Option Nat :=
  firstOf (fmCommon m ++ [need 64 (inStack (fmStack m) (fld m 64 8) (2 * fld m 52 4)),
    need 72 (inStack (fmStack m) (fld m 72 8) 64)])

def fmAmaxBlocks (m : List Byte) : Nat :=
  if bit (fld m 52 1) 0 then cdiv (tref m 56).rows 128 else 1
def fmAmaxForm (m : List Byte) : Option Nat :=
  let t := tref m 56
  let n := fmStack m
  firstOf (fmCommon m ++ [need 52 (decide (fld m 52 1 ≤ 1)),
    need 53 (fld m 53 1 == 3 || fld m 53 1 == 4 || fld m 53 1 == 0xA || fld m 53 1 == 0xE),
    need 54 (zeros m 54 56), need 56 (t.inStack n false),
    t.check 56 t.rows t.cols (fun f => decide (f ≤ 4)) false,
    need 88 (inStack n (fld m 88 8) (4 * fmAmaxBlocks m)),
    need 96 (inStack n (fld m 96 8) (fmAmaxBlocks m))])

/-- FM_GATHER. Class 4 goes with any format: only 0x0D of Dross is refused, and the bytes move as they are (DESIGN
CHOICE, log 55). -/
def fmGatherForm (m : List Byte) : Option Nat :=
  let n := fmStack m
  let rb := fld m 52 4
  firstOf (fmCommon m ++ [need 52 (decide (1 ≤ rb ∧ rb ≤ 65536)),
    need 64 (inStack n (fld m 64 8) (rb * fld m 60 4)),
    need 72 (inStack n (fld m 72 8) (4 * fld m 56 4)),
    need 80 (inStack n (fld m 80 8) (rb * fld m 56 4)),
    need 88 (decide (fld m 88 1 ≤ 4)), need 89 (zeros m 89 96)])

/-- FM_EF: the operands that a form uses, with their bytes for COUNT elements. -/
def fmEfUses (m : List Byte) : List (Nat × Nat × Bool) :=
  let f := fld m 52 1
  let k := fld m 56 8
  let gb := if fld m 53 1 = 0 then 4 * k else 2 * k
  if f = 0 then [(64, 2 * k, false), (72, gb, false), (80, 4 * k, true)]
  else if f = 1 then [(64, 2 * k, true), (80, 4 * k, false), (88, 4 * k, false)]
  else [(64, 2 * k, false), (64, 2 * k, true), (72, gb, false), (96, cdiv k 8, true),
    (104, 2 * cdiv k 256, true)]
def fmEfForm (m : List Byte) : Option Nat :=
  let us := fmEfUses m
  firstOf (fmCommon m ++ [need 52 (decide (fld m 52 1 ≤ 2)), need 53 (fld m 53 1 == 0 || fld m 53 1 == 2),
    need 54 (zeros m 54 56)] ++
    [64, 72, 80, 88, 96, 104].map fun o =>
      match us.find? fun u => u.1 == o with
      | some u => need o (inStack (fmStack m) (fld m o 8) u.2.1)
      | none => need o (fld m o 8 == 0))

/-- Head dimension and page size of R230. -/
def kvPage (hkv d : Nat) : Nat := cdiv (64 + 2 * hkv * 64 * (d + 1)) 64 * 64
def fmAttnForm (m : List Byte) : Option Nat :=
  let n := fmStack m
  let nq := fld m 52 1
  let hq := fld m 53 1
  let hkv := fld m 54 1
  let d := 2 ^ fld m 55 1
  let t := tref m 64
  firstOf (fmCommon m ++ [need 52 (decide (1 ≤ nq ∧ nq ≤ 64)), need 53 (decide (1 ≤ hq)),
    need 54 (decide (1 ≤ hkv ∧ hq % hkv = 0)),
    need 56 (decide (fld m 56 1 ≤ 3)), need 57 (fp8 (fld m 57 1)), need 58 (zeros m 58 60),
    need 60 (decide (fld m 60 4 ≤ 32768)), need 64 (t.inStack n false), t.check 64 nq (hq * d) fp8 false,
    need 86 (t.smode == 1), need 96 (inStack n (fld m 96 8) (4 * fld m 60 4)),
    need 104 (inStack n (fld m 104 8) (6 * nq)),
    need 112 (!bit (fld m 56 1) 0 || inStack n (fld m 112 8) (2 * nq * hkv * (d + 1))),
    need 120 (inStack n (fld m 120 8) (nq * 2 * hq * d)),
    need 128 (!bit (fld m 56 1) 1 || inStack n (fld m 128 8) (nq * 4 * hq))])

/-- FM_GEMV: weights are E4M3, E5M2, MXFP8 or BF16; vectors E4M3 or E5M2, or BF16 beside BF16. -/
def fmGemvForm (m : List Byte) : Option Nat :=
  let n := fmStack m
  let b := fld m 52 1
  let wf := fld m 72 1
  let xf := fld m 73 1
  let yf := fld m 74 1
  firstOf (fmCommon m ++ [need 52 (decide (1 ≤ b ∧ b ≤ 16)), need 53 (zeros m 53 56),
    need 64 (inStack n (fld m 64 8) (8 * fld m 56 4)),
    need 72 (fp8 wf || wf == 5 || wf == 6 || wf == 2), need 73 (if wf = 2 then xf == 2 else fp8 xf),
    need 74 (yf == 0 || yf == 2), need 75 (!fp8 wf || fld m 75 1 ≠ 0x80),
    need 76 (!fp8 xf || fld m 76 1 ≠ 0x80), need 77 (zeros m 77 80),
    need 80 (inStack n (fld m 80 8) (b * packed xf (fld m 60 4))), need 88 (inStack n (fld m 88 8) 0)])

/-- Form of a Fumarole command. -/
def fmForm (op : Nat) (m : List Byte) : Option Nat :=
  match op with
  | 0x380 => fmUpdateForm m | 0x381 => fmAmaxForm m | 0x382 => fmGatherForm m
  | 0x383 => fmEfForm m | 0x384 => fmAttnForm m | _ => fmGemvForm m
def isFm (op : Nat) : Bool := decide (0x380 ≤ op ∧ op ≤ 0x385)

/-! ## Flasks and the parameter record (Tables 10.4, 10.5) -/

/-- Granules of an FM_UPDATE's flask list. -/
def State.flasksOf (s : State) (p : Nat) (m : List Byte) : List Nat :=
  s.list16 p (fld m 64 8) (fld m 52 4)
def flaskAddr (n g : Nat) : Nat := stackBase n + g * 2 ^ 21
/-- Header of a flask. -/
def State.flaskHdr (s : State) (p n g : Nat) : List Byte := s.rd p (flaskAddr n g + 0xA0800) 64
/-- The conditions of R220 on a header. -/
def hdrOk (h : List Byte) : Bool :=
  let c := fld h 12 4
  decide (1 ≤ c ∧ c ≤ 131072 ∧ fld h 4 8 + c ≤ 2 ^ 48) && zeros h 16 64
/-- The conditions of R220 on a parameter record. -/
def parOk (r : List Byte) : Bool :=
  decide (fld r 0 4 ≤ 2) && (List.range 10).all (fun i => fIsFin (w32 (fld r (4 + 4 * i) 4))) &&
    zeros r 44 64

/-! ## Pages and nodes of FM_ATTN (R229 to R231) -/

def pwValid (w : Nat) : Bool := bit w 31
def pwStack (w : Nat) : Nat := bits w 30 27
def pwGran (w : Nat) : Nat := bits w 26 11
def pwSlot (w : Nat) : Nat := bits w 10 6
def pwFill (w : Nat) : Nat := bits w 5 0 + 1
/-- A page word names a page slot of stack n. -/
def pwOk (n P w : Nat) : Bool :=
  pwStack w == n && decide (pwGran w < granCount ∧ pwSlot w < min 32 (2 ^ 21 / P))
def pwAddr (n P w : Nat) : Nat := stackBase n + pwGran w * 2 ^ 21 + pwSlot w * P

/-- A node entry: page word, slot byte, parent byte, in six bytes (DEDUCED, log 18). -/
structure Node where
  page : Nat
  slot : Nat
  parent : Nat

/-! ## Records read at the start (R422)

A command keeps what its start read: FM_UPDATE a byte for the fate of its step (0 applied, 1 skipped, 2 not sealed yet),
the parameter record, the flask list and the headers; FM_GATHER its index vector; FM_ATTN page table and node list;
FM_GEMV its slab list. -/

/-- The fate of step n as the step state records it. -/
def StepSt.fate (x : StepSt) (n : Nat) : Nat := if x.last = n then b2n x.skip else 2

def State.fmRecord (s : State) (p op : Nat) (m : List Byte) : List Byte :=
  match op with
  | 0x380 =>
    leBytes 1 ((s.part p).step.fate (fld m 56 8)) ++ s.rd p (fld m 72 8) 64 ++ s.rd p (fld m 64 8) (2 * fld m 52 4) ++
      (s.flasksOf p m).flatMap fun g =>
        if (s.gran (granKey (fmStack m) g)).owner = p then s.flaskHdr p (fmStack m) g else List.replicate 64 0
  | 0x382 => s.rd p (fld m 72 8) (4 * fld m 56 4)
  | 0x384 => s.rd p (fld m 96 8) (4 * fld m 60 4) ++ s.rd p (fld m 104 8) (6 * fld m 52 1)
  | 0x385 => s.rd p (fld m 64 8) (8 * fld m 56 4)
  | _ => []

/-- The flasks of a kept FM_UPDATE record with their headers, and its parameter record. -/
def updFlasks (m d : List Byte) : List (Nat × List Byte) :=
  let nf := fld m 52 4
  (List.range nf).map fun i => (fld d (65 + 2 * i) 2, slice d (65 + 2 * nf + 64 * i) 64)
def updRecord (d : List Byte) : List Byte := slice d 1 64
def gatherIdx (m d : List Byte) : List Nat := (List.range (fld m 56 4)).map fun i => fld d (4 * i) 4
def fmPages (m d : List Byte) : List Nat := (List.range (fld m 60 4)).map fun i => fld d (4 * i) 4
def fmNodes (m d : List Byte) : List Node :=
  (List.range (fld m 52 1)).map fun i =>
    let o := 4 * fld m 60 4 + 6 * i
    ⟨fld d o 4, fld d (o + 4) 1, fld d (o + 5) 1⟩

/-- The conditions of R229 and R231 on the page table and the node list: the field that names the
record at fault. -/
def fmAttnRec (m d : List Byte) : Option Nat :=
  let n := fmStack m
  let P := kvPage (fld m 54 1) (2 ^ fld m 55 1)
  let nodes := fmNodes m d
  firstOf [need 96 ((fmPages m d).all fun w => !pwValid w || pwOk n P w),
    need 104 ((List.range nodes.length).all fun i =>
      let e := nth ⟨0, 0, 0⟩ nodes i
      (!pwValid e.page || pwOk n P e.page) && decide (e.slot < 64) &&
        (e.parent == 0xFF || decide (e.parent < i)))]

/-! ## Slabs of FM_GEMV (R232) -/

structure Slab where
  gran : Nat
  row : Nat
  rows : Nat

def fmSlabs (m d : List Byte) : List Slab :=
  (List.range (fld m 56 4)).map fun i => ⟨fld d (8 * i) 2, fld d (8 * i + 2) 2, fld d (8 * i + 4) 2⟩
/-- Bytes of a slab: its rows, then an MX scale plane. -/
def slabBytes (wf K r : Nat) : Nat := r * packed wf K + (if isMx wf then r * scalePitch K else 0)
/-- Rows of y: one past the last row that a slab names (DEDUCED, log 18). -/
def slabTop (l : List Slab) : Nat := l.foldl (fun a e => max a (e.row + e.rows)) 0

def fmGemvRec (m d : List Byte) : Option Nat :=
  let l := fmSlabs m d
  firstOf [need 64 (((List.range (fld m 56 4)).all fun i => fld d (8 * i + 6) 2 == 0) &&
      l.all fun e => decide (e.gran < granCount ∧ slabBytes (fld m 72 1) (fld m 60 4) e.rows ≤ 2 ^ 21)),
    need 88 (inStack (fmStack m) (fld m 88 8) (fld m 52 1 * packed (fld m 74 1) (slabTop l)))]

/-! ## Ranges -/

/-- Records that a command's start reads. -/
def fmRecRanges (op : Nat) (m : List Byte) : List Range :=
  match op with
  | 0x380 => [(fld m 64 8, 2 * fld m 52 4, false), (fld m 72 8, 64, false)]
  | 0x382 => [(fld m 72 8, 4 * fld m 56 4, false)]
  | 0x384 => [(fld m 96 8, 4 * fld m 60 4, false), (fld m 104 8, 6 * fld m 52 1, false)]
  | 0x385 => [(fld m 64 8, 8 * fld m 56 4, false)]
  | _ => []

/-- Every range that a command reads or writes, its kept records at hand: of an FM_GATHER table the selected rows only. -/
def fmRanges (op : Nat) (m d : List Byte) : List Range :=
  let n := fmStack m
  fmRecRanges op m ++
  match op with
  | 0x380 => (updFlasks m d).flatMap fun e =>
      [(flaskAddr n e.1, 2 ^ 21, false), (flaskAddr n e.1, 0xA0800, true)]
  | 0x381 => (tref m 56).ranges false ++
      [(fld m 88 8, 4 * fmAmaxBlocks m, true), (fld m 96 8, fmAmaxBlocks m, true)]
  | 0x382 =>
      let rb := fld m 52 4
      ((gatherIdx m d).filter (· < fld m 60 4)).map (fun i => (fld m 64 8 + rb * i, rb, false)) ++
        [(fld m 80 8, rb * fld m 56 4, true)]
  | 0x383 => (fmEfUses m).map fun u => (fld m u.1 8, u.2.1, u.2.2)
  | 0x384 =>
      let hq := fld m 53 1
      let hkv := fld m 54 1
      let dim := 2 ^ fld m 55 1
      let nq := fld m 52 1
      let P := kvPage hkv dim
      let w := bit (fld m 56 1) 0
      (tref m 64).ranges false ++
        ((fmPages m d).filter pwValid).map (fun e => (pwAddr n P e, P, false)) ++
        ((fmNodes m d).filter fun e => pwValid e.page).flatMap (fun e =>
          (pwAddr n P e.page, P, false) :: (if w then [(pwAddr n P e.page, P, true)] else [])) ++
        (if w then [(fld m 112 8, 2 * nq * hkv * (dim + 1), false)] else []) ++
        [(fld m 120 8, nq * 2 * hq * dim, true)] ++
        (if bit (fld m 56 1) 1 then [(fld m 128 8, nq * 4 * hq, true)] else [])
  | _ =>
      let l := fmSlabs m d
      l.map (fun e => (flaskAddr n e.gran, slabBytes (fld m 72 1) (fld m 60 4) e.rows, false)) ++
        [(fld m 80 8, fld m 52 1 * packed (fld m 73 1) (fld m 60 4), false),
         (fld m 88 8, fld m 52 1 * packed (fld m 74 1) (slabTop l), true)]

/-- Channels whose units a command needs: those that hold what it reads or that process a node, and its home unit's. -/
def fmChans (op : Nat) (m d : List Byte) : List Nat :=
  (fld m 50 2 % 32 :: chansOf ((fmRanges op m d).filter fun r => !r.2.2)).eraseDups
def Cmd.fmChans (k : Cmd) : List Nat := Sys2Proof.Machine.fmChans k.opcode k.msg k.data

/-! ## Who is served in the present slot (R215) -/

/-- What the seal says of a started update: whether its step is skipped, nothing while it is not sealed (R221). -/
def State.updFate (s : State) (p : Nat) (k : Cmd) : Option Bool :=
  let x := if fld k.data 0 1 = 2 then (s.part p).step.fate (fld k.msg 56 8) else fld k.data 0 1
  if x = 2 then none else some (x == 1)
/-- A read of a checkpoint stands on a flask of an update (R242). -/
def State.readMarked (s : State) (k : Cmd) : Bool :=
  (updFlasks k.msg k.data).any fun e => s.stk.readMarks.any fun r => r.1 == granKey (fmStack k.msg) e.1
/-- A started command waits for a seal or for a checkpoint's read of a flask. -/
def State.fmWaits (s : State) (p : Nat) (k : Cmd) : Bool :=
  k.opcode == 0x380 && (match s.updFate p k with
    | some true => false
    | some false => s.readMarked k
    | none => true)

/-- The started command of a partition on the unit of a channel: one at most, since a command starts where the ones
before it use other units (R217). -/
def State.fumOn (s : State) (n p c : Nat) : Option Cmd :=
  (s.fumRun n p).findSome? fun i => (s.cmd? p i).filter fun k => k.fmChans.contains c

/-- A partition has ready work on the unit of a channel. -/
def State.fumReady (s : State) (n p c : Nat) : Bool :=
  match s.fumOn n p c with
  | some k => k.out.isNone && !s.fmWaits p k
  | none => false

/-- Partition that the unit of a channel serves in the present slot, 0xF for none: the slot's owner, or, where that is
in shared mode without ready work there, the first shared-mode partition with ready work there among the owners of the
slots that follow in the frame. -/
def State.fumServed (s : State) (n c : Nat) : Nat :=
  let o := s.curPart n
  if 8 ≤ o ∨ s.fumReady n o c ∨ (s.part o).strict then o
  else
    ((((List.range 32).drop ((s.stack n).slot + 1)).map (s.slotOwner n)).find? fun p =>
      decide (p < 8) && !(s.part p).strict && s.fumReady n p c).getD o

/-- Every unit that a command needs serves its partition in the present slot. -/
def State.fumTurn (s : State) (n p : Nat) (cs : List Nat) : Bool := cs.all fun c => s.fumServed n c == p

/-! ## Start from the stack queue (R217, R220, R221, R235) -/

/-- The refusal that a Fumarole command's start meets, in the order of R422; an update of an abandoned
step is cancelled (R245). -/
def State.fmStart (s : State) (p op : Nat) (m : List Byte) : Option Compl :=
  let n := fmStack m
  let d := s.fmRecord p op m
  let form : Option Nat :=
    if op = 0x380 then
      firstOf [need 64 (nodup (s.flasksOf p m) && (updFlasks m d).all fun e =>
          decide (e.1 < granCount) && ((s.gran (granKey n e.1)).owner != p || hdrOk e.2)),
        need 72 (parOk (updRecord d))]
    else if op = 0x384 then fmAttnRec m d
    else if op = 0x385 then fmGemvRec m d
    else none
  match form with
  | some o => some (.malformed o)
  | none =>
    if op = 0x380 ∧ (s.flasksOf p m).any fun g => (s.gran (granKey n g)).owner ≠ p then some (.of 5)
    else if op = 0x380 ∧ (s.part p).step.broken ∧ (s.part p).step.brokenAt ≤ fld m 56 8 then some (.of 8)
    else if op = 0x380 ∧ fld m 56 8 < (s.part p).step.last then some (.of 3)
    else if !s.ownsSlot n p ∨ (fmChans op m d).any fun c => !s.fumOk n c then some (.of 4)
    else none

/-- A command that is refused or ends: its outcome, and its place in the queue freed. A refusal shows
in the page of the home unit (DEDUCED, log 18). -/
def State.fmEnd (s : State) (n p c : Nat) (o : Compl) : State :=
  let s := match s.cmd? p c with
    | some k => if o.status = 0 then s else s.fumErr n (fld k.msg 50 2 % 32) p k.tag
    | none => s
  (s.modCmd p c fun k => { k with out := some o }).fumLeave n p c

/-- Update marks of an FM_UPDATE on the flasks of its list (R242): as the list stands at its acceptance, then as its start
has read it. -/
def State.updateMarks (s : State) (p cid n : Nat) (gs : List Nat) : State :=
  s.setStk { s.stk with
    marks := (s.stk.marks.filter fun x => !(x.2.1 == p && x.2.2 == cid)) ++ gs.map fun g => (granKey n g, p, cid) }

/-- A started command of a stack queue is aborted on its units (R217, R238). -/
def State.fumAbortCmd (s : State) (n p i : Nat) : State :=
  match s.cmd? p i with
  | some k =>
    if k.out = none then
      k.fmChans.foldl (fun s c => (s.fumErr n c p k.tag).movesBytes .fum (n * 64 + s.fumUnit n c)) s
    else s
  | none => s
/-- Every started command of a stack queue is aborted. -/
def State.fumAbort (s : State) (n p : Nat) : State := (s.fumRun n p).foldl (fun s i => s.fumAbortCmd n p i) s

/-- The first command of a stack queue that has not started. -/
def State.fumNext (s : State) (n p : Nat) : Option Nat := (s.fumQ n p).find? fun c => !(s.fumRun n p).contains c
/-- No command before it is still at work on a unit that a command needs. -/
def State.fumFree (s : State) (n p : Nat) (cs : List Nat) : Bool := cs.all fun c => (s.fumOn n p c).isNone

/-- The next command of a stack queue starts, on all the units it needs at once, as soon as the ones before it have
finished there (R217). -/
def execFmQueueStart (stack p : Nat) (s : State) : Host.Outcome State Fault Refusal :=
  match s.fumNext stack p with
  | some c =>
    match s.cmd? p c with
    | some k =>
      if k.phase = .running ∧ k.out = none ∧ s.live (dieOfStack stack) ∧ (s.part p).st ≠ .faulted ∧
          s.fumFree stack p (Sys2Proof.Machine.fmChans k.opcode k.msg (s.fmRecord p k.opcode k.msg)) then
        match s.tagAccess p (fmRecRanges k.opcode k.msg) with
        | some t => .next t
        | none =>
          match s.fmStart p k.opcode k.msg with
          | some o => .next (s.fmEnd stack p c o)
          | none =>
            let d := s.fmRecord p k.opcode k.msg
            let s := (s.modCmd p c fun k => { k with start := s.now, data := d }).setFumRun stack p (s.fumRun stack p ++ [c])
            let s := if k.opcode = 0x380 then s.updateMarks p c stack ((updFlasks k.msg d).map (·.1)) else s
            .next (s.setFumNstat stack (Sys2Proof.Machine.fmChans k.opcode k.msg d) 0)
      else .next s
    | none => .next s
  | none => .next s

/-- A started Fumarole command at work in an open slot that its partition may use: access checks, its
effect, its outcome and NSTAT. -/
def State.fmRow (s : State) (p c op : Nat) (f : Cmd → State → State × Compl) :
    Host.Outcome State Fault Refusal :=
  match s.cmd? p c with
  | some k =>
    let n := fmStack k.msg
    let cs := k.fmChans
    if k.opcode = op ∧ k.phase = .running ∧ k.out = none ∧ (s.fumRun n p).contains c ∧ s.live (dieOfStack n) ∧
        (s.part p).st ≠ .faulted ∧ s.fumTurn n p cs then
      -- an update of a skipped step touches no byte (R221)
      match s.tagAccess p (if op = 0x380 ∧ s.updFate p k = some true then [] else fmRanges op k.msg k.data) with
      | some t => .next t
      | none =>
        let (t, o) := f k s
        .next ((t.setFumNstat n cs o.nstat.toNat).fmEnd n p c o)
    else .next s
  | none => .next s

/-! ## FM_UPDATE (R222 to R225) -/

/-- Words of the parameter record. -/
structure UpdPar where
  kind : Nat
  lr : Word
  wd : Word
  gs : Word
  b1 : Word
  omb1 : Word
  b2 : Word
  omb2 : Word
  eps : Word
  c1 : Word
  sc2 : Word
  key : Nat
  stepWord : Nat
  tensor : Nat

/-- One element: the new H and D, the moments to encode, and where it is counted. -/
structure UpdOut where
  h : Nat
  d : Nat
  m : Word
  r : Word
  wLoss : Loss
  /-- NF under (class, format), where R223 left the element alone. -/
  nf : Option (Nat × Nat)

/-- The optimiser step on one element (R222, R223). -/
def updElem (q : UpdPar) (e h d : Nat) (g0 m0 r0 : Word) : UpdOut :=
  let keep (x : Nat × Nat) : UpdOut := ⟨h, d, m0, r0, .none, some x⟩
  let g := fmul g0 q.gs
  let w := f32 (master h d)
  let decay := fmul q.wd w
  let (m, r, vv, delta) :=
    if q.kind = 0 then
      let m := fadd (fmul q.b1 m0) (fmul q.omb1 g)
      let vv := fadd (fmul q.b2 (fmul r0 r0)) (fmul q.omb2 (fmul g g))
      let r := fsqrt vv
      let den := fadd (fmul r q.sc2) q.eps
      (m, r, vv, fmul (fneg q.lr) (fadd (fmul (fmul m q.c1) (frecip den)) decay))
    else
      let m := fadd (fmul q.b1 m0) g
      let t := if q.kind = 1 then m else fadd g (fmul q.b1 m)
      (m, r0, 0, fmul (fneg q.lr) (fadd t decay))
  let v := fadd w delta
  if !(bf16.dec h).isFin then keep (0, 2)
  else if !fIsFin g then keep (2, 0)
  else if !fIsFin vv then keep (3, 0xC)
  else if !fIsFin v then keep (3, 0xB)
  else
    let x := split (fl v) q.key q.stepWord q.tensor e
    ⟨x.1, x.2.1, m, r, x.2.2, none⟩

/-- One block of up to 128 elements of a flask at `base` (R224). -/
def State.updBlock (s : State) (p die base : Nat) (q : UpdPar) (e0 cnt b : Nat) : State :=
  let n := min 128 (cnt - 128 * b)
  let i0 := 128 * b
  let xm := (s.rdU p (base + 0xA0000 + b) 1)
  let xr := (s.rdU p (base + 0xA0400 + b) 1)
  let outs := (List.range n).map fun j =>
    let i := i0 + j
    updElem q (e0 + i) (s.rdU p (base + 2 * i) 2) (s.rdU p (base + 0x40000 + i) 1)
      (s.rdW p (base + 0xC0000 + 4 * i))
      (f32 (m8s (s.rdU p (base + 0x60000 + i) 1) xm)) (f32 (m8r (s.rdU p (base + 0x80000 + i) 1) xr))
  let mo := encM8 false (outs.map fun o => fl o.m)
  let ro := encM8 true (outs.map fun o => fl o.r)
  let s := s.wr p (base + 2 * i0) (outs.flatMap fun o => leBytes 2 o.h)
  let s := s.wr p (base + 0x40000 + i0) (outs.flatMap fun o => leBytes 1 o.d)
  let s := s.wr p (base + 0x60000 + i0) (mo.2.flatMap fun c => leBytes 1 c.1)
  let s := s.wr p (base + 0xA0000 + b) (leBytes 1 mo.1)
  let s := if q.kind = 0 then
      (s.wr p (base + 0x80000 + i0) (ro.2.flatMap fun c => leBytes 1 c.1)).wr p (base + 0xA0400 + b)
        (leBytes 1 ro.1)
    else s
  let s := s.fhAdd die p 0 2 (Tally.of (outs.map (·.wLoss)))
  let s := s.fhAdd die p 3 0xB (Tally.of (mo.2.map (·.2)))
  let s := if q.kind = 0 then s.fhAdd die p 3 0xC (Tally.of (ro.2.map (·.2))) else s
  outs.foldl (fun s o => match o.nf with
    | some (c, f) => s.fhAdd die p c f ⟨0, 0, 1⟩
    | none => s) s

/-- Parameters of an FM_UPDATE for a flask's tensor. -/
def State.updPar (s : State) (p : Nat) (k : Cmd) (tensor : Nat) : UpdPar :=
  let r := updRecord k.data
  let w (o : Nat) : Word := w32 (fld r o 4)
  let st := (s.part p).step
  { kind := fld r 0 4, lr := w 4, wd := w 8, gs := w 12, b1 := w 16, omb1 := w 20, b2 := w 24,
    omb2 := w 28, eps := w 32, c1 := w 36, sc2 := w 40, key := st.seed.toNat,
    stepWord := (st.seedBase + fld k.msg 56 8) % 2 ^ 32, tensor := tensor }

/-- BYTES of the unit that updated a flask: Table 10.6 says what a full flask of ADAMW moves; what others move is open
(DESIGN CHOICE, log 30). -/
def State.updBytes (s : State) (n g kind cnt : Nat) : State :=
  let i := n * 64 + s.fumUnit n (g % 32)
  if kind = 0 ∧ cnt = 131072 then s.count64 .fum i 0x64 1839168 else s.movesBytes .fum i

/-- The update of a flask, its header as the start read it. -/
def State.updFlask (s : State) (p : Nat) (k : Cmd) (e : Nat × List Byte) : State :=
  let n := fmStack k.msg
  let q := s.updPar p k (fld e.2 0 4)
  let cnt := fld e.2 12 4
  (forN (cdiv cnt 128) (s.setStk { s.stk with updStep := tput 0 s.stk.updStep (granKey n e.1) (fld k.msg 56 8) })
    fun b s => s.updBlock p (dieOfStack n) (flaskAddr n e.1) q (fld e.2 4 8) cnt b).updBytes n e.1 q.kind cnt

/-- The update of every flask of the list, or none of a skipped step. -/
def fmUpdateFx (p : Nat) (k : Cmd) (s : State) : State × Compl :=
  if s.updFate p k = some true then (s, { Compl.ok with cflags := cfSKIPPED })
  else ((updFlasks k.msg k.data).foldl (fun s e => s.updFlask p k e) s, .ok)

/-- FM_UPDATE (R221, R222): it waits until its step is sealed and until no read mark stands on its
flasks (R242). -/
def execFmUpdate (p c : Nat) (s : State) : Host.Outcome State Fault Refusal :=
  match s.cmd? p c with
  | some k =>
    if s.updFate p k = none ∧ fld k.msg 56 8 < (s.part p).step.last then s.fmRow p c 0x380 fun _ s => (s, .of 3)
    else if k.opcode = 0x380 ∧ s.fmWaits p k then .next s
    else s.fmRow p c 0x380 (fmUpdateFx p)
  | none => .next s

/-- A step is sealed: its updates that have started keep its fate (R221, R244). -/
def Cmd.decide (step : Nat) (skip : Bool) (k : Cmd) : Cmd :=
  if k.opcode = 0x380 ∧ fld k.msg 56 8 = step ∧ fld k.data 0 1 = 2 then
    { k with data := lay k.data 0 (leBytes 1 (b2n skip)) }
  else k
def State.decideUpdates (s : State) (p step : Nat) (skip : Bool) : State :=
  s.modPart p fun q => { q with cmds := q.cmds.map (Cmd.decide step skip) }

/-- The end of an update or of a checkpoint read on a flask lifts its marks (R242): an update's when
the command has ended, a read's once its copy of the granule is written. -/
def execFlaskMarkRelease (p c stack g : Nat) (s : State) : Host.Outcome State Fault Refusal :=
  let key := granKey stack g
  let ended : Bool := match s.cmd? p c with | some k => k.out.isSome || k.phase == .answered | none => true
  if ended then
    .next (s.setStk { s.stk with
      marks := s.stk.marks.filter (· ≠ (key, p, c)),
      readMarks := s.stk.readMarks.filter (· ≠ (key, p, c)) })
  else .next s

/-! ## FM_AMAX, FM_GATHER, FM_EF (R226 to R228) -/

/-- σ of amax as an i8 code. -/
def sigCode (F : Nat) (am : Fl) : List Byte := leBytes 1 (wrap 8 (sigmaOf F am))

def fmAmaxFx (p : Nat) (k : Cmd) (s : State) : State × Compl :=
  let m := k.msg
  let t := tref m 56
  let rows := s.rdTensor p t
  let blocks := if bit (fld m 52 1) 0 then chunksOf 128 rows else [rows]
  let F := scaleF (fld m 53 1)
  let bad := (rows.map (count fun v => !v.isFin)).foldl (· + ·) 0
  let s' := forN blocks.length s fun i s =>
    let am := amaxFin ((blocks.getD i []).flatMap id)
    (s.wr p (fld m 88 8 + 4 * i) (leBytes 4 (f32 am).toNat)).wr p (fld m 96 8 + i) (sigCode F am)
  (s', { Compl.ok with result := leBytes 8 bad })

/-- FM_AMAX (R226). -/
def execFmAmax (p c : Nat) (s : State) : Host.Outcome State Fault Refusal := s.fmRow p c 0x381 (fmAmaxFx p)

def fmGatherFx (p : Nat) (k : Cmd) (s : State) : State × Compl :=
  let m := k.msg
  let rb := fld m 52 4
  let vl := fld m 60 4
  let idx := gatherIdx m k.data
  let oob := count (fun i => decide (vl ≤ i)) idx
  let t := forN idx.length s fun r t =>
    let i := nth 0 idx r
    t.wr p (fld m 80 8 + r * rb)
      (if i < vl then t.rd p (fld m 64 8 + i * rb) rb else List.replicate rb 0)
  (t, { Compl.ok with nstat := w32 (if oob = 0 then 0 else nsPERMOOB), result := leBytes 4 oob })

/-- FM_GATHER (R227). -/
def execFmGather (p c : Nat) (s : State) : Host.Outcome State Fault Refusal :=
  s.fmRow p c 0x382 (fmGatherFx p)

/-- An element of G as f32. -/
def State.efG (s : State) (p : Nat) (m : List Byte) (i : Nat) : Word :=
  if fld m 53 1 = 0 then s.rdW p (fld m 72 8 + 4 * i)
  else f32 (bf16.dec (s.rdU p (fld m 72 8 + 2 * i) 2))
/-- An element of the error memory as f32. -/
def State.efE (s : State) (p : Nat) (m : List Byte) (i : Nat) : Word :=
  f32 (bf16.dec (s.rdU p (fld m 64 8 + 2 * i) 2))

/-- Writes BF16 elements of E from `i0`, counted in class 3. -/
def State.efPut (s : State) (p die : Nat) (m : List Byte) (i0 : Nat) (ws : List Word) : State :=
  let cs := ws.map fun w => bf16.enc false (fl w)
  (s.wr p (fld m 64 8 + 2 * i0) (packCodes 2 (cs.map (·.1)))).fhAdd die p 3 2 (Tally.of (cs.map (·.2)))

/-- One block of the one-bit form. The scale of a block whose sources hold a NaN is the positive one, whatever their
signs (DESIGN CHOICE, log 55). -/
def State.efBlock (s : State) (p die : Nat) (m : List Byte) (b : Nat) : State :=
  let i0 := 256 * b
  let n := min 256 (fld m 56 8 - i0)
  let xs := (List.range n).map fun j => fadd (s.efE p m (i0 + j)) (s.efG p m (i0 + j))
  let bad := xs.any fun x => !fIsFin x
  let pos := xs.map fun x => !(fl x).sign
  let sc := if bad then (0x7FC0, Loss.nf)
    else bf16.enc false (fl (fmul (rsum (xs.map fabs)) (frecip (f32 (.ofInt n)))))
  let bytes := (chunksOf 8 pos).map fun c =>
    BitVec.ofNat 8 ((List.range 8).foldl (fun a i => a + b2n (c.getD i false) * 2 ^ i) 0)
  let s := s.wr p (fld m 96 8 + 32 * b) bytes
  let s := (s.wr p (fld m 104 8 + 2 * b) (leBytes 2 sc.1)).fhAdd die p 2 2 (Tally.of [sc.2])
  if bad then s
  else
    let S := f32 (bf16.dec sc.1)
    s.efPut p die m i0 ((List.range n).map fun j =>
      fsub (xs.getD j 0) (if pos.getD j false then S else fneg S))

def fmEfFx (p : Nat) (k : Cmd) (s : State) : State × Compl :=
  let m := k.msg
  let n := fld m 56 8
  let die := dieOfStack (fmStack m)
  let t :=
    if fld m 52 1 = 0 then
      let xs := (List.range n).map fun i => fadd (s.efE p m i) (s.efG p m i)
      s.wr p (fld m 80 8) (xs.flatMap fun x => leBytes 4 x.toNat)
    else if fld m 52 1 = 1 then
      s.efPut p die m 0 ((List.range n).map fun i =>
        fsub (s.rdW p (fld m 80 8 + 4 * i)) (s.rdW p (fld m 88 8 + 4 * i)))
    else forN (cdiv n 256) s fun b s => s.efBlock p die m b
  (t, .ok)

/-- FM_EF (R228). -/
def execFmEf (p c : Nat) (s : State) : Host.Outcome State Fault Refusal := s.fmRow p c 0x383 (fmEfFx p)

/-! ## FM_ATTN (R231) -/

/-- Geometry of the KV pages of a command. -/
structure KvGeo where
  hkv : Nat
  d : Nat
  fmt : Nat

/-- Offsets in a page of the K or V vector and of its σ, for head h and physical token slot t. -/
def KvGeo.vec (g : KvGeo) (v : Bool) (h t : Nat) : Nat :=
  64 + (if v then g.hkv * 64 * g.d else 0) + (h * 64 + t) * g.d
def KvGeo.sig (g : KvGeo) (v : Bool) (h t : Nat) : Nat :=
  64 + 2 * g.hkv * 64 * g.d + (if v then g.hkv * 64 else 0) + h * 64 + t

/-- A K or V vector as values. -/
def State.kvVec (s : State) (p : Nat) (g : KvGeo) (page : Nat) (v : Bool) (h t : Nat) : List Fl :=
  decRow g.fmt (s.rd p (page + g.vec v h t) g.d) [] (sext 8 (s.rdU p (page + g.sig v h t) 1)) g.d

/-- Physical slots of the tokens that count in a page; a map byte above 63 names an undefined slot. -/
def State.kvSlots (s : State) (p page fill : Nat) : List Nat :=
  (List.range fill).map fun j =>
    let b := s.rdU p (page + j) 1
    if b < 64 then b else (Config.freeWord (s.fresh + page + j)).toNat % 64

/-- Node j is active for query row i: it is i or an ancestor of i. -/
def nodeActive (nodes : List Node) (j : Nat) : Nat → Nat → Bool
  | 0, _ => false
  | n + 1, i =>
    i == j || (let a := (nth ⟨0, 0, 0xFF⟩ nodes i).parent
      a != 0xFF && nodeActive nodes j n a)

/-- The fold of two partials of one row and head; a maximum of −∞ in the first gives it the factor 0. -/
def AttnRow.fold (x y : AttnRow) : AttnRow :=
  let m := fmaxw x.m y.m
  let ax := if x.m = fNegInf then 0 else fexp2 (fsub x.m m)
  let ay := fexp2 (fsub y.m m)
  ⟨m, fadd (fmul x.l ax) (fmul y.l ay),
    (List.range x.o.length).map fun k => fadd (fmul (x.o.getD k 0) ax) (fmul (y.o.getD k 0) ay)⟩

/-- A block of tokens (page address and physical slot) folded into the rows of one head; the products of inactive pairs
are formed as well (R94). -/
def State.kvBlock (s : State) (p : Nat) (g : KvGeo) (c : Word) (h : Nat) (qs : List (List Fl))
    (toks : List (Nat × Nat)) (active : Nat → Nat → Bool) (st : List AttnRow × Nat) :
    List AttnRow × Nat :=
  let ks := toks.map fun t => s.kvVec p g t.1 false h t.2
  let vs := toks.map fun t => s.kvVec p g t.1 true h t.2
  let rows := (List.range qs.length).map fun r => (List.range toks.length).map fun j =>
    (active r j, dot 32 (qs.getD r []) (ks.getD j []))
  let fl1 := rows.foldl (fun a r => r.foldl (fun a (x : Bool × RSum) => a ||| x.2.flags) a) 0
  let (st', f2) := attnBlock c (transpose g.d vs)
    (rows.map fun r => r.map fun (x : Bool × RSum) => if x.1 then some x.2.v else none) st.1
  (st', st.2 ||| fl1 ||| f2)

/-- The rows of query head h over all channels, and the flags. -/
def State.kvHead (s : State) (p n : Nat) (g : KvGeo) (P log2d h hk : Nat) (q : List (List Fl))
    (pages : List Nat) (nodes : List Node) : List AttnRow × Nat :=
  let c := attnC log2d
  let qs := q.map (headOf g.d h)
  let parts := (List.range 32).filterMap fun ch =>
    let pg := pages.filter fun w => pwValid w && pwGran w % 32 == ch
    let nd := (List.range nodes.length).filter fun j =>
      let e := nth ⟨0, 0, 0xFF⟩ nodes j
      pwValid e.page && pwGran e.page % 32 == ch
    if pg.isEmpty ∧ nd.isEmpty then none
    else
      let st := pg.foldl (fun st w =>
        let a := pwAddr n P w
        s.kvBlock p g c hk qs ((s.kvSlots p a (pwFill w)).map fun t => (a, t)) (fun _ _ => true) st)
        (qs.map fun _ => AttnRow.init g.d, 0)
      some (if nd.isEmpty then st else
        s.kvBlock p g c hk qs (nd.map fun j =>
            let e := nth ⟨0, 0, 0xFF⟩ nodes j
            (pwAddr n P e.page, e.slot))
          (fun r j => nodeActive nodes (nth 0 nd j) 65 r) st)
  match parts with
  | [] => (qs.map fun _ => AttnRow.init g.d, 0)
  | x :: r => r.foldl (fun (a : List AttnRow × Nat) y =>
      ((List.range a.1.length).map fun i =>
        AttnRow.fold (a.1.getD i (.init g.d)) (y.1.getD i (.init g.d)), a.2 ||| y.2)) x

/-- The new K and V rows and their σ, written into the node slots. NEWKV holds K [n_q][H_kv][d], V
likewise, then the σ of K and of V [n_q][H_kv] (DEDUCED, log 18). -/
def State.kvWrite (s : State) (p n : Nat) (g : KvGeo) (P src : Nat) (nodes : List Node) : State :=
  let nq := nodes.length
  let plane := nq * g.hkv
  forN nq s fun i s =>
    let e := nth ⟨0, 0, 0xFF⟩ nodes i
    if pwValid e.page then
      let a := pwAddr n P e.page
      forN g.hkv s fun h s => [false, true].foldl (fun s v =>
        let o := if v then plane * g.d else 0
        let s := s.wr p (a + g.vec v h e.slot) (s.rd p (src + o + (i * g.hkv + h) * g.d) g.d)
        s.wr p (a + g.sig v h e.slot)
          (s.rd p (src + 2 * plane * g.d + (if v then plane else 0) + i * g.hkv + h) 1)) s
    else s

def fmAttnFx (p : Nat) (k : Cmd) (s : State) : State × Compl :=
  let m := k.msg
  let n := fmStack m
  let hq := fld m 53 1
  let log2d := fld m 55 1
  let g : KvGeo := ⟨fld m 54 1, 2 ^ log2d, fld m 57 1⟩
  let P := kvPage g.hkv g.d
  let nodes := fmNodes m k.data
  let pages := fmPages m k.data
  let s := if bit (fld m 56 1) 0 then s.kvWrite p n g P (fld m 112 8) nodes else s
  let q := s.rdTensor p (tref m 64)
  let hs := (List.range hq).map fun h => s.kvHead p n g P log2d h (h / (hq / g.hkv)) q pages nodes
  let emp := hs.any fun h => h.1.any AttnRow.empty
  let flags := hs.foldl (fun a h => a ||| h.2) (if emp then nsEMPTY else 0)
  let out := (joinHeads q.length (hs.map fun h => h.1.map AttnRow.norm)).map fun r =>
    r.map fun w => bf16.enc false (fl w)
  let s := forN q.length s fun i s =>
    s.wr p (fld m 120 8 + i * 2 * hq * g.d) (packCodes 2 ((out.getD i []).map (·.1)))
  let s := s.fhAdd (dieOfStack n) p 1 2 (Tally.of (out.flatMap fun r => r.map (·.2)))
  let lse := joinHeads q.length (hs.map fun h => h.1.map fun x => [x.lse])
  let s := if bit (fld m 56 1) 1 then
      forN q.length s fun i s =>
        s.wr p (fld m 128 8 + i * 4 * hq) ((lse.getD i []).flatMap fun w => leBytes 4 w.toNat)
    else s
  -- the free values of undefined slots are numbered by address below the count
  (s.setFresh (s.fresh + 2 ^ 48), { Compl.ns flags with cflags := if emp then cfEMPTY else 0 })

/-- FM_ATTN (R231). -/
def execFmAttn (p c : Nat) (s : State) : Host.Outcome State Fault Refusal := s.fmRow p c 0x384 (fmAttnFx p)

/-! ## FM_GEMV (R232) -/

def fmGemvFx (p : Nat) (k : Cmd) (s : State) : State × Compl :=
  let m := k.msg
  let n := fmStack m
  let B := fld m 52 1
  let K := fld m 60 4
  let wf := fld m 72 1
  let xf := fld m 73 1
  let yf := fld m 74 1
  let slabs := fmSlabs m k.data
  let pitch := packed yf (slabTop slabs)
  let xs := (List.range B).map fun b =>
    decRow xf (s.rd p (fld m 80 8 + b * packed xf K) (rowBytes xf K)) []
      (if fp8 xf then sext 8 (fld m 76 1) else 0) K
  let outs := slabs.flatMap fun e => (List.range e.rows).flatMap fun r =>
    let base := flaskAddr n e.gran
    let sc := if isMx wf then
        s.rd p (base + e.rows * packed wf K + r * scalePitch K) (scalePitch K) else []
    let w := decRow wf (s.rd p (base + r * packed wf K) (rowBytes wf K)) sc
      (if fp8 wf then sext 8 (fld m 75 1) else 0) K
    (List.range B).map fun b => (e.row + r, b, dot (if wf = 2 then 16 else 32) w (xs.getD b []))
  let t := outs.foldl (fun s (o : Nat × Nat × RSum) =>
    let x := encElem yf false 0 (fl o.2.2.v)
    let w := fmtBits yf / 8
    (s.wr p (fld m 88 8 + o.2.1 * pitch + o.1 * w) (leBytes w x.1)).fhAdd (dieOfStack n) p 1 yf
      (if yf = 0 then Tally.of [] else Tally.of [x.2])) s
  let flags := outs.foldl (fun a (o : Nat × Nat × RSum) => a ||| o.2.2.flags) 0
  (t, { Compl.ns flags with cflags := if flags &&& nsEMPTY = 0 then 0 else cfEMPTY })

/-- FM_GEMV (R232). -/
def execFmGemv (p c : Nat) (s : State) : Host.Outcome State Fault Refusal := s.fmRow p c 0x385 (fmGemvFx p)

/-! ## Units (R215, R235, R238) -/

/-- Partitions with a command running on a unit of a stack. -/
def State.fumUsers (s : State) (n u : Nat) : List Nat :=
  (List.range 8).filter fun p => (List.range 32).any fun c => s.fumUnit n c == u && (s.fumOn n p c).isSome

/-- A unit goes out of service and the partitions running on it fault (R235, R238). -/
def State.unitEvent (s : State) (stack unit code : Nat) : State :=
  let i := stack * 64 + unit
  let ps := s.fumUsers stack unit
  let s := (s.evErr .stack stack 6 6 0xF unit 0).recordFail (.fum stack unit)
  (s.setStk { s.stk with
    fumDown := if s.stk.fumDown.contains i then s.stk.fumDown else s.stk.fumDown ++ [i] }).faultMany ps .fum i code

/-- An error in a unit's logic (1 UNIT_PAR, 2 BUF_UE) takes it out of service and faults the
partitions running on it; a corrected buffer error (3) is counted. -/
def execUnitFail (stack unit code : Nat) (s : State) : Host.Outcome State Fault Refusal :=
  let i := stack * 64 + unit
  if code = 3 then .next ((s.evSet .fum i 3).count16 .fum i 0x50 1)
  else if code = 1 ∨ code = 2 then
    .next ((s.evErr .fum i code code 0xF 0 0).unitEvent stack unit code)
  else .next s

/-- A slot ends: the units turn to the owner of the next slot of the frame (R215). -/
def execFumaroleSlotBoundary (stack : Nat) (s : State) : Host.Outcome State Fault Refusal :=
  .next (s.modStack stack fun x => { x with slot := (x.slot + 1) % 32 })

end Sys2Proof.Machine
end

