-- ==== Sys2Proof/Machine/Links.lean ====
section
/-! DEFINITION. Sending on the fabric (R352, R353, R355, R360 to R363): headers, routes, flits and
credits; ports that go down (R368); members lost (R273). -/
namespace Sys2Proof.Machine

/-! ## Messages (Tables 16.3, 16.4) -/

def State.devId (s : State) : Nat := s.fabric.devId

/-- A message header but for its CRC (Table 16.3). -/
def fabHead (ver vc opcode src dst spart dpart epoch tag len : Nat) : List Byte :=
  leBytes 1 ver ++ leBytes 1 vc ++ leBytes 2 opcode ++ leBytes 2 src ++ leBytes 2 dst ++
    leBytes 1 spart ++ leBytes 1 dpart ++ leBytes 1 32 ++ [0] ++ leBytes 4 len ++
    leBytes 4 epoch ++ leBytes 4 tag ++ [0, 0, 0, 0]

/-- A fabric message: header and body, with the CRC in place. -/
def fabBytes (ver vc opcode src dst spart dpart epoch tag : Nat) (body : List Byte) : List Byte :=
  let m := fabHead ver vc opcode src dst spart dpart epoch tag body.length ++ [0, 0, 0, 0] ++ body
  lay m 28 (leBytes 4 (crc32 m))

/-- The CRC of a message matches (R362). -/
def fabCrcOk (m : List Byte) : Bool := crc32 (lay m 28 [0, 0, 0, 0]) == fld m 28 4

/-- Body bytes that a Ladle message carries on the wire, as R277 counts them; messages of the trees
count none (DEDUCED, log 19). -/
def ldBytes : LdMsg → Nat
  | .seg m => m.w / 8 * m.sums.length + 4 * m.scales.length
  | .gseg m => 2 * m.vals.length
  | _ => 0

/-- Opcode of a Ladle message (Table 16.4). -/
def LdMsg.opcode : LdMsg → Nat
  | .preUp _ => 0x100 | .preDown _ => 0x101 | .seg _ => 0x102 | .gseg _ => 0x103 | .sealUp _ => 0x104
  | .sealDown _ => 0x105

/-- A Ladle message with its header: the epoch's version (R366), LENGTH as R277 counts the body, and a CRC that the
opaque body leaves open. -/
def ldMsg (ver src dst part epoch tag : Nat) (m : LdMsg) : FabMsg :=
  .ld (fabHead ver 1 m.opcode src dst part part epoch tag (ldBytes m) ++ leBytes 4 (Config.ladleCrc dst tag).toNat) m

/-- First 32 bytes of a message. -/
def FabMsg.head : FabMsg → List Byte
  | .raw b => b.take 32
  | .ld h _ => h
/-- Bytes of a message, header included. -/
def FabMsg.bytes : FabMsg → Nat
  | .raw b => b.length
  | .ld _ m => 32 + ldBytes m
def FabMsg.vc (m : FabMsg) : Nat := fld m.head 1 1
def FabMsg.opcode (m : FabMsg) : Nat := fld m.head 2 2
def FabMsg.src (m : FabMsg) : Nat := fld m.head 4 2
def FabMsg.dst (m : FabMsg) : Nat := fld m.head 6 2
/-- Partition that sent a message. -/
def FabMsg.part (m : FabMsg) : Nat := fld m.head 8 1
def FabMsg.tag (m : FabMsg) : Nat := fld m.head 20 4
/-- Source, destination, VC and TAG of a message. -/
def FabMsg.key (m : FabMsg) : EthKey := ⟨m.src, m.dst, m.vc, m.tag⟩
/-- A message of link initialisation. -/
def FabMsg.isLink (m : FabMsg) : Bool := m.opcode == 1 || m.opcode == 2

/-! ## Native transmission -/

/-- An Ethernet mode is selected, and the one of two halves (Table 16.1). -/
def State.isEth (s : State) (n : Nat) : Bool := bits (s.pg .port n 0x40) 1 0 ≠ 0
def State.isHalves (s : State) (n : Nat) : Bool := bits (s.pg .port n 0x40) 1 0 == 2

/-- Version of a link, which its messages carry (R362, R366): 0x23 before it is agreed; Ethernet carriage agrees none and
is of the device's own (DESIGN CHOICE, log 26). -/
def State.linkVer (s : State) (n : Nat) : Nat := if s.isEth n then 0x31 else max 0x23 (s.port n).ver

/-- The first message that waits on a virtual channel may go: a port in training sends those of link initialisation
alone. -/
def Port.ready (x : Port) (v : Nat) : Bool :=
  match tget [] x.txWait v with
  | e :: _ => x.st != .training || e.2.isLink
  | [] => false

/-- Sends one waiting flit of the lowest virtual channel that has a credit, while fewer than 256 are
unacknowledged (R353, R355). -/
def Port.txOne (x : Port) : Option (Nat × Port) :=
  if x.replay.length < 256 then
    match (List.range 3).find? fun v => tget 0 x.credits v ≠ 0 && x.ready v with
    | some v =>
      match tget [] x.txWait v with
      | (n, m) :: r =>
        let k := min n 244
        some (k, { x with
          replay := x.replay ++ [(x.txSeq, m)],
          txSeq := (x.txSeq + 1) % 1024,
          credits := tput 0 x.credits v (tget 0 x.credits v - 1),
          txWait := tput [] x.txWait v (if n ≤ 244 then r else (n - 244, m) :: r),
          tx := if n ≤ 244 then x.tx ++ [m] else x.tx })
      | [] => none
    | none => none
  else none

/-- Flits sent until nothing more can go; the payload bytes sent. -/
def Port.txAll : Nat → Port → Nat → Port × Nat
  | 0, x, b => (x, b)
  | n + 1, x, b =>
    match x.txOne with
    | some (k, y) => Port.txAll n y (b + k)
    | none => (x, b)

/-- A native port that carries traffic, or whose lanes have trained, sends what it may; a die that does not drive its
pins sends nothing (R399). -/
def State.txPump (s : State) (n : Nat) : State :=
  let x := s.port n
  if s.drives (dieOfPort n) ∧ (x.st = .up ∨ x.st = .handover ∨ (x.st = .training ∧ x.trained)) then
    let (y, b) := x.txAll 256 0
    (s.setPort n y).count64 .port n 0x70 b
  else s

/-- Bytes of a message in segments of at most ETH_SEG body bytes, each with the message header (R360). -/
def State.ethBytes (s : State) (n : Nat) (m : FabMsg) : Nat :=
  m.bytes + 32 * (cdiv (m.bytes - 32) (max 1 (s.pg .port n 0xBC)) - 1)

/-- A message, or a segment, leaves by an Ethernet port. -/
def State.ethPut (s : State) (n : Nat) (m : FabMsg) (bytes : Nat) : State :=
  if s.drives (dieOfPort n) then (s.modPort n fun x => { x with tx := x.tx ++ [m] }).count64 .port n 0x70 bytes else s

/-- A message handed to a port, and to a half of it: waiting flits on a native link; sent in segments and awaiting its
ACK on Ethernet, ACK messages themselves excepted (R360, R361). -/
def State.portSend (s : State) (n half : Nat) (m : FabMsg) : State :=
  if s.isEth n then
    (s.modPort n fun x => { x with
      ethOut := if m.opcode = 3 then x.ethOut else x.ethOut ++ [⟨0, half, m⟩] }).ethPut n m (s.ethBytes n m)
  else
    (s.modPort n fun x => { x with
      txWait := tput [] x.txWait m.vc (tget [] x.txWait m.vc ++ [(m.bytes, m)]) }).txPump n

/-! ## Routes (R363) -/

/-- Port and half that a die's route table names for a destination, where neither is down. -/
def State.routeOf (s : State) (d dst : Nat) : Option (Nat × Nat) :=
  let e := tget 0x1F s.fabric.routes (d * 65536 + dst)
  let n := bits e 4 0
  let h := if s.isHalves n then bits e 5 5 else 0
  if n < 16 ∧ (s.port n).st ≠ .down ∧ !(s.port n).halfGone.contains h then some (n, h) else none

/-- A message of this device goes out by a die's route table, made from the link's version and its TAG; false where there
is no route. -/
def State.fabSend (s : State) (d dst vc : Nat) (mk : Nat → Nat → FabMsg) : State × Bool :=
  match s.routeOf d dst with
  | some (n, h) =>
    let k := dst * 4 + vc
    let t := tget 0 s.fabric.tags k
    let s := s.setFabric { s.fabric with tags := tput 0 s.fabric.tags k ((t + 1) % 2 ^ 32) }
    (s.portSend n h (mk (s.linkVer n) t), true)
  | none => (s, false)

/-- NO_ROUTE to the source of a message, if a route back exists and the message is none itself. -/
def State.noRouteTo (s : State) (d : Nat) (m : FabMsg) : State :=
  let src := m.src
  if m.opcode = 0x12 ∨ src = s.devId then s
  else
    (s.fabSend d src 0 fun v t => .raw (fabBytes v 0 0x12 s.devId src 0xFF m.part 0 t
      (leBytes 2 m.dst ++ [0, 0] ++ leBytes 4 m.tag))).1

/-! ## Members heard and lost (R273, R366) -/

/-- Something has arrived from a device (R366). -/
def State.hear (s : State) (src : Nat) : State :=
  s.setFabric { s.fabric with heard := tput 0 s.fabric.heard src s.now }

/-- A device identifier is a member, other than this device, of a partition's epoch. -/
def State.isMember (s : State) (p dev : Nat) : Bool :=
  let l := (s.part p).ladle
  l.epoch ≠ 0 && l.members.contains dev && dev ≠ s.devId

/-- A member is counted lost, once in an epoch. -/
def State.memberLost (s : State) (p dev : Nat) : State :=
  let l := (s.part p).ladle
  if s.isMember p dev ∧ !l.lost.contains dev then
    let s := s.modPart p fun q => { q with ladle := { q.ladle with lost := q.ladle.lost ++ [dev] } }
    let s := (s.evErr .ladle 0 4 4 p dev 0).evErr .ladle 1 4 4 p dev 0
    s.vent p 0x800C p (leBytes 4 dev ++ leBytes 4 l.epoch ++ leBytes 8 s.now)
  else s

/-- No route for one of this device's own messages. -/
def State.lostRoute (s : State) (p dst : Nat) : State := if p < 8 then s.memberLost p dst else s

/-! ## Ports going down (R368) -/

/-- Partitions with a share at a port. -/
def State.portParts (s : State) (n : Nat) : List Nat :=
  (List.range 8).filter fun p => (s.part p).st != .empty && (s.part p).portShare n ≠ 0

/-- A port or a half of one has gone down: event and Vents, and messages discarded, each answered with NO_ROUTE where
R363 allows. -/
def State.portGone (s : State) (n reason : Nat) (gone : List FabMsg) : State :=
  let s := s.evErr .port n 2 reason 0xF 0 0
  let body := leBytes 1 n ++ leBytes 7 reason ++ leBytes 8 s.now
  let s := (8 :: s.portParts n).foldl (fun s r => s.vent r 0x8008 (ringPart r) body) s
  gone.foldl (fun s m =>
    if m.src = s.devId then s.lostRoute m.part m.dst else s.noRouteTo (dieOfPort n) m) s

/-- A port goes down with a reason: what its replay buffer holds and what waits for it is discarded. -/
def State.portDown (s : State) (n reason : Nat) : State :=
  let x := s.port n
  if x.st = .down then s
  else
    let gone := x.replay.map (·.2) ++ ((List.range 3).flatMap fun v => (tget [] x.txWait v).map (·.2)) ++
      x.ethOut.map (·.msg)
    let s := s.setPort n { x with
      st := .down, reason := reason, r224 := false, ver := 0, helloDone := false, peer := none,
      looped := 15, replay := [], txWait := [], credits := [], rx := [], segs := [], ethOut := [],
      discard := false, halfGone := [] }
    let s := s.setPg .port n 0x40 (setBits (s.pg .port n 0x40) 2 2 0)
    s.portGone n reason gone.eraseDups

/-- A half of a port goes down with REASON 1, and with the second half the port (R357). -/
def State.halfDown (s : State) (n h : Nat) : State :=
  let x := s.port n
  if x.halfGone.contains h then s
  else if !x.halfGone.isEmpty then s.portDown n 1
  else
    let mine (e : EthOut) : Bool := e.half == h
    let s' := s.setPort n { x with halfGone := [h], reason := 1, ethOut := x.ethOut.filter fun e => !mine e }
    s'.portGone n 1 ((x.ethOut.filter mine).map (·.msg))

end Sys2Proof.Machine
end

