-- ==== Sys2Proof/Machine/Ladle.lean ====
section
/-! DEFINITION. The Ladle (chapter 12): descriptors, the pre-pass, exact sums along chains, gathers,
epochs and lost members; the abandonment of a step (R245). -/
namespace Sys2Proof.Machine

/-! ## Steps (R240, R245) -/

/-- Step `step` is abandoned (R245): STEP_SEAL ends with a status, BROKEN is set, every FM_UPDATE of
it or of a later step is cancelled. -/
def State.abandonStep (s : State) (p step status : Nat) : State :=
  let st := (s.part p).step
  let s := match st.sealing with
    | some (z, _) => if step ≤ z.step then s.modCmd p z.cid fun k => { k with out := some (.of status) } else s
    | none => s
  let s := s.modStep p fun x => { x with
    broken := true, brokenAt := if x.broken then min x.brokenAt step else step,
    sealing := x.sealing.filter fun z => decide (z.1.step < step),
    opened := x.opened.filter fun r => r.step ≠ step }
  let s := s.evSet .part p 4
  (s.part p).cmds.foldl (fun s k =>
    if k.opcode = 0x380 ∧ step ≤ fld k.msg 56 8 ∧ k.out = none ∧
        (k.phase = .queued ∨ k.phase = .running) then
      let n := fmStack k.msg
      let s := if (s.fumRun n p).contains k.cid then s.fumAbortCmd n p k.cid else s
      (s.modCmd p k.cid fun k => { k with out := some (.of 8) }).fumLeave (fmStack k.msg) p k.cid
    else s) s

/-! ## The descriptor and its records (Table 12.1, R256) -/

def lKind (d : List Byte) : Nat := fld d 0 1
def lOneBit (d : List Byte) : Bool := fld d 1 1 == 1
def lH (d : List Byte) : Nat := fld d 2 1
def lSfmt (d : List Byte) : Nat := fld d 3 1
def lRidx (d : List Byte) : Nat := fld d 4 2
def lFlask (d : List Byte) : Bool := fld d 7 1 == 0
def lStep (d : List Byte) : Nat := fld d 8 8
def lTensor (d : List Byte) : Nat := fld d 20 4
def lCount (d : List Byte) : Nat := fld d 24 8
def lSrc (d : List Byte) : Nat := fld d 32 8
def lSrc2 (d : List Byte) : Nat := fld d 40 8
def lDest (d : List Byte) : Nat := fld d 48 8
def lNshard (d : List Byte) : Nat := fld d 64 4
def lNlist (d : List Byte) : Nat := fld d 68 4
def lNflask (d : List Byte) : Nat := fld d 80 4

/-- Address of the flask list. -/
def lFlaskAt (d : List Byte) : Nat := if lKind d = 0 then lDest d else lSrc d

/-- Shard map entries: owner rank, element count, first element. -/
def lShards (mp : List Byte) (n : Nat) : List (Nat × Nat × Nat) :=
  (List.range n).map fun i => (fld mp (16 * i) 2, fld mp (16 * i + 4) 4, fld mp (16 * i + 8) 8)

/-- The entries tile elements 0 to COUNT − 1 in order. -/
def tiles : List (Nat × Nat × Nat) → Nat → Nat → Bool
  | [], at', count => at' == count
  | (_, n, f) :: r, at', count => f == at' && decide (1 ≤ n) && tiles r (at' + n) count

/-- Intervals (first, count) in order, adjacent ones merged. -/
def mergeIv (l : List (Nat × Nat)) : List (Nat × Nat) :=
  l.foldr (fun e acc => match acc with
    | (b, m) :: r => if e.1 + e.2 = b then (e.1, e.2 + m) :: r else e :: acc
    | [] => [e]) []
def ivIns (e : Nat × Nat) : List (Nat × Nat) → List (Nat × Nat)
  | [] => [e]
  | x :: r => if e.1 ≤ x.1 then e :: x :: r else x :: ivIns e r
def sortIv (l : List (Nat × Nat)) : List (Nat × Nat) := l.foldl (fun a e => ivIns e a) []

/-- Rank of this device in a partition's epoch. -/
def State.myRank (s : State) (p : Nat) : Option Nat :=
  let l := (s.part p).ladle.members
  if l.contains s.devId then some (l.idxOf s.devId) else none
def State.standby (s : State) (p : Nat) : Bool := (s.part p).ladle.standby.contains s.devId

/-- Fingerprint of R258: descriptor, shard map and list. -/
def lFp (d mp ls : List Byte) : BitVec 64 :=
  BitVec.ofNat 64 (crc64 (slice d 0 32 ++ slice d 64 8 ++ mp ++ ls))

/-- TENSOR_ID, E0 and COUNT of the flasks of a list. -/
def State.lFlaskHdrs (s : State) (p : Nat) (fs : List Nat) : List (Nat × Nat × Nat) :=
  fs.map fun k =>
    let h := s.flaskHdr p (k / 2 ^ 16) (k % 2 ^ 16)
    (fld h 0 4, fld h 4 8, fld h 12 4)

/-- Addresses that a descriptor names lie in the address space. -/
def lAddrs (d : List Byte) : Bool :=
  !reservedAddr (lSrc d) 1 && !reservedAddr (lSrc2 d) 1 && !reservedAddr (lDest d) 1 &&
    !reservedAddr (fld d 56 8) (16 * lNshard d) && !reservedAddr (fld d 72 8) (2 * lNlist d)

/-- A BF16 source of a gather shows no class but 0 and 3 (R270): it meets no plane of a flask beside H. The descriptor
carries no class, and beside a flask's planes nothing in memory bears one (DEDUCED, log 37). -/
def State.classOk (s : State) (p a n : Nat) : Bool :=
  (List.range (n / 2 ^ 21 + 2)).all fun i =>
    let b := (a / 2 ^ 21 + i) * 2 ^ 21
    match addrKind b with
    | .stack .. => decide (a + n ≤ b + 0x40000 ∨ b + 0x140000 ≤ a) || !hdrOk (s.rd p (b + 0xA0800) 64)
    | _ => true

/-- The conditions of R256, R257 and R270 that make a descriptor MALFORMED. -/
def State.lFormOk (s : State) (p op : Nat) (d mp ls fs : List Byte) : Bool :=
  let l := (s.part p).ladle
  let gather := op == 0x401
  let shards := lShards mp (lNshard d)
  let ranks := (List.range (lNlist d)).map fun i => fld ls (2 * i) 2
  let flasks := (List.range (lNflask d)).map fun i => fld fs (4 * i) 4
  let factor := fld d 6 1
  let old := decide (l.ver < 0x30)
  let owned := (shards.filter fun e => some e.1 == s.myRank p).map fun e => (e.2.2, e.2.1)
  let hdrs := s.lFlaskHdrs p flasks
  lKind d == (if gather then 1 else 0) && decide (fld d 1 1 ≤ if gather then 0 else 1) &&
  (if gather then lH d == 0 else decide (4 ≤ lH d ∧ lH d ≤ 20)) &&
  (if gather || lOneBit d then lSfmt d == 2 else lSfmt d == 0 || lSfmt d == 2) &&
  (!gather || lRidx d == 0) && decide (factor ≤ 64) && decide (fld d 7 1 ≤ 1) &&
  decide (1 ≤ lCount d ∧ lCount d ≤ 2 ^ 40) && (lOneBit d || lSrc2 d == 0) && zeros d 84 128 &&
  decide (1 ≤ lNshard d ∧ lNshard d ≤ 65536) && decide (1 ≤ lNlist d ∧ lNlist d ≤ 16384) && lAddrs d &&
  (List.range (lNshard d)).all (fun i => fld mp (16 * i + 2) 2 == 0) && tiles shards 0 (lCount d) &&
  shards.all (fun e => decide (e.1 < l.members.length)) && nodup ranks &&
  ranks.all (fun r => decide (r < l.members.length)) &&
  (gather || shards.all fun e => ranks.contains e.1) &&
  (factor == 0 || (lCount d % factor == 0 && shards.all fun e => e.2.2 % factor == 0)) &&
  flasks.all (fun f => decide (f < 12 * 2 ^ 16 ∧ f % 2 ^ 16 < granCount)) &&
  (!lFlask d || (hdrs.all (fun h => h.1 == lTensor d) &&
    mergeIv (sortIv (hdrs.map fun h => h.2)) == mergeIv owned)) &&
  (!gather || lFlask d || owned.isEmpty || s.classOk p (lSrc d) (2 * (owned.map (·.2)).foldl (· + ·) 0)) &&
  (gather || !old || (!lOneBit d && lH d == 10)) && (gather || decide (lNlist d ≤ 2 ^ lH d))

/-- The start of LD_REDUCE or LD_GATHER: the refusal, or the records read. -/
def State.ldStart (s : State) (p op : Nat) (m : List Byte) :
    Compl ⊕ (List Byte × List Byte × List Byte × List Byte) :=
  let d := s.rd p (fld m 48 8) 128
  let mp := s.rd p (fld d 56 8) (16 * min (lNshard d) 65536)
  let ls := s.rd p (fld d 72 8) (2 * min (lNlist d) 16384)
  let fs := if lFlask d then s.rd p (lFlaskAt d) (4 * lNflask d) else []
  let st := (s.part p).step
  if !s.lFormOk p op d mp ls fs then .inl (.malformed 48)
  else if fld d 16 4 ≠ (s.part p).ladle.epoch ∨ s.standby p then .inl (.of 3)
  else if op = 0x400 then
    match st.opened with
    | some r =>
      if r.step ≠ lStep d ∨ r.used.contains (lRidx d) then .inl (.of 3) else .inr (d, mp, ls, fs)
    | none => .inl (.of 3)
  else .inr (d, mp, ls, fs)

/-- A refusal because NLIST exceeds 2^H sets LIMIT (Table 12.6). -/
def State.ldLimit (s : State) (p op : Nat) (m : List Byte) : State :=
  let d := s.rd p (fld m 48 8) 128
  if op = 0x400 ∧ 2 ^ lH d < lNlist d then s.evSet .ladle (lRidx d % 2) 7 else s

/-- Collectives of a kind in flight (R266). -/
def State.ldFlight (s : State) (p : Nat) (reduce : Bool) : Nat :=
  count (fun c => c.reduce == reduce) (s.part p).ladle.colls

/-- A started LD command enters the Ladle. -/
def State.ldBegin (s : State) (p cid op : Nat)
    (r : List Byte × List Byte × List Byte × List Byte) : State :=
  let (d, mp, ls, fs) := r
  let c : Coll :=
    { cid := cid, reduce := op == 0x400, onebit := lOneBit d, ridx := lRidx d, tensor := lTensor d,
      desc := d, shards := lShards mp (lNshard d),
      ranks := (List.range (lNlist d)).map fun i => fld ls (2 * i) 2,
      flasks := (List.range (fs.length / 4)).map fun i => fld fs (4 * i) 4,
      fp := lFp d mp ls, reports := [], sentUp := false, comb := none, prog := [], served := false,
      owed := [] }
  let s := s.modPart p fun q => { q with ladle := { q.ladle with colls := q.ladle.colls ++ [c] } }
  if op = 0x400 then s.modRed p (lStep d) fun x => { x with used := x.used ++ [lRidx d] } else s

/-! ## Collectives in flight -/

def Coll.home (c : Coll) : Nat := (if c.reduce then c.ridx else c.tensor) % 2
def Coll.n (c : Coll) : Nat := c.ranks.length
/-- Position of this member in the list. -/
def State.collPos (s : State) (p : Nat) (c : Coll) : Option Nat :=
  match s.myRank p with
  | some r => if c.ranks.contains r then some (c.ranks.idxOf r) else none
  | none => none

def State.coll? (s : State) (p : Nat) (q : Coll → Bool) : Option Coll := (s.part p).ladle.colls.find? q
def State.modColl (s : State) (p cid : Nat) (f : Coll → Coll) : State :=
  s.modPart p fun q => { q with
    ladle := { q.ladle with colls := updFirst (fun c => c.cid == cid) f q.ladle.colls } }

/-- A collective ends with a completion; a reduction counts for its step once its response is written (R332). -/
def State.endColl (s : State) (p : Nat) (c : Coll) (o : Compl) : State :=
  let s := s.modCmd p c.cid fun k => { k with out := some o }
  s.modPart p fun q => { q with
    ladle := { q.ladle with colls := q.ladle.colls.filter fun x => x.cid ≠ c.cid } }

/-- A message of a partition's epoch to the member of a rank, by the home die's route table. -/
def State.ldSend (s : State) (p die rank : Nat) (m : LdMsg) : State :=
  let dst := nth 0xFFFF (s.part p).ladle.members rank
  let l := (s.part p).ladle
  match s.fabSend die dst 1 fun _ t => ldMsg l.ver s.devId dst p l.epoch t m with
  | (s, true) => s.count64 .ladle die (0x58 + 0x20 * p) (ldBytes m)
  | (s, false) => s.lostRoute p dst

/-- Result of a finished reduction (Table 15.4). -/
def redResult (e : Int) (nf : Bool) (fl : Nat) : List Byte :=
  leBytes 2 (if nf then 0x8000 else wrap 16 e) ++ leBytes 2 fl

/-! ## Contributions (R259, R261, R268) -/

/-- Element `i` of an INT contribution, or scale `i` of a ONEBIT contribution. -/
def State.lElem (s : State) (p : Nat) (d : List Byte) (i : Nat) : Fl :=
  if lOneBit d then bf16.dec (s.rdU p (lSrc2 d + 2 * i) 2)
  else if lSfmt d = 0 then fl (s.rdW p (lSrc d + 4 * i))
  else bf16.dec (s.rdU p (lSrc d + 2 * i) 2)
/-- Elements that the pre-pass scans. -/
def lScan (d : List Byte) : Nat := if lOneBit d then cdiv (lCount d) 256 else lCount d
/-- This member contributes. -/
def lGives (d : List Byte) : Bool := lSrc d ≠ 0

/-- exp(g) of R259. -/
def expOf : Fl → Int
  | .fin _ m e => if m = 0 then -149 else (Nat.log2 m : Int) + e + 1
  | _ => -149

/-- An element of a contribution raises NF: infinite or NaN, and NaN alone among the scales of ONEBIT. -/
def lBad (d : List Byte) (v : Fl) : Bool := if lOneBit d then (match v with | .nan _ => true | _ => false) else !v.isFin

/-- This member's report: exponent, NF and the number of elements that raise it. -/
def State.lReport (s : State) (p : Nat) (d : List Byte) : Int × Bool × Nat :=
  if !lGives d then (-149, false, 0)
  else forN (lScan d) (-149, false, 0) fun i (a : Int × Bool × Nat) =>
    let v := s.lElem p d i
    (if expOf v > a.1 then expOf v else a.1, a.2.1 || lBad d v, a.2.2 + b2n (lBad d v))

/-- quantise of R261; an infinite scale lies beyond the limit and counts as NF (DEDUCED, log 19). -/
def quantise (e : Int) (h : Nat) (v : Fl) : Int × Loss :=
  let lim : Int := 2 ^ (31 - h) - 1
  match v with
  | .fin s m x =>
    let q := Fl.rneInt s m (x + 31 - h - e)
    if q > lim then (lim, .sat) else if q < -lim then (-lim, .sat)
    else (q, if m ≠ 0 ∧ q = 0 then .ftz else .none)
  | .inf s => (if s then -lim else lim, .nf)
  | .nan _ => (0, .nf)

/-- This member's part of INT sums or scale sums from element `i` on. -/
def State.lQuant (s : State) (p : Nat) (d : List Byte) (e : Int) (i n : Nat) : List (Int × Loss) :=
  (List.range n).map fun j => if lGives d then quantise e (lH d) (s.lElem p d (i + j)) else (0, .none)
/-- This member's bits from entry `i` on. -/
def State.lBits (s : State) (p : Nat) (d : List Byte) (i n : Nat) : List Int :=
  (List.range n).map fun j =>
    if lGives d then ((b2n (bit (s.rdU p (lSrc d + (i + j) / 8) 1) ((i + j) % 8)) : Nat) : Int) else 0

/-- Scale blocks that a run of entries carries, first and number: those that hold one of its entries. A block that a
shard cuts is carried by both chains, and belongs to the run that holds its first entry (DEDUCED, log 19). -/
def oneBitBlocks (first n : Nat) : Nat × Nat := (first / 256, (first + n - 1) / 256 + 1 - first / 256)

/-- The elements of a segment with this member's own part added (R262); conversions counted in the
gradients class as INT32 (R261). -/
def State.lAdd (s : State) (p : Nat) (c : Coll) (e : Int) (m : SegMsg) : SegMsg × State :=
  let d := c.desc
  let n := m.sums.length
  if c.onebit then
    let (b0, nb) := oneBitBlocks m.first n
    let q := s.lQuant p d e b0 nb
    let bs := s.lBits p d m.first n
    ({ m with sums := List.zipWith (· + ·) m.sums bs,
              scales := List.zipWith (· + ·) m.scales (q.map (·.1)) },
      -- a conversion counts once, where its block belongs
      s.fhAdd c.home p 2 15 (Tally.of ((if m.first = 256 * b0 then q else q.drop 1).map (·.2))))
  else
    let q := s.lQuant p d e m.first n
    ({ m with sums := List.zipWith (· + ·) m.sums (q.map (·.1)) },
      s.fhAdd c.home p 2 15 (Tally.of (q.map (·.2))))

/-! ## The owner (R248, R263, R269) -/

/-- restore of R263. -/
def restore (sum e : Int) (h : Nat) : Word :=
  f32 ((fl (f32 (.ofInt sum))).scale2 (e + h - 31))

/-- Restored value of an entry of a ONEBIT reduction (R269). -/
def restoreBit (n : Nat) (scale : Word) (c : Int) : Word :=
  fmul (fmul scale (frecip (f32 (.ofInt n)))) (f32 (.ofInt (2 * c - n)))

/-- One term of the digest (R248). -/
def digestTerm (id e : Nat) (sum : Int) : BitVec 64 :=
  let k := (BitVec.ofNat 64 (id * 2 ^ 48) ^^^ BitVec.ofNat 64 e) * 0x9E3779B97F4A7C15#64 ||| 1
  (BitVec.ofNat 64 (wrap 32 sum) + 1) * k

/-- Flask of a list that holds an element, with the element's index in it. -/
def State.lFlaskOf (s : State) (p : Nat) (fs : List Nat) (e : Nat) : Option (Nat × Nat) :=
  fs.findSome? fun k =>
    let h := s.flaskHdr p (k / 2 ^ 16) (k % 2 ^ 16)
    if fld h 4 8 ≤ e ∧ e < fld h 4 8 + fld h 12 4 then some (k, e - fld h 4 8) else none

/-- Offset, in elements, of a shard in an owner's TENSOR: owned shards in map order. -/
def ownedBase (shards : List (Nat × Nat × Nat)) (rank shard : Nat) : Nat :=
  (((shards.take shard).filter fun e => e.1 == rank).map (·.2.1)).foldl (· + ·) 0

/-- Address at which element `e` of an owned shard is held, `w` bytes an element; `plane` is the
offset of the plane in a flask. -/
def State.lPlace (s : State) (p : Nat) (c : Coll) (shard e base w plane : Nat) : Option Nat :=
  if lFlask c.desc then
    (s.lFlaskOf p c.flasks e).map fun k => granAddr k.1 + plane + w * k.2
  else
    let sh := nth (0, 0, 0) c.shards shard
    some (base + w * (ownedBase c.shards sh.1 shard + (e - sh.2.2)))

/-- An update mark stands on a flask that holds one of some elements (R242, R263). -/
def State.lMarked (s : State) (p : Nat) (c : Coll) (first n : Nat) : Bool :=
  lFlask c.desc && c.flasks.any fun k =>
    let h := s.flaskHdr p (k / 2 ^ 16) (k % 2 ^ 16)
    decide (fld h 4 8 < first + n ∧ first < fld h 4 8 + fld h 12 4) && s.stk.marks.any fun x => x.1 == k

/-- A completed segment at its owner: digest, restored values, writes. -/
def State.lOwn (s : State) (p : Nat) (c : Coll) (e : Int) (m : SegMsg) : State :=
  let d := c.desc
  let b0 := m.first / 256
  let sumsDig := forN m.sums.length (0#64) fun i a =>
    a + digestTerm (lTensor d) (m.first + i) (nth 0 m.sums i)
  let scDig := forN m.scales.length (0#64) fun i a =>
    if 256 * (b0 + i) < m.first then a else a + digestTerm (lTensor d) (lCount d + b0 + i) (nth 0 m.scales i)
  let s := s.modRed p (lStep d) fun x => { x with digest := x.digest + sumsDig + scDig }
  forN m.sums.length s fun i s =>
    let v := if c.onebit then
        restoreBit c.n (restore (nth 0 m.scales ((m.first + i) / 256 - b0)) e (lH d)) (nth 0 m.sums i)
      else restore (nth 0 m.sums i) e (lH d)
    match s.lPlace p c m.shard (m.first + i) (lDest d) 4 0xC0000 with
    | some a => s.wrW p a v
    | none => s

/-! ## Chains of a reduction (R262) -/

/-- List position of a shard's owner. -/
def Coll.ownerPos (c : Coll) (shard : Nat) : Nat := c.ranks.idxOf (nth (0, 0, 0) c.shards shard).1

/-- Elements of a shard that this member has finished with; the collective ends with the last. -/
def State.lProg (s : State) (p : Nat) (c : Coll) (shard n : Nat) : State :=
  s.modColl p c.cid fun x => { x with prog := tput 0 x.prog shard (tget 0 x.prog shard + n) }
def Coll.allDone (c : Coll) : Bool :=
  (List.range c.shards.length).all fun i => tget 0 c.prog i == (nth (0, 0, 0) c.shards i).2.1

/-- Ranges of this member's contribution to the elements of a segment. -/
def segGives (d : List Byte) (first n : Nat) : List Range :=
  if !lGives d then []
  else if lOneBit d then
    let (b0, nb) := oneBitBlocks first n
    [(lSrc d + first / 8, cdiv (first + n) 8 - first / 8, false), (lSrc2 d + 2 * b0, 2 * nb, false)]
  else
    let w := if lSfmt d = 0 then 4 else 2
    [(lSrc d + w * first, w * n, false)]

/-- Headers of the flasks of a list. -/
def hdrRanges (fs : List Nat) : List Range := fs.map fun k => (granAddr k + 0xA0800, 64, false)

/-- Ranges in which an owner keeps the elements of a segment. -/
def State.segKept (s : State) (p : Nat) (c : Coll) (shard first n : Nat) : List Range :=
  if lFlask c.desc then
    hdrRanges c.flasks ++ c.flasks.map fun k =>
      let h := s.flaskHdr p (k / 2 ^ 16) (k % 2 ^ 16)
      let lo := max first (fld h 4 8)
      let hi := min (first + n) (fld h 4 8 + fld h 12 4)
      (granAddr k + 0xC0000 + 4 * (lo - fld h 4 8), 4 * (hi - lo), true)
  else
    let sh := nth (0, 0, 0) c.shards shard
    [(lDest c.desc + 4 * (ownedBase c.shards sh.1 shard + (first - sh.2.2)), 4 * n, true)]

/-- An access of the Ladle in its own partition's name, checked as it is made (R210, R257). -/
def State.ldAccess (s : State) (p : Nat) (rs : List Range) (f : State → State) : State :=
  if (s.part p).st = .faulted then s
  else match s.tagAccess p rs with
    | some t => t
    | none => f s

/-- A segment with this member's part added: restored at the owner, passed on elsewhere. -/
def State.lPass (s : State) (p pos : Nat) (c : Coll) (e : Int) (m : SegMsg) : State :=
  let own := pos = c.ownerPos m.shard
  let n := m.sums.length
  s.ldAccess p (segGives c.desc m.first n ++ if own then s.segKept p c m.shard m.first n else []) fun s =>
    let (m, s) := s.lAdd p c e m
    let s := if own then s.lOwn p c e m else s.ldSend p c.home (nth 0 c.ranks ((pos + 1) % c.n)) (.seg m)
    s.lProg p c m.shard n

/-- A finished reduction is answered. -/
def State.lFinish (s : State) (p cid : Nat) : State :=
  match s.coll? p fun c => c.cid == cid with
  | some c =>
    match c.comb with
    | some (e, _, fl) =>
      if c.reduce ∧ c.allDone then s.endColl p c { Compl.ok with result := redResult e false fl } else s
    | none => s
  | none => s

/-- Bits of a sum on the wire (R268). -/
def Coll.width (c : Coll) : Nat := if !c.onebit then 32 else if c.n ≤ 255 then 8 else if c.n ≤ 65535 then 16 else 32

/-- Segments of a shard: at most 64 KiB of sums each, cut at multiples of their size, so that none but a shard's first
cuts a block. -/
def segsOf (c : Coll) (p epoch shard : Nat) : List SegMsg :=
  let sh := nth (0, 0, 0) c.shards shard
  let k := if c.onebit then 8192 else 16384
  let base := sh.2.2 / k
  (List.range (cdiv (sh.2.2 + sh.2.1) k - base)).map fun i =>
    let first := max sh.2.2 (k * (base + i))
    let n := min (k * (base + i + 1)) (sh.2.2 + sh.2.1) - first
    { part := p, epoch := epoch, ridx := c.ridx, step := lStep c.desc, shard := shard, first := first,
      sums := List.replicate n 0,
      scales := if c.onebit then List.replicate (oneBitBlocks first n).2 0 else [], w := c.width }

/-- A message that must wait at this member. -/
def State.ldKeep (s : State) (p : Nat) (m : LdMsg) : State :=
  s.modPart p fun q => { q with ladle := { q.ladle with waiting := q.ladle.waiting ++ [m] } }

/-- A segment of this member's own that an update mark holds back: it lies in no segment buffer (R263, R265). -/
def State.lOwe (s : State) (p cid : Nat) (m : SegMsg) : State :=
  s.modColl p cid fun x => { x with owed := x.owed ++ [m] }

/-- The segments that a member still owes its own DEST are tried again. -/
def State.lPayOwed (s : State) (p : Nat) (c : Coll) : State :=
  match s.collPos p c, c.comb with
  | some pos, some (e, _, _) =>
    if c.owed.isEmpty then s
    else
    let s := s.modColl p c.cid fun x => { x with owed := [] }
    let s := c.owed.foldl (fun s m =>
      if s.lMarked p c m.first m.sums.length then s.lOwe p c.cid m else s.lPass p pos c e m) s
    s.lFinish p c.cid
  | _, _ => s

/-- The data pass begins: this member starts the chains of the shards whose owner it follows. Where it is the owner
itself, the only contributor, an update mark holds the write back (R263). -/
def State.lStartData (s : State) (p pos : Nat) (c : Coll) (e : Int) : State :=
  let s := forN c.shards.length s fun i s =>
    if pos = (c.ownerPos i + 1) % c.n then
      (segsOf c p (s.part p).ladle.epoch i).foldl (fun s m =>
        if pos = c.ownerPos i ∧ s.lMarked p c m.first m.sums.length then s.lOwe p c.cid m else s.lPass p pos c e m) s
    else s
  s.lFinish p c.cid

/-! ## The pre-pass tree (R259, R260) -/

/-- Tree children of a position among n. -/
def treeKids (pos n : Nat) : List Nat := [1, 2, 3, 4].map (4 * pos + ·) |>.filter (· < n)

/-- The combined values are known to this member. -/
def State.lComb (s : State) (p pos : Nat) (c : Coll) (x : Int × Bool × Nat) : State :=
  let s := s.modColl p c.cid fun y => { y with comb := some x }
  let s := (treeKids pos c.n).foldl (fun s k =>
    s.ldSend p c.home (nth 0 c.ranks k) (.preDown
      { part := p, epoch := (s.part p).ladle.epoch, ridx := c.ridx, step := lStep c.desc, pos := pos, e := x.1, nf := x.2.1,
        flagger := x.2.2, fp := c.fp })) s
  let s := s.modRed p (lStep c.desc) fun r => { r with
    exps := r.exps ++ [(c.ridx, x.1)], nf := r.nf || x.2.1, flagger := min r.flagger x.2.2 }
  if x.2.1 then
    let s := (s.evSet .ladle c.home 6).count32 .ladle c.home (0x54 + 0x20 * p) 1
    s.endColl p c { Compl.ok with cflags := cfNF, result := redResult x.1 true x.2.2 }
  else s.lStartData p pos { c with comb := some x } x.1

/-- Reports combined once this member's own and those of its tree children are in. -/
def State.lPrePump (s : State) (p cid : Nat) : State :=
  match s.coll? p fun c => c.cid == cid with
  | some c =>
    match s.collPos p c with
    | some pos =>
      let need := pos :: treeKids pos c.n
      if !c.sentUp && c.comb.isNone && need.all fun k => c.reports.any fun r => r.1 == k then
        let rs := c.reports.filter fun r => need.contains r.1
        let e := rs.foldl (fun (a : Int) r => if r.2.1 > a then r.2.1 else a) (-149)
        let nf := rs.any fun r => r.2.2.1
        let fl := rs.foldl (fun a r => min a r.2.2.2) 0xFFFF
        if pos = 0 then s.lComb p pos c (e, nf, fl)
        else
          let s := s.modColl p cid fun y => { y with sentUp := true }
          s.ldSend p c.home (nth 0 c.ranks ((pos - 1) / 4)) (.preUp
            { part := p, epoch := (s.part p).ladle.epoch, ridx := c.ridx, step := lStep c.desc, pos := pos, e := e, nf := nf,
              flagger := fl, fp := c.fp })
      else s
    | none => s
  | none => s

/-- Fingerprints differ (R258): the collective is cancelled here, and the difference is handed on by a
fingerprint that no member holds (DEDUCED, log 19). -/
def State.lMismatch (s : State) (p : Nat) (c : Coll) (on : List (Nat × LdMsg)) : State :=
  let s := s.evErr .ladle c.home 3 3 p (if c.reduce then c.ridx else c.tensor) 0
  let s := s.endColl p c (.of 8)
  let s := on.foldl (fun s m => s.ldSend p c.home m.1 m.2) s
  if c.reduce then s.abandonStep p (lStep c.desc) 8 else s

/-- Messages of a difference to the tree neighbours of a position. -/
def State.lDiff (s : State) (p pos : Nat) (c : Coll) : List (Nat × LdMsg) :=
  let m : PreMsg :=
    { part := p, epoch := (s.part p).ladle.epoch, ridx := c.ridx, step := lStep c.desc, pos := pos, e := -149, nf := false,
      flagger := 0xFFFF, fp := ~~~c.fp }
  (if pos = 0 ∨ c.sentUp then [] else [(nth 0 c.ranks ((pos - 1) / 4), LdMsg.preUp m)]) ++
    (treeKids pos c.n).map fun k => (nth 0 c.ranks k, LdMsg.preDown m)

/-! ## Gathers (R270, R271) -/

/-- Receivers of an owner's shard in chain order, the owner itself left out. -/
def gatherChain (ranks : List Nat) (owner : Nat) : List Nat :=
  if ranks.contains owner then ranks.drop (ranks.idxOf owner + 1) ++ ranks.take (ranks.idxOf owner)
  else ranks
/-- The receiver after a rank on a chain. -/
def chainNext (chain : List Nat) (r : Nat) : Option Nat := chain[chain.idxOf r + 1]?

/-- Elements that this member owns in a collective. -/
def State.lOwned (s : State) (p : Nat) (c : Coll) : Nat :=
  ((c.shards.filter fun e => some e.1 == s.myRank p).map (·.2.1)).foldl (· + ·) 0

/-- A gather reads a flask: one of its list, or one that its TENSOR source meets (R242). -/
def State.gatherReads (s : State) (p : Nat) (c : Coll) (k : Nat) : Bool :=
  if lFlask c.desc then c.flasks.contains k
  else decide (granAddr k < lSrc c.desc + 2 * s.lOwned p c ∧ lSrc c.desc < granAddr k + 2 ^ 21)

/-- The owner may serve: `some true` now, `some false` never (STATE_CONFLICT), `none` not yet. Every update that names a
flask carries its mark from its acceptance on. -/
def State.gatherReady (s : State) (p : Nat) (c : Coll) : Option Bool :=
  let g := lStep c.desc
  let st := (s.part p).step
  let opened := st.last > g || (st.opened.any fun r => r.step == g + 1) ||
    (st.sealing.any fun z => z.1.step == g + 1)
  let started := c.flasks.any fun k => tget 0 s.stk.updStep k == g + 1
  if st.last > g + 1 ∨ (st.last = g + 1 ∧ lFlask c.desc ∧ started) then some false
  else if st.last ≥ g ∧ opened ∧
      !(s.stk.marks.any fun x => s.gatherReads p c x.1) then some true
  else none

/-- A gather ends when its receiver holds every shard and its owner has served. -/
def State.gatherFinish (s : State) (p cid : Nat) : State :=
  match s.coll? p fun c => c.cid == cid with
  | some c =>
    if c.served ∧ (c.allDone ∨ (s.collPos p c).isNone) then s.endColl p c .ok else s
  | none => s

/-- Values of a gather written into DEST. -/
def State.gatherPut (s : State) (p : Nat) (c : Coll) (first : Nat) (vs : List (BitVec 16)) : State :=
  s.ldAccess p [(lDest c.desc + 2 * first, 2 * vs.length, true)] fun s =>
    s.wr p (lDest c.desc + 2 * first) (vs.flatMap fun v => leBytes 2 v.toNat)

/-- A gather that another member has cancelled is cancelled here (R258). -/
def State.gatherCancel (s : State) (p : Nat) (c : Coll) : State :=
  (s.evErr .ladle c.home 3 3 p c.tensor 0).endColl p c (.of 8)

/-- A gather whose fingerprints differ is cancelled here and on every member of its list and map (R258; DEDUCED, log
19). -/
def State.gatherDiff (s : State) (p : Nat) (c : Coll) (x : GSegMsg) : State :=
  let all := c.ranks ++ c.shards.map (·.1)
  let on := (List.range (s.part p).ladle.members.length).filter fun r => all.contains r && some r != s.myRank p
  on.foldl (fun s r => s.ldSend p c.home r (.gseg { x with vals := [], cancel := true })) (s.gatherCancel p c)

/-- The owner serves its shards. -/
def State.gatherServe (s : State) (p cid : Nat) : State :=
  match s.coll? p fun c => c.cid == cid with
  | some c =>
    match s.myRank p with
    | some rank =>
      let mine := (List.range c.shards.length).filter fun i => (nth (0, 0, 0) c.shards i).1 == rank
      let chain := gatherChain c.ranks rank
      let msg (i first : Nat) (vs : List (BitVec 16)) (bad : Bool) : GSegMsg :=
        { part := p, epoch := (s.part p).ladle.epoch, tensor := c.tensor, gstep := lStep c.desc, shard := i, first := first,
          vals := vs, fp := c.fp, conflict := bad, cancel := false }
      if c.served ∨ mine.isEmpty then
        (s.modColl p cid fun x => { x with served := true }).gatherFinish p cid
      else
        match s.gatherReady p c with
        | none => s
        | some false =>
          let s := mine.foldl (fun s i => match chain with
            | r :: _ => s.ldSend p c.home r (.gseg (msg i 0 [] true))
            | [] => s) s
          s.endColl p c (.of 3)
        | some true =>
          let s := mine.foldl (fun s i =>
            let sh := nth (0, 0, 0) c.shards i
            let s := forN (cdiv sh.2.1 32768) s fun b s =>
              let first := sh.2.2 + 32768 * b
              let n := min 32768 (sh.2.1 - 32768 * b)
              let vs := (List.range n).map fun j =>
                match s.lPlace p c i (first + j) (lSrc c.desc) 2 0 with
                | some a => BitVec.ofNat 16 (s.rdU p a 2)
                | none => 0
              let s := match chain with
                | r :: _ => s.ldSend p c.home r (.gseg (msg i first vs false))
                | [] => s
              if c.ranks.contains rank then s.gatherPut p c first vs else s
            s.lProg p c i sh.2.1) s
          (s.modColl p cid fun x => { x with served := true }).gatherFinish p cid
    | none => s
  | none => s

/-! ## Messages (R265, R274, R275) -/

def LdMsg.epoch : LdMsg → Nat
  | .preUp m => m.epoch | .preDown m => m.epoch | .seg m => m.epoch | .gseg m => m.epoch
  | .sealUp m => m.epoch | .sealDown m => m.epoch

/-- Home die of a message. -/
def LdMsg.home : LdMsg → Nat
  | .preUp m => m.ridx % 2 | .preDown m => m.ridx % 2 | .seg m => m.ridx % 2 | .gseg m => m.tensor % 2
  | _ => 0

/-- A combination of two seal words (Table 11.4). -/
def sealCombine (a b : SealMsg) : SealMsg :=
  let same := a.exps.all fun x => b.exps.all fun y => x.1 ≠ y.1 || x.2 == y.2
  { a with
    nf := a.nf || b.nf, flagger := min a.flagger b.flagger, digest := a.digest + b.digest,
    exps := a.exps ++ b.exps.filter fun y => !(a.exps.any fun x => x.1 == y.1),
    agree := a.agree && b.agree && a.step == b.step && a.epoch == b.epoch && same }

/-- The combined word is known to this member: it goes down the tree. -/
def State.sealResult (s : State) (p pos : Nat) (w : SealMsg) : State :=
  let s := s.modStep p fun x => { x with
    sealing := x.sealing.map fun z => ({ z.1 with result := some w }, z.2) }
  let n := (s.part p).ladle.members.length
  if (s.part p).ladle.epoch = 0 then s
  else (treeKids pos n).foldl (fun s k =>
    s.ldSend p 0 k (.sealDown { w with part := p, pos := pos })) s

/-- The words of this member and of its tree children combined and handed up (R272). Without an
epoch the exchange has this member alone (DEDUCED, log 20). -/
def State.sealPump (s : State) (p : Nat) : State :=
  match (s.part p).step.sealing with
  | some (z, _) =>
    let n := max 1 (s.part p).ladle.members.length
    let pos := (s.myRank p).getD 0
    match z.word with
    | some w =>
      if z.entered ∧ z.result.isNone ∧ (treeKids pos n).all fun k => z.got.contains k then
        if pos = 0 then s.sealResult p pos w
        else if z.got.contains pos then s
        else
          let s := s.modStep p fun x => { x with
            sealing := x.sealing.map fun y => ({ y.1 with got := pos :: y.1.got }, y.2) }
          s.ldSend p 0 ((pos - 1) / 4) (.sealUp { w with part := p, pos := pos })
      else s
    | none => s
  | none => s

/-- The reduction of an index and a step (R258, R265). -/
def State.redOf (s : State) (p ridx step : Nat) : Option Coll :=
  s.coll? p fun c => c.reduce && c.ridx == ridx && lStep c.desc == step

/-- The gather that a segment belongs to: of its tensor and GSTEP, the first of its fingerprint that lacks elements of
the shard; none of that fingerprint, the first of another. -/
def State.gatherOf (s : State) (p : Nat) (x : GSegMsg) : Option Coll :=
  let mine (c : Coll) : Bool := !c.reduce && c.tensor == x.tensor && lStep c.desc == x.gstep
  match s.coll? p fun c => mine c && c.fp == x.fp &&
      decide (tget 0 c.prog x.shard < (nth (0, 0, 0) c.shards x.shard).2.1) with
  | some c => some c
  | none => s.coll? p fun c => mine c && c.fp != x.fp

/-- The first gather of a tensor and a GSTEP. -/
def State.gatherNamed (s : State) (p : Nat) (x : GSegMsg) : Option Coll :=
  s.coll? p fun c => !c.reduce && c.tensor == x.tensor && lStep c.desc == x.gstep

/-- Takes a message of the present epoch; `none` while it must wait (R265, R263). -/
def State.ldTake (s : State) (p : Nat) (m : LdMsg) : Option State :=
  match m with
  | .preUp x =>
    match s.redOf p x.ridx x.step with
    | some c =>
      match s.collPos p c with
      | some pos =>
        if x.fp ≠ c.fp then some (s.lMismatch p c (s.lDiff p pos c))
        else some ((s.modColl p c.cid fun y => { y with
          reports := y.reports ++ [(x.pos, x.e, x.nf, x.flagger)] }).lPrePump p c.cid)
      | none => some s
    | none => none
  | .preDown x =>
    match s.redOf p x.ridx x.step with
    | some c =>
      match s.collPos p c with
      | some pos =>
        if x.fp ≠ c.fp then some (s.lMismatch p c (s.lDiff p pos { c with sentUp := true }))
        else if c.comb.isNone then some (s.lComb p pos c (x.e, x.nf, x.flagger)) else some s
      | none => some s
    | none => none
  | .seg x =>
    match s.redOf p x.ridx x.step with
    | some c =>
      match s.collPos p c, c.comb with
      | some pos, some (e, _, _) =>
        if c.shards.length ≤ x.shard then some s
        else if pos = c.ownerPos x.shard ∧ s.lMarked p c x.first x.sums.length then none
        else some ((s.lPass p pos c e x).lFinish p c.cid)
      | some _, none => none
      | none, _ => some s
    | none => none
  | .gseg x =>
    match (if x.cancel then s.gatherNamed p x else s.gatherOf p x) with
    | some c =>
      match s.myRank p with
      | some rank =>
        let sh := nth (0, 0, 0) c.shards x.shard
        let next := chainNext (gatherChain c.ranks sh.1) rank
        let fwd (s : State) (y : GSegMsg) : State := match next with
          | some r => s.ldSend p c.home r (.gseg y)
          | none => s
        if x.cancel then some (s.gatherCancel p c)
        else if x.fp ≠ c.fp then some (s.gatherDiff p c x)
        else if x.conflict then some ((fwd s x).endColl p c (.of 3))
        else some ((((fwd s x).gatherPut p c x.first x.vals).lProg p c x.shard x.vals.length).gatherFinish
          p c.cid)
      | none => some s
    | none => none
  | .sealUp x =>
    match (s.part p).step.sealing with
    | some (z, _) =>
      -- a word of the next step waits for the end of this seal
      if z.result.isSome ∨ z.got.contains x.pos then none
      else
      let w : SealMsg := match z.word with | some w => sealCombine w x | none => x
      some ((s.modStep p fun y => { y with
        sealing := y.sealing.map fun t =>
          ({ t.1 with word := some w, got := t.1.got ++ [x.pos] }, t.2) }).sealPump p)
    | none => none
  | .sealDown x =>
    match (s.part p).step.sealing with
    | some (z, _) => if z.entered ∧ z.result.isNone then some (s.sealResult p ((s.myRank p).getD 0) x) else some s
    | none => some s

/-- Waiting messages are tried again, in order, and segments that an update mark held back. -/
def State.ldRetry (s : State) (p : Nat) : State :=
  let s := (s.part p).ladle.colls.foldl (fun s c => s.lPayOwed p c) s
  let n := (s.part p).ladle.waiting.length
  forN n s fun _ s =>
    let ws := (s.part p).ladle.waiting
    let s := s.modPart p fun q => { q with ladle := { q.ladle with waiting := [] } }
    ws.foldl (fun s m => match s.ldTake p m with
      | some t => t
      | none => s.ldKeep p m) s

/-- A message that takes a segment buffer while it waits. -/
def LdMsg.isSeg : LdMsg → Bool | .seg _ => true | .gseg m => !m.cancel | _ => false
/-- Segment buffers of a partition in use on a die: segments that wait, and those of an epoch to come. -/
def State.ldUsed (s : State) (p d : Nat) : Nat :=
  let l := (s.part p).ladle
  count (fun m => m.home == d && m.isSeg) (l.waiting ++ l.future)
/-- A segment for which its partition's quota has no buffer left. -/
def State.ldFull (s : State) (p : Nat) (m : LdMsg) : Bool :=
  m.isSeg && decide ((s.part p).ladleBufs m.home ≤ s.ldUsed p m.home)

/-- Rank of the member that has sent a message of the present epoch, where this member can tell. -/
def State.ldFrom (s : State) (p : Nat) : LdMsg → Option Nat
  | .preUp m => (s.redOf p m.ridx m.step).bind fun c => c.ranks[m.pos]?
  | .preDown m => (s.redOf p m.ridx m.step).bind fun c => c.ranks[m.pos]?
  | .seg m => (s.redOf p m.ridx m.step).bind fun c =>
      (s.collPos p c).bind fun pos => c.ranks[(pos + c.n - 1) % c.n]?
  | .gseg m => if m.cancel then none else (s.gatherOf p m).bind fun c =>
      let chain := gatherChain c.ranks (nth (0, 0, 0) c.shards m.shard).1
      (s.myRank p).bind fun r => ((nth (0, 0, 0) c.shards m.shard).1 :: chain)[chain.idxOf r]?
  | .sealUp m => some m.pos
  | .sealDown m => some m.pos

/-- A member of the epoch has been heard (R366). -/
def State.ldHear (s : State) (p : Nat) (m : LdMsg) : State :=
  match (s.ldFrom p m).bind fun r => (s.part p).ladle.members[r]? with
  | some dev => s.hear dev
  | none => s

/-- A message that arrives for a partition: discarded where the partition is faulted or the epoch is
past, held where the epoch is to come, else taken or kept in a buffer; a full quota stops the sender
through the link's credits (R265, R274, R275). -/
def State.ldReceive (s : State) (port : Nat) (m : LdMsg) (p : Nat) : State :=
  let x := s.part p
  if (s.port port).st = .down ∨ !s.live (dieOfPort port) ∨ 8 ≤ p then s
  else if x.st = .faulted then s
  else
    let t := s.count64 .ladle m.home 0x144 (ldBytes m)
    if m.epoch < x.ladle.epoch then t
    else if x.ladle.epoch < m.epoch then
      if s.ldFull p m then s else t.modPart p fun q => { q with ladle := { q.ladle with future := q.ladle.future ++ [m] } }
    else
      match (t.ldHear p m).ldTake p m with
      | some t => t.ldRetry p
      | none => if s.ldFull p m then s else (t.ldHear p m).ldKeep p m

/-! ## Commands -/

/-- Ranges that a member's Ladle uses. -/
def State.ldRanges (s : State) (p : Nat) (c : Coll) : List Range :=
  let d := c.desc
  let n := lCount d
  let own := s.lOwned p c
  let hdrs := if lFlask d then hdrRanges c.flasks else []
  hdrs ++ if c.reduce then
    (if lGives d then
      (if c.onebit then [(lSrc d, cdiv n 8, false), (lSrc2 d, 2 * cdiv n 256, false)]
       else [(lSrc d, (if lSfmt d = 0 then 4 else 2) * n, false)]) else []) ++
    (if lFlask d then c.flasks.map fun k => (granAddr k + 0xC0000, 0x80000, true)
     else if own = 0 then [] else [(lDest d, 4 * own, true)])
  else
    (if lFlask d then c.flasks.map fun k => (granAddr k, 0x40000, false)
     else if own = 0 then [] else [(lSrc d, 2 * own, false)]) ++
    (if (s.collPos p c).isSome then [(lDest d, 2 * n, true)] else [])

/-- A started LD command proceeds: its accesses are checked, its own part is given, and what waits is
tried again. -/
def State.ldRow (s : State) (p c op : Nat) (go : Coll → State → State) : Host.Outcome State Fault Refusal :=
  match s.cmd? p c, s.coll? p fun x => x.cid == c with
  | some k, some x =>
    if k.opcode = op ∧ k.phase = .running ∧ k.out = none ∧ s.live x.home ∧ (s.part p).st ≠ .faulted then
      match s.tagAccess p (s.ldRanges p x) with
      | some t => .next t
      | none => .next ((go x s).ldRetry p)
    else .next s
  | _, _ => .next s

/-- This member's report enters the pre-pass once; a member that is no contributor has no part. -/
def State.reduceGo (s : State) (p : Nat) (c : Coll) : State :=
  match s.collPos p c with
  | none => s.endColl p c { Compl.ok with result := redResult (-149) false 0xFFFF }
  | some pos =>
    if c.reports.any fun r => r.1 == pos then s
    else
      let (e, nf, bad) := s.lReport p c.desc
      let s := s.fhAdd c.home p 2 15 ⟨0, 0, bad⟩
      (s.modColl p c.cid fun x => { x with
        reports := x.reports ++ [(pos, e, nf, if nf then s.devId else 0xFFFF)] }).lPrePump p c.cid

/-- LD_REDUCE (R257 to R269): the pre-pass begins, and again what waits at this member proceeds. -/
def execLdReduce (p c : Nat) (s : State) : Host.Outcome State Fault Refusal :=
  s.ldRow p c 0x400 fun x s => s.reduceGo p x

/-- LD_GATHER (R270, R271): an owner serves once it may. -/
def execLdGather (p c : Nat) (s : State) : Host.Outcome State Fault Refusal :=
  s.ldRow p c 0x401 fun x s => s.gatherServe p x.cid

/-- LD_PRE_UP (R259). -/
def execLdPreUp (port : Nat) (m : PreMsg) (s : State) : Host.Outcome State Fault Refusal :=
  .next (s.ldReceive port (.preUp m) m.part)
/-- LD_PRE_DOWN (R259). -/
def execLdPreDown (port : Nat) (m : PreMsg) (s : State) : Host.Outcome State Fault Refusal :=
  .next (s.ldReceive port (.preDown m) m.part)
/-- LD_SEG (R262). -/
def execLdSeg (port : Nat) (m : SegMsg) (s : State) : Host.Outcome State Fault Refusal :=
  .next (s.ldReceive port (.seg m) m.part)
/-- LD_GSEG (R270). -/
def execLdGseg (port : Nat) (m : GSegMsg) (s : State) : Host.Outcome State Fault Refusal :=
  .next (s.ldReceive port (.gseg m) m.part)
/-- LD_SEAL_UP (R272). -/
def execLdSealUp (port : Nat) (m : SealMsg) (s : State) : Host.Outcome State Fault Refusal :=
  .next (s.ldReceive port (.sealUp m) m.part)
/-- LD_SEAL_DOWN (R272). -/
def execLdSealDown (port : Nat) (m : SealMsg) (s : State) : Host.Outcome State Fault Refusal :=
  .next (s.ldReceive port (.sealDown m) m.part)

/-! ## Epochs (R254, R274) -/

/-- The form of an EPOCH_SET but for its lists. -/
def epochForm (m : List Byte) : Option Nat :=
  let n := fld m 20 2
  let sb := fld m 22 2
  let ver := fld m 24 1
  let lt := fld m 28 4
  firstOf [need 16 (decide (1 ≤ fld m 16 4)), need 20 (decide (1 ≤ n ∧ n ≤ 16384)),
    need 22 (decide (sb ≤ 256)), need 24 (decide (0x23 ≤ ver ∧ ver ≤ 0x31)), need 25 (zeros m 25 28),
    need 28 (decide (10 ≤ lt ∧ lt ≤ 10000)), need 32 (!reservedAddr (fld m 32 8) (2 * (n + sb)))]

/-- The refusal of an EPOCH_SET of good form (R254), its lists read with the partition's tag. -/
def State.epochCheck (s : State) (p : Nat) (m : List Byte) (ids : List Nat) : Option Compl :=
  if !(nodup ids && ids.contains s.devId) then some (.malformed 32)
  else if fld m 16 4 ≤ (s.part p).ladle.epoch then some (.of 3) else none

/-- The epoch is adopted in one step: earlier collectives cancelled, buffers scrubbed, live steps
abandoned, held messages of the epoch taken. -/
def State.adoptEpoch (s : State) (p : Nat) (m : List Byte) (ids : List Nat) : State :=
  let e := fld m 16 4
  let s := (s.part p).ladle.colls.foldl (fun s c => s.endColl p c (.of 8)) s
  let st := (s.part p).step
  let s := match st.sealing with | some z => s.abandonStep p z.1.step 8 | none => s
  let s := match st.opened with | some r => s.abandonStep p r.step 8 | none => s
  let held := (s.part p).ladle.future
  let s := s.modPart p fun q => { q with
    ladle := { q.ladle with
      epoch := e, members := ids.take (fld m 20 2), standby := ids.drop (fld m 20 2),
      ver := fld m 24 1, lossTo := fld m 28 4, lost := [], waiting := [],
      future := held.filter fun x => decide (e < x.epoch) } }
  let s := (s.evSet .ladle 0 5).evSet .ladle 1 5
  let s := held.foldl (fun s x =>
    if x.epoch = e then
      match s.ldTake p x with
      | some t => t
      | none => s.ldKeep p x
    else s) s
  s.ldRetry p

/-- EPOCH_SET judged and carried out (R254, R274). -/
def State.epochMsg (s : State) (p : Nat) (m : List Byte) : State × Option Compl :=
  let la := fld m 32 8
  let n := fld m 20 2 + fld m 22 2
  match s.tagAccess p [(la, 2 * n, false)] with
  | some t => (t, some (.of 5))
  | none =>
    let ids := s.list16 p la n
    match s.epochCheck p m ids with
    | some o => (s, some o)
    | none => (s.adoptEpoch p m ids, some .ok)

/-- A member makes no progress for LOSS_TO, or has no route (R273). -/
def execMemberLost (p dev : Nat) (s : State) : Host.Outcome State Fault Refusal := .next (s.memberLost p dev)

/-- Nothing has arrived from a member for LOSS_TO/4, LOSS_TO in milliseconds: PROBE (R366), which leaves by West's route
table (DEDUCED, log 26). -/
def execProbeDue (p dev : Nat) (s : State) : Host.Outcome State Fault Refusal :=
  let l := (s.part p).ladle
  if s.isMember p dev ∧ tget 0 s.fabric.heard dev + l.lossTo * 250000 ≤ s.now then
    match s.fabSend 0 dev 0 fun _ t =>
        .raw (fabBytes l.ver 0 0x10 s.devId dev p p l.epoch t (leBytes 4 l.epoch)) with
    | (s, true) => .next s
    | (s, false) => .next (s.lostRoute p dev)
  else .next s

/-- An uncorrectable error in a segment buffer faults the partitions that hold a buffer there (R278).
Buffers are counted through in partition order (DEDUCED, log 19). -/
def execLadleSramUe (die buf : Nat) (s : State) : Host.Outcome State Fault Refusal :=
  let base (p : Nat) : Nat := ((List.range p).map fun q => (s.part q).ladleBufs die).foldl (· + ·) 0
  let ps := (List.range 8).filter fun p =>
    decide (base p ≤ buf ∧ buf < base p + (s.part p).ladleBufs die)
  .next ((s.evErr .ladle die 1 1 0xF buf 0).faultMany ps .ladle die 1)

end Sys2Proof.Machine
end

