-- ==== Sys2Proof/Machine/TrainStep.lean ====
section
/-! DEFINITION. The training step (chapter 11): STEP_CFG, STEP_OPEN, STEP_SEAL, the seal and its tap
record, checkpoints, and fabric storage (R367). -/
namespace Sys2Proof.Machine

/-! ## STEP_CFG, STEP_OPEN, STEP_SEAL -/

/-- A range lies within one granule of a stack window. -/
def inGranule (a n : Nat) : Bool :=
  decide (a < 0x18000000000 ∧ a % 2 ^ 37 < granCount * 2 ^ 21 ∧ a % 2 ^ 21 + n ≤ 2 ^ 21)

def stepCfgForm (m : List Byte) : Option Nat :=
  let n := fld m 88 1
  let ok := decide (4 ≤ n ∧ n ≤ 13)
  firstOf [need 60 (decide (fld m 60 4 ≤ 3)),
    need 80 (fld m 80 8 % 256 == 0 && inGranule (fld m 80 8) (if ok then 2 ^ n * 256 else 4096)),
    need 88 (ok && fld m 89 1 == 0), need 92 (decide (1 ≤ fld m 92 4 ∧ fld m 92 4 ≤ 60000))]
/-- FORCE is an option of a replay (R253). -/
def stepSealForm (m : List Byte) : Option Nat :=
  firstOf [need 56 (decide (fld m 56 1 ≤ 3) && fld m 56 1 ≠ 2), need 57 (zeros m 57 64),
    need 64 (!bit (fld m 56 1) 0 || !reservedAddr (fld m 64 8) 256)]

/-- A step is open or sealing. -/
def StepSt.live (x : StepSt) : Bool := x.opened.isSome || x.sealing.isSome

/-- Refusals at the start (R240, R241, R243, R245, R250). -/
def State.stepStart (s : State) (p op : Nat) (m : List Byte) : Option Compl :=
  let x := (s.part p).step
  if op = 0x410 then
    let a := fld m 80 8
    if (s.gran (granKey (a / 2 ^ 37) (a % 2 ^ 37 / 2 ^ 21))).owner ≠ p then some (.of 5)
    else if x.live then some (.of 3) else none
  else if op = 0x411 then
    let n := fld m 48 8
    let two := n == x.last + 2 && x.sealing.any fun z => z.1.step == x.last + 1
    let one := n == x.last + 1 && !(x.sealing.any fun z => z.1.step == n)
    if (one || two) && x.opened.isNone && !x.broken then none else some (.of 3)
  else
    if !x.broken && (x.opened.any fun r => r.step == fld m 48 8) && !(s.standby p) then none
    else some (.of 3)

/-- A command of one step that acts at once when it has started. -/
def State.stepRow (s : State) (p c op : Nat) (f : Cmd → State → State) : Host.Outcome State Fault Refusal :=
  match s.cmd? p c with
  | some k =>
    if k.opcode = op ∧ k.phase = .running ∧ k.out = none ∧ s.live 0 ∧ (s.part p).st ≠ .faulted then
      .next (f k s)
    else .next s
  | none => .next s

/-- Sets a command's outcome. -/
def State.setOut (s : State) (p c : Nat) (o : Compl) : State := s.modCmd p c fun k => { k with out := some o }

/-! ## Tap records (R248 to R250) -/

/-- FLAGS.HELD set where asked, and the CRC. -/
def sealRecord (r : List Byte) (held : Bool) : List Byte :=
  let r := lay r 20 (leBytes 4 (fld r 20 4 ||| (if held then 64 else 0)))
  lay r 252 (leBytes 4 (crc32 (r.take 252)))

/-- Records of the ring not yet freed. -/
def StepSt.fill (x : StepSt) : Nat := x.tapIdx - x.tapFree
def StepSt.room (x : StepSt) : Bool := x.ring.2 == 0 || decide (x.fill < 2 ^ x.ring.2)

/-- A record is written and reported, then STEP_SEAL completes; without a ring (no STEP_CFG yet) it is
only reported (DEDUCED, log 20). -/
def State.tapWrite (s : State) (p : Nat) (r : List Byte) (held : Bool) (c : Nat) (o : Compl) : State :=
  let x := (s.part p).step
  let r := sealRecord r held
  let a := x.ring.1 + x.tapIdx % 2 ^ x.ring.2 * 256
  let bad := if x.ring.2 = 0 then none else s.firstBad p true a 256
  match bad with
  | some b => s.refuse p b
  | none =>
    let s := if x.ring.2 = 0 then s else s.wr p a r
    let s := s.modStep p fun y => { y with
      tapIdx := if x.ring.2 = 0 then y.tapIdx else y.tapIdx + 1, lastTap := r }
    let body := slice r 0 8 ++ slice r 8 4 ++ leBytes 4 (fld r 16 2) ++ slice r 24 8
    let s := s.vent p (if fld r 18 1 = 1 then 0x8003 else 0x8002) p body
    let idx := leBytes 8 x.tapIdx
    let s := if x.tapVent then s.vent p 0x8004 p (idx ++ [1] ++ List.replicate 39 0 ++ r)
      else if x.ring.2 ≠ 0 ∧ x.fill + 1 = x.wmark then s.vent p 0x8004 p (idx ++ [0]) else s
    s.setOut p c o

/-- A held record is written once a slot is free. -/
def State.tapPump (s : State) (p : Nat) : State :=
  let x := (s.part p).step
  match x.held with
  | some (r, c, o) =>
    if x.room then (s.modStep p fun y => { y with held := none }).tapWrite p r true c o else s
  | none => s

/-- The format-health totals of a partition in tap-record order: per class NF, SAT, FTZ (R65). -/
def State.fhTotals (s : State) (p : Nat) : List Nat :=
  (List.range 5).flatMap fun c => [2, 0, 1].map fun k =>
    min 0xFFFFFFFF (tget 0 s.health.fhStep (fhStepKey 0 p c k) + tget 0 s.health.fhStep (fhStepKey 1 p c k))
/-- A step boundary of a partition begins a new count (R65). -/
def State.fhBoundary (s : State) (p : Nat) : State :=
  s.setHealth { s.health with
    fhStep := s.health.fhStep.filter fun e =>
      if e.1 < 4096 then e.1 / 15 % 8 ≠ p else e.1 % 8 ≠ p }

/-- STEP_CFG (R240, R250). Record indices restart at 0, and what updates of the job before have done to the partition's
flasks is forgotten. -/
def execStepCfg (p c : Nat) (s : State) : Host.Outcome State Fault Refusal :=
  s.stepRow p c 0x410 fun k s =>
    let m := k.msg
    if (s.part p).step.live then s.setOut p c (.of 3)
    else
    let s := s.setStk { s.stk with updStep := s.stk.updStep.filter fun (e : Nat × Nat) => (s.gran e.1).owner ≠ p }
    let s := s.modStep p fun x => { x with
      last := fld m 64 8, steps := fld m 72 4, skips := fld m 76 4, opened := none, broken := false, brokenAt := 0,
      seed := BitVec.ofNat 64 (fld m 48 8), seedBase := fld m 56 4, nfAny := bit (fld m 60 4) 0,
      tapVent := bit (fld m 60 4) 1, ring := (fld m 80 8, fld m 88 1), tapIdx := 0, tapFree := 0,
      wmark := fld m 90 2, sealTo := fld m 92 4 }
    ((s.fhBoundary p).setOut p c .ok).tapPump p

/-- STEP_OPEN (R241). -/
def execStepOpen (p c : Nat) (s : State) : Host.Outcome State Fault Refusal :=
  s.stepRow p c 0x411 fun k s =>
    match s.stepStart p 0x411 k.msg with
    | some o => s.setOut p c o
    | none =>
      let r : StepRed :=
        { step := fld k.msg 48 8, nred := fld k.msg 56 2, used := [], done := [], exps := [], nf := false,
          flagger := 0xFFFF, digest := 0, longsum := false }
      (s.modStep p fun x => { x with opened := some r }).setOut p c .ok

/-- STEP_SEAL (R243): the open step is sealing from here on. -/
def execStepSeal (p c : Nat) (s : State) : Host.Outcome State Fault Refusal :=
  s.stepRow p c 0x412 fun k s =>
    let x := (s.part p).step
    if x.sealing.any fun z => z.1.cid == c then s
    else
      match s.stepStart p 0x412 k.msg, x.opened with
      | none, some r =>
        if x.sealing.isSome then s
        else
          let z : Seal := { step := r.step, cid := c, entered := false, word := none, got := [],
                            result := none, fh := [] }
          (s.modStep p fun x => { x with opened := none, sealing := some (z, r) }).ldRetry p
      | some o, _ => s.setOut p c o
      | none, none => s.setOut p c (.of 3)

/-- An FM_UPDATE of a step whose response has not been written (R332). -/
def Cmd.updates (k : Cmd) (step : Nat) : Bool := k.opcode == 0x380 && fld k.msg 56 8 == step
/-- FM_UPDATEs of a step that a partition issued before a command and that have not completed (R243). -/
def State.updatesOwed (s : State) (p step cid : Nat) : Bool :=
  ((s.part p).cmds.takeWhile fun k => k.cid ≠ cid).any fun k => k.updates step

/-- The device enters the seal and offers its word (R243, Table 11.4). -/
def execSealEntry (p : Nat) (s : State) : Host.Outcome State Fault Refusal :=
  let x := (s.part p).step
  match x.sealing with
  | some (z, r) =>
    if !z.entered ∧ r.nred ≤ r.done.length ∧ x.last + 1 = z.step ∧ !s.updatesOwed p x.last z.cid ∧
        x.held.isNone ∧ s.live 0 ∧ (s.part p).st ≠ .faulted then
      let fh := s.fhTotals p
      let any := x.nfAny && (List.range 5).any fun c => nth 0 fh (3 * c) ≠ 0
      let own : SealMsg :=
        { part := p, pos := (s.myRank p).getD 0, step := z.step, epoch := (s.part p).ladle.epoch,
          nf := r.nf || any, flagger := r.flagger, digest := r.digest, exps := r.exps, agree := true }
      let s := (s.modStep p fun y => { y with
        sealing := some ({ z with
          entered := true, fh := fh,
          word := some (match z.word with | some w => sealCombine own w | none => own) }, r) }).fhBoundary p
      .next ((s.sealPump p).ldRetry p)
    else .next s
  | none => .next s

/-- The tap record of a sealed step, before HELD and CRC (Table 11.5). -/
def tapRecord (x : StepSt) (z : Seal) (r : StepRed) (w : SealMsg) (skip : Bool) (flags digest now : Nat) :
    List Byte :=
  let exps := r.exps.filter fun e => decide (e.1 < 64)
  leBytes 8 z.step ++ leBytes 4 w.epoch ++ leBytes 4 x.seedBase ++ leBytes 2 w.flagger ++
    leBytes 1 (b2n skip) ++ leBytes 1 exps.length ++ leBytes 4 flags ++ leBytes 8 digest ++
    leBytes 4 x.skips ++ leBytes 4 x.steps ++ leBytes 4 r.nred ++ leBytes 4 0 ++
    ((List.range 15).flatMap fun i => leBytes 4 (nth 0 z.fh i)) ++ leBytes 4 0 ++
    ((List.range 64).flatMap fun i =>
      leBytes 2 (match exps.find? fun e => e.1 == i with | some e => wrap 16 e.2 | none => 0x8000)) ++
    leBytes 8 now ++ leBytes 8 0

/-- The seal exchange is complete (R244, R245, R248 to R250, R253). -/
def execSealComplete (p : Nat) (s : State) : Host.Outcome State Fault Refusal :=
  let x := (s.part p).step
  match x.sealing with
  | some (z, r) =>
    match z.result, s.cmd? p z.cid with
    | some w, some k =>
      if !s.live 0 ∨ (s.part p).st = .faulted then .next s
      else if !w.agree ∨ w.step ≠ z.step then .next (s.abandonStep p z.step 8)
      else
        let rf := fld k.msg 56 1
        let old := k.data
        let force := bit rf 1
        let skip := if force then fld old 18 1 == 1 else w.nf
        let dig (sk : Bool) : Nat := if sk then 0 else w.digest.toNat
        let x' := { x with
          skip := skip, last := z.step, steps := min (x.steps + 1) 0xFFFFFFFF,
          skips := min (x.skips + b2n skip) 0xFFFFFFFF, sealing := none }
        -- the recomputed record is what a replay compares
        let mine := tapRecord x' z r w w.nf 0 (dig w.nf) 0
        let same := slice mine 0 8 == slice old 0 8 && slice mine 12 4 == slice old 12 4 &&
          slice mine 18 2 == slice old 18 2 && slice mine 24 8 == slice old 24 8 &&
          slice mine 112 128 == slice old 112 128
        let bad := bit rf 0 && !same
        let flags := b2n w.nf + 2 * b2n (w.nf && w.flagger == 0xFFFF) +
          4 * b2n (r.exps.any fun e => decide (63 < e.1)) + 8 * b2n r.longsum + 16 * b2n bad + 32 * b2n force
        let rec' := tapRecord x' z r w skip flags (dig skip) s.now
        let o : Compl := { Compl.ok with
          cflags := if bad then cfMISMATCH else 0, result := leBytes 8 z.step ++ leBytes 8 (dig skip) }
        let s := (s.modStep p fun _ => x').decideUpdates p z.step skip
        if x'.room then .next (s.tapWrite p rec' false z.cid o)
        else .next (s.modStep p fun y => { y with held := some (rec', z.cid, o) })
    | _, _ => .next s
  | none => .next s

/-- SEAL_TO passes before the exchange completes (R245). -/
def execSealTimeout (p : Nat) (s : State) : Host.Outcome State Fault Refusal :=
  match (s.part p).step.sealing with
  | some (z, _) =>
    match s.cmd? p z.cid with
    | some k =>
      if z.result.isNone ∧ k.start + (s.part p).step.sealTo * 1000000 ≤ s.now then
        .next (s.abandonStep p z.step 7)
      else .next s
    | none => .next s
  | none => .next s

/-- TAP_RELEASE of number n judged and carried out: an index that no record has yet is a conflict (DEDUCED, log 20). Its
response comes before what the freed slots let go on (R346). -/
def State.tapMsg (s : State) (p n : Nat) (m : List Byte) : State × Option Compl :=
  let i := fld m 16 8
  if (s.part p).step.tapIdx ≤ i then (s, some (.of 3))
  else
    (((s.modStep p fun x => { x with tapFree := max x.tapFree (i + 1) }).respond p 0x413 p n (fld m 12 4) .ok 0).tapPump p,
      none)

/-! ## Checkpoints (R251, R252) -/

def ckptSaveForm (m : List Byte) : Option Nat :=
  let n := fld m 56 4
  firstOf [need 60 (decide (fld m 60 1 ≤ 1)), need 61 (zeros m 61 64),
    need 64 (!reservedAddr (fld m 64 8) (4 * n)),
    need 72 (fld m 60 1 == 1 || (addrKind (fld m 72 8) == .host &&
      decide (fld m 72 8 + 2 ^ 21 * n + 512 ≤ 2 ^ 48)))]
def ckptLoadForm (m : List Byte) : Option Nat :=
  let n := fld m 48 4
  firstOf [need 52 (decide (fld m 52 1 ≤ 1)), need 53 (zeros m 53 56),
    need 56 (!reservedAddr (fld m 56 8) (4 * n)),
    need 64 (fld m 52 1 == 1 || (addrKind (fld m 64 8) == .host &&
      decide (fld m 64 8 + 2 ^ 21 * n ≤ 2 ^ 48)))]

/-- Keys of a granule list of u32 entries (stack [19:16], granule [15:0]). -/
def State.list32 (s : State) (p a n : Nat) : List Nat :=
  (List.range n).map fun i => s.rdU p (a + 4 * i) 4
def keyOk (k : Nat) : Bool := decide (k < 12 * 2 ^ 16 ∧ k % 2 ^ 16 < granCount)

/-- Granules that a checkpoint command names. -/
def State.ckptKeys (s : State) (p : Nat) (load : Bool) (m : List Byte) : List Nat :=
  if load then s.list32 p (fld m 56 8) (fld m 48 4) else s.list32 p (fld m 64 8) (fld m 56 4)

def State.ckptStart (s : State) (p : Nat) (load : Bool) (m : List Byte) : Option Compl :=
  let ks := s.ckptKeys p load m
  let x := (s.part p).step
  if !ks.all keyOk then some (.malformed (if load then 56 else 64))
  else if ks.any fun k => (s.gran k).owner ≠ p then some (.of 5)
  else if load then (if x.live then some (.of 3) else none)
  else if x.last ≠ fld m 48 8 ∨ x.broken ∨ (s.part p).cmds.any fun k => k.updates x.last then some (.of 3) else none

/-- The tap record of LAST: the one written, or the one held (R250). -/
def StepSt.lastRecord (x : StepSt) : List Byte :=
  match x.held with | some (r, _, _) => sealRecord r true | none => x.lastTap

/-- What the start of a checkpoint command keeps. CKPT_SAVE: tap record, LAST, STEPS and SKIPS, the granule list, a byte for
each granule that is 1 once it is copied, and one for the manifest. CKPT_LOAD: the list, and a byte for its phase. -/
def State.ckptRecord (s : State) (p : Nat) (load : Bool) (m : List Byte) : List Byte :=
  let x := (s.part p).step
  if load then s.rd p (fld m 56 8) (4 * fld m 48 4) ++ [0]
  else slice x.lastRecord 0 256 ++ leBytes 8 x.last ++ leBytes 4 x.steps ++ leBytes 4 x.skips ++
    s.rd p (fld m 64 8) (4 * fld m 56 4) ++ List.replicate (fld m 56 4 + 1) 0
def Cmd.saveN (k : Cmd) : Nat := fld k.msg 56 4
def Cmd.loadN (k : Cmd) : Nat := fld k.msg 48 4
def Cmd.saveKeys (k : Cmd) : List Nat := (List.range k.saveN).map fun i => fld k.data (272 + 4 * i) 4
def Cmd.loadKeys (k : Cmd) : List Nat := (List.range k.loadN).map fun i => fld k.data (4 * i) 4
/-- Granule i of a save is copied; i = n: the manifest. -/
def Cmd.saved (k : Cmd) (i : Nat) : Bool := fld k.data (272 + 4 * k.saveN + i) 1 == 1
def Cmd.setSaved (k : Cmd) (l : List Nat) : Cmd :=
  { k with data := l.foldl (fun d i => lay d (272 + 4 * k.saveN + i) [1]) k.data }
/-- 0 before a load's first reads, 1 while it reads what every granule has, 2 while it reads the middle of those that
are no flasks. -/
def Cmd.loadPhase (k : Cmd) : Nat := fld k.data (4 * k.loadN) 1
def Cmd.setLoadPhase (k : Cmd) (n : Nat) : Cmd := { k with data := lay k.data (4 * k.loadN) (leBytes 1 n) }

/-- Read marks of a save that starts, on granules that carry no update mark (R242). -/
def State.ckptMarks (s : State) (p c : Nat) (m : List Byte) : State :=
  let ks := (s.ckptKeys p false m).filter fun k => !(s.stk.marks.any fun x => x.1 == k)
  s.setStk { s.stk with readMarks := s.stk.readMarks ++ ks.map fun k => (k, p, c) }

/-- Parts of a granule that a checkpoint copies, as offset and length: all but a flask's gradient
plane; a granule is a flask where it bears a flask's header (DEDUCED, log 20). -/
def ckptParts (flask : Bool) : List (Nat × Nat) :=
  if flask then [(0, 0xC0000), (0x140000, 0xC0000)] else [(0, 2 ^ 21)]

/-- The 512-byte manifest: tap record, LAST, STEPS, SKIPS, NGRAN and LIST address, then the entries
that fit (DEDUCED, log 20). -/
def Cmd.manifest (k : Cmd) : List Byte :=
  slice (slice k.data 0 272 ++ leBytes 4 k.saveN ++ leBytes 4 0 ++ leBytes 8 (fld k.msg 64 8) ++
    slice k.data 272 (4 * k.saveN)) 0 512

/-- Data bytes of a storage segment: with key and offset they fill the largest body (DEDUCED, log 20). -/
def storeMax : Nat := 65520

/-- A storage message of a command, and its segment in flight (R367). -/
def State.storeSend (s : State) (p c dest opcode offset len : Nat) (data : List Byte) : State :=
  let ep := dest % 2 ^ 16
  let key := dest / 2 ^ 16
  let body := leBytes 8 key ++ leBytes 8 offset ++ data
  let s := s.setFabric { s.fabric with
    store := s.fabric.store ++ [{ part := p, cid := c, endpoint := ep, key := key, offset := offset,
                                  len := len, isRead := opcode == 0x201 }] }
  (s.fabSend 0 ep 2 fun v t => .raw (fabBytes v 2 opcode s.devId ep p 0xFF 0 t body)).1

/-- A run of bytes sent in segments. -/
def State.storeRun (s : State) (p c dest offset : Nat) (bs : List Byte) : State :=
  forN (cdiv bs.length storeMax) s fun i s =>
    let part := (bs.drop (storeMax * i)).take storeMax
    s.storeSend p c dest 0x200 (offset + storeMax * i) part.length part

/-- Granules that a save may read now: those not copied that bear its read mark or no update mark (R242). -/
def State.saveNow (s : State) (p : Nat) (k : Cmd) : List Nat :=
  (List.range k.saveN).filter fun i =>
    let g := nth 0 k.saveKeys i
    !k.saved i && (s.stk.readMarks.contains (g, p, k.cid) || !(s.stk.marks.any fun x => x.1 == g))

/-- What a save writes for granule i: offset in the destination and bytes. -/
def State.saveRuns (s : State) (p : Nat) (k : Cmd) (i : Nat) : List (Nat × List Byte) :=
  let g := nth 0 k.saveKeys i
  (ckptParts (hdrOk (s.flaskHdr p (g / 2 ^ 16) (g % 2 ^ 16)))).map fun r =>
    (2 ^ 21 * i + r.1, s.rd p (granAddr g + r.1) r.2)

/-- A save's bytes go to host memory or, as segments, to the storage endpoint. -/
def State.savePut (s : State) (p : Nat) (k : Cmd) (r : Nat × List Byte) : State :=
  let dest := fld k.msg 72 8
  if fld k.msg 60 1 = 0 then s.setBytes (dest + r.1) r.2 else s.storeRun p k.cid dest r.1 r.2

/-- CKPT_SAVE (R251): the granules that it may read are copied, and after the last of them the manifest; a granule under an
update mark is read once that is lifted. -/
def execCkptSave (p c : Nat) (s : State) : Host.Outcome State Fault Refusal :=
  s.stepRow p c 0x414 fun k s =>
    let go := s.saveNow p k
    if k.saved k.saveN then s
    else
      match s.tagAccess p (go.map fun i => (granAddr (nth 0 k.saveKeys i), 2 ^ 21, false)) with
      | some t => t
      | none =>
        let last := (List.range k.saveN).all fun i => k.saved i || go.contains i
        let runs := go.flatMap (s.saveRuns p k) ++ (if last then [(2 ^ 21 * k.saveN, k.manifest)] else [])
        let s := s.modCmd p c fun k => k.setSaved (if last then go ++ [k.saveN] else go)
        let s := s.setStk { s.stk with
          readMarks := s.stk.readMarks.filter fun x =>
            !(x.2.1 == p && x.2.2 == c && go.any fun i => nth 0 k.saveKeys i == x.1) }
        let s := runs.foldl (fun s r => s.savePut p k r) s
        if last ∧ fld k.msg 60 1 = 0 then s.setOut p c .ok else s

/-- STORE_READ for a run of an object, in segments. -/
def State.storeReads (s : State) (p c src offset len : Nat) : State :=
  forN (cdiv len storeMax) s fun j s =>
    let n := min storeMax (len - storeMax * j)
    s.storeSend p c src 0x201 (offset + storeMax * j) n (leBytes 4 n)

/-- CKPT_LOAD (R252). From fabric storage it reads what a save stores of a flask, and the middle of a granule once the
bytes read show that it is none. -/
def execCkptLoad (p c : Nat) (s : State) : Host.Outcome State Fault Refusal :=
  s.stepRow p c 0x415 fun k s =>
    let ks := k.loadKeys
    let src := fld k.msg 64 8
    if k.loadPhase ≠ 0 then s
    else if (s.part p).step.live then s.setOut p c (.of 3)
    else
      match s.tagAccess p (ks.map fun g => (granAddr g, 2 ^ 21, true)) with
      | some t => t
      | none =>
        if fld k.msg 52 1 = 0 then
          (forN ks.length s fun i s =>
            let g := nth 0 ks i
            let a := src + 2 ^ 21 * i
            (ckptParts (hdrOk (s.bytes (a + 0xA0800) 64))).foldl (fun s r =>
              s.wr p (granAddr g + r.1) (s.bytes (a + r.1) r.2)) s).setOut p c .ok
        else if ks.isEmpty then s.setOut p c .ok
        else
          forN ks.length (s.modCmd p c fun k => k.setLoadPhase 1) fun i s =>
            (ckptParts true).foldl (fun s r => s.storeReads p c src (2 ^ 21 * i + r.1) r.2) s

/-- A load has what it read: the middle of granules that are no flasks is still to be read, or it is complete. -/
def State.loadMore (s : State) (p : Nat) (k : Cmd) : State :=
  let rest := (List.range k.loadN).filter fun i => !hdrOk (s.bytes (granAddr (nth 0 k.loadKeys i) + 0xA0800) 64)
  if k.loadPhase ≠ 1 ∨ rest.isEmpty then s.setOut p k.cid .ok
  else
    rest.foldl (fun s i => s.storeReads p k.cid (fld k.msg 64 8) (2 ^ 21 * i + 0xC0000) 0x80000)
      (s.modCmd p k.cid fun k => k.setLoadPhase 2)

/-! ## Fabric storage (R367) -/

/-- A storage command ends: its segments are dropped. -/
def State.storeEnd (s : State) (p c : Nat) (o : Compl) : State :=
  (s.setFabric { s.fabric with
    store := s.fabric.store.filter fun x => !(x.part == p && x.cid == c) }).setOut p c o

/-- The segment that an answer of an endpoint names by key and offset. -/
def State.storeSeg? (s : State) (isRead : Bool) (m : List Byte) : Option StoreSeg :=
  s.fabric.store.find? fun x =>
    x.isRead == isRead && x.endpoint == fld m 4 2 && x.key == fld m 32 8 && x.offset == fld m 40 8

/-- A segment is answered; the last one completes its command. -/
def State.storeDone (s : State) (x : StoreSeg) : State :=
  let s := s.setFabric { s.fabric with store := s.fabric.store.erase x }
  if s.fabric.store.any fun y => y.part == x.part && y.cid == x.cid then s
  else
    match s.cmd? x.part x.cid with
    | some k =>
      if k.opcode = 0x415 then s.loadMore x.part k else if k.saved k.saveN then s.setOut x.part x.cid .ok else s
    | none => s

/-- STORE_ACK: key, offset and a STATUS byte (DEDUCED, log 20). A read is answered so only where it fails. -/
def State.storeAck (s : State) (m : List Byte) : State :=
  match s.storeSeg? false m with
  | some x => if fld m 48 1 = 0 then s.storeDone x else s.storeEnd x.part x.cid (.of 4)
  | none =>
    match s.storeSeg? true m with
    | some x => if fld m 48 1 = 0 then s else s.storeEnd x.part x.cid (.of 4)
    | none => s

/-- Bytes of a segment read from storage, laid at an address. -/
def State.storeLay (s : State) (x : StoreSeg) (a : Nat) (m : List Byte) : State :=
  match s.firstBad x.part true a x.len with
  | some b => s.refuse x.part b
  | none => (s.wr x.part a (slice m 48 x.len)).storeDone x

/-- STORE_DATA: the bytes go to the granule that the offset names. -/
def State.storeData (s : State) (m : List Byte) : State :=
  match s.storeSeg? true m with
  | some x =>
    match s.cmd? x.part x.cid with
    | some k =>
      s.storeLay x (granAddr (nth 0 k.loadKeys (x.offset / 2 ^ 21)) + x.offset % 2 ^ 21) m
    | none => s
  | none => s

/-- A segment had no answer within 1 s after the resends. -/
def execStoreTimeout (p c : Nat) (s : State) : Host.Outcome State Fault Refusal :=
  if s.fabric.store.any fun x => x.part == p && x.cid == c then .next (s.storeEnd p c (.of 7)) else .next s

end Sys2Proof.Machine
end

