-- ==== Sys2Proof/Machine/Sampling.lean ====
section
/-! DEFINITION. Sampling and the walk of a serving step (R292, R293, R296 to R298). -/
namespace Sys2Proof.Machine

/-! ## Request descriptor (Table 13.3) -/

def rqId (d : List Byte) : Nat := fld d 0 4
def rqClass (d : List Byte) : Nat := fld d 4 1
def rqKeep (d : List Byte) : Bool := bit (fld d 5 1) 0
def rqResume (d : List Byte) : Bool := bit (fld d 5 1) 1
def rqPenPrompt (d : List Byte) : Bool := bit (fld d 5 1) 2
def rqNoSpec (d : List Byte) : Bool := bit (fld d 5 1) 3
def rqSeed (d : List Byte) : Nat := fld d 8 8
def rqConv (d : List Byte) : Nat := fld d 16 4
def rqTtl (d : List Byte) : Nat := fld d 20 4
def rqPrompt (d : List Byte) : Nat := fld d 24 4
def rqMaxNew (d : List Byte) : Nat := fld d 28 4
def rqW (d : List Byte) (o : Nat) : Word := w32 (fld d o 4)
def rqStops (d : List Byte) : List Nat :=
  ((List.range 8).map fun i => fld d (68 + 4 * i) 4).filter (· ≠ 0xFFFFFFFF)

/-! ## Count table (R297) -/

/-- A token counted: 4,096 distinct entries, counts saturating at 0xFFFF; true on overflow. -/
def countTok (t : List (Nat × Nat) × Bool) (tok : Nat) : List (Nat × Nat) × Bool :=
  if t.1.any fun e => e.1 == tok then
    (updFirst (fun e => e.1 == tok) (fun e => (e.1, min (e.2 + 1) 0xFFFF)) t.1, t.2)
  else if t.1.length < 4096 then (t.1 ++ [(tok, 1)], t.2) else (t.1, true)
def countToks (t : List (Nat × Nat) × Bool) (ts : List Nat) : List (Nat × Nat) × Bool :=
  ts.foldl countTok t
def countOf (t : List (Nat × Nat)) (tok : Nat) : Nat :=
  ((t.find? fun e => e.1 == tok).map (·.2)).getD 0

/-! ## Weights (R296) -/

/-- Penalised logits of a node. -/
def penalised (d : List Byte) (cs : List (Nat × Nat)) (logits : List Word) : List Word :=
  (List.range logits.length).map fun i =>
    let c := countOf cs i
    let l := logits.getD i 0
    let l := if c = 0 then l
      else
        let l := if flt 0 l then fmul l (frecip (rqW d 56)) else fmul l (rqW d 56)
        fsub l (rqW d 60)
    fsub l (fmul (rqW d 64) (f32 (.ofInt c)))

/-- Index of the largest value, the lowest on ties. -/
def argmax (l : List Word) : Nat :=
  ((List.range l.length).foldl (fun (a : Nat × Word) i =>
    let v := l.getD i 0
    if i = 0 ∨ flt a.2 v then (i, v) else a) (0, 0)).1

/-- Indices in order of descending weight, lower index first on ties. -/
def wIns (w : List Word) (i : Nat) : List Nat → List Nat
  | [] => [i]
  | j :: r => if flt (w.getD j 0) (w.getD i 0) then i :: j :: r else j :: wIns w i r
def byWeight (w : List Word) : List Nat := (List.range w.length).foldl (fun a i => wIns w i a) []

/-- The entries of some indices kept, +0 elsewhere. -/
def keepOnly (w : List Word) (ks : List Nat) : List Word :=
  (List.range w.length).map fun i => if ks.contains i then w.getD i 0 else 0

/-- Shortest prefix of `ks` whose running sum reaches `goal`. -/
def prefixTo (w : List Word) (goal : Word) : List Nat → Word → List Nat
  | [], _ => []
  | k :: r, a =>
    let a := fadd a (w.getD k 0)
    if fle goal a then [k] else k :: prefixTo w goal r a

/-- Sampling weights for TEMP > 0: top-k, top-p and min-p filters. -/
def weights (d : List Byte) (pl : List Word) : List Word :=
  let kt := fmul 0x3FB8AA3B#32 (frecip (rqW d 40))
  let sc := pl.map fun l => fmul l kt
  let m := match sc with | a :: r => r.foldl fmaxw a | [] => 0
  let w := sc.map fun x => fexp2 (fsub x m)
  let k := fld d 52 4
  let w := if k = 0 then w else keepOnly w ((byWeight w).take k)
  let ord := (byWeight w).filter fun i => flt 0 (w.getD i 0)
  let total := ord.foldl (fun a i => fadd a (w.getD i 0)) 0
  let w := if rqW d 44 = fOne then w else keepOnly w (prefixTo w (fmul (rqW d 44) total) ord 0)
  w.map fun x => if flt x (rqW d 48) then 0 else x

/-- f32 sum in increasing index. -/
def sumUp (w : List Word) : Word := w.foldl fadd 0

/-- draw of R298, in [0, 1). -/
def draw (seed pos j : Nat) : Word :=
  let o := mix seed (pos % 2 ^ 32) (0x20000 ||| j) 0 0
  f32 (Fl.scale2 (.ofInt (nth 0 o 0 / 256)) (-24))

/-- The lowest index with a positive weight at which the running sum exceeds a goal. -/
def firstOver (w : List Word) (goal : Word) : List Nat → Word → Option Nat
  | [], _ => none
  | i :: r, a =>
    let a := fadd a (w.getD i 0)
    if flt goal a ∧ flt 0 (w.getD i 0) then some i else firstOver w goal r a

/-- sample of R293; `rej` lists the rejected children in rank order with their weights. -/
def sample (w : List Word) (u : Word) (rej : List (Nat × Word)) : Nat :=
  let idx := List.range w.length
  match firstOver w (fmul u (sumUp w)) idx 0 with
  | some i => i
  | none =>
    match (idx.filter fun i => flt 0 (w.getD i 0)).getLast? with
    | some i => i
    | none => ((rej.foldl (fun (a : Option (Nat × Word)) e => match a with
        | none => some e
        | some b => if flt b.2 e.2 then some e else a) none).map (·.1)).getD 0

/-! ## The walk (R292) -/

/-- A drafted tree: parents and tokens by node, logits by node. -/
structure Tree where
  parents : List Nat
  toks : List Nat
  logits : List (List Word)

/-- Tokens of the path from node 1 to node v. -/
def pathToks (parents toks : List Nat) : Nat → Nat → List Nat
  | 0, _ => []
  | n + 1, v => if v = 0 then [] else pathToks parents toks n (parents.getD v 0) ++ [toks.getD v 0]
/-- Tokens of the first n nodes of a drafted tree (R291): a child takes the student's penalised logits at its parent in
descending order by its rank; a node whose rank goes beyond the vocabulary has a free one, numbered from `fresh`. -/
def draftToks (d : List Byte) (parents : List Nat) (pending : Nat) (cs : List (Nat × Nat) × Bool)
    (fresh : Nat) (student : List (List Word)) : Nat → List Nat
  | 0 => []
  | i + 1 =>
    let toks := draftToks d parents pending cs fresh student i
    if i = 0 then [pending]
    else
      let a := parents.getD i 0
      let rank := count (fun j => parents.getD j 0xFF == a) ((List.range i).drop 1)
      let pl := penalised d (countToks cs (pathToks parents toks i a)).1 (student.getD a [])
      toks ++ [(byWeight pl).getD rank (Config.freeWord (fresh + i)).toNat]

/-- Children of a node in rank order. -/
def Tree.kids (t : Tree) (v : Nat) : List Nat :=
  (List.range t.parents.length).filter fun i => decide (0 < i) && t.parents.getD i 0xFF == v

/-- Chooses among the children of a node: the accepted node, or none with the weights and the rejected
children. -/
def chooseKid (t : Tree) (seed pos : Nat) : List Nat → Nat → Word → List Word → List (Nat × Word) →
    Option Nat × List Word × List (Nat × Word)
  | [], _, _, w, rej => (none, w, rej)
  | c :: r, j, sum, w, rej =>
    let tok := t.toks.getD c 0
    let wc := w.getD tok 0
    if flt (fmul (draw seed pos j) sum) wc then (some c, w, rej)
    else chooseKid t seed pos r (j + 1) (fmaxw 0 (fsub sum wc)) (w.set tok 0) (rej ++ [(tok, wc)])

/-- Tokens emitted and nodes kept, from node v; `made` counts tokens produced before. -/
def walkGo (d : List Byte) (t : Tree) : Nat → Nat → Nat → List (Nat × Nat) × Bool → Nat →
    List Nat × List Nat
  | 0, _, _, _, _ => ([], [])
  | n + 1, v, pos, cs, made =>
    let pl := penalised d cs.1 (t.logits.getD v [])
    let ks := t.kids v
    let accept (c : Nat) : List Nat × List Nat :=
      let tok := t.toks.getD c 0
      if (rqStops d).contains tok ∨ rqMaxNew d ≤ made + 1 then ([tok], [c])
      else
        let r := walkGo d t n c (pos + 1) (countTok cs tok) (made + 1)
        (tok :: r.1, c :: r.2)
    if (fl (rqW d 40)).isZero then
      let g := argmax pl
      match ks.find? fun c => t.toks.getD c 0 == g with
      | some c => accept c
      | none => ([g], [])
    else
      let w := weights d pl
      match chooseKid t (rqSeed d) pos ks 0 (sumUp w) w [] with
      | (some c, _, _) => accept c
      | (none, w, rej) => ([sample w (draw (rqSeed d) pos 0x40) rej], [])

/-- One token drawn from a position's logits. -/
def drawOne (d : List Byte) (pos : Nat) (cs : List (Nat × Nat)) (logits : List Word) : Nat :=
  let pl := penalised d cs logits
  if (fl (rqW d 40)).isZero then argmax pl
  else sample (weights d pl) (draw (rqSeed d) pos 0x40) []

end Sys2Proof.Machine
end

