-- ==== Sys2Proof/Machine/Bounds.lean ====
section
/-! DEFINITION. The bounds that the scheduler of R316 compares: execution time of a command on clusters
or tiles (Tables 5.5, 6.6, R151, Table 8.8) and the save bound (R318). -/
namespace Sys2Proof.Machine

/-- Cycles of `n` bytes at a rate in bytes per second, at a clock in MHz. -/
def rateCyc (f n g : Nat) : Nat := cdiv (n * f * 1000000) g
/-- ⌈log₂ n⌉. -/
def clog2 (n : Nat) : Nat := if n ≤ 1 then 0 else Nat.log2 (n - 1) + 1

/-- Occupancy of a Tundish operation (Table 8.8). -/
def tndOccupancy (o : TOp) : Nat :=
  let n := cdiv o.rows 8 * cdiv o.cols 8
  let t := o.top
  let blkCvt := t == 8 && (isMx o.fA || isCz4 o.fA || isMx o.fY || isCz4 o.fY)
  if blkCvt ∨ t = 0x38 ∨ t = 0x39 then 2 * n
  else if 0x10 ≤ t ∧ t ≤ 0x13 then 4 * n
  else if t = 0x48 then (if bit o.md 0 then 4 * n else 5 * n)
  else if t = 0x26 then 5 * n
  else if t = 0x40 then 8 * n
  else if t = 0x30 then o.md * n
  else if t = 0x31 then
    cdiv (o.rows * o.cols) 64 +
      cdiv (if o.rows = 0 then 0 else o.scaleBlk (o.rows - 1) - o.scaleBlk 0 + 1) 16
  else if t = 0x49 then n + cdiv o.rows 16
  else n
/-- Tundish cycles of an operation (R177). -/
def tndCycles (o : TOp) : Nat := tndOccupancy o + 16

/-- Largest sum over `g` units of the bounds of the tasks q mod g places on each. -/
def worst (g n : Nat) (f : Nat → Nat) : Nat :=
  forN g 0 fun u m =>
    max m (forN n 0 fun q a => if q % g = u then a + f q else a)

/-- Key blocks of `kb` positions that a query block reads: causal ones end at its last query. -/
def keyBlocks (causal : Bool) (S kb q0 m : Nat) : Nat :=
  if causal then cdiv (min S (q0 + m)) kb else cdiv S kb

/-- Bytes per element of an output with its staging. -/
def outB (f : Nat) : Nat := if f = 0 then 4 else 2

/-- The GEMM lines of Tables 5.5 and 6.6. -/
def gemmCycles (f fixed tail gx gw gy T nt mt kb pass wBytes xBytes cols b : Nat) (scaled : Bool) : Nat :=
  let cw := rateCyc f wBytes gw
  let cx := rateCyc f xBytes gx
  let cp := max (max mt pass) (max cw cx)
  let cy := rateCyc f (mt * cols * b) gy
  let ctask := max (kb * cp) (mt + cy)
  fixed + max pass (max cw cx) + nt * ctask + mt + tail + cy +
    if scaled then 256 + 64 * clog2 T + nt * max (cdiv (mt * cols) 64) (rateCyc f (mt * cols * 3) gy)
    else 0

/-- `cyc` of Table 6.5. -/
def mgCyc (R K C L : Nat) : Nat :=
  cdiv (cdiv R 256 * cdiv C 16) 32 * cdiv K L * max (min R 256) L

/-- Bytes that the streams of an operation span. -/
def strmBytes (l : List Strm) : Nat := (l.map fun t => t.rows * t.len).foldl (· + ·) 0

/-- Cycles that bound a command with rates G_w, G_x, G_y at `f` MHz; `none` for a kernel without a
budget. -/
def boundCycles (op : Nat) (m : List Byte) (f gw gx gy : Nat) : Option Nat :=
  let T := fld m 49 1 * fld m 50 1
  let gm := fld m 49 1
  let gn := fld m 50 1
  if op = 0x200 then
    let M := fld m 56 4
    let a := tref m 80
    let L := chunkLen a.fmt
    let mt := min M 256
    let nt := cdiv (cdiv M 256) gm * cdiv (cdiv (fld m 60 4) 512) gn
    let by' := if a.fmt = 2 then 2 else 1
    some (gemmCycles f 96 120 gx gw gy T nt mt (cdiv (fld m 64 4) L) L (512 * L * by') (mt * L * by')
      512 (outB (tref m 144).fmt) (fp8 (tref m 144).fmt))
  else if op = 0x280 ∨ op = 0x281 then
    let M := fld m 60 4
    let w := (tref m 112).fmt
    let nw := tileNw w
    let mt := min M 512
    let nt := cdiv (cdiv M 512) gm * cdiv (cdiv (fld m 64 4) nw) gn
    let bw := if w = 0x0A then 36864 else if w = 9 then 34816 else if fp8 w then 32768 else 33792
    let xb := if fp8 (tref m 80).fmt then mt * 256 else mt * 264
    let logit : Bool := op = 0x281
    some (gemmCycles f 128 600 gx gw (if logit then 192000000000 else gy) T nt mt
      (cdiv (fld m 68 4) 256) 256 bw xb nw (if logit then 4 else outB (tref m 144).fmt)
      (!logit && fp8 (tref m 144).fmt))
  else if op = 0x201 then
    let S := fld m 60 4
    let d := 2 ^ fld m 65 1
    let qb := cdiv S 256
    some (worst T (fld m 52 4 * qb) fun q =>
      let q0 := q % qb * 256
      let mt := min 256 (S - q0)
      96 + keyBlocks (fld m 64 1 == 1) S 512 q0 mt *
        max (max (mgCyc mt d 512 32 + mgCyc mt 512 d 32) (32 * mt + cdiv (mt * d) 64))
          (rateCyc f (2 * 512 * d) gx) +
        cdiv mt 16 + cdiv (mt * d) 64 + rateCyc f (mt * (2 * d + 4)) gy)
  else if op = 0x202 then
    let S := fld m 60 4
    let H := fld m 52 4
    let d := 2 ^ fld m 65 1
    let causal := fld m 64 1 == 1
    let qb := cdiv S 256
    let kb := cdiv S 512
    let mtOf (b : Nat) := min 256 (S - b * 256)
    let ph0 := worst T (H * qb) fun q => 96 + cdiv (mtOf (q % qb) * d) 32
    let sw1 := worst T (H * kb) fun q =>
      let b0 := if causal then q % kb * 512 / 256 else 0
      forN (qb - b0) (96 + rateCyc f (2 * 512 * d * 2) gy) fun i a =>
        let mt := mtOf (b0 + i)
        a + max (max (mgCyc mt d 512 32 + mgCyc mt d 512 16 + 2 * mgCyc 512 mt d 16) (56 * mt))
          (rateCyc f (mt * (3 * d + 8)) gx)
    let sw2 := worst T (H * qb) fun q =>
      let mt := mtOf (q % qb)
      96 + keyBlocks causal S 512 (q % qb * 256) mt *
        max (max (mgCyc mt d 512 32 + mgCyc mt d 512 16 + mgCyc mt 512 d 16) (56 * mt))
          (rateCyc f (2 * 512 * d) gx) + rateCyc f (mt * d * 2) gy
    some (ph0 + sw1 + sw2)
  else if op = 0x282 then
    let S := fld m 68 4
    let d := 2 ^ fld m 58 1
    let qb := cdiv S 512
    some (worst T (fld m 60 4 * qb) fun q =>
      let q0 := q % qb * 512
      let mt := min 512 (S - q0)
      128 + keyBlocks (fld m 57 1 == 1) S 256 q0 mt *
        max (max ((2 + cdiv d 128) * max mt 256) (16 * mt + cdiv (mt * d) 64))
          (rateCyc f (2 * 256 * d) gx) +
        cdiv mt 16 + cdiv (mt * d) 64 + rateCyc f (mt * d * 2) gy)
  else if op = 0x204 ∨ op = 0x284 then
    let o := vecOp m
    let q := vecPlace m
    some ((if op = 0x204 then 96 else 128) + tndCycles o + rateCyc f (strmBytes (o.ins q vecCore)) gx +
      rateCyc f (strmBytes (o.outs q)) gy)
  else if fld m 64 4 = 0 then none
  else some (64 + rateCyc f (4 * fld m 52 4) gx + fld m 64 4)

/-- Clock of a command's units in MHz: the lower array frequency of its dies, or the Crucible's. -/
def State.unitClock (s : State) (us : List Nat) : Nat :=
  if us.any isTile then 1500
  else
    let fs := us.map fun u => (s.die (dieOfUnit u)).therm.freq
    fs.foldl min (fs.headD 1500)

/-- Bound of a command in ns (R315) on its units. -/
def State.boundNs (s : State) (p : Nat) (k : Cmd) (us : List Nat) : Option Nat :=
  let f := s.unitClock us
  (boundCycles k.opcode k.msg f (Config.rate p k.cid 0) (Config.rate p k.cid 1)
    (Config.rate p k.cid 2)).map fun c => cdiv (c * 1000) f

/-! ## The save bound (R317, R318) -/

/-- Bytes that a unit saves. -/
def saveBytes (u : Nat) : Nat := if isTile u then 2101248 else 7344128

/-- First save-area entry of a unit of a partition, and its count. -/
def State.saveEntries (s : State) (p u : Nat) : Nat × Nat :=
  let q := s.part p
  if isTile u then (4 * q.clusters.length + 2 * (q.tiles.map s.physTile).idxOf u, 2)
  else (4 * (q.clusters.map s.physCluster).idxOf u, 4)

/-- Bytes of a unit's save that lie on stacks of a die. -/
def State.saveOn (s : State) (p u d : Nat) : Nat :=
  let (e, n) := s.saveEntries p u
  forN n 0 fun i a =>
    let here := min (2 ^ 21) (saveBytes u - i * 2 ^ 21)
    if dieOfStack (nth 0 (s.part p).save (e + i) / 2 ^ 16) = d then a + here else a

/-- Time in ns for some bytes at a rate in bytes per second; none where there are bytes and no rate. -/
def xferNs (bytes rate : Nat) : Option Nat :=
  if bytes = 0 then some 0 else if rate = 0 then none else some (cdiv (bytes * 1000000000) rate)

/-- t_save of a command's units in ns; none where a share of 0 guarantees no rate to bytes of the save (R310). -/
def State.tSave (s : State) (p : Nat) (us : List Nat) : Option Nat :=
  let q := s.part p
  let sum (f : Nat → Nat) : Nat := (us.map f).foldl (· + ·) 0
  let shares := q.qstacks.map q.stkShare
  let gq := q.qstacks.length * (shares.foldl min (shares.headD 0) * 2400000000)
  let cross (i : Nat) : Nat := q.nocShare i * 8750000000000 / 1024
  let we := sum fun u => if dieOfUnit u = 0 then s.saveOn p u 1 else 0
  let ew := sum fun u => if dieOfUnit u = 1 then s.saveOn p u 0 else 0
  match xferNs (sum saveBytes) gq, xferNs we (cross 1), xferNs ew (cross 3) with
  | some a, some b, some c => some (200000 + max a (max b c))
  | _, _, _ => none

end Sys2Proof.Machine
end

