-- ==== Sys2Proof/Machine/Sched.lean ====
section
/-! DEFINITION. The scheduler of a partition (chapter 14): the start of commands and their refusals,
completion, quench, save and restore, pause, MEM_COPY, and the array clock at a command boundary. -/
namespace Sys2Proof.Machine

/-! ## Queues (R312, R340) -/

/-- The command holds its queue: not started, or at work on clusters or tiles. -/
def Cmd.holdsQueue (k : Cmd) : Bool :=
  k.phase == .queued || (k.phase != .answered && (onClusters k.opcode || onTiles k.opcode))
/-- The command holding or heading a queue. -/
def State.headOf (s : State) (p q : Nat) : Option Cmd :=
  (s.part p).cmds.find? fun k => k.queue == q && k.holdsQueue

/-- A dependency has failed; every one is met. -/
def State.depFailed (s : State) (p : Nat) (k : Cmd) : Bool :=
  k.deps.any fun d => match s.outcome p d with | some st => st ≠ 0 | none => false
def State.depsMet (s : State) (p : Nat) (k : Cmd) : Bool :=
  k.deps.all fun d => s.outcome p d == some 0

/-- A TEACHER command with a run-ahead limit: micro-batch and limit (R96). -/
def aheadOf (k : Cmd) : Option (Nat × Nat) :=
  if (k.opcode = 0x280 ∨ k.opcode = 0x281 ∨ k.opcode = 0x282) ∧ isTeacher k.msg then
    some (fld k.msg 52 4, fld k.msg 56 1)
  else none
/-- The run-ahead gate lets the command pass. -/
def State.gateOpen (s : State) (p : Nat) (k : Cmd) : Bool :=
  match aheadOf k with
  | some (mb, a) => decide (mb < a ∨ mb - a < s.doneMb p)
  | none => true

/-- The partition starts commands: its state, no pause in progress, the front end runs. -/
def State.startsCmds (s : State) (p : Nat) : Bool :=
  s.live 0 && (p == 8 || (((s.part p).st == .loaded || (s.part p).st == .running) &&
    (s.part p).pause.isNone))

/-! ## Readiness and choice (R313) -/

/-- Units that a queued or quenched command needs. -/
def State.needs (s : State) (k : Cmd) : List Nat :=
  if k.phase = .queued then s.unitsOf k.opcode k.msg else k.units
def Cmd.holdsUnits (k : Cmd) : Bool :=
  (k.phase == .running || k.phase == .saving || k.phase == .restoring) && !k.units.isEmpty
def meets (a b : List Nat) : Bool := a.any b.contains
/-- Started commands that hold units that `us` needs. -/
def State.holders (s : State) (p : Nat) (us : List Nat) : List Cmd :=
  (s.part p).cmds.filter fun k => k.holdsUnits && meets k.units us
/-- A head is ready: it waits for nothing but its units. -/
def State.isReady (s : State) (p : Nat) (k : Cmd) : Bool :=
  (k.phase == .queued && k.out.isNone && s.depsMet p k && s.gateOpen p k) || k.phase == .quenched
/-- The ready head of a queue is chosen among ready heads that need some of the same units. -/
def State.chosen (s : State) (p : Nat) (k : Cmd) : Bool :=
  (List.range 8).all fun q =>
    match s.headOf p q with
    | some y => y.cid == k.cid || !s.isReady p y || !meets (s.needs y) (s.needs k) ||
        decide (k.deadline < y.deadline ∨ (k.deadline = y.deadline ∧ k.queue < y.queue))
    | none => true

/-! ## Quench (R316 to R320) -/

/-- end(y): start, bound and time quenched, or the largest time where there is no bound. -/
def Cmd.endTime (k : Cmd) : Nat :=
  match k.bound with
  | some b => k.start + b + k.quenchTime
  | none => 2 ^ 64 - 1

/-- The command is being saved: its sequencers stop at an instruction boundary, a waiting BAR
unexecuted (R153). -/
def State.quench (s : State) (p : Nat) (k : Cmd) (reason : Nat) : State :=
  let s := s.modCmd p k.cid fun k => { k with phase := .saving, quenchAt := s.now, reason := reason }
  k.units.foldl (fun s u => s.modUnit u fun x =>
    if x.run = .barrier then
      { x with run := .quenched, seq := { x.seq with bars := x.seq.bars - 1 } }
    else if x.run = .running then { x with run := .quenched } else x) s

/-- The decision of R316 for a chosen command whose units are held. -/
def State.quenchDecision (s : State) (p : Nat) (k : Cmd) (us : List Nat) : State :=
  let hold := s.holders p us
  let b := (s.boundNs p k us).getD 0
  let latest := k.deadline - b
  let tb := (hold.map Cmd.endTime).foldl max 0
  let saves := hold.map fun y => s.tSave p y.units
  if !(s.part p).quenchEn ∨ tb ≤ latest then s
  else if hold.any fun y => decide (y.deadline ≤ k.deadline) || y.phase != .running || y.out.isSome then s
  else if saves.all Option.isSome ∧ s.now + (saves.filterMap id).foldl max 0 < tb then hold.foldl (fun s y => s.quench p y 0) s
  else s

/-- The decision is taken again for every ready head that is chosen and finds its units held. -/
def State.requench (s : State) (p : Nat) : State :=
  if s.startsCmds p ∧ p < 8 then
    (List.range 8).foldl (fun s q =>
      match s.headOf p q with
      | some k =>
        let us := s.needs k
        if k.phase = .queued ∧ s.isReady p k ∧ !us.isEmpty ∧ s.chosen p k ∧ !(s.holders p us).isEmpty
        then s.quenchDecision p k us else s
      | none => s) s
  else s

/-! ## Pause (R321) -/

/-- A command that a pause waits for: one that holds units, a save and a restore, and a running Sprue, Fumarole, Ladle or
seal command; copies, checkpoints and loads run on. -/
def Cmd.holdsPause (k : Cmd) : Bool :=
  k.phase == .saving || k.phase == .restoring ||
    (k.phase == .running && (!k.units.isEmpty || Decidable.decide (0x300 ≤ k.opcode ∧ k.opcode ≤ 0x385) || k.opcode == 0x400 ||
      k.opcode == 0x401 || k.opcode == 0x412))
/-- Something of the partition runs that a pause waits for. -/
def Part.active (q : Part) : Bool := q.cmds.any Cmd.holdsPause
/-- A pause in progress ends: PAUSED, and PART_PAUSE is answered. A serving partition pauses at its
next boundary only (`boundary`). -/
def State.pausePump (s : State) (p : Nat) (boundary : Bool) : State :=
  let q := s.part p
  match q.pause with
  | some (seq, tag) =>
    if q.st = .running ∧ !q.active ∧ (boundary ∨ q.serving.isNone) then
      (s.setPart p { q with st := .paused, pause := none }).respond 8 0x102 p seq tag.toNat .ok 0
    else s
  | none => s

/-! ## Start (R313, R339) -/

/-- A command is answered without having started. -/
def State.refuseCmd (s : State) (p : Nat) (k : Cmd) (o : Compl) : State :=
  (s.answerCmd p k o 0).pausePump p false

/-- Commands that a serving partition refuses from host software (R279). -/
def computeOp (op : Nat) : Bool :=
  decide (0x200 ≤ op ∧ op < 0x400) || op == 0x400 || op == 0x401 || op == 0x411

/-- A unit that is held out of service (R101, R109). -/
def State.unitHeld (s : State) (u : Nat) : Bool :=
  if isTile u then s.maps.tileHeld.contains (u - 256) else s.maps.clHeld.contains u

/-- A teacher's weight lies in the teacher region, which is not sealed (R93). -/
def State.unsealedWeight (s : State) (k : Cmd) : Bool :=
  (k.opcode == 0x280 || k.opcode == 0x281) && isTeacher k.msg && !s.regionSealed &&
    (((tref k.msg 112).ranges false).any fun r =>
      (List.range (r.2.1 / 2 ^ 21 + 2)).any fun i =>
        let a := if i = 0 then r.1 else (r.1 / 2 ^ 21 + i) * 2 ^ 21
        decide (a < r.1 + r.2.1) && (match addrKind a with
          | .stack n off => match s.codeAt n off with | some c => c == 8 || c == 9 | none => false
          | _ => false))

/-- Records that the start of a command reads. -/
def State.startRanges (s : State) (p : Nat) (k : Cmd) : List Range :=
  let m := k.msg
  if k.opcode = 0x300 then [(fld m 152 8, 64, false)]
  else if k.opcode = 0x412 then (if bit (fld m 56 1) 0 then [(fld m 64 8, 256, false)] else [])
  else if k.opcode = 0x414 then [(fld m 64 8, 4 * fld m 56 4, false)]
  else if k.opcode = 0x415 then [(fld m 56 8, 4 * fld m 48 4, false)]
  else if k.opcode = 0x501 then [(fld m 72 8, 4 * fld m 52 4, false)]
  else if k.opcode = 0x400 ∨ k.opcode = 0x401 then
    let d := s.rd p (fld m 48 8) 128
    [(fld m 48 8, 128, false), (fld d 56 8, 16 * min (lNshard d) 65536, false),
     (fld d 72 8, 2 * min (lNlist d) 16384, false)] ++
      if lFlask d then
        (lFlaskAt d, 4 * lNflask d, false) ::
          hdrRanges ((s.list32 p (lFlaskAt d) (lNflask d)).filter fun k => decide (k < 12 * 2 ^ 16 ∧ k % 2 ^ 16 < granCount))
      else []
  else []

/-- SV_VARIANT_LOAD at its start (R283): a live request, granules that exist and are the partition's. -/
def State.variantStart (s : State) (p : Nat) (m : List Byte) : Option Compl :=
  let ks := s.list32 p (fld m 72 8) (fld m 52 4)
  let live : Bool := match (s.part p).serving with
    | some v => v.reqs.any fun r => r.state != .finished && r.state != .cancelled && r.state != .dropped
    | none => false
  if !ks.all keyOk then some (.malformed 72)
  else if ks.any fun k => (s.gran k).owner ≠ p then some (.of 5)
  else if live then some (.of 3)
  else none

/-- The refusal that the start of a command meets, beside the stack queue's and the Ladle's. -/
def State.startRefusal (s : State) (p : Nat) (k : Cmd) : Option Compl :=
  let m := k.msg
  let op := k.opcode
  if (s.part p).serving.isSome ∧ computeOp op then some (.of 3)
  else if s.unsealedWeight k then some (.of 3)
  else if (s.unitsOf op m).any s.unitHeld then some (.of 4)
  else if op = 0x281 then s.cgLogitStart p m
  else if op = 0x300 then match s.spLossStart p m with | .inl o => some o | .inr _ => none
  else if op = 0x301 then s.spFeatStart p m
  else if op = 0x410 ∨ op = 0x411 ∨ op = 0x412 then s.stepStart p op m
  else if op = 0x414 then s.ckptStart p false m
  else if op = 0x415 then s.ckptStart p true m
  else if op = 0x501 then s.variantStart p m
  else none

/-- The command is started on its units; the first start of a job makes the partition RUNNING. -/
def State.started (s : State) (p : Nat) (k : Cmd) (data : List Byte) (us : List Nat) : State :=
  let s := s.modCmd p k.cid fun k => { k with
    phase := .running, start := s.now, bound := s.boundNs p k us, units := us, data := data, e4nan := s.e4nan p }
  let s := s.modPart p fun q => if q.st = .loaded then { q with st := .running } else q
  let s := (s.moves .d2d 0).moves .d2d 1
  let s := if k.opcode = 0x281 ∨ k.opcode = 0x300 ∨ k.opcode = 0x301 then (s.moves .sprue 0).moves .sprue 1 else s
  match s.cmd? p k.cid with
  | some k => if us.isEmpty then s else s.startUnits p k us
  | none => s

/-- Starts a ready command that needs no unit. -/
def State.startFree (s : State) (p : Nat) (k : Cmd) : State :=
  let m := k.msg
  let op := k.opcode
  if isFm op then
    -- a full stack queue holds the front end (R217)
    let q := s.fumQ (fmStack m) p
    if 8 ≤ q.length then s
    else
      let s := s.started p k [] []
      let s := forN 33 s fun u s =>
        let s := s.moves .fum (fmStack m * 64 + u)
        if op = 0x380 then s else s.movesBytes .fum (fmStack m * 64 + u)
      s.setFumQ (fmStack m) p (q ++ [k.cid])
  else if op = 0x400 ∨ op = 0x401 then
    if 64 ≤ s.ldFlight p (op == 0x400) then s
    else
      match s.ldStart p op m with
      | .inl o => (s.ldLimit p op m).refuseCmd p k o
      -- STEP and RIDX, for its step once its response is written
      | .inr r => (s.started p k (slice r.1 8 8 ++ slice r.1 4 2) []).ldBegin p k.cid op r
  else
    let data := if op = 0x300 then s.rd p (fld m 152 8) 64
      else if op = 0x412 ∧ bit (fld m 56 1) 0 then s.rd p (fld m 64 8) 256
      else if op = 0x414 ∨ op = 0x415 then s.ckptRecord p (op == 0x415) m
      else if op = 0x501 then s.rd p (fld m 72 8) (4 * fld m 52 4) else []
    let s := s.started p k data []
    if op = 0x414 then s.ckptMarks p k.cid m else s

/-- A head whose turn it is: refused, started, waiting, or quenching what holds its units. -/
def State.tryStart (s : State) (p : Nat) (k : Cmd) : State :=
  match s.tagAccess p (s.startRanges p k) with
  | some t => t
  | none =>
    match s.startRefusal p k with
    | some o => s.refuseCmd p k o
    | none =>
      let us := s.unitsOf k.opcode k.msg
      if us.isEmpty then s.startFree p k
      else if !s.chosen p k then s
      else if (s.holders p us).isEmpty then s.started p k [] us
      else s.quenchDecision p k us

/-- The head of a queue becomes ready (R313): it is answered, started, restored, or waits. -/
def execCommandReady (p q : Nat) (s : State) : Host.Outcome State Fault Refusal :=
  if p ≤ 8 ∧ s.startsCmds p then
    match s.headOf p q with
    | some k =>
      if k.phase = .queued then
        match k.out with
        | some o => .next (s.refuseCmd p k o)
        | none =>
          if s.depFailed p k then
            .next (s.refuseCmd p k { Compl.of 8 with cflags := cfDEPFAIL })
          else if s.isReady p k then .next (s.tryStart p k)
          else .next s
      else if k.phase = .quenched ∧ s.chosen p k ∧ (s.holders p k.units).isEmpty then
        .next (s.modCmd p k.cid fun k => { k with phase := .restoring })
      else .next s
    | none => .next s
  else .next s

/-! ## Completion (R314, R319, R342) -/

/-- LATE: the flag, the count and the event (R314). -/
def State.lateness (s : State) (p : Nat) (k : Cmd) : State × Nat :=
  if k.deadline < s.now ∧ k.deadline ≠ 2 ^ 64 - 1 then
    (if p < 8 then (s.count32 .part p 0x9C 1).evSet .part p 3 else s, cfLATE)
  else (s, 0)

/-- A step records LONGSUM of a command of the partition: the open step, otherwise the sealing one
(DEDUCED, log 20). -/
def State.noteLong (s : State) (p : Nat) (n : Word) : State :=
  if n.toNat &&& nsLONGSUM = 0 then s
  else
    match (s.part p).step.opened, (s.part p).step.sealing with
    | some r, _ => s.modRed p r.step fun x => { x with longsum := true }
    | none, some (_, r) => s.modRed p r.step fun x => { x with longsum := true }
    | none, none => s

/-- A started command with an outcome writes its response. -/
def State.completeCmd (s : State) (p : Nat) (k : Cmd) (o : Compl) : State :=
  let (s, late) := s.lateness p k
  let s := if p < 8 then
      (s.setPg .part p 0x48 (s.pg .part p 0x48 ||| o.nstat.toNat % 16)).noteLong p o.nstat
    else s
  let s := k.units.foldl (fun s u => s.modUnit u fun x => { x with run := .idle }) s
  let s := s.answerCmd p k
    { o with cflags := o.cflags ||| late ||| (if k.wasQuenched then cfQUENCHED else 0) } k.start
  (s.pausePump p false).requench p

/-- The commands that an event has ended are answered with it, in SEQ order (R346): `s` stands before the event. -/
def State.endedNow (s t : State) (p : Nat) : State :=
  ((t.part p).cmds.filter fun k => k.phase == .running && k.out.isSome &&
    (s.part p).cmds.any fun j => j.cid == k.cid && j.out.isNone).foldl
      (fun t k => match k.out with | some o => t.completeCmd p k o | none => t) t

/-- A command that has run to completion (R342). -/
def execCommandComplete (p c : Nat) (s : State) : Host.Outcome State Fault Refusal :=
  match s.cmd? p c with
  | some k =>
    match k.out with
    | some o =>
      if k.phase = .running ∧ s.dev.state = .ready ∧ (s.part p).st ≠ .faulted ∧
          (s.part p).st ≠ .draining then .next (s.completeCmd p k o)
      else .next s
    | none => .next s
  | none => .next s

/-! ## Save and restore (R73, R98, R123, R153, R317, R319) -/

/-- Address of byte `i` of a unit's part of the save area. -/
def State.saveAddr (s : State) (p u i : Nat) : Nat :=
  granAddr (nth 0 (s.part p).save ((s.saveEntries p u).1 + i / 2 ^ 21)) + i % 2 ^ 21

/-- Ranges of the save area that a save or a restore of some units uses. -/
def State.saveRanges (s : State) (p : Nat) (write : Bool) (us : List Nat) : List Range :=
  us.flatMap fun u => (List.range (s.saveEntries p u).2).map fun i =>
    (s.saveAddr p u (i * 2 ^ 21), min (2 ^ 21) (saveBytes u - i * 2 ^ 21), write)

/-- The bytes of a save; the spec gives them no layout, so each is a free value (DESIGN CHOICE, log 6, 21). -/
def savedByte (seed i : Nat) : Byte := (Config.freeWord (seed + i)).truncate 8

/-- The unit's state as a save holds it. -/
def SeqUnit.image (x : SeqUnit) : UnitImage :=
  { seq := x.seq, tokens := x.tokens, queue := x.queue, rows := x.rows, links := x.links, mem := x.mem,
    epoch := x.epoch, imem := x.imem, placed := x.placed, scaleMade := x.scaleMade, run := if x.run = .quenched then .running else x.run }

/-- One unit is saved. -/
def State.saveUnit (s : State) (p c u : Nat) : State :=
  let img := (s.unit u).image
  let seed := s.fresh
  let s := s.setFresh (s.fresh + saveBytes u)
  let s := forN (saveBytes u) s fun i s => s.wr p (s.saveAddr p u i) [savedByte seed i]
  let s := s.modUnit u fun x => { x with saveSeed := seed }
  s.modCmd p c fun k => { k with images := k.images ++ [(u, img)] }

/-- Issued work has completed, summaries have arrived, started descriptors are done. -/
def SeqUnit.settled (x : SeqUnit) : Bool := x.arrs.isEmpty && x.tnds.isEmpty && x.started.isEmpty

/-- QUENCH_DONE in the pages of the units (R104, R126). -/
def State.unitsDone (s : State) (us : List Nat) : State :=
  us.foldl (fun s u => let (k, i) := unitPage u; s.evSet k i (if isTile u then 5 else 9)) s

/-- A save is complete (R319). A granule of the save area that is no longer the partition's refuses its bytes (R209). -/
def execQuenchSaveDone (p c : Nat) (s : State) : Host.Outcome State Fault Refusal :=
  match s.cmd? p c with
  | some k =>
    if k.phase = .saving ∧ s.cmdLive k ∧ (s.part p).st = .running ∧
        k.units.all fun u => (s.unit u).settled then
      let s := k.units.foldl (fun s u => s.saveUnit p c u) s
      match s.badRange p (s.saveRanges p true k.units) with
      | some a => .next (s.refuse p a)
      | none =>
        let s := s.modCmd p c fun k => { k with phase := .quenched, wasQuenched := true }
        let s := s.unitsDone k.units
        let s := (s.count32 .part p 0x98 1).evSet .part p 2
        let s := s.vent p 0x800D p (leBytes 4 k.tag.toNat ++ leBytes 1 k.reason ++ [0, 0, 0] ++ leBytes 8 s.now)
        .next (s.pausePump p false)
    else .next s
  | none => .next s

/-- What a restore reads where the partition has written into its save area: values that the spec gives
no encoding for (DESIGN CHOICE, log 21). -/
def UnitImage.scramble (x : UnitImage) (n : Nat) : UnitImage :=
  let w (i : Nat) : Word := Config.freeWord (n + i)
  { x with
    seq := { x.seq with
      s := (List.range 31).map (fun i => (i + 1, w i)) |>.filter (fun e => e.2 ≠ 0),
      p := (w 32).truncate 8 ||| 1, pc := w 33, nstat := w 34 &&& 0xF, cycle := (w 35).toNat },
    tokens := x.tokens.map fun e => (e.1, (w (64 + e.1)).truncate 16),
    rows := x.rows.map fun e => (e.1, { e.2 with sums := (List.range e.2.sums.length).map fun i => w (1024 + e.1 * 256 + i) }),
    mem := [], epoch := n + 1 }

/-- One unit is restored from its image; a save area that differs from what the last save of the unit
wrote gives free values. -/
def State.restoreUnit (s : State) (p u : Nat) (img : UnitImage) : State :=
  let seed := (s.unit u).saveSeed
  let same := (List.range (saveBytes u)).all fun i => s.byte (s.saveAddr p u i) == savedByte seed i
  let img := if same then img else img.scramble s.fresh
  let s := if same then s else s.setFresh (s.fresh + 1)
  s.modUnit u fun x => { x with
    seq := img.seq, tokens := img.tokens, queue := img.queue, rows := img.rows, links := img.links,
    mem := img.mem, epoch := img.epoch, imem := img.imem, placed := img.placed, scaleMade := img.scaleMade, run := img.run, started := [], arrs := [], tnds := [] }

/-- The sequencers of a restored command run on: a PC outside the program raises BRANCH (R128). -/
def State.resumed (s : State) (us : List Nat) : State := us.foldl (fun s u => s.afterIssue u) s

/-- A restore is complete: the command resumes on its units (R319); under a pause in progress it is
quenched again (R321). A granule of the save area that is no longer the partition's refuses the read (R209). -/
def execQuenchRestoreDone (p c : Nat) (s : State) : Host.Outcome State Fault Refusal :=
  match s.cmd? p c with
  | some k =>
    if k.phase = .restoring ∧ s.cmdLive k ∧ (s.part p).st = .running then
      match s.tagAccess p (s.saveRanges p false k.units) with
      | some t => .next t
      | none =>
        let s := s.startUnits p k k.units
        let s := (k.images.foldl (fun s (e : Nat × UnitImage) => s.restoreUnit p e.1 e.2) s).unitsDone k.units
        let s := s.modCmd p c fun k => { k with
          phase := .running, images := [], quenchTime := k.quenchTime + (s.now - k.quenchAt) }
        let s := s.resumed k.units
        if (s.part p).st = .faulted then .next s
        else if (s.part p).pause.isSome then
          match s.cmd? p c with
          | some k => .next (s.quench p k 1)
          | none => .next s
        else .next (s.requench p)
    else .next s
  | none => .next s

/-! ## MEM_COPY (R344) -/

def memCopyForm (m : List Byte) : Option Nat :=
  let n := fld m 64 8
  let ok := decide (1 ≤ n ∧ n ≤ 2 ^ 40)
  firstOf [need 48 (!reservedAddr (fld m 48 8) (if ok then n else 1)),
    need 56 (!reservedAddr (fld m 56 8) (if ok then n else 1)), need 64 ok]

/-- First offset of a copy at which an address is refused or its data is poisoned, and that address with
whether it is poison. -/
def State.copyStop (s : State) (tag src dst n : Nat) : Option (Nat × Nat × Bool) :=
  let bad : List (Nat × Nat × Bool) :=
    ((s.firstBad tag false src n).map fun a => (a - src, a, false)).toList ++
    ((s.firstBad tag true dst n).map fun a => (a - dst, a, false)).toList ++
    ((s.poisoned [(src, n, false)]).map fun a => (a - src, a, true)).toList
  bad.foldl (fun (o : Option (Nat × Nat × Bool)) x =>
    match o with
    | some y => if x.1 < y.1 then some x else some y
    | none => some x) none

/-- Moves bytes under the ring's tag. Bytes before a refused or poisoned address remain written; with the
management tag a refusal ends the command DENIED (R210) and poison ends it FAULTED, the destination
bytes from there on being free values (R233, DESIGN CHOICE, log 6). -/
def execMemCopy (p c : Nat) (s : State) : Host.Outcome State Fault Refusal :=
  match s.cmd? p c with
  | some k =>
    if k.opcode = 0x112 ∧ k.phase = .running ∧ k.out = none ∧ s.live 0 ∧ (s.part p).st ≠ .faulted then
      let dst := fld k.msg 48 8
      let src := fld k.msg 56 8
      let n := fld k.msg 64 8
      match s.copyStop p src dst n with
      | none => .next ((s.wr p dst (s.rd p src n)).setOut p c .ok)
      | some (off, a, poison) =>
        let s := s.wr p dst (s.rd p src off)
        let fin' (st : Nat) (t : State) : State :=
          if p = 8 then t.modCmd p c fun k => { k with out := some (.of st) } else t
        if poison then
          let t := s.dramPoison p a
          if p = 8 then
            let junk := (List.range (n - off)).map fun i => Config.poisonByte (t.fresh + i)
            .next (fin' 6 ((t.setFresh (t.fresh + (n - off))).wr p (dst + off) junk))
          else .next t
        else .next (fin' 5 (s.refuse p a))
    else .next s
  | none => .next s

/-! ## The array clock (R20, R391) -/

/-- Bytes of the fuses of a die as last sensed (R379). -/
def State.fuse (s : State) (d off n : Nat) : List Byte :=
  (List.range n).map fun i =>
    ((tget 0 (s.die d).otp.sensed ((off + i) / 4)) >>> (8 * ((off + i) % 4))).truncate 8
/-- A field of the active configuration record of a die (Table 17.6); 0 where none is valid. -/
def State.cfgFld (s : State) (d off n : Nat) : Nat :=
  let g := (s.die d).otp.cfgGen
  if g = 7 then 0 else leNat (s.fuse d (0xB40 + g * 0x100 + off) n)
/-- PWR_LIMIT in W and ARRAY_FMAX in MHz of a die. -/
def State.pwrLimit (s : State) (d : Nat) : Nat := if s.cfgFld d 4 2 = 0 then 2900 else s.cfgFld d 4 2
def State.arrayFmax (s : State) (d : Nat) : Nat := if s.cfgFld d 6 2 = 0 then 1600 else s.cfgFld d 6 2

/-- A started command, quenched or not, holds clusters of a die: it may not meet another array frequency (R20). -/
def State.clustersBusy (s : State) (die : Nat) : Bool :=
  (List.range 9).any fun p => (s.part p).cmds.any fun k =>
    k.phase != .queued && k.phase != .answered && k.units.any fun u => !isTile u && dieOfUnit u == die

/-- A die's array clock takes the lowest of set point, ARRAY_FMAX and ceiling, at a command boundary of
every cluster on the die. -/
def execDvfsApply (die : Nat) (s : State) : Host.Outcome State Fault Refusal :=
  let t := (s.die die).therm
  let f := min (min (s.pg .clk die 0x44) (s.arrayFmax die)) (if t.ceiling = 0 then 1600 else t.ceiling)
  if s.live die ∧ !s.clustersBusy die ∧ f ≠ t.freq then
    let s := s.modDie die fun x => { x with therm := { x.therm with freq := f } }
    .next ((s.evSet .clk die 2).count32 .clk die 0x50 1)
  else .next s

end Sys2Proof.Machine
end

