-- ==== Sys2Proof/Machine/Serving.lean ====
section
/-! DEFINITION. Serving (chapter 13): the configuration, requests and conversations, the step boundary,
prefill and walk, copies to and from the slower tier. -/
namespace Sys2Proof.Machine

/-! ## Configuration record (Table 13.2) -/

def svRole (c : List Byte) : Nat := fld c 0 1
def svNtree (c : List Byte) : Nat := fld c 3 1
def svSlots (c : List Byte) : Nat := fld c 4 2
def svNlayer (c : List Byte) : Nat := fld c 6 2
def svCtx (c : List Byte) : Nat := fld c 8 4
def svChunk (c : List Byte) : Nat := fld c 12 4
def svGroups (c : List Byte) : Nat := fld c 16 4
def svVocab (c : List Byte) : Nat := fld c 20 4
def svArena (c : List Byte) : Nat := fld c 40 8
def svArenaSize (c : List Byte) : Nat := fld c 48 8
/-- Page words of a page table. -/
def svTable (c : List Byte) : Nat := cdiv (svCtx c) 64
/-- Page bytes and stack of a layer. -/
def layerPage (l : List Byte) : Nat := kvPage (fld l 2 1) (2 ^ fld l 3 1)
def layerStack (l : List Byte) : Nat := fld l 1 1
/-- Bytes of a KV group: one page of every layer. -/
def groupBytes (ls : List (List Byte)) : Nat := (ls.map layerPage).foldl (· + ·) 0

/-- A layer of the map (Table 13.2); the head dimension is one that FM_ATTN takes. -/
def layerOk (l : List Byte) : Bool :=
  decide (fld l 0 1 ≤ 1 ∧ fld l 1 1 ≤ 11 ∧ 1 ≤ fld l 2 1 ∧ 6 ≤ fld l 3 1 ∧ fld l 3 1 ≤ 8) &&
    fp8 (fld l 4 1) && zeros l 5 8
/-- Student layers come first. -/
def layersOrdered : List (List Byte) → Bool
  | a :: b :: r => decide (fld a 0 1 ≤ fld b 0 1) && layersOrdered (b :: r)
  | _ => true

/-- Depth of a node of a template. -/
def nodeDepth (t : List Nat) : Nat → Nat → Nat
  | 0, _ => 0
  | n + 1, i => if i = 0 then 0 else nodeDepth t n (nth 0 t i) + 1
/-- The conditions of R282. -/
def treeOk (t : List Nat) : Bool :=
  nth 0 t 0 == 0xFF &&
  (List.range t.length).all fun i =>
    (i == 0 || decide (nth 0 t i < i)) && decide (nodeDepth t 64 i ≤ 15) &&
      (i == 0 || decide (nodeDepth t 64 (i - 1) ≤ nodeDepth t 64 i))

/-- The message's own fields (16 + offset in the record), those of a record that clears among them. -/
def svCfgForm (m : List Byte) : Option Nat :=
  let c := slice m 16 96
  firstOf [need 16 (decide (svRole c ≤ 2) || svRole c == 0xFF), need 17 (decide (fld c 1 1 ≤ 1)),
    need 18 (decide (fld c 2 1 ≤ 1)),
    need 19 (if svRole c = 2 then decide (2 ≤ svNtree c ∧ svNtree c ≤ 64) else svNtree c == 1),
    need 20 (decide (1 ≤ svSlots c ∧ svSlots c ≤ 256)),
    need 22 (decide (1 ≤ svNlayer c ∧ svNlayer c ≤ 512)),
    need 24 (svCtx c % 64 == 0 && decide (64 ≤ svCtx c ∧ svCtx c ≤ 2097152)),
    need 28 (svChunk c % 64 == 0 && decide (64 ≤ svChunk c ∧ svChunk c ≤ 131072)),
    need 36 (decide (2 ≤ svVocab c ∧ svVocab c ≤ 1048576)),
    need 40 (!reservedAddr (fld c 24 8) (8 * svNlayer c)),
    need 48 (!reservedAddr (fld c 32 8) (svNtree c)),
    need 56 (addrKind (svArena c) == .host && svArena c % 2 ^ 21 == 0),
    need 64 (svArenaSize c % 2 ^ 21 == 0 && decide (svArena c + svArenaSize c ≤ 2 ^ 48)),
    need 72 (!reservedAddr (fld c 56 8) (4 * fld c 64 4)), need 84 (zeros c 68 96)]

/-! ## Places of pages and page tables (R229, R230, R284; DESIGN CHOICE, log 53)

In each stack the listed granules take, in list order, the pages of one size after another, and then the page tables. -/

/-- Layers that lie in a stack, and the page sizes among them. -/
def stackLayers (ls : List (List Byte)) (n : Nat) : List (List Byte) := ls.filter fun l => layerStack l == n
def pageSizes (ls : List (List Byte)) (n : Nat) : List Nat := ((stackLayers ls n).map layerPage).eraseDups
/-- Page slots of a granule. -/
def perGran (P : Nat) : Nat := min 32 (2 ^ 21 / P)
/-- Granules that the pages of one size take in a stack. -/
def sizeGrans (c : List Byte) (ls : List (List Byte)) (n P : Nat) : Nat :=
  cdiv (count (fun l => layerPage l == P) (stackLayers ls n) * svGroups c) (perGran P)
/-- Granules that a stack's pages take. -/
def pageGrans (c : List Byte) (ls : List (List Byte)) (n : Nat) : Nat :=
  ((pageSizes ls n).map (sizeGrans c ls n)).foldl (· + ·) 0
/-- Granules that a stack's pages and page tables take; none where a page exceeds a granule. -/
def stackNeed (c : List Byte) (ls : List (List Byte)) (n : Nat) : Option Nat :=
  if (pageSizes ls n).any fun P => perGran P == 0 && svGroups c ≠ 0 then none
  else some (pageGrans c ls n + cdiv (svSlots c * (stackLayers ls n).length * svTable c * 4) (2 ^ 21))

def Serving.layer (v : Serving) (l : Nat) : List Byte := nth [] v.layers l
/-- Granule of the k-th place in a stack's list. -/
def Serving.kvGran (v : Serving) (n k : Nat) : Nat := nth 0 (v.kv.filter fun g => g / 2 ^ 16 == n) k
/-- Granule and page slot of layer l's page of a group. -/
def Serving.pagePlace (v : Serving) (l g : Nat) : Nat × Nat :=
  let n := layerStack (v.layer l)
  let P := layerPage (v.layer l)
  let same (ls : List (List Byte)) : Nat := count (fun x => layerPage x == P) (stackLayers ls n)
  let before := ((pageSizes v.layers n).takeWhile (· ≠ P)).map (sizeGrans v.cfg v.layers n)
  let i := g * same v.layers + same (v.layers.take l)
  (v.kvGran n (before.foldl (· + ·) 0 + i / perGran P), i % perGran P)
def Serving.pageAddr (v : Serving) (l g : Nat) : Nat :=
  granAddr (v.pagePlace l g).1 + (v.pagePlace l g).2 * layerPage (v.layer l)
/-- Page word of a group's page of layer l (R229). -/
def Serving.pageWord (v : Serving) (l g fill : Nat) : Nat :=
  2 ^ 31 + layerStack (v.layer l) * 2 ^ 27 + (v.pagePlace l g).1 % 2 ^ 16 * 2 ^ 11 + (v.pagePlace l g).2 * 2 ^ 6 + (fill - 1)
/-- Address of word i of the page table of a sequence slot and layer. -/
def Serving.tableAddr (v : Serving) (slot l i : Nat) : Nat :=
  let n := layerStack (v.layer l)
  let k := (slot * (stackLayers v.layers n).length + (stackLayers (v.layers.take l) n).length) * svTable v.cfg + i
  granAddr (v.kvGran n (pageGrans v.cfg v.layers n + k * 4 / 2 ^ 21)) + k * 4 % 2 ^ 21
/-- Ranges of a sequence's page tables, of a group's slot maps and of token slots' rows, all written (R209). -/
def Serving.tableRanges (v : Serving) (r : Req) : List Range :=
  match r.slot with
  | none => []
  | some sl => (List.range v.layers.length).flatMap fun l =>
      (List.range (svTable v.cfg)).map fun i => (v.tableAddr sl l i, 4, true)
def Serving.mapRanges (v : Serving) (e : Nat × List Nat) : List Range :=
  (List.range v.layers.length).map fun l => (v.pageAddr l e.1, e.2.length, true)
/-- The page table of a sequence in every layer: the words of its pages, the others not VALID. -/
def State.putTable (s : State) (v : Serving) (r : Req) : State :=
  match r.slot with
  | none => s
  | some sl => forN v.layers.length s fun l s => forN (svTable v.cfg) s fun i s =>
      s.setBytes (v.tableAddr sl l i) (leBytes 4 (match r.pages[i]? with
        | some e => v.pageWord l e.1 e.2.length
        | none => 0))
/-- The slot map of a group's page in every layer, below FILL (R284, R286). -/
def State.putMaps (s : State) (v : Serving) (e : Nat × List Nat) : State :=
  forN v.layers.length s fun l s => s.setBytes (v.pageAddr l e.1) (e.2.flatMap (leBytes 1))
/-- Addresses of the K and V rows and scales of a token slot in a page of a layer (R230). -/
def rowAddrs (l : List Byte) (a slot : Nat) : List Nat :=
  let H := fld l 2 1
  let d := 2 ^ fld l 3 1
  (List.range (2 * H)).flatMap fun h =>
    ((List.range d).map fun i => a + 64 + (h * 64 + slot) * d + i) ++ [a + 64 + 2 * H * 64 * d + h * 64 + slot]
def Serving.rowRanges (v : Serving) (ps : List (Nat × Nat)) : List Range :=
  ps.flatMap fun e => (List.range v.layers.length).flatMap fun l =>
    (rowAddrs (v.layer l) (v.pageAddr l e.1) e.2).map fun a => (a, 1, true)
/-- K and V of token slots, given as group and slot, written in every layer: what the layers' programs compute is a free
value (DESIGN CHOICE, log 23). -/
def State.kvRows (s : State) (v : Serving) (ps : List (Nat × Nat)) : State :=
  let as := ps.flatMap fun e => (List.range v.layers.length).flatMap fun l =>
    rowAddrs (v.layer l) (v.pageAddr l e.1) e.2
  forN as.length (s.setFresh (s.fresh + as.length)) fun i s' => s'.setByte (nth 0 as i) (savedByte s.fresh i)

/-! ## The arena (R300, R301): cells of one group each (DESIGN CHOICE, log 53) -/

def Serving.cellAddr (v : Serving) (c l : Nat) : Nat :=
  svArena v.cfg + c * groupBytes v.layers + groupBytes (v.layers.take l)
/-- Cells in use: of evicted and resumed requests, of conversations, and of copies on their way. -/
def Serving.cellsUsed (v : Serving) : List Nat :=
  v.reqs.flatMap (fun (r : Req) => r.cells) ++ v.convs.flatMap (fun (c : Conv) => c.cells) ++
    v.copies.flatMap fun e => e.2.1.map (fun (x : Nat × Nat) => x.2)
/-- What the arena holds of a conversation beside its pages: VARIANT_ID, the pending token and the count table (R300;
its layout DESIGN CHOICE, log 53). -/
def Conv.record (c : Conv) : List Byte :=
  leBytes 4 c.variant ++ leBytes 4 (c.pending.getD 0xFFFFFFFF) ++
    ((c.counts.flatMap fun e => leBytes 4 e.1 ++ leBytes 2 e.2) ++ List.replicate (6 * (4096 - c.counts.length)) 0)
def recordBytes : Nat := 8 + 6 * 4096
/-- Cells that a record takes. -/
def Serving.recordCells (v : Serving) : Nat := cdiv recordBytes (groupBytes v.layers)
/-- The record of a conversation goes to the cells after its pages'. -/
def State.putRecord (s : State) (v : Serving) (c : Conv) : State :=
  let b := groupBytes v.layers
  let cs := c.cells.drop c.pages.length
  forN cs.length s fun i s => s.setBytes (v.cellAddr (nth 0 cs i) 0) (slice c.record (i * b) (min b (recordBytes - i * b)))

/-- The lowest free cells, where the arena can hold n more groups. -/
def Serving.takeCells (v : Serving) (n : Nat) : Option (List Nat) :=
  let used := v.cellsUsed
  let cs := ((List.range (min (svArenaSize v.cfg / groupBytes v.layers) (used.length + n))).filter
    fun c => !used.contains c).take n
  if cs.length = n then some cs else none
/-- Ranges of pages of groups, read or written. -/
def Serving.pageRanges (v : Serving) (ps : List (Nat × Nat)) (write : Bool) : List Range :=
  ps.flatMap fun e => (List.range v.layers.length).map fun l => (v.pageAddr l e.1, layerPage (v.layer l), write)
/-- Pages of groups go to cells of the arena, and come back. -/
def State.copyOut (s : State) (v : Serving) (ps : List (Nat × Nat)) : State :=
  ps.foldl (fun s e => forN v.layers.length s fun l s =>
    s.setBytes (v.cellAddr e.2 l) (s.bytes (v.pageAddr l e.1) (layerPage (v.layer l)))) s
def State.copyIn (s : State) (v : Serving) (ps : List (Nat × Nat)) : State :=
  ps.foldl (fun s e => forN v.layers.length s fun l s =>
    s.setBytes (v.pageAddr l e.1) (s.bytes (v.cellAddr e.2 l) (layerPage (v.layer l)))) s

/-- SV_CFG judged and carried out (R279, R281, R284); ROLE 0xFF clears, and is judged like any other but for what names
its role. -/
def State.svCfgMsg (s : State) (p : Nat) (m : List Byte) : State × Option Compl :=
  let c := slice m 16 96
  let run (s : State) : State := s.modPart p fun q => if q.st = .loaded then { q with st := .running } else q
  match s.tagAccess p [(fld c 24 8, 8 * svNlayer c, false), (fld c 32 8, svNtree c, false),
      (fld c 56 8, 4 * fld c 64 4, false)] with
  | some t => (t, some (.of 5))
  | none =>
    let ls := (List.range (svNlayer c)).map fun i => s.rd p (fld c 24 8 + 8 * i) 8
    let tree := (s.rd p (fld c 32 8) (svNtree c)).map (·.toNat)
    let kv := s.list32 p (fld c 56 8) (fld c 64 4)
    let q := s.part p
    let lacks := (List.range 12).any fun n =>
      match stackNeed c ls n with
      | some g => decide (count (fun k => k / 2 ^ 16 == n) kv.eraseDups < g)
      | none => true
    if !(ls.all layerOk && layersOrdered ls) then (s, some (.malformed 40))
    else if !treeOk tree then (s, some (.malformed 48))
    else if !kv.all keyOk then (s, some (.malformed 72))
    else if kv.any fun k => (s.gran k).owner ≠ p then (s, some (.of 5))
    else if svRole c ≠ 0xFF ∧ q.serving.isSome then (s, some (.of 3))
    else if (svRole c = 1 ∨ svRole c = 2) ∧ (!q.trUse ∨ !s.regionSealed) then (s, some (.of 3))
    else if lacks ∨ q.slots < svSlots c then (s, some (.of 4))
    else if svRole c = 0xFF then (run (s.modPart p fun q => { q with serving := none }), some .ok)
    else
      let v : Serving :=
        { cfg := c, layers := ls, tree := tree, kv := kv.eraseDups, free := List.range (svGroups c),
          returning := [], copies := [], reqs := [], convs := [], due := 2 ^ 64 - 1, step := 0 }
      (run (s.modPart p fun q => { q with serving := some v }), some .ok)

/-! ## SV_VARIANT_LOAD (R283) -/

def variantForm (m : List Byte) : Option Nat :=
  let src := fld m 56 8
  let n := fld m 64 8
  firstOf [need 56 (addrKind src == .host && decide (src + n ≤ 2 ^ 48)),
    need 64 (decide (n ≤ fld m 52 4 * 2 ^ 21)), need 72 (!reservedAddr (fld m 72 8) (4 * fld m 52 4))]

/-- The weights are copied over PCI Express into the granules of the list that its start read, in list order. -/
def execSvVariantLoad (p c : Nat) (s : State) : Host.Outcome State Fault Refusal :=
  s.stepRow p c 0x501 fun k s =>
    let m := k.msg
    let ks := (List.range (fld m 52 4)).map fun i => fld k.data (4 * i) 4
    let n := fld m 64 8
    let src := fld m 56 8
    let len (i : Nat) : Nat := min (2 ^ 21) (n - i * 2 ^ 21)
    match s.tagAccess p ((List.range ks.length).map fun i => (granAddr (nth 0 ks i), len i, true)) with
    | some t => t
    | none =>
      let s := forN ks.length s fun i s =>
        s.wr p (granAddr (nth 0 ks i)) (s.bytes (src + i * 2 ^ 21) (len i))
      (s.modPart p fun q => { q with variant := fld m 48 4 }).setOut p c .ok

/-! ## Requests (R288 to R290, R299, R300) -/

def State.modServ (s : State) (p : Nat) (f : Serving → Serving) : State :=
  s.modPart p fun q => { q with serving := q.serving.map f }
def Serving.modReq (v : Serving) (id : Nat) (f : Req → Req) : Serving :=
  { v with reqs := updFirst (fun r => rqId r.desc == id) f v.reqs }

/-- SV_SUBMIT's own fields, without what the serving configuration gives. -/
def svSubmitForm (m : List Byte) : Option Nat :=
  let d := slice m 16 128
  let w (o : Nat) : Word := rqW d o
  firstOf [need 20 (decide (rqClass d ≤ 1)), need 21 (decide (fld d 5 1 < 16)), need 22 (zeros d 6 8),
    need 36 (if rqKeep d then decide (1000 ≤ rqTtl d ∧ rqTtl d ≤ 86400000) else rqTtl d == 0),
    need 40 (decide (1 ≤ rqPrompt d)), need 44 (decide (1 ≤ rqMaxNew d)),
    need 48 (!reservedAddr (fld d 32 8) (4 * rqPrompt d)),
    need 56 (fIsFin (w 40) && fle 0 (w 40)), need 60 (flt 0 (w 44) && fle (w 44) fOne),
    need 64 (fle 0 (w 48) && flt (w 48) fOne), need 72 (fIsFin (w 56) && fle fOne (w 56)),
    need 76 (fIsFin (w 60)), need 80 (fIsFin (w 64)), need 116 (zeros d 100 128)]

/-- Prompt tokens of a descriptor. -/
def State.promptOf (s : State) (p : Nat) (d : List Byte) : List Nat :=
  (List.range (rqPrompt d)).map fun i => s.rdU p (fld d 32 8 + 4 * i) 4

/-- A new request in QUEUED. -/
def Req.new (d : List Byte) (now : Nat) : Req :=
  { desc := d, state := .queued, accepted := now, slot := none, pages := [], fresh := [], cells := [],
    filled := 0, committed := 0, pending := none, counts := [], penOvf := false, stepped := false,
    out := [], pos := 0, nodes := 0, acc := 0, made := 0, cancel := false, ended := false, flags := 0,
    copying := false, deferred := false }

/-- The earliest of two offending offsets. -/
def earlier (a b : Option Nat) : Option Nat :=
  match a, b with
  | some x, some y => some (min x y)
  | some x, none => some x
  | none, y => y

/-- The form of an SV_SUBMIT: its own fields and what the serving configuration gives. -/
def State.submitForm (s : State) (p : Nat) (m : List Byte) : Option Nat :=
  let d := slice m 16 128
  match (s.part p).serving with
  | none => svSubmitForm m
  | some v => earlier (svSubmitForm m)
      (firstOf [need 44 (decide (rqPrompt d + rqMaxNew d ≤ svCtx v.cfg)),
        need 68 (decide (fld d 52 4 ≤ svVocab v.cfg))])

/-- SV_SUBMIT judged and carried out (R288, R290). -/
def State.svSubmitMsg (s : State) (p : Nat) (m : List Byte) : State × Option Compl :=
  let d := slice m 16 128
  match s.submitForm p m with
  | some o => (s, some (.malformed o))
  | none =>
    match (s.part p).serving with
    | none => (s, some (.of 3))
    | some v =>
      match s.tagAccess p [(fld d 32 8, 4 * rqPrompt d, false)] with
      | some t => (t, some (.of 5))
      | none =>
        let conv := v.convs.find? fun c => c.conv == rqConv d && !c.forget
        let resumeOk : Bool := match conv with
          | some c => c.variant == (s.part p).variant && c.holder.isNone &&
              (match c.expiry with | some e => decide (s.now < e) | none => false)
          | none => false
        if (s.promptOf p d).any (svVocab v.cfg ≤ ·) then (s, some (.malformed 48))
        else if v.reqs.any fun r => rqId r.desc == rqId d then (s, some (.of 3))
        else if rqResume d ∧ !resumeOk then (s, some (.of 3))
        else if 4096 ≤ count (fun r => r.state == .queued) v.reqs then (s, some (.of 4))
        else
          (s.modServ p fun v => { v with
            reqs := v.reqs ++ [Req.new d s.now],
            convs := if rqResume d then
                updFirst (fun c => c.conv == rqConv d && !c.forget)
                  (fun c => { c with expiry := none, holder := some (rqId d) }) v.convs
              else v.convs }, some .ok)

/-- SV_CANCEL (R299). -/
def State.svCancelMsg (s : State) (p : Nat) (m : List Byte) : State × Option Compl :=
  let id := fld m 16 4
  let ok : Bool := match (s.part p).serving with
    | some v => v.reqs.any fun r => rqId r.desc == id && !r.cancel
    | none => false
  if ok then (s.modServ p fun v => v.modReq id fun r => { r with cancel := true }, some .ok)
  else (s, some (.of 3))

/-- SV_FORGET (R300): a conversation that is not kept, or that a request holds, is a conflict (DEDUCED, log 22). -/
def State.svForgetMsg (s : State) (p : Nat) (m : List Byte) : State × Option Compl :=
  let id := fld m 16 4
  let ok : Bool := match (s.part p).serving with
    | some v => v.convs.any fun c => c.conv == id && c.holder.isNone && !c.forget
    | none => false
  if ok then
    (s.modServ p fun v => { v with
      convs := updFirst (fun c => c.conv == id && !c.forget) (fun c => { c with forget := true }) v.convs },
     some .ok)
  else (s, some (.of 3))

/-! ## The boundary (R287, R294, R299 to R301) -/

/-- Groups that a request holds: none without a sequence slot. -/
def Req.groups (r : Req) : List Nat := if r.slot.isSome then r.pages.map (·.1) ++ r.fresh else []
/-- Template nodes of a sequence in a step. -/
def Serving.ntree (v : Serving) (r : Req) : Nat :=
  if svRole v.cfg = 2 ∧ !rqNoSpec r.desc then svNtree v.cfg else 1
/-- FILL of the tail page; a sequence without pages counts as full. -/
def Req.tailFill (r : Req) : Nat := match r.pages.getLast? with | some e => e.2.length | none => 64
def Serving.tableFull (v : Serving) (r : Req) : Bool := decide (svTable v.cfg ≤ r.pages.length)
/-- The sequence needs a fresh group (R285, R287). -/
def Serving.needsFresh (v : Serving) (r : Req) : Bool :=
  (r.state == .running || r.state == .held) && r.fresh.isEmpty && !v.tableFull r &&
    decide (64 - r.tailFill < v.ntree r)
/-- Order of age within class: a before b. -/
def older (a b : Req) : Bool :=
  decide (rqClass a.desc < rqClass b.desc ∨ (rqClass a.desc = rqClass b.desc ∧ a.accepted < b.accepted))
def ageIns (r : Req) : List Req → List Req
  | [] => [r]
  | x :: l => if older r x then r :: x :: l else x :: ageIns r l
/-- Requests by class and age, acceptance order on ties. -/
def byAge (l : List Req) : List Req := l.foldl (fun a r => ageIns r a) []

/-- A request's end at a boundary; it gives up its slot. -/
def Req.close (r : Req) (st : ReqState) (fl : Nat) : Req :=
  { r with state := st, flags := r.flags ||| fl, slot := none, pages := [], fresh := [], cells := [], copying := false }
/-- A request's groups return at once, and a conversation that it holds goes with it. -/
def Serving.endNow (v : Serving) (r : Req) (st : ReqState) (fl : Nat) : Serving :=
  { v with
    free := v.free ++ r.groups,
    convs := v.convs.filter fun (c : Conv) => c.holder ≠ some (rqId r.desc) }.modReq (rqId r.desc) (·.close st fl)
/-- A request ends, its conversation kept: one of the same identifier that nothing holds is replaced (DEDUCED, log 22). -/
def Serving.endKept (v : Serving) (r : Req) (st : ReqState) (fl : Nat) (c : Conv) : Serving :=
  { v with convs := (v.convs.filter fun (d : Conv) =>
      !(d.conv == c.conv && d.holder.isNone) && d.holder ≠ some (rqId r.desc)) ++ [c] }.modReq (rqId r.desc)
    (·.close st (fl ||| 4))
/-- The conversation that a request with KEEP leaves. -/
def Req.conv (r : Req) (variant now : Nat) (cells : List Nat) (copying : Bool) : Conv :=
  { conv := rqConv r.desc, variant := variant, expiry := some (now + rqTtl r.desc * 1000000),
    pages := r.pages.map (·.2), committed := r.committed, pending := r.pending, counts := r.counts,
    penOvf := r.penOvf, cells := cells, forget := false, req := rqId r.desc, copying := copying, holder := none }

/-- A request ends FINISHED or CANCELLED at a boundary and is released (phase 1, R300). With KEEP its pages and its record
go to the arena, unless they are there: a QUEUED request's conversation, and the pages of one that is PAUSED or not yet back.
Its groups return at the first boundary after its copy. -/
def Serving.release (v : Serving) (variant now : Nat) (r : Req) (st : ReqState) (fl : Nat) : Serving :=
  let id := rqId r.desc
  if !rqKeep r.desc then v.endNow r st fl
  else
    match v.convs.find? fun c => c.holder == some id with
    | some c => v.endKept r st fl { c with holder := none, expiry := some (now + rqTtl r.desc * 1000000), conv := rqConv r.desc }
    | none =>
      if r.slot.isNone ∨ r.copying then
        match v.takeCells (r.pages.length + v.recordCells - r.cells.length) with
        | none => v.endNow r st (fl ||| 8)
        | some cs =>
          { v with returning := v.returning ++ r.groups }.endKept r st fl
            (r.conv variant now (r.cells ++ cs) (r.slot.isNone && r.copying))
      else
        match v.takeCells (r.pages.length + v.recordCells) with
        | none => v.endNow r st (fl ||| 8)
        | some cs =>
          { v with copies := v.copies ++ [(id, (r.pages.map fun (e : Nat × List Nat) => e.1).zip cs, r.fresh)] }.endKept r st fl
            (r.conv variant now cs true)

/-- Phase 1: ended and cancelled requests, forgotten conversations, groups that return. -/
def Serving.phase1 (v : Serving) (variant now : Nat) : Serving :=
  let v := { v with free := v.free ++ v.returning, returning := [] }
  let v := v.reqs.foldl (fun v r =>
    if r.ended then v.release variant now r .finished (if r.cancel then 1 else 0)
    else if r.cancel then v.release variant now r .cancelled 0
    else v) v
  { v with convs := v.convs.filter fun c => !c.forget }

/-- Phase 2: conversations that expire. -/
def Serving.expired (v : Serving) (now : Nat) : List Conv :=
  v.convs.filter fun c => c.holder.isNone && (match c.expiry with | some e => decide (e ≤ now) | none => false)
def Serving.phase2 (v : Serving) (now : Nat) : Serving :=
  { v with convs := v.convs.filter fun c => !(v.expired now).contains c }

/-- Phase 3: full tables end; fresh groups are granted in order. Answers the identifiers not served. -/
def Serving.phase3 (v : Serving) (variant now : Nat) : Serving × List Nat :=
  let v := v.reqs.foldl (fun v r =>
    if (r.state == .running || r.state == .held) && v.tableFull r && r.tailFill == 64 then
      v.release variant now r .finished 128
    else v) v
  (byAge (v.reqs.filter v.needsFresh)).foldl (fun (a : Serving × List Nat) r =>
    match a.1.free with
    | g :: rest =>
      if a.2.isEmpty then
        ({ a.1 with free := rest }.modReq (rqId r.desc) fun r => { r with fresh := [g] }, [])
      else (a.1, a.2 ++ [rqId r.desc])
    | [] => (a.1, a.2 ++ [rqId r.desc])) (v, [])

/-- Lowest free sequence slot. -/
def Serving.freeSlot (v : Serving) : Option Nat :=
  (List.range (svSlots v.cfg)).find? fun i => !v.reqs.any fun r => r.slot == some i

/-- The kept conversation that a QUEUED request resumes. -/
def Serving.convOf (v : Serving) (r : Req) : Option Conv := v.convs.find? fun c => c.holder == some (rqId r.desc)

/-- Tokens that a joining request has yet to prefill: what is left of its prompt, with the pending token that it resumes
after. -/
def Serving.left (v : Serving) (r : Req) : Nat :=
  let kept := match v.convOf r with
    | some c => c.pending.isSome
    | none => rqResume r.desc && r.pending.isSome && r.made == 0
  rqPrompt r.desc + (if kept then 1 else 0) - r.filled
/-- Tokens of a joining sequence, P of R294: kept ones and those to prefill. -/
def Serving.joinTokens (v : Serving) (r : Req) : Nat :=
  v.left r + (match v.convOf r with
    | some c => c.committed
    | none => r.committed + (if r.pending.isSome && 0 < r.made then 1 else 0))
/-- Pages of a joining sequence: those kept, with their slot maps, and those that its prefill fills. -/
def Serving.joinPages (v : Serving) (r : Req) : Nat :=
  (match v.convOf r with | some c => c.pages.length | none => r.pages.length) + cdiv (v.left r) 64
/-- Groups that a join needs: R294's count, or its pages where kept ones are partly filled (DEDUCED, log 22). -/
def Serving.joinNeed (v : Serving) (r : Req) : Nat := max (cdiv (v.joinTokens r) 64 + 1) (v.joinPages r)
/-- A resume fails where its conversation is gone, or its tokens or pages exceed the context (DEDUCED, log 22). -/
def Serving.resumeFails (v : Serving) (r : Req) : Bool :=
  r.state == .queued && rqResume r.desc &&
    ((v.convOf r).isNone || decide (svCtx v.cfg < v.joinTokens r) || decide (svTable v.cfg < v.joinPages r))

/-- Admits one request. -/
def Serving.seat (v : Serving) (r : Req) (slot : Nat) : Serving :=
  let need := v.joinNeed r
  let gs := v.free.take need
  let v' := { v with free := v.free.drop need }
  match v.convOf r with
  | some c =>
    { v' with convs := v'.convs.filter fun d => d.holder ≠ some (rqId r.desc) }.modReq (rqId r.desc) fun r =>
      { r with
        state := .prefill, slot := some slot, pages := gs.zip c.pages, fresh := gs.drop c.pages.length,
        cells := c.cells, committed := c.committed, pending := c.pending, counts := c.counts,
        penOvf := c.penOvf, copying := !c.pages.isEmpty, flags := r.flags ||| 64 }
  | none =>
    v'.modReq (rqId r.desc) fun r => { r with
      state := .prefill, slot := some slot, pages := gs.zip (r.pages.map (·.2)),
      fresh := gs.drop r.pages.length, copying := !r.pages.isEmpty }

/-- Phase 4: joins in order, none overtaking; a resume that cannot be carried out ends DROPPED (R289). -/
def Serving.phase4 (v : Serving) : Serving :=
  ((byAge (v.reqs.filter fun r => r.state == .queued || r.state == .paused)).foldl
    (fun (a : Serving × Bool) r =>
      let v := a.1
      let busy := r.copying || (match v.convOf r with | some c => c.copying | none => false)
      match v.freeSlot with
      | some sl =>
        if a.2 && v.resumeFails r then (v.endNow r .dropped 0, true)
        else if a.2 && !busy && decide (v.joinNeed r ≤ v.free.length) then (v.seat r sl, true) else (v, false)
      | none => (v, false)) (v, true)).1

/-- Groups in flight to the slower tier, and those that return at the next boundary. -/
def Serving.inFlight (v : Serving) : Nat :=
  (v.copies.map fun e => e.2.1.length + e.2.2.length).foldl (· + ·) 0 + v.returning.length

/-- A victim pauses: no slot, no groups, its slot maps kept with its place in the arena. -/
def Req.pause (r : Req) (cells : List Nat) (copying : Bool) : Req :=
  { r with
    state := .paused, slot := none, fresh := [], pages := r.pages.map fun e => (0, e.2), cells := cells,
    copying := copying }
/-- Evicts one victim (R294, R301): the fresh group granted to it returns at once, its other groups after its copy; one
whose pages are still in the arena needs none. -/
def Serving.evict (v : Serving) (r : Req) : Serving :=
  let id := rqId r.desc
  if r.copying then { v with returning := v.returning ++ r.groups }.modReq id (·.pause r.cells false)
  else
    match v.takeCells r.pages.length with
    | none => v.endNow r .dropped 0
    | some cs =>
      let own := if r.state = .prefill then r.fresh else []
      { v with
        free := v.free ++ (if r.state = ReqState.prefill then [] else r.fresh),
        copies := v.copies ++ [(id, (r.pages.map fun (e : Nat × List Nat) => e.1).zip cs, own)] }.modReq id (·.pause cs true)

/-- Phase 5: victims until groups returned or in flight cover the growth still ungranted; the rest of
it is HELD. -/
def Serving.phase5 (v : Serving) (un : List Nat) : Serving :=
  let cands (v : Serving) (cls : Nat) : List Req := (byAge (v.reqs.filter fun r =>
    rqClass r.desc == cls && (r.state == .running || r.state == .held || r.state == .prefill))).reverse
  let go := forN v.reqs.length (v, un) fun _ (a : Serving × List Nat) =>
    if a.1.free.length + a.1.inFlight ≥ a.2.length then a
    else
      match cands a.1 1 ++ cands a.1 0 with
      | r :: _ => (a.1.evict r, a.2.filter (· ≠ rqId r.desc))
      | [] => a
  { go.1 with reqs := go.1.reqs.map fun r =>
      if go.2.contains (rqId r.desc) then { r with state := .held }
      else if r.state = .held then { r with state := .running } else r }

/-- Joins that stay out are deferred; only the first time is reported. -/
def Serving.deferJoins (v : Serving) : Serving :=
  { v with reqs := v.reqs.map fun r =>
      if (r.state = .queued ∨ r.state = .paused) ∧ !r.deferred then
        { r with deferred := true, flags := r.flags ||| 32 }
      else r }

/-! ## VENT_STEP_TOKENS (R303, Table 13.7) -/

def ReqState.code : ReqState → Nat
  | .running => 0 | .prefill => 1 | .held => 2 | .paused => 3 | .finished => 4 | .cancelled => 5
  | .dropped => 6 | .queued => 7
def ReqState.over : ReqState → Bool
  | .finished => true | .cancelled => true | .dropped => true | _ => false

/-- One entry of the Vent. -/
def Req.entry (r : Req) : List Byte :=
  let toks := r.out.flatMap (leBytes 4)
  leBytes 4 (rqId r.desc) ++ leBytes 1 r.state.code ++
    leBytes 1 (r.flags ||| (if r.penOvf then 2 else 0)) ++ leBytes 2 r.out.length ++
    leBytes 1 r.nodes ++ leBytes 1 r.acc ++ [0, 0] ++ leBytes 4 r.pos ++
    slice toks 0 (16 * cdiv toks.length 16)

/-- Requests in increasing REQ_ID. -/
def idIns (r : Req) : List Req → List Req
  | [] => [r]
  | x :: l => if rqId r.desc < rqId x.desc then r :: x :: l else x :: idIns r l

/-- Body of the Vent for a closed step: requests with tokens, a changed state, or a first deferral. -/
def stepTokens (step : Nat) (before : List Req) (after : List Req) : List Byte :=
  let changed (r : Req) : Bool :=
    !r.out.isEmpty || bit r.flags 5 ||
      (match before.find? fun b => rqId b.desc == rqId r.desc with
        | some b => b.state != r.state
        | none => true)
  let es := (after.filter changed).foldl (fun a r => idIns r a) []
  leBytes 8 step ++ leBytes 4 es.length ++ leBytes 4 0 ++ es.flatMap Req.entry

/-- A step may end: every sequence at work in it has done its part. -/
def Serving.stepDone (v : Serving) : Bool :=
  v.reqs.all fun r => !(r.state == .running || (r.state == .prefill && !r.copying)) || r.stepped

/-- The five phases of a boundary; what joins is decided before anyone is evicted. -/
def Serving.boundary (v : Serving) (variant now : Nat) : Serving :=
  let (v, un) := ((v.phase1 variant now).phase2 now).phase3 variant now
  (if un.isEmpty then v.phase4 else v).deferJoins.phase5 un

/-- A step boundary (R294, R303, R304); with a pause in progress the partition pauses there (R321). -/
def execStepBoundary (p : Nat) (s : State) : Host.Outcome State Fault Refusal :=
  let q := s.part p
  match q.serving with
  | some v =>
    if q.st = .running ∧ v.stepDone ∧ s.live 0 then
      let w := v.boundary q.variant s.now
      match s.tagAccess p (w.reqs.flatMap w.tableRanges) with
      | some t => .next t
      | none =>
      let gone := (v.phase1 q.variant s.now).expired s.now
      let s := gone.foldl (fun s c =>
        s.vent p 0x800A p (leBytes 4 c.conv ++ leBytes 4 c.variant ++ leBytes 8 s.now)) s
      let s := if v.step = 0 then s else s.vent p 0x8001 p (stepTokens (v.step - 1) v.reqs w.reqs)
      let late := s.pg .part p 0x4C % 2 ^ 24
      let s := w.reqs.foldl (fun s r => s.putTable w r) s
      let s := (w.convs.filter fun c => !v.convs.contains c).foldl (fun s c => s.putRecord w c) s
      let w := { w with
        step := w.step + 1, due := if late = 0 then 2 ^ 64 - 1 else s.now + late * 1000,
        reqs := (w.reqs.filter fun r => !r.state.over).map fun r =>
          { r with stepped := false, out := [], nodes := 0, acc := 0, flags := 0 } }
      .next ((s.modPart p fun q => { q with serving := some w }).pausePump p true)
    else .next s
  | none => .next s

/-! ## Prefill and walk (R285, R286, R291, R292) -/

/-- A sequence's commands end after the deadline of the step (R314, R279): one of them is counted late (DEDUCED, log 22). -/
def State.servLate (s : State) (p : Nat) (v : Serving) : State :=
  if v.due < s.now ∧ v.due ≠ 2 ^ 64 - 1 then (s.count32 .part p 0x9C 1).evSet .part p 3 else s

/-- Template nodes that take part in a step, with their places: tail slots not named by the map, then
slots of the fresh group, which a full table does not take (R285, R287, R291). -/
def Serving.places (v : Serving) (r : Req) : List (Nat × Bool × Nat) :=
  let n := v.ntree r
  let tree := if n = 1 then [0xFF] else v.tree
  let named := match r.pages.getLast? with | some e => e.2 | none => List.range 64
  let tail := (List.range 64).filter fun i => !named.contains i
  -- positions below CTX_MAX
  let fits := (List.range n).filter fun i => r.committed + nodeDepth tree 64 i < svCtx v.cfg
  let room := tail.length + (if r.fresh.isEmpty ∨ v.tableFull r then 0 else 64)
  (List.range (min room fits.length)).map fun j =>
    (nth 0 fits j, if j < tail.length then (false, nth 0 tail j) else (true, j - tail.length))

/-- Prefill of up to CHUNK tokens, whole pages with identity maps; the end of the prompt draws the
first token. -/
def Serving.prefill (v : Serving) (r : Req) (toks : List Nat) (logits : List (List Word)) : Req :=
  let chunk := (toks.drop r.filled).take (svChunk v.cfg)
  let np := cdiv chunk.length 64
  let new := (List.range np).map fun i =>
    (nth 0 r.fresh i, List.range (min 64 (chunk.length - 64 * i)))
  let own := chunk.length - (if rqResume r.desc ∧ r.filled = 0 ∧ toks.length ≠ rqPrompt r.desc then 1 else 0)
  let cs := if rqPenPrompt r.desc then countToks (r.counts, r.penOvf) (chunk.drop (chunk.length - own))
    else (r.counts, r.penOvf)
  let r := { r with
    pages := r.pages ++ new, fresh := r.fresh.drop np, filled := r.filled + chunk.length,
    committed := r.committed + chunk.length, counts := cs.1, penOvf := cs.2, stepped := true,
    pos := r.committed + chunk.length }
  if r.filled < toks.length then r
  else
    let t := drawOne r.desc r.committed r.counts (logits.getD 0 [])
    let cs := countTok (r.counts, r.penOvf) t
    let stop := (rqStops r.desc).contains t
    { r with
      state := .running, pending := some t, out := [t], made := r.made + 1, counts := cs.1,
      penOvf := cs.2,
      ended := stop || decide (rqMaxNew r.desc ≤ r.made + 1) || decide (svCtx v.cfg ≤ r.committed),
      flags := if stop then r.flags ||| 16 else r.flags }

/-- Tokens that a request prefills: the kept pending token, then its prompt. -/
def Req.prefillToks (r : Req) (prompt : List Nat) : List Nat :=
  (if rqResume r.desc then (match r.pending with | some t => [t] | none => []) else []) ++ prompt

/-- Nodes of a sequence's tree in a step, and their parents. -/
def Serving.nodes (v : Serving) (r : Req) : List Nat := (v.places r).map (·.1)
def Serving.parents (v : Serving) (r : Req) : List Nat :=
  let tree := if v.ntree r = 1 then [0xFF] else v.tree
  (v.nodes r).map fun i =>
    let a := nth 0xFF tree i
    if a = 0xFF then 0xFF else (v.nodes r).idxOf a
/-- Groups and slots that the step's nodes are written to. -/
def Serving.nodeSlots (v : Serving) (r : Req) : List (Nat × Nat) :=
  (v.places r).map fun e =>
    (if e.2.1 then nth 0 r.fresh 0 else ((r.pages.getLast?).map (·.1)).getD 0, e.2.2)

/-- Walk and relink of a RUNNING sequence, from the logits that verification gives each node and those of the student that
draft its children, `fresh` numbering free values; answers the request and the groups that return. -/
def Serving.walk (v : Serving) (r : Req) (fresh : Nat) (logits student : List (List Word)) : Req × List Nat :=
  let pl := v.places r
  let n := pl.length
  let parents := v.parents r
  let t : Tree :=
    { parents := parents, toks := draftToks r.desc parents (r.pending.getD 0) (r.counts, r.penOvf) fresh student n,
      logits := logits }
  let (out, kept) := walkGo r.desc t (n + 1) 0 (r.committed + 1) (r.counts, r.penOvf) r.made
  let kept := if n = 0 then [] else 0 :: kept
  let at' (i : Nat) : Bool × Nat := (nth (0, false, 0) pl i).2
  let tailNew := (kept.filter fun i => !(at' i).1).map fun i => (at' i).2
  let freshNew := (kept.filter fun i => (at' i).1).map fun i => (at' i).2
  let pages := match r.pages.getLast? with
    | some e => r.pages.dropLast ++ [(e.1, e.2 ++ tailNew)]
    | none => r.pages
  let pages := if freshNew.isEmpty then pages else pages ++ [(nth 0 r.fresh 0, freshNew)]
  let back := if freshNew.isEmpty then r.fresh else r.fresh.drop 1
  let cs := countToks (r.counts, r.penOvf) out
  let last := out.getLast?.getD 0
  let stop := (rqStops r.desc).contains last
  ({ r with
    pages := pages, fresh := [], committed := r.committed + kept.length, pending := some last,
    counts := cs.1, penOvf := cs.2, stepped := true, out := out, pos := r.committed + 1, nodes := n,
    acc := kept.length - 1, made := r.made + out.length,
    ended := stop || decide (rqMaxNew r.desc ≤ r.made + out.length) ||
      decide (svCtx v.cfg ≤ r.committed + kept.length),
    flags := if stop then r.flags ||| 16 else r.flags }, back)

/-- A sequence's work in a step (R291): a prefill chunk, with the logits of its last prompt position where it ends there,
or draft, verify and walk with the logits of each node, the student's for the draft where the tree has more than one.
Its K and V rows, slot maps and page table follow. -/
def execServingWalk (p req : Nat) (logits student : List (List Word)) (s : State) :
    Host.Outcome State Fault Refusal :=
  let q := s.part p
  match q.serving with
  | some v =>
    match v.reqs.find? fun r => rqId r.desc == req with
    | some r =>
      if q.st = .running ∧ !r.stepped ∧ s.dev.state = .ready then
        if r.state = .prefill ∧ !r.copying then
          let toks := r.prefillToks (s.promptOf p r.desc)
          let r' := v.prefill r toks logits
          let new := r'.pages.drop r.pages.length
          let rows := new.flatMap fun e => e.2.map fun j => (e.1, j)
          match s.tagAccess p ((fld r.desc 32 8, 4 * rqPrompt r.desc, false) ::
              (v.rowRanges rows ++ new.flatMap v.mapRanges ++ v.tableRanges r')) with
          | some t => .next t
          | none =>
            let s := s.modServ p fun v => v.modReq req fun _ => r'
            let s := s.kvRows v rows
            .next (((new.foldl (fun s e => s.putMaps v e) s).putTable v r').servLate p v)
        else if r.state = .running ∧ logits.length = (v.places r).length ∧
            (student.length = (v.places r).length ∨ (v.places r).length ≤ 1) then
          let (r', back) := v.walk r s.fresh logits student
          let new := r'.pages.drop (r.pages.length - 1)
          match s.tagAccess p (v.rowRanges (v.nodeSlots r) ++ new.flatMap v.mapRanges ++ v.tableRanges r') with
          | some t => .next t
          | none =>
            let s := s.modServ p fun v =>
              { v with returning := v.returning ++ back }.modReq req fun _ => r'
            let s := (s.setFresh (s.fresh + 64)).kvRows v (v.nodeSlots r)
            .next (((new.foldl (fun s e => s.putMaps v e) s).putTable v r').servLate p v)
        else .next s
      else .next s
    | none => .next s
  | none => .next s

/-! ## Copies (R300, R301) -/

/-- A copy of a kept or evicted sequence is in the arena: its pages' bytes stand there, and its groups return at the next
boundary. -/
def execKvCopyDone (p req : Nat) (s : State) : Host.Outcome State Fault Refusal :=
  match (s.part p).serving with
  | some v =>
    match v.copies.find? fun e => e.1 == req with
    | some e =>
      if s.dev.state = .ready then
        match s.tagAccess p (v.pageRanges e.2.1 false) with
        | some t => .next t
        | none => .next ((s.copyOut v e.2.1).modServ p fun v =>
          let v := { v with
            copies := v.copies.erase e, returning := v.returning ++ e.2.1.map (fun (x : Nat × Nat) => x.1) ++ e.2.2,
            convs := updFirst (fun c => c.req == req && c.copying) (fun c => { c with copying := false }) v.convs }
          v.modReq req fun r => if r.state = .paused then { r with copying := false } else r)
      else .next s
    | none => .next s
  | none => .next s

/-- The pages of a readmitted or resumed sequence are back: it continues, from the next step on. -/
def execKvRestoreDone (p req : Nat) (s : State) : Host.Outcome State Fault Refusal :=
  match (s.part p).serving with
  | some v =>
    match v.reqs.find? fun r => rqId r.desc == req with
    | some r =>
      if r.state = .prefill ∧ r.copying ∧ s.dev.state = .ready then
        let done := decide (0 < r.made)
        let ps := (r.pages.map (·.1)).zip r.cells
        match s.tagAccess p (v.pageRanges ps true) with
        | some t => .next t
        | none => .next ((s.copyIn v ps).modServ p fun v => v.modReq req fun r => { r with
          copying := false, cells := [], stepped := true, state := if done then .running else .prefill })
      else .next s
    | none => .next s
  | none => .next s

end Sys2Proof.Machine
end

