-- ==== Sys2Proof/Machine/Partitions.lean ====
section
/-! DEFINITION. Partitions: configuration (R305 to R307), spares at job start (R16, R100, R101, R109,
R110, R235, R420, R421), pause and resume (R321), release, reset, faults and teardown (R322, R323, R348). -/
namespace Sys2Proof.Machine

/-! ## Spares (R16, R421, Table 18.11) -/

/-- Where a substitution comes from: partition of the job start, or none at reset. -/
structure MapCause where
  fails : List FailUnit
  part : Nat
  atReset : Bool
  deriving DecidableEq, Repr

/-- A substitution, withdrawal or hold: with its Vent at a job start, log entry alone at reset unless the
log holds it already (R420). -/
def State.mapUse (s : State) (m : MapCause) (typ inst spare logical action : Nat) : State :=
  if m.atReset then
    let have' := s.health.log.any fun e =>
      (nth 0 e 0).toNat == typ + inst * 2 ^ 16 && bits (nth 0 e 1).toNat 23 20 == 1
    if have' then s else s.splog typ inst spare action 1
  else s.spareUse typ inst spare logical m.part action 2

/-- Failed cores of a physical cluster, in order. -/
def MapCause.cores (m : MapCause) (c : Nat) : List Nat :=
  (List.range 33).filter fun k => m.fails.contains (.core c k)
/-- A cluster is withdrawn (R109). -/
def MapCause.clusterGone (m : MapCause) (c : Nat) : Bool :=
  decide (1 < (m.cores c).length) || (m.fails.contains (.seq c 0) && m.fails.contains (.seq c 1)) ||
    m.fails.contains (.cluster c)

/-- Spare core and spare sequencer of a cluster that stays in use (R110). -/
def State.mapCluster (s : State) (m : MapCause) (c logical : Nat) : State :=
  if m.clusterGone c ∨ s.maps.clHeld.contains c then s
  else
    let s := match m.cores c with
      | [k] =>
        if k < 32 ∧ tget 0x3F s.maps.coreStand c ≠ k then
          (s.setMaps { s.maps with coreStand := tput 0x3F s.maps.coreStand c k }).mapUse m 0x20
            (c * 64 + k) (c * 64 + 32) k 1
        else s
      | _ => s
    let q := tget 0 s.maps.seqUse c
    if m.fails.contains (.seq c q) then
      (s.setMaps { s.maps with seqUse := tput 0 s.maps.seqUse c (1 - q) }).mapUse m 0x20
        (c * 64 + 48 + q) (c * 64 + 48 + (1 - q)) logical 1
    else s

/-- Clusters with failures beyond their spares are withdrawn: out of service until their index closes
up (R109). -/
def State.withdrawClusters (s : State) (m : MapCause) : State :=
  s.maps.clusters.foldl (fun s c =>
    if m.clusterGone c ∧ !s.maps.clHeld.contains c then
      (s.setMaps { s.maps with clHeld := s.maps.clHeld ++ [c] }).mapUse m 0x20 (c * 64 + 63) 0xFFFF
        (s.maps.clusters.idxOf c) 2
    else s) s

/-- Spare tiles of a die. -/
def spareTiles (d : Nat) : List Nat := if d = 0 then [40, 41] else [82, 83]

/-- The failed tiles of a die, lowest first, take its spares that are free; the others are withdrawn
(R100, R101). A spare already in place stays (DEDUCED, log 24); one that fails stands for nothing any more, and the
spare that replaces it stands for the tile it stood for. -/
def State.mapTiles (s : State) (m : MapCause) (d : Nat) : State :=
  (List.range 42).foldl (fun s i =>
    let t := d * 42 + i
    if m.fails.contains (.tile t) ∧ s.maps.tiles.contains t ∧ !s.maps.tileHeld.contains t then
      let logical := s.maps.tiles.idxOf t
      match (spareTiles d).find? fun x => !s.maps.tiles.contains x && !m.fails.contains (.tile x) with
      | some x =>
        let old := tget 0x7F s.maps.tileStand t
        (s.setMaps { s.maps with
          tiles := s.maps.tiles.map fun y => if y = t then x else y,
          tileStand := tput 0x7F (tput 0x7F s.maps.tileStand t 0x7F) x (if old = 0x7F then t else old) }).mapUse m
            0x21 t x logical 1
      | none =>
        (s.setMaps { s.maps with
          tileHeld := s.maps.tileHeld ++ [t], tileStand := tput 0x7F s.maps.tileStand t 0x7F }).mapUse m
            0x21 t 0xFFFF logical 2
    else s) s

/-- U32 takes the channel of the first failed unit of its stack; a further one is held out of service
(R235). A unit whose channel is withdrawn needs neither. -/
def State.mapFum (s : State) (m : MapCause) (n : Nat) : State :=
  (List.range 33).foldl (fun s u =>
    let i := n * 64 + u
    let stand := tget 0x3F s.maps.fumStand n
    if m.fails.contains (.fum n u) ∧ stand ≠ u ∧ !s.maps.fumHeld.contains i then
      if u = 32 then
        if stand = 0x3F then s
        else (s.setMaps { s.maps with fumHeld := s.maps.fumHeld ++ [i] }).mapUse m 0x41 (n * 256 + 32)
          0xFFFF stand 3
      else if s.maps.chGone.contains (n * 32 + u) then s
      else if stand = 0x3F ∧ !m.fails.contains (.fum n 32) then
        (s.setMaps { s.maps with fumStand := tput 0x3F s.maps.fumStand n u }).mapUse m 0x41
          (n * 256 + u) (n * 256 + 32) u 1
      else (s.setMaps { s.maps with fumHeld := s.maps.fumHeld ++ [i] }).mapUse m 0x41 (n * 256 + u)
        0xFFFF u 3
    else s) s

/-- No partition that is not EMPTY holds an index of a kind at or above `j`. -/
def State.freeAbove (s : State) (tile : Bool) (j : Nat) : Bool :=
  (List.range 8).all fun p =>
    (s.part p).st == .empty || (if tile then (s.part p).tiles else (s.part p).clusters).all (· < j)

/-- Withdrawn units leave the numbering and the indices above close up, highest first, where no
partition stands in the way (R101, R109). -/
def State.closeUp (s : State) : State :=
  let s := s.maps.clusters.foldr (fun c s =>
    if s.maps.clHeld.contains c ∧ s.freeAbove false (s.maps.clusters.idxOf c) then
      s.setMaps { s.maps with
        clusters := s.maps.clusters.filter (· ≠ c), clHeld := s.maps.clHeld.filter (· ≠ c) }
    else s) s
  s.maps.tiles.foldr (fun t s =>
    if s.maps.tileHeld.contains t ∧ s.freeAbove true (s.maps.tiles.idxOf t) then
      s.setMaps { s.maps with
        tiles := s.maps.tiles.filter (· ≠ t), tileHeld := s.maps.tileHeld.filter (· ≠ t) }
    else s) s

/-- The maps are rebuilt: `own` names the clusters, by logical index, whose spares enter. -/
def State.remap (s : State) (m : MapCause) (own : List Nat) : State :=
  let s := own.foldl (fun s j => s.mapCluster m (s.physCluster j) j) s
  let s := s.withdrawClusters m
  let s := (s.mapTiles m 0).mapTiles m 1
  let s := (List.range 12).foldl (fun s n => s.mapFum m n) s
  s.closeUp

/-- The job start of a partition (R100, R110, R235, R307). -/
def State.jobStart (s : State) (p : Nat) : State :=
  let m : MapCause := { fails := s.maps.otpFail ++ s.maps.runFail, part := p, atReset := false }
  let s := s.remap m (s.part p).clusters
  let s := ((s.setPg .part p 0x48 0).setPg .part p 0x98 0).setPg .part p 0x9C 0
  let s := s.setSprue { s.sprue with
    doneMb := tput 0 s.sprue.doneMb p 0, lastOk := tput [] s.sprue.lastOk p [],
    deliv := s.sprue.deliv.filter fun d => nth 8 d 0 ≠ p }
  s.modPart p fun q => { q with st := .loaded }

/-! ## PART_CFG (R306, Table 14.2) -/

/-- First field of the record that is out of range, as a byte offset of the message. -/
def State.partCfgForm (s : State) (m : List Byte) : Option Nat :=
  let c := slice m 16 256
  let top (off n lim : Nat) : Bool := (maskBits c off n).all (· < lim)
  let shares (off n : Nat) : Option Nat := firstOf ((List.range n).map fun i =>
    need (16 + off + 2 * i) (decide (fld c (off + 2 * i) 2 ≤ 1024)))
  let en := bit (fld c 40 4) 2
  firstOf [
    need 16 (top 0 128 s.maps.clusters.length), need 32 (top 16 128 s.maps.tiles.length),
    need 48 (decide (fld c 32 2 ≤ 512)), need 50 (decide (fld c 34 2 ≤ 512)),
    need 52 (decide (fld c 36 1 ≤ 48)), need 53 (decide (fld c 37 1 ≤ 48)),
    need 54 (decide (fld c 38 2 ≤ 256)), need 56 (decide (fld c 40 4 < 8)),
    need 60 (decide (fld c 44 2 < 4096) && (en == (fld c 44 2 != 0))), need 62 (zeros c 46 56),
    shares 56 12, shares 80 4, shares 88 16,
    firstOf ((List.range 12).map fun n => need (136 + 4 * n) (decide (fld c (120 + 4 * n) 4 < 2 ^ 20))),
    need 184 (zeros c 168 256)]

/-- Lowest free run of segments of a Sprue (DEDUCED, log 24). -/
def State.sprueRun (s : State) (d n : Nat) : Option Nat :=
  if n = 0 then some 0
  else
    let held := (List.range 8).filterMap fun p =>
      if s.sliceCount p d = 0 then none else some (s.sliceBase p d, s.sliceCount p d)
    -- a lowest run begins at 0 or where a slice ends
    let bases := (0 :: held.map fun (h : Nat × Nat) => h.1 + h.2).filter fun b =>
      b + n ≤ 512 && held.all fun (h : Nat × Nat) => decide (b + n ≤ h.1 ∨ h.1 + h.2 ≤ b)
    bases.min?

/-- The lowest `n` free granules of a stack, from granule `g`, over `fuel` granules. -/
def State.freeGranules (s : State) (k : Nat) : Nat → Nat → Nat → List Nat
  | 0, _, _ => []
  | _, _, 0 => []
  | fuel + 1, g, n + 1 =>
    if (s.gran (granKey k g)).owner = 0xF then
      granKey k g :: State.freeGranules s k fuel (g + 1) n
    else State.freeGranules s k fuel (g + 1) (n + 1)

/-- The save area of a record: entry e on the (e mod k)-th stack named (R317). -/
def State.placeSave (s : State) (q : Part) : Option (List Nat) :=
  let st := q.qstacks
  let k := st.length
  let n := if q.quenchEn then 4 * q.clusters.length + 2 * q.tiles.length else 0
  if k = 0 then some []
  else
    let need' (i : Nat) : Nat := (n + k - 1 - i) / k
    let rows := (List.range k).map fun i => s.freeGranules (nth 0 st i) granCount 0 (need' i)
    if (List.range k).all fun i => (nth [] rows i).length == need' i then
      some ((List.range n).map fun e => nth 0 (nth [] rows (e % k)) (e / k))
    else none

/-- A resource that the record asks for is not free (R306). -/
def State.partLacks (s : State) (q : Part) : Bool :=
  let live := ((List.range 8).map s.part).filter fun x => x.st ≠ .empty
  let sum (f : Part → Nat) : Nat := (live.map f).foldl (· + ·) 0 + f q
  let scrub := live.flatMap (·.scrub)
  let unitBad (u : Nat) (held : Bool) : Bool := held || s.unitHeld u || scrub.contains u
  (q.clusters.any fun j => unitBad (s.physCluster j) (live.any fun x => x.clusters.contains j)) ||
  (q.tiles.any fun j => unitBad (s.physTile j) (live.any fun x => x.tiles.contains j)) ||
  ((List.range 2).any fun d => (s.sprueRun d (q.sprueSegs d)).isNone || decide (48 < sum fun x => x.ladleBufs d)) ||
  decide (256 < sum fun x => x.slots) ||
  ((List.range 12).any fun n => live.any fun x => x.slotMask n &&& q.slotMask n ≠ 0) ||
  ((List.range 12).any fun n => decide (1024 < sum fun x => x.stkShare n)) ||
  ((List.range 4).any fun i => decide (1024 < sum fun x => x.nocShare i)) ||
  ((List.range 16).any fun n => decide (1024 < sum fun x => x.portShare n))

/-- Slots of every stack take a partition's masks. -/
def State.setSlots (s : State) (p : Nat) (q : Part) : State :=
  (List.range 12).foldl (fun s n => s.modStack n fun x => { x with
    slots := (List.range 20).foldl (fun t i => if bit (q.slotMask n) i then tput 0xF t i p else t) x.slots }) s

/-- PART_CFG judged beyond its form, and carried out. -/
def State.partCfgMsg (s : State) (p : Nat) (m : List Byte) : State × Compl :=
  if (s.part p).st ≠ .empty then (s, .of 3)
  else
    let q : Part := { Part.empty with st := .configured, cfg := slice m 16 256, nextCid := (s.part p).nextCid }
    match s.placeSave q with
    | none => (s, .of 4)
    | some save =>
      if s.partLacks q then (s, .of 4)
      else
        let put (d : Nat) (t : Tbl Nat) : Tbl Nat :=
          tput 0 t (d * 8 + p) (if q.sprueSegs d = 0 then 0
            else ((s.sprueRun d (q.sprueSegs d)).getD 0) * 1024 + q.sprueSegs d)
        let s := s.setSprue { s.sprue with slices := put 1 (put 0 s.sprue.slices) }
        let s := s.setPart p { q with save := save }
        let s := save.foldl (fun s k => s.setOwner k p) s
        (s.setSlots p q, .ok)

/-! ## The end of a partition's work (Table 14.6, steps 2 to 6) -/

/-- Step 3: Sprue, Fumarole, Ladle, seal and serving work ends (R202, R217, R247, R275, R302); the record
of the resident variant goes with the partition's context (DEDUCED, log 25). -/
def State.endWork (s : State) (p : Nat) : State :=
  let s := forN 12 s fun n s => s.fumAbort n p
  let s := s.setSprue { s.sprue with
    blks := s.sprue.blks.filter fun b => b.part ≠ p,
    waiting := s.sprue.waiting.filter fun w => w.part ≠ p,
    halves := s.sprue.halves.filter fun w => w.part ≠ p,
    deliv := s.sprue.deliv.filter fun d => nth 8 d 0 ≠ p,
    reserved := s.sprue.reserved.filter fun (r : Nat × Nat) => r.1 ≠ p,
    sent := s.sprue.sent.filter fun d => nth 8 d 0 ≠ p }
  let s := s.setStk { s.stk with
    fumQ := s.stk.fumQ.filter fun (e : Nat × List Nat) => e.1 % 8 ≠ p,
    fumRun := s.stk.fumRun.filter fun (e : Nat × List Nat) => e.1 % 8 ≠ p,
    marks := s.stk.marks.filter fun (e : Nat × Nat × Nat) => e.2.1 ≠ p,
    readMarks := s.stk.readMarks.filter fun (e : Nat × Nat × Nat) => e.2.1 ≠ p }
  let s := s.setFabric { s.fabric with store := s.fabric.store.filter fun x => x.part ≠ p }
  s.modPart p fun q => { q with
    ladle := { q.ladle with colls := [], waiting := [], future := [] },
    step := { q.step with sealing := none, held := none },
    serving := none, variant := 0 }

/-- Step 5: the memories and registers of a unit read zero; what its page keeps of the last command
stays (R104, R126). -/
def SeqUnit.zeroed (x : SeqUnit) : SeqUnit :=
  { SeqUnit.reset with
    ctx := x.ctx, seq := { Seqr.reset with nstat := x.seq.nstat }, brk := x.brk }

/-- NSTAT of a command that is ended: of its outcome, of its images while it is quenched, or of its units (R82). -/
def State.nstatNow (s : State) (k : Cmd) : Word :=
  match k.out with
  | some o => o.nstat
  | none =>
    if k.images.isEmpty then s.nstatOf k.units
    else k.images.foldl (fun n (e : Nat × UnitImage) => n ||| e.2.seq.nstat) 0

/-- Step 6: every command that has not completed completes with a status, by queue and submission order,
then what else of the partition is unanswered (R321; DEDUCED, log 25). -/
def State.endMsgs (s : State) (p status : Nat) : State :=
  let q := s.part p
  let ks := (List.range 8).flatMap fun i => q.cmds.filter fun k => k.queue == i && k.phase != .answered
  let s := ks.foldl (fun s k =>
    let (s, late) := s.lateness p k
    let n := s.nstatNow k
    let s := s.setPg .part p 0x48 (s.pg .part p 0x48 ||| n.toNat % 16)
    s.answerCmd p k { Compl.of status with nstat := n, cflags := late ||| (if k.wasQuenched then cfQUENCHED else 0) }
      k.start) s
  let s := q.held.foldl (fun s (h : Nat × Word × List Byte) =>
    s.respond p (fld h.2.2 2 2) p h.1 h.2.1.toNat (.of status) 0) s
  let s := match q.pause with
    | some (seq, tag) => s.respond 8 0x102 p seq tag.toNat (.of status) 0
    | none => s
  s.modPart p fun q => { q with held := [], pause := none }

/-- Steps 2 to 5: work ended, units scrubbed. -/
def State.scrubPart (s : State) (p : Nat) : State :=
  let us := s.partUnits p
  let us := us ++ (s.part p).scrub.filter fun u => !us.contains u
  us.foldl (fun s u => s.modUnit u SeqUnit.zeroed) (s.endWork p)

/-- Steps 2 to 6. -/
def State.endPart (s : State) (p status : Nat) : State :=
  ((s.scrubPart p).endMsgs p status).modPart p fun q => { q with scrub := [] }

/-- The partition returns to EMPTY: granules released, slices, buffers and slots free, indices close up
(R101, R307). -/
def State.emptyPart (s : State) (p : Nat) : State :=
  let s := (s.gransWith fun _ g => g.owner == p).foldl (fun s k => s.enterScrub k) s
  let s := s.freesPump
  let s := s.allStacks fun x => { x with slots := x.slots.filter fun (e : Nat × Nat) => e.2 ≠ p }
  let s := s.setSprue { s.sprue with
    slices := (tput 0 (tput 0 s.sprue.slices p 0) (8 + p) 0) }
  (s.modPart p fun q => { Part.empty with nextCid := q.nextCid }).closeUp

/-! ## The other PART_* messages (Table 15.12) -/

/-- Carries out a control message of a partition's ring that PAUSED may queue (R348). -/
def State.ctlMsg (s : State) (p n : Nat) (m : List Byte) : State × Option Compl :=
  match fld m 2 2 with
  | 0x402 => let x := s.epochMsg p m; (s.endedNow x.1 p, x.2)
  | 0x413 => s.tapMsg p n m
  | 0x500 => s.svCfgMsg p m
  | 0x502 => s.svSubmitMsg p m
  | 0x503 => s.svCancelMsg p m
  | 0x504 => s.svForgetMsg p m
  | _ => (s, none)

/-- Control messages queued while PAUSED are carried out in order. -/
def State.heldPump (s : State) (p : Nat) : State :=
  let hs := (s.part p).held
  let s := s.modPart p fun q => { q with held := [] }
  hs.foldl (fun s (h : Nat × Word × List Byte) =>
    match s.ctlMsg p h.1 h.2.2 with
    | (s, some o) => s.respond p (fld h.2.2 2 2) p h.1 h.2.1.toNat o 0
    | (s, none) => s) s

/-- PART_LOAD. -/
def State.partLoadMsg (s : State) (p : Nat) : State × Option Compl :=
  if (s.part p).st = .configured then (s.jobStart p, some .ok) else (s, some (.of 3))

/-- PART_PAUSE (R321): answered when the partition is PAUSED. -/
def State.partPauseMsg (s : State) (p seq : Nat) (tag : Word) : State × Option Compl :=
  let q := s.part p
  if q.st = .running ∧ q.pause.isNone then
    let s := s.setPart p { q with pause := some (seq, tag) }
    let s := if q.quenchEn then
        (q.cmds.filter fun k => k.phase == .running && !k.units.isEmpty && k.out.isNone).foldl
          (fun s k => s.quench p k 1) s
      else s
    (s.pausePump p false, none)
  else (s, some (.of 3))

/-- PART_RESUME: the state first, then its response, then what waited. -/
def State.partResumeMsg (s : State) (p seq : Nat) (tag : Word) : State × Option Compl :=
  if (s.part p).st = .paused then
    let s := s.modPart p fun q => { q with st := .running }
    ((s.respond 8 0x103 p seq tag.toNat .ok 0).heldPump p, none)
  else (s, some (.of 3))

/-- PART_RELEASE. From CONFIGURED nothing of the partition runs: its units, slices and buffers are scrubbed and it is
EMPTY (R307, R325). -/
def State.partReleaseMsg (s : State) (p seq : Nat) (tag : Word) : State × Option Compl :=
  let q := s.part p
  if q.st = .configured then ((s.scrubPart p).emptyPart p, some .ok)
  else if q.st = .loaded ∨ q.st = .running ∨ q.st = .paused then
    let s := s.setPart p { q with st := .draining, release := some (seq, tag) }
    (s.stopUnits (s.partUnits p), none)
  else (s, some (.of 3))

/-- PART_RESET: during a teardown it waits for its end (DEDUCED, log 25). -/
def State.partResetMsg (s : State) (p seq : Nat) (tag : Word) : State × Option Compl :=
  let q := s.part p
  let idle := q.serving.isNone && q.cmds.all fun k => k.phase == .answered
  if q.st = .loaded ∨ (q.st = .running ∧ idle) then
    (s.setPart p { q with st := .configured, pause := none }, some .ok)
  else if q.st = .faulted then
    if q.tearing then
      if q.reset.isSome then (s, some (.of 3)) else (s.setPart p { q with reset := some (seq, tag) }, none)
    else (s.setPart p { q with st := .configured }, some .ok)
  else (s, some (.of 3))

/-- A PART_* message of the management ring beyond its form. -/
def State.partMsg (s : State) (op p seq : Nat) (tag : Word) (m : List Byte) : State × Option Compl :=
  match op with
  | 0x100 => let (s, o) := s.partCfgMsg p m; (s, some o)
  | 0x101 => s.partLoadMsg p
  | 0x102 => s.partPauseMsg p seq tag
  | 0x103 => s.partResumeMsg p seq tag
  | 0x104 => s.partReleaseMsg p seq tag
  | _ => s.partResetMsg p seq tag

/-! ## Faults and the ends of teardowns -/

/-- A faulting event (R322). -/
def execPartitionFault (p typ inst code : Nat) (s : State) : Host.Outcome State Fault Refusal :=
  if p < 8 ∧ s.dev.state = .ready then .next (s.faultPart p typ inst code) else .next s

/-- The teardown of a faulted partition completes (Table 14.6, steps 2 to 7). A release under way is
answered FAULTED (DEDUCED, log 25). -/
def execTeardownComplete (p : Nat) (s : State) : Host.Outcome State Fault Refusal :=
  if p < 8 ∧ (s.part p).st = .faulted ∧ (s.part p).tearing ∧ s.dev.state = .ready then
    let s := s.endPart p 6
    let q := s.part p
    let s := match q.release with
      | some (seq, tag) => s.respond 8 0x104 p seq tag.toNat (.of 6) 0
      | none => s
    let s := s.modPart p fun q => { q with release := none, tearing := false, reset := none }
    let body := leBytes 4 q.faultSrc.toNat ++ leBytes 4 q.faultInfo.toNat ++ leBytes 8 q.faultTime
    let s := s.ventAll [p, 8] 0x8005 p body
    let s := s.evSet .part p 5
    match q.reset with
    | some (seq, tag) =>
      .next ((s.modPart p fun q => { q with st := .configured }).respond 8 0x105 p seq tag.toNat .ok 0)
    | none => .next s
  else .next s

/-- The drain of a releasing partition completes: EMPTY, and PART_RELEASE is answered (R348). -/
def execDrainComplete (p : Nat) (s : State) : Host.Outcome State Fault Refusal :=
  if p < 8 ∧ (s.part p).st = .draining ∧ s.dev.state = .ready then
    let rel := (s.part p).release
    let s := (s.endPart p 8).emptyPart p
    match rel with
    | some (seq, tag) => .next (s.respond 8 0x104 p seq tag.toNat .ok 0)
    | none => .next s
  else .next s

end Sys2Proof.Machine
end

