-- ==== Sys2Proof/Machine/Fabric.lean ====
section
/-! DEFINITION. Fabric ports (chapter 16): training and versions (R351, R366), native flits (R352 to
R355), lanes (R356 to R358), Ethernet carriage (R359 to R361), messages received and forwarded (R362,
R363). -/
namespace Sys2Proof.Machine

/-! ## Training (R351, R366) -/

/-- A configuration write of a port is discarded. -/
def State.portCfgErr (s : State) (n : Nat) : State := s.evSet .port n 7

/-- TRAIN: the port starts afresh; discarded without an identifier, no effect while it is not down. -/
def State.portTrain (s : State) (n : Nat) : State :=
  let x := s.port n
  if s.devId = 0xFFFF then s.portCfgErr n
  else if x.st ≠ .down then s
  else
    let s := s.setPort n { x with
      st := .training, r224 := false, ver := 0, helloDone := false, trained := false, sparing := 15,
      named := false, halfGone := [], peer := none, txSeq := 0, rxSeq := 0, replay := [], credits := [], given := [],
      ackSent := 0, ctl := [], discard := false, replayRun := (0, 0), rx := [], segs := [] }
    (s.moves .port n).setPg .port n 0x40 (s.pg .port n 0x40 ||| 4)

/-- The port carries traffic. -/
def State.portUp (s : State) (n : Nat) : State :=
  let s := s.modPort n fun x => { x with st := .up }
  let s := s.setPg .port n 0x40 (setBits (s.pg .port n 0x40) 2 2 0)
  (s.evSet .port n 1).txPump n

/-- Identity bytes of the West OTP as sensed (Table 17.5). -/
def State.idBytes (s : State) (off n : Nat) : List Byte :=
  (List.range n).map fun i =>
    ((tget 0 s.west.otp.sensed ((off + i) / 4)) >>> (8 * ((off + i) % 4))).truncate 8

/-- Body of LINK_HELLO and LINK_HELLO_ACK (Table 16.4): every rate, every feature. -/
def State.helloBody (s : State) (n : Nat) : List Byte :=
  leBytes 2 s.devId ++ leBytes 1 n ++ [3, 0x23, 0x31, 0, 0] ++ leBytes 4 7 ++ [0, 0, 0, 0] ++ s.idBytes 0 8

/-- Sends a message of link initialisation, on VC 0 like any other and before what else waits there: it goes out with
the first credit that the partner gives (R355). -/
def State.linkSend (s : State) (n opcode dst : Nat) : State :=
  let b := fabBytes (s.linkVer n) 0 opcode s.devId dst 0xFF 0xFF 0 0 (s.helloBody n)
  let w := tget [] (s.port n).txWait 0
  (s.modPort n fun x => { x with
    txWait := tput [] x.txWait 0
      (w.takeWhile (fun e => e.2.isLink) ++ (b.length, .raw b) :: w.dropWhile (fun e => e.2.isLink)) }).txPump n

/-- Both ends have answered: the port comes up, or retrains at 224 Gb/s first. -/
def State.linkAgreed (s : State) (n : Nat) : State :=
  let x := s.port n
  if x.helloDone ∧ x.peer.isSome then
    if x.r224 then s.setPort n { x with trained := false } else s.portUp n
  else s

/-- The lanes of a training port have trained: LINK_HELLO at 112 Gb/s, up at 224 Gb/s and in Ethernet
mode. -/
def execPortTrained (port : Nat) (s : State) : Host.Outcome State Fault Refusal :=
  let x := s.port port
  if x.st = .training ∧ !x.trained ∧ s.live (dieOfPort port) then
    let s := s.setPort port { x with trained := true }
    if s.isEth port ∨ (x.helloDone ∧ x.peer.isSome) then .next (s.portUp port)
    else .next (s.linkSend port 1 0xFFFF)
  else .next s

/-- LINK_HELLO and LINK_HELLO_ACK are taken by a native port that has trained at 112 Gb/s. -/
def State.helloing (s : State) (n : Nat) : Bool :=
  (s.port n).st == .training && (s.port n).trained && !s.isEth n

/-- LINK_HELLO: version and identity judged, and answered (R366). -/
def State.linkHello (s : State) (n : Nat) (m : List Byte) : State :=
  if s.helloing n ∧ (s.port n).peer.isNone then
    let v := min 0x31 (fld m 37 1)
    if v < max 0x23 (fld m 36 1) then s.portDown n 3
    else if fld m 32 2 = s.devId then (s.evSet .port n 6).portDown n 4
    else
      let s := s.modPort n fun x => { x with
        ver := v, peer := some (fld m 32 2, fld m 34 1 % 16),
        r224 := decide (0x30 ≤ v) && bit (fld m 35 1) 1 }
      (s.linkSend n 2 (fld m 32 2)).linkAgreed n
  else s

/-- LINK_HELLO_ACK. -/
def State.linkHelloAck (s : State) (n : Nat) : State :=
  if s.helloing n ∧ !(s.port n).helloDone then
    (s.modPort n fun x => { x with helloDone := true }).linkAgreed n
  else s

/-! ## Messages (R362, R363, R366, R367) -/

/-- A message is discarded and counted. -/
def State.msgDrop (s : State) (n : Nat) : State := s.count32 .port n 0xA4 1

/-- An Ethernet ACK confirms a message of its destination's, sent to its source by any port: one of this device's, or
one that the device put on Ethernet for another (R361). -/
def State.ethAcked (s : State) (m : List Byte) : State :=
  let k : EthKey := ⟨fld m 6 2, fld m 4 2, fld m 36 1, fld m 32 4⟩
  (List.range 16).foldl (fun s n => s.modPort n fun x => { x with
    ethOut := x.ethOut.filter fun e => e.msg.key ≠ k }) s

/-- A message for another device is forwarded by the die's route table, TTL lowered and the CRC formed
again, or discarded with NO_ROUTE. -/
def State.transit (s : State) (n : Nat) (m : List Byte) : State :=
  let d := dieOfPort n
  let ttl := fld m 10 1
  let t := lay (lay m 10 (leBytes 1 (ttl - 1))) 24 [0, 0, 0, 0]
  let t := lay t 28 (leBytes 4 (crc32 (lay t 28 [0, 0, 0, 0])))
  let s := if fld m 2 2 = 3 then s.ethAcked m else s
  match (if ttl ≤ 1 then none else s.routeOf d (fld m 6 2)) with
  | some (k, h) => s.portSend k h (.raw t)
  | none => (s.noRouteTo d (.raw m)).msgDrop n

/-- PROBE is answered at once, in its own version. -/
def State.probeReply (s : State) (m : List Byte) : State :=
  let src := fld m 4 2
  (s.fabSend 0 src 0 fun _ t =>
    .raw (fabBytes (fld m 0 1) 0 0x11 s.devId src (fld m 9 1) (fld m 8 1) (fld m 16 4) t (slice m 32 4))).1

/-- A message addressed to this device takes effect. Ladle messages act through their own rows, and
the device is no storage endpoint (DEDUCED, log 26). -/
def State.fabTake (s : State) (n : Nat) (m : List Byte) : State :=
  let s := s.hear (fld m 4 2)
  match fld m 2 2 with
  | 0x01 => s.linkHello n m
  | 0x02 => s.linkHelloAck n
  | 0x03 => s.ethAcked m
  | 0x10 => s.probeReply m
  | 0x11 => s
  | 0x12 => s.lostRoute (fld m 9 1) (fld m 32 2)
  | 0x202 => s.storeData m
  | 0x203 => s.storeAck m
  | op => if 0x100 ≤ op ∧ op ≤ 0x105 then s else s.msgDrop n

/-- Opcodes that Table 16.4 lists. -/
def fabKnown (op : Nat) : Bool :=
  op == 1 || op == 2 || op == 3 || op == 0x10 || op == 0x11 || op == 0x12 ||
    decide (0x100 ≤ op ∧ op ≤ 0x105) || decide (0x200 ≤ op ∧ op ≤ 0x203)

/-- A whole message has arrived at a port; one with a bad CRC or an unknown opcode is dropped, whoever it is for
(R362). LINK_HELLO is for the link's own ends. -/
def State.fabReceive (s : State) (n : Nat) (m : List Byte) : State :=
  let op := fld m 2 2
  if m.length < 32 ∨ !fabCrcOk m ∨ !fabKnown op then s.msgDrop n
  else if op = 1 ∨ op = 2 ∨ fld m 6 2 = s.devId then s.fabTake n m
  else s.transit n m

/-- A port takes messages from its link. -/
def State.portLive (s : State) (n : Nat) : Bool :=
  s.live (dieOfPort n) && (match (s.port n).st with
    | .up => true | .handover => true | .training => (s.port n).trained | _ => false)

/-- A message row: the message is of that opcode. -/
def State.fabRow (s : State) (port op : Nat) (m : List Byte) : Host.Outcome State Fault Refusal :=
  if fld m 2 2 = op ∧ s.portLive port then .next (s.fabReceive port m) else .next s

/-- LINK_HELLO (R366). -/
def execLinkHello (port : Nat) (msg : List Byte) (s : State) : Host.Outcome State Fault Refusal := s.fabRow port 0x01 msg
/-- LINK_HELLO_ACK (R366). -/
def execLinkHelloAck (port : Nat) (msg : List Byte) (s : State) : Host.Outcome State Fault Refusal := s.fabRow port 0x02 msg
/-- ACK (R361). -/
def execAck (port : Nat) (msg : List Byte) (s : State) : Host.Outcome State Fault Refusal := s.fabRow port 0x03 msg
/-- PROBE (R366). -/
def execProbe (port : Nat) (msg : List Byte) (s : State) : Host.Outcome State Fault Refusal := s.fabRow port 0x10 msg
/-- PROBE_ACK (R366). -/
def execProbeAck (port : Nat) (msg : List Byte) (s : State) : Host.Outcome State Fault Refusal := s.fabRow port 0x11 msg
/-- NO_ROUTE (R363). -/
def execNoRoute (port : Nat) (msg : List Byte) (s : State) : Host.Outcome State Fault Refusal := s.fabRow port 0x12 msg
/-- STORE_WRITE (R367): for an endpoint that implements it; this device forwards or discards it. -/
def execStoreWrite (port : Nat) (msg : List Byte) (s : State) : Host.Outcome State Fault Refusal := s.fabRow port 0x200 msg
/-- STORE_READ (R367), likewise. -/
def execStoreRead (port : Nat) (msg : List Byte) (s : State) : Host.Outcome State Fault Refusal := s.fabRow port 0x201 msg
/-- STORE_DATA (R367). -/
def execStoreData (port : Nat) (msg : List Byte) (s : State) : Host.Outcome State Fault Refusal := s.fabRow port 0x202 msg
/-- STORE_ACK (R367). -/
def execStoreAck (port : Nat) (msg : List Byte) (s : State) : Host.Outcome State Fault Refusal := s.fabRow port 0x203 msg

/-- A message of a reserved or unknown opcode, or one whose CRC fails (R362). -/
def execUnknownFabricOpcode (port : Nat) (msg : List Byte) (s : State) : Host.Outcome State Fault Refusal :=
  if s.portLive port ∧ (!fabKnown (fld msg 2 2) ∨ !fabCrcOk msg) then .next (s.msgDrop port) else .next s

/-! ## Native flits (R352 to R355) -/

/-- Flits that ACK names as received leave the replay buffer. -/
def Port.acked (x : Port) (a : Nat) : Port :=
  let r := x.replay.dropWhile fun e => let d := (a + 1024 - e.1) % 1024; decide (1 ≤ d ∧ d ≤ 512)
  if r.length = x.replay.length then x else { x with replay := r, replayRun := (0, 0) }

/-- A native port that exchanges flits. -/
def State.flitLive (s : State) (n : Nat) : Bool := s.portLive n && !s.isEth n

/-- Replay from a SEQ, the flits before it having been received; eight in a row from one SEQ retrain the port, three
retrains within a second take it down (R353, R354). A port that still trains goes on training (DEDUCED, log 26). -/
def State.nak (s : State) (n seq : Nat) : State :=
  let x := (s.port n).acked seq
  let s := s.setPort n x
  let k := (x.replay.dropWhile fun e => e.1 ≠ seq).length
  if k = 0 then s
  else
    let s := s.count64 .port n 0x68 k
    let run := if x.replayRun.1 = seq then x.replayRun.2 + 1 else 1
    if run < 8 ∨ x.st = .training then s.setPort n { x with replayRun := (seq, run) }
    else
      let rs := s.now :: x.retrains.filter fun t => decide (s.now < t + 1000000000)
      let s := s.setPort n { x with
        st := .retraining, looped := 15, replayRun := (0, 0), retrains := rs, discard := false }
      let s := s.evSet .port n 4
      if 3 ≤ rs.length then s.portDown n 2 else s

/-- A received NAK. -/
def execFlitNak (port seq : Nat) (s : State) : Host.Outcome State Fault Refusal :=
  if s.flitLive port then .next ((s.nak port seq).txPump port) else .next s

/-- A data flit that the receiver accepts: its payload joins the message of its channel, whereby its buffer is free and
returned with the ACK (R353, R355; DEDUCED, log 26), and a whole message takes effect. -/
def State.dataFlit (s : State) (n vc len : Nat) (som eom : Bool) (f : List Byte) : State :=
  let x := s.port n
  let got := (if som then [] else tget [] x.rx vc) ++ slice f 8 len
  let s := s.setPort n { x with
    rxSeq := (x.rxSeq + 1) % 1024, discard := false, ackSent := (x.rxSeq + 1) % 1024,
    given := tput 0 x.given vc (tget 0 x.given vc + 1),
    rx := tput [] x.rx vc (if eom then [] else got) }
  let s := s.count64 .port n 0x78 len
  if eom then s.fabReceive n got else s

/-- ACK and CREDITS of a flit's header take effect (Table 16.2). -/
def Port.flitHead (x : Port) (h : Nat) : Port :=
  let x := x.acked (bits h 25 16)
  let cvc := bits h 27 26
  if cvc < 3 then { x with credits := tput 0 x.credits cvc (tget 0 x.credits cvc + bits h 35 28) } else x

/-- The receiver accepts a data flit of a header: it is the one expected, and a VC's (R353). -/
def Port.accepts (x : Port) (h : Nat) : Bool :=
  decide (bits h 5 4 < 3) && bits h 15 6 == x.rxSeq && decide (1 ≤ bits h 43 36 ∧ bits h 43 36 ≤ 244)

/-- A native flit that decodes and passes its CRC (Table 16.2). A data flit that is not accepted is discarded whole, and
one of a reserved TYPE has no effect. -/
def execFlitAccepted (port : Nat) (flit : List Byte) (s : State) : Host.Outcome State Fault Refusal :=
  let h := fld flit 0 8
  let ty := bits h 3 0
  if s.flitLive port ∧ crc32 (slice flit 0 252) = fld flit 252 4 ∧ ty ≤ 3 ∧
      (ty = 1 → (s.port port).accepts h) then
    let s := s.modPort port fun x => x.flitHead h
    let s := if ty = 1 then s.dataFlit port (bits h 5 4) (bits h 43 36) (bit h 44) (bit h 45) flit
      else if ty = 2 then s.nak port (bits h 25 16)
      else s
    .next (s.txPump port)
  else .next s

/-- A flit whose codeword or CRC fails: a NAK names the expected SEQ, later flits are discarded up to the replay, and the
failure is counted in FEC_UE; an undecodable codeword sets the event too (R353, Table 16.7; DEDUCED, log 26). -/
def execFlitReceiveFail (port : Nat) (undecodable : Bool) (s : State) : Host.Outcome State Fault Refusal :=
  if s.flitLive port then
    let s := s.modPort port fun x => { x with discard := true, ctl := x.ctl ++ [.nak x.rxSeq] }
    let s := s.count64 .port port 0x60 1
    .next (if undecodable then s.evSet .port port 5 else s)
  else .next s

/-! ## Lanes (R354, R356 to R358) -/

/-- The lane loop of a port ends and its traffic returns. -/
def Port.unloop (x : Port) : Port :=
  if x.st = .handover then { x with st := .up, looped := 15 } else { x with looped := 15 }

/-- A retrain completes: traffic resumes and the replay buffer is sent again; a lane named for it is
spared (R354, R356). `src` of the log entry: 2 in operation, 3 where Assay found it. -/
def execRetrainDone (port : Nat) (s : State) : Host.Outcome State Fault Refusal :=
  let x := s.port port
  if x.st = .retraining ∧ s.live (dieOfPort port) then
    let s := s.count64 .port port 0x68 x.replay.length
    let s := s.setPort port { x with
      st := .up, spared := if x.sparing = 15 then x.spared else x.sparing, sparing := 15,
      named := false }
    let s := if x.sparing = 15 then s
      else
        let src := if x.badLanes.contains (16 + x.sparing) then 3 else 2
        (s.evErr .port port 3 3 0xF x.sparing 0).spareUse 0x32 (port * 16 + x.sparing) (port * 16 + 8)
          x.sparing 0xFF 1 src
    .next (s.txPump port)
  else .next s

/-- An Assay slice that loops a lane of a port ends without a result: the loop has ended (R358). -/
def State.loopGone (s : State) (n : Nat) : State :=
  match s.health.slice with
  | some t => if 0xE8 ≤ t ∧ t ≤ 0x167 ∧ (t - 0xE8) / 8 = n then s.setHealth { s.health with slice := none } else s
  | none => s

/-- Identifier of the partner. -/
def Port.peerId (x : Port) : Nat := (x.peer.map (·.1)).getD 0xFFFF

/-- A lane fails: spared where lane 8 is free, otherwise the port goes down, or the half of it that has the lane. A lane
8 that fails is free no more; a lane that lane 8 stands for no longer matters. On Ethernet lane 8 is no half's, and its
failing takes the port down. `own`: this end names it, by a lane control flit. Where the partner has named another lane
for the retrain, the request of the lower identifier is carried out (R357). -/
def State.laneDown (s : State) (n lane : Nat) (assay own : Bool) : State :=
  let x := s.port n
  if x.st = .down ∨ x.st = .training then s
  else if s.isEth n then
    (if lane < 8 ∧ s.isHalves n then s.halfDown n (lane / 4) else s.portDown n 1)
  else if x.spared = lane ∨ x.sparing = lane then s
  else if lane = 8 ∧ x.spared = 15 ∧ x.sparing = 15 then
    (s.loopGone n).setPort n { x.unloop with badLanes := x.badLanes ++ [8] }
  else if x.spared = 15 ∧ x.sparing = 15 ∧ !x.badLanes.contains 8 then
    (s.loopGone n).setPort n { x.unloop with
      st := .retraining, sparing := lane, named := own, ctl := x.ctl ++ (if own then [.lane lane 0] else []),
      badLanes := x.badLanes ++ [lane] ++ (if assay then [16 + lane] else []) }
  else if x.sparing ≠ 15 ∧ !x.named ∧ own ∧ lane ≠ 8 then
    (if s.devId < x.peerId then
      s.setPort n { x with
        sparing := lane, named := true, ctl := x.ctl ++ [.lane lane 0],
        badLanes := x.badLanes ++ [lane] ++ (if assay then [16 + lane] else []) }
     else s.setPort n { x with ctl := x.ctl ++ [.lane lane 0] })
  else s.portDown n 1

/-- PORT_CFG.LANE_LIMIT of a port; 0 is taken as 0xFFFF (Table 16.9). -/
def State.laneLimit (s : State) (n : Nat) : Nat :=
  let l := bits (s.pg .port n 0x40) 23 8
  if l = 0 then 0xFFFF else l

/-- What a lane's failing would come from (R356, Table 16.5): its count of corrected symbols in the window, which fails it
above LANE_LIMIT; the loss of its signal; Assay's loopback; the loss of every lane's signal. -/
def execLaneFail (port lane : Nat) (cause : LaneCause) (s : State) : Host.Outcome State Fault Refusal :=
  if s.live (dieOfPort port) then
    match cause with
    | .symbols n =>
      let s := s.setPg .port port (0x80 + 4 * lane) (min n 0xFFFFFFFF)
      .next (if s.laneLimit port < n then s.laneDown port lane false true else s)
    | .signal => .next (s.laneDown port lane false true)
    | .assay => .next (s.laneDown port lane true true)
    | .all => .next (if (s.port port).st = .training then s else s.portDown port 5)
  else .next s

/-- A lane control flit: 0 names a lane to spare, 1 a loopback hand-over, which a second one for the lane
ends (R356 to R358). -/
def execLaneControl (port lane op : Nat) (s : State) : Host.Outcome State Fault Refusal :=
  let x := s.port port
  if s.isEth port ∨ !s.live (dieOfPort port) then .next s
  else if op = 0 then
    if x.st = .retraining ∧ x.sparing ≠ 15 then
      -- the end with the lower identifier is carried out (R357)
      .next (if x.peerId < s.devId then s.setPort port { x with sparing := lane, named := false } else s)
    else .next (s.laneDown port lane false false)
  else if x.st = .up ∧ x.spared = 15 ∧ !x.badLanes.contains 8 ∧ lane < 8 then
    .next (s.setPort port { x with st := .handover, looped := lane })
  else if x.st = .handover ∧ x.looped = lane then .next (s.setPort port x.unloop)
  else .next s

/-- A window of 2^20 frames ends (R356). -/
def execLaneSerWindowEnd (port : Nat) (s : State) : Host.Outcome State Fault Refusal :=
  .next ((List.range 9).foldl (fun s i => s.setPg .port port (0x80 + 4 * i) 0) s)

/-! ## Ethernet carriage (R359 to R361) -/

/-- Frames of other destinations, protocols or ports are none of the device's (R359). -/
def State.ethForUs (s : State) (n : Nat) (f : List Byte) : Bool :=
  62 ≤ f.length && beNat (slice f 0 6) == leNat (s.idBytes 10 6) && beNat (slice f 12 2) == 0x86DD &&
    fld f 20 1 == 17 && beNat (slice f 56 2) == bits (s.pg .port n 0xA8) 15 0

/-- Sends the ACK of a message, in the name of its destination; it takes no TAG and awaits no ACK itself (DEDUCED,
log 26). -/
def State.ethAck (s : State) (d : Nat) (m : List Byte) : State :=
  let src := fld m 4 2
  match s.routeOf d src with
  | some (n, h) => s.portSend n h (.raw (fabBytes (s.linkVer n) 0 3 (fld m 6 2) src 0xFF 0xFF 0 0
      (slice m 20 4 ++ slice m 1 1)))
  | none => s

/-- Key of the order of a sender's messages: destination, source, VC. -/
def ethKey (m : List Byte) : Nat := (fld m 6 2 * 65536 + fld m 4 2) * 4 + fld m 1 1 % 4

/-- Segments of a message. -/
def Port.ethSegs (x : Port) (k t : Nat) : List EthSeg :=
  x.segs.filter fun e => ethKey e.body == k && e.tag == t
/-- Every byte of the message has arrived. -/
def ethWhole (l : List EthSeg) : Bool :=
  l.any (fun e => e.offset == 0) &&
    decide (fld (l.headD ⟨0, 0, 0, 0, []⟩).body 12 4 ≤ (l.map fun e => e.body.length - 32).foldl (· + ·) 0)
/-- The message that segments spell: the header of the first, bodies in order of offset. -/
def ethJoin (l : List EthSeg) : List Byte :=
  match l.find? fun e => e.offset == 0 with
  | some h =>
    let n := fld h.body 12 4
    l.foldl (fun m e => lay m (32 + e.offset) (e.body.drop 32)) (slice h.body 0 (32 + n))
  | none => []

/-- The next message of a sender and VC, in TAG order, is delivered where it is whole. -/
def State.ethNext (s : State) (n k : Nat) : Option State :=
  let x := s.port n
  let t := tget 0 x.ethTag k
  let l := x.ethSegs k t
  if ethWhole l then
    let s := s.setPort n { x with
      segs := x.segs.filter fun e => !(ethKey e.body == k && e.tag == t),
      ethTag := tput 0 x.ethTag k ((t + 1) % 2 ^ 32) }
    some (s.fabReceive n (ethJoin l))
  else none

/-- Messages of a sender and VC are delivered in TAG order while the next one is whole. -/
def State.ethDeliver (fuel : Nat) (s : State) (n k : Nat) : State := repeatStep (fun t => t.ethNext n k) fuel s

/-- A segment: kept until its message is whole, which is acknowledged once; a message already delivered
is acknowledged again and discarded (R361). -/
def State.ethSegment (s : State) (n : Nat) (b : List Byte) : State :=
  let x := s.port n
  let k := ethKey b
  let t := fld b 20 4
  let late := 2 ^ 31 ≤ (t + 2 ^ 32 - tget 0 x.ethTag k) % 2 ^ 32
  let old := x.ethSegs k t
  if late ∨ ethWhole old then s.ethAck (dieOfPort n) b
  else if old.any fun e => e.offset == fld b 24 4 then s
  else
    let e : EthSeg := { src := fld b 4 2, vc := fld b 1 1, tag := t, offset := fld b 24 4, body := b }
    let s := s.setPort n { x with segs := x.segs ++ [e] }
    if ethWhole (old ++ [e]) then
      let m := ethJoin (old ++ [e])
      if fabCrcOk m then .ethDeliver (x.segs.length + 1) (s.ethAck (dieOfPort n) b) n k
      else
        -- discarded: no ACK, so that its sender sends it again (DEDUCED, log 26)
        (s.modPort n fun x => { x with
          segs := x.segs.filter fun e => !(ethKey e.body == k && e.tag == t) }).msgDrop n
    else s

/-- The CRC of a message of `n` bytes of which a byte changes: what the change alone comes to. -/
def crcChange (n off old new : Nat) : Nat :=
  let z : List Byte := List.replicate n 0
  crc32 (lay z off (leBytes 1 (old ^^^ new))) ^^^ crc32 z

/-- A segment of another device's message that goes on by Ethernet: TTL lowered, and the CRC of its message with it;
the ends of the carriage acknowledge it (R361, R363). -/
def ethPass (b : List Byte) : List Byte :=
  let ttl := fld b 10 1
  lay (lay b 10 (leBytes 1 (ttl - 1))) 28
    (leBytes 4 (fld b 28 4 ^^^ crcChange (32 + fld b 12 4) 10 ttl (ttl - 1)))

/-- Port and half by which a segment for another device goes on as it is: Ethernet, with hops left. -/
def State.ethOnward (s : State) (n : Nat) (b : List Byte) : Option (Nat × Nat) :=
  match (if fld b 6 2 = s.devId ∨ fld b 10 1 ≤ 1 then none else s.routeOf (dieOfPort n) (fld b 6 2)) with
  | some (k, h) => if s.isEth k then some (k, h) else none
  | none => none

/-- A received Ethernet frame (R359). ACK messages act at once, wherever they are for; what goes on by Ethernet goes
segment by segment; the rest is joined here, where Ethernet carriage ends. -/
def execEthFrame (port half : Nat) (frame : List Byte) (s : State) : Host.Outcome State Fault Refusal :=
  if s.isEth port ∧ (s.port port).st = .up ∧ s.live (dieOfPort port) ∧
      (half = 0 ∨ s.isHalves port) ∧ !(s.port port).halfGone.contains half then
    if s.ethForUs port frame then
      let b := slice (frame.drop 62) 0 (beNat (slice frame 58 2) - 8)
      let s := s.count64 .port port 0x78 b.length
      if b.length < 32 then .next (s.msgDrop port)
      else if fld b 2 2 = 3 then .next (s.fabReceive port b)
      else match s.ethOnward port b with
        | some (k, _) =>
          .next (s.ethPut k (.raw (ethPass b)) b.length)
        | none => .next (s.ethSegment port b)
    else .next (s.count32 .port port 0xC4 1)
  else .next s

/-- ETH_RTO passes for an unacknowledged message, named by its source, destination, VC and TAG: resent up to 8 times,
then no route (R361). -/
def execEthResendTimeout (port : Nat) (tag : EthKey) (s : State) : Host.Outcome State Fault Refusal :=
  let x := s.port port
  if s.isEth port ∧ x.st = .up ∧ s.live (dieOfPort port) then
    match x.ethOut.find? fun e => e.msg.key == tag with
    | some e =>
      let m := e.msg
      if e.resent < 8 then
        let s := s.setPort port { x with
          ethOut := updFirst (fun e => e.msg.key == tag) (fun e => { e with resent := e.resent + 1 }) x.ethOut }
        .next (s.ethPut port m (s.ethBytes port m))
      else
        let s := s.setPort port { x with ethOut := x.ethOut.erase e }
        let s := s.evErr .port port 8 8 0xF m.dst 0
        .next (if m.src = s.devId then s.lostRoute m.part m.dst else s.noRouteTo (dieOfPort port) m)
    | none => .next s
  else .next s

end Sys2Proof.Machine
end

