-- ==== Sys2Proof/Machine/Bringup.lean ====
section
/-! DEFINITION. Resets and power (R370, R405, R406, R409), the bring-up phases (Table 17.1, R371, R372),
OTP sense and the repair map (R379, R380, R382, R420), the parting line (R10, R12), authority between the
halves (R373 to R377). -/
namespace Sys2Proof.Machine

/-! ## OTP contents as sensed (Tables 17.5, 17.6) -/

/-- Bytes of fuse words. -/
def fuseBytes (t : Tbl Word) (off n : Nat) : List Byte :=
  (List.range n).map fun i => ((tget 0 t ((off + i) / 4)) >>> (8 * ((off + i) % 4))).truncate 8
/-- The CRC-32 in the last 4 bytes of an area matches. -/
def areaOk (t : Tbl Word) (off n : Nat) : Bool :=
  let b := fuseBytes t off n
  crc32 (b.take (n - 4)) == fld b (n - 4) 4
/-- The highest of four generations that is valid, 7 for none (R380). -/
def pickGen (ok : Nat → Bool) : Nat := ((List.range 4).reverse.find? ok).getD 7

def repairAt (g : Nat) : Nat := 0x300 + g * 0x210
def cfgAt (g : Nat) : Nat := 0xB40 + g * 0x100
def keyAt (g : Nat) : Nat := 0xF40 + g * 0x24

/-- A configuration record that counts as valid (Table 17.6). -/
def cfgOk (t : Tbl Word) (g : Nat) : Bool :=
  let b := fuseBytes t (cfgAt g) 256
  let pl := fld b 4 2
  let fm := fld b 6 2
  areaOk t (cfgAt g) 256 && fld b 0 2 == 1 && (fld b 2 1 == 1 || fld b 2 1 == 2) && zeros b 3 4 &&
    (pl == 0 || decide (1000 ≤ pl ∧ pl ≤ 2900)) && (fm == 0 || decide (900 ≤ fm ∧ fm ≤ 1600)) &&
    zeros b 8 32 && zeros b 64 252

/-- Set bits of a byte. -/
def ones (b : Nat) : Nat := count (bit b) (List.range 8)

/-- OTP of a die sensed; key slots and the field lock on the West die only (R379, R382). -/
def Otp.sense (o : Otp) (west : Bool) : Otp :=
  let t := o.words
  { o with
    sensed := t, idOk := areaOk t 0 256, trimOk := areaOk t 0x100 512,
    repairGen := pickGen fun g => areaOk t (repairAt g) 528,
    cfgGen := pickGen (cfgOk t),
    keyGen := if west then pickGen fun g => areaOk t (keyAt g) 36 else 7,
    fieldLock := west && decide (4 ≤ ones (leNat (fuseBytes t 0xFF8 1))) }

/-- Units that the repair generation of a die marks failed, and channels as stack × 32 + channel. Table 17.5 gives the
bits of cores and Fumarole units; tile i of the die has bit i, channel c of the die's stack s bit 32 s + c (DEDUCED,
log 27). -/
def Otp.marks (o : Otp) (d : Nat) : List FailUnit × List Nat :=
  if o.repairGen = 7 then ([], [])
  else
    let b := fuseBytes o.sensed (repairAt o.repairGen) 528
    let on (base i : Nat) : Bool := bit (nth 0 b (base + i / 8)).toNat (i % 8)
    let cores := (List.range 1584).filterMap fun i =>
      if on 0 i then some (FailUnit.core (48 * d + i / 33) (i % 33)) else none
    let seqs := (List.range 96).filterMap fun i =>
      if on 198 i then some (FailUnit.seq (48 * d + i / 2) (i % 2)) else none
    let tiles := (List.range 42).filterMap fun i => if on 210 i then some (FailUnit.tile (42 * d + i)) else none
    let fums := (List.range 198).filterMap fun i =>
      if on 216 i then some (FailUnit.fum (6 * d + i / 33) (i % 33)) else none
    (cores ++ seqs ++ tiles ++ fums,
      (List.range 192).filterMap fun i => if on 241 i then some (6 * d * 32 + i) else none)

/-! ## Resets (R370, R409) -/

/-- Debug mode and grant at a start: open where the device is not field-locked, else locked, or locked out
(R383). -/
def Dbg.start (x : Dbg) (locked : Bool) : Dbg :=
  if !locked then { x with mode := 0, granted := 7 }
  else { x with mode := if x.failCnt = 8 then 3 else 1, granted := 0 }

/-- A burn broken off leaves an unstated part of its bits (R381, DESIGN CHOICE, log 6). -/
def Otp.breakOff (o : Otp) (junk : Word) : Otp :=
  match o.burn with
  | some (a, v) => { o with words := tput 0 o.words a (tget 0 o.words a ||| (v &&& junk)), burn := none }
  | none => o

/-- Bring-up is in progress: a reset that arrives now is no further one (R409). -/
def Dev.resetting (d : Dev) : Bool := (d.state == .reset || d.state == .assay) && !d.failed

/-- BOOT_STAT (Table 17.9). -/
def State.setBoot (s : State) (phase cause detail : Nat) : State :=
  (s.setDev { s.dev with phase := phase }).setPg .mgt 0 0x40 (phase + cause * 16 + detail % 256 * 256)

/-- PRIMARY_SEL of a die is sampled; with the sensed ROLE it makes the claim (R373). -/
def Auth.sample (a : Auth) (sel : Bool) : Auth := { a with primarySel := sel, claim := sel && a.rolePrimary }

/-- A full device reset: every block in its reset state but what R370 names, the claim inputs being sampled and sensed
values; host memory is none of the device's. Bring-up starts at phase 1 unless SYS_RST_N is held. The stacks lose their clock with TRAINED until phase 4
(DESIGN CHOICE, log 50: R21 lets a stack domain run from training on, and Table 10.9 resets TRAINED). -/
def State.fullReset (s : State) : State :=
  let d := s.dev
  let die (i : Nat) (x : DieSt) : DieSt := { DieSt.reset with
    otp := { x.otp.breakOff (Config.freeWord (s.fresh + i)) with vppOk := false },
    auth := { Auth.reset with
      primarySel := x.auth.primarySel, rolePrimary := x.auth.rolePrimary, claim := x.auth.claim } }
  let t : State := { State.reset with
    pending := s.pending, fresh := s.fresh + 2,
    dev := { Dev.reset with
      sysRst := d.sysRst, perst := d.perst, rails := d.rails,
      boots := if d.resetting then d.boots else min (d.boots + 1) 255 },
    west := die 0 s.west, east := die 1 s.east, mem := s.mem,
    health := { Health.reset with log := s.health.log, ovf := s.health.ovf },
    dbg := ({ Dbg.reset with failCnt := s.dbg.failCnt }).start s.west.otp.fieldLock,
    taps := s.taps }
  if d.sysRst then t else t.setBoot 1 0 0

/-- SYS_RST_N is asserted; pulses below 1 µs are ignored (R408). -/
def execSysRstNAssert (ns : Nat) (s : State) : Host.Outcome State Fault Refusal :=
  if 1000 ≤ ns ∧ s.dev.rails then .next (s.setDev { s.dev with sysRst := true }).fullReset else .next s

/-- SYS_RST_N is released: PRIMARY_SEL is sampled and bring-up starts (R371, R373). -/
def execSysRstNRelease (selW selE : Bool) (s : State) : Host.Outcome State Fault Refusal :=
  if s.dev.sysRst ∧ s.dev.rails then
    let s := s.setDev { s.dev with sysRst := false }
    let s := s.modDie 0 fun x => { x with auth := x.auth.sample selW }
    let s := s.modDie 1 fun x => { x with auth := x.auth.sample selE }
    .next (s.setBoot 1 0 0)
  else .next s

/-- PCIE_PERST_N is asserted for 1 µs or more, or the link is reset by a secondary bus reset. -/
def execPciePerstNAssert (ns : Nat) (secondaryBus : Bool) (s : State) :
    Host.Outcome State Fault Refusal :=
  if (secondaryBus ∨ 1000 ≤ ns) ∧ s.dev.rails then
    .next (s.setDev { s.dev with perst := s.dev.perst || !secondaryBus }).fullReset
  else .next s

/-- PCI Express link training may start: phase 8 follows (Table 17.1). -/
def State.pcieStart (s : State) : State :=
  if s.dev.hostRdy ∧ !s.dev.perst then s.setBoot 8 0 0 else s

/-- PCIE_PERST_N is released. -/
def execPciePerstNRelease (s : State) : Host.Outcome State Fault Refusal :=
  .next (s.setDev { s.dev with perst := false }).pcieStart

/-- What power-off leaves: the fuses and host memory. -/
def State.dark (s : State) (rails : Bool) (w e : Tbl Word) : State :=
  { State.reset with
    pending := s.pending, fresh := s.fresh + 2,
    mem := s.mem.filter fun c => decide (hostBase ≤ c.1),
    dev := { Dev.reset with rails := rails },
    west := { DieSt.reset with otp := { Otp.blank with words := w } },
    east := { DieSt.reset with otp := { Otp.blank with words := e } } }

/-- Supply rails are lost (R406); a burn is broken off like at a reset (R381). -/
def execPowerOff (s : State) : Host.Outcome State Fault Refusal :=
  .next (s.dark false (s.west.otp.breakOff (Config.freeWord s.fresh)).words
    (s.east.otp.breakOff (Config.freeWord (s.fresh + 1))).words)

/-- Fuses with further bits burned: no bit returns to 0 (R379). -/
def fuseOr (t : Tbl Word) (ws : List Word) : Tbl Word :=
  forN (min ws.length 1024) t fun i t => tput 0 t i (tget 0 t i ||| nth 0 ws i)

/-- The rails rise with SYS_RST_N held (R405); the operands are what the fuses of the dies hold (DESIGN CHOICE, log 7). -/
def execPowerUp (otpW otpE : List Word) (s : State) : Host.Outcome State Fault Refusal :=
  if !s.dev.rails ∨ (s.dev.sysRst ∧ s.dev.phase = 0) then
    .next (s.dark true (fuseOr s.west.otp.words otpW) (fuseOr s.east.otp.words otpE))
  else .next s

/-- A write of the key to DEV_RST, through BAR0 or the management ring, in READY or SAFE. -/
def State.devRst (s : State) (init : Nat) (v : Word) : State :=
  if init < 2 ∧ v = 0x0000A5A5#32 ∧ (s.dev.state = .ready ∨ s.dev.state = .safe) then s.fullReset else s

/-! ## Bring-up (Table 17.1, R372) -/

/-- A phase fails: the device stays in RESET with FAULT_N asserted. -/
def State.failBoot (s : State) (cause detail : Nat) : State :=
  let s := s.setBoot s.dev.phase cause detail
  s.setDev { s.dev with failed := true, faultN := true, state := .reset }

/-- The device is in a phase of bring-up. -/
def State.inPhase (s : State) (n : Nat) : Bool := s.dev.phase == n && !s.dev.failed && !s.dev.sysRst

/-- PLLs lock: phase 1 ends with the Crucible, NoC and management PLLs of both dies (bits 1 to 3, log
27). -/
def execPllLock (maskW maskE : Nat) (s : State) : Host.Outcome State Fault Refusal :=
  if 1 ≤ s.dev.phase then
    let lock (d m : Nat) (s : State) : State := s.modDie d fun x =>
      { x with therm := { x.therm with locked := x.therm.locked ||| m % 2 ^ 14 } }
    let s := lock 1 (maskE % 2 ^ 13) (lock 0 maskW s)
    let ok (d : Nat) : Bool := (s.die d).therm.locked &&& 14 == 14
    .next (if s.inPhase 1 ∧ ok 0 ∧ ok 1 then s.setBoot 2 0 0 else s)
  else .next s

/-- Channels are withdrawn before READY: no Vent and no event (R234, R420). -/
def State.bringupWithdraw (s : State) (n c source : Nat) : State :=
  if s.maps.chGone.contains (n * 32 + c) then s
  else
    let s := s.setMaps { s.maps with chGone := s.maps.chGone ++ [n * 32 + c] }
    let s := (channelGranules n c).foldl (fun s k => s.setOwner k 0xE) s
    if source = 1 then
      s.mapUse { fails := [], part := 0xFF, atReset := true } 0x40 (n * 32 + c) 0xFFFF c 2
    else s.splog 0x40 (n * 32 + c) 0xFFFF 2 source

/-- The repair maps of both dies are applied (R420). -/
def State.applyRepair (s : State) : State :=
  let w := s.west.otp.marks 0
  let e := s.east.otp.marks 1
  let s := s.setMaps { s.maps with otpFail := w.1 ++ e.1 }
  let s := (w.2 ++ e.2).foldl (fun s c => s.bringupWithdraw (c / 32) (c % 32) 1) s
  s.remap { fails := w.1 ++ e.1, part := 0xFF, atReset := true } (List.range 96)

/-- Phase 2 (R373, R380). -/
def execOtpSense (s : State) : Host.Outcome State Fault Refusal :=
  if s.inPhase 2 then
    let s := s.modDie 0 fun x => { x with otp := x.otp.sense true }
    let s := s.modDie 1 fun x => { x with otp := x.otp.sense false }
    let s := s.setDbg (s.dbg.start s.west.otp.fieldLock)
    let role (d : Nat) : Bool := (s.die d).otp.cfgGen != 7 && s.cfgFld d 2 1 == 1
    let set (d : Nat) (s : State) : State := s.modDie d fun x =>
      { x with auth := { x.auth with rolePrimary := role d, claim := x.auth.primarySel && role d } }
    let s := set 1 (set 0 s)
    let first (q : Nat → Bool) : Option Nat := (List.range 2).find? q
    match first fun d => !((s.die d).otp.idOk && (s.die d).otp.trimOk) with
    | some d => .next (s.failBoot 1 d)
    | none =>
    match first fun d => (s.die d).otp.cfgGen == 7 with
    | some d => .next (s.failBoot 2 d)
    | none =>
      match first fun d => (s.die d).auth.primarySel != (s.die d).auth.rolePrimary with
      | some d => .next (s.failBoot 7 d)
      | none =>
        let s := s.applyRepair
        let s := s.setDev { s.dev with timeRun := true, time := 0, state := .assay }
        .next (s.setBoot 3 0 0)
  else .next s

/-- Class of an Assay target (Table 18.3). -/
def assayClass (t : Nat) : Nat :=
  if t ≤ 0x1A then 1 else if t ≤ 0x1F then 2 else if t ≤ 0x4F then 3 else if t ≤ 0x7F then 4
  else if t ≤ 0xDF then 5 else if t ≤ 0xE7 then 6 else if t ≤ 0x167 then 7 else 8

/-- Die of an Assay target (Table 18.3; PRESUMED, log 28). -/
def assayDie (t : Nat) : Nat :=
  let half (base n : Nat) : Nat := if t < base + n then 0 else 1
  if t ≤ 0x19 then half 0 13 else if t = 0x1A then 0
  else if t ≤ 0x1F then (if t = 0x1C ∨ t = 0x1F then 1 else 0)
  else if t ≤ 0x4F then half 0x20 24 else if t ≤ 0x7F then half 0x50 24
  else if t ≤ 0xDF then dieOfStack ((t - 0x80) / 8) else if t ≤ 0xE7 then half 0xE0 4
  else if t ≤ 0x167 then dieOfPort ((t - 0xE8) / 8) else half 0x168 10

/-- A failure sets ASSAY_FAIL, is captured where the register is empty, and is counted (R395). -/
def State.assayNote (s : State) (t r : Nat) : State :=
  let d := assayDie t
  let s := s.evErr .pyro d 2 (assayClass t) 0xF t 0
  let h := s.health
  s.setHealth { h with
    fail := if tget (0, 0, 0) h.fail d = (0, 0, 0) then tput (0, 0, 0) h.fail d (t, assayClass t, r % 8)
      else h.fail,
    fails := tput 0 h.fails d (min (tget 0 h.fails d + 1) 0xFFFFFFFF) }

/-- A lane target failed in phase 3: training starts with lane 8 in its place, where it is free. -/
def State.assayLane (s : State) (n lane : Nat) : State :=
  let x := s.port n
  if x.badLanes.contains lane then s
  else
    let s := s.setPort n { x with badLanes := x.badLanes ++ [lane] }
    if lane ≠ 8 ∧ x.spared = 15 ∧ !x.badLanes.contains 8 then
      (s.modPort n fun x => { x with spared := lane }).splog 0x32 (n * 16 + lane) (n * 16 + 8) 1 3
    else s

/-- Phase 3: every target is run once (R393); the operand names those that fail, with their results. -/
def execAssayFull (fails : List (Nat × Nat)) (s : State) : Host.Outcome State Fault Refusal :=
  if s.inPhase 3 then
    let fs := (List.range 0x17C).filterMap fun t => fails.find? fun f => f.1 == t
    let s := fs.foldl (fun s f => s.assayNote f.1 f.2) s
    let s := match fs.head? with
      | some f => s.setDev { s.dev with firstFail := f.1, firstResult := f.2 % 8 }
      | none => s
    match fs.find? fun f => assayClass f.1 != 5 && assayClass f.1 != 7 with
    | some f => .next (s.failBoot 3 f.1)
    | none =>
      let s := fs.foldl (fun s f =>
        if assayClass f.1 = 5 then
          forN 4 s fun i s => s.bringupWithdraw ((f.1 - 0x80) / 8) ((f.1 - 0x80) % 8 * 4 + i) 3
        else s.assayLane ((f.1 - 0xE8) / 8) ((f.1 - 0xE8) % 8)) s
      .next (s.setBoot 4 0 0)
  else .next s

/-- Phase 4: stacks train, failed channels are withdrawn, every granule is zeroed and set free. -/
def execStackTraining (failedStacks failedChannels : List Nat) (s : State) :
    Host.Outcome State Fault Refusal :=
  if s.inPhase 4 then
    match failedStacks with
    | n :: _ => .next (s.failBoot 4 n)
    | [] =>
      let s := failedChannels.foldl (fun s c => s.bringupWithdraw (c / 32) (c % 32) 4) s
      let s := s.setMem (s.mem.filter fun c => decide (hostBase ≤ c.1))
      let s := s.setStk { s.stk with gran := s.stk.gran.filter fun e => e.2.owner == 0xE }
      let s := s.allStacks fun x => { x with trained := true }
      .next (s.setBoot 5 0 0)
  else .next s

/-- Phase 6 begins: the claiming die forms its word (R376). -/
def State.authStart (s : State) : State :=
  let e := if s.now % 2 ^ 32 = 0 then 1 else s.now % 2 ^ 32
  let set (d : Nat) (s : State) : State := s.modDie d fun x =>
    { x with auth := { x.auth with
        own := if x.auth.claim then authSeal (e + (d + 1) * 2 ^ 32 + 2 ^ 34) else authSeal 0 } }
  set 1 (set 0 s)

/-- Phase 5: up to 4 failed wires of a group go onto its spares (R10). Operands: direction (0 West to
East), group, wire. -/
def execPartingLineTraining (failed : List (Nat × Nat × Nat)) (s : State) :
    Host.Outcome State Fault Refusal :=
  if s.inPhase 5 then
    let fs := failed.eraseDups.filter fun f => decide (f.1 < 2 ∧ f.2.1 < 256 ∧ f.2.2 < 128)
    match fs.find? fun f => decide (4 < count (fun g => g.1 == f.1 && g.2.1 == f.2.1) fs) with
    | some f => .next (s.failBoot 5 f.2.1)
    | none =>
      let set (d : Nat) (s : State) : State := s.modDie d fun x =>
        { x with line := { x.line with
            trained := true,
            failed := fs.map fun f => (if d = 0 then f.1 else 1 - f.1) * 2 ^ 16 + f.2.1 * 2 ^ 8 + f.2.2 } }
      .next ((set 1 (set 0 s)).authStart.setBoot 6 0 0)
  else .next s

/-- Phase 6 ends: READY, HOST_RDY high. -/
def execAuthorityEstablished (s : State) : Host.Outcome State Fault Refusal :=
  if s.inPhase 6 ∧ 3 ≤ s.west.auth.matches' ∧ 3 ≤ s.east.auth.matches' ∧
      s.west.auth.claim ≠ s.east.auth.claim then
    let s := s.setDev { s.dev with state := .ready, hostRdy := true }
    .next (s.setBoot 7 0 0).pcieStart
  else .next s

/-- A phase passes its limit; the detail is the operand but for the authority exchange. -/
def execBringupPhaseTimeout (detail : Nat) (s : State) : Host.Outcome State Fault Refusal :=
  let n := s.dev.phase
  if 1 ≤ n ∧ n ≤ 6 ∧ s.inPhase n then
    .next (s.failBoot (nth 0 [8, 1, 3, 4, 5, 6] (n - 1)) (if n = 6 then 3 else detail))
  else .next s

/-! ## Authority (R374 to R377, Table 17.3) -/

def authEpoch (w : BitVec 64) : Nat := bits w.toNat 31 0
def authHolder (w : BitVec 64) : Nat := bits w.toNat 33 32
def authClaim (w : BitVec 64) : Bool := bit w.toNat 34
/-- Two words agree in EPOCH and HOLDER, and HOLDER names a die. -/
def authMatch (a b : BitVec 64) : Bool :=
  authEpoch a == authEpoch b && authHolder a == authHolder b && (authHolder a == 1 || authHolder a == 2)
def authCrcOk (w : BitVec 64) : Bool := w.toNat / 2 ^ 56 == crc8 (w.toNat % 2 ^ 56)

/-- A word arrives in phase 6 (R376). -/
def State.authJoin (s : State) (d : Nat) (w : BitVec 64) : State :=
  let a := (s.die d).auth
  if a.claim ∧ authClaim w then s.failBoot 6 1
  else if !a.claim ∧ !authClaim w then s.failBoot 6 2
  else
    let take := !a.claim && authEpoch a.own == 0 && authClaim w && authHolder w == (if d = 0 then 2 else 1)
    let own := if take then authSeal (authEpoch w + authHolder w * 2 ^ 32) else a.own
    s.modDie d fun x => { x with auth := { x.auth with
      own := own, peer := w, arrived := true, matches' := if authMatch own w then a.matches' + 1 else 0 } }

/-- The authority word of the other die arrives; one with a failing CRC did not. -/
def State.authArrive (s : State) (d : Nat) (w : BitVec 64) : State :=
  if !authCrcOk w ∨ s.dev.failed then s
  else if s.dev.phase = 6 then s.authJoin d w
  else if 7 ≤ s.dev.phase then
    let s := s.modDie d fun x => { x with auth := { x.auth with peer := w, arrived := true } }
    if bit w.toNat 35 then s.enterSafe d (bits w.toNat 38 36) true else s
  else s

/-- AUTH_WORD_RECEIVED (R375). -/
def execAuthWordReceived (die : Nat) (w : BitVec 64) (s : State) : Host.Outcome State Fault Refusal :=
  .next (s.authArrive die w)

/-- The window since the previous tick is judged (R375). -/
def State.authJudge (s : State) (d : Nat) : State :=
  let a := (s.die d).auth
  let miss := !a.arrived || !authMatch a.own a.peer
  let run := if miss then min (a.run + 1) 3 else 0
  let both := a.arrived && a.claim && authClaim a.peer
  let neither := a.arrived && !a.claim && !authClaim a.peer
  let s := s.modDie d fun x => { x with auth := { x.auth with
    arrived := false, run := run, total := min (a.total + b2n miss) (2 ^ 30 - 1) } }
  let s := if miss then s.evSet .mgt d 2 else s
  if run = 3 then s.enterSafe d 1 false
  else if both then s.enterSafe d 2 false
  else if neither then s.enterSafe d 3 false
  else s

/-- A management tick: the window is judged once authority is established, and the word is sent. -/
def execAuthTick (die : Nat) (s : State) : Host.Outcome State Fault Refusal :=
  if s.dev.failed then .next s
  else if s.dev.phase = 6 then
    .next ((s.modDie die fun x => { x with auth := { x.auth with arrived := false } }).authSend die)
  else if 7 ≤ s.dev.phase then
    .next ((if (s.die die).auth.inSafe ∧ !s.safeNow die then s else s.authJudge die).authSend die)
  else .next s

/-! ## Parting-line cycles (R12) -/

def State.modLine (s : State) (d : Nat) (f : Line → Line) : State :=
  s.modDie d fun x => { x with line := f x.line }

/-- A cycle is delivered on a die: an authority word acts; a register access acts by its own row, and other data is the
engines' own. -/
def State.plDeliver (s : State) (d : Nat) (c : PlCycle) : State :=
  if c.cls = 0 ∧ c.reg = none then s.authArrive d c.word else s

/-- The first waits of a class that are good are delivered in order, up to one that has failed. -/
def State.plRelease (s : State) (d cls : Nat) : State :=
  let mine := (s.die d).line.waits.filter fun w => w.cyc.cls == cls
  let go := mine.takeWhile fun w => w.fails == 0
  let s := s.modLine d fun l => { l with
    waits := (l.waits.filter fun w => w.cyc.cls != cls) ++ mine.drop go.length }
  go.foldl (fun s w => s.plDeliver d w.cyc) s

/-- The fourth failed send of a cycle: settled by its class (R12). A register access it carried is GATED, and its row,
which is still to come, reads all ones or writes nothing; NoC data is poisoned where it was to be written (DEDUCED, log 46). -/
def State.plSettle (s : State) (d : Nat) (c : PlCycle) : State :=
  let part := if c.cls = 0 ∨ 8 ≤ c.owner then 0xF else c.owner
  let s := (s.evErr .d2d d 2 2 part c.cls 0).count32 .d2d d 0x50 1
  if c.cls = 0 then
    match c.reg with
    | some (init, off, wr) =>
      let s := s.busErr init 1 off
      let s := s.setBus { s.bus with lost := s.bus.lost ++ [(init, off, wr)] }
      if wr then s else s.setBus { s.bus with readData := tput 0 s.bus.readData init 0xFFFFFFFF }
    | none => s
  else if c.cls = 1 then
    let s := s.evErr .sprue d 3 3 c.owner 0 0
    if c.owner < 8 then s.faultFrom c.owner .sprue d 3 else s
  else
    let s := match c.dest with
      | some (a, n) => (s.setBytes a ((List.range n).map fun i => Config.poisonByte (s.fresh + i))).setFresh (s.fresh + n)
      | none => s
    if c.owner < 8 then s.faultFrom c.owner .d2d d 2
    else s.modCmd 8 c.cid fun k => if k.phase = .running ∧ k.out = none then { k with out := some (.of 6) } else k

/-- A failed send is reported back, to be sent again (RESEND counts each; DEDUCED, log 46). -/
def State.plReport (s : State) (d : Nat) : State := (s.evSet .d2d d 1).count64 .d2d d 0x48 1

/-- A cycle is received on a die. While a resend of its class is on the wires it is that one, since a resend comes
before any later cycle of its class; otherwise it is new, and waits behind those of its class that have failed. -/
def execPlCycleReceived (die : Nat) (c : PlCycle) (crcOk : Bool) (s : State) :
    Host.Outcome State Fault Refusal :=
  let l := (s.die die).line
  let again (w : PlWait) : Bool := w.cyc.cls == c.cls && w.resent
  if l.trained then
    match l.waits.find? again with
    | some w =>
      if crcOk then
        .next ((s.modLine die fun l => { l with
          waits := updFirst again (fun w => { w with fails := 0, resent := false }) l.waits }).plRelease die c.cls)
      else if w.fails = 3 then
        .next (((s.modLine die fun l => { l with waits := l.waits.erase w }).plSettle die w.cyc).plRelease die c.cls)
      else
        .next ((s.modLine die fun l => { l with
          waits := updFirst again (fun w => { w with fails := w.fails + 1, resent := false }) l.waits }).plReport die)
    | none =>
      let s := s.modLine (1 - die) fun l => { l with replay := (c :: l.replay).take 64 }
      let s := if c.cls = 0 then s else s.moves .d2d (1 - die)
      if !crcOk then
        .next ((s.modLine die fun l => { l with waits := l.waits ++ [⟨c, 1, false⟩] }).plReport die)
      else if l.waits.any fun w => w.cyc.cls == c.cls then
        .next (s.modLine die fun l => { l with waits := l.waits ++ [⟨c, 0, false⟩] })
      else .next (s.plDeliver die c)
  else .next s

/-- The sender sends the first failed cycle of a class again, from its replay buffer; a management slot that carries one
is counted (Table 1.8). -/
def execPlResend (die cls : Nat) (s : State) : Host.Outcome State Fault Refusal :=
  let rx := 1 - die
  let due (w : PlWait) : Bool := w.cyc.cls == cls && w.fails != 0 && !w.resent
  match (s.die rx).line.waits.find? due with
  | some w =>
    if (s.die die).line.replay.contains w.cyc then
      let s := s.modLine die fun l => { l with replay := (w.cyc :: l.replay).take 64 }
      let s := if cls = 0 then s.count32 .d2d die 0x64 1 else s
      .next (s.modLine rx fun l => { l with waits := updFirst due (fun w => { w with resent := true }) l.waits })
    else .next s
  | none => .next s

end Sys2Proof.Machine
end

