-- ==== Sys2Proof/Machine/Health.lean ====
section
/-! DEFINITION. The Pyrometer's samples and the thermal states (R390 to R392, R404), Assay in service
(R394, R395), PLLs that lose lock (R401). -/
namespace Sys2Proof.Machine

/-! ## Sensors (Table 18.1): 12 junction, 12 stack (layer, base die), 24 voltages, 20 currents -/

def Thermal.sensor (t : Thermal) (i : Nat) : Nat := nth 0 t.samples i
/-- Largest of the sensors `a` to `a + n − 1`. -/
def Thermal.top (t : Thermal) (a n : Nat) : Nat := ((List.range n).map fun i => t.sensor (a + i)).foldl max 0
/-- Hottest junction sensor in 0.25 °C, hottest stack sensor in °C. -/
def Thermal.junction (t : Thermal) : Nat := t.top 0 12
def Thermal.stackHot (t : Thermal) : Nat := t.top 12 12

/-- Nominal voltage in mV and range in percent of the rail of a monitor: the rails of Table 19.1 in order,
then monitors that repeat VDD_ARRAY and VDD_CRUC (PRESUMED, log 28). -/
def rail (i : Nat) : Nat × Nat :=
  nth (if i % 2 = 1 then (780, 3) else (720, 3))
    [(1800, 5), (1800, 5), (1200, 3), (800, 3), (1100, 3), (750, 3), (750, 3), (800, 2), (800, 3), (800, 2),
     (780, 3), (720, 3), (2500, 5)] i
/-- The monitor reads a voltage inside the operating range. -/
def railIn (i mv : Nat) : Bool :=
  let (n, p) := rail i
  decide (n * (100 - p) ≤ 100 * mv ∧ 100 * mv ≤ n * (100 + p))

/-- A monitor reads its rail out of range on a die: VDD_PCIE is West's only; VPP_OTP may be absent, which it is below a
tenth of its voltage (DESIGN CHOICE, log 28), and is judged where it is applied (R404). -/
def railBad (d i mv : Nat) : Bool := !railIn i mv && !(i == 9 && d != 0) && !(i == 12 && decide (mv < 250))

/-- Rails of the ten pairs of current monitors, by voltage monitor (PRESUMED, log 28). -/
def pairRail : List Nat := [1, 2, 3, 4, 5, 6, 7, 8, 10, 11]

/-- Power of a die at a sample in mW: voltage times current over the ten pairs. -/
def Thermal.draws (t : Thermal) : Nat :=
  (((List.range 10).map fun k => t.sensor (24 + nth 0 pairRail k) * t.sensor (48 + 2 * k)).foldl (· + ·) 0) / 10
/-- Average over the last 10 samples, in mW (R390). -/
def Thermal.average (t : Thermal) : Nat := t.power.foldl (· + ·) 0 / max t.power.length 1
/-- Package power in mW. -/
def State.packagePower (s : State) : Nat := s.west.therm.average + s.east.therm.average

/-! ## Thermal states (Table 18.2) -/

/-- The entry condition of a state holds, with a margin in quarter degrees and in percent of PWR_LIMIT.
In state T0 it always holds. -/
def Thermal.enters (t : Thermal) (pkg limit st deg pct : Nat) : Bool :=
  let hot (x : Nat) : Bool := decide (4 * x ≤ t.junction + deg)
  let t1 : Bool := hot 95 || decide (limit * 10 * (100 - pct) < pkg)
  if st = 3 then hot 104 || decide (4 * 105 ≤ 4 * t.stackHot + deg)
  else if st = 2 then hot 100 || (t1 && t.ceiling == 900)
  else if st = 1 then t1
  else true

/-- State after a sample: raised at once; lowered one step after 100 consecutive samples in which the
condition fails by the margin. -/
def Thermal.advance (t : Thermal) (pkg limit : Nat) : Thermal :=
  let up := if t.enters pkg limit 3 0 0 then 3 else if t.enters pkg limit 2 0 0 then 2
    else if t.enters pkg limit 1 0 0 then 1 else 0
  if t.st < up then { t with st := up, low := 0 }
  else if t.enters pkg limit t.st 12 5 then { t with low := 0 }
  else if t.low + 1 < 100 then { t with low := t.low + 1 }
  else { t with st := t.st - 1, low := 0 }

/-- The array clock ceiling after a sample (R391; PRESUMED, log 28). -/
def Thermal.ceil (t : Thermal) (old : Nat) (t1 : Bool) : Thermal :=
  let c := if t.ceiling = 0 then 1600 else t.ceiling
  if 2 ≤ t.st then { t with ceiling := 900, since := 0, rising := true }
  else if t.st = 1 ∧ t1 then
    if old = 0 ∨ t.rising ∨ 9 ≤ t.since then
      { t with ceiling := max (c - 100) 900, since := 0, rising := false }
    else { t with since := t.since + 1 }
  else if t.st = 0 ∨ t.rising then
    if c = 1600 then { t with since := 0, rising := false }
    else if t.st = 0 ∧ old = 1 ∧ !t.rising then { t with since := 0 }
    else if 9 ≤ t.since then { t with ceiling := c + 100, since := 0 }
    else { t with since := t.since + 1 }
  else { t with since := t.since + 1 }

/-- Partitions that own a cluster or a tile of a die. -/
def State.dieParts (s : State) (d : Nat) : List Nat :=
  (List.range 8).filter fun p =>
    (s.part p).st != .empty && (s.partUnits p).any fun u => dieOfUnit u == d

/-- A change of state (R392). -/
def State.thermalEvent (s : State) (d : Nat) : State :=
  let t := (s.die d).therm
  let s := s.evSet .pyro d 1
  let body := leBytes 1 (0x80 + d) ++ leBytes 1 t.st ++ leBytes 1 (t.junction / 4) ++
    List.replicate 5 0 ++ leBytes 8 s.now
  (8 :: s.dieParts d).foldl (fun s r => s.vent r 0x800B (ringPart r) body) s

/-- The stacks of a die close or open their Fumarole slots with T3. -/
def State.closeStacks (s : State) (d : Nat) (c : Bool) : State :=
  (List.range 6).foldl (fun s i => s.modStack (6 * d + i) fun x => { x with closed := c }) s

/-- The samples of the sensors of a die take their places, with VPP_OK. -/
def State.sensed (s : State) (die : Nat) (samples : List Nat) : State :=
  let old := (s.die die).therm
  let seen : Thermal := { old with samples := samples.take 68 }
  let seen : Thermal := { seen with power := (seen.draws :: old.power).take 10 }
  s.modDie die fun x => { x with therm := seen, otp := { x.otp with vppOk := railIn 12 (seen.sensor 36) } }

/-- The Pyrometer samples the sensors of a die, from the release of reset on; the thermal states follow once the limits
are sensed and bring-up has not failed. -/
def execPyroSample (die : Nat) (samples : List Nat) (s : State) : Host.Outcome State Fault Refusal :=
  if s.dev.phase = 0 then .next s
  else if 3 ≤ s.dev.phase ∧ !s.dev.failed then
    let old := (s.die die).therm
    let s := s.sensed die samples
    let seen := (s.die die).therm
    let pkg := s.packagePower
    let lim := s.pwrLimit die
    let t := seen.advance pkg lim
    let t := t.ceil old.st (t.enters pkg lim 1 0 0)
    let s := s.modDie die fun x => { x with therm := t }
    let s := s.closeStacks die (t.st == 3)
    let s := if t.st = old.st then s else s.thermalEvent die
    .next (if s.safeDue ∧ (List.range 24).any fun i => railBad die i (t.sensor (24 + i)) then
      s.deviceSafe 5 else s)
  else .next (s.sensed die samples)

/-! ## Assay in service -/

/-- Port and lane of a lane target. -/
def laneOf (t : Nat) : Nat × Nat := ((t - 0xE8) / 8, (t - 0xE8) % 8)

/-- The target has a slice in this rotation: a lane target needs a port that is up, and lane 8 free, or
lane 0 of an Ethernet port (R394, R358). -/
def State.testable (s : State) (t : Nat) : Bool :=
  if assayClass t = 7 then
    let (n, i) := laneOf t
    let x := s.port n
    x.st == .up && x.spared == 15 && (if s.isEth n then i == 0 else x.sparing == 15 && !x.badLanes.contains 8)
  else true

/-- The first target from `t` on that has a slice, with the rotations that end on the way. -/
def State.nextSlice : Nat → State → Nat → Nat → Nat × Nat
  | 0, _, t, r => (t, r)
  | n + 1, s, t, r =>
    if s.testable t then (t, r)
    else if t = 379 then State.nextSlice n s 0 (r + 1) else State.nextSlice n s (t + 1) r

/-- A slice ends: a looped lane is given back, on a native port by a lane control flit (R358). -/
def State.sliceEnd (s : State) : State :=
  match s.health.slice with
  | some t =>
    let s := s.setHealth { s.health with slice := none }
    let (n, i) := laneOf t
    if assayClass t = 7 then s.modPort n fun x => { x.unloop with
      ctl := if x.st = .handover then x.ctl ++ [.lane i 1] else x.ctl }
    else s
  | none => s

/-- A slice begins (R394); the operand says that the target's PLL is relocking for a DVFS change. -/
def execAssaySlice (relocking : Bool) (s : State) : Host.Outcome State Fault Refusal :=
  if s.dev.state = .ready then
    let s := s.sliceEnd
    let (t, r) := State.nextSlice 380 s s.health.next s.health.rotations
    if relocking ∧ assayClass t = 1 then
      .next (s.setHealth { s.health with next := t, rotations := min r (2 ^ 23 - 1) })
    else
      let r := if t = 379 then r + 1 else r
      let s := s.setHealth { s.health with
        slice := some t, next := (t + 1) % 380, rotations := min r (2 ^ 23 - 1) }
      let (n, i) := laneOf t
      .next (if assayClass t = 7 then
        (if s.isEth n then s.modPort n fun x => { x with looped := 8 }
         else s.modPort n fun x => { x with st := .handover, looped := i, ctl := x.ctl ++ [.lane i 1] })
        else s)
  else .next s

/-- VENT_ASSAY_FAIL (Table 15.10). -/
def State.ventAssay (s : State) (t r : Nat) : State :=
  s.vent 8 0x8007 0xFF (leBytes 2 t ++ leBytes 1 (assayClass t) ++ leBytes 1 r ++ [0, 0, 0, 0] ++ leBytes 8 s.now)

/-- An in-service failure acts by its class (R395). -/
def State.assayFailed (s : State) (t r : Nat) : State :=
  let s := s.assayNote t r
  let c := assayClass t
  if c ≤ 2 then s.deviceSafe 4
  else if c = 3 ∨ c = 4 ∨ c = 8 then s.deviceSafe 5
  else
    let s := s.ventAssay t r
    if c = 5 then forN 4 s fun i s => s.withdrawChannel ((t - 0x80) / 8) ((t - 0x80) % 8 * 4 + i) 3
    else if c = 7 then
      let (n, i) := laneOf t
      s.laneDown n (if s.isEth n then 8 else i) true true
    else s

/-- A slice ends with a result: 0 passed, or the code of R395. -/
def execAssayResult (target result : Nat) (s : State) : Host.Outcome State Fault Refusal :=
  if s.health.slice = some target ∧ s.safeDue then
    let s := s.sliceEnd
    .next (if result = 0 then s else s.assayFailed target result)
  else .next s

/-- A PLL loses lock; in READY the device enters SAFE (R401). -/
def execPllUnlock (die dom : Nat) (s : State) : Host.Outcome State Fault Refusal :=
  if 1 ≤ s.dev.phase then
    let t := (s.die die).therm
    let s := s.modDie die fun x => { x with
      therm := { t with locked := if bit t.locked dom then t.locked - 2 ^ dom else t.locked } }
    let s := s.evErr .clk die 1 1 0xF dom 0
    .next (if s.safeDue then s.deviceSafe 4 else s)
  else .next s

end Sys2Proof.Machine
end

