-- ==== Sys2Proof/Machine/Debug.lean ====
section
/-! DEFINITION. Burning OTP (R381), debug access (R383 to R386), run control and the state of a halted
sequencer (R154, R389). -/
namespace Sys2Proof.Machine

/-! ## Scopes (Table 17.7) -/

/-- An initiator has a debug scope; JTAG has every one (R383). -/
def State.hasScope (s : State) (init b : Nat) : Bool := init == 12 || (s.dbgOpen && bit s.dbg.granted b)

/-- A refused access of the DBG page. -/
def State.dbgRefuse (s : State) : State := s.evSet .dbg 0 4

/-! ## OTP burns -/

/-- Why a burn is refused, 0 where it may start. -/
def State.burnRefusal (s : State) (init d a : Nat) : Nat :=
  let lock := s.west.otp.fieldLock
  if s.dev.state ≠ .ready then 6
  else if a ≠ 0x3FE ∧ tget 0 (s.die d).otp.words a ≠ 0 then 1
  else if lock ∧ a < 0xC0 then 2
  else if lock ∧ 0x2D0 ≤ a ∧ a < 0x3F4 ∧ !s.hasScope init 2 then 5
  else if !(s.die d).otp.vppOk then 3
  else 0

/-- A burn is refused or has failed. -/
def State.burnFail (s : State) (d code : Nat) : State := (s.setPg .otp d 0x58 code).evErr .otp d 2 code 0xF 0 0

/-- A write of PROG_CMD: only the key starts a burn, and a busy array discards it. -/
def State.progStart (s : State) (init d : Nat) (v : Word) : State :=
  if v ≠ 0x0B070001#32 ∨ (s.die d).otp.burn.isSome then s
  else
    let a := s.pg .otp d 0x4C % 1024
    match s.burnRefusal init d a with
    | 0 => s.modDie d fun x => { x with otp := { x.otp with burn := some (a, w32 (s.pg .otp d 0x50)) } }
    | c => s.burnFail d c

/-- A burn ends. Verified, every bit asked for reads 1; otherwise an unstated part of them does. -/
def execOtpBurnDone (die : Nat) (verified : Bool) (s : State) : Host.Outcome State Fault Refusal :=
  match (s.die die).otp.burn with
  | some (a, v) =>
    if verified then
      let s := s.modDie die fun x => { x with otp := { x.otp with
        words := tput 0 x.otp.words a (tget 0 x.otp.words a ||| v), burn := none } }
      .next (s.evSet .otp die 1)
    else
      let (n, s) := s.draw
      let s := s.modDie die fun x => { x with otp := x.otp.breakOff (Config.freeWord n) }
      .next (s.burnFail die 4)
  | none => .next s

/-- RD_DATA: the word at RD_ADDR; key slots and the password digest read 0 (R386). -/
def State.otpRead (s : State) (d : Nat) : Word :=
  let a := s.pg .otp d 0x44 % 1024
  let digest := 0x2D0 ≤ a ∧ a < 0x3D0 ∧ 8 ≤ (a - 0x2D0) % 64 ∧ (a - 0x2D0) % 64 < 16
  if digest ∨ (0x3D0 ≤ a ∧ a < 0x3F4) then 0 else tget 0 (s.die d).otp.words a

/-! ## Debug lock -/

/-- PWD_DIGEST of the active record of the West die. -/
def State.pwdDigest (s : State) : List Byte :=
  if s.west.otp.cfgGen = 7 then List.replicate 32 0
  else fuseBytes s.west.otp.sensed (cfgAt s.west.otp.cfgGen + 32) 32
def State.serial (s : State) (d : Nat) : List Byte := fuseBytes (s.die d).otp.sensed 0 8
/-- Words as bytes. -/
def tblBytes (t : Tbl Word) (n : Nat) : List Byte :=
  (List.range n).flatMap fun i => leBytes 4 (tget 0 t i).toNat

/-- CHALLENGE shows a fresh nonce; refused without a key slot (R380). -/
def State.dbgChallenge (s : State) : State :=
  if s.west.otp.keyGen = 7 then s.dbgRefuse
  else
    let (n, s) := s.draw
    s.setDbg { s.dbg with nonce := Config.nonce n, nonceValid := true }

/-- The reply that VERIFY_KEY expects (R384). -/
def State.dbgReply (s : State) : List Byte :=
  let key := fuseBytes s.west.otp.sensed (keyAt s.west.otp.keyGen) 32
  let msg := leBytes 16 s.dbg.nonce.toNat ++ s.serial 0 ++ leBytes 4 (s.pg .dbg 0 0x44)
  (hmac256 key msg).take 16

/-- VERIFY_KEY: the verdict is owed from now on. Without a key slot it is refused (R380), and fails as one without a valid
nonce (R386). -/
def State.dbgVerifyKey (s : State) : State :=
  if s.dbg.failCnt = 8 ∨ s.dbg.verdict.isSome then s
  else
    let s := if s.west.otp.keyGen = 7 then s.dbgRefuse else s
    let ok := s.dbg.nonceValid && s.west.otp.keyGen != 7 && tblBytes s.dbg.resp 4 == s.dbgReply
    s.setDbg { s.dbg with nonceValid := false, verdict := some (ok, s.pg .dbg 0 0x44 % 8) }

/-- VERIFY_PWD (R385). -/
def State.dbgVerifyPwd (s : State) : State :=
  if s.dbg.failCnt = 8 ∨ s.dbg.verdict.isSome then s
  else
    let n := s.pg .dbg 0 0x70
    let dig := s.pwdDigest
    let ok := decide (1 ≤ n ∧ n ≤ 64) && !dig.all (· == 0) && sha256 ((tblBytes s.dbg.pwd 16).take n) == dig
    s.setDbg { s.dbg with pwd := [], verdict := some (ok, s.pg .dbg 0 0x44 % 8) }

/-- CLOSE returns OPEN_AUTH to LOCKED. -/
def State.dbgClose (s : State) : State :=
  if s.dbg.mode = 2 then s.setDbg { s.dbg with mode := 1, granted := 0 } else s

/-- A write of AUTH_CMD. -/
def State.authCmd (s : State) (v : Nat) : State :=
  match v % 16 with
  | 1 => s.dbgChallenge | 2 => s.dbgVerifyKey | 3 => s.dbgVerifyPwd | 4 => s.dbgClose
  | _ => s

/-- The verdict falls (R386). A device that is not field-locked stays OPEN_UNLOCKED (R383). -/
def execAuthVerdict (s : State) : Host.Outcome State Fault Refusal :=
  match s.dbg.verdict with
  | some (true, sc) =>
    let s := s.setDbg { s.dbg with verdict := none }
    let s := if s.dbg.mode = 0 then s else s.setDbg { s.dbg with mode := 2, granted := sc }
    .next (s.evSet .dbg 0 1)
  | some (false, _) =>
    let n := min (s.dbg.failCnt + 1) 8
    let s := (s.setDbg { s.dbg with verdict := none, failCnt := n }).evSet .dbg 0 2
    if n = 8 then
      let s := if s.dbg.mode = 0 then s else s.setDbg { s.dbg with mode := 3, granted := 0 }
      .next (s.evSet .dbg 0 3)
    else .next s
  | none => .next s

/-- A nonce lapses (R384). -/
def execNonceExpiry (s : State) : Host.Outcome State Fault Refusal :=
  .next (s.setDbg { s.dbg with nonceValid := false })

/-! ## Run control -/

/-- Sequencer that TGT names. -/
def State.dbgTarget (s : State) : Option Nat :=
  let t := s.pg .dbg 0 0xC0
  let i := bits t 7 0
  if bit t 8 then (if i < 84 then some (256 + i) else none) else if i < 96 then some i else none

def State.halted (s : State) (u : Nat) : Bool := (s.unit u).run == .halted

/-- Effect of the word of a row at issue. -/
def rowFx (row : Nat) : Nat → Nat → State → Issue :=
  if 0x200 ≤ row then tndFx
  else
    match row with
    | 0x01 => onSeq aluFx | 0x02 => onSeq fpuFx | 0x03 => onSeq cmpFx | 0x04 => onSeq plogFx
    | 0x05 => onSeq selFx | 0x08 => onSeq addiFx | 0x09 => onSeq andiFx | 0x0A => onSeq oriFx
    | 0x0B => onSeq xoriFx | 0x0C => onSeq shiFx | 0x0D => onSeq luiFx | 0x0E => onSeq cmpiFx
    | 0x10 => ldwFx | 0x11 => stwFx | 0x14 => onSeq brFx | 0x15 => onSeq brpFx | 0x16 => onSeq jalFx
    | 0x17 => onSeq jrFx | 0x18 => onSeq dbnzFx | 0x20 => arrFx | 0x21 => drnFx | 0x28 => rpushFx
    | 0x2C => waitFx | 0x2D => sigFx | 0x2E => pollFx | 0x2F => barFx | 0x100 => sysNopFx
    | 0x101 => haltFx | 0x103 => brkFx | 0x104 => rdsrFx | 0x105 => waiteFx
    | _ => trapFx

/-- One instruction of a halted sequencer; it halts again once what it issued has completed (DEDUCED, log 29). A PC
outside the program raises BRANCH (R128); the device's own programs show nothing of a step. -/
def State.dbgStep (s : State) (u : Nat) : State :=
  let x := s.unit u
  match x.imem[x.seq.pc.toNat]? with
  | some w =>
    let s := (s.setUnit u { x with run := .running }).issueWord u (rowFx (wordRow w.toNat))
    let y := s.unit u
    if y.run = .running ∧ y.arrs = [] ∧ y.tnds = [] then s.setUnit u { y with run := .halted, haltReq := false }
    else if y.run = .running ∨ y.run = .barrier then s.setUnit u { y with haltReq := true }
    else s
  | none => if x.imem.isEmpty then s else s.seqExc u exBRANCH 0

/-- A halted sequencer goes on: a program at its PC, or the device's own (R128, R154). -/
def State.dbgResume (s : State) (u : Nat) : State :=
  let x := s.unit u
  if x.imem.isEmpty then s.setUnit u { x with run := .idle, haltReq := false }
  else
    let s := s.setUnit u { x with run := .running, haltReq := false }
    if x.imem.length ≤ x.seq.pc.toNat then s.seqExc u exBRANCH 0 else s

/-- A write of RUN_CTRL (R154, R389). -/
def State.runCtrl (s : State) (init v : Nat) : State :=
  if !s.hasScope init 1 then s.dbgRefuse
  else
    match s.dbgTarget with
    | some u =>
      let x := s.unit u
      match v % 8 with
      | 1 => if x.run = .running ∨ x.run = .barrier ∨ (x.run = .idle ∧ s.ownProgram u) then s.setUnit u { x with haltReq := true } else s
      | 2 => if x.run = .halted then s.dbgStep u else s
      | 3 => if x.run = .halted then s.dbgResume u else s
      | 4 => s.setUnit u { x with brk := some (s.pg .dbg 0 0xC8) }
      | _ => s
    | none => s

/-! ## State of a halted sequencer (Table 17.13) -/

/-- SEQ_DATA of a unit. -/
def SeqUnit.selData (x : SeqUnit) (n : Nat) : Word :=
  if n < 32 then x.seq.S n
  else if n < 40 then w32 (b2n (x.seq.P (n - 32)))
  else if n = 40 then x.seq.pc
  else if n = 41 then x.seq.nstat
  else if n < 58 then w32 (x.token (n - 42))
  else 0

/-- Bits of a register of a halted sequencer, by SEQ_SEL or ACC register. -/
def selWidth (off n : Nat) : Nat :=
  if off = 0xE0 then 1
  else if off ≠ 0xD0 then 32
  else if n = 0 then 0 else if n < 32 ∨ n = 40 then 32 else if n < 40 then (if n = 32 then 0 else 1)
  else if n = 41 then 4 else if n < 58 then 16 else 0

/-- Running sum and K_RUN of an output row that no sum has filled: free values (R129; log 6). -/
def SeqUnit.bareWord (x : SeqUnit) (a : Nat) : Word :=
  w32 (leNat ((List.range 4).map fun i => x.fill (2 ^ 32 + 4 * a + i)))

/-- A read of SEQ_DATA or of an ACC register: the word, or a refusal. What the device's own programs hold is open
(DESIGN CHOICE, log 54). -/
def State.dbgRead (s : State) (init off : Nat) : State × Word :=
  match s.dbgTarget with
  | some u =>
    if s.hasScope init 0 ∧ s.halted u then
      let x := s.unit u
      if x.imem.isEmpty then
        (s.draw.2, w32 ((Config.freeWord s.draw.1).toNat % 2 ^ selWidth off (s.pg .dbg 0 0xCC)))
      else
      let a := s.pg .dbg 0 0xD4
      let core := if isTile u then 0 else bits (s.pg .dbg 0 0xC0) 13 9
      let r := x.rows.find? fun e => e.1 == core * 2 ^ 16 + bits a 10 10 * 2 ^ 12 + bits a 9 0
      (s, match off, r with
        | 0xD0, _ => x.selData (s.pg .dbg 0 0xCC)
        | 0xD8, some e => nth 0 e.2.sums (bits a 18 11)
        | 0xDC, some e => w32 e.2.krun
        | 0xE0, some _ => 1
        | 0xD8, none => x.bareWord (2 * (core * 2 ^ 19 + a % 2 ^ 19))
        | 0xDC, none => x.bareWord (2 * (core * 2 ^ 19 + a % 2 ^ 11) + 1)
        | _, _ => 0)
    else (s.dbgRefuse, 0)
  | none => (s.dbgRefuse, 0)

/-- A write of SEQ_DATA. -/
def State.dbgWrite (s : State) (init : Nat) (v : Word) : State :=
  match s.dbgTarget with
  | some u =>
    if s.hasScope init 1 ∧ s.halted u then
      let x := s.unit u
      let n := s.pg .dbg 0 0xCC
      if n < 32 then s.setUnit u { x with seq := x.seq.setS n v }
      else if n < 40 then s.setUnit u { x with seq := x.seq.setP (n - 32) (v.getLsbD 0) }
      else if n = 40 then s.setUnit u { x with seq := { x.seq with pc := v } }
      else s
    else s.dbgRefuse
  | none => s.dbgRefuse

end Sys2Proof.Machine
end

