-- ==== Sys2Proof/Machine/Views.lean ====
section
/-! DEFINITION. What register pages read: owners and locks (R31, R33), gated domains (R21, R42), header
fields, and the registers that show state held elsewhere (the register tables of chapters 1 to 18). -/
namespace Sys2Proof.Machine

/-! ## Ownership and clocks -/

/-- BLK_OWNER of a page that some partitions share. -/
def shareOwner (ps : List Nat) : Nat :=
  match ps with
  | [] => 0xFF
  | [p] => p
  | _ => 0xFE

/-- Partitions with a slice on a Sprue, and with buffers of a Ladle, by their configurations (R181, R278). -/
def State.sliceParts (s : State) (d : Nat) : List Nat :=
  (List.range 8).filter fun p => (s.part p).st != .empty && decide (0 < (s.part p).sprueSegs d)
def State.bufParts (s : State) (d : Nat) : List Nat :=
  (List.range 8).filter fun p => (s.part p).st != .empty && decide (0 < (s.part p).ladleBufs d)

/-- BLK_OWNER (R104, R126, R181, R278, R328, R369). -/
def State.pageOwner (s : State) (k : PageKind) (i : Nat) : Nat :=
  match k with
  | .part => if (s.part i).st = .empty then 0xFF else i
  | .mould => s.ownerOf i
  | .cruc => s.ownerOf (256 + i)
  | .sprue => shareOwner (s.sliceParts i)
  | .ladle => shareOwner (s.bufParts i)
  | .port => shareOwner (s.portParts i)
  | _ => 0xFF

/-- BLK_CTRL.OWNER_LOCK; 0 on PORT pages (R369). -/
def State.ownerLock (s : State) (k : PageKind) (i : Nat) : Bool := k != .port && s.pageOwner k i != 0xFF

/-- A partition owns a unit of a kind on a die. -/
def State.dieUsed (s : State) (tile : Bool) (d : Nat) : Bool :=
  (List.range 8).any fun p => (s.part p).st != .empty &&
    (s.partUnits p).any fun u => isTile u == tile && dieOfUnit u == d

/-- The page's domain has no clock (R21). R21 speaks of READY; the array and Crucible clocks follow ownership in every
other device state too, and the domains that R21 never gates run there (DESIGN CHOICE, log 50). -/
def State.gated (s : State) (k : PageKind) (i : Nat) : Bool :=
  match k with
  | .mould => !s.dieUsed false (dieOfUnit i)
  | .cruc => !s.dieUsed true (dieOfUnit (256 + i))
  | .fum => !(s.stack (i / 64)).trained
  | _ => false

/-- Bits of a list of flags. -/
def flagsWord (l : List Bool) : Nat := (l.zipIdx.map fun e => b2n e.1 * 2 ^ e.2).foldl (· + ·) 0

/-- A port's link domain has no clock: the port is untrained or down. -/
def Port.unclocked (x : Port) : Bool := x.st == .down || (x.st == .training && !x.trained)

/-- CLK.GATED (Table 18.10). -/
def State.gatedWord (s : State) (d : Nat) : Nat :=
  flagsWord ([!s.dieUsed false d, !s.dieUsed true d, false, false] ++
    ((List.range 6).map fun i => !(s.stack (6 * d + i)).trained) ++
    ((List.range 8).map fun i => (s.port (8 * d + i)).unclocked) ++ [false])

/-! ## Header (Tables 2.4, 2.5) -/

/-- BLK_CAP. -/
def blkCap (k : PageKind) (i : Nat) : Nat :=
  match k with
  | .d2d => 0x900 | .mould => 0xF | .sprue => 0x200F | .ladle => 0x30310F | .part => 8 | .host => 0x20329
  | .port => 0x319F | .stack => 0x208600
  | .cruc => 0x1F + (if i = 40 ∨ i = 41 ∨ i = 82 ∨ i = 83 then 2 ^ 31 else 0)
  | .fum => 0x7F + (if i % 64 = 32 then 2 ^ 31 else 0)
  | _ => 0

/-- BLK_EVT bits that exist. -/
def evtMask : PageKind → Nat
  | .glb => 1 | .mgt => 0xF | .host => 7 | .otp => 7 | .dbg => 0x1F | .pyro => 0x3001F | .clk => 0xF
  | .d2d => 0xF | .part => 0x3F | .mould => 0x7FF | .cruc => 0x7F | .sprue => 0x1F | .ladle => 0xFF
  | .port => 0x1FF | .stack => 0x1FF | .fum => 0x1F

/-- Units that have failed. -/
def Maps.failed (m : Maps) (u : FailUnit) : Bool := m.otpFail.contains u || m.runFail.contains u

/-- Command of a unit's owner that runs on it, or is quenched there, and was started there last. -/
def State.cmdOn (s : State) (u : Nat) (q : CmdPhase → Bool) : Option Cmd :=
  (s.part (s.ownerOf u)).cmds.find? fun k => q k.phase && k.units.contains u && k.cid == (s.unit u).ctx.cid
def CmdPhase.onUnit (x : CmdPhase) : Bool := x == .running || x == .saving || x == .restoring

/-- STATE of a cluster or tile (Tables 5.7, 6.8): 2 in a WAIT whose token is 0; quenched, with nothing running, while the
state of any command of its owner stands saved to be restored there (DESIGN CHOICE, log 56). -/
def State.unitState (s : State) (u : Nat) : Nat :=
  let x := s.unit u
  if x.run = .halted then 5
  else if (s.cmdOn u CmdPhase.onUnit).isSome then
    let w := ((x.imem[x.seq.pc.toNat]?).getD 0).toNat
    if x.run = .running ∧ !isTile u ∧ opOf w = 0x2C ∧ x.token (w % 16) = 0 then 2 else 1
  else if (s.part (s.ownerOf u)).cmds.any fun k => k.phase == .quenched && k.units.contains u then 4
  else 0

/-- Logical cores in service of a physical cluster. -/
def State.coresIn (s : State) (c : Nat) : Nat :=
  let m := s.maps
  if !m.clusters.contains c ∨ m.clHeld.contains c then 0
  else
    let stand := tget 0x3F m.coreStand c
    32 - count (fun k => m.failed (.core c k) && !(k == stand && !m.failed (.core c 32))) (List.range 32)

/-- Channel whose index a Fumarole unit holds, 0x3F for none. -/
def State.fumIndex (s : State) (n u : Nat) : Nat :=
  let sub := tget 0x3F s.maps.fumStand n
  let c := if u = 32 then sub else if sub = u then 0x3F else u
  if c = 0x3F ∨ s.maps.chGone.contains (n * 32 + c) ∨ s.maps.fumHeld.contains (n * 64 + u) then 0x3F else c

/-- Channel that a Fumarole unit serves, 0x3F for none: out of service it serves none (R235). -/
def State.fumServes (s : State) (n u : Nat) : Nat :=
  if s.stk.fumDown.contains (n * 64 + u) then 0x3F else s.fumIndex n u

/-- Partition whose started command the unit of a channel shows: the one served in the present slot, where it has one
there, otherwise the lowest that has (DEDUCED, log 18). -/
def State.fumUser (s : State) (n c : Nat) : Option Nat :=
  ((s.fumServed n c) :: List.range 8).find? fun p => decide (p < 8) && (s.fumOn n p c).isSome
/-- CUR_PART of a unit; one that serves no channel serves no partition. -/
def State.fumCur (s : State) (n u : Nat) : Nat :=
  if s.fumServes n u = 0x3F then 0xF else s.fumServed n (s.fumServes n u)
/-- Physical unit 32 of a stack is a spare in good order that stands by. -/
def State.fumSpare (s : State) (n u : Nat) : Bool :=
  u == 32 && tget 0x3F s.maps.fumStand n == 0x3F && !s.stk.fumDown.contains (n * 64 + 32) &&
    !s.maps.fumHeld.contains (n * 64 + 32) && !s.maps.failed (.fum n 32)

/-- STATE of a Fumarole unit (Table 10.12). -/
def State.fumState (s : State) (n u : Nat) : Nat :=
  let c := s.fumServes n u
  if s.fumSpare n u then 0
  else if c = 0x3F ∨ !s.fumOk n c then 4
  else
    match s.fumUser n c with
    | some p =>
      match s.fumOn n p c with
      | some k =>
        if k.opcode = 0x380 ∧ s.updFate p k = none then 2
        else if s.fumServed n c = p then 1 else 3
      | none => 0
    | none => 0

/-- Index of a unit in a map, 0xFF for none. -/
def idxIn (l : List Nat) (x : Nat) : Nat := if l.contains x then l.idxOf x else 0xFF

/-- Home die of a row block of a Sprue command; in top-k mode that of its records, once they are there (R183). -/
def State.cmdHome (s : State) (p : Nat) (k : Cmd) (b : Nat) : Option Nat :=
  match (if k.opcode = 0x300 ∧ s.topk p then s.blk? true p (lMb k.msg) b else none) with
  | some r => some r.die
  | none => s.homeOf p (bits (fld k.msg 52 1) 2 1) b
/-- Sprue and Ladle: partitions with work homed on a die (Tables 9.10, 12.5). -/
def State.sprueActive (s : State) (d : Nat) : Nat :=
  flagsWord ((List.range 8).map fun p => (s.part p).cmds.any fun k =>
    (k.opcode == 0x300 || k.opcode == 0x301) && k.phase == .running &&
      (rowBlocks (lFirst k.msg) (lRows k.msg)).any fun b => s.cmdHome p k b == some d)
def State.ladleActive (s : State) (d : Nat) : Nat :=
  flagsWord ((List.range 8).map fun p => (s.part p).ladle.colls.any fun c => c.home == d)

/-- LSTATE codes (Table 16.7). -/
def LState.code : LState → Nat
  | .down => 0 | .training => 1 | .up => 2 | .retraining => 3 | .handover => 4

/-- BLK_STAT. -/
def State.blkStat (s : State) (k : PageKind) (i : Nat) : Nat :=
  let m := s.maps
  let ready := b2n (bit (s.pg k i 0x0C) 0)
  let r (withdrawn sub : Bool) (logical high : Nat) : Nat :=
    ready + 2 * b2n withdrawn + 4 * b2n sub + logical * 2 ^ 8 + high * 2 ^ 16
  match k with
  | .mould => r (!m.clusters.contains i) false (idxIn m.clusters i) (s.unitState i + s.coresIn i * 8)
  | .cruc =>
    let spare := i == 40 || i == 41 || i == 82 || i == 83
    r (!m.tiles.contains i && (!spare || m.runFail.contains (.tile i))) (tget 0x7F m.tileStand i != 0x7F) (idxIn m.tiles i) (s.unitState (256 + i))
  | .fum =>
    let c := s.fumIndex (i / 64) (i % 64)
    r (c == 0x3F && (i % 64 != 32 || m.fumHeld.contains i || tget 0x3F m.fumStand (i / 64) != 0x3F)) (i % 64 == 32 && c != 0x3F) (if c = 0x3F then 0xFF else c)
      (s.fumState (i / 64) (i % 64) + s.fumCur (i / 64) (i % 64) * 8)
  | .stack => r false false 0xFF (b2n (s.stack i).trained + (s.stack i).level * 2)
  | .d2d => r false false 0xFF (b2n (s.die i).line.trained + 2 * b2n (!(s.die i).line.failed.isEmpty))
  | .sprue => r false false 0xFF (s.sprueActive i)
  | .ladle => r false false 0xFF (s.ladleActive i)
  | .host => r false false 0xFF (flagsWord ((List.range 9).map fun n => (s.ring n).stopped))
  | .port => r false false 0xFF (s.port i).st.code
  | _ => r false false 0xFF 0

/-- Header registers. -/
def State.hdrRead (s : State) (k : PageKind) (i off : Nat) : Nat :=
  match off with
  | 0x00 => typeCode k * 2 ^ 16 + blkInstance k i
  | 0x04 => 0x10000
  | 0x08 => blkCap k i
  | 0x0C => s.pg k i 0x0C + 4 * b2n (s.ownerLock k i)
  | 0x10 => s.blkStat k i
  | 0x1C => 0
  | 0x24 => s.pageOwner k i
  | _ => s.pg k i off

/-! ## Views of block registers -/

/-- Half of a 64-bit value. -/
def half (hi : Bool) (v : Nat) : Nat := if hi then v / 2 ^ 32 % 2 ^ 32 else v % 2 ^ 32

/-- Offset within a per-partition group of a page, and its partition (Tables 9.11, 12.7). -/
def groupOf (off : Nat) : Option (Nat × Nat) :=
  if 0x40 ≤ off ∧ off < 0x140 then some ((off - 0x40) / 0x20, (off - 0x40) % 0x20) else none

def DevState.code : DevState → Nat | .reset => 0 | .assay => 1 | .ready => 2 | .safe => 3

def State.glbView (s : State) (off : Nat) : Nat :=
  match off with
  | 0x40 => s.bus.fences % 2 ^ 32
  | 0x44 => half false s.now
  | 0x48 => half true s.now
  | 0x4C => s.dev.state.code
  | _ => 0

def State.mgtView (s : State) (d off : Nat) : Nat :=
  let a := (s.die d).auth
  match off with
  | 0x40 => if d = 0 then s.pg .mgt 0 0x40 else 0
  | 0x44 => flagsWord [a.primarySel, a.rolePrimary, a.claim]
  | 0x48 => half false a.own.toNat
  | 0x4C => half true a.own.toNat
  | 0x50 => half false a.peer.toNat
  | 0x54 => half true a.peer.toNat
  | 0x58 => a.run + a.total * 4
  | 0x5C => if a.inSafe then a.cause + 8 * b2n a.fromPeer else 0
  | 0x64 => Config.fwVersion.toNat
  | _ => 0

def State.otpView (s : State) (d off : Nat) : Nat :=
  let o := (s.die d).otp
  match off with
  | 0x40 => b2n o.idOk + 2 * b2n o.trimOk + o.repairGen * 2 ^ 2 + o.cfgGen * 2 ^ 5 + o.keyGen * 2 ^ 8 +
      b2n s.west.otp.fieldLock * 2 ^ 11 + b2n o.vppOk * 2 ^ 12 + b2n o.burn.isSome * 2 ^ 13
  | 0x48 => (s.otpRead d).toNat
  | 0x54 => 0
  | 0x5C => fld (s.serial d) 0 4
  | 0x60 => fld (s.serial d) 4 4
  | _ => s.pg .otp d off

def State.dbgView (s : State) (off : Nat) : Nat :=
  let x := s.dbg
  if off = 0x40 then x.mode + x.granted * 4 + b2n x.nonceValid * 32 + b2n (!s.pwdDigest.all (· == 0)) * 64
  else if off = 0x4C then x.failCnt
  else if 0x50 ≤ off ∧ off < 0x60 then fld (leBytes 16 x.nonce.toNat) (off - 0x50) 4
  else s.pg .dbg 0 off

/-- Format-health selection of an initiator: partitions see their own counts (R67). -/
def State.fhSel (s : State) (init d : Nat) : Nat :=
  let v := s.pg .pyro d 0x800
  if 2 ≤ init ∧ init < 10 then setBits v 2 0 (init - 2) else v

def State.fhCount (s : State) (init d kind : Nat) : Nat :=
  let v := s.fhSel init d
  if bits v 6 4 < 5 ∧ bits v 12 8 < 16 then tget 0 s.health.fh (fhKey d (bits v 2 0) (bits v 6 4) (bits v 12 8) kind)
  else 0

def State.pyroView (s : State) (init d off : Nat) : Nat :=
  let t := (s.die d).therm
  let h := s.health
  let west (v : Nat) : Nat := if d = 0 then v else 0
  if off = 0x44 then (let n := s.pg .pyro d 0x40; if n < 68 then t.sensor n else 0)
  else if off = 0x48 then t.junction % 2 ^ 10 + t.stackHot % 256 * 2 ^ 16
  else if off = 0x4C then (if d = 0 then s.packagePower else t.average) / 1000 % 2 ^ 16
  else if off = 0x50 then t.st + t.ceiling * 2 ^ 16
  else if off = 0x54 then h.next + h.rotations * 2 ^ 9
  else if off = 0x58 then
    let (tg, c, r) := tget (0, 0, 0) h.fail d
    if c = 0 then 0 else tg + c * 2 ^ 9 + r * 2 ^ 13 + 2 ^ 31
  else if off = 0x5C then tget 0 h.fails d
  else if off = 0x60 then west (s.pg .pyro 0 0x60)
  else if 0x64 ≤ off ∧ off ≤ 0x70 then
    west (nth 0 (nth [] h.log (s.pg .pyro 0 0x60)) ((off - 0x64) / 4)).toNat
  else if off = 0x74 then west (h.log.length + h.ovf * 2 ^ 8)
  else if off = 0x800 then s.fhSel init d
  else if 0x804 ≤ off ∧ off ≤ 0x818 then half ((off - 0x804) / 4 % 2 == 1) (s.fhCount init d ((off - 0x804) / 8))
  else if off = 0x860 then
    if 2 ≤ init ∧ init < 10 then s.pg .pyro d 0x860 &&& 2 ^ (init - 2) else s.pg .pyro d 0x860
  else s.pg .pyro d off

def State.clkView (s : State) (d off : Nat) : Nat :=
  match off with
  | 0x40 => (s.die d).therm.locked
  | 0x48 => (s.die d).therm.freq
  | 0x4C => s.gatedWord d
  | _ => s.pg .clk d off

/-- GRP_INFO: failed wires of the selected group (Table 1.9). -/
def State.d2dView (s : State) (d off : Nat) : Nat :=
  if off = 0x44 then
    let v := s.pg .d2d d 0x40
    let ws := ((s.die d).line.failed.filter fun f => f / 256 == bits v 8 8 * 256 + bits v 7 0).map (· % 256)
    if ws.isEmpty then 0x7F * 2 ^ 8 + 0x7F * 2 ^ 16
    else ws.length + ws.foldl min 127 * 2 ^ 8 + ws.foldl max 0 * 2 ^ 16
  else s.pg .d2d d off

/-- Word k of a mask of a record. -/
def pairWord (lo hi : Nat) : Nat := lo + hi * 2 ^ 16

def PState.code : PState → Nat
  | .empty => 0 | .configured => 1 | .loaded => 2 | .running => 3 | .paused => 4 | .draining => 5 | .faulted => 6

def State.partView (s : State) (p off : Nat) : Nat :=
  let q := s.part p
  let on (f : Cmd → Bool) : Nat := flagsWord ((List.range 8).map fun i => q.cmds.any fun k => k.queue == i && f k)
  if off = 0x40 then
    q.st.code + b2n q.serving.isSome * 2 ^ 3 + b2n q.strict * 2 ^ 4 + b2n q.trUse * 2 ^ 5 +
      b2n (q.quenchEn && !q.save.isEmpty) * 2 ^ 6 + on Cmd.holdsQueue * 2 ^ 8 +
      on (fun k => k.phase == .quenched) * 2 ^ 16
  else if 0x50 ≤ off ∧ off ≤ 0x58 then fld q.cfg (off - 0x50) 4
  else if off = 0x5C ∨ off = 0x60 then fld q.cfg (16 + (off - 0x5C)) 4
  else if off = 0x64 then fld q.cfg 24 2
  else if off = 0x68 then q.slots
  else if off = 0x6C then pairWord (q.sprueSegs 0) (q.sprueSegs 1)
  else if off = 0x70 then q.ladleBufs 0 + q.ladleBufs 1 * 2 ^ 8
  else if off = 0x74 ∨ off = 0x78 then half (off == 0x78) q.step.last
  else if off = 0x7C then flagsWord [q.step.opened.isSome, q.step.sealing.isSome, q.step.skip, q.step.broken]
  else if off = 0x80 then q.step.steps % 2 ^ 32
  else if off = 0x84 then q.step.skips % 2 ^ 32
  else if off = 0x88 then q.faultSrc.toNat
  else if off = 0x8C then q.faultInfo.toNat
  else if off = 0x90 ∨ off = 0x94 then half (off == 0x94) q.faultTime
  else if off = 0xA0 then q.save.length
  else if 0xC0 ≤ off ∧ off ≤ 0xD4 then
    let k := (off - 0xC0) / 4
    pairWord (q.stkShare (2 * k)) (q.stkShare (2 * k + 1))
  else if off = 0xD8 ∨ off = 0xDC then
    let k := (off - 0xD8) / 4
    pairWord (q.nocShare (2 * k)) (q.nocShare (2 * k + 1))
  else if 0xE0 ≤ off ∧ off ≤ 0xFC then
    let k := (off - 0xE0) / 4
    pairWord (q.portShare (2 * k)) (q.portShare (2 * k + 1))
  else s.pg .part p off

/-- CMD_TAG of a cluster or tile, 0 when idle. -/
def State.unitTag (s : State) (u : Nat) : Nat :=
  match s.cmdOn u CmdPhase.onUnit with | some k => k.tag.toNat | none => 0
/-- GRID_POS, kept from the last command. -/
def State.gridPos (s : State) (u : Nat) : Nat :=
  let c := (s.unit u).ctx
  c.alpha + c.beta * 2 ^ 8 + c.gm * 2 ^ 16 + c.gn * 2 ^ 24

/-- KiB of Runner reads outstanding: a longer read is in flight 32 KiB at a time (R120). -/
def SeqUnit.inflight (x : SeqUnit) : Nat := min 32 (cdiv x.readsOut 1024)

def State.mouldView (s : State) (c off : Nat) : Nat :=
  let m := s.maps
  let x := s.unit c
  let bad (l : List FailUnit) : Nat := flagsWord ((List.range 32).map fun k => l.contains (.core c k))
  if off = 0x40 then
    tget 0x3F m.coreStand c + b2n (m.failed (.core c 32)) * 2 ^ 6 + tget 0 m.seqUse c * 2 ^ 8 +
      b2n (m.failed (.seq c 0)) * 2 ^ 9 + b2n (m.failed (.seq c 1)) * 2 ^ 10 + b2n (m.clHeld.contains c) * 2 ^ 11
  else if off = 0x44 then bad m.otpFail
  else if off = 0x48 then bad m.runFail
  else if off = 0x4C then s.unitTag c
  else if off = 0x54 then s.gridPos c
  else if off = 0x58 then x.seq.nstat.toNat
  else if off = 0x60 then x.queue.length + x.inflight * 2 ^ 8
  else if off = 0x64 then if (s.cmdOn c CmdPhase.onUnit).isSome then (x.arrs.map (·.mask)).foldl (· ||| ·) 0 else 0
  else if 0x68 ≤ off ∧ off ≤ 0x84 then
    let n := (off - 0x68) / 4
    pairWord (x.token (2 * n)) (x.token (2 * n + 1))
  else s.pg .mould c off

def State.crucView (s : State) (t off : Nat) : Nat :=
  let m := s.maps
  match off with
  | 0x40 => tget 0x7F m.tileStand t + b2n (m.otpFail.contains (.tile t)) * 2 ^ 8 +
      b2n (m.runFail.contains (.tile t)) * 2 ^ 9 + b2n (m.tileHeld.contains t) * 2 ^ 10
  | 0x44 => s.unitTag (256 + t)
  | 0x4C => s.gridPos (256 + t)
  | 0x50 => (s.unit (256 + t)).seq.nstat.toNat
  | _ => s.pg .cruc t off

/-- PCFGp and TRECp of the East die show the West values of MODE, K and T_REC (R205). -/
def State.sprueView (s : State) (d off : Nat) : Nat :=
  match groupOf off with
  | some (p, 0x00) => s.sliceBase p d + s.sliceCount p d * 2 ^ 16
  | some (p, 0x04) => setBits (s.pcfg p d) 13 0 (s.pcfg p 0)
  | some (p, 0x08) => (s.trec p).toNat
  | some (p, 0x0C) => s.doneMb p
  | some (p, 0x10) =>
    let bs := s.sprue.blks.filter fun r => r.part == p && r.die == d
    count RowBlk.isOpen bs + ((bs.map fun r => r.parts.length).foldl (· + ·) 0) * 2 ^ 16
  | some (p, 0x14) =>
    ((s.sprue.blks.filter fun r => r.part == p && r.die == d && r.teacherSide).map fun r =>
      r.recs.length).foldl (· + ·) 0
  | _ => if off = 0x140 then ((List.range 8).map fun p => s.intakeOcc p d).foldl (· + ·) 0 else s.pg .sprue d off

def State.ladleView (s : State) (d off : Nat) : Nat :=
  match groupOf off with
  | some (p, o) =>
    let l := (s.part p).ladle
    match o with
    | 0x00 => l.epoch
    | 0x04 => l.members.length % 2 ^ 15 + b2n (s.standby p) * 2 ^ 15 +
        (if s.standby p then 0 else ((s.myRank p).getD 0) * 2 ^ 16)
    | 0x08 => if l.epoch = 0 then 0 else l.ver + (if l.ver < 0x30 then 10 else 0) * 2 ^ 8
    | 0x0C => s.ldFlight p true + s.ldFlight p false * 2 ^ 8 + b2n (!l.lost.isEmpty) * 2 ^ 16
    | 0x10 => (s.part p).ladleBufs d + s.ldUsed p d * 2 ^ 8
    | _ => s.pg .ladle d off
  | none => if off = 0x140 then ((List.range 8).map fun p => s.ldUsed p d).foldl (· + ·) 0 else s.pg .ladle d off

def State.portView (s : State) (n off : Nat) : Nat :=
  let x := s.port n
  match off with
  | 0x44 => b2n (x.r224 && x.st != .down && x.st != .training) + x.spared * 2 ^ 4 + x.ver * 2 ^ 8 + x.reason * 2 ^ 16
  | 0x48 => match x.peer with | some (d, q) => d + q * 2 ^ 16 | none => 0xFFFFFFFF
  | 0x4C => s.devId
  | 0x54 => tget 0x1F s.fabric.routes (dieOfPort n * 65536 + s.pg .port n 0x50)
  | _ => s.pg .port n off

/-- Selector of an initiator in a STACK page (R237). -/
def selOf (init : Nat) : Nat := if 2 ≤ init ∧ init < 10 then init - 1 else 0

def State.stackView (s : State) (init n off : Nat) : Nat :=
  let x := s.stack n
  let g := tget 0 x.sel (selOf init)
  if off = 0x40 then g
  else if off = 0x44 then
    if g < granCount then
      let r := s.gran (granKey n g)
      r.owner + b2n r.retired * 2 ^ 4 + g % 32 * 2 ^ 5
    else 0xF + g % 32 * 2 ^ 5
  else if off = 0x48 then b2n x.sealed + 2 * b2n x.sealing + (s.teacherGrans n).length * 2 ^ 16
  else if off = 0x4C then x.level + x.tDram % 256 * 2 ^ 8 + s.openNow n * 2 ^ 16 + x.tBase % 256 * 2 ^ 24
  else if 0x54 ≤ off ∧ off ≤ 0x60 then
    ((List.range 8).map fun j => s.slotOwner n (8 * ((off - 0x54) / 4) + j) * 2 ^ (4 * j)).foldl (· + ·) 0
  else if off = 0x64 then flagsWord ((List.range 32).map fun c => s.maps.chGone.contains (n * 32 + c))
  else if off = 0x68 then s.fumServes n 32
  else if off = 0x6C then ((List.range 32).map (s.retiredOf n)).foldl (· + ·) 0
  else s.pg .stack n off

def State.fumView (s : State) (i off : Nat) : Nat :=
  let n := i / 64
  let u := i % 64
  let c := s.fumServes n u
  match off with
  | 0x40 => c + b2n (s.maps.otpFail.contains (.fum n u)) * 2 ^ 6 + b2n (s.maps.runFail.contains (.fum n u)) * 2 ^ 7 +
      b2n (s.maps.fumHeld.contains i) * 2 ^ 8
  | 0x44 =>
    match s.fumUser n c with
    | some p => (match s.fumOn n p c with | some k => k.tag.toNat | none => 0)
    | none => 0
  | 0x4C => ((List.range 8).map fun p => (s.fumQ n p).length * 2 ^ (4 * p)).foldl (· + ·) 0
  | 0x58 => if c = 0x3F then 0 else s.retiredOf n c
  | _ => s.pg .fum i off

def State.hostView (s : State) (off : Nat) : Nat :=
  if 0x100 ≤ off ∧ off < 0x340 then
    let g := s.ring ((off - 0x100) / 0x40)
    match (off - 0x100) % 0x40 with
    | 0x28 => (if g.neg then g.ver else 0) + b2n g.neg * 2 ^ 8 + b2n g.stopped * 2 ^ 9 + b2n g.cfgErr * 2 ^ 10 +
        b2n (!g.waitq.isEmpty) * 2 ^ 11
    | 0x2C => g.feat % 2 ^ 32
    | 0x30 => g.expSeq
    | _ => s.pg .host 0 off
  else s.pg .host 0 off

/-- Offsets of the _LO registers of a page (R41). -/
def loRegs : PageKind → List Nat
  | .glb => [0x44] | .d2d => [0x48, 0x54, 0x5C, 0x68] | .pyro => [0x804, 0x80C, 0x814]
  | .cruc => [0x58, 0x60, 0x68, 0x70] | .mould => [0x88, 0x90, 0x98, 0xA0] | .sprue => [0x144, 0x14C]
  | .stack => [0x78] | .fum => [0x5C, 0x64, 0x6C]
  | .ladle => [0x144] ++ (List.range 8).map (0x58 + 0x20 * ·)
  | .part => [0x74, 0x90] | .port => [0x58, 0x60, 0x68, 0x70, 0x78, 0xAC, 0xB4] | .mgt => [0x48, 0x50]
  | .otp => [0x5C] | .host => (List.range 9).flatMap fun r => [0x100 + 0x40 * r, 0x108 + 0x40 * r]
  | _ => []

/-- Registers of a page whose value is a count of cycles or of corrected codewords, or of bytes on the lines of the chip:
what they come to while they move is open (DESIGN CHOICE, log 30). -/
def openRegs : PageKind → List Nat
  | .d2d => [0x54, 0x58, 0x5C, 0x60, 0x68, 0x6C]
  | .mould => [0x88, 0x8C, 0x90, 0x94, 0x98, 0x9C]
  | .cruc => [0x58, 0x5C, 0x60, 0x64, 0x68, 0x6C, 0x70, 0x74]
  | .sprue => [0x14C, 0x150]
  | .fum => [0x5C, 0x60, 0x6C, 0x70]
  | .port => [0x58, 0x5C, 0x80, 0x84, 0x88, 0x8C, 0x90, 0x94, 0x98, 0x9C, 0xA0]
  | _ => []

/-- RBYTES and BYTES: counted where the rules say what a command moves, open while one is at work of which they do not
(DESIGN CHOICE, log 30). -/
def byteRegs : PageKind → List Nat
  | .mould => [0xA0, 0xA4]
  | .fum => [0x64, 0x68]
  | _ => []

/-- They move: a command runs on the unit, the Sprue or the stack has work, the link is not down, a command at work
may move data over the trained parting line. -/
def State.pageMoves (s : State) (k : PageKind) (i : Nat) : Bool :=
  match k with
  | .d2d => (s.die i).line.trained &&
      (List.range 9).any fun p => (s.part p).cmds.any fun c => c.phase != .queued && c.phase != .answered
  | .mould => (s.cmdOn i CmdPhase.onUnit).isSome
  | .cruc => (s.cmdOn (256 + i) CmdPhase.onUnit).isSome
  | .sprue => s.sprue.blks.any (fun r => r.die == i) || s.sprue.waiting.any (fun u => u.die == i) ||
      (List.range 8).any fun p => (s.part p).cmds.any fun c =>
        c.phase == .running && (c.opcode == 0x281 || c.opcode == 0x300 || c.opcode == 0x301)
  | .fum => (List.range 8).any fun p => s.fumQ (i / 64) p != [] || s.fumRun (i / 64) p != []
  | .port => (s.port i).st != .down
  | _ => false

/-- A page's open registers come to rest where nothing moves them. -/
def State.settle (s : State) (k : PageKind) (i : Nat) : State :=
  if s.pageMoves k i then s
  else s.setBus { s.bus with moving := s.bus.moving.filter fun n => n % 2 ^ 16 != pageNo k i }

/-- One of them moves by an open amount: a count never falls, and saturates (R41). -/
def State.moveReg (s : State) (k : PageKind) (i off : Nat) : State :=
  if (loRegs k).contains off then
    s.draw.2.draw.2.count64 k i off ((Config.freeWord s.draw.1).toNat + 2 ^ 32 * (Config.freeWord (s.fresh + 1)).toNat)
  else if 4 ≤ off ∧ (loRegs k).contains (off - 4) then s
  else s.draw.2.count32 k i off (Config.freeWord s.draw.1).toNat

/-- The registers of a page that are open at present. -/
def State.openNowAt (s : State) (k : PageKind) (i : Nat) : List Nat :=
  (if s.bus.moving.contains (pageNo k i) then openRegs k else []) ++
    (if s.bus.moving.contains (pageNo k i + 2 ^ 16) then byteRegs k else [])

/-- The open registers of a page take their present values. On a D2D page FLOOR that has moved has set its event (R24). -/
def State.refresh (s : State) (k : PageKind) (i : Nat) : State :=
  if s.openNowAt k i ≠ [] then
    let t := ((s.openNowAt k i).foldl (fun s off => s.moveReg k i off) s).settle k i
    if k = .d2d ∧ (t.pg k i 0x68, t.pg k i 0x6C) ≠ (s.pg k i 0x68, s.pg k i 0x6C) then t.evSet k i 3 else t
  else s

/-- A read of the register finds what has moved: an open register, or the events of a D2D page. -/
def readsOpen (k : PageKind) (off : Nat) : Bool := (openRegs k ++ byteRegs k).contains off || (k == .d2d && off == 0x14)

/-- The page signals the management core of its die: an enabled event bit is 1 (R37). -/
def State.signals (s : State) (k : PageKind) (i : Nat) : Bool :=
  w32 (s.pg k i 0x14) &&& w32 (s.pg k i 0x18) != 0

/-- The present value of a register of a page, for an initiator. -/
def State.view (s : State) (init : Nat) (k : PageKind) (i off : Nat) : Nat :=
  if off < 0x40 then s.hdrRead k i off
  else
    match k with
    | .glb => s.glbView off | .mgt => s.mgtView i off | .host => s.hostView off | .otp => s.otpView i off
    | .dbg => s.dbgView off | .pyro => s.pyroView init i off | .clk => s.clkView i off | .d2d => s.d2dView i off
    | .part => s.partView i off | .mould => s.mouldView i off | .cruc => s.crucView i off
    | .sprue => s.sprueView i off | .ladle => s.ladleView i off | .port => s.portView i off
    | .stack => s.stackView init i off | .fum => s.fumView i off

end Sys2Proof.Machine
end

