-- ==== Sys2Proof/Machine/Registers.lean ====
section
/-! DEFINITION. Register accesses: rights of an initiator (R26, R325, R341), bus errors (R27, R29, R33, R35,
R42), 64-bit registers (R41), and what a write of each register does (chapters 1 to 18). -/
namespace Sys2Proof.Machine

/-! ## Reach and rights -/

/-- The host port works: the device is in READY or SAFE, and no TAP instruction of the West die holds its
pins (R371, R399). -/
def State.hostPort (s : State) : Bool := (s.dev.state == .ready || s.dev.state == .safe) && s.drives 0

/-- BAR0 and the rings are reached through the host port; the management cores and JTAG always. -/
def State.reach (s : State) (init : Nat) : Bool := decide (10 ≤ init) || s.hostPort

/-- A register message of a partition ring may make an access (R67, R205, R237, R278, R325, R328, R369). -/
def State.mayReach (s : State) (init : Nat) (wr : Bool) (a : Nat) : Bool :=
  if init < 2 ∨ 9 < init then true
  else
    let p := init - 2
    let off := a % 0x1000
    match pageOf (a / 0x1000) with
    | none => false
    | some (k, i) =>
      let own := s.pageOwner k i == p
      let mine (wrOffs : List Nat) : Bool :=
        match groupOf off with | some (q, o) => q == p && (!wr || wrOffs.contains o) | none => false
      match k with
      | .mould => own
      | .cruc => own
      | .part => own && (!wr || off == 0x44 || off == 0x48 || off == 0x4C)
      | .sprue => (own && !wr) || mine [4, 8]
      | .ladle => !wr && mine []
      | .stack => off == 0x40 ||
          (!wr && off == 0x44 && (let g := tget 0 (s.stack i).sel (selOf init)
            decide (g < granCount) && (s.gran (granKey i g)).owner == p))
      | .pyro => (decide (0x800 ≤ off) && decide (off < 0x820)) || off == 0x840 + 4 * p || (!wr && off == 0x860)
      | _ => false

/-! ## 64-bit registers (R41) -/

/-- Key of an initiator's register. -/
def initKey (init a : Nat) : Nat := init * 2 ^ 26 + a

/-! ## Reading -/

/-- A command of the device's own programs that is quenched on a unit: the position it reached and its NSTAT stay open
(DESIGN CHOICE, log 30). -/
def State.stoppedOn (s : State) (k : PageKind) (u off : Nat) : Option (Nat → Nat → Nat) :=
  match s.cmdOn u (· == .quenched) with
  | some c =>
    if k = .mould ∧ off = 0x50 ∨ k = .cruc ∧ off = 0x48 then (if isKernel c.opcode then none else some fun _ f => f)
    else if (k = .mould ∧ off = 0x58 ∨ k = .cruc ∧ off = 0x50) ∧ !isKernel c.opcode then some fun _ f => f % 16
    else none
  | none => none

/-- The command at work on a unit. -/
def State.worksOn (s : State) (u : Nat) : Option Cmd :=
  match s.cmdOn u CmdPhase.onUnit with
  | some c => if c.out.isNone then some c else none
  | none => none

/-- A unit of the tile waits for space in a Sprue (R97). -/
def State.tileStalled (s : State) (u : Nat) (c : Cmd) : Bool :=
  s.sprue.waiting.any fun w => w.part == s.ownerOf u && w.cid == c.cid && gridAt c.units (clPos c.msg w.i w.j) == u
/-- States in which the device's own program of a command may find a unit: running, a token or Sprue space, a multicast
(Tables 5.7, 6.8; R91, R97, R116). -/
def State.ownStates (s : State) (u : Nat) (c : Cmd) : List Nat :=
  match c.opcode with
  | 0x200 => [1, 2, 3] | 0x201 => [1, 2] | 0x202 => [1, 2] | 0x280 => [1, 3]
  | 0x281 => if s.tileStalled u c then [1, 2, 3] else [1, 3]
  | _ => [1]
/-- What a cluster's or tile's page shows of a command at work is open (DESIGN CHOICE, log 30): from the value as it stands and a
free one, the value read. The position within the command; under the device's own programs the cores of one of its
tasks by R111, the Runner, the credit counts, NSTAT and the state among those the command has as well. -/
def State.unitOpen (s : State) (k : PageKind) (u : Nat) (c : Cmd) (off : Nat) : Option (Nat → Nat → Nat) :=
  if k = .mould ∧ off = 0x50 ∨ k = .cruc ∧ off = 0x48 then some fun _ f => f
  else if isKernel c.opcode then none
  else if k = .mould ∧ off = 0x64 then
    let ts := coreTasks c (c.units.idxOf u)
    some fun _ f => if ts.isEmpty then 0 else busyMask (match f % (ts.length + 1) with
      | 0 => (s.unit u).placed
      | n + 1 => placeTasks (nth 0 ts n))
  else if off = 0x10 then
    if s.halted u then none
    else (let l := s.ownStates u c; some fun v f => setBits v 18 16 (nth 1 l (f % l.length)))
  else if k = .mould ∧ off = 0x60 then some fun _ f => f % 65 + f / 2 ^ 8 % 33 * 2 ^ 8
  else if k = .mould ∧ 0x68 ≤ off ∧ off ≤ 0x84 then some fun _ f => f
  else if k = .mould ∧ off = 0x58 ∨ k = .cruc ∧ off = 0x50 then some fun _ f => f % 16
  else none

/-- The open function of a register of a unit on which a command is at work. -/
def State.openHere (s : State) (k : PageKind) (i off : Nat) : Option (Nat → Nat → Nat) :=
  if k = .mould ∨ k = .cruc then
    let u := if k = .mould then i else 256 + i
    match s.worksOn u with
    | some c => s.unitOpen k u c off
    | none => s.stoppedOn k u off
  else none

/-- Present value of a register with what a read of it does. A read of GLB.FENCE completes a fence, its own, and returns
the count with it; a FENCE message is not counted there (DESIGN CHOICE, log 50). -/
def State.readNow (s : State) (init : Nat) (k : PageKind) (i off : Nat) : State × Word :=
  if k = .glb ∧ off = 0x40 then
    let n := s.bus.fences + 1
    (s.setBus { s.bus with fences := n }, w32 n)
  else if k = .dbg ∧ (off = 0xD0 ∨ off = 0xD8 ∨ off = 0xDC ∨ off = 0xE0) then s.dbgRead init off
  else
    match s.openHere k i off with
    | some f => (s.draw.2, w32 (f (s.view init k i off) (Config.freeWord s.draw.1).toNat))
    | none =>
      let s := if readsOpen k off then s.refresh k i else s
      (s, w32 (s.view init k i off))

/-- A read of a _LO captures its _HI; a read of a captured _HI returns what was captured. -/
def State.readReg (s : State) (init : Nat) (k : PageKind) (i off : Nat) : State × Word :=
  let a := pageNo k i * 0x1000 + off
  if (loRegs k).contains off then
    -- one refresh: both halves are of the same cycle
    let s := if readsOpen k off then s.refresh k i else s
    let hi := w32 (s.view init k i (off + 4))
    (s.setBus { s.bus with hiCap := tput none s.bus.hiCap (initKey init (a + 4)) (some hi) }, w32 (s.view init k i off))
  else
    match (if 4 ≤ off ∧ (loRegs k).contains (off - 4) then tget none s.bus.hiCap (initKey init a) else none) with
    | some w => (s, w)
    | none => s.readNow init k i off

/-- The access that a lost cycle of the parting line carried is answered: its error is recorded already (R12). -/
def State.found (s : State) (x : Nat × Nat × Bool) : State := s.setBus { s.bus with lost := s.bus.lost.erase x }

/-- A 4-byte read, its word and the status of a REG_READ. An access that breaks several rules is judged misaligned first,
then unmapped, then gated (DESIGN CHOICE, log 50). -/
def State.regRead (s : State) (init a : Nat) : State × Word × Nat :=
  if !s.mayReach init false a then (s, 0, 5)
  else if s.bus.lost.contains (init, a, false) then (s.found (init, a, false), 0xFFFFFFFF, 0)
  else if a % 4 ≠ 0 then (s.busErr init 3 a, 0xFFFFFFFF, 0)
  else
    match pageOf (a / 0x1000) with
    | none => (s.busErr init 2 a, 0, 0)
    | some (k, i) =>
      if s.gated k i then (s.busErr init 1 a, 0xFFFFFFFF, 0)
      else
        let r := s.readReg init k i (a % 0x1000)
        (r.1, r.2, 0)

/-! ## Header writes -/

/-- The unit of a MOULD or CRUC page back in its reset state; its memories keep their bytes. -/
def SeqUnit.soft (x : SeqUnit) : SeqUnit :=
  { SeqUnit.reset with imem := x.imem, mem := x.mem, epoch := x.epoch, saveSeed := x.saveSeed }

/-- Logic of a block back in its reset state (R34); what other pages and the partition configuration own
stays (DEDUCED, log 31). -/
def State.softLogic (s : State) (k : PageKind) (i : Nat) : State :=
  match k with
  | .glb => (s.setBus { s.bus with fences := 0 }).setDev { s.dev with time := 0 }
  | .mgt => s.modDie i fun x =>
    let a := x.auth
    { x with auth := { Auth.reset with
      primarySel := a.primarySel, rolePrimary := a.rolePrimary, claim := a.claim,
      -- SAFE ends only with a reset of the device (R378)
      inSafe := a.inSafe, cause := a.cause, safeAt := a.safeAt, fromPeer := a.fromPeer,
      own := if a.inSafe then authSeal (2 ^ 35 + a.cause * 2 ^ 36) else 0 } }
  | .host => s.setRings []
  | .otp => s.draw.2.modDie i fun x => { x with otp := x.otp.breakOff (Config.freeWord s.draw.1) }
  | .dbg => s.setDbg (({ Dbg.reset with failCnt := s.dbg.failCnt }).start s.west.otp.fieldLock)
  | .pyro =>
    let s := s.modDie i fun x => { x with therm := { Thermal.reset with freq := x.therm.freq, locked := x.therm.locked } }
    let s := s.closeStacks i false
    let h := s.health
    let s := s.setHealth { h with
      next := 0, rotations := 0, fail := tput (0, 0, 0) h.fail i (0, 0, 0), fails := tput 0 h.fails i 0 }
    s.fhClear i fun _ => true
  | .clk =>
    -- no command runs across two array frequencies (R20)
    if s.clustersBusy i then s else s.modDie i fun x => { x with therm := { x.therm with freq := 1500 } }
  | .mould => s.modUnit i SeqUnit.soft
  | .cruc => s.modUnit (256 + i) SeqUnit.soft
  | .sprue =>
    let x := s.sprue
    s.setSprue { x with
      slices := x.slices.filter fun e => e.1 / 8 != i, blks := x.blks.filter fun r => r.die != i,
      waiting := x.waiting.filter fun u => u.die != i,
      halves := x.halves.filter fun u => s.homeFor u.part u.mb u.blk != some i,
      deliv := x.deliv.filter fun e => s.homeFor (nth 0 e 0) (nth 0 e 1) (nth 0 e 2) != some i,
      -- SPRUE_E shows a copy of DONE_MB (R205)
      doneMb := if i = 0 then [] else x.doneMb, lastOk := if i = 0 then [] else x.lastOk }
  | .ladle => forN 8 s fun p s => s.modPart p fun q => { q with
      ladle := { LadleP.reset with colls := q.ladle.colls.filter fun c => c.home != i } }
  | .port =>
    let s := s.modPort i fun x => { Port.reset with badLanes := x.badLanes }
    s.setFabric { s.fabric with
      devId := 0xFFFF, routes := s.fabric.routes.filter fun e => e.1 / 65536 != dieOfPort i }
  | .stack => s.modStack i fun x => { x with level := 0, below := 0, tDram := 0, tBase := 0, sel := [] }
  | .d2d => s.modDie i fun x => { x with line := Line.reset }
  | .part => s.modPart i fun q => { q with step := .reset, faultSrc := 0, faultInfo := 0, faultTime := 0 }
  | .fum =>
    match s.fumUser (i / 64) (s.fumServes (i / 64) (i % 64)) with
    | some p =>
      (match s.fumOn (i / 64) p (s.fumServes (i / 64) (i % 64)) with
        | some k => s.fumLeave (i / 64) p k.cid
        | none => s)
    | none => s

/-- A soft reset of a page (R34), complete before the next access. -/
def State.softReset (s : State) (k : PageKind) (i : Nat) : State :=
  let lo := pageNo k i * 0x1000
  let keep (a : Nat) : Bool := decide (a < lo) || decide (lo + 0x1000 ≤ a) || a == lo + 0x38
  let other (key : Nat) : Bool := keep (key % 2 ^ 26)
  let b := s.bus
  ((s.setBus { b with
    regs := b.regs.filter (fun e => keep e.1), hiCap := b.hiCap.filter (fun e => other e.1),
    loHeld := b.loHeld.filter (fun e => other e.1) }).softLogic k i).settle k i

/-- A write of BLK_CTRL under or without the owner lock (R33), and the status of a REG_WRITE. -/
def State.writeCtrl (s : State) (init : Nat) (k : PageKind) (i v : Nat) (locked : Bool) : State × Nat :=
  let s := if bit v 3 then s.setPg k i 0x20 0 else s
  if locked then
    if bit v 0 ≠ bit (s.pg k i 0x0C) 0 ∨ bit v 1 then (s.busErr init 4 (pageNo k i * 0x1000 + 0x0C), 5) else (s, 0)
  else
    let s := s.setPg k i 0x0C (v % 2)
    (if bit v 1 then s.softReset k i else s, 0)

/-- W1C of BLK_EVT: ERR clears the log (R38); on a PYRO page ASSAY_FAIL and FH_ALERT clear their records. -/
def State.clearEvt (s : State) (k : PageKind) (i : Nat) (v : Word) : State :=
  let e := w32 (s.pg k i 0x14)
  let s := s.setPg k i 0x14 (e &&& ~~~v).toNat
  let s := if v.getLsbD 0 then
      (((s.setPg k i 0x28 0).setPg k i 0x2C 0).setPg k i 0x30 0).setPg k i 0x34 0 else s
  if k = .pyro then
    let s := if v.getLsbD 2 then
        s.setHealth { s.health with fail := tput (0, 0, 0) s.health.fail i (0, 0, 0) } else s
    if v.getLsbD 16 then s.setPg .pyro i 0x860 0 else s
  else s

/-- The management core handles an event of a page as the block's chapter describes, where the event alone says how: which
core of a cluster failed is open (DESIGN CHOICE, log 57). -/
def State.handleEvt (s : State) (k : PageKind) (i b : Nat) : State :=
  match k with
  | .mould =>
    if 1 ≤ b ∧ b ≤ 8 then s.draw.2.clusterEvent i b ((Config.freeWord s.draw.1).toNat % 33) else s
  | .cruc => if 1 ≤ b ∧ b ≤ 4 then s.tileEvent i b else s
  | .fum => if b = 1 ∨ b = 2 then s.unitEvent (i / 64) (i % 64) b else s
  | .clk => if b = 1 ∧ s.safeDue then s.deviceSafe 4 else s
  | _ => s

/-- W1S of BLK_EVT_SET: a forced set behaves as a hardware set; where the bit is enabled, the management core handles it
(R36, R37). -/
def State.forceEvt (s : State) (k : PageKind) (i v : Nat) : State :=
  forN 32 s fun b s =>
    if bit v b ∧ bit (evtMask k) b then
      (if bit (s.pg k i 0x18) b then (s.evSet k i b).handleEvt k i b else s.evSet k i b)
    else s

/-- BLK_EVT_EN; a HOST enable that becomes 1 over a set event fires vector 9 (R333). -/
def State.writeEvtEn (s : State) (k : PageKind) (i : Nat) (v : Word) : State :=
  let old := w32 (s.pg k i 0x18)
  let s := s.setPg k i 0x18 v.toNat
  if k = .host ∧ v &&& ~~~old &&& w32 (s.pg .host 0 0x14) ≠ 0 then s.fireVector 9 else s

/-! ## Plain registers and pairs -/

/-- Writable bits of the RW registers that only hold a value. -/
def rwMask (k : PageKind) (i off : Nat) : Option Nat :=
  match k with
  | .d2d => if off = 0x40 then some 0x1FF else none
  | .part => if off = 0x44 then some 1 else if off = 0x4C then some 0xFFFFFF else none
  | .pyro =>
    if off = 0x40 then some 0x7F
    else if off = 0x60 ∧ i = 0 then some 0x7F
    else if off = 0x800 then some 0x1F77
    else if off = 0x820 then some 1
    else if 0x840 ≤ off ∧ off ≤ 0x85C then some 0xFFFFFFFF else none
  | .otp => if off = 0x44 ∨ off = 0x4C then some 0x3FF else if off = 0x50 then some 0xFFFFFFFF else none
  | .dbg =>
    if off = 0x44 then some 7 else if off = 0x70 then some 0x7F else if off = 0xC0 then some 0x3FFF
    else if off = 0xC8 then some 0xFFF else if off = 0xCC then some 0x3F else if off = 0xD4 then some 0x7FFFF
    else none
  | .port => if off = 0x50 then some 0xFFFF else if off = 0xA8 then some 0xFF3FFFFF else none
  | _ => none

/-- _LO offsets of the RW pairs, with the writable bits of their _HI. -/
def rwPair (k : PageKind) (off : Nat) : Option Nat :=
  match k with
  | .port => if off = 0xAC then some 0xFFFFFFFF else if off = 0xB4 then some 0xFFFF else none
  | .host => if 0x100 ≤ off ∧ off < 0x340 ∧ (off % 0x40 = 0 ∨ off % 0x40 = 8) then some 0xFFFFFFFF else none
  | _ => none

/-- A write of a half of an RW pair: _LO is held, _HI commits both. -/
def State.writeHalf (s : State) (init : Nat) (k : PageKind) (i lo hiMask : Nat) (hi : Bool) (v : Word) : State :=
  let key := initKey init (pageNo k i * 0x1000 + lo)
  if hi then
    let s := match tget none s.bus.loHeld key with
      | some w => s.setPg k i lo w.toNat
      | none => s
    let s := s.setPg k i (lo + 4) (v.toNat &&& hiMask)
    s.setBus { s.bus with loHeld := tput none s.bus.loHeld key none }
  else s.setBus { s.bus with loHeld := tput none s.bus.loHeld key (some v) }

/-- Counters that a page's PERF_CLR clears (R24), with its offset. -/
def perfRegs (k : PageKind) : Option (Nat × List Nat) :=
  match k with
  | .d2d => some (0x70, [0x48, 0x4C, 0x54, 0x58, 0x5C, 0x60, 0x64, 0x68, 0x6C])
  | .cruc => some (0x78, (List.range 8).map (0x58 + 4 * ·))
  | .mould => some (0xA8, (List.range 8).map (0x88 + 4 * ·))
  | .sprue => some (0x154, [0x144, 0x148, 0x14C, 0x150] ++ (List.range 8).map (0x5C + 0x20 * ·))
  | .stack => some (0x80, [0x78, 0x7C])
  | .fum => some (0x74, (List.range 6).map (0x5C + 4 * ·))
  | .ladle => some (0x14C, [0x144, 0x148] ++ (List.range 8).flatMap fun p => [0x58 + 0x20 * p, 0x5C + 0x20 * p])
  | .port => some (0xC8, (List.range 10).map (0x58 + 4 * ·) ++ [0xA4, 0xC4])
  | _ => none

/-! ## Registers with behaviour of their own -/

/-- Writes of PCFGp and TRECp (R200, R205, Table 9.12). -/
def State.sprueWrite (s : State) (d p o : Nat) (v : Word) : State × Nat :=
  let n := v.toNat
  let k := bits n 13 4
  let busy := ((s.part p).cmds.any fun c => c.phase == .running && (c.opcode == 0x300 || c.opcode == 0x301)) ||
    s.sprue.blks.any (fun r => r.part == p)
  if o = 4 then
    if bits n 20 16 = 0 ∨ 16 < bits n 20 16 ∨ bits n 27 24 = 0 ∨ (d = 0 ∧ (k = 0 ∨ 512 < k)) then (s, 2)
    else if busy then (s, 3)
    else
      let t := s.setPg .sprue d (0x44 + 0x20 * p)
        (if d = 0 then n &&& 0x0F1F3FF1 else setBits (n &&& 0x0F1F0000) 13 0 (bits (s.pcfg p 1) 13 0))
      let need := if t.topk p then t.recSegs p d else 1 + t.win p d
      let area := (if t.topk p then 16 else 32) * t.intake p d
      if s.sliceCount p d < area + need then (s, 4) else (t, 0)
  else if d = 1 then (s, 0)
  else if !tempOk v then (s, 2)
  else if busy then (s, 3)
  else (s.setPg .sprue 0 (0x48 + 0x20 * p) n, 0)

/-- Thresholds of GOV_CFG: none above its reset value, none below the one beneath it (R237). -/
def govClamp (v : Nat) : Nat :=
  let t1 := min (bits v 7 0) 0x55
  let t2 := max (min (bits v 15 8) 0x5F) t1
  let t3 := max (min (bits v 23 16) 0x64) t2
  t1 + t2 * 2 ^ 8 + t3 * 2 ^ 16

/-- PORT_CFG (R350, R351, R368): DOWN takes precedence over TRAIN. -/
def State.writePortCfg (s : State) (n v : Nat) : State :=
  let x := s.port n
  let old := s.pg .port n 0x40
  let mode := bits v 1 0
  let bad := mode ≠ bits old 1 0 ∧ (x.st ≠ .down ∨ mode = 3)
  let s := if bad then s.portCfgErr n else s.setPg .port n 0x40 (setBits old 1 0 mode)
  let s := s.setPg .port n 0x40 (setBits (s.pg .port n 0x40) 23 8 (bits v 23 8))
  if bit v 3 then (if x.st = .down then s else s.portDown n 6)
  else if bit v 2 then s.portTrain n else s

/-- A port register. -/
def State.writePort (s : State) (n off : Nat) (v : Word) : State :=
  let x := v.toNat
  match off with
  | 0x40 => s.writePortCfg n x
  | 0x4C =>
    if (List.range 16).all fun q => (s.port q).st == .down then
      s.setFabric { s.fabric with devId := x % 65536 } else s
  | 0x54 =>
    s.setFabric { s.fabric with
      routes := tput 0x1F s.fabric.routes (dieOfPort n * 65536 + s.pg .port n 0x50) (x % 64) }
  | 0xBC =>
    let b := x % 2 ^ 14
    if 4096 ≤ b ∧ b ≤ 8192 ∧ b % 64 = 0 then s.setPg .port n 0xBC b else s.portCfgErr n
  | 0xC0 =>
    let b := x % 2 ^ 10
    if 10 ≤ b ∧ b ≤ 1000 then s.setPg .port n 0xC0 b else s.portCfgErr n
  | _ => s

/-- A configuration write of a ring is not accepted (R349). -/
def State.ringCfgErr (s : State) (r : Nat) : State := s.modRing r fun g => { g with cfgErr := true }

/-- RST restarts the submission ring (R335). -/
def State.ringRestart (s : State) (r : Nat) : State :=
  (s.setRingRg r 0x18 (s.ringRg r 0x14)).modRing r fun g =>
    { g.renumber with ver := 0, neg := false, feat := 0, stopped := false }

/-- RING_CFG (R329, R335, R349). -/
def State.writeRingCfg (s : State) (r v : Nat) : State :=
  let n := bits v 4 0
  let m := bits v 12 8
  let cfg := n + m * 2 ^ 8 + b2n (bit v 16) * 2 ^ 16
  let restart (s : State) : State := if bit v 17 then s.ringRestart r else s
  let aligned (lo size : Nat) : Bool := s.ringBase r lo % (64 * 2 ^ size) == 0
  if n < 6 ∨ 16 < n ∨ m < 6 ∨ 16 < m then s.ringCfgErr r
  else if s.ringEn r then
    if bit v 16 then
      if cfg = s.ringRg r 0x10 then restart s else s.ringCfgErr r
    else if (s.ring r).opens.isEmpty then
      -- the sizes stay: a write of them while EN is 1 is discarded
      let old := s.ringRg r 0x10
      restart ((s.setRingRg r 0x10 (setBits old 16 16 0)).modRing r fun g =>
        { g with cfgErr := setBits old 16 16 0 != cfg, waitq := [] })
    else s.ringCfgErr r
  else if bit v 16 then
    if s.ringRg r 0x14 = 0 ∧ s.ringRg r 0x1C = 0 ∧ aligned 0x00 n ∧ aligned 0x08 m then
      let s := ((s.setRingRg r 0x10 cfg).setRingRg r 0x18 0).setRingRg r 0x20 0
      restart (s.modRing r fun g =>
        { g.renumber with vents := 0, cfgErr := false, hist := [], waitq := [], irqCnt := 0 })
    else s.ringCfgErr r
  else restart (s.setRingRg r 0x10 cfg)

/-- A word of the MSI-X table: unmasking a pending vector fires it, as the PCI Express specification gives. -/
def State.writeMsix (s : State) (off : Nat) (v : Nat) : State :=
  let s := s.setPg .host 0 off (if off % 16 = 12 then v % 2 else if off % 16 = 0 then v / 4 * 4 else v)
  let vec := (off - 0x800) / 16
  if off % 16 = 12 ∧ v % 2 = 0 ∧ bit (s.pg .host 0 0xC00) vec then
    (s.setPg .host 0 0xC00 (setBits (s.pg .host 0 0xC00) vec vec 0)).fireVector vec
  else s

/-- The vector of a ring is judged under a new moderation (R333). -/
def State.irqCheck (s : State) (r : Nat) : State :=
  let g := s.ring r
  let c := bits (s.ringRg r 0x24) 7 0
  let t := bits (s.ringRg r 0x24) 23 8
  if c ≠ 0 ∧ g.irqCnt ≠ 0 ∧ s.ringRg r 0x1C ≠ s.ringRg r 0x20 ∧
      (c ≤ g.irqCnt ∨ (t ≠ 0 ∧ g.irqAt + 1000 * t ≤ s.now)) then s.irqFire r else s

/-- A HOST register. A doorbell and CQ_HEAD take effect when the rings are served. -/
def State.writeHost (s : State) (off : Nat) (v : Word) : State :=
  if 0x100 ≤ off ∧ off < 0x340 then
    let r := (off - 0x100) / 0x40
    match (off - 0x100) % 0x40 with
    | 0x10 => s.writeRingCfg r v.toNat
    | 0x14 => s.setRingRg r 0x14 v.toNat
    | 0x1C => (s.setRingRg r 0x1C v.toNat).flush r
    | 0x24 => (s.setRingRg r 0x24 (v.toNat % 2 ^ 24)).irqCheck r
    | _ => s
  else if 0x800 ≤ off ∧ off < 0x8A0 then s.writeMsix off v.toNat
  else s

/-- A DBG register that acts or holds a secret. -/
def State.writeDbg (s : State) (init off : Nat) (v : Word) : State :=
  if off = 0x48 then s.authCmd v.toNat
  else if 0x60 ≤ off ∧ off ≤ 0x6C then s.setDbg { s.dbg with resp := tput 0 s.dbg.resp ((off - 0x60) / 4) v }
  else if 0x80 ≤ off ∧ off ≤ 0xBC then s.setDbg { s.dbg with pwd := tput 0 s.dbg.pwd ((off - 0x80) / 4) v }
  else if off = 0xC4 then s.runCtrl init v.toNat
  else if off = 0xD0 then s.dbgWrite init v
  else s

/-- A write of FH_CLR; a partition clears only its own counts (R66, R67). -/
def State.writeFhClr (s : State) (init d v : Nat) : State :=
  if 2 ≤ init ∧ init < 10 then s.fhClear d (· == init - 2)
  else if bit v 8 then s.fhClear d fun _ => true else s.fhClear d (· == v % 8)

/-- A write of a block register that R33 and the domain let through, and the status of a REG_WRITE. -/
def State.writeBlock (s : State) (init : Nat) (k : PageKind) (i off : Nat) (v : Word) : State × Nat :=
  let n := v.toNat
  let pair := match rwPair k off with
    | some m => some (off, m, false)
    | none => if 4 ≤ off then (rwPair k (off - 4)).map fun m => (off - 4, m, true) else none
  match pair with
  | some (lo, m, hi) =>
    if k = .host ∧ s.ringEn ((off - 0x100) / 0x40) then (s.ringCfgErr ((off - 0x100) / 0x40), 0)
    else (s.writeHalf init k i lo m hi v, 0)
  | none =>
    match rwMask k i off with
    | some m => (s.setPg k i off (n &&& m), 0)
    | none =>
      match perfRegs k with
      | some (o, l) =>
        if o = off then (if bit n 0 then (l.foldl (fun s o => s.setPg k i o 0) s).settle k i else s, 0)
        else
          match k with
          | .sprue => (match groupOf off with
            | some (p, o) => if o = 4 ∨ o = 8 then s.sprueWrite i p o v else (s, 0)
            | none => (s, 0))
          | .stack =>
            if off = 0x40 then (s.modStack i fun x => { x with sel := tput 0 x.sel (selOf init) (n % 65536) }, 0)
            else if off = 0x50 then (s.setPg .stack i 0x50 (govClamp n), 0) else (s, 0)
          | .port => (s.writePort i off v, 0)
          | _ => (s, 0)
      | none =>
        match k with
        | .host => (s.writeHost off v, 0)
        | .dbg => (s.writeDbg init off v, 0)
        | .mgt => (if off = 0x60 ∧ i = 0 then s.devRst init v else s, 0)
        | .otp => (if off = 0x54 then s.progStart init i v else s, 0)
        | .part => (if off = 0x48 then s.setPg .part i 0x48 (w32 (s.pg .part i 0x48) &&& ~~~(v &&& 0xF)).toNat else s, 0)
        | .clk =>
          if off = 0x44 then
            let f := n % 2 ^ 11
            (if 900 ≤ f ∧ f ≤ 1600 ∧ f % 100 = 0 then s.setPg .clk i 0x44 f else s.evSet .clk i 3, 0)
          else (s, 0)
        | .pyro =>
          if off = 0x81C then (s.writeFhClr init i n, 0)
          else if off = 0x78 ∧ i = 0 ∧ v = 0x5C1E#32 then (s.setHealth { s.health with log := [], ovf := 0 }, 0)
          else (s, 0)
        | _ => (s, 0)

/-! ## Writing -/

/-- In SAFE writes are discarded but the clearing of events, DEV_RST and, while debug is open or through JTAG,
the DBG page (R377). -/
def State.safeBars (s : State) (init : Nat) (k : PageKind) (i off : Nat) : Bool :=
  s.dev.state == .safe && off != 0x14 && !(k == .mgt && i == 0 && off == 0x60) &&
    !(k == .dbg && (s.dbgOpen || init == 12))

/-- A value that an FH_SEL write of a partition carries (R67). -/
def selfSel (init : Nat) (k : PageKind) (off : Nat) (v : Word) : Word :=
  if k = .pyro ∧ off = 0x800 ∧ 2 ≤ init ∧ init < 10 then w32 (setBits v.toNat 2 0 (init - 2)) else v

/-- A write that reaches its page. One that both SAFE and the owner lock bar is barred by SAFE, with no LOCKED error
(DESIGN CHOICE, log 50). -/
def State.writeReg (s : State) (init : Nat) (k : PageKind) (i off : Nat) (v : Word) : State × Nat :=
  let locked := decide (init ≤ 1) && s.ownerLock k i
  if s.safeBars init k i off then (s, 0)
  else if off = 0x0C then s.writeCtrl init k i v.toNat locked
  else if locked ∧ (0x40 ≤ off ∨ off = 0x18) then (s.busErr init 4 (pageNo k i * 0x1000 + off), 5)
  else
    match off with
    | 0x14 => (s.clearEvt k i v, 0)
    | 0x18 => (s.writeEvtEn k i v, 0)
    | 0x1C => (s.forceEvt k i v.toNat, 0)
    | 0x38 => (s.setPg k i 0x38 v.toNat, 0)
    | _ => if off < 0x40 then (s, 0) else s.writeBlock init k i off (selfSel init k off v)

/-- A 4-byte write and the status of a REG_WRITE. -/
def State.regWrite (s : State) (init a : Nat) (v : Word) : State × Nat :=
  if !s.mayReach init true a then (s, 5)
  else if s.bus.lost.contains (init, a, true) then (s.found (init, a, true), 0)
  else if a % 4 ≠ 0 then (s.busErr init 3 a, 0)
  else
    match pageOf (a / 0x1000) with
    | none => (s.busErr init 2 a, 0)
    | some (k, i) =>
      if s.gated k i then (s.busErr init 1 a, 0)
      else s.writeReg init k i (a % 0x1000) v

/-! ## Accesses of any size (R27) -/

/-- What an initiator's read returned (DESIGN CHOICE, log 8). -/
def State.setRead (s : State) (init v : Nat) : State :=
  s.setBus { s.bus with readData := tput 0 s.bus.readData init v }

/-- A read of an initiator; one that is neither 4 bytes nor an aligned 8 is misaligned, whatever its width. -/
def State.readAccess (s : State) (init a size : Nat) : State :=
  if !s.reach init then s
  else if size = 4 then
    let r := s.regRead init a
    if r.2.2 = 5 then r.1 else r.1.setRead init r.2.1.toNat
  else if size = 8 ∧ a % 8 = 0 then
    let lo := s.regRead init a
    let hi := lo.1.regRead init (a + 4)
    if lo.2.2 = 5 ∨ hi.2.2 = 5 then hi.1 else hi.1.setRead init (lo.2.1.toNat + 2 ^ 32 * hi.2.1.toNat)
  else if !s.mayReach init false a then s
  else (s.busErr init 3 a).setRead init (2 ^ (8 * size) - 1)

/-- A write of an initiator. -/
def State.writeAccess (s : State) (init a size : Nat) (v : BitVec 64) : State :=
  if !s.reach init then s
  else if size = 4 then (s.regWrite init a (v.truncate 32)).1
  else if size = 8 ∧ a % 8 = 0 then
    ((s.regWrite init a (v.truncate 32)).1.regWrite init (a + 4) (v.extractLsb' 32 32)).1
  else if !s.mayReach init true a then s
  else s.busErr init 3 a

end Sys2Proof.Machine
end

