-- ==== Sys2Proof/Machine/Jtag.lean ====
section
/-! DEFINITION. The TAP of each die (R398, R399): one instruction loaded and its data register scanned. -/
namespace Sys2Proof.Machine

/-- An instruction is loaded into a TAP. -/
def State.loadIr (s : State) (d ir : Nat) (bypass : Bool) : State := s.setTap d { s.tap d with ir := ir, bypass := bypass }

/-- The data register of the West TAP as captured. -/
def State.capture (s : State) (d : Nat) (v : BitVec 64) : State := s.setTap d { s.tap d with dr := v }

/-- The TAPs answer in every device state while the rails are up. -/
def State.tapRow (s : State) (f : State → State) : Host.Outcome State Fault Refusal :=
  .next (if s.dev.rails then f s else s)

/-- TRST_N resets both TAPs to IDCODE; the boundary register keeps its cells. -/
def execTrstNAssert (s : State) : Host.Outcome State Fault Refusal :=
  s.tapRow fun s => (s.loadIr 0 2 false).loadIr 1 2 false

/-- An instruction that selects the boundary register: the pins are captured, and the cells take what is shifted in. -/
def State.scanBoundary (s : State) (ir : Nat) (b : BoundaryScan) : State :=
  s.setTap b.die { s.tap b.die with ir := ir, bypass := false, pins := b.pins, boundary := b.cells }

/-- EXTEST: the cells drive the pins. -/
def execExtest (die : BoundaryScan) (s : State) : Host.Outcome State Fault Refusal := s.tapRow fun s => s.scanBoundary 0 die

/-- SAMPLE/PRELOAD: the pins as sampled are captured and the boundary register takes what is shifted in. -/
def execSamplePreload (die : Nat) (pins preload : List Bool) (s : State) : Host.Outcome State Fault Refusal :=
  s.tapRow fun s => s.scanBoundary 1 ⟨die, pins, preload⟩

/-- Identification register (Table 18.6). -/
def idWord (d : Nat) : BitVec 64 :=
  BitVec.ofNat 64 (2 ^ 28 + (if d = 0 then 0xC960 else 0xC961) * 2 ^ 12 + Config.jtagMaker.toNat * 2 + 1)

def execIdcode (die : Nat) (s : State) : Host.Outcome State Fault Refusal :=
  s.tapRow fun s => (s.loadIr die 2 false).capture die (idWord die)

/-- CLAMP, HIGHZ and BYPASS select the bypass register, which captures 0. -/
def execClamp (die : Nat) (s : State) : Host.Outcome State Fault Refusal := s.tapRow fun s => s.loadIr die 3 false
def execHighz (die : Nat) (s : State) : Host.Outcome State Fault Refusal := s.tapRow fun s => s.loadIr die 4 false
def execBypass (die : Nat) (s : State) : Host.Outcome State Fault Refusal := s.tapRow fun s => s.loadIr die 0xFF false

/-- EXTEST_PULSE and EXTEST_TRAIN: the cells drive the AC-coupled pins, by a pulse or a train of them. -/
def execExtestPulse (die : BoundaryScan) (s : State) : Host.Outcome State Fault Refusal :=
  s.tapRow fun s => s.scanBoundary 5 die
def execExtestTrain (die : BoundaryScan) (s : State) : Host.Outcome State Fault Refusal :=
  s.tapRow fun s => s.scanBoundary 6 die

/-- BOOT_READ: BOOT_STAT with the first failing Assay target, its class and result. -/
def State.bootWord (s : State) : BitVec 64 :=
  let r := s.dev.firstResult
  let t := s.dev.firstFail
  BitVec.ofNat 64 (s.pg .mgt 0 0x40 + (if r = 0 then 0 else t * 2 ^ 32 + assayClass t * 2 ^ 41 + r * 2 ^ 45))

def execBootRead (s : State) : Host.Outcome State Fault Refusal :=
  s.tapRow fun s => (s.loadIr 0 0x10 false).capture 0 s.bootWord

/-- An access that meets a bus error whatever it does. -/
def State.barred (s : State) (a : Nat) : Bool :=
  a % 4 ≠ 0 || (match pageOf (a / 0x1000) with | some (k, i) => s.gated k i | none => true)

/-- REG_ACCESS: one access with every debug scope; Capture-DR shows the data, DONE and ERR. -/
def execRegAccess (dr : BitVec 64) (s : State) : Host.Outcome State Fault Refusal :=
  s.tapRow fun s =>
    let a := bits dr.toNat 57 32
    let err := b2n (s.barred a || s.bus.lost.contains (12, a, bit dr.toNat 63)) * 2 ^ 33
    let s := s.loadIr 0 0x11 false
    if bit dr.toNat 63 then
      let w := s.regWrite 12 a (dr.truncate 32)
      w.1.capture 0 (BitVec.ofNat 64 (2 ^ 32 + err))
    else
      let r := s.regRead 12 a
      (r.1.setRead 12 r.2.1.toNat).capture 0 (BitVec.ofNat 64 (r.2.1.toNat + 2 ^ 32 + err))

end Sys2Proof.Machine
end

