-- ==== Sys2Proof/Machine/Host.lean ====
section
/-! DEFINITION. Submission rings (R329, R330, R334 to R341): taking messages, judging them in the order of R422,
carrying them out, and serving the rings after an access. The commands that are register accesses. -/
namespace Sys2Proof.Machine

/-! ## Opcodes (Table 15.6) -/

/-- A row of the opcode table: ring (0 both, 1 management, 2 partition), a command, first version, and the end of
the body (Tables 15.8, 15.9). -/
structure OpInfo where
  ring : Nat
  cmd : Bool
  since : Nat
  fin : Nat
  deriving DecidableEq, Repr

/-- The opcodes that host software may send. -/
def opInfo (op : Nat) : Option OpInfo :=
  match op with
  | 0x001 => some ⟨0, false, 0x20, 32⟩ | 0x003 => some ⟨0, false, 0x20, 16⟩ | 0x004 => some ⟨0, false, 0x20, 16⟩
  | 0x010 => some ⟨0, false, 0x20, 20⟩ | 0x011 => some ⟨0, false, 0x20, 24⟩
  | 0x100 => some ⟨1, false, 0x20, 272⟩ | 0x101 => some ⟨1, false, 0x20, 16⟩ | 0x102 => some ⟨1, false, 0x20, 16⟩
  | 0x103 => some ⟨1, false, 0x20, 16⟩ | 0x104 => some ⟨1, false, 0x20, 16⟩ | 0x105 => some ⟨1, false, 0x20, 16⟩
  | 0x110 => some ⟨1, false, 0x20, 32⟩ | 0x111 => some ⟨1, false, 0x20, 32⟩ | 0x112 => some ⟨0, true, 0x20, 72⟩
  | 0x118 => some ⟨1, false, 0x20, 16⟩ | 0x119 => some ⟨1, false, 0x20, 16⟩
  | 0x200 => some ⟨2, true, 0x20, 208⟩ | 0x201 => some ⟨2, true, 0x20, 240⟩ | 0x202 => some ⟨2, true, 0x20, 400⟩
  | 0x203 => some ⟨2, true, 0x20, 112⟩ | 0x204 => some ⟨2, true, 0x20, 104⟩
  | 0x280 => some ⟨2, true, 0x20, 208⟩ | 0x281 => some ⟨2, true, 0x20, 144⟩ | 0x282 => some ⟨2, true, 0x20, 208⟩
  | 0x283 => some ⟨2, true, 0x32, 112⟩ | 0x284 => some ⟨2, true, 0x20, 104⟩
  | 0x300 => some ⟨2, true, 0x20, 160⟩ | 0x301 => some ⟨2, true, 0x20, 192⟩
  | 0x380 => some ⟨2, true, 0x30, 80⟩ | 0x381 => some ⟨2, true, 0x20, 104⟩ | 0x382 => some ⟨2, true, 0x20, 96⟩
  | 0x383 => some ⟨2, true, 0x20, 112⟩ | 0x384 => some ⟨2, true, 0x30, 136⟩ | 0x385 => some ⟨2, true, 0x30, 96⟩
  | 0x400 => some ⟨2, true, 0x20, 56⟩ | 0x401 => some ⟨2, true, 0x20, 56⟩ | 0x402 => some ⟨2, false, 0x20, 40⟩
  | 0x410 => some ⟨2, true, 0x30, 96⟩ | 0x411 => some ⟨2, true, 0x30, 58⟩ | 0x412 => some ⟨2, true, 0x30, 72⟩
  | 0x413 => some ⟨2, false, 0x30, 24⟩ | 0x414 => some ⟨2, true, 0x30, 80⟩ | 0x415 => some ⟨2, true, 0x30, 72⟩
  | 0x500 => some ⟨2, false, 0x30, 112⟩ | 0x501 => some ⟨2, true, 0x30, 80⟩ | 0x502 => some ⟨2, false, 0x30, 144⟩
  | 0x503 => some ⟨2, false, 0x30, 20⟩ | 0x504 => some ⟨2, false, 0x32, 20⟩
  | _ => none

def isPartOp (op : Nat) : Bool := decide (0x100 ≤ op ∧ op ≤ 0x105)

/-- Features of the device, bits 0 to 5 (Table 15.2). -/
def deviceFeatures : Nat := 0x3F

/-- Feature bit that a message needs (Table 15.2). -/
def needsFeature (op : Nat) (m : List Byte) : Option Nat :=
  if 0x500 ≤ op ∧ op ≤ 0x5FF then (if op = 0x500 ∧ fld m 16 1 = 2 then some 5 else some 0)
  else if op = 0x100 ∧ bit (fld m 56 4) 2 then some 2
  else if op = 0x414 ∧ fld m 60 1 = 1 then some 3
  else if op = 0x415 ∧ fld m 52 1 = 1 then some 3
  else if op = 0x412 ∧ fld m 56 1 % 4 ≠ 0 then some 4
  else none

/-- Features that a message needs are in effect; SV_CFG of ROLE 2 needs SERVE as well. -/
def Ring.featOk (g : Ring) (op : Nat) (m : List Byte) : Bool :=
  match needsFeature op m with
  | some 5 => bit g.feat 0 && bit g.feat 5
  | some b => bit g.feat b
  | none => true

/-! ## Judging a message (R422) -/

/-- Steps 3 and 4: version, opcode and feature; ring and partition. -/
def State.judgeKind (s : State) (r : Nat) (m : List Byte) : Option Compl :=
  let g := s.ring r
  let op := fld m 2 2
  let ver := fld m 0 1
  match opInfo op with
  | none => some (.of 1)
  | some i =>
    if op = 1 ∧ ver ≠ 0x20 then some (.of 1)
    else if op ≠ 1 ∧ (!g.neg ∨ ver ≠ g.ver ∨ g.ver < i.since ∨ !g.featOk op m) then some (.of 1)
    else if (i.ring = 1 ∧ r ≠ 8) ∨ (i.ring = 2 ∧ r = 8) then some (.of 5)
    else if r < 8 ∧ fld m 1 1 ≠ r then some (.of 5)
    else none

/-- MEM_ALLOC and MEM_FREE. -/
def memForm (m : List Byte) : Option Nat :=
  firstOf [need 16 (decide (fld m 16 1 ≤ 11)), need 17 (decide (fld m 17 1 ≤ 8)), need 18 (zeros m 18 20),
    need 24 (!reservedAddr (fld m 24 8) (2 * fld m 20 4))]

/-- Form of a body (Tables 14.2, 15.8, 15.9 and the chapters of the commands). -/
def State.bodyForm (s : State) (r op : Nat) (m : List Byte) : Option Nat :=
  match op with
  | 0x100 => s.partCfgForm m
  | 0x110 => memForm m | 0x111 => memForm m
  | 0x112 => memCopyForm m
  | 0x200 => s.mgGemmForm m | 0x201 => s.mgFwdForm m | 0x202 => s.mgBwdForm m
  | 0x203 => s.kernelForm false m | 0x204 => s.vecForm false m
  | 0x280 => s.cgGemmForm m | 0x281 => s.cgLogitForm m | 0x282 => s.cgAttnForm m
  | 0x283 => s.kernelForm true m | 0x284 => s.vecForm true m
  | 0x300 => spLossForm m | 0x301 => spFeatForm m
  | 0x380 => fmForm 0x380 m | 0x381 => fmForm 0x381 m | 0x382 => fmForm 0x382 m
  | 0x383 => fmForm 0x383 m | 0x384 => fmForm 0x384 m | 0x385 => fmForm 0x385 m
  | 0x400 => need 48 (!reservedAddr (fld m 48 8) 128) | 0x401 => need 48 (!reservedAddr (fld m 48 8) 128)
  | 0x402 => epochForm m
  | 0x410 => stepCfgForm m | 0x412 => stepSealForm m
  | 0x414 => ckptSaveForm m | 0x415 => ckptLoadForm m
  | 0x500 => svCfgForm m | 0x501 => variantForm m | 0x502 => s.submitForm r m
  | _ => none

/-- Form of the prefix of a command (Table 15.3, R339, R340). -/
def prefixForm (m : List Byte) : Option Nat :=
  let seq := fld m 8 4
  let n := fld m 17 1
  firstOf ([need 12 (fld m 12 4 != 0), need 16 (decide (fld m 16 1 < 8)), need 17 (decide (n ≤ 4)),
      need 18 (zeros m 18 24)] ++
    ((List.range (min n 4)).map fun i =>
      let d := fld m (32 + 2 * i) 2
      need (32 + 2 * i) (decide (1 ≤ d ∧ d ≤ seq))) ++
    [need 40 (zeros m 40 48)])

/-- First byte beyond the body that is not zero (R334). -/
def trailForm (m : List Byte) (fin : Nat) : Option Nat :=
  ((m.drop fin).findIdx? (· != 0)).map (fin + ·)

/-- Step 5: the first offending field in increasing byte order. -/
def State.msgForm (s : State) (r : Nat) (i : OpInfo) (m : List Byte) : Option Nat :=
  let op := fld m 2 2
  let part := fld m 1 1
  let lf := fld m 4 2
  firstOf [need 0 (decide (r < 8) || (if isPartOp op then decide (part ≤ 7) else part == 0xFF)),
    need 4 (decide (lf < 4096 ∧ i.fin ≤ 64 * lf)), if i.cmd then prefixForm m else none,
    s.bodyForm r op m, trailForm m i.fin]

/-- Step 6: the units that a command names belong to its partition (R89, R113). -/
def State.unitsOwned (s : State) (p op : Nat) (m : List Byte) : Bool :=
  if isVec op then
    (if onTiles op then (s.part p).tiles else (s.part p).clusters).contains (fld m 48 1)
  else if onClusters op ∨ onTiles op then s.gridOwned p (onTiles op) m
  else true

/-- Commands and the control messages of a partition's own ring are legal in three states (R348). -/
def State.stateOk (s : State) (r op : Nat) : Bool :=
  let q := s.part r
  decide (r = 8) || op == 1 || op == 4 || op == 0x10 || op == 0x11 ||
    q.st == .loaded || q.st == .running || q.st == .paused

/-- The refusal of a message beyond its SEQ, if any. -/
def State.judge (s : State) (r : Nat) (m : List Byte) : Option Compl :=
  let op := fld m 2 2
  match s.judgeKind r m with
  | some c => some c
  | none =>
    match opInfo op with
    | none => some (.of 1)
    | some i =>
      match s.msgForm r i m with
      | some o => some (.malformed o)
      | none =>
        if i.cmd ∧ !s.unitsOwned r op m then some (.of 5)
        else if op = 1 ∧ (s.ring r).neg then some (.of 3)
        else if !s.stateOk r op then some (.of 3)
        else none

/-! ## Answers -/

/-- HELLO_ACK (R337). -/
def State.helloAck (s : State) (r q : Nat) (m : List Byte) (status second eff : Nat) : State :=
  let body := leBytes 1 status ++ leBytes 1 second ++ List.replicate 6 0 ++ leBytes 8 eff ++ leBytes 8 deviceFeatures ++
    List.replicate 24 0
  s.post r { bytes := entryBytes (s.ringVer r) (fld m 1 1) 2 0x2000 (fld m 8 4) (fld m 12 4) body,
             ans := some (q, status), urgent := false }

/-- The message of number q is answered at its acceptance. -/
def State.answerMsg (s : State) (r q : Nat) (m : List Byte) (c : Compl) : State :=
  if fld m 2 2 = 1 then s.helloAck r q m c.status (if c.status = 2 then c.detail else 0x32) 0
  else s.respond r (fld m 2 2) (fld m 1 1) q (fld m 12 4) c 0

/-- HELLO of good form on a ring that is not negotiated. -/
def State.helloMsg (s : State) (r q : Nat) (m : List Byte) : State :=
  let v := min (fld m 17 1) 0x32
  if v < max (fld m 16 1) 0x20 then s.helloAck r q m 1 0x32 0
  else
    let eff := fld m 24 8 &&& deviceFeatures
    (s.modRing r fun g => { g with neg := true, ver := v, feat := eff }).helloAck r q m 0 v eff

/-- FENCE waits for every earlier message of its ring (R341). -/
def State.fenceMsg (s : State) (r q : Nat) (m : List Byte) : State :=
  let s := s.modRing r fun g => { g with fences := g.fences ++ [(q, w32 (fld m 12 4))] }
  let t := s.fencePump r
  if (t.ring r).fences.length < (s.ring r).fences.length then (t.drain r).cqWait r else t

/-- Initiator of a ring's register messages (R26). -/
def ringInit (r : Nat) : Nat := if r = 8 then 1 else 2 + r

/-- A write of PORT_CFG, which can take a port down: the Vents of that cycle come after the response (R346). -/
def ventsAfter (a : Nat) : Bool :=
  match pageOf (a / 0x1000) with
  | some (.port, _) => a % 0x1000 == 0x40
  | _ => false

/-- REG_READ and REG_WRITE (R341). An access that resets the device or the ring leaves nothing to answer. -/
def State.regMsg (s : State) (r q : Nat) (m : List Byte) : State :=
  let a := fld m 16 4
  if fld m 2 2 = 0x10 then
    let x := s.regRead (ringInit r) a
    x.1.answerMsg r q m { Compl.of x.2.2 with result := if x.2.2 = 0 then leBytes 4 x.2.1.toNat else [] }
  else
    let x := s.regWrite (ringInit r) a (w32 (fld m 20 4))
    -- a value that a register does not take lies at byte 20
    let c : Compl := if x.2 = 2 then .malformed 20 else .of x.2
    if x.1.dev.state = .ready ∧ x.1.ringEn r then
      if ventsAfter a then ((s.answerMsg r q m c).regWrite (ringInit r) a (w32 (fld m 20 4))).1 else x.1.answerMsg r q m c
    else x.1

/-! ## Acceptance (R338) -/

/-- A command enters its queue; an FM_UPDATE marks its flasks (R242). -/
def State.pushCmd (s : State) (r n : Nat) (m : List Byte) : State :=
  let s := if fld m 2 2 = 0x380 then s.updateMarks r (s.part r).nextCid (fmStack m) (s.flasksOf r m) else s
  s.modPart r fun q => { q with
    nextCid := q.nextCid + 1
    cmds := q.cmds ++ [{
      cid := q.nextCid, opcode := fld m 2 2, seq := n, tag := w32 (fld m 12 4), ver := fld m 0 1,
      queue := fld m 16 1, deps := (List.range (fld m 17 1)).map fun i => (s.ring r).number (fld m 8 4 - fld m (32 + 2 * i) 2),
      deadline := fld m 24 8, msg := m, data := [], phase := .queued, start := 0, bound := none,
      quenchTime := 0, quenchAt := 0, wasQuenched := false, reason := 0, e4nan := false, units := [], images := [],
      out := none }] }

/-- A control message with an answer of its own or one that is still owed. -/
def State.ctlDone (r q : Nat) (m : List Byte) (x : State × Option Compl) : State :=
  match x.2 with
  | some c => x.1.answerMsg r q m c
  | none => x.1

/-- Carries out an accepted message. -/
def State.carry (s : State) (r seq : Nat) (m : List Byte) : State :=
  let op := fld m 2 2
  let tag := w32 (fld m 12 4)
  match opInfo op with
  | none => s
  | some i =>
    if i.cmd then s.pushCmd r seq m
    else if op = 1 then s.helloMsg r seq m
    else if op = 4 then s.fenceMsg r seq m
    else if op = 0x10 ∨ op = 0x11 then s.regMsg r seq m
    else if isPartOp op then State.ctlDone r seq m (s.partMsg op (fld m 1 1) seq tag m)
    else if op = 0x110 ∨ op = 0x111 then State.ctlDone r seq m (s.memMsg (op == 0x111) seq tag m)
    else if op = 0x118 then State.ctlDone r seq m (let x := s.teacherSealOp; (x.1, some x.2))
    else if op = 0x119 then State.ctlDone r seq m (let x := s.teacherUnsealOp; (x.1, some x.2))
    else if (s.part r).st = .paused then
      s.modPart r fun q => { q with held := q.held ++ [(seq, tag, m)] }
    else State.ctlDone r seq m (s.ctlMsg r seq m)

/-- A message is taken from a ring: its number first (R336), then the rest of R422. -/
def State.accept (s : State) (r : Nat) (m : List Byte) : State :=
  let seq := fld m 8 4
  let inOrder := (s.ring r).expSeq = seq
  let n := ((s.ring r).take seq).1
  let s := s.modRing r fun g => (g.take seq).2
  if fld m 2 2 = 3 then s
  else
    let s := s.modRing r fun g => { g with opens := g.opens ++ [(n, w32 (fld m 12 4))] }
    if !inOrder then s.answerMsg r n m { Compl.of 2 with detail := 0xFE }
    else
      match s.judge r m with
      | some c => s.answerMsg r n m c
      | none => s.carry r n m

/-! ## Taking messages from the rings -/

/-- A ring stops (R335). -/
def State.ringStop (s : State) (r code : Nat) : State :=
  let g := s.ring r
  let s := s.setRing r { g with stopped := true }
  let c : Compl := { Compl.of 2 with detail := 0xFF, cflags := 0x100, result := leBytes 1 code }
  let s := s.post r {
    bytes := entryBytes (s.ringVer r) (ringPart r) 0 0x2000 g.expSeq 0 (c.body 0 s.now)
    ans := none, urgent := false }
  s.evErr .host 0 1 code r r 0

/-- A ring is served: its device, its enable, no stop. -/
def State.served (s : State) (r : Nat) : Bool :=
  s.dev.state == .ready && s.hostPort && s.ringEn r && !(s.ring r).stopped

/-- PCI Express reads `n` slots of a ring: they lie within the 47-bit host bus space of Table 2.1, beyond which a read
fails (DEDUCED, log 38). -/
def State.slotsRead (s : State) (r pos n : Nat) : Bool := decide (s.ringBase r 0x00 + 64 * (pos + n) ≤ 2 ^ 47)

/-- Takes a message of `n` available slots whose bytes follow, at a slot of the ring; the conditions of R335. -/
def State.takeMsg (s : State) (r pos avail : Nat) (m : List Byte) : State × Nat :=
  let n := fld m 4 2 % 4096
  if !s.slotsRead r pos 1 then (s.ringStop r 4, 0)
  else if crc16 (slice m 0 16) ≠ fld m 6 2 then (s.ringStop r 1, 0)
  else if n = 0 ∨ avail < n ∨ s.sqSize r < pos + n then (s.ringStop r 2, 0)
  else if !s.slotsRead r pos n then (s.ringStop r 4, 0)
  else (s, n)

/-- One message of a ring is consumed. -/
def State.consume (s : State) (r : Nat) : State :=
  let used := s.sqUsed r
  let head := s.ringRg r 0x18
  if s.sqSize r < used then s.ringStop r 3
  else
    let pos := head % s.sqSize r
    let at' := s.ringBase r 0x00 + 64 * pos
    let t := s.takeMsg r pos used (s.hostBytes at' 16)
    if t.2 = 0 then t.1
    else (t.1.setRingRg r 0x18 (head + t.2)).accept r (s.hostBytes at' (64 * t.2))

/-- Serves the lowest ring that has work (DESIGN CHOICE, log 32). -/
def State.pumpOne (s : State) : Option State :=
  match (List.range 9).find? fun r => s.served r && s.sqUsed r != 0 with
  | some r => some (s.consume r)
  | none => none

/-- The rings after an access. -/
def State.serve (s : State) : State := repeatStep State.pumpOne (2 ^ 20) s

/-- Host software submits one message: it stands in the next slots of the ring, and SQ_TAIL moves over it
(DESIGN CHOICE, log 32). -/
def State.submit (s : State) (r : Nat) (m : List Byte) : State :=
  if s.served r ∧ s.sqUsed r = 0 then
    let head := s.ringRg r 0x18
    let n := m.length / 64
    let s := s.setRingRg r 0x14 (head + n)
    if s.sqSize r < n then s.ringStop r 3
    else
      let t := s.takeMsg r (head % s.sqSize r) n m
      if t.2 = 0 then t.1
      else ((t.1.setRingRg r 0x18 (head + t.2)).accept r (m.take (64 * t.2))).serve
  else s

/-- The command of a message: it arrives with the row's opcode. -/
def State.msgRow (s : State) (op r : Nat) (m : List Byte) : Host.Outcome State Fault Refusal :=
  .next (if fld m 2 2 = op then s.submit r m else s)

def execHello (ring : Nat) (msg : List Byte) (s : State) : Host.Outcome State Fault Refusal := s.msgRow 0x001 ring msg
def execNop (ring : Nat) (msg : List Byte) (s : State) : Host.Outcome State Fault Refusal := s.msgRow 0x003 ring msg
def execFence (ring : Nat) (msg : List Byte) (s : State) : Host.Outcome State Fault Refusal := s.msgRow 0x004 ring msg
def execRegRead (ring : Nat) (msg : List Byte) (s : State) : Host.Outcome State Fault Refusal := s.msgRow 0x010 ring msg
def execRegWrite (ring : Nat) (msg : List Byte) (s : State) : Host.Outcome State Fault Refusal := s.msgRow 0x011 ring msg
def execPartCfg (ring : Nat) (msg : List Byte) (s : State) : Host.Outcome State Fault Refusal := s.msgRow 0x100 ring msg
def execPartLoad (ring : Nat) (msg : List Byte) (s : State) : Host.Outcome State Fault Refusal := s.msgRow 0x101 ring msg
def execPartPause (ring : Nat) (msg : List Byte) (s : State) : Host.Outcome State Fault Refusal := s.msgRow 0x102 ring msg
def execPartResume (ring : Nat) (msg : List Byte) (s : State) : Host.Outcome State Fault Refusal := s.msgRow 0x103 ring msg
def execPartRelease (ring : Nat) (msg : List Byte) (s : State) : Host.Outcome State Fault Refusal := s.msgRow 0x104 ring msg
def execPartReset (ring : Nat) (msg : List Byte) (s : State) : Host.Outcome State Fault Refusal := s.msgRow 0x105 ring msg
def execMemAlloc (ring : Nat) (msg : List Byte) (s : State) : Host.Outcome State Fault Refusal := s.msgRow 0x110 ring msg
def execMemFree (ring : Nat) (msg : List Byte) (s : State) : Host.Outcome State Fault Refusal := s.msgRow 0x111 ring msg
def execTeacherSeal (ring : Nat) (msg : List Byte) (s : State) : Host.Outcome State Fault Refusal := s.msgRow 0x118 ring msg
def execTeacherUnseal (ring : Nat) (msg : List Byte) (s : State) : Host.Outcome State Fault Refusal := s.msgRow 0x119 ring msg
def execEpochSet (ring : Nat) (msg : List Byte) (s : State) : Host.Outcome State Fault Refusal := s.msgRow 0x402 ring msg
def execTapRelease (ring : Nat) (msg : List Byte) (s : State) : Host.Outcome State Fault Refusal := s.msgRow 0x413 ring msg
def execSvCfg (ring : Nat) (msg : List Byte) (s : State) : Host.Outcome State Fault Refusal := s.msgRow 0x500 ring msg
def execSvSubmit (ring : Nat) (msg : List Byte) (s : State) : Host.Outcome State Fault Refusal := s.msgRow 0x502 ring msg
def execSvCancel (ring : Nat) (msg : List Byte) (s : State) : Host.Outcome State Fault Refusal := s.msgRow 0x503 ring msg
def execSvForget (ring : Nat) (msg : List Byte) (s : State) : Host.Outcome State Fault Refusal := s.msgRow 0x504 ring msg

/-- IRQ_MOD.TIMER expires (R333). -/
def execIrqTimer (ring : Nat) (s : State) : Host.Outcome State Fault Refusal :=
  let m := s.ringRg ring 0x24
  if bits m 7 0 ≠ 0 ∧ bits m 23 8 ≠ 0 ∧ (s.ring ring).irqCnt ≠ 0 ∧ s.ringRg ring 0x1C ≠ s.ringRg ring 0x20 then
    .next (s.irqFire ring)
  else .next s

/-! ## Commands that are register accesses -/

/-- A 4-byte write at an offset of a page, then the rings are served. -/
def State.pageWrite (s : State) (init : Nat) (k : PageKind) (i off : Nat) (v : Word) : Host.Outcome State Fault Refusal :=
  .next (s.writeAccess init (pageNo k i * 0x1000 + off) 4 (v.zeroExtend 64)).serve

def execRegisterRead (init off size : Nat) (s : State) : Host.Outcome State Fault Refusal := .next (s.readAccess init off size)
def execRegisterWrite (init off size : Nat) (v : BitVec 64) (s : State) : Host.Outcome State Fault Refusal :=
  .next (s.writeAccess init off size v).serve
def execGlbFenceRead (init : Nat) (s : State) : Host.Outcome State Fault Refusal := .next (s.readAccess init 0x40 4)
def execLoReadCapture (init off : Nat) (s : State) : Host.Outcome State Fault Refusal := .next (s.readAccess init off 4)
def execHiWriteCommit (init off : Nat) (v : Word) (s : State) : Host.Outcome State Fault Refusal :=
  .next (s.writeAccess init off 4 (v.zeroExtend 64)).serve

/-- A write of a header register of the page of a number. -/
def State.hdrWrite (s : State) (init page off : Nat) (v : Word) : Host.Outcome State Fault Refusal :=
  .next (s.writeAccess init (page * 0x1000 + off) 4 (v.zeroExtend 64)).serve

/-- Limits that partitions pass as FH_ALERT is set (R66): their bits of FH_ALERT_PART. -/
def State.alerts (s : State) (k : PageKind) (i : Nat) (set : Bool) (parts : Nat) : State :=
  if k = .pyro ∧ set then s.setPg .pyro i 0x860 (s.pg .pyro i 0x860 ||| parts % 256) else s

/-- A write of a header register in one cycle with hardware sets of event bits of its page (R36 to R38): `arg` gives the
word written, from the bits that hardware sets, which are set beside it. A page without a clock has no events. -/
def State.hdrRace (s : State) (init page off : Nat) (arg : Word → Word) (v : HdrWrite) : Host.Outcome State Fault Refusal :=
  match pageOf page with
  | some (k, i) =>
    let h := if s.gated k i then 0 else s.hwBits k i (v.hw &&& w32 (evtMask k))
    .next ((((s.writeAccess init (page * 0x1000 + off) 4 ((arg h).zeroExtend 64)).hwSets k i h.toNat).alerts k i
      (h.getLsbD 16) v.parts).serve)
  | none => s.hdrWrite init page off (arg 0)

/-- W1C of events: a bit that hardware sets in the same cycle stays 1 and is counted, and ERR keeps the log with
OVERFLOW 1. -/
def execBlkEvtClear (init page : Nat) (v : HdrWrite) (s : State) : Host.Outcome State Fault Refusal :=
  s.hdrRace init page 0x14 (fun h => v.v &&& ~~~h) v
/-- W1S of events: sets of one bit in one cycle are one set. -/
def execBlkEvtSet (init page : Nat) (v : HdrWrite) (s : State) : Host.Outcome State Fault Refusal :=
  s.hdrRace init page 0x1C (fun h => v.v &&& ~~~h) v
def execBlkEvtEnWrite (init page : Nat) (v : Word) (s : State) : Host.Outcome State Fault Refusal := s.hdrWrite init page 0x18 v
/-- SRST and CNT_CLR are fields of BLK_CTRL; the row writes the word with its own field set. -/
def execSrst (init page : Nat) (v : Word) (s : State) : Host.Outcome State Fault Refusal := s.hdrWrite init page 0x0C (v ||| 2)
/-- The clear comes before a set of the same cycle is counted (R37). -/
def execCntClr (init page : Nat) (v : HdrWrite) (s : State) : Host.Outcome State Fault Refusal :=
  s.hdrRace init page 0x0C (fun _ => v.v ||| 8) v
/-- PERF_CLR of a page that has one. -/
def execPerfClr (init page : Nat) (v : Word) (s : State) : Host.Outcome State Fault Refusal :=
  match (pageOf page).bind fun e => perfRegs e.1 with
  | some (off, _) => s.hdrWrite init page off v
  | none => .next s

def execDoorbell (init ring : Nat) (v : Word) (s : State) : Host.Outcome State Fault Refusal :=
  s.pageWrite init .host 0 (ringOff ring 0x14) v
def execRingCfgEn (init ring : Nat) (v : Word) (s : State) : Host.Outcome State Fault Refusal :=
  s.pageWrite init .host 0 (ringOff ring 0x10) v
/-- RST is a field of RING_CFG. -/
def execRingCfgRst (init ring : Nat) (v : Word) (s : State) : Host.Outcome State Fault Refusal :=
  s.pageWrite init .host 0 (ringOff ring 0x10) (v ||| 0x20000)
def execCqHeadWrite (init ring : Nat) (v : Word) (s : State) : Host.Outcome State Fault Refusal :=
  s.pageWrite init .host 0 (ringOff ring 0x1C) v
def execDevRst (init : Nat) (v : Word) (s : State) : Host.Outcome State Fault Refusal := s.pageWrite init .mgt 0 0x60 v
/-- TRAIN, DOWN and MODE are fields of PORT_CFG. -/
def execPortCfgTrain (init port : Nat) (v : Word) (s : State) : Host.Outcome State Fault Refusal :=
  s.pageWrite init .port port 0x40 (v ||| 4)
def execPortCfgDown (init port : Nat) (v : Word) (s : State) : Host.Outcome State Fault Refusal :=
  s.pageWrite init .port port 0x40 (v ||| 8)
def execPortCfgModeWrite (init port : Nat) (v : Word) (s : State) : Host.Outcome State Fault Refusal :=
  s.pageWrite init .port port 0x40 v
def execDevIdWrite (init port : Nat) (v : Word) (s : State) : Host.Outcome State Fault Refusal := s.pageWrite init .port port 0x4C v
def execEthSegWrite (init port : Nat) (v : Word) (s : State) : Host.Outcome State Fault Refusal := s.pageWrite init .port port 0xBC v
def execEthRtoWrite (init port : Nat) (v : Word) (s : State) : Host.Outcome State Fault Refusal := s.pageWrite init .port port 0xC0 v
def execFhClr (init die : Nat) (v : Word) (s : State) : Host.Outcome State Fault Refusal := s.pageWrite init .pyro die 0x81C v
def execSplogClr (init : Nat) (v : Word) (s : State) : Host.Outcome State Fault Refusal := s.pageWrite init .pyro 0 0x78 v
def execSpruePcfgWrite (init die q : Nat) (v : Word) (s : State) : Host.Outcome State Fault Refusal :=
  s.pageWrite init .sprue die (0x44 + 0x20 * q) v
def execSprueTrecWrite (init die q : Nat) (v : Word) (s : State) : Host.Outcome State Fault Refusal :=
  s.pageWrite init .sprue die (0x48 + 0x20 * q) v
def execGovCfgWrite (init stack : Nat) (v : Word) (s : State) : Host.Outcome State Fault Refusal := s.pageWrite init .stack stack 0x50 v
def execArraySetWrite (init die : Nat) (v : Word) (s : State) : Host.Outcome State Fault Refusal := s.pageWrite init .clk die 0x44 v
def execProgCmd (init die : Nat) (v : Word) (s : State) : Host.Outcome State Fault Refusal := s.pageWrite init .otp die 0x54 v
def execChallenge (init : Nat) (s : State) : Host.Outcome State Fault Refusal := s.pageWrite init .dbg 0 0x48 1
def execVerifyKey (init : Nat) (s : State) : Host.Outcome State Fault Refusal := s.pageWrite init .dbg 0 0x48 2
def execVerifyPwd (init : Nat) (s : State) : Host.Outcome State Fault Refusal := s.pageWrite init .dbg 0 0x48 3
def execClose (init : Nat) (s : State) : Host.Outcome State Fault Refusal := s.pageWrite init .dbg 0 0x48 4
def execDbgHalt (init : Nat) (s : State) : Host.Outcome State Fault Refusal := s.pageWrite init .dbg 0 0xC4 1
def execDbgStep (init : Nat) (s : State) : Host.Outcome State Fault Refusal := s.pageWrite init .dbg 0 0xC4 2
def execDbgResume (init : Nat) (s : State) : Host.Outcome State Fault Refusal := s.pageWrite init .dbg 0 0xC4 3
def execDbgArmBreakpoint (init : Nat) (s : State) : Host.Outcome State Fault Refusal := s.pageWrite init .dbg 0 0xC4 4
def execSeqDataWrite (init : Nat) (v : Word) (s : State) : Host.Outcome State Fault Refusal := s.pageWrite init .dbg 0 0xD0 v

end Sys2Proof.Machine
end

