-- ==== Sys2Proof/Machine/Dispatch.lean ====
section
/-! DEFINITION. The effect of a command on everything but the queue: one arm per command. -/
namespace Sys2Proof.Machine

/-- The outcome of a command. -/
def exec (i : Instr) (s : State) : Host.Outcome State Fault Refusal :=
  match i with
  | .sysRstNAssert ns => Sys2Proof.Machine.execSysRstNAssert ns s
  | .sysRstNRelease selW selE => Sys2Proof.Machine.execSysRstNRelease selW selE s
  | .pciePerstNAssert ns secondaryBus => Sys2Proof.Machine.execPciePerstNAssert ns secondaryBus s
  | .pciePerstNRelease => Sys2Proof.Machine.execPciePerstNRelease s
  | .powerOff => Sys2Proof.Machine.execPowerOff s
  | .trstNAssert => Sys2Proof.Machine.execTrstNAssert s
  | .pllLock maskW maskE => Sys2Proof.Machine.execPllLock maskW maskE s
  | .otpSense => Sys2Proof.Machine.execOtpSense s
  | .assayFull fails => Sys2Proof.Machine.execAssayFull fails s
  | .stackTraining failedStacks failedChannels => Sys2Proof.Machine.execStackTraining failedStacks failedChannels s
  | .partingLineTraining failed => Sys2Proof.Machine.execPartingLineTraining failed s
  | .authorityEstablished => Sys2Proof.Machine.execAuthorityEstablished s
  | .bringupPhaseTimeout detail => Sys2Proof.Machine.execBringupPhaseTimeout detail s
  | .devRst init v => Sys2Proof.Machine.execDevRst init v s
  | .authTick die => Sys2Proof.Machine.execAuthTick die s
  | .authWordReceived die w => Sys2Proof.Machine.execAuthWordReceived die w s
  | .pyroSample die samples => Sys2Proof.Machine.execPyroSample die samples s
  | .governorFrame stack tDram tBase => Sys2Proof.Machine.execGovernorFrame stack tDram tBase s
  | .assaySlice relocking => Sys2Proof.Machine.execAssaySlice relocking s
  | .assayResult target result => Sys2Proof.Machine.execAssayResult target result s
  | .pllUnlock die dom => Sys2Proof.Machine.execPllUnlock die dom s
  | .plCycleReceived die c crcOk => Sys2Proof.Machine.execPlCycleReceived die c crcOk s
  | .plResend die cls => Sys2Proof.Machine.execPlResend die cls s
  | .doorbell init ring v => Sys2Proof.Machine.execDoorbell init ring v s
  | .ringCfgEn init ring v => Sys2Proof.Machine.execRingCfgEn init ring v s
  | .ringCfgRst init ring v => Sys2Proof.Machine.execRingCfgRst init ring v s
  | .cqHeadWrite init ring v => Sys2Proof.Machine.execCqHeadWrite init ring v s
  | .irqTimer ring => Sys2Proof.Machine.execIrqTimer ring s
  | .hello ring msg => Sys2Proof.Machine.execHello ring msg s
  | .nop ring msg => Sys2Proof.Machine.execNop ring msg s
  | .fence ring msg => Sys2Proof.Machine.execFence ring msg s
  | .regRead ring msg => Sys2Proof.Machine.execRegRead ring msg s
  | .regWrite ring msg => Sys2Proof.Machine.execRegWrite ring msg s
  | .partCfg ring msg => Sys2Proof.Machine.execPartCfg ring msg s
  | .partLoad ring msg => Sys2Proof.Machine.execPartLoad ring msg s
  | .partPause ring msg => Sys2Proof.Machine.execPartPause ring msg s
  | .partResume ring msg => Sys2Proof.Machine.execPartResume ring msg s
  | .partRelease ring msg => Sys2Proof.Machine.execPartRelease ring msg s
  | .drainComplete p => Sys2Proof.Machine.execDrainComplete p s
  | .partReset ring msg => Sys2Proof.Machine.execPartReset ring msg s
  | .memAlloc ring msg => Sys2Proof.Machine.execMemAlloc ring msg s
  | .memFree ring msg => Sys2Proof.Machine.execMemFree ring msg s
  | .granuleRelease stack g => Sys2Proof.Machine.execGranuleRelease stack g s
  | .scrubDone stack g => Sys2Proof.Machine.execScrubDone stack g s
  | .memCopy p c => Sys2Proof.Machine.execMemCopy p c s
  | .teacherSeal ring msg => Sys2Proof.Machine.execTeacherSeal ring msg s
  | .teacherUnseal ring msg => Sys2Proof.Machine.execTeacherUnseal ring msg s
  | .commandReady p q => Sys2Proof.Machine.execCommandReady p q s
  | .quenchSaveDone p c => Sys2Proof.Machine.execQuenchSaveDone p c s
  | .quenchRestoreDone p c => Sys2Proof.Machine.execQuenchRestoreDone p c s
  | .commandComplete p c => Sys2Proof.Machine.execCommandComplete p c s
  | .dvfsApply die => Sys2Proof.Machine.execDvfsApply die s
  | .mgGemm p c => Sys2Proof.Machine.execMgGemm p c s
  | .mgAttnFwd p c => Sys2Proof.Machine.execMgAttnFwd p c s
  | .mgAttnBwd p c => Sys2Proof.Machine.execMgAttnBwd p c s
  | .mgKernel p c => Sys2Proof.Machine.execMgKernel p c s
  | .mgVec p c => Sys2Proof.Machine.execMgVec p c s
  | .cgGemm p c => Sys2Proof.Machine.execCgGemm p c s
  | .cgLogit p c => Sys2Proof.Machine.execCgLogit p c s
  | .cgAttn p c => Sys2Proof.Machine.execCgAttn p c s
  | .cgVec p c => Sys2Proof.Machine.execCgVec p c s
  | .cgKernel p c => Sys2Proof.Machine.execCgKernel p c s
  | .logitUnitOffer p c i0 j => Sys2Proof.Machine.execLogitUnitOffer p c i0 j s
  | .sprueUnitAdmit die p mb b j => Sys2Proof.Machine.execSprueUnitAdmit die p mb b j s
  | .spLoss p c => Sys2Proof.Machine.execSpLoss p c s
  | .spFeat p c => Sys2Proof.Machine.execSpFeat p c s
  | .fmQueueStart stack p => Sys2Proof.Machine.execFmQueueStart stack p s
  | .fmUpdate p c => Sys2Proof.Machine.execFmUpdate p c s
  | .flaskMarkRelease p c stack g => Sys2Proof.Machine.execFlaskMarkRelease p c stack g s
  | .fmAmax p c => Sys2Proof.Machine.execFmAmax p c s
  | .fmGather p c => Sys2Proof.Machine.execFmGather p c s
  | .fmEf p c => Sys2Proof.Machine.execFmEf p c s
  | .fmAttn p c => Sys2Proof.Machine.execFmAttn p c s
  | .fmGemv p c => Sys2Proof.Machine.execFmGemv p c s
  | .stackTransaction tag addr len write data ecc => Sys2Proof.Machine.execStackTransaction tag addr len write data ecc s
  | .unitFail stack unit code => Sys2Proof.Machine.execUnitFail stack unit code s
  | .coreFailure cl kind idx => Sys2Proof.Machine.execCoreFailure cl kind idx s
  | .tileFailure tile kind info => Sys2Proof.Machine.execTileFailure tile kind info s
  | .sprueSramUe die seg => Sys2Proof.Machine.execSprueSramUe die seg s
  | .ladleSramUe die buf => Sys2Proof.Machine.execLadleSramUe die buf s
  | .ldReduce p c => Sys2Proof.Machine.execLdReduce p c s
  | .ldGather p c => Sys2Proof.Machine.execLdGather p c s
  | .epochSet ring msg => Sys2Proof.Machine.execEpochSet ring msg s
  | .memberLost p dev => Sys2Proof.Machine.execMemberLost p dev s
  | .probeDue p dev => Sys2Proof.Machine.execProbeDue p dev s
  | .stepCfg p c => Sys2Proof.Machine.execStepCfg p c s
  | .stepOpen p c => Sys2Proof.Machine.execStepOpen p c s
  | .stepSeal p c => Sys2Proof.Machine.execStepSeal p c s
  | .sealEntry p => Sys2Proof.Machine.execSealEntry p s
  | .sealComplete p => Sys2Proof.Machine.execSealComplete p s
  | .sealTimeout p => Sys2Proof.Machine.execSealTimeout p s
  | .tapRelease ring msg => Sys2Proof.Machine.execTapRelease ring msg s
  | .ckptSave p c => Sys2Proof.Machine.execCkptSave p c s
  | .ckptLoad p c => Sys2Proof.Machine.execCkptLoad p c s
  | .svCfg ring msg => Sys2Proof.Machine.execSvCfg ring msg s
  | .svVariantLoad p c => Sys2Proof.Machine.execSvVariantLoad p c s
  | .svSubmit ring msg => Sys2Proof.Machine.execSvSubmit ring msg s
  | .svCancel ring msg => Sys2Proof.Machine.execSvCancel ring msg s
  | .svForget ring msg => Sys2Proof.Machine.execSvForget ring msg s
  | .stepBoundary p => Sys2Proof.Machine.execStepBoundary p s
  | .servingWalk p req logits drafts => Sys2Proof.Machine.execServingWalk p req logits drafts s
  | .kvCopyDone p req => Sys2Proof.Machine.execKvCopyDone p req s
  | .kvRestoreDone p req => Sys2Proof.Machine.execKvRestoreDone p req s
  | .partitionFault p typ inst code => Sys2Proof.Machine.execPartitionFault p typ inst code s
  | .teardownComplete p => Sys2Proof.Machine.execTeardownComplete p s
  | .alu u => Sys2Proof.Machine.execAlu u s
  | .fpu u => Sys2Proof.Machine.execFpu u s
  | .cmp u => Sys2Proof.Machine.execCmp u s
  | .plog u => Sys2Proof.Machine.execPlog u s
  | .sel u => Sys2Proof.Machine.execSel u s
  | .addi u => Sys2Proof.Machine.execAddi u s
  | .andi u => Sys2Proof.Machine.execAndi u s
  | .ori u => Sys2Proof.Machine.execOri u s
  | .xori u => Sys2Proof.Machine.execXori u s
  | .shi u => Sys2Proof.Machine.execShi u s
  | .lui u => Sys2Proof.Machine.execLui u s
  | .cmpi u => Sys2Proof.Machine.execCmpi u s
  | .ldw u => Sys2Proof.Machine.execLdw u s
  | .stw u => Sys2Proof.Machine.execStw u s
  | .br u => Sys2Proof.Machine.execBr u s
  | .brp u => Sys2Proof.Machine.execBrp u s
  | .jal u => Sys2Proof.Machine.execJal u s
  | .jr u => Sys2Proof.Machine.execJr u s
  | .dbnz u => Sys2Proof.Machine.execDbnz u s
  | .arr u => Sys2Proof.Machine.execArr u s
  | .arrOperandsRead u n => Sys2Proof.Machine.execArrOperandsRead u n s
  | .drn u => Sys2Proof.Machine.execDrn u s
  | .drnRowsWritten u n => Sys2Proof.Machine.execDrnRowsWritten u n s
  | .budget u cycles => Sys2Proof.Machine.execBudget u cycles s
  | .rpush u => Sys2Proof.Machine.execRpush u s
  | .runnerDescriptorStart u => Sys2Proof.Machine.execRunnerDescriptorStart u s
  | .runnerDescriptorDone u => Sys2Proof.Machine.execRunnerDescriptorDone u s
  | .wait u => Sys2Proof.Machine.execWait u s
  | .sig u => Sys2Proof.Machine.execSig u s
  | .poll u => Sys2Proof.Machine.execPoll u s
  | .bar u => Sys2Proof.Machine.execBar u s
  | .barrierRelease u => Sys2Proof.Machine.execBarrierRelease u s
  | .sysNop u => Sys2Proof.Machine.execSysNop u s
  | .halt u => Sys2Proof.Machine.execHalt u s
  | .trap u => Sys2Proof.Machine.execTrap u s
  | .brk u => Sys2Proof.Machine.execBrk u s
  | .rdsr u => Sys2Proof.Machine.execRdsr u s
  | .waite u => Sys2Proof.Machine.execWaite u s
  | .sequencerHalt u => Sys2Proof.Machine.execSequencerHalt u s
  | .add u => Sys2Proof.Machine.execAdd u s
  | .sub u => Sys2Proof.Machine.execSub u s
  | .mul u => Sys2Proof.Machine.execMul u s
  | .min u => Sys2Proof.Machine.execMin u s
  | .max u => Sys2Proof.Machine.execMax u s
  | .fma u => Sys2Proof.Machine.execFma u s
  | .fill u => Sys2Proof.Machine.execFill u s
  | .cvt u => Sys2Proof.Machine.execCvt u s
  | .neg u => Sys2Proof.Machine.execNeg u s
  | .abs u => Sys2Proof.Machine.execAbs u s
  | .exp2 u => Sys2Proof.Machine.execExp2 u s
  | .log2 u => Sys2Proof.Machine.execLog2 u s
  | .recip u => Sys2Proof.Machine.execRecip u s
  | .rsqrt u => Sys2Proof.Machine.execRsqrt u s
  | .cmplt u => Sys2Proof.Machine.execCmplt u s
  | .cmple u => Sys2Proof.Machine.execCmple u s
  | .cmpeq u => Sys2Proof.Machine.execCmpeq u s
  | .cmpne u => Sys2Proof.Machine.execCmpne u s
  | .select u => Sys2Proof.Machine.execSelect u s
  | .mkcausal u => Sys2Proof.Machine.execMkcausal u s
  | .rsum u => Sys2Proof.Machine.execRsum u s
  | .rmax u => Sys2Proof.Machine.execRmax u s
  | .rmin u => Sys2Proof.Machine.execRmin u s
  | .rcnt u => Sys2Proof.Machine.execRcnt u s
  | .rargmax u => Sys2Proof.Machine.execRargmax u s
  | .rargmin u => Sys2Proof.Machine.execRargmin u s
  | .rmaxsum u => Sys2Proof.Machine.execRmaxsum u s
  | .csum u => Sys2Proof.Machine.execCsum u s
  | .cmax u => Sys2Proof.Machine.execCmax u s
  | .fanadd u => Sys2Proof.Machine.execFanadd u s
  | .scale u => Sys2Proof.Machine.execScale u s
  | .compress u => Sys2Proof.Machine.execCompress u s
  | .expand u => Sys2Proof.Machine.execExpand u s
  | .permute u => Sys2Proof.Machine.execPermute u s
  | .gather u => Sys2Proof.Machine.execGather u s
  | .softblk u => Sys2Proof.Machine.execSoftblk u s
  | .attnNorm u => Sys2Proof.Machine.execAttnNorm u s
  | .tundishOpComplete u => Sys2Proof.Machine.execTundishOpComplete u s
  | .portCfgTrain init port v => Sys2Proof.Machine.execPortCfgTrain init port v s
  | .portTrained port => Sys2Proof.Machine.execPortTrained port s
  | .portCfgDown init port v => Sys2Proof.Machine.execPortCfgDown init port v s
  | .portCfgModeWrite init port v => Sys2Proof.Machine.execPortCfgModeWrite init port v s
  | .devIdWrite init port v => Sys2Proof.Machine.execDevIdWrite init port v s
  | .ethSegWrite init port v => Sys2Proof.Machine.execEthSegWrite init port v s
  | .ethRtoWrite init port v => Sys2Proof.Machine.execEthRtoWrite init port v s
  | .flitNak port seq => Sys2Proof.Machine.execFlitNak port seq s
  | .flitReceiveFail port undecodable => Sys2Proof.Machine.execFlitReceiveFail port undecodable s
  | .retrainDone port => Sys2Proof.Machine.execRetrainDone port s
  | .laneFail port lane cause => Sys2Proof.Machine.execLaneFail port lane cause s
  | .laneControl port lane op => Sys2Proof.Machine.execLaneControl port lane op s
  | .ethFrame port half frame => Sys2Proof.Machine.execEthFrame port half frame s
  | .ethResendTimeout port tag => Sys2Proof.Machine.execEthResendTimeout port tag s
  | .linkHello port msg => Sys2Proof.Machine.execLinkHello port msg s
  | .linkHelloAck port msg => Sys2Proof.Machine.execLinkHelloAck port msg s
  | .ack port msg => Sys2Proof.Machine.execAck port msg s
  | .probe port msg => Sys2Proof.Machine.execProbe port msg s
  | .probeAck port msg => Sys2Proof.Machine.execProbeAck port msg s
  | .noRoute port msg => Sys2Proof.Machine.execNoRoute port msg s
  | .ldPreUp port m => Sys2Proof.Machine.execLdPreUp port m s
  | .ldPreDown port m => Sys2Proof.Machine.execLdPreDown port m s
  | .ldSeg port m => Sys2Proof.Machine.execLdSeg port m s
  | .ldGseg port m => Sys2Proof.Machine.execLdGseg port m s
  | .ldSealUp port m => Sys2Proof.Machine.execLdSealUp port m s
  | .ldSealDown port m => Sys2Proof.Machine.execLdSealDown port m s
  | .storeWrite port msg => Sys2Proof.Machine.execStoreWrite port msg s
  | .storeRead port msg => Sys2Proof.Machine.execStoreRead port msg s
  | .storeData port msg => Sys2Proof.Machine.execStoreData port msg s
  | .storeAck port msg => Sys2Proof.Machine.execStoreAck port msg s
  | .registerWrite init off size v => Sys2Proof.Machine.execRegisterWrite init off size v s
  | .blkEvtClear init page v => Sys2Proof.Machine.execBlkEvtClear init page v s
  | .blkEvtSet init page v => Sys2Proof.Machine.execBlkEvtSet init page v s
  | .blkEvtEnWrite init page v => Sys2Proof.Machine.execBlkEvtEnWrite init page v s
  | .srst init page v => Sys2Proof.Machine.execSrst init page v s
  | .cntClr init page v => Sys2Proof.Machine.execCntClr init page v s
  | .perfClr init page v => Sys2Proof.Machine.execPerfClr init page v s
  | .glbFenceRead init => Sys2Proof.Machine.execGlbFenceRead init s
  | .loReadCapture init off => Sys2Proof.Machine.execLoReadCapture init off s
  | .hiWriteCommit init off v => Sys2Proof.Machine.execHiWriteCommit init off v s
  | .fhClr init die v => Sys2Proof.Machine.execFhClr init die v s
  | .splogClr init v => Sys2Proof.Machine.execSplogClr init v s
  | .spruePcfgWrite init die q v => Sys2Proof.Machine.execSpruePcfgWrite init die q v s
  | .sprueTrecWrite init die q v => Sys2Proof.Machine.execSprueTrecWrite init die q v s
  | .govCfgWrite init stack v => Sys2Proof.Machine.execGovCfgWrite init stack v s
  | .arraySetWrite init die v => Sys2Proof.Machine.execArraySetWrite init die v s
  | .progCmd init die v => Sys2Proof.Machine.execProgCmd init die v s
  | .otpBurnDone die verified => Sys2Proof.Machine.execOtpBurnDone die verified s
  | .challenge init => Sys2Proof.Machine.execChallenge init s
  | .verifyKey init => Sys2Proof.Machine.execVerifyKey init s
  | .verifyPwd init => Sys2Proof.Machine.execVerifyPwd init s
  | .authVerdict => Sys2Proof.Machine.execAuthVerdict s
  | .close init => Sys2Proof.Machine.execClose init s
  | .nonceExpiry => Sys2Proof.Machine.execNonceExpiry s
  | .dbgHalt init => Sys2Proof.Machine.execDbgHalt init s
  | .dbgStep init => Sys2Proof.Machine.execDbgStep init s
  | .dbgResume init => Sys2Proof.Machine.execDbgResume init s
  | .dbgArmBreakpoint init => Sys2Proof.Machine.execDbgArmBreakpoint init s
  | .seqDataWrite init v => Sys2Proof.Machine.execSeqDataWrite init v s
  | .extest die => Sys2Proof.Machine.execExtest die s
  | .samplePreload die pins preload => Sys2Proof.Machine.execSamplePreload die pins preload s
  | .idcode die => Sys2Proof.Machine.execIdcode die s
  | .clamp die => Sys2Proof.Machine.execClamp die s
  | .highz die => Sys2Proof.Machine.execHighz die s
  | .extestPulse die => Sys2Proof.Machine.execExtestPulse die s
  | .extestTrain die => Sys2Proof.Machine.execExtestTrain die s
  | .bootRead => Sys2Proof.Machine.execBootRead s
  | .regAccess dr => Sys2Proof.Machine.execRegAccess dr s
  | .bypass die => Sys2Proof.Machine.execBypass die s
  | .powerUp otpW otpE => Sys2Proof.Machine.execPowerUp otpW otpE s
  | .registerRead init off size => Sys2Proof.Machine.execRegisterRead init off size s
  | .arrPassComplete u n => Sys2Proof.Machine.execArrPassComplete u n s
  | .fumaroleSlotBoundary stack => Sys2Proof.Machine.execFumaroleSlotBoundary stack s
  | .flitAccepted port flit => Sys2Proof.Machine.execFlitAccepted port flit s
  | .laneSerWindowEnd port => Sys2Proof.Machine.execLaneSerWindowEnd port s
  | .unknownFabricOpcode port msg => Sys2Proof.Machine.execUnknownFabricOpcode port msg s
  | .storeTimeout p c => Sys2Proof.Machine.execStoreTimeout p c s

end Sys2Proof.Machine
end

