-- ==== Sys2Proof/Safety.lean ====
section
/-! DEFINITION. What a safe state and a safe run are. -/
namespace Sys2Proof.Machine

/-- Memory is in its canonical form: addresses strictly rising, no entry that reads as an unlisted
byte does. -/
def Memory.wf (m : List Host.Cell) : Bool := twf 0 m

/-- Keys strictly rise, and no entry equals the default of its key. -/
def Rising {α : Type} (d : Nat → α) (t : Tbl α) : Prop :=
  (∀ e ∈ t, e.2 ≠ d e.1) ∧ t.Pairwise (fun a b => a.1 < b.1)

/-- Canonical tables of the register access. -/
structure Bus.Canon (b : Bus) : Prop where
  regs : Rising resetAt b.regs
  hi : twf none b.hiCap = true
  lo : twf none b.loHeld = true
  read : twf 0 b.readData = true

/-- Canonical tables of the stacks. -/
structure Stacks.Canon (x : Stacks) : Prop where
  st : twf .reset x.st = true
  gran : twf .free x.gran = true

/-- Canonical tables: device memory, units, partitions, rings, ports, boundary-scan ports, stacks and
granules, fuse words and the register access (keys strictly rising, no default listed), so that equal
contents are equal data. -/
structure State.Canon (s : State) : Prop where
  mem : Memory.wf s.mem = true
  units : twf .reset s.units = true
  parts : twf .empty s.parts = true
  rings : twf .reset s.rings = true
  taps : twf .reset s.taps = true
  west : twf 0 s.west.otp.words = true
  east : twf 0 s.east.otp.words = true
  bus : s.bus.Canon
  stk : s.stk.Canon
  ports : twf .reset s.fabric.ports = true

/-- No fuse bit of `x` that reads 1 reads 0 in `y` (R379). -/
def Otp.Grows (x y : Otp) : Prop := ∀ n, tget 0 x.words n &&& tget 0 y.words n = tget 0 x.words n

/-- The step completes. -/
def Completes (s : State) : Prop := ∃ t, step s = .next t

end Sys2Proof.Machine
end

