-- ==== Sys2Proof/Certificates/Slice0/Obligations.lean ====
section
/-! DEFINITION. The statements about the device. The first part of each section holds the shorthands its
statements use: what the spec's tables say, written apart from the model's own definitions where that is
possible. Statements that say when a command completes have `exec c s = .next t` as their conclusion. -/
open Sys2Proof Sys2Proof.Machine

/-! ## The block as a whole -/

/-- A step takes the command at the front of the queue and runs it on the state with the rest. -/
def Obligations.StepRunsFront : Prop :=
  ∀ (c : Instr) (rest : List Instr) (s : State), s.pending = c :: rest →
    step s = exec c (s.setPending rest)

/-- With no command waiting a step is one nanosecond of device time, and nothing else: the model's choice
(DESIGN CHOICE, log 2). -/
def Stated.EmptyQueueCountsTime : Prop :=
  ∀ s : State, s.pending = [] → ∃ t, step s = .next t ∧
    t = { s with dev := { s.dev with time := if s.dev.timeRun then s.dev.time + 1 else s.dev.time } }

/-- Right after reset: no command waits, the device is in RESET with SYS_RST_N held, every partition is
EMPTY, every granule free, every ring without a HELLO, every port DOWN, every sequencer idle with its
registers and tokens 0 and P0 alone reading 1, no debug access, and every table in canonical form. That a
sequencer's registers and tokens read 0 and that every byte reads 0 are the model's choices (DESIGN CHOICE, logs 4 and 5). -/
def Obligations.ResetState : Prop :=
  State.reset.Canon ∧ State.reset.pending = [] ∧ State.reset.dev.state = .reset ∧
    State.reset.dev.sysRst = true ∧ State.reset.dev.hostRdy = false ∧
    (∀ p, (State.reset.part p).st = .empty) ∧
    (∀ k, State.reset.gran k = { owner := 15, retired := false, releasing := false }) ∧
    (∀ r, (State.reset.ring r).neg = false ∧ (State.reset.ring r).stopped = false) ∧
    (∀ n, (State.reset.port n).st = .down) ∧
    (∀ u, (State.reset.unit u).run = .idle ∧ (∀ i, (State.reset.unit u).seq.S i = 0) ∧
      (∀ i, i < 8 → (State.reset.unit u).seq.P i = (i == 0)) ∧
      ∀ n, (State.reset.unit u).token n = 0) ∧
    State.reset.dbg.mode = 0 ∧ (∀ a, State.reset.byte a = 0)

/-- Every command answers a next state from every state: nothing a command meets stops the block. That an event whose
preconditions fail leaves the state as it is, and answers it, is the model's choice (DESIGN CHOICE, log 1). -/
def Obligations.EveryCommandAnswersNext : Prop := ∀ (c : Instr) (s : State), ∃ t, exec c s = .next t

/-- Every step keeps the canonical form of device memory, of the tables of units, partitions, rings, ports and
boundary-scan ports, of the stacks and their granules, of both dies' fuse words and of the register access. The tables
within an entry of these (slots of a stack, credits of a port, rows of a unit), the stack queues and the routes are not
among them. -/
def Obligations.EveryStepKeepsCanonicalForm : Prop :=
  ∀ s t : State, s.Canon → step s = .next t → t.Canon

/-- No command touches the queue: a step takes the front command off it and leaves the rest as it was. -/
def Stated.CommandsLeaveTheQueue : Prop :=
  (∀ (c : Instr) (s t : State), exec c s = .next t → t.pending = s.pending) ∧
    ∀ s t : State, step s = .next t → t.pending = s.pending.tail

/-- The count of free values drawn never falls, so no free value is drawn twice: the model's own field
(DESIGN CHOICE, log 6). -/
def Stated.FreeValuesAreNeverDrawnAgain : Prop :=
  ∀ s t : State, step s = .next t → s.fresh ≤ t.fresh

/-- Time is all that an empty queue moves; no command touches the queue; no free value is drawn twice. -/
def Obligations.QueueTimeAndFreeValues : Prop :=
  Stated.EmptyQueueCountsTime ∧ Stated.CommandsLeaveTheQueue ∧ Stated.FreeValuesAreNeverDrawnAgain

/-- A fuse bit that reads 1 reads 1 after every step. -/
def Obligations.FusesNeverReturnToZero : Prop :=
  ∀ s t : State, s.Canon → step s = .next t → ∀ (d n b : Nat),
    (tget 0 (s.die d).otp.words n).getLsbD b = true → (tget 0 (t.die d).otp.words n).getLsbD b = true

/-- Commands by which a host message, a register access, a pin, a reset or the debug path may reach the
debug block, the fuses or the boundary-scan ports. -/
def Stated.reachesDebug : Instr → Bool
  | .arraySetWrite .. | .authVerdict .. | .blkEvtClear .. | .blkEvtEnWrite .. | .blkEvtSet ..
  | .bootRead .. | .bypass .. | .challenge .. | .clamp .. | .close .. | .cntClr ..
  | .cqHeadWrite .. | .dbgArmBreakpoint .. | .dbgHalt .. | .dbgResume .. | .dbgStep ..
  | .devIdWrite .. | .devRst .. | .doorbell .. | .epochSet .. | .ethRtoWrite .. | .ethSegWrite ..
  | .extest .. | .extestPulse .. | .extestTrain .. | .fence .. | .fhClr .. | .govCfgWrite ..
  | .hello .. | .hiWriteCommit .. | .highz .. | .idcode .. | .memAlloc .. | .memFree ..
  | .nonceExpiry .. | .nop .. | .otpSense .. | .partCfg .. | .partLoad .. | .partPause ..
  | .partRelease .. | .partReset .. | .partResume .. | .pciePerstNAssert .. | .perfClr ..
  | .portCfgDown .. | .portCfgModeWrite .. | .portCfgTrain .. | .powerOff .. | .powerUp ..
  | .progCmd .. | .pyroSample .. | .regAccess .. | .regRead .. | .regWrite .. | .registerWrite ..
  | .ringCfgEn .. | .ringCfgRst .. | .samplePreload .. | .seqDataWrite .. | .splogClr ..
  | .spruePcfgWrite .. | .sprueTrecWrite .. | .srst .. | .svCancel .. | .svCfg .. | .svForget ..
  | .svSubmit .. | .sysRstNAssert .. | .tapRelease .. | .teacherSeal .. | .teacherUnseal ..
  | .trstNAssert .. | .verifyKey .. | .verifyPwd .. | .otpBurnDone .. => true
  | _ => false

/-- Every other command (the engines, the sequencers, the stacks, the fabric, serving, failures) leaves
the debug block, the boundary-scan ports and the fuses of both dies as they were. -/
def Obligations.EnginesNeverReachDebugOrFuses : Prop :=
  ∀ (c : Instr) (s t : State), Stated.reachesDebug c = false → exec c s = .next t →
    t.dbg = s.dbg ∧ t.taps = s.taps ∧ t.west.otp = s.west.otp ∧ t.east.otp = s.east.otp

/-! ## Sequencers: scalar instructions, branches, credits, system instructions (chapter 7) -/

/-- R format: op, rd, ra, rb, func (Table 7.2). -/
def Stated.rWord (op : BitVec 6) (rd ra rb : BitVec 5) (func : BitVec 11) : Word := op ++ rd ++ ra ++ rb ++ func
/-- I format: op, rd, ra, imm16. -/
def Stated.iWord (op : BitVec 6) (rd ra : BitVec 5) (imm : BitVec 16) : Word := op ++ rd ++ ra ++ imm
/-- Y format: op 0x30, func, rd, ra, imm10. -/
def Stated.yWord (func : BitVec 6) (rd ra : BitVec 5) (imm : BitVec 10) : Word :=
  (0x30#6 ++ func) ++ rd ++ ra ++ imm

/-- The sequencer of unit `u` comes to the word `w` and may issue it: it runs on a live die, no halt
request or breakpoint stops it, the word stands at PC, no register of it waits for a Tundish summary. -/
structure Stated.Issues (s : State) (u : Nat) (w : Word) : Prop where
  canon : s.Canon
  may : s.mayIssue u = true
  atPc : (s.unit u).imem[(s.unit u).seq.pc.toNat]? = some w
  free : (s.unit u).regsBusy w.toNat = false

/-- PC past an instruction, CYCLE advanced by its issue cycles, saturating. -/
def Stated.past (q : Seqr) (n : Nat) : Seqr := { q with pc := q.pc + 1, cycle := min (q.cycle + n) 0xFFFFFFFF }

/-- With the registers `q` the program goes on: CYCLE has not passed a budget, PC is in the program. -/
def Stated.GoesOn (x : SeqUnit) (q : Seqr) : Prop :=
  (x.ctx.budget = 0 ∨ q.cycle ≤ x.ctx.budget) ∧ q.pc.toNat < x.imem.length

/-- The command `c` of unit `u` issues `w` and leaves the registers `q`; nothing else changes. -/
def Stated.IssuesTo (c : Instr) (s : State) (u : Nat) (w : Word) (q : Seqr) : Prop :=
  Stated.Issues s u w → Stated.GoesOn (s.unit u) q →
    exec c s = .next (s.setUnit u { s.unit u with seq := q })

/-- ALU results (Table 7.4). -/
def Stated.alu (f : Nat) (a b : Word) : Word :=
  match f with
  | 0x0 => a + b | 0x1 => a - b | 0x2 => a &&& b | 0x3 => a ||| b | 0x4 => a ^^^ b
  | 0x5 => a <<< (b &&& 31) | 0x6 => a >>> (b &&& 31) | 0x7 => a.sshiftRight (b &&& 31).toNat
  | 0x8 => a * b
  | 0x9 => ((a.setWidth 64 * b.setWidth 64) >>> 32).setWidth 32
  | 0xA => ((a.signExtend 64 * b.signExtend 64) >>> 32).setWidth 32
  | 0xB => if a.toInt ≤ b.toInt then a else b
  | 0xC => if a.toNat ≤ b.toNat then a else b
  | 0xD => if a.toInt ≤ b.toInt then b else a
  | 0xE => if a.toNat ≤ b.toNat then b else a
  | _ => a.clz

/-- ALU with func 0x000 to 0x00F (rb 0 for clz): S[rd] holds the result of Table 7.4, PC and CYCLE
advance by 1, and nothing else changes. -/
def Stated.AluWritesItsResult : Prop :=
  ∀ (s : State) (u : Nat) (rd ra rb : BitVec 5) (f : BitVec 11), f.toNat < 16 →
    (f.toNat = 15 → rb = 0) →
    let q := (s.unit u).seq
    Stated.IssuesTo (.alu u) s u (Stated.rWord 1 rd ra rb f)
      ((Stated.past q 1).setS rd.toNat (Stated.alu f.toNat (q.S ra.toNat) (q.S rb.toNat)))

/-- FPU results (Table 7.4). -/
def Stated.fpu (f : Nat) (a b : Word) : Word :=
  match f with
  | 0 => fadd a b | 1 => fsub a b | 2 => fmul a b | 3 => fminw a b | 4 => fmaxw a b
  | 5 => f32 (.ofInt a.toInt)
  | 6 => BitVec.ofInt 32 ((fl a).toInt 32).1
  | 7 => a ^^^ 0x80000000#32
  | _ => a &&& 0x7FFFFFFF#32

/-- FPU with func 0x000 to 0x008: S[rd] holds the binary32 result, with the named f32 operations of the
model; fneg and fabs flip and clear the sign bit, NaN included; nothing else changes. -/
def Stated.FpuWritesItsResult : Prop :=
  ∀ (s : State) (u : Nat) (rd ra rb : BitVec 5) (f : BitVec 11), f.toNat < 9 →
    let q := (s.unit u).seq
    Stated.IssuesTo (.fpu u) s u (Stated.rWord 2 rd ra rb f)
      ((Stated.past q 1).setS rd.toNat (Stated.fpu f.toNat (q.S ra.toNat) (q.S rb.toNat)))

/-- CMP functions (R135). -/
def Stated.cmp (f : Nat) (a b : Word) : Option Bool :=
  match f with
  | 0x0 => some (decide (a = b)) | 0x1 => some (decide (a ≠ b))
  | 0x2 => some (a.slt b) | 0x3 => some (a.ult b) | 0x4 => some (!a.slt b) | 0x5 => some (!a.ult b)
  | 0x8 => some (feq a b && !((fl a).isNan || (fl b).isNan))
  | 0x9 => some (flt a b && !((fl a).isNan || (fl b).isNan))
  | 0xA => some (fle a b && !((fl a).isNan || (fl b).isNan))
  | 0xB => some ((fl a).isNan || (fl b).isNan)
  | _ => none
/-- PLOG functions (R135). -/
def Stated.plog (f : Nat) (a b : Bool) : Option Bool :=
  match f with
  | 0 => some (a && b) | 1 => some (a || b) | 2 => some (a ^^ b) | 3 => some (a && !b) | 4 => some !a
  | _ => none

/-- CMP, CMPI, PLOG and SEL write what R135 says, P0 and S0 discarding what is written to them. -/
def Obligations.ComparesAndSelects : Prop :=
  ∀ (s : State) (u : Nat) (d a b : BitVec 5) (p : BitVec 3) (f : BitVec 11) (k : BitVec 2) (z : BitVec 16),
    let q := (s.unit u).seq
    let q' := Stated.past q 1
    (∀ r, Stated.cmp f.toNat (q.S a.toNat) (q.S b.toNat) = some r →
      Stated.IssuesTo (.cmp u) s u (Stated.rWord 3 (0#2 ++ p) a b f) (q'.setP p.toNat r)) ∧
    (∀ r, Stated.cmp k.toNat (q.S a.toNat) (z.signExtend 32) = some r →
      Stated.IssuesTo (.cmpi u) s u (Stated.iWord 0xE (k ++ p) a z) (q'.setP p.toNat r)) ∧
    (∀ r, Stated.plog f.toNat (q.P (a.toNat % 8)) (q.P (b.toNat % 8)) = some r →
      Stated.IssuesTo (.plog u) s u (Stated.rWord 4 d a b f) (q'.setP (d.toNat % 8) r)) ∧
    (f.toNat < 8 →
      Stated.IssuesTo (.sel u) s u (Stated.rWord 5 d a b f)
        (q'.setS d.toNat (if q.P f.toNat then q.S a.toNat else q.S b.toNat))) ∧
    (∀ v w, q'.setS 0 v = q' ∧ q'.setP 0 w = q' ∧ q.P 0 = true ∧ q.S 0 = 0)

/-- ADDI, ANDI, ORI, XORI, SHI and LUI write what R134 and Table 7.4 say. -/
def Stated.ImmediatesWriteTheirResult : Prop :=
  ∀ (s : State) (u : Nat) (rd ra : BitVec 5) (z : BitVec 16) (sh : BitVec 5) (k : BitVec 2),
    let q := (s.unit u).seq
    let a := q.S ra.toNat
    let go (v : Word) : Seqr := (Stated.past q 1).setS rd.toNat v
    Stated.IssuesTo (.addi u) s u (Stated.iWord 0x8 rd ra z) (go (a + z.signExtend 32)) ∧
    Stated.IssuesTo (.andi u) s u (Stated.iWord 0x9 rd ra z) (go (a &&& z.setWidth 32)) ∧
    Stated.IssuesTo (.ori u) s u (Stated.iWord 0xA rd ra z) (go (a ||| z.setWidth 32)) ∧
    Stated.IssuesTo (.xori u) s u (Stated.iWord 0xB rd ra z) (go (a ^^^ z.setWidth 32)) ∧
    (k.toNat < 3 →
      Stated.IssuesTo (.shi u) s u (Stated.iWord 0xC rd ra (0#9 ++ k ++ sh))
        (go (if k = 0 then a <<< sh.toNat else if k = 1 then a >>> sh.toNat else a.sshiftRight sh.toNat))) ∧
    Stated.IssuesTo (.lui u) s u (Stated.iWord 0xD rd 0 z) (go (z ++ 0#16))

/-- ALU, FPU and the immediate instructions write their results and nothing else. -/
def Obligations.ScalarResults : Prop :=
  Stated.AluWritesItsResult ∧ Stated.FpuWritesItsResult ∧ Stated.ImmediatesWriteTheirResult

/-- LDW reads the little-endian word at S[ra] plus the sign-extended immediate of the scalar memory
(the pool, or the tile's operand memory), and STW writes the word of S[rd] there and no other byte, where
the address is a multiple of 4 inside the memory. -/
def Stated.ScalarLoadsAndStores : Prop :=
  ∀ (s : State) (u : Nat) (rd ra : BitVec 5) (z : BitVec 16),
    let x := s.unit u
    let a := (x.seq.S ra.toNat + z.signExtend 32).toNat
    let m := if isTile u then 0 else 32
    a % 4 = 0 → a + 4 ≤ 0x100000 →
    Stated.IssuesTo (.ldw u) s u (Stated.iWord 0x10 rd ra z)
      ((Stated.past x.seq 1).setS rd.toNat (BitVec.ofNat 32 (leNat (x.ld m a 4)))) ∧
    (Stated.Issues s u (Stated.iWord 0x11 rd ra z) → Stated.GoesOn x (Stated.past x.seq 1) →
      exec (.stw u) s = .next (s.setUnit u
        { x with seq := Stated.past x.seq 1, mem := (x.st m a (leBytes 4 (x.seq.S rd.toNat).toNat)).mem }))

/-- The branches of Table 7.5, offsets counted in words from the instruction after the branch: BR always,
BRP where P[p] differs from N, JAL with the link in S[rd], JR to S[ra], DBNZ where S[ra] less 1 is not 0;
a taken branch takes 2 issue cycles, an untaken BRP or DBNZ 1. -/
def Obligations.BranchesGoWhereTheTableSays : Prop :=
  ∀ (s : State) (u : Nat) (rd ra : BitVec 5) (p : BitVec 3) (n : BitVec 1) (z : BitVec 16) (o : BitVec 26),
    let q := (s.unit u).seq
    let taken := Stated.past q 2
    let on := Stated.past q 1
    let v := q.S ra.toNat - 1
    Stated.IssuesTo (.br u) s u (0x14#6 ++ o) { taken with pc := q.pc + 1 + o.signExtend 32 } ∧
    Stated.IssuesTo (.brp u) s u (0x15#6 ++ p ++ n ++ 0#6 ++ z)
      (if q.P p.toNat ≠ (n == 1) then { taken with pc := q.pc + 1 + z.signExtend 32 } else on) ∧
    Stated.IssuesTo (.jal u) s u (Stated.iWord 0x16 rd 0 z)
      { taken.setS rd.toNat (q.pc + 1) with pc := q.pc + 1 + z.signExtend 32 } ∧
    Stated.IssuesTo (.jr u) s u (Stated.iWord 0x17 0 ra 0) { taken with pc := q.S ra.toNat } ∧
    Stated.IssuesTo (.dbnz u) s u (Stated.iWord 0x18 0 ra z)
      (if v ≠ 0 then { taken.setS ra.toNat v with pc := q.pc + 1 + z.signExtend 32 }
       else on.setS ra.toNat v)

/-- Credit tokens: WAIT takes 1 from a token above 0 and waits at 0; SIG adds 1 below 0xFFFF; POLL takes
1 and sets P[p] to 1, or sets P[p] to 0 at 0. Nothing else changes. -/
def Stated.CreditTokens : Prop :=
  ∀ (s : State) (u : Nat) (n : BitVec 4) (p : BitVec 3),
    let x := s.unit u
    let q := Stated.past x.seq 1
    let tok (v : Nat) : SeqUnit := x.setToken n.toNat v
    (Stated.Issues s u (0x2C#6 ++ 0#22 ++ n) → x.token n.toNat = 0 → exec (.wait u) s = .next s) ∧
    (Stated.Issues s u (0x2C#6 ++ 0#22 ++ n) → x.token n.toNat ≠ 0 → Stated.GoesOn x q →
      exec (.wait u) s = .next (s.setUnit u { tok (x.token n.toNat - 1) with seq := q })) ∧
    (Stated.Issues s u (0x2D#6 ++ 0#22 ++ n) → x.token n.toNat < 0xFFFF → Stated.GoesOn x q →
      exec (.sig u) s = .next (s.setUnit u { tok (x.token n.toNat + 1) with seq := q })) ∧
    (Stated.Issues s u (0x2E#6 ++ 0#7 ++ p ++ 0#12 ++ n) → Stated.GoesOn x q →
      exec (.poll u) s = .next (s.setUnit u
        (if x.token n.toNat = 0 then { x with seq := q.setP p.toNat false }
         else { tok (x.token n.toNat - 1) with seq := q.setP p.toNat true })))

/-- System registers (Table 7.12). -/
def Stated.sysReg (u : Nat) (x : SeqUnit) (n : Nat) : Option Word :=
  match n with
  | 0 => some x.seq.nstat
  | 1 => some (BitVec.ofNat 32 (min (x.seq.cycle + 1) 0xFFFFFFFF))
  | 2 => some (BitVec.ofNat 32 x.ctx.logical)
  | 3 => some (BitVec.ofNat 32 (x.ctx.alpha + x.ctx.beta * 256 + x.ctx.gm * 65536 + x.ctx.gn * 16777216))
  | 4 => some (BitVec.ofNat 32 x.ctx.part)
  | 5 => some (BitVec.ofNat 32 x.ctx.mb)
  | 6 => some ((if isTile u then 1 else 0) + (if x.ctx.teacher then 2 else 0))
  | _ => none

/-- nop does nothing; rdsr reads the system register (CYCLE as this instruction leaves it, DEDUCED, log 15);
waite completes once each condition asked for holds; brk asks for a halt while debug access is open and
acts as nop otherwise; bar counts the barrier and waits there, PC unmoved, or raises BUDGET where its issue cycle passes
the budget. -/
def Stated.SystemInstructions : Prop :=
  ∀ (s : State) (u : Nat) (rd : BitVec 5) (z : BitVec 10) (m : BitVec 4) (v : Word),
    let x := s.unit u
    let q := Stated.past x.seq 1
    Stated.IssuesTo (.sysNop u) s u (Stated.yWord 0 0 0 0) q ∧
    (Stated.sysReg u x z.toNat = some v →
      Stated.IssuesTo (.rdsr u) s u (Stated.yWord 4 rd 0 z) (q.setS rd.toNat v)) ∧
    ((m.getLsbD 0 → ∀ a ∈ x.arrs, a.isDrn = false → a.read = true) → (m.getLsbD 1 → x.arrs = []) →
      (m.getLsbD 2 → x.tnds = []) → (m.getLsbD 3 → x.queue = [] ∧ x.started = []) →
      Stated.IssuesTo (.waite u) s u (Stated.yWord 5 0 0 (0#6 ++ m)) q) ∧
    (Stated.Issues s u (Stated.yWord 3 0 0 0) → Stated.GoesOn x q →
      exec (.brk u) s = .next (s.setUnit u
        { x with seq := q, haltReq := s.dbg.mode == 0 || s.dbg.mode == 2 })) ∧
    (Stated.Issues s u (0x2F#6 ++ 0#26) →
      let s' := s.setUnit u { x with run := .barrier, seq := { q with pc := x.seq.pc, bars := x.seq.bars + 1 } }
      exec (.bar u) s = .next (if x.ctx.budget ≠ 0 ∧ x.ctx.budget < q.cycle then s'.seqExc u 8 0 else s'))

/-- Scalar memory, credit tokens and the system instructions. -/
def Obligations.LoadsCreditsAndSystem : Prop :=
  Stated.ScalarLoadsAndStores ∧ Stated.CreditTokens ∧ Stated.SystemInstructions
/-! ## Sequencers: ends, exceptions, barriers, arrays, drains, the Runner -/

/-- halt waits for issued work, then ends the program; with the last program of its grid the command has
its outcome, status OK with the OR of the units' NSTAT. -/
def Stated.HaltEndsTheProgram : Prop :=
  ∀ (s : State) (u : Nat),
    let x := s.unit u
    let s' := s.setUnit u { x with run := .ended, seq := Stated.past x.seq 1 }
    Stated.Issues s u (Stated.yWord 1 0 0 0) →
      (x.drained = false → exec (.halt u) s = .next s) ∧
      (x.drained = true → exec (.halt u) s = .next
        (if (s'.gridOf u).all fun v => (s'.unit v).run == .ended then
          s'.modCmd x.ctx.part x.ctx.cid fun k =>
            { k with out := some { Compl.ok with nstat := s'.nstatOf (s'.gridOf u) } }
         else s'))

/-- Major opcodes that Table 7.3 reserves or leaves open. -/
def Stated.reservedOp (n : Nat) : Bool :=
  [0x00, 0x06, 0x07, 0x0F, 0x12, 0x13, 0x19, 0x1A, 0x1B, 0x1C, 0x1D, 0x1E, 0x1F, 0x22, 0x23, 0x25, 0x26, 0x27,
    0x29, 0x2A, 0x2B].contains n || decide (0x31 ≤ n)

/-- trap raises TRAP with the low byte of imm10, and a word of no instruction raises ILLEGAL with detail 0.
Taking an exception leaves the sequencer's registers as they were and stops it. While array, drain, Tundish or Runner
work that it issued is under way that is all; once that is through, the event bit SEQ_EXC of the unit's page is set; where
the page's log is free, BLK_ERRLOG1 holds code and detail and BLK_ERRLOG2 the word address; and the partition faults with
the page as its source. That the row of TRAP carries the words of no instruction is DEDUCED (log 15). -/
def Stated.TrapTakesTheException : Prop :=
  (∀ (s : State) (u : Nat) (z : BitVec 10), Stated.Issues s u (Stated.yWord 2 0 0 z) →
    exec (.trap u) s = .next (s.seqExc u 7 (z.toNat % 256))) ∧
  (∀ (s : State) (u : Nat) (w : Word), Stated.Issues s u w →
    (Stated.reservedOp (w.extractLsb' 26 6).toNat = true ∨
      ((w.extractLsb' 26 6).toNat = 0x30 ∧ 5 < (w.extractLsb' 20 6).toNat) ∨
      ((w.extractLsb' 26 6).toNat = 0x24 ∧ topOk (w.extractLsb' 18 8).toNat = false)) →
    exec (.trap u) s = .next (s.seqExc u 1 0)) ∧
  (∀ (s : State) (u code detail : Nat),
    let x := s.unit u
    let s' := s.setUnit u { x with run := .excepted, exc := some (code, detail, x.seq.pc.toNat) }
    s.seqExc u code detail = s'.excRecord u ∧
      (x.arrs ≠ [] ∨ x.tnds ≠ [] ∨ x.started ≠ [] → s.seqExc u code detail = s')) ∧
  (∀ (s : State) (u code detail pc : Nat),
    let x := s.unit u
    let p := x.ctx.part
    let pg := unitPage u
    let n := if isTile u then 3 else 5
    let t := s.excRecord u
    s.Canon → p < 8 → code < 256 → x.exc = some (code, detail, pc) → x.run = .excepted → x.arrs = [] → x.tnds = [] →
      x.started = [] →
      (t.unit u).seq = x.seq ∧ (t.unit u).run ≠ .running ∧ bit (t.pg pg.1 pg.2 0x14) n = true ∧
      (bit (s.pg pg.1 pg.2 0x28) 31 = false →
        bits (t.pg pg.1 pg.2 0x28) 23 16 = n ∧ t.pg pg.1 pg.2 0x2C = code + detail % 256 * 256 ∧
        t.pg pg.1 pg.2 0x30 = pc % 4096) ∧
      ((s.part p).st.faultable = true → (t.part p).st = .faulted ∧
        (t.part p).faultSrc = BitVec.ofNat 32 (typeCode pg.1 + blkInstance pg.1 pg.2 * 65536) ∧
        (t.part p).faultInfo = BitVec.ofNat 32 n))

/-- The clock of a running or waiting sequencer advances CYCLE and raises BUDGET where CYCLE passes the
budget; a halt request or an armed breakpoint takes effect once arrays and Tundish are done, abandoning a
waiting BAR, and a halt request stops a unit that runs the device's own program (that a breakpoint is then used up, and
that the device's own programs halt, is DEDUCED, log 29); and of a grid whose members all wait at one BAR, each goes on
past the BAR whose own Runner's earlier stores are complete. -/
def Stated.BudgetHaltAndBarrier : Prop :=
  ∀ (s : State) (u : Nat),
    let x := s.unit u
    s.Canon →
    (∀ n, x.run = .running ∨ x.run = .barrier → s.live (dieOfUnit u) = true →
      let c := min (x.seq.cycle + n) 0xFFFFFFFF
      let s' := s.setUnit u { x with seq := { x.seq with cycle := c } }
      exec (.budget u n) s = .next
        (if x.ctx.budget ≠ 0 ∧ x.ctx.budget < c then s'.seqExc u 8 0 else s')) ∧
    (x.run = .running ∨ x.run = .barrier → x.arrs = [] → x.tnds = [] →
      (x.haltReq = true ∨ x.brk = some x.seq.pc.toNat) →
      exec (.sequencerHalt u) s = .next (s.setUnit u
        { x with run := .halted, haltReq := false,
                 brk := if x.brk = some x.seq.pc.toNat then none else x.brk,
                 seq := if x.run = .barrier then { x.seq with bars := x.seq.bars - 1 } else x.seq })) ∧
    (x.run = .idle → x.haltReq = true → s.ownProgram u = true →
      exec (.sequencerHalt u) s = .next (s.setUnit u { x with run := .halted, haltReq := false })) ∧
    (x.run = .barrier → (s.gridOf u).Nodup →
      (∀ v ∈ s.gridOf u, (s.unit v).run = .barrier ∧ (s.unit v).seq.bars = x.seq.bars ∧
        Stated.GoesOn (s.unit v) { (s.unit v).seq with pc := (s.unit v).seq.pc + 1 }) →
      ∃ t, exec (.barrierRelease u) s = .next t ∧ ∀ v, t.unit v =
        if v ∈ s.gridOf u ∧ (∀ d ∈ (s.unit v).queue, isStore d = false) ∧
            (∀ d ∈ (s.unit v).started, isStore d.words = false) then
          { s.unit v with run := .running, seq := { (s.unit v).seq with pc := (s.unit v).seq.pc + 1 } }
        else s.unit v)

/-- How a program ends, faults, is halted, and meets its barrier. -/
def Obligations.ProgramsStop : Prop :=
  Stated.HaltEndsTheProgram ∧ Stated.TrapTakesTheException ∧ Stated.BudgetHaltAndBarrier

/-- A format: op 0x20, ACC, DST, WF, AF, FORM, rs, SIG, SIG_TOK, rm (Table 7.6). -/
def Stated.arrWord (acc : BitVec 2) (dst : BitVec 1) (wf af : BitVec 3) (form : BitVec 2) (rs : BitVec 5)
    (sig : BitVec 1) (tok : BitVec 4) (rm : BitVec 5) : Word :=
  0x20#6 ++ acc ++ dst ++ wf ++ af ++ form ++ rs ++ sig ++ tok ++ rm
/-- DRN: op 0x21, OFMT, CLASS, reserved, rs, SIG, SIG_TOK, rm (Table 7.9). -/
def Stated.drnWord (ofmt : BitVec 2) (cls : BitVec 3) (rs : BitVec 5) (sig : BitVec 1) (tok : BitVec 4)
    (rm : BitVec 5) : Word :=
  0x21#6 ++ ofmt ++ cls ++ 0#6 ++ rs ++ sig ++ tok ++ rm

/-- The operand group as numbers, and the mask: 1 on a tile. -/
def Stated.grp (q : Seqr) (rs n : Nat) : List Nat := (List.range n).map fun i => (q.S (rs + i)).toNat
def Stated.mask (u : Nat) (q : Seqr) (rm : Nat) : Nat := if isTile u then 1 else (q.S rm).toNat

/-- What R140 asks of an ARR: a form of the engine, a group in bounds, no link past core 31, valid sums or
a pending link send where ACC starts from them. -/
def Stated.ArrAdmits (u : Nat) (x : SeqUnit) (w : Word) (rs m acc : Nat) (dst : Bool) : Prop :=
  let g := Stated.grp x.seq rs 6
  let cores := maskCores (isTile u) m
  arrForm (isTile u) w.toNat = true ∧ rs ≤ 26 ∧ arrBad (isTile u) w.toNat g = none ∧
    (dst = true → bit m 31 = false) ∧ (acc = 1 → x.unset cores (gBank g) (gRows g) = none) ∧
    (acc = 2 → bit m 0 = false ∧ ∀ c ∈ cores, (tget [] x.seq.linkNr c).head? = some (gNR g))

/-- The units of a command stop and the command has the outcome MALFORMED, naming no field, with the OR of their NSTAT. -/
def Stated.EndsMalformed (s t : State) (u : Nat) : Prop :=
  let x := s.unit u
  t = s.kernelRefuse u ∧ (t.cmd? x.ctx.part x.ctx.cid).map (·.out) =
    some (some ⟨2, 0xFF, 0, s.nstatOf (s.gridOf u), []⟩)

/-- A DRN that names class 0, 3 or 4 with f32, which R60 bars, ends its command as MALFORMED; that R60 binds the
programs' own drains too is DEDUCED (log 15). -/
def Stated.BarredDrainEndsTheCommand : Prop :=
  ∀ (s : State) (u : Nat) (cls : BitVec 3) (rs : BitVec 5) (sig : BitVec 1) (tok : BitVec 4) (rm : BitVec 5),
    let x := s.unit u
    let wd := Stated.drnWord 0 cls rs sig tok rm
    let gd := Stated.grp x.seq rs.toNat 3
    let s' := s.setUnit u { x with seq := Stated.past x.seq 1 }
    Stated.Issues s u wd → (isTile u = true → rm = 0) → rs.toNat ≤ 29 → drnBad (isTile u) wd.toNat gd = none →
      x.unset (maskCores (isTile u) (Stated.mask u x.seq rm.toNat)) (dBank gd) (dRows gd) = none →
      (cls = 0 ∨ cls = 3 ∨ cls = 4) → u ∈ s'.gridOf u → (s.cmd? x.ctx.part x.ctx.cid).isSome = true →
      ∃ t, exec (.drn u) s = .next t ∧ Stated.EndsMalformed s' t u

/-- ARR and DRN that R140 and R142 admit, with a mask that is not 0 and room in each array, enter the
arrays' queue with the group and mask as read; ARR makes its rows valid, or invalid under DST; an ARR with a mask of 0
that the checks pass issues nothing. PC and CYCLE advance by 1; S, P and NSTAT, and every other unit, are unchanged. -/
def Stated.ArraysAndDrainsIssue : Prop :=
  ∀ (s : State) (u : Nat) (acc : BitVec 2) (dst : BitVec 1) (wf af cls : BitVec 3) (form ofmt : BitVec 2)
    (rs : BitVec 5) (sig : BitVec 1) (tok : BitVec 4) (rm : BitVec 5),
    let x := s.unit u
    let q := Stated.past x.seq 1
    let m := Stated.mask u x.seq rm.toNat
    let cores := maskCores (isTile u) m
    let wa := Stated.arrWord acc dst wf af form rs sig tok rm
    let wd := Stated.drnWord ofmt cls rs sig tok rm
    let ga := Stated.grp x.seq rs.toNat 6
    let gd := Stated.grp x.seq rs.toNat 3
    (isTile u = true → rm = 0) → Stated.GoesOn x q → x.arrFull cores = false →
    (Stated.Issues s u wa → m ≠ 0 → Stated.ArrAdmits u x wa rs.toNat m acc.toNat (dst == 1) →
      ∃ t, exec (.arr u) s = .next t ∧
        (t.unit u).arrs = x.arrs ++
          [⟨false, wa, (List.range 6).map fun i => x.seq.S (rs.toNat + i), m, false, []⟩] ∧
        (∀ c ∈ cores, ∀ r ∈ gRows ga,
          (t.unit u).seq.rowOk.contains (rowKey c (gBank ga) r) = !(dst == 1)) ∧
        (∃ ok nr, (t.unit u).seq = { q with rowOk := ok, linkNr := nr }) ∧
        ∀ v, v ≠ u → t.unit v = s.unit v) ∧
    (Stated.Issues s u wa → arrForm (isTile u) wa.toNat = true → rs.toNat ≤ 26 → m = 0 →
      arrBad (isTile u) wa.toNat ga = none → exec (.arr u) s = .next (s.setUnit u { x with seq := q })) ∧
    (Stated.Issues s u wd → m ≠ 0 → ofmt.toNat ≠ 3 → rs.toNat ≤ 29 →
      drnBad (isTile u) wd.toNat gd = none →
      x.unset cores (dBank gd) (dRows gd) = none →
      ¬(ofmt = 0 ∧ (cls = 0 ∨ cls = 3 ∨ cls = 4)) →
      exec (.drn u) s = .next (s.setUnit u
        { x with
          seq := q
          arrs := x.arrs ++
            [⟨true, wd, (List.range 3).map fun i => x.seq.S (rs.toNat + i), m, false, []⟩] }))

/-- A signal of token n, or none. -/
def Stated.signals (x : SeqUnit) (sig : Bool) (n : Nat) : SeqUnit :=
  if sig then x.setToken n (x.token n + 1) else x

/-- The sums that enter a pass on core c: +0, the row's sums, the link's, or memory rows with K_BASE. -/
def Stated.arrStart (x : SeqUnit) (tile : Bool) (acc : Nat) (g : List Nat) (cap : List (List Byte)) (c r : Nat) :
    AccRow :=
  match acc with
  | 0 => { sums := List.replicate (bankCols tile) 0, krun := 0 }
  | 1 => tget ⟨[], 0⟩ x.rows (rowKey c (gBank g) (gFirst g + r))
  | 2 => nth ⟨[], 0⟩ (tget [] x.links c) r
  | _ => { sums := (List.range (bankCols tile)).map fun i =>
             BitVec.ofNat 32 (fld (nth [] cap 3) ((r * bankCols tile + i) * 4) 4),
           krun := nth 0 g 5 }

/-- An ARR whose turn it is, with no earlier drain of its rows before it, reads its operands: weight, activation, scale and source bytes as they stand
in each core's memory, and gives its signal; the array's pass then replaces the rows by its sums, or sends
them on the link under DST, and leaves the queue. A DRN whose turn it is writes its rows through the output
stage and gives its signal, the highest core's rows standing where cores drain to one place (DESIGN CHOICE, log 56). -/
def Stated.ArraysAndDrainsComplete : Prop :=
  ∀ (s : State) (u n : Nat) (a : ArrOp),
    let x := s.unit u
    let tile := isTile u
    let w := a.word.toNat
    let g := a.grp.map (·.toNat)
    let cores := maskCores tile a.mask
    let capOf (c : Nat) : List (List Byte) := ((a.cap.find? fun p => p.1 == c).map (·.2)).getD []
    let res (c : Nat) := passRows tile a (capOf c) (Stated.arrStart x tile (aAcc w) g (capOf c) c)
    s.Canon → x.arrs[n]? = some a → s.live (dieOfUnit u) = true →
    (a.isDrn = false → a.read = false → (s.die (dieOfUnit u)).therm.st < 3 →
      (∀ b ∈ x.before n, if b.isDrn then drainsFirst g b = false else b.read = true) → (aSig w = true → x.token (aTok w) < 0xFFFF) →
      exec (.arrOperandsRead u n) s = .next (s.setUnit u (Stated.signals
        { x with arrs := x.arrs.set n { a with read := true, cap := cores.map fun c => (c, x.capture tile a c) } }
        (aSig w) (aTok w)))) ∧
    (a.isDrn = false → a.read = true → x.before n = [] → x.run ≠ .excepted →
      (aAcc w = 2 → ∀ c ∈ cores, (tget [] x.links c).length = gNR g) →
      (aDst w = true → ∀ c ∈ cores, tget [] x.links (c + 1) = []) →
      twf ⟨[], 0⟩ x.rows = true → twf [] x.links = true →
      ∃ t, exec (.arrPassComplete u n) s = .next t ∧ (t.unit u).arrs = x.arrs.eraseIdx n ∧
        (∀ c ∈ cores, ∀ r, r < gNR g →
          tget ⟨[], 0⟩ (t.unit u).rows (rowKey c (gBank g) (gFirst g + r)) =
            if aDst w then ⟨[], 0⟩ else nth ⟨[], 0⟩ (res c).1 r) ∧
        (aDst w = true → ∀ c ∈ cores, tget [] (t.unit u).links (c + 1) = (res c).1) ∧
        (t.unit u).seq = { x.seq with
          nstat := x.seq.nstat ||| BitVec.ofNat 32 (cores.foldl (fun f c => f ||| (res c).2) 0) } ∧
        (t.unit u).mem = x.mem ∧ ∀ v, v ≠ u → t.unit v = s.unit v) ∧
    (a.isDrn = true → x.before n = [] → (aSig w = true → x.token (aTok w) < 0xFFFF) → x.run ≠ .excepted →
      ∃ t, exec (.drnRowsWritten u n) s = .next t ∧ (t.unit u).arrs = x.arrs.eraseIdx n ∧
        (t.unit u).tokens = (Stated.signals x (aSig w) (aTok w)).tokens ∧
        (t.unit u).rows = x.rows ∧ (t.unit u).seq = x.seq ∧
        (t.unit u).mem = (cores.foldl (fun y c =>
          let rows := (dRows g).map fun r => (tget ⟨[], 0⟩ x.rows (rowKey c (dBank g) r)).sums
          let y := y.st (gMem tile c (nth 0 g 0)) (gOff (nth 0 g 0))
            ((rows.map (drnRow (dOfmt w))).flatMap (·.1))
          if dOfmt w = 2 then
            y.st (gMem tile c (nth 0 g 2)) (gOff (nth 0 g 2)) (rows.flatMap fun r => leBytes 4 (amaxW r).toNat)
          else y) x).mem ∧
        ∀ v, v ≠ u → t.unit v = s.unit v)

/-- ARR and DRN issue and complete, and a drain that R60 bars ends its command (DEDUCED, log 15). -/
def Obligations.ArraysAndDrains : Prop :=
  Stated.ArraysAndDrainsIssue ∧ Stated.ArraysAndDrainsComplete ∧ Stated.BarredDrainEndsTheCommand

/-- RPUSH queues the descriptor S[rs] to S[rs + 7]; the Runner starts a well-formed descriptor whose wait
token is above 0 and whose ranges the partition may reach, taking 1 from the token and keeping below 32 KiB of reads
outstanding, and ends the command of one it refuses with MALFORMED; a started descriptor moves its bytes, leaves the
list and gives its signal, a conversion with scales once no descriptor can follow it (DEDUCED, log 16). -/
def Obligations.RunnerDescriptors : Prop :=
  ∀ (s : State) (u : Nat) (rs : BitVec 5),
    let x := s.unit u
    let q := Stated.past x.seq 2
    (Stated.Issues s u (0x28#6 ++ 0#11 ++ rs ++ 0#10) → Stated.GoesOn x q → rs.toNat ≤ 24 →
      x.queue.length < 64 →
      exec (.rpush u) s = .next (s.setUnit u
        { x with seq := q, queue := x.queue ++ [(List.range 8).map fun i => x.seq.S (rs.toNat + i)] })) ∧
    (∀ ws rest, x.queue = ws :: rest → x.runnerOn = true → s.live (dieOfUnit u) = true → s.unitSaving u = false →
      let d := rdNat ws
      (rdOk (isTile u) d = false → exec (.runnerDescriptorStart u) s = .next (s.kernelRefuse u)) ∧
      (rdOk (isTile u) d = true → (rdWaitEn d = true → 0 < x.token (rdWaitTok d)) →
        (rdReads d ≠ 0 → (x.started.map fun e => rdReads (rdNat e.words)).sum < 32768) →
        s.unitAccess x.ctx.part (isTile u) [(u, rdRanges d)] = none →
        exec (.runnerDescriptorStart u) s = .next (s.setUnit u
          { (if rdWaitEn d then x.setToken (rdWaitTok d) (x.token (rdWaitTok d) - 1) else x) with
            queue := rest, started := x.started ++ [⟨ws, x.scaleMade⟩], scaleMade := false }))) ∧
    (∀ r, x.started = [r] → x.queue = [] → x.runnerOn = true → s.live (dieOfUnit u) = true → r.done = false →
      let d := rdNat r.words
      (rdScales d = true → x.mayPush = false) →
      let t := ((s.rdRun u d none).rdCount u d).modUnit u fun y => { y with started := [], scaleMade := false }
      exec (.runnerDescriptorDone u) s = .next (if rdSigEn d then t.signal u (rdSigTok d) else t))

/-! ## Tundish operations (chapter 8) -/

/-- T format: op 0x24, TOP, RK, rd, rs, rb, a reserved bit (Table 7.10). -/
def Stated.tndWord (top : BitVec 8) (rk : BitVec 2) (rd rs rb : BitVec 5) : Word :=
  0x24#6 ++ top ++ rk ++ rd ++ rs ++ rb ++ 0#1

/-- The commands that issue a Tundish operation, with their unit and operation code (Table 8.5). -/
def Stated.tndCode : Instr → Option (Nat × Nat)
  | .add u => some (u, 0x01) | .sub u => some (u, 0x02) | .mul u => some (u, 0x03)
  | .min u => some (u, 0x04) | .max u => some (u, 0x05) | .fma u => some (u, 0x06)
  | .fill u => some (u, 0x07) | .cvt u => some (u, 0x08) | .neg u => some (u, 0x09)
  | .abs u => some (u, 0x0A) | .exp2 u => some (u, 0x10) | .log2 u => some (u, 0x11)
  | .recip u => some (u, 0x12) | .rsqrt u => some (u, 0x13) | .cmplt u => some (u, 0x18)
  | .cmple u => some (u, 0x19) | .cmpeq u => some (u, 0x1A) | .cmpne u => some (u, 0x1B)
  | .select u => some (u, 0x1C) | .mkcausal u => some (u, 0x1D) | .rsum u => some (u, 0x20)
  | .rmax u => some (u, 0x21) | .rmin u => some (u, 0x22) | .rcnt u => some (u, 0x23)
  | .rargmax u => some (u, 0x24) | .rargmin u => some (u, 0x25) | .rmaxsum u => some (u, 0x26)
  | .csum u => some (u, 0x28) | .cmax u => some (u, 0x29) | .fanadd u => some (u, 0x30)
  | .scale u => some (u, 0x31) | .compress u => some (u, 0x38) | .expand u => some (u, 0x39)
  | .permute u => some (u, 0x40) | .gather u => some (u, 0x41) | .softblk u => some (u, 0x48)
  | .attnNorm u => some (u, 0x49)
  | _ => none

/-- Each of the 37 Tundish operations with a group in S0 to S31, a summary destination that exists, operands
that R60 and R179 admit and room in the Tundish issues: it is held with its registers as read, PC and CYCLE advance
by 1; where it is the only one held, its completion leaves what it computes from the memories in its streams,
ORs its flags into NSTAT, delivers its summary and counts its conversions for the partition. -/
def Stated.TundishOperationsIssue : Prop :=
  ∀ (c : Instr) (s : State) (u : Nat) (top : BitVec 8) (rk : BitVec 2) (rd rs rb : BitVec 5),
    let x := s.unit u
    let g := Stated.grp x.seq rs.toNat 7
    let o := tndOp top.toNat g (x.seq.S rb.toNat)
    let q := tndPlace (isTile u) g
    let r := tundish o (o.reader q tndCore x.ctx.e4nan fun m a n => x.ld m a n)
    let n := Stated.past x.seq 1
    let w := (List.range 7).map fun i => x.seq.S (rs.toNat + i)
    let t := s.setUnit u { x with
      seq := n, tnds := x.tnds ++ [⟨top.toNat, rk.toNat, rd.toNat, w, x.seq.S rb.toNat⟩] }
    let m := { n with nstat := n.nstat ||| BitVec.ofNat 32 r.nstat }
    Stated.tndCode c = some (u, top.toNat) → Stated.Issues s u (Stated.tndWord top rk rd rs rb) →
    Stated.GoesOn x n → rk.toNat ≤ 2 → (rk.toNat = 2 → rd.toNat < 8) → rs.toNat ≤ 25 →
    tndBad (isTile u) o q g = none → o.pairOk = true → x.tnds.length < 4 →
      exec c s = .next t ∧
      (x.tnds = [] → exec (.tundishOpComplete u) t = .next ((t.setUnit u
        { ((x.put q.y.1 q.y.2 r.y).put q.x.1 q.x.2 r.x).put q.b.1 q.b.2 r.sb with
          tnds := []
          seq := if rk = 1 then m.setS rd.toNat (r.summary o)
                 else if rk = 2 then m.setP rd.toNat (decide (r.summary o ≠ 0)) else m }).fhAdd
        (dieOfUnit u) x.ctx.part o.cls o.fY r.tally))

/-- The oldest Tundish operation completes on a live die: its streams hold what it computes from the
memories as they stand, NSTAT takes its flags, then S[rd] takes the summary under RK 1, or P[rd] whether the
summary is not 0 under RK 2; those behind it stay. -/
def Stated.TundishOperationCompletes : Prop :=
  ∀ (s : State) (u : Nat) (t : TndOp) (rest : List TndOp),
    let x := s.unit u
    let g := t.grp.map (·.toNat)
    let o := tndOp t.top g t.sc
    let q := tndPlace (isTile u) g
    let r := tundish o (o.reader q tndCore x.ctx.e4nan fun m a n => x.ld m a n)
    let m := { x.seq with nstat := x.seq.nstat ||| BitVec.ofNat 32 r.nstat }
    x.tnds = t :: rest → s.live (dieOfUnit u) = true → x.run ≠ .excepted →
      exec (.tundishOpComplete u) s = .next ((s.setUnit u
        { ((x.put q.y.1 q.y.2 r.y).put q.x.1 q.x.2 r.x).put q.b.1 q.b.2 r.sb with
          tnds := rest
          seq := if t.rk = 1 then m.setS t.rd (r.summary o)
                 else if t.rk = 2 then m.setP (t.rd % 8) (decide (r.summary o ≠ 0)) else m }).fhAdd
        (dieOfUnit u) x.ctx.part o.cls o.fY r.tally)

/-- Tundish operations issue and complete. -/
def Obligations.TundishOperations : Prop :=
  Stated.TundishOperationsIssue ∧ Stated.TundishOperationCompletes

/-- A NaN keeps its sign and is written quiet (R48); another value has the result y. -/
def Stated.keepNan (x y : Word) : Word := if (fl x).isNan then x &&& 0x80000000#32 ||| 0x7FC00000#32 else y
/-- Element-wise functions (Table 8.5): x of A, b of B, s the scalar. -/
def Stated.ew (t : Nat) (x b s : Word) : Option Word :=
  match t with
  | 0x01 => some (fadd x b) | 0x02 => some (fsub x b) | 0x03 => some (fmul x b)
  | 0x04 => some (fminw x b) | 0x05 => some (fmaxw x b) | 0x06 => some (ffma x s b)
  | 0x09 => some (Stated.keepNan x (x ^^^ 0x80000000#32)) | 0x0A => some (Stated.keepNan x (x &&& 0x7FFFFFFF#32))
  | 0x10 => some (fexp2 (fsub x b)) | 0x11 => some (flog2 x) | 0x12 => some (frecip x)
  | 0x13 => some (frsqrt x)
  | _ => none

/-- Row reductions (Table 8.5) of the active (column, value) pairs of a row. -/
def Stated.reduce (t : Nat) (vs : List (Nat × Word)) : Option Word :=
  match t with
  | 0x21 => some (maxOf (vs.map (·.2))) | 0x22 => some (minOf (vs.map (·.2)))
  | 0x23 => some (BitVec.ofNat 32 vs.length)
  | 0x24 => some (BitVec.ofNat 32 (argBest above vs))
  | 0x25 => some (BitVec.ofNat 32 (argBest (fun x y => above y x) vs))
  | _ => none

/-- An unmasked element-wise operation writes each row of Y as the codes of the converted results, one per
element of A and B; RMAX, RMIN, RCNT, RARGMAX and RARGMIN reduce the active elements of each row, and set
EMPTY where a row has none; both count the active elements. -/
def Obligations.TundishRowResults : Prop :=
  (∀ (o : TOp) (d : TRd), o.masked = false →
    (Stated.ew o.top 0 0 0).isSome = true →
      (tundish o d).y = ((List.range o.rows).map fun r =>
        (r * d.py, packCodes o.fY ((List.range o.cols).map fun c =>
          (encElem o.fY d.e4nan o.sigOut
            (fl ((Stated.ew o.top (d.av o r c) (d.bv o r c) o.sc).getD 0))).1))) ∧
      (tundish o d).active = o.actCount d) ∧
  (∀ (o : TOp) (d : TRd) (r : Nat), 0x21 ≤ o.top → o.top ≤ 0x25 → r < o.rows →
    let row (r : Nat) : List (Nat × Word) :=
      (List.range o.cols).filterMap fun c => if o.act d r c then some (c, d.av o r c) else none
    ∃ vs : List Word, vs.length = o.rows ∧ vs[r]? = Stated.reduce o.top (row r) ∧
      (tundish o d).y = [(0, if 0x23 ≤ o.top then vs.flatMap fun w => leBytes 4 w.toNat
        else packCodes o.fY (vs.map fun w => (encElem o.fY d.e4nan o.sigOut (fl w)).1))] ∧
      (row r = [] → (tundish o d).nstat = 2) ∧ (tundish o d).active = o.actCount d)

/-! ## The array engines (chapters 5 and 6) -/

/-- Command `c` of partition `p` is `k`, started, with no outcome yet; its units are on dies that run and
admit array passes, none is halted, and the partition is not FAULTED. -/
structure Stated.Runs (s : State) (p c op : Nat) (k : Cmd) : Prop where
  canon : s.Canon
  cmd : s.cmd? p c = some k
  isOp : k.opcode = op
  phase : k.phase = .running
  out : k.out = none
  live : s.cmdLive k = true
  unhalted : s.unhalted k = true
  passes : s.passesOk k = true
  up : (s.part p).st ≠ .faulted

/-- In `t` the command has its outcome: status OK and this NSTAT. -/
def Stated.DoneOk (t : State) (p c : Nat) (nstat : Word) : Prop :=
  ∃ k o, t.cmd? p c = some k ∧ k.out = some o ∧ o.status = 0 ∧ o.nstat = nstat

/-- Parts of the state that no array command touches. -/
def Stated.SameElsewhere (s t : State) : Prop :=
  t.stk = s.stk ∧ t.sprue = s.sprue ∧ t.rings = s.rings ∧ t.fabric = s.fabric ∧ t.dev = s.dev ∧
    t.maps = s.maps ∧ t.pending = s.pending ∧ ∀ q, (t.part q).st = (s.part q).st

/-- NSTAT of each unit of the grid is what its own tasks set (R82), and the command is done, status OK, with the OR
over the units; nothing else moves. -/
def Stated.UnitsDone (s t : State) (p c : Nat) (k : Cmd) (f : Nat → Nat) : Prop :=
  (k.units.Nodup → ∀ i, i < k.units.length → (t.unit (gridAt k.units i)).seq.nstat = BitVec.ofNat 32 (f i)) ∧
    (∀ u, u ∉ k.units → (t.unit u).seq = (s.unit u).seq) ∧
    Stated.DoneOk t p c (BitVec.ofNat 32 (orFlags k.units f)) ∧ Stated.SameElsewhere s t

/-- Row i of op(X), X or its transpose. -/
def Stated.row (tr : Bool) (x : List (List Fl)) (i : Nat) : List Fl :=
  if tr then x.map (·.getD i Fl.zero) else x.getD i []

/-- The sums of an M × N product with K chunks of L products: element (i, j) is one chain from its start. -/
def Stated.sums (M N L : Nat) (a b : Nat → List Fl) (start : Nat → Nat → RSum) : List (List RSum) :=
  (List.range M).map fun i => (List.range N).map fun j => dotChain L (a i) (b j) (start i j)

/-- What a product leaves: Y holds the sums' values as the output stage writes them, NSTAT of a unit is the OR of the
flags of the sums in its tasks of `mt` rows and `nw` columns, the command is done, nothing else moves. -/
def Stated.ProductDone (s t : State) (p c : Nat) (k : Cmd) (y : TRef) (mt nw : Nat) (r : List (List RSum)) : Prop :=
  t.mem = (s.wrArray p k.e4nan true (fun _ _ => 0) y (r.map fun q => q.map (·.v))).mem ∧
    Stated.UnitsDone s t p c k (gemmFlags mt nw (fld k.msg 49 1) (fld k.msg 50 1) r)

/-- MG_GEMM computes Y = op(A) · op(B), from +0 or from C with K_BASE, in chunks of 16 products for BF16
operands and 32 for the others, where every unit may use its parts of the tensors; CG_GEMM computes Y = X · Wᵀ in
chunks of 32. -/
def Stated.MatrixProducts : Prop :=
  ∀ (s : State) (p c : Nat) (k : Cmd),
    let m := k.msg
    let start (am : Bool) (base : Nat) (i j : Nat) : RSum :=
      if am then ⟨((s.rdWords p (tref m 176)).getD i []).getD j 0, base, 0⟩ else ⟨0, 0, 0⟩
    (Stated.Runs s p c 0x200 k →
      let gf := fld m 51 1
      let M := fld m 56 4
      let N := fld m 60 4
      let a := tref m 80
      let b := tref m 112
      (bit gf 0 = false → a.rows = M) → (bit gf 1 = true → b.rows = N) →
      s.unitAccess p false (mgGemmUses k) = none →
      ∃ t, exec (.mgGemm p c) s = .next t ∧ Stated.ProductDone s t p c k (tref m 144) 256 512
        (Stated.sums M N (if a.fmt = 2 then 16 else 32) (Stated.row (bit gf 0) (s.rdTensor p a))
          (Stated.row (!bit gf 1) (s.rdTensor p b)) (start (bit gf 2) (fld m 52 4)))) ∧
    (Stated.Runs s p c 0x280 k →
      let M := fld m 60 4
      let N := fld m 64 4
      let x := tref m 80
      let w := tref m 112
      let am := bit (fld m 51 1) 2
      x.rows = M → w.rows = N →
      s.unitAccess p true (cgGemmUses k) = none →
      ∃ t, exec (.cgGemm p c) s = .next t ∧ Stated.ProductDone s t p c k (tref m 144) 512
        (if w.fmt = 0x0A ∨ w.fmt = 9 then 256 else 128) (Stated.sums M N 32 (Stated.row false (s.rdTensor p x)) (Stated.row false (s.rdTensor p w))
          (start am (fld m 72 4))))

/-- MG_ATTN_FWD and CG_ATTN write the attention of H heads (query blocks of 256 or 512 positions, key blocks
of 512 or 256) to O, MG_ATTN_FWD the log-sum-exp to LSE as well; MG_ATTN_BWD writes the row sums of
dO · O, then dQ, dK and dV; NSTAT of each unit takes the flags of its tasks and the command is done. -/
def Stated.AttentionCommands : Prop :=
  ∀ (s : State) (p c : Nat) (k : Cmd),
    let m := k.msg
    let G := k.units.length
    let put (s : State) (stg : Bool) (S mt d o : Nat) (v : List (List Word)) : State :=
      s.wrArray p k.e4nan stg (attnDie k.units S mt d) (tref m o) v
    let rd (o : Nat) : List (List Fl) := s.rdTensor p (tref m o)
    (Stated.Runs s p c 0x201 k → s.unitAccess p false (mgFwdUses k) = none →
      let r := attention (fld m 65 1) (fld m 52 4) (fld m 56 4) 256 512 (fld m 64 1 == 1) (rd 80) (rd 112) (rd 144)
      ∃ t, exec (.mgAttnFwd p c) s = .next t ∧ t.mem = (put (put s false (fld m 60 4) 256 (2 ^ fld m 65 1) 176 r.1) false (fld m 60 4) 256 1 208 r.2.1).mem ∧
        Stated.UnitsDone s t p c k (taskFlags G r.2.2)) ∧
    (Stated.Runs s p c 0x282 k → s.unitAccess p true (cgAttnUses k) = none →
      let r := attention (fld m 58 1) (fld m 60 4) (fld m 64 4) 512 256 (fld m 57 1 == 1) (rd 80) (rd 112) (rd 144)
      ∃ t, exec (.cgAttn p c) s = .next t ∧ t.mem = (put s false (fld m 68 4) 512 (2 ^ fld m 58 1) 176 r.1).mem ∧
        Stated.UnitsDone s t p c k (taskFlags G r.2.2)) ∧
    (Stated.Runs s p c 0x202 k → s.unitAccess p false (mgBwdUses k) = none →
      let d := 2 ^ fld m 65 1
      let S := fld m 60 4
      let delta := (List.range S).map fun r => (List.range (fld m 52 4)).map fun h =>
        rsum ((List.range d).map fun e =>
          fmul (f32 (((rd 208).getD r []).getD (h * d + e) Fl.zero))
            (f32 (((rd 176).getD r []).getD (h * d + e) Fl.zero)))
      let r := attentionBwd (fld m 65 1) (fld m 52 4) (fld m 56 4) (fld m 64 1 == 1) (rd 80) (rd 112) (rd 144)
        (rd 208) (s.rdWords p (tref m 240)) delta
      ∃ t, exec (.mgAttnBwd p c) s = .next t ∧
        t.mem = (put (put (put (put s false S 256 1 368 delta) true S 256 d 272 r.1) true S 512 d 304 r.2.1)
          true S 512 d 336 r.2.2.1).mem ∧
        Stated.UnitsDone s t p c k fun i => taskFlags G r.2.2.2.1 i ||| taskFlags G r.2.2.2.2 i)

/-- The matrix products and the attention commands. -/
def Obligations.MatrixAndAttention : Prop :=
  Stated.MatrixProducts ∧ Stated.AttentionCommands

/-- MG_VEC and CG_VEC run one Tundish operation on streams in device memory: its writes stand in Y, AUX and
SB, NSTAT takes its flags and the command is done. -/
def Stated.VectorCommands : Prop :=
  ∀ (s : State) (p c : Nat) (k : Cmd) (tile : Bool),
    let o := vecOp k.msg
    let q := vecPlace k.msg
    let r := tundish o (o.reader q vecCore k.e4nan fun _ a n => s.rd p a n)
    let put (base : Nat) (s : State) (ws : List (Nat × List Byte)) : State :=
      ws.foldl (fun s w => s.wr p (base + w.1) w.2) s
    Stated.Runs s p c (if tile then 0x284 else 0x204) k →
    s.unitAccess p tile (vecUses k) = none →
      ∃ t, exec (if tile then .cgVec p c else .mgVec p c) s = .next t ∧
        t.mem = (put q.b.2 (put q.x.2 (put q.y.2 s r.y) r.x) r.sb).mem ∧
        (∀ u ∈ k.units, (t.unit u).seq.nstat = BitVec.ofNat 32 r.nstat) ∧
        (∀ u, u ∉ k.units → (t.unit u).seq = (s.unit u).seq) ∧
        Stated.DoneOk t p c (BitVec.ofNat 32 r.nstat) ∧ Stated.SameElsewhere s t

/-- MG_KERNEL and CG_KERNEL start their program on every unit of the grid: each holds the n words loaded
from the program's address, S1 to S8 the eight arguments, every other register, NSTAT, CYCLE and the barrier
count 0, PC at word 0; memory is unchanged. -/
def Stated.KernelCommandsStart : Prop :=
  ∀ (s : State) (p c : Nat) (k : Cmd) (tile : Bool),
    let m := k.msg
    let n := fld m 52 4
    s.Canon → s.cmd? p c = some k → k.opcode = (if tile then 0x283 else 0x203) → k.phase = .running →
    k.out = none → s.cmdLive k = true → (s.part p).st ≠ .faulted →
    (∀ u ∈ k.units, (s.unit u).run = .idle) →
    s.unitAccess p (isTile (gridAt k.units 0)) (gridUses k.units fun _ => [(fld m 56 8, 4 * n, false)]) = none →
      ∃ t, exec (if tile then .cgKernel p c else .mgKernel p c) s = .next t ∧ t.mem = s.mem ∧
        (∀ u ∈ k.units, (t.unit u).run = .running ∧ (t.unit u).seq.pc = 0 ∧
          (t.unit u).imem = (List.range n).map (fun i => BitVec.ofNat 32 (leNat (s.rd p (fld m 56 8 + 4 * i) 4))) ∧
          (∀ i, i < 8 → (t.unit u).seq.S (i + 1) = BitVec.ofNat 32 (fld m (80 + 4 * i) 4)) ∧
          (∀ i, 8 < i → (t.unit u).seq.S i = 0) ∧ (∀ i, 0 < i → i < 8 → (t.unit u).seq.P i = false) ∧
          (t.unit u).seq.nstat = 0 ∧ (t.unit u).seq.cycle = 0 ∧ (t.unit u).seq.bars = 0) ∧
        ∀ v, v ∉ k.units → t.unit v = s.unit v

/-- The vector commands, and kernels as they start. -/
def Obligations.VectorAndKernelCommands : Prop :=
  Stated.VectorCommands ∧ Stated.KernelCommandsStart
/-! ## The Sprues (chapter 9) and Fumarole (chapter 10) -/

/-- A started Sprue command with no outcome on a READY device, its partition not FAULTED. -/
structure Stated.SprueRuns (s : State) (p c op : Nat) (k : Cmd) : Prop where
  canon : s.Canon
  cmd : s.cmd? p c = some k
  isOp : k.opcode = op
  phase : k.phase = .running
  out : k.out = none
  ready : s.dev.state = .ready
  up : (s.part p).st ≠ .faulted

/-- In `t` the command is done with this outcome. -/
def Stated.DoneWith (t : State) (p c : Nat) (o : Compl) : Prop := ∃ k, t.cmd? p c = some k ∧ k.out = some o

/-- The outcome of a Sprue command: OK; RESULT holds the sum of the active rows' losses in row order, the
active rows, the labels out of range and the non-finite elements; NF, EMPTY and TCLAMP as they apply. -/
def Stated.sprueOk (losses : List Word) (oob nf : Nat) (clamp : Bool) : Compl :=
  { status := 0, detail := 0, nstat := 0
    cflags := (if nf = 0 then 0 else 8) + (if losses = [] then 16 else 0) + (if clamp then 128 else 0)
    result := leBytes 4 (losses.foldl fadd 0).toNat ++ leBytes 4 losses.length ++ leBytes 4 oob ++ leBytes 4 nf }

/-- SP_FEAT on one row of student features ys and teacher features yt: loss G·(w/D · Σ(ys − yt)²) and
gradient G·(2w/D)·(ys − yt) element by element; 0 in an ignored row, NaN in a row with a non-finite element. -/
def Stated.featRow (ign : Bool) (D : Nat) (w G : Word) (ys yt : List Word) : Word × List Word :=
  let rD := frecip (f32 (.ofInt D))
  let ds := (List.zip ys yt).map fun e => fsub e.1 e.2
  if ign then (0, List.replicate D 0)
  else if (ys ++ yt).all fIsFin then
    (fmul G (fmul (fmul w rD) (rsum (ds.map fun x => fmul x x))),
     ds.map fun x => fmul G (fmul (fmul (fmul 0x40000000#32 w) rD) x))
  else (0x7FC00000#32, List.replicate D 0x7FC00000#32)

/-- Row block b of a top-k SP_LOSS or of an SP_FEAT is done: the gradient and the loss of each of its n rows stand in
memory, and once every row block of the command is done, on dies that are not in SAFE, so is the command, with the
losses in row order; `row` gives a
row's loss (none where ignored) and gradient, `oob`, `nf` and `clamp` what this row block adds. -/
def Stated.RowBlockDone (s t : State) (p c : Nat) (k : Cmd) (b n grad loss : Nat)
    (row : Nat → Option Word × List Word) (oob nf : Nat) (clamp : Bool) : Prop :=
  let first := b * 512 - fld k.msg 56 4
  let bs := rowBlocks (fld k.msg 56 4) (fld k.msg 60 4)
  let new := (List.range n).map fun i => (row (first + i)).1
  let others := ∀ b' ∈ bs, ∃ r, s.slot? p c b' = some r ∧ s.live r.die = true ∧ (b' ≠ b → r.rowLoss ≠ [])
  let sum (f : RowBlk → Nat) (x : Nat) : Nat :=
    (bs.map fun b' => if b' = b then x else ((s.slot? p c b').map f).getD 0).foldl (· + ·) 0
  t.mem = ((forN n s fun i s => s.wrPart p (tref k.msg grad) (first + i) 0 (row (first + i)).2).wrLosses p k.msg
      loss first (new.map (·.getD 0))).mem ∧
    (others → Stated.DoneWith t p c (Stated.sprueOk
        ((bs.flatMap fun b' => if b' = b then new else ((s.slot? p c b').map (·.rowLoss)).getD []).filterMap id)
        (sum (·.oob) oob) (sum (·.nonfin) nf)
        (clamp || bs.any fun b' => b' ≠ b && ((s.slot? p c b').map (·.clamp)).getD false)) ∧
      ∀ r ∈ t.sprue.blks, ¬ (r.stateOnly = true ∧ r.part = p ∧ r.cid = c)) ∧
    (¬ others → t.cmd? p c = some k ∧ ∃ r, t.slot? p c b = some r ∧ r.rowLoss = new ∧ r.oob = oob ∧
      r.nonfin = nf ∧ r.clamp = clamp)

/-- SP_FEAT takes its row blocks in order, those of a die in SAFE apart: it opens the state slot of the next one where its home slice has a segment
free, or waits for one, and in a slot that is open writes every row's gradient and, where the command names a vector,
its loss; with the last row block it completes. -/
def Stated.FeatureLossAndGradient : Prop :=
  ∀ (s : State) (p c b : Nat) (k : Cmd),
    let m := k.msg
    let D := fld m 64 4
    let first := b * 512 - fld m 56 4
    let n := min 512 (fld m 60 4 - first)
    let home (b' : Nat) := (s.homeOf p (bits (fld m 52 1) 2 1) b').getD 0
    let ys (i : Nat) := s.rdPart p (tref m 80) i 0 D
    let yt (i : Nat) := s.rdPart p (tref m 112) i 0 D
    let ign (i : Nat) : Bool := s.labelOf p (fld m 176 8) i == some 0xFFFFFFFF
    let row (i : Nat) : Option Word × List Word :=
      let x := Stated.featRow (ign i) D (BitVec.ofNat 32 (fld m 68 4)) (BitVec.ofNat 32 (fld m 72 4)) (ys i) (yt i)
      (if ign i then none else some x.1, x.2)
    let bad (i : Nat) : Nat := if ign i then 0 else count (fun v => !fIsFin v) (ys i ++ yt i)
    Stated.SprueRuns s p c 0x301 k →
    (rowBlocks (fld m 56 4) (fld m 60 4)).find? (fun b' =>
        s.live (home b') && (s.slot? p c b').all (·.rowLoss.isEmpty)) = some b →
      (s.slot? p c b = none → exec (.spFeat p c) s = .next
        (if 1 ≤ s.freeSegs p (home b) then
          s.putBlk { RowBlk.fresh p (home b) (fld m 48 4) b c 0 false with stateOnly := true } else s)) ∧
      (∀ r, s.slot? p c b = some r → 0 < n →
        s.tagAccess p ((tref m 80).rowsAt false first n ++ (tref m 112).rowsAt false first n ++
          (tref m 144).rowsAt true first n ++ vecAt (fld m 176 8) first n false ++
          vecAt (fld m 184 8) first n true) = none →
        ∃ t, exec (.spFeat p c) s = .next t ∧ Stated.RowBlockDone s t p c k b n 144 184 row 0
          (r.nonfin + ((List.range n).map fun i => bad (first + i)).foldl (· + ·) 0) false)

/-- A logit unit (i, j) in its tile's order, with a free bank and its range within reach, is offered: the products of
its M-tile rows with its Nw weight rows wait at the Sprue. CG_LOGIT completes once every unit is delivered, its RESULT
the number of them. A waiting unit of 256 entries that its home Sprue can admit, and one of 128 entries whose other
half is in, leaves the waiting units and is counted; the first half of a column block waits in an intake entry. That a
task is one unit is log 17 (DEDUCED), that two units of 128 entries fill one intake entry log 52 (DESIGN CHOICE). -/
def Obligations.LogitUnits : Prop :=
  ∀ (s : State) (p c : Nat) (k : Cmd),
    let m := k.msg
    let tiles := (fld m 60 4 + 511) / 512
    let f := (tref m 112).fmt
    let nw := if f = 0x0A ∨ f = 9 then 256 else 128
    let cols := fld m 64 4 / nw
    let count' := count (fun e => nth 0 e 0 == p && nth 0 e 1 == c) s.sprue.sent
    (Stated.SprueRuns s p c 0x281 k → s.cmdLive k = true → s.unhalted k = true →
      s.unitAccess p true (gridUses k.units (clUses m)) = none → tiles * cols ≤ count' →
      ∃ t, exec (.cgLogit p c) s = .next t ∧ t.mem = s.mem ∧
        Stated.DoneWith t p c ⟨0, 0, 0, s.nstatOf k.units, leBytes 4 count'⟩ ∧
        ∀ e ∈ t.sprue.sent, ¬ (nth 0 e 0 = p ∧ nth 0 e 1 = c)) ∧
    (∀ i j, Stated.SprueRuns s p c 0x281 k → s.cmdLive k = true → s.unhalted k = true → s.passesOk k = true →
      let pos := i % fld m 49 1 * fld m 50 1 + j % fld m 50 1
      let u := gridAt k.units pos
      let mb := fld m 52 4
      let blk := (fld m 72 4 + 512 * i) / 512
      let n := min 512 (fld m 60 4 - 512 * i)
      let sums := Stated.sums n nw 32 (fun r => s.rdRow p (tref m 80) (512 * i + r))
        (fun q => s.rdRow p (tref m 112) (nw * j + q)) fun _ _ => ⟨0, 0, 0⟩
      let seen (h : Nat) : Nat := count (· == [p, mb, blk, j * nw / 256, h]) s.sprue.deliv
      let before := if nw = 256 then max (seen 0) (seen 1) else seen (j % 2)
      i < tiles → j < cols → s.unitGone p c i j = false →
      (∀ i' j', i' < tiles → j' ≤ j → clPos m i' j' = pos → (j' = j ∧ i ≤ i') ∨ s.unitGone p c i' j' = true) →
      count (fun w => w.part == p && w.cid == c && clPos m w.i w.j == pos) s.sprue.waiting < 2 →
      s.unitAccess p true [(u, clRanges m i j)] = none → fld m 72 4 % 512 = 0 → s.doneMb p ≤ mb →
      s.topk p = false → before < 2 →
      ∃ t, exec (.logitUnitOffer p c i j) s = .next t ∧ t.mem = s.mem ∧
        (t.unit u).seq.nstat = (s.unit u).seq.nstat ||| BitVec.ofNat 32 (flagsOf sums) ∧
        t.sprue.waiting = s.sprue.waiting ++ [⟨p, c, dieOfUnit u, mb, blk, j * nw / 256, n, before + 1, i, j, nw,
          sums.map fun r => r.map (·.v)⟩]) ∧
    (∀ (d b j : Nat) (w : LogitUnit), s.Canon → s.live d = true → (s.part p).st ≠ .faulted →
      1 ≤ s.intake p d → s.intake p d ≤ 16 →
      (∀ k', s.cmd? p w.cid = some k' → k'.phase = .running ∨ k'.phase = .saving) →
      s.sprue.waiting.find? (fun x => x.part == p && x.mb == w.mb && x.blk == b && x.j == j) = some w →
      let half := s.sprue.halves.find? fun v =>
        v.part == w.part && v.mb == w.mb && v.blk == w.blk && v.col == w.col && v.pass == w.pass
      let through (r : State) : Prop := ∃ t, exec (.sprueUnitAdmit d p w.mb b j) s = .next t ∧ t.mem = r.mem ∧
        t.sprue.blks = r.sprue.blks ∧ t.sprue.waiting = r.sprue.waiting.erase w ∧
        t.sprue.sent = r.sprue.sent ++ [[p, w.cid, w.i, w.j]]
      (∀ r, w.nw = 256 → s.intakeOcc p d < s.intake p d → s.admitUnit d p w = some r →
        (r.part p).st ≠ .faulted → through r) ∧
      (∀ v r, w.nw ≠ 256 → half = some v →
        (s.setSprue { s.sprue with halves := s.sprue.halves.erase v }).admitUnit d p (w.with v) = some r →
        (r.part p).st ≠ .faulted → through r) ∧
      (w.nw ≠ 256 → half = none → s.intakeOcc p d < s.intake p d → (s.admitUnit d p w).isSome = true →
        ∃ t, exec (.sprueUnitAdmit d p w.mb b j) s = .next t ∧ t.mem = s.mem ∧ t.sprue.blks = s.sprue.blks ∧
          t.sprue.halves = s.sprue.halves ++ [w] ∧ t.sprue.waiting = s.sprue.waiting.erase w))

/-- SP_LOSS in lock-step completes once every row block of its rows is through both passes: losses from the
folded states, the blocks freed. In top-k mode it runs both passes of the student side of a row block whose records
are complete, in its state slot: gradients and losses row by row, the records of that row block freed; with its last
row block it completes. -/
def Stated.DistillationLoss : Prop :=
  ∀ (s : State) (p c : Nat) (k : Cmd),
    let m := k.msg
    let N := fld m 64 4
    let rows := fld m 60 4
    let bs := rowBlocks (fld m 56 4) rows
    let lab (i : Nat) := s.labelOf p (fld m 136 8) i
    let act := (List.range rows).filter fun i => !ignored (lab i) N
    let out (l : List Nat) : Nat :=
      count (fun i => match lab i with | some x => decide (N ≤ x ∧ x ≠ 0xFFFFFFFF) | none => false) l
    (∀ bl : List RowBlk, Stated.SprueRuns s p c 0x300 k → s.topk p = false →
      bs.filterMap (fun b => s.blk? false p (fld m 48 4) b) = bl → bl.length = bs.length →
      (∀ r ∈ bl, r.pass1 = true ∧ r.cols ≤ r.pass2.length ∧ s.live r.die = true) →
      ∃ t, exec (.spLoss p c) s = .next t ∧ t.mem = s.mem ∧
        Stated.DoneWith t p c (Stated.sprueOk
          (act.map fun i => lockLoss k.data (((bl[i / 512]?).map (·.rowAt (i % 512))).getD emptyAcc) false)
          (out (List.range rows)) ((bl.map (·.nonfin)).foldl (· + ·) 0) false) ∧
        t.sprue.blks = s.sprue.blks.filter fun r =>
          !(r.part == p && !r.teacherSide && !r.stateOnly && r.mb == fld m 48 4 && bs.contains r.blk)) ∧
    (∀ (b : Nat) (x r : RowBlk), Stated.SprueRuns s p c 0x300 k → s.topk p = true → b ∈ bs →
      s.blk? true p (fld m 48 4) b = some x → x.pass1 = true → s.live x.die = true → s.slot? p c b = some r → r.rowLoss = [] →
      r.teacherSide = false →
      (∀ b' ∈ bs, b' < b → ∀ x', s.blk? true p (fld m 48 4) b' = some x' → x'.pass1 = true → s.live x'.die = true →
        ∃ r', s.slot? p c b' = some r' ∧ r'.rowLoss ≠ []) →
      let first := b * 512 - fld m 56 4
      let n := min 512 (rows - first)
      0 < n →
      s.tagAccess p ((tref m 72).rowsAt false first n ++ (tref m 104).rowsAt true first n ++
        vecAt (fld m 136 8) first n false ++ vecAt (fld m 144 8) first n true) = none →
      let stu (i : Nat) := s.rdPart p (tref m 72) i 0 N
      let row (i : Nat) : Option Word × List Word × Bool :=
        if ignored (lab i) N then (none, List.replicate N 0, false)
        else match x.recs[i % 512]? with
          | some e => if !e.nf && (stu i).all fIsFin then
              let q := topkRow k.data e (stu i) (lab i) N
              (some q.1, q.2.1, q.2.2)
            else (some 0x7FC00000#32, List.replicate N 0x7FC00000#32, false)
          | none => (some 0x7FC00000#32, List.replicate N 0x7FC00000#32, false)
      let bad (i : Nat) : Nat := if ignored (lab i) N ∨ x.recs[i % 512]? = none then 0
        else count (fun v => !fIsFin v) (stu i)
      let mine := (List.range n).map (first + ·)
      ∃ t, exec (.spLoss p c) s = .next t ∧ t.blk? true p (fld m 48 4) b = none ∧
        Stated.RowBlockDone s t p c k b n 104 144 (fun i => ((row i).1, (row i).2.1)) (out mine)
          (r.nonfin + (mine.map bad).foldl (· + ·) 0 + x.nonfin) (mine.any fun i => (row i).2.2))

/-- A lock-step unit that its home Sprue admits. In pass 1 its rows' partials join the row block, opened where it is
not: folded where the unit is the next column block, kept until its turn where it is ahead, and its non-finite elements
are counted. In pass 2 its rows' gradients are written, and with the last column block the row losses; a row whose first
non-finite value is found here is NaN in the column blocks before too. -/
def Stated.LockStepPasses : Prop :=
  ∀ (s : State) (d p b j : Nat) (k : Cmd) (w : LogitUnit), s.Canon → s.live d = true → (s.part p).st ≠ .faulted →
    1 ≤ s.intake p d → s.intake p d ≤ 16 → s.topk p = false →
    (∀ k', s.cmd? p w.cid = some k' → k'.phase = .running ∨ k'.phase = .saving) →
    s.sprue.waiting.find? (fun x => x.part == p && x.mb == w.mb && x.blk == b && x.j == j) = some w →
    w.nw = 256 → s.intakeOcc p d < s.intake p d → s.coverOf p w.mb b = some k →
    s.homeOf p (bits (fld k.msg 52 1) 2 1) b = some d →
    let N := fld k.msg 64 4
    let first := b * 512 - fld k.msg 56 4
    let n := min w.nrows (fld k.msg 60 4 - first)
    let lab (i : Nat) := s.labelOf p (fld k.msg 136 8) (first + i)
    let tea (i : Nat) : List Word := (w.data[i]?).getD []
    let stu (i : Nat) := s.rdPart p (tref k.msg 72) (first + i) (w.col * 256) 256
    let odd (i : Nat) : Nat := if ignored (lab i) N then 0 else count (fun v => !fIsFin v) (tea i ++ stu i)
    let old := s.blk? false p w.mb b
    let put (t : State) (r : RowBlk) : Prop := exec (.sprueUnitAdmit d p w.mb b j) s = .next t ∧
      t.blk? false p w.mb b = some r ∧ t.sprue.waiting = s.sprue.waiting.erase w ∧
      t.sprue.sent = s.sprue.sent ++ [[p, w.cid, w.i, w.j]]
    (w.pass = 1 →
      let r := old.getD (RowBlk.fresh p d w.mb b k.cid (N / 256) false)
      (old = none → 1 + s.win p d ≤ s.freeSegs p d) → r.pass1 = false → w.col < r.cols →
      (w.col = r.next ∨ (r.next < w.col ∧ w.col ≤ r.next + s.win p d ∧ r.parts.length < s.win p d)) →
      s.tagAccess p (lossRanges k.msg first n w.col false false) = none →
      ∃ t, put t { r.join [dRev k.data 0, dRev k.data 1] 0 w.col
          ((List.range n).map fun i => rowPartial k.data N w.col (tea i) (stu i) (lab i)) with
        nonfin := r.nonfin + ((List.range n).map odd).foldl (· + ·) 0 } ∧ t.mem = s.mem) ∧
    (∀ r, w.pass ≠ 1 → old = some r → r.pass1 = true → r.die = d → w.col < r.cols → r.pass2.contains w.col = false →
      let last : Bool := decide (r.cols ≤ r.pass2.length + 1)
      s.tagAccess p (lossRanges k.msg first n w.col true last) = none →
      let bad (i : Nat) : Nat := if ((r.rows[i]?).getD emptyAcc).nf then 0 else odd i
      let found := (List.range n).filter fun i => bad i ≠ 0 && !r.nf2.contains i
      let r' := { r with
        nf2 := r.nf2 ++ found, nonfin := r.nonfin + ((List.range n).map bad).foldl (· + ·) 0,
        pass2 := r.pass2 ++ [w.col] }
      let grads := forN n s fun i u =>
        (if found.contains i then r.pass2.foldl (fun u j' =>
            u.wrPart p (tref k.msg 104) (first + i) (j' * 256) (List.replicate 256 0x7FC00000#32)) u else u).wrPart p
          (tref k.msg 104) (first + i) (w.col * 256)
          (lockGrad k.data (r'.rowAt i) (ignored (lab i) N) w.col (lab i) (tea i) (stu i))
      ∃ t, put t r' ∧ t.mem = (if last then grads.wrLosses p k.msg 144 first ((List.range n).map fun i =>
        lockLoss k.data (r'.rowAt i) (ignored (lab i) N)) else grads).mem)

/-- The losses of the Sprue. When a state slot is taken and freed is log 17 (DEDUCED). -/
def Obligations.SprueLosses : Prop :=
  Stated.FeatureLossAndGradient ∧ Stated.DistillationLoss ∧ Stated.LockStepPasses

/-- A started Fumarole command of its stack queue, every unit that it needs serving its partition in the
present slot, with every range within its rights (none is used by an update of a skipped step). -/
structure Stated.FumRuns (s : State) (p c op n : Nat) (k : Cmd) : Prop where
  canon : s.Canon
  queues : twf [] s.stk.fumQ = true
  runs : twf [] s.stk.fumRun = true
  cmd : s.cmd? p c = some k
  isOp : k.opcode = op
  stack : fmStack k.msg = n
  phase : k.phase = .running
  out : k.out = none
  head : (s.fumRun n p).contains c = true
  live : s.live (dieOfStack n) = true
  up : (s.part p).st ≠ .faulted
  turn : s.fumTurn n p k.fmChans = true
  access : (op = 0x380 ∧ s.updFate p k = some true) ∨ s.tagAccess p (fmRanges op k.msg k.data) = none

/-- In `t` the command is done with this outcome and has left its stack queue. -/
def Stated.FumDone (s t : State) (p c n : Nat) (o : Compl) : Prop :=
  Stated.DoneWith t p c o ∧ t.fumQ n p = (s.fumQ n p).filter (· ≠ c) ∧
    t.fumRun n p = (s.fumRun n p).filter (· ≠ c)

/-- FM_AMAX writes amax and σ of each block and counts the non-finite elements; FM_GATHER copies the row of
each index that its start read, zeros for one at or past VL; FM_EF adds E and G, subtracts, or packs one-bit signs with a scale
per 256 elements. Each is done with status OK and leaves its queue. -/
def Stated.FumaroleDataCommands : Prop :=
  ∀ (s : State) (p c n : Nat) (k : Cmd),
    let m := k.msg
    (Stated.FumRuns s p c 0x381 n k →
      let rows := s.rdTensor p (tref m 56)
      let blocks := if bit (fld m 52 1) 0 then chunksOf 128 rows else [rows]
      let am (i : Nat) : Fl := amaxFin (blocks.getD i []).flatten
      ∃ t, exec (.fmAmax p c) s = .next t ∧
        t.mem = (forN blocks.length s fun i s =>
          (s.wr p (fld m 88 8 + 4 * i) (leBytes 4 (f32 (am i)).toNat)).wr p (fld m 96 8 + i)
            (leBytes 1 (wrap 8 (sigmaOf (scaleF (fld m 53 1)) (am i))))).mem ∧
        Stated.FumDone s t p c n ⟨0, 0, 0, 0, leBytes 8 ((rows.map (count fun v => !v.isFin)).foldl (· + ·) 0)⟩) ∧
    (Stated.FumRuns s p c 0x382 n k →
      let rb := fld m 52 4
      let vl := fld m 60 4
      let idx (r : Nat) : Nat := fld k.data (4 * r) 4
      let oob := count (fun r => decide (vl ≤ idx r)) (List.range (fld m 56 4))
      ∃ t, exec (.fmGather p c) s = .next t ∧
        t.mem = (forN (fld m 56 4) s fun r t => t.wr p (fld m 80 8 + r * rb)
          (if idx r < vl then t.rd p (fld m 64 8 + idx r * rb) rb else List.replicate rb 0)).mem ∧
        Stated.FumDone s t p c n ⟨0, 0, 0, if oob = 0 then 0 else 8, leBytes 4 oob⟩) ∧
    (Stated.FumRuns s p c 0x383 n k →
      let cnt := fld m 56 8
      let die := dieOfStack n
      ∃ t, exec (.fmEf p c) s = .next t ∧ Stated.FumDone s t p c n ⟨0, 0, 0, 0, []⟩ ∧
        t.mem =
          (if fld m 52 1 = 0 then
            s.wr p (fld m 80 8) ((List.range cnt).flatMap fun i => leBytes 4 (fadd (s.efE p m i) (s.efG p m i)).toNat)
          else if fld m 52 1 = 1 then
            s.efPut p die m 0 ((List.range cnt).map fun i =>
              fsub (s.rdW p (fld m 80 8 + 4 * i)) (s.rdW p (fld m 88 8 + 4 * i)))
          else forN (cdiv cnt 256) s fun b s => s.efBlock p die m b).mem)


/-- FM_ATTN writes the new K and V rows under W, then O as the normalised rows of every query head in BF16,
and the log-sum-exp under L; FM_GEMV writes y = W·x for every row of every slab and every vector, each one
chain; FM_UPDATE updates every block of every flask of the list that its start read, or nothing in a skipped step, and
waits until its step is sealed. Each is done with status OK. -/
def Stated.FumaroleModelCommands : Prop :=
  ∀ (s : State) (p c n : Nat) (k : Cmd),
    let m := k.msg
    (Stated.FumRuns s p c 0x384 n k →
      let hq := fld m 53 1
      let g : KvGeo := ⟨fld m 54 1, 2 ^ fld m 55 1, fld m 57 1⟩
      let P := kvPage g.hkv g.d
      let nodes := fmNodes m k.data
      let pages := fmPages m k.data
      let s1 := if bit (fld m 56 1) 0 then s.kvWrite p n g P (fld m 112 8) nodes else s
      let q := s1.rdTensor p (tref m 64)
      let hs := (List.range hq).map fun h => s1.kvHead p n g P (fld m 55 1) h (h / (hq / g.hkv)) q pages nodes
      let emp := hs.any fun h => h.1.any fun r => r.l == 0
      let flags := hs.foldl (fun a h => a ||| h.2) (if emp then 2 else 0)
      let o := joinHeads q.length (hs.map fun h => h.1.map AttnRow.norm)
      let l := joinHeads q.length (hs.map fun h => h.1.map fun r => [r.lse])
      let s2 := (forN q.length s1 fun i s => s.wr p (fld m 120 8 + i * 2 * hq * g.d)
        (packCodes 2 ((o.getD i []).map fun w => (bf16.enc false (fl w)).1))).fhAdd (dieOfStack n) p 1 2
          (Tally.of (o.flatMap fun r => r.map fun w => (bf16.enc false (fl w)).2))
      ∃ t, exec (.fmAttn p c) s = .next t ∧
        t.mem = (if bit (fld m 56 1) 1 then
          forN q.length s2 fun i s => s.wr p (fld m 128 8 + i * 4 * hq)
            ((l.getD i []).flatMap fun w => leBytes 4 w.toNat) else s2).mem ∧
        Stated.FumDone s t p c n ⟨0, 0, if emp then 16 else 0, BitVec.ofNat 32 flags, []⟩) ∧
    (Stated.FumRuns s p c 0x385 n k →
      let B := fld m 52 1
      let K := fld m 60 4
      let wf := fld m 72 1
      let xf := fld m 73 1
      let yf := fld m 74 1
      let x (b : Nat) : List Fl := decRow xf (s.rd p (fld m 80 8 + b * packed xf K) (rowBytes xf K)) []
        (if xf = 3 ∨ xf = 4 then sext 8 (fld m 76 1) else 0) K
      let w (e : Slab) (r : Nat) : List Fl :=
        decRow wf (s.rd p (flaskAddr n e.gran + r * packed wf K) (rowBytes wf K))
          (if isMx wf then
            s.rd p (flaskAddr n e.gran + e.rows * packed wf K + r * scalePitch K) (scalePitch K) else [])
          (if wf = 3 ∨ wf = 4 then sext 8 (fld m 75 1) else 0) K
      let cells := (fmSlabs m k.data).flatMap fun e => (List.range e.rows).flatMap fun r =>
        (List.range B).map fun b => (e.row + r, b, dotChain (if wf = 2 then 16 else 32) (w e r) (x b) ⟨0, 0, 0⟩)
      let flags : Nat := cells.foldl (fun a o => a ||| o.2.2.flags) 0
      ∃ t, exec (.fmGemv p c) s = .next t ∧
        t.mem = (cells.foldl (fun (t : State) o =>
          let e := encElem yf false 0 (fl o.2.2.v)
          (t.wr p (fld m 88 8 + o.2.1 * packed yf (slabTop (fmSlabs m k.data)) + o.1 * (fmtBits yf / 8))
            (leBytes (fmtBits yf / 8) e.1)).fhAdd (dieOfStack n) p 1 yf
              (if yf = 0 then Tally.of [] else Tally.of [e.2])) s).mem ∧
        Stated.FumDone s t p c n ⟨0, 0, if flags &&& 2 = 0 then 0 else 16, BitVec.ofNat 32 flags, []⟩) ∧
    (Stated.FumRuns s p c 0x380 n k →
      let sealed := fld k.data 0 1 = 2 ∧ (s.part p).step.last = fld m 56 8
      (fld k.data 0 1 = 1 ∨ sealed ∧ (s.part p).step.skip = true → ∃ t, exec (.fmUpdate p c) s = .next t ∧ t.mem = s.mem ∧
        Stated.FumDone s t p c n ⟨0, 0, 4, 0, []⟩) ∧
      (fld k.data 0 1 = 0 ∨ sealed ∧ (s.part p).step.skip = false →
        (∀ e ∈ updFlasks m k.data, ∀ r ∈ s.stk.readMarks, r.1 ≠ granKey n e.1) →
        ∃ t, exec (.fmUpdate p c) s = .next t ∧ Stated.FumDone s t p c n ⟨0, 0, 0, 0, []⟩ ∧
          t.mem = ((updFlasks m k.data).foldl (fun s e =>
            let q := s.updPar p k (fld e.2 0 4)
            forN (cdiv (fld e.2 12 4) 128)
              (s.setStk { s.stk with updStep := tput 0 s.stk.updStep (granKey n e.1) (fld m 56 8) })
              fun b s => s.updBlock p (dieOfStack n) (flaskAddr n e.1) q (fld e.2 4 8) (fld e.2 12 4) b) s).mem)) ∧
    (s.cmd? p c = some k → k.opcode = 0x380 → fld k.data 0 1 = 2 → fld m 56 8 > (s.part p).step.last →
      exec (.fmUpdate p c) s = .next s)

/-- The Fumarole commands. The layout of a node entry and of NEWKV, the rows of FM_GEMV's y and the records that a start
keeps are log 18 (DEDUCED). -/
def Obligations.FumaroleCommands : Prop :=
  Stated.FumaroleDataCommands ∧ Stated.FumaroleModelCommands

/-- The first command of a stack queue that has not started starts once the units that it needs are done with the
commands before it: its start time is now, it keeps the records that its start read (log 18), and its units' NSTAT are 0. A finished or unknown command's marks on a flask are
lifted. A unit error takes the unit out of service and records it; a corrected one is counted. A slot
boundary moves the stack to the next of its 32 slots. -/
def Obligations.FumaroleQueuesAndUnits : Prop :=
  ∀ (s : State), s.Canon →
    (∀ (n p c : Nat) (k : Cmd), twf [] s.stk.fumRun = true →
      (s.fumQ n p).find? (fun i => !(s.fumRun n p).contains i) = some c → s.cmd? p c = some k →
      (∀ ch ∈ fmChans k.opcode k.msg (s.fmRecord p k.opcode k.msg), s.fumOn n p ch = none) → k.phase = .running → k.out = none →
      s.live (dieOfStack n) = true → (s.part p).st ≠ .faulted →
      s.tagAccess p (fmRecRanges k.opcode k.msg) = none → s.fmStart p k.opcode k.msg = none →
      ∃ t, exec (.fmQueueStart n p) s = .next t ∧ t.fumRun n p = s.fumRun n p ++ [c] ∧
        t.fumQ n p = s.fumQ n p ∧
        t.cmd? p c = some { k with start := s.dev.time, data := s.fmRecord p k.opcode k.msg } ∧
        (∀ ch ∈ fmChans k.opcode k.msg (s.fmRecord p k.opcode k.msg),
          t.pg .fum (n * 64 + s.fumUnit n ch) 0x48 = 0) ∧ t.mem = s.mem) ∧
    (∀ (p c n g : Nat), (∀ k, s.cmd? p c = some k → k.out ≠ none ∨ k.phase = .answered) →
      exec (.flaskMarkRelease p c n g) s = .next { s with
        stk := { s.stk with
          marks := s.stk.marks.filter (· ≠ (granKey n g, p, c))
          readMarks := s.stk.readMarks.filter (· ≠ (granKey n g, p, c)) } }) ∧
    (∀ (n u code : Nat), code = 1 ∨ code = 2 → n < 12 → u < 33 →
      ∃ t, exec (.unitFail n u code) s = .next t ∧ n * 64 + u ∈ t.stk.fumDown ∧
        FailUnit.fum n u ∈ t.maps.runFail ∧ bit (t.pg .fum (n * 64 + u) 0x14) code = true ∧
        bit (t.pg .stack n 0x14) 6 = true ∧ t.mem = s.mem ∧
        ∀ q ∈ s.fumUsers n u, (s.part q).st.faultable = true → (t.part q).st = .faulted) ∧
    (∀ (n u : Nat), n < 12 → u < 33 → ∃ t, exec (.unitFail n u 3) s = .next t ∧
      bit (t.pg .fum (n * 64 + u) 0x14) 3 = true ∧
      t.pg .fum (n * 64 + u) 0x50 = min (s.pg .fum (n * 64 + u) 0x50 + 1) 0xFFFF ∧ t.stk = s.stk) ∧
    (∀ n, ∃ t, exec (.fumaroleSlotBoundary n) s = .next t ∧
      t.stack n = { s.stack n with slot := ((s.stack n).slot + 1) % 32 } ∧ t.mem = s.mem ∧ t.parts = s.parts)


/-! ## The Ladle (chapter 12) -/

/-- A started LD command with no outcome whose collective is in flight at its live home, every range within
its rights, no message waiting and no segment held back by an update mark, the partition not FAULTED. -/
structure Stated.LadleRuns (s : State) (p c op : Nat) (k : Cmd) (x : Coll) : Prop where
  canon : s.Canon
  cmd : s.cmd? p c = some k
  coll : (s.part p).ladle.colls.find? (fun y => y.cid == c) = some x
  isOp : k.opcode = op
  kind : x.reduce = (op == 0x400)
  phase : k.phase = .running
  out : k.out = none
  live : s.live (if x.reduce then x.ridx % 2 else x.tensor % 2) = true
  access : s.tagAccess p (s.ldRanges p x) = none
  idle : (s.part p).ladle.waiting = []
  paid : ∀ y ∈ (s.part p).ladle.colls, y.owed = []
  up : (s.part p).st ≠ .faulted

/-- LD_REDUCE: a member outside the list contributes nothing and ends at once with the combined exponent of
no contributor; in the list it reports its exponent and waits for the positions below it in the tree; alone
in the list, its finite elements are quantised at their shared exponent, restored and written to DEST. -/
def Stated.ReductionsProceed : Prop :=
  ∀ (s : State) (p c rank pos : Nat) (k : Cmd) (x : Coll),
    let d := x.desc
    Stated.LadleRuns s p c 0x400 k x → s.myRank p = some rank →
    (x.ranks.contains rank = false →
      ∃ t, exec (.ldReduce p c) s = .next t ∧ t.mem = s.mem ∧
        Stated.DoneWith t p c ⟨0, 0, 0, 0, [0x6B, 0xFF, 0xFF, 0xFF]⟩ ∧
        ∀ y ∈ (t.part p).ladle.colls, y.cid ≠ c) ∧
    (x.ranks.contains rank = true → x.ranks.idxOf rank = pos → (∀ r ∈ x.reports, r.1 ≠ pos) →
      (∃ q, (q = 1 ∨ q = 2 ∨ q = 3 ∨ q = 4) ∧ 4 * pos + q < x.ranks.length ∧ ∀ r ∈ x.reports, r.1 ≠ 4 * pos + q) →
      let r := s.lReport p d
      ∃ t, exec (.ldReduce p c) s = .next t ∧ t.mem = s.mem ∧ t.cmd? p c = some k ∧
        (t.part p).ladle.colls.find? (fun y => y.cid == c) =
          some { x with reports := x.reports ++ [(pos, r.1, r.2.1, if r.2.1 then s.fabric.devId else 0xFFFF)] }) ∧
    (x.ranks = [rank] → x.reports = [] → x.sentUp = false → x.comb = none → x.prog = [] → x.onebit = false →
      lOneBit d = false → lFlask d = false → lGives d = true → x.shards = [(rank, lCount d, 0)] →
      1 ≤ lCount d → lCount d ≤ 16384 → (∀ i, i < lCount d → (s.lElem p d i).isFin = true) →
      s.tagAccess p (segGives d 0 (lCount d) ++ [(lDest d, 4 * lCount d, true)]) = none →
      let e := (s.lReport p d).1
      ∃ t, exec (.ldReduce p c) s = .next t ∧
        t.mem = (forN (lCount d) s fun i u =>
          u.wrW p (lDest d + 4 * i) (restore (quantise e (lH d) (s.lElem p d i)).1 e (lH d))).mem ∧
        Stated.DoneWith t p c ⟨0, 0, 0, 0, leBytes 2 (wrap 16 e) ++ [0xFF, 0xFF]⟩)

/-- LD_GATHER from a TENSOR: an owner waits until the step is sealed and the next one open, and for the update marks of
flasks that its source meets; it then serves its shard, here to itself as the one receiver; past the next step it answers STATE_CONFLICT. -/
def Stated.GathersProceed : Prop :=
  ∀ (s : State) (p c rank : Nat) (k : Cmd) (x : Coll),
    let d := x.desc
    let last := (s.part p).step.last
    let g := lStep d
    Stated.LadleRuns s p c 0x401 k x → s.myRank p = some rank → lFlask d = false →
    x.shards = [(rank, lCount d, 0)] → x.served = false →
    (last < g → exec (.ldGather p c) s = .next s) ∧
    (g + 1 < last → x.ranks = [rank] → ∃ t, exec (.ldGather p c) s = .next t ∧ t.mem = s.mem ∧
      Stated.DoneWith t p c ⟨3, 0, 0, 0, []⟩) ∧
    (last = g + 1 ∨ (last = g ∧ ∃ r, (s.part p).step.opened = some r ∧ r.step = g + 1) →
      x.ranks = [rank] → x.prog = [] → 1 ≤ lCount d → lCount d ≤ 32768 →
      (∀ m ∈ s.stk.marks, s.gatherReads p x m.1 = false) →
      s.tagAccess p [(lDest d, 2 * lCount d, true)] = none →
      ∃ t, exec (.ldGather p c) s = .next t ∧
        t.mem = (s.wr p (lDest d) ((List.range (lCount d)).flatMap fun j =>
          leBytes 2 (s.rdU p (lSrc d + 2 * j) 2))).mem ∧
        Stated.DoneWith t p c ⟨0, 0, 0, 0, []⟩)

/-- Reductions and gathers. -/
def Obligations.CollectivesProceed : Prop :=
  Stated.ReductionsProceed ∧ Stated.GathersProceed

/-- The fabric command that a Ladle message arrives by. -/
def Stated.ldArrival (port : Nat) : LdMsg → Instr
  | .preUp m => .ldPreUp port m | .preDown m => .ldPreDown port m | .seg m => .ldSeg port m
  | .gseg m => .ldGseg port m | .sealUp m => .ldSealUp port m | .sealDown m => .ldSealDown port m

/-- Partition of a Ladle message. -/
def Stated.ldPart : LdMsg → Nat
  | .preUp m => m.part | .preDown m => m.part | .seg m => m.part | .gseg m => m.part
  | .sealUp m => m.part | .sealDown m => m.part

/-- A Ladle message arrives at a live port, up, for a partition that is not FAULTED. -/
structure Stated.LdArrives (s : State) (port p : Nat) (m : LdMsg) : Prop where
  canon : s.Canon
  part : Stated.ldPart m = p
  isPart : p < 8
  link : (s.port port).st ≠ .down
  live : s.live (dieOfPort port) = true
  up : (s.part p).st ≠ .faulted

/-- What every Ladle message meets at its arrival: of a past epoch it is discarded, of an epoch to come it is
held, and of the present epoch without the command that takes it, it waits; a segment takes a buffer of its
partition's quota, and without one free it is not taken. -/
def Stated.LadleMessagesArrive : Prop :=
  ∀ (s : State) (port p : Nat) (m : LdMsg), Stated.LdArrives s port p m →
    let l := (s.part p).ladle
    (m.epoch < l.epoch → ∃ t, exec (Stated.ldArrival port m) s = .next t ∧ t.mem = s.mem ∧ t.parts = s.parts ∧
      t.fabric = s.fabric) ∧
    (l.epoch < m.epoch → (m.isSeg = true → s.ldUsed p m.home < (s.part p).ladleBufs m.home) → ∃ t, exec (Stated.ldArrival port m) s = .next t ∧ t.mem = s.mem ∧
      (t.part p).ladle = { l with future := l.future ++ [m] }) ∧
    (m.epoch = l.epoch → l.colls = [] → (s.part p).step.sealing = none →
      (∀ w, m ≠ .sealDown w) → (m.isSeg = true → s.ldUsed p m.home < (s.part p).ladleBufs m.home) →
      ∃ t, exec (Stated.ldArrival port m) s = .next t ∧ t.mem = s.mem ∧
        (t.part p).ladle = { l with waiting := l.waiting ++ [m] }) ∧
    (l.epoch < m.epoch → m.isSeg = true → (s.part p).ladleBufs m.home ≤ s.ldUsed p m.home →
      exec (Stated.ldArrival port m) s = .next s)

/-- What each Ladle message does in its own collective, of its index or tensor and its step, or seal: a report joins the pre-pass; a combined value
that is not finite ends the reduction with NF; an owner restores a segment's sums with its own part and
writes them; the last receiver of a chain writes the parameters, and a segment that tells of a difference cancels the gather; a
seal word joins those from below; the combined word is taken. -/
def Obligations.LadleMessagesAct : Prop :=
  ∀ (s : State) (port p rank pos : Nat) (x : Coll),
    let l := (s.part p).ladle
    l.waiting = [] → (∀ y ∈ l.colls, y.owed = []) → s.myRank p = some rank →
    (∀ m : PreMsg, Stated.LdArrives s port p (.preUp m) → m.epoch = l.epoch →
      l.colls.find? (fun y => y.reduce && y.ridx == m.ridx && lStep y.desc == m.step) = some x → x.ranks.contains rank = true →
      l.colls.find? (fun y => y.cid == x.cid) = some x → x.ranks.idxOf rank = pos → m.fp = x.fp →
      (∀ r ∈ x.reports, r.1 ≠ pos) → m.pos ≠ pos →
      ∃ t, exec (.ldPreUp port m) s = .next t ∧ t.mem = s.mem ∧
        (t.part p).ladle.colls.find? (fun y => y.cid == x.cid) =
          some { x with reports := x.reports ++ [(m.pos, m.e, m.nf, m.flagger)] }) ∧
    (∀ (m : PreMsg) (k : Cmd), Stated.LdArrives s port p (.preDown m) → m.epoch = l.epoch →
      l.colls.find? (fun y => y.reduce && y.ridx == m.ridx && lStep y.desc == m.step) = some x → x.ranks.contains rank = true →
      s.cmd? p x.cid = some k → x.ranks.idxOf rank = pos → x.ranks.length ≤ 4 * pos + 1 → m.fp = x.fp →
      x.comb = none → m.nf = true →
      ∃ t, exec (.ldPreDown port m) s = .next t ∧ t.mem = s.mem ∧
        Stated.DoneWith t p x.cid ⟨0, 0, 8, 0, [0x00, 0x80] ++ leBytes 2 m.flagger⟩ ∧
        bit (t.pg .ladle (x.ridx % 2) 0x14) 6 = true) ∧
    (∀ (m : SegMsg) (e : Int) (nf : Bool) (fl owner n first : Nat), Stated.LdArrives s port p (.seg m) →
      m.epoch = l.epoch → l.colls.find? (fun y => y.reduce && y.ridx == m.ridx && lStep y.desc == m.step) = some x →
      x.ranks.contains rank = true → x.ranks.idxOf rank = pos → x.comb = some (e, nf, fl) → x.onebit = false →
      lFlask x.desc = false → x.shards[m.shard]? = some (owner, n, first) → x.ranks.idxOf owner = pos →
      let own (i : Nat) : Int :=
        if lGives x.desc then (quantise e (lH x.desc) (s.lElem p x.desc (m.first + i))).1 else 0
      let base := ownedBase x.shards owner m.shard
      s.tagAccess p (segGives x.desc m.first m.sums.length ++ s.segKept p x m.shard m.first m.sums.length) = none →
      ∃ t, exec (.ldSeg port m) s = .next t ∧
        t.mem = (forN m.sums.length s fun i u =>
          u.wrW p (lDest x.desc + 4 * (base + (m.first + i - first)))
            (restore (m.sums.getD i 0 + own i) e (lH x.desc))).mem) ∧
    (∀ m : GSegMsg, Stated.LdArrives s port p (.gseg m) → m.epoch = l.epoch →
      l.colls.find? (fun y => !y.reduce && y.tensor == m.tensor && lStep y.desc == m.gstep && y.fp == m.fp &&
        decide (tget 0 y.prog m.shard < (y.shards.getD m.shard (0, 0, 0)).2.1)) = some x → m.conflict = false →
      m.cancel = false → s.tagAccess p [(lDest x.desc + 2 * m.first, 2 * m.vals.length, true)] = none →
      chainNext (gatherChain x.ranks (x.shards.getD m.shard (0, 0, 0)).1) rank = none →
      ∃ t, exec (.ldGseg port m) s = .next t ∧
        t.mem = (s.wr p (lDest x.desc + 2 * m.first) (m.vals.flatMap fun v => leBytes 2 v.toNat)).mem) ∧
    (∀ (m : GSegMsg) (k : Cmd), Stated.LdArrives s port p (.gseg m) → m.epoch = l.epoch → m.cancel = true →
      l.colls.find? (fun y => !y.reduce && y.tensor == m.tensor && lStep y.desc == m.gstep) = some x →
      s.cmd? p x.cid = some k →
      ∃ t, exec (.ldGseg port m) s = .next t ∧ t.mem = s.mem ∧ Stated.DoneWith t p x.cid ⟨8, 0, 0, 0, []⟩ ∧
        bit (t.pg .ladle (x.tensor % 2) 0x14) 3 = true) ∧
    (∀ (m : SealMsg) (z : Seal) (r : StepRed), Stated.LdArrives s port p (.sealUp m) → m.epoch = l.epoch →
      (s.part p).step.sealing = some (z, r) → z.entered = false → z.word = none →
      z.result = none → z.got.contains m.pos = false →
      ∃ t, exec (.ldSealUp port m) s = .next t ∧ t.mem = s.mem ∧
        (t.part p).step.sealing = some ({ z with word := some m, got := z.got ++ [m.pos] }, r)) ∧
    (∀ (m : SealMsg) (z : Seal) (r : StepRed), Stated.LdArrives s port p (.sealDown m) → m.epoch = l.epoch →
      (s.part p).step.sealing = some (z, r) → z.entered = true → z.result = none →
      l.members.length ≤ 4 * rank + 1 →
      ∃ t, exec (.ldSealDown port m) s = .next t ∧ t.mem = s.mem ∧
        (t.part p).step.sealing = some ({ z with result := some m }, r))

/-- A member that is lost is listed once, with event 4 in both Ladle pages; one that has not been heard for a quarter of
LOSS_TO is probed, or counted lost where there is no route to it. That a probe leaves by the table of West is log 26. -/
def Stated.MembersLostAndProbed : Prop :=
  ∀ (s : State) (p dev : Nat),
    let l := (s.part p).ladle
    (s.Canon → l.epoch ≠ 0 → dev ∈ l.members → dev ≠ s.fabric.devId → dev ∉ l.lost →
      ∃ t, exec (.memberLost p dev) s = .next t ∧ (t.part p).ladle = { l with lost := l.lost ++ [dev] } ∧
        bit (t.pg .ladle 0 0x14) 4 = true ∧ bit (t.pg .ladle 1 0x14) 4 = true) ∧
    (dev ∈ l.lost → exec (.memberLost p dev) s = .next s) ∧
    (s.dev.time < tget 0 s.fabric.heard dev + l.lossTo * 250000 → exec (.probeDue p dev) s = .next s) ∧
    (∀ n, l.epoch ≠ 0 → dev ∈ l.members → dev ≠ s.fabric.devId → s.routeOf 0 dev = some n →
      tget 0 s.fabric.heard dev + l.lossTo * 250000 ≤ s.dev.time →
      ∃ t, exec (.probeDue p dev) s = .next t ∧ t.mem = s.mem ∧
        t.fabric = (s.fabSend 0 dev 0 fun _ tag => .raw
          (fabBytes l.ver 0 0x10 s.fabric.devId dev p p l.epoch tag (leBytes 4 l.epoch))).1.fabric) ∧
    (s.Canon → p < 8 → l.epoch ≠ 0 → dev ∈ l.members → dev ≠ s.fabric.devId → s.routeOf 0 dev = none →
      tget 0 s.fabric.heard dev + l.lossTo * 250000 ≤ s.dev.time →
      ∃ t, exec (.probeDue p dev) s = .next t ∧ dev ∈ (t.part p).ladle.lost)

/-- Ladle messages at their arrival, and members that are lost. -/
def Obligations.LadleArrivalsAndMembers : Prop :=
  Stated.LadleMessagesArrive ∧ Stated.MembersLostAndProbed

/-! ## The training step, copies and storage (chapters 11, 15 and 16) -/

/-- A started command of a step with no outcome, on a live device, its partition not FAULTED; identifiers of
the partition's commands do not repeat. -/
structure Stated.StepRuns (s : State) (p c op : Nat) (k : Cmd) : Prop where
  canon : s.Canon
  cmd : s.cmd? p c = some k
  ids : ((s.part p).cmds.map (·.cid)).Nodup
  isOp : k.opcode = op
  phase : k.phase = .running
  out : k.out = none
  live : s.live 0 = true
  up : (s.part p).st ≠ .faulted

/-- STEP_CFG sets the step state, and is a conflict while a step is open or being sealed; STEP_OPEN opens step LAST + 1, or LAST + 2 while LAST + 1
is being sealed, and otherwise is a conflict; STEP_SEAL closes the open step it names and waits with it, and
is a conflict for any other. -/
def Obligations.StepsAreConfiguredAndOpened : Prop :=
  ∀ (s : State) (p c : Nat) (k : Cmd),
    let m := k.msg
    let x := (s.part p).step
    let n := fld m 48 8
    let next := (n = x.last + 1 ∧ ∀ z, x.sealing = some z → z.1.step ≠ n) ∨
      (n = x.last + 2 ∧ ∃ z, x.sealing = some z ∧ z.1.step = x.last + 1)
    (Stated.StepRuns s p c 0x410 k → x.held = none → x.opened = none → x.sealing = none →
      ∃ t, exec (.stepCfg p c) s = .next t ∧ t.mem = s.mem ∧ Stated.DoneWith t p c ⟨0, 0, 0, 0, []⟩ ∧
        (t.part p).step = { x with
          last := fld m 64 8, steps := fld m 72 4, skips := fld m 76 4, opened := none, broken := false, brokenAt := 0,
          seed := BitVec.ofNat 64 (fld m 48 8), seedBase := fld m 56 4, nfAny := bit (fld m 60 4) 0,
          tapVent := bit (fld m 60 4) 1, ring := (fld m 80 8, fld m 88 1), tapIdx := 0, tapFree := 0,
          wmark := fld m 90 2, sealTo := fld m 92 4 }) ∧
    (Stated.StepRuns s p c 0x410 k → x.opened ≠ none ∨ x.sealing ≠ none →
      ∃ t, exec (.stepCfg p c) s = .next t ∧ (t.part p).step = x ∧ Stated.DoneWith t p c ⟨3, 0, 0, 0, []⟩) ∧
    (Stated.StepRuns s p c 0x411 k → x.opened = none → x.broken = false →
      next →
      ∃ t, exec (.stepOpen p c) s = .next t ∧ t.mem = s.mem ∧ Stated.DoneWith t p c ⟨0, 0, 0, 0, []⟩ ∧
        (t.part p).step = { x with opened := some ⟨n, fld m 56 2, [], [], [], false, 0xFFFF, 0, false⟩ }) ∧
    (Stated.StepRuns s p c 0x411 k → x.opened ≠ none ∨ x.broken = true ∨ ¬ next →
      ∃ t, exec (.stepOpen p c) s = .next t ∧ (t.part p).step = x ∧ Stated.DoneWith t p c ⟨3, 0, 0, 0, []⟩) ∧
    (∀ r, Stated.StepRuns s p c 0x412 k → x.opened = some r → r.step = n → x.broken = false →
      x.sealing = none → s.fabric.devId ∉ (s.part p).ladle.standby → (s.part p).ladle.waiting = [] →
      (∀ y ∈ (s.part p).ladle.colls, y.owed = []) →
      ∃ t, exec (.stepSeal p c) s = .next t ∧ t.mem = s.mem ∧ t.cmd? p c = some k ∧
        (t.part p).step = { x with opened := none, sealing := some (⟨n, c, false, none, [], none, []⟩, r) }) ∧
    (Stated.StepRuns s p c 0x412 k → (∀ z, x.sealing = some z → z.1.cid ≠ c) →
      x.broken = true ∨ (∀ r, x.opened = some r → r.step ≠ n) →
      ∃ t, exec (.stepSeal p c) s = .next t ∧ (t.part p).step = x ∧ Stated.DoneWith t p c ⟨3, 0, 0, 0, []⟩)

/-- The combined seal word of a member alone: its own. -/
def Stated.ownSeal (s : State) (p : Nat) (z : Seal) (r : StepRed) : SealMsg :=
  let x := (s.part p).step
  { part := p, pos := (s.myRank p).getD 0, step := z.step, epoch := (s.part p).ladle.epoch,
    nf := r.nf || (x.nfAny && (List.range 5).any fun c => (s.fhTotals p).getD (3 * c) 0 ≠ 0),
    flagger := r.flagger, digest := r.digest, exps := r.exps, agree := true }

/-- A device enters the seal of step LAST + 1 once every reduction has completed and every update of LAST has ended:
its word is offered, the format-health counts of the step are kept with it and begin again at 0; a member
alone, one without an epoch too, has the combined word in the same event (logs 20 and 48, DEDUCED). -/
def Stated.SealsAreEntered : Prop :=
  ∀ (s : State) (p : Nat) (z : Seal) (r : StepRed),
    let x := (s.part p).step
    s.Canon → p < 8 → x.sealing = some (z, r) → z.entered = false → r.nred ≤ r.done.length →
    x.last + 1 = z.step → s.updatesOwed p x.last z.cid = false → x.held = none → s.live 0 = true →
    (s.part p).st ≠ .faulted → (s.part p).ladle.waiting = [] → (∀ y ∈ (s.part p).ladle.colls, y.owed = []) →
    (∀ w, z.word = none → z.result = none → (s.part p).ladle.members.length ≤ 1 → w = Stated.ownSeal s p z r →
      ∃ t, exec (.sealEntry p) s = .next t ∧ t.mem = s.mem ∧ t.fhTotals p = List.replicate 15 0 ∧
        (t.part p).step.sealing =
          some ({ z with entered := true, fh := s.fhTotals p, word := some w, result := some w }, r)) ∧
    (∀ q, 0 < q → q < (s.part p).ladle.members.length → q ≤ 4 → s.myRank p = some 0 → q ∉ z.got →
      z.word = none → ∃ t, exec (.sealEntry p) s = .next t ∧ t.mem = s.mem ∧
        (t.part p).step.sealing =
          some ({ z with entered := true, fh := s.fhTotals p, word := some (Stated.ownSeal s p z r) }, r))

/-- A complete exchange seals the step: LAST, SKIP, STEPS and SKIPS advance, the two counts saturating, and where
STEP_SEAL asks for no replay the 256-byte tap record stands in the
ring and STEP_SEAL completes with the step and its digest, 0 where the step is skipped. A disagreement ends
it CANCELLED, and SEAL_TO TIMEOUT; both set BROKEN. -/
def Stated.SealsEnd : Prop :=
  ∀ (s : State) (p : Nat) (z : Seal) (r : StepRed) (k : Cmd),
    let x := (s.part p).step
    Stated.StepRuns s p z.cid 0x412 k → p < 8 → x.sealing = some (z, r) →
    (∀ w, z.result = some w → w.agree = true → w.step = z.step → fld k.msg 56 1 = 0 → x.ring.2 ≠ 0 →
      x.tapIdx - x.tapFree < 2 ^ x.ring.2 →
      let a := x.ring.1 + x.tapIdx % 2 ^ x.ring.2 * 256
      a + 256 ≤ hostBase → s.firstBad p true a 256 = none →
      let dig := if w.nf then 0 else w.digest.toNat
      let x' := { x with
        skip := w.nf, last := z.step, steps := min (x.steps + 1) 0xFFFFFFFF
        skips := min (x.skips + if w.nf then 1 else 0) 0xFFFFFFFF, sealing := none }
      let flags := (if w.nf then 1 else 0) + (if w.nf && w.flagger == 0xFFFF then 2 else 0) +
        (if r.exps.any fun e => decide (63 < e.1) then 4 else 0) + if r.longsum then 8 else 0
      let rec' := sealRecord (tapRecord x' z r w w.nf flags dig s.dev.time) false
      ∃ t, exec (.sealComplete p) s = .next t ∧
        (t.part p).step = { x' with tapIdx := x.tapIdx + 1, lastTap := rec' } ∧ t.bytes a 256 = rec' ∧
        Stated.DoneWith t p z.cid ⟨0, 0, 0, 0, leBytes 8 z.step ++ leBytes 8 dig⟩) ∧
    (∀ w, z.result = some w → w.agree = false ∨ w.step ≠ z.step →
      ∃ t, exec (.sealComplete p) s = .next t ∧ t.mem = s.mem ∧ (t.part p).step.broken = true ∧
        (t.part p).step.sealing = none ∧ (t.part p).step.last = x.last ∧
        Stated.DoneWith t p z.cid ⟨8, 0, 0, 0, []⟩) ∧
    (z.result = none → k.start + x.sealTo * 1000000 ≤ s.dev.time →
      ∃ t, exec (.sealTimeout p) s = .next t ∧ t.mem = s.mem ∧ (t.part p).step.broken = true ∧
        (t.part p).step.sealing = none ∧ Stated.DoneWith t p z.cid ⟨7, 0, 0, 0, []⟩)

/-- A seal is entered and ends. -/
def Obligations.Seals : Prop :=
  Stated.SealsAreEntered ∧ Stated.SealsEnd

/-- MEM_COPY copies its bytes, read before any is written; with the management tag a refused address ends it
DENIED, the bytes before it written. SV_VARIANT_LOAD fills the granules of the list that its start
read in order and makes its variant the resident one. Reading all of the source first and leaving the bytes before a
refused one written is log 40 (DEDUCED). -/
def Obligations.CopiesMoveBytes : Prop :=
  ∀ (s : State) (p c : Nat) (k : Cmd),
    let m := k.msg
    let dst := fld m 48 8
    let src := fld m 56 8
    (Stated.StepRuns s p c 0x112 k → s.copyStop p src dst (fld m 64 8) = none →
      ∃ t, exec (.memCopy p c) s = .next t ∧ t.mem = (s.wr p dst (s.rd p src (fld m 64 8))).mem ∧
        Stated.DoneWith t p c ⟨0, 0, 0, 0, []⟩ ∧ t.stk = s.stk) ∧
    (∀ off a, p = 8 → Stated.StepRuns s p c 0x112 k →
      s.copyStop p src dst (fld m 64 8) = some (off, a, false) →
      ∃ t, exec (.memCopy p c) s = .next t ∧ t.mem = (s.wr p dst (s.rd p src off)).mem ∧
        Stated.DoneWith t p c ⟨5, 0, 0, 0, []⟩) ∧
    (Stated.StepRuns s p c 0x501 k →
      let n := fld m 64 8
      let ks := (List.range (fld m 52 4)).map fun i => fld k.data (4 * i) 4
      let len (i : Nat) : Nat := min (2 ^ 21) (n - i * 2 ^ 21)
      s.tagAccess p ((List.range ks.length).map fun i => (granAddr (ks.getD i 0), len i, true)) = none →
      ∃ t, exec (.svVariantLoad p c) s = .next t ∧ (t.part p).variant = fld m 48 4 ∧
        Stated.DoneWith t p c ⟨0, 0, 0, 0, []⟩ ∧
        t.mem = (forN ks.length s fun i u =>
          u.wr p (granAddr (ks.getD i 0)) (u.bytes (src + i * 2 ^ 21) (len i))).mem)

/-- CKPT_SAVE copies each granule of the list that its start read, a flask without its gradient plane, once no update mark
keeps it from it, and after the last of them the 512-byte manifest, to host memory, and completes; CKPT_LOAD copies them
back while no step is live. To a storage endpoint the bytes go out in segments that the command waits for. -/
def Stated.CheckpointsAreCopied : Prop :=
  ∀ (s : State) (p c : Nat) (k : Cmd),
    let m := k.msg
    let parts (flask : Bool) : List (Nat × Nat) :=
      if flask then [(0, 0xC0000), (0x140000, 0xC0000)] else [(0, 0x200000)]
    (Stated.StepRuns s p c 0x414 k →
      let n := fld m 56 4
      let key (i : Nat) : Nat := fld k.data (272 + 4 * i) 4
      let done (i : Nat) : Bool := fld k.data (272 + 4 * n + i) 1 == 1
      let dest := fld m 72 8
      let go := (List.range n).filter fun i =>
        !done i && (s.stk.readMarks.contains (key i, p, k.cid) || !s.stk.marks.any fun x => x.1 == key i)
      let last := (List.range n).all fun i => done i || go.contains i
      let runs := go.flatMap (fun i =>
          (parts (hdrOk (s.flaskHdr p (key i / 2 ^ 16) (key i % 2 ^ 16)))).map fun r =>
            (2 ^ 21 * i + r.1, s.rd p (granAddr (key i) + r.1) r.2)) ++
        if last then [(2 ^ 21 * n, slice (slice k.data 0 272 ++ leBytes 4 n ++ leBytes 4 0 ++ leBytes 8 (fld m 64 8) ++
          slice k.data 272 (4 * n)) 0 512)] else []
      done n = false → s.tagAccess p (go.map fun i => (granAddr (key i), 2 ^ 21, false)) = none →
      (fld m 60 1 = 0 → ∃ t, exec (.ckptSave p c) s = .next t ∧
        t.mem = (runs.foldl (fun u r => u.setBytes (dest + r.1) r.2) s).mem ∧
        (last = true → Stated.DoneWith t p c ⟨0, 0, 0, 0, []⟩) ∧
        (last = false → t.cmd? p c = some (k.setSaved go))) ∧
      (fld m 60 1 = 1 → n = 0 → ∃ t, exec (.ckptSave p c) s = .next t ∧ t.cmd? p c = some (k.setSaved [0]) ∧
        t.mem = s.mem ∧
        t.fabric.store = s.fabric.store ++ [⟨p, c, dest % 2 ^ 16, dest / 2 ^ 16, 0, 512, false⟩])) ∧
    (Stated.StepRuns s p c 0x415 k → k.loadPhase = 0 →
      let n := fld m 48 4
      let key (i : Nat) : Nat := fld k.data (4 * i) 4
      let src := fld m 64 8
      let x := (s.part p).step
      (x.opened ≠ none ∨ x.sealing ≠ none → ∃ t, exec (.ckptLoad p c) s = .next t ∧ t.mem = s.mem ∧
        Stated.DoneWith t p c ⟨3, 0, 0, 0, []⟩) ∧
      (x.opened = none → x.sealing = none →
        s.tagAccess p ((List.range n).map fun i => (granAddr (key i), 2 ^ 21, true)) = none →
        (fld m 52 1 = 0 → ∃ t, exec (.ckptLoad p c) s = .next t ∧ Stated.DoneWith t p c ⟨0, 0, 0, 0, []⟩ ∧
          t.mem = (forN n s fun i u => (parts (hdrOk (u.bytes (src + 2 ^ 21 * i + 0xA0800) 64))).foldl (fun u r =>
            u.wr p (granAddr (key i) + r.1) (u.bytes (src + 2 ^ 21 * i + r.1) r.2)) u).mem) ∧
        (fld m 52 1 = 1 → n ≠ 0 → ∃ t, exec (.ckptLoad p c) s = .next t ∧
          t.cmd? p c = some (k.setLoadPhase 1) ∧ t.mem = s.mem ∧
          t.fabric.store.length = s.fabric.store.length + 26 * n)))

/-- A whole message of the fabric that arrives for this device at a port that takes messages. -/
structure Stated.FabArrives (s : State) (port op : Nat) (m : List Byte) : Prop where
  canon : s.Canon
  live : s.live (dieOfPort port) = true
  link : (s.port port).st = .up
  isOp : fld m 2 2 = op
  whole : 32 ≤ m.length
  crc : crc32 (lay m 28 [0, 0, 0, 0]) = fld m 28 4
  mine : fld m 6 2 = s.fabric.devId

/-- STORE_ACK ends its segment, and with the last one its command: OK, or NO_RESOURCE where the endpoint reports a
failure, of a read too; STORE_DATA lays the bytes in the granule that its offset names, and with the last one the load
completes, or reads the middle of the granules that are no flasks; without an answer the command ends TIMEOUT and its
segments are dropped. -/
def Stated.StorageAnswersEndCommands : Prop :=
  ∀ (s : State) (port : Nat) (m : List Byte) (x : StoreSeg) (k : Cmd),
    let st := s.fabric.store
    let names (y : StoreSeg) : Bool :=
      y.endpoint == fld m 4 2 && y.key == fld m 32 8 && y.offset == fld m 40 8
    let alone := ∀ y ∈ st.erase x, ¬ (y.part = x.part ∧ y.cid = x.cid)
    s.cmd? x.part x.cid = some k →
    (Stated.FabArrives s port 0x203 m → st.find? (fun y => !y.isRead && names y) = some x → alone →
      k.opcode = 0x414 → k.saved k.saveN = true →
      ∃ t, exec (.storeAck port m) s = .next t ∧ t.mem = s.mem ∧ t.fabric.store = st.erase x ∧
        (fld m 48 1 = 0 → Stated.DoneWith t x.part x.cid ⟨0, 0, 0, 0, []⟩) ∧
        (fld m 48 1 ≠ 0 → Stated.DoneWith t x.part x.cid ⟨4, 0, 0, 0, []⟩)) ∧
    (Stated.FabArrives s port 0x203 m → st.find? (fun y => !y.isRead && names y) = none →
      st.find? (fun y => y.isRead && names y) = some x → fld m 48 1 ≠ 0 →
      ∃ t, exec (.storeAck port m) s = .next t ∧ t.mem = s.mem ∧
        Stated.DoneWith t x.part x.cid ⟨4, 0, 0, 0, []⟩) ∧
    (Stated.FabArrives s port 0x202 m → st.find? (fun y => y.isRead && names y) = some x →
      let key (i : Nat) : Nat := fld k.data (4 * i) 4
      let a := granAddr (key (x.offset / 2 ^ 21)) + x.offset % 2 ^ 21
      x.offset / 2 ^ 21 < fld k.msg 48 4 → s.firstBad x.part true a x.len = none → k.opcode = 0x415 →
      ∃ t, exec (.storeData port m) s = .next t ∧ t.mem = (s.wr x.part a (slice m 48 x.len)).mem ∧
        (¬ alone ∨ k.loadPhase ≠ 1 → t.fabric.store = st.erase x) ∧
        (alone → k.loadPhase ≠ 1 ∨
            (∀ i, i < fld k.msg 48 4 → hdrOk (t.bytes (granAddr (key i) + 0xA0800) 64) = true) →
          Stated.DoneWith t x.part x.cid ⟨0, 0, 0, 0, []⟩) ∧
        (alone → k.loadPhase = 1 → ∀ i, i < fld k.msg 48 4 →
          hdrOk (t.bytes (granAddr (key i) + 0xA0800) 64) = false →
          t.cmd? x.part x.cid = some (k.setLoadPhase 2) ∧
            ∃ y ∈ t.fabric.store, y.part = x.part ∧ y.cid = x.cid ∧ y.offset = 2 ^ 21 * i + 0xC0000)) ∧
    (s.Canon → x ∈ st →
      ∃ t, exec (.storeTimeout x.part x.cid) s = .next t ∧ t.mem = s.mem ∧
        Stated.DoneWith t x.part x.cid ⟨7, 0, 0, 0, []⟩ ∧
        t.fabric.store = st.filter fun y => !(y.part == x.part && y.cid == x.cid))

/-- The manifest's layout, the second read of granules that are no flasks and a STORE_ACK to a read are log 20
(DEDUCED). -/
def Obligations.CheckpointsAndStorage : Prop :=
  Stated.CheckpointsAreCopied ∧ Stated.StorageAnswersEndCommands

/-! ## Commands of a partition: start, completion, quench, teardown (chapter 14) -/

/-- The completion ring of `r` is enabled with a free slot, nothing waits in it, and one more entry sends no
interrupt message: moderation holds it back or the vector is masked. -/
structure Stated.RingFree (s : State) (r : Nat) : Prop where
  ready : s.dev.state = .ready
  pins : s.drives 0 = true
  en : bit (s.ringRg r 0x10) 16 = true
  waitq : (s.ring r).waitq = []
  fences : (s.ring r).fences = []
  room : 1 ≤ s.cqRoom r
  quiet : bits (s.ringRg r 0x24) 7 0 = 0 ∨ (s.ring r).irqCnt + 1 < bits (s.ringRg r 0x24) 7 0 ∨
    bit (s.pg .host 0 (0x80C + 16 * r)) 0 = true

/-- From `s` to `t` memory takes one response and nothing else: its 64 bytes at CQ_TAIL, which moves on by one; the
ring's record of outcomes has it first. -/
def Stated.Response (s t : State) (r opcode part seq tag start : Nat) (o : Compl) : Prop :=
  let tail := s.ringRg r 0x20
  t.mem = (s.setHostBytes (s.ringBase r 0x08 + tail % s.cqSize r * 64)
    (sealEntryBytes (entryBytes (s.ringVer r) part opcode 0x2000 seq tag (o.body start s.dev.time))
      (s.cqPhase r) ((s.ring r).vents % 2 ^ 32))).mem ∧
    t.ringRg r 0x20 = (tail + 1) % 2 ^ 32 ∧
    (t.ring r).hist = (seq, o.status) :: (s.ring r).hist.take 65535

/-- Queued command `k` heads queue `q` of a partition that starts commands; identifiers do not repeat. -/
structure Stated.Heads (s : State) (p q : Nat) (k : Cmd) : Prop where
  canon : s.Canon
  range : p ≤ 8
  starts : s.startsCmds p = true
  head : s.headOf p q = some k
  ids : ((s.part p).cmds.map (·.cid)).Nodup

/-- The head is ready and nothing refuses its start. -/
structure Stated.MayStart (s : State) (p q : Nat) (k : Cmd) : Prop extends Stated.Heads s p q k where
  phase : k.phase = .queued
  out : k.out = none
  deps : ∀ d ∈ k.deps, s.outcome p d = some 0
  gate : s.gateOpen p k = true
  records : s.tagAccess p (s.startRanges p k) = none
  allowed : s.startRefusal p k = none

/-- A ready head starts: a command without units at once, a Fumarole command once its stack queue has room, a
command with units when it is chosen and they are free; they begin in their reset state with its context. A
loaded partition runs from then on. A head with a failed dependency is answered CANCELLED with DEPFAIL, and one whose
start is refused with that refusal. It waits for a dependency with no outcome yet, for room in its stack queue, while
another ready head is chosen, and for units that are held: the holders run on where they end in time or QUENCH_EN is 0,
and are saved where every one has a later deadline and saving is quicker than waiting. A quenched head whose units are
free is restored. That these checks are made where a head is ready is log 39 (DEDUCED). -/
def Obligations.ReadyCommandsStart : Prop :=
  ∀ (s : State) (p q : Nat) (k : Cmd),
    let us := s.unitsOf k.opcode k.msg
    let n := fmStack k.msg
    let Started (t : State) : Prop := ∃ k', t.cmd? p k.cid = some k' ∧ k'.phase = .running ∧
      k'.start = s.dev.time ∧ k'.units = us ∧ k'.msg = k.msg ∧ k'.out = none ∧
      (t.part p).st = if (s.part p).st = .loaded then .running else (s.part p).st
    (Stated.MayStart s p q k → us = [] → isFm k.opcode = false → k.opcode ≠ 0x400 → k.opcode ≠ 0x401 →
      ∃ t, exec (.commandReady p q) s = .next t ∧ t.mem = s.mem ∧ t.units = s.units ∧ Started t) ∧
    (Stated.MayStart s p q k → isFm k.opcode = true → twf [] s.stk.fumQ = true → (s.fumQ n p).length < 8 →
      ∃ t, exec (.commandReady p q) s = .next t ∧ t.mem = s.mem ∧ Started t ∧
        t.fumQ n p = s.fumQ n p ++ [k.cid]) ∧
    (Stated.MayStart s p q k → us ≠ [] → us.Nodup → s.chosen p k = true → s.holders p us = [] →
      ∃ t, exec (.commandReady p q) s = .next t ∧ t.mem = s.mem ∧ Started t ∧
        ∀ i u, us[i]? = some u → (t.unit u).run = .idle ∧ (t.unit u).seq = .reset ∧ (t.unit u).mem = [] ∧
          (t.unit u).queue = [] ∧ (∀ j, (t.unit u).token j = 0) ∧
          (t.unit u).ctx.part = p ∧ (t.unit u).ctx.cid = k.cid ∧ (t.unit u).ctx.logical = fld k.msg 48 1 + i) ∧
    (Stated.Heads s p q k → Stated.RingFree s p → k.phase = .queued → k.out = none → (s.part p).pause = none →
      (∃ d ∈ k.deps, ∃ st, s.outcome p d = some st ∧ st ≠ 0) →
      ∃ t, exec (.commandReady p q) s = .next t ∧ t.cmd? p k.cid = none ∧
        Stated.Response s t p k.opcode (if p < 8 then p else 0xFF) k.seq k.tag.toNat 0 ⟨8, 0, 64, 0, []⟩) ∧
    (Stated.Heads s p q k → Stated.RingFree s p → k.phase = .queued → k.out = none → (s.part p).pause = none →
      (∀ d ∈ k.deps, s.outcome p d = some 0) → s.gateOpen p k = true → s.tagAccess p (s.startRanges p k) = none →
      ∀ o, s.startRefusal p k = some o →
      ∃ t, exec (.commandReady p q) s = .next t ∧ t.cmd? p k.cid = none ∧
        Stated.Response s t p k.opcode (if p < 8 then p else 0xFF) k.seq k.tag.toNat 0 o) ∧
    (Stated.Heads s p q k → k.phase = .queued → k.out = none → (∀ d ∈ k.deps, ∀ st, s.outcome p d = some st → st = 0) →
      (∃ d ∈ k.deps, s.outcome p d = none) ∨ s.gateOpen p k = false → exec (.commandReady p q) s = .next s) ∧
    (Stated.MayStart s p q k → isFm k.opcode = true → 8 ≤ (s.fumQ n p).length →
      exec (.commandReady p q) s = .next s) ∧
    (Stated.MayStart s p q k → us ≠ [] → s.chosen p k = false → exec (.commandReady p q) s = .next s) ∧
    (Stated.MayStart s p q k → us ≠ [] → s.chosen p k = true → s.holders p us ≠ [] →
      let hold := s.holders p us
      let free := (hold.map Cmd.endTime).foldl max 0
      let fits := free ≤ k.deadline - (s.boundNs p k us).getD 0
      ((s.part p).quenchEn = false ∨ fits ∨ (∃ y ∈ hold, y.deadline ≤ k.deadline) →
        exec (.commandReady p q) s = .next s) ∧
      (∀ save, (s.part p).quenchEn = true → ¬ fits →
        (∀ y ∈ hold, k.deadline < y.deadline ∧ y.phase = .running ∧ y.out = none ∧
          ∃ x, s.tSave p y.units = some x ∧ x ≤ save) → s.dev.time + save < free →
        ∃ t, exec (.commandReady p q) s = .next t ∧ t.mem = s.mem ∧ ∀ y ∈ hold,
          t.cmd? p y.cid = some { y with phase := .saving, quenchAt := s.dev.time, reason := 0 })) ∧
    (Stated.Heads s p q k → k.phase = .quenched → s.chosen p k = true → s.holders p k.units = [] →
      ∃ t, exec (.commandReady p q) s = .next t ∧ t.mem = s.mem ∧
        t.cmd? p k.cid = some { k with phase := .restoring })

/-- A command with its outcome is answered: the response carries it with LATE and QUENCHED as they apply, NSTAT
joins the partition's sticky bits, a late one is counted, and the command is gone. -/
def Obligations.CompletionsAreAnswered : Prop :=
  ∀ (s : State) (p c : Nat) (k : Cmd) (o : Compl),
    let late : Bool := decide (k.deadline < s.dev.time ∧ k.deadline ≠ 2 ^ 64 - 1)
    s.Canon → p < 8 → s.cmd? p c = some k → ((s.part p).cmds.map (·.cid)).Nodup → k.out = some o →
    k.phase = .running → (s.part p).st ≠ .faulted → (s.part p).st ≠ .draining → (s.part p).pause = none →
    Stated.RingFree s p →
      ∃ t, exec (.commandComplete p c) s = .next t ∧ t.cmd? p c = none ∧
        Stated.Response s t p k.opcode p k.seq k.tag.toNat k.start
          { o with cflags := o.cflags ||| (if late then 1 else 0) ||| (if k.wasQuenched then 2 else 0) } ∧
        t.pg .part p 0x48 = s.pg .part p 0x48 ||| o.nstat.toNat % 16 ∧
        t.pg .part p 0x9C = (if late then min (s.pg .part p 0x9C + 1) 0xFFFFFFFF else s.pg .part p 0x9C) ∧
        (late = true → bit (t.pg .part p 0x14) 3 = true)

/-- A save that is complete, of a command whose save area is its partition's, leaves the command QUENCHED with the image of
each unit, is counted, and shows in the pages of the units; a restore that is complete puts back each image whose save
area nobody has changed, and the command runs. That the images are kept beside the bytes of the save area, which are free
values, and are judged by these bytes is log 21 (DESIGN CHOICE). -/
def Obligations.QuenchesSaveAndRestore : Prop :=
  ∀ (s : State) (p c : Nat) (k : Cmd),
    s.Canon → p < 8 → s.cmd? p c = some k → ((s.part p).cmds.map (·.cid)).Nodup → s.cmdLive k = true →
    (s.part p).st = .running → (s.part p).pause = none →
    (k.phase = .saving →
      (∀ u ∈ k.units, (s.unit u).arrs = [] ∧ (s.unit u).tnds = [] ∧ (s.unit u).started = []) →
      s.badRange p (s.saveRanges p true k.units) = none →
      ∃ t, exec (.quenchSaveDone p c) s = .next t ∧
        t.cmd? p c = some { k with
          phase := .quenched, wasQuenched := true
          images := k.images ++ k.units.map fun u => (u, (s.unit u).image) } ∧
        t.pg .part p 0x98 = min (s.pg .part p 0x98 + 1) 0xFFFFFFFF ∧ bit (t.pg .part p 0x14) 2 = true ∧
        ∀ u ∈ k.units, bit (t.pg (unitPage u).1 (unitPage u).2 0x14) (if isTile u then 5 else 9) = true) ∧
    (k.phase = .restoring → k.images.map (·.1) = k.units → k.units.Nodup →
      (∀ y ∈ (s.part p).cmds, y.phase ≠ .queued) →
      (∀ u ∈ k.units, ∀ i, i < saveBytes u → s.byte (s.saveAddr p u i) = savedByte (s.unit u).saveSeed i) →
      s.tagAccess p (s.saveRanges p false k.units) = none →
      (∀ e ∈ k.images, e.2.run = .running → e.2.seq.pc.toNat < e.2.imem.length ∧
        (isKernel k.opcode = true → fld k.msg 64 4 = 0 ∨ e.2.seq.cycle ≤ fld k.msg 64 4)) →
      ∃ t, exec (.quenchRestoreDone p c) s = .next t ∧ t.mem = s.mem ∧
        t.cmd? p c = some { k with
          phase := .running, images := [], quenchTime := k.quenchTime + (s.dev.time - k.quenchAt) } ∧
        ∀ e ∈ k.images, (t.unit e.1).seq = e.2.seq ∧ (t.unit e.1).tokens = e.2.tokens ∧
          (t.unit e.1).queue = e.2.queue ∧ (t.unit e.1).rows = e.2.rows ∧ (t.unit e.1).links = e.2.links ∧
          (t.unit e.1).mem = e.2.mem ∧ (t.unit e.1).imem = e.2.imem ∧ (t.unit e.1).epoch = e.2.epoch ∧ (t.unit e.1).run = e.2.run ∧
          (t.unit e.1).ctx.cid = k.cid)

/-- A faulting event puts a partition that has been loaded into FAULTED with its first cause and stops its units;
the teardown zeroes them, ends every command and all work, and raises event 5; a drain leaves the partition
EMPTY, its granules to be scrubbed and its units zeroed. That a teardown on which a PART_RESET waits ends in CONFIGURED is
log 25 (DEDUCED). -/
def Obligations.PartitionsFaultAndEnd : Prop :=
  ∀ (s : State) (p : Nat),
    let x := s.part p
    s.Canon → p < 8 → s.dev.state = .ready →
    (∀ typ inst code, x.st = .loaded ∨ x.st = .running ∨ x.st = .paused ∨ x.st = .draining →
      ∃ t, exec (.partitionFault p typ inst code) s = .next t ∧ t.mem = s.mem ∧
        t.part p = { x with
          st := .faulted, tearing := true, scrub := s.partUnits p, faultTime := s.dev.time
          faultSrc := BitVec.ofNat 32 (typ + inst * 2 ^ 16), faultInfo := BitVec.ofNat 32 code } ∧
        bit (t.pg .part p 0x14) 1 = true ∧
        (∀ u ∈ s.partUnits p, (t.unit u).run = .idle ∧ (t.unit u).queue = [] ∧ (t.unit u).started = []) ∧
        ∀ u, u ∉ s.partUnits p → t.unit u = s.unit u) ∧
    (x.st = .faulted → x.tearing = true → (x.cmds.map (·.cid)).Nodup → (∀ k ∈ x.cmds, k.queue < 8) →
      ∃ t, exec (.teardownComplete p) s = .next t ∧
        (t.part p).st = (if x.reset = none then .faulted else .configured) ∧ (t.part p).tearing = false ∧
        (t.part p).scrub = [] ∧ (t.part p).release = none ∧ (t.part p).serving = none ∧
        (t.part p).ladle.colls = [] ∧ (t.part p).step.sealing = none ∧
        (∀ k ∈ (t.part p).cmds, k.phase = .answered) ∧ (∀ b ∈ t.sprue.blks, b.part ≠ p) ∧
        bit (t.pg .part p 0x14) 5 = true ∧
        ∀ u ∈ s.partUnits p, (t.unit u).run = .idle ∧ (t.unit u).imem = [] ∧ (t.unit u).mem = [] ∧
          (t.unit u).epoch = 0 ∧ (t.unit u).rows = [] ∧ ∀ i, (t.unit u).seq.S i = 0) ∧
    (x.st = .draining → (x.cmds.map (·.cid)).Nodup →
      ∃ t, exec (.drainComplete p) s = .next t ∧ t.part p = { Part.empty with nextCid := x.nextCid } ∧
        (∀ g, (s.gran g).owner = p → (t.gran g).owner = if (s.gran g).retired then 0xE else 0xD) ∧
        (∀ g, (s.gran g).owner ≠ p → (t.gran g).owner = (s.gran g).owner) ∧
        ∀ u ∈ s.partUnits p, (t.unit u).run = .idle ∧ (t.unit u).mem = [] ∧ (t.unit u).epoch = 0)

/-! ## Stack memory (chapter 10) -/

/-- A released granule whose transactions have completed is scrubbed, or withdrawn where it is RETIRED, but not
while the teacher region that it lies in is sealed (log 12, DEDUCED from R213); a scrub
leaves two MiB of zeros in a free granule with SCRUB_DONE; a transaction within its tag's rights is served,
one outside them refused with ACCESS and no effect, a partition with it FAULTED. -/
def Obligations.GranulesAndTransactions : Prop :=
  ∀ (s : State), s.Canon →
    (∀ n g, (s.gran (granKey n g)).releasing = true → (s.gran (granKey n g)).owner = 9 →
      exec (.granuleRelease n g) s = .next s) ∧
    (∀ n g, (s.gran (granKey n g)).releasing = true → (s.gran (granKey n g)).owner ≠ 9 → s.stk.frees = [] →
      ∃ t, exec (.granuleRelease n g) s = .next t ∧ t.mem = s.mem ∧
        t.gran (granKey n g) = { s.gran (granKey n g) with
          releasing := false, owner := if (s.gran (granKey n g)).retired then 0xE else 0xD }) ∧
    (∀ n g, (s.gran (granKey n g)).owner = 0xD →
      ∃ t, exec (.scrubDone n g) s = .next t ∧ (t.gran (granKey n g)).owner = 0xF ∧
        (∀ i, i < 2 ^ 21 → t.byte (granAddr (granKey n g) + i) = 0) ∧
        (∀ a, a < granAddr (granKey n g) ∨ granAddr (granKey n g) + 2 ^ 21 ≤ a → t.byte a = s.byte a) ∧
        bit (t.pg .stack n 0x14) 8 = true) ∧
    (∀ tag addr len data ecc, addr < 0x18000000000 → s.firstBad tag true addr len = none →
      ∃ t, exec (.stackTransaction tag addr len true data ecc) s = .next t ∧
        t.stk = s.stk ∧ t.parts = s.parts ∧ ∀ a, t.byte a =
          if addr ≤ a ∧ a < addr + len then data.getD (a - addr) 0 else s.byte a) ∧
    (∀ tag addr len data, addr < 0x18000000000 → s.firstBad tag false addr len = none →
      s.poisoned [(addr, len, false)] = none →
      exec (.stackTransaction tag addr len false data 0) s = .next s ∧
      ∃ t, exec (.stackTransaction tag addr len false data 1) s = .next t ∧ t.mem = s.mem ∧ t.parts = s.parts ∧
        bit (t.pg .stack (addr / 2 ^ 37) 0x14) 3 = true ∧
        t.pg .stack (addr / 2 ^ 37) 0x70 = min (s.pg .stack (addr / 2 ^ 37) 0x70 + 1) 0xFFFFFFFF) ∧
    (∀ tag addr len write data ecc a, addr < 0x18000000000 → tag < 8 → a < 0x18000000000 →
      s.firstBad tag write addr len = some a → (s.part tag).st = .running →
      ∃ t, exec (.stackTransaction tag addr len write data ecc) s = .next t ∧ t.mem = s.mem ∧
        (t.part tag).st = .faulted ∧ bit (t.pg .stack (a / 2 ^ 37) 0x14) 1 = true)

/-! ## The array clock and serving (chapters 13 and 18) -/

/-- At a command boundary of every cluster of its die the array clock takes the lowest of set point, ARRAY_FMAX and
ceiling, with the event and the count. -/
def Stated.ArrayClockChanges : Prop :=
  ∀ (s : State) (d : Nat),
    let t := (s.die d).therm
    let f := min (min (s.pg .clk d 0x44) (s.arrayFmax d)) (if t.ceiling = 0 then 1600 else t.ceiling)
    s.Canon → d < 2 → s.live d = true →
    (∀ p, p < 9 → ∀ k ∈ (s.part p).cmds, k.phase ≠ .queued → k.phase ≠ .answered →
      ∀ u ∈ k.units, isTile u = true ∨ dieOfUnit u ≠ d) → f ≠ t.freq →
      ∃ r, exec (.dvfsApply d) s = .next r ∧ r.mem = s.mem ∧ (r.die d).therm = { t with freq := f } ∧
        bit (r.pg .clk d 0x14) 2 = true ∧ r.pg .clk d 0x50 = min (s.pg .clk d 0x50 + 1) 0xFFFFFFFF

/-! ## Serving (chapter 13) -/

/-- Request `r` of a serving partition that runs on a READY device has not had its turn in this step. -/
structure Stated.Turn (s : State) (p req : Nat) (v : Serving) (r : Req) : Prop where
  canon : s.Canon
  ready : s.dev.state = .ready
  run : (s.part p).st = .running
  serving : (s.part p).serving = some v
  mine : v.reqs.find? (fun x => rqId x.desc == req) = some r
  turn : r.stepped = false

/-- In `t` the request is `r'` and every other request of `v` is as it was. -/
def Stated.ReqNow (t : State) (p req : Nat) (v : Serving) (r' : Req) : Prop :=
  ∃ v', (t.part p).serving = some v' ∧ v'.reqs = updFirst (fun x => rqId x.desc == req) (fun _ => r') v.reqs ∧
    v'.convs = v.convs ∧ v'.free = v.free

/-- A prefilling request takes up to CHUNK tokens of its prompt, and with the last of them draws its first token from
their logits, under the penalty counts of the prompt where the request asks for them; a running one without drafts
commits its pending token and draws the next, ending at a stop token, at MAX_NEW or at CTX_MAX. One with drafts walks its
tree from node 0: the tokens of the walk are committed as far as their nodes are kept, the kept slots are linked, and
under temperature 0 every token is the best one of its node under the counts of its path, and every kept node is the
drafted child of the one before with that token. The logits are operands of the row (log 23, DESIGN CHOICE). -/
def Obligations.ServingStepsDrawTokens : Prop :=
  ∀ (s : State) (p req : Nat) (v : Serving) (r : Req),
    let toks := r.prefillToks (s.promptOf p r.desc)
    let n := min (svChunk v.cfg) (toks.length - r.filled)
    let new := (List.range (cdiv n 64)).map fun i => (r.fresh.getD i 0, List.range (min 64 (n - 64 * i)))
    let chunk := (toks.drop r.filled).take n
    let prompt := if rqResume r.desc = true ∧ r.filled = 0 ∧ r.pending ≠ none then chunk.drop 1 else chunk
    let cs := if rqPenPrompt r.desc then (countToks (r.counts, r.penOvf) prompt).1 else r.counts
    Stated.Turn s p req v r →
    (∀ lg dr, r.state = .prefill → r.copying = false →
      s.tagAccess p ((fld r.desc 32 8, 4 * rqPrompt r.desc, false) ::
        (v.rowRanges (new.flatMap fun e => e.2.map fun j => (e.1, j)) ++ new.flatMap v.mapRanges ++
          v.tableRanges r)) = none →
      ∃ t r', exec (.servingWalk p req lg dr) s = .next t ∧ Stated.ReqNow t p req v r' ∧
        r'.filled = r.filled + n ∧ r'.committed = r.committed + n ∧ r'.stepped = true ∧ r'.pages = r.pages ++ new ∧
        (r.filled + n < toks.length → r'.state = .prefill ∧ r'.pending = r.pending ∧ r'.out = r.out) ∧
        (toks.length ≤ r.filled + n → r'.state = .running ∧ r'.made = r.made + 1 ∧
          r'.pending = some (drawOne r.desc (r.committed + n) cs (lg.getD 0 [])) ∧
          r'.out = [drawOne r.desc (r.committed + n) cs (lg.getD 0 [])])) ∧
    (∀ lg, r.state = .running → svRole v.cfg ≠ 2 → (v.places r).length = 1 →
      s.tagAccess p (v.rowRanges (v.nodeSlots r) ++
        ((v.walk r s.fresh [lg] []).1.pages.drop (r.pages.length - 1)).flatMap v.mapRanges ++ v.tableRanges r) = none →
      let tok := drawOne r.desc (r.committed + 1) r.counts lg
      ∃ t r' v', exec (.servingWalk p req [lg] []) s = .next t ∧ (t.part p).serving = some v' ∧
        v'.reqs = updFirst (fun x => rqId x.desc == req) (fun _ => r') v.reqs ∧
        r'.committed = r.committed + 1 ∧ r'.pending = some tok ∧ r'.out = [tok] ∧ r'.made = r.made + 1 ∧
        r'.stepped = true ∧ r'.state = .running ∧
        r'.ended = ((rqStops r.desc).contains tok || decide (rqMaxNew r.desc ≤ r.made + 1) ||
          decide (svCtx v.cfg ≤ r.committed + 1))) ∧
    (∀ (lg st : List (List Word)) (out ks : List Nat) (e : Nat × List Nat), r.state = .running → v.places r ≠ [] →
      lg.length = (v.places r).length → st.length = lg.length ∨ lg.length ≤ 1 → r.pages.getLast? = some e →
      s.tagAccess p (v.rowRanges (v.nodeSlots r) ++
        ((v.walk r s.fresh lg st).1.pages.drop (r.pages.length - 1)).flatMap v.mapRanges ++ v.tableRanges r) = none →
      let par := v.parents r
      let draft := draftToks r.desc par (r.pending.getD 0) (r.counts, r.penOvf) s.fresh st lg.length
      walkGo r.desc ⟨par, draft, lg⟩ (lg.length + 1) 0 (r.committed + 1) (r.counts, r.penOvf) r.made = (out, ks) →
      let slot (i : Nat) : Bool × Nat := (((v.places r)[i]?).map (·.2)).getD (false, 0)
      let tail := ((0 :: ks).filter fun i => !(slot i).1).map fun i => (slot i).2
      let above := ((0 :: ks).filter fun i => (slot i).1).map fun i => (slot i).2
      (∃ t r' v', exec (.servingWalk p req lg st) s = .next t ∧ (t.part p).serving = some v' ∧
        v'.reqs = updFirst (fun x => rqId x.desc == req) (fun _ => r') v.reqs ∧
        v'.returning = v.returning ++ (if above = [] then r.fresh else r.fresh.drop 1) ∧
        r'.committed = r.committed + 1 + ks.length ∧ r'.pending = some (out.getLast?.getD 0) ∧ r'.out = out ∧
        r'.made = r.made + out.length ∧ r'.acc = ks.length ∧ r'.nodes = lg.length ∧ r'.pos = r.committed + 1 ∧
        r'.counts = (countToks (r.counts, r.penOvf) out).1 ∧ r'.stepped = true ∧
        r'.pages = r.pages.dropLast ++ [(e.1, e.2 ++ tail)] ++ if above = [] then [] else [(r.fresh.getD 0 0, above)]) ∧
      ((fl (rqW r.desc 40)).isZero = true →
        (∀ i, i < out.length → out[i]? = some (argmax (penalised r.desc
          (countToks (r.counts, r.penOvf) (out.take i)).1 (lg.getD ((0 :: ks).getD i 0) [])))) ∧
        (∀ i, i < ks.length → par.getD (ks.getD i 0) 0xFF = (0 :: ks).getD i 0 ∧
          draft.getD (ks.getD i 0) 0 = out.getD i 0)))

/-- A boundary closes the step: the next begins with every request not yet served and none that is over; with no
request, groups that return are free, conversations forgotten or expired are gone and the step's deadline is set from
DL_SERVE. A request that waits alone is admitted where groups for its prompt and one more are free, else deferred, and
VENT_STEP_TOKENS of the step that closes tells of it. Where an older of two running sequences needs a group and none is
free, the younger is evicted, its pages on their way to the arena, and the older is HELD. A finished copy stands in its cells of the arena and gives its groups back at the next boundary; pages that
are copied back let a sequence continue. Where pages and cells lie is the model's choice (DESIGN CHOICE, log 53). -/
def Obligations.BoundariesAndCopies : Prop :=
  ∀ (s : State) (p : Nat) (v : Serving),
    let q := s.part p
    s.Canon → q.serving = some v → q.st = .running → s.live 0 = true → q.pause = none →
    (v.stepDone = true → s.tagAccess p ((v.boundary q.variant s.dev.time).reqs.flatMap v.tableRanges) = none → ∃ t w, exec (.stepBoundary p) s = .next t ∧ (t.part p).serving = some w ∧
      w.step = v.step + 1 ∧ ∀ r ∈ w.reqs, r.stepped = false ∧ r.out = [] ∧ r.flags = 0 ∧
        r.state ≠ .finished ∧ r.state ≠ .cancelled ∧ r.state ≠ .dropped) ∧
    (v.reqs = [] →
      let due (c : Conv) : Bool := c.holder.isNone && (match c.expiry with
        | some e => decide (e ≤ s.dev.time)
        | none => false)
      let dl := s.pg .part p 0x4C % 2 ^ 24
      ∃ t, exec (.stepBoundary p) s = .next t ∧ (t.part p).serving = some { v with
        step := v.step + 1, free := v.free ++ v.returning, returning := []
        convs := (v.convs.filter fun c => !c.forget).filter fun c => !due c
        due := if dl = 0 then 2 ^ 64 - 1 else s.dev.time + dl * 1000 }) ∧
    (∀ (d : List Byte) (a : Nat), v.reqs = [Req.new d a] → v.convs = [] → rqResume d = false → 0 < svSlots v.cfg →
      v.step ≠ 0 → Stated.RingFree s p → (s.ring p).neg = true → bit (s.ring p).feat 0 = true →
      let groups := v.free ++ v.returning
      let need := cdiv (rqPrompt d) 64 + 1
      let fits := need ≤ groups.length
      let r : Req := { Req.new d a with state := .prefill, slot := some 0, fresh := groups.take need }
      s.tagAccess p (if fits then v.tableRanges r else []) = none →
      ∃ t w, exec (.stepBoundary p) s = .next t ∧ (t.part p).serving = some w ∧ w.returning = [] ∧
        w.reqs = [if fits then r else { Req.new d a with deferred := true }] ∧
        w.free = (if fits then groups.drop need else groups) ∧
        let told := s.setHostBytes (s.ringBase p 0x08 + s.ringRg p 0x20 % s.cqSize p * 64)
          (sealEntryBytes (entryBytes (s.ringVer p) p 0x8001 0x4000 0 0
            (leBytes 8 (v.step - 1) ++ leBytes 4 1 ++ leBytes 4 0 ++ leBytes 4 (rqId d) ++
              (if fits then [1, 0] else [7, 32]) ++ List.replicate 10 0)) (s.cqPhase p) ((s.ring p).vents % 2 ^ 32))
        t.mem = (if fits then told.putTable v r else told).mem) ∧
    (∀ x y cs, v.reqs = [x, y] → x.state = .running → y.state = .running → v.stepDone = true → v.convs = [] →
      v.free = [] → v.returning = [] → v.copies = [] → v.needsFresh x = true → v.tableFull y = false →
      x.ended = false → x.cancel = false → y.ended = false → y.cancel = false → older x y = true →
      rqId x.desc ≠ rqId y.desc → y.copying = false → y.fresh = [] → y.pages ≠ [] →
      v.takeCells y.pages.length = some cs → s.tagAccess p (v.tableRanges x) = none →
      let rest (r : Req) : Req := { r with stepped := false, out := [], nodes := 0, acc := 0, flags := 0 }
      ∃ t w, exec (.stepBoundary p) s = .next t ∧ (t.part p).serving = some w ∧ w.free = [] ∧
        w.copies = [(rqId y.desc, (y.pages.map (·.1)).zip cs, [])] ∧
        w.reqs = [rest { x with state := .held }, rest { y with
          state := .paused, slot := none, fresh := [], pages := y.pages.map fun e => (0, e.2), cells := cs, copying := true }]) ∧
    (∀ req e, v.copies.find? (fun x => x.1 == req) = some e → s.tagAccess p (v.pageRanges e.2.1 false) = none →
      ∃ t w, exec (.kvCopyDone p req) s = .next t ∧ (t.part p).serving = some w ∧
        t.mem = (e.2.1.foldl (fun u x => forN v.layers.length u fun l u =>
          u.setBytes (v.cellAddr x.2 l) (u.bytes (v.pageAddr l x.1) (layerPage (v.layer l)))) s).mem ∧
        w.copies = v.copies.erase e ∧ w.returning = v.returning ++ e.2.1.map (·.1) ++ e.2.2 ∧ w.free = v.free ∧
        ∀ r, v.reqs.find? (fun x => rqId x.desc == req) = some r → r.state = .paused →
          w.reqs.find? (fun x => rqId x.desc == req) = some { r with copying := false }) ∧
    (∀ req r, v.reqs.find? (fun x => rqId x.desc == req) = some r → r.state = .prefill → r.copying = true →
      s.tagAccess p (v.pageRanges ((r.pages.map (·.1)).zip r.cells) true) = none →
      ∃ t w, exec (.kvRestoreDone p req) s = .next t ∧ (t.part p).serving = some w ∧
        t.mem = (((r.pages.map (·.1)).zip r.cells).foldl (fun u x => forN v.layers.length u fun l u =>
          u.setBytes (v.pageAddr l x.1) (u.bytes (v.cellAddr x.2 l) (layerPage (v.layer l)))) s).mem ∧
        w.reqs.find? (fun x => rqId x.desc == req) = some { r with
          copying := false, cells := [], stepped := true
          state := if 0 < r.made then .running else .prefill })

/-! ## Failures of units (chapters 5, 6, 9, 12) -/

/-- The partition that owns a unit, where it has been loaded and has not faulted, is FAULTED with its cause. -/
def Stated.OwnerFaults (s t : State) (u src code : Nat) : Prop :=
  ∀ p, p < 8 → s.ownerOf u = p → (s.part p).st.faultable = true →
    (t.part p).st = .faulted ∧ (t.part p).faultSrc = BitVec.ofNat 32 src ∧
      (t.part p).faultInfo = BitVec.ofNat 32 code

/-- An error in a cluster or a tile sets its event, enters the failure record and faults the owner; a corrected
one is only counted. An error in a Sprue or Ladle memory faults the partitions that hold the part it struck; that the
Ladle's buffers count through the partitions in rising order is log 19 (DEDUCED). -/
def Obligations.UnitErrorsAreRecorded : Prop :=
  ∀ (s : State), s.Canon →
    (∀ cl kind idx, cl < 96 → kind = 1 ∨ kind = 2 ∨ kind = 3 ∨ kind = 4 ∨ kind = 8 →
      let f := if kind = 2 ∨ (kind = 3 ∧ idx = 0x40) then FailUnit.cluster cl
        else if kind = 8 then FailUnit.seq cl (tget 0 s.maps.seqUse cl) else FailUnit.core cl idx
      ∃ t, exec (.coreFailure cl kind idx) s = .next t ∧ t.mem = s.mem ∧ f ∈ t.maps.runFail ∧
        bit (t.pg .mould cl 0x14) kind = true ∧ Stated.OwnerFaults s t cl (0x20 + cl * 2 ^ 16) kind) ∧
    (∀ cl idx, cl < 96 → ∃ t, exec (.coreFailure cl 10 idx) s = .next t ∧ t.maps = s.maps ∧ t.parts = s.parts ∧
      bit (t.pg .mould cl 0x14) 10 = true ∧
      t.pg .mould cl 0x5C = min (s.pg .mould cl 0x5C + 1) 0xFFFF) ∧
    (∀ tl kind info, tl < 84 → kind = 1 ∨ kind = 2 →
      ∃ t, exec (.tileFailure tl kind info) s = .next t ∧ t.mem = s.mem ∧ FailUnit.tile tl ∈ t.maps.runFail ∧
        bit (t.pg .cruc tl 0x14) kind = true ∧ Stated.OwnerFaults s t (256 + tl) (0x21 + tl * 2 ^ 16) kind) ∧
    (∀ tl info, tl < 84 → ∃ t, exec (.tileFailure tl 6 info) s = .next t ∧ t.maps = s.maps ∧
      t.parts = s.parts ∧ bit (t.pg .cruc tl 0x14) 6 = true ∧
      t.pg .cruc tl 0x54 = min (s.pg .cruc tl 0x54 + 1) 0xFFFF) ∧
    (∀ d seg, d < 2 → ∃ t, exec (.sprueSramUe d seg) s = .next t ∧ t.mem = s.mem ∧
      bit (t.pg .sprue d 0x14) 1 = true ∧
      ∀ p, p < 8 → (s.part p).st = .running →
        (t.part p).st = if s.sliceBase p d ≤ seg ∧ seg < s.sliceBase p d + s.sliceCount p d
          then .faulted else .running) ∧
    (∀ d buf, d < 2 → ∃ t, exec (.ladleSramUe d buf) s = .next t ∧ t.mem = s.mem ∧
      bit (t.pg .ladle d 0x14) 1 = true ∧
      ∀ p, p < 8 → (s.part p).st = .running →
        let base := ((List.range p).map fun q => (s.part q).ladleBufs d).foldl (· + ·) 0
        (t.part p).st = if base ≤ buf ∧ buf < base + (s.part p).ladleBufs d then .faulted else .running)

/-! ## Sensors, the governor, Assay and the PLLs (chapters 10 and 18) -/

/-- In `t` the device is SAFE with FAULT_N, both dies with this cause. -/
def Stated.SafeWith (t : State) (cause : Nat) : Prop :=
  t.dev.state = .safe ∧ t.dev.faultN = true ∧ ∀ d, d < 2 → (t.die d).auth.inSafe = true ∧ (t.die d).auth.cause = cause

/-- A sample at 104 °C or more puts a die in T3 at once: its array clock ceiling is 900 MHz and its stacks close
their Fumarole slots; the hundredth sample in a row 3 °C below takes it down to T2, and the slots open. A rail out
of its range in READY, VPP_OTP where it is applied, makes the device SAFE with cause 5; which monitor watches which rail
is log 28 (PRESUMED). -/
def Stated.ThermalStatesFollowSamples : Prop :=
  ∀ (s : State) (d : Nat) (x : List Nat),
    let old := (s.die d).therm
    s.Canon → d < 2 → 3 ≤ s.dev.phase → s.dev.failed = false → old.st ≤ 3 →
    (∀ i, i < 12 → 4 * 104 ≤ x.getD i 0 →
      ∃ t, exec (.pyroSample d x) s = .next t ∧ (t.die d).therm.st = 3 ∧ (t.die d).therm.ceiling = 900 ∧
        (∀ j, j < 6 → (t.stack (6 * d + j)).closed = true) ∧
        (old.st ≠ 3 → bit (t.pg .pyro d 0x14) 1 = true)) ∧
    ((∀ i, i < 12 → x.getD i 0 < 4 * 101) → (∀ i, 12 ≤ i → i < 24 → x.getD i 0 < 102) → old.st = 3 → old.low = 99 →
      ∃ t, exec (.pyroSample d x) s = .next t ∧ (t.die d).therm.st = 2 ∧ (t.die d).therm.low = 0 ∧
        (∀ j, j < 6 → (t.stack (6 * d + j)).closed = false) ∧ bit (t.pg .pyro d 0x14) 1 = true) ∧
    (∀ i, s.dev.state = .ready → (∀ e, e < 2 → (s.die e).auth.inSafe = false) → i < 24 → (i = 9 → d = 0) →
      (i = 12 → 250 ≤ (x.take 68).getD 36 0) → railIn i ((x.take 68).getD (24 + i) 0) = false →
      ∃ t, exec (.pyroSample d x) s = .next t ∧ Stated.SafeWith t 5)

/-- The governor raises a stack's level at once to that of the hottest threshold reached, and lowers it by one after 64
frames 3 °C below; a change sets its event. -/
def Stated.GovernorSetsTheLevel : Prop :=
  ∀ (s : State) (n tDram tBase : Nat),
    let x := s.stack n
    let thr (l : Nat) : Nat := s.pg .stack n 0x50 / 2 ^ (8 * (l - 1)) % 256
    let up := if thr 3 ≤ tDram then 3 else if thr 2 ≤ tDram then 2 else if thr 1 ≤ tDram then 1 else 0
    let below := if x.level ≠ 0 ∧ tDram + 3 < thr x.level then x.below + 1 else 0
    let level := if x.level < up then up else if 64 ≤ below then x.level - 1 else x.level
    s.Canon → n < 12 → x.trained = true → x.level ≤ 3 →
      ∃ t, exec (.governorFrame n tDram tBase) s = .next t ∧
        t.stack n = { x with
          level := level, below := if level = x.level then below else 0, tDram := tDram, tBase := tBase } ∧
        (level ≠ x.level → bit (t.pg .stack n 0x14) 5 = true)

/-- The array clock, the thermal states and the stack governor. -/
def Obligations.ClocksAndTemperatures : Prop :=
  Stated.ArrayClockChanges ∧ Stated.ThermalStatesFollowSamples ∧ Stated.GovernorSetsTheLevel

/-- Assay takes the targets in order, one slice each, and skips a PLL that relocks; a failure is counted, captured where
nothing is, and reported, and by its class makes the device SAFE with cause 4 or 5, withdraws the four channels of its
target, is only reported, or ends a lane, which is spared on a native port and takes an Ethernet port down. Which die a
target's failure is recorded on is log 28 (PRESUMED). A PLL that loses lock makes a READY device SAFE with cause 4. -/
def Obligations.AssayAndPlls : Prop :=
  ∀ (s : State), s.Canon →
    let h := s.health
    let none' := ∀ e, e < 2 → (s.die e).auth.inSafe = false
    (s.dev.state = .ready → h.slice = none → h.next < 380 → assayClass h.next ≠ 7 → h.rotations < 2 ^ 23 - 1 →
      (∃ t, exec (.assaySlice false) s = .next t ∧ t = { s with health := { h with
        slice := some h.next, next := (h.next + 1) % 380
        rotations := if h.next = 379 then h.rotations + 1 else h.rotations } }) ∧
      (assayClass h.next = 1 → exec (.assaySlice true) s = .next s)) ∧
    (∀ tg, s.dev.state = .ready → h.slice = some tg → assayClass tg ≠ 7 →
      exec (.assayResult tg 0) s = .next { s with health := { h with slice := none } }) ∧
    (∀ tg r, s.dev.state = .ready → h.slice = some tg → 0 < r → r < 8 → tg < 380 → none' →
      twf 0 h.fails = true → twf (0, 0, 0) h.fail = true →
      let d := assayDie tg
      ∃ t, exec (.assayResult tg r) s = .next t ∧ bit (t.pg .pyro d 0x14) 2 = true ∧
        tget 0 t.health.fails d = min (tget 0 h.fails d + 1) 0xFFFFFFFF ∧
        tget (0, 0, 0) t.health.fail d = (if tget (0, 0, 0) h.fail d = (0, 0, 0) then (tg, assayClass tg, r)
          else tget (0, 0, 0) h.fail d) ∧
        (assayClass tg ≤ 2 → Stated.SafeWith t 4) ∧
        (assayClass tg = 3 ∨ assayClass tg = 4 ∨ assayClass tg = 8 → Stated.SafeWith t 5) ∧
        (assayClass tg = 5 → t.dev.state = .ready ∧ ∀ i, i < 4 →
          (tg - 0x80) / 8 * 32 + (tg - 0x80) % 8 * 4 + i ∈ t.maps.chGone) ∧
        (assayClass tg = 6 → t.dev.state = .ready ∧ t.maps = s.maps ∧ t.parts = s.parts) ∧
        (assayClass tg = 7 →
          let n := (tg - 0xE8) / 8
          let lane := (tg - 0xE8) % 8
          let x := s.port n
          t.dev.state = .ready ∧
          (s.isEth n = true → x.st = .up → (t.port n).st = .down ∧ (t.port n).reason = 1) ∧
          (s.isEth n = false → x.st = .handover → x.looped = lane → x.spared = 15 → x.sparing = 15 → 8 ∉ x.badLanes →
            (t.port n).st = .retraining ∧ (t.port n).sparing = lane))) ∧
    (∀ d dom, d < 2 → dom < 14 → 1 ≤ s.dev.phase → none' →
      ∃ t, exec (.pllUnlock d dom) s = .next t ∧ bit (t.die d).therm.locked dom = false ∧
        bit (t.pg .clk d 0x14) 1 = true ∧ (s.dev.state = .ready → Stated.SafeWith t 4))

/-! ## Resets, power and bring-up (chapter 17) -/

/-- The device right after a full reset: in RESET, every partition EMPTY, every granule free, every ring without a
HELLO, every port DOWN, all units idle, no register written but BOOT_STAT; host and stack memory (DEDUCED, log 45), the
fuses up to a burn in progress, but for VPP_OK, the spare-use log and the count of failed verifications kept. -/
structure Stated.FullReset (s t : State) : Prop where
  st : t.dev.state = .reset
  hostRdy : t.dev.hostRdy = false
  time : t.dev.time = 0 ∧ t.dev.timeRun = false
  parts : t.parts = [] ∧ t.units = [] ∧ t.rings = []
  grans : t.stk = Stacks.reset
  fabric : t.fabric = Fabric.reset
  sprue : t.sprue = Sprue.reset
  maps : t.maps = Maps.reset
  mem : t.mem = s.mem
  pending : t.pending = s.pending
  log : t.health.log = s.health.log ∧ t.health.ovf = s.health.ovf
  fails : t.dbg.failCnt = s.dbg.failCnt
  fuses : s.west.otp.burn = none → t.west.otp = { s.west.otp with vppOk := false }
  safe : t.west.auth.inSafe = false ∧ t.east.auth.inSafe = false
  taps : t.taps = s.taps
  regs : ∀ a, a ≠ 0x1040 → t.rg a = resetAt a

/-- SYS_RST_N for 1 µs, PCIE_PERST_N for 1 µs, a secondary bus reset and DEV_RST with its key reset the device in
full; a shorter pulse does nothing. The release of SYS_RST_N samples PRIMARY_SEL and begins phase 1. -/
def Stated.ResetsReachEverything : Prop :=
  ∀ (s : State), s.dev.rails = true →
    (∀ ns, 1000 ≤ ns → ∃ t, exec (.sysRstNAssert ns) s = .next t ∧ Stated.FullReset s t ∧
      t.dev.sysRst = true ∧ t.dev.phase = 0) ∧
    (∀ ns, ns < 1000 → exec (.sysRstNAssert ns) s = .next s ∧ exec (.pciePerstNAssert ns false) s = .next s) ∧
    (∀ ns bus, 1000 ≤ ns ∨ bus = true → ∃ t, exec (.pciePerstNAssert ns bus) s = .next t ∧
      Stated.FullReset s t ∧ (s.dev.sysRst = false → t.dev.phase = 1) ∧
      t.dev.perst = (s.dev.perst || !bus)) ∧
    (s.dev.state = .ready → s.hostPort = true → s.dev.sysRst = false →
      ∃ t, exec (.devRst 0 0xA5A5) s = .next t ∧ Stated.FullReset s t ∧ t.dev.phase = 1) ∧
    (∀ w e, s.dev.sysRst = true → ∃ t, exec (.sysRstNRelease w e) s = .next t ∧ t.dev.sysRst = false ∧
      t.dev.phase = 1 ∧ t.west.auth.primarySel = w ∧ t.east.auth.primarySel = e ∧ t.mem = s.mem)

/-- Power-off leaves the fuses, but for a burn that it breaks off, and host memory alone; power-up holds the device in reset, its fuses those given and
all that were burned before; PCIE_PERST_N released on a READY device lets the host port train. -/
def Stated.PowerAndHostPin : Prop :=
  ∀ (s : State),
    (∃ t, exec .powerOff s = .next t ∧ t.dev.rails = false ∧ t.parts = [] ∧ t.health = Health.reset ∧
      (s.west.otp.burn = none → t.west.otp.words = s.west.otp.words) ∧
      (s.east.otp.burn = none → t.east.otp.words = s.east.otp.words) ∧
      (s.Canon → ∀ a, t.byte a = if hostBase ≤ a then s.byte a else 0)) ∧
    (∀ w e, s.dev.rails = false → s.Canon → ∃ t, exec (.powerUp w e) s = .next t ∧ t.dev.rails = true ∧
      t.dev.sysRst = true ∧ t.dev.state = .reset ∧ t.dev.phase = 0 ∧ t.parts = [] ∧
      ∀ i, i < 1024 → tget 0 t.west.otp.words i = tget 0 s.west.otp.words i ||| w.getD i 0) ∧
    (s.Canon → s.dev.hostRdy = true → s.dev.phase = 7 →
      ∃ t, exec .pciePerstNRelease s = .next t ∧ t.dev.perst = false ∧ t.dev.phase = 8 ∧ t.pg .mgt 0 0x40 = 8)

/-- What outlives a reset where R370 leaves it open is log 45 (DEDUCED). -/
def Obligations.ResetsAndPower : Prop :=
  Stated.ResetsReachEverything ∧ Stated.PowerAndHostPin

/-- In phase `n` of bring-up. -/
def Stated.Phase (s : State) (n : Nat) : Prop :=
  s.Canon ∧ s.dev.phase = n ∧ s.dev.failed = false ∧ s.dev.sysRst = false

/-- A failed phase: RESET, FAULT_N, and the cause and detail in BOOT_STAT with the phase. -/
def Stated.BootFails (s t : State) (cause detail : Nat) : Prop :=
  t.dev.state = .reset ∧ t.dev.failed = true ∧ t.dev.faultN = true ∧
    t.pg .mgt 0 0x40 = s.dev.phase + cause * 16 + detail % 256 * 256

/-- Phase 1 ends when the Crucible, NoC and management PLLs of both dies have locked. Phase 2 senses the fuses and
starts the time; it fails with cause 1, 2 or 7 where identity, configuration or role are not as they must be. -/
def Stated.FirstPhases : Prop :=
  ∀ (s : State),
    (∀ w e, Stated.Phase s 1 → w % 16 / 2 = 7 → e % 16 / 2 = 7 →
      ∃ t, exec (.pllLock w e) s = .next t ∧ t.dev.phase = 2 ∧ t.dev.state = s.dev.state ∧ t.mem = s.mem ∧
        ∀ i, i < 13 → bit t.west.therm.locked i = (bit s.west.therm.locked i || bit w i)) ∧
    (Stated.Phase s 2 →
      let w := s.west.otp.sense true
      let e := s.east.otp.sense false
      let role (o : Otp) : Bool :=
        decide (o.cfgGen ≠ 7) && leNat (fuseBytes o.sensed (0xB40 + o.cfgGen * 0x100 + 2) 1) == 1
      let good := w.idOk && w.trimOk && e.idOk && e.trimOk
      (good = false → ∃ t, exec .otpSense s = .next t ∧
        Stated.BootFails s t 1 (if w.idOk && w.trimOk then 1 else 0)) ∧
      (good = true → w.cfgGen = 7 ∨ e.cfgGen = 7 → ∃ t, exec .otpSense s = .next t ∧
        Stated.BootFails s t 2 (if w.cfgGen = 7 then 0 else 1)) ∧
      (good = true → w.cfgGen ≠ 7 → e.cfgGen ≠ 7 →
        s.west.auth.primarySel ≠ role w ∨ s.east.auth.primarySel ≠ role e → ∃ t, exec .otpSense s = .next t ∧
          Stated.BootFails s t 7 (if s.west.auth.primarySel = role w then 1 else 0)) ∧
      (good = true → w.cfgGen ≠ 7 → e.cfgGen ≠ 7 → s.west.auth.primarySel = role w →
        s.east.auth.primarySel = role e → ∃ t, exec .otpSense s = .next t ∧ t.dev.state = .assay ∧
          t.dev.phase = 3 ∧ t.dev.time = 0 ∧ t.dev.timeRun = true ∧ t.west.otp = w ∧ t.east.otp = e ∧
          t.west.auth.claim = role w ∧ t.east.auth.claim = role e))

/-- Phase 3 passes where no target fails but channels and lanes: the channels are withdrawn, and a lane alone on its port
is spared by lane 8; phase 4 zeroes every
stack byte and frees every granule but those of withdrawn channels; phase 5 puts up to 4 failed wires of a group on its spares; phase 6
ends with three matching words on both dies and one claim: READY, HOST_RDY high. -/
def Stated.LaterPhases : Prop :=
  ∀ (s : State),
    (∀ fs : List (Nat × Nat), Stated.Phase s 3 →
      let hit (t : Nat) : Bool := decide (t < 0x17C) && fs.any fun f => f.1 == t
      ((∀ t, hit t = true → assayClass t = 5 ∨ assayClass t = 7) → ∃ t, exec (.assayFull fs) s = .next t ∧ t.dev.phase = 4 ∧
        t.dev.failed = false ∧
        (∀ x, hit x = true → assayClass x = 5 → ∀ i, i < 4 →
          (x - 0x80) / 8 * 32 + (x - 0x80) % 8 * 4 + i ∈ t.maps.chGone) ∧
        ∀ x, hit x = true → assayClass x = 7 →
          let n := (x - 0xE8) / 8
          let lane := (x - 0xE8) % 8
          lane ∈ (t.port n).badLanes ∧
            ((∀ y, hit y = true → assayClass y = 7 → (y - 0xE8) / 8 = n → y = x) → (s.port n).spared = 15 →
              (s.port n).badLanes = [] → (t.port n).spared = lane)) ∧
      (∀ x, hit x = true → assayClass x ≠ 5 → assayClass x ≠ 7 →
        (∀ y, y < x → hit y = true → assayClass y = 5 ∨ assayClass y = 7) →
        ∃ t, exec (.assayFull fs) s = .next t ∧ Stated.BootFails s t 3 x)) ∧
    (∀ n l cs, Stated.Phase s 4 → ∃ t, exec (.stackTraining (n :: l) cs) s = .next t ∧ Stated.BootFails s t 4 n) ∧
    (Stated.Phase s 4 → ∃ t, exec (.stackTraining [] []) s = .next t ∧ t.dev.phase = 5 ∧
      (∀ n, n < 12 → (t.stack n).trained = true) ∧
      (∀ g, (t.gran g).owner = 0xF ∨ (t.gran g).owner = 0xE) ∧
      ∀ a, t.byte a = if hostBase ≤ a then s.byte a else 0) ∧
    (Stated.Phase s 5 → ∃ t, exec (.partingLineTraining []) s = .next t ∧ t.dev.phase = 6 ∧
      t.west.line.trained = true ∧ t.east.line.trained = true ∧ t.west.line.failed = []) ∧
    (∀ fs : List (Nat × Nat × Nat), Stated.Phase s 5 → fs.Nodup →
      (∀ f ∈ fs, f.1 < 2 ∧ f.2.1 < 256 ∧ f.2.2 < 128 ∧ (fs.filter fun e => e.1 == f.1 && e.2.1 == f.2.1).length ≤ 4) →
      ∃ t, exec (.partingLineTraining fs) s = .next t ∧ t.dev.phase = 6 ∧
        t.west.line.failed = fs.map (fun f => f.1 * 2 ^ 16 + f.2.1 * 2 ^ 8 + f.2.2) ∧
        t.east.line.failed = fs.map (fun f => (1 - f.1) * 2 ^ 16 + f.2.1 * 2 ^ 8 + f.2.2)) ∧
    (∀ dir g, dir < 2 → g < 256 → Stated.Phase s 5 →
      ∃ t, exec (.partingLineTraining ((List.range 5).map fun w => (dir, g, w))) s = .next t ∧
        Stated.BootFails s t 5 g) ∧
    (Stated.Phase s 6 → 3 ≤ s.west.auth.matches' → 3 ≤ s.east.auth.matches' →
      s.west.auth.claim ≠ s.east.auth.claim → ∃ t, exec .authorityEstablished s = .next t ∧
        t.dev.state = .ready ∧ t.dev.hostRdy = true ∧ t.dev.phase = (if s.dev.perst then 7 else 8) ∧
        t.mem = s.mem) ∧
    (∀ n detail, 1 ≤ n → n ≤ 6 → Stated.Phase s n → ∃ t, exec (.bringupPhaseTimeout detail) s = .next t ∧
      Stated.BootFails s t ([8, 1, 3, 4, 5, 6].getD (n - 1) 0) (if n = 6 then 3 else detail))

/-- The order of lock bits and of repair bits is log 27, the cause of a phase that times out log 45 (both DEDUCED). -/
def Obligations.BringUpPhases : Prop :=
  Stated.FirstPhases ∧ Stated.LaterPhases

/-! ## Authority and the parting line (chapters 1 and 17) -/

/-- A word of the other die, with a valid CRC. -/
def Stated.goodWord (w : BitVec 64) : Prop := w.toNat / 2 ^ 56 = crc8 (w.toNat % 2 ^ 56)

/-- In service a tick sends the die's word and judges what arrived since the last: the third consecutive window
without a matching word makes the die SAFE with cause 1; a matching one clears the run. Where both dies claim it is SAFE
with cause 2, where neither does with cause 3. A word that arrives is
kept, and one that says its sender is SAFE makes the receiver SAFE with the sender's cause. -/
def Obligations.AuthorityIsWatched : Prop :=
  ∀ (s : State) (d : Nat),
    let a := (s.die d).auth
    s.Canon → d < 2 → s.dev.failed = false → 7 ≤ s.dev.phase → a.inSafe = false →
    (a.arrived = false → a.run < 2 → ∃ t, exec (.authTick d) s = .next t ∧
      (t.die d).auth = { a with
        arrived := false, run := a.run + 1, total := min (a.total + 1) (2 ^ 30 - 1), sent := a.sent + 1 } ∧
      bit (t.pg .mgt d 0x14) 2 = true ∧ t.dev = s.dev) ∧
    (a.arrived = false → a.run = 2 → ∃ t, exec (.authTick d) s = .next t ∧ (t.die d).auth.inSafe = true ∧
      (t.die d).auth.cause = 1 ∧ t.dev.faultN = true ∧ (d = 0 → t.dev.state = .safe)) ∧
    (a.arrived = true → authMatch a.own a.peer = true → a.claim ≠ authClaim a.peer →
      ∃ t, exec (.authTick d) s = .next t ∧ t.mem = s.mem ∧
        (t.die d).auth = { a with
          arrived := false, run := 0, total := min a.total (2 ^ 30 - 1), sent := a.sent + 1 }) ∧
    (a.arrived = true → authMatch a.own a.peer = false → a.claim ≠ authClaim a.peer → a.run < 2 →
      ∃ t, exec (.authTick d) s = .next t ∧ t.dev = s.dev ∧ bit (t.pg .mgt d 0x14) 2 = true ∧
        (t.die d).auth = { a with
          arrived := false, run := a.run + 1, total := min (a.total + 1) (2 ^ 30 - 1), sent := a.sent + 1 }) ∧
    (a.arrived = true → a.claim = authClaim a.peer → authMatch a.own a.peer = true ∨ a.run < 2 →
      ∃ t, exec (.authTick d) s = .next t ∧ (t.die d).auth.inSafe = true ∧
        (t.die d).auth.cause = (if a.claim then 2 else 3) ∧ t.dev.faultN = true) ∧
    (∀ w, Stated.goodWord w → bit w.toNat 35 = false → ∃ t, exec (.authWordReceived d w) s = .next t ∧
      (t.die d).auth = { a with peer := w, arrived := true } ∧ t.mem = s.mem ∧ t.dev = s.dev) ∧
    (∀ w, Stated.goodWord w → bit w.toNat 35 = true → ∃ t, exec (.authWordReceived d w) s = .next t ∧
      (t.die d).auth.inSafe = true ∧ (t.die d).auth.fromPeer = true ∧
      (t.die d).auth.cause = w.toNat / 2 ^ 36 % 8) ∧
    (∀ w, ¬ Stated.goodWord w → exec (.authWordReceived d w) s = .next s)

/-- A parting-line cycle of engine data that arrives whole, none of its class waiting, is delivered without effect of
its own; the sender keeps the last 64 it sent. One whose CRC fails is kept waiting, counted and reported; a later one
of its class waits behind it. The sender sends a failed cycle again from its replay buffer: if it then arrives whole it
is released, if it fails once more it waits again, and at its fourth failure it is settled by its class: class 2 faults
the partition that owns it. RESEND counts each failed send that is reported; that a resend comes before any later cycle
of its class is log 46 (DEDUCED). -/
def Obligations.PartingLineRepeatsCycles : Prop :=
  ∀ (s : State) (d : Nat) (c : PlCycle),
    let l := (s.die d).line
    let o := (s.die (1 - d)).line
    let resent (u : State) : Nat := u.pg .d2d d 0x48 + 2 ^ 32 * u.pg .d2d d 0x4C
    let counted (t : State) : Prop := resent t = min (resent s + 1) (2 ^ 64 - 1)
    s.Canon → d < 2 → l.trained = true →
    (c.cls ≠ 0 → (∀ w ∈ l.waits, w.cyc.cls ≠ c.cls) → ∃ t, exec (.plCycleReceived d c true) s = .next t ∧
      t.mem = s.mem ∧ t.parts = s.parts ∧ (t.die d).line = l ∧
      (t.die (1 - d)).line = { o with replay := (c :: o.replay).take 64 }) ∧
    ((∀ w ∈ l.waits, w.cyc.cls = c.cls → w.resent = false) → ∃ t, exec (.plCycleReceived d c false) s = .next t ∧
      t.mem = s.mem ∧ (t.die d).line = { l with waits := l.waits ++ [⟨c, 1, false⟩] } ∧
      (t.die (1 - d)).line = { o with replay := (c :: o.replay).take 64 } ∧ bit (t.pg .d2d d 0x14) 1 = true ∧
      counted t) ∧
    ((∀ w ∈ l.waits, w.cyc.cls = c.cls → w.resent = false) → (∃ w ∈ l.waits, w.cyc.cls = c.cls) →
      ∃ t, exec (.plCycleReceived d c true) s = .next t ∧ t.mem = s.mem ∧ t.parts = s.parts ∧
        (t.die d).line = { l with waits := l.waits ++ [⟨c, 0, false⟩] }) ∧
    (∀ w rest, l.waits = w :: rest → w.fails ≠ 0 → w.resent = false → w.cyc ∈ o.replay →
      ∃ t, exec (.plResend (1 - d) w.cyc.cls) s = .next t ∧ t.mem = s.mem ∧ t.parts = s.parts ∧
        (t.die d).line = { l with waits := { w with resent := true } :: rest } ∧
        (t.die (1 - d)).line = { o with replay := (w.cyc :: o.replay).take 64 }) ∧
    (∀ w rest, l.waits = w :: rest → w.resent = true → w.cyc.cls = c.cls →
      (w.fails < 3 → ∃ t, exec (.plCycleReceived d c false) s = .next t ∧ t.mem = s.mem ∧
        (t.die d).line = { l with waits := { w with fails := w.fails + 1, resent := false } :: rest } ∧
        bit (t.pg .d2d d 0x14) 1 = true ∧ counted t) ∧
      ((∀ x ∈ rest, x.cyc.cls ≠ c.cls) → c.cls ≠ 0 → ∃ t, exec (.plCycleReceived d c true) s = .next t ∧
        t.mem = s.mem ∧ t.parts = s.parts ∧ (t.die d).line = { l with waits := rest }) ∧
      ((∀ x ∈ rest, x.cyc.cls ≠ c.cls) → w.fails = 3 → c.cls = 2 → w.cyc.dest = none → w.cyc.owner < 8 →
        (s.part w.cyc.owner).st = .running → ∃ t, exec (.plCycleReceived d c false) s = .next t ∧ t.mem = s.mem ∧
          (t.part w.cyc.owner).st = .faulted ∧ (t.die d).line = { l with waits := rest } ∧
          bit (t.pg .d2d d 0x14) 2 = true))

/-! ## Rings and register messages (chapters 2 and 15) -/

/-- An initiator whose accesses reach every page: BAR0 and the management ring through the host port, the management
cores and JTAG always; the device is READY and owes no access that was lost between the dies. -/
def Stated.Reaches (s : State) (init : Nat) : Prop :=
  s.Canon ∧ s.dev.state = .ready ∧ s.bus.lost = [] ∧ ((init < 2 ∧ s.hostPort = true) ∨ 10 ≤ init)

/-- The number that message `m` gets on ring `r` as it is taken, and the ring then (R336, R340). -/
def Stated.number (s : State) (r : Nat) (m : List Byte) : Nat := ((s.ring r).take (fld m 8 4)).1
def Stated.numbered (s : State) (r : Nat) (m : List Byte) : Ring := ((s.ring r).take (fld m 8 4)).2

/-- No ring but `r` has a message to take. -/
def Stated.OthersQuiet (s : State) (r : Nat) : Prop :=
  ∀ q, q < 9 → q ≠ r → s.served q = false ∨ s.sqUsed q = 0

/-- A doorbell sets SQ_TAIL, and the messages before it are taken in order, here one NOP, which is numbered and not
answered. RING_CFG enables a ring whose pointers are 0 and whose bases are aligned, and keeps one enabled that has
unanswered messages; RST restarts the submission ring and forgets the version. CQ_HEAD frees slots for what
waits; the timer of IRQ_MOD fires a vector that entries wait for, whose message lands where the MSI-X table says (PRESUMED, log
35). What a write that clears EN, or RST, keeps of the ring is DEDUCED (log 36). -/
def Obligations.RingsAreControlled : Prop :=
  ∀ (s : State) (init r : Nat), Stated.Reaches s init → r < 9 → Stated.OthersQuiet s r →
    let n := s.ringRg r 0x10 % 32
    let k := s.ringRg r 0x10 / 256 % 32
    (∀ v, s.served r = false → ∃ t, exec (.doorbell init r v) s = .next t ∧ t.mem = s.mem ∧ t.rings = s.rings ∧
      t.ringRg r 0x14 = v.toNat ∧ t.ringRg r 0x18 = s.ringRg r 0x18) ∧
    (let head := s.ringRg r 0x18
     s.ringBase r 0x00 + 64 * s.sqSize r ≤ 2 ^ 47 →
     let m := s.hostBytes (s.ringBase r 0 + 64 * (head % s.sqSize r)) 64
     s.served r = true → crc16 (slice m 0 16) = fld m 6 2 → fld m 4 2 = 1 → fld m 2 2 = 3 →
      ∃ t, exec (.doorbell init r (BitVec.ofNat 32 (head + 1))) s = .next t ∧ t.mem = s.mem ∧
        t.ringRg r 0x18 = (head + 1) % 2 ^ 32 ∧
        t.ring r = Stated.numbered s r m ∧ (t.ring r).expSeq = (fld m 8 4 + 1) % 2 ^ 32) ∧
    (∀ a b, s.ringEn r = false → 6 ≤ a → a ≤ 16 → 6 ≤ b → b ≤ 16 → s.ringRg r 0x14 = 0 → s.ringRg r 0x1C = 0 →
      s.ringBase r 0 % (64 * 2 ^ a) = 0 → s.ringBase r 8 % (64 * 2 ^ b) = 0 →
      ∃ t, exec (.ringCfgEn init r (BitVec.ofNat 32 (a + 256 * b + 65536))) s = .next t ∧ t.mem = s.mem ∧
        t.ringEn r = true ∧ t.sqSize r = 2 ^ a ∧ t.cqSize r = 2 ^ b ∧ t.ringRg r 0x18 = 0 ∧ t.ringRg r 0x20 = 0 ∧
        (t.ring r).expSeq = 0 ∧ (t.ring r).cfgErr = false) ∧
    (s.ringEn r = true → 6 ≤ n → n ≤ 16 → 6 ≤ k → k ≤ 16 → (s.ring r).opens ≠ [] → s.served r = false ∨ s.sqUsed r = 0 →
      ∃ t, exec (.ringCfgEn init r (BitVec.ofNat 32 (n + 256 * k))) s = .next t ∧ t.ringEn r = true ∧
        t.ring r = { s.ring r with cfgErr := true } ∧ t.ringRg r 0x10 = s.ringRg r 0x10) ∧
    (s.ringRg r 0x10 = n + 256 * k + 65536 → 6 ≤ n → n ≤ 16 → 6 ≤ k → k ≤ 16 →
      ∃ t, exec (.ringCfgRst init r (BitVec.ofNat 32 (s.ringRg r 0x10))) s = .next t ∧ t.mem = s.mem ∧
        t.ringRg r 0x18 = s.ringRg r 0x14 ∧
        t.ring r = { s.ring r with expSeq := 0, era := (s.ring r).era + 1, base := 0, ver := 0, neg := false, feat := 0,
                                   stopped := false }) ∧
    (∀ v, s.served r = false ∨ s.sqUsed r = 0 → (s.ring r).waitq = [] → (s.ring r).fences = [] →
      ∃ t, exec (.cqHeadWrite init r v) s = .next t ∧ t.mem = s.mem ∧ t.rings = s.rings ∧
        t.ringRg r 0x1C = v.toNat) ∧
    (∀ v e, s.served r = false ∨ s.sqUsed r = 0 → s.drives 0 = true → s.ringEn r = true → (s.ring r).waitq = [e] →
      (s.ring r).fences = [] → e.bytes.length = 64 →
      1 ≤ s.cqSize r - (s.ringRg r 0x20 + 2 ^ 32 - v.toNat) % 2 ^ 32 →
      ∃ t, exec (.cqHeadWrite init r v) s = .next t ∧ (t.ring r).waitq = [] ∧
        t.ringRg r 0x20 = (s.ringRg r 0x20 + 1) % 2 ^ 32) ∧
    (bits (s.ringRg r 0x24) 7 0 ≠ 0 → bits (s.ringRg r 0x24) 23 8 ≠ 0 → (s.ring r).irqCnt ≠ 0 →
      s.ringRg r 0x1C ≠ s.ringRg r 0x20 →
      ∃ t, exec (.irqTimer r) s = .next t ∧ (t.ring r).irqCnt = 0 ∧
        (bit (s.pg .host 0 (0x80C + 16 * r)) 0 = true → t.mem = s.mem ∧ bit (t.pg .host 0 0xC00) r = true) ∧
        (bit (s.pg .host 0 (0x80C + 16 * r)) 0 = false → t.mem = (s.setHostBytes
          (s.pg .host 0 (0x800 + 16 * r) + 2 ^ 32 * s.pg .host 0 (0x804 + 16 * r))
          (leBytes 4 (s.pg .host 0 (0x808 + 16 * r)))).mem))

/-- Message `m` of an opcode comes to a ring that is served and that PCI Express can read, with nothing before it and
room for its response. -/
structure Stated.Comes (s : State) (r op : Nat) (m : List Byte) : Prop extends Stated.RingFree s r where
  canon : s.Canon
  range : r < 9
  served : s.served r = true
  used : s.sqUsed r = 0
  others : Stated.OthersQuiet s r
  isOp : fld m 2 2 = op
  slots : 0 < fld m 4 2 ∧ fld m 4 2 < 4096
  whole : m.length = 64 * fld m 4 2
  fits : s.ringRg r 0x18 % s.sqSize r + fld m 4 2 ≤ s.sqSize r
  readable : s.ringBase r 0x00 + 64 * s.sqSize r ≤ 2 ^ 47
  crc : crc16 (slice m 0 16) = fld m 6 2

/-- The message arrives in order. -/
structure Stated.Arrives (s : State) (r op : Nat) (m : List Byte) : Prop extends Stated.Comes s r op m where
  inOrder : (s.ring r).expSeq = fld m 8 4

/-- A message arrives and nothing refuses it (R422). -/
structure Stated.Sent (s : State) (r op : Nat) (m : List Byte) : Prop extends Stated.Arrives s r op m where
  ok : s.judge r m = none

/-- The response to message `m` with this outcome is written. -/
def Stated.Answered (s t : State) (r : Nat) (m : List Byte) (o : Compl) : Prop :=
  Stated.Response s t r (fld m 2 2) (fld m 1 1) (Stated.number s r m) (fld m 12 4) 0 o

/-- HELLO_ACK is written for message `m`: STATUS, the byte after it, and the effective and the device's own features
(R337). -/
def Stated.HelloAcked (s t : State) (r : Nat) (m : List Byte) (ver status second eff : Nat) : Prop :=
  let tail := s.ringRg r 0x20
  t.mem = (s.setHostBytes (s.ringBase r 0x08 + tail % s.cqSize r * 64)
    (sealEntryBytes (entryBytes ver (fld m 1 1) 2 0x2000 (fld m 8 4) (fld m 12 4)
      (leBytes 1 status ++ leBytes 1 second ++ List.replicate 6 0 ++ leBytes 8 eff ++ leBytes 8 0x3F ++
        List.replicate 24 0)) (s.cqPhase r) ((s.ring r).vents % 2 ^ 32))).mem ∧
    t.ringRg r 0x20 = (tail + 1) % 2 ^ 32 ∧ (t.ring r).expSeq = (fld m 8 4 + 1) % 2 ^ 32 ∧
    (t.ring r).hist = (Stated.number s r m, status) :: (s.ring r).hist.take 65535

/-- HELLO negotiates the lower of its MAX and 0x32 where that is not below its MIN nor below 0x20, and the common features;
otherwise, or where it is refused or out of order, it leaves the ring as it was; each time HELLO_ACK says so. -/
def Stated.HelloNegotiates : Prop :=
  ∀ (s : State) (r : Nat) (m : List Byte),
    let v := min (fld m 17 1) 0x32
    let eff := fld m 24 8 &&& 0x3F
    let kept (t : State) : Prop := (t.ring r).neg = (s.ring r).neg ∧ (t.ring r).ver = (s.ring r).ver ∧
      (t.ring r).feat = (s.ring r).feat
    (Stated.Sent s r 1 m → max (fld m 16 1) 0x20 ≤ v → ∃ t, exec (.hello r m) s = .next t ∧
      (t.ring r).neg = true ∧ (t.ring r).ver = v ∧ (t.ring r).feat = eff ∧ Stated.HelloAcked s t r m v 0 v eff) ∧
    (Stated.Sent s r 1 m → v < max (fld m 16 1) 0x20 → ∃ t, exec (.hello r m) s = .next t ∧ kept t ∧
      Stated.HelloAcked s t r m (s.ringVer r) 1 0x32 0) ∧
    (∀ c, Stated.Arrives s r 1 m → s.judge r m = some c → ∃ t, exec (.hello r m) s = .next t ∧ kept t ∧
      Stated.HelloAcked s t r m (s.ringVer r) c.status (if c.status = 2 then c.detail else 0x32) 0) ∧
    (Stated.Comes s r 1 m → (s.ring r).expSeq ≠ fld m 8 4 → ∃ t, exec (.hello r m) s = .next t ∧ kept t ∧
      Stated.HelloAcked s t r m (s.ringVer r) 2 0xFE 0)

/-- NOP is numbered, in order or not, and has no answer. -/
def Stated.NopIsNumbered : Prop :=
  ∀ (s : State) (r : Nat) (m : List Byte), Stated.Comes s r 3 m → ∃ t, exec (.nop r m) s = .next t ∧
    t.mem = s.mem ∧ t.parts = s.parts ∧ t.units = s.units ∧ t.stk = s.stk ∧ t.fabric = s.fabric ∧
    t.ringRg r 0x18 = (s.ringRg r 0x18 + fld m 4 2) % 2 ^ 32 ∧
    t.ring r = Stated.numbered s r m ∧ (t.ring r).expSeq = (fld m 8 4 + 1) % 2 ^ 32

/-- FENCE is answered once every earlier message of its ring is; behind one it waits. -/
def Stated.FenceWaits : Prop :=
  ∀ (s : State) (r : Nat) (m : List Byte), Stated.Sent s r 4 m →
    ((s.ring r).opens = [] → ∃ t, exec (.fence r m) s = .next t ∧ (t.ring r).opens = [] ∧ (t.ring r).fences = [] ∧
      t.units = s.units ∧ (∀ q, (t.part q).st = (s.part q).st) ∧
      Stated.Response s t r 4 (ringPart r) (Stated.number s r m) (fld m 12 4) 0 ⟨0, 0, 0, 0, []⟩) ∧
    (∀ o l, (s.ring r).opens = o :: l → o.1 ≠ Stated.number s r m → ∃ t, exec (.fence r m) s = .next t ∧ t.mem = s.mem ∧
      (t.ring r).fences = [(Stated.number s r m, BitVec.ofNat 32 (fld m 12 4))] ∧ (t.ring r).hist = (s.ring r).hist)

/-- The control messages of Table 15.6 that are not HELLO or NOP, each with its opcode: what their rows have in common
is that a message of that opcode which is refused, or which is out of order, is answered with that and has no effect. A
VERSION of 0x20 is asked before HELLO has settled one (DEDUCED, log 11). -/
def Stated.RefusedMessages : Prop :=
  ∀ (s : State) (r : Nat) (m : List Byte),
    let rows : List (Instr × Nat) := [(.fence r m, 0x004), (.regRead r m, 0x010), (.regWrite r m, 0x011),
      (.partCfg r m, 0x100), (.partLoad r m, 0x101), (.partPause r m, 0x102), (.partResume r m, 0x103),
      (.partRelease r m, 0x104), (.partReset r m, 0x105), (.memAlloc r m, 0x110), (.memFree r m, 0x111),
      (.teacherSeal r m, 0x118), (.teacherUnseal r m, 0x119), (.epochSet r m, 0x402), (.tapRelease r m, 0x413),
      (.svCfg r m, 0x500), (.svSubmit r m, 0x502), (.svCancel r m, 0x503), (.svForget r m, 0x504)]
    ∀ x ∈ rows, ∀ c : Compl,
      (Stated.Arrives s r x.2 m ∧ s.judge r m = some c) ∨
        (Stated.Comes s r x.2 m ∧ (s.ring r).expSeq ≠ fld m 8 4 ∧ c = ⟨2, 0xFE, 0, 0, []⟩) →
      ∃ t, exec x.1 s = .next t ∧ t.stk = s.stk ∧ t.units = s.units ∧ (∀ q, (t.part q).st = (s.part q).st) ∧
        Stated.Answered s t r m c

/-- HELLO, NOP and FENCE complete as they are sent, and so do messages of any other kind that are refused. -/
def Obligations.RingMessagesAct : Prop :=
  Stated.HelloNegotiates ∧ Stated.NopIsNumbered ∧ Stated.FenceWaits ∧ Stated.RefusedMessages

/-- The state in which a message of a ring is carried out: its slots are consumed, its number is taken, its answer is
owed. -/
def Stated.taken (s : State) (r : Nat) (m : List Byte) : State :=
  let head := s.ringRg r 0x18 + fld m 4 2
  let s' := (s.setRingRg r 0x14 head).setRingRg r 0x18 head
  (s'.modRing r fun g => (g.take (fld m 8 4)).2).modRing r fun g =>
    { g with opens := g.opens ++ [(Stated.number s r m, BitVec.ofNat 32 (fld m 12 4))] }

/-- REG_READ on any ring makes a 4-byte read as its ring's initiator and answers the word, or that the page is denied to
it. REG_WRITE makes the write and answers its status, so long as that leaves the device and the ring in service: a write
of PORT_CFG after its response, any other before it; a scratch register holds the word. -/
def Obligations.RegisterMessagesAct : Prop :=
  ∀ (s : State) (r : Nat) (m : List Byte),
    let init := if r = 8 then 1 else 2 + r
    let a := fld m 16 4
    let u := Stated.taken s r m
    (let x := u.regRead init a
     Stated.Sent s r 0x10 m → ∃ t, exec (.regRead r m) s = .next t ∧
       Stated.Answered s t r m ⟨x.2.2, 0, 0, 0, if x.2.2 = 0 then leBytes 4 x.2.1.toNat else []⟩) ∧
    (let x := u.regWrite init a (BitVec.ofNat 32 (fld m 20 4))
     Stated.Sent s r 0x11 m → ventsAfter a = false → Stated.RingFree x.1 r → (∀ q, q < 9 → x.1.served q = false ∨ x.1.sqUsed q = 0) →
       ∃ t, exec (.regWrite r m) s = .next t ∧
         Stated.Answered x.1 t r m ⟨x.2, if x.2 = 2 then 5 else 0, 0, 0, []⟩) ∧
    (let x := u.regWrite init a (BitVec.ofNat 32 (fld m 20 4))
     Stated.Sent s r 0x11 m → ventsAfter a = true → x.1.dev.state = .ready → x.1.ringEn r = true →
       ∃ v, Stated.Answered s v r m ⟨x.2, if x.2 = 2 then 5 else 0, 0, 0, []⟩ ∧
         exec (.regWrite r m) s = .next (v.regWrite init a (BitVec.ofNat 32 (fld m 20 4))).1.serve) ∧
    (∀ k i, r = 8 → s.bus.lost = [] → Stated.Sent s r 0x11 m → pageOf (a / 0x1000) = some (k, i) → a % 0x1000 = 0x38 →
      s.gated k i = false → ∃ t, exec (.regWrite r m) s = .next t ∧ t.rg a = BitVec.ofNat 32 (fld m 20 4) ∧
        Stated.Answered s t r m ⟨0, 0, 0, 0, []⟩)

/-! ## Partition messages (chapters 10 and 14) -/

/-- PART_CFG configures an EMPTY partition with its record, its save area and its slots; PART_LOAD loads it with its
counts at 0; PART_PAUSE pauses one that runs nothing a pause waits for, and else waits; PART_RESUME runs it again; PART_RELEASE empties a
configured one and drains the others; PART_RESET takes it back to CONFIGURED. -/
def Obligations.PartitionMessagesAct : Prop :=
  ∀ (s : State) (m : List Byte) (p : Nat),
    let x := s.part p
    let ok : Compl := ⟨0, 0, 0, 0, []⟩
    fld m 1 1 = p → p < 8 →
    (∀ save, Stated.Sent s 8 0x100 m → x.st = .empty → (∀ n, n < 12 → twf 0xF (s.stack n).slots = true) →
      let q : Part := { Part.empty with st := .configured, cfg := slice m 16 256, nextCid := x.nextCid }
      s.placeSave q = some save → s.partLacks q = false → ∃ t, exec (.partCfg 8 m) s = .next t ∧
        t.part p = { q with save := save } ∧ (∀ k ∈ save, (t.gran k).owner = p) ∧
        (∀ n i, n < 12 → i < 20 → bit (fld q.cfg (120 + 4 * n) 4) i = true → t.slotOwner n i = p) ∧
        Stated.Answered s t 8 m ok) ∧
    (Stated.Sent s 8 0x101 m → x.st = .configured → ∃ t, exec (.partLoad 8 m) s = .next t ∧
      (t.part p).st = .loaded ∧ t.pg .part p 0x48 = 0 ∧ t.pg .part p 0x98 = 0 ∧ t.pg .part p 0x9C = 0) ∧
    (Stated.Sent s 8 0x102 m → x.st = .running → x.pause = none → x.serving = none →
      (∀ k ∈ x.cmds, k.phase = .queued ∨ k.phase = .quenched ∨ k.phase = .answered ∨
        (k.phase = .running ∧ k.units = [] ∧ k.opcode ∈ [0x112, 0x414, 0x415, 0x501])) →
      ∃ t, exec (.partPause 8 m) s = .next t ∧ t.part p = { x with st := .paused } ∧ Stated.Answered s t 8 m ok) ∧
    (∀ k ∈ x.cmds, k.phase = .running → k.units ≠ [] → x.quenchEn = false → Stated.Sent s 8 0x102 m → x.st = .running →
      x.pause = none → ∃ t, exec (.partPause 8 m) s = .next t ∧ t.mem = s.mem ∧
        t.part p = { x with pause := some (Stated.number s 8 m, BitVec.ofNat 32 (fld m 12 4)) }) ∧
    (Stated.Sent s 8 0x103 m → x.st = .paused → x.held = [] → ∃ t, exec (.partResume 8 m) s = .next t ∧
      t.part p = { x with st := .running } ∧ Stated.Answered s t 8 m ok) ∧
    (Stated.Sent s 8 0x104 m → x.st = .configured → s.stk.frees = [] → ∃ t, exec (.partRelease 8 m) s = .next t ∧
      t.part p = { Part.empty with nextCid := x.nextCid } ∧ Stated.Answered s t 8 m ok ∧
      ∀ g, (s.gran g).owner = p → (t.gran g).owner = if (s.gran g).retired then 0xE else 0xD) ∧
    (Stated.Sent s 8 0x104 m → x.st = .loaded ∨ x.st = .running ∨ x.st = .paused →
      ∃ t, exec (.partRelease 8 m) s = .next t ∧ t.mem = s.mem ∧
        t.part p = { x with st := .draining, release := some (Stated.number s 8 m, BitVec.ofNat 32 (fld m 12 4)) } ∧
        ∀ u ∈ s.partUnits p, (t.unit u).run = .idle) ∧
    (Stated.Sent s 8 0x105 m → x.st = .loaded ∨ (x.st = .faulted ∧ x.tearing = false) ∨
        (x.st = .running ∧ x.serving = none ∧ ∀ k ∈ x.cmds, k.phase = .answered) →
      ∃ t, exec (.partReset 8 m) s = .next t ∧ Stated.Answered s t 8 m ok ∧ (t.part p).st = .configured ∧
        (t.part p).cfg = x.cfg)

/-- MEM_ALLOC gives the listed free granules to their new owner and says how many; MEM_FREE begins their release and is
answered later; TEACHER_SEAL makes every teacher granule read-only with event 7 in every stack, and TEACHER_UNSEAL undoes it. -/
def Obligations.MemoryMessagesAct : Prop :=
  ∀ (s : State) (m : List Byte),
    let n := fld m 16 1
    let own := fld m 17 1
    let la := fld m 24 8
    let gs := (List.range (fld m 20 4)).map fun i => leNat (s.rd 8 (la + 2 * i) 2)
    let listed := n ≤ 11 ∧ fld m 18 2 = 0 ∧ reservedAddr la (2 * fld m 20 4) = false ∧
      s.firstBad 8 false la (2 * fld m 20 4) = none ∧ s.poisoned [(la, 2 * fld m 20 4, false)] = none ∧ gs.Nodup ∧ (∀ g ∈ gs, g < granCount) ∧
      ((own < 8 ∧ ((s.part own).st = .configured ∨ (s.part own).st = .loaded ∨ (s.part own).st = .running ∨
        (s.part own).st = .paused)) ∨ (own = 8 ∧ (s.stack 0).sealed = false ∧ (s.stack 0).sealing = false))
    (Stated.Sent s 8 0x110 m → listed → (∀ g ∈ gs, (s.gran (granKey n g)).owner = 0xF) →
      ∃ t, exec (.memAlloc 8 m) s = .next t ∧ (∀ g ∈ gs, (t.gran (granKey n g)).owner = own) ∧
        (∀ k, (∀ g ∈ gs, k ≠ granKey n g) → t.gran k = s.gran k) ∧
        Stated.Answered s t 8 m ⟨0, 0, 0, 0, leBytes 4 (fld m 20 4)⟩) ∧
    (Stated.Sent s 8 0x111 m → listed → gs ≠ [] →
      (∀ g ∈ gs, (s.gran (granKey n g)).owner = own) →
      ∃ t, exec (.memFree 8 m) s = .next t ∧ t.mem = s.mem ∧
        (∀ g ∈ gs, t.gran (granKey n g) = { s.gran (granKey n g) with releasing := true }) ∧
        t.stk.frees = s.stk.frees ++
          [(Stated.number s 8 m, BitVec.ofNat 32 (fld m 12 4), gs.length, gs.map (granKey n))]) ∧
    (Stated.Sent s 8 0x118 m → (s.stack 0).sealed = false → (s.stack 0).sealing = false →
      (∃ k, k < 12 * 2 ^ 16 ∧ (s.gran k).owner = 8) → ∃ t, exec (.teacherSeal 8 m) s = .next t ∧
        (∀ i, i < 12 → (t.stack i).sealed = true ∧ (t.stack i).sealing = false ∧
          bit (t.pg .stack i 0x14) 7 = true) ∧
        (∀ k, (t.gran k).owner = if (s.gran k).owner = 8 then 9 else (s.gran k).owner) ∧
        Stated.Answered s t 8 m ⟨0, 0, 0, 0, []⟩) ∧
    (Stated.Sent s 8 0x119 m → (s.stack 0).sealed = true → (s.stack 0).sealing = false →
      (∀ p, p < 8 → (s.part p).trUse = true →
        (s.part p).st ≠ .loaded ∧ (s.part p).st ≠ .running ∧ (s.part p).st ≠ .paused) →
      ∃ t, exec (.teacherUnseal 8 m) s = .next t ∧ (∀ i, i < 12 → (t.stack i).sealed = false) ∧
        (∀ k, (t.gran k).owner = if (s.gran k).owner = 9 then 8 else (s.gran k).owner) ∧
        Stated.Answered s t 8 m ⟨0, 0, 0, 0, []⟩)

/-- The control messages of a partition's own ring: EPOCH_SET adopts the epoch, ending what the old one had in flight, whose
responses come first;
TAP_RELEASE frees tap records; SV_CFG configures or ends serving; SV_SUBMIT queues a request; SV_CANCEL marks it; SV_FORGET marks
a kept conversation. A PAUSED partition holds them. -/
def Obligations.OwnRingMessagesAct : Prop :=
  ∀ (s : State) (p : Nat) (m : List Byte),
    let x := s.part p
    let ok : Compl := ⟨0, 0, 0, 0, []⟩
    let go (op : Nat) : Prop := Stated.Sent s p op m ∧ p < 8 ∧ x.st ≠ .paused
    (let la := fld m 32 8
     let n := fld m 20 2
     let ids := (List.range (n + fld m 22 2)).map fun i => leNat (s.rd p (la + 2 * i) 2)
     go 0x402 → s.tagAccess p [(la, 2 * (n + fld m 22 2), false)] = none → ids.Nodup → s.fabric.devId ∈ ids →
      x.ladle.epoch < fld m 16 4 → x.ladle.future = [] → ∃ t, exec (.epochSet p m) s = .next t ∧
        (t.part p).ladle = { x.ladle with
          epoch := fld m 16 4, members := ids.take n, standby := ids.drop n, ver := fld m 24 1
          lossTo := fld m 28 4, lost := [], colls := [], waiting := [], future := [] } ∧
        (t.part p).step.opened = none ∧ (t.part p).step.sealing = none ∧
        bit (t.pg .ladle 0 0x14) 5 = true ∧ bit (t.pg .ladle 1 0x14) 5 = true ∧
        (x.ladle.colls = [] → x.step.opened = none → x.step.sealing = none → Stated.Answered s t p m ok)) ∧
    (go 0x413 → fld m 16 8 < x.step.tapIdx → x.step.held = none → ∃ t, exec (.tapRelease p m) s = .next t ∧
      (t.part p).step = { x.step with tapFree := max x.step.tapFree (fld m 16 8 + 1) } ∧
      Stated.Answered s t p m ok) ∧
    (let c := slice m 16 96
     let ls := (List.range (svNlayer c)).map fun i => s.rd p (fld c 24 8 + 8 * i) 8
     let tree := (s.rd p (fld c 32 8) (svNtree c)).map (·.toNat)
     let kv := (List.range (fld c 64 4)).map fun i => s.rdU p (fld c 56 8 + 4 * i) 4
     go 0x500 → svRole c = 0xFF ∨ (x.serving = none ∧
        (svRole c = 1 ∨ svRole c = 2 → x.trUse = true ∧ (s.stack 0).sealed = true)) →
      s.tagAccess p [(fld c 24 8, 8 * svNlayer c, false), (fld c 32 8, svNtree c, false),
        (fld c 56 8, 4 * fld c 64 4, false)] = none →
      (∀ l ∈ ls, layerOk l = true) → layersOrdered ls = true → treeOk tree = true →
      (∀ k ∈ kv, keyOk k = true ∧ (s.gran k).owner = p) → svSlots c ≤ x.slots →
      (∀ n, n < 12 → ∃ g, stackNeed c ls n = some g ∧ g ≤ count (fun k => k / 2 ^ 16 == n) kv.eraseDups) →
      ∃ t, exec (.svCfg p m) s = .next t ∧ Stated.Answered s t p m ok ∧
        (t.part p).st = (if x.st = .loaded then .running else x.st) ∧
        (t.part p).serving = if svRole c = 0xFF then none else some
          ⟨c, ls, tree, kv.eraseDups, List.range (svGroups c), [], [], [], [], 2 ^ 64 - 1, 0⟩) ∧
    (∀ v, x.serving = some v →
      (let d := slice m 16 128
       go 0x502 → rqResume d = false → s.tagAccess p [(fld d 32 8, 4 * rqPrompt d, false)] = none →
        (∀ k ∈ s.promptOf p d, k < svVocab v.cfg) → (∀ r ∈ v.reqs, rqId r.desc ≠ rqId d) →
        count (fun r => r.state == .queued) v.reqs < 4096 → ∃ t, exec (.svSubmit p m) s = .next t ∧
          (t.part p).serving = some { v with reqs := v.reqs ++ [Req.new d s.dev.time] } ∧
          Stated.Answered s t p m ok) ∧
      (let d := slice m 16 128
       ∀ c e, go 0x502 → rqResume d = true → s.tagAccess p [(fld d 32 8, 4 * rqPrompt d, false)] = none →
        (∀ k ∈ s.promptOf p d, k < svVocab v.cfg) → (∀ r ∈ v.reqs, rqId r.desc ≠ rqId d) →
        count (fun r => r.state == .queued) v.reqs < 4096 →
        v.convs.find? (fun y => y.conv == rqConv d && !y.forget) = some c → c.variant = x.variant → c.holder = none →
        c.expiry = some e → s.dev.time < e → ∃ t, exec (.svSubmit p m) s = .next t ∧ Stated.Answered s t p m ok ∧
          ∃ w, (t.part p).serving = some w ∧ w.reqs = v.reqs ++ [Req.new d s.dev.time] ∧
            w.convs.find? (fun y => y.conv == rqConv d && !y.forget) =
              some { c with expiry := none, holder := some (rqId d) }) ∧
      (∀ r, go 0x503 → v.reqs.find? (fun y => rqId y.desc == fld m 16 4) = some r → r.cancel = false →
        ∃ t, exec (.svCancel p m) s = .next t ∧ Stated.Answered s t p m ok ∧ ∃ w, (t.part p).serving = some w ∧
          w.reqs.find? (fun y => rqId y.desc == fld m 16 4) = some { r with cancel := true }) ∧
      (∀ c ∈ v.convs, go 0x504 → c.conv = fld m 16 4 → c.holder = none → c.forget = false →
        ∃ t, exec (.svForget p m) s = .next t ∧ Stated.Answered s t p m ok ∧ ∃ w, (t.part p).serving = some w ∧
          ∃ c' ∈ w.convs, c'.conv = fld m 16 4 ∧ c'.forget = true)) ∧
    (x.st = .paused → p < 8 → ∀ i op, (i, op) ∈ [(Instr.epochSet p m, 0x402), (.tapRelease p m, 0x413),
        (.svCfg p m, 0x500), (.svSubmit p m, 0x502), (.svCancel p m, 0x503), (.svForget p m, 0x504)] →
      Stated.Sent s p op m → ∃ t, exec i s = .next t ∧ t.mem = s.mem ∧
        t.part p = { x with held := x.held ++ [(Stated.number s p m, BitVec.ofNat 32 (fld m 12 4), m)] })

/-! ## Ports and links (chapter 16) -/

/-- Reaches every page, and no ring has a message to take. -/
def Stated.Plain (s : State) (init : Nat) : Prop :=
  Stated.Reaches s init ∧ ∀ r, r < 9 → s.served r = false ∨ s.sqUsed r = 0

/-- TRAIN starts a down port of a device with an identifier and is discarded with CFG_ERR without one; DOWN takes a port down
with REASON 6; MODE is written while the port is down and discarded otherwise; DEV_ID is written while every port is
down; ETH_SEG and ETH_RTO take the values of their ranges and raise CFG_ERR at others. -/
def Obligations.PortsAreConfigured : Prop :=
  ∀ (s : State) (init n : Nat) (v : Word), Stated.Plain s init → n < 16 →
    let x := v.toNat
    let cfg := s.pg .port n 0x40
    let err (t : State) : Prop := bit (t.pg .port n 0x14) 7 = true
    (bits x 1 0 = bits cfg 1 0 → bit x 3 = false → (s.port n).st = .down → s.fabric.devId ≠ 0xFFFF →
      ∃ t, exec (.portCfgTrain init n v) s = .next t ∧ (t.port n).st = .training ∧ (t.port n).trained = false ∧
        (t.port n).txSeq = 0 ∧ (t.port n).rxSeq = 0 ∧ bit (t.pg .port n 0x40) 2 = true ∧
        bits (t.pg .port n 0x40) 23 8 = bits x 23 8 ∧ t.mem = s.mem) ∧
    (bits x 1 0 = bits cfg 1 0 → bit x 3 = false → s.fabric.devId = 0xFFFF →
      ∃ t, exec (.portCfgTrain init n v) s = .next t ∧ t.fabric = s.fabric ∧ err t) ∧
    (bits x 1 0 = bits cfg 1 0 → (s.port n).st ≠ .down → ∃ t, exec (.portCfgDown init n v) s = .next t ∧
      (t.port n).st = .down ∧ (t.port n).reason = 6 ∧ (t.port n).replay = [] ∧ (t.port n).txWait = [] ∧
      bit (t.pg .port n 0x14) 2 = true) ∧
    (bits x 3 2 = 0 → (s.port n).st = .down → bits x 1 0 ≠ 3 → ∃ t, exec (.portCfgModeWrite init n v) s = .next t ∧
      bits (t.pg .port n 0x40) 1 0 = bits x 1 0 ∧ t.fabric = s.fabric ∧ t.mem = s.mem) ∧
    (bits x 3 2 = 0 → (s.port n).st ≠ .down → bits x 1 0 ≠ bits cfg 1 0 →
      ∃ t, exec (.portCfgModeWrite init n v) s = .next t ∧ bits (t.pg .port n 0x40) 1 0 = bits cfg 1 0 ∧
        t.fabric = s.fabric ∧ err t) ∧
    ((∀ q, q < 16 → (s.port q).st = .down) → ∃ t, exec (.devIdWrite init n v) s = .next t ∧
      t.fabric = { s.fabric with devId := x % 65536 } ∧ t.mem = s.mem ∧ t.bus = s.bus) ∧
    (∀ q, q < 16 → (s.port q).st ≠ .down → exec (.devIdWrite init n v) s = .next s) ∧
    (let b := x % 2 ^ 14
     ∃ t, exec (.ethSegWrite init n v) s = .next t ∧ t.fabric = s.fabric ∧
      (4096 ≤ b ∧ b ≤ 8192 ∧ b % 64 = 0 → t.pg .port n 0xBC = b) ∧
      (¬ (4096 ≤ b ∧ b ≤ 8192 ∧ b % 64 = 0) → t.pg .port n 0xBC = s.pg .port n 0xBC ∧ err t)) ∧
    (let b := x % 2 ^ 10
     ∃ t, exec (.ethRtoWrite init n v) s = .next t ∧ t.fabric = s.fabric ∧
      (10 ≤ b ∧ b ≤ 1000 → t.pg .port n 0xC0 = b) ∧
      (¬ (10 ≤ b ∧ b ≤ 1000) → t.pg .port n 0xC0 = s.pg .port n 0xC0 ∧ err t))

/-- A message of link initialisation arrives whole at a native port that has trained its lanes. -/
structure Stated.Greets (s : State) (n op : Nat) (m : List Byte) : Prop where
  canon : s.Canon
  range : n < 16
  live : s.live (dieOfPort n) = true
  link : (s.port n).st = .training ∧ (s.port n).trained = true
  native : bits (s.pg .port n 0x40) 1 0 = 0
  isOp : fld m 2 2 = op
  whole : 32 ≤ m.length
  crc : crc32 (lay m 28 [0, 0, 0, 0]) = fld m 28 4

/-- A native port whose lanes have trained sends LINK_HELLO with its own range, an Ethernet port is up. LINK_HELLO
settles the version, gives the partner and is answered with LINK_HELLO_ACK; without a common version the port goes
down with REASON 3, at the device's own identifier with REASON 4. Once both ends have answered the port is up, or trains again
at the higher rate. These messages go by VC 0, each with a credit that the partner has given, and wait for one. -/
def Stated.LinksComeUp : Prop :=
  ∀ (s : State) (n : Nat) (m : List Byte),
    let x := s.port n
    let v := min 0x31 (fld m 37 1)
    let least := max 0x23 (fld m 36 1)
    let hello (t : State) (op : Nat) : Prop := ∃ b : List Byte, fld b 2 2 = op ∧ fld b 1 1 = 0 ∧
      fld b 36 1 = 0x23 ∧ fld b 37 1 = 0x31 ∧ fld b 32 2 = s.fabric.devId % 65536 ∧ fld b 34 1 = n ∧
      (tget 0 x.credits 0 = 0 → (t.port n).tx = x.tx ∧ tget [] (t.port n).txWait 0 = [(b.length, .raw b)]) ∧
      (tget 0 x.credits 0 ≠ 0 → x.replay.length < 256 → s.drives (dieOfPort n) = true → (t.port n).tx = x.tx ++ [.raw b] ∧
        tget [] (t.port n).txWait 0 = [] ∧ tget 0 (t.port n).credits 0 = tget 0 x.credits 0 - 1)
    let quiet := twf [] x.txWait = true ∧ twf 0 x.credits = true ∧ ∀ v, v < 3 → tget [] x.txWait v = []
    let up (t : State) : Prop := (t.port n).st = .up ∧ bit (t.pg .port n 0x40) 2 = false ∧
      bit (t.pg .port n 0x14) 1 = true
    (s.Canon → n < 16 → s.live (dieOfPort n) = true → x.st = .training → x.trained = false →
      (bits (s.pg .port n 0x40) 1 0 = 0 → x.helloDone = false → quiet → ∃ t, exec (.portTrained n) s = .next t ∧
        (t.port n).trained = true ∧ (t.port n).st = .training ∧ hello t 1 ∧ t.mem = s.mem) ∧
      (bits (s.pg .port n 0x40) 1 0 ≠ 0 ∨ (x.helloDone = true ∧ x.peer ≠ none) →
        ∃ t, exec (.portTrained n) s = .next t ∧ up t)) ∧
    (Stated.Greets s n 1 m → x.peer = none →
      (v < least → ∃ t, exec (.linkHello n m) s = .next t ∧ (t.port n).st = .down ∧ (t.port n).reason = 3 ∧
        bit (t.pg .port n 0x14) 2 = true) ∧
      (least ≤ v → fld m 32 2 = s.fabric.devId → ∃ t, exec (.linkHello n m) s = .next t ∧
        (t.port n).st = .down ∧ (t.port n).reason = 4 ∧ bit (t.pg .port n 0x14) 6 = true) ∧
      (least ≤ v → fld m 32 2 ≠ s.fabric.devId → ∃ t, exec (.linkHello n m) s = .next t ∧
        (t.port n).peer = some (fld m 32 2, fld m 34 1 % 16) ∧ (t.port n).ver = v ∧
        (x.helloDone = false → (quiet → hello t 2) ∧ (t.port n).st = .training) ∧
        (x.helloDone = true → v < 0x30 ∨ bit (fld m 35 1) 1 = false → up t) ∧
        (x.helloDone = true → 0x30 ≤ v → bit (fld m 35 1) 1 = true → (quiet → hello t 2) ∧
          (t.port n).st = .training ∧ (t.port n).trained = false ∧ (t.port n).r224 = true))) ∧
    (Stated.Greets s n 2 m → x.helloDone = false →
      (x.peer = none → ∃ t, exec (.linkHelloAck n m) s = .next t ∧ t.port n = { x with helloDone := true } ∧
        t.mem = s.mem) ∧
      (x.peer ≠ none → x.r224 = true → ∃ t, exec (.linkHelloAck n m) s = .next t ∧
        t.port n = { x with helloDone := true, trained := false } ∧ t.mem = s.mem) ∧
      (x.peer ≠ none → x.r224 = false → ∃ t, exec (.linkHelloAck n m) s = .next t ∧ up t))

/-- A lane fails by the loss of its signal, by Assay, or by more corrected symbols in a window than LANE_LIMIT, 0 as 0xFFFF;
fewer only stand in its counter. A failing lane of a native port with lane 8 free is named to the partner and retrains the port, which then carries on with lane 8 in its place,
LANE_SPARED set and the substitution in the spare-use log; with no spare the port goes down with REASON 1 (of two Ethernet
halves the one with the lane first), and with REASON 5 when every lane has lost its signal. Of two lanes named for one
retrain the request of the end with the lower identifier wins; two hand-over flits move a lane to lane 8 and back. A window's end clears the lanes' counts. -/
def Stated.LanesAreSpared : Prop :=
  ∀ (s : State) (n lane : Nat), s.Canon → n < 16 → s.live (dieOfPort n) = true →
    let x := s.port n
    let native := bits (s.pg .port n 0x40) 1 0 = 0
    let free := x.spared = 15 ∧ x.sparing = 15 ∧ 8 ∉ x.badLanes
    let limit := bits (s.pg .port n 0x40) 23 8
    let above k := (if limit = 0 then 0xFFFF else limit) < k
    let fails (c : LaneCause) : Prop := c = .signal ∨ c = .assay ∨ ∃ k, c = .symbols k ∧ above k
    (∀ k, ¬ above k → lane < 9 → ∃ t, exec (.laneFail n lane (.symbols k)) s = .next t ∧ t.fabric = s.fabric ∧
      t.mem = s.mem ∧ t.pg .port n (0x80 + 4 * lane) = k) ∧
    (∀ cause, fails cause → native → x.st = .up → lane < 8 → free → ∃ t, exec (.laneFail n lane cause) s = .next t ∧
      (t.port n).st = .retraining ∧ (t.port n).sparing = lane ∧ (t.port n).replay = x.replay ∧
      (t.port n).ctl = x.ctl ++ [.lane lane 0] ∧ t.mem = s.mem) ∧
    (∀ cause, fails cause → x.st = .up → lane < 8 →
      bits (s.pg .port n 0x40) 1 0 = 1 ∨ native ∧ (x.spared ≠ 15 ∧ x.spared ≠ lane ∧ x.sparing = 15) ∨
        native ∧ (x.spared = 15 ∧ x.sparing = 15 ∧ 8 ∈ x.badLanes) →
      ∃ t, exec (.laneFail n lane cause) s = .next t ∧ (t.port n).st = .down ∧ (t.port n).reason = 1 ∧
        bit (t.pg .port n 0x14) 2 = true) ∧
    (∀ cause, fails cause → x.st = .up → lane < 8 → bits (s.pg .port n 0x40) 1 0 = 2 →
      (x.halfGone = [] → x.ethOut = [] → ∃ t, exec (.laneFail n lane cause) s = .next t ∧
        t.port n = { x with halfGone := [lane / 4], reason := 1 } ∧ bit (t.pg .port n 0x14) 2 = true) ∧
      (x.halfGone = [1 - lane / 4] → ∃ t, exec (.laneFail n lane cause) s = .next t ∧ (t.port n).st = .down ∧
        (t.port n).reason = 1)) ∧
    (∀ cause, fails cause → native → x.st = .retraining → x.sparing < 8 → x.named = false → lane < 8 → x.spared = 15 →
      lane ≠ x.sparing → ∃ t, exec (.laneFail n lane cause) s = .next t ∧ t.mem = s.mem ∧
        (t.port n).st = .retraining ∧ (t.port n).ctl = x.ctl ++ [.lane lane 0] ∧ (t.port n).sparing =
          if s.fabric.devId < (x.peer.map (·.1)).getD 0xFFFF then lane else x.sparing) ∧
    (x.st ≠ .down → x.st ≠ .training → ∃ t, exec (.laneFail n lane .all) s = .next t ∧ (t.port n).st = .down ∧
      (t.port n).reason = 5) ∧
    (x.st = .retraining → x.sparing = 15 → ∃ t, exec (.retrainDone n) s = .next t ∧ (t.port n).st = .up ∧
      (t.port n).spared = x.spared ∧ t.mem = s.mem ∧ t.health = s.health) ∧
    (x.st = .retraining → x.sparing < 8 → ∃ t, exec (.retrainDone n) s = .next t ∧ (t.port n).st = .up ∧
      (t.port n).spared = x.sparing ∧ (t.port n).sparing = 15 ∧ bit (t.pg .port n 0x14) 3 = true ∧
      (s.health.log.length < 128 → t.health.log.length = s.health.log.length + 1)) ∧
    (native → x.st = .retraining → x.sparing ≠ 15 → ∃ t, exec (.laneControl n lane 0) s = .next t ∧ t.mem = s.mem ∧
      t.port n = if ((x.peer.map (·.1)).getD 0xFFFF) < s.fabric.devId then { x with sparing := lane, named := false }
        else x) ∧
    (native → x.st = .up → x.spared = 15 → 8 ∉ x.badLanes → lane < 8 → ∃ t, exec (.laneControl n lane 1) s = .next t ∧
      t.port n = { x with st := .handover, looped := lane } ∧ t.mem = s.mem) ∧
    (native → x.st = .handover → x.looped = lane → ∃ t, exec (.laneControl n lane 1) s = .next t ∧
      t.port n = { x with st := .up, looped := 15 } ∧ t.mem = s.mem) ∧
    (∃ t, exec (.laneSerWindowEnd n) s = .next t ∧ (∀ i, i < 9 → t.pg .port n (0x80 + 4 * i) = 0) ∧
      t.fabric = s.fabric ∧ t.mem = s.mem)

/-- Links come up and spare their lanes. -/
def Obligations.LinksAndLanes : Prop :=
  Stated.LinksComeUp ∧ Stated.LanesAreSpared

/-! ## Fabric traffic (chapter 16) -/

/-- A native port that is up. -/
def Stated.NativeUp (s : State) (n : Nat) : Prop :=
  s.Canon ∧ n < 16 ∧ s.live (dieOfPort n) = true ∧ (s.port n).st = .up ∧ bits (s.pg .port n 0x40) 1 0 = 0

/-- A data flit with the expected SEQ joins the message of its channel, moves the expected SEQ on and gives its buffer back;
an idle flit returns credits and acknowledges; a data flit that is not the expected one and a flit with a bad CRC are
discarded whole. A NAK acknowledges the flits before the SEQ it names and replays from it: the eighth in a row from one SEQ
retrains the port, the third retrain in a second takes it down with REASON 2. A flit that fails is counted in FEC_UE and
answered with a NAK; what is counted, returned and kept beyond R353 and R355 is DEDUCED (log 26). -/
def Stated.FlitsAreTaken : Prop :=
  ∀ (s : State) (n : Nat) (f : List Byte), Stated.NativeUp s n →
    let x := s.port n
    let h := fld f 0 8
    let vc := bits h 5 4
    let len := bits h 43 36
    let got := (if bit h 44 then [] else tget [] x.rx vc) ++ slice f 8 len
    let whole := crc32 (slice f 0 252) = fld f 252 4
    let taken := bits h 3 0 = 1 ∧ vc < 3 ∧ bits h 15 6 = x.rxSeq ∧ 1 ≤ len ∧ len ≤ 244
    let unacked (a : Nat) := x.replay.dropWhile fun e =>
      decide (1 ≤ (a + 1024 - e.1) % 1024 ∧ (a + 1024 - e.1) % 1024 ≤ 512)
    (whole → taken → bit h 45 = false → ∃ t, exec (.flitAccepted n f) s = .next t ∧ t.mem = s.mem ∧
      (t.port n).rxSeq = (x.rxSeq + 1) % 1024 ∧ (t.port n).discard = false ∧
      (twf [] x.rx = true → tget [] (t.port n).rx vc = got) ∧
      (twf 0 x.given = true → tget 0 (t.port n).given vc = tget 0 x.given vc + 1)) ∧
    (whole → (bits h 3 0 = 1 ∧ ¬ taken) ∨ 4 ≤ bits h 3 0 → exec (.flitAccepted n f) s = .next s) ∧
    (whole → taken → bit h 45 = true → got.length < 32 ∨ crc32 (lay got 28 [0, 0, 0, 0]) ≠ fld got 28 4 →
      ∃ t, exec (.flitAccepted n f) s = .next t ∧ t.mem = s.mem ∧ (t.port n).rxSeq = (x.rxSeq + 1) % 1024 ∧
        t.pg .port n 0xA4 = min (s.pg .port n 0xA4 + 1) 0xFFFFFFFF) ∧
    (whole → bits h 3 0 = 0 → x.txWait = [] → twf 0 x.credits = true →
      ∃ t, exec (.flitAccepted n f) s = .next t ∧ t.mem = s.mem ∧
        (t.port n).replay = unacked (bits h 25 16) ∧
        (t.port n).rxSeq = x.rxSeq ∧ ∀ v, v < 3 → tget 0 (t.port n).credits v =
          tget 0 x.credits v + (if bits h 27 26 = v then bits h 35 28 else 0)) ∧
    (¬ whole → exec (.flitAccepted n f) s = .next s) ∧
    (∀ seq, let left := unacked seq
      let was := if left.length = x.replay.length then x.replayRun else (0, 0)
      let run := if was.1 = seq then was.2 + 1 else 1
      let recent := x.retrains.filter fun t => decide (s.dev.time < t + 1000000000)
      ((∀ e ∈ left, e.1 ≠ seq) → x.txWait = [] → ∃ t, exec (.flitNak n seq) s = .next t ∧
        t.port n = { x with replay := left, replayRun := was } ∧ t.mem = s.mem) ∧
      ((∃ e ∈ left, e.1 = seq) →
        (run < 8 → x.txWait = [] → ∃ t, exec (.flitNak n seq) s = .next t ∧ t.mem = s.mem ∧
          t.port n = { x with replay := left, replayRun := (seq, run) }) ∧
        (8 ≤ run → recent.length < 2 → ∃ t, exec (.flitNak n seq) s = .next t ∧ t.mem = s.mem ∧
          (t.port n).st = .retraining ∧ (t.port n).replay = left ∧ bit (t.pg .port n 0x14) 4 = true) ∧
        (8 ≤ run → 2 ≤ recent.length → ∃ t, exec (.flitNak n seq) s = .next t ∧ (t.port n).st = .down ∧
          (t.port n).reason = 2))) ∧
    (∀ bad, ∃ t, exec (.flitReceiveFail n bad) s = .next t ∧ t.mem = s.mem ∧
      t.port n = { x with discard := true, ctl := x.ctl ++ [.nak x.rxSeq] } ∧
      t.pg .port n 0x60 + 2 ^ 32 * t.pg .port n 0x64 =
        min (s.pg .port n 0x60 + 2 ^ 32 * s.pg .port n 0x64 + 1) (2 ^ 64 - 1) ∧
      (bad = true → bit (t.pg .port n 0x14) 5 = true))

/-- Ethernet carriage: a frame of another address, protocol or port is counted in ETH_DROP; a segment of a longer message
is kept; a message whose CRC fails is counted in MSG_DROP without an ACK; one that is whole and next moves the TAG on. A
segment of a message for another device goes on by Ethernet with one hop less and is not kept. A message without its ACK is sent again up to eight times and is then given up with ETH_EXHAUSTED. -/
def Stated.FramesAreTaken : Prop :=
  ∀ (s : State) (n : Nat) (f : List Byte), s.Canon → n < 16 → s.live (dieOfPort n) = true → (s.port n).st = .up →
    bits (s.pg .port n 0x40) 1 0 ≠ 0 → 0 ∉ (s.port n).halfGone →
    let x := s.port n
    let id i := ((tget 0 s.west.otp.sensed (i / 4)) >>> (8 * (i % 4))).truncate 8
    let ours := 62 ≤ f.length ∧ (slice f 0 6 = (List.range 6).map fun i => id (15 - i)) ∧ slice f 12 2 = [0x86, 0xDD] ∧
      fld f 20 1 = 17 ∧ fld f 57 1 + 256 * fld f 56 1 = bits (s.pg .port n 0xA8) 15 0
    let b := slice (f.drop 62) 0 (fld f 59 1 + 256 * fld f 58 1 - 8)
    let key := (fld b 6 2 * 65536 + fld b 4 2) * 4 + fld b 1 1 % 4
    let t0 := tget 0 x.ethTag key
    let alone := 32 ≤ b.length ∧ fld b 2 2 ≠ 3 ∧ fld b 6 2 = s.fabric.devId ∧ fld b 20 4 = t0 ∧ fld b 24 4 = 0 ∧
      ∀ e ∈ x.segs, ethKey e.body ≠ key ∨ e.tag ≠ fld b 20 4
    let good := crc32 (lay b 28 [0, 0, 0, 0]) = fld b 28 4
    (¬ ours → ∃ t, exec (.ethFrame n 0 f) s = .next t ∧ t.fabric = s.fabric ∧ t.mem = s.mem ∧
      t.pg .port n 0xC4 = min (s.pg .port n 0xC4 + 1) 0xFFFFFFFF) ∧
    (ours → alone → b.length < 32 + fld b 12 4 → ∃ t, exec (.ethFrame n 0 f) s = .next t ∧ t.mem = s.mem ∧
      (t.port n).segs = x.segs ++ [⟨fld b 4 2, fld b 1 1, fld b 20 4, 0, b⟩] ∧ (t.port n).ethTag = x.ethTag) ∧
    (ours → alone → b.length = 32 + fld b 12 4 → ¬ good → ∃ t, exec (.ethFrame n 0 f) s = .next t ∧
      t.mem = s.mem ∧ (t.port n).segs = x.segs ∧ (t.port n).ethTag = x.ethTag ∧ (t.port n).tx = x.tx ∧
      t.pg .port n 0xA4 = min (s.pg .port n 0xA4 + 1) 0xFFFFFFFF) ∧
    (ours → alone → b.length = 32 + fld b 12 4 → good → x.segs = [] → twf 0 x.ethTag = true →
      fld b 2 2 = 0x11 → ∃ t, exec (.ethFrame n 0 f) s = .next t ∧
        t.mem = s.mem ∧ (t.port n).segs = [] ∧ tget 0 (t.port n).ethTag key = (t0 + 1) % 2 ^ 32) ∧
    (∀ k h, ours → 32 ≤ b.length → fld b 2 2 ≠ 3 → fld b 6 2 ≠ s.fabric.devId → 2 ≤ fld b 10 1 →
      s.routeOf (dieOfPort n) (fld b 6 2) = some (k, h) → bits (s.pg .port k 0x40) 1 0 ≠ 0 →
      s.drives (dieOfPort k) = true → ∃ t w, exec (.ethFrame n 0 f) s = .next t ∧ t.mem = s.mem ∧
        (t.port k).tx = (s.port k).tx ++ [.raw w] ∧ fld w 10 1 = fld b 10 1 - 1 ∧ w.length = b.length ∧
        w.drop 32 = b.drop 32 ∧ (t.port n).segs = x.segs) ∧
    (∀ tag e, x.ethOut.find? (fun e => e.msg.key == tag) = some e →
      (e.resent < 8 → s.drives (dieOfPort n) = true → ∃ t, exec (.ethResendTimeout n tag) s = .next t ∧ t.mem = s.mem ∧
        (t.port n).tx = x.tx ++ [e.msg] ∧
        (t.port n).ethOut.find? (fun e => e.msg.key == tag) = some { e with resent := e.resent + 1 }) ∧
      (8 ≤ e.resent → ∃ t, exec (.ethResendTimeout n tag) s = .next t ∧ bit (t.pg .port n 0x14) 8 = true)) ∧
    (∀ tag, (∀ e ∈ x.ethOut, e.msg.key ≠ tag) → exec (.ethResendTimeout n tag) s = .next s)

/-- Native flits and Ethernet frames. -/
def Obligations.FlitsAndFrames : Prop :=
  Stated.FlitsAreTaken ∧ Stated.FramesAreTaken

/-- ACK ends the wait for its message, which this device or another source put on Ethernet here; PROBE is answered over the route to its sender, PROBE_ACK shows that its sender
lives; probes and their answers leave by West's route table (DEDUCED, log 26); NO_ROUTE loses the member it names, with LOSS in both Ladles; STORE_WRITE and STORE_READ, whose endpoint this
device is not (DEDUCED, log 26), and unknown opcodes are counted in MSG_DROP; a message for another device goes out with one
hop less, and at its last hop it is dropped. -/
def Obligations.FabricMessagesAct : Prop :=
  ∀ (s : State) (n : Nat) (m : List Byte), n < 16 →
    let src := fld m 4 2
    let heard := { s.fabric with heard := tput 0 s.fabric.heard src s.dev.time }
    let dropped (t : State) : Prop := t.fabric.ports = s.fabric.ports ∧ t.mem = s.mem ∧
      t.pg .port n 0xA4 = min (s.pg .port n 0xA4 + 1) 0xFFFFFFFF
    let route dst := bits (tget 0x1F s.fabric.routes (dieOfPort n * 65536 + dst)) 4 0
    let west dst := bits (tget 0x1F s.fabric.routes dst) 4 0
    let eth k := k < 16 ∧ (s.port k).st ≠ .down ∧ bits (s.pg .port k 0x40) 1 0 ≠ 0 ∧ (s.port k).halfGone = [] ∧
      s.drives (dieOfPort k) = true
    (Stated.FabArrives s n 3 m → ∃ t, exec (.ack n m) s = .next t ∧ t.mem = s.mem ∧
      ∀ k, k < 16 → t.port k = { s.port k with ethOut := (s.port k).ethOut.filter fun e =>
        !(e.msg.src == s.fabric.devId && e.msg.dst == src && e.msg.vc == fld m 36 1 && e.msg.tag == fld m 32 4) }) ∧
    (Stated.FabArrives s n 0x10 m → eth (west src) → ∃ t r, exec (.probe n m) s = .next t ∧ t.mem = s.mem ∧
      (t.port (west src)).tx = (s.port (west src)).tx ++ [.raw r] ∧ fld r 2 2 = 0x11 ∧ fld r 6 2 = src ∧
      slice r 32 4 = slice m 32 4) ∧
    (Stated.FabArrives s n 0x10 m → 16 ≤ west src → exec (.probe n m) s = .next (s.setFabric heard)) ∧
    (Stated.FabArrives s n 0x11 m → exec (.probeAck n m) s = .next (s.setFabric heard)) ∧
    (let p := fld m 9 1
     let dev := fld m 32 2
     let l := (s.part p).ladle
     Stated.FabArrives s n 0x12 m → p < 8 → l.epoch ≠ 0 → dev ∈ l.members → dev ≠ s.fabric.devId → dev ∉ l.lost →
      ∃ t, exec (.noRoute n m) s = .next t ∧ (t.part p).ladle = { l with lost := l.lost ++ [dev] } ∧
        bit (t.pg .ladle 0 0x14) 4 = true ∧ bit (t.pg .ladle 1 0x14) 4 = true) ∧
    (Stated.FabArrives s n 0x200 m → ∃ t, exec (.storeWrite n m) s = .next t ∧ dropped t) ∧
    (Stated.FabArrives s n 0x201 m → ∃ t, exec (.storeRead n m) s = .next t ∧ dropped t) ∧
    (s.Canon → s.live (dieOfPort n) = true → (s.port n).st = .up →
      (0x204 ≤ fld m 2 2 ∨ 4 ≤ fld m 2 2 ∧ fld m 2 2 < 0x10 ∨ crc32 (lay m 28 [0, 0, 0, 0]) ≠ fld m 28 4) →
      ∃ t, exec (.unknownFabricOpcode n m) s = .next t ∧ dropped t) ∧
    (s.Canon → s.live (dieOfPort n) = true → (s.port n).st = .up → fld m 2 2 = 0x200 → 32 ≤ m.length →
      crc32 (lay m 28 [0, 0, 0, 0]) = fld m 28 4 → fld m 6 2 ≠ s.fabric.devId →
      (∀ k, route (fld m 6 2) = k → eth k → 2 ≤ fld m 10 1 → ∃ t w, exec (.storeWrite n m) s = .next t ∧
        t.mem = s.mem ∧ (t.port k).tx = (s.port k).tx ++ [.raw w] ∧ fld w 10 1 = fld m 10 1 - 1 ∧
        w.drop 32 = m.drop 32 ∧ crc32 (lay w 28 [0, 0, 0, 0]) = fld w 28 4) ∧
      (src = s.fabric.devId ∨ 16 ≤ bits (tget 0x1F s.fabric.routes (dieOfPort n * 65536 + src)) 4 0 →
        fld m 10 1 ≤ 1 ∨ 16 ≤ route (fld m 6 2) → ∃ t, exec (.storeWrite n m) s = .next t ∧ dropped t))

/-! ## Register accesses (chapter 2 and the register tables) -/

/-- The bus error of an access at an offset: both events of MGT_W, and the log of it where the log was empty. -/
def Stated.BusError (s t : State) (init kind off : Nat) : Prop :=
  bit (t.pg .mgt 0 0x14) 0 = true ∧ bit (t.pg .mgt 0 0x14) 1 = true ∧ t.mem = s.mem ∧ t.fabric = s.fabric ∧
    t.parts = s.parts ∧
    (bit (s.pg .mgt 0 0x28) 31 = false → t.pg .mgt 0 0x2C = off ∧ t.pg .mgt 0 0x28 = 2 ^ 31 + kind * 2 ^ 16 +
      (if init = 1 then 8 else if init = 12 then 0xE else 0xF) * 2 ^ 8) ∧
    (bit (s.pg .mgt 0 0x28) 31 = true → t.pg .mgt 0 0x28 = s.pg .mgt 0 0x28 ||| 2 ^ 30 ∧
      t.pg .mgt 0 0x2C = s.pg .mgt 0 0x2C)

/-- Type code and instance of a page (Table 2.3). -/
def Stated.blkId (k : PageKind) (i : Nat) : Nat × Nat :=
  match k with
  | .glb => (1, 0) | .mgt => (2, i) | .host => (3, 0) | .otp => (4, i) | .dbg => (5, 0) | .pyro => (6, i)
  | .clk => (7, i) | .d2d => (8, i) | .part => (0x10, i) | .mould => (0x20, i) | .cruc => (0x21, i)
  | .sprue => (0x30, i) | .ladle => (0x31, i) | .port => (0x32, i) | .stack => (0x40, i)
  | .fum => (0x41, i / 64 * 256 + i % 64)

/-- BLK_ID[31:16] of every page with a clock reads its type code, its low half its instance; no page has the type code 0xFFFF
(R30). -/
def Obligations.BlkIdNamesTheBlock : Prop :=
  ∀ (s : State) (init n : Nat) (k : PageKind) (i : Nat), Stated.Plain s init → pageOf n = some (k, i) →
    s.gated k i = false → (Stated.blkId k i).1 ≠ 0xFFFF ∧
      ∃ t, exec (.registerRead init (n * 0x1000) 4) s = .next t ∧ t.bus.regs = s.bus.regs ∧
        tget 0 t.bus.readData init / 2 ^ 16 = (Stated.blkId k i).1 ∧
        tget 0 t.bus.readData init % 2 ^ 16 = (Stated.blkId k i).2

/-- BLK_SCRATCH of every page that has a clock reads as it was written. An access of another width or alignment
is UNALIGNED, reads all ones and writes nothing; one outside the pages is UNMAPPED and reads 0; one of a page without a clock is
GATED and reads all ones; a BAR0 write of a locked block's registers is LOCKED. Where an access breaks several of these,
alignment is judged first (DESIGN CHOICE, log 50). -/
def Stated.AccessesAreServed : Prop :=
  ∀ (s : State) (init a : Nat), Stated.Plain s init → a < 2 ^ 26 →
    let page := pageOf (a / 0x1000)
    let read (t : State) (v : Nat) : Prop := tget 0 t.bus.readData init = v
    let plain size := (size = 4 ∧ a % 4 = 0) ∨ (size = 8 ∧ a % 8 = 0)
    (∀ k i v, page = some (k, i) → s.gated k i = false → a % 0x1000 = 0x38 →
      (∃ t, exec (.registerWrite init a 4 v) s = .next t ∧ t.rg a = v.truncate 32 ∧ t.mem = s.mem ∧
        ∀ b, b ≠ a → t.rg b = s.rg b) ∧
      (∃ t, exec (.registerRead init a 4) s = .next t ∧ read t (s.rg a).toNat ∧ t.bus.regs = s.bus.regs)) ∧
    (∀ size v, ¬ plain size → (∃ t, exec (.registerWrite init a size v) s = .next t ∧ Stated.BusError s t init 3 a) ∧
      ∃ t, exec (.registerRead init a size) s = .next t ∧ Stated.BusError s t init 3 a ∧
        read t (2 ^ (8 * size) - 1)) ∧
    (∀ v, a % 4 = 0 → page = none → (∃ t, exec (.registerWrite init a 4 v) s = .next t ∧ Stated.BusError s t init 2 a) ∧
      ∃ t, exec (.registerRead init a 4) s = .next t ∧ Stated.BusError s t init 2 a ∧ read t 0) ∧
    (∀ k i v, a % 4 = 0 → page = some (k, i) → s.gated k i = true →
      (∃ t, exec (.registerWrite init a 4 v) s = .next t ∧ Stated.BusError s t init 1 a) ∧
      ∃ t, exec (.registerRead init a 4) s = .next t ∧ Stated.BusError s t init 1 a ∧ read t 0xFFFFFFFF) ∧
    (∀ k i v, a % 4 = 0 → page = some (k, i) → s.gated k i = false → s.ownerLock k i = true → init = 0 →
      0x40 ≤ a % 0x1000 → ∃ t, exec (.registerWrite init a 4 v) s = .next t ∧ Stated.BusError s t 0 4 a)

/-- The header of a page: BLK_EVT is cleared by ones, and clearing ERR clears the log; a forced event sets its bit or is
counted with its number, and an enabled one of a cluster or a tile faults the owner as the hardware event does (DESIGN CHOICE,
log 57); BLK_EVT_EN is written unless the lock bars it; CNT_CLR clears the count. Hardware may set bits of the
page in the same cycle (`hw`, DESIGN CHOICE, log 34): they read 1 after a clear and are counted where they were 1, once beside a forced set of
the same bit, and after a clear of the count; an error that comes with a clear of ERR keeps the log with OVERFLOW 1, and the
partitions whose limit passes in the cycle of FH_ALERT (`ps`) have their bits. -/
def Stated.EventsAct : Prop :=
  ∀ (s : State) (init n ps : Nat) (v hw : Word) (k : PageKind) (i : Nat), Stated.Plain s init →
    pageOf n = some (k, i) → s.gated k i = false →
    let p := n * 0x1000
    let e := s.rg (p + 0x14)
    let h := s.hwBits k i (hw &&& BitVec.ofNat 32 (evtMask k))
    let counted (t : State) (c b : Nat) : Prop := t.pg k i 0x20 = min (c + 1) 0xFFFF + b * 2 ^ 16
    let c := bits (s.pg k i 0x20) 15 0
    let free := 10 ≤ init ∨ s.ownerLock k i = false
    let calm := v &&& s.rg (p + 0x18) = 0 ∨ k ∉ [PageKind.mould, .cruc, .fum, .clk]
    (∃ t, exec (.blkEvtClear init n ⟨v, hw, ps⟩) s = .next t ∧ (k ≠ .host ∨ h = 0 → t.mem = s.mem) ∧
      t.rg (p + 0x14) = (e &&& ~~~v) ||| h ∧
      (h = 0 → t.rg (p + 0x20) = s.rg (p + 0x20)) ∧
      (∀ b, h = BitVec.ofNat 32 (2 ^ b) → b < 32 → e.getLsbD b = true → counted t c b) ∧
      (v.getLsbD 0 = true → h.getLsbD 0 = false →
        t.rg (p + 0x28) = 0 ∧ t.rg (p + 0x2C) = 0 ∧ t.rg (p + 0x30) = 0 ∧ t.rg (p + 0x34) = 0) ∧
      (h.getLsbD 0 = true → bit (t.pg k i 0x28) 30 = true ∧ t.rg (p + 0x2C) = s.rg (p + 0x2C) ∧
        t.rg (p + 0x30) = s.rg (p + 0x30) ∧ t.rg (p + 0x34) = s.rg (p + 0x34)) ∧
      (k = .pyro → h.getLsbD 16 = true → t.pg k i 0x860 = s.pg k i 0x860 ||| ps % 256)) ∧
    (calm → ∃ t, exec (.blkEvtSet init n ⟨v, hw, ps⟩) s = .next t ∧
      t.rg (p + 0x14) = e ||| (v &&& BitVec.ofNat 32 (evtMask k)) ||| h) ∧
    (∀ b, v = BitVec.ofNat 32 (2 ^ b) → calm → bit (evtMask k) b = true →
      ∃ t, exec (.blkEvtSet init n ⟨v, 0, 0⟩) s = .next t ∧
      (e.getLsbD b = false → t.pg k i 0x14 = e.toNat + 2 ^ b ∧ t.rg (p + 0x20) = s.rg (p + 0x20)) ∧
      (e.getLsbD b = true → t.rg (p + 0x14) = e ∧ t.mem = s.mem ∧ counted t c b)) ∧
    (∀ b, 0 < b → b < 32 → bit (evtMask k) b = true → e.getLsbD b = true →
      ∃ t, exec (.blkEvtSet init n ⟨BitVec.ofNat 32 (2 ^ b), BitVec.ofNat 32 (2 ^ b), 0⟩) s = .next t ∧
        t.rg (p + 0x14) = e ∧ counted t c b) ∧
    (∀ b u q, v = BitVec.ofNat 32 (2 ^ b) → bit (s.pg k i 0x18) b = true →
      (k = .mould ∧ 5 ≤ b ∧ b ≤ 7 ∧ u = i) ∨ (k = .cruc ∧ 3 ≤ b ∧ b ≤ 4 ∧ u = 256 + i) → s.ownerOf u = q → q < 8 →
      (s.part q).st = .running → ∃ t, exec (.blkEvtSet init n ⟨v, 0, 0⟩) s = .next t ∧ (t.part q).st = .faulted) ∧
    (free → ∃ t, exec (.blkEvtEnWrite init n v) s = .next t ∧ t.rg (p + 0x18) = v) ∧
    (init = 0 → s.ownerLock k i = true → ∃ t, exec (.blkEvtEnWrite init n v) s = .next t ∧
      t.rg (p + 0x18) = s.rg (p + 0x18) ∧ Stated.BusError s t 0 4 (p + 0x18)) ∧
    (bit v.toNat 1 = false → free → ∃ t, exec (.cntClr init n ⟨v, 0, 0⟩) s = .next t ∧ t.mem = s.mem ∧
      t.pg k i 0x20 = 0 ∧ t.pg k i 0x0C = v.toNat % 2) ∧
    (bit v.toNat 1 = false → free → ∀ b, 0 < b → b < 32 → bit (evtMask k) b = true → e.getLsbD b = true →
      ∃ t, exec (.cntClr init n ⟨v, BitVec.ofNat 32 (2 ^ b), 0⟩) s = .next t ∧ counted t 0 b) ∧
    (bit v.toNat 1 = false → init = 0 → s.ownerLock k i = true → bit v.toNat 0 = bit (s.pg k i 0x0C) 0 →
      ∃ t, exec (.cntClr init n ⟨v, 0, 0⟩) s = .next t ∧ t.pg k i 0x20 = 0 ∧ t.pg k i 0x0C = s.pg k i 0x0C ∧
        bit (t.pg .mgt 0 0x14) 1 = bit (s.pg .mgt 0 0x14) 1)

/-- A soft reset is complete before the next access: it returns every register of the page but BLK_SCRATCH to its reset value and
no other page's, and the logic of a block as a whole as log 31 has it (DEDUCED); PERF_CLR clears
the page's counters. -/
def Stated.BlocksReset : Prop :=
  ∀ (s : State) (init n : Nat) (v : Word) (k : PageKind) (i : Nat), Stated.Plain s init →
    pageOf n = some (k, i) → s.gated k i = false → 10 ≤ init ∨ s.ownerLock k i = false →
    let p := n * 0x1000
    (∃ t, exec (.srst init n v) s = .next t ∧ t.mem = s.mem ∧ (k ≠ .part → k ≠ .ladle → t.parts = s.parts) ∧
      t.rg (p + 0x38) = s.rg (p + 0x38) ∧ (∀ o, o < 0x1000 → o ≠ 0x38 → t.rg (p + o) = resetAt (p + o)) ∧
      ∀ a, a / 0x1000 ≠ n → t.rg a = s.rg a) ∧
    (∀ o l, perfRegs k = some (o, l) → v.getLsbD 0 = true → ∃ t, exec (.perfClr init n v) s = .next t ∧
      t.mem = s.mem ∧ t.parts = s.parts ∧ (∀ x ∈ l, t.pg k i x = 0) ∧ ∀ a, a / 0x1000 ≠ n → t.rg a = s.rg a)

/-- Accesses of any page, and its header. -/
def Obligations.RegisterAccesses : Prop :=
  Stated.AccessesAreServed ∧ Stated.EventsAct ∧ Stated.BlocksReset

/-- GLB.FENCE counts its reads (that a read counts itself is the model's choice, log 50). A read of any _LO register captures
its _HI for its initiator, which a read of the _HI then returns; a write of the high half of a pair (a ring's bases while the
ring is disabled, a port's address registers) commits the low half that its initiator wrote before. -/
def Obligations.PageRegistersAct : Prop :=
  ∀ (s : State) (init : Nat) (v : Word), Stated.Plain s init →
    let read (t : State) (w : Word) : Prop := tget 0 t.bus.readData init = w.toNat
    (∃ t, exec (.glbFenceRead init) s = .next t ∧ t.bus.fences = s.bus.fences + 1 ∧
      read t (BitVec.ofNat 32 (s.bus.fences + 1)) ∧ t.bus.regs = s.bus.regs ∧ t.mem = s.mem) ∧
    (∃ t, exec (.loReadCapture init 0x44) s = .next t ∧ read t (BitVec.ofNat 32 s.dev.time) ∧
      tget none t.bus.hiCap (init * 2 ^ 26 + 0x48) = some (BitVec.ofNat 32 (s.dev.time / 2 ^ 32))) ∧
    (∀ k i o, o < 0x1000 → pageOf (pageNo k i) = some (k, i) → s.gated k i = false → o ∈ loRegs k →
      let a := pageNo k i * 0x1000 + o
      let s' := if readsOpen k o then s.refresh k i else s
      ∃ t, exec (.loReadCapture init a) s = .next t ∧ t.mem = s.mem ∧ t.parts = s.parts ∧
        read t (BitVec.ofNat 32 (s'.view init k i o)) ∧
        tget none t.bus.hiCap (init * 2 ^ 26 + (a + 4)) = some (BitVec.ofNat 32 (s'.view init k i (o + 4)))) ∧
    (∀ k i o w, o < 0x1000 → pageOf (pageNo k i) = some (k, i) → s.gated k i = false → o ∈ loRegs k →
      o + 4 ∉ loRegs k →
      let a := pageNo k i * 0x1000 + o + 4
      tget none s.bus.hiCap (init * 2 ^ 26 + a) = some w →
      ∃ t, exec (.registerRead init a 4) s = .next t ∧ read t w ∧ t.bus.hiCap = s.bus.hiCap) ∧
    (∀ k i lo mask, pageOf (pageNo k i) = some (k, i) → rwPair k lo = some mask →
      k = .port ∨ s.ringEn ((lo - 0x100) / 0x40) = false →
      let a := pageNo k i * 0x1000 + lo
      let held := tget none s.bus.loHeld (init * 2 ^ 26 + a)
      ∃ t, exec (.hiWriteCommit init (a + 4) v) s = .next t ∧ t.mem = s.mem ∧
        t.rg a = held.getD (s.rg a) ∧ t.rg (a + 4) = v &&& BitVec.ofNat 32 mask ∧
        tget none t.bus.loHeld (init * 2 ^ 26 + a) = none)

/-- FH_CLR clears counts of one die, and the spare-use log needs its key. PCFG and TREC take only legal values that the
partition's slice can hold while nothing of it is at the Sprue, the East pair but what is its own; GOV_CFG clamps its
thresholds; ARRAY_SET takes a rate of the list and else raises its event. -/
def Obligations.BlockRegistersAct : Prop :=
  ∀ (s : State) (init : Nat) (v : Word), Stated.Plain s init →
    let x := v.toNat
    (∀ d, d < 2 → twf 0 s.health.fh = true → ∃ t, exec (.fhClr init d v) s = .next t ∧ t.mem = s.mem ∧
      ∀ e p c j, e < 2 → p < 8 → c < 5 → j < 64 →
        tget 0 t.health.fh (((e * 8 + p) * 5 + c) * 64 + j) =
          if e = d ∧ (bit x 8 = true ∨ p = x % 8) then 0
          else tget 0 s.health.fh (((e * 8 + p) * 5 + c) * 64 + j)) ∧
    (x = 0x5C1E → ∃ t, exec (.splogClr init v) s = .next t ∧ t.health = { s.health with log := [], ovf := 0 } ∧
      t.mem = s.mem) ∧
    (x ≠ 0x5C1E → exec (.splogClr init v) s = .next s) ∧
    (∀ d q, d < 2 → q < 8 → 10 ≤ init ∨ s.ownerLock .sprue d = false →
      let k := bits x 13 4
      let fair := 1 ≤ bits x 20 16 ∧ bits x 20 16 ≤ 16 ∧ bits x 27 24 ≠ 0 ∧ (d = 0 → 1 ≤ k ∧ k ≤ 512)
      let idle := (∀ c ∈ (s.part q).cmds, c.phase = .running → c.opcode ≠ 0x300 ∧ c.opcode ≠ 0x301) ∧
        ∀ b ∈ s.sprue.blks, b.part ≠ q
      let w := if d = 0 then x &&& 0x0F1F3FF1 else setBits (x &&& 0x0F1F0000) 13 0 (bits (s.pcfg q 1) 13 0)
      let u := s.setPg .sprue d (0x44 + 0x20 * q) w
      let holds := (if u.topk q then 16 * u.intake q d + u.recSegs q d else 32 * u.intake q d + (1 + u.win q d)) ≤
        s.sliceCount q d
      (fair → idle → holds → ∃ t, exec (.spruePcfgWrite init d q v) s = .next t ∧
        t.pg .sprue d (0x44 + 0x20 * q) = w ∧ t.mem = s.mem) ∧
      (¬ fair ∨ ¬ idle ∨ ¬ holds → exec (.spruePcfgWrite init d q v) s = .next s) ∧
      (d = 0 → 0x800000 ≤ x → x < 0x7F800000 → idle → ∃ t, exec (.sprueTrecWrite init d q v) s = .next t ∧
        t.pg .sprue 0 (0x48 + 0x20 * q) = x ∧ t.mem = s.mem) ∧
      (d = 1 ∨ x = 0 ∨ 0x7F800000 ≤ x ∨ ¬ idle → exec (.sprueTrecWrite init d q v) s = .next s)) ∧
    (∀ n, n < 12 →
      let a := min (bits x 7 0) 0x55
      let b := max (min (bits x 15 8) 0x5F) a
      let c := max (min (bits x 23 16) 0x64) b
      ∃ t, exec (.govCfgWrite init n v) s = .next t ∧ t.pg .stack n 0x50 = a + b * 256 + c * 65536 ∧ t.mem = s.mem) ∧
    (∀ d, d < 2 →
      let f := x % 2 ^ 11
      (900 ≤ f ∧ f ≤ 1600 ∧ f % 100 = 0 → ∃ t, exec (.arraySetWrite init d v) s = .next t ∧ t.pg .clk d 0x44 = f ∧
        t.west.therm.freq = s.west.therm.freq) ∧
      (¬ (900 ≤ f ∧ f ≤ 1600 ∧ f % 100 = 0) → ∃ t, exec (.arraySetWrite init d v) s = .next t ∧
        t.pg .clk d 0x44 = s.pg .clk d 0x44 ∧ bit (t.pg .clk d 0x14) 3 = true))

/-! ## Fuses and debug access (chapter 17) -/

/-- PROG_CMD with its key starts the burn of PROG_DATA at PROG_ADDR; it is refused with its code at a word burned before, at the locked
identity words, at the locked key words without the scope, and without the programming voltage; any other value and a busy array leave everything as it is. A
verified burn adds its bits and sets DONE; one that is not leaves an unstated part of them, code 4 and FAIL. -/
def Stated.FusesAreBurned : Prop :=
  ∀ (s : State) (init d : Nat) (v : Word), Stated.Plain s init → d < 2 →
    let o := (s.die d).otp
    let a := s.pg .otp d 0x4C % 1024
    let cmd := exec (.progCmd init d v) s
    let lock := s.west.otp.fieldLock
    let fails (code : Nat) : Prop := ∃ t, cmd = .next t ∧ t.pg .otp d 0x58 = code ∧ bit (t.pg .otp d 0x14) 2 = true ∧
      (t.die d).otp = o ∧ t.mem = s.mem
    let scope := init = 12 ∨ ((s.dbg.mode = 0 ∨ s.dbg.mode = 2) ∧ bit s.dbg.granted 2 = true)
    (v = 0x0B070001#32 → o.burn = none → a = 0x3FE ∨ tget 0 o.words a = 0 →
      lock = false ∨ (0xC0 ≤ a ∧ a < 0x2D0) ∨ 0x3F4 ≤ a ∨ (0xC0 ≤ a ∧ scope) →
      o.vppOk = true → ∃ t, cmd = .next t ∧ t.mem = s.mem ∧
        (t.die d).otp = { o with burn := some (a, BitVec.ofNat 32 (s.pg .otp d 0x50)) }) ∧
    (v = 0x0B070001#32 → o.burn = none → a ≠ 0x3FE → tget 0 o.words a ≠ 0 → fails 1) ∧
    (v = 0x0B070001#32 → o.burn = none → tget 0 o.words a = 0 → lock = true → a < 0xC0 → fails 2) ∧
    (v = 0x0B070001#32 → o.burn = none → tget 0 o.words a = 0 → lock = true → 0x2D0 ≤ a → a < 0x3F4 → ¬ scope →
      fails 5) ∧
    (v = 0x0B070001#32 → o.burn = none → a = 0x3FE ∨ tget 0 o.words a = 0 → lock = false → o.vppOk = false → fails 3) ∧
    (v ≠ 0x0B070001#32 ∨ o.burn ≠ none → cmd = .next s) ∧
    (∀ b w, o.burn = some (b, w) →
      (∃ t, exec (.otpBurnDone d true) s = .next t ∧ t.mem = s.mem ∧ (t.die d).otp.burn = none ∧
        bit (t.pg .otp d 0x14) 1 = true ∧ (∀ i, i ≠ b → tget 0 (t.die d).otp.words i = tget 0 o.words i) ∧
        tget 0 (t.die d).otp.words b = tget 0 o.words b ||| w) ∧
      (∃ t, exec (.otpBurnDone d false) s = .next t ∧ t.mem = s.mem ∧ (t.die d).otp.burn = none ∧
        t.pg .otp d 0x58 = 4 ∧ bit (t.pg .otp d 0x14) 2 = true ∧ o.Grows (t.die d).otp ∧
        tget 0 (t.die d).otp.words b &&& ~~~(tget 0 o.words b ||| w) = 0))

/-- CHALLENGE shows a fresh nonce where a key slot is active; VERIFY_KEY uses the nonce up and owes the verdict on the reply,
VERIFY_PWD on the digest of the password, whose registers it clears; neither acts at eight failures. Without an active key slot both
commands are refused, and VERIFY_KEY counts as a failed attempt (DEDUCED, log 29). A verdict that passes opens the
granted scopes, the eighth that fails blocks debug for good, but of a device that is not field-locked the mode stays
(DEDUCED, log 29); CLOSE locks again; a nonce lapses. -/
def Stated.DebugIsUnlocked : Prop :=
  ∀ (s : State) (init : Nat), Stated.Plain s init →
    let x := s.dbg
    let evt (t : State) (b : Nat) : Prop := bit (t.pg .dbg 0 0x14) b = true
    let asked := s.pg .dbg 0 0x44 % 8
    (s.west.otp.keyGen ≠ 7 → ∃ t, exec (.challenge init) s = .next t ∧ t.fresh = s.fresh + 1 ∧
      t.dbg = { x with nonce := Config.nonce s.fresh, nonceValid := true } ∧ t.mem = s.mem) ∧
    (s.west.otp.keyGen = 7 → ∃ t, exec (.challenge init) s = .next t ∧ t.dbg = x ∧ evt t 4) ∧
    (x.failCnt ≠ 8 → x.verdict = none → s.west.otp.keyGen ≠ 7 →
      let key := fuseBytes s.west.otp.sensed (keyAt s.west.otp.keyGen) 32
      let reply := (hmac256 key (leBytes 16 x.nonce.toNat ++ fuseBytes s.west.otp.sensed 0 8 ++
        leBytes 4 (s.pg .dbg 0 0x44))).take 16
      ∃ t, exec (.verifyKey init) s = .next t ∧ t.mem = s.mem ∧ t.dbg = { x with
        nonceValid := false
        verdict := some (x.nonceValid && tblBytes x.resp 4 == reply, asked) }) ∧
    (x.failCnt ≠ 8 → x.verdict = none → s.west.otp.keyGen = 7 → ∃ t, exec (.verifyKey init) s = .next t ∧
      t.dbg = { x with nonceValid := false, verdict := some (false, asked) } ∧ evt t 4) ∧
    (x.failCnt ≠ 8 → x.verdict = none →
      let n := s.pg .dbg 0 0x70
      let digest := if s.west.otp.cfgGen = 7 then List.replicate 32 0
        else fuseBytes s.west.otp.sensed (cfgAt s.west.otp.cfgGen + 32) 32
      let right : Bool := decide (1 ≤ n ∧ n ≤ 64) && !digest.all (· == 0) &&
        sha256 ((tblBytes x.pwd 16).take n) == digest
      ∃ t, exec (.verifyPwd init) s = .next t ∧ t.mem = s.mem ∧
        t.dbg = { x with pwd := [], verdict := some (right, asked) }) ∧
    (x.failCnt = 8 → exec (.verifyKey init) s = .next s ∧ exec (.verifyPwd init) s = .next s) ∧
    (∀ sc, x.verdict = some (true, sc) → ∃ t, exec .authVerdict s = .next t ∧ evt t 1 ∧ t.mem = s.mem ∧
      t.dbg = { x with
        verdict := none, mode := if x.mode = 0 then 0 else 2, granted := if x.mode = 0 then x.granted else sc }) ∧
    (∀ sc, x.verdict = some (false, sc) → x.failCnt < 7 → ∃ t, exec .authVerdict s = .next t ∧ evt t 2 ∧
      t.dbg = { x with verdict := none, failCnt := x.failCnt + 1 }) ∧
    (∀ sc, x.verdict = some (false, sc) → x.failCnt = 7 → ∃ t, exec .authVerdict s = .next t ∧ evt t 2 ∧ evt t 3 ∧
      t.dbg = { x with
        verdict := none, failCnt := 8, mode := if x.mode = 0 then 0 else 3
        granted := if x.mode = 0 then x.granted else 0 }) ∧
    (x.mode = 2 → ∃ t, exec (.close init) s = .next t ∧ t.dbg = { x with mode := 1, granted := 0 } ∧ t.mem = s.mem) ∧
    (x.mode ≠ 2 → exec (.close init) s = .next s) ∧
    (∃ t, exec .nonceExpiry s = .next t ∧ t.dbg = { x with nonceValid := false } ∧ t.mem = s.mem ∧ t.bus = s.bus)

/-- Fuses are burned and debug is unlocked. -/
def Obligations.FusesAndDebug : Prop :=
  Stated.FusesAreBurned ∧ Stated.DebugIsUnlocked

/-- Run control (what a step, a halt of the device's own program and a breakpoint do is DEDUCED in part, log 29) of the sequencer that TGT names, by JTAG or with the RUN scope of open debug: HALT stops it at its next boundary, STEP
issues one instruction, RESUME lets it run (the device's own program too), a breakpoint is armed, and SEQ_DATA writes a
register of a halted one. A PC outside the program raises BRANCH at STEP and RESUME.
Without the scope, and SEQ_DATA on one that is not halted, the access is refused with its event. -/
def Obligations.DebugRunsSequencers : Prop :=
  ∀ (s : State) (init u : Nat) (v : Word), Stated.Plain s init →
    let t := s.pg .dbg 0 0xC0
    let x := s.unit u
    let scope := init = 12 ∨ ((s.dbg.mode = 0 ∨ s.dbg.mode = 2) ∧ bit s.dbg.granted 1 = true)
    let target := (bit t 8 = false ∧ u = bits t 7 0 ∧ u < 96) ∨ (bit t 8 = true ∧ u = 256 + bits t 7 0 ∧ u < 340)
    let refused (c : Instr) : Prop := ∃ w, exec c s = .next w ∧ bit (w.pg .dbg 0 0x14) 4 = true ∧ w.units = s.units ∧
      w.mem = s.mem
    let unitOf (c : Instr) (y : SeqUnit) : Prop := ∃ w, exec c s = .next w ∧ w.unit u = y ∧ w.mem = s.mem
    let sel := s.pg .dbg 0 0xCC
    (scope → target → x.run = .running ∨ x.run = .barrier ∨ (x.run = .idle ∧ s.ownProgram u = true) →
      unitOf (.dbgHalt init) { x with haltReq := true }) ∧
    (scope → target → x.run = .halted → x.imem[x.seq.pc.toNat]? = some (Stated.yWord 0 0 0 0) → x.arrs = [] →
      x.tnds = [] → Stated.GoesOn x (Stated.past x.seq 1) →
      unitOf (.dbgStep init) { x with seq := Stated.past x.seq 1, haltReq := false }) ∧
    (scope → target → x.run = .halted → x.seq.pc.toNat < x.imem.length →
      unitOf (.dbgResume init) { x with run := .running, haltReq := false }) ∧
    (scope → target → x.run = .halted → x.imem = [] →
      unitOf (.dbgResume init) { x with run := .idle, haltReq := false }) ∧
    (scope → target → x.run = .halted → x.imem ≠ [] → x.imem.length ≤ x.seq.pc.toNat →
      exec (.dbgResume init) s = .next ((s.setUnit u { x with run := .running, haltReq := false }).seqExc u 6 0) ∧
      exec (.dbgStep init) s = .next (s.seqExc u 6 0)) ∧
    (scope → target → unitOf (.dbgArmBreakpoint init) { x with brk := some (s.pg .dbg 0 0xC8) }) ∧
    (scope → target → x.run = .halted →
      (sel < 32 → unitOf (.seqDataWrite init v) { x with seq := x.seq.setS sel v }) ∧
      (32 ≤ sel → sel < 40 →
        unitOf (.seqDataWrite init v) { x with seq := x.seq.setP (sel - 32) (v.getLsbD 0) }) ∧
      (sel = 40 → unitOf (.seqDataWrite init v) { x with seq := { x.seq with pc := v } })) ∧
    (target → ¬ scope ∨ x.run ≠ .halted → refused (.seqDataWrite init v)) ∧
    (¬ scope → refused (.dbgHalt init) ∧ refused (.dbgStep init) ∧ refused (.dbgResume init) ∧
      refused (.dbgArmBreakpoint init))

/-! ## Boundary scan (chapter 18) -/

/-- While the rails are up each TAP instruction is loaded: TRST_N selects IDCODE on both TAPs and keeps the boundary cells; IDCODE captures the
identification of its die; SAMPLE/PRELOAD and the three EXTEST instructions take cells and pins; BOOT_READ captures BOOT_STAT with the first failure;
REG_ACCESS makes one access with every debug scope and captures its data, DONE and ERR. Without power nothing happens. -/
def Obligations.TapsAnswer : Prop :=
  ∀ (s : State) (d : Nat), d < 2 →
    let x := s.tap d
    let part := if d = 0 then 0xC960 else 0xC961
    (s.dev.rails = true →
      (∃ t, exec .trstNAssert s = .next t ∧ t.tap d = { x with ir := 2, bypass := false } ∧ t.bus = s.bus) ∧
      (∀ c ir, (c, ir) ∈ [(Instr.clamp d, 3), (.highz d, 4), (.bypass d, 0xFF)] →
        ∃ t, exec c s = .next t ∧ t.tap d = { x with ir := ir, bypass := false } ∧ t.tap (1 - d) = s.tap (1 - d) ∧
          t.bus = s.bus ∧ t.mem = s.mem) ∧
      (∀ pins cells c ir, (c, ir) ∈ [(Instr.extest ⟨d, pins, cells⟩, 0), (.extestPulse ⟨d, pins, cells⟩, 5),
          (.extestTrain ⟨d, pins, cells⟩, 6)] →
        ∃ t, exec c s = .next t ∧ t.tap d = { x with ir := ir, bypass := false, pins := pins, boundary := cells } ∧
          t.tap (1 - d) = s.tap (1 - d) ∧ t.bus = s.bus ∧ t.mem = s.mem ∧ t.drives d = false) ∧
      (∃ t, exec (.idcode d) s = .next t ∧ (t.tap d).ir = 2 ∧ (t.tap d).boundary = x.boundary ∧
        (t.tap d).dr = BitVec.ofNat 64 (2 ^ 28 + part * 2 ^ 12 + Config.jtagMaker.toNat * 2 + 1)) ∧
      (∀ pins cells, ∃ t, exec (.samplePreload d pins cells) s = .next t ∧
        t.tap d = { x with ir := 1, bypass := false, pins := pins, boundary := cells }) ∧
      (∃ t, exec .bootRead s = .next t ∧ (t.tap 0).ir = 0x10 ∧ (t.tap 0).dr.toNat % 2 ^ 32 = s.pg .mgt 0 0x40 ∧
        (s.dev.firstResult = 0 → (t.tap 0).dr.toNat / 2 ^ 32 = 0)) ∧
      (∀ dr : BitVec 64, s.dev.state = .ready → s.bus.lost = [] → s.Canon →
        let a := dr.toNat / 2 ^ 32 % 2 ^ 26
        let cap (t : State) (w err : Nat) : Prop := (t.tap 0).ir = 0x11 ∧
          (t.tap 0).dr = BitVec.ofNat 64 (w + 2 ^ 32 + err * 2 ^ 33)
        (∀ k i, pageOf (a / 0x1000) = some (k, i) → s.gated k i = false → a % 0x1000 = 0x38 →
          (dr.getLsbD 63 = true → ∃ t, exec (.regAccess dr) s = .next t ∧ cap t 0 0 ∧
            t.rg a = dr.truncate 32 ∧ t.mem = s.mem) ∧
          (dr.getLsbD 63 = false → ∃ t, exec (.regAccess dr) s = .next t ∧ cap t (s.rg a).toNat 0)) ∧
        (a % 4 ≠ 0 → dr.getLsbD 63 = false → ∃ t, exec (.regAccess dr) s = .next t ∧ cap t 0xFFFFFFFF 1 ∧
          bit (t.pg .mgt 0 0x14) 1 = true))) ∧
    (s.dev.rails = false →
      ∀ c ∈ [Instr.trstNAssert, .extest ⟨d, [], []⟩, .samplePreload d [] [], .idcode d, .clamp d, .highz d, .bypass d,
        .bootRead, .extestPulse ⟨d, [], []⟩, .extestTrain ⟨d, [], []⟩, .regAccess 0], exec c s = .next s)
end

