-- ==== Sys2Proof/Laws/State.lean ====
section
/-! SUPPORT. One lemma per field per update of the state. -/
set_option Elab.async false

namespace Sys2Proof.Machine

@[simp] theorem State.setPending_pending (s : State) (x : List Instr) : (s.setPending x).pending = x := rfl
@[simp] theorem State.setPending_fresh (s : State) (x : List Instr) : (s.setPending x).fresh = s.fresh := rfl
@[simp] theorem State.setPending_dev (s : State) (x : List Instr) : (s.setPending x).dev = s.dev := rfl
@[simp] theorem State.setPending_west (s : State) (x : List Instr) : (s.setPending x).west = s.west := rfl
@[simp] theorem State.setPending_east (s : State) (x : List Instr) : (s.setPending x).east = s.east := rfl
@[simp] theorem State.setPending_maps (s : State) (x : List Instr) : (s.setPending x).maps = s.maps := rfl
@[simp] theorem State.setPending_bus (s : State) (x : List Instr) : (s.setPending x).bus = s.bus := rfl
@[simp] theorem State.setPending_mem (s : State) (x : List Instr) : (s.setPending x).mem = s.mem := rfl
@[simp] theorem State.setPending_units (s : State) (x : List Instr) : (s.setPending x).units = s.units := rfl
@[simp] theorem State.setPending_sprue (s : State) (x : List Instr) : (s.setPending x).sprue = s.sprue := rfl
@[simp] theorem State.setPending_stk (s : State) (x : List Instr) : (s.setPending x).stk = s.stk := rfl
@[simp] theorem State.setPending_parts (s : State) (x : List Instr) : (s.setPending x).parts = s.parts := rfl
@[simp] theorem State.setPending_rings (s : State) (x : List Instr) : (s.setPending x).rings = s.rings := rfl
@[simp] theorem State.setPending_fabric (s : State) (x : List Instr) : (s.setPending x).fabric = s.fabric := rfl
@[simp] theorem State.setPending_health (s : State) (x : List Instr) : (s.setPending x).health = s.health := rfl
@[simp] theorem State.setPending_dbg (s : State) (x : List Instr) : (s.setPending x).dbg = s.dbg := rfl
@[simp] theorem State.setPending_taps (s : State) (x : List Instr) : (s.setPending x).taps = s.taps := rfl
@[simp] theorem State.setFresh_pending (s : State) (x : Nat) : (s.setFresh x).pending = s.pending := rfl
@[simp] theorem State.setFresh_fresh (s : State) (x : Nat) : (s.setFresh x).fresh = x := rfl
@[simp] theorem State.setFresh_dev (s : State) (x : Nat) : (s.setFresh x).dev = s.dev := rfl
@[simp] theorem State.setFresh_west (s : State) (x : Nat) : (s.setFresh x).west = s.west := rfl
@[simp] theorem State.setFresh_east (s : State) (x : Nat) : (s.setFresh x).east = s.east := rfl
@[simp] theorem State.setFresh_maps (s : State) (x : Nat) : (s.setFresh x).maps = s.maps := rfl
@[simp] theorem State.setFresh_bus (s : State) (x : Nat) : (s.setFresh x).bus = s.bus := rfl
@[simp] theorem State.setFresh_mem (s : State) (x : Nat) : (s.setFresh x).mem = s.mem := rfl
@[simp] theorem State.setFresh_units (s : State) (x : Nat) : (s.setFresh x).units = s.units := rfl
@[simp] theorem State.setFresh_sprue (s : State) (x : Nat) : (s.setFresh x).sprue = s.sprue := rfl
@[simp] theorem State.setFresh_stk (s : State) (x : Nat) : (s.setFresh x).stk = s.stk := rfl
@[simp] theorem State.setFresh_parts (s : State) (x : Nat) : (s.setFresh x).parts = s.parts := rfl
@[simp] theorem State.setFresh_rings (s : State) (x : Nat) : (s.setFresh x).rings = s.rings := rfl
@[simp] theorem State.setFresh_fabric (s : State) (x : Nat) : (s.setFresh x).fabric = s.fabric := rfl
@[simp] theorem State.setFresh_health (s : State) (x : Nat) : (s.setFresh x).health = s.health := rfl
@[simp] theorem State.setFresh_dbg (s : State) (x : Nat) : (s.setFresh x).dbg = s.dbg := rfl
@[simp] theorem State.setFresh_taps (s : State) (x : Nat) : (s.setFresh x).taps = s.taps := rfl
@[simp] theorem State.setDev_pending (s : State) (x : Dev) : (s.setDev x).pending = s.pending := rfl
@[simp] theorem State.setDev_fresh (s : State) (x : Dev) : (s.setDev x).fresh = s.fresh := rfl
@[simp] theorem State.setDev_dev (s : State) (x : Dev) : (s.setDev x).dev = x := rfl
@[simp] theorem State.setDev_west (s : State) (x : Dev) : (s.setDev x).west = s.west := rfl
@[simp] theorem State.setDev_east (s : State) (x : Dev) : (s.setDev x).east = s.east := rfl
@[simp] theorem State.setDev_maps (s : State) (x : Dev) : (s.setDev x).maps = s.maps := rfl
@[simp] theorem State.setDev_bus (s : State) (x : Dev) : (s.setDev x).bus = s.bus := rfl
@[simp] theorem State.setDev_mem (s : State) (x : Dev) : (s.setDev x).mem = s.mem := rfl
@[simp] theorem State.setDev_units (s : State) (x : Dev) : (s.setDev x).units = s.units := rfl
@[simp] theorem State.setDev_sprue (s : State) (x : Dev) : (s.setDev x).sprue = s.sprue := rfl
@[simp] theorem State.setDev_stk (s : State) (x : Dev) : (s.setDev x).stk = s.stk := rfl
@[simp] theorem State.setDev_parts (s : State) (x : Dev) : (s.setDev x).parts = s.parts := rfl
@[simp] theorem State.setDev_rings (s : State) (x : Dev) : (s.setDev x).rings = s.rings := rfl
@[simp] theorem State.setDev_fabric (s : State) (x : Dev) : (s.setDev x).fabric = s.fabric := rfl
@[simp] theorem State.setDev_health (s : State) (x : Dev) : (s.setDev x).health = s.health := rfl
@[simp] theorem State.setDev_dbg (s : State) (x : Dev) : (s.setDev x).dbg = s.dbg := rfl
@[simp] theorem State.setDev_taps (s : State) (x : Dev) : (s.setDev x).taps = s.taps := rfl
@[simp] theorem State.setWest_pending (s : State) (x : DieSt) : (s.setWest x).pending = s.pending := rfl
@[simp] theorem State.setWest_fresh (s : State) (x : DieSt) : (s.setWest x).fresh = s.fresh := rfl
@[simp] theorem State.setWest_dev (s : State) (x : DieSt) : (s.setWest x).dev = s.dev := rfl
@[simp] theorem State.setWest_west (s : State) (x : DieSt) : (s.setWest x).west = x := rfl
@[simp] theorem State.setWest_east (s : State) (x : DieSt) : (s.setWest x).east = s.east := rfl
@[simp] theorem State.setWest_maps (s : State) (x : DieSt) : (s.setWest x).maps = s.maps := rfl
@[simp] theorem State.setWest_bus (s : State) (x : DieSt) : (s.setWest x).bus = s.bus := rfl
@[simp] theorem State.setWest_mem (s : State) (x : DieSt) : (s.setWest x).mem = s.mem := rfl
@[simp] theorem State.setWest_units (s : State) (x : DieSt) : (s.setWest x).units = s.units := rfl
@[simp] theorem State.setWest_sprue (s : State) (x : DieSt) : (s.setWest x).sprue = s.sprue := rfl
@[simp] theorem State.setWest_stk (s : State) (x : DieSt) : (s.setWest x).stk = s.stk := rfl
@[simp] theorem State.setWest_parts (s : State) (x : DieSt) : (s.setWest x).parts = s.parts := rfl
@[simp] theorem State.setWest_rings (s : State) (x : DieSt) : (s.setWest x).rings = s.rings := rfl
@[simp] theorem State.setWest_fabric (s : State) (x : DieSt) : (s.setWest x).fabric = s.fabric := rfl
@[simp] theorem State.setWest_health (s : State) (x : DieSt) : (s.setWest x).health = s.health := rfl
@[simp] theorem State.setWest_dbg (s : State) (x : DieSt) : (s.setWest x).dbg = s.dbg := rfl
@[simp] theorem State.setWest_taps (s : State) (x : DieSt) : (s.setWest x).taps = s.taps := rfl
@[simp] theorem State.setEast_pending (s : State) (x : DieSt) : (s.setEast x).pending = s.pending := rfl
@[simp] theorem State.setEast_fresh (s : State) (x : DieSt) : (s.setEast x).fresh = s.fresh := rfl
@[simp] theorem State.setEast_dev (s : State) (x : DieSt) : (s.setEast x).dev = s.dev := rfl
@[simp] theorem State.setEast_west (s : State) (x : DieSt) : (s.setEast x).west = s.west := rfl
@[simp] theorem State.setEast_east (s : State) (x : DieSt) : (s.setEast x).east = x := rfl
@[simp] theorem State.setEast_maps (s : State) (x : DieSt) : (s.setEast x).maps = s.maps := rfl
@[simp] theorem State.setEast_bus (s : State) (x : DieSt) : (s.setEast x).bus = s.bus := rfl
@[simp] theorem State.setEast_mem (s : State) (x : DieSt) : (s.setEast x).mem = s.mem := rfl
@[simp] theorem State.setEast_units (s : State) (x : DieSt) : (s.setEast x).units = s.units := rfl
@[simp] theorem State.setEast_sprue (s : State) (x : DieSt) : (s.setEast x).sprue = s.sprue := rfl
@[simp] theorem State.setEast_stk (s : State) (x : DieSt) : (s.setEast x).stk = s.stk := rfl
@[simp] theorem State.setEast_parts (s : State) (x : DieSt) : (s.setEast x).parts = s.parts := rfl
@[simp] theorem State.setEast_rings (s : State) (x : DieSt) : (s.setEast x).rings = s.rings := rfl
@[simp] theorem State.setEast_fabric (s : State) (x : DieSt) : (s.setEast x).fabric = s.fabric := rfl
@[simp] theorem State.setEast_health (s : State) (x : DieSt) : (s.setEast x).health = s.health := rfl
@[simp] theorem State.setEast_dbg (s : State) (x : DieSt) : (s.setEast x).dbg = s.dbg := rfl
@[simp] theorem State.setEast_taps (s : State) (x : DieSt) : (s.setEast x).taps = s.taps := rfl
@[simp] theorem State.setMaps_pending (s : State) (x : Maps) : (s.setMaps x).pending = s.pending := rfl
@[simp] theorem State.setMaps_fresh (s : State) (x : Maps) : (s.setMaps x).fresh = s.fresh := rfl
@[simp] theorem State.setMaps_dev (s : State) (x : Maps) : (s.setMaps x).dev = s.dev := rfl
@[simp] theorem State.setMaps_west (s : State) (x : Maps) : (s.setMaps x).west = s.west := rfl
@[simp] theorem State.setMaps_east (s : State) (x : Maps) : (s.setMaps x).east = s.east := rfl
@[simp] theorem State.setMaps_maps (s : State) (x : Maps) : (s.setMaps x).maps = x := rfl
@[simp] theorem State.setMaps_bus (s : State) (x : Maps) : (s.setMaps x).bus = s.bus := rfl
@[simp] theorem State.setMaps_mem (s : State) (x : Maps) : (s.setMaps x).mem = s.mem := rfl
@[simp] theorem State.setMaps_units (s : State) (x : Maps) : (s.setMaps x).units = s.units := rfl
@[simp] theorem State.setMaps_sprue (s : State) (x : Maps) : (s.setMaps x).sprue = s.sprue := rfl
@[simp] theorem State.setMaps_stk (s : State) (x : Maps) : (s.setMaps x).stk = s.stk := rfl
@[simp] theorem State.setMaps_parts (s : State) (x : Maps) : (s.setMaps x).parts = s.parts := rfl
@[simp] theorem State.setMaps_rings (s : State) (x : Maps) : (s.setMaps x).rings = s.rings := rfl
@[simp] theorem State.setMaps_fabric (s : State) (x : Maps) : (s.setMaps x).fabric = s.fabric := rfl
@[simp] theorem State.setMaps_health (s : State) (x : Maps) : (s.setMaps x).health = s.health := rfl
@[simp] theorem State.setMaps_dbg (s : State) (x : Maps) : (s.setMaps x).dbg = s.dbg := rfl
@[simp] theorem State.setMaps_taps (s : State) (x : Maps) : (s.setMaps x).taps = s.taps := rfl
@[simp] theorem State.setBus_pending (s : State) (x : Bus) : (s.setBus x).pending = s.pending := rfl
@[simp] theorem State.setBus_fresh (s : State) (x : Bus) : (s.setBus x).fresh = s.fresh := rfl
@[simp] theorem State.setBus_dev (s : State) (x : Bus) : (s.setBus x).dev = s.dev := rfl
@[simp] theorem State.setBus_west (s : State) (x : Bus) : (s.setBus x).west = s.west := rfl
@[simp] theorem State.setBus_east (s : State) (x : Bus) : (s.setBus x).east = s.east := rfl
@[simp] theorem State.setBus_maps (s : State) (x : Bus) : (s.setBus x).maps = s.maps := rfl
@[simp] theorem State.setBus_bus (s : State) (x : Bus) : (s.setBus x).bus = x := rfl
@[simp] theorem State.setBus_mem (s : State) (x : Bus) : (s.setBus x).mem = s.mem := rfl
@[simp] theorem State.setBus_units (s : State) (x : Bus) : (s.setBus x).units = s.units := rfl
@[simp] theorem State.setBus_sprue (s : State) (x : Bus) : (s.setBus x).sprue = s.sprue := rfl
@[simp] theorem State.setBus_stk (s : State) (x : Bus) : (s.setBus x).stk = s.stk := rfl
@[simp] theorem State.setBus_parts (s : State) (x : Bus) : (s.setBus x).parts = s.parts := rfl
@[simp] theorem State.setBus_rings (s : State) (x : Bus) : (s.setBus x).rings = s.rings := rfl
@[simp] theorem State.setBus_fabric (s : State) (x : Bus) : (s.setBus x).fabric = s.fabric := rfl
@[simp] theorem State.setBus_health (s : State) (x : Bus) : (s.setBus x).health = s.health := rfl
@[simp] theorem State.setBus_dbg (s : State) (x : Bus) : (s.setBus x).dbg = s.dbg := rfl
@[simp] theorem State.setBus_taps (s : State) (x : Bus) : (s.setBus x).taps = s.taps := rfl
@[simp] theorem State.setMem_pending (s : State) (x : List Host.Cell) : (s.setMem x).pending = s.pending := rfl
@[simp] theorem State.setMem_fresh (s : State) (x : List Host.Cell) : (s.setMem x).fresh = s.fresh := rfl
@[simp] theorem State.setMem_dev (s : State) (x : List Host.Cell) : (s.setMem x).dev = s.dev := rfl
@[simp] theorem State.setMem_west (s : State) (x : List Host.Cell) : (s.setMem x).west = s.west := rfl
@[simp] theorem State.setMem_east (s : State) (x : List Host.Cell) : (s.setMem x).east = s.east := rfl
@[simp] theorem State.setMem_maps (s : State) (x : List Host.Cell) : (s.setMem x).maps = s.maps := rfl
@[simp] theorem State.setMem_bus (s : State) (x : List Host.Cell) : (s.setMem x).bus = s.bus := rfl
@[simp] theorem State.setMem_mem (s : State) (x : List Host.Cell) : (s.setMem x).mem = x := rfl
@[simp] theorem State.setMem_units (s : State) (x : List Host.Cell) : (s.setMem x).units = s.units := rfl
@[simp] theorem State.setMem_sprue (s : State) (x : List Host.Cell) : (s.setMem x).sprue = s.sprue := rfl
@[simp] theorem State.setMem_stk (s : State) (x : List Host.Cell) : (s.setMem x).stk = s.stk := rfl
@[simp] theorem State.setMem_parts (s : State) (x : List Host.Cell) : (s.setMem x).parts = s.parts := rfl
@[simp] theorem State.setMem_rings (s : State) (x : List Host.Cell) : (s.setMem x).rings = s.rings := rfl
@[simp] theorem State.setMem_fabric (s : State) (x : List Host.Cell) : (s.setMem x).fabric = s.fabric := rfl
@[simp] theorem State.setMem_health (s : State) (x : List Host.Cell) : (s.setMem x).health = s.health := rfl
@[simp] theorem State.setMem_dbg (s : State) (x : List Host.Cell) : (s.setMem x).dbg = s.dbg := rfl
@[simp] theorem State.setMem_taps (s : State) (x : List Host.Cell) : (s.setMem x).taps = s.taps := rfl
@[simp] theorem State.setUnits_pending (s : State) (x : Tbl SeqUnit) : (s.setUnits x).pending = s.pending := rfl
@[simp] theorem State.setUnits_fresh (s : State) (x : Tbl SeqUnit) : (s.setUnits x).fresh = s.fresh := rfl
@[simp] theorem State.setUnits_dev (s : State) (x : Tbl SeqUnit) : (s.setUnits x).dev = s.dev := rfl
@[simp] theorem State.setUnits_west (s : State) (x : Tbl SeqUnit) : (s.setUnits x).west = s.west := rfl
@[simp] theorem State.setUnits_east (s : State) (x : Tbl SeqUnit) : (s.setUnits x).east = s.east := rfl
@[simp] theorem State.setUnits_maps (s : State) (x : Tbl SeqUnit) : (s.setUnits x).maps = s.maps := rfl
@[simp] theorem State.setUnits_bus (s : State) (x : Tbl SeqUnit) : (s.setUnits x).bus = s.bus := rfl
@[simp] theorem State.setUnits_mem (s : State) (x : Tbl SeqUnit) : (s.setUnits x).mem = s.mem := rfl
@[simp] theorem State.setUnits_units (s : State) (x : Tbl SeqUnit) : (s.setUnits x).units = x := rfl
@[simp] theorem State.setUnits_sprue (s : State) (x : Tbl SeqUnit) : (s.setUnits x).sprue = s.sprue := rfl
@[simp] theorem State.setUnits_stk (s : State) (x : Tbl SeqUnit) : (s.setUnits x).stk = s.stk := rfl
@[simp] theorem State.setUnits_parts (s : State) (x : Tbl SeqUnit) : (s.setUnits x).parts = s.parts := rfl
@[simp] theorem State.setUnits_rings (s : State) (x : Tbl SeqUnit) : (s.setUnits x).rings = s.rings := rfl
@[simp] theorem State.setUnits_fabric (s : State) (x : Tbl SeqUnit) : (s.setUnits x).fabric = s.fabric := rfl
@[simp] theorem State.setUnits_health (s : State) (x : Tbl SeqUnit) : (s.setUnits x).health = s.health := rfl
@[simp] theorem State.setUnits_dbg (s : State) (x : Tbl SeqUnit) : (s.setUnits x).dbg = s.dbg := rfl
@[simp] theorem State.setUnits_taps (s : State) (x : Tbl SeqUnit) : (s.setUnits x).taps = s.taps := rfl
@[simp] theorem State.setSprue_pending (s : State) (x : Sprue) : (s.setSprue x).pending = s.pending := rfl
@[simp] theorem State.setSprue_fresh (s : State) (x : Sprue) : (s.setSprue x).fresh = s.fresh := rfl
@[simp] theorem State.setSprue_dev (s : State) (x : Sprue) : (s.setSprue x).dev = s.dev := rfl
@[simp] theorem State.setSprue_west (s : State) (x : Sprue) : (s.setSprue x).west = s.west := rfl
@[simp] theorem State.setSprue_east (s : State) (x : Sprue) : (s.setSprue x).east = s.east := rfl
@[simp] theorem State.setSprue_maps (s : State) (x : Sprue) : (s.setSprue x).maps = s.maps := rfl
@[simp] theorem State.setSprue_bus (s : State) (x : Sprue) : (s.setSprue x).bus = s.bus := rfl
@[simp] theorem State.setSprue_mem (s : State) (x : Sprue) : (s.setSprue x).mem = s.mem := rfl
@[simp] theorem State.setSprue_units (s : State) (x : Sprue) : (s.setSprue x).units = s.units := rfl
@[simp] theorem State.setSprue_sprue (s : State) (x : Sprue) : (s.setSprue x).sprue = x := rfl
@[simp] theorem State.setSprue_stk (s : State) (x : Sprue) : (s.setSprue x).stk = s.stk := rfl
@[simp] theorem State.setSprue_parts (s : State) (x : Sprue) : (s.setSprue x).parts = s.parts := rfl
@[simp] theorem State.setSprue_rings (s : State) (x : Sprue) : (s.setSprue x).rings = s.rings := rfl
@[simp] theorem State.setSprue_fabric (s : State) (x : Sprue) : (s.setSprue x).fabric = s.fabric := rfl
@[simp] theorem State.setSprue_health (s : State) (x : Sprue) : (s.setSprue x).health = s.health := rfl
@[simp] theorem State.setSprue_dbg (s : State) (x : Sprue) : (s.setSprue x).dbg = s.dbg := rfl
@[simp] theorem State.setSprue_taps (s : State) (x : Sprue) : (s.setSprue x).taps = s.taps := rfl
@[simp] theorem State.setStk_pending (s : State) (x : Stacks) : (s.setStk x).pending = s.pending := rfl
@[simp] theorem State.setStk_fresh (s : State) (x : Stacks) : (s.setStk x).fresh = s.fresh := rfl
@[simp] theorem State.setStk_dev (s : State) (x : Stacks) : (s.setStk x).dev = s.dev := rfl
@[simp] theorem State.setStk_west (s : State) (x : Stacks) : (s.setStk x).west = s.west := rfl
@[simp] theorem State.setStk_east (s : State) (x : Stacks) : (s.setStk x).east = s.east := rfl
@[simp] theorem State.setStk_maps (s : State) (x : Stacks) : (s.setStk x).maps = s.maps := rfl
@[simp] theorem State.setStk_bus (s : State) (x : Stacks) : (s.setStk x).bus = s.bus := rfl
@[simp] theorem State.setStk_mem (s : State) (x : Stacks) : (s.setStk x).mem = s.mem := rfl
@[simp] theorem State.setStk_units (s : State) (x : Stacks) : (s.setStk x).units = s.units := rfl
@[simp] theorem State.setStk_sprue (s : State) (x : Stacks) : (s.setStk x).sprue = s.sprue := rfl
@[simp] theorem State.setStk_stk (s : State) (x : Stacks) : (s.setStk x).stk = x := rfl
@[simp] theorem State.setStk_parts (s : State) (x : Stacks) : (s.setStk x).parts = s.parts := rfl
@[simp] theorem State.setStk_rings (s : State) (x : Stacks) : (s.setStk x).rings = s.rings := rfl
@[simp] theorem State.setStk_fabric (s : State) (x : Stacks) : (s.setStk x).fabric = s.fabric := rfl
@[simp] theorem State.setStk_health (s : State) (x : Stacks) : (s.setStk x).health = s.health := rfl
@[simp] theorem State.setStk_dbg (s : State) (x : Stacks) : (s.setStk x).dbg = s.dbg := rfl
@[simp] theorem State.setStk_taps (s : State) (x : Stacks) : (s.setStk x).taps = s.taps := rfl
@[simp] theorem State.setParts_pending (s : State) (x : Tbl Part) : (s.setParts x).pending = s.pending := rfl
@[simp] theorem State.setParts_fresh (s : State) (x : Tbl Part) : (s.setParts x).fresh = s.fresh := rfl
@[simp] theorem State.setParts_dev (s : State) (x : Tbl Part) : (s.setParts x).dev = s.dev := rfl
@[simp] theorem State.setParts_west (s : State) (x : Tbl Part) : (s.setParts x).west = s.west := rfl
@[simp] theorem State.setParts_east (s : State) (x : Tbl Part) : (s.setParts x).east = s.east := rfl
@[simp] theorem State.setParts_maps (s : State) (x : Tbl Part) : (s.setParts x).maps = s.maps := rfl
@[simp] theorem State.setParts_bus (s : State) (x : Tbl Part) : (s.setParts x).bus = s.bus := rfl
@[simp] theorem State.setParts_mem (s : State) (x : Tbl Part) : (s.setParts x).mem = s.mem := rfl
@[simp] theorem State.setParts_units (s : State) (x : Tbl Part) : (s.setParts x).units = s.units := rfl
@[simp] theorem State.setParts_sprue (s : State) (x : Tbl Part) : (s.setParts x).sprue = s.sprue := rfl
@[simp] theorem State.setParts_stk (s : State) (x : Tbl Part) : (s.setParts x).stk = s.stk := rfl
@[simp] theorem State.setParts_parts (s : State) (x : Tbl Part) : (s.setParts x).parts = x := rfl
@[simp] theorem State.setParts_rings (s : State) (x : Tbl Part) : (s.setParts x).rings = s.rings := rfl
@[simp] theorem State.setParts_fabric (s : State) (x : Tbl Part) : (s.setParts x).fabric = s.fabric := rfl
@[simp] theorem State.setParts_health (s : State) (x : Tbl Part) : (s.setParts x).health = s.health := rfl
@[simp] theorem State.setParts_dbg (s : State) (x : Tbl Part) : (s.setParts x).dbg = s.dbg := rfl
@[simp] theorem State.setParts_taps (s : State) (x : Tbl Part) : (s.setParts x).taps = s.taps := rfl
@[simp] theorem State.setRings_pending (s : State) (x : Tbl Ring) : (s.setRings x).pending = s.pending := rfl
@[simp] theorem State.setRings_fresh (s : State) (x : Tbl Ring) : (s.setRings x).fresh = s.fresh := rfl
@[simp] theorem State.setRings_dev (s : State) (x : Tbl Ring) : (s.setRings x).dev = s.dev := rfl
@[simp] theorem State.setRings_west (s : State) (x : Tbl Ring) : (s.setRings x).west = s.west := rfl
@[simp] theorem State.setRings_east (s : State) (x : Tbl Ring) : (s.setRings x).east = s.east := rfl
@[simp] theorem State.setRings_maps (s : State) (x : Tbl Ring) : (s.setRings x).maps = s.maps := rfl
@[simp] theorem State.setRings_bus (s : State) (x : Tbl Ring) : (s.setRings x).bus = s.bus := rfl
@[simp] theorem State.setRings_mem (s : State) (x : Tbl Ring) : (s.setRings x).mem = s.mem := rfl
@[simp] theorem State.setRings_units (s : State) (x : Tbl Ring) : (s.setRings x).units = s.units := rfl
@[simp] theorem State.setRings_sprue (s : State) (x : Tbl Ring) : (s.setRings x).sprue = s.sprue := rfl
@[simp] theorem State.setRings_stk (s : State) (x : Tbl Ring) : (s.setRings x).stk = s.stk := rfl
@[simp] theorem State.setRings_parts (s : State) (x : Tbl Ring) : (s.setRings x).parts = s.parts := rfl
@[simp] theorem State.setRings_rings (s : State) (x : Tbl Ring) : (s.setRings x).rings = x := rfl
@[simp] theorem State.setRings_fabric (s : State) (x : Tbl Ring) : (s.setRings x).fabric = s.fabric := rfl
@[simp] theorem State.setRings_health (s : State) (x : Tbl Ring) : (s.setRings x).health = s.health := rfl
@[simp] theorem State.setRings_dbg (s : State) (x : Tbl Ring) : (s.setRings x).dbg = s.dbg := rfl
@[simp] theorem State.setRings_taps (s : State) (x : Tbl Ring) : (s.setRings x).taps = s.taps := rfl
@[simp] theorem State.setFabric_pending (s : State) (x : Fabric) : (s.setFabric x).pending = s.pending := rfl
@[simp] theorem State.setFabric_fresh (s : State) (x : Fabric) : (s.setFabric x).fresh = s.fresh := rfl
@[simp] theorem State.setFabric_dev (s : State) (x : Fabric) : (s.setFabric x).dev = s.dev := rfl
@[simp] theorem State.setFabric_west (s : State) (x : Fabric) : (s.setFabric x).west = s.west := rfl
@[simp] theorem State.setFabric_east (s : State) (x : Fabric) : (s.setFabric x).east = s.east := rfl
@[simp] theorem State.setFabric_maps (s : State) (x : Fabric) : (s.setFabric x).maps = s.maps := rfl
@[simp] theorem State.setFabric_bus (s : State) (x : Fabric) : (s.setFabric x).bus = s.bus := rfl
@[simp] theorem State.setFabric_mem (s : State) (x : Fabric) : (s.setFabric x).mem = s.mem := rfl
@[simp] theorem State.setFabric_units (s : State) (x : Fabric) : (s.setFabric x).units = s.units := rfl
@[simp] theorem State.setFabric_sprue (s : State) (x : Fabric) : (s.setFabric x).sprue = s.sprue := rfl
@[simp] theorem State.setFabric_stk (s : State) (x : Fabric) : (s.setFabric x).stk = s.stk := rfl
@[simp] theorem State.setFabric_parts (s : State) (x : Fabric) : (s.setFabric x).parts = s.parts := rfl
@[simp] theorem State.setFabric_rings (s : State) (x : Fabric) : (s.setFabric x).rings = s.rings := rfl
@[simp] theorem State.setFabric_fabric (s : State) (x : Fabric) : (s.setFabric x).fabric = x := rfl
@[simp] theorem State.setFabric_health (s : State) (x : Fabric) : (s.setFabric x).health = s.health := rfl
@[simp] theorem State.setFabric_dbg (s : State) (x : Fabric) : (s.setFabric x).dbg = s.dbg := rfl
@[simp] theorem State.setFabric_taps (s : State) (x : Fabric) : (s.setFabric x).taps = s.taps := rfl
@[simp] theorem State.setHealth_pending (s : State) (x : Health) : (s.setHealth x).pending = s.pending := rfl
@[simp] theorem State.setHealth_fresh (s : State) (x : Health) : (s.setHealth x).fresh = s.fresh := rfl
@[simp] theorem State.setHealth_dev (s : State) (x : Health) : (s.setHealth x).dev = s.dev := rfl
@[simp] theorem State.setHealth_west (s : State) (x : Health) : (s.setHealth x).west = s.west := rfl
@[simp] theorem State.setHealth_east (s : State) (x : Health) : (s.setHealth x).east = s.east := rfl
@[simp] theorem State.setHealth_maps (s : State) (x : Health) : (s.setHealth x).maps = s.maps := rfl
@[simp] theorem State.setHealth_bus (s : State) (x : Health) : (s.setHealth x).bus = s.bus := rfl
@[simp] theorem State.setHealth_mem (s : State) (x : Health) : (s.setHealth x).mem = s.mem := rfl
@[simp] theorem State.setHealth_units (s : State) (x : Health) : (s.setHealth x).units = s.units := rfl
@[simp] theorem State.setHealth_sprue (s : State) (x : Health) : (s.setHealth x).sprue = s.sprue := rfl
@[simp] theorem State.setHealth_stk (s : State) (x : Health) : (s.setHealth x).stk = s.stk := rfl
@[simp] theorem State.setHealth_parts (s : State) (x : Health) : (s.setHealth x).parts = s.parts := rfl
@[simp] theorem State.setHealth_rings (s : State) (x : Health) : (s.setHealth x).rings = s.rings := rfl
@[simp] theorem State.setHealth_fabric (s : State) (x : Health) : (s.setHealth x).fabric = s.fabric := rfl
@[simp] theorem State.setHealth_health (s : State) (x : Health) : (s.setHealth x).health = x := rfl
@[simp] theorem State.setHealth_dbg (s : State) (x : Health) : (s.setHealth x).dbg = s.dbg := rfl
@[simp] theorem State.setHealth_taps (s : State) (x : Health) : (s.setHealth x).taps = s.taps := rfl
@[simp] theorem State.setDbg_pending (s : State) (x : Dbg) : (s.setDbg x).pending = s.pending := rfl
@[simp] theorem State.setDbg_fresh (s : State) (x : Dbg) : (s.setDbg x).fresh = s.fresh := rfl
@[simp] theorem State.setDbg_dev (s : State) (x : Dbg) : (s.setDbg x).dev = s.dev := rfl
@[simp] theorem State.setDbg_west (s : State) (x : Dbg) : (s.setDbg x).west = s.west := rfl
@[simp] theorem State.setDbg_east (s : State) (x : Dbg) : (s.setDbg x).east = s.east := rfl
@[simp] theorem State.setDbg_maps (s : State) (x : Dbg) : (s.setDbg x).maps = s.maps := rfl
@[simp] theorem State.setDbg_bus (s : State) (x : Dbg) : (s.setDbg x).bus = s.bus := rfl
@[simp] theorem State.setDbg_mem (s : State) (x : Dbg) : (s.setDbg x).mem = s.mem := rfl
@[simp] theorem State.setDbg_units (s : State) (x : Dbg) : (s.setDbg x).units = s.units := rfl
@[simp] theorem State.setDbg_sprue (s : State) (x : Dbg) : (s.setDbg x).sprue = s.sprue := rfl
@[simp] theorem State.setDbg_stk (s : State) (x : Dbg) : (s.setDbg x).stk = s.stk := rfl
@[simp] theorem State.setDbg_parts (s : State) (x : Dbg) : (s.setDbg x).parts = s.parts := rfl
@[simp] theorem State.setDbg_rings (s : State) (x : Dbg) : (s.setDbg x).rings = s.rings := rfl
@[simp] theorem State.setDbg_fabric (s : State) (x : Dbg) : (s.setDbg x).fabric = s.fabric := rfl
@[simp] theorem State.setDbg_health (s : State) (x : Dbg) : (s.setDbg x).health = s.health := rfl
@[simp] theorem State.setDbg_dbg (s : State) (x : Dbg) : (s.setDbg x).dbg = x := rfl
@[simp] theorem State.setDbg_taps (s : State) (x : Dbg) : (s.setDbg x).taps = s.taps := rfl
@[simp] theorem State.setTaps_pending (s : State) (x : Tbl Tap) : (s.setTaps x).pending = s.pending := rfl
@[simp] theorem State.setTaps_fresh (s : State) (x : Tbl Tap) : (s.setTaps x).fresh = s.fresh := rfl
@[simp] theorem State.setTaps_dev (s : State) (x : Tbl Tap) : (s.setTaps x).dev = s.dev := rfl
@[simp] theorem State.setTaps_west (s : State) (x : Tbl Tap) : (s.setTaps x).west = s.west := rfl
@[simp] theorem State.setTaps_east (s : State) (x : Tbl Tap) : (s.setTaps x).east = s.east := rfl
@[simp] theorem State.setTaps_maps (s : State) (x : Tbl Tap) : (s.setTaps x).maps = s.maps := rfl
@[simp] theorem State.setTaps_bus (s : State) (x : Tbl Tap) : (s.setTaps x).bus = s.bus := rfl
@[simp] theorem State.setTaps_mem (s : State) (x : Tbl Tap) : (s.setTaps x).mem = s.mem := rfl
@[simp] theorem State.setTaps_units (s : State) (x : Tbl Tap) : (s.setTaps x).units = s.units := rfl
@[simp] theorem State.setTaps_sprue (s : State) (x : Tbl Tap) : (s.setTaps x).sprue = s.sprue := rfl
@[simp] theorem State.setTaps_stk (s : State) (x : Tbl Tap) : (s.setTaps x).stk = s.stk := rfl
@[simp] theorem State.setTaps_parts (s : State) (x : Tbl Tap) : (s.setTaps x).parts = s.parts := rfl
@[simp] theorem State.setTaps_rings (s : State) (x : Tbl Tap) : (s.setTaps x).rings = s.rings := rfl
@[simp] theorem State.setTaps_fabric (s : State) (x : Tbl Tap) : (s.setTaps x).fabric = s.fabric := rfl
@[simp] theorem State.setTaps_health (s : State) (x : Tbl Tap) : (s.setTaps x).health = s.health := rfl
@[simp] theorem State.setTaps_dbg (s : State) (x : Tbl Tap) : (s.setTaps x).dbg = s.dbg := rfl
@[simp] theorem State.setTaps_taps (s : State) (x : Tbl Tap) : (s.setTaps x).taps = x := rfl

end Sys2Proof.Machine
end

