-- ==== Sys2Proof/Laws/Table.lean ====
section
/-! SUPPORT. Sparse tables: what a read answers after a write, and that every update keeps the
canonical form. -/
namespace Sys2Proof.Machine

variable {α : Type} [DecidableEq α]

/-- The canonical form, said of the whole list: no default is listed and keys strictly rise. -/
theorem twf_iff (d : α) (t : Tbl α) :
    twf d t = true ↔ (∀ e ∈ t, e.2 ≠ d) ∧ t.Pairwise (fun a b => a.1 < b.1) := by
  induction t with
  | nil => simp [twf]
  | cons a r ih =>
    obtain ⟨k, v⟩ := a
    cases r with
    | nil => simp [twf]
    | cons b r' =>
      obtain ⟨k', v'⟩ := b
      rw [twf, Bool.and_eq_true, Bool.and_eq_true, ih]
      simp only [decide_eq_true_eq, List.mem_cons, forall_eq_or_imp, List.pairwise_cons]
      constructor
      · rintro ⟨⟨hv, hk⟩, ⟨hv', hr⟩, hp, hq⟩
        exact ⟨⟨hv, hv', hr⟩, ⟨hk, fun e he => Nat.lt_trans hk (hp e he)⟩, hp, hq⟩
      · rintro ⟨⟨hv, hv', hr⟩, ⟨hk, _⟩, hp, hq⟩
        exact ⟨⟨hv, hk⟩, ⟨hv', hr⟩, hp, hq⟩

theorem twf_nil (d : α) : twf d ([] : Tbl α) = true := rfl

theorem twf_cons (d : α) (k : Nat) (v : α) (r : Tbl α) :
    twf d ((k, v) :: r) = true ↔ v ≠ d ∧ (∀ e ∈ r, k < e.1) ∧ twf d r = true := by
  simp only [twf_iff, List.mem_cons, forall_eq_or_imp, List.pairwise_cons]
  tauto

/-- A sublist of a canonical table is canonical. -/
theorem twf_sublist (d : α) {t u : Tbl α} (h : twf d u = true) (hs : t.Sublist u) : twf d t = true := by
  rw [twf_iff] at *
  exact ⟨fun e he => h.1 e (hs.mem he), h.2.sublist hs⟩

theorem twf_filter (d : α) {t : Tbl α} (p : Nat × α → Bool) (h : twf d t = true) :
    twf d (t.filter p) = true := twf_sublist d h List.filter_sublist

/-- Keys of a written table: the old ones and the key written. -/
theorem mem_tput (d : α) {t : Tbl α} {n : Nat} {v : α} {e : Nat × α} (h : e ∈ tput d t n v) :
    e ∈ t ∨ e.1 = n := by
  induction t with
  | nil =>
    simp only [tput] at h
    split at h <;> simp_all
  | cons a r ih =>
    obtain ⟨k, w⟩ := a
    simp only [tput] at h
    split at h
    · split at h
      · exact .inl (List.mem_cons_of_mem _ h)
      · rcases List.mem_cons.mp h with rfl | h
        · exact .inr rfl
        · exact .inl (List.mem_cons_of_mem _ h)
    · split at h
      · split at h
        · exact .inl h
        · rcases List.mem_cons.mp h with rfl | h
          · exact .inr rfl
          · exact .inl h
      · rcases List.mem_cons.mp h with rfl | h
        · exact .inl (List.mem_cons_self ..)
        · rcases ih h with h | h
          · exact .inl (List.mem_cons_of_mem _ h)
          · exact .inr h

/-- A write keeps the canonical form. -/
theorem twf_tput (d : α) {t : Tbl α} (n : Nat) (v : α) (h : twf d t = true) :
    twf d (tput d t n v) = true := by
  induction t with
  | nil => by_cases hv : v = d <;> simp [tput, hv, twf]
  | cons a r ih =>
    obtain ⟨k, w⟩ := a
    have hc := (twf_cons d k w r).mp h
    simp only [tput]
    split
    · rename_i e
      subst e
      split
      · exact hc.2.2
      · rename_i hv
        exact (twf_cons d n v r).mpr ⟨hv, hc.2⟩
    · split
      · split
        · exact h
        · rename_i hlt hv
          refine (twf_cons d n v _).mpr ⟨hv, ?_, h⟩
          intro e he
          rcases List.mem_cons.mp he with rfl | he
          · exact hlt
          · exact Nat.lt_trans hlt (hc.2.1 e he)
      · rename_i hne hnlt
        refine (twf_cons d k w _).mpr ⟨hc.1, ?_, ih hc.2.2⟩
        intro e he
        rcases mem_tput d he with he | he
        · exact hc.2.1 e he
        · omega

/-- The later of two writes of a key stands. -/
theorem tput_tput (d : α) {t : Tbl α} (n : Nat) (v w : α) (h : twf d t = true) :
    tput d (tput d t n v) n w = tput d t n w := by
  induction t with
  | nil =>
    by_cases hv : v = d <;> simp [tput, hv]
  | cons a r ih =>
    obtain ⟨k, x⟩ := a
    have hc := (twf_cons d k x r).mp h
    by_cases hk : n = k
    · subst hk
      by_cases hv : v = d
      · simp only [tput, if_true, if_pos hv]
        -- the key is gone: the write finds only larger keys
        cases r with
        | nil => rfl
        | cons b r' =>
          obtain ⟨j, y⟩ := b
          have hj : n < j := hc.2.1 _ (List.mem_cons_self ..)
          simp only [tput]
          rw [if_neg (by omega), if_pos hj]
      · simp [tput, hv]
    · by_cases hl : n < k
      · by_cases hv : v = d
        · simp [tput, hk, hl, hv]
        · simp [tput, hk, hl, hv]
      · simp only [tput, if_neg hk, if_neg hl]
        rw [ih hc.2.2]

omit [DecidableEq α] in
/-- Below its lowest key a table reads its default. -/
theorem tget_below (d : α) {t : Tbl α} {n : Nat} (h : ∀ e ∈ t, n < e.1) : tget d t n = d := by
  cases t with
  | nil => rfl
  | cons a r =>
    have := h a (List.mem_cons_self ..)
    simp only [tget]
    rw [if_neg (by omega), if_pos this]

/-- A read of the key just written. -/
theorem tget_tput_same (d : α) {t : Tbl α} (n : Nat) (v : α) (h : twf d t = true) :
    tget d (tput d t n v) n = v := by
  induction t with
  | nil => by_cases hv : v = d <;> simp [tput, tget, hv]
  | cons a r ih =>
    obtain ⟨k, w⟩ := a
    have hc := (twf_cons d k w r).mp h
    simp only [tput]
    split
    · rename_i e
      subst e
      split
      · rename_i hv
        rw [hv]
        exact tget_below d hc.2.1
      · simp [tget]
    · split
      · split
        · rename_i hne hlt hv
          simp [tget, hne, hlt, hv]
        · simp [tget]
      · rename_i hne hnlt
        simp only [tget, if_neg hne, if_neg hnlt]
        exact ih hc.2.2

/-- A read of another key. -/
theorem tget_tput_ne (d : α) {t : Tbl α} {n m : Nat} (v : α) (h : twf d t = true) (hm : m ≠ n) :
    tget d (tput d t n v) m = tget d t m := by
  induction t with
  | nil =>
    simp only [tput]
    split
    · rfl
    · simp [tget, hm]
  | cons a r ih =>
    obtain ⟨k, w⟩ := a
    have hc := (twf_cons d k w r).mp h
    simp only [tput]
    split
    · rename_i e
      subst e
      simp only [tget, if_neg hm]
      split
      · split
        · rename_i hlt
          exact tget_below d fun e he => Nat.lt_trans hlt (hc.2.1 e he)
        · rfl
      · simp [tget, hm]
    · split
      · split
        · rfl
        · rename_i hne hlt _
          simp only [tget, if_neg hm]
          split
          · rw [if_neg (by omega), if_pos (by omega)]
          · rfl
      · simp only [tget]
        rw [ih hc.2.2]

/-! Tables whose default depends on the key -/

omit [DecidableEq α] in
theorem rising_nil (d : Nat → α) : Rising d [] := ⟨nofun, .nil⟩

omit [DecidableEq α] in
theorem rising_cons (d : Nat → α) (k : Nat) (v : α) (r : Tbl α) :
    Rising d ((k, v) :: r) ↔ v ≠ d k ∧ (∀ e ∈ r, k < e.1) ∧ Rising d r := by
  simp only [Rising, List.mem_cons, forall_eq_or_imp, List.pairwise_cons]
  tauto

omit [DecidableEq α] in
theorem rising_filter (d : Nat → α) {t : Tbl α} (p : Nat × α → Bool) (h : Rising d t) :
    Rising d (t.filter p) :=
  ⟨fun e he => h.1 e (List.mem_of_mem_filter he), h.2.sublist List.filter_sublist⟩

/-- A write under the key's own default keeps the form. -/
theorem rising_tput (d : Nat → α) {t : Tbl α} (n : Nat) (v : α) (h : Rising d t) :
    Rising d (tput (d n) t n v) := by
  induction t with
  | nil =>
    simp only [tput]
    split
    · exact h
    · rename_i hv
      exact (rising_cons d n v []).mpr ⟨hv, nofun, rising_nil d⟩
  | cons a r ih =>
    obtain ⟨k, w⟩ := a
    have hc := (rising_cons d k w r).mp h
    simp only [tput]
    split
    · rename_i e
      subst e
      split
      · exact hc.2.2
      · rename_i hv
        exact (rising_cons d n v r).mpr ⟨hv, hc.2⟩
    · split
      · split
        · exact h
        · rename_i hlt hv
          refine (rising_cons d n v _).mpr ⟨hv, ?_, h⟩
          intro e he
          rcases List.mem_cons.mp he with rfl | he
          · exact hlt
          · exact Nat.lt_trans hlt (hc.2.1 e he)
      · rename_i hne hnlt
        refine (rising_cons d k w _).mpr ⟨hc.1, ?_, ih hc.2.2⟩
        intro e he
        rcases mem_tput (d n) he with he | he
        · exact hc.2.1 e he
        · omega

/-- A read of the key just written. -/
theorem tget_tput_rising (d : Nat → α) {t : Tbl α} (n : Nat) (v : α) (h : Rising d t) :
    tget (d n) (tput (d n) t n v) n = v := by
  induction t with
  | nil => by_cases hv : v = d n <;> simp [tput, tget, hv]
  | cons a r ih =>
    obtain ⟨k, w⟩ := a
    have hc := (rising_cons d k w r).mp h
    simp only [tput]
    split
    · rename_i e
      subst e
      split
      · rename_i hv
        rw [hv]
        exact tget_below (d n) hc.2.1
      · simp [tget]
    · split
      · split
        · rename_i hne hlt hv
          simp [tget, hne, hlt, hv]
        · simp [tget]
      · rename_i hne hnlt
        simp only [tget, if_neg hne, if_neg hnlt]
        exact ih hc.2.2

/-- A read of another key. -/
theorem tget_tput_rising_ne (d : Nat → α) (e : α) {t : Tbl α} {n m : Nat} (v : α) (h : Rising d t) (hm : m ≠ n) :
    tget e (tput (d n) t n v) m = tget e t m := by
  induction t with
  | nil =>
    simp only [tput]
    split
    · rfl
    · simp [tget, hm]
  | cons a r ih =>
    obtain ⟨k, w⟩ := a
    have hc := (rising_cons d k w r).mp h
    simp only [tput]
    split
    · rename_i e
      subst e
      simp only [tget, if_neg hm]
      split
      · split
        · rename_i hlt
          exact tget_below e fun x he => Nat.lt_trans hlt (hc.2.1 x he)
        · rfl
      · simp [tget, hm]
    · split
      · split
        · rfl
        · rename_i hne hlt _
          simp only [tget, if_neg hm]
          split
          · rw [if_neg (by omega), if_pos (by omega)]
          · rfl
      · simp only [tget]
        rw [ih hc.2.2]

end Sys2Proof.Machine
end

