-- ==== Sys2Proof/Laws/Keeps.lean ====
section
/-! SUPPORT. What almost every operation keeps: the queue, the canonical form of every table, the
count of free values (which never falls), and, for the operations that have no business with them, the
debug block, the fuses and the boundary-scan ports. Proved once per operation, so that a statement
about every command cites it. -/
namespace Sys2Proof.Machine

theorem Otp.Grows.refl {x : Otp} : x.Grows x := fun _ => BitVec.and_self

theorem Otp.Grows.of_eq {x y : Otp} (h : y.words = x.words) : x.Grows y := fun n => by
  rw [h]
  exact BitVec.and_self

theorem Otp.Grows.trans {x y z : Otp} (h : x.Grows y) (k : y.Grows z) : x.Grows z := fun n => by
  rw [← h n, BitVec.and_assoc, k n]

/-- From `s` to `t`: the queue is untouched, free values are drawn and never given back, canonical
tables stay canonical and no fuse reads 0 again; with `b`, the debug block, the fuses and the boundary-scan ports are untouched. -/
def Keeps (b : Bool) (s t : State) : Prop :=
  (t.pending = s.pending ∧ s.fresh ≤ t.fresh ∧
    (s.Canon → t.Canon ∧ s.west.otp.Grows t.west.otp ∧ s.east.otp.Grows t.east.otp)) ∧
  (b = true → t.dbg = s.dbg ∧ t.taps = s.taps ∧ t.west.otp = s.west.otp ∧ t.east.otp = s.east.otp)

/-- The outcome of a command, where it is a next state, is one that `Keeps` allows. -/
def KeepsO (b : Bool) (s : State) (o : Host.Outcome State Fault Refusal) : Prop :=
  ∀ t, o = .next t → Keeps b s t

/-- An optional next state, where there is one. -/
def KeepsOpt (b : Bool) (s : State) (o : Option State) : Prop := ∀ t, o = some t → Keeps b s t

namespace Keeps

variable {b : Bool} {s s' t : State}

theorem refl : Keeps b s s :=
  ⟨⟨rfl, Nat.le_refl _, fun c => ⟨c, .refl, .refl⟩⟩, fun _ => ⟨rfl, rfl, rfl, rfl⟩⟩

theorem trans (h : Keeps b s s') (k : Keeps b s' t) : Keeps b s t :=
  ⟨⟨k.1.1.trans h.1.1, Nat.le_trans h.1.2.1 k.1.2.1, fun c =>
    have x := h.1.2.2 c
    have y := k.1.2.2 x.1
    ⟨y.1, x.2.1.trans y.2.1, x.2.2.trans y.2.2⟩⟩, fun e =>
    ⟨(k.2 e).1.trans (h.2 e).1, (k.2 e).2.1.trans (h.2 e).2.1, (k.2 e).2.2.1.trans (h.2 e).2.2.1,
      (k.2 e).2.2.2.trans (h.2 e).2.2.2⟩⟩

/-- The weaker relation follows. -/
theorem weaken (h : Keeps true s t) : Keeps b s t := ⟨h.1, fun _ => h.2 rfl⟩

/-- An update that touches no table. -/
theorem of_eq (h : Keeps b s s') (hp : t.pending = s'.pending) (hf : s'.fresh ≤ t.fresh) (hm : t.mem = s'.mem)
    (hu : t.units = s'.units) (hq : t.parts = s'.parts) (hr : t.rings = s'.rings) (ht : t.taps = s'.taps)
    (hd : t.dbg = s'.dbg) (hw : t.west.otp = s'.west.otp) (he : t.east.otp = s'.east.otp)
    (hb : s'.bus.Canon → t.bus.Canon) (hk : s'.stk.Canon → t.stk.Canon)
    (ho : twf .reset s'.fabric.ports = true → twf .reset t.fabric.ports = true) : Keeps b s t :=
  h.trans ⟨⟨hp, hf, fun c =>
    ⟨⟨hm ▸ c.mem, hu ▸ c.units, hq ▸ c.parts, hr ▸ c.rings, ht ▸ c.taps, hw ▸ c.west, he ▸ c.east,
      hb c.bus, hk c.stk, ho c.ports⟩,
      .of_eq (congrArg _ hw), .of_eq (congrArg _ he)⟩⟩, fun _ => ⟨hd, ht, hw, he⟩⟩

/-! Control -/

theorem ite' {c : Prop} [Decidable c] {x y : State} (hx : c → Keeps b s x) (hy : ¬c → Keeps b s y) :
    Keeps b s (if c then x else y) := by
  split
  · exact hx ‹_›
  · exact hy ‹_›

theorem ite_fst {α : Type} {c : Prop} [Decidable c] {x y : State × α} (hx : c → Keeps b s x.1)
    (hy : ¬c → Keeps b s y.1) : Keeps b s (if c then x else y).1 := by
  split
  · exact hx ‹_›
  · exact hy ‹_›

theorem ite_snd {α : Type} {c : Prop} [Decidable c] {x y : α × State} (hx : c → Keeps b s x.2)
    (hy : ¬c → Keeps b s y.2) : Keeps b s (if c then x else y).2 := by
  split
  · exact hx ‹_›
  · exact hy ‹_›

theorem of_fst {α : Type} {p : State × α} {x : α} (e : p = (t, x)) (h : Keeps b s p.1) : Keeps b s t := by
  rw [e] at h
  exact h

theorem of_snd {α : Type} {p : α × State} {x : α} (e : p = (x, t)) (h : Keeps b s p.2) : Keeps b s t := by
  rw [e] at h
  exact h

theorem foldl' {α : Type} {f : State → α → State} (l : List α) (h : Keeps b s s')
    (hf : ∀ x a, Keeps b s x → Keeps b s (f x a)) : Keeps b s (l.foldl f s') := by
  induction l generalizing s' with
  | nil => exact h
  | cons a r ih => exact ih (hf _ _ h)

theorem foldr' {α : Type} {f : α → State → State} (l : List α) (h : Keeps b s s')
    (hf : ∀ a x, Keeps b s x → Keeps b s (f a x)) : Keeps b s (l.foldr f s') := by
  induction l with
  | nil => exact h
  | cons a r ih => exact hf _ _ ih

theorem foldl_fst {α β : Type} {f : State × β → α → State × β} (l : List α) {p : State × β}
    (h : Keeps b s p.1) (hf : ∀ x a, Keeps b s x.1 → Keeps b s (f x a).1) : Keeps b s (l.foldl f p).1 := by
  induction l generalizing p with
  | nil => exact h
  | cons a r ih => exact ih (hf _ _ h)

theorem foldl_snd {α β : Type} {f : β × State → α → β × State} (l : List α) {p : β × State}
    (h : Keeps b s p.2) (hf : ∀ x a, Keeps b s x.2 → Keeps b s (f x a).2) : Keeps b s (l.foldl f p).2 := by
  induction l generalizing p with
  | nil => exact h
  | cons a r ih => exact ih (hf _ _ h)

theorem forN' {f : Nat → State → State} (n : Nat) (h : Keeps b s s')
    (hf : ∀ i x, Keeps b s x → Keeps b s (f i x)) : Keeps b s (forN n s' f) :=
  foldl' _ h fun x i hx => hf i x hx

theorem forN_fst {β : Type} {f : Nat → State × β → State × β} (n : Nat) {p : State × β} (h : Keeps b s p.1)
    (hf : ∀ i x, Keeps b s x.1 → Keeps b s (f i x).1) : Keeps b s (forN n p f).1 :=
  foldl_fst _ h fun x i hx => hf i x hx

theorem forN_snd {β : Type} {f : Nat → β × State → β × State} (n : Nat) {p : β × State} (h : Keeps b s p.2)
    (hf : ∀ i x, Keeps b s x.2 → Keeps b s (f i x).2) : Keeps b s (forN n p f).2 :=
  foldl_snd _ h fun x i hx => hf i x hx

theorem repeatStep' {f : State → Option State} (n : Nat) (h : Keeps b s s')
    (hf : ∀ x, Keeps b s x → KeepsOpt b s (f x)) : Keeps b s (repeatStep f n s') := by
  induction n generalizing s' with
  | zero => exact h
  | succ n ih =>
    rw [repeatStep]
    split
    · exact ih (hf _ h _ ‹_›)
    · exact h

theorem getD' {o : Option State} (h : Keeps b s s') (ho : KeepsOpt b s o) : Keeps b s (o.getD s') := by
  cases o with
  | none => exact h
  | some x => exact ho x rfl

/-! Updates of one field -/

theorem setFresh {n : Nat} (h : Keeps b s s') (hn : s'.fresh ≤ n) : Keeps b s (s'.setFresh n) :=
  h.of_eq rfl hn rfl rfl rfl rfl rfl rfl rfl rfl id id id
theorem setDev {x : Dev} (h : Keeps b s s') : Keeps b s (s'.setDev x) :=
  h.of_eq rfl (Nat.le_refl _) rfl rfl rfl rfl rfl rfl rfl rfl id id id
theorem setMaps {x : Maps} (h : Keeps b s s') : Keeps b s (s'.setMaps x) :=
  h.of_eq rfl (Nat.le_refl _) rfl rfl rfl rfl rfl rfl rfl rfl id id id
theorem setBus {x : Bus} (h : Keeps b s s') (hx : s'.bus.Canon → x.Canon) : Keeps b s (s'.setBus x) :=
  h.of_eq rfl (Nat.le_refl _) rfl rfl rfl rfl rfl rfl rfl rfl hx id id
theorem setSprue {x : Sprue} (h : Keeps b s s') : Keeps b s (s'.setSprue x) :=
  h.of_eq rfl (Nat.le_refl _) rfl rfl rfl rfl rfl rfl rfl rfl id id id
theorem setStk {x : Stacks} (h : Keeps b s s') (hx : s'.stk.Canon → x.Canon) : Keeps b s (s'.setStk x) :=
  h.of_eq rfl (Nat.le_refl _) rfl rfl rfl rfl rfl rfl rfl rfl id hx id
theorem setFabric {x : Fabric} (h : Keeps b s s') (hx : twf .reset s'.fabric.ports = true → twf .reset x.ports = true) : Keeps b s (s'.setFabric x) :=
  h.of_eq rfl (Nat.le_refl _) rfl rfl rfl rfl rfl rfl rfl rfl id id hx
theorem setHealth {x : Health} (h : Keeps b s s') : Keeps b s (s'.setHealth x) :=
  h.of_eq rfl (Nat.le_refl _) rfl rfl rfl rfl rfl rfl rfl rfl id id id
theorem setWest {x : DieSt} (h : Keeps b s s') (hx : x.otp = s'.west.otp) : Keeps b s (s'.setWest x) :=
  h.of_eq rfl (Nat.le_refl _) rfl rfl rfl rfl rfl rfl hx rfl id id id
theorem setEast {x : DieSt} (h : Keeps b s s') (hx : x.otp = s'.east.otp) : Keeps b s (s'.setEast x) :=
  h.of_eq rfl (Nat.le_refl _) rfl rfl rfl rfl rfl rfl rfl hx id id id
theorem setWest' {x : DieSt} (h : Keeps false s s')
    (hx : twf 0 s'.west.otp.words = true → twf 0 x.otp.words = true ∧ s'.west.otp.Grows x.otp) :
    Keeps false s (s'.setWest x) :=
  h.trans ⟨⟨rfl, Nat.le_refl _, fun c =>
    ⟨⟨c.1, c.2, c.3, c.4, c.5, (hx c.6).1, c.7, c.8, c.9, c.10⟩, (hx c.6).2, .refl⟩⟩, nofun⟩
theorem setEast' {x : DieSt} (h : Keeps false s s')
    (hx : twf 0 s'.east.otp.words = true → twf 0 x.otp.words = true ∧ s'.east.otp.Grows x.otp) :
    Keeps false s (s'.setEast x) :=
  h.trans ⟨⟨rfl, Nat.le_refl _, fun c =>
    ⟨⟨c.1, c.2, c.3, c.4, c.5, c.6, (hx c.7).1, c.8, c.9, c.10⟩, .refl, (hx c.7).2⟩⟩, nofun⟩
theorem setDbg {x : Dbg} (h : Keeps false s s') : Keeps false s (s'.setDbg x) :=
  h.trans ⟨⟨rfl, Nat.le_refl _, fun c => ⟨⟨c.1, c.2, c.3, c.4, c.5, c.6, c.7, c.8, c.9, c.10⟩, .refl, .refl⟩⟩, nofun⟩

/-! Updates of the tables that `Canon` names -/

theorem setMem {x : List Host.Cell} (h : Keeps b s s') (hx : twf 0 s'.mem = true → twf 0 x = true) :
    Keeps b s (s'.setMem x) :=
  h.trans ⟨⟨rfl, Nat.le_refl _, fun c => ⟨⟨hx c.1, c.2, c.3, c.4, c.5, c.6, c.7, c.8, c.9, c.10⟩, .refl, .refl⟩⟩, fun _ => ⟨rfl, rfl, rfl, rfl⟩⟩
theorem setUnits {x : Tbl SeqUnit} (h : Keeps b s s') (hx : twf .reset s'.units = true → twf .reset x = true) :
    Keeps b s (s'.setUnits x) :=
  h.trans ⟨⟨rfl, Nat.le_refl _, fun c => ⟨⟨c.1, hx c.2, c.3, c.4, c.5, c.6, c.7, c.8, c.9, c.10⟩, .refl, .refl⟩⟩, fun _ => ⟨rfl, rfl, rfl, rfl⟩⟩
theorem setParts {x : Tbl Part} (h : Keeps b s s') (hx : twf .empty s'.parts = true → twf .empty x = true) :
    Keeps b s (s'.setParts x) :=
  h.trans ⟨⟨rfl, Nat.le_refl _, fun c => ⟨⟨c.1, c.2, hx c.3, c.4, c.5, c.6, c.7, c.8, c.9, c.10⟩, .refl, .refl⟩⟩, fun _ => ⟨rfl, rfl, rfl, rfl⟩⟩
theorem setRings {x : Tbl Ring} (h : Keeps b s s') (hx : twf .reset s'.rings = true → twf .reset x = true) :
    Keeps b s (s'.setRings x) :=
  h.trans ⟨⟨rfl, Nat.le_refl _, fun c => ⟨⟨c.1, c.2, c.3, hx c.4, c.5, c.6, c.7, c.8, c.9, c.10⟩, .refl, .refl⟩⟩, fun _ => ⟨rfl, rfl, rfl, rfl⟩⟩
theorem setTaps {x : Tbl Tap} (h : Keeps false s s') (hx : twf .reset s'.taps = true → twf .reset x = true) :
    Keeps false s (s'.setTaps x) :=
  h.trans ⟨⟨rfl, Nat.le_refl _, fun c => ⟨⟨c.1, c.2, c.3, c.4, hx c.5, c.6, c.7, c.8, c.9, c.10⟩, .refl, .refl⟩⟩, nofun⟩

theorem setUnit {u : Nat} {x : SeqUnit} (h : Keeps b s s') : Keeps b s (s'.setUnit u x) :=
  h.setUnits fun c => twf_tput _ _ _ c
theorem modUnit {u : Nat} {f : SeqUnit → SeqUnit} (h : Keeps b s s') : Keeps b s (s'.modUnit u f) := h.setUnit
theorem setPart {p : Nat} {x : Part} (h : Keeps b s s') : Keeps b s (s'.setPart p x) :=
  h.setParts fun c => twf_tput _ _ _ c
theorem modPart {p : Nat} {f : Part → Part} (h : Keeps b s s') : Keeps b s (s'.modPart p f) := h.setPart
theorem setRing {r : Nat} {x : Ring} (h : Keeps b s s') : Keeps b s (s'.setRing r x) :=
  h.setRings fun c => twf_tput _ _ _ c
theorem modRing {r : Nat} {f : Ring → Ring} (h : Keeps b s s') : Keeps b s (s'.modRing r f) := h.setRing
theorem setPort {n : Nat} {x : Port} (h : Keeps b s s') : Keeps b s (s'.setPort n x) :=
  h.setFabric fun c => twf_tput _ _ _ c
theorem modPort {n : Nat} {f : Port → Port} (h : Keeps b s s') : Keeps b s (s'.modPort n f) := h.setPort
theorem setStack {n : Nat} {x : Stack} (h : Keeps b s s') : Keeps b s (s'.setStack n x) :=
  h.setStk fun c => ⟨twf_tput _ _ _ c.1, c.2⟩
theorem modStack {n : Nat} {f : Stack → Stack} (h : Keeps b s s') : Keeps b s (s'.modStack n f) := h.setStack
theorem setGran {k : Nat} {x : Gran} (h : Keeps b s s') : Keeps b s (s'.setGran k x) :=
  h.setStk fun c => ⟨c.1, twf_tput _ _ _ c.2⟩
theorem setTap {d : Nat} {x : Tap} (h : Keeps false s s') : Keeps false s (s'.setTap d x) :=
  h.setTaps fun c => twf_tput _ _ _ c
theorem setDie {d : Nat} {x : DieSt} (h : Keeps b s s') (hx : x.otp = (s'.die d).otp) : Keeps b s (s'.setDie d x) := by
  unfold State.setDie
  unfold State.die at hx
  split
  · rename_i e
    rw [if_pos e] at hx
    exact h.setWest hx
  · rename_i e
    rw [if_neg e] at hx
    exact h.setEast hx
theorem modDie {d : Nat} {f : DieSt → DieSt} (h : Keeps b s s') (hf : ∀ x, (f x).otp = x.otp) :
    Keeps b s (s'.modDie d f) := h.setDie (hf _)
theorem setDie' {d : Nat} {x : DieSt} (h : Keeps false s s')
    (hx : twf 0 (s'.die d).otp.words = true → twf 0 x.otp.words = true ∧ (s'.die d).otp.Grows x.otp) :
    Keeps false s (s'.setDie d x) := by
  unfold State.setDie
  unfold State.die at hx
  split
  · rename_i e
    rw [if_pos e] at hx
    exact h.setWest' hx
  · rename_i e
    rw [if_neg e] at hx
    exact h.setEast' hx
theorem modDie' {d : Nat} {f : DieSt → DieSt} (h : Keeps false s s')
    (hf : ∀ x, twf 0 x.otp.words = true → twf 0 (f x).otp.words = true ∧ x.otp.Grows (f x).otp) :
    Keeps false s (s'.modDie d f) := h.setDie' (hf _)

/-! The operations of Machine/Ops.lean -/

theorem tick (h : Keeps b s s') : Keeps b s s'.tick := ite' (fun _ => h.setDev) fun _ => h
theorem draw (h : Keeps b s s') : Keeps b s s'.draw.2 := h.setFresh (Nat.le_succ _)
/-- Free values that are skipped: their count only grows. -/
theorem skip {n : Nat} (h : Keeps b s s') : Keeps b s (s'.setFresh (s'.fresh + n)) := h.setFresh (Nat.le_add_right _ _)
theorem moves (h : Keeps b s s') {k : PageKind} {i : Nat} : Keeps b s (s'.moves k i) := by
  unfold State.moves
  dsimp only
  split
  · exact h
  · exact h.setBus fun c => ⟨c.1, c.2, c.3, c.4⟩
theorem movesBytes (h : Keeps b s s') {k : PageKind} {i : Nat} : Keeps b s (s'.movesBytes k i) := by
  unfold State.movesBytes
  dsimp only
  split
  · exact h
  · exact h.setBus fun c => ⟨c.1, c.2, c.3, c.4⟩
theorem setRg {a : Nat} {v : Word} (h : Keeps b s s') : Keeps b s (s'.setRg a v) :=
  h.setBus fun c => ⟨rising_tput _ _ _ c.1, c.2, c.3, c.4⟩
theorem setPg {k : PageKind} {i off v : Nat} (h : Keeps b s s') : Keeps b s (s'.setPg k i off v) := h.setRg
theorem count32 {k : PageKind} {i off n : Nat} (h : Keeps b s s') : Keeps b s (s'.count32 k i off n) := h.setPg
theorem count16 {k : PageKind} {i off n : Nat} (h : Keeps b s s') : Keeps b s (s'.count16 k i off n) := h.setPg
theorem count64 {k : PageKind} {i off n : Nat} (h : Keeps b s s') : Keeps b s (s'.count64 k i off n) :=
  h.setPg.setPg
theorem setByte {a : Nat} {x : Byte} (h : Keeps b s s') : Keeps b s (s'.setByte a x) :=
  h.setMem fun c => twf_tput _ _ _ c
theorem setBytes {a : Nat} {bs : List Byte} (h : Keeps b s s') : Keeps b s (s'.setBytes a bs) := by
  induction bs generalizing a s' with
  | nil => exact h
  | cons x r ih => exact ih h.setByte
theorem zeroBytes {a n : Nat} (h : Keeps b s s') : Keeps b s (s'.zeroBytes a n) :=
  h.setMem fun c => twf_filter _ _ c
theorem setHostBytes {a : Nat} {bs : List Byte} (h : Keeps b s s') : Keeps b s (s'.setHostBytes a bs) :=
  ite' (fun _ => h.setBytes) fun _ => h
theorem fireVector {v : Nat} (h : Keeps b s s') : Keeps b s (s'.fireVector v) :=
  ite' (fun _ => h.setPg) fun _ => h.setHostBytes
theorem evSet {k : PageKind} {i n : Nat} (h : Keeps b s s') : Keeps b s (s'.evSet k i n) :=
  ite' (fun _ => h.setPg) fun _ => ite' (fun _ => h.setPg.fireVector) fun _ => h.setPg
theorem errLog {k : PageKind} {i code part info1 info2 : Nat} (h : Keeps b s s') :
    Keeps b s (s'.errLog k i code part info1 info2) := by
  refine evSet ?_
  exact ite' (fun _ => h.setPg) fun _ => h.setPg.setPg.setPg.setPg
theorem evErr {k : PageKind} {i n code part info1 info2 : Nat} (h : Keeps b s s') :
    Keeps b s (s'.evErr k i n code part info1 info2) := h.evSet.errLog
theorem errAgain {k : PageKind} {i : Nat} (h : Keeps b s s') : Keeps b s (s'.errAgain k i) := by
  unfold State.errAgain
  exact ite' (fun _ => h.setPg.evSet) fun _ => h
theorem hwSets {k : PageKind} {i n : Nat} (h : Keeps b s s') : Keeps b s (s'.hwSets k i n) :=
  forN' _ h fun _ _ hx => ite' (fun _ => ite' (fun _ => hx.errAgain) fun _ => hx.evSet) fun _ => hx

end Keeps

/-- Bytes that are laid down draw no free value. -/
theorem State.fresh_setBytes (s : State) (a : Nat) (bs : List Byte) : (s.setBytes a bs).fresh = s.fresh := by
  induction bs generalizing a s with
  | nil => rfl
  | cons x r ih => exact ih _ _

namespace KeepsO

variable {b : Bool} {s t : State}

theorem next (h : Keeps b s t) : KeepsO b s (.next t) := fun _ e => by
  cases e
  exact h

theorem ite' {c : Prop} [Decidable c] {x y : Host.Outcome State Fault Refusal} (hx : c → KeepsO b s x)
    (hy : ¬c → KeepsO b s y) : KeepsO b s (if c then x else y) := by
  split
  · exact hx ‹_›
  · exact hy ‹_›

end KeepsO

namespace KeepsOpt

variable {b : Bool} {s t : State}

theorem some' (h : Keeps b s t) : KeepsOpt b s (some t) := fun _ e => by
  cases e
  exact h

theorem none' : KeepsOpt b s none := fun _ e => absurd e (by simp)

theorem ite' {c : Prop} [Decidable c] {x y : Option State} (hx : c → KeepsOpt b s x)
    (hy : ¬c → KeepsOpt b s y) : KeepsOpt b s (if c then x else y) := by
  split
  · exact hx ‹_›
  · exact hy ‹_›

end KeepsOpt

end Sys2Proof.Machine
end

