-- ==== Sys2Proof/Laws/Keeps/Rings.lean ====
section
/-! SUPPORT. What the operations of Machine/Rings.lean keep. -/
set_option Elab.async false

namespace Sys2Proof.Machine

theorem Keeps.setRingRg {b : Bool} {s0 s : State} {a1 a2 a3} (h : Keeps b s0 s) :
    Keeps b s0 (State.setRingRg s a1 a2 a3) := by
  unfold Sys2Proof.Machine.State.setRingRg
  repeat' first
    | with_reducible assumption
    | with_reducible exact Keeps.refl
    | with_reducible apply Keeps.setPg

theorem Keeps.modStep {b : Bool} {s0 s : State} {a1 a2} (h : Keeps b s0 s) :
    Keeps b s0 (State.modStep s a1 a2) := by
  unfold Sys2Proof.Machine.State.modStep
  repeat' first
    | with_reducible assumption
    | with_reducible exact Keeps.refl
    | with_reducible apply Keeps.modPart

theorem Keeps.modRed {b : Bool} {s0 s : State} {a1 a2 a3} (h : Keeps b s0 s) :
    Keeps b s0 (State.modRed s a1 a2 a3) := by
  unfold Sys2Proof.Machine.State.modRed
  repeat' first
    | with_reducible assumption
    | with_reducible exact Keeps.refl
    | with_reducible apply Keeps.modStep

theorem Keeps.answered {b : Bool} {s0 s : State} {a1 a2 a3} (h : Keeps b s0 s) :
    Keeps b s0 (State.answered s a1 a2 a3) := by
  unfold Sys2Proof.Machine.State.answered
  repeat' first
    | with_reducible assumption
    | with_reducible exact Keeps.refl
    | with_reducible apply Keeps.setRing
    | with_reducible apply Keeps.modPart
    | with_reducible apply Keeps.setSprue
    | with_reducible apply Keeps.modRed
    | with_reducible refine Keeps.ite' (fun _ => ?_) (fun _ => ?_)
    | with_reducible refine Keeps.ite_fst (fun _ => ?_) (fun _ => ?_)
    | with_reducible refine Keeps.ite_snd (fun _ => ?_) (fun _ => ?_)
    | with_reducible refine Keeps.foldl' _ ?_ (fun _ _ _ => ?_)

theorem Keeps.cqPut {b : Bool} {s0 s : State} {a1 a2} (h : Keeps b s0 s) :
    Keeps b s0 (State.cqPut s a1 a2) := by
  unfold Sys2Proof.Machine.State.cqPut
  repeat' first
    | with_reducible assumption
    | with_reducible exact Keeps.refl
    | with_reducible apply Keeps.setHostBytes
    | with_reducible apply Keeps.setRingRg

theorem Keeps.irqFire {b : Bool} {s0 s : State} {a1} (h : Keeps b s0 s) :
    Keeps b s0 (State.irqFire s a1) := by
  unfold Sys2Proof.Machine.State.irqFire
  repeat' first
    | with_reducible assumption
    | with_reducible exact Keeps.refl
    | with_reducible apply Keeps.modRing
    | with_reducible apply Keeps.fireVector

theorem Keeps.irqEntry {b : Bool} {s0 s : State} {a1 a2} (h : Keeps b s0 s) :
    Keeps b s0 (State.irqEntry s a1 a2) := by
  unfold Sys2Proof.Machine.State.irqEntry
  repeat' first
    | with_reducible assumption
    | with_reducible exact Keeps.refl
    | with_reducible apply Keeps.setRing
    | with_reducible apply Keeps.irqFire
    | with_reducible refine Keeps.ite' (fun _ => ?_) (fun _ => ?_)

theorem Keeps.fencePump {b : Bool} {s0 s : State} {a1} (h : Keeps b s0 s) :
    Keeps b s0 (State.fencePump s a1) := by
  unfold Sys2Proof.Machine.State.fencePump
  repeat' first
    | with_reducible assumption
    | with_reducible exact Keeps.refl
    | with_reducible apply Keeps.setRing
    | with_reducible refine Keeps.ite' (fun _ => ?_) (fun _ => ?_)
    | with_reducible refine Keeps.ite_fst (fun _ => ?_) (fun _ => ?_)
    | with_reducible refine Keeps.ite_snd (fun _ => ?_) (fun _ => ?_)
    | split
    | (dsimp only; split)

theorem KeepsOpt.writeOne {b : Bool} {s0 s : State} {a1 a2 a3} (h : Keeps b s0 s) :
    KeepsOpt b s0 (State.writeOne s a1 a2 a3) := by
  unfold Sys2Proof.Machine.State.writeOne
  repeat' first
    | with_reducible assumption
    | with_reducible exact Keeps.refl
    | with_reducible apply Keeps.cqPut
    | with_reducible apply Keeps.setRing
    | with_reducible apply Keeps.answered
    | with_reducible apply Keeps.fencePump
    | with_reducible apply Keeps.irqEntry
    | with_reducible refine Keeps.ite' (fun _ => ?_) (fun _ => ?_)
    | with_reducible refine KeepsOpt.some' ?_
    | with_reducible exact KeepsOpt.none'
    | with_reducible refine KeepsOpt.ite' (fun _ => ?_) (fun _ => ?_)
    | split

theorem KeepsOpt.flushOne {b : Bool} {s0 s : State} {a1} (h : Keeps b s0 s) :
    KeepsOpt b s0 (State.flushOne s a1) := by
  unfold Sys2Proof.Machine.State.flushOne
  repeat' first
    | with_reducible assumption
    | with_reducible exact Keeps.refl
    | with_reducible apply KeepsOpt.writeOne
    | with_reducible refine KeepsOpt.some' ?_
    | with_reducible exact KeepsOpt.none'
    | split

theorem Keeps.drain {b : Bool} {s0 s : State} {a1} (h : Keeps b s0 s) :
    Keeps b s0 (State.drain s a1) := by
  unfold Sys2Proof.Machine.State.drain
  repeat' first
    | with_reducible assumption
    | with_reducible exact Keeps.refl
    | with_reducible apply KeepsOpt.flushOne
    | with_reducible refine Keeps.ite' (fun _ => ?_) (fun _ => ?_)
    | with_reducible refine Keeps.repeatStep' _ ?_ (fun _ _ => ?_)

theorem Keeps.cqWait {b : Bool} {s0 s : State} {a1} (h : Keeps b s0 s) :
    Keeps b s0 (State.cqWait s a1) := by
  unfold Sys2Proof.Machine.State.cqWait
  repeat' first
    | with_reducible assumption
    | with_reducible exact Keeps.refl
    | with_reducible apply Keeps.evSet
    | with_reducible refine Keeps.ite' (fun _ => ?_) (fun _ => ?_)

theorem Keeps.flush {b : Bool} {s0 s : State} {a1} (h : Keeps b s0 s) :
    Keeps b s0 (State.flush s a1) := by
  unfold Sys2Proof.Machine.State.flush
  repeat' first
    | with_reducible assumption
    | with_reducible exact Keeps.refl
    | with_reducible apply Keeps.drain
    | with_reducible apply Keeps.cqWait
    | with_reducible refine Keeps.ite' (fun _ => ?_) (fun _ => ?_)

theorem Keeps.post {b : Bool} {s0 s : State} {a1 a2} (h : Keeps b s0 s) :
    Keeps b s0 (State.post s a1 a2) := by
  unfold Sys2Proof.Machine.State.post
  repeat' first
    | with_reducible assumption
    | with_reducible exact Keeps.refl
    | with_reducible apply Keeps.cqWait
    | with_reducible apply Keeps.drain
    | with_reducible apply Keeps.modRing

theorem Keeps.respond {b : Bool} {s0 s : State} {a1 a2 a3 a4 a5 a6 a7} (h : Keeps b s0 s) :
    Keeps b s0 (State.respond s a1 a2 a3 a4 a5 a6 a7) := by
  unfold Sys2Proof.Machine.State.respond
  repeat' first
    | with_reducible assumption
    | with_reducible exact Keeps.refl
    | with_reducible apply Keeps.post

theorem Keeps.vent {b : Bool} {s0 s : State} {a1 a2 a3 a4} (h : Keeps b s0 s) :
    Keeps b s0 (State.vent s a1 a2 a3 a4) := by
  unfold Sys2Proof.Machine.State.vent
  repeat' first
    | with_reducible assumption
    | with_reducible exact Keeps.refl
    | with_reducible apply Keeps.post
    | with_reducible refine Keeps.ite' (fun _ => ?_) (fun _ => ?_)

theorem Keeps.ventAll {b : Bool} {s0 s : State} {a1 a2 a3 a4} (h : Keeps b s0 s) :
    Keeps b s0 (State.ventAll s a1 a2 a3 a4) := by
  unfold Sys2Proof.Machine.State.ventAll
  repeat' first
    | with_reducible assumption
    | with_reducible exact Keeps.refl
    | with_reducible apply Keeps.vent
    | with_reducible refine Keeps.foldl' _ ?_ (fun _ _ _ => ?_)

theorem Keeps.answerCmd {b : Bool} {s0 s : State} {a1 a2 a3 a4} (h : Keeps b s0 s) :
    Keeps b s0 (State.answerCmd s a1 a2 a3 a4) := by
  unfold Sys2Proof.Machine.State.answerCmd
  repeat' first
    | with_reducible assumption
    | with_reducible exact Keeps.refl
    | with_reducible apply Keeps.modPart
    | with_reducible refine Keeps.setStk ?_ ?_
    | with_reducible apply Keeps.respond
    | exact id
    | exact fun c => ⟨c.1, c.2⟩

end Sys2Proof.Machine
end

