-- ==== Sys2Proof/Laws/Keeps/Faults.lean ====
section
/-! SUPPORT. What the operations of Machine/Faults.lean keep. -/
set_option Elab.async false

namespace Sys2Proof.Machine

theorem Keeps.busErr {b : Bool} {s0 s : State} {a1 a2 a3} (h : Keeps b s0 s) :
    Keeps b s0 (State.busErr s a1 a2 a3) := by
  unfold Sys2Proof.Machine.State.busErr
  repeat' first
    | with_reducible assumption
    | with_reducible exact Keeps.refl
    | with_reducible apply Keeps.evErr

theorem Keeps.splog {b : Bool} {s0 s : State} {a1 a2 a3 a4 a5} (h : Keeps b s0 s) :
    Keeps b s0 (State.splog s a1 a2 a3 a4 a5) := by
  unfold Sys2Proof.Machine.State.splog
  repeat' first
    | with_reducible assumption
    | with_reducible exact Keeps.refl
    | with_reducible apply Keeps.evSet
    | with_reducible apply Keeps.setHealth
    | with_reducible refine Keeps.ite' (fun _ => ?_) (fun _ => ?_)

theorem Keeps.ventSpare {b : Bool} {s0 s : State} {a1 a2 a3 a4 a5 a6} (h : Keeps b s0 s) :
    Keeps b s0 (State.ventSpare s a1 a2 a3 a4 a5 a6) := by
  unfold Sys2Proof.Machine.State.ventSpare
  repeat' first
    | with_reducible assumption
    | with_reducible exact Keeps.refl
    | with_reducible apply Keeps.ventAll

theorem Keeps.spareUse {b : Bool} {s0 s : State} {a1 a2 a3 a4 a5 a6 a7} (h : Keeps b s0 s) :
    Keeps b s0 (State.spareUse s a1 a2 a3 a4 a5 a6 a7) := by
  unfold Sys2Proof.Machine.State.spareUse
  repeat' first
    | with_reducible assumption
    | with_reducible exact Keeps.refl
    | with_reducible apply Keeps.ventSpare
    | with_reducible apply Keeps.splog

theorem Keeps.authSend {b : Bool} {s0 s : State} {a1} (h : Keeps b s0 s) :
    Keeps b s0 (State.authSend s a1) := by
  unfold Sys2Proof.Machine.State.authSend
  repeat' first
    | with_reducible assumption
    | with_reducible exact Keeps.refl
    | with_reducible apply Keeps.count32
    | with_reducible refine Keeps.modDie ?_ ?_
    | exact rfl
    | exact fun _ => rfl

theorem Keeps.safeAgain {b : Bool} {s0 s : State} {a1 a2 a3} (h : Keeps b s0 s) :
    Keeps b s0 (State.safeAgain s a1 a2 a3) := by
  unfold Sys2Proof.Machine.State.safeAgain
  repeat' first
    | with_reducible assumption
    | with_reducible exact Keeps.refl
    | with_reducible refine Keeps.modDie ?_ ?_
    | with_reducible refine Keeps.ite' (fun _ => ?_) (fun _ => ?_)
    | exact rfl
    | exact fun _ => rfl

theorem Keeps.enterSafe {b : Bool} {s0 s : State} {a1 a2 a3} (h : Keeps b s0 s) :
    Keeps b s0 (State.enterSafe s a1 a2 a3) := by
  unfold Sys2Proof.Machine.State.enterSafe
  repeat' first
    | with_reducible assumption
    | with_reducible exact Keeps.refl
    | with_reducible apply Keeps.safeAgain
    | with_reducible refine Keeps.modDie ?_ ?_
    | with_reducible apply Keeps.evSet
    | with_reducible apply Keeps.setDev
    | with_reducible apply Keeps.authSend
    | with_reducible apply KeepsOpt.writeOne
    | with_reducible refine Keeps.ite' (fun _ => ?_) (fun _ => ?_)
    | with_reducible refine Keeps.getD' ?_ ?_
    | with_reducible refine Keeps.foldl' _ ?_ (fun _ _ _ => ?_)
    | with_reducible refine Keeps.foldl_fst _ ?_ (fun _ _ _ => ?_)
    | with_reducible refine Keeps.foldl_snd _ ?_ (fun _ _ _ => ?_)
    | refine KeepsOpt.writeOne ?_ _ (by assumption)
    | exact rfl
    | exact fun _ => rfl

theorem Keeps.deviceSafe {b : Bool} {s0 s : State} {a1} (h : Keeps b s0 s) :
    Keeps b s0 (State.deviceSafe s a1) := by
  unfold Sys2Proof.Machine.State.deviceSafe
  repeat' first
    | with_reducible assumption
    | with_reducible exact Keeps.refl
    | with_reducible apply Keeps.enterSafe

theorem Keeps.stopUnits {b : Bool} {s0 s : State} {a1} (h : Keeps b s0 s) :
    Keeps b s0 (State.stopUnits s a1) := by
  unfold Sys2Proof.Machine.State.stopUnits
  repeat' first
    | with_reducible assumption
    | with_reducible exact Keeps.refl
    | with_reducible apply Keeps.modUnit
    | with_reducible refine Keeps.foldl' _ ?_ (fun _ _ _ => ?_)

theorem Keeps.faultAgain {b : Bool} {s0 s : State} {a1 a2 a3 a4} (h : Keeps b s0 s) :
    Keeps b s0 (State.faultAgain s a1 a2 a3 a4) := by
  unfold Sys2Proof.Machine.State.faultAgain
  repeat' first
    | with_reducible assumption
    | with_reducible exact Keeps.refl
    | with_reducible apply Keeps.setPg
    | with_reducible apply Keeps.setPart
    | with_reducible refine Keeps.ite' (fun _ => ?_) (fun _ => ?_)

theorem Keeps.faultPart {b : Bool} {s0 s : State} {a1 a2 a3 a4} (h : Keeps b s0 s) :
    Keeps b s0 (State.faultPart s a1 a2 a3 a4) := by
  unfold Sys2Proof.Machine.State.faultPart
  repeat' first
    | with_reducible assumption
    | with_reducible exact Keeps.refl
    | with_reducible apply Keeps.setPart
    | with_reducible apply Keeps.evErr
    | with_reducible apply Keeps.stopUnits
    | with_reducible apply Keeps.faultAgain
    | with_reducible refine Keeps.ite' (fun _ => ?_) (fun _ => ?_)

theorem Keeps.faultFrom {b : Bool} {s0 s : State} {a1 a2 a3 a4} (h : Keeps b s0 s) :
    Keeps b s0 (State.faultFrom s a1 a2 a3 a4) := by
  unfold Sys2Proof.Machine.State.faultFrom
  repeat' first
    | with_reducible assumption
    | with_reducible exact Keeps.refl
    | with_reducible apply Keeps.faultPart

end Sys2Proof.Machine
end

