-- ==== Sys2Proof/Laws/Keeps/Memory.lean ====
section
/-! SUPPORT. What the operations of Machine/Memory.lean keep. -/
set_option Elab.async false

namespace Sys2Proof.Machine

theorem Keeps.refuse {b : Bool} {s0 s : State} {a1 a2} (h : Keeps b s0 s) :
    Keeps b s0 (State.refuse s a1 a2) := by
  unfold Sys2Proof.Machine.State.refuse
  repeat' first
    | with_reducible assumption
    | with_reducible exact Keeps.refl
    | with_reducible apply Keeps.evErr
    | with_reducible apply Keeps.faultFrom
    | with_reducible refine Keeps.ite' (fun _ => ?_) (fun _ => ?_)
    | split

theorem Keeps.wr {b : Bool} {s0 s : State} {a1 a2 a3} (h : Keeps b s0 s) :
    Keeps b s0 (State.wr s a1 a2 a3) := by
  unfold Sys2Proof.Machine.State.wr
  repeat' first
    | with_reducible assumption
    | with_reducible exact Keeps.refl
    | with_reducible apply Keeps.setBytes
    | with_reducible apply Keeps.setByte
    | with_reducible refine Keeps.ite' (fun _ => ?_) (fun _ => ?_)
    | with_reducible refine Keeps.forN' _ ?_ (fun _ _ _ => ?_)
    | with_reducible refine Keeps.forN_fst _ ?_ (fun _ _ _ => ?_)
    | with_reducible refine Keeps.forN_snd _ ?_ (fun _ _ _ => ?_)
    | split

theorem Keeps.setOwner {b : Bool} {s0 s : State} {a1 a2} (h : Keeps b s0 s) :
    Keeps b s0 (State.setOwner s a1 a2) := by
  unfold Sys2Proof.Machine.State.setOwner
  repeat' first
    | with_reducible assumption
    | with_reducible exact Keeps.refl
    | with_reducible apply Keeps.setGran

theorem Keeps.enterScrub {b : Bool} {s0 s : State} {a1} (h : Keeps b s0 s) :
    Keeps b s0 (State.enterScrub s a1) := by
  unfold Sys2Proof.Machine.State.enterScrub
  repeat' first
    | with_reducible assumption
    | with_reducible exact Keeps.refl
    | with_reducible apply Keeps.setOwner

theorem Keeps.faultMany {b : Bool} {s0 s : State} {a1 a2 a3 a4} (h : Keeps b s0 s) :
    Keeps b s0 (State.faultMany s a1 a2 a3 a4) := by
  unfold Sys2Proof.Machine.State.faultMany
  repeat' first
    | with_reducible assumption
    | with_reducible exact Keeps.refl
    | with_reducible apply Keeps.faultFrom
    | with_reducible refine Keeps.ite' (fun _ => ?_) (fun _ => ?_)
    | with_reducible refine Keeps.foldl' _ ?_ (fun _ _ _ => ?_)

theorem Keeps.freesPump {b : Bool} {s0 s : State} (h : Keeps b s0 s) :
    Keeps b s0 (State.freesPump s) := by
  unfold Sys2Proof.Machine.State.freesPump
  repeat' first
    | with_reducible assumption
    | with_reducible exact Keeps.refl
    | with_reducible refine Keeps.setStk ?_ ?_
    | with_reducible apply Keeps.respond
    | with_reducible refine Keeps.foldl' _ ?_ (fun _ _ _ => ?_)
    | with_reducible refine Keeps.foldl_fst _ ?_ (fun _ _ _ => ?_)
    | with_reducible refine Keeps.foldl_snd _ ?_ (fun _ _ _ => ?_)
    | exact id
    | exact fun c => ⟨c.1, c.2⟩

theorem Keeps.withdrawChannel {b : Bool} {s0 s : State} {a1 a2 a3} (h : Keeps b s0 s) :
    Keeps b s0 (State.withdrawChannel s a1 a2 a3) := by
  unfold Sys2Proof.Machine.State.withdrawChannel
  repeat' first
    | with_reducible assumption
    | with_reducible exact Keeps.refl
    | with_reducible apply Keeps.setMaps
    | with_reducible apply Keeps.evErr
    | with_reducible apply Keeps.faultMany
    | with_reducible apply Keeps.freesPump
    | with_reducible apply Keeps.setOwner
    | with_reducible apply Keeps.spareUse
    | with_reducible refine Keeps.ite' (fun _ => ?_) (fun _ => ?_)
    | with_reducible refine Keeps.foldl' _ ?_ (fun _ _ _ => ?_)

theorem Keeps.retire {b : Bool} {s0 s : State} {a1} (h : Keeps b s0 s) :
    Keeps b s0 (State.retire s a1) := by
  unfold Sys2Proof.Machine.State.retire
  repeat' first
    | with_reducible assumption
    | with_reducible exact Keeps.refl
    | with_reducible apply Keeps.setGran
    | with_reducible apply Keeps.withdrawChannel
    | with_reducible refine Keeps.ite' (fun _ => ?_) (fun _ => ?_)

theorem Keeps.endMgmt {b : Bool} {s0 s : State} {a1} (h : Keeps b s0 s) :
    Keeps b s0 (State.endMgmt s a1) := by
  unfold Sys2Proof.Machine.State.endMgmt
  repeat' first
    | with_reducible assumption
    | with_reducible exact Keeps.refl
    | with_reducible apply Keeps.modPart

theorem Keeps.dramPoison {b : Bool} {s0 s : State} {a1 a2} (h : Keeps b s0 s) :
    Keeps b s0 (State.dramPoison s a1 a2) := by
  unfold Sys2Proof.Machine.State.dramPoison
  repeat' first
    | with_reducible assumption
    | with_reducible exact Keeps.refl
    | with_reducible apply Keeps.evErr
    | with_reducible apply Keeps.count32
    | with_reducible apply Keeps.count16
    | with_reducible apply Keeps.faultFrom
    | with_reducible apply Keeps.retire
    | with_reducible refine Keeps.ite' (fun _ => ?_) (fun _ => ?_)
    | split

theorem Keeps.dramUe {b : Bool} {s0 s : State} {a1 a2} (h : Keeps b s0 s) :
    Keeps b s0 (State.dramUe s a1 a2) := by
  unfold Sys2Proof.Machine.State.dramUe
  repeat' first
    | with_reducible assumption
    | with_reducible exact Keeps.refl
    | with_reducible apply Keeps.dramPoison
    | with_reducible apply Keeps.endMgmt
    | with_reducible refine Keeps.ite' (fun _ => ?_) (fun _ => ?_)

theorem Keeps.dramCe {b : Bool} {s0 s : State} {a1} (h : Keeps b s0 s) :
    Keeps b s0 (State.dramCe s a1) := by
  unfold Sys2Proof.Machine.State.dramCe
  repeat' first
    | with_reducible assumption
    | with_reducible exact Keeps.refl
    | with_reducible apply Keeps.count16
    | with_reducible apply Keeps.count32
    | with_reducible apply Keeps.evSet
    | split

theorem KeepsO.execStackTransaction {b : Bool} {s0 s : State} {a0 a1 a2 a3 a4 a5} (h : Keeps b s0 s) :
    KeepsO b s0 (execStackTransaction a0 a1 a2 a3 a4 a5 s) := by
  unfold Sys2Proof.Machine.execStackTransaction
  repeat' first
    | with_reducible assumption
    | with_reducible exact Keeps.refl
    | with_reducible apply Keeps.refuse
    | with_reducible apply Keeps.endMgmt
    | with_reducible apply Keeps.setBytes
    | with_reducible apply Keeps.dramUe
    | with_reducible apply Keeps.dramCe
    | with_reducible refine Keeps.ite' (fun _ => ?_) (fun _ => ?_)
    | with_reducible refine KeepsO.next ?_
    | with_reducible refine KeepsO.ite' (fun _ => ?_) (fun _ => ?_)
    | split

theorem KeepsO.execGranuleRelease {b : Bool} {s0 s : State} {a0 a1} (h : Keeps b s0 s) :
    KeepsO b s0 (execGranuleRelease a0 a1 s) := by
  unfold Sys2Proof.Machine.execGranuleRelease
  repeat' first
    | with_reducible assumption
    | with_reducible exact Keeps.refl
    | with_reducible apply Keeps.freesPump
    | with_reducible apply Keeps.enterScrub
    | with_reducible refine Keeps.ite' (fun _ => ?_) (fun _ => ?_)
    | with_reducible refine KeepsO.next ?_
    | with_reducible refine KeepsO.ite' (fun _ => ?_) (fun _ => ?_)

theorem KeepsO.execScrubDone {b : Bool} {s0 s : State} {a0 a1} (h : Keeps b s0 s) :
    KeepsO b s0 (execScrubDone a0 a1 s) := by
  unfold Sys2Proof.Machine.execScrubDone
  repeat' first
    | with_reducible assumption
    | with_reducible exact Keeps.refl
    | with_reducible apply Keeps.evSet
    | with_reducible apply Keeps.setOwner
    | with_reducible apply Keeps.zeroBytes
    | with_reducible refine Keeps.ite' (fun _ => ?_) (fun _ => ?_)
    | with_reducible refine KeepsO.next ?_
    | with_reducible refine KeepsO.ite' (fun _ => ?_) (fun _ => ?_)

theorem Keeps.memMsg {b : Bool} {s0 s : State} {a1 a2 a3 a4} (h : Keeps b s0 s) :
    Keeps b s0 (State.memMsg s a1 a2 a3 a4).1 := by
  unfold Sys2Proof.Machine.State.memMsg
  repeat' first
    | with_reducible assumption
    | with_reducible exact Keeps.refl
    | with_reducible apply Keeps.refuse
    | with_reducible apply Keeps.dramPoison
    | with_reducible apply Keeps.setGran
    | with_reducible refine Keeps.setStk ?_ ?_
    | with_reducible apply Keeps.setOwner
    | with_reducible refine Keeps.ite' (fun _ => ?_) (fun _ => ?_)
    | with_reducible refine Keeps.ite_fst (fun _ => ?_) (fun _ => ?_)
    | with_reducible refine Keeps.ite_snd (fun _ => ?_) (fun _ => ?_)
    | with_reducible refine Keeps.foldl' _ ?_ (fun _ _ _ => ?_)
    | with_reducible refine Keeps.foldl_fst _ ?_ (fun _ _ _ => ?_)
    | with_reducible refine Keeps.foldl_snd _ ?_ (fun _ _ _ => ?_)
    | split
    | exact id
    | exact fun c => ⟨c.1, c.2⟩

theorem Keeps.allStacks {b : Bool} {s0 s : State} {a1} (h : Keeps b s0 s) :
    Keeps b s0 (State.allStacks s a1) := by
  unfold Sys2Proof.Machine.State.allStacks
  repeat' first
    | with_reducible assumption
    | with_reducible exact Keeps.refl
    | with_reducible apply Keeps.modStack
    | with_reducible refine Keeps.foldl' _ ?_ (fun _ _ _ => ?_)

theorem Keeps.recode {b : Bool} {s0 s : State} {a1 a2} (h : Keeps b s0 s) :
    Keeps b s0 (State.recode s a1 a2) := by
  unfold Sys2Proof.Machine.State.recode
  repeat' first
    | with_reducible assumption
    | with_reducible exact Keeps.refl
    | with_reducible apply Keeps.setGran
    | with_reducible refine Keeps.foldl' _ ?_ (fun _ _ _ => ?_)

theorem Keeps.teacherSealOp {b : Bool} {s0 s : State} (h : Keeps b s0 s) :
    Keeps b s0 (State.teacherSealOp s).1 := by
  unfold Sys2Proof.Machine.State.teacherSealOp
  repeat' first
    | with_reducible assumption
    | with_reducible exact Keeps.refl
    | with_reducible apply Keeps.allStacks
    | with_reducible apply Keeps.recode
    | with_reducible apply Keeps.evSet
    | with_reducible refine Keeps.ite' (fun _ => ?_) (fun _ => ?_)
    | with_reducible refine Keeps.ite_fst (fun _ => ?_) (fun _ => ?_)
    | with_reducible refine Keeps.ite_snd (fun _ => ?_) (fun _ => ?_)
    | with_reducible refine Keeps.foldl' _ ?_ (fun _ _ _ => ?_)

theorem Keeps.teacherUnsealOp {b : Bool} {s0 s : State} (h : Keeps b s0 s) :
    Keeps b s0 (State.teacherUnsealOp s).1 := by
  unfold Sys2Proof.Machine.State.teacherUnsealOp
  repeat' first
    | with_reducible assumption
    | with_reducible exact Keeps.refl
    | with_reducible apply Keeps.allStacks
    | with_reducible apply Keeps.recode
    | with_reducible refine Keeps.ite' (fun _ => ?_) (fun _ => ?_)
    | with_reducible refine Keeps.ite_fst (fun _ => ?_) (fun _ => ?_)

theorem Keeps.ventThermal {b : Bool} {s0 s : State} {a1 a2 a3 a4} (h : Keeps b s0 s) :
    Keeps b s0 (State.ventThermal s a1 a2 a3 a4) := by
  unfold Sys2Proof.Machine.State.ventThermal
  repeat' first
    | with_reducible assumption
    | with_reducible exact Keeps.refl
    | with_reducible apply Keeps.vent
    | with_reducible refine Keeps.foldl' _ ?_ (fun _ _ _ => ?_)

theorem KeepsO.execGovernorFrame {b : Bool} {s0 s : State} {a0 a1 a2} (h : Keeps b s0 s) :
    KeepsO b s0 (execGovernorFrame a0 a1 a2 s) := by
  unfold Sys2Proof.Machine.execGovernorFrame
  repeat' first
    | with_reducible assumption
    | with_reducible exact Keeps.refl
    | with_reducible apply Keeps.count64
    | with_reducible apply Keeps.setStack
    | with_reducible apply Keeps.ventThermal
    | with_reducible apply Keeps.evSet
    | with_reducible refine Keeps.ite' (fun _ => ?_) (fun _ => ?_)
    | with_reducible refine KeepsO.next ?_
    | with_reducible refine KeepsO.ite' (fun _ => ?_) (fun _ => ?_)

end Sys2Proof.Machine
end

