-- ==== Sys2Proof/Laws/Keeps/Commands.lean ====
section
/-! SUPPORT. What the operations of Machine/Commands.lean keep. -/
set_option Elab.async false

namespace Sys2Proof.Machine

theorem Keeps.modCmd {b : Bool} {s0 s : State} {a1 a2 a3} (h : Keeps b s0 s) :
    Keeps b s0 (State.modCmd s a1 a2 a3) := by
  unfold Sys2Proof.Machine.State.modCmd
  repeat' first
    | with_reducible assumption
    | with_reducible exact Keeps.refl
    | with_reducible apply Keeps.modPart

theorem KeepsO.runCmd {b : Bool} {s0 s : State} {a1 a2 a3 a4} (h : Keeps b s0 s) (h4 : ∀ x0 x1, Keeps b s0 x1 → Keeps b s0 (a4 x0 x1).1) :
    KeepsO b s0 (State.runCmd s a1 a2 a3 a4) := by
  unfold Sys2Proof.Machine.State.runCmd
  repeat' first
    | with_reducible assumption
    | with_reducible exact Keeps.refl
    | with_reducible refine h4 _ _ ?_
    | with_reducible apply Keeps.modCmd
    | with_reducible refine Keeps.ite' (fun _ => ?_) (fun _ => ?_)
    | with_reducible refine KeepsO.next ?_
    | with_reducible refine KeepsO.ite' (fun _ => ?_) (fun _ => ?_)
    | split

theorem Keeps.unitRefuse {b : Bool} {s0 s : State} {a1 a2 a3} (h : Keeps b s0 s) :
    Keeps b s0 (State.unitRefuse s a1 a2 a3) := by
  unfold Sys2Proof.Machine.State.unitRefuse
  repeat' first
    | with_reducible assumption
    | with_reducible exact Keeps.refl
    | with_reducible apply Keeps.refuse
    | with_reducible apply Keeps.faultFrom
    | with_reducible apply Keeps.evErr
    | with_reducible refine Keeps.ite' (fun _ => ?_) (fun _ => ?_)
    | split
    | (dsimp only; split)

theorem KeepsOpt.unitAccess {b : Bool} {s0 s : State} {a1 a2 a3} (h : Keeps b s0 s) :
    KeepsOpt b s0 (State.unitAccess s a1 a2 a3) := by
  unfold Sys2Proof.Machine.State.unitAccess
  repeat' first
    | with_reducible assumption
    | with_reducible exact Keeps.refl
    | with_reducible apply Keeps.dramUe
    | with_reducible apply Keeps.unitRefuse
    | with_reducible refine Keeps.ite' (fun _ => ?_) (fun _ => ?_)
    | with_reducible refine Keeps.ite_fst (fun _ => ?_) (fun _ => ?_)
    | with_reducible refine Keeps.ite_snd (fun _ => ?_) (fun _ => ?_)
    | with_reducible refine KeepsOpt.some' ?_
    | with_reducible exact KeepsOpt.none'
    | with_reducible refine KeepsOpt.ite' (fun _ => ?_) (fun _ => ?_)
    | with_reducible refine Keeps.foldl' _ ?_ (fun _ _ _ => ?_)
    | with_reducible refine Keeps.foldl_fst _ ?_ (fun _ _ _ => ?_)
    | with_reducible refine Keeps.foldl_snd _ ?_ (fun _ _ _ => ?_)
    | split
    | (dsimp only; split)

theorem KeepsOpt.tagAccess {b : Bool} {s0 s : State} {a1 a2} (h : Keeps b s0 s) :
    KeepsOpt b s0 (State.tagAccess s a1 a2) := by
  unfold Sys2Proof.Machine.State.tagAccess
  repeat' first
    | with_reducible assumption
    | with_reducible exact Keeps.refl
    | with_reducible apply Keeps.refuse
    | with_reducible apply Keeps.dramUe
    | with_reducible refine KeepsOpt.some' ?_
    | with_reducible exact KeepsOpt.none'
    | split

theorem Keeps.setNstat {b : Bool} {s0 s : State} {a1 a2} (h : Keeps b s0 s) :
    Keeps b s0 (State.setNstat s a1 a2) := by
  unfold Sys2Proof.Machine.State.setNstat
  repeat' first
    | with_reducible assumption
    | with_reducible exact Keeps.refl
    | with_reducible apply Keeps.modUnit
    | with_reducible refine Keeps.forN' _ ?_ (fun _ _ _ => ?_)
    | with_reducible refine Keeps.forN_fst _ ?_ (fun _ _ _ => ?_)
    | with_reducible refine Keeps.forN_snd _ ?_ (fun _ _ _ => ?_)

end Sys2Proof.Machine
end

