-- ==== Sys2Proof/Laws/Keeps/Flags.lean ====
section
/-! SUPPORT. What the operations of Machine/Flags.lean keep. -/
set_option Elab.async false

namespace Sys2Proof.Machine

theorem Keeps.fhAlert {b : Bool} {s0 s : State} {a1 a2} (h : Keeps b s0 s) :
    Keeps b s0 (State.fhAlert s a1 a2) := by
  unfold Sys2Proof.Machine.State.fhAlert
  repeat' first
    | with_reducible assumption
    | with_reducible exact Keeps.refl
    | with_reducible apply Keeps.setHealth
    | with_reducible apply Keeps.setPg
    | with_reducible apply Keeps.evSet
    | with_reducible refine Keeps.ite' (fun _ => ?_) (fun _ => ?_)

theorem Keeps.fhOne {b : Bool} {s0 s : State} {a1 a2 a3 a4 a5 a6} (h : Keeps b s0 s) :
    Keeps b s0 (State.fhOne s a1 a2 a3 a4 a5 a6) := by
  unfold Sys2Proof.Machine.State.fhOne
  repeat' first
    | with_reducible assumption
    | with_reducible exact Keeps.refl
    | with_reducible apply Keeps.setHealth
    | with_reducible apply Keeps.evSet
    | with_reducible refine Keeps.ite' (fun _ => ?_) (fun _ => ?_)

theorem Keeps.fhAdd {b : Bool} {s0 s : State} {a1 a2 a3 a4 a5} (h : Keeps b s0 s) :
    Keeps b s0 (State.fhAdd s a1 a2 a3 a4 a5) := by
  unfold Sys2Proof.Machine.State.fhAdd
  repeat' first
    | with_reducible assumption
    | with_reducible exact Keeps.refl
    | with_reducible apply Keeps.fhAlert
    | with_reducible apply Keeps.fhOne
    | with_reducible refine Keeps.ite' (fun _ => ?_) (fun _ => ?_)

theorem Keeps.fhClear {b : Bool} {s0 s : State} {a1 a2} (h : Keeps b s0 s) :
    Keeps b s0 (State.fhClear s a1 a2) := by
  unfold Sys2Proof.Machine.State.fhClear
  repeat' first
    | with_reducible assumption
    | with_reducible exact Keeps.refl
    | with_reducible apply Keeps.setHealth

end Sys2Proof.Machine
end

