-- ==== Sys2Proof/Laws/Keeps/Sequencer.lean ====
section
/-! SUPPORT. What the operations of Machine/Sequencer.lean keep. -/
set_option Elab.async false

namespace Sys2Proof.Machine

/-- An issue that goes on keeps what `Keeps` says. -/

def KeepsI (b : Bool) (s : State) (i : Issue) : Prop := ∀ t, i = .go t → Keeps b s t

namespace KeepsI

variable {b : Bool} {s t : State}

theorem go (h : Keeps b s t) : KeepsI b s (.go t) := fun _ e => by
  cases e
  exact h

theorem wait : KeepsI b s .wait := fun _ e => absurd e (by simp)

theorem exc {c d : Nat} : KeepsI b s (.exc c d) := fun _ e => absurd e (by simp)

theorem ite' {c : Prop} [Decidable c] {x y : Issue} (hx : c → KeepsI b s x) (hy : ¬c → KeepsI b s y) :
    KeepsI b s (if c then x else y) := by
  split
  · exact hx ‹_›
  · exact hy ‹_›

end KeepsI

theorem Keeps.excRecord {b : Bool} {s0 s : State} {a1} (h : Keeps b s0 s) :
    Keeps b s0 (State.excRecord s a1) := by
  unfold Sys2Proof.Machine.State.excRecord
  repeat' first
    | with_reducible assumption
    | with_reducible exact Keeps.refl
    | with_reducible apply Keeps.setUnit
    | with_reducible apply Keeps.faultFrom
    | with_reducible apply Keeps.evErr
    | with_reducible refine Keeps.ite' (fun _ => ?_) (fun _ => ?_)
    | split
    | (dsimp only; split)

theorem Keeps.seqExc {b : Bool} {s0 s : State} {a1 a2 a3} (h : Keeps b s0 s) :
    Keeps b s0 (State.seqExc s a1 a2 a3) := by
  unfold Sys2Proof.Machine.State.seqExc
  repeat' first
    | with_reducible assumption
    | with_reducible exact Keeps.refl
    | with_reducible apply Keeps.excRecord
    | with_reducible apply Keeps.setUnit

theorem Keeps.afterIssue {b : Bool} {s0 s : State} {a1} (h : Keeps b s0 s) :
    Keeps b s0 (State.afterIssue s a1) := by
  unfold Sys2Proof.Machine.State.afterIssue
  repeat' first
    | with_reducible assumption
    | with_reducible exact Keeps.refl
    | with_reducible apply Keeps.seqExc
    | with_reducible refine Keeps.ite' (fun _ => ?_) (fun _ => ?_)

theorem Keeps.issueWord {b : Bool} {s0 s : State} {a1 a2} (h : Keeps b s0 s) (h2 : ∀ x0 x1 x2, Keeps b s0 x2 → KeepsI b s0 (a2 x0 x1 x2)) :
    Keeps b s0 (State.issueWord s a1 a2) := by
  unfold Sys2Proof.Machine.State.issueWord
  repeat' first
    | with_reducible assumption
    | with_reducible apply Keeps.setUnit
    | with_reducible apply Keeps.seqExc
    | with_reducible apply Keeps.afterIssue
    | with_reducible refine Keeps.ite' (fun _ => ?_) (fun _ => ?_)
    | split
    | (dsimp only; split)
    | refine h2 _ _ _ ?_ _ (by assumption)

theorem KeepsO.issueRow {b : Bool} {s0 s : State} {a1 a2 a3} (h : Keeps b s0 s) (h3 : ∀ x0 x1 x2, Keeps b s0 x2 → KeepsI b s0 (a3 x0 x1 x2)) :
    KeepsO b s0 (State.issueRow s a1 a2 a3) := by
  unfold Sys2Proof.Machine.State.issueRow
  repeat' first
    | with_reducible assumption
    | with_reducible exact Keeps.refl
    | with_reducible refine h3 _ _ _ ?_
    | with_reducible apply Keeps.issueWord
    | with_reducible refine Keeps.ite' (fun _ => ?_) (fun _ => ?_)
    | with_reducible refine KeepsO.next ?_
    | with_reducible refine KeepsO.ite' (fun _ => ?_) (fun _ => ?_)

theorem KeepsI.onSeq {b : Bool} {s0 s : State} {a0 a1 a2} (h : Keeps b s0 s) :
    KeepsI b s0 (onSeq a0 a1 a2 s) := by
  unfold Sys2Proof.Machine.onSeq
  repeat' first
    | with_reducible assumption
    | with_reducible exact Keeps.refl
    | with_reducible apply Keeps.setUnit
    | with_reducible refine KeepsI.go ?_
    | with_reducible exact KeepsI.wait
    | with_reducible exact KeepsI.exc
    | split
    | (dsimp only; split)

theorem KeepsI.ldwFx {b : Bool} {s0 s : State} {a0 a1} (h : Keeps b s0 s) :
    KeepsI b s0 (ldwFx a0 a1 s) := by
  unfold Sys2Proof.Machine.ldwFx
  repeat' first
    | with_reducible assumption
    | with_reducible exact Keeps.refl
    | with_reducible apply Keeps.setUnit
    | with_reducible refine KeepsI.go ?_
    | with_reducible exact KeepsI.wait
    | with_reducible exact KeepsI.exc
    | split
    | (dsimp only; split)

theorem KeepsI.stwFx {b : Bool} {s0 s : State} {a0 a1} (h : Keeps b s0 s) :
    KeepsI b s0 (stwFx a0 a1 s) := by
  unfold Sys2Proof.Machine.stwFx
  repeat' first
    | with_reducible assumption
    | with_reducible exact Keeps.refl
    | with_reducible apply Keeps.setUnit
    | with_reducible refine KeepsI.go ?_
    | with_reducible exact KeepsI.wait
    | with_reducible exact KeepsI.exc
    | split
    | (dsimp only; split)

theorem Keeps.signal {b : Bool} {s0 s : State} {a1 a2} (h : Keeps b s0 s) :
    Keeps b s0 (State.signal s a1 a2) := by
  unfold Sys2Proof.Machine.State.signal
  repeat' first
    | with_reducible assumption
    | with_reducible exact Keeps.refl
    | with_reducible apply Keeps.setUnit
    | with_reducible apply Keeps.evErr
    | with_reducible apply Keeps.faultFrom
    | with_reducible refine Keeps.ite' (fun _ => ?_) (fun _ => ?_)

theorem KeepsI.waitFx {b : Bool} {s0 s : State} {a0 a1} (h : Keeps b s0 s) :
    KeepsI b s0 (waitFx a0 a1 s) := by
  unfold Sys2Proof.Machine.waitFx
  repeat' first
    | with_reducible assumption
    | with_reducible exact Keeps.refl
    | with_reducible apply Keeps.setUnit
    | with_reducible refine Keeps.ite' (fun _ => ?_) (fun _ => ?_)
    | with_reducible refine KeepsI.go ?_
    | with_reducible exact KeepsI.wait
    | with_reducible exact KeepsI.exc
    | with_reducible refine KeepsI.ite' (fun _ => ?_) (fun _ => ?_)

theorem KeepsI.sigFx {b : Bool} {s0 s : State} {a0 a1} (h : Keeps b s0 s) :
    KeepsI b s0 (sigFx a0 a1 s) := by
  unfold Sys2Proof.Machine.sigFx
  repeat' first
    | with_reducible assumption
    | with_reducible exact Keeps.refl
    | with_reducible apply Keeps.signal
    | with_reducible refine Keeps.ite' (fun _ => ?_) (fun _ => ?_)
    | with_reducible refine KeepsI.go ?_
    | with_reducible exact KeepsI.wait
    | with_reducible exact KeepsI.exc
    | with_reducible refine KeepsI.ite' (fun _ => ?_) (fun _ => ?_)

theorem KeepsI.pollFx {b : Bool} {s0 s : State} {a0 a1} (h : Keeps b s0 s) :
    KeepsI b s0 (pollFx a0 a1 s) := by
  unfold Sys2Proof.Machine.pollFx
  repeat' first
    | with_reducible assumption
    | with_reducible exact Keeps.refl
    | with_reducible apply Keeps.setUnit
    | with_reducible refine Keeps.ite' (fun _ => ?_) (fun _ => ?_)
    | with_reducible refine KeepsI.go ?_
    | with_reducible exact KeepsI.wait
    | with_reducible exact KeepsI.exc
    | with_reducible refine KeepsI.ite' (fun _ => ?_) (fun _ => ?_)

theorem KeepsI.sysNopFx {b : Bool} {s0 s : State} {a0 a1} (h : Keeps b s0 s) :
    KeepsI b s0 (sysNopFx a0 a1 s) := by
  unfold Sys2Proof.Machine.sysNopFx
  repeat' first
    | with_reducible assumption
    | with_reducible exact Keeps.refl
    | with_reducible refine Keeps.ite' (fun _ => ?_) (fun _ => ?_)
    | with_reducible refine KeepsI.go ?_
    | with_reducible exact KeepsI.wait
    | with_reducible exact KeepsI.exc
    | with_reducible refine KeepsI.ite' (fun _ => ?_) (fun _ => ?_)

theorem KeepsI.trapFx {b : Bool} {s0 s : State} {a0 a1} (h : Keeps b s0 s) :
    KeepsI b s0 (trapFx a0 a1 s) := by
  unfold Sys2Proof.Machine.trapFx
  repeat' first
    | with_reducible assumption
    | with_reducible exact Keeps.refl
    | with_reducible refine Keeps.ite' (fun _ => ?_) (fun _ => ?_)
    | with_reducible refine KeepsI.go ?_
    | with_reducible exact KeepsI.wait
    | with_reducible exact KeepsI.exc
    | with_reducible refine KeepsI.ite' (fun _ => ?_) (fun _ => ?_)

theorem KeepsI.brkFx {b : Bool} {s0 s : State} {a0 a1} (h : Keeps b s0 s) :
    KeepsI b s0 (brkFx a0 a1 s) := by
  unfold Sys2Proof.Machine.brkFx
  repeat' first
    | with_reducible assumption
    | with_reducible exact Keeps.refl
    | with_reducible apply Keeps.modUnit
    | with_reducible refine Keeps.ite' (fun _ => ?_) (fun _ => ?_)
    | with_reducible refine KeepsI.go ?_
    | with_reducible exact KeepsI.wait
    | with_reducible exact KeepsI.exc
    | with_reducible refine KeepsI.ite' (fun _ => ?_) (fun _ => ?_)

theorem KeepsI.rdsrFx {b : Bool} {s0 s : State} {a0 a1} (h : Keeps b s0 s) :
    KeepsI b s0 (rdsrFx a0 a1 s) := by
  unfold Sys2Proof.Machine.rdsrFx
  repeat' first
    | with_reducible assumption
    | with_reducible exact Keeps.refl
    | with_reducible apply Keeps.setUnit
    | with_reducible refine Keeps.ite' (fun _ => ?_) (fun _ => ?_)
    | with_reducible refine KeepsI.go ?_
    | with_reducible exact KeepsI.wait
    | with_reducible exact KeepsI.exc
    | with_reducible refine KeepsI.ite' (fun _ => ?_) (fun _ => ?_)
    | split

theorem KeepsI.waiteFx {b : Bool} {s0 s : State} {a0 a1} (h : Keeps b s0 s) :
    KeepsI b s0 (waiteFx a0 a1 s) := by
  unfold Sys2Proof.Machine.waiteFx
  repeat' first
    | with_reducible assumption
    | with_reducible exact Keeps.refl
    | with_reducible refine Keeps.ite' (fun _ => ?_) (fun _ => ?_)
    | with_reducible refine KeepsI.go ?_
    | with_reducible exact KeepsI.wait
    | with_reducible exact KeepsI.exc
    | with_reducible refine KeepsI.ite' (fun _ => ?_) (fun _ => ?_)

theorem KeepsI.haltFx {b : Bool} {s0 s : State} {a0 a1} (h : Keeps b s0 s) :
    KeepsI b s0 (haltFx a0 a1 s) := by
  unfold Sys2Proof.Machine.haltFx
  repeat' first
    | with_reducible assumption
    | with_reducible exact Keeps.refl
    | with_reducible apply Keeps.setUnit
    | with_reducible apply Keeps.modCmd
    | with_reducible refine Keeps.ite' (fun _ => ?_) (fun _ => ?_)
    | with_reducible refine KeepsI.go ?_
    | with_reducible exact KeepsI.wait
    | with_reducible exact KeepsI.exc
    | with_reducible refine KeepsI.ite' (fun _ => ?_) (fun _ => ?_)

theorem KeepsI.barFx {b : Bool} {s0 s : State} {a0 a1} (h : Keeps b s0 s) :
    KeepsI b s0 (barFx a0 a1 s) := by
  unfold Sys2Proof.Machine.barFx
  repeat' first
    | with_reducible assumption
    | with_reducible exact Keeps.refl
    | with_reducible apply Keeps.setUnit
    | with_reducible refine Keeps.ite' (fun _ => ?_) (fun _ => ?_)
    | with_reducible refine KeepsI.go ?_
    | with_reducible exact KeepsI.wait
    | with_reducible exact KeepsI.exc
    | with_reducible refine KeepsI.ite' (fun _ => ?_) (fun _ => ?_)

theorem KeepsO.execBarrierRelease {b : Bool} {s0 s : State} {a0} (h : Keeps b s0 s) :
    KeepsO b s0 (execBarrierRelease a0 s) := by
  unfold Sys2Proof.Machine.execBarrierRelease
  repeat' first
    | with_reducible assumption
    | with_reducible exact Keeps.refl
    | with_reducible apply Keeps.afterIssue
    | with_reducible apply Keeps.setUnit
    | with_reducible refine Keeps.ite' (fun _ => ?_) (fun _ => ?_)
    | with_reducible refine KeepsO.next ?_
    | with_reducible refine KeepsO.ite' (fun _ => ?_) (fun _ => ?_)
    | with_reducible refine Keeps.foldl' _ ?_ (fun _ _ _ => ?_)

theorem KeepsO.execBudget {b : Bool} {s0 s : State} {a0 a1} (h : Keeps b s0 s) :
    KeepsO b s0 (execBudget a0 a1 s) := by
  unfold Sys2Proof.Machine.execBudget
  repeat' first
    | with_reducible assumption
    | with_reducible exact Keeps.refl
    | with_reducible apply Keeps.setUnit
    | with_reducible apply Keeps.seqExc
    | with_reducible refine Keeps.ite' (fun _ => ?_) (fun _ => ?_)
    | with_reducible refine KeepsO.next ?_
    | with_reducible refine KeepsO.ite' (fun _ => ?_) (fun _ => ?_)

theorem KeepsO.execSequencerHalt {b : Bool} {s0 s : State} {a0} (h : Keeps b s0 s) :
    KeepsO b s0 (execSequencerHalt a0 s) := by
  unfold Sys2Proof.Machine.execSequencerHalt
  repeat' first
    | with_reducible assumption
    | with_reducible exact Keeps.refl
    | with_reducible apply Keeps.setUnit
    | with_reducible refine Keeps.ite' (fun _ => ?_) (fun _ => ?_)
    | with_reducible refine KeepsO.next ?_
    | with_reducible refine KeepsO.ite' (fun _ => ?_) (fun _ => ?_)

theorem KeepsO.execAlu {b : Bool} {s0 s : State} {a0} (h : Keeps b s0 s) :
    KeepsO b s0 (execAlu a0 s) := by
  unfold Sys2Proof.Machine.execAlu
  repeat' first
    | with_reducible assumption
    | with_reducible exact Keeps.refl
    | with_reducible apply KeepsO.issueRow
    | with_reducible apply KeepsI.onSeq
    | with_reducible refine KeepsO.next ?_
    | (intro _)

theorem KeepsO.execFpu {b : Bool} {s0 s : State} {a0} (h : Keeps b s0 s) :
    KeepsO b s0 (execFpu a0 s) := by
  unfold Sys2Proof.Machine.execFpu
  repeat' first
    | with_reducible assumption
    | with_reducible exact Keeps.refl
    | with_reducible apply KeepsO.issueRow
    | with_reducible apply KeepsI.onSeq
    | with_reducible refine KeepsO.next ?_
    | (intro _)

theorem KeepsO.execCmp {b : Bool} {s0 s : State} {a0} (h : Keeps b s0 s) :
    KeepsO b s0 (execCmp a0 s) := by
  unfold Sys2Proof.Machine.execCmp
  repeat' first
    | with_reducible assumption
    | with_reducible exact Keeps.refl
    | with_reducible apply KeepsO.issueRow
    | with_reducible apply KeepsI.onSeq
    | with_reducible refine KeepsO.next ?_
    | (intro _)

theorem KeepsO.execPlog {b : Bool} {s0 s : State} {a0} (h : Keeps b s0 s) :
    KeepsO b s0 (execPlog a0 s) := by
  unfold Sys2Proof.Machine.execPlog
  repeat' first
    | with_reducible assumption
    | with_reducible exact Keeps.refl
    | with_reducible apply KeepsO.issueRow
    | with_reducible apply KeepsI.onSeq
    | with_reducible refine KeepsO.next ?_
    | (intro _)

theorem KeepsO.execSel {b : Bool} {s0 s : State} {a0} (h : Keeps b s0 s) :
    KeepsO b s0 (execSel a0 s) := by
  unfold Sys2Proof.Machine.execSel
  repeat' first
    | with_reducible assumption
    | with_reducible exact Keeps.refl
    | with_reducible apply KeepsO.issueRow
    | with_reducible apply KeepsI.onSeq
    | with_reducible refine KeepsO.next ?_
    | (intro _)

theorem KeepsO.execAddi {b : Bool} {s0 s : State} {a0} (h : Keeps b s0 s) :
    KeepsO b s0 (execAddi a0 s) := by
  unfold Sys2Proof.Machine.execAddi
  repeat' first
    | with_reducible assumption
    | with_reducible exact Keeps.refl
    | with_reducible apply KeepsO.issueRow
    | with_reducible apply KeepsI.onSeq
    | with_reducible refine KeepsO.next ?_
    | (intro _)

theorem KeepsO.execAndi {b : Bool} {s0 s : State} {a0} (h : Keeps b s0 s) :
    KeepsO b s0 (execAndi a0 s) := by
  unfold Sys2Proof.Machine.execAndi
  repeat' first
    | with_reducible assumption
    | with_reducible exact Keeps.refl
    | with_reducible apply KeepsO.issueRow
    | with_reducible apply KeepsI.onSeq
    | with_reducible refine KeepsO.next ?_
    | (intro _)

theorem KeepsO.execOri {b : Bool} {s0 s : State} {a0} (h : Keeps b s0 s) :
    KeepsO b s0 (execOri a0 s) := by
  unfold Sys2Proof.Machine.execOri
  repeat' first
    | with_reducible assumption
    | with_reducible exact Keeps.refl
    | with_reducible apply KeepsO.issueRow
    | with_reducible apply KeepsI.onSeq
    | with_reducible refine KeepsO.next ?_
    | (intro _)

theorem KeepsO.execXori {b : Bool} {s0 s : State} {a0} (h : Keeps b s0 s) :
    KeepsO b s0 (execXori a0 s) := by
  unfold Sys2Proof.Machine.execXori
  repeat' first
    | with_reducible assumption
    | with_reducible exact Keeps.refl
    | with_reducible apply KeepsO.issueRow
    | with_reducible apply KeepsI.onSeq
    | with_reducible refine KeepsO.next ?_
    | (intro _)

theorem KeepsO.execShi {b : Bool} {s0 s : State} {a0} (h : Keeps b s0 s) :
    KeepsO b s0 (execShi a0 s) := by
  unfold Sys2Proof.Machine.execShi
  repeat' first
    | with_reducible assumption
    | with_reducible exact Keeps.refl
    | with_reducible apply KeepsO.issueRow
    | with_reducible apply KeepsI.onSeq
    | with_reducible refine KeepsO.next ?_
    | (intro _)

theorem KeepsO.execLui {b : Bool} {s0 s : State} {a0} (h : Keeps b s0 s) :
    KeepsO b s0 (execLui a0 s) := by
  unfold Sys2Proof.Machine.execLui
  repeat' first
    | with_reducible assumption
    | with_reducible exact Keeps.refl
    | with_reducible apply KeepsO.issueRow
    | with_reducible apply KeepsI.onSeq
    | with_reducible refine KeepsO.next ?_
    | (intro _)

theorem KeepsO.execCmpi {b : Bool} {s0 s : State} {a0} (h : Keeps b s0 s) :
    KeepsO b s0 (execCmpi a0 s) := by
  unfold Sys2Proof.Machine.execCmpi
  repeat' first
    | with_reducible assumption
    | with_reducible exact Keeps.refl
    | with_reducible apply KeepsO.issueRow
    | with_reducible apply KeepsI.onSeq
    | with_reducible refine KeepsO.next ?_
    | (intro _)

theorem KeepsO.execLdw {b : Bool} {s0 s : State} {a0} (h : Keeps b s0 s) :
    KeepsO b s0 (execLdw a0 s) := by
  unfold Sys2Proof.Machine.execLdw
  repeat' first
    | with_reducible assumption
    | with_reducible exact Keeps.refl
    | with_reducible apply KeepsO.issueRow
    | with_reducible apply KeepsI.ldwFx
    | with_reducible refine KeepsO.next ?_
    | (intro _)

theorem KeepsO.execStw {b : Bool} {s0 s : State} {a0} (h : Keeps b s0 s) :
    KeepsO b s0 (execStw a0 s) := by
  unfold Sys2Proof.Machine.execStw
  repeat' first
    | with_reducible assumption
    | with_reducible exact Keeps.refl
    | with_reducible apply KeepsO.issueRow
    | with_reducible apply KeepsI.stwFx
    | with_reducible refine KeepsO.next ?_
    | (intro _)

theorem KeepsO.execBr {b : Bool} {s0 s : State} {a0} (h : Keeps b s0 s) :
    KeepsO b s0 (execBr a0 s) := by
  unfold Sys2Proof.Machine.execBr
  repeat' first
    | with_reducible assumption
    | with_reducible exact Keeps.refl
    | with_reducible apply KeepsO.issueRow
    | with_reducible apply KeepsI.onSeq
    | with_reducible refine KeepsO.next ?_
    | (intro _)

theorem KeepsO.execBrp {b : Bool} {s0 s : State} {a0} (h : Keeps b s0 s) :
    KeepsO b s0 (execBrp a0 s) := by
  unfold Sys2Proof.Machine.execBrp
  repeat' first
    | with_reducible assumption
    | with_reducible exact Keeps.refl
    | with_reducible apply KeepsO.issueRow
    | with_reducible apply KeepsI.onSeq
    | with_reducible refine KeepsO.next ?_
    | (intro _)

theorem KeepsO.execJal {b : Bool} {s0 s : State} {a0} (h : Keeps b s0 s) :
    KeepsO b s0 (execJal a0 s) := by
  unfold Sys2Proof.Machine.execJal
  repeat' first
    | with_reducible assumption
    | with_reducible exact Keeps.refl
    | with_reducible apply KeepsO.issueRow
    | with_reducible apply KeepsI.onSeq
    | with_reducible refine KeepsO.next ?_
    | (intro _)

theorem KeepsO.execJr {b : Bool} {s0 s : State} {a0} (h : Keeps b s0 s) :
    KeepsO b s0 (execJr a0 s) := by
  unfold Sys2Proof.Machine.execJr
  repeat' first
    | with_reducible assumption
    | with_reducible exact Keeps.refl
    | with_reducible apply KeepsO.issueRow
    | with_reducible apply KeepsI.onSeq
    | with_reducible refine KeepsO.next ?_
    | (intro _)

theorem KeepsO.execDbnz {b : Bool} {s0 s : State} {a0} (h : Keeps b s0 s) :
    KeepsO b s0 (execDbnz a0 s) := by
  unfold Sys2Proof.Machine.execDbnz
  repeat' first
    | with_reducible assumption
    | with_reducible exact Keeps.refl
    | with_reducible apply KeepsO.issueRow
    | with_reducible apply KeepsI.onSeq
    | with_reducible refine KeepsO.next ?_
    | (intro _)

theorem KeepsO.execWait {b : Bool} {s0 s : State} {a0} (h : Keeps b s0 s) :
    KeepsO b s0 (execWait a0 s) := by
  unfold Sys2Proof.Machine.execWait
  repeat' first
    | with_reducible assumption
    | with_reducible exact Keeps.refl
    | with_reducible apply KeepsO.issueRow
    | with_reducible apply KeepsI.waitFx
    | with_reducible refine KeepsO.next ?_
    | (intro _)

theorem KeepsO.execSig {b : Bool} {s0 s : State} {a0} (h : Keeps b s0 s) :
    KeepsO b s0 (execSig a0 s) := by
  unfold Sys2Proof.Machine.execSig
  repeat' first
    | with_reducible assumption
    | with_reducible exact Keeps.refl
    | with_reducible apply KeepsO.issueRow
    | with_reducible apply KeepsI.sigFx
    | with_reducible refine KeepsO.next ?_
    | (intro _)

theorem KeepsO.execPoll {b : Bool} {s0 s : State} {a0} (h : Keeps b s0 s) :
    KeepsO b s0 (execPoll a0 s) := by
  unfold Sys2Proof.Machine.execPoll
  repeat' first
    | with_reducible assumption
    | with_reducible exact Keeps.refl
    | with_reducible apply KeepsO.issueRow
    | with_reducible apply KeepsI.pollFx
    | with_reducible refine KeepsO.next ?_
    | (intro _)

theorem KeepsO.execBar {b : Bool} {s0 s : State} {a0} (h : Keeps b s0 s) :
    KeepsO b s0 (execBar a0 s) := by
  unfold Sys2Proof.Machine.execBar
  repeat' first
    | with_reducible assumption
    | with_reducible exact Keeps.refl
    | with_reducible apply KeepsO.issueRow
    | with_reducible apply KeepsI.barFx
    | with_reducible refine KeepsO.next ?_
    | (intro _)

theorem KeepsO.execSysNop {b : Bool} {s0 s : State} {a0} (h : Keeps b s0 s) :
    KeepsO b s0 (execSysNop a0 s) := by
  unfold Sys2Proof.Machine.execSysNop
  repeat' first
    | with_reducible assumption
    | with_reducible exact Keeps.refl
    | with_reducible apply KeepsO.issueRow
    | with_reducible apply KeepsI.sysNopFx
    | with_reducible refine KeepsO.next ?_
    | (intro _)

theorem KeepsO.execHalt {b : Bool} {s0 s : State} {a0} (h : Keeps b s0 s) :
    KeepsO b s0 (execHalt a0 s) := by
  unfold Sys2Proof.Machine.execHalt
  repeat' first
    | with_reducible assumption
    | with_reducible exact Keeps.refl
    | with_reducible apply KeepsO.issueRow
    | with_reducible apply KeepsI.haltFx
    | with_reducible refine KeepsO.next ?_
    | (intro _)

theorem KeepsO.execTrap {b : Bool} {s0 s : State} {a0} (h : Keeps b s0 s) :
    KeepsO b s0 (execTrap a0 s) := by
  unfold Sys2Proof.Machine.execTrap
  repeat' first
    | with_reducible assumption
    | with_reducible exact Keeps.refl
    | with_reducible apply KeepsO.issueRow
    | with_reducible apply KeepsI.trapFx
    | with_reducible refine KeepsO.next ?_
    | (intro _)

theorem KeepsO.execBrk {b : Bool} {s0 s : State} {a0} (h : Keeps b s0 s) :
    KeepsO b s0 (execBrk a0 s) := by
  unfold Sys2Proof.Machine.execBrk
  repeat' first
    | with_reducible assumption
    | with_reducible exact Keeps.refl
    | with_reducible apply KeepsO.issueRow
    | with_reducible apply KeepsI.brkFx
    | with_reducible refine KeepsO.next ?_
    | (intro _)

theorem KeepsO.execRdsr {b : Bool} {s0 s : State} {a0} (h : Keeps b s0 s) :
    KeepsO b s0 (execRdsr a0 s) := by
  unfold Sys2Proof.Machine.execRdsr
  repeat' first
    | with_reducible assumption
    | with_reducible exact Keeps.refl
    | with_reducible apply KeepsO.issueRow
    | with_reducible apply KeepsI.rdsrFx
    | with_reducible refine KeepsO.next ?_
    | (intro _)

theorem KeepsO.execWaite {b : Bool} {s0 s : State} {a0} (h : Keeps b s0 s) :
    KeepsO b s0 (execWaite a0 s) := by
  unfold Sys2Proof.Machine.execWaite
  repeat' first
    | with_reducible assumption
    | with_reducible exact Keeps.refl
    | with_reducible apply KeepsO.issueRow
    | with_reducible apply KeepsI.waiteFx
    | with_reducible refine KeepsO.next ?_
    | (intro _)

end Sys2Proof.Machine
end

