-- ==== Sys2Proof/Laws/Keeps/Arrays.lean ====
section
/-! SUPPORT. What the operations of Machine/Arrays.lean keep. -/
set_option Elab.async false

namespace Sys2Proof.Machine

theorem Keeps.kernelRefuse {b : Bool} {s0 s : State} {a1} (h : Keeps b s0 s) :
    Keeps b s0 (State.kernelRefuse s a1) := by
  unfold Sys2Proof.Machine.State.kernelRefuse
  repeat' first
    | with_reducible assumption
    | with_reducible exact Keeps.refl
    | with_reducible apply Keeps.modUnit
    | with_reducible apply Keeps.modCmd
    | with_reducible refine Keeps.foldl' _ ?_ (fun _ _ _ => ?_)
    | with_reducible refine Keeps.foldl_fst _ ?_ (fun _ _ _ => ?_)
    | with_reducible refine Keeps.foldl_snd _ ?_ (fun _ _ _ => ?_)

theorem KeepsI.arrFx {b : Bool} {s0 s : State} {a0 a1} (h : Keeps b s0 s) :
    KeepsI b s0 (arrFx a0 a1 s) := by
  unfold Sys2Proof.Machine.arrFx
  repeat' first
    | with_reducible assumption
    | with_reducible exact Keeps.refl
    | with_reducible apply Keeps.setUnit
    | with_reducible refine Keeps.ite' (fun _ => ?_) (fun _ => ?_)
    | with_reducible refine KeepsI.go ?_
    | with_reducible exact KeepsI.wait
    | with_reducible exact KeepsI.exc
    | with_reducible refine KeepsI.ite' (fun _ => ?_) (fun _ => ?_)
    | with_reducible refine Keeps.getD' ?_ ?_
    | with_reducible refine Keeps.foldl' _ ?_ (fun _ _ _ => ?_)
    | with_reducible refine Keeps.foldl_fst _ ?_ (fun _ _ _ => ?_)
    | with_reducible refine Keeps.foldl_snd _ ?_ (fun _ _ _ => ?_)
    | split

theorem KeepsO.execArrOperandsRead {b : Bool} {s0 s : State} {a0 a1} (h : Keeps b s0 s) :
    KeepsO b s0 (execArrOperandsRead a0 a1 s) := by
  unfold Sys2Proof.Machine.execArrOperandsRead
  repeat' first
    | with_reducible assumption
    | with_reducible exact Keeps.refl
    | with_reducible apply Keeps.setUnit
    | with_reducible apply Keeps.signal
    | with_reducible refine Keeps.ite' (fun _ => ?_) (fun _ => ?_)
    | with_reducible refine KeepsO.next ?_
    | with_reducible refine KeepsO.ite' (fun _ => ?_) (fun _ => ?_)
    | split
    | (dsimp only; split)

theorem KeepsO.execArrPassComplete {b : Bool} {s0 s : State} {a0 a1} (h : Keeps b s0 s) :
    KeepsO b s0 (execArrPassComplete a0 a1 s) := by
  unfold Sys2Proof.Machine.execArrPassComplete
  repeat' first
    | with_reducible assumption
    | with_reducible exact Keeps.refl
    | with_reducible apply Keeps.excRecord
    | with_reducible apply Keeps.setUnit
    | with_reducible refine Keeps.ite' (fun _ => ?_) (fun _ => ?_)
    | with_reducible refine KeepsO.next ?_
    | with_reducible refine KeepsO.ite' (fun _ => ?_) (fun _ => ?_)
    | with_reducible refine Keeps.ite_fst (fun _ => ?_) (fun _ => ?_)
    | with_reducible refine Keeps.ite_snd (fun _ => ?_) (fun _ => ?_)
    | with_reducible refine Keeps.getD' ?_ ?_
    | with_reducible refine Keeps.foldl' _ ?_ (fun _ _ _ => ?_)
    | with_reducible refine Keeps.foldl_fst _ ?_ (fun _ _ _ => ?_)
    | with_reducible refine Keeps.foldl_snd _ ?_ (fun _ _ _ => ?_)
    | with_reducible refine Keeps.forN' _ ?_ (fun _ _ _ => ?_)
    | with_reducible refine Keeps.forN_fst _ ?_ (fun _ _ _ => ?_)
    | with_reducible refine Keeps.forN_snd _ ?_ (fun _ _ _ => ?_)
    | split
    | (dsimp only; split)

theorem KeepsO.execArr {b : Bool} {s0 s : State} {a0} (h : Keeps b s0 s) :
    KeepsO b s0 (execArr a0 s) := by
  unfold Sys2Proof.Machine.execArr
  repeat' first
    | with_reducible assumption
    | with_reducible exact Keeps.refl
    | with_reducible apply KeepsO.issueRow
    | with_reducible apply KeepsI.arrFx
    | with_reducible refine KeepsO.next ?_
    | (intro _)

theorem KeepsI.drnFx {b : Bool} {s0 s : State} {a0 a1} (h : Keeps b s0 s) :
    KeepsI b s0 (drnFx a0 a1 s) := by
  unfold Sys2Proof.Machine.drnFx
  repeat' first
    | with_reducible assumption
    | with_reducible exact Keeps.refl
    | with_reducible apply Keeps.kernelRefuse
    | with_reducible apply Keeps.setUnit
    | with_reducible refine Keeps.ite' (fun _ => ?_) (fun _ => ?_)
    | with_reducible refine KeepsI.go ?_
    | with_reducible exact KeepsI.wait
    | with_reducible exact KeepsI.exc
    | with_reducible refine KeepsI.ite' (fun _ => ?_) (fun _ => ?_)
    | split
    | (dsimp only; split)

theorem KeepsO.execDrn {b : Bool} {s0 s : State} {a0} (h : Keeps b s0 s) :
    KeepsO b s0 (execDrn a0 s) := by
  unfold Sys2Proof.Machine.execDrn
  repeat' first
    | with_reducible assumption
    | with_reducible exact Keeps.refl
    | with_reducible apply KeepsO.issueRow
    | with_reducible apply KeepsI.drnFx
    | with_reducible refine KeepsO.next ?_
    | (intro _)

theorem KeepsO.execDrnRowsWritten {b : Bool} {s0 s : State} {a0 a1} (h : Keeps b s0 s) :
    KeepsO b s0 (execDrnRowsWritten a0 a1 s) := by
  unfold Sys2Proof.Machine.execDrnRowsWritten
  repeat' first
    | with_reducible assumption
    | with_reducible exact Keeps.refl
    | with_reducible apply Keeps.setUnit
    | with_reducible apply Keeps.fhAdd
    | with_reducible apply Keeps.excRecord
    | with_reducible apply Keeps.signal
    | with_reducible refine Keeps.ite' (fun _ => ?_) (fun _ => ?_)
    | with_reducible refine KeepsO.next ?_
    | with_reducible refine KeepsO.ite' (fun _ => ?_) (fun _ => ?_)
    | with_reducible refine Keeps.ite_fst (fun _ => ?_) (fun _ => ?_)
    | with_reducible refine Keeps.ite_snd (fun _ => ?_) (fun _ => ?_)
    | with_reducible refine Keeps.foldl' _ ?_ (fun _ _ _ => ?_)
    | with_reducible refine Keeps.foldl_fst _ ?_ (fun _ _ _ => ?_)
    | with_reducible refine Keeps.foldl_snd _ ?_ (fun _ _ _ => ?_)
    | split
    | (dsimp only; split)

end Sys2Proof.Machine
end

