-- ==== Sys2Proof/Laws/Keeps/Operands.lean ====
section
/-! SUPPORT. What the operations of Machine/Operands.lean keep. -/
set_option Elab.async false

namespace Sys2Proof.Machine

theorem Keeps.wrArray {b : Bool} {s0 s : State} {a1 a2 a3 a4 a5 a6} (h : Keeps b s0 s) :
    Keeps b s0 (State.wrArray s a1 a2 a3 a4 a5 a6) := by
  unfold Sys2Proof.Machine.State.wrArray
  repeat' first
    | with_reducible assumption
    | with_reducible exact Keeps.refl
    | with_reducible apply Keeps.wr
    | with_reducible apply Keeps.fhAdd
    | with_reducible refine Keeps.ite' (fun _ => ?_) (fun _ => ?_)
    | with_reducible refine Keeps.ite_fst (fun _ => ?_) (fun _ => ?_)
    | with_reducible refine Keeps.ite_snd (fun _ => ?_) (fun _ => ?_)
    | with_reducible refine Keeps.forN' _ ?_ (fun _ _ _ => ?_)
    | with_reducible refine Keeps.forN_fst _ ?_ (fun _ _ _ => ?_)
    | with_reducible refine Keeps.forN_snd _ ?_ (fun _ _ _ => ?_)

theorem Keeps.wrW {b : Bool} {s0 s : State} {a1 a2 a3} (h : Keeps b s0 s) :
    Keeps b s0 (State.wrW s a1 a2 a3) := by
  unfold Sys2Proof.Machine.State.wrW
  repeat' first
    | with_reducible assumption
    | with_reducible exact Keeps.refl
    | with_reducible apply Keeps.wr

end Sys2Proof.Machine
end

