-- ==== Sys2Proof/Laws/Keeps/Engines.lean ====
section
/-! SUPPORT. What the operations of Machine/Engines.lean keep. -/
set_option Elab.async false

namespace Sys2Proof.Machine

theorem Keeps.setTaskPos {b : Bool} {s0 s : State} {a1 a2 a3} (h : Keeps b s0 s) :
    Keeps b s0 (State.setTaskPos s a1 a2 a3) := by
  unfold Sys2Proof.Machine.State.setTaskPos
  repeat' first
    | with_reducible assumption
    | with_reducible exact Keeps.refl
    | with_reducible apply Keeps.setPg

theorem Keeps.gemmPos {b : Bool} {s0 s : State} {a1 a2 a3 a4 a5 a6} (h : Keeps b s0 s) :
    Keeps b s0 (State.gemmPos s a1 a2 a3 a4 a5 a6) := by
  unfold Sys2Proof.Machine.State.gemmPos
  repeat' first
    | with_reducible assumption
    | with_reducible exact Keeps.refl
    | with_reducible apply Keeps.setTaskPos
    | (with_reducible refine Keeps.ite' (fun _ => ?_) (fun _ => ?_))
    | with_reducible refine Keeps.forN' _ ?_ (fun _ _ _ => ?_)

theorem Keeps.attnPos {b : Bool} {s0 s : State} {a1 a2 a3 a4 a5 a6} (h : Keeps b s0 s) :
    Keeps b s0 (State.attnPos s a1 a2 a3 a4 a5 a6) := by
  unfold Sys2Proof.Machine.State.attnPos
  repeat' first
    | with_reducible assumption
    | with_reducible exact Keeps.refl
    | with_reducible apply Keeps.setTaskPos
    | (with_reducible refine Keeps.ite' (fun _ => ?_) (fun _ => ?_))
    | with_reducible refine Keeps.forN' _ ?_ (fun _ _ _ => ?_)

theorem Keeps.mgGemmFx {b : Bool} {s0 s : State} {a0 a1} (h : Keeps b s0 s) :
    Keeps b s0 (mgGemmFx a0 a1 s).1 := by
  unfold Sys2Proof.Machine.mgGemmFx
  repeat' first
    | with_reducible assumption
    | with_reducible exact Keeps.refl
    | with_reducible apply KeepsOpt.unitAccess
    | with_reducible apply Keeps.wrArray
    | with_reducible apply Keeps.gemmPos
    | with_reducible apply Keeps.setNstat
    | with_reducible refine Keeps.ite' (fun _ => ?_) (fun _ => ?_)
    | with_reducible refine Keeps.ite_fst (fun _ => ?_) (fun _ => ?_)
    | with_reducible refine Keeps.ite_snd (fun _ => ?_) (fun _ => ?_)
    | split
    | refine KeepsOpt.unitAccess ?_ _ (by assumption)

theorem Keeps.mgFwdFx {b : Bool} {s0 s : State} {a0 a1} (h : Keeps b s0 s) :
    Keeps b s0 (mgFwdFx a0 a1 s).1 := by
  unfold Sys2Proof.Machine.mgFwdFx
  repeat' first
    | with_reducible assumption
    | with_reducible exact Keeps.refl
    | with_reducible apply KeepsOpt.unitAccess
    | with_reducible apply Keeps.wrArray
    | with_reducible apply Keeps.attnPos
    | with_reducible apply Keeps.setNstat
    | split
    | refine KeepsOpt.unitAccess ?_ _ (by assumption)

theorem Keeps.mgBwdFx {b : Bool} {s0 s : State} {a0 a1} (h : Keeps b s0 s) :
    Keeps b s0 (mgBwdFx a0 a1 s).1 := by
  unfold Sys2Proof.Machine.mgBwdFx
  repeat' first
    | with_reducible assumption
    | with_reducible exact Keeps.refl
    | with_reducible apply KeepsOpt.unitAccess
    | with_reducible apply Keeps.wrArray
    | with_reducible apply Keeps.setNstat
    | with_reducible refine Keeps.ite' (fun _ => ?_) (fun _ => ?_)
    | with_reducible refine Keeps.ite_fst (fun _ => ?_) (fun _ => ?_)
    | with_reducible refine Keeps.ite_snd (fun _ => ?_) (fun _ => ?_)
    | split
    | refine KeepsOpt.unitAccess ?_ _ (by assumption)

theorem Keeps.vecFx {b : Bool} {s0 s : State} {a0 a1 a2} (h : Keeps b s0 s) :
    Keeps b s0 (vecFx a0 a1 a2 s).1 := by
  unfold Sys2Proof.Machine.vecFx
  repeat' first
    | with_reducible assumption
    | with_reducible exact Keeps.refl
    | with_reducible apply KeepsOpt.unitAccess
    | with_reducible apply Keeps.wr
    | with_reducible apply Keeps.fhAdd
    | with_reducible apply Keeps.setNstat
    | with_reducible refine Keeps.foldl' _ ?_ (fun _ _ _ => ?_)
    | with_reducible refine Keeps.foldl_fst _ ?_ (fun _ _ _ => ?_)
    | with_reducible refine Keeps.foldl_snd _ ?_ (fun _ _ _ => ?_)
    | split
    | refine KeepsOpt.unitAccess ?_ _ (by assumption)

theorem Keeps.cgGemmFx {b : Bool} {s0 s : State} {a0 a1} (h : Keeps b s0 s) :
    Keeps b s0 (cgGemmFx a0 a1 s).1 := by
  unfold Sys2Proof.Machine.cgGemmFx
  repeat' first
    | with_reducible assumption
    | with_reducible exact Keeps.refl
    | with_reducible apply KeepsOpt.unitAccess
    | with_reducible apply Keeps.wrArray
    | with_reducible apply Keeps.gemmPos
    | with_reducible apply Keeps.setNstat
    | with_reducible refine Keeps.ite' (fun _ => ?_) (fun _ => ?_)
    | with_reducible refine Keeps.ite_fst (fun _ => ?_) (fun _ => ?_)
    | with_reducible refine Keeps.ite_snd (fun _ => ?_) (fun _ => ?_)
    | split
    | refine KeepsOpt.unitAccess ?_ _ (by assumption)

theorem Keeps.cgAttnFx {b : Bool} {s0 s : State} {a0 a1} (h : Keeps b s0 s) :
    Keeps b s0 (cgAttnFx a0 a1 s).1 := by
  unfold Sys2Proof.Machine.cgAttnFx
  repeat' first
    | with_reducible assumption
    | with_reducible exact Keeps.refl
    | with_reducible apply KeepsOpt.unitAccess
    | with_reducible apply Keeps.wrArray
    | with_reducible apply Keeps.attnPos
    | with_reducible apply Keeps.setNstat
    | split
    | refine KeepsOpt.unitAccess ?_ _ (by assumption)

theorem KeepsO.execMgGemm {b : Bool} {s0 s : State} {a0 a1} (h : Keeps b s0 s) :
    KeepsO b s0 (execMgGemm a0 a1 s) := by
  unfold Sys2Proof.Machine.execMgGemm
  repeat' first
    | with_reducible assumption
    | with_reducible exact Keeps.refl
    | with_reducible apply KeepsO.runCmd
    | with_reducible apply Keeps.mgGemmFx
    | with_reducible refine KeepsO.next ?_
    | (intro _)

theorem KeepsO.execMgAttnFwd {b : Bool} {s0 s : State} {a0 a1} (h : Keeps b s0 s) :
    KeepsO b s0 (execMgAttnFwd a0 a1 s) := by
  unfold Sys2Proof.Machine.execMgAttnFwd
  repeat' first
    | with_reducible assumption
    | with_reducible exact Keeps.refl
    | with_reducible apply KeepsO.runCmd
    | with_reducible apply Keeps.mgFwdFx
    | with_reducible refine KeepsO.next ?_
    | (intro _)

theorem KeepsO.execMgAttnBwd {b : Bool} {s0 s : State} {a0 a1} (h : Keeps b s0 s) :
    KeepsO b s0 (execMgAttnBwd a0 a1 s) := by
  unfold Sys2Proof.Machine.execMgAttnBwd
  repeat' first
    | with_reducible assumption
    | with_reducible exact Keeps.refl
    | with_reducible apply KeepsO.runCmd
    | with_reducible apply Keeps.mgBwdFx
    | with_reducible refine KeepsO.next ?_
    | (intro _)

theorem KeepsO.execMgVec {b : Bool} {s0 s : State} {a0 a1} (h : Keeps b s0 s) :
    KeepsO b s0 (execMgVec a0 a1 s) := by
  unfold Sys2Proof.Machine.execMgVec
  repeat' first
    | with_reducible assumption
    | with_reducible exact Keeps.refl
    | with_reducible apply KeepsO.runCmd
    | with_reducible apply Keeps.vecFx
    | with_reducible refine KeepsO.next ?_
    | (intro _)

theorem KeepsO.execCgGemm {b : Bool} {s0 s : State} {a0 a1} (h : Keeps b s0 s) :
    KeepsO b s0 (execCgGemm a0 a1 s) := by
  unfold Sys2Proof.Machine.execCgGemm
  repeat' first
    | with_reducible assumption
    | with_reducible exact Keeps.refl
    | with_reducible apply KeepsO.runCmd
    | with_reducible apply Keeps.cgGemmFx
    | with_reducible refine KeepsO.next ?_
    | (intro _)

theorem KeepsO.execCgAttn {b : Bool} {s0 s : State} {a0 a1} (h : Keeps b s0 s) :
    KeepsO b s0 (execCgAttn a0 a1 s) := by
  unfold Sys2Proof.Machine.execCgAttn
  repeat' first
    | with_reducible assumption
    | with_reducible exact Keeps.refl
    | with_reducible apply KeepsO.runCmd
    | with_reducible apply Keeps.cgAttnFx
    | with_reducible refine KeepsO.next ?_
    | (intro _)

theorem KeepsO.execCgVec {b : Bool} {s0 s : State} {a0 a1} (h : Keeps b s0 s) :
    KeepsO b s0 (execCgVec a0 a1 s) := by
  unfold Sys2Proof.Machine.execCgVec
  repeat' first
    | with_reducible assumption
    | with_reducible exact Keeps.refl
    | with_reducible apply KeepsO.runCmd
    | with_reducible apply Keeps.vecFx
    | with_reducible refine KeepsO.next ?_
    | (intro _)

end Sys2Proof.Machine
end

