-- ==== Sys2Proof/Laws/Keeps/Kernel.lean ====
section
/-! SUPPORT. What the operations of Machine/Kernel.lean keep. -/
set_option Elab.async false

namespace Sys2Proof.Machine

theorem Keeps.startUnits {b : Bool} {s0 s : State} {a1 a2 a3} (h : Keeps b s0 s) :
    Keeps b s0 (State.startUnits s a1 a2 a3) := by
  unfold Sys2Proof.Machine.State.startUnits
  repeat' first
    | with_reducible assumption
    | with_reducible exact Keeps.refl
    | with_reducible apply Keeps.moves
    | with_reducible apply Keeps.draw
    | with_reducible apply Keeps.movesBytes
    | with_reducible apply Keeps.modUnit
    | with_reducible apply Keeps.setTaskPos
    | with_reducible refine Keeps.ite' (fun _ => ?_) (fun _ => ?_)
    | with_reducible refine Keeps.ite_fst (fun _ => ?_) (fun _ => ?_)
    | with_reducible refine Keeps.ite_snd (fun _ => ?_) (fun _ => ?_)
    | with_reducible refine Keeps.forN' _ ?_ (fun _ _ _ => ?_)

theorem Keeps.kernelRun {b : Bool} {s0 s : State} {a1 a2} (h : Keeps b s0 s) :
    Keeps b s0 (State.kernelRun s a1 a2) := by
  unfold Sys2Proof.Machine.State.kernelRun
  repeat' first
    | with_reducible assumption
    | with_reducible exact Keeps.refl
    | with_reducible apply KeepsOpt.unitAccess
    | with_reducible apply Keeps.modUnit
    | with_reducible refine Keeps.foldl' _ ?_ (fun _ _ _ => ?_)
    | with_reducible refine Keeps.foldl_fst _ ?_ (fun _ _ _ => ?_)
    | with_reducible refine Keeps.foldl_snd _ ?_ (fun _ _ _ => ?_)
    | split
    | (dsimp only; split)
    | refine KeepsOpt.unitAccess ?_ _ (by assumption)

theorem KeepsO.kernelRow {b : Bool} {s0 s : State} {a1 a2 a3} (h : Keeps b s0 s) :
    KeepsO b s0 (State.kernelRow s a1 a2 a3) := by
  unfold Sys2Proof.Machine.State.kernelRow
  repeat' first
    | with_reducible assumption
    | with_reducible exact Keeps.refl
    | with_reducible apply Keeps.kernelRun
    | with_reducible refine Keeps.ite' (fun _ => ?_) (fun _ => ?_)
    | with_reducible refine KeepsO.next ?_
    | with_reducible refine KeepsO.ite' (fun _ => ?_) (fun _ => ?_)
    | split

theorem KeepsO.execMgKernel {b : Bool} {s0 s : State} {a0 a1} (h : Keeps b s0 s) :
    KeepsO b s0 (execMgKernel a0 a1 s) := by
  unfold Sys2Proof.Machine.execMgKernel
  repeat' first
    | with_reducible assumption
    | with_reducible exact Keeps.refl
    | with_reducible apply KeepsO.kernelRow

theorem KeepsO.execCgKernel {b : Bool} {s0 s : State} {a0 a1} (h : Keeps b s0 s) :
    KeepsO b s0 (execCgKernel a0 a1 s) := by
  unfold Sys2Proof.Machine.execCgKernel
  repeat' first
    | with_reducible assumption
    | with_reducible exact Keeps.refl
    | with_reducible apply KeepsO.kernelRow

theorem Keeps.recordFail {b : Bool} {s0 s : State} {a1} (h : Keeps b s0 s) :
    Keeps b s0 (State.recordFail s a1) := by
  unfold Sys2Proof.Machine.State.recordFail
  repeat' first
    | with_reducible assumption
    | with_reducible exact Keeps.refl
    | with_reducible apply Keeps.setMaps
    | with_reducible refine Keeps.ite' (fun _ => ?_) (fun _ => ?_)

theorem Keeps.faultOwner {b : Bool} {s0 s : State} {a1 a2} (h : Keeps b s0 s) :
    Keeps b s0 (State.faultOwner s a1 a2) := by
  unfold Sys2Proof.Machine.State.faultOwner
  repeat' first
    | with_reducible assumption
    | with_reducible exact Keeps.refl
    | with_reducible apply Keeps.faultFrom
    | with_reducible refine Keeps.ite' (fun _ => ?_) (fun _ => ?_)

theorem Keeps.clusterEvent {b : Bool} {s0 s : State} {a1 a2 a3} (h : Keeps b s0 s) :
    Keeps b s0 (State.clusterEvent s a1 a2 a3) := by
  unfold Sys2Proof.Machine.State.clusterEvent
  repeat' first
    | with_reducible assumption
    | with_reducible exact Keeps.refl
    | with_reducible apply Keeps.faultOwner
    | with_reducible apply Keeps.recordFail
    | with_reducible refine Keeps.ite' (fun _ => ?_) (fun _ => ?_)

theorem Keeps.tileEvent {b : Bool} {s0 s : State} {a1 a2} (h : Keeps b s0 s) :
    Keeps b s0 (State.tileEvent s a1 a2) := by
  unfold Sys2Proof.Machine.State.tileEvent
  repeat' first
    | with_reducible assumption
    | with_reducible exact Keeps.refl
    | with_reducible apply Keeps.faultOwner
    | with_reducible apply Keeps.recordFail
    | with_reducible refine Keeps.ite' (fun _ => ?_) (fun _ => ?_)

theorem KeepsO.execCoreFailure {b : Bool} {s0 s : State} {a0 a1 a2} (h : Keeps b s0 s) :
    KeepsO b s0 (execCoreFailure a0 a1 a2 s) := by
  unfold Sys2Proof.Machine.execCoreFailure
  repeat' first
    | with_reducible assumption
    | with_reducible exact Keeps.refl
    | with_reducible apply Keeps.count16
    | with_reducible apply Keeps.evSet
    | with_reducible apply Keeps.clusterEvent
    | with_reducible apply Keeps.evErr
    | with_reducible refine Keeps.ite' (fun _ => ?_) (fun _ => ?_)
    | with_reducible refine KeepsO.next ?_
    | with_reducible refine KeepsO.ite' (fun _ => ?_) (fun _ => ?_)

theorem KeepsO.execTileFailure {b : Bool} {s0 s : State} {a0 a1 a2} (h : Keeps b s0 s) :
    KeepsO b s0 (execTileFailure a0 a1 a2 s) := by
  unfold Sys2Proof.Machine.execTileFailure
  repeat' first
    | with_reducible assumption
    | with_reducible exact Keeps.refl
    | with_reducible apply Keeps.count16
    | with_reducible apply Keeps.evSet
    | with_reducible apply Keeps.tileEvent
    | with_reducible apply Keeps.evErr
    | with_reducible refine Keeps.ite' (fun _ => ?_) (fun _ => ?_)
    | with_reducible refine KeepsO.next ?_
    | with_reducible refine KeepsO.ite' (fun _ => ?_) (fun _ => ?_)

end Sys2Proof.Machine
end

