-- ==== Sys2Proof/Laws/Keeps/Fumarole.lean ====
section
/-! SUPPORT. What the operations of Machine/Fumarole.lean keep. -/
set_option Elab.async false

namespace Sys2Proof.Machine

theorem Keeps.setFumQ {b : Bool} {s0 s : State} {a1 a2 a3} (h : Keeps b s0 s) :
    Keeps b s0 (State.setFumQ s a1 a2 a3) := by
  unfold Sys2Proof.Machine.State.setFumQ
  repeat' first
    | with_reducible assumption
    | with_reducible exact Keeps.refl
    | with_reducible refine Keeps.setStk ?_ ?_
    | exact id
    | exact fun c => ⟨c.1, c.2⟩

theorem Keeps.setFumRun {b : Bool} {s0 s : State} {a1 a2 a3} (h : Keeps b s0 s) :
    Keeps b s0 (State.setFumRun s a1 a2 a3) := by
  unfold Sys2Proof.Machine.State.setFumRun
  repeat' first
    | with_reducible assumption
    | with_reducible exact Keeps.refl
    | with_reducible refine Keeps.setStk ?_ ?_
    | exact id
    | exact fun c => ⟨c.1, c.2⟩

theorem Keeps.fumLeave {b : Bool} {s0 s : State} {a1 a2 a3} (h : Keeps b s0 s) :
    Keeps b s0 (State.fumLeave s a1 a2 a3) := by
  unfold Sys2Proof.Machine.State.fumLeave
  repeat' first
    | with_reducible assumption
    | with_reducible exact Keeps.refl
    | with_reducible apply Keeps.setFumQ
    | with_reducible apply Keeps.setFumRun

theorem Keeps.fumErr {b : Bool} {s0 s : State} {a1 a2 a3 a4} (h : Keeps b s0 s) :
    Keeps b s0 (State.fumErr s a1 a2 a3 a4) := by
  unfold Sys2Proof.Machine.State.fumErr
  repeat' first
    | with_reducible assumption
    | with_reducible exact Keeps.refl
    | with_reducible apply Keeps.evErr

theorem Keeps.setFumNstat {b : Bool} {s0 s : State} {a1 a2 a3} (h : Keeps b s0 s) :
    Keeps b s0 (State.setFumNstat s a1 a2 a3) := by
  unfold Sys2Proof.Machine.State.setFumNstat
  repeat' first
    | with_reducible assumption
    | with_reducible exact Keeps.refl
    | with_reducible apply Keeps.setPg
    | with_reducible refine Keeps.foldl' _ ?_ (fun _ _ _ => ?_)

theorem Keeps.fmEnd {b : Bool} {s0 s : State} {a1 a2 a3 a4} (h : Keeps b s0 s) :
    Keeps b s0 (State.fmEnd s a1 a2 a3 a4) := by
  unfold Sys2Proof.Machine.State.fmEnd
  repeat' first
    | with_reducible assumption
    | with_reducible exact Keeps.refl
    | with_reducible apply Keeps.fumErr
    | with_reducible apply Keeps.fumLeave
    | with_reducible apply Keeps.modCmd
    | with_reducible refine Keeps.ite' (fun _ => ?_) (fun _ => ?_)
    | split

theorem Keeps.updateMarks {b : Bool} {s0 s : State} {a1 a2 a3 a4} (h : Keeps b s0 s) :
    Keeps b s0 (State.updateMarks s a1 a2 a3 a4) := by
  unfold Sys2Proof.Machine.State.updateMarks
  repeat' first
    | with_reducible assumption
    | with_reducible exact Keeps.refl
    | with_reducible refine Keeps.setStk ?_ ?_
    | exact id
    | exact fun c => ⟨c.1, c.2⟩

theorem Keeps.fumAbortCmd {b : Bool} {s0 s : State} {a1 a2 a3} (h : Keeps b s0 s) :
    Keeps b s0 (State.fumAbortCmd s a1 a2 a3) := by
  unfold Sys2Proof.Machine.State.fumAbortCmd
  repeat' first
    | with_reducible assumption
    | with_reducible exact Keeps.refl
    | with_reducible apply Keeps.movesBytes
    | with_reducible apply Keeps.fumErr
    | with_reducible refine Keeps.ite' (fun _ => ?_) (fun _ => ?_)
    | with_reducible refine Keeps.foldl' _ ?_ (fun _ _ _ => ?_)
    | with_reducible refine Keeps.foldl_fst _ ?_ (fun _ _ _ => ?_)
    | with_reducible refine Keeps.foldl_snd _ ?_ (fun _ _ _ => ?_)
    | split

theorem Keeps.fumAbort {b : Bool} {s0 s : State} {a1 a2} (h : Keeps b s0 s) :
    Keeps b s0 (State.fumAbort s a1 a2) := by
  unfold Sys2Proof.Machine.State.fumAbort
  repeat' first
    | with_reducible assumption
    | with_reducible exact Keeps.refl
    | with_reducible apply Keeps.fumAbortCmd
    | with_reducible refine Keeps.foldl' _ ?_ (fun _ _ _ => ?_)

theorem KeepsO.execFmQueueStart {b : Bool} {s0 s : State} {a0 a1} (h : Keeps b s0 s) :
    KeepsO b s0 (execFmQueueStart a0 a1 s) := by
  unfold Sys2Proof.Machine.execFmQueueStart
  repeat' first
    | with_reducible assumption
    | with_reducible exact Keeps.refl
    | with_reducible apply KeepsOpt.tagAccess
    | with_reducible apply Keeps.fmEnd
    | with_reducible apply Keeps.setFumRun
    | with_reducible apply Keeps.modCmd
    | with_reducible apply Keeps.updateMarks
    | with_reducible apply Keeps.setFumNstat
    | with_reducible refine Keeps.ite' (fun _ => ?_) (fun _ => ?_)
    | with_reducible refine KeepsO.next ?_
    | with_reducible refine KeepsO.ite' (fun _ => ?_) (fun _ => ?_)
    | with_reducible refine Keeps.ite_fst (fun _ => ?_) (fun _ => ?_)
    | with_reducible refine Keeps.ite_snd (fun _ => ?_) (fun _ => ?_)
    | split
    | refine KeepsOpt.tagAccess ?_ _ (by assumption)

theorem KeepsO.fmRow {b : Bool} {s0 s : State} {a1 a2 a3 a4} (h : Keeps b s0 s) (h4 : ∀ x0 x1, Keeps b s0 x1 → Keeps b s0 (a4 x0 x1).1) :
    KeepsO b s0 (State.fmRow s a1 a2 a3 a4) := by
  unfold Sys2Proof.Machine.State.fmRow
  repeat' first
    | with_reducible assumption
    | with_reducible exact Keeps.refl
    | with_reducible refine h4 _ _ ?_
    | with_reducible apply KeepsOpt.tagAccess
    | with_reducible apply Keeps.fmEnd
    | with_reducible apply Keeps.setFumNstat
    | with_reducible refine Keeps.ite' (fun _ => ?_) (fun _ => ?_)
    | with_reducible refine KeepsO.next ?_
    | with_reducible refine KeepsO.ite' (fun _ => ?_) (fun _ => ?_)
    | split
    | refine KeepsOpt.tagAccess ?_ _ (by assumption)

theorem Keeps.updBlock {b : Bool} {s0 s : State} {a1 a2 a3 a4 a5 a6 a7} (h : Keeps b s0 s) :
    Keeps b s0 (State.updBlock s a1 a2 a3 a4 a5 a6 a7) := by
  unfold Sys2Proof.Machine.State.updBlock
  repeat' first
    | with_reducible assumption
    | with_reducible exact Keeps.refl
    | with_reducible apply Keeps.wr
    | with_reducible apply Keeps.fhAdd
    | with_reducible refine Keeps.ite' (fun _ => ?_) (fun _ => ?_)
    | with_reducible refine Keeps.ite_fst (fun _ => ?_) (fun _ => ?_)
    | with_reducible refine Keeps.ite_snd (fun _ => ?_) (fun _ => ?_)
    | with_reducible refine Keeps.foldl' _ ?_ (fun _ _ _ => ?_)
    | with_reducible refine Keeps.foldl_fst _ ?_ (fun _ _ _ => ?_)
    | with_reducible refine Keeps.foldl_snd _ ?_ (fun _ _ _ => ?_)
    | split

theorem Keeps.updBytes {b : Bool} {s0 s : State} {a1 a2 a3 a4} (h : Keeps b s0 s) :
    Keeps b s0 (State.updBytes s a1 a2 a3 a4) := by
  unfold Sys2Proof.Machine.State.updBytes
  repeat' first
    | with_reducible assumption
    | with_reducible exact Keeps.refl
    | with_reducible apply Keeps.count64
    | with_reducible apply Keeps.movesBytes
    | with_reducible refine Keeps.ite' (fun _ => ?_) (fun _ => ?_)

theorem Keeps.updFlask {b : Bool} {s0 s : State} {a1 a2 a3} (h : Keeps b s0 s) :
    Keeps b s0 (State.updFlask s a1 a2 a3) := by
  unfold Sys2Proof.Machine.State.updFlask
  repeat' first
    | with_reducible assumption
    | with_reducible exact Keeps.refl
    | with_reducible apply Keeps.updBytes
    | with_reducible refine Keeps.setStk ?_ ?_
    | with_reducible apply Keeps.updBlock
    | with_reducible refine Keeps.forN' _ ?_ (fun _ _ _ => ?_)
    | with_reducible refine Keeps.forN_fst _ ?_ (fun _ _ _ => ?_)
    | with_reducible refine Keeps.forN_snd _ ?_ (fun _ _ _ => ?_)
    | exact id
    | exact fun c => ⟨c.1, c.2⟩

theorem Keeps.fmUpdateFx {b : Bool} {s0 s : State} {a0 a1} (h : Keeps b s0 s) :
    Keeps b s0 (fmUpdateFx a0 a1 s).1 := by
  unfold Sys2Proof.Machine.fmUpdateFx
  repeat' first
    | with_reducible assumption
    | with_reducible exact Keeps.refl
    | with_reducible apply Keeps.updFlask
    | with_reducible refine Keeps.ite' (fun _ => ?_) (fun _ => ?_)
    | with_reducible refine Keeps.ite_fst (fun _ => ?_) (fun _ => ?_)
    | with_reducible refine Keeps.ite_snd (fun _ => ?_) (fun _ => ?_)
    | with_reducible refine Keeps.foldl' _ ?_ (fun _ _ _ => ?_)

theorem KeepsO.execFmUpdate {b : Bool} {s0 s : State} {a0 a1} (h : Keeps b s0 s) :
    KeepsO b s0 (execFmUpdate a0 a1 s) := by
  unfold Sys2Proof.Machine.execFmUpdate
  repeat' first
    | with_reducible assumption
    | with_reducible exact Keeps.refl
    | with_reducible apply KeepsO.fmRow
    | with_reducible apply Keeps.fmUpdateFx
    | with_reducible refine Keeps.ite' (fun _ => ?_) (fun _ => ?_)
    | with_reducible refine KeepsO.next ?_
    | with_reducible refine KeepsO.ite' (fun _ => ?_) (fun _ => ?_)
    | with_reducible refine Keeps.ite_fst (fun _ => ?_) (fun _ => ?_)
    | with_reducible refine Keeps.ite_snd (fun _ => ?_) (fun _ => ?_)
    | split
    | (intro _)

theorem Keeps.decideUpdates {b : Bool} {s0 s : State} {a1 a2 a3} (h : Keeps b s0 s) :
    Keeps b s0 (State.decideUpdates s a1 a2 a3) := by
  unfold Sys2Proof.Machine.State.decideUpdates
  repeat' first
    | with_reducible assumption
    | with_reducible exact Keeps.refl
    | with_reducible apply Keeps.modPart

theorem KeepsO.execFlaskMarkRelease {b : Bool} {s0 s : State} {a0 a1 a2 a3} (h : Keeps b s0 s) :
    KeepsO b s0 (execFlaskMarkRelease a0 a1 a2 a3 s) := by
  unfold Sys2Proof.Machine.execFlaskMarkRelease
  repeat' first
    | with_reducible assumption
    | with_reducible exact Keeps.refl
    | with_reducible refine Keeps.setStk ?_ ?_
    | with_reducible refine Keeps.ite' (fun _ => ?_) (fun _ => ?_)
    | with_reducible refine KeepsO.next ?_
    | with_reducible refine KeepsO.ite' (fun _ => ?_) (fun _ => ?_)
    | split
    | exact id
    | exact fun c => ⟨c.1, c.2⟩

theorem Keeps.fmAmaxFx {b : Bool} {s0 s : State} {a0 a1} (h : Keeps b s0 s) :
    Keeps b s0 (fmAmaxFx a0 a1 s).1 := by
  unfold Sys2Proof.Machine.fmAmaxFx
  repeat' first
    | with_reducible assumption
    | with_reducible exact Keeps.refl
    | with_reducible apply Keeps.wr
    | with_reducible refine Keeps.ite' (fun _ => ?_) (fun _ => ?_)
    | with_reducible refine Keeps.ite_fst (fun _ => ?_) (fun _ => ?_)
    | with_reducible refine Keeps.ite_snd (fun _ => ?_) (fun _ => ?_)
    | with_reducible refine Keeps.foldl' _ ?_ (fun _ _ _ => ?_)
    | with_reducible refine Keeps.foldl_fst _ ?_ (fun _ _ _ => ?_)
    | with_reducible refine Keeps.foldl_snd _ ?_ (fun _ _ _ => ?_)
    | with_reducible refine Keeps.forN' _ ?_ (fun _ _ _ => ?_)

theorem KeepsO.execFmAmax {b : Bool} {s0 s : State} {a0 a1} (h : Keeps b s0 s) :
    KeepsO b s0 (execFmAmax a0 a1 s) := by
  unfold Sys2Proof.Machine.execFmAmax
  repeat' first
    | with_reducible assumption
    | with_reducible exact Keeps.refl
    | with_reducible apply KeepsO.fmRow
    | with_reducible apply Keeps.fmAmaxFx
    | with_reducible refine KeepsO.next ?_
    | (intro _)

theorem Keeps.fmGatherFx {b : Bool} {s0 s : State} {a0 a1} (h : Keeps b s0 s) :
    Keeps b s0 (fmGatherFx a0 a1 s).1 := by
  unfold Sys2Proof.Machine.fmGatherFx
  repeat' first
    | with_reducible assumption
    | with_reducible exact Keeps.refl
    | with_reducible apply Keeps.wr
    | with_reducible refine Keeps.ite' (fun _ => ?_) (fun _ => ?_)
    | with_reducible refine Keeps.ite_fst (fun _ => ?_) (fun _ => ?_)
    | with_reducible refine Keeps.ite_snd (fun _ => ?_) (fun _ => ?_)
    | with_reducible refine Keeps.forN' _ ?_ (fun _ _ _ => ?_)

theorem KeepsO.execFmGather {b : Bool} {s0 s : State} {a0 a1} (h : Keeps b s0 s) :
    KeepsO b s0 (execFmGather a0 a1 s) := by
  unfold Sys2Proof.Machine.execFmGather
  repeat' first
    | with_reducible assumption
    | with_reducible exact Keeps.refl
    | with_reducible apply KeepsO.fmRow
    | with_reducible apply Keeps.fmGatherFx
    | with_reducible refine KeepsO.next ?_
    | (intro _)

theorem Keeps.efPut {b : Bool} {s0 s : State} {a1 a2 a3 a4 a5} (h : Keeps b s0 s) :
    Keeps b s0 (State.efPut s a1 a2 a3 a4 a5) := by
  unfold Sys2Proof.Machine.State.efPut
  repeat' first
    | with_reducible assumption
    | with_reducible exact Keeps.refl
    | with_reducible apply Keeps.fhAdd
    | with_reducible apply Keeps.wr

theorem Keeps.efBlock {b : Bool} {s0 s : State} {a1 a2 a3 a4} (h : Keeps b s0 s) :
    Keeps b s0 (State.efBlock s a1 a2 a3 a4) := by
  unfold Sys2Proof.Machine.State.efBlock
  repeat' first
    | with_reducible assumption
    | with_reducible exact Keeps.refl
    | with_reducible apply Keeps.wr
    | with_reducible apply Keeps.fhAdd
    | with_reducible apply Keeps.efPut
    | with_reducible refine Keeps.ite' (fun _ => ?_) (fun _ => ?_)

theorem Keeps.fmEfFx {b : Bool} {s0 s : State} {a0 a1} (h : Keeps b s0 s) :
    Keeps b s0 (fmEfFx a0 a1 s).1 := by
  unfold Sys2Proof.Machine.fmEfFx
  repeat' first
    | with_reducible assumption
    | with_reducible exact Keeps.refl
    | with_reducible apply Keeps.wr
    | with_reducible apply Keeps.efPut
    | with_reducible apply Keeps.efBlock
    | with_reducible refine Keeps.ite' (fun _ => ?_) (fun _ => ?_)
    | with_reducible refine Keeps.ite_fst (fun _ => ?_) (fun _ => ?_)
    | with_reducible refine Keeps.ite_snd (fun _ => ?_) (fun _ => ?_)
    | with_reducible refine Keeps.forN' _ ?_ (fun _ _ _ => ?_)

theorem KeepsO.execFmEf {b : Bool} {s0 s : State} {a0 a1} (h : Keeps b s0 s) :
    KeepsO b s0 (execFmEf a0 a1 s) := by
  unfold Sys2Proof.Machine.execFmEf
  repeat' first
    | with_reducible assumption
    | with_reducible exact Keeps.refl
    | with_reducible apply KeepsO.fmRow
    | with_reducible apply Keeps.fmEfFx
    | with_reducible refine KeepsO.next ?_
    | (intro _)

theorem Keeps.kvWrite {b : Bool} {s0 s : State} {a1 a2 a3 a4 a5 a6} (h : Keeps b s0 s) :
    Keeps b s0 (State.kvWrite s a1 a2 a3 a4 a5 a6) := by
  unfold Sys2Proof.Machine.State.kvWrite
  repeat' first
    | with_reducible assumption
    | with_reducible exact Keeps.refl
    | with_reducible apply Keeps.wr
    | with_reducible refine Keeps.ite' (fun _ => ?_) (fun _ => ?_)
    | with_reducible refine Keeps.foldl' _ ?_ (fun _ _ _ => ?_)
    | with_reducible refine Keeps.foldl_fst _ ?_ (fun _ _ _ => ?_)
    | with_reducible refine Keeps.foldl_snd _ ?_ (fun _ _ _ => ?_)
    | with_reducible refine Keeps.forN' _ ?_ (fun _ _ _ => ?_)

theorem Keeps.fmAttnFx {b : Bool} {s0 s : State} {a0 a1} (h : Keeps b s0 s) :
    Keeps b s0 (fmAttnFx a0 a1 s).1 := by
  unfold Sys2Proof.Machine.fmAttnFx
  repeat' first
    | with_reducible apply Keeps.skip
    | with_reducible assumption
    | with_reducible exact Keeps.refl
    | with_reducible apply Keeps.kvWrite
    | with_reducible apply Keeps.wr
    | with_reducible apply Keeps.fhAdd
    | with_reducible refine Keeps.ite' (fun _ => ?_) (fun _ => ?_)
    | with_reducible refine Keeps.ite_fst (fun _ => ?_) (fun _ => ?_)
    | with_reducible refine Keeps.ite_snd (fun _ => ?_) (fun _ => ?_)
    | with_reducible refine Keeps.foldl' _ ?_ (fun _ _ _ => ?_)
    | with_reducible refine Keeps.foldl_fst _ ?_ (fun _ _ _ => ?_)
    | with_reducible refine Keeps.foldl_snd _ ?_ (fun _ _ _ => ?_)
    | with_reducible refine Keeps.forN' _ ?_ (fun _ _ _ => ?_)

theorem KeepsO.execFmAttn {b : Bool} {s0 s : State} {a0 a1} (h : Keeps b s0 s) :
    KeepsO b s0 (execFmAttn a0 a1 s) := by
  unfold Sys2Proof.Machine.execFmAttn
  repeat' first
    | with_reducible assumption
    | with_reducible exact Keeps.refl
    | with_reducible apply KeepsO.fmRow
    | with_reducible apply Keeps.fmAttnFx
    | with_reducible refine KeepsO.next ?_
    | (intro _)

theorem Keeps.fmGemvFx {b : Bool} {s0 s : State} {a0 a1} (h : Keeps b s0 s) :
    Keeps b s0 (fmGemvFx a0 a1 s).1 := by
  unfold Sys2Proof.Machine.fmGemvFx
  repeat' first
    | with_reducible assumption
    | with_reducible exact Keeps.refl
    | with_reducible apply Keeps.fhAdd
    | with_reducible apply Keeps.wr
    | with_reducible refine Keeps.ite' (fun _ => ?_) (fun _ => ?_)
    | with_reducible refine Keeps.ite_fst (fun _ => ?_) (fun _ => ?_)
    | with_reducible refine Keeps.ite_snd (fun _ => ?_) (fun _ => ?_)
    | with_reducible refine Keeps.foldl' _ ?_ (fun _ _ _ => ?_)

theorem KeepsO.execFmGemv {b : Bool} {s0 s : State} {a0 a1} (h : Keeps b s0 s) :
    KeepsO b s0 (execFmGemv a0 a1 s) := by
  unfold Sys2Proof.Machine.execFmGemv
  repeat' first
    | with_reducible assumption
    | with_reducible exact Keeps.refl
    | with_reducible apply KeepsO.fmRow
    | with_reducible apply Keeps.fmGemvFx
    | with_reducible refine KeepsO.next ?_
    | (intro _)

theorem Keeps.unitEvent {b : Bool} {s0 s : State} {a1 a2 a3} (h : Keeps b s0 s) :
    Keeps b s0 (State.unitEvent s a1 a2 a3) := by
  unfold Sys2Proof.Machine.State.unitEvent
  repeat' first
    | with_reducible assumption
    | with_reducible exact Keeps.refl
    | with_reducible apply Keeps.recordFail
    | with_reducible apply Keeps.evErr
    | with_reducible apply Keeps.faultMany
    | with_reducible refine Keeps.setStk ?_ ?_
    | with_reducible refine Keeps.ite' (fun _ => ?_) (fun _ => ?_)
    | exact id
    | exact fun c => ⟨c.1, c.2⟩

theorem KeepsO.execUnitFail {b : Bool} {s0 s : State} {a0 a1 a2} (h : Keeps b s0 s) :
    KeepsO b s0 (execUnitFail a0 a1 a2 s) := by
  unfold Sys2Proof.Machine.execUnitFail
  repeat' first
    | with_reducible assumption
    | with_reducible exact Keeps.refl
    | with_reducible apply Keeps.count16
    | with_reducible apply Keeps.evSet
    | with_reducible apply Keeps.unitEvent
    | with_reducible apply Keeps.evErr
    | with_reducible refine Keeps.ite' (fun _ => ?_) (fun _ => ?_)
    | with_reducible refine KeepsO.next ?_
    | with_reducible refine KeepsO.ite' (fun _ => ?_) (fun _ => ?_)

theorem KeepsO.execFumaroleSlotBoundary {b : Bool} {s0 s : State} {a0} (h : Keeps b s0 s) :
    KeepsO b s0 (execFumaroleSlotBoundary a0 s) := by
  unfold Sys2Proof.Machine.execFumaroleSlotBoundary
  repeat' first
    | with_reducible assumption
    | with_reducible exact Keeps.refl
    | with_reducible apply Keeps.modStack
    | with_reducible refine KeepsO.next ?_

end Sys2Proof.Machine
end

