-- ==== Sys2Proof/Laws/Keeps/Links.lean ====
section
/-! SUPPORT. What the operations of Machine/Links.lean keep. -/
set_option Elab.async false

namespace Sys2Proof.Machine

theorem Keeps.txPump {b : Bool} {s0 s : State} {a1} (h : Keeps b s0 s) :
    Keeps b s0 (State.txPump s a1) := by
  unfold Sys2Proof.Machine.State.txPump
  repeat' first
    | with_reducible assumption
    | with_reducible exact Keeps.refl
    | with_reducible apply Keeps.count64
    | with_reducible apply Keeps.setPort
    | with_reducible refine Keeps.ite' (fun _ => ?_) (fun _ => ?_)

theorem Keeps.ethPut {b : Bool} {s0 s : State} {a1 a2 a3} (h : Keeps b s0 s) :
    Keeps b s0 (State.ethPut s a1 a2 a3) := by
  unfold Sys2Proof.Machine.State.ethPut
  repeat' first
    | with_reducible assumption
    | with_reducible exact Keeps.refl
    | with_reducible apply Keeps.count64
    | with_reducible apply Keeps.modPort
    | with_reducible refine Keeps.ite' (fun _ => ?_) (fun _ => ?_)

theorem Keeps.portSend {b : Bool} {s0 s : State} {a1 a2 a3} (h : Keeps b s0 s) :
    Keeps b s0 (State.portSend s a1 a2 a3) := by
  unfold Sys2Proof.Machine.State.portSend
  repeat' first
    | with_reducible assumption
    | with_reducible exact Keeps.refl
    | with_reducible apply Keeps.ethPut
    | with_reducible apply Keeps.modPort
    | with_reducible apply Keeps.txPump
    | with_reducible refine Keeps.ite' (fun _ => ?_) (fun _ => ?_)

theorem Keeps.fabSend {b : Bool} {s0 s : State} {a1 a2 a3 a4} (h : Keeps b s0 s) :
    Keeps b s0 (State.fabSend s a1 a2 a3 a4).1 := by
  unfold Sys2Proof.Machine.State.fabSend
  repeat' first
    | with_reducible assumption
    | with_reducible exact Keeps.refl
    | with_reducible refine Keeps.setFabric ?_ ?_
    | with_reducible apply Keeps.portSend
    | split
    | exact id

theorem Keeps.noRouteTo {b : Bool} {s0 s : State} {a1 a2} (h : Keeps b s0 s) :
    Keeps b s0 (State.noRouteTo s a1 a2) := by
  unfold Sys2Proof.Machine.State.noRouteTo
  repeat' first
    | with_reducible assumption
    | with_reducible exact Keeps.refl
    | with_reducible apply Keeps.fabSend
    | with_reducible refine Keeps.ite' (fun _ => ?_) (fun _ => ?_)

theorem Keeps.hear {b : Bool} {s0 s : State} {a1} (h : Keeps b s0 s) :
    Keeps b s0 (State.hear s a1) := by
  unfold Sys2Proof.Machine.State.hear
  repeat' first
    | with_reducible assumption
    | with_reducible exact Keeps.refl
    | with_reducible refine Keeps.setFabric ?_ ?_
    | exact id

theorem Keeps.memberLost {b : Bool} {s0 s : State} {a1 a2} (h : Keeps b s0 s) :
    Keeps b s0 (State.memberLost s a1 a2) := by
  unfold Sys2Proof.Machine.State.memberLost
  repeat' first
    | with_reducible assumption
    | with_reducible exact Keeps.refl
    | with_reducible apply Keeps.modPart
    | with_reducible apply Keeps.evErr
    | with_reducible apply Keeps.vent
    | with_reducible refine Keeps.ite' (fun _ => ?_) (fun _ => ?_)

theorem Keeps.lostRoute {b : Bool} {s0 s : State} {a1 a2} (h : Keeps b s0 s) :
    Keeps b s0 (State.lostRoute s a1 a2) := by
  unfold Sys2Proof.Machine.State.lostRoute
  repeat' first
    | with_reducible assumption
    | with_reducible exact Keeps.refl
    | with_reducible apply Keeps.memberLost
    | with_reducible refine Keeps.ite' (fun _ => ?_) (fun _ => ?_)

theorem Keeps.portGone {b : Bool} {s0 s : State} {a1 a2 a3} (h : Keeps b s0 s) :
    Keeps b s0 (State.portGone s a1 a2 a3) := by
  unfold Sys2Proof.Machine.State.portGone
  repeat' first
    | with_reducible assumption
    | with_reducible exact Keeps.refl
    | with_reducible apply Keeps.evErr
    | with_reducible apply Keeps.vent
    | with_reducible apply Keeps.lostRoute
    | with_reducible apply Keeps.noRouteTo
    | with_reducible refine Keeps.ite' (fun _ => ?_) (fun _ => ?_)
    | with_reducible refine Keeps.ite_fst (fun _ => ?_) (fun _ => ?_)
    | with_reducible refine Keeps.ite_snd (fun _ => ?_) (fun _ => ?_)
    | with_reducible refine Keeps.foldl' _ ?_ (fun _ _ _ => ?_)

theorem Keeps.portDown {b : Bool} {s0 s : State} {a1 a2} (h : Keeps b s0 s) :
    Keeps b s0 (State.portDown s a1 a2) := by
  unfold Sys2Proof.Machine.State.portDown
  exact Keeps.ite' (fun _ => h) fun _ => Keeps.portGone (Keeps.setPg (Keeps.setPort h))

theorem Keeps.halfDown {b : Bool} {s0 s : State} {a1 a2} (h : Keeps b s0 s) :
    Keeps b s0 (State.halfDown s a1 a2) := by
  unfold Sys2Proof.Machine.State.halfDown
  exact Keeps.ite' (fun _ => h) fun _ => Keeps.ite' (fun _ => Keeps.portDown h) fun _ =>
    Keeps.portGone (Keeps.setPort h)

end Sys2Proof.Machine
end

