-- ==== Sys2Proof/Laws/Keeps/Ladle.lean ====
section
/-! SUPPORT. What the operations of Machine/Ladle.lean keep. -/
set_option Elab.async false

namespace Sys2Proof.Machine

theorem Keeps.abandonStep {b : Bool} {s0 s : State} {a1 a2 a3} (h : Keeps b s0 s) :
    Keeps b s0 (State.abandonStep s a1 a2 a3) := by
  unfold Sys2Proof.Machine.State.abandonStep
  repeat' first
    | with_reducible assumption
    | with_reducible exact Keeps.refl
    | with_reducible apply Keeps.modCmd
    | with_reducible apply Keeps.modStep
    | with_reducible apply Keeps.evSet
    | with_reducible apply Keeps.fumAbortCmd
    | with_reducible apply Keeps.fumLeave
    | with_reducible refine Keeps.ite' (fun _ => ?_) (fun _ => ?_)
    | with_reducible refine Keeps.ite_fst (fun _ => ?_) (fun _ => ?_)
    | with_reducible refine Keeps.ite_snd (fun _ => ?_) (fun _ => ?_)
    | with_reducible refine Keeps.foldl' _ ?_ (fun _ _ _ => ?_)
    | with_reducible refine Keeps.foldl_fst _ ?_ (fun _ _ _ => ?_)
    | with_reducible refine Keeps.foldl_snd _ ?_ (fun _ _ _ => ?_)
    | split

theorem Keeps.ldLimit {b : Bool} {s0 s : State} {a1 a2 a3} (h : Keeps b s0 s) :
    Keeps b s0 (State.ldLimit s a1 a2 a3) := by
  unfold Sys2Proof.Machine.State.ldLimit
  repeat' first
    | with_reducible assumption
    | with_reducible exact Keeps.refl
    | with_reducible apply Keeps.evSet
    | with_reducible refine Keeps.ite' (fun _ => ?_) (fun _ => ?_)

theorem Keeps.ldBegin {b : Bool} {s0 s : State} {a1 a2 a3 a4} (h : Keeps b s0 s) :
    Keeps b s0 (State.ldBegin s a1 a2 a3 a4) := by
  unfold Sys2Proof.Machine.State.ldBegin
  repeat' first
    | with_reducible assumption
    | with_reducible exact Keeps.refl
    | with_reducible apply Keeps.modPart
    | with_reducible apply Keeps.modRed
    | with_reducible refine Keeps.ite' (fun _ => ?_) (fun _ => ?_)

theorem Keeps.modColl {b : Bool} {s0 s : State} {a1 a2 a3} (h : Keeps b s0 s) :
    Keeps b s0 (State.modColl s a1 a2 a3) := by
  unfold Sys2Proof.Machine.State.modColl
  repeat' first
    | with_reducible assumption
    | with_reducible exact Keeps.refl
    | with_reducible apply Keeps.modPart

theorem Keeps.endColl {b : Bool} {s0 s : State} {a1 a2 a3} (h : Keeps b s0 s) :
    Keeps b s0 (State.endColl s a1 a2 a3) := by
  unfold Sys2Proof.Machine.State.endColl
  repeat' first
    | with_reducible assumption
    | with_reducible exact Keeps.refl
    | with_reducible apply Keeps.modCmd
    | with_reducible apply Keeps.modPart

theorem Keeps.ldSend {b : Bool} {s0 s : State} {a1 a2 a3 a4} (h : Keeps b s0 s) :
    Keeps b s0 (State.ldSend s a1 a2 a3 a4) := by
  unfold Sys2Proof.Machine.State.ldSend
  repeat' first
    | with_reducible assumption
    | with_reducible exact Keeps.refl
    | with_reducible apply Keeps.fabSend
    | with_reducible apply Keeps.count64
    | with_reducible apply Keeps.lostRoute
    | split
    | (dsimp only; split)
    | refine Keeps.of_fst (by assumption) ?_

theorem Keeps.lAdd {b : Bool} {s0 s : State} {a1 a2 a3 a4} (h : Keeps b s0 s) :
    Keeps b s0 (State.lAdd s a1 a2 a3 a4).2 := by
  unfold Sys2Proof.Machine.State.lAdd
  repeat' first
    | with_reducible assumption
    | with_reducible exact Keeps.refl
    | with_reducible apply Keeps.fhAdd
    | with_reducible refine Keeps.ite' (fun _ => ?_) (fun _ => ?_)
    | with_reducible refine Keeps.ite_fst (fun _ => ?_) (fun _ => ?_)
    | with_reducible refine Keeps.ite_snd (fun _ => ?_) (fun _ => ?_)

theorem Keeps.lOwn {b : Bool} {s0 s : State} {a1 a2 a3 a4} (h : Keeps b s0 s) :
    Keeps b s0 (State.lOwn s a1 a2 a3 a4) := by
  unfold Sys2Proof.Machine.State.lOwn
  repeat' first
    | with_reducible assumption
    | with_reducible exact Keeps.refl
    | with_reducible apply Keeps.modRed
    | with_reducible apply Keeps.wrW
    | with_reducible refine Keeps.ite' (fun _ => ?_) (fun _ => ?_)
    | with_reducible refine Keeps.ite_fst (fun _ => ?_) (fun _ => ?_)
    | with_reducible refine Keeps.ite_snd (fun _ => ?_) (fun _ => ?_)
    | with_reducible refine Keeps.forN' _ ?_ (fun _ _ _ => ?_)
    | with_reducible refine Keeps.forN_fst _ ?_ (fun _ _ _ => ?_)
    | with_reducible refine Keeps.forN_snd _ ?_ (fun _ _ _ => ?_)
    | split

theorem Keeps.lProg {b : Bool} {s0 s : State} {a1 a2 a3 a4} (h : Keeps b s0 s) :
    Keeps b s0 (State.lProg s a1 a2 a3 a4) := by
  unfold Sys2Proof.Machine.State.lProg
  repeat' first
    | with_reducible assumption
    | with_reducible exact Keeps.refl
    | with_reducible apply Keeps.modColl

theorem Keeps.ldAccess {b : Bool} {s0 s : State} {a1 a2 a3} (h : Keeps b s0 s) (h3 : ∀ x0, Keeps b s0 x0 → Keeps b s0 (a3 x0)) :
    Keeps b s0 (State.ldAccess s a1 a2 a3) := by
  unfold Sys2Proof.Machine.State.ldAccess
  repeat' first
    | with_reducible assumption
    | with_reducible exact Keeps.refl
    | with_reducible refine h3 _ ?_
    | with_reducible apply KeepsOpt.tagAccess
    | with_reducible refine Keeps.ite' (fun _ => ?_) (fun _ => ?_)
    | split
    | refine KeepsOpt.tagAccess ?_ _ (by assumption)

theorem Keeps.lPass {b : Bool} {s0 s : State} {a1 a2 a3 a4 a5} (h : Keeps b s0 s) :
    Keeps b s0 (State.lPass s a1 a2 a3 a4 a5) := by
  unfold Sys2Proof.Machine.State.lPass
  repeat' first
    | with_reducible assumption
    | with_reducible exact Keeps.refl
    | with_reducible apply Keeps.ldAccess
    | with_reducible apply Keeps.lAdd
    | with_reducible apply Keeps.lOwn
    | with_reducible apply Keeps.ldSend
    | with_reducible apply Keeps.lProg
    | with_reducible refine Keeps.ite' (fun _ => ?_) (fun _ => ?_)
    | split
    | (intro _)
    | refine Keeps.of_fst (by assumption) ?_
    | refine Keeps.of_snd (by assumption) ?_

theorem Keeps.lFinish {b : Bool} {s0 s : State} {a1 a2} (h : Keeps b s0 s) :
    Keeps b s0 (State.lFinish s a1 a2) := by
  unfold Sys2Proof.Machine.State.lFinish
  repeat' first
    | with_reducible assumption
    | with_reducible exact Keeps.refl
    | with_reducible apply Keeps.endColl
    | with_reducible refine Keeps.ite' (fun _ => ?_) (fun _ => ?_)
    | split

theorem Keeps.ldKeep {b : Bool} {s0 s : State} {a1 a2} (h : Keeps b s0 s) :
    Keeps b s0 (State.ldKeep s a1 a2) := by
  unfold Sys2Proof.Machine.State.ldKeep
  repeat' first
    | with_reducible assumption
    | with_reducible exact Keeps.refl
    | with_reducible apply Keeps.modPart

theorem Keeps.lOwe {b : Bool} {s0 s : State} {a1 a2 a3} (h : Keeps b s0 s) :
    Keeps b s0 (State.lOwe s a1 a2 a3) := by
  unfold Sys2Proof.Machine.State.lOwe
  repeat' first
    | with_reducible assumption
    | with_reducible exact Keeps.refl
    | with_reducible apply Keeps.modColl

theorem Keeps.lPayOwed {b : Bool} {s0 s : State} {a1 a2} (h : Keeps b s0 s) :
    Keeps b s0 (State.lPayOwed s a1 a2) := by
  unfold Sys2Proof.Machine.State.lPayOwed
  repeat' first
    | with_reducible assumption
    | with_reducible exact Keeps.refl
    | with_reducible apply Keeps.modColl
    | with_reducible apply Keeps.lOwe
    | with_reducible apply Keeps.lPass
    | with_reducible apply Keeps.lFinish
    | with_reducible refine Keeps.ite' (fun _ => ?_) (fun _ => ?_)
    | with_reducible refine Keeps.foldl' _ ?_ (fun _ _ _ => ?_)
    | with_reducible refine Keeps.foldl_fst _ ?_ (fun _ _ _ => ?_)
    | with_reducible refine Keeps.foldl_snd _ ?_ (fun _ _ _ => ?_)
    | split

theorem Keeps.lStartData {b : Bool} {s0 s : State} {a1 a2 a3 a4} (h : Keeps b s0 s) :
    Keeps b s0 (State.lStartData s a1 a2 a3 a4) := by
  unfold Sys2Proof.Machine.State.lStartData
  repeat' first
    | with_reducible assumption
    | with_reducible exact Keeps.refl
    | with_reducible apply Keeps.lOwe
    | with_reducible apply Keeps.lPass
    | with_reducible apply Keeps.lFinish
    | with_reducible refine Keeps.ite' (fun _ => ?_) (fun _ => ?_)
    | with_reducible refine Keeps.foldl' _ ?_ (fun _ _ _ => ?_)
    | with_reducible refine Keeps.foldl_fst _ ?_ (fun _ _ _ => ?_)
    | with_reducible refine Keeps.foldl_snd _ ?_ (fun _ _ _ => ?_)
    | with_reducible refine Keeps.forN' _ ?_ (fun _ _ _ => ?_)

theorem Keeps.lComb {b : Bool} {s0 s : State} {a1 a2 a3 a4} (h : Keeps b s0 s) :
    Keeps b s0 (State.lComb s a1 a2 a3 a4) := by
  unfold Sys2Proof.Machine.State.lComb
  repeat' first
    | with_reducible assumption
    | with_reducible exact Keeps.refl
    | with_reducible apply Keeps.modColl
    | with_reducible apply Keeps.ldSend
    | with_reducible apply Keeps.modRed
    | with_reducible apply Keeps.count32
    | with_reducible apply Keeps.evSet
    | with_reducible apply Keeps.endColl
    | with_reducible apply Keeps.lStartData
    | with_reducible refine Keeps.ite' (fun _ => ?_) (fun _ => ?_)
    | with_reducible refine Keeps.ite_fst (fun _ => ?_) (fun _ => ?_)
    | with_reducible refine Keeps.ite_snd (fun _ => ?_) (fun _ => ?_)
    | with_reducible refine Keeps.foldl' _ ?_ (fun _ _ _ => ?_)

theorem Keeps.lPrePump {b : Bool} {s0 s : State} {a1 a2} (h : Keeps b s0 s) :
    Keeps b s0 (State.lPrePump s a1 a2) := by
  unfold Sys2Proof.Machine.State.lPrePump
  repeat' first
    | with_reducible assumption
    | with_reducible exact Keeps.refl
    | with_reducible apply Keeps.lComb
    | with_reducible apply Keeps.modColl
    | with_reducible apply Keeps.ldSend
    | with_reducible refine Keeps.ite' (fun _ => ?_) (fun _ => ?_)
    | with_reducible refine Keeps.ite_fst (fun _ => ?_) (fun _ => ?_)
    | with_reducible refine Keeps.ite_snd (fun _ => ?_) (fun _ => ?_)
    | with_reducible refine Keeps.foldl' _ ?_ (fun _ _ _ => ?_)
    | with_reducible refine Keeps.foldl_fst _ ?_ (fun _ _ _ => ?_)
    | with_reducible refine Keeps.foldl_snd _ ?_ (fun _ _ _ => ?_)
    | split

theorem Keeps.lMismatch {b : Bool} {s0 s : State} {a1 a2 a3} (h : Keeps b s0 s) :
    Keeps b s0 (State.lMismatch s a1 a2 a3) := by
  unfold Sys2Proof.Machine.State.lMismatch
  repeat' first
    | with_reducible assumption
    | with_reducible exact Keeps.refl
    | with_reducible apply Keeps.evErr
    | with_reducible apply Keeps.endColl
    | with_reducible apply Keeps.ldSend
    | with_reducible apply Keeps.abandonStep
    | with_reducible refine Keeps.ite' (fun _ => ?_) (fun _ => ?_)
    | with_reducible refine Keeps.ite_fst (fun _ => ?_) (fun _ => ?_)
    | with_reducible refine Keeps.ite_snd (fun _ => ?_) (fun _ => ?_)
    | with_reducible refine Keeps.foldl' _ ?_ (fun _ _ _ => ?_)

theorem Keeps.gatherFinish {b : Bool} {s0 s : State} {a1 a2} (h : Keeps b s0 s) :
    Keeps b s0 (State.gatherFinish s a1 a2) := by
  unfold Sys2Proof.Machine.State.gatherFinish
  repeat' first
    | with_reducible assumption
    | with_reducible exact Keeps.refl
    | with_reducible apply Keeps.endColl
    | with_reducible refine Keeps.ite' (fun _ => ?_) (fun _ => ?_)
    | split

theorem Keeps.gatherPut {b : Bool} {s0 s : State} {a1 a2 a3 a4} (h : Keeps b s0 s) :
    Keeps b s0 (State.gatherPut s a1 a2 a3 a4) := by
  unfold Sys2Proof.Machine.State.gatherPut
  repeat' first
    | with_reducible assumption
    | with_reducible exact Keeps.refl
    | with_reducible apply Keeps.ldAccess
    | with_reducible apply Keeps.wr
    | (intro _)

theorem Keeps.gatherCancel {b : Bool} {s0 s : State} {a1 a2} (h : Keeps b s0 s) :
    Keeps b s0 (State.gatherCancel s a1 a2) := by
  unfold Sys2Proof.Machine.State.gatherCancel
  repeat' first
    | with_reducible assumption
    | with_reducible exact Keeps.refl
    | with_reducible apply Keeps.endColl
    | with_reducible apply Keeps.evErr

theorem Keeps.gatherDiff {b : Bool} {s0 s : State} {a1 a2 a3} (h : Keeps b s0 s) :
    Keeps b s0 (State.gatherDiff s a1 a2 a3) := by
  unfold Sys2Proof.Machine.State.gatherDiff
  repeat' first
    | with_reducible assumption
    | with_reducible exact Keeps.refl
    | with_reducible apply Keeps.ldSend
    | with_reducible apply Keeps.gatherCancel
    | with_reducible refine Keeps.foldl' _ ?_ (fun _ _ _ => ?_)

theorem Keeps.gatherServe {b : Bool} {s0 s : State} {a1 a2} (h : Keeps b s0 s) :
    Keeps b s0 (State.gatherServe s a1 a2) := by
  unfold Sys2Proof.Machine.State.gatherServe
  repeat' first
    | with_reducible assumption
    | with_reducible exact Keeps.refl
    | with_reducible apply Keeps.gatherFinish
    | with_reducible apply Keeps.modColl
    | with_reducible apply Keeps.ldSend
    | with_reducible apply Keeps.endColl
    | with_reducible apply Keeps.gatherPut
    | with_reducible apply Keeps.lProg
    | with_reducible refine Keeps.ite' (fun _ => ?_) (fun _ => ?_)
    | with_reducible refine Keeps.ite_fst (fun _ => ?_) (fun _ => ?_)
    | with_reducible refine Keeps.ite_snd (fun _ => ?_) (fun _ => ?_)
    | with_reducible refine Keeps.foldl' _ ?_ (fun _ _ _ => ?_)
    | with_reducible refine Keeps.foldl_fst _ ?_ (fun _ _ _ => ?_)
    | with_reducible refine Keeps.foldl_snd _ ?_ (fun _ _ _ => ?_)
    | with_reducible refine Keeps.forN' _ ?_ (fun _ _ _ => ?_)
    | with_reducible refine Keeps.forN_fst _ ?_ (fun _ _ _ => ?_)
    | with_reducible refine Keeps.forN_snd _ ?_ (fun _ _ _ => ?_)
    | split

theorem Keeps.sealResult {b : Bool} {s0 s : State} {a1 a2 a3} (h : Keeps b s0 s) :
    Keeps b s0 (State.sealResult s a1 a2 a3) := by
  unfold Sys2Proof.Machine.State.sealResult
  repeat' first
    | with_reducible assumption
    | with_reducible exact Keeps.refl
    | with_reducible apply Keeps.modStep
    | with_reducible apply Keeps.ldSend
    | with_reducible refine Keeps.ite' (fun _ => ?_) (fun _ => ?_)
    | with_reducible refine Keeps.ite_fst (fun _ => ?_) (fun _ => ?_)
    | with_reducible refine Keeps.ite_snd (fun _ => ?_) (fun _ => ?_)
    | with_reducible refine Keeps.foldl' _ ?_ (fun _ _ _ => ?_)

theorem Keeps.sealPump {b : Bool} {s0 s : State} {a1} (h : Keeps b s0 s) :
    Keeps b s0 (State.sealPump s a1) := by
  unfold Sys2Proof.Machine.State.sealPump
  repeat' first
    | with_reducible assumption
    | with_reducible exact Keeps.refl
    | with_reducible apply Keeps.sealResult
    | with_reducible apply Keeps.modStep
    | with_reducible apply Keeps.ldSend
    | with_reducible refine Keeps.ite' (fun _ => ?_) (fun _ => ?_)
    | with_reducible refine Keeps.ite_fst (fun _ => ?_) (fun _ => ?_)
    | with_reducible refine Keeps.ite_snd (fun _ => ?_) (fun _ => ?_)
    | with_reducible refine Keeps.getD' ?_ ?_
    | split

theorem KeepsOpt.ldTake {b : Bool} {s0 s : State} {a1 a2} (h : Keeps b s0 s) :
    KeepsOpt b s0 (State.ldTake s a1 a2) := by
  unfold Sys2Proof.Machine.State.ldTake
  repeat' first
    | with_reducible assumption
    | with_reducible exact Keeps.refl
    | with_reducible apply Keeps.lMismatch
    | with_reducible apply Keeps.lPrePump
    | with_reducible apply Keeps.modColl
    | with_reducible apply Keeps.lComb
    | with_reducible apply Keeps.lFinish
    | with_reducible apply Keeps.lPass
    | with_reducible apply Keeps.ldSend
    | with_reducible apply Keeps.gatherCancel
    | with_reducible apply Keeps.gatherDiff
    | with_reducible apply Keeps.endColl
    | with_reducible apply Keeps.gatherFinish
    | with_reducible apply Keeps.lProg
    | with_reducible apply Keeps.gatherPut
    | with_reducible apply Keeps.sealPump
    | with_reducible apply Keeps.modStep
    | with_reducible apply Keeps.sealResult
    | with_reducible refine Keeps.ite' (fun _ => ?_) (fun _ => ?_)
    | with_reducible refine Keeps.ite_fst (fun _ => ?_) (fun _ => ?_)
    | with_reducible refine Keeps.ite_snd (fun _ => ?_) (fun _ => ?_)
    | with_reducible refine KeepsOpt.some' ?_
    | with_reducible exact KeepsOpt.none'
    | with_reducible refine KeepsOpt.ite' (fun _ => ?_) (fun _ => ?_)
    | with_reducible refine Keeps.getD' ?_ ?_
    | split

theorem Keeps.ldRetry {b : Bool} {s0 s : State} {a1} (h : Keeps b s0 s) :
    Keeps b s0 (State.ldRetry s a1) := by
  unfold Sys2Proof.Machine.State.ldRetry
  repeat' first
    | with_reducible assumption
    | with_reducible exact Keeps.refl
    | with_reducible apply Keeps.lPayOwed
    | with_reducible apply Keeps.modPart
    | with_reducible apply KeepsOpt.ldTake
    | with_reducible apply Keeps.ldKeep
    | with_reducible refine Keeps.foldl' _ ?_ (fun _ _ _ => ?_)
    | with_reducible refine Keeps.foldl_fst _ ?_ (fun _ _ _ => ?_)
    | with_reducible refine Keeps.foldl_snd _ ?_ (fun _ _ _ => ?_)
    | with_reducible refine Keeps.forN' _ ?_ (fun _ _ _ => ?_)
    | with_reducible refine Keeps.forN_fst _ ?_ (fun _ _ _ => ?_)
    | with_reducible refine Keeps.forN_snd _ ?_ (fun _ _ _ => ?_)
    | split
    | refine KeepsOpt.ldTake ?_ _ (by assumption)

theorem Keeps.ldHear {b : Bool} {s0 s : State} {a1 a2} (h : Keeps b s0 s) :
    Keeps b s0 (State.ldHear s a1 a2) := by
  unfold Sys2Proof.Machine.State.ldHear
  repeat' first
    | with_reducible assumption
    | with_reducible exact Keeps.refl
    | with_reducible apply Keeps.hear
    | split

theorem Keeps.ldReceive {b : Bool} {s0 s : State} {a1 a2 a3} (h : Keeps b s0 s) :
    Keeps b s0 (State.ldReceive s a1 a2 a3) := by
  unfold Sys2Proof.Machine.State.ldReceive
  repeat' first
    | with_reducible assumption
    | with_reducible exact Keeps.refl
    | with_reducible apply Keeps.count64
    | with_reducible apply Keeps.modPart
    | with_reducible apply KeepsOpt.ldTake
    | with_reducible apply Keeps.ldHear
    | with_reducible apply Keeps.ldRetry
    | with_reducible apply Keeps.ldKeep
    | with_reducible refine Keeps.ite' (fun _ => ?_) (fun _ => ?_)
    | split
    | refine KeepsOpt.ldTake ?_ _ (by assumption)

theorem KeepsO.ldRow {b : Bool} {s0 s : State} {a1 a2 a3 a4} (h : Keeps b s0 s) (h4 : ∀ x0 x1, Keeps b s0 x1 → Keeps b s0 (a4 x0 x1)) :
    KeepsO b s0 (State.ldRow s a1 a2 a3 a4) := by
  unfold Sys2Proof.Machine.State.ldRow
  repeat' first
    | with_reducible assumption
    | with_reducible exact Keeps.refl
    | with_reducible refine h4 _ _ ?_
    | with_reducible apply KeepsOpt.tagAccess
    | with_reducible apply Keeps.ldRetry
    | with_reducible refine Keeps.ite' (fun _ => ?_) (fun _ => ?_)
    | with_reducible refine KeepsO.next ?_
    | with_reducible refine KeepsO.ite' (fun _ => ?_) (fun _ => ?_)
    | split
    | refine KeepsOpt.tagAccess ?_ _ (by assumption)

theorem Keeps.reduceGo {b : Bool} {s0 s : State} {a1 a2} (h : Keeps b s0 s) :
    Keeps b s0 (State.reduceGo s a1 a2) := by
  unfold Sys2Proof.Machine.State.reduceGo
  repeat' first
    | with_reducible assumption
    | with_reducible exact Keeps.refl
    | with_reducible apply Keeps.endColl
    | with_reducible apply Keeps.fhAdd
    | with_reducible apply Keeps.lPrePump
    | with_reducible apply Keeps.modColl
    | with_reducible refine Keeps.ite' (fun _ => ?_) (fun _ => ?_)
    | with_reducible refine Keeps.ite_fst (fun _ => ?_) (fun _ => ?_)
    | with_reducible refine Keeps.ite_snd (fun _ => ?_) (fun _ => ?_)
    | split

theorem KeepsO.execLdReduce {b : Bool} {s0 s : State} {a0 a1} (h : Keeps b s0 s) :
    KeepsO b s0 (execLdReduce a0 a1 s) := by
  unfold Sys2Proof.Machine.execLdReduce
  repeat' first
    | with_reducible assumption
    | with_reducible exact Keeps.refl
    | with_reducible apply KeepsO.ldRow
    | with_reducible apply Keeps.reduceGo
    | with_reducible refine KeepsO.next ?_
    | (intro _)

theorem KeepsO.execLdGather {b : Bool} {s0 s : State} {a0 a1} (h : Keeps b s0 s) :
    KeepsO b s0 (execLdGather a0 a1 s) := by
  unfold Sys2Proof.Machine.execLdGather
  repeat' first
    | with_reducible assumption
    | with_reducible exact Keeps.refl
    | with_reducible apply KeepsO.ldRow
    | with_reducible apply Keeps.gatherServe
    | with_reducible refine KeepsO.next ?_
    | (intro _)

theorem KeepsO.execLdPreUp {b : Bool} {s0 s : State} {a0 a1} (h : Keeps b s0 s) :
    KeepsO b s0 (execLdPreUp a0 a1 s) := by
  unfold Sys2Proof.Machine.execLdPreUp
  repeat' first
    | with_reducible assumption
    | with_reducible exact Keeps.refl
    | with_reducible apply Keeps.ldReceive
    | with_reducible refine KeepsO.next ?_

theorem KeepsO.execLdPreDown {b : Bool} {s0 s : State} {a0 a1} (h : Keeps b s0 s) :
    KeepsO b s0 (execLdPreDown a0 a1 s) := by
  unfold Sys2Proof.Machine.execLdPreDown
  repeat' first
    | with_reducible assumption
    | with_reducible exact Keeps.refl
    | with_reducible apply Keeps.ldReceive
    | with_reducible refine KeepsO.next ?_

theorem KeepsO.execLdSeg {b : Bool} {s0 s : State} {a0 a1} (h : Keeps b s0 s) :
    KeepsO b s0 (execLdSeg a0 a1 s) := by
  unfold Sys2Proof.Machine.execLdSeg
  repeat' first
    | with_reducible assumption
    | with_reducible exact Keeps.refl
    | with_reducible apply Keeps.ldReceive
    | with_reducible refine KeepsO.next ?_

theorem KeepsO.execLdGseg {b : Bool} {s0 s : State} {a0 a1} (h : Keeps b s0 s) :
    KeepsO b s0 (execLdGseg a0 a1 s) := by
  unfold Sys2Proof.Machine.execLdGseg
  repeat' first
    | with_reducible assumption
    | with_reducible exact Keeps.refl
    | with_reducible apply Keeps.ldReceive
    | with_reducible refine KeepsO.next ?_

theorem KeepsO.execLdSealUp {b : Bool} {s0 s : State} {a0 a1} (h : Keeps b s0 s) :
    KeepsO b s0 (execLdSealUp a0 a1 s) := by
  unfold Sys2Proof.Machine.execLdSealUp
  repeat' first
    | with_reducible assumption
    | with_reducible exact Keeps.refl
    | with_reducible apply Keeps.ldReceive
    | with_reducible refine KeepsO.next ?_

theorem KeepsO.execLdSealDown {b : Bool} {s0 s : State} {a0 a1} (h : Keeps b s0 s) :
    KeepsO b s0 (execLdSealDown a0 a1 s) := by
  unfold Sys2Proof.Machine.execLdSealDown
  repeat' first
    | with_reducible assumption
    | with_reducible exact Keeps.refl
    | with_reducible apply Keeps.ldReceive
    | with_reducible refine KeepsO.next ?_

theorem Keeps.adoptEpoch {b : Bool} {s0 s : State} {a1 a2 a3} (h : Keeps b s0 s) :
    Keeps b s0 (State.adoptEpoch s a1 a2 a3) := by
  unfold Sys2Proof.Machine.State.adoptEpoch
  repeat' first
    | with_reducible assumption
    | with_reducible exact Keeps.refl
    | with_reducible apply Keeps.endColl
    | with_reducible apply Keeps.abandonStep
    | with_reducible apply Keeps.modPart
    | with_reducible apply Keeps.evSet
    | with_reducible apply KeepsOpt.ldTake
    | with_reducible apply Keeps.ldKeep
    | with_reducible apply Keeps.ldRetry
    | with_reducible refine Keeps.ite' (fun _ => ?_) (fun _ => ?_)
    | with_reducible refine Keeps.ite_fst (fun _ => ?_) (fun _ => ?_)
    | with_reducible refine Keeps.ite_snd (fun _ => ?_) (fun _ => ?_)
    | with_reducible refine Keeps.foldl' _ ?_ (fun _ _ _ => ?_)
    | with_reducible refine Keeps.foldl_fst _ ?_ (fun _ _ _ => ?_)
    | with_reducible refine Keeps.foldl_snd _ ?_ (fun _ _ _ => ?_)
    | split
    | refine KeepsOpt.ldTake ?_ _ (by assumption)

theorem Keeps.epochMsg {b : Bool} {s0 s : State} {a1 a2} (h : Keeps b s0 s) :
    Keeps b s0 (State.epochMsg s a1 a2).1 := by
  unfold Sys2Proof.Machine.State.epochMsg
  repeat' first
    | with_reducible assumption
    | with_reducible exact Keeps.refl
    | with_reducible apply KeepsOpt.tagAccess
    | with_reducible apply Keeps.adoptEpoch
    | split
    | (dsimp only; split)
    | refine KeepsOpt.tagAccess ?_ _ (by assumption)

theorem KeepsO.execMemberLost {b : Bool} {s0 s : State} {a0 a1} (h : Keeps b s0 s) :
    KeepsO b s0 (execMemberLost a0 a1 s) := by
  unfold Sys2Proof.Machine.execMemberLost
  repeat' first
    | with_reducible assumption
    | with_reducible exact Keeps.refl
    | with_reducible apply Keeps.memberLost
    | with_reducible refine KeepsO.next ?_

theorem KeepsO.execProbeDue {b : Bool} {s0 s : State} {a0 a1} (h : Keeps b s0 s) :
    KeepsO b s0 (execProbeDue a0 a1 s) := by
  unfold Sys2Proof.Machine.execProbeDue
  repeat' first
    | with_reducible assumption
    | with_reducible exact Keeps.refl
    | with_reducible apply Keeps.fabSend
    | with_reducible apply Keeps.lostRoute
    | with_reducible refine Keeps.ite' (fun _ => ?_) (fun _ => ?_)
    | with_reducible refine KeepsO.next ?_
    | with_reducible refine KeepsO.ite' (fun _ => ?_) (fun _ => ?_)
    | split
    | refine Keeps.of_fst (by assumption) ?_

theorem KeepsO.execLadleSramUe {b : Bool} {s0 s : State} {a0 a1} (h : Keeps b s0 s) :
    KeepsO b s0 (execLadleSramUe a0 a1 s) := by
  unfold Sys2Proof.Machine.execLadleSramUe
  repeat' first
    | with_reducible assumption
    | with_reducible exact Keeps.refl
    | with_reducible apply Keeps.faultMany
    | with_reducible apply Keeps.evErr
    | with_reducible refine KeepsO.next ?_

end Sys2Proof.Machine
end

