-- ==== Sys2Proof/Laws/Keeps/TrainStep.lean ====
section
/-! SUPPORT. What the operations of Machine/TrainStep.lean keep. -/
set_option Elab.async false

namespace Sys2Proof.Machine

theorem KeepsO.stepRow {b : Bool} {s0 s : State} {a1 a2 a3 a4} (h : Keeps b s0 s) (h4 : ∀ x0 x1, Keeps b s0 x1 → Keeps b s0 (a4 x0 x1)) :
    KeepsO b s0 (State.stepRow s a1 a2 a3 a4) := by
  unfold Sys2Proof.Machine.State.stepRow
  repeat' first
    | with_reducible assumption
    | with_reducible exact Keeps.refl
    | with_reducible refine h4 _ _ ?_
    | with_reducible refine Keeps.ite' (fun _ => ?_) (fun _ => ?_)
    | with_reducible refine KeepsO.next ?_
    | with_reducible refine KeepsO.ite' (fun _ => ?_) (fun _ => ?_)
    | split

theorem Keeps.setOut {b : Bool} {s0 s : State} {a1 a2 a3} (h : Keeps b s0 s) :
    Keeps b s0 (State.setOut s a1 a2 a3) := by
  unfold Sys2Proof.Machine.State.setOut
  repeat' first
    | with_reducible assumption
    | with_reducible exact Keeps.refl
    | with_reducible apply Keeps.modCmd

theorem Keeps.tapWrite {b : Bool} {s0 s : State} {a1 a2 a3 a4 a5} (h : Keeps b s0 s) :
    Keeps b s0 (State.tapWrite s a1 a2 a3 a4 a5) := by
  unfold Sys2Proof.Machine.State.tapWrite
  repeat' first
    | with_reducible assumption
    | with_reducible exact Keeps.refl
    | with_reducible apply Keeps.refuse
    | with_reducible apply Keeps.wr
    | with_reducible apply Keeps.modStep
    | with_reducible apply Keeps.vent
    | with_reducible apply Keeps.setOut
    | with_reducible refine Keeps.ite' (fun _ => ?_) (fun _ => ?_)
    | with_reducible refine Keeps.ite_fst (fun _ => ?_) (fun _ => ?_)
    | with_reducible refine Keeps.ite_snd (fun _ => ?_) (fun _ => ?_)
    | split
    | (dsimp only; split)

theorem Keeps.tapPump {b : Bool} {s0 s : State} {a1} (h : Keeps b s0 s) :
    Keeps b s0 (State.tapPump s a1) := by
  unfold Sys2Proof.Machine.State.tapPump
  repeat' first
    | with_reducible assumption
    | with_reducible exact Keeps.refl
    | with_reducible apply Keeps.tapWrite
    | with_reducible apply Keeps.modStep
    | with_reducible refine Keeps.ite' (fun _ => ?_) (fun _ => ?_)
    | split
    | (dsimp only; split)

theorem Keeps.fhBoundary {b : Bool} {s0 s : State} {a1} (h : Keeps b s0 s) :
    Keeps b s0 (State.fhBoundary s a1) := by
  unfold Sys2Proof.Machine.State.fhBoundary
  repeat' first
    | with_reducible assumption
    | with_reducible exact Keeps.refl
    | with_reducible apply Keeps.setHealth

theorem KeepsO.execStepCfg {b : Bool} {s0 s : State} {a0 a1} (h : Keeps b s0 s) :
    KeepsO b s0 (execStepCfg a0 a1 s) := by
  unfold Sys2Proof.Machine.execStepCfg
  repeat' first
    | with_reducible assumption
    | with_reducible exact Keeps.refl
    | with_reducible apply KeepsO.stepRow
    | with_reducible apply Keeps.setOut
    | with_reducible refine Keeps.setStk ?_ ?_
    | with_reducible apply Keeps.modStep
    | with_reducible apply Keeps.tapPump
    | with_reducible apply Keeps.fhBoundary
    | with_reducible refine Keeps.ite' (fun _ => ?_) (fun _ => ?_)
    | with_reducible refine KeepsO.next ?_
    | with_reducible refine KeepsO.ite' (fun _ => ?_) (fun _ => ?_)
    | with_reducible refine Keeps.ite_fst (fun _ => ?_) (fun _ => ?_)
    | with_reducible refine Keeps.ite_snd (fun _ => ?_) (fun _ => ?_)
    | exact id
    | exact fun c => ⟨c.1, c.2⟩
    | exact fun c => ⟨c.1, twf_filter _ _ c.2⟩
    | (intro _)

theorem KeepsO.execStepOpen {b : Bool} {s0 s : State} {a0 a1} (h : Keeps b s0 s) :
    KeepsO b s0 (execStepOpen a0 a1 s) := by
  unfold Sys2Proof.Machine.execStepOpen
  repeat' first
    | with_reducible assumption
    | with_reducible exact Keeps.refl
    | with_reducible apply KeepsO.stepRow
    | with_reducible apply Keeps.setOut
    | with_reducible apply Keeps.modStep
    | with_reducible refine KeepsO.next ?_
    | split
    | (intro _)

theorem KeepsO.execStepSeal {b : Bool} {s0 s : State} {a0 a1} (h : Keeps b s0 s) :
    KeepsO b s0 (execStepSeal a0 a1 s) := by
  unfold Sys2Proof.Machine.execStepSeal
  repeat' first
    | with_reducible assumption
    | with_reducible exact Keeps.refl
    | with_reducible apply KeepsO.stepRow
    | with_reducible apply Keeps.ldRetry
    | with_reducible apply Keeps.modStep
    | with_reducible apply Keeps.setOut
    | with_reducible refine Keeps.ite' (fun _ => ?_) (fun _ => ?_)
    | with_reducible refine KeepsO.next ?_
    | with_reducible refine KeepsO.ite' (fun _ => ?_) (fun _ => ?_)
    | with_reducible refine Keeps.ite_fst (fun _ => ?_) (fun _ => ?_)
    | with_reducible refine Keeps.ite_snd (fun _ => ?_) (fun _ => ?_)
    | split
    | (dsimp only; split)
    | (intro _)

theorem KeepsO.execSealEntry {b : Bool} {s0 s : State} {a0} (h : Keeps b s0 s) :
    KeepsO b s0 (execSealEntry a0 s) := by
  unfold Sys2Proof.Machine.execSealEntry
  repeat' first
    | with_reducible assumption
    | with_reducible exact Keeps.refl
    | with_reducible apply Keeps.fhBoundary
    | with_reducible apply Keeps.modStep
    | with_reducible apply Keeps.ldRetry
    | with_reducible apply Keeps.sealPump
    | with_reducible refine Keeps.ite' (fun _ => ?_) (fun _ => ?_)
    | with_reducible refine KeepsO.next ?_
    | with_reducible refine KeepsO.ite' (fun _ => ?_) (fun _ => ?_)
    | with_reducible refine Keeps.getD' ?_ ?_
    | split
    | (dsimp only; split)

theorem KeepsO.execSealComplete {b : Bool} {s0 s : State} {a0} (h : Keeps b s0 s) :
    KeepsO b s0 (execSealComplete a0 s) := by
  unfold Sys2Proof.Machine.execSealComplete
  repeat' first
    | with_reducible assumption
    | with_reducible exact Keeps.refl
    | with_reducible apply Keeps.abandonStep
    | with_reducible apply Keeps.decideUpdates
    | with_reducible apply Keeps.modStep
    | with_reducible apply Keeps.tapWrite
    | with_reducible refine Keeps.ite' (fun _ => ?_) (fun _ => ?_)
    | with_reducible refine KeepsO.next ?_
    | with_reducible refine KeepsO.ite' (fun _ => ?_) (fun _ => ?_)
    | with_reducible refine Keeps.ite_fst (fun _ => ?_) (fun _ => ?_)
    | with_reducible refine Keeps.ite_snd (fun _ => ?_) (fun _ => ?_)
    | split
    | (dsimp only; split)

theorem KeepsO.execSealTimeout {b : Bool} {s0 s : State} {a0} (h : Keeps b s0 s) :
    KeepsO b s0 (execSealTimeout a0 s) := by
  unfold Sys2Proof.Machine.execSealTimeout
  repeat' first
    | with_reducible assumption
    | with_reducible exact Keeps.refl
    | with_reducible apply Keeps.abandonStep
    | with_reducible refine Keeps.ite' (fun _ => ?_) (fun _ => ?_)
    | with_reducible refine KeepsO.next ?_
    | with_reducible refine KeepsO.ite' (fun _ => ?_) (fun _ => ?_)
    | split

theorem Keeps.tapMsg {b : Bool} {s0 s : State} {a1 a2 a3} (h : Keeps b s0 s) :
    Keeps b s0 (State.tapMsg s a1 a2 a3).1 := by
  unfold Sys2Proof.Machine.State.tapMsg
  repeat' first
    | with_reducible assumption
    | with_reducible exact Keeps.refl
    | with_reducible apply Keeps.tapPump
    | with_reducible apply Keeps.respond
    | with_reducible apply Keeps.modStep
    | with_reducible refine Keeps.ite' (fun _ => ?_) (fun _ => ?_)
    | with_reducible refine Keeps.ite_fst (fun _ => ?_) (fun _ => ?_)

theorem Keeps.ckptMarks {b : Bool} {s0 s : State} {a1 a2 a3} (h : Keeps b s0 s) :
    Keeps b s0 (State.ckptMarks s a1 a2 a3) := by
  unfold Sys2Proof.Machine.State.ckptMarks
  repeat' first
    | with_reducible assumption
    | with_reducible exact Keeps.refl
    | with_reducible refine Keeps.setStk ?_ ?_
    | exact id
    | exact fun c => ⟨c.1, c.2⟩

theorem Keeps.storeSend {b : Bool} {s0 s : State} {a1 a2 a3 a4 a5 a6 a7} (h : Keeps b s0 s) :
    Keeps b s0 (State.storeSend s a1 a2 a3 a4 a5 a6 a7) := by
  unfold Sys2Proof.Machine.State.storeSend
  repeat' first
    | with_reducible assumption
    | with_reducible exact Keeps.refl
    | with_reducible refine Keeps.setFabric ?_ ?_
    | with_reducible apply Keeps.fabSend
    | exact id

theorem Keeps.storeRun {b : Bool} {s0 s : State} {a1 a2 a3 a4 a5} (h : Keeps b s0 s) :
    Keeps b s0 (State.storeRun s a1 a2 a3 a4 a5) := by
  unfold Sys2Proof.Machine.State.storeRun
  repeat' first
    | with_reducible assumption
    | with_reducible exact Keeps.refl
    | with_reducible apply Keeps.storeSend
    | with_reducible refine Keeps.forN' _ ?_ (fun _ _ _ => ?_)

theorem Keeps.savePut {b : Bool} {s0 s : State} {a1 a2 a3} (h : Keeps b s0 s) :
    Keeps b s0 (State.savePut s a1 a2 a3) := by
  unfold Sys2Proof.Machine.State.savePut
  repeat' first
    | with_reducible assumption
    | with_reducible exact Keeps.refl
    | with_reducible apply Keeps.setBytes
    | with_reducible apply Keeps.storeRun
    | with_reducible refine Keeps.ite' (fun _ => ?_) (fun _ => ?_)

theorem KeepsO.execCkptSave {b : Bool} {s0 s : State} {a0 a1} (h : Keeps b s0 s) :
    KeepsO b s0 (execCkptSave a0 a1 s) := by
  unfold Sys2Proof.Machine.execCkptSave
  repeat' first
    | with_reducible assumption
    | with_reducible exact Keeps.refl
    | with_reducible apply KeepsO.stepRow
    | with_reducible apply KeepsOpt.tagAccess
    | with_reducible apply Keeps.modCmd
    | with_reducible refine Keeps.setStk ?_ ?_
    | with_reducible apply Keeps.savePut
    | with_reducible apply Keeps.setOut
    | with_reducible refine Keeps.ite' (fun _ => ?_) (fun _ => ?_)
    | with_reducible refine KeepsO.next ?_
    | with_reducible refine KeepsO.ite' (fun _ => ?_) (fun _ => ?_)
    | with_reducible refine Keeps.ite_fst (fun _ => ?_) (fun _ => ?_)
    | with_reducible refine Keeps.ite_snd (fun _ => ?_) (fun _ => ?_)
    | with_reducible refine Keeps.foldl' _ ?_ (fun _ _ _ => ?_)
    | with_reducible refine Keeps.foldl_fst _ ?_ (fun _ _ _ => ?_)
    | with_reducible refine Keeps.foldl_snd _ ?_ (fun _ _ _ => ?_)
    | split
    | (dsimp only; split)
    | refine KeepsOpt.tagAccess ?_ _ (by assumption)
    | exact id
    | exact fun c => ⟨c.1, c.2⟩
    | exact fun c => ⟨c.1, twf_filter _ _ c.2⟩
    | (intro _)

theorem Keeps.storeReads {b : Bool} {s0 s : State} {a1 a2 a3 a4 a5} (h : Keeps b s0 s) :
    Keeps b s0 (State.storeReads s a1 a2 a3 a4 a5) := by
  unfold Sys2Proof.Machine.State.storeReads
  repeat' first
    | with_reducible assumption
    | with_reducible exact Keeps.refl
    | with_reducible apply Keeps.storeSend
    | with_reducible refine Keeps.forN' _ ?_ (fun _ _ _ => ?_)

theorem KeepsO.execCkptLoad {b : Bool} {s0 s : State} {a0 a1} (h : Keeps b s0 s) :
    KeepsO b s0 (execCkptLoad a0 a1 s) := by
  unfold Sys2Proof.Machine.execCkptLoad
  repeat' first
    | with_reducible assumption
    | with_reducible exact Keeps.refl
    | with_reducible apply KeepsO.stepRow
    | with_reducible apply Keeps.setOut
    | with_reducible apply KeepsOpt.tagAccess
    | with_reducible apply Keeps.wr
    | with_reducible apply Keeps.modCmd
    | with_reducible apply Keeps.storeReads
    | with_reducible refine Keeps.ite' (fun _ => ?_) (fun _ => ?_)
    | with_reducible refine KeepsO.next ?_
    | with_reducible refine KeepsO.ite' (fun _ => ?_) (fun _ => ?_)
    | with_reducible refine Keeps.ite_fst (fun _ => ?_) (fun _ => ?_)
    | with_reducible refine Keeps.ite_snd (fun _ => ?_) (fun _ => ?_)
    | with_reducible refine Keeps.foldl' _ ?_ (fun _ _ _ => ?_)
    | with_reducible refine Keeps.foldl_fst _ ?_ (fun _ _ _ => ?_)
    | with_reducible refine Keeps.foldl_snd _ ?_ (fun _ _ _ => ?_)
    | with_reducible refine Keeps.forN' _ ?_ (fun _ _ _ => ?_)
    | with_reducible refine Keeps.forN_fst _ ?_ (fun _ _ _ => ?_)
    | with_reducible refine Keeps.forN_snd _ ?_ (fun _ _ _ => ?_)
    | split
    | (dsimp only; split)
    | refine KeepsOpt.tagAccess ?_ _ (by assumption)
    | (intro _)

theorem Keeps.loadMore {b : Bool} {s0 s : State} {a1 a2} (h : Keeps b s0 s) :
    Keeps b s0 (State.loadMore s a1 a2) := by
  unfold Sys2Proof.Machine.State.loadMore
  repeat' first
    | with_reducible assumption
    | with_reducible exact Keeps.refl
    | with_reducible apply Keeps.setOut
    | with_reducible apply Keeps.storeReads
    | with_reducible apply Keeps.modCmd
    | with_reducible refine Keeps.ite' (fun _ => ?_) (fun _ => ?_)
    | with_reducible refine Keeps.foldl' _ ?_ (fun _ _ _ => ?_)

theorem Keeps.storeEnd {b : Bool} {s0 s : State} {a1 a2 a3} (h : Keeps b s0 s) :
    Keeps b s0 (State.storeEnd s a1 a2 a3) := by
  unfold Sys2Proof.Machine.State.storeEnd
  repeat' first
    | with_reducible assumption
    | with_reducible exact Keeps.refl
    | with_reducible apply Keeps.setOut
    | with_reducible refine Keeps.setFabric ?_ ?_
    | exact id

theorem Keeps.storeDone {b : Bool} {s0 s : State} {a1} (h : Keeps b s0 s) :
    Keeps b s0 (State.storeDone s a1) := by
  unfold Sys2Proof.Machine.State.storeDone
  repeat' first
    | with_reducible assumption
    | with_reducible exact Keeps.refl
    | with_reducible refine Keeps.setFabric ?_ ?_
    | with_reducible apply Keeps.loadMore
    | with_reducible apply Keeps.setOut
    | with_reducible refine Keeps.ite' (fun _ => ?_) (fun _ => ?_)
    | split
    | exact id

theorem Keeps.storeAck {b : Bool} {s0 s : State} {a1} (h : Keeps b s0 s) :
    Keeps b s0 (State.storeAck s a1) := by
  unfold Sys2Proof.Machine.State.storeAck
  repeat' first
    | with_reducible assumption
    | with_reducible exact Keeps.refl
    | with_reducible apply Keeps.storeDone
    | with_reducible apply Keeps.storeEnd
    | with_reducible refine Keeps.ite' (fun _ => ?_) (fun _ => ?_)
    | split

theorem Keeps.storeLay {b : Bool} {s0 s : State} {a1 a2 a3} (h : Keeps b s0 s) :
    Keeps b s0 (State.storeLay s a1 a2 a3) := by
  unfold Sys2Proof.Machine.State.storeLay
  repeat' first
    | with_reducible assumption
    | with_reducible exact Keeps.refl
    | with_reducible apply Keeps.refuse
    | with_reducible apply Keeps.storeDone
    | with_reducible apply Keeps.wr
    | split

theorem Keeps.storeData {b : Bool} {s0 s : State} {a1} (h : Keeps b s0 s) :
    Keeps b s0 (State.storeData s a1) := by
  unfold Sys2Proof.Machine.State.storeData
  repeat' first
    | with_reducible assumption
    | with_reducible exact Keeps.refl
    | with_reducible apply Keeps.storeLay
    | split

theorem KeepsO.execStoreTimeout {b : Bool} {s0 s : State} {a0 a1} (h : Keeps b s0 s) :
    KeepsO b s0 (execStoreTimeout a0 a1 s) := by
  unfold Sys2Proof.Machine.execStoreTimeout
  repeat' first
    | with_reducible assumption
    | with_reducible exact Keeps.refl
    | with_reducible apply Keeps.storeEnd
    | with_reducible refine Keeps.ite' (fun _ => ?_) (fun _ => ?_)
    | with_reducible refine KeepsO.next ?_
    | with_reducible refine KeepsO.ite' (fun _ => ?_) (fun _ => ?_)

end Sys2Proof.Machine
end

