-- ==== Sys2Proof/Laws/Keeps/Sched.lean ====
section
/-! SUPPORT. What the operations of Machine/Sched.lean keep. -/
set_option Elab.async false

namespace Sys2Proof.Machine

theorem Keeps.quench {b : Bool} {s0 s : State} {a1 a2 a3} (h : Keeps b s0 s) :
    Keeps b s0 (State.quench s a1 a2 a3) := by
  unfold Sys2Proof.Machine.State.quench
  repeat' first
    | with_reducible assumption
    | with_reducible exact Keeps.refl
    | with_reducible apply Keeps.modCmd
    | with_reducible apply Keeps.modUnit
    | with_reducible refine Keeps.ite' (fun _ => ?_) (fun _ => ?_)
    | with_reducible refine Keeps.foldl' _ ?_ (fun _ _ _ => ?_)

theorem Keeps.quenchDecision {b : Bool} {s0 s : State} {a1 a2 a3} (h : Keeps b s0 s) :
    Keeps b s0 (State.quenchDecision s a1 a2 a3) := by
  unfold Sys2Proof.Machine.State.quenchDecision
  repeat' first
    | with_reducible assumption
    | with_reducible exact Keeps.refl
    | with_reducible apply Keeps.quench
    | with_reducible refine Keeps.ite' (fun _ => ?_) (fun _ => ?_)
    | with_reducible refine Keeps.getD' ?_ ?_
    | with_reducible refine Keeps.foldl' _ ?_ (fun _ _ _ => ?_)

theorem Keeps.requench {b : Bool} {s0 s : State} {a1} (h : Keeps b s0 s) :
    Keeps b s0 (State.requench s a1) := by
  unfold Sys2Proof.Machine.State.requench
  repeat' first
    | with_reducible assumption
    | with_reducible exact Keeps.refl
    | with_reducible apply Keeps.quenchDecision
    | with_reducible refine Keeps.ite' (fun _ => ?_) (fun _ => ?_)
    | with_reducible refine Keeps.foldl' _ ?_ (fun _ _ _ => ?_)
    | with_reducible refine Keeps.foldl_fst _ ?_ (fun _ _ _ => ?_)
    | with_reducible refine Keeps.foldl_snd _ ?_ (fun _ _ _ => ?_)
    | split

theorem Keeps.pausePump {b : Bool} {s0 s : State} {a1 a2} (h : Keeps b s0 s) :
    Keeps b s0 (State.pausePump s a1 a2) := by
  unfold Sys2Proof.Machine.State.pausePump
  repeat' first
    | with_reducible assumption
    | with_reducible exact Keeps.refl
    | with_reducible apply Keeps.respond
    | with_reducible apply Keeps.setPart
    | with_reducible refine Keeps.ite' (fun _ => ?_) (fun _ => ?_)
    | split
    | (dsimp only; split)

theorem Keeps.refuseCmd {b : Bool} {s0 s : State} {a1 a2 a3} (h : Keeps b s0 s) :
    Keeps b s0 (State.refuseCmd s a1 a2 a3) := by
  unfold Sys2Proof.Machine.State.refuseCmd
  repeat' first
    | with_reducible assumption
    | with_reducible exact Keeps.refl
    | with_reducible apply Keeps.pausePump
    | with_reducible apply Keeps.answerCmd

theorem Keeps.started {b : Bool} {s0 s : State} {a1 a2 a3 a4} (h : Keeps b s0 s) :
    Keeps b s0 (State.started s a1 a2 a3 a4) := by
  unfold Sys2Proof.Machine.State.started
  repeat' first
    | with_reducible assumption
    | with_reducible exact Keeps.refl
    | with_reducible apply Keeps.moves
    | with_reducible apply Keeps.modCmd
    | with_reducible apply Keeps.modPart
    | with_reducible apply Keeps.startUnits
    | with_reducible refine Keeps.ite' (fun _ => ?_) (fun _ => ?_)
    | split
    | (dsimp only; split)

theorem Keeps.startFree {b : Bool} {s0 s : State} {a1 a2} (h : Keeps b s0 s) :
    Keeps b s0 (State.startFree s a1 a2) := by
  unfold Sys2Proof.Machine.State.startFree
  repeat' first
    | with_reducible assumption
    | with_reducible exact Keeps.refl
    | with_reducible apply Keeps.started
    | with_reducible apply Keeps.moves
    | with_reducible apply Keeps.movesBytes
    | with_reducible apply Keeps.setFumQ
    | with_reducible apply Keeps.refuseCmd
    | with_reducible apply Keeps.ldLimit
    | with_reducible apply Keeps.ldBegin
    | with_reducible apply Keeps.ckptMarks
    | with_reducible refine Keeps.ite' (fun _ => ?_) (fun _ => ?_)
    | with_reducible refine Keeps.ite_fst (fun _ => ?_) (fun _ => ?_)
    | with_reducible refine Keeps.ite_snd (fun _ => ?_) (fun _ => ?_)
    | with_reducible refine Keeps.forN' _ ?_ (fun _ _ _ => ?_)
    | with_reducible refine Keeps.forN_fst _ ?_ (fun _ _ _ => ?_)
    | with_reducible refine Keeps.forN_snd _ ?_ (fun _ _ _ => ?_)
    | split

theorem Keeps.tryStart {b : Bool} {s0 s : State} {a1 a2} (h : Keeps b s0 s) :
    Keeps b s0 (State.tryStart s a1 a2) := by
  unfold Sys2Proof.Machine.State.tryStart
  repeat' first
    | with_reducible assumption
    | with_reducible exact Keeps.refl
    | with_reducible apply KeepsOpt.tagAccess
    | with_reducible apply Keeps.refuseCmd
    | with_reducible apply Keeps.startFree
    | with_reducible apply Keeps.started
    | with_reducible apply Keeps.quenchDecision
    | with_reducible refine Keeps.ite' (fun _ => ?_) (fun _ => ?_)
    | split
    | refine KeepsOpt.tagAccess ?_ _ (by assumption)

theorem KeepsO.execCommandReady {b : Bool} {s0 s : State} {a0 a1} (h : Keeps b s0 s) :
    KeepsO b s0 (execCommandReady a0 a1 s) := by
  unfold Sys2Proof.Machine.execCommandReady
  repeat' first
    | with_reducible assumption
    | with_reducible exact Keeps.refl
    | with_reducible apply Keeps.refuseCmd
    | with_reducible apply Keeps.tryStart
    | with_reducible apply Keeps.modCmd
    | with_reducible refine Keeps.ite' (fun _ => ?_) (fun _ => ?_)
    | with_reducible refine KeepsO.next ?_
    | with_reducible refine KeepsO.ite' (fun _ => ?_) (fun _ => ?_)
    | split

theorem Keeps.lateness {b : Bool} {s0 s : State} {a1 a2} (h : Keeps b s0 s) :
    Keeps b s0 (State.lateness s a1 a2).1 := by
  unfold Sys2Proof.Machine.State.lateness
  repeat' first
    | with_reducible assumption
    | with_reducible exact Keeps.refl
    | with_reducible apply Keeps.evSet
    | with_reducible apply Keeps.count32
    | with_reducible refine Keeps.ite' (fun _ => ?_) (fun _ => ?_)
    | with_reducible refine Keeps.ite_fst (fun _ => ?_) (fun _ => ?_)

theorem Keeps.noteLong {b : Bool} {s0 s : State} {a1 a2} (h : Keeps b s0 s) :
    Keeps b s0 (State.noteLong s a1 a2) := by
  unfold Sys2Proof.Machine.State.noteLong
  repeat' first
    | with_reducible assumption
    | with_reducible exact Keeps.refl
    | with_reducible apply Keeps.modRed
    | with_reducible refine Keeps.ite' (fun _ => ?_) (fun _ => ?_)
    | split

theorem Keeps.completeCmd {b : Bool} {s0 s : State} {a1 a2 a3} (h : Keeps b s0 s) :
    Keeps b s0 (State.completeCmd s a1 a2 a3) := by
  unfold Sys2Proof.Machine.State.completeCmd
  repeat' first
    | with_reducible assumption
    | with_reducible exact Keeps.refl
    | with_reducible apply Keeps.lateness
    | with_reducible apply Keeps.noteLong
    | with_reducible apply Keeps.setPg
    | with_reducible apply Keeps.modUnit
    | with_reducible refine Keeps.setStk ?_ ?_
    | with_reducible apply Keeps.answerCmd
    | with_reducible apply Keeps.requench
    | with_reducible apply Keeps.pausePump
    | with_reducible refine Keeps.ite' (fun _ => ?_) (fun _ => ?_)
    | with_reducible refine Keeps.ite_fst (fun _ => ?_) (fun _ => ?_)
    | with_reducible refine Keeps.ite_snd (fun _ => ?_) (fun _ => ?_)
    | with_reducible refine Keeps.foldl' _ ?_ (fun _ _ _ => ?_)

theorem Keeps.endedNow {b : Bool} {s0 s a1 : State} {a2} (h : Keeps b s0 s) :
    Keeps b s0 (State.endedNow a1 s a2) := by
  unfold Sys2Proof.Machine.State.endedNow
  repeat' first
    | with_reducible assumption
    | with_reducible exact Keeps.refl
    | with_reducible apply Keeps.completeCmd
    | with_reducible refine Keeps.foldl' _ ?_ (fun _ _ _ => ?_)
    | with_reducible refine Keeps.foldl_fst _ ?_ (fun _ _ _ => ?_)
    | with_reducible refine Keeps.foldl_snd _ ?_ (fun _ _ _ => ?_)
    | split

theorem KeepsO.execCommandComplete {b : Bool} {s0 s : State} {a0 a1} (h : Keeps b s0 s) :
    KeepsO b s0 (execCommandComplete a0 a1 s) := by
  unfold Sys2Proof.Machine.execCommandComplete
  repeat' first
    | with_reducible assumption
    | with_reducible exact Keeps.refl
    | with_reducible apply Keeps.completeCmd
    | with_reducible refine Keeps.ite' (fun _ => ?_) (fun _ => ?_)
    | with_reducible refine KeepsO.next ?_
    | with_reducible refine KeepsO.ite' (fun _ => ?_) (fun _ => ?_)
    | split

theorem Keeps.saveUnit {b : Bool} {s0 s : State} {a1 a2 a3} (h : Keeps b s0 s) :
    Keeps b s0 (State.saveUnit s a1 a2 a3) := by
  unfold Sys2Proof.Machine.State.saveUnit
  repeat' first
    | with_reducible assumption
    | with_reducible exact Keeps.refl
    | with_reducible refine Keeps.setFresh ?_ ?_
    | with_reducible apply Keeps.wr
    | with_reducible apply Keeps.modUnit
    | with_reducible apply Keeps.modCmd
    | with_reducible refine Keeps.forN' _ ?_ (fun _ _ _ => ?_)
    | with_reducible refine Keeps.forN_fst _ ?_ (fun _ _ _ => ?_)
    | with_reducible refine Keeps.forN_snd _ ?_ (fun _ _ _ => ?_)
    | exact Nat.le_add_right _ _

theorem Keeps.unitsDone {b : Bool} {s0 s : State} {a1} (h : Keeps b s0 s) :
    Keeps b s0 (State.unitsDone s a1) := by
  unfold Sys2Proof.Machine.State.unitsDone
  repeat' first
    | with_reducible assumption
    | with_reducible exact Keeps.refl
    | with_reducible apply Keeps.evSet
    | with_reducible refine Keeps.ite' (fun _ => ?_) (fun _ => ?_)
    | with_reducible refine Keeps.foldl' _ ?_ (fun _ _ _ => ?_)

theorem KeepsO.execQuenchSaveDone {b : Bool} {s0 s : State} {a0 a1} (h : Keeps b s0 s) :
    KeepsO b s0 (execQuenchSaveDone a0 a1 s) := by
  unfold Sys2Proof.Machine.execQuenchSaveDone
  repeat' first
    | with_reducible assumption
    | with_reducible exact Keeps.refl
    | with_reducible apply Keeps.saveUnit
    | with_reducible apply Keeps.refuse
    | with_reducible apply Keeps.modCmd
    | with_reducible apply Keeps.unitsDone
    | with_reducible apply Keeps.evSet
    | with_reducible apply Keeps.count32
    | with_reducible apply Keeps.vent
    | with_reducible apply Keeps.pausePump
    | with_reducible refine Keeps.ite' (fun _ => ?_) (fun _ => ?_)
    | with_reducible refine KeepsO.next ?_
    | with_reducible refine KeepsO.ite' (fun _ => ?_) (fun _ => ?_)
    | with_reducible refine Keeps.foldl' _ ?_ (fun _ _ _ => ?_)
    | with_reducible refine Keeps.foldl_fst _ ?_ (fun _ _ _ => ?_)
    | with_reducible refine Keeps.foldl_snd _ ?_ (fun _ _ _ => ?_)
    | split
    | (dsimp only; split)

theorem Keeps.restoreUnit {b : Bool} {s0 s : State} {a1 a2 a3} (h : Keeps b s0 s) :
    Keeps b s0 (State.restoreUnit s a1 a2 a3) := by
  unfold Sys2Proof.Machine.State.restoreUnit
  repeat' first
    | with_reducible assumption
    | with_reducible exact Keeps.refl
    | with_reducible refine Keeps.setFresh ?_ ?_
    | with_reducible apply Keeps.modUnit
    | with_reducible refine Keeps.ite' (fun _ => ?_) (fun _ => ?_)
    | exact Nat.le_add_right _ _

theorem Keeps.resumed {b : Bool} {s0 s : State} {a1} (h : Keeps b s0 s) :
    Keeps b s0 (State.resumed s a1) := by
  unfold Sys2Proof.Machine.State.resumed
  repeat' first
    | with_reducible assumption
    | with_reducible exact Keeps.refl
    | with_reducible apply Keeps.afterIssue
    | with_reducible refine Keeps.foldl' _ ?_ (fun _ _ _ => ?_)

theorem KeepsO.execQuenchRestoreDone {b : Bool} {s0 s : State} {a0 a1} (h : Keeps b s0 s) :
    KeepsO b s0 (execQuenchRestoreDone a0 a1 s) := by
  unfold Sys2Proof.Machine.execQuenchRestoreDone
  repeat' first
    | with_reducible assumption
    | with_reducible exact Keeps.refl
    | with_reducible apply KeepsOpt.tagAccess
    | with_reducible apply Keeps.startUnits
    | with_reducible apply Keeps.unitsDone
    | with_reducible apply Keeps.restoreUnit
    | with_reducible apply Keeps.modCmd
    | with_reducible apply Keeps.resumed
    | with_reducible apply Keeps.quench
    | with_reducible apply Keeps.requench
    | with_reducible refine Keeps.ite' (fun _ => ?_) (fun _ => ?_)
    | with_reducible refine KeepsO.next ?_
    | with_reducible refine KeepsO.ite' (fun _ => ?_) (fun _ => ?_)
    | with_reducible refine Keeps.ite_fst (fun _ => ?_) (fun _ => ?_)
    | with_reducible refine Keeps.ite_snd (fun _ => ?_) (fun _ => ?_)
    | with_reducible refine Keeps.foldl' _ ?_ (fun _ _ _ => ?_)
    | with_reducible refine Keeps.foldl_fst _ ?_ (fun _ _ _ => ?_)
    | with_reducible refine Keeps.foldl_snd _ ?_ (fun _ _ _ => ?_)
    | split
    | refine KeepsOpt.tagAccess ?_ _ (by assumption)

theorem KeepsO.execMemCopy {b : Bool} {s0 s : State} {a0 a1} (h : Keeps b s0 s) :
    KeepsO b s0 (execMemCopy a0 a1 s) := by
  unfold Sys2Proof.Machine.execMemCopy
  repeat' first
    | with_reducible assumption
    | with_reducible exact Keeps.refl
    | with_reducible apply Keeps.setOut
    | with_reducible apply Keeps.wr
    | with_reducible apply Keeps.modCmd
    | with_reducible apply Keeps.dramPoison
    | with_reducible refine Keeps.setFresh ?_ ?_
    | with_reducible apply Keeps.refuse
    | with_reducible refine Keeps.ite' (fun _ => ?_) (fun _ => ?_)
    | with_reducible refine KeepsO.next ?_
    | with_reducible refine KeepsO.ite' (fun _ => ?_) (fun _ => ?_)
    | split
    | (dsimp only; split)
    | exact Nat.le_add_right _ _

theorem KeepsO.execDvfsApply {b : Bool} {s0 s : State} {a0} (h : Keeps b s0 s) :
    KeepsO b s0 (execDvfsApply a0 s) := by
  unfold Sys2Proof.Machine.execDvfsApply
  repeat' first
    | with_reducible assumption
    | with_reducible exact Keeps.refl
    | with_reducible refine Keeps.modDie ?_ ?_
    | with_reducible apply Keeps.count32
    | with_reducible apply Keeps.evSet
    | with_reducible refine Keeps.ite' (fun _ => ?_) (fun _ => ?_)
    | with_reducible refine KeepsO.next ?_
    | with_reducible refine KeepsO.ite' (fun _ => ?_) (fun _ => ?_)
    | exact rfl
    | exact fun _ => rfl

end Sys2Proof.Machine
end

