-- ==== Sys2Proof/Laws/Keeps/Serving.lean ====
section
/-! SUPPORT. What the operations of Machine/Serving.lean keep. -/
set_option Elab.async false

namespace Sys2Proof.Machine

theorem Keeps.putTable {b : Bool} {s0 s : State} {a1 a2} (h : Keeps b s0 s) :
    Keeps b s0 (State.putTable s a1 a2) := by
  unfold Sys2Proof.Machine.State.putTable
  repeat' first
    | with_reducible assumption
    | with_reducible exact Keeps.refl
    | with_reducible apply Keeps.setBytes
    | with_reducible refine Keeps.forN' _ ?_ (fun _ _ _ => ?_)
    | with_reducible refine Keeps.forN_fst _ ?_ (fun _ _ _ => ?_)
    | with_reducible refine Keeps.forN_snd _ ?_ (fun _ _ _ => ?_)
    | split

theorem Keeps.putMaps {b : Bool} {s0 s : State} {a1 a2} (h : Keeps b s0 s) :
    Keeps b s0 (State.putMaps s a1 a2) := by
  unfold Sys2Proof.Machine.State.putMaps
  repeat' first
    | with_reducible assumption
    | with_reducible exact Keeps.refl
    | with_reducible apply Keeps.setBytes
    | with_reducible refine Keeps.forN' _ ?_ (fun _ _ _ => ?_)

theorem Keeps.kvRows {b : Bool} {s0 s : State} {a1 a2} (h : Keeps b s0 s) :
    Keeps b s0 (State.kvRows s a1 a2) := by
  unfold Sys2Proof.Machine.State.kvRows
  repeat' first
    | with_reducible assumption
    | with_reducible exact Keeps.refl
    | with_reducible refine Keeps.setFresh ?_ ?_
    | with_reducible apply Keeps.setByte
    | with_reducible refine Keeps.forN' _ ?_ (fun _ _ _ => ?_)
    | with_reducible refine Keeps.forN_fst _ ?_ (fun _ _ _ => ?_)
    | with_reducible refine Keeps.forN_snd _ ?_ (fun _ _ _ => ?_)
    | exact Nat.le_add_right _ _

theorem Keeps.putRecord {b : Bool} {s0 s : State} {a1 a2} (h : Keeps b s0 s) :
    Keeps b s0 (State.putRecord s a1 a2) := by
  unfold Sys2Proof.Machine.State.putRecord
  repeat' first
    | with_reducible assumption
    | with_reducible exact Keeps.refl
    | with_reducible apply Keeps.setBytes
    | with_reducible refine Keeps.forN' _ ?_ (fun _ _ _ => ?_)

theorem Keeps.copyOut {b : Bool} {s0 s : State} {a1 a2} (h : Keeps b s0 s) :
    Keeps b s0 (State.copyOut s a1 a2) := by
  unfold Sys2Proof.Machine.State.copyOut
  repeat' first
    | with_reducible assumption
    | with_reducible exact Keeps.refl
    | with_reducible apply Keeps.setBytes
    | with_reducible refine Keeps.foldl' _ ?_ (fun _ _ _ => ?_)
    | with_reducible refine Keeps.foldl_fst _ ?_ (fun _ _ _ => ?_)
    | with_reducible refine Keeps.foldl_snd _ ?_ (fun _ _ _ => ?_)
    | with_reducible refine Keeps.forN' _ ?_ (fun _ _ _ => ?_)

theorem Keeps.copyIn {b : Bool} {s0 s : State} {a1 a2} (h : Keeps b s0 s) :
    Keeps b s0 (State.copyIn s a1 a2) := by
  unfold Sys2Proof.Machine.State.copyIn
  repeat' first
    | with_reducible assumption
    | with_reducible exact Keeps.refl
    | with_reducible apply Keeps.setBytes
    | with_reducible refine Keeps.foldl' _ ?_ (fun _ _ _ => ?_)
    | with_reducible refine Keeps.foldl_fst _ ?_ (fun _ _ _ => ?_)
    | with_reducible refine Keeps.foldl_snd _ ?_ (fun _ _ _ => ?_)
    | with_reducible refine Keeps.forN' _ ?_ (fun _ _ _ => ?_)

theorem Keeps.svCfgMsg {b : Bool} {s0 s : State} {a1 a2} (h : Keeps b s0 s) :
    Keeps b s0 (State.svCfgMsg s a1 a2).1 := by
  unfold Sys2Proof.Machine.State.svCfgMsg
  repeat' first
    | with_reducible assumption
    | with_reducible exact Keeps.refl
    | with_reducible apply Keeps.modPart
    | with_reducible apply KeepsOpt.tagAccess
    | with_reducible refine Keeps.ite' (fun _ => ?_) (fun _ => ?_)
    | with_reducible refine Keeps.ite_fst (fun _ => ?_) (fun _ => ?_)
    | with_reducible refine Keeps.ite_snd (fun _ => ?_) (fun _ => ?_)
    | split
    | (dsimp only; split)
    | refine KeepsOpt.tagAccess ?_ _ (by assumption)

theorem KeepsO.execSvVariantLoad {b : Bool} {s0 s : State} {a0 a1} (h : Keeps b s0 s) :
    KeepsO b s0 (execSvVariantLoad a0 a1 s) := by
  unfold Sys2Proof.Machine.execSvVariantLoad
  repeat' first
    | with_reducible assumption
    | with_reducible exact Keeps.refl
    | with_reducible apply KeepsO.stepRow
    | with_reducible apply KeepsOpt.tagAccess
    | with_reducible apply Keeps.wr
    | with_reducible apply Keeps.setOut
    | with_reducible apply Keeps.modPart
    | with_reducible refine KeepsO.next ?_
    | with_reducible refine Keeps.forN' _ ?_ (fun _ _ _ => ?_)
    | with_reducible refine Keeps.forN_fst _ ?_ (fun _ _ _ => ?_)
    | with_reducible refine Keeps.forN_snd _ ?_ (fun _ _ _ => ?_)
    | split
    | (dsimp only; split)
    | refine KeepsOpt.tagAccess ?_ _ (by assumption)
    | (intro _)

theorem Keeps.modServ {b : Bool} {s0 s : State} {a1 a2} (h : Keeps b s0 s) :
    Keeps b s0 (State.modServ s a1 a2) := by
  unfold Sys2Proof.Machine.State.modServ
  repeat' first
    | with_reducible assumption
    | with_reducible exact Keeps.refl
    | with_reducible apply Keeps.modPart

theorem Keeps.svSubmitMsg {b : Bool} {s0 s : State} {a1 a2} (h : Keeps b s0 s) :
    Keeps b s0 (State.svSubmitMsg s a1 a2).1 := by
  unfold Sys2Proof.Machine.State.svSubmitMsg
  repeat' first
    | with_reducible assumption
    | with_reducible exact Keeps.refl
    | with_reducible apply KeepsOpt.tagAccess
    | with_reducible apply Keeps.modServ
    | with_reducible refine Keeps.ite' (fun _ => ?_) (fun _ => ?_)
    | with_reducible refine Keeps.ite_fst (fun _ => ?_) (fun _ => ?_)
    | with_reducible refine Keeps.ite_snd (fun _ => ?_) (fun _ => ?_)
    | split
    | (dsimp only; split)
    | refine KeepsOpt.tagAccess ?_ _ (by assumption)

theorem Keeps.svCancelMsg {b : Bool} {s0 s : State} {a1 a2} (h : Keeps b s0 s) :
    Keeps b s0 (State.svCancelMsg s a1 a2).1 := by
  unfold Sys2Proof.Machine.State.svCancelMsg
  repeat' first
    | with_reducible assumption
    | with_reducible exact Keeps.refl
    | with_reducible apply Keeps.modServ
    | with_reducible refine Keeps.ite' (fun _ => ?_) (fun _ => ?_)
    | with_reducible refine Keeps.ite_fst (fun _ => ?_) (fun _ => ?_)

theorem Keeps.svForgetMsg {b : Bool} {s0 s : State} {a1 a2} (h : Keeps b s0 s) :
    Keeps b s0 (State.svForgetMsg s a1 a2).1 := by
  unfold Sys2Proof.Machine.State.svForgetMsg
  repeat' first
    | with_reducible assumption
    | with_reducible exact Keeps.refl
    | with_reducible apply Keeps.modServ
    | with_reducible refine Keeps.ite' (fun _ => ?_) (fun _ => ?_)
    | with_reducible refine Keeps.ite_fst (fun _ => ?_) (fun _ => ?_)

theorem KeepsO.execStepBoundary {b : Bool} {s0 s : State} {a0} (h : Keeps b s0 s) :
    KeepsO b s0 (execStepBoundary a0 s) := by
  unfold Sys2Proof.Machine.execStepBoundary
  repeat' first
    | with_reducible assumption
    | with_reducible exact Keeps.refl
    | with_reducible apply KeepsOpt.tagAccess
    | with_reducible apply Keeps.vent
    | with_reducible apply Keeps.putTable
    | with_reducible apply Keeps.putRecord
    | with_reducible apply Keeps.pausePump
    | with_reducible apply Keeps.modPart
    | with_reducible refine Keeps.ite' (fun _ => ?_) (fun _ => ?_)
    | with_reducible refine KeepsO.next ?_
    | with_reducible refine KeepsO.ite' (fun _ => ?_) (fun _ => ?_)
    | with_reducible refine Keeps.foldl' _ ?_ (fun _ _ _ => ?_)
    | with_reducible refine Keeps.foldl_fst _ ?_ (fun _ _ _ => ?_)
    | with_reducible refine Keeps.foldl_snd _ ?_ (fun _ _ _ => ?_)
    | split
    | (dsimp only; split)
    | refine KeepsOpt.tagAccess ?_ _ (by assumption)

theorem Keeps.servLate {b : Bool} {s0 s : State} {a1 a2} (h : Keeps b s0 s) :
    Keeps b s0 (State.servLate s a1 a2) := by
  unfold Sys2Proof.Machine.State.servLate
  repeat' first
    | with_reducible assumption
    | with_reducible exact Keeps.refl
    | with_reducible apply Keeps.evSet
    | with_reducible apply Keeps.count32
    | with_reducible refine Keeps.ite' (fun _ => ?_) (fun _ => ?_)

theorem KeepsO.execServingWalk {b : Bool} {s0 s : State} {a0 a1 a2 a3} (h : Keeps b s0 s) :
    KeepsO b s0 (execServingWalk a0 a1 a2 a3 s) := by
  unfold Sys2Proof.Machine.execServingWalk
  repeat' first
    | with_reducible apply Keeps.skip
    | with_reducible assumption
    | with_reducible exact Keeps.refl
    | with_reducible apply KeepsOpt.tagAccess
    | with_reducible apply Keeps.modServ
    | with_reducible apply Keeps.kvRows
    | with_reducible apply Keeps.servLate
    | with_reducible apply Keeps.putTable
    | with_reducible apply Keeps.putMaps
    | with_reducible refine Keeps.ite' (fun _ => ?_) (fun _ => ?_)
    | with_reducible refine KeepsO.next ?_
    | with_reducible refine KeepsO.ite' (fun _ => ?_) (fun _ => ?_)
    | with_reducible refine Keeps.ite_fst (fun _ => ?_) (fun _ => ?_)
    | with_reducible refine Keeps.ite_snd (fun _ => ?_) (fun _ => ?_)
    | with_reducible refine Keeps.foldl' _ ?_ (fun _ _ _ => ?_)
    | with_reducible refine Keeps.foldl_fst _ ?_ (fun _ _ _ => ?_)
    | with_reducible refine Keeps.foldl_snd _ ?_ (fun _ _ _ => ?_)
    | split
    | (dsimp only; split)
    | refine KeepsOpt.tagAccess ?_ _ (by assumption)

theorem KeepsO.execKvCopyDone {b : Bool} {s0 s : State} {a0 a1} (h : Keeps b s0 s) :
    KeepsO b s0 (execKvCopyDone a0 a1 s) := by
  unfold Sys2Proof.Machine.execKvCopyDone
  repeat' first
    | with_reducible assumption
    | with_reducible exact Keeps.refl
    | with_reducible apply KeepsOpt.tagAccess
    | with_reducible apply Keeps.modServ
    | with_reducible apply Keeps.copyOut
    | with_reducible refine Keeps.ite' (fun _ => ?_) (fun _ => ?_)
    | with_reducible refine KeepsO.next ?_
    | with_reducible refine KeepsO.ite' (fun _ => ?_) (fun _ => ?_)
    | with_reducible refine Keeps.ite_fst (fun _ => ?_) (fun _ => ?_)
    | with_reducible refine Keeps.ite_snd (fun _ => ?_) (fun _ => ?_)
    | split
    | refine KeepsOpt.tagAccess ?_ _ (by assumption)

theorem KeepsO.execKvRestoreDone {b : Bool} {s0 s : State} {a0 a1} (h : Keeps b s0 s) :
    KeepsO b s0 (execKvRestoreDone a0 a1 s) := by
  unfold Sys2Proof.Machine.execKvRestoreDone
  repeat' first
    | with_reducible assumption
    | with_reducible exact Keeps.refl
    | with_reducible apply KeepsOpt.tagAccess
    | with_reducible apply Keeps.modServ
    | with_reducible apply Keeps.copyIn
    | with_reducible refine Keeps.ite' (fun _ => ?_) (fun _ => ?_)
    | with_reducible refine KeepsO.next ?_
    | with_reducible refine KeepsO.ite' (fun _ => ?_) (fun _ => ?_)
    | with_reducible refine Keeps.ite_fst (fun _ => ?_) (fun _ => ?_)
    | with_reducible refine Keeps.ite_snd (fun _ => ?_) (fun _ => ?_)
    | split
    | (dsimp only; split)
    | refine KeepsOpt.tagAccess ?_ _ (by assumption)

end Sys2Proof.Machine
end

