-- ==== Sys2Proof/Laws/Keeps/Partitions.lean ====
section
/-! SUPPORT. What the operations of Machine/Partitions.lean keep. -/
set_option Elab.async false

namespace Sys2Proof.Machine

theorem Keeps.mapUse {b : Bool} {s0 s : State} {a1 a2 a3 a4 a5 a6} (h : Keeps b s0 s) :
    Keeps b s0 (State.mapUse s a1 a2 a3 a4 a5 a6) := by
  unfold Sys2Proof.Machine.State.mapUse
  repeat' first
    | with_reducible assumption
    | with_reducible exact Keeps.refl
    | with_reducible apply Keeps.splog
    | with_reducible apply Keeps.spareUse
    | with_reducible refine Keeps.ite' (fun _ => ?_) (fun _ => ?_)

theorem Keeps.mapCluster {b : Bool} {s0 s : State} {a1 a2 a3} (h : Keeps b s0 s) :
    Keeps b s0 (State.mapCluster s a1 a2 a3) := by
  unfold Sys2Proof.Machine.State.mapCluster
  repeat' first
    | with_reducible assumption
    | with_reducible exact Keeps.refl
    | with_reducible apply Keeps.mapUse
    | with_reducible apply Keeps.setMaps
    | with_reducible refine Keeps.ite' (fun _ => ?_) (fun _ => ?_)
    | split

theorem Keeps.withdrawClusters {b : Bool} {s0 s : State} {a1} (h : Keeps b s0 s) :
    Keeps b s0 (State.withdrawClusters s a1) := by
  unfold Sys2Proof.Machine.State.withdrawClusters
  repeat' first
    | with_reducible assumption
    | with_reducible exact Keeps.refl
    | with_reducible apply Keeps.mapUse
    | with_reducible apply Keeps.setMaps
    | with_reducible refine Keeps.ite' (fun _ => ?_) (fun _ => ?_)
    | with_reducible refine Keeps.foldl' _ ?_ (fun _ _ _ => ?_)

theorem Keeps.mapTiles {b : Bool} {s0 s : State} {a1 a2} (h : Keeps b s0 s) :
    Keeps b s0 (State.mapTiles s a1 a2) := by
  unfold Sys2Proof.Machine.State.mapTiles
  repeat' first
    | with_reducible assumption
    | with_reducible exact Keeps.refl
    | with_reducible apply Keeps.mapUse
    | with_reducible apply Keeps.setMaps
    | with_reducible refine Keeps.ite' (fun _ => ?_) (fun _ => ?_)
    | with_reducible refine Keeps.foldl' _ ?_ (fun _ _ _ => ?_)
    | with_reducible refine Keeps.foldl_fst _ ?_ (fun _ _ _ => ?_)
    | with_reducible refine Keeps.foldl_snd _ ?_ (fun _ _ _ => ?_)
    | split

theorem Keeps.mapFum {b : Bool} {s0 s : State} {a1 a2} (h : Keeps b s0 s) :
    Keeps b s0 (State.mapFum s a1 a2) := by
  unfold Sys2Proof.Machine.State.mapFum
  repeat' first
    | with_reducible assumption
    | with_reducible exact Keeps.refl
    | with_reducible apply Keeps.mapUse
    | with_reducible apply Keeps.setMaps
    | with_reducible refine Keeps.ite' (fun _ => ?_) (fun _ => ?_)
    | with_reducible refine Keeps.foldl' _ ?_ (fun _ _ _ => ?_)

theorem Keeps.closeUp {b : Bool} {s0 s : State} (h : Keeps b s0 s) :
    Keeps b s0 (State.closeUp s) := by
  unfold Sys2Proof.Machine.State.closeUp
  repeat' first
    | with_reducible assumption
    | with_reducible exact Keeps.refl
    | with_reducible apply Keeps.setMaps
    | with_reducible refine Keeps.ite' (fun _ => ?_) (fun _ => ?_)
    | with_reducible refine Keeps.foldr' _ ?_ (fun _ _ _ => ?_)

theorem Keeps.remap {b : Bool} {s0 s : State} {a1 a2} (h : Keeps b s0 s) :
    Keeps b s0 (State.remap s a1 a2) := by
  unfold Sys2Proof.Machine.State.remap
  repeat' first
    | with_reducible assumption
    | with_reducible exact Keeps.refl
    | with_reducible apply Keeps.mapCluster
    | with_reducible apply Keeps.withdrawClusters
    | with_reducible apply Keeps.mapTiles
    | with_reducible apply Keeps.mapFum
    | with_reducible apply Keeps.closeUp
    | with_reducible refine Keeps.foldl' _ ?_ (fun _ _ _ => ?_)

theorem Keeps.jobStart {b : Bool} {s0 s : State} {a1} (h : Keeps b s0 s) :
    Keeps b s0 (State.jobStart s a1) := by
  unfold Sys2Proof.Machine.State.jobStart
  repeat' first
    | with_reducible assumption
    | with_reducible exact Keeps.refl
    | with_reducible apply Keeps.remap
    | with_reducible apply Keeps.setPg
    | with_reducible apply Keeps.setSprue
    | with_reducible apply Keeps.modPart

theorem Keeps.setSlots {b : Bool} {s0 s : State} {a1 a2} (h : Keeps b s0 s) :
    Keeps b s0 (State.setSlots s a1 a2) := by
  unfold Sys2Proof.Machine.State.setSlots
  repeat' first
    | with_reducible assumption
    | with_reducible exact Keeps.refl
    | with_reducible apply Keeps.modStack
    | with_reducible refine Keeps.ite' (fun _ => ?_) (fun _ => ?_)
    | with_reducible refine Keeps.foldl' _ ?_ (fun _ _ _ => ?_)

theorem Keeps.partCfgMsg {b : Bool} {s0 s : State} {a1 a2} (h : Keeps b s0 s) :
    Keeps b s0 (State.partCfgMsg s a1 a2).1 := by
  unfold Sys2Proof.Machine.State.partCfgMsg
  repeat' first
    | with_reducible assumption
    | with_reducible exact Keeps.refl
    | with_reducible apply Keeps.setSprue
    | with_reducible apply Keeps.setPart
    | with_reducible apply Keeps.setOwner
    | with_reducible apply Keeps.setSlots
    | with_reducible refine Keeps.ite' (fun _ => ?_) (fun _ => ?_)
    | with_reducible refine Keeps.ite_fst (fun _ => ?_) (fun _ => ?_)
    | with_reducible refine Keeps.ite_snd (fun _ => ?_) (fun _ => ?_)
    | with_reducible refine Keeps.getD' ?_ ?_
    | with_reducible refine Keeps.foldl' _ ?_ (fun _ _ _ => ?_)
    | with_reducible refine Keeps.foldl_fst _ ?_ (fun _ _ _ => ?_)
    | with_reducible refine Keeps.foldl_snd _ ?_ (fun _ _ _ => ?_)
    | split
    | (dsimp only; split)

theorem Keeps.endWork {b : Bool} {s0 s : State} {a1} (h : Keeps b s0 s) : Keeps b s0 (State.endWork s a1) := by
  unfold State.endWork
  have h1 := Keeps.forN' 12 h (f := fun n s => s.fumAbort n a1) fun _ _ x => Keeps.fumAbort x
  revert h1
  generalize forN 12 s (fun n s => s.fumAbort n a1) = t
  intro h1
  exact Keeps.modPart (Keeps.setFabric (Keeps.setStk (Keeps.setSprue h1) fun c => ⟨c.1, c.2⟩) id)

theorem Keeps.endMsgs {b : Bool} {s0 s : State} {a1 a2} (h : Keeps b s0 s) :
    Keeps b s0 (State.endMsgs s a1 a2) := by
  unfold Sys2Proof.Machine.State.endMsgs
  repeat' first
    | with_reducible assumption
    | with_reducible exact Keeps.refl
    | with_reducible apply Keeps.lateness
    | with_reducible apply Keeps.setPg
    | with_reducible apply Keeps.answerCmd
    | with_reducible apply Keeps.respond
    | with_reducible apply Keeps.modPart
    | with_reducible refine Keeps.ite' (fun _ => ?_) (fun _ => ?_)
    | with_reducible refine Keeps.ite_fst (fun _ => ?_) (fun _ => ?_)
    | with_reducible refine Keeps.ite_snd (fun _ => ?_) (fun _ => ?_)
    | with_reducible refine Keeps.foldl' _ ?_ (fun _ _ _ => ?_)
    | with_reducible refine Keeps.foldl_fst _ ?_ (fun _ _ _ => ?_)
    | with_reducible refine Keeps.foldl_snd _ ?_ (fun _ _ _ => ?_)
    | split

theorem Keeps.scrubPart {b : Bool} {s0 s : State} {a1} (h : Keeps b s0 s) :
    Keeps b s0 (State.scrubPart s a1) := by
  unfold Sys2Proof.Machine.State.scrubPart
  repeat' first
    | with_reducible assumption
    | with_reducible exact Keeps.refl
    | with_reducible apply Keeps.modUnit
    | with_reducible apply Keeps.endWork
    | with_reducible refine Keeps.foldl' _ ?_ (fun _ _ _ => ?_)

theorem Keeps.endPart {b : Bool} {s0 s : State} {a1 a2} (h : Keeps b s0 s) :
    Keeps b s0 (State.endPart s a1 a2) := by
  unfold Sys2Proof.Machine.State.endPart
  repeat' first
    | with_reducible assumption
    | with_reducible exact Keeps.refl
    | with_reducible apply Keeps.modPart
    | with_reducible apply Keeps.endMsgs
    | with_reducible apply Keeps.scrubPart

theorem Keeps.emptyPart {b : Bool} {s0 s : State} {a1} (h : Keeps b s0 s) :
    Keeps b s0 (State.emptyPart s a1) := by
  unfold Sys2Proof.Machine.State.emptyPart
  repeat' first
    | with_reducible assumption
    | with_reducible exact Keeps.refl
    | with_reducible apply Keeps.enterScrub
    | with_reducible apply Keeps.freesPump
    | with_reducible apply Keeps.allStacks
    | with_reducible apply Keeps.setSprue
    | with_reducible apply Keeps.closeUp
    | with_reducible apply Keeps.modPart
    | with_reducible refine Keeps.foldl' _ ?_ (fun _ _ _ => ?_)

theorem Keeps.ctlMsg {b : Bool} {s0 s : State} {a1 a2 a3} (h : Keeps b s0 s) :
    Keeps b s0 (State.ctlMsg s a1 a2 a3).1 := by
  unfold Sys2Proof.Machine.State.ctlMsg
  repeat' first
    | with_reducible assumption
    | with_reducible exact Keeps.refl
    | with_reducible apply Keeps.epochMsg
    | with_reducible apply Keeps.endedNow
    | with_reducible apply Keeps.tapMsg
    | with_reducible apply Keeps.svCfgMsg
    | with_reducible apply Keeps.svSubmitMsg
    | with_reducible apply Keeps.svCancelMsg
    | with_reducible apply Keeps.svForgetMsg
    | split

theorem Keeps.heldPump {b : Bool} {s0 s : State} {a1} (h : Keeps b s0 s) :
    Keeps b s0 (State.heldPump s a1) := by
  unfold Sys2Proof.Machine.State.heldPump
  repeat' first
    | with_reducible assumption
    | with_reducible exact Keeps.refl
    | with_reducible apply Keeps.modPart
    | with_reducible apply Keeps.ctlMsg
    | with_reducible apply Keeps.respond
    | with_reducible refine Keeps.foldl' _ ?_ (fun _ _ _ => ?_)
    | with_reducible refine Keeps.foldl_fst _ ?_ (fun _ _ _ => ?_)
    | with_reducible refine Keeps.foldl_snd _ ?_ (fun _ _ _ => ?_)
    | split
    | refine Keeps.of_fst (by assumption) ?_

theorem Keeps.partLoadMsg {b : Bool} {s0 s : State} {a1} (h : Keeps b s0 s) :
    Keeps b s0 (State.partLoadMsg s a1).1 := by
  unfold Sys2Proof.Machine.State.partLoadMsg
  repeat' first
    | with_reducible assumption
    | with_reducible exact Keeps.refl
    | with_reducible apply Keeps.jobStart
    | with_reducible refine Keeps.ite' (fun _ => ?_) (fun _ => ?_)
    | with_reducible refine Keeps.ite_fst (fun _ => ?_) (fun _ => ?_)

theorem Keeps.partPauseMsg {b : Bool} {s0 s : State} {a1 a2 a3} (h : Keeps b s0 s) :
    Keeps b s0 (State.partPauseMsg s a1 a2 a3).1 := by
  unfold Sys2Proof.Machine.State.partPauseMsg
  repeat' first
    | with_reducible assumption
    | with_reducible exact Keeps.refl
    | with_reducible apply Keeps.setPart
    | with_reducible apply Keeps.quench
    | with_reducible apply Keeps.pausePump
    | with_reducible refine Keeps.ite' (fun _ => ?_) (fun _ => ?_)
    | with_reducible refine Keeps.ite_fst (fun _ => ?_) (fun _ => ?_)
    | with_reducible refine Keeps.ite_snd (fun _ => ?_) (fun _ => ?_)
    | with_reducible refine Keeps.foldl' _ ?_ (fun _ _ _ => ?_)

theorem Keeps.partResumeMsg {b : Bool} {s0 s : State} {a1 a2 a3} (h : Keeps b s0 s) :
    Keeps b s0 (State.partResumeMsg s a1 a2 a3).1 := by
  unfold Sys2Proof.Machine.State.partResumeMsg
  repeat' first
    | with_reducible assumption
    | with_reducible exact Keeps.refl
    | with_reducible apply Keeps.modPart
    | with_reducible apply Keeps.heldPump
    | with_reducible apply Keeps.respond
    | with_reducible refine Keeps.ite' (fun _ => ?_) (fun _ => ?_)
    | with_reducible refine Keeps.ite_fst (fun _ => ?_) (fun _ => ?_)

theorem Keeps.partReleaseMsg {b : Bool} {s0 s : State} {a1 a2 a3} (h : Keeps b s0 s) :
    Keeps b s0 (State.partReleaseMsg s a1 a2 a3).1 := by
  unfold Sys2Proof.Machine.State.partReleaseMsg
  repeat' first
    | with_reducible assumption
    | with_reducible exact Keeps.refl
    | with_reducible apply Keeps.emptyPart
    | with_reducible apply Keeps.scrubPart
    | with_reducible apply Keeps.setPart
    | with_reducible apply Keeps.stopUnits
    | with_reducible refine Keeps.ite' (fun _ => ?_) (fun _ => ?_)
    | with_reducible refine Keeps.ite_fst (fun _ => ?_) (fun _ => ?_)

theorem Keeps.partResetMsg {b : Bool} {s0 s : State} {a1 a2 a3} (h : Keeps b s0 s) :
    Keeps b s0 (State.partResetMsg s a1 a2 a3).1 := by
  unfold Sys2Proof.Machine.State.partResetMsg
  repeat' first
    | with_reducible assumption
    | with_reducible exact Keeps.refl
    | with_reducible apply Keeps.setPart
    | with_reducible refine Keeps.ite' (fun _ => ?_) (fun _ => ?_)
    | with_reducible refine Keeps.ite_fst (fun _ => ?_) (fun _ => ?_)

theorem Keeps.partMsg {b : Bool} {s0 s : State} {a1 a2 a3 a4 a5} (h : Keeps b s0 s) :
    Keeps b s0 (State.partMsg s a1 a2 a3 a4 a5).1 := by
  unfold Sys2Proof.Machine.State.partMsg
  repeat' first
    | with_reducible assumption
    | with_reducible exact Keeps.refl
    | with_reducible apply Keeps.partCfgMsg
    | with_reducible apply Keeps.partLoadMsg
    | with_reducible apply Keeps.partPauseMsg
    | with_reducible apply Keeps.partResumeMsg
    | with_reducible apply Keeps.partReleaseMsg
    | with_reducible apply Keeps.partResetMsg
    | split

theorem KeepsO.execPartitionFault {b : Bool} {s0 s : State} {a0 a1 a2 a3} (h : Keeps b s0 s) :
    KeepsO b s0 (execPartitionFault a0 a1 a2 a3 s) := by
  unfold Sys2Proof.Machine.execPartitionFault
  repeat' first
    | with_reducible assumption
    | with_reducible exact Keeps.refl
    | with_reducible apply Keeps.faultPart
    | with_reducible refine Keeps.ite' (fun _ => ?_) (fun _ => ?_)
    | with_reducible refine KeepsO.next ?_
    | with_reducible refine KeepsO.ite' (fun _ => ?_) (fun _ => ?_)

theorem KeepsO.execTeardownComplete {b : Bool} {s0 s : State} {a0} (h : Keeps b s0 s) :
    KeepsO b s0 (execTeardownComplete a0 s) := by
  unfold Sys2Proof.Machine.execTeardownComplete
  repeat' first
    | with_reducible assumption
    | with_reducible exact Keeps.refl
    | with_reducible apply Keeps.endPart
    | with_reducible apply Keeps.respond
    | with_reducible apply Keeps.modPart
    | with_reducible apply Keeps.ventAll
    | with_reducible apply Keeps.evSet
    | with_reducible refine Keeps.ite' (fun _ => ?_) (fun _ => ?_)
    | with_reducible refine KeepsO.next ?_
    | with_reducible refine KeepsO.ite' (fun _ => ?_) (fun _ => ?_)
    | split
    | (dsimp only; split)

theorem KeepsO.execDrainComplete {b : Bool} {s0 s : State} {a0} (h : Keeps b s0 s) :
    KeepsO b s0 (execDrainComplete a0 s) := by
  unfold Sys2Proof.Machine.execDrainComplete
  repeat' first
    | with_reducible assumption
    | with_reducible exact Keeps.refl
    | with_reducible apply Keeps.emptyPart
    | with_reducible apply Keeps.endPart
    | with_reducible apply Keeps.respond
    | with_reducible refine Keeps.ite' (fun _ => ?_) (fun _ => ?_)
    | with_reducible refine KeepsO.next ?_
    | with_reducible refine KeepsO.ite' (fun _ => ?_) (fun _ => ?_)
    | split
    | (dsimp only; split)

end Sys2Proof.Machine
end

