-- ==== Sys2Proof/Laws/Keeps/Bringup.lean ====
section
/-! SUPPORT. What the operations of Machine/Bringup.lean keep. -/
set_option Elab.async false

namespace Sys2Proof.Machine

/-- What a broken burn leaves grows. -/

theorem Otp.Grows.breakOff {o : Otp} {j : Word} (c : twf 0 o.words = true) :
    twf 0 (o.breakOff j).words = true ∧ o.Grows (o.breakOff j) := by
  unfold Otp.breakOff
  split
  · refine ⟨twf_tput _ _ _ c, fun n => ?_⟩
    rename_i a v _
    by_cases e : n = a
    · subst e
      rw [tget_tput_same 0 _ _ c]
      ext i
      simp only [BitVec.getElem_and, BitVec.getElem_or]
      grind
    · rw [tget_tput_ne 0 _ c e]
      exact BitVec.and_self
  · exact ⟨c, .refl⟩

theorem Otp.Grows.put {t : Tbl Word} {n : Nat} {v : Word} (c : twf 0 t = true) (m : Nat) :
    tget 0 t m &&& tget 0 (tput 0 t n (tget 0 t n ||| v)) m = tget 0 t m := by
  by_cases e : m = n
  · subst e
    rw [tget_tput_same 0 _ _ c]
    ext i
    simp only [BitVec.getElem_and, BitVec.getElem_or]
    grind
  · rw [tget_tput_ne 0 _ c e]
    exact BitVec.and_self

theorem fuseOr_grows {t : Tbl Word} {ws : List Word} (c : twf 0 t = true) :
    twf 0 (fuseOr t ws) = true ∧ ∀ n, tget 0 t n &&& tget 0 (fuseOr t ws) n = tget 0 t n := by
  unfold fuseOr forN
  generalize List.range (min ws.length 1024) = l
  induction l generalizing t with
  | nil => exact ⟨c, fun _ => BitVec.and_self⟩
  | cons a r ih =>
    have h := ih (t := tput 0 t a (tget 0 t a ||| nth 0 ws a)) (twf_tput _ _ _ c)
    refine ⟨h.1, fun n => ?_⟩
    have p := Otp.Grows.put (n := a) (v := nth 0 ws a) c n
    rw [List.foldl_cons, ← p, BitVec.and_assoc, h.2 n]

theorem Keeps.setBoot {b : Bool} {s0 s : State} {a1 a2 a3} (h : Keeps b s0 s) :
    Keeps b s0 (State.setBoot s a1 a2 a3) := by
  unfold Sys2Proof.Machine.State.setBoot
  repeat' first
    | with_reducible assumption
    | with_reducible exact Keeps.refl
    | with_reducible apply Keeps.setPg
    | with_reducible apply Keeps.setDev

theorem Keeps.fullReset {s0 s : State} (h : Keeps false s0 s) :
    Keeps false s0 (State.fullReset s) := by
  refine h.trans ?_
  unfold Sys2Proof.Machine.State.fullReset
  refine Keeps.ite' (fun _ => ?_) (fun _ => Keeps.setBoot ?_)
  all_goals exact ⟨⟨rfl, Nat.le_add_right _ 2, fun c =>
    ⟨⟨c.mem, rfl, rfl, rfl, c.taps, (Otp.Grows.breakOff c.west).1, (Otp.Grows.breakOff c.east).1,
      ⟨rising_nil _, rfl, rfl, rfl⟩, ⟨rfl, rfl⟩, rfl⟩,
      (Otp.Grows.breakOff c.west).2, (Otp.Grows.breakOff c.east).2⟩⟩, nofun⟩

theorem KeepsO.execSysRstNAssert {s0 s : State} {a0} (h : Keeps false s0 s) :
    KeepsO false s0 (execSysRstNAssert a0 s) := by
  unfold Sys2Proof.Machine.execSysRstNAssert
  repeat' first
    | with_reducible assumption
    | with_reducible exact Keeps.refl
    | with_reducible apply Keeps.fullReset
    | with_reducible apply Keeps.setDev
    | with_reducible refine Keeps.ite' (fun _ => ?_) (fun _ => ?_)
    | with_reducible refine KeepsO.next ?_
    | with_reducible refine KeepsO.ite' (fun _ => ?_) (fun _ => ?_)

theorem KeepsO.execSysRstNRelease {b : Bool} {s0 s : State} {a0 a1} (h : Keeps b s0 s) :
    KeepsO b s0 (execSysRstNRelease a0 a1 s) := by
  unfold Sys2Proof.Machine.execSysRstNRelease
  repeat' first
    | with_reducible assumption
    | with_reducible exact Keeps.refl
    | with_reducible apply Keeps.setDev
    | with_reducible refine Keeps.modDie ?_ ?_
    | with_reducible apply Keeps.setBoot
    | with_reducible refine Keeps.ite' (fun _ => ?_) (fun _ => ?_)
    | with_reducible refine KeepsO.next ?_
    | with_reducible refine KeepsO.ite' (fun _ => ?_) (fun _ => ?_)
    | exact rfl
    | exact fun _ => rfl

theorem KeepsO.execPciePerstNAssert {s0 s : State} {a0 a1} (h : Keeps false s0 s) :
    KeepsO false s0 (execPciePerstNAssert a0 a1 s) := by
  unfold Sys2Proof.Machine.execPciePerstNAssert
  repeat' first
    | with_reducible assumption
    | with_reducible exact Keeps.refl
    | with_reducible apply Keeps.fullReset
    | with_reducible apply Keeps.setDev
    | with_reducible refine Keeps.ite' (fun _ => ?_) (fun _ => ?_)
    | with_reducible refine KeepsO.next ?_
    | with_reducible refine KeepsO.ite' (fun _ => ?_) (fun _ => ?_)

theorem Keeps.pcieStart {b : Bool} {s0 s : State} (h : Keeps b s0 s) :
    Keeps b s0 (State.pcieStart s) := by
  unfold Sys2Proof.Machine.State.pcieStart
  repeat' first
    | with_reducible assumption
    | with_reducible exact Keeps.refl
    | with_reducible apply Keeps.setBoot
    | with_reducible refine Keeps.ite' (fun _ => ?_) (fun _ => ?_)

theorem KeepsO.execPciePerstNRelease {b : Bool} {s0 s : State} (h : Keeps b s0 s) :
    KeepsO b s0 (execPciePerstNRelease s) := by
  unfold Sys2Proof.Machine.execPciePerstNRelease
  repeat' first
    | with_reducible assumption
    | with_reducible exact Keeps.refl
    | with_reducible apply Keeps.pcieStart
    | with_reducible apply Keeps.setDev
    | with_reducible refine KeepsO.next ?_

theorem Keeps.dark {s0 s : State} {a1 a2 a3} (h : Keeps false s0 s)
    (hw : twf 0 s.west.otp.words = true → twf 0 a2 = true ∧ ∀ n, tget 0 s.west.otp.words n &&& tget 0 a2 n = tget 0 s.west.otp.words n)
    (he : twf 0 s.east.otp.words = true → twf 0 a3 = true ∧ ∀ n, tget 0 s.east.otp.words n &&& tget 0 a3 n = tget 0 s.east.otp.words n) :
    Keeps false s0 (State.dark s a1 a2 a3) :=
  h.trans ⟨⟨rfl, Nat.le_add_right _ 2, fun c =>
    ⟨⟨twf_filter _ _ c.mem, rfl, rfl, rfl, rfl, (hw c.west).1, (he c.east).1,
      ⟨rising_nil _, rfl, rfl, rfl⟩, ⟨rfl, rfl⟩, rfl⟩, (hw c.west).2, (he c.east).2⟩⟩, nofun⟩

theorem KeepsO.execPowerOff {s0 s : State} (h : Keeps false s0 s) :
    KeepsO false s0 (execPowerOff s) := by
  exact KeepsO.next (Keeps.dark h Otp.Grows.breakOff Otp.Grows.breakOff)

theorem KeepsO.execPowerUp {s0 s : State} {a0 a1} (h : Keeps false s0 s) :
    KeepsO false s0 (execPowerUp a0 a1 s) := by
  unfold Sys2Proof.Machine.execPowerUp
  refine KeepsO.ite' (fun _ => KeepsO.next (Keeps.dark h fuseOr_grows fuseOr_grows)) fun _ => KeepsO.next h

theorem Keeps.devRst {s0 s : State} {a1 a2} (h : Keeps false s0 s) :
    Keeps false s0 (State.devRst s a1 a2) := by
  unfold Sys2Proof.Machine.State.devRst
  repeat' first
    | with_reducible assumption
    | with_reducible exact Keeps.refl
    | with_reducible apply Keeps.fullReset
    | with_reducible refine Keeps.ite' (fun _ => ?_) (fun _ => ?_)

theorem Keeps.failBoot {b : Bool} {s0 s : State} {a1 a2} (h : Keeps b s0 s) :
    Keeps b s0 (State.failBoot s a1 a2) := by
  unfold Sys2Proof.Machine.State.failBoot
  repeat' first
    | with_reducible assumption
    | with_reducible exact Keeps.refl
    | with_reducible apply Keeps.setBoot
    | with_reducible apply Keeps.setDev

theorem KeepsO.execPllLock {b : Bool} {s0 s : State} {a0 a1} (h : Keeps b s0 s) :
    KeepsO b s0 (execPllLock a0 a1 s) := by
  unfold Sys2Proof.Machine.execPllLock
  repeat' first
    | with_reducible assumption
    | with_reducible exact Keeps.refl
    | with_reducible refine Keeps.modDie ?_ ?_
    | with_reducible apply Keeps.setBoot
    | with_reducible refine Keeps.ite' (fun _ => ?_) (fun _ => ?_)
    | with_reducible refine KeepsO.next ?_
    | with_reducible refine KeepsO.ite' (fun _ => ?_) (fun _ => ?_)
    | exact rfl
    | exact fun _ => rfl

theorem Keeps.bringupWithdraw {b : Bool} {s0 s : State} {a1 a2 a3} (h : Keeps b s0 s) :
    Keeps b s0 (State.bringupWithdraw s a1 a2 a3) := by
  unfold Sys2Proof.Machine.State.bringupWithdraw
  repeat' first
    | with_reducible assumption
    | with_reducible exact Keeps.refl
    | with_reducible apply Keeps.setMaps
    | with_reducible apply Keeps.setOwner
    | with_reducible apply Keeps.mapUse
    | with_reducible apply Keeps.splog
    | with_reducible refine Keeps.ite' (fun _ => ?_) (fun _ => ?_)
    | with_reducible refine Keeps.foldl' _ ?_ (fun _ _ _ => ?_)

theorem Keeps.applyRepair {b : Bool} {s0 s : State} (h : Keeps b s0 s) :
    Keeps b s0 (State.applyRepair s) := by
  unfold Sys2Proof.Machine.State.applyRepair
  repeat' first
    | with_reducible assumption
    | with_reducible exact Keeps.refl
    | with_reducible apply Keeps.setMaps
    | with_reducible apply Keeps.bringupWithdraw
    | with_reducible apply Keeps.remap
    | with_reducible refine Keeps.foldl' _ ?_ (fun _ _ _ => ?_)

theorem KeepsO.execOtpSense {s0 s : State} (h : Keeps false s0 s) :
    KeepsO false s0 (execOtpSense s) := by
  unfold Sys2Proof.Machine.execOtpSense
  repeat' first
    | with_reducible assumption
    | with_reducible exact Keeps.refl
    | with_reducible refine Keeps.modDie' ?_ ?_
    | with_reducible apply Keeps.setDbg
    | with_reducible apply Keeps.failBoot
    | with_reducible apply Keeps.applyRepair
    | with_reducible apply Keeps.setDev
    | with_reducible apply Keeps.setBoot
    | with_reducible refine Keeps.ite' (fun _ => ?_) (fun _ => ?_)
    | with_reducible refine KeepsO.next ?_
    | with_reducible refine KeepsO.ite' (fun _ => ?_) (fun _ => ?_)
    | split
    | (dsimp only; split)
    | exact fun _ c => ⟨c, .of_eq rfl⟩

theorem Keeps.assayNote {b : Bool} {s0 s : State} {a1 a2} (h : Keeps b s0 s) :
    Keeps b s0 (State.assayNote s a1 a2) := by
  unfold Sys2Proof.Machine.State.assayNote
  repeat' first
    | with_reducible assumption
    | with_reducible exact Keeps.refl
    | with_reducible apply Keeps.evErr
    | with_reducible apply Keeps.setHealth

theorem Keeps.assayLane {b : Bool} {s0 s : State} {a1 a2} (h : Keeps b s0 s) :
    Keeps b s0 (State.assayLane s a1 a2) := by
  unfold Sys2Proof.Machine.State.assayLane
  repeat' first
    | with_reducible assumption
    | with_reducible exact Keeps.refl
    | with_reducible apply Keeps.setPort
    | with_reducible apply Keeps.splog
    | with_reducible apply Keeps.modPort
    | with_reducible refine Keeps.ite' (fun _ => ?_) (fun _ => ?_)

theorem KeepsO.execAssayFull {b : Bool} {s0 s : State} {a0} (h : Keeps b s0 s) :
    KeepsO b s0 (execAssayFull a0 s) := by
  unfold Sys2Proof.Machine.execAssayFull
  repeat' first
    | with_reducible assumption
    | with_reducible exact Keeps.refl
    | with_reducible apply Keeps.assayNote
    | with_reducible apply Keeps.setDev
    | with_reducible apply Keeps.failBoot
    | with_reducible apply Keeps.bringupWithdraw
    | with_reducible apply Keeps.assayLane
    | with_reducible apply Keeps.setBoot
    | with_reducible refine Keeps.ite' (fun _ => ?_) (fun _ => ?_)
    | with_reducible refine KeepsO.next ?_
    | with_reducible refine KeepsO.ite' (fun _ => ?_) (fun _ => ?_)
    | with_reducible refine Keeps.ite_fst (fun _ => ?_) (fun _ => ?_)
    | with_reducible refine Keeps.ite_snd (fun _ => ?_) (fun _ => ?_)
    | with_reducible refine Keeps.foldl' _ ?_ (fun _ _ _ => ?_)
    | with_reducible refine Keeps.foldl_fst _ ?_ (fun _ _ _ => ?_)
    | with_reducible refine Keeps.foldl_snd _ ?_ (fun _ _ _ => ?_)
    | with_reducible refine Keeps.forN' _ ?_ (fun _ _ _ => ?_)
    | with_reducible refine Keeps.forN_fst _ ?_ (fun _ _ _ => ?_)
    | with_reducible refine Keeps.forN_snd _ ?_ (fun _ _ _ => ?_)
    | split
    | (dsimp only; split)

theorem KeepsO.execStackTraining {b : Bool} {s0 s : State} {a0 a1} (h : Keeps b s0 s) :
    KeepsO b s0 (execStackTraining a0 a1 s) := by
  unfold Sys2Proof.Machine.execStackTraining
  repeat' first
    | with_reducible assumption
    | with_reducible exact Keeps.refl
    | with_reducible apply Keeps.failBoot
    | with_reducible apply Keeps.bringupWithdraw
    | with_reducible refine Keeps.setMem ?_ (fun c => twf_filter _ _ c)
    | with_reducible refine Keeps.setStk ?_ ?_
    | with_reducible apply Keeps.allStacks
    | with_reducible apply Keeps.setBoot
    | with_reducible refine Keeps.ite' (fun _ => ?_) (fun _ => ?_)
    | with_reducible refine KeepsO.next ?_
    | with_reducible refine KeepsO.ite' (fun _ => ?_) (fun _ => ?_)
    | with_reducible refine Keeps.ite_fst (fun _ => ?_) (fun _ => ?_)
    | with_reducible refine Keeps.ite_snd (fun _ => ?_) (fun _ => ?_)
    | with_reducible refine Keeps.foldl' _ ?_ (fun _ _ _ => ?_)
    | with_reducible refine Keeps.foldl_fst _ ?_ (fun _ _ _ => ?_)
    | with_reducible refine Keeps.foldl_snd _ ?_ (fun _ _ _ => ?_)
    | split
    | exact id
    | exact fun c => ⟨c.1, c.2⟩
    | exact fun c => ⟨c.1, twf_filter _ _ c.2⟩

theorem Keeps.authStart {b : Bool} {s0 s : State} (h : Keeps b s0 s) :
    Keeps b s0 (State.authStart s) := by
  unfold Sys2Proof.Machine.State.authStart
  repeat' first
    | with_reducible assumption
    | with_reducible exact Keeps.refl
    | with_reducible refine Keeps.modDie ?_ ?_
    | with_reducible refine Keeps.ite' (fun _ => ?_) (fun _ => ?_)
    | exact rfl
    | exact fun _ => rfl

theorem KeepsO.execPartingLineTraining {b : Bool} {s0 s : State} {a0} (h : Keeps b s0 s) :
    KeepsO b s0 (execPartingLineTraining a0 s) := by
  unfold Sys2Proof.Machine.execPartingLineTraining
  repeat' first
    | with_reducible assumption
    | with_reducible exact Keeps.refl
    | with_reducible apply Keeps.moves
    | with_reducible apply Keeps.failBoot
    | with_reducible refine Keeps.modDie ?_ ?_
    | with_reducible apply Keeps.setBoot
    | with_reducible apply Keeps.authStart
    | with_reducible refine Keeps.ite' (fun _ => ?_) (fun _ => ?_)
    | with_reducible refine KeepsO.next ?_
    | with_reducible refine KeepsO.ite' (fun _ => ?_) (fun _ => ?_)
    | with_reducible refine Keeps.ite_fst (fun _ => ?_) (fun _ => ?_)
    | with_reducible refine Keeps.ite_snd (fun _ => ?_) (fun _ => ?_)
    | split
    | (dsimp only; split)
    | exact rfl
    | exact fun _ => rfl

theorem KeepsO.execAuthorityEstablished {b : Bool} {s0 s : State} (h : Keeps b s0 s) :
    KeepsO b s0 (execAuthorityEstablished s) := by
  unfold Sys2Proof.Machine.execAuthorityEstablished
  repeat' first
    | with_reducible assumption
    | with_reducible exact Keeps.refl
    | with_reducible apply Keeps.setDev
    | with_reducible apply Keeps.pcieStart
    | with_reducible apply Keeps.setBoot
    | with_reducible refine Keeps.ite' (fun _ => ?_) (fun _ => ?_)
    | with_reducible refine KeepsO.next ?_
    | with_reducible refine KeepsO.ite' (fun _ => ?_) (fun _ => ?_)

theorem KeepsO.execBringupPhaseTimeout {b : Bool} {s0 s : State} {a0} (h : Keeps b s0 s) :
    KeepsO b s0 (execBringupPhaseTimeout a0 s) := by
  unfold Sys2Proof.Machine.execBringupPhaseTimeout
  repeat' first
    | with_reducible assumption
    | with_reducible exact Keeps.refl
    | with_reducible apply Keeps.failBoot
    | with_reducible refine Keeps.ite' (fun _ => ?_) (fun _ => ?_)
    | with_reducible refine KeepsO.next ?_
    | with_reducible refine KeepsO.ite' (fun _ => ?_) (fun _ => ?_)

theorem Keeps.authJoin {b : Bool} {s0 s : State} {a1 a2} (h : Keeps b s0 s) :
    Keeps b s0 (State.authJoin s a1 a2) := by
  unfold Sys2Proof.Machine.State.authJoin
  repeat' first
    | with_reducible assumption
    | with_reducible exact Keeps.refl
    | with_reducible apply Keeps.failBoot
    | with_reducible refine Keeps.modDie ?_ ?_
    | with_reducible refine Keeps.ite' (fun _ => ?_) (fun _ => ?_)
    | exact rfl
    | exact fun _ => rfl

theorem Keeps.authArrive {b : Bool} {s0 s : State} {a1 a2} (h : Keeps b s0 s) :
    Keeps b s0 (State.authArrive s a1 a2) := by
  unfold Sys2Proof.Machine.State.authArrive
  repeat' first
    | with_reducible assumption
    | with_reducible exact Keeps.refl
    | with_reducible apply Keeps.authJoin
    | with_reducible refine Keeps.modDie ?_ ?_
    | with_reducible apply Keeps.enterSafe
    | with_reducible refine Keeps.ite' (fun _ => ?_) (fun _ => ?_)
    | exact rfl
    | exact fun _ => rfl

theorem KeepsO.execAuthWordReceived {b : Bool} {s0 s : State} {a0 a1} (h : Keeps b s0 s) :
    KeepsO b s0 (execAuthWordReceived a0 a1 s) := by
  unfold Sys2Proof.Machine.execAuthWordReceived
  repeat' first
    | with_reducible assumption
    | with_reducible exact Keeps.refl
    | with_reducible apply Keeps.authArrive
    | with_reducible refine KeepsO.next ?_

theorem Keeps.authJudge {b : Bool} {s0 s : State} {a1} (h : Keeps b s0 s) :
    Keeps b s0 (State.authJudge s a1) := by
  unfold Sys2Proof.Machine.State.authJudge
  repeat' first
    | with_reducible assumption
    | with_reducible exact Keeps.refl
    | with_reducible refine Keeps.modDie ?_ ?_
    | with_reducible apply Keeps.evSet
    | with_reducible apply Keeps.enterSafe
    | with_reducible refine Keeps.ite' (fun _ => ?_) (fun _ => ?_)
    | exact rfl
    | exact fun _ => rfl

theorem KeepsO.execAuthTick {b : Bool} {s0 s : State} {a0} (h : Keeps b s0 s) :
    KeepsO b s0 (execAuthTick a0 s) := by
  unfold Sys2Proof.Machine.execAuthTick
  repeat' first
    | with_reducible assumption
    | with_reducible exact Keeps.refl
    | with_reducible apply Keeps.authSend
    | with_reducible refine Keeps.modDie ?_ ?_
    | with_reducible apply Keeps.authJudge
    | with_reducible refine Keeps.ite' (fun _ => ?_) (fun _ => ?_)
    | with_reducible refine KeepsO.next ?_
    | with_reducible refine KeepsO.ite' (fun _ => ?_) (fun _ => ?_)
    | exact rfl
    | exact fun _ => rfl

theorem Keeps.modLine {b : Bool} {s0 s : State} {a1 a2} (h : Keeps b s0 s) :
    Keeps b s0 (State.modLine s a1 a2) := by
  unfold Sys2Proof.Machine.State.modLine
  repeat' first
    | with_reducible assumption
    | with_reducible exact Keeps.refl
    | with_reducible refine Keeps.modDie ?_ ?_
    | exact rfl
    | exact fun _ => rfl

theorem Keeps.plDeliver {b : Bool} {s0 s : State} {a1 a2} (h : Keeps b s0 s) :
    Keeps b s0 (State.plDeliver s a1 a2) := by
  unfold Sys2Proof.Machine.State.plDeliver
  repeat' first
    | with_reducible assumption
    | with_reducible exact Keeps.refl
    | with_reducible apply Keeps.authArrive
    | with_reducible refine Keeps.ite' (fun _ => ?_) (fun _ => ?_)

theorem Keeps.plRelease {b : Bool} {s0 s : State} {a1 a2} (h : Keeps b s0 s) :
    Keeps b s0 (State.plRelease s a1 a2) := by
  unfold Sys2Proof.Machine.State.plRelease
  repeat' first
    | with_reducible assumption
    | with_reducible exact Keeps.refl
    | with_reducible apply Keeps.modLine
    | with_reducible apply Keeps.plDeliver
    | with_reducible refine Keeps.foldl' _ ?_ (fun _ _ _ => ?_)

theorem Keeps.plSettle {b : Bool} {s0 s : State} {a1 a2} (h : Keeps b s0 s) :
    Keeps b s0 (State.plSettle s a1 a2) := by
  have hf (t : State) (a n) (h : Keeps b s0 t) : Keeps b s0
      ((t.setBytes a ((List.range n).map fun i => Config.poisonByte (t.fresh + i))).setFresh (t.fresh + n)) :=
    h.setBytes.setFresh (by rw [State.fresh_setBytes]; exact Nat.le_add_right _ _)
  unfold Sys2Proof.Machine.State.plSettle
  repeat' first
    | with_reducible assumption
    | with_reducible exact Keeps.refl
    | with_reducible apply Keeps.count32
    | with_reducible apply Keeps.evErr
    | with_reducible apply Keeps.busErr
    | with_reducible refine Keeps.setBus ?_ ?_
    | with_reducible apply Keeps.faultFrom
    | with_reducible apply hf
    | with_reducible apply Keeps.modCmd
    | with_reducible refine Keeps.ite' (fun _ => ?_) (fun _ => ?_)
    | split
    | exact fun c => ⟨c.1, c.2, c.3, c.4⟩
    | exact fun c => ⟨c.1, c.2, c.3, twf_tput _ _ _ c.4⟩

theorem Keeps.plReport {b : Bool} {s0 s : State} {a1} (h : Keeps b s0 s) :
    Keeps b s0 (State.plReport s a1) := by
  unfold Sys2Proof.Machine.State.plReport
  repeat' first
    | with_reducible assumption
    | with_reducible exact Keeps.refl
    | with_reducible apply Keeps.count64
    | with_reducible apply Keeps.evSet

theorem KeepsO.execPlCycleReceived {b : Bool} {s0 s : State} {a0 a1 a2} (h : Keeps b s0 s) :
    KeepsO b s0 (execPlCycleReceived a0 a1 a2 s) := by
  unfold Sys2Proof.Machine.execPlCycleReceived
  repeat' first
    | with_reducible assumption
    | with_reducible exact Keeps.refl
    | with_reducible apply Keeps.plRelease
    | with_reducible apply Keeps.modLine
    | with_reducible apply Keeps.plSettle
    | with_reducible apply Keeps.plReport
    | with_reducible apply Keeps.moves
    | with_reducible apply Keeps.plDeliver
    | with_reducible refine Keeps.ite' (fun _ => ?_) (fun _ => ?_)
    | with_reducible refine KeepsO.next ?_
    | with_reducible refine KeepsO.ite' (fun _ => ?_) (fun _ => ?_)
    | split

theorem KeepsO.execPlResend {b : Bool} {s0 s : State} {a0 a1} (h : Keeps b s0 s) :
    KeepsO b s0 (execPlResend a0 a1 s) := by
  unfold Sys2Proof.Machine.execPlResend
  repeat' first
    | with_reducible assumption
    | with_reducible exact Keeps.refl
    | with_reducible apply Keeps.modLine
    | with_reducible apply Keeps.count32
    | with_reducible refine Keeps.ite' (fun _ => ?_) (fun _ => ?_)
    | with_reducible refine KeepsO.next ?_
    | with_reducible refine KeepsO.ite' (fun _ => ?_) (fun _ => ?_)
    | split
    | (dsimp only; split)

end Sys2Proof.Machine
end

