-- ==== Sys2Proof/Laws/Keeps/Runner.lean ====
section
/-! SUPPORT. What the operations of Machine/Runner.lean keep. -/
set_option Elab.async false

namespace Sys2Proof.Machine

theorem Keeps.rdWrite {b : Bool} {s0 s : State} {a1 a2 a3} (h : Keeps b s0 s) :
    Keeps b s0 (State.rdWrite s a1 a2 a3) := by
  unfold Sys2Proof.Machine.State.rdWrite
  repeat' first
    | with_reducible assumption
    | with_reducible exact Keeps.refl
    | with_reducible apply Keeps.wr
    | with_reducible apply Keeps.modUnit
    | with_reducible refine Keeps.ite' (fun _ => ?_) (fun _ => ?_)
    | with_reducible refine Keeps.foldl' _ ?_ (fun _ _ _ => ?_)
    | with_reducible refine Keeps.foldl_fst _ ?_ (fun _ _ _ => ?_)
    | with_reducible refine Keeps.foldl_snd _ ?_ (fun _ _ _ => ?_)
    | with_reducible refine Keeps.forN' _ ?_ (fun _ _ _ => ?_)

theorem Keeps.rdRun {b : Bool} {s0 s : State} {a1 a2 a3} (h : Keeps b s0 s) :
    Keeps b s0 (State.rdRun s a1 a2 a3) := by
  unfold Sys2Proof.Machine.State.rdRun
  repeat' first
    | with_reducible assumption
    | with_reducible exact Keeps.refl
    | with_reducible apply Keeps.rdWrite
    | with_reducible apply Keeps.fhAdd
    | with_reducible refine Keeps.ite' (fun _ => ?_) (fun _ => ?_)
    | with_reducible refine Keeps.ite_fst (fun _ => ?_) (fun _ => ?_)
    | with_reducible refine Keeps.ite_snd (fun _ => ?_) (fun _ => ?_)
    | with_reducible refine Keeps.foldl' _ ?_ (fun _ _ _ => ?_)
    | with_reducible refine Keeps.foldl_fst _ ?_ (fun _ _ _ => ?_)
    | with_reducible refine Keeps.foldl_snd _ ?_ (fun _ _ _ => ?_)
    | split

theorem KeepsI.rpushFx {b : Bool} {s0 s : State} {a0 a1} (h : Keeps b s0 s) :
    KeepsI b s0 (rpushFx a0 a1 s) := by
  unfold Sys2Proof.Machine.rpushFx
  repeat' first
    | with_reducible assumption
    | with_reducible exact Keeps.refl
    | with_reducible apply Keeps.setUnit
    | with_reducible refine Keeps.ite' (fun _ => ?_) (fun _ => ?_)
    | with_reducible refine KeepsI.go ?_
    | with_reducible exact KeepsI.wait
    | with_reducible exact KeepsI.exc
    | with_reducible refine KeepsI.ite' (fun _ => ?_) (fun _ => ?_)

theorem KeepsO.execRpush {b : Bool} {s0 s : State} {a0} (h : Keeps b s0 s) :
    KeepsO b s0 (execRpush a0 s) := by
  unfold Sys2Proof.Machine.execRpush
  repeat' first
    | with_reducible assumption
    | with_reducible exact Keeps.refl
    | with_reducible apply KeepsO.issueRow
    | with_reducible apply KeepsI.rpushFx
    | with_reducible refine KeepsO.next ?_
    | (intro _)

theorem KeepsO.execRunnerDescriptorStart {b : Bool} {s0 s : State} {a0} (h : Keeps b s0 s) :
    KeepsO b s0 (execRunnerDescriptorStart a0 s) := by
  unfold Sys2Proof.Machine.execRunnerDescriptorStart
  repeat' first
    | with_reducible assumption
    | with_reducible exact Keeps.refl
    | with_reducible apply Keeps.kernelRefuse
    | with_reducible apply Keeps.setUnit
    | with_reducible apply KeepsOpt.unitAccess
    | with_reducible refine Keeps.ite' (fun _ => ?_) (fun _ => ?_)
    | with_reducible refine KeepsO.next ?_
    | with_reducible refine KeepsO.ite' (fun _ => ?_) (fun _ => ?_)
    | split
    | (dsimp only; split)
    | refine KeepsOpt.unitAccess ?_ _ (by assumption)

theorem Keeps.rdCount {b : Bool} {s0 s : State} {a1 a2} (h : Keeps b s0 s) :
    Keeps b s0 (State.rdCount s a1 a2) := by
  unfold Sys2Proof.Machine.State.rdCount
  repeat' first
    | with_reducible assumption
    | with_reducible exact Keeps.refl
    | with_reducible apply Keeps.count64
    | with_reducible apply Keeps.movesBytes
    | with_reducible refine Keeps.ite' (fun _ => ?_) (fun _ => ?_)

theorem KeepsO.execRunnerDescriptorDone {b : Bool} {s0 s : State} {a0} (h : Keeps b s0 s) :
    KeepsO b s0 (execRunnerDescriptorDone a0 s) := by
  unfold Sys2Proof.Machine.execRunnerDescriptorDone
  repeat' first
    | with_reducible assumption
    | with_reducible exact Keeps.refl
    | with_reducible apply Keeps.rdCount
    | with_reducible apply Keeps.rdRun
    | with_reducible apply Keeps.modUnit
    | with_reducible apply Keeps.excRecord
    | with_reducible apply Keeps.signal
    | with_reducible refine Keeps.ite' (fun _ => ?_) (fun _ => ?_)
    | with_reducible refine KeepsO.next ?_
    | with_reducible refine KeepsO.ite' (fun _ => ?_) (fun _ => ?_)
    | split
    | (dsimp only; split)

end Sys2Proof.Machine
end

