-- ==== Sys2Proof/Laws/Keeps/TndIssue.lean ====
section
/-! SUPPORT. What the operations of Machine/TndIssue.lean keep. -/
set_option Elab.async false

namespace Sys2Proof.Machine

theorem KeepsI.tndFx {b : Bool} {s0 s : State} {a0 a1} (h : Keeps b s0 s) :
    KeepsI b s0 (tndFx a0 a1 s) := by
  unfold Sys2Proof.Machine.tndFx
  repeat' first
    | with_reducible assumption
    | with_reducible exact Keeps.refl
    | with_reducible apply Keeps.kernelRefuse
    | with_reducible apply Keeps.setUnit
    | with_reducible refine Keeps.ite' (fun _ => ?_) (fun _ => ?_)
    | with_reducible refine KeepsI.go ?_
    | with_reducible exact KeepsI.wait
    | with_reducible exact KeepsI.exc
    | with_reducible refine KeepsI.ite' (fun _ => ?_) (fun _ => ?_)
    | split
    | (dsimp only; split)

theorem KeepsO.execTundishOpComplete {b : Bool} {s0 s : State} {a0} (h : Keeps b s0 s) :
    KeepsO b s0 (execTundishOpComplete a0 s) := by
  unfold Sys2Proof.Machine.execTundishOpComplete
  repeat' first
    | with_reducible assumption
    | with_reducible exact Keeps.refl
    | with_reducible apply Keeps.setUnit
    | with_reducible apply Keeps.excRecord
    | with_reducible apply Keeps.fhAdd
    | with_reducible refine Keeps.ite' (fun _ => ?_) (fun _ => ?_)
    | with_reducible refine KeepsO.next ?_
    | with_reducible refine KeepsO.ite' (fun _ => ?_) (fun _ => ?_)
    | split
    | (dsimp only; split)

theorem KeepsO.execAdd {b : Bool} {s0 s : State} {a0} (h : Keeps b s0 s) :
    KeepsO b s0 (execAdd a0 s) := by
  unfold Sys2Proof.Machine.execAdd
  repeat' first
    | with_reducible assumption
    | with_reducible exact Keeps.refl
    | with_reducible apply KeepsO.issueRow
    | with_reducible apply KeepsI.tndFx
    | with_reducible refine KeepsO.next ?_
    | (intro _)

theorem KeepsO.execSub {b : Bool} {s0 s : State} {a0} (h : Keeps b s0 s) :
    KeepsO b s0 (execSub a0 s) := by
  unfold Sys2Proof.Machine.execSub
  repeat' first
    | with_reducible assumption
    | with_reducible exact Keeps.refl
    | with_reducible apply KeepsO.issueRow
    | with_reducible apply KeepsI.tndFx
    | with_reducible refine KeepsO.next ?_
    | (intro _)

theorem KeepsO.execMul {b : Bool} {s0 s : State} {a0} (h : Keeps b s0 s) :
    KeepsO b s0 (execMul a0 s) := by
  unfold Sys2Proof.Machine.execMul
  repeat' first
    | with_reducible assumption
    | with_reducible exact Keeps.refl
    | with_reducible apply KeepsO.issueRow
    | with_reducible apply KeepsI.tndFx
    | with_reducible refine KeepsO.next ?_
    | (intro _)

theorem KeepsO.execMin {b : Bool} {s0 s : State} {a0} (h : Keeps b s0 s) :
    KeepsO b s0 (execMin a0 s) := by
  unfold Sys2Proof.Machine.execMin
  repeat' first
    | with_reducible assumption
    | with_reducible exact Keeps.refl
    | with_reducible apply KeepsO.issueRow
    | with_reducible apply KeepsI.tndFx
    | with_reducible refine KeepsO.next ?_
    | (intro _)

theorem KeepsO.execMax {b : Bool} {s0 s : State} {a0} (h : Keeps b s0 s) :
    KeepsO b s0 (execMax a0 s) := by
  unfold Sys2Proof.Machine.execMax
  repeat' first
    | with_reducible assumption
    | with_reducible exact Keeps.refl
    | with_reducible apply KeepsO.issueRow
    | with_reducible apply KeepsI.tndFx
    | with_reducible refine KeepsO.next ?_
    | (intro _)

theorem KeepsO.execFma {b : Bool} {s0 s : State} {a0} (h : Keeps b s0 s) :
    KeepsO b s0 (execFma a0 s) := by
  unfold Sys2Proof.Machine.execFma
  repeat' first
    | with_reducible assumption
    | with_reducible exact Keeps.refl
    | with_reducible apply KeepsO.issueRow
    | with_reducible apply KeepsI.tndFx
    | with_reducible refine KeepsO.next ?_
    | (intro _)

theorem KeepsO.execFill {b : Bool} {s0 s : State} {a0} (h : Keeps b s0 s) :
    KeepsO b s0 (execFill a0 s) := by
  unfold Sys2Proof.Machine.execFill
  repeat' first
    | with_reducible assumption
    | with_reducible exact Keeps.refl
    | with_reducible apply KeepsO.issueRow
    | with_reducible apply KeepsI.tndFx
    | with_reducible refine KeepsO.next ?_
    | (intro _)

theorem KeepsO.execCvt {b : Bool} {s0 s : State} {a0} (h : Keeps b s0 s) :
    KeepsO b s0 (execCvt a0 s) := by
  unfold Sys2Proof.Machine.execCvt
  repeat' first
    | with_reducible assumption
    | with_reducible exact Keeps.refl
    | with_reducible apply KeepsO.issueRow
    | with_reducible apply KeepsI.tndFx
    | with_reducible refine KeepsO.next ?_
    | (intro _)

theorem KeepsO.execNeg {b : Bool} {s0 s : State} {a0} (h : Keeps b s0 s) :
    KeepsO b s0 (execNeg a0 s) := by
  unfold Sys2Proof.Machine.execNeg
  repeat' first
    | with_reducible assumption
    | with_reducible exact Keeps.refl
    | with_reducible apply KeepsO.issueRow
    | with_reducible apply KeepsI.tndFx
    | with_reducible refine KeepsO.next ?_
    | (intro _)

theorem KeepsO.execAbs {b : Bool} {s0 s : State} {a0} (h : Keeps b s0 s) :
    KeepsO b s0 (execAbs a0 s) := by
  unfold Sys2Proof.Machine.execAbs
  repeat' first
    | with_reducible assumption
    | with_reducible exact Keeps.refl
    | with_reducible apply KeepsO.issueRow
    | with_reducible apply KeepsI.tndFx
    | with_reducible refine KeepsO.next ?_
    | (intro _)

theorem KeepsO.execExp2 {b : Bool} {s0 s : State} {a0} (h : Keeps b s0 s) :
    KeepsO b s0 (execExp2 a0 s) := by
  unfold Sys2Proof.Machine.execExp2
  repeat' first
    | with_reducible assumption
    | with_reducible exact Keeps.refl
    | with_reducible apply KeepsO.issueRow
    | with_reducible apply KeepsI.tndFx
    | with_reducible refine KeepsO.next ?_
    | (intro _)

theorem KeepsO.execLog2 {b : Bool} {s0 s : State} {a0} (h : Keeps b s0 s) :
    KeepsO b s0 (execLog2 a0 s) := by
  unfold Sys2Proof.Machine.execLog2
  repeat' first
    | with_reducible assumption
    | with_reducible exact Keeps.refl
    | with_reducible apply KeepsO.issueRow
    | with_reducible apply KeepsI.tndFx
    | with_reducible refine KeepsO.next ?_
    | (intro _)

theorem KeepsO.execRecip {b : Bool} {s0 s : State} {a0} (h : Keeps b s0 s) :
    KeepsO b s0 (execRecip a0 s) := by
  unfold Sys2Proof.Machine.execRecip
  repeat' first
    | with_reducible assumption
    | with_reducible exact Keeps.refl
    | with_reducible apply KeepsO.issueRow
    | with_reducible apply KeepsI.tndFx
    | with_reducible refine KeepsO.next ?_
    | (intro _)

theorem KeepsO.execRsqrt {b : Bool} {s0 s : State} {a0} (h : Keeps b s0 s) :
    KeepsO b s0 (execRsqrt a0 s) := by
  unfold Sys2Proof.Machine.execRsqrt
  repeat' first
    | with_reducible assumption
    | with_reducible exact Keeps.refl
    | with_reducible apply KeepsO.issueRow
    | with_reducible apply KeepsI.tndFx
    | with_reducible refine KeepsO.next ?_
    | (intro _)

theorem KeepsO.execCmplt {b : Bool} {s0 s : State} {a0} (h : Keeps b s0 s) :
    KeepsO b s0 (execCmplt a0 s) := by
  unfold Sys2Proof.Machine.execCmplt
  repeat' first
    | with_reducible assumption
    | with_reducible exact Keeps.refl
    | with_reducible apply KeepsO.issueRow
    | with_reducible apply KeepsI.tndFx
    | with_reducible refine KeepsO.next ?_
    | (intro _)

theorem KeepsO.execCmple {b : Bool} {s0 s : State} {a0} (h : Keeps b s0 s) :
    KeepsO b s0 (execCmple a0 s) := by
  unfold Sys2Proof.Machine.execCmple
  repeat' first
    | with_reducible assumption
    | with_reducible exact Keeps.refl
    | with_reducible apply KeepsO.issueRow
    | with_reducible apply KeepsI.tndFx
    | with_reducible refine KeepsO.next ?_
    | (intro _)

theorem KeepsO.execCmpeq {b : Bool} {s0 s : State} {a0} (h : Keeps b s0 s) :
    KeepsO b s0 (execCmpeq a0 s) := by
  unfold Sys2Proof.Machine.execCmpeq
  repeat' first
    | with_reducible assumption
    | with_reducible exact Keeps.refl
    | with_reducible apply KeepsO.issueRow
    | with_reducible apply KeepsI.tndFx
    | with_reducible refine KeepsO.next ?_
    | (intro _)

theorem KeepsO.execCmpne {b : Bool} {s0 s : State} {a0} (h : Keeps b s0 s) :
    KeepsO b s0 (execCmpne a0 s) := by
  unfold Sys2Proof.Machine.execCmpne
  repeat' first
    | with_reducible assumption
    | with_reducible exact Keeps.refl
    | with_reducible apply KeepsO.issueRow
    | with_reducible apply KeepsI.tndFx
    | with_reducible refine KeepsO.next ?_
    | (intro _)

theorem KeepsO.execSelect {b : Bool} {s0 s : State} {a0} (h : Keeps b s0 s) :
    KeepsO b s0 (execSelect a0 s) := by
  unfold Sys2Proof.Machine.execSelect
  repeat' first
    | with_reducible assumption
    | with_reducible exact Keeps.refl
    | with_reducible apply KeepsO.issueRow
    | with_reducible apply KeepsI.tndFx
    | with_reducible refine KeepsO.next ?_
    | (intro _)

theorem KeepsO.execMkcausal {b : Bool} {s0 s : State} {a0} (h : Keeps b s0 s) :
    KeepsO b s0 (execMkcausal a0 s) := by
  unfold Sys2Proof.Machine.execMkcausal
  repeat' first
    | with_reducible assumption
    | with_reducible exact Keeps.refl
    | with_reducible apply KeepsO.issueRow
    | with_reducible apply KeepsI.tndFx
    | with_reducible refine KeepsO.next ?_
    | (intro _)

theorem KeepsO.execRsum {b : Bool} {s0 s : State} {a0} (h : Keeps b s0 s) :
    KeepsO b s0 (execRsum a0 s) := by
  unfold Sys2Proof.Machine.execRsum
  repeat' first
    | with_reducible assumption
    | with_reducible exact Keeps.refl
    | with_reducible apply KeepsO.issueRow
    | with_reducible apply KeepsI.tndFx
    | with_reducible refine KeepsO.next ?_
    | (intro _)

theorem KeepsO.execRmax {b : Bool} {s0 s : State} {a0} (h : Keeps b s0 s) :
    KeepsO b s0 (execRmax a0 s) := by
  unfold Sys2Proof.Machine.execRmax
  repeat' first
    | with_reducible assumption
    | with_reducible exact Keeps.refl
    | with_reducible apply KeepsO.issueRow
    | with_reducible apply KeepsI.tndFx
    | with_reducible refine KeepsO.next ?_
    | (intro _)

theorem KeepsO.execRmin {b : Bool} {s0 s : State} {a0} (h : Keeps b s0 s) :
    KeepsO b s0 (execRmin a0 s) := by
  unfold Sys2Proof.Machine.execRmin
  repeat' first
    | with_reducible assumption
    | with_reducible exact Keeps.refl
    | with_reducible apply KeepsO.issueRow
    | with_reducible apply KeepsI.tndFx
    | with_reducible refine KeepsO.next ?_
    | (intro _)

theorem KeepsO.execRcnt {b : Bool} {s0 s : State} {a0} (h : Keeps b s0 s) :
    KeepsO b s0 (execRcnt a0 s) := by
  unfold Sys2Proof.Machine.execRcnt
  repeat' first
    | with_reducible assumption
    | with_reducible exact Keeps.refl
    | with_reducible apply KeepsO.issueRow
    | with_reducible apply KeepsI.tndFx
    | with_reducible refine KeepsO.next ?_
    | (intro _)

theorem KeepsO.execRargmax {b : Bool} {s0 s : State} {a0} (h : Keeps b s0 s) :
    KeepsO b s0 (execRargmax a0 s) := by
  unfold Sys2Proof.Machine.execRargmax
  repeat' first
    | with_reducible assumption
    | with_reducible exact Keeps.refl
    | with_reducible apply KeepsO.issueRow
    | with_reducible apply KeepsI.tndFx
    | with_reducible refine KeepsO.next ?_
    | (intro _)

theorem KeepsO.execRargmin {b : Bool} {s0 s : State} {a0} (h : Keeps b s0 s) :
    KeepsO b s0 (execRargmin a0 s) := by
  unfold Sys2Proof.Machine.execRargmin
  repeat' first
    | with_reducible assumption
    | with_reducible exact Keeps.refl
    | with_reducible apply KeepsO.issueRow
    | with_reducible apply KeepsI.tndFx
    | with_reducible refine KeepsO.next ?_
    | (intro _)

theorem KeepsO.execRmaxsum {b : Bool} {s0 s : State} {a0} (h : Keeps b s0 s) :
    KeepsO b s0 (execRmaxsum a0 s) := by
  unfold Sys2Proof.Machine.execRmaxsum
  repeat' first
    | with_reducible assumption
    | with_reducible exact Keeps.refl
    | with_reducible apply KeepsO.issueRow
    | with_reducible apply KeepsI.tndFx
    | with_reducible refine KeepsO.next ?_
    | (intro _)

theorem KeepsO.execCsum {b : Bool} {s0 s : State} {a0} (h : Keeps b s0 s) :
    KeepsO b s0 (execCsum a0 s) := by
  unfold Sys2Proof.Machine.execCsum
  repeat' first
    | with_reducible assumption
    | with_reducible exact Keeps.refl
    | with_reducible apply KeepsO.issueRow
    | with_reducible apply KeepsI.tndFx
    | with_reducible refine KeepsO.next ?_
    | (intro _)

theorem KeepsO.execCmax {b : Bool} {s0 s : State} {a0} (h : Keeps b s0 s) :
    KeepsO b s0 (execCmax a0 s) := by
  unfold Sys2Proof.Machine.execCmax
  repeat' first
    | with_reducible assumption
    | with_reducible exact Keeps.refl
    | with_reducible apply KeepsO.issueRow
    | with_reducible apply KeepsI.tndFx
    | with_reducible refine KeepsO.next ?_
    | (intro _)

theorem KeepsO.execFanadd {b : Bool} {s0 s : State} {a0} (h : Keeps b s0 s) :
    KeepsO b s0 (execFanadd a0 s) := by
  unfold Sys2Proof.Machine.execFanadd
  repeat' first
    | with_reducible assumption
    | with_reducible exact Keeps.refl
    | with_reducible apply KeepsO.issueRow
    | with_reducible apply KeepsI.tndFx
    | with_reducible refine KeepsO.next ?_
    | (intro _)

theorem KeepsO.execScale {b : Bool} {s0 s : State} {a0} (h : Keeps b s0 s) :
    KeepsO b s0 (execScale a0 s) := by
  unfold Sys2Proof.Machine.execScale
  repeat' first
    | with_reducible assumption
    | with_reducible exact Keeps.refl
    | with_reducible apply KeepsO.issueRow
    | with_reducible apply KeepsI.tndFx
    | with_reducible refine KeepsO.next ?_
    | (intro _)

theorem KeepsO.execCompress {b : Bool} {s0 s : State} {a0} (h : Keeps b s0 s) :
    KeepsO b s0 (execCompress a0 s) := by
  unfold Sys2Proof.Machine.execCompress
  repeat' first
    | with_reducible assumption
    | with_reducible exact Keeps.refl
    | with_reducible apply KeepsO.issueRow
    | with_reducible apply KeepsI.tndFx
    | with_reducible refine KeepsO.next ?_
    | (intro _)

theorem KeepsO.execExpand {b : Bool} {s0 s : State} {a0} (h : Keeps b s0 s) :
    KeepsO b s0 (execExpand a0 s) := by
  unfold Sys2Proof.Machine.execExpand
  repeat' first
    | with_reducible assumption
    | with_reducible exact Keeps.refl
    | with_reducible apply KeepsO.issueRow
    | with_reducible apply KeepsI.tndFx
    | with_reducible refine KeepsO.next ?_
    | (intro _)

theorem KeepsO.execPermute {b : Bool} {s0 s : State} {a0} (h : Keeps b s0 s) :
    KeepsO b s0 (execPermute a0 s) := by
  unfold Sys2Proof.Machine.execPermute
  repeat' first
    | with_reducible assumption
    | with_reducible exact Keeps.refl
    | with_reducible apply KeepsO.issueRow
    | with_reducible apply KeepsI.tndFx
    | with_reducible refine KeepsO.next ?_
    | (intro _)

theorem KeepsO.execGather {b : Bool} {s0 s : State} {a0} (h : Keeps b s0 s) :
    KeepsO b s0 (execGather a0 s) := by
  unfold Sys2Proof.Machine.execGather
  repeat' first
    | with_reducible assumption
    | with_reducible exact Keeps.refl
    | with_reducible apply KeepsO.issueRow
    | with_reducible apply KeepsI.tndFx
    | with_reducible refine KeepsO.next ?_
    | (intro _)

theorem KeepsO.execSoftblk {b : Bool} {s0 s : State} {a0} (h : Keeps b s0 s) :
    KeepsO b s0 (execSoftblk a0 s) := by
  unfold Sys2Proof.Machine.execSoftblk
  repeat' first
    | with_reducible assumption
    | with_reducible exact Keeps.refl
    | with_reducible apply KeepsO.issueRow
    | with_reducible apply KeepsI.tndFx
    | with_reducible refine KeepsO.next ?_
    | (intro _)

theorem KeepsO.execAttnNorm {b : Bool} {s0 s : State} {a0} (h : Keeps b s0 s) :
    KeepsO b s0 (execAttnNorm a0 s) := by
  unfold Sys2Proof.Machine.execAttnNorm
  repeat' first
    | with_reducible assumption
    | with_reducible exact Keeps.refl
    | with_reducible apply KeepsO.issueRow
    | with_reducible apply KeepsI.tndFx
    | with_reducible refine KeepsO.next ?_
    | (intro _)

end Sys2Proof.Machine
end

