-- ==== Sys2Proof/Laws/Keeps/Debug.lean ====
section
/-! SUPPORT. What the operations of Machine/Debug.lean keep. -/
set_option Elab.async false

namespace Sys2Proof.Machine

theorem Keeps.dbgRefuse {b : Bool} {s0 s : State} (h : Keeps b s0 s) :
    Keeps b s0 (State.dbgRefuse s) := by
  unfold Sys2Proof.Machine.State.dbgRefuse
  repeat' first
    | with_reducible assumption
    | with_reducible exact Keeps.refl
    | with_reducible apply Keeps.evSet

theorem Keeps.burnFail {b : Bool} {s0 s : State} {a1 a2} (h : Keeps b s0 s) :
    Keeps b s0 (State.burnFail s a1 a2) := by
  unfold Sys2Proof.Machine.State.burnFail
  repeat' first
    | with_reducible assumption
    | with_reducible exact Keeps.refl
    | with_reducible apply Keeps.evErr
    | with_reducible apply Keeps.setPg

theorem Keeps.progStart {s0 s : State} {a1 a2 a3} (h : Keeps false s0 s) :
    Keeps false s0 (State.progStart s a1 a2 a3) := by
  unfold Sys2Proof.Machine.State.progStart
  repeat' first
    | with_reducible assumption
    | with_reducible apply Keeps.burnFail
    | with_reducible refine Keeps.modDie' ?_ (fun _ c => ⟨c, .of_eq rfl⟩)
    | with_reducible refine Keeps.ite' (fun _ => ?_) (fun _ => ?_)
    | split
    | (dsimp only; split)

theorem KeepsO.execOtpBurnDone {s0 s : State} {a0 a1} (h : Keeps false s0 s) :
    KeepsO false s0 (execOtpBurnDone a0 a1 s) := by
  unfold Sys2Proof.Machine.execOtpBurnDone
  split
  · refine KeepsO.ite' (fun _ => ?_) (fun _ => ?_)
    · exact KeepsO.next (Keeps.evSet (Keeps.modDie' h fun x c => ⟨twf_tput _ _ _ c, Otp.Grows.put c⟩))
    · exact KeepsO.next (Keeps.burnFail (Keeps.modDie' h.draw fun x c => Otp.Grows.breakOff c))
  · exact KeepsO.next h

theorem Keeps.dbgChallenge {s0 s : State} (h : Keeps false s0 s) :
    Keeps false s0 (State.dbgChallenge s) := by
  unfold Sys2Proof.Machine.State.dbgChallenge
  repeat' first
    | with_reducible assumption
    | with_reducible exact Keeps.refl
    | with_reducible apply Keeps.dbgRefuse
    | with_reducible apply Keeps.draw
    | with_reducible apply Keeps.setDbg
    | with_reducible refine Keeps.ite' (fun _ => ?_) (fun _ => ?_)

theorem Keeps.dbgVerifyKey {s0 s : State} (h : Keeps false s0 s) :
    Keeps false s0 (State.dbgVerifyKey s) := by
  unfold Sys2Proof.Machine.State.dbgVerifyKey
  repeat' first
    | with_reducible assumption
    | with_reducible exact Keeps.refl
    | with_reducible apply Keeps.dbgRefuse
    | with_reducible apply Keeps.setDbg
    | with_reducible refine Keeps.ite' (fun _ => ?_) (fun _ => ?_)

theorem Keeps.dbgVerifyPwd {s0 s : State} (h : Keeps false s0 s) :
    Keeps false s0 (State.dbgVerifyPwd s) := by
  unfold Sys2Proof.Machine.State.dbgVerifyPwd
  repeat' first
    | with_reducible assumption
    | with_reducible exact Keeps.refl
    | with_reducible apply Keeps.setDbg
    | with_reducible refine Keeps.ite' (fun _ => ?_) (fun _ => ?_)

theorem Keeps.dbgClose {s0 s : State} (h : Keeps false s0 s) :
    Keeps false s0 (State.dbgClose s) := by
  unfold Sys2Proof.Machine.State.dbgClose
  repeat' first
    | with_reducible assumption
    | with_reducible exact Keeps.refl
    | with_reducible apply Keeps.setDbg
    | with_reducible refine Keeps.ite' (fun _ => ?_) (fun _ => ?_)

theorem Keeps.authCmd {s0 s : State} {a1} (h : Keeps false s0 s) :
    Keeps false s0 (State.authCmd s a1) := by
  unfold Sys2Proof.Machine.State.authCmd
  repeat' first
    | with_reducible assumption
    | with_reducible exact Keeps.refl
    | with_reducible apply Keeps.dbgChallenge
    | with_reducible apply Keeps.dbgVerifyKey
    | with_reducible apply Keeps.dbgVerifyPwd
    | with_reducible apply Keeps.dbgClose
    | split

theorem KeepsO.execAuthVerdict {s0 s : State} (h : Keeps false s0 s) :
    KeepsO false s0 (execAuthVerdict s) := by
  unfold Sys2Proof.Machine.execAuthVerdict
  repeat' first
    | with_reducible assumption
    | with_reducible exact Keeps.refl
    | with_reducible apply Keeps.setDbg
    | with_reducible apply Keeps.evSet
    | with_reducible refine Keeps.ite' (fun _ => ?_) (fun _ => ?_)
    | with_reducible refine KeepsO.next ?_
    | with_reducible refine KeepsO.ite' (fun _ => ?_) (fun _ => ?_)
    | split

theorem KeepsO.execNonceExpiry {s0 s : State} (h : Keeps false s0 s) :
    KeepsO false s0 (execNonceExpiry s) := by
  unfold Sys2Proof.Machine.execNonceExpiry
  repeat' first
    | with_reducible assumption
    | with_reducible exact Keeps.refl
    | with_reducible apply Keeps.setDbg
    | with_reducible refine KeepsO.next ?_

theorem KeepsI.rowFx {b : Bool} {s0 s : State} {a0 a1 a2} (h : Keeps b s0 s) :
    KeepsI b s0 (rowFx a0 a1 a2 s) := by
  unfold Sys2Proof.Machine.rowFx
  repeat' first
    | with_reducible assumption
    | with_reducible exact Keeps.refl
    | with_reducible apply KeepsI.tndFx
    | with_reducible apply KeepsI.onSeq
    | with_reducible apply KeepsI.ldwFx
    | with_reducible apply KeepsI.stwFx
    | with_reducible apply KeepsI.arrFx
    | with_reducible apply KeepsI.drnFx
    | with_reducible apply KeepsI.rpushFx
    | with_reducible apply KeepsI.waitFx
    | with_reducible apply KeepsI.sigFx
    | with_reducible apply KeepsI.pollFx
    | with_reducible apply KeepsI.barFx
    | with_reducible apply KeepsI.sysNopFx
    | with_reducible apply KeepsI.haltFx
    | with_reducible apply KeepsI.brkFx
    | with_reducible apply KeepsI.rdsrFx
    | with_reducible apply KeepsI.waiteFx
    | with_reducible apply KeepsI.trapFx
    | with_reducible refine Keeps.ite' (fun _ => ?_) (fun _ => ?_)
    | with_reducible refine KeepsI.go ?_
    | with_reducible exact KeepsI.wait
    | with_reducible exact KeepsI.exc
    | with_reducible refine KeepsI.ite' (fun _ => ?_) (fun _ => ?_)
    | split

theorem Keeps.dbgStep {b : Bool} {s0 s : State} {a1} (h : Keeps b s0 s) :
    Keeps b s0 (State.dbgStep s a1) := by
  unfold Sys2Proof.Machine.State.dbgStep
  repeat' first
    | with_reducible assumption
    | with_reducible exact Keeps.refl
    | with_reducible apply Keeps.issueWord
    | with_reducible apply Keeps.setUnit
    | with_reducible apply KeepsI.rowFx
    | with_reducible apply Keeps.seqExc
    | with_reducible refine Keeps.ite' (fun _ => ?_) (fun _ => ?_)
    | split
    | (dsimp only; split)
    | (intro _)

theorem Keeps.dbgResume {b : Bool} {s0 s : State} {a1} (h : Keeps b s0 s) :
    Keeps b s0 (State.dbgResume s a1) := by
  unfold Sys2Proof.Machine.State.dbgResume
  repeat' first
    | with_reducible assumption
    | with_reducible exact Keeps.refl
    | with_reducible apply Keeps.setUnit
    | with_reducible apply Keeps.seqExc
    | with_reducible refine Keeps.ite' (fun _ => ?_) (fun _ => ?_)

theorem Keeps.runCtrl {b : Bool} {s0 s : State} {a1 a2} (h : Keeps b s0 s) :
    Keeps b s0 (State.runCtrl s a1 a2) := by
  unfold Sys2Proof.Machine.State.runCtrl
  repeat' first
    | with_reducible assumption
    | with_reducible exact Keeps.refl
    | with_reducible apply Keeps.dbgRefuse
    | with_reducible apply Keeps.setUnit
    | with_reducible apply Keeps.dbgStep
    | with_reducible apply Keeps.dbgResume
    | with_reducible refine Keeps.ite' (fun _ => ?_) (fun _ => ?_)
    | split
    | (dsimp only; split)

theorem Keeps.dbgRead {b : Bool} {s0 s : State} {a1 a2} (h : Keeps b s0 s) :
    Keeps b s0 (State.dbgRead s a1 a2).1 := by
  unfold Sys2Proof.Machine.State.dbgRead
  repeat' first
    | with_reducible assumption
    | with_reducible exact Keeps.refl
    | with_reducible apply Keeps.draw
    | with_reducible apply Keeps.dbgRefuse
    | with_reducible refine Keeps.ite' (fun _ => ?_) (fun _ => ?_)
    | with_reducible refine Keeps.ite_fst (fun _ => ?_) (fun _ => ?_)
    | with_reducible refine Keeps.ite_snd (fun _ => ?_) (fun _ => ?_)
    | split
    | (dsimp only; split)
    | refine Keeps.of_fst (by assumption) ?_
    | refine Keeps.of_snd (by assumption) ?_

theorem Keeps.dbgWrite {b : Bool} {s0 s : State} {a1 a2} (h : Keeps b s0 s) :
    Keeps b s0 (State.dbgWrite s a1 a2) := by
  unfold Sys2Proof.Machine.State.dbgWrite
  repeat' first
    | with_reducible assumption
    | with_reducible exact Keeps.refl
    | with_reducible apply Keeps.setUnit
    | with_reducible apply Keeps.dbgRefuse
    | with_reducible refine Keeps.ite' (fun _ => ?_) (fun _ => ?_)
    | split

end Sys2Proof.Machine
end

