-- ==== Sys2Proof/Laws/Keeps/Fabric.lean ====
section
/-! SUPPORT. What the operations of Machine/Fabric.lean keep. -/
set_option Elab.async false

namespace Sys2Proof.Machine

theorem Keeps.portCfgErr {b : Bool} {s0 s : State} {a1} (h : Keeps b s0 s) :
    Keeps b s0 (State.portCfgErr s a1) := by
  unfold Sys2Proof.Machine.State.portCfgErr
  repeat' first
    | with_reducible assumption
    | with_reducible exact Keeps.refl
    | with_reducible apply Keeps.evSet

theorem Keeps.portTrain {b : Bool} {s0 s : State} {a1} (h : Keeps b s0 s) :
    Keeps b s0 (State.portTrain s a1) := by
  unfold Sys2Proof.Machine.State.portTrain
  repeat' first
    | with_reducible assumption
    | with_reducible exact Keeps.refl
    | with_reducible apply Keeps.moves
    | with_reducible apply Keeps.portCfgErr
    | with_reducible apply Keeps.setPort
    | with_reducible apply Keeps.setPg
    | with_reducible refine Keeps.ite' (fun _ => ?_) (fun _ => ?_)

theorem Keeps.portUp {b : Bool} {s0 s : State} {a1} (h : Keeps b s0 s) :
    Keeps b s0 (State.portUp s a1) := by
  unfold Sys2Proof.Machine.State.portUp
  repeat' first
    | with_reducible assumption
    | with_reducible exact Keeps.refl
    | with_reducible apply Keeps.modPort
    | with_reducible apply Keeps.setPg
    | with_reducible apply Keeps.txPump
    | with_reducible apply Keeps.evSet

theorem Keeps.linkSend {b : Bool} {s0 s : State} {a1 a2 a3} (h : Keeps b s0 s) :
    Keeps b s0 (State.linkSend s a1 a2 a3) := by
  unfold Sys2Proof.Machine.State.linkSend
  repeat' first
    | with_reducible assumption
    | with_reducible exact Keeps.refl
    | with_reducible apply Keeps.txPump
    | with_reducible apply Keeps.modPort

theorem Keeps.linkAgreed {b : Bool} {s0 s : State} {a1} (h : Keeps b s0 s) :
    Keeps b s0 (State.linkAgreed s a1) := by
  unfold Sys2Proof.Machine.State.linkAgreed
  repeat' first
    | with_reducible assumption
    | with_reducible exact Keeps.refl
    | with_reducible apply Keeps.setPort
    | with_reducible apply Keeps.portUp
    | with_reducible refine Keeps.ite' (fun _ => ?_) (fun _ => ?_)

theorem KeepsO.execPortTrained {b : Bool} {s0 s : State} {a0} (h : Keeps b s0 s) :
    KeepsO b s0 (execPortTrained a0 s) := by
  unfold Sys2Proof.Machine.execPortTrained
  repeat' first
    | with_reducible assumption
    | with_reducible exact Keeps.refl
    | with_reducible apply Keeps.setPort
    | with_reducible apply Keeps.portUp
    | with_reducible apply Keeps.linkSend
    | with_reducible refine Keeps.ite' (fun _ => ?_) (fun _ => ?_)
    | with_reducible refine KeepsO.next ?_
    | with_reducible refine KeepsO.ite' (fun _ => ?_) (fun _ => ?_)

theorem Keeps.linkHello {b : Bool} {s0 s : State} {a1 a2} (h : Keeps b s0 s) :
    Keeps b s0 (State.linkHello s a1 a2) := by
  unfold Sys2Proof.Machine.State.linkHello
  repeat' first
    | with_reducible assumption
    | with_reducible exact Keeps.refl
    | with_reducible apply Keeps.portDown
    | with_reducible apply Keeps.evSet
    | with_reducible apply Keeps.modPort
    | with_reducible apply Keeps.linkAgreed
    | with_reducible apply Keeps.linkSend
    | with_reducible refine Keeps.ite' (fun _ => ?_) (fun _ => ?_)

theorem Keeps.linkHelloAck {b : Bool} {s0 s : State} {a1} (h : Keeps b s0 s) :
    Keeps b s0 (State.linkHelloAck s a1) := by
  unfold Sys2Proof.Machine.State.linkHelloAck
  repeat' first
    | with_reducible assumption
    | with_reducible exact Keeps.refl
    | with_reducible apply Keeps.linkAgreed
    | with_reducible apply Keeps.modPort
    | with_reducible refine Keeps.ite' (fun _ => ?_) (fun _ => ?_)

theorem Keeps.msgDrop {b : Bool} {s0 s : State} {a1} (h : Keeps b s0 s) :
    Keeps b s0 (State.msgDrop s a1) := by
  unfold Sys2Proof.Machine.State.msgDrop
  repeat' first
    | with_reducible assumption
    | with_reducible exact Keeps.refl
    | with_reducible apply Keeps.count32

theorem Keeps.ethAcked {b : Bool} {s0 s : State} {a1} (h : Keeps b s0 s) :
    Keeps b s0 (State.ethAcked s a1) := by
  unfold Sys2Proof.Machine.State.ethAcked
  repeat' first
    | with_reducible assumption
    | with_reducible exact Keeps.refl
    | with_reducible apply Keeps.modPort
    | with_reducible refine Keeps.foldl' _ ?_ (fun _ _ _ => ?_)

theorem Keeps.transit {b : Bool} {s0 s : State} {a1 a2} (h : Keeps b s0 s) :
    Keeps b s0 (State.transit s a1 a2) := by
  unfold Sys2Proof.Machine.State.transit
  repeat' first
    | with_reducible assumption
    | with_reducible exact Keeps.refl
    | with_reducible apply Keeps.ethAcked
    | with_reducible apply Keeps.portSend
    | with_reducible apply Keeps.msgDrop
    | with_reducible apply Keeps.noRouteTo
    | with_reducible refine Keeps.ite' (fun _ => ?_) (fun _ => ?_)
    | split
    | (dsimp only; split)

theorem Keeps.probeReply {b : Bool} {s0 s : State} {a1} (h : Keeps b s0 s) :
    Keeps b s0 (State.probeReply s a1) := by
  unfold Sys2Proof.Machine.State.probeReply
  repeat' first
    | with_reducible assumption
    | with_reducible exact Keeps.refl
    | with_reducible apply Keeps.fabSend

theorem Keeps.fabTake {b : Bool} {s0 s : State} {a1 a2} (h : Keeps b s0 s) :
    Keeps b s0 (State.fabTake s a1 a2) := by
  unfold Sys2Proof.Machine.State.fabTake
  repeat' first
    | with_reducible assumption
    | with_reducible exact Keeps.refl
    | with_reducible apply Keeps.hear
    | with_reducible apply Keeps.linkHello
    | with_reducible apply Keeps.linkHelloAck
    | with_reducible apply Keeps.ethAcked
    | with_reducible apply Keeps.probeReply
    | with_reducible apply Keeps.lostRoute
    | with_reducible apply Keeps.storeData
    | with_reducible apply Keeps.storeAck
    | with_reducible apply Keeps.msgDrop
    | with_reducible refine Keeps.ite' (fun _ => ?_) (fun _ => ?_)
    | split

theorem Keeps.fabReceive {b : Bool} {s0 s : State} {a1 a2} (h : Keeps b s0 s) :
    Keeps b s0 (State.fabReceive s a1 a2) := by
  unfold Sys2Proof.Machine.State.fabReceive
  repeat' first
    | with_reducible assumption
    | with_reducible exact Keeps.refl
    | with_reducible apply Keeps.msgDrop
    | with_reducible apply Keeps.fabTake
    | with_reducible apply Keeps.transit
    | with_reducible refine Keeps.ite' (fun _ => ?_) (fun _ => ?_)

theorem KeepsO.fabRow {b : Bool} {s0 s : State} {a1 a2 a3} (h : Keeps b s0 s) :
    KeepsO b s0 (State.fabRow s a1 a2 a3) := by
  unfold Sys2Proof.Machine.State.fabRow
  repeat' first
    | with_reducible assumption
    | with_reducible exact Keeps.refl
    | with_reducible apply Keeps.fabReceive
    | with_reducible refine Keeps.ite' (fun _ => ?_) (fun _ => ?_)
    | with_reducible refine KeepsO.next ?_
    | with_reducible refine KeepsO.ite' (fun _ => ?_) (fun _ => ?_)

theorem KeepsO.execLinkHello {b : Bool} {s0 s : State} {a0 a1} (h : Keeps b s0 s) :
    KeepsO b s0 (execLinkHello a0 a1 s) := by
  unfold Sys2Proof.Machine.execLinkHello
  repeat' first
    | with_reducible assumption
    | with_reducible exact Keeps.refl
    | with_reducible apply KeepsO.fabRow

theorem KeepsO.execLinkHelloAck {b : Bool} {s0 s : State} {a0 a1} (h : Keeps b s0 s) :
    KeepsO b s0 (execLinkHelloAck a0 a1 s) := by
  unfold Sys2Proof.Machine.execLinkHelloAck
  repeat' first
    | with_reducible assumption
    | with_reducible exact Keeps.refl
    | with_reducible apply KeepsO.fabRow

theorem KeepsO.execAck {b : Bool} {s0 s : State} {a0 a1} (h : Keeps b s0 s) :
    KeepsO b s0 (execAck a0 a1 s) := by
  unfold Sys2Proof.Machine.execAck
  repeat' first
    | with_reducible assumption
    | with_reducible exact Keeps.refl
    | with_reducible apply KeepsO.fabRow

theorem KeepsO.execProbe {b : Bool} {s0 s : State} {a0 a1} (h : Keeps b s0 s) :
    KeepsO b s0 (execProbe a0 a1 s) := by
  unfold Sys2Proof.Machine.execProbe
  repeat' first
    | with_reducible assumption
    | with_reducible exact Keeps.refl
    | with_reducible apply KeepsO.fabRow

theorem KeepsO.execProbeAck {b : Bool} {s0 s : State} {a0 a1} (h : Keeps b s0 s) :
    KeepsO b s0 (execProbeAck a0 a1 s) := by
  unfold Sys2Proof.Machine.execProbeAck
  repeat' first
    | with_reducible assumption
    | with_reducible exact Keeps.refl
    | with_reducible apply KeepsO.fabRow

theorem KeepsO.execNoRoute {b : Bool} {s0 s : State} {a0 a1} (h : Keeps b s0 s) :
    KeepsO b s0 (execNoRoute a0 a1 s) := by
  unfold Sys2Proof.Machine.execNoRoute
  repeat' first
    | with_reducible assumption
    | with_reducible exact Keeps.refl
    | with_reducible apply KeepsO.fabRow

theorem KeepsO.execStoreWrite {b : Bool} {s0 s : State} {a0 a1} (h : Keeps b s0 s) :
    KeepsO b s0 (execStoreWrite a0 a1 s) := by
  unfold Sys2Proof.Machine.execStoreWrite
  repeat' first
    | with_reducible assumption
    | with_reducible exact Keeps.refl
    | with_reducible apply KeepsO.fabRow

theorem KeepsO.execStoreRead {b : Bool} {s0 s : State} {a0 a1} (h : Keeps b s0 s) :
    KeepsO b s0 (execStoreRead a0 a1 s) := by
  unfold Sys2Proof.Machine.execStoreRead
  repeat' first
    | with_reducible assumption
    | with_reducible exact Keeps.refl
    | with_reducible apply KeepsO.fabRow

theorem KeepsO.execStoreData {b : Bool} {s0 s : State} {a0 a1} (h : Keeps b s0 s) :
    KeepsO b s0 (execStoreData a0 a1 s) := by
  unfold Sys2Proof.Machine.execStoreData
  repeat' first
    | with_reducible assumption
    | with_reducible exact Keeps.refl
    | with_reducible apply KeepsO.fabRow

theorem KeepsO.execStoreAck {b : Bool} {s0 s : State} {a0 a1} (h : Keeps b s0 s) :
    KeepsO b s0 (execStoreAck a0 a1 s) := by
  unfold Sys2Proof.Machine.execStoreAck
  repeat' first
    | with_reducible assumption
    | with_reducible exact Keeps.refl
    | with_reducible apply KeepsO.fabRow

theorem KeepsO.execUnknownFabricOpcode {b : Bool} {s0 s : State} {a0 a1} (h : Keeps b s0 s) :
    KeepsO b s0 (execUnknownFabricOpcode a0 a1 s) := by
  unfold Sys2Proof.Machine.execUnknownFabricOpcode
  repeat' first
    | with_reducible assumption
    | with_reducible exact Keeps.refl
    | with_reducible apply Keeps.msgDrop
    | with_reducible refine Keeps.ite' (fun _ => ?_) (fun _ => ?_)
    | with_reducible refine KeepsO.next ?_
    | with_reducible refine KeepsO.ite' (fun _ => ?_) (fun _ => ?_)

theorem Keeps.nak {b : Bool} {s0 s : State} {a1 a2} (h : Keeps b s0 s) :
    Keeps b s0 (State.nak s a1 a2) := by
  unfold Sys2Proof.Machine.State.nak
  repeat' first
    | with_reducible assumption
    | with_reducible exact Keeps.refl
    | with_reducible apply Keeps.count64
    | with_reducible apply Keeps.setPort
    | with_reducible apply Keeps.evSet
    | with_reducible apply Keeps.portDown
    | with_reducible refine Keeps.ite' (fun _ => ?_) (fun _ => ?_)

theorem KeepsO.execFlitNak {b : Bool} {s0 s : State} {a0 a1} (h : Keeps b s0 s) :
    KeepsO b s0 (execFlitNak a0 a1 s) := by
  unfold Sys2Proof.Machine.execFlitNak
  repeat' first
    | with_reducible assumption
    | with_reducible exact Keeps.refl
    | with_reducible apply Keeps.txPump
    | with_reducible apply Keeps.nak
    | with_reducible refine Keeps.ite' (fun _ => ?_) (fun _ => ?_)
    | with_reducible refine KeepsO.next ?_
    | with_reducible refine KeepsO.ite' (fun _ => ?_) (fun _ => ?_)

theorem Keeps.dataFlit {b : Bool} {s0 s : State} {a1 a2 a3 a4 a5 a6} (h : Keeps b s0 s) :
    Keeps b s0 (State.dataFlit s a1 a2 a3 a4 a5 a6) := by
  unfold Sys2Proof.Machine.State.dataFlit
  repeat' first
    | with_reducible assumption
    | with_reducible exact Keeps.refl
    | with_reducible apply Keeps.setPort
    | with_reducible apply Keeps.count64
    | with_reducible apply Keeps.fabReceive
    | with_reducible refine Keeps.ite' (fun _ => ?_) (fun _ => ?_)

theorem KeepsO.execFlitAccepted {b : Bool} {s0 s : State} {a0 a1} (h : Keeps b s0 s) :
    KeepsO b s0 (execFlitAccepted a0 a1 s) := by
  unfold Sys2Proof.Machine.execFlitAccepted
  repeat' first
    | with_reducible assumption
    | with_reducible exact Keeps.refl
    | with_reducible apply Keeps.modPort
    | with_reducible apply Keeps.nak
    | with_reducible apply Keeps.dataFlit
    | with_reducible apply Keeps.txPump
    | with_reducible refine Keeps.ite' (fun _ => ?_) (fun _ => ?_)
    | with_reducible refine KeepsO.next ?_
    | with_reducible refine KeepsO.ite' (fun _ => ?_) (fun _ => ?_)

theorem KeepsO.execFlitReceiveFail {b : Bool} {s0 s : State} {a0 a1} (h : Keeps b s0 s) :
    KeepsO b s0 (execFlitReceiveFail a0 a1 s) := by
  unfold Sys2Proof.Machine.execFlitReceiveFail
  repeat' first
    | with_reducible assumption
    | with_reducible exact Keeps.refl
    | with_reducible apply Keeps.modPort
    | with_reducible apply Keeps.count64
    | with_reducible apply Keeps.evSet
    | with_reducible refine Keeps.ite' (fun _ => ?_) (fun _ => ?_)
    | with_reducible refine KeepsO.next ?_
    | with_reducible refine KeepsO.ite' (fun _ => ?_) (fun _ => ?_)

theorem KeepsO.execRetrainDone {b : Bool} {s0 s : State} {a0} (h : Keeps b s0 s) :
    KeepsO b s0 (execRetrainDone a0 s) := by
  unfold Sys2Proof.Machine.execRetrainDone
  repeat' first
    | with_reducible assumption
    | with_reducible exact Keeps.refl
    | with_reducible apply Keeps.count64
    | with_reducible apply Keeps.setPort
    | with_reducible apply Keeps.spareUse
    | with_reducible apply Keeps.evErr
    | with_reducible apply Keeps.txPump
    | with_reducible refine Keeps.ite' (fun _ => ?_) (fun _ => ?_)
    | with_reducible refine KeepsO.next ?_
    | with_reducible refine KeepsO.ite' (fun _ => ?_) (fun _ => ?_)

theorem Keeps.loopGone {b : Bool} {s0 s : State} {a1} (h : Keeps b s0 s) :
    Keeps b s0 (State.loopGone s a1) := by
  unfold Sys2Proof.Machine.State.loopGone
  repeat' first
    | with_reducible assumption
    | with_reducible exact Keeps.refl
    | with_reducible apply Keeps.setHealth
    | with_reducible refine Keeps.ite' (fun _ => ?_) (fun _ => ?_)
    | split

theorem Keeps.laneDown {b : Bool} {s0 s : State} {a1 a2 a3 a4} (h : Keeps b s0 s) :
    Keeps b s0 (State.laneDown s a1 a2 a3 a4) := by
  unfold Sys2Proof.Machine.State.laneDown
  repeat' first
    | with_reducible assumption
    | with_reducible exact Keeps.refl
    | with_reducible apply Keeps.halfDown
    | with_reducible apply Keeps.portDown
    | with_reducible apply Keeps.setPort
    | with_reducible apply Keeps.loopGone
    | with_reducible refine Keeps.ite' (fun _ => ?_) (fun _ => ?_)

theorem KeepsO.execLaneFail {b : Bool} {s0 s : State} {a0 a1 a2} (h : Keeps b s0 s) :
    KeepsO b s0 (execLaneFail a0 a1 a2 s) := by
  unfold Sys2Proof.Machine.execLaneFail
  repeat' first
    | with_reducible assumption
    | with_reducible exact Keeps.refl
    | with_reducible apply Keeps.setPg
    | with_reducible apply Keeps.laneDown
    | with_reducible apply Keeps.portDown
    | with_reducible refine Keeps.ite' (fun _ => ?_) (fun _ => ?_)
    | with_reducible refine KeepsO.next ?_
    | with_reducible refine KeepsO.ite' (fun _ => ?_) (fun _ => ?_)
    | split

theorem KeepsO.execLaneControl {b : Bool} {s0 s : State} {a0 a1 a2} (h : Keeps b s0 s) :
    KeepsO b s0 (execLaneControl a0 a1 a2 s) := by
  unfold Sys2Proof.Machine.execLaneControl
  repeat' first
    | with_reducible assumption
    | with_reducible exact Keeps.refl
    | with_reducible apply Keeps.setPort
    | with_reducible apply Keeps.laneDown
    | with_reducible refine Keeps.ite' (fun _ => ?_) (fun _ => ?_)
    | with_reducible refine KeepsO.next ?_
    | with_reducible refine KeepsO.ite' (fun _ => ?_) (fun _ => ?_)

theorem KeepsO.execLaneSerWindowEnd {b : Bool} {s0 s : State} {a0} (h : Keeps b s0 s) :
    KeepsO b s0 (execLaneSerWindowEnd a0 s) := by
  unfold Sys2Proof.Machine.execLaneSerWindowEnd
  repeat' first
    | with_reducible assumption
    | with_reducible exact Keeps.refl
    | with_reducible apply Keeps.setPg
    | with_reducible refine KeepsO.next ?_
    | with_reducible refine Keeps.foldl' _ ?_ (fun _ _ _ => ?_)

theorem Keeps.ethAck {b : Bool} {s0 s : State} {a1 a2} (h : Keeps b s0 s) :
    Keeps b s0 (State.ethAck s a1 a2) := by
  unfold Sys2Proof.Machine.State.ethAck
  repeat' first
    | with_reducible assumption
    | with_reducible exact Keeps.refl
    | with_reducible apply Keeps.portSend
    | split
    | (dsimp only; split)

theorem KeepsOpt.ethNext {b : Bool} {s0 s : State} {a1 a2} (h : Keeps b s0 s) :
    KeepsOpt b s0 (State.ethNext s a1 a2) := by
  unfold Sys2Proof.Machine.State.ethNext
  repeat' first
    | with_reducible assumption
    | with_reducible exact Keeps.refl
    | with_reducible apply Keeps.setPort
    | with_reducible apply Keeps.fabReceive
    | with_reducible refine Keeps.ite' (fun _ => ?_) (fun _ => ?_)
    | with_reducible refine KeepsOpt.some' ?_
    | with_reducible exact KeepsOpt.none'
    | with_reducible refine KeepsOpt.ite' (fun _ => ?_) (fun _ => ?_)

theorem Keeps.ethDeliver {b : Bool} {s0 s : State} {a0 a2 a3} (h : Keeps b s0 s) :
    Keeps b s0 (State.ethDeliver a0 s a2 a3) := by
  unfold Sys2Proof.Machine.State.ethDeliver
  repeat' first
    | with_reducible assumption
    | with_reducible exact Keeps.refl
    | with_reducible apply KeepsOpt.ethNext
    | with_reducible refine Keeps.repeatStep' _ ?_ (fun _ _ => ?_)

theorem Keeps.ethSegment {b : Bool} {s0 s : State} {a1 a2} (h : Keeps b s0 s) :
    Keeps b s0 (State.ethSegment s a1 a2) := by
  unfold Sys2Proof.Machine.State.ethSegment
  repeat' first
    | with_reducible assumption
    | with_reducible exact Keeps.refl
    | with_reducible apply Keeps.ethAck
    | with_reducible apply Keeps.setPort
    | with_reducible apply Keeps.ethDeliver
    | with_reducible apply Keeps.msgDrop
    | with_reducible apply Keeps.modPort
    | with_reducible refine Keeps.ite' (fun _ => ?_) (fun _ => ?_)

theorem KeepsO.execEthFrame {b : Bool} {s0 s : State} {a0 a1 a2} (h : Keeps b s0 s) :
    KeepsO b s0 (execEthFrame a0 a1 a2 s) := by
  unfold Sys2Proof.Machine.execEthFrame
  repeat' first
    | with_reducible assumption
    | with_reducible exact Keeps.refl
    | with_reducible apply Keeps.count64
    | with_reducible apply Keeps.msgDrop
    | with_reducible apply Keeps.fabReceive
    | with_reducible apply Keeps.ethPut
    | with_reducible apply Keeps.ethSegment
    | with_reducible apply Keeps.count32
    | with_reducible refine Keeps.ite' (fun _ => ?_) (fun _ => ?_)
    | with_reducible refine KeepsO.next ?_
    | with_reducible refine KeepsO.ite' (fun _ => ?_) (fun _ => ?_)
    | split

theorem KeepsO.execEthResendTimeout {b : Bool} {s0 s : State} {a0 a1} (h : Keeps b s0 s) :
    KeepsO b s0 (execEthResendTimeout a0 a1 s) := by
  unfold Sys2Proof.Machine.execEthResendTimeout
  repeat' first
    | with_reducible assumption
    | with_reducible exact Keeps.refl
    | with_reducible apply Keeps.setPort
    | with_reducible apply Keeps.ethPut
    | with_reducible apply Keeps.evErr
    | with_reducible apply Keeps.lostRoute
    | with_reducible apply Keeps.noRouteTo
    | with_reducible refine Keeps.ite' (fun _ => ?_) (fun _ => ?_)
    | with_reducible refine KeepsO.next ?_
    | with_reducible refine KeepsO.ite' (fun _ => ?_) (fun _ => ?_)
    | split

end Sys2Proof.Machine
end

