-- ==== Sys2Proof/Laws/Keeps/Health.lean ====
section
/-! SUPPORT. What the operations of Machine/Health.lean keep. -/
set_option Elab.async false

namespace Sys2Proof.Machine

theorem Keeps.thermalEvent {b : Bool} {s0 s : State} {a1} (h : Keeps b s0 s) :
    Keeps b s0 (State.thermalEvent s a1) := by
  unfold Sys2Proof.Machine.State.thermalEvent
  repeat' first
    | with_reducible assumption
    | with_reducible exact Keeps.refl
    | with_reducible apply Keeps.evSet
    | with_reducible apply Keeps.vent
    | with_reducible refine Keeps.foldl' _ ?_ (fun _ _ _ => ?_)

theorem Keeps.closeStacks {b : Bool} {s0 s : State} {a1 a2} (h : Keeps b s0 s) :
    Keeps b s0 (State.closeStacks s a1 a2) := by
  unfold Sys2Proof.Machine.State.closeStacks
  repeat' first
    | with_reducible assumption
    | with_reducible exact Keeps.refl
    | with_reducible apply Keeps.modStack
    | with_reducible refine Keeps.foldl' _ ?_ (fun _ _ _ => ?_)

theorem Keeps.sensed {s0 s : State} {a1 a2} (h : Keeps false s0 s) :
    Keeps false s0 (State.sensed s a1 a2) := by
  unfold Sys2Proof.Machine.State.sensed
  repeat' first
    | with_reducible assumption
    | with_reducible exact Keeps.refl
    | with_reducible refine Keeps.modDie' ?_ (fun _ c => ⟨c, .of_eq rfl⟩)

theorem KeepsO.execPyroSample {s0 s : State} {a0 a1} (h : Keeps false s0 s) :
    KeepsO false s0 (execPyroSample a0 a1 s) := by
  unfold Sys2Proof.Machine.execPyroSample
  repeat' first
    | with_reducible assumption
    | with_reducible exact Keeps.refl
    | with_reducible apply Keeps.sensed
    | with_reducible refine Keeps.modDie' ?_ ?_
    | with_reducible apply Keeps.closeStacks
    | with_reducible apply Keeps.thermalEvent
    | with_reducible apply Keeps.deviceSafe
    | with_reducible refine Keeps.ite' (fun _ => ?_) (fun _ => ?_)
    | with_reducible refine KeepsO.next ?_
    | with_reducible refine KeepsO.ite' (fun _ => ?_) (fun _ => ?_)
    | exact fun _ c => ⟨c, .of_eq rfl⟩

theorem Keeps.sliceEnd {b : Bool} {s0 s : State} (h : Keeps b s0 s) :
    Keeps b s0 (State.sliceEnd s) := by
  unfold Sys2Proof.Machine.State.sliceEnd
  repeat' first
    | with_reducible assumption
    | with_reducible exact Keeps.refl
    | with_reducible apply Keeps.setHealth
    | with_reducible apply Keeps.modPort
    | with_reducible refine Keeps.ite' (fun _ => ?_) (fun _ => ?_)
    | with_reducible refine Keeps.ite_fst (fun _ => ?_) (fun _ => ?_)
    | with_reducible refine Keeps.ite_snd (fun _ => ?_) (fun _ => ?_)
    | split

theorem KeepsO.execAssaySlice {b : Bool} {s0 s : State} {a0} (h : Keeps b s0 s) :
    KeepsO b s0 (execAssaySlice a0 s) := by
  unfold Sys2Proof.Machine.execAssaySlice
  repeat' first
    | with_reducible assumption
    | with_reducible exact Keeps.refl
    | with_reducible apply Keeps.sliceEnd
    | with_reducible apply Keeps.setHealth
    | with_reducible apply Keeps.modPort
    | with_reducible refine Keeps.ite' (fun _ => ?_) (fun _ => ?_)
    | with_reducible refine KeepsO.next ?_
    | with_reducible refine KeepsO.ite' (fun _ => ?_) (fun _ => ?_)

theorem Keeps.ventAssay {b : Bool} {s0 s : State} {a1 a2} (h : Keeps b s0 s) :
    Keeps b s0 (State.ventAssay s a1 a2) := by
  unfold Sys2Proof.Machine.State.ventAssay
  repeat' first
    | with_reducible assumption
    | with_reducible exact Keeps.refl
    | with_reducible apply Keeps.vent

theorem Keeps.assayFailed {b : Bool} {s0 s : State} {a1 a2} (h : Keeps b s0 s) :
    Keeps b s0 (State.assayFailed s a1 a2) := by
  unfold Sys2Proof.Machine.State.assayFailed
  repeat' first
    | with_reducible assumption
    | with_reducible exact Keeps.refl
    | with_reducible apply Keeps.assayNote
    | with_reducible apply Keeps.deviceSafe
    | with_reducible apply Keeps.ventAssay
    | with_reducible apply Keeps.withdrawChannel
    | with_reducible apply Keeps.laneDown
    | with_reducible refine Keeps.ite' (fun _ => ?_) (fun _ => ?_)
    | with_reducible refine Keeps.forN' _ ?_ (fun _ _ _ => ?_)

theorem KeepsO.execAssayResult {b : Bool} {s0 s : State} {a0 a1} (h : Keeps b s0 s) :
    KeepsO b s0 (execAssayResult a0 a1 s) := by
  unfold Sys2Proof.Machine.execAssayResult
  repeat' first
    | with_reducible assumption
    | with_reducible exact Keeps.refl
    | with_reducible apply Keeps.sliceEnd
    | with_reducible apply Keeps.assayFailed
    | with_reducible refine Keeps.ite' (fun _ => ?_) (fun _ => ?_)
    | with_reducible refine KeepsO.next ?_
    | with_reducible refine KeepsO.ite' (fun _ => ?_) (fun _ => ?_)

theorem KeepsO.execPllUnlock {b : Bool} {s0 s : State} {a0 a1} (h : Keeps b s0 s) :
    KeepsO b s0 (execPllUnlock a0 a1 s) := by
  unfold Sys2Proof.Machine.execPllUnlock
  repeat' first
    | with_reducible assumption
    | with_reducible exact Keeps.refl
    | with_reducible refine Keeps.modDie ?_ ?_
    | with_reducible apply Keeps.evErr
    | with_reducible apply Keeps.deviceSafe
    | with_reducible refine Keeps.ite' (fun _ => ?_) (fun _ => ?_)
    | with_reducible refine KeepsO.next ?_
    | with_reducible refine KeepsO.ite' (fun _ => ?_) (fun _ => ?_)
    | exact rfl
    | exact fun _ => rfl

end Sys2Proof.Machine
end

