-- ==== Sys2Proof/Laws/Keeps/Views.lean ====
section
/-! SUPPORT. What the operations of Machine/Views.lean keep. -/
set_option Elab.async false

namespace Sys2Proof.Machine

theorem Keeps.settle {b : Bool} {s0 s : State} {a1 a2} (h : Keeps b s0 s) :
    Keeps b s0 (State.settle s a1 a2) := by
  unfold Sys2Proof.Machine.State.settle
  repeat' first
    | with_reducible assumption
    | with_reducible exact Keeps.refl
    | with_reducible refine Keeps.setBus ?_ ?_
    | with_reducible refine Keeps.ite' (fun _ => ?_) (fun _ => ?_)
    | exact id
    | exact fun c => ⟨c.1, c.2, c.3, c.4⟩
    | exact fun c => ⟨c.1, twf_tput _ _ _ c.2, c.3, c.4⟩
    | exact fun c => ⟨c.1, c.2, twf_tput _ _ _ c.3, c.4⟩
    | exact fun c => ⟨c.1, c.2, c.3, twf_tput _ _ _ c.4⟩
    | exact fun c => ⟨rising_filter _ _ c.1, twf_filter _ _ c.2, twf_filter _ _ c.3, c.4⟩

theorem Keeps.moveReg {b : Bool} {s0 s : State} {a1 a2 a3} (h : Keeps b s0 s) :
    Keeps b s0 (State.moveReg s a1 a2 a3) := by
  unfold Sys2Proof.Machine.State.moveReg
  repeat' first
    | with_reducible assumption
    | with_reducible exact Keeps.refl
    | with_reducible apply Keeps.count64
    | with_reducible apply Keeps.draw
    | with_reducible apply Keeps.count32
    | with_reducible refine Keeps.ite' (fun _ => ?_) (fun _ => ?_)
    | with_reducible refine Keeps.ite_fst (fun _ => ?_) (fun _ => ?_)
    | with_reducible refine Keeps.ite_snd (fun _ => ?_) (fun _ => ?_)

theorem Keeps.refresh {b : Bool} {s0 s : State} {a1 a2} (h : Keeps b s0 s) :
    Keeps b s0 (State.refresh s a1 a2) := by
  unfold Sys2Proof.Machine.State.refresh
  repeat' first
    | with_reducible assumption
    | with_reducible exact Keeps.refl
    | with_reducible apply Keeps.settle
    | with_reducible apply Keeps.moveReg
    | with_reducible apply Keeps.evSet
    | with_reducible refine Keeps.ite' (fun _ => ?_) (fun _ => ?_)
    | with_reducible refine Keeps.foldl' _ ?_ (fun _ _ _ => ?_)
    | with_reducible refine Keeps.foldl_fst _ ?_ (fun _ _ _ => ?_)
    | with_reducible refine Keeps.foldl_snd _ ?_ (fun _ _ _ => ?_)

end Sys2Proof.Machine
end

