-- ==== Sys2Proof/Laws/Keeps/Registers.lean ====
section
/-! SUPPORT. What the operations of Machine/Registers.lean keep. -/
set_option Elab.async false

namespace Sys2Proof.Machine

theorem Keeps.readNow {b : Bool} {s0 s : State} {a1 a2 a3 a4} (h : Keeps b s0 s) :
    Keeps b s0 (State.readNow s a1 a2 a3 a4).1 := by
  unfold Sys2Proof.Machine.State.readNow
  repeat' first
    | with_reducible assumption
    | with_reducible exact Keeps.refl
    | with_reducible refine Keeps.setBus ?_ ?_
    | with_reducible apply Keeps.dbgRead
    | with_reducible apply Keeps.refresh
    | with_reducible apply Keeps.draw
    | with_reducible refine Keeps.ite' (fun _ => ?_) (fun _ => ?_)
    | with_reducible refine Keeps.ite_fst (fun _ => ?_) (fun _ => ?_)
    | with_reducible refine Keeps.ite_snd (fun _ => ?_) (fun _ => ?_)
    | split
    | exact id
    | exact fun c => ⟨c.1, c.2, c.3, c.4⟩

theorem Keeps.readReg {b : Bool} {s0 s : State} {a1 a2 a3 a4} (h : Keeps b s0 s) :
    Keeps b s0 (State.readReg s a1 a2 a3 a4).1 := by
  unfold Sys2Proof.Machine.State.readReg
  repeat' first
    | with_reducible assumption
    | with_reducible exact Keeps.refl
    | with_reducible apply Keeps.refresh
    | with_reducible refine Keeps.setBus ?_ ?_
    | with_reducible apply Keeps.readNow
    | with_reducible refine Keeps.ite' (fun _ => ?_) (fun _ => ?_)
    | with_reducible refine Keeps.ite_fst (fun _ => ?_) (fun _ => ?_)
    | with_reducible refine Keeps.ite_snd (fun _ => ?_) (fun _ => ?_)
    | split
    | exact id
    | exact fun c => ⟨c.1, c.2, c.3, c.4⟩
    | exact fun c => ⟨c.1, twf_tput _ _ _ c.2, c.3, c.4⟩

theorem Keeps.found {b : Bool} {s0 s : State} {a1} (h : Keeps b s0 s) :
    Keeps b s0 (State.found s a1) := by
  unfold Sys2Proof.Machine.State.found
  repeat' first
    | with_reducible assumption
    | with_reducible exact Keeps.refl
    | with_reducible refine Keeps.setBus ?_ ?_
    | exact id
    | exact fun c => ⟨c.1, c.2, c.3, c.4⟩

theorem Keeps.regRead {b : Bool} {s0 s : State} {a1 a2} (h : Keeps b s0 s) :
    Keeps b s0 (State.regRead s a1 a2).1 := by
  unfold Sys2Proof.Machine.State.regRead
  repeat' first
    | with_reducible assumption
    | with_reducible exact Keeps.refl
    | with_reducible apply Keeps.found
    | with_reducible apply Keeps.busErr
    | with_reducible apply Keeps.readReg
    | with_reducible refine Keeps.ite' (fun _ => ?_) (fun _ => ?_)
    | with_reducible refine Keeps.ite_fst (fun _ => ?_) (fun _ => ?_)
    | with_reducible refine Keeps.ite_snd (fun _ => ?_) (fun _ => ?_)
    | split

theorem Keeps.softLogic {s0 s : State} {a1 a2} (h : Keeps false s0 s) :
    Keeps false s0 (State.softLogic s a1 a2) := by
  unfold Sys2Proof.Machine.State.softLogic
  repeat' first
    | with_reducible assumption
    | with_reducible exact Keeps.refl
    | with_reducible apply Keeps.setDev
    | with_reducible refine Keeps.setBus ?_ ?_
    | with_reducible refine Keeps.modDie' ?_ ?_
    | with_reducible refine Keeps.setRings ?_ (fun _ => twf_nil _)
    | with_reducible apply Keeps.draw
    | with_reducible apply Keeps.setDbg
    | with_reducible apply Keeps.closeStacks
    | with_reducible apply Keeps.setHealth
    | with_reducible apply Keeps.fhClear
    | with_reducible apply Keeps.modUnit
    | with_reducible apply Keeps.setSprue
    | with_reducible apply Keeps.modPart
    | with_reducible apply Keeps.modPort
    | with_reducible refine Keeps.setFabric ?_ ?_
    | with_reducible apply Keeps.modStack
    | with_reducible apply Keeps.fumLeave
    | with_reducible refine Keeps.ite' (fun _ => ?_) (fun _ => ?_)
    | with_reducible refine Keeps.ite_fst (fun _ => ?_) (fun _ => ?_)
    | with_reducible refine Keeps.ite_snd (fun _ => ?_) (fun _ => ?_)
    | with_reducible refine Keeps.forN' _ ?_ (fun _ _ _ => ?_)
    | with_reducible refine Keeps.forN_fst _ ?_ (fun _ _ _ => ?_)
    | with_reducible refine Keeps.forN_snd _ ?_ (fun _ _ _ => ?_)
    | split
    | exact id
    | exact fun c => ⟨c.1, c.2, c.3, c.4⟩
    | exact fun c => ⟨c.1, twf_tput _ _ _ c.2, c.3, c.4⟩
    | exact fun c => ⟨c.1, c.2, twf_tput _ _ _ c.3, c.4⟩
    | exact fun c => ⟨c.1, c.2, c.3, twf_tput _ _ _ c.4⟩
    | exact fun c => ⟨rising_filter _ _ c.1, twf_filter _ _ c.2, twf_filter _ _ c.3, c.4⟩
    | exact fun _ c => Otp.Grows.breakOff c
    | exact fun _ c => ⟨c, .of_eq rfl⟩

theorem Keeps.softReset {s0 s : State} {a1 a2} (h : Keeps false s0 s) :
    Keeps false s0 (State.softReset s a1 a2) := by
  unfold Sys2Proof.Machine.State.softReset
  repeat' first
    | with_reducible assumption
    | with_reducible exact Keeps.refl
    | with_reducible apply Keeps.settle
    | with_reducible apply Keeps.softLogic
    | with_reducible refine Keeps.setBus ?_ ?_
    | exact id
    | exact fun c => ⟨c.1, c.2, c.3, c.4⟩
    | exact fun c => ⟨c.1, twf_tput _ _ _ c.2, c.3, c.4⟩
    | exact fun c => ⟨c.1, c.2, twf_tput _ _ _ c.3, c.4⟩
    | exact fun c => ⟨c.1, c.2, c.3, twf_tput _ _ _ c.4⟩
    | exact fun c => ⟨rising_filter _ _ c.1, twf_filter _ _ c.2, twf_filter _ _ c.3, c.4⟩

theorem Keeps.writeCtrl {s0 s : State} {a1 a2 a3 a4 a5} (h : Keeps false s0 s) :
    Keeps false s0 (State.writeCtrl s a1 a2 a3 a4 a5).1 := by
  unfold Sys2Proof.Machine.State.writeCtrl
  repeat' first
    | with_reducible assumption
    | with_reducible exact Keeps.refl
    | with_reducible apply Keeps.setPg
    | with_reducible apply Keeps.busErr
    | with_reducible apply Keeps.softReset
    | with_reducible refine Keeps.ite' (fun _ => ?_) (fun _ => ?_)
    | with_reducible refine Keeps.ite_fst (fun _ => ?_) (fun _ => ?_)

theorem Keeps.clearEvt {b : Bool} {s0 s : State} {a1 a2 a3} (h : Keeps b s0 s) :
    Keeps b s0 (State.clearEvt s a1 a2 a3) := by
  unfold Sys2Proof.Machine.State.clearEvt
  repeat' first
    | with_reducible assumption
    | with_reducible exact Keeps.refl
    | with_reducible apply Keeps.setPg
    | with_reducible apply Keeps.setHealth
    | with_reducible refine Keeps.ite' (fun _ => ?_) (fun _ => ?_)

theorem Keeps.handleEvt {b : Bool} {s0 s : State} {a1 a2 a3} (h : Keeps b s0 s) :
    Keeps b s0 (State.handleEvt s a1 a2 a3) := by
  unfold Sys2Proof.Machine.State.handleEvt
  repeat' first
    | with_reducible assumption
    | with_reducible exact Keeps.refl
    | with_reducible apply Keeps.clusterEvent
    | with_reducible apply Keeps.draw
    | with_reducible apply Keeps.tileEvent
    | with_reducible apply Keeps.unitEvent
    | with_reducible apply Keeps.deviceSafe
    | with_reducible refine Keeps.ite' (fun _ => ?_) (fun _ => ?_)
    | with_reducible refine Keeps.ite_fst (fun _ => ?_) (fun _ => ?_)
    | with_reducible refine Keeps.ite_snd (fun _ => ?_) (fun _ => ?_)
    | split

theorem Keeps.forceEvt {b : Bool} {s0 s : State} {a1 a2 a3} (h : Keeps b s0 s) :
    Keeps b s0 (State.forceEvt s a1 a2 a3) := by
  unfold Sys2Proof.Machine.State.forceEvt
  repeat' first
    | with_reducible assumption
    | with_reducible exact Keeps.refl
    | with_reducible apply Keeps.handleEvt
    | with_reducible apply Keeps.evSet
    | with_reducible refine Keeps.ite' (fun _ => ?_) (fun _ => ?_)
    | with_reducible refine Keeps.forN' _ ?_ (fun _ _ _ => ?_)

theorem Keeps.writeEvtEn {b : Bool} {s0 s : State} {a1 a2 a3} (h : Keeps b s0 s) :
    Keeps b s0 (State.writeEvtEn s a1 a2 a3) := by
  unfold Sys2Proof.Machine.State.writeEvtEn
  repeat' first
    | with_reducible assumption
    | with_reducible exact Keeps.refl
    | with_reducible apply Keeps.setPg
    | with_reducible apply Keeps.fireVector
    | with_reducible refine Keeps.ite' (fun _ => ?_) (fun _ => ?_)

theorem Keeps.writeHalf {b : Bool} {s0 s : State} {a1 a2 a3 a4 a5 a6 a7} (h : Keeps b s0 s) :
    Keeps b s0 (State.writeHalf s a1 a2 a3 a4 a5 a6 a7) := by
  unfold Sys2Proof.Machine.State.writeHalf
  repeat' first
    | with_reducible assumption
    | with_reducible exact Keeps.refl
    | with_reducible apply Keeps.setPg
    | with_reducible refine Keeps.setBus ?_ ?_
    | with_reducible refine Keeps.ite' (fun _ => ?_) (fun _ => ?_)
    | split
    | exact id
    | exact fun c => ⟨c.1, c.2, c.3, c.4⟩
    | exact fun c => ⟨c.1, twf_tput _ _ _ c.2, c.3, c.4⟩
    | exact fun c => ⟨c.1, c.2, twf_tput _ _ _ c.3, c.4⟩

theorem Keeps.sprueWrite {b : Bool} {s0 s : State} {a1 a2 a3 a4} (h : Keeps b s0 s) :
    Keeps b s0 (State.sprueWrite s a1 a2 a3 a4).1 := by
  unfold Sys2Proof.Machine.State.sprueWrite
  repeat' first
    | with_reducible assumption
    | with_reducible exact Keeps.refl
    | with_reducible apply Keeps.setPg
    | with_reducible refine Keeps.ite' (fun _ => ?_) (fun _ => ?_)
    | with_reducible refine Keeps.ite_fst (fun _ => ?_) (fun _ => ?_)

theorem Keeps.writePortCfg {b : Bool} {s0 s : State} {a1 a2} (h : Keeps b s0 s) :
    Keeps b s0 (State.writePortCfg s a1 a2) := by
  unfold Sys2Proof.Machine.State.writePortCfg
  repeat' first
    | with_reducible assumption
    | with_reducible exact Keeps.refl
    | with_reducible apply Keeps.portCfgErr
    | with_reducible apply Keeps.setPg
    | with_reducible apply Keeps.portDown
    | with_reducible apply Keeps.portTrain
    | with_reducible refine Keeps.ite' (fun _ => ?_) (fun _ => ?_)

theorem Keeps.writePort {b : Bool} {s0 s : State} {a1 a2 a3} (h : Keeps b s0 s) :
    Keeps b s0 (State.writePort s a1 a2 a3) := by
  unfold Sys2Proof.Machine.State.writePort
  repeat' first
    | with_reducible assumption
    | with_reducible exact Keeps.refl
    | with_reducible apply Keeps.writePortCfg
    | with_reducible refine Keeps.setFabric ?_ ?_
    | with_reducible apply Keeps.setPg
    | with_reducible apply Keeps.portCfgErr
    | with_reducible refine Keeps.ite' (fun _ => ?_) (fun _ => ?_)
    | split
    | exact id

theorem Keeps.ringCfgErr {b : Bool} {s0 s : State} {a1} (h : Keeps b s0 s) :
    Keeps b s0 (State.ringCfgErr s a1) := by
  unfold Sys2Proof.Machine.State.ringCfgErr
  repeat' first
    | with_reducible assumption
    | with_reducible exact Keeps.refl
    | with_reducible apply Keeps.modRing

theorem Keeps.ringRestart {b : Bool} {s0 s : State} {a1} (h : Keeps b s0 s) :
    Keeps b s0 (State.ringRestart s a1) := by
  unfold Sys2Proof.Machine.State.ringRestart
  repeat' first
    | with_reducible assumption
    | with_reducible exact Keeps.refl
    | with_reducible apply Keeps.modRing
    | with_reducible apply Keeps.setRingRg

theorem Keeps.writeRingCfg {b : Bool} {s0 s : State} {a1 a2} (h : Keeps b s0 s) :
    Keeps b s0 (State.writeRingCfg s a1 a2) := by
  unfold Sys2Proof.Machine.State.writeRingCfg
  repeat' first
    | with_reducible assumption
    | with_reducible exact Keeps.refl
    | with_reducible apply Keeps.ringRestart
    | with_reducible apply Keeps.ringCfgErr
    | with_reducible apply Keeps.modRing
    | with_reducible apply Keeps.setRingRg
    | with_reducible refine Keeps.ite' (fun _ => ?_) (fun _ => ?_)

theorem Keeps.writeMsix {b : Bool} {s0 s : State} {a1 a2} (h : Keeps b s0 s) :
    Keeps b s0 (State.writeMsix s a1 a2) := by
  unfold Sys2Proof.Machine.State.writeMsix
  repeat' first
    | with_reducible assumption
    | with_reducible exact Keeps.refl
    | with_reducible apply Keeps.setPg
    | with_reducible apply Keeps.fireVector
    | with_reducible refine Keeps.ite' (fun _ => ?_) (fun _ => ?_)

theorem Keeps.irqCheck {b : Bool} {s0 s : State} {a1} (h : Keeps b s0 s) :
    Keeps b s0 (State.irqCheck s a1) := by
  unfold Sys2Proof.Machine.State.irqCheck
  repeat' first
    | with_reducible assumption
    | with_reducible exact Keeps.refl
    | with_reducible apply Keeps.irqFire
    | with_reducible refine Keeps.ite' (fun _ => ?_) (fun _ => ?_)

theorem Keeps.writeHost {b : Bool} {s0 s : State} {a1 a2} (h : Keeps b s0 s) :
    Keeps b s0 (State.writeHost s a1 a2) := by
  unfold Sys2Proof.Machine.State.writeHost
  repeat' first
    | with_reducible assumption
    | with_reducible exact Keeps.refl
    | with_reducible apply Keeps.writeRingCfg
    | with_reducible apply Keeps.setRingRg
    | with_reducible apply Keeps.flush
    | with_reducible apply Keeps.irqCheck
    | with_reducible apply Keeps.writeMsix
    | with_reducible refine Keeps.ite' (fun _ => ?_) (fun _ => ?_)
    | split

theorem Keeps.writeDbg {s0 s : State} {a1 a2 a3} (h : Keeps false s0 s) :
    Keeps false s0 (State.writeDbg s a1 a2 a3) := by
  unfold Sys2Proof.Machine.State.writeDbg
  repeat' first
    | with_reducible assumption
    | with_reducible exact Keeps.refl
    | with_reducible apply Keeps.authCmd
    | with_reducible apply Keeps.setDbg
    | with_reducible apply Keeps.runCtrl
    | with_reducible apply Keeps.dbgWrite
    | with_reducible refine Keeps.ite' (fun _ => ?_) (fun _ => ?_)

theorem Keeps.writeFhClr {b : Bool} {s0 s : State} {a1 a2 a3} (h : Keeps b s0 s) :
    Keeps b s0 (State.writeFhClr s a1 a2 a3) := by
  unfold Sys2Proof.Machine.State.writeFhClr
  repeat' first
    | with_reducible assumption
    | with_reducible exact Keeps.refl
    | with_reducible apply Keeps.fhClear
    | with_reducible refine Keeps.ite' (fun _ => ?_) (fun _ => ?_)

theorem Keeps.writeBlock {s0 s : State} {a1 a2 a3 a4 a5} (h : Keeps false s0 s) :
    Keeps false s0 (State.writeBlock s a1 a2 a3 a4 a5).1 := by
  unfold Sys2Proof.Machine.State.writeBlock
  repeat' first
    | with_reducible assumption
    | with_reducible exact Keeps.refl
    | with_reducible apply Keeps.ringCfgErr
    | with_reducible apply Keeps.writeHalf
    | with_reducible apply Keeps.setPg
    | with_reducible apply Keeps.settle
    | with_reducible apply Keeps.sprueWrite
    | with_reducible apply Keeps.modStack
    | with_reducible apply Keeps.writePort
    | with_reducible apply Keeps.writeHost
    | with_reducible apply Keeps.writeDbg
    | with_reducible apply Keeps.devRst
    | with_reducible apply Keeps.progStart
    | with_reducible apply Keeps.evSet
    | with_reducible apply Keeps.writeFhClr
    | with_reducible apply Keeps.setHealth
    | with_reducible refine Keeps.ite' (fun _ => ?_) (fun _ => ?_)
    | with_reducible refine Keeps.ite_fst (fun _ => ?_) (fun _ => ?_)
    | with_reducible refine Keeps.ite_snd (fun _ => ?_) (fun _ => ?_)
    | with_reducible refine Keeps.foldl' _ ?_ (fun _ _ _ => ?_)
    | with_reducible refine Keeps.foldl_fst _ ?_ (fun _ _ _ => ?_)
    | with_reducible refine Keeps.foldl_snd _ ?_ (fun _ _ _ => ?_)
    | split
    | (dsimp only; split)

theorem Keeps.writeReg {s0 s : State} {a1 a2 a3 a4 a5} (h : Keeps false s0 s) :
    Keeps false s0 (State.writeReg s a1 a2 a3 a4 a5).1 := by
  unfold Sys2Proof.Machine.State.writeReg
  repeat' first
    | with_reducible assumption
    | with_reducible exact Keeps.refl
    | with_reducible apply Keeps.writeCtrl
    | with_reducible apply Keeps.busErr
    | with_reducible apply Keeps.clearEvt
    | with_reducible apply Keeps.writeEvtEn
    | with_reducible apply Keeps.forceEvt
    | with_reducible apply Keeps.setPg
    | with_reducible apply Keeps.writeBlock
    | with_reducible refine Keeps.ite' (fun _ => ?_) (fun _ => ?_)
    | with_reducible refine Keeps.ite_fst (fun _ => ?_) (fun _ => ?_)
    | with_reducible refine Keeps.ite_snd (fun _ => ?_) (fun _ => ?_)
    | split

theorem Keeps.regWrite {s0 s : State} {a1 a2 a3} (h : Keeps false s0 s) :
    Keeps false s0 (State.regWrite s a1 a2 a3).1 := by
  unfold Sys2Proof.Machine.State.regWrite
  repeat' first
    | with_reducible assumption
    | with_reducible exact Keeps.refl
    | with_reducible apply Keeps.found
    | with_reducible apply Keeps.busErr
    | with_reducible apply Keeps.writeReg
    | with_reducible refine Keeps.ite' (fun _ => ?_) (fun _ => ?_)
    | with_reducible refine Keeps.ite_fst (fun _ => ?_) (fun _ => ?_)
    | with_reducible refine Keeps.ite_snd (fun _ => ?_) (fun _ => ?_)
    | split

theorem Keeps.setRead {b : Bool} {s0 s : State} {a1 a2} (h : Keeps b s0 s) :
    Keeps b s0 (State.setRead s a1 a2) := by
  unfold Sys2Proof.Machine.State.setRead
  repeat' first
    | with_reducible assumption
    | with_reducible exact Keeps.refl
    | with_reducible refine Keeps.setBus ?_ ?_
    | exact id
    | exact fun c => ⟨c.1, c.2, c.3, c.4⟩
    | exact fun c => ⟨c.1, twf_tput _ _ _ c.2, c.3, c.4⟩
    | exact fun c => ⟨c.1, c.2, twf_tput _ _ _ c.3, c.4⟩
    | exact fun c => ⟨c.1, c.2, c.3, twf_tput _ _ _ c.4⟩

theorem Keeps.readAccess {b : Bool} {s0 s : State} {a1 a2 a3} (h : Keeps b s0 s) :
    Keeps b s0 (State.readAccess s a1 a2 a3) := by
  unfold Sys2Proof.Machine.State.readAccess
  repeat' first
    | with_reducible assumption
    | with_reducible exact Keeps.refl
    | with_reducible apply Keeps.regRead
    | with_reducible apply Keeps.setRead
    | with_reducible apply Keeps.busErr
    | with_reducible refine Keeps.ite' (fun _ => ?_) (fun _ => ?_)

theorem Keeps.writeAccess {s0 s : State} {a1 a2 a3 a4} (h : Keeps false s0 s) :
    Keeps false s0 (State.writeAccess s a1 a2 a3 a4) := by
  unfold Sys2Proof.Machine.State.writeAccess
  repeat' first
    | with_reducible assumption
    | with_reducible exact Keeps.refl
    | with_reducible apply Keeps.regWrite
    | with_reducible apply Keeps.busErr
    | with_reducible refine Keeps.ite' (fun _ => ?_) (fun _ => ?_)

end Sys2Proof.Machine
end

