-- ==== Sys2Proof/Laws/Keeps/Host.lean ====
section
/-! SUPPORT. What the operations of Machine/Host.lean keep. -/
set_option Elab.async false

namespace Sys2Proof.Machine

theorem Keeps.helloAck {b : Bool} {s0 s : State} {a1 a2 a3 a4 a5 a6} (h : Keeps b s0 s) :
    Keeps b s0 (State.helloAck s a1 a2 a3 a4 a5 a6) := by
  unfold Sys2Proof.Machine.State.helloAck
  repeat' first
    | with_reducible assumption
    | with_reducible exact Keeps.refl
    | with_reducible apply Keeps.post

theorem Keeps.answerMsg {b : Bool} {s0 s : State} {a1 a2 a3 a4} (h : Keeps b s0 s) :
    Keeps b s0 (State.answerMsg s a1 a2 a3 a4) := by
  unfold Sys2Proof.Machine.State.answerMsg
  repeat' first
    | with_reducible assumption
    | with_reducible exact Keeps.refl
    | with_reducible apply Keeps.helloAck
    | with_reducible apply Keeps.respond
    | with_reducible refine Keeps.ite' (fun _ => ?_) (fun _ => ?_)

theorem Keeps.helloMsg {b : Bool} {s0 s : State} {a1 a2 a3} (h : Keeps b s0 s) :
    Keeps b s0 (State.helloMsg s a1 a2 a3) := by
  unfold Sys2Proof.Machine.State.helloMsg
  repeat' first
    | with_reducible assumption
    | with_reducible exact Keeps.refl
    | with_reducible apply Keeps.helloAck
    | with_reducible apply Keeps.modRing
    | with_reducible refine Keeps.ite' (fun _ => ?_) (fun _ => ?_)

theorem Keeps.fenceMsg {b : Bool} {s0 s : State} {a1 a2 a3} (h : Keeps b s0 s) :
    Keeps b s0 (State.fenceMsg s a1 a2 a3) := by
  unfold Sys2Proof.Machine.State.fenceMsg
  repeat' first
    | with_reducible assumption
    | with_reducible exact Keeps.refl
    | with_reducible apply Keeps.modRing
    | with_reducible apply Keeps.fencePump
    | with_reducible apply Keeps.cqWait
    | with_reducible apply Keeps.drain
    | with_reducible refine Keeps.ite' (fun _ => ?_) (fun _ => ?_)

theorem Keeps.regMsg {s0 s : State} {a1 a2 a3} (h : Keeps false s0 s) :
    Keeps false s0 (State.regMsg s a1 a2 a3) := by
  unfold Sys2Proof.Machine.State.regMsg
  repeat' first
    | with_reducible assumption
    | with_reducible exact Keeps.refl
    | with_reducible apply Keeps.regRead
    | with_reducible apply Keeps.answerMsg
    | with_reducible apply Keeps.regWrite
    | with_reducible refine Keeps.ite' (fun _ => ?_) (fun _ => ?_)

theorem Keeps.pushCmd {b : Bool} {s0 s : State} {a1 a2 a3} (h : Keeps b s0 s) :
    Keeps b s0 (State.pushCmd s a1 a2 a3) := by
  unfold Sys2Proof.Machine.State.pushCmd
  repeat' first
    | with_reducible assumption
    | with_reducible exact Keeps.refl
    | with_reducible apply Keeps.updateMarks
    | with_reducible apply Keeps.modPart
    | with_reducible refine Keeps.ite' (fun _ => ?_) (fun _ => ?_)

theorem Keeps.ctlDone {b : Bool} {s0 : State} {a0 a1 a2} {x : State × Option Compl} (h : Keeps b s0 x.1) :
    Keeps b s0 (State.ctlDone a0 a1 a2 x) := by
  unfold Sys2Proof.Machine.State.ctlDone
  split
  · exact Keeps.answerMsg h
  · exact h

theorem Keeps.carry {s0 s : State} {a1 a2 a3} (h : Keeps false s0 s) :
    Keeps false s0 (State.carry s a1 a2 a3) := by
  unfold Sys2Proof.Machine.State.carry
  repeat' first
    | with_reducible assumption
    | with_reducible exact Keeps.refl
    | with_reducible apply Keeps.pushCmd
    | with_reducible apply Keeps.helloMsg
    | with_reducible apply Keeps.fenceMsg
    | with_reducible apply Keeps.regMsg
    | with_reducible apply Keeps.ctlDone
    | with_reducible apply Keeps.partMsg
    | with_reducible apply Keeps.memMsg
    | with_reducible apply Keeps.teacherSealOp
    | with_reducible apply Keeps.teacherUnsealOp
    | with_reducible apply Keeps.modPart
    | with_reducible apply Keeps.ctlMsg
    | with_reducible refine Keeps.ite' (fun _ => ?_) (fun _ => ?_)
    | with_reducible refine Keeps.ite_fst (fun _ => ?_) (fun _ => ?_)
    | with_reducible refine Keeps.ite_snd (fun _ => ?_) (fun _ => ?_)
    | split
    | (dsimp only; split)

theorem Keeps.accept {s0 s : State} {a1 a2} (h : Keeps false s0 s) :
    Keeps false s0 (State.accept s a1 a2) := by
  unfold Sys2Proof.Machine.State.accept
  repeat' first
    | with_reducible assumption
    | with_reducible exact Keeps.refl
    | with_reducible apply Keeps.modRing
    | with_reducible apply Keeps.answerMsg
    | with_reducible apply Keeps.carry
    | with_reducible refine Keeps.ite' (fun _ => ?_) (fun _ => ?_)
    | with_reducible refine Keeps.ite_fst (fun _ => ?_) (fun _ => ?_)
    | with_reducible refine Keeps.ite_snd (fun _ => ?_) (fun _ => ?_)
    | split

theorem Keeps.ringStop {b : Bool} {s0 s : State} {a1 a2} (h : Keeps b s0 s) :
    Keeps b s0 (State.ringStop s a1 a2) := by
  unfold Sys2Proof.Machine.State.ringStop
  repeat' first
    | with_reducible assumption
    | with_reducible exact Keeps.refl
    | with_reducible apply Keeps.setRing
    | with_reducible apply Keeps.post
    | with_reducible apply Keeps.evErr

theorem Keeps.takeMsg {b : Bool} {s0 s : State} {a1 a2 a3 a4} (h : Keeps b s0 s) :
    Keeps b s0 (State.takeMsg s a1 a2 a3 a4).1 := by
  unfold Sys2Proof.Machine.State.takeMsg
  repeat' first
    | with_reducible assumption
    | with_reducible exact Keeps.refl
    | with_reducible apply Keeps.ringStop
    | with_reducible refine Keeps.ite' (fun _ => ?_) (fun _ => ?_)
    | with_reducible refine Keeps.ite_fst (fun _ => ?_) (fun _ => ?_)

theorem Keeps.consume {s0 s : State} {a1} (h : Keeps false s0 s) :
    Keeps false s0 (State.consume s a1) := by
  unfold Sys2Proof.Machine.State.consume
  repeat' first
    | with_reducible assumption
    | with_reducible exact Keeps.refl
    | with_reducible apply Keeps.ringStop
    | with_reducible apply Keeps.takeMsg
    | with_reducible apply Keeps.accept
    | with_reducible apply Keeps.setRingRg
    | with_reducible refine Keeps.ite' (fun _ => ?_) (fun _ => ?_)

theorem KeepsOpt.pumpOne {s0 s : State} (h : Keeps false s0 s) :
    KeepsOpt false s0 (State.pumpOne s) := by
  unfold Sys2Proof.Machine.State.pumpOne
  repeat' first
    | with_reducible assumption
    | with_reducible exact Keeps.refl
    | with_reducible apply Keeps.consume
    | with_reducible refine KeepsOpt.some' ?_
    | with_reducible exact KeepsOpt.none'
    | split

theorem Keeps.serve {s0 s : State} (h : Keeps false s0 s) :
    Keeps false s0 (State.serve s) := by
  unfold Sys2Proof.Machine.State.serve
  repeat' first
    | with_reducible assumption
    | with_reducible exact Keeps.refl
    | with_reducible apply KeepsOpt.pumpOne
    | with_reducible refine Keeps.repeatStep' _ ?_ (fun _ _ => ?_)

theorem Keeps.submit {s0 s : State} {a1 a2} (h : Keeps false s0 s) :
    Keeps false s0 (State.submit s a1 a2) := by
  unfold Sys2Proof.Machine.State.submit
  repeat' first
    | with_reducible assumption
    | with_reducible exact Keeps.refl
    | with_reducible apply Keeps.setRingRg
    | with_reducible apply Keeps.ringStop
    | with_reducible apply Keeps.takeMsg
    | with_reducible apply Keeps.serve
    | with_reducible apply Keeps.accept
    | with_reducible refine Keeps.ite' (fun _ => ?_) (fun _ => ?_)

theorem KeepsO.msgRow {s0 s : State} {a1 a2 a3} (h : Keeps false s0 s) :
    KeepsO false s0 (State.msgRow s a1 a2 a3) := by
  unfold Sys2Proof.Machine.State.msgRow
  repeat' first
    | with_reducible assumption
    | with_reducible exact Keeps.refl
    | with_reducible apply Keeps.submit
    | with_reducible refine Keeps.ite' (fun _ => ?_) (fun _ => ?_)
    | with_reducible refine KeepsO.next ?_

theorem KeepsO.execHello {s0 s : State} {a0 a1} (h : Keeps false s0 s) :
    KeepsO false s0 (execHello a0 a1 s) := by
  unfold Sys2Proof.Machine.execHello
  repeat' first
    | with_reducible assumption
    | with_reducible exact Keeps.refl
    | with_reducible apply KeepsO.msgRow

theorem KeepsO.execNop {s0 s : State} {a0 a1} (h : Keeps false s0 s) :
    KeepsO false s0 (execNop a0 a1 s) := by
  unfold Sys2Proof.Machine.execNop
  repeat' first
    | with_reducible assumption
    | with_reducible exact Keeps.refl
    | with_reducible apply KeepsO.msgRow

theorem KeepsO.execFence {s0 s : State} {a0 a1} (h : Keeps false s0 s) :
    KeepsO false s0 (execFence a0 a1 s) := by
  unfold Sys2Proof.Machine.execFence
  repeat' first
    | with_reducible assumption
    | with_reducible exact Keeps.refl
    | with_reducible apply KeepsO.msgRow

theorem KeepsO.execRegRead {s0 s : State} {a0 a1} (h : Keeps false s0 s) :
    KeepsO false s0 (execRegRead a0 a1 s) := by
  unfold Sys2Proof.Machine.execRegRead
  repeat' first
    | with_reducible assumption
    | with_reducible exact Keeps.refl
    | with_reducible apply KeepsO.msgRow

theorem KeepsO.execRegWrite {s0 s : State} {a0 a1} (h : Keeps false s0 s) :
    KeepsO false s0 (execRegWrite a0 a1 s) := by
  unfold Sys2Proof.Machine.execRegWrite
  repeat' first
    | with_reducible assumption
    | with_reducible exact Keeps.refl
    | with_reducible apply KeepsO.msgRow

theorem KeepsO.execPartCfg {s0 s : State} {a0 a1} (h : Keeps false s0 s) :
    KeepsO false s0 (execPartCfg a0 a1 s) := by
  unfold Sys2Proof.Machine.execPartCfg
  repeat' first
    | with_reducible assumption
    | with_reducible exact Keeps.refl
    | with_reducible apply KeepsO.msgRow

theorem KeepsO.execPartLoad {s0 s : State} {a0 a1} (h : Keeps false s0 s) :
    KeepsO false s0 (execPartLoad a0 a1 s) := by
  unfold Sys2Proof.Machine.execPartLoad
  repeat' first
    | with_reducible assumption
    | with_reducible exact Keeps.refl
    | with_reducible apply KeepsO.msgRow

theorem KeepsO.execPartPause {s0 s : State} {a0 a1} (h : Keeps false s0 s) :
    KeepsO false s0 (execPartPause a0 a1 s) := by
  unfold Sys2Proof.Machine.execPartPause
  repeat' first
    | with_reducible assumption
    | with_reducible exact Keeps.refl
    | with_reducible apply KeepsO.msgRow

theorem KeepsO.execPartResume {s0 s : State} {a0 a1} (h : Keeps false s0 s) :
    KeepsO false s0 (execPartResume a0 a1 s) := by
  unfold Sys2Proof.Machine.execPartResume
  repeat' first
    | with_reducible assumption
    | with_reducible exact Keeps.refl
    | with_reducible apply KeepsO.msgRow

theorem KeepsO.execPartRelease {s0 s : State} {a0 a1} (h : Keeps false s0 s) :
    KeepsO false s0 (execPartRelease a0 a1 s) := by
  unfold Sys2Proof.Machine.execPartRelease
  repeat' first
    | with_reducible assumption
    | with_reducible exact Keeps.refl
    | with_reducible apply KeepsO.msgRow

theorem KeepsO.execPartReset {s0 s : State} {a0 a1} (h : Keeps false s0 s) :
    KeepsO false s0 (execPartReset a0 a1 s) := by
  unfold Sys2Proof.Machine.execPartReset
  repeat' first
    | with_reducible assumption
    | with_reducible exact Keeps.refl
    | with_reducible apply KeepsO.msgRow

theorem KeepsO.execMemAlloc {s0 s : State} {a0 a1} (h : Keeps false s0 s) :
    KeepsO false s0 (execMemAlloc a0 a1 s) := by
  unfold Sys2Proof.Machine.execMemAlloc
  repeat' first
    | with_reducible assumption
    | with_reducible exact Keeps.refl
    | with_reducible apply KeepsO.msgRow

theorem KeepsO.execMemFree {s0 s : State} {a0 a1} (h : Keeps false s0 s) :
    KeepsO false s0 (execMemFree a0 a1 s) := by
  unfold Sys2Proof.Machine.execMemFree
  repeat' first
    | with_reducible assumption
    | with_reducible exact Keeps.refl
    | with_reducible apply KeepsO.msgRow

theorem KeepsO.execTeacherSeal {s0 s : State} {a0 a1} (h : Keeps false s0 s) :
    KeepsO false s0 (execTeacherSeal a0 a1 s) := by
  unfold Sys2Proof.Machine.execTeacherSeal
  repeat' first
    | with_reducible assumption
    | with_reducible exact Keeps.refl
    | with_reducible apply KeepsO.msgRow

theorem KeepsO.execTeacherUnseal {s0 s : State} {a0 a1} (h : Keeps false s0 s) :
    KeepsO false s0 (execTeacherUnseal a0 a1 s) := by
  unfold Sys2Proof.Machine.execTeacherUnseal
  repeat' first
    | with_reducible assumption
    | with_reducible exact Keeps.refl
    | with_reducible apply KeepsO.msgRow

theorem KeepsO.execEpochSet {s0 s : State} {a0 a1} (h : Keeps false s0 s) :
    KeepsO false s0 (execEpochSet a0 a1 s) := by
  unfold Sys2Proof.Machine.execEpochSet
  repeat' first
    | with_reducible assumption
    | with_reducible exact Keeps.refl
    | with_reducible apply KeepsO.msgRow

theorem KeepsO.execTapRelease {s0 s : State} {a0 a1} (h : Keeps false s0 s) :
    KeepsO false s0 (execTapRelease a0 a1 s) := by
  unfold Sys2Proof.Machine.execTapRelease
  repeat' first
    | with_reducible assumption
    | with_reducible exact Keeps.refl
    | with_reducible apply KeepsO.msgRow

theorem KeepsO.execSvCfg {s0 s : State} {a0 a1} (h : Keeps false s0 s) :
    KeepsO false s0 (execSvCfg a0 a1 s) := by
  unfold Sys2Proof.Machine.execSvCfg
  repeat' first
    | with_reducible assumption
    | with_reducible exact Keeps.refl
    | with_reducible apply KeepsO.msgRow

theorem KeepsO.execSvSubmit {s0 s : State} {a0 a1} (h : Keeps false s0 s) :
    KeepsO false s0 (execSvSubmit a0 a1 s) := by
  unfold Sys2Proof.Machine.execSvSubmit
  repeat' first
    | with_reducible assumption
    | with_reducible exact Keeps.refl
    | with_reducible apply KeepsO.msgRow

theorem KeepsO.execSvCancel {s0 s : State} {a0 a1} (h : Keeps false s0 s) :
    KeepsO false s0 (execSvCancel a0 a1 s) := by
  unfold Sys2Proof.Machine.execSvCancel
  repeat' first
    | with_reducible assumption
    | with_reducible exact Keeps.refl
    | with_reducible apply KeepsO.msgRow

theorem KeepsO.execSvForget {s0 s : State} {a0 a1} (h : Keeps false s0 s) :
    KeepsO false s0 (execSvForget a0 a1 s) := by
  unfold Sys2Proof.Machine.execSvForget
  repeat' first
    | with_reducible assumption
    | with_reducible exact Keeps.refl
    | with_reducible apply KeepsO.msgRow

theorem KeepsO.execIrqTimer {b : Bool} {s0 s : State} {a0} (h : Keeps b s0 s) :
    KeepsO b s0 (execIrqTimer a0 s) := by
  unfold Sys2Proof.Machine.execIrqTimer
  repeat' first
    | with_reducible assumption
    | with_reducible exact Keeps.refl
    | with_reducible apply Keeps.irqFire
    | with_reducible refine Keeps.ite' (fun _ => ?_) (fun _ => ?_)
    | with_reducible refine KeepsO.next ?_
    | with_reducible refine KeepsO.ite' (fun _ => ?_) (fun _ => ?_)

theorem KeepsO.pageWrite {s0 s : State} {a1 a2 a3 a4 a5} (h : Keeps false s0 s) :
    KeepsO false s0 (State.pageWrite s a1 a2 a3 a4 a5) := by
  unfold Sys2Proof.Machine.State.pageWrite
  repeat' first
    | with_reducible assumption
    | with_reducible exact Keeps.refl
    | with_reducible apply Keeps.serve
    | with_reducible apply Keeps.writeAccess
    | with_reducible refine KeepsO.next ?_

theorem KeepsO.execRegisterRead {b : Bool} {s0 s : State} {a0 a1 a2} (h : Keeps b s0 s) :
    KeepsO b s0 (execRegisterRead a0 a1 a2 s) := by
  unfold Sys2Proof.Machine.execRegisterRead
  repeat' first
    | with_reducible assumption
    | with_reducible exact Keeps.refl
    | with_reducible apply Keeps.readAccess
    | with_reducible refine KeepsO.next ?_

theorem KeepsO.execRegisterWrite {s0 s : State} {a0 a1 a2 a3} (h : Keeps false s0 s) :
    KeepsO false s0 (execRegisterWrite a0 a1 a2 a3 s) := by
  unfold Sys2Proof.Machine.execRegisterWrite
  repeat' first
    | with_reducible assumption
    | with_reducible exact Keeps.refl
    | with_reducible apply Keeps.serve
    | with_reducible apply Keeps.writeAccess
    | with_reducible refine KeepsO.next ?_

theorem KeepsO.execGlbFenceRead {b : Bool} {s0 s : State} {a0} (h : Keeps b s0 s) :
    KeepsO b s0 (execGlbFenceRead a0 s) := by
  unfold Sys2Proof.Machine.execGlbFenceRead
  repeat' first
    | with_reducible assumption
    | with_reducible exact Keeps.refl
    | with_reducible apply Keeps.readAccess
    | with_reducible refine KeepsO.next ?_

theorem KeepsO.execLoReadCapture {b : Bool} {s0 s : State} {a0 a1} (h : Keeps b s0 s) :
    KeepsO b s0 (execLoReadCapture a0 a1 s) := by
  unfold Sys2Proof.Machine.execLoReadCapture
  repeat' first
    | with_reducible assumption
    | with_reducible exact Keeps.refl
    | with_reducible apply Keeps.readAccess
    | with_reducible refine KeepsO.next ?_

theorem KeepsO.execHiWriteCommit {s0 s : State} {a0 a1 a2} (h : Keeps false s0 s) :
    KeepsO false s0 (execHiWriteCommit a0 a1 a2 s) := by
  unfold Sys2Proof.Machine.execHiWriteCommit
  repeat' first
    | with_reducible assumption
    | with_reducible exact Keeps.refl
    | with_reducible apply Keeps.serve
    | with_reducible apply Keeps.writeAccess
    | with_reducible refine KeepsO.next ?_

theorem KeepsO.hdrWrite {s0 s : State} {a1 a2 a3 a4} (h : Keeps false s0 s) :
    KeepsO false s0 (State.hdrWrite s a1 a2 a3 a4) := by
  unfold Sys2Proof.Machine.State.hdrWrite
  repeat' first
    | with_reducible assumption
    | with_reducible exact Keeps.refl
    | with_reducible apply Keeps.serve
    | with_reducible apply Keeps.writeAccess
    | with_reducible refine KeepsO.next ?_

theorem Keeps.alerts {b : Bool} {s0 s : State} {a1 a2 a3 a4} (h : Keeps b s0 s) :
    Keeps b s0 (State.alerts s a1 a2 a3 a4) := by
  unfold Sys2Proof.Machine.State.alerts
  repeat' first
    | with_reducible assumption
    | with_reducible exact Keeps.refl
    | with_reducible apply Keeps.setPg
    | with_reducible refine Keeps.ite' (fun _ => ?_) (fun _ => ?_)

theorem KeepsO.hdrRace {s0 s : State} {a1 a2 a3 a4 a5} (h : Keeps false s0 s) :
    KeepsO false s0 (State.hdrRace s a1 a2 a3 a4 a5) := by
  unfold Sys2Proof.Machine.State.hdrRace
  repeat' first
    | with_reducible assumption
    | with_reducible exact Keeps.refl
    | with_reducible apply Keeps.serve
    | with_reducible apply Keeps.alerts
    | with_reducible apply Keeps.hwSets
    | with_reducible apply Keeps.writeAccess
    | with_reducible apply KeepsO.hdrWrite
    | with_reducible refine Keeps.ite' (fun _ => ?_) (fun _ => ?_)
    | with_reducible refine KeepsO.next ?_
    | with_reducible refine KeepsO.ite' (fun _ => ?_) (fun _ => ?_)
    | split

theorem KeepsO.execBlkEvtClear {s0 s : State} {a0 a1 a2} (h : Keeps false s0 s) :
    KeepsO false s0 (execBlkEvtClear a0 a1 a2 s) := by
  unfold Sys2Proof.Machine.execBlkEvtClear
  repeat' first
    | with_reducible assumption
    | with_reducible exact Keeps.refl
    | with_reducible apply KeepsO.hdrRace

theorem KeepsO.execBlkEvtSet {s0 s : State} {a0 a1 a2} (h : Keeps false s0 s) :
    KeepsO false s0 (execBlkEvtSet a0 a1 a2 s) := by
  unfold Sys2Proof.Machine.execBlkEvtSet
  repeat' first
    | with_reducible assumption
    | with_reducible exact Keeps.refl
    | with_reducible apply KeepsO.hdrRace

theorem KeepsO.execBlkEvtEnWrite {s0 s : State} {a0 a1 a2} (h : Keeps false s0 s) :
    KeepsO false s0 (execBlkEvtEnWrite a0 a1 a2 s) := by
  unfold Sys2Proof.Machine.execBlkEvtEnWrite
  repeat' first
    | with_reducible assumption
    | with_reducible exact Keeps.refl
    | with_reducible apply KeepsO.hdrWrite

theorem KeepsO.execSrst {s0 s : State} {a0 a1 a2} (h : Keeps false s0 s) :
    KeepsO false s0 (execSrst a0 a1 a2 s) := by
  unfold Sys2Proof.Machine.execSrst
  repeat' first
    | with_reducible assumption
    | with_reducible exact Keeps.refl
    | with_reducible apply KeepsO.hdrWrite

theorem KeepsO.execCntClr {s0 s : State} {a0 a1 a2} (h : Keeps false s0 s) :
    KeepsO false s0 (execCntClr a0 a1 a2 s) := by
  unfold Sys2Proof.Machine.execCntClr
  repeat' first
    | with_reducible assumption
    | with_reducible exact Keeps.refl
    | with_reducible apply KeepsO.hdrRace

theorem KeepsO.execPerfClr {s0 s : State} {a0 a1 a2} (h : Keeps false s0 s) :
    KeepsO false s0 (execPerfClr a0 a1 a2 s) := by
  unfold Sys2Proof.Machine.execPerfClr
  repeat' first
    | with_reducible assumption
    | with_reducible exact Keeps.refl
    | with_reducible apply KeepsO.hdrWrite
    | with_reducible refine KeepsO.next ?_
    | split

theorem KeepsO.execDoorbell {s0 s : State} {a0 a1 a2} (h : Keeps false s0 s) :
    KeepsO false s0 (execDoorbell a0 a1 a2 s) := by
  unfold Sys2Proof.Machine.execDoorbell
  repeat' first
    | with_reducible assumption
    | with_reducible exact Keeps.refl
    | with_reducible apply KeepsO.pageWrite

theorem KeepsO.execRingCfgEn {s0 s : State} {a0 a1 a2} (h : Keeps false s0 s) :
    KeepsO false s0 (execRingCfgEn a0 a1 a2 s) := by
  unfold Sys2Proof.Machine.execRingCfgEn
  repeat' first
    | with_reducible assumption
    | with_reducible exact Keeps.refl
    | with_reducible apply KeepsO.pageWrite

theorem KeepsO.execRingCfgRst {s0 s : State} {a0 a1 a2} (h : Keeps false s0 s) :
    KeepsO false s0 (execRingCfgRst a0 a1 a2 s) := by
  unfold Sys2Proof.Machine.execRingCfgRst
  repeat' first
    | with_reducible assumption
    | with_reducible exact Keeps.refl
    | with_reducible apply KeepsO.pageWrite

theorem KeepsO.execCqHeadWrite {s0 s : State} {a0 a1 a2} (h : Keeps false s0 s) :
    KeepsO false s0 (execCqHeadWrite a0 a1 a2 s) := by
  unfold Sys2Proof.Machine.execCqHeadWrite
  repeat' first
    | with_reducible assumption
    | with_reducible exact Keeps.refl
    | with_reducible apply KeepsO.pageWrite

theorem KeepsO.execDevRst {s0 s : State} {a0 a1} (h : Keeps false s0 s) :
    KeepsO false s0 (execDevRst a0 a1 s) := by
  unfold Sys2Proof.Machine.execDevRst
  repeat' first
    | with_reducible assumption
    | with_reducible exact Keeps.refl
    | with_reducible apply KeepsO.pageWrite

theorem KeepsO.execPortCfgTrain {s0 s : State} {a0 a1 a2} (h : Keeps false s0 s) :
    KeepsO false s0 (execPortCfgTrain a0 a1 a2 s) := by
  unfold Sys2Proof.Machine.execPortCfgTrain
  repeat' first
    | with_reducible assumption
    | with_reducible exact Keeps.refl
    | with_reducible apply KeepsO.pageWrite

theorem KeepsO.execPortCfgDown {s0 s : State} {a0 a1 a2} (h : Keeps false s0 s) :
    KeepsO false s0 (execPortCfgDown a0 a1 a2 s) := by
  unfold Sys2Proof.Machine.execPortCfgDown
  repeat' first
    | with_reducible assumption
    | with_reducible exact Keeps.refl
    | with_reducible apply KeepsO.pageWrite

theorem KeepsO.execPortCfgModeWrite {s0 s : State} {a0 a1 a2} (h : Keeps false s0 s) :
    KeepsO false s0 (execPortCfgModeWrite a0 a1 a2 s) := by
  unfold Sys2Proof.Machine.execPortCfgModeWrite
  repeat' first
    | with_reducible assumption
    | with_reducible exact Keeps.refl
    | with_reducible apply KeepsO.pageWrite

theorem KeepsO.execDevIdWrite {s0 s : State} {a0 a1 a2} (h : Keeps false s0 s) :
    KeepsO false s0 (execDevIdWrite a0 a1 a2 s) := by
  unfold Sys2Proof.Machine.execDevIdWrite
  repeat' first
    | with_reducible assumption
    | with_reducible exact Keeps.refl
    | with_reducible apply KeepsO.pageWrite

theorem KeepsO.execEthSegWrite {s0 s : State} {a0 a1 a2} (h : Keeps false s0 s) :
    KeepsO false s0 (execEthSegWrite a0 a1 a2 s) := by
  unfold Sys2Proof.Machine.execEthSegWrite
  repeat' first
    | with_reducible assumption
    | with_reducible exact Keeps.refl
    | with_reducible apply KeepsO.pageWrite

theorem KeepsO.execEthRtoWrite {s0 s : State} {a0 a1 a2} (h : Keeps false s0 s) :
    KeepsO false s0 (execEthRtoWrite a0 a1 a2 s) := by
  unfold Sys2Proof.Machine.execEthRtoWrite
  repeat' first
    | with_reducible assumption
    | with_reducible exact Keeps.refl
    | with_reducible apply KeepsO.pageWrite

theorem KeepsO.execFhClr {s0 s : State} {a0 a1 a2} (h : Keeps false s0 s) :
    KeepsO false s0 (execFhClr a0 a1 a2 s) := by
  unfold Sys2Proof.Machine.execFhClr
  repeat' first
    | with_reducible assumption
    | with_reducible exact Keeps.refl
    | with_reducible apply KeepsO.pageWrite

theorem KeepsO.execSplogClr {s0 s : State} {a0 a1} (h : Keeps false s0 s) :
    KeepsO false s0 (execSplogClr a0 a1 s) := by
  unfold Sys2Proof.Machine.execSplogClr
  repeat' first
    | with_reducible assumption
    | with_reducible exact Keeps.refl
    | with_reducible apply KeepsO.pageWrite

theorem KeepsO.execSpruePcfgWrite {s0 s : State} {a0 a1 a2 a3} (h : Keeps false s0 s) :
    KeepsO false s0 (execSpruePcfgWrite a0 a1 a2 a3 s) := by
  unfold Sys2Proof.Machine.execSpruePcfgWrite
  repeat' first
    | with_reducible assumption
    | with_reducible exact Keeps.refl
    | with_reducible apply KeepsO.pageWrite

theorem KeepsO.execSprueTrecWrite {s0 s : State} {a0 a1 a2 a3} (h : Keeps false s0 s) :
    KeepsO false s0 (execSprueTrecWrite a0 a1 a2 a3 s) := by
  unfold Sys2Proof.Machine.execSprueTrecWrite
  repeat' first
    | with_reducible assumption
    | with_reducible exact Keeps.refl
    | with_reducible apply KeepsO.pageWrite

theorem KeepsO.execGovCfgWrite {s0 s : State} {a0 a1 a2} (h : Keeps false s0 s) :
    KeepsO false s0 (execGovCfgWrite a0 a1 a2 s) := by
  unfold Sys2Proof.Machine.execGovCfgWrite
  repeat' first
    | with_reducible assumption
    | with_reducible exact Keeps.refl
    | with_reducible apply KeepsO.pageWrite

theorem KeepsO.execArraySetWrite {s0 s : State} {a0 a1 a2} (h : Keeps false s0 s) :
    KeepsO false s0 (execArraySetWrite a0 a1 a2 s) := by
  unfold Sys2Proof.Machine.execArraySetWrite
  repeat' first
    | with_reducible assumption
    | with_reducible exact Keeps.refl
    | with_reducible apply KeepsO.pageWrite

theorem KeepsO.execProgCmd {s0 s : State} {a0 a1 a2} (h : Keeps false s0 s) :
    KeepsO false s0 (execProgCmd a0 a1 a2 s) := by
  unfold Sys2Proof.Machine.execProgCmd
  repeat' first
    | with_reducible assumption
    | with_reducible exact Keeps.refl
    | with_reducible apply KeepsO.pageWrite

theorem KeepsO.execChallenge {s0 s : State} {a0} (h : Keeps false s0 s) :
    KeepsO false s0 (execChallenge a0 s) := by
  unfold Sys2Proof.Machine.execChallenge
  repeat' first
    | with_reducible assumption
    | with_reducible exact Keeps.refl
    | with_reducible apply KeepsO.pageWrite

theorem KeepsO.execVerifyKey {s0 s : State} {a0} (h : Keeps false s0 s) :
    KeepsO false s0 (execVerifyKey a0 s) := by
  unfold Sys2Proof.Machine.execVerifyKey
  repeat' first
    | with_reducible assumption
    | with_reducible exact Keeps.refl
    | with_reducible apply KeepsO.pageWrite

theorem KeepsO.execVerifyPwd {s0 s : State} {a0} (h : Keeps false s0 s) :
    KeepsO false s0 (execVerifyPwd a0 s) := by
  unfold Sys2Proof.Machine.execVerifyPwd
  repeat' first
    | with_reducible assumption
    | with_reducible exact Keeps.refl
    | with_reducible apply KeepsO.pageWrite

theorem KeepsO.execClose {s0 s : State} {a0} (h : Keeps false s0 s) :
    KeepsO false s0 (execClose a0 s) := by
  unfold Sys2Proof.Machine.execClose
  repeat' first
    | with_reducible assumption
    | with_reducible exact Keeps.refl
    | with_reducible apply KeepsO.pageWrite

theorem KeepsO.execDbgHalt {s0 s : State} {a0} (h : Keeps false s0 s) :
    KeepsO false s0 (execDbgHalt a0 s) := by
  unfold Sys2Proof.Machine.execDbgHalt
  repeat' first
    | with_reducible assumption
    | with_reducible exact Keeps.refl
    | with_reducible apply KeepsO.pageWrite

theorem KeepsO.execDbgStep {s0 s : State} {a0} (h : Keeps false s0 s) :
    KeepsO false s0 (execDbgStep a0 s) := by
  unfold Sys2Proof.Machine.execDbgStep
  repeat' first
    | with_reducible assumption
    | with_reducible exact Keeps.refl
    | with_reducible apply KeepsO.pageWrite

theorem KeepsO.execDbgResume {s0 s : State} {a0} (h : Keeps false s0 s) :
    KeepsO false s0 (execDbgResume a0 s) := by
  unfold Sys2Proof.Machine.execDbgResume
  repeat' first
    | with_reducible assumption
    | with_reducible exact Keeps.refl
    | with_reducible apply KeepsO.pageWrite

theorem KeepsO.execDbgArmBreakpoint {s0 s : State} {a0} (h : Keeps false s0 s) :
    KeepsO false s0 (execDbgArmBreakpoint a0 s) := by
  unfold Sys2Proof.Machine.execDbgArmBreakpoint
  repeat' first
    | with_reducible assumption
    | with_reducible exact Keeps.refl
    | with_reducible apply KeepsO.pageWrite

theorem KeepsO.execSeqDataWrite {s0 s : State} {a0 a1} (h : Keeps false s0 s) :
    KeepsO false s0 (execSeqDataWrite a0 a1 s) := by
  unfold Sys2Proof.Machine.execSeqDataWrite
  repeat' first
    | with_reducible assumption
    | with_reducible exact Keeps.refl
    | with_reducible apply KeepsO.pageWrite

end Sys2Proof.Machine
end

