-- ==== Sys2Proof/Laws/Keeps/Jtag.lean ====
section
/-! SUPPORT. What the operations of Machine/Jtag.lean keep. -/
set_option Elab.async false

namespace Sys2Proof.Machine

theorem Keeps.loadIr {s0 s : State} {a1 a2 a3} (h : Keeps false s0 s) :
    Keeps false s0 (State.loadIr s a1 a2 a3) := by
  unfold Sys2Proof.Machine.State.loadIr
  repeat' first
    | with_reducible assumption
    | with_reducible exact Keeps.refl
    | with_reducible apply Keeps.setTap

theorem Keeps.capture {s0 s : State} {a1 a2} (h : Keeps false s0 s) :
    Keeps false s0 (State.capture s a1 a2) := by
  unfold Sys2Proof.Machine.State.capture
  repeat' first
    | with_reducible assumption
    | with_reducible exact Keeps.refl
    | with_reducible apply Keeps.setTap

theorem KeepsO.tapRow {b : Bool} {s0 s : State} {a1} (h : Keeps b s0 s) (h1 : ∀ x0, Keeps b s0 x0 → Keeps b s0 (a1 x0)) :
    KeepsO b s0 (State.tapRow s a1) := by
  unfold Sys2Proof.Machine.State.tapRow
  repeat' first
    | with_reducible assumption
    | with_reducible exact Keeps.refl
    | with_reducible refine h1 _ ?_
    | with_reducible refine Keeps.ite' (fun _ => ?_) (fun _ => ?_)
    | with_reducible refine KeepsO.next ?_

theorem KeepsO.execTrstNAssert {s0 s : State} (h : Keeps false s0 s) :
    KeepsO false s0 (execTrstNAssert s) := by
  unfold Sys2Proof.Machine.execTrstNAssert
  repeat' first
    | with_reducible assumption
    | with_reducible exact Keeps.refl
    | with_reducible apply KeepsO.tapRow
    | with_reducible apply Keeps.loadIr
    | with_reducible refine KeepsO.next ?_
    | (intro _)

theorem Keeps.scanBoundary {s0 s : State} {a1 a2} (h : Keeps false s0 s) :
    Keeps false s0 (State.scanBoundary s a1 a2) := by
  unfold Sys2Proof.Machine.State.scanBoundary
  repeat' first
    | with_reducible assumption
    | with_reducible exact Keeps.refl
    | with_reducible apply Keeps.setTap

theorem KeepsO.execExtest {s0 s : State} {a0} (h : Keeps false s0 s) :
    KeepsO false s0 (execExtest a0 s) := by
  unfold Sys2Proof.Machine.execExtest
  repeat' first
    | with_reducible assumption
    | with_reducible exact Keeps.refl
    | with_reducible apply KeepsO.tapRow
    | with_reducible apply Keeps.scanBoundary
    | with_reducible refine KeepsO.next ?_
    | (intro _)

theorem KeepsO.execSamplePreload {s0 s : State} {a0 a1 a2} (h : Keeps false s0 s) :
    KeepsO false s0 (execSamplePreload a0 a1 a2 s) := by
  unfold Sys2Proof.Machine.execSamplePreload
  repeat' first
    | with_reducible assumption
    | with_reducible exact Keeps.refl
    | with_reducible apply KeepsO.tapRow
    | with_reducible apply Keeps.scanBoundary
    | with_reducible refine KeepsO.next ?_
    | (intro _)

theorem KeepsO.execIdcode {s0 s : State} {a0} (h : Keeps false s0 s) :
    KeepsO false s0 (execIdcode a0 s) := by
  unfold Sys2Proof.Machine.execIdcode
  repeat' first
    | with_reducible assumption
    | with_reducible exact Keeps.refl
    | with_reducible apply KeepsO.tapRow
    | with_reducible apply Keeps.capture
    | with_reducible apply Keeps.loadIr
    | with_reducible refine KeepsO.next ?_
    | (intro _)

theorem KeepsO.execClamp {s0 s : State} {a0} (h : Keeps false s0 s) :
    KeepsO false s0 (execClamp a0 s) := by
  unfold Sys2Proof.Machine.execClamp
  repeat' first
    | with_reducible assumption
    | with_reducible exact Keeps.refl
    | with_reducible apply KeepsO.tapRow
    | with_reducible apply Keeps.loadIr
    | with_reducible refine KeepsO.next ?_
    | (intro _)

theorem KeepsO.execHighz {s0 s : State} {a0} (h : Keeps false s0 s) :
    KeepsO false s0 (execHighz a0 s) := by
  unfold Sys2Proof.Machine.execHighz
  repeat' first
    | with_reducible assumption
    | with_reducible exact Keeps.refl
    | with_reducible apply KeepsO.tapRow
    | with_reducible apply Keeps.loadIr
    | with_reducible refine KeepsO.next ?_
    | (intro _)

theorem KeepsO.execBypass {s0 s : State} {a0} (h : Keeps false s0 s) :
    KeepsO false s0 (execBypass a0 s) := by
  unfold Sys2Proof.Machine.execBypass
  repeat' first
    | with_reducible assumption
    | with_reducible exact Keeps.refl
    | with_reducible apply KeepsO.tapRow
    | with_reducible apply Keeps.loadIr
    | with_reducible refine KeepsO.next ?_
    | (intro _)

theorem KeepsO.execExtestPulse {s0 s : State} {a0} (h : Keeps false s0 s) :
    KeepsO false s0 (execExtestPulse a0 s) := by
  unfold Sys2Proof.Machine.execExtestPulse
  repeat' first
    | with_reducible assumption
    | with_reducible exact Keeps.refl
    | with_reducible apply KeepsO.tapRow
    | with_reducible apply Keeps.scanBoundary
    | with_reducible refine KeepsO.next ?_
    | (intro _)

theorem KeepsO.execExtestTrain {s0 s : State} {a0} (h : Keeps false s0 s) :
    KeepsO false s0 (execExtestTrain a0 s) := by
  unfold Sys2Proof.Machine.execExtestTrain
  repeat' first
    | with_reducible assumption
    | with_reducible exact Keeps.refl
    | with_reducible apply KeepsO.tapRow
    | with_reducible apply Keeps.scanBoundary
    | with_reducible refine KeepsO.next ?_
    | (intro _)

theorem KeepsO.execBootRead {s0 s : State} (h : Keeps false s0 s) :
    KeepsO false s0 (execBootRead s) := by
  unfold Sys2Proof.Machine.execBootRead
  repeat' first
    | with_reducible assumption
    | with_reducible exact Keeps.refl
    | with_reducible apply KeepsO.tapRow
    | with_reducible apply Keeps.capture
    | with_reducible apply Keeps.loadIr
    | with_reducible refine KeepsO.next ?_
    | (intro _)

theorem KeepsO.execRegAccess {s0 s : State} {a0} (h : Keeps false s0 s) :
    KeepsO false s0 (execRegAccess a0 s) := by
  unfold Sys2Proof.Machine.execRegAccess
  repeat' first
    | with_reducible assumption
    | with_reducible exact Keeps.refl
    | with_reducible apply KeepsO.tapRow
    | with_reducible apply Keeps.loadIr
    | with_reducible apply Keeps.regWrite
    | with_reducible apply Keeps.capture
    | with_reducible apply Keeps.regRead
    | with_reducible apply Keeps.setRead
    | with_reducible refine Keeps.ite' (fun _ => ?_) (fun _ => ?_)
    | with_reducible refine KeepsO.next ?_
    | with_reducible refine KeepsO.ite' (fun _ => ?_) (fun _ => ?_)
    | with_reducible refine Keeps.ite_fst (fun _ => ?_) (fun _ => ?_)
    | with_reducible refine Keeps.ite_snd (fun _ => ?_) (fun _ => ?_)
    | (intro _)

end Sys2Proof.Machine
end

