-- ==== Sys2Proof/Laws/Keeps/Sprue.lean ====
section
/-! SUPPORT. What the operations of Machine/Sprue.lean keep. -/
set_option Elab.async false

namespace Sys2Proof.Machine

theorem Keeps.setSprueBlks {b : Bool} {s0 s : State} {a1} (h : Keeps b s0 s) :
    Keeps b s0 (State.setSprueBlks s a1) := by
  unfold Sys2Proof.Machine.State.setSprueBlks
  repeat' first
    | with_reducible assumption
    | with_reducible exact Keeps.refl
    | with_reducible apply Keeps.setSprue

theorem Keeps.putBlk {b : Bool} {s0 s : State} {a1} (h : Keeps b s0 s) :
    Keeps b s0 (State.putBlk s a1) := by
  unfold Sys2Proof.Machine.State.putBlk
  repeat' first
    | with_reducible assumption
    | with_reducible exact Keeps.refl
    | with_reducible apply Keeps.setSprueBlks

theorem Keeps.wrPart {b : Bool} {s0 s : State} {a1 a2 a3 a4 a5} (h : Keeps b s0 s) :
    Keeps b s0 (State.wrPart s a1 a2 a3 a4 a5) := by
  unfold Sys2Proof.Machine.State.wrPart
  repeat' first
    | with_reducible assumption
    | with_reducible exact Keeps.refl
    | with_reducible apply Keeps.wr

theorem Keeps.nfCount {b : Bool} {s0 s : State} {a1 a2 a3} (h : Keeps b s0 s) :
    Keeps b s0 (State.nfCount s a1 a2 a3) := by
  unfold Sys2Proof.Machine.State.nfCount
  repeat' first
    | with_reducible assumption
    | with_reducible exact Keeps.refl
    | with_reducible apply Keeps.evSet
    | with_reducible apply Keeps.count32
    | with_reducible refine Keeps.ite' (fun _ => ?_) (fun _ => ?_)

theorem Keeps.wrLosses {b : Bool} {s0 s : State} {a1 a2 a3 a4 a5} (h : Keeps b s0 s) :
    Keeps b s0 (State.wrLosses s a1 a2 a3 a4 a5) := by
  unfold Sys2Proof.Machine.State.wrLosses
  repeat' first
    | with_reducible assumption
    | with_reducible exact Keeps.refl
    | with_reducible apply Keeps.wr
    | with_reducible refine Keeps.ite' (fun _ => ?_) (fun _ => ?_)

theorem KeepsOpt.admitPass1 {b : Bool} {s0 s : State} {a1 a2 a3 a4} (h : Keeps b s0 s) :
    KeepsOpt b s0 (State.admitPass1 s a1 a2 a3 a4) := by
  unfold Sys2Proof.Machine.State.admitPass1
  repeat' first
    | with_reducible assumption
    | with_reducible exact Keeps.refl
    | with_reducible apply KeepsOpt.tagAccess
    | with_reducible apply Keeps.putBlk
    | with_reducible apply Keeps.nfCount
    | with_reducible refine Keeps.ite' (fun _ => ?_) (fun _ => ?_)
    | with_reducible refine Keeps.ite_fst (fun _ => ?_) (fun _ => ?_)
    | with_reducible refine Keeps.ite_snd (fun _ => ?_) (fun _ => ?_)
    | with_reducible refine KeepsOpt.some' ?_
    | with_reducible exact KeepsOpt.none'
    | with_reducible refine KeepsOpt.ite' (fun _ => ?_) (fun _ => ?_)
    | with_reducible refine Keeps.getD' ?_ ?_
    | with_reducible refine Keeps.foldl' _ ?_ (fun _ _ _ => ?_)
    | with_reducible refine Keeps.foldl_fst _ ?_ (fun _ _ _ => ?_)
    | with_reducible refine Keeps.foldl_snd _ ?_ (fun _ _ _ => ?_)
    | split
    | refine KeepsOpt.tagAccess ?_ _ (by assumption)

theorem KeepsOpt.admitPass2 {b : Bool} {s0 s : State} {a1 a2 a3 a4} (h : Keeps b s0 s) :
    KeepsOpt b s0 (State.admitPass2 s a1 a2 a3 a4) := by
  unfold Sys2Proof.Machine.State.admitPass2
  repeat' first
    | with_reducible assumption
    | with_reducible exact Keeps.refl
    | with_reducible apply KeepsOpt.tagAccess
    | with_reducible apply Keeps.nfCount
    | with_reducible apply Keeps.wrPart
    | with_reducible apply Keeps.putBlk
    | with_reducible apply Keeps.wrLosses
    | with_reducible refine Keeps.ite' (fun _ => ?_) (fun _ => ?_)
    | with_reducible refine KeepsOpt.some' ?_
    | with_reducible exact KeepsOpt.none'
    | with_reducible refine KeepsOpt.ite' (fun _ => ?_) (fun _ => ?_)
    | with_reducible refine Keeps.foldl' _ ?_ (fun _ _ _ => ?_)
    | with_reducible refine Keeps.foldl_fst _ ?_ (fun _ _ _ => ?_)
    | with_reducible refine Keeps.foldl_snd _ ?_ (fun _ _ _ => ?_)
    | with_reducible refine Keeps.forN' _ ?_ (fun _ _ _ => ?_)
    | with_reducible refine Keeps.forN_fst _ ?_ (fun _ _ _ => ?_)
    | with_reducible refine Keeps.forN_snd _ ?_ (fun _ _ _ => ?_)
    | split
    | (dsimp only; split)
    | refine KeepsOpt.tagAccess ?_ _ (by assumption)

theorem Keeps.reserve {b : Bool} {s0 s : State} {a1 a2 a3 a4 a5} (h : Keeps b s0 s) :
    Keeps b s0 (State.reserve s a1 a2 a3 a4 a5) := by
  unfold Sys2Proof.Machine.State.reserve
  repeat' first
    | with_reducible assumption
    | with_reducible exact Keeps.refl
    | with_reducible apply Keeps.setSprue
    | with_reducible apply Keeps.putBlk
    | with_reducible refine Keeps.ite' (fun _ => ?_) (fun _ => ?_)
    | with_reducible refine Keeps.getD' ?_ ?_
    | with_reducible refine Keeps.foldl' _ ?_ (fun _ _ _ => ?_)

theorem KeepsOpt.admitTopk {b : Bool} {s0 s : State} {a1 a2 a3} (h : Keeps b s0 s) :
    KeepsOpt b s0 (State.admitTopk s a1 a2 a3) := by
  unfold Sys2Proof.Machine.State.admitTopk
  repeat' first
    | with_reducible assumption
    | with_reducible exact Keeps.refl
    | with_reducible apply Keeps.putBlk
    | with_reducible apply Keeps.nfCount
    | with_reducible refine Keeps.ite' (fun _ => ?_) (fun _ => ?_)
    | with_reducible refine KeepsOpt.some' ?_
    | with_reducible exact KeepsOpt.none'
    | with_reducible refine KeepsOpt.ite' (fun _ => ?_) (fun _ => ?_)
    | with_reducible refine Keeps.foldl' _ ?_ (fun _ _ _ => ?_)
    | with_reducible refine Keeps.foldl_fst _ ?_ (fun _ _ _ => ?_)
    | with_reducible refine Keeps.foldl_snd _ ?_ (fun _ _ _ => ?_)
    | split

theorem Keeps.endLogit {b : Bool} {s0 s : State} {a1 a2 a3} (h : Keeps b s0 s) :
    Keeps b s0 (State.endLogit s a1 a2 a3) := by
  unfold Sys2Proof.Machine.State.endLogit
  repeat' first
    | with_reducible assumption
    | with_reducible exact Keeps.refl
    | with_reducible apply Keeps.setSprue
    | with_reducible apply Keeps.modCmd

theorem KeepsO.execCgLogit {b : Bool} {s0 s : State} {a0 a1} (h : Keeps b s0 s) :
    KeepsO b s0 (execCgLogit a0 a1 s) := by
  unfold Sys2Proof.Machine.execCgLogit
  repeat' first
    | with_reducible assumption
    | with_reducible exact Keeps.refl
    | with_reducible apply KeepsOpt.unitAccess
    | with_reducible apply Keeps.gemmPos
    | with_reducible apply Keeps.endLogit
    | with_reducible refine Keeps.ite' (fun _ => ?_) (fun _ => ?_)
    | with_reducible refine KeepsO.next ?_
    | with_reducible refine KeepsO.ite' (fun _ => ?_) (fun _ => ?_)
    | split
    | (dsimp only; split)
    | refine KeepsOpt.unitAccess ?_ _ (by assumption)

theorem KeepsO.execLogitUnitOffer {b : Bool} {s0 s : State} {a0 a1 a2 a3} (h : Keeps b s0 s) :
    KeepsO b s0 (execLogitUnitOffer a0 a1 a2 a3 s) := by
  unfold Sys2Proof.Machine.execLogitUnitOffer
  repeat' first
    | with_reducible assumption
    | with_reducible exact Keeps.refl
    | with_reducible apply KeepsOpt.unitAccess
    | with_reducible apply Keeps.modUnit
    | with_reducible apply Keeps.endLogit
    | with_reducible apply Keeps.reserve
    | with_reducible apply Keeps.setSprue
    | with_reducible refine Keeps.ite' (fun _ => ?_) (fun _ => ?_)
    | with_reducible refine KeepsO.next ?_
    | with_reducible refine KeepsO.ite' (fun _ => ?_) (fun _ => ?_)
    | with_reducible refine Keeps.foldl' _ ?_ (fun _ _ _ => ?_)
    | with_reducible refine Keeps.foldl_fst _ ?_ (fun _ _ _ => ?_)
    | with_reducible refine Keeps.foldl_snd _ ?_ (fun _ _ _ => ?_)
    | split
    | (dsimp only; split)
    | refine KeepsOpt.unitAccess ?_ _ (by assumption)

theorem KeepsOpt.admitUnit {b : Bool} {s0 s : State} {a1 a2 a3} (h : Keeps b s0 s) :
    KeepsOpt b s0 (State.admitUnit s a1 a2 a3) := by
  unfold Sys2Proof.Machine.State.admitUnit
  repeat' first
    | with_reducible assumption
    | with_reducible exact Keeps.refl
    | with_reducible apply KeepsOpt.admitTopk
    | with_reducible apply Keeps.reserve
    | with_reducible apply KeepsOpt.admitPass1
    | with_reducible apply KeepsOpt.admitPass2
    | with_reducible refine Keeps.ite' (fun _ => ?_) (fun _ => ?_)
    | with_reducible refine KeepsOpt.some' ?_
    | with_reducible exact KeepsOpt.none'
    | with_reducible refine KeepsOpt.ite' (fun _ => ?_) (fun _ => ?_)
    | split
    | (dsimp only; split)
    | refine KeepsOpt.admitTopk ?_ _ (by assumption)
    | refine KeepsOpt.admitPass1 ?_ _ (by assumption)
    | refine KeepsOpt.admitPass2 ?_ _ (by assumption)

theorem KeepsO.execSprueUnitAdmit {b : Bool} {s0 s : State} {a0 a1 a2 a3 a4} (h : Keeps b s0 s) :
    KeepsO b s0 (execSprueUnitAdmit a0 a1 a2 a3 a4 s) := by
  unfold Sys2Proof.Machine.execSprueUnitAdmit
  repeat' first
    | with_reducible assumption
    | with_reducible exact Keeps.refl
    | with_reducible apply KeepsOpt.admitUnit
    | with_reducible apply Keeps.setSprue
    | with_reducible apply Keeps.count32
    | with_reducible apply Keeps.count64
    | with_reducible refine Keeps.ite' (fun _ => ?_) (fun _ => ?_)
    | with_reducible refine KeepsO.next ?_
    | with_reducible refine KeepsO.ite' (fun _ => ?_) (fun _ => ?_)
    | split
    | (dsimp only; split)
    | refine KeepsOpt.admitUnit ?_ _ (by assumption)

theorem Keeps.spLossLock {b : Bool} {s0 s : State} {a1 a2} (h : Keeps b s0 s) :
    Keeps b s0 (State.spLossLock s a1 a2) := by
  unfold Sys2Proof.Machine.State.spLossLock
  repeat' first
    | with_reducible assumption
    | with_reducible exact Keeps.refl
    | with_reducible apply Keeps.setSprueBlks
    | with_reducible apply Keeps.modCmd
    | with_reducible refine Keeps.ite' (fun _ => ?_) (fun _ => ?_)

theorem Keeps.slotStep {b : Bool} {s0 s : State} {a1 a2 a3 a4 a5 a6 a7 a8 a9 a10} (h : Keeps b s0 s) :
    Keeps b s0 (State.slotStep s a1 a2 a3 a4 a5 a6 a7 a8 a9 a10) := by
  unfold Sys2Proof.Machine.State.slotStep
  repeat' first
    | with_reducible assumption
    | with_reducible exact Keeps.refl
    | with_reducible apply Keeps.putBlk
    | with_reducible apply KeepsOpt.tagAccess
    | with_reducible apply Keeps.wrPart
    | with_reducible apply Keeps.wrLosses
    | with_reducible apply Keeps.nfCount
    | with_reducible refine Keeps.ite' (fun _ => ?_) (fun _ => ?_)
    | with_reducible refine Keeps.getD' ?_ ?_
    | with_reducible refine Keeps.foldl' _ ?_ (fun _ _ _ => ?_)
    | with_reducible refine Keeps.foldl_fst _ ?_ (fun _ _ _ => ?_)
    | with_reducible refine Keeps.foldl_snd _ ?_ (fun _ _ _ => ?_)
    | with_reducible refine Keeps.forN' _ ?_ (fun _ _ _ => ?_)
    | with_reducible refine Keeps.forN_fst _ ?_ (fun _ _ _ => ?_)
    | with_reducible refine Keeps.forN_snd _ ?_ (fun _ _ _ => ?_)
    | split
    | (dsimp only; split)
    | refine KeepsOpt.tagAccess ?_ _ (by assumption)

theorem Keeps.slotsDone {b : Bool} {s0 s : State} {a1 a2} (h : Keeps b s0 s) :
    Keeps b s0 (State.slotsDone s a1 a2) := by
  unfold Sys2Proof.Machine.State.slotsDone
  repeat' first
    | with_reducible assumption
    | with_reducible exact Keeps.refl
    | with_reducible apply Keeps.setSprueBlks
    | with_reducible apply Keeps.modCmd
    | with_reducible refine Keeps.ite' (fun _ => ?_) (fun _ => ?_)
    | with_reducible refine Keeps.foldl' _ ?_ (fun _ _ _ => ?_)
    | with_reducible refine Keeps.foldl_fst _ ?_ (fun _ _ _ => ?_)
    | with_reducible refine Keeps.foldl_snd _ ?_ (fun _ _ _ => ?_)

theorem Keeps.spLossTopk {b : Bool} {s0 s : State} {a1 a2} (h : Keeps b s0 s) :
    Keeps b s0 (State.spLossTopk s a1 a2) := by
  unfold Sys2Proof.Machine.State.spLossTopk
  repeat' first
    | with_reducible assumption
    | with_reducible exact Keeps.refl
    | with_reducible apply Keeps.slotStep
    | with_reducible apply Keeps.putBlk
    | with_reducible apply Keeps.slotsDone
    | with_reducible apply Keeps.setSprueBlks
    | with_reducible refine Keeps.ite' (fun _ => ?_) (fun _ => ?_)
    | split
    | (dsimp only; split)
    | (intro _)

theorem KeepsO.sprueRow {b : Bool} {s0 s : State} {a1 a2 a3 a4} (h : Keeps b s0 s) (h4 : ∀ x0, Keeps b s0 (a4 x0)) :
    KeepsO b s0 (State.sprueRow s a1 a2 a3 a4) := by
  unfold Sys2Proof.Machine.State.sprueRow
  repeat' first
    | with_reducible assumption
    | with_reducible exact Keeps.refl
    | with_reducible refine h4 _
    | with_reducible refine Keeps.ite' (fun _ => ?_) (fun _ => ?_)
    | with_reducible refine KeepsO.next ?_
    | with_reducible refine KeepsO.ite' (fun _ => ?_) (fun _ => ?_)
    | split

theorem KeepsO.execSpLoss {b : Bool} {s0 s : State} {a0 a1} (h : Keeps b s0 s) :
    KeepsO b s0 (execSpLoss a0 a1 s) := by
  unfold Sys2Proof.Machine.execSpLoss
  repeat' first
    | with_reducible assumption
    | with_reducible exact Keeps.refl
    | with_reducible apply KeepsO.sprueRow
    | with_reducible apply Keeps.spLossTopk
    | with_reducible apply Keeps.spLossLock
    | with_reducible refine Keeps.ite' (fun _ => ?_) (fun _ => ?_)
    | with_reducible refine KeepsO.next ?_
    | with_reducible refine KeepsO.ite' (fun _ => ?_) (fun _ => ?_)
    | (intro _)

theorem Keeps.spFeatFx {b : Bool} {s0 s : State} {a1 a2} (h : Keeps b s0 s) :
    Keeps b s0 (State.spFeatFx s a1 a2) := by
  unfold Sys2Proof.Machine.State.spFeatFx
  repeat' first
    | with_reducible assumption
    | with_reducible exact Keeps.refl
    | with_reducible apply Keeps.slotsDone
    | with_reducible apply Keeps.slotStep
    | with_reducible refine Keeps.getD' ?_ ?_
    | split
    | (dsimp only; split)
    | (intro _)

theorem KeepsO.execSpFeat {b : Bool} {s0 s : State} {a0 a1} (h : Keeps b s0 s) :
    KeepsO b s0 (execSpFeat a0 a1 s) := by
  unfold Sys2Proof.Machine.execSpFeat
  repeat' first
    | with_reducible assumption
    | with_reducible exact Keeps.refl
    | with_reducible apply KeepsO.sprueRow
    | with_reducible apply Keeps.spFeatFx
    | with_reducible refine KeepsO.next ?_
    | (intro _)

theorem KeepsO.execSprueSramUe {b : Bool} {s0 s : State} {a0 a1} (h : Keeps b s0 s) :
    KeepsO b s0 (execSprueSramUe a0 a1 s) := by
  unfold Sys2Proof.Machine.execSprueSramUe
  repeat' first
    | with_reducible assumption
    | with_reducible exact Keeps.refl
    | with_reducible apply Keeps.evErr
    | with_reducible apply Keeps.faultMany
    | with_reducible refine KeepsO.next ?_

end Sys2Proof.Machine
end

