-- ==== Sys2Proof/Laws/Ops.lean ====
section
/-! SUPPORT. Reads after the named operations of Machine/Ops.lean: register words, bytes of device
memory, units, partitions, rings, ports, stacks and granules. -/
set_option Elab.async false

namespace Sys2Proof.Machine

variable {s : State}

/-! Register words -/

theorem State.rg_setRg (c : s.Canon) (a : Nat) (v : Word) : (s.setRg a v).rg a = v :=
  tget_tput_rising resetAt a v c.bus.regs

theorem State.rg_setRg_ne (c : s.Canon) {a x : Nat} (v : Word) (h : x ≠ a) : (s.setRg a v).rg x = s.rg x :=
  tget_tput_rising_ne resetAt _ v c.bus.regs h

theorem State.pg_setPg (c : s.Canon) (k : PageKind) (i off v : Nat) :
    (s.setPg k i off v).pg k i off = v % 2 ^ 32 := by
  unfold State.pg State.setPg
  rw [State.rg_setRg c]
  exact BitVec.toNat_ofNat v 32

theorem State.pg_setPg_ne (c : s.Canon) {k k' : PageKind} {i i' off off' : Nat} (v : Nat)
    (h : pageNo k' i' * 0x1000 + off' ≠ pageNo k i * 0x1000 + off) :
    (s.setPg k i off v).pg k' i' off' = s.pg k' i' off' := by
  unfold State.pg State.setPg
  rw [State.rg_setRg_ne c _ h]

theorem State.canon_setPg (c : s.Canon) (k : PageKind) (i off v : Nat) : (s.setPg k i off v).Canon :=
  ((Keeps.setPg (b := true) .refl).1.2.2 c).1

/-! Units, partitions, rings, ports, stacks, granules -/

theorem State.unit_setUnit (c : s.Canon) (u : Nat) (x : SeqUnit) : (s.setUnit u x).unit u = x :=
  tget_tput_same _ u x c.units
theorem State.unit_setUnit_ne (c : s.Canon) {u v : Nat} (x : SeqUnit) (h : v ≠ u) :
    (s.setUnit u x).unit v = s.unit v := tget_tput_ne _ x c.units h
theorem State.setUnit_setUnit (c : s.Canon) (u : Nat) (x y : SeqUnit) :
    (s.setUnit u x).setUnit u y = s.setUnit u y := by
  unfold State.setUnit State.setUnits
  dsimp only
  rw [tput_tput _ u x y c.units]
theorem State.setPart_setPart (c : s.Canon) (p : Nat) (x y : Part) :
    (s.setPart p x).setPart p y = s.setPart p y := by
  unfold State.setPart State.setParts
  dsimp only
  rw [tput_tput _ p x y c.parts]
theorem State.setRing_setRing (c : s.Canon) (r : Nat) (x y : Ring) :
    (s.setRing r x).setRing r y = s.setRing r y := by
  unfold State.setRing State.setRings
  dsimp only
  rw [tput_tput _ r x y c.rings]
theorem State.canon_setUnit (c : s.Canon) (u : Nat) (x : SeqUnit) : (s.setUnit u x).Canon :=
  ((Keeps.setUnit (b := true) .refl).1.2.2 c).1
theorem State.part_setPart (c : s.Canon) (p : Nat) (x : Part) : (s.setPart p x).part p = x :=
  tget_tput_same _ p x c.parts
theorem State.part_setPart_ne (c : s.Canon) {p q : Nat} (x : Part) (h : q ≠ p) :
    (s.setPart p x).part q = s.part q := tget_tput_ne _ x c.parts h
theorem State.ring_setRing (c : s.Canon) (r : Nat) (x : Ring) : (s.setRing r x).ring r = x :=
  tget_tput_same _ r x c.rings
theorem State.ring_setRing_ne (c : s.Canon) {r q : Nat} (x : Ring) (h : q ≠ r) :
    (s.setRing r x).ring q = s.ring q := tget_tput_ne _ x c.rings h
theorem State.port_setPort (c : s.Canon) (n : Nat) (x : Port) : (s.setPort n x).port n = x :=
  tget_tput_same _ n x c.ports
theorem State.port_setPort_ne (c : s.Canon) {n m : Nat} (x : Port) (h : m ≠ n) :
    (s.setPort n x).port m = s.port m := tget_tput_ne _ x c.ports h
theorem State.stack_setStack (c : s.Canon) (n : Nat) (x : Stack) : (s.setStack n x).stack n = x :=
  tget_tput_same _ n x c.stk.st
theorem State.gran_setGran (c : s.Canon) (k : Nat) (x : Gran) : (s.setGran k x).gran k = x :=
  tget_tput_same _ k x c.stk.gran
theorem State.gran_setGran_ne (c : s.Canon) {k j : Nat} (x : Gran) (h : j ≠ k) :
    (s.setGran k x).gran j = s.gran j := tget_tput_ne _ x c.stk.gran h
theorem State.tap_setTap (c : s.Canon) (d : Nat) (x : Tap) : (s.setTap d x).tap d = x :=
  tget_tput_same _ d x c.taps
theorem State.die_setDie_zero (x : DieSt) : (s.setDie 0 x).die 0 = x := rfl
theorem State.die_setDie (d : Nat) (x : DieSt) : (s.setDie d x).die d = x := by
  unfold State.setDie State.die
  by_cases h : d = 0 <;> simp [h]

/-! Bytes of device memory: every memory operation keeps the canonical form -/

theorem Memory.wf_setByte (h : Memory.wf s.mem = true) (a : Nat) (x : Byte) :
    Memory.wf (s.setByte a x).mem = true := twf_tput 0 a x h

theorem Memory.wf_setBytes (h : Memory.wf s.mem = true) (a : Nat) (bs : List Byte) :
    Memory.wf (s.setBytes a bs).mem = true := by
  induction bs generalizing a s with
  | nil => exact h
  | cons x r ih => exact ih (Memory.wf_setByte h a x) (a + 1)

theorem Memory.wf_setHostBytes (h : Memory.wf s.mem = true) (a : Nat) (bs : List Byte) :
    Memory.wf (s.setHostBytes a bs).mem = true := by
  unfold State.setHostBytes
  split
  · exact Memory.wf_setBytes h _ bs
  · exact h

theorem Memory.wf_zeroBytes (h : Memory.wf s.mem = true) (a n : Nat) :
    Memory.wf (s.zeroBytes a n).mem = true := twf_filter 0 _ h

theorem State.byte_setByte (h : Memory.wf s.mem = true) (a : Nat) (x : Byte) : (s.setByte a x).byte a = x :=
  tget_tput_same 0 a x h

theorem State.byte_setByte_ne (h : Memory.wf s.mem = true) {a b : Nat} (x : Byte) (hb : b ≠ a) :
    (s.setByte a x).byte b = s.byte b := tget_tput_ne 0 x h hb

/-- What a run of bytes laid down reads as: its bytes within the run, the old bytes elsewhere. -/
theorem State.byte_setBytes (h : Memory.wf s.mem = true) (a b : Nat) (bs : List Byte) :
    (s.setBytes a bs).byte b = if a ≤ b ∧ b < a + bs.length then bs.getD (b - a) 0 else s.byte b := by
  induction bs generalizing a s with
  | nil =>
    rw [if_neg (by simp only [List.length_nil]; omega)]
    rfl
  | cons x r ih =>
    rw [State.setBytes, ih (Memory.wf_setByte h a x)]
    simp only [List.length_cons]
    by_cases hb : b = a
    · subst hb
      rw [if_neg (by omega), if_pos (by omega), State.byte_setByte h]
      simp
    · rw [State.byte_setByte_ne h x hb]
      by_cases hin : a + 1 ≤ b ∧ b < a + 1 + r.length
      · rw [if_pos hin, if_pos (by omega)]
        obtain ⟨j, rfl⟩ : ∃ j, b = a + 1 + j := ⟨b - (a + 1), by omega⟩
        have e1 : a + 1 + j - (a + 1) = j := by omega
        have e2 : a + 1 + j - a = j + 1 := by omega
        rw [e1, e2]
        simp
      · rw [if_neg hin, if_neg (by omega)]

/-- Read of a key after a filter of a canonical table. -/
theorem tget_filter {α : Type} [DecidableEq α] (d : α) {t : Tbl α} (q : Nat → Bool) (n : Nat) (h : twf d t = true) :
    tget d (t.filter fun e => q e.1) n = if q n then tget d t n else d := by
  induction t with
  | nil => simp [tget]
  | cons a r ih =>
    obtain ⟨k, w⟩ := a
    have hc := (twf_cons d k w r).mp h
    have hlow : n < k → tget d (r.filter fun e => q e.1) n = d := fun hk =>
      tget_below d fun e he => Nat.lt_trans hk (hc.2.1 e (List.mem_of_mem_filter he))
    have heq : n = k → tget d (r.filter fun e => q e.1) n = d := fun hk =>
      tget_below d fun e he => hk ▸ hc.2.1 e (List.mem_of_mem_filter he)
    simp only [List.filter_cons]
    by_cases hq : q k
    · simp only [hq, if_true, tget]
      by_cases hk : n = k
      · subst hk
        simp [hq]
      · simp only [if_neg hk]
        by_cases hl : n < k
        · simp [hl]
        · simp only [if_neg hl]
          exact ih hc.2.2
    · simp only [Bool.not_eq_true] at hq
      simp only [hq, tget]
      by_cases hk : n = k
      · subst hk
        simp [hq, heq]
      · simp only [if_neg hk]
        by_cases hl : n < k
        · simp [hl, hlow]
        · simp only [if_neg hl]
          exact ih hc.2.2

/-- A run of bytes zeroed reads 0, and every byte outside it reads as before. -/
theorem State.byte_zeroBytes (h : Memory.wf s.mem = true) (a n b : Nat) :
    (s.zeroBytes a n).byte b = if a ≤ b ∧ b < a + n then 0 else s.byte b := by
  have e := tget_filter (0 : Byte) (fun x => !(decide (a ≤ x) && decide (x < a + n))) b h
  unfold State.byte State.zeroBytes
  refine e.trans ?_
  by_cases hb : a ≤ b ∧ b < a + n
  · simp [hb]
  · have hq : (!(decide (a ≤ b) && decide (b < a + n))) = true := by
      rw [← Bool.decide_and, decide_eq_false hb]
      rfl
    rw [if_neg hb, if_pos hq]

/-! Repeated steps -/

theorem repeatStep_none {β : Type} (f : β → Option β) (n : Nat) (x : β) (h : f x = none) :
    repeatStep f n x = x := by
  cases n <;> simp [repeatStep, h]

theorem repeatStep_some {β : Type} (f : β → Option β) (n : Nat) (x y : β) (h : f x = some y) :
    repeatStep f (n + 1) x = repeatStep f n y := by
  simp [repeatStep, h]

/-! Free values -/

theorem State.draw_fst : s.draw.1 = s.fresh := rfl
theorem State.draw_fresh : s.draw.2.fresh = s.fresh + 1 := rfl

end Sys2Proof.Machine
end

