-- ==== Sys2Proof/Laws/PerInstr.lean ====
section
/-! SUPPORT. A fact proved per command: the initiator that a well-formed command names is one of R26. -/
set_option Elab.async false

namespace Sys2Proof.Laws.Sender

/-- The initiator that a command names. -/
def sender : Instr → Option Nat
  | .devRst n _ => some n
  | .doorbell n _ _ => some n
  | .ringCfgEn n _ _ => some n
  | .ringCfgRst n _ _ => some n
  | .cqHeadWrite n _ _ => some n
  | .portCfgTrain n _ _ => some n
  | .portCfgDown n _ _ => some n
  | .portCfgModeWrite n _ _ => some n
  | .devIdWrite n _ _ => some n
  | .ethSegWrite n _ _ => some n
  | .ethRtoWrite n _ _ => some n
  | .registerWrite n _ _ _ => some n
  | .blkEvtClear n _ _ => some n
  | .blkEvtSet n _ _ => some n
  | .blkEvtEnWrite n _ _ => some n
  | .srst n _ _ => some n
  | .cntClr n _ _ => some n
  | .perfClr n _ _ => some n
  | .glbFenceRead n => some n
  | .loReadCapture n _ => some n
  | .hiWriteCommit n _ _ => some n
  | .fhClr n _ _ => some n
  | .splogClr n _ => some n
  | .spruePcfgWrite n _ _ _ => some n
  | .sprueTrecWrite n _ _ _ => some n
  | .govCfgWrite n _ _ => some n
  | .arraySetWrite n _ _ => some n
  | .progCmd n _ _ => some n
  | .challenge n => some n
  | .verifyKey n => some n
  | .verifyPwd n => some n
  | .close n => some n
  | .dbgHalt n => some n
  | .dbgStep n => some n
  | .dbgResume n => some n
  | .dbgArmBreakpoint n => some n
  | .seqDataWrite n _ => some n
  | .registerRead n _ _ => some n
  | _ => none

/-- A well-formed command comes from an initiator that exists. -/
def Statement (i : Instr) : Prop := i.wf = true → ∀ n, sender i = some n → n < 13

theorem sysRstNAssert : ∀ ns', Statement (.sysRstNAssert ns') := by
  intros; exact nofun
theorem sysRstNRelease : ∀ selW' selE', Statement (.sysRstNRelease selW' selE') := by
  intros; exact nofun
theorem pciePerstNAssert : ∀ ns' secondaryBus', Statement (.pciePerstNAssert ns' secondaryBus') := by
  intros; exact nofun
theorem pllLock : ∀ maskW' maskE', Statement (.pllLock maskW' maskE') := by
  intros; exact nofun
theorem assayFull : ∀ fails', Statement (.assayFull fails') := by
  intros; exact nofun
theorem stackTraining : ∀ failedStacks' failedChannels', Statement (.stackTraining failedStacks' failedChannels') := by
  intros; exact nofun
theorem partingLineTraining : ∀ failed', Statement (.partingLineTraining failed') := by
  intros; exact nofun
theorem bringupPhaseTimeout : ∀ detail', Statement (.bringupPhaseTimeout detail') := by
  intros; exact nofun
theorem devRst : ∀ init' v', Statement (.devRst init' v') := by
  intros; simp_all [Statement, sender, Instr.wf, WellFormed.isInit]
theorem authTick : ∀ die', Statement (.authTick die') := by
  intros; exact nofun
theorem authWordReceived : ∀ die' w', Statement (.authWordReceived die' w') := by
  intros; exact nofun
theorem pyroSample : ∀ die' samples', Statement (.pyroSample die' samples') := by
  intros; exact nofun
theorem governorFrame : ∀ stack' tDram' tBase', Statement (.governorFrame stack' tDram' tBase') := by
  intros; exact nofun
theorem assaySlice : ∀ relocking', Statement (.assaySlice relocking') := by
  intros; exact nofun
theorem assayResult : ∀ target' result', Statement (.assayResult target' result') := by
  intros; exact nofun
theorem pllUnlock : ∀ die' dom', Statement (.pllUnlock die' dom') := by
  intros; exact nofun
theorem plCycleReceived : ∀ die' c' crcOk', Statement (.plCycleReceived die' c' crcOk') := by
  intros; exact nofun
theorem plResend : ∀ die' cls', Statement (.plResend die' cls') := by
  intros; exact nofun
theorem doorbell : ∀ init' ring' v', Statement (.doorbell init' ring' v') := by
  intros; simp_all [Statement, sender, Instr.wf, WellFormed.isInit]
theorem ringCfgEn : ∀ init' ring' v', Statement (.ringCfgEn init' ring' v') := by
  intros; simp_all [Statement, sender, Instr.wf, WellFormed.isInit]
theorem ringCfgRst : ∀ init' ring' v', Statement (.ringCfgRst init' ring' v') := by
  intros; simp_all [Statement, sender, Instr.wf, WellFormed.isInit]
theorem cqHeadWrite : ∀ init' ring' v', Statement (.cqHeadWrite init' ring' v') := by
  intros; simp_all [Statement, sender, Instr.wf, WellFormed.isInit]
theorem irqTimer : ∀ ring', Statement (.irqTimer ring') := by
  intros; exact nofun
theorem hello : ∀ ring' msg', Statement (.hello ring' msg') := by
  intros; exact nofun
theorem nop : ∀ ring' msg', Statement (.nop ring' msg') := by
  intros; exact nofun
theorem fence : ∀ ring' msg', Statement (.fence ring' msg') := by
  intros; exact nofun
theorem regRead : ∀ ring' msg', Statement (.regRead ring' msg') := by
  intros; exact nofun
theorem regWrite : ∀ ring' msg', Statement (.regWrite ring' msg') := by
  intros; exact nofun
theorem partCfg : ∀ ring' msg', Statement (.partCfg ring' msg') := by
  intros; exact nofun
theorem partLoad : ∀ ring' msg', Statement (.partLoad ring' msg') := by
  intros; exact nofun
theorem partPause : ∀ ring' msg', Statement (.partPause ring' msg') := by
  intros; exact nofun
theorem partResume : ∀ ring' msg', Statement (.partResume ring' msg') := by
  intros; exact nofun
theorem partRelease : ∀ ring' msg', Statement (.partRelease ring' msg') := by
  intros; exact nofun
theorem drainComplete : ∀ p', Statement (.drainComplete p') := by
  intros; exact nofun
theorem partReset : ∀ ring' msg', Statement (.partReset ring' msg') := by
  intros; exact nofun
theorem memAlloc : ∀ ring' msg', Statement (.memAlloc ring' msg') := by
  intros; exact nofun
theorem memFree : ∀ ring' msg', Statement (.memFree ring' msg') := by
  intros; exact nofun
theorem granuleRelease : ∀ stack' g', Statement (.granuleRelease stack' g') := by
  intros; exact nofun
theorem scrubDone : ∀ stack' g', Statement (.scrubDone stack' g') := by
  intros; exact nofun
theorem memCopy : ∀ p' c', Statement (.memCopy p' c') := by
  intros; exact nofun
theorem teacherSeal : ∀ ring' msg', Statement (.teacherSeal ring' msg') := by
  intros; exact nofun
theorem teacherUnseal : ∀ ring' msg', Statement (.teacherUnseal ring' msg') := by
  intros; exact nofun
theorem commandReady : ∀ p' q', Statement (.commandReady p' q') := by
  intros; exact nofun
theorem quenchSaveDone : ∀ p' c', Statement (.quenchSaveDone p' c') := by
  intros; exact nofun
theorem quenchRestoreDone : ∀ p' c', Statement (.quenchRestoreDone p' c') := by
  intros; exact nofun
theorem commandComplete : ∀ p' c', Statement (.commandComplete p' c') := by
  intros; exact nofun
theorem dvfsApply : ∀ die', Statement (.dvfsApply die') := by
  intros; exact nofun
theorem mgGemm : ∀ p' c', Statement (.mgGemm p' c') := by
  intros; exact nofun
theorem mgAttnFwd : ∀ p' c', Statement (.mgAttnFwd p' c') := by
  intros; exact nofun
theorem mgAttnBwd : ∀ p' c', Statement (.mgAttnBwd p' c') := by
  intros; exact nofun
theorem mgKernel : ∀ p' c', Statement (.mgKernel p' c') := by
  intros; exact nofun
theorem mgVec : ∀ p' c', Statement (.mgVec p' c') := by
  intros; exact nofun
theorem cgGemm : ∀ p' c', Statement (.cgGemm p' c') := by
  intros; exact nofun
theorem cgLogit : ∀ p' c', Statement (.cgLogit p' c') := by
  intros; exact nofun
theorem cgAttn : ∀ p' c', Statement (.cgAttn p' c') := by
  intros; exact nofun
theorem cgVec : ∀ p' c', Statement (.cgVec p' c') := by
  intros; exact nofun
theorem cgKernel : ∀ p' c', Statement (.cgKernel p' c') := by
  intros; exact nofun
theorem logitUnitOffer : ∀ p' c' i' j', Statement (.logitUnitOffer p' c' i' j') := by
  intros; exact nofun
theorem sprueUnitAdmit : ∀ die' p' mb' b' j', Statement (.sprueUnitAdmit die' p' mb' b' j') := by
  intros; exact nofun
theorem spLoss : ∀ p' c', Statement (.spLoss p' c') := by
  intros; exact nofun
theorem spFeat : ∀ p' c', Statement (.spFeat p' c') := by
  intros; exact nofun
theorem fmQueueStart : ∀ stack' p', Statement (.fmQueueStart stack' p') := by
  intros; exact nofun
theorem fmUpdate : ∀ p' c', Statement (.fmUpdate p' c') := by
  intros; exact nofun
theorem flaskMarkRelease : ∀ p' c' stack' g', Statement (.flaskMarkRelease p' c' stack' g') := by
  intros; exact nofun
theorem fmAmax : ∀ p' c', Statement (.fmAmax p' c') := by
  intros; exact nofun
theorem fmGather : ∀ p' c', Statement (.fmGather p' c') := by
  intros; exact nofun
theorem fmEf : ∀ p' c', Statement (.fmEf p' c') := by
  intros; exact nofun
theorem fmAttn : ∀ p' c', Statement (.fmAttn p' c') := by
  intros; exact nofun
theorem fmGemv : ∀ p' c', Statement (.fmGemv p' c') := by
  intros; exact nofun
theorem stackTransaction : ∀ tag' addr' len' write' data' ecc', Statement (.stackTransaction tag' addr' len' write' data' ecc') := by
  intros; exact nofun
theorem unitFail : ∀ stack' unit' code', Statement (.unitFail stack' unit' code') := by
  intros; exact nofun
theorem coreFailure : ∀ cl' kind' idx', Statement (.coreFailure cl' kind' idx') := by
  intros; exact nofun
theorem tileFailure : ∀ tile' kind' info', Statement (.tileFailure tile' kind' info') := by
  intros; exact nofun
theorem sprueSramUe : ∀ die' seg', Statement (.sprueSramUe die' seg') := by
  intros; exact nofun
theorem ladleSramUe : ∀ die' buf', Statement (.ladleSramUe die' buf') := by
  intros; exact nofun
theorem ldReduce : ∀ p' c', Statement (.ldReduce p' c') := by
  intros; exact nofun
theorem ldGather : ∀ p' c', Statement (.ldGather p' c') := by
  intros; exact nofun
theorem epochSet : ∀ ring' msg', Statement (.epochSet ring' msg') := by
  intros; exact nofun
theorem memberLost : ∀ p' dev', Statement (.memberLost p' dev') := by
  intros; exact nofun
theorem probeDue : ∀ p' dev', Statement (.probeDue p' dev') := by
  intros; exact nofun
theorem stepCfg : ∀ p' c', Statement (.stepCfg p' c') := by
  intros; exact nofun
theorem stepOpen : ∀ p' c', Statement (.stepOpen p' c') := by
  intros; exact nofun
theorem stepSeal : ∀ p' c', Statement (.stepSeal p' c') := by
  intros; exact nofun
theorem sealEntry : ∀ p', Statement (.sealEntry p') := by
  intros; exact nofun
theorem sealComplete : ∀ p', Statement (.sealComplete p') := by
  intros; exact nofun
theorem sealTimeout : ∀ p', Statement (.sealTimeout p') := by
  intros; exact nofun
theorem tapRelease : ∀ ring' msg', Statement (.tapRelease ring' msg') := by
  intros; exact nofun
theorem ckptSave : ∀ p' c', Statement (.ckptSave p' c') := by
  intros; exact nofun
theorem ckptLoad : ∀ p' c', Statement (.ckptLoad p' c') := by
  intros; exact nofun
theorem svCfg : ∀ ring' msg', Statement (.svCfg ring' msg') := by
  intros; exact nofun
theorem svVariantLoad : ∀ p' c', Statement (.svVariantLoad p' c') := by
  intros; exact nofun
theorem svSubmit : ∀ ring' msg', Statement (.svSubmit ring' msg') := by
  intros; exact nofun
theorem svCancel : ∀ ring' msg', Statement (.svCancel ring' msg') := by
  intros; exact nofun
theorem svForget : ∀ ring' msg', Statement (.svForget ring' msg') := by
  intros; exact nofun
theorem stepBoundary : ∀ p', Statement (.stepBoundary p') := by
  intros; exact nofun
theorem servingWalk : ∀ p' req' logits' student', Statement (.servingWalk p' req' logits' student') := by
  intros; exact nofun
theorem kvCopyDone : ∀ p' req', Statement (.kvCopyDone p' req') := by
  intros; exact nofun
theorem kvRestoreDone : ∀ p' req', Statement (.kvRestoreDone p' req') := by
  intros; exact nofun
theorem partitionFault : ∀ p' typ' inst' code', Statement (.partitionFault p' typ' inst' code') := by
  intros; exact nofun
theorem teardownComplete : ∀ p', Statement (.teardownComplete p') := by
  intros; exact nofun
theorem alu : ∀ u', Statement (.alu u') := by
  intros; exact nofun
theorem fpu : ∀ u', Statement (.fpu u') := by
  intros; exact nofun
theorem cmp : ∀ u', Statement (.cmp u') := by
  intros; exact nofun
theorem plog : ∀ u', Statement (.plog u') := by
  intros; exact nofun
theorem sel : ∀ u', Statement (.sel u') := by
  intros; exact nofun
theorem addi : ∀ u', Statement (.addi u') := by
  intros; exact nofun
theorem andi : ∀ u', Statement (.andi u') := by
  intros; exact nofun
theorem ori : ∀ u', Statement (.ori u') := by
  intros; exact nofun
theorem xori : ∀ u', Statement (.xori u') := by
  intros; exact nofun
theorem shi : ∀ u', Statement (.shi u') := by
  intros; exact nofun
theorem lui : ∀ u', Statement (.lui u') := by
  intros; exact nofun
theorem cmpi : ∀ u', Statement (.cmpi u') := by
  intros; exact nofun
theorem ldw : ∀ u', Statement (.ldw u') := by
  intros; exact nofun
theorem stw : ∀ u', Statement (.stw u') := by
  intros; exact nofun
theorem br : ∀ u', Statement (.br u') := by
  intros; exact nofun
theorem brp : ∀ u', Statement (.brp u') := by
  intros; exact nofun
theorem jal : ∀ u', Statement (.jal u') := by
  intros; exact nofun
theorem jr : ∀ u', Statement (.jr u') := by
  intros; exact nofun
theorem dbnz : ∀ u', Statement (.dbnz u') := by
  intros; exact nofun
theorem arr : ∀ u', Statement (.arr u') := by
  intros; exact nofun
theorem arrOperandsRead : ∀ u' n', Statement (.arrOperandsRead u' n') := by
  intros; exact nofun
theorem drn : ∀ u', Statement (.drn u') := by
  intros; exact nofun
theorem drnRowsWritten : ∀ u' n', Statement (.drnRowsWritten u' n') := by
  intros; exact nofun
theorem budget : ∀ u' cycles', Statement (.budget u' cycles') := by
  intros; exact nofun
theorem rpush : ∀ u', Statement (.rpush u') := by
  intros; exact nofun
theorem runnerDescriptorStart : ∀ u', Statement (.runnerDescriptorStart u') := by
  intros; exact nofun
theorem runnerDescriptorDone : ∀ u', Statement (.runnerDescriptorDone u') := by
  intros; exact nofun
theorem wait : ∀ u', Statement (.wait u') := by
  intros; exact nofun
theorem sig : ∀ u', Statement (.sig u') := by
  intros; exact nofun
theorem poll : ∀ u', Statement (.poll u') := by
  intros; exact nofun
theorem bar : ∀ u', Statement (.bar u') := by
  intros; exact nofun
theorem barrierRelease : ∀ u', Statement (.barrierRelease u') := by
  intros; exact nofun
theorem sysNop : ∀ u', Statement (.sysNop u') := by
  intros; exact nofun
theorem halt : ∀ u', Statement (.halt u') := by
  intros; exact nofun
theorem trap : ∀ u', Statement (.trap u') := by
  intros; exact nofun
theorem brk : ∀ u', Statement (.brk u') := by
  intros; exact nofun
theorem rdsr : ∀ u', Statement (.rdsr u') := by
  intros; exact nofun
theorem waite : ∀ u', Statement (.waite u') := by
  intros; exact nofun
theorem sequencerHalt : ∀ u', Statement (.sequencerHalt u') := by
  intros; exact nofun
theorem add : ∀ u', Statement (.add u') := by
  intros; exact nofun
theorem sub : ∀ u', Statement (.sub u') := by
  intros; exact nofun
theorem mul : ∀ u', Statement (.mul u') := by
  intros; exact nofun
theorem min : ∀ u', Statement (.min u') := by
  intros; exact nofun
theorem max : ∀ u', Statement (.max u') := by
  intros; exact nofun
theorem fma : ∀ u', Statement (.fma u') := by
  intros; exact nofun
theorem fill : ∀ u', Statement (.fill u') := by
  intros; exact nofun
theorem cvt : ∀ u', Statement (.cvt u') := by
  intros; exact nofun
theorem neg : ∀ u', Statement (.neg u') := by
  intros; exact nofun
theorem abs : ∀ u', Statement (.abs u') := by
  intros; exact nofun
theorem exp2 : ∀ u', Statement (.exp2 u') := by
  intros; exact nofun
theorem log2 : ∀ u', Statement (.log2 u') := by
  intros; exact nofun
theorem recip : ∀ u', Statement (.recip u') := by
  intros; exact nofun
theorem rsqrt : ∀ u', Statement (.rsqrt u') := by
  intros; exact nofun
theorem cmplt : ∀ u', Statement (.cmplt u') := by
  intros; exact nofun
theorem cmple : ∀ u', Statement (.cmple u') := by
  intros; exact nofun
theorem cmpeq : ∀ u', Statement (.cmpeq u') := by
  intros; exact nofun
theorem cmpne : ∀ u', Statement (.cmpne u') := by
  intros; exact nofun
theorem select : ∀ u', Statement (.select u') := by
  intros; exact nofun
theorem mkcausal : ∀ u', Statement (.mkcausal u') := by
  intros; exact nofun
theorem rsum : ∀ u', Statement (.rsum u') := by
  intros; exact nofun
theorem rmax : ∀ u', Statement (.rmax u') := by
  intros; exact nofun
theorem rmin : ∀ u', Statement (.rmin u') := by
  intros; exact nofun
theorem rcnt : ∀ u', Statement (.rcnt u') := by
  intros; exact nofun
theorem rargmax : ∀ u', Statement (.rargmax u') := by
  intros; exact nofun
theorem rargmin : ∀ u', Statement (.rargmin u') := by
  intros; exact nofun
theorem rmaxsum : ∀ u', Statement (.rmaxsum u') := by
  intros; exact nofun
theorem csum : ∀ u', Statement (.csum u') := by
  intros; exact nofun
theorem cmax : ∀ u', Statement (.cmax u') := by
  intros; exact nofun
theorem fanadd : ∀ u', Statement (.fanadd u') := by
  intros; exact nofun
theorem scale : ∀ u', Statement (.scale u') := by
  intros; exact nofun
theorem compress : ∀ u', Statement (.compress u') := by
  intros; exact nofun
theorem expand : ∀ u', Statement (.expand u') := by
  intros; exact nofun
theorem permute : ∀ u', Statement (.permute u') := by
  intros; exact nofun
theorem gather : ∀ u', Statement (.gather u') := by
  intros; exact nofun
theorem softblk : ∀ u', Statement (.softblk u') := by
  intros; exact nofun
theorem attnNorm : ∀ u', Statement (.attnNorm u') := by
  intros; exact nofun
theorem tundishOpComplete : ∀ u', Statement (.tundishOpComplete u') := by
  intros; exact nofun
theorem portCfgTrain : ∀ init' port' v', Statement (.portCfgTrain init' port' v') := by
  intros; simp_all [Statement, sender, Instr.wf, WellFormed.isInit]
theorem portTrained : ∀ port', Statement (.portTrained port') := by
  intros; exact nofun
theorem portCfgDown : ∀ init' port' v', Statement (.portCfgDown init' port' v') := by
  intros; simp_all [Statement, sender, Instr.wf, WellFormed.isInit]
theorem portCfgModeWrite : ∀ init' port' v', Statement (.portCfgModeWrite init' port' v') := by
  intros; simp_all [Statement, sender, Instr.wf, WellFormed.isInit]
theorem devIdWrite : ∀ init' port' v', Statement (.devIdWrite init' port' v') := by
  intros; simp_all [Statement, sender, Instr.wf, WellFormed.isInit]
theorem ethSegWrite : ∀ init' port' v', Statement (.ethSegWrite init' port' v') := by
  intros; simp_all [Statement, sender, Instr.wf, WellFormed.isInit]
theorem ethRtoWrite : ∀ init' port' v', Statement (.ethRtoWrite init' port' v') := by
  intros; simp_all [Statement, sender, Instr.wf, WellFormed.isInit]
theorem flitNak : ∀ port' seq', Statement (.flitNak port' seq') := by
  intros; exact nofun
theorem flitReceiveFail : ∀ port' undecodable', Statement (.flitReceiveFail port' undecodable') := by
  intros; exact nofun
theorem retrainDone : ∀ port', Statement (.retrainDone port') := by
  intros; exact nofun
theorem laneFail : ∀ port' lane' cause', Statement (.laneFail port' lane' cause') := by
  intros; exact nofun
theorem laneControl : ∀ port' lane' op', Statement (.laneControl port' lane' op') := by
  intros; exact nofun
theorem ethFrame : ∀ port' half' frame', Statement (.ethFrame port' half' frame') := by
  intros; exact nofun
theorem ethResendTimeout : ∀ port' tag', Statement (.ethResendTimeout port' tag') := by
  intros; exact nofun
theorem linkHello : ∀ port' msg', Statement (.linkHello port' msg') := by
  intros; exact nofun
theorem linkHelloAck : ∀ port' msg', Statement (.linkHelloAck port' msg') := by
  intros; exact nofun
theorem ack : ∀ port' msg', Statement (.ack port' msg') := by
  intros; exact nofun
theorem probe : ∀ port' msg', Statement (.probe port' msg') := by
  intros; exact nofun
theorem probeAck : ∀ port' msg', Statement (.probeAck port' msg') := by
  intros; exact nofun
theorem noRoute : ∀ port' msg', Statement (.noRoute port' msg') := by
  intros; exact nofun
theorem ldPreUp : ∀ port' m', Statement (.ldPreUp port' m') := by
  intros; exact nofun
theorem ldPreDown : ∀ port' m', Statement (.ldPreDown port' m') := by
  intros; exact nofun
theorem ldSeg : ∀ port' m', Statement (.ldSeg port' m') := by
  intros; exact nofun
theorem ldGseg : ∀ port' m', Statement (.ldGseg port' m') := by
  intros; exact nofun
theorem ldSealUp : ∀ port' m', Statement (.ldSealUp port' m') := by
  intros; exact nofun
theorem ldSealDown : ∀ port' m', Statement (.ldSealDown port' m') := by
  intros; exact nofun
theorem storeWrite : ∀ port' msg', Statement (.storeWrite port' msg') := by
  intros; exact nofun
theorem storeRead : ∀ port' msg', Statement (.storeRead port' msg') := by
  intros; exact nofun
theorem storeData : ∀ port' msg', Statement (.storeData port' msg') := by
  intros; exact nofun
theorem storeAck : ∀ port' msg', Statement (.storeAck port' msg') := by
  intros; exact nofun
theorem registerWrite : ∀ init' off' size' v', Statement (.registerWrite init' off' size' v') := by
  intros; simp_all [Statement, sender, Instr.wf, WellFormed.isInit]
theorem blkEvtClear : ∀ init' page' v', Statement (.blkEvtClear init' page' v') := by
  intros; simp_all [Statement, sender, Instr.wf, WellFormed.isInit]
theorem blkEvtSet : ∀ init' page' v', Statement (.blkEvtSet init' page' v') := by
  intros; simp_all [Statement, sender, Instr.wf, WellFormed.isInit]
theorem blkEvtEnWrite : ∀ init' page' v', Statement (.blkEvtEnWrite init' page' v') := by
  intros; simp_all [Statement, sender, Instr.wf, WellFormed.isInit]
theorem srst : ∀ init' page' v', Statement (.srst init' page' v') := by
  intros; simp_all [Statement, sender, Instr.wf, WellFormed.isInit]
theorem cntClr : ∀ init' page' v', Statement (.cntClr init' page' v') := by
  intros; simp_all [Statement, sender, Instr.wf, WellFormed.isInit]
theorem perfClr : ∀ init' page' v', Statement (.perfClr init' page' v') := by
  intros; simp_all [Statement, sender, Instr.wf, WellFormed.isInit]
theorem glbFenceRead : ∀ init', Statement (.glbFenceRead init') := by
  intros; simp_all [Statement, sender, Instr.wf, WellFormed.isInit]
theorem loReadCapture : ∀ init' off', Statement (.loReadCapture init' off') := by
  intros; simp_all [Statement, sender, Instr.wf, WellFormed.isInit]
theorem hiWriteCommit : ∀ init' off' v', Statement (.hiWriteCommit init' off' v') := by
  intros; simp_all [Statement, sender, Instr.wf, WellFormed.isInit]
theorem fhClr : ∀ init' die' v', Statement (.fhClr init' die' v') := by
  intros; simp_all [Statement, sender, Instr.wf, WellFormed.isInit]
theorem splogClr : ∀ init' v', Statement (.splogClr init' v') := by
  intros; simp_all [Statement, sender, Instr.wf, WellFormed.isInit]
theorem spruePcfgWrite : ∀ init' die' q' v', Statement (.spruePcfgWrite init' die' q' v') := by
  intros; simp_all [Statement, sender, Instr.wf, WellFormed.isInit]
theorem sprueTrecWrite : ∀ init' die' q' v', Statement (.sprueTrecWrite init' die' q' v') := by
  intros; simp_all [Statement, sender, Instr.wf, WellFormed.isInit]
theorem govCfgWrite : ∀ init' stack' v', Statement (.govCfgWrite init' stack' v') := by
  intros; simp_all [Statement, sender, Instr.wf, WellFormed.isInit]
theorem arraySetWrite : ∀ init' die' v', Statement (.arraySetWrite init' die' v') := by
  intros; simp_all [Statement, sender, Instr.wf, WellFormed.isInit]
theorem progCmd : ∀ init' die' v', Statement (.progCmd init' die' v') := by
  intros; simp_all [Statement, sender, Instr.wf, WellFormed.isInit]
theorem otpBurnDone : ∀ die' verified', Statement (.otpBurnDone die' verified') := by
  intros; exact nofun
theorem challenge : ∀ init', Statement (.challenge init') := by
  intros; simp_all [Statement, sender, Instr.wf, WellFormed.isInit]
theorem verifyKey : ∀ init', Statement (.verifyKey init') := by
  intros; simp_all [Statement, sender, Instr.wf, WellFormed.isInit]
theorem verifyPwd : ∀ init', Statement (.verifyPwd init') := by
  intros; simp_all [Statement, sender, Instr.wf, WellFormed.isInit]
theorem close : ∀ init', Statement (.close init') := by
  intros; simp_all [Statement, sender, Instr.wf, WellFormed.isInit]
theorem dbgHalt : ∀ init', Statement (.dbgHalt init') := by
  intros; simp_all [Statement, sender, Instr.wf, WellFormed.isInit]
theorem dbgStep : ∀ init', Statement (.dbgStep init') := by
  intros; simp_all [Statement, sender, Instr.wf, WellFormed.isInit]
theorem dbgResume : ∀ init', Statement (.dbgResume init') := by
  intros; simp_all [Statement, sender, Instr.wf, WellFormed.isInit]
theorem dbgArmBreakpoint : ∀ init', Statement (.dbgArmBreakpoint init') := by
  intros; simp_all [Statement, sender, Instr.wf, WellFormed.isInit]
theorem seqDataWrite : ∀ init' v', Statement (.seqDataWrite init' v') := by
  intros; simp_all [Statement, sender, Instr.wf, WellFormed.isInit]
theorem samplePreload : ∀ die' pins' preload', Statement (.samplePreload die' pins' preload') := by
  intros; exact nofun
theorem idcode : ∀ die', Statement (.idcode die') := by
  intros; exact nofun
theorem regAccess : ∀ dr', Statement (.regAccess dr') := by
  intros; exact nofun
theorem powerUp : ∀ otpW' otpE', Statement (.powerUp otpW' otpE') := by
  intros; exact nofun
theorem registerRead : ∀ init' off' size', Statement (.registerRead init' off' size') := by
  intros; simp_all [Statement, sender, Instr.wf, WellFormed.isInit]
theorem arrPassComplete : ∀ u' n', Statement (.arrPassComplete u' n') := by
  intros; exact nofun
theorem fumaroleSlotBoundary : ∀ stack', Statement (.fumaroleSlotBoundary stack') := by
  intros; exact nofun
theorem flitAccepted : ∀ port' flit', Statement (.flitAccepted port' flit') := by
  intros; exact nofun
theorem laneSerWindowEnd : ∀ port', Statement (.laneSerWindowEnd port') := by
  intros; exact nofun
theorem unknownFabricOpcode : ∀ port' msg', Statement (.unknownFabricOpcode port' msg') := by
  intros; exact nofun
theorem storeTimeout : ∀ p' c', Statement (.storeTimeout p' c') := by
  intros; exact nofun
theorem extest : ∀ die', Statement (.extest die') := by
  intros; exact nofun
theorem clamp : ∀ die', Statement (.clamp die') := by
  intros; exact nofun
theorem highz : ∀ die', Statement (.highz die') := by
  intros; exact nofun
theorem extestPulse : ∀ die', Statement (.extestPulse die') := by
  intros; exact nofun
theorem extestTrain : ∀ die', Statement (.extestTrain die') := by
  intros; exact nofun
theorem bypass : ∀ die', Statement (.bypass die') := by
  intros; exact nofun
theorem pciePerstNRelease : Statement .pciePerstNRelease := nofun
theorem powerOff : Statement .powerOff := nofun
theorem trstNAssert : Statement .trstNAssert := nofun
theorem otpSense : Statement .otpSense := nofun
theorem authorityEstablished : Statement .authorityEstablished := nofun
theorem authVerdict : Statement .authVerdict := nofun
theorem nonceExpiry : Statement .nonceExpiry := nofun
theorem bootRead : Statement .bootRead := nofun

end Sys2Proof.Laws.Sender
end

