-- ==== Sys2Proof/Tests/Slice0.lean ====
section
/-! SUPPORT. Small tests: ill-formed commands are refused, commands do what the manual's examples say, and for every
statement with hypotheses a state and operands that meet them. -/
set_option Elab.async false
namespace Sys2Proof.Tests
open Machine

/-! ## Helpers -/

/-- Decides `Rising`. -/
def risingB {α : Type} [DecidableEq α] (d : Nat → α) (t : Tbl α) : Bool :=
  t.all (fun e => e.2 != d e.1) && decide (t.Pairwise fun a b => a.1 < b.1)

/-- Decides `State.Canon`. -/
def canonB (s : State) : Bool :=
  Memory.wf s.mem && twf .reset s.units && twf .empty s.parts && twf .reset s.rings && twf .reset s.taps &&
    twf 0 s.west.otp.words && twf 0 s.east.otp.words && risingB resetAt s.bus.regs && twf none s.bus.hiCap &&
    twf none s.bus.loHeld && twf 0 s.bus.readData && twf .reset s.stk.st && twf .free s.stk.gran &&
    twf .reset s.fabric.ports

theorem canon_of {s : State} (h : canonB s = true) : s.Canon := by
  simp only [canonB, Bool.and_eq_true] at h
  obtain ⟨⟨⟨⟨⟨⟨⟨⟨⟨⟨⟨⟨⟨h1, h2⟩, h3⟩, h4⟩, h5⟩, h6⟩, h7⟩, h8⟩, h9⟩, h10⟩, h11⟩, h12⟩, h13⟩, h14⟩ := h
  refine ⟨h1, h2, h3, h4, h5, h6, h7, ⟨?_, h9, h10, h11⟩, ⟨h12, h13⟩, h14⟩
  simp only [risingB, Bool.and_eq_true, List.all_eq_true, bne_iff_ne, decide_eq_true_eq] at h8
  exact ⟨fun e he => h8.1 e he, h8.2⟩

/-- The state that a command leaves. -/
def after (c : Instr) (s : State) : State :=
  match exec c s with
  | .next t => t
  | _ => s

/-- A device in READY whose host port works. -/
def ready : State :=
  { State.reset with
    dev := { Dev.reset with
      state := .ready, time := 1000, timeRun := true, phase := 8, sysRst := false, perst := false, hostRdy := true } }

/-- A command of an opcode, accepted on queue 0. -/
def cmdOf (cid opcode : Nat) (msg : List Byte) : Cmd :=
  { cid := cid, opcode := opcode, seq := cid, tag := 7, ver := 0x32, queue := 0, deps := [], deadline := 0, msg := msg, data := [],
    phase := .queued, start := 0, bound := none, quenchTime := 0, quenchAt := 0, wasQuenched := false, reason := 0, e4nan := false, units := [],
    images := [], out := none }

/-- A message of `n` bytes, from byte `pos` on, with the given (offset, width, value) fields in rising order; zero elsewhere. -/
def msgFrom (n : Nat) : Nat → List (Nat × Nat × Nat) → List Byte
  | pos, [] => List.replicate (n - pos) 0
  | pos, (o, w, v) :: r => List.replicate (o - pos) 0 ++ (leBytes w v ++ msgFrom n (o + w) r)
def msgOf (n : Nat) (fs : List (Nat × Nat × Nat)) : List Byte := msgFrom n 0 fs

/-- A tensor reference at offset `o`: address, rows, columns, format, packed. -/
def trefAt (o addr rows cols fmt : Nat) : List (Nat × Nat × Nat) :=
  [(o, 8, addr), (o + 8, 4, rows), (o + 12, 4, cols), (o + 20, 1, fmt)]

/-- A READY device whose partition 0, RUNNING, holds granules 0 to 2 of stack 0 and the commands `ks`. -/
def withCmds (ks : List Cmd) : State :=
  [0, 1, 2].foldl (fun s g => s.setOwner g 0) (ready.modPart 0 fun q => { q with st := .running, cmds := ks, nextCid := 9 })

/-! ## The block as a whole -/

/-- A device in READY with two commands waiting. -/
def waiting : State := ready.setPending [.authTick 0, .powerOff]
/-- The West array's word 192 reads 6. -/
def fused : State := ready.modDie 0 fun x => { x with otp := { x.otp with words := [(192, 6)] } }

theorem wit_step_runs_front : waiting.pending = .authTick 0 :: [.powerOff] := by decide
theorem wit_every_step_keeps_canonical_form :
    waiting.Canon ∧ (∃ t, step waiting = .next t) ∧ ready.Canon ∧ ∃ t, step ready = .next t :=
  ⟨canon_of (by decide +kernel), ⟨_, rfl⟩, canon_of (by decide +kernel), ⟨_, rfl⟩⟩
theorem wit_queue_time_and_free_values :
    ready.pending = [] ∧ (∃ t, step ready = .next t) ∧ ∃ t, exec (.authTick 0) waiting = .next t :=
  ⟨by decide, ⟨_, rfl⟩, ⟨_, rfl⟩⟩
theorem wit_fuses_never_return_to_zero :
    (fused.setPending [.authTick 0]).Canon ∧ (∃ t, step (fused.setPending [.authTick 0]) = .next t) ∧
      (tget 0 (fused.die 0).otp.words 192).getLsbD 1 = true :=
  ⟨canon_of (by decide +kernel), ⟨_, rfl⟩, by decide⟩
theorem wit_engines_never_reach_debug_or_fuses :
    Stated.reachesDebug (.authTick 0) = false ∧ ∃ t, exec (.authTick 0) ready = .next t := ⟨rfl, ⟨_, rfl⟩⟩

/-! ## Sequencers -/

/-- A state whose unit `u` runs the words `ws` from the first. -/
def prog (u : Nat) (ws : List Word) (f : SeqUnit → SeqUnit) : State :=
  ready.setUnit u (f { SeqUnit.reset with run := .running, imem := ws })

def issuesB (s : State) (u : Nat) (w : Word) : Bool :=
  canonB s && (s.mayIssue u && (decide ((s.unit u).imem[(s.unit u).seq.pc.toNat]? = some w) &&
    (s.unit u).regsBusy w.toNat == false))

theorem issues_of {s : State} {u : Nat} {w : Word} (h : issuesB s u w = true) : Stated.Issues s u w := by
  simp only [issuesB, Bool.and_eq_true, decide_eq_true_eq, beq_iff_eq] at h
  exact ⟨canon_of h.1, h.2.1, h.2.2.1, h.2.2.2⟩

/-- Decides `GoesOn`. -/
def goesB (x : SeqUnit) (q : Seqr) : Bool :=
  decide ((x.ctx.budget = 0 ∨ q.cycle ≤ x.ctx.budget) ∧ q.pc.toNat < x.imem.length)

theorem goes_iff (x : SeqUnit) (q : Seqr) : goesB x q = true ↔ Stated.GoesOn x q := by simp [goesB, Stated.GoesOn]

/-- Word `w` issues on units 0 (a cluster) and 256 (a tile) from a state of the first kind, and the program goes on. -/
def goes (f : SeqUnit → SeqUnit) (w : Word) : Bool :=
  [0, 256].all fun u => issuesB (prog u [w, w] f) u w && goesB ((prog u [w, w] f).unit u)
    (Stated.past ((prog u [w, w] f).unit u).seq 2)

/-- S1 = 7, S2 = -3, S3 = 1.5, P1 = 1. -/
def someRegs (x : SeqUnit) : SeqUnit :=
  { x with seq := (((x.seq.setS 1 7).setS 2 0xFFFFFFFD).setS 3 0x3FC00000).setP 1 true }

theorem wit_scalar_results :
    ((List.range 16).all fun f => goes someRegs (Stated.rWord 1 4 2 (if f = 15 then 0 else 1) (BitVec.ofNat 11 f))) = true ∧
    ((List.range 9).all fun f => goes someRegs (Stated.rWord 2 4 3 (if f ≤ 4 then 3 else 0) (BitVec.ofNat 11 f))) = true ∧
    ([0x8, 0x9, 0xA, 0xB].all fun o => goes someRegs (Stated.iWord (BitVec.ofNat 6 o) 4 1 0x8001)) = true ∧
    ((List.range 3).all fun k => goes someRegs (Stated.iWord 0xC 4 2 (0#9 ++ BitVec.ofNat 2 k ++ 31#5))) = true ∧
    goes someRegs (Stated.iWord 0xD 4 0 0x8001) = true := by decide +kernel

theorem wit_compares_and_selects :
    ([0x0, 0x1, 0x2, 0x3, 0x4, 0x5, 0x8, 0x9, 0xA, 0xB].all fun f =>
      goes someRegs (Stated.rWord 3 2 1 2 (BitVec.ofNat 11 f)) && (Stated.cmp f 7 0xFFFFFFFD).isSome) = true ∧
    ((List.range 4).all fun k => goes someRegs (Stated.iWord 0xE (BitVec.ofNat 2 k ++ 2#3) 1 0x8001)) = true ∧
    ((List.range 5).all fun f => goes someRegs (Stated.rWord 4 2 0 1 (BitVec.ofNat 11 f)) &&
      (Stated.plog f true false).isSome) = true ∧
    ((List.range 8).all fun f => goes someRegs (Stated.rWord 5 4 1 2 (BitVec.ofNat 11 f))) = true := by decide +kernel

/-- S1 holds the last word's address, tokens 3 and 4 hold 0 and 5. -/
def someTokens (x : SeqUnit) : SeqUnit := { x.setToken 4 5 with seq := x.seq.setS 1 0xFFFF8 }

theorem wit_loads_credits_and_system :
    goes someTokens (Stated.iWord 0x10 2 1 4) = true ∧ goes someTokens (Stated.iWord 0x11 1 1 0xFFFC) = true ∧
    (∀ u ∈ [0, 256], let x := (prog u [0] someTokens).unit u
      (x.seq.S 1 + (4#16).signExtend 32).toNat = 0xFFFFC ∧ x.token 3 = 0 ∧ x.token 4 = 5) ∧
    ([3, 4].all fun n => ([0x2C#6 ++ 0#22 ++ BitVec.ofNat 4 n, 0x2D#6 ++ 0#22 ++ BitVec.ofNat 4 n,
      0x2E#6 ++ 0#7 ++ 2#3 ++ 0#12 ++ BitVec.ofNat 4 n] : List Word).all (goes someTokens)) = true ∧
    goes someRegs (Stated.yWord 0 0 0 0) = true ∧ goes someRegs (Stated.yWord 3 0 0 0) = true ∧
    ((List.range 7).all fun n => goes someRegs (Stated.yWord 4 5 0 (BitVec.ofNat 10 n)) &&
      (Stated.sysReg 0 ((prog 0 [] id).unit 0) n).isSome) = true ∧
    goes someRegs (Stated.yWord 5 0 0 15) = true ∧
    (∀ x ∈ [(prog 0 [] id).unit 0], x.arrs = [] ∧ x.tnds = [] ∧ x.queue = [] ∧ x.started = []) ∧
    (let s := prog 0 [0x2F#6 ++ 0#26] fun x => { x with ctx := { x.ctx with budget := 5 }, seq := { x.seq with cycle := 5 } }
     issuesB s 0 (0x2F#6 ++ 0#26) = true ∧ (s.unit 0).ctx.budget < (Stated.past (s.unit 0).seq 1).cycle) ∧
    goes someRegs (0x2F#6 ++ 0#26) = true := by decide +kernel

theorem wit_branches_go_where_the_table_says :
    goes someRegs (0x14#6 ++ 0x3FFFFFF#26) = true ∧
    ([0x15#6 ++ 1#3 ++ 0#1 ++ 0#6 ++ 0#16, 0x15#6 ++ 1#3 ++ 1#1 ++ 0#6 ++ 0#16] : List Word).all (goes someRegs) = true ∧
    goes someRegs (Stated.iWord 0x16 4 0 0) = true ∧ goes someRegs (Stated.iWord 0x17 0 0 0) = true ∧
    goes someRegs (Stated.iWord 0x18 0 1 0) = true ∧ goes someRegs (Stated.iWord 0x18 0 0 0) = true ∧
    ([1, 0].all fun pc => goesB ((prog 0 [0, 0] someRegs).unit 0)
      { Stated.past ((prog 0 [0, 0] someRegs).unit 0).seq 2 with pc := pc }) = true := by decide +kernel

/-- Partition 0 RUNNING, with command 1 on unit 0. -/
def gridState (s : State) : State :=
  s.modPart 0 fun q => { q with st := .running, cmds := [{ cmdOf 1 0x200 [] with phase := .running, units := [0] }] }

/-- Unit 0 of a command's grid, its program the words `ws`. -/
def gridProg (ws : List Word) (f : SeqUnit → SeqUnit) : State :=
  gridState (prog 0 ws fun x => f { x with ctx := { x.ctx with part := 0, cid := 1 } })

def queued (x : SeqUnit) : SeqUnit := { x with queue := [[0]] }

/-- Unit 0, its work done, holds the exception TRAP 3 of word 1. -/
def excepted (x : SeqUnit) : SeqUnit := { x with run := .excepted, exc := some (7, 3, 1) }

theorem wit_programs_stop :
    (let w := Stated.yWord 1 0 0 0
     issuesB (gridProg [w] id) 0 w = true ∧ ((gridProg [w] id).unit 0).drained = true ∧
     (gridProg [w] id).gridOf 0 = [0] ∧
     issuesB (gridProg [w] queued) 0 w = true ∧ ((gridProg [w] queued).unit 0).drained = false) ∧
    goes someRegs (Stated.yWord 2 0 0 0x3FF) = true ∧
    ([0, 0x18800000, 0xC0600000, 0x90000000, 0xFFFFFFFF].all fun w => goes someRegs w && decide (
      Stated.reservedOp (w.extractLsb' 26 6).toNat = true ∨
      ((w.extractLsb' 26 6).toNat = 0x30 ∧ 5 < (w.extractLsb' 20 6).toNat) ∨
      ((w.extractLsb' 26 6).toNat = 0x24 ∧ topOk (w.extractLsb' 18 8).toNat = false))) = true ∧
    (gridProg [0] excepted).Canon ∧
    (let s := gridProg [0] excepted
     let x := s.unit 0
     x.ctx.part < 8 ∧ x.exc = some (7, 3, 1) ∧ x.run = .excepted ∧ x.arrs = [] ∧ x.tnds = [] ∧
      x.started = [] ∧ bit (s.pg .mould 0 0x28) 31 = false ∧ (s.part 0).st.faultable = true) := by
  refine ⟨by decide +kernel, by decide +kernel, by decide +kernel, canon_of (by decide +kernel), by decide +kernel⟩

/-- Unit 0 runs the device's own program and is asked to halt. -/
def ownHalt (x : SeqUnit) : SeqUnit := { x with run := .idle, haltReq := true }

/-- Budget 5; a barrier with a halt request; a breakpoint at PC; a barrier of the whole grid. -/
def budgeted (x : SeqUnit) : SeqUnit := { x with ctx := { x.ctx with budget := 5 } }
def barHalt (x : SeqUnit) : SeqUnit := { x with run := .barrier, haltReq := true, seq := { x.seq with bars := 1 } }
def atBreak (x : SeqUnit) : SeqUnit := { x with brk := some 0 }
def barred (x : SeqUnit) : SeqUnit := { x with run := .barrier, seq := { x.seq with bars := 1 } }

theorem wit_budget_halt_and_barrier :
    (∀ f ∈ [budgeted, barHalt, atBreak, barred], canonB (gridProg [0, 0] f) = true) ∧
    (gridProg [] ownHalt).Canon ∧
    (let s := gridProg [] ownHalt
     (s.unit 0).run = .idle ∧ (s.unit 0).haltReq = true ∧ s.ownProgram 0 = true) ∧
    (let s := gridProg [0, 0] budgeted
     (s.unit 0).run = .running ∧ s.live 0 = true ∧ (s.unit 0).ctx.budget = 5) ∧
    (let x := (gridProg [0, 0] barHalt).unit 0
     x.run = .barrier ∧ x.arrs = [] ∧ x.tnds = [] ∧ x.haltReq = true) ∧
    (let x := (gridProg [0, 0] atBreak).unit 0
     x.run = .running ∧ x.arrs = [] ∧ x.tnds = [] ∧ x.brk = some x.seq.pc.toNat) ∧
    (let s := gridProg [0, 0] barred
     (s.unit 0).run = .barrier ∧ s.gridOf 0 = [0] ∧ (s.unit 0).queue = [] ∧ (s.unit 0).started = [] ∧
     goesB (s.unit 0) { (s.unit 0).seq with pc := (s.unit 0).seq.pc + 1 } = true) := by
  refine ⟨by decide +kernel, canon_of (by decide +kernel), by decide +kernel⟩

/-- An ARR group in S1 to S6 (weights at 0, activations at 0x1000, one row of bank 0) and a DRN group in S10 to S12 (out at
0x2000, the same row), mask core 0 in S20. -/
def arrRegs (x : SeqUnit) : SeqUnit :=
  { x with seq := ((((((x.seq.setS 2 0x1000).setS 3 1).setS 4 0x3000).setS 10 0x2000).setS 11 1).setS 20 1) }

/-- Row 0 of core 0 holds a sum. -/
def rowSet (x : SeqUnit) : SeqUnit :=
  { arrRegs x with
    seq := { (arrRegs x).seq with rowOk := [rowKey 0 0 0] }
    rows := [(rowKey 0 0 0, { sums := List.replicate 64 5, krun := 0 })] }

/-- The ARR and DRN words of unit `u`, ARR with the given ACC and DST. -/
def arrW (u : Nat) (acc : BitVec 2) (dst : BitVec 1) : Word :=
  Stated.arrWord acc dst (if isTile u then 1 else 0) (if isTile u then 1 else 0) 0 1 1 3 (if isTile u then 0 else 20)
def drnW (u : Nat) : Word := Stated.drnWord 0 1 10 0 0 (if isTile u then 0 else 20)

def arrIssues (u : Nat) (acc : BitVec 2) (dst : BitVec 1) (f : SeqUnit → SeqUnit) : Bool :=
  let w := arrW u acc dst
  let s := prog u [w, w] f
  let x := s.unit u
  let m := Stated.mask u x.seq 20
  issuesB s u w && goesB x (Stated.past x.seq 1) && m != 0 && !x.arrFull (maskCores (isTile u) m) &&
    arrForm (isTile u) w.toNat && (arrBad (isTile u) w.toNat (Stated.grp x.seq 1 6) == none) && !bit m 31 &&
    (acc != 1 || x.unset (maskCores (isTile u) m) 0 [0] == none)

def drnIssues (u : Nat) : Bool :=
  let w := drnW u
  let s := prog u [w, w] rowSet
  let x := s.unit u
  let m := Stated.mask u x.seq 20
  issuesB s u w && !x.arrFull (maskCores (isTile u) m) && (drnBad (isTile u) w.toNat (Stated.grp x.seq 10 3) == none) &&
    (x.unset (maskCores (isTile u) m) 0 [0] == none)

/-- An issued ARR, its operands read or not, and an issued DRN, on core 0. -/
def arrOp (u : Nat) (read : Bool) : ArrOp := ⟨false, arrW u 0 0, [0, 0x1000, 1, 0x3000, 0, 0], 1, read, []⟩
def drnOp (u : Nat) : ArrOp := ⟨true, drnW u, [0x2000, 1, 0], 1, false, []⟩
def heldBy (u : Nat) (a : ArrOp) : State := prog u [0] fun x => { rowSet x with arrs := [a] }

/-- A DRN of class 0 with f32 by unit 0 of a command; one with SIG, token 3, held. -/
def badDrn : State := gridProg [Stated.drnWord 0 0 10 0 0 20] rowSet
def sigOp (u : Nat) : ArrOp := { drnOp u with word := Stated.drnWord 0 1 10 1 3 (if isTile u then 0 else 20) }

theorem wit_a_barred_drain :
    issuesB badDrn 0 (Stated.drnWord 0 0 10 0 0 20) = true ∧
    (let x := badDrn.unit 0
     let g := Stated.grp x.seq 10 3
     drnBad false (Stated.drnWord 0 0 10 0 0 20).toNat g = none ∧
      x.unset (maskCores false (Stated.mask 0 x.seq 20)) (dBank g) (dRows g) = none ∧
      0 ∈ (badDrn.setUnit 0 { x with seq := Stated.past x.seq 1 }).gridOf 0 ∧
      (badDrn.cmd? x.ctx.part x.ctx.cid).isSome = true) ∧
    (canonB (heldBy 0 (sigOp 0)) = true ∧ aSig (sigOp 0).word.toNat = true ∧ aTok (sigOp 0).word.toNat = 3 ∧
      ((heldBy 0 (sigOp 0)).unit 0).token 3 < 0xFFFF) := by decide +kernel

theorem wit_arrays_and_drains :
    ([0, 256].all fun u => arrIssues u 0 0 arrRegs && arrIssues u 1 0 rowSet && drnIssues u) = true ∧
    arrIssues 0 0 1 arrRegs = true ∧
    (let w := Stated.arrWord 0 0 0 0 0 1 1 3 21
     let s := prog 0 [w, w] arrRegs
     issuesB s 0 w = true ∧ Stated.mask 0 (s.unit 0).seq 21 = 0 ∧ arrForm false w.toNat = true ∧
      arrBad false w.toNat (Stated.grp (s.unit 0).seq 1 6) = none) ∧
    ([0, 256].all fun u => [arrOp u false, arrOp u true, drnOp u].all fun a =>
      canonB (heldBy u a) && (((heldBy u a).unit u).arrs[0]? == some a) && (heldBy u a).live (dieOfUnit u) &&
      decide (((heldBy u a).die (dieOfUnit u)).therm.st < 3) && (((heldBy u a).unit u).before 0 == []) &&
      twf ⟨[], 0⟩ ((heldBy u a).unit u).rows && twf [] ((heldBy u a).unit u).links) = true ∧
    (aSig (arrW 0 0 0).toNat = true ∧ aTok (arrW 0 0 0).toNat = 3 ∧ aSig (drnW 0).toNat = false ∧
      aAcc (arrW 0 0 0).toNat = 0 ∧ aDst (arrW 0 0 0).toNat = false) := by decide +kernel

/-- A load of 64 bytes at address 0, of a granule that partition 0 owns, to core 0, waiting for token 3 and signalling
token 4; the same with reserved bits set. -/
def loadWords : List Word := [0, 0x4000000, 1, 0, 0x100001, 0, 0, 0x343]
def badWords : List Word := [0, 0x4000000, 1, 0, 0x100001, 0, 0, 0xFFFFFFFF]

/-- Unit `u` of a command with these descriptors queued and started, token 3 above 0. -/
def runnerState (u : Nat) (qs : List (List Word)) (rs : List RunDesc) : State :=
  (gridState (prog u [0] fun x => { x.setToken 3 2 with
    ctx := { x.ctx with part := 0, cid := 1 }, queue := qs, started := rs })).setOwner 0 0

theorem wit_runner_descriptors :
    goes someRegs (0x28#6 ++ 0#11 ++ 24#5 ++ 0#10) = true ∧
    ([0, 256].all fun u => ((prog u [0] someRegs).unit u).queue.length == 0) = true ∧
    ([0, 256].all fun u =>
      let s := runnerState u [loadWords] []
      let x := s.unit u
      x.runnerOn && s.live (dieOfUnit u) && (x.queue == [loadWords]) && rdOk (isTile u) (rdNat loadWords) &&
        rdWaitEn (rdNat loadWords) && decide (0 < x.token (rdWaitTok (rdNat loadWords))) &&
        (s.unitAccess 0 (isTile u) [(u, rdRanges (rdNat loadWords))]).isNone && !s.unitSaving u && !rdOk (isTile u) (rdNat badWords)) = true ∧
    ([0, 256].all fun u =>
      let s := runnerState u [] [⟨loadWords, false⟩]
      (s.unit u).runnerOn && s.live (dieOfUnit u) && ((s.unit u).started == [⟨loadWords, false⟩]) &&
        ((s.unit u).queue == []) && (rdScales (rdNat loadWords) == false)) = true ∧
    (let s := runnerState 0 [loadWords, loadWords] []
     canonB s && !(s.unit 0).scaleMade) = true := by decide +kernel

/-! ## The Tundish -/

/-- A group of a Tundish operation in S1 to S7: A at 0, B at 0x100, Y at 0x200 and AUX at 0x300 of core 0's memory, one
row of two columns, formats and MOD as the operation asks. -/
def tndRegs (t : Nat) (x : SeqUnit) : SeqUnit :=
  let fB := if t = 0x1D ∨ t = 0x48 then 0x0F else 0
  let fY := if (0x18 ≤ t ∧ t ≤ 0x1B) ∨ t = 0x1D then 0x0E else if 0x23 ≤ t ∧ t ≤ 0x25 then 0x0F
    else if t = 0x31 ∨ t = 0x48 then 3 else 0
  let fX := if t = 0x1C ∨ t = 0x38 ∨ t = 0x39 then 0x0E else if t = 0x40 ∨ t = 0x41 then 0x0F else 0
  let ctl := if t = 0x38 ∨ t = 0x39 then 8 else if t = 0x30 then 0x200 else 0
  let w (f off : Nat) : Word := BitVec.ofNat 32 (f * 2 ^ 26 + off)
  { x with seq := ((((((x.seq.setS 1 (w 0 0)).setS 2 (w fB 0x100)).setS 3 (w fY 0x200)).setS 4 0x20001).setS 6
      (BitVec.ofNat 32 ctl)).setS 7 (w fX 0x300)).setS 8 (if t = 0x40 ∨ t = 0x41 then 2 else 0x3F800000) }

def tndCodes : List Nat := [0x01, 0x02, 0x03, 0x04, 0x05, 0x06, 0x07, 0x08, 0x09, 0x0A, 0x10, 0x11, 0x12, 0x13, 0x18, 0x19,
  0x1A, 0x1B, 0x1C, 0x1D, 0x20, 0x21, 0x22, 0x23, 0x24, 0x25, 0x26, 0x28, 0x29, 0x30, 0x31, 0x38, 0x39, 0x40, 0x41, 0x48, 0x49]

/-- The operation of `tndRegs` issues on unit `u`. -/
def tndGoes (u t : Nat) : Bool :=
  let w := Stated.tndWord (BitVec.ofNat 8 t) 1 9 1 8
  let s := prog u [w, w] (tndRegs t)
  let x := s.unit u
  let g := Stated.grp x.seq 1 7
  issuesB s u w && goesB x (Stated.past x.seq 1) && (x.tnds == []) &&
    (tndBad (isTile u) (tndOp t g (x.seq.S 8)) (tndPlace (isTile u) g) g == none)

theorem wit_tundish_operations :
    (tndCodes.all fun t => tndGoes 0 t) = true ∧
    (let t : TndOp := ⟨1, 1, 9, [0, 0, 0, 0x20002, 0, 0, 0], 0⟩
     let s := prog 0 [0] (fun x => { x with tnds := [t] })
     (s.unit 0).tnds = [t] ∧ s.live (dieOfUnit 0) = true) := by
  decide +kernel

/-- A sum of two rows. -/
def addOp : TOp := { tndOp 1 [0, 0, 0, 0x20002] 0 with top := 1 }

theorem wit_tundish_row_results :
    (addOp.masked = false ∧ (Stated.ew addOp.top 0 0 0).isSome = true) ∧
    ([0x21, 0x22, 0x23, 0x24, 0x25].all fun t => (tndOp t [0, 0, 0, 0x20002] 0).top == t &&
      (tndOp t [0, 0, 0, 0x20002] 0).rows == 2) = true := by decide +kernel

/-! ## Rings and their messages -/

/-- A device whose ring r is enabled with 64 slots each way, its version settled. -/
def ringOn (r : Nat) : State :=
  (((ready.setRingRg r 0x10 0x10606).setRingRg r 0x08 0x10000).setRing r { Ring.reset with neg := true, ver := 0x32, feat := 0x3F })

/-- A host message of `n` slots: VERSION, PART, OPCODE, SEQ, TAG and what follows byte 16. -/
def hostMsg (ver part op seq n : Nat) (body : List Byte) : List Byte :=
  let h := leBytes 1 ver ++ leBytes 1 part ++ leBytes 2 op ++ leBytes 2 n ++ [0, 0] ++ leBytes 4 seq ++ leBytes 4 7
  let m := slice (h ++ body) 0 (64 * n)
  lay m 6 (leBytes 2 (crc16 (slice m 0 16)))

/-- Decides `RingFree` of a ring whose vector is masked. -/
def freeB (s : State) (r : Nat) : Bool :=
  (s.dev.state == .ready && s.drives 0 && bit (s.ringRg r 0x10) 16) && ((s.ring r).waitq.isEmpty && (s.ring r).fences.isEmpty) &&
    (decide (1 ≤ s.cqRoom r) && bit (s.pg .host 0 (0x80C + 16 * r)) 0)

theorem free_ring (s : State) (r : Nat) (h : freeB s r = true) : Stated.RingFree s r := by
  simp only [freeB, Bool.and_eq_true, beq_iff_eq, List.isEmpty_iff, decide_eq_true_eq] at h
  exact ⟨h.1.1.1.1, h.1.1.1.2, h.1.1.2, h.1.2.1, h.1.2.2, h.2.1, .inr (.inr h.2.2)⟩

/-- A message arrives on ring r of a state, and nothing refuses it. -/
def sentB (s : State) (r op : Nat) (m : List Byte) : Bool :=
  canonB s && freeB s r &&
  decide (r < 9 ∧ s.served r = true ∧ s.sqUsed r = 0) &&
  (List.range 9).all (fun q => q == r || !s.served q || s.sqUsed q == 0) &&
  decide (fld m 2 2 = op ∧ (0 < fld m 4 2 ∧ fld m 4 2 < 4096) ∧ m.length = 64 * fld m 4 2 ∧
    s.ringRg r 0x18 % s.sqSize r + fld m 4 2 ≤ s.sqSize r ∧ s.ringBase r 0x00 + 64 * s.sqSize r ≤ 2 ^ 47 ∧
    crc16 (slice m 0 16) = fld m 6 2)

theorem comes_of {s : State} {r op : Nat} {m : List Byte} (h : sentB s r op m = true) : Stated.Comes s r op m := by
  simp only [sentB, Bool.and_eq_true, decide_eq_true_eq] at h
  obtain ⟨⟨⟨⟨hc, hr⟩, h1, h2, h3⟩, h4⟩, h5, h6, h7, h8, h9, h10⟩ := h
  refine ⟨free_ring s r hr, canon_of hc, h1, h2, h3, fun q hq hn => ?_, h5, h6, h7, h8, h9, h10⟩
  have := List.all_eq_true.mp h4 q (List.mem_range.mpr hq)
  simp only [Bool.or_eq_true, beq_iff_eq, Bool.not_eq_true'] at this
  tauto

theorem arrives_of {s : State} {r op : Nat} {m : List Byte} (h : sentB s r op m = true)
    (hs : (s.ring r).expSeq = fld m 8 4 := by decide +kernel) : Stated.Arrives s r op m := ⟨comes_of h, hs⟩

theorem sent_of {s : State} {r op : Nat} {m : List Byte} (h : sentB s r op m = true) (hj : s.judge r m = none)
    (hs : (s.ring r).expSeq = fld m 8 4 := by decide +kernel) : Stated.Sent s r op m := ⟨arrives_of h hs, hj⟩

/-- Ring 8 enabled, one NOP laid in its first slot. -/
def nopLaid : State := (ringOn 8).setHostBytes 0 (hostMsg 0x32 0xFF 3 5 1 [])
/-- An entry that waits for a slot of ring 8. -/
def full8 : State := ((ringOn 8).setRingRg 8 0x20 64).modRing 8 fun g => { g with
  waitq := [{ bytes := List.replicate 64 0, ans := none, urgent := false }] }
/-- Ring 8 with an unanswered message, its IRQ_MOD count and timer set. -/
def open8 : State := (((ringOn 8).setRingRg 8 0x24 0x105).setRingRg 8 0x20 1).modRing 8 fun g => { g with opens := [(2, 9)], irqCnt := 1 }

theorem reaches_of {s : State} {init : Nat} (h : (canonB s && decide (s.dev.state = .ready ∧ s.bus.lost = [] ∧
    ((init < 2 ∧ s.hostPort = true) ∨ 10 ≤ init))) = true) : Stated.Reaches s init := by
  simp only [Bool.and_eq_true, decide_eq_true_eq] at h
  exact ⟨canon_of h.1, h.2⟩

theorem wit_rings_are_controlled :
    Stated.Reaches ready 0 ∧ Stated.Reaches nopLaid 0 ∧ Stated.Reaches full8 0 ∧ Stated.Reaches open8 0 ∧
    Stated.OthersQuiet ready 8 ∧ Stated.OthersQuiet nopLaid 8 ∧ Stated.OthersQuiet full8 8 ∧ Stated.OthersQuiet open8 8 ∧
    ready.served 8 = false ∧
    (nopLaid.served 8 = true ∧ (let m := nopLaid.hostBytes (nopLaid.ringBase 8 0 + 64 * (nopLaid.ringRg 8 0x18 % nopLaid.sqSize 8)) 64
      crc16 (slice m 0 16) = fld m 6 2 ∧ fld m 4 2 = 1 ∧ fld m 2 2 = 3) ∧
      nopLaid.ringBase 8 0x00 + 64 * nopLaid.sqSize 8 ≤ 2 ^ 47) ∧
    (ready.ringEn 8 = false ∧ ready.ringRg 8 0x14 = 0 ∧ ready.ringRg 8 0x1C = 0 ∧ ready.ringBase 8 0 % (64 * 2 ^ 16) = 0) ∧
    (open8.ringEn 8 = true ∧ open8.ringRg 8 0x10 % 32 = 6 ∧ open8.ringRg 8 0x10 / 256 % 32 = 6 ∧ (open8.ring 8).opens ≠ [] ∧
      open8.sqUsed 8 = 0 ∧ open8.ringRg 8 0x10 = 6 + 256 * 6 + 65536) ∧
    (full8.sqUsed 8 = 0 ∧ full8.drives 0 = true ∧ full8.ringEn 8 = true ∧ (full8.ring 8).fences = [] ∧
      1 ≤ full8.cqSize 8 - (full8.ringRg 8 0x20 + 2 ^ 32 - 1) % 2 ^ 32) ∧
    (bits (open8.ringRg 8 0x24) 7 0 ≠ 0 ∧ bits (open8.ringRg 8 0x24) 23 8 ≠ 0 ∧ (open8.ring 8).irqCnt ≠ 0 ∧ open8.ringRg 8 0x1C ≠ open8.ringRg 8 0x20) :=
  ⟨reaches_of (by decide +kernel), reaches_of (by decide +kernel), reaches_of (by decide +kernel), reaches_of (by decide +kernel),
   by unfold Stated.OthersQuiet; refine ⟨?_, ?_, ?_, ?_, ?_⟩ <;> decide +kernel⟩

/-- Ring 8 enabled and not negotiated. -/
def fresh8 : State := (ringOn 8).modRing 8 fun g => { g with neg := false, ver := 0, feat := 0 }
def helloRing (lo hi : Nat) : List Byte :=
  hostMsg 0x20 0xFF 1 0 1 (leBytes 1 lo ++ leBytes 1 hi ++ List.replicate 6 0 ++ [0xFF] ++ List.replicate 7 0)
/-- Ring 8 with message 0 unanswered, the next SEQ 1. -/
def busy8 : State := (ringOn 8).modRing 8 fun g => { g with opens := [(0, 9)], expSeq := 1 }

theorem wit_ring_messages_act :
    Stated.Sent fresh8 8 1 (helloRing 0x20 0x40) ∧ Stated.Sent fresh8 8 1 (helloRing 0x33 0x40) ∧
    Stated.Arrives (ringOn 8) 8 1 (helloRing 0x20 0x40) ∧ ((ringOn 8).judge 8 (helloRing 0x20 0x40)).isSome = true ∧
    Stated.Comes busy8 8 1 (helloRing 0x20 0x40) ∧ (busy8.ring 8).expSeq ≠ fld (helloRing 0x20 0x40) 8 4 ∧
    Stated.Comes (ringOn 8) 8 3 (hostMsg 0x32 0xFF 3 0 1 []) ∧ Stated.Sent (ringOn 8) 8 4 (hostMsg 0x32 0xFF 4 0 1 []) ∧
    Stated.Sent busy8 8 4 (hostMsg 0x32 0xFF 4 1 1 []) ∧ Stated.number busy8 8 (hostMsg 0x32 0xFF 4 1 1 []) ≠ 0 ∧
    Stated.Comes busy8 8 0x104 (hostMsg 0x31 1 0x104 0 1 []) ∧
    Stated.Arrives (ringOn 8) 8 0x104 (hostMsg 0x31 1 0x104 0 1 []) ∧
    ((ringOn 8).judge 8 (hostMsg 0x31 1 0x104 0 1 [])).isSome = true ∧
    (max 0x20 0x20 ≤ min 0x40 0x32 ∧ min 0x40 0x32 < max 0x33 0x20) :=
  ⟨sent_of (by decide +kernel) (by decide +kernel), sent_of (by decide +kernel) (by decide +kernel),
    arrives_of (by decide +kernel), by decide +kernel, comes_of (by decide +kernel), by decide +kernel,
    comes_of (by decide +kernel), sent_of (by decide +kernel) (by decide +kernel),
    sent_of (by decide +kernel) (by decide +kernel), by decide +kernel, comes_of (by decide +kernel), arrives_of (by decide +kernel),
    by decide +kernel, by decide +kernel⟩

/-- REG_READ of TIME_LO, and REG_WRITE of DBG's BLK_SCRATCH. -/
def rdMsg : List Byte := hostMsg 0x32 0xFF 0x10 0 1 (leBytes 4 0x44)
def wrMsg : List Byte := hostMsg 0x32 0xFF 0x11 0 1 (leBytes 4 0x6038 ++ leBytes 4 9)
/-- REG_WRITE of PORT_CFG of port 0, DOWN. -/
def downMsg : List Byte := hostMsg 0x32 0xFF 0x11 0 1 (leBytes 4 (pageNo .port 0 * 0x1000 + 0x40) ++ leBytes 4 8)
def wrote : State := ((Stated.taken (ringOn 8) 8 wrMsg).regWrite 1 0x6038 9).1

theorem wit_register_messages_act :
    Stated.Sent (ringOn 8) 8 0x10 rdMsg ∧ Stated.Sent (ringOn 8) 8 0x11 wrMsg ∧ Stated.RingFree wrote 8 ∧
    Stated.Sent (ringOn 8) 8 0x11 downMsg ∧
    (∀ q, q < 9 → wrote.served q = false ∨ wrote.sqUsed q = 0) ∧ ventsAfter (fld wrMsg 16 4) = false ∧
    (let u := Stated.taken (ringOn 8) 8 downMsg
     let x := u.regWrite 1 (fld downMsg 16 4) (BitVec.ofNat 32 (fld downMsg 20 4))
     ventsAfter (fld downMsg 16 4) = true ∧ x.1.dev.state = .ready ∧ x.1.ringEn 8 = true) ∧
    (ringOn 8).bus.lost = [] ∧ fld wrMsg 16 4 = 0x6038 ∧ fld wrMsg 20 4 = 9 ∧
    pageOf (0x6038 / 0x1000) = some (.dbg, 0) ∧ (ringOn 8).gated .dbg 0 = false :=
  ⟨sent_of (by decide +kernel) (by decide +kernel), sent_of (by decide +kernel) (by decide +kernel),
    free_ring _ _ (by decide +kernel), sent_of (by decide +kernel) (by decide +kernel), by decide +kernel⟩

/-! ## The array engines -/

/-- Command 1 of partition 0, started, with this opcode and message, on unit 0 or, of a CG_ command, on unit 256. -/
def started (op : Nat) (m : List Byte) : Cmd :=
  { cmdOf 1 op m with phase := .running, units := [if 0x280 ≤ op ∧ op ≤ 0x284 then 256 else 0] }
def runs (op : Nat) (m : List Byte) : State := withCmds [started op m]

/-- The command runs and may reach its ranges. -/
def runsB (op : Nat) (m : List Byte) (tile : Bool) (uses : Cmd → List (Nat × List Range)) : Bool :=
  let s := runs op m
  let k := started op m
  canonB s && (s.cmd? 0 1 == some k) && s.cmdLive k && s.unhalted k && s.passesOk k && (s.part 0).st != .faulted &&
    (s.unitAccess 0 tile (uses k)).isNone

/-- A 1 × 2 by 2 × 1 product, BF16 operands in a clear K_BASE form and one from C at K_BASE 0; FP8 on tiles. -/
def gemmMsg (gf : Nat) : List Byte := msgOf 256 ([(51, 1, gf), (56, 4, 1), (60, 4, 1), (64, 4, 2)] ++
  trefAt 80 0 1 2 2 ++ trefAt 112 0x100 2 1 2 ++ trefAt 144 0x200 1 1 0 ++ trefAt 176 0x300 1 1 0)
def cgemmMsg (gf : Nat) : List Byte := msgOf 256 ([(51, 1, gf), (60, 4, 1), (64, 4, 1), (68, 4, 2)] ++
  trefAt 80 0 1 2 3 ++ trefAt 112 0x100 1 2 3 ++ trefAt 144 0x200 1 1 0 ++ trefAt 176 0x300 1 1 0)
/-- One head of one position and two columns. -/
def attnMsg : List Byte := msgOf 448 ([(52, 4, 1), (56, 4, 1), (60, 4, 1), (64, 1, 1), (65, 1, 1)] ++
  ([80, 112, 144, 176, 208, 240, 272, 304, 336, 368].flatMap fun o =>
    if o = 240 ∨ o = 368 then trefAt o (o * 16) 1 1 0 else trefAt o (o * 16) 1 2 2))
def fwdMsg : List Byte := msgOf 256 ([(52, 4, 1), (56, 4, 1), (60, 4, 1), (64, 1, 1), (65, 1, 1)] ++
  ([80, 112, 144, 176].flatMap fun o => trefAt o (o * 16) 1 2 2) ++ trefAt 208 0x1000 1 1 0)
def cattnMsg : List Byte := msgOf 256 ([(57, 1, 1), (58, 1, 1), (60, 4, 1), (64, 4, 1), (68, 4, 1)] ++
  ([80, 112, 144, 176].flatMap fun o => trefAt o (o * 16) 1 2 2))

theorem wit_matrix_and_attention :
    ([0, 4].all fun gf => runsB 0x200 (gemmMsg gf) false mgGemmUses) = true ∧
    (bit 4 0 = false ∧ bit 4 1 = false ∧ (tref (gemmMsg 4) 80).rows = 1) ∧
    ([0, 4].all fun gf => runsB 0x280 (cgemmMsg gf) true cgGemmUses) = true ∧
    ((tref (cgemmMsg 4) 80).rows = 1 ∧ (tref (cgemmMsg 4) 112).rows = 1) ∧
    runsB 0x201 fwdMsg false mgFwdUses = true ∧ runsB 0x282 cattnMsg true cgAttnUses = true ∧
    runsB 0x202 attnMsg false mgBwdUses = true := by
  decide +kernel

/-- A vector addition of one row of two, and a kernel of two words. -/
def vecMsg : List Byte := msgOf 128 [(49, 1, 1), (52, 2, 1), (54, 2, 2), (72, 8, 0), (80, 8, 0x100), (88, 8, 0x200), (96, 8, 0x300)]
def kernMsg : List Byte := msgOf 128 [(52, 4, 2), (56, 8, 0x100), (80, 4, 77)]

theorem wit_vector_and_kernel_commands :
    ([0x204, 0x284].all fun op => runsB op vecMsg (op == 0x284) vecUses) = true ∧
    ([0x203, 0x283].all fun op =>
      runsB op kernMsg (op == 0x283) (fun k => gridUses k.units fun _ => [(0x100, 8, false)]) &&
      (((runs op kernMsg).unit (if op = 0x283 then 256 else 0)).run == .idle)) = true := by decide +kernel

/-! ## The Sprues and Fumarole -/

/-- A started command of the Sprue that may reach its ranges, on a state `s`. -/
def sprueB (s : State) (k : Cmd) (op : Nat) (rs : List Range) : Bool :=
  canonB s && (s.cmd? 0 k.cid == some k) && k.opcode == op && k.phase == .running && k.out.isNone && s.dev.state == .ready &&
    (s.part 0).st != .faulted && (s.tagAccess 0 rs).isNone

/-- SP_FEAT over two rows of three BF16 features, labels at 0x1000 (row 0 has no label, row 1 neither), losses at 0x1100. -/
def featMsg : List Byte := msgOf 192 ([(60, 4, 2), (64, 4, 3), (68, 4, 0x3F800000), (72, 4, 0x40000000)] ++
  trefAt 80 0 2 3 2 ++ trefAt 112 0x100 2 3 2 ++ trefAt 144 0x200 2 3 0 ++ [(176, 8, 0x1000), (184, 8, 0x1100)])
/-- SP_LOSS of micro-batch 3 over one row of 256 columns, labels at 0x3000, losses at 0x3100, HOME 0b01. -/
def lossMsg : List Byte := msgOf 192 ([(48, 4, 3), (52, 1, 2), (56, 4, 0), (60, 4, 1), (64, 4, 256)] ++
  trefAt 72 0 1 256 2 ++ trefAt 104 0x1000 1 256 0 ++ [(136, 8, 0x3000), (144, 8, 0x3100)])
/-- Its descriptor: G = 1, w_ce = 1, one forward term of T = 1 and w = 1. -/
def lossData : List Byte := msgOf 64 [(0, 4, 0x3F800000), (4, 4, 0x3F800000), (8, 4, 1), (16, 4, 0x3F800000), (20, 4, 0x3F800000)]
/-- CG_LOGIT of micro-batch 3: one row, 256 columns, two inputs, weights in the format `f`. -/
def logitMsg (f : Nat) : List Byte := msgOf 192 ([(49, 1, 1), (50, 1, 1), (52, 4, 3), (60, 4, 1), (64, 4, 256), (68, 4, 2),
  (72, 4, 0)] ++ trefAt 80 0 1 2 3 ++ trefAt 112 0x4000 256 2 f)

def featCmd : Cmd := started 0x301 featMsg
def lossCmd : Cmd := { started 0x300 lossMsg with cid := 2, data := lossData }
def logitCmd (f : Nat) : Cmd := { started 0x281 (logitMsg f) with units := [256] }

/-- Partition 0 with a slice of 64 segments on Sprue 0 and an intake of one unit, `cfg` added to its PCFG. -/
def sprueState (cfg : Nat) (ks : List Cmd) (f : Sprue → Sprue) : State :=
  let s := (withCmds ks).setPg .sprue 0 0x44 (0x10000 + cfg)
  s.setSprue (f { s.sprue with slices := tput 0 [] 0 64 })

def doneBlk : RowBlk := { RowBlk.fresh 0 0 3 0 2 1 false with
  rows := [⟨[⟨0, 0x3F800000, 0, 0x3F800000, 0⟩], some (0, 0x3F800000, 0), false, []⟩], next := 1, pass1 := true, pass2 := [0] }
def recBlk : RowBlk := { RowBlk.fresh 0 0 3 0 1 1 true with
  next := 1, pass1 := true, recs := [⟨3, 0, 1, false, false, 0, 0, 0, [(4, 0x3F800000)]⟩] }
/-- The state slot of row block 0 of the command `cid`. -/
def slotBlk (cid : Nat) : RowBlk := { RowBlk.fresh 0 0 3 0 cid 0 false with stateOnly := true }
def waitUnit (pass nw j : Nat) : LogitUnit := ⟨0, 1, 0, 3, 0, 0, 1, pass, 0, j, nw, [List.replicate nw 0x3F800000]⟩

theorem wit_sprue_losses :
    (let m := featMsg
     let rs := (tref m 80).rowsAt false 0 2 ++ (tref m 112).rowsAt false 0 2 ++ (tref m 144).rowsAt true 0 2 ++
       vecAt (fld m 176 8) 0 2 false ++ vecAt (fld m 184 8) 0 2 true
     (∀ bl ∈ [[], [slotBlk 1]],
       let s := sprueState 0 [featCmd] fun x => { x with blks := bl }
       sprueB s featCmd 0x301 rs = true ∧ s.slot? 0 1 0 = bl.head? ∧
       (s.homeOf 0 (bits (fld m 52 1) 2 1) 0).getD 0 = 0 ∧ (rowBlocks (fld m 56 4) (fld m 60 4)).find? (fun b' =>
         s.live ((s.homeOf 0 (bits (fld m 52 1) 2 1) b').getD 0) && (s.slot? 0 1 b').all (·.rowLoss.isEmpty)) = some 0) ∧
     0 < min 512 (fld m 60 4 - 0) ∧ 1 ≤ (sprueState 0 [featCmd] id).freeSegs 0 0) ∧
    (let s := sprueState 0 [lossCmd] fun x => { x with blks := [doneBlk] }
     sprueB s lossCmd 0x300 [] = true ∧ s.topk 0 = false ∧
     (rowBlocks (fld lossMsg 56 4) (fld lossMsg 60 4)).filterMap (fun b => s.blk? false 0 (fld lossMsg 48 4) b) = [doneBlk] ∧
     s.live doneBlk.die = true ∧ doneBlk.pass1 = true ∧ doneBlk.cols ≤ doneBlk.pass2.length) ∧
    (let s := sprueState 0x11 [lossCmd] fun x => { x with blks := [recBlk, slotBlk 2] }
     sprueB s lossCmd 0x300 ((tref lossMsg 72).rowsAt false 0 1 ++ (tref lossMsg 104).rowsAt true 0 1 ++
       vecAt (fld lossMsg 136 8) 0 1 false ++ vecAt (fld lossMsg 144 8) 0 1 true) = true ∧ s.topk 0 = true ∧
     rowBlocks (fld lossMsg 56 4) (fld lossMsg 60 4) = [0] ∧ s.blk? true 0 (fld lossMsg 48 4) 0 = some recBlk ∧
     recBlk.pass1 = true ∧ s.live recBlk.die = true ∧ s.slot? 0 2 0 = some (slotBlk 2) ∧ (slotBlk 2).rowLoss = [] ∧
     (slotBlk 2).teacherSide = false) := by decide +kernel

def sentState : State := sprueState 0 [logitCmd 3] fun x => { x with sent := [[0, 1, 0, 0], [0, 1, 0, 1]] }
/-- Task (0, j) is the next one of its tile. -/
def offerState (f j : Nat) : State := sprueState 0 [lossCmd, logitCmd f] fun x => { x with
  sent := (List.range j).map fun i => [0, 1, 0, i] }
/-- A unit waits; `h` holds the half that is in its intake entry. -/
def admitState (u : LogitUnit) (h : List LogitUnit) : State := sprueState 0 [lossCmd, logitCmd 3] fun x => { x with
  waiting := [u], halves := h, blks := if u.pass = 1 then [] else [{ doneBlk with pass2 := [] }] }

theorem wit_logit_units :
    (sprueB sentState (logitCmd 3) 0x281 [] && sentState.cmdLive (logitCmd 3) && sentState.unhalted (logitCmd 3) &&
      (sentState.unitAccess 0 true (gridUses [256] (clUses (logitMsg 3)))).isNone) = true ∧
    (∀ x ∈ [(3, 0), (3, 1), (0x0A, 0)],
      let s := offerState x.1 x.2
      let k := logitCmd x.1
      sprueB s k 0x281 [] = true ∧ s.passesOk k = true ∧ s.cmdLive k = true ∧ s.unhalted k = true ∧ s.unitGone 0 1 0 x.2 = false ∧
      (∀ j' ≤ x.2, j' = x.2 ∨ s.unitGone 0 1 0 j' = true) ∧ s.sprue.waiting = [] ∧
      (s.unitAccess 0 true [(256, clRanges k.msg 0 x.2)]).isNone = true ∧ s.doneMb 0 ≤ 3 ∧ s.topk 0 = false ∧
      s.sprue.deliv = []) ∧
    (∀ u ∈ [waitUnit 1 256 0, waitUnit 2 256 0, waitUnit 1 128 0],
      let s := admitState u []
      canonB s = true ∧ s.live 0 = true ∧ (s.part 0).st ≠ .faulted ∧ s.intake 0 0 = 1 ∧
      s.sprue.waiting.find? (fun x => x.part == 0 && x.mb == u.mb && x.blk == 0 && x.j == 0) = some u ∧
      s.intakeOcc 0 0 = 0 ∧ ((s.admitUnit 0 0 u).map fun r => (r.part 0).st) = some .running) ∧
    (let u := waitUnit 1 128 1
     let v := waitUnit 1 128 0
     let s := admitState u [v]
     (s.sprue.halves.find? fun v =>
        v.part == u.part && v.mb == u.mb && v.blk == u.blk && v.col == u.col && v.pass == u.pass) = some v ∧
     (((s.setSprue { s.sprue with halves := s.sprue.halves.erase v }).admitUnit 0 0 (u.with v)).map
        fun r => (r.part 0).st) = some .running) := by decide +kernel

/-- A unit of 256 entries of a lock-step job, in pass 1 and in pass 2. -/
theorem wit_lock_step_passes :
    (∀ u ∈ [waitUnit 1 256 0, waitUnit 2 256 0],
      let s := admitState u []
      let k := lossCmd
      let n := min u.nrows (fld k.msg 60 4 - 0)
      canonB s = true ∧ s.live 0 = true ∧ (s.part 0).st ≠ .faulted ∧ s.intake 0 0 = 1 ∧ s.topk 0 = false ∧
      s.sprue.waiting.find? (fun x => x.part == 0 && x.mb == u.mb && x.blk == 0 && x.j == 0) = some u ∧ u.nw = 256 ∧
      s.intakeOcc 0 0 = 0 ∧ s.coverOf 0 u.mb 0 = some k ∧ s.homeOf 0 (bits (fld k.msg 52 1) 2 1) 0 = some 0 ∧
      (s.cmd? 0 u.cid).map (·.phase) = some .running ∧
      (u.pass = 1 → s.blk? false 0 u.mb 0 = none ∧ 1 + s.win 0 0 ≤ s.freeSegs 0 0 ∧ u.col = 0 ∧
        (s.tagAccess 0 (lossRanges k.msg 0 n 0 false false)).isNone = true) ∧
      (u.pass ≠ 1 → s.blk? false 0 u.mb 0 = some { doneBlk with pass2 := [] } ∧
        (s.tagAccess 0 (lossRanges k.msg 0 n 0 true true)).isNone = true)) ∧
    doneBlk.cols = 1 ∧ doneBlk.pass1 = true ∧ doneBlk.die = 0 ∧ (RowBlk.fresh 0 0 3 0 2 1 false).pass1 = false ∧
    (RowBlk.fresh 0 0 3 0 2 1 false).next = 0 := by decide +kernel

/-- A started Fumarole command at the head of its queue on stack 0, whose present slot is partition 0's, on memory `ws`;
it keeps the records that its start read there. -/
def fumCmd (op : Nat) (m d : List Byte) : Cmd := { cmdOf 1 op m with phase := .running, data := d }
def fumQueued (op : Nat) (m d : List Byte) (ws : List (Nat × List Byte)) (run : List Nat) : State :=
  let s := (withCmds [fumCmd op m d]).modStack 0 fun x => { x with slots := tput 0xF [] 0 0 }
  let s := s.setStk { s.stk with fumQ := tput [] [] 0 [1], fumRun := tput [] [] 0 run }
  ws.foldl (fun s w => s.wr 0 w.1 w.2) s
def fumKept (op : Nat) (m : List Byte) (ws : List (Nat × List Byte)) : List Byte := (fumQueued op m [] ws []).fmRecord 0 op m
def fumState (op : Nat) (m : List Byte) (ws : List (Nat × List Byte)) : State := fumQueued op m (fumKept op m ws) ws [1]
def fumB (op : Nat) (m : List Byte) (ws : List (Nat × List Byte)) : Bool :=
  let s := fumState op m ws
  let k := fumCmd op m (fumKept op m ws)
  canonB s && twf [] s.stk.fumQ && twf [] s.stk.fumRun && (s.cmd? 0 1 == some k) && fmStack m == 0 && (s.fumRun 0 0).contains 1 &&
    s.live (dieOfStack 0) && (s.part 0).st != .faulted && s.fumTurn 0 0 k.fmChans &&
    (s.tagAccess 0 (fmRanges op m k.data)).isNone

theorem fum_runs {op : Nat} {m : List Byte} {ws : List (Nat × List Byte)} (h : fumB op m ws = true) :
    Stated.FumRuns (fumState op m ws) 0 1 op 0 (fumCmd op m (fumKept op m ws)) := by
  simp only [fumB, Bool.and_eq_true, beq_iff_eq, bne_iff_ne, Option.isNone_iff_eq_none] at h
  obtain ⟨⟨⟨⟨⟨⟨⟨⟨⟨h1, h2⟩, h3⟩, h4⟩, h5⟩, h6⟩, h7⟩, h8⟩, h9⟩, h10⟩ := h
  exact ⟨canon_of h1, h2, h3, h4, rfl, h5, rfl, rfl, h6, h7, h8, h9, .inr h10⟩

def amaxMsg : List Byte := msgOf 128 ([(52, 1, 1), (53, 1, 3)] ++ trefAt 56 0 1 4 0 ++ [(88, 8, 0x100), (96, 8, 0x200)])
/-- Two rows of four bytes by the indices 1 and 9 at 0x300, of a table of four rows. -/
def gatherMsg : List Byte := msgOf 128 [(52, 4, 4), (56, 4, 2), (60, 4, 4), (64, 8, 0), (72, 8, 0x300), (80, 8, 0x400)]
def efMsg (f : Nat) : List Byte :=
  msgOf 128 [(52, 1, f), (56, 8, 3), (64, 8, 0), (72, 8, 0x100), (80, 8, 0x200), (88, 8, 0x300), (96, 8, 0x400), (104, 8, 0x500)]
/-- One node, one page of one token in granule 2, one head of two columns, K and V rows written, O and L. -/
def fattnMsg : List Byte := msgOf 192 ([(52, 1, 1), (53, 1, 1), (54, 1, 1), (55, 1, 1), (56, 1, 3), (57, 1, 3), (60, 4, 1)] ++
  trefAt 64 0 1 2 3 ++ [(96, 8, 0x100), (104, 8, 0x200), (112, 8, 0x300), (120, 8, 0x400), (128, 8, 0x500)])
def fattnMem : List (Nat × List Byte) := [(0x100, leBytes 4 0x80001000), (0x200, leBytes 4 0x80000800 ++ [1, 0xFF])]
/-- One slab of two rows in granule 1, one vector of three, BF16 to F32. -/
def gemvMsg : List Byte := msgOf 128 [(52, 1, 1), (56, 4, 1), (60, 4, 3), (64, 8, 0x100), (72, 1, 2), (73, 1, 2), (74, 1, 0), (80, 8, 0x200),
  (88, 8, 0x300)]
def gemvMem : List (Nat × List Byte) := [(0x100, leBytes 8 0x200000001)]
/-- One flask in granule 1, of two weights, the step's parameters at 0x200 (all zero). -/
def updMsg : List Byte := msgOf 128 [(52, 4, 1), (56, 8, 0), (64, 8, 0x100), (72, 8, 0x200)]
def updMem : List (Nat × List Byte) := [(0x100, leBytes 2 1), (0x2A080C, leBytes 4 2)]

theorem wit_fumarole_commands :
    (fumB 0x381 amaxMsg [] && fumB 0x382 gatherMsg [(0x300, leBytes 8 0x900000001)] &&
      (List.range 3).all (fun f => fumB 0x383 (efMsg f) [])) = true ∧
    (fumB 0x384 fattnMsg fattnMem && fumB 0x385 gemvMsg gemvMem && fumB 0x380 updMsg updMem) = true ∧
    ((fumState 0x384 fattnMsg fattnMem).part 0).st = .running := by decide +kernel

/-- FM_UPDATE in its three fates: the step open, skipped and done, sealed after the start, and one not sealed. -/
theorem wit_fumarole_update :
    (let s := fumState 0x380 updMsg updMem
     let d := fumKept 0x380 updMsg updMem
     (fld d 0 1 = 0 ∨ fld d 0 1 = 2) ∧ (s.part 0).step.last = fld updMsg 56 8 ∧ (s.part 0).step.skip = false ∧
       s.stk.readMarks = []) ∧
    (let d := lay (fumKept 0x380 updMsg updMem) 0 [1]
     let s := fumQueued 0x380 updMsg d updMem [1]
     fld d 0 1 = 1 ∧ s.cmd? 0 1 = some (fumCmd 0x380 updMsg d) ∧ s.updFate 0 (fumCmd 0x380 updMsg d) = some true ∧
       s.fumTurn 0 0 (fumCmd 0x380 updMsg d).fmChans = true) ∧
    (let m := msgOf 128 [(56, 8, 5)]
     let s := withCmds [fumCmd 0x380 m [2]]
     s.cmd? 0 1 = some (fumCmd 0x380 m [2]) ∧ fld [(2 : Byte)] 0 1 = 2 ∧ (s.part 0).step.last < fld m 56 8) := by decide +kernel

theorem wit_fumarole_queues_and_units :
    (let s := fumQueued 0x380 updMsg [] updMem []
     canonB s = true ∧ twf [] s.stk.fumRun = true ∧ (s.fumQ 0 0).find? (fun i => !(s.fumRun 0 0).contains i) = some 1 ∧
     s.cmd? 0 1 = some (fumCmd 0x380 updMsg []) ∧
     (∀ ch ∈ fmChans 0x380 updMsg (s.fmRecord 0 0x380 updMsg), s.fumOn 0 0 ch = none) ∧ s.live (dieOfStack 0) = true ∧ (s.part 0).st ≠ .faulted ∧
     (s.tagAccess 0 (fmRecRanges 0x380 updMsg)).isNone = true ∧ (s.fmStart 0 0x380 updMsg).isNone = true) ∧
    (fumQueued 0x380 updMsg [] updMem []).cmd? 0 5 = none := by decide +kernel


/-! ## The Ladle -/

/-- A descriptor of `n` elements: F32 at 0 (or BF16 of a gather), DEST a TENSOR at 0x1000, H 4, step 3. -/
def ldDesc (n : Nat) : List Byte :=
  msgOf 128 [(0, 1, 0), (2, 1, 4), (7, 1, 1), (8, 8, 3), (24, 8, n), (32, 8, 0x100), (48, 8, 0x1000)]
def collOf (reduce : Bool) (ranks : List Nat) : Coll :=
  { cid := 1, reduce := reduce, onebit := false, ridx := 0, tensor := 0, desc := ldDesc 2, shards := [(0, 2, 0)], ranks := ranks,
    flasks := [], fp := 9, reports := [], sentUp := false, comb := none, prog := [], served := false, owed := [] }

/-- Device 5, member 0 of partition 0's epoch 4 with device 6, which port 2 reaches; LAST is `last`. -/
def ldState (k : List Cmd) (l : LadleP → LadleP) (last : Nat) : State :=
  let s := (withCmds k).modPart 0 fun q => { q with
    ladle := l { q.ladle with epoch := 4, members := [5, 6], ver := 0x31 }
    step := { q.step with last := last }
    cfg := List.replicate 36 0 ++ [8, 8] ++ List.replicate 218 0 }
  (s.setFabric { s.fabric with devId := 5, routes := tput 0x1F [] 6 2 }).modPort 2 fun x => { x with st := .up, ver := 0x31 }

def ldB (s : State) (op : Nat) (x : Coll) : Bool :=
  let k := started op []
  canonB s && (s.cmd? 0 1 == some k) && ((s.part 0).ladle.colls.find? (fun y => y.cid == 1) == some x) && x.reduce == (op == 0x400) &&
    s.live (if x.reduce then x.ridx % 2 else x.tensor % 2) && (s.tagAccess 0 (s.ldRanges 0 x)).isNone &&
    (s.part 0).ladle.waiting == [] && (s.part 0).ladle.colls.all (fun y => y.owed.isEmpty) && (s.part 0).st != .faulted && s.myRank 0 == some 0

def collState (op last : Nat) (x : Coll) (o : Option StepRed) : State :=
  (ldState [started op []] (fun l => { l with colls := [x] }) last).modPart 0 fun q => { q with step := { q.step with opened := o } }
def red4 : StepRed := ⟨4, 0, [], [], [], false, 0xFFFF, 0, false⟩

theorem wit_collectives_proceed :
    ([[1], [0, 1], [0]].all fun r => ldB (collState 0x400 0 (collOf true r) none) 0x400 (collOf true r)) = true ∧
    (let x := collOf true [0]
     let d := x.desc
     lOneBit d = false ∧ lFlask d = false ∧ lGives d = true ∧ lCount d = 2 ∧ x.shards = [(0, lCount d, 0)] ∧
     ((collState 0x400 0 x none).tagAccess 0 (segGives d 0 (lCount d) ++ [(lDest d, 4 * lCount d, true)])).isNone = true ∧
     ∀ i ∈ [0, 1], ((collState 0x400 0 x none).lElem 0 d i).isFin = true) ∧
    (let x := collOf false [0]
     ([(0, none), (5, none), (4, none), (3, some red4)].all fun (e : Nat × Option StepRed) =>
       ldB (collState 0x401 e.1 x e.2) 0x401 x && ((collState 0x401 e.1 x e.2).part 0).step.opened == e.2) = true ∧
     (collState 0x401 4 x none).stk.marks = [] ∧
     ((collState 0x401 4 x none).tagAccess 0 [(lDest x.desc, 2 * lCount x.desc, true)]).isNone = true ∧
     lStep x.desc = 3 ∧ lFlask x.desc = false ∧ lCount x.desc = 2 ∧ red4.step = 3 + 1) := by decide +kernel

/-- One of each Ladle message, of an epoch. -/
def ldMsgs (e : Nat) : List LdMsg :=
  [.preUp ⟨0, e, 0, 3, 1, 5, false, 0xFFFF, 9⟩, .preDown ⟨0, e, 0, 3, 0, 0, true, 6, 9⟩, .seg ⟨0, e, 0, 3, 0, 0, [3, -4], [], 32⟩,
   .gseg ⟨0, e, 0, 3, 0, 0, [1, 2], 9, false, false⟩, .sealUp ⟨0, 1, 4, e, false, 0xFFFF, 7, [], true⟩, .sealDown ⟨0, 0, 4, e, false, 0xFFFF, 7, [], true⟩]

def ldSeg (e : Nat) : LdMsg := .seg ⟨0, e, 0, 3, 0, 0, [3, -4], [], 32⟩
def arrivesB (s : State) : Bool :=
  canonB s && (s.port 2).st != .down && s.live (dieOfPort 2) && (s.part 0).st != .faulted

theorem ld_arrives {s : State} (h : arrivesB s = true) {m : LdMsg} (hm : Stated.ldPart m = 0) : Stated.LdArrives s 2 0 m := by
  simp only [arrivesB, Bool.and_eq_true, bne_iff_ne] at h
  exact ⟨canon_of h.1.1.1, hm, by decide, h.1.1.2, h.1.2, h.2⟩

theorem wit_ladle_arrivals_and_members :
    arrivesB (ldState [] id 0) = true ∧
    (∀ e ∈ [3, 4, 5], ∀ m ∈ ldMsgs e, Stated.ldPart m = 0 ∧ m.epoch = e) ∧
    (let s := ldState [] id 0
     (s.part 0).ladle.epoch = 4 ∧ (s.part 0).ladle.colls = [] ∧ (s.part 0).step.sealing = none ∧
     s.ldUsed 0 0 < (s.part 0).ladleBufs 0 ∧ 6 ∈ (s.part 0).ladle.members ∧ 6 ≠ s.fabric.devId ∧ (s.part 0).ladle.lost = [] ∧
     s.routeOf 0 6 = some (2, 0) ∧ tget 0 s.fabric.heard 6 + (s.part 0).ladle.lossTo * 250000 ≤ s.dev.time ∧
     s.dev.time < tget 0 s.fabric.heard 6 + 10 * 250000) ∧
    (let s := ldState [] (fun l => { l with future := List.replicate 8 (ldSeg 5), lossTo := 10 }) 0
     arrivesB s = true ∧ (s.part 0).ladleBufs 0 ≤ s.ldUsed 0 0 ∧ (ldSeg 5).isSeg = true ∧ (ldSeg 5).home = 0 ∧
     s.dev.time < tget 0 s.fabric.heard 6 + (s.part 0).ladle.lossTo * 250000) ∧
    (let s := (ldState [] id 0).modPart 0 fun q => { q with ladle := { q.ladle with members := [5, 8], lost := [9] } }
     canonB s = true ∧ tget 0 s.fabric.heard 8 + (s.part 0).ladle.lossTo * 250000 ≤ s.dev.time ∧
     8 ∈ (s.part 0).ladle.members ∧ s.routeOf 0 8 = none ∧ 9 ∈ (s.part 0).ladle.lost) := by decide +kernel

/-- A reduction of this member, the first of two, or the last of two; a gather of which it is the last receiver; a seal. -/
def redBy (ranks : List Nat) (comb : Option (Int × Bool × Nat)) : Coll := { collOf true ranks with comb := comb, shards := [(0, 2, 0)] }
def gatBy : Coll := { collOf false [1, 0] with shards := [(1, 2, 0)] }
def sealBy (entered : Bool) : Seal × StepRed := (⟨4, 3, entered, none, [], none, []⟩, red4)
def sealState (entered : Bool) : State :=
  (ldState [] (fun l => { l with members := [5] }) 3).modPart 0 fun q => { q with step := { q.step with sealing := some (sealBy entered) } }

theorem wit_ladle_messages_act :
    (∀ s ∈ [collState 0x400 0 (redBy [0, 1] none) none, collState 0x400 0 (redBy [1, 0] none) none,
        collState 0x400 0 (redBy [1, 0] (some (3, false, 0xFFFF))) none, collState 0x401 4 gatBy none, sealState false, sealState true],
      arrivesB s = true ∧ (s.part 0).ladle.waiting = [] ∧ (∀ y ∈ (s.part 0).ladle.colls, y.owed = []) ∧ s.myRank 0 = some 0 ∧
      (s.part 0).ladle.epoch = 4) ∧
    (let x := redBy [0, 1] none
     ((collState 0x400 0 x none).part 0).ladle.colls.find? (fun y => y.reduce && y.ridx == 0 && lStep y.desc == 3) = some x) ∧
    (∀ x ∈ [redBy [0, 1] none, redBy [1, 0] none], x.ranks.contains 0 = true ∧ x.fp = 9 ∧ x.reports = [] ∧ x.comb = none) ∧
    ((redBy [0, 1] none).ranks.idxOf 0 ≠ 1 ∧ (redBy [1, 0] none).ranks.idxOf 0 = 1 ∧ (redBy [1, 0] none).ranks.length ≤ 4 * 1 + 1) ∧
    (let x := redBy [1, 0] (some (3, false, 0xFFFF))
     ((collState 0x400 0 x none).tagAccess 0
       (segGives x.desc 0 2 ++ (collState 0x400 0 x none).segKept 0 x 0 0 2)).isNone = true ∧ x.shards[0]? = some (0, 2, 0) ∧ x.ranks.idxOf 0 = 1 ∧ lFlask x.desc = false ∧ x.onebit = false) ∧
    ((collState 0x401 4 gatBy none).part 0).ladle.colls.find? (fun y => !y.reduce && y.tensor == 0 && lStep y.desc == 3 &&
       y.fp == 9 && decide (tget 0 y.prog 0 < (y.shards.getD 0 (0, 0, 0)).2.1)) = some gatBy ∧
    ((collState 0x401 4 gatBy none).tagAccess 0 [(lDest gatBy.desc + 2 * 0, 2 * 2, true)]).isNone = true ∧
    ((collState 0x401 4 gatBy none).part 0).ladle.colls.find? (fun y => !y.reduce && y.tensor == 0 && lStep y.desc == 3) =
      some gatBy ∧ ((collState 0x401 4 gatBy none).cmd? 0 gatBy.cid).isSome = true ∧
    chainNext (gatherChain gatBy.ranks (gatBy.shards.getD 0 (0, 0, 0)).1) 0 = none ∧
    (∀ b ∈ [false, true], ((sealState b).part 0).step.sealing = some (sealBy b) ∧ (sealBy b).1.entered = b ∧
      (sealBy b).1.word = none ∧ (sealBy b).1.result = none ∧ (sealBy b).1.got = []) ∧
    ((sealState true).part 0).ladle.members.length ≤ 4 * 0 + 1 := by decide +kernel

/-! ## The training step, copies and storage -/

/-- A started step command on a state. -/
def stepB (s : State) (k : Cmd) (p op : Nat) : Bool :=
  canonB s && (s.cmd? p k.cid == some k) && decide (((s.part p).cmds.map (·.cid)).Nodup) && k.opcode == op && k.phase == .running &&
    k.out.isNone && s.live 0 && (s.part p).st != .faulted
def stepped (op : Nat) (m : List Byte) (f : StepSt → StepSt) : State :=
  (withCmds [started op m]).modPart 0 fun q => { q with step := f q.step }

def cfgMsg : List Byte := msgOf 128 [(48, 8, 77), (56, 4, 3), (60, 4, 2), (64, 8, 9), (72, 4, 5), (76, 4, 1), (80, 8, 0x10000), (88, 1, 4), (90, 2, 3),
  (92, 4, 100)]
def openMsg (n : Nat) : List Byte := msgOf 64 [(48, 8, n)]
def sealing4 : Option (Seal × StepRed) := some (⟨4, 9, false, none, [], none, []⟩, red4)

theorem wit_steps_are_configured_and_opened :
    stepB (stepped 0x410 cfgMsg id) (started 0x410 cfgMsg) 0 0x410 = true ∧ ((stepped 0x410 cfgMsg id).part 0).step.held = none ∧
    ((stepped 0x410 cfgMsg id).part 0).step.opened = none ∧ ((stepped 0x410 cfgMsg id).part 0).step.sealing = none ∧
    stepB (stepped 0x410 cfgMsg fun x => { x with opened := some red4 }) (started 0x410 cfgMsg) 0 0x410 = true ∧
    ([(4, none), (5, sealing4), (5, none), (6, none)].all fun (e : Nat × Option (Seal × StepRed)) =>
      stepB (stepped 0x411 (openMsg e.1) fun x => { x with last := 3, sealing := e.2 }) (started 0x411 (openMsg e.1)) 0 0x411 &&
      (fld (openMsg e.1) 48 8 == e.1)) = true ∧
    (let s := stepped 0x412 (openMsg 4) fun x => { x with last := 3, opened := some red4 }
     stepB s (started 0x412 (openMsg 4)) 0 0x412 = true ∧ (s.part 0).step.opened = some red4 ∧ red4.step = 4 ∧
      (s.part 0).step.sealing = none ∧ s.fabric.devId ∉ (s.part 0).ladle.standby ∧ (s.part 0).ladle.waiting = [] ∧
      (s.part 0).ladle.colls = []) ∧
    (let s := stepped 0x412 (openMsg 4) fun x => { x with last := 3 }
     stepB s (started 0x412 (openMsg 4)) 0 0x412 = true ∧ (s.part 0).step.opened = none ∧ (s.part 0).step.sealing = none) := by
  decide +kernel

/-- A seal of step 4 by command 1, with the combined word `w`, ring of 16 records at 0x10000, SEAL_TO 0. -/
def word4 (step : Nat) (agree : Bool) : SealMsg := ⟨0, 0, step, 4, false, 0xFFFF, 7, [(0, 3)], agree⟩
def seal4 (entered : Bool) (w : Option SealMsg) : Seal := ⟨4, 1, entered, none, [], w, List.replicate 15 0⟩
def sealed4 (members : List Nat) (z : Seal) : State :=
  let s := (stepped 0x412 (openMsg 4) fun x => { x with last := 3, sealing := some (z, red4), ring := (0x10000, 4) }).modPart 0
    fun q => { q with ladle := { q.ladle with epoch := 4, members := members } }
  s.setFabric { s.fabric with devId := 5 }

theorem wit_seals :
    (∀ l ∈ [[], [5], [5, 6]], let s := sealed4 l (seal4 false none)
      canonB s = true ∧ (s.part 0).step.sealing = some (seal4 false none, red4) ∧ red4.nred ≤ red4.done.length ∧
      (s.part 0).step.last + 1 = 4 ∧ s.updatesOwed 0 (s.part 0).step.last 1 = false ∧ (s.part 0).step.held = none ∧
      s.live 0 = true ∧ (s.part 0).st ≠ .faulted ∧ (s.part 0).ladle.waiting = [] ∧ (s.part 0).ladle.colls = []) ∧
    ((sealed4 [5, 6] (seal4 false none)).myRank 0 = some 0 ∧ ((sealed4 [5, 6] (seal4 false none)).part 0).ladle.members.length = 2) ∧
    (∀ w ∈ [some (word4 4 true), some (word4 4 false), some (word4 3 true), none], let s := sealed4 [5] (seal4 true w)
      stepB s (started 0x412 (openMsg 4)) 0 0x412 = true ∧ (s.part 0).step.sealing = some (seal4 true w, red4) ∧
      fld (openMsg 4) 56 1 = 0 ∧ (s.part 0).step.ring.2 ≠ 0 ∧ s.firstBad 0 true 0x10000 256 = none ∧ (s.part 0).step.sealTo = 0) := by
  decide +kernel

/-- MEM_COPY of 64 bytes from granule 0 to granule 1, with partition 0's tag; from the end of granule 0, a teacher's,
and of the free granule 1, with the management tag. -/
def copyMsg (dst src : Nat) : List Byte := msgOf 128 [(48, 8, dst), (56, 8, src), (64, 8, 64)]
def mgtState (m : List Byte) : State := (ready.modPart 8 fun q => { q with cmds := [started 0x112 m] }).setOwner 0 8
/-- SV_VARIANT_LOAD of 4 bytes of host memory into granule 1. -/
def varMsg : List Byte := msgOf 128 [(48, 4, 6), (52, 4, 1), (56, 8, hostBase), (64, 8, 4), (72, 8, 0x100)]
/-- A command that keeps the records `d` that its start read. -/
def keeping (op : Nat) (m d : List Byte) : Cmd := { started op m with data := d }

theorem wit_copies_move_bytes :
    stepB (withCmds [started 0x112 (copyMsg 0x200000 0x40)]) (started 0x112 (copyMsg 0x200000 0x40)) 0 0x112 = true ∧
    (withCmds [started 0x112 (copyMsg 0x200000 0x40)]).copyStop 0 0x40 0x200000 64 = none ∧
    stepB (mgtState (copyMsg 0 0x1FFFE0)) (started 0x112 (copyMsg 0 0x1FFFE0)) 8 0x112 = true ∧
    (mgtState (copyMsg 0 0x1FFFE0)).copyStop 8 0x1FFFE0 0 64 = some (32, 0x200000, false) ∧
    (let k := keeping 0x501 varMsg (leBytes 4 1)
     let s := withCmds [k]
     stepB s k 0 0x501 = true ∧ (s.tagAccess 0 [(granAddr 1, 4, true)]).isNone = true) := by decide +kernel

/-- CKPT_SAVE and CKPT_LOAD of granule 1 to and from host memory, of nothing to endpoint 6, of granule 1 from it. -/
def saveMsg (n kind : Nat) : List Byte := msgOf 128 [(48, 8, 3), (56, 4, n), (60, 1, kind), (64, 8, 0x100), (72, 8, if kind = 0 then hostBase else 6)]
def loadMsg (kind : Nat) : List Byte := msgOf 128 [(48, 4, 1), (52, 1, kind), (56, 8, 0x100), (64, 8, if kind = 0 then hostBase else 6)]
/-- Nothing copied yet; `u` marks granule 1 for an update. -/
def saveCmd (n kind : Nat) : Cmd :=
  keeping 0x414 (saveMsg n kind) (List.replicate 272 0 ++ (List.range n).flatMap (fun i => leBytes 4 (1 + i)) ++ List.replicate (n + 1) 0)
def loadCmd (kind : Nat) : Cmd := keeping 0x415 (loadMsg kind) (leBytes 4 1 ++ [0])
def ckptState (k : Cmd) (u : Bool) : State :=
  let s := withCmds [k]
  let s := s.setStk { s.stk with marks := if u then [(1, 0, 7)] else [] }
  (s.setFabric { s.fabric with devId := 5, routes := tput 0x1F [] 6 2 }).modPort 2 fun x => { x with st := .up, ver := 0x31 }

/-- A storage segment of command 1: its acknowledgement, its data. -/
def seg1 (isRead : Bool) : StoreSeg := ⟨0, 1, 6, 2, 64, 4, isRead⟩
def storeState (isRead : Bool) : State :=
  let s := ckptState (if isRead then (loadCmd 1).setLoadPhase 1 else (saveCmd 0 1).setSaved [0]) false
  s.setFabric { s.fabric with store := [seg1 isRead] }
def storeMsg (op : Nat) (b : List Byte) : List Byte := fabBytes 0x31 0 op 6 5 0 0 0 0 (leBytes 8 2 ++ leBytes 8 64 ++ b)

theorem wit_checkpoints_and_storage :
    (∀ e ∈ [(1, 0, false), (1, 0, true), (0, 1, false)], let k := saveCmd e.1 e.2.1
      let s := ckptState k e.2.2
      stepB s k 0 0x414 = true ∧ k.saved k.saveN = false ∧ s.stk.readMarks = [] ∧
      (s.tagAccess 0 [(granAddr 1, 2 ^ 21, false)]).isNone = true) ∧
    (∀ e ∈ [0, 1], let k := loadCmd e
      let s := ckptState k false
      stepB s k 0 0x415 = true ∧ k.loadPhase = 0 ∧ (s.part 0).step.opened = none ∧ (s.part 0).step.sealing = none ∧
      (s.tagAccess 0 [(granAddr 1, 2 ^ 21, true)]).isNone = true) ∧
    (let k := loadCmd 0
     let s := (ckptState k false).modPart 0 fun q => { q with step := { q.step with opened := some red4 } }
     stepB s k 0 0x415 = true ∧ k.loadPhase = 0) ∧
    (∀ b ∈ [false, true], let s := storeState b
      canonB s = true ∧ s.cmd? 0 1 = some (if b then (loadCmd 1).setLoadPhase 1 else (saveCmd 0 1).setSaved [0]) ∧ s.live (dieOfPort 2) = true ∧ (s.port 2).st = .up ∧ s.fabric.devId = 5) ∧
    (∀ m ∈ [storeMsg 0x203 [0, 0, 0, 0], storeMsg 0x203 [1, 0, 0, 0], storeMsg 0x202 [1, 2, 3, 4]],
      32 ≤ m.length ∧ crc32 (lay m 28 [0, 0, 0, 0]) = fld m 28 4 ∧ fld m 6 2 = 5 ∧ fld m 4 2 = 6 ∧ fld m 32 8 = 2 ∧ fld m 40 8 = 64) ∧
    ((saveCmd 0 1).setSaved [0]).saved 0 = true ∧ fld (storeMsg 0x203 [1, 0, 0, 0]) 48 1 = 1 ∧ ((loadCmd 1).setLoadPhase 1).loadPhase = 1 ∧
    (let s := storeState true
     64 / 2 ^ 21 < fld (loadMsg 1) 48 4 ∧ s.firstBad 0 true (granAddr 1 + 64) 4 = none ∧
     hdrOk ((s.wr 0 (granAddr 1 + 64) [1, 2, 3, 4]).bytes (granAddr 1 + 0xA0800) 64) = false) := by
  decide +kernel

/-! ## Commands of a partition, stack memory -/

/-- Queued command 1 heading queue 0 of partition 0, whose record gives it cluster 0, tile 0 and stack slots, its ring enabled. -/
def schedCfg : List Byte := msgOf 256 [(0, 1, 1), (16, 1, 1)]
def schedState (st : PState) (k : Cmd) : State :=
  (ringOn 0).setParts (tput .empty [] 0 { Part.empty with st := st, cfg := schedCfg, cmds := [k], nextCid := 9 })
def owned (s : State) : State := (s.setOwner 0 0).setOwner 1 0

def headsB (s : State) (k : Cmd) : Bool :=
  canonB s && s.startsCmds 0 && (s.headOf 0 0 == some k) && decide (((s.part 0).cmds.map (·.cid)).Nodup)
def startB (s : State) (k : Cmd) : Bool :=
  headsB s k && k.phase == .queued && k.out.isNone && k.deps.all (fun d => s.outcome 0 d == some 0) && s.gateOpen 0 k &&
    (s.tagAccess 0 (s.startRanges 0 k)).isNone && (s.startRefusal 0 k).isNone

theorem heads_of {s : State} {k : Cmd} (h : headsB s k = true) : Stated.Heads s 0 0 k := by
  simp only [headsB, Bool.and_eq_true, beq_iff_eq, decide_eq_true_eq] at h
  exact ⟨canon_of h.1.1.1, by decide, h.1.1.2, h.1.2, h.2⟩

theorem may_start {s : State} {k : Cmd} (h : startB s k = true) : Stated.MayStart s 0 0 k := by
  simp only [startB, Bool.and_eq_true, beq_iff_eq, Option.isNone_iff_eq_none, List.all_eq_true] at h
  obtain ⟨⟨⟨⟨⟨⟨h0, h1⟩, h2⟩, h3⟩, h4⟩, h5⟩, h6⟩ := h
  exact ⟨heads_of h0, h1, h2, h3, h4, h5, h6⟩

def stepQ : Cmd := cmdOf 1 0x410 cfgMsg
def fumQd : Cmd := cmdOf 1 0x381 amaxMsg
def kernQ : Cmd := cmdOf 1 0x203 (msgOf 128 [(48, 1, 0), (49, 1, 1), (50, 1, 1), (52, 4, 2), (56, 8, 0x100)])
def depQ : Cmd := { cmdOf 1 0x410 cfgMsg with deps := [3] }
def quenchQ : Cmd := { kernQ with phase := .quenched, units := [0] }
/-- A head whose dependency has no outcome yet; STEP_OPEN of a partition that has no step open but is not where it says. -/
def owedState : State := (schedState .running depQ).modRing 0 fun g => { g with opens := [(3, 9)] }
def lostQ : Cmd := cmdOf 1 0x411 (openMsg 7)
/-- Eight commands in the stack queue of a partition. -/
def fullQueue : State :=
  let s := owned (schedState .loaded fumQd)
  s.setStk { s.stk with fumQ := tput [] [] 0 (List.range 8) }
/-- Cluster 0 is wanted by a head of queue 1 with an earlier deadline, and held by a command with a later one, which 1 s of
work awaits. `q` adds to the record of the partition. -/
def wantQ : Cmd := { kernQ with deadline := 2000 }
def rival : Cmd := { kernQ with cid := 2, seq := 2, queue := 1, deadline := 1500 }
def holder (deadline : Nat) : Cmd := { kernQ with
  cid := 2, seq := 2, queue := 2, phase := .running, units := [0], deadline := deadline, bound := some 1000000000 }
def heldState (q : List (Nat × Nat × Nat)) (y : Cmd) : State := (owned (schedState .running wantQ)).modPart 0 fun x => { x with
  cfg := msgOf 256 ([(0, 1, 1), (16, 1, 1)] ++ q), cmds := [wantQ, y], save := [4, 5, 6, 7] }
def quenchCfg : List (Nat × Nat × Nat) := [(40, 1, 4), (44, 1, 1), (56, 2, 100), (80, 2, 100), (82, 2, 100)]

def depState : State := (schedState .running depQ).modRing 0 fun g => { g with hist := [(3, 8)] }

theorem wit_ready_commands_start :
    startB (owned (schedState .loaded stepQ)) stepQ = true ∧
    (startB (owned (schedState .loaded fumQd)) fumQd = true ∧ twf [] (owned (schedState .loaded fumQd)).stk.fumQ = true ∧
      (owned (schedState .loaded fumQd)).fumQ 0 0 = []) ∧
    (let s := owned (schedState .loaded kernQ)
     startB s kernQ = true ∧ s.unitsOf 0x203 kernQ.msg = [0] ∧ s.chosen 0 kernQ = true ∧ s.holders 0 [0] = []) ∧
    (headsB depState depQ = true ∧ depState.outcome 0 3 = some 8 ∧ (depState.part 0).pause = none) ∧
    (headsB owedState depQ = true ∧ owedState.outcome 0 3 = none ∧ depQ.phase = .queued ∧ depQ.out = none) ∧
    (let s := schedState .running lostQ
     headsB s lostQ = true ∧ lostQ.deps = [] ∧ s.gateOpen 0 lostQ = true ∧ (s.tagAccess 0 (s.startRanges 0 lostQ)).isNone = true ∧
     (s.startRefusal 0 lostQ).isSome = true ∧ (s.part 0).pause = none) ∧
    (startB fullQueue fumQd = true ∧ isFm fumQd.opcode = true ∧ (fullQueue.fumQ 0 0).length = 8) ∧
    (startB (heldState [] rival) wantQ = true ∧ (heldState [] rival).chosen 0 wantQ = false ∧
      (heldState [] rival).unitsOf 0x203 wantQ.msg = [0]) ∧
    (∀ x ∈ [([], holder 3000), (quenchCfg, holder 2000), (quenchCfg, holder 3000)], let s := heldState x.1 x.2
     startB s wantQ = true ∧ s.chosen 0 wantQ = true ∧ s.holders 0 [0] = [x.2] ∧ x.2.endTime = 1000000000 ∧
     ((s.part 0).quenchEn = decide (x.1 ≠ [])) ∧ 2000 - (s.boundNs 0 wantQ [0]).getD 0 < x.2.endTime ∧ x.2.out = none) ∧
    (let s := heldState quenchCfg (holder 3000)
     ((s.tSave 0 [0]).map fun x => decide (s.dev.time + x < 1000000000)) = some true) ∧
    (let s := schedState .running quenchQ
     headsB s quenchQ = true ∧ s.chosen 0 quenchQ = true ∧ s.holders 0 quenchQ.units = []) := by decide +kernel

theorem wit_ready_rings : Stated.RingFree depState 0 ∧ Stated.RingFree (schedState .running lostQ) 0 :=
  ⟨free_ring _ _ (by decide +kernel), free_ring _ _ (by decide +kernel)⟩

/-- A finished command, late or in time. -/
def finished (deadline : Nat) : Cmd := { cmdOf 1 0x203 [] with
  phase := .running, start := 500, deadline := deadline, wasQuenched := true, out := some ⟨0, 0, 0, 5, []⟩ }

theorem wit_completions_are_answered :
    (∀ d ∈ [999, 1000], let s := schedState .running (finished d)
      canonB s = true ∧ s.cmd? 0 1 = some (finished d) ∧ ((s.part 0).cmds.map (·.cid)).Nodup ∧ (s.part 0).pause = none ∧
      (s.part 0).st = .running) ∧
    Stated.RingFree (schedState .running (finished 999)) 0 ∧ Stated.RingFree (schedState .running (finished 1000)) 0 :=
  ⟨by decide +kernel, free_ring _ _ (by decide +kernel), free_ring _ _ (by decide +kernel)⟩

def savingQ : Cmd := { kernQ with phase := .saving, units := [0], quenchAt := 900 }
/-- A command on tile 0 that is being restored, its save area granules 4 and 5. -/
def restoringQ : Cmd := { kernQ with
  phase := .restoring, units := [256], quenchAt := 900, images := [(256, SeqUnit.image { SeqUnit.reset with run := .running, imem := [0] })] }
def restoreBase : State := (((ringOn 0).setParts (tput .empty [] 0
  { Part.empty with
    st := .running, cfg := msgOf 256 [(16, 1, 1)], cmds := [restoringQ], nextCid := 9, save := [4, 5] })).setOwner 4 0).setOwner 5 0
def saveState : State := [4, 5, 6, 7].foldl (fun s g => s.setOwner g 0)
  ((schedState .running savingQ).modPart 0 fun q => { q with save := [4, 5, 6, 7] })
def restoreState : State := restoreBase.setBytes 8388608 ((List.range (saveBytes 256)).map (savedByte 0))

theorem wit_saves :
    (let s := saveState
     canonB s = true ∧ s.cmd? 0 1 = some savingQ ∧ ((s.part 0).cmds.map (·.cid)).Nodup ∧ s.cmdLive savingQ = true ∧
     (s.part 0).pause = none ∧ (s.unit 0).arrs = [] ∧ (s.unit 0).tnds = [] ∧ (s.unit 0).started = [] ∧
     (s.badRange 0 (s.saveRanges 0 true savingQ.units)).isNone = true) ∧
    (let s := restoreBase
     canonB s = true ∧ s.cmd? 0 1 = some restoringQ ∧ ((s.part 0).cmds.map (·.cid)).Nodup ∧ s.cmdLive restoringQ = true ∧
     (s.part 0).pause = none ∧ (s.part 0).st = .running ∧ restoringQ.images.map (·.1) = restoringQ.units ∧
     (∀ y ∈ (s.part 0).cmds, y.phase ≠ .queued) ∧ s.saveEntries 0 256 = (0, 2) ∧
     (s.tagAccess 0 (s.saveRanges 0 false restoringQ.units)).isNone = true ∧ isKernel restoringQ.opcode = true ∧
     (∀ e ∈ restoringQ.images, e.2.run = .running ∧ e.2.seq.pc.toNat < e.2.imem.length ∧ fld restoringQ.msg 64 4 = 0) ∧ (s.unit 256).saveSeed = 0) := by decide +kernel

theorem setBytes_only_mem (s : State) (a : Nat) (bs : List Byte) :
    s.setBytes a bs = { s with mem := (s.setBytes a bs).mem } := by
  induction bs generalizing s a with
  | nil => rfl
  | cons x r ih =>
    rw [State.setBytes, ih]
    rfl

theorem setBytes_same (s : State) (a : Nat) (bs : List Byte) :
    (s.setBytes a bs).parts = s.parts ∧ (s.setBytes a bs).units = s.units ∧ (s.setBytes a bs).dev = s.dev ∧
      (∀ p u i, (s.setBytes a bs).saveAddr p u i = s.saveAddr p u i) ∧ ∀ u, (s.setBytes a bs).unit u = s.unit u := by
  rw [setBytes_only_mem]
  exact ⟨rfl, rfl, rfl, fun _ _ _ => rfl, fun _ => rfl⟩

/-- Bytes of a run laid down read back. -/
theorem laid_reads {s : State} (h : Memory.wf s.mem = true) (a n i : Nat) (f : Nat → Byte) (hi : i < n) :
    (s.setBytes a ((List.range n).map f)).byte (a + i) = f i := by
  rw [State.byte_setBytes h, if_pos (by simp only [List.length_map, List.length_range]; omega),
    show a + i - a = i by omega, List.getD_eq_getElem?_getD, List.getElem?_map, List.getElem?_range hi]
  rfl

theorem restore_addr (i : Nat) (hi : i < 2101248) : restoreBase.saveAddr 0 256 i = 8388608 + i := by
  have f : restoreBase.saveEntries 0 256 = (0, 2) := by decide +kernel
  have g : (restoreBase.part 0).save = [4, 5] := by decide +kernel
  rw [State.saveAddr, f, g]
  have : i / 2 ^ 21 = 0 ∨ i / 2 ^ 21 = 1 := by omega
  rcases this with h | h <;> simp only [h, nth, granAddr] <;> simp <;> omega

theorem wit_restores :
    restoreState.Canon ∧ restoreState.parts = restoreBase.parts ∧ restoreState.units = restoreBase.units ∧
    restoreState.dev = restoreBase.dev ∧
    ∀ i, i < saveBytes 256 → restoreState.byte (restoreState.saveAddr 0 256 i) = savedByte (restoreState.unit 256).saveSeed i := by
  have c : restoreBase.Canon := canon_of wit_saves.2.1
  have ⟨h1, h2, h3, h4, h5⟩ := setBytes_same restoreBase 8388608 ((List.range (saveBytes 256)).map (savedByte 0))
  refine ⟨((Keeps.refl (b := false)).setBytes.1.2.2 c).1, h1, h2, h3, fun i hi => ?_⟩
  have hs : (restoreBase.unit 256).saveSeed = 0 := by decide +kernel
  unfold restoreState
  rw [h4, h5, hs, restore_addr i hi]
  exact laid_reads c.mem _ _ _ _ hi

def endState (st : PState) : State :=
  owned ((schedState st { cmdOf 1 0x410 [] with queue := 7 }).modPart 0 fun q => { q with tearing := decide (st = .faulted) })

theorem wit_partitions_fault_and_end :
    ∀ st ∈ [PState.loaded, .running, .paused, .draining, .faulted], let s := endState st
      canonB s = true ∧ s.dev.state = .ready ∧ (s.part 0).st = st ∧ (st = .faulted → (s.part 0).tearing = true) ∧
      ((s.part 0).cmds.map (·.cid)).Nodup ∧ (∀ k ∈ (s.part 0).cmds, k.queue < 8) := by decide +kernel

/-- Granule 0 of partition 0 (running), granule 1 leaving it, granule 2 retired and leaving it, granule 3 to be scrubbed, teacher granule 4 leaving. -/
def granState : State :=
  ((((((withCmds []).setOwner 3 0xD).setGran 1 { owner := 0, retired := false, releasing := true })).setGran 2
    { owner := 0, retired := true, releasing := true }).setGran 4 { owner := 9, retired := false, releasing := true }).wr 0 5 [1, 2, 3]

theorem wit_granules_and_transactions :
    (let s := granState
     canonB s = true ∧ s.stk.frees = [] ∧ (s.gran (granKey 0 1)).releasing = true ∧ (s.gran (granKey 0 2)).releasing = true ∧
     (s.gran (granKey 0 3)).owner = 0xD ∧ s.gran (granKey 0 4) = { owner := 9, retired := false, releasing := true } ∧
     (∀ g ∈ [1, 2], (s.gran (granKey 0 g)).owner ≠ 9) ∧ s.firstBad 0 true 4 8 = none ∧ s.firstBad 0 false 4 8 = none ∧
     s.poisoned [(4, 8, false)] = none ∧ s.firstBad 0 true 0x7FFFF8 16 = some 0x7FFFF8 ∧
     s.firstBad 0 false 0x600000 8 = some 0x600000 ∧ (s.part 0).st = .running) := by decide +kernel

/-! ## Serving, failures, health -/

/-- Role 0, trees of one node, one slot, contexts of 100 tokens, chunks of 2, two KV groups, a vocabulary of 8. -/
def svRec : List Byte := msgOf 96 [(0, 1, 0), (3, 1, 1), (4, 2, 1), (8, 4, 100), (12, 4, 2), (16, 4, 2), (20, 4, 8)]
/-- Request 5: a prompt of three tokens at 0x100, at most 9 new ones, greedy, no stop tokens. -/
def rqDesc : List Byte :=
  msgOf 128 ([(0, 4, 5), (24, 4, 3), (28, 4, 9), (32, 8, 0x100)] ++ (List.range 8).map fun i => (68 + 4 * i, 4, 0xFFFFFFFF))
def newReq (st : ReqState) (f : Req → Req) : Req :=
  f { Req.new rqDesc 0 with state := st, slot := some 0, pages := [(0, [0])], fresh := [1] }
def svWith (f : Serving → Serving) : Serving := f ⟨svRec, [], [], [], [], [], [], [], [], 0, 7⟩
def servState (v : Serving) : State := (withCmds []).modPart 0 fun q => { q with serving := some v }

def turnB (v : Serving) (r : Req) : Bool :=
  let s := servState v
  canonB s && s.dev.state == .ready && (s.part 0).st == .running && ((s.part 0).serving == some v) &&
    (v.reqs.find? (fun x => rqId x.desc == 5) == some r) && !r.stepped && s.live 0 && (s.part 0).pause.isNone

def preReq (n : Nat) : Req := newReq .prefill fun r => { r with filled := n, committed := n }
def runReq (f : Req → Req) : Req := newReq .running fun r => f { r with committed := 3, filled := 3, made := 1, pending := some 2 }
def withReq (r : Req) : Serving := svWith fun v => { v with reqs := [r] }

/-- Role 2: the tree of node 0 and its two children, drafted from `st`; a slot map of 63 slots leaves the children to the
fresh group. -/
def drafted (f : Req → Req) : Serving := svWith fun v => { v with
  cfg := lay (lay svRec 0 [2]) 3 [3], tree := [0xFF, 0, 0], reqs := [runReq f] }
def logit (i : Nat) : List Word := (List.range 8).map fun k => if k = i then 0x3F800000 else 0

/-- What a turn may reach where there are no layers. -/
def walkB (v : Serving) (r : Req) (lg st : List (List Word)) : Bool :=
  ((servState v).tagAccess 0 (v.rowRanges (v.nodeSlots r) ++
    ((v.walk r (servState v).fresh lg st).1.pages.drop (r.pages.length - 1)).flatMap v.mapRanges ++ v.tableRanges r)).isNone

theorem wit_walks_with_drafts :
    (∀ r ∈ [runReq id, runReq fun r => { r with pages := [(0, List.range 63)] }], let v := { drafted id with reqs := [r] }
      turnB v r = true ∧ (v.places r).length = 3 ∧ r.pages.getLast?.isSome = true ∧ (fl (rqW r.desc 40)).isZero = true ∧
      walkB v r [logit 3, logit 4, logit 5] [logit 3, logit 3, logit 3] = true) ∧
    walkB (withReq (runReq id)) (runReq id) [logit 3] [] = true := by decide +kernel

theorem wit_serving_steps_draw_tokens :
    ([preReq 0, preReq 2, runReq id].all fun r => turnB (withReq r) r) = true ∧
    (∀ r ∈ [preReq 0, preReq 2], r.state = .prefill ∧ r.copying = false) ∧
    (∀ r ∈ [preReq 0, preReq 2], let v := withReq r
      ((servState v).tagAccess 0 ((fld rqDesc 32 8, 4 * rqPrompt rqDesc, false) ::
        (v.rowRanges [(1, 0), (1, 1)] ++ v.mapRanges (1, [0, 1]) ++ v.tableRanges r))).isNone = true) ∧
    ((preReq 0).prefillToks ((servState (withReq (preReq 0))).promptOf 0 rqDesc)).length = 3 ∧
    svRole svRec ≠ 2 ∧ (runReq id).state = .running ∧ ((withReq (runReq id)).places (runReq id)).length = 1 := by decide +kernel

def keptConv (e : Option Nat) (forget : Bool) : Conv := ⟨1, 0, e, [], 3, none, [], false, [], forget, 5, false, none⟩
/-- One layer of one head of 64 columns on stack 0, in granules 1 and 2. -/
def layered (f : Serving → Serving) : Serving := svWith fun v => f { v with layers := [[0, 0, 1, 6, 3, 0, 0, 0]], kv := [1, 2] }
def copied : Serving := layered fun v => { v with
  copies := [(5, [(0, 3)], [1])], reqs := [newReq .paused fun r => { r with copying := true }] }
def restored : Serving := layered fun v => { v with reqs := [newReq .prefill fun r => { r with copying := true, cells := [3] }] }
def convs : Serving := svWith fun v => { v with
  convs := [keptConv none true, keptConv (some 5) false, keptConv (some 5000) false], returning := [1], free := [0] }

/-- A request that waits, on a serving partition whose ring takes VENT_STEP_TOKENS; `f` groups are free, one returns. -/
def waitingReq (f : List Nat) : Serving := svWith fun v => { v with reqs := [Req.new rqDesc 5], free := f, returning := [1] }
def servOn (v : Serving) : State := [0, 1, 2].foldl (fun s g => s.setOwner g 0)
  ((ringOn 0).modPart 0 fun q => { q with st := .running, serving := some v })
/-- Two sequences that run, the older one's page full, and no group free; an arena of two cells. -/
def elder : Req := runReq fun r => { r with pages := [(0, List.range 64)], fresh := [], stepped := true, out := [3] }
def junior : Req := runReq fun r => { r with
  desc := lay rqDesc 0 [6], accepted := 9, slot := some 1, pages := [(1, [0])], fresh := [], stepped := true }
def crowded : Serving := layered fun v => { v with
  cfg := lay (lay v.cfg 40 (leBytes 8 hostBase)) 48 (leBytes 8 0x100000), reqs := [elder, junior] }

theorem wit_admission_and_eviction :
    (∀ f ∈ [[0], []], let s := servOn (waitingReq f)
      canonB s = true ∧ freeB s 0 = true ∧ (s.part 0).serving = some (waitingReq f) ∧ (s.part 0).st = .running ∧ s.live 0 = true ∧
      (s.part 0).pause = none ∧ (s.ring 0).neg = true ∧ bit (s.ring 0).feat 0 = true ∧
      (s.tagAccess 0 ((waitingReq f).tableRanges { Req.new rqDesc 5 with slot := some 0 })).isNone = true) ∧
    (rqResume rqDesc = false ∧ svSlots svRec = 1 ∧ cdiv (rqPrompt rqDesc) 64 + 1 = 2 ∧ (waitingReq []).step = 7) ∧
    (let v := crowded
     canonB (servState v) = true ∧ ((servState v).part 0).pause = none ∧ v.stepDone = true ∧ v.needsFresh elder = true ∧
     v.tableFull junior = false ∧ older elder junior = true ∧ rqId elder.desc ≠ rqId junior.desc ∧
     (v.takeCells junior.pages.length).isSome = true ∧ ((servState v).tagAccess 0 (v.tableRanges elder)).isNone = true) := by
  decide +kernel

theorem wit_boundaries_and_copies :
    (let v := withReq (runReq fun r => { r with stepped := true, ended := true, out := [2] })
     canonB (servState v) = true ∧ v.stepDone = true ∧ ((servState v).part 0).st = .running ∧ (servState v).live 0 = true ∧
     ((servState v).tagAccess 0 ((v.boundary ((servState v).part 0).variant (servState v).dev.time).reqs.flatMap v.tableRanges)).isNone = true) ∧
    (canonB (servState convs) = true ∧ convs.reqs = []) ∧
    (canonB (servState copied) = true ∧ ((servState copied).tagAccess 0 (copied.pageRanges [(0, 3)] false)).isNone = true ∧ copied.copies.find? (fun x => x.1 == 5) = some (5, [(0, 3)], [1]) ∧
      (copied.reqs.find? (fun x => rqId x.desc == 5)).map (·.state) = some .paused) ∧
    (canonB (servState restored) = true ∧ ((servState restored).tagAccess 0 (restored.pageRanges [(0, 3)] true)).isNone = true ∧
      (restored.reqs.find? (fun x => rqId x.desc == 5)).map (fun r => (r.state, r.copying)) = some (.prefill, true)) := by
  decide +kernel

/-- Partition 0 running on cluster 0 and tile 0, with segments 0 to 63 of Sprue 0 and buffers 0 to 7 of Ladle 0. -/
def unitState : State :=
  let s := (endState .running).modPart 0 fun q => { q with cfg := lay q.cfg 36 [8, 8] }
  s.setSprue { s.sprue with slices := tput 0 [] 0 64 }

theorem wit_unit_errors_are_recorded :
    (let s := unitState
     canonB s = true ∧ s.ownerOf 0 = 0 ∧ s.ownerOf 256 = 0 ∧ (s.part 0).st.faultable = true ∧ (s.part 0).st = .running ∧
     s.sliceCount 0 0 = 64 ∧ (s.part 0).ladleBufs 0 = 8) := by decide +kernel

/-- Die 0 in T3 with 99 cool samples, stack 0 trained at level 2 with 63 cool frames, the array clock at 1600 of 1000 asked. -/
def hotState : State :=
  ((ready.modDie 0 fun x => { x with therm := { x.therm with st := 3, low := 99, freq := 1600 } }).modStack 0 fun x => { x with
    trained := true, level := 2, below := 63 }).setPg .clk 0 0x44 1000
/-- Sensors of a die: temperatures `c` in quarter degrees, every rail at 800 mV. -/
def sensors (c : Nat) : List Nat := List.replicate 12 c ++ List.replicate 12 40 ++ List.replicate 44 800

theorem wit_clocks_and_temperatures :
    (let s := hotState
     canonB s = true ∧ s.live 0 = true ∧ 3 ≤ s.dev.phase ∧ s.dev.failed = false ∧ s.dev.state = .ready ∧
     (∀ e ∈ [0, 1], (s.die e).auth.inSafe = false) ∧ (s.die 0).therm.st = 3 ∧ (s.die 0).therm.low = 99 ∧
     (∀ p, p < 9 → (s.part p).cmds = []) ∧ (s.stack 0).trained = true ∧ (s.stack 0).level ≤ 3 ∧
     min (min (s.pg .clk 0 0x44) (s.arrayFmax 0)) (if (s.die 0).therm.ceiling = 0 then 1600 else (s.die 0).therm.ceiling) ≠
       (s.die 0).therm.freq) ∧
    (∀ i, i < 12 → 4 * 104 ≤ (sensors 420).getD i 0 ∧ (sensors 300).getD i 0 < 4 * 101) ∧
    (∀ i ∈ [12, 13, 14, 15, 16, 17, 18, 19, 20, 21, 22, 23], (sensors 300).getD i 0 < 102) ∧
    railIn 0 (((sensors 300).take 68).getD 24 0) = false := by decide +kernel

/-- The Assay with the slice of target `t` in progress, `n` the next. -/
def assayState (t : Option Nat) (n : Nat) : State := { ready with health := { ready.health with slice := t, next := n } }

/-- Lane 1 of port 0 is looped for its slice: a native port, or one on Ethernet. -/
def loopState (eth : Nat) : State := ((assayState (some 0xE9) 7).modPort 0 fun x => { x with
  st := if eth = 1 then .up else .handover, looped := 1 }).setPg .port 0 0x40 eth

theorem wit_assay_and_plls :
    (∀ t ∈ [none, some 3, some 0x30, some 0x90, some 0xE0, some 0xE9], canonB (assayState t 7) = true ∧ (assayState t 7).dev.state = .ready ∧
      (assayState t 7).health.rotations < 2 ^ 23 - 1 ∧ twf 0 (assayState t 7).health.fails = true ∧
      twf (0, 0, 0) (assayState t 7).health.fail = true) ∧
    (∀ e ∈ [0, 1], let s := loopState e
      canonB s = true ∧ s.health.slice = some 0xE9 ∧ s.isEth 0 = decide (e = 1) ∧ (s.port 0).st = (if e = 1 then .up else .handover) ∧
      (s.port 0).looped = 1 ∧ (s.port 0).spared = 15 ∧ (s.port 0).sparing = 15 ∧ 8 ∉ (s.port 0).badLanes) ∧
    (∀ e, e < 2 → (ready.die e).auth.inSafe = false) ∧
    (assayClass 7 = 1 ∧ assayClass 379 ≠ 7 ∧ assayClass 3 = 1 ∧ assayClass 0x30 = 3 ∧ assayClass 0x90 = 5 ∧ assayClass 0xE0 = 6 ∧
      assayClass 0xE9 = 7) ∧ 1 ≤ ready.dev.phase := by
  decide +kernel

/-! ## Partition, memory and control messages -/

/-- Partition 1 in a state, on the management ring; `f` changes it. -/
def mgt (st : PState) (f : Part → Part) : State :=
  (ringOn 8).setParts (tput .empty [] 1 (f { Part.empty with st := st, cfg := schedCfg }))
def mgtMsg (op n : Nat) (b : List Byte) : List Byte := hostMsg 0x32 1 op 0 n b
/-- The record of PART_CFG: cluster 0, tile 0, a slice of 64 segments, 8 Ladle buffers, stack slots 0 and 1 of stack 0. -/
def partRec : List Byte := msgOf 256 [(0, 1, 1), (16, 1, 1), (32, 2, 64), (36, 1, 8), (38, 2, 1), (120, 4, 3)]
def cfgPart : Part := { Part.empty with st := .configured, cfg := partRec }

def messaged (s : State) (r op : Nat) (m : List Byte) : Bool := sentB s r op m && (s.judge r m).isNone && (s.ring r).expSeq == fld m 8 4

theorem sent_by {s : State} {r op : Nat} {m : List Byte} (h : messaged s r op m = true) : Stated.Sent s r op m := by
  simp only [messaged, Bool.and_eq_true, Option.isNone_iff_eq_none, beq_iff_eq] at h
  exact sent_of h.1.1 h.1.2 h.2

def runningCmd : Cmd := started 0x203 []
def savingCmd : Cmd := { started 0x414 [] with units := [] }

theorem wit_partition_messages_act :
    (let s := mgt .empty id
     messaged s 8 0x100 (mgtMsg 0x100 5 partRec) = true ∧ (s.part 1).st = .empty ∧
     slice (mgtMsg 0x100 5 partRec) 16 256 = partRec ∧ s.placeSave cfgPart = some [] ∧ s.partLacks cfgPart = false ∧
     (∀ n, n < 12 → twf 0xF (s.stack n).slots = true)) ∧
    messaged (mgt .configured id) 8 0x101 (mgtMsg 0x101 1 []) = true ∧
    (messaged (mgt .running id) 8 0x102 (mgtMsg 0x102 1 []) = true ∧ ((mgt .running id).part 1).cmds = []) ∧
    (let s := mgt .running fun x => { x with cmds := [runningCmd] }
     messaged s 8 0x102 (mgtMsg 0x102 1 []) = true ∧ runningCmd.phase = .running ∧ runningCmd.units ≠ [] ∧ savingCmd.phase = .running ∧
     savingCmd.units = [] ∧ (s.part 1).quenchEn = false ∧
     (s.part 1).pause = none) ∧
    messaged (mgt .paused id) 8 0x103 (mgtMsg 0x103 1 []) = true ∧
    (messaged (mgt .configured id) 8 0x104 (mgtMsg 0x104 1 []) = true ∧ (mgt .configured id).stk.frees = []) ∧
    (∀ st ∈ [PState.loaded, .running, .paused], messaged (mgt st id) 8 0x104 (mgtMsg 0x104 1 []) = true) ∧
    (∀ st ∈ [PState.loaded, .faulted, .running], messaged (mgt st id) 8 0x105 (mgtMsg 0x105 1 []) = true ∧
      ((mgt st id).part 1).tearing = false ∧ ((mgt st id).part 1).cmds = [] ∧ (mgt st id).part 1 = { (mgt st id).part 1 with serving := none }) ∧
    fld (mgtMsg 0x105 1 []) 1 1 = 1 := by decide +kernel

/-- Stack 0's granules 1 and 2, listed at host address 0x40000, for partition 1 or, by `o` 8, the teacher. -/
def listMsg (op o : Nat) : List Byte := hostMsg 0x32 0xFF op 0 1 (msgOf 16 [(0, 1, 0), (1, 1, o), (4, 4, 2), (8, 8, hostBase + 0x40000)])
def listState (o : Nat) : State :=
  (((mgt .configured id).setHostBytes 0x40000 [1, 0, 2, 0]).setOwner 1 o).setOwner 2 o
def listedB (s : State) (m : List Byte) : Bool :=
  let la := fld m 24 8
  let gs := (List.range (fld m 20 4)).map fun i => leNat (s.rd 8 (la + 2 * i) 2)
  !reservedAddr la (2 * fld m 20 4) && (s.poisoned [(la, 2 * fld m 20 4, false)]).isNone && (s.firstBad 8 false la (2 * fld m 20 4)).isNone && gs == [1, 2] &&
    (s.part 1).st == .configured && !(s.stack 0).sealed && !(s.stack 0).sealing &&
    decide (fld m 16 1 = 0 ∧ (fld m 17 1 = 1 ∨ fld m 17 1 = 8) ∧ fld m 18 2 = 0)
def sealMsg (op : Nat) : List Byte := hostMsg 0x32 0xFF op 0 1 []
def sealedState (b : Bool) : State :=
  ((ringOn 8).setOwner 7 (if b then 9 else 8)).modStack 0 fun x => { x with sealed := b }

theorem wit_memory_messages_act :
    (∀ o ∈ [1, 8], (messaged (listState 0xF) 8 0x110 (listMsg 0x110 o) && listedB (listState 0xF) (listMsg 0x110 o)) = true ∧
      (messaged (listState o) 8 0x111 (listMsg 0x111 o) && listedB (listState o) (listMsg 0x111 o)) = true ∧
      ∀ g ∈ [1, 2], ((listState o).gran g).owner = o ∧ ((listState o).gran g).releasing = false) ∧
    ((listState 0xF).gran 1).owner = 0xF ∧ ((listState 0xF).gran 2).owner = 0xF ∧
    (messaged (sealedState false) 8 0x118 (sealMsg 0x118) = true ∧ ((sealedState false).stack 0).sealed = false ∧
      ((sealedState false).stack 0).sealing = false ∧ ((sealedState false).gran 7).owner = 8) ∧
    (messaged (sealedState true) 8 0x119 (sealMsg 0x119) = true ∧ ((sealedState true).stack 0).sealed = true ∧
      ((sealedState true).stack 0).sealing = false ∧ ∀ p, p < 8 → ((sealedState true).part p).trUse = false) := by decide +kernel

/-- Partition 0's own ring, the partition RUNNING on granules 0 to 2 with one sequence slot. -/
def own (f : Part → Part) : State :=
  [0, 1, 2].foldl (fun s g => s.setOwner g 0) ((ringOn 0).setParts (tput .empty [] 0
    (f { Part.empty with st := .running, cfg := msgOf 256 [(38, 2, 1)] })))
def ownMsg (op n : Nat) (b : List Byte) : List Byte := hostMsg 0x32 0 op 0 n b
def epochMsg : List Byte := ownMsg 0x402 1 (msgOf 48 [(0, 4, 4), (4, 2, 2), (6, 2, 1), (8, 1, 0x31), (12, 4, 100), (16, 8, 0x100)])
/-- Members 5 and 6, standby 9, at 0x100; this is device 5. -/
def epochState : State :=
  let s := (own id).wr 0 0x100 [5, 0, 6, 0, 9, 0]
  s.setFabric { s.fabric with devId := 5 }
def tapMsg : List Byte := ownMsg 0x413 1 (leBytes 8 2)
def tapState : State := own fun x => { x with step := { x.step with tapIdx := 4, tapFree := 1 } }
/-- One layer of one head of 64 columns on stack 0, KV granules 1 and 2; contexts of 128 tokens, chunks of 64, two groups. -/
def cfgRec : List Byte := msgOf 96 [(0, 1, 0), (3, 1, 1), (4, 2, 1), (6, 2, 1), (8, 4, 128), (12, 4, 64), (16, 4, 2), (20, 4, 8), (24, 8, 0x100),
  (32, 8, 0x180), (40, 8, hostBase), (56, 8, 0x200), (64, 4, 2)]
def svMsg : List Byte := ownMsg 0x500 2 cfgRec
def svState : State :=
  (((own id).wr 0 0x100 [0, 0, 1, 6, 3]).wr 0 0x180 [0xFF]).wr 0 0x200 [1, 0, 0, 0, 2]
def offMsg : List Byte := ownMsg 0x500 2 (lay cfgRec 0 [0xFF])
def rqOk : List Byte := msgOf 128 ([(0, 4, 5), (24, 4, 3), (28, 4, 9), (32, 8, 0x100), (44, 4, 0x3F800000), (56, 4, 0x3F800000)] ++
  (List.range 8).map fun i => (68 + 4 * i, 4, 0xFFFFFFFF))
/-- A request, and the same with RESUME of conversation 0. -/
def subMsg : List Byte := ownMsg 0x502 3 rqOk
def resMsg : List Byte := ownMsg 0x502 3 (lay rqOk 0 [5, 0, 0, 0, 0, 2])
def serving (f : Serving → Serving) : State := own fun x => { x with serving := some (svWith f) }
def asked : State := serving fun v => { v with reqs := [newReq .running id] }
def kept : State := serving fun v => { v with convs := [keptConv none false] }
def canMsg : List Byte := ownMsg 0x503 1 (leBytes 4 5)
def forMsg : List Byte := ownMsg 0x504 1 (leBytes 4 1)
def pausedOwn : State := own fun x => { x with st := .paused }

theorem wit_own_ring_messages_act :
    ((messaged epochState 0 0x402 epochMsg = true ∧ (epochState.tagAccess 0 [(0x100, 6, false)]).isNone = true ∧
      (List.range 3).map (fun i => leNat (epochState.rd 0 (0x100 + 2 * i) 2)) = [5, 6, 9] ∧
      (epochState.part 0).ladle.epoch < 4 ∧ (epochState.part 0).ladle.future = [] ∧
      (epochState.part 0).ladle.colls = [] ∧ (epochState.part 0).step.opened = none ∧ (epochState.part 0).step.sealing = none) ∧
    (messaged tapState 0 0x413 tapMsg = true ∧ fld tapMsg 16 8 < (tapState.part 0).step.tapIdx ∧ (tapState.part 0).step.held = none) ∧
    (messaged svState 0 0x500 offMsg = true ∧ svRole (slice offMsg 16 96) = 0xFF ∧
      (slice offMsg 16 96).drop 1 = cfgRec.drop 1) ∧
    (messaged svState 0 0x500 svMsg = true ∧ slice svMsg 16 96 = cfgRec ∧ (svState.part 0).serving = none ∧
      layersOrdered [svState.rd 0 0x100 8] = true ∧
      (svState.tagAccess 0 [(0x100, 8, false), (0x180, 1, false), (0x200, 8, false)]).isNone = true ∧
      layerOk (svState.rd 0 0x100 8) = true ∧ treeOk [0xFF] = true ∧ svState.rd 0 0x180 1 = [0xFF] ∧
      (∀ k ∈ [1, 2], keyOk k = true ∧ (svState.gran k).owner = 0) ∧
      (List.range 2).map (fun i => svState.rdU 0 (0x200 + 4 * i) 4) = [1, 2] ∧ (svState.part 0).slots = 1)) ∧
      ∀ n, n < 12 → ∃ g, stackNeed cfgRec [svState.rd 0 0x100 8] n = some g ∧ g ≤ count (fun k => k / 2 ^ 16 == n) [1, 2] := by
  refine ⟨by decide +kernel, fun n hn => ?_⟩
  have h : ∀ n, n < 12 → stackNeed cfgRec [svState.rd 0 0x100 8] n = some (if n = 0 then 2 else 0) := by decide +kernel
  refine ⟨_, h n hn, ?_⟩
  split
  · subst n
    decide
  · exact Nat.zero_le _

theorem wit_own_ring_requests :
    (messaged (serving id) 0 0x502 subMsg = true ∧ slice subMsg 16 128 = rqOk ∧ rqResume rqOk = false ∧
      ((serving id).tagAccess 0 [(0x100, 12, false)]).isNone = true ∧ (∀ k ∈ (serving id).promptOf 0 rqOk, k < 8)) ∧
    (let c := { keptConv (some 5000) false with conv := 0 }
     let s := serving fun v => { v with convs := [c] }
     let d := slice resMsg 16 128
     messaged s 0 0x502 resMsg = true ∧ rqResume d = true ∧ rqConv d = 0 ∧ (s.tagAccess 0 [(0x100, 12, false)]).isNone = true ∧
     (∀ k ∈ s.promptOf 0 d, k < 8) ∧ c.variant = (s.part 0).variant ∧ c.holder = none ∧ s.dev.time < 5000) ∧
    (messaged asked 0 0x503 canMsg = true ∧ fld canMsg 16 4 = 5) ∧ (messaged kept 0 0x504 forMsg = true ∧ fld forMsg 16 4 = 1) ∧
    (∀ e ∈ [(0x402, epochMsg), (0x413, tapMsg), (0x500, offMsg), (0x502, subMsg), (0x503, canMsg), (0x504, forMsg)],
      messaged pausedOwn 0 e.1 e.2 = true) := by decide +kernel

/-! ## Resets, bring-up, authority, parting line -/

/-- Fuse words of an area that hold its bytes and their CRC. -/
def area (off : Nat) (b : List Byte) : Tbl Word :=
  let c := b ++ leBytes 4 (crc32 b)
  ((List.range (c.length / 4)).map fun i => (off / 4 + i, BitVec.ofNat 32 (fld c (4 * i) 4))).filter fun e => e.2 != 0

/-- The fuses of a die as made: identity and trim of zeros, configuration generation 0 of a role. -/
def madeFuses (role : Byte) : Tbl Word :=
  area 0 (List.replicate 252 0) ++ area 0x100 (List.replicate 508 0) ++
    area 0xB40 ([1, 0, role, 0] ++ List.replicate 248 0)

/-- Bring-up has come to a phase. -/
def inPhase (n : Nat) : State :=
  { State.reset with dev := { Dev.reset with state := .assay, timeRun := true, phase := n, sysRst := false } }

/-- Phase 2 of a device as made: West primary. -/
def sensing : State :=
  ((inPhase 2).modDie 0 fun x => { x with
    otp := { x.otp with words := madeFuses 1 }, auth := { x.auth with primarySel := true } }).modDie 1 fun x =>
    { x with otp := { x.otp with words := madeFuses 2 } }

theorem wit_resets : State.reset.dev.rails = true ∧ ready.dev.sysRst = false ∧ State.reset.dev.sysRst = true ∧
    ready.dev.state = .ready ∧ ready.hostPort = true := by decide +kernel

set_option maxRecDepth 1000000 in
theorem wit_power : ready.Canon ∧ (after .powerOff ready).Canon ∧ ready.dev.hostRdy = true ∧
    (ready.setDev { ready.dev with phase := 7 }).dev.phase = 7 ∧ (after .powerOff ready).dev.rails = false :=
  ⟨canon_of (by decide +kernel), canon_of (by decide +kernel), by decide +kernel⟩

theorem phase_of (n : Nat) (h : canonB (inPhase n) = true) : Stated.Phase (inPhase n) n := ⟨canon_of h, rfl, rfl, rfl⟩

set_option maxRecDepth 1000000 in
theorem wit_first_phases :
    Stated.Phase (inPhase 1) 1 ∧ Stated.Phase (inPhase 2) 2 ∧ Stated.Phase sensing 2 ∧ 0xE % 16 / 2 = 7 ∧
    (let w := (inPhase 2).west.otp.sense true
     (w.idOk && w.trimOk) = false) :=
  ⟨phase_of 1 (by decide +kernel), phase_of 2 (by decide +kernel), ⟨canon_of (by decide +kernel), rfl, rfl, rfl⟩, by decide +kernel⟩

set_option maxRecDepth 1000000 in
theorem wit_sensed :
    (let w := sensing.west.otp.sense true
     let e := sensing.east.otp.sense false
     (w.idOk && w.trimOk && e.idOk && e.trimOk) = true ∧ w.cfgGen ≠ 7 ∧ e.cfgGen ≠ 7 ∧
      leNat (fuseBytes w.sensed (0xB40 + w.cfgGen * 0x100 + 2) 1) = 1 ∧
      leNat (fuseBytes e.sensed (0xB40 + e.cfgGen * 0x100 + 2) 1) = 2 ∧ sensing.west.auth.primarySel = true ∧
      sensing.east.auth.primarySel = false) := by decide +kernel

/-- Phase 6, both dies with three matching words. -/
def phase6 : State :=
  ((inPhase 6).modDie 0 fun x => { x with auth := { x.auth with matches' := 3, claim := true } }).modDie 1 fun x =>
    { x with auth := { x.auth with matches' := 3 } }
/-- Two failed wires of group 3 from West to East and one of group 255 the other way. -/
def wires : List (Nat × Nat × Nat) := [(0, 3, 5), (0, 3, 127), (1, 255, 0)]
/-- In phase 3 a channel, a lane of port 0 and the last of port 15, or a cluster, fails; port 0 has neither a spare in use
nor a failed lane. In phase 5 the wires fail. -/
theorem wit_later_phases :
    Stated.Phase (inPhase 3) 3 ∧ Stated.Phase (inPhase 4) 4 ∧ Stated.Phase (inPhase 5) 5 ∧ Stated.Phase phase6 6 ∧
    (3 ≤ phase6.west.auth.matches' ∧ 3 ≤ phase6.east.auth.matches' ∧ phase6.west.auth.claim ≠ phase6.east.auth.claim) ∧
    (assayClass 0x80 = 5 ∧ assayClass 0xE8 = 7 ∧ assayClass 0x167 = 7 ∧ assayClass 0 ≠ 5 ∧ assayClass 0 ≠ 7 ∧
      ((inPhase 3).port 0).spared = 15 ∧ ((inPhase 3).port 0).badLanes = []) ∧
    wires.Nodup ∧ ∀ f ∈ wires, f.1 < 2 ∧ f.2.1 < 256 ∧ f.2.2 < 128 ∧
      (wires.filter fun e => e.1 == f.1 && e.2.1 == f.2.1).length ≤ 4 :=
  ⟨phase_of 3 (by decide +kernel), phase_of 4 (by decide +kernel), phase_of 5 (by decide +kernel),
    ⟨canon_of (by decide +kernel), rfl, rfl, rfl⟩, by decide +kernel⟩

/-- The East die with two windows missed; its word says that it is primary. -/
def watched (run : Nat) (arrived : Bool) : State :=
  ready.modDie 1 fun x => { x with auth := { x.auth with run := run, arrived := arrived, peer := authSeal 0x800000000 } }
/-- The East die after one window missed, which claims by `c`; it holds 1, and a word of a die that claims by `p` came,
of a die that holds `h`. -/
def spoken (c p : Bool) (h : Nat) : State :=
  ready.modDie 1 fun x => { x with auth := { x.auth with
    run := 1, arrived := true, claim := c, own := authSeal (2 ^ 32), peer := authSeal (h * 2 ^ 32 + if p then 2 ^ 34 else 0) } }
/-- A window missed, one word that matches and one that does not from the one die that claims, both dies claiming, neither
claiming; a word of a die in service, a word of one in SAFE of cause 3, and a damaged word. -/
theorem wit_authority :
    (watched 2 false).Canon ∧
    (∀ e ∈ [(1, 2), (1, 1), (2, 2), (2, 1)], let a := ((spoken (e.1 == 2) (e.1 == 1) e.2).die 1).auth
      canonB (spoken (e.1 == 2) (e.1 == 1) e.2) = true ∧ a.arrived = true ∧ a.run < 2 ∧ a.claim ≠ authClaim a.peer ∧
      authMatch a.own a.peer = (e.2 == 1) ∧ a.inSafe = false) ∧
    (∀ c ∈ [true, false], let a := ((spoken c c 1).die 1).auth
      canonB (spoken c c 1) = true ∧ a.arrived = true ∧ a.claim = authClaim a.peer ∧ authMatch a.own a.peer = true ∧ a.claim = c) ∧
    (((watched 2 false).die 1).auth.run = 2 ∧ ((watched 1 false).die 1).auth.run < 2 ∧
      ((watched 2 false).die 1).auth.arrived = false ∧ ready.dev.failed = false ∧ 7 ≤ ready.dev.phase ∧
      ((watched 2 false).die 1).auth.inSafe = false) ∧
    (∀ w ∈ [5, 2 ^ 35 + 3 * 2 ^ 36], Stated.goodWord (authSeal w) ∧ bit (authSeal w).toNat 35 = (w != 5)) ∧ ¬ Stated.goodWord 1 := by
  unfold Stated.goodWord
  exact ⟨canon_of (by decide +kernel), by decide +kernel⟩

/-- A cycle of NoC data of partition 7, and the line of the East die with these cycles waiting; the West die has sent it. -/
def cycle2 : PlCycle := ⟨2, 7, 0, 5, none, none⟩
def line (ws : List PlWait) : State :=
  ((ready.modDie 1 fun x => { x with line := { x.line with trained := true, waits := ws } }).modDie 0
    fun x => { x with line := { x.line with replay := [cycle2] } }).modPart 7 fun q => { q with st := .running }
/-- Nothing waits; a failed send; a resend after one; a resend after three; a cycle behind a failed one. -/
theorem wit_parting_line :
    (∀ ws ∈ [[], [⟨cycle2, 1, false⟩], [⟨cycle2, 1, true⟩], [⟨cycle2, 3, true⟩]], canonB (line ws) = true ∧
      ((line ws).die 1).line.trained = true ∧ ((line ws).die 1).line.waits = ws ∧ cycle2 ∈ ((line ws).die (1 - 1)).line.replay ∧
      ((line ws).part 7).st = .running) ∧
    (cycle2.cls = 2 ∧ cycle2.dest = none ∧ cycle2.owner = 7) := by decide +kernel

/-! ## Ports and links -/

def portAt (n : Nat) (f : Port → Port) : State := (ready.setFabric { ready.fabric with devId := 5 }).modPort n f
/-- Port 15 up, and training with its lanes trained. -/
def upPort : State := portAt 15 fun x => { x with st := .up, replay := [(7, .raw [])], ver := 0x31, r224 := true }
def trainedPort (f : Port → Port) : State := portAt 15 fun x => f { x with st := .training, trained := true }
def helloPort : State := trainedPort id

theorem plain_of {s : State} {init : Nat} (h : canonB s = true ∧ (s.dev.state = .ready ∧ s.bus.lost = [] ∧
    ((init < 2 ∧ s.hostPort = true) ∨ 10 ≤ init)) ∧ ∀ r, r < 9 → s.served r = false ∨ s.sqUsed r = 0) : Stated.Plain s init :=
  ⟨⟨canon_of h.1, h.2.1⟩, h.2.2⟩

theorem plain_ready : Stated.Plain ready 0 :=
  plain_of (by decide +kernel)

theorem wit_ports_configured :
    Stated.Plain (portAt 15 id) 0 ∧ Stated.Plain upPort 0 ∧
    ((bits 0x1234 1 0 = bits ((portAt 15 id).pg .port 15 0x40) 1 0 ∧ bit 0x1234 3 = false ∧
      ((portAt 15 id).port 15).st = .down ∧ (portAt 15 id).fabric.devId ≠ 0xFFFF ∧ ready.fabric.devId = 0xFFFF) ∧
    (bits 0 1 0 = bits (upPort.pg .port 15 0x40) 1 0 ∧ (upPort.port 15).st ≠ .down ∧
      bits 2 3 2 = 0 ∧ bits 2 1 0 ≠ 3 ∧ bits 2 1 0 ≠ bits (upPort.pg .port 15 0x40) 1 0)) ∧
    (∀ q, q < 16 → (ready.port q).st = .down) :=
  ⟨plain_of (by decide +kernel), plain_of (by decide +kernel), by decide +kernel⟩

/-- LINK_HELLO or its answer: the partner's identifier, port, rates, MIN and MAX. -/
def helloMsg (op dev port rates lo hi : Nat) : List Byte :=
  fabBytes 0x23 0 op dev 0xFFFF 0xFF 0xFF 0 0 (leBytes 2 dev ++ leBytes 1 port ++ leBytes 1 rates ++
    leBytes 1 lo ++ leBytes 1 hi ++ List.replicate 18 0)

theorem greets_of (s : State) (op : Nat) (m : List Byte) (hc : canonB s = true)
    (h : (s.live (dieOfPort 15) = true ∧ ((s.port 15).st = .training ∧ (s.port 15).trained = true) ∧
      bits (s.pg .port 15 0x40) 1 0 = 0) ∧ fld m 2 2 = op ∧ 32 ≤ m.length ∧ crc32 (lay m 28 [0, 0, 0, 0]) = fld m 28 4) :
    Stated.Greets s 15 op m :=
  ⟨canon_of hc, by decide, h.1.1, h.1.2.1, h.1.2.2, h.2.1, h.2.2.1, h.2.2.2⟩

/-- The end has had its answer, with a credit of the partner; it has had the partner's LINK_HELLO, at either rate. -/
def answeredPort : State := trainedPort fun x => { x with helloDone := true, credits := [(0, 1)] }
def metPort (r : Bool) : State := trainedPort fun x => { x with peer := some (9, 2), ver := 0x31, r224 := r }

theorem wit_links_come_up :
    (let s := portAt 15 fun x => { x with st := .training }
     s.Canon ∧ s.live (dieOfPort 15) = true ∧ (s.port 15).st = .training ∧ (s.port 15).trained = false ∧
      bits (s.pg .port 15 0x40) 1 0 = 0 ∧ (s.port 15).helloDone = false) ∧
    (∀ lo ∈ [(9, 0x32, 0x40), (5, 0x20, 0x31), (9, 0x23, 0x23)], Stated.Greets helloPort 15 1 (helloMsg 1 lo.1 2 3 lo.2.1 lo.2.2)) ∧
    (∀ e ∈ [(1, 0x31), (3, 0x31), (3, 0x2F)], Stated.Greets answeredPort 15 1 (helloMsg 1 9 2 e.1 0x23 e.2)) ∧
    (∀ s ∈ [helloPort, metPort true, metPort false], Stated.Greets s 15 2 (helloMsg 2 9 2 3 0x23 0x31)) ∧
    (((helloPort.port 15).peer = none ∧ (answeredPort.port 15).peer = none ∧ (helloPort.port 15).helloDone = false ∧
      ((metPort true).port 15).helloDone = false ∧ (answeredPort.port 15).helloDone = true) ∧
    (∀ s ∈ [helloPort, answeredPort], twf [] (s.port 15).txWait = true ∧ twf 0 (s.port 15).credits = true ∧
      ∀ v, v < 3 → tget [] (s.port 15).txWait v = []) ∧
    (tget 0 (helloPort.port 15).credits 0 = 0 ∧ tget 0 (answeredPort.port 15).credits 0 ≠ 0 ∧
      (answeredPort.port 15).replay.length < 256 ∧ answeredPort.drives (dieOfPort 15) = true) ∧
    min 0x31 (fld (helloMsg 1 9 2 3 0x32 0x40) 37 1) < max 0x23 (fld (helloMsg 1 9 2 3 0x32 0x40) 36 1) ∧
    max 0x23 (fld (helloMsg 1 9 2 3 0x23 0x23) 36 1) ≤ min 0x31 (fld (helloMsg 1 9 2 3 0x23 0x23) 37 1)) := by
  refine ⟨⟨canon_of (by decide +kernel), by decide +kernel⟩, fun lo h => greets_of _ _ _ (by decide +kernel) ?_,
    fun e h => greets_of _ _ _ (by decide +kernel) ?_, fun s h => greets_of _ _ _ ?_ ?_, by decide +kernel⟩
  all_goals decide +kernel +revert

/-- Port 15 retraining to spare lane 7, with lane 8 taken, and of two halves with these gone. -/
def sparePort : State := portAt 15 fun x => { x with st := .retraining, sparing := 7, peer := some (3, 0) }
def takenPort : State := portAt 15 fun x => { x with st := .up, spared := 2 }
def handPort : State := portAt 15 fun x => { x with st := .handover, looped := 3 }
def limited : State := upPort.setPg .port 15 0x40 0x500
def noSpare : State := portAt 15 fun x => { x with st := .up, badLanes := [8] }
def halvesPort (g : List Nat) : State := (portAt 15 fun x => { x with st := .up, halfGone := g }).setPg .port 15 0x40 2
theorem wit_lanes_are_spared :
    (∀ s ∈ [upPort, sparePort, takenPort, limited, noSpare, handPort], canonB s = true ∧ s.live (dieOfPort 15) = true ∧
      bits (s.pg .port 15 0x40) 1 0 = 0) ∧
    (bits (upPort.pg .port 15 0x40) 23 8 = 0 ∧ bits (limited.pg .port 15 0x40) 23 8 = 5) ∧
    ((noSpare.port 15).st = .up ∧ (noSpare.port 15).spared = 15 ∧ (noSpare.port 15).sparing = 15 ∧
      8 ∈ (noSpare.port 15).badLanes ∧ (handPort.port 15).st = .handover ∧ (handPort.port 15).looped = 3) ∧
    (bits (upPort.pg .port 15 0x40) 1 0 = 0 ∧ (upPort.port 15).st = .up ∧ (upPort.port 15).spared = 15 ∧
      (upPort.port 15).sparing = 15 ∧ 8 ∉ (upPort.port 15).badLanes) ∧
    ((takenPort.port 15).st = .up ∧ (takenPort.port 15).spared ≠ 15 ∧ (takenPort.port 15).spared ≠ 7 ∧
      (takenPort.port 15).sparing = 15) ∧
    ((sparePort.port 15).st = .retraining ∧ (sparePort.port 15).sparing < 8 ∧ sparePort.health.log.length < 128 ∧
      (sparePort.port 15).named = false ∧ (sparePort.port 15).spared = 15 ∧ 0 ≠ (sparePort.port 15).sparing) ∧
    (∀ g ∈ [[], [1 - 3 / 4]], canonB (halvesPort g) = true ∧ (halvesPort g).live (dieOfPort 15) = true ∧
      ((halvesPort g).port 15).st = .up ∧ ((halvesPort g).port 15).halfGone = g ∧ ((halvesPort g).port 15).ethOut = [] ∧
      bits ((halvesPort g).pg .port 15 0x40) 1 0 = 2) := by decide +kernel

/-! ## Fabric traffic -/

/-- A flit: TYPE, VC, SEQ, ACK, CVC and CREDITS, LEN, SOM, EOM, payload; its CRC in place. -/
def flit (typ vc seq ack cvc cr len som eom : Nat) (pay : List Byte) : List Byte :=
  let b := leBytes 8 (typ + vc * 2 ^ 4 + seq * 2 ^ 6 + ack * 2 ^ 16 + cvc * 2 ^ 26 + cr * 2 ^ 28 + len * 2 ^ 36 +
    som * 2 ^ 44 + eom * 2 ^ 45) ++ slice pay 0 244
  b ++ leBytes 4 (crc32 b)

/-- Port 15 after seven replays from flit 7 in a row, retrained at these times. -/
def nakPort (l : List Nat) : State := portAt 15 fun x => { x with st := .up, replay := [(7, .raw [])], replayRun := (7, 7), retrains := l }

theorem wit_flits_are_taken :
    Stated.NativeUp upPort 15 ∧ (∀ l ∈ [[], [0, 5]], Stated.NativeUp (nakPort l) 15) ∧
    ((let f := flit 1 2 0 0 3 0 244 1 0 [1, 2, 3]
     crc32 (slice f 0 252) = fld f 252 4 ∧ bits (fld f 0 8) 3 0 = 1 ∧ bits (fld f 0 8) 5 4 < 3 ∧
      bits (fld f 0 8) 15 6 = (upPort.port 15).rxSeq ∧ bits (fld f 0 8) 43 36 = 244 ∧ bit (fld f 0 8) 45 = false ∧
      twf [] (upPort.port 15).rx = true ∧ twf 0 (upPort.port 15).given = true) ∧
    (let f := flit 1 0 0 0 3 0 1 1 1 [1]
     crc32 (slice f 0 252) = fld f 252 4 ∧ bit (fld f 0 8) 45 = true ∧ bits (fld f 0 8) 43 36 = 1) ∧
    (let f := flit 0 0 0 8 2 255 0 0 0 []
     crc32 (slice f 0 252) = fld f 252 4 ∧ bits (fld f 0 8) 3 0 = 0 ∧ (upPort.port 15).txWait = [] ∧
      twf 0 (upPort.port 15).credits = true ∧ crc32 (slice (lay f 9 [1]) 0 252) ≠ fld (lay f 9 [1]) 252 4) ∧
    (let left (a : Nat) := (upPort.port 15).replay.dropWhile fun e =>
        decide (1 ≤ (a + 1024 - e.1) % 1024 ∧ (a + 1024 - e.1) % 1024 ≤ 512)
     (∃ e ∈ left 7, e.1 = 7) ∧ (left 8 = [] ∧ left 6 = [(7, .raw [])]) ∧ (upPort.port 15).replayRun = (0, 0)) ∧
    ∀ l ∈ [[], [0, 5]], ((nakPort l).port 15).replayRun = (7, 7) ∧
      ((nakPort l).port 15).retrains.filter (fun t => Decidable.decide ((nakPort l).dev.time < t + 1000000000)) = l) := by
  refine ⟨⟨canon_of (by decide +kernel), by decide +kernel⟩, fun l h => ⟨canon_of ?_, ?_⟩, by decide +kernel⟩
  all_goals decide +kernel +revert

/-- Port 15 up in Ethernet mode; the device's own MAC address is 0. -/
def ethAt (f : Port → Port) : State :=
  let s := (portAt 15 fun x => f { x with st := .up }).setPg .port 15 0x40 1
  s.setFabric { s.fabric with routes := [(65536 + 9, 15)] }
def ethPort : State := ethAt id
/-- It has a message to device 9 without its ACK, sent again so many times. -/
def owing (k : Nat) : State := ethAt fun x => { x with ethOut := [⟨k, 0, .raw (fabBytes 0x31 0 0x200 5 9 0 0 0 0 [])⟩] }

/-- An Ethernet frame for the device that carries a UDP datagram. -/
def frame (b : List Byte) : List Byte :=
  List.replicate 12 0 ++ [0x86, 0xDD] ++ List.replicate 6 0 ++ [17] ++ List.replicate 35 0 ++ [0xB9, 0xD0] ++
    [BitVec.ofNat 8 ((b.length + 8) / 256), BitVec.ofNat 8 (b.length + 8)] ++ [0, 0] ++ b

theorem wit_frames_are_taken :
    ethPort.Canon ∧ (ethPort.live (dieOfPort 15) = true ∧ (ethPort.port 15).st = .up ∧
      bits (ethPort.pg .port 15 0x40) 1 0 ≠ 0 ∧ 0 ∉ (ethPort.port 15).halfGone) ∧
    (let b := fabBytes 0x31 0 0x11 9 5 0xFF 0xFF 0 0 [1, 0, 0, 0]
     let f := frame b
     62 ≤ f.length ∧ slice f 0 6 = List.replicate 6 0 ∧ (∀ i, i < 4 → tget 0 ethPort.west.otp.sensed i = 0) ∧ slice f 12 2 = [0x86, 0xDD] ∧ fld f 20 1 = 17 ∧
      fld f 57 1 + 256 * fld f 56 1 = bits (ethPort.pg .port 15 0xA8) 15 0 ∧
      slice (f.drop 62) 0 (fld f 59 1 + 256 * fld f 58 1 - 8) = b ∧ b.length = 32 + fld b 12 4 ∧ fld b 2 2 = 0x11 ∧
      fld b 20 4 = tget 0 (ethPort.port 15).ethTag 0 ∧ fld b 24 4 = 0 ∧ (ethPort.port 15).segs = [] ∧
      crc32 (lay b 28 [0, 0, 0, 0]) = fld b 28 4 ∧ fld b 6 2 = ethPort.fabric.devId) ∧
    (let b := fabBytes 0x31 0 0x200 7 9 0 0 0 0 [1, 2]
     slice ((frame b).drop 62) 0 (fld (frame b) 59 1 + 256 * fld (frame b) 58 1 - 8) = b ∧ 32 ≤ b.length ∧ fld b 2 2 ≠ 3 ∧
      fld b 6 2 ≠ ethPort.fabric.devId ∧ 2 ≤ fld b 10 1 ∧ ethPort.routeOf (dieOfPort 15) (fld b 6 2) = some (15, 0) ∧
      ethPort.drives (dieOfPort 15) = true) ∧
    ∀ k ∈ [0, 8], canonB (owing k) = true ∧ ((owing k).port 15).ethOut.map (fun e => (e.resent, e.msg.key)) = [(k, ⟨5, 9, 0, 0⟩)] :=
  ⟨canon_of (by decide +kernel), by decide +kernel⟩

/-- Port 15 in Ethernet mode; device 9 is reached by port 15 and device 7 by none. -/
def routed : State := ethPort.setFabric { ethPort.fabric with routes := [(9, 15), (65536 + 9, 15)] }
/-- A message of the fabric from device 9. -/
def fromNine (op dst : Nat) (body : List Byte) : List Byte := fabBytes 0x31 0 op 9 dst 0 0 0 0 body

theorem arrives_routed (op : Nat) (m : List Byte)
    (h : fld m 2 2 = op ∧ 32 ≤ m.length ∧ crc32 (lay m 28 [0, 0, 0, 0]) = fld m 28 4 ∧ fld m 6 2 = 5) :
    Stated.FabArrives routed 15 op m :=
  ⟨canon_of (by decide +kernel), by decide +kernel, by decide +kernel, h.1, h.2.1, h.2.2.1, h.2.2.2⟩

theorem wit_fabric_messages_act :
    (∀ e ∈ [(3, [0, 0, 0, 0, 0]), (0x10, [1, 2, 3, 4]), (0x11, [0, 0, 0, 0]), (0x200, []), (0x201, [])],
      Stated.FabArrives routed 15 e.1 (fromNine e.1 5 e.2)) ∧
    ((bits (tget 0x1F routed.fabric.routes 9) 4 0 = 15 ∧ (routed.port 15).st ≠ .down ∧ bits (routed.pg .port 15 0x40) 1 0 ≠ 0 ∧
      (routed.port 15).halfGone = [] ∧ routed.drives (dieOfPort 15) = true ∧ 16 ≤ bits (tget 0x1F ethPort.fabric.routes 9) 4 0) ∧
    (let m := fromNine 0x200 9 [1, 2]
     fld m 2 2 = 0x200 ∧ 32 ≤ m.length ∧ crc32 (lay m 28 [0, 0, 0, 0]) = fld m 28 4 ∧ fld m 6 2 ≠ routed.fabric.devId ∧
      bits (tget 0x1F routed.fabric.routes (dieOfPort 15 * 65536 + 9)) 4 0 = 15 ∧ fld m 10 1 = 32) ∧
    (4 ≤ fld (fromNine 0xF 5 []) 2 2 ∧ fld (fromNine 0xF 5 []) 2 2 < 0x10 ∧ 0x204 ≤ fld (fromNine 0x204 5 []) 2 2)) := by
  refine ⟨fun e h => arrives_routed _ _ ?_, by decide +kernel⟩
  decide +kernel +revert

/-- Partition 2 of an epoch with members 5 and 9. -/
def member : State := routed.modPart 2 fun x => { x with
  st := .running, ladle := { x.ladle with epoch := 1, members := [5, 9] } }
theorem wit_no_route :
    (let m := fabBytes 0x31 0 0x12 9 5 0xFF 2 0 0 [9, 0, 0, 0, 0, 0, 0, 0]
     let l := (member.part 2).ladle
     Stated.FabArrives member 15 0x12 m ∧ (fld m 9 1 = 2 ∧ fld m 32 2 = 9 ∧ l.epoch ≠ 0 ∧ 9 ∈ l.members ∧
      9 ≠ member.fabric.devId ∧ 9 ∉ l.lost)) := by
  refine ⟨⟨canon_of ?_, ?_, ?_, ?_, ?_, ?_, ?_⟩, ?_⟩ <;> decide +kernel

/-! ## Register accesses -/

def holds1 : State := ready.modPart 1 fun x => { x with st := .loaded }
/-- Partition 1 runs on cluster 0 and tile 0, whose blocks have all events enabled. -/
def enabled : State := ((ready.modPart 1 fun x => { x with st := .running, cfg := msgOf 256 [(0, 1, 1), (16, 1, 1)] }).setPg
  .mould 0 0x18 0xFFFFFFFF).setPg .cruc 0 0x18 0xFFFFFFFF
/-- An event of HOST_IF stands, with its error logged. -/
def raised : State := (ready.setPg .host 0 0x14 5).setPg .host 0 0x28 (2 ^ 31)
theorem wit_register_accesses :
    (∀ s ∈ [ready, holds1, enabled, raised], Stated.Plain s 0) ∧
    (pageOf (0x3038 / 0x1000) = some (.host, 0) ∧ ready.gated .host 0 = false ∧ 0x3038 % 0x1000 = 0x38) ∧
    (¬ (2 = 4 ∧ 0x3039 % 4 = 0 ∨ 2 = 8 ∧ 0x3039 % 8 = 0) ∧ ¬ (8 = 4 ∧ 4 % 4 = 0 ∨ 8 = 8 ∧ 4 % 8 = 0)) ∧
    (pageOf (0x3FFF000 / 0x1000) = none ∧ 0x3FFF000 % 4 = 0 ∧ 0x3FFF000 < 2 ^ 26) ∧
    (pageOf (0x100000 / 0x1000) = some (.mould, 0) ∧ ready.gated .mould 0 = true) ∧
    (pageOf (0x11044 / 0x1000) = some (.part, 1) ∧ holds1.gated .part 1 = false ∧
      holds1.ownerLock .part 1 = true ∧ 0x40 ≤ 0x11044 % 0x1000) ∧
    (ready.ownerLock .host 0 = false ∧ bit (evtMask .host) 2 = true ∧ perfRegs .d2d ≠ none ∧
      bit 4 1 = false ∧ bit 4 0 = bit (holds1.pg .part 1 0x0C) 0) ∧
    (pageOf (pageNo .mould 0) = some (.mould, 0) ∧ enabled.gated .mould 0 = false ∧ bit (enabled.pg .mould 0 0x18) 5 = true ∧
      pageOf (pageNo .cruc 0) = some (.cruc, 0) ∧ enabled.gated .cruc 0 = false ∧ bit (enabled.pg .cruc 0 0x18) 3 = true ∧
      enabled.ownerOf 0 = 1 ∧ enabled.ownerOf 256 = 1 ∧ (enabled.part 1).st = .running) ∧
    (ready.gated .pyro 0 = false ∧ (ready.hwBits .pyro 0 (BitVec.ofNat 32 (2 ^ 16 &&& evtMask .pyro))).getLsbD 16 = true) ∧
    (raised.gated .host 0 = false ∧ raised.ownerLock .host 0 = false ∧ (raised.rg (3 * 0x1000 + 0x14)).getLsbD 2 = true ∧
      raised.rg (3 * 0x1000 + 0x18) = 0 ∧
      raised.hwBits .host 0 (4 &&& BitVec.ofNat 32 (evtMask .host)) = BitVec.ofNat 32 (2 ^ 2) ∧ raised.hwBits .host 0 0 = 0 ∧
      (1 : Word).getLsbD 0 = true ∧ (raised.hwBits .host 0 1).getLsbD 0 = true) := by
  refine ⟨fun s h => plain_of ?_, by decide +kernel⟩
  decide +kernel +revert

/-- A captured _HI of initiator 0, and partition 3 with 64 segments of both slices, 512 lanes and an intake of one unit. -/
def pages : State :=
  let s := ready.setBus { ready.bus with hiCap := [(0x48, some 7)] }
  s.setSprue { s.sprue with slices := tput 0 (tput 0 [] 3 64) 11 64 }
theorem wit_page_registers_act :
    Stated.Plain pages 0 ∧
    (pageOf (pageNo .glb 0) = some (.glb, 0) ∧ pages.gated .glb 0 = false ∧ 0x44 ∈ loRegs .glb ∧ 0x44 + 4 ∉ loRegs .glb ∧
      tget none pages.bus.hiCap (0 * 2 ^ 26 + (pageNo .glb 0 * 0x1000 + 0x44 + 4)) = some 7) ∧
    (pageOf (pageNo .host 0) = some (.host, 0) ∧ rwPair .host 0x300 = some 0xFFFFFFFF ∧
      pages.ringEn ((0x300 - 0x100) / 0x40) = false ∧ pageOf (pageNo .port 7) = some (.port, 7) ∧
      rwPair .port 0xB4 = some 0xFFFF) :=
  ⟨plain_of (by decide +kernel), by decide +kernel⟩

theorem wit_block_registers_act :
    twf 0 pages.health.fh = true ∧ (∀ d, d < 2 → pages.ownerLock .sprue d = false) ∧
    (1 ≤ bits 0x01012000 20 16 ∧ bits 0x01012000 20 16 ≤ 16 ∧ bits 0x01012000 27 24 ≠ 0 ∧ bits 0x01012000 13 4 = 512) ∧
    (∀ b ∈ pages.sprue.blks, b.part ≠ 3) ∧ (pages.part 3).cmds = [] ∧
    (let u := pages.setPg .sprue 0 (0x44 + 0x20 * 3) (0x01012000 &&& 0x0F1F3FF1)
     u.topk 3 = false ∧ 32 * u.intake 3 0 + (1 + u.win 3 0) ≤ pages.sliceCount 3 0) ∧
    (let u := pages.setPg .sprue 0 (0x44 + 0x20 * 3) (0x01010101 &&& 0x0F1F3FF1)
     u.topk 3 = true ∧ 16 * u.intake 3 0 + u.recSegs 3 0 ≤ pages.sliceCount 3 0) ∧
    (let u := pages.setPg .sprue 1 (0x44 + 0x20 * 3) (setBits (0x01012000 &&& 0x0F1F0000) 13 0 (bits (pages.pcfg 3 1) 13 0))
     32 * u.intake 3 1 + (1 + u.win 3 1) ≤ pages.sliceCount 3 1) ∧
    ((900 ≤ 1600 ∧ 1600 ≤ 1600 ∧ 1600 % 100 = 0) ∧ ¬ (900 ≤ 1650 % 2 ^ 11 ∧ 1650 % 2 ^ 11 ≤ 1600)) := by decide +kernel


/-! ## Fuses, debug, boundary scan -/

/-- The West array with its programming voltage, PROG_ADDR 0xC0. -/
def burner : State :=
  (ready.modDie 0 fun x => { x with otp := { x.otp with vppOk := true, keyGen := 0 } }).setPg .otp 0 0x4C 0xC0
def burning : State := burner.modDie 0 fun x => { x with otp := { x.otp with burn := some (0xC0, 5) } }
theorem wit_fuses_are_burned :
    Stated.Plain burner 0 ∧ Stated.Plain burning 0 ∧
    ((burner.die 0).otp.burn = none ∧ tget 0 (burner.die 0).otp.words (burner.pg .otp 0 0x4C % 1024) = 0 ∧
      burner.west.otp.fieldLock = false ∧ (burner.die 0).otp.vppOk = true ∧ (ready.die 0).otp.vppOk = false) ∧
    (burning.die 0).otp.burn = some (0xC0, 5) :=
  ⟨plain_of (by decide +kernel),
    plain_of (by decide +kernel), by decide +kernel⟩

/-- A key slot is active and 7 verifications have failed. -/
def challenged : State := burner.setDbg { burner.dbg with mode := 1, granted := 0, failCnt := 7, nonceValid := true }
theorem wit_debug_is_unlocked :
    Stated.Plain challenged 0 ∧ Stated.Plain ready 0 ∧ (challenged.west.otp.keyGen ≠ 7 ∧ challenged.dbg.failCnt ≠ 8 ∧ challenged.dbg.verdict = none ∧
    (challenged.setDbg { challenged.dbg with verdict := some (false, 7) }).dbg.failCnt = 7 ∧ ready.west.otp.keyGen = 7 ∧
    ready.dbg.failCnt ≠ 8 ∧ ready.dbg.verdict = none) :=
  ⟨plain_of (by decide +kernel), plain_ready, by decide +kernel⟩

/-- TGT names cluster 95, which is halted at a NOP; and tile 83, which runs. -/
def haltedAt : State :=
  (ready.setUnit 95 { SeqUnit.reset with run := .halted, imem := [Stated.yWord 0 0 0 0, 0] }).setPg .dbg 0 0xC0 95
def runningAt : State :=
  (ready.setUnit 339 { SeqUnit.reset with run := .running }).setPg .dbg 0 0xC0 (0x100 + 83)
/-- Cluster 95 runs the device's own program of command 1; it is halted in it; it is halted with its PC past its program. -/
def ownAt (run : UnitRun) (prog : List Word) (pc : Nat) : State :=
  (((withCmds [{ started 0x200 [] with units := [95] }]).setUnit 95 { SeqUnit.reset with
    run := run, imem := prog, seq := { SeqUnit.reset.seq with pc := BitVec.ofNat 32 pc },
    ctx := { SeqUnit.reset.ctx with part := 0, cid := 1 } })).setPg .dbg 0 0xC0 95
theorem wit_own_programs_halt :
    Stated.Plain (ownAt .idle [] 0) 12 ∧ Stated.Plain (ownAt .halted [] 0) 12 ∧ Stated.Plain (ownAt .halted [0] 4) 12 ∧
    ((ownAt .idle [] 0).ownProgram 95 = true ∧ ((ownAt .idle [] 0).unit 95).run = .idle ∧
      ((ownAt .halted [] 0).unit 95).imem = [] ∧
      ((ownAt .halted [0] 4).unit 95).imem.length ≤ ((ownAt .halted [0] 4).unit 95).seq.pc.toNat) :=
  ⟨plain_of (by decide +kernel),
    plain_of (by decide +kernel),
    plain_of (by decide +kernel), by decide +kernel⟩
theorem wit_debug_runs_sequencers :
    Stated.Plain haltedAt 12 ∧ Stated.Plain runningAt 12 ∧
    (bit (haltedAt.pg .dbg 0 0xC0) 8 = false ∧ bits (haltedAt.pg .dbg 0 0xC0) 7 0 = 95 ∧ (haltedAt.unit 95).run = .halted ∧
      (haltedAt.unit 95).imem[(haltedAt.unit 95).seq.pc.toNat]? = some (Stated.yWord 0 0 0 0) ∧
      (haltedAt.unit 95).arrs = [] ∧ (haltedAt.unit 95).tnds = []) ∧
    Stated.GoesOn (haltedAt.unit 95) (Stated.past (haltedAt.unit 95).seq 1) ∧
    (bit (runningAt.pg .dbg 0 0xC0) 8 = true ∧ 256 + bits (runningAt.pg .dbg 0 0xC0) 7 0 = 339 ∧
      (runningAt.unit 339).run = .running) :=
  ⟨plain_of (by decide +kernel), plain_of (by decide +kernel), by decide +kernel, ⟨by decide +kernel, by decide +kernel⟩,
    by decide +kernel⟩

theorem wit_taps_answer :
    ready.Canon ∧ ready.dev.rails = true ∧ ready.bus.lost = [] ∧ pageOf (0x6038 / 0x1000) = some (.dbg, 0) ∧ ready.gated .dbg 0 = false ∧
    (BitVec.ofNat 64 (2 ^ 63 + 0x6038 * 2 ^ 32 + 9)).toNat / 2 ^ 32 % 2 ^ 26 = 0x6038 :=
  ⟨canon_of (by decide +kernel), by decide +kernel⟩

/-! ## The manual's examples -/

/-- A training partition 2 with LAST = 3, RUNNING, with its step configured; ring 2 enabled without a HELLO. -/
def exPart : Part :=
  { Part.empty with
    st := .running, cfg := msgOf 256 [(0, 8, 1), (16, 8, 1), (32, 2, 64), (36, 1, 8), (38, 2, 1)], step := { StepSt.reset with last := 3 } }
/-- Its 11 slots (Table 15.13). -/
def exSlots : List Byte :=
  hostMsg 0x20 2 0x001 0 1 (msgOf 16 [(0, 1, 0x23), (1, 1, 0x34), (8, 8, 0x7F)]) ++
  hostMsg 0x32 2 0x411 1 1 (msgOf 48 [(8, 8, 2 ^ 64 - 1), (32, 8, 5)]) ++
  hostMsg 0x32 2 0x411 2 1 (msgOf 48 [(8, 8, 2 ^ 64 - 1), (32, 8, 4)]) ++
  hostMsg 0x32 2 0x200 3 4 (msgOf 240 [(8, 8, 2 ^ 64 - 1), (33, 1, 1), (34, 1, 1), (36, 4, 100)]) ++
  hostMsg 0x32 2 0x300 4 3 (msgOf 32 [(0, 1, 1), (1, 1, 1), (8, 8, 2 ^ 64 - 1), (16, 2, 1)] ++ slice (msgOf 192 ([(60, 4, 1), (64, 4, 2048)] ++
    trefAt 72 0 1 2048 2 ++ trefAt 104 0x2000 1 2048 0 ++ [(125, 1, 2), (136, 8, 0x8000), (152, 8, 0x9000)])) 48 144) ++
  hostMsg 0x32 2 0x002 6 1 []
def exState : State :=
  (((((ready.setRingRg 2 0x10 0x10606).setRingRg 2 0x08 0x10000).setParts (tput .empty [] 2 exPart))).setHostBytes 0 exSlots)
def exDone : State := after (.doorbell 0 2 11) exState
/-- Status and first four bytes of the i-th completion of ring 2: SEQ, STATUS, DETAIL, CFLAGS [7:0]. -/
def exAnswer (s : State) (i : Nat) : Nat × Nat × Nat × Nat :=
  let e := s.hostBytes (s.ringBase 2 8 + 64 * i) 64
  (fld e 8 4, fld e 16 1, fld e 17 1, fld e 18 2)

/-- HELLO settles 0x32 with features 0x3F; MG_GEMM is MALFORMED with DETAIL 13; REG_READ breaks the sequence, and
the expected SEQ becomes 7 (Table 15.13). -/
theorem test_exchange_at_acceptance :
    (exAnswer exDone 0 = (0, 0, 0x32, 0) ∧ (exDone.ring 2).ver = 0x32 ∧ (exDone.ring 2).feat = 0x3F) ∧
    exAnswer exDone 1 = (3, 2, 13, 0) ∧ exAnswer exDone 2 = (6, 2, 0xFE, 0) ∧ (exDone.ring 2).expSeq = 7 := by decide +kernel
/-- STEP_OPEN(5) answers STATE_CONFLICT and STEP_OPEN(4) starts; SP_LOSS answers CANCELLED with DEP_FAIL (Table 15.13). -/
theorem test_exchange_at_start :
    exAnswer (after (.commandReady 2 1) exDone) 3 = (4, 8, 0, 0x40) ∧
    (let s := after (.commandReady 2 0) exDone
     exAnswer s 3 = (1, 3, 0, 0) ∧ ((after (.stepOpen 2 2) (after (.commandReady 2 0) s)).part 2).step.opened.map (·.step) = some 4) := by decide +kernel

/-- Stack 11 occupies 0x0160_0000_0000 to 0x017F_FFFF_FFFF (chapter 1). -/
theorem test_stack_11 :
    addrKind 0x16000000000 = .stack 11 0 ∧ addrKind 0x17FFFFFFFFF = .stack 11 (2 ^ 37 - 1) ∧ addrKind 0x18000000000 = .reserved ∧
      addrKind 0x15FFFFFFFFF = .stack 10 (2 ^ 37 - 1) := by decide

/-- The check values of the codes over the digits 1 to 9. -/
theorem test_crc : crcMsb 16 0x1021 0xFFFF (leBytes 9 0x393837363534333231) = 0x29B1 ∧
    crcMsb 8 0x07 0 (leBytes 9 0x393837363534333231) = 0xF4 ∧ crc32 (leBytes 9 0x393837363534333231) = 0xCBF43926 ∧
    crc64 (leBytes 9 0x393837363534333231) = 0x6C40DF5F0B497347 := by decide +kernel
/-- SHA-256 of "abc", and HMAC-SHA256 of RFC 4231, case 2. -/
theorem test_sha256 : leNat ((sha256 [0x61, 0x62, 0x63]).reverse) =
    0xba7816bf8f01cfea414140de5dae2223b00361a396177a9cb410ff61f20015ad := by decide +kernel
theorem test_hmac : leNat ((hmac256 [0x4A, 0x65, 0x66, 0x65]
    (leBytes 28 0x3f676e6968746f6e20726f6620746e6177206179206f642074616877)).reverse) =
    0x5bdcc146bf60754e6a042426089575c75a003f089d2739839dec58b964ec3843 := by decide +kernel

/-! ## Ill-formed commands are refused -/

/-- Operands one past the last: each names a member that does not exist. -/
theorem test_wf_names :
    ([.authTick 2, .devRst 13 0, .governorFrame 12 0 0, .flitNak 16 0, .irqTimer 9, .sealEntry 9, .alu 96, .alu 255, .alu 340,
      .blkEvtClear 0 16384 ⟨0, 0, 0⟩, .registerRead 0 67108864 4, .registerRead 0 0 5000] : List Instr).all (fun c => !c.wf) = true := by decide +kernel
theorem test_wf_messages :
    ([.hello 8 (List.replicate 63 0), .nop 8 [], .hello 8 (List.replicate 65 0), .ack 0 (List.replicate 31 0),
      .flitAccepted 0 (List.replicate 255 0)] : List Instr).all (fun c => !c.wf) = true := by decide +kernel
theorem test_wf_bounds :
    ([.assayResult 65536 0, .assayResult 0 65536, .pllUnlock 0 32, .plCycleReceived 0 ⟨3, 0, 0, 0, none, none⟩ true, .plResend 0 3,
      .granuleRelease 0 65536, .commandReady 0 8, .stackTransaction 16 0 0 false [] 0, .unitFail 0 33 0, .coreFailure 96 0 0,
      .tileFailure 84 0 0, .sprueSramUe 0 512, .ladleSramUe 0 48, .memberLost 0 65536, .flitNak 0 1024, .laneFail 0 9 .signal, .laneFail 16 0 .all,
      .ethResendTimeout 16 ⟨0, 0, 0, 0⟩, .extest ⟨2, [], []⟩, .laneControl 0 0 2, .ethFrame 0 2 [], .ldPreUp 0 ⟨8, 0, 0, 0, 0, 0, false, 0, 0⟩, .spruePcfgWrite 0 0 8 0] :
      List Instr).all (fun c => !c.wf) = true := by decide +kernel
/-- The last members are well formed. -/
theorem test_wf_last :
    ([.authTick 1, .devRst 12 0, .alu 95, .alu 339, .irqTimer 8, .registerRead 0 67108856 8, .nop 8 (List.replicate 64 0)] :
      List Instr).all (fun c => c.wf) = true := by decide +kernel

/-! ## Numbers -/

/-- Table 8.6 on −∞, +∞, −0, −1, in that order. -/
theorem test_special_inputs :
    [fNegInf, fPosInf, 0x80000000, 0xBF800000].map fexp2 = [0, fPosInf, fOne, 0x3F000000] ∧
    [fNegInf, fPosInf, 0x80000000, 0xBF800000].map flog2 = [fNaN, fPosInf, fNegInf, fNaN] ∧
    [fNegInf, fPosInf, 0x80000000, 0xBF800000].map frecip = [0x80000000, 0, fNegInf, 0xBF800000] ∧
    [fNegInf, fPosInf, 0x80000000, 0xBF800000].map frsqrt = [fNaN, 0, fNegInf, fNaN] := by decide +kernel
/-- 1/3, √2/2, √2 and log₂ 3 rounded to nearest even (hand values). -/
theorem test_correct_rounding : frecip 0x40400000 = 0x3EAAAAAB ∧ frsqrt 0x40000000 = 0x3F3504F3 ∧
    fexp2 0x3F000000 = 0x3FB504F3 ∧ flog2 0x40400000 = 0x3FCAE00D := by decide +kernel
/-- 1 + 2⁻²⁴ ties to the even 1; one multiply-add keeps 2⁻²⁴ that a rounded product loses. -/
theorem test_ties : fadd fOne 0x33800000 = fOne ∧ fadd 0x3F800001 0x33800000 = 0x3F800002 ∧
    ffma 0x3F800001 0x3F7FFFFF 0xBF800000 = 0x337FFFFE := by decide +kernel
/-- 48 products in three chunks of 16 give the same bits in one part or two (chapter 4). -/
theorem test_chain_split : let a := (List.range 48).map fun i => Fl.ofInt (3 * i * i - 700); let b := (List.range 48).map fun i => Fl.ofInt (101 - i)
    dotChain 16 a b .zero = dotChain 16 (a.drop 32) (b.drop 32) (dotChain 16 (a.take 32) (b.take 32) .zero) := by decide +kernel

/-- R174: indices 5, 0, 7, 2 of a row of 6 write a5, a0, +0, a2, and the summary counts 1. -/
theorem test_permute :
    let bs : List Byte := [10, 11, 12, 13, 14, 15, 0, 0, 5, 0, 0, 0, 0, 0, 0, 0, 7, 0, 0, 0, 2, 0, 0, 0]
    let o : TOp := { top := 0x40, rows := 1, cols := 4, ctl := 0, sc := 6, fA := 0x0E, fB := 0, fY := 0x0E, fX := 0x0F, sb := 0, aux := 0 }
    let q : TPlace := { a := (0, 0), b := (0, 0), y := (0, 32), x := (0, 8), pitch := 0 }
    let r := tundish o (o.reader q tndCore false fun _ a n => slice bs a n)
    r.y = [(0, [15]), (1, [10]), (2, [0]), (3, [12])] ∧ r.own = 1 ∧ r.nstat = 8 := by decide +kernel

/-- Table 8.7: one row through SOFTBLK, from run_max 2 and run_sum 1.5, with s = 0.5. -/
theorem test_softblk :
    let f (l : List Nat) : List Byte := l.flatMap (leBytes 4)
    let bs := f [0x40C00000, 0x40000000, 0x40800000, 0, 0x40000000, 0x3FC00000, 0, 0, 0, 0, 4, 0]
    let o : TOp := { top := 0x48, rows := 1, cols := 4, ctl := 0, sc := 0x3F000000, fA := 0, fB := 0x0F, fY := 3, fX := 0, sb := 0, aux := 0 }
    let q : TPlace := { a := (0, 0), b := (0, 32), y := (0, 48), x := (0, 16), pitch := 0 }
    let r := tundish o (o.reader q tndCore false fun _ a n => slice bs a n)
    r.y = [(0, [0x78, 0x68, 0x70, 0x60])] ∧ r.own = 0xFFFFFFF8 ∧
      r.x = [(0, f [0x40400000]), (4, f [0x40280000]), (8, f [0x3F000000])] := by decide +kernel

/-- R328: a write of NUM_CFG applies to commands that start after it. -/
theorem test_num_cfg_at_start :
    let k := cmdOf 3 0x112 []
    let t := ((withCmds [k]).setPg .part 0 0x44 1).started 0 k [] []
    ((t.setPg .part 0 0x44 0).cmd? 0 3).map (·.e4nan) = some true := by decide +kernel

end Sys2Proof.Tests
end

section
/-! SUPPORT. Header reads of a register page (R27, R30, Tables 2.2 to 2.4), and the statement about BLK_ID. -/
set_option Elab.async false

namespace Sys2Proof.Machine

variable {s : State} {init n a i : Nat} {k : PageKind}

/-! ## The instances of a page kind -/

/-- A bound above every instance of a page kind (Table 2.2). -/
def instBound : PageKind → Nat
  | .glb => 1 | .mgt => 2 | .host => 1 | .otp => 2 | .dbg => 1 | .pyro => 2 | .clk => 2 | .d2d => 2
  | .part => 8 | .mould => 96 | .cruc => 84 | .sprue => 2 | .ladle => 2 | .port => 16 | .stack => 12
  | .fum => 12 * 64

/-- What every value of either branch meets, under the branch's condition, every value of the choice meets. -/
theorem forall_mem_ite {α : Type} {P : α → Prop} {c : Prop} [Decidable c] {x y : Option α}
    (hx : c → ∀ e ∈ x, P e) (hy : ¬ c → ∀ e ∈ y, P e) : ∀ e ∈ (if c then x else y), P e := by
  split
  · exact hx ‹_›
  · exact hy ‹_›

theorem mem_pageOf_lt (n : Nat) : ∀ e ∈ pageOf n, e.2 < instBound e.1 := by
  unfold pageOf
  repeat' refine forall_mem_ite (fun _ => ?_) (fun _ => ?_)
  all_goals rintro e ⟨⟩ <;> (simp only [instBound]; omega)

/-- An instance of the page map is below the bound of its kind. -/
theorem instance_lt_of_pageOf (h : pageOf n = some (k, i)) : i < instBound k := mem_pageOf_lt n (k, i) h

/-- The instance half of BLK_ID holds every instance. -/
theorem blkInstance_lt (h : pageOf n = some (k, i)) : blkInstance k i < 2 ^ 16 := by
  have hi := instance_lt_of_pageOf h
  cases k <;> simp only [instBound, blkInstance] at hi ⊢ <;> omega

/-- The halves of a word put together from a type code and an instance. -/
theorem halves_of_word (c : Nat) {m : Nat} (hm : m < 2 ^ 16) :
    (c * 2 ^ 16 + m) / 2 ^ 16 = c ∧ (c * 2 ^ 16 + m) % 2 ^ 16 = m := by omega

/-- No type code is 0xFFFF, which a gated page reads (R30). -/
theorem typeCode_lt (k : PageKind) : typeCode k < 0xFFFF := by cases k <;> decide

/-- The model's type code and instance are those of Table 2.3. -/
theorem blkId_eq_of_pageOf (h : pageOf n = some (k, i)) : Stated.blkId k i = (typeCode k, blkInstance k i) := by
  have hi := instance_lt_of_pageOf h
  cases k
  case glb | host | dbg =>
    obtain rfl : i = 0 := Nat.lt_one_iff.mp hi
    rfl
  all_goals rfl

/-! ## Reads of a page with a clock -/

/-- The rights of partition rings do not bind an initiator that reaches every page. -/
theorem mayReach_of_reaches (h : Stated.Reaches s init) (wr : Bool) (a : Nat) : s.mayReach init wr a = true := by
  obtain ⟨-, -, -, hi⟩ := h
  exact if_pos (by omega)

/-- It has a way to the pages: the host port, or one of its own. -/
theorem reach_of_reaches (h : Stated.Reaches s init) : s.reach init = true := by
  obtain ⟨-, -, -, ⟨-, hp⟩ | hi⟩ := h
  · simp [State.reach, hp]
  · simp [State.reach, hi]

/-- An aligned read of a page with a clock reads its register, with no bus error. -/
theorem regRead_of_reaches (h : Stated.Reaches s init) (ha : a % 4 = 0) (hp : pageOf (a / 0x1000) = some (k, i))
    (hg : s.gated k i = false) :
    s.regRead init a = ((s.readReg init k i (a % 0x1000)).1, (s.readReg init k i (a % 0x1000)).2, 0) := by
  have hm := mayReach_of_reaches h false a
  obtain ⟨-, -, hlost, -⟩ := h
  simp [State.regRead, hm, hlost, ha, hp, hg]

/-- What the register reads is what the initiator gets. -/
theorem exec_registerRead_of_reaches {t : State} {w : Word} (h : Stated.Reaches s init) (ha : a % 4 = 0)
    (hp : pageOf (a / 0x1000) = some (k, i)) (hg : s.gated k i = false)
    (hw : s.readReg init k i (a % 0x1000) = (t, w)) :
    exec (.registerRead init a 4) s = .next (t.setRead init w.toNat) := by
  calc exec (.registerRead init a 4) s
    _ = .next (s.readAccess init a 4) := rfl
    _ = .next (t.setRead init w.toNat) := by
      simp [State.readAccess, reach_of_reaches h, regRead_of_reaches h ha hp hg, hw]

/-! ## Reads of the header -/

/-- The 64-bit registers of a page stand after its header. -/
theorem header_le_of_mem_loRegs (k : PageKind) : ∀ o ∈ loRegs k, 0x40 ≤ o := by cases k <;> decide

/-- So do the registers whose value moves. -/
theorem header_le_of_mem_openRegs (k : PageKind) : ∀ o ∈ openRegs k ++ byteRegs k, 0x40 ≤ o := by cases k <;> decide

/-- No offset of the header is in a list of registers that stand after it. -/
theorem contains_header {l : List Nat} (hl : ∀ o ∈ l, 0x40 ≤ o) {off : Nat} (h : off < 0x40) :
    l.contains off = false := by
  rw [Bool.eq_false_iff, ne_eq, List.contains_iff_mem]
  intro hm
  have := hl off hm
  omega

/-- A read of the header, but of BLK_EVT on a D2D page, has nothing to bring up to date. -/
theorem readsOpen_header {off : Nat} (h : off < 0x40) (hevt : off ≠ 0x14) : readsOpen k off = false := by
  unfold readsOpen
  rw [contains_header (header_le_of_mem_openRegs k) h]
  simp [hevt]

/-- Of the header, a command at work on a unit leaves open only BLK_STAT: every other offset it names is of the block. -/
theorem unitOpen_header {off : Nat} (h : off < 0x40) (hstat : off ≠ 0x10) (u : Nat) (c : Cmd) :
    s.unitOpen k u c off = none := by
  unfold State.unitOpen
  grind

/-- A quenched command leaves none of the header open. -/
theorem stoppedOn_header {off : Nat} (h : off < 0x40) (u : Nat) : s.stoppedOn k u off = none := by
  unfold State.stoppedOn
  grind

/-- A header register other than BLK_STAT has a value of its own at all times. -/
theorem openHere_header {off : Nat} (h : off < 0x40) (hstat : off ≠ 0x10) : s.openHere k i off = none := by
  unfold State.openHere
  split
  · dsimp only
    split
    · exact unitOpen_header h hstat ..
    · exact stoppedOn_header h _
  · rfl

/-- The present value of a header register other than BLK_STAT and BLK_EVT is its view, and reading it changes nothing. -/
theorem readNow_header {off : Nat} (h : off < 0x40) (hstat : off ≠ 0x10) (hevt : off ≠ 0x14) :
    s.readNow init k i off = (s, w32 (s.hdrRead k i off)) := by
  unfold State.readNow
  rw [if_neg (by omega), if_neg (by omega)]
  simp [openHere_header h hstat, readsOpen_header h hevt, State.view, h]

/-- A header register is no half of a 64-bit one: a read of it returns its present value. -/
theorem readReg_header {off : Nat} (h : off < 0x40) : s.readReg init k i off = s.readNow init k i off := by
  have hlo : (loRegs k).contains off = false := contains_header (header_le_of_mem_loRegs k) h
  have hhi : (loRegs k).contains (off - 4) = false := contains_header (header_le_of_mem_loRegs k) (by omega)
  simp only [State.readReg, hlo, hhi, Bool.false_eq_true, and_false, if_false]

/-- BLK_ID reads the type code above the instance. -/
theorem readReg_blkId : s.readReg init k i 0 = (s, w32 (typeCode k * 2 ^ 16 + blkInstance k i)) := by
  rw [readReg_header (by decide), readNow_header (by decide) (by decide) (by decide)]
  rfl

/-! ## What an initiator's read returned -/

@[simp] theorem setRead_regs (v : Nat) : (s.setRead init v).bus.regs = s.bus.regs := rfl

theorem readData_setRead (h : s.Canon) (v : Nat) : tget 0 (s.setRead init v).bus.readData init = v :=
  tget_tput_same 0 init v h.bus.read

end Sys2Proof.Machine

open Sys2Proof Sys2Proof.Machine

/-- Settles O54: the read of BLK_ID meets no bus error, and the word it returns holds the type code above the instance,
both of which fit 16 bits. -/
theorem blkIdNamesTheBlock : Obligations.BlkIdNamesTheBlock := by
  intro s init n k i ⟨hr, _⟩ hp hg
  have hcanon : s.Canon := hr.1
  have hcode := typeCode_lt k
  have hinst := blkInstance_lt hp
  have hoff : n * 0x1000 % 0x1000 = 0 := Nat.mul_mod_left n 0x1000
  have hpage : pageOf (n * 0x1000 / 0x1000) = some (k, i) := by rwa [Nat.mul_div_cancel n (by decide)]
  have hread := exec_registerRead_of_reaches hr (by omega) hpage hg (hoff ▸ readReg_blkId)
  have hword : (w32 (typeCode k * 2 ^ 16 + blkInstance k i)).toNat = typeCode k * 2 ^ 16 + blkInstance k i :=
    Nat.mod_eq_of_lt (by omega)
  rw [blkId_eq_of_pageOf hp]
  have ⟨hhigh, hlow⟩ := halves_of_word (typeCode k) hinst
  refine ⟨hcode.ne, _, hread, setRead_regs _, ?_, ?_⟩
  · rw [readData_setRead hcanon, hword, hhigh]
  · rw [readData_setRead hcanon, hword, hlow]

end

section
/-! SUPPORT. Words of the sequencer (R131, Table 7.2): the fields of a word put together from its parts, and the row
that carries a scalar or branch word. -/
set_option Elab.async false

namespace Sys2Proof.Machine

theorem toNat_append_eq_add {m n : Nat} (x : BitVec m) (y : BitVec n) :
    (x ++ y).toNat = x.toNat * 2 ^ n + y.toNat := by
  rw [BitVec.toNat_append, ← Nat.shiftLeft_add_eq_or_of_lt y.isLt, Nat.shiftLeft_eq]

/-! ## Fields by format -/

section
variable (op : BitVec 6) (rd ra rb : BitVec 5) (f : BitVec 11) (z : BitVec 16)

theorem toNat_rWord : (Stated.rWord op rd ra rb f).toNat =
    (((op.toNat * 2 ^ 5 + rd.toNat) * 2 ^ 5 + ra.toNat) * 2 ^ 5 + rb.toNat) * 2 ^ 11 + f.toNat :=
  (toNat_append_eq_add _ f).trans (by simp only [toNat_append_eq_add])

@[simp] theorem opOf_rWord : opOf (Stated.rWord op rd ra rb f).toNat = op.toNat := by
  rw [opOf, toNat_rWord, bits]
  omega
@[simp] theorem fA_rWord : fA (Stated.rWord op rd ra rb f).toNat = rd.toNat := by
  rw [fA, toNat_rWord, bits]
  omega
@[simp] theorem fB_rWord : fB (Stated.rWord op rd ra rb f).toNat = ra.toNat := by
  rw [fB, toNat_rWord, bits]
  omega
@[simp] theorem fC_rWord : fC (Stated.rWord op rd ra rb f).toNat = rb.toNat := by
  rw [fC, toNat_rWord, bits]
  omega
@[simp] theorem fFunc_rWord : fFunc (Stated.rWord op rd ra rb f).toNat = f.toNat := by
  rw [fFunc, toNat_rWord, bits]
  omega
/-- SEL names its predicate in the low bits of func. -/
theorem pred_rWord : (Stated.rWord op rd ra rb f).toNat % 8 = f.toNat % 8 := by
  rw [toNat_rWord]
  omega

theorem toNat_iWord : (Stated.iWord op rd ra z).toNat =
    ((op.toNat * 2 ^ 5 + rd.toNat) * 2 ^ 5 + ra.toNat) * 2 ^ 16 + z.toNat :=
  (toNat_append_eq_add _ z).trans (by simp only [toNat_append_eq_add])

@[simp] theorem opOf_iWord : opOf (Stated.iWord op rd ra z).toNat = op.toNat := by
  rw [opOf, toNat_iWord, bits]
  omega
@[simp] theorem fA_iWord : fA (Stated.iWord op rd ra z).toNat = rd.toNat := by
  rw [fA, toNat_iWord, bits]
  omega
@[simp] theorem fB_iWord : fB (Stated.iWord op rd ra z).toNat = ra.toNat := by
  rw [fB, toNat_iWord, bits]
  omega
@[simp] theorem fImm_iWord : fImm (Stated.iWord op rd ra z).toNat = z.toNat := by
  rw [fImm, toNat_iWord, bits]
  omega

/-- CMPI splits the rd field: bits [25:24] choose the comparison. -/
theorem cmpiKind_iWord (k : BitVec 2) (p : BitVec 3) : bits (Stated.iWord op (k ++ p) ra z).toNat 25 24 = k.toNat := by
  rw [toNat_iWord, toNat_append_eq_add, bits]
  omega
/-- CMPI splits the rd field: bits [23:21] name the predicate. -/
theorem cmpiPred_iWord (k : BitVec 2) (p : BitVec 3) : bits (Stated.iWord op (k ++ p) ra z).toNat 23 21 = p.toNat := by
  rw [toNat_iWord, toNat_append_eq_add, bits]
  omega
end

/-- BR (Table 7.5). -/
def brWord (o : BitVec 26) : Word := 0x14#6 ++ o
/-- BRP and BRP.N (Table 7.5). -/
def brpWord (p : BitVec 3) (n : BitVec 1) (z : BitVec 16) : Word := 0x15#6 ++ p ++ n ++ 0#6 ++ z

section
variable (o : BitVec 26) (p : BitVec 3) (n : BitVec 1) (z : BitVec 16)

theorem toNat_brWord : (brWord o).toNat = 0x14 * 2 ^ 26 + o.toNat := toNat_append_eq_add 0x14#6 o

@[simp] theorem opOf_brWord : opOf (brWord o).toNat = 0x14 := by
  rw [opOf, toNat_brWord, bits]
  omega
theorem offset_brWord : bits (brWord o).toNat 25 0 = o.toNat := by
  rw [toNat_brWord, bits]
  omega

theorem toNat_brpWord : (brpWord p n z).toNat = (((0x15 * 2 ^ 3 + p.toNat) * 2 ^ 1 + n.toNat) * 2 ^ 6) * 2 ^ 16 + z.toNat :=
  (toNat_append_eq_add _ z).trans (by
    simp only [toNat_append_eq_add]
    rfl)

@[simp] theorem opOf_brpWord : opOf (brpWord p n z).toNat = 0x15 := by
  rw [opOf, toNat_brpWord, bits]
  omega
theorem pred_brpWord : bits (brpWord p n z).toNat 25 23 = p.toNat := by
  rw [toNat_brpWord, bits]
  omega
theorem negate_brpWord : bit (brpWord p n z).toNat 22 = (n == 1) := by
  have hbit : (brpWord p n z).toNat / 2 ^ 22 % 2 = n.toNat := by
    rw [toNat_brpWord]
    omega
  rw [bit, hbit, beq_eq_decide]
  exact decide_eq_decide.mpr (BitVec.toNat_inj (y := 1#1))
theorem reserved_brpWord : bits (brpWord p n z).toNat 21 16 = 0 := by
  rw [toNat_brpWord, bits]
  omega
@[simp] theorem fImm_brpWord : fImm (brpWord p n z).toNat = z.toNat := by
  rw [fImm, toNat_brpWord, bits]
  omega
end

/-! ## Rows -/

/-- A word of a scalar, immediate or branch opcode is carried by the row of that opcode. -/
theorem wordRow_of_opOf {w op : Nat} (h : opOf w = op)
    (hop : (1 ≤ op ∧ op ≤ 5) ∨ (8 ≤ op ∧ op ≤ 0x0E) ∨ (0x14 ≤ op ∧ op ≤ 0x18)) : wordRow w = op := by
  simp only [wordRow, h]
  rw [if_neg (by omega), if_neg (by omega), if_pos (by omega)]

/-! ## Signed offsets and immediates -/

theorem sext_toNat {n : Nat} (z : BitVec n) : sext n z.toNat = z.toInt := by
  rw [BitVec.toInt_eq_toNat_cond, sext, Nat.mod_eq_of_lt z.isLt]
  cases n with
  | zero => simp [BitVec.of_length_zero]
  | succ n =>
    have hhalf : z.toNat < 2 ^ n ↔ 2 * z.toNat < 2 ^ (n + 1) := by omega
    simp [hhalf]

theorem w32_wrap (i : Int) : w32 (wrap 32 i) = BitVec.ofInt 32 i := by
  apply BitVec.eq_of_toNat_eq
  rw [BitVec.toNat_ofInt, w32, wrap, BitVec.toNat_ofNat]
  omega

theorem w32_wrap_sext {n : Nat} (z : BitVec n) : w32 (wrap 32 (sext n z.toNat)) = z.signExtend 32 := by
  rw [sext_toNat, w32_wrap]
  rfl

@[simp] theorem immS_iWord (op : BitVec 6) (rd ra : BitVec 5) (z : BitVec 16) :
    immS (Stated.iWord op rd ra z).toNat = z.signExtend 32 := by
  rw [immS, fImm_iWord, w32_wrap_sext]

end Sys2Proof.Machine
end

section
/-! SUPPORT. Issue of an instruction that changes only the sequencer's registers (R127, R133, R150, Table 7.15). -/
set_option Elab.async false

namespace Sys2Proof.Machine

/-! ## Registers past an instruction -/

section
variable (q : Seqr) (m n i : Nat) (v : Word)

@[simp] theorem Seqr.S_zero : q.S 0 = 0 := rfl
@[simp] theorem Seqr.P_zero : q.P 0 = true := rfl
@[simp] theorem Seqr.setS_zero : q.setS 0 v = q := rfl
@[simp] theorem Seqr.setP_zero (b : Bool) : q.setP 0 b = q := rfl

@[simp] theorem past_pc : (Stated.past q n).pc = q.pc + 1 := rfl
@[simp] theorem past_S : (Stated.past q n).S i = q.S i := rfl
@[simp] theorem past_P : (Stated.past q n).P i = q.P i := rfl

/-- Cycles counted after an instruction add to its issue cycles. -/
theorem cycles_past : (Stated.past q m).cycles n = Stated.past q (m + n) := by
  unfold Seqr.cycles Stated.past
  congr 1
  dsimp only
  omega

@[simp] theorem Seqr.pc_setS : (q.setS i v).pc = q.pc := by
  unfold Seqr.setS
  split <;> rfl
theorem Seqr.cycles_setS : (q.setS i v).cycles n = (q.cycles n).setS i v := by
  unfold Seqr.setS
  split <;> rfl

/-- A jump by the offset field of a branch. -/
theorem Seqr.jump_toNat (z : BitVec n) : q.jump n z.toNat = { q with pc := q.pc + z.signExtend 32 } := by
  rw [Seqr.jump, w32_wrap_sext]

/-- The issue cycle of a taken conditional branch does not depend on where it goes. -/
theorem Seqr.cycles_jump (z : BitVec m) :
    (q.jump m z.toNat).cycles n = { q.cycles n with pc := q.pc + z.signExtend 32 } := by
  rw [Seqr.jump_toNat]
  rfl
end

/-! ## Issue -/

section
variable {s : State} {u : Nat} {w : Word} {q : Seqr}

/-- A sequencer that may issue runs. -/
theorem run_of_mayIssue (h : s.mayIssue u = true) : (s.unit u).run = .running := by
  simp only [State.mayIssue, Bool.and_eq_true, beq_iff_eq] at h
  obtain ⟨⟨⟨hrun, -⟩, -⟩, -⟩ := h
  exact hrun

/-- The command of the row that carries the word at PC issues it. -/
theorem issueRow_of_issues {row : Nat} (f : Nat → Nat → State → Issue) (h : Stated.Issues s u w)
    (hrow : wordRow w.toNat = row) : s.issueRow u row f = .next (s.issueWord u f) := by
  rw [State.issueRow]
  exact if_pos ⟨h.may, by rw [h.atPc, Option.map_some, hrow]⟩

/-- An issued word whose instruction goes on ends in that instruction's state, checked for its end. -/
theorem issueWord_of_go {f : Nat → Nat → State → Issue} {t : State} (h : Stated.Issues s u w)
    (hf : f u w.toNat (s.setUnit u ((s.unit u).next w.toNat)) = .go t) : s.issueWord u f = t.afterIssue u := by
  simp only [State.issueWord, h.atPc, h.free, hf, Bool.false_eq_true, if_false]

/-- No exception follows an instruction after which the program goes on. -/
theorem afterIssue_of_goesOn (hrun : (s.unit u).run = .running) (h : Stated.GoesOn (s.unit u) (s.unit u).seq) :
    s.afterIssue u = s := by
  obtain ⟨hbudget, hpc⟩ := h
  simp only [State.afterIssue]
  rw [if_neg (fun hr => hr.1 hrun), if_neg (by omega), if_neg (by omega)]

/-- An instruction on the registers alone, on a state whose unit was just written. -/
theorem onSeq_setUnit (c : s.Canon) {f : Nat → Seqr → Option Seqr} {x : SeqUnit} {v : Nat} (hf : f v x.seq = some q) :
    onSeq f u v (s.setUnit u x) = .go (s.setUnit u { x with seq := q }) := by
  simp only [onSeq, State.unit_setUnit c, hf, State.setUnit_setUnit c]

/-- A command whose instruction works on the registers alone leaves what that instruction makes of the registers past
the word, and nothing else changes. -/
theorem issuesTo_of_onSeq {c : Instr} {row : Nat} {f : Nat → Seqr → Option Seqr}
    (hexec : exec c s = s.issueRow u row (onSeq f)) (hrow : wordRow w.toNat = row)
    (hf : f w.toNat (Stated.past (s.unit u).seq (issueCycles w.toNat)) = some q) : Stated.IssuesTo c s u w q := by
  intro h hgo
  have hnext : onSeq f u w.toNat (s.setUnit u ((s.unit u).next w.toNat)) = .go (s.setUnit u { s.unit u with seq := q }) :=
    onSeq_setUnit h.canon hf
  have hunit : (s.setUnit u { s.unit u with seq := q }).unit u = { s.unit u with seq := q } :=
    State.unit_setUnit h.canon ..
  rw [hexec, issueRow_of_issues _ h hrow, issueWord_of_go h hnext, afterIssue_of_goesOn]
  · rw [hunit]
    exact run_of_mayIssue h.may
  · rw [hunit]
    exact hgo
end

end Sys2Proof.Machine
end

section
/-! SUPPORT. Compares, predicate logic and selects (R135), and the statement about them. -/
set_option Elab.async false

namespace Sys2Proof.Machine

/-! ## Comparisons -/

/-- Values in order are not NaN. -/
theorem Fl.not_nan_of_lt {x y : Fl} (h : x.lt y = true) : (x.isNan || y.isNan) = false := by
  cases x with
  | nan => cases h
  | _ =>
    cases y with
    | nan => cases h
    | _ => rfl

/-- Equal values are not NaN. -/
theorem Fl.not_nan_of_eq {x y : Fl} (h : x.eq y = true) : (x.isNan || y.isNan) = false := by
  simp only [Fl.eq, Bool.and_eq_true, Bool.not_eq_true'] at h
  obtain ⟨⟨⟨hx, hy⟩, -⟩, -⟩ := h
  rw [hx, hy]
  rfl

theorem Fl.not_nan_of_le {x y : Fl} (h : x.le y = true) : (x.isNan || y.isNan) = false :=
  (Bool.or_eq_true_iff.mp h).elim Fl.not_nan_of_lt Fl.not_nan_of_eq

/-- A comparison that never holds of a NaN need not be told to be false on one. -/
theorem and_not_nan {r nan : Bool} (h : r = true → nan = false) : (r && !nan) = r := by
  cases r with
  | false => rfl
  | true => rw [h rfl]; rfl

/-- The comparisons are those that R135 names. -/
theorem cmpOp_eq (a b : Word) : ∀ f, cmpOp f a b = Stated.cmp f a b
  | 0x0 => congrArg some (beq_eq_decide a b)
  | 0x1 => congrArg some ((congrArg (! ·) (beq_eq_decide a b)).trans decide_not.symm)
  | 0x2 | 0x3 | 0x6 | 0x7 | 0xB | _ + 0xC => rfl
  | 0x4 => congrArg some ((decide_eq_decide.mpr Int.not_lt.symm).trans decide_not)
  | 0x5 => congrArg some ((decide_eq_decide.mpr Nat.not_lt.symm).trans decide_not)
  | 0x8 => congrArg some (and_not_nan Fl.not_nan_of_eq).symm
  | 0x9 => congrArg some (and_not_nan Fl.not_nan_of_lt).symm
  | 0xA => congrArg some (and_not_nan Fl.not_nan_of_le).symm

/-! ## The four instructions -/

section
variable {s : State} {u : Nat} {r : Bool}

theorem cmp_issuesTo (p : BitVec 3) (a b : BitVec 5) (f : BitVec 11)
    (h : Stated.cmp f.toNat ((s.unit u).seq.S a.toNat) ((s.unit u).seq.S b.toNat) = some r) :
    Stated.IssuesTo (.cmp u) s u (Stated.rWord 3 (0#2 ++ p) a b f) ((Stated.past (s.unit u).seq 1).setP p.toNat r) := by
  have hp : (0#2 ++ p).toNat = p.toNat := (toNat_append_eq_add 0#2 p).trans (Nat.zero_add _)
  have hlow : p.toNat < 8 := p.isLt
  refine issuesTo_of_onSeq (f := cmpFx) rfl (wordRow_of_opOf (opOf_rWord ..) (by decide)) ?_
  simp [cmpFx, issueCycles, cmpOp_eq, hp, hlow, h]

theorem cmpi_issuesTo (k : BitVec 2) (p : BitVec 3) (a : BitVec 5) (z : BitVec 16)
    (h : Stated.cmp k.toNat ((s.unit u).seq.S a.toNat) (z.signExtend 32) = some r) :
    Stated.IssuesTo (.cmpi u) s u (Stated.iWord 0xE (k ++ p) a z) ((Stated.past (s.unit u).seq 1).setP p.toNat r) := by
  refine issuesTo_of_onSeq (f := cmpiFx) rfl (wordRow_of_opOf (opOf_iWord ..) (by decide)) ?_
  simp [cmpiFx, issueCycles, cmpOp_eq, cmpiKind_iWord, cmpiPred_iWord, h]

/-- The predicate functions are those that R135 names. -/
theorem plogFx_eq (w : Nat) (q : Seqr) :
    plogFx w q = (Stated.plog (fFunc w) (q.P (fB w % 8)) (q.P (fC w % 8))).map (q.setP (fA w % 8)) := by
  unfold plogFx
  generalize fFunc w = f
  match f with
  | 0 | 1 | 2 | 3 | 4 | _ + 5 => rfl

theorem plog_issuesTo (d a b : BitVec 5) (f : BitVec 11)
    (h : Stated.plog f.toNat ((s.unit u).seq.P (a.toNat % 8)) ((s.unit u).seq.P (b.toNat % 8)) = some r) :
    Stated.IssuesTo (.plog u) s u (Stated.rWord 4 d a b f) ((Stated.past (s.unit u).seq 1).setP (d.toNat % 8) r) := by
  refine issuesTo_of_onSeq (f := plogFx) rfl (wordRow_of_opOf (opOf_rWord ..) (by decide)) ?_
  simp [plogFx_eq, issueCycles, h]

theorem sel_issuesTo (d a b : BitVec 5) (f : BitVec 11) (hf : f.toNat < 8) :
    Stated.IssuesTo (.sel u) s u (Stated.rWord 5 d a b f) ((Stated.past (s.unit u).seq 1).setS d.toNat
      (if (s.unit u).seq.P f.toNat then (s.unit u).seq.S a.toNat else (s.unit u).seq.S b.toNat)) := by
  refine issuesTo_of_onSeq (f := selFx) rfl (wordRow_of_opOf (opOf_rWord ..) (by decide)) ?_
  simp [selFx, issueCycles, pred_rWord, Nat.mod_eq_of_lt hf, hf]
end

end Sys2Proof.Machine

open Sys2Proof Sys2Proof.Machine

/-- Settles O8, an instruction at a time: each is issued past its word and writes what its function answers there. -/
theorem comparesAndSelects : Obligations.ComparesAndSelects := by
  intro s u d a b p f k z
  exact ⟨fun _ => cmp_issuesTo p a b f, fun _ => cmpi_issuesTo k p a z, fun _ => plog_issuesTo d a b f,
    sel_issuesTo d a b f, fun v w => ⟨Seqr.setS_zero _ v, Seqr.setP_zero _ w, Seqr.P_zero _, Seqr.S_zero _⟩⟩

end

section
/-! SUPPORT. Branches (R137, Table 7.5), and the statement about them. -/
set_option Elab.async false

namespace Sys2Proof.Machine

variable {s : State} {u : Nat}

theorem br_issuesTo (o : BitVec 26) :
    Stated.IssuesTo (.br u) s u (brWord o)
      { Stated.past (s.unit u).seq 2 with pc := (s.unit u).seq.pc + 1 + o.signExtend 32 } := by
  refine issuesTo_of_onSeq (f := brFx) rfl (wordRow_of_opOf (opOf_brWord o) (by decide)) ?_
  simp [brFx, issueCycles, offset_brWord, Seqr.jump_toNat]

theorem brp_issuesTo (p : BitVec 3) (n : BitVec 1) (z : BitVec 16) :
    Stated.IssuesTo (.brp u) s u (brpWord p n z)
      (if (s.unit u).seq.P p.toNat ≠ (n == 1) then
        { Stated.past (s.unit u).seq 2 with pc := (s.unit u).seq.pc + 1 + z.signExtend 32 }
       else Stated.past (s.unit u).seq 1) := by
  refine issuesTo_of_onSeq (f := brpFx) rfl (wordRow_of_opOf (opOf_brpWord p n z) (by decide)) ?_
  have hcycles : issueCycles (brpWord p n z).toNat = 1 := by simp [issueCycles]
  rw [hcycles, brpFx, if_neg (not_not_intro (reserved_brpWord p n z)), pred_brpWord, negate_brpWord, fImm_brpWord,
    Seqr.cycles_jump, cycles_past, past_P, past_pc, apply_ite some]

theorem jal_issuesTo (rd : BitVec 5) (z : BitVec 16) :
    Stated.IssuesTo (.jal u) s u (Stated.iWord 0x16 rd 0 z)
      { (Stated.past (s.unit u).seq 2).setS rd.toNat ((s.unit u).seq.pc + 1) with
        pc := (s.unit u).seq.pc + 1 + z.signExtend 32 } := by
  refine issuesTo_of_onSeq (f := jalFx) rfl (wordRow_of_opOf (opOf_iWord ..) (by decide)) ?_
  simp [jalFx, issueCycles, Seqr.jump_toNat]

theorem jr_issuesTo (ra : BitVec 5) :
    Stated.IssuesTo (.jr u) s u (Stated.iWord 0x17 0 ra 0)
      { Stated.past (s.unit u).seq 2 with pc := (s.unit u).seq.S ra.toNat } := by
  refine issuesTo_of_onSeq (f := jrFx) rfl (wordRow_of_opOf (opOf_iWord ..) (by decide)) ?_
  simp [jrFx, issueCycles]

theorem dbnz_issuesTo (ra : BitVec 5) (z : BitVec 16) :
    Stated.IssuesTo (.dbnz u) s u (Stated.iWord 0x18 0 ra z)
      (if (s.unit u).seq.S ra.toNat - 1 ≠ 0 then
        { (Stated.past (s.unit u).seq 2).setS ra.toNat ((s.unit u).seq.S ra.toNat - 1) with
          pc := (s.unit u).seq.pc + 1 + z.signExtend 32 }
       else (Stated.past (s.unit u).seq 1).setS ra.toNat ((s.unit u).seq.S ra.toNat - 1)) := by
  refine issuesTo_of_onSeq (f := dbnzFx) rfl (wordRow_of_opOf (opOf_iWord ..) (by decide)) ?_
  have hcycles : issueCycles (Stated.iWord 0x18 0 ra z).toNat = 1 := by simp [issueCycles]
  have hrd : fA (Stated.iWord 0x18 0 ra z).toNat = 0 := fA_iWord ..
  rw [hcycles, dbnzFx, if_neg (not_not_intro hrd)]
  simp only [fB_iWord, fImm_iWord, past_S, Seqr.cycles_jump, Seqr.cycles_setS, cycles_past, Seqr.pc_setS, past_pc]
  rw [apply_ite some]

end Sys2Proof.Machine

open Sys2Proof Sys2Proof.Machine

/-- Settles O10, a branch at a time: its target and its issue cycles, on the registers past the branch. -/
theorem branchesGoWhereTheTableSays : Obligations.BranchesGoWhereTheTableSays := by
  intro s u rd ra p n z o
  exact ⟨br_issuesTo o, brp_issuesTo p n z, jal_issuesTo rd z, jr_issuesTo ra, dbnz_issuesTo ra z⟩

end

section
/-! SUPPORT. The walk of a serving step (R292, R293): what a sequence draws and keeps, from the logits of its nodes. -/
set_option Elab.async false

namespace Sys2Proof.Machine

variable {d : List Byte} {t : Tree} {v : Nat} {cs : List (Nat × Nat) × Bool}

/-! ## Nodes without children -/

/-- A tree of at most one node has no children anywhere. -/
theorem Tree.kids_eq_nil (h : t.parents.length ≤ 1) (v : Nat) : t.kids v = [] := by
  refine List.filter_eq_nil_iff.mpr fun i hi => ?_
  have hlt := List.mem_range.mp hi
  obtain rfl : i = 0 := by omega
  simp

/-- At a node without children the walk ends with one token, drawn from the node's logits. -/
theorem walkGo_of_kids_nil (h : t.kids v = []) (n pos made : Nat) :
    walkGo d t (n + 1) v pos cs made = ([drawOne d pos cs.1 (t.logits.getD v [])], []) := by
  simp only [walkGo, drawOne, h, chooseKid, List.find?_nil]
  split <;> rfl

/-! ## Walks at temperature 0 -/

/-- The token that temperature 0 takes at a node, under the counts of its path. -/
def bestTok (d : List Byte) (t : Tree) (v : Nat) (cs : List (Nat × Nat) × Bool) : Nat :=
  argmax (penalised d cs.1 (t.logits.getD v []))

/-- A walk from a node that takes the best token at every node it reaches and goes on to the child drafted with it;
it may stop at any child (a stop token or MAX_NEW). -/
inductive BestWalk (d : List Byte) (t : Tree) : Nat → List (Nat × Nat) × Bool → List Nat → List Nat → Prop
  | stopped {v : Nat} {cs : List (Nat × Nat) × Bool} : BestWalk d t v cs [] []
  | undrafted {v : Nat} {cs : List (Nat × Nat) × Bool} : BestWalk d t v cs [bestTok d t v cs] []
  | drafted {v c : Nat} {cs : List (Nat × Nat) × Bool} {out ks : List Nat} (hparent : t.parents.getD c 0xFF = v)
      (htok : t.toks.getD c 0 = bestTok d t v cs) (rest : BestWalk d t c (countTok cs (t.toks.getD c 0)) out ks) :
      BestWalk d t v cs (t.toks.getD c 0 :: out) (c :: ks)

/-- A child of a node has it as its parent. -/
theorem Tree.parent_of_mem_kids {c : Nat} (h : c ∈ t.kids v) : t.parents.getD c 0xFF = v := by
  obtain ⟨-, hc⟩ := List.mem_filter.mp h
  exact eq_of_beq (Bool.and_eq_true_iff.mp hc).2

theorem walkGo_bestWalk (hzero : (fl (rqW d 40)).isZero = true) (n v pos : Nat) (cs : List (Nat × Nat) × Bool)
    (made : Nat) : BestWalk d t v cs (walkGo d t n v pos cs made).1 (walkGo d t n v pos cs made).2 := by
  induction n generalizing v pos cs made with
  | zero => exact .stopped
  | succ n ih =>
    simp only [walkGo, hzero, if_true]
    cases hfind : (t.kids v).find? fun c => t.toks.getD c 0 == argmax (penalised d cs.1 (t.logits.getD v [])) with
    | none => exact .undrafted
    | some c =>
      have hparent := Tree.parent_of_mem_kids (List.mem_of_find?_eq_some hfind)
      have htok := List.find?_some hfind
      rw [beq_iff_eq] at htok
      dsimp only
      split
      · exact .drafted hparent htok .stopped
      · exact .drafted hparent htok (ih ..)

/-- Every token of such a walk is the best one of its node under the counts of the tokens before it. -/
theorem BestWalk.getElem?_out {out ks : List Nat} (h : BestWalk d t v cs out ks) :
    ∀ i, i < out.length → out[i]? = some (bestTok d t ((v :: ks).getD i 0) (countToks cs (out.take i))) := by
  induction h with
  | stopped => exact fun i hi => absurd hi (Nat.not_lt_zero i)
  | undrafted =>
    intro i hi
    obtain rfl : i = 0 := Nat.lt_one_iff.mp hi
    rfl
  | drafted _ htok _ ih =>
    intro i hi
    cases i with
    | zero => exact congrArg some htok
    | succ i => exact ih i (Nat.lt_of_succ_lt_succ hi)

/-- Every node that such a walk keeps is a child of the one before, drafted with the token drawn there. -/
theorem BestWalk.kept {out ks : List Nat} (h : BestWalk d t v cs out ks) :
    ∀ i, i < ks.length → t.parents.getD (ks.getD i 0) 0xFF = (v :: ks).getD i 0 ∧
      t.toks.getD (ks.getD i 0) 0 = out.getD i 0 := by
  induction h with
  | stopped | undrafted => exact fun i hi => absurd hi (Nat.not_lt_zero i)
  | drafted hparent _ _ ih =>
    intro i hi
    cases i with
    | zero => exact ⟨hparent, rfl⟩
    | succ i => exact ih i (Nat.lt_of_succ_lt_succ hi)

end Sys2Proof.Machine
end

section
/-! SUPPORT. Serving work leaves the partitions as they are but for the request and the groups that return
(R285, R286, R291). -/
set_option Elab.async false

namespace Sys2Proof.Machine

variable {s t : State} {v : Serving} {r r' : Req} {p req : Nat}

/-! ## Writes that leave the partitions as they are -/

theorem forN_parts {f : Nat → State → State} (hf : ∀ i x, (f i x).parts = x.parts) (n : Nat) (s : State) :
    (forN n s f).parts = s.parts :=
  List.foldlRecOn (motive := fun t => t.parts = s.parts) _ _ rfl fun x hx i _ => (hf i x).trans hx

@[simp] theorem State.parts_setBytes (s : State) (a : Nat) (bs : List Byte) : (s.setBytes a bs).parts = s.parts := by
  induction bs generalizing a s with
  | nil => rfl
  | cons x l ih => exact ih ..

@[simp] theorem State.parts_setHostBytes (s : State) (a : Nat) (bs : List Byte) :
    (s.setHostBytes a bs).parts = s.parts := by
  unfold State.setHostBytes
  split
  · exact parts_setBytes ..
  · rfl

@[simp] theorem State.parts_fireVector (s : State) (n : Nat) : (s.fireVector n).parts = s.parts := by
  unfold State.fireVector
  dsimp only
  split
  · rfl
  · exact parts_setHostBytes ..

@[simp] theorem State.parts_evSet (s : State) (k : PageKind) (i b : Nat) : (s.evSet k i b).parts = s.parts := by
  unfold State.evSet
  dsimp only
  split
  · rfl
  · split
    · exact parts_fireVector ..
    · rfl

@[simp] theorem State.parts_putMaps (s : State) (v : Serving) (e : Nat × List Nat) : (s.putMaps v e).parts = s.parts :=
  forN_parts (fun _ _ => parts_setBytes ..) _ s

@[simp] theorem State.parts_putTable (s : State) (v : Serving) (r : Req) : (s.putTable v r).parts = s.parts := by
  unfold State.putTable
  split
  · rfl
  · exact forN_parts (fun _ x => forN_parts (fun _ _ => parts_setBytes ..) _ x) _ s

@[simp] theorem State.parts_kvRows (s : State) (v : Serving) (ps : List (Nat × Nat)) :
    (s.kvRows v ps).parts = s.parts := by
  unfold State.kvRows
  refine (forN_parts (fun i x => ?_) ..).trans rfl
  rfl

@[simp] theorem State.parts_servLate (s : State) (p : Nat) (v : Serving) : (s.servLate p v).parts = s.parts := by
  unfold State.servLate
  split
  · exact parts_evSet ..
  · rfl

theorem State.parts_foldl_putMaps (s : State) (v : Serving) (new : List (Nat × List Nat)) :
    (new.foldl (fun s e => s.putMaps v e) s).parts = s.parts :=
  List.foldlRecOn (motive := fun t => t.parts = s.parts) _ _ rfl fun x hx e _ => (parts_putMaps x v e).trans hx

/-! ## The two kinds of work -/

/-- What a sequence's work writes beside its request: K and V rows, slot maps and the page table, and the count of late
commands. -/
def State.wrote (s : State) (p : Nat) (v : Serving) (rows : List (Nat × Nat)) (new : List (Nat × List Nat)) (r : Req) :
    State := ((new.foldl (fun s e => s.putMaps v e) (s.kvRows v rows)).putTable v r).servLate p v

@[simp] theorem State.parts_wrote (s : State) (p : Nat) (v : Serving) (rows : List (Nat × Nat))
    (new : List (Nat × List Nat)) (r : Req) : (s.wrote p v rows new r).parts = s.parts := by
  simp [State.wrote, State.parts_foldl_putMaps]

theorem State.part_eq_of_parts (h : t.parts = s.parts) (p : Nat) : t.part p = s.part p :=
  congrArg (tget Part.empty · p) h

theorem State.serving_modServ (c : s.Canon) (hv : (s.part p).serving = some v) (f : Serving → Serving) :
    ((s.modServ p f).part p).serving = some (f v) := by
  rw [State.modServ, State.modPart, State.part_setPart c, hv]
  rfl

/-- After an update of what a partition serves, and writes that leave the partitions as they are, it serves what the
update says. -/
theorem State.serving_of_parts (c : s.Canon) (hv : (s.part p).serving = some v) (f : Serving → Serving)
    (ht : t.parts = (s.modServ p f).parts) : (t.part p).serving = some (f v) := by
  rw [State.part_eq_of_parts ht, State.serving_modServ c hv]

/-- What a partition serves once a walk has left a request as `r'` and given groups back. -/
def Serving.walked (v : Serving) (req : Nat) (w : Req × List Nat) : Serving :=
  { v with returning := v.returning ++ w.2 }.modReq req fun _ => w.1

/-- The state that a prefill chunk leaves. -/
def State.afterPrefill (s : State) (p req : Nat) (v : Serving) (r r' : Req) : State :=
  let new := r'.pages.drop r.pages.length
  (s.modServ p fun v => v.modReq req fun _ => r').wrote p v (new.flatMap fun e => e.2.map fun j => (e.1, j)) new r'

/-- The state that a walk leaves. -/
def State.afterWalk (s : State) (p req : Nat) (v : Serving) (r : Req) (w : Req × List Nat) : State :=
  ((s.modServ p fun v => v.walked req w).setFresh (s.fresh + 64)).wrote p v (v.nodeSlots r)
    (w.1.pages.drop (r.pages.length - 1)) w.1

/-- A sequence that prefills does so, where its accesses are allowed. -/
theorem exec_servingWalk_prefill {lg dr : List (List Word)} (h : Stated.Turn s p req v r) (hst : r.state = .prefill)
    (hcopy : r.copying = false) (hr : v.prefill r (r.prefillToks (s.promptOf p r.desc)) lg = r')
    (hacc : s.tagAccess p ((fld r.desc 32 8, 4 * rqPrompt r.desc, false) ::
      (v.rowRanges ((r'.pages.drop r.pages.length).flatMap fun e => e.2.map fun j => (e.1, j)) ++
        (r'.pages.drop r.pages.length).flatMap v.mapRanges ++ v.tableRanges r')) = none) :
    exec (.servingWalk p req lg dr) s = .next (s.afterPrefill p req v r r') := by
  obtain ⟨-, hready, hrun, hserv, hmine, hturn⟩ := h
  change execServingWalk p req lg dr s = _
  simp only [execServingWalk, hserv, hmine, hrun, hturn, hready, hst, hcopy, hr, hacc, Bool.not_false, and_self, if_true]
  rfl

/-- A sequence that runs walks its tree, where its accesses are allowed. -/
theorem exec_servingWalk_running {lg st : List (List Word)} {w : Req × List Nat} (h : Stated.Turn s p req v r)
    (hst : r.state = .running) (hlg : lg.length = (v.places r).length)
    (hsl : st.length = (v.places r).length ∨ (v.places r).length ≤ 1) (hw : v.walk r s.fresh lg st = w)
    (hacc : s.tagAccess p (v.rowRanges (v.nodeSlots r) ++
      (w.1.pages.drop (r.pages.length - 1)).flatMap v.mapRanges ++ v.tableRanges w.1) = none) :
    exec (.servingWalk p req lg st) s = .next (s.afterWalk p req v r w) := by
  obtain ⟨-, hready, hrun, hserv, hmine, hturn⟩ := h
  change execServingWalk p req lg st s = _
  simp only [execServingWalk, hserv, hmine, hrun, hturn, hready, hst, hlg, hsl, hw, hacc, Bool.not_false, and_self,
    if_true, reduceCtorEq, false_and, if_false]
  rfl

theorem State.serving_afterPrefill (c : s.Canon) (hv : (s.part p).serving = some v) (r r' : Req) :
    ((s.afterPrefill p req v r r').part p).serving = some (v.modReq req fun _ => r') :=
  State.serving_of_parts c hv (fun v => v.modReq req fun _ => r') (State.parts_wrote ..)

theorem State.serving_afterWalk (c : s.Canon) (hv : (s.part p).serving = some v) (r : Req) (w : Req × List Nat) :
    ((s.afterWalk p req v r w).part p).serving = some (v.walked req w) :=
  State.serving_of_parts c hv (fun v => v.walked req w) (State.parts_wrote ..)

end Sys2Proof.Machine
end

section
/-! SUPPORT. The request after a prefill chunk and after a walk (R285 to R287, R291, R297). -/
set_option Elab.async false

namespace Sys2Proof.Machine

variable {v : Serving} {r : Req} {toks : List Nat} {lg st : List (List Word)}

/-- The page tables of a request are those of its slot. -/
theorem Serving.tableRanges_congr {r' : Req} (v : Serving) (h : r'.slot = r.slot) :
    v.tableRanges r' = v.tableRanges r := by
  simp only [Serving.tableRanges, h]

/-! ## A prefill chunk -/

/-- Tokens of the chunk that a request takes next. -/
def Serving.chunkLen (v : Serving) (r : Req) (toks : List Nat) : Nat := min (svChunk v.cfg) (toks.length - r.filled)

/-- Those tokens. -/
def Serving.chunk (v : Serving) (r : Req) (toks : List Nat) : List Nat :=
  (toks.drop r.filled).take (v.chunkLen r toks)

/-- Pages that the chunk fills, with identity maps. -/
def Serving.chunkPages (v : Serving) (r : Req) (toks : List Nat) : List (Nat × List Nat) :=
  (List.range (cdiv (v.chunkLen r toks) 64)).map fun i =>
    (r.fresh.getD i 0, List.range (min 64 (v.chunkLen r toks - 64 * i)))

theorem Serving.take_svChunk (v : Serving) (r : Req) (toks : List Nat) :
    (toks.drop r.filled).take (svChunk v.cfg) = v.chunk r toks := by
  rw [List.take_eq_take_min, List.length_drop]
  rfl

theorem Serving.length_chunk (v : Serving) (r : Req) (toks : List Nat) :
    (v.chunk r toks).length = v.chunkLen r toks := by
  rw [Serving.chunk, List.length_take, List.length_drop, Serving.chunkLen]
  omega

/-- What a chunk does whether or not it ends the prompt. -/
theorem Serving.prefill_progress (v : Serving) (r : Req) (toks : List Nat) (lg : List (List Word)) :
    let r' := v.prefill r toks lg
    r'.filled = r.filled + v.chunkLen r toks ∧ r'.committed = r.committed + v.chunkLen r toks ∧ r'.stepped = true ∧
      r'.pages = r.pages ++ v.chunkPages r toks ∧ r'.slot = r.slot := by
  simp only [Serving.prefill, v.take_svChunk r toks, v.length_chunk r toks]
  split <;> exact ⟨rfl, rfl, rfl, rfl, rfl⟩

/-- Before the end of its prompt a request draws nothing. -/
theorem Serving.prefill_of_lt (lg : List (List Word)) (h : r.filled + v.chunkLen r toks < toks.length) :
    let r' := v.prefill r toks lg
    r'.state = r.state ∧ r'.pending = r.pending ∧ r'.out = r.out := by
  simp only [Serving.prefill, v.take_svChunk r toks, v.length_chunk r toks, h, if_true, and_self]

/-- Tokens of the chunk that belong to the prompt: the pending token that a resumed conversation kept does not. -/
def Serving.chunkPrompt (v : Serving) (r : Req) (toks : List Nat) : List Nat :=
  if rqResume r.desc = true ∧ r.filled = 0 ∧ r.pending ≠ none then (v.chunk r toks).drop 1 else v.chunk r toks

/-- The counts that the first token is drawn under. -/
def Serving.chunkCounts (v : Serving) (r : Req) (toks : List Nat) : List (Nat × Nat) :=
  if rqPenPrompt r.desc then (countToks (r.counts, r.penOvf) (v.chunkPrompt r toks)).1 else r.counts

theorem drop_length_sub_one {α : Type} (l : List α) : l.drop (l.length - (l.length - 1)) = l.drop 1 := by
  cases l with
  | nil => rfl
  | cons a l => simp

/-- A resumed request has one token more than its prompt to prefill just where it kept a pending one. -/
theorem Req.length_prefillToks_ne {prompt : List Nat} (hres : rqResume r.desc = true)
    (hp : prompt.length = rqPrompt r.desc) : (r.prefillToks prompt).length ≠ rqPrompt r.desc ↔ r.pending ≠ none := by
  cases hpend : r.pending <;> simp [Req.prefillToks, hres, hpend, hp]

/-- The model counts the chunk's own tokens from its end. -/
theorem Serving.drop_own {prompt : List Nat} (hp : prompt.length = rqPrompt r.desc) (ht : toks = r.prefillToks prompt) :
    (v.chunk r toks).drop (v.chunkLen r toks - (v.chunkLen r toks -
      if rqResume r.desc = true ∧ r.filled = 0 ∧ toks.length ≠ rqPrompt r.desc then 1 else 0)) =
        v.chunkPrompt r toks := by
  have hiff : (rqResume r.desc = true ∧ r.filled = 0 ∧ toks.length ≠ rqPrompt r.desc) ↔
      (rqResume r.desc = true ∧ r.filled = 0 ∧ r.pending ≠ none) :=
    and_congr_right fun hres => and_congr_right fun _ => ht ▸ Req.length_prefillToks_ne hres hp
  rw [Serving.chunkPrompt, if_congr hiff rfl rfl, ← v.length_chunk r toks]
  split
  · exact drop_length_sub_one _
  · rw [Nat.sub_zero, Nat.sub_self, List.drop_zero]

/-- With the end of its prompt a request draws its first token. -/
theorem Serving.prefill_of_le {prompt : List Nat} (lg : List (List Word)) (hp : prompt.length = rqPrompt r.desc)
    (ht : toks = r.prefillToks prompt) (h : toks.length ≤ r.filled + v.chunkLen r toks) :
    let r' := v.prefill r toks lg
    let tok := drawOne r.desc (r.committed + v.chunkLen r toks) (v.chunkCounts r toks) (lg.getD 0 [])
    r'.state = .running ∧ r'.made = r.made + 1 ∧ r'.pending = some tok ∧ r'.out = [tok] := by
  have hown := v.drop_own (r := r) hp ht
  simp only [Serving.prefill, v.take_svChunk r toks, v.length_chunk r toks, hown, if_neg (Nat.not_lt.mpr h),
    apply_ite Prod.fst, Serving.chunkCounts, and_self]

/-! ## A walk -/

/-- What the walk of a request's tree draws and keeps. -/
def Serving.walkOut (v : Serving) (r : Req) (fresh : Nat) (lg st : List (List Word)) : List Nat × List Nat :=
  let n := (v.places r).length
  walkGo r.desc ⟨v.parents r, draftToks r.desc (v.parents r) (r.pending.getD 0) (r.counts, r.penOvf) fresh st n, lg⟩
    (n + 1) 0 (r.committed + 1) (r.counts, r.penOvf) r.made

/-- Place of a node: whether in the fresh group, and its slot. -/
def Serving.nodePlace (v : Serving) (r : Req) (i : Nat) : Bool × Nat := (((v.places r)[i]?).map (·.2)).getD (false, 0)

/-- Slots of nodes that lie in the tail page, and of those in the fresh group. -/
def Serving.tailSlots (v : Serving) (r : Req) (ks : List Nat) : List Nat :=
  (ks.filter fun i => !(v.nodePlace r i).1).map fun i => (v.nodePlace r i).2
def Serving.freshSlots (v : Serving) (r : Req) (ks : List Nat) : List Nat :=
  (ks.filter fun i => (v.nodePlace r i).1).map fun i => (v.nodePlace r i).2

/-- Pages once the slots of kept nodes are linked. -/
def Serving.relinked (v : Serving) (r : Req) (ks : List Nat) : List (Nat × List Nat) :=
  (match r.pages.getLast? with
    | some e => r.pages.dropLast ++ [(e.1, e.2 ++ v.tailSlots r ks)]
    | none => r.pages) ++
    if v.freshSlots r ks = [] then [] else [(nth 0 r.fresh 0, v.freshSlots r ks)]

/-- A request whose walk drew `out` and kept node 0 and `ks`. -/
def Serving.commit (v : Serving) (r : Req) (out ks : List Nat) : Req :=
  let last := out.getLast?.getD 0
  let cs := countToks (r.counts, r.penOvf) out
  { r with
    pages := v.relinked r (0 :: ks), fresh := [], committed := r.committed + 1 + ks.length, pending := some last
    counts := cs.1, penOvf := cs.2, stepped := true, out := out, pos := r.committed + 1, nodes := (v.places r).length
    acc := ks.length, made := r.made + out.length
    ended := (rqStops r.desc).contains last || decide (rqMaxNew r.desc ≤ r.made + out.length) ||
      decide (svCtx v.cfg ≤ r.committed + 1 + ks.length)
    flags := if (rqStops r.desc).contains last then r.flags ||| 16 else r.flags }

/-- Groups that a walk gives back: those granted, but for one that a kept node lies in. -/
def Serving.givenBack (v : Serving) (r : Req) (ks : List Nat) : List Nat :=
  if v.freshSlots r (0 :: ks) = [] then r.fresh else r.fresh.drop 1

theorem Serving.nth_places (v : Serving) (r : Req) (i : Nat) :
    (nth (0, false, 0) (v.places r) i).2 = v.nodePlace r i := by
  rw [nth, List.getD_eq_getElem?_getD, Serving.nodePlace]
  cases (v.places r)[i]? <;> rfl

theorem append_ite_nil {α : Type} {c : Prop} [Decidable c] (x y : List α) :
    (x ++ if c then [] else y) = if c then x else x ++ y := by
  split
  · exact List.append_nil x
  · rfl

theorem Serving.walk_of_walkOut {fresh : Nat} {out ks : List Nat} (hn : v.places r ≠ [])
    (h : v.walkOut r fresh lg st = (out, ks)) :
    v.walk r fresh lg st = (v.commit r out ks, v.givenBack r ks) := by
  have hlen : (v.places r).length ≠ 0 := fun h0 => hn (List.length_eq_zero_iff.mp h0)
  have hcommitted : r.committed + (ks.length + 1) = r.committed + 1 + ks.length := by omega
  simp only [Serving.walkOut] at h
  simp only [Serving.walk, h, if_neg hlen, Serving.nth_places, List.length_cons, Nat.add_sub_cancel, hcommitted,
    List.isEmpty_iff, Serving.commit, Serving.givenBack, Serving.relinked, append_ite_nil]
  rfl

end Sys2Proof.Machine
end

section
/-! SUPPORT. The steps of a serving sequence, and the statement about them. -/
set_option Elab.async false

namespace Sys2Proof.Machine

variable {s : State} {v : Serving} {r : Req} {p req : Nat} {lg st : List (List Word)}

/-- A prefill chunk, with its accesses as the model's own chunk of the prompt gives them. -/
theorem prefill_steps {toks : List Nat} {dr : List (List Word)} (h : Stated.Turn s p req v r)
    (htoks : toks = r.prefillToks (s.promptOf p r.desc)) (hst : r.state = .prefill) (hcopy : r.copying = false)
    (hacc : s.tagAccess p ((fld r.desc 32 8, 4 * rqPrompt r.desc, false) ::
      (v.rowRanges ((v.chunkPages r toks).flatMap fun e => e.2.map fun j => (e.1, j)) ++
        (v.chunkPages r toks).flatMap v.mapRanges ++ v.tableRanges r)) = none) :
    ∃ t, exec (.servingWalk p req lg dr) s = .next t ∧ Stated.ReqNow t p req v (v.prefill r toks lg) := by
  obtain ⟨-, -, -, hpages, hslot⟩ := v.prefill_progress r toks lg
  have hnew : (v.prefill r toks lg).pages.drop r.pages.length = v.chunkPages r toks := by
    rw [hpages, List.drop_left]
  rw [← hnew, ← v.tableRanges_congr hslot] at hacc
  exact ⟨_, exec_servingWalk_prefill h hst hcopy (htoks ▸ rfl) hacc, _,
    State.serving_afterPrefill h.canon h.serving r _, rfl, rfl, rfl⟩

/-- A walk, with its accesses as its outcome gives them. -/
theorem walk_steps {out ks : List Nat} (h : Stated.Turn s p req v r) (hst : r.state = .running)
    (hn : v.places r ≠ []) (hlg : lg.length = (v.places r).length)
    (hsl : st.length = (v.places r).length ∨ (v.places r).length ≤ 1)
    (hacc : s.tagAccess p (v.rowRanges (v.nodeSlots r) ++
      ((v.walk r s.fresh lg st).1.pages.drop (r.pages.length - 1)).flatMap v.mapRanges ++ v.tableRanges r) = none)
    (hout : v.walkOut r s.fresh lg st = (out, ks)) :
    ∃ t, exec (.servingWalk p req lg st) s = .next t ∧
      (t.part p).serving = some (v.walked req (v.commit r out ks, v.givenBack r ks)) := by
  have hw := v.walk_of_walkOut hn hout
  rw [hw] at hacc
  exact ⟨_, exec_servingWalk_running h hst hlg hsl hw hacc, State.serving_afterWalk h.canon h.serving r _⟩

/-- A tree of one node draws one token and keeps no other node. -/
theorem Serving.walkOut_of_one_place (hone : (v.places r).length = 1) (fresh : Nat) (l : List Word) :
    v.walkOut r fresh [l] st = ([drawOne r.desc (r.committed + 1) r.counts l], []) := by
  have hparents : (v.parents r).length = 1 := by
    rw [Serving.parents, List.length_map, Serving.nodes, List.length_map, hone]
  exact walkGo_of_kids_nil (Tree.kids_eq_nil hparents.le 0) ..

theorem Serving.relinked_of_getLast? {e : Nat × List Nat} (he : r.pages.getLast? = some e) (ks : List Nat) :
    v.relinked r ks = r.pages.dropLast ++ [(e.1, e.2 ++ v.tailSlots r ks)] ++
      if v.freshSlots r ks = [] then [] else [(r.fresh.getD 0 0, v.freshSlots r ks)] := by
  simp only [Serving.relinked, he, nth]

end Sys2Proof.Machine

open Sys2Proof Sys2Proof.Machine

/-- Settles O35: a chunk of the prompt, a tree of one node, and a drafted tree, whose walk at temperature 0 takes the best
token at every node. -/
theorem servingStepsDrawTokens : Obligations.ServingStepsDrawTokens := by
  intro s p req v r toks n new chunk prompt cs hturn
  refine ⟨?prefill, ?single, ?tree⟩
  case prefill =>
    intro lg dr hst hcopy hacc
    have hprompt : (s.promptOf p r.desc).length = rqPrompt r.desc := by
      rw [State.promptOf, List.length_map, List.length_range]
    obtain ⟨t, hexec, hreq⟩ := prefill_steps (lg := lg) (dr := dr) hturn rfl hst hcopy hacc
    obtain ⟨hfilled, hcommitted, hstepped, hpages, -⟩ := v.prefill_progress r toks lg
    refine ⟨t, v.prefill r toks lg, hexec, hreq, hfilled, hcommitted, hstepped, hpages, fun hlt => ?_, fun hle => ?_⟩
    · obtain ⟨hstate, hrest⟩ := Serving.prefill_of_lt lg hlt
      exact ⟨hstate.trans hst, hrest⟩
    · exact Serving.prefill_of_le lg hprompt rfl hle
  case single =>
    intro lg hst _ hone hacc tok
    have hn : v.places r ≠ [] := List.ne_nil_of_length_eq_add_one hone
    obtain ⟨t, hexec, hserv⟩ := walk_steps (lg := [lg]) hturn hst hn hone.symm (.inr hone.le) hacc
      (Serving.walkOut_of_one_place hone s.fresh lg)
    exact ⟨t, _, _, hexec, hserv, rfl, rfl, rfl, rfl, rfl, rfl, hst, rfl⟩
  case tree =>
    intro lg st out ks e hst hn hlg hsl hlast hacc par draft hgo slot tail above
    have hout : v.walkOut r s.fresh lg st = (out, ks) := by
      rw [Serving.walkOut, ← hlg]
      exact hgo
    obtain ⟨t, hexec, hserv⟩ := walk_steps hturn hst hn hlg (hlg ▸ hsl) hacc hout
    refine ⟨⟨t, v.commit r out ks, _, hexec, hserv, rfl, rfl, rfl, rfl, rfl, rfl, rfl, hlg.symm, rfl, rfl, rfl,
      Serving.relinked_of_getLast? hlast (0 :: ks)⟩, fun hzero => ?_⟩
    have hbest : BestWalk r.desc ⟨par, draft, lg⟩ 0 (r.counts, r.penOvf) out ks := by
      have hwalk := walkGo_bestWalk (t := ⟨par, draft, lg⟩) hzero (lg.length + 1) 0 (r.committed + 1)
        (r.counts, r.penOvf) r.made
      rwa [hgo] at hwalk
    exact ⟨hbest.getElem?_out, hbest.kept⟩

end

section
/-! SUPPORT. Operations that move the register block alone, and the event words after them (R36 to R38). -/
set_option Elab.async false

namespace Sys2Proof.Machine

variable {s t r : State} {k k' : PageKind} {i i' off off' b m : Nat}

theorem Keeps.canon (h : Keeps true s t) (c : s.Canon) : t.Canon := by
  obtain ⟨⟨-, -, hcanon⟩, -⟩ := h
  exact (hcanon c).1

/-! ## Nothing but the register block moves -/

/-- From `s` to `t` only the register block moves. -/
def BusOnly (s t : State) : Prop := ∃ x, t = s.setBus x

namespace BusOnly

theorem refl : BusOnly s s := ⟨s.bus, rfl⟩
theorem trans (h : BusOnly s t) (h' : BusOnly t r) : BusOnly s r := by
  obtain ⟨x, rfl⟩ := h
  obtain ⟨y, rfl⟩ := h'
  exact ⟨y, rfl⟩

theorem mem (h : BusOnly s t) : t.mem = s.mem := by obtain ⟨x, rfl⟩ := h; rfl
theorem units (h : BusOnly s t) : t.units = s.units := by obtain ⟨x, rfl⟩ := h; rfl
theorem stk (h : BusOnly s t) : t.stk = s.stk := by obtain ⟨x, rfl⟩ := h; rfl
theorem parts (h : BusOnly s t) : t.parts = s.parts := by obtain ⟨x, rfl⟩ := h; rfl

theorem ite {c : Prop} [Decidable c] {x y : State} (hx : BusOnly s x) (hy : BusOnly s y) :
    BusOnly s (if c then x else y) := by
  split
  · exact hx
  · exact hy

theorem forN {f : Nat → State → State} (hf : ∀ j x, BusOnly x (f j x)) (n : Nat) (s : State) :
    BusOnly s (forN n s f) :=
  List.foldlRecOn (motive := BusOnly s) _ _ refl fun x hx j _ => hx.trans (hf j x)

theorem setPg {v : Nat} : BusOnly s (s.setPg k i off v) := ⟨_, rfl⟩
theorem count32 {n : Nat} : BusOnly s (s.count32 k i off n) := setPg
theorem count16 {n : Nat} : BusOnly s (s.count16 k i off n) := setPg
theorem moves : BusOnly s (s.moves k i) := ite refl ⟨_, rfl⟩
theorem movesBytes : BusOnly s (s.movesBytes k i) := ite refl ⟨_, rfl⟩

/-- An event fires no vector but on the page of the host. -/
theorem evSet (hk : k ≠ .host) : BusOnly s (s.evSet k i b) := by
  simp only [State.evSet, hk, false_and, if_false]
  exact ite setPg setPg

theorem errLog {code part info1 info2 : Nat} (hk : k ≠ .host) : BusOnly s (s.errLog k i code part info1 info2) :=
  (ite setPg (((setPg.trans setPg).trans setPg).trans setPg)).trans (evSet hk)

theorem evErr {code part info1 info2 : Nat} (hk : k ≠ .host) : BusOnly s (s.evErr k i b code part info1 info2) :=
  (evSet hk).trans (errLog hk)

end BusOnly

/-! ## Bits of a number -/

theorem bit_eq_testBit (v n : Nat) : bit v n = v.testBit n := Nat.testBit_eq_decide_div_mod_eq.symm

/-- Adding a power of two whose bit is clear sets that bit and no other. -/
theorem testBit_add_two_pow {e : Nat} (h : e.testBit b = false) (m : Nat) :
    (e + 2 ^ b).testBit m = (e.testBit m || decide (m = b)) := by
  induction b generalizing e m with
  | zero =>
    rw [Nat.testBit_zero, decide_eq_false_iff_not] at h
    cases m with
    | zero => simp [Nat.testBit_zero, Nat.succ_mod_two_eq_one_iff, Nat.mod_two_ne_one.mp h]
    | succ m =>
      have hhalf : (e + 1) / 2 = e / 2 := by omega
      simp [Nat.testBit_succ, hhalf]
  | succ b ih =>
    rw [Nat.testBit_succ] at h
    cases m with
    | zero => simp [Nat.testBit_zero, pow_succ]
    | succ m =>
      have hhalf : (e + 2 ^ (b + 1)) / 2 = e / 2 + 2 ^ b := by omega
      simp [Nat.testBit_succ, hhalf, ih h]

/-- A register word keeps the low 32 bits of what is written. -/
theorem bit_mod_word (v : Nat) (hm : m < 32) : bit (v % 2 ^ 32) m = bit v m := by
  rw [bit_eq_testBit, bit_eq_testBit, Nat.testBit_mod_two_pow, decide_eq_true hm, Bool.true_and]

/-! ## Register words after events -/

/-- An event moves its page's event word and overrun count only. -/
theorem State.pg_evSet_ne (c : s.Canon) (hk : k ≠ .host)
    (hevt : pageNo k' i' * 0x1000 + off' ≠ pageNo k i * 0x1000 + 0x14)
    (hover : pageNo k' i' * 0x1000 + off' ≠ pageNo k i * 0x1000 + 0x20) :
    (s.evSet k i b).pg k' i' off' = s.pg k' i' off' := by
  simp only [State.evSet, hk, false_and, if_false]
  split
  · exact State.pg_setPg_ne c _ hover
  · exact State.pg_setPg_ne c _ hevt

/-- An event's bit joins the event word. -/
theorem State.bit_evSet (c : s.Canon) (hk : k ≠ .host) (hm : m < 32) :
    bit ((s.evSet k i b).pg k i 0x14) m = (bit (s.pg k i 0x14) m || decide (m = b)) := by
  simp only [State.evSet, hk, false_and, if_false]
  split
  case isTrue hset =>
    rw [State.pg_setPg_ne c _ (by omega)]
    by_cases hmb : m = b
    · simp [hmb, hset]
    · simp [hmb]
  case isFalse hclear =>
    rw [State.pg_setPg c, bit_mod_word _ hm]
    simp only [bit_eq_testBit, Bool.not_eq_true] at hclear ⊢
    exact testBit_add_two_pow hclear m

/-- The event's own bit is set. -/
theorem State.bit_evSet_self (c : s.Canon) (hk : k ≠ .host) (hb : b < 32) :
    bit ((s.evSet k i b).pg k i 0x14) b = true := by
  rw [State.bit_evSet c hk hb, decide_eq_true rfl, Bool.or_true]

theorem State.pg_count32 (c : s.Canon) (n : Nat) :
    (s.count32 k i off n).pg k i off = min (s.pg k i off + n) 0xFFFFFFFF :=
  (State.pg_setPg c ..).trans (Nat.mod_eq_of_lt (by omega))

section
variable {code part info1 info2 : Nat}

/-- A logged error sets ERR in the event word. -/
theorem State.bit_errLog (c : s.Canon) (hk : k ≠ .host) (hm : m < 32) :
    bit ((s.errLog k i code part info1 info2).pg k i 0x14) m = (bit (s.pg k i 0x14) m || decide (m = 0)) := by
  unfold State.errLog
  dsimp only
  split
  · rw [State.bit_evSet (State.canon_setPg c ..) hk hm, State.pg_setPg_ne c _ (by omega)]
  · have c₁ := State.canon_setPg c k i 0x28 (2 ^ 31 + code * 2 ^ 16 + part % 16 * 2 ^ 8)
    have c₂ := State.canon_setPg c₁ k i 0x2C info1
    have c₃ := State.canon_setPg c₂ k i 0x30 info2
    rw [State.bit_evSet (State.canon_setPg c₃ ..) hk hm, State.pg_setPg_ne c₃ _ (by omega),
      State.pg_setPg_ne c₂ _ (by omega), State.pg_setPg_ne c₁ _ (by omega), State.pg_setPg_ne c _ (by omega)]

/-- A logged error leaves other pages as they are. -/
theorem State.pg_errLog_ne (c : s.Canon) (hk : k ≠ .host) (hp : pageNo k' i' ≠ pageNo k i) (hoff : off' < 0x1000) :
    (s.errLog k i code part info1 info2).pg k' i' off' = s.pg k' i' off' := by
  unfold State.errLog
  dsimp only
  split
  · rw [State.pg_evSet_ne (State.canon_setPg c ..) hk (by omega) (by omega), State.pg_setPg_ne c _ (by omega)]
  · have c₁ := State.canon_setPg c k i 0x28 (2 ^ 31 + code * 2 ^ 16 + part % 16 * 2 ^ 8)
    have c₂ := State.canon_setPg c₁ k i 0x2C info1
    have c₃ := State.canon_setPg c₂ k i 0x30 info2
    rw [State.pg_evSet_ne (State.canon_setPg c₃ ..) hk (by omega) (by omega), State.pg_setPg_ne c₃ _ (by omega),
      State.pg_setPg_ne c₂ _ (by omega), State.pg_setPg_ne c₁ _ (by omega), State.pg_setPg_ne c _ (by omega)]

theorem State.bit_evErr_self (c : s.Canon) (hk : k ≠ .host) (hb : b < 32) :
    bit ((s.evErr k i b code part info1 info2).pg k i 0x14) b = true := by
  rw [State.evErr, State.bit_errLog ((Keeps.evSet .refl).canon c) hk hb, State.bit_evSet_self c hk hb,
    Bool.true_or]

theorem State.pg_evErr_ne (c : s.Canon) (hk : k ≠ .host) (hp : pageNo k' i' ≠ pageNo k i) (hoff : off' < 0x1000) :
    (s.evErr k i b code part info1 info2).pg k' i' off' = s.pg k' i' off' := by
  rw [State.evErr, State.pg_errLog_ne ((Keeps.evSet .refl).canon c) hk hp hoff,
    State.pg_evSet_ne c hk (by omega) (by omega)]
end

end Sys2Proof.Machine
end

section
/-! SUPPORT. Granules and transactions at the stacks (R207 to R211, R213, R233), and the statement about them. -/
set_option Elab.async false

namespace Sys2Proof.Machine

variable {s t : State} {n g p tag addr len a : Nat} {data : List Byte}

/-! ## Reads of a state of which a part is known -/

theorem State.byte_of_mem (h : t.mem = s.mem) (a : Nat) : t.byte a = s.byte a := congrArg (tget 0 · a) h
theorem State.gran_of_stk (h : t.stk = s.stk) (j : Nat) : t.gran j = s.gran j := by
  rw [State.gran, h, ← State.gran]

@[simp] theorem State.stk_setBytes (s : State) (a : Nat) (bs : List Byte) : (s.setBytes a bs).stk = s.stk := by
  induction bs generalizing a s with
  | nil => rfl
  | cons x r ih => exact ih ..

@[simp] theorem length_slice (l : List Byte) (off n : Nat) : (slice l off n).length = n := by
  rw [slice, List.length_append, List.length_replicate, List.length_take]
  omega

/-- A slice from the start reads as the list, past whose end bytes read 0. -/
theorem getD_slice_zero (l : List Byte) {j : Nat} (h : j < n) : (slice l 0 n).getD j 0 = l.getD j 0 := by
  rw [slice, List.drop_zero, List.getD_eq_getElem?_getD, List.getD_eq_getElem?_getD]
  by_cases hj : j < l.length
  · rw [List.getElem?_append_left (by rw [List.length_take]; omega), List.getElem?_take_of_lt h]
  · rw [List.getElem?_append_right (by rw [List.length_take]; omega), List.getElem?_eq_none (Nat.le_of_not_lt hj),
      List.getElem?_replicate]
    split <;> rfl

/-! ## Released granules (R211, R213) -/

theorem State.freesPump_of_nil (h : s.stk.frees = []) : s.freesPump = s := by
  have hstk : { s.stk with frees := [] } = s.stk := by rw [← h]
  simp only [State.freesPump, h, List.map_nil, List.filter_nil, List.foldl_nil, hstk]
  rfl

/-- A sealed granule keeps its release owed. -/
theorem exec_granuleRelease_of_sealed (how : (s.gran (granKey n g)).owner = 9) :
    exec (.granuleRelease n g) s = .next s := if_neg fun h => h.2 how

/-- With no MEM_FREE unanswered the release is that of the one granule. -/
theorem exec_granuleRelease (hrel : (s.gran (granKey n g)).releasing = true)
    (how : (s.gran (granKey n g)).owner ≠ 9) (hfrees : s.stk.frees = []) :
    exec (.granuleRelease n g) s = .next (s.enterScrub (granKey n g)) := by
  have hpump : (s.enterScrub (granKey n g)).freesPump = s.enterScrub (granKey n g) := State.freesPump_of_nil hfrees
  change execGranuleRelease n g s = _
  rw [execGranuleRelease, if_pos ⟨hrel, how⟩, hpump]

theorem exec_scrubDone (h : (s.gran (granKey n g)).owner = 0xD) :
    exec (.scrubDone n g) s =
      .next (((s.zeroBytes (granAddr (granKey n g)) (2 ^ 21)).setOwner (granKey n g) 0xF).evSet .stack n 8) := if_pos h

/-! ## Transactions (R209, R210) -/

theorem addrKind_of_stack (h : a < 0x18000000000) : addrKind a = .stack (a / 2 ^ 37) (a % 2 ^ 37) := if_pos h

theorem exec_stackTransaction_write {ecc : Nat} (h : addr < 0x18000000000) (hok : s.firstBad tag true addr len = none) :
    exec (.stackTransaction tag addr len true data ecc) s = .next (s.setBytes addr (slice data 0 len)) := by
  change execStackTransaction tag addr len true data ecc s = _
  simp only [execStackTransaction, addrKind_of_stack h, hok, if_true]

theorem exec_stackTransaction_read {ecc : Nat} (h : addr < 0x18000000000)
    (hok : s.firstBad tag false addr len = none) (hclean : s.poisoned [(addr, len, false)] = none) :
    exec (.stackTransaction tag addr len false data ecc) s =
      .next (if ecc = 2 then s.dramUe tag addr else if ecc = 1 then s.dramCe addr else s) := by
  change execStackTransaction tag addr len false data ecc s = _
  simp only [execStackTransaction, addrKind_of_stack h, hok, hclean, Bool.false_eq_true, if_false]

theorem exec_stackTransaction_refused {write : Bool} {ecc : Nat} (h : addr < 0x18000000000) (htag : tag < 8)
    (hbad : s.firstBad tag write addr len = some a) :
    exec (.stackTransaction tag addr len write data ecc) s = .next (s.refuse tag a) := by
  have hring : tag ≠ 8 := by omega
  change execStackTransaction tag addr len write data ecc s = _
  simp only [execStackTransaction, addrKind_of_stack h, hbad, hring, if_false]

/-- A corrected error shows in the stack's event and count (R207). -/
theorem State.dramCe_shows (c : s.Canon) (h : a < 0x18000000000) :
    BusOnly s (s.dramCe a) ∧ bit ((s.dramCe a).pg .stack (a / 2 ^ 37) 0x14) 3 = true ∧
      (s.dramCe a).pg .stack (a / 2 ^ 37) 0x70 = min (s.pg .stack (a / 2 ^ 37) 0x70 + 1) 0xFFFFFFFF := by
  have hk : PageKind.stack ≠ .host := nofun
  have hevent := State.bit_evSet_self (i := a / 2 ^ 37) (b := 3) c hk (by decide)
  have c₁ : (s.evSet .stack (a / 2 ^ 37) 3).Canon := (Keeps.evSet .refl).canon c
  have c₂ : ((s.evSet .stack (a / 2 ^ 37) 3).count32 .stack (a / 2 ^ 37) 0x70 1).Canon :=
    (Keeps.count32 .refl).canon c₁
  simp only [State.dramCe, addrKind_of_stack h, State.count16]
  refine ⟨((BusOnly.evSet hk).trans .count32).trans .setPg, ?_, ?_⟩
  · rw [State.pg_setPg_ne c₂ _ (by omega), State.count32, State.pg_setPg_ne c₁ _ (by omega)]
    exact hevent
  · rw [State.pg_setPg_ne c₂ _ (by omega), State.pg_count32 c₁, State.pg_evSet_ne c hk (by omega) (by omega)]

/-! ## A refused transaction faults its partition (R210, R322) -/

theorem State.stopUnits_eq_setUnits (s : State) (us : List Nat) : ∃ x, s.stopUnits us = s.setUnits x :=
  List.foldlRecOn (motive := fun t => ∃ x, t = s.setUnits x) _ _ ⟨s.units, rfl⟩ fun _ h _ _ => by
    obtain ⟨x, rfl⟩ := h
    exact ⟨_, rfl⟩

/-- A fault of a partition that can fault: it is FAULTED, and no byte of memory and no page but the partition's own
moves. -/
theorem State.faultPart_of_faultable (c : s.Canon) (hst : (s.part p).st.faultable = true) (typ inst code : Nat) :
    ((s.faultPart p typ inst code).part p).st = .faulted ∧ (s.faultPart p typ inst code).mem = s.mem ∧
      ∀ k i off, pageNo k i ≠ pageNo .part p → off < 0x1000 →
        (s.faultPart p typ inst code).pg k i off = s.pg k i off := by
  have hk : PageKind.part ≠ .host := nofun
  simp only [State.faultPart, hst, if_true]
  generalize hq : ({ s.part p with
    st := .faulted, tearing := true, scrub := s.partUnits p, faultSrc := w32 (typ + inst * 2 ^ 16)
    faultInfo := w32 code, faultTime := s.now } : Part) = q
  have hfaulted : q.st = .faulted := hq ▸ rfl
  have c₁ : (s.setPart p q).Canon := (Keeps.setPart .refl).canon c
  have hbus : BusOnly (s.setPart p q) ((s.setPart p q).evErr .part p 1 1 p (typ + inst * 2 ^ 16) 0) := .evErr hk
  obtain ⟨x, hx⟩ := State.stopUnits_eq_setUnits ((s.setPart p q).evErr .part p 1 1 p (typ + inst * 2 ^ 16) 0)
    (((s.setPart p q).evErr .part p 1 1 p (typ + inst * 2 ^ 16) 0).partUnits p)
  rw [hx]
  refine ⟨?_, hbus.mem, fun k i off hp hoff => State.pg_evErr_ne c₁ hk hp hoff⟩
  exact (congrArg Part.st ((State.part_eq_of_parts hbus.parts p).trans (State.part_setPart c p q))).trans hfaulted

/-- The stack refuses a running partition's transaction with ACCESS. -/
theorem State.refuse_shows (c : s.Canon) (h : a < 0x18000000000) (htag : tag < 8) (hrun : (s.part tag).st = .running) :
    (s.refuse tag a).mem = s.mem ∧ ((s.refuse tag a).part tag).st = .faulted ∧
      bit ((s.refuse tag a).pg .stack (a / 2 ^ 37) 0x14) 1 = true := by
  have hk : PageKind.stack ≠ .host := nofun
  have hpage : pageNo .stack (a / 2 ^ 37) ≠ pageNo .part tag := by
    simp only [pageNo]
    omega
  have hbus : BusOnly s (s.evErr .stack (a / 2 ^ 37) 1 1 tag (a % 2 ^ 32) (a / 2 ^ 32)) := .evErr hk
  have hevent := State.bit_evErr_self (i := a / 2 ^ 37) (code := 1) (part := tag) (info1 := a % 2 ^ 32)
    (info2 := a / 2 ^ 32) (b := 1) c hk (by decide)
  have c₁ : (s.evErr .stack (a / 2 ^ 37) 1 1 tag (a % 2 ^ 32) (a / 2 ^ 32)).Canon :=
    (Keeps.evErr .refl).canon c
  simp only [State.refuse, addrKind_of_stack h, htag, if_true, State.faultFrom]
  generalize s.evErr .stack (a / 2 ^ 37) 1 1 tag (a % 2 ^ 32) (a / 2 ^ 32) = t at hbus hevent c₁ ⊢
  have hst : (t.part tag).st.faultable = true := by
    rw [State.part_eq_of_parts hbus.parts, hrun]
    rfl
  obtain ⟨hfaulted, hmem, hpg⟩ :=
    State.faultPart_of_faultable c₁ hst (typeCode .stack) (blkInstance .stack (a / 2 ^ 37)) 1
  refine ⟨hmem.trans hbus.mem, hfaulted, ?_⟩
  rw [hpg .stack (a / 2 ^ 37) 0x14 hpage (by decide)]
  exact hevent

end Sys2Proof.Machine

open Sys2Proof Sys2Proof.Machine

/-- Settles O34: a released granule by its owner code, the scrub by the bytes it zeroes, a transaction by its tag's
rights. -/
theorem granulesAndTransactions : Obligations.GranulesAndTransactions := by
  intro s c
  refine ⟨?sealed, ?released, ?scrubbed, ?written, ?read, ?refused⟩
  case sealed => exact fun n g _ how => exec_granuleRelease_of_sealed how
  case released =>
    intro n g hrel how hfrees
    exact ⟨_, exec_granuleRelease hrel how hfrees, rfl, State.gran_setGran c ..⟩
  case scrubbed =>
    intro n g how
    have hk : PageKind.stack ≠ .host := nofun
    have cz : (s.zeroBytes (granAddr (granKey n g)) (2 ^ 21)).Canon := (Keeps.zeroBytes .refl).canon c
    have co : ((s.zeroBytes (granAddr (granKey n g)) (2 ^ 21)).setOwner (granKey n g) 0xF).Canon :=
      (Keeps.setOwner .refl).canon cz
    have hbyte (a : Nat) := State.byte_zeroBytes c.mem (granAddr (granKey n g)) (2 ^ 21) a
    refine ⟨_, exec_scrubDone how, ?_, fun i hi => ?_, fun a ha => ?_, ?_⟩
    · rw [State.gran_of_stk (BusOnly.evSet hk).stk]
      exact congrArg Gran.owner (State.gran_setGran cz ..)
    · rw [State.byte_of_mem (BusOnly.evSet hk).mem]
      exact (hbyte _).trans (if_pos (by omega))
    · rw [State.byte_of_mem (BusOnly.evSet hk).mem]
      exact (hbyte a).trans (if_neg (by omega))
    · exact State.bit_evSet_self co hk (by decide)
  case written =>
    intro tag addr len data ecc haddr hok
    refine ⟨_, exec_stackTransaction_write haddr hok, State.stk_setBytes .., State.parts_setBytes .., fun a => ?_⟩
    rw [State.byte_setBytes c.mem, length_slice]
    refine ite_congr rfl (fun ha => getD_slice_zero data (by omega)) fun _ => rfl
  case read =>
    intro tag addr len data haddr hok hclean
    obtain ⟨hbus, hevent, hcount⟩ := State.dramCe_shows c haddr
    exact ⟨exec_stackTransaction_read haddr hok hclean, _, exec_stackTransaction_read haddr hok hclean, hbus.mem,
      hbus.parts, hevent, hcount⟩
  case refused =>
    intro tag addr len write data ecc a haddr htag ha hbad hrun
    exact ⟨_, exec_stackTransaction_refused haddr htag hbad, State.refuse_shows c ha htag hrun⟩

end

section
/-! SUPPORT. A response written to a completion ring that has room for it and is quiet (R331 to R333, R342). -/
set_option Elab.async false

namespace Sys2Proof.Machine

variable {s t : State} {r q st : Nat} {bs : List Byte} {e : Entry}

/-! ## Bytes laid in a list -/

theorem length_lay (l : List Byte) (off : Nat) (bs : List Byte) :
    (lay l off bs).length = max l.length (off + bs.length) := by
  simp only [lay, List.length_append, List.length_take, List.length_drop, List.length_replicate]
  omega

@[simp] theorem length_leBytes (n v : Nat) : (leBytes n v).length = n := by
  induction n generalizing v with
  | zero => rfl
  | succ n ih => simp [leBytes, ih]

/-- Sealing fills fields of the header. -/
theorem length_sealEntryBytes (h : 12 ≤ bs.length) (phase : Bool) (vents : Nat) :
    (sealEntryBytes bs phase vents).length = bs.length := by
  simp only [sealEntryBytes, length_lay, length_leBytes]
  split <;> simp only [length_lay, length_leBytes] <;> omega

/-- A response is one slot. -/
theorem length_responseBytes (ver part opcode flag seq tag start fin : Nat) (o : Compl) :
    (entryBytes ver part opcode flag seq tag (o.body start fin)).length = 64 := by
  have hbody : (o.body start fin).length = 48 := by simp [Compl.body]
  simp only [entryBytes, length_slice, hbody]
  rfl

/-! ## Host memory -/

/-- Bytes laid down move memory alone. -/
theorem State.setBytes_eq_setMem (s : State) (a : Nat) (bs : List Byte) : ∃ x, s.setBytes a bs = s.setMem x := by
  induction bs generalizing a s with
  | nil => exact ⟨s.mem, rfl⟩
  | cons x l ih => exact ih (s.setByte a x) (a + 1)

theorem State.setHostBytes_eq_setMem (s : State) (a : Nat) (bs : List Byte) :
    ∃ x, s.setHostBytes a bs = s.setMem x := by
  unfold State.setHostBytes
  split
  · exact State.setBytes_eq_setMem ..
  · exact ⟨s.mem, rfl⟩

theorem State.mem_setBytes_congr (h : t.mem = s.mem) (a : Nat) (bs : List Byte) :
    (t.setBytes a bs).mem = (s.setBytes a bs).mem := by
  induction bs generalizing a s t with
  | nil => exact h
  | cons x l ih => exact ih (congrArg (tput 0 · a x) h) (a + 1)

theorem State.mem_setHostBytes_congr (h : t.mem = s.mem) (ht : t.taps = s.taps) (a : Nat) (bs : List Byte) :
    (t.setHostBytes a bs).mem = (s.setHostBytes a bs).mem := by
  have hdrives : t.drives 0 = s.drives 0 := by simp only [State.drives, State.tap, ht]
  simp only [State.setHostBytes, hdrives]
  split
  · exact State.mem_setBytes_congr h ..
  · exact h

/-! ## The parts of a write -/

/-- One more entry on ring `r` sends no interrupt message: moderation holds it back, or the vector is masked (R333). -/
def State.Quiet (s : State) (r : Nat) : Prop :=
  bits (s.ringRg r 0x24) 7 0 = 0 ∨ (s.ring r).irqCnt + 1 < bits (s.ringRg r 0x24) 7 0 ∨
    bit (s.pg .host 0 (0x80C + 16 * r)) 0 = true

/-- A slot written moves memory at the tail, and the tail. -/
theorem State.cqPut_slot (c : s.Canon) (hbs : bs.length = 64) :
    (s.cqPut r bs).mem = (s.setHostBytes (s.ringBase r 0x08 + s.ringRg r 0x20 % s.cqSize r * 64) bs).mem ∧
      (s.cqPut r bs).parts = s.parts ∧
      (s.cqPut r bs).ringRg r 0x20 = (s.ringRg r 0x20 + 1) % 2 ^ 32 ∧
      ∀ off, off ≠ ringOff r 0x20 → (s.cqPut r bs).pg .host 0 off = s.pg .host 0 off := by
  have ch : (s.setHostBytes (s.ringBase r 0x08 + s.ringRg r 0x20 % s.cqSize r * 64) bs).Canon :=
    (Keeps.setHostBytes .refl).canon c
  obtain ⟨x, hx⟩ := s.setHostBytes_eq_setMem (s.ringBase r 0x08 + s.ringRg r 0x20 % s.cqSize r * 64) bs
  simp only [State.cqPut, hbs]
  rw [hx] at ch ⊢
  exact ⟨rfl, rfl, State.pg_setPg ch .., fun off hoff => State.pg_setPg_ne ch _ (by omega)⟩

/-- A ring once message `q` is answered with status `st`. -/
def Ring.record (g : Ring) (q st : Nat) : Ring :=
  { g with hist := (q, st) :: g.hist.take 65535, opens := g.opens.eraseP fun o => o.1 == q }

/-- A partition without the commands answered under number `q`. -/
def Part.drop (x : Part) (q : Nat) : Part :=
  { x with cmds := x.cmds.filter fun c => !(c.seq == q && c.phase == .answered) }

/-- From `s` to `t` the answer is recorded on ring `r` and in its partition's commands; neither memory nor a register
moves. -/
structure Recorded (s t : State) (r q st : Nat) : Prop where
  canon : t.Canon
  mem : t.mem = s.mem
  bus : t.bus = s.bus
  ring : t.ring r = (s.ring r).record q st
  cmds : (t.part r).cmds = ((s.part r).drop q).cmds
  pause : (t.part r).pause = (s.part r).pause

theorem State.part_modRed (c : s.Canon) (p n : Nat) (f : StepRed → StepRed) :
    ∃ x, (s.modRed p n f).part p = { s.part p with step := x } := ⟨_, State.part_setPart c ..⟩

/-- An outcome is kept, its message and its commands leave; what counts for its step or its micro-batch touches nothing
of these. -/
theorem State.answered_records (c : s.Canon) (r q st : Nat) : Recorded s (s.answered r q st) r q st := by
  have c₁ : (s.setRing r ((s.ring r).record q st)).Canon := (Keeps.setRing .refl).canon c
  have hpart := State.part_setPart c₁ r ((s.part r).drop q)
  refine List.foldlRecOn (motive := fun t => Recorded s t r q st) _ _ ⟨(Keeps.setPart .refl).canon c₁,
    rfl, rfl, State.ring_setRing c .., congrArg Part.cmds hpart, (congrArg Part.pause hpart).trans rfl⟩ ?_
  intro t ht k _
  dsimp only
  split
  · exact ⟨(Keeps.setSprue .refl).canon ht.canon, ht.mem, ht.bus, ht.ring, ht.cmds, ht.pause⟩
  · split
    · obtain ⟨y, hy⟩ := State.part_modRed ht.canon r (fld k.data 0 8)
        fun x => { x with done := x.done ++ [fld k.data 8 2] }
      exact ⟨(Keeps.modRed .refl).canon ht.canon, ht.mem, ht.bus, ht.ring,
        (congrArg Part.cmds hy).trans ht.cmds, (congrArg Part.pause hy).trans ht.pause⟩
    · exact ht

/-- A ring with one more entry counted since its vector fired. -/
def Ring.counted (g : Ring) (now : Nat) : Ring :=
  { g with irqCnt := g.irqCnt + 1, irqAt := if g.irqCnt = 0 then now else g.irqAt }

/-- A ring whose vector has just fired. -/
def Ring.fired (g : Ring) : Ring := { g with irqCnt := 0, irqAt := 0 }

theorem State.ring_modRing (c : s.Canon) (r : Nat) (f : Ring → Ring) : (s.modRing r f).ring r = f (s.ring r) :=
  State.ring_setRing c ..

/-- On a quiet ring an entry is only counted. -/
theorem State.irqEntry_of_quiet (c : s.Canon) (h : s.Quiet r) :
    (s.irqEntry r false).mem = s.mem ∧ (s.irqEntry r false).parts = s.parts ∧
      (s.irqEntry r false).ringRg r 0x20 = s.ringRg r 0x20 ∧
      ((s.irqEntry r false).ring r).hist = (s.ring r).hist ∧ ((s.irqEntry r false).ring r).waitq = (s.ring r).waitq ∧
      ((s.irqEntry r false).ring r).fences = (s.ring r).fences := by
  have hring := State.ring_setRing c r ((s.ring r).counted s.now)
  have c₁ : (s.setRing r ((s.ring r).counted s.now)).Canon := (Keeps.setRing .refl).canon c
  by_cases hfires : bits (s.ringRg r 0x24) 7 0 ≠ 0 ∧
      (false = true ∨ (s.ring r).irqCnt + 1 ≥ bits (s.ringRg r 0x24) 7 0)
  case neg =>
    have hentry : s.irqEntry r false = s.setRing r ((s.ring r).counted s.now) := if_neg hfires
    rw [hentry, hring]
    exact ⟨rfl, rfl, rfl, rfl, rfl, rfl⟩
  case pos =>
    have hmask : bit (s.pg .host 0 (0x800 + 16 * r + 12)) 0 = true := by
      have hoff : 0x800 + 16 * r + 12 = 0x80C + 16 * r := by omega
      obtain ⟨hon, hoften⟩ := hfires
      obtain h | h | h := h
      · exact absurd h hon
      · simp only [Bool.false_eq_true, false_or] at hoften
        exact absurd hoften (Nat.not_le.mpr h)
      · rwa [hoff]
    have hentry : s.irqEntry r false =
        ((s.setRing r ((s.ring r).counted s.now)).setPg .host 0 0xC00 (s.pg .host 0 0xC00 ||| 2 ^ r)).modRing r
          Ring.fired :=
      (if_pos hfires).trans (congrArg (State.modRing · r _) (if_pos hmask))
    have c₂ := State.canon_setPg c₁ .host 0 0xC00 (s.pg .host 0 0xC00 ||| 2 ^ r)
    have htail : ringOff r 0x20 ≠ 0xC00 := by
      unfold ringOff
      omega
    have hring₂ := (State.ring_modRing c₂ r Ring.fired).trans (congrArg Ring.fired hring)
    rw [hentry, hring₂]
    exact ⟨rfl, rfl, State.pg_setPg_ne c₁ _ (by omega), rfl, rfl, rfl⟩

theorem State.fencePump_of_nil (h : (s.ring r).fences = []) : s.fencePump r = s := by
  simp only [State.fencePump, h, List.any_nil, Bool.false_eq_true, if_false]
  split <;> rfl

/-! ## The response -/

/-- From `s` to `t` one slot of bytes `bs` answers message `q` of ring `r` with status `st`, and the commands that were
answered under that number are gone. -/
structure Posted (s t : State) (r : Nat) (bs : List Byte) (q st : Nat) : Prop where
  mem : t.mem = (s.setHostBytes (s.ringBase r 0x08 + s.ringRg r 0x20 % s.cqSize r * 64)
    (sealEntryBytes bs (s.cqPhase r) ((s.ring r).vents % 2 ^ 32))).mem
  tail : t.ringRg r 0x20 = (s.ringRg r 0x20 + 1) % 2 ^ 32
  hist : (t.ring r).hist = (q, st) :: (s.ring r).hist.take 65535
  cmds : (t.part r).cmds = ((s.part r).drop q).cmds
  pause : (t.part r).pause = (s.part r).pause

/-- The slot, the ring's record `g` of what waits, the answer and the interrupt of one entry, taken together. -/
theorem State.posted_slot (c : s.Canon) (hquiet : s.Quiet r) (hbs : bs.length = 64) {g : Ring}
    (hhist : g.hist = (s.ring r).hist) (hcount : g.irqCnt = (s.ring r).irqCnt) (hfences : g.fences = []) :
    let t := ((((s.cqPut r (sealEntryBytes bs (s.cqPhase r) ((s.ring r).vents % 2 ^ 32))).setRing r g).answered r q
      st).irqEntry r false).fencePump r
    Posted s t r bs q st ∧ (t.ring r).waitq = g.waitq := by
  have hsealed : (sealEntryBytes bs (s.cqPhase r) ((s.ring r).vents % 2 ^ 32)).length = 64 :=
    (length_sealEntryBytes (by omega) ..).trans hbs
  obtain ⟨hmem, hparts, htail, hpg⟩ := State.cqPut_slot (r := r) c hsealed
  have c₁ : (s.cqPut r (sealEntryBytes bs (s.cqPhase r) ((s.ring r).vents % 2 ^ 32))).Canon :=
    (Keeps.cqPut .refl).canon c
  generalize s.cqPut r (sealEntryBytes bs (s.cqPhase r) ((s.ring r).vents % 2 ^ 32)) = s₁ at *
  have c₂ : (s₁.setRing r g).Canon := (Keeps.setRing .refl).canon c₁
  have hring₂ : (s₁.setRing r g).ring r = g := State.ring_setRing c₁ r g
  have hpart₂ : (s₁.setRing r g).part r = s.part r := State.part_eq_of_parts hparts r
  obtain ⟨c₃, hmem₃, hbus₃, hring₃, hcmds₃, hpause₃⟩ := State.answered_records c₂ r q st
  generalize (s₁.setRing r g).answered r q st = s₃ at *
  rw [hring₂] at hring₃
  have hpg₃ (off : Nat) : s₃.pg .host 0 off = s₁.pg .host 0 off := by
    simp only [State.pg, State.rg, hbus₃, State.setRing, State.setRings_bus]
  have hquiet₃ : s₃.Quiet r := by
    have hmod : s₃.ringRg r 0x24 = s.ringRg r 0x24 := (hpg₃ _).trans (hpg _ (by simp [ringOff]))
    have hmask : s₃.pg .host 0 (0x80C + 16 * r) = s.pg .host 0 (0x80C + 16 * r) :=
      (hpg₃ _).trans (hpg _ (by unfold ringOff; omega))
    have hirq : (s₃.ring r).irqCnt = (s.ring r).irqCnt := (congrArg Ring.irqCnt hring₃).trans hcount
    rwa [State.Quiet, hmod, hmask, hirq]
  obtain ⟨hmem₄, hparts₄, htail₄, hhist₄, hwaitq₄, hfences₄⟩ := State.irqEntry_of_quiet c₃ hquiet₃
  have hpump : (s₃.irqEntry r false).fencePump r = s₃.irqEntry r false :=
    State.fencePump_of_nil (hfences₄.trans ((congrArg Ring.fences hring₃).trans hfences))
  have hpart₄ := State.part_eq_of_parts hparts₄ r
  dsimp only
  rw [hpump]
  refine ⟨⟨hmem₄.trans (hmem₃.trans hmem), htail₄.trans ((hpg₃ _).trans htail), ?_, ?_, ?_⟩,
    hwaitq₄.trans ((congrArg Ring.waitq hring₃).trans rfl)⟩
  · rw [hhist₄, hring₃, ← hhist]
    rfl
  · rw [hpart₄, hcmds₃, hpart₂]
  · rw [hpart₄, hpause₃, hpart₂]

/-- An answer of one slot is written where there is room. -/
theorem State.writeOne_slot (c : s.Canon) (hroom : 1 ≤ s.cqRoom r) (hfences : (s.ring r).fences = [])
    (hquiet : s.Quiet r) (hbytes : e.bytes.length = 64) (hans : e.ans = some (q, st))
    (hurgent : e.urgent = false) (rest : List Entry) :
    ∃ t, s.writeOne r e rest = some t ∧ Posted s t r e.bytes q st ∧ (t.ring r).waitq = rest := by
  have hpos : s.ringRg r 0x20 % s.cqSize r < s.cqSize r := Nat.mod_lt _ (Nat.two_pow_pos _)
  have hfits : ¬ s.ringRg r 0x20 % s.cqSize r + 1 > s.cqSize r := by omega
  have hnow : ¬ s.cqRoom r < 0 + 1 := by omega
  have hslot : e.bytes.length / 64 = 1 := by rw [hbytes]
  refine ⟨_, ?_, State.posted_slot c hquiet hbytes (g := { s.ring r with
    waitq := rest, vents := (s.ring r).vents + b2n (bit (fld e.bytes 4 2) 14) }) rfl rfl hfences⟩
  simp only [State.writeOne, hslot, if_neg hfits, if_neg hnow, if_true, hans, hurgent]

/-- A ring on which nothing waits but `e`. -/
def Ring.waiting (g : Ring) (e : Entry) : Ring := { g with waitq := [e] }

/-- On a free ring an answer is written at once. -/
theorem State.post_of_ringFree (c : s.Canon) (h : Stated.RingFree s r) (hbytes : e.bytes.length = 64)
    (hans : e.ans = some (q, st)) (hurgent : e.urgent = false) : Posted s (s.post r e) r e.bytes q st := by
  obtain ⟨hready, hpins, hen, hwaitq, hfences, hroom, hquiet⟩ := h
  have hring := State.ring_setRing c r ((s.ring r).waiting e)
  have c₁ : (s.setRing r ((s.ring r).waiting e)).Canon := (Keeps.setRing .refl).canon c
  have hqueue : s.modRing r (fun g => { g with waitq := g.waitq ++ [e] }) = s.setRing r ((s.ring r).waiting e) := by
    rw [State.modRing, hwaitq]
    rfl
  have hposted : ∃ t, (s.setRing r ((s.ring r).waiting e)).writeOne r e [] = some t ∧
      Posted (s.setRing r ((s.ring r).waiting e)) t r e.bytes q st ∧ (t.ring r).waitq = [] :=
    State.writeOne_slot c₁ hroom (by rw [hring]; exact hfences) (by rw [State.Quiet, hring]; exact hquiet) hbytes hans
      hurgent []
  obtain ⟨t, hwrite, ⟨hmem, htail, hhist, hcmds, hpause⟩, hdone⟩ := hposted
  have hflush : (s.setRing r ((s.ring r).waiting e)).flushOne r = some t := by
    rw [State.flushOne, hring]
    exact hwrite
  have hstop : t.flushOne r = none := by rw [State.flushOne, hdone]
  have hdrain : (s.setRing r ((s.ring r).waiting e)).drain r = t := by
    rw [State.drain, if_pos ⟨hready, hen, hpins⟩, repeatStep_some _ _ _ _ hflush, repeatStep_none _ _ _ hstop]
  have hpost : s.post r e = t := by
    rw [State.post, hqueue, hdrain, State.cqWait, hdone]
    rfl
  rw [hring] at hmem hhist
  rw [hpost]
  refine ⟨hmem.trans ?_, htail, hhist, hcmds, hpause⟩
  exact State.mem_setHostBytes_congr (s := s) (t := s.setRing r ((s.ring r).waiting e)) rfl rfl _ _

/-- The response to a message on a free ring (R342). -/
theorem State.respond_of_ringFree (c : s.Canon) (h : Stated.RingFree s r) (opcode part seq tag : Nat) (o : Compl)
    (start : Nat) :
    Posted s (s.respond r opcode part seq tag o start) r
      (entryBytes (s.ringVer r) part opcode 0x2000 seq tag (o.body start s.dev.time)) seq o.status :=
  State.post_of_ringFree c h (length_responseBytes ..) rfl rfl

end Sys2Proof.Machine
end

section
/-! SUPPORT. Commands by identifier, heads of queues, and a command answered without having started (R312,
R313, R340). -/
set_option Elab.async false

namespace Sys2Proof.Machine

variable {s t : State} {p q i j : Nat} {k : Cmd} {f : Cmd → Cmd} {l : List Cmd}

/-! ## Lists of commands -/

section
variable {α β : Type} {g h : α → Bool} {u : α → α}

theorem find?_updFirst (hu : ∀ a, g (u a) = g a) (l : List α) : (updFirst g u l).find? g = (l.find? g).map u := by
  induction l with
  | nil => rfl
  | cons a l ih =>
    by_cases ha : g a
    · simp [updFirst, ha, hu]
    · simp [updFirst, ha, ih]

/-- What is sought by another test is found as before. -/
theorem find?_updFirst_of_disjoint (hu : ∀ a, h (u a) = h a) (hd : ∀ a, g a = true → h a = false) (l : List α) :
    (updFirst g u l).find? h = l.find? h := by
  induction l with
  | nil => rfl
  | cons a l ih =>
    by_cases ha : g a
    · simp [updFirst, ha, hu, hd a ha]
    · simp [updFirst, ha, ih, List.find?_cons]

theorem map_updFirst {v : α → β} (hu : ∀ a, v (u a) = v a) (l : List α) : (updFirst g u l).map v = l.map v := by
  induction l with
  | nil => rfl
  | cons a l ih =>
    by_cases ha : g a
    · simp [updFirst, ha, hu]
    · simp [updFirst, ha, ih]
end

/-- Identifiers that do not repeat find each command. -/
theorem find?_cid_of_mem (hids : (l.map (·.cid)).Nodup) (hk : k ∈ l) : l.find? (fun x => x.cid == k.cid) = some k := by
  obtain ⟨x, hx⟩ := Option.isSome_iff_exists.mp
    (List.find?_isSome.mpr ⟨k, hk, beq_self_eq_true k.cid⟩ : (l.find? fun x => x.cid == k.cid).isSome)
  have hcid : x.cid = k.cid := by simpa using List.find?_some hx
  rw [hx, List.inj_on_of_nodup_map hids (List.mem_of_find?_eq_some hx) hk hcid]

theorem State.part_modCmd (c : s.Canon) (p i : Nat) (f : Cmd → Cmd) :
    (s.modCmd p i f).part p = { s.part p with cmds := updFirst (fun x => x.cid == i) f (s.part p).cmds } :=
  State.part_setPart c ..

theorem State.cmd?_modCmd (c : s.Canon) (hf : ∀ x, (f x).cid = x.cid) (p i : Nat) :
    (s.modCmd p i f).cmd? p i = (s.cmd? p i).map f := by
  rw [State.cmd?, State.part_modCmd c]
  exact find?_updFirst (fun x => by rw [hf]) _

theorem State.cmd?_modCmd_ne (c : s.Canon) (hf : ∀ x, (f x).cid = x.cid) (p : Nat) (h : j ≠ i) :
    (s.modCmd p i f).cmd? p j = s.cmd? p j := by
  rw [State.cmd?, State.part_modCmd c]
  refine find?_updFirst_of_disjoint (fun x => by rw [hf]) (fun x hx => ?_) _
  rw [beq_iff_eq.mp hx]
  exact beq_false_of_ne h.symm

theorem State.cmd?_of_parts (h : t.parts = s.parts) (p i : Nat) : t.cmd? p i = s.cmd? p i := by
  rw [State.cmd?, State.part_eq_of_parts h, ← State.cmd?]

/-! ## A head and its turn -/

theorem State.mem_of_heads (h : Stated.Heads s p q k) : k ∈ (s.part p).cmds := List.mem_of_find?_eq_some h.head

theorem State.cmd?_of_heads (h : Stated.Heads s p q k) : s.cmd? p k.cid = some k :=
  find?_cid_of_mem h.ids (State.mem_of_heads h)

/-- A queued head without an outcome is answered, tried or waits, by its dependencies and its gate. -/
theorem exec_commandReady_queued (h : Stated.Heads s p q k) (hq : k.phase = .queued) (ho : k.out = none) :
    exec (.commandReady p q) s = .next (
      if s.depFailed p k then s.refuseCmd p k { Compl.of 8 with cflags := cfDEPFAIL }
      else if s.isReady p k then s.tryStart p k else s) := by
  change execCommandReady p q s = _
  simp only [execCommandReady, h.range, h.starts, h.head, hq, ho, and_self, if_true]
  split
  · rfl
  · split <;> rfl

theorem State.depFailed_iff :
    s.depFailed p k = true ↔ ∃ d ∈ k.deps, ∃ st, s.outcome p d = some st ∧ st ≠ 0 := by
  rw [State.depFailed, List.any_eq_true]
  refine exists_congr fun d => and_congr_right fun _ => ?_
  cases s.outcome p d <;> simp

theorem State.isReady_iff_of_queued (hq : k.phase = .queued) (ho : k.out = none) :
    s.isReady p k = true ↔ (∀ d ∈ k.deps, s.outcome p d = some 0) ∧ s.gateOpen p k = true := by
  simp [State.isReady, State.depsMet, hq, ho]

/-- Dependencies that all ended with OK have not failed. -/
theorem State.depFailed_of_met (h : ∀ d ∈ k.deps, ∀ st, s.outcome p d = some st → st = 0) :
    s.depFailed p k = false := by
  rw [Bool.eq_false_iff, ne_eq, State.depFailed_iff]
  rintro ⟨d, hd, st, hst, hne⟩
  exact hne (h d hd st hst)

/-- A head whose dependencies and gate let it pass is tried. -/
theorem exec_commandReady_ready (h : Stated.Heads s p q k) (hq : k.phase = .queued) (ho : k.out = none)
    (hdeps : ∀ d ∈ k.deps, s.outcome p d = some 0) (hgate : s.gateOpen p k = true) :
    exec (.commandReady p q) s = .next (s.tryStart p k) := by
  have hfailed : s.depFailed p k = false :=
    State.depFailed_of_met fun d hd st hst => Option.some.inj (hst.symm.trans (hdeps d hd))
  rw [exec_commandReady_queued h hq ho, hfailed, (State.isReady_iff_of_queued hq ho).mpr ⟨hdeps, hgate⟩]
  rfl

/-- A head that nothing refuses starts without units, waits, starts on its units, or has their holders judged. -/
theorem exec_commandReady_mayStart (h : Stated.MayStart s p q k) :
    exec (.commandReady p q) s = .next (
      if (s.unitsOf k.opcode k.msg).isEmpty then s.startFree p k
      else if !s.chosen p k then s
      else if (s.holders p (s.unitsOf k.opcode k.msg)).isEmpty then s.started p k [] (s.unitsOf k.opcode k.msg)
      else s.quenchDecision p k (s.unitsOf k.opcode k.msg)) := by
  rw [exec_commandReady_ready h.toHeads h.phase h.out h.deps h.gate]
  simp only [State.tryStart, h.records, h.allowed]

/-! ## Answered without having started -/

/-- A command that has been answered. -/
def Cmd.closed (k : Cmd) : Cmd := { k with phase := .answered, units := [], out := none }

/-- A partition whose command `i` has been answered. -/
def Part.close (x : Part) (i : Nat) : Part := { x with cmds := updFirst (fun d => d.cid == i) Cmd.closed x.cmds }

/-- An answer closes the command and lifts its marks, then responds. -/
theorem State.answerCmd_eq (s : State) (p : Nat) (k : Cmd) (o : Compl) (start : Nat) :
    ∃ m r, s.answerCmd p k o start =
      ((s.setPart p ((s.part p).close k.cid)).setStk { s.stk with marks := m, readMarks := r }).respond p k.opcode
        (ringPart p) k.seq k.tag.toNat o start := ⟨_, _, rfl⟩

theorem State.pausePump_of_none (h : (s.part p).pause = none) (boundary : Bool) : s.pausePump p boundary = s := by
  simp only [State.pausePump, h]

/-- Nothing of a closed command's identifier is left once the commands answered under its number are gone. -/
theorem find?_drop_close {x : Part} (hids : (x.cmds.map (·.cid)).Nodup) (hk : k ∈ x.cmds) :
    ((x.close k.cid).drop k.seq).cmds.find? (fun d => d.cid == k.cid) = none := by
  have hids' : ((x.close k.cid).cmds.map (·.cid)).Nodup :=
    (congrArg List.Nodup (map_updFirst (u := Cmd.closed) (fun _ => rfl) x.cmds)).mpr hids
  have hfound : (x.close k.cid).cmds.find? (fun d => d.cid == k.cid) = some k.closed :=
    (find?_updFirst (u := Cmd.closed) (fun _ => rfl) x.cmds).trans
      (congrArg (Option.map Cmd.closed) (find?_cid_of_mem hids hk))
  rw [List.find?_eq_none]
  intro d hd hcid
  obtain ⟨hmem, hkept⟩ := List.mem_filter.mp hd
  have hself := find?_cid_of_mem hids' hmem
  rw [beq_iff_eq.mp hcid, hfound] at hself
  rw [← Option.some.inj hself] at hkept
  simp [Cmd.closed] at hkept

/-- A head that is refused is answered on a free ring, and gone. -/
theorem State.refuseCmd_answers (h : Stated.Heads s p q k) (hf : Stated.RingFree s p) (hp : (s.part p).pause = none)
    (o : Compl) :
    (s.refuseCmd p k o).cmd? p k.cid = none ∧
      Stated.Response s (s.refuseCmd p k o) p k.opcode (ringPart p) k.seq k.tag.toNat 0 o := by
  obtain ⟨m, r, hanswer⟩ := s.answerCmd_eq p k o 0
  have c₁ : ((s.setPart p ((s.part p).close k.cid)).setStk { s.stk with marks := m, readMarks := r }).Canon :=
    ((Keeps.setPart .refl).setStk (x := { s.stk with marks := m, readMarks := r })
      fun c => ⟨c.st, c.gran⟩).canon h.canon
  have hpart : ((s.setPart p ((s.part p).close k.cid)).setStk { s.stk with marks := m, readMarks := r }).part p =
      (s.part p).close k.cid := State.part_setPart h.canon ..
  have hfree :
      Stated.RingFree ((s.setPart p ((s.part p).close k.cid)).setStk { s.stk with marks := m, readMarks := r }) p :=
    ⟨hf.ready, hf.pins, hf.en, hf.waitq, hf.fences, hf.room, hf.quiet⟩
  obtain ⟨hmem, htail, hhist, hcmds, hpause⟩ :=
    State.respond_of_ringFree c₁ hfree k.opcode (ringPart p) k.seq k.tag.toNat o 0
  rw [← hanswer] at hmem htail hhist hcmds hpause
  rw [hpart] at hcmds hpause
  have hrefuse : s.refuseCmd p k o = s.answerCmd p k o 0 := State.pausePump_of_none (hpause.trans hp) false
  rw [hrefuse]
  refine ⟨?_, hmem.trans ?_, htail, hhist⟩
  · rw [State.cmd?, hcmds]
    exact find?_drop_close h.ids (State.mem_of_heads h)
  · exact State.mem_setHostBytes_congr (s := s) 
      (t := (s.setPart p ((s.part p).close k.cid)).setStk { s.stk with marks := m, readMarks := r }) rfl rfl _ _

end Sys2Proof.Machine
end

section
/-! SUPPORT. A command at its start, with its units (R82, R129, R313, R339). -/
set_option Elab.async false

namespace Sys2Proof.Machine

variable {s t : State} {p q n : Nat} {k : Cmd} {data : List Byte} {us : List Nat}

/-! ## The command and its partition -/

/-- A command as its start leaves it. -/
def State.begun (s : State) (p : Nat) (k : Cmd) (data : List Byte) (us : List Nat) : Cmd :=
  { k with
    phase := .running, start := s.now, bound := s.boundNs p k us, units := us, data := data, e4nan := s.e4nan p }

/-- A loaded partition runs from its first start on. -/
def Part.running (x : Part) : Part := if x.st = .loaded then { x with st := .running } else x

/-- The command and its partition at a start. -/
def State.enrolled (s : State) (p : Nat) (k : Cmd) (data : List Byte) (us : List Nat) : State :=
  (s.modCmd p k.cid fun x => s.begun p x data us).modPart p Part.running

/-- The page counts that move from a start on. -/
def State.announced (s : State) (op : Nat) : State :=
  if op = 0x281 ∨ op = 0x300 ∨ op = 0x301 then (((s.moves .d2d 0).moves .d2d 1).moves .sprue 0).moves .sprue 1
  else (s.moves .d2d 0).moves .d2d 1

theorem State.part_enrolled (c : s.Canon) :
    (s.enrolled p k data us).part p = Part.running { s.part p with
      cmds := updFirst (fun x => x.cid == k.cid) (fun x => s.begun p x data us) (s.part p).cmds } := by
  have c₁ : (s.modCmd p k.cid fun x => s.begun p x data us).Canon := (Keeps.modCmd .refl).canon c
  exact (State.part_setPart c₁ ..).trans (congrArg Part.running (State.part_modCmd c ..))

theorem Part.cmds_running (x : Part) : x.running.cmds = x.cmds := by
  unfold Part.running
  split <;> rfl

theorem Part.st_running (x : Part) : x.running.st = if x.st = .loaded then .running else x.st := by
  unfold Part.running
  split <;> rfl

theorem State.cmd?_enrolled (c : s.Canon) (hk : s.cmd? p k.cid = some k) :
    (s.enrolled p k data us).cmd? p k.cid = some (s.begun p k data us) := by
  rw [State.cmd?, State.part_enrolled c, Part.cmds_running]
  exact (find?_updFirst (u := fun x => s.begun p x data us) (fun _ => rfl) _).trans (congrArg (Option.map _) hk)

/-- From `s` to `t` command `k` has started on `us`, and its partition runs. -/
def Starts (s t : State) (p : Nat) (k : Cmd) (us : List Nat) : Prop :=
  ∃ k', t.cmd? p k.cid = some k' ∧ k'.phase = .running ∧ k'.start = s.dev.time ∧ k'.units = us ∧ k'.msg = k.msg ∧
    k'.out = none ∧ (t.part p).st = if (s.part p).st = .loaded then .running else (s.part p).st

theorem State.starts_of_parts (c : s.Canon) (hk : s.cmd? p k.cid = some k) (ho : k.out = none)
    (ht : t.parts = (s.enrolled p k data us).parts) : Starts s t p k us := by
  refine ⟨s.begun p k data us, (State.cmd?_of_parts ht ..).trans (State.cmd?_enrolled c hk), rfl, rfl, rfl, rfl, ho, ?_⟩
  rw [State.part_eq_of_parts ht, State.part_enrolled c, Part.st_running]

theorem State.announced_busOnly (s : State) (op : Nat) : BusOnly s (s.announced op) :=
  .ite (((BusOnly.moves.trans .moves).trans .moves).trans .moves) (BusOnly.moves.trans .moves)

/-- Beside the command and its partition a start moves registers, and sets its units up. -/
theorem State.started_of_cmd? (c : s.Canon) (hk : s.cmd? p k.cid = some k) (data : List Byte) (us : List Nat) :
    ∃ x, BusOnly (s.enrolled p k data us) x ∧
      s.started p k data us = if us.isEmpty then x else x.startUnits p (s.begun p k data us) us := by
  have hbus := (s.enrolled p k data us).announced_busOnly k.opcode
  have hcmd := (State.cmd?_of_parts hbus.parts p k.cid).trans (State.cmd?_enrolled c hk)
  have hstarted : s.started p k data us =
      match ((s.enrolled p k data us).announced k.opcode).cmd? p k.cid with
      | some k' => if us.isEmpty then (s.enrolled p k data us).announced k.opcode
        else ((s.enrolled p k data us).announced k.opcode).startUnits p k' us
      | none => (s.enrolled p k data us).announced k.opcode := rfl
  refine ⟨_, hbus, ?_⟩
  rw [hstarted, hcmd]

theorem State.started_nil (c : s.Canon) (hk : s.cmd? p k.cid = some k) (data : List Byte) :
    BusOnly (s.enrolled p k data []) (s.started p k data []) := by
  obtain ⟨x, hbus, hx⟩ := State.started_of_cmd? c hk data []
  exact hx ▸ hbus

/-! ## Units -/

/-- A unit as command `k` of partition `p` begins on it at grid position `i`. -/
structure SeqUnit.Begins (x : SeqUnit) (p : Nat) (k : Cmd) (i : Nat) : Prop where
  run : x.run = .idle
  seq : x.seq = .reset
  mem : x.mem = []
  queue : x.queue = []
  token : ∀ j, x.token j = 0
  part : x.ctx.part = p
  cid : x.ctx.cid = k.cid
  logical : x.ctx.logical = fld k.msg 48 1 + i

/-- From `s` to `t` unit `u` is `x`, free values are drawn, and registers move. -/
def UnitSet (s t : State) (u : Nat) (x : SeqUnit) : Prop := ∃ b n, t = ((s.setBus b).setFresh n).setUnit u x

theorem BusOnly.taskPos {u a b : Nat} : BusOnly s (s.setTaskPos u a b) := ⟨_, rfl⟩

theorem UnitSet.of_bus {x y : State} {u m : Nat} {z : SeqUnit} (h : BusOnly s x) (h' : BusOnly (x.setFresh m) y) :
    UnitSet s (y.setUnit u z) u z := by
  obtain ⟨b, rfl⟩ := h
  obtain ⟨b', rfl⟩ := h'
  exact ⟨b', m, rfl⟩

theorem forN_succ {β : Type} (m : Nat) (b : β) (f : Nat → β → β) : forN (m + 1) b f = f m (forN m b f) := by
  simp [forN, List.range_succ]

/-- A loop that sets one unit a turn, each of another number, leaves each of them as its own turn made it. -/
theorem forN_unitSet {f : Nat → State → State} {P : Nat → SeqUnit → Prop} (hnd : us.Nodup)
    (hf : ∀ i x, ∃ y, UnitSet x (f i x) (nth 0 us i) y ∧ P i y) (c : twf .reset s.units = true) (m : Nat)
    (hm : m ≤ us.length) :
    twf .reset (forN m s f).units = true ∧ (forN m s f).mem = s.mem ∧ (forN m s f).parts = s.parts ∧
      ∀ i u, i < m → us[i]? = some u → P i ((forN m s f).unit u) := by
  induction m with
  | zero => exact ⟨c, rfl, rfl, fun i u hi => absurd hi (Nat.not_lt_zero i)⟩
  | succ m ih =>
    obtain ⟨ct, hmem, hparts, hunits⟩ := ih (Nat.le_of_succ_le hm)
    obtain ⟨y, ⟨b, r, hy⟩, hP⟩ := hf m (forN m s f)
    rw [forN_succ, hy]
    refine ⟨twf_tput _ _ _ ct, hmem, hparts, fun i u hi hu => ?_⟩
    obtain ⟨hlen, hget⟩ := List.getElem?_eq_some_iff.mp hu
    have hturn : nth 0 us m = us[m] := List.getD_eq_getElem us 0 hm
    obtain hlt | rfl := Nat.lt_succ_iff_lt_or_eq.mp hi
    · have hne : u ≠ nth 0 us m := by
        rw [hturn, ← hget]
        exact fun h => Nat.ne_of_lt hlt ((List.Nodup.getElem_inj_iff hnd).mp h)
      have hkept : ((((forN m s f).setBus b).setFresh r).setUnit (nth 0 us m) y).unit u = (forN m s f).unit u :=
        tget_tput_ne (t := (forN m s f).units) SeqUnit.reset y ct hne
      rw [hkept]
      exact hunits i u hlt hu
    · have hset : ((((forN i s f).setBus b).setFresh r).setUnit (nth 0 us i) y).unit u = y := by
        rw [← hget, ← hturn]
        exact tget_tput_same .reset _ y ct
      rwa [hset]

/-- The units of a start begin its command, each at its grid position. -/
theorem State.startUnits_begins (c : twf .reset s.units = true) (hnd : us.Nodup) :
    (s.startUnits p k us).mem = s.mem ∧ (s.startUnits p k us).parts = s.parts ∧
      ∀ i u, us[i]? = some u → ((s.startUnits p k us).unit u).Begins p k i := by
  suffices h : ∀ f, s.startUnits p k us = forN us.length s f →
      (∀ i x, ∃ y, UnitSet x (f i x) (nth 0 us i) y ∧ y.Begins p k i) →
      (s.startUnits p k us).mem = s.mem ∧ (s.startUnits p k us).parts = s.parts ∧
        ∀ i u, us[i]? = some u → ((s.startUnits p k us).unit u).Begins p k i by
    refine h _ rfl fun i x => ⟨_, UnitSet.of_bus (.trans .moves (.ite .refl .movesBytes)) .taskPos, ?_⟩
    exact ⟨rfl, rfl, rfl, rfl, fun _ => rfl, rfl, rfl, rfl⟩
  intro f hstart hf
  obtain ⟨-, hmem, hparts, hunits⟩ := forN_unitSet (P := fun i x => x.Begins p k i) hnd hf c us.length le_rfl
  rw [hstart]
  refine ⟨hmem, hparts, fun i u hu => ?_⟩
  obtain ⟨hlen, -⟩ := List.getElem?_eq_some_iff.mp hu
  exact hunits i u hlen hu

/-! ## The three starts -/

/-- A start on units. -/
theorem State.started_units (h : Stated.MayStart s p q k) (hus : us.isEmpty = false) (hnd : us.Nodup) :
    (s.started p k [] us).mem = s.mem ∧ Starts s (s.started p k [] us) p k us ∧
      ∀ i u, us[i]? = some u → ((s.started p k [] us).unit u).Begins p k i := by
  have c := h.canon
  have hk := State.cmd?_of_heads h.toHeads
  obtain ⟨x, hbus, hx⟩ := State.started_of_cmd? c hk [] us
  obtain ⟨hmem, hparts, hunits⟩ :=
    State.startUnits_begins (p := p) (k := s.begun p k [] us) (hbus.units ▸ c.units : twf .reset x.units = true) hnd
  rw [hx, hus]
  refine ⟨hmem.trans hbus.mem, State.starts_of_parts c hk h.out (hparts.trans hbus.parts), fun i u hu => ?_⟩
  obtain ⟨hrun, hseq, hmem, hqueue, htoken, hpart, hcid, hlogical⟩ := hunits i u hu
  exact ⟨hrun, hseq, hmem, hqueue, htoken, hpart, hcid, hlogical⟩

/-- Fumarole commands need no sequencer. -/
theorem State.unitsOf_of_isFm {op : Nat} (h : isFm op = true) (m : List Byte) : s.unitsOf op m = [] := by
  simp only [isFm, decide_eq_true_eq] at h
  refine if_neg ?_
  simp only [onClusters, onTiles, decide_eq_true_eq]
  omega

/-- A full stack queue holds a Fumarole command back. -/
theorem State.startFree_of_full (hfm : isFm k.opcode = true) (hfull : 8 ≤ (s.fumQ (fmStack k.msg) p).length) :
    s.startFree p k = s := by
  simp only [State.startFree, hfm, hfull, if_true]

/-- A Fumarole command starts into its stack queue. -/
theorem State.startFree_fm (h : Stated.MayStart s p q k) (hfm : isFm k.opcode = true) (hq : twf [] s.stk.fumQ = true)
    (hroom : (s.fumQ (fmStack k.msg) p).length < 8) :
    (s.startFree p k).mem = s.mem ∧ Starts s (s.startFree p k) p k [] ∧
      (s.startFree p k).fumQ (fmStack k.msg) p = s.fumQ (fmStack k.msg) p ++ [k.cid] := by
  have c := h.canon
  have hk := State.cmd?_of_heads h.toHeads
  have hmoves : BusOnly (s.started p k [] []) (forN 33 (s.started p k [] []) fun u s =>
      if k.opcode = 0x380 then s.moves .fum (fmStack k.msg * 64 + u)
      else (s.moves .fum (fmStack k.msg * 64 + u)).movesBytes .fum (fmStack k.msg * 64 + u)) :=
    .forN (fun u x => .ite .moves (BusOnly.moves.trans .movesBytes)) 33 _
  have hstart : s.startFree p k = State.setFumQ (forN 33 (s.started p k [] []) fun u s =>
      if k.opcode = 0x380 then s.moves .fum (fmStack k.msg * 64 + u)
      else (s.moves .fum (fmStack k.msg * 64 + u)).movesBytes .fum (fmStack k.msg * 64 + u)) (fmStack k.msg) p
        (s.fumQ (fmStack k.msg) p ++ [k.cid]) := by
    simp only [State.startFree, hfm, if_true, if_neg (Nat.not_le.mpr hroom)]
  have hbus := (State.started_nil c hk []).trans hmoves
  rw [hstart]
  generalize forN 33 (s.started p k [] []) _ = x at hbus ⊢
  exact ⟨hbus.mem, State.starts_of_parts c hk h.out hbus.parts,
    tget_tput_same [] _ _ (hbus.stk ▸ hq : twf [] x.stk.fumQ = true)⟩

/-- A command of the other engines starts at once. -/
theorem State.startFree_other (h : Stated.MayStart s p q k) (hfm : isFm k.opcode = false) (hred : k.opcode ≠ 0x400)
    (hgather : k.opcode ≠ 0x401) :
    (s.startFree p k).mem = s.mem ∧ (s.startFree p k).units = s.units ∧ Starts s (s.startFree p k) p k [] := by
  have c := h.canon
  have hk := State.cmd?_of_heads h.toHeads
  have hbus (data : List Byte) := State.started_nil c hk data
  simp only [State.startFree, hfm, Bool.false_eq_true, hred, hgather, or_self, if_false]
  generalize (if k.opcode = 0x300 then _ else _ : List Byte) = data
  split
  · exact ⟨(hbus data).mem, (hbus data).units, State.starts_of_parts c hk h.out (hbus data).parts⟩
  · exact ⟨(hbus data).mem, (hbus data).units, State.starts_of_parts c hk h.out (hbus data).parts⟩

/-! ## Boundary or quench (R316) -/

/-- A command whose save has begun. -/
def Cmd.saving (k : Cmd) (now reason : Nat) : Cmd := { k with phase := .saving, quenchAt := now, reason := reason }

/-- A quench marks the command and stops its sequencers. -/
theorem State.quench_eq (s : State) (p : Nat) (k : Cmd) (reason : Nat) :
    ∃ x, s.quench p k reason = (s.modCmd p k.cid fun y => y.saving s.now reason).setUnits x :=
  List.foldlRecOn (motive := fun t => ∃ x, t = (s.modCmd p k.cid fun y => y.saving s.now reason).setUnits x) _ _
    ⟨s.units, rfl⟩ fun _ h _ _ => by
      obtain ⟨x, rfl⟩ := h
      exact ⟨_, rfl⟩

/-- Commands of different identifiers that are quenched together are each being saved. -/
theorem State.foldl_quench (c : s.Canon) (l : List Cmd) (hids : (l.map (·.cid)).Nodup) :
    (l.foldl (fun s y => s.quench p y 0) s).mem = s.mem ∧
      (∀ i, i ∉ l.map (·.cid) → (l.foldl (fun s y => s.quench p y 0) s).cmd? p i = s.cmd? p i) ∧
      ∀ y ∈ l, s.cmd? p y.cid = some y →
        (l.foldl (fun s y => s.quench p y 0) s).cmd? p y.cid = some (y.saving s.dev.time 0) := by
  induction l generalizing s with
  | nil => exact ⟨rfl, fun _ _ => rfl, fun y hy => absurd hy List.not_mem_nil⟩
  | cons z l ih =>
    obtain ⟨hz, hl⟩ := List.nodup_cons.mp hids
    obtain ⟨x, hx⟩ := s.quench_eq p z 0
    have hself : (s.quench p z 0).cmd? p z.cid = (s.cmd? p z.cid).map fun y => y.saving s.now 0 := by
      rw [hx]
      exact State.cmd?_modCmd (f := fun y => y.saving s.now 0) c (fun _ => rfl) p z.cid
    have hother (i : Nat) (hi : i ≠ z.cid) : (s.quench p z 0).cmd? p i = s.cmd? p i := by
      rw [hx]
      exact State.cmd?_modCmd_ne (f := fun y => y.saving s.now 0) c (fun _ => rfl) p hi
    have hmem : (s.quench p z 0).mem = s.mem := by
      rw [hx]
      rfl
    have hdev : (s.quench p z 0).dev = s.dev := by
      rw [hx]
      rfl
    obtain ⟨hmem', hkept, hsaved⟩ := ih ((Keeps.quench .refl).canon c : (s.quench p z 0).Canon) hl
    rw [List.foldl_cons]
    refine ⟨hmem'.trans hmem, fun i hi => ?_, fun y hy hfound => ?_⟩
    · obtain ⟨hi, hrest⟩ := not_or.mp (mt List.mem_cons.mpr hi)
      rw [hkept i hrest, hother i hi]
    · obtain rfl | hy := List.mem_cons.mp hy
      · rw [hkept _ hz, hself, hfound]
        rfl
      · have hne : y.cid ≠ z.cid := fun h => hz (List.mem_map.mpr ⟨y, hy, h⟩)
        rw [hsaved y hy ((hother _ hne).trans hfound), hdev]

/-- The holders run on: no quench is enabled, the head can wait for them, or one of them is due no later. -/
theorem State.quenchDecision_of_waits
    (h : (s.part p).quenchEn = false ∨
      ((s.holders p us).map Cmd.endTime).foldl max 0 ≤ k.deadline - (s.boundNs p k us).getD 0 ∨
      ∃ y ∈ s.holders p us, y.deadline ≤ k.deadline) :
    s.quenchDecision p k us = s := by
  rw [State.quenchDecision]
  obtain h | h | ⟨y, hy, hdue⟩ := h
  · simp [h]
  · simp [h]
  · have hany : ((s.holders p us).any fun y =>
        decide (y.deadline ≤ k.deadline) || y.phase != .running || y.out.isSome) = true :=
      List.any_eq_true.mpr ⟨y, hy, by simp [hdue]⟩
    simp only [hany, if_true, ite_self]

/-- The holders are saved: each is due later and can be, and saving them all is quicker than waiting. -/
theorem State.quenchDecision_of_saves {save : Nat} (hen : (s.part p).quenchEn = true)
    (hlate : ¬ ((s.holders p us).map Cmd.endTime).foldl max 0 ≤ k.deadline - (s.boundNs p k us).getD 0)
    (hhold : ∀ y ∈ s.holders p us, k.deadline < y.deadline ∧ y.phase = .running ∧ y.out = none ∧
      ∃ x, s.tSave p y.units = some x ∧ x ≤ save)
    (hquick : s.dev.time + save < ((s.holders p us).map Cmd.endTime).foldl max 0) :
    s.quenchDecision p k us = (s.holders p us).foldl (fun s y => s.quench p y 0) s := by
  have hany : ((s.holders p us).any fun y =>
      decide (y.deadline ≤ k.deadline) || y.phase != .running || y.out.isSome) = false := by
    rw [List.any_eq_false]
    intro y hy
    obtain ⟨hdue, hrun, hout, -⟩ := hhold y hy
    simp [hdue, hrun, hout]
  have hsaves : ((s.holders p us).map fun y => s.tSave p y.units).all Option.isSome = true := by
    rw [List.all_map, List.all_eq_true]
    intro y hy
    obtain ⟨-, -, -, x, hx, -⟩ := hhold y hy
    rw [Function.comp_apply, hx]
    rfl
  have hlongest : ((((s.holders p us).map fun y => s.tSave p y.units).filterMap id).foldl max 0) ≤ save := by
    refine List.foldlRecOn (motive := (· ≤ save)) _ max (Nat.zero_le _) fun b hb a ha => max_le hb ?_
    obtain ⟨o, ho, hsome⟩ := List.mem_filterMap.mp ha
    obtain ⟨y, hy, rfl⟩ := List.mem_map.mp ho
    obtain ⟨-, -, -, x, hx, hle⟩ := hhold y hy
    rwa [← Option.some.inj (hx.symm.trans hsome)]
  have hsooner : s.now + (((s.holders p us).map fun y => s.tSave p y.units).filterMap id).foldl max 0 <
      ((s.holders p us).map Cmd.endTime).foldl max 0 := Nat.lt_of_le_of_lt (Nat.add_le_add_left hlongest _) hquick
  simp only [State.quenchDecision, hen, Bool.not_true, Bool.false_eq_true, hlate, or_self, hany, if_false, hsaves,
    hsooner, and_self, if_true]

end Sys2Proof.Machine
end

section
/-! SUPPORT. What becomes of a head that is ready, and the statement about it. -/
set_option Elab.async false

namespace Sys2Proof.Machine

variable {s : State} {p q : Nat} {k : Cmd}

theorem exec_commandReady_free (h : Stated.MayStart s p q k) (hus : s.unitsOf k.opcode k.msg = []) :
    exec (.commandReady p q) s = .next (s.startFree p k) := by
  rw [exec_commandReady_mayStart h, hus, List.isEmpty_nil, if_pos rfl]

theorem exec_commandReady_passed (h : Stated.MayStart s p q k) (hus : s.unitsOf k.opcode k.msg ≠ [])
    (hch : s.chosen p k = false) : exec (.commandReady p q) s = .next s := by
  rw [exec_commandReady_mayStart h, hch, if_neg (mt List.isEmpty_iff.mp hus)]
  rfl

theorem exec_commandReady_units (h : Stated.MayStart s p q k) (hus : s.unitsOf k.opcode k.msg ≠ [])
    (hch : s.chosen p k = true) (hfree : s.holders p (s.unitsOf k.opcode k.msg) = []) :
    exec (.commandReady p q) s = .next (s.started p k [] (s.unitsOf k.opcode k.msg)) := by
  rw [exec_commandReady_mayStart h, hch, hfree, if_neg (mt List.isEmpty_iff.mp hus)]
  rfl

theorem exec_commandReady_held (h : Stated.MayStart s p q k) (hus : s.unitsOf k.opcode k.msg ≠ [])
    (hch : s.chosen p k = true) (hheld : s.holders p (s.unitsOf k.opcode k.msg) ≠ []) :
    exec (.commandReady p q) s = .next (s.quenchDecision p k (s.unitsOf k.opcode k.msg)) := by
  rw [exec_commandReady_mayStart h, hch, if_neg (mt List.isEmpty_iff.mp hus),
    if_neg (mt List.isEmpty_iff.mp hheld : ¬ (s.holders p (s.unitsOf k.opcode k.msg)).isEmpty = true)]
  rfl

/-- A quenched head whose units are free is restored. -/
theorem exec_commandReady_quenched (h : Stated.Heads s p q k) (hq : k.phase = .quenched) (hch : s.chosen p k = true)
    (hfree : s.holders p k.units = []) :
    exec (.commandReady p q) s = .next (s.modCmd p k.cid fun k => { k with phase := .restoring }) := by
  change execCommandReady p q s = _
  simp only [execCommandReady, h.range, h.starts, h.head, hq, hch, hfree, List.isEmpty_nil, reduceCtorEq, and_self,
    if_true, if_false]

/-- The commands that hold units are the partition's, so that each is found by its identifier. -/
theorem State.cmd?_of_holders {us : List Nat} {y : Cmd} (h : Stated.Heads s p q k) (hy : y ∈ s.holders p us) :
    s.cmd? p y.cid = some y := find?_cid_of_mem h.ids (List.mem_of_mem_filter hy)

end Sys2Proof.Machine

open Sys2Proof Sys2Proof.Machine

/-- Settles O30, a clause at a time: starts without units, in a stack queue and on units, answers, waits, quenches, and
the restore. -/
theorem readyCommandsStart : Obligations.ReadyCommandsStart := by
  intro s p q k us n Started
  refine ⟨?free, ?fumarole, ?onUnits, ?failed, ?refused, ?waits, ?full, ?passed, ?held, ?quenched⟩
  case free =>
    intro h hus hfm hred hgather
    obtain ⟨hmem, hunits, hstarts⟩ := State.startFree_other h hfm hred hgather
    exact ⟨_, exec_commandReady_free h hus, hmem, hunits, (hus.symm ▸ hstarts : Starts s (s.startFree p k) p k us)⟩
  case fumarole =>
    intro h hfm hq hroom
    have hus : us = [] := State.unitsOf_of_isFm hfm k.msg
    obtain ⟨hmem, hstarts, hqueue⟩ := State.startFree_fm h hfm hq hroom
    exact ⟨_, exec_commandReady_free h hus, hmem, (hus.symm ▸ hstarts : Starts s (s.startFree p k) p k us), hqueue⟩
  case onUnits =>
    intro h hus hnd hch hfree
    obtain ⟨hmem, hstarts, hunits⟩ := State.started_units h (List.isEmpty_eq_false_iff.mpr hus) hnd
    refine ⟨_, exec_commandReady_units h hus hch hfree, hmem, hstarts, fun i u hu => ?_⟩
    obtain ⟨hrun, hseq, hmem, hqueue, htoken, hpart, hcid, hlogical⟩ := hunits i u hu
    exact ⟨hrun, hseq, hmem, hqueue, htoken, hpart, hcid, hlogical⟩
  case failed =>
    intro h hf hq ho hpause hdep
    obtain ⟨hgone, hanswer⟩ := State.refuseCmd_answers h hf hpause { Compl.of 8 with cflags := cfDEPFAIL }
    refine ⟨_, (exec_commandReady_queued h hq ho).trans ?_, hgone, hanswer⟩
    rw [if_pos (State.depFailed_iff.mpr hdep)]
  case refused =>
    intro h hf hq ho hpause hdeps hgate hrec o href
    obtain ⟨hgone, hanswer⟩ := State.refuseCmd_answers h hf hpause o
    refine ⟨_, (exec_commandReady_ready h hq ho hdeps hgate).trans ?_, hgone, hanswer⟩
    simp only [State.tryStart, hrec, href]
  case waits =>
    intro h hq ho hmet hwait
    have hready : ¬ s.isReady p k = true := by
      rw [State.isReady_iff_of_queued hq ho]
      rintro ⟨hdeps, hgate⟩
      obtain ⟨d, hd, hnone⟩ | hclosed := hwait
      · exact Option.some_ne_none 0 ((hdeps d hd).symm.trans hnone)
      · exact Bool.false_ne_true (hclosed.symm.trans hgate)
    rw [exec_commandReady_queued h hq ho, State.depFailed_of_met hmet, if_neg Bool.false_ne_true, if_neg hready]
  case full =>
    intro h hfm hfull
    rw [exec_commandReady_free h (State.unitsOf_of_isFm hfm k.msg), State.startFree_of_full hfm hfull]
  case passed => exact fun h hus hch => exec_commandReady_passed h hus hch
  case held =>
    intro h hus hch hheld hold free fits
    refine ⟨fun hwait => ?_, fun save hen hlate hhold hquick => ?_⟩
    · rw [exec_commandReady_held h hus hch hheld, State.quenchDecision_of_waits hwait]
    · have hids : (hold.map (·.cid)).Nodup := h.ids.sublist (List.filter_sublist.map _)
      obtain ⟨hmem, -, hsaved⟩ := State.foldl_quench h.canon (p := p) hold hids
      refine ⟨_, (exec_commandReady_held h hus hch hheld).trans
        (congrArg _ (State.quenchDecision_of_saves hen hlate hhold hquick)), hmem, fun y hy => ?_⟩
      exact hsaved y hy (State.cmd?_of_holders h.toHeads hy)
  case quenched =>
    intro h hq hch hfree
    refine ⟨_, exec_commandReady_quenched h hq hch hfree, rfl, ?_⟩
    rw [State.cmd?_modCmd (f := fun k => { k with phase := .restoring }) h.canon (fun _ => rfl), State.cmd?_of_heads h]
    rfl

end

section
/-! SUPPORT. What every command does: it answers a next state, and keeps what `Keeps` names. -/
set_option Elab.async false

namespace Sys2Proof.Machine

variable {s t : State}

/-! ## Every command answers -/

/-- An outcome that is a next state. -/
def Answers (o : Host.Outcome State Fault Refusal) : Prop := ∃ t, o = .next t

theorem answers_ite {c : Prop} [Decidable c] {x y : Host.Outcome State Fault Refusal} (hx : Answers x) (hy : Answers y) :
    Answers (if c then x else y) := by
  split
  · exact hx
  · exact hy

section
variable (s : State) (p c op : Nat)

theorem issueRow_answers (f : Nat → Nat → State → Issue) : Answers (s.issueRow p op f) := answers_ite ⟨_, rfl⟩ ⟨_, rfl⟩
theorem fabRow_answers (m : List Byte) : Answers (s.fabRow p op m) := answers_ite ⟨_, rfl⟩ ⟨_, rfl⟩
theorem tapRow_answers (f : State → State) : Answers (s.tapRow f) := ⟨_, rfl⟩
theorem msgRow_answers (m : List Byte) : Answers (s.msgRow op p m) := ⟨_, rfl⟩
theorem hdrWrite_answers (page off : Nat) (v : Word) : Answers (s.hdrWrite p page off v) := ⟨_, rfl⟩
theorem pageWrite_answers (k : PageKind) (i off : Nat) (v : Word) : Answers (s.pageWrite p k i off v) := ⟨_, rfl⟩

theorem hdrRace_answers (page off : Nat) (arg : Word → Word) (v : HdrWrite) : Answers (s.hdrRace p page off arg v) := by
  unfold State.hdrRace
  split
  · exact ⟨_, rfl⟩
  · exact hdrWrite_answers ..

/-- A row of a command answers, whether the partition has the command or not. -/
theorem runCmd_answers (f : Cmd → State → State × Compl) : Answers (s.runCmd p c op f) := by
  unfold State.runCmd
  split
  · exact answers_ite (answers_ite ⟨_, rfl⟩ ⟨_, rfl⟩) ⟨_, rfl⟩
  · exact ⟨_, rfl⟩

theorem kernelRow_answers : Answers (s.kernelRow p c op) := by
  unfold State.kernelRow
  split
  · exact answers_ite ⟨_, rfl⟩ ⟨_, rfl⟩
  · exact ⟨_, rfl⟩

theorem sprueRow_answers (f : Cmd → State) : Answers (s.sprueRow p c op f) := by
  unfold State.sprueRow
  split
  · exact answers_ite ⟨_, rfl⟩ ⟨_, rfl⟩
  · exact ⟨_, rfl⟩

theorem stepRow_answers (f : Cmd → State → State) : Answers (s.stepRow p c op f) := by
  unfold State.stepRow
  split
  · exact answers_ite ⟨_, rfl⟩ ⟨_, rfl⟩
  · exact ⟨_, rfl⟩

theorem fmRow_answers (f : Cmd → State → State × Compl) : Answers (s.fmRow p c op f) := by
  unfold State.fmRow
  split
  · refine answers_ite ?_ ⟨_, rfl⟩
    split <;> exact ⟨_, rfl⟩
  · exact ⟨_, rfl⟩

theorem ldRow_answers (go : Coll → State → State) : Answers (s.ldRow p c op go) := by
  unfold State.ldRow
  split
  · refine answers_ite ?_ ⟨_, rfl⟩
    split <;> exact ⟨_, rfl⟩
  · exact ⟨_, rfl⟩

theorem fmUpdate_answers : Answers (execFmUpdate p c s) := by
  unfold execFmUpdate
  split
  · exact answers_ite (fmRow_answers ..) (answers_ite ⟨_, rfl⟩ (fmRow_answers ..))
  · exact ⟨_, rfl⟩

theorem governorFrame_answers : Answers (execGovernorFrame p c op s) :=
  answers_ite (answers_ite ⟨_, rfl⟩ ⟨_, rfl⟩) ⟨_, rfl⟩

theorem logitUnitOffer_answers (i j : Nat) : Answers (execLogitUnitOffer p c i j s) := by
  unfold execLogitUnitOffer
  split
  · refine answers_ite ?_ ⟨_, rfl⟩
    split
    · exact ⟨_, rfl⟩
    · exact answers_ite ⟨_, rfl⟩ (answers_ite ⟨_, rfl⟩ (answers_ite ⟨_, rfl⟩ (answers_ite ⟨_, rfl⟩ ⟨_, rfl⟩)))
  · exact ⟨_, rfl⟩

theorem sealComplete_answers : Answers (execSealComplete p s) := by
  unfold execSealComplete
  dsimp only
  split
  · split
    · exact answers_ite ⟨_, rfl⟩ (answers_ite ⟨_, rfl⟩ (answers_ite ⟨_, rfl⟩ ⟨_, rfl⟩))
    · exact ⟨_, rfl⟩
  · exact ⟨_, rfl⟩
end

/-- By the rows that commands share, then by the branches of the commands with a body of their own. -/
theorem exec_answers (c : Instr) (s : State) : Answers (exec c s) := by
  cases c <;> dsimp only [exec]
  case mgGemm | mgAttnFwd | mgAttnBwd | mgVec | cgGemm | cgAttn | cgVec => exact runCmd_answers ..
  case alu | fpu | cmp | plog | sel | addi | andi | ori | xori | shi | lui | cmpi | ldw | stw | br | brp | jal | jr
    | dbnz | wait | sig | poll | bar | sysNop | halt | trap | brk | rdsr | waite | arr | drn | add | sub | mul | min
    | max | fma | fill | cvt | neg | abs | exp2 | log2 | recip | rsqrt | cmplt | cmple | cmpeq | cmpne | select
    | mkcausal | rsum | rmax | rmin | rcnt | rargmax | rargmin | rmaxsum | csum | cmax | fanadd | scale | compress
    | expand | permute | gather | softblk | attnNorm | rpush => exact issueRow_answers ..
  case mgKernel | cgKernel => exact kernelRow_answers ..
  case spLoss | spFeat => exact sprueRow_answers ..
  case fmAmax | fmGather | fmEf | fmAttn | fmGemv => exact fmRow_answers ..
  case ldReduce | ldGather => exact ldRow_answers ..
  case stepCfg | stepOpen | stepSeal | ckptSave | ckptLoad | svVariantLoad => exact stepRow_answers ..
  case linkHello | linkHelloAck | ack | probe | probeAck | noRoute | storeWrite | storeRead | storeData
    | storeAck => exact fabRow_answers ..
  case trstNAssert | extest | samplePreload | idcode | clamp | highz | bypass | extestPulse | extestTrain | bootRead
    | regAccess => exact tapRow_answers ..
  case hello | nop | fence | regRead | regWrite | partCfg | partLoad | partPause | partResume | partRelease | partReset
    | memAlloc | memFree | teacherSeal | teacherUnseal | epochSet | tapRelease | svCfg | svSubmit | svCancel
    | svForget => exact msgRow_answers ..
  case blkEvtClear | blkEvtSet | cntClr => exact hdrRace_answers ..
  case blkEvtEnWrite | srst => exact hdrWrite_answers ..
  case doorbell | ringCfgEn | ringCfgRst | cqHeadWrite | devRst | portCfgTrain | portCfgDown | portCfgModeWrite
    | devIdWrite | ethSegWrite | ethRtoWrite | fhClr | splogClr | spruePcfgWrite | sprueTrecWrite | govCfgWrite
    | arraySetWrite | progCmd | challenge | verifyKey | verifyPwd | close | dbgHalt | dbgStep | dbgResume
    | dbgArmBreakpoint | seqDataWrite => exact pageWrite_answers ..
  case sprueSramUe | fumaroleSlotBoundary | ldPreUp | ldPreDown | ldSeg | ldGseg | ldSealUp | ldSealDown | memberLost
    | ladleSramUe | laneSerWindowEnd | pciePerstNRelease | powerOff | authWordReceived | nonceExpiry | registerRead
    | registerWrite | glbFenceRead | loReadCapture | hiWriteCommit => exact ⟨_, rfl⟩
  case governorFrame => exact governorFrame_answers ..
  case logitUnitOffer => exact logitUnitOffer_answers ..
  case sealComplete => exact sealComplete_answers ..
  case fmUpdate => exact fmUpdate_answers ..
  case stackTransaction | granuleRelease | scrubDone | barrierRelease | budget | sequencerHalt | arrOperandsRead
    | arrPassComplete | drnRowsWritten | tundishOpComplete | runnerDescriptorStart | runnerDescriptorDone | coreFailure
    | tileFailure | cgLogit | sprueUnitAdmit | fmQueueStart | flaskMarkRelease | unitFail | probeDue | sealEntry
    | sealTimeout | storeTimeout | commandReady | commandComplete | quenchSaveDone | quenchRestoreDone | memCopy
    | dvfsApply | stepBoundary | servingWalk | kvCopyDone | kvRestoreDone | partitionFault | teardownComplete
    | drainComplete | portTrained | unknownFabricOpcode | flitNak | flitAccepted | flitReceiveFail | retrainDone
    | laneFail | laneControl | ethFrame | ethResendTimeout | sysRstNAssert | sysRstNRelease | pciePerstNAssert
    | powerUp | pllLock | otpSense | assayFull | stackTraining | partingLineTraining | authorityEstablished
    | bringupPhaseTimeout | authTick | plCycleReceived | plResend | pyroSample | assaySlice | assayResult | pllUnlock
    | otpBurnDone | authVerdict | irqTimer | perfClr =>
    dsimp only [execStackTransaction, execGranuleRelease, execScrubDone, execBarrierRelease, execBudget,
      execSequencerHalt, execArrOperandsRead, execArrPassComplete, execDrnRowsWritten, execTundishOpComplete,
      execRunnerDescriptorStart, execRunnerDescriptorDone, execCoreFailure, execTileFailure, execCgLogit,
      execSprueUnitAdmit, execFmQueueStart, execFlaskMarkRelease, execUnitFail, execProbeDue, execSealEntry,
      execSealTimeout, execStoreTimeout, execCommandReady, execCommandComplete, execQuenchSaveDone,
      execQuenchRestoreDone, execMemCopy, execDvfsApply, execStepBoundary, execServingWalk, execKvCopyDone,
      execKvRestoreDone, execPartitionFault, execTeardownComplete, execDrainComplete, execPortTrained,
      execUnknownFabricOpcode, execFlitNak, execFlitAccepted, execFlitReceiveFail, execRetrainDone, execLaneFail,
      execLaneControl, execEthFrame, execEthResendTimeout, execSysRstNAssert, execSysRstNRelease, execPciePerstNAssert,
      execPowerUp, execPllLock, execOtpSense, execAssayFull, execStackTraining, execPartingLineTraining,
      execAuthorityEstablished, execBringupPhaseTimeout, execAuthTick, execPlCycleReceived, execPlResend,
      execPyroSample, execAssaySlice, execAssayResult, execPllUnlock, execOtpBurnDone, execAuthVerdict, execIrqTimer,
      execPerfClr]
    repeat' split
    all_goals exact ⟨_, rfl⟩

/-! ## Every command keeps what `Keeps` names -/

/-- Arm by arm; a command that cannot reach the debug block keeps it, the fuses and the boundary-scan ports too. -/
theorem exec_keeps (c : Instr) (s : State) : KeepsO (!Stated.reachesDebug c) s (exec c s) :=
  match c with
  | .sysRstNAssert _ => KeepsO.execSysRstNAssert .refl | .sysRstNRelease _ _ => KeepsO.execSysRstNRelease .refl
  | .pciePerstNAssert _ _ => KeepsO.execPciePerstNAssert .refl
  | .pciePerstNRelease => KeepsO.execPciePerstNRelease .refl | .powerOff => KeepsO.execPowerOff .refl
  | .trstNAssert => KeepsO.execTrstNAssert .refl | .pllLock _ _ => KeepsO.execPllLock .refl
  | .otpSense => KeepsO.execOtpSense .refl | .assayFull _ => KeepsO.execAssayFull .refl
  | .stackTraining _ _ => KeepsO.execStackTraining .refl
  | .partingLineTraining _ => KeepsO.execPartingLineTraining .refl
  | .authorityEstablished => KeepsO.execAuthorityEstablished .refl
  | .bringupPhaseTimeout _ => KeepsO.execBringupPhaseTimeout .refl | .devRst _ _ => KeepsO.execDevRst .refl
  | .authTick _ => KeepsO.execAuthTick .refl | .authWordReceived _ _ => KeepsO.execAuthWordReceived .refl
  | .pyroSample _ _ => KeepsO.execPyroSample .refl | .governorFrame _ _ _ => KeepsO.execGovernorFrame .refl
  | .assaySlice _ => KeepsO.execAssaySlice .refl | .assayResult _ _ => KeepsO.execAssayResult .refl
  | .pllUnlock _ _ => KeepsO.execPllUnlock .refl | .plCycleReceived _ _ _ => KeepsO.execPlCycleReceived .refl
  | .plResend _ _ => KeepsO.execPlResend .refl | .doorbell _ _ _ => KeepsO.execDoorbell .refl
  | .ringCfgEn _ _ _ => KeepsO.execRingCfgEn .refl | .ringCfgRst _ _ _ => KeepsO.execRingCfgRst .refl
  | .cqHeadWrite _ _ _ => KeepsO.execCqHeadWrite .refl | .irqTimer _ => KeepsO.execIrqTimer .refl
  | .hello _ _ => KeepsO.execHello .refl | .nop _ _ => KeepsO.execNop .refl | .fence _ _ => KeepsO.execFence .refl
  | .regRead _ _ => KeepsO.execRegRead .refl | .regWrite _ _ => KeepsO.execRegWrite .refl
  | .partCfg _ _ => KeepsO.execPartCfg .refl | .partLoad _ _ => KeepsO.execPartLoad .refl
  | .partPause _ _ => KeepsO.execPartPause .refl | .partResume _ _ => KeepsO.execPartResume .refl
  | .partRelease _ _ => KeepsO.execPartRelease .refl | .drainComplete _ => KeepsO.execDrainComplete .refl
  | .partReset _ _ => KeepsO.execPartReset .refl | .memAlloc _ _ => KeepsO.execMemAlloc .refl
  | .memFree _ _ => KeepsO.execMemFree .refl | .granuleRelease _ _ => KeepsO.execGranuleRelease .refl
  | .scrubDone _ _ => KeepsO.execScrubDone .refl | .memCopy _ _ => KeepsO.execMemCopy .refl
  | .teacherSeal _ _ => KeepsO.execTeacherSeal .refl | .teacherUnseal _ _ => KeepsO.execTeacherUnseal .refl
  | .commandReady _ _ => KeepsO.execCommandReady .refl | .quenchSaveDone _ _ => KeepsO.execQuenchSaveDone .refl
  | .quenchRestoreDone _ _ => KeepsO.execQuenchRestoreDone .refl
  | .commandComplete _ _ => KeepsO.execCommandComplete .refl | .dvfsApply _ => KeepsO.execDvfsApply .refl
  | .mgGemm _ _ => KeepsO.execMgGemm .refl | .mgAttnFwd _ _ => KeepsO.execMgAttnFwd .refl
  | .mgAttnBwd _ _ => KeepsO.execMgAttnBwd .refl | .mgKernel _ _ => KeepsO.execMgKernel .refl
  | .mgVec _ _ => KeepsO.execMgVec .refl | .cgGemm _ _ => KeepsO.execCgGemm .refl
  | .cgLogit _ _ => KeepsO.execCgLogit .refl | .cgAttn _ _ => KeepsO.execCgAttn .refl
  | .cgVec _ _ => KeepsO.execCgVec .refl | .cgKernel _ _ => KeepsO.execCgKernel .refl
  | .logitUnitOffer _ _ _ _ => KeepsO.execLogitUnitOffer .refl
  | .sprueUnitAdmit _ _ _ _ _ => KeepsO.execSprueUnitAdmit .refl | .spLoss _ _ => KeepsO.execSpLoss .refl
  | .spFeat _ _ => KeepsO.execSpFeat .refl | .fmQueueStart _ _ => KeepsO.execFmQueueStart .refl
  | .fmUpdate _ _ => KeepsO.execFmUpdate .refl | .flaskMarkRelease _ _ _ _ => KeepsO.execFlaskMarkRelease .refl
  | .fmAmax _ _ => KeepsO.execFmAmax .refl | .fmGather _ _ => KeepsO.execFmGather .refl
  | .fmEf _ _ => KeepsO.execFmEf .refl | .fmAttn _ _ => KeepsO.execFmAttn .refl
  | .fmGemv _ _ => KeepsO.execFmGemv .refl | .stackTransaction _ _ _ _ _ _ => KeepsO.execStackTransaction .refl
  | .unitFail _ _ _ => KeepsO.execUnitFail .refl | .coreFailure _ _ _ => KeepsO.execCoreFailure .refl
  | .tileFailure _ _ _ => KeepsO.execTileFailure .refl | .sprueSramUe _ _ => KeepsO.execSprueSramUe .refl
  | .ladleSramUe _ _ => KeepsO.execLadleSramUe .refl | .ldReduce _ _ => KeepsO.execLdReduce .refl
  | .ldGather _ _ => KeepsO.execLdGather .refl | .epochSet _ _ => KeepsO.execEpochSet .refl
  | .memberLost _ _ => KeepsO.execMemberLost .refl | .probeDue _ _ => KeepsO.execProbeDue .refl
  | .stepCfg _ _ => KeepsO.execStepCfg .refl | .stepOpen _ _ => KeepsO.execStepOpen .refl
  | .stepSeal _ _ => KeepsO.execStepSeal .refl | .sealEntry _ => KeepsO.execSealEntry .refl
  | .sealComplete _ => KeepsO.execSealComplete .refl | .sealTimeout _ => KeepsO.execSealTimeout .refl
  | .tapRelease _ _ => KeepsO.execTapRelease .refl | .ckptSave _ _ => KeepsO.execCkptSave .refl
  | .ckptLoad _ _ => KeepsO.execCkptLoad .refl | .svCfg _ _ => KeepsO.execSvCfg .refl
  | .svVariantLoad _ _ => KeepsO.execSvVariantLoad .refl | .svSubmit _ _ => KeepsO.execSvSubmit .refl
  | .svCancel _ _ => KeepsO.execSvCancel .refl | .svForget _ _ => KeepsO.execSvForget .refl
  | .stepBoundary _ => KeepsO.execStepBoundary .refl | .servingWalk _ _ _ _ => KeepsO.execServingWalk .refl
  | .kvCopyDone _ _ => KeepsO.execKvCopyDone .refl | .kvRestoreDone _ _ => KeepsO.execKvRestoreDone .refl
  | .partitionFault _ _ _ _ => KeepsO.execPartitionFault .refl
  | .teardownComplete _ => KeepsO.execTeardownComplete .refl | .alu _ => KeepsO.execAlu .refl
  | .fpu _ => KeepsO.execFpu .refl | .cmp _ => KeepsO.execCmp .refl | .plog _ => KeepsO.execPlog .refl
  | .sel _ => KeepsO.execSel .refl | .addi _ => KeepsO.execAddi .refl | .andi _ => KeepsO.execAndi .refl
  | .ori _ => KeepsO.execOri .refl | .xori _ => KeepsO.execXori .refl | .shi _ => KeepsO.execShi .refl
  | .lui _ => KeepsO.execLui .refl | .cmpi _ => KeepsO.execCmpi .refl | .ldw _ => KeepsO.execLdw .refl
  | .stw _ => KeepsO.execStw .refl | .br _ => KeepsO.execBr .refl | .brp _ => KeepsO.execBrp .refl
  | .jal _ => KeepsO.execJal .refl | .jr _ => KeepsO.execJr .refl | .dbnz _ => KeepsO.execDbnz .refl
  | .arr _ => KeepsO.execArr .refl | .arrOperandsRead _ _ => KeepsO.execArrOperandsRead .refl
  | .drn _ => KeepsO.execDrn .refl | .drnRowsWritten _ _ => KeepsO.execDrnRowsWritten .refl
  | .budget _ _ => KeepsO.execBudget .refl | .rpush _ => KeepsO.execRpush .refl
  | .runnerDescriptorStart _ => KeepsO.execRunnerDescriptorStart .refl
  | .runnerDescriptorDone _ => KeepsO.execRunnerDescriptorDone .refl | .wait _ => KeepsO.execWait .refl
  | .sig _ => KeepsO.execSig .refl | .poll _ => KeepsO.execPoll .refl | .bar _ => KeepsO.execBar .refl
  | .barrierRelease _ => KeepsO.execBarrierRelease .refl | .sysNop _ => KeepsO.execSysNop .refl
  | .halt _ => KeepsO.execHalt .refl | .trap _ => KeepsO.execTrap .refl | .brk _ => KeepsO.execBrk .refl
  | .rdsr _ => KeepsO.execRdsr .refl | .waite _ => KeepsO.execWaite .refl
  | .sequencerHalt _ => KeepsO.execSequencerHalt .refl | .add _ => KeepsO.execAdd .refl
  | .sub _ => KeepsO.execSub .refl | .mul _ => KeepsO.execMul .refl | .min _ => KeepsO.execMin .refl
  | .max _ => KeepsO.execMax .refl | .fma _ => KeepsO.execFma .refl | .fill _ => KeepsO.execFill .refl
  | .cvt _ => KeepsO.execCvt .refl | .neg _ => KeepsO.execNeg .refl | .abs _ => KeepsO.execAbs .refl
  | .exp2 _ => KeepsO.execExp2 .refl | .log2 _ => KeepsO.execLog2 .refl | .recip _ => KeepsO.execRecip .refl
  | .rsqrt _ => KeepsO.execRsqrt .refl | .cmplt _ => KeepsO.execCmplt .refl | .cmple _ => KeepsO.execCmple .refl
  | .cmpeq _ => KeepsO.execCmpeq .refl | .cmpne _ => KeepsO.execCmpne .refl | .select _ => KeepsO.execSelect .refl
  | .mkcausal _ => KeepsO.execMkcausal .refl | .rsum _ => KeepsO.execRsum .refl | .rmax _ => KeepsO.execRmax .refl
  | .rmin _ => KeepsO.execRmin .refl | .rcnt _ => KeepsO.execRcnt .refl | .rargmax _ => KeepsO.execRargmax .refl
  | .rargmin _ => KeepsO.execRargmin .refl | .rmaxsum _ => KeepsO.execRmaxsum .refl | .csum _ => KeepsO.execCsum .refl
  | .cmax _ => KeepsO.execCmax .refl | .fanadd _ => KeepsO.execFanadd .refl | .scale _ => KeepsO.execScale .refl
  | .compress _ => KeepsO.execCompress .refl | .expand _ => KeepsO.execExpand .refl
  | .permute _ => KeepsO.execPermute .refl | .gather _ => KeepsO.execGather .refl
  | .softblk _ => KeepsO.execSoftblk .refl | .attnNorm _ => KeepsO.execAttnNorm .refl
  | .tundishOpComplete _ => KeepsO.execTundishOpComplete .refl | .portCfgTrain _ _ _ => KeepsO.execPortCfgTrain .refl
  | .portTrained _ => KeepsO.execPortTrained .refl | .portCfgDown _ _ _ => KeepsO.execPortCfgDown .refl
  | .portCfgModeWrite _ _ _ => KeepsO.execPortCfgModeWrite .refl | .devIdWrite _ _ _ => KeepsO.execDevIdWrite .refl
  | .ethSegWrite _ _ _ => KeepsO.execEthSegWrite .refl | .ethRtoWrite _ _ _ => KeepsO.execEthRtoWrite .refl
  | .flitNak _ _ => KeepsO.execFlitNak .refl | .flitReceiveFail _ _ => KeepsO.execFlitReceiveFail .refl
  | .retrainDone _ => KeepsO.execRetrainDone .refl | .laneFail _ _ _ => KeepsO.execLaneFail .refl
  | .laneControl _ _ _ => KeepsO.execLaneControl .refl | .ethFrame _ _ _ => KeepsO.execEthFrame .refl
  | .ethResendTimeout _ _ => KeepsO.execEthResendTimeout .refl | .linkHello _ _ => KeepsO.execLinkHello .refl
  | .linkHelloAck _ _ => KeepsO.execLinkHelloAck .refl | .ack _ _ => KeepsO.execAck .refl
  | .probe _ _ => KeepsO.execProbe .refl | .probeAck _ _ => KeepsO.execProbeAck .refl
  | .noRoute _ _ => KeepsO.execNoRoute .refl | .ldPreUp _ _ => KeepsO.execLdPreUp .refl
  | .ldPreDown _ _ => KeepsO.execLdPreDown .refl | .ldSeg _ _ => KeepsO.execLdSeg .refl
  | .ldGseg _ _ => KeepsO.execLdGseg .refl | .ldSealUp _ _ => KeepsO.execLdSealUp .refl
  | .ldSealDown _ _ => KeepsO.execLdSealDown .refl | .storeWrite _ _ => KeepsO.execStoreWrite .refl
  | .storeRead _ _ => KeepsO.execStoreRead .refl | .storeData _ _ => KeepsO.execStoreData .refl
  | .storeAck _ _ => KeepsO.execStoreAck .refl | .registerWrite _ _ _ _ => KeepsO.execRegisterWrite .refl
  | .blkEvtClear _ _ _ => KeepsO.execBlkEvtClear .refl | .blkEvtSet _ _ _ => KeepsO.execBlkEvtSet .refl
  | .blkEvtEnWrite _ _ _ => KeepsO.execBlkEvtEnWrite .refl | .srst _ _ _ => KeepsO.execSrst .refl
  | .cntClr _ _ _ => KeepsO.execCntClr .refl | .perfClr _ _ _ => KeepsO.execPerfClr .refl
  | .glbFenceRead _ => KeepsO.execGlbFenceRead .refl | .loReadCapture _ _ => KeepsO.execLoReadCapture .refl
  | .hiWriteCommit _ _ _ => KeepsO.execHiWriteCommit .refl | .fhClr _ _ _ => KeepsO.execFhClr .refl
  | .splogClr _ _ => KeepsO.execSplogClr .refl | .spruePcfgWrite _ _ _ _ => KeepsO.execSpruePcfgWrite .refl
  | .sprueTrecWrite _ _ _ _ => KeepsO.execSprueTrecWrite .refl | .govCfgWrite _ _ _ => KeepsO.execGovCfgWrite .refl
  | .arraySetWrite _ _ _ => KeepsO.execArraySetWrite .refl | .progCmd _ _ _ => KeepsO.execProgCmd .refl
  | .otpBurnDone _ _ => KeepsO.execOtpBurnDone .refl | .challenge _ => KeepsO.execChallenge .refl
  | .verifyKey _ => KeepsO.execVerifyKey .refl | .verifyPwd _ => KeepsO.execVerifyPwd .refl
  | .authVerdict => KeepsO.execAuthVerdict .refl | .close _ => KeepsO.execClose .refl
  | .nonceExpiry => KeepsO.execNonceExpiry .refl | .dbgHalt _ => KeepsO.execDbgHalt .refl
  | .dbgStep _ => KeepsO.execDbgStep .refl | .dbgResume _ => KeepsO.execDbgResume .refl
  | .dbgArmBreakpoint _ => KeepsO.execDbgArmBreakpoint .refl | .seqDataWrite _ _ => KeepsO.execSeqDataWrite .refl
  | .extest _ => KeepsO.execExtest .refl | .samplePreload _ _ _ => KeepsO.execSamplePreload .refl
  | .idcode _ => KeepsO.execIdcode .refl | .clamp _ => KeepsO.execClamp .refl | .highz _ => KeepsO.execHighz .refl
  | .extestPulse _ => KeepsO.execExtestPulse .refl | .extestTrain _ => KeepsO.execExtestTrain .refl
  | .bootRead => KeepsO.execBootRead .refl | .regAccess _ => KeepsO.execRegAccess .refl
  | .bypass _ => KeepsO.execBypass .refl | .powerUp _ _ => KeepsO.execPowerUp .refl
  | .registerRead _ _ _ => KeepsO.execRegisterRead .refl | .arrPassComplete _ _ => KeepsO.execArrPassComplete .refl
  | .fumaroleSlotBoundary _ => KeepsO.execFumaroleSlotBoundary .refl
  | .flitAccepted _ _ => KeepsO.execFlitAccepted .refl | .laneSerWindowEnd _ => KeepsO.execLaneSerWindowEnd .refl
  | .unknownFabricOpcode _ _ => KeepsO.execUnknownFabricOpcode .refl
  | .storeTimeout _ _ => KeepsO.execStoreTimeout .refl

/-- A step takes the command at the front off the queue and runs it, or lets time pass. -/
theorem step_cases (h : step s = .next t) :
    (s.pending = [] ∧ t = s.tick) ∨ ∃ c rest, s.pending = c :: rest ∧ exec c (s.setPending rest) = .next t := by
  unfold step at h
  split at h
  case h_1 c rest hq => exact .inr ⟨c, rest, hq, h⟩
  case h_2 hq => exact .inl ⟨hq, (Host.Outcome.next.inj h).symm⟩

/-- A step keeps what `Keeps` names, from the state without the command that it takes off the queue. -/
theorem keeps_of_step (h : step s = .next t) : Keeps false (s.setPending s.pending.tail) t := by
  obtain ⟨hq, rfl⟩ | ⟨c, rest, hq, hexec⟩ := step_cases h
  · rw [hq, List.tail_nil, ← hq]
    exact .tick .refl
  · rw [hq, List.tail_cons]
    exact ⟨(exec_keeps c _ t hexec).1, nofun⟩

theorem canon_setPending (c : s.Canon) (l : List Instr) : (s.setPending l).Canon :=
  ⟨c.mem, c.units, c.parts, c.rings, c.taps, c.west, c.east, c.bus, c.stk, c.ports⟩

/-- A bit that reads 1 in a word of fuses reads 1 in fuses that have grown from them. -/
theorem getLsbD_of_grows {x y : Otp} (h : x.Grows y) {n b : Nat} (hb : (tget 0 x.words n).getLsbD b = true) :
    (tget 0 y.words n).getLsbD b = true := by
  have hand := congrArg (BitVec.getLsbD · b) (h n)
  simp only [BitVec.getLsbD_and, hb, Bool.true_and] at hand
  exact hand

end Sys2Proof.Machine

open Sys2Proof Sys2Proof.Machine

/-- Settles O4: the canonical form does not speak of the queue, and every command and the tick keep it. -/
theorem everyStepKeepsCanonicalForm : Obligations.EveryStepKeepsCanonicalForm := by
  intro s t c h
  obtain ⟨⟨-, -, hcanon⟩, -⟩ := keeps_of_step h
  exact (hcanon (canon_setPending c _)).1

/-- Settles O3, command by command. -/
theorem everyCommandAnswersNext : Obligations.EveryCommandAnswersNext := exec_answers

/-- Settles O5: an empty queue leaves the tick, and what every command keeps says the rest. -/
theorem queueTimeAndFreeValues : Obligations.QueueTimeAndFreeValues := by
  refine ⟨fun s hq => ⟨s.tick, ?_, ?_⟩, ⟨fun c s t h => ?_, fun s t h => ?_⟩, fun s t h => ?_⟩
  · simp only [step, hq]
  · unfold State.tick
    split <;> rfl
  · obtain ⟨⟨hpending, -, -⟩, -⟩ := exec_keeps c s t h
    exact hpending
  · obtain ⟨⟨hpending, -, -⟩, -⟩ := keeps_of_step h
    exact hpending
  · obtain ⟨⟨-, hfresh, -⟩, -⟩ := keeps_of_step h
    exact hfresh

/-- Settles O6: the fuse words of each die only grow. -/
theorem fusesNeverReturnToZero : Obligations.FusesNeverReturnToZero := by
  intro s t c h d n b hb
  obtain ⟨⟨-, -, hcanon⟩, -⟩ := keeps_of_step h
  obtain ⟨-, hwest, heast⟩ := hcanon (canon_setPending c _)
  by_cases hd : d = 0
  · simp only [State.die, hd, if_true] at hb ⊢
    exact getLsbD_of_grows hwest hb
  · simp only [State.die, hd, if_false] at hb ⊢
    exact getLsbD_of_grows heast hb

/-- Settles O7: what `Keeps` says of a command that does not reach the debug block. -/
theorem enginesNeverReachDebugOrFuses : Obligations.EnginesNeverReachDebugOrFuses := by
  intro c s t hc h
  obtain ⟨-, hdebug⟩ := exec_keeps c s t h
  exact hdebug (by rw [hc]; rfl)

end

section
/-! SUPPORT. Scalar results (R134, Table 7.4), and the statement about them. -/
set_option Elab.async false

namespace Sys2Proof.Machine

/-! ## The ALU -/

/-- A shift counts with the low five bits of its operand. -/
theorem toNat_and_31 (b : Word) : (b &&& 31).toNat = b.toNat % 32 := Nat.and_two_pow_sub_one_eq_mod b.toNat 5

/-- The high half of an unsigned product. -/
theorem mulHigh_eq (a b : Word) :
    w32 (a.toNat * b.toNat / 2 ^ 32) = ((a.setWidth 64 * b.setWidth 64) >>> 32).setWidth 32 := by
  have ha := a.isLt
  have hb := b.isLt
  have hmul : a.toNat * b.toNat < 2 ^ 64 := by nlinarith
  apply BitVec.eq_of_toNat_eq
  have ha64 : a.toNat % 2 ^ 64 = a.toNat := Nat.mod_eq_of_lt (by omega)
  have hb64 : b.toNat % 2 ^ 64 = b.toNat := Nat.mod_eq_of_lt (by omega)
  simp only [w32, BitVec.toNat_ofNat, BitVec.toNat_setWidth, BitVec.toNat_ushiftRight, BitVec.toNat_mul,
    Nat.shiftRight_eq_div_pow, ha64, hb64, Nat.mod_eq_of_lt hmul]

/-- The high half of a signed product. -/
theorem mulHighSigned_eq (a b : Word) :
    w32 (wrap 64 (sInt a * sInt b) / 2 ^ 32) = ((a.signExtend 64 * b.signExtend 64) >>> 32).setWidth 32 := by
  have hprod : wrap 64 (sInt a * sInt b) = (a.signExtend 64 * b.signExtend 64).toNat := by
    have hofInt : a.signExtend 64 * b.signExtend 64 = BitVec.ofInt 64 (a.toInt * b.toInt) := by
      rw [BitVec.ofInt_mul]
      rfl
    rw [hofInt, BitVec.toNat_ofInt]
    rfl
  apply BitVec.eq_of_toNat_eq
  rw [hprod]
  simp only [w32, BitVec.toNat_ofNat, BitVec.toNat_setWidth, BitVec.toNat_ushiftRight, Nat.shiftRight_eq_div_pow]

theorem clz_eq (a : Word) : w32 (if a = 0 then 32 else 31 - a.toNat.log2) = a.clz := by
  by_cases ha : a = 0
  · rw [if_pos ha, ha]
    rfl
  · have hpos : a.toNat ≠ 0 := fun h => ha (BitVec.eq_of_toNat_eq h)
    have hlt : a.clz.toNat < 32 := BitVec.clz_lt_iff_ne_zero.mpr ha
    have hlow := BitVec.two_pow_sub_clz_le_toNat_of_ne_zero (by decide) ha
    have hhigh := BitVec.toNat_lt_two_pow_sub_clz (x := a)
    have hexp : 32 - 1 - a.clz.toNat + 1 = 32 - a.clz.toNat := by omega
    have hlog : a.toNat.log2 = 32 - 1 - a.clz.toNat := (Nat.log2_eq_iff hpos).mpr ⟨hlow, hexp ▸ hhigh⟩
    rw [if_neg ha, hlog]
    apply BitVec.eq_of_toNat_eq
    rw [w32, BitVec.toNat_ofNat]
    omega

/-- The larger and the smaller of two values, whichever is named on a tie. -/
theorem ite_lt_eq_ite_le {α β : Type} [LinearOrder β] {f : α → β} (hf : Function.Injective f) (a b : α) :
    (if f a < f b then b else a) = if f a ≤ f b then b else a := by
  by_cases h : f a = f b
  · rw [hf h, ite_self, ite_self]
  · simp only [lt_iff_le_and_ne, ne_eq, h, not_false_eq_true, and_true]

theorem aluFun_eq {f : Nat} (hf : f < 16) (a b : Word) : aluFun f a b = some (Stated.alu f a b) := by
  match f, hf with
  | 0, _ | 1, _ | 2, _ | 3, _ | 4, _ | 8, _ => rfl
  | 5, _ => exact congrArg (some <| a <<< ·) (toNat_and_31 b).symm
  | 6, _ => exact congrArg (some <| a >>> ·) (toNat_and_31 b).symm
  | 7, _ => exact congrArg (some <| a.sshiftRight ·) (toNat_and_31 b).symm
  | 9, _ => exact congrArg some (mulHigh_eq a b)
  | 10, _ => exact congrArg some (mulHighSigned_eq a b)
  | 11, _ => exact congrArg some ((if_congr Int.not_le.symm rfl rfl).trans (ite_not ..))
  | 12, _ => exact congrArg some ((if_congr Nat.not_le.symm rfl rfl).trans (ite_not ..))
  | 13, _ => exact congrArg some (ite_lt_eq_ite_le (fun _ _ => BitVec.eq_of_toInt_eq) a b)
  | 14, _ => exact congrArg some (ite_lt_eq_ite_le (fun _ _ => BitVec.eq_of_toNat_eq) a b)
  | 15, _ => exact congrArg some (clz_eq a)
  | n + 16, h => exact absurd h (by omega)

section
variable {s : State} {u : Nat}

theorem alu_issuesTo (rd ra rb : BitVec 5) (f : BitVec 11) (hf : f.toNat < 16) (hclz : f.toNat = 15 → rb = 0) :
    Stated.IssuesTo (.alu u) s u (Stated.rWord 1 rd ra rb f) ((Stated.past (s.unit u).seq 1).setS rd.toNat
      (Stated.alu f.toNat ((s.unit u).seq.S ra.toNat) ((s.unit u).seq.S rb.toNat))) := by
  refine issuesTo_of_onSeq (f := aluFx) rfl (wordRow_of_opOf (opOf_rWord ..) (by decide)) ?_
  have hrb : ¬ (f.toNat = 15 ∧ rb.toNat ≠ 0) := by
    rintro ⟨hf, hrb⟩
    rw [hclz hf] at hrb
    exact hrb rfl
  simp [aluFx, issueCycles, aluFun_eq hf, -not_and, if_neg hrb]

/-! ## The FPU -/

theorem fpuFun_eq {f : Nat} (hf : f < 9) (a b : Word) : fpuFun f a b = some (Stated.fpu f a b) :=
  match f, hf with
  | 0, _ | 1, _ | 2, _ | 3, _ | 4, _ | 5, _ | 7, _ | 8, _ => rfl
  | 6, _ => congrArg some (w32_wrap _)

theorem fpu_issuesTo (rd ra rb : BitVec 5) (f : BitVec 11) (hf : f.toNat < 9) :
    Stated.IssuesTo (.fpu u) s u (Stated.rWord 2 rd ra rb f) ((Stated.past (s.unit u).seq 1).setS rd.toNat
      (Stated.fpu f.toNat ((s.unit u).seq.S ra.toNat) ((s.unit u).seq.S rb.toNat))) := by
  refine issuesTo_of_onSeq (f := fpuFx) rfl (wordRow_of_opOf (opOf_rWord ..) (by decide)) ?_
  simp [fpuFx, issueCycles, fpuFun_eq hf]

/-! ## Immediates -/

section
variable (op : BitVec 6) (rd ra : BitVec 5) (z : BitVec 16)

@[simp] theorem immZ_iWord : immZ (Stated.iWord op rd ra z).toNat = z.setWidth 32 := by
  rw [immZ, fImm_iWord, w32, BitVec.ofNat_toNat]

/-- SHI splits the immediate: reserved bits, the kind of shift, its count. -/
theorem shiFields_iWord (k : BitVec 2) (sh : BitVec 5) :
    bits (Stated.iWord op rd ra (0#9 ++ k ++ sh)).toNat 15 7 = 0 ∧
      bits (Stated.iWord op rd ra (0#9 ++ k ++ sh)).toNat 6 5 = k.toNat ∧
      bits (Stated.iWord op rd ra (0#9 ++ k ++ sh)).toNat 4 0 = sh.toNat := by
  rw [toNat_iWord, toNat_append_eq_add, toNat_append_eq_add, BitVec.toNat_ofNat]
  simp only [bits]
  refine ⟨?_, ?_, ?_⟩ <;> omega

theorem addi_issuesTo : Stated.IssuesTo (.addi u) s u (Stated.iWord 0x8 rd ra z)
    ((Stated.past (s.unit u).seq 1).setS rd.toNat ((s.unit u).seq.S ra.toNat + z.signExtend 32)) := by
  refine issuesTo_of_onSeq (f := addiFx) rfl (wordRow_of_opOf (opOf_iWord ..) (by decide)) ?_
  simp [addiFx, issueCycles]
theorem andi_issuesTo : Stated.IssuesTo (.andi u) s u (Stated.iWord 0x9 rd ra z)
    ((Stated.past (s.unit u).seq 1).setS rd.toNat ((s.unit u).seq.S ra.toNat &&& z.setWidth 32)) := by
  refine issuesTo_of_onSeq (f := andiFx) rfl (wordRow_of_opOf (opOf_iWord ..) (by decide)) ?_
  simp [andiFx, issueCycles]
theorem ori_issuesTo : Stated.IssuesTo (.ori u) s u (Stated.iWord 0xA rd ra z)
    ((Stated.past (s.unit u).seq 1).setS rd.toNat ((s.unit u).seq.S ra.toNat ||| z.setWidth 32)) := by
  refine issuesTo_of_onSeq (f := oriFx) rfl (wordRow_of_opOf (opOf_iWord ..) (by decide)) ?_
  simp [oriFx, issueCycles]
theorem xori_issuesTo : Stated.IssuesTo (.xori u) s u (Stated.iWord 0xB rd ra z)
    ((Stated.past (s.unit u).seq 1).setS rd.toNat ((s.unit u).seq.S ra.toNat ^^^ z.setWidth 32)) := by
  refine issuesTo_of_onSeq (f := xoriFx) rfl (wordRow_of_opOf (opOf_iWord ..) (by decide)) ?_
  simp [xoriFx, issueCycles]

theorem lui_issuesTo : Stated.IssuesTo (.lui u) s u (Stated.iWord 0xD rd 0 z)
    ((Stated.past (s.unit u).seq 1).setS rd.toNat (z ++ 0#16)) := by
  refine issuesTo_of_onSeq (f := luiFx) rfl (wordRow_of_opOf (opOf_iWord ..) (by decide)) ?_
  have hword : w32 (z.toNat * 2 ^ 16) = z ++ 0#16 := by
    apply BitVec.eq_of_toNat_eq
    rw [toNat_append_eq_add, w32, BitVec.toNat_ofNat]
    have := z.isLt
    simp
    omega
  rw [luiFx, fB_iWord, fImm_iWord, hword]
  simp [issueCycles]

/-- SHI shifts by the function of its kind. -/
theorem aluFun_shift {k : Nat} (hk : k < 3) (a : Word) {n : Nat} (hn : n < 32) :
    aluFun (5 + k) a (w32 n) = some (if k = 0 then a <<< n else if k = 1 then a >>> n else a.sshiftRight n) := by
  have hcount : (w32 n).toNat % 32 = n := by
    rw [w32, BitVec.toNat_ofNat]
    omega
  unfold aluFun
  rw [hcount]
  match k, hk with
  | 0, _ | 1, _ | 2, _ => rfl

theorem shi_issuesTo (k : BitVec 2) (sh : BitVec 5) (hk : k.toNat < 3) :
    Stated.IssuesTo (.shi u) s u (Stated.iWord 0xC rd ra (0#9 ++ k ++ sh))
      ((Stated.past (s.unit u).seq 1).setS rd.toNat (if k = 0 then (s.unit u).seq.S ra.toNat <<< sh.toNat
        else if k = 1 then (s.unit u).seq.S ra.toNat >>> sh.toNat
        else ((s.unit u).seq.S ra.toNat).sshiftRight sh.toNat)) := by
  refine issuesTo_of_onSeq (f := shiFx) rfl (wordRow_of_opOf (opOf_iWord ..) (by decide)) ?_
  obtain ⟨hzero, hkind, hcount⟩ := shiFields_iWord 0xC rd ra k sh
  have hbad : ¬ (bits (Stated.iWord 0xC rd ra (0#9 ++ k ++ sh)).toNat 15 7 ≠ 0 ∨
      bits (Stated.iWord 0xC rd ra (0#9 ++ k ++ sh)).toNat 6 5 = 3) := by omega
  rw [shiFx, if_neg hbad, hkind, hcount, aluFun_shift hk _ sh.isLt]
  simp [issueCycles, BitVec.toNat_eq]
end
end

end Sys2Proof.Machine

open Sys2Proof Sys2Proof.Machine

/-- Settles O9, an instruction at a time. -/
theorem scalarResults : Obligations.ScalarResults := by
  refine ⟨fun s u rd ra rb f => alu_issuesTo rd ra rb f, fun s u rd ra rb f => fpu_issuesTo rd ra rb f, ?_⟩
  intro s u rd ra z sh k
  exact ⟨addi_issuesTo rd ra z, andi_issuesTo rd ra z, ori_issuesTo rd ra z, xori_issuesTo rd ra z,
    shi_issuesTo rd ra k sh, lui_issuesTo rd z⟩

end

section
/-! SUPPORT. Words of loads, tokens and system instructions (Tables 7.2, 7.11, 7.13), and the issue of an instruction that
changes its unit. -/
set_option Elab.async false

namespace Sys2Proof.Machine

/-! ## Rows and cycles -/

/-- A word of an opcode that names one row is carried by that row. -/
theorem wordRow_of_single {w op : Nat} (h : opOf w = op)
    (hop : op = 0x10 ∨ op = 0x11 ∨ op = 0x20 ∨ op = 0x21 ∨ op = 0x28 ∨ (0x2C ≤ op ∧ op ≤ 0x2F)) : wordRow w = op := by
  simp only [wordRow, h]
  rw [if_neg (by omega), if_neg (by omega), if_pos (by omega)]

theorem wordRow_of_system {w n : Nat} (h : opOf w = 0x30) (hn : yFunc w = n) (h5 : n ≤ 5) : wordRow w = 0x100 + n := by
  simp only [wordRow, h, hn, if_true, if_pos h5]

/-- Branches and RPUSH apart, an instruction issues in one cycle. -/
theorem issueCycles_eq_one {w op : Nat} (h : opOf w = op) (hop : ¬ (op = 0x14 ∨ op = 0x16 ∨ op = 0x17 ∨ op = 0x28)) :
    issueCycles w = 1 := by
  simp only [issueCycles, h]
  exact if_neg hop

/-! ## Tokens -/

/-- WAIT, SIG and POLL (Table 7.11): a token in the low four bits. -/
theorem toNat_tokenWord (op : BitVec 6) (n : BitVec 4) : (op ++ 0#22 ++ n).toNat = op.toNat * 2 ^ 26 + n.toNat := by
  rw [toNat_append_eq_add, toNat_append_eq_add, BitVec.toNat_ofNat]
  omega

theorem toNat_pollWord (op : BitVec 6) (p : BitVec 3) (n : BitVec 4) :
    (op ++ 0#7 ++ p ++ 0#12 ++ n).toNat = op.toNat * 2 ^ 26 + p.toNat * 2 ^ 16 + n.toNat := by
  simp only [toNat_append_eq_add, BitVec.toNat_ofNat]
  omega

section
variable (op : BitVec 6) (p : BitVec 3) (n : BitVec 4)

theorem opOf_tokenWord : opOf (op ++ 0#22 ++ n).toNat = op.toNat := by
  rw [opOf, toNat_tokenWord, bits]
  omega
theorem tokenFields_tokenWord :
    bits (op ++ 0#22 ++ n).toNat 25 4 = 0 ∧ (op ++ 0#22 ++ n).toNat % 16 = n.toNat := by
  rw [toNat_tokenWord, bits]
  omega
theorem opOf_pollWord : opOf (op ++ 0#7 ++ p ++ 0#12 ++ n).toNat = op.toNat := by
  rw [opOf, toNat_pollWord, bits]
  omega
theorem pollFields_pollWord :
    bits (op ++ 0#7 ++ p ++ 0#12 ++ n).toNat 25 19 = 0 ∧ bits (op ++ 0#7 ++ p ++ 0#12 ++ n).toNat 15 4 = 0 ∧
      bits (op ++ 0#7 ++ p ++ 0#12 ++ n).toNat 18 16 = p.toNat ∧
      (op ++ 0#7 ++ p ++ 0#12 ++ n).toNat % 16 = n.toNat := by
  rw [toNat_pollWord]
  simp only [bits]
  omega
end

/-! ## System words -/

section
variable (func : BitVec 6) (rd ra : BitVec 5) (z : BitVec 10)

theorem toNat_yWord : (Stated.yWord func rd ra z).toNat =
    ((((0x30 * 2 ^ 6 + func.toNat) * 2 ^ 5 + rd.toNat) * 2 ^ 5 + ra.toNat) * 2 ^ 10) + z.toNat := by
  simp only [Stated.yWord, toNat_append_eq_add]
  rfl

@[simp] theorem opOf_yWord : opOf (Stated.yWord func rd ra z).toNat = 0x30 := by
  rw [opOf, toNat_yWord, bits]
  omega
@[simp] theorem yFunc_yWord : yFunc (Stated.yWord func rd ra z).toNat = func.toNat := by
  rw [yFunc, toNat_yWord, bits]
  omega
@[simp] theorem yRd_yWord : yRd (Stated.yWord func rd ra z).toNat = rd.toNat := by
  rw [yRd, toNat_yWord, bits]
  omega
@[simp] theorem yRa_yWord : yRa (Stated.yWord func rd ra z).toNat = ra.toNat := by
  rw [yRa, toNat_yWord, bits]
  omega
@[simp] theorem yImm_yWord : yImm (Stated.yWord func rd ra z).toNat = z.toNat := by
  rw [yImm, toNat_yWord, bits]
  omega
/-- The operands of a system word without any are 0. -/
theorem operands_yWord_zero : bits (Stated.yWord func 0 0 0).toNat 19 0 = 0 := by
  have h5 : (0 : BitVec 5).toNat = 0 := rfl
  have h10 : (0 : BitVec 10).toNat = 0 := rfl
  rw [toNat_yWord, bits]
  omega
end

/-! ## Issue -/

section
variable {s : State} {u row : Nat} {w : Word} {c : Instr} {f : Nat → Nat → State → Issue}

/-- A sequencer that may issue has no halt request. -/
theorem haltReq_of_mayIssue (h : s.mayIssue u = true) : (s.unit u).haltReq = false := by
  simp only [State.mayIssue, Bool.and_eq_true, Bool.not_eq_true'] at h
  obtain ⟨⟨-, hhalt⟩, -⟩ := h
  exact hhalt

/-- The unit past an instruction. -/
theorem SeqUnit.next_eq (x : SeqUnit) (w : Nat) : x.next w = { x with seq := Stated.past x.seq (issueCycles w) } := rfl

/-- A command whose row carries the word at PC issues it: what the instruction does with the unit past the word. -/
theorem exec_of_issues (hexec : exec c s = s.issueRow u row f) (h : Stated.Issues s u w)
    (hrow : wordRow w.toNat = row) :
    exec c s = .next (match f u w.toNat (s.setUnit u ((s.unit u).next w.toNat)) with
      | .wait => s
      | .exc code detail => s.seqExc u code detail
      | .go t => t.afterIssue u) := by
  rw [hexec, issueRow_of_issues f h hrow]
  simp only [State.issueWord, h.atPc, h.free, Bool.false_eq_true, if_false] <;> rfl

/-- An instruction that waits leaves everything as it was. -/
theorem exec_of_wait (hexec : exec c s = s.issueRow u row f) (h : Stated.Issues s u w) (hrow : wordRow w.toNat = row)
    (hf : f u w.toNat (s.setUnit u ((s.unit u).next w.toNat)) = .wait) : exec c s = .next s := by
  rw [exec_of_issues hexec h hrow, hf]

/-- An instruction that raises an exception. -/
theorem exec_of_exc {code detail : Nat} (hexec : exec c s = s.issueRow u row f) (h : Stated.Issues s u w)
    (hrow : wordRow w.toNat = row)
    (hf : f u w.toNat (s.setUnit u ((s.unit u).next w.toNat)) = .exc code detail) :
    exec c s = .next (s.seqExc u code detail) := by
  rw [exec_of_issues hexec h hrow, hf]

theorem exec_of_go {t : State} (hexec : exec c s = s.issueRow u row f) (h : Stated.Issues s u w)
    (hrow : wordRow w.toNat = row) (hf : f u w.toNat (s.setUnit u ((s.unit u).next w.toNat)) = .go t) :
    exec c s = .next (t.afterIssue u) := by
  rw [exec_of_issues hexec h hrow, hf]

/-- An instruction that leaves its unit as `y`, where the program goes on. -/
theorem exec_of_unit {y : SeqUnit} (hexec : exec c s = s.issueRow u row f) (h : Stated.Issues s u w)
    (hrow : wordRow w.toNat = row)
    (hf : f u w.toNat (s.setUnit u ((s.unit u).next w.toNat)) = .go (s.setUnit u y))
    (hrun : y.run = (s.unit u).run) (hgo : Stated.GoesOn y y.seq) : exec c s = .next (s.setUnit u y) := by
  have hunit : (s.setUnit u y).unit u = y := State.unit_setUnit h.canon ..
  rw [exec_of_go hexec h hrow hf, afterIssue_of_goesOn]
  · rw [hunit, hrun]
    exact run_of_mayIssue h.may
  · rwa [hunit]
end

end Sys2Proof.Machine
end

section
/-! SUPPORT. Loads, stores, tokens and system functions, and the statement about them. -/
set_option Elab.async false

namespace Sys2Proof.Machine

variable {s : State} {u : Nat}

/-! ## Scalar memory (R136) -/

section
variable {rd ra : BitVec 5} {z : BitVec 16}

/-- The address, past the instruction as before it. -/
theorem scalarAddr_past {op : BitVec 6} {q : Seqr} (h4 : (q.S ra.toNat + z.signExtend 32).toNat % 4 = 0)
    (hend : (q.S ra.toNat + z.signExtend 32).toNat + 4 ≤ 0x100000) :
    scalarAddr (Stated.iWord op rd ra z).toNat (Stated.past q 1) = some (q.S ra.toNat + z.signExtend 32).toNat := by
  simp only [scalarAddr, fB_iWord, immS_iWord]
  exact if_pos ⟨h4, hend⟩

theorem ldw_issuesTo (h4 : ((s.unit u).seq.S ra.toNat + z.signExtend 32).toNat % 4 = 0)
    (hend : ((s.unit u).seq.S ra.toNat + z.signExtend 32).toNat + 4 ≤ 0x100000) :
    Stated.IssuesTo (.ldw u) s u (Stated.iWord 0x10 rd ra z) ((Stated.past (s.unit u).seq 1).setS rd.toNat
      (BitVec.ofNat 32 (leNat ((s.unit u).ld (if isTile u then 0 else 32)
        ((s.unit u).seq.S ra.toNat + z.signExtend 32).toNat 4)))) := by
  intro h hgo
  have hop : opOf (Stated.iWord 0x10 rd ra z).toNat = 0x10 := opOf_iWord ..
  refine exec_of_unit rfl h (wordRow_of_single hop (by decide)) ?_ rfl hgo
  rw [SeqUnit.next_eq, issueCycles_eq_one hop (by decide)]
  simp only [ldwFx, State.unit_setUnit h.canon, State.setUnit_setUnit h.canon, fA_iWord]
  rw [scalarAddr_past h4 hend]
  rfl

theorem exec_stw (h4 : ((s.unit u).seq.S ra.toNat + z.signExtend 32).toNat % 4 = 0)
    (hend : ((s.unit u).seq.S ra.toNat + z.signExtend 32).toNat + 4 ≤ 0x100000)
    (h : Stated.Issues s u (Stated.iWord 0x11 rd ra z))
    (hgo : Stated.GoesOn (s.unit u) (Stated.past (s.unit u).seq 1)) :
    exec (.stw u) s = .next (s.setUnit u { s.unit u with
      seq := Stated.past (s.unit u).seq 1
      mem := ((s.unit u).st (if isTile u then 0 else 32) ((s.unit u).seq.S ra.toNat + z.signExtend 32).toNat
        (leBytes 4 ((s.unit u).seq.S rd.toNat).toNat)).mem }) := by
  have hop : opOf (Stated.iWord 0x11 rd ra z).toNat = 0x11 := opOf_iWord ..
  refine exec_of_unit rfl h (wordRow_of_single hop (by decide)) ?_ rfl hgo
  rw [SeqUnit.next_eq, issueCycles_eq_one hop (by decide)]
  simp only [stwFx, State.unit_setUnit h.canon, State.setUnit_setUnit h.canon, fA_iWord]
  rw [scalarAddr_past h4 hend]
  rfl
end

/-! ## Credit tokens (R121) -/

section
variable {n : BitVec 4} {p : BitVec 3}

theorem exec_wait_of_zero (h : Stated.Issues s u (0x2C#6 ++ 0#22 ++ n)) (h0 : (s.unit u).token n.toNat = 0) :
    exec (.wait u) s = .next s := by
  obtain ⟨hbits, htok⟩ := tokenFields_tokenWord 0x2C#6 n
  refine exec_of_wait rfl h (wordRow_of_single (opOf_tokenWord ..) (by decide)) ?_
  simp only [waitFx, State.unit_setUnit h.canon, hbits, htok]
  exact if_pos h0

theorem exec_wait_of_pos (h : Stated.Issues s u (0x2C#6 ++ 0#22 ++ n)) (h0 : (s.unit u).token n.toNat ≠ 0)
    (hgo : Stated.GoesOn (s.unit u) (Stated.past (s.unit u).seq 1)) :
    exec (.wait u) s = .next (s.setUnit u { (s.unit u).setToken n.toNat ((s.unit u).token n.toNat - 1) with
      seq := Stated.past (s.unit u).seq 1 }) := by
  obtain ⟨hbits, htok⟩ := tokenFields_tokenWord 0x2C#6 n
  have hop := opOf_tokenWord 0x2C#6 n
  refine exec_of_unit rfl h (wordRow_of_single hop (by decide)) ?_ rfl hgo
  rw [SeqUnit.next_eq, issueCycles_eq_one hop (by decide)]
  simp only [waitFx, State.unit_setUnit h.canon, State.setUnit_setUnit h.canon, hbits, htok]
  exact if_neg h0

theorem exec_sig (h : Stated.Issues s u (0x2D#6 ++ 0#22 ++ n)) (hmax : (s.unit u).token n.toNat < 0xFFFF)
    (hgo : Stated.GoesOn (s.unit u) (Stated.past (s.unit u).seq 1)) :
    exec (.sig u) s = .next (s.setUnit u { (s.unit u).setToken n.toNat ((s.unit u).token n.toNat + 1) with
      seq := Stated.past (s.unit u).seq 1 }) := by
  obtain ⟨hbits, htok⟩ := tokenFields_tokenWord 0x2D#6 n
  have hop := opOf_tokenWord 0x2D#6 n
  refine exec_of_unit rfl h (wordRow_of_single hop (by decide)) ?_ rfl hgo
  rw [SeqUnit.next_eq, issueCycles_eq_one hop (by decide)]
  simp only [sigFx, State.signal, State.unit_setUnit h.canon, State.setUnit_setUnit h.canon, hbits, htok]
  exact congrArg Issue.go (if_pos hmax)

/-- A predicate register decides neither PC nor CYCLE. -/
theorem goesOn_setP {x : SeqUnit} {q : Seqr} {i : Nat} {v : Bool} (h : Stated.GoesOn x q) :
    Stated.GoesOn x (q.setP i v) := by
  unfold Seqr.setP
  split <;> exact h

theorem exec_poll (h : Stated.Issues s u (0x2E#6 ++ 0#7 ++ p ++ 0#12 ++ n))
    (hgo : Stated.GoesOn (s.unit u) (Stated.past (s.unit u).seq 1)) :
    exec (.poll u) s = .next (s.setUnit u (if (s.unit u).token n.toNat = 0 then
        { s.unit u with seq := (Stated.past (s.unit u).seq 1).setP p.toNat false }
      else { (s.unit u).setToken n.toNat ((s.unit u).token n.toNat - 1) with
        seq := (Stated.past (s.unit u).seq 1).setP p.toNat true })) := by
  obtain ⟨hhigh, hlow, hpred, htok⟩ := pollFields_pollWord 0x2E#6 p n
  have hop := opOf_pollWord 0x2E#6 p n
  have hbits : ¬ (bits (0x2E#6 ++ 0#7 ++ p ++ 0#12 ++ n).toNat 25 19 ≠ 0 ∨
      bits (0x2E#6 ++ 0#7 ++ p ++ 0#12 ++ n).toNat 15 4 ≠ 0) := by omega
  have hrow := wordRow_of_single hop (by decide)
  by_cases h0 : (s.unit u).token n.toNat = 0
  · rw [if_pos h0]
    refine exec_of_unit rfl h hrow ?_ rfl (goesOn_setP hgo)
    rw [SeqUnit.next_eq, issueCycles_eq_one hop (by decide)]
    simp only [pollFx, State.unit_setUnit h.canon, State.setUnit_setUnit h.canon, if_neg hbits, hpred, htok]
    exact if_pos h0
  · rw [if_neg h0]
    refine exec_of_unit rfl h hrow ?_ rfl (goesOn_setP hgo)
    rw [SeqUnit.next_eq, issueCycles_eq_one hop (by decide)]
    simp only [pollFx, State.unit_setUnit h.canon, State.setUnit_setUnit h.canon, if_neg hbits, hpred, htok]
    exact if_neg h0
end

/-! ## System instructions (R149) -/

section
variable {rd : BitVec 5} {z : BitVec 10} {m : BitVec 4}

theorem sysNop_issuesTo : Stated.IssuesTo (.sysNop u) s u (Stated.yWord 0 0 0 0) (Stated.past (s.unit u).seq 1) := by
  intro h hgo
  refine exec_of_unit rfl h (wordRow_of_system (opOf_yWord ..) (yFunc_yWord ..) (by decide)) ?_ rfl hgo
  rw [SeqUnit.next_eq, issueCycles_eq_one (opOf_yWord ..) (by decide), sysNopFx, operands_yWord_zero]
  rfl

/-- The system registers are those of Table 7.12, CYCLE with the instruction's own issue. -/
theorem sysReg_past (u : Nat) (x : SeqUnit) (n : Nat) :
    sysReg u { x with seq := Stated.past x.seq 1 } n = Stated.sysReg u x n := by
  match n with
  | 0 | 1 | 2 | 3 | 4 | 5 | _ + 7 => rfl
  | 6 =>
    simp only [sysReg, Stated.sysReg, Option.some.injEq]
    cases isTile u <;> cases x.ctx.teacher <;> rfl

theorem rdsr_issuesTo {v : Word} (hv : Stated.sysReg u (s.unit u) z.toNat = some v) :
    Stated.IssuesTo (.rdsr u) s u (Stated.yWord 4 rd 0 z) ((Stated.past (s.unit u).seq 1).setS rd.toNat v) := by
  intro h hgo
  refine exec_of_unit rfl h (wordRow_of_system (opOf_yWord ..) (yFunc_yWord ..) (by decide)) ?_ rfl hgo
  rw [SeqUnit.next_eq, issueCycles_eq_one (opOf_yWord ..) (by decide)]
  simp only [rdsrFx, State.unit_setUnit h.canon, State.setUnit_setUnit h.canon, yRa_yWord, yImm_yWord, yRd_yWord,
    sysReg_past, hv]
  rfl

/-- The conditions that WAITE asks for stand in the low bits of its immediate. -/
theorem bit_yWord (func : BitVec 6) (rd ra : BitVec 5) (z : BitVec 10) {i : Nat} (hi : i < 10) :
    bit (Stated.yWord func rd ra z).toNat i = z.getLsbD i := by
  rw [bit_eq_testBit, toNat_yWord, Nat.mul_comm, Nat.testBit_two_pow_mul_add _ z.isLt, if_pos hi]
  rfl

theorem waiteFields_yWord (m : BitVec 4) :
    bits (Stated.yWord 5 0 0 (0#6 ++ m)).toNat 9 4 = 0 ∧
      ∀ i, i < 4 → bit (Stated.yWord 5 0 0 (0#6 ++ m)).toNat i = m.getLsbD i := by
  refine ⟨?_, fun i hi => ?_⟩
  · rw [toNat_yWord, toNat_append_eq_add, BitVec.toNat_ofNat, bits]
    omega
  · rw [bit_yWord _ _ _ _ (by omega), BitVec.getLsbD_append, if_pos hi]

theorem waite_issuesTo (hread : m.getLsbD 0 → ∀ a ∈ (s.unit u).arrs, a.isDrn = false → a.read = true)
    (harrs : m.getLsbD 1 → (s.unit u).arrs = []) (htnds : m.getLsbD 2 → (s.unit u).tnds = [])
    (hrun : m.getLsbD 3 → (s.unit u).queue = [] ∧ (s.unit u).started = []) :
    Stated.IssuesTo (.waite u) s u (Stated.yWord 5 0 0 (0#6 ++ m)) (Stated.past (s.unit u).seq 1) := by
  intro h hgo
  refine exec_of_unit rfl h (wordRow_of_system (opOf_yWord ..) (yFunc_yWord ..) (by decide)) ?_ rfl hgo
  obtain ⟨hzero, hbit⟩ := waiteFields_yWord m
  rw [SeqUnit.next_eq, issueCycles_eq_one (opOf_yWord ..) (by decide)]
  have hfields : ¬ (yRd (Stated.yWord 5 0 0 (0#6 ++ m)).toNat ≠ 0 ∨ yRa (Stated.yWord 5 0 0 (0#6 ++ m)).toNat ≠ 0 ∨
      bits (Stated.yWord 5 0 0 (0#6 ++ m)).toNat 9 4 ≠ 0) := by
    rw [yRd_yWord, yRa_yWord, hzero]
    decide
  simp only [waiteFx, State.unit_setUnit h.canon, if_neg hfields, hbit 0 (by decide), hbit 1 (by decide),
    hbit 2 (by decide), hbit 3 (by decide)]
  refine if_neg ?_
  rintro (⟨h0, hany⟩ | ⟨h1, hne⟩ | ⟨h2, hne⟩ | ⟨h3, hne⟩)
  · obtain ⟨a, ha, hunread⟩ := List.any_eq_true.mp hany
    simp only [Bool.and_eq_true, Bool.not_eq_true'] at hunread
    obtain ⟨hdrn, hun⟩ := hunread
    exact Bool.false_ne_true (hun.symm.trans (hread h0 a ha hdrn))
  · exact hne (harrs h1)
  · exact hne (htnds h2)
  · exact hne (hrun h3)

theorem exec_brk (h : Stated.Issues s u (Stated.yWord 3 0 0 0))
    (hgo : Stated.GoesOn (s.unit u) (Stated.past (s.unit u).seq 1)) :
    exec (.brk u) s = .next (s.setUnit u { s.unit u with
      seq := Stated.past (s.unit u).seq 1, haltReq := s.dbg.mode == 0 || s.dbg.mode == 2 }) := by
  have hhalt : (s.unit u).haltReq = false := haltReq_of_mayIssue h.may
  refine exec_of_unit rfl h (wordRow_of_system (opOf_yWord ..) (yFunc_yWord ..) (by decide)) ?_ rfl hgo
  rw [SeqUnit.next_eq, issueCycles_eq_one (opOf_yWord ..) (by decide)]
  simp only [brkFx, operands_yWord_zero, State.modUnit, State.unit_setUnit h.canon, State.setUnit_setUnit h.canon]
  cases hopen : s.dbg.mode == 0 || s.dbg.mode == 2 with
  | true => exact if_pos hopen
  | false =>
    rw [← hhalt]
    exact if_neg (fun ho => Bool.false_ne_true (hopen.symm.trans ho))

/-- BAR waits where it stands: PC is that of the BAR. -/
theorem exec_bar (h : Stated.Issues s u (0x2F#6 ++ 0#26)) :
    exec (.bar u) s = .next (State.afterIssue (s.setUnit u { s.unit u with
      run := .barrier, seq := { Stated.past (s.unit u).seq 1 with
        pc := (s.unit u).seq.pc, bars := (s.unit u).seq.bars + 1 } }) u) := by
  have hop : opOf (0x2F#6 ++ 0#26).toNat = 0x2F := by decide
  have hzero : bits (0x2F#6 ++ 0#26).toNat 25 0 = 0 := by decide
  refine exec_of_go rfl h (wordRow_of_single hop (by decide)) ?_
  rw [SeqUnit.next_eq, issueCycles_eq_one hop (by decide)]
  simp only [barFx, hzero, State.unit_setUnit h.canon, State.setUnit_setUnit h.canon, past_pc, BitVec.add_sub_cancel]
  rfl

/-- A waiting sequencer is stopped only where CYCLE passes a budget (R151). -/
theorem afterIssue_of_barrier (hrun : (s.unit u).run = .barrier) :
    s.afterIssue u = if (s.unit u).ctx.budget ≠ 0 ∧ (s.unit u).ctx.budget < (s.unit u).seq.cycle then s.seqExc u 8 0
      else s := by
  simp only [State.afterIssue, hrun]
  rfl
end

end Sys2Proof.Machine

open Sys2Proof Sys2Proof.Machine

/-- Settles O11, an instruction at a time. -/
theorem loadsCreditsAndSystem : Obligations.LoadsCreditsAndSystem := by
  refine ⟨fun s u rd ra z => ?_, fun s u n p => ?_, fun s u rd z m v => ?_⟩
  · exact fun h4 hend => ⟨ldw_issuesTo h4 hend, exec_stw h4 hend⟩
  · exact ⟨exec_wait_of_zero, exec_wait_of_pos, exec_sig, exec_poll⟩
  · refine ⟨sysNop_issuesTo, rdsr_issuesTo, waite_issuesTo, exec_brk, fun h => ?_⟩
    rw [exec_bar h, afterIssue_of_barrier (by rw [State.unit_setUnit h.canon]), State.unit_setUnit h.canon]

end

section
/-! SUPPORT. Parts that a run of writes leaves alone, the error log of a page, and a partition's fault with the units it
stops (R38, R322). -/
set_option Elab.async false

namespace Sys2Proof.Machine

variable {s t : State} {k k' : PageKind} {i i' off' u v p : Nat}

/-! ## Tables -/

/-- A read of the key just written, whatever the table, where the value is listed. -/
theorem tget_tput_of_ne {α : Type} [DecidableEq α] {d : α} (t : Tbl α) (n : Nat) {v : α} (hv : v ≠ d) :
    tget d (tput d t n v) n = v := by
  induction t with
  | nil => simp [tput, tget, hv]
  | cons a r ih =>
    obtain ⟨k, w⟩ := a
    simp only [tput, hv, if_false]
    by_cases hk : n = k
    · simp [hk, tget]
    · by_cases hlt : n < k
      · simp [hk, hlt, tget]
      · simp [hk, hlt, tget, ih]

theorem State.unit_of_units (h : t.units = s.units) (u : Nat) : t.unit u = s.unit u := congrArg (tget SeqUnit.reset · u) h

theorem State.pg_of_bus (h : t.bus = s.bus) (k : PageKind) (i off : Nat) : t.pg k i off = s.pg k i off := by
  simp only [State.pg, State.rg, h]

/-! ## The error log -/

section
variable {b code part info1 info2 : Nat}

/-- A first error stands in the log (R38). -/
theorem State.pg_errLog_of_free (c : s.Canon) (hk : k ≠ .host) (hfree : bit (s.pg k i 0x28) 31 = false) :
    (s.errLog k i code part info1 info2).pg k i 0x28 = (2 ^ 31 + code * 2 ^ 16 + part % 16 * 2 ^ 8) % 2 ^ 32 ∧
      (s.errLog k i code part info1 info2).pg k i 0x2C = info1 % 2 ^ 32 ∧
      (s.errLog k i code part info1 info2).pg k i 0x30 = info2 % 2 ^ 32 := by
  have c₁ := State.canon_setPg c k i 0x28 (2 ^ 31 + code * 2 ^ 16 + part % 16 * 2 ^ 8)
  have c₂ := State.canon_setPg c₁ k i 0x2C info1
  have c₃ := State.canon_setPg c₂ k i 0x30 info2
  simp only [State.errLog, hfree, Bool.false_eq_true, if_false]
  refine ⟨?_, ?_, ?_⟩
  · rw [State.pg_evSet_ne (State.canon_setPg c₃ ..) hk (by omega) (by omega), State.pg_setPg_ne c₃ _ (by omega),
      State.pg_setPg_ne c₂ _ (by omega), State.pg_setPg_ne c₁ _ (by omega), State.pg_setPg c]
  · rw [State.pg_evSet_ne (State.canon_setPg c₃ ..) hk (by omega) (by omega), State.pg_setPg_ne c₃ _ (by omega),
      State.pg_setPg_ne c₂ _ (by omega), State.pg_setPg c₁]
  · rw [State.pg_evSet_ne (State.canon_setPg c₃ ..) hk (by omega) (by omega), State.pg_setPg_ne c₃ _ (by omega),
      State.pg_setPg c₂]

/-- A first error event stands in the log: the event word is another. -/
theorem State.pg_evErr_of_free (c : s.Canon) (hk : k ≠ .host) (hfree : bit (s.pg k i 0x28) 31 = false) :
    (s.evErr k i b code part info1 info2).pg k i 0x28 = (2 ^ 31 + code * 2 ^ 16 + part % 16 * 2 ^ 8) % 2 ^ 32 ∧
      (s.evErr k i b code part info1 info2).pg k i 0x2C = info1 % 2 ^ 32 ∧
      (s.evErr k i b code part info1 info2).pg k i 0x30 = info2 % 2 ^ 32 := by
  refine State.pg_errLog_of_free ((Keeps.evSet .refl).canon c) hk ?_
  rwa [State.pg_evSet_ne c hk (by omega) (by omega)]
end

/-! ## Units that are stopped (R322) -/

/-- A unit that issues nothing further, its Runner's queue abandoned. -/
def SeqUnit.stopped (x : SeqUnit) : SeqUnit :=
  { x with run := .idle, queue := [], started := [], scaleMade := false, placed := [], exc := none, haltReq := false }

/-- Of the units, those listed are stopped. -/
theorem State.unit_stopUnits (c : s.Canon) (us : List Nat) (v : Nat) :
    (s.stopUnits us).unit v = if v ∈ us then (s.unit v).stopped else s.unit v := by
  induction us generalizing s with
  | nil => rfl
  | cons u us ih =>
    have hcons : s.stopUnits (u :: us) = (s.setUnit u (s.unit u).stopped).stopUnits us := rfl
    rw [hcons, ih (State.canon_setUnit c ..)]
    by_cases hu : v = u
    · subst hu
      rw [State.unit_setUnit c, if_pos List.mem_cons_self]
      exact ite_self _
    · rw [State.unit_setUnit_ne c _ hu]
      exact if_congr (by simp [hu]) rfl rfl

/-- Of everything but the units, nothing moves. -/
theorem State.stopUnits_eq (s : State) (us : List Nat) : s.stopUnits us = s.setUnits (s.stopUnits us).units := by
  obtain ⟨x, hx⟩ := s.stopUnits_eq_setUnits us
  rw [hx]
  rfl

/-! ## A partition faults -/

section
variable {typ inst code : Nat}

/-- A partition at the moment of its fault. -/
def State.faulting (s : State) (p typ inst code : Nat) : Part :=
  { s.part p with
    st := .faulted, tearing := true, scrub := s.partUnits p, faultSrc := w32 (typ + inst * 2 ^ 16)
    faultInfo := w32 code, faultTime := s.now }

/-- The first cause taken and reported in the partition's page. -/
def State.faultReported (s : State) (p typ inst code : Nat) : State :=
  (s.setPart p (s.faulting p typ inst code)).evErr .part p 1 1 p (typ + inst * 2 ^ 16) 0

/-- A partition that can fault does so, and its units stop. -/
theorem State.faultPart_eq (hst : (s.part p).st.faultable = true) :
    s.faultPart p typ inst code =
      (s.faultReported p typ inst code).stopUnits ((s.faultReported p typ inst code).partUnits p) := by
  simp only [State.faultPart, hst, if_true]
  rfl

theorem State.faultReported_busOnly :
    BusOnly (s.setPart p (s.faulting p typ inst code)) (s.faultReported p typ inst code) := .evErr nofun

theorem State.canon_faultReported (c : s.Canon) : (s.faultReported p typ inst code).Canon :=
  ((Keeps.setPart .refl).evErr).canon c

theorem State.pg_faultReported_ne (c : s.Canon) (hp : pageNo k i ≠ pageNo .part p) {off : Nat} (hoff : off < 0x1000) :
    (s.faultReported p typ inst code).pg k i off = s.pg k i off :=
  State.pg_evErr_ne ((Keeps.setPart .refl).canon c) nofun hp hoff

/-- The partition is FAULTED, with the cause. -/
theorem State.part_faultPart (c : s.Canon) (hst : (s.part p).st.faultable = true) :
    (s.faultPart p typ inst code).part p = s.faulting p typ inst code := by
  rw [State.faultPart_eq hst, State.stopUnits_eq]
  exact (State.part_eq_of_parts State.faultReported_busOnly.parts p).trans (State.part_setPart c ..)

/-- A later cause at most takes the place of the first, in the partition's own page and record. -/
theorem State.faultPart_eq_of_not (hst : (s.part p).st.faultable = false) :
    s.faultPart p typ inst code = s ∨ ∃ x, BusOnly s x ∧
      (∀ k i off, s.Canon → pageNo k i ≠ pageNo .part p → off < 0x1000 → x.pg k i off = s.pg k i off) ∧
      s.faultPart p typ inst code =
        x.setPart p { s.part p with faultSrc := w32 (typ + inst * 2 ^ 16), faultInfo := w32 code } := by
  simp only [State.faultPart, hst, Bool.false_eq_true, if_false, State.faultAgain]
  split
  · refine .inr ⟨_, ?_, ?_, rfl⟩
    · exact .ite .setPg .refl
    · intro k i off c hp hoff
      split
      · exact State.pg_setPg_ne c _ (by omega)
      · rfl
  · exact .inl rfl

/-- Whatever its state was, a partition's fault moves of the pages its own, and of the units it at most stops some. -/
theorem State.faultPart_frame (c : s.Canon) :
    (∀ v, (s.faultPart p typ inst code).unit v = s.unit v ∨
      (s.faultPart p typ inst code).unit v = (s.unit v).stopped) ∧
    ∀ k i off, pageNo k i ≠ pageNo .part p → off < 0x1000 → (s.faultPart p typ inst code).pg k i off = s.pg k i off := by
  cases hst : (s.part p).st.faultable with
  | true =>
    have cx := State.canon_faultReported (p := p) (typ := typ) (inst := inst) (code := code) c
    rw [State.faultPart_eq hst]
    refine ⟨fun v => ?_, fun k i off hp hoff => ?_⟩
    · rw [State.unit_stopUnits cx, State.unit_of_units State.faultReported_busOnly.units]
      split
      · exact .inr rfl
      · exact .inl rfl
    · rw [State.stopUnits_eq]
      exact State.pg_faultReported_ne c hp hoff
  | false =>
    obtain hs | ⟨x, hbus, hpg, hx⟩ := State.faultPart_eq_of_not (typ := typ) (inst := inst) (code := code) hst
    · rw [hs]
      exact ⟨fun _ => .inl rfl, fun _ _ _ _ _ => rfl⟩
    · rw [hx]
      exact ⟨fun v => .inl (State.unit_of_units hbus.units v), fun k i off => hpg k i off c⟩
end

end Sys2Proof.Machine
end

section
/-! SUPPORT. Ends of a program, exceptions, budgets, halts and barriers (R148 to R151, R154), and the statement about
them. -/
set_option Elab.async false

namespace Sys2Proof.Machine

variable {s : State} {u : Nat}

/-! ## HALT -/

/-- A program that has ended, and whatever its command then comes to, raises no exception. -/
theorem afterIssue_of_ended (hrun : (s.unit u).run = .ended) : s.afterIssue u = s := by
  simp [State.afterIssue, hrun]

theorem exec_halt_of_busy (h : Stated.Issues s u (Stated.yWord 1 0 0 0)) (hd : (s.unit u).drained = false) :
    exec (.halt u) s = .next s := by
  refine exec_of_wait rfl h (wordRow_of_system (opOf_yWord ..) (yFunc_yWord ..) (by decide)) ?_
  have hd' : ((s.unit u).next (Stated.yWord 1 0 0 0).toNat).drained = false := hd
  simp only [haltFx, operands_yWord_zero, State.unit_setUnit h.canon, hd', Bool.not_false, if_true]
  rfl

/-- Command `i` of partition `p` once the program of unit `u` has ended. -/
def State.endedBy (s : State) (u p i : Nat) : State :=
  if (s.gridOf u).all fun v => (s.unit v).run == .ended then
    s.modCmd p i fun k =>
      { k with out := some { Compl.ok with nstat := s.nstatOf (s.gridOf u) } }
  else s

theorem State.units_endedBy (s : State) (u p i : Nat) : (s.endedBy u p i).units = s.units := by
  unfold State.endedBy
  split <;> rfl

theorem exec_halt_of_drained (h : Stated.Issues s u (Stated.yWord 1 0 0 0)) (hd : (s.unit u).drained = true) :
    exec (.halt u) s = .next (State.endedBy
      (s.setUnit u { s.unit u with run := .ended, seq := Stated.past (s.unit u).seq 1 }) u
      (s.unit u).ctx.part (s.unit u).ctx.cid) := by
  have hunit := State.unit_setUnit h.canon u { s.unit u with run := .ended, seq := Stated.past (s.unit u).seq 1 }
  refine (exec_of_go rfl h (wordRow_of_system (opOf_yWord ..) (yFunc_yWord ..) (by decide)) ?_).trans
    (congrArg Host.Outcome.next (afterIssue_of_ended ?_))
  · have hd' : ({ s.unit u with seq := Stated.past (s.unit u).seq 1 } : SeqUnit).drained = true := hd
    rw [SeqUnit.next_eq, issueCycles_eq_one (opOf_yWord ..) (by decide)]
    simp only [haltFx, operands_yWord_zero, State.unit_setUnit h.canon, State.setUnit_setUnit h.canon, hd',
      State.endedBy, Bool.not_true, Bool.false_eq_true, ne_eq, not_true_eq_false, if_false]
    split <;> rfl
  · rw [State.unit_of_units (State.units_endedBy ..), hunit]

/-! ## Exceptions (R150) -/

theorem exec_trap (z : BitVec 10) (h : Stated.Issues s u (Stated.yWord 2 0 0 z)) :
    exec (.trap u) s = .next (s.seqExc u 7 (z.toNat % 256)) := by
  refine exec_of_exc rfl h (wordRow_of_system (opOf_yWord ..) (yFunc_yWord ..) (by decide)) ?_
  rw [trapFx, opOf_yWord, yFunc_yWord, yRd_yWord, yRa_yWord, yImm_yWord]
  rfl

/-- A word of no instruction (Tables 7.3, 7.13, 8.5). -/
def noInstruction (w : Nat) : Prop :=
  Stated.reservedOp (opOf w) = true ∨ (opOf w = 0x30 ∧ 5 < yFunc w) ∨ (opOf w = 0x24 ∧ topOk (tTop w) = false)

/-- A reserved opcode is none that names a row. -/
theorem not_row_of_reserved {n : Nat} (h : Stated.reservedOp n = true) :
    n ≠ 0x30 ∧ n ≠ 0x24 ∧ ¬ ((1 ≤ n ∧ n ≤ 5) ∨ (8 ≤ n ∧ n ≤ 0x0E) ∨ n = 0x10 ∨ n = 0x11 ∨ (0x14 ≤ n ∧ n ≤ 0x18) ∨
      n = 0x20 ∨ n = 0x21 ∨ n = 0x28 ∨ (0x2C ≤ n ∧ n ≤ 0x2F)) := by
  simp only [Stated.reservedOp, Bool.or_eq_true, List.contains_iff_mem, List.mem_cons, List.not_mem_nil, or_false,
    decide_eq_true_eq] at h
  omega

/-- The row of TRAP carries it (DEDUCED, log 15). -/
theorem wordRow_of_noInstruction {w : Nat} (h : noInstruction w) : wordRow w = 0x102 := by
  unfold wordRow
  dsimp only
  obtain h | ⟨hop, hf⟩ | ⟨hop, htop⟩ := h
  · obtain ⟨hsys, htnd, hrow⟩ := not_row_of_reserved h
    rw [if_neg hsys, if_neg htnd, if_neg hrow]
  · rw [if_pos hop, if_neg (by omega)]
  · rw [if_neg (by omega), if_pos hop, htop]
    rfl

theorem exec_trap_of_noInstruction {w : Word} (hw : noInstruction w.toNat) (h : Stated.Issues s u w) :
    exec (.trap u) s = .next (s.seqExc u 1 0) := by
  refine exec_of_exc rfl h (wordRow_of_noInstruction hw) (if_neg ?_)
  rintro ⟨hop, hf, -⟩
  obtain hr | ⟨-, hlarge⟩ | ⟨htnd, -⟩ := hw
  · obtain ⟨hsys, -⟩ := not_row_of_reserved hr
    exact hsys hop
  · omega
  · omega

theorem extractLsb'_toNat_eq (w : Word) :
    (w.extractLsb' 26 6).toNat = opOf w.toNat ∧ (w.extractLsb' 20 6).toNat = yFunc w.toNat ∧
      (w.extractLsb' 18 8).toNat = tTop w.toNat := by
  simp only [BitVec.extractLsb'_toNat, Nat.shiftRight_eq_div_pow, opOf, yFunc, tTop, bits, and_self]

/-- Issued work holds an exception back. -/
theorem State.excRecord_of_busy
    (h : (s.unit u).arrs ≠ [] ∨ (s.unit u).tnds ≠ [] ∨ (s.unit u).started ≠ []) : s.excRecord u = s := by
  unfold State.excRecord
  dsimp only
  split
  · refine if_neg ?_
    rintro ⟨-, ha, ht, hs⟩
    obtain h | h | h := h
    · exact h ha
    · exact h ht
    · exact h hs
  · rfl

/-- An exception stands in its unit until it is recorded. -/
theorem State.seqExc_eq (s : State) (u code detail : Nat) :
    s.seqExc u code detail = (s.setUnit u { s.unit u with
      run := .excepted, exc := some (code, detail, (s.unit u).seq.pc.toNat) }).excRecord u := rfl

/-- While issued work is under way the exception stands unrecorded. -/
theorem State.seqExc_of_busy (h : (s.unit u).arrs ≠ [] ∨ (s.unit u).tnds ≠ [] ∨ (s.unit u).started ≠ [])
    (code detail : Nat) :
    s.seqExc u code detail = s.setUnit u { s.unit u with
      run := .excepted, exc := some (code, detail, (s.unit u).seq.pc.toNat) } := by
  have hunit : (s.setUnit u { s.unit u with
      run := .excepted, exc := some (code, detail, (s.unit u).seq.pc.toNat) }).unit u = _ :=
    tget_tput_of_ne s.units u (fun he => nomatch (congrArg SeqUnit.run he : UnitRun.excepted = .idle))
  rw [State.seqExc_eq, State.excRecord_of_busy]
  rw [hunit]
  exact h

/-- A sequencer's page is neither the host's nor a partition's. -/
theorem unitPage_ne (u : Nat) {p : Nat} (hp : p < 8) :
    (unitPage u).1 ≠ .host ∧ pageNo (unitPage u).1 (unitPage u).2 ≠ pageNo .part p := by
  unfold unitPage
  split
  · exact ⟨nofun, by simp only [pageNo]; omega⟩
  · exact ⟨nofun, by simp only [pageNo]; omega⟩

/-- The event of an exception in the page of its unit (Tables 5.7 and 6.6). -/
def excEvent (u : Nat) : Nat := if isTile u then 3 else 5

/-- An exception that is recorded. -/
theorem State.excRecord_of_done {code detail pc : Nat} (hexc : (s.unit u).exc = some (code, detail, pc))
    (hrun : (s.unit u).run = .excepted) (ha : (s.unit u).arrs = []) (ht : (s.unit u).tnds = [])
    (hs : (s.unit u).started = []) :
    s.excRecord u = ((s.setUnit u { s.unit u with exc := none }).evErr (unitPage u).1 (unitPage u).2 (excEvent u)
      (excEvent u) (s.unit u).ctx.part (code + detail % 256 * 256) (pc % 4096)).faultFrom (s.unit u).ctx.part
        (unitPage u).1 (unitPage u).2 (excEvent u) := by
  simp only [State.excRecord, hexc, hrun, ha, ht, hs, and_self, if_true]
  rfl

/-- What the record of an exception shows. -/
theorem State.excRecord_shows {code detail pc : Nat} (c : s.Canon) (hp : (s.unit u).ctx.part < 8) (hcode : code < 256)
    (hexc : (s.unit u).exc = some (code, detail, pc)) (hrun : (s.unit u).run = .excepted)
    (ha : (s.unit u).arrs = []) (ht : (s.unit u).tnds = []) (hs : (s.unit u).started = []) :
    ((s.excRecord u).unit u).seq = (s.unit u).seq ∧ ((s.excRecord u).unit u).run ≠ .running ∧
      bit ((s.excRecord u).pg (unitPage u).1 (unitPage u).2 0x14) (excEvent u) = true ∧
      (bit (s.pg (unitPage u).1 (unitPage u).2 0x28) 31 = false →
        bits ((s.excRecord u).pg (unitPage u).1 (unitPage u).2 0x28) 23 16 = excEvent u ∧
        (s.excRecord u).pg (unitPage u).1 (unitPage u).2 0x2C = code + detail % 256 * 256 ∧
        (s.excRecord u).pg (unitPage u).1 (unitPage u).2 0x30 = pc % 4096) ∧
      ((s.part (s.unit u).ctx.part).st.faultable = true →
        ((s.excRecord u).part (s.unit u).ctx.part).st = .faulted ∧
        ((s.excRecord u).part (s.unit u).ctx.part).faultSrc =
          BitVec.ofNat 32 (typeCode (unitPage u).1 + blkInstance (unitPage u).1 (unitPage u).2 * 65536) ∧
        ((s.excRecord u).part (s.unit u).ctx.part).faultInfo = BitVec.ofNat 32 (excEvent u)) := by
  obtain ⟨hk, hpage⟩ := unitPage_ne u hp
  have hevent : excEvent u < 32 := by
    unfold excEvent
    split <;> decide
  have c₁ : (s.setUnit u { s.unit u with exc := none }).Canon := State.canon_setUnit c ..
  have hunit : (s.setUnit u { s.unit u with exc := none }).unit u = { s.unit u with exc := none } :=
    State.unit_setUnit c ..
  rw [State.excRecord_of_done hexc hrun ha ht hs, State.faultFrom]
  generalize hp' : (s.unit u).ctx.part = p at *
  generalize (unitPage u).1 = k at *
  generalize (unitPage u).2 = i at *
  generalize excEvent u = e at *
  have c₂ : ((s.setUnit u { s.unit u with exc := none }).evErr k i e e p (code + detail % 256 * 256)
    (pc % 4096)).Canon := (Keeps.evErr .refl).canon c₁
  have hbus := BusOnly.evErr (s := s.setUnit u { s.unit u with exc := none }) (i := i) (b := e) (code := e) (part := p)
    (info1 := code + detail % 256 * 256) (info2 := pc % 4096) hk
  have hbit := State.bit_evErr_self (i := i) (b := e) (code := e) (part := p) (info1 := code + detail % 256 * 256)
    (info2 := pc % 4096) c₁ hk hevent
  have hlog (hfree : bit (s.pg k i 0x28) 31 = false) := State.pg_evErr_of_free (i := i) (b := e) (code := e)
    (part := p) (info1 := code + detail % 256 * 256) (info2 := pc % 4096) c₁ hk hfree
  generalize (s.setUnit u { s.unit u with exc := none }).evErr k i e e p (code + detail % 256 * 256) (pc % 4096) = t at *
  obtain ⟨hunits, hpg⟩ := State.faultPart_frame (p := p) (typ := typeCode k) (inst := blkInstance k i) (code := e) c₂
  have hpart : t.part p = s.part p := State.part_eq_of_parts hbus.parts p
  have htu : t.unit u = { s.unit u with exc := none } := (State.unit_of_units hbus.units u).trans hunit
  refine ⟨?_, ?_, ?_, fun hfree => ?_, fun hst => ?_⟩
  · obtain h | h := hunits u
    · rw [h, htu]
    · rw [h, htu]
      rfl
  · obtain h | h := hunits u
    · rw [h, htu, hrun]
      decide
    · rw [h]
      exact nofun
  · rw [hpg k i _ hpage (by decide)]
    exact hbit
  · obtain ⟨h28, h2C, h30⟩ := hlog hfree
    rw [hpg k i _ hpage (by decide), hpg k i _ hpage (by decide), hpg k i _ hpage (by decide), h28, h2C, h30, bits]
    omega
  · rw [State.part_faultPart c₂ (hpart.symm ▸ hst)]
    exact ⟨rfl, rfl, rfl⟩

/-! ## Budgets, halts, barriers -/

theorem exec_budget (c : s.Canon) (n : Nat) (hrun : (s.unit u).run = .running ∨ (s.unit u).run = .barrier)
    (hlive : s.live (dieOfUnit u) = true) :
    exec (.budget u n) s = .next
      (if (s.unit u).ctx.budget ≠ 0 ∧ (s.unit u).ctx.budget < ((s.unit u).seq.cycles n).cycle then
        (s.setUnit u { s.unit u with seq := (s.unit u).seq.cycles n }).seqExc u 8 0
       else s.setUnit u { s.unit u with seq := (s.unit u).seq.cycles n }) := by
  change execBudget u n s = _
  simp only [execBudget, hrun, hlive, and_self, if_true, State.unit_setUnit c]
  exact (apply_ite Host.Outcome.next ..).symm

theorem exec_sequencerHalt (hrun : (s.unit u).run = .running ∨ (s.unit u).run = .barrier) (ha : (s.unit u).arrs = [])
    (ht : (s.unit u).tnds = []) (hstop : (s.unit u).haltReq = true ∨ (s.unit u).brk = some (s.unit u).seq.pc.toNat) :
    exec (.sequencerHalt u) s = .next (s.setUnit u { s.unit u with
      run := .halted, haltReq := false
      brk := if (s.unit u).brk = some (s.unit u).seq.pc.toNat then none else (s.unit u).brk
      seq := if (s.unit u).run = .barrier then { (s.unit u).seq with bars := (s.unit u).seq.bars - 1 }
        else (s.unit u).seq }) := if_pos ⟨hrun, ha, ht, hstop⟩

theorem exec_sequencerHalt_own (hrun : (s.unit u).run = .idle) (hhalt : (s.unit u).haltReq = true)
    (hown : s.ownProgram u = true) :
    exec (.sequencerHalt u) s = .next (s.setUnit u { s.unit u with run := .halted, haltReq := false }) := by
  change execSequencerHalt u s = _
  simp [execSequencerHalt, hrun, hhalt, hown]

/-- A unit that has gone past its BAR. -/
def SeqUnit.released (x : SeqUnit) : SeqUnit :=
  { x with run := .running, seq := { x.seq with pc := x.seq.pc + 1 } }

/-- BARRIER_RELEASE at one unit of the grid. -/
def State.releaseOne (n : Nat) (s : State) (v : Nat) : State :=
  if (s.unit v).run = .barrier ∧ (s.unit v).seq.bars = n ∧ (s.unit v).stored then
    (s.setUnit v (s.unit v).released).afterIssue v
  else s

/-- A unit that waits at BAR `n` goes past it where its own Runner's stores are complete. -/
theorem State.releaseOne_of_waits {n v : Nat} (c : s.Canon) (hrun : (s.unit v).run = .barrier)
    (hbars : (s.unit v).seq.bars = n) (hgo : Stated.GoesOn (s.unit v) (s.unit v).released.seq) :
    s.releaseOne n v = if (s.unit v).stored then s.setUnit v (s.unit v).released else s := by
  have hunit := State.unit_setUnit c v (s.unit v).released
  simp only [State.releaseOne, hrun, hbars, true_and]
  split
  · refine afterIssue_of_goesOn ?_ ?_
    · rw [hunit]
      rfl
    · rw [hunit]
      exact hgo
  · rfl

/-- Of a grid of units that all wait at BAR `n`, each goes past it whose stores are complete. -/
theorem State.unit_foldl_releaseOne {n : Nat} (us : List Nat) (hnd : us.Nodup) (c : s.Canon)
    (hwait : ∀ v ∈ us, (s.unit v).run = .barrier ∧ (s.unit v).seq.bars = n ∧
      Stated.GoesOn (s.unit v) (s.unit v).released.seq) (v : Nat) :
    (us.foldl (State.releaseOne n) s).unit v =
      if v ∈ us ∧ (s.unit v).stored = true then (s.unit v).released else s.unit v := by
  induction us generalizing s with
  | nil => simp
  | cons u us ih =>
    obtain ⟨hu, hnd⟩ := List.nodup_cons.mp hnd
    obtain ⟨hrun, hbars, hgo⟩ := hwait u List.mem_cons_self
    rw [List.foldl_cons, State.releaseOne_of_waits c hrun hbars hgo]
    cases hstored : (s.unit u).stored with
    | true =>
      have hne (v : Nat) (hv : v ≠ u) : (s.setUnit u (s.unit u).released).unit v = s.unit v :=
        State.unit_setUnit_ne c _ hv
      rw [if_pos rfl, ih hnd (State.canon_setUnit c ..)]
      · by_cases hv : v = u
        · subst hv
          simp [hu, hstored, State.unit_setUnit c]
        · simp [hv, hne v hv]
      · intro v hv
        rw [hne v fun h => hu (h ▸ hv)]
        exact hwait v (List.mem_cons_of_mem _ hv)
    | false =>
      rw [if_neg Bool.false_ne_true, ih hnd c fun v hv => hwait v (List.mem_cons_of_mem _ hv)]
      by_cases hv : v = u
      · subst hv
        simp [hu, hstored]
      · simp [hv]

theorem SeqUnit.stored_iff (x : SeqUnit) :
    x.stored = true ↔ (∀ d ∈ x.queue, isStore d = false) ∧ ∀ d ∈ x.started, isStore d.words = false := by
  simp [SeqUnit.stored]

theorem exec_barrierRelease (hrun : (s.unit u).run = .barrier)
    (hall : ∀ v ∈ s.gridOf u, (s.unit u).seq.bars ≤ (s.unit v).seq.bars) :
    exec (.barrierRelease u) s = .next ((s.gridOf u).foldl (State.releaseOne (s.unit u).seq.bars) s) :=
  if_pos ⟨hrun, List.all_eq_true.mpr fun v hv => decide_eq_true (hall v hv)⟩

end Sys2Proof.Machine

open Sys2Proof Sys2Proof.Machine

/-- Settles O12: HALT, the exceptions of TRAP, and the stops that a clock, a debugger and a barrier bring. -/
theorem programsStop : Obligations.ProgramsStop := by
  refine ⟨fun s u => ?halt, ⟨fun s u z => exec_trap z, fun s u w h hw => ?_, fun s u code detail => ?_, ?_⟩,
    fun s u => ?stops⟩
  case halt => exact fun h => ⟨exec_halt_of_busy h, exec_halt_of_drained h⟩
  case stops =>
    intro x c
    refine ⟨fun n => exec_budget c n, exec_sequencerHalt, exec_sequencerHalt_own, fun hrun hnd hwait => ?_⟩
    refine ⟨_, exec_barrierRelease hrun fun v hv => ?_, fun v => ?_⟩
    · obtain ⟨-, hbars, -⟩ := hwait v hv
      exact hbars.ge
    · rw [State.unit_foldl_releaseOne _ hnd c hwait]
      simp only [SeqUnit.stored_iff]
      rfl
  · obtain ⟨hop, hfunc, htop⟩ := extractLsb'_toNat_eq w
    rw [hop, hfunc, htop] at hw
    exact exec_trap_of_noInstruction hw h
  · exact ⟨rfl, fun h => State.seqExc_of_busy h code detail⟩
  · intro s u code detail pc x p pg n t c hp hcode hexc hrun ha ht hs
    exact State.excRecord_shows c hp hcode hexc hrun ha ht hs

end

section
/-! SUPPORT. Which parts of the state an operation may move: everything else is as it was. One lemma per shared operation,
so that a statement about a command cites it. -/
set_option Elab.async false

namespace Sys2Proof.Machine

/-- The parts of the state. -/
inductive Field where
  | pending | fresh | dev | west | east | maps | bus | mem | units | sprue | stk | parts | rings | fabric | health | dbg
  | taps
  deriving DecidableEq

/-- A part is the same in two states. -/
def Field.Same (s t : State) : Field → Prop
  | pending => t.pending = s.pending
  | fresh => t.fresh = s.fresh
  | dev => t.dev = s.dev
  | west => t.west = s.west
  | east => t.east = s.east
  | maps => t.maps = s.maps
  | bus => t.bus = s.bus
  | mem => t.mem = s.mem
  | units => t.units = s.units
  | sprue => t.sprue = s.sprue
  | stk => t.stk = s.stk
  | parts => t.parts = s.parts
  | rings => t.rings = s.rings
  | fabric => t.fabric = s.fabric
  | health => t.health = s.health
  | dbg => t.dbg = s.dbg
  | taps => t.taps = s.taps

theorem Field.Same.refl {s : State} (f : Field) : f.Same s s := by cases f <;> rfl

theorem Field.Same.trans {s t r : State} {f : Field} (h : f.Same s t) (h' : f.Same t r) : f.Same s r := by
  cases f <;> exact Eq.trans h' h

/-- From `s` to `t` nothing moves but the listed parts. -/
def Moves (l : List Field) (s t : State) : Prop := ∀ f, f ∉ l → f.Same s t

namespace Moves

variable {s t r : State} {l l' : List Field}

theorem refl : Moves l s s := fun f _ => .refl f

/-- A further operation whose parts are among those listed. -/
theorem andThen (h : Moves l s t) (h' : Moves l' t r) (hl : l' ⊆ l := by decide) : Moves l s r :=
  fun f hf => (h f hf).trans (h' f fun hm => hf (hl hm))

theorem mono (h : Moves l s t) (hl : l ⊆ l' := by decide) : Moves l' s t := fun f hf => h f fun hm => hf (hl hm)

theorem ite {c : Prop} [Decidable c] (ht : Moves l s t) (hr : Moves l s r) : Moves l s (if c then t else r) := by
  split
  · exact ht
  · exact hr

theorem foldl {α : Type} {f : State → α → State} (hf : ∀ x a, Moves l x (f x a)) (as : List α) (s : State) :
    Moves l s (as.foldl f s) :=
  List.foldlRecOn (motive := Moves l s) _ _ refl fun x hx a _ => hx.andThen (hf x a) (List.Subset.refl l)

theorem forN {f : Nat → State → State} (hf : ∀ i x, Moves l x (f i x)) (n : Nat) (s : State) : Moves l s (forN n s f) :=
  foldl (fun x i => hf i x) _ s

theorem repeatStep {f : State → Option State} (hf : ∀ x y, f x = some y → Moves l x y) (n : Nat) (s : State) :
    Moves l s (repeatStep f n s) := by
  induction n generalizing s with
  | zero => exact refl
  | succ n ih =>
    rw [Machine.repeatStep]
    split
    case h_1 y hy => exact (hf s y hy).andThen (ih y) (List.Subset.refl l)
    case h_2 => exact refl

theorem ofBusOnly (h : BusOnly s t) : Moves [.bus] s t := by
  obtain ⟨x, rfl⟩ := h
  intro f hf
  cases f with
  | bus => exact absurd List.mem_cons_self hf
  | _ => rfl

/-! ## What has not moved -/

section
variable (h : Moves l s t)
include h

theorem pending (hl : .pending ∉ l := by decide) : t.pending = s.pending := h .pending hl
theorem fresh (hl : .fresh ∉ l := by decide) : t.fresh = s.fresh := h .fresh hl
theorem dev (hl : .dev ∉ l := by decide) : t.dev = s.dev := h .dev hl
theorem maps (hl : .maps ∉ l := by decide) : t.maps = s.maps := h .maps hl
theorem mem (hl : .mem ∉ l := by decide) : t.mem = s.mem := h .mem hl
theorem units (hl : .units ∉ l := by decide) : t.units = s.units := h .units hl
theorem sprue (hl : .sprue ∉ l := by decide) : t.sprue = s.sprue := h .sprue hl
theorem stk (hl : .stk ∉ l := by decide) : t.stk = s.stk := h .stk hl
theorem parts (hl : .parts ∉ l := by decide) : t.parts = s.parts := h .parts hl
theorem rings (hl : .rings ∉ l := by decide) : t.rings = s.rings := h .rings hl
theorem fabric (hl : .fabric ∉ l := by decide) : t.fabric = s.fabric := h .fabric hl
theorem health (hl : .health ∉ l := by decide) : t.health = s.health := h .health hl
theorem bus (hl : .bus ∉ l := by decide) : t.bus = s.bus := h .bus hl

theorem die (hw : .west ∉ l := by decide) (he : .east ∉ l := by decide) (d : Nat) : t.die d = s.die d := by
  have hwest : t.west = s.west := h .west hw
  have heast : t.east = s.east := h .east he
  rw [State.die, hwest, heast, ← State.die]
theorem live (hd : .dev ∉ l := by decide) (hw : .west ∉ l := by decide) (he : .east ∉ l := by decide) (d : Nat) :
    t.live d = s.live d := by
  rw [State.live, h.dev hd, h.die hw he, ← State.live]
theorem unit (hl : .units ∉ l := by decide) (u : Nat) : t.unit u = s.unit u := State.unit_of_units (h.units hl) u
theorem part (hl : .parts ∉ l := by decide) (p : Nat) : t.part p = s.part p := State.part_eq_of_parts (h.parts hl) p
theorem cmd? (hl : .parts ∉ l := by decide) (p c : Nat) : t.cmd? p c = s.cmd? p c := State.cmd?_of_parts (h.parts hl) p c
theorem gran (hl : .stk ∉ l := by decide) (k : Nat) : t.gran k = s.gran k := State.gran_of_stk (h.stk hl) k
theorem byte (hl : .mem ∉ l := by decide) (a : Nat) : t.byte a = s.byte a := State.byte_of_mem (h.mem hl) a
theorem pg (hl : .bus ∉ l := by decide) (k : PageKind) (i off : Nat) : t.pg k i off = s.pg k i off :=
  State.pg_of_bus (h.bus hl) k i off
theorem ring (hl : .rings ∉ l := by decide) (r : Nat) : t.ring r = s.ring r :=
  congrArg (tget Ring.reset · r) (h.rings hl)
theorem port (hl : .fabric ∉ l := by decide) (n : Nat) : t.port n = s.port n :=
  congrArg (fun f : Fabric => tget Port.reset f.ports n) (h.fabric hl)
end

end Moves
end Sys2Proof.Machine
end

section
/-! SUPPORT. The front of the queue, the state after reset, the TAPs and the resets: statements that the definitions of `step`,
`State.reset`, the sparse tables and the register access settle by themselves. -/
set_option Elab.async false

namespace Sys2Proof.Machine

/-- Every table of the state after reset is empty. -/
theorem State.canon_reset : State.reset.Canon where
  mem := rfl
  units := rfl
  parts := rfl
  rings := rfl
  taps := rfl
  west := rfl
  east := rfl
  bus := ⟨⟨nofun, .nil⟩, rfl, rfl, rfl⟩
  stk := ⟨rfl, rfl⟩
  ports := rfl

/-- No predicate above P0 reads 1 after reset. -/
theorem Seqr.P_reset {i : Nat} (h : i < 8) : Seqr.reset.P i = (i == 0) := by
  match i, h with
  | 0, _ | 1, _ | 2, _ | 3, _ | 4, _ | 5, _ | 6, _ | 7, _ => rfl

/-- S0 reads 0 always, the others after reset. -/
theorem Seqr.S_reset (i : Nat) : Seqr.reset.S i = 0 := ite_self _

/-- A powered device whose table of TAPs lists the West TAP twice: canonical form excludes it, but the statement on the
TAPs ranges over it. -/
def twiceListedTap : State :=
  { State.reset with
    dev := { Dev.reset with rails := true }
    taps := [(0, { Tap.reset with ir := 3 }), (0, { Tap.reset with dr := 1 })] }

/-- A device in READY that owes the host an access of DEV_RST lost between the dies. -/
def lostDevRst : State :=
  { State.reset with
    dev := { Dev.reset with rails := true, state := .ready, sysRst := false }
    bus := { Bus.reset with lost := [(0, 0x1060, true)] } }

end Sys2Proof.Machine

open Sys2Proof Sys2Proof.Machine

/-- Settles O1: `step` is a match on the queue. -/
theorem stepRunsFront : Obligations.StepRunsFront := by
  intro c rest s h
  simp only [step, h]

/-- Settles O2: every table of `State.reset` is empty, so each look-up is the default of its table. -/
theorem resetState : Obligations.ResetState :=
  ⟨State.canon_reset, rfl, rfl, rfl, rfl, fun _ => rfl, fun _ => rfl, fun _ => ⟨rfl, rfl⟩, fun _ => rfl,
    fun _ => ⟨rfl, Seqr.S_reset, fun _ h => Seqr.P_reset h, fun _ => rfl⟩, rfl, fun _ => rfl⟩

/-- Refutes O60: the clause on TRST_N asks for no canonical table of TAPs. Where the table lists the West TAP twice, the
first entry becomes the default of the table and is no longer listed, and the second one shows. -/
theorem not_tapsAnswer : ¬ Obligations.TapsAnswer := by
  intro h
  obtain ⟨⟨t, ht, htap, -⟩, -⟩ := (h twiceListedTap 0 (by decide)).1 rfl
  have hexec : exec .trstNAssert twiceListedTap = .next ((twiceListedTap.loadIr 0 2 false).loadIr 1 2 false) := rfl
  obtain rfl : (twiceListedTap.loadIr 0 2 false).loadIr 1 2 false = t := Host.Outcome.next.inj (hexec.symm.trans ht)
  exact absurd htap (by decide)

/-- Refutes O40: the clause on DEV_RST asks for no access lost between the dies. A write of DEV_RST that was lost is
found again and does nothing, so the device stays READY. -/
theorem not_resetsAndPower : ¬ Obligations.ResetsAndPower := by
  intro ⟨h, _⟩
  obtain ⟨-, -, -, hkey, -⟩ := h lostDevRst rfl
  obtain ⟨t, ht, hreset, -⟩ := hkey rfl (by decide) rfl
  have hstays : t.dev.state = .ready := by
    obtain rfl := Host.Outcome.next.inj ht
    decide
  exact absurd (hstays.symm.trans hreset.st) (by decide)

end

section
/-! SUPPORT. Writes of page registers (R27, R33): with no message to take on any ring, a write that reaches its page is
what its register does and nothing else. -/
set_option Elab.async false

namespace Sys2Proof.Machine

variable {s t : State} {init n i off b : Nat} {k : PageKind} {v : Word}

/-! ## Serving the rings -/

/-- No ring has a message to take. -/
def State.NothingToTake (s : State) : Prop := ∀ r, r < 9 → s.served r = false ∨ s.sqUsed r = 0

theorem State.serve_of_nothingToTake (h : s.NothingToTake) : s.serve = s := by
  have hnone : (List.range 9).find? (fun r => s.served r && s.sqUsed r != 0) = none := by
    rw [List.find?_eq_none]
    intro r hr
    rcases h r (List.mem_range.mp hr) with h0 | h0 <;> simp [h0]
  have hpump : s.pumpOne = none := by rw [State.pumpOne, hnone]
  exact repeatStep_none State.pumpOne _ s hpump

/-- A device that is not READY takes none. -/
theorem State.nothingToTake_of_not_ready (h : s.dev.state ≠ .ready) : s.NothingToTake := by
  intro r _
  left
  simp [State.served, h]

/-- What a ring has to take follows from the device state, the pins, the stops and the registers of the host page. -/
theorem State.nothingToTake_of_same (h : s.NothingToTake) (hdev : t.dev.state = s.dev.state) (htaps : t.taps = s.taps)
    (hrings : ∀ r, (t.ring r).stopped = (s.ring r).stopped) (hpg : ∀ off, off < 0x1000 → t.pg .host 0 off = s.pg .host 0 off) :
    t.NothingToTake := by
  intro r hr
  have hrg : ∀ off, off < 0x40 → t.ringRg r off = s.ringRg r off := fun off hoff => hpg _ (by unfold ringOff; omega)
  have hserved : t.served r = s.served r := by
    simp only [State.served, State.hostPort, State.drives, State.tap, State.ringEn, hdev, htaps, hrings, hrg 0x10 (by decide)]
  have hused : t.sqUsed r = s.sqUsed r := by
    simp only [State.sqUsed, hrg 0x14 (by decide), hrg 0x18 (by decide)]
  rw [hserved, hused]
  exact h r hr

/-- A state in which neither the device, the TAPs, the rings nor the registers moved. -/
theorem State.nothingToTake_of_moves {l : List Field} (h : s.NothingToTake) (hm : Moves l s t)
    (hl : .dev ∉ l ∧ .taps ∉ l ∧ .rings ∉ l ∧ .bus ∉ l := by decide) : t.NothingToTake := by
  obtain ⟨hdev, htaps, hrings, hbus⟩ := hl
  exact State.nothingToTake_of_same h (congrArg Dev.state (hm.dev hdev)) (hm _ htaps)
    (fun r => congrArg Ring.stopped (hm.ring hrings r)) fun off _ => hm.pg hbus .host 0 off

/-- One in which only registers of other pages moved. -/
theorem State.nothingToTake_of_busOnly (h : s.NothingToTake) (hb : BusOnly s t)
    (hpg : ∀ off, off < 0x1000 → t.pg .host 0 off = s.pg .host 0 off) : t.NothingToTake := by
  obtain ⟨x, rfl⟩ := hb
  exact State.nothingToTake_of_same h rfl rfl (fun _ => rfl) hpg

/-- Pages other than that of the host have other numbers. -/
theorem pageNo_ne_host (hk : k ≠ .host) (hi : i < instBound k) : pageNo .host 0 ≠ pageNo k i := by
  cases k <;> simp only [pageNo, instBound] at hi ⊢ <;> first | omega | exact absurd rfl hk

theorem State.nothingToTake_setPg (c : s.Canon) (h : s.NothingToTake) (hp : pageNo .host 0 ≠ pageNo k i)
    (hoff : off < 0x1000) (v : Nat) : (s.setPg k i off v).NothingToTake :=
  State.nothingToTake_of_busOnly h .setPg fun _ _ => State.pg_setPg_ne c v (by omega)

theorem State.nothingToTake_evSet (c : s.Canon) (h : s.NothingToTake) (hk : k ≠ .host) (hp : pageNo .host 0 ≠ pageNo k i) :
    (s.evSet k i b).NothingToTake :=
  State.nothingToTake_of_busOnly h (.evSet hk) fun _ _ => State.pg_evSet_ne c hk (by omega) (by omega)

theorem State.nothingToTake_evErr {code part info1 info2 : Nat} (c : s.Canon) (h : s.NothingToTake) (hk : k ≠ .host)
    (hp : pageNo .host 0 ≠ pageNo k i) : (s.evErr k i b code part info1 info2).NothingToTake :=
  State.nothingToTake_of_busOnly h (.evErr hk) fun _ ho => State.pg_evErr_ne c hk hp ho

/-! ## The page of a number -/

/-- The pages of BAR0 (Table 2.2): every number below the bound of its kind, and of a stack's Fumarole the 33 units. -/
def IsPage (k : PageKind) (i : Nat) : Prop := i < instBound k ∧ (k = .fum → i % 64 < 33)

theorem pageOf_pageNo (h : IsPage k i) : pageOf (pageNo k i) = some (k, i) := by
  obtain ⟨hi, hf⟩ := h
  cases k <;> simp only [instBound] at hi
  case glb | host | dbg =>
    obtain rfl : i = 0 := by omega
    rfl
  case mgt | otp | pyro | clk | d2d | sprue | ladle =>
    obtain rfl | rfl : i = 0 ∨ i = 1 := by omega
    · rfl
    · rfl
  case part | mould | cruc | port =>
    unfold pageNo pageOf
    dsimp only
    repeat rw [if_neg (by omega)]
    rw [if_pos (by omega), Nat.add_sub_cancel_left]
  case stack =>
    unfold pageNo pageOf
    dsimp only
    repeat rw [if_neg (by omega)]
    rw [if_pos (by omega), if_pos (by omega), show (0x400 + i * 0x40 - 0x400) / 0x40 = i by omega]
  case fum =>
    have hu : i % 64 < 33 := hf rfl
    unfold pageNo pageOf
    dsimp only
    repeat rw [if_neg (by omega)]
    rw [if_pos (by omega), if_neg (by omega), if_pos (by omega)]
    exact congrArg (fun x => some (PageKind.fum, x)) (by omega)

/-! ## Writes that reach their page -/

theorem pageNo_div (k : PageKind) (i : Nat) (hoff : off < 0x1000) : (pageNo k i * 0x1000 + off) / 0x1000 = pageNo k i := by
  omega

theorem pageNo_mod (k : PageKind) (i : Nat) (hoff : off < 0x1000) : (pageNo k i * 0x1000 + off) % 0x1000 = off := by
  omega

/-- An aligned write of a page with a clock writes its register. -/
theorem regWrite_of_reaches (h : Stated.Reaches s init) (hp : IsPage k i) (hoff : off < 0x1000) (hal : off % 4 = 0)
    (hg : s.gated k i = false) : s.regWrite init (pageNo k i * 0x1000 + off) v = s.writeReg init k i off v := by
  have hm := mayReach_of_reaches h true (pageNo k i * 0x1000 + off)
  have halign : (pageNo k i * 0x1000 + off) % 4 = 0 := by omega
  obtain ⟨-, -, hlost, -⟩ := h
  simp [State.regWrite, hm, hlost, halign, pageNo_div k i hoff, pageNo_mod k i hoff, pageOf_pageNo hp, hg]

/-- The command of a write is what the register does, where that leaves no message to take. -/
theorem State.pageWrite_eq (h : Stated.Reaches s init) (hp : IsPage k i) (hoff : off < 0x1000) (hal : off % 4 = 0)
    (hg : s.gated k i = false) (hw : s.writeReg init k i off v = (t, n)) (hq : t.NothingToTake) :
    s.pageWrite init k i off v = .next t := by
  have hword : (v.zeroExtend 64).truncate 32 = v := by simp
  have hwrite : s.writeAccess init (pageNo k i * 0x1000 + off) 4 (v.zeroExtend 64) = t := by
    simp only [State.writeAccess, reach_of_reaches h, Bool.not_true, Bool.false_eq_true, if_false, if_true, hword,
      regWrite_of_reaches h hp hoff hal hg, hw]
  rw [State.pageWrite, hwrite, State.serve_of_nothingToTake hq]

/-- A READY device bars no write. -/
theorem State.safeBars_of_ready (h : s.dev.state = .ready) : s.safeBars init k i off = false := by
  simp [State.safeBars, h]

/-- No initiator that reaches every page is a partition's ring. -/
theorem selfSel_of_reaches (h : Stated.Reaches s init) : selfSel init k off v = v := by
  obtain ⟨-, -, -, hi⟩ := h
  exact if_neg (by omega)

/-- A register of a block is written where no owner locks it. -/
theorem State.writeReg_block (h : Stated.Reaches s init) (hlock : init ≤ 1 → s.ownerLock k i = false) (hoff : 0x40 ≤ off) :
    s.writeReg init k i off v = s.writeBlock init k i off v := by
  have hlocked : (decide (init ≤ 1) && s.ownerLock k i) = false := by
    by_cases hi : init ≤ 1
    · simp [hlock hi]
    · simp [hi]
  have hself := selfSel_of_reaches (k := k) (off := off) (v := v) h
  have hsafe := State.safeBars_of_ready (init := init) (k := k) (i := i) (off := off) h.2.1
  unfold State.writeReg
  simp only [hlocked, hsafe, Bool.false_eq_true, false_and, if_false, hself]
  rw [if_neg (by omega)]
  split
  case h_5 => rw [if_neg (by omega)]
  all_goals omega

/-- Pages that no partition owns. -/
theorem State.ownerLock_of_unowned (hk : k ∈ [.glb, .mgt, .host, .otp, .dbg, .pyro, .clk, .d2d, .port, .stack, .fum]) :
    s.ownerLock k i = false := by
  cases k
  case port | glb | mgt | host | otp | dbg | pyro | clk | d2d | stack | fum => rfl
  all_goals exact absurd hk (by decide)

/-- Pages that always have a clock. -/
theorem State.gated_of_clocked (hk : k ∉ [.mould, .cruc, .fum]) : s.gated k i = false := by
  cases k
  case mould | cruc | fum => exact absurd hk (by decide)
  all_goals rfl

/-- A write of a block register of a page that no partition owns. -/
theorem State.pageWrite_block (h : Stated.Reaches s init) (hp : IsPage k i) (hoff : 0x40 ≤ off ∧ off < 0x1000 ∧ off % 4 = 0)
    (hlock : init ≤ 1 → s.ownerLock k i = false) (hg : k ∉ [.mould, .cruc, .fum])
    (hw : s.writeBlock init k i off v = (t, n)) (hq : t.NothingToTake) : s.pageWrite init k i off v = .next t := by
  obtain ⟨hlo, hhi, hal⟩ := hoff
  exact State.pageWrite_eq h hp hhi hal (State.gated_of_clocked hg) ((State.writeReg_block h hlock hlo).trans hw) hq

end Sys2Proof.Machine
end

section
/-! SUPPORT. Registers of blocks with behaviour of their own: FH_CLR, the spare-use log, PCFG and TREC, GOV_CFG and
ARRAY_SET. -/
set_option Elab.async false

namespace Sys2Proof.Machine

variable {s t : State} {init d q : Nat} {v : Word}

/-! ## Temperatures -/

/-- +0 is below every positive number. -/
theorem lt_zero_fin {m : Nat} (e : Int) (h : m ≠ 0) : (fl 0).lt (.fin false m e) = true := by
  have hzero : fl 0 = .fin false 0 fp32.lsb := rfl
  have hpow : 0 < m * 2 ^ (e - min fp32.lsb e).toNat := Nat.mul_pos (Nat.pos_of_ne_zero h) (Nat.two_pow_pos _)
  simp only [hzero, Fl.lt, Fl.num]
  simpa using hpow

/-- A positive normal number is a temperature. -/
theorem tempOk_of_normal (hlo : 0x800000 ≤ v.toNat) (hhi : v.toNat < 0x7F800000) : tempOk v = true := by
  have hsign : bit v.toNat 31 = false := by
    rw [bit, decide_eq_false_iff_not]
    omega
  have hmod : v.toNat % 2 ^ 31 = v.toNat := Nat.mod_eq_of_lt (by omega)
  have hdec : fl v = .fin false (v.toNat % 2 ^ 23 + 2 ^ 23) (fp32.lsb + (v.toNat / 2 ^ 23 - 1 : Nat)) := by
    simp only [fl, FpFmt.dec, fp32, hsign, hmod]
    rw [if_neg (by rw [Option.some.injEq]; omega), if_neg (by omega), if_neg (by omega)]
  have hpos : (fl 0).lt (fl v) = true := hdec ▸ lt_zero_fin _ (by omega)
  rw [tempOk, flt, hpos, fIsFin, hdec]
  rfl

/-- It is below no negative one. -/
theorem lt_zero_neg (m : Nat) (e : Int) : (fl 0).lt (.fin true m e) = false := by
  have hzero : fl 0 = .fin false 0 fp32.lsb := rfl
  have hpow : (0 : Int) ≤ m * 2 ^ (e - min fp32.lsb e).toNat := by positivity
  rw [hzero]
  simp [Fl.lt, Fl.num, hpow]

/-- The decoding of a binary32 code at or above that of infinity is no finite number. -/
theorem not_isFin_of_large (h : 0x7F800000 ≤ v.toNat % 2 ^ 31) : fIsFin v = false := by
  unfold fIsFin fl FpFmt.dec
  dsimp only
  split
  case isTrue => rfl
  case isFalse hinf =>
    have hne : v.toNat % 2 ^ 31 ≠ 0x7F800000 := fun he => hinf (congrArg some he.symm)
    have hnan : v.toNat % 2 ^ fp32.sign > fp32.maxc := by
      simp only [fp32]
      omega
    rw [if_pos hnan]
    rfl

/-- Zero, infinities, NaNs and negative numbers are none. -/
theorem not_tempOk (h : v.toNat = 0 ∨ 0x7F800000 ≤ v.toNat) : tempOk v = false := by
  by_cases hlarge : 0x7F800000 ≤ v.toNat % 2 ^ 31
  · rw [tempOk, not_isFin_of_large hlarge, Bool.false_and]
  · obtain hzero | hneg : v.toNat = 0 ∨ 2 ^ 31 ≤ v.toNat := by omega
    · obtain rfl : v = 0 := BitVec.eq_of_toNat_eq hzero
      rfl
    · have hsign : bit v.toNat 31 = true := by
        rw [bit, decide_eq_true_iff]
        omega
      have hfin : ∃ m e, fl v = .fin true m e := by
        have hinf : fp32.infc ≠ some (v.toNat % 2 ^ fp32.sign) := fun he => by
          have := Option.some.inj he
          simp only [fp32] at this
          omega
        have hnan : ¬ v.toNat % 2 ^ fp32.sign > fp32.maxc := by
          simp only [fp32]
          omega
        unfold fl FpFmt.dec
        dsimp only
        rw [if_neg hinf, if_neg hnan, show bit v.toNat fp32.sign = true from hsign]
        split
        · exact ⟨_, _, rfl⟩
        · exact ⟨_, _, rfl⟩
      obtain ⟨m, e, hv⟩ := hfin
      rw [tempOk, flt, hv, lt_zero_neg, Bool.and_false]

/-! ## The writes -/

/-- What PCFG of a slice writes. -/
def pcfgWord (s : State) (d q x : Nat) : Nat :=
  if d = 0 then x &&& 0x0F1F3FF1 else setBits (x &&& 0x0F1F0000) 13 0 (bits (s.pcfg q 1) 13 0)

theorem pcfgWord_lt (s : State) (d q x : Nat) : pcfgWord s d q x < 2 ^ 32 := by
  unfold pcfgWord setBits
  have hwest : x &&& 0x0F1F3FF1 ≤ 0x0F1F3FF1 := Nat.and_le_right
  have heast : x &&& 0x0F1F0000 ≤ 0x0F1F0000 := Nat.and_le_right
  split
  · omega
  · omega

theorem groupOf_pcfg (h : q < 8) : groupOf (0x44 + 0x20 * q) = some (q, 4) := by
  unfold groupOf
  rw [if_pos (by omega)]
  congr 2
  all_goals omega

theorem groupOf_trec (h : q < 8) : groupOf (0x48 + 0x20 * q) = some (q, 8) := by
  unfold groupOf
  rw [if_pos (by omega)]
  congr 2
  all_goals omega

/-- A register of a partition's group on a Sprue page, but PERF_CLR, is written as `sprueWrite` says. -/
theorem writeBlock_sprue {off o : Nat} (hg : groupOf off = some (q, o)) (ho : o = 4 ∨ o = 8) :
    s.writeBlock init .sprue d off v = s.sprueWrite d q o v := by
  have hperf : 0x154 ≠ off := by
    rintro rfl
    rcases ho with rfl | rfl <;> simp [groupOf] at hg
  simp only [State.writeBlock, rwPair, rwMask, perfRegs, hg, hperf, if_false]
  simp [ho]

/-- FH_CLR through BAR0, the management cores or JTAG clears one partition's counts of the die, or every one's. -/
theorem exec_fhClr (hr : Stated.Reaches s init) (hq : s.NothingToTake) (hd : d < 2) :
    exec (.fhClr init d v) s = .next (s.fhClear d fun p => bit v.toNat 8 || p == v.toNat % 8) := by
  have hclear : s.writeFhClr init d v.toNat = s.fhClear d fun p => bit v.toNat 8 || p == v.toNat % 8 := by
    obtain ⟨-, -, -, hi⟩ := hr
    rw [State.writeFhClr, if_neg (by omega)]
    cases bit v.toNat 8
    · simp only [Bool.false_or]
      rfl
    · simp only [Bool.true_or]
      rfl
  have hw : s.writeBlock init .pyro d 0x81C v = (s.fhClear d fun p => bit v.toNat 8 || p == v.toNat % 8, 0) := by
    rw [← hclear]
    rfl
  exact State.pageWrite_block hr ⟨hd, nofun⟩ (by decide) (fun _ => rfl) (by decide) hw hq

/-- Of a table of counts, those of a die's chosen partitions are 0 after a clear. -/
theorem tget_fhClear {f : Nat → Bool} (h : twf 0 s.health.fh = true) {e p c j : Nat} (hp : p < 8) (hc : c < 5) (hj : j < 64) :
    tget 0 (s.fhClear d f).health.fh (((e * 8 + p) * 5 + c) * 64 + j) =
      if e = d ∧ f p = true then 0 else tget 0 s.health.fh (((e * 8 + p) * 5 + c) * 64 + j) := by
  have hdie : (((e * 8 + p) * 5 + c) * 64 + j) / 320 / 8 = e := by omega
  have hpart : (((e * 8 + p) * 5 + c) * 64 + j) / 320 % 8 = p := by omega
  refine (tget_filter 0 (fun n => !(n / 320 / 8 == d && f (n / 320 % 8))) _ h).trans ?_
  simp only [hdie, hpart]
  by_cases he : e = d <;> cases f p <;> simp [he]

/-- SPLOG_CLR acts at its key only. -/
theorem exec_splogClr (hr : Stated.Reaches s init) (hq : s.NothingToTake) :
    exec (.splogClr init v) s =
      .next (if v = 0x5C1E#32 then s.setHealth { s.health with log := [], ovf := 0 } else s) := by
  have hw : s.writeBlock init .pyro 0 0x78 v =
      (if v = 0x5C1E#32 then s.setHealth { s.health with log := [], ovf := 0 } else s, 0) := by
    by_cases hkey : v = 0x5C1E#32
    · rw [if_pos hkey, hkey]
      rfl
    · rw [if_neg hkey]
      simp [State.writeBlock, rwPair, rwMask, perfRegs, hkey]
  refine State.pageWrite_block hr ⟨by decide, nofun⟩ (by decide) (fun _ => rfl) (by decide) hw ?_
  split
  · exact State.nothingToTake_of_same hq rfl rfl (fun _ => rfl) fun _ _ => rfl
  · exact hq

/-- GOV_CFG takes its thresholds clamped. -/
theorem exec_govCfgWrite {n : Nat} (hr : Stated.Reaches s init) (hq : s.NothingToTake) (hn : n < 12) :
    exec (.govCfgWrite init n v) s = .next (s.setPg .stack n 0x50 (govClamp v.toNat)) :=
  State.pageWrite_block hr ⟨hn, nofun⟩ (by decide) (fun _ => rfl) (by decide) rfl
    (State.nothingToTake_setPg hr.1 hq (by simp only [pageNo]; omega) (by decide) _)

/-- ARRAY_SET takes a rate of the list and else raises its event. -/
theorem exec_arraySetWrite (hr : Stated.Reaches s init) (hq : s.NothingToTake) (hd : d < 2) :
    exec (.arraySetWrite init d v) s =
      let f := v.toNat % 2 ^ 11
      .next (if 900 ≤ f ∧ f ≤ 1600 ∧ f % 100 = 0 then s.setPg .clk d 0x44 f else s.evSet .clk d 3) := by
  refine State.pageWrite_block hr ⟨hd, nofun⟩ (by decide) (fun _ => rfl) (by decide) rfl ?_
  split
  · exact State.nothingToTake_setPg hr.1 hq (by simp only [pageNo]; omega) (by decide) _
  · exact State.nothingToTake_evSet hr.1 hq nofun (by simp only [pageNo]; omega)

/-- A write of a partition's register on a Sprue page. -/
theorem exec_sprueWrite {off o : Nat} (hr : Stated.Reaches s init) (hd : d < 2) (hlock : 10 ≤ init ∨ s.ownerLock .sprue d = false)
    (hg : groupOf off = some (q, o)) (ho : o = 4 ∨ o = 8) (hoff : 0x40 ≤ off ∧ off < 0x1000 ∧ off % 4 = 0) {n : Nat}
    (hw : s.sprueWrite d q o v = (t, n)) (hq : t.NothingToTake) : s.pageWrite init .sprue d off v = .next t :=
  State.pageWrite_block hr ⟨hd, nofun⟩ hoff (fun hi => hlock.resolve_left (by omega)) (by decide)
    ((writeBlock_sprue hg ho).trans hw) hq

/-- A loss command of the partition is under way at the Sprue, or a row block of it stands there. -/
def State.sprueBusy (s : State) (q : Nat) : Bool :=
  ((s.part q).cmds.any fun c => c.phase == .running && (c.opcode == 0x300 || c.opcode == 0x301)) ||
    s.sprue.blks.any (fun r => r.part == q)

theorem State.sprueBusy_eq_false : s.sprueBusy q = false ↔
    (∀ c ∈ (s.part q).cmds, c.phase = .running → c.opcode ≠ 0x300 ∧ c.opcode ≠ 0x301) ∧
      ∀ b ∈ s.sprue.blks, b.part ≠ q := by
  simp [State.sprueBusy]

/-- A legal value of PCFG (R200): it names an intake and a window, and of West a number of records. -/
def PcfgFair (d x : Nat) : Prop :=
  1 ≤ bits x 20 16 ∧ bits x 20 16 ≤ 16 ∧ bits x 27 24 ≠ 0 ∧ (d = 0 → 1 ≤ bits x 13 4 ∧ bits x 13 4 ≤ 512)

/-- Segments that PCFG asks of the partition's slice. -/
def State.sliceNeed (s : State) (d q : Nat) : Nat :=
  if s.topk q then 16 * s.intake q d + s.recSegs q d else 32 * s.intake q d + (1 + s.win q d)

/-- PCFG is written where its value is legal, nothing of the partition is at the Sprue and the slice holds it. -/
theorem sprueWrite_pcfg (hfair : PcfgFair d v.toNat) (hidle : s.sprueBusy q = false)
    (hholds : (s.setPg .sprue d (0x44 + 0x20 * q) (pcfgWord s d q v.toNat)).sliceNeed d q ≤ s.sliceCount q d) :
    s.sprueWrite d q 4 v = (s.setPg .sprue d (0x44 + 0x20 * q) (pcfgWord s d q v.toNat), 0) := by
  obtain ⟨hintake, hmax, hwin, hrec⟩ := hfair
  unfold State.sliceNeed at hholds
  rw [State.sprueBusy] at hidle
  simp only [State.sprueWrite, hidle, Bool.false_eq_true, if_false, if_true]
  rw [if_neg (by omega), if_neg]
  · rfl
  · simp only [pcfgWord] at hholds
    split_ifs at hholds ⊢ <;> omega

/-- Otherwise the write is discarded. -/
theorem sprueWrite_pcfg_discarded (h : ¬ PcfgFair d v.toNat ∨ s.sprueBusy q = true ∨
    ¬ (s.setPg .sprue d (0x44 + 0x20 * q) (pcfgWord s d q v.toNat)).sliceNeed d q ≤ s.sliceCount q d) :
    (s.sprueWrite d q 4 v).1 = s := by
  unfold PcfgFair State.sprueBusy State.sliceNeed pcfgWord at h
  simp only [State.sprueWrite, if_true]
  split
  · rfl
  next hfair =>
    split
    · rfl
    next hidle =>
      rcases h with h | h | h
      · exact absurd (by omega) h
      · exact absurd h hidle
      · rw [if_pos]
        split_ifs at h ⊢ <;> omega

/-- TREC of West takes a temperature while nothing of the partition is at the Sprue. -/
theorem sprueWrite_trec (htemp : tempOk v = true) (hidle : s.sprueBusy q = false) :
    s.sprueWrite 0 q 8 v = (s.setPg .sprue 0 (0x48 + 0x20 * q) v.toNat, 0) := by
  rw [State.sprueBusy] at hidle
  simp [State.sprueWrite, hidle, htemp]

theorem sprueWrite_trec_discarded (h : d = 1 ∨ tempOk v = false ∨ s.sprueBusy q = true) :
    (s.sprueWrite d q 8 v).1 = s := by
  unfold State.sprueBusy at h
  simp only [State.sprueWrite]
  rw [if_neg (by decide)]
  split
  · rfl
  next hwest =>
    split
    · rfl
    next htemp =>
      rcases h with h | h | h
      · exact absurd h hwest
      · simp [h] at htemp
      · rw [if_pos h]

end Sys2Proof.Machine

open Sys2Proof Sys2Proof.Machine

/-- Settles O57: each register's write is an equation of its own. -/
theorem blockRegistersAct : Obligations.BlockRegistersAct := by
  intro s init v ⟨hr, hq⟩ x
  have c : s.Canon := hr.1
  refine ⟨?_, ?_, ?_, ?_, ?_, ?_⟩
  · intro d hd hfh
    refine ⟨_, exec_fhClr hr hq hd, rfl, fun e p c j _ hp hc hj => ?_⟩
    rw [tget_fhClear hfh hp hc hj]
    simp only [Bool.or_eq_true, beq_iff_eq, x]
  · intro hkey
    have hv : v = 0x5C1E#32 := BitVec.eq_of_toNat_eq hkey
    exact ⟨_, exec_splogClr hr hq, by rw [if_pos hv]; rfl, by rw [if_pos hv]; rfl⟩
  · intro hkey
    rw [exec_splogClr hr hq, if_neg fun hv => hkey (congrArg BitVec.toNat hv)]
  · intro d q hd hq8 hlock k fair idle w u holds
    have hpage : pageNo .host 0 ≠ pageNo .sprue d := by
      simp only [pageNo]
      omega
    have hpcfg (t : State) (n : Nat) : s.sprueWrite d q 4 v = (t, n) → t.NothingToTake →
        exec (.spruePcfgWrite init d q v) s = .next t :=
      exec_sprueWrite hr hd hlock (groupOf_pcfg hq8) (.inl rfl) (by omega)
    have htrec (t : State) (n : Nat) : s.sprueWrite d q 8 v = (t, n) → t.NothingToTake →
        exec (.sprueTrecWrite init d q v) s = .next t :=
      exec_sprueWrite hr hd hlock (groupOf_trec hq8) (.inr rfl) (by omega)
    refine ⟨?_, ?_, ?_, ?_⟩
    · intro hfair hidle hholds
      refine ⟨_, hpcfg _ _ (sprueWrite_pcfg hfair (State.sprueBusy_eq_false.mpr hidle) hholds)
        (State.nothingToTake_setPg c hq hpage (by omega) _), ?_, rfl⟩
      rw [State.pg_setPg c]
      exact Nat.mod_eq_of_lt (pcfgWord_lt s d q x)
    · intro h
      have hbars : ¬ PcfgFair d v.toNat ∨ s.sprueBusy q = true ∨ ¬ u.sliceNeed d q ≤ s.sliceCount q d := by
        rcases h with h | h | h
        · exact .inl h
        · exact .inr (.inl (by rwa [← Bool.not_eq_false, State.sprueBusy_eq_false]))
        · exact .inr (.inr h)
      exact hpcfg s _ (Prod.ext (sprueWrite_pcfg_discarded hbars) rfl) hq
    · rintro rfl hlo hhi hidle
      refine ⟨_, htrec _ _ (sprueWrite_trec (tempOk_of_normal hlo hhi) (State.sprueBusy_eq_false.mpr hidle))
        (State.nothingToTake_setPg c hq hpage (by omega) _), ?_, rfl⟩
      rw [State.pg_setPg c, Nat.mod_eq_of_lt v.isLt]
    · intro h
      have hbars : d = 1 ∨ tempOk v = false ∨ s.sprueBusy q = true := by
        rcases h with h | h | h | h
        · exact .inl h
        · exact .inr (.inl (not_tempOk (.inl h)))
        · exact .inr (.inl (not_tempOk (.inr h)))
        · exact .inr (.inr (by rwa [← Bool.not_eq_false, State.sprueBusy_eq_false]))
      exact htrec s _ (Prod.ext (sprueWrite_trec_discarded hbars) rfl) hq
  · intro n hn a b c'
    refine ⟨_, exec_govCfgWrite hr hq hn, ?_, rfl⟩
    rw [State.pg_setPg c]
    have hsmall : a + b * 256 + c' * 65536 < 2 ^ 32 := by omega
    exact Nat.mod_eq_of_lt hsmall
  · intro d hd f
    have hexec := exec_arraySetWrite (v := v) hr hq hd
    constructor
    · intro hrate
      have hexec' := hexec.trans (congrArg _ (if_pos hrate))
      refine ⟨_, hexec', ?_, rfl⟩
      rw [State.pg_setPg c]
      exact Nat.mod_eq_of_lt (by omega)
    · intro hrate
      have hexec' := hexec.trans (congrArg _ (if_neg hrate))
      exact ⟨_, hexec', State.pg_evSet_ne c nofun (by omega) (by omega), State.bit_evSet_self c nofun (by decide)⟩

end

section
/-! SUPPORT. Burning fuses and unlocking debug (R381, R383 to R386). -/
set_option Elab.async false

namespace Sys2Proof.Machine

variable {s t : State} {init d a b code : Nat} {v w : Word}

/-! ## Registers of blocks after events -/

section
variable {k k' : PageKind} {i i' off m part info1 info2 : Nat}

/-- Events move header registers only. -/
theorem State.pg_evSet_block (c : s.Canon) (hk : k ≠ .host) (hoff : 0x40 ≤ off ∧ off < 0x1000) :
    (s.evSet k i b).pg k' i' off = s.pg k' i' off := State.pg_evSet_ne c hk (by omega) (by omega)

theorem State.pg_errLog_block (c : s.Canon) (hk : k ≠ .host) (hoff : 0x40 ≤ off ∧ off < 0x1000) :
    (s.errLog k i code part info1 info2).pg k' i' off = s.pg k' i' off := by
  unfold State.errLog
  dsimp only
  split
  · rw [State.pg_evSet_block (State.canon_setPg c ..) hk hoff, State.pg_setPg_ne c _ (by omega)]
  · have c₁ := State.canon_setPg c k i 0x28 (2 ^ 31 + code * 2 ^ 16 + part % 16 * 2 ^ 8)
    have c₂ := State.canon_setPg c₁ k i 0x2C info1
    have c₃ := State.canon_setPg c₂ k i 0x30 info2
    rw [State.pg_evSet_block (State.canon_setPg c₃ ..) hk hoff, State.pg_setPg_ne c₃ _ (by omega),
      State.pg_setPg_ne c₂ _ (by omega), State.pg_setPg_ne c₁ _ (by omega), State.pg_setPg_ne c _ (by omega)]

theorem State.pg_evErr_block (c : s.Canon) (hk : k ≠ .host) (hoff : 0x40 ≤ off ∧ off < 0x1000) :
    (s.evErr k i b code part info1 info2).pg k' i' off = s.pg k' i' off := by
  rw [State.evErr, State.pg_errLog_block ((Keeps.evSet .refl).canon c) hk hoff, State.pg_evSet_block c hk hoff]

end

/-- An event word whose bit is set keeps it through a further event. -/
theorem State.bit_evSet_of_bit {k : PageKind} {i m : Nat} (c : s.Canon) (hk : k ≠ .host) (hm : m < 32)
    (h : bit (s.pg k i 0x14) m = true) : bit ((s.evSet k i b).pg k i 0x14) m = true := by
  rw [State.bit_evSet c hk hm, h, Bool.true_or]

/-! ## Dies -/

theorem State.die_modDie (s : State) (d : Nat) (f : DieSt → DieSt) : (s.modDie d f).die d = f (s.die d) :=
  State.die_setDie d _

/-- What is written of a die moves its own part of the state. -/
theorem Moves.setDie (s : State) (d : Nat) (x : DieSt) : Moves [.west, .east] s (s.setDie d x) := by
  unfold State.setDie
  split
  · intro g hg
    cases g with
    | west => exact absurd List.mem_cons_self hg
    | _ => rfl
  · intro g hg
    cases g with
    | east => exact absurd (by decide) hg
    | _ => rfl

theorem Moves.modDie (s : State) (d : Nat) (f : DieSt → DieSt) : Moves [.west, .east] s (s.modDie d f) := .setDie s d _

/-- Canonical tables of fuse words make a canonical state. -/
theorem State.canon_setDie (c : s.Canon) {x : DieSt} (hw : twf 0 x.otp.words = true) : (s.setDie d x).Canon := by
  unfold State.setDie
  split
  · exact { c with west := hw }
  · exact { c with east := hw }

theorem State.twf_words (c : s.Canon) (d : Nat) : twf 0 (s.die d).otp.words = true := by
  unfold State.die
  split
  · exact c.west
  · exact c.east

/-! ## PROG_CMD -/

/-- PROG_CMD is what `progStart` says. -/
theorem exec_progCmd (hr : Stated.Reaches s init) (hd : d < 2) (hq : (s.progStart init d v).NothingToTake) :
    exec (.progCmd init d v) s = .next (s.progStart init d v) :=
  State.pageWrite_block hr ⟨hd, nofun⟩ (by decide) (fun _ => rfl) (by decide) rfl hq

/-- The debug scope that an initiator has. -/
theorem hasScope_iff {n : Nat} : s.hasScope init n = true ↔
    init = 12 ∨ ((s.dbg.mode = 0 ∨ s.dbg.mode = 2) ∧ bit s.dbg.granted n = true) := by
  simp [State.hasScope, State.dbgOpen]

theorem progStart_discarded (h : v ≠ 0x0B070001#32 ∨ (s.die d).otp.burn ≠ none) : s.progStart init d v = s :=
  if_pos (by simpa [Option.isSome_iff_ne_none] using h)

/-- The word that PROG_ADDR names. -/
def State.progAddr (s : State) (d : Nat) : Nat := s.pg .otp d 0x4C % 1024

theorem progStart_of_key (hv : v = 0x0B070001#32) (hburn : (s.die d).otp.burn = none) : s.progStart init d v =
    match s.burnRefusal init d (s.progAddr d) with
    | 0 => s.modDie d fun x => { x with otp := { x.otp with burn := some (s.progAddr d, w32 (s.pg .otp d 0x50)) } }
    | code => s.burnFail d code := if_neg (by simp [hv, hburn])

/-- In READY a burn is judged by these conditions, in this order. -/
theorem State.burnRefusal_of_ready (h : s.dev.state = .ready) : s.burnRefusal init d a =
    if a ≠ 0x3FE ∧ tget 0 (s.die d).otp.words a ≠ 0 then 1
    else if s.west.otp.fieldLock = true ∧ a < 0xC0 then 2
    else if s.west.otp.fieldLock = true ∧ 0x2D0 ≤ a ∧ a < 0x3F4 ∧ (!s.hasScope init 2) = true then 5
    else if (!(s.die d).otp.vppOk) = true then 3
    else 0 := if_neg (not_not_intro h)

/-- A refused burn leaves its code and the FAIL event, and no fuse moves. -/
theorem State.burnFail_shows (c : s.Canon) (d : Nat) (hcode : code < 2 ^ 32) :
    (s.burnFail d code).pg .otp d 0x58 = code ∧ bit ((s.burnFail d code).pg .otp d 0x14) 2 = true := by
  have c₁ := State.canon_setPg c .otp d 0x58 code
  rw [State.burnFail, State.pg_evErr_block (k := .otp) c₁ nofun (by omega), State.pg_setPg c, Nat.mod_eq_of_lt hcode]
  exact ⟨rfl, State.bit_evErr_self c₁ nofun (by decide)⟩

theorem State.burnFail_busOnly (s : State) (d code : Nat) : BusOnly s (s.burnFail d code) :=
  BusOnly.setPg.trans (.evErr nofun)

theorem State.nothingToTake_burnFail (c : s.Canon) (h : s.NothingToTake) (hd : d < 2) :
    (s.burnFail d code).NothingToTake := by
  have hp : pageNo .host 0 ≠ pageNo .otp d := by
    simp only [pageNo]
    omega
  exact State.nothingToTake_evErr (State.canon_setPg c ..) (State.nothingToTake_setPg c h hp (by decide) _) nofun hp

/-- A refused PROG_CMD. -/
theorem exec_progCmd_refused (hr : Stated.Reaches s init) (hq : s.NothingToTake) (hd : d < 2) (hv : v = 0x0B070001#32)
    (hburn : (s.die d).otp.burn = none) (hcode : 0 < code ∧ code < 2 ^ 32)
    (h : s.burnRefusal init d (s.progAddr d) = code) :
    ∃ t, exec (.progCmd init d v) s = .next t ∧ t.pg .otp d 0x58 = code ∧ bit (t.pg .otp d 0x14) 2 = true ∧
      (t.die d).otp = (s.die d).otp ∧ t.mem = s.mem := by
  have hstart : s.progStart init d v = s.burnFail d code := by
    rw [progStart_of_key hv hburn, h]
    match code, hcode with
    | _ + 1, _ => rfl
  have hm := Moves.ofBusOnly (State.burnFail_busOnly s d code)
  obtain ⟨hshow, hfail⟩ := State.burnFail_shows hr.1 d hcode.2
  refine ⟨_, (exec_progCmd hr hd ?_).trans (congrArg _ hstart), hshow, hfail, congrArg DieSt.otp (hm.die (d := d)), hm.mem⟩
  rw [hstart]
  exact State.nothingToTake_burnFail hr.1 hq hd

/-- A PROG_CMD that nothing refuses. -/
theorem exec_progCmd_starts (hr : Stated.Reaches s init) (hq : s.NothingToTake) (hd : d < 2) (hv : v = 0x0B070001#32)
    (hburn : (s.die d).otp.burn = none) (h : s.burnRefusal init d (s.progAddr d) = 0) :
    ∃ t, exec (.progCmd init d v) s = .next t ∧ t.mem = s.mem ∧
      (t.die d).otp = { (s.die d).otp with burn := some (s.progAddr d, w32 (s.pg .otp d 0x50)) } := by
  have hstart := progStart_of_key (init := init) hv hburn
  rw [h] at hstart
  have hm := Moves.modDie s d fun x =>
    { x with otp := { x.otp with burn := some (s.progAddr d, w32 (s.pg .otp d 0x50)) } }
  refine ⟨_, (exec_progCmd hr hd ?_).trans (congrArg _ hstart), hm.mem, congrArg _ (State.die_modDie s d _)⟩
  rw [hstart]
  exact State.nothingToTake_of_moves hq hm

/-! ## Burns that end -/

/-- A state whose die has these fuses. -/
def State.setOtp (s : State) (d : Nat) (o : Otp) : State := s.setDie d { s.die d with otp := o }

theorem State.otp_setOtp (s : State) (d : Nat) (o : Otp) : ((s.setOtp d o).die d).otp = o :=
  congrArg DieSt.otp (State.die_setDie d _)

/-- The bits of a burn in a word. -/
def Otp.burned (o : Otp) (a : Nat) (w : Word) : Otp :=
  { o with words := tput 0 o.words a (tget 0 o.words a ||| w), burn := none }

theorem Otp.tget_burned {o : Otp} (h : twf 0 o.words = true) :
    (∀ i, i ≠ a → tget 0 (o.burned a w).words i = tget 0 o.words i) ∧
      tget 0 (o.burned a w).words a = tget 0 o.words a ||| w :=
  ⟨fun _ hi => tget_tput_ne 0 _ h hi, tget_tput_same 0 _ _ h⟩

/-- A burn that is broken off leaves some of its bits. -/
theorem Otp.breakOff_eq {o : Otp} (hburn : o.burn = some (a, w)) (junk : Word) :
    o.breakOff junk = o.burned a (w &&& junk) := by
  rw [Otp.breakOff, hburn]
  rfl

/-- A verified burn adds its bits and sets DONE. -/
theorem exec_otpBurnDone_verified (c : s.Canon) (hburn : (s.die d).otp.burn = some (a, w)) :
    ∃ t, exec (.otpBurnDone d true) s = .next t ∧ t.mem = s.mem ∧ bit (t.pg .otp d 0x14) 1 = true ∧
      (t.die d).otp = (s.die d).otp.burned a w := by
  have hexec : exec (.otpBurnDone d true) s = .next ((s.setOtp d ((s.die d).otp.burned a w)).evSet .otp d 1) := by
    change execOtpBurnDone d true s = _
    rw [execOtpBurnDone, hburn]
    rfl
  have c₁ : (s.setOtp d ((s.die d).otp.burned a w)).Canon := State.canon_setDie c (twf_tput _ _ _ (State.twf_words c d))
  have hbus : BusOnly _ ((s.setOtp d ((s.die d).otp.burned a w)).evSet .otp d 1) := .evSet nofun
  have hm := Moves.ofBusOnly hbus
  refine ⟨_, hexec, hm.mem.trans (Moves.setDie s d _).mem, State.bit_evSet_self c₁ nofun (by decide), ?_⟩
  rw [hm.die, State.otp_setOtp]

/-- One that is not leaves an unstated part of them, code 4 and FAIL. -/
theorem exec_otpBurnDone_failed (c : s.Canon) (hburn : (s.die d).otp.burn = some (a, w)) :
    ∃ t junk, exec (.otpBurnDone d false) s = .next t ∧ t.mem = s.mem ∧ t.pg .otp d 0x58 = 4 ∧
      bit (t.pg .otp d 0x14) 2 = true ∧ (t.die d).otp = (s.die d).otp.burned a (w &&& junk) := by
  let junk := Config.freeWord s.fresh
  let r := s.draw.2.setOtp d ((s.die d).otp.burned a (w &&& junk))
  have hexec : exec (.otpBurnDone d false) s = .next (r.burnFail d 4) := by
    change execOtpBurnDone d false s = _
    rw [execOtpBurnDone, hburn]
    simp only [r, ← Otp.breakOff_eq hburn]
    rfl
  have c₁ : r.Canon := State.canon_setDie (s := s.draw.2) { c with } (twf_tput _ _ _ (State.twf_words c d))
  have hm := Moves.ofBusOnly (State.burnFail_busOnly r d 4)
  obtain ⟨hcode, hfail⟩ := State.burnFail_shows c₁ d (by decide : 4 < 2 ^ 32)
  refine ⟨_, junk, hexec, hm.mem.trans (Moves.setDie s.draw.2 d _).mem, hcode, hfail, ?_⟩
  rw [hm.die, State.otp_setOtp]

/-! ## AUTH_CMD -/

theorem Moves.setDbg (s : State) (x : Dbg) : Moves [.dbg] s (s.setDbg x) := by
  intro g hg
  cases g with
  | dbg => exact absurd List.mem_cons_self hg
  | _ => rfl

theorem dbgPage_ne : pageNo .host 0 ≠ pageNo .dbg 0 := by decide

/-- An event of the DBG page moves registers of it alone. -/
theorem State.dbgEvt_frame (s : State) (b : Nat) :
    (s.evSet .dbg 0 b).dbg = s.dbg ∧ (s.evSet .dbg 0 b).mem = s.mem ∧ (s.evSet .dbg 0 b).west = s.west ∧
      (s.evSet .dbg 0 b).fresh = s.fresh := by
  obtain ⟨x, hx⟩ := BusOnly.evSet (s := s) (i := 0) (b := b) (nofun : PageKind.dbg ≠ .host)
  rw [hx]
  exact ⟨rfl, rfl, rfl, rfl⟩

/-- AUTH_CMD is what `authCmd` says. -/
theorem exec_authCmd (hr : Stated.Reaches s init) (hq : (s.authCmd v.toNat).NothingToTake) :
    s.pageWrite init .dbg 0 0x48 v = .next (s.authCmd v.toNat) :=
  State.pageWrite_block hr ⟨by decide, nofun⟩ (by decide) (fun _ => rfl) (by decide) rfl hq

section
variable (hr : Stated.Reaches s init) (hq : s.NothingToTake)
include hr hq

/-- A command that updates the debug block alone. -/
theorem exec_authCmd_of_setDbg {x : Dbg} (h : s.authCmd v.toNat = s.setDbg x) :
    s.pageWrite init .dbg 0 0x48 v = .next (s.setDbg x) := by
  rw [← h]
  exact exec_authCmd hr (h ▸ State.nothingToTake_of_moves hq (Moves.setDbg s x))

/-- A command that does nothing. -/
theorem exec_authCmd_of_same (h : s.authCmd v.toNat = s) : s.pageWrite init .dbg 0 0x48 v = .next s :=
  (exec_authCmd hr (h.symm ▸ hq)).trans (congrArg _ h)

theorem exec_challenge (hkey : s.west.otp.keyGen ≠ 7) : exec (.challenge init) s =
    .next (s.draw.2.setDbg { s.dbg with nonce := Config.nonce s.fresh, nonceValid := true }) := by
  have h : s.authCmd (1#32).toNat = s.draw.2.setDbg { s.dbg with nonce := Config.nonce s.fresh, nonceValid := true } :=
    if_neg hkey
  exact (exec_authCmd hr (h ▸ State.nothingToTake_of_same hq rfl rfl (fun _ => rfl) fun _ _ => rfl)).trans (congrArg _ h)

theorem exec_challenge_refused (hkey : s.west.otp.keyGen = 7) : exec (.challenge init) s = .next (s.evSet .dbg 0 4) := by
  have h : s.authCmd (1#32).toNat = s.evSet .dbg 0 4 := if_pos hkey
  exact (exec_authCmd hr (h ▸ State.nothingToTake_evSet hr.1 hq nofun dbgPage_ne)).trans (congrArg _ h)

/-- The nonce is used up, and the verdict on the reply is owed. -/
theorem exec_verifyKey (hcnt : s.dbg.failCnt ≠ 8) (hver : s.dbg.verdict = none) (hkey : s.west.otp.keyGen ≠ 7) :
    exec (.verifyKey init) s = .next (s.setDbg { s.dbg with
      nonceValid := false
      verdict := some (s.dbg.nonceValid && tblBytes s.dbg.resp 4 == s.dbgReply, s.pg .dbg 0 0x44 % 8) }) := by
  refine exec_authCmd_of_setDbg hr hq ?_
  change s.dbgVerifyKey = _
  rw [State.dbgVerifyKey, if_neg (by simp [hcnt, hver])]
  simp only [if_neg hkey, bne_iff_ne.mpr hkey, Bool.and_true]

/-- Without a key slot it is refused, and owes a failed verdict. -/
theorem exec_verifyKey_refused (hcnt : s.dbg.failCnt ≠ 8) (hver : s.dbg.verdict = none) (hkey : s.west.otp.keyGen = 7) :
    exec (.verifyKey init) s = .next ((s.evSet .dbg 0 4).setDbg { s.dbg with
      nonceValid := false, verdict := some (false, s.pg .dbg 0 0x44 % 8) }) := by
  obtain ⟨hdbg, -, hwest, -⟩ := State.dbgEvt_frame s 4
  have h : s.authCmd (2#32).toNat = (s.evSet .dbg 0 4).setDbg { s.dbg with
      nonceValid := false, verdict := some (false, s.pg .dbg 0 0x44 % 8) } := by
    change s.dbgVerifyKey = _
    rw [State.dbgVerifyKey, if_neg (by simp [hcnt, hver])]
    dsimp only
    rw [if_pos hkey, State.dbgRefuse, hdbg, hwest, hkey,
      State.pg_evSet_block (k' := .dbg) (i' := 0) (off := 0x44) hr.1 (nofun : PageKind.dbg ≠ .host) (by decide)]
    simp
  have hquiet := State.nothingToTake_of_moves (State.nothingToTake_evSet (k := .dbg) (b := 4) hr.1 hq nofun dbgPage_ne)
    (Moves.setDbg _ { s.dbg with nonceValid := false, verdict := some (false, s.pg .dbg 0 0x44 % 8) })
  exact (exec_authCmd hr (h ▸ hquiet)).trans (congrArg _ h)

/-- The password registers are cleared, and the verdict on their digest is owed. -/
theorem exec_verifyPwd (hcnt : s.dbg.failCnt ≠ 8) (hver : s.dbg.verdict = none) :
    exec (.verifyPwd init) s = .next (s.setDbg { s.dbg with
      pwd := []
      verdict := some (decide (1 ≤ s.pg .dbg 0 0x70 ∧ s.pg .dbg 0 0x70 ≤ 64) && !s.pwdDigest.all (· == 0) &&
        sha256 ((tblBytes s.dbg.pwd 16).take (s.pg .dbg 0 0x70)) == s.pwdDigest, s.pg .dbg 0 0x44 % 8) }) :=
  exec_authCmd_of_setDbg hr hq (if_neg (by simp [hcnt, hver]))

/-- Eight failures block both commands. -/
theorem exec_verify_blocked (hcnt : s.dbg.failCnt = 8) :
    exec (.verifyKey init) s = .next s ∧ exec (.verifyPwd init) s = .next s :=
  ⟨exec_authCmd_of_same hr hq (if_pos (.inl hcnt)), exec_authCmd_of_same hr hq (if_pos (.inl hcnt))⟩

theorem exec_close (hmode : s.dbg.mode = 2) :
    exec (.close init) s = .next (s.setDbg { s.dbg with mode := 1, granted := 0 }) :=
  exec_authCmd_of_setDbg hr hq (if_pos hmode)

theorem exec_close_of_not_open (hmode : s.dbg.mode ≠ 2) : exec (.close init) s = .next s :=
  exec_authCmd_of_same hr hq (if_neg hmode)
end

/-! ## Verdicts -/

/-- The debug block after a verdict that passes. -/
def Dbg.passed (x : Dbg) (sc : Nat) : Dbg :=
  { x with verdict := none, mode := if x.mode = 0 then 0 else 2, granted := if x.mode = 0 then x.granted else sc }

theorem exec_authVerdict_passed {sc : Nat} (h : s.dbg.verdict = some (true, sc)) :
    exec .authVerdict s = .next ((s.setDbg (s.dbg.passed sc)).evSet .dbg 0 1) := by
  change execAuthVerdict s = _
  rw [execAuthVerdict, h]
  dsimp only
  by_cases hmode : s.dbg.mode = 0
  · simp only [Dbg.passed, if_pos hmode]
    rw [if_pos (show (s.setDbg { s.dbg with verdict := none }).dbg.mode = 0 from hmode), ← hmode]
  · simp only [Dbg.passed, if_neg hmode]
    rw [if_neg (show ¬ (s.setDbg { s.dbg with verdict := none }).dbg.mode = 0 from hmode)]
    rfl

/-- The debug block after one more failure. -/
theorem exec_authVerdict_failed {sc : Nat} (h : s.dbg.verdict = some (false, sc)) (hcnt : s.dbg.failCnt < 7) :
    exec .authVerdict s =
      .next ((s.setDbg { s.dbg with verdict := none, failCnt := s.dbg.failCnt + 1 }).evSet .dbg 0 2) := by
  have hmin : min (s.dbg.failCnt + 1) 8 = s.dbg.failCnt + 1 := by omega
  change execAuthVerdict s = _
  rw [execAuthVerdict, h]
  dsimp only
  rw [hmin, if_neg (by omega)]

/-- The debug block after the eighth. -/
def Dbg.blocked (x : Dbg) : Dbg :=
  { x with
    verdict := none, failCnt := 8, mode := if x.mode = 0 then 0 else 3, granted := if x.mode = 0 then x.granted else 0 }

theorem exec_authVerdict_blocks (c : s.Canon) {sc : Nat} (h : s.dbg.verdict = some (false, sc)) (hcnt : s.dbg.failCnt = 7) :
    ∃ t, exec .authVerdict s = .next t ∧ bit (t.pg .dbg 0 0x14) 2 = true ∧ bit (t.pg .dbg 0 0x14) 3 = true ∧
      t.dbg = s.dbg.blocked := by
  let r := (s.setDbg { s.dbg with verdict := none, failCnt := 8 }).evSet .dbg 0 2
  have hdbg : r.dbg = { s.dbg with verdict := none, failCnt := 8 } := (State.dbgEvt_frame _ 2).1
  have hexec : exec .authVerdict s =
      .next ((if r.dbg.mode = 0 then r else r.setDbg { r.dbg with mode := 3, granted := 0 }).evSet .dbg 0 3) := by
    change execAuthVerdict s = _
    rw [execAuthVerdict, h, hcnt]
    rfl
  have hk : PageKind.dbg ≠ .host := nofun
  have c₁ : r.Canon := (Keeps.evSet (.refl (s := s.setDbg { s.dbg with verdict := none, failCnt := 8 }))).canon { c with }
  have hfail : bit (r.pg .dbg 0 0x14) 2 = true :=
    State.bit_evSet_self (s := s.setDbg { s.dbg with verdict := none, failCnt := 8 }) { c with } hk (by decide)
  by_cases hmode : s.dbg.mode = 0
  · rw [if_pos (by rw [hdbg]; exact hmode)] at hexec
    refine ⟨_, hexec, State.bit_evSet_of_bit c₁ hk (by decide) hfail, State.bit_evSet_self c₁ hk (by decide), ?_⟩
    rw [(State.dbgEvt_frame _ 3).1, hdbg]
    simp [Dbg.blocked, hmode]
  · rw [if_neg (by rw [hdbg]; exact hmode)] at hexec
    have c₂ : (r.setDbg { r.dbg with mode := 3, granted := 0 }).Canon := { c₁ with }
    refine ⟨_, hexec, State.bit_evSet_of_bit c₂ hk (by decide) hfail, State.bit_evSet_self c₂ hk (by decide), ?_⟩
    rw [(State.dbgEvt_frame _ 3).1]
    change { r.dbg with mode := 3, granted := 0 } = _
    rw [hdbg]
    simp only [Dbg.blocked, if_neg hmode]

end Sys2Proof.Machine

open Sys2Proof Sys2Proof.Machine

/-- The first half of O58: each refusal has its place in the order of R381. -/
theorem fusesAreBurned : Stated.FusesAreBurned := by
  intro s init d v ⟨hr, hq⟩ hd o a cmd lock fails scope
  have c : s.Canon := hr.1
  have hready : s.dev.state = .ready := hr.2.1
  have hrefused (code : Nat) (hv : v = 0x0B070001#32) (hburn : o.burn = none) (hcode : 0 < code ∧ code < 2 ^ 32)
      (h : s.burnRefusal init d a = code) : fails code := exec_progCmd_refused hr hq hd hv hburn hcode h
  have hrefusal : s.burnRefusal init d a = if a ≠ 0x3FE ∧ tget 0 o.words a ≠ 0 then 1
      else if lock = true ∧ a < 0xC0 then 2
      else if lock = true ∧ 0x2D0 ≤ a ∧ a < 0x3F4 ∧ (!s.hasScope init 2) = true then 5
      else if (!o.vppOk) = true then 3
      else 0 := State.burnRefusal_of_ready hready
  have hscope (h : ¬ scope) : s.hasScope init 2 = false := by
    rw [← Bool.not_eq_true, hasScope_iff]
    exact h
  refine ⟨?_, ?_, ?_, ?_, ?_, ?_, ?_⟩
  · intro hv hburn hfree hopen hvpp
    refine exec_progCmd_starts hr hq hd hv hburn ?_
    have hvpp' : ¬ (!o.vppOk) = true := by simp [hvpp]
    have hset : ¬ (a ≠ 0x3FE ∧ tget 0 o.words a ≠ 0) := fun h => hfree.elim h.1 h.2
    have hid : ¬ (lock = true ∧ a < 0xC0) := by
      rintro ⟨hl, ha⟩
      rcases hopen with h | h | h | h
      · exact absurd (h.symm.trans hl) (by decide)
      all_goals omega
    have hkeys : ¬ (lock = true ∧ 0x2D0 ≤ a ∧ a < 0x3F4 ∧ (!s.hasScope init 2) = true) := by
      rintro ⟨hl, hlo, hhi, hno⟩
      rcases hopen with h | h | h | ⟨-, h⟩
      · exact absurd (h.symm.trans hl) (by decide)
      · omega
      · omega
      · rw [hasScope_iff.mpr h] at hno
        exact absurd hno (by decide)
    exact hrefusal.trans (by rw [if_neg hset, if_neg hid, if_neg hkeys, if_neg hvpp'])
  · intro hv hburn ha hset
    exact hrefused 1 hv hburn (by decide) (hrefusal.trans (if_pos ⟨ha, hset⟩))
  · intro hv hburn hclear hlock hlow
    have hset : ¬ (a ≠ 0x3FE ∧ tget 0 o.words a ≠ 0) := fun h => h.2 hclear
    exact hrefused 2 hv hburn (by decide)
      (hrefusal.trans (by rw [if_neg hset, if_pos ⟨hlock, hlow⟩]))
  · intro hv hburn hclear hlock hlow hhigh hno
    have hset : ¬ (a ≠ 0x3FE ∧ tget 0 o.words a ≠ 0) := fun h => h.2 hclear
    exact hrefused 5 hv hburn (by decide) (hrefusal.trans (by
      rw [if_neg hset, if_neg (by omega), if_pos ⟨hlock, hlow, hhigh, by rw [hscope hno]; rfl⟩]))
  · intro hv hburn hfree hlock hvpp
    have hset : ¬ (a ≠ 0x3FE ∧ tget 0 o.words a ≠ 0) := fun h => hfree.elim h.1 h.2
    have hopen (p : Prop) : ¬ (lock = true ∧ p) := fun h => absurd (hlock.symm.trans h.1) (by decide)
    have hvpp' : (!o.vppOk) = true := by simp [hvpp]
    exact hrefused 3 hv hburn (by decide) (hrefusal.trans (by
      rw [if_neg hset, if_neg (hopen _), if_neg (hopen _), if_pos hvpp']))
  · intro h
    have hsame : s.progStart init d v = s := progStart_discarded h
    exact (exec_progCmd hr hd (hsame.symm ▸ hq)).trans (congrArg _ hsame)
  · intro b w hburn
    have hwords := State.twf_words c d
    obtain ⟨hne, hself⟩ := Otp.tget_burned (a := b) (w := w) hwords
    constructor
    · obtain ⟨t, ht, hmem, hdone, hotp⟩ := exec_otpBurnDone_verified c hburn
      exact ⟨t, ht, hmem, congrArg Otp.burn hotp, hdone, hotp ▸ hne, hotp ▸ hself⟩
    · obtain ⟨t, junk, ht, hmem, hcode, hfail, hotp⟩ := exec_otpBurnDone_failed c hburn
      have hgrows := (Otp.Grows.breakOff (o := o) (j := junk) hwords).2
      rw [Otp.breakOff_eq hburn] at hgrows
      obtain ⟨-, hself⟩ := Otp.tget_burned (a := b) (w := w &&& junk) hwords
      refine ⟨t, ht, hmem, congrArg Otp.burn hotp, hcode, hfail, hotp ▸ hgrows, ?_⟩
      rw [hotp, hself]
      ext i
      simp
      grind

/-- The second half. -/
theorem debugIsUnlocked : Stated.DebugIsUnlocked := by
  intro s init ⟨hr, hq⟩ x evt asked
  have c : s.Canon := hr.1
  have hk : PageKind.dbg ≠ .host := nofun
  refine ⟨?_, ?_, ?_, ?_, ?_, ?_, ?_, ?_, ?_, ?_, ?_, ?_⟩
  · exact fun hkey => ⟨_, exec_challenge hr hq hkey, rfl, rfl, rfl⟩
  · exact fun hkey => ⟨_, exec_challenge_refused hr hq hkey, (State.dbgEvt_frame s 4).1, State.bit_evSet_self c hk (by decide)⟩
  · exact fun hcnt hver hkey => ⟨_, exec_verifyKey hr hq hcnt hver hkey, rfl, rfl⟩
  · exact fun hcnt hver hkey => ⟨_, exec_verifyKey_refused hr hq hcnt hver hkey, rfl, State.bit_evSet_self c hk (by decide)⟩
  · exact fun hcnt hver => ⟨_, exec_verifyPwd hr hq hcnt hver, rfl, rfl⟩
  · exact exec_verify_blocked hr hq
  · intro sc hver
    have c₁ : (s.setDbg (s.dbg.passed sc)).Canon := { c with }
    obtain ⟨hdbg, hmem, -, -⟩ := State.dbgEvt_frame (s.setDbg (s.dbg.passed sc)) 1
    exact ⟨_, exec_authVerdict_passed hver, State.bit_evSet_self c₁ hk (by decide), hmem, hdbg⟩
  · intro sc hver hcnt
    exact ⟨_, exec_authVerdict_failed hver hcnt, State.bit_evSet_self { c with } hk (by decide), (State.dbgEvt_frame _ 2).1⟩
  · exact fun sc hver hcnt => exec_authVerdict_blocks c hver hcnt
  · exact fun hmode => ⟨_, exec_close hr hq hmode, rfl, rfl⟩
  · exact exec_close_of_not_open hr hq
  · exact ⟨_, rfl, rfl, rfl, rfl⟩

/-- Settles O58. -/
theorem fusesAndDebug : Obligations.FusesAndDebug := ⟨fusesAreBurned, debugIsUnlocked⟩

end

section
/-! SUPPORT. What exceptions and faults leave alone (R150, R322): everything but the units, the partitions and registers of
other pages than the host's. -/
set_option Elab.async false

namespace Sys2Proof.Machine

variable {s t r : State} {u v p typ inst code detail : Nat} {k : PageKind} {i b : Nat}

namespace Moves

theorem setUnit (s : State) (u : Nat) (x : SeqUnit) : Moves [.units] s (s.setUnit u x) := by
  intro g hg
  cases g with
  | units => exact absurd List.mem_cons_self hg
  | _ => rfl

theorem setPart (s : State) (p : Nat) (x : Part) : Moves [.parts] s (s.setPart p x) := by
  intro g hg
  cases g with
  | parts => exact absurd List.mem_cons_self hg
  | _ => rfl

theorem setPg (s : State) (k : PageKind) (i off v : Nat) : Moves [.bus] s (s.setPg k i off v) := ofBusOnly .setPg

theorem evSet (s : State) (hk : k ≠ .host) : Moves [.bus] s (s.evSet k i b) := ofBusOnly (.evSet hk)

theorem evErr (s : State) {part info1 info2 : Nat} (hk : k ≠ .host) :
    Moves [.bus] s (s.evErr k i b code part info1 info2) := ofBusOnly (.evErr hk)

theorem stopUnits (s : State) (us : List Nat) : Moves [.units] s (s.stopUnits us) := by
  rw [State.stopUnits_eq]
  intro g hg
  cases g with
  | units => exact absurd List.mem_cons_self hg
  | _ => rfl

theorem faultPart (s : State) : Moves [.units, .parts, .bus] s (s.faultPart p typ inst code) := by
  cases hst : (s.part p).st.faultable with
  | true =>
    rw [State.faultPart_eq hst]
    exact (((setPart s p _).mono).andThen (ofBusOnly State.faultReported_busOnly)).andThen (stopUnits _ _)
  | false =>
    obtain hs | ⟨x, hbus, -, hx⟩ := State.faultPart_eq_of_not (typ := typ) (inst := inst) (code := code) hst
    · rw [hs]
      exact refl
    · rw [hx]
      exact ((ofBusOnly hbus).mono).andThen (setPart x p _)

end Moves

/-- From `s` to `t` nothing moves that says what a ring has to take. -/
structure RingsSame (s t : State) : Prop where
  dev : t.dev.state = s.dev.state
  taps : t.taps = s.taps
  rings : t.rings = s.rings
  host : ∀ off, off < 0x1000 → t.pg .host 0 off = s.pg .host 0 off

namespace RingsSame

theorem refl : RingsSame s s := ⟨rfl, rfl, rfl, fun _ _ => rfl⟩

theorem trans (h : RingsSame s t) (h' : RingsSame t r) : RingsSame s r :=
  ⟨h'.dev.trans h.dev, h'.taps.trans h.taps, h'.rings.trans h.rings, fun off ho => (h'.host off ho).trans (h.host off ho)⟩

theorem ofMoves {l : List Field} (hm : Moves l s t)
    (hl : .dev ∉ l ∧ .taps ∉ l ∧ .rings ∉ l ∧ .bus ∉ l := by decide) : RingsSame s t := by
  obtain ⟨hdev, htaps, hrings, hbus⟩ := hl
  exact ⟨congrArg Dev.state (hm.dev hdev), hm _ htaps, hm.rings hrings, fun off _ => hm.pg hbus .host 0 off⟩

theorem nothingToTake (h : RingsSame s t) (hq : s.NothingToTake) : t.NothingToTake :=
  State.nothingToTake_of_same hq h.dev h.taps (fun r => congrArg (fun x => (tget Ring.reset x r).stopped) h.rings) h.host

/-- A partition's page is not the host's. -/
theorem faultPart (c : s.Canon) : RingsSame s (s.faultPart p typ inst code) := by
  have hm := Moves.faultPart (p := p) (typ := typ) (inst := inst) (code := code) s
  refine ⟨congrArg Dev.state hm.dev, hm .taps (by decide), hm.rings, fun off ho => ?_⟩
  exact (State.faultPart_frame c).2 .host 0 off (by simp only [pageNo]; omega) ho

theorem evErr {part info1 info2 : Nat} (c : s.Canon) (hk : k ≠ .host) (hp : pageNo .host 0 ≠ pageNo k i) :
    RingsSame s (s.evErr k i b code part info1 info2) :=
  ⟨congrArg Dev.state (Moves.evErr s hk).dev, Moves.evErr s hk .taps (by decide), (Moves.evErr s hk).rings,
    fun _ ho => State.pg_evErr_ne c hk hp ho⟩

theorem unitPage_ne_host (u : Nat) : (unitPage u).1 ≠ .host ∧ pageNo .host 0 ≠ pageNo (unitPage u).1 (unitPage u).2 := by
  unfold unitPage
  split
  · exact ⟨nofun, by simp only [pageNo]; omega⟩
  · exact ⟨nofun, by simp only [pageNo]; omega⟩

theorem excRecord (c : s.Canon) : RingsSame s (s.excRecord u) := by
  unfold State.excRecord
  dsimp only
  split
  case h_2 => exact refl
  case h_1 =>
    split
    case isFalse => exact refl
    case isTrue =>
      obtain ⟨hk, hp⟩ := unitPage_ne_host u
      have c₁ := State.canon_setUnit c u { s.unit u with exc := none }
      refine trans ?_ (faultPart ((Keeps.evErr .refl).canon c₁))
      exact trans (ofMoves (Moves.setUnit s u _)) (evErr c₁ hk hp)

theorem seqExc (c : s.Canon) : RingsSame s (s.seqExc u code detail) :=
  (ofMoves (Moves.setUnit s u _)).trans (excRecord (State.canon_setUnit c ..))

end RingsSame

/-! ## Run control -/

variable {init n : Nat} {w : Word}

/-- RUN_CTRL is what `runCtrl` says. -/
theorem exec_runCtrl (hr : Stated.Reaches s init) (hq : (s.runCtrl init w.toNat).NothingToTake) :
    s.pageWrite init .dbg 0 0xC4 w = .next (s.runCtrl init w.toNat) :=
  State.pageWrite_block hr ⟨by decide, nofun⟩ (by decide) (fun _ => rfl) (by decide) rfl hq

/-- SEQ_DATA is what `dbgWrite` says. -/
theorem exec_seqDataWrite (hr : Stated.Reaches s init) (hq : (s.dbgWrite init w).NothingToTake) :
    exec (.seqDataWrite init w) s = .next (s.dbgWrite init w) :=
  State.pageWrite_block hr ⟨by decide, nofun⟩ (by decide) (fun _ => rfl) (by decide) rfl hq

/-- What TGT names. -/
def State.Targets (s : State) (u : Nat) : Prop :=
  let t := s.pg .dbg 0 0xC0
  (bit t 8 = false ∧ u = bits t 7 0 ∧ u < 96) ∨ (bit t 8 = true ∧ u = 256 + bits t 7 0 ∧ u < 340)

theorem State.dbgTarget_of_targets (h : s.Targets u) : s.dbgTarget = some u := by
  obtain ⟨hb, rfl, hlt⟩ | ⟨hb, rfl, hlt⟩ := h
  · simp [State.dbgTarget, hb, hlt]
  · simp [State.dbgTarget, hb, show bits (s.pg .dbg 0 0xC0) 7 0 < 84 by omega]

section
variable (hr : Stated.Reaches s init) (hq : s.NothingToTake) (hsc : s.hasScope init 1 = true) (ht : s.Targets u)
include hr hq hsc ht

/-- A run control command of the unit that TGT names. -/
theorem exec_runCtrl_of_target {f : State} (h : (match w.toNat % 8 with
      | 1 => if (s.unit u).run = .running ∨ (s.unit u).run = .barrier ∨ ((s.unit u).run = .idle ∧ s.ownProgram u) then
          s.setUnit u { s.unit u with haltReq := true } else s
      | 2 => if (s.unit u).run = .halted then s.dbgStep u else s
      | 3 => if (s.unit u).run = .halted then s.dbgResume u else s
      | 4 => s.setUnit u { s.unit u with brk := some (s.pg .dbg 0 0xC8) }
      | _ => s) = f) (hf : RingsSame s f) : s.pageWrite init .dbg 0 0xC4 w = .next f := by
  have hrun : s.runCtrl init w.toNat = f := by
    rw [← h, State.runCtrl, hsc, State.dbgTarget_of_targets ht]
    rfl
  rw [exec_runCtrl hr (hrun ▸ hf.nothingToTake hq), hrun]

theorem exec_dbgHalt (h : (s.unit u).run = .running ∨ (s.unit u).run = .barrier ∨
    ((s.unit u).run = .idle ∧ s.ownProgram u = true)) :
    exec (.dbgHalt init) s = .next (s.setUnit u { s.unit u with haltReq := true }) :=
  exec_runCtrl_of_target hr hq hsc ht (if_pos h) (.ofMoves (.setUnit s u _))

theorem exec_dbgArmBreakpoint :
    exec (.dbgArmBreakpoint init) s = .next (s.setUnit u { s.unit u with brk := some (s.pg .dbg 0 0xC8) }) :=
  exec_runCtrl_of_target hr hq hsc ht rfl (.ofMoves (.setUnit s u _))

variable (hh : (s.unit u).run = .halted)
include hh

theorem exec_dbgStep (hf : RingsSame s (s.dbgStep u)) : exec (.dbgStep init) s = .next (s.dbgStep u) :=
  exec_runCtrl_of_target hr hq hsc ht (if_pos hh) hf

theorem exec_dbgResume (hf : RingsSame s (s.dbgResume u)) : exec (.dbgResume init) s = .next (s.dbgResume u) :=
  exec_runCtrl_of_target hr hq hsc ht (if_pos hh) hf
end

/-! ## Steps and resumes -/

/-- A step over a NOP: the sequencer is past it and halted again. -/
theorem dbgStep_of_nop (c : s.Canon) (hh : (s.unit u).run = .halted)
    (hw : (s.unit u).imem[(s.unit u).seq.pc.toNat]? = some (Stated.yWord 0 0 0 0)) (harrs : (s.unit u).arrs = [])
    (htnds : (s.unit u).tnds = []) (hgo : Stated.GoesOn (s.unit u) (Stated.past (s.unit u).seq 1)) :
    s.dbgStep u = s.setUnit u { s.unit u with seq := Stated.past (s.unit u).seq 1, haltReq := false } := by
  let x := s.unit u
  let y : SeqUnit := { x with run := .running, seq := Stated.past x.seq 1 }
  have hrow : wordRow (Stated.yWord 0 0 0 0).toNat = 0x100 :=
    wordRow_of_system (opOf_yWord ..) (yFunc_yWord ..) (by decide)
  have hfree : ({ x with run := .running } : SeqUnit).regsBusy (Stated.yWord 0 0 0 0).toNat = false := by
    simp [SeqUnit.regsBusy, x, htnds]
  have hnop (t : State) : rowFx 0x100 u (Stated.yWord 0 0 0 0).toNat t = .go t := by
    rw [rowFx, if_neg (by decide)]
    rw [sysNopFx, operands_yWord_zero]
    rfl
  have hissue : (s.setUnit u { x with run := .running }).issueWord u (rowFx 0x100) = s.setUnit u y := by
    have hafter : (s.setUnit u y).afterIssue u = s.setUnit u y :=
      afterIssue_of_goesOn (by rw [State.unit_setUnit c]) (by rw [State.unit_setUnit c]; exact hgo)
    rw [State.issueWord, State.unit_setUnit c]
    dsimp only
    rw [hw]
    dsimp only
    rw [hfree, hnop, State.setUnit_setUnit c, SeqUnit.next_eq, issueCycles_eq_one (opOf_yWord ..) (by decide)]
    exact hafter
  rw [State.dbgStep, hw]
  dsimp only
  rw [hrow, hissue, State.unit_setUnit c, if_pos ⟨rfl, harrs, htnds⟩, State.setUnit_setUnit c]
  exact congrArg (s.setUnit u) (by simp only [y, x, ← hh])

/-- A sequencer whose PC is outside its program raises BRANCH at a step and as it resumes. -/
theorem dbgStep_of_outside (hne : (s.unit u).imem ≠ []) (hpc : (s.unit u).imem.length ≤ (s.unit u).seq.pc.toNat) :
    s.dbgStep u = s.seqExc u 6 0 := by
  rw [State.dbgStep, List.getElem?_eq_none hpc]
  exact if_neg (by simpa using hne)

theorem dbgResume_of_outside (hne : (s.unit u).imem ≠ [])
    (hpc : (s.unit u).imem.length ≤ (s.unit u).seq.pc.toNat) :
    s.dbgResume u = (s.setUnit u { s.unit u with run := .running, haltReq := false }).seqExc u 6 0 := by
  rw [State.dbgResume, if_neg (by simpa using hne)]
  exact if_pos hpc

theorem dbgResume_of_inside (hpc : (s.unit u).seq.pc.toNat < (s.unit u).imem.length) :
    s.dbgResume u = s.setUnit u { s.unit u with run := .running, haltReq := false } := by
  have hne : ¬ (s.unit u).imem.isEmpty = true := by
    rw [List.isEmpty_iff]
    intro he
    simp [he] at hpc
  rw [State.dbgResume, if_neg hne]
  exact if_neg (Nat.not_le.mpr hpc)

/-- Without a program it is the device's own that goes on. -/
theorem dbgResume_own (he : (s.unit u).imem = []) :
    s.dbgResume u = s.setUnit u { s.unit u with run := .idle, haltReq := false } := by
  rw [State.dbgResume, if_pos (List.isEmpty_iff.mpr he)]

/-! ## SEQ_DATA -/

/-- SEQ_DATA writes what `f` says of a halted sequencer. -/
theorem dbgWrite_of_halted (hsc : s.hasScope init 1 = true) (ht : s.Targets u) (hh : (s.unit u).run = .halted) :
    s.dbgWrite init w =
      let n := s.pg .dbg 0 0xCC
      let x := s.unit u
      if n < 32 then s.setUnit u { x with seq := x.seq.setS n w }
      else if n < 40 then s.setUnit u { x with seq := x.seq.setP (n - 32) (w.getLsbD 0) }
      else if n = 40 then s.setUnit u { x with seq := { x.seq with pc := w } }
      else s := by
  rw [State.dbgWrite, State.dbgTarget_of_targets ht]
  exact if_pos ⟨hsc, by simp [State.halted, hh]⟩

/-- Without the scope, and of one that is not halted, the access is refused. -/
theorem dbgWrite_refused (ht : s.Targets u) (h : s.hasScope init 1 = false ∨ (s.unit u).run ≠ .halted) :
    s.dbgWrite init w = s.evSet .dbg 0 4 := by
  rw [State.dbgWrite, State.dbgTarget_of_targets ht]
  refine if_neg ?_
  rintro ⟨hsc, hh⟩
  rcases h with h | h
  · exact absurd (h.symm.trans hsc) (by decide)
  · exact h (by simpa [State.halted] using hh)

theorem runCtrl_refused (h : s.hasScope init 1 = false) (n : Nat) : s.runCtrl init n = s.evSet .dbg 0 4 := by
  rw [State.runCtrl, h]
  rfl

end Sys2Proof.Machine

open Sys2Proof Sys2Proof.Machine

/-- Settles O59. -/
theorem debugRunsSequencers : Obligations.DebugRunsSequencers := by
  intro s init u v ⟨hr, hq⟩ t x scope target refused unitOf sel
  have c : s.Canon := hr.1
  have hk : PageKind.dbg ≠ .host := nofun
  have hunit (y : SeqUnit) : (s.setUnit u y).unit u = y := State.unit_setUnit c u y
  have hsame (y : SeqUnit) : RingsSame s (s.setUnit u y) := .ofMoves (.setUnit s u y)
  have hrefused : bit ((s.evSet .dbg 0 4).pg .dbg 0 0x14) 4 = true ∧ (s.evSet .dbg 0 4).units = s.units ∧
      (s.evSet .dbg 0 4).mem = s.mem :=
    ⟨State.bit_evSet_self c hk (by decide), (Moves.evSet s hk).units, (Moves.evSet s hk).mem⟩
  have hquiet : (s.evSet .dbg 0 4).NothingToTake := State.nothingToTake_evSet c hq hk dbgPage_ne
  have hno (h : ¬ scope) : s.hasScope init 1 = false := by
    rw [← Bool.not_eq_true, hasScope_iff]
    exact h
  refine ⟨?_, ?_, ?_, ?_, ?_, ?_, ?_, ?_, ?_⟩
  · intro hsc ht hrun
    exact ⟨_, exec_dbgHalt hr hq (hasScope_iff.mpr hsc) ht hrun, hunit _, rfl⟩
  · intro hsc ht hh hw harrs htnds hgo
    have hstep := dbgStep_of_nop c hh hw harrs htnds hgo
    exact ⟨_, exec_dbgStep hr hq (hasScope_iff.mpr hsc) ht hh (hstep ▸ hsame _), by rw [hstep]; exact hunit _,
      by rw [hstep]; rfl⟩
  · intro hsc ht hh hpc
    have hres := dbgResume_of_inside hpc
    exact ⟨_, exec_dbgResume hr hq (hasScope_iff.mpr hsc) ht hh (hres ▸ hsame _), by rw [hres]; exact hunit _,
      by rw [hres]; rfl⟩
  · intro hsc ht hh he
    have hres := dbgResume_own he
    exact ⟨_, exec_dbgResume hr hq (hasScope_iff.mpr hsc) ht hh (hres ▸ hsame _), by rw [hres]; exact hunit _,
      by rw [hres]; rfl⟩
  · intro hsc ht hh hne hpc
    have hstep := dbgStep_of_outside hne hpc
    have hres := dbgResume_of_outside hne hpc
    have hexc := (hsame { x with run := .running, haltReq := false }).trans
      (RingsSame.seqExc (u := u) (code := 6) (detail := 0) (State.canon_setUnit c ..))
    exact ⟨(exec_dbgResume hr hq (hasScope_iff.mpr hsc) ht hh (hres ▸ hexc)).trans (congrArg _ hres),
      (exec_dbgStep hr hq (hasScope_iff.mpr hsc) ht hh (hstep ▸ RingsSame.seqExc c)).trans (congrArg _ hstep)⟩
  · intro hsc ht
    exact ⟨_, exec_dbgArmBreakpoint hr hq (hasScope_iff.mpr hsc) ht, hunit _, rfl⟩
  · intro hsc ht hh
    have hw := dbgWrite_of_halted (w := v) (hasScope_iff.mpr hsc) ht hh
    have hwrites (y : SeqUnit) (h : s.dbgWrite init v = s.setUnit u y) : unitOf (.seqDataWrite init v) y :=
      ⟨_, exec_seqDataWrite hr (h ▸ (hsame y).nothingToTake hq), by rw [h]; exact hunit y, by rw [h]; rfl⟩
    refine ⟨fun h => ?_, fun h h' => ?_, fun h => ?_⟩
    · exact hwrites _ (hw.trans (if_pos h))
    · exact hwrites _ (hw.trans ((if_neg (Nat.not_lt.mpr h)).trans (if_pos h')))
    · exact hwrites _ (hw.trans ((if_neg (by omega)).trans ((if_neg (by omega)).trans (if_pos h))))
  · intro ht h
    have hw : s.dbgWrite init v = s.evSet .dbg 0 4 := dbgWrite_refused ht (h.imp hno id)
    exact ⟨_, (exec_seqDataWrite hr (hw ▸ hquiet)).trans (congrArg _ hw), hrefused⟩
  · intro h
    have hrun (w : Word) : ∃ t, s.pageWrite init .dbg 0 0xC4 w = .next t ∧ bit (t.pg .dbg 0 0x14) 4 = true ∧
        t.units = s.units ∧ t.mem = s.mem := by
      have hw := runCtrl_refused (hno h) w.toNat
      exact ⟨_, (exec_runCtrl hr (hw ▸ hquiet)).trans (congrArg _ hw), hrefused⟩
    exact ⟨hrun 1, hrun 2, hrun 3, hrun 4⟩

end

section
/-! SUPPORT. Commands of the training step: their outcomes, and STEP_CFG, STEP_OPEN and STEP_SEAL. -/
set_option Elab.async false

namespace Sys2Proof.Machine

variable {s : State} {p i op : Nat} {k : Cmd} {o : Compl}

theorem State.stepRow_of_runs (h : Stated.StepRuns s p i op k) (f : Cmd → State → State) :
    s.stepRow p i op f = .next (f k s) := by
  obtain ⟨-, hcmd, -, hop, hphase, hout, hlive, hup⟩ := h
  rw [State.stepRow, hcmd]
  exact if_pos ⟨hop, hphase, hout, hlive, hup⟩

theorem State.doneWith_modCmd (c : s.Canon) (h : s.cmd? p i = some k) :
    Stated.DoneWith (s.modCmd p i fun k => { k with out := some o }) p i o :=
  ⟨{ k with out := some o }, by
    rw [State.cmd?_modCmd (f := fun k => { k with out := some o }) c (fun _ => rfl), h, Option.map_some], rfl⟩

theorem State.doneWith_setOut (c : s.Canon) (h : s.cmd? p i = some k) : Stated.DoneWith (s.setOut p i o) p i o :=
  State.doneWith_modCmd c h

theorem State.step_setOut (c : s.Canon) : ((s.setOut p i o).part p).step = (s.part p).step := by
  rw [State.setOut, State.part_modCmd c]

theorem State.part_modStep (c : s.Canon) (f : StepSt → StepSt) :
    (s.modStep p f).part p = { s.part p with step := f (s.part p).step } := State.part_setPart c ..

theorem State.cmd?_modStep (c : s.Canon) (f : StepSt → StepSt) : (s.modStep p f).cmd? p i = s.cmd? p i := by
  rw [State.cmd?, State.part_modStep c, ← State.cmd?]

theorem State.tapPump_of_none (h : (s.part p).step.held = none) : s.tapPump p = s := by
  rw [State.tapPump, h]

/-- A segment list that owes nothing pays nothing. -/
theorem State.lPayOwed_of_nil {y : Coll} (h : y.owed = []) : s.lPayOwed p y = s := by
  unfold State.lPayOwed
  split
  · rw [h]
    rfl
  · rfl

/-- With nothing owed and nothing waiting, a retry does nothing. -/
theorem State.ldRetry_of_idle (hw : (s.part p).ladle.waiting = []) (ho : ∀ y ∈ (s.part p).ladle.colls, y.owed = []) :
    s.ldRetry p = s := by
  have hpay (l : List Coll) (hl : ∀ y ∈ l, y.owed = []) : l.foldl (fun s y => s.lPayOwed p y) s = s :=
    List.foldlRecOn (motive := (· = s)) _ _ rfl fun t ht y hy => by rw [ht, State.lPayOwed_of_nil (hl y hy)]
  dsimp only [State.ldRetry]
  rw [hpay _ ho, hw]
  rfl

theorem StepSt.live_iff (x : StepSt) : x.live = true ↔ x.opened ≠ none ∨ x.sealing ≠ none := by
  rw [StepSt.live, Bool.or_eq_true, Option.isSome_iff_ne_none, Option.isSome_iff_ne_none]

/-- STEP_OPEN starts exactly for the next step, or for the one after it while that is being sealed. -/
theorem State.stepStart_open (m : List Byte) :
    s.stepStart p 0x411 m = if (s.part p).step.opened = none ∧ (s.part p).step.broken = false ∧
        ((fld m 48 8 = (s.part p).step.last + 1 ∧ ∀ z, (s.part p).step.sealing = some z → z.1.step ≠ fld m 48 8) ∨
          (fld m 48 8 = (s.part p).step.last + 2 ∧
            ∃ z, (s.part p).step.sealing = some z ∧ z.1.step = (s.part p).step.last + 1))
      then none else some (.of 3) := by
  dsimp only [State.stepStart]
  rw [if_neg (by decide), if_pos rfl]
  refine if_congr ?_ rfl rfl
  cases (s.part p).step.sealing <;> cases (s.part p).step.opened <;> cases (s.part p).step.broken <;> simp [or_comm]

/-- What STEP_CFG makes of the step state. -/
def StepSt.configured (x : StepSt) (m : List Byte) : StepSt :=
  { x with
    last := fld m 64 8, steps := fld m 72 4, skips := fld m 76 4, opened := none, broken := false, brokenAt := 0,
    seed := BitVec.ofNat 64 (fld m 48 8), seedBase := fld m 56 4, nfAny := bit (fld m 60 4) 0,
    tapVent := bit (fld m 60 4) 1, ring := (fld m 80 8, fld m 88 1), tapIdx := 0, tapFree := 0,
    wmark := fld m 90 2, sealTo := fld m 92 4 }

/-- With no step open or being sealed and no tap record held back, STEP_CFG sets the step state and is done. -/
theorem exec_stepCfg_of_idle (h : Stated.StepRuns s p i 0x410 k) (hheld : (s.part p).step.held = none)
    (ho : (s.part p).step.opened = none) (hz : (s.part p).step.sealing = none) :
    ∃ t, exec (.stepCfg p i) s = .next t ∧ t.mem = s.mem ∧ Stated.DoneWith t p i ⟨0, 0, 0, 0, []⟩ ∧
      (t.part p).step = (s.part p).step.configured k.msg := by
  have c : s.Canon := h.canon
  let u := s.setStk { s.stk with updStep := s.stk.updStep.filter fun e => (s.gran e.1).owner ≠ p }
  let v := (u.modStep p fun x => x.configured k.msg).fhBoundary p
  have cu : u.Canon := (show Keeps true s u from Keeps.setStk .refl fun h => ⟨h.1, h.2⟩).canon c
  have cv : v.Canon := (show Keeps true u v from .fhBoundary (.modStep .refl)).canon cu
  have hstep : (v.part p).step = (s.part p).step.configured k.msg :=
    congrArg Part.step (State.part_modStep cu fun x => x.configured k.msg)
  have hcmd : v.cmd? p i = some k := (State.cmd?_modStep cu fun x => x.configured k.msg).trans h.cmd
  have hexec : exec (.stepCfg p i) s = .next (v.setOut p i .ok) := by
    change execStepCfg p i s = _
    rw [execStepCfg, State.stepRow_of_runs h]
    refine congrArg _ ?_
    dsimp only
    rw [if_neg (by rw [StepSt.live_iff, ho, hz]; simp)]
    exact State.tapPump_of_none ((congrArg StepSt.held ((State.step_setOut cv).trans hstep)).trans hheld)
  exact ⟨_, hexec, rfl, State.doneWith_setOut cv hcmd, (State.step_setOut cv).trans hstep⟩

/-- A command of a live step is a conflict. -/
theorem exec_stepCfg_of_live (h : Stated.StepRuns s p i 0x410 k)
    (hl : (s.part p).step.opened ≠ none ∨ (s.part p).step.sealing ≠ none) :
    exec (.stepCfg p i) s = .next (s.setOut p i (.of 3)) := by
  change execStepCfg p i s = _
  rw [execStepCfg, State.stepRow_of_runs h]
  exact congrArg _ (if_pos ((StepSt.live_iff _).mpr hl))

theorem exec_stepOpen_conflict (h : Stated.StepRuns s p i 0x411 k) (ho : s.stepStart p 0x411 k.msg = some o) :
    exec (.stepOpen p i) s = .next (s.setOut p i o) := by
  change execStepOpen p i s = _
  rw [execStepOpen, State.stepRow_of_runs h]
  refine congrArg _ ?_
  dsimp only
  rw [ho]

/-- The record of a step that STEP_OPEN begins. -/
def newStep (m : List Byte) : StepRed := ⟨fld m 48 8, fld m 56 2, [], [], [], false, 0xFFFF, 0, false⟩

theorem exec_stepOpen_of_next (h : Stated.StepRuns s p i 0x411 k) (ho : s.stepStart p 0x411 k.msg = none) :
    exec (.stepOpen p i) s =
      .next ((s.modStep p fun x => { x with opened := some (newStep k.msg) }).setOut p i .ok) := by
  change execStepOpen p i s = _
  rw [execStepOpen, State.stepRow_of_runs h]
  refine congrArg _ ?_
  dsimp only
  rw [ho]
  rfl

/-- A standby, a broken job and a step that is not the open one have nothing to seal. -/
theorem State.stepStart_seal (m : List Byte) :
    s.stepStart p 0x412 m = if (s.part p).step.broken = false ∧
        (∃ r, (s.part p).step.opened = some r ∧ r.step = fld m 48 8) ∧ s.standby p = false
      then none else some (.of 3) := by
  dsimp only [State.stepStart]
  rw [if_neg (by decide), if_neg (by decide)]
  refine if_congr ?_ rfl rfl
  cases (s.part p).step.opened <;> cases (s.part p).step.broken <;> simp

/-- STEP_SEAL of the open step begins its seal, with nothing that waits at the Ladle. -/
theorem exec_stepSeal_of_open {r : StepRed} (h : Stated.StepRuns s p i 0x412 k) (hr : (s.part p).step.opened = some r)
    (hs : s.stepStart p 0x412 k.msg = none) (hz : (s.part p).step.sealing = none)
    (hw : (s.part p).ladle.waiting = []) (ho : ∀ y ∈ (s.part p).ladle.colls, y.owed = []) :
    exec (.stepSeal p i) s = .next (s.modStep p fun x =>
      { x with opened := none, sealing := some (⟨r.step, i, false, none, [], none, []⟩, r) }) := by
  change execStepSeal p i s = _
  rw [execStepSeal, State.stepRow_of_runs h]
  refine congrArg _ ?_
  dsimp only
  rw [hz, hs, hr]
  refine State.ldRetry_of_idle ?_ ?_
  · rw [State.part_modStep h.canon]
    exact hw
  · rw [State.part_modStep h.canon]
    exact ho

theorem exec_stepSeal_conflict (h : Stated.StepRuns s p i 0x412 k)
    (hz : ∀ z, (s.part p).step.sealing = some z → z.1.cid ≠ i) (hs : s.stepStart p 0x412 k.msg = some o) :
    exec (.stepSeal p i) s = .next (s.setOut p i o) := by
  change execStepSeal p i s = _
  rw [execStepSeal, State.stepRow_of_runs h]
  refine congrArg _ ?_
  dsimp only
  rw [if_neg (by simpa [Option.any_eq_true] using hz), hs]

end Sys2Proof.Machine

open Sys2Proof Sys2Proof.Machine

/-- Settles O26. -/
theorem stepsAreConfiguredAndOpened : Obligations.StepsAreConfiguredAndOpened := by
  intro s p i k m x n next
  refine ⟨fun h hheld ho hz => exec_stepCfg_of_idle h hheld ho hz, fun h hl => ?_, fun h ho hb hn => ?_, fun h hn => ?_,
    fun r h hr hstep hb hz hsb hw howe => ?_, fun h hz hn => ?_⟩
  · exact ⟨_, exec_stepCfg_of_live h hl, State.step_setOut h.canon, State.doneWith_setOut h.canon h.cmd⟩
  · have cu := (Keeps.modStep (a1 := p) (a2 := fun x => { x with opened := some (newStep k.msg) }) .refl).canon h.canon
    refine ⟨_, exec_stepOpen_of_next h ?_, rfl,
      State.doneWith_setOut cu ((State.cmd?_modStep h.canon _).trans h.cmd), ?_⟩
    · rw [State.stepStart_open]
      exact if_pos ⟨ho, hb, hn⟩
    · rw [State.step_setOut cu, State.part_modStep h.canon]
      rfl
  · refine ⟨_, exec_stepOpen_conflict h ?_, State.step_setOut h.canon, State.doneWith_setOut h.canon h.cmd⟩
    rw [State.stepStart_open]
    refine if_neg fun ⟨ho, hb, hnext⟩ => ?_
    obtain h1 | h1 | h1 := hn
    · exact h1 ho
    · exact Bool.false_ne_true (hb.symm.trans h1)
    · exact h1 hnext
  · have hs : s.stepStart p 0x412 k.msg = none := by
      rw [State.stepStart_seal]
      exact if_pos ⟨hb, ⟨r, hr, hstep⟩, by simpa [State.standby, State.devId] using hsb⟩
    refine ⟨_, exec_stepSeal_of_open h hr hs hz hw howe, rfl, (State.cmd?_modStep h.canon _).trans h.cmd, ?_⟩
    rw [State.part_modStep h.canon, hstep]
  · refine ⟨_, exec_stepSeal_conflict h hz ?_, State.step_setOut h.canon, State.doneWith_setOut h.canon h.cmd⟩
    rw [State.stepStart_seal]
    refine if_neg fun ⟨hb, ⟨r, hr, hstep⟩, _⟩ => ?_
    obtain h1 | h1 := hn
    · exact Bool.false_ne_true (hb.symm.trans h1)
    · exact h1 r hr hstep

end

section
/-! SUPPORT. MEM_COPY and SV_VARIANT_LOAD. -/
set_option Elab.async false

namespace Sys2Proof.Machine

variable {s : State} {p i op : Nat} {k : Cmd} {o : Compl}

/-- A refusal under the management tag shows in the page of the stack alone. -/
theorem BusOnly.refuse_mgmt (s : State) (a : Nat) : BusOnly s (s.refuse 8 a) := by
  unfold State.refuse
  split
  · exact .evErr (k := .stack) nofun
  · exact .refl

theorem exec_memCopy_of_free (h : Stated.StepRuns s p i 0x112 k)
    (hs : s.copyStop p (fld k.msg 56 8) (fld k.msg 48 8) (fld k.msg 64 8) = none) :
    exec (.memCopy p i) s =
      .next ((s.wr p (fld k.msg 48 8) (s.rd p (fld k.msg 56 8) (fld k.msg 64 8))).setOut p i .ok) := by
  obtain ⟨-, hcmd, -, hop, hphase, hout, hlive, hup⟩ := h
  change execMemCopy p i s = _
  simp only [execMemCopy, hcmd]
  rw [if_pos ⟨hop, hphase, hout, hlive, hup⟩, hs]

theorem exec_memCopy_of_refused {off a : Nat} (h : Stated.StepRuns s 8 i 0x112 k)
    (hs : s.copyStop 8 (fld k.msg 56 8) (fld k.msg 48 8) (fld k.msg 64 8) = some (off, a, false)) :
    exec (.memCopy 8 i) s = .next (((s.wr 8 (fld k.msg 48 8) (s.rd 8 (fld k.msg 56 8) off)).refuse 8 a).setOut 8 i (.of 5)) := by
  obtain ⟨-, hcmd, -, hop, hphase, hout, hlive, hup⟩ := h
  change execMemCopy 8 i s = _
  simp only [execMemCopy, hcmd]
  rw [if_pos ⟨hop, hphase, hout, hlive, hup⟩, hs]
  rfl

/-- Memory alone moves when bytes are written. -/
theorem Moves.setByte (s : State) (a : Nat) (b : Byte) : Moves [.mem] s (s.setByte a b) := by
  intro f hf
  cases f with
  | mem => exact absurd List.mem_cons_self hf
  | _ => rfl

theorem Moves.setBytes (a : Nat) (bs : List Byte) (s : State) : Moves [.mem] s (s.setBytes a bs) := by
  induction bs generalizing s a with
  | nil => exact .refl
  | cons b bs ih => exact (Moves.setByte s a b).andThen (ih _ _)

theorem Moves.wr (s : State) (tag a : Nat) (bs : List Byte) : Moves [.mem] s (s.wr tag a bs) := by
  unfold State.wr
  split
  · exact .refl
  · split
    · exact .setBytes _ _ _
    · exact .forN (fun i x => .ite (.setByte x _ _) .refl) _ _

theorem exec_svVariantLoad_of_allowed (h : Stated.StepRuns s p i 0x501 k)
    (ha : s.tagAccess p ((List.range (fld k.msg 52 4)).map fun j =>
      (granAddr (((List.range (fld k.msg 52 4)).map fun j => fld k.data (4 * j) 4).getD j 0),
        min (2 ^ 21) (fld k.msg 64 8 - j * 2 ^ 21), true)) = none) :
    exec (.svVariantLoad p i) s = .next (((forN (fld k.msg 52 4) s fun j u =>
      u.wr p (granAddr (((List.range (fld k.msg 52 4)).map fun j => fld k.data (4 * j) 4).getD j 0))
        (u.bytes (fld k.msg 56 8 + j * 2 ^ 21) (min (2 ^ 21) (fld k.msg 64 8 - j * 2 ^ 21)))).modPart p
          fun q => { q with variant := fld k.msg 48 4 }).setOut p i .ok) := by
  change execSvVariantLoad p i s = _
  rw [execSvVariantLoad, State.stepRow_of_runs h]
  simp only [List.length_map, List.length_range, nth]
  rw [ha]

end Sys2Proof.Machine

open Sys2Proof Sys2Proof.Machine

/-- Settles O28. -/
theorem copiesMoveBytes : Obligations.CopiesMoveBytes := by
  intro s p i k m dst src
  refine ⟨fun h hs => ?_, fun off a hp h hs => ?_, fun h => ?_⟩
  · have hw := Moves.wr s p dst (s.rd p src (fld m 64 8))
    have cw := (Keeps.wr (a1 := p) (a2 := dst) (a3 := s.rd p src (fld m 64 8)) .refl).canon h.canon
    exact ⟨_, exec_memCopy_of_free h hs, rfl, State.doneWith_setOut cw ((hw.cmd? ..).trans h.cmd), hw.stk⟩
  · subst hp
    have hw := Moves.wr s 8 dst (s.rd 8 src off)
    have hr := BusOnly.refuse_mgmt (s.wr 8 dst (s.rd 8 src off)) a
    have cr := (Keeps.refuse (a1 := 8) (a2 := a) (.wr (a1 := 8) (a2 := dst) (a3 := s.rd 8 src off) .refl)).canon h.canon
    exact ⟨_, exec_memCopy_of_refused h hs, hr.mem,
      State.doneWith_setOut cr (((Moves.ofBusOnly hr).cmd? ..).trans ((hw.cmd? ..).trans h.cmd))⟩
  · intro n ks len ha
    have hlen : ks.length = fld m 52 4 := by rw [List.length_map, List.length_range]
    rw [hlen] at ha
    have hf (t : State) (j : Nat) : Moves [.mem] t (t.wr p (granAddr (ks.getD j 0)) (t.bytes (src + j * 2 ^ 21) (len j))) :=
      .wr _ _ _ _
    let t := forN (fld m 52 4) s fun j u => u.wr p (granAddr (ks.getD j 0)) (u.bytes (src + j * 2 ^ 21) (len j))
    have hw : Moves [.mem] s t := .forN (fun j x => hf x j) _ s
    have ct : t.Canon := (show Keeps true s t from Keeps.forN' _ .refl fun _ _ h => .wr h).canon h.canon
    let v := t.modPart p fun q => { q with variant := fld m 48 4 }
    have hv : v.part p = { t.part p with variant := fld m 48 4 } := State.part_setPart ct ..
    have cv : v.Canon := (show Keeps true t v from .setPart .refl).canon ct
    refine ⟨_, exec_svVariantLoad_of_allowed h ha, ?_, State.doneWith_setOut (k := k) cv ?_, ?_⟩
    · rw [State.setOut, State.part_modCmd cv]
      exact congrArg Part.variant hv
    · rw [State.cmd?, hv]
      exact (hw.cmd? ..).trans h.cmd
    · rw [hlen]
      rfl

end

section
/-! SUPPORT. The end of a seal, where an answer still waits in the completion ring of the partition. -/
set_option Elab.async false

namespace Sys2Proof.Machine

/-- A device in READY, all else as after reset. -/
def readyState : State := { State.reset with dev := { Dev.reset with state := .ready, sysRst := false } }

/-- A running command of no message, the first of its ring. -/
def runningCmd (cid opcode : Nat) : Cmd :=
  { cid := cid, opcode := opcode, seq := 0, tag := 0, ver := 0, queue := 0, deps := [], deadline := 0, msg := [],
    data := [], phase := .running, start := 0, bound := none, quenchTime := 0, quenchAt := 0, wasQuenched := false,
    reason := 0, e4nan := false, units := [], images := [], out := none }

/-- The combined word of step 5. -/
def sealedWord : SealMsg :=
  { part := 0, pos := 0, step := 5, epoch := 0, nf := false, flagger := 0xFFFF, digest := 0, exps := [], agree := true }

/-- The seal of step 5 with its combined word. -/
def sealedStep : Seal :=
  { step := 5, cid := 1, entered := true, word := some sealedWord, got := [], result := some sealedWord, fh := [] }

/-- A step as STEP_OPEN begins it. -/
def openedStep (n : Nat) : StepRed :=
  { step := n, nred := 0, used := [], done := [], exps := [], nf := false, flagger := 0xFFFF, digest := 0, longsum := false }

/-- Partition 0 seals step 5 while step 6 is open and LD_REDUCE of step 6, answered, waits for room in the completion
ring, which has come. -/
def answerWaitsAtSeal : State :=
  { readyState with
    stk := { Stacks.reset with gran := [(0, { owner := 0, retired := false, releasing := false })] }
    parts := [(0, { Part.empty with
      st := .running
      cmds := [runningCmd 1 0x412,
        { runningCmd 2 0x400 with phase := .answered, seq := 7, data := leBytes 8 6 ++ leBytes 2 3 }]
      step := { StepSt.reset with
        opened := some (openedStep 6), sealing := some (sealedStep, openedStep 5), ring := (0, 4) } })]
    rings := [(0, { Ring.reset with waitq := [{ bytes := List.replicate 64 0, ans := some (7, 0), urgent := false }] })]
  }.setRingRg 0 0x10 0x10400

theorem canon_answerWaitsAtSeal : answerWaitsAtSeal.Canon := by
  refine State.canon_setPg ?_ ..
  exact { State.canon_reset with parts := by decide, rings := by decide, stk := ⟨rfl, by decide⟩ }

/-- The reduction that the tap record's Vent finds waiting is counted for its step. -/
theorem done_sealComplete_answerWaitsAtSeal {t : State}
    (h : exec (.sealComplete 0) answerWaitsAtSeal = .next t) :
    (t.part 0).step.opened.map (·.done) = some [3] := by
  obtain rfl := Host.Outcome.next.inj h
  decide +kernel

end Sys2Proof.Machine

open Sys2Proof Sys2Proof.Machine

/-- Refutes O27: the clause on a complete exchange says the step state as a whole, and admits an answer that waits in the
completion ring. The Vent of the tap record writes it first, and the reduction that it answers is counted in the step
that is open. -/
theorem not_seals : ¬ Obligations.Seals := by
  intro ⟨_, h⟩
  have hruns : Stated.StepRuns answerWaitsAtSeal 0 1 0x412 (runningCmd 1 0x412) :=
    ⟨canon_answerWaitsAtSeal, by decide, by decide, rfl, rfl, rfl, by decide, by decide⟩
  obtain ⟨hseal, -⟩ := h answerWaitsAtSeal 0 sealedStep (openedStep 5) (runningCmd 1 0x412) hruns (by decide) rfl
  obtain ⟨t, ht, hstep, -⟩ := hseal sealedWord rfl rfl rfl (by decide) (by decide) (by decide) (by decide) (by decide)
  have hdone := done_sealComplete_answerWaitsAtSeal ht
  rw [hstep] at hdone
  exact absurd hdone (by decide)

end

section
/-! SUPPORT. A step boundary at which a group is lacking, where the younger sequence is of no class that SV_SUBMIT
takes. -/
set_option Elab.async false

namespace Sys2Proof.Machine

/-- A running request that has had its turn, of the given descriptor and pages. -/
def runningReq (d : List Byte) (pages : List (Nat × List Nat)) : Req :=
  { Req.new d 0 with state := .running, stepped := true, pages := pages }

/-- Serving of two sequences without a free group: the older, of class 0, needs one; the younger is of class 2. -/
def servesClassTwo : Serving :=
  { cfg := leBytes 8 0 ++ leBytes 8 128 ++ List.replicate 32 0 ++ leBytes 8 (2 ^ 21)
    layers := [[0, 0, 1, 6, 0, 0, 0, 0]], tree := [], kv := [], free := [], returning := [], copies := []
    reqs := [runningReq [1, 0, 0, 0, 0] [], runningReq [2, 0, 0, 0, 2] [(0, [])]]
    convs := [], due := 0, step := 0 }

/-- Partition 0 serves them. -/
def boundaryOfClassTwo : State :=
  { readyState with parts := [(0, { Part.empty with st := .running, serving := some servesClassTwo })] }

theorem canon_boundaryOfClassTwo : boundaryOfClassTwo.Canon :=
  { State.canon_reset with parts := by decide }

/-- The boundary evicts the older sequence. -/
theorem states_stepBoundary_boundaryOfClassTwo {t : State}
    (h : exec (.stepBoundary 0) boundaryOfClassTwo = .next t) :
    ((t.part 0).serving.map fun w => w.reqs.map (·.state)) = some [.paused, .running] := by
  obtain rfl := Host.Outcome.next.inj h
  decide +kernel

end Sys2Proof.Machine

open Sys2Proof Sys2Proof.Machine

/-- Refutes O36: the clause on eviction says the younger of two running sequences is evicted, and does not say that both
are of class 0 or 1. The boundary's victims are of these classes alone, so where the younger is of class 2 the older one,
which needs the group, is evicted itself. -/
theorem not_boundariesAndCopies : ¬ Obligations.BoundariesAndCopies := by
  intro h
  obtain ⟨-, -, -, hevict, -⟩ := h boundaryOfClassTwo 0 servesClassTwo canon_boundaryOfClassTwo rfl rfl (by decide) rfl
  obtain ⟨t, w, ht, hw, -, -, hreqs⟩ := hevict _ _ [0] rfl rfl rfl (by decide) rfl rfl rfl rfl (by decide) (by decide) rfl
    rfl rfl rfl (by decide) (by decide) rfl rfl (by decide) (by decide) (by decide)
  have hst := states_stepBoundary_boundaryOfClassTwo ht
  rw [hw, Option.map_some, hreqs] at hst
  exact absurd hst (by decide)

end

section
/-! SUPPORT. A failure of a Tephra target, where a command of the management ring whose answer waits for room is
answered by the Vent. -/
set_option Elab.async false

namespace Sys2Proof.Machine

/-- A ring in which the answer of message 7 waits for room. -/
def waitingAnswer : Ring :=
  { Ring.reset with waitq := [{ bytes := List.replicate 64 0, ans := some (7, 0), urgent := false }] }

/-- The slice of Assay target 0xE0 runs, and a command of the management ring is answered by the entry that waits. -/
def answerWaitsAtAssay : State :=
  { readyState with
    health := { State.reset.health with slice := some 0xE0 }
    parts := [(8, { Part.empty with cmds := [{ runningCmd 1 0x300 with phase := .answered, seq := 7 }] })]
    rings := [(8, waitingAnswer)] }.setRingRg 8 0x10 0x10400

theorem canon_answerWaitsAtAssay : answerWaitsAtAssay.Canon := by
  refine State.canon_setPg ?_ ..
  exact { State.canon_reset with parts := by decide, rings := by decide }

/-- The Vent of the failure is written after the entry that waits, and the command is gone. -/
theorem parts_assayResult_answerWaitsAtAssay {t : State}
    (h : exec (.assayResult 0xE0 1) answerWaitsAtAssay = .next t) : t.parts = [] := by
  obtain rfl := Host.Outcome.next.inj h
  decide +kernel

end Sys2Proof.Machine

open Sys2Proof Sys2Proof.Machine

/-- Refutes O39: the clause on a failure of class 6 says that it leaves the partitions' tables as they were, and admits
an answer that waits in the management ring. The failure's Vent writes that entry first, which takes the answered command
off the ring's table. -/
theorem not_assayAndPlls : ¬ Obligations.AssayAndPlls := by
  intro h
  obtain ⟨-, -, hfail, -⟩ := h answerWaitsAtAssay canon_answerWaitsAtAssay
  obtain ⟨t, ht, -, -, -, -, -, -, hsix, -⟩ := hfail 0xE0 1 rfl rfl (by decide) (by decide) (by decide)
    (by decide) (by decide) (by decide)
  obtain ⟨-, -, hparts⟩ := hsix (by decide)
  exact absurd (hparts.symm.trans (parts_assayResult_answerWaitsAtAssay ht)) (by decide)

end

section
/-! SUPPORT. Messages of one slot as software writes them, and two that the statements on register messages and on a
partition's own messages admit: a register write whose number is not that of the state after it, and TAP_RELEASE with the
number of an answered reduction. -/
set_option Elab.async false

namespace Sys2Proof.Machine

/-- A message of one slot with SEQ and TAG 0, its CRC in place. -/
def slotMessage (part op : Nat) (body : List Byte) : List Byte :=
  let head := leBytes 1 0x32 ++ leBytes 1 part ++ leBytes 2 op ++ leBytes 2 1
  head ++ leBytes 2 (crc16 (head ++ List.replicate 10 0)) ++ List.replicate 8 0 ++ (body ++ List.replicate 48 0).take 48

/-- A READY device with these partitions; ring `r` is enabled with 64 slots each way and has settled version 0x32 and
every feature. -/
def readyWithRing (r : Nat) (ps : Tbl Part) : State :=
  { readyState with
    parts := ps, rings := [(r, { Ring.reset with neg := true, ver := 0x32, feat := deviceFeatures })]
  }.setRingRg r 0x10 0x10606

theorem canon_readyWithRing (r : Nat) {ps : Tbl Part} (h : twf Part.empty ps = true) : (readyWithRing r ps).Canon := by
  refine State.canon_setPg ?_ ..
  exact { State.canon_reset with parts := h, rings := by simp [twf, Ring.reset] }

/-- REG_WRITE of 1 to GLB.BLK_SCRATCH. -/
def scratchWrite : List Byte := slotMessage 0xFF 0x11 (leBytes 4 0x38 ++ leBytes 4 1)

/-- What `Stated.Sent` asks but for the canonical form, all of it decidable. -/
def sends (s : State) (r op : Nat) (m : List Byte) : Bool :=
  decide (s.dev.state = .ready ∧ s.drives 0 = true ∧ bit (s.ringRg r 0x10) 16 = true ∧ (s.ring r).waitq = [] ∧
    (s.ring r).fences = [] ∧ 1 ≤ s.cqRoom r ∧ bit (s.pg .host 0 (0x80C + 16 * r)) 0 = true) &&
  decide (r < 9 ∧ s.served r = true ∧ s.sqUsed r = 0 ∧ ∀ q ∈ List.range 9, q = r ∨ s.served q = false ∨ s.sqUsed q = 0) &&
  decide (fld m 2 2 = op ∧ (0 < fld m 4 2 ∧ fld m 4 2 < 4096) ∧ m.length = 64 * fld m 4 2 ∧
    s.ringRg r 0x18 % s.sqSize r + fld m 4 2 ≤ s.sqSize r ∧ s.ringBase r 0x00 + 64 * s.sqSize r ≤ 2 ^ 47 ∧
    crc16 (slice m 0 16) = fld m 6 2 ∧ (s.ring r).expSeq = fld m 8 4 ∧ s.judge r m = none)

theorem sent_of_sends {s : State} {r op : Nat} {m : List Byte} (hc : s.Canon) (h : sends s r op m = true) :
    Stated.Sent s r op m := by
  rw [sends, Bool.and_eq_true, Bool.and_eq_true, decide_eq_true_iff, decide_eq_true_iff, decide_eq_true_iff] at h
  obtain ⟨⟨⟨hready, hpins, hen, hwaitq, hfences, hroom, hquiet⟩, hr, hserved, hused, hothers⟩,
    hop, hslots, hwhole, hfits, hread, hcrc, horder, hok⟩ := h
  exact {
    ready := hready, pins := hpins, en := hen, waitq := hwaitq, fences := hfences, room := hroom, quiet := .inr (.inr hquiet)
    canon := hc, range := hr, served := hserved, used := hused
    others := fun q hq hne => (hothers q (List.mem_range.2 hq)).resolve_left hne
    isOp := hop, slots := hslots, whole := hwhole, fits := hfits, readable := hread, crc := hcrc
    inOrder := horder, ok := hok }

/-- The message is answered as number 0 of its ring. -/
theorem hist_regWrite_scratchWrite {t : State} (h : exec (.regWrite 8 scratchWrite) (readyWithRing 8 []) = .next t) :
    (t.ring 8).hist = [(0, 0)] := by
  obtain rfl := Host.Outcome.next.inj h
  decide +kernel

/-- The state after the message is taken and its write made, where the number of a message of SEQ 0 would be of the next
era. -/
def afterScratchWrite : State :=
  ((Stated.taken (readyWithRing 8 []) 8 scratchWrite).regWrite 1 (fld scratchWrite 16 4)
    (BitVec.ofNat 32 (fld scratchWrite 20 4))).1

end Sys2Proof.Machine

open Sys2Proof Sys2Proof.Machine

/-- Refutes O46: the clause on REG_WRITE that is not of PORT_CFG takes the number of the answered message from the state
after the write, in which the ring expects the next SEQ. There SEQ 0 has the number of the next era, and the message is
answered with its own. -/
theorem not_registerMessagesAct : ¬ Obligations.RegisterMessagesAct := by
  intro h
  obtain ⟨-, hwrite, -⟩ := h (readyWithRing 8 []) 8 scratchWrite
  have hfree : Stated.RingFree afterScratchWrite 8 :=
    ⟨by decide +kernel, by decide +kernel, by decide +kernel, by decide +kernel, by decide +kernel, by decide +kernel,
      by decide +kernel⟩
  obtain ⟨t, ht, -, -, hhist⟩ := hwrite
    (sent_of_sends (canon_readyWithRing 8 rfl) (by decide +kernel)) (by decide +kernel) hfree (by decide +kernel)
  have hnumber : (2 ^ 32, 0) ∈ (t.ring 8).hist := by
    rw [hhist]
    exact by decide +kernel
  rw [hist_regWrite_scratchWrite ht] at hnumber
  exact absurd hnumber (by decide)

end

section
/-! SUPPORT. TAP_RELEASE with the number of a reduction that has been answered and is still listed. -/
set_option Elab.async false

namespace Sys2Proof.Machine

/-- TAP_RELEASE of record 0 by partition 0. -/
def tapReleaseZero : List Byte := slotMessage 0 0x413 []

/-- Partition 0 has written one tap record and step 6 is open; reduction 3 of it is listed as answered, with number 0. -/
def partWithAnsweredReduction : Part :=
  { Part.empty with
    st := .running
    cmds := [{ runningCmd 2 0x400 with phase := .answered, data := leBytes 8 6 ++ leBytes 2 3 }]
    step := { StepSt.reset with opened := some (openedStep 6), tapIdx := 1 } }

/-- The message's answer counts the reduction for its step. -/
theorem done_tapRelease_tapReleaseZero {t : State}
    (h : exec (.tapRelease 0 tapReleaseZero) (readyWithRing 0 [(0, partWithAnsweredReduction)]) = .next t) :
    (t.part 0).step.opened.map (·.done) = some [3] := by
  obtain rfl := Host.Outcome.next.inj h
  decide +kernel

end Sys2Proof.Machine

open Sys2Proof Sys2Proof.Machine

/-- Refutes O49: the clause on TAP_RELEASE says the step state as a whole but for the released records, and admits an
answered reduction with the message's own number. The message's answer takes that command off the list and counts it in
the step that is open. -/
theorem not_ownRingMessagesAct : ¬ Obligations.OwnRingMessagesAct := by
  intro h
  obtain ⟨-, hrelease, -⟩ := h (readyWithRing 0 [(0, partWithAnsweredReduction)]) 0 tapReleaseZero
  have hsent : Stated.Sent (readyWithRing 0 [(0, partWithAnsweredReduction)]) 0 0x413 tapReleaseZero :=
    sent_of_sends (canon_readyWithRing 0 (by decide)) (by decide +kernel)
  obtain ⟨t, ht, hstep, -⟩ := hrelease ⟨hsent, by decide, by decide⟩ (by decide +kernel) rfl
  have hdone := done_tapRelease_tapReleaseZero ht
  rw [hstep] at hdone
  exact absurd hdone (by decide)

end

section
/-! SUPPORT. The row results of the Tundish: element-wise functions with their NaN rule (R48), and row reductions. -/
set_option Elab.async false

namespace Sys2Proof.Machine

/-! ### Element-wise functions -/

/-- A NaN is written quiet with the sign of its source. -/
theorem f32_fl_of_nan {x : Word} {neg : Bool} (h : fl x = .nan neg) :
    f32 (.nan neg) = x &&& 0x80000000#32 ||| 0x7FC00000#32 := by
  have hneg : neg = x.getLsbD 31 := by
    simp only [fl, FpFmt.dec] at h
    split at h
    · exact absurd h nofun
    · split at h
      · exact (Fl.nan.inj h).symm.trans (bit_eq_testBit ..)
      · split at h <;> exact absurd h nofun
  have hsign : x &&& 0x80000000#32 = if x.getLsbD 31 then 0x80000000#32 else 0 := by
    have := BitVec.and_twoPow x 31
    simpa [BitVec.twoPow] using this
  rw [hsign, ← hneg]
  cases neg <;> decide

theorem fneg_eq_keepNan (x : Word) : fneg x = Stated.keepNan x (x ^^^ 0x80000000#32) := by
  unfold fneg Stated.keepNan
  cases hx : fl x with
  | nan neg => exact f32_fl_of_nan hx
  | inf | fin => rfl

theorem fabs_eq_keepNan (x : Word) : fabs x = Stated.keepNan x (x &&& 0x7FFFFFFF#32) := by
  unfold fabs Stated.keepNan
  cases hx : fl x with
  | nan neg => exact f32_fl_of_nan hx
  | inf | fin => rfl

/-- The operations that the statement gives a function. -/
def ewTops : List Nat := [0x01, 0x02, 0x03, 0x04, 0x05, 0x06, 0x09, 0x0A, 0x10, 0x11, 0x12, 0x13]

theorem mem_ewTops_of_ew {t : Nat} (h : (Stated.ew t 0 0 0).isSome = true) : t ∈ ewTops := by
  unfold Stated.ew at h
  split at h
  case h_13 => exact absurd h (by decide)
  all_goals decide

/-- The model's function is the stated one; an operation that does not read B has 0 in its place. -/
theorem ew_eq_ewFun {t : Nat} (h : t ∈ ewTops) (md : Nat) (x b sc : Word) :
    Stated.ew t x b sc = some (ewFun t x (if usesB t md then b else 0) sc) := by
  simp only [ewTops, List.mem_cons, List.not_mem_nil, or_false] at h
  obtain rfl | rfl | rfl | rfl | rfl | rfl | rfl | rfl | rfl | rfl | rfl | rfl := h
  case inr.inr.inr.inr.inr.inr.inl => exact congrArg some (fneg_eq_keepNan x).symm
  case inr.inr.inr.inr.inr.inr.inr.inl => exact congrArg some (fabs_eq_keepNan x).symm
  all_goals rfl

theorem tundish_of_ewTops {o : TOp} (d : TRd) (h : o.top ∈ ewTops) :
    (tundish o d).y = (tundishElem o d).y ∧ (tundish o d).active = o.actCount d := by
  simp only [ewTops, List.mem_cons, List.not_mem_nil, or_false] at h
  unfold tundish
  obtain h | h | h | h | h | h | h | h | h | h | h | h := h <;> rw [h] <;> exact ⟨rfl, rfl⟩

/-- Rows in which every element is active are written whole. -/
theorem y_writeElems_of_all (o : TOp) (d : TRd) (f : Nat → Nat → Word) :
    (writeElems o d (grid o.rows o.cols fun r c => some (f r c))).y =
      (List.range o.rows).map fun r => (r * d.py, packCodes o.fY ((List.range o.cols).map fun c =>
        (encElem o.fY d.e4nan o.sigOut (fl (f r c))).1)) := by
  simp only [writeElems, grid, List.map_map, List.length_map, List.length_range]
  refine Eq.trans ?_ List.map_eq_flatMap.symm
  refine List.flatMap_congr fun r hr => ?_
  have hr' : r < o.rows := List.mem_range.1 hr
  simp [hr', List.filterMap_map, Function.comp_def]

theorem y_tundishElem {o : TOp} {d : TRd} (hm : o.masked = false) (h : o.top ∈ ewTops) :
    (tundishElem o d).y = (List.range o.rows).map fun r => (r * d.py, packCodes o.fY ((List.range o.cols).map fun c =>
      (encElem o.fY d.e4nan o.sigOut (fl ((Stated.ew o.top (d.av o r c) (d.bv o r c) o.sc).getD 0))).1)) := by
  have hact (r c : Nat) : o.act d r c = true := by simp [TOp.act, hm]
  have hne : o.top ≠ 0x1C ∧ o.top ≠ 7 := ⟨by rintro e; simp [e, ewTops] at h, by rintro e; simp [e, ewTops] at h⟩
  simp only [tundishElem, hact, if_neg hne.1, if_neg hne.2, if_true]
  rw [y_writeElems_of_all]
  simp only [ew_eq_ewFun h o.md, Option.getD_some]

/-! ### Row reductions -/

/-- The active elements of a row with their columns. -/
def TOp.activeRow (o : TOp) (d : TRd) (r : Nat) : List (Nat × Word) :=
  (List.range o.cols).filterMap fun c => if o.act d r c then some (c, d.av o r c) else none

theorem reduce_eq_reduceRow {t : Nat} (hl : 0x21 ≤ t) (hu : t ≤ 0x25) (vs : List (Nat × Word)) (full : List Word) :
    Stated.reduce t vs = some (reduceRow t vs full).1 := by
  obtain rfl | rfl | rfl | rfl | rfl : t = 0x21 ∨ t = 0x22 ∨ t = 0x23 ∨ t = 0x24 ∨ t = 0x25 := by omega
  all_goals rfl

theorem tundish_of_reduce {o : TOp} (d : TRd) (hl : 0x21 ≤ o.top) (hu : o.top ≤ 0x25) :
    (tundish o d).y = (tundishReduce o d).y ∧ (tundish o d).nstat = (tundishReduce o d).nstat ∧
      (tundish o d).active = o.actCount d := by
  unfold tundish
  obtain h | h | h | h | h : o.top = 0x21 ∨ o.top = 0x22 ∨ o.top = 0x23 ∨ o.top = 0x24 ∨ o.top = 0x25 := by omega
  all_goals rw [h]; exact ⟨rfl, rfl, rfl⟩

/-- The reduced rows. -/
def TOp.reduced (o : TOp) (d : TRd) : List Word := (List.range o.rows).map fun r =>
  (reduceRow o.top (o.activeRow d r) ((List.range o.cols).map fun c => if o.act d r c then d.av o r c else 0)).1

theorem y_tundishReduce {o : TOp} (d : TRd) (hl : 0x21 ≤ o.top) (hu : o.top ≤ 0x25) :
    (tundishReduce o d).y = [(0, if 0x23 ≤ o.top then (o.reduced d).flatMap fun w => leBytes 4 w.toNat
      else packCodes o.fY ((o.reduced d).map fun w => (encElem o.fY d.e4nan o.sigOut (fl w)).1))] := by
  have hred : isReduce o.top = true := by simp [isReduce]; omega
  rw [tundishReduce, if_pos hred]
  by_cases h : 0x23 ≤ o.top
  · simp [h, wordsB, TOp.reduced, TOp.activeRow, List.map_map, Function.comp_def]
  · simp [h, writeVec, TOp.reduced, TOp.activeRow, List.map_map, Function.comp_def]

/-- A row without an active element sets EMPTY. -/
theorem nstat_tundishReduce {o : TOp} {d : TRd} {r : Nat} (hl : 0x21 ≤ o.top) (hu : o.top ≤ 0x25) (hr : r < o.rows)
    (he : o.activeRow d r = []) : (tundishReduce o d).nstat = 2 := by
  have hred : isReduce o.top = true := by simp [isReduce]; omega
  rw [tundishReduce, if_pos hred]
  have hany : ((List.range o.rows).map fun r => reduceRow o.top (o.activeRow d r)
      ((List.range o.cols).map fun c => if o.act d r c then d.av o r c else 0)).any (·.2) = true :=
    List.any_eq_true.2 ⟨_, List.mem_map_of_mem (List.mem_range.2 hr), by simp [reduceRow, he]⟩
  exact if_pos (by rw [Bool.or_eq_true]; exact .inl hany)

end Sys2Proof.Machine

open Sys2Proof Sys2Proof.Machine

/-- Settles O16: element-wise operations write whole rows of the stated function's codes, and a reduction one result per
row, with EMPTY where a row has no active element. -/
theorem tundishRowResults : Obligations.TundishRowResults := by
  refine ⟨fun o d hm hew => ?_, fun o d r hl hu hr => ?_⟩
  · have htop := mem_ewTops_of_ew hew
    obtain ⟨hy, hactive⟩ := tundish_of_ewTops d htop
    exact ⟨hy.trans (y_tundishElem hm htop), hactive⟩
  · obtain ⟨hy, hnstat, hactive⟩ := tundish_of_reduce d hl hu
    refine ⟨o.reduced d, by simp [TOp.reduced], ?_, hy.trans (y_tundishReduce d hl hu),
      fun he => hnstat.trans (nstat_tundishReduce hl hu hr he), hactive⟩
    rw [TOp.reduced, List.getElem?_map, List.getElem?_range hr, Option.map_some]
    exact (reduce_eq_reduceRow hl hu ..).symm

end

section
/-! SUPPORT. Two entries of one unit in a table that is not in canonical form, where the first one's Tundish operation
completes. -/
set_option Elab.async false

namespace Sys2Proof.Machine

/-- A unit as after reset but for a Tundish operation of no rows. -/
def unitWithEmptyTundish : SeqUnit := { SeqUnit.reset with tnds := [⟨0x01, 0, 0, [], 0⟩] }

/-- Cluster 0 has two entries: behind the one with the operation stands one with an exception that is due for its record.
-/
def twoEntriesOfUnit : State :=
  { readyState with
    units := [(0, unitWithEmptyTundish), (0, { SeqUnit.reset with run := .excepted, exc := some (0, 0, 0) })] }

/-- The completion leaves the first entry as a unit after reset, which no table lists: the second is seen, and its
exception sets SEQ_EXC. -/
theorem event_tundishOpComplete_twoEntriesOfUnit {t : State}
    (h : exec (.tundishOpComplete 0) twoEntriesOfUnit = .next t) : bit (t.pg .mould 0 0x14) 5 = true := by
  obtain rfl := Host.Outcome.next.inj h
  decide +kernel

end Sys2Proof.Machine

open Sys2Proof Sys2Proof.Machine

/-- Refutes O15: the clause on the completion of the oldest operation holds of no more than states in canonical form, and
does not ask for it. In a table that lists a unit twice the entry behind the first comes to light where the first becomes
a unit as after reset. -/
theorem not_tundishOperations : ¬ Obligations.TundishOperations := by
  intro ⟨_, h⟩
  have hevent := event_tundishOpComplete_twoEntriesOfUnit
    (h twoEntriesOfUnit 0 ⟨0x01, 0, 0, [], 0⟩ [] rfl (by decide) (by decide))
  exact absurd hevent (by decide +kernel)

end

section
/-! SUPPORT. The parting line (R12): what a die's record of it keeps, cycles that wait, resends and the settling of a
cycle by its class; and the statement about them. -/
set_option Elab.async false

namespace Sys2Proof.Machine

variable {s t : State} {d e : Nat} {c : PlCycle} {w : PlWait} {rest : List PlWait} {f : Line → Line}

/-! ## The dies' records -/

theorem State.die_setDie_other (hd : d < 2) (x : DieSt) : (s.setDie d x).die (1 - d) = s.die (1 - d) := by
  match d, hd with
  | 0, _ => rfl
  | 1, _ => rfl

theorem State.die_setDie_far (hd : d < 2) (x : DieSt) : (s.setDie (1 - d) x).die d = s.die d := by
  match d, hd with
  | 0, _ => rfl
  | 1, _ => rfl

@[simp] theorem State.line_modLine (s : State) (d : Nat) (f : Line → Line) :
    ((s.modLine d f).die d).line = f (s.die d).line := by
  rw [State.modLine, State.die_modDie]

theorem State.line_modLine_other (hd : d < 2) (s : State) (f : Line → Line) :
    ((s.modLine d f).die (1 - d)).line = (s.die (1 - d)).line := by
  rw [State.modLine, State.modDie, State.die_setDie_other hd]

theorem State.line_modLine_far (hd : d < 2) (s : State) (f : Line → Line) :
    ((s.modLine (1 - d) f).die d).line = (s.die d).line := by
  rw [State.modLine, State.modDie, State.die_setDie_far hd]

theorem Moves.modLine (s : State) (d : Nat) (f : Line → Line) : Moves [.west, .east] s (s.modLine d f) := .modDie s d _

/-- What is written of the line depends on the line alone. -/
theorem State.modLine_congr {g : Line → Line} (h : f (s.die d).line = g (s.die d).line) :
    s.modLine d f = s.modLine d g := by
  simp only [State.modLine, State.modDie, h]

theorem State.canon_modLine (c : s.Canon) (d : Nat) (f : Line → Line) : (s.modLine d f).Canon :=
  State.canon_setDie c (State.twf_words c d)

/-! ## Counters of 64 bits -/

/-- A counter in two words adds, and saturates at all ones. -/
theorem State.pg_count64 (c : s.Canon) (k : PageKind) (i off n : Nat) :
    (s.count64 k i off n).pg k i off + 2 ^ 32 * (s.count64 k i off n).pg k i (off + 4) =
      min (s.pg k i off + 2 ^ 32 * s.pg k i (off + 4) + n) (2 ^ 64 - 1) := by
  unfold State.count64
  dsimp only
  rw [State.pg_setPg (State.canon_setPg c ..), State.pg_setPg_ne (State.canon_setPg c ..) _ (by omega),
    State.pg_setPg c]
  omega

theorem BusOnly.count64 {k : PageKind} {i off n : Nat} : BusOnly s (s.count64 k i off n) := .trans .setPg .setPg

/-! ## A failed send that is reported -/

theorem Moves.plReport (s : State) (d : Nat) : Moves [.bus] s (s.plReport d) :=
  .ofBusOnly (.trans (.evSet (k := .d2d) (by decide)) .count64)

/-- RESEND counts the report, and its event stands. -/
theorem State.pg_plReport (c : s.Canon) (d : Nat) : bit ((s.plReport d).pg .d2d d 0x14) 1 = true ∧
    (s.plReport d).pg .d2d d 0x48 + 2 ^ 32 * (s.plReport d).pg .d2d d 0x4C =
      min (s.pg .d2d d 0x48 + 2 ^ 32 * s.pg .d2d d 0x4C + 1) (2 ^ 64 - 1) := by
  have ce : (s.evSet .d2d d 1).Canon := (Keeps.evSet .refl).canon c
  constructor
  · unfold State.plReport State.count64
    dsimp only
    rw [State.pg_setPg_ne (State.canon_setPg ce ..) _ (by omega), State.pg_setPg_ne ce _ (by omega)]
    exact State.bit_evSet_self c nofun (by decide)
  · have hcount := State.pg_count64 ce .d2d d 0x48 1
    rwa [State.pg_evSet_block c (by decide) (by decide), State.pg_evSet_block c (by decide) (by decide)] at hcount

/-- A send that failed is reported after the die's record of it is written. -/
theorem State.plReport_modLine (c : s.Canon) (d : Nat) (f : Line → Line) : let t := (s.modLine d f).plReport d
    t.mem = s.mem ∧ (t.die d).line = f (s.die d).line ∧ bit (t.pg .d2d d 0x14) 1 = true ∧
      t.pg .d2d d 0x48 + 2 ^ 32 * t.pg .d2d d 0x4C =
        min (s.pg .d2d d 0x48 + 2 ^ 32 * s.pg .d2d d 0x4C + 1) (2 ^ 64 - 1) := by
  have hm := Moves.modLine s d f
  have hr := Moves.plReport (s.modLine d f) d
  obtain ⟨hbit, hcount⟩ := State.pg_plReport (State.canon_modLine c d f) d
  rw [hm.pg, hm.pg] at hcount
  exact ⟨(hr.mem).trans hm.mem, by rw [hr.die, State.line_modLine], hbit, hcount⟩

/-! ## Cycles that arrive -/

theorem State.plDeliver_of_engine (h : c.cls ≠ 0) (s : State) (d : Nat) : s.plDeliver d c = s :=
  if_neg fun hc => h hc.1

/-- The sender keeps a new cycle, and its page counts it. -/
def State.plSent (s : State) (die : Nat) (c : PlCycle) : State :=
  let s := s.modLine (1 - die) fun l => { l with replay := (c :: l.replay).take 64 }
  if c.cls = 0 then s else s.moves .d2d (1 - die)

theorem Moves.plSent (s : State) (d : Nat) (c : PlCycle) : Moves [.west, .east, .bus] s (s.plSent d c) :=
  .ite ((Moves.modLine s _ _).mono) (((Moves.modLine s _ _).mono).andThen (.ofBusOnly .moves))

theorem State.line_plSent (hd : d < 2) (s : State) (c : PlCycle) : ((s.plSent d c).die d).line = (s.die d).line ∧
    ((s.plSent d c).die (1 - d)).line =
      { (s.die (1 - d)).line with replay := (c :: (s.die (1 - d)).line.replay).take 64 } := by
  unfold State.plSent
  dsimp only
  split
  · exact ⟨State.line_modLine_far hd .., State.line_modLine ..⟩
  · have hb : Moves [.bus] _ ((s.modLine (1 - d) fun l => { l with replay := (c :: l.replay).take 64 }).moves .d2d
      (1 - d)) :=
      .ofBusOnly .moves
    rw [hb.die, hb.die]
    exact ⟨State.line_modLine_far hd .., State.line_modLine ..⟩

theorem State.canon_plSent (hc : s.Canon) : (s.plSent d c).Canon := by
  unfold State.plSent
  dsimp only
  split
  · exact State.canon_modLine hc ..
  · exact (Keeps.moves .refl).canon (State.canon_modLine hc ..)

/-- A new cycle moves no counter but what its page's motion leaves open. -/
theorem State.pg_plSent (s : State) (d : Nat) (c : PlCycle) (k : PageKind) (i off : Nat) :
    (s.plSent d c).pg k i off = s.pg k i off := by
  unfold State.plSent State.moves
  dsimp only
  split
  · exact (Moves.modLine s _ _).pg (by decide) k i off
  · split <;> exact (Moves.modLine s _ _).pg (by decide) k i off

/-- A wait of class `cls` that is on the wires again. -/
def PlWait.again (cls : Nat) (w : PlWait) : Bool := w.cyc.cls == cls && w.resent

theorem PlWait.again_iff {cls : Nat} : w.again cls = true ↔ w.cyc.cls = cls ∧ w.resent = true := by
  simp [PlWait.again]

theorem find?_again_none {waits : List PlWait} (h : ∀ w ∈ waits, w.cyc.cls = c.cls → w.resent = false) :
    waits.find? (PlWait.again c.cls) = none := by
  rw [List.find?_eq_none]
  intro w hw ha
  obtain ⟨hcls, hre⟩ := PlWait.again_iff.mp ha
  exact absurd hre (by simp [h w hw hcls])

section
variable (ht : (s.die d).line.trained = true)
include ht

/-- No resend of its class on the wires: the cycle is new. -/
theorem execPl_new {ok : Bool} (h : ∀ w ∈ (s.die d).line.waits, w.cyc.cls = c.cls → w.resent = false) :
    execPlCycleReceived d c ok s =
      if !ok then .next (((s.plSent d c).modLine d fun l => { l with waits := l.waits ++ [⟨c, 1, false⟩] }).plReport d)
      else if (s.die d).line.waits.any fun w => w.cyc.cls == c.cls then
        .next ((s.plSent d c).modLine d fun l => { l with waits := l.waits ++ [⟨c, 0, false⟩] })
      else .next ((s.plSent d c).plDeliver d c) := by
  have hf := find?_again_none h
  unfold PlWait.again at hf
  unfold execPlCycleReceived
  simp only [ht, if_true, hf]
  rfl

variable (hl : (s.die d).line.waits = w :: rest) (hre : w.resent = true) (hcls : w.cyc.cls = c.cls)
include hl hre hcls

/-- The first wait of the line is on the wires again: the cycle is that one. -/
theorem execPl_again {ok : Bool} : execPlCycleReceived d c ok s =
    if ok then
      .next ((s.modLine d fun l => { l with waits := { w with fails := 0, resent := false } :: rest }).plRelease d
        c.cls)
    else if w.fails = 3 then
      .next (((s.modLine d fun l => { l with waits := rest }).plSettle d w.cyc).plRelease d c.cls)
    else .next ((s.modLine d fun l =>
      { l with waits := { w with fails := w.fails + 1, resent := false } :: rest }).plReport d) := by
  have hhit : (w.cyc.cls == c.cls && w.resent) = true := by simp [hcls, hre]
  unfold execPlCycleReceived State.modLine State.modDie
  simp only [ht, if_true, hl, List.find?_cons, hhit, updFirst, List.erase_cons_head]

end

/-! ## Cycles that are released -/

/-- Without a wait of its class nothing is released. -/
theorem State.line_plRelease_of_none {cls : Nat} (h : ∀ x ∈ (s.die d).line.waits, x.cyc.cls ≠ cls) :
    ((s.plRelease d cls).die d).line = (s.die d).line ∧ Moves [.west, .east] s (s.plRelease d cls) := by
  have hmine : ((s.die d).line.waits.filter fun x => x.cyc.cls == cls) = [] := by
    rw [List.filter_eq_nil_iff]
    exact fun x hx => by simpa using h x hx
  have hothers : ((s.die d).line.waits.filter fun x => x.cyc.cls != cls) = (s.die d).line.waits := by
    rw [List.filter_eq_self]
    exact fun x hx => by simpa using h x hx
  unfold State.plRelease
  simp only [hmine, List.takeWhile_nil, List.drop_nil, List.append_nil, List.foldl_nil]
  exact ⟨by rw [State.line_modLine, hothers], Moves.modLine _ _ _⟩

/-- A first wait that is good, the only one of its class, is released: of engine data without effect. -/
theorem State.line_plRelease_of_head {cls : Nat} (hl : (s.die d).line.waits = w :: rest) (hw : w.cyc.cls = cls)
    (hgood : w.fails = 0) (hcls : cls ≠ 0) (h : ∀ x ∈ rest, x.cyc.cls ≠ cls) :
    ((s.plRelease d cls).die d).line = { (s.die d).line with waits := rest } ∧
      Moves [.west, .east] s (s.plRelease d cls) := by
  have hmine : (rest.filter fun x => x.cyc.cls == cls) = [] := by
    rw [List.filter_eq_nil_iff]
    exact fun x hx => by simpa using h x hx
  have hothers : (rest.filter fun x => x.cyc.cls != cls) = rest := by
    rw [List.filter_eq_self]
    exact fun x hx => by simpa using h x hx
  have hhead : (w.cyc.cls != cls) = false := by simp [hw]
  unfold State.plRelease
  simp only [hl, List.filter_cons, hw, beq_self_eq_true, if_true, hmine, List.takeWhile_cons, hgood, List.takeWhile_nil,
    List.length_singleton, List.drop_one, List.tail_cons, List.append_nil, List.foldl_cons, List.foldl_nil,
    State.plDeliver_of_engine (c := w.cyc) (by rwa [hw])]
  exact ⟨by rw [State.line_modLine]; simp [hl, hhead, hothers], Moves.modLine _ _ _⟩

/-- The fourth failed send of NoC data without a destination faults the partition that owns it. -/
theorem State.plSettle_of_owner (hcls : c.cls = 2) (hdest : c.dest = none) (how : c.owner < 8) :
    s.plSettle d c = ((s.evErr .d2d d 2 2 c.owner 2 0).count32 .d2d d 0x50 1).faultFrom c.owner .d2d d 2 := by
  unfold State.plSettle
  simp [hcls, hdest, how, Nat.not_le.mpr how]

/-- Then the fault stands, the event of the page with it, and nothing of memory or of the line has moved. -/
theorem State.plSettle_faults (hc : s.Canon) (hd : d < 2) (hcls : c.cls = 2) (hdest : c.dest = none) (how : c.owner < 8)
    (hst : (s.part c.owner).st = .running) : ((s.plSettle d c).part c.owner).st = .faulted ∧
      bit ((s.plSettle d c).pg .d2d d 0x14) 2 = true ∧ Moves [.bus, .units, .parts] s (s.plSettle d c) := by
  have he : BusOnly s ((s.evErr .d2d d 2 2 c.owner 2 0).count32 .d2d d 0x50 1) := .trans
      (.evErr (k := .d2d) (by decide)) .count32
  have ce : (s.evErr .d2d d 2 2 c.owner 2 0).Canon := (Keeps.evErr .refl).canon hc
  have cc : ((s.evErr .d2d d 2 2 c.owner 2 0).count32 .d2d d 0x50 1).Canon := State.canon_setPg ce ..
  rw [State.plSettle_of_owner hcls hdest how]
  refine ⟨?_, ?_, (Moves.ofBusOnly he).mono.andThen (Moves.faultPart _)⟩
  · rw [State.faultFrom, State.part_faultPart cc]
    · rfl
    · have hpart := (Moves.ofBusOnly he).part (by decide) c.owner
      rw [hpart, hst]
      rfl
  · rw [State.faultFrom, (State.faultPart_frame cc).2 .d2d d 0x14 (by simp only [pageNo]; omega) (by decide),
      State.count32, State.pg_setPg_ne ce _ (by omega)]
    exact State.bit_evErr_self hc nofun (by decide)

/-! ## Resends -/

/-- The first wait of the line has failed and its cycle stands in the sender's replay buffer: it is sent again. -/
theorem execPlResend_of_head (hd : d < 2) (hl : (s.die d).line.waits = w :: rest) (hf : w.fails ≠ 0)
    (hre : w.resent = false)
    (hin : w.cyc ∈ (s.die (1 - d)).line.replay) : ∃ t, execPlResend (1 - d) w.cyc.cls s = .next t ∧
      Moves [.west, .east, .bus] s t ∧
        (t.die d).line = { (s.die d).line with waits := { w with resent := true } :: rest } ∧
      (t.die (1 - d)).line =
        { (s.die (1 - d)).line with replay := (w.cyc :: (s.die (1 - d)).line.replay).take 64 } := by
  have hdd : 1 - (1 - d) = d := by omega
  have hdue : (w.cyc.cls == w.cyc.cls && w.fails != 0 && !w.resent) = true := by simp [hf, hre]
  let x := s.modLine (1 - d) fun l => { l with replay := (w.cyc :: l.replay).take 64 }
  let y := if w.cyc.cls = 0 then x.count32 .d2d (1 - d) 0x64 1 else x
  have hy : BusOnly x y := .ite .count32 .refl
  have hyd := (Moves.ofBusOnly hy).die
  have hline : (y.die d).line = (s.die d).line := by rw [hyd]; exact State.line_modLine_far hd ..
  refine ⟨y.modLine d fun l => { l with waits := { w with resent := true } :: rest }, ?_, ?_, ?_, ?_⟩
  · unfold execPlResend
    simp only [hdd, hl, List.find?_cons, hdue, List.contains_iff_mem.mpr hin, if_true]
    refine congrArg Host.Outcome.next ?_
    change y.modLine d _ = _
    refine State.modLine_congr ?_
    rw [hline, hl]
    simp only [updFirst, hdue, if_true]
  · exact ((Moves.modLine s _ _).mono.andThen (Moves.ofBusOnly hy)).andThen (Moves.modLine y d _)
  · rw [State.line_modLine, hline]
  · rw [State.line_modLine_other hd, hyd, State.line_modLine]

/-- Settles O43. -/
theorem partingLineRepeatsCycles : Obligations.PartingLineRepeatsCycles := by
  intro s d c
  dsimp only
  intro hc hd ht
  refine ⟨fun hcls hnone => ?_, fun hnew => ?_, fun hnew hsome => ?_, fun w rest hl hf hre hin => ?_,
    fun w rest hl hre hw => ⟨fun hlt => ?_, fun hrest hcls => ?_, fun hrest hf hcls hdest how hst => ?_⟩⟩
  · refine ⟨s.plSent d c, ?_, (Moves.plSent s d c).mem, (Moves.plSent s d c).parts, State.line_plSent hd s c⟩
    have hany : ((s.die d).line.waits.any fun w => w.cyc.cls == c.cls) = false := by simpa using hnone
    refine (execPl_new ht fun w hw hwc => absurd hwc (hnone w hw)).trans ?_
    rw [State.plDeliver_of_engine hcls, hany]
    rfl
  · obtain ⟨hline, hfar⟩ := State.line_plSent hd s c
    obtain ⟨hmem, hwait, hbit, hcount⟩ := State.plReport_modLine (State.canon_plSent (d := d) (c := c) hc) d
      fun l => { l with waits := l.waits ++ [⟨c, 1, false⟩] }
    refine ⟨_, execPl_new ht hnew, hmem.trans (Moves.plSent s d c).mem, hwait.trans (by rw [hline]), ?_, hbit, ?_⟩
    · rw [(Moves.plReport _ d).die, State.line_modLine_other hd, hfar]
    · rwa [State.pg_plSent, State.pg_plSent] at hcount
  · have hany : ((s.die d).line.waits.any fun w => w.cyc.cls == c.cls) = true := by simpa using hsome
    have hm := (Moves.plSent s d c).andThen
      (Moves.modLine (s.plSent d c) d fun l => { l with waits := l.waits ++ [⟨c, 0, false⟩] })
    refine ⟨_, (execPl_new ht hnew).trans (by rw [hany]; rfl), hm.mem, hm.parts, ?_⟩
    rw [State.line_modLine, (State.line_plSent hd s c).1]
  · obtain ⟨t, hex, hm, hline, hfar⟩ := execPlResend_of_head hd hl hf hre hin
    exact ⟨t, hex, hm.mem, hm.parts, hline, hfar⟩
  · obtain ⟨hmem, hwait, hbit, hcount⟩ := State.plReport_modLine hc d
      fun l => { l with waits := { w with fails := w.fails + 1, resent := false } :: rest }
    refine ⟨_, (execPl_again ht hl hre hw).trans ?_, hmem, hwait, hbit, hcount⟩
    rw [if_neg nofun, if_neg (by omega)]
  · have hx := State.line_modLine s d fun l => { l with waits := { w with fails := 0, resent := false } :: rest }
    obtain ⟨hline, hm⟩ := State.line_plRelease_of_head (congrArg Line.waits hx) hw rfl hcls hrest
    have hall := (Moves.modLine s d _).andThen hm
    exact ⟨_, execPl_again ht hl hre hw, hall.mem, hall.parts, hline.trans (by rw [hx])⟩
  · have hx := State.line_modLine s d fun l => { l with waits := rest }
    have hpart := (Moves.modLine s d fun l => { l with waits := rest }).part (by decide) w.cyc.owner
    obtain ⟨hfault, hbit, hm⟩ := State.plSettle_faults (State.canon_modLine hc d fun l => { l with waits := rest }) hd
      (hw.trans hcls) hdest how (by rw [hpart, hst])
    have hy := congrArg DieSt.line (hm.die (by decide) (by decide) d)
    obtain ⟨hline, hr⟩ := State.line_plRelease_of_none (cls := c.cls) fun x hx' => hrest x (by rwa [hy, hx] at hx')
    refine ⟨_, (execPl_again ht hl hre hw).trans (by rw [if_neg nofun, if_pos hf]), ?_, ?_, ?_, ?_⟩
    · exact hr.mem.trans (hm.mem.trans (Moves.modLine s _ _).mem)
    · rwa [hr.part]
    · rw [hline, hy, hx]
    · rwa [hr.pg]

end Sys2Proof.Machine
end

section
/-! SUPPORT. Completion traffic (R331 to R345): what entries, interrupts and fences of the completion rings leave alone,
whatever else waits in these rings and is written with them. -/
set_option Elab.async false

namespace Sys2Proof.Machine

variable {s t u : State} {r : Nat}

/-! ## What completion traffic leaves of a ring, a step, a partition and the Sprues -/

/-- A ring without its record of entries, messages and interrupts. -/
def Ring.core (g : Ring) : Ring :=
  { g with vents := 0, waitq := [], hist := [], opens := [], fences := [], irqCnt := 0, irqAt := 0 }

/-- The reductions of a step without the list of those completed. -/
def StepRed.core (x : StepRed) : StepRed := { x with done := [] }

def StepSt.core (x : StepSt) : StepSt :=
  { x with opened := x.opened.map StepRed.core, sealing := x.sealing.map fun z => (z.1, z.2.core) }

/-- A partition without its commands and what completed reductions count for. -/
def Part.core (x : Part) : Part := { x with cmds := [], step := x.step.core }

/-- The commands of a partition that have not been answered. -/
def Part.open (x : Part) : List Cmd := x.cmds.filter fun k => k.phase != .answered

/-- The Sprues without the count of completed micro-batches. -/
def Sprue.core (x : Sprue) : Sprue := { x with doneMb := [], lastOk := [] }

/-- From `s` to `t` there is completion traffic alone. -/
structure Traffic (s t : State) : Prop where
  canon : t.Canon
  moves : Moves [.mem, .bus, .rings, .parts, .sprue] s t
  low : ∀ a, a < hostBase → t.byte a = s.byte a
  page : ∀ k i off, off < 0x1000 → pageNo k i ≠ pageNo .host 0 → t.pg k i off = s.pg k i off
  host : ∀ off, off < 0x1000 → off ≠ 0x14 → off ≠ 0x20 → off ≠ 0xC00 → (∀ r, r < 9 → off ≠ ringOff r 0x20) →
    t.pg .host 0 off = s.pg .host 0 off
  ring : ∀ r, (t.ring r).core = (s.ring r).core
  part : ∀ p, (t.part p).core = (s.part p).core
  kept : ∀ p, (t.part p).open = (s.part p).open
  fewer : ∀ p, (t.part p).cmds.Sublist (s.part p).cmds
  sprue : t.sprue.core = s.sprue.core

theorem Traffic.refl (c : s.Canon) : Traffic s s :=
  ⟨c, .refl, fun _ _ => rfl, fun _ _ _ _ _ => rfl, fun _ _ _ _ _ _ => rfl, fun _ => rfl, fun _ => rfl, fun _ => rfl,
    fun _ => .refl _, rfl⟩

theorem Traffic.trans (h : Traffic s t) (h' : Traffic t u) : Traffic s u where
  canon := h'.canon
  moves := h.moves.andThen h'.moves
  low a ha := (h'.low a ha).trans (h.low a ha)
  page k i off ho hp := (h'.page k i off ho hp).trans (h.page k i off ho hp)
  host off ho h1 h2 h3 h4 := (h'.host off ho h1 h2 h3 h4).trans (h.host off ho h1 h2 h3 h4)
  ring r := (h'.ring r).trans (h.ring r)
  part p := (h'.part p).trans (h.part p)
  kept p := (h'.kept p).trans (h.kept p)
  fewer p := (h'.fewer p).trans (h.fewer p)
  sprue := h'.sprue.trans h.sprue

/-- From every canonical `s` there is completion traffic alone to `t`. -/
def Posts (s t : State) : Prop := s.Canon → Traffic s t

/-- A waiting entry at the tail of the completion ring, and the answer it carries. -/
def State.putEntry (s : State) (r : Nat) (e : Entry) (rest : List Entry) : State :=
  let g := s.ring r
  let s := s.cqPut r (sealEntryBytes e.bytes (s.cqPhase r) (g.vents % 2 ^ 32))
  let s := s.setRing r { g with waitq := rest, vents := g.vents + b2n (bit (fld e.bytes 4 2) 14) }
  match e.ans with | some (q, st) => s.answered r q st | none => s

/-- `fill` slots of filler at the tail of the completion ring. -/
def State.putFill (s : State) (r fill : Nat) : State := if fill = 0 then s else s.cqPut r (s.filler r fill)

/-- A waiting entry is written after the filler that it needs, with its interrupt and the fence that it answers. -/
theorem State.writeOne_eq (s : State) (r : Nat) (e : Entry) (rest : List Entry) : ∃ need fill,
    s.writeOne r e rest =
      if s.cqRoom r < need then none else some
        ((((s.putFill r fill).putEntry r e rest).irqEntry r e.urgent).fencePump r) :=
  ⟨_, _, rfl⟩

namespace Posts

theorem refl : Posts s s := Traffic.refl

theorem trans (h : Posts s t) (h' : Posts t u) : Posts s u := fun c => (h c).trans (h' (h c).canon)

theorem ite {c : Prop} [Decidable c] (ht : Posts s t) (hu : Posts s u) : Posts s (if c then t else u) := by
  split
  · exact ht
  · exact hu

theorem foldl {α : Type} {f : State → α → State} (as : List α) (hf : ∀ x, ∀ a ∈ as, Posts x (f x a)) (s : State) :
    Posts s (as.foldl f s) :=
  List.foldlRecOn (motive := Posts s) _ _ refl fun x hx a ha => hx.trans (hf x a ha)

theorem repeatStep {f : State → Option State} (hf : ∀ x y, f x = some y → Posts x y) (n : Nat) (s : State) :
    Posts s (repeatStep f n s) := by
  induction n generalizing s with
  | zero => exact refl
  | succ n ih =>
    rw [Machine.repeatStep]
    split
    case h_1 y hy => exact (hf s y hy).trans (ih y)
    case h_2 => exact refl

/-! ## Memory and registers -/

theorem setHostBytes (s : State) (a : Nat) (bs : List Byte) : Posts s (s.setHostBytes a bs) := by
  intro c
  have hc : (s.setHostBytes a bs).Canon := (Keeps.setHostBytes .refl).canon c
  have hlow : ∀ b, b < hostBase → (s.setHostBytes a bs).byte b = s.byte b := by
    intro b hb
    unfold State.setHostBytes
    split
    · rw [State.byte_setBytes c.mem, if_neg (by omega)]
    · rfl
  obtain ⟨m, hm⟩ := s.setHostBytes_eq_setMem a bs
  rw [hm] at hc hlow ⊢
  refine ⟨hc, ?_, hlow, fun _ _ _ _ _ => rfl, fun _ _ _ _ _ _ => rfl, fun _ => rfl, fun _ => rfl, fun _ => rfl,
    fun _ => .refl _, rfl⟩
  intro f hf
  cases f with
  | mem => exact absurd List.mem_cons_self hf
  | _ => rfl

/-- A register of the host's page that tells of entries is written. -/
theorem setHost (s : State) (off v : Nat)
    (hoff : off = 0x14 ∨ off = 0x20 ∨ off = 0xC00 ∨ ∃ r, r < 9 ∧ off = ringOff r 0x20) :
    Posts s (s.setPg .host 0 off v) := by
  intro c
  have hin : off < 0x1000 := by
    obtain h | h | h | ⟨r, hr, h⟩ := hoff
    · omega
    · omega
    · omega
    · rw [h, ringOff]
      omega
  refine ⟨State.canon_setPg c .., (Moves.setPg s .host 0 off v).mono, fun _ _ => rfl, ?_, ?_, fun _ => rfl,
    fun _ => rfl,
    fun _ => rfl, fun _ => .refl _, rfl⟩
  · exact fun k i o ho hp => State.pg_setPg_ne c _ (by omega)
  · intro o ho h1 h2 h3 h4
    refine State.pg_setPg_ne c _ ?_
    have hne : o ≠ off := by
      rintro rfl
      obtain h | h | h | ⟨r, hr, h⟩ := hoff
      · exact h1 h
      · exact h2 h
      · exact h3 h
      · exact h4 r hr h
    omega

theorem fireVector (s : State) (v : Nat) : Posts s (s.fireVector v) :=
  ite (setHost s _ _ (.inr (.inr (.inl rfl)))) (setHostBytes s _ _)

theorem evSet_host (s : State) (b : Nat) : Posts s (s.evSet .host 0 b) := by
  unfold State.evSet
  dsimp only
  exact ite (setHost s _ _ (.inr (.inl rfl)))
    (ite ((setHost s _ _ (.inl rfl)).trans (fireVector _ 9)) (setHost s _ _ (.inl rfl)))

/-! ## Rings, partitions and the Sprues -/

/-- A ring is written, its core as it was. -/
theorem setRing (s : State) (r : Nat) {g : Ring} (h : g.core = (s.ring r).core) : Posts s (s.setRing r g) := by
  intro c
  refine ⟨(Keeps.setRing .refl).canon c, ?_, fun _ _ => rfl, fun _ _ _ _ _ => rfl, fun _ _ _ _ _ _ => rfl, ?_,
    fun _ => rfl, fun _ => rfl, fun _ => .refl _, rfl⟩
  · intro f hf
    cases f with
    | rings => exact absurd (by decide) hf
    | _ => rfl
  · intro q
    by_cases hq : q = r
    · rw [hq, State.ring_setRing c, h]
    · rw [State.ring_setRing_ne c _ hq]

/-- A partition is written: its core as it was, its commands all or some of those it had, the answered ones gone. -/
theorem setPart (s : State) (p : Nat) {x : Part} (h : x.core = (s.part p).core) (ho : x.open = (s.part p).open)
    (hf : x.cmds.Sublist (s.part p).cmds) : Posts s (s.setPart p x) := by
  intro c
  have hcase (q : Nat) : ((s.setPart p x).part q = s.part q) ∨ (q = p ∧ (s.setPart p x).part q = x) := by
    by_cases hq : q = p
    · exact .inr ⟨hq, by rw [hq, State.part_setPart c]⟩
    · exact .inl (State.part_setPart_ne c _ hq)
  refine ⟨(Keeps.setPart .refl).canon c, (Moves.setPart s p x).mono, fun _ _ => rfl, fun _ _ _ _ _ => rfl,
    fun _ _ _ _ _ _ => rfl, fun _ => rfl, fun q => ?_, fun q => ?_, fun q => ?_, rfl⟩
  · obtain hq | ⟨rfl, hq⟩ := hcase q
    · rw [hq]
    · rw [hq, h]
  · obtain hq | ⟨rfl, hq⟩ := hcase q
    · rw [hq]
    · rw [hq, ho]
  · obtain hq | ⟨rfl, hq⟩ := hcase q
    · rw [hq]
    · rw [hq]
      exact hf

theorem setSprue (s : State) {x : Sprue} (h : x.core = s.sprue.core) : Posts s (s.setSprue x) := by
  intro c
  refine ⟨(Keeps.setSprue .refl).canon c, ?_, fun _ _ => rfl, fun _ _ _ _ _ => rfl, fun _ _ _ _ _ _ => rfl,
    fun _ => rfl,
    fun _ => rfl, fun _ => rfl, fun _ => .refl _, h⟩
  intro f hf
  cases f with
  | sprue => exact absurd (by decide) hf
  | _ => rfl

/-- A completed reduction counts for its step. -/
theorem modRed_done (s : State) (p n i : Nat) : Posts s (s.modRed p n fun x => { x with done := x.done ++ [i] }) := by
  refine setPart s p ?_ rfl (.refl _)
  have hred (m : Nat) (x : StepRed) : (if x.step = m then { x with done := x.done ++ [i] } else x).core = x.core := by
    split <;> rfl
  have hopen (x : Option StepRed) :
      (x.map fun y => if y.step = n then { y with done := y.done ++ [i] } else y).map StepRed.core =
        x.map StepRed.core := by
    cases x with
    | none => rfl
    | some y => exact congrArg some (hred n y)
  have hseal (x : Option (Seal × StepRed)) :
      (x.map fun z => if z.2.step = n then (z.1, { z.2 with done := z.2.done ++ [i] }) else z).map
        (fun z => (z.1, z.2.core)) = x.map fun z => (z.1, z.2.core) := by
    cases x with
    | none => rfl
    | some z =>
      simp only [Option.map_some]
      split <;> rfl
  simp only [Part.core, StepSt.core, hopen, hseal]

/-- An outcome is kept, and the commands answered under its number leave. -/
theorem answered (s : State) (r seq st : Nat) : Posts s (s.answered r seq st) := by
  unfold State.answered
  dsimp only
  refine .trans (.trans (setRing s r (g := (s.ring r).record seq st) rfl)
    (setPart _ r (x := ((s.setRing r ((s.ring r).record seq st)).part r).drop seq) rfl ?_ List.filter_sublist))
    (foldl _ (fun x k _ => ?_) _)
  · unfold Part.open
    rw [Part.drop, List.filter_filter]
    exact List.filter_congr fun k _ => by cases k.phase <;> simp
  · exact ite (setSprue x rfl) (ite (modRed_done x r _ _) refl)

/-! ## Entries -/

section
variable (hr : r < 9)
include hr

theorem cqPut (s : State) (bs : List Byte) : Posts s (s.cqPut r bs) :=
  (setHostBytes s _ _).trans (setHost _ _ _ (.inr (.inr (.inr ⟨r, hr, rfl⟩))))

omit hr in
theorem irqEntry (s : State) (r : Nat) (urgent : Bool) : Posts s (s.irqEntry r urgent) := by
  have hcount : Posts s (s.setRing r ((s.ring r).counted s.now)) := setRing s r rfl
  exact ite (hcount.trans (.trans (fireVector _ r) (setRing _ r (g := Ring.fired _) rfl))) hcount

omit hr in
theorem fencePump (s : State) (r : Nat) : Posts s (s.fencePump r) := by
  unfold State.fencePump
  dsimp only
  split
  · exact ite (setRing s r rfl) refl
  · exact refl

theorem putEntry (s : State) (e : Entry) (rest : List Entry) : Posts s (s.putEntry r e rest) := by
  have hrings (bs : List Byte) : (s.cqPut r bs).ring r = s.ring r := by
    unfold State.cqPut
    dsimp only
    obtain ⟨m, hm⟩ := s.setHostBytes_eq_setMem (s.ringBase r 0x08 + s.ringRg r 0x20 % s.cqSize r * 64) bs
    rw [hm]
    rfl
  have hput (bs : List Byte) (n : Nat) :
      Posts s ((s.cqPut r bs).setRing r { s.ring r with waitq := rest, vents := n }) :=
    (cqPut hr s bs).trans (setRing _ r (by rw [hrings]; rfl))
  unfold State.putEntry
  dsimp only
  split
  · exact .trans (hput _ _) (answered _ r _ _)
  · exact hput _ _

theorem writeOne {e : Entry} {rest : List Entry} (h : s.writeOne r e rest = some t) : Posts s t := by
  obtain ⟨_, fill, hw⟩ := s.writeOne_eq r e rest
  rw [hw] at h
  split at h
  · exact absurd h nofun
  · obtain rfl := Option.some.inj h
    have hfill : Posts s (s.putFill r fill) := ite refl (cqPut hr s _)
    exact .trans (.trans (hfill.trans (putEntry hr _ e rest)) (irqEntry _ r _)) (fencePump _ r)

theorem flushOne (h : s.flushOne r = some t) : Posts s t := by
  unfold State.flushOne at h
  split at h
  · exact writeOne hr h
  · exact absurd h nofun

theorem drain (s : State) : Posts s (s.drain r) :=
  ite (repeatStep (fun _ _ h => flushOne hr h) _ s) refl

omit hr in
theorem cqWait (s : State) (r : Nat) : Posts s (s.cqWait r) := ite refl (evSet_host s 2)

theorem flush (s : State) : Posts s (s.flush r) := by
  unfold State.flush
  dsimp only
  exact ite ((drain hr s).trans (cqWait _ r)) (drain hr s)

theorem post (s : State) (e : Entry) : Posts s (s.post r e) :=
  .trans (.trans (setRing s r (g := { s.ring r with waitq := (s.ring r).waitq ++ [e] }) rfl) (drain hr _)) (cqWait _ r)

theorem respond (s : State) (opcode part seq tag : Nat) (o : Compl) (start : Nat) :
    Posts s (s.respond r opcode part seq tag o start) := post hr s _

theorem vent (s : State) (opcode part : Nat) (body : List Byte) : Posts s (s.vent r opcode part body) := by
  unfold State.vent
  exact ite (post hr s _) refl

omit hr in
theorem ventAll (s : State) {rs : List Nat} (hrs : ∀ r ∈ rs, r < 9) (opcode part : Nat) (body : List Byte) :
    Posts s (s.ventAll rs opcode part body) := foldl rs (fun x r h => vent (hrs r h) x opcode part body) s

end
end Posts

end Sys2Proof.Machine
end

section
/-! SUPPORT. Authority between the halves (R374 to R377): what a tick judges, what a word brings, and how a die enters
SAFE; and the statement about them. -/
set_option Elab.async false

namespace Sys2Proof.Machine

variable {s t : State} {d cause : Nat} {fromPeer : Bool} {w : BitVec 64}

theorem Moves.setDev (s : State) (x : Dev) : Moves [.dev] s (s.setDev x) := by
  intro f hf
  cases f with
  | dev => exact absurd List.mem_cons_self hf
  | _ => rfl

/-! ## Words that are sent -/

/-- The other die's word is due: one more is counted as sent. -/
theorem State.authSend_frame (s : State) (d : Nat) :
    ((s.authSend d).die d).auth = { (s.die d).auth with sent := (s.die d).auth.sent + 1 } ∧
      Moves [.west, .east, .bus] s (s.authSend d) := by
  have hb : Moves [.bus] _ (s.authSend d) := .ofBusOnly .count32
  exact ⟨by rw [hb.die, State.die_modDie], (Moves.modDie s d _).mono.andThen hb⟩

theorem State.canon_modAuth (c : s.Canon) (d : Nat) (f : Auth → Auth) :
    (s.modDie d fun x => { x with auth := f x.auth }).Canon := State.canon_setDie c (State.twf_words c d)

/-- The word sent is counted in the die's record. -/
def Auth.sending (a : Auth) : Auth := { a with sent := a.sent + 1 }

theorem State.authSend_eq (s : State) (d : Nat) :
    s.authSend d = (s.modDie d fun x => { x with auth := x.auth.sending }).count32 .d2d d 0x64 1 := rfl

theorem State.canon_authSend (c : s.Canon) (d : Nat) : (s.authSend d).Canon := by
  rw [State.authSend_eq]
  exact State.canon_setPg (State.canon_modAuth c d Auth.sending) ..

/-- Sending a word moves no event of its page. -/
theorem State.pg_authSend (c : s.Canon) (d d' : Nat) : (s.authSend d).pg .mgt d' 0x14 = s.pg .mgt d' 0x14 := by
  rw [State.authSend_eq, State.count32, State.pg_setPg_ne (State.canon_modAuth c d Auth.sending) _ (by omega)]
  exact (Moves.modDie s d _).pg (by decide) ..

/-! ## SAFE -/

/-- The record of a die that enters SAFE, its word made of the one it had. -/
def Auth.entering (a : Auth) (own : BitVec 64) (now cause : Nat) (fromPeer : Bool) : Auth :=
  { a with inSafe := true, cause := cause, safeAt := now, fromPeer := fromPeer,
           own := authSeal (setBits (own.toNat ||| 2 ^ 35) 38 36 cause) }

/-- A die with its record, and the device's fault pin driven. -/
def State.enteringDie (s : State) (d cause : Nat) (fromPeer : Bool) : State :=
  let x := s.modDie d fun x => { x with auth := x.auth.entering (s.die d).auth.own s.now cause fromPeer }
  x.setDev { x.dev with faultN := true }

/-- Its event set and its word sent. -/
def State.entering (s : State) (d cause : Nat) (fromPeer : Bool) : State :=
  ((s.enteringDie d cause fromPeer).evSet .mgt d 3).authSend d

theorem State.enteringDie_frame (s : State) (d cause : Nat) (fromPeer : Bool) :
    ((s.enteringDie d cause fromPeer).die d).auth =
        (s.die d).auth.entering (s.die d).auth.own s.now cause fromPeer ∧
      (s.enteringDie d cause fromPeer).dev = { s.dev with faultN := true } := by
  have hm := Moves.modDie s d fun x => { x with auth := x.auth.entering (s.die d).auth.own s.now cause fromPeer }
  have hdie := State.die_modDie s d fun x =>
    { x with auth := x.auth.entering (s.die d).auth.own s.now cause fromPeer }
  exact ⟨congrArg DieSt.auth hdie, congrArg (fun z : Dev => { z with faultN := true }) hm.dev⟩

theorem State.canon_entering (c : s.Canon) : (s.entering d cause fromPeer).Canon := by
  have cx : (s.enteringDie d cause fromPeer).Canon :=
    { State.canon_modAuth c d (Auth.entering · (s.die d).auth.own s.now cause fromPeer) with }
  exact State.canon_authSend ((Keeps.evSet .refl).canon cx) d

theorem State.entering_frame (s : State) (d cause : Nat) (fromPeer : Bool) :
    ((s.entering d cause fromPeer).die d).auth =
        ((s.die d).auth.entering (s.die d).auth.own s.now cause fromPeer).sending ∧
      (s.entering d cause fromPeer).dev = { s.dev with faultN := true } := by
  obtain ⟨hdie, hdev⟩ := s.enteringDie_frame d cause fromPeer
  unfold State.entering
  generalize s.enteringDie d cause fromPeer = x at hdie hdev
  have he : Moves [.bus] x (x.evSet .mgt d 3) := Moves.evSet _ nofun
  obtain ⟨hauth, hm⟩ := State.authSend_frame (x.evSet .mgt d 3) d
  rw [hauth, hm.dev, he.die, he.dev, hdie, hdev]
  exact ⟨rfl, rfl⟩

/-- The entry that tells of SAFE on a completion ring where nothing waits. -/
def State.tellSafe (body : List Byte) (s : State) (r : Nat) : State :=
  if s.ringEn r ∧ (s.ring r).waitq.isEmpty then
    (s.writeOne r { bytes := entryBytes (s.ringVer r) 0xFF 0x8006 0x4000 0 0 body, ans := none, urgent := true }
      []).getD s
  else s

theorem Posts.tellSafe {r : Nat} (s : State) (body : List Byte) (hr : r < 9) : Posts s (s.tellSafe body r) := by
  refine .ite ?_ .refl
  cases hw : s.writeOne r _ [] with
  | none => exact .refl
  | some t => exact Posts.writeOne hr hw

/-- The device in SAFE with West, told on each completion ring. -/
def State.toldSafe (s : State) (d cause : Nat) : State :=
  if d = 0 then
    let s := s.setDev { s.dev with state := .safe }
    let body := leBytes 8 cause ++ leBytes 8 s.now
    (8 :: List.range 8).foldl (State.tellSafe body) s
  else s

theorem State.toldSafe_frame (c : s.Canon) : (s.toldSafe d cause).die d = s.die d ∧
    (s.toldSafe d cause).dev.faultN = s.dev.faultN ∧ (d = 0 → (s.toldSafe d cause).dev.state = .safe) := by
  unfold State.toldSafe
  dsimp only
  split
  case isTrue hd =>
    have cx : (s.setDev { s.dev with state := .safe }).Canon := { c with }
    have hr (body : List Byte) : ∀ y : State, ∀ r ∈ 8 :: List.range 8, Posts y (y.tellSafe body r) := by
      intro y r hr
      rw [List.mem_cons, List.mem_range] at hr
      exact Posts.tellSafe y body (by omega)
    generalize leBytes 8 cause ++ leBytes 8 _ = body
    have hm := (Posts.foldl (8 :: List.range 8) (hr body) _ cx).moves
    rw [hm.die, hm.dev]
    exact ⟨rfl, rfl, fun _ => rfl⟩
  case isFalse hd => exact ⟨rfl, rfl, fun h => absurd h hd⟩

theorem State.enterSafe_eq (hs : (s.die d).auth.inSafe = false) :
    s.enterSafe d cause fromPeer = (s.entering d cause fromPeer).toldSafe d cause := if_neg (by simp [hs])

/-- A die that enters SAFE has its record; the device's fault pin is driven, and West makes the device SAFE. -/
theorem State.enterSafe_enters (c : s.Canon) (hs : (s.die d).auth.inSafe = false) (cause : Nat) (fromPeer : Bool) :
    let t := s.enterSafe d cause fromPeer
    (t.die d).auth = ((s.die d).auth.entering (s.die d).auth.own s.now cause fromPeer).sending ∧
      t.dev.faultN = true ∧ (d = 0 → t.dev.state = .safe) := by
  obtain ⟨hauth, hdev⟩ := State.entering_frame s d cause fromPeer
  obtain ⟨hdie, hpin, hsafe⟩ := State.toldSafe_frame (d := d) (cause := cause)
    (State.canon_entering (d := d) (cause := cause) (fromPeer := fromPeer) c)
  dsimp only
  rw [State.enterSafe_eq hs, hdie, hauth, hpin, hdev]
  exact ⟨rfl, rfl, hsafe⟩

/-! ## The window that a tick judges -/

/-- The window since the last tick brought no matching word. -/
def Auth.missed (a : Auth) : Bool := !a.arrived || !authMatch a.own a.peer

/-- The record once the window is judged. -/
def Auth.judged (a : Auth) : Auth :=
  { a with arrived := false, run := if a.missed then min (a.run + 1) 3 else 0,
           total := min (a.total + b2n a.missed) (2 ^ 30 - 1) }

/-- A die with its window judged, the event with it where nothing matched. -/
def State.judged (s : State) (d : Nat) : State :=
  let x := s.modDie d fun x => { x with auth := x.auth.judged }
  if (s.die d).auth.missed then x.evSet .mgt d 2 else x

theorem State.judged_frame (s : State) (d : Nat) : ((s.judged d).die d).auth = (s.die d).auth.judged ∧
    Moves [.west, .east, .bus] s (s.judged d) := by
  have hx := Moves.modDie s d fun x => { x with auth := x.auth.judged }
  have he : Moves [.bus] (s.modDie d fun x => { x with auth := x.auth.judged }) (s.judged d) :=
    .ite (.evSet _ nofun) .refl
  exact ⟨by rw [he.die, State.die_modDie], hx.mono.andThen he⟩

theorem State.canon_judged (c : s.Canon) : (s.judged d).Canon := by
  have cx : (s.modDie d fun x => { x with auth := x.auth.judged }).Canon := State.canon_setDie c (State.twf_words c d)
  unfold State.judged
  dsimp only
  split
  · exact (Keeps.evSet .refl).canon cx
  · exact cx

/-- A window without a matching word sets its event. -/
theorem State.bit_judged (c : s.Canon) (h : (s.die d).auth.missed = true) :
    bit ((s.judged d).pg .mgt d 0x14) 2 = true := by
  unfold State.judged
  rw [if_pos h]
  exact State.bit_evSet_self (State.canon_setDie c (State.twf_words c d)) nofun (by decide)

/-- What the judged window makes of the die: SAFE after three windows, or with two claims or none. -/
theorem State.authJudge_eq (s : State) (d : Nat) :
    let a := (s.die d).auth
    s.authJudge d =
      if a.judged.run = 3 then (s.judged d).enterSafe d 1 false
      else if a.arrived && a.claim && authClaim a.peer then (s.judged d).enterSafe d 2 false
      else if a.arrived && !a.claim && !authClaim a.peer then (s.judged d).enterSafe d 3 false
      else s.judged d := rfl

section
variable (c : s.Canon) (hf : s.dev.failed = false) (hp : 7 ≤ s.dev.phase) (hs : (s.die d).auth.inSafe = false)
include hf hp hs

/-- In service, and not in SAFE, a tick judges and sends. -/
theorem execAuthTick_eq : execAuthTick d s = .next ((s.authJudge d).authSend d) := by
  have h6 : s.dev.phase ≠ 6 := by omega
  simp [execAuthTick, hf, hp, hs, h6]

/-- A window that makes the die SAFE with no cause. -/
theorem execAuthTick_stays (hrun : (s.die d).auth.judged.run ≠ 3)
    (hclaim : (s.die d).auth.arrived = true → (s.die d).auth.claim ≠ authClaim (s.die d).auth.peer) :
    ∃ t, execAuthTick d s = .next t ∧ t.mem = s.mem ∧ t.dev = s.dev ∧
      (t.die d).auth = { (s.die d).auth.judged with sent := (s.die d).auth.sent + 1 } ∧
      (s.Canon → (s.die d).auth.missed = true → bit (t.pg .mgt d 0x14) 2 = true) := by
  have hj : s.authJudge d = s.judged d := by
    rw [State.authJudge_eq]
    cases ha : (s.die d).auth.arrived with
    | false => simp [hrun]
    | true =>
      have hne := hclaim ha
      generalize (s.die d).auth.claim = x at *
      generalize authClaim (s.die d).auth.peer = y at *
      cases x <;> cases y <;> simp_all
  obtain ⟨hauth, hm⟩ := State.judged_frame s d
  obtain ⟨hsent, hms⟩ := State.authSend_frame (s.judged d) d
  refine ⟨_, (execAuthTick_eq hf hp hs).trans (by rw [hj]), hms.mem.trans hm.mem, hms.dev.trans hm.dev, ?_, ?_⟩
  · rw [hsent, hauth]
    rfl
  · intro c hmiss
    rw [State.pg_authSend (State.canon_judged c)]
    exact State.bit_judged c hmiss

/-- A window that makes the die SAFE. -/
theorem execAuthTick_safe (c : s.Canon) (hj : s.authJudge d = (s.judged d).enterSafe d cause false) :
    ∃ t, execAuthTick d s = .next t ∧ (t.die d).auth.inSafe = true ∧ (t.die d).auth.cause = cause ∧
      t.dev.faultN = true ∧ (d = 0 → t.dev.state = .safe) := by
  have hns : ((s.judged d).die d).auth.inSafe = false := by
    rw [(State.judged_frame s d).1]
    exact hs
  obtain ⟨hauth, hpin, hsafe⟩ := State.enterSafe_enters (State.canon_judged c) hns cause false
  obtain ⟨hsent, hms⟩ := State.authSend_frame (s.authJudge d) d
  rw [hj] at hsent hms
  refine ⟨_, (execAuthTick_eq hf hp hs).trans (by rw [hj]), ?_, ?_, ?_, fun hd => ?_⟩
  · rw [hsent, hauth]
    rfl
  · rw [hsent, hauth]
    rfl
  · rw [hms.dev]
    exact hpin
  · rw [hms.dev]
    exact hsafe hd

/-! ## Words that arrive -/

omit hs in
/-- A good word in service is kept; one that says its sender is SAFE acts. -/
theorem authArrive_good (hw : Stated.goodWord w) : s.authArrive d w =
    let x := s.modDie d fun x => { x with auth := { x.auth with peer := w, arrived := true } }
    if bit w.toNat 35 then x.enterSafe d (bits w.toNat 38 36) true else x := by
  have hcrc : authCrcOk w = true := by
    rw [authCrcOk, beq_iff_eq]
    exact hw
  have h6 : s.dev.phase ≠ 6 := by omega
  simp only [State.authArrive, hcrc, hf, Bool.not_true, Bool.false_eq_true, or_self, if_false, h6, hp, if_true]

end

/-- Settles O42. -/
theorem authorityIsWatched : Obligations.AuthorityIsWatched := by
  intro s d
  dsimp only
  intro c hd hf hp hs
  have hjudged : (s.die d).auth.judged.run = if (s.die d).auth.missed then min ((s.die d).auth.run + 1) 3 else 0 := rfl
  refine ⟨fun harr hrun => ?_, fun harr hrun => ?_, fun harr hmatch hclaim => ?_, fun harr hmatch hclaim hrun => ?_,
    fun harr hclaim hor => ?_, fun w hw hb => ?_, fun w hw hb => ?_, fun w hw => ?_⟩
  · have hmiss : (s.die d).auth.missed = true := by simp [Auth.missed, harr]
    rw [hmiss, if_pos rfl] at hjudged
    obtain ⟨t, hex, -, hdev, hauth, hbit⟩ := execAuthTick_stays hf hp hs (by omega) (by simp [harr])
    refine ⟨t, hex, hauth.trans ?_, hbit c hmiss, hdev⟩
    simp only [Auth.judged, hmiss, if_true, b2n]
    congr 1
    omega
  · have hmiss : (s.die d).auth.missed = true := by simp [Auth.missed, harr]
    rw [hmiss, if_pos rfl, hrun] at hjudged
    refine (execAuthTick_safe hf hp hs (cause := 1) c ?_).imp fun t h => ?_
    · rw [State.authJudge_eq]
      exact if_pos hjudged
    · obtain ⟨hex, hin, hcause, hpin, hsafe⟩ := h
      exact ⟨hex, hin, hcause, hpin, hsafe⟩
  · have hmiss : (s.die d).auth.missed = false := by simp [Auth.missed, harr, hmatch]
    rw [hmiss, if_neg nofun] at hjudged
    obtain ⟨t, hex, hmem, -, hauth, -⟩ := execAuthTick_stays hf hp hs (by omega) fun _ => hclaim
    exact ⟨t, hex, hmem, hauth.trans (by simp [Auth.judged, hmiss, b2n])⟩
  · have hmiss : (s.die d).auth.missed = true := by simp [Auth.missed, hmatch]
    rw [hmiss, if_pos rfl] at hjudged
    obtain ⟨t, hex, -, hdev, hauth, hbit⟩ := execAuthTick_stays hf hp hs (by omega) fun _ => hclaim
    refine ⟨t, hex, hdev, hbit c hmiss, hauth.trans ?_⟩
    simp only [Auth.judged, hmiss, if_true, b2n]
    congr 1
    omega
  · have hrun : (s.die d).auth.judged.run ≠ 3 := by
      rw [hjudged]
      obtain hm | hr := hor
      · simp [Auth.missed, harr, hm]
      · split <;> omega
    refine (execAuthTick_safe hf hp hs (cause := if (s.die d).auth.claim then 2 else 3) c ?_).imp fun t h => ?_
    · rw [State.authJudge_eq, if_neg hrun, ← hclaim, harr]
      cases (s.die d).auth.claim <;> rfl
    · obtain ⟨hex, hin, hcause, hpin, -⟩ := h
      exact ⟨hex, hin, hcause, hpin⟩
  · have hm := Moves.modDie s d fun x => { x with auth := { x.auth with peer := w, arrived := true } }
    refine ⟨_, congrArg Host.Outcome.next ((authArrive_good hf hp hw).trans (if_neg (by simp [hb]))), ?_, hm.mem,
      hm.dev⟩
    rw [State.die_modDie]
  · have cx : (s.modDie d fun x => { x with auth := { x.auth with peer := w, arrived := true } }).Canon :=
      State.canon_setDie c (State.twf_words c d)
    have hns : ((s.modDie d fun x => { x with auth := { x.auth with peer := w, arrived := true } }).die d).auth.inSafe
        = false := by
      rw [State.die_modDie]
      exact hs
    obtain ⟨hauth, -, -⟩ := State.enterSafe_enters cx hns (bits w.toNat 38 36) true
    refine ⟨_, congrArg Host.Outcome.next ((authArrive_good hf hp hw).trans (if_pos hb)), ?_⟩
    rw [hauth]
    exact ⟨rfl, rfl, rfl⟩
  · have hcrc : authCrcOk w = false := by
      rw [authCrcOk, beq_eq_false_iff_ne]
      exact hw
    exact congrArg Host.Outcome.next (by simp [State.authArrive, hcrc])

end Sys2Proof.Machine
end

section
/-! SUPPORT. Bring-up (Table 17.1, R372, R373, R376, R393, R420): what ends and what fails each phase, and the statement
about them. -/
set_option Elab.async false

namespace Sys2Proof.Machine

variable {s t : State} {d n cause detail : Nat}

/-! ## BOOT_STAT and phases that fail -/

@[simp] theorem State.dev_setBoot (s : State) (n cause detail : Nat) :
    (s.setBoot n cause detail).dev = { s.dev with phase := n } := rfl

theorem Moves.setBoot (s : State) (n cause detail : Nat) : Moves [.dev, .bus] s (s.setBoot n cause detail) :=
  (Moves.setDev s _).mono.andThen (.setPg _ _ _ _ _)

theorem State.canon_setBoot (c : s.Canon) (n cause detail : Nat) : (s.setBoot n cause detail).Canon :=
  State.canon_setPg (s := s.setDev { s.dev with phase := n }) { c with } ..

theorem State.pg_setBoot (c : s.Canon) (n cause detail : Nat) :
    (s.setBoot n cause detail).pg .mgt 0 0x40 = (n + cause * 16 + detail % 256 * 256) % 2 ^ 32 :=
  State.pg_setPg (s := s.setDev { s.dev with phase := n }) { c with } ..

/-- A phase of bring-up that fails does so as the statements have it. -/
theorem State.failBoot_fails (c : s.Canon) (hn : s.dev.phase < 16) (hcause : cause < 16)
    (hst : s.dev.phase = t.dev.phase) :
    Stated.BootFails t (s.failBoot cause detail) cause detail := by
  refine ⟨rfl, rfl, rfl, ?_⟩
  have hpg := State.pg_setBoot c s.dev.phase cause detail
  rw [← hst]
  refine Eq.trans ?_ (hpg.trans (Nat.mod_eq_of_lt (by omega)))
  rfl

section
variable (h : Stated.Phase s n)
include h

theorem booting_canon : s.Canon := by
  obtain ⟨c, -, -, -⟩ := h
  exact c

theorem booting_phase : s.dev.phase = n := by
  obtain ⟨-, hp, -, -⟩ := h
  exact hp

theorem booting_going : s.dev.failed = false := by
  obtain ⟨-, -, hf, -⟩ := h
  exact hf

theorem booting_inPhase : s.inPhase n = true := by
  obtain ⟨-, hp, hf, hr⟩ := h
  simp [State.inPhase, hp, hf, hr]
end

/-- A phase's state of the device alone says that it goes on. -/
theorem State.inPhase_of_dev (h : t.dev = s.dev) (n : Nat) : t.inPhase n = s.inPhase n := by
  rw [State.inPhase, h, ← State.inPhase]

/-! ## Phase 1 -/

/-- The PLLs of a die that have locked. -/
def State.locking (s : State) (d m : Nat) : State :=
  s.modDie d fun x => { x with therm := { x.therm with locked := x.therm.locked ||| m % 2 ^ 14 } }

/-- Bits 1 to 3 of a mask of lock bits are all set. -/
theorem and_or_mask {m k : Nat} (hk : 4 ≤ k) (hm : m % 16 / 2 = 7) (x : Nat) : (x ||| m % 2 ^ k) &&& 14 = 14 := by
  have hbit (i : Nat) (hi : i < 4) (h0 : i ≠ 0) : m.testBit i = true := by
    rw [Nat.testBit_eq_decide_div_mod_eq, decide_eq_true_eq]
    have hi' : i = 1 ∨ i = 2 ∨ i = 3 := by omega
    obtain rfl | rfl | rfl := hi' <;> omega
  have hfour (i : Nat) : (14 : Nat).testBit i = decide (i = 1 ∨ i = 2 ∨ i = 3) := by
    by_cases hi : i < 4
    · have hi' : i = 0 ∨ i = 1 ∨ i = 2 ∨ i = 3 := by omega
      obtain rfl | rfl | rfl | rfl := hi' <;> rfl
    · rw [Nat.testBit_eq_false_of_lt (n := 14) (lt_of_lt_of_le (by decide : 14 < 2 ^ 4)
        (Nat.pow_le_pow_right (by decide) (by omega)))]
      exact (decide_eq_false (by omega)).symm
  refine Nat.eq_of_testBit_eq fun i => ?_
  rw [Nat.testBit_and, Nat.testBit_or, Nat.testBit_mod_two_pow, hfour]
  by_cases hi : i = 1 ∨ i = 2 ∨ i = 3
  · rw [hbit i (by omega) (by omega), decide_eq_true (show i < k by omega), decide_eq_true hi]
    simp
  · rw [decide_eq_false hi, Bool.and_false]

/-- Phase 1 ends with the PLLs of both dies. -/
theorem execPllLock_ends (h : Stated.Phase s 1) {w e : Nat} (hw : w % 16 / 2 = 7) (he : e % 16 / 2 = 7) :
    ∃ t, execPllLock w e s = .next t ∧ t.dev.phase = 2 ∧ t.dev.state = s.dev.state ∧ t.mem = s.mem ∧
      ∀ i, i < 13 → bit t.west.therm.locked i = (bit s.west.therm.locked i || bit w i) := by
  let x := (s.locking 0 w).locking 1 (e % 2 ^ 13)
  have hm : Moves [.west, .east] s x := (Moves.modDie s 0 _).andThen (Moves.modDie _ 1 _)
  have hwest : x.west.therm.locked = s.west.therm.locked ||| w % 2 ^ 14 := rfl
  have heast : x.east.therm.locked = s.east.therm.locked ||| e % 2 ^ 13 % 2 ^ 14 := rfl
  have hok : x.west.therm.locked &&& 14 = 14 ∧ x.east.therm.locked &&& 14 = 14 := by
    rw [hwest, heast, Nat.mod_eq_of_lt (a := e % 2 ^ 13) (by omega)]
    exact ⟨and_or_mask (by decide) hw _, and_or_mask (by decide) he _⟩
  have hphase : x.inPhase 1 = true := (State.inPhase_of_dev hm.dev 1).trans (booting_inPhase h)
  have hgo : execPllLock w e s = .next (x.setBoot 2 0 0) := by
    unfold execPllLock
    rw [if_pos (by rw [booting_phase h])]
    refine congrArg Host.Outcome.next (if_pos ⟨hphase, ?_, ?_⟩)
    · exact beq_iff_eq.mpr hok.1
    · exact beq_iff_eq.mpr hok.2
  refine ⟨_, hgo, rfl, (congrArg Dev.state hm.dev :), hm.mem, fun i hi => ?_⟩
  change bit x.west.therm.locked i = _
  rw [hwest, bit_eq_testBit, bit_eq_testBit, bit_eq_testBit, Nat.testBit_or, Nat.testBit_mod_two_pow,
    decide_eq_true (show i < 14 by omega), Bool.true_and]

/-! ## Phase 2 -/

section
variable {m : MapCause} (hm : m.atReset = true)

theorem Moves.foldr {α : Type} {l : List Field} {f : α → State → State} (hf : ∀ a x, Moves l x (f a x)) (as : List α)
    (s : State) : Moves l s (as.foldr f s) := by
  induction as with
  | nil => exact .refl
  | cons a as ih => exact ih.andThen (hf a _) (List.Subset.refl l)

theorem Moves.setMaps (s : State) (x : Maps) : Moves [.maps] s (s.setMaps x) := by
  intro f hf
  cases f with
  | maps => exact absurd List.mem_cons_self hf
  | _ => rfl

theorem Moves.setHealth (s : State) (x : Health) : Moves [.health] s (s.setHealth x) := by
  intro f hf
  cases f with
  | health => exact absurd List.mem_cons_self hf
  | _ => rfl

theorem Moves.setStk (s : State) (x : Stacks) : Moves [.stk] s (s.setStk x) := by
  intro f hf
  cases f with
  | stk => exact absurd List.mem_cons_self hf
  | _ => rfl

/-- A substitution is logged in the spare-use log, with an event of the Pyrometer. -/
theorem Moves.splog (s : State) (typ inst spare action source : Nat) :
    Moves [.bus, .health] s (s.splog typ inst spare action source) :=
  .ite ((Moves.setHealth s _).mono.andThen (.evSet _ nofun)) ((Moves.setHealth s _).mono.andThen (.evSet _ nofun))

include hm

theorem Moves.mapUse (s : State) (typ inst spare logical action : Nat) :
    Moves [.bus, .health] s (s.mapUse m typ inst spare logical action) := by
  unfold State.mapUse
  rw [if_pos hm]
  exact .ite .refl (.splog s _ _ _ _ _)

/-- At a reset the maps and the log are all that a substitution moves. -/
theorem Moves.substitute (s : State) (x : Maps) (typ inst spare logical action : Nat) :
    Moves [.maps, .bus, .health] s ((s.setMaps x).mapUse m typ inst spare logical action) :=
  (Moves.setMaps s x).mono.andThen (.mapUse hm _ _ _ _ _ _)

theorem Moves.mapCluster (s : State) (c logical : Nat) :
    Moves [.maps, .bus, .health] s (s.mapCluster m c logical) := by
  unfold State.mapCluster
  refine .ite .refl ?_
  dsimp only
  split
  · next k _ =>
    have hcore : Moves [.maps, .bus, .health] s
        (if k < 32 ∧ tget 0x3F s.maps.coreStand c ≠ k then
          (s.setMaps { s.maps with coreStand := tput 0x3F s.maps.coreStand c k }).mapUse m 0x20
            (c * 64 + k) (c * 64 + 32) k 1
        else s) := .ite (.substitute hm s _ _ _ _ _ _) .refl
    exact .ite (hcore.andThen (.substitute hm _ _ _ _ _ _ _)) hcore
  · exact .ite (.substitute hm s _ _ _ _ _ _) .refl

theorem Moves.withdrawClusters (s : State) : Moves [.maps, .bus, .health] s (s.withdrawClusters m) :=
  .foldl (fun x _ => .ite (.substitute hm x _ _ _ _ _ _) .refl) _ s

theorem Moves.mapTiles (s : State) (d : Nat) : Moves [.maps, .bus, .health] s (s.mapTiles m d) := by
  refine .foldl (fun x i => .ite ?_ .refl) _ s
  dsimp only
  split
  · exact .substitute hm x _ _ _ _ _ _
  · exact .substitute hm x _ _ _ _ _ _

theorem Moves.mapFum (s : State) (n : Nat) : Moves [.maps, .bus, .health] s (s.mapFum m n) := by
  refine .foldl (fun x u => ?_) _ s
  dsimp only
  refine .ite (.ite (.ite .refl (.substitute hm x _ _ _ _ _ _)) (.ite .refl (.ite ?_ ?_))) .refl
  · exact .substitute hm x _ _ _ _ _ _
  · exact .substitute hm x _ _ _ _ _ _

omit hm in
theorem Moves.closeUp (s : State) : Moves [.maps, .bus, .health] s s.closeUp :=
  (Moves.foldr (l := [.maps, .bus, .health]) (fun _ x => .ite ((Moves.setMaps x _).mono) .refl) _ s).andThen
    (Moves.foldr (l := [.maps, .bus, .health]) (fun _ x => .ite ((Moves.setMaps x _).mono) .refl) _ _)

theorem Moves.remap (s : State) (own : List Nat) : Moves [.maps, .bus, .health] s (s.remap m own) :=
  (((((Moves.foldl (fun x _ => .mapCluster hm x _ _) own s).andThen (.withdrawClusters hm _)).andThen
    (.mapTiles hm _ 0)).andThen (.mapTiles hm _ 1)).andThen
      (.foldl (fun x n => .mapFum hm x n) _ _)).andThen (.closeUp _)
end

/-- Channels withdrawn before READY move the maps, the granules and the log. -/
theorem Moves.bringupWithdraw (s : State) (n c source : Nat) :
    Moves [.maps, .stk, .bus, .health] s (s.bringupWithdraw n c source) := by
  unfold State.bringupWithdraw
  refine .ite .refl ?_
  dsimp only
  have hgone := ((Moves.setMaps s { s.maps with chGone := s.maps.chGone ++ [n * 32 + c] }).mono
    (l' := [.maps, .stk, .bus, .health])).andThen (Moves.foldl (l := [.stk])
      (f := fun x k => x.setOwner k 0xE) (fun x k => .setStk x _) (channelGranules n c) _)
  exact .ite (hgone.andThen (.mapUse rfl _ _ _ _ _ _)) (hgone.andThen (.splog _ _ _ _ _ _))

theorem Moves.applyRepair (s : State) : Moves [.maps, .stk, .bus, .health] s s.applyRepair :=
  ((Moves.mono (.setMaps s _)).andThen
    (Moves.foldl (fun x c => .bringupWithdraw x (c / 32) (c % 32) 1) _ _)).andThen (Moves.remap rfl _ _)

/-- The role that a die's sensed configuration gives it. -/
def Otp.role (o : Otp) : Bool :=
  decide (o.cfgGen ≠ 7) && leNat (fuseBytes o.sensed (0xB40 + o.cfgGen * 0x100 + 2) 1) == 1

/-- The fuses of both dies are sensed, and debug starts as they have it. -/
def State.sensing (s : State) : State :=
  let s := s.modDie 0 fun x => { x with otp := x.otp.sense true }
  let s := s.modDie 1 fun x => { x with otp := x.otp.sense false }
  s.setDbg (s.dbg.start s.west.otp.fieldLock)

/-- Each die has its role, and its claim with it. -/
def State.roles (s : State) : State :=
  let s := s.modDie 0 fun x =>
    { x with auth := { x.auth with rolePrimary := x.otp.role, claim := x.auth.primarySel && x.otp.role } }
  s.modDie 1 fun x =>
    { x with auth := { x.auth with rolePrimary := x.otp.role, claim := x.auth.primarySel && x.otp.role } }

theorem State.role_eq (s : State) (d : Nat) :
    ((s.die d).otp.cfgGen != 7 && s.cfgFld d 2 1 == 1) = (s.die d).otp.role := by
  unfold State.cfgFld Otp.role
  by_cases hg : (s.die d).otp.cfgGen = 7
  · simp [hg]
  · have hne : ((s.die d).otp.cfgGen != 7) = true := bne_iff_ne.mpr hg
    rw [hne, if_neg hg, decide_eq_true hg]
    rfl

theorem find?_range_two (q : Nat → Bool) :
    (List.range 2).find? q = if q 0 = true then some 0 else if q 1 = true then some 1 else none := by
  rw [show List.range 2 = [0, 1] from rfl, List.find?_cons, List.find?_cons, List.find?_nil]
  cases q 0 <;> cases q 1 <;> rfl

/-- Phase 2 passes: the repair maps are applied and the time starts. -/
def State.assayNext (s : State) : State :=
  let s := s.applyRepair
  (s.setDev { s.dev with timeRun := true, time := 0, state := .assay }).setBoot 3 0 0

/-- What phase 2 makes of the dies once they have their roles. -/
def State.judgeFuses (s : State) : Host.Outcome State Fault Refusal :=
  let first (q : Nat → Bool) : Option Nat := (List.range 2).find? q
  match first fun d => !((s.die d).otp.idOk && (s.die d).otp.trimOk) with
  | some d => .next (s.failBoot 1 d)
  | none =>
  match first fun d => (s.die d).otp.cfgGen == 7 with
  | some d => .next (s.failBoot 2 d)
  | none =>
    match first fun d => (s.die d).auth.primarySel != (s.die d).auth.rolePrimary with
    | some d => .next (s.failBoot 7 d)
    | none => .next s.assayNext

theorem execOtpSense_eq (h : Stated.Phase s 2) : execOtpSense s = s.sensing.roles.judgeFuses := by
  unfold execOtpSense
  rw [if_pos (booting_inPhase h)]
  have hrole := s.sensing.role_eq
  have hroles : s.sensing.roles = (s.sensing.modDie 0 fun x => { x with auth := { x.auth with
      rolePrimary := (s.sensing.die 0).otp.role, claim := x.auth.primarySel && (s.sensing.die 0).otp.role } }).modDie 1
        fun x => { x with auth := { x.auth with
          rolePrimary := (s.sensing.die 1).otp.role, claim := x.auth.primarySel && (s.sensing.die 1).otp.role } } := rfl
  rw [hroles, ← hrole 0, ← hrole 1]
  rfl

/-- The dies with their fuses sensed and their roles. -/
theorem State.sensing_roles (s : State) :
    s.sensing.roles.west.otp = s.west.otp.sense true ∧ s.sensing.roles.east.otp = s.east.otp.sense false ∧
      s.sensing.roles.west.auth = { s.west.auth with
        rolePrimary := (s.west.otp.sense true).role, claim := s.west.auth.primarySel && (s.west.otp.sense true).role } ∧
      s.sensing.roles.east.auth = { s.east.auth with
        rolePrimary := (s.east.otp.sense false).role,
        claim := s.east.auth.primarySel && (s.east.otp.sense false).role } ∧
      s.sensing.roles.dev = s.dev := ⟨rfl, rfl, rfl, rfl, rfl⟩

theorem State.canon_sensing_roles (c : s.Canon) : s.sensing.roles.Canon := { c with }

/-- The judgement in the words of the two dies. -/
theorem State.judgeFuses_eq (s : State) : s.judgeFuses =
    if (!(s.west.otp.idOk && s.west.otp.trimOk)) = true ∨ (!(s.east.otp.idOk && s.east.otp.trimOk)) = true then
      .next (s.failBoot 1 (if (!(s.west.otp.idOk && s.west.otp.trimOk)) = true then 0 else 1))
    else if (s.west.otp.cfgGen == 7) = true ∨ (s.east.otp.cfgGen == 7) = true then
      .next (s.failBoot 2 (if (s.west.otp.cfgGen == 7) = true then 0 else 1))
    else if (s.west.auth.primarySel != s.west.auth.rolePrimary) = true ∨
        (s.east.auth.primarySel != s.east.auth.rolePrimary) = true then
      .next (s.failBoot 7 (if (s.west.auth.primarySel != s.west.auth.rolePrimary) = true then 0 else 1))
    else .next s.assayNext := by
  have hw : s.die 0 = s.west := rfl
  have he : s.die 1 = s.east := rfl
  unfold State.judgeFuses
  dsimp only
  rw [find?_range_two, find?_range_two, find?_range_two, hw, he]
  by_cases hwg : (!(s.west.otp.idOk && s.west.otp.trimOk)) = true
  · simp only [hwg, if_true, true_or]
  by_cases heg : (!(s.east.otp.idOk && s.east.otp.trimOk)) = true
  · simp only [hwg, heg, if_true, if_false, or_true, Bool.false_eq_true]
  by_cases hwc : (s.west.otp.cfgGen == 7) = true
  · simp only [hwg, heg, hwc, if_true, if_false, true_or, or_self, Bool.false_eq_true]
  by_cases hec : (s.east.otp.cfgGen == 7) = true
  · simp only [hwg, heg, hwc, hec, if_true, if_false, or_true, or_self, Bool.false_eq_true]
  by_cases hwr : (s.west.auth.primarySel != s.west.auth.rolePrimary) = true
  · simp only [hwg, heg, hwc, hec, hwr, if_true, if_false, true_or, or_self, Bool.false_eq_true]
  by_cases her : (s.east.auth.primarySel != s.east.auth.rolePrimary) = true
  · simp only [hwg, heg, hwc, hec, hwr, her, if_true, if_false, or_true, or_self, Bool.false_eq_true]
  · simp only [hwg, heg, hwc, hec, hwr, her, if_false, or_self, Bool.false_eq_true]

/-- A phase that has not failed passes its fuses on to Assay. -/
theorem State.assayNext_frame (s : State) : s.assayNext.dev.state = .assay ∧ s.assayNext.dev.phase = 3 ∧
    s.assayNext.dev.time = 0 ∧ s.assayNext.dev.timeRun = true ∧ s.assayNext.west = s.west ∧
    s.assayNext.east = s.east := by
  have hm := Moves.applyRepair s
  have hw : s.applyRepair.west = s.west := hm .west (by decide)
  have he : s.applyRepair.east = s.east := hm .east (by decide)
  unfold State.assayNext
  generalize s.applyRepair = x at hw he
  exact ⟨rfl, rfl, rfl, rfl, hw, he⟩

theorem firstPhases : Stated.FirstPhases := by
  refine fun s => ⟨fun w e h hw he => execPllLock_ends h hw he, fun h => ?_⟩
  intro w e role good
  obtain ⟨hwest, heast, hwa, hea, hdev⟩ := s.sensing_roles
  have c := State.canon_sensing_roles (booting_canon h)
  have hex : exec .otpSense s = _ := (execOtpSense_eq h).trans (State.judgeFuses_eq _)
  rw [hwest, heast, hwa, hea] at hex
  dsimp only at hex
  have hphase : s.sensing.roles.dev.phase = s.dev.phase := congrArg Dev.phase hdev
  have hlt : s.sensing.roles.dev.phase < 16 := by
    rw [hphase, booting_phase h]
    decide
  have hfails (cause detail : Nat) (hc : cause < 16) :
      Stated.BootFails s (s.sensing.roles.failBoot cause detail) cause detail :=
    State.failBoot_fails c hlt hc hphase
  have hgood : good = ((w.idOk && w.trimOk) && (e.idOk && e.trimOk)) := Bool.and_assoc _ _ _
  have hboth (hg : good = true) :
      ¬((!(w.idOk && w.trimOk)) = true ∨ (!(e.idOk && e.trimOk)) = true) := by
    rw [hgood, Bool.and_eq_true] at hg
    obtain ⟨hwg, heg⟩ := hg
    simp [hwg, heg]
  have hcfgs (hw : w.cfgGen ≠ 7) (he : e.cfgGen ≠ 7) : ¬((w.cfgGen == 7) = true ∨ (e.cfgGen == 7) = true) := by
    simp [hw, he]
  refine ⟨fun hg => ?_, fun hg hcfg => ?_, fun hg hw he hrole => ?_, fun hg hw he hwr her => ?_⟩
  · have hbad (b : Bool) (hb : b = false) : (!b) = true := by
      rw [hb]
      rfl
    rw [hgood, Bool.and_eq_false_iff] at hg
    refine ⟨_, hex.trans (if_pos (hg.imp (hbad _) (hbad _))), ?_⟩
    have hdetail : (if (!(w.idOk && w.trimOk)) = true then 0 else 1) = if (w.idOk && w.trimOk) =
        true then 1 else 0 := by
      cases w.idOk && w.trimOk <;> rfl
    rw [← hdetail]
    exact hfails 1 _ (by decide)
  · refine ⟨_, hex.trans ((if_neg (hboth hg)).trans (if_pos (by simpa using hcfg))), ?_⟩
    simp only [beq_iff_eq]
    exact hfails 2 _ (by decide)
  · have hrole' : (s.west.auth.primarySel != w.role) = true ∨ (s.east.auth.primarySel != e.role) = true :=
      hrole.imp (fun hne => bne_iff_ne.mpr hne) fun hne => bne_iff_ne.mpr hne
    refine ⟨_, hex.trans ((if_neg (hboth hg)).trans ((if_neg (hcfgs hw he)).trans (if_pos hrole'))), ?_⟩
    have hdetail (x y : Bool) : (if (x != y) = true then 0 else 1) = if x = y then 1 else 0 := by
      cases x <;> cases y <;> rfl
    exact (congrArg (Stated.BootFails s _ 7) (hdetail s.west.auth.primarySel w.role)).mp (hfails 7 _ (by decide))
  · have hroles : ¬((s.west.auth.primarySel != w.role) = true ∨ (s.east.auth.primarySel != e.role) = true) := by
      have hwr' : s.west.auth.primarySel = w.role := hwr
      have her' : s.east.auth.primarySel = e.role := her
      simp [hwr', her']
    refine ⟨_, hex.trans ((if_neg (hboth hg)).trans ((if_neg (hcfgs hw he)).trans (if_neg hroles))), ?_⟩
    obtain ⟨hst, hph, htime, hrun, hwd, hed⟩ := s.sensing.roles.assayNext_frame
    refine ⟨hst, hph, htime, hrun, ?_, ?_, ?_, ?_⟩
    · rw [hwd, hwest]
    · rw [hed, heast]
    · rw [hwd, hwa]
      exact (congrArg (· && role w) hwr).trans (Bool.and_self _)
    · rw [hed, hea]
      exact (congrArg (· && role e) her).trans (Bool.and_self _)

/-! ## Phase 3 -/

/-- The targets that failed, in order, with their results. -/
def failing (fs : List (Nat × Nat)) :
    List (Nat × Nat) := (List.range 0x17C).filterMap fun t => fs.find? fun f => f.1 == t

theorem find?_target {fs : List (Nat × Nat)} {x : Nat} {f : Nat × Nat} (h : (fs.find? fun f => f.1 == x) = some f) :
    f.1 = x := beq_iff_eq.mp (List.find?_some h :)

/-- Of the targets, those that the operand names have failed. -/
theorem mem_failing {fs : List (Nat × Nat)} {f : Nat × Nat} (h : f ∈ failing fs) :
    f.1 < 0x17C ∧ (fs.any fun g => g.1 == f.1) = true := by
  obtain ⟨x, hx, hf⟩ := List.mem_filterMap.mp h
  have hfx := find?_target hf
  refine ⟨hfx ▸ List.mem_range.mp hx, List.any_eq_true.mpr ⟨f, List.mem_of_find?_eq_some hf, ?_⟩⟩
  exact beq_self_eq_true _

theorem exists_failing {fs : List (Nat × Nat)} {x : Nat} (hx : x < 0x17C) (h : (fs.any fun g => g.1 == x) = true) :
    ∃ f ∈ failing fs, f.1 = x := by
  obtain ⟨g, hg, hgx⟩ := List.any_eq_true.mp h
  cases hf : fs.find? fun f => f.1 == x with
  | none => exact absurd hgx (by simpa using List.find?_eq_none.mp hf g hg)
  | some f => exact ⟨f, List.mem_filterMap.mpr ⟨x, List.mem_range.mpr hx, hf⟩, find?_target hf⟩

theorem failing_sorted (fs : List (Nat × Nat)) : (failing fs).Pairwise fun f g => f.1 < g.1 := by
  refine List.pairwise_filterMap.mpr (List.pairwise_lt_range.imp fun {a b} hab f hf g hg => ?_)
  rw [find?_target hf, find?_target hg]
  exact hab

/-- A target whose failure phase 3 survives: a channel is withdrawn, a lane spared. -/
def State.assayPass (s : State) (f : Nat × Nat) : State :=
  if assayClass f.1 = 5 then
    forN 4 s fun i s => s.bringupWithdraw ((f.1 - 0x80) / 8) ((f.1 - 0x80) % 8 * 4 + i) 3
  else s.assayLane ((f.1 - 0xE8) / 8) ((f.1 - 0xE8) % 8)

/-- Every failure recorded, the first in the state of the device. -/
def State.assayNoted (s : State) (fs : List (Nat × Nat)) : State :=
  let s := fs.foldl (fun s f => s.assayNote f.1 f.2) s
  match fs.head? with
  | some f => s.setDev { s.dev with firstFail := f.1, firstResult := f.2 % 8 }
  | none => s

theorem execAssayFull_eq (h : Stated.Phase s 3) (fs : List (Nat × Nat)) : execAssayFull fs s =
    match (failing fs).find? fun f => assayClass f.1 != 5 && assayClass f.1 != 7 with
    | some f => .next ((s.assayNoted (failing fs)).failBoot 3 f.1)
    | none => .next (((failing fs).foldl State.assayPass (s.assayNoted (failing fs))).setBoot 4 0 0) :=
  if_pos (booting_inPhase h)

theorem Moves.assayNote (s : State) (a r : Nat) : Moves [.bus, .health] s (s.assayNote a r) :=
  (Moves.evErr s (k := .pyro) (by decide)).mono.andThen (.setHealth _ _)

theorem State.assayNoted_frame (s : State) (fs : List (Nat × Nat)) :
    Moves [.dev, .bus, .health] s (s.assayNoted fs) ∧ (s.assayNoted fs).dev.phase = s.dev.phase ∧
      (s.assayNoted fs).dev.failed = s.dev.failed := by
  have hnote (x : State) (f : Nat × Nat) : Moves [.bus, .health] x (x.assayNote f.1 f.2) := by
    have h := Moves.assayNote x f.1 f.2
    exact h
  have hm : Moves [.bus, .health] s (fs.foldl (fun s f => s.assayNote f.1 f.2) s) := Moves.foldl hnote fs s
  unfold State.assayNoted
  dsimp only
  split
  · refine ⟨hm.mono.andThen (.setDev _ _), ?_, ?_⟩
    · exact (congrArg Dev.phase hm.dev :)
    · exact (congrArg Dev.failed hm.dev :)
  · exact ⟨hm.mono, congrArg Dev.phase hm.dev, congrArg Dev.failed hm.dev⟩

theorem State.canon_assayNoted (c : s.Canon) (fs : List (Nat × Nat)) : (s.assayNoted fs).Canon := by
  have hc : (fs.foldl (fun s f => s.assayNote f.1 f.2) s).Canon :=
    List.foldlRecOn (motive := State.Canon) _ _ c fun x hx f _ =>
      (show Keeps true x _ from Keeps.assayNote .refl).canon hx
  unfold State.assayNoted
  dsimp only
  split
  · exact { hc with }
  · exact hc

/-- Channels are withdrawn, lanes spared: the maps, granules, ports and the log move. -/
theorem Moves.assayLane (s : State) (n lane : Nat) : Moves [.fabric, .bus, .health] s (s.assayLane n lane) := by
  have hset (x : State) (n : Nat) (p : Port) : Moves [.fabric] x (x.setPort n p) := by
    intro f hf
    cases f with
    | fabric => exact absurd List.mem_cons_self hf
    | _ => rfl
  unfold State.assayLane
  dsimp only
  refine .ite .refl (.ite ?_ (.mono (hset s n _)))
  exact ((hset s n _).mono.andThen (hset _ n _)).andThen (.splog _ _ _ _ _ _)

theorem Moves.assayPass (s : State) (f : Nat × Nat) :
    Moves [.maps, .stk, .fabric, .bus, .health] s (s.assayPass f) :=
  .ite (.mono (.forN (fun _ x => .bringupWithdraw x _ _ _) 4 s)) (.mono (.assayLane s _ _))

theorem State.canon_assayPass (c : s.Canon) (f : Nat × Nat) : (s.assayPass f).Canon := by
  have h : Keeps true s (s.assayPass f) :=
    .ite' (fun _ => .forN' _ .refl fun _ _ h => .bringupWithdraw h) fun _ => .assayLane .refl
  exact h.canon c

theorem State.canon_assayPasses (c : s.Canon) (fs : List (Nat × Nat)) : (fs.foldl State.assayPass s).Canon :=
  List.foldlRecOn (motive := State.Canon) fs _ c fun _ hx f _ => State.canon_assayPass hx f

/-! ### Channels -/

/-- Channels withdrawn stay so. -/
theorem State.chGone_bringupWithdraw (s : State) (n c source : Nat) {k : Nat} (h : k ∈ s.maps.chGone ∨ k = n * 32 + c) :
    k ∈ (s.bringupWithdraw n c source).maps.chGone := by
  unfold State.bringupWithdraw
  split
  case isTrue hc =>
    obtain h | rfl := h
    · exact h
    · exact List.contains_iff_mem.mp hc
  case isFalse hc =>
    dsimp only
    have hkept (x : State) : (s.setMaps { s.maps with chGone := s.maps.chGone ++ [n * 32 + c] }).maps = x.maps →
        k ∈ x.maps.chGone := by
      intro hx
      rw [← hx]
      obtain h | rfl := h
      · exact List.mem_append_left _ h
      · exact List.mem_append_right _ List.mem_cons_self
    have hgr := (Moves.foldl (l := [.stk]) (f := fun x k => x.setOwner k 0xE) (fun x k => .setStk x _)
      (channelGranules n c) (s.setMaps { s.maps with chGone := s.maps.chGone ++ [n * 32 + c] })).maps
    split
    · exact hkept _ (((Moves.mapUse rfl _ _ _ _ _ _).maps).trans hgr).symm
    · exact hkept _ (((Moves.splog _ _ _ _ _ _).maps).trans hgr).symm

/-- The four channels of a target are withdrawn, and those gone before stay so. -/
theorem State.chGone_assayPass (s : State) (f : Nat × Nat) {k : Nat}
    (h : k ∈ s.maps.chGone ∨ (assayClass f.1 = 5 ∧ ∃ i, i < 4 ∧ k = (f.1 - 0x80) / 8 * 32 + (f.1 - 0x80) % 8 * 4 + i)) :
    k ∈ (s.assayPass f).maps.chGone := by
  unfold State.assayPass
  split
  case isTrue hcls =>
    have hrange (is : List Nat) (x : State) (hx : k ∈ x.maps.chGone ∨
        ∃ i ∈ is, k = (f.1 - 0x80) / 8 * 32 + (f.1 - 0x80) % 8 * 4 + i) :
        k ∈ (is.foldl (fun x i => x.bringupWithdraw ((f.1 - 0x80) / 8) ((f.1 - 0x80) % 8 * 4 + i) 3) x).maps.chGone :=
          by
      induction is generalizing x with
      | nil =>
        obtain hx | ⟨i, hi, -⟩ := hx
        · exact hx
        · exact absurd hi List.not_mem_nil
      | cons i is ih =>
        refine ih _ ?_
        obtain hx | ⟨j, hj, hk⟩ := hx
        · exact .inl (x.chGone_bringupWithdraw _ _ _ (.inl hx))
        · obtain rfl | hj := List.mem_cons.mp hj
          · exact .inl (x.chGone_bringupWithdraw _ _ _ (.inr (hk.trans (Nat.add_assoc _ _ _))))
          · exact .inr ⟨j, hj, hk⟩
    refine hrange (List.range 4) s (h.imp id ?_)
    rintro ⟨-, i, hi, hk⟩
    exact ⟨i, List.mem_range.mpr hi, hk⟩
  case isFalse hcls =>
    rw [(Moves.assayLane s _ _).maps]
    obtain h | ⟨h5, -⟩ := h
    · exact h
    · exact absurd h5 hcls

theorem State.chGone_assayPasses (fs : List (Nat × Nat)) (s : State) {f : Nat × Nat} (hf : f ∈ fs)
    (h5 : assayClass f.1 = 5) {i : Nat} (hi : i < 4) :
    (f.1 - 0x80) / 8 * 32 + (f.1 - 0x80) % 8 * 4 + i ∈ (fs.foldl State.assayPass s).maps.chGone := by
  obtain ⟨as, bs, rfl⟩ := List.append_of_mem hf
  rw [List.foldl_append, List.foldl_cons]
  exact List.foldlRecOn (motive := fun x : State => _ ∈ x.maps.chGone) bs _
    (State.chGone_assayPass _ f (.inr ⟨h5, i, hi, rfl⟩)) fun x hx g _ => x.chGone_assayPass g (.inl hx)

/-! ### Lanes -/

/-- What a lane that fails makes of its port. -/
def Port.losing (x : Port) (lane : Nat) : Port :=
  if x.badLanes.contains lane then x
  else { x with
    badLanes := x.badLanes ++ [lane]
    spared := if lane ≠ 8 ∧ x.spared = 15 ∧ !x.badLanes.contains 8 then lane else x.spared }

theorem State.port_assayLane (c : s.Canon) (n lane m : Nat) :
    (s.assayLane n lane).port m = if m = n then (s.port n).losing lane else s.port m := by
  have hfirst : (s.setPort n { s.port n with badLanes := (s.port n).badLanes ++ [lane] }).Canon :=
    (show Keeps true s _ from Keeps.setPort .refl).canon c
  have hport := State.port_setPort c n { s.port n with badLanes := (s.port n).badLanes ++ [lane] }
  by_cases hm : m = n
  · subst hm
    rw [if_pos rfl, State.assayLane, Port.losing]
    dsimp only
    split
    · rfl
    · split
      case isTrue h =>
        rw [(Moves.splog _ _ _ _ _ _).port, State.modPort, State.port_setPort hfirst, hport]
      case isFalse h => rw [hport]
  · rw [if_neg hm, State.assayLane]
    dsimp only
    split
    · rfl
    · split
      · rw [(Moves.splog _ _ _ _ _ _).port, State.modPort, State.port_setPort_ne hfirst _ hm,
          State.port_setPort_ne c _ hm]
      · rw [State.port_setPort_ne c _ hm]

/-- A target of another port or of channels leaves a port as it is. -/
theorem State.port_assayPass_ne (c : s.Canon) (f : Nat × Nat) {m : Nat}
    (h : assayClass f.1 = 5 ∨ (f.1 - 0xE8) / 8 ≠ m) : (s.assayPass f).port m = s.port m := by
  unfold State.assayPass
  split
  case isTrue h5 => exact (Moves.forN (l := [.maps, .stk, .bus, .health])
    (fun _ x => .bringupWithdraw x _ _ _) 4 s).port (by decide) m
  case isFalse h5 =>
    rw [State.port_assayLane c, if_neg]
    obtain h | h := h
    · exact absurd h h5
    · exact fun hm => h hm.symm

theorem State.port_assayPass_self (c : s.Canon) (f : Nat × Nat) (h : assayClass f.1 ≠ 5) :
    (s.assayPass f).port ((f.1 - 0xE8) / 8) = (s.port ((f.1 - 0xE8) / 8)).losing ((f.1 - 0xE8) % 8) := by
  rw [State.assayPass, if_neg h, State.port_assayLane c, if_pos rfl]

theorem Port.mem_losing (x : Port) (lane : Nat) {k : Nat} (h : k ∈ x.badLanes ∨ k = lane) :
    k ∈ (x.losing lane).badLanes := by
  unfold Port.losing
  split
  case isTrue hc =>
    obtain h | rfl := h
    · exact h
    · exact List.contains_iff_mem.mp hc
  case isFalse hc =>
    obtain h | rfl := h
    · exact List.mem_append_left _ h
    · exact List.mem_append_right _ List.mem_cons_self

theorem State.badLanes_assayPasses (fs : List (Nat × Nat)) (c : s.Canon) {f : Nat × Nat} (hf : f ∈ fs)
    (h5 : assayClass f.1 ≠ 5) :
    (f.1 - 0xE8) % 8 ∈ ((fs.foldl State.assayPass s).port ((f.1 - 0xE8) / 8)).badLanes := by
  obtain ⟨as, bs, rfl⟩ := List.append_of_mem hf
  rw [List.foldl_append, List.foldl_cons]
  have ca := State.canon_assayPasses c as
  generalize as.foldl State.assayPass s = x at ca
  have hmem : (f.1 - 0xE8) % 8 ∈ ((x.assayPass f).port ((f.1 - 0xE8) / 8)).badLanes := by
    rw [State.port_assayPass_self ca f h5]
    exact Port.mem_losing _ _ (.inr rfl)
  have hfold := List.foldlRecOn (motive := fun y :
      State => y.Canon ∧ (f.1 - 0xE8) % 8 ∈ (y.port ((f.1 - 0xE8) / 8)).badLanes)
    bs State.assayPass ⟨State.canon_assayPass ca f, hmem⟩ fun y hy g _ => ⟨State.canon_assayPass hy.1 g, by
      by_cases hg : assayClass g.1 = 5 ∨ (g.1 - 0xE8) / 8 ≠ (f.1 - 0xE8) / 8
      · rw [State.port_assayPass_ne hy.1 g hg]
        exact hy.2
      · have hg5 : assayClass g.1 ≠ 5 := fun h => hg (.inl h)
        have hgn : (g.1 - 0xE8) / 8 = (f.1 - 0xE8) / 8 := not_not.mp fun h => hg (.inr h)
        rw [← hgn, State.port_assayPass_self hy.1 g hg5, hgn]
        exact Port.mem_losing _ _ (.inl hy.2)⟩
  exact hfold.2

/-- Targets of other ports and of channels leave a port as it is. -/
theorem State.port_assayPasses (c : s.Canon) {m : Nat} (fs : List (Nat × Nat))
    (h : ∀ g ∈ fs, assayClass g.1 = 5 ∨ (g.1 - 0xE8) / 8 ≠ m) : (fs.foldl State.assayPass s).port m = s.port m := by
  induction fs generalizing s with
  | nil => rfl
  | cons g fs ih =>
    rw [List.foldl_cons, ih (State.canon_assayPass c g) fun g hg => h g (List.mem_cons_of_mem _ hg),
      State.port_assayPass_ne c g (h g List.mem_cons_self)]

/-- The one lane of a port that fails is spared, where lane 8 is free. -/
theorem State.spared_assayPasses (fs : List (Nat × Nat)) (c : s.Canon) (hsorted : fs.Pairwise fun f g => f.1 < g.1)
    {f : Nat × Nat} (hf : f ∈ fs) (h5 : assayClass f.1 ≠ 5)
    (hone : ∀ g ∈ fs, assayClass g.1 ≠ 5 → (g.1 - 0xE8) / 8 = (f.1 - 0xE8) / 8 → g.1 = f.1)
    (hfree : (s.port ((f.1 - 0xE8) / 8)).spared = 15) (hgood : (s.port ((f.1 - 0xE8) / 8)).badLanes = []) :
    ((fs.foldl State.assayPass s).port ((f.1 - 0xE8) / 8)).spared = (f.1 - 0xE8) % 8 := by
  obtain ⟨as, bs, rfl⟩ := List.append_of_mem hf
  obtain ⟨-, hbs, has⟩ := List.pairwise_append.mp hsorted
  have hother (g : Nat × Nat) (hg : g ∈ as ++ f :: bs) (hne : g.1 ≠ f.1) :
      assayClass g.1 = 5 ∨ (g.1 - 0xE8) / 8 ≠ (f.1 - 0xE8) / 8 := by
    by_cases hg5 : assayClass g.1 = 5
    · exact .inl hg5
    · exact .inr fun hn => hne (hone g hg hg5 hn)
  have hlt (g : Nat × Nat) (hg : g ∈ as) : g.1 < f.1 := has g hg f List.mem_cons_self
  have hgt (g : Nat × Nat) (hg : g ∈ bs) : f.1 < g.1 := (List.pairwise_cons.mp hbs).1 g hg
  have ca := State.canon_assayPasses c as
  rw [List.foldl_append, List.foldl_cons,
    State.port_assayPasses (State.canon_assayPass ca f) bs fun g hg =>
      hother g (List.mem_append_right _ (List.mem_cons_of_mem _ hg)) (hgt g hg).ne',
    State.port_assayPass_self ca f h5,
    State.port_assayPasses c as fun g hg => hother g (List.mem_append_left _ hg) (hlt g hg).ne]
  have h8 : (f.1 - 0xE8) % 8 ≠ 8 := by omega
  simp [Port.losing, hfree, hgood, h8]

/-- Phase 3 ends with channels withdrawn and lanes spared. -/
theorem execAssayFull_passes (h : Stated.Phase s 3) (fs : List (Nat × Nat))
    (hpass : ∀ f ∈ failing fs, assayClass f.1 = 5 ∨ assayClass f.1 = 7) :
    execAssayFull fs s =
      .next (((failing fs).foldl State.assayPass (s.assayNoted (failing fs))).setBoot 4 0 0) := by
  have hnone : ((failing fs).find? fun f => assayClass f.1 != 5 && assayClass f.1 != 7) = none := by
    refine List.find?_eq_none.mpr fun f hf => ?_
    obtain h5 | h7 := hpass f hf
    · simp [h5]
    · simp [h7]
  rw [execAssayFull_eq h, hnone]

/-- Phase 3 fails at the first target of another class. -/
theorem execAssayFull_fails (h : Stated.Phase s 3) (fs : List (Nat × Nat)) {f : Nat × Nat} (hf : f ∈ failing fs)
    (h5 : assayClass f.1 ≠ 5) (h7 : assayClass f.1 ≠ 7)
    (hfirst : ∀ g ∈ failing fs, g.1 < f.1 → assayClass g.1 = 5 ∨ assayClass g.1 = 7) :
    execAssayFull fs s = .next ((s.assayNoted (failing fs)).failBoot 3 f.1) := by
  obtain ⟨as, bs, hsplit⟩ := List.append_of_mem hf
  have hsorted := failing_sorted fs
  rw [hsplit] at hsorted
  obtain ⟨-, -, has⟩ := List.pairwise_append.mp hsorted
  have hfind : ((failing fs).find? fun f => assayClass f.1 != 5 && assayClass f.1 != 7) = some f := by
    refine List.find?_eq_some_iff_append.mpr ⟨by simp [h5, h7], as, bs, hsplit, fun g hg => ?_⟩
    have hlt : g.1 < f.1 := has g hg f List.mem_cons_self
    obtain hg5 | hg7 := hfirst g (by rw [hsplit]; exact List.mem_append_left _ hg) hlt
    · simp [hg5]
    · simp [hg7]
  rw [execAssayFull_eq h, hfind]

/-! ## Phase 4 -/

theorem State.byte_of_host (c : s.Canon) (a : Nat) :
    tget 0 (s.mem.filter fun e => decide (hostBase ≤ e.1)) a = if hostBase ≤ a then s.byte a else 0 := by
  rw [tget_filter 0 (fun k => decide (hostBase ≤ k)) a c.mem]
  exact if_congr decide_eq_true_iff rfl rfl

/-- Of a filtered table nothing is read but what passed the filter, and the default. -/
theorem tget_filter_or {α : Type} (d : α) (t : Tbl α) (q : α → Bool) (n : Nat) :
    tget d (t.filter fun e => q e.2) n = d ∨ q (tget d (t.filter fun e => q e.2) n) = true := by
  induction t with
  | nil => exact .inl rfl
  | cons e t ih =>
    obtain ⟨k, v⟩ := e
    rw [List.filter_cons]
    split
    case isTrue hq =>
      rw [tget]
      split
      · exact .inr hq
      · split
        · exact .inl rfl
        · exact ih
    case isFalse => exact ih

/-- Every stack trained, its granules and memory cleared. -/
def State.trainedStacks (s : State) : State :=
  let s := s.setMem (s.mem.filter fun c => decide (hostBase ≤ c.1))
  let s := s.setStk { s.stk with gran := s.stk.gran.filter fun e => e.2.owner == 0xE }
  s.allStacks fun x => { x with trained := true }

theorem Moves.trainedStacks (s : State) : Moves [.mem, .stk] s s.trainedStacks := by
  have hm : Moves [.mem] s (s.setMem (s.mem.filter fun c => decide (hostBase ≤ c.1))) := by
    intro f hf
    cases f with
    | mem => exact absurd List.mem_cons_self hf
    | _ => rfl
  exact (hm.mono.andThen (.setStk _ _)).andThen (.foldl (fun x n => .setStk x _) _ _)

theorem State.gran_allStacks (s : State) (f : Stack → Stack) (k : Nat) : (s.allStacks f).gran k = s.gran k :=
  List.foldlRecOn (motive := fun x : State => x.gran k = s.gran k) (List.range 12) _ rfl fun _ hx _ _ => hx

theorem State.canon_modStack (c : s.Canon) (n : Nat) (f : Stack → Stack) : (s.modStack n f).Canon :=
  { c with stk := ⟨twf_tput _ _ _ c.stk.st, c.stk.gran⟩ }

theorem State.stack_setStack_ne (c : s.Canon) {n m : Nat} (x : Stack) (h : m ≠ n) :
    (s.setStack n x).stack m = s.stack m := tget_tput_ne _ x c.stk.st h

/-- Each of the twelve stacks is changed once. -/
theorem State.stack_allStacks (c : s.Canon) (f : Stack → Stack) {n : Nat} (hn : n < 12) :
    (s.allStacks f).stack n = f (s.stack n) := by
  have hne (ns : List Nat) (x : State) (cx : x.Canon) (h : n ∉ ns) :
      (ns.foldl (fun s n => s.modStack n f) x).stack n = x.stack n := by
    induction ns generalizing x with
    | nil => rfl
    | cons m ns ih =>
      obtain ⟨hm, hns⟩ := List.ne_and_not_mem_of_not_mem_cons h
      rw [List.foldl_cons, ih _ (State.canon_modStack cx m f) hns, State.modStack, State.stack_setStack_ne cx _ hm]
  have hcanon (ns : List Nat) : (ns.foldl (fun s n => s.modStack n f) s).Canon :=
    List.foldlRecOn (motive := State.Canon) ns _ c fun x hx m _ => State.canon_modStack hx m f
  obtain ⟨as, bs, hsplit⟩ := List.append_of_mem (List.mem_range.mpr hn)
  have hnodup : (List.range 12).Nodup := List.nodup_range
  rw [hsplit] at hnodup
  obtain ⟨-, hbs, has⟩ := List.nodup_append.mp hnodup
  rw [State.allStacks, hsplit, List.foldl_append, List.foldl_cons,
    hne bs _ (State.canon_modStack (hcanon as) n f) (List.nodup_cons.mp hbs).1,
    State.modStack, State.stack_setStack (hcanon as),
    hne as s c fun hin => absurd rfl (has n hin n List.mem_cons_self)]

theorem State.trainedStacks_frame (c : s.Canon) : (∀ n, n < 12 → (s.trainedStacks.stack n).trained = true) ∧
    (∀ g, (s.trainedStacks.gran g).owner = 0xF ∨ (s.trainedStacks.gran g).owner = 0xE) ∧
    ∀ a, s.trainedStacks.byte a = if hostBase ≤ a then s.byte a else 0 := by
  let x := s.setMem (s.mem.filter fun c => decide (hostBase ≤ c.1))
  let y := x.setStk { x.stk with gran := x.stk.gran.filter fun e => e.2.owner == 0xE }
  have hx : x.Canon := { c with mem := twf_filter 0 _ c.mem }
  have hy : y.Canon := { hx with stk := ⟨hx.stk.st, twf_filter _ _ hx.stk.gran⟩ }
  refine ⟨fun n hn => ?_, fun g => ?_, fun a => ?_⟩
  · exact congrArg Stack.trained (State.stack_allStacks hy (fun x => { x with trained := true }) hn)
  · have hg : s.trainedStacks.gran g = y.gran g := State.gran_allStacks y _ g
    rw [hg]
    obtain h | h := tget_filter_or Gran.free x.stk.gran (fun g => g.owner == 0xE) g
    · exact .inl (congrArg Gran.owner h)
    · exact .inr (beq_iff_eq.mp h)
  · have hm : s.trainedStacks.mem = y.mem :=
      (Moves.foldl (l := [.stk]) (f := fun s n => s.modStack n fun x => { x with trained := true })
        (fun x n => .setStk x _) (List.range 12) y).mem
    refine (State.byte_of_mem hm a).trans (State.byte_of_host c a)

/-- Without a stack or channel that fails, phase 4 ends with the stacks trained. -/
theorem execStackTraining_eq (h : Stated.Phase s 4) :
    execStackTraining [] [] s = .next (s.trainedStacks.setBoot 5 0 0) := by
  unfold execStackTraining
  rw [if_pos (booting_inPhase h)]
  rfl

/-! ## Phase 5 -/

theorem eraseDups_of_nodup {α : Type} [BEq α] [LawfulBEq α] {l : List α} (h : l.Nodup) : l.eraseDups = l := by
  induction l with
  | nil => rfl
  | cons a l ih =>
    obtain ⟨ha, hl⟩ := List.nodup_cons.mp h
    have hf : (l.filter fun b => !b == a) = l := by
      refine List.filter_eq_self.mpr fun b hb => ?_
      have hne : b ≠ a := fun hba => ha (hba ▸ hb)
      simp [hne]
    rw [List.eraseDups_cons, hf, ih hl]

/-- Wires that exist, each named once, at most 4 of a group. -/
def wiresOf (fs : List (Nat × Nat × Nat)) : List (Nat × Nat × Nat) :=
  fs.eraseDups.filter fun f => decide (f.1 < 2 ∧ f.2.1 < 256 ∧ f.2.2 < 128)

/-- More wires of this wire's group fail than it has spares. -/
def crowded (fs : List (Nat × Nat × Nat)) (f : Nat × Nat × Nat) : Bool :=
  decide (4 < count (fun g => g.1 == f.1 && g.2.1 == f.2.1) fs)

/-- Both dies with their failed wires on spares. -/
def State.spareWires (s : State) (fs : List (Nat × Nat × Nat)) : State :=
  let set (d : Nat) (s : State) : State := s.modDie d fun x =>
    { x with line := { x.line with
        trained := true,
        failed := fs.map fun f => (if d = 0 then f.1 else 1 - f.1) * 2 ^ 16 + f.2.1 * 2 ^ 8 + f.2.2 } }
  set 1 (set 0 s)

theorem execPartingLineTraining_eq (h : Stated.Phase s 5) (fs : List (Nat × Nat × Nat)) :
    execPartingLineTraining fs s = match (wiresOf fs).find? (crowded (wiresOf fs)) with
      | some f => .next (s.failBoot 5 f.2.1)
      | none => .next ((s.spareWires (wiresOf fs)).authStart.setBoot 6 0 0) :=
  if_pos (booting_inPhase h)

theorem wiresOf_of_nodup {fs : List (Nat × Nat × Nat)} (h : fs.Nodup)
    (hin : ∀ f ∈ fs, f.1 < 2 ∧ f.2.1 < 256 ∧ f.2.2 < 128) : wiresOf fs = fs := by
  rw [wiresOf, eraseDups_of_nodup h]
  exact List.filter_eq_self.mpr fun f hf => decide_eq_true (hin f hf)

theorem execPartingLineTraining_passes (h : Stated.Phase s 5) {fs : List (Nat × Nat × Nat)} (hfs : wiresOf fs = fs)
    (hfew : ∀ f ∈ fs, (fs.filter fun e => e.1 == f.1 && e.2.1 == f.2.1).length ≤ 4) :
    ∃ t, execPartingLineTraining fs s = .next t ∧ t.dev.phase = 6 ∧ t.west.line.trained = true ∧
      t.east.line.trained = true ∧ t.west.line.failed = fs.map (fun f => f.1 * 2 ^ 16 + f.2.1 * 2 ^ 8 + f.2.2) ∧
      t.east.line.failed = fs.map (fun f => (1 - f.1) * 2 ^ 16 + f.2.1 * 2 ^ 8 + f.2.2) := by
  have hnone : fs.find? (crowded fs) = none := by
    refine List.find?_eq_none.mpr fun f hf => ?_
    rw [crowded, decide_eq_true_eq, Nat.not_lt]
    exact hfew f hf
  refine ⟨_, (execPartingLineTraining_eq h fs).trans (by rw [hfs, hnone]), rfl, rfl, rfl, rfl, rfl⟩

/-- Five wires of one group are one more than its spares. -/
theorem execPartingLineTraining_fails (h : Stated.Phase s 5) {dir g : Nat} (hdir : dir < 2) (hg : g < 256) :
    execPartingLineTraining ((List.range 5).map fun w => (dir, g, w)) s = .next (s.failBoot 5 g) := by
  have hnodup : ((List.range 5).map fun w => (dir, g, w)).Nodup :=
    List.nodup_range.map fun a b hab => (Prod.mk.inj (Prod.mk.inj hab).2).2
  have hfs : wiresOf ((List.range 5).map fun w => (dir, g, w)) = (List.range 5).map fun w => (dir, g, w) := by
    refine wiresOf_of_nodup hnodup fun f hf => ?_
    obtain ⟨w, hw, rfl⟩ := List.mem_map.mp hf
    have hw5 := List.mem_range.mp hw
    exact ⟨hdir, hg, show w < 128 by omega⟩
  have hcrowd : crowded ((List.range 5).map fun w => (dir, g, w)) (dir, g, 0) = true := by
    have hall : ((List.range 5).map fun w => (dir, g, w)).filter (fun e => e.1 == dir && e.2.1 == g) =
        (List.range 5).map fun w => (dir, g, w) := by
      refine List.filter_eq_self.mpr fun f hf => ?_
      obtain ⟨w, -, rfl⟩ := List.mem_map.mp hf
      simp
    rw [crowded, count, hall]
    simp
  rw [execPartingLineTraining_eq h, hfs]
  have hfirst : (List.range 5).map (fun w => (dir, g, w)) =
      (dir, g, 0) :: [1, 2, 3, 4].map fun w => (dir, g, w) := rfl
  rw [hfirst] at hcrowd ⊢
  rw [List.find?_cons, hcrowd]

/-! ## Phase 6 -/

/-- Three matching words on both dies and one claim: READY. -/
theorem execAuthorityEstablished_ready (h : Stated.Phase s 6) (hw : 3 ≤ s.west.auth.matches')
    (he : 3 ≤ s.east.auth.matches') (hclaim : s.west.auth.claim ≠ s.east.auth.claim) :
    ∃ t, execAuthorityEstablished s = .next t ∧ t.dev.state = .ready ∧ t.dev.hostRdy = true ∧
      t.dev.phase = (if s.dev.perst then 7 else 8) ∧ t.mem = s.mem := by
  refine ⟨_, if_pos ⟨booting_inPhase h, hw, he, hclaim⟩, ?_⟩
  unfold State.pcieStart
  cases hp : s.dev.perst with
  | true =>
    rw [if_neg (by simp [hp])]
    exact ⟨rfl, rfl, rfl, rfl⟩
  | false =>
    rw [if_pos (by simp [hp])]
    exact ⟨rfl, rfl, rfl, rfl⟩

theorem laterPhases : Stated.LaterPhases := by
  refine fun s => ⟨fun fs h => ?_, fun n l cs h => ?_, fun h => ?_, fun h => ?_, fun fs h hnodup hfs => ?_,
    fun dir g hdir hg h => ?_, fun h hw he hclaim => execAuthorityEstablished_ready h hw he hclaim,
    fun n detail h1 h6 h => ?_⟩
  · intro hit
    have hhit {f : Nat × Nat} (hf : f ∈ failing fs) : hit f.1 = true := by
      obtain ⟨hlt, hany⟩ := mem_failing hf
      exact Bool.and_eq_true_iff.mpr ⟨decide_eq_true hlt, hany⟩
    have hof {x : Nat} (hx : hit x = true) : ∃ f ∈ failing fs, f.1 = x := by
      obtain ⟨hlt, hany⟩ := Bool.and_eq_true_iff.mp hx
      exact exists_failing (of_decide_eq_true hlt) hany
    obtain ⟨hm, hphase, hgoing⟩ := s.assayNoted_frame (failing fs)
    have cn := State.canon_assayNoted (booting_canon h) (failing fs)
    refine ⟨fun hpass => ?_, fun x hx h5 h7 hfirst => ?_⟩
    · have hp := Moves.foldl Moves.assayPass (failing fs) (s.assayNoted (failing fs))
      refine ⟨_, execAssayFull_passes h fs fun f hf => hpass f.1 (hhit hf), rfl, ?_, ?_, ?_⟩
      · rw [State.dev_setBoot, hp.dev]
        exact hgoing.trans (booting_going h)
      · intro x hx h5 i hi
        obtain ⟨f, hf, rfl⟩ := hof hx
        exact State.chGone_assayPasses (failing fs) _ hf h5 hi
      · intro x hx h7
        obtain ⟨f, hf, rfl⟩ := hof hx
        have h5 : assayClass f.1 ≠ 5 := by
          rw [h7]
          decide
        refine ⟨State.badLanes_assayPasses (failing fs) cn hf h5, fun hone hfree hgood => ?_⟩
        refine State.spared_assayPasses (failing fs) cn (failing_sorted fs) hf h5 (fun g hg hg5 hgn => ?_) ?_ ?_
        · exact hone g.1 (hhit hg) ((hpass g.1 (hhit hg)).resolve_left hg5) hgn
        · rwa [hm.port]
        · rwa [hm.port]
    · obtain ⟨f, hf, rfl⟩ := hof hx
      refine ⟨_, execAssayFull_fails h fs hf h5 h7 fun g hg hlt => hfirst g.1 hlt (hhit hg), ?_⟩
      exact State.failBoot_fails cn (by rw [hphase, booting_phase h]; decide) (by decide) hphase
  · refine ⟨_, if_pos (booting_inPhase h), ?_⟩
    exact State.failBoot_fails (booting_canon h) (by rw [booting_phase h]; decide) (by decide) rfl
  · obtain ⟨htrained, hfree, hbytes⟩ := State.trainedStacks_frame (booting_canon h)
    have hex : exec (.stackTraining [] []) s = _ := execStackTraining_eq h
    generalize s.trainedStacks = x at htrained hfree hbytes hex
    exact ⟨_, hex, rfl, htrained, hfree, hbytes⟩
  · obtain ⟨t, hex, hphase, hw, he, hfailed, -⟩ := execPartingLineTraining_passes h (fs := []) rfl nofun
    exact ⟨t, hex, hphase, hw, he, hfailed⟩
  · obtain ⟨t, hex, hphase, -, -, hw, he⟩ := execPartingLineTraining_passes h
      (wiresOf_of_nodup hnodup fun f hf => by
        obtain ⟨hdir, hgr, hwire, -⟩ := hfs f hf
        exact ⟨hdir, hgr, hwire⟩)
      fun f hf => by
        obtain ⟨-, -, -, hfew⟩ := hfs f hf
        exact hfew
    exact ⟨t, hex, hphase, hw, he⟩
  · refine ⟨_, execPartingLineTraining_fails h hdir hg, ?_⟩
    exact State.failBoot_fails (booting_canon h) (by rw [booting_phase h]; decide) (by decide) rfl
  · have hphase := booting_phase h
    have hin := booting_inPhase h
    rw [← hphase] at h1 h6 hin
    refine ⟨_, if_pos ⟨h1, h6, hin⟩, ?_⟩
    rw [hphase]
    refine State.failBoot_fails (booting_canon h) (by omega) ?_ rfl
    have hn : n = 1 ∨ n = 2 ∨ n = 3 ∨ n = 4 ∨ n = 5 ∨ n = 6 := by omega
    obtain rfl | rfl | rfl | rfl | rfl | rfl := hn <;> decide

/-- Settles O41. -/
theorem bringUpPhases : Obligations.BringUpPhases := ⟨firstPhases, laterPhases⟩

end Sys2Proof.Machine
end

section
/-! SUPPORT. Errors of clusters, tiles and the memories of Sprue and Ladle (R104, R126, R180): the event, the failure
record, the faults of those who own the part; and the statement about them. -/
set_option Elab.async false

namespace Sys2Proof.Machine

variable {s t : State} {u p q typ inst code k idx part info1 info2 : Nat}

/-! ## One partition's fault and the others -/

theorem State.part_faultPart_ne (c : s.Canon) (h : q ≠ p) : (s.faultPart p typ inst code).part q = s.part q := by
  cases hst : (s.part p).st.faultable with
  | true =>
    rw [State.faultPart_eq hst, State.stopUnits_eq]
    exact (State.part_eq_of_parts State.faultReported_busOnly.parts q).trans (State.part_setPart_ne c _ h)
  | false =>
    obtain hs | ⟨x, hbus, -, hx⟩ := State.faultPart_eq_of_not (typ := typ) (inst := inst) (code := code) hst
    · rw [hs]
    · have cx : x.Canon := by
        obtain ⟨y, rfl⟩ := hbus
        have hk : (s.faultPart p typ inst code).Canon := (Keeps.faultPart .refl).canon c
        rw [hx] at hk
        exact { c with bus := hk.bus }
      rw [hx, State.part_setPart_ne cx _ h]
      exact State.part_eq_of_parts hbus.parts q

theorem State.canon_faultPart (c : s.Canon) : (s.faultPart p typ inst code).Canon := (Keeps.faultPart .refl).canon c

/-- The partitions of a list fault, and no others. -/
theorem State.faultMany_frame (c : s.Canon) (ps : List Nat) (k : PageKind) (i code : Nat) :
    let t := s.faultMany ps k i code
    Moves [.units, .parts, .bus] s t ∧
      (∀ k' i' off, (∀ p, p < 8 → pageNo k' i' ≠ pageNo .part p) → off < 0x1000 → t.pg k' i' off = s.pg k' i' off) ∧
      ∀ p, p < 8 → (s.part p).st.faultable = true →
        (t.part p).st = if p ∈ ps then .faulted else (s.part p).st := by
  have hstep (x : State) (q : Nat) (cx : x.Canon) :
      (if ps.contains q then x.faultFrom q k i code else x).Canon := by
    split
    · exact State.canon_faultPart cx
    · exact cx
  have hother (ns : List Nat) (x : State) (cx : x.Canon) (p : Nat) (hp : p ∉ ns) :
      (ns.foldl (fun s p => if ps.contains p then s.faultFrom p k i code else s) x).part p = x.part p := by
    induction ns generalizing x with
    | nil => rfl
    | cons q ns ih =>
      obtain ⟨hq, hns⟩ := List.ne_and_not_mem_of_not_mem_cons hp
      rw [List.foldl_cons, ih _ (hstep x q cx) hns]
      split
      · exact State.part_faultPart_ne cx hq
      · rfl
  have hcanon (ns : List Nat) :
      (ns.foldl (fun s p => if ps.contains p then s.faultFrom p k i code else s) s).Canon :=
    List.foldlRecOn (motive := State.Canon) ns _ c fun x hx q _ => hstep x q hx
  refine ⟨.foldl (fun x q => .ite (.faultPart x) .refl) _ s, fun k' i' off hne ho => ?_, fun p hp hst => ?_⟩
  · refine (List.foldlRecOn (motive := fun x : State => x.Canon ∧ x.pg k' i' off = s.pg k' i' off) (List.range 8) _
      ⟨c, rfl⟩ fun x hx q hq => ⟨hstep x q hx.1, ?_⟩).2
    split
    · exact ((State.faultPart_frame hx.1).2 k' i' off (hne q (List.mem_range.mp hq)) ho).trans hx.2
    · exact hx.2
  · obtain ⟨as, bs, hsplit⟩ := List.append_of_mem (List.mem_range.mpr hp)
    have hnodup : (List.range 8).Nodup := List.nodup_range
    rw [hsplit] at hnodup
    obtain ⟨-, hbs, has⟩ := List.nodup_append.mp hnodup
    have hpart := hother as s c p fun hin => absurd rfl (has p hin p List.mem_cons_self)
    have ca := hcanon as
    unfold State.faultMany
    rw [hsplit, List.foldl_append, List.foldl_cons, hother bs _ (hstep _ p ca) p (List.nodup_cons.mp hbs).1]
    by_cases hin : p ∈ ps
    · rw [if_pos (List.contains_iff_mem.mpr hin), if_pos hin, State.faultFrom, State.part_faultPart ca]
      · rfl
      · rwa [hpart]
    · rw [if_neg (by simpa using hin), if_neg hin, hpart]

/-! ## The owner of a unit -/

/-- The owner is read of the partitions and of the numbering of clusters and tiles. -/
theorem State.ownerOf_congr (hp : t.parts = s.parts) (hc : t.maps.clusters = s.maps.clusters)
    (ht : t.maps.tiles = s.maps.tiles) (u : Nat) : t.ownerOf u = s.ownerOf u := by
  have hcl : t.physCluster = s.physCluster := funext fun j => congrArg (nth 0 · j) hc
  have htl : t.physTile = s.physTile := funext fun j => congrArg (256 + nth 0 · j) ht
  have hpart : t.part = s.part := funext (State.part_eq_of_parts hp)
  unfold State.ownerOf State.partUnits
  rw [hpart, hcl, htl]

/-- A unit in the failure record. -/
theorem State.recordFail_frame (s : State) (f : FailUnit) : f ∈ (s.recordFail f).maps.runFail ∧
    (s.recordFail f).maps.clusters = s.maps.clusters ∧ (s.recordFail f).maps.tiles = s.maps.tiles ∧
    Moves [.maps] s (s.recordFail f) ∧ (s.Canon → (s.recordFail f).Canon) := by
  unfold State.recordFail
  split
  case isTrue h => exact ⟨List.contains_iff_mem.mp h, rfl, rfl, .refl, id⟩
  case isFalse h =>
    exact ⟨List.mem_append_right _ List.mem_cons_self, rfl, rfl, .setMaps s _, fun c => { c with }⟩

/-- The owner of a unit faults with the cause in its page. -/
theorem State.faultOwner_frame (c : s.Canon) (u code : Nat) :
    Moves [.units, .parts, .bus] s (s.faultOwner u code) ∧
      (∀ k i off, (∀ p, p < 8 → pageNo k i ≠ pageNo .part p) → off < 0x1000 →
        (s.faultOwner u code).pg k i off = s.pg k i off) ∧
      ∀ p, p < 8 → s.ownerOf u = p → (s.part p).st.faultable = true →
        (s.faultOwner u code).part p =
          s.faulting p (typeCode (unitPage u).1) (blkInstance (unitPage u).1 (unitPage u).2) code := by
  unfold State.faultOwner
  dsimp only
  refine ⟨.ite (.faultPart s) .refl, fun k i off hne ho => ?_, fun p hp how hst => ?_⟩
  · split
    case isTrue h => exact (State.faultPart_frame c).2 k i off (hne _ h) ho
    case isFalse => rfl
  · rw [if_pos (by rwa [how]), how, State.faultFrom, State.part_faultPart c hst]

/-- An error of a unit: its event with the error log, the unit in the failure record, the owner's fault. -/
theorem State.unitError_frame (c : s.Canon) {pk : PageKind} {pi kind : Nat} (hk : pk ≠ .host) (hkind : kind < 32)
    (hpage : ∀ p, p < 8 → pageNo pk pi ≠ pageNo .part p) (f : FailUnit) (u : Nat) :
    let t := ((s.evErr pk pi kind kind part info1 info2).recordFail f).faultOwner u kind
    t.mem = s.mem ∧ f ∈ t.maps.runFail ∧ bit (t.pg pk pi 0x14) kind = true ∧
      Stated.OwnerFaults s t u (typeCode (unitPage u).1 + blkInstance (unitPage u).1 (unitPage u).2 * 2 ^ 16) kind := by
  have he : BusOnly s (s.evErr pk pi kind kind part info1 info2) := .evErr hk
  have ce : (s.evErr pk pi kind kind part info1 info2).Canon := (Keeps.evErr .refl).canon c
  have hbit : bit ((s.evErr pk pi kind kind part info1 info2).pg pk pi 0x14) kind = true :=
    State.bit_evErr_self c hk hkind
  have hmaps : (s.evErr pk pi kind kind part info1 info2).maps = s.maps := (Moves.ofBusOnly he).maps
  generalize s.evErr pk pi kind kind part info1 info2 = x at he ce hbit hmaps
  obtain ⟨hin, hcl, htl, hm, cf⟩ := x.recordFail_frame f
  obtain ⟨hmo, hpg, hfault⟩ := State.faultOwner_frame (cf ce) u kind
  have howner : (x.recordFail f).ownerOf u = s.ownerOf u :=
    State.ownerOf_congr (hm.parts.trans he.parts) (by rw [hcl, hmaps]) (by rw [htl, hmaps]) u
  refine ⟨hmo.mem.trans (hm.mem.trans he.mem), ?_, ?_, fun p hp how hst => ?_⟩
  · rwa [hmo.maps]
  · rwa [hpg pk pi 0x14 hpage (by decide), hm.pg]
  · have hpart : (x.recordFail f).part p = s.part p := State.part_eq_of_parts (hm.parts.trans he.parts) p
    rw [hfault p hp (howner.trans how) (by rwa [hpart])]
    exact ⟨rfl, rfl, rfl⟩

theorem unitPage_cluster {cl : Nat} (h : cl < 96) : unitPage cl = (.mould, cl) := by
  rw [unitPage, if_neg (by simp [isTile]; omega)]

theorem unitPage_tile (tl : Nat) : unitPage (256 + tl) = (.cruc, tl) := by
  rw [unitPage, if_pos (by simp [isTile])]
  simp

/-! ## Corrected errors -/

/-- A corrected error sets its event and is counted. -/
theorem State.counted_frame (c : s.Canon) {pk : PageKind} {pi b off : Nat} (hk : pk ≠ .host) (hb : b < 32)
    (hoff : 0x40 ≤ off ∧ off < 0x1000) :
    let t := (s.evSet pk pi b).count16 pk pi off 1
    t.maps = s.maps ∧ t.parts = s.parts ∧ bit (t.pg pk pi 0x14) b = true ∧
      t.pg pk pi off = min (s.pg pk pi off + 1) 0xFFFF := by
  have ce : (s.evSet pk pi b).Canon := (Keeps.evSet .refl).canon c
  have hm : Moves [.bus] s ((s.evSet pk pi b).count16 pk pi off 1) := .ofBusOnly ((BusOnly.evSet hk).trans .count16)
  refine ⟨hm.maps, hm.parts, ?_, ?_⟩
  · rw [State.count16, State.pg_setPg_ne ce _ (by omega)]
    exact State.bit_evSet_self c hk hb
  · rw [State.count16, State.pg_setPg ce, State.pg_evSet_block c hk hoff]
    omega

/-- Settles O37. -/
theorem unitErrorsAreRecorded : Obligations.UnitErrorsAreRecorded := by
  refine fun s c => ⟨fun cl kind idx hcl hkind => ?_, fun cl idx hcl => ?_, fun tl kind info htl hkind => ?_,
    fun tl info htl => ?_, fun d seg hd => ?_, fun d buf hd => ?_⟩
  · intro f
    have hne : ∀ p, p < 8 → pageNo .mould cl ≠ pageNo .part p := by
      intro p hp
      simp only [pageNo]
      omega
    have h10 : kind ≠ 10 := by omega
    have hrecord : ¬ (5 ≤ kind ∧ kind ≤ 7) := by omega
    have hex : exec (.coreFailure cl kind idx) s = .next (((s.evErr .mould cl kind kind
        (if s.ownerOf cl < 8 then s.ownerOf cl else 0xF) (if kind = 8 then 0 else idx) 0).recordFail f).faultOwner cl
          kind) := by
      change execCoreFailure cl kind idx s = _
      unfold execCoreFailure State.clusterEvent
      dsimp only
      rw [if_neg h10, if_pos hkind, if_neg hrecord]
      have hmaps (part i : Nat) : (s.evErr .mould cl kind kind part i 0).maps = s.maps :=
        (Moves.evErr s (k := .mould) (by decide)).maps
      rw [hmaps]
    have hframe := State.unitError_frame c (part := if s.ownerOf cl < 8 then s.ownerOf cl else 0xF)
      (info1 := if kind = 8 then 0 else idx) (info2 := 0) (pk := .mould) nofun (show kind < 32 by omega) hne f cl
    rw [unitPage_cluster hcl] at hframe
    exact ⟨_, hex, hframe⟩
  · exact ⟨_, rfl, State.counted_frame c (pk := .mould) nofun (by decide) (by decide)⟩
  · have hne : ∀ p, p < 8 → pageNo .cruc tl ≠ pageNo .part p := by
      intro p hp
      simp only [pageNo]
      omega
    have hrecord : ¬ 3 ≤ kind := by omega
    have hex : exec (.tileFailure tl kind info) s = .next (((s.evErr .cruc tl kind kind
        (if s.ownerOf (256 + tl) < 8 then s.ownerOf (256 + tl) else 0xF) info 0).recordFail (.tile tl)).faultOwner
          (256 + tl) kind) := by
      change execTileFailure tl kind info s = _
      unfold execTileFailure State.tileEvent
      dsimp only
      rw [if_neg (by omega), if_pos hkind, if_neg hrecord]
    have hframe := State.unitError_frame c (part := if s.ownerOf (256 + tl) < 8 then s.ownerOf (256 + tl) else 0xF)
      (info1 := info) (info2 := 0) (pk := .cruc) nofun (show kind < 32 by omega) hne (.tile tl) (256 + tl)
    rw [unitPage_tile] at hframe
    exact ⟨_, hex, hframe⟩
  · exact ⟨_, rfl, State.counted_frame c (pk := .cruc) nofun (by decide) (by decide)⟩
  · have hne : ∀ p, p < 8 → pageNo .sprue d ≠ pageNo .part p := by
      intro p hp
      simp only [pageNo]
      omega
    have he : Moves [.bus] s (s.evErr .sprue d 1 1 0xF seg 0) := .evErr s (by decide)
    have hbit := State.bit_evErr_self (code := 1) (part := 0xF) (info1 := seg) (info2 := 0) c (k := .sprue) (i := d)
      nofun (show 1 < 32 by decide)
    have ce : (s.evErr .sprue d 1 1 0xF seg 0).Canon := (Keeps.evErr .refl).canon c
    have hslice (p : Nat) : (s.evErr .sprue d 1 1 0xF seg 0).sliceBase p d = s.sliceBase p d ∧
        (s.evErr .sprue d 1 1 0xF seg 0).sliceCount p d = s.sliceCount p d := by
      unfold State.sliceBase State.sliceCount
      rw [he.sprue]
      exact ⟨rfl, rfl⟩
    obtain ⟨hm, hpg, hst⟩ := State.faultMany_frame ce ((List.range 8).filter fun p =>
      decide ((s.evErr .sprue d 1 1 0xF seg 0).sliceBase p d ≤ seg ∧
        seg < (s.evErr .sprue d 1 1 0xF seg 0).sliceBase p d + (s.evErr .sprue d 1 1 0xF seg 0).sliceCount p d))
      .sprue d 1
    refine ⟨_, rfl, hm.mem.trans he.mem, ?_, fun p hp hrun => ?_⟩
    · rwa [hpg .sprue d 0x14 hne (by decide)]
    · have hpart := he.part (by decide) p
      rw [hst p hp (by rw [hpart, hrun]; rfl), hpart, hrun]
      obtain ⟨hb, hc⟩ := hslice p
      refine if_congr ?_ rfl rfl
      rw [List.mem_filter, decide_eq_true_iff, hb, hc, List.mem_range]
      exact and_iff_right hp
  · have hne : ∀ p, p < 8 → pageNo .ladle d ≠ pageNo .part p := by
      intro p hp
      simp only [pageNo]
      omega
    have he : Moves [.bus] s (s.evErr .ladle d 1 1 0xF buf 0) := .evErr s (by decide)
    have hbit := State.bit_evErr_self (code := 1) (part := 0xF) (info1 := buf) (info2 := 0) c (k := .ladle) (i := d)
      nofun (show 1 < 32 by decide)
    have ce : (s.evErr .ladle d 1 1 0xF buf 0).Canon := (Keeps.evErr .refl).canon c
    obtain ⟨hm, hpg, hst⟩ := State.faultMany_frame ce ((List.range 8).filter fun p =>
      decide (((List.range p).map fun q => (s.part q).ladleBufs d).foldl (· + ·) 0 ≤ buf ∧
        buf < ((List.range p).map fun q => (s.part q).ladleBufs d).foldl (· + ·) 0 + (s.part p).ladleBufs d))
      .ladle d 1
    refine ⟨_, rfl, hm.mem.trans he.mem, ?_, fun p hp hrun => ?_⟩
    · rwa [hpg .ladle d 0x14 hne (by decide)]
    · have hpart := he.part (by decide) p
      rw [hst p hp (by rw [hpart, hrun]; rfl), hpart, hrun]
      refine if_congr ?_ rfl rfl
      rw [List.mem_filter, decide_eq_true_iff, List.mem_range]
      exact and_iff_right hp

end Sys2Proof.Machine
end

section
/-! SUPPORT. SAFE on both dies (R377, R395, R401), the array clock,
  the thermal states and the stack governor (R20, R216,
R390 to R392, R404); and the statement about them. -/
set_option Elab.async false

namespace Sys2Proof.Machine

variable {s t : State} {d e n cause : Nat} {fromPeer : Bool}

/-! ## SAFE on one die and on both -/

/-- What is written of a die's authority leaves the rest of both dies. -/
theorem State.therm_modAuth (s : State) (d e : Nat) (f : Auth → Auth) :
    ((s.modDie d fun x => { x with auth := f x.auth }).die e).therm = (s.die e).therm := by
  unfold State.modDie State.setDie State.die
  split <;> split <;> rfl

theorem State.other_modAuth (hd : d < 2) (s : State) (f : Auth → Auth) :
    (s.modDie d fun x => { x with auth := f x.auth }).die (1 - d) = s.die (1 - d) := State.die_setDie_other hd _

/-- From `s` to `t` SAFE is entered: authority, the device, the pages of management,
  of the parting line and of the host,
and what completion traffic moves. -/
structure SafeOnly (s t : State) : Prop where
  canon : t.Canon
  moves : Moves [.dev, .west, .east, .mem, .bus, .rings, .parts, .sprue] s t
  therm : ∀ e, (t.die e).therm = (s.die e).therm
  pyro : ∀ k i off, (∀ e, e < 2 → pageNo k i ≠ pageNo .mgt e ∧ pageNo k i ≠ pageNo .d2d e) →
    pageNo k i ≠ pageNo .host 0 → off < 0x1000 → t.pg k i off = s.pg k i off

theorem SafeOnly.refl (c : s.Canon) : SafeOnly s s := ⟨c, .refl, fun _ => rfl, fun _ _ _ _ _ _ => rfl⟩

theorem SafeOnly.trans {u : State} (h : SafeOnly s t) (h' : SafeOnly t u) : SafeOnly s u where
  canon := h'.canon
  moves := h.moves.andThen h'.moves
  therm e := (h'.therm e).trans (h.therm e)
  pyro k i off hp hh ho := (h'.pyro k i off hp hh ho).trans (h.pyro k i off hp hh ho)

theorem SafeOnly.modAuth (c : s.Canon) (d : Nat) (f : Auth → Auth) :
    SafeOnly s (s.modDie d fun x => { x with auth := f x.auth }) :=
  ⟨State.canon_modAuth c d f, (Moves.modDie s d _).mono, fun e => s.therm_modAuth d e f,
    fun k i off _ _ _ => (Moves.modDie s d _).pg (by decide) k i off⟩

theorem SafeOnly.setDev (c : s.Canon) (x : Dev) : SafeOnly s (s.setDev x) :=
  ⟨{ c with }, (Moves.setDev s x).mono, fun _ => rfl, fun _ _ _ _ _ _ => rfl⟩

theorem SafeOnly.evSet (c : s.Canon) (hd : d < 2) (b : Nat) : SafeOnly s (s.evSet .mgt d b) := by
  have hm : Moves [.bus] s (s.evSet .mgt d b) := .evSet s nofun
  refine ⟨(Keeps.evSet .refl).canon c, hm.mono, fun e => by rw [hm.die], fun k i off hp _ ho => ?_⟩
  obtain ⟨hne, -⟩ := hp d hd
  exact State.pg_evSet_ne c nofun (by omega) (by omega)

theorem SafeOnly.authSend (c : s.Canon) (hd : d < 2) : SafeOnly s (s.authSend d) := by
  refine .trans (.modAuth c d Auth.sending) ?_
  have cx := State.canon_modAuth c d Auth.sending
  have hm : Moves [.bus] (s.modDie d fun x => { x with auth := x.auth.sending }) (s.authSend d) := .ofBusOnly .count32
  refine ⟨State.canon_authSend c d, hm.mono, fun e => by rw [hm.die], fun k i off hp _ ho => ?_⟩
  obtain ⟨-, hne⟩ := hp d hd
  rw [State.authSend_eq, State.count32]
  exact State.pg_setPg_ne cx _ (by omega)

theorem SafeOnly.posts (c : s.Canon) (h : Posts s t) : SafeOnly s t := by
  have ht := h c
  exact ⟨ht.canon, ht.moves.mono, fun e => by rw [ht.moves.die], fun k i off _ hh ho => ht.page k i off ho hh⟩

theorem SafeOnly.tellSafe (c : s.Canon) (body : List Byte) :
    Traffic s ((8 :: List.range 8).foldl (State.tellSafe body) s) := by
  refine Posts.foldl _ (fun x r hr => ?_) s c
  rw [List.mem_cons, List.mem_range] at hr
  exact Posts.tellSafe x body (by omega)

theorem SafeOnly.toldSafe (c : s.Canon) (d cause : Nat) :
    SafeOnly s (s.toldSafe d cause) ∧ ∀ e, (s.toldSafe d cause).die e = s.die e := by
  unfold State.toldSafe
  dsimp only
  split
  case isTrue =>
    have hdev := SafeOnly.setDev c { s.dev with state := .safe }
    have ht := SafeOnly.tellSafe hdev.canon
    generalize leBytes 8 cause ++ leBytes 8 _ = body
    exact ⟨hdev.trans (.posts hdev.canon fun _ => ht body), fun e => (ht body).moves.die (by decide) (by decide) e⟩
  case isFalse => exact ⟨.refl c, fun _ => rfl⟩

/-- Entering SAFE moves nothing else, whatever the die was in. -/
theorem State.enterSafe_only (c : s.Canon) (hd : d < 2) (cause : Nat) (fromPeer : Bool) :
    SafeOnly s (s.enterSafe d cause fromPeer) := by
  cases hs : (s.die d).auth.inSafe with
  | true =>
    have hagain : s.enterSafe d cause fromPeer = s.safeAgain d cause fromPeer := if_pos hs
    rw [hagain, State.safeAgain]
    dsimp only
    split
    · exact .modAuth c d fun a => { a with
        cause := cause, fromPeer := fromPeer, own := authSeal (setBits (s.die d).auth.own.toNat 38 36 cause) }
    · exact .refl c
  | false =>
    rw [State.enterSafe_eq hs]
    have h1 := SafeOnly.modAuth c d (Auth.entering · (s.die d).auth.own s.now cause fromPeer)
    have h2 : SafeOnly s (s.enteringDie d cause fromPeer) := h1.trans (.setDev h1.canon _)
    have h3 := h2.trans (.evSet h2.canon hd 3)
    have h4 := h3.trans (.authSend h3.canon hd)
    exact h4.trans (SafeOnly.toldSafe h4.canon d cause).1

/-- Entering SAFE on one die leaves the other die. -/
theorem State.enterSafe_other (c : s.Canon) (hd : d < 2) (hs : (s.die d).auth.inSafe = false) :
    (s.enterSafe d cause fromPeer).die (1 - d) = s.die (1 - d) := by
  rw [State.enterSafe_eq hs]
  have hent : (s.entering d cause fromPeer).die (1 - d) = s.die (1 - d) := by
    have hdie : (s.enteringDie d cause fromPeer).die (1 - d) = s.die (1 - d) :=
      State.other_modAuth hd s (Auth.entering · (s.die d).auth.own s.now cause fromPeer)
    have he : Moves [.bus] (s.enteringDie d cause fromPeer) ((s.enteringDie d cause fromPeer).evSet .mgt d 3) :=
      .evSet _ nofun
    have hcount : Moves [.bus] (((s.enteringDie d cause fromPeer).evSet .mgt d 3).modDie d fun x =>
        { x with auth := x.auth.sending }) (s.entering d cause fromPeer) := .ofBusOnly .count32
    rw [hcount.die, State.other_modAuth hd, he.die, hdie]
  rw [(SafeOnly.toldSafe (State.canon_entering c) d cause).2, hent]

/-- SAFE on the device, both dies not having been in it. -/
theorem State.deviceSafe_with (c : s.Canon) (hw : (s.die 0).auth.inSafe = false) (he : (s.die 1).auth.inSafe = false)
    (cause : Nat) : Stated.SafeWith (s.deviceSafe cause) cause := by
  obtain ⟨hwauth, -, hwsafe⟩ := State.enterSafe_enters c hw cause false
  have hwest := State.enterSafe_only c (d := 0) (by decide) cause false
  have hother : (s.enterSafe 0 cause false).die 1 = s.die 1 := State.enterSafe_other c (d := 0) (by decide) hw
  unfold State.deviceSafe
  generalize s.enterSafe 0 cause false = x at hwauth hwsafe hwest hother
  have he' : (x.die 1).auth.inSafe = false := by rwa [hother]
  obtain ⟨heauth, hpin, -⟩ := State.enterSafe_enters hwest.canon he' cause false
  have hback : (x.enterSafe 1 cause false).die 0 = x.die 0 := State.enterSafe_other hwest.canon (d := 1) (by decide) he'
  have hstate : (x.enterSafe 1 cause false).dev.state = x.dev.state := by
    obtain ⟨-, hdev⟩ := x.entering_frame 1 cause false
    rw [State.enterSafe_eq he', State.toldSafe, if_neg (by decide), hdev]
  refine ⟨hstate.trans (hwsafe rfl), hpin, fun d hd => ?_⟩
  obtain rfl | rfl : d = 0 ∨ d = 1 := by omega
  · rw [hback, hwauth]
    exact ⟨rfl, rfl⟩
  · rw [heauth]
    exact ⟨rfl, rfl⟩

theorem State.deviceSafe_only (c : s.Canon) (cause : Nat) : SafeOnly s (s.deviceSafe cause) := by
  have h := State.enterSafe_only c (d := 0) (by decide) cause false
  exact h.trans (State.enterSafe_only h.canon (by decide) cause false)

/-! ## The array clock -/

theorem State.canon_modTherm (c : s.Canon) (d : Nat) (f : Thermal → Thermal) :
    (s.modDie d fun x => { x with therm := f x.therm }).Canon := State.canon_setDie c (State.twf_words c d)

/-- At a command boundary of every cluster of the die the array clock takes its frequency. -/
theorem arrayClockChanges : Stated.ArrayClockChanges := by
  intro s d t f c hd hlive hidle hf
  have hbusy : s.clustersBusy d = false := by
    refine List.any_eq_false.mpr fun p hp hany => ?_
    obtain ⟨k, hk, hany⟩ := List.any_eq_true.mp hany
    rw [Bool.and_eq_true, Bool.and_eq_true, bne_iff_ne, bne_iff_ne] at hany
    obtain ⟨⟨hq, ha⟩, hu⟩ := hany
    obtain ⟨u, hmem, hon⟩ := List.any_eq_true.mp hu
    rw [Bool.and_eq_true, Bool.not_eq_true', beq_iff_eq] at hon
    obtain ⟨htile, hdie⟩ := hon
    obtain h | h := hidle p (List.mem_range.mp hp) k hk hq ha u hmem
    · rw [h] at htile
      exact absurd htile nofun
    · exact h hdie
  have hdie := State.die_modDie s d fun x => { x with therm := { x.therm with freq := f } }
  have cx := State.canon_modTherm c d fun t => { t with freq := f }
  have hm := Moves.modDie s d fun x => { x with therm := { x.therm with freq := f } }
  have hex : execDvfsApply d s = .next
      (((s.modDie d fun x => { x with therm := { x.therm with freq := f } }).evSet .clk d 2).count32 .clk d 0x50 1) :=
    if_pos ⟨hlive, by rw [hbusy]; rfl, hf⟩
  generalize (s.modDie d fun x => { x with therm := { x.therm with freq := f } }) = x at hdie cx hm hex
  have hb : Moves [.bus] x ((x.evSet .clk d 2).count32 .clk d 0x50 1) :=
    .ofBusOnly ((BusOnly.evSet (k := .clk) (by decide)).trans .count32)
  have ce : (x.evSet .clk d 2).Canon := (Keeps.evSet .refl).canon cx
  refine ⟨_, hex, hb.mem.trans hm.mem, ?_, ?_, ?_⟩
  · rw [hb.die, hdie]
  · rw [State.count32, State.pg_setPg_ne ce _ (by omega)]
    exact State.bit_evSet_self cx (by decide) (by decide)
  · rw [State.pg_count32 ce, State.pg_evSet_block cx (by decide) (by decide), hm.pg]

/-! ## The hottest of the sensors -/

theorem le_foldl_max {l : List Nat} {x b : Nat} (h : x ∈ l ∨ x ≤ b) : x ≤ l.foldl max b := by
  induction l generalizing b with
  | nil => exact h.resolve_left List.not_mem_nil
  | cons a l ih =>
    refine ih ?_
    obtain h | h := h
    · obtain rfl | h := List.mem_cons.mp h
      · exact .inr (le_max_right _ _)
      · exact .inl h
    · exact .inr (le_max_of_le_left h)

theorem foldl_max_lt {l : List Nat} {b m : Nat} (hb : b < m) (h : ∀ x ∈ l, x < m) : l.foldl max b < m := by
  induction l generalizing b with
  | nil => exact hb
  | cons a l ih =>
    exact ih (max_lt hb (h a List.mem_cons_self)) fun x hx => h x (List.mem_cons_of_mem _ hx)

theorem Thermal.le_top (x : Thermal) {a k i : Nat} (hi : i < k) : x.sensor (a + i) ≤ x.top a k :=
  le_foldl_max (.inl (List.mem_map.mpr ⟨i, List.mem_range.mpr hi, rfl⟩))

theorem Thermal.top_lt (x : Thermal) {a k m : Nat} (hm : 0 < m) (h : ∀ i, i < k → x.sensor (a + i) < m) :
    x.top a k < m := by
  refine foldl_max_lt hm fun y hy => ?_
  obtain ⟨i, hi, rfl⟩ := List.mem_map.mp hy
  exact h i (List.mem_range.mp hi)

/-! ## Thermal states -/

/-- A die at 104 °C or more is in T3. -/
theorem Thermal.advance_hot (x : Thermal) (pkg lim : Nat) (hst : x.st ≤ 3) (h : 416 ≤ x.junction) :
    (x.advance pkg lim).st = 3 := by
  have hup : x.enters pkg lim 3 0 0 = true := by simp [Thermal.enters, h]
  have hstays : x.enters pkg lim 3 12 5 = true := by simp [Thermal.enters, show 416 ≤ x.junction + 12 by omega]
  unfold Thermal.advance
  simp only [hup, if_true]
  by_cases hlow : x.st < 3
  · rw [if_pos hlow]
  · have h3 : x.st = 3 := by omega
    rw [if_neg hlow, h3, if_pos hstays]

/-- The hundredth sample in a row 3 °C below takes a die from T3 to T2. -/
theorem Thermal.advance_cool (x : Thermal) (pkg lim : Nat) (hst : x.st = 3) (hlow : x.low = 99) (hj : x.junction < 404)
    (hs : x.stackHot < 102) : x.advance pkg lim = { x with st := 2, low := 0 } := by
  have hup : x.enters pkg lim 3 0 0 = false := by simp [Thermal.enters]; omega
  have hleaves : x.enters pkg lim 3 12 5 = false := by simp [Thermal.enters]; omega
  have hraise : ¬ x.st < if x.enters pkg lim 3 0 0 then 3 else if x.enters pkg lim 2 0 0 then 2
      else if x.enters pkg lim 1 0 0 then 1 else 0 := by
    rw [hup, hst]
    split
    · simp at *
    · split
      · decide
      · split <;> decide
  unfold Thermal.advance
  dsimp only
  rw [if_neg hraise, hst, hleaves, hlow]
  rfl

/-- The clock's ceiling leaves state and samples; from T2 on it is 900 MHz. -/
theorem Thermal.st_ceil (x : Thermal) (old : Nat) (t1 : Bool) : (x.ceil old t1).st = x.st := by
  unfold Thermal.ceil
  dsimp only
  split_ifs <;> rfl

theorem Thermal.low_ceil (x : Thermal) (old : Nat) (t1 : Bool) : (x.ceil old t1).low = x.low := by
  unfold Thermal.ceil
  dsimp only
  split_ifs <;> rfl

theorem Thermal.samples_ceil (x : Thermal) (old : Nat) (t1 : Bool) : (x.ceil old t1).samples = x.samples := by
  unfold Thermal.ceil
  dsimp only
  split_ifs <;> rfl

theorem Thermal.ceiling_ceil (x : Thermal) (old : Nat) (t1 : Bool) (h : 2 ≤ x.st) : (x.ceil old t1).ceiling = 900 :=
  congrArg Thermal.ceiling (if_pos h)

theorem Thermal.samples_advance (x : Thermal) (pkg lim : Nat) : (x.advance pkg lim).samples = x.samples := by
  unfold Thermal.advance
  dsimp only
  split_ifs <;> rfl

/-! ## A sample -/

section
variable (s : State) (d : Nat) (x : List Nat)

/-- The state of a die after a sample, the ceiling apart. -/
def State.thermRaw : Thermal :=
  ((s.sensed d x).die d).therm.advance (s.sensed d x).packagePower ((s.sensed d x).pwrLimit d)

/-- The thermal record of a die after a sample. -/
def State.thermNext : Thermal :=
  (s.thermRaw d x).ceil (s.die d).therm.st
    ((s.thermRaw d x).enters (s.sensed d x).packagePower ((s.sensed d x).pwrLimit d) 1 0 0)

/-- A die with that record, its stacks closed in T3. -/
def State.thermSet : State :=
  ((s.sensed d x).modDie d fun y => { y with therm := s.thermNext d x }).closeStacks d ((s.thermNext d x).st == 3)

/-- A change of state is told. -/
def State.thermTold : State :=
  if (s.thermNext d x).st = (s.die d).therm.st then s.thermSet d x else (s.thermSet d x).thermalEvent d

theorem execPyroSample_eq (hp : 3 ≤ s.dev.phase) (hf : s.dev.failed = false) : execPyroSample d x s = .next
    (if (s.thermTold d x).safeDue ∧
        (List.range 24).any fun i => railBad d i ((s.thermNext d x).sensor (24 + i)) then
      (s.thermTold d x).deviceSafe 5 else s.thermTold d x) := by
  unfold execPyroSample
  rw [if_neg (by omega), if_pos ⟨hp, by rw [hf]; rfl⟩]
  rfl

/-- A sample reaches the die's record alone, but for its sensors. -/
theorem State.therm_sensed : ((s.sensed d x).die d).therm.st = (s.die d).therm.st ∧
    ((s.sensed d x).die d).therm.low = (s.die d).therm.low ∧
    ((s.sensed d x).die d).therm.samples = x.take 68 := by
  unfold State.sensed
  rw [State.die_modDie]
  exact ⟨rfl, rfl, rfl⟩

theorem State.thermNext_st : (s.thermNext d x).st = (s.thermRaw d x).st := by
  rw [State.thermNext, Thermal.st_ceil]

theorem State.thermNext_low : (s.thermNext d x).low = (s.thermRaw d x).low := by
  rw [State.thermNext, Thermal.low_ceil]

theorem State.thermNext_ceiling (h : 2 ≤ (s.thermRaw d x).st) : (s.thermNext d x).ceiling = 900 := by
  rw [State.thermNext, Thermal.ceiling_ceil _ _ _ h]

theorem State.thermNext_samples : (s.thermNext d x).samples = x.take 68 := by
  obtain ⟨-, -, hx⟩ := s.therm_sensed d x
  rw [State.thermNext, Thermal.samples_ceil, State.thermRaw, Thermal.samples_advance, hx]

theorem State.stack_modStack {s : State} (c : s.Canon) (n : Nat) (f : Stack → Stack) :
    (s.modStack n f).stack n = f (s.stack n) := State.stack_setStack c ..

theorem State.stack_modStack_ne {s : State} (c : s.Canon) {n m : Nat} (f : Stack → Stack) (h : m ≠ n) :
    (s.modStack n f).stack m = s.stack m := State.stack_setStack_ne c _ h

theorem State.auth_modDie (s : State) (d e : Nat) (f : DieSt → DieSt) (hf : ∀ x, (f x).auth = x.auth) :
    ((s.modDie d f).die e).auth = (s.die e).auth := by
  unfold State.modDie State.setDie State.die
  split <;> split <;> simp [hf]

/-- A die closes the six stacks that are its own. -/
theorem State.stack_closeStacks {s : State} (c : s.Canon) (d : Nat) (b : Bool) {j : Nat} (hj : j < 6) :
    ((s.closeStacks d b).stack (6 * d + j)).closed = b := by
  have hkeep (is : List Nat) (y : State) (cy : y.Canon) (hy : (y.stack (6 * d + j)).closed = b) :
      ((is.foldl (fun s i => s.modStack (6 * d + i) fun x => { x with closed := b }) y).stack (6 * d + j)).closed =
        b := by
    induction is generalizing y with
    | nil => exact hy
    | cons i is ih =>
      refine ih _ (State.canon_modStack cy _ _) ?_
      by_cases hi : i = j
      · rw [hi]
        exact congrArg Stack.closed (State.stack_modStack cy _ _)
      · exact (congrArg Stack.closed (State.stack_modStack_ne cy _ (by omega))).trans hy
  have hcanon (is : List Nat) :
      (is.foldl (fun s i => s.modStack (6 * d + i) fun x => { x with closed := b }) s).Canon :=
    List.foldlRecOn (motive := State.Canon) is _ c fun _ hy _ _ => State.canon_modStack hy _ _
  obtain ⟨as, bs, hsplit⟩ := List.append_of_mem (List.mem_range.mpr hj)
  rw [State.closeStacks, hsplit, List.foldl_append, List.foldl_cons]
  exact hkeep bs _ (State.canon_modStack (hcanon as) _ _) (congrArg Stack.closed (State.stack_modStack (hcanon as) _ _))

theorem State.canon_closeStacks {s : State} (c : s.Canon) (d : Nat) (b : Bool) : (s.closeStacks d b).Canon :=
  List.foldlRecOn (motive := State.Canon) _ _ c fun _ hy _ _ => State.canon_modStack hy _ _

theorem Moves.closeStacks (b : Bool) : Moves [.stk] s (s.closeStacks d b) := .foldl (fun y _ => .setStk y _) _ s

theorem State.canon_sensed {s : State} (c : s.Canon) : (s.sensed d x).Canon :=
  State.canon_setDie c (State.twf_words c d)

/-- The die's record stands, its stacks are closed in T3 and open else; authority and the device are as they were. -/
theorem State.thermSet_frame {s : State} (c : s.Canon) : (s.thermSet d x).Canon ∧
    ((s.thermSet d x).die d).therm = s.thermNext d x ∧ (s.thermSet d x).dev = s.dev ∧
    (∀ e, ((s.thermSet d x).die e).auth = (s.die e).auth) ∧
    ∀ j, j < 6 → ((s.thermSet d x).stack (6 * d + j)).closed = ((s.thermNext d x).st == 3) := by
  have cs := State.canon_sensed d x c
  have cm := State.canon_modTherm cs d fun _ => s.thermNext d x
  have hm := Moves.closeStacks ((s.sensed d x).modDie d fun y => { y with therm := s.thermNext d x }) d
    ((s.thermNext d x).st == 3)
  refine ⟨State.canon_closeStacks cm d _, ?_, ?_, fun e => ?_, fun j hj => State.stack_closeStacks cm d _ hj⟩
  · rw [State.thermSet, hm.die, State.die_modDie]
  · have hset := Moves.modDie (s.sensed d x) d fun y => { y with therm := s.thermNext d x }
    have hseen : Moves [.west, .east] s (s.sensed d x) := .modDie s d _
    have hdev : (s.thermSet d x).dev =
        ((s.sensed d x).modDie d fun y => { y with therm := s.thermNext d x }).dev := hm.dev
    rw [hdev, hset.dev, hseen.dev]
  · rw [State.thermSet, hm.die]
    have hseen : ((s.sensed d x).die e).auth = (s.die e).auth := by
      unfold State.sensed
      exact State.auth_modDie s d e _ fun _ => rfl
    rw [← hseen]
    exact State.auth_modDie (s.sensed d x) d e (fun y => { y with therm := s.thermNext d x }) fun _ => rfl

theorem Posts.vents (s : State) {rs : List Nat} (hrs : ∀ r ∈ rs, r < 9) (op : Nat) (part : Nat → Nat)
    (body : List Byte) : Posts s (rs.foldl (fun s r => s.vent r op (part r) body) s) :=
  .foldl rs (fun y r hr => Posts.vent (hrs r hr) y op (part r) body) s

theorem State.thermTold_frame {s : State} (c : s.Canon) : (s.thermTold d x).Canon ∧
    ((s.thermTold d x).die d).therm = s.thermNext d x ∧ (s.thermTold d x).dev = s.dev ∧
    (∀ e, ((s.thermTold d x).die e).auth = (s.die e).auth) ∧
    (∀ j, j < 6 → ((s.thermTold d x).stack (6 * d + j)).closed = ((s.thermNext d x).st == 3)) ∧
    (d < 2 → (s.thermNext d x).st ≠ (s.die d).therm.st → bit ((s.thermTold d x).pg .pyro d 0x14) 1 = true) := by
  obtain ⟨ct, htherm, hdev, hauth, hclosed⟩ := State.thermSet_frame d x c
  unfold State.thermTold
  split
  case isTrue h => exact ⟨ct, htherm, hdev, hauth, hclosed, fun _ hne => absurd h hne⟩
  case isFalse h =>
    generalize s.thermSet d x = y at ct htherm hdev hauth hclosed
    have ce : (y.evSet .pyro d 1).Canon := (Keeps.evSet .refl).canon ct
    have he : Moves [.bus] y (y.evSet .pyro d 1) := .evSet y nofun
    have hrs : ∀ r ∈ 8 :: (y.evSet .pyro d 1).dieParts d, r < 9 := by
      intro r hr
      rw [List.mem_cons, State.dieParts, List.mem_filter, List.mem_range] at hr
      omega
    obtain ⟨tr⟩ : Nonempty (Traffic (y.evSet .pyro d 1) (y.thermalEvent d)) := ⟨Posts.vents _ hrs 0x800B ringPart _ ce⟩
    refine ⟨tr.canon, ?_, ?_, fun e => ?_, fun j hj => ?_, fun hd _ => ?_⟩
    · rw [tr.moves.die, he.die, htherm]
    · rw [tr.moves.dev, he.dev, hdev]
    · rw [tr.moves.die, he.die, hauth]
    · have hstk : (y.thermalEvent d).stk = y.stk := (tr.moves.stk).trans he.stk
      rw [State.stack, hstk]
      exact hclosed j hj
    · rw [tr.page .pyro d 0x14 (by decide) (by simp only [pageNo]; omega)]
      exact State.bit_evSet_self ct nofun (by decide)

end

/-- What a sample leaves of the die's record, its stacks and its event, whatever the rails read. -/
theorem execPyroSample_frame (c : s.Canon) (hd : d < 2) (hp : 3 ≤ s.dev.phase) (hf : s.dev.failed = false)
    (x : List Nat) :
    ∃ t, execPyroSample d x s = .next t ∧ (t.die d).therm = s.thermNext d x ∧
      (∀ j, j < 6 → (t.stack (6 * d + j)).closed = ((s.thermNext d x).st == 3)) ∧
      ((s.thermNext d x).st ≠ (s.die d).therm.st → bit (t.pg .pyro d 0x14) 1 = true) := by
  obtain ⟨ct, htherm, -, -, hclosed, hbit⟩ := State.thermTold_frame d x c
  refine ⟨_, execPyroSample_eq s d x hp hf, ?_⟩
  have hsafe : SafeOnly (s.thermTold d x) (if (s.thermTold d x).safeDue ∧
      (List.range 24).any (fun i => railBad d i ((s.thermNext d x).sensor (24 + i))) then
        (s.thermTold d x).deviceSafe 5 else s.thermTold d x) := by
    split
    · exact State.deviceSafe_only ct 5
    · exact .refl ct
  refine ⟨(hsafe.therm d).trans htherm, fun j hj => ?_, fun hne => ?_⟩
  · rw [State.stack, hsafe.moves.stk]
    exact hclosed j hj
  · rw [hsafe.pyro .pyro d 0x14 (fun e he => by simp only [pageNo]; omega) (by simp only [pageNo]; omega) (by decide)]
    exact hbit hd hne

theorem thermalStatesFollowSamples : Stated.ThermalStatesFollowSamples := by
  intro s d x old c hd hp hf hold
  obtain ⟨t, hex, htherm, hclosed, hbit⟩ := execPyroSample_frame c hd hp hf x
  obtain ⟨hst, hlow, hsamples⟩ := s.therm_sensed d x
  have hsensor (i : Nat) (hi : i < 68) : ((s.sensed d x).die d).therm.sensor i = x.getD i 0 := by
    rw [Thermal.sensor, hsamples, nth, List.getD_eq_getElem?_getD, List.getD_eq_getElem?_getD,
      List.getElem?_take_of_lt hi]
  refine ⟨fun i hi hhot => ?_, fun hjs hss hst3 hlow99 => ?_, fun i hready hsafe hi h9 h12 hbad => ?_⟩
  · have hj : 416 ≤ ((s.sensed d x).die d).therm.junction := by
      have h := ((s.sensed d x).die d).therm.le_top (a := 0) hi
      rw [Nat.zero_add, hsensor i (by omega)] at h
      exact le_trans hhot h
    have h3 := Thermal.advance_hot _ (s.sensed d x).packagePower ((s.sensed d x).pwrLimit d)
        (by rw [hst]; exact hold) hj
    have hnext : (s.thermNext d x).st = 3 := (s.thermNext_st d x).trans h3
    refine ⟨t, hex, ?_, ?_, fun j hjl => ?_, fun hne => hbit (by rw [hnext]; exact Ne.symm hne)⟩
    · rw [htherm, hnext]
    · rw [htherm]
      exact s.thermNext_ceiling d x (by rw [State.thermRaw, h3]; decide)
    · rw [hclosed j hjl, hnext]
      rfl
  · have hj : ((s.sensed d x).die d).therm.junction < 404 := by
      refine Thermal.top_lt _ (by decide) fun i hi => ?_
      rw [Nat.zero_add, hsensor i (by omega)]
      exact hjs i hi
    have hs : ((s.sensed d x).die d).therm.stackHot < 102 := by
      refine Thermal.top_lt _ (by decide) fun i hi => ?_
      rw [hsensor (12 + i) (by omega)]
      exact hss (12 + i) (by omega) (by omega)
    have h2 := Thermal.advance_cool _ (s.sensed d x).packagePower ((s.sensed d x).pwrLimit d) (hst.trans hst3)
      (hlow.trans hlow99) hj hs
    have hnext : (s.thermNext d x).st = 2 := (s.thermNext_st d x).trans (congrArg Thermal.st h2)
    have hnlow : (s.thermNext d x).low = 0 := (s.thermNext_low d x).trans (congrArg Thermal.low h2)
    refine ⟨t, hex, ?_, ?_, fun j hjl => ?_, hbit ?_⟩
    · rw [htherm, hnext]
    · rw [htherm, hnlow]
    · rw [hclosed j hjl, hnext]
      rfl
    · rw [hnext, show (s.die d).therm.st = 3 from hst3]
      decide
  · obtain ⟨ct, -, hdev, hauth, -, -⟩ := State.thermTold_frame d x c
    have hmv : (s.thermNext d x).sensor (24 + i) = (x.take 68).getD (24 + i) 0 := by
      rw [Thermal.sensor, s.thermNext_samples d x]
      rfl
    have hrail : railBad d i ((s.thermNext d x).sensor (24 + i)) = true := by
      have h9' : (i == 9 && d != 0) = false := by
        by_cases hi9 : i = 9
        · simp [h9 hi9]
        · simp [hi9]
      have h12' : (i == 12 && decide ((x.take 68).getD (24 + i) 0 < 250)) = false := by
        by_cases hi12 : i = 12
        · have h := h12 hi12
          subst hi12
          simpa using h
        · simp [hi12]
      rw [hmv, railBad, hbad, h9', h12']
      rfl
    have hdue : (s.thermTold d x).safeDue = true := by
      unfold State.safeDue
      rw [hdev, hready]
      rfl
    have hany : ((List.range 24).any fun i => railBad d i ((s.thermNext d x).sensor (24 + i))) = true :=
      List.any_eq_true.mpr ⟨i, List.mem_range.mpr hi, hrail⟩
    refine ⟨_, (execPyroSample_eq s d x hp hf).trans (congrArg Host.Outcome.next (if_pos ⟨hdue, hany⟩)), ?_⟩
    refine State.deviceSafe_with ct ?_ ?_ 5
    · rw [hauth]
      exact hsafe 0 (by decide)
    · rw [hauth]
      exact hsafe 1 (by decide)

/-! ## The stack governor -/

section
variable (s : State) (n tDram tBase : Nat)

/-- The level of a stack's hottest threshold reached. -/
def State.govUp : Nat :=
  if tDram ≥ s.govT n 3 then 3 else if tDram ≥ s.govT n 2 then 2 else if tDram ≥ s.govT n 1 then 1 else 0

/-- A frame at a level above 0 is counted. -/
def State.govCounted : State := if (s.stack n).level = 0 then s else s.count64 .stack n 0x78 1

/-- Frames in a row 3 °C below the threshold of the level. -/
def State.govBelow : Nat :=
  if (s.stack n).level ≠ 0 ∧ tDram + 3 < (s.govCounted n).govT n (s.stack n).level then (s.stack n).below + 1 else 0

def State.govLevel : Nat :=
  if s.govUp n tDram > (s.stack n).level then s.govUp n tDram
  else if s.govBelow n tDram ≥ 64 then (s.stack n).level - 1 else (s.stack n).level

/-- The stack with its new level. -/
def State.governed : State :=
  (s.govCounted n).setStack n { s.stack n with
    level := s.govLevel n tDram
    below := if s.govLevel n tDram = (s.stack n).level then s.govBelow n tDram else 0
    tDram := tDram, tBase := tBase }

theorem execGovernorFrame_eq {s : State} (ht : (s.stack n).trained = true) :
    execGovernorFrame n tDram tBase s =
      if s.govLevel n tDram = (s.stack n).level then .next (s.governed n tDram tBase)
      else .next (((s.governed n tDram tBase).evSet .stack n 5).ventThermal
        (8 :: (s.governed n tDram tBase).stackParts n) n (s.govLevel n tDram) tDram) := if_pos ht

/-- The count of throttled frames is no threshold. -/
theorem State.govT_counted {s : State} (c : s.Canon) (l : Nat) : (s.govCounted n).govT n l = s.govT n l := by
  unfold State.govCounted
  split
  · rfl
  · unfold State.govT State.count64
    dsimp only
    rw [State.pg_setPg_ne (State.canon_setPg c ..) _ (by omega), State.pg_setPg_ne c _ (by omega)]

theorem State.governed_frame {s : State} (c : s.Canon) : (s.governed n tDram tBase).Canon ∧
    (s.governed n tDram tBase).stack n = { s.stack n with
      level := s.govLevel n tDram
      below := if s.govLevel n tDram = (s.stack n).level then s.govBelow n tDram else 0
      tDram := tDram, tBase := tBase } := by
  have cc : (s.govCounted n).Canon := by
    unfold State.govCounted
    split
    · exact c
    · exact State.canon_setPg (State.canon_setPg c ..) ..
  exact ⟨State.canon_modStack cc n fun _ => _, State.stack_setStack cc n _⟩

/-- A threshold in the words of the register. -/
theorem State.govT_eq {l : Nat} (h : l = 1 ∨ l = 2 ∨ l = 3) :
    s.govT n l = s.pg .stack n 0x50 / 2 ^ (8 * (l - 1)) % 256 := by
  obtain rfl | rfl | rfl := h <;> rfl
end

theorem governorSetsTheLevel : Stated.GovernorSetsTheLevel := by
  intro s n tDram tBase x thr up below level c hn htrained hle
  have hup : up = s.govUp n tDram := by
    simp only [up, thr, State.govUp, State.govT_eq s n (.inl rfl), State.govT_eq s n (.inr (.inl rfl)),
      State.govT_eq s n (.inr (.inr rfl))]
  have hbelow : below = s.govBelow n tDram := by
    by_cases h0 : x.level = 0
    · exact (if_neg fun h => h.1 h0).trans (if_neg fun h : x.level ≠ 0 ∧ _ => h.1 h0).symm
    · have hl : x.level = 1 ∨ x.level = 2 ∨ x.level = 3 := by omega
      refine if_congr ?_ rfl rfl
      rw [State.govT_counted n c, State.govT_eq s n hl]
  have hlevel : level = s.govLevel n tDram := by
    simp only [level, hup, hbelow]
    rfl
  obtain ⟨cg, hstack⟩ := State.governed_frame n tDram tBase c
  have hex : exec (.governorFrame n tDram tBase) s = _ := execGovernorFrame_eq n tDram tBase htrained
  rw [hlevel, hbelow]
  by_cases hsame : s.govLevel n tDram = (s.stack n).level
  · rw [if_pos hsame] at hex
    exact ⟨_, hex, hstack, fun hne => absurd hsame hne⟩
  · rw [if_neg hsame] at hex
    generalize s.governed n tDram tBase = y at cg hstack hex
    have ce : (y.evSet .stack n 5).Canon := (Keeps.evSet .refl).canon cg
    have he : Moves [.bus] y (y.evSet .stack n 5) := .evSet y nofun
    have hrs : ∀ r ∈ 8 :: y.stackParts n, r < 9 := by
      intro r hr
      rw [List.mem_cons, State.stackParts, List.mem_filter, List.mem_range] at hr
      omega
    have tr : Traffic (y.evSet .stack n 5) ((y.evSet .stack n 5).ventThermal
        (8 :: y.stackParts n) n (s.govLevel n tDram) tDram) := Posts.vents _ hrs 0x800B ringPart _ ce
    refine ⟨_, hex, ?_, fun _ => ?_⟩
    · rw [State.stack, tr.moves.stk, he.stk]
      exact hstack
    · rw [tr.page .stack n 0x14 (by decide) (by simp only [pageNo]; omega)]
      exact State.bit_evSet_self cg nofun (by decide)

/-- Settles O38. -/
theorem clocksAndTemperatures : Obligations.ClocksAndTemperatures :=
  ⟨arrayClockChanges, thermalStatesFollowSamples, governorSetsTheLevel⟩

end Sys2Proof.Machine
end

section
/-! SUPPORT. Stack queues, update marks,
  and units of the Fumaroles (R215, R217, R235, R238, R242); and the statement about
them. -/
set_option Elab.async false

namespace Sys2Proof.Machine

variable {s t : State} {n p c u code : Nat} {k : Cmd}

/-! ## The start from a stack queue -/

/-- Every unit of a list of channels has its status word at 0. -/
theorem State.pg_setFumNstat (c : s.Canon) (n : Nat) (cs : List Nat) :
    BusOnly s (s.setFumNstat n cs 0) ∧
      ∀ ch ∈ cs, (s.setFumNstat n cs 0).pg .fum (n * 64 + s.fumUnit n ch) 0x48 = 0 := by
  have hunit {x : State} (h : BusOnly s x) (ch : Nat) : x.fumUnit n ch = s.fumUnit n ch := by
    unfold State.fumUnit
    rw [(Moves.ofBusOnly h).maps]
  have hkeep (ds : List Nat) (x : State) (hx : BusOnly s x) (cx : x.Canon) (ch : Nat)
      (h : ch ∈ ds ∨ x.pg .fum (n * 64 + s.fumUnit n ch) 0x48 = 0) :
      BusOnly s (x.setFumNstat n ds 0) ∧ (x.setFumNstat n ds 0).pg .fum (n * 64 + s.fumUnit n ch) 0x48 = 0 := by
    induction ds generalizing x with
    | nil => exact ⟨hx, h.resolve_left List.not_mem_nil⟩
    | cons d ds ih =>
      refine ih (x.setPg .fum (n * 64 + x.fumUnit n d) 0x48 0) (hx.trans .setPg) (State.canon_setPg cx ..) ?_
      by_cases hsame : pageNo .fum (n * 64 + s.fumUnit n ch) * 0x1000 + 0x48 =
          pageNo .fum (n * 64 + x.fumUnit n d) * 0x1000 + 0x48
      · refine .inr ?_
        have hpage : pageNo .fum (n * 64 + s.fumUnit n ch) = pageNo .fum (n * 64 + x.fumUnit n d) := by omega
        have hpg := State.pg_setPg cx .fum (n * 64 + x.fumUnit n d) 0x48 0
        unfold State.pg at hpg ⊢
        rw [hpage, hpg]
        rfl
      · obtain h | h := h
        · obtain rfl | h := List.mem_cons.mp h
          · exact absurd rfl (by rwa [hunit hx] at hsame)
          · exact .inl h
        · exact .inr ((State.pg_setPg_ne cx 0 hsame).trans h)
  refine ⟨?_, fun ch hch => (hkeep cs s .refl c ch (.inl hch)).2⟩
  exact List.foldlRecOn (motive := fun x : State => BusOnly s x) cs _ .refl fun x hx d _ => hx.trans .setPg

/-- The first command of a stack queue that has not started, as it starts. -/
def State.fumStarted (s : State) (n p c : Nat) (k : Cmd) : State :=
  let d := s.fmRecord p k.opcode k.msg
  let s := (s.modCmd p c fun k => { k with start := s.now, data := d }).setFumRun n p (s.fumRun n p ++ [c])
  if k.opcode = 0x380 then s.updateMarks p c n ((updFlasks k.msg d).map (·.1)) else s

theorem State.fumStarted_frame (cs : s.Canon) (hrun : twf [] s.stk.fumRun = true) (hk : s.cmd? p c = some k) :
    (s.fumStarted n p c k).Canon ∧ (s.fumStarted n p c k).fumRun n p = s.fumRun n p ++ [c] ∧
      (s.fumStarted n p c k).fumQ n p = s.fumQ n p ∧
      (s.fumStarted n p c k).cmd? p c = some { k with start := s.dev.time, data := s.fmRecord p k.opcode k.msg } ∧
      Moves [.parts, .stk] s (s.fumStarted n p c k) := by
  have hcmd := State.cmd?_modCmd (f := fun k' => { k' with start := s.now, data := s.fmRecord p k.opcode k.msg }) cs
    (fun _ => rfl) p c
  rw [hk] at hcmd
  have cm : (s.modCmd p c fun k' => { k' with start := s.now, data := s.fmRecord p k.opcode k.msg }).Canon :=
    (Keeps.modCmd .refl).canon cs
  have hm : Moves [.parts] s (s.modCmd p c fun k' => { k' with start := s.now, data := s.fmRecord p k.opcode k.msg }) :=
    .setPart s p _
  have hstk : (s.modCmd p c fun k' => { k' with start := s.now, data := s.fmRecord p k.opcode k.msg }).stk = s.stk :=
    hm.stk
  have hget : tget [] (tput [] s.stk.fumRun (fumKey n p) (s.fumRun n p ++ [c])) (fumKey n p) = s.fumRun n p ++ [c] :=
    tget_tput_same _ _ _ hrun
  unfold State.fumStarted
  dsimp only
  generalize (s.modCmd p c fun k' => { k' with start := s.now, data := s.fmRecord p k.opcode k.msg }) = x at *
  have hfumRun : (x.setFumRun n p (s.fumRun n p ++ [c])).fumRun n p = s.fumRun n p ++ [c] := by
    change tget [] (tput [] x.stk.fumRun (fumKey n p) (s.fumRun n p ++ [c])) (fumKey n p) = _
    rw [hstk, hget]
  have hfumQ : (x.setFumRun n p (s.fumRun n p ++ [c])).fumQ n p = s.fumQ n p := by
    change tget [] x.stk.fumQ (fumKey n p) = _
    rw [hstk]
    rfl
  have hset : Moves [.stk] x (x.setFumRun n p (s.fumRun n p ++ [c])) := .setStk x _
  split
  · exact ⟨{ cm with stk := ⟨cm.stk.st, cm.stk.gran⟩ }, hfumRun, hfumQ, hcmd,
      (hm.mono.andThen hset).andThen (.setStk _ _)⟩
  · exact ⟨{ cm with stk := ⟨cm.stk.st, cm.stk.gran⟩ }, hfumRun, hfumQ, hcmd, hm.mono.andThen hset⟩

/-- The start, with the status words of its units at 0. -/
theorem execFmQueueStart_starts (hnext : (s.fumQ n p).find? (fun i => !(s.fumRun n p).contains i) = some c)
    (hk : s.cmd? p c = some k)
    (hfree : ∀ ch ∈ fmChans k.opcode k.msg (s.fmRecord p k.opcode k.msg), s.fumOn n p ch = none)
    (hphase : k.phase = .running) (hout : k.out = none) (hlive : s.live (dieOfStack n) = true)
    (hup : (s.part p).st ≠ .faulted) (haccess : s.tagAccess p (fmRecRanges k.opcode k.msg) = none)
    (hform : s.fmStart p k.opcode k.msg = none) :
    execFmQueueStart n p s = .next ((s.fumStarted n p c k).setFumNstat n
      (fmChans k.opcode k.msg (s.fmRecord p k.opcode k.msg)) 0) := by
  have hfum : s.fumFree n p (fmChans k.opcode k.msg (s.fmRecord p k.opcode k.msg)) = true :=
    List.all_eq_true.mpr fun ch hch => by rw [hfree ch hch]; rfl
  have hnext' : s.fumNext n p = some c := hnext
  simp only [execFmQueueStart, hnext', hk, if_pos (show _ ∧ _ ∧ _ ∧ _ ∧ _ from ⟨hphase, hout, hlive, hup, hfum⟩),
    haccess, hform]
  rfl

/-! ## Marks -/

theorem execFlaskMarkRelease_ended {g : Nat} (h : ∀ k, s.cmd? p c = some k → k.out ≠ none ∨ k.phase = .answered) :
    execFlaskMarkRelease p c n g s = .next { s with
      stk := { s.stk with
        marks := s.stk.marks.filter (· ≠ (granKey n g, p, c))
        readMarks := s.stk.readMarks.filter (· ≠ (granKey n g, p, c)) } } := by
  unfold execFlaskMarkRelease
  dsimp only
  cases hk : s.cmd? p c with
  | none => exact if_pos rfl
  | some k =>
    refine if_pos ?_
    obtain ho | ha := h k hk
    · simp [Option.isSome_iff_ne_none.mpr ho]
    · simp [ha]

/-! ## Units that fail -/

theorem pageNo_fum (hu : u < 33) : pageNo .fum (n * 64 + u) = 0x400 + n * 0x40 + u + 1 := by
  simp only [pageNo]
  omega

/-- A unit error: its event and the stack's, the unit out of service and in the failure record, its users' faults. -/
theorem execUnitFail_fails (cs : s.Canon) (hcode : code = 1 ∨ code = 2) (hn : n < 12) (hu : u < 33) :
    ∃ t, execUnitFail n u code s = .next t ∧ n * 64 + u ∈ t.stk.fumDown ∧
      FailUnit.fum n u ∈ t.maps.runFail ∧ bit (t.pg .fum (n * 64 + u) 0x14) code = true ∧
      bit (t.pg .stack n 0x14) 6 = true ∧ t.mem = s.mem ∧
      ∀ q ∈ s.fumUsers n u, (s.part q).st.faultable = true → (t.part q).st = .faulted := by
  have h3 : code ≠ 3 := by omega
  have hpage := pageNo_fum (n := n) hu
  have hstackPage : pageNo .stack n = 0x400 + n * 0x40 := rfl
  have hx : Moves [.bus] s (s.evErr .fum (n * 64 + u) code code 0xF 0 0) := .evErr s nofun
  have cx : (s.evErr .fum (n * 64 + u) code code 0xF 0 0).Canon := (Keeps.evErr .refl).canon cs
  have hxbit := State.bit_evErr_self (code := code) (part := 0xF) (info1 := 0) (info2 := 0) cs (k := .fum)
    (i := n * 64 + u) nofun (show code < 32 by omega)
  have husers : (s.evErr .fum (n * 64 + u) code code 0xF 0 0).fumUsers n u = s.fumUsers n u := by
    obtain ⟨b, hb⟩ : BusOnly s (s.evErr .fum (n * 64 + u) code code 0xF 0 0) := .evErr (k := .fum) (by decide)
    rw [hb]
    rfl
  have hex : execUnitFail n u code s =
      .next ((s.evErr .fum (n * 64 + u) code code 0xF 0 0).unitEvent n u code) := by
    unfold execUnitFail
    dsimp only
    rw [if_neg h3, if_pos hcode]
  refine ⟨_, hex, ?_⟩
  unfold State.unitEvent
  dsimp only
  rw [husers]
  generalize s.evErr .fum (n * 64 + u) code code 0xF 0 0 = x at hx cx hxbit
  have hy : Moves [.bus] x (x.evErr .stack n 6 6 0xF u 0) := .evErr x nofun
  have cy : (x.evErr .stack n 6 6 0xF u 0).Canon := (Keeps.evErr .refl).canon cx
  have hybit := State.bit_evErr_self (code := 6) (part := 0xF) (info1 := u) (info2 := 0) cx (k := .stack) (i := n)
    nofun (show 6 < 32 by decide)
  have hyfum : (x.evErr .stack n 6 6 0xF u 0).pg .fum (n * 64 + u) 0x14 = x.pg .fum (n * 64 + u) 0x14 :=
    State.pg_evErr_ne cx nofun (by omega) (by decide)
  generalize x.evErr .stack n 6 6 0xF u 0 = y at hy cy hybit hyfum
  obtain ⟨hin, -, -, hm, hcanon⟩ := y.recordFail_frame (.fum n u)
  have cz := hcanon cy
  generalize y.recordFail (.fum n u) = z at hin hm cz
  let w := z.setStk { z.stk with
    fumDown := if z.stk.fumDown.contains (n * 64 + u) then z.stk.fumDown else z.stk.fumDown ++ [n * 64 + u] }
  have cw : w.Canon := { cz with stk := ⟨cz.stk.st, cz.stk.gran⟩ }
  have hw : Moves [.stk] z w := .setStk z _
  have hdown : n * 64 + u ∈ w.stk.fumDown := by
    change n * 64 + u ∈ if z.stk.fumDown.contains (n * 64 + u) then z.stk.fumDown else z.stk.fumDown ++ [n * 64 + u]
    split
    case isTrue h => exact List.contains_iff_mem.mp h
    case isFalse => exact List.mem_append_right _ List.mem_cons_self
  obtain ⟨hmo, hpg, hfault⟩ := State.faultMany_frame cw (s.fumUsers n u) .fum (n * 64 + u) code
  have hall : Moves [.bus, .maps, .stk] s w := ((hx.mono.andThen hy).andThen hm).andThen hw
  refine ⟨?_, ?_, ?_, ?_, ?_, fun q hq hst => ?_⟩
  · rwa [hmo.stk]
  · rwa [hmo.maps, hw.maps]
  · have h : _ = _ := hpg .fum (n * 64 + u) 0x14 (fun p hp => by rw [hpage]; simp only [pageNo]; omega) (by omega)
    rw [h, hw.pg, hm.pg, hyfum]
    exact hxbit
  · have h : _ = _ := hpg .stack n 0x14 (fun p hp => by rw [hstackPage]; simp only [pageNo]; omega) (by omega)
    rw [h, hw.pg, hm.pg]
    exact hybit
  · exact hmo.mem.trans hall.mem
  · have hq8 : q < 8 := List.mem_range.mp (List.mem_of_mem_filter hq)
    rw [hfault q hq8 (by rwa [hall.part]), if_pos hq]

/-- Settles O22. -/
theorem fumaroleQueuesAndUnits : Obligations.FumaroleQueuesAndUnits := by
  refine fun s cs => ⟨?_, fun p c n g h => execFlaskMarkRelease_ended h, fun n u code hcode hn hu =>
    execUnitFail_fails cs hcode hn hu, fun n u hn hu => ?_, fun n => ?_⟩
  · intro n p c k hrun hnext hk hfree hphase hout hlive hup haccess hform
    obtain ⟨ct, hfr, hfq, hcmd, hm⟩ := State.fumStarted_frame (n := n) cs hrun hk
    have hex : exec (.fmQueueStart n p) s = _ :=
      execFmQueueStart_starts hnext hk hfree hphase hout hlive hup haccess hform
    have hunit (ch : Nat) : (s.fumStarted n p c k).fumUnit n ch = s.fumUnit n ch := by
      unfold State.fumUnit
      rw [hm.maps]
    obtain ⟨hb, hpg⟩ := State.pg_setFumNstat ct n (fmChans k.opcode k.msg (s.fmRecord p k.opcode k.msg))
    refine ⟨_, hex, ?_, ?_, ?_, fun ch hch => ?_, hb.mem.trans hm.mem⟩
    · unfold State.fumRun at hfr ⊢
      rwa [hb.stk]
    · unfold State.fumQ at hfq ⊢
      rwa [hb.stk]
    · rwa [(Moves.ofBusOnly hb).cmd?]
    · rw [← hunit ch]
      exact hpg ch hch
  · obtain ⟨-, -, hbit, hcount⟩ := State.counted_frame cs (pk := .fum) (pi := n * 64 + u) (b := 3) (off := 0x50) nofun
      (by decide) (by decide)
    refine ⟨_, rfl, hbit, hcount, ?_⟩
    exact (BusOnly.trans (.evSet (k := .fum) (by decide)) .count16).stk
  · have hm : Moves [.stk] s (s.modStack n fun x => { x with slot := (x.slot + 1) % 32 }) := .setStk s _
    exact ⟨_, rfl, State.stack_modStack cs n _, hm.mem, hm.parts⟩

end Sys2Proof.Machine
end

section
/-! SUPPORT. Registers with behaviour of their own: GLB.FENCE, 64-bit registers that are read in halves (R41) and pairs
that are written in halves; and the statement about them. -/
set_option Elab.async false

namespace Sys2Proof.Machine

variable {s t : State} {init i off lo mask : Nat} {k : PageKind} {v w : Word}

/-! ## Registers that move -/

theorem Moves.draw (s : State) : Moves [.fresh] s s.draw.2 := fun f hf => by
  cases f with
  | fresh => exact absurd List.mem_cons_self hf
  | _ => rfl

theorem BusOnly.settle (s : State) (k : PageKind) (i : Nat) : BusOnly s (s.settle k i) := .ite .refl ⟨_, rfl⟩

theorem Moves.moveReg (s : State) (k : PageKind) (i off : Nat) : Moves [.bus, .fresh] s (s.moveReg k i off) := by
  unfold State.moveReg
  split
  · exact ((Moves.draw s).mono.andThen (Moves.draw _)).andThen (Moves.ofBusOnly .count64)
  · split
    · exact .refl
    · exact (Moves.draw s).mono.andThen (Moves.ofBusOnly .count32)

/-- Open registers that take their present values move registers and draw free values. -/
theorem Moves.refresh (s : State) (k : PageKind) (i : Nat) : Moves [.bus, .fresh] s (s.refresh k i) := by
  have hfold : Moves [.bus, .fresh] s
      (((s.openNowAt k i).foldl (fun s off => s.moveReg k i off) s).settle k i) :=
    (Moves.foldl (fun x o => Moves.moveReg x k i o) _ s).andThen (Moves.ofBusOnly (.settle _ k i))
  refine .ite ?_ .refl
  dsimp only
  split
  case isTrue h =>
    refine hfold.andThen (Moves.ofBusOnly (.evSet ?_))
    rw [h.1]
    decide
  case isFalse => exact hfold

/-! ## Accesses of 4 bytes -/

theorem tget_setRead (c : s.Canon) (n : Nat) : tget 0 (s.setRead init n).bus.readData init = n :=
  tget_tput_same _ _ _ c.bus.read

theorem readAccess_of_reaches (h : Stated.Reaches s init) (hp : pageOf (pageNo k i) = some (k, i))
    (hg : s.gated k i = false) (hoff : off < 0x1000) (hal : off % 4 = 0) (hw : s.readReg init k i off = (t, w)) :
    s.readAccess init (pageNo k i * 0x1000 + off) 4 = t.setRead init w.toNat := by
  have hread : s.regRead init (pageNo k i * 0x1000 + off) = (t, w, 0) := by
    rw [regRead_of_reaches h (by omega) (by rwa [pageNo_div k i hoff]) hg, pageNo_mod k i hoff, hw]
  simp [State.readAccess, reach_of_reaches h, hread]

/-- A read of GLB.FENCE counts, itself among the fences. -/
theorem readReg_fence : s.readReg init .glb 0 0x40 =
    (s.setBus { s.bus with fences := s.bus.fences + 1 }, w32 (s.bus.fences + 1)) := rfl

/-- The low half of a 64-bit register as it is read: its high half is captured in the same cycle. -/
def State.capturing (s : State) (init : Nat) (k : PageKind) (i off : Nat) : State :=
  s.setBus { s.bus with
    hiCap := tput none s.bus.hiCap (initKey init (pageNo k i * 0x1000 + off + 4))
      (some (w32 (s.view init k i (off + 4)))) }

theorem readReg_low (h : off ∈ loRegs k) :
    s.readReg init k i off =
      ((if readsOpen k off then s.refresh k i else s).capturing init k i off,
        w32 ((if readsOpen k off then s.refresh k i else s).view init k i off)) :=
  if_pos (List.contains_iff_mem.mpr h)

/-- A read of a captured high half returns what was captured. -/
theorem readReg_high (h : off ∈ loRegs k) (hno : off + 4 ∉ loRegs k)
    (hcap : tget none s.bus.hiCap (initKey init (pageNo k i * 0x1000 + (off + 4))) = some w) :
    s.readReg init k i (off + 4) = (s, w) := by
  simp [State.readReg, h, hno, hcap]

theorem loRegs_lt (k : PageKind) : ∀ o ∈ loRegs k, o + 4 < 0x1000 := by cases k <;> decide

theorem loRegs_aligned (k : PageKind) : ∀ o ∈ loRegs k, o % 4 = 0 := by cases k <;> decide

/-! ## Pairs that are written in halves -/

theorem rwPair_cases (h : rwPair k lo = some mask) :
    (k = .port ∧ (lo = 0xAC ∨ lo = 0xB4)) ∨
      (k = .host ∧ 0x100 ≤ lo ∧ lo < 0x340 ∧ (lo % 0x40 = 0 ∨ lo % 0x40 = 8)) := by
  unfold rwPair at h
  split at h
  · refine .inl ⟨rfl, ?_⟩
    by_cases h1 : lo = 0xAC
    · exact .inl h1
    · by_cases h2 : lo = 0xB4
      · exact .inr h2
      · simp [h1, h2] at h
  · split at h
    case isTrue hlo => exact .inr ⟨rfl, hlo⟩
    case isFalse => cases h
  · cases h

/-- The offset of a high half names no pair of its own. -/
theorem rwPair_high (h : rwPair k lo = some mask) : rwPair k (lo + 4) = none := by
  obtain ⟨rfl, hlo⟩ | ⟨rfl, hlo⟩ := rwPair_cases h
  · simp only [rwPair]
    rw [if_neg (by omega), if_neg (by omega)]
  · exact if_neg (by omega)

/-- Writing the high half commits the low half that is held. -/
def State.committed (s : State) (init : Nat) (k : PageKind) (i lo mask : Nat) (v : Word) : State :=
  s.writeHalf init k i lo mask true v

/-- What a committed pair holds, and what stays. -/
theorem State.committed_frame (c : s.Canon) (init : Nat) (k : PageKind) (i lo mask : Nat) (v : Word) :
    BusOnly s (s.committed init k i lo mask v) ∧
      (s.committed init k i lo mask v).rg (pageNo k i * 0x1000 + lo) =
        (tget none s.bus.loHeld (initKey init (pageNo k i * 0x1000 + lo))).getD (s.rg (pageNo k i * 0x1000 + lo)) ∧
      (s.committed init k i lo mask v).rg (pageNo k i * 0x1000 + lo + 4) = v &&& BitVec.ofNat 32 mask ∧
      tget none (s.committed init k i lo mask v).bus.loHeld (initKey init (pageNo k i * 0x1000 + lo)) = none ∧
      ∀ a, a ≠ pageNo k i * 0x1000 + lo → a ≠ pageNo k i * 0x1000 + lo + 4 →
        (s.committed init k i lo mask v).rg a = s.rg a := by
  obtain ⟨x, hx, hb, hheld, hlow, hother⟩ : ∃ x : State,
      (match tget none s.bus.loHeld (initKey init (pageNo k i * 0x1000 + lo)) with
        | some w => s.setPg k i lo w.toNat
        | none => s) = x ∧ BusOnly s x ∧ x.Canon ∧
      x.rg (pageNo k i * 0x1000 + lo) =
        (tget none s.bus.loHeld (initKey init (pageNo k i * 0x1000 + lo))).getD (s.rg (pageNo k i * 0x1000 + lo)) ∧
      ∀ a, a ≠ pageNo k i * 0x1000 + lo → x.rg a = s.rg a := by
    cases tget none s.bus.loHeld (initKey init (pageNo k i * 0x1000 + lo)) with
    | some w =>
      refine ⟨_, rfl, .setPg, State.canon_setPg c .., ?_, fun a ha => State.rg_setRg_ne c _ ha⟩
      refine (State.rg_setRg c _ _).trans (BitVec.eq_of_toNat_eq ?_)
      simp [w32]
    | none => exact ⟨_, rfl, .refl, c, rfl, fun a _ => rfl⟩
  have heq : s.committed init k i lo mask v =
      (let y := x.setPg k i (lo + 4) (v.toNat &&& mask)
      y.setBus { y.bus with loHeld := tput none y.bus.loHeld (initKey init (pageNo k i * 0x1000 + lo)) none }) := by
    rw [← hx]
    rfl
  have cy : (x.setPg k i (lo + 4) (v.toNat &&& mask)).Canon := State.canon_setPg hheld ..
  have hhigh : (x.setPg k i (lo + 4) (v.toNat &&& mask)).rg (pageNo k i * 0x1000 + lo + 4) =
      v &&& BitVec.ofNat 32 mask := by
    rw [State.setPg, Nat.add_assoc, State.rg_setRg hheld]
    refine BitVec.eq_of_toNat_eq ?_
    simp [w32, BitVec.toNat_and]
  have hne (a : Nat) (ha4 : a ≠ pageNo k i * 0x1000 + lo + 4) :
      (x.setPg k i (lo + 4) (v.toNat &&& mask)).rg a = x.rg a := by
    rw [Nat.add_assoc] at ha4
    exact State.rg_setRg_ne hheld _ ha4
  rw [heq]
  dsimp only
  have hby : BusOnly s (x.setPg k i (lo + 4) (v.toNat &&& mask)) := hb.trans .setPg
  generalize x.setPg k i (lo + 4) (v.toNat &&& mask) = y at cy hhigh hne hby
  exact ⟨hby.trans ⟨_, rfl⟩, (hne _ (by omega)).trans hlow, hhigh, tget_tput_same _ _ _ cy.bus.lo,
    fun a ha ha4 => (hne a ha4).trans (hother a ha)⟩

theorem exec_hiWriteCommit (h : Stated.Plain s init) (hp : pageOf (pageNo k i) = some (k, i))
    (hpair : rwPair k lo = some mask)
    (hfree : k = .port ∨ s.ringEn ((lo - 0x100) / 0x40) = false) :
    exec (.hiWriteCommit init (pageNo k i * 0x1000 + lo + 4) v) s = .next (s.committed init k i lo mask v) := by
  obtain ⟨hr, hq⟩ := h
  have hcase := rwPair_cases hpair
  have hlo : lo + 4 < 0x1000 ∧ (lo + 4) % 4 = 0 ∧ 0x40 ≤ lo + 4 := by omega
  have hi : i < instBound k := instance_lt_of_pageOf hp
  have hpage : IsPage k i := ⟨hi, fun hf => by subst hf; simp at hcase⟩
  have hlock : s.ownerLock k i = false := by
    obtain ⟨rfl, -⟩ | ⟨rfl, -⟩ := hcase
    · rfl
    · rfl
  have hclk : k ∉ [PageKind.mould, .cruc, .fum] := by
    obtain ⟨rfl, -⟩ | ⟨rfl, -⟩ := hcase
    · decide
    · decide
  have hblock : s.writeBlock init k i (lo + 4) v = (s.committed init k i lo mask v, 0) := by
    unfold State.writeBlock
    simp only [rwPair_high hpair, Nat.le_add_left, if_true, Nat.add_sub_cancel, hpair, Option.map_some]
    refine if_neg fun hen => ?_
    obtain ⟨hk, hen⟩ := hen
    subst hk
    obtain ⟨h, -⟩ | ⟨-, h1, h2, h3⟩ := hcase
    · cases h
    · obtain h | h := hfree
      · cases h
      · rw [show (lo + 4 - 0x100) / 0x40 = (lo - 0x100) / 0x40 by omega, h] at hen
        cases hen
  obtain ⟨hb, -, -, -, hother⟩ := State.committed_frame hr.1 init k i lo mask v
  have hquiet : (s.committed init k i lo mask v).NothingToTake := by
    obtain ⟨x, hx⟩ := id hb
    have hrg (r o : Nat) (hr : r < 9) (ho : o = 0x10 ∨ o = 0x14 ∨ o = 0x18) :
        (s.committed init k i lo mask v).ringRg r o = s.ringRg r o := by
      refine congrArg BitVec.toNat (hother _ ?_ ?_)
      · obtain ⟨rfl, -⟩ | ⟨rfl, h⟩ := hcase <;> simp only [pageNo, ringOff] <;> omega
      · obtain ⟨rfl, -⟩ | ⟨rfl, h⟩ := hcase <;> simp only [pageNo, ringOff] <;> omega
    intro r hr9
    have hserved : (s.committed init k i lo mask v).served r = s.served r := by
      simp only [State.served, State.ringEn, hrg r 0x10 hr9 (.inl rfl)]
      rw [hx]
      rfl
    have hused : (s.committed init k i lo mask v).sqUsed r = s.sqUsed r := by
      simp only [State.sqUsed, hrg r 0x14 hr9 (.inr (.inl rfl)), hrg r 0x18 hr9 (.inr (.inr rfl))]
    rw [hserved, hused]
    exact hq r hr9
  rw [Nat.add_assoc]
  exact State.pageWrite_block hr hpage ⟨hlo.2.2, hlo.1, hlo.2.1⟩ (fun _ => hlock) hclk hblock hquiet

/-- Settles O56. -/
theorem pageRegistersAct : Obligations.PageRegistersAct := by
  intro s init v h
  obtain ⟨hr, -⟩ := id h
  have c := hr.1
  refine ⟨?_, ?_, fun k i o ho hp hg hmem => ?_, fun k i o w ho hp hg hmem hno => ?_,
    fun k i lo mask hp hpair hfree => ?_⟩
  · have hex : exec (.glbFenceRead init) s =
        .next ((s.setBus { s.bus with fences := s.bus.fences + 1 }).setRead init (w32 (s.bus.fences + 1)).toNat) :=
      congrArg Host.Outcome.next
        (readAccess_of_reaches hr (k := .glb) (i := 0) rfl rfl (by decide) (by decide) readReg_fence)
    exact ⟨_, hex, rfl, tget_tput_same _ _ _ c.bus.read, rfl, rfl⟩
  · have hex : exec (.loReadCapture init 0x44) s = .next ((s.capturing init .glb 0 0x44).setRead init _) :=
      congrArg Host.Outcome.next
        (readAccess_of_reaches hr (k := .glb) (i := 0) (off := 0x44) rfl rfl (by decide) (by decide)
          (readReg_low (by decide)))
    refine ⟨_, hex, ?_, ?_⟩
    · refine (tget_tput_same _ _ _ c.bus.read).trans (congrArg BitVec.toNat (BitVec.eq_of_toNat_eq ?_))
      change s.dev.time % 2 ^ 32 % 2 ^ 32 = s.dev.time % 2 ^ 32
      omega
    · refine (tget_tput_same _ _ _ c.bus.hi).trans (congrArg some (BitVec.eq_of_toNat_eq ?_))
      change s.dev.time / 2 ^ 32 % 2 ^ 32 % 2 ^ 32 = s.dev.time / 2 ^ 32 % 2 ^ 32
      omega
  · have hex : exec (.loReadCapture init (pageNo k i * 0x1000 + o)) s = .next (_ : State) :=
      congrArg Host.Outcome.next (readAccess_of_reaches hr hp hg ho (loRegs_aligned k o hmem)
        (readReg_low (init := init) (i := i) hmem))
    have hm : Moves [.bus, .fresh] s (if readsOpen k o then s.refresh k i else s) := .ite (.refresh s k i) .refl
    have cs : (if readsOpen k o then s.refresh k i else s).Canon :=
      (show Keeps true s _ from Keeps.ite' (fun _ => .refresh .refl) fun _ => .refl).canon c
    exact ⟨_, hex, hm.mem, hm.parts, tget_tput_same _ _ _ cs.bus.read, tget_tput_same _ _ _ cs.bus.hi⟩
  · have hal := loRegs_aligned k o hmem
    intro a hcap
    subst a
    have hlast : o + 4 < 0x1000 := loRegs_lt k o hmem
    have hal4 : (o + 4) % 4 = 0 := by omega
    rw [Nat.add_assoc] at hcap ⊢
    have hex : exec (.registerRead init (pageNo k i * 0x1000 + (o + 4)) 4) s = .next (s.setRead init w.toNat) :=
      congrArg Host.Outcome.next
        (readAccess_of_reaches hr hp hg hlast hal4 (readReg_high (init := init) (i := i) hmem hno hcap))
    exact ⟨_, hex, tget_tput_same _ _ _ c.bus.read, rfl⟩
  · obtain ⟨hb, hlow, hhigh, hheld, -⟩ := State.committed_frame c init k i lo mask v
    exact ⟨_, exec_hiWriteCommit h hp hpair hfree, hb.mem, hlow, hhigh, hheld⟩

end Sys2Proof.Machine
end

section
/-! SUPPORT. Traffic of the fabric (R353, R361, R363, R368, R273): what messages that leave by the ports,
  and ports that go
down, leave alone. -/
set_option Elab.async false

namespace Sys2Proof.Machine

variable {s t u : State} {n h r : Nat}

/-! ## Messages that leave -/

/-- A port without what it has sent and has to send. -/
def Port.shape (x : Port) : Port :=
  { x with tx := [], txWait := [], replay := [], txSeq := 0, credits := [], ethOut := [] }

theorem Port.shape_txOne {x y : Port} {k : Nat} (h : x.txOne = some (k, y)) : y.shape = x.shape := by
  unfold Port.txOne at h
  split at h
  · split at h
    · split at h
      · obtain ⟨rfl, rfl⟩ := Prod.mk.inj (Option.some.inj h)
        rfl
      · cases h
    · cases h
  · cases h

theorem Port.shape_txAll (n b : Nat) (x : Port) : (Port.txAll n x b).1.shape = x.shape := by
  induction n generalizing x b with
  | zero => rfl
  | succ n ih =>
    unfold Port.txAll
    split
    · exact (ih ..).trans (Port.shape_txOne ‹_›)
    · rfl

/-- From `s` to `t` messages leave by ports that are not down. -/
structure Sends (s t : State) : Prop where
  canon : t.Canon
  moves : Moves [.bus, .fabric] s t
  fabric : { t.fabric with ports := [], tags := [] } = { s.fabric with ports := [], tags := [] }
  shape : ∀ q, (t.port q).shape = (s.port q).shape
  down : ∀ q, (s.port q).st = .down → t.port q = s.port q
  page : ∀ k i off, off < 0x1000 → (off = 0x70 ∨ off = 0x74 → ∀ q, q < 16 → pageNo k i ≠ pageNo .port q) →
    t.pg k i off = s.pg k i off

theorem Sends.refl (c : s.Canon) : Sends s s :=
  ⟨c, .refl, rfl, fun _ => rfl, fun _ _ => rfl, fun _ _ _ _ _ => rfl⟩

theorem Port.st_of_shape {x y : Port} (h : y.shape = x.shape) : y.st = x.st := by
  have := congrArg Port.st h
  exact this

theorem Sends.trans (h : Sends s t) (h' : Sends t u) : Sends s u where
  canon := h'.canon
  moves := h.moves.andThen h'.moves
  fabric := h'.fabric.trans h.fabric
  shape q := (h'.shape q).trans (h.shape q)
  down q hq := (h'.down q ((Port.st_of_shape (h.shape q)).trans hq)).trans (h.down q hq)
  page k i off ho hp := (h'.page k i off ho hp).trans (h.page k i off ho hp)

theorem Moves.setFabric (s : State) (x : Fabric) : Moves [.fabric] s (s.setFabric x) := fun f hf => by
  cases f with
  | fabric => exact absurd List.mem_cons_self hf
  | _ => rfl

theorem State.canon_setPort (c : s.Canon) (n : Nat) (x : Port) : (s.setPort n x).Canon :=
  { c with ports := twf_tput _ _ _ c.ports }

/-- A port that is not down has sent, or has more to send. -/
theorem Sends.setPort (c : s.Canon) {x : Port} (hst : (s.port n).st ≠ .down) (hx : x.shape = (s.port n).shape) :
    Sends s (s.setPort n x) where
  canon := State.canon_setPort c n x
  moves := (Moves.setFabric s _).mono
  fabric := rfl
  shape q := by
    by_cases hq : q = n
    · rw [hq, State.port_setPort c, hx]
    · rw [State.port_setPort_ne c _ hq]
  down q hq := State.port_setPort_ne c _ (by rintro rfl; exact hst hq)
  page _ _ _ _ _ := rfl

theorem State.pg_count64_ne (c : s.Canon) {k k' : PageKind} {i i' off off' : Nat} (b : Nat)
    (h : pageNo k' i' ≠ pageNo k i ∨ (off' ≠ off ∧ off' ≠ off + 4)) (ho : off' < 0x1000) (ho' : off + 4 < 0x1000) :
    (s.count64 k i off b).pg k' i' off' = s.pg k' i' off' := by
  unfold State.count64
  dsimp only
  rw [State.pg_setPg_ne (State.canon_setPg c ..) _ (by omega), State.pg_setPg_ne c _ (by omega)]

/-- The payload bytes that a port has sent are counted. -/
theorem Sends.count (c : s.Canon) (hn : n < 16) (b : Nat) : Sends s (s.count64 .port n 0x70 b) where
  canon := State.canon_setPg (State.canon_setPg c ..) ..
  moves := (Moves.ofBusOnly .count64).mono
  fabric := rfl
  shape _ := rfl
  down _ _ := rfl
  page k i off ho hp := by
    refine State.pg_count64_ne c b ?_ ho (by decide)
    by_cases h : off = 0x70 ∨ off = 0x74
    · exact .inl (hp h n hn)
    · exact .inr (by omega)

theorem Sends.ite {c : Prop} [Decidable c] (ht : c → Sends s t) (hu : ¬ c → Sends s u) :
    Sends s (if c then t else u) := by
  split
  · exact ht ‹_›
  · exact hu ‹_›

theorem Sends.txPump (c : s.Canon) (hn : n < 16) : Sends s (s.txPump n) := by
  unfold State.txPump
  dsimp only
  refine .ite (fun hcan => ?_) fun _ => .refl c
  have hst : (s.port n).st ≠ .down := by
    obtain ⟨-, h | h | h⟩ := hcan
    · rw [h]; decide
    · rw [h]; decide
    · rw [h.1]; decide
  have hput := Sends.setPort (n := n) c hst (Port.shape_txAll 256 0 (s.port n))
  exact hput.trans (.count hput.canon hn _)

theorem Sends.ethPut (c : s.Canon) (hn : n < 16) (hst : (s.port n).st ≠ .down) (m : FabMsg) (b : Nat) :
    Sends s (s.ethPut n m b) := by
  refine .ite (fun _ => ?_) fun _ => .refl c
  have hput : Sends s (s.modPort n fun x => { x with tx := x.tx ++ [m] }) := .setPort c hst rfl
  exact hput.trans (.count hput.canon hn _)

theorem Sends.portSend (c : s.Canon) (hn : n < 16) (hst : (s.port n).st ≠ .down) (half : Nat) (m : FabMsg) :
    Sends s (s.portSend n half m) := by
  refine .ite (fun _ => ?_) fun _ => ?_
  · have hput : Sends s (s.modPort n fun x => { x with
        ethOut := if m.opcode = 3 then x.ethOut else x.ethOut ++ [⟨0, half, m⟩] }) := .setPort c hst rfl
    refine hput.trans (.ethPut hput.canon hn ?_ m _)
    rwa [Port.st_of_shape (hput.shape n)]
  · have hput : Sends s (s.modPort n fun x => { x with
        txWait := tput [] x.txWait m.vc (tget [] x.txWait m.vc ++ [(m.bytes, m)]) }) := .setPort c hst rfl
    exact hput.trans (.txPump hput.canon hn)

/-- A route leads to a port that is not down. -/
theorem State.routeOf_some {d dst : Nat} (h : s.routeOf d dst = some (n, r)) :
    n = bits (tget 0x1F s.fabric.routes (d * 65536 + dst)) 4 0 ∧ n < 16 ∧ (s.port n).st ≠ .down ∧
      (s.port n).halfGone.contains r = false := by
  unfold State.routeOf at h
  dsimp only at h
  generalize (if s.isHalves (bits (tget 0x1F s.fabric.routes (d * 65536 + dst)) 4 0) then
    bits (tget 0x1F s.fabric.routes (d * 65536 + dst)) 5 5 else 0) = half at h
  split at h
  case isTrue hc =>
    obtain ⟨rfl, rfl⟩ := Prod.mk.inj (Option.some.inj h)
    obtain ⟨hn, hst, hhalf⟩ := hc
    exact ⟨rfl, hn, hst, by simpa using hhalf⟩
  case isFalse => exact absurd h nofun

theorem Sends.setTags (c : s.Canon) (x : Tbl Nat) : Sends s (s.setFabric { s.fabric with tags := x }) :=
  ⟨{ c with }, (Moves.setFabric s _).mono, rfl, fun _ => rfl, fun _ _ => rfl, fun _ _ _ _ _ => rfl⟩

theorem Sends.fabSend (c : s.Canon) (d dst vc : Nat) (mk : Nat → Nat → FabMsg) : Sends s (s.fabSend d dst vc mk).1 := by
  unfold State.fabSend
  split
  · rename_i k half hroute
    obtain ⟨-, hk, hst, -⟩ := State.routeOf_some hroute
    have htag : Sends s (s.setFabric { s.fabric with
        tags := tput 0 s.fabric.tags (dst * 4 + vc) ((tget 0 s.fabric.tags (dst * 4 + vc) + 1) % 2 ^ 32) }) :=
          .setTags c _
    exact htag.trans (.portSend htag.canon hk hst half _)
  · exact .refl c

theorem Sends.noRouteTo (c : s.Canon) (d : Nat) (m : FabMsg) : Sends s (s.noRouteTo d m) :=
  .ite (fun _ => .refl c) fun _ => .fabSend c ..

/-! ## Ports that go down, and members that are lost with them -/

/-- From `s` to `t` messages leave, members are lost, and Vents tell of it. -/
structure Relays (s t : State) : Prop where
  canon : t.Canon
  moves : Moves [.mem, .bus, .rings, .parts, .sprue, .fabric] s t
  fabric : { t.fabric with ports := [], tags := [] } = { s.fabric with ports := [], tags := [] }
  shape : ∀ q, (t.port q).shape = (s.port q).shape
  down : ∀ q, (s.port q).st = .down → t.port q = s.port q
  page : ∀ k i off, off < 0x1000 → (off = 0x70 ∨ off = 0x74 → ∀ q, q < 16 → pageNo k i ≠ pageNo .port q) →
    pageNo k i ≠ pageNo .host 0 → (∀ d, d < 2 → pageNo k i ≠ pageNo .ladle d) → t.pg k i off = s.pg k i off
  host : ∀ off, off < 0x1000 → off ≠ 0x14 → off ≠ 0x20 → off ≠ 0xC00 → (∀ r, r < 9 → off ≠ ringOff r 0x20) →
    t.pg .host 0 off = s.pg .host 0 off
  ring : ∀ r, (t.ring r).core = (s.ring r).core

theorem Relays.refl (c : s.Canon) : Relays s s :=
  ⟨c, .refl, rfl, fun _ => rfl, fun _ _ => rfl, fun _ _ _ _ _ _ _ => rfl, fun _ _ _ _ _ _ => rfl, fun _ => rfl⟩

theorem Relays.trans (h : Relays s t) (h' : Relays t u) : Relays s u where
  canon := h'.canon
  moves := h.moves.andThen h'.moves
  fabric := h'.fabric.trans h.fabric
  shape q := (h'.shape q).trans (h.shape q)
  down q hq := (h'.down q ((Port.st_of_shape (h.shape q)).trans hq)).trans (h.down q hq)
  page k i off ho hp hh hl := (h'.page k i off ho hp hh hl).trans (h.page k i off ho hp hh hl)
  host off ho h1 h2 h3 h4 := (h'.host off ho h1 h2 h3 h4).trans (h.host off ho h1 h2 h3 h4)
  ring r := (h'.ring r).trans (h.ring r)

theorem Relays.ofSends (h : Sends s t) : Relays s t where
  canon := h.canon
  moves := h.moves.mono
  fabric := h.fabric
  shape := h.shape
  down := h.down
  page k i off ho hp _ _ := h.page k i off ho hp
  host off ho _ _ _ _ := h.page .host 0 off ho fun _ q _ => by simp only [pageNo]; omega
  ring r := by rw [h.moves.ring]

theorem Relays.ofTraffic (h : Traffic s t) : Relays s t where
  canon := h.canon
  moves := h.moves.mono
  fabric := by rw [h.moves.fabric]
  shape q := by rw [h.moves.port]
  down q _ := h.moves.port (by decide) q
  page k i off ho _ hh _ := h.page k i off ho hh
  host := h.host
  ring := h.ring

theorem Relays.foldl {α : Type} {f : State → α → State} (as : List α)
    (hf : ∀ x, x.Canon → ∀ a ∈ as, Relays x (f x a)) (c : s.Canon) : Relays s (as.foldl f s) :=
  List.foldlRecOn (motive := Relays s) _ _ (.refl c) fun x hx a ha => hx.trans (hf x hx.canon a ha)

/-- A member is written down as lost. -/
theorem Relays.lose (c : s.Canon) (p dev : Nat) : Relays s (s.modPart p fun q =>
    { q with ladle := { q.ladle with lost := q.ladle.lost ++ [dev] } }) where
  canon := (Keeps.modPart .refl).canon c
  moves := (Moves.setPart s p _).mono
  fabric := rfl
  shape _ := rfl
  down _ _ := rfl
  page _ _ _ _ _ _ _ := rfl
  host _ _ _ _ _ _ := rfl
  ring _ := rfl

theorem Relays.evErr {b code part info1 info2 d : Nat} (c : s.Canon) (hd : d < 2) :
    Relays s (s.evErr .ladle d b code part info1 info2) := by
  have hm : Moves [.bus] s (s.evErr .ladle d b code part info1 info2) := .evErr s (by decide)
  exact {
    canon := (Keeps.evErr .refl).canon c
    moves := hm.mono
    fabric := by rw [hm.fabric]
    shape := fun q => by rw [hm.port]
    down := fun q _ => hm.port (by decide) q
    page := fun k i off ho _ _ hl => State.pg_evErr_ne c (by decide) (hl d hd) ho
    host := fun off ho _ _ _ _ => State.pg_evErr_ne c (by decide) (by simp only [pageNo]; omega) ho
    ring := fun r => by rw [hm.ring] }

theorem Relays.memberLost (c : s.Canon) {p : Nat} (hp : p < 8) (dev : Nat) : Relays s (s.memberLost p dev) := by
  unfold State.memberLost
  dsimp only
  split
  · have h1 := Relays.lose c p dev
    have h2 := h1.trans (.evErr (b := 4) (code := 4) (part := p) (info1 := dev) (info2 := 0) (d := 0) h1.canon
        (by decide))
    have h3 := h2.trans (.evErr (b := 4) (code := 4) (part := p) (info1 := dev) (info2 := 0) (d := 1) h2.canon
        (by decide))
    exact h3.trans (.ofTraffic (Posts.vent (by omega) _ _ _ _ h3.canon))
  · exact .refl c

theorem Relays.lostRoute (c : s.Canon) (p dst : Nat) : Relays s (s.lostRoute p dst) := by
  unfold State.lostRoute
  split
  · exact .memberLost c ‹_› dst
  · exact .refl c

theorem State.portParts_lt (s : State) (n : Nat) : ∀ p ∈ s.portParts n, p < 8 :=
  fun _ h => List.mem_range.mp (List.mem_of_mem_filter h)

/-- What follows the event of a port that has gone down. -/
theorem Relays.portGone (c : s.Canon) (n reason : Nat) (gone : List FabMsg) :
    Relays (s.evErr .port n 2 reason 0xF 0 0) (s.portGone n reason gone) := by
  have ce : (s.evErr .port n 2 reason 0xF 0 0).Canon := (Keeps.evErr .refl).canon c
  have hv := Posts.vents (s.evErr .port n 2 reason 0xF 0 0)
    (rs := 8 :: (s.evErr .port n 2 reason 0xF 0 0).portParts n) (fun r hr => by
      obtain rfl | hr := List.mem_cons.mp hr
      · decide
      · have := State.portParts_lt _ _ r hr
        omega) 0x8008 ringPart
    (leBytes 1 n ++ leBytes 7 reason ++ leBytes 8 (s.evErr .port n 2 reason 0xF 0 0).now) ce
  refine (Relays.ofTraffic hv).trans (.foldl _ (fun x cx m _ => ?_) hv.canon)
  split
  · exact .lostRoute cx ..
  · exact .ofSends (.noRouteTo cx ..)

/-- A port that goes down, but for what becomes of its messages. -/
def Port.downed (x : Port) (reason : Nat) : Port :=
  { x with
    st := .down, reason := reason, r224 := false, ver := 0, helloDone := false, peer := none,
    looped := 15, replay := [], txWait := [], credits := [], rx := [], segs := [], ethOut := [],
    discard := false, halfGone := [] }

/-- Port `n` has gone down. -/
structure GoesDown (s t : State) (n reason : Nat) : Prop where
  canon : t.Canon
  moves : Moves [.mem, .bus, .rings, .parts, .sprue, .fabric] s t
  port : t.port n = (s.port n).downed reason
  event : bit (t.pg .port n 0x14) 2 = true
  cfg : t.pg .port n 0x40 = setBits (s.pg .port n 0x40) 2 2 0 % 2 ^ 32
  kept : ∀ b, b < 32 → bit (s.pg .port n 0x14) b = true → bit (t.pg .port n 0x14) b = true
  page : ∀ k i off, off < 0x1000 → (∀ q, q < 16 → pageNo k i ≠ pageNo .port q) →
    pageNo k i ≠ pageNo .host 0 → (∀ d, d < 2 → pageNo k i ≠ pageNo .ladle d) → t.pg k i off = s.pg k i off
  host : ∀ off, off < 0x1000 → off ≠ 0x14 → off ≠ 0x20 → off ≠ 0xC00 → (∀ r, r < 9 → off ≠ ringOff r 0x20) →
    t.pg .host 0 off = s.pg .host 0 off
  ring : ∀ r, (t.ring r).core = (s.ring r).core

theorem State.bit_evErr_of_bit {b code part info1 info2 i m : Nat} {k : PageKind} (c : s.Canon) (hk : k ≠ .host)
    (hm : m < 32) (h : bit (s.pg k i 0x14) m = true) :
    bit ((s.evErr k i b code part info1 info2).pg k i 0x14) m = true := by
  rw [State.evErr, State.bit_errLog ((Keeps.evSet .refl).canon c) hk hm, State.bit_evSet c hk hm, h, Bool.true_or,
    Bool.true_or]

/-- A port that is not down goes down. -/
theorem State.portDown_goes (c : s.Canon) (hn : n < 16) (hst : (s.port n).st ≠ .down) (reason : Nat) :
    GoesDown s (s.portDown n reason) n reason := by
  have cx := State.canon_setPort c n ((s.port n).downed reason)
  have hport : (s.setPort n ((s.port n).downed reason)).port n = (s.port n).downed reason := State.port_setPort c _ _
  have hmx : Moves [.fabric] s (s.setPort n ((s.port n).downed reason)) := .setFabric s _
  have hpgx (k : PageKind) (i off : Nat) : (s.setPort n ((s.port n).downed reason)).pg k i off = s.pg k i off := rfl
  obtain ⟨gone, hgone⟩ : ∃ gone, s.portDown n reason =
      ((s.setPort n ((s.port n).downed reason)).setPg .port n 0x40
        (setBits ((s.setPort n ((s.port n).downed reason)).pg .port n 0x40) 2 2 0)).portGone n reason gone :=
    ⟨_, if_neg hst⟩
  rw [hgone]
  generalize s.setPort n ((s.port n).downed reason) = x at cx hport hmx hpgx
  have cy : (x.setPg .port n 0x40 (setBits (x.pg .port n 0x40) 2 2 0)).Canon := State.canon_setPg cx ..
  have hmy : Moves [.bus] x (x.setPg .port n 0x40 (setBits (x.pg .port n 0x40) 2 2 0)) := .ofBusOnly .setPg
  have hcfg : (x.setPg .port n 0x40 (setBits (x.pg .port n 0x40) 2 2 0)).pg .port n 0x40 =
      setBits (s.pg .port n 0x40) 2 2 0 % 2 ^ 32 := (State.pg_setPg cx ..).trans (by rw [hpgx])
  have hpgy (k : PageKind) (i off : Nat) (h : pageNo k i ≠ pageNo .port n ∨ off ≠ 0x40) (ho : off < 0x1000) :
      (x.setPg .port n 0x40 (setBits (x.pg .port n 0x40) 2 2 0)).pg k i off = s.pg k i off :=
    (State.pg_setPg_ne cx _ (by omega)).trans (hpgx ..)
  generalize x.setPg .port n 0x40 (setBits (x.pg .port n 0x40) 2 2 0) = y at cy hmy hcfg hpgy
  have hmz : Moves [.bus] y (y.evErr .port n 2 reason 0xF 0 0) := .evErr y (by decide)
  have hbit : bit ((y.evErr .port n 2 reason 0xF 0 0).pg .port n 0x14) 2 = true :=
    State.bit_evErr_self cy (by decide) (by decide)
  have hkept (b : Nat) (hb : b < 32) (h : bit (s.pg .port n 0x14) b = true) :
      bit ((y.evErr .port n 2 reason 0xF 0 0).pg .port n 0x14) b = true :=
    State.bit_evErr_of_bit cy (by decide) hb (by rwa [hpgy _ _ _ (.inr (by decide)) (by decide)])
  have hpgz (k : PageKind) (i off : Nat) (h : pageNo k i ≠ pageNo .port n) (ho : off < 0x1000) :
      (y.evErr .port n 2 reason 0xF 0 0).pg k i off = s.pg k i off :=
    (State.pg_evErr_ne cy (by decide) h ho).trans (hpgy _ _ _ (.inl h) ho)
  have hcfgz : (y.evErr .port n 2 reason 0xF 0 0).pg .port n 0x40 = setBits (s.pg .port n 0x40) 2 2 0 % 2 ^ 32 :=
    (State.pg_evErr_block cy (by decide) (by decide)).trans hcfg
  have hportz : (y.evErr .port n 2 reason 0xF 0 0).port n = (s.port n).downed reason := by
    rw [hmz.port, hmy.port, hport]
  have hmall : Moves [.bus, .fabric] s (y.evErr .port n 2 reason 0xF 0 0) := (hmx.mono.andThen hmy).andThen hmz
  have hrel := Relays.portGone cy n reason gone
  have hkey : ∀ off, off < 0x1000 → (off = 0x70 ∨ off = 0x74 → ∀ q, q < 16 → pageNo .port n ≠ pageNo .port q) →
      (y.portGone n reason gone).pg .port n off = (y.evErr .port n 2 reason 0xF 0 0).pg .port n off := fun off ho h =>
    hrel.page .port n off ho h (by simp only [pageNo]; omega) fun d _ => by simp only [pageNo]; omega
  exact {
    canon := hrel.canon
    moves := hmall.mono.andThen hrel.moves
    port := (hrel.down n (by rw [hportz]; rfl)).trans hportz
    event := by rw [hkey _ (by decide) (by omega)]; exact hbit
    cfg := by rw [hkey _ (by decide) (by omega)]; exact hcfgz
    kept := fun b hb h => by rw [hkey _ (by decide) (by omega)]; exact hkept b hb h
    page := fun k i off ho hp hh hl => (hrel.page k i off ho (fun _ => hp) hh hl).trans (hpgz k i off (hp n hn) ho)
    host := fun off ho h1 h2 h3 h4 => (hrel.host off ho h1 h2 h3 h4).trans
      (hpgz _ _ _ (by simp only [pageNo]; omega) ho)
    ring := fun r => (hrel.ring r).trans (by rw [hmall.ring]) }

/-- What a ring has to take depends on its configuration and its pointers of the submission ring alone. -/
theorem State.nothingToTake_of_rings (h : s.NothingToTake) (hdev : t.dev.state = s.dev.state) (htaps : t.taps = s.taps)
    (hrings : ∀ r, (t.ring r).stopped = (s.ring r).stopped)
    (hpg : ∀ r, r < 9 → ∀ off, off ∈ [0x10, 0x14, 0x18] → t.ringRg r off = s.ringRg r off) : t.NothingToTake := by
  intro r hr
  have hrg := hpg r hr
  have hserved : t.served r = s.served r := by
    simp only [State.served, State.hostPort, State.drives, State.tap, State.ringEn, hdev, htaps, hrings,
      hrg 0x10 (by decide)]
  have hused : t.sqUsed r = s.sqUsed r := by
    simp only [State.sqUsed, hrg 0x14 (by decide), hrg 0x18 (by decide)]
  rw [hserved, hused]
  exact h r hr

theorem ringRg_of_host (hhost : ∀ off, off < 0x1000 → off ≠ 0x14 → off ≠ 0x20 → off ≠ 0xC00 →
      (∀ r, r < 9 → off ≠ ringOff r 0x20) → t.pg .host 0 off = s.pg .host 0 off) {off : Nat} (hr : r < 9)
    (ho : off ∈ [0x10, 0x14, 0x18]) : t.ringRg r off = s.ringRg r off := by
  have ho' : off = 0x10 ∨ off = 0x14 ∨ off = 0x18 := by simpa using ho
  unfold State.ringRg
  have hring (q : Nat) (hq : q < 9) : ringOff r off ≠ ringOff q 0x20 := by
    unfold ringOff
    omega
  refine hhost _ ?_ ?_ ?_ ?_ hring <;> unfold ringOff <;> omega

theorem GoesDown.nothingToTake {reason : Nat} (h : GoesDown s t n reason) (hq : s.NothingToTake) : t.NothingToTake :=
  State.nothingToTake_of_rings hq (by rw [h.moves.dev]) (h.moves .taps (by decide))
    (fun q => (congrArg Ring.stopped (h.ring q) :))
    fun _ hr _ ho => ringRg_of_host h.host hr ho

end Sys2Proof.Machine
end

section
/-! SUPPORT. The registers of a port (R350, R351, R360, R361, R366, R368); and the statement about them. -/
set_option Elab.async false

namespace Sys2Proof.Machine

variable {s t : State} {init n hi lo : Nat} {v : Word}

/-! ## Fields of words -/

theorem bits_or (x y hi lo : Nat) : bits (x ||| y) hi lo = bits x hi lo ||| bits y hi lo := by
  unfold bits
  refine Nat.eq_of_testBit_eq fun i => ?_
  simp only [Nat.testBit_mod_two_pow, Nat.testBit_div_two_pow, Nat.testBit_or, Bool.and_or_distrib_left]

theorem bit_or (x y i : Nat) : bit (x ||| y) i = (bit x i || bit y i) := by
  simp only [bit_eq_testBit, Nat.testBit_or]

theorem bits_modeSet (old mode : Nat) : bits (setBits old 1 0 mode) 1 0 = mode % 4 := by
  simp only [bits, setBits]
  omega

theorem bits_limitSet_mode (old x : Nat) : bits (setBits old 23 8 x) 1 0 = bits old 1 0 := by
  simp only [bits, setBits]
  omega

theorem bits_limitSet (old x : Nat) : bits (setBits old 23 8 x) 23 8 = x % 65536 := by
  simp only [bits, setBits]
  omega

theorem modeSet_lt {old : Nat} (h : old < 2 ^ 32) (mode : Nat) : setBits old 1 0 mode < 2 ^ 32 := by
  simp only [bits, setBits]
  omega

theorem limitSet_lt {old : Nat} (h : old < 2 ^ 32) (x : Nat) : setBits old 23 8 x < 2 ^ 32 := by
  simp only [bits, setBits]
  omega

theorem bits_lt (v hi lo : Nat) : bits v hi lo < 2 ^ (hi + 1 - lo) := Nat.mod_lt _ (Nat.two_pow_pos _)

theorem bits_32_zero {v : Nat} (h : bits v 3 2 = 0) : bit v 2 = false ∧ bit v 3 = false := by
  simp only [bits, bit, decide_eq_false_iff_not] at h ⊢
  omega

theorem State.pg_lt (s : State) (k : PageKind) (i off : Nat) : s.pg k i off < 2 ^ 32 := BitVec.isLt _

/-! ## PORT_CFG -/

/-- PORT_CFG with MODE and LANE_LIMIT written. -/
def State.cfgWritten (s : State) (n v : Nat) : State :=
  let t := s.setPg .port n 0x40 (setBits (s.pg .port n 0x40) 1 0 (bits v 1 0))
  t.setPg .port n 0x40 (setBits (t.pg .port n 0x40) 23 8 (bits v 23 8))

/-- PORT_CFG with LANE_LIMIT written, and CFG_ERR for the MODE. -/
def State.cfgRefused (s : State) (n v : Nat) : State :=
  let t := s.portCfgErr n
  t.setPg .port n 0x40 (setBits (t.pg .port n 0x40) 23 8 (bits v 23 8))

theorem State.cfgWritten_frame (c : s.Canon) (n v : Nat) :
    (s.cfgWritten n v).Canon ∧ BusOnly s (s.cfgWritten n v) ∧
      (s.cfgWritten n v).pg .port n 0x40 =
        setBits (setBits (s.pg .port n 0x40) 1 0 (bits v 1 0)) 23 8 (bits v 23 8) ∧
      ∀ k i off, (pageNo k i ≠ pageNo .port n ∨ off ≠ 0x40) → off < 0x1000 →
        (s.cfgWritten n v).pg k i off = s.pg k i off := by
  have ct : (s.setPg .port n 0x40 (setBits (s.pg .port n 0x40) 1 0 (bits v 1 0))).Canon := State.canon_setPg c ..
  have hold := s.pg_lt .port n 0x40
  have hmode := modeSet_lt hold (bits v 1 0)
  refine ⟨State.canon_setPg ct .., .trans .setPg .setPg, ?_, fun k i off h ho => ?_⟩
  · refine (State.pg_setPg ct ..).trans ?_
    rw [State.pg_setPg c, Nat.mod_eq_of_lt hmode, Nat.mod_eq_of_lt (limitSet_lt hmode _)]
  · exact (State.pg_setPg_ne ct _ (by omega)).trans (State.pg_setPg_ne c _ (by omega))

theorem State.cfgRefused_frame (c : s.Canon) (n v : Nat) :
    (s.cfgRefused n v).Canon ∧ BusOnly s (s.cfgRefused n v) ∧
      bits ((s.cfgRefused n v).pg .port n 0x40) 1 0 = bits (s.pg .port n 0x40) 1 0 ∧
      bit ((s.cfgRefused n v).pg .port n 0x14) 7 = true ∧
      ∀ k i off, pageNo k i ≠ pageNo .port n → off < 0x1000 → (s.cfgRefused n v).pg k i off = s.pg k i off := by
  have ct : (s.portCfgErr n).Canon := (Keeps.evSet .refl).canon c
  have hold := (s.portCfgErr n).pg_lt .port n 0x40
  have hcfg : (s.portCfgErr n).pg .port n 0x40 = s.pg .port n 0x40 := State.pg_evSet_block c (by decide) (by decide)
  refine ⟨State.canon_setPg ct .., .trans (.evSet (by decide)) .setPg, ?_, ?_, fun k i off h ho => ?_⟩
  · have hset : (s.cfgRefused n v).pg .port n 0x40 = _ := State.pg_setPg ct ..
    rw [hset, Nat.mod_eq_of_lt (limitSet_lt hold _), bits_limitSet_mode, hcfg]
  · have hset : (s.cfgRefused n v).pg .port n 0x14 = _ := State.pg_setPg_ne ct _ (by omega)
    rw [hset]
    exact State.bit_evSet_self c (by decide) (by decide)
  · exact (State.pg_setPg_ne ct _ (by omega)).trans (State.pg_evSet_ne c (by decide) (by omega) (by omega))

/-- A MODE that is not discarded. -/
theorem State.writePortCfg_taken {v : Nat}
    (h : ¬ (bits v 1 0 ≠ bits (s.pg .port n 0x40) 1 0 ∧ ((s.port n).st ≠ .down ∨ bits v 1 0 = 3))) :
    s.writePortCfg n v = if bit v 3 then
      (if (s.port n).st = .down then s.cfgWritten n v else (s.cfgWritten n v).portDown n 6)
      else if bit v 2 then (s.cfgWritten n v).portTrain n else s.cfgWritten n v := by
  unfold State.writePortCfg
  dsimp only
  rw [if_neg h]
  rfl

theorem State.writePortCfg_discarded {v : Nat} (h2 : bit v 2 = false) (h3 : bit v 3 = false)
    (h : bits v 1 0 ≠ bits (s.pg .port n 0x40) 1 0 ∧ ((s.port n).st ≠ .down ∨ bits v 1 0 = 3)) :
    s.writePortCfg n v = s.cfgRefused n v := by
  unfold State.writePortCfg
  dsimp only
  rw [if_pos h, h2, h3]
  rfl

/-- TRAIN of a down port of a device with an identifier. -/
def Port.training (x : Port) : Port :=
  { x with
    st := .training, r224 := false, ver := 0, helloDone := false, trained := false, sparing := 15,
    named := false, halfGone := [], peer := none, txSeq := 0, rxSeq := 0, replay := [], credits := [], given := [],
    ackSent := 0, ctl := [], discard := false, replayRun := (0, 0), rx := [], segs := [] }

theorem State.portTrain_starts (hid : s.fabric.devId ≠ 0xFFFF) (hst : (s.port n).st = .down) :
    s.portTrain n = ((s.setPort n (s.port n).training).moves .port n).setPg .port n 0x40
      ((s.setPort n (s.port n).training).pg .port n 0x40 ||| 4) := by
  unfold State.portTrain
  dsimp only
  rw [if_neg (show ¬ s.devId = 0xFFFF from hid), if_neg (by simp [hst])]
  rfl

theorem State.portTrain_frame (c : s.Canon) (hid : s.fabric.devId ≠ 0xFFFF) (hst : (s.port n).st = .down) :
    Moves [.bus, .fabric] s (s.portTrain n) ∧ (s.portTrain n).port n = (s.port n).training ∧
      bit ((s.portTrain n).pg .port n 0x40) 2 = true ∧
      bits ((s.portTrain n).pg .port n 0x40) 23 8 = bits (s.pg .port n 0x40) 23 8 ∧
      ∀ k i off, pageNo k i ≠ pageNo .port n → off < 0x1000 → (s.portTrain n).pg k i off = s.pg k i off := by
  rw [State.portTrain_starts hid hst]
  have cp := State.canon_setPort c n (s.port n).training
  have hport := State.port_setPort c n (s.port n).training
  have hmp : Moves [.fabric] s (s.setPort n (s.port n).training) := .setFabric s _
  have hpgp (k : PageKind) (i off : Nat) : (s.setPort n (s.port n).training).pg k i off = s.pg k i off := rfl
  generalize s.setPort n (s.port n).training = x at cp hport hmp hpgp
  have cm : (x.moves .port n).Canon := (Keeps.moves .refl).canon cp
  have hmv : Moves [.bus] x (x.moves .port n) := .ofBusOnly .moves
  have hpgm (k : PageKind) (i off : Nat) : (x.moves .port n).pg k i off = s.pg k i off := by
    rw [← hpgp]
    unfold State.moves
    dsimp only
    split
    · rfl
    · rfl
  have hset : ((x.moves .port n).setPg .port n 0x40 (x.pg .port n 0x40 ||| 4)).pg .port n 0x40 =
      s.pg .port n 0x40 ||| 4 := by
    rw [State.pg_setPg cm, hpgp, Nat.mod_eq_of_lt (Nat.or_lt_two_pow (s.pg_lt ..) (by decide))]
  refine ⟨(hmp.mono.andThen hmv).andThen (Moves.ofBusOnly .setPg), ?_, ?_, ?_, fun k i off h ho => ?_⟩
  · exact (hmv.port (by decide) n).trans hport
  · rw [hset, bit_or]
    exact Bool.or_true _
  · rw [hset, bits_or]
    exact Nat.or_zero _
  · exact (State.pg_setPg_ne cm _ (by omega)).trans (hpgm ..)

/-! ## Writes of a port's page -/

section
variable (hr : Stated.Reaches s init) (hn : n < 16)

theorem pageNo_host_ne_port (hn : n < 16) : pageNo .host 0 ≠ pageNo .port n := pageNo_ne_host (by decide) hn

include hr hn

theorem exec_portCfg (hq : (s.writePortCfg n v.toNat).NothingToTake) :
    s.pageWrite init .port n 0x40 v = .next (s.writePortCfg n v.toNat) :=
  State.pageWrite_block hr ⟨hn, nofun⟩ (by decide) (fun _ => rfl) (by decide) rfl hq

theorem State.nothingToTake_cfgWritten (hq : s.NothingToTake) (x : Nat) : (s.cfgWritten n x).NothingToTake := by
  obtain ⟨-, hb, -, hpg⟩ := State.cfgWritten_frame hr.1 n x
  exact State.nothingToTake_of_busOnly hq hb fun off ho => hpg _ _ _ (.inl (pageNo_host_ne_port hn)) ho

theorem State.nothingToTake_cfgRefused (hq : s.NothingToTake) (x : Nat) : (s.cfgRefused n x).NothingToTake := by
  obtain ⟨-, hb, -, -, hpg⟩ := State.cfgRefused_frame hr.1 n x
  exact State.nothingToTake_of_busOnly hq hb fun off ho => hpg _ _ _ (pageNo_host_ne_port hn) ho

end

/-- DEV_ID is written while every port is down. -/
theorem exec_devIdWrite (hr : Stated.Reaches s init) (hq : s.NothingToTake) (hn : n < 16) :
    exec (.devIdWrite init n v) s =
      .next (if (List.range 16).all fun q => (s.port q).st == .down then
        s.setFabric { s.fabric with devId := v.toNat % 65536 } else s) := by
  refine State.pageWrite_block hr ⟨hn, nofun⟩ (by decide) (fun _ => rfl) (by decide) rfl ?_
  change State.NothingToTake (if _ then _ else _)
  split
  · exact State.nothingToTake_of_same hq rfl rfl (fun _ => rfl) fun _ _ => rfl
  · exact hq

/-- A register of a port that takes the values of its range, and else raises CFG_ERR. -/
theorem pageWrite_ranged (hr : Stated.Reaches s init) (hq : s.NothingToTake) (hn : n < 16) {off b : Nat} {p : Prop}
    [Decidable p] (hoff : 0x40 ≤ off ∧ off < 0x1000 ∧ off % 4 = 0) (hb : b < 2 ^ 32)
    (hw : s.writeBlock init .port n off v = (if p then s.setPg .port n off b else s.portCfgErr n, 0)) :
    ∃ t, s.pageWrite init .port n off v = .next t ∧ t.fabric = s.fabric ∧ (p → t.pg .port n off = b) ∧
      (¬ p → t.pg .port n off = s.pg .port n off ∧ bit (t.pg .port n 0x14) 7 = true) := by
  have c := hr.1
  by_cases h : p
  · rw [if_pos h] at hw
    have hset : (s.setPg .port n off b).pg .port n off = b := (State.pg_setPg c ..).trans (Nat.mod_eq_of_lt hb)
    exact ⟨_, State.pageWrite_block hr ⟨hn, nofun⟩ hoff (fun _ => rfl) (by decide) hw
      (State.nothingToTake_setPg c hq (pageNo_host_ne_port hn) hoff.2.1 b), rfl, fun _ => hset, fun hp => absurd h hp⟩
  · rw [if_neg h] at hw
    have hm : Moves [.bus] s (s.portCfgErr n) := .evSet s (by decide)
    have hkeep : (s.portCfgErr n).pg .port n off = s.pg .port n off := State.pg_evSet_block c (by decide) (by omega)
    exact ⟨_, State.pageWrite_block hr ⟨hn, nofun⟩ hoff (fun _ => rfl) (by decide) hw
      (State.nothingToTake_evSet c hq (by decide) (pageNo_host_ne_port hn)), hm.fabric, fun hp => absurd hp h,
      fun _ => ⟨hkeep, State.bit_evSet_self c (by decide) (by decide)⟩⟩

/-- Bits that a word does not have, beside its own. -/
theorem bits_orWord {w : Word} (h : bits w.toNat hi lo = 0) (v : Word) :
    bits (v ||| w).toNat hi lo = bits v.toNat hi lo := by
  rw [BitVec.toNat_or, bits_or, h, Nat.or_zero]

/-- Settles O50. -/
theorem portsAreConfigured : Obligations.PortsAreConfigured := by
  intro s init n v hplain hn
  obtain ⟨hr, hq⟩ := hplain
  have hq : s.NothingToTake := hq
  have c := hr.1
  have hne := pageNo_host_ne_port hn
  have hqw (x : Nat) := State.nothingToTake_cfgWritten hr hn hq x
  have hport (x : Nat) : (s.cfgWritten n x).port n = s.port n := by
    rw [(Moves.ofBusOnly (State.cfgWritten_frame c n x).2.1).port]
  have hfab (x : Nat) : (s.cfgWritten n x).fabric = s.fabric := by
    rw [(Moves.ofBusOnly (State.cfgWritten_frame c n x).2.1).fabric]
  have hmem (x : Nat) : (s.cfgWritten n x).mem = s.mem := (State.cfgWritten_frame c n x).2.1.mem
  refine ⟨fun hm h3 hst hid => ?_, fun hm h3 hid => ?_, fun hm hst => ?_, fun h32 hst hm => ?_, fun h32 hst hm => ?_,
    fun hdown => ?_, fun q hq16 hup => ?_, ?_, ?_⟩
  · have hm4 : bits (v ||| 4#32).toNat 1 0 = bits v.toNat 1 0 := bits_orWord (by decide) v
    have hlim : bits (v ||| 4#32).toNat 23 8 = bits v.toNat 23 8 := bits_orWord (by decide) v
    have h3' : bit (v ||| 4#32).toNat 3 = false := by rw [BitVec.toNat_or, bit_or, h3]; rfl
    have h2' : bit (v ||| 4#32).toNat 2 = true := by rw [BitVec.toNat_or, bit_or]; exact Bool.or_true _
    have hex := exec_portCfg (v := v ||| 4#32) hr hn
    generalize (v ||| 4#32).toNat = w at hm4 hlim h3' h2' hex
    obtain ⟨cw, -, hcfg, hpgw⟩ := State.cfgWritten_frame c n w
    have hwrite : s.writePortCfg n w = (s.cfgWritten n w).portTrain n := by
      rw [State.writePortCfg_taken fun h => h.1 (hm4.trans hm), h3', h2']
      rfl
    obtain ⟨hmt, hpt, hbit, hbits, hpg⟩ := State.portTrain_frame cw (n := n) (by rwa [hfab]) (by rwa [hport])
    rw [hwrite] at hex
    have hquiet : ((s.cfgWritten n w).portTrain n).NothingToTake :=
      State.nothingToTake_of_same (hqw w) (by rw [hmt.dev]) (hmt .taps (by decide)) (fun r => by rw [hmt.ring])
        fun off ho => hpg _ _ _ hne ho
    refine ⟨_, hex hquiet, ?_, ?_, ?_, ?_, hbit, ?_, hmt.mem.trans (hmem w)⟩
    · rw [hpt]; rfl
    · rw [hpt]; rfl
    · rw [hpt]; rfl
    · rw [hpt]; rfl
    · rw [hbits, hcfg, bits_limitSet, hlim]
      exact Nat.mod_eq_of_lt (bits_lt _ 23 8)
  · have hm4 : bits (v ||| 4#32).toNat 1 0 = bits v.toNat 1 0 := bits_orWord (by decide) v
    have h3' : bit (v ||| 4#32).toNat 3 = false := by rw [BitVec.toNat_or, bit_or, h3]; rfl
    have h2' : bit (v ||| 4#32).toNat 2 = true := by rw [BitVec.toNat_or, bit_or]; exact Bool.or_true _
    have hex := exec_portCfg (v := v ||| 4#32) hr hn
    generalize (v ||| 4#32).toNat = w at hm4 h3' h2' hex
    obtain ⟨cw, -, -, -⟩ := State.cfgWritten_frame c n w
    have hwrite : s.writePortCfg n w = (s.cfgWritten n w).portCfgErr n := by
      rw [State.writePortCfg_taken fun h => h.1 (hm4.trans hm), h3', h2']
      exact if_pos ((congrArg Fabric.devId (hfab w)).trans hid)
    rw [hwrite] at hex
    have hm : Moves [.bus] (s.cfgWritten n w) ((s.cfgWritten n w).portCfgErr n) := .evSet _ (by decide)
    exact ⟨_, hex (State.nothingToTake_evSet cw (hqw w) (by decide) hne), hm.fabric.trans (hfab w),
      State.bit_evSet_self cw (by decide) (by decide)⟩
  · have hm4 : bits (v ||| 8#32).toNat 1 0 = bits v.toNat 1 0 := bits_orWord (by decide) v
    have h3' : bit (v ||| 8#32).toNat 3 = true := by rw [BitVec.toNat_or, bit_or]; exact Bool.or_true _
    have hex := exec_portCfg (v := v ||| 8#32) hr hn
    generalize (v ||| 8#32).toNat = w at hm4 h3' hex
    obtain ⟨cw, -, -, -⟩ := State.cfgWritten_frame c n w
    have hwrite : s.writePortCfg n w = (s.cfgWritten n w).portDown n 6 := by
      rw [State.writePortCfg_taken fun h => h.1 (hm4.trans hm), if_pos h3', if_neg hst]
    rw [hwrite] at hex
    have hgo := State.portDown_goes cw hn (by rwa [hport]) 6
    refine ⟨_, hex (hgo.nothingToTake (hqw w)), ?_, ?_, ?_, ?_, hgo.event⟩
    · rw [hgo.port]; rfl
    · rw [hgo.port]; rfl
    · rw [hgo.port]; rfl
    · rw [hgo.port]; rfl
  · obtain ⟨h2, h3⟩ := bits_32_zero h32
    obtain ⟨cw, -, hcfg, -⟩ := State.cfgWritten_frame c n v.toNat
    have hwrite : s.writePortCfg n v.toNat = s.cfgWritten n v.toNat := by
      rw [State.writePortCfg_taken (by rintro ⟨-, h | h⟩; exacts [h hst, hm h]), h2, h3]
      rfl
    have hex := exec_portCfg (v := v) hr hn
    rw [hwrite] at hex
    refine ⟨_, hex (hqw _), ?_, hfab _, hmem _⟩
    rw [hcfg, bits_limitSet_mode, bits_modeSet]
    exact Nat.mod_eq_of_lt (bits_lt _ 1 0)
  · obtain ⟨h2, h3⟩ := bits_32_zero h32
    obtain ⟨-, hb, hbits, herr, -⟩ := State.cfgRefused_frame c n v.toNat
    have hex := exec_portCfg (v := v) hr hn
    rw [State.writePortCfg_discarded h2 h3 ⟨hm, .inl hst⟩] at hex
    exact ⟨_, hex (State.nothingToTake_cfgRefused hr hn hq _), hbits, (Moves.ofBusOnly hb).fabric, herr⟩
  · refine ⟨_, (exec_devIdWrite hr hq hn).trans (congrArg _ (if_pos ?_)), rfl, rfl, rfl⟩
    simpa using hdown
  · refine (exec_devIdWrite hr hq hn).trans (congrArg _ (if_neg ?_))
    simp only [List.all_eq_true, not_forall, List.mem_range, beq_iff_eq]
    exact ⟨q, hq16, hup⟩
  · exact pageWrite_ranged hr hq hn (by decide) (by omega) rfl
  · exact pageWrite_ranged hr hq hn (by decide) (by omega) rfl

end Sys2Proof.Machine
end

section
/-! SUPPORT. Fields of messages (Table 16.3): what a field reads where bytes are laid, the CRC,
  and the fields of a message
that the device forms. -/
set_option Elab.async false

namespace Sys2Proof.Machine

variable {l bs : List Byte} {off o n i : Nat}

/-! ## Bytes at their places -/

/-- A slice lists the bytes at its places; past the end they read 0. -/
theorem slice_eq_map (l : List Byte) (off n : Nat) :
    slice l off n = (List.range n).map fun i => l.getD (off + i) 0 := by
  refine List.ext_getElem (by simp) fun i h1 h2 => ?_
  simp only [slice, List.getElem_map, List.getElem_range, List.getElem_append, List.getElem_take, List.getElem_drop,
    List.getElem_replicate, List.length_take, List.length_drop, List.getD_eq_getElem?_getD]
  have hi : i < n := by simpa using h1
  split
  case isTrue h => rw [List.getElem?_eq_getElem (by omega), Option.getD_some]
  case isFalse h => rw [List.getElem?_eq_none (by omega), Option.getD_none]

theorem getD_append_replicate (l : List Byte) (k i : Nat) : (l ++ List.replicate k 0).getD i 0 = l.getD i 0 := by
  simp only [List.getD_eq_getElem?_getD, List.getElem?_append, List.getElem?_replicate]
  split
  · rfl
  · rw [List.getElem?_eq_none (by omega)]
    split <;> rfl

/-- The bytes that are laid stand at their places, and the others as before. -/
theorem getD_lay (l : List Byte) (off : Nat) (bs : List Byte) (i : Nat) :
    (lay l off bs).getD i 0 = if off ≤ i ∧ i < off + bs.length then bs.getD (i - off) 0 else l.getD i 0 := by
  have hlen : off + bs.length ≤ (l ++ List.replicate (off + bs.length - l.length) (0 : Byte)).length := by
    rw [List.length_append, List.length_replicate]
    omega
  rw [← getD_append_replicate l (off + bs.length - l.length) i]
  simp only [lay]
  generalize l ++ List.replicate (off + bs.length - l.length) (0 : Byte) = x at hlen
  simp only [List.getD_eq_getElem?_getD, List.getElem?_append, List.length_append, List.length_take,
    List.getElem?_take, List.getElem?_drop, Nat.min_eq_left (show off ≤ x.length by omega)]
  by_cases h1 : i < off
  · rw [if_pos (by omega), if_pos h1, if_pos h1, if_neg (by omega)]
  · by_cases h2 : i < off + bs.length
    · rw [if_pos h2, if_neg h1, if_pos (by omega)]
    · rw [if_neg h2, if_neg (by omega)]
      congr 2
      omega

theorem leNat_leBytes (n v : Nat) : leNat (leBytes n v) = v % 2 ^ (8 * n) := by
  induction n generalizing v with
  | zero => exact (Nat.mod_one v).symm
  | succ n ih =>
    rw [leBytes, leNat, ih, BitVec.toNat_ofNat, Nat.mul_succ, Nat.add_comm (8 * n) 8, Nat.pow_add, Nat.mod_mul]

/-- A field beside the laid bytes reads as before. -/
theorem slice_lay_ne (h : o + n ≤ off ∨ off + bs.length ≤ o) : slice (lay l off bs) o n = slice l o n := by
  rw [slice_eq_map, slice_eq_map]
  refine List.map_congr_left fun i hi => ?_
  have := List.mem_range.mp hi
  rw [getD_lay, if_neg (by omega)]

theorem fld_lay_ne (h : o + n ≤ off ∨ off + bs.length ≤ o) : fld (lay l off bs) o n = fld l o n := by
  rw [fld, slice_lay_ne h, ← fld]

theorem slice_lay_same (l : List Byte) (off : Nat) (bs : List Byte) : slice (lay l off bs) off bs.length = bs := by
  rw [slice_eq_map]
  refine List.ext_getElem (by simp) fun i h1 h2 => ?_
  have hi : i < bs.length := by simpa using h1
  rw [List.getElem_map, List.getElem_range, getD_lay, if_pos (by omega), Nat.add_sub_cancel_left,
    List.getD_eq_getElem?_getD,
    List.getElem?_eq_getElem hi, Option.getD_some]

theorem fld_lay_leBytes (l : List Byte) (off n v : Nat) : fld (lay l off (leBytes n v)) off n = v % 2 ^ (8 * n) := by
  have h := slice_lay_same l off (leBytes n v)
  rw [length_leBytes] at h
  rw [fld, h, leNat_leBytes]

/-- Lists of one length whose places read the same are one list. -/
theorem list_eq_of_getD {x y : List Byte} (hlen : x.length = y.length) (h : ∀ i, x.getD i 0 = y.getD i 0) : x = y := by
  refine List.ext_getElem hlen fun i h1 h2 => ?_
  have hi := h i
  rwa [List.getD_eq_getElem?_getD, List.getD_eq_getElem?_getD, List.getElem?_eq_getElem h1, List.getElem?_eq_getElem h2]
    at hi

/-- Bytes laid over those laid before at the same place. -/
theorem lay_lay {a : List Byte} (l : List Byte) (off : Nat) (h : a.length = bs.length) :
    lay (lay l off a) off bs = lay l off bs := by
  refine list_eq_of_getD ?_ fun i => ?_
  · rw [length_lay, length_lay, length_lay, h]
    omega
  · rw [getD_lay, getD_lay, getD_lay, h]
    split <;> rfl

/-- What follows the laid bytes. -/
theorem drop_lay (h : off + bs.length ≤ n) : (lay l off bs).drop n = l.drop n := by
  refine list_eq_of_getD ?_ fun i => ?_
  · rw [List.length_drop, List.length_drop, length_lay]
    omega
  · have hd (x : List Byte) : (x.drop n).getD i 0 = x.getD (n + i) 0 := by
      rw [List.getD_eq_getElem?_getD, List.getD_eq_getElem?_getD, List.getElem?_drop]
    rw [hd, hd, getD_lay, if_neg (by omega)]

/-- Bytes laid over bytes of the list. -/
theorem lay_of_le (h : off + bs.length ≤ l.length) : lay l off bs = l.take off ++ bs ++ l.drop (off + bs.length) := by
  simp only [lay, Nat.sub_eq_zero_of_le h, List.replicate_zero, List.append_nil]

/-! ## The CRC -/

theorem crcShiftR_lt {poly : Nat} (hp : poly < 2 ^ 32) (n : Nat) {r : Nat} (hr : r < 2 ^ 32) :
    crcShiftR poly n r < 2 ^ 32 := by
  induction n generalizing r with
  | zero => exact hr
  | succ n ih =>
    refine ih ?_
    split
    · exact Nat.xor_lt_two_pow (by omega) hp
    · omega

theorem crc32_lt (bs : List Byte) : crc32 bs < 2 ^ 32 := by
  refine Nat.xor_lt_two_pow ?_ (by decide)
  refine List.foldlRecOn (motive := fun r => r < 2 ^ 32) _ _ (by decide) fun r hr b _ => ?_
  exact crcShiftR_lt (by decide) 8 (Nat.xor_lt_two_pow hr (Nat.lt_trans b.isLt (by decide)))

/-- The CRC of a message in its place. -/
def sealCrc (m : List Byte) : List Byte := lay m 28 (leBytes 4 (crc32 (lay m 28 [0, 0, 0, 0])))

theorem crc_sealCrc (m : List Byte) : crc32 (lay (sealCrc m) 28 [0, 0, 0, 0]) = fld (sealCrc m) 28 4 := by
  rw [sealCrc, lay_lay m 28 (by rw [length_leBytes]; rfl), fld_lay_leBytes]
  exact (Nat.mod_eq_of_lt (crc32_lt _)).symm

/-! ## Messages that the device forms -/

/-- A message is its header, with the CRC of the whole, and its body. -/
theorem fabBytes_eq (ver vc opcode src dst sp dp epoch tag : Nat) (body : List Byte) :
    ∃ crc, fabBytes ver vc opcode src dst sp dp epoch tag body =
      fabHead ver vc opcode src dst sp dp epoch tag body.length ++ leBytes 4 crc ++ body := by
  refine ⟨crc32 (fabHead ver vc opcode src dst sp dp epoch tag body.length ++ [0, 0, 0, 0] ++ body), ?_⟩
  refine (lay_of_le ?_).trans ?_
  · simp [fabHead]
    omega
  · rfl

/-- The fields of a formed message that its receivers read. -/
theorem fabBytes_fields (ver vc opcode src dst sp dp epoch tag : Nat) (body : List Byte) :
    let m := fabBytes ver vc opcode src dst sp dp epoch tag body
    fld m 1 1 = vc % 256 ∧ fld m 2 2 = opcode % 65536 ∧ fld m 4 2 = src % 65536 ∧ fld m 6 2 = dst % 65536 ∧
      m.length = 32 + body.length ∧ ∀ o n, slice m (32 + o) n = slice body o n := by
  obtain ⟨crc, h⟩ := fabBytes_eq ver vc opcode src dst sp dp epoch tag body
  dsimp only
  rw [h]
  have two (x : Nat) : x % 256 + 256 * (x / 256 % 256) = x % 65536 := by omega
  refine ⟨?_, ?_, ?_, ?_, ?_, fun o n => ?_⟩
  · simp [fld, slice, fabHead, leBytes, leNat]
  · simpa [fld, slice, fabHead, leBytes, leNat] using two opcode
  · simpa [fld, slice, fabHead, leBytes, leNat] using two src
  · simpa [fld, slice, fabHead, leBytes, leNat] using two dst
  · simp [fabHead]
    omega
  · rw [slice_eq_map, slice_eq_map]
    refine List.map_congr_left fun i _ => ?_
    have hlen : (fabHead ver vc opcode src dst sp dp epoch tag body.length ++ leBytes 4 crc).length = 32 := by
      simp [fabHead]
    rw [List.getD_eq_getElem?_getD, List.getElem?_append_right (by omega), hlen, List.getD_eq_getElem?_getD]
    congr 2
    omega

end Sys2Proof.Machine
end

section
/-! SUPPORT. Link initialisation (R351, R355, R366): LINK_HELLO as it is sent, links that come up. -/
set_option Elab.async false

namespace Sys2Proof.Machine

variable {s t : State} {n op dst : Nat} {x : Port} {m : List Byte}

/-! ## Native transmission -/

/-- No virtual channel with a credit has a message that may go. -/
theorem Port.txOne_none (h : ∀ v, v < 3 → tget 0 x.credits v ≠ 0 → x.ready v = false) : x.txOne = none := by
  unfold Port.txOne
  split
  · rw [List.find?_eq_none.mpr]
    intro v hv
    by_cases hc : tget 0 x.credits v = 0
    · simp [hc]
    · simp [h v (List.mem_range.mp hv) hc]
  · rfl

theorem Port.txAll_of_none (h : x.txOne = none) (k b : Nat) : Port.txAll k x b = (x, b) := by
  cases k with
  | zero => rfl
  | succ k =>
    unfold Port.txAll
    rw [h]

theorem Port.ready_of_nil {v : Nat} (h : tget [] x.txWait v = []) : x.ready v = false := by
  unfold Port.ready
  rw [h]

/-- A port with nothing to send. -/
theorem Port.txOne_of_empty (h : ∀ v, v < 3 → tget [] x.txWait v = []) : x.txOne = none :=
  Port.txOne_none fun v hv _ => Port.ready_of_nil (h v hv)

theorem State.port_count64 (s : State) (k : PageKind) (i off b q : Nat) : (s.count64 k i off b).port q = s.port q := rfl

/-- What a port is after it has sent what it may. -/
theorem State.port_txPump (c : s.Canon) (n : Nat) :
    (s.txPump n).port n =
      if s.drives (dieOfPort n) ∧ ((s.port n).st = .up ∨ (s.port n).st = .handover ∨
        ((s.port n).st = .training ∧ (s.port n).trained)) then (Port.txAll 256 (s.port n) 0).1 else s.port n := by
  unfold State.txPump
  dsimp only
  split
  · rw [State.port_count64, State.port_setPort c]
  · rfl

/-- A port with nothing that may go stays as it is. -/
theorem State.port_txPump_of_none (c : s.Canon) (h : (s.port n).txOne = none) : (s.txPump n).port n = s.port n := by
  rw [State.port_txPump c, Port.txAll_of_none h]
  split <;> rfl

/-- No message waits, and the tables are in canonical form. -/
def Port.Quiet (x : Port) : Prop :=
  twf [] x.txWait = true ∧ twf 0 x.credits = true ∧ ∀ v, v < 3 → tget [] x.txWait v = []

/-- A port with one message of at most one flit to send on VC 0. -/
def Port.withOne (x : Port) (b : List Byte) : Port := { x with txWait := tput [] x.txWait 0 [(b.length, .raw b)] }

theorem Port.wait_withOne (hq : x.Quiet) (b : List Byte) :
    tget [] (x.withOne b).txWait 0 = [(b.length, .raw b)] ∧
      ∀ v, v < 3 → v ≠ 0 → tget [] (x.withOne b).txWait v = [] := by
  obtain ⟨hw, -, hnone⟩ := hq
  refine ⟨tget_tput_same _ _ _ hw, fun v hv h => ?_⟩
  exact (tget_tput_ne _ _ hw h).trans (hnone v hv)

theorem Port.txAll_withOne_waits (hq : x.Quiet) (b : List Byte) (hc : tget 0 x.credits 0 = 0) :
    Port.txAll 256 (x.withOne b) 0 = (x.withOne b, 0) := by
  refine Port.txAll_of_none (Port.txOne_none fun v hv hcr => ?_) 256 0
  by_cases h0 : v = 0
  · subst h0
    exact absurd hc hcr
  · exact Port.ready_of_nil ((Port.wait_withOne hq b).2 v hv h0)

theorem Port.txAll_withOne_goes (hq : x.Quiet) (b : List Byte) (hc : tget 0 x.credits 0 ≠ 0)
    (hr : x.replay.length < 256)
    (hlen : b.length ≤ 244) (hlink : (FabMsg.raw b).isLink = true) :
    let y := (Port.txAll 256 (x.withOne b) 0).1
    y.tx = x.tx ++ [.raw b] ∧ tget [] y.txWait 0 = [] ∧ tget 0 y.credits 0 = tget 0 x.credits 0 - 1 := by
  obtain ⟨hw0, hwv⟩ := Port.wait_withOne hq b
  obtain ⟨hw, hcr, -⟩ := hq
  have hready : (x.withOne b).ready 0 = true := by
    unfold Port.ready
    rw [hw0]
    simp [hlink]
  have hfind : ((List.range 3).find? fun v => tget 0 (x.withOne b).credits v ≠ 0 && (x.withOne b).ready v) =
      some 0 := by
    rw [show List.range 3 = [0, 1, 2] from rfl, List.find?_cons_of_pos]
    simp only [hready, Bool.and_true]
    exact decide_eq_true hc
  have hone : (x.withOne b).txOne = some (b.length, { x.withOne b with
      replay := x.replay ++ [(x.txSeq, .raw b)], txSeq := (x.txSeq + 1) % 1024,
      credits := tput 0 x.credits 0 (tget 0 x.credits 0 - 1),
      txWait := tput [] (x.withOne b).txWait 0 [], tx := x.tx ++ [.raw b] }) := by
    unfold Port.txOne
    rw [if_pos (show (x.withOne b).replay.length < 256 from hr), hfind]
    dsimp only
    rw [hw0]
    dsimp only
    rw [if_pos hlen, if_pos hlen, Nat.min_eq_left hlen]
    rfl
  have hww : twf [] (x.withOne b).txWait = true := twf_tput _ _ _ hw
  unfold Port.txAll
  rw [hone]
  dsimp only
  rw [Port.txAll_of_none]
  · exact ⟨rfl, tget_tput_same _ _ _ hww, tget_tput_same _ _ _ hcr⟩
  · refine Port.txOne_of_empty fun v hv => ?_
    by_cases h0 : v = 0
    · subst h0
      exact tget_tput_same _ _ _ hww
    · exact (tget_tput_ne _ _ hww h0).trans (hwv v hv h0)

/-! ## LINK_HELLO and LINK_HELLO_ACK as they are sent -/

/-- The message that a port sends of itself. -/
def State.linkMsg (s : State) (n op dst : Nat) : List Byte :=
  fabBytes (s.linkVer n) 0 op s.devId dst 0xFF 0xFF 0 0 (s.helloBody n)

theorem slice_take (l : List Byte) {o n k : Nat} (h : o + n ≤ k) : slice (l.take k) o n = slice l o n := by
  unfold slice
  rw [List.drop_take, List.take_take, Nat.min_eq_left (by omega)]

theorem isLink_raw {b : List Byte} (h : fld b 2 2 = 1 ∨ fld b 2 2 = 2) : (FabMsg.raw b).isLink = true := by
  have hop : (FabMsg.raw b).opcode = fld b 2 2 := congrArg leNat (slice_take b (by decide))
  unfold FabMsg.isLink
  rw [hop]
  obtain h | h := h
  · rw [h]; rfl
  · rw [h]; rfl

theorem State.linkMsg_fields (s : State) (hn : n < 16) (hop : op = 1 ∨ op = 2) (dst : Nat) :
    let b := s.linkMsg n op dst
    fld b 2 2 = op ∧ fld b 1 1 = 0 ∧ fld b 36 1 = 0x23 ∧ fld b 37 1 = 0x31 ∧ fld b 32 2 = s.fabric.devId % 65536 ∧
      fld b 34 1 = n ∧ b.length = 56 ∧ (FabMsg.raw b).isLink = true := by
  obtain ⟨hvc, hopc, -, -, hlen, hbody⟩ :=
    fabBytes_fields (s.linkVer n) 0 op s.devId dst 0xFF 0xFF 0 0 (s.helloBody n)
  have hop' : fld (s.linkMsg n op dst) 2 2 = op := hopc.trans (by omega)
  have hb (o k : Nat) : fld (s.linkMsg n op dst) (32 + o) k = fld (s.helloBody n) o k := congrArg leNat (hbody o k)
  have hblen : (s.helloBody n).length = 24 := by simp [State.helloBody, State.idBytes]
  have hlen' : (s.linkMsg n op dst).length = 56 := hlen.trans (by rw [hblen])
  have hver : fld (s.helloBody n) 4 1 = 0x23 := by simp [fld, slice, State.helloBody, leBytes, leNat]
  have hmax : fld (s.helloBody n) 5 1 = 0x31 := by simp [fld, slice, State.helloBody, leBytes, leNat]
  have hid : fld (s.helloBody n) 0 2 = s.fabric.devId % 65536 := by
    simp [fld, slice, State.helloBody, leBytes, leNat, State.devId]
    omega
  have hport : fld (s.helloBody n) 2 1 = n := by
    simp [fld, slice, State.helloBody, leBytes, leNat]
    omega
  rw [← hb] at hver hmax hid hport
  have hvc' : fld (s.linkMsg n op dst) 1 1 = 0 := hvc
  generalize s.linkMsg n op dst = b at *
  exact ⟨hop', hvc', hver, hmax, hid, hport, hlen', isLink_raw (by omega)⟩

/-- What a port has sent, or has waiting, of its own message. -/
structure Hellos (s : State) (x y : Port) (n op : Nat) (b : List Byte) : Prop where
  isOp : fld b 2 2 = op
  vc : fld b 1 1 = 0
  least : fld b 36 1 = 0x23
  most : fld b 37 1 = 0x31
  id : fld b 32 2 = s.fabric.devId % 65536
  port : fld b 34 1 = n
  waits : tget 0 x.credits 0 = 0 → y.tx = x.tx ∧ tget [] y.txWait 0 = [(b.length, .raw b)]
  goes : tget 0 x.credits 0 ≠ 0 → x.replay.length < 256 → s.drives (dieOfPort n) = true → y.tx = x.tx ++ [.raw b] ∧
    tget [] y.txWait 0 = [] ∧ tget 0 y.credits 0 = tget 0 x.credits 0 - 1

/-- A message of link initialisation goes before what else waits on VC 0. -/
def Port.queueLink (x : Port) (b : List Byte) : Port := { x with
  txWait := tput [] x.txWait 0 ((tget [] x.txWait 0).takeWhile (fun e => e.2.isLink) ++
    (b.length, .raw b) :: (tget [] x.txWait 0).dropWhile (fun e => e.2.isLink)) }

theorem State.linkSend_eq (s : State) (n op dst : Nat) :
    s.linkSend n op dst = (s.setPort n ((s.port n).queueLink (s.linkMsg n op dst))).txPump n := rfl

theorem Port.queueLink_of_quiet (hq : x.Quiet) (b : List Byte) : x.queueLink b = x.withOne b := by
  unfold Port.queueLink
  rw [hq.2.2 0 (by decide)]
  rfl

theorem Sends.linkSend (c : s.Canon) (hn : n < 16) (hst : (s.port n).st ≠ .down) (op dst : Nat) :
    Sends s (s.linkSend n op dst) := by
  have hput : Sends s (s.setPort n ((s.port n).queueLink (s.linkMsg n op dst))) := .setPort c hst rfl
  exact hput.trans (.txPump hput.canon hn)

/-- A training port with nothing else to send sends its message with a credit, or has it wait. -/
theorem State.linkSend_hellos (c : s.Canon) (hn : n < 16) (hst : (s.port n).st = .training ∧ (s.port n).trained = true)
    (hq : (s.port n).Quiet) (hop : op = 1 ∨ op = 2) (dst : Nat) :
    ∃ b, Hellos s (s.port n) ((s.linkSend n op dst).port n) n op b := by
  obtain ⟨hf, hvc, hver, hmax, hid, hport, hlen, hlink⟩ := State.linkMsg_fields s hn hop dst
  have heq := State.linkSend_eq s n op dst
  rw [Port.queueLink_of_quiet hq] at heq
  have cp := State.canon_setPort c n ((s.port n).withOne (s.linkMsg n op dst))
  refine ⟨s.linkMsg n op dst, ⟨hf, hvc, hver, hmax, hid, hport, fun hc => ?_, fun hc hr hd => ?_⟩⟩
  · rw [heq, State.port_txPump cp, State.port_setPort c, Port.txAll_withOne_waits hq _ hc, ite_self]
    exact ⟨rfl, (Port.wait_withOne hq _).1⟩
  · rw [heq, State.port_txPump cp, State.port_setPort c, if_pos ⟨hd, .inr (.inr hst)⟩]
    exact Port.txAll_withOne_goes hq _ hc hr (by omega) hlink

/-! ## A port that comes up -/

/-- The port carries traffic. -/
def State.IsUp (t : State) (n : Nat) : Prop :=
  (t.port n).st = .up ∧ bit (t.pg .port n 0x40) 2 = false ∧ bit (t.pg .port n 0x14) 1 = true

theorem bit_setBits_self (v : Nat) : bit (setBits v 2 2 0) 2 = false := by
  unfold bit setBits bits
  exact decide_eq_false (by omega)

theorem State.portUp_isUp (c : s.Canon) (hn : n < 16) :
    (s.portUp n).IsUp n ∧ ((s.portUp n).port n).shape = { s.port n with st := .up }.shape := by
  have cp : (s.modPort n fun x => { x with st := .up }).Canon := State.canon_setPort c n _
  have hport : (s.modPort n fun x => { x with st := .up }).port n = { s.port n with st := .up } := by
    rw [State.modPort, State.port_setPort c]
  unfold State.portUp
  dsimp only
  generalize s.modPort n (fun x => { x with st := .up }) = x at cp hport
  have cy : (x.setPg .port n 0x40 (setBits (x.pg .port n 0x40) 2 2 0)).Canon := State.canon_setPg cp ..
  have hcfg : bit ((x.setPg .port n 0x40 (setBits (x.pg .port n 0x40) 2 2 0)).pg .port n 0x40) 2 = false := by
    have hlt := x.pg_lt .port n 0x40
    rw [State.pg_setPg cp, Nat.mod_eq_of_lt, bit_setBits_self]
    simp only [setBits, bits]
    omega
  have hporty : (x.setPg .port n 0x40 (setBits (x.pg .port n 0x40) 2 2 0)).port n = x.port n := rfl
  generalize x.setPg .port n 0x40 (setBits (x.pg .port n 0x40) 2 2 0) = y at cy hcfg hporty
  have cz : (y.evSet .port n 1).Canon := (Keeps.evSet .refl).canon cy
  have hm : Moves [.bus] y (y.evSet .port n 1) := .evSet y (by decide)
  have hsend := Sends.txPump cz hn
  have hshape : (((y.evSet .port n 1).txPump n).port n).shape = { s.port n with st := .up }.shape := by
    rw [hsend.shape n, hm.port, hporty, hport]
  refine ⟨⟨?_, ?_, ?_⟩, hshape⟩
  · exact Port.st_of_shape hshape
  · rw [hsend.page .port n 0x40 (by decide) (by omega), State.pg_evSet_block cy (by decide) (by decide)]
    exact hcfg
  · rw [hsend.page .port n 0x14 (by decide) (by omega)]
    exact State.bit_evSet_self cy (by decide) (by decide)

/-! ## Messages of link initialisation as they arrive -/

theorem isEth_of_native (h : bits (s.pg .port n 0x40) 1 0 = 0) : s.isEth n = false := by simp [State.isEth, h]

theorem isEth_of_mode (h : bits (s.pg .port n 0x40) 1 0 ≠ 0) : s.isEth n = true := by simp [State.isEth, h]

theorem State.canon_hear (c : s.Canon) (src : Nat) : (s.hear src).Canon := { c with }

theorem fabRow_link (h : Stated.Greets s n op m) (hop : op = 1 ∨ op = 2) : s.fabRow n op m = .next (s.fabTake n m) := by
  obtain ⟨-, -, hlive, ⟨hst, htr⟩, -, hf, hlen, hcrc⟩ := h
  have hl : s.portLive n = true := by simp [State.portLive, hlive, hst, htr]
  have hok : fabCrcOk m = true := beq_iff_eq.mpr hcrc
  have hknown : fabKnown (fld m 2 2) = true := by
    rw [hf]
    obtain rfl | rfl := hop
    · rfl
    · rfl
  have hrec : s.fabReceive n m = s.fabTake n m := by
    unfold State.fabReceive
    dsimp only
    rw [if_neg (by simp [hok, hknown]; omega), if_pos (by omega)]
  unfold State.fabRow
  rw [if_pos ⟨hf, hl⟩, hrec]

theorem helloing_of_greets (h : Stated.Greets s n op m) (src : Nat) : (s.hear src).helloing n = true := by
  obtain ⟨-, -, -, ⟨hst, htr⟩, hnat, -, -, -⟩ := h
  have he : (s.hear src).isEth n = false := isEth_of_native (s := s.hear src) hnat
  have hport : (s.hear src).port n = s.port n := rfl
  simp [State.helloing, hport, hst, htr, he]

theorem exec_linkHello (h : Stated.Greets s n 1 m) :
    exec (.linkHello n m) s = .next ((s.hear (fld m 4 2)).linkHello n m) := by
  refine (fabRow_link h (.inl rfl)).trans (congrArg _ ?_)
  unfold State.fabTake
  dsimp only
  rw [h.isOp]
  rfl

theorem exec_linkHelloAck (h : Stated.Greets s n 2 m) :
    exec (.linkHelloAck n m) s = .next ((s.hear (fld m 4 2)).linkHelloAck n) := by
  refine (fabRow_link h (.inr rfl)).trans (congrArg _ ?_)
  unfold State.fabTake
  dsimp only
  rw [h.isOp]
  rfl

/-- What LINK_HELLO settles at its receiver. -/
def Port.greeted (x : Port) (m : List Byte) : Port := { x with
  ver := min 0x31 (fld m 37 1), peer := some (fld m 32 2, fld m 34 1 % 16),
  r224 := decide (0x30 ≤ min 0x31 (fld m 37 1)) && bit (fld m 35 1) 1 }

/-- A LINK_HELLO of a common version and another device is answered, and may settle the link. -/
theorem linkHello_greets (h : Stated.Greets s n 1 m) (hpeer : (s.port n).peer = none)
    (hv : max 0x23 (fld m 36 1) ≤ min 0x31 (fld m 37 1)) (hid : fld m 32 2 ≠ s.fabric.devId) :
    (s.hear (fld m 4 2)).linkHello n m =
      (((s.hear (fld m 4 2)).setPort n ((s.port n).greeted m)).linkSend n 2 (fld m 32 2)).linkAgreed n := by
  have hh := helloing_of_greets h (fld m 4 2)
  have hp : ((s.hear (fld m 4 2)).port n).peer.isNone = true := by
    rw [show (s.hear (fld m 4 2)).port n = s.port n from rfl, hpeer]
    rfl
  have hid' : ¬ fld m 32 2 = (s.hear (fld m 4 2)).devId := hid
  unfold State.linkHello
  dsimp only
  rw [if_pos ⟨hh, hp⟩, if_neg (by omega), if_neg hid']
  rfl

theorem State.linkAgreed_up (h1 : (s.port n).helloDone = true) (h2 : (s.port n).peer ≠ none)
    (h3 : (s.port n).r224 = false) : s.linkAgreed n = s.portUp n := by
  unfold State.linkAgreed
  dsimp only
  rw [if_pos ⟨h1, Option.isSome_iff_ne_none.mpr h2⟩, h3]
  rfl

theorem State.linkAgreed_again (h1 : (s.port n).helloDone = true) (h2 : (s.port n).peer ≠ none)
    (h3 : (s.port n).r224 = true) : s.linkAgreed n = s.setPort n { s.port n with trained := false } := by
  unfold State.linkAgreed
  dsimp only
  rw [if_pos ⟨h1, Option.isSome_iff_ne_none.mpr h2⟩, h3]
  rfl

theorem State.linkAgreed_waits (h : (s.port n).helloDone = false ∨ (s.port n).peer = none) : s.linkAgreed n = s := by
  unfold State.linkAgreed
  dsimp only
  refine if_neg ?_
  rintro ⟨h1, h2⟩
  obtain h | h := h
  · rw [h] at h1
    cases h1
  · rw [h] at h2
    cases h2

/-! ## Links that come up -/

theorem Port.quiet_of (h : twf [] x.txWait = true ∧ twf 0 x.credits = true ∧ ∀ v, v < 3 → tget [] x.txWait v = []) :
    x.Quiet := h

/-- What has been sent of a port's own message, said of the fields alone. -/
theorem Hellos.fields {y : Port} {b : List Byte} (h : Hellos s x y n op b) :
    fld b 2 2 = op ∧ fld b 1 1 = 0 ∧ fld b 36 1 = 0x23 ∧ fld b 37 1 = 0x31 ∧
      fld b 32 2 = s.fabric.devId % 65536 ∧ fld b 34 1 = n ∧
      (tget 0 x.credits 0 = 0 → y.tx = x.tx ∧ tget [] y.txWait 0 = [(b.length, .raw b)]) ∧
      (tget 0 x.credits 0 ≠ 0 → x.replay.length < 256 → s.drives (dieOfPort n) = true → y.tx = x.tx ++ [.raw b] ∧
        tget [] y.txWait 0 = [] ∧ tget 0 y.credits 0 = tget 0 x.credits 0 - 1) :=
  ⟨h.isOp, h.vc, h.least, h.most, h.id, h.port, h.waits, h.goes⟩

theorem execPortTrained_eq (hlive : s.live (dieOfPort n) = true) (hst : (s.port n).st = .training)
    (htr : (s.port n).trained = false) :
    exec (.portTrained n) s =
      (let t := s.setPort n { s.port n with trained := true }
      if t.isEth n ∨ ((s.port n).helloDone ∧ (s.port n).peer.isSome) then .next (t.portUp n)
        else .next (t.linkSend n 1 0xFFFF)) := by
  change execPortTrained n s = _
  unfold execPortTrained
  dsimp only
  rw [if_pos ⟨hst, by simp [htr], hlive⟩]

/-- The lanes of a port have trained. -/
theorem portTrained_acts (c : s.Canon) (hn : n < 16) (hlive : s.live (dieOfPort n) = true)
    (hst : (s.port n).st = .training) (htr : (s.port n).trained = false) :
    (bits (s.pg .port n 0x40) 1 0 = 0 → (s.port n).helloDone = false → (s.port n).Quiet →
      ∃ t, exec (.portTrained n) s = .next t ∧ (t.port n).trained = true ∧ (t.port n).st = .training ∧
        (∃ b, Hellos s (s.port n) (t.port n) n 1 b) ∧ t.mem = s.mem) ∧
    (bits (s.pg .port n 0x40) 1 0 ≠ 0 ∨ ((s.port n).helloDone = true ∧ (s.port n).peer ≠ none) →
      ∃ t, exec (.portTrained n) s = .next t ∧ t.IsUp n) := by
  have hex := execPortTrained_eq hlive hst htr
  dsimp only at hex
  have ct := State.canon_setPort c n { s.port n with trained := true }
  have hport := State.port_setPort c n { s.port n with trained := true }
  have heth : (s.setPort n { s.port n with trained := true }).isEth n = s.isEth n := rfl
  have hm : Moves [.fabric] s (s.setPort n { s.port n with trained := true }) := .setFabric s _
  refine ⟨fun hnat hd hq => ?_, fun hor => ?_⟩
  · have hno : ¬ ((s.setPort n { s.port n with trained := true }).isEth n = true ∨
        ((s.port n).helloDone = true ∧ (s.port n).peer.isSome = true)) := by
      rw [heth, isEth_of_native hnat, hd]
      simp
    obtain ⟨b, hb⟩ := State.linkSend_hellos ct hn (by rw [hport]; exact ⟨hst, rfl⟩) (by rw [hport]; exact hq) (.inl rfl)
      0xFFFF
    have hs := Sends.linkSend ct hn (n := n) (by rw [hport]; simp [hst]) 1 0xFFFF
    have hshape := (hs.shape n).trans (congrArg Port.shape hport)
    rw [hport] at hb
    refine ⟨_, hex.trans (if_neg hno), congrArg Port.trained hshape, (congrArg Port.st hshape).trans hst,
      ⟨b, ⟨hb.isOp, hb.vc, hb.least, hb.most, hb.id, hb.port, hb.waits, hb.goes⟩⟩, hs.moves.mem.trans hm.mem⟩
  · refine ⟨_, hex.trans (if_pos ?_), (State.portUp_isUp ct hn).1⟩
    obtain h | ⟨h1, h2⟩ := hor
    · exact .inl (by rw [heth, isEth_of_mode h])
    · exact .inr ⟨h1, Option.isSome_iff_ne_none.mpr h2⟩

/-- A LINK_HELLO that cannot be answered takes the port down. -/
theorem linkHello_refused (h : Stated.Greets s n 1 m) (hpeer : (s.port n).peer = none) :
    (min 0x31 (fld m 37 1) < max 0x23 (fld m 36 1) → ∃ t, exec (.linkHello n m) s = .next t ∧ (t.port n).st = .down ∧
      (t.port n).reason = 3 ∧ bit (t.pg .port n 0x14) 2 = true) ∧
    (max 0x23 (fld m 36 1) ≤ min 0x31 (fld m 37 1) → fld m 32 2 = s.fabric.devId →
      ∃ t, exec (.linkHello n m) s = .next t ∧
        (t.port n).st = .down ∧ (t.port n).reason = 4 ∧ bit (t.pg .port n 0x14) 6 = true) := by
  have hex := exec_linkHello h
  have hh := helloing_of_greets h (fld m 4 2)
  have c := State.canon_hear h.canon (fld m 4 2)
  have hport : (s.hear (fld m 4 2)).port n = s.port n := rfl
  have hp : ((s.hear (fld m 4 2)).port n).peer.isNone = true := by
    rw [hport, hpeer]
    rfl
  have hst : ((s.hear (fld m 4 2)).port n).st ≠ .down := by
    rw [hport, h.link.1]
    decide
  refine ⟨fun hv => ?_, fun hv hid => ?_⟩
  · have hgo := State.portDown_goes c h.range hst 3
    refine ⟨_, hex.trans (congrArg _ ?_), ?_, ?_, hgo.event⟩
    · unfold State.linkHello
      dsimp only
      rw [if_pos ⟨hh, hp⟩, if_pos hv]
    · rw [hgo.port]; rfl
    · rw [hgo.port]; rfl
  · have hid' : fld m 32 2 = (s.hear (fld m 4 2)).devId := hid
    have ce : ((s.hear (fld m 4 2)).evSet .port n 6).Canon := (Keeps.evSet .refl).canon c
    have hm : Moves [.bus] (s.hear (fld m 4 2)) ((s.hear (fld m 4 2)).evSet .port n 6) := .evSet _ (by decide)
    have hgo := State.portDown_goes ce h.range (by rwa [hm.port]) 4
    refine ⟨_, hex.trans (congrArg _ ?_), ?_, ?_, hgo.kept 6 (by decide) ?_⟩
    · unfold State.linkHello
      dsimp only
      rw [if_pos ⟨hh, hp⟩, if_neg (by omega), if_pos hid']
    · rw [hgo.port]; rfl
    · rw [hgo.port]; rfl
    · exact State.bit_evSet_self c (by decide) (by decide)

/-- A LINK_HELLO that is answered. -/
theorem linkHello_answered (h : Stated.Greets s n 1 m) (hpeer : (s.port n).peer = none)
    (hv : max 0x23 (fld m 36 1) ≤ min 0x31 (fld m 37 1)) (hid : fld m 32 2 ≠ s.fabric.devId) :
    let v := min 0x31 (fld m 37 1)
    ∃ t, exec (.linkHello n m) s = .next t ∧
      (t.port n).peer = some (fld m 32 2, fld m 34 1 % 16) ∧ (t.port n).ver = v ∧
      ((s.port n).helloDone = false →
        ((s.port n).Quiet → ∃ b, Hellos s (s.port n) (t.port n) n 2 b) ∧ (t.port n).st = .training) ∧
      ((s.port n).helloDone = true → v < 0x30 ∨ bit (fld m 35 1) 1 = false → t.IsUp n) ∧
      ((s.port n).helloDone = true → 0x30 ≤ v → bit (fld m 35 1) 1 = true →
        ((s.port n).Quiet → ∃ b, Hellos s (s.port n) (t.port n) n 2 b) ∧
        (t.port n).st = .training ∧ (t.port n).trained = false ∧ (t.port n).r224 = true) := by
  have hex := (exec_linkHello h).trans (congrArg _ (linkHello_greets h hpeer hv hid))
  have c := State.canon_hear h.canon (fld m 4 2)
  obtain ⟨hst, htr⟩ := h.link
  have hpx := State.port_setPort c n ((s.port n).greeted m)
  have cx := State.canon_setPort c n ((s.port n).greeted m)
  have hs := Sends.linkSend cx h.range (by rw [hpx]; exact fun h => by cases hst.symm.trans h) 2 (fld m 32 2)
  have hhello (hq : (s.port n).Quiet) :
      ∃ b, Hellos s (s.port n)
        ((((s.hear (fld m 4 2)).setPort n ((s.port n).greeted m)).linkSend n 2 (fld m 32 2)).port n) n 2 b := by
    obtain ⟨b, hb⟩ := State.linkSend_hellos cx h.range (by rw [hpx]; exact ⟨hst, htr⟩) (by rw [hpx]; exact hq)
      (.inr rfl)
      (fld m 32 2)
    rw [hpx] at hb
    exact ⟨b, ⟨hb.isOp, hb.vc, hb.least, hb.most, hb.id, hb.port, hb.waits, hb.goes⟩⟩
  have hshape := (hs.shape n).trans (congrArg Port.shape hpx)
  have cy := hs.canon
  generalize ((s.hear (fld m 4 2)).setPort n ((s.port n).greeted m)).linkSend n 2 (fld m 32 2) = y at *
  have hdone : (y.port n).helloDone = (s.port n).helloDone := (congrArg Port.helloDone hshape :)
  have hpeer' : (y.port n).peer = some (fld m 32 2, fld m 34 1 % 16) := (congrArg Port.peer hshape :)
  have hver : (y.port n).ver = min 0x31 (fld m 37 1) := (congrArg Port.ver hshape :)
  have hrate : (y.port n).r224 = (decide (0x30 ≤ min 0x31 (fld m 37 1)) && bit (fld m 35 1) 1) :=
    congrArg Port.r224 hshape
  have hsty : (y.port n).st = .training := (congrArg Port.st hshape).trans hst
  have hsome : (y.port n).peer ≠ none := by
    rw [hpeer']
    exact Option.some_ne_none _
  dsimp only
  by_cases hd : (s.port n).helloDone = true
  · cases hr : (y.port n).r224 with
    | false =>
      rw [State.linkAgreed_up (hdone.trans hd) hsome hr] at hex
      obtain ⟨hup, hsh⟩ := State.portUp_isUp cy h.range
      refine ⟨_, hex, (congrArg Port.peer hsh).trans hpeer', (congrArg Port.ver hsh).trans hver,
        fun hd' => ?_, fun _ _ => hup, fun _ hv' hb => ?_⟩
      · cases hd.symm.trans hd'
      · rw [hr, hb, Bool.and_true] at hrate
        exact absurd hv' (of_decide_eq_false hrate.symm)
    | true =>
      rw [State.linkAgreed_again (hdone.trans hd) hsome hr] at hex
      have hp := State.port_setPort cy n { y.port n with trained := false }
      refine ⟨_, hex, by rw [hp]; exact hpeer', by rw [hp]; exact hver, fun hd' => ?_, fun _ hor => ?_, fun _ _ _ => ?_⟩
      · cases hd.symm.trans hd'
      · rw [hr] at hrate
        obtain ⟨h1, h2⟩ := Bool.and_eq_true_iff.mp hrate.symm
        have h1 := of_decide_eq_true h1
        obtain hor | hor := hor
        · omega
        · cases h2.symm.trans hor
      · rw [hp]
        refine ⟨fun hq => ?_, hsty, rfl, hr⟩
        obtain ⟨b, hb⟩ := hhello hq
        exact ⟨b, ⟨hb.isOp, hb.vc, hb.least, hb.most, hb.id, hb.port, hb.waits, hb.goes⟩⟩
  · rw [State.linkAgreed_waits (.inl (hdone.trans (Bool.eq_false_iff.mpr hd)))] at hex
    exact ⟨_, hex, hpeer', hver, fun _ => ⟨hhello, hsty⟩, fun hd' => absurd hd' hd, fun hd' => absurd hd' hd⟩

/-- LINK_HELLO_ACK of a port whose own hello has not been answered. -/
theorem linkHelloAck_acts (h : Stated.Greets s n 2 m) (hd : (s.port n).helloDone = false) :
    ((s.port n).peer = none → ∃ t, exec (.linkHelloAck n m) s = .next t ∧
      t.port n = { s.port n with helloDone := true } ∧ t.mem = s.mem) ∧
    ((s.port n).peer ≠ none → (s.port n).r224 = true → ∃ t, exec (.linkHelloAck n m) s = .next t ∧
      t.port n = { s.port n with helloDone := true, trained := false } ∧ t.mem = s.mem) ∧
    ((s.port n).peer ≠ none → (s.port n).r224 = false → ∃ t, exec (.linkHelloAck n m) s = .next t ∧ t.IsUp n) := by
  have hh := helloing_of_greets h (fld m 4 2)
  have c := State.canon_hear h.canon (fld m 4 2)
  have hport : (s.hear (fld m 4 2)).port n = s.port n := rfl
  have hack : (s.hear (fld m 4 2)).linkHelloAck n =
      ((s.hear (fld m 4 2)).setPort n { s.port n with helloDone := true }).linkAgreed n := by
    unfold State.linkHelloAck
    rw [if_pos ⟨hh, by rw [hport, hd]; rfl⟩]
    rfl
  have hex := (exec_linkHelloAck h).trans (congrArg _ hack)
  have hp := State.port_setPort c n { s.port n with helloDone := true }
  have cx := State.canon_setPort c n { s.port n with helloDone := true }
  have hm : Moves [.fabric] s ((s.hear (fld m 4 2)).setPort n { s.port n with helloDone := true }) :=
    (Moves.setFabric s _).andThen (Moves.setFabric _ _)
  generalize (s.hear (fld m 4 2)).setPort n { s.port n with helloDone := true } = y at *
  refine ⟨fun hpeer => ?_, fun hpeer hr => ?_, fun hpeer hr => ?_⟩
  · rw [State.linkAgreed_waits (.inr (by rw [hp]; exact hpeer))] at hex
    exact ⟨_, hex, hp, hm.mem⟩
  · rw [State.linkAgreed_again (by rw [hp]) (by rw [hp]; exact hpeer) (by rw [hp]; exact hr)] at hex
    refine ⟨_, hex, ?_, hm.mem⟩
    rw [State.port_setPort cx, hp]
  · rw [State.linkAgreed_up (by rw [hp]) (by rw [hp]; exact hpeer) (by rw [hp]; exact hr)] at hex
    exact ⟨_, hex, (State.portUp_isUp cx h.range).1⟩

/-- Links come up, or go down where they cannot. -/
theorem linksComeUp : Stated.LinksComeUp := by
  intro s n m
  refine ⟨fun c hn hlive hst htr => ?_, fun h hpeer => ?_, fun h hd => linkHelloAck_acts h hd⟩
  · obtain ⟨h1, h2⟩ := portTrained_acts c hn hlive hst htr
    refine ⟨fun hnat hd hq => ?_, h2⟩
    obtain ⟨t, hex, htr', hst', ⟨b, hb⟩, hmem⟩ := h1 hnat hd hq
    exact ⟨t, hex, htr', hst', ⟨b, hb.fields⟩, hmem⟩
  · obtain ⟨h1, h2⟩ := linkHello_refused h hpeer
    refine ⟨h1, h2, fun hv hid => ?_⟩
    obtain ⟨t, hex, hp, hver, hno, hup, hagain⟩ := linkHello_answered h hpeer hv hid
    refine ⟨t, hex, hp, hver, fun hd => ⟨fun hq => ?_, (hno hd).2⟩, hup,
      fun hd hv' hb => ⟨fun hq => ?_, (hagain hd hv' hb).2⟩⟩
    · obtain ⟨b, hb⟩ := (hno hd).1 hq
      exact ⟨b, hb.fields⟩
    · obtain ⟨b, hb'⟩ := (hagain hd hv' hb).1 hq
      exact ⟨b, hb'.fields⟩

end Sys2Proof.Machine
end

section
/-! SUPPORT. Lanes of a port (R354, R356 to R358); and the statement about links and lanes. -/
set_option Elab.async false

namespace Sys2Proof.Machine

variable {s t : State} {n lane : Nat} {x : Port} {assay own : Bool} {cause : LaneCause}

/-! ## A half that goes down -/

/-- The Vents of a port that has gone down with no message left. -/
theorem State.portGone_of_nil (c : s.Canon) (n reason : Nat) :
    Traffic (s.evErr .port n 2 reason 0xF 0 0) (s.portGone n reason []) := by
  have ce : (s.evErr .port n 2 reason 0xF 0 0).Canon := (Keeps.evErr .refl).canon c
  exact Posts.vents (s.evErr .port n 2 reason 0xF 0 0) (rs := 8 :: (s.evErr .port n 2 reason 0xF 0 0).portParts n)
    (fun r hr => by
      obtain rfl | hr := List.mem_cons.mp hr
      · decide
      · have := State.portParts_lt _ _ r hr
        omega) 0x8008 ringPart (leBytes 1 n ++ leBytes 7 reason ++ leBytes 8 (s.evErr .port n 2 reason 0xF 0 0).now) ce

/-- The first half of a port that goes down, with no message of its own left. -/
theorem State.halfDown_first (c : s.Canon) (hhalf : (s.port n).halfGone = []) (hout : (s.port n).ethOut = [])
    (h : Nat) :
    (s.halfDown n h).port n = { s.port n with halfGone := [h], reason := 1 } ∧
      bit ((s.halfDown n h).pg .port n 0x14) 2 = true := by
  have heq : s.halfDown n h = (s.setPort n { s.port n with halfGone := [h], reason := 1 }).portGone n 1 [] := by
    unfold State.halfDown
    dsimp only
    rw [hhalf, hout]
    rfl
  have cx := State.canon_setPort c n { s.port n with halfGone := [h], reason := 1 }
  have hport := State.port_setPort c n { s.port n with halfGone := [h], reason := 1 }
  rw [heq]
  generalize s.setPort n { s.port n with halfGone := [h], reason := 1 } = y at cx hport
  have hm : Moves [.bus] y (y.evErr .port n 2 1 0xF 0 0) := .evErr y (by decide)
  have hv := State.portGone_of_nil cx n 1
  refine ⟨?_, ?_⟩
  · rw [hv.moves.port, hm.port, hport]
  · rw [hv.page .port n 0x14 (by decide) (by simp only [pageNo]; omega)]
    exact State.bit_evErr_self cx (by decide) (by decide)

/-- The second half takes the port with it. -/
theorem State.halfDown_second {h g : Nat} (hhalf : (s.port n).halfGone = [g]) (hne : h ≠ g) :
    s.halfDown n h = s.portDown n 1 := by
  unfold State.halfDown
  dsimp only
  rw [hhalf, if_neg (by simpa using hne), if_pos (by rfl)]

/-! ## A lane that fails -/

theorem isHalves_iff (s : State) (n : Nat) : s.isHalves n = true ↔ bits (s.pg .port n 0x40) 1 0 = 2 := by
  simp [State.isHalves]

theorem State.laneDown_live (hst : (s.port n).st = .up ∨ (s.port n).st = .retraining) :
    s.laneDown n lane assay own =
      if s.isEth n then
        (if lane < 8 ∧ s.isHalves n then s.halfDown n (lane / 4) else s.portDown n 1)
      else if (s.port n).spared = lane ∨ (s.port n).sparing = lane then s
      else if lane = 8 ∧ (s.port n).spared = 15 ∧ (s.port n).sparing = 15 then
        (s.loopGone n).setPort n { (s.port n).unloop with badLanes := (s.port n).badLanes ++ [8] }
      else if (s.port n).spared = 15 ∧ (s.port n).sparing = 15 ∧ !(s.port n).badLanes.contains 8 then
        (s.loopGone n).setPort n { (s.port n).unloop with
          st := .retraining, sparing := lane, named := own,
          ctl := (s.port n).ctl ++ (if own then [.lane lane 0] else []),
          badLanes := (s.port n).badLanes ++ [lane] ++ (if assay then [16 + lane] else []) }
      else if (s.port n).sparing ≠ 15 ∧ !(s.port n).named ∧ own ∧ lane ≠ 8 then
        (if s.devId < (s.port n).peerId then
          s.setPort n { s.port n with
            sparing := lane, named := true, ctl := (s.port n).ctl ++ [.lane lane 0],
            badLanes := (s.port n).badLanes ++ [lane] ++ (if assay then [16 + lane] else []) }
         else s.setPort n { s.port n with ctl := (s.port n).ctl ++ [.lane lane 0] })
      else s.portDown n 1 := by
  refine if_neg ?_
  obtain h | h := hst <;> simp [h]

/-- What a lane's failing comes from. -/
def State.LaneFails (s : State) (n : Nat) (c : LaneCause) : Prop :=
  c = .signal ∨ c = .assay ∨ ∃ k, c = .symbols k ∧
    (if bits (s.pg .port n 0x40) 23 8 = 0 then 0xFFFF else bits (s.pg .port n 0x40) 23 8) < k

theorem State.laneLimit_eq (s : State) (n : Nat) : s.laneLimit n =
    if bits (s.pg .port n 0x40) 23 8 = 0 then 0xFFFF else bits (s.pg .port n 0x40) 23 8 := rfl

/-- A failing lane is taken down, its count of symbols in its register where that is the cause. -/
theorem execLaneFail_fails (c : s.Canon) (hlive : s.live (dieOfPort n) = true) (hf : s.LaneFails n cause)
    (hl : lane < 9) :
    ∃ x assay, exec (.laneFail n lane cause) s = .next (x.laneDown n lane assay true) ∧ x.Canon ∧ BusOnly s x ∧
      x.pg .port n 0x40 = s.pg .port n 0x40 := by
  have heq (k : LaneCause) (r : Host.Outcome State Fault Refusal) (h : execLaneFail n lane k s = r) :
      exec (.laneFail n lane k) s = r := h
  obtain rfl | rfl | ⟨k, rfl, hk⟩ := hf
  · exact ⟨s, false, heq _ _ (if_pos hlive), c, .refl, rfl⟩
  · exact ⟨s, true, heq _ _ (if_pos hlive), c, .refl, rfl⟩
  · have hcfg : (s.setPg .port n (0x80 + 4 * lane) (min k 0xFFFFFFFF)).pg .port n 0x40 = s.pg .port n 0x40 :=
      State.pg_setPg_ne c _ (by omega)
    refine ⟨_, false, heq _ _ ((if_pos hlive).trans (congrArg _ (if_pos ?_))), State.canon_setPg c .., .setPg, hcfg⟩
    rw [State.laneLimit_eq, hcfg]
    exact hk

/-- A lane of a native port fails while lane 8 is free. -/
theorem State.laneDown_spares (c : s.Canon) (hnat : bits (s.pg .port n 0x40) 1 0 = 0) (hst : (s.port n).st = .up)
    (hl : lane < 8) (hsp : (s.port n).spared = 15) (hsg : (s.port n).sparing = 15) (hb : 8 ∉ (s.port n).badLanes) :
    (s.laneDown n lane assay true).port n = { s.port n with
        looped := 15, st := .retraining, sparing := lane, named := true, ctl := (s.port n).ctl ++ [.lane lane 0],
        badLanes := (s.port n).badLanes ++ [lane] ++ (if assay then [16 + lane] else []) } ∧
      (s.laneDown n lane assay true).mem = s.mem := by
  have hg : (s.loopGone n).Canon ∧ (s.loopGone n).mem = s.mem := by
    unfold State.loopGone
    split
    · split
      · exact ⟨{ c with }, rfl⟩
      · exact ⟨c, rfl⟩
    · exact ⟨c, rfl⟩
  have hun : (s.port n).unloop = { s.port n with looped := 15 } := by
    unfold Port.unloop
    rw [if_neg (by simp [hst])]
  rw [State.laneDown_live (.inl hst), isEth_of_native hnat, if_neg (by decide), if_neg (by omega), if_neg (by omega),
    if_pos ⟨hsp, hsg, by simpa using hb⟩, hun]
  exact ⟨State.port_setPort hg.1 _ _, hg.2⟩

/-- A lane of a port fails that has no lane to stand for it. -/
theorem State.laneDown_down (hst : (s.port n).st = .up) (hl : lane < 8)
    (h : bits (s.pg .port n 0x40) 1 0 = 1 ∨
      bits (s.pg .port n 0x40) 1 0 = 0 ∧
        ((s.port n).spared ≠ 15 ∧ (s.port n).spared ≠ lane ∧ (s.port n).sparing = 15) ∨
      bits (s.pg .port n 0x40) 1 0 = 0 ∧
        ((s.port n).spared = 15 ∧ (s.port n).sparing = 15 ∧ 8 ∈ (s.port n).badLanes)) :
    s.laneDown n lane assay own = s.portDown n 1 := by
  rw [State.laneDown_live (.inl hst)]
  obtain h | ⟨h, h1, h2, h3⟩ | ⟨h, h1, h2, h3⟩ := h
  · rw [if_pos (isEth_of_mode (by omega)), if_neg]
    rw [isHalves_iff]
    omega
  · rw [isEth_of_native h, if_neg (by decide), if_neg (by omega), if_neg (by omega), if_neg (by omega),
      if_neg (by omega)]
  · rw [isEth_of_native h, if_neg (by decide), if_neg (by omega), if_neg (by omega), if_neg (by simp [h3]),
      if_neg (by omega)]

theorem State.laneDown_half (hst : (s.port n).st = .up) (hl : lane < 8) (h : bits (s.pg .port n 0x40) 1 0 = 2) :
    s.laneDown n lane assay own = s.halfDown n (lane / 4) := by
  rw [State.laneDown_live (.inl hst), if_pos (isEth_of_mode (by omega)), if_pos ⟨hl, (isHalves_iff s n).mpr h⟩]

/-- A lane fails while another is named for the retrain. -/
theorem State.laneDown_named (c : s.Canon) (hnat : bits (s.pg .port n 0x40) 1 0 = 0) (hst : (s.port n).st = .retraining)
    (hsg : (s.port n).sparing < 8) (hnm : (s.port n).named = false) (hl : lane < 8) (hsp : (s.port n).spared = 15)
    (hne : lane ≠ (s.port n).sparing) :
    let y := (s.laneDown n lane assay true).port n
    (s.laneDown n lane assay true).mem = s.mem ∧ y.st = .retraining ∧ y.ctl = (s.port n).ctl ++ [.lane lane 0] ∧
      y.sparing = if s.fabric.devId < (s.port n).peerId then lane else (s.port n).sparing := by
  rw [State.laneDown_live (.inr hst), isEth_of_native hnat, if_neg (by decide), if_neg (by omega), if_neg (by omega),
    if_neg (by omega), if_pos ⟨by omega, by rw [hnm]; rfl, rfl, by omega⟩]
  by_cases hid : s.devId < (s.port n).peerId
  · rw [if_pos hid, if_pos (show s.fabric.devId < (s.port n).peerId from hid)]
    dsimp only
    rw [State.port_setPort c]
    exact ⟨rfl, hst, rfl, rfl⟩
  · rw [if_neg hid, if_neg (show ¬ s.fabric.devId < (s.port n).peerId from hid)]
    dsimp only
    rw [State.port_setPort c]
    exact ⟨rfl, hst, rfl, rfl⟩

/-! ## Retrains that complete -/

/-- A retrain that was for no lane. -/
theorem execRetrainDone_plain (c : s.Canon) (hn : n < 16) (hlive : s.live (dieOfPort n) = true)
    (hst : (s.port n).st = .retraining) (hsp : (s.port n).sparing = 15) :
    ∃ t, exec (.retrainDone n) s = .next t ∧ (t.port n).st = .up ∧ (t.port n).spared = (s.port n).spared ∧
      t.mem = s.mem ∧ t.health = s.health := by
  have cc : (s.count64 .port n 0x68 (s.port n).replay.length).Canon := State.canon_setPg (State.canon_setPg c ..) ..
  have hex : exec (.retrainDone n) s =
      .next (((s.count64 .port n 0x68 (s.port n).replay.length).setPort n { s.port n with
        st := .up, spared := (s.port n).spared, sparing := 15, named := false }).txPump n) := by
    change execRetrainDone n s = _
    unfold execRetrainDone
    dsimp only
    rw [if_pos ⟨hst, hlive⟩, if_pos hsp, if_pos hsp]
  have cx := State.canon_setPort cc n
      { s.port n with st := .up, spared := (s.port n).spared, sparing := 15, named := false }
  have hpx := State.port_setPort cc n
      { s.port n with st := .up, spared := (s.port n).spared, sparing := 15, named := false }
  have hm : Moves [.bus, .fabric] s ((s.count64 .port n 0x68 (s.port n).replay.length).setPort n { s.port n with
      st := .up, spared := (s.port n).spared, sparing := 15, named := false }) :=
    (Moves.ofBusOnly .count64).mono.andThen (Moves.setFabric _ _)
  have hs := Sends.txPump cx hn
  have hsh := (hs.shape n).trans (congrArg Port.shape hpx)
  exact ⟨_, hex, (congrArg Port.st hsh :), (congrArg Port.spared hsh :), hs.moves.mem.trans hm.mem,
    hs.moves.health.trans hm.health⟩

/-- The substitution stands in the spare-use log, while that has room. -/
theorem State.spareUse_frame (c : s.Canon) (typ inst spare logical action source : Nat) :
    let t := s.spareUse typ inst spare logical 0xFF action source
    t.Canon ∧ (∀ q, t.port q = s.port q) ∧ (∀ off, off < 0x1000 → t.pg .port n off = s.pg .port n off) ∧
      (s.health.log.length < 128 → t.health.log.length = s.health.log.length + 1) := by
  have hm := Moves.splog s typ inst spare action source
  have cl : (s.splog typ inst spare action source).Canon := (Keeps.splog .refl).canon c
  have hpg (off : Nat) (ho : off < 0x1000) :
      (s.splog typ inst spare action source).pg .port n off = s.pg .port n off := by
    unfold State.splog
    dsimp only
    split
    · exact State.pg_evSet_ne { c with } (by decide) (by simp only [pageNo]; omega) (by simp only [pageNo]; omega)
    · exact State.pg_evSet_ne { c with } (by decide) (by simp only [pageNo]; omega) (by simp only [pageNo]; omega)
  have hlog (h : s.health.log.length < 128) :
      (s.splog typ inst spare action source).health.log.length = s.health.log.length + 1 := by
    unfold State.splog
    dsimp only
    rw [if_pos h, (Moves.evSet _ (k := .pyro) (by decide)).health]
    exact List.length_append
  have hv : Traffic (s.splog typ inst spare action source) (s.spareUse typ inst spare logical 0xFF action source) :=
    Posts.ventAll _ (fun r hr => by
      obtain rfl : r = 8 := by simpa using hr
      decide) _ _ _ cl
  refine ⟨hv.canon, fun q => ?_, fun off ho => ?_, fun h => ?_⟩
  · rw [hv.moves.port, hm.port]
  · rw [hv.page .port n off ho (by simp only [pageNo]; omega), hpg off ho]
  · rw [hv.moves.health, hlog h]

/-- A retrain that was for a lane: lane 8 stands for it. -/
theorem execRetrainDone_spares (c : s.Canon) (hn : n < 16) (hlive : s.live (dieOfPort n) = true)
    (hst : (s.port n).st = .retraining) (hsp : (s.port n).sparing < 8) :
    ∃ t, exec (.retrainDone n) s = .next t ∧ (t.port n).st = .up ∧ (t.port n).spared = (s.port n).sparing ∧
      (t.port n).sparing = 15 ∧ bit (t.pg .port n 0x14) 3 = true ∧
      (s.health.log.length < 128 → t.health.log.length = s.health.log.length + 1) := by
  have hne : (s.port n).sparing ≠ 15 := by omega
  have cc : (s.count64 .port n 0x68 (s.port n).replay.length).Canon := State.canon_setPg (State.canon_setPg c ..) ..
  obtain ⟨src, hex⟩ : ∃ src, exec (.retrainDone n) s =
      .next (((((s.count64 .port n 0x68 (s.port n).replay.length).setPort n { s.port n with
        st := .up, spared := (s.port n).sparing, sparing := 15, named := false }).evErr .port n 3 3 0xF
          (s.port n).sparing 0).spareUse 0x32 (n * 16 + (s.port n).sparing) (n * 16 + 8)
          (s.port n).sparing 0xFF 1 src).txPump n) := by
    refine ⟨if (s.port n).badLanes.contains (16 + (s.port n).sparing) then 3 else 2, ?_⟩
    change execRetrainDone n s = _
    unfold execRetrainDone
    dsimp only
    rw [if_pos ⟨hst, hlive⟩, if_neg hne, if_neg hne]
  have cx := State.canon_setPort cc n
      { s.port n with st := .up, spared := (s.port n).sparing, sparing := 15, named := false }
  have hpx := State.port_setPort cc n
      { s.port n with st := .up, spared := (s.port n).sparing, sparing := 15, named := false }
  have hm : Moves [.bus, .fabric] s ((s.count64 .port n 0x68 (s.port n).replay.length).setPort n { s.port n with
      st := .up, spared := (s.port n).sparing, sparing := 15, named := false }) :=
    (Moves.ofBusOnly .count64).mono.andThen (Moves.setFabric _ _)
  generalize (s.count64 .port n 0x68 (s.port n).replay.length).setPort n { s.port n with
      st := .up, spared := (s.port n).sparing, sparing := 15, named := false } = y at hex cx hpx hm
  have cy : (y.evErr .port n 3 3 0xF (s.port n).sparing 0).Canon := (Keeps.evErr .refl).canon cx
  have hmy : Moves [.bus] y (y.evErr .port n 3 3 0xF (s.port n).sparing 0) := .evErr y (by decide)
  have hbit : bit ((y.evErr .port n 3 3 0xF (s.port n).sparing 0).pg .port n 0x14) 3 = true :=
    State.bit_evErr_self cx (by decide) (by decide)
  obtain ⟨cz, hpz, hpgz, hlogz⟩ := State.spareUse_frame (n := n) cy 0x32 (n * 16 + (s.port n).sparing) (n * 16 + 8)
    (s.port n).sparing 1 src
  have hs := Sends.txPump cz hn
  have hsh := hs.shape n
  rw [hpz, hmy.port, hpx] at hsh
  refine ⟨_, hex, (congrArg Port.st hsh :), (congrArg Port.spared hsh :), (congrArg Port.sparing hsh :), ?_,
    fun h => ?_⟩
  · rw [hs.page .port n 0x14 (by decide) (by omega), hpgz _ (by decide)]
    exact hbit
  · have hh : (y.evErr .port n 3 3 0xF (s.port n).sparing 0).health = s.health := by rw [hmy.health, hm.health]
    rw [hs.moves.health, hlogz (by rwa [hh]), hh]

/-! ## Lane control flits and windows -/

theorem execLaneControl_eq (hlive : s.live (dieOfPort n) = true) (hnat : bits (s.pg .port n 0x40) 1 0 = 0) (op : Nat) :
    exec (.laneControl n lane op) s =
      if op = 0 then
        if (s.port n).st = .retraining ∧ (s.port n).sparing ≠ 15 then
          .next (if (s.port n).peerId < s.devId then s.setPort n
            { s.port n with sparing := lane, named := false } else s)
        else .next (s.laneDown n lane false false)
      else if (s.port n).st = .up ∧ (s.port n).spared = 15 ∧ !(s.port n).badLanes.contains 8 ∧ lane < 8 then
        .next (s.setPort n { s.port n with st := .handover, looped := lane })
      else if (s.port n).st = .handover ∧ (s.port n).looped = lane then .next (s.setPort n (s.port n).unloop)
      else .next s := by
  refine if_neg ?_
  simp [isEth_of_native hnat, hlive]

theorem laneWindow_clears (c : s.Canon) (ls : List Nat) (hls : ∀ i ∈ ls, i < 9) :
    let t := ls.foldl (fun s i => s.setPg .port n (0x80 + 4 * i) 0) s
    BusOnly s t ∧ ∀ i, i < 9 → (i ∈ ls ∨ s.pg .port n (0x80 + 4 * i) = 0) → t.pg .port n (0x80 + 4 * i) = 0 := by
  induction ls generalizing s with
  | nil => exact ⟨.refl, fun i _ h => h.resolve_left List.not_mem_nil⟩
  | cons j ls ih =>
    obtain ⟨hb, hz⟩ := ih (State.canon_setPg c .port n (0x80 + 4 * j) 0) fun i hi => hls i (List.mem_cons_of_mem _ hi)
    refine ⟨.trans .setPg hb, fun i hi h => hz i hi ?_⟩
    by_cases hij : i = j
    · refine .inr ?_
      rw [hij, State.pg_setPg c]
      exact Nat.zero_mod _
    · obtain h | h := h
      · exact .inl ((List.mem_cons.mp h).resolve_left hij)
      · exact .inr ((State.pg_setPg_ne c _ (by omega)).trans h)

/-- Lanes fail, are spared and return. -/
theorem lanesAreSpared : Stated.LanesAreSpared := by
  intro s n lane c hn hlive x native free limit above fails
  have hfail (cause : LaneCause) (h : fails cause) (hl : lane < 9) := execLaneFail_fails (lane := lane)
      (cause := cause) c hlive h hl
  refine ⟨fun k hk hl => ?_, fun cause hf hnat hst hl hfree => ?_, fun cause hf hst hl hor => ?_,
    fun cause hf hst hl hmode => ⟨fun hhalf hout => ?_, fun hhalf => ?_⟩,
    fun cause hf hnat hst hsg hnm hl hsp hne => ?_, fun hd htr => ?_,
    fun hst hsp => execRetrainDone_plain c hn hlive hst hsp, fun hst hsp => execRetrainDone_spares c hn hlive hst hsp,
    fun hnat hst hsp => ?_, fun hnat hst hsp hb hl => ?_, fun hnat hst hl => ?_, ?_⟩
  · have hcfg : (s.setPg .port n (0x80 + 4 * lane) (min k 0xFFFFFFFF)).pg .port n 0x40 = s.pg .port n 0x40 :=
      State.pg_setPg_ne c _ (by omega)
    have hlim := bits_lt (s.pg .port n 0x40) 23 8
    have hex : exec (.laneFail n lane (.symbols k)) s =
        .next (s.setPg .port n (0x80 + 4 * lane) (min k 0xFFFFFFFF)) := by
      refine (if_pos hlive).trans (congrArg _ (if_neg ?_))
      rw [State.laneLimit_eq, hcfg]
      exact hk
    refine ⟨_, hex, rfl, rfl, (State.pg_setPg c ..).trans ?_⟩
    have hk : ¬ (if limit = 0 then 0xFFFF else limit) < k := hk
    have : limit < 2 ^ (23 + 1 - 8) := hlim
    split at hk <;> omega
  · obtain ⟨y, assay, hex, cy, hb, hcfg⟩ := hfail cause hf (by omega)
    have hy := (Moves.ofBusOnly hb).port (by decide) n
    obtain ⟨hsp, hsg, hbad⟩ := hfree
    obtain ⟨hp, hmem⟩ := State.laneDown_spares (lane := lane) (assay := assay) cy (by rw [hcfg]; exact hnat)
      (by rw [hy]; exact hst) hl
      (by rw [hy]; exact hsp) (by rw [hy]; exact hsg) (by rw [hy]; exact hbad)
    rw [hy] at hp
    refine ⟨_, hex, ?_, ?_, ?_, ?_, hmem.trans hb.mem⟩ <;> rw [hp]
  · obtain ⟨y, assay, hex, cy, hb, hcfg⟩ := hfail cause hf (by omega)
    have hy := (Moves.ofBusOnly hb).port (by decide) n
    have hgo := State.portDown_goes cy hn (by rw [hy, hst]; decide) 1
    refine ⟨_, hex.trans (congrArg _ (State.laneDown_down (by rw [hy]; exact hst) hl (by rw [hcfg, hy]; exact hor))),
      ?_, ?_, hgo.event⟩ <;> rw [hgo.port] <;> rfl
  · obtain ⟨y, assay, hex, cy, hb, hcfg⟩ := hfail cause hf (by omega)
    have hy := (Moves.ofBusOnly hb).port (by decide) n
    obtain ⟨hp, hbit⟩ := State.halfDown_first cy (by rw [hy]; exact hhalf) (by rw [hy]; exact hout) (lane / 4)
    rw [hy] at hp
    exact ⟨_, hex.trans (congrArg _ (State.laneDown_half (by rw [hy]; exact hst) hl (by rw [hcfg]; exact hmode))), hp,
      hbit⟩
  · obtain ⟨y, assay, hex, cy, hb, hcfg⟩ := hfail cause hf (by omega)
    have hy := (Moves.ofBusOnly hb).port (by decide) n
    have hgo := State.portDown_goes cy hn (by rw [hy, hst]; decide) 1
    refine ⟨_, hex.trans (congrArg _ ((State.laneDown_half (by rw [hy]; exact hst) hl (by rw [hcfg]; exact hmode)).trans
      (State.halfDown_second (by rw [hy]; exact hhalf) (by omega)))), ?_, ?_⟩ <;> rw [hgo.port] <;> rfl
  · obtain ⟨y, assay, hex, cy, hb, hcfg⟩ := hfail cause hf (by omega)
    have hy := (Moves.ofBusOnly hb).port (by decide) n
    have hfab := (Moves.ofBusOnly hb).fabric
    obtain ⟨hmem, h1, h2, h3⟩ := State.laneDown_named (lane := lane) (assay := assay) cy (by rw [hcfg]; exact hnat)
      (by rw [hy]; exact hst) (by rw [hy]; exact hsg) (by rw [hy]; exact hnm) hl (by rw [hy]; exact hsp)
      (by rw [hy]; exact hne)
    rw [hy] at h2 h3
    rw [hfab] at h3
    exact ⟨_, hex, hmem.trans hb.mem, h1, h2, h3⟩
  · have hgo := State.portDown_goes c hn hd 5
    have hex : exec (.laneFail n lane .all) s = .next (s.portDown n 5) :=
      (if_pos hlive).trans (congrArg _ (if_neg htr))
    refine ⟨_, hex, ?_, ?_⟩ <;> rw [hgo.port] <;> rfl
  · have hex := execLaneControl_eq (lane := lane) hlive hnat 0
    rw [if_pos rfl, if_pos ⟨hst, hsp⟩] at hex
    have hex : exec (.laneControl n lane 0) s = .next (if (x.peer.map (·.1)).getD 0xFFFF < s.fabric.devId then
      s.setPort n { x with sparing := lane, named := false } else s) := hex
    refine ⟨_, hex, ?_, ?_⟩
    · split <;> rfl
    · split
      · exact State.port_setPort c _ _
      · rfl
  · have hex := execLaneControl_eq (lane := lane) hlive hnat 1
    rw [if_neg (by decide), if_pos ⟨hst, hsp, by simpa using hb, hl⟩] at hex
    exact ⟨_, hex, State.port_setPort c _ _, rfl⟩
  · have hex := execLaneControl_eq (lane := lane) hlive hnat 1
    have hun : x.unloop = { x with st := .up, looped := 15 } := if_pos hst
    rw [if_neg (by decide), if_neg (fun h => by rw [h.1] at hst; cases hst), if_pos ⟨hst, hl⟩] at hex
    exact ⟨_, hex, (State.port_setPort c _ _).trans hun, rfl⟩
  · obtain ⟨hb, hz⟩ := laneWindow_clears (n := n) c (List.range 9) fun i hi => List.mem_range.mp hi
    exact ⟨_, rfl, fun i hi => hz i hi (.inl (List.mem_range.mpr hi)), (Moves.ofBusOnly hb).fabric, hb.mem⟩

/-- Settles O51. -/
theorem linksAndLanes : Obligations.LinksAndLanes := ⟨linksComeUp, lanesAreSpared⟩

end Sys2Proof.Machine
end

section
/-! SUPPORT. Native flits (R352 to R355): data, acknowledgements, NAKs and flits that fail. -/
set_option Elab.async false

namespace Sys2Proof.Machine

variable {s t : State} {n h seq : Nat} {x : Port} {f : List Byte}

/-! ## Acknowledgements -/

/-- The flits that stay in the replay buffer after an acknowledgement. -/
def Port.unacked (x : Port) (a : Nat) : List (Nat × FabMsg) :=
  x.replay.dropWhile fun e => decide (1 ≤ (a + 1024 - e.1) % 1024 ∧ (a + 1024 - e.1) % 1024 ≤ 512)

/-- Replays from one SEQ are counted anew once a flit has been acknowledged. -/
def Port.runKept (x : Port) (a : Nat) : Nat × Nat :=
  if (x.unacked a).length = x.replay.length then x.replayRun else (0, 0)

theorem Port.acked_eq (x : Port) (a : Nat) :
    x.acked a = { x with replay := x.unacked a, replayRun := x.runKept a } := by
  change (if (x.unacked a).length = x.replay.length then x else { x with replay := x.unacked a, replayRun := (0, 0) })
    = _
  unfold Port.runKept
  split
  case isTrue hlen =>
    have hsame : x.unacked a = x.replay := (List.dropWhile_sublist _).eq_of_length hlen
    rw [hsame]
  case isFalse => rfl

/-- What ACK and CREDITS of a flit change. -/
theorem Port.flitHead_eq (x : Port) (h : Nat) :
    x.flitHead h = { x with
      replay := x.unacked (bits h 25 16), replayRun := x.runKept (bits h 25 16),
      credits := if bits h 27 26 < 3 then
        tput 0 x.credits (bits h 27 26) (tget 0 x.credits (bits h 27 26) + bits h 35 28) else x.credits } := by
  unfold Port.flitHead
  dsimp only
  rw [Port.acked_eq]
  split <;> rfl

/-! ## Ports that exchange flits -/

theorem State.flitLive_of_up (h : Stated.NativeUp s n) : s.flitLive n = true := by
  obtain ⟨-, -, hlive, hst, hnat⟩ := h
  simp [State.flitLive, State.portLive, hlive, hst, isEth_of_native hnat]

/-- Whether the receiver acts on a flit of a header. -/
def Port.takes (x : Port) (h : Nat) : Prop := bits h 3 0 ≤ 3 ∧ (bits h 3 0 = 1 → x.accepts h = true)

theorem Port.accepts_iff (x : Port) (h : Nat) : x.accepts h = true ↔
    bits h 5 4 < 3 ∧ bits h 15 6 = x.rxSeq ∧ 1 ≤ bits h 43 36 ∧ bits h 43 36 ≤ 244 := by
  simp [Port.accepts, and_assoc]

theorem execFlitAccepted_takes (hl : s.flitLive n = true) (hw : crc32 (slice f 0 252) = fld f 252 4)
    (ht : (s.port n).takes (fld f 0 8)) :
    exec (.flitAccepted n f) s =
      .next ((let h := fld f 0 8
        let t := s.setPort n ((s.port n).flitHead h)
        if bits h 3 0 = 1 then t.dataFlit n (bits h 5 4) (bits h 43 36) (bit h 44) (bit h 45) f
        else if bits h 3 0 = 2 then t.nak n (bits h 25 16) else t).txPump n) :=
  if_pos ⟨hl, hw, ht.1, ht.2⟩

theorem execFlitAccepted_discards (h : ¬ (crc32 (slice f 0 252) = fld f 252 4 ∧ (s.port n).takes (fld f 0 8))) :
    exec (.flitAccepted n f) s = .next s :=
  if_neg fun hc => h ⟨hc.2.1, hc.2.2⟩

/-- The port as it has taken the payload of a data flit. -/
def Port.gotFlit (x : Port) (vc : Nat) (eom : Bool) (got : List Byte) : Port := { x with
  rxSeq := (x.rxSeq + 1) % 1024, discard := false, ackSent := (x.rxSeq + 1) % 1024,
  given := tput 0 x.given vc (tget 0 x.given vc + 1),
  rx := tput [] x.rx vc (if eom then [] else got) }

/-- What a message comes to with the payload of a data flit. -/
def Port.payload (x : Port) (vc len : Nat) (som : Bool) (f : List Byte) : List Byte :=
  (if som then [] else tget [] x.rx vc) ++ slice f 8 len

theorem State.dataFlit_eq (s : State) (n vc len : Nat) (som eom : Bool) (f : List Byte) :
    s.dataFlit n vc len som eom f =
      (let t := (s.setPort n ((s.port n).gotFlit vc eom ((s.port n).payload vc len som f))).count64 .port n 0x78 len
      if eom then t.fabReceive n ((s.port n).payload vc len som f) else t) := rfl

/-- A message that is too short, or whose CRC fails, is dropped. -/
theorem State.fabReceive_drops {m : List Byte} (h : m.length < 32 ∨ crc32 (lay m 28 [0, 0, 0, 0]) ≠ fld m 28 4) :
    s.fabReceive n m = s.msgDrop n := by
  refine if_pos ?_
  obtain h | h := h
  · exact .inl h
  · refine .inr (.inl ?_)
    rw [Bool.not_eq_true', fabCrcOk]
    exact beq_eq_false_iff_ne.mpr h

/-- A flit with the next payload of a message. -/
theorem flitAccepted_data (hup : Stated.NativeUp s n) (hw : crc32 (slice f 0 252) = fld f 252 4)
    (h1 : bits (fld f 0 8) 3 0 = 1) (ha : (s.port n).accepts (fld f 0 8) = true) :
    let h := fld f 0 8
    let x := s.port n
    let got := x.payload (bits h 5 4) (bits h 43 36) (bit h 44) f
    (bit h 45 = false → ∃ t, exec (.flitAccepted n f) s = .next t ∧ t.mem = s.mem ∧
      (t.port n).rxSeq = (x.rxSeq + 1) % 1024 ∧ (t.port n).discard = false ∧
      (t.port n).rx = tput [] x.rx (bits h 5 4) got ∧
      (t.port n).given = tput 0 x.given (bits h 5 4) (tget 0 x.given (bits h 5 4) + 1)) ∧
    (bit h 45 = true → got.length < 32 ∨ crc32 (lay got 28 [0, 0, 0, 0]) ≠ fld got 28 4 →
      ∃ t, exec (.flitAccepted n f) s = .next t ∧ t.mem = s.mem ∧ (t.port n).rxSeq = (x.rxSeq + 1) % 1024 ∧
        t.pg .port n 0xA4 = min (s.pg .port n 0xA4 + 1) 0xFFFFFFFF) := by
  have hlive := State.flitLive_of_up hup
  obtain ⟨c, hn, -, -, -⟩ := hup
  have hex := execFlitAccepted_takes hlive hw ⟨by omega, fun _ => ha⟩
  have cx := State.canon_setPort c n ((s.port n).flitHead (fld f 0 8))
  have hpx := State.port_setPort c n ((s.port n).flitHead (fld f 0 8))
  have hmx : Moves [.fabric] s (s.setPort n ((s.port n).flitHead (fld f 0 8))) := .setFabric s _
  have hpgx (off : Nat) : (s.setPort n ((s.port n).flitHead (fld f 0 8))).pg .port n off = s.pg .port n off := rfl
  dsimp only at hex ⊢
  rw [if_pos h1, State.dataFlit_eq, hpx] at hex
  have hpay : ((s.port n).flitHead (fld f 0 8)).payload (bits (fld f 0 8) 5 4) (bits (fld f 0 8) 43 36)
      (bit (fld f 0 8) 44) f =
      (s.port n).payload (bits (fld f 0 8) 5 4) (bits (fld f 0 8) 43 36) (bit (fld f 0 8) 44) f := by
    rw [Port.flitHead_eq]
    rfl
  rw [hpay] at hex
  generalize s.setPort n ((s.port n).flitHead (fld f 0 8)) = y at hex cx hpx hmx hpgx
  generalize (s.port n).payload (bits (fld f 0 8) 5 4) (bits (fld f 0 8) 43 36) (bit (fld f 0 8) 44) f = got at hex ⊢
  generalize hz : (y.setPort n (((s.port n).flitHead (fld f 0 8)).gotFlit (bits (fld f 0 8) 5 4)
    (bit (fld f 0 8) 45) got)).count64
    .port n 0x78 (bits (fld f 0 8) 43 36) = z at hex
  have cz : z.Canon := by
    rw [← hz]
    exact State.canon_setPg (State.canon_setPg (State.canon_setPort cx ..) ..) ..
  have hmz : Moves [.bus, .fabric] y z := by
    rw [← hz]
    exact (Moves.setFabric y _).mono.andThen (Moves.ofBusOnly .count64)
  have hpz : z.port n = ((s.port n).flitHead (fld f 0 8)).gotFlit (bits (fld f 0 8) 5 4) (bit (fld f 0 8) 45) got := by
    rw [← hz, State.port_count64, State.port_setPort cx]
  have hpgz : z.pg .port n 0xA4 = s.pg .port n 0xA4 := by
    rw [← hz, State.pg_count64_ne (State.canon_setPort cx ..) _ (by omega) (by decide) (by decide)]
    exact hpgx _
  have hseq : (z.port n).rxSeq = ((s.port n).rxSeq + 1) % 1024 := by
    rw [hpz, Port.flitHead_eq]
    rfl
  refine ⟨fun he => ?_, fun he hbad => ?_⟩
  · rw [he, if_neg (by decide)] at hex
    have hs := Sends.txPump cz hn
    have hsh := hs.shape n
    rw [he] at hpz
    refine ⟨_, hex, (hs.moves.mem.trans hmz.mem).trans hmx.mem, (congrArg Port.rxSeq hsh :).trans hseq, ?_, ?_, ?_⟩
    · refine (congrArg Port.discard hsh :).trans ?_
      rw [show z.port n = _ from hpz]
      rfl
    · refine (congrArg Port.rx hsh :).trans ?_
      rw [show z.port n = _ from hpz, Port.flitHead_eq]
      rfl
    · refine (congrArg Port.given hsh :).trans ?_
      rw [show z.port n = _ from hpz, Port.flitHead_eq]
      rfl
  · rw [he, if_pos rfl, State.fabReceive_drops hbad] at hex
    have cd : (z.msgDrop n).Canon := State.canon_setPg cz ..
    have hmd : Moves [.bus] z (z.msgDrop n) := .ofBusOnly .count32
    have hs := Sends.txPump cd hn
    have hsh := hs.shape n
    refine ⟨_, hex, ((hs.moves.mem.trans hmd.mem).trans hmz.mem).trans hmx.mem, (congrArg Port.rxSeq hsh :).trans hseq,
      ?_⟩
    rw [hs.page .port n 0xA4 (by decide) (by omega), State.msgDrop, State.pg_count32 cz, hpgz]

/-- An idle flit. -/
theorem flitAccepted_idle (hup : Stated.NativeUp s n) (hw : crc32 (slice f 0 252) = fld f 252 4)
    (h0 : bits (fld f 0 8) 3 0 = 0) (hwait : (s.port n).txWait = []) :
    ∃ t, exec (.flitAccepted n f) s = .next t ∧ t.mem = s.mem ∧ t.port n = (s.port n).flitHead (fld f 0 8) := by
  have hlive := State.flitLive_of_up hup
  obtain ⟨c, hn, -, -, -⟩ := hup
  have hex := execFlitAccepted_takes hlive hw ⟨by omega, fun h1 => by omega⟩
  have cx := State.canon_setPort c n ((s.port n).flitHead (fld f 0 8))
  have hpx := State.port_setPort c n ((s.port n).flitHead (fld f 0 8))
  dsimp only at hex
  rw [if_neg (by omega), if_neg (by omega)] at hex
  have hnone : ((s.setPort n ((s.port n).flitHead (fld f 0 8))).port n).txOne = none := by
    refine Port.txOne_of_empty fun v _ => ?_
    rw [hpx, Port.flitHead_eq, hwait]
    rfl
  refine ⟨_, hex, (Sends.txPump cx hn).moves.mem, ?_⟩
  rw [State.port_txPump_of_none cx hnone, hpx]

/-! ## NAKs -/

/-- A NAK after which a flit of the replay buffer is sent again. -/
theorem State.nak_eq (s : State) (n seq : Nat) :
    s.nak n seq =
      (let x := (s.port n).acked seq
      let t := s.setPort n x
      let k := (x.replay.dropWhile fun e => e.1 ≠ seq).length
      if k = 0 then t
      else
        let t := t.count64 .port n 0x68 k
        let run := if x.replayRun.1 = seq then x.replayRun.2 + 1 else 1
        if run < 8 ∨ x.st = .training then t.setPort n { x with replayRun := (seq, run) }
        else
          let rs := t.now :: x.retrains.filter fun e => decide (t.now < e + 1000000000)
          let t := t.setPort n { x with
            st := .retraining, looped := 15, replayRun := (0, 0), retrains := rs, discard := false }
          let t := t.evSet .port n 4
          if 3 ≤ rs.length then t.portDown n 2 else t) := rfl

/-- The next replay from a SEQ is the one of this number. -/
def Port.runOf (x : Port) (seq : Nat) : Nat := if (x.runKept seq).1 = seq then (x.runKept seq).2 + 1 else 1

theorem length_dropWhile_eq_zero {l : List (Nat × FabMsg)} :
    (l.dropWhile fun e => decide (e.1 ≠ seq)).length = 0 ↔ ∀ e ∈ l, e.1 ≠ seq := by
  rw [List.length_eq_zero_iff, List.dropWhile_eq_nil_iff]
  simp

section
variable (hup : Stated.NativeUp s n)
include hup

theorem flitNak_acknowledges (hnone : ∀ e ∈ (s.port n).unacked seq, e.1 ≠ seq) (hwait : (s.port n).txWait = []) :
    ∃ t, exec (.flitNak n seq) s = .next t ∧
      t.port n = { s.port n with replay := (s.port n).unacked seq, replayRun := (s.port n).runKept seq } ∧
      t.mem = s.mem := by
  have hlive := State.flitLive_of_up hup
  obtain ⟨c, hn, -, -, -⟩ := hup
  have hex : exec (.flitNak n seq) s = .next ((s.nak n seq).txPump n) := if_pos hlive
  rw [State.nak_eq, Port.acked_eq] at hex
  dsimp only at hex
  rw [if_pos (length_dropWhile_eq_zero.mpr hnone)] at hex
  have cx := State.canon_setPort c n
      { s.port n with replay := (s.port n).unacked seq, replayRun := (s.port n).runKept seq }
  have hpx := State.port_setPort c n
      { s.port n with replay := (s.port n).unacked seq, replayRun := (s.port n).runKept seq }
  have hone : ((s.setPort n { s.port n with
      replay := (s.port n).unacked seq, replayRun := (s.port n).runKept seq }).port n).txOne = none := by
    refine Port.txOne_of_empty fun v _ => ?_
    rw [hpx, hwait]
    rfl
  refine ⟨_, hex, ?_, (Sends.txPump cx hn).moves.mem⟩
  rw [State.port_txPump_of_none cx hone, hpx]

theorem flitNak_replays (hsome : ∃ e ∈ (s.port n).unacked seq, e.1 = seq) :
    let x := s.port n
    let recent := x.retrains.filter fun t => decide (s.dev.time < t + 1000000000)
    (x.runOf seq < 8 → x.txWait = [] → ∃ t, exec (.flitNak n seq) s = .next t ∧ t.mem = s.mem ∧
      t.port n = { x with replay := x.unacked seq, replayRun := (seq, x.runOf seq) }) ∧
    (8 ≤ x.runOf seq → recent.length < 2 → ∃ t, exec (.flitNak n seq) s = .next t ∧ t.mem = s.mem ∧
      (t.port n).st = .retraining ∧ (t.port n).replay = x.unacked seq ∧ bit (t.pg .port n 0x14) 4 = true) ∧
    (8 ≤ x.runOf seq → 2 ≤ recent.length → ∃ t, exec (.flitNak n seq) s = .next t ∧ (t.port n).st = .down ∧
      (t.port n).reason = 2) := by
  have hlive := State.flitLive_of_up hup
  obtain ⟨c, hn, -, hst, -⟩ := hup
  have hex : exec (.flitNak n seq) s = .next ((s.nak n seq).txPump n) := if_pos hlive
  have hk : ¬ ((s.port n).unacked seq |>.dropWhile fun e => decide (e.1 ≠ seq)).length = 0 := by
    rw [length_dropWhile_eq_zero]
    obtain ⟨e, he, hs⟩ := hsome
    exact fun h => h e he hs
  rw [State.nak_eq, Port.acked_eq] at hex
  dsimp only at hex ⊢
  rw [if_neg hk] at hex
  generalize hz : (s.setPort n { s.port n with
    replay := (s.port n).unacked seq, replayRun := (s.port n).runKept seq }).count64 .port n 0x68 _ = z at hex
  have cz : z.Canon := by
    rw [← hz]
    exact State.canon_setPg (State.canon_setPg (State.canon_setPort c ..) ..) ..
  have hmz : Moves [.bus, .fabric] s z := by
    rw [← hz]
    exact (Moves.setFabric s _).mono.andThen (Moves.ofBusOnly .count64)
  have hnow : z.now = s.dev.time := congrArg Dev.time hmz.dev
  have hrunOf : (if ((s.port n).runKept seq).1 = seq then ((s.port n).runKept seq).2 + 1 else 1) =
      (s.port n).runOf seq := rfl
  rw [hnow, hrunOf] at hex
  refine ⟨fun hrun hwait => ?_, fun hrun hrec => ?_, fun hrun hrec => ?_⟩
  · rw [if_pos (.inl hrun)] at hex
    have cy := State.canon_setPort cz n { s.port n with
      replay := (s.port n).unacked seq, replayRun := (seq, (s.port n).runOf seq) }
    have hpy := State.port_setPort cz n { s.port n with
      replay := (s.port n).unacked seq, replayRun := (seq, (s.port n).runOf seq) }
    have hone : ((z.setPort n { s.port n with
        replay := (s.port n).unacked seq, replayRun := (seq, (s.port n).runOf seq) }).port n).txOne = none := by
      refine Port.txOne_of_empty fun v _ => ?_
      rw [hpy, hwait]
      rfl
    refine ⟨_, hex, (Sends.txPump cy hn).moves.mem.trans hmz.mem, ?_⟩
    exact (State.port_txPump_of_none cy hone).trans hpy
  all_goals
    have hst' : ¬ ((s.port n).runOf seq < 8 ∨ (s.port n).st = .training) := by
      rw [hst]
      simp
      omega
    rw [if_neg hst'] at hex
    generalize hrs : s.dev.time :: (s.port n).retrains.filter _ = rs at hex
    have hlen : rs.length = ((s.port n).retrains.filter fun t => decide (s.dev.time < t + 1000000000)).length + 1 := by
      rw [← hrs, List.length_cons]
    have cy := State.canon_setPort cz n { s.port n with
      replay := (s.port n).unacked seq, st := .retraining, looped := 15, replayRun := (0, 0), retrains := rs,
        discard := false }
    have hpy := State.port_setPort cz n { s.port n with
      replay := (s.port n).unacked seq, st := .retraining, looped := 15, replayRun := (0, 0), retrains := rs,
        discard := false }
    have hmy : Moves [.fabric] z (z.setPort n { s.port n with
      replay := (s.port n).unacked seq, st := .retraining, looped := 15, replayRun := (0, 0), retrains := rs,
      discard := false }) := .setFabric z _
    generalize z.setPort n { s.port n with
      replay := (s.port n).unacked seq, st := .retraining, looped := 15, replayRun := (0, 0), retrains := rs,
      discard := false } = y at hex cy hpy hmy
    have ce : (y.evSet .port n 4).Canon := (Keeps.evSet .refl).canon cy
    have hme : Moves [.bus] y (y.evSet .port n 4) := .evSet y (by decide)
    have hbit : bit ((y.evSet .port n 4).pg .port n 0x14) 4 = true := State.bit_evSet_self cy (by decide) (by decide)
    have hpe := (hme.port (by decide) n).trans hpy
  · rw [if_neg (by omega)] at hex
    have hone : ((y.evSet .port n 4).txPump n).port n = (y.evSet .port n 4).port n := by
      rw [State.port_txPump ce, if_neg]
      rintro ⟨-, h⟩
      rw [hpe] at h
      simp at h
    have hs := Sends.txPump ce hn
    refine ⟨_, hex, ((hs.moves.mem.trans hme.mem).trans hmy.mem).trans hmz.mem, ?_, ?_, ?_⟩
    · rw [hone, hpe]
    · rw [hone, hpe]
    · rw [hs.page .port n 0x14 (by decide) (by omega)]
      exact hbit
  · rw [if_pos (by omega)] at hex
    have hgo := State.portDown_goes ce hn (by rw [hpe]; exact LState.noConfusion) 2
    have hs := Sends.txPump hgo.canon hn
    have hdown : (((y.evSet .port n 4).portDown n 2).port n).st = .down := by
      rw [hgo.port]
      rfl
    refine ⟨_, hex, ?_, ?_⟩
    · rw [hs.down n hdown, hdown]
    · rw [hs.down n hdown, hgo.port]
      rfl
end

/-! ## Flits that fail -/

theorem flitReceiveFail_counts (hup : Stated.NativeUp s n) (bad : Bool) :
    ∃ t, exec (.flitReceiveFail n bad) s = .next t ∧ t.mem = s.mem ∧
      t.port n = { s.port n with discard := true, ctl := (s.port n).ctl ++ [.nak (s.port n).rxSeq] } ∧
      t.pg .port n 0x60 + 2 ^ 32 * t.pg .port n 0x64 =
        min (s.pg .port n 0x60 + 2 ^ 32 * s.pg .port n 0x64 + 1) (2 ^ 64 - 1) ∧
      (bad = true → bit (t.pg .port n 0x14) 5 = true) := by
  have hlive := State.flitLive_of_up hup
  obtain ⟨c, -, -, -, -⟩ := hup
  have cx := State.canon_setPort c n { s.port n with discard := true, ctl := (s.port n).ctl ++ [.nak (s.port n).rxSeq] }
  have hpx := State.port_setPort c n { s.port n with discard := true, ctl := (s.port n).ctl ++ [.nak (s.port n).rxSeq] }
  have hpgx (off : Nat) : (s.setPort n { s.port n with
    discard := true, ctl := (s.port n).ctl ++ [.nak (s.port n).rxSeq] }).pg .port n off = s.pg .port n off := rfl
  have hmx : (s.setPort n { s.port n with
    discard := true, ctl := (s.port n).ctl ++ [.nak (s.port n).rxSeq] }).mem = s.mem := rfl
  have hex : exec (.flitReceiveFail n bad) s =
      .next (if bad then ((s.setPort n { s.port n with
        discard := true, ctl := (s.port n).ctl ++ [.nak (s.port n).rxSeq] }).count64 .port n 0x60 1).evSet .port n 5
      else (s.setPort n { s.port n with
        discard := true, ctl := (s.port n).ctl ++ [.nak (s.port n).rxSeq] }).count64 .port n 0x60 1) := if_pos hlive
  generalize s.setPort n { s.port n with discard := true, ctl := (s.port n).ctl ++ [.nak (s.port n).rxSeq] } = y at *
  have cz : (y.count64 .port n 0x60 1).Canon := State.canon_setPg (State.canon_setPg cx ..) ..
  have hcount := State.pg_count64 cx .port n 0x60 1
  rw [hpgx, hpgx] at hcount
  refine ⟨_, hex, ?_⟩
  cases bad with
  | false => exact ⟨hmx, hpx, hcount, nofun⟩
  | true =>
    have hm : Moves [.bus] (y.count64 .port n 0x60 1) ((y.count64 .port n 0x60 1).evSet .port n 5) := .evSet _
        (by decide)
    have hkeep (off : Nat) (ho : 0x40 ≤ off ∧ off < 0x1000) :
        ((y.count64 .port n 0x60 1).evSet .port n 5).pg .port n off = (y.count64 .port n 0x60 1).pg .port n off :=
      State.pg_evSet_block cz (by decide) ho
    refine ⟨hm.mem.trans hmx, (hm.port (by decide) n).trans hpx, ?_,
      fun _ => State.bit_evSet_self cz (by decide) (by decide)⟩
    rw [if_pos rfl, hkeep _ (by decide), hkeep _ (by decide)]
    exact hcount

/-- Flits are taken, discarded, replayed and counted. -/
theorem flitsAreTaken : Stated.FlitsAreTaken := by
  intro s n f hup x h vc len got whole taken unacked
  have haccepts : taken ↔ bits h 3 0 = 1 ∧ x.accepts h = true := by
    rw [Port.accepts_iff]
  refine ⟨fun hw ht he => ?_, fun hw hor => ?_, fun hw ht he hbad => ?_, fun hw h0 hwait hcr => ?_, fun hw => ?_,
    fun seq => ?_, fun bad => flitReceiveFail_counts hup bad⟩
  · obtain ⟨h1, ha⟩ := haccepts.mp ht
    obtain ⟨t, hex, hmem, hseq, hd, hrx, hgiven⟩ := (flitAccepted_data hup hw h1 ha).1 he
    refine ⟨t, hex, hmem, hseq, hd, fun hr => ?_, fun hg => ?_⟩
    · rw [hrx]
      exact tget_tput_same _ _ _ hr
    · rw [hgiven]
      exact tget_tput_same _ _ _ hg
  · refine execFlitAccepted_discards fun ⟨_, h3, ha⟩ => ?_
    obtain ⟨h1, hno⟩ | h4 := hor
    · exact hno (haccepts.mpr ⟨h1, ha h1⟩)
    · exact absurd h3 (Nat.not_le.mpr h4)
  · obtain ⟨h1, ha⟩ := haccepts.mp ht
    exact (flitAccepted_data hup hw h1 ha).2 he hbad
  · obtain ⟨t, hex, hmem, hp⟩ := flitAccepted_idle hup hw h0 hwait
    refine ⟨t, hex, hmem, ?_, ?_, fun v hv => ?_⟩
    · rw [hp, Port.flitHead_eq]
      rfl
    · rw [hp, Port.flitHead_eq]
    · rw [hp, Port.flitHead_eq]
      dsimp only
      by_cases hc : bits h 27 26 = v
      · rw [if_pos hc, if_pos (by rw [hc]; exact hv)]
        exact hc ▸ tget_tput_same _ _ _ hcr
      · rw [if_neg hc]
        split
        · exact tget_tput_ne _ _ hcr (Ne.symm hc)
        · rfl
  · exact execFlitAccepted_discards fun hc => hw hc.1
  · exact ⟨fun hnone hwait => flitNak_acknowledges hup hnone hwait, fun hsome => flitNak_replays hup hsome⟩

end Sys2Proof.Machine
end

section
/-! SUPPORT. Ethernet carriage (R359 to R361, R363): frames, segments,
  messages without their ACK; and the statement about
flits and frames. -/
set_option Elab.async false

namespace Sys2Proof.Machine

variable {s t : State} {n : Nat} {f b m : List Byte}

/-! ## The frames that are the device's -/

theorem leNat_lt (l : List Byte) : leNat l < 256 ^ l.length := by
  induction l with
  | nil => exact Nat.one_pos
  | cons a l ih =>
    have ha := a.isLt
    rw [leNat, List.length_cons, Nat.pow_succ]
    omega

/-- Lists of one length spell different numbers. -/
theorem leNat_inj {x y : List Byte} (hlen : x.length = y.length) : leNat x = leNat y ↔ x = y := by
  refine ⟨fun h => ?_, congrArg leNat⟩
  induction x generalizing y with
  | nil => exact (List.length_eq_zero_iff.mp hlen.symm).symm
  | cons a x ih =>
    obtain _ | ⟨b, y⟩ := y
    · cases hlen
    · have ha := a.isLt
      have hb := b.isLt
      rw [leNat, leNat] at h
      have hab : a = b := BitVec.eq_of_toNat_eq (by omega)
      rw [hab, ih (Nat.succ.inj hlen) (by omega)]

theorem beNat_two (l : List Byte) (o : Nat) : beNat (slice l o 2) = fld l (o + 1) 1 + 256 * fld l o 1 := by
  simp [beNat, fld, slice_eq_map, leNat, List.range_succ]

/-- An identity byte of the West OTP as sensed. -/
def State.idByte (s : State) (i : Nat) : Byte := ((tget 0 s.west.otp.sensed (i / 4)) >>> (8 * (i % 4))).truncate 8

/-- The frames of the device's address, protocol and port. -/
theorem ethForUs_iff (s : State) (n : Nat) (f : List Byte) : s.ethForUs n f = true ↔
    62 ≤ f.length ∧ (slice f 0 6 = (List.range 6).map fun i => s.idByte (15 - i)) ∧ slice f 12 2 = [0x86, 0xDD] ∧
      fld f 20 1 = 17 ∧ fld f 57 1 + 256 * fld f 56 1 = bits (s.pg .port n 0xA8) 15 0 := by
  have hmac : beNat (slice f 0 6) = leNat (s.idBytes 10 6) ↔
      slice f 0 6 = (List.range 6).map fun i => s.idByte (15 - i) := by
    have hrev : s.idBytes 10 6 = ((List.range 6).map fun i => s.idByte (15 - i)).reverse := rfl
    rw [hrev, beNat, leNat_inj (by simp), List.reverse_inj]
  have htype : beNat (slice f 12 2) = 0x86DD ↔ slice f 12 2 = [0x86, 0xDD] := by
    rw [show (0x86DD : Nat) = leNat ([0x86, 0xDD] : List Byte).reverse from rfl, beNat, leNat_inj (by simp),
      List.reverse_inj]
  simp only [State.ethForUs, Bool.and_eq_true, decide_eq_true_eq, beq_iff_eq, and_assoc]
  rw [hmac, htype, beNat_two]

/-! ## Segments -/

/-- The fields of a segment that a port keeps. -/
def segOf (b : List Byte) : EthSeg := ⟨fld b 4 2, fld b 1 1, fld b 20 4, fld b 24 4, b⟩

theorem slice_zero_length (b : List Byte) : slice b 0 b.length = b := by
  unfold slice
  simp

/-- Bytes of a list laid where they stand. -/
theorem lay_self {o : Nat} (h : o ≤ b.length) : lay b o (b.drop o) = b := by
  rw [lay_of_le (by rw [List.length_drop]; omega), List.length_drop, List.take_append_drop]
  simp
  omega

/-- A message of one segment. -/
theorem ethJoin_single (hlen : b.length = 32 + fld b 12 4) (hoff : fld b 24 4 = 0) : ethJoin [segOf b] = b := by
  have hbeq : (segOf b).offset = 0 := hoff
  unfold ethJoin
  rw [List.find?_cons_of_pos (by rw [hbeq]; rfl)]
  change lay (slice b 0 (32 + fld b 12 4)) (32 + fld b 24 4) (b.drop 32) = b
  rw [hoff, ← hlen, slice_zero_length]
  exact lay_self (by omega)

theorem ethWhole_single (h32 : 32 ≤ b.length) (hoff : fld b 24 4 = 0) :
    ethWhole [segOf b] = decide (32 + fld b 12 4 ≤ b.length) := by
  have hbeq : ((segOf b).offset == 0) = true := by
    rw [show (segOf b).offset = 0 from hoff]
    rfl
  have hs : fld ([segOf b].headD ⟨0, 0, 0, 0, []⟩).body 12 4 = fld b 12 4 := rfl
  have hl : ([segOf b].map fun e => e.body.length - 32).foldl (· + ·) 0 = b.length - 32 := Nat.zero_add _
  unfold ethWhole
  rw [hs, hl, List.any_cons, hbeq, Bool.true_or, Bool.true_and]
  refine decide_eq_decide.mpr ?_
  omega

/-- A segment that comes alone: the next message of its sender, of which no segment is kept. -/
structure Alone (x : Port) (b : List Byte) : Prop where
  whole : 32 ≤ b.length
  next : fld b 20 4 = tget 0 x.ethTag (ethKey b)
  first : fld b 24 4 = 0
  none : ∀ e ∈ x.segs, ethKey e.body ≠ ethKey b ∨ e.tag ≠ fld b 20 4

theorem Alone.ethSegs {x : Port} (h : Alone x b) : x.ethSegs (ethKey b) (fld b 20 4) = [] := by
  unfold Port.ethSegs
  rw [List.filter_eq_nil_iff]
  intro e he
  obtain hk | ht := h.none e he
  · simp [hk]
  · simp [ht]

/-- It is kept until its message is whole, and then acknowledged and delivered, or dropped. -/
theorem State.ethSegment_alone (h : Alone (s.port n) b) :
    s.ethSegment n b =
      (let t := s.setPort n { s.port n with segs := (s.port n).segs ++ [segOf b] }
      if ethWhole [segOf b] then
        if fabCrcOk (ethJoin [segOf b]) then
          State.ethDeliver ((s.port n).segs.length + 1) (t.ethAck (dieOfPort n) b) n (ethKey b)
        else (t.modPort n fun x => { x with
          segs := x.segs.filter fun e => !(ethKey e.body == ethKey b && e.tag == fld b 20 4) }).msgDrop n
      else t) := by
  unfold State.ethSegment
  dsimp only
  rw [h.ethSegs, if_neg, if_neg (by simp)]
  · rfl
  · rintro (hlate | hw)
    · rw [← h.next] at hlate
      omega
    · cases hw

/-- An Ethernet port that is up, of which the half is not gone. -/
def Stated.EthUp (s : State) (n : Nat) : Prop :=
  s.live (dieOfPort n) = true ∧ (s.port n).st = .up ∧ bits (s.pg .port n 0x40) 1 0 ≠ 0 ∧ 0 ∉ (s.port n).halfGone

theorem execEthFrame_up (h : Stated.EthUp s n) :
    exec (.ethFrame n 0 f) s =
      if s.ethForUs n f then
        (let b := slice (f.drop 62) 0 (beNat (slice f 58 2) - 8)
        let t := s.count64 .port n 0x78 b.length
        if b.length < 32 then .next (t.msgDrop n)
        else if fld b 2 2 = 3 then .next (t.fabReceive n b)
        else match t.ethOnward n b with
          | some (k, _) => .next (t.ethPut k (.raw (ethPass b)) b.length)
          | none => .next (t.ethSegment n b))
      else .next (s.count32 .port n 0xC4 1) := by
  obtain ⟨hlive, hst, hmode, hhalf⟩ := h
  exact if_pos ⟨isEth_of_mode hmode, hst, hlive, .inl rfl, by simpa using hhalf⟩

/-- A segment for this device. -/
theorem State.ethOnward_mine (h : fld b 6 2 = s.fabric.devId) : s.ethOnward n b = none := by
  unfold State.ethOnward
  rw [if_pos (.inl h)]

/-- A segment that goes on by Ethernet. -/
theorem State.ethOnward_other {k half : Nat} (hid : fld b 6 2 ≠ s.fabric.devId) (httl : 2 ≤ fld b 10 1)
    (hroute : s.routeOf (dieOfPort n) (fld b 6 2) = some (k, half)) (hk : bits (s.pg .port k 0x40) 1 0 ≠ 0) :
    s.ethOnward n b = some (k, half) := by
  have hno : ¬ (fld b 6 2 = s.devId ∨ fld b 10 1 ≤ 1) := by
    rintro (h | h)
    · exact hid h
    · omega
  unfold State.ethOnward
  rw [if_neg hno, hroute]
  exact if_pos (isEth_of_mode hk)

theorem State.routeOf_count64 (c : s.Canon) (d dst p b : Nat) :
    (s.count64 .port p 0x78 b).routeOf d dst = s.routeOf d dst := by
  have hfab : (s.count64 .port p 0x78 b).fabric = s.fabric := rfl
  have hcfg (q : Nat) : (s.count64 .port p 0x78 b).isHalves q = s.isHalves q := by
    unfold State.isHalves
    rw [State.pg_count64_ne c b (.inr (by decide)) (by decide) (by decide)]
  unfold State.routeOf
  dsimp only
  simp only [hfab, hcfg, State.port_count64]

theorem Sends.ethAck (cs : s.Canon) (d : Nat) (m : List Byte) : Sends s (s.ethAck d m) := by
  unfold State.ethAck
  dsimp only
  split
  · obtain ⟨-, hk, hst, -⟩ := State.routeOf_some ‹_›
    exact .portSend cs hk hst ..
  · exact .refl cs

theorem filter_kept (ha : Alone (s.port n) b) :
    ((s.port n).segs ++ [segOf b]).filter (fun e => !(ethKey e.body == ethKey b && e.tag == fld b 20 4)) =
      (s.port n).segs := by
  have hown : (!(ethKey (segOf b).body == ethKey b && (segOf b).tag == fld b 20 4)) = false := by
    rw [Bool.not_eq_false', Bool.and_eq_true, beq_iff_eq, beq_iff_eq]
    exact ⟨rfl, rfl⟩
  rw [List.filter_append, List.filter_cons_of_neg (by rw [hown]; decide), List.filter_nil, List.append_nil,
    List.filter_eq_self]
  intro e he
  obtain hk | ht := ha.none e he
  · simp [hk]
  · simp [ht]

section
variable (hup : Stated.EthUp s n) (c : s.Canon) (hf : s.ethForUs n f = true)
  (hb : b = slice (f.drop 62) 0 (beNat (slice f 58 2) - 8)) (h32 : 32 ≤ b.length) (hop : fld b 2 2 ≠ 3)
include hup c hf hb h32 hop

omit c in
/-- A segment for this device is taken. -/
theorem ethFrame_segment (hid : fld b 6 2 = s.fabric.devId) :
    exec (.ethFrame n 0 f) s = .next ((s.count64 .port n 0x78 b.length).ethSegment n b) := by
  rw [execEthFrame_up hup, if_pos hf, ← hb]
  dsimp only
  rw [if_neg (by omega), if_neg hop, State.ethOnward_mine (s := s.count64 .port n 0x78 b.length) hid]

/-- One for another device goes on. -/
theorem ethFrame_onward {k half : Nat} (hid : fld b 6 2 ≠ s.fabric.devId) (httl : 2 ≤ fld b 10 1)
    (hroute : s.routeOf (dieOfPort n) (fld b 6 2) = some (k, half)) (hk : bits (s.pg .port k 0x40) 1 0 ≠ 0)
    (hd : s.drives (dieOfPort k) = true) :
    ∃ t w, exec (.ethFrame n 0 f) s = .next t ∧ t.mem = s.mem ∧
      (t.port k).tx = (s.port k).tx ++ [.raw w] ∧ fld w 10 1 = fld b 10 1 - 1 ∧ w.length = b.length ∧
      w.drop 32 = b.drop 32 ∧ (t.port n).segs = (s.port n).segs := by
  have cc : (s.count64 .port n 0x78 b.length).Canon := State.canon_setPg (State.canon_setPg c ..) ..
  have hon : (s.count64 .port n 0x78 b.length).ethOnward n b = some (k, half) := by
    refine State.ethOnward_other hid httl ((State.routeOf_count64 c _ _ n _).trans hroute) ?_
    rwa [State.pg_count64_ne c _ (.inr (by decide)) (by decide) (by decide)]
  obtain ⟨-, hk16, hst, -⟩ := State.routeOf_some hroute
  have hs := Sends.ethPut cc hk16 hst (.raw (ethPass b)) b.length
  have hput : (s.count64 .port n 0x78 b.length).ethPut k (.raw (ethPass b)) b.length =
      ((s.count64 .port n 0x78 b.length).setPort k { s.port k with tx := (s.port k).tx ++ [.raw (ethPass b)] }).count64
        .port k 0x70 b.length := if_pos hd
  have hex : exec (.ethFrame n 0 f) s =
      .next ((s.count64 .port n 0x78 b.length).ethPut k (.raw (ethPass b)) b.length) := by
    rw [execEthFrame_up hup, if_pos hf, ← hb]
    dsimp only
    rw [if_neg (by omega), if_neg hop, hon]
  refine ⟨_, ethPass b, hex, hs.moves.mem, ?_, ?_, ?_, ?_, (congrArg Port.segs (hs.shape n) :)⟩
  · rw [hput, State.port_count64, State.port_setPort cc]
  · unfold ethPass
    dsimp only
    have hlt : fld b 10 1 < 256 := by
      have := leNat_lt (slice b 10 1)
      rw [length_slice] at this
      exact this
    rw [fld_lay_ne (.inl (by decide)), fld_lay_leBytes]
    exact Nat.mod_eq_of_lt (by omega)
  · unfold ethPass
    dsimp only
    simp only [length_lay, length_leBytes]
    omega
  · unfold ethPass
    dsimp only
    rw [drop_lay (by rw [length_leBytes]), drop_lay (by rw [length_leBytes]; decide)]

/-- A segment of a longer message is kept. -/
theorem ethFrame_keeps (hid : fld b 6 2 = s.fabric.devId) (ha : Alone (s.port n) b)
    (hlen : b.length < 32 + fld b 12 4) :
    ∃ t, exec (.ethFrame n 0 f) s = .next t ∧ t.mem = s.mem ∧
      (t.port n).segs = (s.port n).segs ++ [segOf b] ∧ (t.port n).ethTag = (s.port n).ethTag := by
  have cc : (s.count64 .port n 0x78 b.length).Canon := State.canon_setPg (State.canon_setPg c ..) ..
  have hex := ethFrame_segment hup hf hb h32 hop hid
  rw [State.ethSegment_alone (s := s.count64 .port n 0x78 b.length) ha, ethWhole_single h32 ha.first,
    decide_eq_false (by omega)] at hex
  dsimp only at hex
  rw [if_neg (by decide), State.port_count64] at hex
  have hpx := State.port_setPort cc n { s.port n with segs := (s.port n).segs ++ [segOf b] }
  exact ⟨_, hex, rfl, (congrArg Port.segs hpx :), (congrArg Port.ethTag hpx :)⟩

/-- A whole message whose CRC fails is dropped. -/
theorem ethFrame_drops (hid : fld b 6 2 = s.fabric.devId) (ha : Alone (s.port n) b) (hlen : b.length = 32 + fld b 12 4)
    (hbad : crc32 (lay b 28 [0, 0, 0, 0]) ≠ fld b 28 4) :
    ∃ t, exec (.ethFrame n 0 f) s = .next t ∧ t.mem = s.mem ∧ (t.port n).segs = (s.port n).segs ∧
      (t.port n).ethTag = (s.port n).ethTag ∧ (t.port n).tx = (s.port n).tx ∧
      t.pg .port n 0xA4 = min (s.pg .port n 0xA4 + 1) 0xFFFFFFFF := by
  have cc : (s.count64 .port n 0x78 b.length).Canon := State.canon_setPg (State.canon_setPg c ..) ..
  have hex := ethFrame_segment hup hf hb h32 hop hid
  have hcrc : fabCrcOk b = false := beq_eq_false_iff_ne.mpr hbad
  rw [State.ethSegment_alone (s := s.count64 .port n 0x78 b.length) ha, ethWhole_single h32 ha.first,
    decide_eq_true (by omega), ethJoin_single hlen ha.first, hcrc] at hex
  dsimp only at hex
  rw [if_pos rfl, if_neg (by decide), State.port_count64] at hex
  have cx := State.canon_setPort cc n { s.port n with segs := (s.port n).segs ++ [segOf b] }
  have hpx := State.port_setPort cc n { s.port n with segs := (s.port n).segs ++ [segOf b] }
  have hpg : ((s.count64 .port n 0x78 b.length).setPort n { s.port n with
      segs := (s.port n).segs ++ [segOf b] }).pg .port n 0xA4 = s.pg .port n 0xA4 :=
    State.pg_count64_ne c _ (.inr (by decide)) (by decide) (by decide)
  have hmx : ((s.count64 .port n 0x78 b.length).setPort n { s.port n with
      segs := (s.port n).segs ++ [segOf b] }).mem = s.mem := rfl
  generalize (s.count64 .port n 0x78 b.length).setPort n { s.port n with segs := (s.port n).segs ++ [segOf b] } = x at *
  have hkept := filter_kept ha
  have cy := State.canon_setPort cx n { x.port n with
    segs := (x.port n).segs.filter fun e => !(ethKey e.body == ethKey b && e.tag == fld b 20 4) }
  have hpy := State.port_setPort cx n { x.port n with
    segs := (x.port n).segs.filter fun e => !(ethKey e.body == ethKey b && e.tag == fld b 20 4) }
  have hport (y : State) : (y.msgDrop n).port n = y.port n := rfl
  refine ⟨_, hex, hmx, ?_, ?_, ?_, ?_⟩
  · rw [hport]
    refine (congrArg Port.segs hpy).trans ?_
    rw [hpx]
    exact hkept
  · rw [hport]
    refine (congrArg Port.ethTag hpy).trans ?_
    rw [hpx]
  · rw [hport]
    refine (congrArg Port.tx hpy).trans ?_
    rw [hpx]
  · refine (State.pg_count32 cy 1).trans ?_
    rw [← hpg]
    rfl

/-- A whole PROBE_ACK that is next is acknowledged and delivered. -/
theorem ethFrame_delivers (hid : fld b 6 2 = s.fabric.devId) (ha : Alone (s.port n) b)
    (hlen : b.length = 32 + fld b 12 4)
    (hgood : crc32 (lay b 28 [0, 0, 0, 0]) = fld b 28 4) (hnone : (s.port n).segs = []) (hack : fld b 2 2 = 0x11) :
    ∃ t, exec (.ethFrame n 0 f) s = .next t ∧ t.mem = s.mem ∧ (t.port n).segs = [] ∧
      (t.port n).ethTag = tput 0 (s.port n).ethTag (ethKey b) ((tget 0 (s.port n).ethTag (ethKey b) + 1) % 2 ^ 32) := by
  have cc : (s.count64 .port n 0x78 b.length).Canon := State.canon_setPg (State.canon_setPg c ..) ..
  have hex := ethFrame_segment hup hf hb h32 hop hid
  have hcrc : fabCrcOk b = true := beq_iff_eq.mpr hgood
  rw [State.ethSegment_alone (s := s.count64 .port n 0x78 b.length) ha, ethWhole_single h32 ha.first,
    decide_eq_true (by omega), ethJoin_single hlen ha.first, hcrc] at hex
  dsimp only at hex
  rw [if_pos rfl, if_pos rfl, State.port_count64, hnone] at hex
  have cx := State.canon_setPort cc n { s.port n with segs := [] ++ [segOf b] }
  have hpx := State.port_setPort cc n { s.port n with segs := [] ++ [segOf b] }
  have hmx : Moves [.bus, .fabric] s
      ((s.count64 .port n 0x78 b.length).setPort n { s.port n with segs := [] ++ [segOf b] }) :=
    (Moves.ofBusOnly .count64).mono.andThen (Moves.setFabric _ _)
  have hidx : ((s.count64 .port n 0x78 b.length).setPort n { s.port n with segs := [] ++ [segOf b] }).fabric.devId =
    s.fabric.devId := rfl
  generalize (s.count64 .port n 0x78 b.length).setPort n { s.port n with segs := [] ++ [segOf b] } = x at *
  have hs := Sends.ethAck cx (dieOfPort n) b
  have hsh := (hs.shape n).trans (congrArg Port.shape hpx)
  have hidy : (x.ethAck (dieOfPort n) b).fabric.devId = s.fabric.devId := (congrArg Fabric.devId hs.fabric :).trans hidx
  have hmy := hmx.andThen hs.moves
  have cy := hs.canon
  generalize x.ethAck (dieOfPort n) b = y at *
  have hsegs : (y.port n).segs = [segOf b] := (congrArg Port.segs hsh :)
  have htag : (y.port n).ethTag = (s.port n).ethTag := (congrArg Port.ethTag hsh :)
  have hmine : (ethKey (segOf b).body == ethKey b && (segOf b).tag == fld b 20 4) = true := by
    rw [Bool.and_eq_true, beq_iff_eq, beq_iff_eq]
    exact ⟨rfl, rfl⟩
  have hseg : (y.port n).ethSegs (ethKey b) (fld b 20 4) = [segOf b] := by
    unfold Port.ethSegs
    rw [hsegs]
    exact List.filter_cons_of_pos hmine
  have hrest : (y.port n).segs.filter (fun e => !(ethKey e.body == ethKey b && e.tag == fld b 20 4)) = [] := by
    rw [hsegs, List.filter_cons_of_neg (by rw [hmine]; decide), List.filter_nil]
  have hrec (z : State) (hz : z.fabric.devId = s.fabric.devId) : z.fabReceive n b = z.hear (fld b 4 2) := by
    have hid' : fld b 6 2 = z.devId := hid.trans hz.symm
    unfold State.fabReceive State.fabTake
    dsimp only
    rw [hcrc, hack, if_neg (by simp [fabKnown]; omega), if_pos (.inr (.inr hid'))]
    rfl
  have hnext : y.ethNext n (ethKey b) = some ((y.setPort n { y.port n with
      segs := [], ethTag := tput 0 (s.port n).ethTag (ethKey b)
        ((tget 0 (s.port n).ethTag (ethKey b) + 1) % 2 ^ 32) }).hear (fld b 4 2)) := by
    unfold State.ethNext
    dsimp only
    rw [htag, ← ha.next, hseg, hrest, ethWhole_single h32 ha.first, decide_eq_true (by omega), if_pos rfl,
      ethJoin_single hlen ha.first]
    exact congrArg some (hrec _ hidy)
  have hdone : State.ethDeliver (([] : List EthSeg).length + 1) y n (ethKey b) =
      (y.setPort n { y.port n with
        segs := [], ethTag := tput 0 (s.port n).ethTag (ethKey b)
          ((tget 0 (s.port n).ethTag (ethKey b) + 1) % 2 ^ 32) }).hear (fld b 4 2) := by
    rw [State.ethDeliver, List.length_nil, repeatStep, hnext]
    rfl
  rw [hdone] at hex
  have hpz := State.port_setPort cy n { y.port n with
    segs := [], ethTag := tput 0 (s.port n).ethTag (ethKey b) ((tget 0 (s.port n).ethTag (ethKey b) + 1) % 2 ^ 32) }
  exact ⟨_, hex, hmy.mem, congrArg Port.segs hpz, congrArg Port.ethTag hpz⟩

end

/-! ## Messages without their ACK -/

theorem execEthResendTimeout_up (h : Stated.EthUp s n) (tag : EthKey) :
    exec (.ethResendTimeout n tag) s =
      match (s.port n).ethOut.find? fun e => e.msg.key == tag with
      | some e =>
        if e.resent < 8 then
          let t := s.setPort n { s.port n with
            ethOut := updFirst (fun e => e.msg.key == tag) (fun e => { e with resent := e.resent + 1 })
              (s.port n).ethOut }
          .next (t.ethPut n e.msg (t.ethBytes n e.msg))
        else
          let t := s.setPort n { s.port n with ethOut := (s.port n).ethOut.erase e }
          let t := t.evErr .port n 8 8 0xF e.msg.dst 0
          .next (if e.msg.src = t.devId then t.lostRoute e.msg.part e.msg.dst else t.noRouteTo (dieOfPort n) e.msg)
      | none => .next s := by
  obtain ⟨hlive, hst, hmode, -⟩ := h
  exact if_pos ⟨isEth_of_mode hmode, hst, hlive⟩

theorem ethResend_again (hup : Stated.EthUp s n) (c : s.Canon) {tag : EthKey} {e : EthOut}
    (hfind : (s.port n).ethOut.find? (fun e => e.msg.key == tag) = some e) (hr : e.resent < 8)
    (hd : s.drives (dieOfPort n) = true) :
    ∃ t, exec (.ethResendTimeout n tag) s = .next t ∧ t.mem = s.mem ∧ (t.port n).tx = (s.port n).tx ++ [e.msg] ∧
      (t.port n).ethOut.find? (fun e => e.msg.key == tag) = some { e with resent := e.resent + 1 } := by
  have hex := execEthResendTimeout_up hup tag
  rw [hfind] at hex
  dsimp only at hex
  rw [if_pos hr] at hex
  have cx := State.canon_setPort c n { s.port n with
    ethOut := updFirst (fun e => e.msg.key == tag) (fun e => { e with resent := e.resent + 1 }) (s.port n).ethOut }
  have hpx := State.port_setPort c n { s.port n with
    ethOut := updFirst (fun e => e.msg.key == tag) (fun e => { e with resent := e.resent + 1 }) (s.port n).ethOut }
  have hmx : (s.setPort n { s.port n with
    ethOut := updFirst (fun e => e.msg.key == tag) (fun e => { e with resent := e.resent + 1 })
      (s.port n).ethOut }).mem =
      s.mem := rfl
  have hdx : (s.setPort n { s.port n with
    ethOut := updFirst (fun e => e.msg.key == tag) (fun e => { e with resent := e.resent + 1 })
      (s.port n).ethOut }).drives
      (dieOfPort n) = true := hd
  have hupd := find?_updFirst (g := fun e : EthOut => e.msg.key == tag)
      (u := fun e => { e with resent := e.resent + 1 })
    (fun _ => rfl) (s.port n).ethOut
  generalize s.setPort n { s.port n with
    ethOut := updFirst (fun e => e.msg.key == tag) (fun e => { e with resent := e.resent + 1 }) (s.port n).ethOut } =
      x at *
  have hput (b : Nat) : x.ethPut n e.msg b = (x.setPort n { x.port n with tx := (x.port n).tx ++ [e.msg] }).count64
      .port n 0x70 b := if_pos hdx
  rw [hput] at hex
  have hpy := State.port_setPort cx n { x.port n with tx := (x.port n).tx ++ [e.msg] }
  refine ⟨_, hex, hmx, ?_, ?_⟩
  · rw [State.port_count64, hpy, hpx]
  · rw [State.port_count64, hpy]
    change (x.port n).ethOut.find? _ = _
    rw [hpx]
    change (updFirst _ _ _).find? _ = _
    rw [hupd, hfind]
    rfl

theorem ethResend_exhausted (hup : Stated.EthUp s n) (c : s.Canon) {tag : EthKey} {e : EthOut}
    (hfind : (s.port n).ethOut.find? (fun e => e.msg.key == tag) = some e) (hr : 8 ≤ e.resent) :
    ∃ t, exec (.ethResendTimeout n tag) s = .next t ∧ bit (t.pg .port n 0x14) 8 = true := by
  have hex := execEthResendTimeout_up hup tag
  rw [hfind] at hex
  dsimp only at hex
  rw [if_neg (by omega)] at hex
  have cx := State.canon_setPort c n { s.port n with ethOut := (s.port n).ethOut.erase e }
  generalize s.setPort n { s.port n with ethOut := (s.port n).ethOut.erase e } = x at *
  have ce : (x.evErr .port n 8 8 0xF e.msg.dst 0).Canon := (Keeps.evErr .refl).canon cx
  have hbit : bit ((x.evErr .port n 8 8 0xF e.msg.dst 0).pg .port n 0x14) 8 = true :=
    State.bit_evErr_self cx (by decide) (by decide)
  generalize x.evErr .port n 8 8 0xF e.msg.dst 0 = y at *
  refine ⟨_, hex, ?_⟩
  have hrel : Relays y (if e.msg.src =
      y.devId then y.lostRoute e.msg.part e.msg.dst else y.noRouteTo (dieOfPort n) e.msg) := by
    split
    · exact .lostRoute ce ..
    · exact .ofSends (.noRouteTo ce ..)
  rw [hrel.page .port n 0x14 (by decide) (by omega)
    (by simp only [pageNo]; omega) fun d _ => by simp only [pageNo]; omega]
  exact hbit

/-- Frames and segments are taken, and messages are sent again. -/
theorem framesAreTaken : Stated.FramesAreTaken := by
  intro s n f c hn hlive hst hmode hhalf x id ours b key t0 alone good
  have hup : Stated.EthUp s n := ⟨hlive, hst, hmode, hhalf⟩
  have hb : b = slice (f.drop 62) 0 (beNat (slice f 58 2) - 8) := by rw [beNat_two]
  have hours : ours ↔ s.ethForUs n f = true := (ethForUs_iff s n f).symm
  have halone (h : alone) : Alone x b ∧ 32 ≤ b.length ∧ fld b 2 2 ≠ 3 ∧ fld b 6 2 = s.fabric.devId := by
    obtain ⟨h32, hop, hid, ht, h0, hnone⟩ := h
    exact ⟨⟨h32, ht, h0, hnone⟩, h32, hop, hid⟩
  refine ⟨fun hno => ?_, fun ho ha hlen => ?_, fun ho ha hlen hbad => ?_, fun ho ha hlen hg hnone htw hop => ?_,
    fun k half ho h32 hop hid httl hroute hk hd => ?_, fun tag e hfind => ⟨fun hr hd => ?_, fun hr => ?_⟩,
    fun tag hnone => ?_⟩
  · refine ⟨_, (execEthFrame_up hup).trans (if_neg fun h => hno (hours.mpr h)), rfl, rfl, State.pg_count32 c 1⟩
  · obtain ⟨hal, h32, hop, hid⟩ := halone ha
    obtain ⟨t, hex, hmem, hsegs, htag⟩ := ethFrame_keeps hup c (hours.mp ho) hb h32 hop hid hal hlen
    refine ⟨t, hex, hmem, ?_, htag⟩
    rw [hsegs, segOf, hal.first]
  · obtain ⟨hal, h32, hop, hid⟩ := halone ha
    exact ethFrame_drops hup c (hours.mp ho) hb h32 hop hid hal hlen hbad
  · obtain ⟨hal, h32, hop3, hid⟩ := halone ha
    obtain ⟨t, hex, hmem, hsegs, htag⟩ := ethFrame_delivers hup c (hours.mp ho) hb h32 hop3 hid hal hlen hg hnone hop
    refine ⟨t, hex, hmem, hsegs, ?_⟩
    rw [htag]
    exact tget_tput_same _ _ _ htw
  · exact ethFrame_onward hup c (hours.mp ho) hb h32 hop hid httl hroute hk hd
  · exact ethResend_again hup c hfind hr hd
  · exact ethResend_exhausted hup c hfind hr
  · have hex := execEthResendTimeout_up hup tag
    rwa [List.find?_eq_none.mpr fun e he => by simpa using hnone e he] at hex

/-- Settles O52. -/
theorem flitsAndFrames : Obligations.FlitsAndFrames := ⟨flitsAreTaken, framesAreTaken⟩

end Sys2Proof.Machine
end

section
/-! SUPPORT. Messages of the fabric as they arrive (R361 to R363, R366, R367, R273); and the statement about them. -/
set_option Elab.async false

namespace Sys2Proof.Machine

variable {s t : State} {n op k half d dst : Nat} {m : List Byte}

/-! ## Messages that leave by Ethernet -/

/-- A message handed to an Ethernet port of a die that drives its pins is sent. -/
theorem State.portSend_eth (c : s.Canon) (hk : bits (s.pg .port k 0x40) 1 0 ≠ 0) (hd : s.drives (dieOfPort k) = true)
    (half : Nat) (msg : FabMsg) : ((s.portSend k half msg).port k).tx = (s.port k).tx ++ [msg] := by
  have cx := State.canon_setPort c k { s.port k with
    ethOut := if msg.opcode = 3 then (s.port k).ethOut else (s.port k).ethOut ++ [⟨0, half, msg⟩] }
  have hpx := State.port_setPort c k { s.port k with
    ethOut := if msg.opcode = 3 then (s.port k).ethOut else (s.port k).ethOut ++ [⟨0, half, msg⟩] }
  have hsend : s.portSend k half msg = (s.setPort k { s.port k with
      ethOut := if msg.opcode = 3 then (s.port k).ethOut else (s.port k).ethOut ++ [⟨0, half, msg⟩] }).ethPut k msg
        (s.ethBytes k msg) := if_pos (isEth_of_mode hk)
  have hdx : (s.setPort k { s.port k with
      ethOut := if msg.opcode = 3 then (s.port k).ethOut else (s.port k).ethOut ++ [⟨0, half, msg⟩] }).drives
        (dieOfPort k) = true := hd
  rw [hsend]
  generalize s.setPort k { s.port k with
    ethOut := if msg.opcode = 3 then (s.port k).ethOut else (s.port k).ethOut ++ [⟨0, half, msg⟩] } = x at *
  have hput : x.ethPut k msg (s.ethBytes k msg) =
      (x.setPort k { x.port k with tx := (x.port k).tx ++ [msg] }).count64 .port k 0x70 (s.ethBytes k msg) := if_pos hdx
  rw [hput, State.port_count64]
  refine (congrArg Port.tx (State.port_setPort cx ..)).trans ?_
  rw [hpx]

/-- The port that a die's route table names is an Ethernet port that is up. -/
def State.EthRoute (s : State) (k : Nat) : Prop :=
  k < 16 ∧ (s.port k).st ≠ .down ∧ bits (s.pg .port k 0x40) 1 0 ≠ 0 ∧ (s.port k).halfGone = [] ∧
    s.drives (dieOfPort k) = true

theorem State.routeOf_eth (h : s.EthRoute (bits (tget 0x1F s.fabric.routes (d * 65536 + dst)) 4 0)) :
    ∃ half, s.routeOf d dst = some (bits (tget 0x1F s.fabric.routes (d * 65536 + dst)) 4 0, half) := by
  obtain ⟨hk, hst, -, hhalf, -⟩ := h
  unfold State.routeOf
  dsimp only
  rw [if_pos ⟨hk, hst, by rw [hhalf]; rfl⟩]
  exact ⟨_, rfl⟩

theorem State.routeOf_none (h : 16 ≤ bits (tget 0x1F s.fabric.routes (d * 65536 + dst)) 4 0) : s.routeOf d dst = none :=
  if_neg fun hc => absurd hc.1 (Nat.not_lt.mpr h)

/-! ## Messages that arrive -/

/-- A message whose CRC holds arrives at a port that is up. -/
structure Arrives (s : State) (n op : Nat) (m : List Byte) : Prop where
  live : s.live (dieOfPort n) = true
  link : (s.port n).st = .up
  isOp : fld m 2 2 = op
  whole : 32 ≤ m.length
  crc : crc32 (lay m 28 [0, 0, 0, 0]) = fld m 28 4

theorem Arrives.of (h : Stated.FabArrives s n op m) : Arrives s n op m := ⟨h.live, h.link, h.isOp, h.whole, h.crc⟩

theorem portLive_of_up (hlive : s.live (dieOfPort n) = true) (hst : (s.port n).st = .up) : s.portLive n = true := by
  simp [State.portLive, hlive, hst]

theorem fabRow_arrives (h : Arrives s n op m) (hk : fabKnown op = true) (h12 : op ≠ 1 ∧ op ≠ 2) :
    s.fabRow n op m = .next (if fld m 6 2 = s.devId then s.fabTake n m else s.transit n m) := by
  obtain ⟨hlive, hst, hop, hlen, hcrc⟩ := h
  have hok : fabCrcOk m = true := beq_iff_eq.mpr hcrc
  have hrec : s.fabReceive n m = if fld m 6 2 = s.devId then s.fabTake n m else s.transit n m := by
    unfold State.fabReceive
    dsimp only
    rw [hop, hok, hk, if_neg (by simp; omega)]
    simp only [h12.1, h12.2, false_or]
  unfold State.fabRow
  rw [if_pos ⟨hop, portLive_of_up hlive hst⟩, hrec]

theorem fabRow_mine (h : Stated.FabArrives s n op m) (hk : fabKnown op = true) (h12 : op ≠ 1 ∧ op ≠ 2) :
    s.fabRow n op m = .next (s.fabTake n m) :=
  (fabRow_arrives (.of h) hk h12).trans (congrArg _ (if_pos h.mine))

theorem fabRow_other (h : Arrives s n op m) (hk : fabKnown op = true) (h12 : op ≠ 1 ∧ op ≠ 2)
    (hid : fld m 6 2 ≠ s.fabric.devId) : s.fabRow n op m = .next (s.transit n m) :=
  (fabRow_arrives h hk h12).trans (congrArg _ (if_neg hid))

/-- What a message for this device does, by its opcode. -/
theorem State.fabTake_ack (h : fld m 2 2 = 3) : s.fabTake n m = (s.hear (fld m 4 2)).ethAcked m := by
  unfold State.fabTake
  dsimp only
  rw [h]
  rfl

theorem State.fabTake_probe (h : fld m 2 2 = 0x10) : s.fabTake n m = (s.hear (fld m 4 2)).probeReply m := by
  unfold State.fabTake
  dsimp only
  rw [h]
  rfl

theorem State.fabTake_probeAck (h : fld m 2 2 = 0x11) : s.fabTake n m = s.hear (fld m 4 2) := by
  unfold State.fabTake
  dsimp only
  rw [h]
  rfl

theorem State.fabTake_noRoute (h : fld m 2 2 = 0x12) :
    s.fabTake n m = (s.hear (fld m 4 2)).lostRoute (fld m 9 1) (fld m 32 2) := by
  unfold State.fabTake
  dsimp only
  rw [h]
  rfl

theorem State.fabTake_store (h : fld m 2 2 = 0x200 ∨ fld m 2 2 = 0x201) :
    s.fabTake n m = (s.hear (fld m 4 2)).msgDrop n := by
  unfold State.fabTake
  dsimp only
  obtain h | h := h
  · rw [h]
    rfl
  · rw [h]
    rfl

/-! ## Their effects -/

/-- Waiting for the ACK of one message ends on every port of a list. -/
theorem State.ports_filter (c : s.Canon) (key : EthKey) (ks : List Nat) (hnd : ks.Nodup) :
    let t := ks.foldl (fun s k => s.modPort k fun x => { x with ethOut := x.ethOut.filter fun e => e.msg.key ≠ key }) s
    t.mem = s.mem ∧ ∀ k, t.port k =
      if k ∈ ks then { s.port k with ethOut := (s.port k).ethOut.filter fun e => e.msg.key ≠ key } else s.port k := by
  induction ks generalizing s with
  | nil => exact ⟨rfl, fun k => (if_neg List.not_mem_nil).symm⟩
  | cons j ks ih =>
    obtain ⟨hj, hnd⟩ := List.nodup_cons.mp hnd
    have cx := State.canon_setPort c j { s.port j with ethOut := (s.port j).ethOut.filter fun e => e.msg.key ≠ key }
    have hpx := State.port_setPort c j { s.port j with ethOut := (s.port j).ethOut.filter fun e => e.msg.key ≠ key }
    have hne (k : Nat) (h : k ≠ j) := State.port_setPort_ne c { s.port j with
      ethOut := (s.port j).ethOut.filter fun e => e.msg.key ≠ key } h
    obtain ⟨hmem, hport⟩ := ih cx hnd
    refine ⟨hmem, fun k => (hport k).trans ?_⟩
    by_cases hkj : k = j
    · subst hkj
      rw [if_neg hj, if_pos List.mem_cons_self, hpx]
    · rw [hne k hkj]
      simp only [List.mem_cons, hkj, false_or]

theorem ack_ends (h : Stated.FabArrives s n 3 m) :
    ∃ t, exec (.ack n m) s = .next t ∧ t.mem = s.mem ∧ ∀ k, k < 16 → t.port k = { s.port k with
      ethOut := (s.port k).ethOut.filter fun e => !(e.msg.src == s.fabric.devId && e.msg.dst == fld m 4 2 &&
        e.msg.vc == fld m 36 1 && e.msg.tag == fld m 32 4) } := by
  obtain ⟨hmem, hport⟩ := State.ports_filter (State.canon_hear h.canon (fld m 4 2))
    ⟨fld m 6 2, fld m 4 2, fld m 36 1, fld m 32 4⟩ (List.range 16) List.nodup_range
  refine ⟨_, (fabRow_mine h rfl (by decide)).trans (congrArg _ (State.fabTake_ack h.isOp)), hmem, fun k hk => ?_⟩
  refine (hport k).trans ((if_pos (List.mem_range.mpr hk)).trans ?_)
  have hkey (e : EthOut) : decide (e.msg.key ≠ ⟨fld m 6 2, fld m 4 2, fld m 36 1, fld m 32 4⟩) =
      !(e.msg.src == s.fabric.devId && e.msg.dst == fld m 4 2 && e.msg.vc == fld m 36 1 && e.msg.tag == fld m 32 4) :=
        by
    rw [h.mine, Bool.eq_iff_iff]
    simp [FabMsg.key, or_assoc]
  simp only [hkey]
  rfl

/-- A probe is answered over the route to its sender. -/
theorem probe_answered (h : Stated.FabArrives s n 0x10 m)
    (hk : s.EthRoute (bits (tget 0x1F s.fabric.routes (fld m 4 2)) 4 0)) :
    let k := bits (tget 0x1F s.fabric.routes (fld m 4 2)) 4 0
    ∃ t r, exec (.probe n m) s = .next t ∧ t.mem = s.mem ∧ (t.port k).tx = (s.port k).tx ++ [.raw r] ∧
      fld r 2 2 = 0x11 ∧ fld r 6 2 = fld m 4 2 ∧ slice r 32 4 = slice m 32 4 := by
  have c := State.canon_hear h.canon (fld m 4 2)
  have hmem : (s.hear (fld m 4 2)).mem = s.mem := rfl
  have hports (q : Nat) : (s.hear (fld m 4 2)).port q = s.port q := rfl
  have hroutes : tget 0x1F (s.hear (fld m 4 2)).fabric.routes (0 * 65536 + fld m 4 2) =
      tget 0x1F s.fabric.routes (fld m 4 2) := by
    rw [Nat.zero_mul, Nat.zero_add]
    rfl
  have hk' : (s.hear (fld m 4 2)).EthRoute
      (bits (tget 0x1F (s.hear (fld m 4 2)).fabric.routes (0 * 65536 + fld m 4 2)) 4 0) := by
    rw [hroutes]
    exact hk
  have hex : exec (.probe n m) s = .next ((s.hear (fld m 4 2)).probeReply m) :=
    (fabRow_mine h rfl (by decide)).trans (congrArg _ (State.fabTake_probe h.isOp))
  have hsrc : fld m 4 2 < 65536 := by
    have := leNat_lt (slice m 4 2)
    rwa [length_slice] at this
  dsimp only
  generalize s.hear (fld m 4 2) = x at *
  obtain ⟨half, hr⟩ := State.routeOf_eth hk'
  rw [hroutes] at hr hk'
  generalize bits (tget 0x1F s.fabric.routes (fld m 4 2)) 4 0 = k at *
  obtain ⟨hk16, hst, hmode, -, hd⟩ := hk'
  generalize htags : tput 0 x.fabric.tags (fld m 4 2 * 4 + 0)
    ((tget 0 x.fabric.tags (fld m 4 2 * 4 + 0) + 1) % 2 ^ 32) = tags
  have htag := Sends.setTags c tags
  have hsend : x.probeReply m = (x.setFabric { x.fabric with tags := tags }).portSend k half
        (.raw (fabBytes (fld m 0 1) 0 0x11 x.devId (fld m 4 2) (fld m 9 1) (fld m 8 1) (fld m 16 4)
          (tget 0 x.fabric.tags (fld m 4 2 * 4 + 0)) (slice m 32 4))) := by
    unfold State.probeReply State.fabSend
    dsimp only
    rw [hr, ← htags]
  have hs := Sends.portSend htag.canon hk16 hst half (.raw (fabBytes (fld m 0 1) 0 0x11 x.devId (fld m 4 2) (fld m 9 1)
    (fld m 8 1) (fld m 16 4) (tget 0 x.fabric.tags (fld m 4 2 * 4 + 0)) (slice m 32 4)))
  have htx := State.portSend_eth htag.canon (k := k) hmode hd half
      (.raw (fabBytes (fld m 0 1) 0 0x11 x.devId (fld m 4 2)
    (fld m 9 1) (fld m 8 1) (fld m 16 4) (tget 0 x.fabric.tags (fld m 4 2 * 4 + 0)) (slice m 32 4)))
  obtain ⟨-, hop, -, hdst, -, hbody⟩ := fabBytes_fields (fld m 0 1) 0 0x11 x.devId (fld m 4 2) (fld m 9 1) (fld m 8 1)
    (fld m 16 4) (tget 0 x.fabric.tags (fld m 4 2 * 4 + 0)) (slice m 32 4)
  rw [hsend] at hex
  refine ⟨_, _, hex, hs.moves.mem.trans hmem, htx.trans ?_, hop, hdst.trans (Nat.mod_eq_of_lt hsrc),
    (hbody 0 4).trans ?_⟩
  · rw [← hports]
    rfl
  · have hlen := slice_zero_length (slice m 32 4)
    rwa [length_slice] at hlen

theorem probe_unanswered (h : Stated.FabArrives s n 0x10 m)
    (hk : 16 ≤ bits (tget 0x1F s.fabric.routes (fld m 4 2)) 4 0) :
    exec (.probe n m) s = .next (s.hear (fld m 4 2)) := by
  refine (fabRow_mine h rfl (by decide)).trans (congrArg _ ((State.fabTake_probe h.isOp).trans ?_))
  have hr : (s.hear (fld m 4 2)).routeOf 0 (fld m 4 2) = none := by
    refine State.routeOf_none ?_
    rw [Nat.zero_mul, Nat.zero_add]
    exact hk
  unfold State.probeReply State.fabSend
  dsimp only
  rw [hr]

/-- A member that NO_ROUTE names is lost. -/
theorem noRoute_loses (h : Stated.FabArrives s n 0x12 m) (hp : fld m 9 1 < 8)
    (hep : (s.part (fld m 9 1)).ladle.epoch ≠ 0) (hmem : fld m 32 2 ∈ (s.part (fld m 9 1)).ladle.members)
    (hne : fld m 32 2 ≠ s.fabric.devId) (hl : fld m 32 2 ∉ (s.part (fld m 9 1)).ladle.lost) :
    ∃ t, exec (.noRoute n m) s = .next t ∧
      (t.part (fld m 9 1)).ladle = { (s.part (fld m 9 1)).ladle with
        lost := (s.part (fld m 9 1)).ladle.lost ++ [fld m 32 2] } ∧
      bit (t.pg .ladle 0 0x14) 4 = true ∧ bit (t.pg .ladle 1 0x14) 4 = true := by
  have c := State.canon_hear h.canon (fld m 4 2)
  have hparts (p : Nat) : (s.hear (fld m 4 2)).part p = s.part p := rfl
  have hid : (s.hear (fld m 4 2)).devId = s.fabric.devId := rfl
  have hex : exec (.noRoute n m) s = .next ((s.hear (fld m 4 2)).lostRoute (fld m 9 1) (fld m 32 2)) :=
    (fabRow_mine h rfl (by decide)).trans (congrArg _ (State.fabTake_noRoute h.isOp))
  generalize s.hear (fld m 4 2) = x at *
  generalize fld m 9 1 = p at *
  generalize fld m 32 2 = dev at *
  have hcond : x.isMember p dev = true ∧ (!(x.part p).ladle.lost.contains dev) = true := by
    rw [State.isMember, hparts, hid]
    simp [hep, hmem, hne, hl]
  have cy : (x.modPart p fun q => { q with ladle := { q.ladle with lost := q.ladle.lost ++ [dev] } }).Canon :=
    (Keeps.modPart .refl).canon c
  have hpy := State.part_setPart c p { x.part p with
    ladle := { (x.part p).ladle with lost := (x.part p).ladle.lost ++ [dev] } }
  have hlost : x.lostRoute p dev =
      (((x.modPart p fun q => { q with ladle := { q.ladle with lost := q.ladle.lost ++ [dev] } }).evErr .ladle 0 4 4 p
        dev 0).evErr
        .ladle 1 4 4 p dev 0).vent p 0x800C p (leBytes 4 dev ++ leBytes 4 (x.part p).ladle.epoch ++
          leBytes 8 (((x.modPart p fun q => { q with ladle := { q.ladle with lost := q.ladle.lost ++ [dev] } }).evErr
            .ladle 0 4 4
            p dev 0).evErr .ladle 1 4 4 p dev 0).now) :=
    (if_pos hp).trans (if_pos hcond)
  have hpy : (x.modPart p fun q => { q with ladle := { q.ladle with lost := q.ladle.lost ++ [dev] } }).part p = _ := hpy
  generalize x.modPart p (fun q => { q with ladle := { q.ladle with lost := q.ladle.lost ++ [dev] } }) = y at *
  have c0 : (y.evErr .ladle 0 4 4 p dev 0).Canon := (Keeps.evErr .refl).canon cy
  have m0 : Moves [.bus] y (y.evErr .ladle 0 4 4 p dev 0) := .evErr y (by decide)
  have b0 : bit ((y.evErr .ladle 0 4 4 p dev 0).pg .ladle 0 0x14) 4 =
      true := State.bit_evErr_self cy (by decide) (by decide)
  generalize y.evErr .ladle 0 4 4 p dev 0 = z at *
  have c1 : (z.evErr .ladle 1 4 4 p dev 0).Canon := (Keeps.evErr .refl).canon c0
  have m1 : Moves [.bus] z (z.evErr .ladle 1 4 4 p dev 0) := .evErr z (by decide)
  have b1 : bit ((z.evErr .ladle 1 4 4 p dev 0).pg .ladle 1 0x14) 4 =
      true := State.bit_evErr_self c0 (by decide) (by decide)
  have k0 : (z.evErr .ladle 1 4 4 p dev 0).pg .ladle 0 0x14 = z.pg .ladle 0 0x14 :=
    State.pg_evErr_ne c0 (by decide) (by decide) (by decide)
  generalize z.evErr .ladle 1 4 4 p dev 0 = w at *
  have hv := Posts.vent (r := p) (by omega) w 0x800C p
    (leBytes 4 dev ++ leBytes 4 (x.part p).ladle.epoch ++ leBytes 8 w.now) c1
  refine ⟨_, hex.trans (congrArg _ hlost), ?_, ?_, ?_⟩
  · refine (congrArg Part.ladle (hv.part p) :).trans ?_
    change (w.part p).ladle = _
    rw [m1.part, m0.part, hpy, hparts]
  · rw [hv.page .ladle 0 0x14 (by decide) (by decide), k0]
    exact b0
  · rw [hv.page .ladle 1 0x14 (by decide) (by decide)]
    exact b1

/-- A message is dropped at a port. -/
def Drops (s t : State) (n : Nat) : Prop :=
  t.fabric.ports = s.fabric.ports ∧ t.mem = s.mem ∧ t.pg .port n 0xA4 = min (s.pg .port n 0xA4 + 1) 0xFFFFFFFF

theorem drops_msgDrop {x : State} (c : x.Canon) (hports : x.fabric.ports = s.fabric.ports) (hmem : x.mem = s.mem)
    (hpg : x.pg .port n 0xA4 = s.pg .port n 0xA4) : Drops s (x.msgDrop n) n :=
  ⟨hports, hmem, (State.pg_count32 c 1).trans (by rw [hpg])⟩

theorem store_drops (h : Stated.FabArrives s n op m) (hop : op = 0x200 ∨ op = 0x201) :
    ∃ t, s.fabRow n op m = .next t ∧ Drops s t n := by
  have hk : fabKnown op = true ∧ op ≠ 1 ∧ op ≠ 2 := by obtain rfl | rfl := hop <;> decide
  refine ⟨_, (fabRow_mine h hk.1 hk.2).trans (congrArg _ (State.fabTake_store (by rw [h.isOp]; exact hop))), ?_⟩
  exact drops_msgDrop (State.canon_hear h.canon _) rfl rfl rfl

/-! ## Messages for other devices -/

/-- A message as it goes on: a hop less, and its CRC formed again. -/
def passed (m : List Byte) : List Byte := sealCrc (lay (lay m 10 (leBytes 1 (fld m 10 1 - 1))) 24 [0, 0, 0, 0])

theorem passed_fields (m : List Byte) :
    fld (passed m) 10 1 = fld m 10 1 - 1 ∧ (passed m).drop 32 = m.drop 32 ∧
      crc32 (lay (passed m) 28 [0, 0, 0, 0]) = fld (passed m) 28 4 := by
  refine ⟨?_, ?_, crc_sealCrc _⟩
  · have hlt : fld m 10 1 < 256 := by
      have := leNat_lt (slice m 10 1)
      rw [length_slice] at this
      exact this
    unfold passed sealCrc
    rw [fld_lay_ne (.inl (by decide)), fld_lay_ne (.inl (by decide)), fld_lay_leBytes]
    exact Nat.mod_eq_of_lt (by omega)
  · unfold passed sealCrc
    rw [drop_lay (by rw [length_leBytes]), drop_lay (by decide), drop_lay (by rw [length_leBytes]; decide)]

/-- A message that has hops left and a route goes out. -/
theorem transit_goes (c : s.Canon) (hop : fld m 2 2 ≠ 3)
    (hk : s.EthRoute (bits (tget 0x1F s.fabric.routes (dieOfPort n * 65536 + fld m 6 2)) 4 0)) (httl : 2 ≤ fld m 10 1) :
    let k := bits (tget 0x1F s.fabric.routes (dieOfPort n * 65536 + fld m 6 2)) 4 0
    (s.transit n m).mem = s.mem ∧ ((s.transit n m).port k).tx = (s.port k).tx ++ [.raw (passed m)] := by
  obtain ⟨half, hr⟩ := State.routeOf_eth hk
  dsimp only
  generalize bits (tget 0x1F s.fabric.routes (dieOfPort n * 65536 + fld m 6 2)) 4 0 = k at *
  have htr : s.transit n m = s.portSend k half (.raw (passed m)) := by
    unfold State.transit
    dsimp only
    rw [if_neg hop, if_neg (by omega), hr]
    rfl
  obtain ⟨hk16, hst, hmode, -, hd⟩ := hk
  rw [htr]
  exact ⟨(Sends.portSend c hk16 hst half _).moves.mem, State.portSend_eth c hmode hd half _⟩

/-- One without is dropped, where no NO_ROUTE can be sent back. -/
theorem transit_drops (c : s.Canon) (hop : fld m 2 2 ≠ 3)
    (hback : fld m 4 2 = s.fabric.devId ∨ 16 ≤ bits (tget 0x1F s.fabric.routes (dieOfPort n * 65536 + fld m 4 2)) 4 0)
    (hno : fld m 10 1 ≤ 1 ∨ 16 ≤ bits (tget 0x1F s.fabric.routes (dieOfPort n * 65536 + fld m 6 2)) 4 0) :
    Drops s (s.transit n m) n := by
  have hsrc : (FabMsg.raw m).src = fld m 4 2 := congrArg leNat (slice_take m (by decide))
  have hroute : (if fld m 10 1 ≤ 1 then none else s.routeOf (dieOfPort n) (fld m 6 2)) = none := by
    split
    · rfl
    · exact State.routeOf_none (hno.resolve_left ‹_›)
  have hnr : s.noRouteTo (dieOfPort n) (.raw m) = s := by
    unfold State.noRouteTo
    dsimp only
    rw [hsrc]
    obtain h | h := hback
    · exact if_pos (.inr h)
    · unfold State.fabSend
      rw [State.routeOf_none h]
      exact ite_self _
  have htr : s.transit n m = s.msgDrop n := by
    unfold State.transit
    dsimp only
    rw [if_neg hop, hroute]
    dsimp only
    rw [hnr]
  rw [htr]
  exact drops_msgDrop c rfl rfl rfl

/-- Settles O53. -/
theorem fabricMessagesAct : Obligations.FabricMessagesAct := by
  intro s n m _ src heard dropped route west eth
  refine ⟨fun h => ack_ends h, fun h hk => probe_answered h hk, fun h hk => probe_unanswered h hk, fun h => ?_,
    fun h hp hep hmem hne hl => noRoute_loses h hp hep hmem hne hl, fun h => store_drops h (.inl rfl),
    fun h => store_drops h (.inr rfl), fun c hlive hst hor => ?_, fun c hlive hst hop h32 hcrc hid => ?_⟩
  · exact (fabRow_mine h rfl (by decide)).trans (congrArg _ (State.fabTake_probeAck h.isOp))
  · refine ⟨_, if_pos ⟨portLive_of_up hlive hst, ?_⟩, drops_msgDrop c rfl rfl rfl⟩
    obtain h | h | h := hor
    · refine .inl ?_
      simp [fabKnown]
      omega
    · refine .inl ?_
      simp [fabKnown]
      omega
    · refine .inr ?_
      rw [Bool.not_eq_true', fabCrcOk]
      exact beq_eq_false_iff_ne.mpr h
  · have ha : Arrives s n 0x200 m := ⟨hlive, hst, hop, h32, hcrc⟩
    have hex : exec (.storeWrite n m) s = .next (s.transit n m) := fabRow_other ha rfl (by decide) hid
    have hop3 : fld m 2 2 ≠ 3 := by omega
    refine ⟨fun k hk he httl => ?_, fun hback hno => ⟨_, hex, transit_drops c hop3 hback hno⟩⟩
    obtain ⟨hmem, htx⟩ := transit_goes c hop3 (n := n) (by rw [show bits _ 4 0 = k from hk]; exact he) httl
    obtain ⟨hf, hd, hc⟩ := passed_fields m
    exact ⟨_, _, hex, hmem, hk ▸ htx, hf, hd, hc⟩

end Sys2Proof.Machine
end

section
/-! SUPPORT. Commands of the array engines
  (R88 to R95, R114 to R118, R128, R129, R179): what a tensor written as an array
output, the NSTAT of a grid and the positions of its tasks move, and a command that runs to its outcome. -/
set_option Elab.async false

namespace Sys2Proof.Machine

variable {s t w r : State} {p c op u : Nat} {k : Cmd} {us : List Nat} {f : Nat → Nat}

/-! ## What the parts of an engine command move -/

theorem Moves.fhOne (s : State) (d p cls fmt kind n : Nat) : Moves [.bus, .health] s (s.fhOne d p cls fmt kind n) :=
  .ite .refl (.ite ((Moves.setHealth s _).mono.andThen (Moves.evSet (k := .pyro) _ (by decide)))
    (Moves.setHealth s _).mono)

theorem Moves.fhAlert (s : State) (d p : Nat) : Moves [.bus, .health] s (s.fhAlert d p) :=
  .ite ((Moves.setHealth s _).mono.andThen
    (Moves.ofBusOnly (.trans .setPg (.evSet (k := .pyro) (by decide))))) .refl

/-- The conversions of a unit are counted in the format-health counts and their pages alone. -/
theorem Moves.fhAdd (s : State) (d p cls fmt : Nat) (a : Tally) : Moves [.bus, .health] s (s.fhAdd d p cls fmt a) :=
  .ite ((((Moves.fhOne s _ _ _ _ _ _).andThen (Moves.fhOne _ _ _ _ _ _ _)).andThen
    (Moves.fhOne _ _ _ _ _ _ _)).andThen (Moves.fhAlert _ _ _)) .refl

/-- An array output stands in memory, its conversions in the format-health counts. -/
theorem Moves.wrArray (s : State) (tag : Nat) (en stg : Bool) (dieOf : Nat → Nat → Nat) (y : TRef)
    (rows : List (List Word)) : Moves [.mem, .bus, .health] s (s.wrArray tag en stg dieOf y rows) := by
  have hrows : ∀ g : Nat → List Byte, Moves [.mem] s
      (Machine.forN rows.length s fun i s => State.wr s tag (y.addr + i * y.step) (g i)) := fun g =>
    .forN (fun i x => .wr x _ _ _) _ s
  unfold State.wrArray
  refine Moves.ite ?_ (((?_ : Moves [.mem, .bus, .health] s _).andThen (Moves.fhAdd _ _ _ _ _ _)).andThen
    (Moves.fhAdd _ _ _ _ _ _)) <;>
  exact Moves.mono (.ite (hrows _) (.ite ((hrows _).andThen (Moves.wr _ _ _ _))
    ((hrows _).andThen (Moves.forN (fun i x => Moves.wr x _ _ _) _ _))))

theorem Moves.setNstat (s : State) (us : List Nat) (f : Nat → Nat) : Moves [.units] s (s.setNstat us f) :=
  .forN (fun _ x => .setUnit x _ _) _ s

theorem BusOnly.gemmPos (s : State) (us : List Nat) (gm gn Mb Nb Kb : Nat) :
    BusOnly s (s.gemmPos us gm gn Mb Nb Kb) :=
  .forN (fun _ _ => .ite .refl .taskPos) _ s

theorem BusOnly.attnPos (s : State) (us : List Nat) (H S mt kb : Nat) (causal : Bool) :
    BusOnly s (s.attnPos us H S mt kb causal) :=
  .forN (fun _ _ => .ite .refl .taskPos) _ s


/-! ## NSTAT of a grid -/

theorem gridAt_of_lt (us : List Nat) {i : Nat} (h : i < us.length) : gridAt us i = us[i] := by
  rw [gridAt, List.getD_eq_getElem _ _ h]

theorem gridAt_mem (us : List Nat) {i : Nat} (h : i < us.length) : gridAt us i ∈ us := by
  rw [gridAt_of_lt us h]
  exact List.getElem_mem h

/-- NSTAT of the first `n` units of a grid, and of the units outside it, while the units are set in turn: each holds its
own value where no unit stands twice or one value is set everywhere. -/
theorem State.setNstat_prefix (c : s.Canon) (us : List Nat) (f : Nat → Nat) (n : Nat) (hn : n ≤ us.length) :
    let t := forN n s fun i s => s.modUnit (gridAt us i) fun x => { x with seq := { x.seq with nstat := w32 (f i) } }
    t.Canon ∧ (us.Nodup ∨ (∀ i j, f i = f j) → ∀ i, i < n → (t.unit (gridAt us i)).seq.nstat = w32 (f i)) ∧
      ∀ u, u ∉ us → t.unit u = s.unit u := by
  induction n with
  | zero => exact ⟨c, fun _ i hi => absurd hi (Nat.not_lt_zero i), fun _ _ => rfl⟩
  | succ n ih =>
    obtain ⟨hc, hset, hkeep⟩ := ih (by omega)
    rw [forN_succ]
    refine ⟨State.canon_setUnit hc _ _, fun hnd i hi => ?_, fun u hu => ?_⟩
    · by_cases hin : gridAt us i = gridAt us n
      · have hf : f n = f i := hnd.elim (fun hnd => by
          rw [gridAt_of_lt us (by omega), gridAt_of_lt us (by omega), List.Nodup.getElem_inj_iff hnd] at hin
          rw [hin]) fun hf => hf n i
        rw [hin, ← hf]
        exact congrArg (fun x : SeqUnit => x.seq.nstat) (State.unit_setUnit hc _ _)
      · have hn' : i ≠ n := fun h => hin (h ▸ rfl)
        rw [State.modUnit, State.unit_setUnit_ne hc _ hin]
        exact hset hnd i (by omega)
    · rw [State.modUnit, State.unit_setUnit_ne hc _ fun h : u = gridAt us n => hu (h ▸ gridAt_mem us (by omega))]
      exact hkeep u hu

/-! ## A command that runs to its outcome -/

theorem State.canon_modCmd (c : s.Canon) (p i : Nat) (f : Cmd → Cmd) : (s.modCmd p i f).Canon :=
  (Keeps.modPart .refl).canon c

theorem Moves.modCmd (s : State) (p i : Nat) (f : Cmd → Cmd) : Moves [.parts] s (s.modCmd p i f) :=
  Moves.setPart s p _

/-- An update of a command leaves the state of every partition. -/
theorem State.st_modCmd (c : s.Canon) (p i : Nat) (f : Cmd → Cmd) (q : Nat) :
    ((s.modCmd p i f).part q).st = (s.part q).st := by
  by_cases h : q = p
  · rw [h, State.part_modCmd c]
  · rw [State.modCmd, State.modPart, State.part_setPart_ne c _ h]

/-- A started command whose effect leaves its partition as it was takes its outcome. -/
theorem State.runCmd_of_runs (h : Stated.Runs s p c op k) {g : Cmd → State → State × Compl} {o : Compl}
    (hg : g k s = (t, o)) (hp : t.parts = s.parts) :
    s.runCmd p c op g = .next (t.modCmd p c fun k => { k with out := some o }) := by
  rw [State.runCmd, h.cmd]
  dsimp only
  rw [if_pos ⟨h.isOp, h.phase, h.out, h.live, h.unhalted, h.passes, h.up⟩, hg]
  dsimp only
  rw [if_neg fun hf => h.up (State.part_eq_of_parts hp p ▸ hf)]

/-- What a command of the array engines leaves: its output in memory, NSTAT of its units, positions of their tasks, and
its outcome. -/
theorem State.runCmd_of_effect (h : Stated.Runs s p c op k) {g : Cmd → State → State × Compl} {n : Nat}
    (hw : Moves [.mem, .bus, .health] s w) (hr : BusOnly (w.setNstat k.units f) r) (hrc : r.Canon)
    (hg : g k s = (r, .ns n)) :
    ∃ t, s.runCmd p c op g = .next t ∧ t.mem = w.mem ∧ (∀ u, t.unit u = (w.setNstat k.units f).unit u) ∧
      Stated.DoneOk t p c (w32 n) ∧ Stated.SameElsewhere s t := by
  have hn := Moves.setNstat w k.units f
  have hb := Moves.ofBusOnly hr
  have hsr : Moves [.mem, .bus, .health, .units] s r := (hw.mono.andThen hn).andThen hb
  have hm := Moves.modCmd r p c fun k => { k with out := some (.ns n) }
  have hst : Moves [.mem, .bus, .health, .units, .parts] s _ := hsr.mono.andThen hm
  have hcmd := State.cmd?_modCmd (f := fun k => { k with out := some (.ns n) }) hrc (fun _ => rfl) p c
  rw [hsr.cmd?, h.cmd] at hcmd
  exact ⟨_, State.runCmd_of_runs h hg hsr.parts, (hm.mem.trans hb.mem).trans hn.mem,
    fun u => (hm.unit (by decide) u).trans (hb.unit (by decide) u), ⟨_, _, hcmd, rfl, rfl, rfl⟩,
    hst.stk, hst.sprue, hst.rings, hst.fabric, hst.dev, hst.maps, hst.pending, fun q => by
      rw [State.st_modCmd hrc, hsr.part]⟩

/-- The same, with NSTAT of each unit from its own tasks. -/
theorem State.unitsDone_of_effect (h : Stated.Runs s p c op k) {g : Cmd → State → State × Compl}
    (hw : Moves [.mem, .bus, .health] s w) (hwc : w.Canon) (hr : BusOnly (w.setNstat k.units f) r)
    (hrc : r.Canon) (hg : g k s = (r, .ns (orFlags k.units f))) :
    ∃ t, s.runCmd p c op g = .next t ∧ t.mem = w.mem ∧ Stated.UnitsDone s t p c k f := by
  obtain ⟨t, hex, hmem, hunit, hdone, hsame⟩ := State.runCmd_of_effect h hw hr hrc hg
  obtain ⟨-, hset, hkeep⟩ := State.setNstat_prefix hwc k.units f k.units.length le_rfl
  refine ⟨t, hex, hmem, fun hnd i hi => ?_, fun u hu => ?_, hdone, hsame⟩
  · rw [hunit]
    exact hset (.inl hnd) i hi
  · rw [hunit, State.setNstat, hkeep u hu, hw.unit]

/-! ## Products (R90, R115) -/

theorem length_rdTensor (s : State) (p : Nat) (y : TRef) : (s.rdTensor p y).length = y.rows := by
  rw [State.rdTensor, List.length_map, List.length_range]

theorem length_transpose (n : Nat) (x : List (List Fl)) : (transpose n x).length = n := by
  rw [transpose, List.length_map, List.length_range]

/-- Row `i` of the transpose. -/
theorem getD_transpose {n i : Nat} (x : List (List Fl)) (h : i < n) :
    (transpose n x).getD i [] = Stated.row true x i := by
  simp [transpose, Stated.row, List.getD_eq_getElem?_getD, h]

/-- A product of stored operands is the sums of the rows of the one and the columns of the other. -/
theorem product_eq_sums {M N L : Nat} {as bs : List (List Fl)} {a b : Nat → List Fl} {start start' : Nat → Nat → RSum}
    (hM : as.length = M) (hN : bs.length = N) (ha : ∀ i, i < M → as.getD i [] = a i)
    (hb : ∀ j, j < N → bs.getD j [] = b j) (hs : ∀ i j, start i j = start' i j) :
    product L as bs start = Stated.sums M N L a b start' := by
  rw [product, Stated.sums, hM, hN]
  refine List.map_congr_left fun i hi => List.map_congr_left fun j hj => ?_
  rw [ha i (List.mem_range.mp hi), hb j (List.mem_range.mp hj), hs]

/-- An operand as a product takes it: stored, or transposed for `n` columns. -/
theorem length_operand (tr : Bool) (x : List (List Fl)) {n : Nat} (h : tr = false → x.length = n) :
    (if tr then transpose n x else x).length = n := by
  cases tr with
  | false => exact h rfl
  | true => exact length_transpose n x

theorem getD_operand (tr : Bool) (x : List (List Fl)) {n i : Nat} (h : i < n) :
    (if tr then transpose n x else x).getD i [] = Stated.row tr x i := by
  cases tr with
  | false => rfl
  | true => exact getD_transpose x h

/-- The start of a sum. -/
theorem startSum_eq (am : Bool) (base i j : Nat) (x : List (List Word)) :
    startSum am base (if am then x else []) i j =
      if am then ⟨(x.getD i []).getD j 0, base, 0⟩ else ⟨0, 0, 0⟩ := by
  cases am <;> rfl

/-- The die on which a conversion is counted does not show in memory. -/
theorem State.wrArray_mem (s : State) (tag : Nat) (en stg : Bool) (dieOf dieOf' : Nat → Nat → Nat) (y : TRef)
    (rows : List (List Word)) :
    (s.wrArray tag en stg dieOf y rows).mem = (s.wrArray tag en stg dieOf' y rows).mem := by
  have hmem (x : State) (a b : Tally) : ((x.fhAdd 0 tag y.cls y.fmt a).fhAdd 1 tag y.cls y.fmt b).mem = x.mem :=
    ((Moves.fhAdd x _ _ _ _ _).andThen (Moves.fhAdd _ _ _ _ _ _)).mem
  unfold State.wrArray
  dsimp only
  split
  · rfl
  · rw [hmem, hmem]

/-- What the sums of a product leave. -/
theorem Stated.ProductDone.of_effect (h : Stated.Runs s p c op k) {g : Cmd → State → State × Compl} {y : TRef}
    {mt nw gm gn Mb Nb Kb : Nat} {q : List (List RSum)} {dieOf : Nat → Nat → Nat}
    (hg : g k s = (((s.wrArray p k.e4nan true dieOf y (q.map fun x => x.map (·.v))).setNstat k.units
      (gemmFlags mt nw (fld k.msg 49 1) (fld k.msg 50 1) q)).gemmPos k.units gm gn Mb Nb Kb,
      .ns (orFlags k.units (gemmFlags mt nw (fld k.msg 49 1) (fld k.msg 50 1) q)))) :
    ∃ t, s.runCmd p c op g = .next t ∧ Stated.ProductDone s t p c k y mt nw q := by
  obtain ⟨t, hex, hmem, hdone⟩ := State.unitsDone_of_effect h (Moves.wrArray s _ _ _ _ _ _)
    ((Keeps.wrArray .refl).canon h.canon) (.gemmPos _ _ _ _ _ _ _)
    ((Keeps.gemmPos (Keeps.setNstat (Keeps.wrArray .refl))).canon h.canon) hg
  exact ⟨t, hex, hmem.trans (State.wrArray_mem ..), hdone⟩

/-- MG_GEMM runs to its outcome. -/
theorem mgGemm_runs (h : Stated.Runs s p c 0x200 k)
    (hM : bit (fld k.msg 51 1) 0 = false → (tref k.msg 80).rows = fld k.msg 56 4)
    (hN : bit (fld k.msg 51 1) 1 = true → (tref k.msg 112).rows = fld k.msg 60 4)
    (hacc : s.unitAccess p false (mgGemmUses k) = none) :
    ∃ t, exec (.mgGemm p c) s = .next t ∧ Stated.ProductDone s t p c k (tref k.msg 144) 256 512
      (Stated.sums (fld k.msg 56 4) (fld k.msg 60 4) (if (tref k.msg 80).fmt = 2 then 16 else 32)
        (Stated.row (bit (fld k.msg 51 1) 0) (s.rdTensor p (tref k.msg 80)))
        (Stated.row (!bit (fld k.msg 51 1) 1) (s.rdTensor p (tref k.msg 112)))
        fun i j => if bit (fld k.msg 51 1) 2 then
          ⟨((s.rdWords p (tref k.msg 176)).getD i []).getD j 0, fld k.msg 52 4, 0⟩ else ⟨0, 0, 0⟩) := by
  have hb : ∀ x : List (List Fl), (if bit (fld k.msg 51 1) 1 then x else transpose (fld k.msg 60 4) x) =
      if !bit (fld k.msg 51 1) 1 then transpose (fld k.msg 60 4) x else x := fun x => by
    cases bit (fld k.msg 51 1) 1 <;> rfl
  have hq := product_eq_sums (L := chunkLen (tref k.msg 80).fmt)
    (length_operand (bit (fld k.msg 51 1) 0) (s.rdTensor p (tref k.msg 80))
      fun ht => (length_rdTensor ..).trans (hM ht))
    (length_operand (!bit (fld k.msg 51 1) 1) (s.rdTensor p (tref k.msg 112))
      fun ht => (length_rdTensor ..).trans (hN (by simpa using ht)))
    (fun i hi => getD_operand _ _ hi) (fun i hi => getD_operand _ _ hi)
    fun i j => startSum_eq (bit (fld k.msg 51 1) 2) (fld k.msg 52 4) i j (s.rdWords p (tref k.msg 176))
  rw [← hb] at hq
  have hg := mgGemmFx.eq_1 p k s
  rw [hacc] at hg
  dsimp only at hg
  rw [hq] at hg
  exact Stated.ProductDone.of_effect h hg

/-- CG_GEMM runs to its outcome. -/
theorem cgGemm_runs (h : Stated.Runs s p c 0x280 k) (hM : (tref k.msg 80).rows = fld k.msg 60 4)
    (hN : (tref k.msg 112).rows = fld k.msg 64 4) (hacc : s.unitAccess p true (cgGemmUses k) = none) :
    ∃ t, exec (.cgGemm p c) s = .next t ∧ Stated.ProductDone s t p c k (tref k.msg 144) 512
      (if (tref k.msg 112).fmt = 0x0A ∨ (tref k.msg 112).fmt = 9 then 256 else 128)
      (Stated.sums (fld k.msg 60 4) (fld k.msg 64 4) 32 (Stated.row false (s.rdTensor p (tref k.msg 80)))
        (Stated.row false (s.rdTensor p (tref k.msg 112)))
        fun i j => if bit (fld k.msg 51 1) 2 then
          ⟨((s.rdWords p (tref k.msg 176)).getD i []).getD j 0, fld k.msg 72 4, 0⟩ else ⟨0, 0, 0⟩) := by
  have hq := product_eq_sums (L := 32) ((length_rdTensor s p (tref k.msg 80)).trans hM)
    ((length_rdTensor s p (tref k.msg 112)).trans hN) 
    (a := Stated.row false (s.rdTensor p (tref k.msg 80))) (b := Stated.row false (s.rdTensor p (tref k.msg 112)))
    (fun _ _ => rfl) (fun _ _ => rfl)
    fun i j => startSum_eq (bit (fld k.msg 51 1) 2) (fld k.msg 72 4) i j (s.rdWords p (tref k.msg 176))
  have hg := cgGemmFx.eq_1 p k s
  rw [hacc] at hg
  dsimp only at hg
  rw [hq] at hg
  exact Stated.ProductDone.of_effect h hg

/-! ## Attention (R94, R117, R118) -/

/-- An attention output of the grid's tasks of `mt` rows. -/
def State.putAttn (s : State) (p : Nat) (k : Cmd) (stg : Bool) (S mt d o : Nat) (v : List (List Word)) : State :=
  s.wrArray p k.e4nan stg (attnDie k.units S mt d) (tref k.msg o) v

theorem Moves.putAttn (s : State) (p : Nat) (k : Cmd) (stg : Bool) (S mt d o : Nat) (v : List (List Word)) :
    Moves [.mem, .bus, .health] s (s.putAttn p k stg S mt d o v) := Moves.wrArray s _ _ _ _ _ _

theorem State.canon_putAttn (c : s.Canon) (p : Nat) (k : Cmd) (stg : Bool) (S mt d o : Nat) (v : List (List Word)) :
    (s.putAttn p k stg S mt d o v).Canon := (Keeps.wrArray .refl).canon c

theorem attentionCommands : Stated.AttentionCommands := by
  intro s p c k
  refine ⟨fun h hacc => ?_, fun h hacc => ?_, fun h hacc => ?_⟩
  · exact State.unitsDone_of_effect h (g := mgFwdFx p)
      ((Moves.putAttn s p k _ _ _ _ _ _).andThen (Moves.putAttn _ p k _ _ _ _ _ _))
      (State.canon_putAttn (State.canon_putAttn h.canon ..) ..) (.attnPos _ _ _ _ _ _ _)
      ((Keeps.attnPos (Keeps.setNstat .refl)).canon (State.canon_putAttn (State.canon_putAttn h.canon ..) ..))
      (by rw [mgFwdFx, hacc])
  · exact State.unitsDone_of_effect h (g := cgAttnFx p) (Moves.putAttn s p k _ _ _ _ _ _)
      (State.canon_putAttn h.canon ..) (.attnPos _ _ _ _ _ _ _)
      ((Keeps.attnPos (Keeps.setNstat .refl)).canon (State.canon_putAttn h.canon ..))
      (by rw [cgAttnFx, hacc])
  · have hmoves (a b c d : List (List Word)) := (((Moves.putAttn s p k false (fld k.msg 60 4) 256 1 368 a).andThen
      (Moves.putAttn _ p k true (fld k.msg 60 4) 256 (2 ^ fld k.msg 65 1) 272 b)).andThen
      (Moves.putAttn _ p k true (fld k.msg 60 4) 512 (2 ^ fld k.msg 65 1) 304 c)).andThen
      (Moves.putAttn _ p k true (fld k.msg 60 4) 512 (2 ^ fld k.msg 65 1) 336 d)
    have hcanon (a b c d : List (List Word)) := State.canon_putAttn (State.canon_putAttn (State.canon_putAttn
      (State.canon_putAttn h.canon p k false (fld k.msg 60 4) 256 1 368 a)
      p k true (fld k.msg 60 4) 256 (2 ^ fld k.msg 65 1) 272 b)
      p k true (fld k.msg 60 4) 512 (2 ^ fld k.msg 65 1) 304 c)
      p k true (fld k.msg 60 4) 512 (2 ^ fld k.msg 65 1) 336 d
    exact State.unitsDone_of_effect h (g := mgBwdFx p) (hmoves _ _ _ _) (hcanon _ _ _ _) .refl
      ((Keeps.setNstat .refl).canon (hcanon _ _ _ _)) (by rw [mgBwdFx, hacc])

theorem matrixProducts : Stated.MatrixProducts := fun _ _ _ _ =>
  ⟨fun h hM hN hacc => mgGemm_runs h hM hN hacc, fun h hM hN hacc => cgGemm_runs h hM hN hacc⟩


open Sys2Proof Sys2Proof.Machine in
/-- Settles O17: each command runs to its outcome; a product's rows and columns are those of the stored operands. -/
theorem matrixAndAttention : Obligations.MatrixAndAttention := ⟨matrixProducts, attentionCommands⟩

/-! ## The vector commands (R179) -/

/-- One operation of a vector command moves memory alone. -/
theorem Moves.writes (s : State) (p base : Nat) (ws : List (Nat × List Byte)) :
    Moves [.mem] s (ws.foldl (fun s w => s.wr p (base + w.1) w.2) s) := .foldl (fun x _ => .wr x _ _ _) ws s

theorem Keeps.writes {b : Bool} {s0 : State} (p base : Nat) (ws : List (Nat × List Byte)) (h : Keeps b s0 s) :
    Keeps b s0 (ws.foldl (fun s w => s.wr p (base + w.1) w.2) s) := .foldl' _ h fun _ _ hx => .wr hx

theorem vectorCommands : Stated.VectorCommands := by
  intro s p c k tile o q r put h hacc
  have hm : Moves [.mem, .bus, .health] s ((put q.b.2 (put q.x.2 (put q.y.2 s r.y) r.x) r.sb).fhAdd
      (dieOfUnit (gridAt k.units 0)) p o.cls o.fY r.tally) :=
    (((Moves.writes s p _ _).andThen (Moves.writes _ p _ _)).andThen (Moves.writes _ p _ _)).mono.andThen
      (Moves.fhAdd _ _ _ _ _ _)
  have hcanon := (Keeps.fhAdd (a1 := dieOfUnit (gridAt k.units 0)) (a2 := p) (a3 := o.cls) (a4 := o.fY) (a5 := r.tally)
    (Keeps.writes p q.b.2 r.sb (Keeps.writes p q.x.2 r.x (Keeps.writes p q.y.2 r.y .refl)))).canon h.canon
  obtain ⟨t, hex, hmem, hunit, hdone, hsame⟩ := State.runCmd_of_effect (f := fun _ => r.nstat) h hm .refl
    ((Keeps.setNstat .refl).canon hcanon)
    (g := vecFx tile p) (by rw [vecFx, hacc])
  obtain ⟨-, hset, hkeep⟩ := State.setNstat_prefix hcanon k.units (fun _ => r.nstat) k.units.length le_rfl
  refine ⟨t, ?_, hmem.trans (Moves.fhAdd _ _ _ _ _ _).mem, fun u hu => ?_, fun u hu => ?_, hdone, hsame⟩
  · cases tile <;> exact hex
  · obtain ⟨i, hi, rfl⟩ := List.getElem_of_mem hu
    rw [hunit, ← gridAt_of_lt _ hi]
    exact hset (.inr fun _ _ => rfl) i hi
  · rw [hunit, State.setNstat, hkeep u hu, hm.unit]

/-! ## Kernels (R128, R129) -/

/-- Registers S1 to Sn set in turn. -/
def Seqr.setArgs (q : Seqr) (f : Nat → Word) (n : Nat) : Seqr :=
  (List.range n).foldl (fun q i => q.setS (i + 1) (f i)) q

theorem Seqr.setArgs_succ (q : Seqr) (f : Nat → Word) (n : Nat) :
    q.setArgs f (n + 1) = (q.setArgs f n).setS (n + 1) (f n) := by
  rw [Seqr.setArgs, List.range_succ, List.foldl_append, ← Seqr.setArgs]
  rfl

/-- The arguments stand in S1 to Sn; every other register is as after reset. -/
theorem Seqr.setArgs_reset (f : Nat → Word) (n : Nat) :
    let q := Seqr.reset.setArgs f n
    twf 0 q.s = true ∧ (∀ i, i < n → q.S (i + 1) = f i) ∧ (∀ i, n < i → q.S i = 0) ∧
      { q with s := [] } = Seqr.reset := by
  induction n with
  | zero => exact ⟨rfl, fun i hi => absurd hi (Nat.not_lt_zero i), fun i _ => Seqr.S_reset i, rfl⟩
  | succ n ih =>
    obtain ⟨hwf, hset, hzero, hrest⟩ := ih
    rw [Seqr.setArgs_succ]
    have hS (i : Nat) (hi : i ≠ n + 1) : ((Seqr.reset.setArgs f n).setS (n + 1) (f n)).S i =
        (Seqr.reset.setArgs f n).S i := by
      by_cases h0 : i = 0
      · rw [h0]; rfl
      · rw [Seqr.S, Seqr.S, if_neg h0, if_neg h0]
        exact tget_tput_ne _ _ hwf hi
    refine ⟨twf_tput _ _ _ hwf, fun i hi => ?_, fun i hi => ?_, hrest⟩
    · by_cases hin : i = n
      · subst hin
        exact tget_tput_same _ _ _ hwf
      · rw [hS _ (by omega)]
        exact hset i (by omega)
    · rw [hS _ (by omega)]
      exact hzero i (by omega)

/-- Each listed unit holds what a change makes of it that a second turn leaves, every other unit is as it was. -/
theorem State.foldl_modUnit (c : s.Canon) (us : List Nat) (f : SeqUnit → SeqUnit) (hf : ∀ x, f (f x) = f x) :
    let t := us.foldl (fun s u => s.modUnit u f) s
    Moves [.units] s t ∧ (∀ u ∈ us, t.unit u = f (s.unit u)) ∧ ∀ u, u ∉ us → t.unit u = s.unit u := by
  induction us generalizing s with
  | nil => exact ⟨.refl, nofun, fun _ _ => rfl⟩
  | cons v us ih =>
    obtain ⟨hm, hset, hkeep⟩ := ih (s := s.modUnit v f) (State.canon_setUnit c _ _)
    have hv (u : Nat) (hu : u ≠ v) : (s.modUnit v f).unit u = s.unit u := State.unit_setUnit_ne c _ hu
    have hvv : (s.modUnit v f).unit v = f (s.unit v) := State.unit_setUnit c _ _
    refine ⟨(Moves.setUnit s _ _).andThen hm, fun u hu => ?_, fun u hu => ?_⟩
    · by_cases huv : u = v
      · subst huv
        by_cases hmem : u ∈ us
        · rw [List.foldl_cons, hset u hmem, hvv, hf]
        · rw [List.foldl_cons, hkeep u hmem, hvv]
      · rw [List.foldl_cons, hset u ((List.mem_cons.mp hu).resolve_left huv), hv u huv]
    · rw [List.foldl_cons, hkeep u fun h => hu (List.mem_cons_of_mem _ h),
        hv u fun h => hu (h ▸ List.mem_cons_self)]

/-- A unit with the program and the arguments of a kernel command loaded. -/
def State.loaded (s : State) (p : Nat) (m : List Byte) (x : SeqUnit) : SeqUnit :=
  { x with
    run := .running
    imem := (List.range (fld m 52 4)).map fun i => s.rdW p (fld m 56 8 + 4 * i)
    seq := Seqr.reset.setArgs (fun i => w32 (fld m (80 + 4 * i) 4)) 8 }

/-- A loaded unit starts at word 0 with its arguments in S1 to S8 and everything else as after reset. -/
theorem State.loaded_starts (s : State) (p : Nat) (m : List Byte) (x : SeqUnit) :
    let y := s.loaded p m x
    y.run = .running ∧ y.seq.pc = 0 ∧
      y.imem = (List.range (fld m 52 4)).map
        (fun i => BitVec.ofNat 32 (leNat (s.rd p (fld m 56 8 + 4 * i) 4))) ∧
      (∀ i, i < 8 → y.seq.S (i + 1) = BitVec.ofNat 32 (fld m (80 + 4 * i) 4)) ∧
      (∀ i, 8 < i → y.seq.S i = 0) ∧ (∀ i, 0 < i → i < 8 → y.seq.P i = false) ∧
      y.seq.nstat = 0 ∧ y.seq.cycle = 0 ∧ y.seq.bars = 0 := by
  obtain ⟨-, hargs, hzero, hrest⟩ := Seqr.setArgs_reset (fun i => w32 (fld m (80 + 4 * i) 4)) 8
  dsimp only [State.loaded]
  generalize Seqr.reset.setArgs (fun i => w32 (fld m (80 + 4 * i) 4)) 8 = q at *
  obtain ⟨qs, qp, pc, nstat, cycle, bars, rowOk, linkNr⟩ := q
  obtain ⟨-, rfl, rfl, rfl, rfl, rfl, -⟩ := Seqr.mk.inj hrest
  refine ⟨rfl, rfl, rfl, hargs, hzero, fun i h0 h8 => ?_, rfl, rfl, rfl⟩
  exact (Seqr.P_reset h8).trans (beq_eq_false_iff_ne.mpr (by omega))

theorem kernelCommandsStart : Stated.KernelCommandsStart := by
  intro s p c k tile m n hc hk hop hph hout hlive hup hidle hacc
  have hrow : s.kernelRow p c (if tile then 0x283 else 0x203) = .next (s.kernelRun p k) := by
    rw [State.kernelRow, hk]
    exact if_pos ⟨hop, hph, hout, hlive, hup, List.all_eq_true.mpr fun u hu => beq_iff_eq.mpr (hidle u hu)⟩
  obtain ⟨hm, hset, hkeep⟩ := State.foldl_modUnit hc k.units (s.loaded p m) fun _ => rfl
  have hrun : s.kernelRun p k = k.units.foldl (fun s' u => s'.modUnit u (s.loaded p m)) s := by
    rw [State.kernelRun, hacc]
    rfl
  refine ⟨s.kernelRun p k, ?_, ?_, fun u hu => ?_, fun u hu => ?_⟩
  · cases tile <;> exact hrow
  · rw [hrun, hm.mem]
  · rw [hrun, hset u hu]
    exact State.loaded_starts s p m (s.unit u)
  · rw [hrun, hkeep u hu]

open Sys2Proof Sys2Proof.Machine in
/-- Settles O18: the operation's writes move memory alone; every unit of a grid starts with the same registers. -/
theorem vectorAndKernelCommands : Obligations.VectorAndKernelCommands := ⟨vectorCommands, kernelCommandsStart⟩

end Sys2Proof.Machine
end

section
/-! SUPPORT. Logit units (R97, R182, R184, R185): offered in order, admitted, counted, and the end of a CG_LOGIT. -/
set_option Elab.async false

namespace Sys2Proof.Machine

variable {s t r : State} {p c i j d b : Nat} {k : Cmd} {w : LogitUnit}

theorem Moves.setSprue (s : State) (x : Sprue) : Moves [.sprue] s (s.setSprue x) := by
  intro f hf
  cases f with
  | sprue => exact absurd List.mem_cons_self hf
  | _ => rfl

theorem State.canon_setSprue (hc : s.Canon) (x : Sprue) : (s.setSprue x).Canon := (Keeps.setSprue .refl).canon hc

/-! ## The end of a CG_LOGIT -/

/-- The outcome of a CG_LOGIT that ends with every unit delivered. -/
def State.logitDone (s : State) (p c : Nat) (us : List Nat) : Compl :=
  ⟨0, 0, 0, s.nstatOf us, leBytes 4 (count (fun e => nth 0 e 0 == p && nth 0 e 1 == c) s.sprue.sent)⟩

/-- The end of a CG_LOGIT moves its partition and the Sprue's lists: its outcome stands,
  none of its units is counted. -/
theorem State.endLogit_done (hc : s.Canon) (hk : s.cmd? p c = some k) :
    Moves [.parts, .sprue] s (s.endLogit p c 0) ∧ Stated.DoneWith (s.endLogit p c 0) p c (s.logitDone p c k.units) ∧
      ∀ e ∈ (s.endLogit p c 0).sprue.sent, ¬ (nth 0 e 0 = p ∧ nth 0 e 1 = c) := by
  unfold State.endLogit
  rw [hk]
  dsimp only
  refine ⟨(Moves.setSprue s _).mono (l' := [.parts, .sprue]) |>.andThen (Moves.modCmd _ _ _ _), ?_, fun e he hpc => ?_⟩
  · exact State.doneWith_modCmd (State.canon_setSprue hc _) hk
  · have hne := (List.mem_filter.mp he).2
    rw [hpc.1, hpc.2] at hne
    simp at hne

/-- CG_LOGIT completes once every unit is delivered. -/
theorem cgLogit_completes (h : Stated.SprueRuns s p c 0x281 k) (hlive : s.cmdLive k = true)
    (hun : s.unhalted k = true) (hacc : s.unitAccess p true (gridUses k.units (clUses k.msg)) = none)
    (hn : clTiles k.msg * clCols k.msg ≤ count (fun e => nth 0 e 0 == p && nth 0 e 1 == c) s.sprue.sent) :
    ∃ t, exec (.cgLogit p c) s = .next t ∧ t.mem = s.mem ∧ Stated.DoneWith t p c (s.logitDone p c k.units) ∧
      ∀ e ∈ t.sprue.sent, ¬ (nth 0 e 0 = p ∧ nth 0 e 1 = c) := by
  obtain ⟨hm, ⟨k', hk', hout⟩, hsent⟩ := State.endLogit_done h.canon h.cmd
  have hb := Moves.ofBusOnly (BusOnly.gemmPos (s.endLogit p c 0) k.units (fld k.msg 49 1) (fld k.msg 50 1)
    (clTiles k.msg) (clCols k.msg) (cdiv (fld k.msg 68 4) 256))
  refine ⟨_, ?_, hb.mem.trans hm.mem, ⟨k', (hb.cmd? (by decide) p c).trans hk', hout⟩,
    fun e he => hsent e (hb.sprue ▸ he)⟩
  change execCgLogit p c s = _
  rw [execCgLogit, h.cmd]
  dsimp only
  rw [if_pos ⟨h.isOp, h.phase, h.out, hlive, hun, h.up⟩, hacc]
  exact if_pos hn

/-! ## Units offered (R90, R97, R184) -/

theorem length_mapRange {α : Type} (f : Nat → α) (n : Nat) : ((List.range n).map f).length = n := by
  rw [List.length_map, List.length_range]

theorem getD_mapRange {α : Type} (f : Nat → List α) {n i : Nat} (h : i < n) :
    ((List.range n).map f).getD i [] = f i := by
  rw [List.getD_eq_getElem _ _ (by rwa [length_mapRange]), List.getElem_map, List.getElem_range]

/-- The sums of unit (i, j). -/
def State.unitSums (s : State) (p : Nat) (m : List Byte) (i j : Nat) : List (List RSum) :=
  Stated.sums (min 512 (fld m 60 4 - 512 * i)) (clNw m) 32 (fun r => s.rdRow p (tref m 80) (512 * i + r))
    (fun q => s.rdRow p (tref m 112) (clNw m * j + q)) fun _ _ => ⟨0, 0, 0⟩

/-- How often the halves of column block `j` have been delivered before. -/
def State.unitsBefore (s : State) (p mb blk nw j : Nat) : Nat :=
  ((unitKeys p mb blk nw j).map fun k => count (· == k) s.sprue.deliv).foldl max 0

/-- A unit in its order, with a free bank and its range within reach, waits at the Sprue. -/
theorem logitUnitOffer_waits (h : Stated.SprueRuns s p c 0x281 k) (hlive : s.cmdLive k = true)
    (hun : s.unhalted k = true) (hpass : s.passesOk k = true) (hi : i < clTiles k.msg) (hj : j < clCols k.msg)
    (hgone : s.unitGone p c i j = false)
    (hearlier : ∀ i' j', i' < clTiles k.msg → j' ≤ j → clPos k.msg i' j' = clPos k.msg i j →
      (j' = j ∧ i ≤ i') ∨ s.unitGone p c i' j' = true)
    (hbank : count (fun w => w.part == p && w.cid == c && clPos k.msg w.i w.j == clPos k.msg i j) s.sprue.waiting < 2)
    (hacc : s.unitAccess p true [(gridAt k.units (clPos k.msg i j), clRanges k.msg i j)] = none)
    (hfirst : fld k.msg 72 4 % 512 = 0) (hmb : s.doneMb p ≤ fld k.msg 52 4) (hlock : s.topk p = false)
    (hbefore : s.unitsBefore p (fld k.msg 52 4) ((fld k.msg 72 4 + 512 * i) / 512) (clNw k.msg) j < 2) :
    ∃ t, exec (.logitUnitOffer p c i j) s = .next t ∧ t.mem = s.mem ∧
      (t.unit (gridAt k.units (clPos k.msg i j))).seq.nstat =
        (s.unit (gridAt k.units (clPos k.msg i j))).seq.nstat ||| w32 (flagsOf (s.unitSums p k.msg i j)) ∧
      t.sprue.waiting = s.sprue.waiting ++ [⟨p, c, dieOfUnit (gridAt k.units (clPos k.msg i j)), fld k.msg 52 4,
        (fld k.msg 72 4 + 512 * i) / 512, j * clNw k.msg / 256, min 512 (fld k.msg 60 4 - 512 * i),
        s.unitsBefore p (fld k.msg 52 4) ((fld k.msg 72 4 + 512 * i) / 512) (clNw k.msg) j + 1, i, j, clNw k.msg,
        (s.unitSums p k.msg i j).map fun r => r.map (·.v)⟩] := by
  have hsums : product 32 ((List.range (min 512 (fld k.msg 60 4 - 512 * i))).map fun r =>
        s.rdRow p (tref k.msg 80) (512 * i + r))
      ((List.range (clNw k.msg)).map fun q => s.rdRow p (tref k.msg 112) (clNw k.msg * j + q)) (fun _ _ => .zero) =
      s.unitSums p k.msg i j :=
    product_eq_sums (length_mapRange ..) (length_mapRange ..) (fun _ h => getD_mapRange _ h)
      (fun _ h => getD_mapRange _ h) fun _ _ => rfl
  have hall : ((List.range (j + 1)).all fun j' => (List.range (clTiles k.msg)).all fun i' =>
      clPos k.msg i' j' ≠ clPos k.msg i j || (j' == j && decide (i ≤ i')) || s.unitGone p c i' j') = true := by
    refine List.all_eq_true.mpr fun j' hj' => List.all_eq_true.mpr fun i' hi' => ?_
    have hor := hearlier i' j' (List.mem_range.mp hi') (Nat.le_of_lt_succ (List.mem_range.mp hj'))
    simp only [Bool.or_eq_true, Bool.and_eq_true, beq_iff_eq, decide_eq_true_eq]
    by_cases hpos : clPos k.msg i' j' = clPos k.msg i j
    · exact or_assoc.mpr (.inr (hor hpos))
    · exact .inl (.inl hpos)
  have hex : exec (.logitUnitOffer p c i j) s = execLogitUnitOffer p c i j s := rfl
  rw [execLogitUnitOffer, h.cmd] at hex
  dsimp only at hex
  rw [if_pos ⟨h.isOp, h.phase, h.out, hlive, hun, hpass, h.up, hi, hj, by rw [hgone]; rfl, hall, hbank⟩, hacc] at hex
  dsimp only at hex
  rw [hsums, if_neg (not_not.mpr hfirst)] at hex
  generalize hx : s.modUnit _ _ = x at hex
  have hm : Moves [.units] s x := hx ▸ Moves.setUnit s _ _
  have hmb' : x.doneMb p = s.doneMb p := by rw [State.doneMb, hm.sprue, ← State.doneMb]
  have hlock' : x.topk p = false := by rw [State.topk, State.pcfg, hm.pg, ← State.pcfg, ← State.topk, hlock]
  rw [hmb', hlock', if_neg (Nat.not_lt.mpr hmb), if_neg fun h => Nat.not_le.mpr hbefore h.2, if_neg nofun,
    if_neg nofun] at hex
  exact ⟨_, hex, hm.mem, hx ▸ congrArg (fun y : SeqUnit => y.seq.nstat) (State.unit_setUnit h.canon _ _),
    by rw [State.setSprue_sprue, hm.sprue]; rfl⟩

/-! ## Units admitted (R182, R185) -/

/-- A waiting unit that its home die may take: the die runs, its intake is in order, the unit's command is not held. -/
structure State.Admissible (s : State) (d p b j : Nat) (w : LogitUnit) : Prop where
  live : s.live d = true
  up : (s.part p).st ≠ .faulted
  low : 1 ≤ s.intake p d
  high : s.intake p d ≤ 16
  held : ∀ k', s.cmd? p w.cid = some k' → k'.phase = .running ∨ k'.phase = .saving
  waits : s.sprue.waiting.find? (fun x => x.part == p && x.mb == w.mb && x.blk == b && x.j == j) = some w

/-- What the admission of a waiting unit comes to. -/
def State.admission (s : State) (d p : Nat) (w : LogitUnit) : Option State :=
  let free : Bool := decide (s.intakeOcc p d < s.intake p d)
  if w.nw = 256 then (if free then s.admitUnit d p w else none)
  else match s.otherHalf w with
    | some v => (s.setSprue { s.sprue with halves := s.sprue.halves.erase v }).admitUnit d p (w.with v)
    | none =>
      if free ∧ (s.admitUnit d p w).isSome then
        some (s.setSprue { s.sprue with halves := s.sprue.halves ++ [w] })
      else none

/-- The unit's command neither runs nor is being saved. -/
def State.logitHeld (s : State) (p : Nat) (w : LogitUnit) : Bool :=
  match s.cmd? p w.cid with
  | some k => !(k.phase == .running || k.phase == .saving)
  | none => false

/-- A unit leaves the waiting ones for those sent. -/
def State.unitSent (s : State) (p : Nat) (w : LogitUnit) : State :=
  s.setSprue { s.sprue with waiting := s.sprue.waiting.erase w, sent := s.sprue.sent ++ [[p, w.cid, w.i, w.j]] }

/-- The counters of a unit that has been sent: its home die's, and the traffic between the dies where it crosses. -/
def State.unitCounted (s : State) (d p : Nat) (w : LogitUnit) : State :=
  let t := (s.unitSent p w).count32 .sprue d (0x5C + 0x20 * p) 1
  if w.die = d then t else t.count64 .sprue w.die 0x144 (w.nrows * w.nw * 4)

/-- An admitted unit leaves the waiting ones and is counted. -/
theorem sprueUnitAdmit_sent (h : s.Admissible d p b j w) (hr : s.admission d p w = some r)
    (hup : (r.part p).st ≠ .faulted) :
    ∃ t, exec (.sprueUnitAdmit d p w.mb b j) s = .next t ∧ Moves [.bus] (r.unitSent p w) t := by
  have hex : exec (.sprueUnitAdmit d p w.mb b j) s =
      if !s.live d ∨ (s.part p).st = .faulted ∨ s.intake p d = 0 ∨ 16 < s.intake p d ∨ s.logitHeld p w then .next s
      else match s.admission d p w with
        | some t => if (t.part p).st = .faulted then .next t else .next (t.unitCounted d p w)
        | none => .next s := by
    change execSprueUnitAdmit d p w.mb b j s = _
    rw [execSprueUnitAdmit, h.waits]
    rfl
  have hheld : s.logitHeld p w = false := by
    unfold State.logitHeld
    split
    · rename_i k' hk'
      obtain hph | hph := h.held k' hk' <;> rw [hph] <;> rfl
    · rfl
  have hgo : ¬ (!s.live d ∨ (s.part p).st = .faulted ∨ s.intake p d = 0 ∨ 16 < s.intake p d ∨ s.logitHeld p w) := by
    have hlow := h.low
    have hhigh := h.high
    simp only [hheld, h.live, h.up, Bool.not_true, Bool.false_eq_true, false_or, or_false]
    omega
  rw [if_neg hgo, hr] at hex
  exact ⟨_, hex.trans (if_neg hup), Moves.ofBusOnly (.trans .count32 (.ite .refl .count64))⟩

/-- Admission of a waiting unit as the statement words it: with what the admission leaves. -/
theorem logitUnit_admitted (h : s.Admissible d p b j w) :
    let half := s.sprue.halves.find? fun v =>
      v.part == w.part && v.mb == w.mb && v.blk == w.blk && v.col == w.col && v.pass == w.pass
    let through (r : State) : Prop := ∃ t, exec (.sprueUnitAdmit d p w.mb b j) s = .next t ∧ t.mem = r.mem ∧
      t.sprue.blks = r.sprue.blks ∧ t.sprue.waiting = r.sprue.waiting.erase w ∧
      t.sprue.sent = r.sprue.sent ++ [[p, w.cid, w.i, w.j]]
    (∀ r, w.nw = 256 → s.intakeOcc p d < s.intake p d → s.admitUnit d p w = some r →
      (r.part p).st ≠ .faulted → through r) ∧
    (∀ v r, w.nw ≠ 256 → half = some v →
      (s.setSprue { s.sprue with halves := s.sprue.halves.erase v }).admitUnit d p (w.with v) = some r →
      (r.part p).st ≠ .faulted → through r) ∧
    (w.nw ≠ 256 → half = none → s.intakeOcc p d < s.intake p d → (s.admitUnit d p w).isSome = true →
      ∃ t, exec (.sprueUnitAdmit d p w.mb b j) s = .next t ∧ t.mem = s.mem ∧ t.sprue.blks = s.sprue.blks ∧
        t.sprue.halves = s.sprue.halves ++ [w] ∧ t.sprue.waiting = s.sprue.waiting.erase w) := by
  intro half through
  have hthrough (r : State) (hr : s.admission d p w = some r) (hup : (r.part p).st ≠ .faulted) : through r := by
    obtain ⟨t, hex, hm⟩ := sprueUnitAdmit_sent h hr hup
    exact ⟨t, hex, hm.mem, by rw [hm.sprue]; rfl, by rw [hm.sprue]; rfl, by rw [hm.sprue]; rfl⟩
  refine ⟨fun r hw hfree hr => hthrough r ?_, fun v r hw hv hr => hthrough r ?_, fun hw hv hfree hr => ?_⟩
  · rw [State.admission, if_pos hw, decide_eq_true hfree]
    exact hr
  · have hhalf : s.otherHalf w = some v := hv
    rw [State.admission, if_neg hw, hhalf]
    exact hr
  · have hhalf : s.otherHalf w = none := hv
    have hadm : s.admission d p w = some (s.setSprue { s.sprue with halves := s.sprue.halves ++ [w] }) := by
      rw [State.admission, if_neg hw, hhalf]
      exact if_pos ⟨decide_eq_true hfree, hr⟩
    obtain ⟨t, hex, hm⟩ := sprueUnitAdmit_sent h hadm h.up
    exact ⟨t, hex, hm.mem, by rw [hm.sprue]; rfl, by rw [hm.sprue]; rfl, by rw [hm.sprue]; rfl⟩

open Sys2Proof Sys2Proof.Machine in
/-- Settles O19: a CG_LOGIT, a unit offered and a unit admitted each take the branch that their conditions leave. -/
theorem logitUnits : Obligations.LogitUnits := by
  intro s p c k m tiles f nw cols count'
  refine ⟨fun h hlive hun hacc hn => ?_, fun i j => ?_, fun d b j w hc hlive hup hlow hhigh hheld hw => ?_⟩
  · exact cgLogit_completes h hlive hun hacc hn
  · intro h hlive hun hpass pos u mb blk n sums seen before hi hj hgone hearlier hbank hacc hfirst hmb hlock hbefore
    have hb : s.unitsBefore p mb blk nw j = before := by
      change State.unitsBefore s p mb blk nw j = if nw = 256 then max (seen 0) (seen 1) else seen (j % 2)
      unfold State.unitsBefore unitKeys
      by_cases hnw : nw = 256
      · rw [if_pos hnw, if_pos hnw]
        exact congrArg (max · _) (Nat.zero_max _)
      · rw [if_neg hnw, if_neg hnw]
        exact Nat.zero_max _
    have hwaits := logitUnitOffer_waits h hlive hun hpass hi hj hgone hearlier hbank hacc hfirst hmb hlock
      (hb.trans_lt hbefore)
    exact hb ▸ hwaits
  · exact logitUnit_admitted ⟨hlive, hup, hlow, hhigh, hheld, hw⟩

end Sys2Proof.Machine
end

section
/-! SUPPORT. What a write under a tag sees, and the row blocks of the Sprue (R186 to R196): put, found, freed. -/
set_option Elab.async false

namespace Sys2Proof.Machine

variable {s t z : State} {p c b tag a : Nat} {k : Cmd} {r x : RowBlk}

/-! ## What a write sees -/

/-- The two states agree on memory and on what decides whether a byte is written: rights, and the pins of West. -/
structure SameWrites (s t : State) : Prop where
  mem : t.mem = s.mem
  taps : t.taps = s.taps
  stk : t.stk = s.stk
  parts : t.parts = s.parts

namespace SameWrites

theorem refl : SameWrites s s := ⟨rfl, rfl, rfl, rfl⟩

theorem symm (h : SameWrites s t) : SameWrites t s := ⟨h.mem.symm, h.taps.symm, h.stk.symm, h.parts.symm⟩

theorem trans (h : SameWrites s t) (h' : SameWrites t z) : SameWrites s z :=
  ⟨h'.mem.trans h.mem, h'.taps.trans h.taps, h'.stk.trans h.stk, h'.parts.trans h.parts⟩

theorem ofMoves {l : List Field} (h : Moves l s t) (hm : .mem ∉ l := by decide) (ht : .taps ∉ l := by decide)
    (hk : .stk ∉ l := by decide) (hp : .parts ∉ l := by decide) : SameWrites s t :=
  ⟨h .mem hm, h .taps ht, h .stk hk, h .parts hp⟩

theorem allows (h : SameWrites s t) (tag : Nat) (w : Bool) (a : Nat) : t.allows tag w a = s.allows tag w a := by
  have hgran (i : Nat) : t.gran i = s.gran i := State.gran_of_stk h.stk i
  have hstack (i : Nat) : t.stack i = s.stack i := congrArg (fun x : Stacks => tget Stack.reset x.st i) h.stk
  have hpart (i : Nat) : t.part i = s.part i := State.part_eq_of_parts h.parts i
  simp only [State.allows, State.codeAt, State.codeAllows, hgran, hstack, hpart]

theorem firstBad (h : SameWrites s t) (tag : Nat) (w : Bool) (a n : Nat) :
    t.firstBad tag w a n = s.firstBad tag w a n := by
  have hgo (e m : Nat) : ∀ a, t.firstBadGo tag w e m a = s.firstBadGo tag w e m a := by
    induction m with
    | zero => exact fun _ => rfl
    | succ m ih => intro a; rw [State.firstBadGo, State.firstBadGo, h.allows, ih]
  rw [State.firstBad, State.firstBad, hgo]

/-- A write of a byte to each. -/
theorem setByte (h : SameWrites s t) (a : Nat) (x : Byte) : SameWrites (s.setByte a x) (t.setByte a x) :=
  ⟨by rw [State.setByte, State.setByte, State.setMem, h.mem]; rfl, h.taps, h.stk, h.parts⟩

theorem forN {f g : Nat → State → State} (hf : ∀ i x y, SameWrites x y → SameWrites (f i x) (g i y)) (n : Nat)
    (h : SameWrites s t) : SameWrites (Machine.forN n s f) (Machine.forN n t g) := by
  induction n with
  | zero => exact h
  | succ n ih => rw [forN_succ, forN_succ]; exact hf n _ _ ih

theorem setBytes (h : SameWrites s t) (a : Nat) (bs : List Byte) : SameWrites (s.setBytes a bs) (t.setBytes a bs) := by
  induction bs generalizing s t a with
  | nil => exact h
  | cons x bs ih => exact ih (h.setByte a x) (a + 1)

theorem wr (h : SameWrites s t) (tag a : Nat) (bs : List Byte) : SameWrites (s.wr tag a bs) (t.wr tag a bs) := by
  have hdrives : t.drives 0 = s.drives 0 := by rw [State.drives, State.drives, State.tap, State.tap, h.taps]
  rw [State.wr, State.wr, hdrives, h.firstBad]
  split
  · exact h
  · split
    · exact h.setBytes a bs
    · refine forN (fun i x y hxy => ?_) _ h
      rw [hxy.allows]
      split
      · exact hxy.setByte _ _
      · exact hxy

theorem wrPart (h : SameWrites s t) (p : Nat) (y : TRef) (row c : Nat) (vs : List Word) :
    SameWrites (s.wrPart p y row c vs) (t.wrPart p y row c vs) := h.wr _ _ _

theorem wrLosses (h : SameWrites s t) (p : Nat) (m : List Byte) (at' row : Nat) (ls : List Word) :
    SameWrites (s.wrLosses p m at' row ls) (t.wrLosses p m at' row ls) := by
  unfold State.wrLosses
  split
  · exact h
  · exact h.wr _ _ _

theorem foldl {α : Type} {f : State → α → State} (hf : ∀ x y e, SameWrites x y → SameWrites (f x e) (f y e))
    (es : List α) (h : SameWrites s t) : SameWrites (es.foldl f s) (es.foldl f t) := by
  induction es generalizing s t with
  | nil => exact h
  | cons e es ih => exact ih (hf _ _ e h)

end SameWrites

theorem Moves.wrPart (s : State) (p : Nat) (y : TRef) (row c : Nat) (vs : List Word) :
    Moves [.mem] s (s.wrPart p y row c vs) := Moves.wr s _ _ _

theorem Moves.wrLosses (s : State) (p : Nat) (m : List Byte) (at' row : Nat) (ls : List Word) :
    Moves [.mem] s (s.wrLosses p m at' row ls) := .ite .refl (Moves.wr s _ _ _)

theorem BusOnly.nfCount (s : State) (d p n : Nat) : BusOnly s (s.nfCount d p n) :=
  .ite .refl (.trans .count32 (.evSet (k := .sprue) (by decide)))

/-! ## Row blocks put -/

/-- The first row block with the keys of another. -/
def RowBlk.sameKey (r x : RowBlk) : Bool :=
  x.teacherSide == r.teacherSide && x.stateOnly == r.stateOnly && x.part == r.part && x.mb == r.mb &&
    x.blk == r.blk && (!r.stateOnly || x.cid == r.cid)

/-- The row blocks with one replaced, or added. -/
def putBlks (l : List RowBlk) (r : RowBlk) : List RowBlk :=
  if l.any r.sameKey then updFirst r.sameKey (fun _ => r) l else l ++ [r]

theorem State.putBlk_eq (s : State) (r : RowBlk) : s.putBlk r = s.setSprueBlks (putBlks s.sprue.blks r) := rfl

theorem Moves.setSprueBlks (s : State) (l : List RowBlk) : Moves [.sprue] s (s.setSprueBlks l) := Moves.setSprue s _

/-- What a search that knows the replaced entry by its keys finds: the new one. `q` is what is searched for. -/
theorem find?_putBlks_self {l : List RowBlk} {r : RowBlk} {q : RowBlk → Bool} (hq : q r = true)
    (hfirst : ∀ x, l.find? q = some x → r.sameKey x = true) : (putBlks l r).find? q = some r := by
  by_cases hany : l.any r.sameKey
  · rw [putBlks, if_pos hany]
    induction l with
    | nil => cases hany
    | cons x l ih =>
      by_cases hx : r.sameKey x
      · rw [updFirst, if_pos hx, List.find?_cons_of_pos hq]
      · have hqx : ¬ q x = true := fun h => hx (hfirst x (List.find?_cons_of_pos h))
        rw [updFirst, if_neg hx, List.find?_cons_of_neg hqx]
        refine ih (fun y hy => hfirst y ?_) ?_
        · rwa [List.find?_cons_of_neg hqx]
        · rwa [List.any_cons, Bool.eq_false_iff.mpr hx, Bool.false_or] at hany
  · have hnone : l.find? q = none := by
      cases hl : l.find? q with
      | none => rfl
      | some x => exact absurd (List.any_eq_true.mpr ⟨x, List.mem_of_find?_eq_some hl, hfirst x hl⟩) hany
    rw [putBlks, if_neg hany, List.find?_append, hnone, Option.none_or, List.find?_cons_of_pos hq]

/-- A search for other keys finds what it found before. -/
theorem find?_putBlks_ne {l : List RowBlk} {r : RowBlk} {q : RowBlk → Bool} (hq : q r = false)
    (hkey : ∀ x, r.sameKey x = true → q x = false) : (putBlks l r).find? q = l.find? q := by
  have hqr : ¬ q r = true := Bool.eq_false_iff.mp hq
  have hupd (l : List RowBlk) : (updFirst r.sameKey (fun _ => r) l).find? q = l.find? q := by
    induction l with
    | nil => rfl
    | cons x l ih =>
      by_cases hx : r.sameKey x
      · rw [updFirst, if_pos hx, List.find?_cons_of_neg hqr, List.find?_cons_of_neg (Bool.eq_false_iff.mp (hkey x hx))]
      · rw [updFirst, if_neg hx, List.find?_cons, List.find?_cons, ih]
  unfold putBlks
  split
  · exact hupd l
  · rw [List.find?_append, List.find?_cons_of_neg hqr]
    exact Option.or_none

/-- A replaced or added slot is the one found. -/
theorem State.slot?_putBlk (ho : r.stateOnly = true)
    (hfirst : ∀ x, s.slot? r.part r.cid r.blk = some x → r.sameKey x = true) :
    (s.putBlk r).slot? r.part r.cid r.blk = some r :=
  find?_putBlks_self (by simp [ho]) hfirst

/-- The slots of other row blocks stay. -/
theorem State.slot?_putBlk_ne (h : b ≠ r.blk) : (s.putBlk r).slot? p c b = s.slot? p c b :=
  find?_putBlks_ne (by simp [h.symm]) fun x hx => by
    simp only [RowBlk.sameKey, Bool.and_eq_true, beq_iff_eq] at hx
    obtain ⟨⟨-, hb⟩, -⟩ := hx
    simp [hb, h.symm]

/-- The row blocks of one side that are no slots of a command: the one put is the one found. -/
theorem State.blk?_putBlk (ho : r.stateOnly = false) :
    (s.putBlk r).blk? r.teacherSide r.part r.mb r.blk = some r :=
  find?_putBlks_self (by simp [ho]) fun x hx => by
    have hx := List.find?_some hx
    simpa [RowBlk.sameKey, ho, and_assoc, and_comm, and_left_comm] using hx

/-! ## The end of a command with slots -/

/-- A selection that drops nothing. -/
theorem length_filterMap_eq_iff {α β : Type} (f : α → Option β) (l : List α) :
    (l.filterMap f).length = l.length ↔ ∀ a ∈ l, ∃ x, f a = some x := by
  induction l with
  | nil => exact ⟨fun _ => nofun, fun _ => rfl⟩
  | cons a l ih =>
    have hle := List.length_filterMap_le f l
    cases ha : f a with
    | none =>
      rw [List.filterMap_cons_none ha, List.length_cons]
      refine ⟨fun h => by omega, fun h => ?_⟩
      obtain ⟨x, hx⟩ := h a List.mem_cons_self
      rw [ha] at hx
      cases hx
    | some x =>
      rw [List.filterMap_cons_some ha, List.length_cons, List.length_cons, Nat.succ_inj, ih, List.forall_mem_cons, ha]
      exact ⟨fun h => ⟨⟨x, rfl⟩, h⟩, fun h => h.2⟩

theorem map_filterMap_getD {α β γ : Type} {f : α → Option β} (h : β → γ) (d : γ) (l : List α)
    (hl : ∀ a ∈ l, ∃ x, f a = some x) : (l.filterMap f).map h = l.map fun a => ((f a).map h).getD d := by
  induction l with
  | nil => rfl
  | cons a l ih =>
    obtain ⟨x, hx⟩ := hl a List.mem_cons_self
    rw [List.filterMap_cons_some hx, List.map_cons, List.map_cons, hx, ih fun a ha => hl a (List.mem_cons_of_mem _ ha)]
    rfl

theorem flatMap_filterMap_getD {α β γ : Type} (f : α → Option β) (h : β → List γ) (l : List α) :
    (l.filterMap f).flatMap h = l.flatMap fun a => ((f a).map h).getD [] := by
  induction l with
  | nil => rfl
  | cons a l ih =>
    cases ha : f a with
    | none => rw [List.filterMap_cons_none ha, List.flatMap_cons, ha, ih]; rfl
    | some x => rw [List.filterMap_cons_some ha, List.flatMap_cons, List.flatMap_cons, ha, ih]; rfl

theorem any_filterMap_getD {α β : Type} (f : α → Option β) (h : β → Bool) (l : List α) :
    (l.filterMap f).any h = l.any fun a => ((f a).map h).getD false := by
  induction l with
  | nil => rfl
  | cons a l ih =>
    cases ha : f a with
    | none => rw [List.filterMap_cons_none ha, List.any_cons, ha, ih]; rfl
    | some x => rw [List.filterMap_cons_some ha, List.any_cons, List.any_cons, ha, ih]; rfl

theorem sprueDone_eq (losses : List Word) (oob nf : Nat) (clamp : Bool) :
    sprueDone losses losses.length oob nf clamp = Stated.sprueOk losses oob nf clamp := by
  have hempty : (if losses.length = 0 then cfEMPTY else 0) = if losses = [] then 16 else 0 :=
    if_congr List.length_eq_zero_iff rfl rfl
  rw [sprueDone, hempty]
  rfl

/-- Every row block of the command is done on a die that runs. -/
def State.SlotsThrough (s : State) (p : Nat) (k : Cmd) : Prop :=
  ∀ b ∈ rowBlocks (fld k.msg 56 4) (fld k.msg 60 4), ∃ r, s.slot? p k.cid b = some r ∧ r.rowLoss ≠ [] ∧
    s.live r.die = true

/-- What the done slots of a command come to. -/
def State.slotsOutcome (s : State) (p : Nat) (k : Cmd) : Compl :=
  let bs := rowBlocks (fld k.msg 56 4) (fld k.msg 60 4)
  let sum (f : RowBlk → Nat) : Nat := (bs.map fun b => ((s.slot? p k.cid b).map f).getD 0).foldl (· + ·) 0
  Stated.sprueOk ((bs.flatMap fun b => ((s.slot? p k.cid b).map (·.rowLoss)).getD []).filterMap id) (sum (·.oob))
    (sum (·.nonfin)) (bs.any fun b => ((s.slot? p k.cid b).map (·.clamp)).getD false)

/-- The condition that `slotsDone` tests. -/
theorem State.slotsThrough_iff :
    let bs := rowBlocks (lFirst k.msg) (lRows k.msg)
    let blks := bs.filterMap fun b => s.slot? p k.cid b
    (blks.length = bs.length ∧ blks.all (fun r => !r.rowLoss.isEmpty && s.live r.die)) ↔ s.SlotsThrough p k := by
  intro bs blks
  rw [length_filterMap_eq_iff, List.all_eq_true]
  simp only [Bool.and_eq_true, Bool.not_eq_true', List.isEmpty_eq_false_iff]
  constructor
  · rintro ⟨hall, hdone⟩ b hb
    obtain ⟨r, hr⟩ := hall b hb
    exact ⟨r, hr, hdone r (List.mem_filterMap.mpr ⟨b, hb, hr⟩)⟩
  · refine fun h => ⟨fun b hb => ?_, fun r hr => ?_⟩
    · obtain ⟨r, hr, -⟩ := h b hb
      exact ⟨r, hr⟩
    · obtain ⟨b, hb, hbr⟩ := List.mem_filterMap.mp hr
      obtain ⟨r', hr', hdone⟩ := h b hb
      exact Option.some.inj (hr'.symm.trans hbr) ▸ hdone

theorem State.slotsDone_of_through (h : s.SlotsThrough p k) :
    s.slotsDone p k = (s.setSprueBlks (s.sprue.blks.filter fun r =>
      !(r.stateOnly && r.part == p && r.cid == k.cid))).modCmd p k.cid fun k' =>
        { k' with out := some (s.slotsOutcome p k) } := by
  have hall : ∀ b ∈ rowBlocks (lFirst k.msg) (lRows k.msg), ∃ r, s.slot? p k.cid b = some r := fun b hb =>
    let ⟨r, hr, _⟩ := h b hb
    ⟨r, hr⟩
  rw [State.slotsDone]
  dsimp only
  rw [if_pos (State.slotsThrough_iff.mpr h), sprueDone_eq, any_filterMap_getD, map_filterMap_getD _ 0 _ hall,
    map_filterMap_getD _ 0 _ hall, flatMap_filterMap_getD]
  have hloss (o : Option RowBlk) : (o.map fun r => r.rowLoss.filterMap id).getD [] =
      ((o.map (·.rowLoss)).getD []).filterMap id := by
    cases o <;> rfl
  rw [State.slotsOutcome, List.filterMap_flatMap]
  simp only [hloss]
  rfl

theorem State.slotsDone_of_not (h : ¬ s.SlotsThrough p k) : s.slotsDone p k = s :=
  if_neg fun h' => h (State.slotsThrough_iff.mp h')

theorem any_ite_eq {b : Nat} {bs : List Nat} (hb : b ∈ bs) (x : Bool) (g : Nat → Bool) :
    (bs.any fun b' => if b' = b then x else g b') = (x || bs.any fun b' => b' ≠ b && g b') := by
  rw [Bool.eq_iff_iff]
  simp only [List.any_eq_true, Bool.or_eq_true, Bool.and_eq_true, decide_eq_true_eq]
  constructor
  · rintro ⟨b', hb', h⟩
    split at h
    · exact .inl h
    · exact .inr ⟨b', hb', ‹_›, h⟩
  · rintro (h | ⟨b', hb', hne, h⟩)
    · exact ⟨b, hb, (if_pos rfl).trans h⟩
    · exact ⟨b', hb', (if_neg hne).trans h⟩

/-- Row block `b` of a command is through in its slot in `z`, the other slots are as they were: what the end of the
command then comes to. -/
theorem Stated.RowBlockDone.of_slots {n grad loss oob nf : Nat} {row : Nat → Option Word × List Word} {clamp : Bool}
    (hk : s.cmd? p c = some k) (hcid : k.cid = c) (hb : b ∈ rowBlocks (fld k.msg 56 4) (fld k.msg 60 4)) (hn : 0 < n)
    (hx : s.slot? p c b = some x) (hc : z.Canon)
    (hmem : z.mem = ((forN n s fun i s => s.wrPart p (tref k.msg grad) (b * 512 - fld k.msg 56 4 + i) 0
        (row (b * 512 - fld k.msg 56 4 + i)).2).wrLosses p k.msg loss (b * 512 - fld k.msg 56 4)
        (((List.range n).map fun i => (row (b * 512 - fld k.msg 56 4 + i)).1).map (·.getD 0))).mem)
    (hparts : z.parts = s.parts) (hlive : ∀ d, z.live d = s.live d) (hr : z.slot? p c b = some r)
    (hother : ∀ b', b' ≠ b → z.slot? p c b' = s.slot? p c b') (hdie : r.die = x.die)
    (hloss : r.rowLoss = (List.range n).map fun i => (row (b * 512 - fld k.msg 56 4 + i)).1)
    (hoob : r.oob = oob) (hnf : r.nonfin = nf) (hclamp : r.clamp = clamp) :
    Stated.RowBlockDone s (z.slotsDone p k) p c k b n grad loss row oob nf clamp := by
  subst hcid
  have hne : r.rowLoss ≠ [] := by
    rw [hloss]
    exact fun h => hn.ne' (by simpa using congrArg List.length h)
  have hslot (b' : Nat) {α : Type} (g : RowBlk → α) (d : α) :
      ((z.slot? p k.cid b').map g).getD d = if b' = b then g r else ((s.slot? p k.cid b').map g).getD d := by
    by_cases hbb : b' = b
    · rw [if_pos hbb, hbb, hr]; rfl
    · rw [if_neg hbb, hother b' hbb]
  have hiff : z.SlotsThrough p k ↔ ∀ b' ∈ rowBlocks (fld k.msg 56 4) (fld k.msg 60 4),
      ∃ r, s.slot? p k.cid b' = some r ∧ s.live r.die = true ∧ (b' ≠ b → r.rowLoss ≠ []) := by
    refine forall₂_congr fun b' _ => ?_
    by_cases hbb : b' = b
    · subst hbb
      rw [hr, hx]
      simp only [Option.some.injEq, exists_eq_left', ne_eq, not_true_eq_false, false_implies, and_true, hlive, hdie,
        hne,
        not_false_eq_true, true_and]
    · rw [hother b' hbb]
      simp only [ne_eq, hbb, not_false_eq_true, true_implies, hlive, and_comm]
  have hcmd : z.cmd? p k.cid = some k := (State.cmd?_of_parts hparts p k.cid).trans hk
  refine ⟨?_, fun hothers => ?_, fun hothers => ?_⟩
  · by_cases h : z.SlotsThrough p k
    · rw [State.slotsDone_of_through h]
      exact hmem
    · rw [State.slotsDone_of_not h]
      exact hmem
  · rw [State.slotsDone_of_through (hiff.mpr hothers)]
    have hz' : (z.setSprueBlks (z.sprue.blks.filter fun r =>
      !(r.stateOnly && r.part == p && r.cid == k.cid))).Canon := State.canon_setSprue hc _
    refine ⟨?_, fun r hr hrk => ?_⟩
    · obtain ⟨o, ho⟩ : ∃ o, o = z.slotsOutcome p k := ⟨_, rfl⟩
      rw [← ho]
      unfold State.slotsOutcome at ho
      simp only [hslot, any_ite_eq hb, hloss, hoob, hnf, hclamp] at ho
      exact Eq.subst (motive := fun o' => Stated.DoneWith (State.modCmd _ p k.cid fun k' => { k' with out := some o })
        p k.cid o') ho (State.doneWith_modCmd hz' hcmd)
    · have hkeep := (List.mem_filter.mp hr).2
      simp [hrk] at hkeep
  · rw [State.slotsDone_of_not fun h => hothers (hiff.mp h)]
    exact ⟨hcmd, r, hr, hloss, hoob, hnf, hclamp⟩

/-! ## A row block in its slot (R195, R196) -/

theorem forN_congr_lt {β : Type} {f g : Nat → β → β} (n : Nat) (y : β) (h : ∀ i, i < n → ∀ x, f i x = g i x) :
    forN n y f = forN n y g := by
  induction n with
  | zero => rfl
  | succ n ih => rw [forN_succ, forN_succ, ih fun i hi => h i (by omega), h n (by omega)]

/-- The gradients and the losses of the rows of row block `b` written. -/
def State.blockWritten (s : State) (p : Nat) (m : List Byte) (b n grad loss : Nat)
    (row : Nat → Option Word × List Word) :
    State :=
  (forN n s fun i s => s.wrPart p (tref m grad) (b * 512 - fld m 56 4 + i) 0
    (row (b * 512 - fld m 56 4 + i)).2).wrLosses p m loss (b * 512 - fld m 56 4)
    (((List.range n).map fun i => (row (b * 512 - fld m 56 4 + i)).1).map (·.getD 0))

theorem Moves.blockWritten (s : State) (p : Nat) (m : List Byte) (b n grad loss : Nat)
    (row : Nat → Option Word × List Word) : Moves [.mem] s (s.blockWritten p m b n grad loss row) :=
  (Moves.forN (fun _ x => Moves.wrPart x _ _ _ _ _) n s).andThen (Moves.wrLosses _ _ _ _ _ _) (List.Subset.refl _)

/-- A slot with what its row block came to. -/
def RowBlk.through (x : RowBlk) (loss : List (Option Word)) (oob bad : Nat) (clamp : Bool) : RowBlk :=
  { x with rowLoss := loss, oob := oob, clamp := clamp, nonfin := x.nonfin + bad }

/-- A row block in its open slot is done: its rows are written, what it came to is kept. -/
theorem State.slotStep_done {die grad loss lab n : Nat} {ranges : List Range} {row : State → Nat → RowOut}
    (hx : s.slot? p k.cid b = some x) (hacc : s.tagAccess p ranges = none) :
    let out (i : Nat) : RowOut := row s (b * 512 - fld k.msg 56 4 + i)
    ∃ y, BusOnly (s.blockWritten p k.msg b n grad loss fun i => ((row s i).loss, (row s i).grad)) y ∧
      s.slotStep p k b die grad loss lab n ranges row = y.putBlk (x.through ((List.range n).map fun i => (out i).loss)
        (count (fun i => match s.labelOf p (fld k.msg lab 8) (b * 512 - fld k.msg 56 4 + i) with
          | some l => k.opcode == 0x300 && decide (lCols k.msg ≤ l ∧ l ≠ 0xFFFFFFFF)
          | none => false) (List.range n))
        (((List.range n).map fun i => (out i).bad).foldl (· + ·) 0) ((List.range n).any fun i => (out i).clamp)) := by
  intro out
  refine ⟨_, BusOnly.nfCount _ die p (((List.range n).map fun i => (out i).bad).foldl (· + ·) 0), ?_⟩
  rw [State.slotStep, hx]
  dsimp only
  rw [hacc]
  dsimp only
  rw [forN_congr_lt n s (g := fun i y => y.wrPart p (tref k.msg grad) (b * 512 - lFirst k.msg + i) 0 (out i).grad)
    fun i hi y => by rw [List.getElem?_map, List.getElem?_range hi]; rfl]
  simp only [List.map_map, List.any_map]
  rw [State.blockWritten, List.map_map]
  rfl

end Sys2Proof.Machine
end

section
/-! SUPPORT. The commands of the Sprue on their row blocks (R189, R192, R195 to R197). -/
set_option Elab.async false

namespace Sys2Proof.Machine

variable {s t z : State} {p c b op : Nat} {k : Cmd} {r x : RowBlk}

/-- The command found by an identifier has it. -/
theorem State.cid_of_cmd? (h : s.cmd? p c = some k) : k.cid = c := beq_iff_eq.mp 
  (List.find?_some (p := fun k : Cmd => k.cid == c) h)

theorem State.sprueRow_of_runs (h : Stated.SprueRuns s p c op k) (f : Cmd → State) :
    s.sprueRow p c op f = .next (f k) := by
  rw [State.sprueRow, h.cmd]
  exact if_pos ⟨h.isOp, h.phase, h.out, h.ready, h.up⟩

/-! ## A slot in its place -/

theorem State.slot?_keys (h : s.slot? p c b = some x) : x.stateOnly = true ∧ x.part = p ∧ x.cid = c ∧ x.blk = b := by
  have hq := List.find?_some (p := fun r : RowBlk => r.stateOnly && r.part == p && r.cid == c && r.blk == b) h
  simpa [and_assoc] using hq

/-- Two row blocks with the same keys. -/
def RowBlk.SameKeys (r x : RowBlk) : Prop :=
  r.teacherSide = x.teacherSide ∧ r.stateOnly = x.stateOnly ∧ r.part = x.part ∧ r.mb = x.mb ∧ r.blk = x.blk ∧
    r.cid = x.cid

theorem RowBlk.SameKeys.sameKey (h : r.SameKeys x) : r.sameKey x = true := by
  obtain ⟨ht, ho, hp, hm, hb, hc⟩ := h
  simp [RowBlk.sameKey, ht, ho, hp, hm, hb, hc]

/-- A slot replaced by one with its keys is the one found; the other slots of the command stay. -/
theorem State.slot?_replaced (h : s.slot? p c b = some x) (hz : z.sprue = s.sprue) (hk : r.SameKeys x) :
    (z.putBlk r).slot? p c b = some r ∧ ∀ b', b' ≠ b → (z.putBlk r).slot? p c b' = s.slot? p c b' := by
  have hslot (b' : Nat) : z.slot? p c b' = s.slot? p c b' := by rw [State.slot?, State.slot?, hz]
  obtain ⟨ho, hp, hc, hb⟩ := State.slot?_keys h
  obtain ⟨-, hro, hrp, -, hrb, hrc⟩ := id hk
  have hr : z.slot? r.part r.cid r.blk = some x := by
    rw [hrp, hrc, hrb, hp, hc, hb, hslot, h]
  have hput := State.slot?_putBlk (hro.trans ho) fun y hy => by
    rw [← Option.some.inj (hr.symm.trans hy)]
    exact hk.sameKey
  rw [hrp, hrc, hrb, hp, hc, hb] at hput
  refine ⟨hput, fun b' hb' => ?_⟩
  rw [State.slot?_putBlk_ne fun h => hb' (h.trans (hrb.trans hb)), hslot]

theorem RowBlk.sameKeys_through (x : RowBlk) (l : List (Option Word)) (oob bad : Nat) (clamp : Bool) :
    (x.through l oob bad clamp).SameKeys x := ⟨rfl, rfl, rfl, rfl, rfl, rfl⟩

/-! ## SP_FEAT (R196) -/

/-- The next row block of an SP_FEAT. -/
theorem State.spFeatFx_next (h : (rowBlocks (fld k.msg 56 4) (fld k.msg 60 4)).find? (fun b' =>
      s.live ((s.homeOf p (bits (fld k.msg 52 1) 2 1) b').getD 0) && (s.slot? p k.cid b').all (·.rowLoss.isEmpty)) =
        some b) :
    s.spFeatFx p k = (s.slotStep p k b ((s.homeOf p (bits (fld k.msg 52 1) 2 1) b).getD 0) 144 184 176 (blkRows k.msg b)
      ((tref k.msg 80).rowsAt false (b * 512 - lFirst k.msg) (blkRows k.msg b) ++
        (tref k.msg 112).rowsAt false (b * 512 - lFirst k.msg) (blkRows k.msg b) ++
        (tref k.msg 144).rowsAt true (b * 512 - lFirst k.msg) (blkRows k.msg b) ++
        vecAt (fld k.msg 176 8) (b * 512 - lFirst k.msg) (blkRows k.msg b) false ++
        vecAt (fld k.msg 184 8) (b * 512 - lFirst k.msg) (blkRows k.msg b) true)
      fun s i => s.featOut p k.msg i).slotsDone p k := by
  have hpred (o : Option RowBlk) : o.all (·.rowLoss.isEmpty) =
      match o with | some r => r.rowLoss.isEmpty | none => true := by cases o <;> rfl
  simp only [hpred] at h
  rw [State.spFeatFx]
  dsimp only
  split
  · rename_i b' hb'
    obtain rfl : b' = b := Option.some.inj (hb'.symm.trans h)
    rfl
  · rename_i hnone
    cases hnone.symm.trans h

/-- A row block without its slot leaves the command as it is. -/
theorem State.slotsDone_of_open (hb : b ∈ rowBlocks (fld k.msg 56 4) (fld k.msg 60 4))
    (hx : ∀ x, s.slot? p k.cid b = some x → x.rowLoss = []) : s.slotsDone p k = s :=
  State.slotsDone_of_not fun h =>
    let ⟨x, hx', hne, _⟩ := h b hb
    hne (hx x hx')

/-- A row of SP_FEAT. -/
theorem State.featOut_eq (s : State) (p : Nat) (m : List Byte) (i : Nat) :
    let ign : Bool := s.labelOf p (fld m 176 8) i == some 0xFFFFFFFF
    let ys := s.rdPart p (tref m 80) i 0 (fld m 64 4)
    let yt := s.rdPart p (tref m 112) i 0 (fld m 64 4)
    let x := Stated.featRow ign (fld m 64 4) (BitVec.ofNat 32 (fld m 68 4)) (BitVec.ofNat 32 (fld m 72 4)) ys yt
    s.featOut p m i = ⟨if ign then none else some x.1, x.2, if ign then 0 else count (fun v => !fIsFin v) (ys ++ yt),
      false⟩ := by
  intro ign ys yt x
  have hall : (ys ++ yt).all fIsFin = true ↔ count (fun v => !fIsFin v) (ys ++ yt) = 0 := by
    rw [count, List.length_eq_zero_iff, List.filter_eq_nil_iff, List.all_eq_true]
    simp
  rw [State.featOut]
  dsimp only
  by_cases hign : ign = true
  · rw [if_pos (beq_iff_eq.mp hign)]
    simp only [x, Stated.featRow, hign, if_true]
    rfl
  · rw [if_neg fun h => hign (beq_iff_eq.mpr h)]
    simp only [x, Stated.featRow, hign, Bool.false_eq_true, if_false, hall]
    by_cases hbad : count (fun v => !fIsFin v) (ys ++ yt) = 0
    · rw [if_pos hbad, hbad]
      exact if_neg (not_not.mpr hbad)
    · rw [if_neg hbad]
      exact if_pos hbad

theorem featureLossAndGradient : Stated.FeatureLossAndGradient := by
  intro s p c b k m D first n home ys yt ign row bad h hb
  have hcid := State.cid_of_cmd? h.cmd
  subst hcid
  have hmem := List.mem_of_find?_eq_some hb
  have hex : exec (.spFeat p k.cid) s = .next (s.spFeatFx p k) := State.sprueRow_of_runs h _
  rw [State.spFeatFx_next hb] at hex
  refine ⟨fun hnone => ?_, fun r hr hn hacc => ?_⟩
  · rw [hex, State.slotStep, hnone]
    dsimp only
    split
    · rw [State.slotsDone_of_open hmem]
      · rfl
      · intro x hx
        have hput : (s.putBlk _).slot? p k.cid b = some _ := State.slot?_putBlk
          (r := { RowBlk.fresh p (home b) (fld k.msg 48 4) b k.cid 0 false with stateOnly := true }) rfl fun y hy =>
            nomatch hnone.symm.trans hy
        rw [show x = _ from Option.some.inj (hx.symm.trans hput)]
        rfl
    · rw [State.slotsDone_of_open hmem fun x hx => by rw [hnone] at hx; cases hx]
  · obtain ⟨y, hy, hstep⟩ := State.slotStep_done (die := home b) (grad := 144) (loss := 184) (lab := 176) (n := n)
      (row := fun s i => s.featOut p m i) hr hacc
    have hfeat (i : Nat) : s.featOut p m i = ⟨(row i).1, (row i).2, bad i, false⟩ := State.featOut_eq s p m i
    simp only [hfeat] at hy hstep
    have hblk := Moves.blockWritten s p m b n 144 184 row
    have hm := hblk.mono (l' := [.mem, .bus]).andThen (Moves.ofBusOnly hy)
    have hcz := hstep ▸ (Keeps.slotStep .refl).canon h.canon
    obtain ⟨hself, hother⟩ := State.slot?_replaced hr ((Moves.ofBusOnly hy).sprue.trans hblk.sprue)
      (RowBlk.sameKeys_through r _ _ _ _)
    refine ⟨_, hex.trans (congrArg (fun z : State => Host.Outcome.next (z.slotsDone p k)) hstep),
      Stated.RowBlockDone.of_slots h.cmd rfl hmem hn hr hcz (Moves.ofBusOnly hy).mem hm.parts
      (fun d => hm.live (by decide) (by decide) (by decide) d) hself hother rfl rfl ?_ rfl ?_⟩
    · refine List.length_eq_zero_iff.mpr (List.filter_eq_nil_iff.mpr fun i _ => ?_)
      rw [h.isOp]
      split <;> simp
    · simp [RowBlk.through]

/-! ## SP_LOSS (R189, R192, R195) -/

/-- The state of row `i` of a command over its row blocks. -/
def lockRow (bl : List RowBlk) (i : Nat) : RowAcc :=
  match bl[i / 512]? with
  | some r => r.rowAt (i % 512)
  | none => emptyAcc

theorem lockRow_eq (bl : List RowBlk) (i : Nat) :
    lockRow bl i = ((bl[i / 512]?).map (·.rowAt (i % 512))).getD emptyAcc := by
  unfold lockRow
  cases bl[i / 512]? <;> rfl

theorem State.spLossLock_eq (s : State) (p : Nat) (k : Cmd) :
    let bs := rowBlocks (fld k.msg 56 4) (fld k.msg 60 4)
    let bl := bs.filterMap fun b => s.blk? false p (fld k.msg 48 4) b
    let rows := s.activeRows p (fld k.msg 136 8) (fld k.msg 64 4) (fld k.msg 60 4)
    s.spLossLock p k = if bl.length = bs.length ∧ bl.all (fun r => r.complete && s.live r.die) then
        (s.setSprueBlks (s.sprue.blks.filter fun r => !(r.part == p && !r.teacherSide && !r.stateOnly &&
          r.mb == fld k.msg 48 4 && bs.contains r.blk))).modCmd p k.cid fun k' =>
            { k' with out := some (sprueDone (rows.1.map fun i => lockLoss k.data (lockRow bl i) false) rows.1.length
              rows.2 ((bl.map (·.nonfin)).foldl (· + ·) 0) false) }
      else s := rfl

/-- In lock-step a command whose row blocks are all through both passes completes. -/
theorem spLoss_lockStep (h : Stated.SprueRuns s p c 0x300 k) (htop : s.topk p = false) {bl : List RowBlk}
    (hbl : (rowBlocks (fld k.msg 56 4) (fld k.msg 60 4)).filterMap (fun b => s.blk? false p (fld k.msg 48 4) b) = bl)
    (hlen : bl.length = (rowBlocks (fld k.msg 56 4) (fld k.msg 60 4)).length)
    (hall : ∀ r ∈ bl, r.pass1 = true ∧ r.cols ≤ r.pass2.length ∧ s.live r.die = true) :
    let act := (List.range (fld k.msg 60 4)).filter fun i => !ignored (s.labelOf p (fld k.msg 136 8) i) (fld k.msg 64 4)
    let out := count (fun i => match s.labelOf p (fld k.msg 136 8) i with
      | some x => decide (fld k.msg 64 4 ≤ x ∧ x ≠ 0xFFFFFFFF) | none => false) (List.range (fld k.msg 60 4))
    ∃ t, exec (.spLoss p c) s = .next t ∧ t.mem = s.mem ∧
      Stated.DoneWith t p c (Stated.sprueOk
        (act.map fun i => lockLoss k.data (((bl[i / 512]?).map (·.rowAt (i % 512))).getD emptyAcc) false)
        out ((bl.map (·.nonfin)).foldl (· + ·) 0) false) ∧
      t.sprue.blks = s.sprue.blks.filter fun r => !(r.part == p && !r.teacherSide && !r.stateOnly &&
        r.mb == fld k.msg 48 4 && (rowBlocks (fld k.msg 56 4) (fld k.msg 60 4)).contains r.blk) := by
  intro act out
  obtain rfl := State.cid_of_cmd? h.cmd
  have hdone : bl.length = (rowBlocks (fld k.msg 56 4) (fld k.msg 60 4)).length ∧
      bl.all (fun r => r.complete && s.live r.die) = true := ⟨hlen, List.all_eq_true.mpr fun r hr => by
    obtain ⟨h1, h2, h3⟩ := hall r hr
    simp [RowBlk.complete, h1, h2, h3]⟩
  have hex : exec (.spLoss p k.cid) s = .next (s.spLossLock p k) := by
    refine (State.sprueRow_of_runs h _).trans ?_
    rw [htop]
    rfl
  have hlock : s.spLossLock p k = (s.setSprueBlks (s.sprue.blks.filter fun r => !(r.part == p && !r.teacherSide &&
      !r.stateOnly && r.mb == fld k.msg 48 4 &&
      (rowBlocks (fld k.msg 56 4) (fld k.msg 60 4)).contains r.blk))).modCmd p k.cid fun k' => { k' with
        out := some (Stated.sprueOk (act.map fun i =>
          lockLoss k.data (((bl[i / 512]?).map (·.rowAt (i % 512))).getD emptyAcc) false)
          out ((bl.map (·.nonfin)).foldl (· + ·) 0) false) } := by
    rw [State.spLossLock_eq, hbl, if_pos hdone]
    simp only [← lockRow_eq, ← sprueDone_eq, List.length_map]
    rfl
  refine ⟨_, hex, ?_, ?_, ?_⟩
  · rw [hlock]
    rfl
  · rw [hlock]
    exact State.doneWith_modCmd (State.canon_setSprue h.canon _) h.cmd
  · rw [hlock]
    rfl

/-- The row blocks of a command rise. -/
theorem rowBlocks_rise (first rows : Nat) : (rowBlocks first rows).Pairwise (· < ·) :=
  List.pairwise_map.mpr (List.pairwise_lt_range.imp fun h => Nat.add_lt_add_left h _)

/-- The first row block that a search accepts. -/
theorem findSome?_rise {α : Type} {l : List Nat} (hl : l.Pairwise (· < ·)) (hb : b ∈ l) {g : Nat → Option α} {v : α}
    (hv : g b = some v) (hlow : ∀ b' ∈ l, b' < b → g b' = none) : l.findSome? g = some v := by
  obtain ⟨l₁, l₂, rfl⟩ := List.append_of_mem hb
  refine List.findSome?_eq_some_iff.mpr ⟨l₁, b, l₂, rfl, hv, fun b' hb' => hlow b' (List.mem_append_left _ hb') ?_⟩
  exact (List.pairwise_append.mp hl).2.2 b' hb' b List.mem_cons_self

/-- A filter that keeps what a search finds changes nothing of it. -/
theorem find?_filter_of_kept {α : Type} {q keep : α → Bool} {l : List α} (h : ∀ y, l.find? q = some y → keep y = true) :
    (l.filter keep).find? q = l.find? q := by
  induction l with
  | nil => rfl
  | cons a l ih =>
    by_cases hq : q a = true
    · have hk : keep a = true := h a (List.find?_cons_of_pos hq)
      rw [List.filter_cons_of_pos hk, List.find?_cons_of_pos hq, List.find?_cons_of_pos hq]
    · rw [List.find?_cons_of_neg hq] at h ⊢
      by_cases hk : keep a = true
      · rw [List.filter_cons_of_pos hk, List.find?_cons_of_neg hq, ih h]
      · rw [List.filter_cons_of_neg hk, ih h]

/-- The end of a command brings no row block. -/
theorem State.mem_slotsDone {y : RowBlk} (h : y ∈ (s.slotsDone p k).sprue.blks) : y ∈ s.sprue.blks := by
  by_cases hd : s.SlotsThrough p k
  · rw [State.slotsDone_of_through hd] at h
    exact List.mem_of_mem_filter h
  · rwa [State.slotsDone_of_not hd] at h

/-- Whether row block `b` of a top-k command may proceed, with its records. -/
def State.topkReady (s : State) (p : Nat) (k : Cmd) (b : Nat) : Option (Nat × RowBlk) :=
  match s.blk? true p (fld k.msg 48 4) b, s.slot? p k.cid b with
  | some t, some r => if t.pass1 ∧ r.rowLoss.isEmpty ∧ s.live t.die then some (b, t) else none
  | some t, none => if t.pass1 ∧ s.live t.die then some (b, t) else none
  | none, _ => none

theorem State.topkReady_some (hx : s.blk? true p (fld k.msg 48 4) b = some x) (hpass : x.pass1 = true)
    (hl : s.live x.die = true) (hr : s.slot? p k.cid b = some r) (hopen : r.rowLoss = []) :
    s.topkReady p k b = some (b, x) := by
  rw [State.topkReady, hx, hr]
  exact if_pos ⟨hpass, List.isEmpty_iff.mpr hopen, hl⟩

/-- A row block whose records are not complete on a die that runs, or that is through in its slot, does not proceed. -/
theorem State.topkReady_none (h :
    ∀ x, s.blk? true p (fld k.msg 48 4) b = some x → x.pass1 = true → s.live x.die = true →
    ∃ r, s.slot? p k.cid b = some r ∧ r.rowLoss ≠ []) : s.topkReady p k b = none := by
  unfold State.topkReady
  split
  · rename_i t r ht hr
    refine if_neg fun ⟨hp, he, hl⟩ => ?_
    obtain ⟨r', hr', hne⟩ := h t ht hp hl
    rw [Option.some.inj (hr'.symm.trans hr)] at hne
    exact hne (List.isEmpty_iff.mp he)
  · rename_i t ht hr
    refine if_neg fun ⟨hp, hl⟩ => ?_
    obtain ⟨r', hr', -⟩ := h t ht hp hl
    cases hr'.symm.trans hr
  · rfl

/-- The ranges of the student side of a row block. -/
def topkRanges (m : List Byte) (b : Nat) : List Range :=
  (tref m 72).rowsAt false (b * 512 - fld m 56 4) (blkRows m b) ++
    (tref m 104).rowsAt true (b * 512 - fld m 56 4) (blkRows m b) ++
    vecAt (fld m 136 8) (b * 512 - fld m 56 4) (blkRows m b) false ++
    vecAt (fld m 144 8) (b * 512 - fld m 56 4) (blkRows m b) true

/-- A slot that is through takes what its records add. -/
def RowBlk.plus (r t : RowBlk) : RowBlk := { r with nonfin := r.nonfin + t.nonfin }

/-- The records of a row block freed. -/
def State.freeRecords (s : State) (p mb b : Nat) : State :=
  s.setSprueBlks (s.sprue.blks.filter fun x => !(x.teacherSide && x.part == p && x.mb == mb && x.blk == b))

theorem State.spLossTopk_ready {t : RowBlk}
    (h : (rowBlocks (fld k.msg 56 4) (fld k.msg 60 4)).findSome? (s.topkReady p k) =
      some (b, t)) (hz : s.slotStep p k b t.die 104 144 136 (blkRows k.msg b) (topkRanges k.msg b)
        (fun s i => s.topkOut p k t.recs i) = z)
    (hr : z.slot? p k.cid b = some r) (hne : r.rowLoss ≠ []) :
    s.spLossTopk p k = ((z.putBlk (r.plus t)).freeRecords p (fld k.msg 48 4) b).slotsDone p k := by
  have heq : s.spLossTopk p k =
      match (rowBlocks (fld k.msg 56 4) (fld k.msg 60 4)).findSome? (s.topkReady p k) with
      | some (b, t) =>
        let z := s.slotStep p k b t.die 104 144 136 (blkRows k.msg b) (topkRanges k.msg b)
          (fun s i => s.topkOut p k t.recs i)
        match z.slot? p k.cid b with
        | some r => if r.rowLoss.isEmpty then z
          else ((z.putBlk (r.plus t)).freeRecords p (fld k.msg 48 4) b).slotsDone p k
        | none => z
      | none => s := rfl
  rw [heq, h]
  dsimp only
  rw [hz, hr]
  exact if_neg fun he => hne (List.isEmpty_iff.mp he)

/-- A row of the student side of a top-k SP_LOSS. -/
theorem State.topkOut_eq (s : State) (p : Nat) (k : Cmd) (recs : List TopkRec) (i : Nat) :
    let N := fld k.msg 64 4
    let lab := s.labelOf p (fld k.msg 136 8) i
    let stu := s.rdPart p (tref k.msg 72) i 0 N
    let row : Option Word × List Word × Bool :=
      if ignored lab N then (none, List.replicate N 0, false)
      else match recs[i % 512]? with
        | some e => if !e.nf && stu.all fIsFin then
            let q := topkRow k.data e stu lab N
            (some q.1, q.2.1, q.2.2)
          else (some 0x7FC00000#32, List.replicate N 0x7FC00000#32, false)
        | none => (some 0x7FC00000#32, List.replicate N 0x7FC00000#32, false)
    s.topkOut p k recs i = ⟨row.1, row.2.1,
      if ignored lab N ∨ recs[i % 512]? = none then 0 else count (fun v => !fIsFin v) stu, row.2.2⟩ := by
  intro N lab stu row
  have hall : stu.all fIsFin = true ↔ count (fun v => !fIsFin v) stu = 0 := by
    rw [count, List.length_eq_zero_iff, List.filter_eq_nil_iff, List.all_eq_true]
    simp
  rw [State.topkOut]
  dsimp only
  by_cases hign : ignored lab N = true
  · refine (if_pos hign).trans ?_
    simp only [row, hign, if_true, true_or]
    rfl
  · refine (if_neg hign).trans ?_
    simp only [row, hign, Bool.false_eq_true, if_false, false_or]
    cases recs[i % 512]? with
    | none => rfl
    | some e =>
      simp only [reduceCtorEq, if_false]
      by_cases hok : (!e.nf && stu.all fIsFin) = true
      · rw [if_pos hok]
        obtain ⟨hnf, hfin⟩ := Bool.and_eq_true_iff.mp hok
        refine (if_neg ?_).trans ?_
        · rintro (h | h)
          · simp [h] at hnf
          · exact h (hall.mp hfin)
        · rw [hall.mp hfin]
          rfl
      · rw [if_neg hok]
        refine if_pos ?_
        by_contra hno
        obtain ⟨hnf, hbad⟩ := not_or.mp hno
        exact hok (Bool.and_eq_true_iff.mpr ⟨by simpa using hnf, hall.mpr (not_not.mp hbad)⟩)

/-- Slots of the command outlive the records of a row block. -/
theorem State.slot?_freeRecords {mb b' : Nat} (h : ∀ y, s.slot? p c b' = some y → y.teacherSide = false ∨ b' ≠ b) :
    (s.freeRecords p mb b).slot? p c b' = s.slot? p c b' := by
  refine find?_filter_of_kept fun y hy => ?_
  obtain ⟨-, -, -, hb⟩ := State.slot?_keys hy
  obtain ht | hne := h y hy
  · simp [ht]
  · simp [hb, hne]

/-- The row block's records are gone, and stay so. -/
theorem State.blk?_freeRecords {mb : Nat} : ((s.freeRecords p mb b).slotsDone p k).blk? true p mb b = none := by
  refine List.find?_eq_none.mpr fun y hy hq => ?_
  have hkept := (List.mem_filter.mp (State.mem_slotsDone hy)).2
  simp only [Bool.and_eq_true, beq_iff_eq] at hq
  simp [hq] at hkept

theorem distillationLoss : Stated.DistillationLoss := by
  intro s p c k m N rows bs lab act out
  refine ⟨fun bl h htop hbl hlen hall => spLoss_lockStep h htop hbl hlen hall, fun b x r => ?_⟩
  intro h htop hb hx hpass hxl hr hopen hside hbefore first n hn hacc stu row bad mine
  obtain rfl := State.cid_of_cmd? h.cmd
  have hex : exec (.spLoss p k.cid) s = .next (s.spLossTopk p k) := by
    refine (State.sprueRow_of_runs h _).trans ?_
    rw [htop]
    rfl
  have hnext := findSome?_rise (rowBlocks_rise _ _) hb (State.topkReady_some hx hpass hxl hr hopen)
    fun b' hb' hlt => State.topkReady_none (hbefore b' hb' hlt)
  obtain ⟨y, hy, hstep⟩ := State.slotStep_done (die := x.die) (grad := 104) (loss := 144) (lab := 136) (n := n)
    (row := fun s i => s.topkOut p k x.recs i) hr hacc
  have hout (i : Nat) : s.topkOut p k x.recs i = ⟨(row i).1, (row i).2.1, bad i, (row i).2.2⟩ :=
    State.topkOut_eq s p k x.recs i
  simp only [hout] at hy hstep
  have hblk := Moves.blockWritten s p m b n 104 144 fun i => ((row i).1, (row i).2.1)
  have hm := hblk.mono (l' := [.mem, .bus]).andThen (Moves.ofBusOnly hy)
  generalize hr₁ : r.through _ _ _ _ = r₁ at hstep
  obtain ⟨hself, hother⟩ := State.slot?_replaced hr hm.sprue (hr₁ ▸ RowBlk.sameKeys_through r _ _ _ _)
  obtain ⟨hself₂, hother₂⟩ := State.slot?_replaced (r := r₁.plus x) hself rfl ⟨rfl, rfl, rfl, rfl, rfl, rfl⟩
  have hcz : (y.putBlk r₁).Canon := hstep ▸ (Keeps.slotStep .refl).canon h.canon
  have hne : r₁.rowLoss ≠ [] := by
    rw [← hr₁]
    exact fun h => hn.ne' (by simpa [RowBlk.through] using congrArg List.length h)
  have hside₁ : (r₁.plus x).teacherSide = false := by rw [← hr₁]; exact hside
  rw [State.spLossTopk_ready hnext hstep hself hne] at hex
  refine ⟨_, hex, State.blk?_freeRecords, Stated.RowBlockDone.of_slots (x := r) (r := r₁.plus x) h.cmd rfl hb hn hr
    ((Keeps.setSprueBlks (Keeps.putBlk .refl)).canon hcz) (Moves.ofBusOnly hy).mem hm.parts
    (fun d => hm.live (by decide) (by decide) (by decide) d) ?_ (fun b' hb' => ?_) ?_ ?_ ?_ ?_ ?_⟩
  · rw [State.slot?_freeRecords, hself₂]
    exact fun z hz => .inl (Option.some.inj (hself₂.symm.trans hz) ▸ hside₁)
  · rw [State.slot?_freeRecords fun _ _ => .inr hb', hother₂ b' hb', hother b' hb']
  · rw [← hr₁]
    rfl
  · rw [← hr₁]
    rfl
  · rw [← hr₁]
    change count _ (List.range n) = (((List.range n).map (first + ·)).filter _).length
    rw [List.filter_map, List.length_map, h.isOp]
    rfl
  · rw [← hr₁]
    change _ + _ + _ = _ + (((List.range n).map (first + ·)).map bad).foldl (· + ·) 0 + _
    rw [List.map_map]
    rfl
  · rw [← hr₁]
    change _ = ((List.range n).map (first + ·)).any _
    rw [List.any_map]
    rfl

end Sys2Proof.Machine
end

section
/-! SUPPORT. The two passes of the Sprue in lock-step (R185 to R189, R192). -/
set_option Elab.async false

namespace Sys2Proof.Machine

variable {s t z : State} {p d b j : Nat} {k : Cmd} {r x : RowBlk} {w : LogitUnit}

/-! ## Joining a partial (R187) -/

theorem foldWaiting_keeps (revs : List Bool) (K n : Nat) (r : RowBlk) :
    (foldWaiting revs K n r).SameKeys r ∧ (foldWaiting revs K n r).nonfin = r.nonfin := by
  induction n generalizing r with
  | zero => exact ⟨⟨rfl, rfl, rfl, rfl, rfl, rfl⟩, rfl⟩
  | succ n ih =>
    unfold foldWaiting
    split
    · exact ⟨⟨rfl, rfl, rfl, rfl, rfl, rfl⟩, rfl⟩
    · exact ih _

/-- A partial that joins leaves the keys of its row block and its count of non-finite elements. -/
theorem RowBlk.join_keeps (revs : List Bool) (K : Nat) (r : RowBlk) (j : Nat) (ys : List RowAcc) :
    (r.join revs K j ys).SameKeys r ∧ (r.join revs K j ys).nonfin = r.nonfin := by
  unfold RowBlk.join
  dsimp only
  split <;> exact foldWaiting_keeps ..

/-! ## Pass 1 (R185 to R188) -/

/-- The partials of a unit in pass 1. -/
def State.partials (s : State) (p : Nat) (k : Cmd) (w : LogitUnit) : List RowAcc :=
  let first := w.blk * 512 - fld k.msg 56 4
  (List.range (min w.nrows (fld k.msg 60 4 - first))).map fun i =>
    rowPartial k.data (fld k.msg 64 4) w.col (nth [] w.data i)
      (s.rdPart p (tref k.msg 72) (first + i) (w.col * 256) 256) (s.labelOf p (fld k.msg 136 8) (first + i))

/-- Non-finite elements of row `i` of a unit, none of an ignored row. -/
def State.oddOf (s : State) (p : Nat) (k : Cmd) (w : LogitUnit) (i : Nat) : Nat :=
  let first := w.blk * 512 - fld k.msg 56 4
  if ignored (s.labelOf p (fld k.msg 136 8) (first + i)) (fld k.msg 64 4) then 0
  else count (fun v => !fIsFin v)
    (nth [] w.data i ++ s.rdPart p (tref k.msg 72) (first + i) (w.col * 256) 256)

theorem nth_mapRange {α : Type} (f : Nat → α) (e : α) {n i : Nat} (h : i < n) :
    nth e ((List.range n).map f) i = f i := by
  rw [nth, List.getD_eq_getElem _ _ (by rwa [length_mapRange]), List.getElem_map, List.getElem_range]

/-- A unit of pass 1 in its turn, or ahead with room, joins its row block. -/
theorem State.admitPass1_joins
    (hroom : s.blk? false p w.mb w.blk = none → 1 + s.win p d ≤ s.freeSegs p d)
    (hr : (s.blk? false p w.mb w.blk).getD (RowBlk.fresh p d w.mb w.blk k.cid (fld k.msg 64 4 / 256) false) = r)
    (hpass : r.pass1 = false) (hcol : w.col < r.cols)
    (hturn : w.col = r.next ∨ (r.next < w.col ∧ w.col ≤ r.next + s.win p d ∧ r.parts.length < s.win p d))
    (hacc : s.tagAccess p (lossRanges k.msg (w.blk * 512 - fld k.msg 56 4)
      (min w.nrows (fld k.msg 60 4 - (w.blk * 512 - fld k.msg 56 4))) w.col false false) = none) :
    let odd := ((List.range (min w.nrows (fld k.msg 60 4 - (w.blk * 512 - fld k.msg 56 4)))).map
      (s.oddOf p k w)).foldl (· + ·) 0
    s.admitPass1 d p k w = some ((s.nfCount d p odd).putBlk
      { r.join [dRev k.data 0, dRev k.data 1] 0 w.col (s.partials p k w) with nonfin := r.nonfin + odd }) := by
  intro odd
  have hpartials : ((List.range (min w.nrows (fld k.msg 60 4 - (w.blk * 512 - fld k.msg 56 4)))).map fun i =>
      let v := nth ([], []) ((List.range (min w.nrows (fld k.msg 60 4 - (w.blk * 512 - fld k.msg 56 4)))).map fun i =>
        (nth [] w.data i, s.rdPart p (tref k.msg 72) (w.blk * 512 - fld k.msg 56 4 + i) (w.col * 256) 256)) i
      rowPartial k.data (fld k.msg 64 4) w.col v.1 v.2
        (s.labelOf p (fld k.msg 136 8) (w.blk * 512 - fld k.msg 56 4 + i))) = s.partials p k w :=
    List.map_congr_left fun i hi => by
      dsimp only
      rw [nth_mapRange _ _ (List.mem_range.mp hi)]
  have hodd : ((List.range (min w.nrows (fld k.msg 60 4 - (w.blk * 512 - fld k.msg 56 4)))).map fun i =>
      let v := nth ([], []) ((List.range (min w.nrows (fld k.msg 60 4 - (w.blk * 512 - fld k.msg 56 4)))).map fun i =>
        (nth [] w.data i, s.rdPart p (tref k.msg 72) (w.blk * 512 - fld k.msg 56 4 + i) (w.col * 256) 256)) i
      if ignored (s.labelOf p (fld k.msg 136 8) (w.blk * 512 - fld k.msg 56 4 + i)) (fld k.msg 64 4) then 0
      else count (fun x => !fIsFin x) (v.1 ++ v.2)) = (List.range (min w.nrows
        (fld k.msg 60 4 - (w.blk * 512 - fld k.msg 56 4)))).map (s.oddOf p k w) :=
    List.map_congr_left fun i hi => by
      dsimp only
      rw [nth_mapRange _ _ (List.mem_range.mp hi)]
      rfl
  rw [State.admitPass1]
  dsimp only
  rw [show (s.blk? false p w.mb w.blk).getD (RowBlk.fresh p d w.mb w.blk k.cid (lCols k.msg / 256) false) = r from hr]
  refine (if_pos ⟨?room, by rw [hpass]; rfl, hcol, hturn⟩).trans ?joined
  case room =>
    split
    · rfl
    · exact decide_eq_true (hroom ‹_›)
  case joined =>
    rw [show s.tagAccess p (lossRanges k.msg (w.blk * 512 - lFirst k.msg)
      (min w.nrows (lRows k.msg - (w.blk * 512 - lFirst k.msg))) w.col false false) = none from hacc]
    dsimp only
    rw [(RowBlk.join_keeps ..).2]
    exact congrArg₂ (fun ys n => some ((s.nfCount d p n).putBlk { r.join [dRev k.data 0, dRev k.data 1] 0 w.col ys with
      nonfin := r.nonfin + n })) hpartials (congrArg (List.foldl (· + ·) 0) hodd)

/-! ## Pass 2 (R185, R189, R192) -/

/-- Non-finite elements that pass 2 finds in row `i`, none where pass 1 found one. -/
def State.newOf (s : State) (p : Nat) (k : Cmd) (w : LogitUnit) (r : RowBlk) (i : Nat) : Nat :=
  let first := w.blk * 512 - fld k.msg 56 4
  if ignored (s.labelOf p (fld k.msg 136 8) (first + i)) (fld k.msg 64 4) ∨ (nth emptyAcc r.rows i).nf then 0
  else count (fun x => !fIsFin x) (nth [] w.data i ++
    s.rdPart p (tref k.msg 72) (first + i) (w.col * 256) 256)

/-- Rows of a unit. -/
def unitRows (k : Cmd) (w : LogitUnit) : Nat := min w.nrows (fld k.msg 60 4 - (w.blk * 512 - fld k.msg 56 4))

/-- Rows whose first non-finite value is found in this unit. -/
def State.foundRows (s : State) (p : Nat) (k : Cmd) (w : LogitUnit) (r : RowBlk) : List Nat :=
  (List.range (unitRows k w)).filter fun i => s.newOf p k w r i ≠ 0 && !r.nf2.contains i

/-- The row block after this unit of pass 2. -/
def State.passed2 (s : State) (p : Nat) (k : Cmd) (w : LogitUnit) (r : RowBlk) : RowBlk :=
  { r with
    nf2 := r.nf2 ++ s.foundRows p k w r
    nonfin := r.nonfin + ((List.range (unitRows k w)).map (s.newOf p k w r)).foldl (· + ·) 0
    pass2 := r.pass2 ++ [w.col] }

/-- The gradient of row `i` written: NaN over the earlier column blocks of a row found here, then this one's. -/
def State.gradRow (s : State) (p : Nat) (k : Cmd) (w : LogitUnit) (r : RowBlk) (i : Nat) (u : State) : State :=
  let first := w.blk * 512 - fld k.msg 56 4
  (if (s.foundRows p k w r).contains i then r.pass2.foldl (fun u j' =>
      u.wrPart p (tref k.msg 104) (first + i) (j' * 256) (List.replicate 256 0x7FC00000#32)) u else u).wrPart p
    (tref k.msg 104) (first + i) (w.col * 256)
    (lockGrad k.data ((s.passed2 p k w r).rowAt i)
      (ignored (s.labelOf p (fld k.msg 136 8) (first + i)) (fld k.msg 64 4)) w.col
      (s.labelOf p (fld k.msg 136 8) (first + i)) (nth [] w.data i)
      (s.rdPart p (tref k.msg 72) (first + i) (w.col * 256) 256))

/-- The row losses of a row block through its last column block. -/
def State.rowLosses (s : State) (p : Nat) (k : Cmd) (w : LogitUnit) (r : RowBlk) : List Word :=
  (List.range (unitRows k w)).map fun i => lockLoss k.data ((s.passed2 p k w r).rowAt i)
    (ignored (s.labelOf p (fld k.msg 136 8) (w.blk * 512 - fld k.msg 56 4 + i)) (fld k.msg 64 4))

theorem State.newOf_eq (s : State) (p : Nat) (k : Cmd) (w : LogitUnit) (r : RowBlk) (i : Nat) :
    s.newOf p k w r i = if ((r.rows[i]?).getD emptyAcc).nf then 0 else s.oddOf p k w i := by
  unfold State.newOf State.oddOf
  by_cases hnf : ((r.rows[i]?).getD emptyAcc).nf = true
  · rw [if_pos hnf]
    exact if_pos (.inr hnf)
  · rw [if_neg hnf]
    exact if_congr (or_iff_left hnf) rfl rfl

theorem State.gradRow_sameWrites (s : State) (p : Nat) (k : Cmd) (w : LogitUnit) (r : RowBlk) (i : Nat) {x y : State}
    (h : SameWrites x y) : SameWrites (s.gradRow p k w r i x) (s.gradRow p k w r i y) := by
  refine SameWrites.wrPart ?_ _ _ _ _ _
  by_cases hc : (s.foundRows p k w r).contains i = true
  · rw [if_pos hc, if_pos hc]
    refine SameWrites.foldl (fun _ _ _ hxy => ?_) _ h
    exact hxy.wrPart _ _ _ _ _
  · rwa [if_neg hc, if_neg hc]

theorem Moves.gradRow (s : State) (p : Nat) (k : Cmd) (w : LogitUnit) (r : RowBlk) (i : Nat) (x : State) :
    Moves [.mem] x (s.gradRow p k w r i x) :=
  (Moves.ite (.foldl (fun y _ => Moves.wrPart y _ _ _ _ _) _ x) .refl).andThen (Moves.wrPart _ _ _ _ _ _)
    (List.Subset.refl _)

/-- A unit of pass 2 of its row block: the gradients stand in memory, with the last column block the row losses. -/
theorem State.admitPass2_writes (hr : s.blk? false p w.mb w.blk = some r) (hpass : r.pass1 = true) (hd : r.die = d)
    (hcol : w.col < r.cols) (hnew : r.pass2.contains w.col = false)
    (hacc : s.tagAccess p (lossRanges k.msg (w.blk * 512 - fld k.msg 56 4) (unitRows k w) w.col true
      (decide (r.cols ≤ r.pass2.length + 1))) = none) :
    s.admitPass2 d p k w =
      let y := (forN (unitRows k w) (s.nfCount d p
        (((List.range (unitRows k w)).map (s.newOf p k w r)).foldl (· + ·) 0))
        (s.gradRow p k w r)).putBlk (s.passed2 p k w r)
      some (if (s.passed2 p k w r).complete then
        y.wrLosses p k.msg 144 (w.blk * 512 - fld k.msg 56 4) (s.rowLosses p k w r) else y) := by
  rw [State.admitPass2, hr]
  dsimp only
  refine (if_pos ⟨hpass, hd, hcol, by rw [hnew]; rfl⟩).trans ?_
  rw [show s.tagAccess p (lossRanges k.msg (w.blk * 512 - lFirst k.msg)
    (min w.nrows (lRows k.msg - (w.blk * 512 - lFirst k.msg))) w.col true
      (decide (r.cols ≤ r.pass2.length + 1))) = none from hacc]
  dsimp only
  rfl

/-! ## A unit admitted in lock-step -/

/-- What the admission of a whole column block in lock-step comes to. -/
theorem State.admission_lockStep (hlock : s.topk p = false) (hnw : w.nw = 256) (hfree : s.intakeOcc p d < s.intake p d)
    (hcover : s.coverOf p w.mb w.blk = some k) (hhome : s.homeOf p (bits (fld k.msg 52 1) 2 1) w.blk = some d) :
    s.admission d p w = if w.pass = 1 then s.admitPass1 d p k w else s.admitPass2 d p k w := by
  rw [State.admission, if_pos hnw, decide_eq_true hfree, if_pos rfl, State.admitUnit, hlock, hcover]
  exact if_pos hhome

/-- A row block of the lock-step side with the keys of a unit. -/
def RowBlk.IsLockStep (r : RowBlk) (p : Nat) (w : LogitUnit) : Prop :=
  r.teacherSide = false ∧ r.stateOnly = false ∧ r.part = p ∧ r.mb = w.mb ∧ r.blk = w.blk

theorem RowBlk.IsLockStep.of_keys (hx : x.IsLockStep p w) (h : r.SameKeys x) : r.IsLockStep p w := by
  obtain ⟨ht, ho, hp, hmb, hb⟩ := hx
  obtain ⟨ht', ho', hp', hmb', hb', -⟩ := h
  exact ⟨ht'.trans ht, ho'.trans ho, hp'.trans hp, hmb'.trans hmb, hb'.trans hb⟩

theorem State.isLockStep_of_blk? (h : s.blk? false p w.mb w.blk = some r) : r.IsLockStep p w := by
  have hq := List.find?_some (p := fun r : RowBlk =>
    r.teacherSide == false && !r.stateOnly && r.part == p && r.mb == w.mb && r.blk == w.blk) h
  simpa [RowBlk.IsLockStep, and_assoc] using hq

/-- The row block of a unit, opened where it is not. -/
theorem State.isLockStep_getD (cid cols : Nat) :
    ((s.blk? false p w.mb w.blk).getD (RowBlk.fresh p d w.mb w.blk cid cols false)).IsLockStep p w := by
  cases h : s.blk? false p w.mb w.blk with
  | none => exact ⟨rfl, rfl, rfl, rfl, rfl⟩
  | some x => exact State.isLockStep_of_blk? h

theorem State.putBlk_sprue (h : z.sprue = s.sprue) (r : RowBlk) :
    (z.putBlk r).sprue = { s.sprue with blks := putBlks s.sprue.blks r } := by
  rw [State.putBlk_eq, h]
  exact congrArg (fun x : Sprue => { x with blks := putBlks s.sprue.blks r }) h

/-- An admission whose row block is `r` and that leaves the other lists of the Sprue. -/
theorem State.lockStep_sent (h : s.Admissible d p b j w) (hz : s.admission d p w = some z) (hparts : z.parts = s.parts)
    (hsp : z.sprue = { s.sprue with blks := putBlks s.sprue.blks r }) (hr : r.IsLockStep p w) :
    ∃ t, exec (.sprueUnitAdmit d p w.mb b j) s = .next t ∧ t.blk? false p w.mb w.blk = some r ∧
      t.sprue.waiting = s.sprue.waiting.erase w ∧ t.sprue.sent = s.sprue.sent ++ [[p, w.cid, w.i, w.j]] ∧
      t.mem = z.mem := by
  obtain ⟨t, hex, hm⟩ := sprueUnitAdmit_sent h hz (State.part_eq_of_parts hparts p ▸ h.up)
  have hblks : t.sprue.blks = putBlks s.sprue.blks r := by
    rw [hm.sprue]
    exact congrArg Sprue.blks hsp
  refine ⟨t, hex, ?_, ?_, ?_, hm.mem⟩
  · obtain ⟨ht, ho, hp, hmb, hb⟩ := hr
    have hput := State.blk?_putBlk (s := s) ho
    rw [ht, hp, hmb, hb] at hput
    rwa [State.blk?, hblks]
  · rw [hm.sprue]
    exact (congrArg (fun x : Sprue => x.waiting.erase w) hsp :)
  · rw [hm.sprue]
    exact (congrArg (fun x : Sprue => x.sent ++ [[p, w.cid, w.i, w.j]]) hsp :)

theorem lockStepPasses : Stated.LockStepPasses := by
  intro s d p b j k w hc hlive hup hlow hhigh hlock hheld hw hnw hfree hcover hhome N first n lab tea stu odd old put
  obtain rfl : w.blk = b := by
    have hq := List.find?_some hw
    simp only [Bool.and_eq_true, beq_iff_eq] at hq
    exact hq.1.2
  have hadm : s.Admissible d p w.blk j w := ⟨hlive, hup, hlow, hhigh, hheld, hw⟩
  have hadmission := State.admission_lockStep hlock hnw hfree hcover hhome
  refine ⟨fun hpass => ?_, fun r hpass hold hp1 hd hcol hnew => ?_⟩
  · intro r hroom hp1 hcol hturn hacc
    have hadmit := State.admitPass1_joins hroom rfl hp1 hcol hturn hacc
    rw [if_pos hpass, hadmit] at hadmission
    obtain ⟨hkeys, -⟩ := RowBlk.join_keeps [dRev k.data 0, dRev k.data 1] 0 r w.col (s.partials p k w)
    have hnf := Moves.ofBusOnly (BusOnly.nfCount s d p (((List.range n).map odd).foldl (· + ·) 0))
    obtain ⟨t, hex, hblk, hwaits, hsent, hmem⟩ := State.lockStep_sent hadm hadmission hnf.parts
      (State.putBlk_sprue hnf.sprue _) ((State.isLockStep_getD _ _).of_keys (hkeys :))
    exact ⟨t, ⟨hex, hblk, hwaits, hsent⟩, hmem.trans hnf.mem⟩
  · intro last hacc bad found r' grads
    have hb : s.newOf p k w r = bad := funext (s.newOf_eq p k w r)
    have hfound : s.foundRows p k w r = found := by rw [State.foundRows, hb]; rfl
    have hr' : s.passed2 p k w r = r' := by rw [State.passed2, hfound, hb]; rfl
    have hgrads : forN (unitRows k w) s (s.gradRow p k w r) = grads := by
      unfold State.gradRow
      rw [hfound, hr']
      rfl
    have hcomplete : (s.passed2 p k w r).complete = last := by
      rw [hr', RowBlk.complete, show r'.pass1 = true from hp1, Bool.true_and]
      exact congrArg (fun n => decide (r.cols ≤ n)) List.length_append
    have hadmit := State.admitPass2_writes hold hp1 hd hcol hnew hacc
    rw [if_neg hpass, hadmit, hcomplete, hr'] at hadmission
    have hnf := Moves.ofBusOnly (BusOnly.nfCount s d p (((List.range (unitRows k w)).map (s.newOf p k w r)).foldl
      (· + ·) 0))
    have hwrites := Moves.forN (Moves.gradRow s p k w r) (unitRows k w) (s.nfCount d p
      (((List.range (unitRows k w)).map (s.newOf p k w r)).foldl (· + ·) 0))
    have hsame := SameWrites.forN (fun i _ _ h => State.gradRow_sameWrites s p k w r i h) (unitRows k w)
      (SameWrites.ofMoves hnf)
    rw [hgrads] at hsame
    generalize forN (unitRows k w) (s.nfCount d p _) (s.gradRow p k w r) = y at hadmission hwrites hsame
    have hm : Moves [.mem] (y.putBlk r') (if last then
        (y.putBlk r').wrLosses p k.msg 144 (w.blk * 512 - fld k.msg 56 4) (s.rowLosses p k w r) else y.putBlk r') :=
      .ite (Moves.wrLosses _ _ _ _ _ _) .refl
    obtain ⟨t, hex, hblk, hwaits, hsent, hmem⟩ := State.lockStep_sent hadm hadmission
      ((hm.parts.trans hwrites.parts).trans hnf.parts)
      (hm.sprue.trans (State.putBlk_sprue (hwrites.sprue.trans hnf.sprue) r'))
      ((State.isLockStep_of_blk? hold).of_keys ⟨rfl, rfl, rfl, rfl, rfl, rfl⟩)
    refine ⟨t, ⟨hex, hblk, hwaits, hsent⟩, hmem.trans ?_⟩
    have hput : SameWrites grads (y.putBlk r') := hsame.trans (SameWrites.ofMoves (Moves.setSprueBlks y _))
    by_cases hl : last = true
    · rw [if_pos hl, if_pos hl]
      unfold State.rowLosses
      rw [hr']
      exact (hput.wrLosses _ _ _ _ _).mem
    · rw [if_neg hl, if_neg hl]
      exact hput.mem

open Sys2Proof Sys2Proof.Machine in
/-- Settles O20: a row block of a command passes through its slot, a unit in lock-step joins or passes its row block. -/
theorem sprueLosses : Obligations.SprueLosses := ⟨featureLossAndGradient, distillationLoss, lockStepPasses⟩

end Sys2Proof.Machine
end

section
/-! SUPPORT. The commands of Fumarole (R217, R221 to R232): a command at work in its slot runs to its outcome and leaves
its stack queue. -/
set_option Elab.async false

namespace Sys2Proof.Machine

variable {s t z x y : State} {p c n op : Nat} {k : Cmd} {o : Compl}

/-! ## A command at work runs to its outcome (R217) -/

/-- Partitions and stack queues stand as they were. -/
structure QueuesSame (s t : State) : Prop where
  parts : t.parts = s.parts
  queue : t.stk.fumQ = s.stk.fumQ
  run : t.stk.fumRun = s.stk.fumRun

theorem QueuesSame.ofMoves {l : List Field} (h : Moves l s t) (hp : .parts ∉ l := by decide)
    (hk : .stk ∉ l := by decide) : QueuesSame s t :=
  ⟨h .parts hp, congrArg Stacks.fumQ (h .stk hk), congrArg Stacks.fumRun (h .stk hk)⟩

theorem QueuesSame.trans (h : QueuesSame s t) (h' : QueuesSame t z) : QueuesSame s z :=
  ⟨h'.parts.trans h.parts, h'.queue.trans h.queue, h'.run.trans h.run⟩

theorem BusOnly.setFumNstat (s : State) (n : Nat) (cs : List Nat) (v : Nat) : BusOnly s (s.setFumNstat n cs v) :=
  List.foldlRecOn (motive := BusOnly s) _ _ .refl fun _ hx _ _ => hx.trans .setPg

/-- The end of a command with status OK: its outcome, and its place in the queue freed. -/
theorem State.fmEnd_done (hc : s.Canon) (hq : twf [] s.stk.fumQ = true) (hr : twf [] s.stk.fumRun = true)
    (hk : s.cmd? p c = some k) (ho : o.status = 0) :
    (s.fmEnd n p c o).mem = s.mem ∧ Stated.DoneWith (s.fmEnd n p c o) p c o ∧
      (s.fmEnd n p c o).fumQ n p = (s.fumQ n p).filter (· ≠ c) ∧
      (s.fmEnd n p c o).fumRun n p = (s.fumRun n p).filter (· ≠ c) := by
  have hend : s.fmEnd n p c o = (s.modCmd p c fun k => { k with out := some o }).fumLeave n p c := by
    rw [State.fmEnd, hk]
    dsimp only
    rw [if_pos ho]
  rw [hend]
  exact ⟨rfl, State.doneWith_modCmd hc hk, tget_tput_same _ _ _ hq, tget_tput_same _ _ _ hr⟩

/-- A command at work in its slot whose effect leaves partitions and queues, and has status OK, is done. -/
theorem State.fmRow_done (h : Stated.FumRuns s p c op n k) (hacc : s.tagAccess p
      (if op = 0x380 ∧ s.updFate p k = some true then [] else fmRanges op k.msg k.data) = none)
    {f : Cmd → State → State × Compl} (hf : f k s = (z, o)) (hz : QueuesSame s z) (hzc : z.Canon) (ho : o.status = 0) :
    ∃ t, s.fmRow p c op f = .next t ∧ t.mem = z.mem ∧ Stated.FumDone s t p c n o := by
  have hstack := h.stack
  have hb := Moves.ofBusOnly (BusOnly.setFumNstat z n k.fmChans o.nstat.toNat)
  have hq := hz.trans (.ofMoves hb)
  obtain ⟨hmem, hdone, hqueue, hrun⟩ := State.fmEnd_done (n := n) ((Keeps.setFumNstat .refl).canon hzc)
    (hq.queue ▸ h.queues) (hq.run ▸ h.runs) ((State.cmd?_of_parts hq.parts p c).trans h.cmd) ho
  refine ⟨_, ?_, hmem.trans hb.mem, hdone, ?_, ?_⟩
  · rw [State.fmRow, h.cmd]
    dsimp only
    rw [hstack, if_pos ⟨h.isOp, h.phase, h.out, h.head, h.live, h.up, h.turn⟩, hacc, hf]
  · rw [hqueue, State.fumQ, State.fumQ, hq.queue]
  · rw [hrun, State.fumRun, State.fumRun, hq.run]

/-- The ranges of a command other than an update. -/
theorem Stated.FumRuns.noUpdate (h : Stated.FumRuns s p c op n k) (hop : op ≠ 0x380) : s.tagAccess p
    (if op = 0x380 ∧ s.updFate p k = some true then [] else fmRanges op k.msg k.data) = none := by
  rw [if_neg fun h => hop h.1]
  exact h.access.resolve_left fun h => hop h.1

/-! ## What reads see, and writes with their counts -/

theorem SameWrites.byte (h : SameWrites s t) (a : Nat) : t.byte a = s.byte a := State.byte_of_mem h.mem a

theorem SameWrites.rd (h : SameWrites s t) (tag a n : Nat) : t.rd tag a n = s.rd tag a n := by
  simp only [State.rd, h.firstBad, State.bytes, h.byte, h.allows]

theorem SameWrites.fhAdd (h : SameWrites s t) (d d' p p' cls cls' fmt fmt' : Nat) (a a' : Tally) :
    SameWrites (s.fhAdd d p cls fmt a) (t.fhAdd d' p' cls' fmt' a') :=
  ((SameWrites.ofMoves (Moves.fhAdd s d p cls fmt a)).symm.trans h).trans (.ofMoves (Moves.fhAdd t d' p' cls' fmt' a'))

/-! ## FM_AMAX, FM_GATHER, FM_EF (R226 to R228) -/

theorem fmAmax_done (h : Stated.FumRuns s p c 0x381 n k) :
    let rows := s.rdTensor p (tref k.msg 56)
    let blocks := if bit (fld k.msg 52 1) 0 then chunksOf 128 rows else [rows]
    let am (i : Nat) : Fl := amaxFin (blocks.getD i []).flatten
    ∃ t, exec (.fmAmax p c) s = .next t ∧
      t.mem = (forN blocks.length s fun i s =>
        (s.wr p (fld k.msg 88 8 + 4 * i) (leBytes 4 (f32 (am i)).toNat)).wr p (fld k.msg 96 8 + i)
          (leBytes 1 (wrap 8 (sigmaOf (scaleF (fld k.msg 53 1)) (am i))))).mem ∧
      Stated.FumDone s t p c n ⟨0, 0, 0, 0, leBytes 8 ((rows.map (count fun v => !v.isFin)).foldl (· + ·) 0)⟩ := by
  intro rows blocks am
  refine State.fmRow_done h (Stated.FumRuns.noUpdate h (by decide)) (f := fmAmaxFx p) ?_
    (.ofMoves (Moves.forN (l := [.mem]) (fun i x => (Moves.wr x _ _ _).andThen (Moves.wr _ _ _ _)) _ s)) ?_ rfl
  · rw [fmAmaxFx]
    simp only [List.flatMap_id]
    rfl
  · exact (Keeps.forN' _ .refl fun i x hx => .wr (.wr hx)).canon h.canon

theorem fmGather_done (h : Stated.FumRuns s p c 0x382 n k) :
    let rb := fld k.msg 52 4
    let vl := fld k.msg 60 4
    let idx (r : Nat) : Nat := fld k.data (4 * r) 4
    let oob := count (fun r => decide (vl ≤ idx r)) (List.range (fld k.msg 56 4))
    ∃ t, exec (.fmGather p c) s = .next t ∧
      t.mem = (forN (fld k.msg 56 4) s fun r t => t.wr p (fld k.msg 80 8 + r * rb)
        (if idx r < vl then t.rd p (fld k.msg 64 8 + idx r * rb) rb else List.replicate rb 0)).mem ∧
      Stated.FumDone s t p c n ⟨0, 0, 0, if oob = 0 then 0 else 8, leBytes 4 oob⟩ := by
  intro rb vl idx oob
  have hlen : (gatherIdx k.msg k.data).length = fld k.msg 56 4 := length_mapRange ..
  have hoob : count (fun i => decide (vl ≤ i)) (gatherIdx k.msg k.data) = oob := by
    rw [count, gatherIdx, List.filter_map, List.length_map]
    rfl
  have hrows : forN (gatherIdx k.msg k.data).length s (fun r t =>
      let i := nth 0 (gatherIdx k.msg k.data) r
      t.wr p (fld k.msg 80 8 + r * rb) (if i < vl then t.rd p (fld k.msg 64 8 + i * rb) rb else List.replicate rb 0)) =
      forN (fld k.msg 56 4) s fun r t => t.wr p (fld k.msg 80 8 + r * rb)
        (if idx r < vl then t.rd p (fld k.msg 64 8 + idx r * rb) rb else List.replicate rb 0) := by
    rw [hlen]
    refine forN_congr_lt _ _ fun r hr t => ?_
    dsimp only
    rw [gatherIdx, nth_mapRange _ _ hr]
  refine State.fmRow_done h (Stated.FumRuns.noUpdate h (by decide)) (f := fmGatherFx p) ?_
    (.ofMoves (Moves.forN (l := [.mem]) (fun i x => Moves.wr x _ _ _) _ s)) ?_ rfl
  · rw [fmGatherFx]
    refine Prod.ext hrows ?_
    dsimp only
    rw [show fld k.msg 60 4 = vl from rfl, hoob]
    by_cases h0 : oob = 0
    · rw [if_pos h0, if_pos h0]; rfl
    · rw [if_neg h0, if_neg h0]; rfl
  · exact (Keeps.forN' _ .refl fun i x hx => .wr hx).canon h.canon

theorem Moves.efPut (s : State) (p die : Nat) (m : List Byte) (i : Nat) (ws : List Word) :
    Moves [.mem, .bus, .health] s (s.efPut p die m i ws) :=
  (Moves.wr s _ _ _).mono.andThen (Moves.fhAdd _ _ _ _ _ _)

theorem Moves.efBlock (s : State) (p die : Nat) (m : List Byte) (b : Nat) :
    Moves [.mem, .bus, .health] s (s.efBlock p die m b) := by
  have hscale (x : List Byte) (y : List Byte) (e : Tally) := ((Moves.wr s p (fld m 96 8 + 32 * b) x).andThen
    (Moves.wr _ p (fld m 104 8 + 2 * b) y)).mono (l' := [.mem, .bus, .health]).andThen (Moves.fhAdd _ die p 2 2 e)
  exact .ite (hscale _ _ _) ((hscale _ _ _).andThen (Moves.efPut _ _ _ _ _ _))

theorem fmEf_done (h : Stated.FumRuns s p c 0x383 n k) :
    let cnt := fld k.msg 56 8
    let die := dieOfStack n
    ∃ t, exec (.fmEf p c) s = .next t ∧ Stated.FumDone s t p c n ⟨0, 0, 0, 0, []⟩ ∧
      t.mem =
        (if fld k.msg 52 1 = 0 then
          s.wr p (fld k.msg 80 8)
            ((List.range cnt).flatMap fun i => leBytes 4 (fadd (s.efE p k.msg i) (s.efG p k.msg i)).toNat)
        else if fld k.msg 52 1 = 1 then
          s.efPut p die k.msg 0 ((List.range cnt).map fun i =>
            fsub (s.rdW p (fld k.msg 80 8 + 4 * i)) (s.rdW p (fld k.msg 88 8 + 4 * i)))
        else forN (cdiv cnt 256) s fun b s => s.efBlock p die k.msg b).mem := by
  intro cnt die
  have hfx : fmEfFx p k s = (if fld k.msg 52 1 = 0 then
      s.wr p (fld k.msg 80 8)
        ((List.range cnt).flatMap fun i => leBytes 4 (fadd (s.efE p k.msg i) (s.efG p k.msg i)).toNat)
    else if fld k.msg 52 1 = 1 then
      s.efPut p die k.msg 0 ((List.range cnt).map fun i =>
        fsub (s.rdW p (fld k.msg 80 8 + 4 * i)) (s.rdW p (fld k.msg 88 8 + 4 * i)))
    else forN (cdiv cnt 256) s fun b s => s.efBlock p die k.msg b, ⟨0, 0, 0, 0, []⟩) := by
    rw [fmEfFx]
    dsimp only
    rw [List.flatMap_map, h.stack]
    rfl
  have hcanon := (Keeps.fmEfFx (a0 := p) (a1 := k) .refl).canon h.canon
  rw [hfx] at hcanon
  obtain ⟨t, hex, hmem, hdone⟩ := State.fmRow_done h (Stated.FumRuns.noUpdate h (by decide)) hfx
    (.ofMoves (l := [.mem, .bus, .health]) (.ite (Moves.wr s _ _ _).mono (.ite (Moves.efPut s _ _ _ _ _)
      (.forN (fun b x => Moves.efBlock x _ _ _ _) _ s)))) hcanon rfl
  exact ⟨t, hex, hdone, hmem⟩

theorem fumaroleDataCommands : Stated.FumaroleDataCommands := fun _ _ _ _ _ =>
  ⟨fun h => fmAmax_done h, fun h => fmGather_done h, fun h => fmEf_done h⟩

/-! ## FM_ATTN (R231) -/

theorem getD_map_map {α β γ : Type} (l : List (List α)) (e : α → β) (g : β → γ) (i : Nat) :
    ((l.map fun r => r.map e).getD i []).map g = (l.getD i []).map fun w => g (e w) := by
  simp only [List.getD_eq_getElem?_getD, List.getElem?_map]
  cases l[i]? with
  | none => rfl
  | some r => exact List.map_map

theorem flatMap_map_map {α β γ : Type} (l : List (List α)) (e : α → β) (g : β → γ) :
    (l.map fun r => r.map e).flatMap (fun r => r.map g) = l.flatMap fun r => r.map fun w => g (e w) := by
  rw [List.flatMap_map]
  simp only [List.map_map]
  rfl

theorem Moves.kvWrite (s : State) (p n : Nat) (g : KvGeo) (P src : Nat) (nodes : List Node) :
    Moves [.mem] s (s.kvWrite p n g P src nodes) :=
  .forN (fun _ x => .ite (.forN (fun _ y => .foldl (fun z _ => (Moves.wr z _ _ _).andThen (Moves.wr _ _ _ _)) _ y) _ x)
    .refl) _ s

theorem Moves.setFresh (s : State) (n : Nat) : Moves [.fresh] s (s.setFresh n) := fun f hf => by
  cases f with
  | fresh => exact absurd List.mem_cons_self hf
  | _ => rfl

theorem fmAttn_done (h : Stated.FumRuns s p c 0x384 n k) :
    let m := k.msg
    let hq := fld m 53 1
    let g : KvGeo := ⟨fld m 54 1, 2 ^ fld m 55 1, fld m 57 1⟩
    let P := kvPage g.hkv g.d
    let nodes := fmNodes m k.data
    let pages := fmPages m k.data
    let s1 := if bit (fld m 56 1) 0 then s.kvWrite p n g P (fld m 112 8) nodes else s
    let q := s1.rdTensor p (tref m 64)
    let hs := (List.range hq).map fun h => s1.kvHead p n g P (fld m 55 1) h (h / (hq / g.hkv)) q pages nodes
    let emp := hs.any fun h => h.1.any fun r => r.l == 0
    let flags := hs.foldl (fun a h => a ||| h.2) (if emp then 2 else 0)
    let o := joinHeads q.length (hs.map fun h => h.1.map AttnRow.norm)
    let l := joinHeads q.length (hs.map fun h => h.1.map fun r => [r.lse])
    let s2 := (forN q.length s1 fun i s => s.wr p (fld m 120 8 + i * 2 * hq * g.d)
      (packCodes 2 ((o.getD i []).map fun w => (bf16.enc false (fl w)).1))).fhAdd (dieOfStack n) p 1 2
        (Tally.of (o.flatMap fun r => r.map fun w => (bf16.enc false (fl w)).2))
    ∃ t, exec (.fmAttn p c) s = .next t ∧
      t.mem = (if bit (fld m 56 1) 1 then
        forN q.length s2 fun i s => s.wr p (fld m 128 8 + i * 4 * hq)
          ((l.getD i []).flatMap fun w => leBytes 4 w.toNat) else s2).mem ∧
      Stated.FumDone s t p c n ⟨0, 0, if emp then 16 else 0, BitVec.ofNat 32 flags, []⟩ := by
  obtain rfl := h.stack
  intro m hq g P nodes pages s1 q hs emp flags o l s2
  obtain ⟨N, hfx⟩ : ∃ N, fmAttnFx p k s = ((if bit (fld m 56 1) 1 then
        forN q.length s2 fun i s => s.wr p (fld m 128 8 + i * 4 * hq)
          ((l.getD i []).flatMap fun w => leBytes 4 w.toNat) else s2).setFresh N,
      ⟨0, 0, if emp then 16 else 0, BitVec.ofNat 32 flags, []⟩) := by
    refine ⟨(if bit (fld m 56 1) 1 then
        forN q.length s2 fun i s => s.wr p (fld m 128 8 + i * 4 * hq)
          ((l.getD i []).flatMap fun w => leBytes 4 w.toNat) else s2).fresh + 2 ^ 48, ?_⟩
    rw [fmAttnFx]
    dsimp only
    rw [flatMap_map_map]
    simp only [getD_map_map]
    rfl
  have hm₁ : Moves [.mem] s s1 := .ite (Moves.kvWrite s _ _ _ _ _ _) .refl
  have hm₂ : Moves [.mem, .bus, .health] s s2 :=
    (hm₁.andThen (.forN (fun _ x => Moves.wr x _ _ _) _ s1)).mono.andThen (Moves.fhAdd _ _ _ _ _ _)
  have hm₃ := hm₂.andThen (Moves.ite (l := [.mem]) (c := bit (fld m 56 1) 1 = true)
    (.forN (f := fun i s => s.wr p (fld m 128 8 + i * 4 * hq) ((l.getD i []).flatMap fun w => leBytes 4 w.toNat))
      (fun _ x => Moves.wr x _ _ _) q.length s2) .refl)
  have hcanon := (Keeps.fmAttnFx (a0 := p) (a1 := k) .refl).canon h.canon
  rw [hfx] at hcanon
  obtain ⟨t, hex, hmem, hdone⟩ := State.fmRow_done h (Stated.FumRuns.noUpdate h (by decide)) hfx
    (.ofMoves (l := [.mem, .bus, .health, .fresh]) (hm₃.mono.andThen (Moves.setFresh _ N))) hcanon rfl
  exact ⟨t, hex, hmem.trans (Moves.setFresh _ N).mem, hdone⟩

/-! ## FM_GEMV (R232) -/

theorem fp8_ite {α : Type} (f : Nat) (a b : α) : (if fp8 f then a else b) = if f = 3 ∨ f = 4 then a else b :=
  if_congr (by rw [fp8, Bool.or_eq_true, beq_iff_eq, beq_iff_eq]) rfl rfl

/-- The cells of y (row, vector, sum) written and counted. -/
def State.gemvWrite (s : State) (p : Nat) (m : List Byte) (top : Nat) (cells : List (Nat × Nat × RSum)) : State :=
  cells.foldl (fun (t : State) o =>
    let e := encElem (fld m 74 1) false 0 (fl o.2.2.v)
    (t.wr p (fld m 88 8 + o.2.1 * packed (fld m 74 1) top + o.1 * (fmtBits (fld m 74 1) / 8))
      (leBytes (fmtBits (fld m 74 1) / 8) e.1)).fhAdd (dieOfStack (fmStack m)) p 1 (fld m 74 1)
        (if fld m 74 1 = 0 then Tally.of [] else Tally.of [e.2])) s

/-- What an FM_GEMV comes to from its cells. -/
def State.gemvEffect (s : State) (p : Nat) (m : List Byte) (top : Nat) (cells : List (Nat × Nat × RSum)) :
    State × Compl :=
  let flags := cells.foldl (fun a o => a ||| o.2.2.flags) 0
  (s.gemvWrite p m top cells, ⟨0, 0, if flags &&& 2 = 0 then 0 else 16, BitVec.ofNat 32 flags, []⟩)

theorem Moves.gemvWrite (s : State) (p : Nat) (m : List Byte) (top : Nat) (cells : List (Nat × Nat × RSum)) :
    Moves [.mem, .bus, .health] s (s.gemvWrite p m top cells) :=
  Moves.foldl (fun y _ => (Moves.wr y p _ _).mono.andThen (Moves.fhAdd _ _ p 1 _ _)) cells s

theorem fmGemv_done (h : Stated.FumRuns s p c 0x385 n k) :
    let m := k.msg
    let B := fld m 52 1
    let K := fld m 60 4
    let wf := fld m 72 1
    let xf := fld m 73 1
    let yf := fld m 74 1
    let x (b : Nat) : List Fl := decRow xf (s.rd p (fld m 80 8 + b * packed xf K) (rowBytes xf K)) []
      (if xf = 3 ∨ xf = 4 then sext 8 (fld m 76 1) else 0) K
    let w (e : Slab) (r : Nat) : List Fl :=
      decRow wf (s.rd p (flaskAddr n e.gran + r * packed wf K) (rowBytes wf K))
        (if isMx wf then
          s.rd p (flaskAddr n e.gran + e.rows * packed wf K + r * scalePitch K) (scalePitch K) else [])
        (if wf = 3 ∨ wf = 4 then sext 8 (fld m 75 1) else 0) K
    let cells := (fmSlabs m k.data).flatMap fun e => (List.range e.rows).flatMap fun r =>
      (List.range B).map fun b => (e.row + r, b, dotChain (if wf = 2 then 16 else 32) (w e r) (x b) ⟨0, 0, 0⟩)
    let flags : Nat := cells.foldl (fun a o => a ||| o.2.2.flags) 0
    ∃ t, exec (.fmGemv p c) s = .next t ∧
      t.mem = (cells.foldl (fun (t : State) o =>
        let e := encElem yf false 0 (fl o.2.2.v)
        (t.wr p (fld m 88 8 + o.2.1 * packed yf (slabTop (fmSlabs m k.data)) + o.1 * (fmtBits yf / 8))
          (leBytes (fmtBits yf / 8) e.1)).fhAdd (dieOfStack n) p 1 yf
            (if yf = 0 then Tally.of [] else Tally.of [e.2])) s).mem ∧
      Stated.FumDone s t p c n ⟨0, 0, if flags &&& 2 = 0 then 0 else 16, BitVec.ofNat 32 flags, []⟩ := by
  obtain rfl := h.stack
  intro m B K wf xf yf x w cells flags
  have hcells : ((fmSlabs m k.data).flatMap fun e => (List.range e.rows).flatMap fun r =>
      (List.range B).map fun b => (e.row + r, b, dot (if wf = 2 then 16 else 32)
        (decRow wf (s.rd p (flaskAddr (fmStack m) e.gran + r * packed wf K) (rowBytes wf K))
          (if isMx wf then s.rd p (flaskAddr (fmStack m) e.gran + e.rows * packed wf K + r * scalePitch K)
            (scalePitch K)
            else []) (if fp8 wf then sext 8 (fld m 75 1) else 0) K)
        (((List.range B).map fun b => decRow xf (s.rd p (fld m 80 8 + b * packed xf K) (rowBytes xf K)) []
          (if fp8 xf then sext 8 (fld m 76 1) else 0) K).getD b []))) = cells := by
    simp only [fp8_ite]
    refine congrArg (List.flatMap · _) (funext fun e => congrArg (List.flatMap · _) (funext fun r => ?_))
    refine List.map_congr_left fun b hb => ?_
    rw [getD_mapRange _ (List.mem_range.mp hb)]
    rfl
  have hfx : fmGemvFx p k s = s.gemvEffect p m (slabTop (fmSlabs m k.data)) cells := by
    rw [← hcells]
    rfl
  have hcanon := (Keeps.fmGemvFx (a0 := p) (a1 := k) .refl).canon h.canon
  rw [hfx] at hcanon
  obtain ⟨t, hex, hmem, hdone⟩ :=
    State.fmRow_done h (Stated.FumRuns.noUpdate h (by decide)) hfx (.ofMoves (Moves.gemvWrite s p m _ cells)) hcanon rfl
  exact ⟨t, hex, hmem, hdone⟩

/-! ## FM_UPDATE (R221 to R225) -/

theorem SameWrites.rdU (h : SameWrites s t) (tag a n : Nat) : t.rdU tag a n = s.rdU tag a n :=
  congrArg leNat (h.rd tag a n)

theorem SameWrites.rdW (h : SameWrites s t) (tag a : Nat) : t.rdW tag a = s.rdW tag a :=
  congrArg w32 (h.rdU tag a 4)

/-- The results of the elements of a block. -/
def State.updOuts (s : State) (p base : Nat) (q : UpdPar) (e0 cnt b : Nat) : List UpdOut :=
  (List.range (min 128 (cnt - 128 * b))).map fun j =>
    updElem q (e0 + (128 * b + j)) (s.rdU p (base + 2 * (128 * b + j)) 2)
      (s.rdU p (base + 0x40000 + (128 * b + j)) 1) (s.rdW p (base + 0xC0000 + 4 * (128 * b + j)))
      (f32 (m8s (s.rdU p (base + 0x60000 + (128 * b + j)) 1) (s.rdU p (base + 0xA0000 + b) 1)))
      (f32 (m8r (s.rdU p (base + 0x80000 + (128 * b + j)) 1) (s.rdU p (base + 0xA0400 + b) 1)))

/-- The planes of a block written: H, D, the first moment with its scale, and the second where there is one. -/
def State.updPlanes (s : State) (p base : Nat) (q : UpdPar) (b : Nat) (outs : List UpdOut) : State :=
  let mo := encM8 false (outs.map fun o => fl o.m)
  let ro := encM8 true (outs.map fun o => fl o.r)
  let s := s.wr p (base + 2 * (128 * b)) (outs.flatMap fun o => leBytes 2 o.h)
  let s := s.wr p (base + 0x40000 + 128 * b) (outs.flatMap fun o => leBytes 1 o.d)
  let s := s.wr p (base + 0x60000 + 128 * b) (mo.2.flatMap fun c => leBytes 1 c.1)
  let s := s.wr p (base + 0xA0000 + b) (leBytes 1 mo.1)
  if q.kind = 0 then
    (s.wr p (base + 0x80000 + 128 * b) (ro.2.flatMap fun c => leBytes 1 c.1)).wr p (base + 0xA0400 + b) (leBytes 1 ro.1)
  else s

/-- The counts of a block. -/
def State.updCounts (s : State) (p die : Nat) (q : UpdPar) (outs : List UpdOut) : State :=
  let s := s.fhAdd die p 0 2 (Tally.of (outs.map (·.wLoss)))
  let s := s.fhAdd die p 3 0xB (Tally.of ((encM8 false (outs.map fun o => fl o.m)).2.map (·.2)))
  let s := if q.kind = 0 then
    s.fhAdd die p 3 0xC (Tally.of ((encM8 true (outs.map fun o => fl o.r)).2.map (·.2))) else s
  outs.foldl (fun s o => match o.nf with
    | some (c, f) => s.fhAdd die p c f ⟨0, 0, 1⟩
    | none => s) s

theorem State.updBlock_eq (s : State) (p die base : Nat) (q : UpdPar) (e0 cnt b : Nat) :
    s.updBlock p die base q e0 cnt b =
      (s.updPlanes p base q b (s.updOuts p base q e0 cnt b)).updCounts p die q (s.updOuts p base q e0 cnt b) := rfl

theorem Moves.updPlanes (s : State) (p base : Nat) (q : UpdPar) (b : Nat) (outs : List UpdOut) :
    Moves [.mem] s (s.updPlanes p base q b outs) := by
  have h := (((Moves.wr s p (base + 2 * (128 * b)) (outs.flatMap fun o => leBytes 2 o.h)).andThen
    (Moves.wr _ p (base + 0x40000 + 128 * b) (outs.flatMap fun o => leBytes 1 o.d))).andThen
    (Moves.wr _ p (base + 0x60000 + 128 * b)
      ((encM8 false (outs.map fun o => fl o.m)).2.flatMap fun c => leBytes 1 c.1))).andThen
    (Moves.wr _ p (base + 0xA0000 + b) (leBytes 1 (encM8 false (outs.map fun o => fl o.m)).1))
  exact .ite ((h.andThen (Moves.wr _ _ _ _)).andThen (Moves.wr _ _ _ _)) h

theorem Moves.updCounts (s : State) (p die : Nat) (q : UpdPar) (outs : List UpdOut) :
    Moves [.bus, .health] s (s.updCounts p die q outs) := by
  have h := (Moves.fhAdd s die p 0 2 (Tally.of (outs.map (·.wLoss)))).andThen
    (Moves.fhAdd _ die p 3 0xB (Tally.of ((encM8 false (outs.map fun o => fl o.m)).2.map (·.2))))
  have hnf (x : State) (o : UpdOut) : Moves [.bus, .health] x (match o.nf with
      | some (c, f) => x.fhAdd die p c f ⟨0, 0, 1⟩
      | none => x) := by
    cases o.nf with
    | none => exact .refl
    | some _ => exact Moves.fhAdd _ _ _ _ _ _
  exact (Moves.ite (c := q.kind = 0) (h.andThen (Moves.fhAdd _ _ _ _ _ _)) h).andThen (.foldl hnf outs _)

theorem Moves.updBlock (s : State) (p die base : Nat) (q : UpdPar) (e0 cnt b : Nat) :
    Moves [.mem, .bus, .health] s (s.updBlock p die base q e0 cnt b) :=
  (Moves.updPlanes s _ _ _ _ _).mono.andThen (Moves.updCounts _ _ _ _ _)

theorem SameWrites.updPlanes (h : SameWrites s t) (p base : Nat) (q : UpdPar) (b : Nat) (outs : List UpdOut) :
    SameWrites (s.updPlanes p base q b outs) (t.updPlanes p base q b outs) := by
  have h' := (((h.wr p (base + 2 * (128 * b)) (outs.flatMap fun o => leBytes 2 o.h)).wr p
    (base + 0x40000 + 128 * b) (outs.flatMap fun o => leBytes 1 o.d)).wr p (base + 0x60000 + 128 * b)
      ((encM8 false (outs.map fun o => fl o.m)).2.flatMap fun c => leBytes 1 c.1)).wr p (base + 0xA0000 + b)
        (leBytes 1 (encM8 false (outs.map fun o => fl o.m)).1)
  rw [State.updPlanes, State.updPlanes]
  split
  · exact (h'.wr _ _ _).wr _ _ _
  · exact h'

theorem SameWrites.updBlock (h : SameWrites s t) (p die base : Nat) (q : UpdPar) (e0 cnt b : Nat) :
    SameWrites (s.updBlock p die base q e0 cnt b) (t.updBlock p die base q e0 cnt b) := by
  have hout : t.updOuts p base q e0 cnt b = s.updOuts p base q e0 cnt b := by
    simp only [State.updOuts, h.rdU, h.rdW]
  rw [State.updBlock_eq, State.updBlock_eq, hout]
  exact ((SameWrites.ofMoves (Moves.updCounts _ _ _ _ _)).symm.trans (h.updPlanes _ _ _ _ _)).trans
    (.ofMoves (Moves.updCounts _ _ _ _ _))

/-- The blocks of a flask of an update, its record marked with the step. -/
def State.updBlocks (s : State) (p n : Nat) (k : Cmd) (e : Nat × List Byte) : State :=
  let q := s.updPar p k (fld e.2 0 4)
  forN (cdiv (fld e.2 12 4) 128)
    (s.setStk { s.stk with updStep := tput 0 s.stk.updStep (granKey n e.1) (fld k.msg 56 8) })
    fun b s => s.updBlock p (dieOfStack n) (flaskAddr n e.1) q (fld e.2 4 8) (fld e.2 12 4) b

theorem BusOnly.updBytes (s : State) (n g kind cnt : Nat) : BusOnly s (s.updBytes n g kind cnt) :=
  .ite .count64 .movesBytes

theorem SameWrites.updBlocks (h : SameWrites s t) (p n : Nat) (k : Cmd) (e : Nat × List Byte) :
    SameWrites (s.updBlocks p n k e) (t.updBlocks p n k e) := by
  have hpar : t.updPar p k (fld e.2 0 4) = s.updPar p k (fld e.2 0 4) := by
    rw [State.updPar, State.updPar, State.part_eq_of_parts h.parts]
  have hstk (v : Stacks) : SameWrites (s.setStk v) (t.setStk v) := ⟨h.mem, h.taps, rfl, h.parts⟩
  rw [State.updBlocks, State.updBlocks, hpar, h.stk]
  dsimp only
  generalize s.updPar p k (fld e.2 0 4) = q
  generalize Stacks.mk .. = v
  refine SameWrites.forN (fun b x y hxy => ?_) _ (hstk v)
  exact hxy.updBlock p (dieOfStack n) (flaskAddr n e.1) q (fld e.2 4 8) (fld e.2 12 4) b

/-- The update of a flask writes what its blocks write. -/
theorem SameWrites.updFlask (h : SameWrites s t) (p : Nat) (k : Cmd) (e : Nat × List Byte) :
    SameWrites (s.updFlask p k e) (t.updBlocks p (fmStack k.msg) k e) :=
  (SameWrites.ofMoves (Moves.ofBusOnly (BusOnly.updBytes (s.updBlocks p (fmStack k.msg) k e) _ _ _ _))).symm.trans
    (h.updBlocks p _ k e)

theorem QueuesSame.updFlask (s : State) (p : Nat) (k : Cmd) (e : Nat × List Byte) :
    QueuesSame s (s.updFlask p k e) :=
  QueuesSame.trans (t := s.setStk { s.stk with
      updStep := tput 0 s.stk.updStep (granKey (fmStack k.msg) e.1) (fld k.msg 56 8) }) ⟨rfl, rfl, rfl⟩
    (.ofMoves ((Moves.forN (l := [.mem, .bus, .health]) (fun _ x => Moves.updBlock x _ _ _ _ _ _ _) _ _).andThen
      (Moves.ofBusOnly (BusOnly.updBytes _ _ _ _ _))))

theorem QueuesSame.updFlasks (l : List (Nat × List Byte)) (s : State) (p : Nat) (k : Cmd) :
    QueuesSame s (l.foldl (fun s e => s.updFlask p k e) s) := by
  induction l generalizing s with
  | nil => exact ⟨rfl, rfl, rfl⟩
  | cons e l ih => exact (QueuesSame.updFlask s p k e).trans (ih _)

theorem SameWrites.updFlasks (l : List (Nat × List Byte)) (h : SameWrites s t) (p : Nat) (k : Cmd) :
    SameWrites (l.foldl (fun s e => s.updFlask p k e) s)
      (l.foldl (fun s e => s.updBlocks p (fmStack k.msg) k e) t) := by
  induction l generalizing s t with
  | nil => exact h
  | cons e l ih => exact ih (h.updFlask p k e)

/-- An update that does not wait runs its effect. -/
theorem fmUpdate_runs (hk : s.cmd? p c = some k) (hf : s.updFate p k ≠ none) (hw : s.fmWaits p k = false) :
    exec (.fmUpdate p c) s = s.fmRow p c 0x380 (fmUpdateFx p) := by
  change execFmUpdate p c s = _
  rw [execFmUpdate, hk]
  dsimp only
  rw [if_neg fun h => hf h.1, if_neg (by rw [hw]; exact fun h => Bool.false_ne_true h.2)]

/-- What an update that has started knows of its step: the data byte, or the seal of the step. -/
theorem State.updFate_of_known (v : Bool) (h : fld k.data 0 1 = b2n v ∨
    (fld k.data 0 1 = 2 ∧ (s.part p).step.last = fld k.msg 56 8) ∧ (s.part p).step.skip = v) :
    s.updFate p k = some v := by
  obtain hd | ⟨⟨hd, hl⟩, hs⟩ := h
  · rw [State.updFate, hd]
    cases v <;> rfl
  · rw [State.updFate, hd, StepSt.fate, if_pos hl, hs]
    cases v <;> rfl

theorem fmUpdate_skipped (h : Stated.FumRuns s p c 0x380 n k) (hf : s.updFate p k = some true) :
    ∃ t, exec (.fmUpdate p c) s = .next t ∧ t.mem = s.mem ∧ Stated.FumDone s t p c n ⟨0, 0, 4, 0, []⟩ := by
  rw [fmUpdate_runs h.cmd (by rw [hf]; exact nofun) (by rw [State.fmWaits, hf, Bool.and_false])]
  exact State.fmRow_done h (by rw [if_pos ⟨rfl, hf⟩]; rfl) (if_pos hf) ⟨rfl, rfl, rfl⟩ h.canon rfl

theorem fmUpdate_applied (h : Stated.FumRuns s p c 0x380 n k) (hf : s.updFate p k = some false)
    (hr : ∀ e ∈ updFlasks k.msg k.data, ∀ r ∈ s.stk.readMarks, r.1 ≠ granKey n e.1) :
    ∃ t, exec (.fmUpdate p c) s = .next t ∧ Stated.FumDone s t p c n ⟨0, 0, 0, 0, []⟩ ∧
      t.mem = ((updFlasks k.msg k.data).foldl (fun s e => s.updBlocks p n k e) s).mem := by
  obtain rfl := h.stack
  have hnot : ¬ s.updFate p k = some true := by rw [hf]; exact nofun
  have hmarks : s.readMarked k = false := by
    rw [State.readMarked, List.any_eq_false]
    intro e he
    rw [Bool.not_eq_true, List.any_eq_false]
    exact fun r hmem hx => hr e he r hmem (eq_of_beq hx)
  rw [fmUpdate_runs h.cmd (by rw [hf]; exact nofun)
    (by rw [State.fmWaits, hf]; dsimp only; rw [hmarks, Bool.and_false])]
  have hcanon := (Keeps.fmUpdateFx (a0 := p) (a1 := k) .refl).canon h.canon
  have hfx : fmUpdateFx p k s =
      ((updFlasks k.msg k.data).foldl (fun s e => s.updFlask p k e) s, ⟨0, 0, 0, 0, []⟩) := if_neg hnot
  rw [hfx] at hcanon
  obtain ⟨t, hex, hmem, hdone⟩ := State.fmRow_done h
    (by rw [if_neg fun h => hnot h.2]; exact h.access.resolve_left fun h => hnot h.2) hfx
    (QueuesSame.updFlasks _ s p k) hcanon rfl
  exact ⟨t, hex, hdone, hmem.trans (SameWrites.updFlasks _ .refl p k).mem.symm⟩

theorem fmUpdate_waits (hk : s.cmd? p c = some k) (hop : k.opcode = 0x380) (hd : fld k.data 0 1 = 2)
    (hs : fld k.msg 56 8 > (s.part p).step.last) : exec (.fmUpdate p c) s = .next s := by
  have hf : s.updFate p k = none := by
    rw [State.updFate, hd, StepSt.fate, if_neg (Nat.ne_of_lt hs)]; rfl
  change execFmUpdate p c s = _
  rw [execFmUpdate, hk]
  dsimp only
  rw [if_neg fun h => Nat.lt_asymm h.2 hs, if_pos ⟨hop, by rw [State.fmWaits, hop, hf]; rfl⟩]

theorem fumaroleModelCommands : Stated.FumaroleModelCommands := fun _ _ _ _ _ =>
  ⟨fun h => fmAttn_done h, fun h => fmGemv_done h,
    fun h => ⟨fun hd => fmUpdate_skipped h (State.updFate_of_known true hd),
      fun hd hr => fmUpdate_applied h (State.updFate_of_known false hd) hr⟩,
    fmUpdate_waits⟩

open Sys2Proof Sys2Proof.Machine in
/-- Settles O21: each command of Fumarole runs to its outcome through one rule; an update writes its blocks flask by
flask, or nothing of a skipped step, and waits until its step is sealed. -/
theorem fumaroleCommands : Obligations.FumaroleCommands := ⟨fumaroleDataCommands, fumaroleModelCommands⟩

end Sys2Proof.Machine
end

section
/-! SUPPORT. Array passes and drains under a program (R138 to R143): what ARR and DRN enter at their issue, and what the
reading of operands, the pass and the drain leave. -/
set_option Elab.async false

namespace Sys2Proof.Machine

variable {s t z : State} {u n w : Nat} {x y : SeqUnit} {q : Seqr}

/-! ## Words (Tables 7.6 and 7.9) -/

section
variable (acc ofmt form : BitVec 2) (dst sig : BitVec 1) (wf af cls : BitVec 3) (rs rm : BitVec 5) (tok : BitVec 4)

theorem toNat_arrWord : (Stated.arrWord acc dst wf af form rs sig tok rm).toNat =
    (((((((0x20 * 2 ^ 2 + acc.toNat) * 2 + dst.toNat) * 2 ^ 3 + wf.toNat) * 2 ^ 3 + af.toNat) * 2 ^ 2 + form.toNat) *
      2 ^ 5 + rs.toNat) * 2 + sig.toNat) * 2 ^ 9 + tok.toNat * 2 ^ 5 + rm.toNat := by
  simp only [Stated.arrWord, toNat_append_eq_add, BitVec.toNat_ofNat]
  omega

theorem opOf_arrWord : opOf (Stated.arrWord acc dst wf af form rs sig tok rm).toNat = 0x20 := by
  rw [opOf, toNat_arrWord, bits]
  omega
theorem aRs_arrWord : aRs (Stated.arrWord acc dst wf af form rs sig tok rm).toNat = rs.toNat := by
  rw [aRs, toNat_arrWord, bits]
  omega
theorem aRm_arrWord : aRm (Stated.arrWord acc dst wf af form rs sig tok rm).toNat = rm.toNat := by
  rw [aRm, toNat_arrWord, bits]
  omega
theorem aAcc_arrWord : aAcc (Stated.arrWord acc dst wf af form rs sig tok rm).toNat = acc.toNat := by
  rw [aAcc, toNat_arrWord, bits]
  omega
theorem aDst_arrWord : aDst (Stated.arrWord acc dst wf af form rs sig tok rm).toNat = (dst == 1) := by
  rw [aDst, toNat_arrWord, bit, Bool.eq_iff_iff, decide_eq_true_iff, beq_iff_eq, ← BitVec.toNat_inj]
  change _ ↔ dst.toNat = 1
  omega

theorem toNat_drnWord : (Stated.drnWord ofmt cls rs sig tok rm).toNat =
    ((((0x21 * 2 ^ 2 + ofmt.toNat) * 2 ^ 3 + cls.toNat) * 2 ^ 11 + rs.toNat) * 2 + sig.toNat) * 2 ^ 9 +
      tok.toNat * 2 ^ 5 + rm.toNat := by
  simp only [Stated.drnWord, toNat_append_eq_add, BitVec.toNat_ofNat]
  omega

theorem opOf_drnWord : opOf (Stated.drnWord ofmt cls rs sig tok rm).toNat = 0x21 := by
  rw [opOf, toNat_drnWord, bits]
  omega
theorem dOfmt_drnWord : dOfmt (Stated.drnWord ofmt cls rs sig tok rm).toNat = ofmt.toNat := by
  rw [dOfmt, toNat_drnWord, bits]
  omega
theorem dClass_drnWord : dClass (Stated.drnWord ofmt cls rs sig tok rm).toNat = cls.toNat := by
  rw [dClass, toNat_drnWord, bits]
  omega
theorem reserved_drnWord : bits (Stated.drnWord ofmt cls rs sig tok rm).toNat 20 15 = 0 := by
  rw [toNat_drnWord, bits]
  omega
theorem aRs_drnWord : aRs (Stated.drnWord ofmt cls rs sig tok rm).toNat = rs.toNat := by
  rw [aRs, toNat_drnWord, bits]
  omega
theorem aRm_drnWord : aRm (Stated.drnWord ofmt cls rs sig tok rm).toNat = rm.toNat := by
  rw [aRm, toNat_drnWord, bits]
  omega
end

/-! ## ARR at issue (R140) -/

/-- The operand group as numbers. -/
theorem Seqr.group_toNat (q : Seqr) (rs n : Nat) : (q.group rs n).map (·.toNat) = Stated.grp q rs n := by
  rw [Seqr.group, Stated.grp, List.map_map]
  rfl

/-- The cores of the mask; a tile has one whatever the register reads. -/
theorem maskCores_mask (u : Nat) (q : Seqr) (rm : Nat) :
    maskCores (isTile u) (q.S rm).toNat = maskCores (isTile u) (Stated.mask u q rm) := by
  rw [Stated.mask, maskCores, maskCores]
  cases isTile u <;> rfl

/-- The unit with an ARR entered: its rows made valid, or invalid under DST, and its link sends recorded. -/
def SeqUnit.arrIssued (x : SeqUnit) (cores : List Nat) (w mask : Nat) (gw : List Word) : SeqUnit :=
  let g : Grp := gw.map (·.toNat)
  let nr1 := if aAcc w = 2 then
      cores.foldl (fun t c => tput [] t c ((tget [] t c).drop 1)) x.seq.linkNr else x.seq.linkNr
  let nr2 := if aDst w then
      cores.foldl (fun t c => tput [] t (c + 1) (tget [] t (c + 1) ++ [gNR g])) nr1 else nr1
  let keys := cores.flatMap fun c => (gRows g).map (rowKey c (gBank g))
  let ok := x.seq.rowOk.filter fun k => !keys.contains k
  { x with
    arrs := x.arrs ++ [{ isDrn := false, word := w32 w, grp := gw, mask := mask, read := false, cap := [] }]
    seq := { x.seq with rowOk := if aDst w then ok else ok ++ keys, linkNr := nr2 } }

theorem arrFx_of_admits (hy : s.unit u = y) (hrm : isTile u = true → aRm w = 0)
    (hform : arrForm (isTile u) w = true) (hrs : aRs w ≤ 26)
    (hbad : arrBad (isTile u) w (Stated.grp y.seq (aRs w) 6) = none) :
    arrFx u w s =
      let m := Stated.mask u y.seq (aRm w)
      let cores := maskCores (isTile u) m
      let g := Stated.grp y.seq (aRs w) 6
      if m = 0 then .go s
      else if aDst w ∧ bit m 31 then .exc exNOLINK 31
      else if aAcc w = 1 ∧ (y.unset cores (gBank g) (gRows g)).isSome then
        .exc exACCUNINIT ((y.unset cores (gBank g) (gRows g)).getD 0)
      else if aAcc w = 2 ∧ bit m 0 then .exc exACCUNINIT 0
      else if let some c := (if aAcc w = 2 then
          cores.find? (fun c => (tget [] y.seq.linkNr c).head? ≠ some (gNR g)) else none) then
        .exc exACCUNINIT c
      else if y.arrFull cores then .wait
      else .go (s.setUnit u (y.arrIssued cores w m (y.seq.group (aRs w) 6))) := by
  rw [arrFx, hy]
  dsimp only
  rw [Seqr.group_toNat, maskCores_mask, if_neg fun h => h.2 (hrm h.1), if_neg (by rw [hform]; decide),
    if_neg (Nat.not_lt.mpr hrs), hbad]
  dsimp only
  rw [SeqUnit.arrIssued]
  dsimp only
  rw [Seqr.group_toNat]
  rfl

theorem SeqUnit.next_of_one (hw : issueCycles w = 1) : x.next w = { x with seq := Stated.past x.seq 1 } := by
  rw [SeqUnit.next, hw]
  rfl

/-- The rows of an ARR once it is entered: valid, or invalid under DST. -/
theorem SeqUnit.rowOk_arrIssued {cores : List Nat} {gw : List Word} {m c r : Nat} (hc : c ∈ cores)
    (hr : r ∈ gRows (gw.map (·.toNat))) :
    (x.arrIssued cores w m gw).seq.rowOk.contains (rowKey c (gBank (gw.map (·.toNat))) r) = !aDst w := by
  have hkey : rowKey c (gBank (gw.map (·.toNat))) r ∈ cores.flatMap fun c =>
      (gRows (gw.map (·.toNat))).map (rowKey c (gBank (gw.map (·.toNat)))) :=
    List.mem_flatMap.mpr ⟨c, hc, List.mem_map_of_mem hr⟩
  rw [SeqUnit.arrIssued]
  dsimp only
  cases aDst w with
  | true =>
    rw [if_pos rfl, Bool.not_true, ← Bool.not_eq_true, List.contains_iff_mem, List.mem_filter]
    exact fun h => Bool.false_ne_true (by rw [← h.2, List.contains_iff_mem.mpr hkey]; rfl)
  | false =>
    rw [if_neg Bool.false_ne_true, Bool.not_false, List.contains_iff_mem]
    exact List.mem_append_right _ hkey

section
variable {acc ofmt form : BitVec 2} {dst sig : BitVec 1} {wf af cls : BitVec 3} {rs rm : BitVec 5} {tok : BitVec 4}

/-- The unit past an ARR, and what the instruction makes of it. -/
theorem arr_past :
    s.setUnit u ((s.unit u).next (Stated.arrWord acc dst wf af form rs sig tok rm).toNat) =
      s.setUnit u { s.unit u with seq := Stated.past (s.unit u).seq 1 } := by
  rw [SeqUnit.next_of_one (issueCycles_eq_one (opOf_arrWord ..) (by decide))]

theorem drn_past :
    s.setUnit u ((s.unit u).next (Stated.drnWord ofmt cls rs sig tok rm).toNat) =
      s.setUnit u { s.unit u with seq := Stated.past (s.unit u).seq 1 } := by
  rw [SeqUnit.next_of_one (issueCycles_eq_one (opOf_drnWord ..) (by decide))]

/-- An ARR that is admitted enters the queue of its arrays. -/
theorem arrFx_enters (hy : s.unit u = y) (hrm : isTile u = true → aRm w = 0)
    (hm : Stated.mask u y.seq (aRm w) ≠ 0)
    (ha : Stated.ArrAdmits u y (BitVec.ofNat 32 w) (aRs w) (Stated.mask u y.seq (aRm w)) (aAcc w) (aDst w))
    (hw : w < 2 ^ 32) (hfull : y.arrFull (maskCores (isTile u) (Stated.mask u y.seq (aRm w))) = false) :
    arrFx u w s = .go (s.setUnit u (y.arrIssued (maskCores (isTile u) (Stated.mask u y.seq (aRm w))) w
      (Stated.mask u y.seq (aRm w)) (y.seq.group (aRs w) 6))) := by
  obtain ⟨hform, hrs, hbad, hlink, hsums, hpend⟩ := ha
  rw [BitVec.toNat_ofNat, Nat.mod_eq_of_lt hw] at hform hbad
  have hnone : (if aAcc w = 2 then (maskCores (isTile u) (Stated.mask u y.seq (aRm w))).find? (fun c =>
      (tget [] y.seq.linkNr c).head? ≠ some (gNR (Stated.grp y.seq (aRs w) 6))) else none) = none := by
    split
    · next h2 => exact List.find?_eq_none.mpr fun c hc hne => of_decide_eq_true hne ((hpend h2).2 c hc)
    · rfl
  rw [arrFx_of_admits hy hrm hform hrs hbad]
  dsimp only
  rw [hnone, if_neg hm, if_neg fun h => Bool.false_ne_true ((hlink h.1).symm.trans h.2),
    if_neg fun h => Bool.false_ne_true ((congrArg Option.isSome (hsums h.1)).symm.trans h.2),
    if_neg fun h => Bool.false_ne_true ((hpend h.1).1.symm.trans h.2)]
  exact if_neg (by rw [hfull]; decide)

theorem arr_enters (hrm : isTile u = true → rm = 0) (hgo : Stated.GoesOn (s.unit u) (Stated.past (s.unit u).seq 1))
    (hfull : (s.unit u).arrFull (maskCores (isTile u) (Stated.mask u (s.unit u).seq rm.toNat)) = false)
    (h : Stated.Issues s u (Stated.arrWord acc dst wf af form rs sig tok rm))
    (hm : Stated.mask u (s.unit u).seq rm.toNat ≠ 0)
    (ha : Stated.ArrAdmits u (s.unit u) (Stated.arrWord acc dst wf af form rs sig tok rm) rs.toNat
      (Stated.mask u (s.unit u).seq rm.toNat) acc.toNat (dst == 1)) :
    exec (.arr u) s = .next (s.setUnit u
      ({ s.unit u with seq := Stated.past (s.unit u).seq 1 }.arrIssued
        (maskCores (isTile u) (Stated.mask u (s.unit u).seq rm.toNat))
        (Stated.arrWord acc dst wf af form rs sig tok rm).toNat (Stated.mask u (s.unit u).seq rm.toNat)
        ((s.unit u).seq.group rs.toNat 6))) := by
  refine exec_of_unit (f := arrFx) rfl h (wordRow_of_single (opOf_arrWord ..) (by decide)) ?_ rfl hgo
  have hrs := aRs_arrWord acc form dst sig wf af rs rm tok
  have hrm' := aRm_arrWord acc form dst sig wf af rs rm tok
  rw [arr_past, arrFx_enters (State.unit_setUnit h.canon ..) (fun ht => by rw [hrm', hrm ht]; rfl)
    (by rw [hrm']; exact hm) (by rw [hrs, hrm', aAcc_arrWord, aDst_arrWord, BitVec.ofNat_toNat, BitVec.setWidth_eq]
                                 exact ha)
    (BitVec.isLt _) (by rw [hrm']; exact hfull), State.setUnit_setUnit h.canon, hrs, hrm']
  rfl

/-- An ARR of a mask of 0 issues nothing. -/
theorem arr_masked (hrm : isTile u = true → rm = 0) (hgo : Stated.GoesOn (s.unit u) (Stated.past (s.unit u).seq 1))
    (h : Stated.Issues s u (Stated.arrWord acc dst wf af form rs sig tok rm))
    (hform : arrForm (isTile u) (Stated.arrWord acc dst wf af form rs sig tok rm).toNat = true) (hrs : rs.toNat ≤ 26)
    (hm : Stated.mask u (s.unit u).seq rm.toNat = 0)
    (hbad : arrBad (isTile u) (Stated.arrWord acc dst wf af form rs sig tok rm).toNat
      (Stated.grp (s.unit u).seq rs.toNat 6) = none) :
    exec (.arr u) s = .next (s.setUnit u { s.unit u with seq := Stated.past (s.unit u).seq 1 }) := by
  refine exec_of_unit (f := arrFx) rfl h (wordRow_of_single (opOf_arrWord ..) (by decide)) ?_ rfl hgo
  have hrm' := aRm_arrWord acc form dst sig wf af rs rm tok
  rw [arr_past, arrFx_of_admits (State.unit_setUnit h.canon ..) (fun ht => by rw [hrm', hrm ht]; rfl) hform
    (by rw [aRs_arrWord]; exact hrs) (by rw [aRs_arrWord]; exact hbad)]
  exact if_pos (by rw [hrm']; exact hm)

/-! ## DRN at issue (R142, R60) -/

theorem drnFx_of_admits (hy : s.unit u = y) (hfmt : dOfmt w ≠ 3) (hres : bits w 20 15 = 0)
    (hrm : isTile u = true → aRm w = 0) (hrs : aRs w ≤ 29)
    (hbad : drnBad (isTile u) w (Stated.grp y.seq (aRs w) 3) = none)
    (hset : y.unset (maskCores (isTile u) (Stated.mask u y.seq (aRm w))) (dBank (Stated.grp y.seq (aRs w) 3))
      (dRows (Stated.grp y.seq (aRs w) 3)) = none) :
    drnFx u w s =
      let m := Stated.mask u y.seq (aRm w)
      if dOfmt w = 0 ∧ (dClass w = 0 ∨ dClass w = 3 ∨ dClass w = 4) then .go (s.kernelRefuse u)
      else if m = 0 then .go s
      else if y.arrFull (maskCores (isTile u) m) then .wait
      else .go (s.setUnit u { y with
        arrs := y.arrs ++ [⟨true, w32 w, y.seq.group (aRs w) 3, m, false, []⟩] }) := by
  have hm : (if isTile u = true then 1 else (y.seq.S (aRm w)).toNat) = Stated.mask u y.seq (aRm w) := rfl
  rw [drnFx, hy]
  dsimp only
  rw [Seqr.group_toNat, hm, if_neg (by rintro (h | h | h); exacts [hfmt h, h hres, h.2 (hrm h.1)]),
    if_neg (Nat.not_lt.mpr hrs), hbad, hset]

/-- The classes whose drain R60 bars from binary32. -/
theorem barredClass_iff (cls : BitVec 3) :
    (cls = 0 ∨ cls = 3 ∨ cls = 4) ↔ (cls.toNat = 0 ∨ cls.toNat = 3 ∨ cls.toNat = 4) :=
  or_congr BitVec.toNat_inj.symm (or_congr BitVec.toNat_inj.symm BitVec.toNat_inj.symm)

theorem drn_enters (hrm : isTile u = true → rm = 0) (hgo : Stated.GoesOn (s.unit u) (Stated.past (s.unit u).seq 1))
    (hfull : (s.unit u).arrFull (maskCores (isTile u) (Stated.mask u (s.unit u).seq rm.toNat)) = false)
    (h : Stated.Issues s u (Stated.drnWord ofmt cls rs sig tok rm))
    (hm : Stated.mask u (s.unit u).seq rm.toNat ≠ 0) (hfmt : ofmt.toNat ≠ 3) (hrs : rs.toNat ≤ 29)
    (hbad : drnBad (isTile u) (Stated.drnWord ofmt cls rs sig tok rm).toNat (Stated.grp (s.unit u).seq rs.toNat 3) =
      none)
    (hset : (s.unit u).unset (maskCores (isTile u) (Stated.mask u (s.unit u).seq rm.toNat))
      (dBank (Stated.grp (s.unit u).seq rs.toNat 3)) (dRows (Stated.grp (s.unit u).seq rs.toNat 3)) = none)
    (hcls : ¬ (ofmt = 0 ∧ (cls = 0 ∨ cls = 3 ∨ cls = 4))) :
    exec (.drn u) s = .next (s.setUnit u { s.unit u with
      seq := Stated.past (s.unit u).seq 1
      arrs := (s.unit u).arrs ++ [⟨true, Stated.drnWord ofmt cls rs sig tok rm,
        (List.range 3).map fun i => (s.unit u).seq.S (rs.toNat + i), Stated.mask u (s.unit u).seq rm.toNat, false,
          []⟩] }) := by
  refine exec_of_unit (f := drnFx) rfl h (wordRow_of_single (opOf_drnWord ..) (by decide)) ?_ rfl hgo
  have hrs' := aRs_drnWord ofmt sig cls rs rm tok
  have hrm' := aRm_drnWord ofmt sig cls rs rm tok
  rw [drn_past, drnFx_of_admits (State.unit_setUnit h.canon ..) (by rw [dOfmt_drnWord]; exact hfmt)
    (reserved_drnWord ..) (fun ht => by rw [hrm', hrm ht]; rfl) (by rw [hrs']; exact hrs) (by rw [hrs']; exact hbad)
    (by rw [hrs', hrm']; exact hset)]
  dsimp only
  rw [hrs', hrm', dOfmt_drnWord, dClass_drnWord, State.setUnit_setUnit h.canon, w32, BitVec.ofNat_toNat,
    BitVec.setWidth_eq]
  exact (if_neg fun hb => hcls ⟨BitVec.eq_of_toNat_eq hb.1, (barredClass_iff cls).mpr hb.2⟩).trans
    ((if_neg hm).trans (if_neg fun hf => Bool.false_ne_true (hfull.symm.trans hf)))

/-- A refused command's units have ended, and it has the outcome MALFORMED. -/
theorem State.kernelRefuse_ends (c : s.Canon) (hu : u ∈ s.gridOf u)
    (hk : (s.cmd? (s.unit u).ctx.part (s.unit u).ctx.cid).isSome = true) :
    ((s.kernelRefuse u).unit u).run = .ended ∧ Stated.EndsMalformed s (s.kernelRefuse u) u := by
  have hfold := State.foldl_modUnit c (s.gridOf u) (fun y => { y with run := .ended, queue := [], scaleMade := false })
    fun _ => rfl
  have hcanon := (Keeps.foldl' (f := fun s v => s.modUnit v fun y =>
      { y with run := .ended, queue := [], scaleMade := false })
    (l := s.gridOf u) .refl fun _ _ h => Keeps.modUnit h).canon c
  obtain ⟨hmoves, hset, -⟩ := hfold
  refine ⟨?_, rfl, ?_⟩
  · exact congrArg SeqUnit.run (hset u hu)
  · rw [State.kernelRefuse]
    dsimp only
    rw [State.cmd?_modCmd (f := fun k : Cmd =>
      { k with out := some { Compl.malformedAny with nstat := s.nstatOf (s.gridOf u) } }) hcanon fun _ => rfl,
      hmoves.cmd?]
    obtain ⟨k, hk⟩ := Option.isSome_iff_exists.mp hk
    rw [hk]
    rfl

theorem barredDrain : Stated.BarredDrainEndsTheCommand := by
  intro s u cls rs sig tok rm x wd gd s' h hrm hrs hbad hset hcls hu hk
  have hrs' := aRs_drnWord 0 sig cls rs rm tok
  have hrm' := aRm_drnWord 0 sig cls rs rm tok
  have hgo : drnFx u wd.toNat (s.setUnit u ((s.unit u).next wd.toNat)) = .go (s'.kernelRefuse u) := by
    rw [drn_past, drnFx_of_admits (State.unit_setUnit h.canon ..) (by rw [dOfmt_drnWord]; decide)
      (reserved_drnWord ..) (fun ht => by rw [hrm', hrm ht]; rfl) (by rw [hrs']; exact hrs) (by rw [hrs']; exact hbad)
      (by rw [hrs', hrm']; exact hset)]
    refine if_pos ⟨dOfmt_drnWord .., ?_⟩
    rw [dClass_drnWord]
    exact (barredClass_iff cls).mp hcls
  have hunit : s'.unit u = { x with seq := Stated.past x.seq 1 } := State.unit_setUnit h.canon ..
  obtain ⟨hrun, hends⟩ := State.kernelRefuse_ends (State.canon_setUnit h.canon u _) hu (by rw [hunit]; exact hk)
  exact ⟨_, by rw [exec_of_go (f := drnFx) rfl h (wordRow_of_single (opOf_drnWord ..) (by decide)) hgo,
    afterIssue_of_ended hrun], hends⟩
end

/-! ## Tables written key by key -/

/-- A table written at several keys, each written with one value: it reads these values there. -/
theorem tget_foldl_tput {α β : Type} [DecidableEq β] (d : β) (key : α → Nat) (v : α → β) (l : List α)
    (hv : ∀ a ∈ l, ∀ b ∈ l, key a = key b → v a = v b) {tb : Tbl β} (h : twf d tb = true) :
    ∀ a ∈ l, tget d (l.foldl (fun t a => tput d t (key a) (v a)) tb) (key a) = v a := by
  suffices hs : ∀ (tb : Tbl β), twf d tb = true → ∀ k w, (∀ b ∈ l, key b = k → v b = w) →
      (tget d tb k = w ∨ ∃ b ∈ l, key b = k) → tget d (l.foldl (fun t a => tput d t (key a) (v a)) tb) k = w from
    fun a ha => hs tb h (key a) (v a) (fun b hb hk => hv b hb a ha hk) (.inr ⟨a, ha, rfl⟩)
  clear hv
  induction l with
  | nil => exact fun _ _ _ _ _ ho => ho.resolve_right fun ⟨_, hb, _⟩ => absurd hb List.not_mem_nil
  | cons a l ih =>
    intro tb h k w hv ho
    refine ih _ (twf_tput d (key a) (v a) h) k w (fun b hb => hv b (List.mem_cons_of_mem a hb)) ?_
    by_cases hk : key a = k
    · exact .inl (hk ▸ (tget_tput_same d (key a) (v a) h).trans (hv a List.mem_cons_self hk))
    · rw [tget_tput_ne d (v a) h (Ne.symm hk)]
      refine ho.imp_right fun ⟨b, hb, hbk⟩ => ⟨b, (List.mem_cons.mp hb).resolve_left fun he => hk (he ▸ hbk), hbk⟩

/-- The rows of a pass have keys of their own. -/
theorem rowKey_inj {g : Grp} {c c' r r' : Nat} (hr : r < gNR g) (hr' : r' < gNR g)
    (h : rowKey c (gBank g) (gFirst g + r) = rowKey c' (gBank g) (gFirst g + r')) : c = c' ∧ r = r' := by
  have h1 : gNR g < 2 ^ 10 := bits_lt _ _ _
  have h2 : gFirst g < 2 ^ 9 := bits_lt _ _ _
  rw [rowKey, rowKey] at h
  omega

/-! ## The operands, the pass and the drain (R138, R139, R142) -/

theorem State.signal_of_room (c : s.Canon) {sig : Bool} {k : Nat} (h : sig = true → y.token k < 0xFFFF) :
    (if sig = true then (s.setUnit u y).signal u k else s.setUnit u y) = s.setUnit u (Stated.signals y sig k) := by
  cases sig with
  | false => rfl
  | true =>
    rw [if_pos rfl, State.signal, State.unit_setUnit c]
    dsimp only
    rw [if_pos (h rfl), State.setUnit_setUnit c]
    rfl

/-- A signal with room below the largest token, or none. -/
theorem State.signal_shows {sig : Bool} {k : Nat} (c : z.Canon) (hz : z.unit u = y)
    (h : sig = true → y.token k < 0xFFFF) :
    (State.unit (if sig = true then z.signal u k else z) u = Stated.signals y sig k) ∧
      ∀ v, v ≠ u → State.unit (if sig = true then z.signal u k else z) v = z.unit v := by
  cases sig with
  | false => exact ⟨hz, fun _ _ => rfl⟩
  | true =>
    rw [if_pos rfl, State.signal, hz]
    dsimp only
    rw [if_pos (h rfl)]
    exact ⟨State.unit_setUnit c .., fun v hv => State.unit_setUnit_ne c _ hv⟩

/-- A signal moves the tokens of its unit alone. -/
theorem signals_keeps {α : Type} (f : SeqUnit → α)
    (h : ∀ y tok, f { y with tokens := tok } = f y) {sig : Bool} {k : Nat} :
    f (Stated.signals y sig k) = f y := by
  rw [Stated.signals]
  split
  · exact h ..
  · rfl

theorem State.excRecord_of_run (h : (s.unit u).run ≠ .excepted) : s.excRecord u = s := by
  rw [State.excRecord]
  dsimp only
  split
  · exact if_neg fun hr => h hr.1
  · rfl

theorem arrOperandsRead_reads {a : ArrOp} (c : s.Canon) (ha : (s.unit u).arrs[n]? = some a)
    (hlive : s.live (dieOfUnit u) = true) (hdrn : a.isDrn = false) (hread : a.read = false)
    (htherm : (s.die (dieOfUnit u)).therm.st < 3)
    (hb : ∀ b ∈ (s.unit u).before n,
      if b.isDrn then drainsFirst (a.grp.map (·.toNat)) b = false else b.read = true)
    (hsig : aSig a.word.toNat = true → (s.unit u).token (aTok a.word.toNat) < 0xFFFF) :
    exec (.arrOperandsRead u n) s = .next (s.setUnit u (Stated.signals
      { s.unit u with arrs := (s.unit u).arrs.set n { a with
        read := true
        cap := (maskCores (isTile u) a.mask).map fun c => (c, (s.unit u).capture (isTile u) a c) } }
      (aSig a.word.toNat) (aTok a.word.toNat))) := by
  have hall : ((s.unit u).before n).all
      (fun b => if b.isDrn then !drainsFirst (a.grp.map (·.toNat)) b else b.read) = true := by
    refine List.all_eq_true.mpr fun b hbm => ?_
    have := hb b hbm
    split at this <;> simp_all
  change execArrOperandsRead u n s = _
  rw [execArrOperandsRead, ha]
  dsimp only
  rw [if_pos ⟨hlive, htherm, by rw [hdrn]; rfl, by rw [hread]; rfl, hall⟩]
  exact congrArg _ (State.signal_of_room c hsig)

/-- The sums that enter a pass (R139). -/
def passStart (x : SeqUnit) (tile : Bool) (acc : Nat) (g : List Nat) (cap : List (List Byte)) (c r : Nat) : AccRow :=
  match acc with
  | 1 => tget ⟨[], 0⟩ x.rows (rowKey c (gBank g) (gFirst g + r))
  | 2 => nth ⟨[], 0⟩ (tget [] x.links c) r
  | 3 =>
    let src := nth [] cap 3
    { sums := (List.range (bankCols tile)).map fun i => w32 (fld src ((r * bankCols tile + i) * 4) 4),
      krun := nth 0 g 5 }
  | _ => { sums := List.replicate (bankCols tile) 0, krun := 0 }

theorem passStart_eq {tile : Bool} {acc : Nat} {g : List Nat} {cap : List (List Byte)} {c r : Nat} (h : acc < 4) :
    passStart x tile acc g cap c r = Stated.arrStart x tile acc g cap c r :=
  match acc, h with
  | 0, _ => rfl
  | 1, _ => rfl
  | 2, _ => rfl
  | 3, _ => rfl

/-- The bytes that an ARR has read for a core. -/
def ArrOp.capOf (a : ArrOp) (c : Nat) : List (List Byte) := ((a.cap.find? fun p => p.1 == c).map (·.2)).getD []

/-- The output rows and flags of a pass on a core. -/
def SeqUnit.passOf (x : SeqUnit) (tile : Bool) (a : ArrOp) (c : Nat) : List AccRow × Nat :=
  passRows tile a (a.capOf c) (passStart x tile (aAcc a.word.toNat) (a.grp.map (·.toNat)) (a.capOf c) c)

/-- The output rows and flags of a pass, core by core. -/
def SeqUnit.passResults (x : SeqUnit) (tile : Bool) (a : ArrOp) : List (Nat × List AccRow × Nat) :=
  (maskCores tile a.mask).map fun c => (c, x.passOf tile a c)

/-- The unit once an array's pass has ended. -/
def SeqUnit.arrPassed (x : SeqUnit) (tile : Bool) (n : Nat) (a : ArrOp) : SeqUnit :=
  let w := a.word.toNat
  let g : Grp := a.grp.map (·.toNat)
  let res := x.passResults tile a
  let links0 := if aAcc w = 2 then (maskCores tile a.mask).foldl (fun t c => tput [] t c []) x.links else x.links
  { x with
    arrs := x.arrs.eraseIdx n
    rows := res.foldl (fun t p =>
        forN (gNR g) t fun r t =>
          tput ⟨[], 0⟩ t (rowKey p.1 (gBank g) (gFirst g + r))
            (if aDst w then ⟨[], 0⟩ else nth ⟨[], 0⟩ p.2.1 r)) x.rows
    links := if aDst w then res.foldl (fun t p => tput [] t (p.1 + 1) p.2.1) links0 else links0
    seq := { x.seq with nstat := x.seq.nstat ||| w32 (res.foldl (fun f p => f ||| p.2.2) 0) } }

theorem arrPassComplete_passes {a : ArrOp} (c : s.Canon) (ha : (s.unit u).arrs[n]? = some a)
    (hlive : s.live (dieOfUnit u) = true) (hdrn : a.isDrn = false) (hread : a.read = true)
    (hb : (s.unit u).before n = []) (hrun : (s.unit u).run ≠ .excepted)
    (hin : aAcc a.word.toNat = 2 →
      ∀ c ∈ maskCores (isTile u) a.mask, (tget [] (s.unit u).links c).length = gNR (a.grp.map (·.toNat)))
    (hout : aDst a.word.toNat = true → ∀ c ∈ maskCores (isTile u) a.mask, tget [] (s.unit u).links (c + 1) = []) :
    exec (.arrPassComplete u n) s = .next (s.setUnit u ((s.unit u).arrPassed (isTile u) n a)) := by
  change execArrPassComplete u n s = _
  rw [execArrPassComplete, ha]
  dsimp only
  refine (if_pos ⟨hlive, by rw [hdrn]; rfl, hread, by rw [hb]; rfl, ?linkIn, ?linkOut⟩).trans (congrArg _ ?unit)
  case linkIn =>
    by_cases h2 : aAcc a.word.toNat = 2
    · exact .inr (List.all_eq_true.mpr fun c hc => beq_iff_eq.mpr (hin h2 c hc))
    · exact .inl h2
  case linkOut =>
    cases hd : aDst a.word.toNat with
    | false => rfl
    | true =>
      refine List.all_eq_true.mpr fun c hc => ?_
      rw [hout hd c hc]
      rfl
  case unit =>
    refine (congrArg (fun y => State.excRecord (s.setUnit u y) u)
      (show _ = (s.unit u).arrPassed (isTile u) n a from rfl)).trans ?_
    exact State.excRecord_of_run (by rw [State.unit_setUnit c]; exact hrun)

/-- What a pass leaves: each row its sums or nothing, the links under DST, and its flags. -/
theorem SeqUnit.arrPassed_rows {tile : Bool} {a : ArrOp} {c r : Nat} (hrows : twf ⟨[], 0⟩ x.rows = true)
    (hc : c ∈ maskCores tile a.mask) (hr : r < gNR (a.grp.map (·.toNat))) :
    tget ⟨[], 0⟩ (x.arrPassed tile n a).rows
        (rowKey c (gBank (a.grp.map (·.toNat))) (gFirst (a.grp.map (·.toNat)) + r)) =
      if aDst a.word.toNat then ⟨[], 0⟩ else nth ⟨[], 0⟩ (x.passOf tile a c).1 r := by
  rw [SeqUnit.arrPassed]
  dsimp only
  rw [SeqUnit.passResults, List.foldl_map]
  have hflat := tget_foldl_tput (⟨[], 0⟩ : AccRow)
    (fun p : Nat × Nat => rowKey p.1 (gBank (a.grp.map (·.toNat))) (gFirst (a.grp.map (·.toNat)) + p.2))
    (fun p => if aDst a.word.toNat then ⟨[], 0⟩ else nth ⟨[], 0⟩ (x.passOf tile a p.1).1 p.2)
    ((maskCores tile a.mask).flatMap fun c => (List.range (gNR (a.grp.map (·.toNat)))).map fun r => (c, r)) ?_ hrows
    (c, r) (List.mem_flatMap.mpr ⟨c, hc, List.mem_map_of_mem (List.mem_range.mpr hr)⟩)
  · simp only [List.foldl_flatMap, List.foldl_map] at hflat
    exact hflat
  · intro p hp p' hp' hk
    simp only [List.mem_flatMap, List.mem_map, List.mem_range] at hp hp'
    obtain ⟨c, -, r, hr, rfl⟩ := hp
    obtain ⟨c', -, r', hr', rfl⟩ := hp'
    obtain ⟨rfl, rfl⟩ := rowKey_inj hr hr' hk
    rfl

theorem twf_foldl_tput {α β : Type} [DecidableEq β] (d : β) (key : α → Nat) (v : α → β) (l : List α) {tb : Tbl β}
    (h : twf d tb = true) : twf d (l.foldl (fun t a => tput d t (key a) (v a)) tb) = true :=
  List.foldlRecOn (motive := fun t => twf d t = true) l _ h fun _ ht a _ => twf_tput d (key a) (v a) ht

theorem SeqUnit.arrPassed_links {tile : Bool} {a : ArrOp} {c : Nat} (hlinks : twf [] x.links = true)
    (hd : aDst a.word.toNat = true) (hc : c ∈ maskCores tile a.mask) :
    tget [] (x.arrPassed tile n a).links (c + 1) = (x.passOf tile a c).1 := by
  rw [SeqUnit.arrPassed]
  dsimp only
  rw [if_pos hd, SeqUnit.passResults, List.foldl_map]
  have hw : twf [] (if aAcc a.word.toNat = 2 then
      (maskCores tile a.mask).foldl (fun t c => tput [] t c []) x.links else x.links) = true := by
    split
    · exact twf_foldl_tput _ _ _ _ hlinks
    · exact hlinks
  exact tget_foldl_tput [] (fun c : Nat => c + 1) (fun c => (x.passOf tile a c).1) _
    (fun b _ b' _ h => by rw [Nat.succ.inj h]) hw c hc

/-- The rows of a core drained into its memories, with their largest magnitudes where the format asks for them. -/
def SeqUnit.drained1 (x : SeqUnit) (tile : Bool) (w : Nat) (g : List Nat) (y : SeqUnit) (c : Nat) : SeqUnit :=
  let rows := (dRows g).map fun r => (tget ⟨[], 0⟩ x.rows (rowKey c (dBank g) r)).sums
  let y := y.st (gMem tile c (nth 0 g 0)) (gOff (nth 0 g 0)) ((rows.map (drnRow (dOfmt w))).flatMap (·.1))
  if dOfmt w = 2 then
    y.st (gMem tile c (nth 0 g 2)) (gOff (nth 0 g 2)) (rows.flatMap fun r => leBytes 4 (amaxW r).toNat)
  else y

theorem SeqUnit.drained1_mem (x : SeqUnit) (tile : Bool) (w : Nat) (g : List Nat) (y : SeqUnit) (c : Nat) :
    ∃ m, x.drained1 tile w g y c = { y with mem := m } := by
  rw [SeqUnit.drained1]
  split
  · exact ⟨_, rfl⟩
  · exact ⟨_, rfl⟩

theorem drained_mem (x : SeqUnit) (tile : Bool) (w : Nat) (g : List Nat) (cores : List Nat) :
    ∃ m, cores.foldl (x.drained1 tile w g) x = { x with mem := m } :=
  List.foldlRecOn (motive := fun y : SeqUnit => ∃ m, y = { x with mem := m }) cores _ ⟨x.mem, rfl⟩ fun y hy c _ => by
    obtain ⟨m, rfl⟩ := hy
    exact SeqUnit.drained1_mem x tile w g _ c

/-- The rows of every core drained, with what their conversions count. -/
def SeqUnit.drnEffect (x : SeqUnit) (tile : Bool) (w : Nat) (g : List Nat) (cores : List Nat) : SeqUnit × Tally :=
  cores.foldl (fun acc c => (x.drained1 tile w g acc.1 c,
    ((((dRows g).map fun r => (tget ⟨[], 0⟩ x.rows (rowKey c (dBank g) r)).sums).map (drnRow (dOfmt w))).map
      (·.2)).foldl
      Tally.plus acc.2)) (x, Tally.zero)

theorem SeqUnit.drnEffect_fst (x : SeqUnit) (tile : Bool) (w : Nat) (g : List Nat) (cores : List Nat) :
    (x.drnEffect tile w g cores).1 = cores.foldl (x.drained1 tile w g) x :=
  (List.foldl_hom Prod.fst fun _ _ => rfl).symm

theorem drnRowsWritten_drains {a : ArrOp} (c : s.Canon) (ha : (s.unit u).arrs[n]? = some a)
    (hlive : s.live (dieOfUnit u) = true) (hdrn : a.isDrn = true) (hb : (s.unit u).before n = [])
    (hsig : aSig a.word.toNat = true → (s.unit u).token (aTok a.word.toNat) < 0xFFFF)
    (hrun : (s.unit u).run ≠ .excepted) :
    let m := ((maskCores (isTile u) a.mask).foldl
      ((s.unit u).drained1 (isTile u) a.word.toNat (a.grp.map (·.toNat))) (s.unit u)).mem
    let y := { s.unit u with mem := m, arrs := (s.unit u).arrs.eraseIdx n }
    ∃ t, exec (.drnRowsWritten u n) s = .next t ∧ t.unit u = Stated.signals y (aSig a.word.toNat) (aTok a.word.toNat) ∧
      ∀ v, v ≠ u → t.unit v = s.unit v := by
  intro m y
  have hfst := (s.unit u).drnEffect_fst (isTile u) a.word.toNat (a.grp.map (·.toNat)) (maskCores (isTile u) a.mask)
  obtain ⟨m', hm'⟩ := drained_mem (s.unit u) (isTile u) a.word.toNat (a.grp.map (·.toNat)) (maskCores (isTile u) a.mask)
  have hunit : { ((s.unit u).drnEffect (isTile u) a.word.toNat (a.grp.map (·.toNat)) (maskCores (isTile u) a.mask)).1
      with
      arrs := (s.unit u).arrs.eraseIdx n } = y := by
    rw [hfst]
    change _ = ({ s.unit u with
      mem := ((maskCores (isTile u) a.mask).foldl _ (s.unit u)).mem, arrs := (s.unit u).arrs.eraseIdx n } : SeqUnit)
    rw [hm']
  let e := (s.unit u).drnEffect (isTile u) a.word.toNat (a.grp.map (·.toNat)) (maskCores (isTile u) a.mask)
  let z := (s.setUnit u y).fhAdd (dieOfUnit u) (s.unit u).ctx.part (dClass a.word.toNat)
    (if dOfmt a.word.toNat = 0 then 0 else 2) e.2
  have hf : Moves [.bus, .health] (s.setUnit u y) z := Moves.fhAdd _ _ _ _ _ _
  have hz : z.unit u = y := (hf.unit (u := u)).trans (State.unit_setUnit c ..)
  have hzc : z.Canon := (Keeps.fhAdd (.refl (s := s.setUnit u y))).canon (State.canon_setUnit c u y)
  obtain ⟨hsame, hother⟩ := State.signal_shows (sig := aSig a.word.toNat) (k := aTok a.word.toNat) hzc hz hsig
  have hexec : exec (.drnRowsWritten u n) s =
      .next (if aSig a.word.toNat = true then z.signal u (aTok a.word.toNat) else z) := by
    change execDrnRowsWritten u n s = _
    rw [execDrnRowsWritten, ha]
    dsimp only
    refine (if_pos ⟨hlive, hdrn, by rw [hb]; rfl⟩).trans (congrArg _ ?_)
    refine (congrArg (fun y => State.excRecord (if aSig a.word.toNat = true then
        ((s.setUnit u y).fhAdd (dieOfUnit u) (s.unit u).ctx.part (dClass a.word.toNat)
          (if dOfmt a.word.toNat = 0 then 0 else 2) e.2).signal u (aTok a.word.toNat)
        else (s.setUnit u y).fhAdd (dieOfUnit u) (s.unit u).ctx.part (dClass a.word.toNat)
          (if dOfmt a.word.toNat = 0 then 0 else 2) e.2) u) hunit).trans (State.excRecord_of_run ?_)
    change (State.unit (if aSig a.word.toNat = true then z.signal u (aTok a.word.toNat) else z) u).run ≠ _
    rw [hsame, Stated.signals]
    split
    · exact hrun
    · exact hrun
  exact ⟨_, hexec, hsame, fun v hv =>
    (hother v hv).trans ((hf.unit (u := v)).trans (State.unit_setUnit_ne c _ hv))⟩

theorem arraysAndDrainsComplete : Stated.ArraysAndDrainsComplete := by
  intro s u n a x tile w g cores capOf res c ha hlive
  refine ⟨fun hdrn hread htherm hb hsig => arrOperandsRead_reads c ha hlive hdrn hread htherm hb hsig, ?pass, ?drain⟩
  case pass =>
    intro hdrn hread hb hrun hin hout hrows hlinks
    have hunit := State.unit_setUnit c u (x.arrPassed tile n a)
    have hres (b : Nat) : x.passOf tile a b = res b :=
      congrArg (passRows tile a (capOf b)) (funext fun r => passStart_eq (bits_lt w 25 24))
    refine ⟨_, arrPassComplete_passes c ha hlive hdrn hread hb hrun hin hout, by rw [hunit]; rfl, fun b hb r hr => ?_,
      fun hd b hb => ?_, ?_, by rw [hunit]; rfl, fun v hv => State.unit_setUnit_ne c _ hv⟩
    · rw [hunit, ← hres]
      exact SeqUnit.arrPassed_rows hrows hb hr
    · rw [hunit, ← hres]
      exact SeqUnit.arrPassed_links hlinks hd hb
    · rw [hunit, SeqUnit.arrPassed, SeqUnit.passResults, List.foldl_map]
      simp only [hres]
      rfl
  case drain =>
    intro hdrn hb hsig hrun
    obtain ⟨t, hexec, hunit, hother⟩ := drnRowsWritten_drains c ha hlive hdrn hb hsig hrun
    refine ⟨t, hexec, ?_, ?_, ?_, ?_, ?_, hother⟩
    · rw [hunit, signals_keeps SeqUnit.arrs fun _ _ => rfl]
    · rw [hunit, Stated.signals, Stated.signals, apply_ite SeqUnit.tokens, apply_ite SeqUnit.tokens]
      rfl
    · rw [hunit, signals_keeps SeqUnit.rows fun _ _ => rfl]
    · rw [hunit, signals_keeps SeqUnit.seq fun _ _ => rfl]
    · rw [hunit, signals_keeps SeqUnit.mem fun _ _ => rfl]
      rfl

theorem arraysAndDrainsIssue : Stated.ArraysAndDrainsIssue := by
  intro s u acc dst wf af cls form ofmt rs sig tok rm x q m cores wa wd ga gd hrm hgo hfull
  refine ⟨fun h hm ha => ?_, fun h hform hrs hm hbad => arr_masked hrm hgo h hform hrs hm hbad,
    fun h hm hfmt hrs hbad hset hcls => drn_enters hrm hgo hfull h hm hfmt hrs hbad hset hcls⟩
  have hunit := State.unit_setUnit h.canon u ({ x with seq := q }.arrIssued cores wa.toNat m (x.seq.group rs.toNat 6))
  have hwa : w32 wa.toNat = wa := by rw [w32, BitVec.ofNat_toNat, BitVec.setWidth_eq]
  refine ⟨_, arr_enters hrm hgo hfull h hm ha, ?_, fun c hc r hr => ?_, ?_,
    fun v hv => State.unit_setUnit_ne h.canon _ hv⟩
  · rw [hunit, SeqUnit.arrIssued, hwa]
    rfl
  · have hga : (x.seq.group rs.toNat 6).map (·.toNat) = ga := Seqr.group_toNat ..
    have hdst : aDst wa.toNat = (dst == 1) := aDst_arrWord ..
    rw [hunit, ← hdst, ← hga]
    rw [← hga] at hr
    exact SeqUnit.rowOk_arrIssued hc hr
  · rw [hunit]
    exact ⟨_, _, rfl⟩

open Sys2Proof Sys2Proof.Machine in
/-- Settles O13: what the checks admit enters the queue of its arrays; the rows of a pass have keys of their own,
  so each
reads its sum; a drain writes its memories core by core and gives its signal. -/
theorem arraysAndDrains : Obligations.ArraysAndDrains := ⟨arraysAndDrainsIssue, arraysAndDrainsComplete, barredDrain⟩

end Sys2Proof.Machine
end

section
/-! SUPPORT. The Runner of a unit (R119 to R122, R146): descriptors pushed, started, refused and completed. -/
set_option Elab.async false

namespace Sys2Proof.Machine

variable {s t z : State} {u : Nat} {x y : SeqUnit}

/-! ## RPUSH (R146) -/

theorem toNat_rpushWord (rs : BitVec 5) : (0x28#6 ++ 0#11 ++ rs ++ 0#10).toNat = 0x28 * 2 ^ 26 + rs.toNat * 2 ^ 10 := by
  simp only [toNat_append_eq_add, BitVec.toNat_ofNat]
  omega

theorem opOf_rpushWord (rs : BitVec 5) : opOf (0x28#6 ++ 0#11 ++ rs ++ 0#10).toNat = 0x28 := by
  rw [opOf, toNat_rpushWord, bits]
  omega

theorem fields_rpushWord (rs : BitVec 5) : bits (0x28#6 ++ 0#11 ++ rs ++ 0#10).toNat 25 15 = 0 ∧
    bits (0x28#6 ++ 0#11 ++ rs ++ 0#10).toNat 9 0 = 0 ∧ aRs (0x28#6 ++ 0#11 ++ rs ++ 0#10).toNat = rs.toNat := by
  rw [aRs, toNat_rpushWord]
  simp only [bits]
  omega

theorem issueCycles_rpushWord (rs : BitVec 5) : issueCycles (0x28#6 ++ 0#11 ++ rs ++ 0#10).toNat = 2 := by
  simp only [issueCycles, opOf_rpushWord]
  rfl

theorem rpush_queues {rs : BitVec 5} (h : Stated.Issues s u (0x28#6 ++ 0#11 ++ rs ++ 0#10))
    (hgo : Stated.GoesOn (s.unit u) (Stated.past (s.unit u).seq 2)) (hrs : rs.toNat ≤ 24)
    (hroom : (s.unit u).queue.length < 64) :
    exec (.rpush u) s = .next (s.setUnit u { s.unit u with
      seq := Stated.past (s.unit u).seq 2
      queue := (s.unit u).queue ++ [(List.range 8).map fun i => (s.unit u).seq.S (rs.toNat + i)] }) := by
  obtain ⟨hhigh, hlow, hfield⟩ := fields_rpushWord rs
  refine exec_of_unit (f := rpushFx) rfl h (wordRow_of_single (opOf_rpushWord rs) (by decide)) ?_ rfl hgo
  rw [rpushFx, State.unit_setUnit h.canon]
  dsimp only
  rw [hhigh, hlow, hfield, if_neg (by decide), if_neg (Nat.not_lt.mpr hrs)]
  refine (if_neg (Nat.not_le.mpr hroom)).trans ?_
  rw [State.setUnit_setUnit h.canon, SeqUnit.next, issueCycles_rpushWord]
  rfl

/-! ## Units that a change leaves in their table -/

/-- A listed value is not touched by a write at another key, whatever the order of the table. -/
theorem tget_tput_of_listed {α : Type} [DecidableEq α] {d : α} {tb : Tbl α} {n m : Nat} (v : α) (h : tget d tb m ≠ d)
    (hm : m ≠ n) : tget d (tput d tb n v) m = tget d tb m := by
  induction tb with
  | nil => exact absurd rfl h
  | cons a r ih =>
    obtain ⟨k, w⟩ := a
    simp only [tget] at h ⊢
    simp only [tput]
    split at h
    · next hk =>
      subst hk
      rw [if_neg hm.symm]
      split
      · split
        · simp [tget]
        · simp only [tget]
          rw [if_neg hm, if_neg (by omega)]
      · simp [tget]
    · next hk =>
      split at h
      · exact absurd rfl h
      · next hlt =>
        rw [if_neg hk, if_neg hlt]
        split
        · split
          · rfl
          · simp only [tget]
            rw [if_neg hm, if_neg (by omega)]
        · split
          · split
            · simp only [tget]
              rw [if_neg hk, if_neg hlt]
            · simp only [tget]
              rw [if_neg hm, if_neg (by omega), if_neg hk, if_neg hlt]
          · simp only [tget]
            rw [if_neg hk, if_neg hlt]
            exact ih h

/-- A unit that is listed, in the state and of the kind that `P` says, is so after changes that keep `P`. -/
theorem State.unit_setUnit_listed {P : SeqUnit → Prop} (hP : ∀ y, P y → y ≠ .reset) (h : P (s.unit u)) {v : Nat}
    {y : SeqUnit} (hy : v = u → P y) : P ((s.setUnit v y).unit u) := by
  by_cases hv : v = u
  · subst hv
    rw [State.unit, State.setUnit, State.setUnits]
    dsimp only
    rw [tget_tput_of_ne _ _ (hP y (hy rfl))]
    exact hy rfl
  · have hkeep : (s.setUnit v y).unit u = s.unit u := tget_tput_of_listed y (hP _ h) (Ne.symm hv)
    rwa [hkeep]

/-! ## A descriptor starts or is refused (R120, R122) -/

theorem runnerStart_refuses {ws : List Word} {rest : List (List Word)} (hq : (s.unit u).queue = ws :: rest)
    (hon : (s.unit u).runnerOn = true) (hlive : s.live (dieOfUnit u) = true) (hsave : s.unitSaving u = false)
    (hok : rdOk (isTile u) (rdNat ws) = false) :
    exec (.runnerDescriptorStart u) s = .next (s.kernelRefuse u) := by
  change execRunnerDescriptorStart u s = _
  rw [execRunnerDescriptorStart, hq]
  dsimp only
  rw [if_neg (by rw [hon, hlive, hsave]; decide), if_pos (by rw [hok]; rfl)]

theorem runnerStart_starts {ws : List Word} {rest : List (List Word)} (hq : (s.unit u).queue = ws :: rest)
    (hon : (s.unit u).runnerOn = true) (hlive : s.live (dieOfUnit u) = true) (hsave : s.unitSaving u = false)
    (hok : rdOk (isTile u) (rdNat ws) = true)
    (hwait : rdWaitEn (rdNat ws) = true → 0 < (s.unit u).token (rdWaitTok (rdNat ws)))
    (hroom : rdReads (rdNat ws) ≠ 0 → ((s.unit u).started.map fun e => rdReads (rdNat e.words)).sum < 32768)
    (hacc : s.unitAccess (s.unit u).ctx.part (isTile u) [(u, rdRanges (rdNat ws))] = none) :
    exec (.runnerDescriptorStart u) s = .next (s.setUnit u
      { (if rdWaitEn (rdNat ws) then (s.unit u).setToken (rdWaitTok (rdNat ws))
          ((s.unit u).token (rdWaitTok (rdNat ws)) - 1) else s.unit u) with
        queue := rest
        started := (s.unit u).started ++ [⟨ws, (s.unit u).scaleMade⟩]
        scaleMade := false }) := by
  have hreads : (s.unit u).readsOut = ((s.unit u).started.map fun e => rdReads (rdNat e.words)).sum := by
    rw [SeqUnit.readsOut, List.sum_eq_foldl]
  change execRunnerDescriptorStart u s = _
  rw [execRunnerDescriptorStart, hq]
  dsimp only
  rw [if_neg (by rw [hon, hlive, hsave]; decide), if_neg (by rw [hok]; decide),
    if_neg (by rw [hreads]; exact fun h => Nat.not_lt.mpr h.1 (hroom h.2)),
    if_neg fun h => Nat.ne_of_gt (hwait h.1) h.2, hacc]
  dsimp only
  cases rdWaitEn (rdNat ws) <;> rfl

/-! ## A started descriptor completes (R120) -/

/-- A unit whose run state is this one. -/
def RunsAs (r : UnitRun) (y : SeqUnit) : Prop := y.run = r

theorem RunsAs.listed {r : UnitRun} (hr : r ≠ .idle) (y : SeqUnit) (h : RunsAs r y) : y ≠ .reset := fun hy =>
  hr (h.symm.trans (congrArg SeqUnit.run hy))

theorem State.rdWrite_runsAs {r : UnitRun} (hr : r ≠ .idle) (h : RunsAs r (s.unit u)) (d : Nat)
    (rows : List (List Byte)) :
    RunsAs r ((s.rdWrite u d rows).unit u) := by
  rw [State.rdWrite]
  split
  · rw [(Moves.forN (l := [.mem]) (fun i x => Moves.wr x (s.unit u).ctx.part (rdAddr d + i * rdStride d)
      (nth [] rows i)) rows.length s).unit]
    exact h
  · exact List.foldlRecOn (motive := fun z => RunsAs r (State.unit z u)) _ _ h fun z hz m _ =>
      State.unit_setUnit_listed (RunsAs.listed hr) hz fun _ => hz

theorem State.rdRun_runsAs {r : UnitRun} (hr : r ≠ .idle) (h : RunsAs r (s.unit u)) (d : Nat) :
    RunsAs r ((s.rdRun u d none).unit u) := by
  rw [State.rdRun]
  dsimp only
  split
  · exact State.rdWrite_runsAs hr h _ _
  · split
    · exact State.rdWrite_runsAs hr h _ _
    · rw [(Moves.fhAdd _ _ _ _ _ _).unit]
      exact State.rdWrite_runsAs hr h _ _

theorem BusOnly.rdCount (s : State) (u d : Nat) : BusOnly s (s.rdCount u d) :=
  .ite .refl (.ite .count64 .movesBytes)

/-- A unit with this token, in no exception. -/
def CalmWith (n v : Nat) (y : SeqUnit) : Prop := y.run ≠ .excepted ∧ y.token n = v

theorem CalmWith.listed {n v : Nat} (hv : v ≠ 0) (y : SeqUnit) (h : CalmWith n v y) : y ≠ .reset := fun hy =>
  hv (h.2.symm.trans (congrArg (SeqUnit.token · n) hy))

/-- A fault of a partition, whatever it stops, leaves a unit in no exception with its tokens. -/
theorem State.faultPart_calm {n v : Nat} (hv : v ≠ 0) (h : CalmWith n v (s.unit u)) (p typ inst code : Nat) :
    CalmWith n v ((s.faultPart p typ inst code).unit u) := by
  have hstop (us : List Nat) (z : State) (hz : CalmWith n v (z.unit u)) : CalmWith n v ((z.stopUnits us).unit u) :=
    List.foldlRecOn (motive := fun z => CalmWith n v (State.unit z u)) us _ hz fun z hz w _ =>
      State.unit_setUnit_listed (CalmWith.listed hv) hz fun hw => ⟨nofun, by rw [hw]; exact hz.2⟩
  cases hst : (s.part p).st.faultable with
  | true =>
    rw [State.faultPart_eq hst]
    refine hstop _ _ ?_
    rw [State.unit_of_units State.faultReported_busOnly.units]
    exact h
  | false =>
    obtain heq | ⟨x, hx, -, heq⟩ := State.faultPart_eq_of_not (typ := typ) (inst := inst) (code := code) hst
    · rwa [heq]
    · rw [heq]
      exact (State.unit_of_units hx.units u).symm ▸ h

/-- A signal leaves a unit that runs, or has stopped, in no exception. -/
theorem State.signal_calm (hr : (s.unit u).run ≠ .excepted) (hi : (s.unit u).run ≠ .idle) (n : Nat) :
    ((s.signal u n).unit u).run ≠ .excepted := by
  rw [State.signal]
  dsimp only
  split
  · have hrun : RunsAs (s.unit u).run ((s.setUnit u ((s.unit u).setToken n ((s.unit u).token n + 1))).unit u) :=
      State.unit_setUnit_listed (RunsAs.listed hi) rfl fun _ => rfl
    exact fun h => hr (hrun.symm.trans h)
  · next hfull =>
    have hcalm : CalmWith n ((s.unit u).token n) (s.unit u) := ⟨hr, rfl⟩
    refine (State.faultPart_calm (n := n) (v := (s.unit u).token n) (by omega) ?_ _ _ _ _).1
    have hbus : BusOnly s (if isTile u = true then s else
        s.evErr (unitPage u).1 (unitPage u).2 7 7 (s.unit u).ctx.part n 0) := .ite .refl (.evErr (by
      rw [unitPage]
      split <;> exact nofun))
    rw [State.unit_of_units hbus.units]
    exact hcalm

theorem runnerDone_moves {r : RunDesc} (hs : (s.unit u).started = [r]) (hq : (s.unit u).queue = [])
    (hon : (s.unit u).runnerOn = true) (hlive : s.live (dieOfUnit u) = true) (hdone : r.done = false)
    (hscale : rdScales (rdNat r.words) = true → (s.unit u).mayPush = false) :
    let d := rdNat r.words
    let t := ((s.rdRun u d none).rdCount u d).modUnit u fun y => { y with started := [], scaleMade := false }
    exec (.runnerDescriptorDone u) s = .next (if rdSigEn d then t.signal u (rdSigTok d) else t) := by
  obtain ⟨words, done⟩ := r
  obtain rfl : done = false := hdone
  intro d t
  obtain ⟨hidle, hexc⟩ : (s.unit u).run ≠ .idle ∧ (s.unit u).run ≠ .excepted := by
    rw [SeqUnit.runnerOn] at hon
    exact ⟨fun h => absurd hon (by rw [h]; decide), fun h => absurd hon (by rw [h]; decide)⟩
  have hcount : RunsAs (s.unit u).run (((s.rdRun u d none).rdCount u d).unit u) := by
    rw [State.unit_of_units (BusOnly.rdCount ..).units]
    exact State.rdRun_runsAs hidle rfl d
  have hrun : (t.unit u).run = (s.unit u).run :=
    State.unit_setUnit_listed (P := RunsAs (s.unit u).run) (RunsAs.listed hidle) hcount fun _ => hcount
  have hcalm : (State.unit (if rdSigEn d = true then t.signal u (rdSigTok d) else t) u).run ≠ .excepted := by
    split
    · exact State.signal_calm (by rwa [hrun]) (by rwa [hrun]) _
    · rwa [hrun]
  change execRunnerDescriptorDone u s = _
  rw [execRunnerDescriptorDone, hs, hq]
  dsimp only
  refine (if_neg ?on).trans ((if_neg ?push).trans ?done)
  case on =>
    rw [hon, hlive, Bool.true_or, Bool.true_or]
    decide
  case push => exact fun h => absurd (hscale h.1) (by rw [h.2.2.2]; decide)
  case done =>
    exact congrArg _ (State.excRecord_of_run hcalm)

open Sys2Proof Sys2Proof.Machine in
/-- Settles O14: RPUSH queues the registers it names; a start takes the token and the place in the list,
  a completion moves
the bytes and signals. A unit that runs is listed, so no other unit's change hides it. -/
theorem runnerDescriptors : Obligations.RunnerDescriptors := fun _ _ _ =>
  ⟨rpush_queues, fun _ _ hq hon hlive hsave => ⟨runnerStart_refuses hq hon hlive hsave,
    runnerStart_starts hq hon hlive hsave⟩,
  fun _ hs hq hon hlive hdone hscale => runnerDone_moves hs hq hon hlive hdone hscale⟩

end Sys2Proof.Machine
end

section
/-! SUPPORT. The ends of a partition's work (Table 14.6, R322, R348): what a fault stops, what a teardown and a drain
leave. -/
set_option Elab.async false

namespace Sys2Proof.Machine

variable {s t z : State} {p : Nat} {x : Part} {k : Cmd}

/-! ## Commands answered one by one -/

theorem filter_updFirst_closed (i : Nat) (l : List Cmd) (hl : (l.map (·.cid)).Nodup) :
    (updFirst (fun d => d.cid == i) Cmd.closed l).filter (fun k => k.phase != .answered) =
      (l.filter fun k => k.phase != .answered).filter fun k => k.cid != i := by
  induction l with
  | nil => rfl
  | cons a l ih =>
    rw [List.map_cons, List.nodup_cons] at hl
    by_cases ha : a.cid = i
    · have hrest : ∀ b ∈ l.filter (fun k => k.phase != .answered), (b.cid != i) = true := fun b hb =>
        bne_iff_ne.mpr fun hbi => hl.1 (ha.trans hbi.symm ▸ List.mem_map_of_mem (List.mem_filter.mp hb).1)
      have hopen : ((a :: l).filter fun k => k.phase != .answered).filter (fun k => k.cid != i) =
          (l.filter fun k => k.phase != .answered).filter fun k => k.cid != i := by
        rw [List.filter_cons]
        split
        · exact List.filter_cons_of_neg (by rw [ha, bne_self_eq_false]; decide)
        · rfl
      rw [hopen, List.filter_eq_self.mpr hrest, updFirst, if_pos (beq_iff_eq.mpr ha)]
      exact List.filter_cons_of_neg (Bool.eq_false_iff.mp rfl)
    · rw [updFirst, if_neg (by rwa [beq_iff_eq]), List.filter_cons, List.filter_cons, ih hl.2]
      split
      · exact (List.filter_cons_of_pos (p := fun k : Cmd => k.cid != i) (bne_iff_ne.mpr ha)).symm
      · rfl

theorem map_cid_close (x : Part) (i : Nat) : (x.close i).cmds.map (·.cid) = x.cmds.map (·.cid) :=
  map_updFirst (u := Cmd.closed) (fun _ => rfl) x.cmds

/-- From `s` to `z` commands of partition `p` are answered, with what goes with that: counts,
  marks and entries of rings. -/
structure EndsCmds (p : Nat) (s z : State) : Prop where
  canon : z.Canon
  moves : Moves [.mem, .bus, .rings, .parts, .sprue, .stk] s z
  core : (z.part p).core = (s.part p).core
  sprue : z.sprue.core = s.sprue.core
  gran : z.stk.gran = s.stk.gran
  ids : ((z.part p).cmds.map (·.cid)).Nodup
  left : (z.part p).open.Sublist (s.part p).open

namespace EndsCmds

theorem refl (c : s.Canon) (h : ((s.part p).cmds.map (·.cid)).Nodup) : EndsCmds p s s :=
  ⟨c, .refl, rfl, rfl, rfl, h, .refl _⟩

theorem trans (h : EndsCmds p s z) (h' : EndsCmds p z t) : EndsCmds p s t :=
  ⟨h'.canon, h.moves.andThen h'.moves, h'.core.trans h.core, h'.sprue.trans h.sprue, h'.gran.trans h.gran, h'.ids,
    h'.left.trans h.left⟩

theorem posts (h : EndsCmds p s z) (hp : Posts z t) : EndsCmds p s t := by
  have ht := hp h.canon
  exact ⟨ht.canon, h.moves.andThen ht.moves, (ht.part p).trans h.core, ht.sprue.trans h.sprue,
    (congrArg Stacks.gran (ht.moves.stk)).trans h.gran, h.ids.sublist ((ht.fewer p).map _), (ht.kept p) ▸ h.left⟩

theorem bus (h : EndsCmds p s z) (hb : BusOnly z t) (hc : t.Canon) : EndsCmds p s t := by
  obtain ⟨b, rfl⟩ := hb
  exact ⟨hc, h.moves.andThen (.ofBusOnly ⟨b, rfl⟩), h.core, h.sprue, h.gran, h.ids, h.left⟩

/-- An answer: the command is no longer among those left. -/
theorem answerCmd (c : s.Canon) (hids : ((s.part p).cmds.map (·.cid)).Nodup) (hp : p < 9) (k : Cmd) (o : Compl)
    (start : Nat) : EndsCmds p s (s.answerCmd p k o start) ∧
      ∀ y ∈ ((s.answerCmd p k o start).part p).open, y.cid ≠ k.cid := by
  obtain ⟨m, r, hanswer⟩ := s.answerCmd_eq p k o start
  rw [hanswer]
  have hc : ((s.setPart p ((s.part p).close k.cid)).setStk { s.stk with marks := m, readMarks := r }).Canon :=
    ((Keeps.setPart .refl).setStk (x := { s.stk with marks := m, readMarks := r }) fun c => ⟨c.st, c.gran⟩).canon c
  have hpart : ((s.setPart p ((s.part p).close k.cid)).setStk { s.stk with marks := m, readMarks := r }).part p =
      (s.part p).close k.cid := State.part_setPart c ..
  have hopen : ((s.part p).close k.cid).open = (s.part p).open.filter fun y => y.cid != k.cid :=
    filter_updFirst_closed k.cid _ hids
  have hstk : Moves [.stk] (s.setPart p ((s.part p).close k.cid))
      ((s.setPart p ((s.part p).close k.cid)).setStk { s.stk with marks := m, readMarks := r }) := Moves.setStk _ _
  have hclose : EndsCmds p s ((s.setPart p ((s.part p).close k.cid)).setStk { s.stk with marks := m, readMarks := r })
      :=
    ⟨hc, (Moves.setPart s p _).mono.andThen hstk, by rw [hpart]; rfl, rfl, rfl,
      by rw [hpart, map_cid_close]; exact hids, by rw [hpart, hopen]; exact List.filter_sublist⟩
  refine ⟨hclose.posts (Posts.respond hp _ _ _ _ _ _ _), fun y hy => ?_⟩
  rw [((Posts.respond hp _ k.opcode (ringPart p) k.seq k.tag.toNat o start) hc).kept, hpart, hopen] at hy
  exact bne_iff_ne.mp (List.mem_filter.mp hy).2

/-- Commands answered in turn: none of them is left. -/
theorem foldl {f : State → Cmd → State} (hf : ∀ z, z.Canon → ((z.part p).cmds.map (·.cid)).Nodup → ∀ k,
    EndsCmds p z (f z k) ∧ ∀ y ∈ ((f z k).part p).open, y.cid ≠ k.cid) (ks : List Cmd) (c : s.Canon)
    (hids : ((s.part p).cmds.map (·.cid)).Nodup) :
    EndsCmds p s (ks.foldl f s) ∧ ∀ k ∈ ks, ∀ y ∈ ((ks.foldl f s).part p).open, y.cid ≠ k.cid := by
  induction ks generalizing s with
  | nil => exact ⟨refl c hids, nofun⟩
  | cons a ks ih =>
    obtain ⟨ha, hgone⟩ := hf s c hids a
    obtain ⟨hks, hrest⟩ := ih ha.canon ha.ids
    refine ⟨ha.trans hks, fun k hk y hy => ?_⟩
    obtain rfl | hk := List.mem_cons.mp hk
    · exact hgone y (hks.left.subset hy)
    · exact hrest k hk y hy

end EndsCmds

/-! ## What is unanswered when a partition's work ends (R321) -/

theorem BusOnly.lateness (s : State) (p : Nat) (k : Cmd) : BusOnly s (s.lateness p k).1 := by
  rw [State.lateness]
  split
  · dsimp only
    split
    · exact BusOnly.count32.trans (.evSet nofun)
    · exact .refl
  · exact .refl

/-- A command that has not completed is answered with a status. -/
def State.endCmd (s : State) (p status : Nat) (k : Cmd) : State :=
  let z := (s.lateness p k).1
  (z.setPg .part p 0x48 (z.pg .part p 0x48 ||| (z.nstatNow k).toNat % 16)).answerCmd p k
    { Compl.of status with
      nstat := z.nstatNow k, cflags := (s.lateness p k).2 ||| (if k.wasQuenched then cfQUENCHED else 0) } k.start

/-- The commands of a partition that have not completed, by queue and submission order. -/
def Part.unanswered (x : Part) : List Cmd :=
  (List.range 8).flatMap fun i => x.cmds.filter fun k => k.queue == i && k.phase != .answered

/-- What else of a partition is unanswered: messages that PAUSED held, and a pause. -/
def State.endHeld (s : State) (p status : Nat) (q : Part) : State :=
  let s := q.held.foldl (fun s (h : Nat × Word × List Byte) =>
    s.respond p (fld h.2.2 2 2) p h.1 h.2.1.toNat (.of status) 0) s
  match q.pause with
  | some (seq, tag) => s.respond 8 0x102 p seq tag.toNat (.of status) 0
  | none => s

theorem State.endMsgs_eq (s : State) (p status : Nat) :
    s.endMsgs p status = (((s.part p).unanswered.foldl (fun s k => s.endCmd p status k) s).endHeld p status
      (s.part p)).modPart p fun q => { q with held := [], pause := none } := rfl

theorem Posts.endHeld (s : State) (hp : p < 9) (status : Nat) (q : Part) : Posts s (s.endHeld p status q) := by
  have hheld := Posts.foldl (f := fun s (h : Nat × Word × List Byte) =>
    State.respond s p (fld h.2.2 2 2) p h.1 h.2.1.toNat (.of status) 0) q.held
    (fun x h _ => Posts.respond hp x _ _ _ _ _ _) s
  rw [State.endHeld]
  split
  · exact hheld.trans (Posts.respond (by decide) _ _ _ _ _ _ _)
  · exact hheld

theorem State.endCmd_ends (c : s.Canon) (hids : ((s.part p).cmds.map (·.cid)).Nodup) (hp : p < 9) (status : Nat)
    (k : Cmd) : EndsCmds p s (s.endCmd p status k) ∧ ∀ y ∈ ((s.endCmd p status k).part p).open, y.cid ≠ k.cid := by
  rw [State.endCmd]
  dsimp only
  have hlate := BusOnly.lateness s p k
  have hz : EndsCmds p s _ := (EndsCmds.refl c hids).bus (hlate.trans (.setPg (k := .part) (i := p) (off := 0x48)
    (v := (s.lateness p k).1.pg .part p 0x48 ||| ((s.lateness p k).1.nstatNow k).toNat % 16)))
    ((Keeps.setPg (Keeps.lateness .refl)).canon c)
  obtain ⟨hans, hgone⟩ := EndsCmds.answerCmd hz.canon hz.ids hp k
    { Compl.of status with
      nstat := (s.lateness p k).1.nstatNow k
      cflags := (s.lateness p k).2 ||| (if k.wasQuenched then cfQUENCHED else 0) } k.start
  exact ⟨hz.trans hans, hgone⟩

/-- The end of a partition's messages answers every command of its eight queues, and forgets what was held. -/
theorem State.endMsgs_ends (c : s.Canon) (hids : ((s.part p).cmds.map (·.cid)).Nodup) (hp : p < 9) (status : Nat) :
    ∃ y, EndsCmds p s y ∧ s.endMsgs p status = y.modPart p (fun q => { q with held := [], pause := none }) ∧
      ((∀ k ∈ (s.part p).cmds, k.queue < 8) → (y.part p).open = []) := by
  obtain ⟨hcmds, hgone⟩ := EndsCmds.foldl (f := fun s k => s.endCmd p status k)
    (fun z hz hi k => State.endCmd_ends hz hi hp status k) (s.part p).unanswered c hids
  have hy := hcmds.posts (Posts.endHeld _ hp status (s.part p))
  refine ⟨_, hy, s.endMsgs_eq p status, fun hq => ?_⟩
  rw [((Posts.endHeld _ hp status (s.part p)) hcmds.canon).kept]
  refine List.eq_nil_iff_forall_not_mem.mpr fun k hk => ?_
  obtain ⟨hmem, hopen⟩ := List.mem_filter.mp (hcmds.left.subset hk)
  exact hgone k (List.mem_flatMap.mpr ⟨k.queue, List.mem_range.mpr (hq k hmem), List.mem_filter.mpr
    ⟨hmem, by rw [beq_self_eq_true, hopen]; rfl⟩⟩) k hk rfl

/-! ## Work and units (Table 14.6, steps 2 to 5) -/

theorem BusOnly.fumErr (s : State) (n c p : Nat) (tag : Word) : BusOnly s (s.fumErr n c p tag) :=
  .evErr (k := .fum) (by decide)

theorem BusOnly.fumAbort (s : State) (n p : Nat) : BusOnly s (s.fumAbort n p) := by
  refine List.foldlRecOn (motive := BusOnly s) _ _ .refl fun y hy i _ => hy.trans ?_
  rw [State.fumAbortCmd]
  split
  · split
    · exact List.foldlRecOn (motive := BusOnly y) _ _ .refl fun z hz c _ =>
        hz.trans (.trans (BusOnly.fumErr z n c p _) .movesBytes)
    · exact .refl
  · exact .refl

/-- The work of a partition ended: its collectives, its seal and its serving gone. -/
def Part.idled (x : Part) : Part :=
  { x with
    ladle := { x.ladle with colls := [], waiting := [], future := [] }
    step := { x.step with sealing := none, held := none }
    serving := none, variant := 0 }

/-- What the end of a partition's work leaves, its units scrubbed. -/
structure Scrubbed (p : Nat) (s z : State) : Prop where
  canon : z.Canon
  moves : Moves [.bus, .units, .sprue, .stk, .fabric, .parts] s z
  part : z.part p = (s.part p).idled
  gran : z.stk.gran = s.stk.gran
  blks : ∀ b ∈ z.sprue.blks, b.part ≠ p
  units : ∀ u ∈ s.partUnits p, z.unit u = (s.unit u).zeroed

/-- What the Sprues, the stacks and the storage exchange hold of a partition, dropped. -/
def State.dropWork (s : State) (p : Nat) : State :=
  let s := s.setSprue { s.sprue with
    blks := s.sprue.blks.filter fun b => b.part ≠ p,
    waiting := s.sprue.waiting.filter fun w => w.part ≠ p,
    halves := s.sprue.halves.filter fun w => w.part ≠ p,
    deliv := s.sprue.deliv.filter fun d => nth 8 d 0 ≠ p,
    reserved := s.sprue.reserved.filter fun (r : Nat × Nat) => r.1 ≠ p,
    sent := s.sprue.sent.filter fun d => nth 8 d 0 ≠ p }
  let s := s.setStk { s.stk with
    fumQ := s.stk.fumQ.filter fun (e : Nat × List Nat) => e.1 % 8 ≠ p,
    fumRun := s.stk.fumRun.filter fun (e : Nat × List Nat) => e.1 % 8 ≠ p,
    marks := s.stk.marks.filter fun (e : Nat × Nat × Nat) => e.2.1 ≠ p,
    readMarks := s.stk.readMarks.filter fun (e : Nat × Nat × Nat) => e.2.1 ≠ p }
  s.setFabric { s.fabric with store := s.fabric.store.filter fun x => x.part ≠ p }

theorem State.endWork_eq (s : State) (p : Nat) :
    s.endWork p = ((forN 12 s fun n s => s.fumAbort n p).dropWork p).modPart p Part.idled := rfl

theorem State.canon_dropWork (c : s.Canon) (p : Nat) : (s.dropWork p).Canon :=
  ⟨c.mem, c.units, c.parts, c.rings, c.taps, c.west, c.east, c.bus, ⟨c.stk.st, c.stk.gran⟩, c.ports⟩

theorem Moves.dropWork (s : State) (p : Nat) : Moves [.sprue, .stk, .fabric] s (s.dropWork p) := fun f hf => by
  cases f with
  | sprue | stk | fabric => exact absurd (by decide) hf
  | _ => rfl

/-- The work of a partition ends; its units are as they were. -/
theorem State.endWork_ends (c : s.Canon) (p : Nat) : (s.endWork p).Canon ∧
    Moves [.bus, .sprue, .stk, .fabric, .parts] s (s.endWork p) ∧ (s.endWork p).part p = (s.part p).idled ∧
    (s.endWork p).stk.gran = s.stk.gran ∧ ∀ b ∈ (s.endWork p).sprue.blks, b.part ≠ p := by
  have habort : BusOnly s (forN 12 s fun n s => s.fumAbort n p) := .forN (fun n x => BusOnly.fumAbort x n p) _ _
  have hac : (forN 12 s fun n s => s.fumAbort n p).Canon := (Keeps.forN' _ .refl fun _ _ h => Keeps.fumAbort h).canon c
  rw [State.endWork_eq]
  generalize (forN 12 s fun n s => s.fumAbort n p) = a at habort hac
  have hdrop := Moves.dropWork a p
  have hdc := State.canon_dropWork hac p
  refine ⟨(Keeps.setPart .refl).canon hdc,
    ((Moves.ofBusOnly habort).mono.andThen hdrop).andThen (Moves.setPart _ p _), ?_, ?_, ?_⟩
  · exact (State.part_setPart hdc ..).trans
      (congrArg Part.idled ((hdrop.part (p := p)).trans (State.part_eq_of_parts habort.parts p)))
  · exact (congrArg Stacks.gran habort.stk :)
  · exact fun b hb => of_decide_eq_true (List.mem_filter.mp hb).2

theorem State.scrubPart_scrubs (c : s.Canon) (p : Nat) : Scrubbed p s (s.scrubPart p) := by
  obtain ⟨hwc, hmoves, hpart, hgran, hblks⟩ := State.endWork_ends c p
  obtain ⟨hunits, hset, -⟩ := State.foldl_modUnit hwc (s.partUnits p ++
    (s.part p).scrub.filter fun u => !(s.partUnits p).contains u) SeqUnit.zeroed fun _ => rfl
  refine ⟨(Keeps.scrubPart .refl).canon c, hmoves.mono.andThen hunits, (hunits.part (p := p)).trans hpart, ?_, ?_,
    fun u hu => ?_⟩
  · exact (congrArg Stacks.gran hunits.stk).trans hgran
  · rw [State.scrubPart, hunits.sprue]
    exact hblks
  · exact (hset u (List.mem_append_left _ hu)).trans (congrArg SeqUnit.zeroed (hmoves.unit (u := u)))

/-! ## A fault (R322) -/

theorem partitionFault_faults (c : s.Canon) (hp : p < 8) (hd : s.dev.state = .ready) (typ inst code : Nat)
    (hst : (s.part p).st.faultable = true) :
    ∃ t, exec (.partitionFault p typ inst code) s = .next t ∧ t.mem = s.mem ∧
      t.part p = { s.part p with
        st := .faulted, tearing := true, scrub := s.partUnits p, faultTime := s.dev.time
        faultSrc := BitVec.ofNat 32 (typ + inst * 2 ^ 16), faultInfo := BitVec.ofNat 32 code } ∧
      bit (t.pg .part p 0x14) 1 = true ∧
      (∀ u ∈ s.partUnits p, (t.unit u).run = .idle ∧ (t.unit u).queue = [] ∧ (t.unit u).started = []) ∧
      ∀ u, u ∉ s.partUnits p → t.unit u = s.unit u := by
  have hbus := State.faultReported_busOnly (s := s) (p := p) (typ := typ) (inst := inst) (code := code)
  have cr := State.canon_faultReported (p := p) (typ := typ) (inst := inst) (code := code) c
  have hown : (s.faultReported p typ inst code).partUnits p = s.partUnits p := by
    rw [State.partUnits, State.part_eq_of_parts hbus.parts, State.part_setPart c]
    obtain ⟨b, hb⟩ := hbus
    rw [hb]
    rfl
  have hunit (u : Nat) : (s.faultReported p typ inst code).unit u = s.unit u := State.unit_of_units hbus.units u
  have hstop (u : Nat) : (s.faultPart p typ inst code).unit u =
      if u ∈ s.partUnits p then (s.unit u).stopped else s.unit u := by
    rw [State.faultPart_eq hst, State.unit_stopUnits cr, hown, hunit]
  refine ⟨s.faultPart p typ inst code, if_pos ⟨hp, hd⟩, ?_, State.part_faultPart c hst, ?_, fun u hu => ?_,
    fun u hu => ?_⟩
  · rw [State.faultPart_eq hst, State.stopUnits_eq]
    exact (Moves.ofBusOnly hbus).mem
  · rw [State.faultPart_eq hst, State.stopUnits_eq]
    exact State.bit_evErr_self ((Keeps.setPart .refl).canon c) nofun (by decide)
  · rw [hstop, if_pos hu]
    exact ⟨rfl, rfl, rfl⟩
  · rw [hstop, if_neg hu]

/-! ## A teardown and a drain complete -/

/-- Nothing of a partition's work is left, and every command has been answered. -/
structure Part.Ended (x : Part) : Prop where
  serving : x.serving = none
  colls : x.ladle.colls = []
  sealing : x.step.sealing = none
  scrub : x.scrub = []
  left : x.open = []

theorem Part.Ended.congr {y : Part} (h : x.Ended) (hc : y.core = x.core) (ho : y.open = x.open) : y.Ended where
  serving := (congrArg Part.serving hc :).trans h.serving
  colls := (congrArg (fun z : Part => z.ladle.colls) hc :).trans h.colls
  sealing := by
    have hs : y.step.sealing.map _ = x.step.sealing.map _ := congrArg (fun z : Part => z.step.sealing) hc
    rw [h.sealing, Option.map_none] at hs
    exact Option.map_eq_none_iff.mp hs
  scrub := (congrArg Part.scrub hc :).trans h.scrub
  left := ho.trans h.left

/-- The end of a partition's work and messages. -/
structure Ends (p : Nat) (s z : State) : Prop where
  canon : z.Canon
  moves : Moves [.mem, .bus, .rings, .parts, .sprue, .stk, .units, .fabric] s z
  core : (z.part p).core = { (s.part p).idled.core with held := [], pause := none, scrub := [] }
  gran : z.stk.gran = s.stk.gran
  blks : ∀ b ∈ z.sprue.blks, b.part ≠ p
  units : ∀ u ∈ s.partUnits p, z.unit u = (s.unit u).zeroed
  left : (∀ k ∈ (s.part p).cmds, k.queue < 8) → (z.part p).open = []

theorem State.endPart_ends (c : s.Canon) (hp : p < 9) (hids : ((s.part p).cmds.map (·.cid)).Nodup) (status : Nat) :
    Ends p s (s.endPart p status) := by
  have hS := State.scrubPart_scrubs c p
  obtain ⟨y, hy, hmsgs, hleft⟩ := State.endMsgs_ends (p := p) hS.canon (by rw [hS.part]; exact hids) hp status
  have hend : s.endPart p status =
      (y.modPart p fun q => { q with held := [], pause := none }).modPart p fun q => { q with scrub := [] } := by
    rw [State.endPart, hmsgs]
  have c₁ : (y.modPart p fun q => { q with held := [], pause := none }).Canon := (Keeps.setPart .refl).canon hy.canon
  have hpart : (s.endPart p status).part p = { y.part p with held := [], pause := none, scrub := [] } := by
    rw [hend, State.modPart, State.part_setPart c₁, State.modPart, State.part_setPart hy.canon]
  have hmoves : Moves [.parts] y (s.endPart p status) := by
    rw [hend]
    exact (Moves.setPart y p _).andThen (Moves.setPart _ p _)
  have hmid := hy.moves.mono (l' := [.mem, .bus, .rings, .parts, .sprue, .stk, .units, .fabric]).andThen hmoves
  refine ⟨(Keeps.endPart .refl).canon c, (hS.moves.mono.andThen hmid), ?_, ?_, ?_, fun u hu => ?_, fun hq => ?_⟩
  · rw [hpart]
    have hcore := hy.core
    rw [hS.part] at hcore
    exact (congrArg (fun q : Part => { q with held := [], pause := none, scrub := [] }) hcore :)
  · rw [hmoves.stk, hy.gran, hS.gran]
  · rw [hmoves.sprue]
    have hb : y.sprue.blks = (s.scrubPart p).sprue.blks := (congrArg Sprue.blks hy.sprue :)
    rw [hb]
    exact hS.blks
  · rw [hmoves.unit, hy.moves.unit]
    exact hS.units u hu
  · rw [hpart]
    exact hleft (by rw [hS.part]; exact hq)

/-- The last of a teardown: a release under way is answered, the fault is told, and a reset that waits is answered. -/
def State.endTeardown (s : State) (p : Nat) (q : Part) : State :=
  let s := match q.release with
    | some (seq, tag) => s.respond 8 0x104 p seq tag.toNat (.of 6) 0
    | none => s
  let s := s.modPart p fun q => { q with release := none, tearing := false, reset := none }
  let s := s.ventAll [p, 8] 0x8005 p
    (leBytes 4 q.faultSrc.toNat ++ leBytes 4 q.faultInfo.toNat ++ leBytes 8 q.faultTime)
  let s := s.evSet .part p 5
  match q.reset with
  | some (seq, tag) => (s.modPart p fun q => { q with st := .configured }).respond 8 0x105 p seq tag.toNat .ok 0
  | none => s

theorem exec_teardownComplete (hp : p < 8) (hst : (s.part p).st = .faulted) (ht : (s.part p).tearing = true)
    (hd : s.dev.state = .ready) :
    exec (.teardownComplete p) s = .next ((s.endPart p 6).endTeardown p ((s.endPart p 6).part p)) := by
  change execTeardownComplete p s = _
  rw [execTeardownComplete, if_pos ⟨hp, hst, ht, hd⟩]
  dsimp only
  rw [State.endTeardown]
  cases ((s.endPart p 6).part p).reset <;> rfl

/-- Completion traffic, and writes of partition `p` that its own clause names: nothing else of the block moves. -/
structure Told (p : Nat) (s z : State) : Prop where
  canon : z.Canon
  moves : Moves [.mem, .bus, .rings, .parts, .sprue] s z
  blks : z.sprue.blks = s.sprue.blks

theorem Told.posts {y : State} (h : Told p s y) (hp : Posts y z) : Told p s z := by
  have hz := hp h.canon
  exact ⟨hz.canon, h.moves.andThen hz.moves, (congrArg Sprue.blks hz.sprue :).trans h.blks⟩

theorem Told.setPart {y : State} (h : Told p s y) (x : Part) : Told p s (y.setPart p x) :=
  ⟨(Keeps.setPart .refl).canon h.canon, h.moves.andThen (Moves.setPart _ _ _), h.blks⟩

/-- A partition whose teardown is over, in this state. -/
def Part.TornDown (st : PState) (x : Part) : Prop := x.Ended ∧ x.st = st ∧ x.tearing = false ∧ x.release = none

theorem Part.TornDown.congr {st : PState} {y : Part} (h : x.TornDown st) (hc : y.core = x.core) (ho : y.open = x.open) :
    y.TornDown st := by
  obtain ⟨he, hst, ht, hr⟩ := h
  exact ⟨he.congr hc ho, (congrArg Part.st hc :).trans hst, (congrArg Part.tearing hc :).trans ht,
    (congrArg Part.release hc :).trans hr⟩

theorem Part.TornDown.posts {st : PState} {y : State} (h : (s.part p).TornDown st) (c : s.Canon) (hp : Posts s y) :
    (y.part p).TornDown st := h.congr ((hp c).part p) ((hp c).kept p)

theorem State.endTeardown_ends (c : s.Canon) (hp : p < 8) (h : (s.part p).Ended) :
    Told p s (s.endTeardown p (s.part p)) ∧ ((s.endTeardown p (s.part p)).part p).TornDown
      (if (s.part p).reset = none then (s.part p).st else .configured) ∧
      bit ((s.endTeardown p (s.part p)).pg .part p 0x14) 5 = true := by
  obtain ⟨a, ha, haeq⟩ : ∃ a, Posts s a ∧ (match (s.part p).release with
      | some (seq, tag) => s.respond 8 0x104 p seq tag.toNat (.of 6) 0
      | none => s) = a := by
    refine ⟨_, ?_, rfl⟩
    split
    · exact Posts.respond (by decide) _ _ _ _ _ _ _
    · exact .refl
  have hta := (Told.mk (p := p) c .refl rfl).posts ha
  have hpart : ((a.part p).core = (s.part p).core) ∧ (a.part p).open = (s.part p).open := ⟨(ha c).part p, (ha c).kept p⟩
  have hended : (a.part p).Ended := h.congr hpart.1 hpart.2
  have hst : (a.part p).st = (s.part p).st := (congrArg Part.st hpart.1 :)
  have htb := hta.setPart { a.part p with release := none, tearing := false, reset := none }
  have hb : ((a.modPart p fun q => { q with release := none, tearing := false, reset := none }).part p).TornDown
      (s.part p).st := by
    rw [State.modPart, State.part_setPart hta.canon]
    exact ⟨⟨hended.serving, hended.colls, hended.sealing, hended.scrub, hended.left⟩, hst, rfl, rfl⟩
  have hvent : Posts (a.modPart p fun q => { q with release := none, tearing := false, reset := none })
      ((a.modPart p fun q => { q with release := none, tearing := false, reset := none }).ventAll [p, 8] 0x8005 p
        (leBytes 4 (s.part p).faultSrc.toNat ++ leBytes 4 (s.part p).faultInfo.toNat ++ leBytes 8
          (s.part p).faultTime)) :=
    Posts.ventAll _ (fun r hr => by
      obtain rfl | rfl : r = p ∨ r = 8 := by simpa using hr
      · exact Nat.lt_succ_of_lt hp
      · decide) _ _ _
  rw [State.endTeardown]
  rw [haeq]
  generalize State.ventAll _ _ _ _ _ = d at hvent ⊢
  have htd := htb.posts hvent
  have hd := hb.posts htb.canon hvent
  have hce : (d.evSet .part p 5).Canon := (Keeps.evSet .refl).canon htd.canon
  have hmoves : Moves [.bus] d (d.evSet .part p 5) := .evSet _ nofun
  have hte : Told p s (d.evSet .part p 5) :=
    ⟨hce, htd.moves.andThen hmoves, (congrArg Sprue.blks hmoves.sprue :).trans htd.blks⟩
  have he : ((d.evSet .part p 5).part p).TornDown (s.part p).st := by
    rw [hmoves.part]
    exact hd
  have hbit : bit ((d.evSet .part p 5).pg .part p 0x14) 5 = true := State.bit_evSet_self htd.canon nofun (by decide)
  generalize d.evSet .part p 5 = e at hce hte he hbit
  cases hr : (s.part p).reset with
  | none => exact ⟨hte, he, hbit⟩
  | some r =>
    obtain ⟨seq, tag⟩ := r
    have hpost : Posts (e.modPart p fun q => { q with st := .configured })
        ((e.modPart p fun q => { q with st := .configured }).respond 8 0x105 p seq tag.toNat .ok 0) :=
      Posts.respond (by decide) _ _ _ _ _ _ _
    have htf := hte.setPart { e.part p with st := .configured }
    have hf : ((e.modPart p fun q => { q with st := .configured }).part p).TornDown .configured := by
      rw [State.modPart, State.part_setPart hce]
      obtain ⟨hended, -, ht, hr⟩ := he
      exact ⟨⟨hended.serving, hended.colls, hended.sealing, hended.scrub, hended.left⟩, rfl, ht, hr⟩
    refine ⟨htf.posts hpost, hf.posts htf.canon hpost, ?_⟩
    rw [(hpost htf.canon).page .part p 0x14 (by decide) (pageNo_ne_host (by decide) hp).symm]
    exact hbit

theorem teardownComplete_ends (c : s.Canon) (hp : p < 8) (hd : s.dev.state = .ready) (hst : (s.part p).st = .faulted)
    (ht : (s.part p).tearing = true) (hids : ((s.part p).cmds.map (·.cid)).Nodup)
      (hq : ∀ k ∈ (s.part p).cmds, k.queue < 8) :
    ∃ t, exec (.teardownComplete p) s = .next t ∧
      (t.part p).TornDown (if (s.part p).reset = none then .faulted else .configured) ∧
      (∀ b ∈ t.sprue.blks, b.part ≠ p) ∧ bit (t.pg .part p 0x14) 5 = true ∧
      ∀ u ∈ s.partUnits p, t.unit u = (s.unit u).zeroed := by
  have hend := State.endPart_ends c (Nat.lt_succ_of_lt hp) hids 6
  have hcore := hend.core
  have hpst : ((s.endPart p 6).part p).st = .faulted := (congrArg Part.st hcore :).trans hst
  have hreset : ((s.endPart p 6).part p).reset = (s.part p).reset := (congrArg Part.reset hcore :)
  have hended : ((s.endPart p 6).part p).Ended := by
    refine ⟨(congrArg Part.serving hcore :), (congrArg (fun z : Part => z.ladle.colls) hcore :), ?_,
      (congrArg Part.scrub hcore :), hend.left hq⟩
    have hs : ((s.endPart p 6).part p).step.sealing.map _ = none := congrArg (fun z : Part => z.step.sealing) hcore
    exact Option.map_eq_none_iff.mp hs
  obtain ⟨htold, htorn, hbit⟩ := State.endTeardown_ends hend.canon hp hended
  rw [hpst, hreset] at htorn
  exact ⟨_, exec_teardownComplete hp hst ht hd, htorn, by rw [htold.blks]; exact hend.blks, hbit, fun u hu =>
    (htold.moves.unit (u := u)).trans (hend.units u hu)⟩

theorem mem_of_tget_ne {α : Type} {d : α} {tb : Tbl α} {n : Nat} (h : tget d tb n ≠ d) : (n, tget d tb n) ∈ tb := by
  induction tb with
  | nil => exact absurd rfl h
  | cons a r ih =>
    obtain ⟨k, v⟩ := a
    simp only [tget] at h ⊢
    split at h
    · next hk =>
      subst hk
      simp
    · next hk =>
      split at h
      · exact absurd rfl h
      · next hlt =>
        rw [if_neg hk, if_neg hlt]
        exact List.mem_cons_of_mem _ (ih h)

theorem tget_of_mem {α : Type} [DecidableEq α] {d : α} {tb : Tbl α} (hw : twf d tb = true) {e : Nat × α} (h : e ∈ tb) :
    tget d tb e.1 = e.2 := by
  induction tb with
  | nil => exact absurd h List.not_mem_nil
  | cons a r ih =>
    obtain ⟨k, v⟩ := a
    obtain ⟨-, hbelow, hr⟩ := (twf_cons ..).mp hw
    obtain rfl | hm := List.mem_cons.mp h
    · simp [tget]
    · have hlt := hbelow e hm
      simp only [tget]
      rw [if_neg (by omega), if_neg (by omega)]
      exact ih hr hm

/-- The granules of a partition by the table: each one it owns. -/
theorem State.mem_gransWith_owner (c : s.Canon) (hp : p ≠ 0xF) (g : Nat) :
    g ∈ s.gransWith (fun _ x => x.owner == p) ↔ (s.gran g).owner = p := by
  rw [State.gransWith, List.mem_map]
  constructor
  · rintro ⟨e, he, rfl⟩
    obtain ⟨hmem, hown⟩ := List.mem_filter.mp he
    rw [State.gran, tget_of_mem c.stk.gran hmem]
    exact beq_iff_eq.mp hown
  · intro h
    refine ⟨(g, s.gran g), List.mem_filter.mpr ⟨mem_of_tget_ne fun hf => hp ?_, beq_iff_eq.mpr h⟩, rfl⟩
    exact h.symm.trans (congrArg Gran.owner hf)

/-- Granules that enter their scrub: each listed one is scrubbing, or withdrawn where it is RETIRED. -/
theorem State.foldl_enterScrub (c : s.Canon) (ks : List Nat) :
    let t := ks.foldl (fun s k => s.enterScrub k) s
    t.Canon ∧ Moves [.stk] s t ∧ ∀ g, (t.gran g).retired = (s.gran g).retired ∧ (t.gran g).owner =
      if g ∈ ks then (if (s.gran g).retired then 0xE else 0xD) else (s.gran g).owner := by
  induction ks generalizing s with
  | nil => exact ⟨c, .refl, fun _ => ⟨rfl, rfl⟩⟩
  | cons k ks ih =>
    have ck : (s.enterScrub k).Canon := (Keeps.enterScrub .refl).canon c
    obtain ⟨hc, hm, hg⟩ := ih ck
    refine ⟨hc, (Moves.setStk s _).andThen hm, fun g => ?_⟩
    obtain ⟨hret, hown⟩ := hg g
    by_cases hk : g = k
    · subst hk
      have hself : (s.enterScrub g).gran g =
          { s.gran g with owner := if (s.gran g).retired then 0xE else 0xD, releasing := false } := State.gran_setGran
            c ..
      rw [hself] at hret hown
      refine ⟨hret, hown.trans ?_⟩
      rw [if_pos List.mem_cons_self]
      exact ite_self _
    · have hother : (s.enterScrub k).gran g = s.gran g := State.gran_setGran_ne c _ hk
      rw [hother] at hret hown
      exact ⟨hret, hown.trans (if_congr (by simp [hk]) rfl rfl)⟩

theorem Posts.freesPump_tail (s : State) (fs : List (Nat × Word × Nat × List Nat)) :
    Posts s (fs.foldl (fun s f =>
      s.respond 8 0x111 0xFF f.1 f.2.1.toNat { Compl.ok with result := leBytes 4 f.2.2.1 } 0) s) :=
  Posts.foldl fs (fun x _ _ => Posts.respond (by decide) x _ _ _ _ _ _) s

/-- What the answers to MEM_FREE leave: partitions' cores and units, and every granule. -/
theorem State.freesPump_frame (c : s.Canon) : s.freesPump.Canon ∧
    Moves [.mem, .bus, .rings, .parts, .sprue, .stk] s s.freesPump ∧ s.freesPump.stk.gran = s.stk.gran ∧
    (s.freesPump.part p).core = (s.part p).core := by
  obtain ⟨fs, gs, heq⟩ : ∃ (fs gs : List (Nat × Word × Nat × List Nat)), s.freesPump = gs.foldl (fun (s : State) f =>
      s.respond 8 0x111 0xFF f.1 f.2.1.toNat { Compl.ok with result := leBytes 4 f.2.2.1 } 0)
        (s.setStk { s.stk with frees := fs }) := ⟨_, _, rfl⟩
  have hstk : (s.setStk { s.stk with frees := fs }).Canon :=
    ⟨c.mem, c.units, c.parts, c.rings, c.taps, c.west, c.east, c.bus, ⟨c.stk.st, c.stk.gran⟩, c.ports⟩
  rw [heq]
  have hpost := Posts.freesPump_tail _ gs hstk
  exact ⟨hpost.canon, (Moves.setStk s _).mono.andThen hpost.moves, (congrArg Stacks.gran hpost.moves.stk :),
    hpost.part p⟩

/-- An emptied partition under a core it shares with another: the same. -/
theorem Part.eq_empty {n : Nat} {y : Part} (hc : y.core = ({ Part.empty with nextCid := n } : Part).core)
    (hl : y.cmds = []) : y = { Part.empty with nextCid := n } := by
  have hopened : y.step.opened = none := by
    have h : y.step.opened.map _ = none := congrArg (fun z : Part => z.step.opened) hc
    exact Option.map_eq_none_iff.mp h
  have hsealing : y.step.sealing = none := by
    have h : y.step.sealing.map _ = none := congrArg (fun z : Part => z.step.sealing) hc
    exact Option.map_eq_none_iff.mp h
  have hstep : y.step.core = y.step := by
    rw [StepSt.core, hopened, hsealing, Option.map_none, Option.map_none, ← hopened, ← hsealing]
  have hself : y.core = y := by
    rw [Part.core, hstep, ← hl]
  rw [← hself, hc]
  rfl

/-- What a partition that returns to EMPTY leaves: its granules to be scrubbed, its record empty,
  every unit as it was. -/
theorem State.emptyPart_empties (c : s.Canon) (hp : p ≠ 0xF) : (s.emptyPart p).Canon ∧
    Moves [.mem, .bus, .rings, .parts, .sprue, .stk, .maps, .health] s (s.emptyPart p) ∧
    (s.emptyPart p).part p = { Part.empty with nextCid := (s.part p).nextCid } ∧
    ∀ g, ((s.emptyPart p).gran g).owner =
      if (s.gran g).owner = p then (if (s.gran g).retired then 0xE else 0xD) else (s.gran g).owner := by
  obtain ⟨ca, ha, hgran⟩ := State.foldl_enterScrub c (s.gransWith fun _ g => g.owner == p)
  have hempty : s.emptyPart p =
      let a := (s.gransWith fun _ g => g.owner == p).foldl (fun s k => s.enterScrub k) s
      let b := a.freesPump.allStacks fun x => { x with slots := x.slots.filter fun (e : Nat × Nat) => e.2 ≠ p }
      let d := b.setSprue { b.sprue with slices := (tput 0 (tput 0 b.sprue.slices p 0) (8 + p) 0) }
      (d.modPart p fun q => { Part.empty with nextCid := q.nextCid }).closeUp := rfl
  have cend : (s.emptyPart p).Canon := (Keeps.emptyPart .refl).canon c
  rw [hempty] at cend ⊢
  dsimp only at ca ha hgran cend ⊢
  generalize (s.gransWith fun _ g => g.owner == p).foldl (fun s k => s.enterScrub k) s = a at ca ha hgran cend ⊢
  obtain ⟨cf, hf, hfgran, hfcore⟩ := State.freesPump_frame (p := p) ca
  have hstacks : ∀ f, Moves [.stk] a.freesPump (a.freesPump.allStacks f) ∧ (a.freesPump.allStacks f).Canon ∧
      (a.freesPump.allStacks f).stk.gran = a.freesPump.stk.gran := fun f =>
    List.foldlRecOn (motive := fun z => Moves [.stk] a.freesPump z ∧ z.Canon ∧ z.stk.gran = a.freesPump.stk.gran) _ _
      ⟨.refl, cf, rfl⟩ fun z hz n _ => ⟨hz.1.andThen (Moves.setStk z _), State.canon_modStack hz.2.1 n f, hz.2.2⟩
  obtain ⟨hs, cs, hsgran⟩ := hstacks fun x => { x with slots := x.slots.filter fun (e : Nat × Nat) => e.2 ≠ p }
  generalize a.freesPump.allStacks _ = b at hs cs hsgran cend ⊢
  have hclose := Moves.closeUp ((b.setSprue { b.sprue with
    slices := (tput 0 (tput 0 b.sprue.slices p 0) (8 + p) 0) }).modPart p fun q =>
      { Part.empty with nextCid := q.nextCid })
  have cd : (b.setSprue { b.sprue with slices := (tput 0 (tput 0 b.sprue.slices p 0) (8 + p) 0) }).Canon :=
    (Keeps.setSprue .refl).canon cs
  have hmid : Moves [.sprue, .parts] b ((b.setSprue { b.sprue with
      slices := (tput 0 (tput 0 b.sprue.slices p 0) (8 + p) 0) }).modPart p fun q =>
        { Part.empty with nextCid := q.nextCid }) := (Moves.setSprue b _).mono.andThen (Moves.setPart _ p _)
  have hcid : (b.part p).nextCid = (s.part p).nextCid := by
    rw [hs.part, show (a.freesPump.part p).nextCid = (a.part p).nextCid from (congrArg Part.nextCid hfcore :), ha.part]
  refine ⟨cend, ((((ha.mono.andThen hf).andThen hs).andThen hmid).andThen hclose), ?_, fun g => ?_⟩
  · rw [hclose.part, State.modPart, State.part_setPart cd]
    exact congrArg (fun n => ({ Part.empty with nextCid := n } : Part)) hcid
  · have hg : State.gran ((b.setSprue { b.sprue with
        slices := (tput 0 (tput 0 b.sprue.slices p 0) (8 + p) 0) }).modPart p fun q =>
          { Part.empty with nextCid := q.nextCid }).closeUp g = a.gran g := by
      rw [hclose.gran, hmid.gran, State.gran, hsgran, hfgran, ← State.gran]
    rw [hg, (hgran g).2]
    exact if_congr (State.mem_gransWith_owner c hp g) rfl rfl

theorem drainComplete_empties (c : s.Canon) (hp : p < 8) (hd : s.dev.state = .ready) (hst : (s.part p).st = .draining)
    (hids : ((s.part p).cmds.map (·.cid)).Nodup) :
    ∃ t, exec (.drainComplete p) s = .next t ∧ t.part p = { Part.empty with nextCid := (s.part p).nextCid } ∧
      (∀ g, (t.gran g).owner = if (s.gran g).owner = p then (if (s.gran g).retired then 0xE else 0xD)
        else (s.gran g).owner) ∧
      ∀ u ∈ s.partUnits p, t.unit u = (s.unit u).zeroed := by
  have hend := State.endPart_ends c (Nat.lt_succ_of_lt hp) hids 8
  obtain ⟨ce, he, hpart, hgran⟩ := State.emptyPart_empties (p := p) hend.canon (by omega)
  have hown (g : Nat) : (s.endPart p 8).gran g = s.gran g := congrArg (tget Gran.free · g) hend.gran
  have hcid : ((s.endPart p 8).part p).nextCid = (s.part p).nextCid := (congrArg Part.nextCid hend.core :)
  obtain ⟨t, hexec, hpost⟩ : ∃ t, exec (.drainComplete p) s = .next t ∧ Posts ((s.endPart p 8).emptyPart p) t := by
    change ∃ t, execDrainComplete p s = .next t ∧ _
    rw [execDrainComplete, if_pos ⟨hp, hst, hd⟩]
    dsimp only
    split
    · exact ⟨_, rfl, Posts.respond (by decide) _ _ _ _ _ _ _⟩
    · exact ⟨_, rfl, .refl⟩
  have ht := hpost ce
  refine ⟨t, hexec, ?_, fun g => ?_, fun u hu => ?_⟩
  · have hcore := ht.part p
    have hfewer := ht.fewer p
    rw [hpart, hcid] at hcore
    rw [hpart] at hfewer
    exact Part.eq_empty hcore (List.sublist_nil.mp hfewer)
  · rw [ht.moves.gran, hgran, hown]
  · rw [ht.moves.unit, he.unit]
    exact hend.units u hu

open Sys2Proof Sys2Proof.Machine in
/-- Settles O33: the end of a partition's work drops what the block holds of it and zeroes its units; its commands are
answered one by one, and what is written to the completion rings with their answers moves no unit and no granule. -/
theorem partitionsFaultAndEnd : Obligations.PartitionsFaultAndEnd := by
  intro s p x c hp hd
  refine ⟨fun typ inst code hst => ?_, fun hst ht hids hq => ?_, fun hst hids => ?_⟩
  · refine partitionFault_faults c hp hd typ inst code ?_
    obtain h | h | h | h := hst <;> exact congrArg PState.faultable h
  · obtain ⟨t, hexec, ⟨hended, hst', htear, hrel⟩, hblks, hbit, hunits⟩ := teardownComplete_ends c hp hd hst ht hids hq
    refine ⟨t, hexec, hst', htear, hended.scrub, hrel, hended.serving, hended.colls, hended.sealing, fun k hk => ?_,
      hblks,
      hbit, fun u hu => ?_⟩
    · refine Classical.byContradiction fun hne => ?_
      have hopen : k ∈ (t.part p).open := List.mem_filter.mpr ⟨hk, bne_iff_ne.mpr hne⟩
      rw [hended.left] at hopen
      exact List.not_mem_nil hopen
    · rw [hunits u hu]
      exact ⟨rfl, rfl, rfl, rfl, rfl, Seqr.S_reset⟩
  · obtain ⟨t, hexec, hpart, hgran, hunits⟩ := drainComplete_empties c hp hd hst hids
    refine ⟨t, hexec, hpart, fun g hg => by rw [hgran, if_pos hg], fun g hg => by rw [hgran, if_neg hg], fun u hu => ?_⟩
    rw [hunits u hu]
    exact ⟨rfl, rfl, rfl⟩

end Sys2Proof.Machine
end

section
/-! SUPPORT. A command with its outcome is answered (R342): the response on a free ring, after what goes before it. -/
set_option Elab.async false

namespace Sys2Proof.Machine

variable {s t z : State} {p r i : Nat} {k : Cmd} {o : Compl}

/-! ## A response after changes elsewhere -/

theorem RingsSame.ringRg (h : RingsSame s z) (hr : r < 9) {off : Nat} (ho : off < 0x40) :
    z.ringRg r off = s.ringRg r off := h.host _ (by rw [ringOff]; omega)

theorem RingsSame.ring (h : RingsSame s z) (r : Nat) : z.ring r = s.ring r := congrArg (tget Ring.reset · r) h.rings

theorem RingsSame.ringFree (h : RingsSame s z) (hr : r < 9) (hf : Stated.RingFree s r) : Stated.RingFree z r where
  ready := h.dev.trans hf.ready
  pins := by rw [State.drives, State.tap, h.taps]; exact hf.pins
  en := by rw [h.ringRg hr (by decide)]; exact hf.en
  waitq := by rw [h.ring]; exact hf.waitq
  fences := by rw [h.ring]; exact hf.fences
  room := by
    rw [State.cqRoom, State.cqSize, h.ringRg hr (by decide), h.ringRg hr (by decide), h.ringRg hr (by decide)]
    exact hf.room
  quiet := by
    rw [h.ringRg hr (by decide), h.ring, h.host _ (by omega)]
    exact hf.quiet

theorem RingsSame.response (h : RingsSame s z) (hr : r < 9) (hm : z.mem = s.mem) (ht : z.dev.time = s.dev.time)
    {opcode part seq tag start : Nat} (hz : Stated.Response z t r opcode part seq tag start o) :
    Stated.Response s t r opcode part seq tag start o := by
  have hrg {off : Nat} (ho : off < 0x40) := h.ringRg hr ho
  obtain ⟨hmem, htail, hhist⟩ := hz
  rw [State.cqSize, State.ringBase, State.ringVer, State.cqPhase, State.cqSize, hrg (by decide), hrg (by decide),
    hrg (by decide), hrg (by decide), h.ring, ht, State.mem_setHostBytes_congr hm h.taps] at hmem
  exact ⟨hmem, by rw [htail, hrg (by decide)], by rw [hhist, h.ring]⟩

/-- An answer on a free ring: the response, and the command gone. -/
theorem State.answerCmd_answers (c : s.Canon) (hids : ((s.part p).cmds.map (·.cid)).Nodup) (hk : k ∈ (s.part p).cmds)
    (hf : Stated.RingFree s p) (o : Compl) (start : Nat) :
    (s.answerCmd p k o start).cmd? p k.cid = none ∧ ((s.answerCmd p k o start).part p).pause = (s.part p).pause ∧
      Stated.Response s (s.answerCmd p k o start) p k.opcode (ringPart p) k.seq k.tag.toNat start o := by
  obtain ⟨m, r, hanswer⟩ := s.answerCmd_eq p k o start
  have c₁ : ((s.setPart p ((s.part p).close k.cid)).setStk { s.stk with marks := m, readMarks := r }).Canon :=
    ((Keeps.setPart .refl).setStk (x := { s.stk with marks := m, readMarks := r })
      fun c => ⟨c.st, c.gran⟩).canon c
  have hpart : ((s.setPart p ((s.part p).close k.cid)).setStk { s.stk with marks := m, readMarks := r }).part p =
      (s.part p).close k.cid := State.part_setPart c ..
  have hfree :
      Stated.RingFree ((s.setPart p ((s.part p).close k.cid)).setStk { s.stk with marks := m, readMarks := r }) p :=
    ⟨hf.ready, hf.pins, hf.en, hf.waitq, hf.fences, hf.room, hf.quiet⟩
  obtain ⟨hmem, htail, hhist, hcmds, hpause⟩ :=
    State.respond_of_ringFree c₁ hfree k.opcode (ringPart p) k.seq k.tag.toNat o start
  rw [← hanswer] at hmem htail hhist hcmds hpause
  rw [hpart] at hcmds hpause
  refine ⟨?_, hpause, hmem.trans ?_, htail, hhist⟩
  · rw [State.cmd?, hcmds]
    exact find?_drop_close hids hk
  · exact State.mem_setHostBytes_congr (s := s)
      (t := (s.setPart p ((s.part p).close k.cid)).setStk { s.stk with marks := m, readMarks := r }) rfl rfl _ _

/-- An answer moves no page but the host's. -/
theorem State.pg_answerCmd (c : s.Canon) (hp : p < 9) (k : Cmd) (o : Compl) (start : Nat) (pk : PageKind) (pi off : Nat)
    (hoff : off < 0x1000) (hne : pageNo pk pi ≠ pageNo .host 0) :
    (s.answerCmd p k o start).pg pk pi off = s.pg pk pi off := by
  obtain ⟨m, r, hanswer⟩ := s.answerCmd_eq p k o start
  rw [hanswer]
  have c₁ : ((s.setPart p ((s.part p).close k.cid)).setStk { s.stk with marks := m, readMarks := r }).Canon :=
    ((Keeps.setPart .refl).setStk (x := { s.stk with marks := m, readMarks := r })
      fun c => ⟨c.st, c.gran⟩).canon c
  exact (Posts.respond hp _ _ _ _ _ _ _ c₁).page pk pi off hoff hne

/-! ## A save decided anew (R316) -/

/-- From `s` to `t` commands of partition `p` begin their save: no command comes or goes. -/
structure Requenched (p : Nat) (s t : State) : Prop where
  canon : t.Canon
  moves : Moves [.parts, .units] s t
  ids : (t.part p).cmds.map (·.cid) = (s.part p).cmds.map (·.cid)

theorem Requenched.trans (h : Requenched p s z) (h' : Requenched p z t) : Requenched p s t :=
  ⟨h'.canon, h.moves.andThen h'.moves, h'.ids.trans h.ids⟩

theorem State.ids_modCmd (c : s.Canon) {f : Cmd → Cmd} (hf : ∀ x, (f x).cid = x.cid) (p i : Nat) :
    ((s.modCmd p i f).part p).cmds.map (·.cid) = (s.part p).cmds.map (·.cid) := by
  rw [State.part_modCmd c]
  exact map_updFirst hf _

theorem Requenched.quench (c : s.Canon) (p : Nat) (k : Cmd) (reason : Nat) : Requenched p s (s.quench p k reason) := by
  have hmod : Moves [.parts] s (s.modCmd p k.cid fun k => { k with
      phase := .saving, quenchAt := s.now, reason := reason }) := Moves.modCmd _ _ _ _
  have cm : (s.modCmd p k.cid fun k => { k with phase := .saving, quenchAt := s.now, reason := reason }).Canon :=
    State.canon_modCmd c _ _ _
  have hids : ((s.modCmd p k.cid fun k => { k with
      phase := .saving, quenchAt := s.now, reason := reason }).part p).cmds.map (·.cid) =
      (s.part p).cmds.map (·.cid) := State.ids_modCmd c (f := fun k : Cmd =>
        { k with phase := .saving, quenchAt := s.now, reason := reason }) (fun _ => rfl) p _
  refine List.foldlRecOn (motive := Requenched p s) _ _ ⟨cm, hmod.mono, hids⟩ fun y hy u _ => ?_
  exact ⟨State.canon_setUnit hy.canon .., hy.moves.andThen (Moves.setUnit y u _), hy.ids⟩

theorem Requenched.requench (c : s.Canon) (p : Nat) : Requenched p s (s.requench p) := by
  have hrefl : Requenched p s s := ⟨c, .refl, rfl⟩
  rw [State.requench]
  split
  case isFalse => exact hrefl
  refine List.foldlRecOn (motive := Requenched p s) _ _ hrefl fun y hy q _ => ?_
  split
  case h_2 => exact hy
  next k _ =>
  change Requenched p s (if k.phase = .queued ∧ y.isReady p k = true ∧ (!(y.needs k).isEmpty) = true ∧
    y.chosen p k = true ∧ (!(y.holders p (y.needs k)).isEmpty) = true then y.quenchDecision p k (y.needs k) else y)
  split
  case isFalse => exact hy
  rw [State.quenchDecision]
  split
  · exact hy
  split
  · exact hy
  split
  · exact List.foldlRecOn (motive := Requenched p s) _ _ hy fun x hx k _ => hx.trans (Requenched.quench hx.canon p k 0)
  · exact hy

theorem Requenched.cmd?_none (h : Requenched p s t) (hn : s.cmd? p i = none) : t.cmd? p i = none := by
  rw [State.cmd?, List.find?_eq_none] at hn ⊢
  intro k hk hc
  obtain ⟨k', hk', heq⟩ := List.mem_map.mp (h.ids ▸ List.mem_map_of_mem (f := Cmd.cid) hk)
  exact hn k' hk' (by rwa [heq])

/-! ## A command completes (R342) -/

/-- The page of a partition with a command's NSTAT and, where it is late, its count and event. -/
structure Noted (s : State) (p : Nat) (late : Bool) (n : Word) (z : State) : Prop where
  canon : z.Canon
  moves : Moves [.bus, .parts, .units] s z
  rings : RingsSame s z
  cmds : (z.part p).cmds = (s.part p).cmds
  pause : (z.part p).pause = (s.part p).pause
  nstat : z.pg .part p 0x48 = s.pg .part p 0x48 ||| n.toNat % 16
  count : z.pg .part p 0x9C = if late then min (s.pg .part p 0x9C + 1) 0xFFFFFFFF else s.pg .part p 0x9C
  event : late = true → bit (z.pg .part p 0x14) 3 = true

/-- A command is late where its deadline has passed, but for a deadline of all ones. -/
def isLate (k : Cmd) (now : Nat) : Bool := decide (k.deadline < now ∧ k.deadline ≠ 2 ^ 64 - 1)

theorem State.lateness_eq (s : State) (hp : p < 8) (k : Cmd) : s.lateness p k =
    if isLate k s.dev.time = true then ((s.count32 .part p 0x9C 1).evSet .part p 3, 1) else (s, 0) := by
  rw [State.lateness, if_pos hp, isLate]
  exact if_congr decide_eq_true_iff.symm rfl rfl

theorem pageNo_part_ne_host (hp : p < 8) : pageNo .host 0 ≠ pageNo .part p := pageNo_ne_host (by decide) hp

theorem State.pg_evSet_part (c : s.Canon) {off b : Nat} (h1 : off ≠ 0x14) (h2 : off ≠ 0x20) :
    (s.evSet .part p b).pg .part p off = s.pg .part p off := State.pg_evSet_ne c nofun (by omega) (by omega)

theorem RingsSame.setPg (c : s.Canon) (hp : p < 8) (off v : Nat) (ho : off < 0x1000) :
    RingsSame s (s.setPg .part p off v) :=
  ⟨rfl, rfl, rfl, fun o hoff => State.pg_setPg_ne c v (by
    have := pageNo_part_ne_host hp
    omega)⟩

theorem RingsSame.evSet_part (c : s.Canon) (hp : p < 8) (b : Nat) : RingsSame s (s.evSet .part p b) :=
  ⟨congrArg Dev.state (Moves.evSet s (k := .part) nofun).dev, (Moves.evSet s (k := .part) nofun) .taps (by decide),
    (Moves.evSet s (k := .part) nofun).rings, fun _ ho => by
      have := pageNo_part_ne_host hp
      exact State.pg_evSet_ne c nofun (by omega) (by omega)⟩

theorem Noted.lateness (c : s.Canon) (hp : p < 8) (k : Cmd) : Noted s p (isLate k s.dev.time) 0 (s.lateness p k).1 := by
  rw [State.lateness_eq s hp]
  cases isLate k s.dev.time with
  | false =>
    exact ⟨c, .refl, .refl, rfl, rfl, (Nat.or_zero _).symm, rfl, nofun⟩
  | true =>
    have c₁ : (s.count32 .part p 0x9C 1).Canon := State.canon_setPg c ..
    have hm : Moves [.bus] s ((s.count32 .part p 0x9C 1).evSet .part p 3) :=
      (Moves.ofBusOnly BusOnly.count32).andThen (.evSet _ nofun)
    refine ⟨(Keeps.evSet .refl).canon c₁, hm.mono, (RingsSame.setPg c hp _ _ (by decide)).trans
      (RingsSame.evSet_part c₁ hp 3), congrArg Part.cmds (hm.part (p := p)), congrArg Part.pause (hm.part (p := p)),
        ?_, ?_,
      fun _ => State.bit_evSet_self c₁ nofun (by decide)⟩
    · refine (State.pg_evSet_part c₁ (by decide) (by decide)).trans ((State.pg_setPg_ne c _ (by omega)).trans ?_)
      exact (Nat.or_zero _).symm
    · exact (State.pg_evSet_part c₁ (by decide) (by decide)).trans (State.pg_count32 c 1)

theorem Noted.andThen {late : Bool} {n : Word} {y : State} (h : Noted s p late n z) (hc : y.Canon)
    (hm : Moves [.parts, .units] z y) (hcmds : (y.part p).cmds = (z.part p).cmds)
    (hpause : (y.part p).pause = (z.part p).pause) : Noted s p late n y where
  canon := hc
  moves := h.moves.andThen hm
  rings := h.rings.trans (.ofMoves hm)
  cmds := hcmds.trans h.cmds
  pause := hpause.trans h.pause
  nstat := by rw [hm.pg, h.nstat]
  count := by rw [hm.pg, h.count]
  event hl := by rw [hm.pg]; exact h.event hl

theorem Noted.nstatSet {late : Bool} (h : Noted s p late 0 z) (hp : p < 8) (n : Word) :
    Noted s p late n (z.setPg .part p 0x48 (z.pg .part p 0x48 ||| n.toNat % 16)) where
  canon := State.canon_setPg h.canon ..
  moves := h.moves.andThen (Moves.setPg z .part p _ _)
  rings := h.rings.trans (RingsSame.setPg h.canon hp _ _ (by decide))
  cmds := h.cmds
  pause := h.pause
  nstat := by
    rw [State.pg_setPg h.canon, h.nstat]
    change (s.pg .part p 0x48 ||| 0 ||| n.toNat % 16) % 2 ^ 32 = _
    rw [Nat.or_zero]
    exact Nat.mod_eq_of_lt (Nat.or_lt_two_pow (State.pg_lt ..) (by omega))
  count := (State.pg_setPg_ne h.canon _ (by omega)).trans h.count
  event hl := by rw [State.pg_setPg_ne h.canon _ (by omega)]; exact h.event hl

/-- A step that records LONGSUM: its partition's commands are as they were. -/
theorem State.noteLong_frame (c : s.Canon) (p : Nat) (n : Word) : (s.noteLong p n).Canon ∧
    Moves [.parts] s (s.noteLong p n) ∧ ((s.noteLong p n).part p).cmds = (s.part p).cmds ∧
    ((s.noteLong p n).part p).pause = (s.part p).pause := by
  have hred (m : Nat) (f : StepRed → StepRed) : (s.modRed p m f).Canon ∧ Moves [.parts] s (s.modRed p m f) ∧
      ((s.modRed p m f).part p).cmds = (s.part p).cmds ∧ ((s.modRed p m f).part p).pause = (s.part p).pause := by
    obtain ⟨x, hx⟩ := State.part_modRed c p m f
    exact ⟨(Keeps.setPart .refl).canon c, Moves.setPart s p _, (congrArg Part.cmds hx :), (congrArg Part.pause hx :)⟩
  have hsame : s.Canon ∧ Moves [.parts] s s ∧ (s.part p).cmds = (s.part p).cmds ∧
      (s.part p).pause = (s.part p).pause := ⟨c, .refl, rfl, rfl⟩
  rw [State.noteLong]
  split
  · exact hsame
  split
  · exact hred ..
  · exact hred ..
  · exact hsame

/-- What stands before the response of a command that completes. -/
theorem State.noted_complete (c : s.Canon) (hp : p < 8) (k : Cmd) (n : Word) :
    Noted s p (isLate k s.dev.time) n (k.units.foldl (fun s u => s.modUnit u fun x => { x with run := .idle })
      (((s.lateness p k).1.setPg .part p 0x48 ((s.lateness p k).1.pg .part p 0x48 ||| n.toNat % 16)).noteLong p n)) :=
        by
  have h := (Noted.lateness c hp k).nstatSet hp n
  obtain ⟨cn, hn, hcmds, hpause⟩ := State.noteLong_frame h.canon p n
  have h' := h.andThen cn hn.mono hcmds hpause
  generalize State.noteLong _ p n = y at h' 
  obtain ⟨hm, -, -⟩ := State.foldl_modUnit h'.canon k.units (fun x => { x with run := .idle }) fun _ => rfl
  exact h'.andThen ((Keeps.foldl' (f := fun s u => s.modUnit u fun x => { x with run := .idle }) _ .refl
    fun _ _ h => Keeps.modUnit h).canon h'.canon) hm.mono (congrArg Part.cmds (hm.part (p := p)))
    (congrArg Part.pause (hm.part (p := p)))

theorem commandComplete_answers (c : s.Canon) (hp : p < 8) (hk : s.cmd? p i = some k)
    (hids : ((s.part p).cmds.map (·.cid)).Nodup) (ho : k.out = some o) (hrun : k.phase = .running)
    (hf : (s.part p).st ≠ .faulted) (hd : (s.part p).st ≠ .draining) (hpause : (s.part p).pause = none)
    (hfree : Stated.RingFree s p) :
    ∃ t, exec (.commandComplete p i) s = .next t ∧ t.cmd? p i = none ∧
      Stated.Response s t p k.opcode p k.seq k.tag.toNat k.start { o with
        cflags := o.cflags ||| (if isLate k s.dev.time then 1 else 0) ||| (if k.wasQuenched then 2 else 0) } ∧
      t.pg .part p 0x48 = s.pg .part p 0x48 ||| o.nstat.toNat % 16 ∧
      t.pg .part p 0x9C = (if isLate k s.dev.time then min (s.pg .part p 0x9C + 1) 0xFFFFFFFF else s.pg .part p 0x9C) ∧
      (isLate k s.dev.time = true → bit (t.pg .part p 0x14) 3 = true) := by
  have hn := State.noted_complete c hp k o.nstat
  have hcid := State.cid_of_cmd? hk
  have hmem : k ∈ (s.part p).cmds := List.mem_of_find?_eq_some hk
  have hexec : exec (.commandComplete p i) s = .next (s.completeCmd p k o) := by
    change execCommandComplete p i s = _
    rw [execCommandComplete, hk]
    dsimp only
    rw [ho]
    exact if_pos ⟨hrun, hfree.ready, hf, hd⟩
  have hlate : (s.lateness p k).2 = if isLate k s.dev.time then 1 else 0 := by
    rw [State.lateness_eq s hp]
    split <;> rfl
  have hdo : s.completeCmd p k o = (((k.units.foldl (fun s u => s.modUnit u fun x => { x with run := .idle })
      (((s.lateness p k).1.setPg .part p 0x48 ((s.lateness p k).1.pg .part p 0x48 ||| o.nstat.toNat % 16)).noteLong p
        o.nstat)).answerCmd p k { o with
          cflags := o.cflags ||| (s.lateness p k).2 ||| (if k.wasQuenched then cfQUENCHED else 0) }
            k.start).pausePump p false).requench p := by
    rw [State.completeCmd]
    dsimp only
    rw [if_pos hp]
  rw [hlate] at hdo
  rw [hexec, hdo]
  generalize hz : k.units.foldl _ _ = z at hn
  clear hdo hexec hlate hz
  have hzfree := hn.rings.ringFree (by omega) hfree
  obtain ⟨hgone, hpz, hresp⟩ := State.answerCmd_answers hn.canon (by rw [hn.cmds]; exact hids)
    (by rw [hn.cmds]; exact hmem) hzfree { o with
      cflags := o.cflags ||| (if isLate k s.dev.time then 1 else 0) ||| (if k.wasQuenched then cfQUENCHED else 0) }
        k.start
  have hpost := (EndsCmds.answerCmd hn.canon (by rw [hn.cmds]; exact hids) (Nat.lt_succ_of_lt hp) k { o with
      cflags := o.cflags ||| (if isLate k s.dev.time then 1 else 0) ||| (if k.wasQuenched then cfQUENCHED else 0) }
        k.start).1
  have hpage := State.pg_answerCmd hn.canon (Nat.lt_succ_of_lt hp) k { o with
      cflags := o.cflags ||| (if isLate k s.dev.time then 1 else 0) ||| (if k.wasQuenched then cfQUENCHED else 0) }
        k.start
  generalize State.answerCmd _ _ _ _ _ = a at hgone hpz hresp hpost hpage ⊢
  rw [State.pausePump_of_none (hpz.trans (hn.pause.trans hpause))]
  have hre := Requenched.requench hpost.canon p
  refine ⟨_, rfl, hre.cmd?_none (hcid ▸ hgone), ?_, ?_, ?_, fun hl => ?_⟩
  · obtain ⟨hm, ht, hh⟩ := hn.rings.response (by omega) (hn.moves.mem) (congrArg Dev.time hn.moves.dev) hresp
    rw [ringPart, if_pos hp] at hm
    refine ⟨(hre.moves.mem).trans hm, (hre.moves.pg ..).trans ht, ?_⟩
    rw [hre.moves.ring]
    exact hh
  · rw [hre.moves.pg, hpage .part p 0x48 (by decide) (pageNo_part_ne_host hp).symm, hn.nstat]
  · rw [hre.moves.pg, hpage .part p 0x9C (by decide) (pageNo_part_ne_host hp).symm, hn.count]
  · rw [hre.moves.pg, hpage .part p 0x14 (by decide) (pageNo_part_ne_host hp).symm]
    exact hn.event hl

open Sys2Proof Sys2Proof.Machine in
/-- Settles O31: what precedes the response moves its partition's own page, record and units alone, so the free ring is
still free and takes the response; what the decision on waiting commands does then touches neither ring nor page. -/
theorem completionsAreAnswered : Obligations.CompletionsAreAnswered := fun _ _ _ _ _ c hp hk hids ho hrun hf hd hpause
    hfree => commandComplete_answers c hp hk hids ho hrun hf hd hpause hfree

end Sys2Proof.Machine
end

section
/-! SUPPORT. A restore that ends with a unit in a BAR whose CYCLE has passed the budget (R151, R319). -/
set_option Elab.async false

namespace Sys2Proof.Machine

/-- There is a device memory with given bytes from address 0 on. -/
theorem exists_mem (bs : List Byte) : ∃ m : List Host.Cell, Memory.wf m = true ∧
    ∀ i, i < bs.length → ∀ s : State, s.mem = m → s.byte i = bs.getD i 0 := by
  have h : (State.reset.setBytes 0 bs).Canon := (Keeps.setBytes .refl).canon State.canon_reset
  refine ⟨_, h.mem, fun i hi s hs => (State.byte_of_mem hs i).trans ?_⟩
  rw [State.byte_setBytes State.canon_reset.mem, if_pos ⟨Nat.zero_le i, by omega⟩, Nat.sub_zero]

theorem exists_savedMem : ∃ m : List Host.Cell, Memory.wf m = true ∧
    ∀ i, i < 2101248 → ∀ s : State, s.mem = m → s.byte i = savedByte 0 i := by
  obtain ⟨m, hwf, hm⟩ := exists_mem ((List.range 2101248).map (savedByte 0))
  refine ⟨m, hwf, fun i hi s hs => ?_⟩
  have hb := hm i (by rwa [List.length_map, List.length_range]) s hs
  simp only [List.getD_eq_getElem?_getD, List.getElem?_map, List.getElem?_range hi, Option.map_some,
    Option.getD_some] at hb
  exact hb

/-- Device memory with the bytes that a save of a tile writes under seed 0, from address 0 on. -/
noncomputable def savedMem : List Host.Cell := exists_savedMem.choose

/-- A tile as a save holds it: it stands in a BAR, with CYCLE at 2. -/
def barrierImage : UnitImage :=
  { seq := { Seqr.reset with cycle := 2 }, tokens := [], queue := [], rows := [], links := [], mem := [], epoch := 0
    run := .barrier, imem := [], placed := [], scaleMade := false }

/-- CG_KERNEL with a budget of 1 while it is restored on tile 0. -/
def restoringCmd : Cmd :=
  { runningCmd 1 0x283 with
    phase := .restoring, msg := List.replicate 64 0 ++ [1, 0, 0, 0], units := [256], images := [(256, barrierImage)] }

/-- Partition 0 restores it from granules 0 and 1. -/
noncomputable def restoringBarrier : State :=
  { readyState with
    mem := savedMem
    stk := { Stacks.reset with gran := [(0, { owner := 0, retired := false, releasing := false }),
      (1, { owner := 0, retired := false, releasing := false })] }
    parts := [(0, { Part.empty with st := .running, save := [0, 1], cmds := [restoringCmd] })] }

theorem canon_restoringBarrier : restoringBarrier.Canon :=
  { State.canon_reset with mem := exists_savedMem.choose_spec.1, parts := by decide, stk := ⟨rfl, by decide⟩ }

theorem tagAccess_restoringBarrier :
    restoringBarrier.tagAccess 0 (restoringBarrier.saveRanges 0 false [256]) = none := by
  decide +kernel

/-- A unit whose save area nobody has changed takes its image. -/
theorem State.restoreUnit_same {s : State} {p u : Nat} {img : UnitImage}
    (h : ∀ i, i < saveBytes u → s.byte (s.saveAddr p u i) = savedByte (s.unit u).saveSeed i) :
    s.restoreUnit p u img = s.modUnit u fun x => { x with
      seq := img.seq, tokens := img.tokens, queue := img.queue, rows := img.rows, links := img.links, mem := img.mem
      epoch := img.epoch, imem := img.imem, placed := img.placed, scaleMade := img.scaleMade, run := img.run
      started := [], arrs := [], tnds := [] } := by
  have hall : ((List.range (saveBytes u)).all fun i =>
      s.byte (s.saveAddr p u i) == savedByte (s.unit u).saveSeed i) = true :=
    List.all_eq_true.mpr fun i hi => beq_iff_eq.mpr (h i (List.mem_range.mp hi))
  rw [State.restoreUnit]
  rw [if_pos hall, if_pos hall]

/-- The partition with its tile begun anew. -/
noncomputable def begunBarrier : State := restoringBarrier.startUnits 0 restoringCmd [256]

/-- A save area at the start of that memory is what the save wrote. -/
theorem byte_saveAddr_of_savedMem {s : State} (hmem : s.mem = savedMem) (hseed : (s.unit 256).saveSeed = 0)
    (hentries : (s.saveEntries 0 256).1 = 0) (hsave : (s.part 0).save = [0, 1]) {i : Nat} (h : i < saveBytes 256) :
    s.byte (s.saveAddr 0 256 i) = savedByte (s.unit 256).saveSeed i := by
  have hi : i < 2101248 := h
  have haddr : s.saveAddr 0 256 i = i := by
    rw [State.saveAddr, hentries, hsave, Nat.zero_add]
    obtain h0 | h1 : i / 2 ^ 21 = 0 ∨ i / 2 ^ 21 = 1 := by omega
    · rw [h0]
      change granAddr 0 + i % 2 ^ 21 = i
      rw [granAddr]
      omega
    · rw [h1]
      change granAddr 1 + i % 2 ^ 21 = i
      rw [granAddr]
      omega
  rw [haddr, hseed]
  exact exists_savedMem.choose_spec.2 i hi s hmem

theorem saved_restoringBarrier {i : Nat} (h : i < saveBytes 256) :
    restoringBarrier.byte (restoringBarrier.saveAddr 0 256 i) = savedByte (restoringBarrier.unit 256).saveSeed i :=
  byte_saveAddr_of_savedMem rfl (by decide +kernel) (by decide +kernel) (by decide +kernel) h

theorem saved_begunBarrier {i : Nat} (h : i < saveBytes 256) :
    begunBarrier.byte (begunBarrier.saveAddr 0 256 i) = savedByte (begunBarrier.unit 256).saveSeed i := by
  obtain ⟨hmem, -, -⟩ := State.startUnits_begins (s := restoringBarrier) (p := 0) (k := restoringCmd) (us := [256])
    (by decide) (by decide)
  exact byte_saveAddr_of_savedMem hmem (by decide +kernel) (by decide +kernel) (by decide +kernel) h

/-- The tile with its image, in a BAR again. -/
noncomputable def imagedBarrier : State := begunBarrier.modUnit 256 fun x => { x with
  seq := barrierImage.seq, tokens := barrierImage.tokens, queue := barrierImage.queue, rows := barrierImage.rows
  links := barrierImage.links, mem := barrierImage.mem, epoch := barrierImage.epoch, imem := barrierImage.imem
  placed := barrierImage.placed, scaleMade := barrierImage.scaleMade, run := barrierImage.run
  started := [], arrs := [], tnds := [] }

/-- QUENCH_DONE told and the command running, before its sequencers are looked at. -/
def State.runsAgain (s : State) (p c u : Nat) : State :=
  (s.unitsDone [u]).modCmd p c fun k => { k with
    phase := .running, images := [], quenchTime := k.quenchTime + ((s.unitsDone [u]).now - k.quenchAt) }

noncomputable def restoredBarrier : State := imagedBarrier.runsAgain 0 1 256

/-- A restore of one unit after which the partition has faulted ends there. -/
theorem restoreDone_of_faulted {s : State} {p c u : Nat} {k : Cmd} {img : UnitImage} (hcmd : s.cmd? p c = some k)
    (hrun : k.phase = .restoring ∧ s.cmdLive k ∧ (s.part p).st = .running) (hu : k.units = [u])
    (himg : k.images = [(u, img)]) (htag : s.tagAccess p (s.saveRanges p false [u]) = none)
    (hf : (((((s.startUnits p k [u]).restoreUnit p u img).runsAgain p c u).afterIssue u).part p).st = .faulted) :
    exec (.quenchRestoreDone p c) s =
      .next ((((s.startUnits p k [u]).restoreUnit p u img).runsAgain p c u).afterIssue u) := by
  change execQuenchRestoreDone p c s = _
  rw [execQuenchRestoreDone, hcmd]
  dsimp only
  rw [if_pos hrun, hu, htag, himg]
  exact if_pos hf

theorem State.canon_startUnits {s : State} (c : s.Canon) (p : Nat) (k : Cmd) (us : List Nat) :
    (s.startUnits p k us).Canon :=
  (Keeps.startUnits .refl).canon c

theorem State.canon_modUnit {s : State} (c : s.Canon) (u : Nat) (f : SeqUnit → SeqUnit) : (s.modUnit u f).Canon :=
  State.canon_setUnit c ..

theorem BusOnly.unitsDone (s : State) (u : Nat) : BusOnly s (s.unitsDone [u]) := by
  change BusOnly s (s.evSet (unitPage u).1 (unitPage u).2 (if isTile u then 5 else 9))
  exact .evSet (by unfold unitPage; split <;> nofun)

theorem State.canon_unitsDone {s : State} (c : s.Canon) (u : Nat) : (s.unitsDone [u]).Canon := by
  change (s.evSet (unitPage u).1 (unitPage u).2 (if isTile u then 5 else 9)).Canon
  exact (Keeps.evSet .refl).canon c

theorem canon_begunBarrier : begunBarrier.Canon :=
  State.canon_startUnits canon_restoringBarrier _ _ _

theorem canon_imagedBarrier : imagedBarrier.Canon := State.canon_modUnit canon_begunBarrier _ _

theorem State.moves_runsAgain (s : State) (p c u : Nat) : Moves [.bus, .parts] s (s.runsAgain p c u) :=
  (Moves.ofBusOnly (BusOnly.unitsDone s u)).mono.andThen (Moves.modCmd (s.unitsDone [u]) p c _)

theorem State.canon_runsAgain {s : State} (c : s.Canon) (p i u : Nat) : (s.runsAgain p i u).Canon :=
  State.canon_modCmd (State.canon_unitsDone c u) _ _ _

theorem State.st_runsAgain {s : State} (c : s.Canon) (p i u : Nat) :
    ((s.runsAgain p i u).part p).st = (s.part p).st := by
  rw [State.runsAgain, State.part_modCmd (State.canon_unitsDone c u)]
  exact (congrArg Part.st (State.part_eq_of_parts (BusOnly.unitsDone s u).parts p) :)

/-- A unit whose issued work is through takes an exception: it stands in no BAR, and its partition faults. -/
theorem State.seqExc_ends {s : State} {u code detail : Nat} (c : s.Canon) (hp : (s.unit u).ctx.part < 8)
    (hc : code < 256)
    (ha : (s.unit u).arrs = []) (ht : (s.unit u).tnds = []) (hs : (s.unit u).started = [])
    (hst : (s.part (s.unit u).ctx.part).st.faultable = true) :
    ((s.seqExc u code detail).unit u).run ≠ .barrier ∧
      ((s.seqExc u code detail).part (s.unit u).ctx.part).st = .faulted := by
  obtain ⟨x, hx, hxe⟩ : ∃ x : SeqUnit, x = { s.unit u with
      run := .excepted, exc := some (code, detail, (s.unit u).seq.pc.toNat) } ∧
      s.seqExc u code detail = (s.setUnit u x).excRecord u := ⟨_, rfl, State.seqExc_eq s u code detail⟩
  have hu : (s.setUnit u x).unit u = x := State.unit_setUnit c u x
  have cx : (s.setUnit u x).Canon := State.canon_setUnit c u x
  have hpart : x.ctx.part = (s.unit u).ctx.part := by rw [hx]
  have hexc : x.exc = some (code, detail, (s.unit u).seq.pc.toNat) := by rw [hx]
  have hrun : x.run = .excepted := by rw [hx]
  have ha' : x.arrs = [] := by rw [hx]; exact ha
  have ht' : x.tnds = [] := by rw [hx]; exact ht
  have hs' : x.started = [] := by rw [hx]; exact hs
  rw [← hu] at hexc hrun ha' ht' hs' hpart
  obtain ⟨-, -, -, -, hfault⟩ := State.excRecord_shows cx (hpart ▸ hp) hc hexc hrun ha' ht' hs'
  rw [hxe]
  refine ⟨?_, ?_⟩
  · rw [State.excRecord_of_done hexc hrun ha' ht' hs']
    obtain ⟨y, hy, cy⟩ : ∃ y : State, y.unit u = { x with exc := none } ∧ y.Canon ∧ y = (((s.setUnit u x).setUnit u
        { (s.setUnit u x).unit u with exc := none }).evErr (unitPage u).1 (unitPage u).2 (excEvent u)
        (excEvent u) ((s.setUnit u x).unit u).ctx.part (code + detail % 256 * 256)
        ((s.unit u).seq.pc.toNat % 4096)) := by
      refine ⟨_, ?_, (Keeps.evErr .refl).canon (State.canon_setUnit cx ..), rfl⟩
      rw [State.unit_of_units (BusOnly.evErr (by unfold unitPage; split <;> nofun)).units, State.unit_setUnit cx, hu]
    obtain ⟨cy, hye⟩ := cy
    rw [← hye]
    obtain h | h := (State.faultPart_frame (p := ((s.setUnit u x).unit u).ctx.part)
      (typ := typeCode (unitPage u).1) (inst := blkInstance (unitPage u).1 (unitPage u).2) (code := excEvent u) cy).1 u
    · rw [State.faultFrom, h, hy, ← hu]
      change ((s.setUnit u x).unit u).run ≠ _
      rw [hrun]
      nofun
    · rw [State.faultFrom, h]
      nofun
  · rw [hpart] at hfault
    exact (hfault hst).1

/-- Past the budget a BAR does not hold: the sequencer takes the exception. -/
theorem run_restoreDone_restoringBarrier {t : State} (h : exec (.quenchRestoreDone 0 1) restoringBarrier = .next t) :
    (t.unit 256).run ≠ .barrier := by
  have himg : begunBarrier.restoreUnit 0 256 barrierImage = imagedBarrier :=
    State.restoreUnit_same fun i hi => saved_begunBarrier hi
  have hunits : restoredBarrier.unit 256 = imagedBarrier.unit 256 :=
    (State.moves_runsAgain imagedBarrier 0 1 256).unit (u := 256)
  have hissue : restoredBarrier.afterIssue 256 = restoredBarrier.seqExc 256 exBUDGET 0 := by
    rw [State.afterIssue, hunits]
    rw [if_neg (by decide +kernel), if_neg (by decide +kernel), if_pos (by decide +kernel)]
  have hctx : (imagedBarrier.unit 256).ctx.part = 0 := by decide +kernel
  have hst : (restoredBarrier.part 0).st = .running :=
    (State.st_runsAgain canon_imagedBarrier 0 1 256).trans (by decide +kernel)
  obtain ⟨hrun, hfault⟩ := State.seqExc_ends (u := 256) (code := exBUDGET) (detail := 0)
    (State.canon_runsAgain canon_imagedBarrier 0 1 256)
    (by rw [← restoredBarrier, hunits]; decide +kernel) (by decide)
    (by rw [← restoredBarrier, hunits]; decide +kernel) (by rw [← restoredBarrier, hunits]; decide +kernel)
    (by rw [← restoredBarrier, hunits]; decide +kernel) (by rw [← restoredBarrier, hunits, hctx, hst]; rfl)
  rw [← restoredBarrier, hunits, hctx, ← hissue] at hfault
  rw [← restoredBarrier, ← hissue] at hrun
  have hexec := restoreDone_of_faulted (s := restoringBarrier) (p := 0) (c := 1) (u := 256) (k := restoringCmd)
    (img := barrierImage) rfl ⟨rfl, by decide +kernel, rfl⟩ rfl rfl tagAccess_restoringBarrier
  rw [← begunBarrier, himg, ← restoredBarrier] at hexec
  obtain rfl := Host.Outcome.next.inj ((hexec hfault).symm.trans h)
  exact hrun

end Sys2Proof.Machine

open Sys2Proof Sys2Proof.Machine

/-- Refutes O32: the clause on a restore asks of an image that runs that its CYCLE is within the budget,
  and not of one that
stands in a BAR. Where CYCLE has passed the budget there, the restored sequencer raises BUDGET at once. -/
theorem not_quenchesSaveAndRestore : ¬ Obligations.QuenchesSaveAndRestore := by
  intro h
  obtain ⟨-, hrestore⟩ := h restoringBarrier 0 1 restoringCmd canon_restoringBarrier (by decide) rfl (by decide)
    (by decide +kernel) rfl rfl
  obtain ⟨t, ht, -, -, hunits⟩ := hrestore rfl rfl (by decide) (by decide)
    (fun u hu i hi => by
      obtain rfl := List.mem_singleton.mp hu
      exact saved_restoringBarrier hi) tagAccess_restoringBarrier (by decide)
  obtain ⟨-, -, -, -, -, -, -, -, hrun, -⟩ := hunits (256, barrierImage) (by decide)
  exact run_restoreDone_restoringBarrier ht hrun

end

section
/-! SUPPORT. A message comes to a ring (R335, R336, R422): its slots are consumed, its number is taken, and what is then
judged, answered or carried out. -/
set_option Elab.async false

namespace Sys2Proof.Machine

variable {s t z : State} {r q op off o n : Nat} {m : List Byte} {v : Nat}

/-! ## Ring registers -/

theorem State.ringRg_setRingRg (c : s.Canon) (r off v : Nat) : (s.setRingRg r off v).ringRg r off = v % 2 ^ 32 :=
  State.pg_setPg c ..

theorem State.ringRg_setRingRg_ne (c : s.Canon) (v : Nat) (h : ringOff q o ≠ ringOff r off) :
    (s.setRingRg r off v).ringRg q o = s.ringRg q o := State.pg_setPg_ne c _ (by omega)

theorem State.canon_setRingRg (c : s.Canon) (r off v : Nat) : (s.setRingRg r off v).Canon := State.canon_setPg c ..

theorem State.canon_setRing (c : s.Canon) (r : Nat) (g : Ring) : (s.setRing r g).Canon := (Keeps.setRing .refl).canon c

/-! ## Slots consumed -/

/-- The pointers of the submission ring once `n` slots are written and consumed. -/
def State.consumed (s : State) (r n : Nat) : State :=
  (s.setRingRg r 0x14 (s.ringRg r 0x18 + n)).setRingRg r 0x18 (s.ringRg r 0x18 + n)

theorem State.canon_consumed (c : s.Canon) (r n : Nat) : (s.consumed r n).Canon :=
  State.canon_setRingRg (State.canon_setRingRg c ..) ..

theorem State.moves_consumed (s : State) (r n : Nat) : Moves [.bus] s (s.consumed r n) :=
  (Moves.setPg s .host 0 _ _).andThen (Moves.setPg _ .host 0 _ _)

theorem State.pg_consumed (c : s.Canon) (h14 : off ≠ ringOff r 0x14) (h18 : off ≠ ringOff r 0x18) :
    (s.consumed r n).pg .host 0 off = s.pg .host 0 off := by
  have c₁ := State.canon_setRingRg c r 0x14 (s.ringRg r 0x18 + n)
  exact (State.pg_setPg_ne c₁ _ (by omega)).trans (State.pg_setPg_ne c _ (by omega))

theorem State.ringRg_consumed (c : s.Canon) (h14 : off ≠ 0x14) (h18 : off ≠ 0x18) :
    (s.consumed r n).ringRg r off = s.ringRg r off :=
  State.pg_consumed c (by unfold ringOff; omega) (by unfold ringOff; omega)

theorem State.head_consumed (c : s.Canon) : (s.consumed r n).ringRg r 0x18 = (s.ringRg r 0x18 + n) % 2 ^ 32 :=
  State.ringRg_setRingRg (State.canon_setRingRg c ..) ..

theorem State.tail_consumed (c : s.Canon) : (s.consumed r n).ringRg r 0x14 = (s.ringRg r 0x18 + n) % 2 ^ 32 :=
  (State.ringRg_setRingRg_ne (State.canon_setRingRg c ..) _ (by unfold ringOff; omega)).trans
    (State.ringRg_setRingRg c ..)

theorem State.sqUsed_consumed (c : s.Canon) : (s.consumed r n).sqUsed r = 0 := by
  rw [State.sqUsed, State.head_consumed c, State.tail_consumed c]
  omega

/-- Ring `r` has no more to take, and the others have what they had. -/
theorem State.nothingToTake_consumed (c : s.Canon) (h : Stated.OthersQuiet s r) :
    (s.consumed r n).NothingToTake := by
  intro q hq
  by_cases hqr : q = r
  · exact .inr (by rw [hqr]; exact State.sqUsed_consumed c)
  · have hrg (off : Nat) (ho : off < 0x40) : (s.consumed r n).ringRg q off = s.ringRg q off :=
      State.pg_consumed c (by unfold ringOff; omega) (by unfold ringOff; omega)
    have hserved : (s.consumed r n).served q = s.served q := by
      rw [State.served, State.served, State.ringEn, State.ringEn, hrg 0x10 (by decide)]
      rfl
    have hused : (s.consumed r n).sqUsed q = s.sqUsed q := by
      simp only [State.sqUsed, hrg 0x14 (by decide), hrg 0x18 (by decide)]
    rw [hserved, hused]
    exact h q hq hqr

/-! ## A message that comes is accepted -/

/-- A message that lies within the ring and whose CRC is right is taken whole. -/
theorem State.takeMsg_whole {pos avail : Nat} (h : 0 < fld m 4 2 ∧ fld m 4 2 < 4096)
    (hcrc : crc16 (slice m 0 16) = fld m 6 2) (hav : fld m 4 2 ≤ avail) (hfits : pos + fld m 4 2 ≤ s.sqSize r)
    (hbase : s.ringBase r 0 + 64 * s.sqSize r ≤ 2 ^ 47) : s.takeMsg r pos avail m = (s, fld m 4 2) := by
  have hread (k : Nat) (hk : k ≤ fld m 4 2) : s.slotsRead r pos k = true := decide_eq_true (by omega)
  have hn : fld m 4 2 % 4096 = fld m 4 2 := Nat.mod_eq_of_lt h.2
  rw [State.takeMsg, hn]
  rw [hread 1 h.1, hread _ le_rfl, hcrc, if_neg nofun, if_neg (fun hne => hne rfl), if_neg (by omega), if_neg nofun]

theorem State.submit_of_comes (h : Stated.Comes s r op m) :
    s.submit r m = ((s.consumed r (fld m 4 2)).accept r m).serve := by
  have c := h.canon
  have c₁ := State.canon_setRingRg c r 0x14 (s.ringRg r 0x18 + fld m 4 2)
  have hlen : m.length / 64 = fld m 4 2 := by rw [h.whole]; omega
  have hrg (off : Nat) (ho : off ≠ 0x14) :
      (s.setRingRg r 0x14 (s.ringRg r 0x18 + fld m 4 2)).ringRg r off = s.ringRg r off :=
    State.ringRg_setRingRg_ne c _ (by unfold ringOff; omega)
  have hsize : (s.setRingRg r 0x14 (s.ringRg r 0x18 + fld m 4 2)).sqSize r = s.sqSize r := by
    rw [State.sqSize, State.sqSize, hrg _ (by decide)]
  have hbase : (s.setRingRg r 0x14 (s.ringRg r 0x18 + fld m 4 2)).ringBase r 0 = s.ringBase r 0 := by
    rw [State.ringBase, State.ringBase, hrg _ (by decide), hrg _ (by decide)]
  have hfits := h.fits
  have htake : (s.setRingRg r 0x14 (s.ringRg r 0x18 + fld m 4 2)).takeMsg r (s.ringRg r 0x18 % s.sqSize r)
      (fld m 4 2) m =
      (s.setRingRg r 0x14 (s.ringRg r 0x18 + fld m 4 2), fld m 4 2) :=
    State.takeMsg_whole h.slots h.crc le_rfl (by rw [hsize]; exact hfits) (by rw [hsize, hbase]; exact h.readable)
  have hwhole : m.take (64 * fld m 4 2) = m := List.take_of_length_le (by rw [h.whole])
  rw [State.submit, if_pos ⟨h.served, h.used⟩, hlen]
  dsimp only
  rw [hsize, htake, hwhole]
  rw [if_neg (by omega), if_neg (by have := h.slots; dsimp only; omega)]
  rfl

/-- A ring that takes a message moves its numbers alone. -/
theorem Ring.take_eq (g : Ring) (q : Nat) :
    ∃ x era base, (g.take q).2 = { g with expSeq := x, era := era, base := base } := by
  rw [Ring.take]
  dsimp only
  split
  · exact ⟨_, _, _, rfl⟩
  · exact ⟨_, _, _, rfl⟩

theorem Ring.expSeq_take (g : Ring) {q : Nat} (h : q < 2 ^ 32) : (g.take q).2.expSeq = (q + 1) % 2 ^ 32 := by
  rw [Ring.take]
  dsimp only
  split
  case isTrue hq =>
    rw [hq]
    rfl
  case isFalse hq =>
    change q + 1 = _
    omega

/-- Ring `r` once message `m` is taken and its answer is owed. -/
def owingRing (s : State) (r : Nat) (m : List Byte) : Ring :=
  { Stated.numbered s r m with
    opens := (Stated.numbered s r m).opens ++ [(Stated.number s r m, BitVec.ofNat 32 (fld m 12 4))] }

theorem State.pg_setRing (s : State) (r : Nat) (g : Ring) (k : PageKind) (i off : Nat) :
    (s.setRing r g).pg k i off = s.pg k i off := rfl

theorem State.taken_eq (c : s.Canon) (r : Nat) (m : List Byte) :
    Stated.taken s r m = (s.consumed r (fld m 4 2)).setRing r (owingRing s r m) := by
  have cc := State.canon_consumed c r (fld m 4 2)
  change (((s.consumed r (fld m 4 2)).setRing r (Stated.numbered s r m)).modRing r fun g => { g with
    opens := g.opens ++ [(Stated.number s r m, BitVec.ofNat 32 (fld m 12 4))] }) = _
  rw [State.modRing, State.ring_setRing cc]
  exact State.setRing_setRing cc ..

/-- Beside the registers of the host's page, only ring `r`'s record of what is unanswered and of its numbers moves. -/
theorem State.moves_taken (s : State) (r : Nat) (m : List Byte) : Moves [.bus, .rings] s (Stated.taken s r m) := by
  intro f hf
  cases f with
  | bus => exact absurd (by decide) hf
  | rings => exact absurd (by decide) hf
  | _ => rfl

theorem State.canon_taken (c : s.Canon) (r : Nat) (m : List Byte) : (Stated.taken s r m).Canon := by
  rw [State.taken_eq c]
  exact State.canon_setRing (State.canon_consumed c ..) ..

theorem State.ring_taken (c : s.Canon) (r : Nat) (m : List Byte) : (Stated.taken s r m).ring r = owingRing s r m := by
  rw [State.taken_eq c]
  exact State.ring_setRing (State.canon_consumed c ..) ..

theorem State.ring_taken_ne (c : s.Canon) (h : q ≠ r) : (Stated.taken s r m).ring q = s.ring q := by
  rw [State.taken_eq c]
  exact State.ring_setRing_ne (State.canon_consumed c ..) _ h

theorem State.ringRg_taken (c : s.Canon) (h14 : off ≠ 0x14) (h18 : off ≠ 0x18) :
    (Stated.taken s r m).ringRg r off = s.ringRg r off := by
  rw [State.taken_eq c]
  exact (State.pg_setRing ..).trans (State.ringRg_consumed c h14 h18)

theorem State.pg_taken (c : s.Canon) (h14 : off ≠ ringOff r 0x14) (h18 : off ≠ ringOff r 0x18) :
    (Stated.taken s r m).pg .host 0 off = s.pg .host 0 off := by
  rw [State.taken_eq c]
  exact (State.pg_setRing ..).trans (State.pg_consumed c h14 h18)

theorem owingRing_stopped (s : State) (r : Nat) (m : List Byte) : (owingRing s r m).stopped = (s.ring r).stopped := by
  obtain ⟨x, era, base, hx⟩ := Ring.take_eq (s.ring r) (fld m 8 4)
  rw [owingRing, Stated.numbered, hx]

theorem nothingToTake_taken (h : Stated.Comes s r op m) : (Stated.taken s r m).NothingToTake := by
  have c := h.canon
  have hq := State.nothingToTake_consumed (n := fld m 4 2) c h.others
  rw [State.taken_eq c]
  refine State.nothingToTake_of_rings hq rfl rfl (fun q => ?_) fun _ _ _ _ => rfl
  by_cases hqr : q = r
  · rw [hqr, State.ring_setRing (State.canon_consumed c ..), owingRing_stopped]
    rfl
  · rw [State.ring_setRing_ne (State.canon_consumed c ..) _ hqr]

/-- The completion ring is as free as it was. -/
theorem ringFree_taken (h : Stated.Comes s r op m) : Stated.RingFree (Stated.taken s r m) r := by
  have c := h.canon
  obtain ⟨x, era, base, hx⟩ := Ring.take_eq (s.ring r) (fld m 8 4)
  have hring : (Stated.taken s r m).ring r = _ := State.ring_taken c r m
  have hrg (off : Nat) (h14 : off ≠ 0x14) (h18 : off ≠ 0x18) := State.ringRg_taken (m := m) (r := r) c h14 h18
  rw [owingRing, Stated.numbered, hx] at hring
  refine ⟨h.ready, h.pins, ?_, ?_, ?_, ?_, ?_⟩
  · rw [hrg _ (by decide) (by decide)]; exact h.en
  · rw [hring]; exact h.waitq
  · rw [hring]; exact h.fences
  · rw [State.cqRoom, State.cqSize, hrg _ (by decide) (by decide), hrg _ (by decide) (by decide),
      hrg _ (by decide) (by decide)]
    exact h.room
  · rw [hrg _ (by decide) (by decide), hring, State.pg_taken c (by unfold ringOff; have := h.range; omega)
      (by unfold ringOff; have := h.range; omega)]
    exact h.quiet

/-- A response written where the message is taken is one to the message. -/
theorem response_of_taken (c : s.Canon) {opcode part seq tag start : Nat} {o : Compl}
    (h : Stated.Response (Stated.taken s r m) t r opcode part seq tag start o) :
    Stated.Response s t r opcode part seq tag start o := by
  obtain ⟨x, era, base, hx⟩ := Ring.take_eq (s.ring r) (fld m 8 4)
  have hring : (Stated.taken s r m).ring r = _ := State.ring_taken c r m
  have hrg (off : Nat) (h14 : off ≠ 0x14) (h18 : off ≠ 0x18) := State.ringRg_taken (m := m) (r := r) c h14 h18
  rw [owingRing, Stated.numbered, hx] at hring
  obtain ⟨hmem, htail, hhist⟩ := h
  rw [State.cqSize, State.ringBase, State.ringVer, State.cqPhase, State.cqSize, hrg _ (by decide) (by decide),
    hrg _ (by decide) (by decide), hrg _ (by decide) (by decide), hrg _ (by decide) (by decide), hring,
    State.mem_setHostBytes_congr (s := s) (t := Stated.taken s r m) rfl rfl] at hmem
  rw [hrg _ (by decide) (by decide)] at htail
  rw [hring] at hhist
  exact ⟨hmem, htail, hhist⟩

/-! ## What is judged, answered and carried out -/

/-- Nothing but the host's registers and the rings tells the state where a message is taken from the one before. -/
theorem State.taken_fields (s : State) (r : Nat) (m : List Byte) :
    ∃ b x, Stated.taken s r m = { s with bus := b, rings := x } := ⟨_, _, rfl⟩

theorem State.judgeKind_taken (c : s.Canon) (r : Nat) (m : List Byte) :
    (Stated.taken s r m).judgeKind r m = s.judgeKind r m := by
  obtain ⟨x, era, base, hx⟩ := Ring.take_eq (s.ring r) (fld m 8 4)
  rw [State.judgeKind, State.judgeKind, State.ring_taken c, owingRing, Stated.numbered, hx]
  rfl

theorem State.judge_taken (c : s.Canon) (r : Nat) (m : List Byte) :
    (Stated.taken s r m).judge r m = s.judge r m := by
  obtain ⟨x, era, base, hx⟩ := Ring.take_eq (s.ring r) (fld m 8 4)
  have hkind := State.judgeKind_taken c r m
  have hneg : ((Stated.taken s r m).ring r).neg = (s.ring r).neg := by
    rw [State.ring_taken c, owingRing, Stated.numbered, hx]
  obtain ⟨b, y, hy⟩ := s.taken_fields r m
  have hform (i : OpInfo) : (Stated.taken s r m).msgForm r i m = s.msgForm r i m := by
    rw [hy, State.msgForm, State.msgForm]
    unfold State.bodyForm
    rfl
  have hown (op : Nat) : (Stated.taken s r m).unitsOwned r op m = s.unitsOwned r op m := by
    rw [hy]
    rfl
  have hok (op : Nat) : (Stated.taken s r m).stateOk r op = s.stateOk r op := by
    rw [hy]
    rfl
  unfold State.judge
  dsimp only
  simp only [hkind, hneg, hform, hown, hok]

theorem State.accept_eq (s : State) (r : Nat) (m : List Byte) (hop : fld m 2 2 ≠ 3) :
    (s.consumed r (fld m 4 2)).accept r m =
      if (s.ring r).expSeq = fld m 8 4 then
        match (Stated.taken s r m).judge r m with
        | some c => (Stated.taken s r m).answerMsg r (Stated.number s r m) m c
        | none => (Stated.taken s r m).carry r (Stated.number s r m) m
      else (Stated.taken s r m).answerMsg r (Stated.number s r m) m { Compl.of 2 with detail := 0xFE } := by
  rw [State.accept]
  dsimp only
  rw [if_neg hop]
  by_cases hseq : (s.ring r).expSeq = fld m 8 4
  · rw [if_pos hseq]
    exact if_neg (by simp [show ((s.consumed r (fld m 4 2)).ring r).expSeq = fld m 8 4 from hseq])
  · rw [if_neg hseq]
    exact if_pos (by simp [show ((s.consumed r (fld m 4 2)).ring r).expSeq ≠ fld m 8 4 from hseq])

/-- A message of its row that comes is accepted, and the rings are served. -/
theorem State.msgRow_of_comes (h : Stated.Comes s r op m) :
    s.msgRow op r m = .next ((s.consumed r (fld m 4 2)).accept r m).serve := by
  rw [State.msgRow, if_pos h.isOp, State.submit_of_comes h]

section
variable (hop : op ≠ 3)
include hop

/-- One out of order is refused with that. -/
theorem State.msgRow_late (h : Stated.Comes s r op m) (hseq : (s.ring r).expSeq ≠ fld m 8 4) :
    s.msgRow op r m = .next ((Stated.taken s r m).answerMsg r (Stated.number s r m) m
      { Compl.of 2 with detail := 0xFE }).serve := by
  rw [State.msgRow_of_comes h, State.accept_eq s r m (h.isOp ▸ hop), if_neg hseq]

theorem State.msgRow_refused (h : Stated.Arrives s r op m) {c : Compl} (hj : s.judge r m = some c) :
    s.msgRow op r m = .next ((Stated.taken s r m).answerMsg r (Stated.number s r m) m c).serve := by
  rw [State.msgRow_of_comes h.toComes, State.accept_eq s r m (h.isOp ▸ hop), if_pos h.inOrder,
    State.judge_taken h.canon, hj]

theorem State.msgRow_carried (h : Stated.Sent s r op m) :
    s.msgRow op r m = .next ((Stated.taken s r m).carry r (Stated.number s r m) m).serve := by
  rw [State.msgRow_of_comes h.toComes, State.accept_eq s r m (h.isOp ▸ hop), if_pos h.inOrder,
    State.judge_taken h.canon, h.ok]

end

/-! ## What completion traffic leaves to take -/

theorem Traffic.nothingToTake (h : Traffic s t) (hq : s.NothingToTake) : t.NothingToTake :=
  State.nothingToTake_of_rings hq (by rw [h.moves.dev]) (h.moves .taps (by decide))
    (fun q => (congrArg Ring.stopped (h.ring q) :)) fun _ hr _ ho => ringRg_of_host h.host hr ho

/-- A response where the message is taken, after changes elsewhere. -/
theorem respond_after_taken (h : Stated.Comes s r op m) (hs : RingsSame (Stated.taken s r m) z) (c : z.Canon)
    (hm : z.mem = s.mem) (ht : z.dev.time = s.dev.time) (opcode part seq tag : Nat) (o : Compl) (start : Nat) :
    (z.respond r opcode part seq tag o start).NothingToTake ∧
      Stated.Response s (z.respond r opcode part seq tag o start) r opcode part seq tag start o := by
  have hpost := Posts.respond h.range z opcode part seq tag o start c
  refine ⟨hpost.nothingToTake (hs.nothingToTake (nothingToTake_taken h)), ?_⟩
  obtain ⟨hmem, htail, hhist, -, -⟩ := State.respond_of_ringFree c
    (hs.ringFree h.range (ringFree_taken h)) opcode part seq tag o start
  exact response_of_taken h.canon (hs.response h.range (hm.trans rfl) (ht.trans rfl) ⟨hmem, htail, hhist⟩)

/-- The message of a row is answered where it is taken, and no more. -/
theorem answerMsg_taken (h : Stated.Comes s r op m) (hop : op ≠ 1) (c : Compl) :
    ∃ t, ((Stated.taken s r m).answerMsg r (Stated.number s r m) m c).serve = t ∧ Traffic (Stated.taken s r m) t ∧
      Stated.Answered s t r m c := by
  have ct := State.canon_taken h.canon r m
  obtain ⟨hq, hresp⟩ := respond_after_taken h .refl ct rfl rfl (fld m 2 2) (fld m 1 1) (Stated.number s r m)
    (fld m 12 4) c 0
  have hans : (Stated.taken s r m).answerMsg r (Stated.number s r m) m c =
      (Stated.taken s r m).respond r (fld m 2 2) (fld m 1 1) (Stated.number s r m) (fld m 12 4) c 0 :=
    if_neg (h.isOp ▸ hop)
  refine ⟨_, rfl, ?_, ?_⟩
  · rw [hans, State.serve_of_nothingToTake hq]
    exact Posts.respond h.range _ _ _ _ _ _ _ ct
  · rw [hans, State.serve_of_nothingToTake hq]
    exact hresp

end Sys2Proof.Machine
end

section
/-! SUPPORT. HELLO, NOP and FENCE, and messages that are refused (R336, R337, R341, R422). -/
set_option Elab.async false

namespace Sys2Proof.Machine

variable {s t z : State} {r q op : Nat} {m : List Byte}

theorem fld_lt (m : List Byte) (o n : Nat) : fld m o n < 256 ^ n := by
  have h := leNat_lt (slice m o n)
  rwa [length_slice] at h

/-! ## HELLO (R337) -/

/-- The state where HELLO is taken, what it negotiates laid down. -/
def State.greeted (s : State) (r : Nat) (m : List Byte) (neg : Bool) (ver feat : Nat) : State :=
  (Stated.taken s r m).setRing r { owingRing s r m with neg := neg, ver := ver, feat := feat }

theorem State.greeted_same (c : s.Canon) (r : Nat) (m : List Byte) :
    s.greeted r m (s.ring r).neg (s.ring r).ver (s.ring r).feat = Stated.taken s r m := by
  obtain ⟨x, era, base, hx⟩ := Ring.take_eq (s.ring r) (fld m 8 4)
  have hsame : ({ owingRing s r m with neg := (s.ring r).neg, ver := (s.ring r).ver, feat := (s.ring r).feat } : Ring) =
      owingRing s r m := by
    rw [owingRing, Stated.numbered, hx]
  rw [State.greeted, hsame, State.taken_eq c]
  exact State.setRing_setRing (State.canon_consumed c ..) ..

/-- HELLO_ACK is written where HELLO is taken. -/
theorem helloAck_greeted (h : Stated.Comes s r op m) (neg : Bool) (ver feat status second eff : Nat) :
    ((s.greeted r m neg ver feat).helloAck r (Stated.number s r m) m status second eff).NothingToTake ∧
      Traffic (s.greeted r m neg ver feat)
        ((s.greeted r m neg ver feat).helloAck r (Stated.number s r m) m status second eff) ∧
      Stated.HelloAcked s ((s.greeted r m neg ver feat).helloAck r (Stated.number s r m) m status second eff) r m
        (if neg then ver else 0x20) status second eff := by
  have c := h.canon
  have ct := State.canon_taken c r m
  obtain ⟨x, era, base, hx⟩ := Ring.take_eq (s.ring r) (fld m 8 4)
  have hseq : (owingRing s r m).expSeq = (fld m 8 4 + 1) % 2 ^ 32 := Ring.expSeq_take _ (fld_lt m 8 4)
  have hrg (off : Nat) (h14 : off ≠ 0x14) (h18 : off ≠ 0x18) := State.ringRg_taken (m := m) (r := r) c h14 h18
  have hfree := ringFree_taken h
  have howing : (Stated.taken s r m).ring r = _ := State.ring_taken c r m
  have hquiet := nothingToTake_taken h
  have hmem (a : Nat) (bs : List Byte) : ((Stated.taken s r m).setHostBytes a bs).mem = (s.setHostBytes a bs).mem :=
    State.mem_setHostBytes_congr (s := s) (t := Stated.taken s r m) rfl rfl a bs
  unfold State.greeted
  generalize Stated.taken s r m = y at *
  obtain ⟨g, hg⟩ : ∃ g : Ring, g = { owingRing s r m with neg := neg, ver := ver, feat := feat } := ⟨_, rfl⟩
  rw [← hg]
  have hring : (y.setRing r g).ring r = g := State.ring_setRing ct ..
  have cz : (y.setRing r g).Canon := State.canon_setRing ct ..
  have hfreez : Stated.RingFree (y.setRing r g) r := by
    refine ⟨hfree.ready, hfree.pins, hfree.en, ?_, ?_, hfree.room, ?_⟩
    · rw [hring, hg, ← hfree.waitq, howing]
    · rw [hring, hg, ← hfree.fences, howing]
    · have hcount : ((y.setRing r g).ring r).irqCnt = (y.ring r).irqCnt := by rw [hring, hg, howing]
      rw [hcount]
      exact hfree.quiet
  have hqz : (y.setRing r g).NothingToTake := by
    refine State.nothingToTake_of_rings hquiet rfl rfl (fun q => ?_) fun _ _ _ _ => rfl
    by_cases hq : q = r
    · rw [hq, hring, hg, howing]
    · rw [State.ring_setRing_ne ct _ hq]
  have hver : (y.setRing r g).ringVer r = if neg then ver else 0x20 := by rw [State.ringVer, hring, hg]
  have hpost : Posts (y.setRing r g) ((y.setRing r g).helloAck r (Stated.number s r m) m status second eff) :=
    Posts.post h.range _ _
  obtain ⟨hmemz, htail, hhist, -, -⟩ := State.post_of_ringFree cz hfreez (e := {
    bytes := entryBytes ((y.setRing r g).ringVer r) (fld m 1 1) 2 0x2000 (fld m 8 4) (fld m 12 4)
      (leBytes 1 status ++ leBytes 1 second ++ List.replicate 6 0 ++ leBytes 8 eff ++ leBytes 8 deviceFeatures ++
        List.replicate 24 0)
    ans := some (Stated.number s r m, status), urgent := false }) (by simp [entryBytes]; rfl) rfl rfl
  refine ⟨(hpost cz).nothingToTake hqz, hpost cz, hmemz.trans ?_, htail.trans ?_, ?_, hhist.trans ?_⟩
  · have hvents : ((y.setRing r g).ring r).vents = (s.ring r).vents := by
      rw [hring, hg, owingRing, Stated.numbered, hx]
    have hrgz (off : Nat) : (y.setRing r g).ringRg r off = y.ringRg r off := rfl
    have hmemy (a : Nat) (bs : List Byte) : ((y.setRing r g).setHostBytes a bs).mem = (s.setHostBytes a bs).mem :=
      (State.mem_setHostBytes_congr (s := y) (t := y.setRing r g) rfl rfl a bs).trans (hmem a bs)
    rw [hmemy, hvents, hver]
    simp only [State.ringBase, State.cqSize, State.cqPhase, hrgz, hrg _ (show 0x20 ≠ 0x14 by decide) (by decide),
      hrg _ (show 8 ≠ 0x14 by decide) (by decide), hrg _ (show 8 + 4 ≠ 0x14 by decide) (by decide),
      hrg _ (show 0x10 ≠ 0x14 by decide) (by decide)]
    rfl
  · exact congrArg (fun x => (x + 1) % 2 ^ 32) (hrg 0x20 (by decide) (by decide))
  · exact (congrArg Ring.expSeq ((hpost cz).ring r) :).trans ((congrArg Ring.expSeq (hring.trans hg)).trans hseq)
  · rw [hring, hg, owingRing, Stated.numbered, hx]

/-- The identity of a ring that HELLO leaves. -/
theorem Traffic.ring_fields (h : Traffic s t) (r : Nat) : (t.ring r).neg = (s.ring r).neg ∧
    (t.ring r).ver = (s.ring r).ver ∧ (t.ring r).feat = (s.ring r).feat :=
  ⟨(congrArg Ring.neg (h.ring r) :), (congrArg Ring.ver (h.ring r) :), (congrArg Ring.feat (h.ring r) :)⟩

theorem State.ring_greeted (c : s.Canon) (neg : Bool) (ver feat : Nat) : (s.greeted r m neg ver feat).ring r =
    { owingRing s r m with neg := neg, ver := ver, feat := feat } := State.ring_setRing (State.canon_taken c r m) ..

/-- A HELLO that does not come through leaves what the ring had. -/
theorem helloAck_taken (h : Stated.Comes s r op m) (status second : Nat) :
    ∃ t, ((Stated.taken s r m).helloAck r (Stated.number s r m) m status second 0).serve = t ∧
      ((t.ring r).neg = (s.ring r).neg ∧ (t.ring r).ver = (s.ring r).ver ∧ (t.ring r).feat = (s.ring r).feat) ∧
      Stated.HelloAcked s t r m (s.ringVer r) status second 0 := by
  obtain ⟨hq, htraffic, hack⟩ := helloAck_greeted h (s.ring r).neg (s.ring r).ver (s.ring r).feat status second 0
  obtain ⟨hneg, hver, hfeat⟩ := htraffic.ring_fields r
  rw [State.ring_greeted h.canon] at hneg hver hfeat
  rw [State.greeted_same h.canon] at hq hack hneg hver hfeat
  rw [State.serve_of_nothingToTake hq]
  exact ⟨_, rfl, ⟨hneg, hver, hfeat⟩, hack⟩

theorem helloNegotiates : Stated.HelloNegotiates := by
  intro s r m
  dsimp only
  have hlate (h : Stated.Comes s r 1 m) (c : Compl) :
      (Stated.taken s r m).answerMsg r (Stated.number s r m) m c =
        (Stated.taken s r m).helloAck r (Stated.number s r m) m
        c.status (if c.status = 2 then c.detail else 0x32) 0 := if_pos h.isOp
  have hcarry (h : Stated.Comes s r 1 m) : (Stated.taken s r m).carry r (Stated.number s r m) m =
      (Stated.taken s r m).helloMsg r (Stated.number s r m) m := by
    rw [State.carry, h.isOp]
    rfl
  refine ⟨fun h hv => ?_, fun h hv => ?_, fun c h hj => ?_, fun h hseq => ?_⟩
  · obtain ⟨hq, htraffic, hack⟩ := helloAck_greeted h.toComes true (min (fld m 17 1) 0x32)
      (fld m 24 8 &&& deviceFeatures) 0 (min (fld m 17 1) 0x32) (fld m 24 8 &&& deviceFeatures)
    obtain ⟨hneg, hver, hfeat⟩ := htraffic.ring_fields r
    rw [State.ring_greeted h.canon] at hneg hver hfeat
    refine ⟨_, ?_, hneg, hver, hfeat, hack⟩
    refine (State.msgRow_carried (by decide) h).trans (congrArg Host.Outcome.next ?_)
    have hmsg : (Stated.taken s r m).helloMsg r (Stated.number s r m) m =
        ((Stated.taken s r m).modRing r fun g => { g with
          neg := true, ver := min (fld m 17 1) 0x32, feat := fld m 24 8 &&& deviceFeatures }).helloAck r
          (Stated.number s r m) m 0 (min (fld m 17 1) 0x32) (fld m 24 8 &&& deviceFeatures) := by
      rw [State.helloMsg]
      exact if_neg (by omega)
    rw [hcarry h.toComes, hmsg, State.modRing, State.ring_taken h.canon]
    exact State.serve_of_nothingToTake hq
  · obtain ⟨t, ht, hkept, hack⟩ := helloAck_taken h.toComes 1 0x32
    refine ⟨t, ?_, hkept, hack⟩
    refine (State.msgRow_carried (by decide) h).trans (congrArg Host.Outcome.next ?_)
    rw [hcarry h.toComes, State.helloMsg]
    dsimp only
    rw [if_pos hv, ht]
  · obtain ⟨t, ht, hkept, hack⟩ := helloAck_taken h.toComes c.status (if c.status = 2 then c.detail else 0x32)
    refine ⟨t, ?_, hkept, hack⟩
    refine (State.msgRow_refused (by decide) h hj).trans (congrArg Host.Outcome.next ?_)
    rw [hlate h.toComes, ht]
  · obtain ⟨t, ht, hkept, hack⟩ := helloAck_taken h 2 0xFE
    refine ⟨t, ?_, hkept, hack⟩
    refine (State.msgRow_late (by decide) h hseq).trans (congrArg Host.Outcome.next ?_)
    rw [hlate h]
    exact ht

/-! ## NOP (R338) -/

theorem State.accept_nop (s : State) (r : Nat) (m : List Byte) (hop : fld m 2 2 = 3) :
    (s.consumed r (fld m 4 2)).accept r m = (s.consumed r (fld m 4 2)).setRing r (Stated.numbered s r m) := by
  rw [State.accept]
  exact if_pos hop

theorem nopIsNumbered : Stated.NopIsNumbered := by
  intro s r m h
  have c := h.canon
  have cc := State.canon_consumed c r (fld m 4 2)
  have hring : ((s.consumed r (fld m 4 2)).setRing r (Stated.numbered s r m)).ring r = Stated.numbered s r m :=
    State.ring_setRing cc ..
  obtain ⟨x, era, base, hx⟩ := Ring.take_eq (s.ring r) (fld m 8 4)
  have hq : ((s.consumed r (fld m 4 2)).setRing r (Stated.numbered s r m)).NothingToTake := by
    refine State.nothingToTake_of_rings (State.nothingToTake_consumed (n := fld m 4 2) c h.others) rfl rfl (fun q => ?_)
      fun _ _ _ _ => rfl
    by_cases hqr : q = r
    · rw [hqr, hring, Stated.numbered, hx]
      rfl
    · rw [State.ring_setRing_ne cc _ hqr]
  refine ⟨(s.consumed r (fld m 4 2)).setRing r (Stated.numbered s r m),
    (State.msgRow_of_comes h).trans (congrArg Host.Outcome.next ?_), rfl, rfl, rfl, rfl, rfl, ?_, hring, ?_⟩
  · rw [State.accept_nop s r m h.isOp]
    exact State.serve_of_nothingToTake hq
  · exact (State.pg_setRing ..).trans (State.head_consumed c)
  · rw [hring]
    exact Ring.expSeq_take _ (fld_lt m 8 4)

/-! ## FENCE (R341) -/

theorem State.carry_fence (s : State) (r n : Nat) (m : List Byte) (hop : fld m 2 2 = 4) :
    s.carry r n m = s.fenceMsg r n m := by
  rw [State.carry, hop]
  rfl

theorem State.rings_fireVector (s : State) (v : Nat) : (s.fireVector v).rings = s.rings := by
  unfold State.fireVector
  dsimp only
  split
  · rfl
  · obtain ⟨x, hx⟩ := s.setHostBytes_eq_setMem _ _
    rw [hx]
    rfl

/-- What waits on a ring beside its entries: its unanswered messages and the fences among them. -/
theorem State.ring_irqEntry (c : s.Canon) (r : Nat) (urgent : Bool) :
    ((s.irqEntry r urgent).ring r).opens = (s.ring r).opens ∧
      ((s.irqEntry r urgent).ring r).fences = (s.ring r).fences ∧
      ((s.irqEntry r urgent).ring r).waitq = (s.ring r).waitq := by
  have c₁ : (s.setRing r ((s.ring r).counted s.now)).Canon := State.canon_setRing c ..
  have hring : (s.setRing r ((s.ring r).counted s.now)).ring r = (s.ring r).counted s.now := State.ring_setRing c ..
  have hentry : s.irqEntry r urgent = s.setRing r ((s.ring r).counted s.now) ∨
      s.irqEntry r urgent = (s.setRing r ((s.ring r).counted s.now)).irqFire r := by
    unfold State.irqEntry
    dsimp only
    split
    · exact .inr rfl
    · exact .inl rfl
  obtain h | h := hentry
  · rw [h, hring]
    exact ⟨rfl, rfl, rfl⟩
  · have cf : ((s.setRing r ((s.ring r).counted s.now)).fireVector r).Canon := (Keeps.fireVector .refl).canon c₁
    have hsame : ((s.setRing r ((s.ring r).counted s.now)).fireVector r).ring r = (s.ring r).counted s.now :=
      (congrArg (tget Ring.reset · r) (State.rings_fireVector _ r) :).trans hring
    rw [h, State.irqFire, State.ring_modRing cf, hsame]
    exact ⟨rfl, rfl, rfl⟩

/-- An answer of one slot on a free ring leaves its message answered and nothing waiting. -/
theorem State.post_leaves {e : Entry} {st : Nat} (c : s.Canon) (h : Stated.RingFree s r) (hbytes : e.bytes.length = 64)
    (hans : e.ans = some (q, st)) :
    ((s.post r e).ring r).opens = (s.ring r).opens.eraseP (fun o => o.1 == q) ∧ ((s.post r e).ring r).fences = [] := by
  obtain ⟨x, hx⟩ : ∃ x, x = s.setRing r ((s.ring r).waiting e) := ⟨_, rfl⟩
  have cx : x.Canon := hx ▸ State.canon_setRing c ..
  have hring : x.ring r = (s.ring r).waiting e := hx ▸ State.ring_setRing c ..
  have hqueue : s.modRing r (fun g => { g with waitq := g.waitq ++ [e] }) = x := by
    rw [State.modRing, h.waitq, hx]
    rfl
  have hpos : x.ringRg r 0x20 % x.cqSize r < x.cqSize r := Nat.mod_lt _ (Nat.two_pow_pos _)
  have hroom : 1 ≤ x.cqRoom r := hx ▸ h.room
  have hslot : e.bytes.length / 64 = 1 := by rw [hbytes]
  obtain ⟨b, hb⟩ : ∃ b, b = sealEntryBytes e.bytes (x.cqPhase r) ((x.ring r).vents % 2 ^ 32) := ⟨_, rfl⟩
  have cp : (x.cqPut r b).Canon := (Keeps.cqPut .refl).canon cx
  obtain ⟨g, hg⟩ : ∃ g : Ring, g = { x.ring r with
    waitq := [], vents := (x.ring r).vents + b2n (bit (fld e.bytes 4 2) 14) } := ⟨_, rfl⟩
  have cg : ((x.cqPut r b).setRing r g).Canon := State.canon_setRing cp ..
  have hrec := State.answered_records cg r q st
  have hrecring : (((x.cqPut r b).setRing r g).answered r q st).ring r = g.record q st := by
    rw [hrec.ring, State.ring_setRing cp]
  obtain ⟨t, ht⟩ : ∃ t, t = (((x.cqPut r b).setRing r g).answered r q st).irqEntry r e.urgent := ⟨_, rfl⟩
  obtain ⟨hopens, hfences, hwaitq⟩ := State.ring_irqEntry hrec.canon r e.urgent
  rw [← ht, hrecring] at hopens hfences hwaitq
  have hnone : (t.ring r).fences = [] := by
    rw [hfences, hg, hring]
    exact h.fences
  have hempty : (t.ring r).waitq = [] := by rw [hwaitq, hg]; rfl
  have hwrite : x.writeOne r e [] = some t := by
    rw [State.writeOne, hslot]
    dsimp only
    rw [if_neg (show ¬ x.ringRg r 0x20 % x.cqSize r + 1 > x.cqSize r by omega),
      if_neg (show ¬ x.cqRoom r < 0 + 1 by omega), if_pos rfl, ← hb, ← hg, hans]
    dsimp only
    rw [← ht, State.fencePump_of_nil hnone]
  have hflush : x.flushOne r = some t := by
    rw [State.flushOne, hring]
    exact hwrite
  have hstop : t.flushOne r = none := by rw [State.flushOne, hempty]
  have hdrain : x.drain r = t := by
    have hpins : x.drives 0 = true := hx ▸ h.pins
    rw [State.drain, if_pos ⟨hx ▸ h.ready, hx ▸ h.en, hpins⟩, repeatStep_some _ _ _ _ hflush,
      repeatStep_none _ _ _ hstop]
  have hpost : s.post r e = t := by
    rw [State.post, hqueue, hdrain, State.cqWait, hempty]
    rfl
  rw [hpost]
  exact ⟨by rw [hopens, hg, hring]; rfl, hnone⟩

/-- A fence that nothing goes before is answered as it is taken. -/
theorem State.fenceMsg_first {n : Nat} (c : s.Canon) (h : Stated.RingFree s r)
    (hopens : (s.ring r).opens = [(n, BitVec.ofNat 32 (fld m 12 4))]) :
    s.fenceMsg r n m = s.respond r 4 (ringPart r) n (fld m 12 4) ⟨0, 0, 0, 0, []⟩ 0 := by
  have htag : (BitVec.ofNat 32 (fld m 12 4)).toNat = fld m 12 4 := by
    rw [BitVec.toNat_ofNat]
    exact Nat.mod_eq_of_lt (fld_lt m 12 4)
  obtain ⟨g, hg⟩ : ∃ g : Ring, g = { s.ring r with fences := [(n, w32 (fld m 12 4))] } := ⟨_, rfl⟩
  have hadd : s.modRing r (fun g => { g with fences := g.fences ++ [(n, w32 (fld m 12 4))] }) = s.setRing r g := by
    rw [State.modRing, h.fences, hg]
    rfl
  have hring : (s.setRing r g).ring r = g := State.ring_setRing c ..
  obtain ⟨e, he⟩ : ∃ e : Entry, e = {
    bytes := entryBytes (s.ringVer r) (ringPart r) 4 0x2000 n (fld m 12 4) (Compl.ok.body 0 s.now)
    ans := some (n, 0), urgent := false } := ⟨_, rfl⟩
  have hver : (s.setRing r g).ringVer r = s.ringVer r := by rw [State.ringVer, State.ringVer, hring, hg]
  have hpump : (s.setRing r g).fencePump r = s.setRing r ((s.ring r).waiting e) := by
    have hgo : g.opens = [(n, BitVec.ofNat 32 (fld m 12 4))] := by rw [hg, ← hopens]
    rw [State.fencePump, hring, hgo]
    dsimp only
    rw [if_pos (by rw [hg]; simp), hver, htag]
    rw [State.setRing_setRing c]
    congr 1
    rw [Ring.waiting, he, hg]
    simp [h.fences, h.waitq, hopens]
    rfl
  have hqueue : s.modRing r (fun g => { g with waitq := g.waitq ++ [e] }) = s.setRing r ((s.ring r).waiting e) := by
    rw [State.modRing, h.waitq]
    rfl
  have hfewer : (((s.setRing r ((s.ring r).waiting e)).ring r).fences.length < ((s.setRing r g).ring r).fences.length)
      := by
    rw [State.ring_setRing c, hring, hg]
    change (s.ring r).fences.length < 1
    rw [h.fences]
    exact Nat.one_pos
  rw [State.fenceMsg, hadd, hpump]
  rw [if_pos hfewer, State.respond, State.post, ← hqueue, he]
  rfl

/-- One that an unanswered message goes before waits. -/
theorem State.fenceMsg_behind {n : Nat} {o : Nat × Word} {l : List (Nat × Word)} (c : s.Canon) (h : Stated.RingFree s r)
    (hopens : (s.ring r).opens = o :: l) (hne : o.1 ≠ n) :
    s.fenceMsg r n m = s.setRing r { s.ring r with fences := [(n, w32 (fld m 12 4))] } := by
  obtain ⟨g, hg⟩ : ∃ g : Ring, g = { s.ring r with fences := [(n, w32 (fld m 12 4))] } := ⟨_, rfl⟩
  have hadd : s.modRing r (fun g => { g with fences := g.fences ++ [(n, w32 (fld m 12 4))] }) = s.setRing r g := by
    rw [State.modRing, h.fences, hg]
    rfl
  have hring : (s.setRing r g).ring r = g := State.ring_setRing c ..
  have hpump : (s.setRing r g).fencePump r = s.setRing r g := by
    have hgo : g.opens = o :: l := by rw [hg, ← hopens]
    rw [State.fencePump, hring, hgo]
    dsimp only
    exact if_neg (by rw [hg]; simpa using fun heq => hne heq.symm)
  rw [State.fenceMsg, hadd]
  dsimp only
  rw [hpump, if_neg (Nat.lt_irrefl _), hg]

theorem fenceWaits : Stated.FenceWaits := by
  intro s r m h
  have c := h.canon
  have ct := State.canon_taken c r m
  obtain ⟨x, era, base, hx⟩ := Ring.take_eq (s.ring r) (fld m 8 4)
  have howing : (Stated.taken s r m).ring r = { s.ring r with
      expSeq := x, era := era, base := base
      opens := (s.ring r).opens ++ [(Stated.number s r m, BitVec.ofNat 32 (fld m 12 4))] } := by
    rw [State.ring_taken c, owingRing, Stated.numbered, hx]
  have hrow : exec (.fence r m) s =
      .next ((Stated.taken s r m).fenceMsg r (Stated.number s r m) m).serve := by
    refine (State.msgRow_carried (by decide) h).trans ?_
    rw [State.carry_fence _ _ _ _ h.isOp]
  have hfree := ringFree_taken h.toComes
  refine ⟨fun hopens => ?_, fun o l hopens hne => ?_⟩
  · have hone : ((Stated.taken s r m).ring r).opens = [(Stated.number s r m, BitVec.ofNat 32 (fld m 12 4))] := by
      rw [howing, hopens]
      rfl
    obtain ⟨hq, hresp⟩ := respond_after_taken h.toComes .refl ct rfl rfl 4 (ringPart r) (Stated.number s r m)
      (fld m 12 4) ⟨0, 0, 0, 0, []⟩ 0
    have htraffic := Posts.respond h.range (Stated.taken s r m) 4 (ringPart r) (Stated.number s r m) (fld m 12 4)
      ⟨0, 0, 0, 0, []⟩ 0 ct
    obtain ⟨hleft, hnone⟩ := State.post_leaves (q := Stated.number s r m) (e := {
      bytes := entryBytes ((Stated.taken s r m).ringVer r) (ringPart r) 4 0x2000 (Stated.number s r m) (fld m 12 4)
        (Compl.body ⟨0, 0, 0, 0, []⟩ 0 (Stated.taken s r m).now)
      ans := some (Stated.number s r m, 0), urgent := false }) (st := 0) ct hfree (length_responseBytes ..) rfl
    refine ⟨_, hrow.trans ?_, ?_, hnone, ?_, fun q => ?_, hresp⟩
    · rw [State.fenceMsg_first ct hfree hone, State.serve_of_nothingToTake hq]
      rfl
    · refine hleft.trans ?_
      rw [hone]
      simp
    · exact htraffic.moves.units.trans (State.moves_taken s r m).units
    · exact (congrArg Part.st (htraffic.part q) :).trans
        (congrArg Part.st (Moves.part (State.moves_taken s r m) (by decide) q) :)
  · have hone : ((Stated.taken s r m).ring r).opens =
        o :: (l ++ [(Stated.number s r m, BitVec.ofNat 32 (fld m 12 4))]) := by
      rw [howing, hopens]
      rfl
    obtain ⟨g, hg⟩ : ∃ g : Ring, g = { (Stated.taken s r m).ring r with
      fences := [(Stated.number s r m, w32 (fld m 12 4))] } := ⟨_, rfl⟩
    have hring : ((Stated.taken s r m).setRing r g).ring r = g := State.ring_setRing ct ..
    have hq : ((Stated.taken s r m).setRing r g).NothingToTake := by
      refine State.nothingToTake_of_rings (nothingToTake_taken h.toComes) rfl rfl (fun q => ?_) fun _ _ _ _ => rfl
      by_cases hqr : q = r
      · rw [hqr, hring, hg]
      · rw [State.ring_setRing_ne ct _ hqr]
    refine ⟨(Stated.taken s r m).setRing r g, hrow.trans ?_, rfl, ?_, ?_⟩
    · rw [State.fenceMsg_behind ct hfree hone hne, ← hg, State.serve_of_nothingToTake hq]
    · rw [hring, hg]
      rfl
    · rw [hring, hg, howing]

/-! ## Refusals (R422) -/

/-- The rows of Table 15.6 that are neither HELLO nor NOP run their message. -/
theorem refusedMessages : Stated.RefusedMessages := by
  intro s r m
  dsimp only
  have hrows : ∀ x ∈ [(Instr.fence r m, 0x004), (.regRead r m, 0x010), (.regWrite r m, 0x011),
      (.partCfg r m, 0x100), (.partLoad r m, 0x101), (.partPause r m, 0x102), (.partResume r m, 0x103),
      (.partRelease r m, 0x104), (.partReset r m, 0x105), (.memAlloc r m, 0x110), (.memFree r m, 0x111),
      (.teacherSeal r m, 0x118), (.teacherUnseal r m, 0x119), (.epochSet r m, 0x402), (.tapRelease r m, 0x413),
      (.svCfg r m, 0x500), (.svSubmit r m, 0x502), (.svCancel r m, 0x503), (.svForget r m, 0x504)],
      exec x.1 s = s.msgRow x.2 r m ∧ x.2 ≠ 3 ∧ x.2 ≠ 1 := by
    repeat' refine List.forall_mem_cons.mpr ⟨⟨rfl, Nat.ne_of_beq_eq_false rfl, Nat.ne_of_beq_eq_false rfl⟩, ?_⟩
    exact fun _ h => absurd h List.not_mem_nil
  intro x hmem c hcase
  obtain ⟨hexec, h3, h1⟩ := hrows x hmem
  obtain ⟨hcomes, hrow⟩ : Stated.Comes s r x.2 m ∧
      s.msgRow x.2 r m = .next ((Stated.taken s r m).answerMsg r (Stated.number s r m) m c).serve := by
    obtain ⟨h, hj⟩ | ⟨h, hseq, rfl⟩ := hcase
    · exact ⟨h.toComes, State.msgRow_refused h3 h hj⟩
    · exact ⟨h, State.msgRow_late h3 h hseq⟩
  obtain ⟨t, ht, htraffic, hans⟩ := answerMsg_taken hcomes h1 c
  refine ⟨t, (hexec.trans hrow).trans (congrArg _ ht), ?_, ?_, fun q => ?_, hans⟩
  · exact htraffic.moves.stk.trans (State.moves_taken s r m).stk
  · exact htraffic.moves.units.trans (State.moves_taken s r m).units
  · exact (congrArg Part.st (htraffic.part q) :).trans
      (congrArg Part.st (Moves.part (State.moves_taken s r m) (by decide) q) :)

end Sys2Proof.Machine

open Sys2Proof Sys2Proof.Machine in
/-- Settles O45: a message that comes is taken and numbered, and answered on its free ring; HELLO, NOP and FENCE each by
what they do. -/
theorem ringMessagesAct : Obligations.RingMessagesAct :=
  ⟨helloNegotiates, nopIsNumbered, fenceWaits, refusedMessages⟩

end

section
/-! SUPPORT. Ring registers: doorbells, RING_CFG, CQ_HEAD and the interrupt timer (R329, R333, R335, R349). -/
set_option Elab.async false

namespace Sys2Proof.Machine

variable {s t z : State} {init r q off n : Nat} {m : List Byte} {v : Word}

/-! ## Writes of ring registers -/

/-- The registers of a ring that are no half of a pair. -/
theorem State.writeBlock_ring (hr : r < 9) (hoff : off ∈ [0x10, 0x14, 0x1C]) :
    s.writeBlock init .host 0 (ringOff r off) v = (s.writeHost (ringOff r off) v, 0) := by
  have hcase : off = 0x10 ∨ off = 0x14 ∨ off = 0x1C := by simpa using hoff
  have hpair : rwPair .host (ringOff r off) = none := by
    rw [rwPair, ringOff]
    exact if_neg (by omega)
  have hprev : rwPair .host (ringOff r off - 4) = none := by
    rw [rwPair, ringOff]
    exact if_neg (by omega)
  have hfour : 4 ≤ ringOff r off := by unfold ringOff; omega
  rw [State.writeBlock, hpair, hprev, if_pos hfour]
  rfl

theorem ringOff_block (hr : r < 9) (hoff : off ∈ [0x10, 0x14, 0x1C]) :
    0x40 ≤ ringOff r off ∧ ringOff r off < 0x1000 ∧ ringOff r off % 4 = 0 := by
  have hcase : off = 0x10 ∨ off = 0x14 ∨ off = 0x1C := by simpa using hoff
  unfold ringOff
  omega

/-- RING_CFG, the doorbell and CQ_HEAD of a ring. -/
theorem State.writeHost_ring (s : State) (r : Nat) (v : Word) (hr : r < 9) :
    s.writeHost (ringOff r 0x10) v = s.writeRingCfg r v.toNat ∧
      s.writeHost (ringOff r 0x14) v = s.setRingRg r 0x14 v.toNat ∧
      s.writeHost (ringOff r 0x1C) v = (s.setRingRg r 0x1C v.toNat).flush r := by
  have hring (off : Nat) (h : off < 0x40) : (ringOff r off - 0x100) / 0x40 = r := by unfold ringOff; omega
  have hreg (off : Nat) (h : off < 0x40) : (ringOff r off - 0x100) % 0x40 = off := by unfold ringOff; omega
  have hin (off : Nat) (h : off < 0x40) : 0x100 ≤ ringOff r off ∧ ringOff r off < 0x340 := by unfold ringOff; omega
  refine ⟨?_, ?_, ?_⟩
  · rw [State.writeHost, if_pos (hin _ (by decide)), hring _ (by decide), hreg _ (by decide)]
    rfl
  · rw [State.writeHost, if_pos (hin _ (by decide)), hring _ (by decide), hreg _ (by decide)]
    rfl
  · rw [State.writeHost, if_pos (hin _ (by decide)), hring _ (by decide), hreg _ (by decide)]
    rfl

/-- A write of one is what the register does, and the rings are then served. -/
theorem State.pageWrite_ring (h : Stated.Reaches s init) (hr : r < 9) (hoff : off ∈ [0x10, 0x14, 0x1C]) :
    s.pageWrite init .host 0 (ringOff r off) v = .next (s.writeHost (ringOff r off) v).serve := by
  obtain ⟨hlo, hhi, hal⟩ := ringOff_block hr hoff
  have hword : (v.zeroExtend 64).truncate 32 = v := by simp
  have hw := (State.writeReg_block (k := .host) (i := 0) (v := v) h (fun _ => rfl) hlo).trans
    (State.writeBlock_ring (init := init) (v := v) (s := s) hr hoff)
  have hwrite : s.writeAccess init (pageNo .host 0 * 0x1000 + ringOff r off) 4 (v.zeroExtend 64) =
      s.writeHost (ringOff r off) v := by
    simp only [State.writeAccess, reach_of_reaches h, Bool.not_true, Bool.false_eq_true, if_false, if_true, hword,
      regWrite_of_reaches (k := .host) (i := 0) h ⟨by decide, nofun⟩ hhi hal rfl, hw]
  rw [State.pageWrite, hwrite]

/-- The rings' registers but those of ring `r` are as they were. -/
theorem State.nothingToTake_of_ring (h : Stated.OthersQuiet s r) (hr : t.served r = false ∨ t.sqUsed r = 0)
    (hdev : t.dev.state = s.dev.state) (htaps : t.taps = s.taps)
    (hrings : ∀ q, q ≠ r → (t.ring q).stopped = (s.ring q).stopped)
    (hpg : ∀ q, q < 9 → q ≠ r → ∀ off, off ∈ [0x10, 0x14, 0x18] → t.ringRg q off = s.ringRg q off) :
    t.NothingToTake := by
  intro q hq
  by_cases hqr : q = r
  · rw [hqr]
    exact hr
  · have hrg := hpg q hq hqr
    have hserved : t.served q = s.served q := by
      simp only [State.served, State.hostPort, State.drives, State.tap, State.ringEn, hdev, htaps, hrings q hqr,
        hrg 0x10 (by decide)]
    have hused : t.sqUsed q = s.sqUsed q := by simp only [State.sqUsed, hrg 0x14 (by decide), hrg 0x18 (by decide)]
    rw [hserved, hused]
    exact h q hq hqr

/-- A register of another ring. -/
theorem State.ringRg_setRingRg_far (c : s.Canon) (x : Nat) {o : Nat} (hq : q ≠ r) (ho : o < 0x40) (hoff : off < 0x40) :
    (s.setRingRg r off x).ringRg q o = s.ringRg q o :=
  State.ringRg_setRingRg_ne c x (by unfold ringOff; omega)

/-- A register of one ring written leaves the others what they had. -/
theorem nothingToTake_setRingRg (c : s.Canon) (h : Stated.OthersQuiet s r) {x : Nat} (hoff : off < 0x40)
    (hr : (s.setRingRg r off x).served r = false ∨ (s.setRingRg r off x).sqUsed r = 0) :
    (s.setRingRg r off x).NothingToTake :=
  State.nothingToTake_of_ring h hr rfl rfl (fun _ _ => rfl) fun q _ hqr o ho =>
    State.ringRg_setRingRg_far c x hqr (by simp at ho; omega) hoff

/-! ## Doorbells (R330) -/

theorem exec_doorbell (h : Stated.Reaches s init) (hr : r < 9) :
    exec (.doorbell init r v) s = .next (s.setRingRg r 0x14 v.toNat).serve :=
  (State.pageWrite_ring h hr (by decide)).trans (by rw [(State.writeHost_ring s r v hr).2.1])

/-- A ring that is not served keeps what it is told of. -/
theorem doorbell_waits (h : Stated.Reaches s init) (hr : r < 9) (hothers : Stated.OthersQuiet s r)
    (hs : s.served r = false) (v : Word) : ∃ t, exec (.doorbell init r v) s = .next t ∧ t.mem = s.mem ∧
      t.rings = s.rings ∧ t.ringRg r 0x14 = v.toNat ∧ t.ringRg r 0x18 = s.ringRg r 0x18 := by
  have c := h.1
  have hserved : (s.setRingRg r 0x14 v.toNat).served r = s.served r := by
    rw [State.served, State.served, State.ringEn, State.ringEn,
      State.ringRg_setRingRg_ne c _ (by unfold ringOff; omega)]
    rfl
  have hq := nothingToTake_setRingRg (x := v.toNat) c hothers (off := 0x14) (by decide) (.inl (hserved.trans hs))
  refine ⟨s.setRingRg r 0x14 v.toNat, ?_, rfl, rfl, ?_, State.ringRg_setRingRg_ne c _ (by unfold ringOff; omega)⟩
  · rw [exec_doorbell h hr, State.serve_of_nothingToTake hq]
  · rw [State.ringRg_setRingRg c]
    exact Nat.mod_eq_of_lt v.isLt

/-- The one ring with a message is served. -/
theorem State.serve_of_one (hr : r < 9) (hs : s.served r = true) (hu : s.sqUsed r ≠ 0) (h : Stated.OthersQuiet s r)
    (hq : (s.consume r).NothingToTake) : s.serve = s.consume r := by
  have hfind : ((List.range 9).find? fun r => s.served r && s.sqUsed r != 0) = some r := by
    refine List.find?_range_eq_some.mpr ⟨by simp [hs, hu], List.mem_range.mpr hr, fun q hq => ?_⟩
    obtain h0 | h0 := h q (by omega) (by omega)
    · simp [h0]
    · simp [h0]
  have hone : s.pumpOne = some (s.consume r) := by rw [State.pumpOne, hfind]
  have hserve := State.serve_of_nothingToTake hq
  have hnone : (s.consume r).pumpOne = none := by
    have hnone : (List.range 9).find? (fun q => (s.consume r).served q && (s.consume r).sqUsed q != 0) = none := by
      rw [List.find?_eq_none]
      intro q hqr
      rcases hq q (List.mem_range.mp hqr) with h0 | h0 <;> simp [h0]
    rw [State.pumpOne, hnone]
  exact (repeatStep_some State.pumpOne 1048575 s _ hone).trans (repeatStep_none _ _ _ hnone)

/-! ## One NOP taken (R330, R338) -/

theorem State.hostBytes_take (s : State) (a : Nat) {k n : Nat} (h : k ≤ n) :
    s.hostBytes a k = (s.hostBytes a n).take k := by
  simp only [State.hostBytes, State.bytes, ← List.map_take, List.take_range, Nat.min_eq_left h]

theorem fld_take {l : List Byte} {off k j : Nat} (h : off + k ≤ j) : fld (l.take j) off k = fld l off k := by
  rw [fld, fld, slice_take l h]

/-- The message that stands in the slot at the head of a ring. -/
def State.headMsg (s : State) (r : Nat) : List Byte :=
  s.hostBytes (s.ringBase r 0 + 64 * (s.ringRg r 0x18 % s.sqSize r)) 64

/-- A doorbell moves nothing that tells where a message stands. -/
theorem State.consume_one (c : s.Canon) (hbase : s.ringBase r 0 + 64 * s.sqSize r ≤ 2 ^ 47)
    (hcrc : crc16 (slice (s.headMsg r) 0 16) = fld (s.headMsg r) 6 2) (hlen : fld (s.headMsg r) 4 2 = 1)
    (x : Nat) (hx : x % 2 ^ 32 = (s.ringRg r 0x18 + 1) % 2 ^ 32) :
    (s.setRingRg r 0x14 x).sqUsed r = 1 ∧
      (s.setRingRg r 0x14 x).consume r = (s.consumed r 1).accept r (s.headMsg r) := by
  have hrg (off : Nat) (ho : off ≠ 0x14) : (s.setRingRg r 0x14 x).ringRg r off = s.ringRg r off :=
    State.ringRg_setRingRg_ne c _ (by unfold ringOff; omega)
  have htail : (s.setRingRg r 0x14 x).ringRg r 0x14 = (s.ringRg r 0x18 + 1) % 2 ^ 32 :=
    (State.ringRg_setRingRg c ..).trans hx
  have hsame : s.setRingRg r 0x14 x = s.setRingRg r 0x14 (s.ringRg r 0x18 + 1) := by
    refine congrArg (s.setRg _) (BitVec.eq_of_toNat_eq ?_)
    rw [w32, w32, BitVec.toNat_ofNat, BitVec.toNat_ofNat, hx]
  have hhead : s.ringRg r 0x18 < 2 ^ 32 := State.pg_lt ..
  have hused : (s.setRingRg r 0x14 x).sqUsed r = 1 := by
    rw [State.sqUsed, htail, hrg _ (by decide)]
    omega
  have hsize : (s.setRingRg r 0x14 x).sqSize r = s.sqSize r := by
    rw [State.sqSize, State.sqSize, hrg _ (by decide)]
  have hb : (s.setRingRg r 0x14 x).ringBase r 0 = s.ringBase r 0 := by
    rw [State.ringBase, State.ringBase, hrg _ (by decide), hrg _ (by decide)]
  have hone : 0 < s.sqSize r := Nat.two_pow_pos _
  have hpos : s.ringRg r 0x18 % s.sqSize r < s.sqSize r := Nat.mod_lt _ hone
  have hmsg (a k : Nat) : (s.setRingRg r 0x14 x).hostBytes a k = s.hostBytes a k := rfl
  have hlen16 : fld ((s.headMsg r).take 16) 4 2 = 1 := (fld_take (by decide)).trans hlen
  have htake : (s.setRingRg r 0x14 x).takeMsg r (s.ringRg r 0x18 % s.sqSize r) 1 ((s.headMsg r).take 16) =
      (s.setRingRg r 0x14 x, 1) := by
    have h := State.takeMsg_whole (s := s.setRingRg r 0x14 x) (r := r) (m := (s.headMsg r).take 16)
      (pos := s.ringRg r 0x18 % s.sqSize r) (avail := 1) (by rw [hlen16]; decide)
      (by rw [slice_take _ (by decide), fld_take (by decide), hcrc]) (by rw [hlen16])
      (by rw [hlen16, hsize]; omega) (by rw [hb, hsize]; exact hbase)
    rwa [hlen16] at h
  refine ⟨hused, ?_⟩
  rw [State.consume]
  dsimp only
  rw [hused, hsize, hrg _ (by decide), hb, hmsg, s.hostBytes_take _ (show 16 ≤ 64 by decide)]
  rw [if_neg (by omega), ← State.headMsg, htake]
  dsimp only
  rw [if_neg (by decide), hmsg, hsame]
  rfl

/-- The doorbell of one NOP. -/
theorem doorbell_nop (h : Stated.Reaches s init) (hr : r < 9) (hothers : Stated.OthersQuiet s r)
    (hbase : s.ringBase r 0 + 64 * s.sqSize r ≤ 2 ^ 47) (hs : s.served r = true)
    (hcrc : crc16 (slice (s.headMsg r) 0 16) = fld (s.headMsg r) 6 2) (hlen : fld (s.headMsg r) 4 2 = 1)
    (hop : fld (s.headMsg r) 2 2 = 3) :
    ∃ t, exec (.doorbell init r (BitVec.ofNat 32 (s.ringRg r 0x18 + 1))) s = .next t ∧ t.mem = s.mem ∧
      t.ringRg r 0x18 = (s.ringRg r 0x18 + 1) % 2 ^ 32 ∧ t.ring r = Stated.numbered s r (s.headMsg r) ∧
      (t.ring r).expSeq = (fld (s.headMsg r) 8 4 + 1) % 2 ^ 32 := by
  have c := h.1
  have cc := State.canon_consumed c r 1
  obtain ⟨y, hy⟩ : ∃ y, y = (BitVec.ofNat 32 (s.ringRg r 0x18 + 1)).toNat := ⟨_, rfl⟩
  obtain ⟨hused, hconsume⟩ := State.consume_one c hbase hcrc hlen y (by rw [hy, BitVec.toNat_ofNat, Nat.mod_mod])
  have haccept := State.accept_nop s r (s.headMsg r) hop
  rw [hlen] at haccept
  have hring : ((s.consumed r 1).setRing r (Stated.numbered s r (s.headMsg r))).ring r =
      Stated.numbered s r (s.headMsg r) := State.ring_setRing cc ..
  obtain ⟨z, era, base, hz⟩ := Ring.take_eq (s.ring r) (fld (s.headMsg r) 8 4)
  have hq : ((s.consumed r 1).setRing r (Stated.numbered s r (s.headMsg r))).NothingToTake := by
    refine State.nothingToTake_of_rings (State.nothingToTake_consumed (n := 1) c hothers) rfl rfl (fun q => ?_)
      fun _ _ _ _ => rfl
    by_cases hqr : q = r
    · rw [hqr, hring, Stated.numbered, hz]
      rfl
    · rw [State.ring_setRing_ne cc _ hqr]
  have hserved : (s.setRingRg r 0x14 y).served r = true := by
    rw [← hs, State.served, State.served, State.ringEn, State.ringEn,
      State.ringRg_setRingRg_ne c _ (by unfold ringOff; omega)]
    rfl
  have hquiet : Stated.OthersQuiet (s.setRingRg r 0x14 y) r := by
    intro q hq hqr
    have hrg (off : Nat) (ho : off < 0x40) : (s.setRingRg r 0x14 y).ringRg q off = s.ringRg q off :=
      State.ringRg_setRingRg_far c _ hqr ho (by decide)
    have hsq : (s.setRingRg r 0x14 y).served q = s.served q := by
      rw [State.served, State.served, State.ringEn, State.ringEn, hrg _ (by decide)]
      rfl
    have huq : (s.setRingRg r 0x14 y).sqUsed q = s.sqUsed q := by
      simp only [State.sqUsed, hrg 0x14 (by decide), hrg 0x18 (by decide)]
    rw [hsq, huq]
    exact hothers q hq hqr
  have hserve := State.serve_of_one hr hserved (by rw [hused]; decide) hquiet (by rw [hconsume, haccept]; exact hq)
  refine ⟨(s.consumed r 1).setRing r (Stated.numbered s r (s.headMsg r)), ?_, rfl, ?_, hring, ?_⟩
  · rw [exec_doorbell h hr, ← hy, hserve, hconsume, haccept]
  · exact (State.pg_setRing ..).trans (State.head_consumed c)
  · rw [hring]
    exact Ring.expSeq_take _ (fld_lt _ 8 4)

/-! ## RING_CFG (R329, R335, R349) -/

theorem exec_ringCfgEn (h : Stated.Reaches s init) (hr : r < 9) :
    exec (.ringCfgEn init r v) s = .next (s.writeRingCfg r v.toNat).serve :=
  (State.pageWrite_ring h hr (by decide)).trans (by rw [(State.writeHost_ring s r v hr).1])

theorem exec_ringCfgRst (h : Stated.Reaches s init) (hr : r < 9) :
    exec (.ringCfgRst init r v) s = .next (s.writeRingCfg r (v ||| 0x20000).toNat).serve :=
  (State.pageWrite_ring h hr (by decide)).trans (by rw [(State.writeHost_ring s r (v ||| 0x20000) hr).1])

/-- The fields of a word of RING_CFG. -/
theorem ringCfg_fields {a b w : Nat} (ha : a ≤ 16) (hb : b ≤ 16) (e f : Bool)
    (hw : w = a + 256 * b + 65536 * b2n e + 131072 * b2n f) :
    bits w 4 0 = a ∧ bits w 12 8 = b ∧ bit w 16 = e ∧ bit w 17 = f := by
  have hbit (x : Bool) : b2n x ≤ 1 ∧ (x = true ↔ b2n x = 1) := by cases x <;> decide
  obtain ⟨he, he'⟩ := hbit e
  obtain ⟨hf, hf'⟩ := hbit f
  refine ⟨?_, ?_, ?_, ?_⟩
  · unfold bits; omega
  · unfold bits; omega
  · unfold bit
    rw [Bool.eq_iff_iff, decide_eq_true_eq, he']
    omega
  · unfold bit
    rw [Bool.eq_iff_iff, decide_eq_true_eq, hf']
    omega

/-- A ring that is enabled: its configuration, its pointers and its record. -/
def State.ringEnabled (s : State) (r cfg : Nat) : State :=
  (((s.setRingRg r 0x10 cfg).setRingRg r 0x18 0).setRingRg r 0x20 0).modRing r fun g =>
    { g.renumber with vents := 0, cfgErr := false, hist := [], waitq := [], irqCnt := 0 }

theorem ringCfg_enables (h : Stated.Reaches s init) (hr : r < 9) (hothers : Stated.OthersQuiet s r) {a b : Nat}
    (hen : s.ringEn r = false) (ha : 6 ≤ a) (ha' : a ≤ 16) (hb : 6 ≤ b) (hb' : b ≤ 16) (htail : s.ringRg r 0x14 = 0)
    (hhead : s.ringRg r 0x1C = 0) (hsq : s.ringBase r 0 % (64 * 2 ^ a) = 0) (hcq : s.ringBase r 8 % (64 * 2 ^ b) = 0) :
    ∃ t, exec (.ringCfgEn init r (BitVec.ofNat 32 (a + 256 * b + 65536))) s = .next t ∧ t.mem = s.mem ∧
      t.ringEn r = true ∧ t.sqSize r = 2 ^ a ∧ t.cqSize r = 2 ^ b ∧ t.ringRg r 0x18 = 0 ∧ t.ringRg r 0x20 = 0 ∧
      (t.ring r).expSeq = 0 ∧ (t.ring r).cfgErr = false := by
  have c := h.1
  obtain ⟨cfg, hcfg⟩ : ∃ cfg, cfg = a + 256 * b + 65536 := ⟨_, rfl⟩
  obtain ⟨hn, hm, h16, h17⟩ := ringCfg_fields ha' hb' true false hcfg
  have hword : (BitVec.ofNat 32 (a + 256 * b + 65536)).toNat = cfg := by
    rw [BitVec.toNat_ofNat]
    omega
  have hsame : a + b * 2 ^ 8 + b2n true * 2 ^ 16 = cfg := by
    rw [hcfg, b2n, if_pos rfl]
    omega
  have hwrite : s.writeRingCfg r cfg = s.ringEnabled r cfg := by
    rw [State.writeRingCfg]
    dsimp only
    rw [hn, hm, h16, h17, hsame, if_neg (by omega), hen, if_neg nofun, if_pos rfl,
      if_pos ⟨htail, hhead, by simp [hsq], by simp [hcq]⟩, if_neg nofun]
    rfl
  have c₁ := State.canon_setRingRg c r 0x10 cfg
  have c₂ := State.canon_setRingRg c₁ r 0x18 0
  have c₃ := State.canon_setRingRg c₂ r 0x20 0
  have hrg10 : (s.ringEnabled r cfg).ringRg r 0x10 = cfg := by
    refine (State.ringRg_setRingRg_ne c₂ _ (by unfold ringOff; omega)).trans
      ((State.ringRg_setRingRg_ne c₁ _ (by unfold ringOff; omega)).trans ((State.ringRg_setRingRg c ..).trans ?_))
    exact Nat.mod_eq_of_lt (by rw [hcfg]; omega)
  have hrg18 : (s.ringEnabled r cfg).ringRg r 0x18 = 0 :=
    (State.ringRg_setRingRg_ne c₂ _ (by unfold ringOff; omega)).trans (State.ringRg_setRingRg c₁ ..)
  have hrg14 : (s.ringEnabled r cfg).ringRg r 0x14 = 0 :=
    (State.ringRg_setRingRg_ne c₂ _ (by unfold ringOff; omega)).trans
      ((State.ringRg_setRingRg_ne c₁ _ (by unfold ringOff; omega)).trans
        ((State.ringRg_setRingRg_ne c _ (by unfold ringOff; omega)).trans htail))
  have hring : (s.ringEnabled r cfg).ring r =
      { (s.ring r).renumber with vents := 0, cfgErr := false, hist := [], waitq := [], irqCnt := 0 } :=
    State.ring_modRing c₃ ..
  have hq : (s.ringEnabled r cfg).NothingToTake := by
    refine State.nothingToTake_of_ring hothers (.inr ?_) rfl rfl (fun q hqr => ?_) fun q _ hqr off ho => ?_
    · rw [State.sqUsed, hrg14, hrg18]
      rfl
    · exact congrArg Ring.stopped (State.ring_setRing_ne c₃ _ hqr)
    · have ho' : off < 0x40 := by simp at ho; omega
      exact (State.ringRg_setRingRg_far c₂ _ hqr ho' (by decide)).trans
        ((State.ringRg_setRingRg_far c₁ _ hqr ho' (by decide)).trans
          (State.ringRg_setRingRg_far c _ hqr ho' (by decide)))
  refine ⟨s.ringEnabled r cfg, ?_, rfl, ?_, ?_, ?_, hrg18, State.ringRg_setRingRg c₂ .., ?_, ?_⟩
  · rw [exec_ringCfgEn h hr, hword, hwrite, State.serve_of_nothingToTake hq]
  · rw [State.ringEn, hrg10, h16]
  · rw [State.sqSize, hrg10, hn]
  · rw [State.cqSize, hrg10, hm]
  · rw [hring]
    rfl
  · rw [hring]

/-- A ring with unanswered messages stays enabled. -/
theorem ringCfg_keeps (h : Stated.Reaches s init) (hr : r < 9) (hothers : Stated.OthersQuiet s r) {a b : Nat}
    (hen : s.ringEn r = true) (ha : 6 ≤ a) (ha' : a ≤ 16) (hb : 6 ≤ b) (hb' : b ≤ 16) (hopens : (s.ring r).opens ≠ [])
    (hs : s.served r = false ∨ s.sqUsed r = 0) :
    ∃ t, exec (.ringCfgEn init r (BitVec.ofNat 32 (a + 256 * b))) s = .next t ∧ t.ringEn r = true ∧
      t.ring r = { s.ring r with cfgErr := true } ∧ t.ringRg r 0x10 = s.ringRg r 0x10 := by
  have c := h.1
  obtain ⟨hn, hm, h16, h17⟩ := ringCfg_fields ha' hb' false false rfl
  have hword : (BitVec.ofNat 32 (a + 256 * b)).toNat = a + 256 * b + 65536 * b2n false + 131072 * b2n false := by
    rw [BitVec.toNat_ofNat, b2n, if_neg nofun]
    omega
  have hwrite : s.writeRingCfg r (a + 256 * b + 65536 * b2n false + 131072 * b2n false) = s.ringCfgErr r := by
    rw [State.writeRingCfg]
    dsimp only
    rw [hn, hm, h16, h17, if_neg (by omega), hen, if_pos rfl, if_neg nofun, if_neg (by simpa using hopens)]
  have hring : (s.ringCfgErr r).ring r = { s.ring r with cfgErr := true } := State.ring_modRing c ..
  have hq : (s.ringCfgErr r).NothingToTake := by
    refine State.nothingToTake_of_ring hothers ?_ rfl rfl (fun q hqr => ?_) fun _ _ _ _ _ => rfl
    · have hserved : (s.ringCfgErr r).served r = s.served r := by
        rw [State.served, State.served, hring]
        rfl
      rw [hserved]
      exact hs
    · exact congrArg Ring.stopped (State.ring_setRing_ne c _ hqr)
  refine ⟨s.ringCfgErr r, ?_, hen, hring, rfl⟩
  rw [exec_ringCfgEn h hr, hword, hwrite, State.serve_of_nothingToTake hq]

/-- RST beside a configuration that the ring has restarts its submission side. -/
theorem ringCfg_restarts (h : Stated.Reaches s init) (hr : r < 9) (hothers : Stated.OthersQuiet s r) {a b : Nat}
    (hreg : s.ringRg r 0x10 = a + 256 * b + 65536) (ha : 6 ≤ a) (ha' : a ≤ 16) (hb : 6 ≤ b) (hb' : b ≤ 16) :
    ∃ t, exec (.ringCfgRst init r (BitVec.ofNat 32 (s.ringRg r 0x10))) s = .next t ∧ t.mem = s.mem ∧
      t.ringRg r 0x18 = s.ringRg r 0x14 ∧
      t.ring r = { s.ring r with expSeq := 0, era := (s.ring r).era + 1, base := 0, ver := 0, neg := false, feat := 0,
                                 stopped := false } := by
  have c := h.1
  obtain ⟨w, hw⟩ : ∃ w, w = a + 256 * b + 65536 * b2n true + 131072 * b2n true := ⟨_, rfl⟩
  obtain ⟨hn, hm, h16, h17⟩ := ringCfg_fields ha' hb' true true hw
  rw [b2n, if_pos rfl] at hw
  have hen : s.ringEn r = true := by
    obtain ⟨-, -, hbit, -⟩ := ringCfg_fields (w := a + 256 * b + 65536) ha' hb' true false rfl
    rw [State.ringEn, hreg]
    exact hbit
  have hword : (BitVec.ofNat 32 (s.ringRg r 0x10) ||| 0x20000).toNat = w := by
    have hlt : a + 256 * b + 65536 < 2 ^ 17 := by omega
    have hadd := Nat.two_pow_add_eq_or_of_lt hlt 1
    rw [hreg, BitVec.toNat_or, BitVec.toNat_ofNat, Nat.mod_eq_of_lt (by omega), Nat.or_comm]
    change 2 ^ 17 * 1 ||| _ = _
    rw [← hadd]
    omega
  have hwrite : s.writeRingCfg r w = s.ringRestart r := by
    rw [State.writeRingCfg]
    dsimp only
    rw [hn, hm, h16, h17, if_neg (by omega), hen, if_pos rfl, if_pos rfl,
      if_pos (by rw [hreg, b2n, if_pos rfl]; omega), if_pos rfl]
  have c₁ := State.canon_setRingRg c r 0x18 (s.ringRg r 0x14)
  have htail : s.ringRg r 0x14 < 2 ^ 32 := State.pg_lt ..
  have hrg18 : (s.ringRestart r).ringRg r 0x18 = s.ringRg r 0x14 :=
    (State.ringRg_setRingRg c ..).trans (Nat.mod_eq_of_lt htail)
  have hrg14 : (s.ringRestart r).ringRg r 0x14 = s.ringRg r 0x14 :=
    State.ringRg_setRingRg_ne c _ (by unfold ringOff; omega)
  have hq : (s.ringRestart r).NothingToTake := by
    refine State.nothingToTake_of_ring hothers (.inr ?_) rfl rfl (fun q hqr => ?_) fun q _ hqr off ho => ?_
    · rw [State.sqUsed, hrg14, hrg18]
      omega
    · exact congrArg Ring.stopped (State.ring_setRing_ne c₁ _ hqr)
    · exact State.ringRg_setRingRg_far c _ hqr (by simp at ho; omega) (by decide)
  refine ⟨s.ringRestart r, ?_, rfl, hrg18, State.ring_modRing c₁ ..⟩
  rw [exec_ringCfgRst h hr, hword, hwrite, State.serve_of_nothingToTake hq]

/-! ## CQ_HEAD (R331) -/

theorem exec_cqHeadWrite (h : Stated.Reaches s init) (hr : r < 9) :
    exec (.cqHeadWrite init r v) s = .next ((s.setRingRg r 0x1C v.toNat).flush r).serve :=
  (State.pageWrite_ring h hr (by decide)).trans (by rw [(State.writeHost_ring s r v hr).2.2])

/-- CQ_HEAD moves no pointer of the submission ring. -/
theorem nothingToTake_cqHead (c : s.Canon) (hothers : Stated.OthersQuiet s r)
    (hs : s.served r = false ∨ s.sqUsed r = 0) (x : Nat) : (s.setRingRg r 0x1C x).NothingToTake := by
  have hrg (off : Nat) (ho : off ≠ 0x1C) : (s.setRingRg r 0x1C x).ringRg r off = s.ringRg r off :=
    State.ringRg_setRingRg_ne c _ (by unfold ringOff; omega)
  have hserved : (s.setRingRg r 0x1C x).served r = s.served r := by
    rw [State.served, State.served, State.ringEn, State.ringEn, hrg _ (by decide)]
    rfl
  have hused : (s.setRingRg r 0x1C x).sqUsed r = s.sqUsed r := by
    simp only [State.sqUsed, hrg 0x14 (by decide), hrg 0x18 (by decide)]
  exact nothingToTake_setRingRg c hothers (by decide) (by rw [hserved, hused]; exact hs)

theorem State.drain_of_empty (h : (s.ring r).waitq = []) : s.drain r = s := by
  have hnone : s.flushOne r = none := by rw [State.flushOne, h]
  unfold State.drain
  split
  · exact repeatStep_none _ _ _ hnone
  · rfl

theorem cqHead_idle (h : Stated.Reaches s init) (hr : r < 9) (hothers : Stated.OthersQuiet s r) (v : Word)
    (hs : s.served r = false ∨ s.sqUsed r = 0) (hwait : (s.ring r).waitq = []) :
    ∃ t, exec (.cqHeadWrite init r v) s = .next t ∧ t.mem = s.mem ∧ t.rings = s.rings ∧ t.ringRg r 0x1C = v.toNat := by
  have hdrain : (s.setRingRg r 0x1C v.toNat).drain r = s.setRingRg r 0x1C v.toNat := State.drain_of_empty hwait
  refine ⟨s.setRingRg r 0x1C v.toNat, ?_, rfl, rfl, ?_⟩
  · rw [exec_cqHeadWrite h hr, State.flush, hdrain]
    rw [if_neg (Nat.lt_irrefl _), State.serve_of_nothingToTake (nothingToTake_cqHead h.1 hothers hs _)]
  · rw [State.ringRg_setRingRg h.1]
    exact Nat.mod_eq_of_lt v.isLt

/-- An interrupt moves no pointer of a ring. -/
theorem State.ringRg_irqEntry (c : s.Canon) (r : Nat) (urgent : Bool) :
    (s.irqEntry r urgent).ringRg r 0x20 = s.ringRg r 0x20 := by
  have hfire (x : State) (cx : x.Canon) : (x.fireVector r).ringRg r 0x20 = x.ringRg r 0x20 := by
    unfold State.fireVector
    dsimp only
    split
    · exact State.pg_setPg_ne cx _ (by unfold ringOff; omega)
    · obtain ⟨y, hy⟩ := x.setHostBytes_eq_setMem _ _
      rw [hy]
      rfl
  have c₁ : (s.setRing r ((s.ring r).counted s.now)).Canon := State.canon_setRing c ..
  unfold State.irqEntry
  dsimp only
  split
  · exact hfire _ c₁
  · rfl

/-- An entry of one slot that waits is written, whatever it carries, on a ring with no fence. -/
theorem State.writeOne_leaves {e : Entry} (c : s.Canon) (hroom : 1 ≤ s.cqRoom r) (hfences : (s.ring r).fences = [])
    (hbytes : e.bytes.length = 64) (rest : List Entry) : ∃ t, s.writeOne r e rest = some t ∧
      (t.ring r).waitq = rest ∧ (t.ring r).fences = [] ∧ t.ringRg r 0x20 = (s.ringRg r 0x20 + 1) % 2 ^ 32 := by
  have hpos : s.ringRg r 0x20 % s.cqSize r < s.cqSize r := Nat.mod_lt _ (Nat.two_pow_pos _)
  have hslot : e.bytes.length / 64 = 1 := by rw [hbytes]
  obtain ⟨b, hb⟩ : ∃ b, b = sealEntryBytes e.bytes (s.cqPhase r) ((s.ring r).vents % 2 ^ 32) := ⟨_, rfl⟩
  have hlen : b.length = 64 := by rw [hb, length_sealEntryBytes (by omega), hbytes]
  obtain ⟨g, hg⟩ : ∃ g : Ring, g = { s.ring r with
    waitq := rest, vents := (s.ring r).vents + b2n (bit (fld e.bytes 4 2) 14) } := ⟨_, rfl⟩
  have cp : (s.cqPut r b).Canon := (Keeps.cqPut .refl).canon c
  obtain ⟨-, -, htail, -⟩ := State.cqPut_slot (r := r) c hlen
  obtain ⟨y, hy, cy, hyring, hytail⟩ : ∃ y, y = (match e.ans with
      | some (q, st) => ((s.cqPut r b).setRing r g).answered r q st
      | none => (s.cqPut r b).setRing r g) ∧ y.Canon ∧ ((y.ring r).waitq = rest ∧ (y.ring r).fences = []) ∧
      y.ringRg r 0x20 = (s.ringRg r 0x20 + 1) % 2 ^ 32 := by
    have cg : ((s.cqPut r b).setRing r g).Canon := State.canon_setRing cp ..
    have hring : ((s.cqPut r b).setRing r g).ring r = g := State.ring_setRing cp ..
    refine ⟨_, rfl, ?_⟩
    split
    case h_1 q st _ =>
      have hrec := State.answered_records cg r q st
      refine ⟨hrec.canon, ?_, ?_⟩
      · rw [hrec.ring, hring, hg]
        exact ⟨rfl, hfences⟩
      · exact (State.pg_of_bus hrec.bus ..).trans htail
    case h_2 =>
      refine ⟨cg, ?_, htail⟩
      rw [hring, hg]
      exact ⟨rfl, hfences⟩
  obtain ⟨hwait, hnone⟩ := hyring
  obtain ⟨-, hf, hw⟩ := State.ring_irqEntry cy r e.urgent
  have hpump : (y.irqEntry r e.urgent).fencePump r = y.irqEntry r e.urgent :=
    State.fencePump_of_nil (hf.trans hnone)
  refine ⟨y.irqEntry r e.urgent, ?_, hw.trans hwait, hf.trans hnone, ?_⟩
  · rw [State.writeOne, hslot]
    dsimp only
    rw [if_neg (show ¬ s.ringRg r 0x20 % s.cqSize r + 1 > s.cqSize r by omega),
      if_neg (show ¬ s.cqRoom r < 0 + 1 by omega), if_pos rfl, ← hb, ← hg, ← hpump, hy] <;> rfl
  · exact (State.ringRg_irqEntry cy r e.urgent).trans hytail

theorem cqHead_flushes (h : Stated.Reaches s init) (hr : r < 9) (hothers : Stated.OthersQuiet s r)
    (v : Word) {e : Entry}
    (hs : s.served r = false ∨ s.sqUsed r = 0) (hpins : s.drives 0 = true) (hen : s.ringEn r = true)
    (hwait : (s.ring r).waitq = [e]) (hfences : (s.ring r).fences = []) (hbytes : e.bytes.length = 64)
    (hroom : 1 ≤ s.cqSize r - (s.ringRg r 0x20 + 2 ^ 32 - v.toNat) % 2 ^ 32) :
    ∃ t, exec (.cqHeadWrite init r v) s = .next t ∧ (t.ring r).waitq = [] ∧
      t.ringRg r 0x20 = (s.ringRg r 0x20 + 1) % 2 ^ 32 := by
  have c := h.1
  obtain ⟨x, hx⟩ : ∃ x, x = s.setRingRg r 0x1C v.toNat := ⟨_, rfl⟩
  have cx : x.Canon := hx ▸ State.canon_setRingRg c ..
  have hring : x.ring r = s.ring r := hx ▸ rfl
  have hrg (off : Nat) (ho : off ≠ 0x1C) : x.ringRg r off = s.ringRg r off :=
    hx ▸ State.ringRg_setRingRg_ne c _ (by unfold ringOff; omega)
  have hhead : x.ringRg r 0x1C = v.toNat := by
    rw [hx, State.ringRg_setRingRg c]
    exact Nat.mod_eq_of_lt v.isLt
  have hroomx : 1 ≤ x.cqRoom r := by
    rw [State.cqRoom, State.cqSize, hrg _ (by decide), hrg _ (by decide), hhead]
    exact hroom
  obtain ⟨t, hwrite, hempty, hnone, htail⟩ := State.writeOne_leaves cx hroomx (by rw [hring]; exact hfences) hbytes []
  have hflush : x.flushOne r = some t := by
    rw [State.flushOne, hring, hwait]
    exact hwrite
  have hstop : t.flushOne r = none := by rw [State.flushOne, hempty]
  have henx : x.ringEn r = true := by
    rw [← hen, State.ringEn, State.ringEn, hrg _ (by decide)]
  have hdrain : x.drain r = t := by
    have hready : x.dev.state = .ready := hx ▸ h.2.1
    have hpinsx : x.drives 0 = true := hx ▸ hpins
    rw [State.drain, if_pos ⟨hready, henx, hpinsx⟩, repeatStep_some _ _ _ _ hflush,
      repeatStep_none _ _ _ hstop]
  have hflushed : x.flush r = t := by
    rw [State.flush, hdrain]
    rw [hnone, hring, hfences, if_neg (Nat.lt_irrefl _)]
  have hq : t.NothingToTake := by
    rw [← hflushed]
    exact (Posts.flush hr x cx).nothingToTake (hx ▸ nothingToTake_cqHead c hothers hs _)
  refine ⟨t, ?_, hempty, by rw [htail, hrg _ (by decide)]⟩
  rw [exec_cqHeadWrite h hr, ← hx, hflushed, State.serve_of_nothingToTake hq]

/-! ## The interrupt timer (R333) -/

theorem irqTimer_fires (c : s.Canon) (hr : r < 9) (hcnt : bits (s.ringRg r 0x24) 7 0 ≠ 0)
    (htime : bits (s.ringRg r 0x24) 23 8 ≠ 0) (hirq : (s.ring r).irqCnt ≠ 0)
      (hnew : s.ringRg r 0x1C ≠ s.ringRg r 0x20) :
    ∃ t, exec (.irqTimer r) s = .next t ∧ (t.ring r).irqCnt = 0 ∧
      (bit (s.pg .host 0 (0x80C + 16 * r)) 0 = true → t.mem = s.mem ∧ bit (t.pg .host 0 0xC00) r = true) ∧
      (bit (s.pg .host 0 (0x80C + 16 * r)) 0 = false → t.mem = (s.setHostBytes
        (s.pg .host 0 (0x800 + 16 * r) + 2 ^ 32 * s.pg .host 0 (0x804 + 16 * r))
        (leBytes 4 (s.pg .host 0 (0x808 + 16 * r)))).mem) := by
  have hoff : 0x800 + 16 * r + 12 = 0x80C + 16 * r := by omega
  have h4 : 0x800 + 16 * r + 4 = 0x804 + 16 * r := by omega
  have h8 : 0x800 + 16 * r + 8 = 0x808 + 16 * r := by omega
  have cf : (s.fireVector r).Canon := (Keeps.fireVector .refl).canon c
  have hexec : exec (.irqTimer r) s = .next (s.irqFire r) := if_pos ⟨hcnt, htime, hirq, hnew⟩
  refine ⟨_, hexec, ?_, fun hmask => ?_, fun hmask => ?_⟩
  · rw [State.irqFire, State.ring_modRing cf]
  · have hfire : s.fireVector r = s.setPg .host 0 0xC00 (s.pg .host 0 0xC00 ||| 2 ^ r) := by
      rw [State.fireVector]
      rw [hoff, if_pos hmask]
    refine ⟨?_, ?_⟩
    · change (s.fireVector r).mem = _
      rw [hfire]
      rfl
    · change bit ((s.fireVector r).pg .host 0 0xC00) r = true
      rw [hfire, State.pg_setPg c, bit_eq_testBit, Nat.testBit_mod_two_pow, Nat.testBit_or, Nat.testBit_two_pow_self]
      simp
      omega
  · change (s.fireVector r).mem = _
    rw [State.fireVector]
    rw [hoff, if_neg (by rw [hmask]; nofun), h4, h8]

end Sys2Proof.Machine

open Sys2Proof Sys2Proof.Machine in
/-- Settles O44: each register of a ring is what its write does, and the rings are served after it. -/
theorem ringsAreControlled : Obligations.RingsAreControlled := by
  intro s init r h hr hothers
  refine ⟨fun v hs => doorbell_waits h hr hothers hs v, fun hbase hs hcrc hlen hop =>
    doorbell_nop h hr hothers hbase hs hcrc hlen hop, fun a b hen ha ha' hb hb' htail hhead hsq hcq =>
    ringCfg_enables h hr hothers hen ha ha' hb hb' htail hhead hsq hcq, fun hen ha ha' hb hb' hopens hs =>
    ringCfg_keeps h hr hothers hen ha ha' hb hb' hopens hs, fun hreg ha ha' hb hb' =>
    ringCfg_restarts h hr hothers hreg ha ha' hb hb', fun v hs hwait _ =>
    cqHead_idle h hr hothers v hs hwait, fun v e hs hpins hen hwait hfences hbytes hroom =>
    cqHead_flushes h hr hothers v hs hpins hen hwait hfences hbytes hroom, fun hcnt htime hirq hnew =>
    irqTimer_fires h.1 hr hcnt htime hirq hnew⟩

end

section
/-! SUPPORT. Memory messages of the management ring (R211 to R213, R423). -/
set_option Elab.async false

namespace Sys2Proof.Machine

variable {s t z : State} {r q op n k : Nat} {m : List Byte} {o : Compl}

/-! ## Control messages with an answer, and those whose answer is owed -/

/-- A message is answered after what it changed elsewhere. -/
theorem answered_after_taken (h : Stated.Comes s r op m) (h1 : op ≠ 1) (hs : RingsSame (Stated.taken s r m) z)
    (cz : z.Canon)
    (hm : z.mem = s.mem) (ht : z.dev.time = s.dev.time) (o : Compl) :
    ∃ t, (z.answerMsg r (Stated.number s r m) m o).serve = t ∧ Traffic z t ∧ Stated.Answered s t r m o := by
  obtain ⟨hq, hresp⟩ := respond_after_taken h hs cz hm ht (fld m 2 2) (fld m 1 1) (Stated.number s r m) (fld m 12 4) o 0
  have hans : z.answerMsg r (Stated.number s r m) m o =
      z.respond r (fld m 2 2) (fld m 1 1) (Stated.number s r m) (fld m 12 4) o 0 := if_neg (h.isOp ▸ h1)
  rw [hans, State.serve_of_nothingToTake hq]
  exact ⟨_, rfl, Posts.respond h.range _ _ _ _ _ _ _ cz, hresp⟩

section
variable (h : Stated.Sent s r op m) (h3 : op ≠ 3) {x : State × Option Compl}
  (hcarry : (Stated.taken s r m).carry r (Stated.number s r m) m = State.ctlDone r (Stated.number s r m) m x)
  (hs : RingsSame (Stated.taken s r m) x.1)
include h h3 hcarry hs

theorem msgRow_answered (h1 : op ≠ 1) (hx : x.2 = some o) (cz : x.1.Canon) (hm : x.1.mem = s.mem)
    (ht : x.1.dev.time = s.dev.time) :
    ∃ t, s.msgRow op r m = .next t ∧ Traffic x.1 t ∧ Stated.Answered s t r m o := by
  obtain ⟨t, hserve, htraffic, hans⟩ := answered_after_taken h.toComes h1 hs cz hm ht o
  refine ⟨t, ?_, htraffic, hans⟩
  rw [State.msgRow_carried h3 h, hcarry, State.ctlDone, hx]
  exact congrArg Host.Outcome.next hserve

theorem msgRow_owed (hx : x.2 = none) : s.msgRow op r m = .next x.1 := by
  rw [State.msgRow_carried h3 h, hcarry, State.ctlDone, hx]
  exact congrArg Host.Outcome.next (State.serve_of_nothingToTake (hs.nothingToTake (nothingToTake_taken h.toComes)))

end

theorem State.carry_mem (s : State) (n : Nat) (m : List Byte) (hop : fld m 2 2 = 0x110 ∨ fld m 2 2 = 0x111) :
    s.carry 8 n m = State.ctlDone 8 n m (s.memMsg (fld m 2 2 == 0x111) n (w32 (fld m 12 4)) m) := by
  rw [State.carry]
  obtain h | h := hop
  · rw [h]
    rfl
  · rw [h]
    rfl

theorem State.carry_seal (s : State) (n : Nat) (m : List Byte) (hop : fld m 2 2 = 0x118) :
    s.carry 8 n m = State.ctlDone 8 n m (s.teacherSealOp.1, some s.teacherSealOp.2) := by
  rw [State.carry, hop]
  rfl

theorem State.carry_unseal (s : State) (n : Nat) (m : List Byte) (hop : fld m 2 2 = 0x119) :
    s.carry 8 n m = State.ctlDone 8 n m (s.teacherUnsealOp.1, some s.teacherUnsealOp.2) := by
  rw [State.carry, hop]
  rfl

/-! ## Granules -/

theorem State.canon_setGran (c : s.Canon) (k : Nat) (x : Gran) : (s.setGran k x).Canon := (Keeps.setGran .refl).canon c

/-- Every listed granule takes the same change, which made twice is made once. -/
theorem State.gran_foldl_setGran {f : Gran → Gran} (hf : ∀ x, f (f x) = f x) (c : s.Canon) (ks : List Nat) :
    let t := ks.foldl (fun s k => s.setGran k (f (s.gran k))) s
    t.Canon ∧ Moves [.stk] s t ∧ t.stk = { s.stk with gran := t.stk.gran } ∧
      ∀ g, t.gran g = if g ∈ ks then f (s.gran g) else s.gran g := by
  induction ks generalizing s with
  | nil => exact ⟨c, .refl, rfl, fun _ => rfl⟩
  | cons k ks ih =>
    obtain ⟨hc, hm, hstk, hg⟩ := ih (State.canon_setGran c k (f (s.gran k)))
    refine ⟨hc, (Moves.setStk s _).andThen hm, hstk, fun g => (hg g).trans ?_⟩
    by_cases hk : g = k
    · rw [hk, State.gran_setGran c, hf, ite_self, if_pos List.mem_cons_self]
    · rw [State.gran_setGran_ne c _ hk]
      exact if_congr (by simp [hk]) rfl rfl

/-! ## MEM_ALLOC and MEM_FREE (R423) -/

theorem nodup_of_nodup {l : List Nat} (h : l.Nodup) : nodup l = true := by
  induction l with
  | nil => rfl
  | cons a l ih =>
    obtain ⟨ha, hl⟩ := List.nodup_cons.mp h
    simp [nodup, ih hl, ha]

/-- A list of granules that a memory message may name: its form, its bytes and its owner. -/
structure State.Lists (s : State) (m : List Byte) : Prop where
  stack : fld m 16 1 ≤ 11
  zero : fld m 18 2 = 0
  whole : reservedAddr (fld m 24 8) (2 * fld m 20 4) = false
  within : s.firstBad 8 false (fld m 24 8) (2 * fld m 20 4) = none
  sound : s.poisoned [(fld m 24 8, 2 * fld m 20 4, false)] = none
  apart : (s.list16 8 (fld m 24 8) (fld m 20 4)).Nodup
  real : ∀ g ∈ s.list16 8 (fld m 24 8) (fld m 20 4), g < granCount
  owner : (fld m 17 1 < 8 ∧ (s.part (fld m 17 1)).st.memLegal = true) ∨
    (fld m 17 1 = 8 ∧ s.regionSealed = false ∧ s.regionSealing = false)

/-- The granules of that list. -/
def State.listed (s : State) (m : List Byte) : List Nat :=
  (s.list16 8 (fld m 24 8) (fld m 20 4)).map (granKey (fld m 16 1))

section
variable (h : s.Lists m) (q : Nat) (tag : Word)
include h

theorem State.memMsg_of_lists (free : Bool) : s.memMsg free q tag m =
    if free then
      if (s.listed m).any fun k => (s.gran k).owner ≠ fld m 17 1 then (s, some (.of 3))
      else if (s.listed m).isEmpty then (s, some { Compl.ok with result := leBytes 4 0 })
      else
        let t := (s.listed m).foldl (fun s k => s.setGran k { s.gran k with releasing := true }) s
        (t.setStk { t.stk with frees := t.stk.frees ++ [(q, tag, (s.listed m).length, s.listed m)] }, none)
    else if (s.listed m).any fun k => (s.gran k).owner ≠ 0xF then (s, some (.of 4))
    else ((s.listed m).foldl (fun s k => s.setOwner k (fld m 17 1)) s,
      some { Compl.ok with result := leBytes 4 (s.listed m).length }) := by
  obtain ⟨hstack, hzero, hwhole, hwithin, hsound, hapart, hreal, howner⟩ := h
  have hown : ¬ 8 < fld m 17 1 := by omega
  have hany : ((s.list16 8 (fld m 24 8) (fld m 20 4)).any (· ≥ granCount) ||
      !nodup (s.list16 8 (fld m 24 8) (fld m 20 4))) = false := by
    rw [nodup_of_nodup hapart, Bool.or_eq_false_iff]
    refine ⟨List.any_eq_false.mpr fun g hg => ?_, rfl⟩
    have := hreal g hg
    simp only [ge_iff_le, decide_eq_true_eq]
    omega
  have hlegal : ¬ (fld m 17 1 < 8 ∧ (!(s.part (fld m 17 1)).st.memLegal) = true) := by
    rintro ⟨hlt, hno⟩
    obtain ⟨-, hyes⟩ | ⟨heq, -⟩ := howner
    · rw [hyes] at hno
      exact absurd hno nofun
    · omega
  have hopen : ¬ (fld m 17 1 = 8 ∧ (s.regionSealed = true ∨ s.regionSealing = true)) := by
    rintro ⟨heq, hno⟩
    obtain ⟨hlt, -⟩ | ⟨-, ha, hb⟩ := howner
    · omega
    · rw [ha, hb] at hno
      exact absurd hno (by decide)
  rw [State.memMsg]
  dsimp only
  rw [if_neg (by omega), if_neg hown, if_neg (by simp [hzero]), hwhole, if_neg nofun, hwithin, hsound]
  dsimp only
  rw [hany, if_neg nofun, if_neg hlegal, if_neg (by simpa using hopen)]
  rfl

theorem State.memMsg_alloc (hfree : ∀ k ∈ s.listed m, (s.gran k).owner = 0xF) : s.memMsg false q tag m =
    ((s.listed m).foldl (fun s k => s.setOwner k (fld m 17 1)) s,
      some { Compl.ok with result := leBytes 4 (fld m 20 4) }) := by
  have hany : ¬ ((s.listed m).any fun k => (s.gran k).owner ≠ 0xF) = true := by
    simpa using hfree
  have hlen : (s.listed m).length = fld m 20 4 := by simp [State.listed, State.list16]
  rw [State.memMsg_of_lists h, if_neg nofun, if_neg hany, hlen]

theorem State.memMsg_free (hown : ∀ k ∈ s.listed m, (s.gran k).owner = fld m 17 1) (hne : s.listed m ≠ []) :
    s.memMsg true q tag m =
      let t := (s.listed m).foldl (fun s k => s.setGran k { s.gran k with releasing := true }) s
      (t.setStk { t.stk with frees := t.stk.frees ++ [(q, tag, (s.listed m).length, s.listed m)] }, none) := by
  have hany : ¬ ((s.listed m).any fun k => (s.gran k).owner ≠ fld m 17 1) = true := by
    simpa using hown
  rw [State.memMsg_of_lists h, if_pos rfl, if_neg hany, if_neg (by simpa using hne)]

end

theorem SameWrites.gran (h : SameWrites s t) (k : Nat) : t.gran k = s.gran k := State.gran_of_stk h.stk k

theorem SameWrites.poisonedGo (h : SameWrites s t) (e n a : Nat) : t.poisonedGo e n a = s.poisonedGo e n a := by
  induction n generalizing a with
  | zero => rfl
  | succ n ih =>
    unfold State.poisonedGo
    simp only [h.gran, ih]

theorem SameWrites.poisoned (h : SameWrites s t) (rs : List Range) : t.poisoned rs = s.poisoned rs := by
  unfold State.poisoned
  simp only [h.poisonedGo]

theorem SameWrites.list16 (h : SameWrites s t) (tag a n : Nat) : t.list16 tag a n = s.list16 tag a n := by
  unfold State.list16
  simp only [h.rd]

theorem SameWrites.listed (h : SameWrites s t) (m : List Byte) : t.listed m = s.listed m := by
  unfold State.listed
  rw [h.list16]

theorem SameWrites.lists (h : SameWrites s t) (hl : s.Lists m) : t.Lists m where
  stack := hl.stack
  zero := hl.zero
  whole := hl.whole
  within := by rw [h.firstBad]; exact hl.within
  sound := by rw [h.poisoned]; exact hl.sound
  apart := by rw [h.list16]; exact hl.apart
  real := by rw [h.list16]; exact hl.real
  owner := by
    rw [State.part_eq_of_parts h.parts, State.regionSealed, State.regionSealing, State.stack, h.stk]
    exact hl.owner

theorem sameWrites_taken (s : State) (r : Nat) (m : List Byte) : SameWrites s (Stated.taken s r m) :=
  .ofMoves (State.moves_taken s r m)

/-- MEM_ALLOC gives the listed granules to their owner. -/
theorem memAlloc_gives (h : Stated.Sent s 8 0x110 m) (hl : s.Lists m)
    (hfree : ∀ k ∈ s.listed m, (s.gran k).owner = 0xF) :
    ∃ t, exec (.memAlloc 8 m) s = .next t ∧ (∀ k ∈ s.listed m, (t.gran k).owner = fld m 17 1) ∧
      (∀ k, k ∉ s.listed m → t.gran k = s.gran k) ∧
      Stated.Answered s t 8 m ⟨0, 0, 0, 0, leBytes 4 (fld m 20 4)⟩ := by
  have hsame := sameWrites_taken s 8 m
  have ct := State.canon_taken h.canon 8 m
  have hlisted := hsame.listed m
  have hmsg := State.memMsg_alloc (hsame.lists hl) (Stated.number s 8 m) (w32 (fld m 12 4))
    (by rw [hlisted]; intro k hk; rw [hsame.gran]; exact hfree k hk)
  rw [hlisted] at hmsg
  have hcarry := State.carry_mem (Stated.taken s 8 m) (Stated.number s 8 m) m (.inl h.isOp)
  rw [h.isOp] at hcarry
  obtain ⟨cz, hm, -, hg⟩ := State.gran_foldl_setGran
    (f := fun x => { x with owner := fld m 17 1, releasing := false }) (fun _ => rfl) ct (s.listed m)
  have hz : ((Stated.taken s 8 m).memMsg (0x110 == 0x111) (Stated.number s 8 m) (w32 (fld m 12 4)) m).1 =
      (s.listed m).foldl (fun s k => s.setOwner k (fld m 17 1)) (Stated.taken s 8 m) := congrArg Prod.fst hmsg
  obtain ⟨t, hrow, htraffic, hans⟩ := msgRow_answered h (by decide) hcarry (hz ▸ RingsSame.ofMoves hm) (by decide)
    (congrArg Prod.snd hmsg) (hz ▸ cz) (hz ▸ hm.mem) (hz ▸ congrArg Dev.time hm.dev)
  have hgran (k : Nat) : t.gran k = if k ∈ s.listed m then
      { s.gran k with owner := fld m 17 1, releasing := false } else s.gran k := by
    rw [htraffic.moves.gran, hz]
    exact (hg k).trans (by rw [hsame.gran])
  refine ⟨t, hrow, fun k hk => ?_, fun k hk => ?_, hans⟩
  · rw [hgran, if_pos hk]
  · rw [hgran, if_neg hk]

/-- MEM_FREE begins their release. -/
theorem memFree_begins (h : Stated.Sent s 8 0x111 m) (hl : s.Lists m) (hne : s.listed m ≠ [])
    (hown : ∀ k ∈ s.listed m, (s.gran k).owner = fld m 17 1) :
    ∃ t, exec (.memFree 8 m) s = .next t ∧ t.mem = s.mem ∧
      (∀ k ∈ s.listed m, t.gran k = { s.gran k with releasing := true }) ∧
      t.stk.frees = s.stk.frees ++
        [(Stated.number s 8 m, BitVec.ofNat 32 (fld m 12 4), (s.listed m).length, s.listed m)] := by
  have hsame := sameWrites_taken s 8 m
  have ct := State.canon_taken h.canon 8 m
  have hlisted := hsame.listed m
  have hmsg := State.memMsg_free (hsame.lists hl) (Stated.number s 8 m) (w32 (fld m 12 4))
    (by rw [hlisted]; intro k hk; rw [hsame.gran]; exact hown k hk) (by rw [hlisted]; exact hne)
  rw [hlisted] at hmsg
  have hcarry := State.carry_mem (Stated.taken s 8 m) (Stated.number s 8 m) m (.inr h.isOp)
  rw [h.isOp] at hcarry
  obtain ⟨cz, hm, hstk, hg⟩ := State.gran_foldl_setGran (f := fun x => { x with releasing := true }) (fun _ => rfl) ct
    (s.listed m)
  generalize (s.listed m).foldl (fun s k => s.setGran k { s.gran k with releasing := true }) (Stated.taken s 8 m) =
    z at *
  have hz : ((Stated.taken s 8 m).memMsg (0x111 == 0x111) (Stated.number s 8 m) (w32 (fld m 12 4)) m).1 =
      z.setStk { z.stk with
        frees := z.stk.frees ++ [(Stated.number s 8 m, w32 (fld m 12 4), (s.listed m).length, s.listed m)] } :=
    congrArg Prod.fst hmsg
  have hmz := hm.andThen (Moves.setStk z { z.stk with
    frees := z.stk.frees ++ [(Stated.number s 8 m, w32 (fld m 12 4), (s.listed m).length, s.listed m)] })
  have hrow := msgRow_owed h (by decide) hcarry (hz ▸ RingsSame.ofMoves hmz) (congrArg Prod.snd hmsg)
  rw [hz] at hrow
  refine ⟨_, hrow, hmz.mem, fun k hk => ?_, ?_⟩
  · refine (hg k).trans ?_
    rw [if_pos hk, hsame.gran]
  · have hfrees : z.stk.frees = s.stk.frees := by
      rw [hstk]
      exact (congrArg Stacks.frees hsame.stk :)
    exact congrArg (· ++ _) hfrees

/-! ## The teacher region (R212, R213) -/

/-- Every granule of one owner code takes another. -/
theorem State.recode_recodes (c : s.Canon) {a b : Nat} (ha : a ≠ 0xF) : (s.recode a b).Canon ∧
    Moves [.stk] s (s.recode a b) ∧ (s.recode a b).stk = { s.stk with gran := (s.recode a b).stk.gran } ∧
    ∀ k, ((s.recode a b).gran k).owner = if (s.gran k).owner = a then b else (s.gran k).owner := by
  obtain ⟨hc, hm, hstk, hg⟩ := State.gran_foldl_setGran (f := fun x => { x with owner := b }) (fun _ => rfl) c
    (s.gransWith fun _ g => g.owner == a)
  refine ⟨hc, hm, hstk, fun k => (congrArg Gran.owner (hg k)).trans ?_⟩
  by_cases hk : (s.gran k).owner = a
  · rw [if_pos hk, if_pos ((State.mem_gransWith_owner c ha k).mpr hk)]
  · rw [if_neg hk, if_neg fun hin => hk ((State.mem_gransWith_owner c ha k).mp hin)]

theorem State.canon_allStacks (c : s.Canon) (f : Stack → Stack) : (s.allStacks f).Canon :=
  List.foldlRecOn (motive := State.Canon) (List.range 12) _ c fun _ hx n _ => State.canon_modStack hx n f

theorem Moves.allStacks (s : State) (f : Stack → Stack) : Moves [.stk] s (s.allStacks f) :=
  .foldl (fun x _ => Moves.setStk x _) _ _

theorem State.stack_of_stk (h : t.stk.st = s.stk.st) (n : Nat) : t.stack n = s.stack n :=
  congrArg (tget Stack.reset · n) h

/-- Event 7 in every stack. -/
def State.sealEvents (s : State) : State := (List.range 12).foldl (fun s n => s.evSet .stack n 7) s

theorem State.canon_sealEvents (c : s.Canon) : s.sealEvents.Canon :=
  List.foldlRecOn (motive := State.Canon) (List.range 12) _ c fun _ hx _ _ => (Keeps.evSet .refl).canon hx

theorem RingsSame.evSet (c : s.Canon) {k : PageKind} {i : Nat} (hk : k ≠ .host) (hp : pageNo .host 0 ≠ pageNo k i)
    (b : Nat) : RingsSame s (s.evSet k i b) :=
  have hm := Moves.evSet s hk
  ⟨congrArg Dev.state hm.dev, hm .taps (by decide), hm.rings, fun _ _ => State.pg_evSet_ne c hk (by omega) (by omega)⟩

theorem State.sealEvents_rings (c : s.Canon) : RingsSame s s.sealEvents ∧ Moves [.bus] s s.sealEvents := by
  have h : s.sealEvents.Canon ∧ RingsSame s s.sealEvents ∧ Moves [.bus] s s.sealEvents := by
    refine List.foldlRecOn (motive := fun x => x.Canon ∧ RingsSame s x ∧ Moves [.bus] s x) (List.range 12) _
      ⟨c, .refl, .refl⟩ fun x hx n _ => ?_
    obtain ⟨cx, hr, hm⟩ := hx
    exact ⟨(Keeps.evSet .refl).canon cx,
      hr.trans (RingsSame.evSet cx (by decide) (by simp only [pageNo]; omega) 7),
      hm.andThen (Moves.evSet x (by decide))⟩
  exact h.2

theorem State.bit_sealEvents (c : s.Canon) {n : Nat} (hn : n < 12) : bit (s.sealEvents.pg .stack n 0x14) 7 = true := by
  have hkeep (ns : List Nat) (x : State) (cx : x.Canon) (h : bit (x.pg .stack n 0x14) 7 = true) :
      bit ((ns.foldl (fun s n => s.evSet .stack n 7) x).pg .stack n 0x14) 7 = true := by
    induction ns generalizing x with
    | nil => exact h
    | cons i ns ih =>
      refine ih _ ((Keeps.evSet .refl).canon cx) ?_
      by_cases hi : i = n
      · rw [hi]
        exact State.bit_evSet_of_bit cx (by decide) (by decide) h
      · rw [State.pg_evSet_ne cx (by decide) (by simp only [pageNo]; omega) (by simp only [pageNo]; omega)]
        exact h
  obtain ⟨as, bs, hsplit⟩ := List.append_of_mem (List.mem_range.mpr hn)
  have ca : (as.foldl (fun s n => s.evSet .stack n 7) s).Canon :=
    List.foldlRecOn (motive := State.Canon) as _ c fun _ hx _ _ => (Keeps.evSet .refl).canon hx
  rw [State.sealEvents, hsplit, List.foldl_append, List.foldl_cons]
  exact hkeep bs _ ((Keeps.evSet .refl).canon ca) (State.bit_evSet_self ca (by decide) (by decide))

/-- The region sealed. -/
def State.sealedRegion (s : State) : State :=
  ((s.allStacks fun x => { x with sealing := true }).recode 8 9).allStacks fun x =>
    { x with sealing := false, sealed := true }

theorem State.sealedRegion_seals (c : s.Canon) : s.sealedRegion.Canon ∧ Moves [.stk] s s.sealedRegion ∧
    (∀ i, i < 12 → (s.sealedRegion.stack i).sealed = true ∧ (s.sealedRegion.stack i).sealing = false) ∧
    ∀ k, (s.sealedRegion.gran k).owner = if (s.gran k).owner = 8 then 9 else (s.gran k).owner := by
  have ca := State.canon_allStacks c fun x => { x with sealing := true }
  obtain ⟨cr, hm, -, hg⟩ := State.recode_recodes (a := 8) (b := 9) ca (by decide)
  refine ⟨State.canon_allStacks cr _, ((Moves.allStacks s _).andThen hm).andThen (Moves.allStacks _ _), fun i hi => ?_,
    fun k => ?_⟩
  · rw [State.sealedRegion, State.stack_allStacks cr _ hi]
    exact ⟨rfl, rfl⟩
  · rw [State.sealedRegion, State.gran_allStacks, hg, State.gran_allStacks]

/-- TEACHER_SEAL makes every teacher granule read-only. -/
theorem teacherSeal_seals (h : Stated.Sent s 8 0x118 m) (hs : (s.stack 0).sealed = false)
    (hi : (s.stack 0).sealing = false)
    (hteacher : ∃ k, k < 12 * 2 ^ 16 ∧ (s.gran k).owner = 8) :
    ∃ t, exec (.teacherSeal 8 m) s = .next t ∧
      (∀ i, i < 12 → (t.stack i).sealed = true ∧ (t.stack i).sealing = false ∧
        bit (t.pg .stack i 0x14) 7 = true) ∧
      (∀ k, (t.gran k).owner = if (s.gran k).owner = 8 then 9 else (s.gran k).owner) ∧
      Stated.Answered s t 8 m ⟨0, 0, 0, 0, []⟩ := by
  obtain ⟨u, hu⟩ : ∃ u, u = Stated.taken s 8 m := ⟨_, rfl⟩
  have cu : u.Canon := hu ▸ State.canon_taken h.canon 8 m
  have hstk : u.stk = s.stk := hu ▸ (sameWrites_taken s 8 m).stk
  have hstack (n : Nat) : u.stack n = s.stack n := State.stack_of_stk (congrArg Stacks.st hstk) n
  have hgran (k : Nat) : u.gran k = s.gran k := State.gran_of_stk hstk k
  have hclosed : ¬ (u.regionSealed || u.regionSealing) = true := by
    rw [State.regionSealed, State.regionSealing, hstack, hs, hi]
    decide
  have hsome : ¬ ((List.range 12).all fun n => (u.teacherGrans n).isEmpty) = true := by
    obtain ⟨k, hk, hown⟩ := hteacher
    intro hall
    have hempty := List.all_eq_true.mp hall (k / 2 ^ 16) (List.mem_range.mpr (by omega))
    have hin : k ∈ u.teacherGrans (k / 2 ^ 16) := by
      rw [State.teacherGrans, State.gransWith, List.mem_map]
      refine ⟨(k, u.gran k), List.mem_filter.mpr ⟨mem_of_tget_ne fun hf => ?_, ?_⟩, rfl⟩
      · have howner := congrArg Gran.owner ((hgran k).symm.trans hf)
        exact absurd (hown.symm.trans howner) (by decide)
      · simp [hgran, hown]
    rw [List.isEmpty_iff.mp hempty] at hin
    exact List.not_mem_nil hin
  have hop : u.teacherSealOp = (u.sealedRegion.sealEvents, .ok) := by
    rw [State.teacherSealOp, if_neg hclosed, if_neg hsome]
    rfl
  obtain ⟨cz, hm, hseal, hg⟩ := State.sealedRegion_seals cu
  obtain ⟨hr, hb⟩ := State.sealEvents_rings cz
  have hcarry := State.carry_seal u (Stated.number s 8 m) m h.isOp
  rw [hop, hu] at hcarry
  rw [hu] at hm hr hb cz
  obtain ⟨t, hrow, htraffic, hans⟩ := msgRow_answered h (by decide) hcarry ((RingsSame.ofMoves hm).trans hr) (by decide)
    rfl (State.canon_sealEvents cz) (hb.mem.trans hm.mem) ((congrArg Dev.time hb.dev).trans (congrArg Dev.time hm.dev))
  dsimp only at htraffic
  rw [← hu] at htraffic hm hr hb cz
  refine ⟨t, hrow, fun i hi => ?_, fun k => ?_, hans⟩
  · have hst : t.stack i = u.sealedRegion.stack i :=
      State.stack_of_stk (congrArg Stacks.st (htraffic.moves.stk.trans hb.stk)) i
    rw [hst, htraffic.page .stack i 0x14 (by decide) (by simp only [pageNo]; omega)]
    exact ⟨(hseal i hi).1, (hseal i hi).2, State.bit_sealEvents cz hi⟩
  · rw [State.gran_of_stk (htraffic.moves.stk.trans hb.stk), hg, hgran]

/-- TEACHER_UNSEAL undoes it. -/
theorem teacherUnseal_unseals (h : Stated.Sent s 8 0x119 m) (hs : (s.stack 0).sealed = true)
    (hi : (s.stack 0).sealing = false) (hparts : ∀ p, p < 8 → (s.part p).trUse = true →
      (s.part p).st ≠ .loaded ∧ (s.part p).st ≠ .running ∧ (s.part p).st ≠ .paused) :
    ∃ t, exec (.teacherUnseal 8 m) s = .next t ∧ (∀ i, i < 12 → (t.stack i).sealed = false) ∧
      (∀ k, (t.gran k).owner = if (s.gran k).owner = 9 then 8 else (s.gran k).owner) ∧
      Stated.Answered s t 8 m ⟨0, 0, 0, 0, []⟩ := by
  obtain ⟨u, hu⟩ : ∃ u, u = Stated.taken s 8 m := ⟨_, rfl⟩
  have cu : u.Canon := hu ▸ State.canon_taken h.canon 8 m
  have hsame : SameWrites s u := hu ▸ sameWrites_taken s 8 m
  have hstack (n : Nat) : u.stack n = s.stack n := State.stack_of_stk (congrArg Stacks.st hsame.stk) n
  have hclosed : ¬ (!u.regionSealed || u.regionSealing) = true := by
    rw [State.regionSealed, State.regionSealing, hstack, hs, hi]
    decide
  have hnone : ¬ ((List.range 8).any fun p => (u.part p).trUse &&
      ((u.part p).st == .loaded || (u.part p).st == .running || (u.part p).st == .paused)) = true := by
    intro hany
    obtain ⟨p, hp, huse⟩ := List.any_eq_true.mp hany
    rw [State.part_eq_of_parts hsame.parts, Bool.and_eq_true] at huse
    obtain ⟨h1, h2, h3⟩ := hparts p (List.mem_range.mp hp) huse.1
    simp [h1, h2, h3] at huse
  have hop : u.teacherUnsealOp = ((u.recode 9 8).allStacks fun x => { x with sealed := false }, .ok) := by
    rw [State.teacherUnsealOp, if_neg hclosed, if_neg hnone]
  obtain ⟨cr, hm, -, hg⟩ := State.recode_recodes (a := 9) (b := 8) cu (by decide)
  have hmz := hm.andThen (Moves.allStacks (u.recode 9 8) fun x => { x with sealed := false })
  have cz := State.canon_allStacks cr fun x => { x with sealed := false }
  have hcarry := State.carry_unseal u (Stated.number s 8 m) m h.isOp
  rw [hop, hu] at hcarry
  rw [hu] at hmz cz
  obtain ⟨t, hrow, htraffic, hans⟩ := msgRow_answered h (by decide) hcarry (RingsSame.ofMoves hmz) (by decide)
    rfl cz hmz.mem (congrArg Dev.time hmz.dev)
  dsimp only at htraffic
  rw [← hu] at htraffic
  refine ⟨t, hrow, fun i hi => ?_, fun k => ?_, hans⟩
  · rw [State.stack_of_stk (congrArg Stacks.st htraffic.moves.stk) i, State.stack_allStacks cr _ hi]
  · rw [State.gran_of_stk htraffic.moves.stk, State.gran_allStacks, hg, hsame.gran]

end Sys2Proof.Machine

open Sys2Proof Sys2Proof.Machine in
/-- Settles O48: the listed granules, or those of the teacher, change their owner or begin to leave it; the answer
follows on the free ring. -/
theorem memoryMessagesAct : Obligations.MemoryMessagesAct := by
  intro s m n own la gs listed
  have hlists (h : listed) : s.Lists m := by
    obtain ⟨h1, h2, h3, h4, h5, h6, h7, h8⟩ := h
    refine ⟨h1, h2, h3, h4, h5, h6, h7, h8.imp (fun h => ⟨h.1, ?_⟩) fun h => h⟩
    obtain ⟨-, h | h | h | h⟩ := h
    · rw [PState.memLegal, show (s.part (fld m 17 1)).st = _ from h]; rfl
    · rw [PState.memLegal, show (s.part (fld m 17 1)).st = _ from h]; rfl
    · rw [PState.memLegal, show (s.part (fld m 17 1)).st = _ from h]; rfl
    · rw [PState.memLegal, show (s.part (fld m 17 1)).st = _ from h]; rfl
  have hmem (k : Nat) : k ∈ s.listed m ↔ ∃ g ∈ gs, granKey n g = k := List.mem_map
  refine ⟨fun h hl hfree => ?_, fun h hl hne hown => ?_, fun h hs hi hk => teacherSeal_seals h hs hi hk,
    fun h hs hi hp => teacherUnseal_unseals h hs hi hp⟩
  · obtain ⟨t, hexec, hgive, hkeep, hans⟩ := memAlloc_gives h (hlists hl) fun k hk => by
      obtain ⟨g, hg, rfl⟩ := (hmem k).mp hk
      exact hfree g hg
    refine ⟨t, hexec, fun g hg => hgive _ ((hmem _).mpr ⟨g, hg, rfl⟩), fun k hk => hkeep k fun hin => ?_, hans⟩
    obtain ⟨g, hg, heq⟩ := (hmem k).mp hin
    exact hk g hg heq.symm
  · obtain ⟨t, hexec, hmem', hrel, hfrees⟩ := memFree_begins h (hlists hl)
      (fun hnil => hne (List.map_eq_nil_iff.mp hnil)) fun k hk => by
        obtain ⟨g, hg, rfl⟩ := (hmem k).mp hk
        exact hown g hg
    refine ⟨t, hexec, hmem', fun g hg => hrel _ ((hmem _).mpr ⟨g, hg, rfl⟩), hfrees.trans ?_⟩
    rw [State.listed, List.length_map]
    rfl

end

section
/-! SUPPORT. Completion traffic of one ring leaves every other partition as it was; spares at a job start
  (R100, R110, R342). -/
set_option Elab.async false

namespace Sys2Proof.Machine

variable {s t u : State} {r p : Nat}

/-! ## Partitions that a ring's entries do not touch -/

/-- From `s` to `t` no partition but that of ring `r` moves. -/
def PartsKept (r : Nat) (s t : State) : Prop := s.Canon → t.Canon ∧ ∀ p, p ≠ r → t.part p = s.part p

namespace PartsKept

theorem refl : PartsKept r s s := fun c => ⟨c, fun _ _ => rfl⟩

theorem trans (h : PartsKept r s t) (h' : PartsKept r t u) : PartsKept r s u := fun c =>
  have ⟨ct, hp⟩ := h c
  have ⟨cu, hq⟩ := h' ct
  ⟨cu, fun p hr => (hq p hr).trans (hp p hr)⟩

theorem ite {c : Prop} [Decidable c] (ht : PartsKept r s t) (hu : PartsKept r s u) :
    PartsKept r s (if c then t else u) := by
  split
  · exact ht
  · exact hu

theorem foldl {α : Type} {f : State → α → State} (as : List α) (hf : ∀ x a, PartsKept r x (f x a)) (s : State) :
    PartsKept r s (as.foldl f s) :=
  List.foldlRecOn (motive := PartsKept r s) _ _ refl fun x hx a _ => hx.trans (hf x a)

theorem ofPosts (h : Posts s t) (hp : t.parts = s.parts) : PartsKept r s t := fun c =>
  ⟨(h c).canon, fun p _ => State.part_eq_of_parts hp p⟩

theorem repeatStep {f : State → Option State} (hf : ∀ x y, f x = some y → PartsKept r x y) (n : Nat) (s : State) :
    PartsKept r s (Machine.repeatStep f n s) := by
  induction n generalizing s with
  | zero => exact refl
  | succ n ih =>
    rw [Machine.repeatStep]
    split
    case h_1 y hy => exact (hf s y hy).trans (ih y)
    case h_2 => exact refl

theorem setPart (s : State) (r : Nat) (x : Part) : PartsKept r s (s.setPart r x) := fun c =>
  ⟨(Keeps.setPart .refl).canon c, fun _ hp => State.part_setPart_ne c x hp⟩

theorem setRing (s : State) (q : Nat) (g : Ring) : PartsKept r s (s.setRing q g) := fun c =>
  ⟨State.canon_setRing c q g, fun _ _ => rfl⟩

theorem answered (s : State) (r seq st : Nat) : PartsKept r s (s.answered r seq st) := by
  unfold State.answered
  dsimp only
  refine .trans (.trans (setRing s r _) (setPart _ r _)) (foldl _ (fun x k => ?_) _)
  refine ite (fun c => ⟨(Keeps.setSprue .refl).canon c, fun _ _ => rfl⟩) (ite ?_ refl)
  exact setPart x r _

section
variable (hr : r < 9)
include hr

theorem cqPut (s : State) (bs : List Byte) : PartsKept r s (s.cqPut r bs) := by
  refine ofPosts (Posts.cqPut hr s bs) ?_
  unfold State.cqPut
  dsimp only
  obtain ⟨m, hm⟩ := s.setHostBytes_eq_setMem (s.ringBase r 0x08 + s.ringRg r 0x20 % s.cqSize r * 64) bs
  rw [hm]
  rfl

omit hr in
theorem fireVector (s : State) (v : Nat) : PartsKept r s (s.fireVector v) := by
  refine ofPosts (Posts.fireVector s v) ?_
  unfold State.fireVector
  dsimp only
  split
  · rfl
  · obtain ⟨m, hm⟩ := s.setHostBytes_eq_setMem _ _
    rw [hm]
    rfl

omit hr in
theorem irqEntry (s : State) (q : Nat) (urgent : Bool) : PartsKept r s (s.irqEntry q urgent) :=
  ite ((setRing s q _).trans ((fireVector _ q).trans (setRing _ q _))) (setRing s q _)

omit hr in
theorem fencePump (s : State) (q : Nat) : PartsKept r s (s.fencePump q) := by
  unfold State.fencePump
  dsimp only
  split
  · exact ite (setRing s q _) refl
  · exact refl

theorem putEntry (s : State) (e : Entry) (rest : List Entry) : PartsKept r s (s.putEntry r e rest) := by
  unfold State.putEntry
  dsimp only
  split
  · exact ((cqPut hr s _).trans (setRing _ r _)).trans (answered _ r _ _)
  · exact (cqPut hr s _).trans (setRing _ r _)

theorem writeOne {e : Entry} {rest : List Entry} (h : s.writeOne r e rest = some t) : PartsKept r s t := by
  obtain ⟨_, fill, hw⟩ := s.writeOne_eq r e rest
  rw [hw] at h
  split at h
  · exact absurd h nofun
  · obtain rfl := Option.some.inj h
    have hfill : PartsKept r s (s.putFill r fill) := ite refl (cqPut hr s _)
    exact .trans (.trans (hfill.trans (putEntry hr _ e rest)) (irqEntry _ r _)) (fencePump _ r)

theorem flushOne (h : s.flushOne r = some t) : PartsKept r s t := by
  unfold State.flushOne at h
  split at h
  · exact writeOne hr h
  · exact absurd h nofun

theorem drain (s : State) : PartsKept r s (s.drain r) := ite (repeatStep (fun _ _ h => flushOne hr h) _ s) refl

omit hr in
theorem cqWait (s : State) (q : Nat) : PartsKept r s (s.cqWait q) := by
  refine ite refl (ofPosts (Posts.evSet_host s 2) ?_)
  have hfire (x : State) : (x.fireVector 9).parts = x.parts := by
    unfold State.fireVector
    dsimp only
    split
    · rfl
    · obtain ⟨m, hm⟩ := x.setHostBytes_eq_setMem _ _
      rw [hm]
      rfl
  unfold State.evSet
  dsimp only
  split
  · rfl
  · split
    · exact hfire _
    · rfl

theorem post (s : State) (e : Entry) : PartsKept r s (s.post r e) :=
  .trans (.trans (setRing s r _) (drain hr _)) (cqWait _ r)

theorem respond (s : State) (opcode part seq tag : Nat) (o : Compl) (start : Nat) :
    PartsKept r s (s.respond r opcode part seq tag o start) := post hr s _

end
end PartsKept

/-! ## Spares at a job start (R100, R110, R235) -/

/-- From `s` to `t` no ring gains a message to take. -/
def TakesNoMore (s t : State) : Prop := s.Canon → s.NothingToTake → t.Canon ∧ t.NothingToTake

namespace TakesNoMore

theorem refl : TakesNoMore s s := fun c h => ⟨c, h⟩

theorem trans (h : TakesNoMore s t) (h' : TakesNoMore t u) : TakesNoMore s u := fun c hq =>
  have ⟨ct, ht⟩ := h c hq
  h' ct ht

theorem ite {c : Prop} [Decidable c] (ht : TakesNoMore s t) (hu : TakesNoMore s u) :
    TakesNoMore s (if c then t else u) := by
  split
  · exact ht
  · exact hu

theorem foldl {α : Type} {f : State → α → State} (as : List α) (hf : ∀ x a, TakesNoMore x (f x a)) (s : State) :
    TakesNoMore s (as.foldl f s) :=
  List.foldlRecOn (motive := TakesNoMore s) _ _ refl fun x hx a _ => hx.trans (hf x a)

theorem foldr {α : Type} {f : α → State → State} (as : List α) (hf : ∀ x a, TakesNoMore x (f a x)) (s : State) :
    TakesNoMore s (as.foldr f s) := by
  induction as with
  | nil => exact refl
  | cons a as ih => exact ih.trans (hf _ a)

theorem ofPosts (h : Posts s t) : TakesNoMore s t := fun c hq => ⟨(h c).canon, (h c).nothingToTake hq⟩

theorem setMaps (s : State) (x : Maps) : TakesNoMore s (s.setMaps x) := fun c hq =>
  ⟨⟨c.mem, c.units, c.parts, c.rings, c.taps, c.west, c.east, c.bus, c.stk, c.ports⟩, hq⟩

theorem evSet_pyro (s : State) (b : Nat) : TakesNoMore s (s.evSet .pyro 0 b) := fun c hq =>
  ⟨(Keeps.evSet .refl).canon c, State.nothingToTake_evSet c hq (by decide) (by decide)⟩

theorem splog (s : State) (typ inst spare action source : Nat) :
    TakesNoMore s (s.splog typ inst spare action source) := by
  have hlog (x : Health) : TakesNoMore s (s.setHealth x) := fun c hq =>
    ⟨⟨c.mem, c.units, c.parts, c.rings, c.taps, c.west, c.east, c.bus, c.stk, c.ports⟩, hq⟩
  exact ite ((hlog _).trans (evSet_pyro _ 3)) ((hlog _).trans (evSet_pyro _ 4))

theorem ventSpare (s : State) (typ inst spare logical part action : Nat) :
    TakesNoMore s (s.ventSpare typ inst spare logical part action) := by
  refine ofPosts (Posts.ventAll s (fun r hr => ?_) _ _ _)
  obtain rfl | hr := List.mem_cons.mp hr
  · decide
  · split at hr
    · obtain rfl := List.mem_singleton.mp hr
      omega
    · exact absurd hr List.not_mem_nil

theorem mapUse (s : State) (m : MapCause) (typ inst spare logical action : Nat) :
    TakesNoMore s (s.mapUse m typ inst spare logical action) := by
  unfold State.mapUse
  dsimp only
  exact ite (ite refl (splog s _ _ _ _ _)) ((splog s _ _ _ _ _).trans (ventSpare _ _ _ _ _ _ _))

theorem used (s : State) (x : Maps) (m : MapCause) (typ inst spare logical action : Nat) :
    TakesNoMore s ((s.setMaps x).mapUse m typ inst spare logical action) := (setMaps s x).trans (mapUse _ m _ _ _ _ _)

theorem mapCluster (s : State) (m : MapCause) (c logical : Nat) : TakesNoMore s (s.mapCluster m c logical) := by
  have hseq (x : State) : TakesNoMore x (
      if m.fails.contains (.seq c (tget 0 x.maps.seqUse c)) then
        (x.setMaps { x.maps with seqUse := tput 0 x.maps.seqUse c (1 - tget 0 x.maps.seqUse c) }).mapUse m 0x20
          (c * 64 + 48 + tget 0 x.maps.seqUse c) (c * 64 + 48 + (1 - tget 0 x.maps.seqUse c)) logical 1
      else x) := ite (used x _ m _ _ _ _ _) refl
  unfold State.mapCluster
  dsimp only
  refine ite refl (.trans ?_ (hseq _))
  split
  · exact ite (used s _ m _ _ _ _ _) refl
  · exact refl

theorem withdrawClusters (s : State) (m : MapCause) : TakesNoMore s (s.withdrawClusters m) :=
  foldl _ (fun x _ => ite (used x _ m _ _ _ _ _) refl) s

theorem mapTiles (s : State) (m : MapCause) (d : Nat) : TakesNoMore s (s.mapTiles m d) := by
  refine foldl _ (fun x i => ?_) s
  dsimp only
  refine ite ?_ refl
  split
  · exact used x _ m _ _ _ _ _
  · exact used x _ m _ _ _ _ _

theorem mapFum (s : State) (m : MapCause) (n : Nat) : TakesNoMore s (s.mapFum m n) := by
  refine foldl _ (fun x u => ?_) s
  dsimp only
  exact ite (ite (ite refl (used x _ m _ _ _ _ _))
    (ite refl (ite (used x _ m _ _ _ _ _) (used x _ m _ _ _ _ _)))) refl

theorem closeUp (s : State) : TakesNoMore s s.closeUp :=
  (foldr _ (fun x _ => ite (setMaps x _) refl) s).trans (foldr _ (fun x _ => ite (setMaps x _) refl) _)

theorem remap (s : State) (m : MapCause) (own : List Nat) : TakesNoMore s (s.remap m own) :=
  (((((foldl _ (fun x _ => mapCluster x m _ _) s).trans (withdrawClusters _ m)).trans (mapTiles _ m 0)).trans
    (mapTiles _ m 1)).trans (foldl _ (fun x n => mapFum x m n) _)).trans (closeUp _)

end TakesNoMore

end Sys2Proof.Machine

end

section
/-! SUPPORT. Partition messages of the management ring (Table 15.12, R306, R307, R321, R325). -/
set_option Elab.async false

namespace Sys2Proof.Machine

variable {s t z u : State} {p n k : Nat} {m : List Byte} {x q : Part} {o : Compl}

/-! ## Carrying one out -/

theorem State.carry_part (s : State) (n : Nat) (m : List Byte) (hop : isPartOp (fld m 2 2) = true) :
    s.carry 8 n m = State.ctlDone 8 n m (s.partMsg (fld m 2 2) (fld m 1 1) n (w32 (fld m 12 4)) m) := by
  have hcase : 0x100 ≤ fld m 2 2 ∧ fld m 2 2 ≤ 0x105 := of_decide_eq_true hop
  have hinfo : ∃ i, opInfo (fld m 2 2) = some i ∧ i.cmd = false := by
    obtain h | h | h | h | h | h : fld m 2 2 = 0x100 ∨ fld m 2 2 = 0x101 ∨ fld m 2 2 = 0x102 ∨ fld m 2 2 = 0x103 ∨
        fld m 2 2 = 0x104 ∨ fld m 2 2 = 0x105 := by omega
    · rw [h]; exact ⟨_, rfl, rfl⟩
    · rw [h]; exact ⟨_, rfl, rfl⟩
    · rw [h]; exact ⟨_, rfl, rfl⟩
    · rw [h]; exact ⟨_, rfl, rfl⟩
    · rw [h]; exact ⟨_, rfl, rfl⟩
    · rw [h]; exact ⟨_, rfl, rfl⟩
  obtain ⟨i, hi, hcmd⟩ := hinfo
  rw [State.carry, hi]
  dsimp only
  rw [hcmd, if_neg nofun, if_neg (by omega), if_neg (by omega), if_neg (by omega), if_pos hop]

section
variable (s : State) (p n : Nat) (tag : Word) (m : List Byte)

theorem State.partMsg_cfg : s.partMsg 0x100 p n tag m = ((s.partCfgMsg p m).1, some (s.partCfgMsg p m).2) := rfl
theorem State.partMsg_load : s.partMsg 0x101 p n tag m = s.partLoadMsg p := rfl
theorem State.partMsg_pause : s.partMsg 0x102 p n tag m = s.partPauseMsg p n tag := rfl
theorem State.partMsg_resume : s.partMsg 0x103 p n tag m = s.partResumeMsg p n tag := rfl
theorem State.partMsg_release : s.partMsg 0x104 p n tag m = s.partReleaseMsg p n tag := rfl
theorem State.partMsg_reset : s.partMsg 0x105 p n tag m = s.partResetMsg p n tag := rfl

end

theorem State.answerMsg_of_ne (z : State) (h : fld m 2 2 ≠ 1) (n : Nat) (o : Compl) :
    z.answerMsg 8 n m o = z.respond 8 (fld m 2 2) (fld m 1 1) n (fld m 12 4) o 0 := if_neg h

section
variable {op : Nat} (h : Stated.Sent s 8 op m) (hpart : isPartOp op = true) (hm1 : fld m 1 1 = p)
include h hpart hm1

/-- A message of a partition is carried out where it is taken. -/
theorem partMsg_row : s.msgRow op 8 m = .next (State.ctlDone 8 (Stated.number s 8 m) m
    ((Stated.taken s 8 m).partMsg op p (Stated.number s 8 m) (w32 (fld m 12 4)) m)).serve := by
  have h3 : op ≠ 3 := by rintro rfl; exact absurd hpart (by decide)
  rw [State.msgRow_carried h3 h, State.carry_part _ _ _ (h.isOp ▸ hpart), h.isOp, hm1]

/-- One that is answered at once, after changes elsewhere: the answer leaves the partition as it is. -/
theorem partMsg_answered (hmsg :
    (Stated.taken s 8 m).partMsg op p (Stated.number s 8 m) (w32 (fld m 12 4)) m = (z, some o))
    (hs : RingsSame (Stated.taken s 8 m) z) (cz : z.Canon) (hmem : z.mem = s.mem) (ht : z.dev.time = s.dev.time)
    (hp : p < 8) :
    ∃ t, s.msgRow op 8 m = .next t ∧ Traffic z t ∧ t.part p = z.part p ∧ Stated.Answered s t 8 m o := by
  have h1 : fld m 2 2 ≠ 1 := by rw [h.isOp]; rintro rfl; exact absurd hpart (by decide)
  obtain ⟨hq, hresp⟩ := respond_after_taken h.toComes hs cz hmem ht (fld m 2 2) (fld m 1 1) (Stated.number s 8 m)
    (fld m 12 4) o 0
  have hans := z.answerMsg_of_ne h1 (Stated.number s 8 m) o
  refine ⟨_, ?_, Posts.respond (by decide) _ _ _ _ _ _ _ cz,
    (PartsKept.respond (by decide) z _ _ _ _ _ _ cz).2 p (by omega), hresp⟩
  rw [partMsg_row h hpart hm1, hmsg, State.ctlDone]
  change Host.Outcome.next (z.answerMsg 8 (Stated.number s 8 m) m o).serve = _
  rw [hans, State.serve_of_nothingToTake hq]

/-- One that leaves its answer to itself or to later. -/
theorem partMsg_owed (hmsg : (Stated.taken s 8 m).partMsg op p (Stated.number s 8 m) (w32 (fld m 12 4)) m = (z, none))
    (hq : z.NothingToTake) : s.msgRow op 8 m = .next z := by
  rw [partMsg_row h hpart hm1, hmsg, State.ctlDone]
  exact congrArg Host.Outcome.next (State.serve_of_nothingToTake hq)

end

theorem State.part_taken (s : State) (r : Nat) (m : List Byte) (p : Nat) : (Stated.taken s r m).part p = s.part p := rfl

/-! ## PART_CFG (R306) -/

theorem SameWrites.freeGranules (h : SameWrites s t) (k fuel g n : Nat) :
    t.freeGranules k fuel g n = s.freeGranules k fuel g n := by
  induction fuel generalizing g n with
  | zero => rfl
  | succ fuel ih =>
    cases n with
    | zero => rfl
    | succ n =>
      unfold State.freeGranules
      simp only [h.gran, ih]

theorem SameWrites.placeSave (h : SameWrites s t) (q : Part) : t.placeSave q = s.placeSave q := by
  unfold State.placeSave
  simp only [h.freeGranules]

theorem State.partLacks_taken (s : State) (m : List Byte) (q : Part) :
    (Stated.taken s 8 m).partLacks q = s.partLacks q := by
  obtain ⟨b, y, hy⟩ := s.taken_fields 8 m
  have hlive : ((List.range 8).map (Stated.taken s 8 m).part) = (List.range 8).map s.part := rfl
  have hrun (d n : Nat) : (Stated.taken s 8 m).sprueRun d n = s.sprueRun d n := by
    rw [hy]
    unfold State.sprueRun
    rfl
  have hheld (v : Nat) : (Stated.taken s 8 m).unitHeld v = s.unitHeld v := rfl
  have hc (j : Nat) : (Stated.taken s 8 m).physCluster j = s.physCluster j := rfl
  have ht (j : Nat) : (Stated.taken s 8 m).physTile j = s.physTile j := rfl
  unfold State.partLacks
  simp only [hlive, hrun, hheld, hc, ht]

/-- Slots of a stack under a partition's mask. -/
def slotsSet (p : Nat) (q : Part) (n : Nat) (x : Stack) : Stack :=
  { x with slots := (List.range 20).foldl (fun t i => if bit (q.slotMask n) i then tput 0xF t i p else t) x.slots }

theorem tget_slotsSet {p : Nat} {q : Part} {n i : Nat} {x : Stack} (hw : twf 0xF x.slots = true) (hi : i < 20)
    (hb : bit (q.slotMask n) i = true) : tget 0xF (slotsSet p q n x).slots i = p := by
  suffices h : ∀ (l : List Nat) (t : Tbl Nat), twf 0xF t = true → (tget 0xF t i = p ∨ i ∈ l) →
      tget 0xF (l.foldl (fun t i => if bit (q.slotMask n) i then tput 0xF t i p else t) t) i = p from
    h _ _ hw (.inr (List.mem_range.mpr hi))
  intro l
  induction l with
  | nil => exact fun t _ h => h.resolve_right List.not_mem_nil
  | cons j l ih =>
    intro t ht h
    refine ih _ ?_ ?_
    · dsimp only
      split
      · exact twf_tput _ _ _ ht
      · exact ht
    · dsimp only
      by_cases hj : i = j
      · rw [← hj, if_pos hb]
        exact .inl (tget_tput_same _ _ _ ht)
      · refine h.imp (fun h => ?_) fun h => (List.mem_cons.mp h).resolve_left hj
        split
        · rw [tget_tput_ne _ _ ht hj]
          exact h
        · exact h

/-- The slots of every stack under the masks; nothing else moves. -/
theorem State.setSlots_sets (c : s.Canon) (p : Nat) (q : Part) : (s.setSlots p q).Canon ∧
    Moves [.stk] s (s.setSlots p q) ∧ (s.setSlots p q).stk.gran = s.stk.gran ∧
    ∀ n, n < 12 → (s.setSlots p q).stack n = slotsSet p q n (s.stack n) := by
  have hone (y : State) (n : Nat) : (y.modStack n fun x => { x with
      slots := (List.range 20).foldl (fun t i => if bit (q.slotMask n) i then tput 0xF t i p else t) x.slots }) =
      y.modStack n (slotsSet p q n) := rfl
  have hfold (ns : List Nat) (hnd : ns.Nodup) (y : State) (cy : y.Canon) :
      (ns.foldl (fun s n => s.modStack n (slotsSet p q n)) y).Canon ∧
      Moves [.stk] y (ns.foldl (fun s n => s.modStack n (slotsSet p q n)) y) ∧
      (ns.foldl (fun s n => s.modStack n (slotsSet p q n)) y).stk.gran = y.stk.gran ∧
      ∀ n, (ns.foldl (fun s n => s.modStack n (slotsSet p q n)) y).stack n =
        if n ∈ ns then slotsSet p q n (y.stack n) else y.stack n := by
    induction ns generalizing y with
    | nil => exact ⟨cy, .refl, rfl, fun _ => rfl⟩
    | cons j ns ih =>
      obtain ⟨hj, hns⟩ := List.nodup_cons.mp hnd
      obtain ⟨hc, hm, hg, hst⟩ := ih hns _ (State.canon_modStack cy j (slotsSet p q j))
      refine ⟨hc, (Moves.setStk y _).andThen hm, hg, fun n => (hst n).trans ?_⟩
      by_cases hn : n = j
      · rw [hn, if_neg hj, if_pos List.mem_cons_self, State.modStack, State.stack_setStack cy]
      · rw [State.modStack, State.stack_setStack_ne cy _ hn]
        exact if_congr (by simp [hn]) rfl rfl
  obtain ⟨hc, hm, hg, hst⟩ := hfold (List.range 12) List.nodup_range s c
  exact ⟨hc, hm, hg, fun n hn => (hst n).trans (if_pos (List.mem_range.mpr hn))⟩

/-- The record of PART_CFG. -/
def configuredPart (s : State) (p : Nat) (m : List Byte) : Part :=
  { Part.empty with st := .configured, cfg := slice m 16 256, nextCid := (s.part p).nextCid }

/-- The Sprue slices that PART_CFG gives. -/
def State.sliced (s : State) (p : Nat) (q : Part) : Sprue :=
  let put (d : Nat) (t : Tbl Nat) : Tbl Nat :=
    tput 0 t (d * 8 + p) (if q.sprueSegs d = 0 then 0
      else ((s.sprueRun d (q.sprueSegs d)).getD 0) * 1024 + q.sprueSegs d)
  { s.sprue with slices := put 1 (put 0 s.sprue.slices) }

theorem State.partCfgMsg_configures (c : s.Canon) {save : List Nat} (hst : (s.part p).st = .empty)
    (hplace : s.placeSave (configuredPart s p m) = some save) (hlack : s.partLacks (configuredPart s p m) = false) :
    ∃ z, s.partCfgMsg p m = (z, .ok) ∧ z.Canon ∧ Moves [.sprue, .parts, .stk] s z ∧
      z.part p = { configuredPart s p m with save := save } ∧ (∀ k ∈ save, (z.gran k).owner = p) ∧
      ∀ n, n < 12 → z.stack n = slotsSet p (configuredPart s p m) n (s.stack n) := by
  obtain ⟨y, hform⟩ : ∃ y, s.partCfgMsg p m = ((save.foldl (fun s k => s.setOwner k p)
      ((s.setSprue y).setPart p { configuredPart s p m with save := save })).setSlots p (configuredPart s p m), .ok)
        := by
    have hform : s.partCfgMsg p m = (match s.placeSave (configuredPart s p m) with
        | none => (s, Compl.of 4)
        | some save => if s.partLacks (configuredPart s p m) then (s, Compl.of 4) else
            ((save.foldl (fun s k => s.setOwner k p) ((s.setSprue (s.sliced p (configuredPart s p m))).setPart p
              { configuredPart s p m with save := save })).setSlots p (configuredPart s p m), .ok)) :=
      if_neg fun h => h hst
    rw [hplace] at hform
    exact ⟨_, hform.trans (if_neg (Bool.eq_false_iff.mp hlack))⟩
  have cy : (s.setSprue y).Canon := (Keeps.setSprue .refl).canon c
  have cp : ((s.setSprue y).setPart p { configuredPart s p m with save := save }).Canon :=
      (Keeps.setPart .refl).canon cy
  have hpart : ((s.setSprue y).setPart p { configuredPart s p m with save := save }).part p =
      { configuredPart s p m with save := save } := State.part_setPart cy ..
  have hmp : Moves [.sprue, .parts] s ((s.setSprue y).setPart p { configuredPart s p m with save := save }) := by
    intro f hf
    cases f with
    | sprue | parts => exact absurd (by decide) hf
    | _ => rfl
  obtain ⟨cg, hmg, hstk, hg⟩ := State.gran_foldl_setGran (f := fun x => { x with owner := p, releasing := false })
    (fun _ => rfl) cp save
  have hown : save.foldl (fun s k => s.setGran k { s.gran k with owner := p, releasing := false })
      ((s.setSprue y).setPart p { configuredPart s p m with save := save }) = save.foldl (fun s k => s.setOwner k p)
      ((s.setSprue y).setPart p { configuredPart s p m with save := save }) := rfl
  rw [hown] at cg hmg hstk hg
  obtain ⟨cz, hmz, hgz, hst'⟩ := State.setSlots_sets cg p (configuredPart s p m)
  refine ⟨_, hform, cz, (hmp.mono.andThen hmg).andThen hmz, ?_, fun k hk => ?_, fun n hn => ?_⟩
  · exact (hmz.part (p := p)).trans ((hmg.part (p := p)).trans hpart)
  · rw [State.gran, hgz]
    exact congrArg Gran.owner ((hg k).trans (if_pos hk))
  · rw [hst' n hn]
    refine congrArg (slotsSet p _ n) ?_
    rw [State.stack_of_stk (congrArg Stacks.st hstk :) n]
    rfl

theorem partCfg_configures (h : Stated.Sent s 8 0x100 m) (hm1 : fld m 1 1 = p) (hp : p < 8)
    (hst : (s.part p).st = .empty)
    (hslots : ∀ n, n < 12 → twf 0xF (s.stack n).slots = true) {save : List Nat}
    (hplace : s.placeSave (configuredPart s p m) = some save) (hlack : s.partLacks (configuredPart s p m) = false) :
    ∃ t, exec (.partCfg 8 m) s = .next t ∧ t.part p = { configuredPart s p m with save := save } ∧
      (∀ k ∈ save, (t.gran k).owner = p) ∧
      (∀ n i, n < 12 → i < 20 → bit (fld (configuredPart s p m).cfg (120 + 4 * n) 4) i = true → t.slotOwner n i = p) ∧
      Stated.Answered s t 8 m ⟨0, 0, 0, 0, []⟩ := by
  have ct := State.canon_taken h.canon 8 m
  have hsame := sameWrites_taken s 8 m
  obtain ⟨z, hmsg, cz, hmz, hpart, hsave, hslot⟩ := State.partCfgMsg_configures (s := Stated.taken s 8 m) (p := p)
    (m := m)
    ct (save := save) hst (by rw [hsame.placeSave]; exact hplace) (by rw [State.partLacks_taken]; exact hlack)
  have hcarry : (Stated.taken s 8 m).partMsg 0x100 p (Stated.number s 8 m) (w32 (fld m 12 4)) m = (z, some .ok) := by
    rw [State.partMsg_cfg, hmsg]
  obtain ⟨t, hrow, htraffic, hkept, hans⟩ := partMsg_answered h (by decide) hm1 hcarry (.ofMoves hmz) cz hmz.mem
    (congrArg Dev.time hmz.dev) hp
  refine ⟨t, hrow, hkept.trans hpart, fun k hk => ?_, fun n i hn hi hb => ?_, hans⟩
  · rw [State.gran_of_stk htraffic.moves.stk]
    exact hsave k hk
  · rw [State.slotOwner, State.stack_of_stk (congrArg Stacks.st htraffic.moves.stk) n, hslot n hn]
    exact tget_slotsSet (hslots n hn) hi hb

/-! ## PART_LOAD (R307) -/

/-- The counts of a partition's last job, zeroed, and the partition LOADED. -/
def State.jobZeroed (s : State) (p : Nat) : State :=
  let s := ((s.setPg .part p 0x48 0).setPg .part p 0x98 0).setPg .part p 0x9C 0
  let s := s.setSprue { s.sprue with
    doneMb := tput 0 s.sprue.doneMb p 0, lastOk := tput [] s.sprue.lastOk p [],
    deliv := s.sprue.deliv.filter fun d => nth 8 d 0 ≠ p }
  s.modPart p fun q => { q with st := .loaded }

theorem State.jobStart_eq (s : State) (p : Nat) : s.jobStart p =
    (s.remap { fails := s.maps.otpFail ++ s.maps.runFail, part := p, atReset := false }
      (s.part p).clusters).jobZeroed p := rfl

theorem State.jobZeroed_eq (y : State) (p : Nat) : ∃ v, y.jobZeroed p =
    (((((y.setPg .part p 0x48 0).setPg .part p 0x98 0).setPg .part p 0x9C 0).setSprue v).modPart p
      fun q => { q with st := .loaded }) := ⟨_, rfl⟩

theorem State.jobStart_starts (c : s.Canon) (hq : s.NothingToTake) (hp : p < 8) : (s.jobStart p).Canon ∧
    (s.jobStart p).NothingToTake ∧ ((s.jobStart p).part p).st = .loaded ∧ (s.jobStart p).pg .part p 0x48 = 0 ∧
    (s.jobStart p).pg .part p 0x98 = 0 ∧ (s.jobStart p).pg .part p 0x9C = 0 := by
  obtain ⟨y, hy⟩ : ∃ y, y = s.remap { fails := s.maps.otpFail ++ s.maps.runFail, part := p, atReset := false }
    (s.part p).clusters := ⟨_, rfl⟩
  obtain ⟨cy, hqy⟩ := hy ▸ TakesNoMore.remap s _ _ c hq
  obtain ⟨v, hv⟩ : ∃ v, s.jobStart p = ((((y.setPg .part p 0x48 0).setPg .part p 0x98 0).setPg .part p 0x9C 0).setSprue
      v).modPart p fun q => { q with st := .loaded } := by
    obtain ⟨v, hv⟩ := y.jobZeroed_eq p
    exact ⟨v, by rw [State.jobStart_eq, ← hy, hv]⟩
  have hne := pageNo_part_ne_host hp
  have c₁ := State.canon_setPg cy .part p 0x48 0
  have c₂ := State.canon_setPg c₁ .part p 0x98 0
  have c₃ := State.canon_setPg c₂ .part p 0x9C 0
  have q₁ := State.nothingToTake_setPg cy hqy hne (off := 0x48) (by decide) 0
  have q₂ := State.nothingToTake_setPg c₁ q₁ hne (off := 0x98) (by decide) 0
  have q₃ := State.nothingToTake_setPg c₂ q₂ hne (off := 0x9C) (by decide) 0
  have c₄ : ((((y.setPg .part p 0x48 0).setPg .part p 0x98 0).setPg .part p 0x9C 0).setSprue v).Canon :=
    (Keeps.setSprue .refl).canon c₃
  rw [hv]
  refine ⟨(Keeps.setPart .refl).canon c₄, q₃, ?_, ?_, ?_, ?_⟩
  · rw [State.modPart, State.part_setPart c₄]
  · exact (State.pg_setPg_ne c₂ 0 (by omega)).trans
      ((State.pg_setPg_ne c₁ 0 (by omega)).trans (State.pg_setPg cy .part p 0x48 0))
  · exact (State.pg_setPg_ne c₂ 0 (by omega)).trans (State.pg_setPg c₁ .part p 0x98 0)
  · exact State.pg_setPg c₂ .part p 0x9C 0

theorem State.partLoadMsg_loads (hst : (s.part p).st = .configured) : s.partLoadMsg p = (s.jobStart p, some .ok) :=
  if_pos hst

theorem partLoad_loads (h : Stated.Sent s 8 0x101 m) (hm1 : fld m 1 1 = p) (hp : p < 8)
    (hst : (s.part p).st = .configured) : ∃ t, exec (.partLoad 8 m) s = .next t ∧ (t.part p).st = .loaded ∧
      t.pg .part p 0x48 = 0 ∧ t.pg .part p 0x98 = 0 ∧ t.pg .part p 0x9C = 0 := by
  have ct := State.canon_taken h.canon 8 m
  obtain ⟨cz, hq, hload, h48, h98, h9C⟩ := State.jobStart_starts ct (nothingToTake_taken h.toComes) hp
  have hmsg : (Stated.taken s 8 m).partMsg 0x101 p (Stated.number s 8 m) (w32 (fld m 12 4)) m =
      ((Stated.taken s 8 m).jobStart p, some .ok) := by
    rw [State.partMsg_load, State.partLoadMsg_loads (by rw [State.part_taken]; exact hst)]
  generalize (Stated.taken s 8 m).jobStart p = z at cz hq hload h48 h98 h9C hmsg
  have hans := z.answerMsg_of_ne (by rw [h.isOp]; decide) (Stated.number s 8 m) .ok
  have htraffic := Posts.respond (r := 8) (by decide) z (fld m 2 2) (fld m 1 1) (Stated.number s 8 m) (fld m 12 4) .ok 0
    cz
  have hpage (off : Nat) (ho : off < 0x1000) := htraffic.page .part p off ho (pageNo_part_ne_host hp).symm
  refine ⟨z.respond 8 (fld m 2 2) (fld m 1 1) (Stated.number s 8 m) (fld m 12 4) .ok 0, ?_, ?_, ?_, ?_, ?_⟩
  rotate_left
  · exact (congrArg Part.st (htraffic.part p) :).trans hload
  · exact (hpage _ (by decide)).trans h48
  · exact (hpage _ (by decide)).trans h98
  · exact (hpage _ (by decide)).trans h9C
  · refine (partMsg_row h (by decide) hm1).trans (congrArg Host.Outcome.next ?_)
    rw [hmsg, State.ctlDone]
    exact (congrArg State.serve hans).trans (State.serve_of_nothingToTake (htraffic.nothingToTake hq))

/-! ## PART_PAUSE and PART_RESUME (R321) -/

/-- The partition with a pause in progress. -/
def Part.pausing (x : Part) (seq : Nat) (tag : Word) : Part := { x with pause := some (seq, tag) }

/-- The partition in a state. -/
def Part.entering (x : Part) (st : PState) : Part := { x with st := st }

theorem State.partPauseMsg_eq (hst : (s.part p).st = .running) (hpause : (s.part p).pause = none) (n : Nat) (tag : Word)
    (hquench : (s.part p).quenchEn = true → ∀ k ∈ (s.part p).cmds, k.phase = .running → k.units = []) :
    s.partPauseMsg p n tag = ((s.setPart p ((s.part p).pausing n tag)).pausePump p false, none) := by
  have hnone : ((s.part p).cmds.filter fun k => k.phase == .running && !k.units.isEmpty && k.out.isNone) = [] ∨
      (s.part p).quenchEn = false := by
    cases hq : (s.part p).quenchEn with
    | false => exact .inr rfl
    | true =>
      refine .inl (List.filter_eq_nil_iff.mpr fun k hk hbusy => ?_)
      simp only [Bool.and_eq_true, beq_iff_eq, Bool.not_eq_true'] at hbusy
      obtain ⟨⟨hrun, hunits⟩, -⟩ := hbusy
      rw [hquench hq k hk hrun] at hunits
      exact absurd hunits nofun
  rw [State.partPauseMsg]
  dsimp only
  rw [if_pos ⟨hst, by rw [hpause]; rfl⟩]
  obtain h | h := hnone
  · rw [h]
    exact congrArg (fun x : State => (x.pausePump p false, (none : Option Compl))) (ite_self _)
  · rw [h]
    rfl

/-- A command that a pause does not wait for. -/
def Cmd.pauseable (k : Cmd) : Prop := k.phase = .queued ∨ k.phase = .quenched ∨ k.phase = .answered ∨
  (k.phase = .running ∧ k.units = [] ∧ k.opcode ∈ [0x112, 0x414, 0x415, 0x501])

theorem Part.active_of_pauseable (hcmds : ∀ k ∈ x.cmds, k.pauseable) : x.active = false := by
  refine List.any_eq_false.mpr fun k hk => ?_
  obtain hph | hph | hph | ⟨hph, hunits, hop⟩ := hcmds k hk
  · simp [Cmd.holdsPause, hph]
  · simp [Cmd.holdsPause, hph]
  · simp [Cmd.holdsPause, hph]
  · have hcase : k.opcode = 0x112 ∨ k.opcode = 0x414 ∨ k.opcode = 0x415 ∨ k.opcode = 0x501 := by simpa using hop
    obtain h | h | h | h := hcase <;> simp [Cmd.holdsPause, hph, hunits, h]

/-- Where a pause waits for nothing, the partition is PAUSED and the message answered at once. -/
theorem State.partPauseMsg_pauses (c : u.Canon) (hst : (u.part p).st = .running) (hpause : (u.part p).pause = none)
    (hserving : (u.part p).serving = none) (hcmds : ∀ k ∈ (u.part p).cmds, k.pauseable) (n : Nat) (tag : Word) :
    u.partPauseMsg p n tag =
      ((u.setPart p ((u.part p).entering .paused)).respond 8 0x102 p n tag.toNat .ok 0, none) := by
  have hidle := Part.active_of_pauseable hcmds
  have hquench : (u.part p).quenchEn = true → ∀ k ∈ (u.part p).cmds, k.phase = .running → k.units = [] := by
    intro _ k hk hrun
    obtain hph | hph | hph | ⟨-, hunits, -⟩ := hcmds k hk
    · rw [hph] at hrun; exact absurd hrun nofun
    · rw [hph] at hrun; exact absurd hrun nofun
    · rw [hph] at hrun; exact absurd hrun nofun
    · exact hunits
  rw [State.partPauseMsg_eq hst hpause n tag hquench]
  obtain ⟨x, hx⟩ : ∃ x, x = u.part p := ⟨_, rfl⟩
  rw [← hx] at hst hpause hserving hidle ⊢
  have hgo : (u.setPart p (x.pausing n tag)).setPart p { x.pausing n tag with st := .paused, pause := none } =
      u.setPart p (x.entering .paused) := by
    rw [State.setPart_setPart c, Part.pausing, Part.entering]
    exact congrArg (fun y => u.setPart p { x with st := .paused, pause := y }) hpause.symm
  rw [State.pausePump, State.part_setPart c, ← hgo]
  exact congrArg (fun y : State => (y, (none : Option Compl)))
    (if_pos ⟨hst, congrArg not hidle, .inr (congrArg Option.isNone hserving)⟩)

/-- Behind work on units it waits. -/
theorem State.partPauseMsg_waits (c : u.Canon) {k : Cmd} (hk : k ∈ (u.part p).cmds) (hrun : k.phase = .running)
    (hunits : k.units ≠ []) (hquench : (u.part p).quenchEn = false) (hst : (u.part p).st = .running)
    (hpause : (u.part p).pause = none) (n : Nat) (tag : Word) :
    u.partPauseMsg p n tag = (u.setPart p ((u.part p).pausing n tag), none) := by
  have hactive : (u.part p).active = true := List.any_eq_true.mpr ⟨k, hk, by simp [Cmd.holdsPause, hrun, hunits]⟩
  rw [State.partPauseMsg_eq hst hpause n tag fun hq => absurd (hquench.symm.trans hq) nofun]
  obtain ⟨x, hx⟩ : ∃ x, x = u.part p := ⟨_, rfl⟩
  rw [← hx] at hactive ⊢
  rw [State.pausePump, State.part_setPart c]
  refine congrArg (fun y : State => (y, (none : Option Compl))) (if_neg fun hno => ?_)
  obtain ⟨-, hidle, -⟩ := hno
  exact absurd ((congrArg not hactive).symm.trans hidle) nofun

theorem toNat_tag (m : List Byte) : (w32 (fld m 12 4)).toNat = fld m 12 4 := by
  rw [w32, BitVec.toNat_ofNat]
  exact Nat.mod_eq_of_lt (fld_lt m 12 4)

theorem partPause_pauses (h : Stated.Sent s 8 0x102 m) (hm1 : fld m 1 1 = p) (hp : p < 8)
    (hst : (s.part p).st = .running)
    (hpause : (s.part p).pause = none) (hserving : (s.part p).serving = none)
    (hcmds : ∀ k ∈ (s.part p).cmds, k.pauseable) :
    ∃ t, exec (.partPause 8 m) s = .next t ∧ t.part p = (s.part p).entering .paused ∧
      Stated.Answered s t 8 m ⟨0, 0, 0, 0, []⟩ := by
  have ct := State.canon_taken h.canon 8 m
  have hx := State.part_taken s 8 m p
  have hmsg := State.partPauseMsg_pauses (p := p) ct (by rw [hx]; exact hst) (by rw [hx]; exact hpause)
    (by rw [hx]; exact hserving) (by rw [hx]; exact hcmds) (Stated.number s 8 m) (w32 (fld m 12 4))
  rw [hx, toNat_tag, ← State.partMsg_pause _ p _ _ m] at hmsg
  obtain ⟨z, hz⟩ : ∃ z, z = (Stated.taken s 8 m).setPart p ((s.part p).entering .paused) := ⟨_, rfl⟩
  have cz : z.Canon := hz ▸ (Keeps.setPart .refl).canon ct
  have hmz : Moves [.parts] (Stated.taken s 8 m) z := hz ▸ Moves.setPart _ p _
  rw [← hz] at hmsg
  obtain ⟨hq, hresp⟩ := respond_after_taken h.toComes (.ofMoves hmz) cz hmz.mem (congrArg Dev.time hmz.dev)
    0x102 p (Stated.number s 8 m) (fld m 12 4) .ok 0
  refine ⟨_, partMsg_owed h (by decide) hm1 hmsg hq, ?_, ?_⟩
  · refine ((PartsKept.respond (by decide) z _ _ _ _ _ _ cz).2 p (by omega)).trans ?_
    rw [hz, State.part_setPart ct]
  · rw [Stated.Answered, h.isOp, hm1]
    exact hresp

theorem partPause_waits (h : Stated.Sent s 8 0x102 m) (hm1 : fld m 1 1 = p) {k : Cmd} (hk : k ∈ (s.part p).cmds)
    (hrun : k.phase = .running) (hunits : k.units ≠ []) (hquench : (s.part p).quenchEn = false)
    (hst : (s.part p).st = .running) (hpause : (s.part p).pause = none) :
    ∃ t, exec (.partPause 8 m) s = .next t ∧ t.mem = s.mem ∧
      t.part p = (s.part p).pausing (Stated.number s 8 m) (w32 (fld m 12 4)) := by
  have ct := State.canon_taken h.canon 8 m
  have hx := State.part_taken s 8 m p
  have hmsg := State.partPauseMsg_waits (p := p) ct (k := k) (by rw [hx]; exact hk) hrun hunits
    (by rw [hx]; exact hquench) (by rw [hx]; exact hst) (by rw [hx]; exact hpause) (Stated.number s 8 m)
      (w32 (fld m 12 4))
  rw [hx, ← State.partMsg_pause _ p _ _ m] at hmsg
  have hmz := Moves.setPart (Stated.taken s 8 m) p ((s.part p).pausing (Stated.number s 8 m) (w32 (fld m 12 4)))
  exact ⟨_, partMsg_owed h (by decide) hm1 hmsg
    ((RingsSame.ofMoves hmz).nothingToTake (nothingToTake_taken h.toComes)), hmz.mem, State.part_setPart ct _ _⟩

theorem State.heldPump_of_none (h : (s.part p).held = []) :
    s.heldPump p = s.setPart p { s.part p with held := [] } := by
  rw [State.heldPump, h]
  rfl

/-- With nothing held back PART_RESUME is its response. -/
theorem State.partResumeMsg_resumes (c : u.Canon) (hst : (u.part p).st = .paused) (hheld : (u.part p).held = [])
    (hp : p < 8) (n : Nat) (tag : Word) : ∃ t, u.partResumeMsg p n tag = (t, none) ∧
      t.part p = (u.part p).entering .running ∧ Moves [.parts]
        ((u.setPart p ((u.part p).entering .running)).respond 8 0x103 p n tag.toNat .ok 0) t := by
  obtain ⟨z, hz⟩ : ∃ z, z = u.setPart p ((u.part p).entering .running) := ⟨_, rfl⟩
  have cz : z.Canon := hz ▸ (Keeps.setPart .refl).canon c
  obtain ⟨cy, hkept⟩ := PartsKept.respond (r := 8) (by decide) z 0x103 p n tag.toNat .ok 0 cz
  have hpart : (z.respond 8 0x103 p n tag.toNat .ok 0).part p = (u.part p).entering .running := by
    rw [hkept p (by omega), hz, State.part_setPart c]
  have hmsg : u.partResumeMsg p n tag = ((z.respond 8 0x103 p n tag.toNat .ok 0).heldPump p, none) := by
    rw [State.partResumeMsg, if_pos hst, hz]
    rfl
  rw [← hz]
  generalize z.respond 8 0x103 p n tag.toNat .ok 0 = y at cy hpart hmsg ⊢
  have hy : (y.part p).held = [] := by
    rw [hpart]
    exact hheld
  rw [State.heldPump_of_none hy] at hmsg
  refine ⟨_, hmsg, ?_, Moves.setPart y p _⟩
  rw [State.part_setPart cy, ← hy]
  exact hpart

theorem partResume_resumes (h : Stated.Sent s 8 0x103 m) (hm1 : fld m 1 1 = p) (hp : p < 8)
    (hst : (s.part p).st = .paused) (hheld : (s.part p).held = []) :
    ∃ t, exec (.partResume 8 m) s = .next t ∧ t.part p = (s.part p).entering .running ∧
      Stated.Answered s t 8 m ⟨0, 0, 0, 0, []⟩ := by
  have ct := State.canon_taken h.canon 8 m
  have hx := State.part_taken s 8 m p
  obtain ⟨t, hmsg, hpart, hm⟩ := State.partResumeMsg_resumes (p := p) ct (by rw [hx]; exact hst)
    (by rw [hx]; exact hheld) hp (Stated.number s 8 m) (w32 (fld m 12 4))
  rw [← State.partMsg_resume _ p _ _ m] at hmsg
  rw [hx] at hpart hm
  rw [toNat_tag] at hm
  have cz : ((Stated.taken s 8 m).setPart p ((s.part p).entering .running)).Canon := (Keeps.setPart .refl).canon ct
  have hmz := Moves.setPart (Stated.taken s 8 m) p ((s.part p).entering .running)
  obtain ⟨hq, hresp⟩ := respond_after_taken h.toComes (.ofMoves hmz) cz hmz.mem (congrArg Dev.time hmz.dev)
    0x103 p (Stated.number s 8 m) (fld m 12 4) .ok 0
  refine ⟨t, partMsg_owed h (by decide) hm1 hmsg ((RingsSame.ofMoves hm).nothingToTake hq), hpart, ?_⟩
  rw [Stated.Answered, h.isOp, hm1]
  exact ⟨hm.mem.trans hresp.1, (hm.pg (by decide) .host 0 _).trans hresp.2.1,
    (congrArg Ring.hist (hm.ring (by decide) 8)).trans hresp.2.2⟩

/-! ## PART_RELEASE and PART_RESET (R307, R325) -/

theorem RingsSame.fumAbort (c : s.Canon) (n p : Nat) : RingsSame s (s.fumAbort n p) := by
  refine (List.foldlRecOn (motive := fun y : State => y.Canon ∧ RingsSame s y) _ _ ⟨c, .refl⟩ fun y hy i _ => ?_).2
  obtain ⟨cy, hsame⟩ := hy
  rw [State.fumAbortCmd]
  split
  · next k _ =>
    split
    · refine List.foldlRecOn (motive := fun z : State => z.Canon ∧ RingsSame s z) _ _ ⟨cy, hsame⟩ fun z hz ch _ => ?_
      obtain ⟨cz, hsz⟩ := hz
      have cerr : (z.fumErr n ch p k.tag).Canon := (Keeps.fumErr .refl).canon cz
      have herr : RingsSame z (z.fumErr n ch p k.tag) := .evErr cz (by decide) (by simp only [pageNo]; omega)
      refine ⟨(Keeps.movesBytes .refl).canon cerr, (hsz.trans herr).trans ?_⟩
      rw [State.movesBytes]
      split
      · exact .refl
      · exact ⟨rfl, rfl, rfl, fun _ _ => rfl⟩
    · exact ⟨cy, hsame⟩
  · exact ⟨cy, hsame⟩

/-- The end of a partition's work shows in pages of Fumarole units alone. -/
theorem RingsSame.scrubPart (c : s.Canon) (p : Nat) : RingsSame s (s.scrubPart p) := by
  have habort (n : Nat) (y : State) (hy : y.Canon ∧ RingsSame s y) :
      (y.fumAbort n p).Canon ∧ RingsSame s (y.fumAbort n p) :=
    ⟨(Keeps.fumAbort .refl).canon hy.1, hy.2.trans (.fumAbort hy.1 n p)⟩
  have hall : RingsSame s (forN 12 s fun n s => s.fumAbort n p) :=
    (List.foldlRecOn (motive := fun y : State => y.Canon ∧ RingsSame s y) _ _ ⟨c, .refl⟩
      fun y hy n _ => habort n y hy).2
  have hwork : RingsSame s (s.endWork p) := by
    rw [State.endWork_eq]
    exact (hall.trans (.ofMoves (Moves.dropWork _ p))).trans (.ofMoves (Moves.setPart _ p _))
  exact hwork.trans (.ofMoves (State.foldl_modUnit ((Keeps.endWork .refl).canon c) _ SeqUnit.zeroed fun _ => rfl).1)

theorem State.freesPump_of_none (h : s.stk.frees = []) : s.freesPump = s := by
  have hnone (fs : List (Nat × Word × Nat × List Nat)) (hfs : fs = []) :
      (fs.filter fun f => f.2.2.2.isEmpty).foldl (fun s f =>
        s.respond 8 0x111 0xFF f.1 f.2.1.toNat { Compl.ok with result := leBytes 4 f.2.2.1 } 0)
        (s.setStk { s.stk with frees := fs.filter fun f => !f.2.2.2.isEmpty }) = s := by
    rw [hfs]
    exact congrArg (fun x => s.setStk { s.stk with frees := x }) h.symm
  exact hnone _ (by rw [h]; rfl)

/-- Indices close up in the maps alone. -/
theorem Moves.closeUp_maps (s : State) : Moves [.maps] s s.closeUp :=
  (Moves.foldr (l := [.maps]) (fun _ x => .ite (Moves.setMaps x _) .refl) _ s).andThen
    (Moves.foldr (l := [.maps]) (fun _ x => .ite (Moves.setMaps x _) .refl) _ _)

theorem State.frees_enterScrub (ks : List Nat) (s : State) :
    (ks.foldl (fun s k => s.enterScrub k) s).stk.frees = s.stk.frees := by
  induction ks generalizing s with
  | nil => rfl
  | cons k ks ih => exact ih (s.enterScrub k)

theorem State.frees_scrubPart (c : s.Canon) (p : Nat) : (s.scrubPart p).stk.frees = s.stk.frees := by
  have habort : BusOnly s (forN 12 s fun n s => s.fumAbort n p) := .forN (fun n x => BusOnly.fumAbort x n p) _ _
  have cw : (s.endWork p).Canon := (Keeps.endWork .refl).canon c
  have hunits := (State.foldl_modUnit cw (s.partUnits p ++
    (s.part p).scrub.filter fun u => !(s.partUnits p).contains u) SeqUnit.zeroed fun _ => rfl).1
  have hwork : (s.endWork p).stk.frees = s.stk.frees := by
    rw [State.endWork_eq]
    generalize (forN 12 s fun n s => s.fumAbort n p) = a at habort
    exact (congrArg Stacks.frees habort.stk :)
  exact (congrArg Stacks.frees hunits.stk).trans hwork

/-- Where no MEM_FREE is under way nothing is written to a ring as a partition returns to EMPTY. -/
theorem Moves.emptyPart_of_none (h : s.stk.frees = []) (p : Nat) :
    Moves [.stk, .sprue, .parts, .maps] s (s.emptyPart p) := by
  obtain ⟨a, ha⟩ : ∃ a, a = (s.gransWith fun _ g => g.owner == p).foldl (fun s k => s.enterScrub k) s := ⟨_, rfl⟩
  have hma : Moves [.stk] s a := by
    rw [ha]
    exact Moves.foldl (fun x _ => Moves.setStk x _) _ _
  have hfrees : a.stk.frees = [] := by
    rw [ha, State.frees_enterScrub, h]
  have hform : s.emptyPart p =
      let b := a.freesPump.allStacks fun x => { x with slots := x.slots.filter fun (e : Nat × Nat) => e.2 ≠ p }
      let d := b.setSprue { b.sprue with slices := (tput 0 (tput 0 b.sprue.slices p 0) (8 + p) 0) }
      (d.modPart p fun q => { Part.empty with nextCid := q.nextCid }).closeUp := by
    rw [ha]
    rfl
  rw [hform, State.freesPump_of_none hfrees]
  exact ((((hma.mono.andThen (Moves.allStacks a _)).andThen (Moves.setSprue _ _)).andThen
    (Moves.setPart _ p _)).andThen (Moves.closeUp_maps _))

theorem State.partReleaseMsg_empties (hst : (u.part p).st = .configured) (n : Nat) (tag : Word) :
    u.partReleaseMsg p n tag = ((u.scrubPart p).emptyPart p, some .ok) := if_pos hst

theorem partRelease_empties (h : Stated.Sent s 8 0x104 m) (hm1 : fld m 1 1 = p) (hp : p < 8)
    (hst : (s.part p).st = .configured) (hfrees : s.stk.frees = []) : ∃ t, exec (.partRelease 8 m) s = .next t ∧
      t.part p = { Part.empty with nextCid := (s.part p).nextCid } ∧ Stated.Answered s t 8 m ⟨0, 0, 0, 0, []⟩ ∧
      ∀ g, (s.gran g).owner = p → (t.gran g).owner = if (s.gran g).retired then 0xE else 0xD := by
  have ct := State.canon_taken h.canon 8 m
  have hx := State.part_taken s 8 m p
  have hmt := s.moves_taken 8 m
  have hmsg := State.partReleaseMsg_empties (p := p) (by rw [hx]; exact hst) (Stated.number s 8 m) (w32 (fld m 12 4))
  rw [← State.partMsg_release _ p _ _ m] at hmsg
  have hscrub := State.scrubPart_scrubs ct p
  have hnone : ((Stated.taken s 8 m).scrubPart p).stk.frees = [] := by
    rw [State.frees_scrubPart ct, hmt.stk, hfrees]
  obtain ⟨cz, -, hpart, hgran⟩ := State.emptyPart_empties (p := p) hscrub.canon (by omega)
  have hempty := Moves.emptyPart_of_none hnone p
  obtain ⟨t, hrow, htraffic, hkept, hans⟩ := partMsg_answered h (by decide) hm1 hmsg
    ((RingsSame.scrubPart ct p).trans (.ofMoves hempty)) cz ((hempty.mem.trans hscrub.moves.mem).trans hmt.mem)
    (congrArg Dev.time ((hempty.dev.trans hscrub.moves.dev).trans hmt.dev)) hp
  refine ⟨t, hrow, ?_, hans, fun g hg => ?_⟩
  · rw [hkept, hpart, hscrub.part, hx]
    rfl
  · have hsame : ((Stated.taken s 8 m).scrubPart p).gran g = s.gran g := by
      rw [State.gran, hscrub.gran, hmt.stk]
      rfl
    rw [State.gran_of_stk htraffic.moves.stk, hgran, hsame, if_pos hg]

/-- The partition that drains, its release to be answered. -/
def Part.draining (x : Part) (seq : Nat) (tag : Word) : Part := { x with st := .draining, release := some (seq, tag) }

theorem State.partReleaseMsg_drains (hst : (u.part p).st = .loaded ∨ (u.part p).st = .running ∨ (u.part p).st = .paused)
    (n : Nat) (tag : Word) : u.partReleaseMsg p n tag =
      ((u.setPart p ((u.part p).draining n tag)).stopUnits ((u.setPart p ((u.part p).draining n tag)).partUnits p),
        none) := by
  have hne : (u.part p).st ≠ .configured := by
    obtain h | h | h := hst <;> exact h ▸ nofun
  exact (if_neg hne).trans (if_pos hst)

theorem partRelease_drains (h : Stated.Sent s 8 0x104 m) (hm1 : fld m 1 1 = p)
    (hst : (s.part p).st = .loaded ∨ (s.part p).st = .running ∨ (s.part p).st = .paused) :
    ∃ t, exec (.partRelease 8 m) s = .next t ∧ t.mem = s.mem ∧
      t.part p = (s.part p).draining (Stated.number s 8 m) (w32 (fld m 12 4)) ∧
      ∀ u ∈ s.partUnits p, (t.unit u).run = .idle := by
  have ct := State.canon_taken h.canon 8 m
  have hx := State.part_taken s 8 m p
  have hmt := s.moves_taken 8 m
  have hmsg := State.partReleaseMsg_drains (p := p) (by rw [hx]; exact hst) (Stated.number s 8 m) (w32 (fld m 12 4))
  rw [← State.partMsg_release _ p _ _ m, hx] at hmsg
  obtain ⟨z, hz⟩ : ∃ z, z = (Stated.taken s 8 m).setPart p
    ((s.part p).draining (Stated.number s 8 m) (w32 (fld m 12 4))) :=
    ⟨_, rfl⟩
  have cz : z.Canon := hz ▸ (Keeps.setPart .refl).canon ct
  have hmz : Moves [.parts] (Stated.taken s 8 m) z := hz ▸ Moves.setPart _ p _
  have hpart : z.part p = (s.part p).draining (Stated.number s 8 m) (w32 (fld m 12 4)) := hz ▸ State.part_setPart ct ..
  have hunits : z.partUnits p = s.partUnits p := by
    rw [State.partUnits, hpart, hz]
    rfl
  rw [← hz] at hmsg
  have hstop := Moves.stopUnits z (z.partUnits p)
  refine ⟨_, partMsg_owed h (by decide) hm1 hmsg
    (((RingsSame.ofMoves hmz).trans (.ofMoves hstop)).nothingToTake (nothingToTake_taken h.toComes)),
    (hstop.mem.trans hmz.mem).trans hmt.mem, (hstop.part (p := p)).trans hpart, fun u hu => ?_⟩
  rw [State.unit_stopUnits cz, if_pos (hunits ▸ hu)]
  rfl

theorem State.partResetMsg_resets
    (hst : (u.part p).st = .loaded ∨ ((u.part p).st = .faulted ∧ (u.part p).tearing = false) ∨
    ((u.part p).st = .running ∧ (u.part p).serving = none ∧ ∀ k ∈ (u.part p).cmds, k.phase = .answered))
    (n : Nat) (tag : Word) : ∃ x, u.partResetMsg p n tag = (u.setPart p x, some .ok) ∧ x.st = .configured ∧
      x.cfg = (u.part p).cfg := by
  obtain hst | ⟨hst, htear⟩ | ⟨hst, hserving, hcmds⟩ := hst
  · exact ⟨_, if_pos (.inl hst), rfl, rfl⟩
  · refine ⟨_, (if_neg ?_).trans ((if_pos hst).trans (if_neg (Bool.eq_false_iff.mp htear))), rfl, rfl⟩
    rw [hst]
    exact fun h => h.elim nofun fun h => absurd h.1 nofun
  · refine ⟨_, if_pos (.inr ⟨hst, ?_⟩), rfl, rfl⟩
    rw [hserving]
    exact List.all_eq_true.mpr fun k hk => beq_iff_eq.mpr (hcmds k hk)

theorem partReset_resets (h : Stated.Sent s 8 0x105 m) (hm1 : fld m 1 1 = p) (hp : p < 8)
    (hst : (s.part p).st = .loaded ∨ ((s.part p).st = .faulted ∧ (s.part p).tearing = false) ∨
      ((s.part p).st = .running ∧ (s.part p).serving = none ∧ ∀ k ∈ (s.part p).cmds, k.phase = .answered)) :
    ∃ t, exec (.partReset 8 m) s = .next t ∧ Stated.Answered s t 8 m ⟨0, 0, 0, 0, []⟩ ∧
      (t.part p).st = .configured ∧ (t.part p).cfg = (s.part p).cfg := by
  have ct := State.canon_taken h.canon 8 m
  have hx := State.part_taken s 8 m p
  have hmt := s.moves_taken 8 m
  obtain ⟨x, hmsg, hconf, hcfg⟩ := State.partResetMsg_resets (p := p) (u := Stated.taken s 8 m) (by rw [hx]; exact hst)
    (Stated.number s 8 m) (w32 (fld m 12 4))
  rw [← State.partMsg_reset _ p _ _ m] at hmsg
  rw [hx] at hcfg
  have cz : ((Stated.taken s 8 m).setPart p x).Canon := (Keeps.setPart .refl).canon ct
  have hmz := Moves.setPart (Stated.taken s 8 m) p x
  obtain ⟨t, hrow, -, hkept, hans⟩ := partMsg_answered h (by decide) hm1 hmsg (.ofMoves hmz) cz (hmz.mem.trans hmt.mem)
    (congrArg Dev.time (hmz.dev.trans hmt.dev)) hp
  rw [State.part_setPart ct] at hkept
  exact ⟨t, hrow, hans, by rw [hkept, hconf], by rw [hkept, hcfg]⟩

end Sys2Proof.Machine

open Sys2Proof Sys2Proof.Machine in
/-- Settles O47: a message of a partition is carried out where it is taken and then answered; the answer leaves the
partition's record as the message made it. -/
theorem partitionMessagesAct : Obligations.PartitionMessagesAct := by
  intro s m p x ok hm1 hp
  refine ⟨fun save h hst hslots hplace hlack => ?_, fun h hst => ?_, fun h hst hpause hserving hcmds => ?_,
    fun k hk hrun hunits hquench h hst hpause => ?_, fun h hst hheld => ?_, fun h hst hfrees => ?_, fun h hst => ?_,
    fun h hst => ?_⟩
  · exact partCfg_configures h hm1 hp hst hslots hplace hlack
  · exact partLoad_loads h hm1 hp hst
  · exact partPause_pauses h hm1 hp hst hpause hserving hcmds
  · exact partPause_waits h hm1 hk hrun hunits hquench hst hpause
  · exact partResume_resumes h hm1 hp hst hheld
  · exact partRelease_empties h hm1 hp hst hfrees
  · exact partRelease_drains h hm1 hst
  · exact partReset_resets h hm1 hp hst

end

section
/-! SUPPORT. Ladle messages at their arrival (R258, R262, R265, R274) and members that are lost or probed
  (R273, R366). -/
set_option Elab.async false

namespace Sys2Proof.Machine

variable {s t u : State} {p r dev port : Nat} {m : LdMsg}

/-! ## Vents on any ring leave the Ladles alone -/

/-- From `s` to `t` every partition's Ladle, and the events of every Ladle page, are as they were. -/
def LadlesKept (s t : State) : Prop := s.Canon → t.Canon ∧ (∀ p, (t.part p).ladle = (s.part p).ladle) ∧
  ∀ d, t.pg .ladle d 0x14 = s.pg .ladle d 0x14

namespace LadlesKept

theorem refl : LadlesKept s s := fun c => ⟨c, fun _ => rfl, fun _ => rfl⟩

theorem trans (h : LadlesKept s t) (h' : LadlesKept t u) : LadlesKept s u := fun c =>
  have ⟨ct, hp, hd⟩ := h c
  have ⟨cu, hp', hd'⟩ := h' ct
  ⟨cu, fun p => (hp' p).trans (hp p), fun d => (hd' d).trans (hd d)⟩

theorem ite {c : Prop} [Decidable c] (ht : LadlesKept s t) (hu : LadlesKept s u) :
    LadlesKept s (if c then t else u) := by
  split
  · exact ht
  · exact hu

theorem repeatStep {f : State → Option State} (hf : ∀ x y, f x = some y → LadlesKept x y) (n : Nat) (s : State) :
    LadlesKept s (Machine.repeatStep f n s) := by
  induction n generalizing s with
  | zero => exact refl
  | succ n ih =>
    rw [Machine.repeatStep]
    split
    case h_1 y hy => exact (hf s y hy).trans (ih y)
    case h_2 => exact refl

theorem ofPosts (h : Posts s t) : LadlesKept s t := fun c =>
  ⟨(h c).canon, fun p => (congrArg Part.ladle ((h c).part p) :),
    fun _ => (h c).page .ladle _ 0x14 (by decide) (by simp only [pageNo]; omega)⟩

theorem setRing (s : State) (q : Nat) (g : Ring) : LadlesKept s (s.setRing q g) := fun c =>
  ⟨State.canon_setRing c q g, fun _ => rfl, fun _ => rfl⟩

/-- Only registers at 0x20 of a ring move with what is written to it. -/
theorem cqPut (s : State) (r : Nat) (bs : List Byte) : LadlesKept s (s.cqPut r bs) := by
  refine .trans (ofPosts (Posts.setHostBytes s _ _)) fun c => ⟨State.canon_setPg c .., fun _ => rfl, fun d => ?_⟩
  refine State.pg_setPg_ne c _ ?_
  simp only [pageNo, ringOff]
  omega

theorem putEntry (s : State) (r : Nat) (e : Entry) (rest : List Entry) : LadlesKept s (s.putEntry r e rest) := by
  unfold State.putEntry
  dsimp only
  split
  · exact ((cqPut s r _).trans (setRing _ r _)).trans (ofPosts (Posts.answered _ r _ _))
  · exact (cqPut s r _).trans (setRing _ r _)

theorem writeOne {e : Entry} {rest : List Entry} (h : s.writeOne r e rest = some t) : LadlesKept s t := by
  obtain ⟨_, fill, hw⟩ := s.writeOne_eq r e rest
  rw [hw] at h
  split at h
  · exact absurd h nofun
  · obtain rfl := Option.some.inj h
    have hfill : LadlesKept s (s.putFill r fill) := ite refl (cqPut s r _)
    exact .trans (.trans (hfill.trans (putEntry _ r e rest)) (ofPosts (Posts.irqEntry _ r _)))
      (ofPosts (Posts.fencePump _ r))

theorem flushOne (h : s.flushOne r = some t) : LadlesKept s t := by
  unfold State.flushOne at h
  split at h
  · exact writeOne h
  · exact absurd h nofun

theorem post (s : State) (r : Nat) (e : Entry) : LadlesKept s (s.post r e) :=
  .trans (.trans (setRing s r _) (ite (repeatStep (fun _ _ h => flushOne h) _ _) refl)) (ofPosts (Posts.cqWait _ r))

theorem vent (s : State) (r opcode part : Nat) (body : List Byte) : LadlesKept s (s.vent r opcode part body) := by
  unfold State.vent
  exact ite (post s r _) refl

end LadlesKept

/-! ## Members lost and probed -/

/-- The Ladle with a member counted lost. -/
def LadleP.losing (l : LadleP) (dev : Nat) : LadleP := { l with lost := l.lost ++ [dev] }

/-- A member that is lost is listed, and both Ladle pages tell of it. -/
theorem State.memberLost_lists (c : s.Canon) (hm : s.isMember p dev = true) (hl : dev ∉ (s.part p).ladle.lost) :
    ((s.memberLost p dev).part p).ladle = (s.part p).ladle.losing dev ∧
      bit ((s.memberLost p dev).pg .ladle 0 0x14) 4 = true ∧ bit ((s.memberLost p dev).pg .ladle 1 0x14) 4 = true := by
  have hcond : s.isMember p dev = true ∧ (!(s.part p).ladle.lost.contains dev) = true := ⟨hm, by simp [hl]⟩
  obtain ⟨x, hx⟩ : ∃ x, x = s.modPart p fun q => { q with ladle := q.ladle.losing dev } := ⟨_, rfl⟩
  have cx : x.Canon := hx ▸ (Keeps.modPart .refl).canon c
  have hpart : (x.part p).ladle = (s.part p).ladle.losing dev := by
    rw [hx, State.modPart, State.part_setPart c]
  obtain ⟨y, hy⟩ : ∃ y, y = x.evErr .ladle 0 4 4 p dev 0 := ⟨_, rfl⟩
  have cy : y.Canon := hy ▸ (Keeps.evErr .refl).canon cx
  have hxy : Moves [.bus] x y := hy ▸ Moves.evErr x (by decide)
  have hb0 : bit (y.pg .ladle 0 0x14) 4 = true := hy ▸ State.bit_evErr_self cx (by decide) (by decide)
  obtain ⟨z, hz⟩ : ∃ z, z = y.evErr .ladle 1 4 4 p dev 0 := ⟨_, rfl⟩
  have cz : z.Canon := hz ▸ (Keeps.evErr .refl).canon cy
  have hyz : Moves [.bus] y z := hz ▸ Moves.evErr y (by decide)
  have hb1 : bit (z.pg .ladle 1 0x14) 4 = true := hz ▸ State.bit_evErr_self cy (by decide) (by decide)
  have hb0' : bit (z.pg .ladle 0 0x14) 4 = true := by
    rw [hz, State.pg_evErr_ne cy (by decide) (by decide) (by decide)]
    exact hb0
  have hform : s.memberLost p dev = z.vent p 0x800C p
      (leBytes 4 dev ++ leBytes 4 (s.part p).ladle.epoch ++ leBytes 8 z.now) := by
    rw [hz, hy, hx]
    exact if_pos hcond
  obtain ⟨-, hladle, hevent⟩ := LadlesKept.vent z p 0x800C p
    (leBytes 4 dev ++ leBytes 4 (s.part p).ladle.epoch ++ leBytes 8 z.now) cz
  rw [hform, hladle, hevent, hevent, ← hpart]
  exact ⟨congrArg Part.ladle ((hyz.part (p := p)).trans (hxy.part (p := p))), hb0', hb1⟩

theorem State.isMember_of (he : (s.part p).ladle.epoch ≠ 0) (hm : dev ∈ (s.part p).ladle.members)
    (hne : dev ≠ s.fabric.devId) : s.isMember p dev = true := by
  simp [State.isMember, State.devId, he, hm, hne]

theorem State.memberLost_of_lost (h : dev ∈ (s.part p).ladle.lost) : s.memberLost p dev = s :=
  if_neg fun hno => by simp [h] at hno

/-- The probe of a member. -/
def probeMsg (s : State) (p dev tag : Nat) : FabMsg :=
  .raw (fabBytes (s.part p).ladle.ver 0 0x10 s.fabric.devId dev p p (s.part p).ladle.epoch tag
    (leBytes 4 (s.part p).ladle.epoch))

theorem Moves.setPort (s : State) (n : Nat) (x : Port) : Moves [.fabric] s (s.setPort n x) := Moves.setFabric s _

theorem Moves.count64 (s : State) (k : PageKind) (i off n : Nat) : Moves [.bus] s (s.count64 k i off n) :=
  .ofBusOnly .count64

theorem Moves.txPump (s : State) (n : Nat) : Moves [.bus, .fabric] s (s.txPump n) :=
  .ite ((Moves.setPort s _ _).mono.andThen (Moves.count64 _ _ _ _ _)) .refl

theorem Moves.ethPut (s : State) (n : Nat) (m : FabMsg) (b : Nat) : Moves [.bus, .fabric] s (s.ethPut n m b) :=
  .ite ((Moves.setPort s _ _).mono.andThen (Moves.count64 _ _ _ _ _)) .refl

/-- A message that a port sends shows in the port and in what it counts. -/
theorem Moves.portSend (s : State) (n half : Nat) (m : FabMsg) : Moves [.bus, .fabric] s (s.portSend n half m) :=
  .ite ((Moves.setPort s _ _).mono.andThen (Moves.ethPut _ _ _ _))
    ((Moves.setPort s _ _).mono.andThen (Moves.txPump _ _))

theorem State.fabSend_of_route {n : Nat × Nat} (h : s.routeOf 0 dev = some n) (vc : Nat) (mk : Nat → Nat → FabMsg) :
    (s.fabSend 0 dev vc mk).2 = true ∧ (s.fabSend 0 dev vc mk).1.mem = s.mem := by
  rw [State.fabSend, h]
  exact ⟨rfl, (Moves.portSend _ _ _ _).mem⟩

theorem State.fabSend_of_none (h : s.routeOf 0 dev = none) (vc : Nat) (mk : Nat → Nat → FabMsg) :
    s.fabSend 0 dev vc mk = (s, false) := by
  rw [State.fabSend, h]

theorem probeDue_goes (hm : s.isMember p dev = true)
    (hdue : tget 0 s.fabric.heard dev + (s.part p).ladle.lossTo * 250000 ≤ s.dev.time) :
    exec (.probeDue p dev) s = match s.fabSend 0 dev 0 fun _ tag => probeMsg s p dev tag with
      | (x, true) => .next x
      | (x, false) => .next (x.lostRoute p dev) := if_pos ⟨hm, hdue⟩

theorem probeDue_probes (hm : s.isMember p dev = true) {n : Nat × Nat} (hr : s.routeOf 0 dev = some n)
    (hdue : tget 0 s.fabric.heard dev + (s.part p).ladle.lossTo * 250000 ≤ s.dev.time) :
    ∃ t, exec (.probeDue p dev) s = .next t ∧ t.mem = s.mem ∧
      t.fabric = (s.fabSend 0 dev 0 fun _ tag => probeMsg s p dev tag).1.fabric := by
  obtain ⟨hsent, hmem⟩ := State.fabSend_of_route hr 0 fun _ tag => probeMsg s p dev tag
  refine ⟨_, (probeDue_goes hm hdue).trans ?_, hmem, rfl⟩
  generalize s.fabSend 0 dev 0 (fun _ tag => probeMsg s p dev tag) = x at hsent
  obtain ⟨x, b⟩ := x
  obtain rfl : b = true := hsent
  rfl

theorem probeDue_loses (c : s.Canon) (hp : p < 8) (hm : s.isMember p dev = true) (hr : s.routeOf 0 dev = none)
    (hdue : tget 0 s.fabric.heard dev + (s.part p).ladle.lossTo * 250000 ≤ s.dev.time) :
    ∃ t, exec (.probeDue p dev) s = .next t ∧ dev ∈ (t.part p).ladle.lost := by
  refine ⟨s.memberLost p dev, ?_, ?_⟩
  · rw [probeDue_goes hm hdue, State.fabSend_of_none hr]
    exact congrArg Host.Outcome.next (if_pos hp)
  · by_cases hl : dev ∈ (s.part p).ladle.lost
    · rw [State.memberLost_of_lost hl]
      exact hl
    · rw [(State.memberLost_lists c hm hl).1]
      exact List.mem_append_right _ List.mem_cons_self

/-! ## Messages at their arrival -/

theorem exec_ldArrival (hp : Stated.ldPart m = p) (s : State) :
    exec (Stated.ldArrival port m) s = .next (s.ldReceive port m p) := by
  subst hp
  cases m <;> rfl

/-- The bytes of a message counted where it arrives. -/
def State.ldCounted (s : State) (m : LdMsg) : State := s.count64 .ladle m.home 0x144 (ldBytes m)

theorem Moves.ldCounted (s : State) (m : LdMsg) : Moves [.bus] s (s.ldCounted m) := Moves.count64 s _ _ _ _

theorem State.canon_ldCounted (c : s.Canon) (m : LdMsg) : (s.ldCounted m).Canon := (Keeps.count64 .refl).canon c

theorem Moves.ldHear (s : State) (p : Nat) (m : LdMsg) : Moves [.fabric] s (s.ldHear p m) := by
  rw [State.ldHear]
  split
  · exact Moves.setFabric _ _
  · exact .refl

theorem State.canon_ldHear (c : s.Canon) (p : Nat) (m : LdMsg) : (s.ldHear p m).Canon := (Keeps.ldHear .refl).canon c

/-- Where a message of the present epoch is judged. -/
def State.ldHeard (s : State) (p : Nat) (m : LdMsg) : State := (s.ldCounted m).ldHear p m

theorem Moves.ldHeard (s : State) (p : Nat) (m : LdMsg) : Moves [.bus, .fabric] s (s.ldHeard p m) :=
  (Moves.ldCounted s m).mono.andThen (Moves.ldHear _ p m)

theorem State.canon_ldHeard (c : s.Canon) (p : Nat) (m : LdMsg) : (s.ldHeard p m).Canon :=
  State.canon_ldHear (State.canon_ldCounted c m) p m

section
variable (h : Stated.LdArrives s port p m)
include h

/-- What a message meets at its arrival, by its epoch. -/
theorem State.ldReceive_eq : s.ldReceive port m p =
    if m.epoch < (s.part p).ladle.epoch then s.ldCounted m
    else if (s.part p).ladle.epoch < m.epoch then
      if s.ldFull p m then s else (s.ldCounted m).modPart p fun q =>
        { q with ladle := { q.ladle with future := q.ladle.future ++ [m] } }
    else match (s.ldHeard p m).ldTake p m with
      | some t => t.ldRetry p
      | none => if s.ldFull p m then s else (s.ldHeard p m).ldKeep p m := by
  rw [State.ldReceive]
  dsimp only
  rw [if_neg, if_neg h.up]
  · rfl
  · have hp := h.isPart
    simp [h.link, h.live]
    omega

theorem ldArrival_of_past (he : m.epoch < (s.part p).ladle.epoch) :
    exec (Stated.ldArrival port m) s = .next (s.ldCounted m) := by
  rw [exec_ldArrival h.part, State.ldReceive_eq h, if_pos he]

theorem ldArrival_of_future (he : (s.part p).ladle.epoch < m.epoch) (hf : s.ldFull p m = false) :
    exec (Stated.ldArrival port m) s = .next ((s.ldCounted m).modPart p fun q =>
      { q with ladle := { q.ladle with future := q.ladle.future ++ [m] } }) := by
  rw [exec_ldArrival h.part, State.ldReceive_eq h, if_neg (by omega), if_pos he, hf, if_neg nofun]

theorem ldArrival_of_full (he : (s.part p).ladle.epoch < m.epoch) (hf : s.ldFull p m = true) :
    exec (Stated.ldArrival port m) s = .next s := by
  rw [exec_ldArrival h.part, State.ldReceive_eq h, if_neg (by omega), if_pos he, if_pos hf]

theorem ldArrival_of_kept (he : m.epoch = (s.part p).ladle.epoch) (ht : (s.ldHeard p m).ldTake p m = none)
    (hf : s.ldFull p m = false) : exec (Stated.ldArrival port m) s = .next ((s.ldHeard p m).ldKeep p m) := by
  rw [exec_ldArrival h.part, State.ldReceive_eq h, if_neg (by omega), if_neg (by omega), ht]
  exact congrArg Host.Outcome.next (if_neg (Bool.eq_false_iff.mp hf))

theorem ldArrival_of_taken (he : m.epoch = (s.part p).ladle.epoch) (ht : (s.ldHeard p m).ldTake p m = some t) :
    exec (Stated.ldArrival port m) s = .next (t.ldRetry p) := by
  rw [exec_ldArrival h.part, State.ldReceive_eq h, if_neg (by omega), if_neg (by omega), ht]

end

theorem State.ldFull_of_room (h : m.isSeg = true → s.ldUsed p m.home < (s.part p).ladleBufs m.home) :
    s.ldFull p m = false := by
  rw [State.ldFull]
  cases hs : m.isSeg with
  | false => rfl
  | true =>
    have hroom := h hs
    simp
    omega

/-- Without a collective and without a seal no message but the word of a seal finds what takes it. -/
theorem State.ldTake_of_idle (hc : (s.part p).ladle.colls = []) (hz : (s.part p).step.sealing = none)
    (hm : ∀ w, m ≠ .sealDown w) : s.ldTake p m = none := by
  have hcoll (q : Coll → Bool) : s.coll? p q = none := by rw [State.coll?, hc]; rfl
  have hred (i n : Nat) : s.redOf p i n = none := hcoll _
  cases m with
  | preUp x => rw [State.ldTake, hred]
  | preDown x => rw [State.ldTake, hred]
  | seg x => rw [State.ldTake, hred]
  | gseg x =>
    have hgather : (if x.cancel then s.gatherNamed p x else s.gatherOf p x) = none := by
      rw [State.gatherNamed, State.gatherOf]
      simp only [hcoll, ite_self]
    rw [State.ldTake, hgather]
  | sealUp x => rw [State.ldTake, hz]
  | sealDown x => exact absurd rfl (hm x)

theorem ladleMessagesArrive : Stated.LadleMessagesArrive := by
  intro s port p m h l
  have hcount := Moves.ldCounted s m
  have cc := State.canon_ldCounted h.canon m
  refine ⟨fun he => ⟨_, ldArrival_of_past h he, hcount.mem, hcount.parts, hcount.fabric⟩, fun he hroom => ?_,
    fun he hcolls hseal hdown hroom => ?_, fun he hseg hfull => ?_⟩
  · refine ⟨_, ldArrival_of_future h he (State.ldFull_of_room hroom), hcount.mem, ?_⟩
    rw [State.modPart, State.part_setPart cc, hcount.part]
  · have hheard := Moves.ldHeard s p m
    have hpart := hheard.part (p := p)
    have htake : (s.ldHeard p m).ldTake p m = none :=
      State.ldTake_of_idle (by rw [hpart]; exact hcolls) (by rw [hpart]; exact hseal) hdown
    refine ⟨_, ldArrival_of_kept h he htake (State.ldFull_of_room hroom), hheard.mem, ?_⟩
    rw [State.ldKeep, State.modPart, State.part_setPart (State.canon_ldHeard h.canon p m), hpart]
  · refine ldArrival_of_full h he ?_
    rw [State.ldFull, hseg]
    exact decide_eq_true hfull

end Sys2Proof.Machine

open Sys2Proof Sys2Proof.Machine in
/-- Settles O25: a message is judged by its epoch, then by what takes it; a member that is lost is listed before the
Vent that tells of it, and no Vent moves a Ladle. -/
theorem ladleArrivalsAndMembers : Obligations.LadleArrivalsAndMembers := by
  refine ⟨ladleMessagesArrive, ?_⟩
  intro s p dev l
  refine ⟨fun c he hm hne hl => ?_, fun hl => ?_, fun hsoon => ?_, fun n he hm hne hr hdue => ?_,
    fun c hp he hm hne hr hdue => ?_⟩
  · exact ⟨_, rfl, State.memberLost_lists c (State.isMember_of he hm hne) hl⟩
  · exact congrArg Host.Outcome.next (State.memberLost_of_lost hl)
  · exact if_neg fun hno => absurd hno.2 (Nat.not_le.mpr hsoon)
  · exact probeDue_probes (State.isMember_of he hm hne) hr hdue
  · exact probeDue_loses c hp (State.isMember_of he hm hne) hr hdue

end

section
/-! SUPPORT. What the Ladle's own operations leave: rights, the collectives of a partition,
  what waits (R257 to R271). -/
set_option Elab.async false

namespace Sys2Proof.Machine

variable {s t u z : State} {p i pos : Nat} {x y : Coll} {f : Coll → Coll} {o : Compl} {k : Cmd}

/-! ## Rights -/

/-- The two states agree on memory and on what decides whether a tag reads or writes a byte. -/
structure SameRights (s t : State) : Prop where
  mem : t.mem = s.mem
  taps : t.taps = s.taps
  stk : t.stk = s.stk
  cfg : ∀ p, (t.part p).cfg = (s.part p).cfg
  st : ∀ p, (t.part p).st = (s.part p).st

namespace SameRights

theorem refl : SameRights s s := ⟨rfl, rfl, rfl, fun _ => rfl, fun _ => rfl⟩

theorem trans (h : SameRights s t) (h' : SameRights t z) : SameRights s z :=
  ⟨h'.mem.trans h.mem, h'.taps.trans h.taps, h'.stk.trans h.stk, fun p => (h'.cfg p).trans (h.cfg p),
    fun p => (h'.st p).trans (h.st p)⟩

theorem ofWrites (h : SameWrites s t) : SameRights s t :=
  ⟨h.mem, h.taps, h.stk, fun p => congrArg Part.cfg (State.part_eq_of_parts h.parts p),
    fun p => congrArg Part.st (State.part_eq_of_parts h.parts p)⟩

theorem modPart {f : Part → Part} (c : s.Canon) (hcfg : (f (s.part p)).cfg = (s.part p).cfg)
    (hst : (f (s.part p)).st = (s.part p).st) : SameRights s (s.modPart p f) := by
  have hcase (q : Nat) : ((s.modPart p f).part q = s.part q) ∨ (q = p ∧ (s.modPart p f).part q = f (s.part p)) := by
    by_cases hq : q = p
    · exact .inr ⟨hq, by rw [hq]; exact State.part_setPart c ..⟩
    · exact .inl (State.part_setPart_ne c _ hq)
  refine ⟨rfl, rfl, rfl, fun q => ?_, fun q => ?_⟩
  · obtain hq | ⟨rfl, hq⟩ := hcase q
    · rw [hq]
    · rw [hq, hcfg]
  · obtain hq | ⟨rfl, hq⟩ := hcase q
    · rw [hq]
    · rw [hq, hst]

theorem modRed (c : s.Canon) (p n : Nat) (f : StepRed → StepRed) : SameRights s (s.modRed p n f) :=
  modPart (f := fun q => { q with step := _ }) c rfl rfl

theorem modColl (c : s.Canon) (p i : Nat) (f : Coll → Coll) : SameRights s (s.modColl p i f) := modPart c rfl rfl

theorem allows (h : SameRights s t) (tag : Nat) (w : Bool) (a : Nat) : t.allows tag w a = s.allows tag w a := by
  have hgran (i : Nat) : t.gran i = s.gran i := State.gran_of_stk h.stk i
  have hstack (i : Nat) : t.stack i = s.stack i := State.stack_of_stk (congrArg Stacks.st h.stk :) i
  simp only [State.allows, State.codeAt, State.codeAllows, Part.trUse, Part.flags, hgran, hstack, h.cfg, h.st]

theorem firstBad (h : SameRights s t) (tag : Nat) (w : Bool) (a n : Nat) :
    t.firstBad tag w a n = s.firstBad tag w a n := by
  have hgo (e m : Nat) : ∀ a, t.firstBadGo tag w e m a = s.firstBadGo tag w e m a := by
    induction m with
    | zero => exact fun _ => rfl
    | succ m ih =>
      intro a
      rw [State.firstBadGo, State.firstBadGo, h.allows, ih]
  rw [State.firstBad, State.firstBad, hgo]

theorem tagAccess (h : SameRights s t) {rs : List Range} (hs : s.tagAccess p rs = none) : t.tagAccess p rs = none := by
  have hbad : t.badRange p rs = s.badRange p rs := by
    rw [State.badRange, State.badRange]
    simp only [h.firstBad]
  have hpoison : t.poisoned rs = s.poisoned rs := by
    have hgo (e m : Nat) : ∀ a, t.poisonedGo e m a = s.poisonedGo e m a := by
      induction m with
      | zero => exact fun _ => rfl
      | succ m ih =>
        intro a
        rw [State.poisonedGo, State.poisonedGo, ih]
        simp only [State.gran_of_stk h.stk]
    rw [State.poisoned, State.poisoned]
    simp only [hgo]
  rw [State.tagAccess, hbad, hpoison]
  rw [State.tagAccess] at hs
  cases hb : s.badRange p rs with
  | some a => rw [hb] at hs; exact absurd hs nofun
  | none =>
    rw [hb] at hs
    cases hq : s.poisoned rs with
    | some a => rw [hq] at hs; exact absurd hs nofun
    | none => rfl

theorem rd (h : SameRights s t) (tag a n : Nat) : t.rd tag a n = s.rd tag a n := by
  have hbyte (a : Nat) : t.byte a = s.byte a := State.byte_of_mem h.mem a
  simp only [State.rd, h.firstBad, State.bytes, hbyte, h.allows]

theorem rdU (h : SameRights s t) (tag a n : Nat) : t.rdU tag a n = s.rdU tag a n := congrArg leNat (h.rd tag a n)

theorem rdW (h : SameRights s t) (tag a : Nat) : t.rdW tag a = s.rdW tag a := congrArg w32 (h.rdU tag a 4)

theorem lElem (h : SameRights s t) (p : Nat) (d : List Byte) (i : Nat) : t.lElem p d i = s.lElem p d i := by
  rw [State.lElem, State.lElem, h.rdU, h.rdW, h.rdU]

theorem setByte (h : SameRights s t) (a : Nat) (b : Byte) : SameRights (s.setByte a b) (t.setByte a b) :=
  ⟨by rw [State.setByte, State.setByte, State.setMem, h.mem]; rfl, h.taps, h.stk, h.cfg, h.st⟩

theorem forN {f g : Nat → State → State} (hf : ∀ i x y, SameRights x y → SameRights (f i x) (g i y)) (n : Nat)
    (h : SameRights s t) : SameRights (Machine.forN n s f) (Machine.forN n t g) := by
  induction n with
  | zero => exact h
  | succ n ih =>
    rw [forN_succ, forN_succ]
    exact hf n _ _ ih

theorem setBytes (h : SameRights s t) (a : Nat) (bs : List Byte) : SameRights (s.setBytes a bs) (t.setBytes a bs) := by
  induction bs generalizing s t a with
  | nil => exact h
  | cons b bs ih => exact ih (h.setByte a b) (a + 1)

theorem wr (h : SameRights s t) (tag a : Nat) (bs : List Byte) : SameRights (s.wr tag a bs) (t.wr tag a bs) := by
  have hdrives : t.drives 0 = s.drives 0 := by rw [State.drives, State.drives, State.tap, State.tap, h.taps]
  rw [State.wr, State.wr, hdrives, h.firstBad]
  split
  · exact h
  · split
    · exact h.setBytes a bs
    · refine forN (fun i x y hxy => ?_) _ h
      rw [hxy.allows]
      split
      · exact hxy.setByte _ _
      · exact hxy

theorem wrW (h : SameRights s t) (tag a : Nat) (w : Word) : SameRights (s.wrW tag a w) (t.wrW tag a w) := h.wr tag a _

end SameRights

/-! ## Collectives of a partition -/

theorem forall_updFirst {α : Type} {q : α → Bool} {g : α → α} {P : α → Prop} (hg : ∀ a, P a → P (g a)) {l : List α}
    (hl : ∀ a ∈ l, P a) : ∀ a ∈ updFirst q g l, P a := by
  induction l with
  | nil => exact hl
  | cons b l ih =>
    obtain ⟨hb, hrest⟩ := List.forall_mem_cons.mp hl
    rw [updFirst]
    split
    · exact List.forall_mem_cons.mpr ⟨hg b hb, hrest⟩
    · exact List.forall_mem_cons.mpr ⟨hb, ih hrest⟩

theorem State.part_modColl (c : s.Canon) (p i : Nat) (f : Coll → Coll) : (s.modColl p i f).part p = { s.part p with
    ladle := { (s.part p).ladle with colls := updFirst (fun y => y.cid == i) f (s.part p).ladle.colls } } :=
  State.part_setPart c ..

theorem State.canon_modColl (c : s.Canon) (p i : Nat) (f : Coll → Coll) : (s.modColl p i f).Canon :=
  (Keeps.modColl .refl).canon c

theorem Moves.modColl (s : State) (p i : Nat) (f : Coll → Coll) : Moves [.parts] s (s.modColl p i f) :=
  Moves.setPart s p _

theorem State.coll?_of_part (h : t.part p = s.part p) (q : Coll → Bool) : t.coll? p q = s.coll? p q := by
  rw [State.coll?, State.coll?, h]

theorem State.coll?_modColl (c : s.Canon) (hf : ∀ y, (f y).cid = y.cid) (p i : Nat) :
    (s.modColl p i f).coll? p (fun y => y.cid == i) = (s.coll? p fun y => y.cid == i).map f := by
  rw [State.coll?, State.part_modColl c]
  exact find?_updFirst (fun y => by rw [hf]) _

theorem State.cmd?_modColl (c : s.Canon) (p i : Nat) (f : Coll → Coll) (j : Nat) :
    (s.modColl p i f).cmd? p j = s.cmd? p j := by
  rw [State.cmd?, State.part_modColl c, State.cmd?]

/-- The rank of this device hangs on the members of the epoch alone. -/
theorem State.myRank_of (hm : (t.part p).ladle.members = (s.part p).ladle.members)
    (hd : t.fabric.devId = s.fabric.devId) : t.myRank p = s.myRank p := by
  rw [State.myRank, State.myRank, hm, State.devId, State.devId, hd]

theorem State.collPos_of_rank {rank : Nat} (hr : s.myRank p = some rank) (x : Coll) :
    s.collPos p x = if x.ranks.contains rank then some (x.ranks.idxOf rank) else none := by
  rw [State.collPos, hr]

/-! ## Nothing owed and nothing waiting -/

/-- The Ladle of a partition owes no segment, and no message waits at it. -/
structure State.LadleIdle (s : State) (p : Nat) : Prop where
  waiting : (s.part p).ladle.waiting = []
  paid : ∀ y ∈ (s.part p).ladle.colls, y.owed = []

namespace State.LadleIdle

theorem retry (h : s.LadleIdle p) : s.ldRetry p = s := State.ldRetry_of_idle h.waiting h.paid

theorem of_ladle (h : s.LadleIdle p) (hl : (t.part p).ladle = (s.part p).ladle) : t.LadleIdle p :=
  ⟨by rw [hl]; exact h.waiting, by rw [hl]; exact h.paid⟩

theorem of_part (h : s.LadleIdle p) (hl : t.part p = s.part p) : t.LadleIdle p := h.of_ladle (congrArg Part.ladle hl)

theorem modColl (h : s.LadleIdle p) (c : s.Canon) (hf : ∀ y, y.owed = [] → (f y).owed = []) (i : Nat) :
    (s.modColl p i f).LadleIdle p :=
  ⟨by rw [State.part_modColl c]; exact h.waiting, by rw [State.part_modColl c]; exact forall_updFirst hf h.paid⟩

theorem modRed (h : s.LadleIdle p) (c : s.Canon) (n : Nat) (f : StepRed → StepRed) : (s.modRed p n f).LadleIdle p :=
  h.of_ladle (congrArg Part.ladle (State.part_modStep c _) :)

end State.LadleIdle

/-! ## The end of a collective -/

/-- What the end of a collective leaves. -/
structure CollEnds (p : Nat) (x : Coll) (o : Compl) (s t : State) : Prop where
  canon : t.Canon
  moves : Moves [.parts] s t
  gone : ∀ y ∈ (t.part p).ladle.colls, y.cid ≠ x.cid
  left : ∀ y ∈ (t.part p).ladle.colls, y ∈ (s.part p).ladle.colls
  waiting : (t.part p).ladle.waiting = (s.part p).ladle.waiting
  done : ∀ k, s.cmd? p x.cid = some k → Stated.DoneWith t p x.cid o

theorem State.endColl_ends (c : s.Canon) (p : Nat) (x : Coll) (o : Compl) : CollEnds p x o s (s.endColl p x o) := by
  have hmc := State.part_modCmd c p x.cid fun k => { k with out := some o }
  have hcmd := State.cmd?_modCmd (f := fun k => { k with out := some o }) c (fun _ => rfl) p x.cid
  have cm : (s.modCmd p x.cid fun k => { k with out := some o }).Canon := (Keeps.modCmd .refl).canon c
  have hmm : Moves [.parts] s (s.modCmd p x.cid fun k => { k with out := some o }) := Moves.setPart s p _
  have hend : s.endColl p x o = (s.modCmd p x.cid fun k => { k with out := some o }).modPart p fun q => { q with
      ladle := { q.ladle with colls := q.ladle.colls.filter fun y => y.cid ≠ x.cid } } := rfl
  rw [hend]
  generalize s.modCmd p x.cid (fun k => { k with out := some o }) = y at hmc hcmd cm hmm
  have hpart := State.part_setPart cm p { y.part p with
    ladle := { (y.part p).ladle with colls := (y.part p).ladle.colls.filter fun z => z.cid ≠ x.cid } }
  have hladle : (y.part p).ladle = (s.part p).ladle := by rw [hmc]
  refine ⟨(Keeps.modPart .refl).canon cm, hmm.andThen (Moves.setPart _ p _), ?_, ?_, ?_, fun k hk => ?_⟩
  · rw [State.modPart, hpart]
    exact fun z hz => of_decide_eq_true (List.mem_filter.mp hz).2
  · rw [State.modPart, hpart, ← hladle]
    exact fun z hz => (List.mem_filter.mp hz).1
  · rw [State.modPart, hpart, ← hladle]
  · refine ⟨{ k with out := some o }, ?_, rfl⟩
    rw [hk] at hcmd
    rw [State.cmd?, State.modPart, hpart]
    exact hcmd

theorem CollEnds.idle (h : CollEnds p x o s t) (hi : s.LadleIdle p) : t.LadleIdle p :=
  ⟨h.waiting.trans hi.waiting, fun y hy => hi.paid y (h.left y hy)⟩

/-- A reduction is finished, or not yet. -/
theorem State.lFinish_cases (s : State) (p i : Nat) : s.lFinish p i = s ∨ ∃ x o, s.lFinish p i = s.endColl p x o := by
  rw [State.lFinish]
  split
  · split
    · split
      · exact .inr ⟨_, _, rfl⟩
      · exact .inl rfl
    · exact .inl rfl
  · exact .inl rfl

/-- So is a gather. -/
theorem State.gatherFinish_cases (s : State) (p i : Nat) :
    s.gatherFinish p i = s ∨ ∃ x o, s.gatherFinish p i = s.endColl p x o := by
  rw [State.gatherFinish]
  split
  · split
    · exact .inr ⟨_, _, rfl⟩
    · exact .inl rfl
  · exact .inl rfl

/-- Either leaves nothing to try again, and memory as it was. -/
theorem State.finish_idle (c : s.Canon) (hi : s.LadleIdle p) (h : t = s ∨ ∃ x o, t = s.endColl p x o) :
    t.LadleIdle p ∧ t.mem = s.mem := by
  obtain rfl | ⟨x, o, rfl⟩ := h
  · exact ⟨hi, rfl⟩
  · have hend := State.endColl_ends c p x o
    exact ⟨hend.idle hi, hend.moves.mem⟩

/-! ## The pre-pass -/

/-- A pre-pass that lacks a report of this member or of one below it waits. -/
theorem State.lPrePump_waits (hx : (s.coll? p fun y => y.cid == i) = some x) (hpos : s.collPos p x = some pos)
    {n : Nat} (hn : n ∈ pos :: treeKids pos x.n) (hr : ∀ r ∈ x.reports, r.1 ≠ n) : s.lPrePump p i = s := by
  rw [State.lPrePump, hx]
  dsimp only
  rw [hpos]
  refine if_neg fun hall => ?_
  rw [Bool.and_eq_true, List.all_eq_true] at hall
  obtain ⟨-, hall⟩ := hall
  obtain ⟨r, hr', heq⟩ := List.any_eq_true.mp (hall n hn)
  exact hr r hr' (beq_iff_eq.mp heq)

/-- This member's report joins those of a collective. -/
def Coll.reporting (x : Coll) (r : Nat × Int × Bool × Nat) : Coll := { x with reports := x.reports ++ [r] }

/-- Combined values that are not finite end the reduction of a member that has nobody below it. -/
theorem State.lComb_nf (hkids : treeKids pos x.n = []) (e : Int) (fl : Nat) : ∃ g,
    s.lComb p pos x (e, true, fl) = (((((s.modColl p x.cid fun y => { y with comb := some (e, true, fl) }).modRed p
      (lStep x.desc) g).evSet .ladle x.home 6).count32 .ladle x.home (0x54 + 0x20 * p) 1).endColl p x
        { Compl.ok with cflags := cfNF, result := redResult e true fl }) := by
  rw [State.lComb, hkids]
  exact ⟨_, rfl⟩

/-! ## A segment at its owner (R262, R263) -/

/-- Sums of a segment with this member's own part. -/
def State.lSums (s : State) (p : Nat) (d : List Byte) (e : Int) (m : SegMsg) : List Int :=
  List.zipWith (· + ·) m.sums ((s.lQuant p d e m.first m.sums.length).map (·.1))

/-- What this member adds to an element. -/
def State.lPart (s : State) (p : Nat) (d : List Byte) (e : Int) (i : Nat) : Int :=
  if lGives d then (quantise e (lH d) (s.lElem p d i)).1 else 0

theorem State.length_lSums (s : State) (p : Nat) (d : List Byte) (e : Int) (m : SegMsg) :
    (s.lSums p d e m).length = m.sums.length := by
  simp [State.lSums, State.lQuant]

theorem State.nth_lSums (s : State) (p : Nat) (d : List Byte) (e : Int) (m : SegMsg) {i : Nat}
    (hi : i < m.sums.length) :
    nth 0 (s.lSums p d e m) i = m.sums.getD i 0 + s.lPart p d e (m.first + i) := by
  rw [nth, List.getD_eq_getElem _ _ (by rw [State.length_lSums]; exact hi), List.getD_eq_getElem _ _ hi]
  simp only [State.lSums, State.lQuant, List.getElem_zipWith, List.getElem_map, List.getElem_range, State.lPart]
  split <;> rfl

/-- Where an owner without flasks keeps an element of a shard. -/
def ownAddr (x : Coll) (shard e : Nat) : Nat :=
  let sh := nth (0, 0, 0) x.shards shard
  lDest x.desc + 4 * (ownedBase x.shards sh.1 shard + (e - sh.2.2))

/-- What an owner without flasks writes of a completed segment. -/
theorem State.lOwn_mem (c : s.Canon) (hone : x.onebit = false) (hflask : lFlask x.desc = false) (e : Int) (m : SegMsg) :
    (s.lOwn p x e m).mem = (forN m.sums.length s fun i u => u.wrW p (ownAddr x m.shard (m.first + i))
      (restore (nth 0 m.sums i) e (lH x.desc))).mem ∧
    ∃ g, Moves [.mem] (s.modRed p (lStep x.desc) g) (s.lOwn p x e m) := by
  have hplace (u : State) (i : Nat) : u.lPlace p x m.shard i (lDest x.desc) 4 0xC0000 = some (ownAddr x m.shard i) := by
    rw [State.lPlace, hflask]
    rfl
  obtain ⟨g, hown⟩ : ∃ g, s.lOwn p x e m = forN m.sums.length (s.modRed p (lStep x.desc) g) fun i u =>
      u.wrW p (ownAddr x m.shard (m.first + i)) (restore (nth 0 m.sums i) e (lH x.desc)) := by
    refine ⟨fun r => { r with digest := r.digest +
      (forN m.sums.length (0#64) fun i a => a + digestTerm (lTensor x.desc) (m.first + i) (nth 0 m.sums i)) +
      (forN m.scales.length (0#64) fun i a => if 256 * (m.first / 256 + i) < m.first then a
        else a + digestTerm (lTensor x.desc) (lCount x.desc + m.first / 256 + i) (nth 0 m.scales i)) }, ?_⟩
    rw [State.lOwn]
    simp only [hplace, hone]
    rfl
  rw [hown]
  have hsame := SameRights.forN (f := fun i u => u.wrW p (ownAddr x m.shard (m.first + i))
    (restore (nth 0 m.sums i) e (lH x.desc))) (fun i x y h => h.wrW _ _ _) m.sums.length (SameRights.modRed c p
      (lStep x.desc) g)
  exact ⟨hsame.mem, g, Moves.forN (fun _ x => Moves.wr x _ _ _) _ _⟩

end Sys2Proof.Machine

end

section
/-! SUPPORT. What each Ladle message does in its collective or seal (R258 to R263, R270 to R272). -/
set_option Elab.async false

namespace Sys2Proof.Machine

variable {s t u : State} {p port rank pos i : Nat} {x : Coll} {k : Cmd} {e : Int}

/-! ## Where a message of the present epoch is judged -/

theorem State.part_ldHeard (s : State) (p : Nat) (m : LdMsg) (q : Nat) : (s.ldHeard p m).part q = s.part q :=
  (Moves.ldHeard s p m).part (by decide) q

theorem State.devId_ldHear (s : State) (p : Nat) (m : LdMsg) : (s.ldHear p m).fabric.devId = s.fabric.devId := by
  rw [State.ldHear]
  split <;> rfl

theorem State.myRank_ldHeard (s : State) (p : Nat) (m : LdMsg) : (s.ldHeard p m).myRank p = s.myRank p :=
  State.myRank_of (by rw [State.part_ldHeard]) (State.devId_ldHear _ p m)

theorem SameRights.ldHeard (s : State) (p : Nat) (m : LdMsg) : SameRights s (s.ldHeard p m) :=
  .ofWrites (.ofMoves (Moves.ldHeard s p m))

theorem State.redOf_ldHeard (s : State) (p : Nat) (m : LdMsg) (i n : Nat) :
    (s.ldHeard p m).redOf p i n = s.redOf p i n := State.coll?_of_part (State.part_ldHeard s p m p) _

theorem reduce_of_redOf {i n : Nat} (h : s.redOf p i n = some x) : x.reduce = true := by
  have hx := List.find?_some h
  simp only [Bool.and_eq_true] at hx
  exact hx.1.1

theorem Coll.home_of_reduce (h : x.reduce = true) : x.home = x.ridx % 2 := by rw [Coll.home, h, if_pos rfl]

theorem treeKids_of_leaf {n : Nat} (h : n ≤ 4 * pos + 1) : treeKids pos n = [] := by
  refine List.filter_eq_nil_iff.mpr fun j hj => ?_
  simp only [List.map_cons, List.map_nil, List.mem_cons, List.not_mem_nil, or_false] at hj
  have hge : 4 * pos + 1 ≤ j := by omega
  simp
  omega

/-! ## Reports and combined values -/

/-- The result of a reduction whose values are not finite. -/
theorem redResult_nf (e : Int) (fl : Nat) : redResult e true fl = [0x00, 0x80] ++ leBytes 2 fl :=
  congrArg (· ++ leBytes 2 fl) (by decide : leBytes 2 0x8000 = [0x00, 0x80])

theorem State.ldTake_preUp {m : PreMsg} (hx : s.redOf p m.ridx m.step = some x) (hpos : s.collPos p x = some pos)
    (hfp : m.fp = x.fp) : s.ldTake p (.preUp m) = some ((s.modColl p x.cid fun y =>
      y.reporting (m.pos, m.e, m.nf, m.flagger)).lPrePump p x.cid) := by
  rw [State.ldTake, hx]
  dsimp only
  rw [hpos]
  exact if_neg fun h => h hfp

theorem State.ldTake_preDown {m : PreMsg} (hx : s.redOf p m.ridx m.step = some x) (hpos : s.collPos p x = some pos)
    (hfp : m.fp = x.fp) (hc : x.comb = none) :
    s.ldTake p (.preDown m) = some (s.lComb p pos x (m.e, m.nf, m.flagger)) := by
  rw [State.ldTake, hx]
  dsimp only
  rw [hpos]
  exact (if_neg fun h => h hfp).trans (if_pos (by rw [hc]; rfl))

/-! ## Segments -/

theorem State.ldTake_seg {m : SegMsg} {nf : Bool} {fl : Nat} (hx : s.redOf p m.ridx m.step = some x)
    (hpos : s.collPos p x = some pos) (hc : x.comb = some (e, nf, fl)) (hshard : m.shard < x.shards.length)
    (hflask : lFlask x.desc = false) : s.ldTake p (.seg m) = some ((s.lPass p pos x e m).lFinish p x.cid) := by
  have hmark : s.lMarked p x m.first m.sums.length = false := by rw [State.lMarked, hflask]; rfl
  rw [State.ldTake, hx]
  dsimp only
  rw [hpos, hc, hmark]
  exact (if_neg (by omega)).trans (if_neg fun h => absurd h.2 nofun)

theorem State.LadleIdle.lProg (h : s.LadleIdle p) (c : s.Canon) (x : Coll) (shard n : Nat) :
    (s.lProg p x shard n).LadleIdle p :=
  h.modColl (f := fun y => { y with prog := tput 0 y.prog shard (tget 0 y.prog shard + n) }) c (fun _ hy => hy) x.cid

/-- At its owner a segment is completed by this member's own part and written. -/
theorem State.lPass_own {m : SegMsg} (hup : (s.part p).st ≠ .faulted) (hown : pos = x.ownerPos m.shard)
    (hone : x.onebit = false) (hacc : s.tagAccess p (segGives x.desc m.first m.sums.length ++
      s.segKept p x m.shard m.first m.sums.length) = none) : ∃ a, s.lPass p pos x e m =
        ((s.fhAdd x.home p 2 15 a).lOwn p x e { m with sums := s.lSums p x.desc e m }).lProg p x m.shard m.sums.length
          := by
  have hadd : ∃ a, s.lAdd p x e m = ({ m with sums := s.lSums p x.desc e m }, s.fhAdd x.home p 2 15 a) := by
    rw [State.lAdd]
    dsimp only
    rw [hone]
    exact ⟨_, rfl⟩
  obtain ⟨a, ha⟩ := hadd
  refine ⟨a, ?_⟩
  rw [State.lPass]
  dsimp only
  rw [if_pos hown, State.ldAccess, if_neg hup, hacc]
  dsimp only
  rw [ha]
  dsimp only
  rw [if_pos hown]

theorem State.segKept_plain (hflask : lFlask x.desc = false) (shard first n : Nat) :
    s.segKept p x shard first n = [(ownAddr x shard first, 4 * n, true)] := by
  rw [State.segKept, hflask]
  rfl

/-- What completes a segment at an owner without flasks: the sums restored in its place, its Ladle as it was. -/
theorem State.lPass_writes {m : SegMsg} (c : s.Canon) (hup : (s.part p).st ≠ .faulted)
    (hown : pos = x.ownerPos m.shard) (hone : x.onebit = false) (hflask : lFlask x.desc = false)
    (hacc : s.tagAccess p (segGives x.desc m.first m.sums.length ++ s.segKept p x m.shard m.first m.sums.length) =
      none) :
    ∃ v : State, s.lPass p pos x e m = v.lProg p x m.shard m.sums.length ∧ v.Canon ∧
      (v.part p).ladle = (s.part p).ladle ∧ (v.part p).cmds = (s.part p).cmds ∧ v.fabric = s.fabric ∧
      v.mem = (forN m.sums.length s fun i u => u.wrW p (ownAddr x m.shard (m.first + i))
        (restore (m.sums.getD i 0 + s.lPart p x.desc e (m.first + i)) e (lH x.desc))).mem := by
  obtain ⟨a, hform⟩ := State.lPass_own (e := e) hup hown hone hacc
  have ca : (s.fhAdd x.home p 2 15 a).Canon := (Keeps.fhAdd .refl).canon c
  have ma := Moves.fhAdd s x.home p 2 15 a
  have hsame : SameRights s (s.fhAdd x.home p 2 15 a) := .ofWrites (.ofMoves ma)
  have hladle : ((s.fhAdd x.home p 2 15 a).part p).ladle = (s.part p).ladle := by rw [ma.part]
  have hcmds : ((s.fhAdd x.home p 2 15 a).part p).cmds = (s.part p).cmds := by rw [ma.part]
  have hfabric : (s.fhAdd x.home p 2 15 a).fabric = s.fabric := ma.fabric
  generalize s.fhAdd x.home p 2 15 a = y at *
  obtain ⟨hmem, g, hmoves⟩ := State.lOwn_mem (p := p) (x := x) ca hone hflask e { m with sums := s.lSums p x.desc e m }
  have hpart : (y.lOwn p x e { m with sums := s.lSums p x.desc e m }).part p = (y.modRed p (lStep x.desc) g).part p :=
    hmoves.part (by decide) p
  rw [State.modRed, State.part_modStep ca] at hpart
  refine ⟨_, hform, (Keeps.lOwn .refl).canon ca, by rw [hpart, hladle], by rw [hpart, hcmds],
    hmoves.fabric.trans hfabric, hmem.trans ?_⟩
  rw [State.length_lSums]
  have hsums := SameRights.forN (f := fun i u => u.wrW p (ownAddr x m.shard (m.first + i))
    (restore (nth 0 (s.lSums p x.desc e m) i) e (lH x.desc))) (fun i x y h => h.wrW _ _ _) m.sums.length hsame
  refine hsums.mem.trans (congrArg State.mem ?_)
  exact forN_congr_lt _ _ fun i hi u => by rw [State.nth_lSums s p x.desc e m hi]

theorem State.gatherPut_writes {first : Nat} {vs : List (BitVec 16)} (hup : (s.part p).st ≠ .faulted)
    (hacc : s.tagAccess p [(lDest x.desc + 2 * first, 2 * vs.length, true)] = none) :
    s.gatherPut p x first vs = s.wr p (lDest x.desc + 2 * first) (vs.flatMap fun v => leBytes 2 v.toNat) := by
  rw [State.gatherPut, State.ldAccess, if_neg hup, hacc]

/-- The last receiver of a chain writes the segment. -/
theorem State.ldTake_gseg {m : GSegMsg}
    (hx : s.coll? p (fun y => !y.reduce && y.tensor == m.tensor && lStep y.desc == m.gstep && y.fp == m.fp &&
      decide (tget 0 y.prog m.shard < (nth (0, 0, 0) y.shards m.shard).2.1)) = some x) (hr : s.myRank p = some rank)
    (hconf : m.conflict = false) (hcancel : m.cancel = false) (hfp : m.fp = x.fp)
    (hlast : chainNext (gatherChain x.ranks (nth (0, 0, 0) x.shards m.shard).1) rank = none) :
    s.ldTake p (.gseg m) = some (((s.gatherPut p x m.first m.vals).lProg p x m.shard m.vals.length).gatherFinish p
      x.cid) := by
  have hof : (if m.cancel then s.gatherNamed p m else s.gatherOf p m) = some x := by
    rw [hcancel, if_neg nofun, State.gatherOf]
    dsimp only
    rw [hx]
  rw [State.ldTake, hof]
  dsimp only
  rw [hr]
  dsimp only
  rw [hlast, hcancel, hconf]
  exact (if_neg nofun).trans ((if_neg fun h => h hfp).trans (if_neg nofun))

theorem State.ldTake_gseg_cancel {m : GSegMsg} (hx : s.gatherNamed p m = some x) (hr : s.myRank p = some rank)
    (hcancel : m.cancel = true) : s.ldTake p (.gseg m) = some (s.gatherCancel p x) := by
  have hof : (if m.cancel then s.gatherNamed p m else s.gatherOf p m) = some x := by rw [hcancel, if_pos rfl, hx]
  rw [State.ldTake, hof]
  dsimp only
  rw [hr]
  exact if_pos hcancel

/-- A seal with a word from below, and with the combined word. -/
def StepSt.worded (x : StepSt) (m : SealMsg) : StepSt := { x with
  sealing := x.sealing.map fun t => ({ t.1 with word := some m, got := t.1.got ++ [m.pos] }, t.2) }
def StepSt.combined (x : StepSt) (m : SealMsg) : StepSt := { x with
  sealing := x.sealing.map fun z => ({ z.1 with result := some m }, z.2) }

/-- A word from below joins a seal that this member has not entered. -/
theorem State.ldTake_sealUp {m : SealMsg} {z : Seal} {r : StepRed} (c : s.Canon)
    (hz : (s.part p).step.sealing = some (z, r)) (hent : z.entered = false) (hword : z.word = none)
    (hres : z.result = none) (hgot : z.got.contains m.pos = false) : ∃ t, s.ldTake p (.sealUp m) = some t ∧
      (t.part p).ladle = (s.part p).ladle ∧ t.mem = s.mem ∧
      (t.part p).step.sealing = some ({ z with word := some m, got := z.got ++ [m.pos] }, r) := by
  have hpart := State.part_modStep (p := p) c fun y => y.worded m
  have hseal : ((s.part p).step.worded m).sealing =
      some ({ z with word := some m, got := z.got ++ [m.pos] }, r) := by
    rw [StepSt.worded, hz]
    rfl
  have hpump : (s.modStep p fun y => y.worded m).sealPump p = s.modStep p fun y => y.worded m := by
    rw [State.sealPump, hpart]
    dsimp only
    rw [hseal]
    dsimp only
    rw [hent]
    exact if_neg fun h => absurd h.1 nofun
  refine ⟨s.modStep p fun y => y.worded m, ?_, by rw [hpart], rfl, by rw [hpart]; exact hseal⟩
  rw [State.ldTake, hz]
  dsimp only
  rw [if_neg (by rw [hres, hgot]; exact fun h => h.elim nofun nofun), hword]
  exact congrArg some hpump

/-- The combined word is taken where nobody is below. -/
theorem State.ldTake_sealDown {m : SealMsg} {z : Seal} {r : StepRed} (c : s.Canon) (hr : s.myRank p = some rank)
    (hz : (s.part p).step.sealing = some (z, r)) (hent : z.entered = true) (hres : z.result = none)
    (hleaf : (s.part p).ladle.members.length ≤ 4 * rank + 1) : ∃ t, s.ldTake p (.sealDown m) = some t ∧
      (t.part p).ladle = (s.part p).ladle ∧ t.mem = s.mem ∧
      (t.part p).step.sealing = some ({ z with result := some m }, r) := by
  have hpart := State.part_modStep (p := p) c fun y => y.combined m
  have hseal : ((s.part p).step.combined m).sealing = some ({ z with result := some m }, r) := by
    rw [StepSt.combined, hz]
    rfl
  have hresult : s.sealResult p rank m = s.modStep p fun y => y.combined m := by
    have hgo (t : State) (ht : (t.part p).ladle = (s.part p).ladle) : (if (t.part p).ladle.epoch = 0 then t
        else (treeKids rank (t.part p).ladle.members.length).foldl (fun s k =>
          s.ldSend p 0 k (.sealDown { m with part := p, pos := rank })) t) = t := by
      rw [ht, treeKids_of_leaf hleaf]
      exact ite_self _
    exact hgo (s.modStep p fun y => y.combined m) (by rw [hpart])
  refine ⟨s.modStep p fun y => y.combined m, ?_, by rw [hpart], rfl, by rw [hpart]; exact hseal⟩
  rw [State.ldTake, hz]
  dsimp only
  rw [if_pos ⟨hent, by rw [hres]; rfl⟩, hr]
  exact congrArg some hresult

section
variable (hidle : s.LadleIdle p) (hrank : s.myRank p = some rank)
include hidle hrank

theorem preUp_joins {m : PreMsg} (h : Stated.LdArrives s port p (.preUp m)) (he : m.epoch = (s.part p).ladle.epoch)
    (hx : s.redOf p m.ridx m.step = some x) (hr : x.ranks.contains rank = true)
    (hcid : s.coll? p (fun y => y.cid == x.cid) = some x) (hpos : x.ranks.idxOf rank = pos) (hfp : m.fp = x.fp)
    (hown : ∀ r ∈ x.reports, r.1 ≠ pos) (hne : m.pos ≠ pos) :
    ∃ t, exec (.ldPreUp port m) s = .next t ∧ t.mem = s.mem ∧
      t.coll? p (fun y => y.cid == x.cid) = some (x.reporting (m.pos, m.e, m.nf, m.flagger)) := by
  have cu := State.canon_ldHeard h.canon p (.preUp m)
  have hpart := State.part_ldHeard s p (.preUp m) p
  have hru : (s.ldHeard p (.preUp m)).myRank p = some rank := (State.myRank_ldHeard s p _).trans hrank
  have hiu := hidle.of_part hpart
  have htake := State.ldTake_preUp (s := s.ldHeard p (.preUp m)) (p := p) (m := m) (pos := pos)
    ((State.redOf_ldHeard ..).trans hx) (by rw [State.collPos_of_rank hru, if_pos hr, hpos]) hfp
  have hmem := (Moves.ldHeard s p (.preUp m)).mem
  have harrive (t : State) := ldArrival_of_taken (t := t) h he
  have hcu : (s.ldHeard p (.preUp m)).coll? p (fun y => y.cid == x.cid) = some x :=
    (State.coll?_of_part hpart _).trans hcid
  generalize s.ldHeard p (.preUp m) = u at cu hru hiu htake hmem harrive hcu
  have hnew := State.coll?_modColl (f := fun y => y.reporting (m.pos, m.e, m.nf, m.flagger)) cu (fun _ => rfl) p x.cid
  rw [hcu] at hnew
  have hmod := Moves.modColl u p x.cid fun y => y.reporting (m.pos, m.e, m.nf, m.flagger)
  have hladle := State.part_modColl cu p x.cid fun y => y.reporting (m.pos, m.e, m.nf, m.flagger)
  have hrm : (u.modColl p x.cid fun y => y.reporting (m.pos, m.e, m.nf, m.flagger)).myRank p = some rank :=
    (State.myRank_of (by rw [hladle]) (congrArg Fabric.devId hmod.fabric)).trans hru
  have hwait := State.lPrePump_waits hnew (pos := pos) (n := pos)
    (by rw [State.collPos_of_rank hrm]; exact (if_pos hr).trans (congrArg some hpos)) List.mem_cons_self fun r hr' => by
      obtain hr' | hr' := List.mem_append.mp hr'
      · exact hown r hr'
      · rw [List.mem_singleton.mp hr']
        exact hne
  have hi := hiu.modColl (f := fun y => y.reporting (m.pos, m.e, m.nf, m.flagger)) cu (fun _ hy => hy) x.cid
  rw [hwait] at htake
  refine ⟨_, (harrive _ htake).trans (congrArg Host.Outcome.next hi.retry), hmod.mem.trans hmem, hnew⟩

theorem preDown_ends {m : PreMsg} (h : Stated.LdArrives s port p (.preDown m)) (he : m.epoch = (s.part p).ladle.epoch)
    (hx : s.redOf p m.ridx m.step = some x) (hr : x.ranks.contains rank = true) (hk : s.cmd? p x.cid = some k)
    (hpos : x.ranks.idxOf rank = pos) (hleaf : x.ranks.length ≤ 4 * pos + 1) (hfp : m.fp = x.fp) (hc : x.comb = none)
    (hnf : m.nf = true) : ∃ t, exec (.ldPreDown port m) s = .next t ∧ t.mem = s.mem ∧
      Stated.DoneWith t p x.cid { Compl.ok with cflags := cfNF, result := redResult m.e true m.flagger } ∧
      bit (t.pg .ladle (x.ridx % 2) 0x14) 6 = true := by
  have cu := State.canon_ldHeard h.canon p (.preDown m)
  have hpart := State.part_ldHeard s p (.preDown m) p
  have hru : (s.ldHeard p (.preDown m)).myRank p = some rank := (State.myRank_ldHeard s p _).trans hrank
  have hiu := hidle.of_part hpart
  have htake := State.ldTake_preDown (s := s.ldHeard p (.preDown m)) (p := p) (m := m) (pos := pos)
    ((State.redOf_ldHeard ..).trans hx) (by rw [State.collPos_of_rank hru, if_pos hr, hpos]) hfp hc
  have hmem := (Moves.ldHeard s p (.preDown m)).mem
  have harrive (t : State) := ldArrival_of_taken (t := t) h he
  have hku : (s.ldHeard p (.preDown m)).cmd? p x.cid = some k := by rw [State.cmd?, hpart]; exact hk
  generalize s.ldHeard p (.preDown m) = u at cu hru hiu htake hmem harrive hku
  obtain ⟨g, hcomb⟩ := u.lComb_nf (p := p) (treeKids_of_leaf hleaf) m.e m.flagger
  rw [hnf, hcomb] at htake
  have c₁ := State.canon_modColl cu p x.cid fun y => { y with comb := some (m.e, true, m.flagger) }
  have i₁ := hiu.modColl (f := fun y => { y with comb := some (m.e, true, m.flagger) }) cu (fun _ hy => hy) x.cid
  have m₁ := Moves.modColl u p x.cid fun y => { y with comb := some (m.e, true, m.flagger) }
  have k₁ := State.cmd?_modColl cu p x.cid (fun y => { y with comb := some (m.e, true, m.flagger) }) x.cid
  rw [hku] at k₁
  generalize u.modColl p x.cid (fun y => { y with comb := some (m.e, true, m.flagger) }) = v at c₁ i₁ m₁ k₁ htake
  have c₂ : (v.modRed p (lStep x.desc) g).Canon := (Keeps.modRed .refl).canon c₁
  have i₂ := i₁.modRed c₁ (lStep x.desc) g
  have m₂ : Moves [.parts] v (v.modRed p (lStep x.desc) g) := Moves.setPart v p _
  have k₂ : (v.modRed p (lStep x.desc) g).cmd? p x.cid = some k := (State.cmd?_modStep c₁ _).trans k₁
  generalize v.modRed p (lStep x.desc) g = w at c₂ i₂ m₂ k₂ htake
  have c₃ : (w.evSet .ladle x.home 6).Canon := (Keeps.evSet .refl).canon c₂
  have m₃ : Moves [.bus] w (w.evSet .ladle x.home 6) := Moves.evSet w (by decide)
  have b₃ : bit ((w.evSet .ladle x.home 6).pg .ladle x.home 0x14) 6 =
      true := State.bit_evSet_self c₂ (by decide) (by decide)
  generalize w.evSet .ladle x.home 6 = y at c₃ m₃ b₃ htake
  have c₄ : (y.count32 .ladle x.home (0x54 + 0x20 * p) 1).Canon := (Keeps.count32 .refl).canon c₃
  have m₄ : Moves [.bus] y (y.count32 .ladle x.home (0x54 + 0x20 * p) 1) := .ofBusOnly .count32
  have b₄ : (y.count32 .ladle x.home (0x54 + 0x20 * p) 1).pg .ladle x.home 0x14 = y.pg .ladle x.home 0x14 :=
    State.pg_setPg_ne c₃ _ (by omega)
  generalize y.count32 .ladle x.home (0x54 + 0x20 * p) 1 = z at c₄ m₄ b₄ htake
  have hend := z.endColl_ends c₄ p x { Compl.ok with cflags := cfNF, result := redResult m.e true m.flagger }
  have hparts : z.part p = w.part p := (m₄.part (p := p)).trans (m₃.part (p := p))
  have hkz : z.cmd? p x.cid = some k := by rw [State.cmd?, hparts]; exact k₂
  refine ⟨_, (harrive _ htake).trans (congrArg Host.Outcome.next (hend.idle (i₂.of_part hparts)).retry), ?_,
    hend.done k hkz, ?_⟩
  · rw [hend.moves.mem, m₄.mem, m₃.mem, m₂.mem, m₁.mem, hmem]
  · rw [← Coll.home_of_reduce (reduce_of_redOf hx), hend.moves.pg, b₄]
    exact b₃

theorem seg_writes {m : SegMsg} {nf : Bool} {fl owner n first : Nat} (h : Stated.LdArrives s port p (.seg m))
    (he : m.epoch = (s.part p).ladle.epoch) (hx : s.redOf p m.ridx m.step = some x)
    (hr : x.ranks.contains rank = true) (hpos : x.ranks.idxOf rank = pos) (hc : x.comb = some (e, nf, fl))
    (hone : x.onebit = false) (hflask : lFlask x.desc = false) (hshard : x.shards[m.shard]? = some (owner, n, first))
    (hown : x.ranks.idxOf owner = pos)
    (hacc : s.tagAccess p (segGives x.desc m.first m.sums.length ++ s.segKept p x m.shard m.first m.sums.length) =
      none) :
    ∃ t, exec (.ldSeg port m) s = .next t ∧
      t.mem = (forN m.sums.length s fun i u => u.wrW p (ownAddr x m.shard (m.first + i))
        (restore (m.sums.getD i 0 + s.lPart p x.desc e (m.first + i)) e (lH x.desc))).mem := by
  have cu := State.canon_ldHeard h.canon p (.seg m)
  have hpart := State.part_ldHeard s p (.seg m) p
  have hru : (s.ldHeard p (.seg m)).myRank p = some rank := (State.myRank_ldHeard s p _).trans hrank
  have hiu := hidle.of_part hpart
  obtain ⟨hlt, hget⟩ := List.getElem?_eq_some_iff.mp hshard
  have htake := State.ldTake_seg (s := s.ldHeard p (.seg m)) (p := p) (m := m) (pos := pos)
    ((State.redOf_ldHeard ..).trans hx) (by rw [State.collPos_of_rank hru, if_pos hr, hpos]) hc hlt hflask
  have hsame := SameRights.ldHeard s p (.seg m)
  have harrive (t : State) := ldArrival_of_taken (t := t) h he
  have hup : ((s.ldHeard p (.seg m)).part p).st ≠ .faulted := by rw [hpart]; exact h.up
  generalize s.ldHeard p (.seg m) = u at cu hru hiu htake hsame harrive hup
  have howner : pos = x.ownerPos m.shard := by
    rw [Coll.ownerPos, nth, List.getD_eq_getElem _ _ hlt, hget]
    exact hown.symm
  have hacc' : u.tagAccess p (segGives x.desc m.first m.sums.length ++ u.segKept p x m.shard m.first m.sums.length) =
      none := by
    rw [State.segKept_plain hflask] at hacc ⊢
    exact hsame.tagAccess hacc
  obtain ⟨v, hpass, cv, hladle, -, -, hmem⟩ := State.lPass_writes (e := e) cu hup howner hone hflask hacc'
  rw [hpass] at htake
  obtain ⟨hif, hmf⟩ := State.finish_idle ((Keeps.lProg .refl).canon cv)
    ((hiu.of_ladle hladle).lProg cv x m.shard m.sums.length) (State.lFinish_cases _ p x.cid)
  refine ⟨_, (harrive _ htake).trans (congrArg Host.Outcome.next hif.retry), hmf.trans (hmem.trans ?_)⟩
  have hpart' (i : Nat) : u.lPart p x.desc e i = s.lPart p x.desc e i := by
    rw [State.lPart, State.lPart, hsame.lElem]
  simp only [hpart']
  exact (SameRights.forN (f := fun i u => u.wrW p (ownAddr x m.shard (m.first + i))
    (restore (m.sums.getD i 0 + s.lPart p x.desc e (m.first + i)) e (lH x.desc)))
    (fun i x y hxy => hxy.wrW _ _ _) m.sums.length hsame).mem

/-! ## Segments of a gather -/

theorem gseg_writes {m : GSegMsg} (h : Stated.LdArrives s port p (.gseg m)) (he : m.epoch = (s.part p).ladle.epoch)
    (hx : s.coll? p (fun y => !y.reduce && y.tensor == m.tensor && lStep y.desc == m.gstep && y.fp == m.fp &&
      decide (tget 0 y.prog m.shard < (nth (0, 0, 0) y.shards m.shard).2.1)) = some x) (hconf : m.conflict = false)
    (hcancel : m.cancel = false) (hacc : s.tagAccess p [(lDest x.desc + 2 * m.first, 2 * m.vals.length, true)] = none)
    (hlast : chainNext (gatherChain x.ranks (nth (0, 0, 0) x.shards m.shard).1) rank = none) :
    ∃ t, exec (.ldGseg port m) s = .next t ∧
      t.mem = (s.wr p (lDest x.desc + 2 * m.first) (m.vals.flatMap fun v => leBytes 2 v.toNat)).mem := by
  have cu := State.canon_ldHeard h.canon p (.gseg m)
  have hpart := State.part_ldHeard s p (.gseg m) p
  have hru : (s.ldHeard p (.gseg m)).myRank p = some rank := (State.myRank_ldHeard s p _).trans hrank
  have hiu := hidle.of_part hpart
  have hsame := SameRights.ldHeard s p (.gseg m)
  have harrive (t : State) := ldArrival_of_taken (t := t) h he
  have hup : ((s.ldHeard p (.gseg m)).part p).st ≠ .faulted := by rw [hpart]; exact h.up
  have hxu := (State.coll?_of_part hpart _).trans hx
  have hfp : m.fp = x.fp := by
    have hfound := List.find?_some hx
    simp only [Bool.and_eq_true, beq_iff_eq] at hfound
    exact hfound.1.2.symm
  generalize s.ldHeard p (.gseg m) = u at cu hru hiu hsame harrive hup hxu
  have hput := State.gatherPut_writes (first := m.first) (vs := m.vals) hup (hsame.tagAccess hacc)
  have htake := State.ldTake_gseg hxu hru hconf hcancel hfp hlast
  rw [hput] at htake
  have mw : Moves [.mem] u (u.wr p (lDest x.desc + 2 * m.first) (m.vals.flatMap fun v => leBytes 2 v.toNat)) :=
    Moves.wr u _ _ _
  have cw : (u.wr p (lDest x.desc + 2 * m.first) (m.vals.flatMap fun v => leBytes 2 v.toNat)).Canon :=
    (Keeps.wr .refl).canon cu
  obtain ⟨hif, hmf⟩ := State.finish_idle ((Keeps.lProg .refl).canon cw)
    ((hiu.of_part (mw.part (by decide) p)).lProg cw x m.shard m.vals.length) (State.gatherFinish_cases _ p x.cid)
  refine ⟨_, (harrive _ htake).trans (congrArg Host.Outcome.next hif.retry), hmf.trans ?_⟩
  exact (hsame.wr p _ _).mem

theorem gseg_cancels {m : GSegMsg} (h : Stated.LdArrives s port p (.gseg m)) (he : m.epoch = (s.part p).ladle.epoch)
    (hcancel : m.cancel = true) (hx : s.gatherNamed p m = some x) (hk : s.cmd? p x.cid = some k) :
    ∃ t, exec (.ldGseg port m) s = .next t ∧ t.mem = s.mem ∧ Stated.DoneWith t p x.cid ⟨8, 0, 0, 0, []⟩ ∧
      bit (t.pg .ladle (x.tensor % 2) 0x14) 3 = true := by
  have cu := State.canon_ldHeard h.canon p (.gseg m)
  have hpart := State.part_ldHeard s p (.gseg m) p
  have hru : (s.ldHeard p (.gseg m)).myRank p = some rank := (State.myRank_ldHeard s p _).trans hrank
  have hiu := hidle.of_part hpart
  have hmem := (Moves.ldHeard s p (.gseg m)).mem
  have harrive (t : State) := ldArrival_of_taken (t := t) h he
  have hxu : (s.ldHeard p (.gseg m)).gatherNamed p m = some x := (State.coll?_of_part hpart _).trans hx
  have hku : (s.ldHeard p (.gseg m)).cmd? p x.cid = some k := by rw [State.cmd?, hpart]; exact hk
  have hred : x.reduce = false := by
    have hfound := List.find?_some hx
    simp only [Bool.and_eq_true, Bool.not_eq_true'] at hfound
    exact hfound.1.1
  generalize s.ldHeard p (.gseg m) = u at cu hru hiu hmem harrive hxu hku
  have htake := State.ldTake_gseg_cancel hxu hru hcancel
  have ce : (u.evErr .ladle x.home 3 3 p x.tensor 0).Canon := (Keeps.evErr .refl).canon cu
  have me : Moves [.bus] u (u.evErr .ladle x.home 3 3 p x.tensor 0) := Moves.evErr u (by decide)
  have be : bit ((u.evErr .ladle x.home 3 3 p x.tensor 0).pg .ladle x.home 0x14) 3 = true :=
    State.bit_evErr_self cu (by decide) (by decide)
  rw [State.gatherCancel] at htake
  generalize u.evErr .ladle x.home 3 3 p x.tensor 0 = v at ce me be htake
  have hend := v.endColl_ends ce p x (.of 8)
  have hkv : v.cmd? p x.cid = some k := by rw [State.cmd?, me.part]; exact hku
  refine ⟨_, (harrive _ htake).trans
    (congrArg Host.Outcome.next (hend.idle (hiu.of_part (me.part (by decide) p))).retry),
    hend.moves.mem.trans (me.mem.trans hmem), hend.done k hkv, ?_⟩
  have hhome : x.home = x.tensor % 2 := by rw [Coll.home, hred, if_neg nofun]
  rw [← hhome, hend.moves.pg]
  exact be

/-! ## Seals -/

omit hrank in
theorem sealUp_joins {m : SealMsg} {z : Seal} {r : StepRed} (h : Stated.LdArrives s port p (.sealUp m))
    (he : m.epoch = (s.part p).ladle.epoch) (hz : (s.part p).step.sealing = some (z, r)) (hent : z.entered = false)
    (hword : z.word = none) (hres : z.result = none) (hgot : z.got.contains m.pos = false) :
    ∃ t, exec (.ldSealUp port m) s = .next t ∧ t.mem = s.mem ∧
      (t.part p).step.sealing = some ({ z with word := some m, got := z.got ++ [m.pos] }, r) := by
  have cu := State.canon_ldHeard h.canon p (.sealUp m)
  have hpart := State.part_ldHeard s p (.sealUp m) p
  have hiu := hidle.of_part hpart
  have hmem := (Moves.ldHeard s p (.sealUp m)).mem
  have harrive (t : State) := ldArrival_of_taken (t := t) h he
  rw [← hpart] at hz
  generalize s.ldHeard p (.sealUp m) = u at cu hiu hmem harrive hz
  obtain ⟨t, htake, hladle, hm, hseal⟩ := State.ldTake_sealUp cu hz hent hword hres hgot
  exact ⟨t, (harrive _ htake).trans (congrArg Host.Outcome.next (hiu.of_ladle hladle).retry), hm.trans hmem, hseal⟩

theorem sealDown_taken {m : SealMsg} {z : Seal} {r : StepRed} (h : Stated.LdArrives s port p (.sealDown m))
    (he : m.epoch = (s.part p).ladle.epoch) (hz : (s.part p).step.sealing = some (z, r)) (hent : z.entered = true)
    (hres : z.result = none) (hleaf : (s.part p).ladle.members.length ≤ 4 * rank + 1) :
    ∃ t, exec (.ldSealDown port m) s = .next t ∧ t.mem = s.mem ∧
      (t.part p).step.sealing = some ({ z with result := some m }, r) := by
  have cu := State.canon_ldHeard h.canon p (.sealDown m)
  have hpart := State.part_ldHeard s p (.sealDown m) p
  have hru : (s.ldHeard p (.sealDown m)).myRank p = some rank := (State.myRank_ldHeard s p _).trans hrank
  have hiu := hidle.of_part hpart
  have hmem := (Moves.ldHeard s p (.sealDown m)).mem
  have harrive (t : State) := ldArrival_of_taken (t := t) h he
  rw [← hpart] at hz hleaf
  generalize s.ldHeard p (.sealDown m) = u at cu hru hiu hmem harrive hz hleaf
  obtain ⟨t, htake, hladle, hm, hseal⟩ := State.ldTake_sealDown cu hru hz hent hres hleaf
  exact ⟨t, (harrive _ htake).trans (congrArg Host.Outcome.next (hiu.of_ladle hladle).retry), hm.trans hmem, hseal⟩

end

end Sys2Proof.Machine

open Sys2Proof Sys2Proof.Machine in
/-- Settles O24: a message of the present epoch is taken by its collective or its seal; with nothing owed and nothing
waiting nothing else is tried after it. -/
theorem ladleMessagesAct : Obligations.LadleMessagesAct := by
  intro s port p rank pos x l hw howed hrank
  have hidle : s.LadleIdle p := ⟨hw, howed⟩
  refine ⟨?_, ?_, ?_, ?_, ?_, ?_, ?_⟩
  · intro m h he hx hr hcid hpos hfp hown hne
    exact preUp_joins hidle hrank h he hx hr hcid hpos hfp hown hne
  · intro m k h he hx hr hk hpos hleaf hfp hc hnf
    rw [← redResult_nf m.e]
    exact preDown_ends hidle hrank h he hx hr hk hpos hleaf hfp hc hnf
  · intro m e nf fl owner n first h he hx hr hpos hc hone hflask hshard hown own base hacc
    obtain ⟨t, hex, hmem⟩ := seg_writes hidle hrank h he hx hr hpos hc hone hflask hshard hown hacc
    refine ⟨t, hex, hmem.trans ?_⟩
    have hnth : nth (0, 0, 0) x.shards m.shard = (owner, n, first) := by
      rw [nth, List.getD_eq_getElem?_getD, hshard]
      rfl
    simp only [ownAddr, hnth]
    rfl
  · intro m h he hx hconf hcancel hacc hlast
    exact gseg_writes hidle hrank h he hx hconf hcancel hacc hlast
  · intro m k h he hcancel hx hk
    exact gseg_cancels hidle hrank h he hcancel hx hk
  · intro m z r h he hz hent hword hres hgot
    exact sealUp_joins hidle h he hz hent hword hres hgot
  · intro m z r h he hz hent hres hleaf
    exact sealDown_taken hidle hrank h he hz hent hres hleaf

end

section
/-! SUPPORT. Reductions and gathers as their members run them (R257 to R271). -/
set_option Elab.async false

namespace Sys2Proof.Machine

variable {s t u : State} {p c op rank pos i n : Nat} {x y : Coll} {k : Cmd} {e : Int} {d : List Byte}

/-! ## A command of the Ladle that runs -/

section
variable (h : Stated.LadleRuns s p c op k x)
include h

theorem cid_of_runs : x.cid = c := by
  have hfound := List.find?_some h.coll
  exact beq_iff_eq.mp hfound

theorem idle_of_runs : s.LadleIdle p := ⟨h.idle, h.paid⟩

theorem State.ldRow_of_runs (go : Coll → State → State) : s.ldRow p c op go = .next ((go x s).ldRetry p) := by
  have hcoll : s.coll? p (fun y => y.cid == c) = some x := h.coll
  have hlive : s.live x.home = true := by
    have hl := h.live
    rw [Coll.home]
    split at hl <;> rename_i hr <;> simp only [hr] <;> exact hl
  rw [State.ldRow, h.cmd, hcoll]
  dsimp only
  rw [if_pos ⟨h.isOp, h.phase, h.out, hlive, h.up⟩, h.access]

end

theorem exec_ldReduce (h : Stated.LadleRuns s p c 0x400 k x) :
    exec (.ldReduce p c) s = .next ((s.reduceGo p x).ldRetry p) := State.ldRow_of_runs h fun x s => s.reduceGo p x

theorem exec_ldGather (h : Stated.LadleRuns s p c 0x401 k x) :
    exec (.ldGather p c) s = .next ((s.gatherServe p c).ldRetry p) := by
  have hrow := State.ldRow_of_runs h fun x s => s.gatherServe p x.cid
  rw [cid_of_runs h] at hrow
  exact hrow

/-! ## The report of a member -/

theorem le_forN_max (f : Nat → Int → Int) (hf : ∀ i a, a ≤ f i a) (n : Nat) (a : Int) : a ≤ forN n a f := by
  induction n with
  | zero => exact Int.le_refl a
  | succ n ih =>
    rw [forN_succ]
    exact Int.le_trans ih (hf n _)

/-- The exponent of a report is that of no element, or more; finite elements raise no NF. -/
theorem State.lReport_bounds (s : State) (p : Nat) (d : List Byte) (hone : lOneBit d = false)
    (hfin : ∀ i, i < lCount d → (s.lElem p d i).isFin = true) :
    -149 ≤ (s.lReport p d).1 ∧ (s.lReport p d).2.1 = false := by
  rw [State.lReport]
  split
  · exact ⟨Int.le_refl _, rfl⟩
  · have hscan : lScan d = lCount d := by rw [lScan, hone, if_neg nofun]
    have hbad (i : Nat) (hi : i < lCount d) : lBad d (s.lElem p d i) = false := by
      have hfinite : lBad d (s.lElem p d i) = !(s.lElem p d i).isFin := by
        exact if_neg (Bool.eq_false_iff.mp hone)
      rw [hfinite, hfin i hi]
      rfl
    rw [hscan]
    have hall (m : Nat) (hm : m ≤ lCount d) : -149 ≤ (forN m ((-149 : Int), false, 0) fun i (a : Int × Bool × Nat) =>
        (if expOf (s.lElem p d i) > a.1 then expOf (s.lElem p d i) else a.1, a.2.1 || lBad d (s.lElem p d i),
          a.2.2 + b2n (lBad d (s.lElem p d i)))).1 ∧ (forN m ((-149 : Int), false, 0) fun i (a : Int × Bool × Nat) =>
        (if expOf (s.lElem p d i) > a.1 then expOf (s.lElem p d i) else a.1, a.2.1 || lBad d (s.lElem p d i),
          a.2.2 + b2n (lBad d (s.lElem p d i)))).2.1 = false := by
      induction m with
      | zero => exact ⟨Int.le_refl _, rfl⟩
      | succ m ih =>
        obtain ⟨hlo, hnf⟩ := ih (by omega)
        rw [forN_succ]
        refine ⟨?_, ?_⟩
        · dsimp only
          split
          · omega
          · exact hlo
        · dsimp only
          rw [hnf, hbad m (by omega)]
          rfl
    exact hall _ (Nat.le_refl _)

/-- What a member of the list reports of itself. -/
def State.ownReport (s : State) (p pos : Nat) (d : List Byte) : Nat × Int × Bool × Nat :=
  (pos, (s.lReport p d).1, (s.lReport p d).2.1, if (s.lReport p d).2.1 then s.fabric.devId else 0xFFFF)

/-- The report of a member enters the pre-pass. -/
theorem State.reduceGo_reports (hpos : s.collPos p x = some pos) (hr : ∀ r ∈ x.reports, r.1 ≠ pos) :
    ∃ a, s.reduceGo p x = ((s.fhAdd x.home p 2 15 a).modColl p x.cid fun y =>
      y.reporting (s.ownReport p pos x.desc)).lPrePump p x.cid := by
  refine ⟨⟨0, 0, (s.lReport p x.desc).2.2⟩, ?_⟩
  have hid : (s.fhAdd x.home p 2 15 ⟨0, 0, (s.lReport p x.desc).2.2⟩).devId = s.fabric.devId :=
    congrArg Fabric.devId (Moves.fhAdd s x.home p 2 15 _).fabric
  rw [State.reduceGo, hpos]
  dsimp only
  rw [if_neg, hid]
  · rfl
  · intro hany
    obtain ⟨r, hr', heq⟩ := List.any_eq_true.mp hany
    exact hr r hr' (beq_iff_eq.mp heq)

/-! ## A member alone in its list -/

/-- The root of a tree without more members has the combined values. -/
theorem State.lPrePump_alone (hx : (s.coll? p fun y => y.cid == i) = some x) (hpos : s.collPos p x = some 0)
    (hkids : treeKids 0 x.n = []) (hup : x.sentUp = false) (hc : x.comb = none)
    (hr : x.reports = [(0, e, false, 0xFFFF)]) (he : -149 ≤ e) :
    s.lPrePump p i = s.lComb p 0 x (e, false, 0xFFFF) := by
  have hmax : (if e > -149 then e else -149) = e := by
    split <;> omega
  rw [State.lPrePump, hx]
  dsimp only
  rw [hpos]
  dsimp only
  rw [hkids, hup, hc, hr]
  dsimp [List.filter, List.contains, List.elem]
  rw [hmax]
  rfl

/-- A collective whose combined values are known. -/
def Coll.combined (x : Coll) (v : Int × Bool × Nat) : Coll := { x with comb := some v }

/-- Finite combined values begin the data pass of a member that has nobody below it. -/
theorem State.lComb_finite (hkids : treeKids pos x.n = []) (e : Int) (fl : Nat) : ∃ g,
    s.lComb p pos x (e, false, fl) = (((s.modColl p x.cid fun y => y.combined (e, false, fl)).modRed p (lStep x.desc)
      g).lStartData p pos (x.combined (e, false, fl)) e) := by
  rw [State.lComb, hkids]
  exact ⟨_, rfl⟩

/-- The one segment of a shard of at most 16384 elements that one member sums. -/
def loneSeg (p epoch : Nat) (x : Coll) (n : Nat) : SegMsg :=
  { part := p, epoch := epoch, ridx := x.ridx, step := lStep x.desc, shard := 0, first := 0, sums := List.replicate n 0,
    scales := [], w := x.width }

theorem segsOf_lone {epoch owner : Nat} (hone : x.onebit = false) (hs : x.shards = [(owner, n, 0)]) (h1 : 1 ≤ n)
    (hn : n ≤ 16384) : segsOf x p epoch 0 = [loneSeg p epoch x n] := by
  have hdiv : cdiv n 16384 = 1 := by
    rw [cdiv]
    omega
  rw [segsOf, hs, hone]
  simp only [nth, List.getD_cons_zero, Bool.false_eq_true, if_false, Nat.zero_div, Nat.sub_zero, hdiv, List.range_one,
    List.map_cons, List.map_nil, Nat.zero_add, Nat.mul_zero, Nat.max_self, Nat.mul_one, Nat.min_eq_right hn, loneSeg]

/-- The data pass of a member alone is its one segment. -/
theorem State.lStartData_lone (hone : x.onebit = false) (hflask : lFlask x.desc = false)
    (hranks : x.ranks = [rank]) (hs : x.shards = [(rank, n, 0)]) (h1 : 1 ≤ n) (hn : n ≤ 16384) (e : Int) :
    s.lStartData p 0 x e = (s.lPass p 0 x e (loneSeg p (s.part p).ladle.epoch x n)).lFinish p x.cid := by
  have howner : x.ownerPos 0 = 0 := by
    rw [Coll.ownerPos, hs, hranks]
    simp [nth]
  have hlen : x.n = 1 := by rw [Coll.n, hranks]; rfl
  have hmark : s.lMarked p x (loneSeg p (s.part p).ladle.epoch x n).first
      (loneSeg p (s.part p).ladle.epoch x n).sums.length = false := by rw [State.lMarked, hflask]; rfl
  have hshards : x.shards.length = 1 := by rw [hs]; rfl
  rw [State.lStartData, hshards]
  refine congrArg (fun t => State.lFinish t p x.cid) ?_
  rw [forN_succ]
  change (if 0 = (x.ownerPos 0 + 1) % x.n then (segsOf x p (s.part p).ladle.epoch 0).foldl _ s else s) = _
  rw [howner, hlen, if_pos rfl, segsOf_lone hone hs h1 hn]
  exact if_neg fun h => absurd (h.2.symm.trans hmark) nofun

/-- A reduction that is through is answered. -/
theorem State.lFinish_ends {nf : Bool} {fl : Nat} (hx : (s.coll? p fun y => y.cid == i) = some x)
    (hc : x.comb = some (e, nf, fl)) (hr : x.reduce = true) (hd : x.allDone = true) :
    s.lFinish p i = s.endColl p x { Compl.ok with result := redResult e false fl } := by
  rw [State.lFinish, hx]
  dsimp only
  rw [hc]
  exact if_pos ⟨hr, hd⟩

theorem ownAddr_lone (hs : x.shards = [(rank, n, 0)]) (i : Nat) : ownAddr x 0 i = lDest x.desc + 4 * i := by
  rw [ownAddr, hs]
  simp [nth, ownedBase]

/-- The data pass of a member alone writes its restored elements and answers the command. -/
theorem State.lStartData_alone {nf : Bool} {fl : Nat} (c : s.Canon) (hidle : s.LadleIdle p)
    (hup : (s.part p).st ≠ .faulted) (hcoll : s.coll? p (fun y => y.cid == x.cid) = some x)
    (hcmd : s.cmd? p x.cid = some k) (hred : x.reduce = true) (hc : x.comb = some (e, nf, fl)) (hprog : x.prog = [])
    (hone : x.onebit = false) (hflask : lFlask x.desc = false) (hranks : x.ranks = [rank])
    (hs : x.shards = [(rank, n, 0)]) (h1 : 1 ≤ n) (hn : n ≤ 16384)
    (hacc : s.tagAccess p (segGives x.desc 0 n ++ [(lDest x.desc, 4 * n, true)]) = none) :
    (s.lStartData p 0 x e).LadleIdle p ∧
      Stated.DoneWith (s.lStartData p 0 x e) p x.cid ⟨0, 0, 0, 0, redResult e false fl⟩ ∧
      (s.lStartData p 0 x e).mem = (forN n s fun i u => u.wrW p (lDest x.desc + 4 * i)
        (restore (s.lPart p x.desc e i) e (lH x.desc))).mem := by
  rw [State.lStartData_lone hone hflask hranks hs h1 hn e]
  have hsums : (loneSeg p (s.part p).ladle.epoch x n).sums.length = n := List.length_replicate
  obtain ⟨v, hpass, cv, hladle, hcmds, -, hmem⟩ := State.lPass_writes (e := e) (x := x) (pos := 0)
    (m := loneSeg p (s.part p).ladle.epoch x n) c hup
      (by rw [Coll.ownerPos, hranks]; simp [loneSeg, hs, nth]) hone hflask
    (by
      rw [State.segKept_plain hflask, hsums]
      exact (congrArg (fun a => s.tagAccess p (segGives x.desc 0 n ++ [(a, 4 * n, true)])) (ownAddr_lone hs 0)).trans
        hacc)
  have hshard : (loneSeg p (s.part p).ladle.epoch x n).shard = 0 := rfl
  rw [hpass, hsums, hshard]
  rw [hsums, hshard] at hmem
  have hcv : v.coll? p (fun y => y.cid == x.cid) = some x := by
    rw [State.coll?, hladle]
    exact hcoll
  have hkv : v.cmd? p x.cid = some k := by
    rw [State.cmd?, hcmds]
    exact hcmd
  have hadd : tput 0 x.prog 0 (tget 0 x.prog 0 + n) = tput 0 [] 0 n := by
    rw [hprog]
    exact congrArg (tput 0 [] 0) (Nat.zero_add n)
  have hcp := State.coll?_modColl (f := fun y => { y with prog := tput 0 y.prog 0 (tget 0 y.prog 0 + n) }) cv
    (fun _ => rfl) p x.cid
  rw [hcv, Option.map_some] at hcp
  have hkp := State.cmd?_modColl cv p x.cid (fun y => { y with prog := tput 0 y.prog 0 (tget 0 y.prog 0 + n) }) x.cid
  have hip := (hidle.of_ladle hladle).lProg cv x 0 n
  have cp : (v.lProg p x 0 n).Canon := (Keeps.lProg .refl).canon cv
  have hfin := State.lFinish_ends (s := v.lProg p x 0 n) hcp hc hred (by
    rw [Coll.allDone]
    dsimp only
    rw [hadd, hs]
    simp [nth, tget_tput_same 0 0 n (rfl : twf 0 ([] : Tbl Nat) = true)])
  have hend := (v.lProg p x 0 n).endColl_ends cp p { x with prog := tput 0 x.prog 0 (tget 0 x.prog 0 + n) }
    ⟨0, 0, 0, 0, redResult e false fl⟩
  rw [hfin]
  refine ⟨hend.idle hip, hend.done k (hkp.trans hkv), (hend.moves.mem.trans hmem).trans (congrArg State.mem ?_)⟩
  refine forN_congr_lt _ _ fun i hi u => ?_
  have hzero : (List.replicate n (0 : Int)).getD i 0 = 0 := by
    rw [List.getD_eq_getElem _ _ (by rw [List.length_replicate]; exact hi), List.getElem_replicate]
  dsimp only [loneSeg]
  rw [hzero, Int.zero_add, Nat.zero_add, ownAddr_lone hs]

/-! ## LD_REDUCE -/

section
variable (h : Stated.LadleRuns s p c 0x400 k x) (hrank : s.myRank p = some rank)
include h hrank

/-- A member outside the list ends at once with the combined exponent of no contributor. -/
theorem ldReduce_outside (hr : x.ranks.contains rank = false) :
    ∃ t, exec (.ldReduce p c) s = .next t ∧ t.mem = s.mem ∧
      Stated.DoneWith t p c ⟨0, 0, 0, 0, [0x6B, 0xFF, 0xFF, 0xFF]⟩ ∧ ∀ y ∈ (t.part p).ladle.colls, y.cid ≠ c := by
  have hres : redResult (-149) false 0xFFFF = [0x6B, 0xFF, 0xFF, 0xFF] := by decide
  have hgo : s.reduceGo p x = s.endColl p x ⟨0, 0, 0, 0, [0x6B, 0xFF, 0xFF, 0xFF]⟩ := by
    rw [State.reduceGo, State.collPos_of_rank hrank, hr, ← hres]
    rfl
  have hend := s.endColl_ends h.canon p x ⟨0, 0, 0, 0, [0x6B, 0xFF, 0xFF, 0xFF]⟩
  have hcid := cid_of_runs h
  refine ⟨_, (exec_ldReduce h).trans (congrArg Host.Outcome.next ?_), hend.moves.mem, ?_, ?_⟩
  · rw [hgo, (hend.idle (idle_of_runs h)).retry]
  · rw [← hcid]
    exact hend.done k (by rw [hcid]; exact h.cmd)
  · rw [← hcid]
    exact hend.gone

/-- What the report of a member leaves before the pre-pass is tried. -/
theorem State.reported_frame (hr : x.ranks.contains rank = true) (hown : ∀ r ∈ x.reports, r.1 ≠ x.ranks.idxOf rank) :
    ∃ v : State, s.reduceGo p x = v.lPrePump p c ∧ v.Canon ∧ Moves [.bus, .health, .parts] s v ∧ v.LadleIdle p ∧
      SameRights s v ∧ v.cmd? p c = some k ∧ v.myRank p = some rank ∧
      v.coll? p (fun y => y.cid == c) = some (x.reporting (s.ownReport p (x.ranks.idxOf rank) x.desc)) := by
  obtain ⟨a, hgo⟩ := State.reduceGo_reports (s := s) (p := p) (x := x) (pos := x.ranks.idxOf rank)
    (by rw [State.collPos_of_rank hrank, if_pos hr]) hown
  have hcid := cid_of_runs h
  have ca : (s.fhAdd x.home p 2 15 a).Canon := (Keeps.fhAdd .refl).canon h.canon
  have ma := Moves.fhAdd s x.home p 2 15 a
  have hpart := ma.part (by decide) p
  have hcu : (s.fhAdd x.home p 2 15 a).coll? p (fun y => y.cid == x.cid) = some x := by
    rw [State.coll?_of_part hpart, hcid]
    exact h.coll
  have hku : (s.fhAdd x.home p 2 15 a).cmd? p c = some k := by rw [State.cmd?, hpart]; exact h.cmd
  have hiu := (idle_of_runs h).of_part hpart
  have hsame : SameRights s (s.fhAdd x.home p 2 15 a) := .ofWrites (.ofMoves ma)
  have hru : (s.fhAdd x.home p 2 15 a).myRank p = some rank :=
    (State.myRank_of (by rw [hpart]) (congrArg Fabric.devId ma.fabric)).trans hrank
  generalize s.fhAdd x.home p 2 15 a = u at *
  generalize s.ownReport p (x.ranks.idxOf rank) x.desc = r at *
  have hmod := Moves.modColl u p x.cid fun y => y.reporting r
  have hladle := State.part_modColl ca p x.cid fun y => y.reporting r
  have hnew := State.coll?_modColl (f := fun y => y.reporting r) ca (fun _ => rfl) p x.cid
  rw [hcu] at hnew
  refine ⟨_, hgo.trans (by rw [hcid]), State.canon_modColl ca ..,
    (ma.mono (l' := [.bus, .health, .parts])).andThen hmod,
    hiu.modColl (f := fun y => y.reporting r) ca (fun _ hy => hy) _, hsame.trans (.modColl ca ..),
      (State.cmd?_modColl ca ..).trans hku, ?_, ?_⟩
  · exact (State.myRank_of (by rw [hladle]) (congrArg Fabric.devId hmod.fabric)).trans hru
  · rw [← hcid]
    exact hnew

/-- A report waits for those of the positions below. -/
theorem ldReduce_waits (hr : x.ranks.contains rank = true) (hown : ∀ r ∈ x.reports, r.1 ≠ x.ranks.idxOf rank)
    (hq : n ∈ treeKids (x.ranks.idxOf rank) x.n) (hlack : ∀ r ∈ x.reports, r.1 ≠ n) :
    ∃ t, exec (.ldReduce p c) s = .next t ∧ t.mem = s.mem ∧ t.cmd? p c = some k ∧
      t.coll? p (fun y => y.cid == c) = some (x.reporting (s.ownReport p (x.ranks.idxOf rank) x.desc)) := by
  obtain ⟨v, hgo, -, hmoves, hidle, -, hcmd, hrv, hcoll⟩ := State.reported_frame h hrank hr hown
  have hne : x.ranks.idxOf rank ≠ n := by
    have hbelow := (List.mem_filter.mp hq).1
    simp only [List.map_cons, List.map_nil, List.mem_cons, List.not_mem_nil, or_false] at hbelow
    omega
  have hwait := State.lPrePump_waits hcoll (pos := x.ranks.idxOf rank) (n := n)
    (by rw [State.collPos_of_rank hrv]; exact if_pos hr) (List.mem_cons_of_mem _ hq) fun r hr' => by
      obtain hr' | hr' := List.mem_append.mp hr'
      · exact hlack r hr'
      · obtain rfl := List.mem_singleton.mp hr'
        exact hne
  rw [hwait] at hgo
  refine ⟨v, (exec_ldReduce h).trans (congrArg Host.Outcome.next ?_), hmoves.mem, hcmd, hcoll⟩
  rw [hgo, hidle.retry]

/-- A member alone in its list quantises its elements at their shared exponent, restores them and is done. -/
theorem ldReduce_alone (hranks : x.ranks = [rank]) (hrep : x.reports = []) (hup : x.sentUp = false) (hc : x.comb = none)
    (hprog : x.prog = []) (hone : x.onebit = false) (hbits : lOneBit x.desc = false) (hflask : lFlask x.desc = false)
    (hgives : lGives x.desc = true) (hs : x.shards = [(rank, lCount x.desc, 0)]) (h1 : 1 ≤ lCount x.desc)
    (hn : lCount x.desc ≤ 16384) (hfin : ∀ i, i < lCount x.desc → (s.lElem p x.desc i).isFin = true)
    (hacc : s.tagAccess p (segGives x.desc 0 (lCount x.desc) ++ [(lDest x.desc, 4 * lCount x.desc, true)]) = none) :
    ∃ t, exec (.ldReduce p c) s = .next t ∧
      t.mem = (forN (lCount x.desc) s fun i u => u.wrW p (lDest x.desc + 4 * i)
        (restore (quantise (s.lReport p x.desc).1 (lH x.desc) (s.lElem p x.desc i)).1 (s.lReport p x.desc).1
          (lH x.desc))).mem ∧
      Stated.DoneWith t p c ⟨0, 0, 0, 0, redResult (s.lReport p x.desc).1 false 0xFFFF⟩ := by
  have hin : x.ranks.contains rank = true := by rw [hranks]; simp
  have hpos : x.ranks.idxOf rank = 0 := by rw [hranks]; simp
  have hlen : x.ranks.length = 1 := by rw [hranks]; rfl
  have hkids : treeKids 0 x.n = [] := treeKids_of_leaf (by rw [Coll.n, hlen])
  obtain ⟨hlo, hnf⟩ := State.lReport_bounds s p x.desc hbits hfin
  obtain ⟨v, hgo, cv, hmoves, hidle, hsame, hcmd, hrv, hcoll⟩ := State.reported_frame h hrank hin
    (by rw [hrep]; exact nofun)
  have hreport : s.ownReport p (x.ranks.idxOf rank) x.desc = (0, (s.lReport p x.desc).1, false, 0xFFFF) := by
    rw [State.ownReport, hpos, hnf]
    rfl
  rw [hreport] at hcoll
  generalize (s.lReport p x.desc).1 = e at *
  have hpump := State.lPrePump_alone hcoll
      (by rw [State.collPos_of_rank hrv]; exact (if_pos hin).trans (congrArg some hpos))
    hkids hup hc (by rw [Coll.reporting, hrep]; rfl) hlo
  obtain ⟨g, hcomb⟩ := v.lComb_finite (p := p) (x := x.reporting (0, e, false, 0xFFFF)) hkids e 0xFFFF
  have hcid := cid_of_runs h
  rw [hpump, hcomb] at hgo
  subst hcid
  have hnew := State.coll?_modColl (f := fun y => y.combined (e, false, 0xFFFF)) cv (fun _ => rfl) p x.cid
  rw [hcoll, Option.map_some] at hnew
  have c₁ := State.canon_modColl cv p x.cid fun y => y.combined (e, false, 0xFFFF)
  have i₁ := hidle.modColl (f := fun y => y.combined (e, false, 0xFFFF)) cv (fun _ hy => hy) x.cid
  have k₁ := (State.cmd?_modColl cv p x.cid (fun y => y.combined (e, false, 0xFFFF)) x.cid).trans hcmd
  have s₁ := hsame.trans (SameRights.modColl cv p x.cid fun y => y.combined (e, false, 0xFFFF))
  change s.reduceGo p x = ((v.modColl p x.cid fun y => y.combined (e, false, 0xFFFF)).modRed p (lStep x.desc)
    g).lStartData p 0 _ e at hgo
  generalize v.modColl p x.cid (fun y => y.combined (e, false, 0xFFFF)) = w at hnew c₁ i₁ k₁ s₁ hgo
  have c₂ : (w.modRed p (lStep x.desc) g).Canon := (Keeps.modRed .refl).canon c₁
  have i₂ := i₁.modRed c₁ (lStep x.desc) g
  have k₂ : (w.modRed p (lStep x.desc) g).cmd? p x.cid = some k := (State.cmd?_modStep c₁ _).trans k₁
  have s₂ := s₁.trans (SameRights.modRed c₁ p (lStep x.desc) g)
  have n₂ : (w.modRed p (lStep x.desc) g).coll? p (fun y => y.cid == x.cid) =
      some ((x.reporting (0, e, false, 0xFFFF)).combined (e, false, 0xFFFF)) := by
    rw [State.coll?, State.modRed, State.part_modStep c₁]
    exact hnew
  generalize w.modRed p (lStep x.desc) g = z at c₂ i₂ k₂ s₂ n₂ hgo
  obtain ⟨hid, hdone, hmem⟩ := State.lStartData_alone
    (x := (x.reporting (0, e, false, 0xFFFF)).combined (e, false, 0xFFFF))
    c₂ i₂ (by rw [s₂.st]; exact h.up) n₂ k₂ h.kind rfl hprog hone hflask hranks hs h1 hn (s₂.tagAccess hacc)
  rw [← hgo] at hid hdone hmem
  refine ⟨_, (exec_ldReduce h).trans (congrArg Host.Outcome.next hid.retry), hmem.trans ?_, hdone⟩
  have hpart (i : Nat) : z.lPart p x.desc e i = (quantise e (lH x.desc) (s.lElem p x.desc i)).1 := by
    rw [State.lPart, if_pos hgives, s₂.lElem]
  refine (SameRights.forN (f := fun i u => u.wrW p (lDest x.desc + 4 * i)
    (restore (z.lPart p x.desc e i) e (lH x.desc))) (fun i x y hxy => hxy.wrW _ _ _) (lCount x.desc) s₂).mem.trans ?_
  simp only [hpart]

end

/-! ## LD_GATHER -/

theorem filter_lone (hs : x.shards = [(rank, n, 0)]) :
    ((List.range x.shards.length).filter fun i => (nth (0, 0, 0) x.shards i).1 == rank) = [0] := by
  rw [hs]
  simp [nth]

theorem gatherChain_lone (hranks : x.ranks = [rank]) : gatherChain x.ranks rank = [] := by
  rw [hranks, gatherChain]
  simp

/-- Elements of a TENSOR source, as an owner reads them. -/
def State.gathered (s : State) (p : Nat) (x : Coll) (n : Nat) : List (BitVec 16) :=
  (List.range n).map fun j => BitVec.ofNat 16 (s.rdU p (lSrc x.desc + 2 * j) 2)

section
variable (hx : s.coll? p (fun y => y.cid == c) = some x) (hrank : s.myRank p = some rank) (hserved : x.served = false)
  (hs : x.shards = [(rank, n, 0)])
include hx hrank hserved hs

/-- An owner that may not serve yet waits. -/
theorem State.gatherServe_waits (hready : s.gatherReady p x = none) : s.gatherServe p c = s := by
  rw [State.gatherServe, hx]
  dsimp only
  rw [hrank]
  dsimp only
  rw [filter_lone hs, hserved, hready]
  exact if_neg fun h => h.elim nofun nofun

/-- Past the next step it is a conflict. -/
theorem State.gatherServe_conflict (hranks : x.ranks = [rank]) (hready : s.gatherReady p x = some false) :
    s.gatherServe p c = s.endColl p x (.of 3) := by
  rw [State.gatherServe, hx]
  dsimp only
  rw [hrank]
  dsimp only
  rw [filter_lone hs, hserved, hready, gatherChain_lone hranks]
  exact if_neg fun h => h.elim nofun nofun

/-- The one receiver of an owner's shard is the owner. -/
theorem State.gatherServe_serves (hranks : x.ranks = [rank]) (hflask : lFlask x.desc = false) (h1 : 1 ≤ n)
    (hn : n ≤ 32768) (hready : s.gatherReady p x = some true) : s.gatherServe p c =
      (((s.gatherPut p x 0 (s.gathered p x n)).lProg p x 0 n).modColl p c fun y =>
        { y with served := true }).gatherFinish
        p c := by
  have hdiv : cdiv n 32768 = 1 := by
    rw [cdiv]
    omega
  have hin : x.ranks.contains rank = true := by rw [hranks]; simp
  have hplace (j : Nat) : s.lPlace p x 0 (0 + j) (lSrc x.desc) 2 0 = some (lSrc x.desc + 2 * j) := by
    rw [State.lPlace, hflask, hs]
    simp [nth, ownedBase]
  rw [State.gatherServe, hx]
  dsimp only
  rw [hrank]
  dsimp only
  rw [filter_lone hs, hserved, hready, gatherChain_lone hranks]
  refine (if_neg fun h => h.elim nofun nofun).trans ?_
  have hsh : nth (0, 0, 0) x.shards 0 = (rank, n, 0) := by rw [hs]; rfl
  dsimp only [List.foldl_cons, List.foldl_nil]
  rw [hsh]
  dsimp only
  rw [hdiv, forN_succ, hin, if_pos rfl]
  refine congrArg (fun vs => ((((s.gatherPut p x 0 vs).lProg p x 0 n).modColl p c fun y =>
    { y with served := true }).gatherFinish p c)) ?_
  rw [Nat.mul_zero, Nat.sub_zero, Nat.min_eq_right hn, State.gathered]
  refine List.map_congr_left fun j _ => ?_
  change (match s.lPlace p x 0 (0 + j) (lSrc x.desc) 2 0 with
    | some a => BitVec.ofNat 16 (s.rdU p a 2)
    | none => 0) = _
  rw [hplace]

end

/-- The owner of a TENSOR may serve by the step it is of. -/
theorem State.gatherReady_of (hflask : lFlask x.desc = false)
    (hstep : (s.part p).step.last = lStep x.desc + 1 ∨ ((s.part p).step.last = lStep x.desc ∧
      ∃ r, (s.part p).step.opened = some r ∧ r.step = lStep x.desc + 1))
    (hmarks : ∀ m ∈ s.stk.marks, s.gatherReads p x m.1 = false) : s.gatherReady p x = some true := by
  have hopen : ((s.part p).step.last > lStep x.desc ||
      ((s.part p).step.opened.any fun r => r.step == lStep x.desc + 1) ||
      ((s.part p).step.sealing.any fun z => z.1.step == lStep x.desc + 1)) = true := by
    obtain h | ⟨-, r, hr, hrs⟩ := hstep
    · rw [decide_eq_true (by omega : (s.part p).step.last > lStep x.desc)]
      rfl
    · rw [hr]
      simp [hrs]
  have hnone : (s.stk.marks.any fun m => s.gatherReads p x m.1) = false :=
    List.any_eq_false.mpr fun m hm => by rw [hmarks m hm]; exact nofun
  have hlast : ¬ (s.part p).step.last > lStep x.desc + 1 ∧ (s.part p).step.last ≥ lStep x.desc := by
    obtain h | ⟨h, -⟩ := hstep <;> omega
  rw [State.gatherReady]
  rw [if_neg (by rw [hflask]; exact fun h => h.elim hlast.1 fun h => absurd h.2.1 nofun), if_pos]
  exact ⟨hlast.2, hopen, by rw [hnone]; rfl⟩

theorem State.gatherReady_early (hflask : lFlask x.desc = false) (h : (s.part p).step.last < lStep x.desc) :
    s.gatherReady p x = none := by
  rw [State.gatherReady]
  rw [if_neg fun hno => ?_, if_neg fun hno => ?_]
  · obtain ⟨hno, -⟩ := hno
    omega
  · obtain hno | ⟨-, hno, -⟩ := hno
    · omega
    · exact absurd (hflask.symm.trans hno) nofun

theorem toNat_gathered (s : State) (p : Nat) (x : Coll) (n : Nat) :
    (s.gathered p x n).flatMap (fun v => leBytes 2 v.toNat) =
      (List.range n).flatMap fun j => leBytes 2 (s.rdU p (lSrc x.desc + 2 * j) 2) := by
  have hmod (a : Nat) : leBytes 2 (BitVec.ofNat 16 a).toNat = leBytes 2 a := by
    have hlow : BitVec.ofNat 8 (a % 65536) = BitVec.ofNat 8 a := BitVec.eq_of_toNat_eq (by simp)
    have hhigh : BitVec.ofNat 8 (a % 65536 / 256) = BitVec.ofNat 8 (a / 256) := BitVec.eq_of_toNat_eq (by simp; omega)
    rw [BitVec.toNat_ofNat]
    simp only [leBytes]
    rw [show (2 : Nat) ^ 16 = 65536 from rfl, hlow, hhigh]
  rw [State.gathered, List.flatMap_map]
  simp only [hmod]

/-- A gather whose receiver holds every shard, and whose owner has served, is done. -/
theorem State.gatherFinish_ends (hx : (s.coll? p fun y => y.cid == i) = some x) (hserved : x.served = true)
    (hd : x.allDone = true) : s.gatherFinish p i = s.endColl p x .ok := by
  rw [State.gatherFinish, hx]
  exact if_pos ⟨hserved, .inl hd⟩

/-- Where the owner is the one receiver it writes its shard and is done. -/
theorem ldGather_serves (h : Stated.LadleRuns s p c 0x401 k x) (hrank : s.myRank p = some rank)
    (hserved : x.served = false) (hs : x.shards = [(rank, n, 0)]) (hranks : x.ranks = [rank])
    (hflask : lFlask x.desc = false) (hprog : x.prog = []) (h1 : 1 ≤ n) (hn : n ≤ 32768)
    (hready : s.gatherReady p x = some true) (hacc : s.tagAccess p [(lDest x.desc, 2 * n, true)] = none) :
    ∃ t, exec (.ldGather p c) s = .next t ∧
      t.mem = (s.wr p (lDest x.desc) ((List.range n).flatMap fun j =>
        leBytes 2 (s.rdU p (lSrc x.desc + 2 * j) 2))).mem ∧
      Stated.DoneWith t p c ⟨0, 0, 0, 0, []⟩ := by
  have hlen : (s.gathered p x n).length = n := by rw [State.gathered, List.length_map, List.length_range]
  have hput := State.gatherPut_writes (x := x) (first := 0) (vs := s.gathered p x n) h.up (by rw [hlen]; exact hacc)
  rw [toNat_gathered] at hput
  have hgo := State.gatherServe_serves h.coll hrank hserved hs hranks hflask h1 hn hready
  rw [hput] at hgo
  have hcid := cid_of_runs h
  subst hcid
  obtain ⟨w, hw⟩ : ∃ w, w = s.wr p (lDest x.desc + 2 * 0) ((List.range n).flatMap fun j =>
    leBytes 2 (s.rdU p (lSrc x.desc + 2 * j) 2)) := ⟨_, rfl⟩
  have cw : w.Canon := hw ▸ (Keeps.wr .refl).canon h.canon
  have mw : Moves [.mem] s w := hw ▸ Moves.wr s _ _ _
  have hpart := mw.part (by decide) p
  rw [← hw] at hgo
  have hcw : w.coll? p (fun y => y.cid == x.cid) = some x := (State.coll?_of_part hpart _).trans h.coll
  have hkw : w.cmd? p x.cid = some k := by
    rw [State.cmd?, hpart]
    exact h.cmd
  have hiw := (idle_of_runs h).of_part hpart
  have h₁ := State.coll?_modColl (f := fun y => { y with prog := tput 0 y.prog 0 (tget 0 y.prog 0 + n) }) cw
    (fun _ => rfl) p x.cid
  rw [hcw, Option.map_some] at h₁
  have k₁ := (State.cmd?_modColl cw p x.cid (fun y => { y with prog := tput 0 y.prog 0 (tget 0 y.prog 0 + n) })
    x.cid).trans hkw
  have i₁ := hiw.lProg cw x 0 n
  have c₁ : (w.lProg p x 0 n).Canon := (Keeps.lProg .refl).canon cw
  have m₁ : Moves [.parts] w (w.lProg p x 0 n) := Moves.setPart w p _
  change (w.lProg p x 0 n).coll? p _ = _ at h₁
  change (w.lProg p x 0 n).cmd? p x.cid = _ at k₁
  generalize w.lProg p x 0 n = y at hgo h₁ k₁ i₁ c₁ m₁
  have h₂ := State.coll?_modColl (f := fun y => { y with served := true }) c₁ (fun _ => rfl) p x.cid
  rw [h₁, Option.map_some] at h₂
  have k₂ := (State.cmd?_modColl c₁ p x.cid (fun y => { y with served := true }) x.cid).trans k₁
  have i₂ := i₁.modColl (f := fun y => { y with served := true }) c₁ (fun _ hy => hy) x.cid
  have c₂ := State.canon_modColl c₁ p x.cid fun y => { y with served := true }
  have m₂ := Moves.modColl y p x.cid fun y => { y with served := true }
  generalize y.modColl p x.cid (fun y => { y with served := true }) = z at hgo h₂ k₂ i₂ c₂ m₂
  have hadd : tput 0 x.prog 0 (tget 0 x.prog 0 + n) = tput 0 [] 0 n := by
    rw [hprog]
    exact congrArg (tput 0 [] 0) (Nat.zero_add n)
  have hfin := State.gatherFinish_ends h₂ rfl (by
    rw [Coll.allDone]
    dsimp only
    rw [hadd, hs]
    simp [nth, tget_tput_same 0 0 n (rfl : twf 0 ([] : Tbl Nat) = true)])
  rw [hfin] at hgo
  have hend := z.endColl_ends c₂ p { x with prog := tput 0 x.prog 0 (tget 0 x.prog 0 + n), served := true } .ok
  refine ⟨_, (exec_ldGather h).trans (congrArg Host.Outcome.next ?_), ?_, hend.done k k₂⟩
  · rw [hgo, (hend.idle i₂).retry]
  · rw [hend.moves.mem, m₂.mem, m₁.mem, hw, Nat.mul_zero, Nat.add_zero]

theorem ldGather_waits (h : Stated.LadleRuns s p c 0x401 k x) (hrank : s.myRank p = some rank)
    (hserved : x.served = false) (hs : x.shards = [(rank, n, 0)]) (hready : s.gatherReady p x = none) :
    exec (.ldGather p c) s = .next s := by
  rw [exec_ldGather h, State.gatherServe_waits h.coll hrank hserved hs hready, (idle_of_runs h).retry]

theorem ldGather_conflicts (h : Stated.LadleRuns s p c 0x401 k x) (hrank : s.myRank p = some rank)
    (hserved : x.served = false) (hs : x.shards = [(rank, n, 0)]) (hranks : x.ranks = [rank])
    (hready : s.gatherReady p x = some false) :
    ∃ t, exec (.ldGather p c) s = .next t ∧ t.mem = s.mem ∧ Stated.DoneWith t p c ⟨3, 0, 0, 0, []⟩ := by
  have hgo := State.gatherServe_conflict h.coll hrank hserved hs hranks hready
  have hcid := cid_of_runs h
  subst hcid
  have hend := s.endColl_ends h.canon p x (.of 3)
  refine ⟨_, (exec_ldGather h).trans (congrArg Host.Outcome.next ?_), hend.moves.mem, hend.done k h.cmd⟩
  rw [hgo, (hend.idle (idle_of_runs h)).retry]

end Sys2Proof.Machine

open Sys2Proof Sys2Proof.Machine in
/-- Settles O23: a member's report joins the pre-pass, where it waits for those below or, with nobody else in the list,
is the combined value; an owner serves by the step of its gather. -/
theorem collectivesProceed : Obligations.CollectivesProceed := by
  refine ⟨?_, ?_⟩
  · intro s p c rank pos k x d h hrank
    refine ⟨fun hr => ldReduce_outside h hrank hr, fun hr hpos hown hlack => ?_,
      fun hranks hrep hup hc hprog hone hbits hflask hgives hs h1 hn hfin hacc => ?_⟩
    · obtain ⟨q, hq, hlt, hno⟩ := hlack
      subst hpos
      have hkid : 4 * x.ranks.idxOf rank + q ∈ treeKids (x.ranks.idxOf rank) x.n := by
        refine List.mem_filter.mpr ⟨List.mem_map.mpr ⟨q, by simpa using hq, rfl⟩, decide_eq_true hlt⟩
      exact ldReduce_waits h hrank hr hown hkid hno
    · exact ldReduce_alone h hrank hranks hrep hup hc hprog hone hbits hflask hgives hs h1 hn hfin hacc
  · intro s p c rank k x d last g h hrank hflask hs hserved
    refine ⟨fun hlt => ldGather_waits h hrank hserved hs ?_, fun hlt hranks => ?_,
      fun hstep hranks hprog h1 hn hmarks hacc => ?_⟩
    · exact State.gatherReady_early hflask hlt
    · exact ldGather_conflicts h hrank hserved hs hranks (if_pos (.inl hlt))
    · exact ldGather_serves h hrank hserved hs hranks hflask hprog h1 hn (State.gatherReady_of hflask hstep hmarks) hacc

end

section
/-! SUPPORT. Checkpoints and the answers of storage endpoints (R251, R252, R367). -/
set_option Elab.async false

namespace Sys2Proof.Machine

variable {s t u : State} {p c i n : Nat} {k : Cmd} {x : StoreSeg} {m : List Byte} {o : Compl}

/-! ## Segments sent to an endpoint -/

/-- What sending leaves: the segments in flight are those before and some more. -/
structure Stores (l : List StoreSeg) (s t : State) : Prop where
  moves : Moves [.bus, .fabric] s t
  store : t.fabric.store = s.fabric.store ++ l

namespace Stores

theorem refl : Stores [] s s := ⟨.refl, (List.append_nil _).symm⟩

theorem trans {l l' : List StoreSeg} (h : Stores l s t) (h' : Stores l' t u) : Stores (l ++ l') s u :=
  ⟨h.moves.andThen h'.moves, by rw [h'.store, h.store, List.append_assoc]⟩

theorem andThen {l : List StoreSeg} (h : Stores l s t) (h' : Stores [] t u) : Stores l s u :=
  List.append_nil l ▸ h.trans h'

theorem ite {l : List StoreSeg} {q : Prop} [Decidable q] (ht : Stores l s t) (hu : Stores l s u) :
    Stores l s (if q then t else u) := by
  split
  · exact ht
  · exact hu

theorem setPort (s : State) (n : Nat) (x : Port) : Stores [] s (s.setPort n x) :=
  ⟨(Moves.setPort s n x).mono, (List.append_nil _).symm⟩

theorem count64 (s : State) (k : PageKind) (i off n : Nat) : Stores [] s (s.count64 k i off n) :=
  ⟨(Moves.count64 s k i off n).mono, (List.append_nil _).symm⟩

theorem portSend (s : State) (n half : Nat) (m : FabMsg) : Stores [] s (s.portSend n half m) := by
  have hpump (s : State) : Stores [] s (s.txPump n) := ite ((setPort s _ _).andThen (count64 _ _ _ _ _)) refl
  have hput (s : State) (b : Nat) :
      Stores [] s (s.ethPut n m b) := ite ((setPort s _ _).andThen (count64 _ _ _ _ _)) refl
  exact ite ((setPort s _ _).andThen (hput _ _)) ((setPort s _ _).andThen (hpump _))

theorem fabSend (s : State) (d dst vc : Nat) (mk : Nat → Nat → FabMsg) : Stores [] s (s.fabSend d dst vc mk).1 := by
  rw [State.fabSend]
  split
  · refine .andThen ?_ (portSend _ _ _ _)
    exact ⟨(Moves.setFabric s _).mono, (List.append_nil _).symm⟩
  · exact refl

theorem storeSend (s : State) (p c dest op offset len : Nat) (data : List Byte) :
    Stores [⟨p, c, dest % 2 ^ 16, dest / 2 ^ 16, offset, len, op == 0x201⟩] s
      (s.storeSend p c dest op offset len data) :=
  .andThen ⟨(Moves.setFabric s _).mono, rfl⟩ (fabSend _ _ _ _ _)

/-- Each turn of a loop sends its own segments. -/
theorem forN {f : Nat → State → State} {g : Nat → List StoreSeg} (hf : ∀ i x, Stores (g i) x (f i x)) (n : Nat)
    (s : State) : Stores ((List.range n).flatMap g) s (Machine.forN n s f) := by
  induction n with
  | zero => exact refl
  | succ n ih =>
    rw [forN_succ, List.range_succ, List.flatMap_append, List.flatMap_singleton]
    exact ih.trans (hf n _)

theorem foldl {α : Type} {f : State → α → State} {g : α → List StoreSeg} (hf : ∀ x a, Stores (g a) x (f x a))
    (as : List α) (s : State) : Stores (as.flatMap g) s (as.foldl f s) := by
  induction as generalizing s with
  | nil => exact refl
  | cons a as ih => exact (hf s a).trans (ih (f s a))

end Stores

/-- The segments of a read. -/
def readSegs (p c src offset len : Nat) : List StoreSeg :=
  (List.range (cdiv len storeMax)).flatMap fun j =>
    [⟨p, c, src % 2 ^ 16, src / 2 ^ 16, offset + storeMax * j, min storeMax (len - storeMax * j), true⟩]

theorem Stores.storeReads (s : State) (p c src offset len : Nat) :
    Stores (readSegs p c src offset len) s (s.storeReads p c src offset len) :=
  .forN (fun _ y => .storeSend y p c src 0x201 _ _ _) _ s

theorem length_readSegs (p c src offset len : Nat) : (readSegs p c src offset len).length = cdiv len storeMax := by
  rw [readSegs, List.length_flatMap]
  simp

/-- The first of them. -/
theorem head_readSegs (p c src offset : Nat) {len : Nat} (h : 0 < len) :
    ∃ y ∈ readSegs p c src offset len, y.part = p ∧ y.cid = c ∧ y.offset = offset := by
  refine ⟨⟨p, c, src % 2 ^ 16, src / 2 ^ 16, offset + storeMax * 0, min storeMax (len - storeMax * 0), true⟩, ?_, rfl,
    rfl,
    rfl⟩
  refine List.mem_flatMap.mpr ⟨0, List.mem_range.mpr ?_, List.mem_cons_self⟩
  rw [cdiv, storeMax]
  exact Nat.div_pos (by omega) (by decide)

/-- A run of bytes that one segment carries. -/
theorem Stores.storeRun_one (s : State) (p c dest offset : Nat) {bs : List Byte} (h1 : 1 ≤ bs.length)
    (hn : bs.length ≤ storeMax) : Stores [⟨p, c, dest % 2 ^ 16, dest / 2 ^ 16, offset, bs.length, false⟩] s
      (s.storeRun p c dest offset bs) := by
  have hdiv : cdiv bs.length storeMax = 1 := by
    rw [cdiv, storeMax] at *
    omega
  have htake : ((bs.drop (storeMax * 0)).take storeMax).length = bs.length := by
    rw [List.length_take, Nat.mul_zero, List.drop_zero]
    exact Nat.min_eq_right hn
  have hsend := Stores.storeSend s p c dest 0x200 (offset + storeMax * 0)
    ((bs.drop (storeMax * 0)).take storeMax).length ((bs.drop (storeMax * 0)).take storeMax)
  rw [State.storeRun, hdiv, forN_succ]
  rw [htake] at hsend
  refine (?_ : Stores [⟨p, c, dest % 2 ^ 16, dest / 2 ^ 16, offset, bs.length, false⟩] s _)
  have hform : (s.storeSend p c dest 0x200 (offset + storeMax * 0) ((bs.drop (storeMax * 0)).take storeMax).length
      ((bs.drop (storeMax * 0)).take storeMax)) = s.storeSend p c dest 0x200 (offset + storeMax * 0) bs.length
        ((bs.drop (storeMax * 0)).take storeMax) := by rw [htake]
  exact hform ▸ hsend

/-! ## CKPT_SAVE (R251) -/

/-- The save is through with this pass: every granule is copied, or is now. -/
def State.saveLast (s : State) (p : Nat) (k : Cmd) : Bool :=
  (List.range k.saveN).all fun i => k.saved i || (s.saveNow p k).contains i

/-- What a pass of a save writes. -/
def State.savePass (s : State) (p : Nat) (k : Cmd) : List (Nat × List Byte) :=
  (s.saveNow p k).flatMap (s.saveRuns p k) ++ (if s.saveLast p k then [(2 ^ 21 * k.saveN, k.manifest)] else [])

/-- A pass recorded with its command, its read marks lifted. -/
def State.saveNoted (s : State) (p c : Nat) (k : Cmd) : State :=
  let go := s.saveNow p k
  let s' := s.modCmd p c fun y => y.setSaved (if s.saveLast p k then go ++ [y.saveN] else go)
  s'.setStk { s'.stk with
    readMarks := s'.stk.readMarks.filter fun x =>
      !(x.2.1 == p && x.2.2 == c && go.any fun i => nth 0 k.saveKeys i == x.1) }

theorem exec_ckptSave (h : Stated.StepRuns s p c 0x414 k) (hd : k.saved k.saveN = false)
    (hacc : s.tagAccess p ((s.saveNow p k).map fun i => (granAddr (nth 0 k.saveKeys i), 2 ^ 21, false)) = none) :
    exec (.ckptSave p c) s = .next (
      let z := (s.savePass p k).foldl (fun s r => s.savePut p k r) (s.saveNoted p c k)
      if s.saveLast p k = true ∧ fld k.msg 60 1 = 0 then z.setOut p c .ok else z) := by
  change execCkptSave p c s = _
  rw [execCkptSave, State.stepRow_of_runs h]
  refine congrArg Host.Outcome.next ?_
  dsimp only
  rw [hd, hacc, if_neg nofun] <;> rfl

theorem State.cmd?_saveNoted (ch : s.Canon) (hk : s.cmd? p c = some k) :
    (s.saveNoted p c k).Canon ∧ (s.saveNoted p c k).cmd? p c =
      some (k.setSaved (if s.saveLast p k then s.saveNow p k ++ [k.saveN] else s.saveNow p k)) := by
  have cm : (s.modCmd p c fun y => y.setSaved (if s.saveLast p k then s.saveNow p k ++ [y.saveN]
    else s.saveNow p k)).Canon := (Keeps.modCmd .refl).canon ch
  have hcmd := State.cmd?_modCmd (f := fun y => y.setSaved (if s.saveLast p k then s.saveNow p k ++ [y.saveN]
    else s.saveNow p k)) ch (fun _ => rfl) p c
  rw [hk] at hcmd
  exact ⟨⟨cm.mem, cm.units, cm.parts, cm.rings, cm.taps, cm.west, cm.east, cm.bus, ⟨cm.stk.st, cm.stk.gran⟩, cm.ports⟩,
    hcmd⟩

/-- To host memory the bytes of a pass are all that moves. -/
theorem State.savePut_host (hhost : fld k.msg 60 1 = 0) (rs : List (Nat × List Byte)) (hm : t.mem = s.mem) :
    Moves [.mem] t (rs.foldl (fun s r => s.savePut p k r) t) ∧ (rs.foldl (fun s r => s.savePut p k r) t).mem =
      (rs.foldl (fun u r => u.setBytes (fld k.msg 72 8 + r.1) r.2) s).mem := by
  have hput (y : State) (r : Nat × List Byte) : y.savePut p k r = y.setBytes (fld k.msg 72 8 + r.1) r.2 := if_pos hhost
  simp only [hput]
  refine ⟨Moves.foldl (fun y r => Moves.setBytes _ _ y) _ _, ?_⟩
  induction rs generalizing s t with
  | nil => exact hm
  | cons r rs ih => exact ih (State.mem_setBytes_congr hm _ _)

theorem ckptSave_copies (h : Stated.StepRuns s p c 0x414 k) (hd : k.saved k.saveN = false)
    (hacc : s.tagAccess p ((s.saveNow p k).map fun i => (granAddr (nth 0 k.saveKeys i), 2 ^ 21, false)) = none)
    (hhost : fld k.msg 60 1 = 0) : ∃ t, exec (.ckptSave p c) s = .next t ∧
      t.mem = ((s.savePass p k).foldl (fun u r => u.setBytes (fld k.msg 72 8 + r.1) r.2) s).mem ∧
      (s.saveLast p k = true → Stated.DoneWith t p c ⟨0, 0, 0, 0, []⟩) ∧
      (s.saveLast p k = false → t.cmd? p c = some (k.setSaved (s.saveNow p k))) := by
  have hex := exec_ckptSave h hd hacc
  obtain ⟨cn, hcmd⟩ := State.cmd?_saveNoted h.canon h.cmd
  obtain ⟨hmoves, hmem⟩ := State.savePut_host (s := s) (t := s.saveNoted p c k) (p := p) hhost (s.savePass p k) rfl
  have cz : ((s.savePass p k).foldl (fun s r => s.savePut p k r) (s.saveNoted p c k)).Canon :=
    (Keeps.foldl' _ .refl fun _ _ hy => Keeps.savePut hy).canon cn
  have hcz := (State.cmd?_of_parts hmoves.parts p c).trans hcmd
  generalize (s.savePass p k).foldl (fun s r => s.savePut p k r) (s.saveNoted p c k) = z at hex hmoves hmem cz hcz
  cases hlast : s.saveLast p k with
  | true =>
    refine ⟨_, hex.trans (congrArg Host.Outcome.next (if_pos ⟨hlast, hhost⟩)), hmem, fun _ => ?_, nofun⟩
    exact State.doneWith_setOut cz hcz
  | false =>
    refine ⟨_, hex.trans (congrArg Host.Outcome.next (if_neg fun hno => ?_)), hmem, nofun, fun _ => ?_⟩
    · exact absurd (hlast.symm.trans hno.1) nofun
    · rw [hcz, hlast]
      rfl

/-- With no granule in its list a save to an endpoint sends the manifest alone. -/
theorem ckptSave_sends (h : Stated.StepRuns s p c 0x414 k) (hn : k.saveN = 0) (hd : k.saved k.saveN = false)
    (hfab : fld k.msg 60 1 = 1) : ∃ t, exec (.ckptSave p c) s = .next t ∧ t.cmd? p c = some (k.setSaved [0]) ∧
      t.mem = s.mem ∧ t.fabric.store = s.fabric.store ++
        [⟨p, c, fld k.msg 72 8 % 2 ^ 16, fld k.msg 72 8 / 2 ^ 16, 0, 512, false⟩] := by
  have hnow : s.saveNow p k = [] := by rw [State.saveNow, hn]; rfl
  have hlast : s.saveLast p k = true := by rw [State.saveLast, hn]; rfl
  have hcid : k.cid = c := State.cid_of_cmd? h.cmd
  have hlen : k.manifest.length = 512 := length_slice _ _ _
  have hpass : s.savePass p k = [(0, k.manifest)] := by rw [State.savePass, hnow, hlast, hn]; rfl
  have hput (y : State) : y.savePut p k (0, k.manifest) = y.storeRun p k.cid (fld k.msg 72 8) 0 k.manifest :=
    if_neg (by rw [hfab]; decide)
  obtain ⟨cn, hcmd⟩ := State.cmd?_saveNoted h.canon h.cmd
  have hsend := Stores.storeRun_one (s.saveNoted p c k) p k.cid (fld k.msg 72 8) 0 (bs := k.manifest)
    (by rw [hlen]; decide) (by rw [hlen]; decide)
  have hex := exec_ckptSave h hd (by rw [hnow]; rfl)
  rw [hpass, List.foldl_cons, List.foldl_nil, hput, if_neg fun hno => absurd (hfab.symm.trans hno.2) (by decide)] at hex
  refine ⟨_, hex, ?_, hsend.moves .mem (by decide), ?_⟩
  · rw [State.cmd?_of_parts (hsend.moves .parts (by decide)), hcmd, hnow, hlast, hn]
    rfl
  · rw [hsend.store, hlen, hcid]
    rfl

/-! ## CKPT_LOAD (R252) -/

theorem ckptLoad_refused (h : Stated.StepRuns s p c 0x415 k) (hph : k.loadPhase = 0)
    (hlive : (s.part p).step.live = true) : ∃ t, exec (.ckptLoad p c) s = .next t ∧ t.mem = s.mem ∧
      Stated.DoneWith t p c ⟨3, 0, 0, 0, []⟩ := by
  refine ⟨s.setOut p c (.of 3), ?_, rfl, State.doneWith_setOut h.canon h.cmd⟩
  change execCkptLoad p c s = _
  rw [execCkptLoad, State.stepRow_of_runs h]
  exact congrArg Host.Outcome.next ((if_neg (not_not.mpr hph)).trans (if_pos hlive))

/-- What a load that may go on does. -/
theorem exec_ckptLoad (h : Stated.StepRuns s p c 0x415 k) (hph : k.loadPhase = 0)
    (hlive : (s.part p).step.live = false)
    (hacc : s.tagAccess p (k.loadKeys.map fun g => (granAddr g, 2 ^ 21, true)) = none) :
    exec (.ckptLoad p c) s = .next (
      if fld k.msg 52 1 = 0 then
        (forN k.loadKeys.length s fun i s =>
          (ckptParts (hdrOk (s.bytes (fld k.msg 64 8 + 2 ^ 21 * i + 0xA0800) 64))).foldl (fun s r =>
            s.wr p (granAddr (nth 0 k.loadKeys i) + r.1)
              (s.bytes (fld k.msg 64 8 + 2 ^ 21 * i + r.1) r.2)) s).setOut p c .ok
      else if k.loadKeys.isEmpty then s.setOut p c .ok
      else
        forN k.loadKeys.length (s.modCmd p c fun k => k.setLoadPhase 1) fun i s =>
          (ckptParts true).foldl (fun s r => s.storeReads p c (fld k.msg 64 8) (2 ^ 21 * i + r.1) r.2) s) := by
  change execCkptLoad p c s = _
  rw [execCkptLoad, State.stepRow_of_runs h]
  refine congrArg Host.Outcome.next ((if_neg (not_not.mpr hph)).trans ((if_neg (hlive ▸ nofun)).trans ?_))
  rw [hacc]

theorem Cmd.length_loadKeys : k.loadKeys.length = fld k.msg 48 4 := length_mapRange _ _

theorem Cmd.nth_loadKeys (h : i < fld k.msg 48 4) : nth 0 k.loadKeys i = fld k.data (4 * i) 4 := nth_mapRange _ _ h

theorem ckptLoad_copies (h : Stated.StepRuns s p c 0x415 k) (hph : k.loadPhase = 0)
    (hlive : (s.part p).step.live = false)
    (hacc : s.tagAccess p (k.loadKeys.map fun g => (granAddr g, 2 ^ 21, true)) = none) (hhost : fld k.msg 52 1 = 0) :
    ∃ t, exec (.ckptLoad p c) s = .next t ∧ Stated.DoneWith t p c ⟨0, 0, 0, 0, []⟩ ∧
      t.mem = (forN (fld k.msg 48 4) s fun i u =>
        (ckptParts (hdrOk (u.bytes (fld k.msg 64 8 + 2 ^ 21 * i + 0xA0800) 64))).foldl (fun u r =>
          u.wr p (granAddr (fld k.data (4 * i) 4) + r.1) (u.bytes (fld k.msg 64 8 + 2 ^ 21 * i + r.1) r.2)) u).mem := by
  have hex := exec_ckptLoad h hph hlive hacc
  rw [if_pos hhost, Cmd.length_loadKeys, forN_congr_lt (fld k.msg 48 4) s fun i hi y => by
    rw [Cmd.nth_loadKeys hi]] at hex
  generalize hz : (forN (fld k.msg 48 4) s fun i u =>
        (ckptParts (hdrOk (u.bytes (fld k.msg 64 8 + 2 ^ 21 * i + 0xA0800) 64))).foldl (fun u r =>
          u.wr p (granAddr (fld k.data (4 * i) 4) + r.1) (u.bytes (fld k.msg 64 8 + 2 ^ 21 * i + r.1) r.2)) u) =
            z at hex
  have cz : z.Canon := hz ▸
    (Keeps.forN' _ .refl fun _ _ hy => Keeps.foldl' _ hy fun _ _ hx => Keeps.wr hx).canon h.canon
  have hmoves : Moves [.mem] s z := hz ▸ Moves.forN (fun _ y => Moves.foldl (fun x _ => Moves.wr x _ _ _) _ y) _ s
  exact ⟨_, hex, State.doneWith_setOut cz ((State.cmd?_of_parts (hmoves .parts (by decide)) p c).trans h.cmd), rfl⟩

/-- The segments that read of a granule what a save stores of a flask. -/
def loadSegs (p c src base : Nat) : List StoreSeg :=
  (ckptParts true).flatMap fun r => readSegs p c src (base + r.1) r.2

theorem length_loadSegs (p c src base : Nat) : (loadSegs p c src base).length = 26 := by
  rw [loadSegs, List.length_flatMap]
  simp only [length_readSegs]
  decide

theorem Stores.loadSegs (s : State) (p c src base : Nat) : Stores (loadSegs p c src base) s
    ((ckptParts true).foldl (fun s r => s.storeReads p c src (base + r.1) r.2) s) :=
  .foldl (fun y r => .storeReads y p c src (base + r.1) r.2) _ s

theorem ckptLoad_reads (h : Stated.StepRuns s p c 0x415 k) (hph : k.loadPhase = 0)
    (hlive : (s.part p).step.live = false)
    (hacc : s.tagAccess p (k.loadKeys.map fun g => (granAddr g, 2 ^ 21, true)) = none) (hfab : fld k.msg 52 1 = 1)
    (hn : fld k.msg 48 4 ≠ 0) : ∃ t, exec (.ckptLoad p c) s = .next t ∧
      t.cmd? p c = some (k.setLoadPhase 1) ∧ t.mem = s.mem ∧
      t.fabric.store.length = s.fabric.store.length + 26 * fld k.msg 48 4 := by
  have hex := exec_ckptLoad h hph hlive hacc
  have hsome : ¬ k.loadKeys.isEmpty = true := fun he => hn <| by
    rw [← Cmd.length_loadKeys, List.isEmpty_iff.mp he]
    rfl
  rw [if_neg (by rw [hfab]; decide), if_neg hsome, Cmd.length_loadKeys] at hex
  have hsends := Stores.forN (fun i y => .loadSegs y p c (fld k.msg 64 8) (2 ^ 21 * i)) (fld k.msg 48 4)
    (s.modCmd p c fun k => k.setLoadPhase 1)
  refine ⟨_, hex, ?_, hsends.moves .mem (by decide), ?_⟩
  · rw [State.cmd?_of_parts (hsends.moves .parts (by decide)),
      State.cmd?_modCmd (f := fun k => k.setLoadPhase 1) h.canon (fun _ => rfl), h.cmd]
    rfl
  · rw [hsends.store, List.length_append, List.length_flatMap]
    simp only [length_loadSegs, List.map_const', List.length_range, List.sum_replicate, smul_eq_mul]
    rw [Nat.mul_comm]
    rfl

end Sys2Proof.Machine

end

section
/-! SUPPORT. Checkpoints, assembled; what the answers of an endpoint end (R367). -/
set_option Elab.async false

namespace Sys2Proof.Machine

variable {s t : State} {p c i n : Nat} {k : Cmd} {x : StoreSeg} {m : List Byte} {o : Compl}

theorem Cmd.nth_saveKeys (h : i < k.saveN) : nth 0 k.saveKeys i = fld k.data (272 + 4 * i) 4 := nth_mapRange _ _ h

/-- The granules that a save may read, in the words of the statement. -/
theorem State.saveNow_eq (s : State) (p : Nat) (k : Cmd) :
    s.saveNow p k = (List.range (fld k.msg 56 4)).filter fun i =>
      !(fld k.data (272 + 4 * fld k.msg 56 4 + i) 1 == 1) &&
        (s.stk.readMarks.contains (fld k.data (272 + 4 * i) 4, p, k.cid) ||
          !s.stk.marks.any fun x => x.1 == fld k.data (272 + 4 * i) 4) := by
  refine List.filter_congr fun i hi => ?_
  have hkey := Cmd.nth_saveKeys (k := k) (List.mem_range.mp hi)
  rw [hkey]
  rfl

theorem State.lt_of_mem_saveNow (h : i ∈ s.saveNow p k) : i < k.saveN := List.mem_range.mp (List.mem_filter.mp h).1

/-- The ranges that a save reads. -/
theorem State.saveNow_ranges (s : State) (p : Nat) (k : Cmd) :
    ((s.saveNow p k).map fun i => (granAddr (nth 0 k.saveKeys i), 2 ^ 21, false)) =
      (s.saveNow p k).map fun i => (granAddr (fld k.data (272 + 4 * i) 4), 2 ^ 21, false) :=
  List.map_congr_left fun _ hi => by rw [Cmd.nth_saveKeys (State.lt_of_mem_saveNow hi)]

/-- What a pass over the granules `go` writes, in the words of the statement. -/
def State.passOver (s : State) (p : Nat) (k : Cmd) (go : List Nat) (last : Bool) : List (Nat × List Byte) :=
  go.flatMap (fun i =>
      (ckptParts (hdrOk (s.flaskHdr p (fld k.data (272 + 4 * i) 4 / 2 ^ 16)
        (fld k.data (272 + 4 * i) 4 % 2 ^ 16)))).map fun r =>
        (2 ^ 21 * i + r.1, s.rd p (granAddr (fld k.data (272 + 4 * i) 4) + r.1) r.2)) ++
    if last then [(2 ^ 21 * k.saveN, k.manifest)] else []

theorem State.savePass_eq (s : State) (p : Nat) (k : Cmd) :
    s.savePass p k = s.passOver p k (s.saveNow p k) (s.saveLast p k) := by
  refine congrArg (· ++ _) (List.flatMap_congr fun i hi => ?_)
  rw [State.saveRuns, Cmd.nth_saveKeys (State.lt_of_mem_saveNow hi)]

/-- The ranges that a load writes. -/
theorem Cmd.loadKeys_ranges (k : Cmd) : (k.loadKeys.map fun g => (granAddr g, 2 ^ 21, true)) =
    (List.range (fld k.msg 48 4)).map fun i => (granAddr (fld k.data (4 * i) 4), 2 ^ 21, true) :=
  List.map_map

theorem StepSt.live_none {y : StepSt} (hopen : y.opened = none) (hseal : y.sealing = none) : y.live = false :=
  Bool.eq_false_iff.mpr fun h => ((StepSt.live_iff y).mp h).elim (absurd hopen) (absurd hseal)

theorem checkpointsAreCopied : Stated.CheckpointsAreCopied := by
  intro s p c k m parts
  have hparts : parts = ckptParts := rfl
  clear_value parts
  subst hparts
  refine ⟨fun h => ?_, fun h hph => ⟨fun hlive => ?_, fun hopen hseal hacc => ⟨fun hhost => ?_, fun hfab hn => ?_⟩⟩⟩
  · have hnow := State.saveNow_eq s p k
    have hranges := State.saveNow_ranges s p k
    have hpass := State.savePass_eq s p k
    intro n key done dest go last runs hd hacc
    have hgo : go = s.saveNow p k := hnow.symm
    have hlast : last = s.saveLast p k :=
      congrArg (fun l : List Nat => (List.range k.saveN).all fun i => k.saved i || l.contains i) hgo
    have hruns : runs = s.savePass p k := (congrArg₂ (State.passOver s p k) hgo hlast).trans hpass.symm
    rw [hgo] at hacc
    rw [hlast, hruns, hgo]
    refine ⟨fun hhost => ckptSave_copies h hd ((congrArg (s.tagAccess p) hranges).trans hacc) hhost,
      fun hfab hn => ckptSave_sends h hn hd hfab⟩
  · exact ckptLoad_refused h hph ((StepSt.live_iff _).mpr hlive)
  · have hranges := Cmd.loadKeys_ranges k
    exact ckptLoad_copies h hph (StepSt.live_none hopen hseal) ((congrArg (s.tagAccess p) hranges).trans hacc) hhost
  · have hranges := Cmd.loadKeys_ranges k
    exact ckptLoad_reads h hph (StepSt.live_none hopen hseal) ((congrArg (s.tagAccess p) hranges).trans hacc) hfab hn

/-! ## The segment that an answer names -/

/-- The key and the offset of an answer are a segment's. -/
def namesSeg (m : List Byte) (y : StoreSeg) : Bool :=
  y.endpoint == fld m 4 2 && y.key == fld m 32 8 && y.offset == fld m 40 8

theorem State.storeSeg?_eq (s : State) (b : Bool) (m : List Byte) :
    s.storeSeg? b m = s.fabric.store.find? fun y => (y.isRead == b) && namesSeg m y :=
  congrArg (s.fabric.store.find? ·) (funext fun y => by simp only [namesSeg, Bool.and_assoc])

theorem State.storeSeg?_write (s : State) (m : List Byte) :
    s.storeSeg? false m = s.fabric.store.find? fun y => !y.isRead && namesSeg m y :=
  (s.storeSeg?_eq false m).trans (congrArg (s.fabric.store.find? ·) (funext fun y => by rw [beq_false]))

theorem State.storeSeg?_read (s : State) (m : List Byte) :
    s.storeSeg? true m = s.fabric.store.find? fun y => y.isRead && namesSeg m y :=
  (s.storeSeg?_eq true m).trans (congrArg (s.fabric.store.find? ·) (funext fun y => by rw [beq_true]))

theorem State.fabTake_storeData (h : fld m 2 2 = 0x202) : s.fabTake n m = (s.hear (fld m 4 2)).storeData m := by
  unfold State.fabTake
  dsimp only
  rw [h]
  rfl

theorem State.fabTake_storeAck (h : fld m 2 2 = 0x203) : s.fabTake n m = (s.hear (fld m 4 2)).storeAck m := by
  unfold State.fabTake
  dsimp only
  rw [h]
  rfl

/-! ## The command of a segment -/

/-- No other segment of the command of `x` is in flight. -/
def State.lastSeg (s : State) (x : StoreSeg) : Prop :=
  ∀ y ∈ s.fabric.store.erase x, ¬ (y.part = x.part ∧ y.cid = x.cid)

theorem State.lastSeg_any (h : s.lastSeg x) :
    (s.fabric.store.erase x).any (fun y => y.part == x.part && y.cid == x.cid) = false :=
  List.any_eq_false.mpr fun y hy hxy => h y hy (by simpa using hxy)

theorem State.not_lastSeg_any (h : ¬ s.lastSeg x) :
    (s.fabric.store.erase x).any (fun y => y.part == x.part && y.cid == x.cid) = true := by
  by_contra hno
  exact h fun y hy hxy => hno (List.any_eq_true.mpr ⟨y, hy, by simpa using hxy⟩)

theorem filter_erase_of_false {α : Type} [DecidableEq α] {q : α → Bool} {a : α} (h : q a = false) (l : List α) :
    (l.erase a).filter q = l.filter q := by
  induction l with
  | nil => rfl
  | cons b l ih =>
    by_cases hb : b = a
    · rw [hb, List.erase_cons_head, List.filter_cons_of_neg (by simp [h])]
    · rw [List.erase_cons_tail (by simpa using hb), List.filter_cons, List.filter_cons, ih]

/-- What is left once the segments of a command are dropped, where `x` is its only one. -/
theorem State.filter_lastSeg (h : s.lastSeg x) :
    s.fabric.store.filter (fun y => !(y.part == x.part && y.cid == x.cid)) = s.fabric.store.erase x := by
  have hkeep : (s.fabric.store.erase x).filter (fun y => !(y.part == x.part && y.cid == x.cid)) =
      s.fabric.store.erase x :=
    List.filter_eq_self.mpr fun y hy => by simpa [imp_iff_not_or] using h y hy
  rw [← hkeep, filter_erase_of_false (by simp)]

theorem State.storeEnd_ends (ch : s.Canon) (hk : s.cmd? p c = some k) : (s.storeEnd p c o).mem = s.mem ∧
    (s.storeEnd p c o).fabric.store = s.fabric.store.filter (fun y => !(y.part == p && y.cid == c)) ∧
      Stated.DoneWith (s.storeEnd p c o) p c o := by
  refine ⟨rfl, rfl, State.doneWith_setOut ?_ hk⟩
  exact { ch with }


/-- The state once the segment `x` is answered. -/
def State.segDone (s : State) (x : StoreSeg) : State :=
  s.setFabric { s.fabric with store := s.fabric.store.erase x }

theorem State.canon_segDone (ch : s.Canon) (x : StoreSeg) : (s.segDone x).Canon := { ch with }

theorem State.storeDone_more (h : ¬ s.lastSeg x) : s.storeDone x = s.segDone x := if_pos (State.not_lastSeg_any h)

theorem State.storeDone_last (h : s.lastSeg x) (hk : s.cmd? x.part x.cid = some k) : s.storeDone x =
    if k.opcode = 0x415 then (s.segDone x).loadMore x.part k
    else if k.saved k.saveN then (s.segDone x).setOut x.part x.cid .ok else s.segDone x := by
  unfold State.storeDone
  dsimp only
  split
  next he => exact absurd ((State.lastSeg_any h).symm.trans he) nofun
  next =>
    split
    next k' hk' =>
      obtain rfl : k' = k := Option.some.inj (hk'.symm.trans hk)
      rfl
    next hno => exact absurd (hno.symm.trans hk) nofun

theorem State.storeDone_load (h : s.lastSeg x) (hk : s.cmd? x.part x.cid = some k) (hop : k.opcode = 0x415) :
    s.storeDone x = (s.segDone x).loadMore x.part k := (State.storeDone_last h hk).trans (if_pos hop)

theorem State.storeDone_save (h : s.lastSeg x) (hk : s.cmd? x.part x.cid = some k) (hop : k.opcode = 0x414)
    (hsaved : k.saved k.saveN = true) : s.storeDone x = (s.segDone x).setOut x.part x.cid .ok :=
  (State.storeDone_last h hk).trans ((if_neg (by rw [hop]; decide)).trans (if_pos hsaved))

theorem State.loadMore_complete (hk : s.cmd? p c = some k) (h : k.loadPhase ≠ 1 ∨
    ∀ i, i < fld k.msg 48 4 → hdrOk (s.bytes (granAddr (fld k.data (4 * i) 4) + 0xA0800) 64) = true) :
    s.loadMore p k = s.setOut p c .ok := by
  refine (if_pos (h.imp_right fun hall => List.isEmpty_iff.mpr (List.filter_eq_nil_iff.mpr fun i hi => ?_))).trans ?_
  · have hlt : i < fld k.msg 48 4 := List.mem_range.mp hi
    rw [Cmd.nth_loadKeys hlt, hall i hlt]
    exact nofun
  · rw [State.cid_of_cmd? hk]

/-- The middle of a granule that is no flask is read in the second phase. -/
theorem State.loadMore_reads (ch : s.Canon) (hk : s.cmd? p c = some k) (hph : k.loadPhase = 1)
    (hi : i < fld k.msg 48 4) (hno : hdrOk (s.bytes (granAddr (fld k.data (4 * i) 4) + 0xA0800) 64) = false) :
    (s.loadMore p k).mem = s.mem ∧ (s.loadMore p k).cmd? p c = some (k.setLoadPhase 2) ∧
      ∃ y ∈ (s.loadMore p k).fabric.store, y.part = p ∧ y.cid = c ∧ y.offset = 2 ^ 21 * i + 0xC0000 := by
  have hcid : k.cid = c := State.cid_of_cmd? hk
  obtain ⟨rest, hrest⟩ : ∃ l, l = (List.range k.loadN).filter fun i =>
      !hdrOk (s.bytes (granAddr (nth 0 k.loadKeys i) + 0xA0800) 64) := ⟨_, rfl⟩
  have hmem : i ∈ rest := by
    rw [hrest]
    refine List.mem_filter.mpr ⟨List.mem_range.mpr hi, ?_⟩
    rw [Cmd.nth_loadKeys hi, hno]
    rfl
  have hform : s.loadMore p k =
      rest.foldl (fun s i => s.storeReads p k.cid (fld k.msg 64 8) (2 ^ 21 * i + 0xC0000) 0x80000)
        (s.modCmd p k.cid fun k => k.setLoadPhase 2) := by
    rw [hrest]
    refine if_neg fun h => h.elim (absurd hph) fun he => ?_
    exact absurd (hrest ▸ hmem) (by rw [List.isEmpty_iff.mp he]; exact List.not_mem_nil)
  rw [hcid] at hform
  have hsends := Stores.foldl (fun y i => .storeReads y p c (fld k.msg 64 8) (2 ^ 21 * i + 0xC0000) 0x80000) rest
    (s.modCmd p c fun k => k.setLoadPhase 2)
  rw [← hform] at hsends
  refine ⟨hsends.moves .mem (by decide), ?_, ?_⟩
  · rw [State.cmd?_of_parts (hsends.moves .parts (by decide)),
      State.cmd?_modCmd (f := fun k => k.setLoadPhase 2) ch (fun _ => rfl), hk]
    rfl
  · obtain ⟨y, hy, hyp⟩ := head_readSegs p c (fld k.msg 64 8) (2 ^ 21 * i + 0xC0000) (len := 0x80000) (by decide)
    rw [hsends.store]
    exact ⟨y, List.mem_append_right _ (List.mem_flatMap.mpr ⟨i, hmem, hy⟩), hyp⟩


/-! ## The answers -/

theorem storeAck_writes (h : Stated.FabArrives s n 0x203 m) (hk : s.cmd? x.part x.cid = some k)
    (hx : s.fabric.store.find? (fun y => !y.isRead && namesSeg m y) = some x) (hlast : s.lastSeg x)
    (hop : k.opcode = 0x414) (hsaved : k.saved k.saveN = true) :
    ∃ t, exec (.storeAck n m) s = .next t ∧ t.mem = s.mem ∧ t.fabric.store = s.fabric.store.erase x ∧
      (fld m 48 1 = 0 → Stated.DoneWith t x.part x.cid ⟨0, 0, 0, 0, []⟩) ∧
      (fld m 48 1 ≠ 0 → Stated.DoneWith t x.part x.cid ⟨4, 0, 0, 0, []⟩) := by
  have hex : exec (.storeAck n m) s = .next ((s.hear (fld m 4 2)).storeAck m) :=
    (fabRow_mine h rfl (by decide)).trans (congrArg _ (State.fabTake_storeAck h.isOp))
  have cz : (s.hear (fld m 4 2)).Canon := State.canon_hear h.canon _
  have hkz : (s.hear (fld m 4 2)).cmd? x.part x.cid = some k := hk
  have hseg : (s.hear (fld m 4 2)).storeSeg? false m = some x := (State.storeSeg?_write _ m).trans hx
  have hlz : (s.hear (fld m 4 2)).lastSeg x := hlast
  have hmem : (s.hear (fld m 4 2)).mem = s.mem := rfl
  have hst : (s.hear (fld m 4 2)).fabric.store = s.fabric.store := rfl
  generalize s.hear (fld m 4 2) = z at hex cz hkz hseg hlz hmem hst
  rw [State.storeAck, hseg] at hex
  by_cases h0 : fld m 48 1 = 0
  · refine ⟨_, hex.trans (congrArg _ ((if_pos h0).trans (State.storeDone_save hlz hkz hop hsaved))), hmem,
      congrArg (List.erase · x) hst, fun _ => ?_, absurd h0⟩
    exact State.doneWith_setOut (State.canon_segDone cz x) hkz
  · obtain ⟨hm, hs, hdone⟩ := State.storeEnd_ends (o := .of 4) cz hkz
    refine ⟨_, hex.trans (congrArg _ (if_neg h0)), hm.trans hmem, ?_, fun h => absurd h h0, fun _ => hdone⟩
    rw [hs, State.filter_lastSeg hlz, hst]

theorem storeAck_fails (h : Stated.FabArrives s n 0x203 m) (hk : s.cmd? x.part x.cid = some k)
    (hno : s.fabric.store.find? (fun y => !y.isRead && namesSeg m y) = none)
    (hx : s.fabric.store.find? (fun y => y.isRead && namesSeg m y) = some x) (h0 : fld m 48 1 ≠ 0) :
    ∃ t, exec (.storeAck n m) s = .next t ∧ t.mem = s.mem ∧ Stated.DoneWith t x.part x.cid ⟨4, 0, 0, 0, []⟩ := by
  have hex : exec (.storeAck n m) s = .next ((s.hear (fld m 4 2)).storeAck m) :=
    (fabRow_mine h rfl (by decide)).trans (congrArg _ (State.fabTake_storeAck h.isOp))
  have hw : (s.hear (fld m 4 2)).storeSeg? false m = none := (State.storeSeg?_write _ m).trans hno
  have hr : (s.hear (fld m 4 2)).storeSeg? true m = some x := (State.storeSeg?_read _ m).trans hx
  obtain ⟨hm, -, hdone⟩ := State.storeEnd_ends (s := s.hear (fld m 4 2)) (o := .of 4) (State.canon_hear h.canon _) hk
  rw [State.storeAck, hw, hr] at hex
  exact ⟨_, hex.trans (congrArg _ (if_neg h0)), hm, hdone⟩

theorem exec_storeData (h : Stated.FabArrives s n 0x202 m) (hk : s.cmd? x.part x.cid = some k)
    (hx : s.fabric.store.find? (fun y => y.isRead && namesSeg m y) = some x)
    (hi : x.offset / 2 ^ 21 < fld k.msg 48 4)
    (hbad : s.firstBad x.part true (granAddr (fld k.data (4 * (x.offset / 2 ^ 21)) 4) + x.offset % 2 ^ 21) x.len =
      none) :
    exec (.storeData n m) s = .next (((s.hear (fld m 4 2)).wr x.part
      (granAddr (fld k.data (4 * (x.offset / 2 ^ 21)) 4) + x.offset % 2 ^ 21) (slice m 48 x.len)).storeDone x) := by
  have hsame : SameWrites s (s.hear (fld m 4 2)) := .ofMoves (Moves.setFabric s _)
  have hr : (s.hear (fld m 4 2)).storeSeg? true m = some x := (State.storeSeg?_read _ m).trans hx
  have hkz : (s.hear (fld m 4 2)).cmd? x.part x.cid = some k := hk
  refine (fabRow_mine h rfl (by decide)).trans (congrArg _ ((State.fabTake_storeData h.isOp).trans ?_))
  rw [State.storeData, hr]
  dsimp only
  rw [hkz]
  dsimp only
  rw [Cmd.nth_loadKeys hi, State.storeLay, hsame.firstBad, hbad]

theorem State.bytes_of_mem (h : t.mem = s.mem) (a n : Nat) : t.bytes a n = s.bytes a n := by
  simp only [State.bytes, State.byte, h]

/-- What the last answer of a load does. -/
theorem State.storeDone_ends {z : State} (cz : z.Canon) (hk : z.cmd? x.part x.cid = some k) (hop : k.opcode = 0x415) :
    (z.storeDone x).mem = z.mem ∧
      (¬ z.lastSeg x ∨ k.loadPhase ≠ 1 → (z.storeDone x).fabric.store = z.fabric.store.erase x) ∧
      (z.lastSeg x → k.loadPhase ≠ 1 ∨ (∀ i, i < fld k.msg 48 4 →
          hdrOk ((z.storeDone x).bytes (granAddr (fld k.data (4 * i) 4) + 0xA0800) 64) = true) →
        Stated.DoneWith (z.storeDone x) x.part x.cid ⟨0, 0, 0, 0, []⟩) ∧
      (z.lastSeg x → k.loadPhase = 1 → ∀ i, i < fld k.msg 48 4 →
        hdrOk ((z.storeDone x).bytes (granAddr (fld k.data (4 * i) 4) + 0xA0800) 64) = false →
        (z.storeDone x).cmd? x.part x.cid = some (k.setLoadPhase 2) ∧
          ∃ y ∈ (z.storeDone x).fabric.store, y.part = x.part ∧ y.cid = x.cid ∧
            y.offset = 2 ^ 21 * i + 0xC0000) := by
  have cs := State.canon_segDone cz x
  have hks : (z.segDone x).cmd? x.part x.cid = some k := hk
  by_cases hlast : z.lastSeg x
  · rw [State.storeDone_load hlast hk hop]
    by_cases hall : k.loadPhase ≠ 1 ∨ ∀ i, i < fld k.msg 48 4 →
        hdrOk ((z.segDone x).bytes (granAddr (fld k.data (4 * i) 4) + 0xA0800) 64) = true
    · rw [State.loadMore_complete hks hall]
      refine ⟨rfl, fun _ => rfl, fun _ _ => State.doneWith_setOut cs hks, fun _ hph i hi hno => ?_⟩
      exact absurd ((hall.resolve_left (not_not.mpr hph) i hi).symm.trans hno) nofun
    · obtain ⟨hph, hsome⟩ := not_or.mp hall
      obtain ⟨j, hj⟩ := not_forall.mp hsome
      obtain ⟨hjn, hjno⟩ := Classical.not_imp.mp hj
      have hph := not_not.mp hph
      have hreads {i : Nat} := State.loadMore_reads (i := i) cs hks hph
      obtain ⟨hmem, -⟩ := hreads hjn (Bool.eq_false_iff.mpr hjno)
      have hbytes (a : Nat) : ((z.segDone x).loadMore x.part k).bytes a 64 = (z.segDone x).bytes a 64 :=
        State.bytes_of_mem hmem a 64
      refine ⟨hmem, fun h => absurd h ?_, fun _ h => absurd h ?_, fun _ _ i hi hno => ?_⟩
      · exact not_or.mpr ⟨not_not.mpr hlast, not_not.mpr hph⟩
      · refine not_or.mpr ⟨not_not.mpr hph, fun hf => hjno ?_⟩
        rw [← hbytes]
        exact hf j hjn
      · rw [hbytes] at hno
        exact (hreads hi hno).2
  · rw [State.storeDone_more hlast]
    exact ⟨rfl, fun _ => rfl, fun h => absurd h hlast, fun h => absurd h hlast⟩

theorem storeTimeout_ends (ch : s.Canon) (hk : s.cmd? x.part x.cid = some k) (hx : x ∈ s.fabric.store) :
    ∃ t, exec (.storeTimeout x.part x.cid) s = .next t ∧ t.mem = s.mem ∧
      Stated.DoneWith t x.part x.cid ⟨7, 0, 0, 0, []⟩ ∧
      t.fabric.store = s.fabric.store.filter fun y => !(y.part == x.part && y.cid == x.cid) := by
  obtain ⟨hm, hs, hdone⟩ := State.storeEnd_ends (o := .of 7) ch hk
  refine ⟨_, if_pos (List.any_eq_true.mpr ⟨x, hx, ?_⟩), hm, hdone, hs⟩
  simp

theorem storageAnswersEndCommands : Stated.StorageAnswersEndCommands := by
  intro s n m x k st names alone hk
  refine ⟨fun h hx halone hop hsaved => storeAck_writes h hk hx halone hop hsaved,
    fun h hno hx h0 => storeAck_fails h hk hno hx h0, fun h hx => ?_,
    fun ch hx => storeTimeout_ends ch hk hx⟩
  intro key a hi hbad hop
  have hsame : SameWrites s (s.hear (fld m 4 2)) := .ofMoves (Moves.setFabric s _)
  have hmoves := Moves.wr (s.hear (fld m 4 2)) x.part a (slice m 48 x.len)
  have hmem := (hsame.wr x.part a (slice m 48 x.len)).mem
  have cz := (Keeps.wr (a1 := x.part) (a2 := a) (a3 := slice m 48 x.len) .refl).canon
      (State.canon_hear h.canon (fld m 4 2))
  have hkz := (State.cmd?_of_parts (hmoves .parts (by decide)) x.part x.cid).trans hk
  have hst : ((s.hear (fld m 4 2)).wr x.part a (slice m 48 x.len)).fabric.store = s.fabric.store :=
    (congrArg Fabric.store (hmoves .fabric (by decide) :) :)
  have hex := exec_storeData h hk hx hi hbad
  obtain ⟨z, hz⟩ : ∃ z, z = (s.hear (fld m 4 2)).wr x.part a (slice m 48 x.len) := ⟨_, rfl⟩
  rw [← hz] at hex hmem cz hkz hst
  have hl : z.lastSeg x ↔ alone := by rw [State.lastSeg, hst]
  obtain ⟨hm, hs, hdone, hmore⟩ := State.storeDone_ends cz hkz hop
  exact ⟨_, hex, hm.trans hmem, fun h => (hs (h.imp_left (mt hl.mp))).trans (congrArg (List.erase · x) hst),
    fun h => hdone (hl.mpr h), fun h => hmore (hl.mpr h)⟩

end Sys2Proof.Machine

open Sys2Proof Sys2Proof.Machine in
/-- Settles O29: a save and a load move the granules of the list that their start read, or leave segments in flight;
the answers of an endpoint end these and their command. -/
theorem checkpointsAndStorage : Obligations.CheckpointsAndStorage :=
  ⟨checkpointsAreCopied, storageAnswersEndCommands⟩

end

section
/-! SUPPORT. Accesses of any page (R27, R29, R33): the page of a number, bus errors, accesses that reach a page and that
do not. -/
set_option Elab.async false

namespace Sys2Proof.Machine

variable {s t : State} {init n i a off kind b size : Nat} {k : PageKind} {v : Word} {w : BitVec 64}

/-! ## The page of a number -/

theorem mem_pageOf_no (n : Nat) : ∀ e ∈ pageOf n, pageNo e.1 e.2 = n ∧ (e.1 = .fum → e.2 % 64 < 33) := by
  unfold pageOf
  repeat' refine forall_mem_ite (fun hin => ?_) fun _ => ?_
  all_goals
    intro e he
    cases he
  all_goals
    refine ⟨?_, fun hf => ?_⟩
    · simp only [pageNo]
      omega
    · cases hf <;> omega

/-- A number that names a page is the number of that page. -/
theorem pageNo_of_pageOf (h : pageOf n = some (k, i)) : pageNo k i = n ∧ IsPage k i := by
  obtain ⟨hn, hf⟩ := mem_pageOf_no n (k, i) h
  exact ⟨hn, instance_lt_of_pageOf h, hf⟩

/-! ## Words of registers -/

theorem w32_toNat (v : Word) : w32 v.toNat = v := by rw [w32, BitVec.ofNat_toNat, BitVec.setWidth_eq]

theorem w32_pg (s : State) (k : PageKind) (i off : Nat) : w32 (s.pg k i off) = s.rg (pageNo k i * 0x1000 + off) :=
  w32_toNat _

/-! ## Bus errors -/

/-- A further error finds the log full: it keeps what it holds, and tells that it passed over one (R38). -/
theorem State.pg_errLog_of_full {code part info1 info2 : Nat} (c : s.Canon) (hk : k ≠ .host)
    (hfull : bit (s.pg k i 0x28) 31 = true) :
    (s.errLog k i code part info1 info2).pg k i 0x28 = s.pg k i 0x28 ||| 2 ^ 30 ∧
      (s.errLog k i code part info1 info2).pg k i 0x2C = s.pg k i 0x2C := by
  have hlt : s.pg k i 0x28 ||| 2 ^ 30 < 2 ^ 32 := Nat.or_lt_two_pow (State.pg_lt s k i 0x28) (by decide)
  have c₁ := State.canon_setPg c k i 0x28 (s.pg k i 0x28 ||| 2 ^ 30)
  simp only [State.errLog, hfull, if_true]
  constructor
  · rw [State.pg_evSet_ne c₁ hk (by omega) (by omega), State.pg_setPg c, Nat.mod_eq_of_lt hlt]
  · rw [State.pg_evSet_ne c₁ hk (by omega) (by omega), State.pg_setPg_ne c _ (by omega)]

theorem initPart_of (hi : init < 2 ∨ 10 ≤ init) :
    initPart init = if init = 1 then 8 else if init = 12 then 0xE else 0xF := by
  unfold initPart
  split
  · rfl
  · rw [if_neg (by omega)]

theorem busErr_busError (c : s.Canon) (hi : init < 2 ∨ 10 ≤ init) (hkind : kind < 8) (hoff : off < 2 ^ 26) :
    Stated.BusError s (s.busErr init kind off) init kind off := by
  have hmgt : PageKind.mgt ≠ .host := nofun
  have ce : (s.evSet .mgt 0 1).Canon := (Keeps.evSet .refl).canon c
  have hb : BusOnly s (s.busErr init kind off) := .evErr hmgt
  have hlog : (s.evSet .mgt 0 1).pg .mgt 0 0x28 = s.pg .mgt 0 0x28 := State.pg_evSet_ne c hmgt (by decide) (by decide)
  have hinfo : (s.evSet .mgt 0 1).pg .mgt 0 0x2C = s.pg .mgt 0 0x2C := State.pg_evSet_ne c hmgt (by decide) (by decide)
  refine ⟨?_, State.bit_evErr_self c hmgt (by decide), hb.mem, (Moves.ofBusOnly hb) .fabric (by decide), hb.parts,
    fun hfree => ?_, fun hfull => ?_⟩
  · rw [State.busErr, State.evErr, State.bit_errLog ce hmgt (by decide), decide_eq_true rfl, Bool.or_true]
  · obtain ⟨h0, h1, -⟩ := State.pg_evErr_of_free (b := 1) (code := kind) (part := initPart init) (info1 := off)
      (info2 := 0) c hmgt hfree
    refine ⟨h1.trans (Nat.mod_eq_of_lt (by omega)), h0.trans ?_⟩
    rw [initPart_of hi]
    split
    · omega
    · split
      · omega
      · omega
  · obtain ⟨h0, h1⟩ := State.pg_errLog_of_full (code := kind) (part := initPart init) (info1 := off)
      (info2 := 0) ce hmgt (hlog ▸ hfull)
    exact ⟨h0.trans (by rw [hlog]), h1.trans hinfo⟩

theorem nothingToTake_busErr (c : s.Canon) (hq : s.NothingToTake) : (s.busErr init kind off).NothingToTake :=
  State.nothingToTake_evErr c hq nofun (by decide)

theorem init_of_reaches (h : Stated.Reaches s init) : init < 2 ∨ 10 ≤ init := h.2.2.2.imp_left And.left

/-! ## Moves within a page's header -/

/-- From `s` to `t` registers of one page moved, none of them a ring's, and what an event of the host may write. -/
structure HdrOnly (k : PageKind) (i : Nat) (s t : State) : Prop where
  moves : Moves [.bus, .mem, .health] s t
  page : ∀ a, a / 0x1000 ≠ pageNo k i → t.rg a = s.rg a
  block : ∀ off, 0x100 ≤ off → off < 0x400 → t.pg k i off = s.pg k i off

namespace HdrOnly

theorem refl : HdrOnly k i s s := ⟨.refl, fun _ _ => rfl, fun _ _ _ => rfl⟩

theorem trans {u : State} (h : HdrOnly k i s t) (h' : HdrOnly k i t u) : HdrOnly k i s u :=
  ⟨h.moves.andThen h'.moves, fun a ha => (h'.page a ha).trans (h.page a ha),
    fun off h1 h2 => (h'.block off h1 h2).trans (h.block off h1 h2)⟩

theorem ite {u : State} {q : Prop} [Decidable q] (ht : HdrOnly k i s t) (hu : HdrOnly k i s u) :
    HdrOnly k i s (if q then t else u) := by
  split
  · exact ht
  · exact hu

theorem setPg (c : s.Canon) (k : PageKind) (i : Nat) (hoff : off < 0x1000) (hno : off < 0x100 ∨ 0x400 ≤ off) (x : Nat) :
    HdrOnly k i s (s.setPg k i off x) where
  moves := (Moves.setPg s k i off x).mono
  page := fun a ha => State.rg_setRg_ne c _ (by omega)
  block := fun o h1 h2 => State.pg_setPg_ne c x (by omega)

theorem nothingToTake (h : HdrOnly k i s t) (hp : IsPage k i) (hq : s.NothingToTake) : t.NothingToTake := by
  have hring (r : Nat) : (t.ring r).stopped = (s.ring r).stopped :=
    (congrArg (fun x : Tbl Ring => (tget Ring.reset x r).stopped) h.moves.rings :)
  refine State.nothingToTake_of_rings hq (congrArg Dev.state h.moves.dev)
    (h.moves .taps (by decide)) hring fun r hr off ho => ?_
  have ho' : off = 0x10 ∨ off = 0x14 ∨ off = 0x18 := by simpa using ho
  have hlo : 0x100 ≤ ringOff r off ∧ ringOff r off < 0x400 := by unfold ringOff; omega
  by_cases hk : k = .host
  · subst hk
    exact h.block _ hlo.1 hlo.2
  · have hne := pageNo_ne_host hk hp.1
    exact congrArg BitVec.toNat (h.page _ (by rw [pageNo_div _ _ (by omega)]; exact hne))

end HdrOnly

/-! ## Accesses that meet an error -/

section
variable (hr : Stated.Reaches s init)
include hr

theorem regWrite_misaligned (ha : a % 4 ≠ 0) : s.regWrite init a v = (s.busErr init 3 a, 0) := by
  have hm := mayReach_of_reaches hr true a
  obtain ⟨-, -, hlost, -⟩ := hr
  simp [State.regWrite, hm, hlost, ha]

theorem regRead_misaligned (ha : a % 4 ≠ 0) : s.regRead init a = (s.busErr init 3 a, 0xFFFFFFFF, 0) := by
  have hm := mayReach_of_reaches hr false a
  obtain ⟨-, -, hlost, -⟩ := hr
  simp [State.regRead, hm, hlost, ha]

theorem regWrite_unmapped (ha : a % 4 = 0) (hp : pageOf (a / 0x1000) = none) :
    s.regWrite init a v = (s.busErr init 2 a, 0) := by
  have hm := mayReach_of_reaches hr true a
  obtain ⟨-, -, hlost, -⟩ := hr
  simp [State.regWrite, hm, hlost, ha, hp]

theorem regRead_unmapped (ha : a % 4 = 0) (hp : pageOf (a / 0x1000) = none) :
    s.regRead init a = (s.busErr init 2 a, 0, 0) := by
  have hm := mayReach_of_reaches hr false a
  obtain ⟨-, -, hlost, -⟩ := hr
  simp [State.regRead, hm, hlost, ha, hp]

theorem regWrite_gated (ha : a % 4 = 0) (hp : pageOf (a / 0x1000) = some (k, i)) (hg : s.gated k i = true) :
    s.regWrite init a v = (s.busErr init 1 a, 0) := by
  have hm := mayReach_of_reaches hr true a
  obtain ⟨-, -, hlost, -⟩ := hr
  simp [State.regWrite, hm, hlost, ha, hp, hg]

theorem regRead_gated (ha : a % 4 = 0) (hp : pageOf (a / 0x1000) = some (k, i)) (hg : s.gated k i = true) :
    s.regRead init a = (s.busErr init 1 a, 0xFFFFFFFF, 0) := by
  have hm := mayReach_of_reaches hr false a
  obtain ⟨-, -, hlost, -⟩ := hr
  simp [State.regRead, hm, hlost, ha, hp, hg]

theorem writeAccess_misaligned (hplain : ¬ ((size = 4 ∧ a % 4 = 0) ∨ (size = 8 ∧ a % 8 = 0))) :
    s.writeAccess init a size w = s.busErr init 3 a := by
  obtain ⟨h4, h8⟩ := not_or.mp hplain
  rw [State.writeAccess, reach_of_reaches hr]
  by_cases hsize : size = 4
  · rw [if_neg nofun, if_pos hsize, regWrite_misaligned hr fun ha => h4 ⟨hsize, ha⟩]
  · rw [if_neg nofun, if_neg hsize, if_neg h8, mayReach_of_reaches hr]
    rfl

theorem readAccess_misaligned (hplain : ¬ ((size = 4 ∧ a % 4 = 0) ∨ (size = 8 ∧ a % 8 = 0))) :
    s.readAccess init a size = (s.busErr init 3 a).setRead init (2 ^ (8 * size) - 1) := by
  obtain ⟨h4, h8⟩ := not_or.mp hplain
  rw [State.readAccess, reach_of_reaches hr]
  by_cases hsize : size = 4
  · rw [if_neg nofun, if_pos hsize, regRead_misaligned hr fun ha => h4 ⟨hsize, ha⟩, hsize]
    rfl
  · rw [if_neg nofun, if_neg hsize, if_neg h8, mayReach_of_reaches hr]
    rfl

/-- A write of 4 bytes that meets a bus error. -/
theorem exec_registerWrite_error (hq : s.NothingToTake) (hkind : kind < 8) (ha : a < 2 ^ 26)
    (hw : s.writeAccess init a size w = s.busErr init kind a) :
    ∃ t, exec (.registerWrite init a size w) s = .next t ∧ Stated.BusError s t init kind a := by
  refine ⟨s.busErr init kind a, ?_, busErr_busError hr.1 (init_of_reaches hr) hkind ha⟩
  change Host.Outcome.next (s.writeAccess init a size w).serve = _
  rw [hw, State.serve_of_nothingToTake (nothingToTake_busErr hr.1 hq)]

theorem exec_registerRead_error {x : Nat} (hkind : kind < 8) (ha : a < 2 ^ 26)
    (hw : s.readAccess init a size = (s.busErr init kind a).setRead init x) :
    ∃ t, exec (.registerRead init a size) s = .next t ∧ Stated.BusError s t init kind a ∧
      tget 0 t.bus.readData init = x := by
  have ce : (s.busErr init kind a).Canon := (Keeps.evErr .refl).canon hr.1
  exact ⟨_, congrArg Host.Outcome.next hw, busErr_busError hr.1 (init_of_reaches hr) hkind ha, readData_setRead ce x⟩

theorem writeAccess_word {m : Nat} (hw : s.regWrite init a (w.truncate 32) = (t, m)) :
    s.writeAccess init a 4 w = t := by
  rw [State.writeAccess, reach_of_reaches hr, if_neg nofun, if_pos rfl, hw]

theorem readAccess_word (hw : s.regRead init a = (t, v, 0)) : s.readAccess init a 4 = t.setRead init v.toNat := by
  rw [State.readAccess, reach_of_reaches hr, if_neg nofun, if_pos rfl, hw]
  rfl

/-! ## Header registers of a page with a clock -/

theorem writeReg_scratch : s.writeReg init k i 0x38 v = (s.setPg k i 0x38 v.toNat, 0) := by
  unfold State.writeReg
  rw [State.safeBars_of_ready hr.2.1, if_neg nofun, if_neg (by decide), if_neg (by omega)] <;> rfl

theorem writeReg_locked (hi : init ≤ 1) (hlock : s.ownerLock k i = true) (hoff : 0x40 ≤ off ∨ off = 0x18) :
    s.writeReg init k i off v = (s.busErr init 4 (pageNo k i * 0x1000 + off), 5) := by
  have hlocked : (decide (init ≤ 1) && s.ownerLock k i) = true := by simp [hi, hlock]
  unfold State.writeReg
  rw [State.safeBars_of_ready hr.2.1, if_neg nofun, if_neg (by omega)]
  exact if_pos ⟨hlocked, hoff⟩

end

theorem accessesAreServed : Stated.AccessesAreServed := by
  intro s init a ⟨hr, hq⟩ ha page read plain
  have c : s.Canon := hr.1
  refine ⟨fun k i v hp hg hoff => ⟨?_, ?_⟩, fun size v hplain => ⟨?_, ?_⟩, fun v hal hp => ⟨?_, ?_⟩,
    fun k i v hal hp hg => ⟨?_, ?_⟩, fun k i v hal hp hg hlock hi hoff => ?_⟩
  · obtain ⟨hno, hpage⟩ := pageNo_of_pageOf hp
    have haddr : a = pageNo k i * 0x1000 + 0x38 := by omega
    have hw : s.regWrite init a (v.truncate 32) = (s.setPg k i 0x38 (v.truncate 32).toNat, 0) := by
      rw [haddr, regWrite_of_reaches hr hpage (by decide) (by decide) hg, writeReg_scratch hr]
    have hset : s.setPg k i 0x38 (v.truncate 32).toNat = s.setRg a (v.truncate 32) := by
      rw [haddr, State.setPg, w32_toNat]
    have hquiet : (s.setPg k i 0x38 (v.truncate 32).toNat).NothingToTake :=
      (HdrOnly.setPg c k i (by decide) (by decide) _).nothingToTake hpage hq
    refine ⟨s.setRg a (v.truncate 32), ?_, State.rg_setRg c a _, rfl, fun b hb => State.rg_setRg_ne c _ hb⟩
    change Host.Outcome.next (s.writeAccess init a 4 v).serve = _
    rw [writeAccess_word hr hw, State.serve_of_nothingToTake hquiet, hset]
  · obtain ⟨hno, -⟩ := pageNo_of_pageOf hp
    have haddr : a = pageNo k i * 0x1000 + 0x38 := by omega
    have hread : s.readReg init k i (a % 0x1000) = (s, s.rg a) := by
      rw [hoff, readReg_header (by decide), readNow_header (by decide) (by decide) (by decide), haddr]
      exact congrArg (Prod.mk s) (w32_pg s k i 0x38)
    exact ⟨_, exec_registerRead_of_reaches hr (by omega) hp hg hread, readData_setRead c _, rfl⟩
  · exact exec_registerWrite_error hr hq (by decide) ha (writeAccess_misaligned hr hplain)
  · exact exec_registerRead_error hr (by decide) ha (readAccess_misaligned hr hplain)
  · exact exec_registerWrite_error hr hq (by decide) ha (writeAccess_word hr (regWrite_unmapped hr hal hp))
  · exact exec_registerRead_error hr (by decide) ha (readAccess_word hr (regRead_unmapped hr hal hp))
  · exact exec_registerWrite_error hr hq (by decide) ha (writeAccess_word hr (regWrite_gated hr hal hp hg))
  · exact exec_registerRead_error hr (by decide) ha (readAccess_word hr (regRead_gated hr hal hp hg))
  · obtain ⟨hno, hpage⟩ := pageNo_of_pageOf hp
    have haddr : a = pageNo k i * 0x1000 + a % 0x1000 := by omega
    have hw : s.regWrite init a (v.truncate 32) = (s.busErr init 4 a, 5) := by
      conv_lhs => rw [haddr]
      rw [regWrite_of_reaches hr hpage (by omega) (by omega) hg, writeReg_locked hr (by omega) hlock (.inl hoff),
        ← haddr]
    exact hi ▸ exec_registerWrite_error hr hq (by decide) ha (writeAccess_word hr hw)

end Sys2Proof.Machine

end

section
/-! SUPPORT. Events of a page (R36 to R38): what one event does to its page's words,
  and what the events of a mask do. -/
set_option Elab.async false

namespace Sys2Proof.Machine

variable {s t : State} {n i a b off : Nat} {k : PageKind} {v h : Word}

/-! ## A word with one more bit -/

theorem getLsbD_twoPow (b j : Nat) (hj : j < 32) : (BitVec.ofNat 32 (2 ^ b)).getLsbD j = decide (j = b) := by
  rw [BitVec.getLsbD_ofNat, decide_eq_true hj, Bool.true_and, Nat.testBit_two_pow]
  exact decide_eq_decide.mpr eq_comm

theorem bit_toNat (v : Word) (j : Nat) : bit v.toNat j = v.getLsbD j := bit_eq_testBit _ _

/-- Adding a power of two whose bit is clear sets it. -/
theorem w32_add_twoPow (he : v.getLsbD b = false) : w32 (v.toNat + 2 ^ b) = v ||| BitVec.ofNat 32 (2 ^ b) := by
  refine BitVec.eq_of_getLsbD_eq fun j hj => ?_
  rw [w32, BitVec.getLsbD_ofNat, decide_eq_true hj, Bool.true_and, testBit_add_two_pow he, BitVec.getLsbD_or,
    getLsbD_twoPow b j hj]
  rfl

theorem or_twoPow_of_bit (he : v.getLsbD b = true) : v ||| BitVec.ofNat 32 (2 ^ b) = v := by
  refine BitVec.eq_of_getLsbD_eq fun j hj => ?_
  rw [BitVec.getLsbD_or, getLsbD_twoPow b j hj]
  by_cases hjb : j = b
  · rw [hjb, he, Bool.true_or]
  · rw [decide_eq_false hjb, Bool.or_false]

/-! ## A vector that fires -/

theorem State.rg_fireVector (c : s.Canon) (vec : Nat) (ha : a ≠ pageNo .host 0 * 0x1000 + 0xC00) :
    (s.fireVector vec).rg a = s.rg a := by
  unfold State.fireVector
  dsimp only
  split
  · exact State.rg_setRg_ne c _ ha
  · obtain ⟨x, hx⟩ := s.setHostBytes_eq_setMem
      (s.pg .host 0 (0x800 + 16 * vec) + 2 ^ 32 * s.pg .host 0 (0x800 + 16 * vec + 4))
      (leBytes 4 (s.pg .host 0 (0x800 + 16 * vec + 8)))
    rw [hx]
    rfl

theorem Moves.setHostBytes (s : State) (a : Nat) (bs : List Byte) : Moves [.mem] s (s.setHostBytes a bs) :=
  .ite (Moves.setBytes _ _ s) .refl

theorem Moves.fireVector (s : State) (vec : Nat) : Moves [.bus, .mem] s (s.fireVector vec) :=
  .ite (Moves.setPg s _ _ _ _).mono (Moves.setHostBytes s _ _).mono

/-! ## One event -/

theorem State.canon_evSet (c : s.Canon) (k : PageKind) (i b : Nat) :
    (s.evSet k i b).Canon := (Keeps.evSet .refl).canon c

/-- An event whose bit is set is counted. -/
theorem State.evSet_again (hb : bit (s.pg k i 0x14) b = true) :
    s.evSet k i b = s.setPg k i 0x20 (min (bits (s.pg k i 0x20) 15 0 + 1) 0xFFFF + b * 2 ^ 16) := if_pos hb

/-- A first one sets its bit. -/
theorem State.evSet_first (hb : bit (s.pg k i 0x14) b = false) :
    s.evSet k i b = if k = .host ∧ bit ((s.setPg k i 0x14 (s.pg k i 0x14 + 2 ^ b)).pg .host 0 0x18) b then
      (s.setPg k i 0x14 (s.pg k i 0x14 + 2 ^ b)).fireVector 9 else s.setPg k i 0x14 (s.pg k i 0x14 + 2 ^ b) :=
  if_neg (by rw [hb]; exact nofun)

theorem State.rg_evSet_first (c : s.Canon) (hb : bit (s.pg k i 0x14) b = false)
    (ha : a ≠ pageNo .host 0 * 0x1000 + 0xC00) :
    (s.evSet k i b).rg a = (s.setPg k i 0x14 (s.pg k i 0x14 + 2 ^ b)).rg a := by
  rw [State.evSet_first hb]
  split
  · exact State.rg_fireVector (State.canon_setPg c ..) 9 ha
  · rfl

/-- The event's bit joins the event word. -/
theorem State.rg_evSet_word (c : s.Canon) (k : PageKind) (i b : Nat) :
    (s.evSet k i b).rg (pageNo k i * 0x1000 + 0x14) =
      s.rg (pageNo k i * 0x1000 + 0x14) ||| BitVec.ofNat 32 (2 ^ b) := by
  cases hb : bit (s.pg k i 0x14) b with
  | true =>
    rw [State.evSet_again hb, or_twoPow_of_bit ((bit_toNat _ _).symm.trans hb)]
    exact State.rg_setRg_ne c _ (by omega)
  | false =>
    rw [State.rg_evSet_first c hb (by omega), State.setPg, State.rg_setRg c]
    exact w32_add_twoPow ((bit_toNat _ _).symm.trans hb)

/-- Of its page an event moves the event word and the overrun count. -/
theorem State.rg_evSet_ne (c : s.Canon) (h14 : a ≠ pageNo k i * 0x1000 + 0x14) (h20 : a ≠ pageNo k i * 0x1000 + 0x20)
    (ha : a ≠ pageNo .host 0 * 0x1000 + 0xC00) : (s.evSet k i b).rg a = s.rg a := by
  cases hb : bit (s.pg k i 0x14) b with
  | true => rw [State.evSet_again hb]; exact State.rg_setRg_ne c _ h20
  | false => rw [State.rg_evSet_first c hb ha]; exact State.rg_setRg_ne c _ h14

/-- A first event is not counted. -/
theorem State.rg_evSet_over (c : s.Canon) (hb : bit (s.pg k i 0x14) b = false) :
    (s.evSet k i b).rg (pageNo k i * 0x1000 + 0x20) = s.rg (pageNo k i * 0x1000 + 0x20) := by
  rw [State.rg_evSet_first c hb (by omega)]
  exact State.rg_setRg_ne c _ (by omega)

/-- A further one is counted with its number. -/
theorem State.pg_evSet_over (c : s.Canon) (hb : bit (s.pg k i 0x14) b = true) (h32 : b < 32) :
    (s.evSet k i b).pg k i 0x20 = min (bits (s.pg k i 0x20) 15 0 + 1) 0xFFFF + b * 2 ^ 16 := by
  rw [State.evSet_again hb, State.pg_setPg c]
  exact Nat.mod_eq_of_lt (by omega)

theorem State.mem_evSet_again (hb : bit (s.pg k i 0x14) b = true) : (s.evSet k i b).mem = s.mem := by
  rw [State.evSet_again hb]
  rfl

theorem State.mem_evSet (hk : k ≠ .host) : (s.evSet k i b).mem = s.mem := (BusOnly.evSet hk).mem

namespace HdrOnly

theorem evSet (c : s.Canon) (k : PageKind) (i b : Nat) : HdrOnly k i s (s.evSet k i b) := by
  have h14 := setPg c k i (off := 0x14) (by decide) (by decide) (s.pg k i 0x14 + 2 ^ b)
  have c₁ := State.canon_setPg c k i 0x14 (s.pg k i 0x14 + 2 ^ b)
  unfold State.evSet
  dsimp only
  refine ite (setPg c k i (by decide) (by decide) _) ?_
  split
  case isTrue hk =>
    obtain ⟨rfl, -⟩ := hk
    refine h14.trans ⟨(Moves.fireVector _ 9).mono, fun a ha => State.rg_fireVector c₁ 9 ?_,
      fun o h1 h2 => congrArg BitVec.toNat (State.rg_fireVector c₁ 9 ?_)⟩
    · rintro rfl
      exact ha (pageNo_div .host 0 (by decide))
    · simp only [pageNo]
      omega
  case isFalse => exact h14

end HdrOnly

/-! ## The events of a mask -/

/-- Of a loop in which one turn alone does something, that turn is left. -/
theorem forN_single {β : Type} {f : Nat → β → β} (hb : b < n) (hf : ∀ j, j ≠ b → ∀ x, f j x = x) (x : β) :
    forN n x f = f b x := by
  induction n with
  | zero => exact absurd hb (Nat.not_lt_zero b)
  | succ n ih =>
    rw [forN_succ]
    by_cases hn : n = b
    · subst hn
      have hid (m : Nat) (hm : m ≤ n) : forN m x f = x := by
        induction m with
        | zero => rfl
        | succ m im => rw [forN_succ, im (by omega), hf m (by omega)]
      rw [hid n le_rfl]
    · rw [ih (by omega), hf n hn]

theorem forN_id {β : Type} {f : Nat → β → β} (hf : ∀ j, j < n → ∀ x, f j x = x) (x : β) : forN n x f = x := by
  induction n with
  | zero => rfl
  | succ n ih => rw [forN_succ, ih fun j hj => hf j (by omega), hf n (by omega)]

/-- Where only the event word of a page (and its overrun count, its log's OVERFLOW) moved: the word has the bits of `h`
beside its own. -/
structure EventsIn (k : PageKind) (i : Nat) (h : Nat → Bool) (s t : State) : Prop where
  canon : t.Canon
  only : HdrOnly k i s t
  word : ∀ j, j < 32 → (t.rg (pageNo k i * 0x1000 + 0x14)).getLsbD j =
    ((s.rg (pageNo k i * 0x1000 + 0x14)).getLsbD j || h j)
  rest : ∀ o, o < 0x1000 → o ≠ 0x14 → o ≠ 0x20 → o ≠ 0x28 → o ≠ 0xC00 →
    t.rg (pageNo k i * 0x1000 + o) = s.rg (pageNo k i * 0x1000 + o)
  log : h 0 = false → t.rg (pageNo k i * 0x1000 + 0x28) = s.rg (pageNo k i * 0x1000 + 0x28)
  mem : k ≠ .host → t.mem = s.mem

namespace EventsIn

theorem refl (c : s.Canon) : EventsIn k i (fun _ => false) s s :=
  ⟨c, .refl, fun _ _ => (Bool.or_false _).symm, fun _ _ _ _ _ _ => rfl, fun _ => rfl, fun _ => rfl⟩

theorem trans {f g : Nat → Bool} {u : State} (h : EventsIn k i f s t) (h' : EventsIn k i g t u) :
    EventsIn k i (fun j => f j || g j) s u where
  canon := h'.canon
  only := h.only.trans h'.only
  word := fun j hj => by rw [h'.word j hj, h.word j hj, Bool.or_assoc]
  rest := fun o ho h1 h2 h3 h4 => (h'.rest o ho h1 h2 h3 h4).trans (h.rest o ho h1 h2 h3 h4)
  log := fun h0 => by
    obtain ⟨hf, hg⟩ := Bool.or_eq_false_iff.mp h0
    exact (h'.log hg).trans (h.log hf)
  mem := fun hk => (h'.mem hk).trans (h.mem hk)

theorem congr {f g : Nat → Bool} (h : EventsIn k i f s t) (hfg : ∀ j, j < 32 → f j = g j) : EventsIn k i g s t where
  canon := h.canon
  only := h.only
  word := fun j hj => by rw [h.word j hj, hfg j hj]
  rest := h.rest
  log := fun h0 => h.log ((hfg 0 (by decide)).trans h0)
  mem := h.mem

theorem evSet (c : s.Canon) (k : PageKind) (i b : Nat) : EventsIn k i (fun j => decide (j = b)) s (s.evSet k i b) where
  canon := State.canon_evSet c k i b
  only := .evSet c k i b
  word := fun j hj => by rw [State.rg_evSet_word c, BitVec.getLsbD_or, getLsbD_twoPow b j hj]
  rest := fun o ho h1 h2 _ h4 => State.rg_evSet_ne c (by omega) (by omega) (by omega)
  log := fun _ => State.rg_evSet_ne c (by omega) (by omega) (by omega)
  mem := fun hk => State.mem_evSet hk

/-- A loop over the bits of a word, each turn setting the event of its bit where the word has it. -/
theorem forN {f : Nat → State → State} {h : Nat → Bool}
    (hf : ∀ j, j < 32 → ∀ x, EventsIn k i (fun b => decide (b < j) && h b) s x →
      EventsIn k i (fun b => decide (b = j) && h j) x (f j x)) (c : s.Canon) :
    EventsIn k i h s (Machine.forN 32 s f) := by
  have hpart (m : Nat) (hm : m ≤ 32) : EventsIn k i (fun b => decide (b < m) && h b) s (Machine.forN m s f) := by
    induction m with
    | zero => exact (refl c).congr fun j _ => by simp
    | succ m ih =>
      have hm' := ih (by omega)
      rw [forN_succ]
      refine (hm'.trans (hf m (by omega) _ hm')).congr fun j _ => ?_
      by_cases hjm : j = m
      · simp [hjm]
      · have hlt : j < m + 1 ↔ j < m := by omega
        simp [hjm, hlt]
  exact (hpart 32 le_rfl).congr fun j hj => by simp [hj]

end EventsIn

end Sys2Proof.Machine

end

section
/-! SUPPORT. Writes of a page's header (R33, R36 to R38), beside what hardware sets. -/
set_option Elab.async false

namespace Sys2Proof.Machine

variable {s t : State} {init n i a b off ps : Nat} {k : PageKind} {v h hw w : Word}

/-! ## Hardware sets of one cycle -/

theorem State.canon_errAgain (c : s.Canon) (k : PageKind) (i : Nat) :
    (s.errAgain k i).Canon := (Keeps.errAgain .refl).canon c

theorem State.errAgain_full (hfull : bit (s.pg k i 0x28) 31 = true) :
    s.errAgain k i = (s.setPg k i 0x28 (s.pg k i 0x28 ||| 2 ^ 30)).evSet k i 0 := if_pos hfull

/-- A further error: OVERFLOW beside the event. -/
theorem EventsIn.errAgain (c : s.Canon) (hfull : bit (s.pg k i 0x28) 31 = true) :
    EventsIn k i (fun j => decide (j = 0)) s (s.errAgain k i) := by
  have c₁ := State.canon_setPg c k i 0x28 (s.pg k i 0x28 ||| 2 ^ 30)
  have he := EventsIn.evSet c₁ k i 0
  have hrg (o : Nat) (ho : o < 0x1000) (hne : o ≠ 0x28) :
      (s.setPg k i 0x28 (s.pg k i 0x28 ||| 2 ^ 30)).rg (pageNo k i * 0x1000 + o) = s.rg (pageNo k i * 0x1000 + o) :=
    State.rg_setRg_ne c _ (by omega)
  rw [State.errAgain_full hfull]
  exact {
    canon := he.canon
    only := (HdrOnly.setPg c k i (by decide) (by decide) _).trans he.only
    word := fun j hj => by rw [he.word j hj, hrg 0x14 (by decide) (by decide)]
    rest := fun o ho h1 h2 h3 h4 => (he.rest o ho h1 h2 h3 h4).trans (hrg o ho h3)
    log := fun h0 => absurd h0 nofun
    mem := fun hk => he.mem hk }

/-- What hardware sets: the bits of its mask, ERR only where the log is full. -/
theorem EventsIn.hwSets (c : s.Canon) (hfull : h.getLsbD 0 = true → bit (s.pg k i 0x28) 31 = true) :
    EventsIn k i (fun j => h.getLsbD j) s (s.hwSets k i h.toNat) := by
  refine EventsIn.forN (fun j _ x hx => ?_) c
  rw [bit_toNat]
  split
  case isTrue hj =>
    by_cases h0 : j = 0
    · subst h0
      rw [if_pos rfl]
      have hlog : x.pg k i 0x28 = s.pg k i 0x28 := congrArg BitVec.toNat (hx.log rfl)
      exact (EventsIn.errAgain hx.canon (hlog ▸ hfull hj)).congr fun b _ => by rw [hj, Bool.and_true]
    · rw [if_neg h0]
      exact (EventsIn.evSet hx.canon k i j).congr fun b _ => by rw [hj, Bool.and_true]
  case isFalse hj =>
    exact (EventsIn.refl hx.canon).congr fun b _ => by rw [Bool.eq_false_iff.mpr hj, Bool.and_false]

theorem State.hwSets_zero (s : State) (k : PageKind) (i : Nat) : s.hwSets k i (0 : Word).toNat = s := by
  refine forN_id (fun j _ x => if_neg ?_) s
  simp [bit_eq_testBit]

/-- A mask of one bit. -/
theorem State.hwSets_one (s : State) (k : PageKind) (i : Nat) (hb : b < 32) :
    s.hwSets k i (BitVec.ofNat 32 (2 ^ b)).toNat = if b = 0 then s.errAgain k i else s.evSet k i b := by
  have hbit (j : Nat) (hj : j < 32) : bit (BitVec.ofNat 32 (2 ^ b)).toNat j = decide (j = b) := by
    rw [bit_toNat, getLsbD_twoPow b j hj]
  refine (forN_congr_lt (g := fun j s => if j = b then (if j = 0 then s.errAgain k i else s.evSet k i j) else s) 32 s
    fun j hj x => ?_).trans ((forN_single hb (fun j hj x => if_neg hj) s).trans (if_pos rfl))
  rw [hbit j hj]
  simp only [decide_eq_true_eq]

/-- OVERFLOW of the log stands once hardware has set ERR over a full log. -/
theorem State.hwSets_overflow (c : s.Canon) (h0 : h.getLsbD 0 = true) (hfull : bit (s.pg k i 0x28) 31 = true) :
    bit ((s.hwSets k i h.toNat).pg k i 0x28) 30 = true := by
  have hpart (m : Nat) : (forN (m + 1) s fun b s =>
        if bit h.toNat b then (if b = 0 then s.errAgain k i else s.evSet k i b) else s).Canon ∧
      bit ((forN (m + 1) s fun b s =>
        if bit h.toNat b then (if b = 0 then s.errAgain k i else s.evSet k i b) else s).pg k i 0x28) 30 = true := by
    induction m with
    | zero =>
      have c₁ := State.canon_setPg c k i 0x28 (s.pg k i 0x28 ||| 2 ^ 30)
      rw [forN_succ, if_pos (by rw [bit_toNat, h0]), if_pos rfl, show forN 0 s _ = s from rfl,
        State.errAgain_full hfull]
      refine ⟨State.canon_evSet c₁ k i 0, ?_⟩
      rw [State.pg, State.rg_evSet_ne c₁ (by omega) (by omega) (by omega), ← State.pg, State.pg_setPg c,
        bit_mod_word _ (by decide), bit_eq_testBit, Nat.testBit_or, Nat.testBit_two_pow_self, Bool.or_true]
    | succ m ih =>
      obtain ⟨cx, hx⟩ := ih
      rw [forN_succ]
      split
      · rw [if_neg (Nat.succ_ne_zero m)]
        refine ⟨State.canon_evSet cx k i _, ?_⟩
        rwa [State.pg, State.rg_evSet_ne cx (by omega) (by omega) (by omega), ← State.pg]
      · exact ⟨cx, hx⟩
  exact (hpart 31).2

/-! ## Registers that are cleared -/

/-- Registers of a page set to 0. -/
def State.zeroPgs (s : State) (k : PageKind) (i : Nat) (l : List Nat) : State := l.foldl (fun s o => s.setPg k i o 0) s

theorem State.zeroPgs_rg (c : s.Canon) (k : PageKind) (i : Nat) (l : List Nat) :
    (s.zeroPgs k i l).Canon ∧ BusOnly s (s.zeroPgs k i l) ∧
      ∀ a, (s.zeroPgs k i l).rg a = if (∃ o ∈ l, a = pageNo k i * 0x1000 + o) then 0 else s.rg a := by
  induction l generalizing s with
  | nil => exact ⟨c, .refl, fun a => (if_neg (by simp)).symm⟩
  | cons o l ih =>
    obtain ⟨cz, hz, hrg⟩ := ih (State.canon_setPg c k i o 0)
    refine ⟨cz, BusOnly.setPg.trans hz, fun a => (hrg a).trans ?_⟩
    by_cases hl : ∃ o ∈ l, a = pageNo k i * 0x1000 + o
    · obtain ⟨o', ho', ha⟩ := hl
      rw [if_pos ⟨o', ho', ha⟩, if_pos ⟨o', List.mem_cons_of_mem _ ho', ha⟩]
    · rw [if_neg hl]
      by_cases ha : a = pageNo k i * 0x1000 + o
      · rw [if_pos ⟨o, List.mem_cons_self, ha⟩, ha]
        exact State.rg_setRg c _ _
      · rw [if_neg fun ⟨o', ho', ha'⟩ => (List.mem_cons.mp ho').elim
          (fun he => ha (he ▸ ha')) fun hin => hl ⟨o', hin, ha'⟩]
        exact State.rg_setRg_ne c _ ha

/-- The error log of a page. -/
def logRegs : List Nat := [0x28, 0x2C, 0x30, 0x34]

/-- The event word with the bits of `w` cleared, and with ERR the log. -/
def State.evtCleared (s : State) (k : PageKind) (i : Nat) (w : Word) : State :=
  let x := s.setPg k i 0x14 (w32 (s.pg k i 0x14) &&& ~~~w).toNat
  if w.getLsbD 0 then x.zeroPgs k i logRegs else x

theorem State.clearEvt_eq (s : State) (k : PageKind) (i : Nat) (w : Word) :
    s.clearEvt k i w = if k = .pyro then
      (let y := if w.getLsbD 2 then (s.evtCleared k i w).setHealth
          { (s.evtCleared k i w).health with fail := tput (0, 0, 0) (s.evtCleared k i w).health.fail i (0, 0, 0) }
        else s.evtCleared k i w
      if w.getLsbD 16 then y.setPg .pyro i 0x860 0 else y) else s.evtCleared k i w := rfl

/-- What a clear of events does to the registers: the word, the log under ERR,
  and under bit 16 of a PYRO page the alerts. -/
theorem State.evtCleared_rg (c : s.Canon) (k : PageKind) (i : Nat) (w : Word) :
    (s.evtCleared k i w).Canon ∧ BusOnly s (s.evtCleared k i w) ∧
      (s.evtCleared k i w).rg (pageNo k i * 0x1000 + 0x14) = s.rg (pageNo k i * 0x1000 + 0x14) &&& ~~~w ∧
      (w.getLsbD 0 = true → ∀ o ∈ logRegs, (s.evtCleared k i w).rg (pageNo k i * 0x1000 + o) = 0) ∧
      ∀ a, a ≠ pageNo k i * 0x1000 + 0x14 →
        (w.getLsbD 0 = false ∨ ∀ o ∈ logRegs, a ≠ pageNo k i * 0x1000 + o) → (s.evtCleared k i w).rg a = s.rg a := by
  have hne (a : Nat) (ha : a ≠ pageNo k i * 0x1000 + 0x14) :
      (s.setPg k i 0x14 (w32 (s.pg k i 0x14) &&& ~~~w).toNat).rg a = s.rg a := State.rg_setRg_ne c _ ha
  have h14 : (s.setPg k i 0x14 (w32 (s.pg k i 0x14) &&& ~~~w).toNat).rg (pageNo k i * 0x1000 + 0x14) =
      s.rg (pageNo k i * 0x1000 + 0x14) &&& ~~~w := by
    rw [State.setPg, State.rg_setRg c, w32_toNat, w32_pg]
  have c₁ := State.canon_setPg c k i 0x14 (w32 (s.pg k i 0x14) &&& ~~~w).toNat
  unfold State.evtCleared
  dsimp only
  cases h0 : w.getLsbD 0 with
  | false => exact ⟨c₁, .setPg, h14, nofun, fun a ha _ => hne a ha⟩
  | true =>
    obtain ⟨cz, hz, hrg⟩ := State.zeroPgs_rg c₁ k i logRegs
    rw [if_pos rfl]
    refine ⟨cz, BusOnly.setPg.trans hz, ?_, fun _ o ho => (hrg _).trans (if_pos ⟨o, ho, rfl⟩), fun a ha hl => ?_⟩
    · rw [hrg, if_neg ?_, h14]
      rintro ⟨o, ho, hp⟩
      obtain rfl : o = 0x14 := by omega
      exact absurd ho (by decide)
    · rw [hrg, if_neg fun ⟨o, ho, hp⟩ => hl.elim nofun fun h => h o ho hp, hne a ha]

/-- A clear of events, beside what `evtCleared` does, moves the records of a PYRO page. -/
theorem State.clearEvt_frame (c : s.Canon) (w : Word) :
    (s.clearEvt k i w).Canon ∧ HdrOnly k i s (s.clearEvt k i w) ∧ (s.clearEvt k i w).mem = s.mem ∧
      ∀ a, (k ≠ .pyro ∨ w.getLsbD 16 = false ∨ a ≠ pageNo k i * 0x1000 + 0x860) →
        (s.clearEvt k i w).rg a = (s.evtCleared k i w).rg a := by
  obtain ⟨cx, hx, -, -, hne⟩ := State.evtCleared_rg c k i w
  have hlog (a : Nat) (h : ∀ o, o < 0x40 → a ≠ pageNo k i * 0x1000 + o) : (s.evtCleared k i w).rg a = s.rg a :=
    hne a (h _ (by decide)) (.inr fun o ho => h o (by
      simp only [logRegs, List.mem_cons, List.not_mem_nil, or_false] at ho
      omega))
  have hbase : HdrOnly k i s (s.evtCleared k i w) :=
    ⟨(Moves.ofBusOnly hx).mono, fun a ha => hlog a fun o ho he => ha (he ▸ pageNo_div k i (by omega)),
      fun o h1 h2 => congrArg BitVec.toNat (hlog _ fun o' ho' => by omega)⟩
  rw [State.clearEvt_eq]
  generalize s.evtCleared k i w = x at cx hx hbase
  by_cases hk : k = .pyro
  · subst hk
    rw [if_pos rfl]
    have hh (q : Health) : (x.setHealth q).Canon ∧ HdrOnly .pyro i x (x.setHealth q) ∧ (x.setHealth q).mem = x.mem ∧
        ∀ a, (x.setHealth q).rg a = x.rg a := by
      refine ⟨{ cx with }, ⟨(?_ : Moves [.health] x (x.setHealth q)).mono, fun _ _ => rfl, fun _ _ _ => rfl⟩, rfl,
        fun _ => rfl⟩
      intro f hf
      cases f with
      | health => exact absurd List.mem_cons_self hf
      | _ => rfl
    obtain ⟨y, hy, cy, hxy, hmem, hrg⟩ : ∃ y, (y = if w.getLsbD 2 then x.setHealth
        { x.health with fail := tput (0, 0, 0) x.health.fail i (0, 0, 0) } else x) ∧ y.Canon ∧
        HdrOnly .pyro i x y ∧ y.mem = x.mem ∧ ∀ a, y.rg a = x.rg a := by
      refine ⟨_, rfl, ?_⟩
      split
      · exact hh _
      · exact ⟨cx, .refl, rfl, fun _ => rfl⟩
    rw [← hy]
    dsimp only
    split
    case isTrue h16 =>
      refine ⟨State.canon_setPg cy .., (hbase.trans hxy).trans (.setPg cy .pyro i (by decide) (by decide) 0),
        hmem.trans hx.mem, fun a ha => ?_⟩
      obtain h | h | h := ha
      · exact absurd rfl h
      · exact absurd (h16.symm.trans h) nofun
      · exact (State.rg_setRg_ne cy _ h).trans (hrg a)
    case isFalse => exact ⟨cy, hbase.trans hxy, hmem.trans hx.mem, fun a _ => hrg a⟩
  · rw [if_neg hk]
    exact ⟨cx, hbase, hx.mem, fun _ _ => rfl⟩

/-! ## Alerts -/

theorem State.alerts_frame (c : s.Canon) (set : Bool) (ps : Nat) :
    (s.alerts k i set ps).Canon ∧ HdrOnly k i s (s.alerts k i set ps) ∧ (s.alerts k i set ps).mem = s.mem ∧
      (∀ a, a ≠ pageNo k i * 0x1000 + 0x860 → (s.alerts k i set ps).rg a = s.rg a) ∧
      (k = .pyro → set = true → (s.alerts k i set ps).pg k i 0x860 = s.pg k i 0x860 ||| ps % 256) := by
  unfold State.alerts
  split
  case isTrue h =>
    obtain ⟨rfl, hset⟩ := h
    refine ⟨State.canon_setPg c .., .setPg c _ _ (by decide) (by decide) _, rfl, fun a ha => State.rg_setRg_ne c _ ha,
      fun _ _ => (State.pg_setPg c ..).trans (Nat.mod_eq_of_lt ?_)⟩
    exact Nat.or_lt_two_pow (State.pg_lt s _ _ _) (by omega)
  case isFalse h =>
    exact ⟨c, .refl, rfl, fun _ _ => rfl, fun hk hset => absurd ⟨hk, hset⟩ h⟩

/-! ## The word of a header write -/

section
variable (hr : Stated.Reaches s init)
include hr

theorem writeReg_evt : s.writeReg init k i 0x14 v = (s.clearEvt k i v, 0) := by
  unfold State.writeReg
  rw [State.safeBars_of_ready hr.2.1, if_neg nofun, if_neg (by decide), if_neg (by omega)] <;> rfl

theorem writeReg_evtSet : s.writeReg init k i 0x1C v = (s.forceEvt k i v.toNat, 0) := by
  unfold State.writeReg
  rw [State.safeBars_of_ready hr.2.1, if_neg nofun, if_neg (by decide), if_neg (by omega)] <;> rfl

omit hr in
theorem notLocked_of_free (hfree : 10 ≤ init ∨ s.ownerLock k i = false) :
    (decide (init ≤ 1) && s.ownerLock k i) = false := by
  obtain hi | hl := hfree
  · rw [decide_eq_false (by omega), Bool.false_and]
  · rw [hl, Bool.and_false]

theorem writeReg_evtEn (hfree : 10 ≤ init ∨ s.ownerLock k i = false) :
    s.writeReg init k i 0x18 v = (s.writeEvtEn k i v, 0) := by
  unfold State.writeReg
  rw [State.safeBars_of_ready hr.2.1, if_neg nofun, if_neg (by decide), notLocked_of_free hfree, if_neg (by simp)] <;>
    rfl

theorem writeReg_ctrl : s.writeReg init k i 0x0C v =
    s.writeCtrl init k i v.toNat (decide (init ≤ 1) && s.ownerLock k i) := by
  unfold State.writeReg
  rw [State.safeBars_of_ready hr.2.1, if_neg nofun, if_pos rfl]

/-- The words of a header write beside hardware's sets. -/
theorem hdrRace_eq {m : Nat} {arg : Word → Word} {x : HdrWrite} (hpg : pageOf n = some (k, i))
    (hg : s.gated k i = false)
    (hoff : off < 0x1000) (hal : off % 4 = 0) (hh : s.hwBits k i (x.hw &&& w32 (evtMask k)) = h)
    (hw : s.writeReg init k i off (arg h) = (t, m))
    (hq : ((t.hwSets k i h.toNat).alerts k i (h.getLsbD 16) x.parts).NothingToTake) :
    s.hdrRace init n off arg x = .next ((t.hwSets k i h.toNat).alerts k i (h.getLsbD 16) x.parts) := by
  obtain ⟨hno, hpage⟩ := pageNo_of_pageOf hpg
  have hword : ((arg h).zeroExtend 64).truncate 32 = arg h := by simp
  have hwrite : s.writeAccess init (n * 0x1000 + off) 4 ((arg h).zeroExtend 64) = t := by
    refine writeAccess_word hr (m := m) ?_
    rw [hword, ← hno, regWrite_of_reaches hr hpage hoff hal hg, hw]
  unfold State.hdrRace
  rw [hpg]
  dsimp only
  rw [hg, if_neg nofun, hh, hwrite, State.serve_of_nothingToTake hq]

theorem hdrWrite_eq {m : Nat} (hpg : pageOf n = some (k, i)) (hg : s.gated k i = false)
    (hoff : off < 0x1000) (hal : off % 4 = 0) (hw : s.writeReg init k i off v = (t, m)) (hq : t.NothingToTake) :
    s.hdrWrite init n off v = .next t := by
  obtain ⟨rfl, hpage⟩ := pageNo_of_pageOf hpg
  exact State.pageWrite_eq hr hpage hoff hal hg hw hq

end

/-! ## BLK_EVT -/

/-- The word of a clear of `v` beside sets of `h`: what hardware sets is not cleared. -/
theorem getLsbD_clear (e v h : Word) {j : Nat} (hj : j < 32) :
    ((e &&& ~~~(v &&& ~~~h)).getLsbD j || h.getLsbD j) = ((e &&& ~~~v) ||| h).getLsbD j := by
  simp only [BitVec.getLsbD_and, BitVec.getLsbD_or, BitVec.getLsbD_not, decide_eq_true hj, Bool.true_and]
  cases e.getLsbD j <;> cases v.getLsbD j <;> cases h.getLsbD j <;> rfl

theorem hwBits_full (hh : s.hwBits k i w = h) (h0 : h.getLsbD 0 = true) : bit (s.pg k i 0x28) 31 = true := by
  unfold State.hwBits at hh
  split at hh
  case isTrue hf => exact hf
  case isFalse =>
    rw [← hh] at h0
    simp at h0

/-- What is counted of a set that hardware makes of one bit that is 1. -/
theorem counted_hwSets (c : s.Canon) (hb : b < 32) (hset : bit (s.pg k i 0x14) b = true)
    (hfull : b = 0 → bit (s.pg k i 0x28) 31 = true) :
    (s.hwSets k i (BitVec.ofNat 32 (2 ^ b)).toNat).pg k i 0x20 =
      min (bits (s.pg k i 0x20) 15 0 + 1) 0xFFFF + b * 2 ^ 16 := by
  rw [State.hwSets_one s k i hb]
  split
  case isTrue h0 =>
    have c₁ := State.canon_setPg c k i 0x28 (s.pg k i 0x28 ||| 2 ^ 30)
    have hne (o : Nat) (ho : o < 0x1000) (h28 : o ≠ 0x28) :
        (s.setPg k i 0x28 (s.pg k i 0x28 ||| 2 ^ 30)).pg k i o = s.pg k i o := State.pg_setPg_ne c _ (by omega)
    subst h0
    rw [State.errAgain_full (hfull rfl),
      State.pg_evSet_over c₁ ((congrArg (bit · 0) (hne 0x14 (by decide) (by decide))).trans hset) hb,
      hne 0x20 (by decide) (by decide)]
  case isFalse => exact State.pg_evSet_over c hset hb

/-- The header of a page once the bits of `v` are cleared and hardware has set those of `h` beside it. -/
structure ClearedBeside (k : PageKind) (i : Nat) (v h : Word) (s t : State) : Prop where
  canon : t.Canon
  only : HdrOnly k i s t
  mem : k ≠ .host ∨ h = 0 → t.mem = s.mem
  word : t.rg (pageNo k i * 0x1000 + 0x14) = (s.rg (pageNo k i * 0x1000 + 0x14) &&& ~~~v) ||| h
  uncounted : h = 0 → t.rg (pageNo k i * 0x1000 + 0x20) = s.rg (pageNo k i * 0x1000 + 0x20)
  counted : ∀ b, h = BitVec.ofNat 32 (2 ^ b) → b < 32 → (s.rg (pageNo k i * 0x1000 + 0x14)).getLsbD b = true →
    t.pg k i 0x20 = min (bits (s.pg k i 0x20) 15 0 + 1) 0xFFFF + b * 2 ^ 16
  emptied : v.getLsbD 0 = true → h.getLsbD 0 = false → ∀ o ∈ logRegs, t.rg (pageNo k i * 0x1000 + o) = 0
  overflow : h.getLsbD 0 = true → bit (t.pg k i 0x28) 30 = true
  kept : h.getLsbD 0 = true → ∀ o ∈ [0x2C, 0x30, 0x34], t.rg (pageNo k i * 0x1000 + o) = s.rg (pageNo k i * 0x1000 + o)
  alerts : h.getLsbD 16 = true → t.rg (pageNo k i * 0x1000 + 0x860) = s.rg (pageNo k i * 0x1000 + 0x860)

theorem logRegs_lt : ∀ o ∈ logRegs, 0x28 ≤ o ∧ o < 0x38 := by decide

/-- A clear of what hardware does not set. -/
theorem State.clearEvt_beside (c : s.Canon) (k : PageKind) (i : Nat) (v h : Word) {x : State}
    (hx : s.clearEvt k i (v &&& ~~~h) = x) :
    x.Canon ∧ HdrOnly k i s x ∧ x.mem = s.mem ∧
      x.rg (pageNo k i * 0x1000 + 0x14) = s.rg (pageNo k i * 0x1000 + 0x14) &&& ~~~(v &&& ~~~h) ∧
      x.rg (pageNo k i * 0x1000 + 0x20) = s.rg (pageNo k i * 0x1000 + 0x20) ∧
      (v.getLsbD 0 = true → h.getLsbD 0 = false → ∀ o ∈ logRegs, x.rg (pageNo k i * 0x1000 + o) = 0) ∧
      (h.getLsbD 0 = true → ∀ o ∈ logRegs, x.rg (pageNo k i * 0x1000 + o) = s.rg (pageNo k i * 0x1000 + o)) ∧
      (h.getLsbD 16 = true → x.rg (pageNo k i * 0x1000 + 0x860) = s.rg (pageNo k i * 0x1000 + 0x860)) := by
  obtain ⟨cx, honly, hmem, hrg⟩ := State.clearEvt_frame (k := k) (i := i) c (v &&& ~~~h)
  obtain ⟨-, -, hword, hzero, hne⟩ := State.evtCleared_rg c k i (v &&& ~~~h)
  have hlow (o : Nat) (ho : o < 0x860) : (s.clearEvt k i (v &&& ~~~h)).rg (pageNo k i * 0x1000 + o) =
      (s.evtCleared k i (v &&& ~~~h)).rg (pageNo k i * 0x1000 + o) := hrg _ (.inr (.inr (by omega)))
  have hout (o : Nat) (h1 : o ≠ 0x14) (h2 : o < 0x28 ∨ 0x38 ≤ o) :
      (s.evtCleared k i (v &&& ~~~h)).rg (pageNo k i * 0x1000 + o) = s.rg (pageNo k i * 0x1000 + o) :=
    hne _ (by omega) (.inr fun o' ho' => by
      have := logRegs_lt o' ho'
      omega)
  rw [hx] at cx honly hmem hrg hlow
  refine ⟨cx, honly, hmem, (hlow _ (by decide)).trans hword,
    (hlow _ (by decide)).trans (hout _ (by decide) (.inl (by decide))),
    fun hv0 hh0 o ho => ?_, fun h0 o ho => ?_, fun h16 => ?_⟩
  · have hl := logRegs_lt o ho
    refine (hlow o (by omega)).trans (hzero ?_ o ho)
    rw [BitVec.getLsbD_and, BitVec.getLsbD_not, hv0, hh0]
    rfl
  · have hl := logRegs_lt o ho
    refine (hlow o (by omega)).trans (hne _ (by omega) (.inl ?_))
    rw [BitVec.getLsbD_and, BitVec.getLsbD_not, h0]
    simp
  · refine (hrg _ (.inr (.inl ?_))).trans (hout _ (by decide) (.inr (by decide)))
    rw [BitVec.getLsbD_and, BitVec.getLsbD_not, h16]
    simp

/-- The sets of hardware beside it. -/
theorem State.hwSets_beside (c : s.Canon) (hfull : h.getLsbD 0 = true → bit (s.pg k i 0x28) 31 = true) :
    ClearedBeside k i v h s ((s.clearEvt k i (v &&& ~~~h)).hwSets k i h.toNat) := by
  obtain ⟨x, hx⟩ : ∃ x, s.clearEvt k i (v &&& ~~~h) = x := ⟨_, rfl⟩
  obtain ⟨cx, honly, hmem, hword, hover, hzero, hlog, hpyro⟩ := State.clearEvt_beside c k i v h hx
  rw [hx]
  have hfull (h0 : h.getLsbD 0 = true) : bit (x.pg k i 0x28) 31 = true := by
    rw [State.pg, hlog h0 0x28 (by decide)]
    exact hfull h0
  have hev := EventsIn.hwSets cx hfull
  have hrest (o : Nat) (ho : 0x28 < o ∧ o < 0xC00) :
      (x.hwSets k i h.toNat).rg (pageNo k i * 0x1000 + o) = x.rg (pageNo k i * 0x1000 + o) :=
    hev.rest o (by omega) (by omega) (by omega) (by omega) (by omega)
  have hsame (h0 : h = 0) : x.hwSets k i h.toNat = x := h0 ▸ State.hwSets_zero x k i
  refine ⟨hev.canon, honly.trans hev.only, ?_, BitVec.eq_of_getLsbD_eq fun j hj => ?_, fun h0 => ?_,
    fun b he hb hset => ?_,
    fun hv0 hh0 o ho => ?_, fun h0 => State.hwSets_overflow cx h0 (hfull h0), fun h0 o ho => ?_, fun h16 => ?_⟩
  · rintro (hk | h0)
    · exact (hev.mem hk).trans hmem
    · exact (congrArg State.mem (hsame h0)).trans hmem
  · rw [hev.word j hj, hword, getLsbD_clear _ _ _ hj]
  · rw [hsame h0, hover]
  · have hhb : h.getLsbD b = true := by rw [he, getLsbD_twoPow b b hb, decide_eq_true rfl]
    have hxset : bit (x.pg k i 0x14) b = true := by
      rw [State.pg, bit_toNat, hword]
      simp [hset, hhb, hb]
    rw [he] at hfull ⊢
    rw [counted_hwSets cx hb hxset fun h0 => hfull (by rw [h0]; decide)]
    exact congrArg (fun c => min (bits c 15 0 + 1) 0xFFFF + b * 2 ^ 16) (congrArg BitVec.toNat hover)
  · have hl := logRegs_lt o ho
    by_cases h28 : o = 0x28
    · rw [h28, hev.log hh0, hzero hv0 hh0 0x28 (by decide)]
    · exact (hrest o (by omega)).trans (hzero hv0 hh0 o ho)
  · have hmem : o ∈ logRegs := List.mem_cons_of_mem _ ho
    have hl : 0x28 < o := by
      simp only [List.mem_cons, List.not_mem_nil, or_false] at ho
      omega
    exact (hrest o ⟨hl, by have := logRegs_lt o hmem; omega⟩).trans (hlog h0 o hmem)
  · exact (hrest 0x860 (by decide)).trans (hpyro h16)

section
variable (hr : Stated.Reaches s init) (hq : s.NothingToTake) (hpg : pageOf n = some (k, i)) (hg : s.gated k i = false)
  (hh : s.hwBits k i (hw &&& w32 (evtMask k)) = h)
include hr hq hpg hg hh

theorem blkEvtClear_acts : ∃ t, exec (.blkEvtClear init n ⟨v, hw, ps⟩) s = .next t ∧
    (k ≠ .host ∨ h = 0 → t.mem = s.mem) ∧
      t.rg (n * 0x1000 + 0x14) = (s.rg (n * 0x1000 + 0x14) &&& ~~~v) ||| h ∧
      (h = 0 → t.rg (n * 0x1000 + 0x20) = s.rg (n * 0x1000 + 0x20)) ∧
      (∀ b, h = BitVec.ofNat 32 (2 ^ b) → b < 32 → (s.rg (n * 0x1000 + 0x14)).getLsbD b = true →
        t.pg k i 0x20 = min (bits (s.pg k i 0x20) 15 0 + 1) 0xFFFF + b * 2 ^ 16) ∧
      (v.getLsbD 0 = true → h.getLsbD 0 = false → t.rg (n * 0x1000 + 0x28) = 0 ∧ t.rg (n * 0x1000 + 0x2C) = 0 ∧
        t.rg (n * 0x1000 + 0x30) = 0 ∧ t.rg (n * 0x1000 + 0x34) = 0) ∧
      (h.getLsbD 0 = true → bit (t.pg k i 0x28) 30 = true ∧ t.rg (n * 0x1000 + 0x2C) = s.rg (n * 0x1000 + 0x2C) ∧
        t.rg (n * 0x1000 + 0x30) = s.rg (n * 0x1000 + 0x30) ∧ t.rg (n * 0x1000 + 0x34) = s.rg (n * 0x1000 + 0x34)) ∧
      (k = .pyro → h.getLsbD 16 = true → t.pg k i 0x860 = s.pg k i 0x860 ||| ps % 256) := by
  obtain ⟨rfl, hpage⟩ := pageNo_of_pageOf hpg
  have hb := State.hwSets_beside (v := v) hr.1 (hwBits_full hh)
  have hex : (((s.clearEvt k i (v &&& ~~~h)).hwSets k i h.toNat).alerts k i (h.getLsbD 16) ps).NothingToTake →
      exec (.blkEvtClear init (pageNo k i) ⟨v, hw, ps⟩) s =
        .next (((s.clearEvt k i (v &&& ~~~h)).hwSets k i h.toNat).alerts k i (h.getLsbD 16) ps) :=
    hdrRace_eq hr (x := ⟨v, hw, ps⟩) (arg := fun h => v &&& ~~~h) hpg hg (by decide) (by decide) hh (writeReg_evt hr)
  generalize (s.clearEvt k i (v &&& ~~~h)).hwSets k i h.toNat = y at hb hex
  obtain ⟨-, hto, htm, htr, htp⟩ := State.alerts_frame (k := k) (i := i) hb.canon (h.getLsbD 16) ps
  have htrg (o : Nat) (ho : o < 0x860) : (y.alerts k i (h.getLsbD 16) ps).rg (pageNo k i * 0x1000 + o) =
      y.rg (pageNo k i * 0x1000 + o) := htr _ (by omega)
  refine ⟨_, hex ((hb.only.trans hto).nothingToTake hpage hq), fun hk => htm.trans (hb.mem hk),
    (htrg _ (by decide)).trans hb.word, fun h0 => (htrg _ (by decide)).trans (hb.uncounted h0),
    fun b he hlt hset => (congrArg BitVec.toNat (htrg _ (by decide))).trans (hb.counted b he hlt hset),
    fun hv0 hh0 => ?_, fun h0 => ?_, fun hk h16 => ?_⟩
  · have hz := hb.emptied hv0 hh0
    exact ⟨(htrg _ (by decide)).trans (hz _ (by decide)), (htrg _ (by decide)).trans (hz _ (by decide)),
      (htrg _ (by decide)).trans (hz _ (by decide)), (htrg _ (by decide)).trans (hz _ (by decide))⟩
  · have hkept := hb.kept h0
    refine ⟨?_, (htrg _ (by decide)).trans (hkept _ (by decide)), (htrg _ (by decide)).trans (hkept _ (by decide)),
      (htrg _ (by decide)).trans (hkept _ (by decide))⟩
    rw [State.pg, htrg _ (by decide)]
    exact hb.overflow h0
  · rw [htp hk h16]
    exact congrArg (· ||| ps % 256) (congrArg BitVec.toNat (hb.alerts h16))

end

end Sys2Proof.Machine

end

section
/-! SUPPORT. Forced events, BLK_EVT_EN and BLK_CTRL (R33, R36, R37). -/
set_option Elab.async false

namespace Sys2Proof.Machine

variable {s t : State} {init n i a b off ps u q : Nat} {k : PageKind} {v h hw w : Word}

/-! ## Forced sets -/

/-- The kinds of page whose forced events act. -/
def forcedKinds : List PageKind := [.mould, .cruc, .fum, .clk]

theorem State.handleEvt_calm (s : State) (hk : k ∉ forcedKinds) (i b : Nat) : s.handleEvt k i b = s := by
  cases k
  case mould | cruc | fum | clk => exact absurd (by decide) hk
  all_goals rfl

/-- No event that is forced is enabled, or none acts. -/
def State.calm (s : State) (k : PageKind) (i : Nat) (v : Word) : Prop :=
  v &&& s.rg (pageNo k i * 0x1000 + 0x18) = 0 ∨ k ∉ forcedKinds

theorem State.calm_bit (h : s.calm k i v) (hv : v.getLsbD b = true) :
    bit (s.pg k i 0x18) b = false ∨ k ∉ forcedKinds := by
  refine h.imp_left fun h0 => ?_
  have hb := congrArg (BitVec.getLsbD · b) h0
  simp only [BitVec.getLsbD_and, hv, Bool.true_and] at hb
  rw [State.pg, bit_toNat, hb]
  exact BitVec.getLsbD_zero

theorem State.calm_clear (h : s.calm k i v) (w : Word) : s.calm k i (v &&& ~~~w) := by
  refine h.imp_left fun h0 => BitVec.eq_of_getLsbD_eq fun j hj => ?_
  have hb := congrArg (BitVec.getLsbD · j) h0
  simp only [BitVec.getLsbD_and] at hb ⊢
  rw [Bool.and_right_comm, hb]
  simp

/-- A calm forced set of one bit. -/
theorem State.forced_calm (h : s.calm k i v) (hv : v.getLsbD b = true) :
    (if bit (s.pg k i 0x18) b then (s.evSet k i b).handleEvt k i b else s.evSet k i b) = s.evSet k i b := by
  obtain hen | hk := State.calm_bit h hv
  · rw [hen]
    exact if_neg nofun
  · rw [State.handleEvt_calm _ hk, ite_self]

theorem EventsIn.forceEvt (c : s.Canon) (hcalm : s.calm k i v) :
    EventsIn k i (fun j => v.getLsbD j && bit (evtMask k) j) s (s.forceEvt k i v.toNat) := by
  refine EventsIn.forN (fun j _ x hx => ?_) c
  have hcx : x.calm k i v := by
    rw [State.calm, hx.rest 0x18 (by decide) (by decide) (by decide) (by decide) (by decide)]
    exact hcalm
  rw [bit_toNat]
  split
  case isTrue hj =>
    rw [State.forced_calm hcx hj.1]
    exact (EventsIn.evSet hx.canon k i j).congr fun b _ => by rw [hj.1, hj.2, Bool.and_true, Bool.and_true]
  case isFalse hj =>
    have hoff : (v.getLsbD j && bit (evtMask k) j) = false := by simpa using hj
    exact (EventsIn.refl hx.canon).congr fun b _ => by rw [hoff, Bool.and_false]

theorem State.forceEvt_zero (s : State) (k : PageKind) (i : Nat) : s.forceEvt k i (0 : Word).toNat = s :=
  forN_id (fun j _ x => if_neg (by simp [bit_eq_testBit])) s

/-- A forced set of one bit is the turn of that bit. -/
theorem State.forceEvt_one (hb : b < 32) (hm : bit (evtMask k) b = true) :
    s.forceEvt k i (BitVec.ofNat 32 (2 ^ b)).toNat =
      if bit (s.pg k i 0x18) b then (s.evSet k i b).handleEvt k i b else s.evSet k i b := by
  have hbit (j : Nat) (hj : j < 32) : bit (BitVec.ofNat 32 (2 ^ b)).toNat j = decide (j = b) := by
    rw [bit_toNat, getLsbD_twoPow b j hj]
  refine (forN_congr_lt (g := fun j s => if j = b ∧ bit (evtMask k) j = true then
      (if bit (s.pg k i 0x18) j then (s.evSet k i j).handleEvt k i j else s.evSet k i j) else s) 32 s
    fun j hj x => ?_).trans ((forN_single hb (fun j hj x => if_neg fun h => hj h.1) s).trans (if_pos ⟨rfl, hm⟩))
  rw [hbit j hj]
  simp only [decide_eq_true_eq]

theorem lt_of_evtMask (hm : bit (evtMask k) b = true) : b < 32 := by
  by_contra hb
  have hlt : evtMask k < 2 ^ b :=
    lt_of_lt_of_le (by cases k <;> decide : evtMask k < 2 ^ 32) (Nat.pow_le_pow_right (by decide) (by omega))
  rw [bit_eq_testBit, Nat.testBit_lt_two_pow hlt] at hm
  exact absurd hm nofun

theorem getLsbD_not_one {j : Nat} (hj : j < 32) (h0 : 0 < j) : (~~~(1 : Word)).getLsbD j = true := by
  have hone : (1 : Word).getLsbD j = false := (getLsbD_twoPow 0 j hj).trans (decide_eq_false (by omega))
  rw [BitVec.getLsbD_not, decide_eq_true hj, hone]
  rfl

/-- Hardware sets a bit of the page's events that it is given. -/
theorem State.hwBits_one (h0 : 0 < b) (hm : bit (evtMask k) b = true) :
    s.hwBits k i (BitVec.ofNat 32 (2 ^ b) &&& w32 (evtMask k)) = BitVec.ofNat 32 (2 ^ b) := by
  have hb := lt_of_evtMask hm
  have hmask : BitVec.ofNat 32 (2 ^ b) &&& w32 (evtMask k) = BitVec.ofNat 32 (2 ^ b) := by
    refine BitVec.eq_of_getLsbD_eq fun j hj => ?_
    rw [BitVec.getLsbD_and, getLsbD_twoPow b j hj]
    by_cases hjb : j = b
    · rw [hjb, w32, BitVec.getLsbD_ofNat, decide_eq_true hb, ← bit_eq_testBit, hm]
      simp
    · rw [decide_eq_false hjb, Bool.false_and]
  rw [State.hwBits, hmask]
  split
  · rfl
  · refine BitVec.eq_of_getLsbD_eq fun j hj => ?_
    rw [BitVec.getLsbD_and, getLsbD_twoPow b j hj]
    by_cases hjb : j = b
    · rw [getLsbD_not_one hj (by omega), Bool.and_true]
    · rw [decide_eq_false hjb, Bool.false_and]

theorem State.hwBits_none (s : State) (k : PageKind) (i : Nat) : s.hwBits k i (0 &&& w32 (evtMask k)) = 0 := by
  have hzero (y : Word) : (0 : Word) &&& y = 0 := BitVec.zero_and
  rw [hzero, State.hwBits, hzero, ite_self]

theorem State.alerts_none (s : State) (k : PageKind) (i ps : Nat) :
    s.alerts k i false ps = s := if_neg fun h => absurd h.2 nofun

theorem toNat_or_twoPow (hb : b < 32) (he : v.getLsbD b = false) :
    (v ||| BitVec.ofNat 32 (2 ^ b)).toNat = v.toNat + 2 ^ b := by
  rw [BitVec.toNat_or, BitVec.toNat_ofNat, Nat.mod_eq_of_lt (Nat.pow_lt_pow_right (by decide) hb)]
  refine Nat.eq_of_testBit_eq fun j => ?_
  rw [testBit_add_two_pow he, Nat.testBit_or, Nat.testBit_two_pow, decide_eq_decide.mpr (eq_comm (a := b) (b := j))]

section
variable (hr : Stated.Reaches s init) (hq : s.NothingToTake) (hpg : pageOf n = some (k, i)) (hg : s.gated k i = false)
include hr hq hpg hg

theorem blkEvtSet_sets (hh : s.hwBits k i (hw &&& w32 (evtMask k)) = h) (hcalm : s.calm k i v) :
    ∃ t, exec (.blkEvtSet init n ⟨v, hw, ps⟩) s = .next t ∧
      t.rg (n * 0x1000 + 0x14) = s.rg (n * 0x1000 + 0x14) ||| (v &&& BitVec.ofNat 32 (evtMask k)) ||| h := by
  obtain ⟨rfl, hpage⟩ := pageNo_of_pageOf hpg
  have hex : (((s.forceEvt k i (v &&& ~~~h).toNat).hwSets k i h.toNat).alerts k i (h.getLsbD 16) ps).NothingToTake →
      exec (.blkEvtSet init (pageNo k i) ⟨v, hw, ps⟩) s =
        .next (((s.forceEvt k i (v &&& ~~~h).toNat).hwSets k i h.toNat).alerts k i (h.getLsbD 16) ps) :=
    hdrRace_eq hr (x := ⟨v, hw, ps⟩) (arg := fun h => v &&& ~~~h) hpg hg (by decide) (by decide) hh (writeReg_evtSet hr)
  have hf := EventsIn.forceEvt hr.1 (State.calm_clear hcalm h)
  generalize s.forceEvt k i (v &&& ~~~h).toNat = x at hex hf
  have hfull (h0 : h.getLsbD 0 = true) : bit (x.pg k i 0x28) 31 = true := by
    rw [State.pg, hf.log (by simp [h0])]
    exact hwBits_full hh h0
  have hev := EventsIn.hwSets hf.canon hfull
  generalize x.hwSets k i h.toNat = y at hex hev
  obtain ⟨-, hto, -, htr, -⟩ := State.alerts_frame (k := k) (i := i) hev.canon (h.getLsbD 16) ps
  refine ⟨_, hex (((hf.only.trans hev.only).trans hto).nothingToTake hpage hq), ?_⟩
  refine (htr _ (by omega)).trans (BitVec.eq_of_getLsbD_eq fun j hj => ?_)
  rw [hev.word j hj, hf.word j hj]
  simp only [BitVec.getLsbD_or, BitVec.getLsbD_and, BitVec.getLsbD_not, BitVec.getLsbD_ofNat, decide_eq_true hj,
    Bool.true_and, bit_eq_testBit]
  cases h.getLsbD j <;> simp

omit hq in
/-- A forced set of one bit, with nothing beside it. -/
theorem exec_blkEvtSet_one (hb : b < 32) (hm : bit (evtMask k) b = true)
    (ht : (if bit (s.pg k i 0x18) b then (s.evSet k i b).handleEvt k i b else s.evSet k i b) = t)
      (htq : t.NothingToTake) :
    exec (.blkEvtSet init n ⟨BitVec.ofNat 32 (2 ^ b), 0, 0⟩) s = .next t := by
  have hall (y : Word) : y &&& ~~~(0 : Word) = y  := by
    rw [show ~~~(0 : Word) = BitVec.allOnes 32 from rfl, BitVec.and_allOnes]
  have hw : s.writeReg init k i 0x1C (BitVec.ofNat 32 (2 ^ b) &&& ~~~(0 : Word)) = (t, 0) := by
    rw [writeReg_evtSet hr, hall, State.forceEvt_one hb hm, ht]
  have hid : (t.hwSets k i (0 : Word).toNat).alerts k i ((0 : Word).getLsbD 16) 0 = t := by
    rw [State.hwSets_zero]
    exact State.alerts_none t k i 0
  exact (hdrRace_eq hr (x := ⟨BitVec.ofNat 32 (2 ^ b), 0, 0⟩) (arg := fun h => BitVec.ofNat 32 (2 ^ b) &&& ~~~h) hpg hg
    (by decide) (by decide) (State.hwBits_none s k i) hw (by rw [hid]; exact htq)).trans (congrArg _ hid)

theorem blkEvtSet_one (hcalm : s.calm k i (BitVec.ofNat 32 (2 ^ b))) (hm : bit (evtMask k) b = true) :
    ∃ t, exec (.blkEvtSet init n ⟨BitVec.ofNat 32 (2 ^ b), 0, 0⟩) s = .next t ∧
      ((s.rg (n * 0x1000 + 0x14)).getLsbD b = false → t.pg k i 0x14 = (s.rg (n * 0x1000 + 0x14)).toNat + 2 ^ b ∧
        t.rg (n * 0x1000 + 0x20) = s.rg (n * 0x1000 + 0x20)) ∧
      ((s.rg (n * 0x1000 + 0x14)).getLsbD b = true → t.rg (n * 0x1000 + 0x14) = s.rg (n * 0x1000 + 0x14) ∧
        t.mem = s.mem ∧ t.pg k i 0x20 = min (bits (s.pg k i 0x20) 15 0 + 1) 0xFFFF + b * 2 ^ 16) := by
  obtain ⟨rfl, hpage⟩ := pageNo_of_pageOf hpg
  have hb := lt_of_evtMask hm
  have hforced := State.forced_calm hcalm (b := b) (by rw [getLsbD_twoPow b b hb, decide_eq_true rfl])
  have hword := State.rg_evSet_word hr.1 k i b
  refine ⟨s.evSet k i b, exec_blkEvtSet_one hr hpg hg hb hm hforced
    ((HdrOnly.evSet hr.1 k i b).nothingToTake hpage hq), fun he => ⟨?_, ?_⟩, fun he => ?_⟩
  · rw [State.pg, hword, toNat_or_twoPow hb he]
  · exact State.rg_evSet_over hr.1 ((bit_toNat _ _).trans he)
  · have hset : bit (s.pg k i 0x14) b = true := (bit_toNat _ _).trans he
    exact ⟨hword.trans (or_twoPow_of_bit he), State.mem_evSet_again hset, State.pg_evSet_over hr.1 hset hb⟩

/-- A set of one bit by hardware beside a header write that leaves the event word. -/
theorem exec_hdrRace_one {x : HdrWrite} {arg : Word → Word} {m : Nat} (h0 : 0 < b) (hm : bit (evtMask k) b = true)
    (hoff : off < 0x1000) (hal : off % 4 = 0) (hx : x.hw = BitVec.ofNat 32 (2 ^ b))
    (hw : s.writeReg init k i off (arg (BitVec.ofNat 32 (2 ^ b))) = (t, m)) (ct : t.Canon) (ho : HdrOnly k i s t)
    (he : (t.rg (n * 0x1000 + 0x14)).getLsbD b = true) :
    ∃ z, s.hdrRace init n off arg x = .next z ∧ z.rg (n * 0x1000 + 0x14) = t.rg (n * 0x1000 + 0x14) ∧
      z.pg k i 0x20 = min (bits (t.pg k i 0x20) 15 0 + 1) 0xFFFF + b * 2 ^ 16 := by
  obtain ⟨rfl, hpage⟩ := pageNo_of_pageOf hpg
  have hb := lt_of_evtMask hm
  have hsets : t.hwSets k i (BitVec.ofNat 32 (2 ^ b)).toNat = t.evSet k i b :=
    (State.hwSets_one t k i hb).trans (if_neg (by omega))
  have hex := hdrRace_eq hr (x := x) (arg := arg) hpg hg hoff hal (by rw [hx]; exact State.hwBits_one h0 hm) hw
  rw [hsets] at hex
  obtain ⟨-, hto, -, htr, -⟩ := State.alerts_frame (k := k) (i := i) (State.canon_evSet ct k i b)
    ((BitVec.ofNat 32 (2 ^ b)).getLsbD 16) x.parts
  refine ⟨_, hex (((ho.trans (.evSet ct k i b)).trans hto).nothingToTake hpage hq), ?_, ?_⟩
  · rw [htr _ (by omega), State.rg_evSet_word ct, or_twoPow_of_bit he]
  · rw [State.pg, htr _ (by omega), ← State.pg, State.pg_evSet_over ct ((bit_toNat _ _).trans he) hb]

theorem blkEvtSet_beside (h0 : 0 < b) (hm : bit (evtMask k) b = true)
    (he : (s.rg (n * 0x1000 + 0x14)).getLsbD b = true) :
    ∃ t, exec (.blkEvtSet init n ⟨BitVec.ofNat 32 (2 ^ b), BitVec.ofNat 32 (2 ^ b), 0⟩) s = .next t ∧
      t.rg (n * 0x1000 + 0x14) = s.rg (n * 0x1000 + 0x14) ∧
      t.pg k i 0x20 = min (bits (s.pg k i 0x20) 15 0 + 1) 0xFFFF + b * 2 ^ 16 := by
  have hw : s.writeReg init k i 0x1C (BitVec.ofNat 32 (2 ^ b) &&& ~~~BitVec.ofNat 32 (2 ^ b)) = (s, 0) := by
    rw [writeReg_evtSet hr, BitVec.and_not_self]
    exact congrArg (·, 0) (State.forceEvt_zero s k i)
  exact exec_hdrRace_one hr hq hpg hg (x := ⟨_, _, 0⟩) (arg := fun h => BitVec.ofNat 32 (2 ^ b) &&& ~~~h) h0 hm
    (by decide)
    (by decide) rfl hw hr.1 .refl he

end

end Sys2Proof.Machine

end

section
/-! SUPPORT. Forced events that fault an owner, BLK_EVT_EN and CNT_CLR (R33, R37), and the header assembled. -/
set_option Elab.async false

namespace Sys2Proof.Machine

variable {s t : State} {init n i a b off ps u q : Nat} {k : PageKind} {v h hw w : Word}

/-! ## Forced events of units -/

/-- The event of a unit that only faults its owner. -/
structure OwnerOnly (k : PageKind) (i b u : Nat) : Prop where
  kind : (k = .mould ∧ 5 ≤ b ∧ b ≤ 7 ∧ u = i) ∨ (k = .cruc ∧ 3 ≤ b ∧ b ≤ 4 ∧ u = 256 + i)

theorem OwnerOnly.handles (h : OwnerOnly k i b u) (s : State) : ∃ z, s.handleEvt k i b = z.faultOwner u b ∧
    z.parts = s.parts ∧ z.maps = s.maps ∧ Moves [.fresh] s z ∧ (s.Canon → z.Canon) := by
  obtain ⟨rfl, h5, h7, rfl⟩ | ⟨rfl, h3, h4, rfl⟩ := h.kind
  · refine ⟨s.draw.2, ?_, rfl, rfl, Moves.draw s, fun c => { c with }⟩
    refine (if_pos (by omega)).trans ?_
    rw [State.clusterEvent, if_pos ⟨h5, h7⟩]
  · refine ⟨s, ?_, rfl, rfl, .refl, id⟩
    refine (if_pos (by omega)).trans ?_
    rw [State.tileEvent, if_pos h3]

theorem OwnerOnly.ne_host (h : OwnerOnly k i b u) : k ≠ .host ∧ b < 32 ∧ bit (evtMask k) b = true := by
  obtain ⟨rfl, h5, h7, -⟩ | ⟨rfl, h3, h4, -⟩ := h.kind
  · refine ⟨nofun, by omega, ?_⟩
    interval_cases b <;> rfl
  · refine ⟨nofun, by omega, ?_⟩
    interval_cases b <;> rfl

theorem blkEvtSet_faults (hr : Stated.Reaches s init) (hq : s.NothingToTake) (hpg : pageOf n = some (k, i))
    (hg : s.gated k i = false) (hu : OwnerOnly k i b u) (hen : bit (s.pg k i 0x18) b = true) (how : s.ownerOf u = q)
    (hlt : q < 8) (hrun : (s.part q).st = .running) :
    ∃ t, exec (.blkEvtSet init n ⟨BitVec.ofNat 32 (2 ^ b), 0, 0⟩) s = .next t ∧ (t.part q).st = .faulted := by
  obtain ⟨-, hpage⟩ := pageNo_of_pageOf hpg
  obtain ⟨hk, hb, hm⟩ := hu.ne_host
  have ce := State.canon_evSet hr.1 k i b
  have he := Moves.evSet (k := k) (i := i) (b := b) s hk
  have hrings := RingsSame.evSet hr.1 hk (pageNo_ne_host hk hpage.1) b
  obtain ⟨z, hz, hzp, hzm, hmz, hcz⟩ := hu.handles (s.evSet k i b)
  have hparts : z.parts = s.parts := hzp.trans he.parts
  have hmaps : z.maps = s.maps := hzm.trans he.maps
  obtain ⟨hmo, hpgs, hfault⟩ := State.faultOwner_frame (hcz ce) u b
  have hfinal : RingsSame z (z.faultOwner u b) :=
    ⟨congrArg Dev.state hmo.dev, hmo .taps (by decide), hmo.rings,
      fun o ho => hpgs .host 0 o (fun p hp => by simp only [pageNo]; omega) ho⟩
  have hquiet := ((hrings.trans (.ofMoves hmz)).trans hfinal).nothingToTake hq
  have howner : z.ownerOf u = q := (State.ownerOf_congr hparts (by rw [hmaps]) (by rw [hmaps]) u).trans how
  have hst : (z.part q).st.faultable = true := by
    rw [State.part_eq_of_parts hparts q, hrun]
    rfl
  refine ⟨z.faultOwner u b, exec_blkEvtSet_one hr hpg hg hb hm ((if_pos hen).trans hz) hquiet, ?_⟩
  rw [hfault q hlt howner hst]
  rfl

/-! ## BLK_EVT_EN -/

theorem HdrOnly.fireVector (c : s.Canon) (i vec : Nat) : HdrOnly .host i s (s.fireVector vec) := by
  refine ⟨(Moves.fireVector s vec).mono, fun a ha => State.rg_fireVector c vec ?_,
    fun o h1 h2 => congrArg BitVec.toNat (State.rg_fireVector c vec ?_)⟩
  · rintro rfl
    exact ha (pageNo_div .host 0 (by decide))
  · simp only [pageNo]
    omega

theorem State.canon_fireVector (c : s.Canon) (vec : Nat) : (s.fireVector vec).Canon := (Keeps.fireVector .refl).canon c

theorem State.writeEvtEn_frame (c : s.Canon) (k : PageKind) (i : Nat) (v : Word) :
    HdrOnly k i s (s.writeEvtEn k i v) ∧ (s.writeEvtEn k i v).rg (pageNo k i * 0x1000 + 0x18) = v := by
  have hset := HdrOnly.setPg c k i (off := 0x18) (by decide) (by decide) v.toNat
  have c₁ := State.canon_setPg c k i 0x18 v.toNat
  have hv : (s.setPg k i 0x18 v.toNat).rg (pageNo k i * 0x1000 + 0x18) = v := by
    rw [State.setPg, State.rg_setRg c, w32_toNat]
  unfold State.writeEvtEn
  dsimp only
  split
  case isTrue hk =>
    obtain ⟨rfl, -⟩ := hk
    refine ⟨hset.trans (HdrOnly.fireVector c₁ i 9), (State.rg_fireVector c₁ 9 (by omega)).trans hv⟩
  case isFalse => exact ⟨hset, hv⟩

theorem blkEvtEn_written (hr : Stated.Reaches s init) (hq : s.NothingToTake) (hpg : pageOf n = some (k, i))
    (hg : s.gated k i = false) (hfree : 10 ≤ init ∨ s.ownerLock k i = false) :
    ∃ t, exec (.blkEvtEnWrite init n v) s = .next t ∧ t.rg (n * 0x1000 + 0x18) = v := by
  obtain ⟨rfl, hpage⟩ := pageNo_of_pageOf hpg
  obtain ⟨ho, hv⟩ := State.writeEvtEn_frame hr.1 k i v
  exact ⟨_, hdrWrite_eq hr hpg hg (by decide) (by decide) (writeReg_evtEn hr hfree) (ho.nothingToTake hpage hq), hv⟩

/-- A locked page is not that of a management core. -/
theorem pageNo_ne_mgt (hlock : s.ownerLock k i = true) (hp : IsPage k i) : pageNo k i ≠ pageNo .mgt 0 := by
  cases k
  case part | mould | cruc | sprue | ladle => simp only [pageNo]; omega
  all_goals exact absurd hlock nofun

theorem pageNo_lt (hp : IsPage k i) : pageNo k i < 2 ^ 13 := by
  obtain ⟨hi, -⟩ := hp
  cases k <;> simp only [instBound] at hi <;> simp only [pageNo] <;> omega

theorem blkEvtEn_locked (hr : Stated.Reaches s init) (hq : s.NothingToTake) (hpg : pageOf n = some (k, i))
    (hg : s.gated k i = false) (hi : init = 0) (hlock : s.ownerLock k i = true) :
    ∃ t, exec (.blkEvtEnWrite init n v) s = .next t ∧ t.rg (n * 0x1000 + 0x18) = s.rg (n * 0x1000 + 0x18) ∧
      Stated.BusError s t 0 4 (n * 0x1000 + 0x18) := by
  obtain ⟨rfl, hpage⟩ := pageNo_of_pageOf hpg
  have hlt := pageNo_lt hpage
  subst hi
  refine ⟨s.busErr 0 4 (pageNo k i * 0x1000 + 0x18), hdrWrite_eq hr hpg hg (by decide) (by decide)
    (writeReg_locked hr (by decide) hlock (.inr rfl)) (nothingToTake_busErr hr.1 hq), ?_,
    busErr_busError hr.1 (.inl (by decide)) (by decide) (by omega)⟩
  exact BitVec.eq_of_toNat_eq (State.pg_evErr_ne hr.1 nofun (pageNo_ne_mgt hlock hpage) (by decide))

/-! ## CNT_CLR -/

theorem bit_or_eight (v : Word) (j : Nat) (hj : j < 32) :
    bit (v ||| 8).toNat j = (bit v.toNat j || decide (j = 3)) := by
  rw [bit_toNat, bit_toNat, BitVec.getLsbD_or]
  exact congrArg (v.getLsbD j || ·) (getLsbD_twoPow 3 j hj)

/-- The page once its count is cleared. -/
def State.countCleared (s : State) (k : PageKind) (i : Nat) : State := s.setPg k i 0x20 0

theorem writeCtrl_free (h1 : bit v.toNat 1 = false) : s.writeCtrl init k i (v ||| 8).toNat false =
    ((s.countCleared k i).setPg k i 0x0C (v.toNat % 2), 0) := by
  have h3 : bit (v ||| 8).toNat 3 = true := by rw [bit_or_eight v 3 (by decide)]; simp
  have h1' : bit (v ||| 8).toNat 1 = false := by rw [bit_or_eight v 1 (by decide), h1]; rfl
  have h0 : (v ||| 8).toNat % 2 = v.toNat % 2 := by
    rw [BitVec.toNat_or]
    have : (8 : Word).toNat = 8 := rfl
    rw [this]
    have := Nat.testBit_or v.toNat 8 0
    simp only [Nat.testBit_zero] at this
    rw [show decide (8 % 2 = 1) = false from rfl, Bool.or_false, decide_eq_decide] at this
    omega
  rw [State.writeCtrl, h3, if_pos rfl, if_neg nofun, h1', h0]
  rfl

theorem writeCtrl_locked (h1 : bit v.toNat 1 = false) (h0 : bit v.toNat 0 = bit (s.pg k i 0x0C) 0) (c : s.Canon) :
    s.writeCtrl init k i (v ||| 8).toNat true = (s.countCleared k i, 0) := by
  have h3 : bit (v ||| 8).toNat 3 = true := by rw [bit_or_eight v 3 (by decide)]; simp
  have h1' : bit (v ||| 8).toNat 1 = false := by rw [bit_or_eight v 1 (by decide), h1]; rfl
  have h0' : bit (v ||| 8).toNat 0 = bit ((s.setPg k i 0x20 0).pg k i 0x0C) 0 := by
    rw [bit_or_eight v 0 (by decide), h0, State.pg_setPg_ne c _ (by omega)]
    exact Bool.or_false _
  rw [State.writeCtrl, h3, if_pos rfl, if_pos rfl, if_neg (by rw [h0', h1']; simp)]
  rfl

section
variable (hr : Stated.Reaches s init) (hq : s.NothingToTake) (hpg : pageOf n = some (k, i)) (hg : s.gated k i = false)
  (h1 : bit v.toNat 1 = false)
include hr hq hpg hg h1

theorem cntClr_clears (hfree : 10 ≤ init ∨ s.ownerLock k i = false) :
    ∃ t, exec (.cntClr init n ⟨v, 0, 0⟩) s = .next t ∧ t.mem = s.mem ∧ t.pg k i 0x20 = 0 ∧
      t.pg k i 0x0C = v.toNat % 2 := by
  obtain ⟨-, hpage⟩ := pageNo_of_pageOf hpg
  have cc : (s.countCleared k i).Canon := State.canon_setPg hr.1 ..
  have ho : HdrOnly k i s ((s.countCleared k i).setPg k i 0x0C (v.toNat % 2)) :=
    (HdrOnly.setPg hr.1 k i (by decide) (by decide) 0).trans (.setPg cc k i (by decide) (by decide) _)
  have hw : s.writeReg init k i 0x0C (v ||| 8) = ((s.countCleared k i).setPg k i 0x0C (v.toNat % 2), 0) := by
    rw [writeReg_ctrl hr, notLocked_of_free hfree, writeCtrl_free h1]
  have hid (t : State) : (t.hwSets k i (0 : Word).toNat).alerts k i ((0 : Word).getLsbD 16) 0 = t := by
    rw [State.hwSets_zero]
    exact State.alerts_none t k i 0
  have hex := hdrRace_eq hr (x := ⟨v, 0, 0⟩) (arg := fun _ => v ||| 8) hpg hg (by decide) (by decide)
    (State.hwBits_none s k i) hw
  rw [hid] at hex
  refine ⟨_, hex (ho.nothingToTake hpage hq), rfl, ?_, ?_⟩
  · rw [State.pg_setPg_ne cc _ (by omega)]
    exact State.pg_setPg hr.1 ..
  · rw [State.pg_setPg cc]
    omega

theorem cntClr_beside (hfree : 10 ≤ init ∨ s.ownerLock k i = false) (h0 : 0 < b) (hm : bit (evtMask k) b = true)
    (he : (s.rg (n * 0x1000 + 0x14)).getLsbD b = true) :
    ∃ t, exec (.cntClr init n ⟨v, BitVec.ofNat 32 (2 ^ b), 0⟩) s = .next t ∧
      t.pg k i 0x20 = min (0 + 1) 0xFFFF + b * 2 ^ 16 := by
  have hno := (pageNo_of_pageOf hpg).1
  have cc : (s.countCleared k i).Canon := State.canon_setPg hr.1 ..
  have ho : HdrOnly k i s ((s.countCleared k i).setPg k i 0x0C (v.toNat % 2)) :=
    (HdrOnly.setPg hr.1 k i (by decide) (by decide) 0).trans (.setPg cc k i (by decide) (by decide) _)
  have hw : s.writeReg init k i 0x0C (v ||| 8) = ((s.countCleared k i).setPg k i 0x0C (v.toNat % 2), 0) := by
    rw [writeReg_ctrl hr, notLocked_of_free hfree, writeCtrl_free h1]
  have hset : (((s.countCleared k i).setPg k i 0x0C (v.toNat % 2)).rg (n * 0x1000 + 0x14)).getLsbD b = true := by
    rw [State.setPg, State.rg_setRg_ne cc _ (by omega), State.countCleared, State.setPg,
      State.rg_setRg_ne hr.1 _ (by omega), he]
  have hzero : ((s.countCleared k i).setPg k i 0x0C (v.toNat % 2)).pg k i 0x20 = 0 := by
    rw [State.pg_setPg_ne cc _ (by omega)]
    exact State.pg_setPg hr.1 ..
  obtain ⟨t, ht, -, hcount⟩ := exec_hdrRace_one hr hq hpg hg (x := ⟨v, _, 0⟩) (arg := fun _ => v ||| 8) h0 hm
    (by decide)
    (by decide) rfl hw (State.canon_setPg cc ..) ho hset
  refine ⟨t, ht, hcount.trans ?_⟩
  rw [hzero]
  rfl

theorem cntClr_locked (hi : init = 0) (hlock : s.ownerLock k i = true) (h0 : bit v.toNat 0 = bit (s.pg k i 0x0C) 0) :
    ∃ t, exec (.cntClr init n ⟨v, 0, 0⟩) s = .next t ∧ t.pg k i 0x20 = 0 ∧ t.pg k i 0x0C = s.pg k i 0x0C ∧
      bit (t.pg .mgt 0 0x14) 1 = bit (s.pg .mgt 0 0x14) 1 := by
  obtain ⟨-, hpage⟩ := pageNo_of_pageOf hpg
  subst hi
  have hw : s.writeReg 0 k i 0x0C (v ||| 8) = (s.countCleared k i, 0) := by
    rw [writeReg_ctrl hr, hlock]
    exact writeCtrl_locked h1 h0 hr.1
  have hid (t : State) : (t.hwSets k i (0 : Word).toNat).alerts k i ((0 : Word).getLsbD 16) 0 = t := by
    rw [State.hwSets_zero]
    exact State.alerts_none t k i 0
  have hex := hdrRace_eq hr (x := ⟨v, 0, 0⟩) (arg := fun _ => v ||| 8) hpg hg (by decide) (by decide)
    (State.hwBits_none s k i) hw
  rw [hid] at hex
  refine ⟨_, hex ((HdrOnly.setPg hr.1 k i (by decide) (by decide) 0).nothingToTake hpage hq), State.pg_setPg hr.1 ..,
    State.pg_setPg_ne hr.1 _ (by omega), ?_⟩
  rw [State.countCleared, State.pg_setPg_ne hr.1 _ (by omega)]

end

theorem eventsAct : Stated.EventsAct := by
  intro s init n ps v hw k i ⟨hr, hq⟩ hpg hg p e h counted c free calm
  have hno := (pageNo_of_pageOf hpg).1
  have hcalm : calm → s.calm k i v := by
    intro hc
    rw [State.calm, hno]
    exact hc
  refine ⟨blkEvtClear_acts hr hq hpg hg rfl, fun hc => blkEvtSet_sets hr hq hpg hg rfl (hcalm hc), fun b hv hc hm => ?_,
    fun b h0 _ hm he => blkEvtSet_beside hr hq hpg hg h0 hm he, fun b u q hv hen hu how hlt hrun => ?_,
    fun hf => blkEvtEn_written hr hq hpg hg hf, fun hi hl => blkEvtEn_locked hr hq hpg hg hi hl,
    fun h1 hf => cntClr_clears hr hq hpg hg h1 hf, fun h1 hf b h0 _ hm he => cntClr_beside hr hq hpg hg h1 hf h0 hm he,
    fun h1 hi hl h0 => cntClr_locked hr hq hpg hg h1 hi hl h0⟩
  · have hc' := hcalm hc
    rw [hv] at hc' ⊢
    exact blkEvtSet_one hr hq hpg hg hc' hm
  · rw [hv]
    exact blkEvtSet_faults hr hq hpg hg ⟨hu⟩ hen how hlt hrun

end Sys2Proof.Machine

end

section
/-! SUPPORT. Soft resets and the clearing of a page's counters (R24, R34), and the accesses assembled. -/
set_option Elab.async false

namespace Sys2Proof.Machine

variable {s t : State} {init n i a b off : Nat} {k : PageKind} {v : Word}

/-! ## Registers of a filtered table -/

/-- A read of a table whose keys rise, after some of its keys are dropped. -/
theorem tget_filter_rising {α : Type} (d : Nat → α) (e : α) {l : Tbl α} (q : Nat → Bool) (n : Nat) (h : Rising d l) :
    tget e (l.filter fun x => q x.1) n = if q n then tget e l n else e := by
  induction l with
  | nil => simp [tget]
  | cons x r ih =>
    obtain ⟨j, w⟩ := x
    obtain ⟨-, hlow, hr⟩ := (rising_cons d j w r).mp h
    have hbelow (hn : n ≤ j) : tget e (r.filter fun x => q x.1) n = e :=
      tget_below e fun y hy => Nat.lt_of_le_of_lt hn (hlow y (List.mem_of_mem_filter hy))
    by_cases hq : q j = true
    · rw [List.filter_cons_of_pos (by exact hq), tget, tget]
      by_cases hj : n = j
      · rw [if_pos hj, if_pos hj, hj, if_pos hq]
      · rw [if_neg hj, if_neg hj, ih hr]
        by_cases hlt : n < j
        · rw [if_pos hlt, if_pos hlt, ite_self]
        · rw [if_neg hlt, if_neg hlt]
    · rw [List.filter_cons_of_neg (by exact hq), tget]
      by_cases hj : n = j
      · rw [hbelow hj.le, hj, if_neg hq]
      · rw [if_neg hj]
        by_cases hlt : n < j
        · rw [hbelow hlt.le, if_pos hlt, ite_self]
        · rw [if_neg hlt, ih hr]

/-! ## What a soft reset does to the logic of a block -/

/-- What stays as it was while the logic of a block goes back to its reset state. -/
structure SoftSame (k : PageKind) (s t : State) : Prop where
  mem : t.mem = s.mem
  regs : t.bus.regs = s.bus.regs
  state : t.dev.state = s.dev.state
  taps : t.taps = s.taps
  rings : k ≠ .host → t.rings = s.rings
  parts : k ≠ .part → k ≠ .ladle → t.parts = s.parts

theorem SoftSame.ofMoves {l : List Field} (h : Moves l s t)
    (hl : .mem ∉ l ∧ .bus ∉ l ∧ .dev ∉ l ∧ .taps ∉ l := by decide)
    (hr : k ≠ .host → .rings ∉ l := by decide) (hp : k ≠ .part → k ≠ .ladle → .parts ∉ l := by decide) :
    SoftSame k s t := by
  obtain ⟨hm, hb, hd, ht⟩ := hl
  exact ⟨h .mem hm, (congrArg Bus.regs (h .bus hb :) :), (congrArg Dev.state (h .dev hd :) :), h .taps ht,
    fun hk => h .rings (hr hk), fun h1 h2 => h .parts (hp h1 h2)⟩

theorem Moves.setRings (s : State) (x : Tbl Ring) : Moves [.rings] s (s.setRings x) := fun f hf => by
  cases f with
  | rings => exact absurd List.mem_cons_self hf
  | _ => rfl

theorem Moves.setStack (s : State) (m : Nat) (x : Stack) : Moves [.stk] s (s.setStack m x) := Moves.setStk s _

theorem Moves.fumLeave (s : State) (m p c : Nat) : Moves [.stk] s (s.fumLeave m p c) := fun f hf => by
  cases f with
  | stk => exact absurd List.mem_cons_self hf
  | _ => rfl

theorem softLogic_same (s : State) (k : PageKind) (i : Nat) : SoftSame k s (s.softLogic k i) := by
  cases k with
  | glb => exact ⟨rfl, rfl, rfl, rfl, fun _ => rfl, fun _ _ => rfl⟩
  | mgt => exact .ofMoves (Moves.modDie s _ _)
  | host => exact .ofMoves (Moves.setRings s _)
  | otp => exact .ofMoves (((Moves.draw s).mono).andThen (Moves.modDie _ i _) : Moves [.fresh, .west, .east] s _)
  | dbg => exact .ofMoves (Moves.setDbg s _)
  | pyro =>
    refine .ofMoves (?_ : Moves [.west, .east, .stk, .health] s _)
    exact (((Moves.modDie s i _).mono.andThen (Moves.closeStacks _ i false)).andThen (Moves.setHealth _ _)).andThen
      (Moves.setHealth _ _)
  | clk => exact .ofMoves (.ite .refl (Moves.modDie s _ _))
  | mould => exact .ofMoves (Moves.setUnit s _ _)
  | cruc => exact .ofMoves (Moves.setUnit s _ _)
  | sprue => exact .ofMoves (Moves.setSprue s _)
  | ladle => exact .ofMoves (Moves.forN (fun p y => Moves.setPart y p _) 8 s)
  | port => exact .ofMoves ((Moves.setPort s i _).andThen (Moves.setFabric _ _))
  | stack => exact .ofMoves (Moves.setStack s _ _)
  | d2d => exact .ofMoves (Moves.modDie s _ _)
  | part => exact .ofMoves (Moves.setPart s _ _)
  | fum =>
    refine .ofMoves (?_ : Moves [.stk] s _)
    unfold State.softLogic
    dsimp only
    split
    · split
      · exact Moves.fumLeave s _ _ _
      · exact .refl
    · exact .refl

/-- A register outside the page, or its BLK_SCRATCH. -/
def keptReg (k : PageKind) (i a : Nat) : Bool :=
  decide (a < pageNo k i * 0x1000) || decide (pageNo k i * 0x1000 + 0x1000 ≤ a) || a == pageNo k i * 0x1000 + 0x38

theorem keptReg_in (ho : off < 0x1000) (h38 : off ≠ 0x38) : keptReg k i (pageNo k i * 0x1000 + off) = false := by
  simp only [keptReg, Bool.or_eq_false_iff, decide_eq_false_iff_not, beq_eq_false_iff_ne]
  omega

theorem keptReg_scratch : keptReg k i (pageNo k i * 0x1000 + 0x38) = true := by simp [keptReg]

theorem keptReg_out (ha : a / 0x1000 ≠ pageNo k i) : keptReg k i a = true := by
  simp only [keptReg, Bool.or_eq_true, decide_eq_true_eq, beq_iff_eq]
  omega

/-- A ring is not enabled after the reset of the host's page. -/
theorem ringEn_reset : ∀ r, r < 9 → bit (resetAt (pageNo .host 0 * 0x1000 + ringOff r 0x10)).toNat 16 = false := by
  decide

theorem settle_same (s : State) (k : PageKind) (i : Nat) : SoftSame k s (s.settle k i) := by
  unfold State.settle
  split
  · exact .ofMoves (l := []) .refl (hr := fun _ => nofun) (hp := fun _ _ => nofun)
  · exact ⟨rfl, rfl, rfl, rfl, fun _ => rfl, fun _ _ => rfl⟩

theorem SoftSame.trans {u : State} (h : SoftSame k s t) (h' : SoftSame k t u) : SoftSame k s u :=
  ⟨h'.mem.trans h.mem, h'.regs.trans h.regs, h'.state.trans h.state, h'.taps.trans h.taps,
    fun hk => (h'.rings hk).trans (h.rings hk), fun h1 h2 => (h'.parts h1 h2).trans (h.parts h1 h2)⟩

/-- The registers of a page go back to their reset values, those kept stay. -/
theorem softReset_frame (c : s.Canon) (k : PageKind) (i : Nat) :
    (s.softReset k i).mem = s.mem ∧ (s.softReset k i).dev.state = s.dev.state ∧ (s.softReset k i).taps = s.taps ∧
      (k ≠ .host → (s.softReset k i).rings = s.rings) ∧
      (k ≠ .part → k ≠ .ladle → (s.softReset k i).parts = s.parts) ∧
      ∀ a, (s.softReset k i).rg a = if keptReg k i a then s.rg a else resetAt a := by
  obtain ⟨x, hx, hfield⟩ : ∃ x : State, s.softReset k i = (x.softLogic k i).settle k i ∧
      x.mem = s.mem ∧ x.dev = s.dev ∧ x.taps = s.taps ∧ x.rings = s.rings ∧ x.parts = s.parts ∧
      x.bus.regs = s.bus.regs.filter fun e => keptReg k i e.1 :=
    ⟨_, rfl, rfl, rfl, rfl, rfl, rfl, rfl⟩
  obtain ⟨hmem, hdev, htaps, hrings, hparts, hregs⟩ := hfield
  have hs := (softLogic_same x k i).trans (settle_same _ k i)
  rw [← hx] at hs
  refine ⟨hs.mem.trans hmem, hs.state.trans (congrArg Dev.state hdev), hs.taps.trans htaps,
    fun hk => (hs.rings hk).trans hrings, fun h1 h2 => (hs.parts h1 h2).trans hparts, fun a => ?_⟩
  rw [State.rg, hs.regs, hregs]
  exact tget_filter_rising resetAt (resetAt a) (keptReg k i) a c.bus.regs

/-- After a soft reset no ring has a message to take that had none before. -/
theorem softReset_quiet (c : s.Canon) (hp : IsPage k i) (hq : s.NothingToTake) : (s.softReset k i).NothingToTake := by
  obtain ⟨-, hstate, htaps, hrings, -, hrg⟩ := softReset_frame c k i
  by_cases hk : k = .host
  · subst hk
    intro r hr
    left
    have hen : (s.softReset .host i).ringEn r = false := by
      have hreset : (s.softReset .host i).ringRg r 0x10 =
          (resetAt (pageNo .host 0 * 0x1000 + ringOff r 0x10)).toNat := by
        rw [State.ringRg, State.pg, hrg]
        refine congrArg BitVec.toNat (if_neg ?_)
        rw [show pageNo .host 0 = pageNo .host i from rfl,
          keptReg_in (by unfold ringOff; omega) (by unfold ringOff; omega)]
        exact nofun
      rw [State.ringEn, hreset]
      exact ringEn_reset r hr
    simp [State.served, hen]
  · refine State.nothingToTake_of_same hq hstate htaps
      (fun r => congrArg (fun x : Tbl Ring => (tget Ring.reset x r).stopped) (hrings hk)) fun o ho => ?_
    have hne := pageNo_ne_host hk hp.1
    exact congrArg BitVec.toNat ((hrg _).trans (if_pos (keptReg_out (by rwa [pageNo_div _ _ ho]))))

/-! ## SRST -/

theorem bit_or_two (v : Word) : bit (v ||| 2).toNat 1 = true := by
  rw [bit_toNat, BitVec.getLsbD_or]
  exact (congrArg (v.getLsbD 1 || ·) (getLsbD_twoPow 1 1 (by decide))).trans (Bool.or_true _)

/-- A soft reset comes after the other fields of BLK_CTRL are written, which it takes back. -/
theorem writeCtrl_resets (c : s.Canon) : ∃ x :
    State, s.writeCtrl init k i (v ||| 2).toNat false = (x.softReset k i, 0) ∧
    x.Canon ∧ BusOnly s x ∧ HdrOnly k i s x ∧
      x.rg (pageNo k i * 0x1000 + 0x38) = s.rg (pageNo k i * 0x1000 + 0x38) := by
  have hfirst : ∃ y : State, y = (if bit (v ||| 2).toNat 3 then s.setPg k i 0x20 0 else s) ∧ y.Canon ∧ BusOnly s y ∧
      HdrOnly k i s y ∧ y.rg (pageNo k i * 0x1000 + 0x38) = s.rg (pageNo k i * 0x1000 + 0x38) := by
    refine ⟨_, rfl, ?_⟩
    split
    · exact ⟨State.canon_setPg c .., .setPg, .setPg c k i (by decide) (by decide) 0, State.rg_setRg_ne c _ (by omega)⟩
    · exact ⟨c, .refl, .refl, rfl⟩
  obtain ⟨y, hy, cy, hb, ho, h38⟩ := hfirst
  refine ⟨y.setPg k i 0x0C ((v ||| 2).toNat % 2), ?_, State.canon_setPg cy .., hb.trans .setPg,
    ho.trans (.setPg cy k i (by decide) (by decide) _), (State.rg_setRg_ne cy _ (by omega)).trans h38⟩
  rw [State.writeCtrl, ← hy, if_neg nofun, bit_or_two]
  rfl

section
variable (hr : Stated.Reaches s init) (hq : s.NothingToTake) (hpg : pageOf n = some (k, i)) (hg : s.gated k i = false)
  (hfree : 10 ≤ init ∨ s.ownerLock k i = false)
include hr hq hpg hg hfree

theorem srst_resets : ∃ t, exec (.srst init n v) s = .next t ∧ t.mem = s.mem ∧
    (k ≠ .part → k ≠ .ladle → t.parts = s.parts) ∧ t.rg (n * 0x1000 + 0x38) = s.rg (n * 0x1000 + 0x38) ∧
    (∀ o, o < 0x1000 → o ≠ 0x38 → t.rg (n * 0x1000 + o) = resetAt (n * 0x1000 + o)) ∧
    ∀ a, a / 0x1000 ≠ n → t.rg a = s.rg a := by
  obtain ⟨rfl, hpage⟩ := pageNo_of_pageOf hpg
  obtain ⟨x, hx, cx, hb, ho, h38⟩ := writeCtrl_resets (init := init) (k := k) (i := i) (v := v) hr.1
  obtain ⟨hmem, -, -, -, hparts, hrg⟩ := softReset_frame cx k i
  have hw : s.writeReg init k i 0x0C (v ||| 2) = (x.softReset k i, 0) := by
    rw [writeReg_ctrl hr, notLocked_of_free hfree, hx]
  refine ⟨x.softReset k i, hdrWrite_eq hr hpg hg (by decide) (by decide) hw
    (softReset_quiet cx hpage (ho.nothingToTake hpage hq)),
    hmem.trans hb.mem, fun h1 h2 => (hparts h1 h2).trans hb.parts, ?_, fun o hlt hne => ?_, fun a ha => ?_⟩
  · rw [hrg, if_pos keptReg_scratch, h38]
  · rw [hrg, keptReg_in hlt hne]
    rfl
  · rw [hrg, if_pos (keptReg_out ha), ho.page a ha]

/-! ## PERF_CLR -/

omit hr hq hpg hg hfree in
theorem perfRegs_kinds {o : Nat} {l : List Nat} (h : perfRegs k = some (o, l)) :
    k ≠ .host ∧ 0x40 ≤ o ∧ o < 0x1000 ∧ o % 4 = 0 ∧ ∀ x ∈ l, x < 0x1000 := by
  cases k
  case d2d | cruc | mould | sprue | stack | fum | ladle | port =>
    obtain ⟨rfl, rfl⟩ := Prod.mk.inj (Option.some.inj h)
    exact ⟨nofun, by decide⟩
  all_goals exact absurd h nofun

omit hr hq hpg hg hfree in
theorem writeBlock_perf {o : Nat} {l : List Nat} (h : perfRegs k = some (o, l)) (hv : v.getLsbD 0 = true) :
    s.writeBlock init k i o v = ((s.zeroPgs k i l).settle k i, 0) := by
  have hbit : bit v.toNat 0 = true := (bit_toNat v 0).trans hv
  cases k
  case d2d | cruc | mould | sprue | stack | fum | ladle | port =>
    obtain ⟨rfl, rfl⟩ := Prod.mk.inj (Option.some.inj h)
    exact Eq.trans (b := ((if bit v.toNat 0 then (s.zeroPgs _ i _).settle _ i else s), 0)) rfl
      (congrArg (·, 0) (if_pos hbit))
  all_goals exact absurd h nofun

omit hr hq hpg hg hfree in
theorem rg_settle (s : State) (k : PageKind) (i a : Nat) : (s.settle k i).rg a = s.rg a := by
  rw [State.rg, (settle_same s k i).regs, ← State.rg]

theorem perfClr_clears {o : Nat} {l : List Nat} (h : perfRegs k = some (o, l)) (hv : v.getLsbD 0 = true) :
    ∃ t, exec (.perfClr init n v) s = .next t ∧ t.mem = s.mem ∧ t.parts = s.parts ∧ (∀ x ∈ l, t.pg k i x = 0) ∧
      ∀ a, a / 0x1000 ≠ n → t.rg a = s.rg a := by
  obtain ⟨rfl, hpage⟩ := pageNo_of_pageOf hpg
  obtain ⟨hk, hlo, hhi, hal, hl⟩ := perfRegs_kinds h
  obtain ⟨cz, hz, hrg⟩ := State.zeroPgs_rg hr.1 k i l
  have hb : BusOnly s ((s.zeroPgs k i l).settle k i) := hz.trans (.settle _ k i)
  have hout (a : Nat) (ha : a / 0x1000 ≠ pageNo k i) : ((s.zeroPgs k i l).settle k i).rg a = s.rg a := by
    rw [rg_settle, hrg, if_neg]
    rintro ⟨x, hx, rfl⟩
    exact ha (pageNo_div k i (hl x hx))
  have hquiet : ((s.zeroPgs k i l).settle k i).NothingToTake := State.nothingToTake_of_busOnly hq hb fun x hx =>
    congrArg BitVec.toNat (hout _ (by rw [pageNo_div _ _ hx]; exact pageNo_ne_host hk hpage.1))
  have hlock : init ≤ 1 → s.ownerLock k i = false := fun hi => hfree.resolve_left (by omega)
  have hw : s.writeReg init k i o v = ((s.zeroPgs k i l).settle k i, 0) := by
    rw [State.writeReg_block hr hlock hlo, writeBlock_perf h hv]
  have hex : exec (.perfClr init (pageNo k i) v) s = s.hdrWrite init (pageNo k i) o v := by
    change execPerfClr init (pageNo k i) v s = _
    rw [execPerfClr, hpg, Option.bind_some, h]
  refine ⟨_, hex.trans (hdrWrite_eq hr hpg hg hhi hal hw hquiet), hb.mem, hb.parts, fun x hx => ?_, hout⟩
  rw [State.pg, rg_settle, hrg, if_pos ⟨x, hx, rfl⟩]
  rfl

end

theorem blocksReset : Stated.BlocksReset := fun _ _ _ _ _ _ ⟨hr, hq⟩ hpg hg hfree =>
  ⟨srst_resets hr hq hpg hg hfree, fun _ _ h hv => perfClr_clears hr hq hpg hg hfree h hv⟩

end Sys2Proof.Machine

open Sys2Proof Sys2Proof.Machine in
/-- Settles O55: accesses reach their register or end in their bus error, the header's events act, and a soft reset
takes the page's registers back. -/
theorem registerAccesses : Obligations.RegisterAccesses := ⟨accessesAreServed, eventsAct, blocksReset⟩

end
